-- ==== Sys2Proof/Word.lean ====
section
/-! DEFINITION. The word types of the IBX-12 and the sparse tables its state is made of. -/

namespace Sys2Proof

/-- One byte. -/
abbrev Byte := BitVec 8

/-- One mailbox, register or S-core word (R306, R108). -/
abbrev Word := BitVec 32

/-- A 64-bit register (file 25, R490). -/
abbrev U64 := BitVec 64

/-- A 128-bit micro-operation, slot-table entry or random draw (R80, R139, R261). -/
abbrev U128 := BitVec 128

/-- A table keyed by number, in one canonical form: keys strictly rising, no entry equal to what an
unlisted key reads as.  The reading and writing of one entry are in Machine/Sparse.lean. -/
abbrev Sparse (α : Type) := List (Nat × α)

/-- Bytes of a memory by address: a sparse table whose unlisted addresses read as zero. -/
abbrev Memory := List (Nat × Byte)

end Sys2Proof
end

