-- ==== Sys2Proof/Syntax.lean ====
section
/-! DEFINITION. The commands of the block: one constructor of Instr for each row of the spec's table of operations
and events, with what arrives from outside at that step as its operands. -/

namespace Sys2Proof

/-- One corrupted symbol of a code word: which symbol and the bits that differ (R186, R204).  An operand of the
commands that read a memory: what the array or the bond contacts have corrupted since the last access. -/
structure SymErr where
  symbol : Nat
  flip : Byte
deriving DecidableEq, Repr

/-- The two widths that the sides of one crossing offer when it trains (R149). -/
structure Offer where
  dieA : Nat
  dieB : Nat
  sideA : Nat
  sideB : Nat
deriving DecidableEq, Repr

/-- A repair entry of the field map or the fused map (R416). -/
structure RepairEntry where
  kind : Nat
  unit : Nat
  source : Nat
  loc : Nat
deriving DecidableEq, Repr

/-- The condition that a cluster meets: three check-bit errors within 1 s, a parity error, a slot-table mismatch (R422). -/
inductive ClusterFault where
  | checkBits | parity | slotTable
deriving DecidableEq, Repr

/-- The condition that a half-die meets: its arithmetic PLL loses lock, its power stage reports a rail fault (R422). -/
inductive HalfDieFault where
  | pll | rail
deriving DecidableEq, Repr

/-- A unit that is fenced in service, with the condition it meets; of a culvert router the DEV_TIME of the check-bit errors
on its ports (R422). -/
inductive FencedUnit where
  | cluster (die cluster : Nat) (fault : ClusterFault := .parity)
  | culvert (die physX physRow : Nat) (errors : List Nat := [])
  | halfDie (h : Nat) (fault : HalfDieFault := .rail)
deriving DecidableEq, Repr

/-- Who makes an access to device memory (R178, R200). -/
inductive Requester where
  | dma (ch : Nat)
  | host
  | link (n tag : Nat)
deriving DecidableEq, Repr

/-- An access to a device address: a read of `len` bytes, or a write of bytes (R178, R200). -/
inductive Access where
  | read (len : Nat)
  | write (bytes : List Byte)
deriving DecidableEq, Repr

/-- Capabilities of configuration space, those of the table of R294 that are absent included. -/
inductive Capability where
  | msix | sriov | aer | acs | readiness | resizableBar | l1pm | flit
  | msi | ecrc | atomicOp | ats | pasid | pageRequest | doe | ide
deriving DecidableEq, Repr

/-- A value that configuration space holds (R294, R296, R297), by its name. -/
inductive ConfigItem where
  | classCode | interruptPin | linkRates | maxWidth | maxPayload | maxReadRequest | tagBits | peerPaths
  | totalVfs | firstVfOffset | vfStride | vfDeviceId | vfPageSize
  /-- times of the Readiness Time Reporting capability, ms -/
  | resetTime | dlUpTime | flrTime
  /-- doubleword n of the function's BARs, and of the VF BARs in the SR-IOV capability -/
  | bar (n : Nat) | vfBar (n : Nat)
  | present (c : Capability)
  /-- link power: L0p, ASPM L0s and L1, L1 PM substates L1.1 and L1.2 -/
  | l0p | aspmL0s | aspmL1Support | l11 | l12
  /-- whether BAR4 can be 2^`log2` bytes -/
  | bar4Supports (log2 : Nat)
deriving DecidableEq, Repr

/-- What the host asks of configuration space (R294, R296, R297, R303, R305); `read` reads the Vendor and Device ID. -/
inductive ConfigReq where
  | read
  | readItem (item : ConfigItem)
  | barWrite (n value : Nat)
  | vfBarWrite (n value : Nat)
  | memorySpace (on : Bool)
  | busMaster (on : Bool)
  | msixEnable (on : Bool)
  | vfEnable (on : Bool)
  | bar4Size (log2 : Nat)
  | aspmL1 (on : Bool)
deriving DecidableEq, Repr

/-- What the trainings of a bring-up find (R412, R413): at a cold step 8 of every interface, at a warm step 5 of those whose
stored setting fails its verification.  Settings are numbers to the model. -/
structure Training where
  /-- edge channels: the channel, its setting, and the lines that could not meet their timing -/
  edges : List (Nat × Nat × List Nat) := []
  /-- optical ports: the port, its setting, the wavelengths in use -/
  ports : List (Nat × Nat × Nat) := []
  /-- dynamic parts of the crossings, numbered lower die × 16 + higher die: setting and culvert share -/
  crossings : List (Nat × Nat × Nat) := []
  /-- culvert links: the link and its setting -/
  culverts : List (Nat × Nat) := []
  /-- scheduled parts of the crossings: what each side offers -/
  widths : List Offer := []
deriving DecidableEq, Repr

/-- What the cold tests and trainings of a bring-up find (R406-R415). -/
structure BringUp where
  /-- strap words of the compute dies, base dies and edge base dies, in position order (R414) -/
  straps : List Byte
  /-- the board's SLOT_ID pins (R483) -/
  slotId : Nat
  /-- the power stage of a management, culvert or PCIe rail that did not acknowledge (R415 RAIL) -/
  railFault : Option Nat
  /-- the base die that failed its tests (R415 BASE_DIE) -/
  baseDieFault : Option Nat
  /-- defects that the cold tests find, repaired or fenced (R409) -/
  defects : List RepairEntry
  /-- a culvert fault at a junction, which no entry can bypass (R415 CULVERT, R419) -/
  culvertFault : Bool
  /-- the conditions of R385 are met when a cold bring-up reaches step 8 (R407) -/
  coolantMet : Bool
  /-- a die is under cold hold when a cold bring-up reaches step 9 (R407) -/
  dieCold : Bool
  /-- duration in ms (BOOT_STATUS ELAPSED_MS) -/
  elapsedMs : Nat
  /-- the 32 B from the entropy source for the attestation key (R452) -/
  entropy : List Byte
  /-- a flash read error met by the boot ROM (R455 FLASH) -/
  flashError : Bool
  training : Training := {}
deriving DecidableEq, Repr

/-- Readings of one sample of every sensor, in thousandths of a degree C (R369, R370).
`none` is an open or shorted sensor: outside its plausibility range. -/
structure Readings where
  /-- 12 compute dies × 96 diodes: pair p of die d has readings 96 d + 2 p and 96 d + 2 p + 1 -/
  logic : List Int
  /-- 12 dies × 4 layers × 12 sensors: pair p of layer l has readings (4 d + l) × 12 + 2 p and the next -/
  dram : List Int
  /-- 4 base dies × 16 sensors -/
  base : List Int
  /-- 32 edge stacks × 4 sensors -/
  stack : List Int
  inlet : Int
  outlet : Int
deriving DecidableEq, Repr

/-- Kinds of the ledger's counters (R346). -/
inductive CounterKind where
  | module | halfDie | ucm | edge | link | base | standing | polder
deriving DecidableEq, Repr

/-- Telemetry of one millisecond of one power-stage rail: its measured energy, and the ledger's estimate of what no
activity report covers (refresh, idle draw), in nJ (R348). -/
structure RailSample where
  rail : Nat
  telemetry : Nat
  estimated : Nat
deriving DecidableEq, Repr

/-- The surroundings and rails measured in one telemetry millisecond (R348, R356). -/
structure Telemetry where
  rails : List RailSample
  /-- VIN and the lowest VIN of the last 1 ms, in mV -/
  vin : Nat
  vinMin : Nat
  /-- input current, 0.1 A units -/
  iin : Nat
deriving DecidableEq, Repr

/-- A packet of a Melieko DATA flit (R434). -/
structure Packet where
  type : Nat
  len : Nat
  status : Nat
  tag : Nat
  addr : Nat
  data : List Byte
deriving DecidableEq, Repr

/-- An error in a received codeword: the lane, the place among that lane's symbols of the codeword, and what is added to
the 10-bit symbol (R433). -/
structure LaneErr where
  lane : Nat
  place : Nat
  flip : BitVec 10
deriving DecidableEq, Repr

/-- A flit as its sender made it: SEQ, ACK and the reserved bits of the link control field, and its 640 bytes (R433, R434). -/
structure Flit where
  seq : Byte
  ack : Byte
  spare : Nat
  bytes : List Byte
deriving DecidableEq, Repr

/-- The identity and offers an IDENT flit carries (R434, R439). -/
structure Ident where
  fabricId : Word
  slotId : Nat
  linkNo : Nat
  widths : Nat
  rates : Nat
deriving DecidableEq, Repr

/-- What one link finds in training: the lanes that passed on this side and on the partner's, as masks, symbol error ratio
measured at 212.5 Gb/s above 2 × 10^-4, one-way latency in ns (R430-R432). -/
structure LinkTrial where
  partner : Bool
  own : Nat
  theirs : Nat
  tooNoisy : Bool
  latency : Nat
  ident : Ident
deriving DecidableEq, Repr

/-- A debug response (R464). -/
structure DebugResponse where
  scope : Word
  keyIndex : Nat
  publicKey : List Byte
  signature : List Byte
deriving DecidableEq, Repr

/-- One port's result in stand-alone test (R427). -/
structure PortReport where
  port : Nat
  width : Nat
  delay : Nat
  margin : Nat
deriving DecidableEq, Repr

/-- A bad SMBus transaction (R488): a command code, bad unless it is a command's, or what is wrong with one. -/
inductive SmbusBad where
  | code (c : Nat)
  | writeToRead | byteCount | pec
deriving DecidableEq, Repr

/-- The commands: one constructor for each row of spec/opcode_table.json, in its order. `f` is a function (0 the PF,
1-24 a VF), `p` a polder, `ch` a DMA channel, `cl` a global cluster number die × 1344 + index, `core` a global
logical core number (R14), `n` a link, `e` an edge channel or stack as the name says. -/
inductive Instr where
  | hello (f : Nat)
  | getStatus (f : Nat)
  | polderCreate (f : Nat) (offers : List Offer)
  | polderCreateComplete (p : Nat)
  | polderDestroy (f : Nat)
  | polderReset (f : Nat) (offers : List Offer)
  | polderResetComplete (p : Nat)
  | scheduleLoad (f : Nat)
  | scheduleUnload (f : Nat)
  | jobRun (f : Nat)
  | jobCancel (f : Nat)
  | contextSave (f : Nat)
  | contextSaveCopy (p : Nat)
  | contextRestore (f : Nat)
  | memInitUcm (f : Nat)
  | memInitEdge (f : Nat)
  | memInitBasin (f : Nat)
  | nearBankModeProcessor (f : Nat)
  | nearBankModeMemory (f : Nat)
  | kvSpaceConfig (f : Nat)
  | capSet (f : Nat)
  | quotaSet (f : Nat)
  | ledgerRead (f : Nat)
  | thermalPolicySet (f : Nat)
  | loopBoundsSet (f : Nat)
  | linkEnable (f : Nat)
  | linkDisable (f : Nat)
  | linkIdentity (f : Nat)
  | linkWindow (f : Nat)
  | linkInbound (f : Nat)
  | linkTimesyncConfig (f : Nat)
  | linkStatus (f : Nat)
  | attest (f : Nat)
  | identityCertRead (f : Nat)
  | firmwareStage (f : Nat)
  | firmwareCommit (f : Nat) (flashOk : Bool)
  | logRead (f : Nat)
  | repairStage (f : Nat)
  | repairCommit (f : Nat)
  | diagWarmReset (f : Nat)
  | halfDieTest (f : Nat) (defects : List RepairEntry)
  | edgeRetrain (f : Nat)
  | badOpcode (f : Nat)
  | partialMessageTimeout (f : Nat)
  | tagMemoryExpiry (f : Nat) (tag : Nat) (opc : Nat)
  | ringReread (f : Nat)
  | busMasterEnableSet (f : Nat)
  | mbH2D (f : Nat) (word : Word)
  | mbD2H (f : Nat)
  | mbDoorbell (f : Nat) (value : Word)
  | mailboxPoll
  | firmwareNotification (f : Nat)
  | floodgate (f : Nat) (value : Word)
  | fgPf (value : Word)
  | floodgateComplete (kind polder : Nat)
  | floodgateDrained (target : Nat)
  | pmpReset (value : Word)
  | pmpWatchdog
  | cdcWatchdog (d : Nat)
  | cdcRestartComplete (d : Nat)
  | enable (f ch : Nat) (value : U64)
  | dmaDisable (f ch : Nat) (value : U64)
  | resume (f ch : Nat) (value : U64)
  | tail (f ch : Nat) (value : U64)
  | dmaOwner (ch : Nat) (value : U64)
  | descriptorFetch (ch : Nat)
  | copy (ch : Nat)
  | psplit (ch : Nat)
  | pjoin (ch : Nat)
  | intlv (ch : Nat)
  | deintlv (ch : Nat)
  | toSluice (ch : Nat)
  | fromSluice (ch : Nat)
  | nbcmd (ch : Nat)
  | kvwalk (ch : Nat)
  | nop (ch : Nat)
  | descriptorWriteBack (ch : Nat)
  | descriptorTimeout (ch : Nat)
  | heldRetry (ch : Nat)
  | busError (ch : Nat) (addr : U64) (isWrite : Bool) (attributable : Bool) (refused : Bool)
  | nbCompletion (e : Nat)
  | deviceAccessError (ch : Nat) (code : Nat) (addr : U64) (isWrite : Bool)
  | bar4Win (window : Nat) (value : U64)
  | vfMap (v : Nat) (value : U64)
  | bar4Read (offset len : Nat)
  | bar4Write (offset : Nat) (bytes : List Byte)
  | bar4AtomicOp (offset : Nat)
  | registerWrite (f bar offset size : Nat) (value : U64)
  | registerAccessError (f bar offset size : Nat) (isWrite : Bool)
  | configRequest (f : Nat) (req : ConfigReq)
  | perstN (asserted : Bool)
  | pfFlr
  | vfFlr (v : Nat)
  | vfEnableClear
  | linkTrainPcie (partnerRate width : Nat) (flit : Bool)
  | plannerRun
  | admissionTimeout (p : Nat)
  | jobStart (p : Nat)
  | jobEnd (p : Nat)
  | jobTimeout (p : Nat)
  | tideMark (h : Nat)
  | slotEntryAdvance (p : Nat)
  | routerSlot (p : Nat) (badWords : List Nat)
  | holdRelease (p : Nat)
  | scoreInstruction (core : Nat)
  | ebreak (core : Nat)
  | sat (core : Nat)
  | sati (core : Nat)
  | sdone (core : Nat)
  | tiss (core : Nat)
  | viss (core : Nat)
  | sin (core : Nat)
  | sout (core : Nat)
  | sack (core : Nat)
  | spost (core : Nat)
  | rpage (core : Nat)
  | rwr (core : Nat)
  | srdc (core : Nat)
  | sfill (core : Nat)
  | swrite (core : Nat)
  | sfwd (core : Nat)
  | sfilli (core : Nat)
  | snote (core : Nat)
  | snoteForward (cl : Nat)
  | tfill (core : Nat)
  | tmma (core : Nat)
  | tdrain (core : Nat)
  | twrite (core : Nat)
  | vadd (core : Nat)
  | vsub (core : Nat)
  | vmul (core : Nat)
  | vfma (core : Nat)
  | vmin (core : Nat)
  | vmax (core : Nat)
  | vcmp (core : Nat)
  | vsel (core : Nat)
  | vabs (core : Nat)
  | vexp2 (core : Nat)
  | vlog2 (core : Nat)
  | vrcp (core : Nat)
  | vrsqrt (core : Nat)
  | vtanh (core : Nat)
  | vdiv (core : Nat)
  | vcvt (core : Nat)
  | vqmx (core : Nat)
  | vqt2 (core : Nat)
  | vdq (core : Nat)
  | vrsum (core : Nat)
  | vrmax (core : Nat)
  | vrmin (core : Nat)
  | vshuf (core : Nat)
  | vgather (core : Nat)
  | vrand (core : Nat)
  | vunif (core : Nat)
  | vtopk (core : Nat)
  | vtopkm (core : Nat)
  | vsamp (core : Nat)
  | vfill (core : Nat)
  | vwrite (core : Nat)
  | vfwd (core : Nat)
  | vsend (core : Nat)
  | vcopy (core : Nat)
  | sluiceEntryArrival (cl : Nat)
  | sluiceEntryTaken (cl : Nat)
  | ucmWordArrival (core : Nat) (flips : List SymErr)
  | ucmRefresh (d layer : Nat) (idle : Bool)
  | ucmApertureAccess (who : Requester) (addr : Nat) (acc : Access) (flips : List SymErr)
  | mergeRetire (core word : Nat) (flips : List SymErr)
  | ucmScrubRequest (core : Nat) (flips : List SymErr)
  | ucmScrubPassEnd (d : Nat)
  | ucmSelfRefreshEntry (d : Nat)
  | edgeAccess (who : Requester) (addr : Nat) (acc : Access) (flips : List SymErr)
  | sectorRead (who : Requester) (addr : Nat) (flips : List SymErr)
  | edgeLineMark (e line : Nat)
  | edgeRetrainStart (e : Nat)
  | edgeRetrainEnd (e : Nat) (badLines : List Nat)
  | edgeScrubRequest (e : Nat) (flips : List SymErr)
  | edgeRefresh (e : Nat)
  | nbWrite (e : Nat)
  | nbRead (e : Nat)
  | nbFill (e : Nat)
  | nbCopy (e : Nat)
  | nbAppend (e : Nat)
  | nbScores (e : Nat)
  | nbAttend (e : Nat)
  | nbSync (e : Nat)
  | nbDispatch (stack : Nat)
  | sensorSample (r : Readings)
  | flowPulseEdge (sinceLastUs : Nat)
  | flowPulseTimeout
  | coolantHoldExit
  | hardwareTrip (unitKind unit : Nat)
  | thermalResistanceUpdate
  | rotation
  | estimatorReport (energies : List Nat)
  | telemetryUpdate (t : Telemetry)
  | peakLimiter
  | quota (p : Nat)
  | avsbusAck (rail : Nat)
  | avsNoack (rail : Nat)
  | avsLoop (h : Nat) (up : Bool)
  | p1Entry
  | p1Wake
  | p2Entry (failing : Option Nat)
  | p2Exit (failing : Option Nat)
  | p3Entry (failing : Option Nat)
  | p3Exit (b : BringUp)
  | wakeReplay
  | napEntry (h : Nat)
  | supplySag (vinMin : Nat)
  | sagRecovery (b : BringUp)
  | lockout
  | coldBringUp (b : BringUp)
  | warmBringUp (b : BringUp)
  | crystalTimeout
  | romStart (entropy : List Byte) (flashError : Bool)
  | fuseBurn
  | fence (u : FencedUnit)
  | linkDetect (n : Nat) (t : LinkTrial)
  | linkTrainingTimeout (n : Nat)
  | linkRetry (n : Nat)
  | linkRetrain (n cause : Nat) (t : LinkTrial)
  | linkRateReturn (n : Nat) (t : LinkTrial)
  | dataFlit (n : Nat) (flit : Flit) (errs : List LaneErr := [])
  | nak (n : Nat) (flit : Flit) (errs : List LaneErr := [])
  | replayTimer (n : Nat)
  | credit (n : Nat) (flit : Flit) (errs : List LaneErr := [])
  | ident (n : Nat) (flit : Flit) (errs : List LaneErr := [])
  | rdReq (n : Nat)
  | wrReq (n : Nat)
  | rdRsp (n : Nat)
  | wrAck (n : Nat)
  | nakRsp (n : Nat)
  | timesync
  | timesyncAnswer (n : Nat) (flit : Flit) (errs : List LaneErr := [])
  | timesyncLoss
  | syncIn
  | syncOutPulse
  | syncInLoss
  | refclkLoss
  | refclkReturn
  | mode (value : Word)
  | loadArm (value : Word)
  | dbgChallenge (nonce : List Byte)
  | dbgResponse (r : DebugResponse)
  | dbgChallengeExpiry
  | dieBist (defects : List RepairEntry)
  | loopback
  | trainReport (ports : List PortReport)
  | clearFaults
  | capability
  | statusWord
  | statusTemperature
  | readVin
  | readIin
  | readTemperature1
  | readTemperature2
  | readTemperature3
  | readPin
  | pmbusRevision
  | mfrId
  | mfrModel
  | mfrWake
  | mfrPkgState
  | mfrEnergy
  | mfrBootStatus
  | mfrEffCap
  | mfrHotDram
  | smbusBadTransaction (why : SmbusBad)
  | creditReturn (n : Nat)
  | idleFlit (n : Nat) (flit : Flit) (errs : List LaneErr := [])
  | timesyncReceive (n : Nat) (flit : Flit) (errs : List LaneErr := [])
  | msixVectorUnmask (f v : Nat)
  | noPartnerTimeout (n : Nat)
deriving DecidableEq, Repr

end Sys2Proof
end

