-- ==== Sys2Proof/Decode.lean ====
section
/-! DEFINITION. The spec's table of operations and events gives no row any bits: a command is an event at an interface,
and no word spells one.  The words the block does decode (messages, descriptors, near-bank commands, micro-operations,
slot-table entries, S-core instructions) are read by the operations of the chapters that define them. -/

namespace Sys2Proof

/-- The command that a word spells by the table's bits: none, since no row of the table gives bits. -/
def decodeTableWord (_nbits _w : Nat) : Option Instr := none

end Sys2Proof
end

