-- ==== Sys2Proof/Config.lean ====
section
/-! DEFINITION. What the spec leaves open: free values that no proof can see. Each is named in the assumption log. -/

namespace Sys2Proof.Config

/-- Which of the results within the stated accuracy a special function gives for an operation and an FP32 input: the
choice is taken modulo their number (R98, log 10). -/
opaque specialChoice : (opc input : Nat) → Nat

/-- The code a NaN takes when it is converted to plain FP4, which has no NaN code and for which R40 states none
(log 11). -/
opaque nanToFp4 : Nat

/-- A byte whose contents are undefined: a fresh one for every number (R30, R170, R238, R499; log 5). -/
opaque freeByte : Nat → Byte

/-- A byte that VSHUF takes from a lane past the end of its stream, for the operation, the bytes of the stream and the
place: R95 states no result there, and R51 makes it a function of the operation's inputs (log 5). -/
opaque shufByte : (word : Nat) → (stream : List Byte) → (place : Nat) → Byte

/-- Whether a packet from a requester (its number in a log) to a place, a 4 KiB granule of device addresses 2^60 + cluster
for its sluice or 2^61 + stack for its dispatcher, would turn at a culvert router, die × 2^11 + x × 2^5 + row: the spec does not place the base-die junctions that
requesters stand at (R165, R423, log 61). -/
opaque turnsAt : (requester place router : Nat) → Bool

/-- A number the spec leaves open, fresh for every first argument, used modulo its range (log 5). -/
opaque freeNat : Nat → Nat

end Sys2Proof.Config
end

