-- ==== Sys2Proof/Machine/Bits.lean ====
section
/-! DEFINITION. Bit fields, little-endian byte strings and small list helpers shared by every chapter. -/

namespace Sys2Proof.Machine

/-- Bits [lo+w-1:lo] of a number (R7). -/
def bits (v lo w : Nat) : Nat := v / 2 ^ lo % 2 ^ w

/-- One bit of a number. -/
def bit (v i : Nat) : Bool := v / 2 ^ i % 2 == 1

/-- 1 for true, 0 for false. -/
def b2n (b : Bool) : Nat := if b then 1 else 0

/-- Two's-complement reading of the low `w` bits. -/
def sx (w v : Nat) : Int :=
  let u := v % 2 ^ w
  if 2 ^ (w - 1) ≤ u then (u : Int) - (2 ^ w : Nat) else u

/-- Two's-complement code of an integer in `w` bits. -/
def tc (w : Nat) (v : Int) : Nat := (v % ((2 ^ w : Nat) : Int)).toNat

/-- The value of a little-endian byte string (R7). -/
def leNat : List Byte → Nat
  | [] => 0
  | b :: r => b.toNat + 256 * leNat r

/-- The little-endian bytes of a number, `n` of them (R7). -/
def leBytes : Nat → Nat → List Byte
  | 0, _ => []
  | n + 1, v => BitVec.ofNat 8 v :: leBytes n (v / 256)

/-- `n` zero bytes. -/
def zeros (n : Nat) : List Byte := List.replicate n 0

/-- The bytes of a string's characters. -/
def asciiBytes (s : String) : List Byte := s.toList.map fun c => BitVec.ofNat 8 c.toNat

/-- A little-endian field of `n` bytes at offset `o` of a byte string; bytes past its end read as zero. -/
def fieldAt (l : List Byte) (o n : Nat) : Nat := leNat ((l.drop o).take n)

/-- The byte string `l` with the bytes `v` at offset `o`. -/
def patch (l : List Byte) (o : Nat) (v : List Byte) : List Byte := l.take o ++ v ++ l.drop (o + v.length)

/-- `l` cut into pieces of `n` (the last may be shorter); `fuel` bounds the number of pieces. -/
def chunksAux (n : Nat) : Nat → List α → List (List α)
  | 0, _ => []
  | fuel + 1, l => if l.isEmpty then [] else l.take n :: chunksAux n fuel (l.drop n)

/-- `l` cut into pieces of `n`. -/
def chunks (n : Nat) (l : List α) : List (List α) := chunksAux n l.length l

/-- A list cut or padded with zeros to `n` bytes. -/
def fit (n : Nat) (l : List Byte) : List Byte := (l ++ zeros (n - l.length)).take n

/-- The sum of a list. -/
def sumOf (l : List Nat) : Nat := l.foldl (· + ·) 0

/-- The list with element `i` replaced. -/
def listSet (l : List α) (i : Nat) (v : α) : List α := l.set i v

/-- Element `i`, or a default. -/
def nth (d : α) (l : List α) (i : Nat) : α := (l[i]?).getD d

/-- CRC-32C of a byte string (polynomial 0x1EDC6F41, reflected). -/
def crc32c (l : List Byte) : Nat :=
  let step (c : Word) : Word := if c.getLsbD 0 then (c >>> 1) ^^^ 0x82F63B78#32 else c >>> 1
  let byte (c : Word) (b : Byte) : Word := (List.range 8).foldl (fun c _ => step c) (c ^^^ b.setWidth 32)
  (~~~ (l.foldl byte (BitVec.allOnes 32))).toNat

/-- Round a number up to a multiple. -/
def alignUp (v m : Nat) : Nat := (v + m - 1) / m * m

/-- Ceiling division. -/
def ceilDiv (a b : Nat) : Nat := (a + b - 1) / b

/-- A counter of `w` bits that saturates. -/
def satAdd (w a b : Nat) : Nat := min (a + b) (2 ^ w - 1)

end Sys2Proof.Machine
end

