-- ==== Sys2Proof/Machine/Flags.lean ====
section
/-! DEFINITION. The arithmetic status flags of a core (file 02, ARITH_STATUS). -/

namespace Sys2Proof.Machine

/-- ARITH_STATUS [4:0]: INT_SAT, T2_RESERVED, SCALE_NAN, OVERFLOW, INVALID. -/
abbrev Flags := BitVec 5

/-- [0] a NaN was produced from non-NaN operands, or converted to a format without NaN. -/
def Flags.invalid : Flags := 1
/-- [1] a result saturated, or an infinite result arose from finite operands. -/
def Flags.overflow : Flags := 2
/-- [2] an E8M0 scale of 0xFF or a NaN T2 scale was read. -/
def Flags.scaleNan : Flags := 4
/-- [3] a T2 code 0b10 was read (R30). -/
def Flags.t2Reserved : Flags := 8
/-- [4] an INT32 accumulation saturated (R47). -/
def Flags.intSat : Flags := 16

/-- A flag when a condition holds. -/
def Flags.when (b : Bool) (f : Flags) : Flags := if b then f else 0

end Sys2Proof.Machine
end

