-- ==== Sys2Proof/Machine/Float.lean ====
section
/-! DEFINITION. Number formats and arithmetic rules (file 02): decoding every element format to an exact value, exact
sums and products, and one rounding of an exact value into a format. -/

namespace Sys2Proof.Machine

/-- A decoded value: NaN, an infinity, or ±m × 2^e (R26). -/
inductive Num where
  | nan
  | inf (neg : Bool)
  | fin (neg : Bool) (m : Nat) (e : Int)
deriving DecidableEq, Repr

/-- Which codes of a floating format are not finite (R26). -/
inductive Special where
  /-- exponent all ones: infinity and NaN -/
  | ieee
  /-- only S.1111.111 is NaN (E4M3) -/
  | nanOnly
  /-- no infinity and no NaN -/
  | none
deriving DecidableEq, Repr

/-- A floating format: exponent bits, fraction bits, bias, special codes, and whether FTZ8 applies to it (R26, R33). -/
structure Fmt where
  ebits : Nat
  fbits : Nat
  bias : Nat
  special : Special
  eight : Bool
deriving DecidableEq, Repr

def Fmt.fp32 : Fmt := ⟨8, 23, 127, .ieee, false⟩
def Fmt.fp16 : Fmt := ⟨5, 10, 15, .ieee, false⟩
def Fmt.bf16 : Fmt := ⟨8, 7, 127, .ieee, false⟩
def Fmt.e4m3 : Fmt := ⟨4, 3, 7, .nanOnly, true⟩
def Fmt.e5m2 : Fmt := ⟨5, 2, 15, .ieee, true⟩
def Fmt.e3m2 : Fmt := ⟨3, 2, 3, .none, false⟩
def Fmt.e2m3 : Fmt := ⟨2, 3, 1, .none, false⟩
def Fmt.e2m1 : Fmt := ⟨2, 1, 1, .none, false⟩

/-- Bits of the format. -/
def Fmt.width (f : Fmt) : Nat := 1 + f.ebits + f.fbits

/-- Weight exponent of the least subnormal bit. -/
def Fmt.qmin (f : Fmt) : Int := 1 - (f.bias : Int) - f.fbits

/-- Magnitude code of the largest finite value (R26). -/
def Fmt.maxCode (f : Fmt) : Nat :=
  match f.special with
  | .ieee => (2 ^ f.ebits - 1) * 2 ^ f.fbits - 1
  | .nanOnly => 2 ^ (f.ebits + f.fbits) - 2
  | .none => 2 ^ (f.ebits + f.fbits) - 1

/-- The sign bit's weight. -/
def Fmt.signBit (f : Fmt) : Nat := 2 ^ (f.ebits + f.fbits)

/-- The canonical NaN code (R31); a format without NaN has none and the code 0 stands here. -/
def Fmt.nanCode (f : Fmt) : Nat :=
  match f.special with
  | .ieee => (2 ^ f.ebits - 1) * 2 ^ f.fbits + 2 ^ (f.fbits - 1)
  | .nanOnly => 2 ^ (f.ebits + f.fbits) - 1
  | .none => 0

/-- A signed magnitude code. -/
def Fmt.signed (f : Fmt) (neg : Bool) (mag : Nat) : Nat := if neg then f.signBit + mag else mag

/-- The value of a code (R26). -/
def Fmt.decode (f : Fmt) (code : Nat) : Num :=
  let neg := bit code (f.ebits + f.fbits)
  let ex := bits code f.fbits f.ebits
  let fr := bits code 0 f.fbits
  if f.special == .ieee && ex == 2 ^ f.ebits - 1 then (if fr == 0 then .inf neg else .nan)
  else if f.special == .nanOnly && ex == 2 ^ f.ebits - 1 && fr == 2 ^ f.fbits - 1 then .nan
  else if ex == 0 then .fin neg fr f.qmin
  else .fin neg (2 ^ f.fbits + fr) (f.qmin + (ex - 1 : Nat))

/-- The arithmetic options a schedule carries (R32, R33). -/
structure ArithOpt where
  infKeep : Bool := false
  ftz8 : Bool := false
deriving DecidableEq, Repr

/-- The value of a code read as an operand: an FP8 subnormal is read as zero under FTZ8 (R33). -/
def Fmt.operand (f : Fmt) (o : ArithOpt) (code : Nat) : Num :=
  if o.ftz8 && f.eight && bits code f.fbits f.ebits == 0 then .fin (bit code (f.ebits + f.fbits)) 0 f.qmin
  else f.decode code

/-- The rounding modes (R35-R37): nearest even, stochastic with 16 random bits, and the two truncations a
special-function result chooses between. -/
inductive Round where
  | rne
  | sr (r : Nat)
  | down
  | up
deriving DecidableEq, Repr

/-- An exact result before its one rounding: NaN, an infinity (and whether an operand was infinite), or
±(num/den) × 2^e. -/
inductive Exact where
  | nan
  | inf (neg propagated : Bool)
  | ratio (neg : Bool) (num den : Nat) (e : Int)
deriving DecidableEq, Repr

/-- An exact value as an exact result. -/
def Num.exact : Num → Exact
  | .nan => .nan
  | .inf s => .inf s true
  | .fin s m e => .ratio s m 1 e

def Num.isNan : Num → Bool
  | .nan => true
  | _ => false

def Num.isInf : Num → Bool
  | .inf _ => true
  | _ => false

def Num.isZero : Num → Bool
  | .fin _ 0 _ => true
  | _ => false

def Num.negative : Num → Bool
  | .nan => false
  | .inf s => s
  | .fin s _ _ => s

def Num.neg : Num → Num
  | .nan => .nan
  | .inf s => .inf (!s)
  | .fin s m e => .fin (!s) m e

def Num.abs : Num → Num
  | .nan => .nan
  | .inf _ => .inf false
  | .fin _ m e => .fin false m e

/-- 2^k as a natural factor, 1 for a negative k. -/
def pow2 (k : Int) : Nat := 2 ^ k.toNat

/-- floor(log2 (num/den)) for a positive ratio. -/
def floorLog2 (num den : Nat) : Int :=
  let k : Int := (num.log2 : Int) - den.log2
  if num * pow2 (-k) < den * pow2 k then k - 1 else k

/-- Whether the magnitude is rounded away from zero, for quotient `q`, remainder `r` of divisor `d` (R36, R37). -/
def Round.away (m : Round) (q r d : Nat) : Bool :=
  match m with
  | .rne => if 2 * r == d then q % 2 == 1 else decide (d < 2 * r)
  | .sr x => decide (2 ^ 16 ≤ r * 2 ^ 16 / d + x)
  | .down => false
  | .up => r != 0

/-- A positive ratio × 2^e rounded to a multiple of 2^q. -/
def roundTo (m : Round) (num den : Nat) (e q : Int) : Nat :=
  let n := num * pow2 (e - q)
  let d := den * pow2 (q - e)
  n / d + b2n (m.away (n / d) (n % d) d)

/-- An infinite or overflowing result of sign `neg` (R32). -/
def Fmt.overflowed (f : Fmt) (o : ArithOpt) (neg propagated : Bool) : Nat × Flags :=
  if o.infKeep && f.special == .ieee then
    (f.signed neg (f.maxCode + 1), Flags.when (!propagated) Flags.overflow)
  else (f.signed neg f.maxCode, Flags.overflow)

/-- The one rounding of an exact result into a format: the three steps of R36 with R32, R33, R34. -/
def Fmt.write (f : Fmt) (o : ArithOpt) (m : Round) : Exact → Nat × Flags
  | .nan => (f.nanCode, 0)
  | .inf neg p => f.overflowed o neg p
  | .ratio neg num den e =>
    if num == 0 then (f.signed neg 0, 0) else
      let q := max (floorLog2 num den + e - f.fbits) f.qmin
      let mag := (q - f.qmin).toNat * 2 ^ f.fbits + roundTo m num den e q
      if f.maxCode < mag then f.overflowed o neg false
      else if o.ftz8 && f.eight && mag < 2 ^ f.fbits then (f.signed neg 0, 0)
      else (f.signed neg mag, 0)

/-- ±m1 × 2^e1 + ±m2 × 2^e2, exactly; an exact zero is +0 unless both are zeros of one sign (R34). -/
def addFin (s1 : Bool) (m1 : Nat) (e1 : Int) (s2 : Bool) (m2 : Nat) (e2 : Int) : Num :=
  let e := min e1 e2
  let a := m1 * pow2 (e1 - e)
  let b := m2 * pow2 (e2 - e)
  if s1 == s2 then .fin s1 (a + b) e
  else if a == b then .fin false 0 e
  else if b < a then .fin s1 (a - b) e
  else .fin s2 (b - a) e

/-- The exact sum and the flags it sets: ∞ − ∞ is invalid (R32). -/
def Num.add : Num → Num → Num × Flags
  | .nan, _ => (.nan, 0)
  | _, .nan => (.nan, 0)
  | .inf a, .inf b => if a == b then (.inf a, 0) else (.nan, Flags.invalid)
  | .inf a, _ => (.inf a, 0)
  | _, .inf b => (.inf b, 0)
  | .fin s m e, .fin t n g => (addFin s m e t n g, 0)

/-- The exact product: 0 × ∞ is invalid (R32). -/
def Num.mul : Num → Num → Num × Flags
  | .nan, _ => (.nan, 0)
  | _, .nan => (.nan, 0)
  | .inf a, .inf b => (.inf (a != b), 0)
  | .inf a, .fin t n _ => if n == 0 then (.nan, Flags.invalid) else (.inf (a != t), 0)
  | .fin s m _, .inf b => if m == 0 then (.nan, Flags.invalid) else (.inf (s != b), 0)
  | .fin s m e, .fin t n g => (.fin (s != t) (m * n) (e + g), 0)

/-- An exact sum in order, with the flags of every addition. -/
def Num.sum : List Num → Num × Flags
  | [] => (.fin false 0 0, 0)
  | x :: r => r.foldl (fun a y => let z := Num.add a.1 y; (z.1, a.2 ||| z.2)) (x, 0)

/-- Comparison of two values that are not NaN. -/
def Num.lt : Num → Num → Bool
  | .nan, _ => false
  | _, .nan => false
  | .inf a, .inf b => a && !b
  | .inf a, _ => a
  | _, .inf b => !b
  | .fin s m e, .fin t n g =>
    let k := min e g
    let a : Int := m * pow2 (e - k)
    let b : Int := n * pow2 (g - k)
    decide ((if s then -a else a) < (if t then -b else b))

/-- Equality of values: +0 equals −0. -/
def Num.eqv (a b : Num) : Bool := !a.isNan && !b.isNan && !(Num.lt a b) && !(Num.lt b a)

/-- FP32 addition (R35, R45-R49). -/
def fadd (o : ArithOpt) (a b : Nat) : Nat × Flags :=
  let s := Num.add (Fmt.fp32.decode a) (Fmt.fp32.decode b)
  let w := Fmt.fp32.write o .rne s.1.exact
  (w.1, s.2 ||| w.2)

/-- FP32 multiplication. -/
def fmul (o : ArithOpt) (a b : Nat) : Nat × Flags :=
  let s := Num.mul (Fmt.fp32.decode a) (Fmt.fp32.decode b)
  let w := Fmt.fp32.write o .rne s.1.exact
  (w.1, s.2 ||| w.2)

/-- Fused multiply-add: one rounding of the exact a × b + c.  With a NaN operand only the NaN rules apply: a product
0 × ∞ beside a NaN addend sets no flag (R31, R50). -/
def fma (a b c : Num) : Exact × Flags :=
  if c.isNan then (.nan, 0) else
  let p := Num.mul a b
  let s := Num.add p.1 c
  (s.1.exact, p.2 ||| s.2)

/-- Conversion of an exact value to an integer of `w` bits in two's complement under a rounding mode: saturation sets
OVERFLOW, NaN converts to 0 and sets INVALID (R39). -/
def toInt (m : Round) (w : Nat) (x : Exact) : Int × Flags :=
  let hi : Int := 2 ^ (w - 1) - 1
  let lo : Int := -(2 ^ (w - 1))
  match x with
  | .nan => (0, Flags.invalid)
  | .inf neg _ => (if neg then lo else hi, Flags.overflow)
  | .ratio neg num den e =>
    let r : Int := roundTo m num den e 0
    let v := if neg then -r else r
    if hi < v then (hi, Flags.overflow) else if v < lo then (lo, Flags.overflow) else (v, 0)

/-- An integer as an exact value. -/
def intNum (v : Int) : Num := .fin (decide (v < 0)) v.natAbs 0

/-- Conversion between floating formats under a mode (R35, R36, R50). -/
def convert (o : ArithOpt) (m : Round) (src dst : Fmt) (code : Nat) : Nat × Flags :=
  dst.write o m (src.operand o code).exact

/-- The value of an E8M0 scale code; 0xFF is NaN (R29). -/
def e8m0 (code : Nat) : Num := if code == 255 then .nan else .fin false 1 ((code : Int) - 127)

/-- The weight of a T2 code under scale value `s`; 0b10 reads as zero (R30, T2 codes). -/
def t2Weight (code : Nat) : Int := if code == 1 then 1 else if code == 3 then -1 else 0

/-- Elements packed in `w` bits each, ascending from the least significant bit of the lowest byte (R27). -/
def unpack (w n : Nat) (l : List Byte) : List Nat :=
  let v := leNat l
  (List.range n).map fun i => bits v (w * i) w

/-- Packing of elements of `w` bits (R27), as a number. -/
def packNat (w : Nat) : List Nat → Nat
  | [] => 0
  | x :: r => x % 2 ^ w + 2 ^ w * packNat w r

/-- Packing of elements of `w` bits into `n` bytes (R27). -/
def pack (w n : Nat) (l : List Nat) : List Byte := leBytes n (packNat w l)

end Sys2Proof.Machine
end

