-- ==== Sys2Proof/Machine/Random.lean ====
section
/-! DEFINITION. ICM-128, the one source of random bits (R261), and the positions its consumers draw at (R263). -/

namespace Sys2Proof.Machine

/-- The four state words of ICM-128. -/
structure Icm where
  x0 : Word
  x1 : Word
  x2 : Word
  x3 : Word
deriving DecidableEq, Repr

/-- One round with round key `kr`: one 32 × 32-bit product, and the words move one place along (R261). -/
def Icm.round (s : Icm) (kr : Word) : Icm :=
  let m : BitVec 64 := 0xE817FB2D#64 * (s.x0 ^^^ kr).setWidth 64
  let h := m.extractLsb' 32 32
  let l := m.extractLsb' 0 32
  ⟨s.x1 + h, s.x2 ^^^ l.rotateLeft 11, s.x3 + (h ^^^ l), l⟩

/-- Key word r mod 3 (R261). -/
def icmKey (key : U64) (r : Nat) : Word :=
  let k0 := key.extractLsb' 0 32
  let k1 := key.extractLsb' 32 32
  match r % 3 with
  | 0 => k0
  | 1 => k1
  | _ => k0 ^^^ k1 ^^^ 0x4E1DA3B7#32

/-- One draw for key, stream and position (R261). -/
def icm128 (key : U64) (stream : Word) (pos : U64) : U128 :=
  let s0 : Icm := ⟨pos.extractLsb' 0 32, pos.extractLsb' 32 32, stream, 0x9A4F2C61#32⟩
  let s := (List.range 12).foldl (fun s r => s.round (icmKey key r + BitVec.ofNat 32 r * 0x5A17C0D3#32)) s0
  (s.x3 + icmKey key 1) ++ (s.x2 ^^^ icmKey key 0) ++ (s.x1 + icmKey key 2) ++ (s.x0 ^^^ icmKey key 1)

/-- An entry of the random-stream map (R265). -/
structure RandEntry where
  key : U64
  stream : Word
  base : U64
deriving DecidableEq, Repr

/-- Bits [w·j+w−1 : w·j] of the draw at floor(n / (128/w)) for element number n = BASE + EOFF + i modulo 2^64,
j = n mod (128/w) (R263). -/
def RandEntry.chunk (r : RandEntry) (w eoff i : Nat) : Nat :=
  let n := (r.base.toNat + eoff + i) % 2 ^ 64
  let per := 128 / w
  bits (icm128 r.key r.stream (BitVec.ofNat 64 (n / per))).toNat (w * (n % per)) w

end Sys2Proof.Machine
end

