-- ==== Sys2Proof/Machine/Sparse.lean ====
section
/-! DEFINITION. Reading and writing the sparse tables of the state in their one canonical form: keys strictly rising,
no entry equal to what an unlisted key reads as. -/

namespace Sys2Proof

/-- The entry at a key: the first listed one, or what an unlisted key reads as. -/
def Sparse.get {α : Type} (d : α) : Sparse α → Nat → α
  | [], _ => d
  | (i, v) :: r, k => if i = k then v else Sparse.get d r k

/-- The entries of a list of values from key `k` on, without those that read as an unlisted key does. -/
def Sparse.ofList {α : Type} [DecidableEq α] (d : α) (k : Nat) : List α → Sparse α
  | [] => []
  | v :: r => if v = d then Sparse.ofList d (k + 1) r else (k, v) :: Sparse.ofList d (k + 1) r

/-- Writing consecutive entries from key `k`: what stood there is removed, and what does not read as an unlisted key
does is listed in its place. -/
def Sparse.setRange {α : Type} [DecidableEq α] (d : α) (m : Sparse α) (k : Nat) (l : List α) : Sparse α :=
  m.filter (fun e => decide (e.1 < k)) ++ Sparse.ofList d k l
    ++ m.filter (fun e => decide (k + l.length ≤ e.1))

/-- Writing one entry. -/
def Sparse.set {α : Type} [DecidableEq α] (d : α) (m : Sparse α) (k : Nat) (v : α) : Sparse α :=
  Sparse.setRange d m k [v]

/-- Changing one entry by a function. -/
def Sparse.modify {α : Type} [DecidableEq α] (d : α) (m : Sparse α) (k : Nat) (f : α → α) : Sparse α :=
  Sparse.set d m k (f (Sparse.get d m k))

/-- The canonical form: keys at or above `lo` and strictly rising, no entry that reads as an unlisted key does. -/
def Sparse.wfFrom {α : Type} [DecidableEq α] (d : α) : Nat → Sparse α → Bool
  | _, [] => true
  | lo, (i, v) :: r => decide (lo ≤ i) && decide (v ≠ d) && Sparse.wfFrom d (i + 1) r

/-- The canonical form of a table. -/
def Sparse.wf {α : Type} [DecidableEq α] (d : α) (m : Sparse α) : Bool := Sparse.wfFrom d 0 m

/-- The table without the keys for which `p` holds: those read as unlisted keys do. -/
def Sparse.drop {α : Type} (p : Nat → Bool) (m : Sparse α) : Sparse α := m.filter fun e => !p e.1

/-- Changing every listed entry whose key satisfies `p`, by a function that keeps what an unlisted key reads as. -/
def Sparse.mapWhere {α : Type} [DecidableEq α] (d : α) (p : Nat → Bool) (f : α → α) : Sparse α → Sparse α
  | [] => []
  | (k, v) :: r =>
    let w := if p k then f v else v
    let t := Sparse.mapWhere d p f r
    if w = d then Sparse.drop (· == k) t else (k, w) :: t

/-- `n` consecutive entries from key `k`. -/
def Sparse.range {α : Type} (d : α) (m : Sparse α) (k : Nat) : Nat → List α
  | 0 => []
  | n + 1 => Sparse.get d m k :: Sparse.range d m (k + 1) n

/-- One byte of a memory (an unlisted byte reads as zero). -/
def Memory.byte (m : Memory) (a : Nat) : Byte := Sparse.get 0 m a

/-- The canonical form of a memory. -/
def Memory.wf (m : Memory) : Bool := Sparse.wf (0 : Byte) m

/-- `n` bytes of a memory from an address. -/
def Memory.read (m : Memory) (a n : Nat) : List Byte :=
  let near := m.filter fun e => decide (a ≤ e.1) && decide (e.1 < a + n)
  Sparse.range 0 near a n

/-- Writing bytes at an address. -/
def Memory.write (m : Memory) (a : Nat) (v : List Byte) : Memory := Sparse.setRange 0 m a v

/-- Writing zero over `n` bytes from an address: they are no longer listed. -/
def Memory.clear (m : Memory) (a n : Nat) : Memory :=
  Sparse.drop (fun k => decide (a ≤ k) && decide (k < a + n)) m

end Sys2Proof
end

