-- ==== Sys2Proof/Machine/Status.lean ====
section
/-! DEFINITION. The status codes every completion, short word and descriptor uses (R328, R282). -/

namespace Sys2Proof.Machine

/-- The status codes of R328, the DMA codes of R282 and the negative completion HELD of R212. -/
inductive Status where
  | ok | badOpcode | badLength | bound | align | busy | noEnergy | shapeMismatch | authFail | domainOff | aborted
  | hwError | degraded | formatUnsupported | timeout | denied
  | busError | channelBusy | stopped | refused
  | held
deriving DecidableEq, Repr

/-- The value of a status (R328, R282); HELD is 0x14 on the dynamic network. -/
def Status.code : Status → Nat
  | .ok => 0x00
  | .badOpcode => 0x01
  | .badLength => 0x02
  | .bound => 0x03
  | .align => 0x04
  | .busy => 0x05
  | .noEnergy => 0x06
  | .shapeMismatch => 0x07
  | .authFail => 0x08
  | .domainOff => 0x09
  | .aborted => 0x0A
  | .hwError => 0x0B
  | .degraded => 0x0C
  | .formatUnsupported => 0x0D
  | .timeout => 0x0E
  | .denied => 0x0F
  | .busError => 0x10
  | .channelBusy => 0x11
  | .stopped => 0x12
  | .refused => 0x13
  | .held => 0x14

/-- The status of a value; a value no status has reads as HW_ERROR (R442: a link carries only these). -/
def Status.ofCode (c : Nat) : Status :=
  match c with
  | 0x00 => .ok
  | 0x01 => .badOpcode
  | 0x02 => .badLength
  | 0x03 => .bound
  | 0x04 => .align
  | 0x05 => .busy
  | 0x06 => .noEnergy
  | 0x07 => .shapeMismatch
  | 0x08 => .authFail
  | 0x09 => .domainOff
  | 0x0A => .aborted
  | 0x0C => .degraded
  | 0x0D => .formatUnsupported
  | 0x0E => .timeout
  | 0x0F => .denied
  | 0x10 => .busError
  | 0x11 => .channelBusy
  | 0x12 => .stopped
  | 0x13 => .refused
  | 0x14 => .held
  | _ => .hwError

end Sys2Proof.Machine
end

