-- ==== Sys2Proof/Machine/State.lean ====
section
/-! DEFINITION. The state of the module, as plain data: every register, memory, queue, counter, mode and pin the spec
names.  A field's default is its value at reset; where the spec gives none the line says DESIGN CHOICE (log 2). -/

namespace Sys2Proof.Machine

/-! ### Cores (files 03, 04, 05) -/

/-- A byte range of an SRAM or an entry range of an accumulator file: first and count. -/
structure Rng where
  lo : Nat
  len : Nat
deriving DecidableEq, Repr

/-- An issued micro-operation, operation or slice move that has not completed (R70, R91, R118). -/
structure Op where
  /-- the 128-bit micro-operation -/
  word : U128
  /-- slice words already moved -/
  done : Nat := 0
  /-- cycle from which its slice words count (R181), or slot in which it began to send; none while it waits -/
  started : Option Nat := none
  /-- slice bytes read and not yet used: words of a VFWD or SFWD, FP6 bytes of an UNPACK6 fill (R76, R105) -/
  buf : List Byte := []
  /-- bytes already sent over the mini-mesh -/
  sent : Nat := 0
  /-- beats of 16 B in its destination that mini-mesh writes have set since it was issued, by byte address: they count as
  issued after it and stay (R70, R91) -/
  covered : List Nat := []
  /-- refresh commands performed in the layer of its next word, and the band, when it was issued or its last word arrived:
  a change may delay its next word (R182; log 17) -/
  seen : Option (Nat × Nat) := none
  /-- another requester has taken a port slot since its last word (R180, R182) -/
  taken : Bool := false
deriving DecidableEq, Repr

/-- A slice word that reached a core late, pushed by a refresh or a band change: what it changes counts only from 12 cycles
after it (R151). -/
structure Late where
  /-- cycle of the polder in which it arrived -/
  cycle : Nat
  /-- SRAM address of its 32 bytes -/
  lo : Nat
  /-- a word that a move reads from SRAM (TWRITE, VWRITE, SWRITE), not one that it writes there -/
  reads : Bool
  /-- its move left the queue with it -/
  left : Bool
  /-- the core requested a hold when it arrived -/
  waited : Bool
deriving DecidableEq, Repr

/-- What a T-core has counted since its last activity report (R73): valid and bubble cycles, ungated products by operand
pair, bytes through its vertical port. -/
structure TAct where
  valid : Nat := 0
  bubbles : Nat := 0
  products : Sparse Nat := []
  port : Nat := 0
deriving DecidableEq, Repr

/-- What a V-core has counted since its last activity report (R107): BUSY and STALLS cycles, lane operations by class,
special-function results, gather words, draws, bytes through its vertical port. -/
structure VAct where
  busy : Nat := 0
  stalls : Nat := 0
  fp32 : Nat := 0
  bf16 : Nat := 0
  special : Nat := 0
  gather : Nat := 0
  draws : Nat := 0
  port : Nat := 0
deriving DecidableEq, Repr

/-- A T-core (file 03). -/
structure TCore where
  /-- 8 KiB SRAM, byte address 0-8191; DESIGN CHOICE 0 at reset -/
  sram : Memory := []
  /-- accumulator file, 1,024 entries × 32 bit; DESIGN CHOICE 0 at reset -/
  acc : Sparse Word := []
  /-- the three queues (fill and write, tile, drain) in issue order; each holds two micro-operations (R70) -/
  ops : List Op := []
  /-- TC_PERF [31:0] BUSY, RC, reset 0 -/
  busy : Nat := 0
  /-- TC_PERF [63:32] BUBBLES, RC, reset 0 -/
  bubbles : Nat := 0
  /-- ARITH_STATUS, W1C, reset 0 (R50) -/
  status : Flags := 0
  /-- counts since the last activity report; DESIGN CHOICE 0 at reset (R73) -/
  act : TAct := {}
  /-- its last late slice word (R151) -/
  late : Option Late := none
  /-- more than one micro-operation, or a mini-mesh beat beside one, has used the core since it was last idle: what it
  loses to them is free (R68; log 17) -/
  stirred : Bool := false
deriving DecidableEq, Repr

/-- A V-core (file 04). -/
structure VCore where
  /-- 16 KiB SRAM, byte address 0-16383; DESIGN CHOICE 0 at reset.  Bank 7 of V-cores 58 and 59 holds the sluice rings -/
  sram : Memory := []
  /-- the compute queue (1 + 3) and the move queue (1 + 1) in issue order (R89, R91) -/
  ops : List Op := []
  /-- VC_PERF [31:0] BUSY, RC, reset 0 -/
  busy : Nat := 0
  /-- VC_PERF [63:32] STALLS, RC, reset 0 -/
  stalls : Nat := 0
  /-- ARITH_STATUS, W1C, reset 0 (R50) -/
  status : Flags := 0
  /-- counts since the last activity report; DESIGN CHOICE 0 at reset (R107) -/
  act : VAct := {}
  /-- its last late slice word (R151) -/
  late : Option Late := none
  /-- more than one operation, or a mini-mesh beat beside one, has used the core since it was last idle: what it loses to
  them is free (R91, R96; log 17) -/
  stirred : Bool := false
deriving DecidableEq, Repr

/-- An S-core (R108, R120).  The default is an S-core that received no code placement: it has ended its part (R122). -/
structure SCore where
  /-- program counter, byte address of the next instruction; 0 at job start (R121) -/
  pc : Nat := 0
  /-- x1-x31 by number, 32-bit; an unlisted register is 0 -/
  regs : Sparse Word := []
  /-- instruction SRAM, 8 KiB (R108); reads zero where nothing was placed (R130) -/
  imem : Memory := []
  /-- data SRAM, 4 KiB (R108) -/
  dmem : Memory := []
  /-- ANCHOR, 64 bit; 0 at job start (R111) -/
  anchor : Nat := 0
  /-- TMASK0-TMASK7, by number, 48 bit, reset: TMASK0 all 48 T-cores, others 0 (R120) -/
  tmask : Sparse Nat := [(0, 2 ^ 48 - 1)]
  /-- VMASK0-VMASK7, 12 bit, reset: VMASK0 0xFFF, others 0 (R120) -/
  vmask : Sparse Nat := [(0, 0xFFF)]
  /-- ISSUE_CONFLICTS, 32 bit; 0 at job start (R114, R120) -/
  conflicts : Nat := 0
  /-- it has executed SDONE, or received no code placement (R122) -/
  ended : Bool := true
  /-- slot in which the next instruction may execute (R109, R112) -/
  ready : Nat := 0
  /-- registers whose value is not usable yet, with the slot from which it is (R109) -/
  usable : Sparse Nat := []
  /-- SMOVE queue: one running and one queued move (R118) -/
  ops : List Op := []
  /-- its last late slice word (R151) -/
  late : Option Late := none
  /-- ARITH_STATUS, reset 0; only OVERFLOW and INVALID are ever set (R145) -/
  status : Flags := 0
deriving DecidableEq, Repr

/-! ### Clusters: router, sluices, under-core memory errors (files 06, 07, 08) -/

/-- A router or mini-mesh port (R139): local, north, east, south, west. -/
inductive Port where
  | local | north | east | south | west
deriving DecidableEq, Repr

/-- A scheduled word on its way (R137): the slot in which it is at the place meant, its 32 B and its sideband flags. -/
structure Flight where
  slot : Nat
  port : Port
  data : List Byte
  flags : Flags
deriving DecidableEq, Repr

/-- A mini-mesh beat on its way: the slot of its write, its destination core (64 ROUTER, 65 ALL_T, 66 ALL_V), the byte
address there and its 16 B (R146). -/
structure Beat where
  slot : Nat
  dst : Nat
  addr : Nat
  data : List Byte
deriving DecidableEq, Repr

/-- The first 64-bit word of the idle slot-table entry is 0x0000_0001_0000_0000 (R139). -/
def idleEntry : U128 := 0x100000000#128

/-- The inbound sluice of a cluster (SLUICE_IN, R167-R171). -/
structure SluiceIn where
  /-- [17] OPEN, reset 0 -/
  open_ : Bool := false
  /-- [16:11] INFLIGHT, reset 0 -/
  inflight : Nat := 0
  /-- [10:5] FILLED, reset 0 -/
  filled : Nat := 0
  /-- [4:0] HEAD, reset 0 -/
  head : Nat := 0
  /-- cycles (of the polder) in which the youngest filled entries arrived, oldest first: SIN counts an arrival only from
  12 cycles after it (R169) -/
  recent : List Nat := []
  /-- entries on their way from the bound channel, in sending order (R168) -/
  coming : List (List Byte) := []
  /-- the DMA channel bound to this sluice (R168) -/
  bound : Option Nat := none
deriving DecidableEq, Repr

/-- The outbound sluice of a cluster (SLUICE_OUT, R170, R171). -/
structure SluiceOut where
  /-- [17] OPEN, reset 0 -/
  open_ : Bool := false
  /-- [10:5] POSTED, reset 0 -/
  posted : Nat := 0
  /-- [4:0] TAIL, reset 0 -/
  tail : Nat := 0
  /-- cycles in which entries were taken within the last 12 cycles: SOUT counts an entry as free only from then (R170) -/
  recent : List Nat := []
  /-- posted entries, by index, that the scheduled side has written since: their data is undefined (R170; log 5) -/
  spoiled : List Nat := []
  /-- the DMA channel bound to this sluice -/
  bound : Option Nat := none
deriving DecidableEq, Repr

/-- An issue over a cluster's control bus (R114): its slot, the S-core 60-63, the queue (0-2 fill, tile and drain of a
T-core, 3 and 4 compute and move of a V-core) and the cores it names as a mask. -/
structure Issue where
  slot : Nat
  score : Nat
  queue : Nat
  mask : Nat
deriving DecidableEq, Repr

/-- One UCM_CE_ENTRY of a cluster (R192). -/
structure CeEntry where
  source : Nat
  count : Nat
  sym0 : Nat
  sym1 : Nat
  core : Nat
  word : Nat
deriving DecidableEq, Repr

/-- A logical cluster (files 05-08). -/
structure Cluster where
  /-- slot table, 4,096 × 128 bit: an entry no record wrote is idle (R138, R130) -/
  table : Sparse U128 := []
  /-- the random-map store, 256 entries (R266) -/
  rand : List RandEntry := []
  /-- active page 0-15; 0 at slot 0 (R138) -/
  page : Nat := 0
  /-- entry of the page in force, 0-255; 0 at slot 0 -/
  entry : Nat := 0
  /-- slot in which the entry in force came into force -/
  since : Nat := 0
  /-- its contents, read in that slot -/
  inForce : U128 := idleEntry
  /-- pending page switches: slot and page (R141) -/
  pageAt : List (Nat × Nat) := []
  /-- pending RWR writes: slot, index, entry (R142) -/
  writes : List (Nat × Nat × U128) := []
  /-- injection staging, in beats of 16 B; 0-8 beats (R147) -/
  inject : List (List Byte) := []
  /-- ejection staging, in halves of 16 B; 0-8 halves (R147) -/
  eject : List (List Byte) := []
  /-- words that reach an input of the router, with the port they reach (R136) -/
  inputs : List Flight := []
  /-- words that leave an output of the router, with the port they leave by (R136, R143) -/
  outputs : List Flight := []
  /-- mini-mesh beats in flight (R146) -/
  beats : List Beat := []
  sin : SluiceIn := {}
  sout : SluiceOut := {}
  /-- SLUICE_HOLDS, 32 bit RC, reset 0 -/
  sluiceHolds : Nat := 0
  /-- issues over the control bus in the slot of the youngest (R114) -/
  issues : List Issue := []
  /-- SNOTE buffer towards the CDC, at most two messages of 16 B (R119) -/
  notes : List (List Byte) := []
  /-- cycles in which the CDC took entries within the last 12 cycles: a hold counts the room only from then (R151) -/
  noteRecent : List Nat := []
  /-- last SNOTE taken by the CDC, returned in the job's log (R119) -/
  lastNote : List Byte := []
  /-- CYC, 64 bit: 0 at cold reset, kept through warm reset (R120) -/
  cyc : Nat := 0
  /-- UCM_ERR_STATUS [31:0] CE_COUNT, [47:32] UNLOGGED, [55:48] UE_COUNT; 0 at cold reset, kept at warm (R192) -/
  ceCount : Nat := 0
  unlogged : Nat := 0
  ueCount : Nat := 0
  /-- UCM_CE_ENTRY[0..31] in use, in order of their index (R192) -/
  ceEntries : List CeEntry := []
  /-- the cluster was fenced in service or at test (R422) -/
  fenced : Bool := false
  /-- DEV_TIME of the check-bit errors of the last second on its router and mini-mesh (R137, R422); reset none -/
  checkErrors : List Nat := []
deriving DecidableEq, Repr

/-! ### Under-core memory of a die (file 08) -/

/-- One merge-buffer entry of a core: word, byte mask and bytes (R190). -/
structure MergeEntry where
  word : Nat
  mask : BitVec 32
  data : List Byte
  /-- the function whose writes it holds, for the log (R191) -/
  func : Nat
deriving DecidableEq, Repr

/-- The UCM domain of a compute die (R183, R184, R194, R497). -/
structure UcmDie where
  /-- power domain on; off before a bring-up -/
  on : Bool := false
  /-- in self-refresh (R497) -/
  selfRefresh : Bool := false
  /-- temperature band B0-B3; DESIGN CHOICE 1 before the first sample -/
  band : Nat := 1
  /-- scrub period P in seconds: P_MAX, 24 h, after a cold reset (R194) -/
  period : Nat := 86400
  /-- words corrected in this scrub pass (R194) -/
  passCorrected : Nat := 0
  /-- a bound of loop SCRUB held its period at the end of the last pass (R367); DESIGN CHOICE false -/
  scrubHeld : Bool := false
  /-- refresh commands performed, by layer (R182, R183): the model's count of them -/
  refreshes : Sparse Nat := []
  /-- refresh commands deferred, by layer, at most 8 (R182) -/
  deferred : Sparse Nat := []
  /-- DEV_TIME tick of the last access (R497) -/
  lastAccess : Nat := 0
  /-- bytes moved for others than a core since the last activity report, by polder or 31; DESIGN CHOICE 0 (R347) -/
  act : Sparse Nat := []
deriving DecidableEq, Repr

/-! ### Edge stacks, basin and near-bank units (files 09, 10, 11) -/

/-- STATE of an edge channel (EDGE_CH_STATUS [63:62]). -/
inductive ChState where
  | trained | retraining | failed | removed
deriving DecidableEq, Repr

/-- MODE of a near-bank unit (NB_STATUS [63:62]). -/
inductive NbMode where
  | memory | switching | processor
deriving DecidableEq, Repr

/-- A near-bank command: header, payload and the channel that issued it (file 10). -/
structure NbCmd where
  header : List Byte
  payload : List Byte
  dma : Nat
  /-- LIFE of the issuing channel when it was issued: completions of an earlier life are discarded (R291) -/
  life : Nat := 0
deriving DecidableEq, Repr

/-- A completion of a near-bank unit on its way to the issuing channel (R233). -/
structure NbDone where
  tag : Nat
  channel : Nat
  status : Status
  flags : Flags
  payload : List Byte
  cycles : Nat
  dma : Nat
  life : Nat := 0
deriving DecidableEq, Repr

/-- A request to device memory: who makes it, NOALLOC of its descriptor (R278), that it reads a descriptor (R279), that it
belongs to no descriptor, and the part of a gathered request it is (R301), 0 for none. -/
structure Req where
  who : Requester
  noalloc : Bool := false
  fetch : Bool := false
  loose : Bool := false
  part : Nat := 0
deriving DecidableEq, Repr

/-- An access held at a retraining channel (R212). -/
structure Held where
  req : Req
  addr : Nat
  acc : Access
  /-- LIFE and POLDER of the requesting DMA channel at the request -/
  life : Nat := 0
  polder : Nat := 31
deriving DecidableEq, Repr

/-- A host read or a partner's request of which a part is held (R212, R301, R442): its number, who made it, whether it
writes, its units, and what has come of each part. -/
structure Gather where
  id : Nat
  who : Requester
  write : Bool
  len : Nat
  parts : List (Option (Status × List Byte))
deriving DecidableEq, Repr

/-- An edge channel and its near-bank unit. -/
structure EdgeCh where
  /-- EDGE_CH_STATUS [63:62] STATE, reset 0 -/
  state : ChState := .trained
  /-- [55:48] UE_COUNT, [47:32] RETRAINS, [31:0] CE_COUNT; 0 after a cold reset -/
  ueCount : Nat := 0
  retrains : Nat := 0
  ceCount : Nat := 0
  /-- EDGE_CH_BADLINE, 72 bits: lines treated as erasures, from the repair maps; ascending line numbers -/
  badLines : List Nat := []
  /-- lines newly marked bad, in effect when the retrain ends (R206) -/
  newBad : List Nat := []
  /-- corrected symbols of each line since it was last marked or trained (R206) -/
  lineCount : Sparse Nat := []
  /-- accesses held while it retrains, in arrival order: at most 256, 16 of them host accesses (R212) -/
  held : List Held := []
  /-- host accesses that found the host share full, waiting in the PCIe queues, and partners' behind them (R212) -/
  waiting : List Held := []
  /-- a retrain is requested and waits (R210) -/
  retrainDue : Bool := false
  /-- hottest stack sensor at the channel's own last retrain, m°C (R210) -/
  trainedAt : Option Int := none
  /-- scrubber position in bursts, kept while processor mode pauses it (R208, R225) -/
  scrubPos : Nat := 0
  /-- refresh commands issued (R209) -/
  refreshes : Nat := 0
  /-- NB_STATUS [63:62] MODE, reset 0 -/
  mode : NbMode := .memory
  /-- command queue, 16 entries, the running command first; QDEPTH is its length -/
  queue : List NbCmd := []
  /-- NB_STATUS [47:40] LAST_OPC, [39:32] LAST_STATUS, [31:16] ABORTS -/
  lastOpc : Nat := 0
  lastStatus : Status := .ok
  aborts : Nat := 0
  /-- NB_PERF [63:32] MASKED and [31:0] BUSY, RC, reset 0 -/
  masked : Nat := 0
  busy : Nat := 0
  /-- completions on their way to the DMA channels, oldest first (R233) -/
  done : List NbDone := []
  /-- busy unit cycles, bursts and masked positions since the last activity report, by 4 × polder (31 none) + kind;
  DESIGN CHOICE 0 (R241, R347) -/
  act : Sparse Nat := []
deriving DecidableEq, Repr

/-- An edge stack (R209, R208, R231). -/
structure Stack where
  /-- power domain on -/
  on : Bool := false
  /-- EDGE_CH_STATUS [61:60] BAND of its channels, EB0-EB3, reset 1 -/
  band : Nat := 1
  /-- scrub pass period in seconds, P_MAX after a cold reset (R208) -/
  period : Nat := 86400
  passCorrected : Nat := 0
  scrubHeld : Bool := false
  /-- the dispatcher's input buffer of 8 commands (R231) -/
  dispatch : List NbCmd := []
  /-- shut down above 105 °C (R378) -/
  shut : Bool := false
  selfRefresh : Bool := false
  /-- hottest sensor at the training of its channels, m°C, as first sampled after it (R210) -/
  trainedAt : Option Int := none
deriving DecidableEq, Repr

/-- A basin line (R217, R218). -/
structure Line where
  ch : Nat
  tag : Nat
  dirty : Bool
  ref : Bool
  data : List Byte
  /-- its 8 B words with a double-bit error, 0-15 (R223) -/
  bad : List Nat := []
deriving DecidableEq, Repr

/-- The basin of a base die (R216-R223). -/
structure Basin where
  /-- BASIN_CFG [3:0] CACHE_STEPS, reset 8; AON, changed only by MEM_INIT and cold reset -/
  cacheSteps : Nat := 8
  /-- valid cache lines by set × 16 + way -/
  lines : Sparse (Option Line) := []
  /-- rotating pointer of each set (R219) -/
  pointer : Sparse Nat := []
  /-- BASIN_PERF [31:0] HITS and [63:32] MISSES, RC, reset 0 -/
  hits : Nat := 0
  misses : Nat := 0
  /-- scratch bytes by offset o (R221) -/
  scratch : Memory := []
  /-- double-bit errors held in scratch words, by 8 B word (R223) -/
  badWords : Sparse Bool := []
deriving DecidableEq, Repr

/-! ### Functions, mailboxes and completion rings (files 14, 15, 16) -/

/-- A function's completion ring (R325, R329). -/
structure Ring where
  addr : Nat
  size : Nat
  vector : Nat
  eventVector : Nat
  consAddr : Nat
  /-- index of the next record -/
  next : Nat := 0
  /-- PHASE: 1 on the first pass after HELLO -/
  phase : Bool := true
  /-- last value below SIZE read at CONS_ADDR, 0 after HELLO -/
  cons : Nat := 0
deriving DecidableEq, Repr

/-- A completion record or an event that is due on a ring, with PHASE left 0 (R327, R329, R330). -/
structure Due where
  event : Bool
  record : List Byte
deriving DecidableEq, Repr

/-- A message firmware has taken and not yet acted on: header fields and argument words (R322). -/
structure Msg where
  tag : Nat
  opc : Nat
  flags : Nat
  args : List Word
deriving DecidableEq, Repr

/-- A remembered command (R331): its record once it has completed. -/
structure TagEntry where
  tag : Nat
  opc : Nat
  record : Option (List Byte)
deriving DecidableEq, Repr

/-- FG_STATUS (R314). -/
structure FgStatus where
  /-- number of the function's last key, and of the last that began or joined a floodgate; DESIGN CHOICE 0 before the first -/
  key : Nat := 0
  gate : Nat := 0
  busy : Bool := false
  drained : Bool := false
  jobEnded : Bool := false
  polder : Nat := 0
  status : Status := .ok
  elapsedUs : Nat := 0
deriving DecidableEq, Repr

/-- An entry of a function's MSI-X table and its pending bit (R303).  PRESUMED masked at reset, as PCI Express has it. -/
structure Msix where
  masked : Bool := true
  pending : Bool := false
  /-- message address and data -/
  addr : Nat := 0
  data : Nat := 0
deriving DecidableEq, Repr

/-- A function of the PCIe device with its mailbox page: 0 the PF, 1-24 VF 1-24. -/
structure Func where
  /-- host-to-device queue, oldest first, at most 16 words; every word's stamp is this function's (R307, R308) -/
  h2d : List Word := []
  /-- a COLLISION event is pending for firmware (R308) -/
  h2dLost : Bool := false
  /-- device-to-host queue with SENDER, oldest first, at most 16 words (R309) -/
  d2h : List (Nat × Word) := []
  /-- MB_STATUS [15], [14], [13], W1C, reset 0 -/
  domainOff : Bool := false
  d2hCollision : Bool := false
  collision : Bool := false
  /-- a firmware notification is pending (R311) -/
  notified : Bool := false
  /-- MB_CTL D2H_IRQ, FG_VECTOR, MB_VECTOR, reset 0 -/
  d2hIrq : Bool := false
  fgVector : Nat := 0
  mbVector : Nat := 0
  /-- FG_STATUS (FG_PF_STATUS for the PF), reset 0 -/
  fg : FgStatus := {}
  /-- FG_REC_ADDR (FG_PF_REC_ADDR for the PF), bits [63:6] in place; reset 0 -/
  fgRecAddr : Nat := 0
  /-- floodgate records deferred while Bus Master Enable is clear, oldest first (R318): address and bytes -/
  fgDeferred : List (Nat × List Byte) := []
  /-- configuration: Memory Space Enable, Bus Master Enable, MSI-X Enable; PRESUMED 0 at reset as PCI Express has them -/
  mse : Bool := false
  bme : Bool := false
  msixOn : Bool := false
  /-- the vectors, by number: 512 for the PF, 64 for a VF -/
  msix : Sparse Msix := []
  /-- words of a message whose header has arrived and whose rest has not (R323) -/
  partialWords : List Word := []
  /-- messages taken and waiting for firmware to act on them, oldest first (R332) -/
  inbox : List Msg := []
  /-- the last 64 commands (R331) -/
  tags : List TagEntry := []
  /-- the completion ring that HELLO set up (R325) -/
  ring : Option Ring := none
  /-- completions and events not yet written, in order (R329, R330) -/
  due : List Due := []
  /-- events dropped beyond the 32 held (R330) -/
  eventsLost : Nat := 0
deriving DecidableEq, Repr

/-- The PCIe link (R294, R295). -/
structure Pcie where
  /-- the domain is powered -/
  on : Bool := false
  up : Bool := false
  /-- rate in tenths of a GT/s, 25 at 2.5 GT/s -/
  rate : Nat := 25
  width : Nat := 0
  flit : Bool := false
  perst : Bool := true
  /-- link in L1 (R391, R395) -/
  l1 : Bool := false
  /-- a warm reset is under way and has not ended: configuration requests are to be retried (R304, R305) -/
  resetting : Bool := false
  /-- BAR and VF BAR doublewords as last written; PRESUMED 0 at reset as PCI Express has them (R297) -/
  bars : Sparse Nat := []
  vfBars : Sparse Nat := []
  /-- SR-IOV VF Enable; size of BAR4 as a power of two, 4 TiB by default; ASPM L1 in Link Control (PRESUMED 0) -/
  vfEnable : Bool := false
  bar4Log2 : Nat := 42
  aspmL1 : Bool := false
deriving DecidableEq, Repr

/-- ACC_ERR (R494), 0 at cold reset, and its KIND. -/
structure AccErr where
  count : Nat := 0
  func : Nat := 0
  kind : Nat := 0
  bar2 : Bool := false
  offset : Nat := 0
deriving DecidableEq, Repr

/-- What the last request of the host, of the SMBus master or of a JTAG tester was answered with. -/
inductive Reply where
  | none | done | data (bytes : List Byte) | unsupportedRequest | completerAbort | requestRetry | nak
deriving DecidableEq, Repr

/-! ### Jobs and polders (files 05, 06, 07, 16, 17) -/

/-- How far a job has come (R121, R359). -/
inductive JobPhase where
  | waiting | admitted | running
deriving DecidableEq, Repr

/-- A job of a polder: a JOB_RUN or a CONTEXT_RESTORE (R337, R342). -/
structure Job where
  func : Nat
  tag : Nat
  opc : Nat
  /-- x12 of every S-core -/
  arg : Nat
  timeoutMs : Nat
  admitMs : Nat
  /-- arrival order and tick -/
  order : Nat
  arrival : Nat
  outAddr : Nat
  outLen : Nat
  /-- the random map with the command's replacements (R266, R337) -/
  maps : List RandEntry
  /-- the context to be written back, empty for a JOB_RUN (R342) -/
  context : List Byte
  phase : JobPhase := .waiting
  /-- order and tick of admission, and the POLDER counter then (R351), in pJ -/
  admitOrder : Nat := 0
  admitAt : Nat := 0
  energy0 : Nat := 0
  admittedStep : Nat := 0
  /-- step now wanted; reached at a tide mark (R154, R361) -/
  step : Nat := 0
  /-- tick of slot 0 (R338) -/
  startAt : Nat := 0
  /-- NOTIFY of the command (R327) -/
  notify : Bool := false
  /-- the command that began it was discarded: no log and no record at its end (R332) -/
  silent : Bool := false
deriving DecidableEq, Repr

/-- An issuer of a floodgate in progress: the function, 25 for the device itself, JOINED, and tick and number of its key
(R315, R320). -/
structure Gate where
  func : Nat
  joined : Bool
  time : Nat
  no : Nat
deriving DecidableEq, Repr

/-- Polder states (R162). -/
inductive PState where
  | none | empty | loaded | running | halted | resetting
deriving DecidableEq, Repr

/-- Why a polder is held (R151): a unit by its number, and the count of SIN or SOUT. -/
inductive Hold where
  /-- an S-core's TISS, VISS or SMOVE found a full queue (R71, R92, R118) -/
  | queue (core : Nat)
  /-- an unsatisfied SIN (R169) -/
  | sin (core : Nat)
  /-- an unsatisfied SOUT (R170) -/
  | sout (core : Nat)
  /-- a full SNOTE buffer (R119) -/
  | note (core : Nat)
  /-- a router whose entry is not ready (R147, R152) -/
  | router (cluster : Nat)
  /-- CONTEXT_SAVE (R340) -/
  | context
  /-- EBREAK with debug unlocked (R110) -/
  | debug
  /-- a floodgate (R315) -/
  | floodgate
deriving DecidableEq, Repr

/-- A command of a function that is in progress on a polder (R332). -/
structure InFlight where
  func : Nat
  tag : Nat
  opc : Nat
  notify : Bool := false
  outAddr : Nat := 0
  outLen : Nat := 0
  /-- CONTEXT_SAVE A2[0] -/
  ucm : Bool := false
  /-- the tide mark it waits for has come (R340) -/
  ready : Bool := false
deriving DecidableEq, Repr

/-- A polder (files 06 and 07). -/
structure Polder where
  state : PState := .none
  c0 : Nat := 0
  r0 : Nat := 0
  w : Nat := 0
  h : Nat := 0
  /-- ROWS of its shape class (R159) -/
  rows : Nat := 0
  /-- DEGRADED causes (R163) -/
  fenced : Bool := false
  narrow : Bool := false
  /-- agreed width of each crossing inside it, by lower die × 16 + higher die; 0 untrained (R148, R174) -/
  widths : Sparse Nat := []
  /-- a crossing has had an error since it was last trained (R150) -/
  retrain : Bool := false
  /-- the loaded schedule image, empty when none is (R123) -/
  image : List Byte := []
  job : Option Job := none
  /-- POLDER_CREATE, POLDER_RESET or CONTEXT_SAVE in progress -/
  command : Option InFlight := none
  /-- the tide counter, cycles of the polder's clock since its last tide mark; DESIGN CHOICE 0 (R153) -/
  tide : Nat := 0
  /-- tenths of a cycle counted beyond it while no slot runs; DESIGN CHOICE 0 -/
  tidePart : Nat := 0
  /-- the counter has reached 65,536 and its mark is still to reach the half-dies (R153; log 51) -/
  markDue : Bool := false
  /-- the mark has reached the half-dies in this very cycle (R121, R153; log 51) -/
  atMark : Bool := false
  /-- cycles since slot 0 of the job, held ones included, and SLOT (R111) -/
  cycle : Nat := 0
  slot : Nat := 0
  /-- HOLDS, saturating at 32 bits (R120) -/
  holdCount : Nat := 0
  /-- requests that hold it, with the cycle of each (R151) -/
  holds : List (Hold × Nat) := []
  /-- the clock step in force and the one commanded for the next tide mark (R154, R361) -/
  step : Nat := 0
  nextStep : Option Nat := none
  /-- by how much, m°C, its hottest pair exceeded its start temperature at the latest sample, none where it did not; and the
  clock of the weir in force, MHz, none when it does not act (R375, R377) -/
  weirNext : Option Int := none
  weir : Option Nat := none
  /-- the weir acts; tick of its last end (R377) -/
  weirOn : Bool := false
  weirEnd : Option Nat := none
  /-- it began again within 1 s of its last end: no pair of events (R377) -/
  weirQuiet : Bool := false
  /-- steps taken off by the peak limiter, the overdraw and the quota loop (R362-R364) -/
  peakDown : Nat := 0
  overDown : Nat := 0
  quotaDown : Nat := 0
  /-- half-die rails whose acknowledgement a raise awaits (R397) -/
  rails : List Nat := []
  /-- issuers of the floodgate of this polder in progress (R315, R320) -/
  gates : List Gate := []
  /-- a running job was ended by the floodgate in progress (R317) -/
  gateEndedJob : Bool := false
  /-- channels the floodgate disabled (R318) -/
  gateChannels : Nat := 0
deriving DecidableEq, Repr

/-- Half-die power states (R389). -/
inductive HdState where
  | off | nap | idle | active
deriving DecidableEq, Repr

/-- A half-die. -/
structure HalfDie where
  power : HdState := .off
  /-- logical cluster rows (R418) -/
  rows : Nat := 28
  /-- dike masks of its north, east, south and west border (R164) -/
  dikeN : Bool := false
  dikeE : Bool := false
  dikeS : Bool := false
  dikeW : Bool := false
  /-- tide counter while it belongs to no polder, with its tenths of a cycle and its mark (R173, R500) -/
  tide : Nat := 0
  tidePart : Nat := 0
  markDue : Bool := false
  /-- clock step of its arithmetic PLL while it belongs to no polder: step 0 from its next tide mark on (R500) -/
  step : Nat := 0
  /-- nonzero where the SRAM and accumulator contents of its cores are undefined: the free values they read as carry
  this number (R389, R499; log 5) -/
  junk : Nat := 0
  /-- `junk` when the placements of an image were last sent to it: with another number now its S-core memories and slot
  tables are undefined too (R130, R389, R499; log 5) -/
  placed : Nat := 0
  /-- the counters of its cores are undefined too, until a polder reset (R315) -/
  junkRegs : Bool := false
  /-- and so are their flags, until a job starts (R50, R315) -/
  junkFlags : Bool := false
  /-- fenced in service (R422) -/
  fenced : Bool := false
  /-- AVS offset from the fused voltage, mV, and a bound of the loop held it at its last adjustment (R367, R398) -/
  avs : Int := 0
  avsHeld : Bool := false
deriving DecidableEq, Repr

/-! ### The DMA engine (file 13) -/

inductive ChanState where
  | disabled | active | waiting | halted
deriving DecidableEq, Repr

/-- A descriptor read from the ring: its index and 64 bytes (R279). -/
structure Desc where
  index : Nat
  bytes : List Byte
deriving DecidableEq, Repr

/-- A command that a key-value walk has still to issue (R255, R286). -/
inductive WalkStep where
  /-- the list of a sequence on a channel, from byte `first` of it on -/
  | list (ch seq first : Nat)
  /-- take the new key and value of a sequence from OUT_SLUICE -/
  | takeKv (seq : Nat)
  | append (seq : Nat)
  /-- take the query of a sequence from OUT_SLUICE -/
  | takeQuery (seq : Nat)
  | attend (seq stack : Nat)
deriving DecidableEq, Repr

/-- A key-value walk under way (R286). -/
structure Walk where
  /-- the 64 B walk block -/
  block : List Byte
  /-- NTOK and page numbers of each sequence -/
  seqs : List (Nat × List Nat)
  /-- selected channels, ascending, and E (R255) -/
  chans : List Nat
  entries : Nat
  /-- commands still to be issued, in order -/
  steps : List WalkStep
  /-- completions still awaited -/
  waiting : Nat := 0
  /-- staged completions: sequence and channel -/
  staged : List (Nat × Nat) := []
  /-- sluice entries forwarded to IN_SLUICE (R258) -/
  forwarded : Nat := 0
deriving DecidableEq, Repr

/-- A DMA channel. -/
structure DmaCh where
  /-- DMA_RING_BASE ADDR in place, bits [5:1] as written, and DEV -/
  base : Nat := 0
  baseLow : Nat := 0
  dev : Bool := false
  /-- DMA_RING_CTL VECTOR, TIMEOUT_MS, SIZE -/
  vector : Nat := 0
  timeoutMs : Nat := 10
  size : Nat := 0
  /-- DEV_TIME at the last progress of the running descriptor, or as it came to HEAD (R289, R471); DESIGN CHOICE 0 -/
  progressAt : Nat := 0
  /-- DMA_RING_PTR -/
  head : Nat := 0
  tail : Nat := 0
  /-- DMA_STATUS -/
  state : ChanState := .disabled
  ownStall : Bool := false
  dir : Bool := false
  engStop : Bool := false
  code : Status := .ok
  held : Nat := 0
  /-- DMA_ERR_ADDR -/
  errAddr : Nat := 0
  /-- DMA_OWNER FUNC and POLDER -/
  func : Nat := 0
  polder : Nat := 31
  /-- DMA_EDGE_LO and DMA_EDGE_HI -/
  edgeLo : Nat := 0
  edgeHi : Nat := 0
  /-- descriptors read ahead, at most 8, the running one first (R279) -/
  fetched : List Desc := []
  /-- index of the next descriptor to read -/
  fetch : Nat := 0
  /-- the running descriptor has passed its checks and begun -/
  begun : Bool := false
  /-- units, entries, completions or sequences of it that are done (R281) -/
  done : Nat := 0
  /-- it has all its writes issued and waits for its write-back, with its status and DONE -/
  finish : Option (Status × Nat) := none
  /-- units of the running COPY or FROM_SLUICE whose writes have been issued (R280) -/
  issued : Nat := 0
  /-- requests on Melieko links that have no response yet (R441) -/
  remote : Nat := 0
  /-- the next descriptor was found with OWN clear: it is read again at the next TAIL write (R279) -/
  stalled : Bool := false
  /-- bytes of the running descriptor read and not yet used -/
  got : List Byte := []
  /-- the running key-value walk, once its block and lists are checked -/
  walk : Option Walk := none
  /-- times this channel's work was dropped or ended: answers to requests of an earlier life are discarded (R291) -/
  life : Nat := 0
  /-- edge channels of a running NBCMD whose completions are awaited, ascending -/
  awaited : List Nat := []
  /-- status of the lowest-numbered channel that failed (R285) -/
  failed : Option (Nat × Status) := none
  /-- a near-bank command that got HELD and waits for its retry: stack and command (R231, R288) -/
  retry : Option (Nat × NbCmd) := none
  /-- accesses that got HELD and wait for their retry, in order (R212, R288) -/
  retryAccess : List Held := []
  /-- accesses of its descriptor that stand in hold queues (R212) -/
  parked : Nat := 0
  /-- a descriptor could not be read ahead: its address, the status and whether the word is uncorrectable; the error acts
  when that descriptor comes to HEAD (R287; DEDUCED, log 40) -/
  fetchErr : Option (Nat × Status × Bool) := none
  /-- a descriptor read of its is held (R279, R288) -/
  fetching : Bool := false
  /-- what the next descriptor has read ahead of the acknowledgements it need not wait for (R280) -/
  ahead : List Byte := []
deriving DecidableEq, Repr

/-- The DMA engine of a base die. -/
structure Engine where
  /-- DMA_ENG_CFG STOPPED and ERR_MODE -/
  stopped : Bool := false
  stopAll : Bool := false
  /-- DMA_ENG_ERR_ADDR -/
  errAddr : Nat := 0
  /-- peers whose bundle changed while this engine had requests outstanding there: it issues nothing to them until
  every response has come (R441) -/
  settling : List (Word × Nat) := []
  /-- what it has moved since its last activity report, by 2 × polder (31 none) + kind: bytes, commands; DESIGN CHOICE 0
  (R293) -/
  act : Sparse Nat := []
deriving DecidableEq, Repr

/-! ### Melieko links (file 21) -/

inductive LinkState where
  | disabled | detect | train | up | retrain | down | noPartner
deriving DecidableEq, Repr

/-- A flit handed to a link's transmitter, with SEQ and ACK of its control field (R434). -/
inductive Sent where
  /-- a DATA flit, its 640 bytes -/
  | data (seq ack : Byte) (bytes : List Byte)
  /-- a CTRL flit, its 640 bytes -/
  | ctrl (ack : Byte) (bytes : List Byte)
  /-- an IDLE flit -/
  | idle (ack : Byte)
deriving DecidableEq, Repr

/-- A partner's request delivered and not yet served, with what the inbound table answered it as it arrived: a later change does
not touch it (R446, R450). -/
structure Asked where
  packet : Packet
  refused : Option Status
deriving DecidableEq, Repr

/-- A request without a response: its tag, the channel and its LIFE, read or write, the translated remote address, the
units. -/
structure Outstanding where
  tag : Nat
  ch : Nat
  life : Nat
  write : Bool
  addr : Nat
  len : Nat
deriving DecidableEq, Repr

/-- A Melieko link.  Every link is enabled after a cold reset (R446). -/
structure Link where
  state : LinkState := .detect
  /-- 0 106.25 Gb/s, 1 212.5 Gb/s; lanes, 0 when not UP -/
  rate : Nat := 1
  width : Nat := 0
  /-- FROZEN of R367 -/
  frozen : Bool := false
  /-- identity of the partner (R439) -/
  peerFabric : Word := 0
  peerSlot : Nat := 0
  peerLink : Nat := 0
  /-- counters of R447 -/
  retrains : Nat := 0
  replays : Nat := 0
  corrected : Nat := 0
  uncorrectable : Nat := 0
  latency : Nat := 0
  /-- SEQ of the next DATA flit, and the unacknowledged flits, oldest first, at most 128 (R436); DESIGN CHOICE 0 -/
  nextSeq : Byte := 0
  replay : List (Byte × List Byte) := []
  /-- SEQ of the last DATA flit received in order and intact; DESIGN CHOICE 255 before the first -/
  lastSeq : Byte := 255
  /-- tick of the last NAK sent and its SEQ (R436) -/
  nakAt : Option (Nat × Byte) := none
  /-- later flits are being discarded until replay delivers the missing one (R435) -/
  discarding : Bool := false
  /-- packets waiting for credits or for room in the replay buffer -/
  toSend : List Packet := []
  /-- packets whose data is still arriving, in header order, with the data so far (R434); DESIGN CHOICE empty -/
  arriving : List Packet := []
  /-- requests delivered and not yet served, and responses, which never wait for them, oldest first (R436, R438, R442) -/
  received : List Asked := []
  answers : List Packet := []
  /-- DEV_TIME of the uncorrectable codewords of the last 1 ms, and of the corrected symbols of the last 100 ms with their counts
  (R432); reset none -/
  badAt : List Nat := []
  fixedAt : List (Nat × Nat) := []
  /-- credits granted by the partner and used, units, per channel (R438); 2,048 of each to begin with -/
  reqLimit : Nat := 2048
  rspLimit : Nat := 2048
  reqUsed : Nat := 0
  rspUsed : Nat := 0
  /-- credits granted to the partner, cumulative, and those owed and not yet sent (R438) -/
  reqGranted : Nat := 2048
  rspGranted : Nat := 2048
  reqOwed : Nat := 0
  rspOwed : Nat := 0
  /-- requests without a response -/
  outstanding : List Outstanding := []
  /-- flits and control messages handed to the transmitter since the link last trained from DETECT, in order -/
  sent : List Sent := []
  /-- units of 64 B carried for polders since the last activity report, by polder or 31; DESIGN CHOICE 0 (R347) -/
  act : Sparse Nat := []
deriving DecidableEq, Repr

/-- A remote window (R440, R446). -/
structure Window where
  enabled : Bool := false
  fabric : Word := 0
  slot : Nat := 0
  base : Nat := 0
deriving DecidableEq, Repr

/-- An entry of the inbound table (R446). -/
structure Inbound where
  used : Bool := false
  enabled : Bool := false
  fabric : Word := 0
  slot : Nat := 0
  lo : Nat := 0
  hi : Nat := 0
deriving DecidableEq, Repr

/-! ### The ledger (file 17) -/

/-- An energy counter: its total in pJ, and the energies of the last complete steps of its three windows, newest first
(R351). -/
structure Meter where
  total : Nat := 0
  /-- energy of the 10 µs, 1 ms and 100 ms steps in progress -/
  now10u : Nat := 0
  now1m : Nat := 0
  now100m : Nat := 0
  /-- 10 µs steps of the 1 ms window -/
  fine : List Nat := []
  /-- 1 ms steps of the 100 ms window -/
  mid : List Nat := []
  /-- 100 ms steps of the 10 s window -/
  coarse : List Nat := []
deriving DecidableEq, Repr

/-- A voltage request of a rail (R397): up or down, whether a raise of the clock step waits for it, and the AVS offset that it
brings (R398). -/
structure VoltReq where
  up : Bool
  raise : Bool := false
  avs : Option Int := none
deriving DecidableEq, Repr

/-- A power-stage rail's gain in units of 2^-24, and milliseconds in a row out of range (R348). -/
structure Rail where
  gain : Nat := 16777216
  bad : Nat := 0
  fault : Bool := false
  /-- energy estimated from this millisecond's reports, before the gain, and energy counted for them, pJ -/
  estimated : Nat := 0
  counted : Nat := 0
  /-- the voltage request outstanding, and the one queued behind it and not yet sent (R397) -/
  sent : Option VoltReq := none
  queued : Option VoltReq := none
deriving DecidableEq, Repr

/-- Bounds of an adaptive loop (R366). -/
structure Bounds where
  lo : Int
  hi : Int
deriving DecidableEq, Repr

/-- The ledger. -/
structure Ledger where
  /-- the 110 counters in the order of selector 1 of R368 -/
  meters : Sparse Meter := []
  /-- 10 µs steps since cold reset: places the steps of the longer windows -/
  steps : Nat := 0
  /-- rails of half-dies 0-23, UCM 24-35, edge stacks 36-67, link groups 68-79, base dies 80-83; 84 stands for the domains
  of STANDING -/
  rails : Sparse Rail := []
  /-- energy of this millisecond attributed to polders, by rail × 32 + polder (R347) -/
  attributed : Sparse Nat := []
  /-- CAP_SET values: 4,800 W, 6,000 W, 125 A (R352) -/
  cap : Nat := 4800
  peak : Nat := 6000
  current : Nat := 125
  /-- quotas of the polders in J; 0 none (R353) -/
  quotas : Sparse Nat := []
  /-- bounds of AVS, SCRUB, ROTATION, STEPS; STEPS' default top step is the grade's -/
  avs : Bounds := ⟨-100, 50⟩
  scrub : Bounds := ⟨6, 24⟩
  rotation : Bounds := ⟨10, 600⟩
  stepBounds : Bounds := ⟨0, 15⟩
  /-- LINK_RATE bounds of each link, lower × 2 + upper -/
  linkRate : Sparse Nat := []
  /-- FROZEN, bit n for loop n -/
  frozen : Nat := 0
  /-- effective cap in W, CAP_SOURCE, the thermal cap as a fraction of W and the supply cap in mW, both exact (R354), sum of
  committed draws, freeboard -/
  effCap : Nat := 0
  source : Nat := 3
  thermalCap : Nat × Nat := (0, 1)
  supplyCap : Nat := 0
  /-- the thermal cap has been computed since the last cold reset, so a cap can be formed (R354; DEDUCED, log 44) -/
  capKnown : Bool := false
  committed : Nat := 0
  freeboard : Int := 0
  /-- WEIR, SHUTDOWN, COLD_HOLD, COOLANT_LOSS, SAG, SUPPLY_CAP, PEAK_LIMIT, OVERDRAW, QUOTA, AVS_NOACK, NO_ENERGY -/
  counts : Sparse Nat := []
  /-- numbers of the next job to arrive and to be admitted -/
  nextOrder : Nat := 0
  nextAdmit : Nat := 0
  /-- DEV_TIME of the last overdraw action; since when the averages are low enough to raise again (R362, R363) -/
  overAt : Option Nat := none
  overLow : Option Nat := none
  peakLow : Option Nat := none
deriving DecidableEq, Repr

/-! ### Heat (file 18) -/

/-- Thermal resistance of a site, in µK/W (R381). -/
structure Site where
  rth : Nat := 200000
  accepted : List Nat := []
  discards : Nat := 0
  flagged : Bool := false
deriving DecidableEq, Repr

/-- Sensors and thermal state. -/
structure Thermal where
  /-- last reading of each sensor, m°C: logic 0-1151, DRAM 1152-1727, base 1728-1791, stacks 1792-1919, inlet 1920,
  outlet 1921 (R369); none before the first sample -/
  last : Sparse (Option Int) := []
  /-- plausible samples a flagged sensor still needs; 0 = valid (R371) -/
  invalid : Sparse Nat := []
  /-- flagged pairs: logic 0-575, DRAM 576-863, base 864-895, stacks 896-959 (R372) -/
  flagged : Sparse Bool := []
  /-- governing value of each pair, m°C (R370); DESIGN CHOICE 0 before the first sample -/
  governing : Sparse Int := []
  /-- units without a valid sensor anywhere near, by unit: dies 0-11, layers 12 + 4 d + l, base 60-63, stacks 64-95 -/
  blind : Sparse Bool := []
  sites : Sparse Site := []
  /-- fallback of R373 in force: 0 none, 1 the outlet, 2 the fixed temperature -/
  fallback : Nat := 0
  /-- dies shut down in order, dies under cold hold (R378, R380) -/
  shut : Sparse Bool := []
  cold : Sparse Bool := []
  /-- THERM_POLICY and the slope, 0.001 per K (R376) -/
  rotate : Bool := false
  slope : Nat := 40
  /-- rotation interval in s, polder used next by the first of its group (R382) -/
  interval : Nat := 10
  rotatedTo : Sparse Nat := []
  /-- since the last rotation an equal polder reached its weir start, or was not 10 K below it -/
  rotHot : Bool := false
  rotWarm : Bool := false
  /-- FLOW_PULSE: ages in µs of the edges of the last 1 s, armed, and edges arrive (R383, R385) -/
  edges : List Nat := []
  armed : Bool := false
  flowing : Bool := false
  condensation : Bool := false
  coolantHold : Bool := false
  /-- cause of the loss that led to COOLANT_HOLD -/
  cause : Nat := 0
  /-- by site: logic governing value and energy of the last millisecond at each of the last 200 samples, newest first
  (R383); DESIGN CHOICE empty -/
  trend : Sparse (List (Int × Nat)) := []
  /-- THERM_STATUS as last updated: bits [44:40], and the temperatures as 10-bit codes (R387) -/
  flags : Nat := 0
  inlet : Nat := 0
  outlet : Nat := 0
  hotLogic : Nat := 0
  hotDram : Nat := 0
deriving DecidableEq, Repr

/-! ### Power, bring-up and supply (files 19, 20) -/

inductive PkgState where
  | p0 | p1 | p2 | p3
deriving DecidableEq, Repr

/-- Power state of the package. -/
structure Power where
  /-- VIN present and not locked out; false before the first rise through 43 V -/
  aon : Bool := false
  /-- the management and culvert domains -/
  management : Bool := false
  culverts : Bool := false
  pkg : PkgState := .p0
  /-- PKG_PWR_CTL HOLD, reset 0 -/
  hold : Bool := false
  /-- entry and exit in progress: target -/
  entering : Option PkgState := none
  exiting : Bool := false
  /-- PKG_PWR_STATUS -/
  sagSeen : Bool := false
  lastAborted : Bool := false
  lastTarget : Nat := 0
  lastRefuser : Nat := 0
  /-- PWR_REFUSALS, RC -/
  replays : Nat := 0
  aborted : Nat := 0
  refused : Nat := 0
  /-- a wake latched during an entry (R395) -/
  wake : Bool := false
  /-- an orderly shutdown was in force when the entry in progress was requested (R393, R404) -/
  shutAtReq : Bool := false
  /-- SUPPLY_STATUS -/
  vin : Nat := 0
  vinMin : Nat := 0
  iin : Nat := 0
  sagHold : Bool := false
  /-- latched hardware trip: unit kind and unit; THERMTRIP_N low (R379) -/
  trip : Option (Nat × Nat) := none
  /-- the trip before this cold reset, still to be logged -/
  tripLatched : Option (Nat × Nat) := none
deriving DecidableEq, Repr

/-- BOOT_STATUS. -/
structure Boot where
  done : Bool := false
  failed : Bool := false
  warm : Bool := false
  code : Nat := 0
  unit : Nat := 0
  elapsedMs : Nat := 0
  /-- a bring-up is in progress; watchdog expiries in it (R428) -/
  running : Bool := false
  expiries : Nat := 0
  /-- a coolant loss met this bring-up, which restarts when COOLANT_HOLD ends (R428) -/
  restart : Bool := false
  /-- a warm reset that DIAG WARM_RESET started, 1 ms from its record (R425) -/
  resetDue : Bool := false
  /-- DEV_TIME as this bring-up began -/
  startAt : Nat := 0
deriving DecidableEq, Repr

/-- The training store of the AON domain (R412, R413): settings as trained, and what came of them. -/
structure TrainStore where
  edges : Sparse Nat := []
  /-- optical ports: setting and wavelengths in use -/
  ports : Sparse (Nat × Nat) := []
  /-- dynamic parts of crossings: setting and culvert share -/
  crossings : Sparse (Nat × Nat) := []
  culverts : Sparse Nat := []
  /-- width recorded for the scheduled part of each crossing; one that no training named offers full width (DESIGN CHOICE,
  log 27) -/
  widths : Sparse Nat := []
deriving DecidableEq, Repr

/-- Repair (R416-R421). -/
structure Repair where
  fused : List RepairEntry := []
  /-- the two copies of the field map with sequence numbers; none where a copy is not valid -/
  copyA : Option (Nat × List RepairEntry) := none
  copyB : Option (Nat × List RepairEntry) := none
  staged : List RepairEntry := []
  /-- fused and field entries as merged at the last bring-up -/
  inForce : List RepairEntry := []
  /-- the training store is complete (R412), and what it holds -/
  trained : Bool := false
  store : TrainStore := {}
deriving DecidableEq, Repr

/-! ### Trust (file 22) -/

/-- Fuses (file 22, R2, R416, R424).  DESIGN CHOICE: the reference part N-E48-45 of the spec, with the other fuses 0. -/
structure Fuses where
  grade : Nat := 0
  memory : Nat := 0
  coolant : Nat := 0
  romRev : Nat := 0
  /-- steppings: minimum and maximum of compute, base and edge base dies -/
  cdMin : Nat := 0xB0
  cdMax : Nat := 0xB0
  bdMin : Nat := 0xB0
  bdMax : Nat := 0xB0
  edMin : Nat := 0xA1
  edMax : Nat := 0xA1
  seed : List Byte := []
  keys : List (List Byte) := []
  revoked : Nat := 0
  debugKeys : Nat := 0
  svnFloor : Nat := 0
  packaged : Bool := false
  /-- boot ROM contents are measured as M_ROM -/
  rom : List Byte := []
deriving DecidableEq, Repr

/-- Firmware, keys and debug (file 22). -/
structure Trust where
  /-- flash (R486): firmware region, configuration region, certificates, and the data that firmware keeps behind its error log,
  which no command reaches; DESIGN CHOICE empty -/
  flashData : Memory := []
  flashImage : List Byte := []
  flashConfig : List Byte := []
  certs : List (List Byte) := []
  /-- the staged image, if any (R456) -/
  staged : Option (List Byte) := none
  /-- firmware runs on the PMP -/
  running : Bool := false
  /-- manifest of the running image -/
  manifest : List Byte := []
  /-- the running image is the one in flash -/
  committed : Bool := false
  /-- firmware burns fuses, since a bring-up completed (R460) -/
  burning : Bool := false
  /-- SVN and REVOKE of a burn that was interrupted, for the next bring-up with a committed image: firmware keeps them in the
  state vault (R460, R486) -/
  burnLeft : Option (Nat × Nat) := none
  /-- the PMP's watchdog has expired: the PMP reset follows its package floodgate (R461) -/
  resetDue : Bool := false
  recovery : Bool := false
  bootCount : Nat := 0
  svn : Nat := 0
  /-- REV: IF_LEVEL, stepping fields written, ROM_REV written (R492) -/
  ifLevel : Nat := 0
  steppings : Bool := false
  romStarted : Bool := false
  /-- the PMP is in reset and its boot ROM has not started again -/
  romDue : Bool := false
  /-- seed of the attestation key, and ENDORSE (R452, R462) -/
  akSeed : List Byte := []
  endorse : List Byte := []
  /-- M_CFG as read at the last ROM start -/
  mCfg : List Byte := []
  /-- challenge outstanding (R464, R465) -/
  challenge : Option (List Byte) := none
  /-- SCOPE granted, and DEBUG_UNLOCKED -/
  unlocked : Bool := false
  scope : Nat := 0
  /-- SCOPE accepted whose unlock waits for a package floodgate (R465) -/
  scopeDue : Nat := 0
  badResponses : Nat := 0
  /-- a package floodgate has completed since the PMP last started (R321) -/
  gated : Bool := false
deriving DecidableEq, Repr

/-! ### Time, SMBus, logs (files 23, 24, 16) -/

inductive TimeMode where
  | free | chainRoot | chainFollow | linkFollow
deriving DecidableEq, Repr

/-- The device timestamp and its alignment. -/
structure Time where
  /-- DEV_TIME, 10 ns ticks -/
  dev : Nat := 0
  /-- AON_TIME, 4 MHz -/
  aon : Nat := 0
  /-- ticks of the model's clock, by which AON_TIME advances once every 25 -/
  phase : Nat := 0
  /-- TIME_CTL -/
  hopDelay : Nat := 0
  stepped : Bool := false
  unsynced : Bool := true
  loadArm : Bool := false
  mode : TimeMode := .free
  /-- TIME_LOAD -/
  load : Nat := 0
  /-- ticks still to be slewed (R449) -/
  slew : Int := 0
  refclk : Bool := true
  /-- SYNC_OUT is driven, edges on it so far, and the next multiple of 100,000 that a root marks (R469, R481, R482) -/
  syncOut : Bool := false
  syncEdges : Nat := 0
  syncNext : Nat := 0
  /-- compute dies 0-11 and base dies 12-15 whose copy of the timestamp is loaded: it counts with the AON's (R467) -/
  copies : Sparse Bool := []
  /-- the peer followed has been lost: its next answer may step (R449) -/
  peerLost : Bool := false
  /-- the peer followed (R449) -/
  followFabric : Word := 0
  followSlot : Nat := 0
deriving DecidableEq, Repr

/-- The board's test pins, outside the module, as a tester or the board's resistors drive them; SHIFTING, the TAP stands in a
shift state (R481). -/
structure Pins where
  trstN : Bool := false
  tck : Bool := false
  tms : Bool := true
  tdi : Bool := true
  shifting : Bool := false
deriving DecidableEq, Repr

/-- SMBus and sideband state (R487-R489). -/
structure Smbus where
  vinUv : Bool := false
  temperature : Bool := false
  mfr : Bool := false
  cml : Bool := false
  /-- an orderly shutdown or a trip is logged -/
  shutLogged : Bool := false
  /-- SLOT_ID[3:0] as sampled at cold step 1; DESIGN CHOICE 0 before -/
  slotId : Nat := 0
deriving DecidableEq, Repr

/-- An entry of the firmware error log or of the access-error log: what it records, and where. -/
structure LogEntry where
  /-- device timestamp -/
  time : Nat
  /-- 1 S-core exception, 2 issue check, 3 missed slot, 4 slot fault, 5 uncorrectable under-core word, 6 uncorrectable
  burst, 7 sensor, 8 trip, 9 record lost, 10 bad CONS_ADDR, 11 watchdog, 12 fence, 13 rail, 14 inbound request,
  15 access error, 16 job overflow of a range, 17 near-bank, 18 merge buffer, 19 range fault of a gather or a sampling
  operation, 20 check-bit error, 21 bus error of an internal sender, 22 host write dropped with DOMAIN_OFF -/
  code : Nat
  func : Nat
  polder : Nat
  a : Nat
  b : Nat
  c : Nat
deriving DecidableEq, Repr

/-- A record of the state vault (R402). -/
structure VaultRecord where
  seq : Nat
  cause : Nat
  bytes : List Byte
deriving DecidableEq, Repr

/-- Results of stand-alone die test (R426, R427). -/
structure DieTest where
  /-- the die is in stand-alone test; TEST_EN is tied low inside the module, so it is not in a module -/
  defects : List RepairEntry := []
  looped : Bool := false
  ports : List PortReport := []
deriving DecidableEq, Repr

/-! ### The module -/

/-- The IBX-12: every piece of state the spec gives it, the queue of waiting commands, and the model's own counter that
makes every free value a fresh one. -/
structure State where
  /-- commands that wait, first in, first out -/
  pending : List Instr := []
  /-- the model's own: number of free values taken so far; DESIGN CHOICE 0 -/
  fresh : Nat := 0
  /-- the board's SLOT_ID pins (R481, R483), outside the module: as the last bring-up's row gave them; DESIGN CHOICE 0 -/
  slotPins : Nat := 0
  pins : Pins := {}
  /-- the host's memory, which the module reads and writes as a requester; DESIGN CHOICE unlisted bytes 0 -/
  hostMem : Memory := []
  /-- function × 2^52 + page of 4 KiB: host pages that answer the function's requests with an error completion, as its
  requester ID lets the host's IOMMU do (R276) -/
  hostErr : Sparse Bool := []
  reply : Reply := .none
  /-- completions of host reads that had to wait, in the order in which they were sent (R212) -/
  lateReplies : List Reply := []
  /-- requests with held parts, and the number of the next; DESIGN CHOICE 0 (R212, R301) -/
  gathers : List Gather := []
  gatherNo : Nat := 0
  /-- MSI-X messages posted so far, by function × 1024 + vector -/
  msixSent : Sparse Nat := []
  /-- AER non-fatal errors signalled (R312) -/
  aerErrors : Nat := 0

  -- cores and clusters
  tcores : Sparse TCore := []
  vcores : Sparse VCore := []
  scores : Sparse SCore := []
  clusters : Sparse Cluster := []

  -- under-core memory
  /-- bytes by core × 0xC_0000 + offset; a word with a clear valid bit reads as 0 whatever stands here -/
  ucm : Memory := []
  /-- valid bits by core × 24,576 + word: cleared by a cold reset, set by a write (R188) -/
  ucmValid : Sparse Bool := []
  /-- corrupted symbols that stand in a word, by core × 24,576 + word (R187) -/
  ucmBad : Sparse (List SymErr) := []
  ucmDies : Sparse UcmDie := []
  /-- next word the scrubber reads of each slice, 0-24575, by core (R193) -/
  ucmScrub : Sparse Nat := []
  /-- merge buffers by core, oldest entry first (R190) -/
  merges : Sparse (List MergeEntry) := []

  -- edge stacks and basin
  /-- bytes by channel × 0x6000_0000 + channel-local offset; zeroed at a cold reset (R214) -/
  edge : Memory := []
  /-- corrupted symbols that stand in a burst, by channel × 0x180_0000 + burst (R205) -/
  edgeBad : Sparse (List SymErr) := []
  channels : Sparse EdgeCh := []
  edgeStacks : Sparse Stack := []
  basins : Sparse Basin := []
  /-- INTLV: false BASE, true PKG; PKG at cold step 10 (R199) -/
  intlvPkg : Bool := true
  /-- KV_BASE, PSTRIDE, NSLOTS (R242, R243) -/
  kvBase : Nat := 0
  kvStride : Nat := 0
  kvSlots : Nat := 0

  -- polders and half-dies
  polders : Sparse Polder := []
  halfDies : Sparse HalfDie := []
  /-- culvert routers fenced in service: die, physical column, physical row (R422) -/
  fencedCulverts : List (Nat × Nat × Nat) := []
  /-- crossings that have agreed less than full width since the last warm reset, by lower die × 16 + higher die (R163) -/
  narrowed : Sparse Bool := []

  -- host interface
  funcs : Sparse Func := []
  pcie : Pcie := {}
  /-- BAR4_WIN bases (R299) -/
  bar4Win : List Nat := [0, 0x010000000000, 0x020000000000, 0x040000000000]
  /-- apertures that a resize has disabled until their base is rewritten (R300) -/
  bar4Off : Sparse Bool := []
  /-- VF_MAP POLDER of VF 1-24; 31 NONE -/
  vfMap : Sparse Nat := []
  accErr : AccErr := {}
  /-- issuers of the package floodgate in progress -/
  gates : List Gate := []
  /-- floodgate keys so far: the model's own number for each (R314); DESIGN CHOICE 0 -/
  fgNo : Nat := 0
  /-- channels it disabled; it ended a running job -/
  gateChannels : Nat := 0
  gateEndedJob : Bool := false
  /-- functions whose last floodgate has completed and is not yet DRAINED, by polder or 31 -/
  draining : List (Nat × Nat) := []

  /-- the water board's internal queues, by receiver: SENDER and word, at most 16, with a pending collision; and the bus
  errors each sender has counted (R307, R308, R313).  PMP 0, BDC b 1 + b, CDC d 16 + d; DESIGN CHOICE 0 at reset -/
  board : Sparse (List (Nat × Word)) := []
  boardLost : Sparse Bool := []
  boardErrors : Sparse Nat := []

  -- engines and links
  dma : Sparse DmaCh := []
  engines : Sparse Engine := []
  links : Sparse Link := []
  /-- FABRIC_ID: 0 after a cold reset, kept at warm -/
  fabricId : Word := 0
  windows : Sparse Window := []
  inbound : Sparse Inbound := []

  -- management
  ledger : Ledger := {}
  thermal : Thermal := {}
  power : Power := {}
  boot : Boot := {}
  repair : Repair := {}
  fuses : Fuses := {}
  trust : Trust := {}
  time : Time := {}
  smbus : Smbus := {}
  /-- CDC watchdog: ticks of the last expiry of each die, and dies whose CDC restarts (R472) -/
  cdcExpired : Sparse (Option Nat) := []
  cdcDown : Sparse Bool := []
  /-- firmware error log and access-error log, oldest first (R344, R494) -/
  log : List LogEntry := []
  accLog : List LogEntry := []
  /-- the eight record slots of the state vault, and the next record number (R402); DESIGN CHOICE 0 -/
  vault : List VaultRecord := []
  /-- the firmware persistent counters of the state vault, which no command reaches (R486); DESIGN CHOICE empty -/
  vaultCounters : Memory := []
  vaultSeq : Nat := 0
  /-- a record of a sag whose CRITICAL_RECORD event is still to be sent (R401) -/
  recordDue : Bool := false
  dieTest : DieTest := {}
deriving DecidableEq, Repr

/-- The module with no supply yet applied: every field at the value the spec gives it for a cold reset, or the value its
line names.  COLD_BRING_UP is the step that follows when VIN rises through 43 V (R405, R406). -/
def State.reset : State := {}

/-- No command of the block stops the module with a fault. -/
inductive Fault where
deriving DecidableEq, Repr

/-- Why a command has no meaning. -/
inductive Refusal where
  /-- the command has no meaning in the model yet; raised by no command once every row has one -/
  | notModelled (mnemonic : String)
deriving DecidableEq, Repr

end Sys2Proof.Machine
end

