-- ==== Sys2Proof/Machine/Operands.lean ====
section
/-! DEFINITION. Operand forms: the fields of T-core micro-operations, V-core operations and slice moves, the byte
ranges they read and write, and the checks made on them at load and at issue (R78-R82, R87-R106, R118, R140, R498). -/

namespace Sys2Proof.Machine

/-- The first failing check of a list of (condition violated, status) in order; none when all hold. -/
def firstFail : List (Bool × Status) → Option Status
  | [] => none
  | (b, s) :: r => if b then some s else firstFail r

/-- Two ranges share a byte. -/
def Rng.meets (a b : Rng) : Bool :=
  decide (a.lo < b.lo + b.len) && decide (b.lo < a.lo + a.len)

/-- Two sets of ranges share a byte. -/
def rngsMeet (a b : List Rng) : Bool := a.any fun x => b.any fun y => x.meets y

/-! ### T-core micro-operations (R78-R82) -/

/-- Words of a core's slice, and its bytes (R176). -/
def sliceWords : Nat := 24576
def sliceBytes : Nat := 786432

def tOpc (w : Nat) : Nat := bits w 0 4
def fillUnpack (w : Nat) : Bool := bit w 4
def fillLen (w : Nat) : Nat := bits w 5 8
def fillSram (w : Nat) : Nat := bits w 13 9 * 16
def fillOff (w : Nat) : Nat := bits w 22 20
/-- Bytes of SRAM a TFILL writes or a TWRITE reads: 4/3 of the slice bytes when expanded (R76). -/
def fillBytes (w : Nat) : Nat := if fillUnpack w then fillLen w / 3 * 128 else 32 * fillLen w

def mmaPair (w : Nat) : Nat := bits w 4 4
def mmaM (w : Nat) : Nat := bits w 10 7
def mmaK (w : Nat) : Nat := bits w 17 7
def mmaN (w : Nat) : Nat := bits w 24 9
def mmaMode (w : Nat) : Nat := bits w 33 2
def mmaAcc (w : Nat) : Nat := bits w 35 10
def mmaInp (w : Nat) : Nat := bits w 45 9 * 16
def mmaWgt (w : Nat) : Nat := bits w 54 9 * 16
def mmaAsc (w : Nat) : Nat := bits w 64 9 * 16
def mmaWsc (w : Nat) : Nat := bits w 73 9 * 16
def mmaBias (w : Nat) : Nat := bits w 82 9 * 16

/-- What a PAIR code stands for (R44, R56, R80): weight width in bits as stored in SRAM, activation bytes, group size. -/
structure Pair where
  wbits : Nat
  abytes : Nat
  group : Nat
  /-- E8M0 scales per 32 elements on both sides -/
  mx : Bool
  /-- four times the weights entering each column per cycle -/
  rate4 : Nat
deriving DecidableEq, Repr

def pairOf (code : Nat) : Option Pair :=
  match code with
  | 0 => some ⟨16, 2, 1, false, 1⟩
  | 1 => some ⟨8, 1, 4, false, 4⟩
  | 2 => some ⟨8, 1, 4, true, 4⟩
  | 3 => some ⟨8, 1, 4, true, 4⟩
  | 4 => some ⟨4, 1, 8, false, 8⟩
  | 5 => some ⟨4, 1, 8, true, 8⟩
  | 6 => some ⟨8, 1, 4, false, 4⟩
  | 7 => some ⟨8, 1, 32, true, 4⟩
  | 8 => some ⟨2, 1, 64, false, 16⟩
  | _ => none

/-- The pair of a TMMA whose PAIR was checked. -/
def mmaP (w : Nat) : Pair := (pairOf (mmaPair w)).getD ⟨8, 1, 4, false, 4⟩

/-- Bytes of one weight column, WS of R74. -/
def mmaColBytes (w : Nat) : Nat := ceilDiv (mmaK w * (mmaP w).wbits) 8

/-- Blocks of 32 along k. -/
def mmaBlocks (w : Nat) : Nat := ceilDiv (mmaK w) 32

/-- The k rule of R62 is broken. -/
def mmaKBad (w : Nat) : Bool :=
  let p := mmaPair w
  let k := mmaK w
  if p == 4 then k % 8 != 0
  else if p == 2 || p == 3 || p == 5 || p == 7 then k != 32 && k != 64
  else if p == 8 then k != 64
  else false

/-- Bytes of weight scales: one E8M0 per block and column, one BF16 per column for T2 (R74). -/
def mmaWscBytes (w : Nat) : Nat :=
  if (mmaP w).mx then mmaN w * mmaBlocks w else if mmaPair w == 8 then 2 * mmaN w else 0

/-- Bytes the input scales reach to: row r's scales stand at 2r (R74). -/
def mmaAscBytes (w : Nat) : Nat := if (mmaP w).mx then 2 * (mmaM w - 1) + mmaBlocks w else 0

/-- Bytes of bias values (R64). -/
def mmaBiasBytes (w : Nat) : Nat :=
  match mmaMode w with
  | 2 => 4 * mmaM w * mmaN w
  | 3 => 4 * mmaN w
  | _ => 0

/-- SRAM ranges a TMMA reads (R74). -/
def mmaReads (w : Nat) : List Rng :=
  [⟨mmaInp w, mmaM w * mmaK w * (mmaP w).abytes⟩, ⟨mmaWgt w, mmaN w * mmaColBytes w⟩,
   ⟨mmaAsc w, mmaAscBytes w⟩, ⟨mmaWsc w, mmaWscBytes w⟩, ⟨mmaBias w, mmaBiasBytes w⟩]

def drainMesh (w : Nat) : Bool := bit w 4
def drainClear (w : Nat) : Bool := bit w 5
def drainAcc (w : Nat) : Nat := bits w 6 10
def drainCount (w : Nat) : Nat := bits w 16 11
def drainSram (w : Nat) : Nat := bits w 27 9 * 16

/-- The checks of R82 on a T-core micro-operation, in order, for an image of feature level `fl`. -/
def tcoreCheck (fl w : Nat) : Option Status :=
  match tOpc w with
  | 1 | 4 => firstFail [
      (bits w 42 22 != 0 || (fillUnpack w && (tOpc w == 4 || fl < 2)), .formatUnsupported),
      (fillLen w == 0, .badLength),
      (fillSram w % 32 != 0 || fillOff w % 32 != 0 || (fillUnpack w && fillLen w % 3 != 0), .align),
      (decide (8192 < fillSram w + fillBytes w) || decide (sliceBytes < fillOff w + 32 * fillLen w), .bound)]
  | 2 => firstFail [
      ((pairOf (mmaPair w)).isNone || (bit w 8 && !([1, 2, 3].contains (mmaPair w)))
        || (bit w 9 && !([1, 2, 3, 5].contains (mmaPair w))) || bit w 63 || bits w 91 37 != 0
        || (mmaPair w == 3 && fl < 2), .formatUnsupported),
      (mmaM w == 0 || mmaK w == 0 || mmaN w == 0, .badLength),
      (mmaKBad w, .align),
      (decide (64 < mmaM w) || decide (64 < mmaK w) || decide (256 < mmaN w)
        || decide (1024 < mmaAcc w + mmaM w * mmaN w)
        || (mmaReads w).any (fun r => r.len != 0 && decide (8192 < r.lo + r.len)), .bound)]
  | 3 => firstFail [
      (bits w 36 28 != 0, .formatUnsupported),
      (drainCount w == 0, .badLength),
      (decide (1024 < drainAcc w + drainCount w)
        || (!drainMesh w && decide (8192 < drainSram w + 4 * drainCount w)), .bound)]
  | _ => some .badOpcode

/-- What is left to read and to write of a T-core micro-operation: SRAM bytes, then accumulator entries (R70). -/
structure Foot where
  reads : List Rng := []
  writes : List Rng := []
  accReads : List Rng := []
  accWrites : List Rng := []
deriving DecidableEq, Repr

def tFoot (o : Op) : Foot :=
  let w := o.word.toNat
  match tOpc w with
  -- words, or expanded units, already written are not still to be written
  | 1 => let k := if fillUnpack w then 32 * o.done / 24 * 32 else 32 * o.done
         { writes := [⟨fillSram w + k, fillBytes w - k⟩] }
  | 2 => { reads := mmaReads w
           accReads := if mmaMode w == 0 then [⟨mmaAcc w, mmaM w * mmaN w⟩] else []
           accWrites := [⟨mmaAcc w, mmaM w * mmaN w⟩] }
  -- entries whose beats have left are no longer to be read or cleared
  | 3 => let left : Rng := ⟨drainAcc w + o.sent / 4, drainCount w - o.sent / 4⟩
         { writes := if drainMesh w then [] else [⟨drainSram w, 4 * drainCount w⟩]
           accReads := [left]
           accWrites := if drainClear w then [left] else [] }
  | 4 => { reads := [⟨fillSram w + 32 * o.done, 32 * (fillLen w - o.done)⟩] }
  | _ => {}

/-- A later operation with footprint `b` must wait for an earlier one with footprint `a` (R70, R91). -/
def Foot.blocks (a b : Foot) : Bool :=
  rngsMeet b.writes (a.reads ++ a.writes) || rngsMeet b.reads a.writes
    || rngsMeet b.accWrites (a.accReads ++ a.accWrites) || rngsMeet b.accReads a.accWrites

/-- The queue a T-core micro-operation enters: 0 fill and write, 1 tile, 2 drain (R114). -/
def tQueue (w : Nat) : Nat :=
  match tOpc w with
  | 2 => 1
  | 3 => 2
  | _ => 0

/-! ### V-core operations (R87-R106, R498) -/

def vOpc (w : Nat) : Nat := bits w 0 8
def vFmtA (w : Nat) : Nat := bits w 8 4
def vFmtD (w : Nat) : Nat := bits w 12 4
def vRnd (w : Nat) : Bool := bit w 16
def vSb (w : Nat) : Bool := bit w 17
def vAcc (w : Nat) : Bool := bit w 18
def vCount (w : Nat) : Nat := bits w 20 13
def vDst (w : Nat) : Nat := bits w 33 12 * 4
def vSrcA (w : Nat) : Nat := bits w 45 12 * 4
def vSrcB (w : Nat) : Nat := bits w 64 12 * 4
def vSrcC (w : Nat) : Nat := bits w 76 12 * 4
def vStream (w : Nat) : Nat := bits w 88 8
def vEoff (w : Nat) : Nat := bits w 96 32
/-- Slice moves: the byte offset in the slice, the target T-core and its SRAM byte address (R104). -/
def mvSram (w : Nat) : Nat := bits w 33 12 * 4
def mvOff (w : Nat) : Nat := bits w 64 20
def mvTcore (w : Nat) : Nat := bits w 84 6
def mvTsram (w : Nat) : Nat := bits w 90 9 * 16

/-- Width in bits of a format code (R88); none for an unsupported code. -/
def fmtBits (f : Nat) : Option Nat :=
  match f with
  | 0 | 8 => some 32
  | 1 | 2 => some 16
  | 3 | 4 | 9 | 11 => some 8
  | 5 | 6 => some 6
  | 7 | 10 => some 4
  | 12 => some 2
  | _ => none

/-- Bytes of `n` elements of a format. -/
def fmtBytes (f n : Nat) : Nat := ceilDiv (n * (fmtBits f).getD 8) 8

/-- The floating format of a code, FP32 to E2M1. -/
def fmtOf (f : Nat) : Option Fmt :=
  match f with
  | 0 => some .fp32
  | 1 => some .bf16
  | 2 => some .fp16
  | 3 => some .e4m3
  | 4 => some .e5m2
  | 5 => some .e3m2
  | 6 => some .e2m3
  | 7 => some .e2m1
  | _ => none

/-- The ranges a V-core operation touches: streams read, and streams written; each is a first byte and a length. -/
structure VUse where
  reads : List Rng := []
  writes : List Rng := []
  /-- addresses that must be multiples of 32 B -/
  streams : List Nat := []
deriving DecidableEq, Repr

/-- The second operand: one 4 B word when it is broadcast, a stream otherwise (R87, R88). -/
def vB (w : Nat) : Rng := if vSb w then ⟨vSrcB w, 4⟩ else ⟨vSrcB w, fmtBytes (vFmtA w) (vCount w)⟩

/-- Bytes of a mask element of VCMP and VSEL: the width of FMT_D (R93). -/
def maskBytes (w : Nat) : Nat := if vFmtD w == 0 then 4 else 2

/-- Elements in a segment of a reduction; segments (R94). -/
def segLen (w : Nat) : Nat := bits (vEoff w) 0 16
def segCount (w : Nat) : Nat := vCount w / segLen w

/-- Bytes of one reduction result: FP32 for VRSUM, FMT_A otherwise (R94). -/
def redBytes (w : Nat) : Nat := if vOpc w == 0x30 then 4 else fmtBytes (vFmtA w) 1

/-- Streams and ranges of each operation. -/
def vUse (w : Nat) : VUse :=
  let n := vCount w
  let a : Rng := ⟨vSrcA w, fmtBytes (vFmtA w) n⟩
  let d : Rng := ⟨vDst w, fmtBytes (vFmtD w) n⟩
  let b := vB w
  let sb := if vSb w then [] else [vSrcB w]
  match vOpc w with
  | 0x01 | 0x02 | 0x03 | 0x05 | 0x06 | 0x15 => ⟨[a, b], [d], [a.lo, d.lo] ++ sb⟩
  | 0x04 => ⟨[a, b, ⟨vSrcC w, d.len⟩], [d], [a.lo, d.lo, vSrcC w] ++ sb⟩
  | 0x07 => ⟨[a, b], [⟨vDst w, maskBytes w * n⟩], [a.lo, d.lo] ++ sb⟩
  | 0x08 => ⟨[a, b, ⟨vSrcC w, maskBytes w * n⟩], [d], [a.lo, d.lo, vSrcC w] ++ sb⟩
  | 0x09 | 0x10 | 0x11 | 0x12 | 0x13 | 0x14 | 0x20 => ⟨[a], [d], [a.lo, d.lo]⟩
  | 0x21 => ⟨[a], [d, ⟨vSrcC w, n / 32⟩], [a.lo, d.lo, vSrcC w]⟩
  | 0x22 => ⟨a :: (if vAcc w then [⟨vSrcC w, n / 64 * 2⟩] else []), [⟨vDst w, n / 4⟩, ⟨vSrcC w, n / 64 * 2⟩],
      [a.lo, d.lo, vSrcC w]⟩
  | 0x23 => ⟨[a, ⟨vSrcB w, if vFmtA w == 12 then n / 64 * 2 else n / 32⟩], [d], [a.lo, d.lo, vSrcB w]⟩
  | 0x30 | 0x31 | 0x32 =>
      let r : Rng := ⟨vDst w, redBytes w * segCount w⟩
      ⟨a :: (if vAcc w then [r] else []), [r], [a.lo, d.lo]⟩
  | 0x33 => ⟨[a], [⟨vDst w, a.len⟩], [a.lo, d.lo]⟩
  | 0x34 => ⟨[⟨vSrcB w, 4 * n⟩], [⟨vDst w, a.len⟩], [vSrcB w, d.lo]⟩
  | 0x40 => ⟨[], [⟨vDst w, 16 * n⟩], [d.lo]⟩
  | 0x41 => ⟨[], [⟨vDst w, 4 * n⟩], [d.lo]⟩
  | 0x50 => ⟨[a, ⟨vSrcB w, 4⟩], [⟨vDst w, 8 * bits (vEoff w) 0 9⟩], [a.lo, d.lo]⟩
  | 0x51 => ⟨[⟨vSrcA w, 8 * bits (vEoff w) 0 11⟩, ⟨vSrcB w, 8 * bits (vEoff w) 11 11⟩], [⟨vDst w, 8 * n⟩],
      [a.lo, d.lo, vSrcB w]⟩
  | 0x52 => ⟨[⟨vSrcA w, 8 * n⟩, ⟨vSrcB w, 16⟩], [⟨vDst w, 16⟩], [a.lo, d.lo]⟩
  | 0x60 => ⟨[], [⟨mvSram w, 32 * n⟩], [mvSram w]⟩
  | 0x61 => ⟨[⟨mvSram w, 32 * n⟩], [], [mvSram w]⟩
  | 0x63 => ⟨[⟨vSrcA w, 4 * n⟩], [], [a.lo]⟩
  | 0x64 => ⟨[⟨vSrcA w, 4 * n⟩], [⟨vDst w, 4 * n⟩], [a.lo, d.lo]⟩
  | _ => {}

/-- Whether an operation uses RND, SB, ACC, DST, SRC_A, SRC_B, SRC_C, STREAM and EOFF, as a mask of bits 0 to 8 (R87):
a field it does not use is reserved.  Every operation that rounds a result to FMT_D may round it stochastically. -/
def vFields (opc : Nat) : Nat :=
  match opc with
  | 0x01 | 0x02 | 0x03 | 0x05 | 0x06 | 0x15 => 0b110111011
  | 0x04 | 0x08 => 0b111111011
  | 0x07 => 0b100111010
  | 0x09 | 0x10 | 0x11 | 0x12 | 0x13 | 0x14 => 0b110011001
  | 0x20 => 0b110011001
  | 0x21 => 0b111011001
  | 0x22 => 0b001011100
  | 0x23 => 0b110111001
  | 0x30 | 0x31 | 0x32 => 0b100011100
  | 0x33 => 0b100011000
  | 0x34 => 0b000111000
  | 0x40 | 0x41 => 0b110001000
  | 0x50 | 0x51 => 0b100111000
  | 0x52 => 0b110111000
  | 0x63 => 0b000010000
  | 0x64 => 0b000011000
  | _ => 0

/-- A field the operation leaves unused, or a reserved bit, is not 0 (R87). -/
def vReservedBad (w : Nat) : Bool :=
  let u := vFields (vOpc w)
  -- STREAM and EOFF of an operation that rounds are used only when it rounds stochastically
  let noDraw := bit u 0 && !vRnd w
  bit w 19 || bits w 57 7 != 0 || (vRnd w && !bit u 0) || (vSb w && !bit u 1) || (vAcc w && !bit u 2)
    || (vDst w != 0 && !bit u 3) || (vSrcA w != 0 && !bit u 4) || (vSrcB w != 0 && !bit u 5)
    || (vSrcC w != 0 && !bit u 6) || (vStream w != 0 && (!bit u 7 || noDraw))
    || (vEoff w != 0 && (!bit u 8 || noDraw))

/-- Formats FP32, BF16, FP16, E4M3, E5M2 (R498). -/
def anyFloat (f : Nat) : Bool := f ≤ 4
/-- Formats FP32, BF16, FP16. -/
def wideFloat (f : Nat) : Bool := f ≤ 2

/-- Whether VCVT accepts a pair of formats (R100). -/
def cvtPair (a d : Nat) : Bool :=
  (anyFloat a && (anyFloat d || d == 7 || d == 9 || d == 10))
    || (a == 8 && wideFloat d) || ((a == 9 || a == 10) && (wideFloat d || d == 8))

/-- Block formats an MX quantisation writes (R102). -/
def mxFmt (f : Nat) : Bool := (3 ≤ f && f ≤ 7) || f == 11

/-- The formats of an operation are allowed, and its predicate (R498, R93, R97, R102, R269). -/
def vFormatsOk (w : Nat) : Bool :=
  let a := vFmtA w
  let d := vFmtD w
  match vOpc w with
  | 0x01 | 0x02 | 0x03 | 0x04 | 0x15 | 0x10 | 0x11 | 0x12 | 0x13 | 0x14 => anyFloat a && anyFloat d
  | 0x05 | 0x06 | 0x08 | 0x09 => wideFloat a && wideFloat d
  | 0x07 => wideFloat a && d ≤ 1 && bits (vEoff w) 0 3 ≤ 5
  | 0x20 => cvtPair a d
  | 0x21 => anyFloat a && mxFmt d
  | 0x22 => anyFloat a && d == 12
  | 0x23 => (mxFmt a || a == 12) && d ≤ 1
  | 0x30 | 0x31 | 0x32 => wideFloat a && d == 0
  | 0x33 => (wideFloat a || a == 8) && d == 0
  | 0x34 => (wideFloat a || a == 8 || a == 9) && d == 0
  | 0x50 => a ≤ 1 && d == 0
  | _ => a == 0 && d == 0

/-- RND is set where R101 forbids it, or for an operation that does not round stochastically. -/
def vRndBad (w : Nat) : Bool := vRnd w && vOpc w == 0x20 && vFmtD w == 8

/-- An operation of the compute queue and the sampling unit. -/
def vComputes (opc : Nat) : Bool :=
  [0x01, 0x02, 0x03, 0x04, 0x05, 0x06, 0x07, 0x08, 0x09, 0x10, 0x11, 0x12, 0x13, 0x14, 0x15, 0x20, 0x21, 0x22, 0x23,
   0x30, 0x31, 0x32, 0x33, 0x34, 0x40, 0x41, 0x50, 0x51, 0x52, 0x64].contains opc

/-- The block size COUNT must be a multiple of (R102, R94). -/
def vBlock (w : Nat) : Nat :=
  match vOpc w with
  | 0x21 => 32
  | 0x22 => 64
  | 0x23 => if vFmtA w == 12 then 64 else 32
  | _ => 1

/-- An operation names an entry of the random-stream map: it draws, or rounds stochastically (R101, R103, R133). -/
def vDraws (w : Nat) : Bool := (vRnd w && bit (vFields (vOpc w)) 0) || vOpc w == 0x40 || vOpc w == 0x41 || vOpc w == 0x52

/-- Slice moves and VFWD, for a mover whose SRAM has `lim` bytes; `fwd` is the opcode that names a T-core (R104-R106,
R118). -/
def moveCheck (fwd lim w : Nat) : Option Status :=
  let isFwd := vOpc w == fwd
  firstFail [
    (bits w 8 12 != 0 || bits w 45 19 != 0 || bits w 99 29 != 0 || (isFwd && mvSram w != 0)
      || (!isFwd && (mvTcore w != 0 || mvTsram w != 0)), .formatUnsupported),
    (vCount w == 0, .badLength),
    (mvOff w % 32 != 0 || mvSram w % 32 != 0 || mvTsram w % 32 != 0, .align),
    ((!isFwd && decide (lim < mvSram w + 32 * vCount w)) || (isFwd && decide (8192 < mvTsram w + 32 * vCount w))
      || decide (sliceBytes < mvOff w + 32 * vCount w) || (isFwd && decide (47 < mvTcore w)), .bound)]

/-- The checks of R106 on a V-core operation, in order; `maps` is the number of entries of the random-stream map. -/
def vcoreCheck (maps w : Nat) : Option Status :=
  let o := vOpc w
  if o == 0x60 || o == 0x61 || o == 0x62 then moveCheck 0x62 16384 w
  else if !(vComputes o || o == 0x63) then some .badOpcode
  else
    let red := o == 0x30 || o == 0x31 || o == 0x32
    let seg := segLen w
    let u := vUse w
    firstFail [
      (!vFormatsOk w || vRndBad w || vReservedBad w || (o == 0x50 && bits (vEoff w) 9 7 != 0)
        || (o == 0x51 && bits (vEoff w) 22 10 != 0), .formatUnsupported),
      (vCount w == 0 || (red && seg == 0) || (o == 0x50 && (bits (vEoff w) 0 9 == 0 || bits (vEoff w) 16 16 == 0))
        || (o == 0x51 && (bits (vEoff w) 0 11 == 0 || bits (vEoff w) 11 11 == 0)), .badLength),
      (u.streams.any (fun x => x % 32 != 0) || vCount w % vBlock w != 0 || (o == 0x52 && vSrcB w % 16 != 0)
        || (red && (seg % (if vFmtA w == 1 then 16 else 8) != 0 || vCount w % seg != 0)), .align),
      ((u.reads ++ u.writes).any (fun r => decide (16384 < r.lo + r.len)) || (vDraws w && decide (maps ≤ vStream w))
        || (o == 0x50 && decide (256 < bits (vEoff w) 0 9))
        || (o == 0x51 && (decide (1024 < vCount w) || decide (1024 < bits (vEoff w) 0 11)
            || decide (1024 < bits (vEoff w) 11 11) || rngsMeet u.reads u.writes))
        || (o == 0x52 && decide (1024 < vCount w)), .bound)]

/-- What a V-core operation still has to read and write; a gather may read any byte (R97).  Beats a VSEND has sent and
words a slice move has moved are no longer to be read or written. -/
def vFoot (o : Op) : Foot :=
  let w := o.word.toNat
  let u := vUse w
  if vOpc w == 0x63 then { reads := [⟨vSrcA w + o.sent, 4 * vCount w - o.sent⟩] }
  else if vOpc w == 0x60 then { writes := [⟨mvSram w + 32 * o.done, 32 * (vCount w - o.done)⟩] }
  else if vOpc w == 0x61 then { reads := [⟨mvSram w + 32 * o.done, 32 * (vCount w - o.done)⟩] }
  else if vOpc w == 0x62 then {}
  else if vOpc w == 0x34 then { reads := [⟨0, 16384⟩], writes := u.writes }
  else { reads := u.reads, writes := u.writes }

/-- The queue of a V-core operation: 0 compute, 1 move (R89). -/
def vQueue (w : Nat) : Nat := if [0x60, 0x61, 0x62, 0x63].contains (vOpc w) then 1 else 0

/-- Another requester has taken a port slot: the running move, the first of these operations of which `move` holds, has its
next word after it (R180, R182). -/
def markTaken (move : Nat → Bool) : List Op → List Op
  | [] => []
  | o :: r => if move o.word.toNat then { o with taken := true } :: r else o :: markTaken move r

/-- The checks of R118 on a slice move of an S-core; SFILLI needs feature level 2. -/
def smoveCheck (fl w : Nat) : Option Status :=
  match vOpc w with
  | 0x60 | 0x61 | 0x62 => moveCheck 0x62 4096 w
  | 0x65 => if fl < 2 then some .formatUnsupported else moveCheck 0x62 8192 w
  | _ => some .badOpcode

/-! ### Slot-table entries (R139, R140) -/

def entMask (e i : Nat) : Nat := bits e (5 * i) 5
def entRed (e i : Nat) : Bool := bit e (25 + i)
def entWrap (e : Nat) : Bool := bit e 30
def entSlots (e : Nat) : Nat := bits e 32 16
def entMode (e : Nat) : Nat := bits e 64 2
def entSrc (e : Nat) : Nat := bits e 66 7
def entDst (e : Nat) : Nat := bits e 73 7
def entAddr (e : Nat) : Nat := bits e 80 10

/-- Bits set in a 5-bit mask. -/
def maskSize (m : Nat) : Nat := (List.range 5).countP (bit m)

/-- Output i of a table entry in the order N, E, S, W, L, as bit number of its own port in a mask: N 1, E 2, S 3, W 4,
L 0. -/
def outPortBit (i : Nat) : Nat := if i == 4 then 0 else i + 1

/-- Units of 16 B in the SRAM of a mini-mesh destination (R140 check 5). -/
def meshUnits (dst : Nat) : Nat := if dst < 48 || dst == 65 then 512 else if dst < 60 || dst == 66 then 1024 else 256

/-- Checks 1-3 and 5 of R140 on a slot-table entry, and check 4 against the ports that carry scheduled words
(a 5-bit mask, local always set). -/
def entryCheck (ports e : Nat) : Option Status :=
  let mode := entMode e
  let src := entSrc e
  let dst := entDst e
  let outs := List.range 5
  firstFail [
    (entSlots e == 0, .badLength),
    (bit e 31 || bits e 48 16 != 0 || bits e 90 38 != 0 || mode == 3 || decide (64 < src) || decide (66 < dst)
      || (mode == 0 && (src != 0 || dst != 0 || entAddr e != 0))
      || (mode == 1 && ((src == 64 && dst == 64) || (60 ≤ src && src ≤ 63)))
      || (mode == 2 && (!(48 ≤ src && src ≤ 63) || dst != 0 || entAddr e != 0)), .formatUnsupported),
    (outs.any (fun i =>
        let m := entMask e i
        (bit m (outPortBit i) && (i != 4 || !entRed e 4))
          || (if entRed e i then decide (maskSize m < 2) else decide (1 < maskSize m))), .formatUnsupported),
    (outs.any (fun i =>
        let m := entMask e i
        (m != 0 && !bit ports (outPortBit i)) || (List.range 5).any fun p => bit m p && !bit ports p), .bound),
    (mode == 1 && dst != 64 && decide (meshUnits dst < entAddr e + entSlots e), .bound)]

end Sys2Proof.Machine
end

