-- ==== Sys2Proof/Machine/Ops.lean ====
section
/-! DEFINITION. The shared operations: reading and changing one unit of the module, host memory, the logs, MSI-X,
the device-to-host queue, completion records and events (R303, R309, R327-R330, R494). -/

namespace Sys2Proof.Machine

/-- A command's outcome: every command of the block has a next state. -/
abbrev Result := Host.Outcome State Fault Refusal

/-! ### One unit of the module -/

def State.func (s : State) (f : Nat) : Func := Sparse.get {} s.funcs f
def State.setFunc (s : State) (f : Nat) (x : Func) : State := { s with funcs := Sparse.set {} s.funcs f x }
def State.onFunc (s : State) (f : Nat) (g : Func → Func) : State := s.setFunc f (g (s.func f))

def State.polder (s : State) (p : Nat) : Polder := Sparse.get {} s.polders p
def State.setPolder (s : State) (p : Nat) (x : Polder) : State := { s with polders := Sparse.set {} s.polders p x }
def State.onPolder (s : State) (p : Nat) (g : Polder → Polder) : State := s.setPolder p (g (s.polder p))

def State.halfDie (s : State) (h : Nat) : HalfDie := Sparse.get {} s.halfDies h
def State.setHalfDie (s : State) (h : Nat) (x : HalfDie) : State := { s with halfDies := Sparse.set {} s.halfDies h x }
def State.onHalfDie (s : State) (h : Nat) (g : HalfDie → HalfDie) : State := s.setHalfDie h (g (s.halfDie h))

def State.chan (s : State) (ch : Nat) : DmaCh := Sparse.get {} s.dma ch
def State.setChan (s : State) (ch : Nat) (x : DmaCh) : State := { s with dma := Sparse.set {} s.dma ch x }
def State.onChan (s : State) (ch : Nat) (g : DmaCh → DmaCh) : State := s.setChan ch (g (s.chan ch))

def State.engine (s : State) (b : Nat) : Engine := Sparse.get {} s.engines b
def State.onEngine (s : State) (b : Nat) (g : Engine → Engine) : State :=
  { s with engines := Sparse.set {} s.engines b (g (s.engine b)) }

def State.link (s : State) (n : Nat) : Link := Sparse.get {} s.links n
def State.setLink (s : State) (n : Nat) (x : Link) : State := { s with links := Sparse.set {} s.links n x }
def State.onLink (s : State) (n : Nat) (g : Link → Link) : State := s.setLink n (g (s.link n))

def State.cluster (s : State) (cl : Nat) : Cluster := Sparse.get {} s.clusters cl
def State.setCluster (s : State) (cl : Nat) (x : Cluster) : State := { s with clusters := Sparse.set {} s.clusters cl x }
def State.onCluster (s : State) (cl : Nat) (g : Cluster → Cluster) : State := s.setCluster cl (g (s.cluster cl))

def State.edgeCh (s : State) (e : Nat) : EdgeCh := Sparse.get {} s.channels e
def State.setEdgeCh (s : State) (e : Nat) (x : EdgeCh) : State := { s with channels := Sparse.set {} s.channels e x }
def State.onEdgeCh (s : State) (e : Nat) (g : EdgeCh → EdgeCh) : State := s.setEdgeCh e (g (s.edgeCh e))

def State.stack (s : State) (e : Nat) : Stack := Sparse.get {} s.edgeStacks e
def State.onStack (s : State) (e : Nat) (g : Stack → Stack) : State :=
  { s with edgeStacks := Sparse.set {} s.edgeStacks e (g (s.stack e)) }

def State.basin (s : State) (b : Nat) : Basin := Sparse.get {} s.basins b
def State.onBasin (s : State) (b : Nat) (g : Basin → Basin) : State :=
  { s with basins := Sparse.set {} s.basins b (g (s.basin b)) }

def State.ucmDie (s : State) (d : Nat) : UcmDie := Sparse.get {} s.ucmDies d
def State.onUcmDie (s : State) (d : Nat) (g : UcmDie → UcmDie) : State :=
  { s with ucmDies := Sparse.set {} s.ucmDies d (g (s.ucmDie d)) }

/-- VF_MAP of a function: 31 (NONE) where unset, and for the PF. -/
def State.vfPolder (s : State) (f : Nat) : Nat := if f == 0 then 31 else Sparse.get 31 s.vfMap f

/-- Changing each of a list of units in turn. -/
def State.each (s : State) (l : List α) (g : State → α → State) : State := l.foldl g s

/-- A fresh number for a free value. -/
def State.take (s : State) : Nat × State := (s.fresh, { s with fresh := s.fresh + 1 })

/-! ### Places (R14) -/

/-- Die, logical x and y of a global cluster number. -/
def dieOf (cl : Nat) : Nat := cl / 1344
def xOf (cl : Nat) : Nat := cl % 1344 % 48
def yOf (cl : Nat) : Nat := cl % 1344 / 48
/-- The half-die of a cluster. -/
def halfOf (cl : Nat) : Nat := 2 * dieOf cl + (if xOf cl < 24 then 0 else 1)
/-- The cluster of a core. -/
def clusterOf (core : Nat) : Nat := core / 64
/-- The base die of a DMA channel. -/
def engineOf (ch : Nat) : Nat := ch / 64

/-- Half-die h lies in a polder's rectangle (R158). -/
def Polder.holds? (p : Polder) (h : Nat) : Bool :=
  p.state != .none && decide (p.r0 ≤ h / 12) && decide (h / 12 < p.r0 + p.h) && decide (p.c0 ≤ h % 12)
    && decide (h % 12 < p.c0 + p.w)

/-- Clock of a step in MHz (R132, R357). -/
def stepMHz (st : Nat) : Nat := if st == 16 then 2600 else 600 + 120 * st

/-- The clock of a polder, MHz: the weir's while it acts (R375). -/
def Polder.mhz (p : Polder) : Nat := min (p.weir.getD (stepMHz p.step)) (stepMHz p.step)

/-- The half-dies of a polder, ascending. -/
def Polder.halfDies (p : Polder) : List Nat := (List.range 24).filter p.holds?

/-- The polder that a half-die belongs to; 31 for none. -/
def State.polderOf (s : State) (h : Nat) : Nat :=
  ((List.range 24).find? fun p => (s.polder p).holds? h).getD 31

/-- The polder of a core's cluster. -/
def State.polderAt (s : State) (core : Nat) : Nat := s.polderOf (halfOf (clusterOf core))

/-- Clusters of a polder that are not idle, in ascending v, then u (R126, R159). -/
def Polder.clusters (p : Polder) : List Nat :=
  (List.range (p.h * p.rows)).flatMap fun v => (List.range (24 * p.w)).map fun u =>
    let col := p.c0 + u / 24
    let h := (p.r0 + v / p.rows) * 12 + col
    h / 2 * 1344 + v % p.rows * 48 + h % 2 * 24 + u % 24

/-- Polder-local coordinates of a cluster (R126). -/
def Polder.coord (p : Polder) (cl : Nat) : Nat × Nat :=
  let h := halfOf cl
  (24 * (h % 12 - p.c0) + xOf cl % 24, p.rows * (h / 12 - p.r0) + yOf cl)

/-- The cluster at polder-local coordinates. -/
def Polder.clusterAt (p : Polder) (u v : Nat) : Nat :=
  let h := (p.r0 + v / p.rows) * 12 + p.c0 + u / 24
  h / 2 * 1344 + v % p.rows * 48 + h % 2 * 24 + u % 24

/-- COORD: u in [15:0], v in [31:16] (R120). -/
def Polder.coordWord (p : Polder) (cl : Nat) : Nat := (p.coord cl).1 + (p.coord cl).2 * 2 ^ 16

/-- A cluster belongs to the polder and is not one of its idle rows (R159). -/
def Polder.runs (p : Polder) (cl : Nat) : Bool := p.holds? (halfOf cl) && decide (yOf cl < p.rows)

/-- The kind of seam between half-die columns c and c + 1: 0 inside a die, 1 base-die, 2 optical (R125). -/
def seamKind (c : Nat) : Nat := if c % 2 == 0 then 0 else if c == 5 then 2 else 1

/-- SHAPE_CLASS of a rectangle (R125). -/
def shapeClass (c0 w h rows : Nat) : Nat :=
  w + h * 2 ^ 4 + rows * 2 ^ 6
    + ((List.range (w - 1)).map fun i => seamKind (c0 + i) * 2 ^ (16 + 2 * i)).foldl (· + ·) 0

/-- The polder exists: its creation has completed (R161, R334). -/
def Polder.exists_ (p : Polder) : Bool :=
  p.state != .none && !(p.state == .empty && p.command.isSome)

/-- A polder's shape class; 0 where none has the number (R336). -/
def Polder.shape (p : Polder) : Nat := if p.exists_ then shapeClass p.c0 p.w p.h p.rows else 0

/-- Value of a polder state (R162). -/
def PState.code : PState → Nat
  | .none => 0
  | .empty => 1
  | .loaded => 2
  | .running => 3
  | .halted => 4
  | .resetting => 5

def Polder.degraded (p : Polder) : Bool := p.fenced || p.narrow

/-- The VF that holds a polder, or 0 (R336). -/
def State.holder (s : State) (p : Nat) : Nat := ((List.range 25).find? fun v => v != 0 && s.vfPolder v == p).getD 0

/-- The state word of R336; 0 (state NONE) where no polder has the number. -/
def State.stateWord (s : State) (n : Nat) : Nat :=
  let p := s.polder n
  if !p.exists_ then 0 else
    p.state.code + b2n p.degraded * 2 ^ 4 + b2n p.fenced * 2 ^ 5 + b2n p.narrow * 2 ^ 6
      + p.c0 * 2 ^ 8 + p.r0 * 2 ^ 12 + p.w * 2 ^ 16 + p.h * 2 ^ 20 + s.holder n * 2 ^ 24

/-! ### Cores -/

/-- Free bytes that undefined memory reads as: those of epoch `junk`, core `core`. -/
def junkBytes (junk core n : Nat) : Memory :=
  Sparse.ofList 0 0 ((List.range n).map fun i => Config.freeByte ((junk * 2 ^ 20 + core) * 2 ^ 20 + i))

/-- ARITH_STATUS of a core that no command has changed since its contents were last lost: undefined after a floodgate until
a job starts (R50, R315; log 5). -/
def HalfDie.flagsOf (h : HalfDie) (core : Nat) : Flags :=
  if h.junkFlags then BitVec.ofNat 5 (Config.freeNat (((h.junk * 2 ^ 20 + core) * 2 ^ 16 + 50) * 4 + 2)) else 0

/-- A T-core that no command has changed since its contents were last lost: all 0, or undefined.  What it had counted since
its last activity report counts 0 from then on: the spec does not say what becomes of it (R73; DESIGN CHOICE, log 5). -/
def TCore.untouched (h : HalfDie) (core : Nat) : TCore :=
  if h.junk == 0 then {} else
    let regs : TCore := if h.junkRegs then
      { busy := Config.freeNat ((h.junk * 2 ^ 20 + core) * 4) % 2 ^ 32
        bubbles := Config.freeNat ((h.junk * 2 ^ 20 + core) * 4 + 1) % 2 ^ 32 } else {}
    { regs with
      status := HalfDie.flagsOf h core
      sram := junkBytes h.junk core 8192
      acc := Sparse.ofList 0 0 ((List.range 1024).map fun i =>
        BitVec.ofNat 32 (Config.freeNat (((h.junk * 2 ^ 20 + core) * 2 ^ 12 + i) * 4 + 3))) }

/-- An S-core that no command has changed since its contents were last lost: one that received no code placement, or
undefined until placements are sent again (R130, R389, R499; log 5). -/
def SCore.untouched (h : HalfDie) (core : Nat) : SCore :=
  if h.junk == h.placed then {} else
    let at_ (i : Nat) : Nat := ((h.junk * 2 ^ 20 + core) * 2 ^ 16 + i) * 4 + 2
    { pc := Config.freeNat (at_ 0) % 2 ^ 32
      regs := Sparse.ofList 0 1 ((List.range 31).map fun i => BitVec.ofNat 32 (Config.freeNat (at_ (1 + i))))
      imem := junkBytes h.junk core 8192
      dmem := Sparse.ofList 0 0 ((List.range 4096).map fun i =>
        Config.freeByte ((h.junk * 2 ^ 20 + core) * 2 ^ 20 + 8192 + i))
      anchor := Config.freeNat (at_ 32) % 2 ^ 64
      tmask := Sparse.ofList 0 0 ((List.range 8).map fun i => Config.freeNat (at_ (33 + i)) % 2 ^ 48)
      vmask := Sparse.ofList 0 0 ((List.range 8).map fun i => Config.freeNat (at_ (41 + i)) % 2 ^ 12)
      conflicts := Config.freeNat (at_ 49) % 2 ^ 32
      status := HalfDie.flagsOf h core }

/-- A V-core that no command has changed since its contents were last lost. -/
def VCore.untouched (h : HalfDie) (core : Nat) : VCore :=
  if h.junk == 0 then {} else
    let regs : VCore := if h.junkRegs then
      { busy := Config.freeNat ((h.junk * 2 ^ 20 + core) * 4) % 2 ^ 32
        stalls := Config.freeNat ((h.junk * 2 ^ 20 + core) * 4 + 1) % 2 ^ 32 } else {}
    { regs with status := HalfDie.flagsOf h core, sram := junkBytes h.junk core 16384 }

def State.tcore (s : State) (c : Nat) : TCore :=
  Sparse.get (TCore.untouched (s.halfDie (halfOf (clusterOf c))) c) s.tcores c
def State.setTcore (s : State) (c : Nat) (x : TCore) : State :=
  { s with tcores := Sparse.set (TCore.untouched (s.halfDie (halfOf (clusterOf c))) c) s.tcores c x }
def State.onTcore (s : State) (c : Nat) (g : TCore → TCore) : State := s.setTcore c (g (s.tcore c))

def State.vcore (s : State) (c : Nat) : VCore :=
  Sparse.get (VCore.untouched (s.halfDie (halfOf (clusterOf c))) c) s.vcores c
def State.setVcore (s : State) (c : Nat) (x : VCore) : State :=
  { s with vcores := Sparse.set (VCore.untouched (s.halfDie (halfOf (clusterOf c))) c) s.vcores c x }
def State.onVcore (s : State) (c : Nat) (g : VCore → VCore) : State := s.setVcore c (g (s.vcore c))

def State.score (s : State) (c : Nat) : SCore :=
  Sparse.get (SCore.untouched (s.halfDie (halfOf (clusterOf c))) c) s.scores c
def State.setScore (s : State) (c : Nat) (x : SCore) : State :=
  { s with scores := Sparse.set (SCore.untouched (s.halfDie (halfOf (clusterOf c))) c) s.scores c x }
def State.onScore (s : State) (c : Nat) (g : SCore → SCore) : State := s.setScore c (g (s.score c))

/-- The slot table of a cluster: undefined from the loss of its contents until placements are sent again (R389, R499;
log 5). -/
def State.slotTable (s : State) (cl : Nat) : Sparse U128 :=
  let h := s.halfDie (halfOf cl)
  if h.junk == h.placed then (s.cluster cl).table
  else Sparse.ofList idleEntry 0 ((List.range 4096).map fun i =>
    BitVec.ofNat 128 (leNat ((List.range 16).map fun b =>
      Config.freeByte (((h.junk * 2 ^ 20 + cl) * 2 ^ 17 + 2 ^ 16 + 16 * i + b) * 2 + 1))))

/-- The cores of half-dies `hs` lose their contents, and their slot tables and queues theirs: they are undefined from now
on (R389, R499). -/
def State.junkCores (s : State) (hs : List Nat) (regs : Bool) : State :=
  let s := { s with
    fresh := s.fresh + 1
    tcores := Sparse.drop (fun c => hs.contains (halfOf (clusterOf c))) s.tcores
    vcores := Sparse.drop (fun c => hs.contains (halfOf (clusterOf c))) s.vcores
    scores := Sparse.drop (fun c => hs.contains (halfOf (clusterOf c))) s.scores }
  s.each hs fun s h => s.onHalfDie h fun x => { x with junk := s.fresh, junkRegs := regs, junkFlags := regs }

/-! ### Host memory, as a requester (R276, R294) -/

/-- No page of the range answers a request with the requester ID of function `f` with an error completion. -/
def State.hostOk (s : State) (f a n : Nat) : Bool :=
  n == 0 || !(s.hostErr.any fun e => e.2 && e.1 / 2 ^ 52 == f && decide (a / 4096 ≤ e.1 % 2 ^ 52)
    && decide (e.1 % 2 ^ 52 ≤ (a + n - 1) / 4096))

/-- A read of host memory by function `f`; none for an error completion. -/
def State.hostRead (s : State) (f a n : Nat) : Option (List Byte) :=
  if s.hostOk f a n then some (s.hostMem.read a n) else none

/-- A write of host memory by function `f`; none for an error completion. -/
def State.hostWrite (s : State) (f a : Nat) (l : List Byte) : Option State :=
  if s.hostOk f a l.length then some { s with hostMem := s.hostMem.write a l } else none

/-! ### Logs -/

/-- An entry of the firmware error log. -/
def State.addLog (s : State) (code func polder a b c : Nat) : State :=
  { s with log := s.log ++ [⟨s.time.dev, code, func, polder, a, b, c⟩] }

/-- An access error: ACC_ERR describes it, counts it, and log 4 takes an entry (R494). -/
def State.accessError (s : State) (f kind : Nat) (bar2 : Bool) (off : Nat) : State :=
  { s with
    accErr := { count := satAdd 16 s.accErr.count 1, func := f, kind := kind, bar2 := bar2, offset := off % 2 ^ 26 }
    accLog := s.accLog ++ [⟨s.time.dev, 15, f, 31, kind, b2n bar2, off⟩] }

/-- KIND of ACC_ERR. -/
def kWidth : Nat := 0
def kHole : Nat := 1
def kRefused : Nat := 2
def kBar4 : Nat := 3

/-! ### The water board's internal queues (R313) -/

/-- The domain of a receiver is powered: BDCs and the PMP lie in the management domain, CDCs in the culvert domain. -/
def State.boardOn (s : State) (target : Nat) : Bool :=
  if 16 ≤ target then s.power.culverts else s.power.management && !s.trust.romDue

/-- A word from one controller to another: into the receiver's queue of 16, the newest replaced where it is full; a
receiver whose domain is down answers with a bus error, which the sender counts and logs, and the word is dropped. -/
def State.boardSend (s : State) (sender target : Nat) (w : Word) : State :=
  if s.boardOn target then
    { s with
      board := Sparse.modify [] s.board target fun q => (if q.length < 16 then q else q.take 15) ++ [(sender, w)]
      boardLost := if (Sparse.get [] s.board target).length < 16 then s.boardLost else Sparse.set false s.boardLost target true }
  else { s with boardErrors := Sparse.modify 0 s.boardErrors sender (· + 1) }.addLog 21 0 31 sender target w.toNat

/-- Words that CDC `d` reports, to its BDC, which passes them on to the PMP (R19; DESIGN CHOICE, log 55). -/
def State.boardReport (s : State) (d : Nat) (ws : List Word) : State :=
  s.each ws fun s w => s.boardSend (16 + d) (1 + d / 3) w

/-- The dies of a polder. -/
def Polder.dies (p : Polder) : List Nat := (p.halfDies.map (· / 2)).dedup

/-- A command of the PMP on a polder: a word to the BDC of each of its dies, which passes it on to the CDC (R19, R313;
DESIGN CHOICE, log 55): 4 creation, 5 end, 6 reset, 7 admission of a job; the polder and the die. -/
def State.boardOrder (s : State) (n kind : Nat) : State :=
  s.each (s.polder n).dies fun s d => s.boardSend 0 (1 + d / 3) (BitVec.ofNat 32 (kind * 2 ^ 24 + n * 2 ^ 8 + d))

/-- A receiver takes its queue: the words it keeps, none after a collision (R308, R313). -/
def State.boardTake (s : State) (r : Nat) : List (Nat × Word) × State :=
  (if Sparse.get false s.boardLost r then [] else Sparse.get [] s.board r,
    { s with board := Sparse.set [] s.board r [], boardLost := Sparse.set false s.boardLost r false })

/-- A BDC passes on what it holds: what a CDC reports to the PMP, what the PMP commands to the CDC that the word names. -/
def State.boardPass (s : State) (b : Nat) : State :=
  let r := s.boardTake (1 + b)
  r.1.foldl (fun s x => if x.1 == 0 then s.boardSend (1 + b) (16 + x.2.toNat % 16) x.2 else s.boardSend (1 + b) 0 x.2) r.2

/-- Every receiver that runs takes its queue, the PMP and the CDCs first (R311, R313; DESIGN CHOICE, log 55). -/
def State.boardPoll (s : State) : State :=
  let s := if s.trust.running then (s.boardTake 0).2 else s
  let s := s.each (List.range 12) fun s d =>
    if s.power.culverts && !Sparse.get false s.cdcDown d then (s.boardTake (16 + d)).2 else s
  s.each (List.range 4) fun s b => if s.power.management then s.boardPass b else s

/-! ### Rails (R348, R397) -/

def State.rail (s : State) (r : Nat) : Rail := Sparse.get {} s.ledger.rails r
def State.onRail (s : State) (r : Nat) (g : Rail → Rail) : State :=
  { s with ledger := { s.ledger with rails := Sparse.modify {} s.ledger.rails r g } }

/-- A voltage request of a rail: sent at once where none is outstanding, else queued; a newer one takes the place of what is
queued, and takes in what it asked for (R397). -/
def Rail.ask (x : Rail) (r : VoltReq) : Rail :=
  if x.sent.isNone then { x with sent := some r }
  else { x with queued := some { r with
    raise := r.raise || x.queued.any (·.raise)
    avs := if r.avs.isSome then r.avs else x.queued.bind (·.avs) } }

/-- The same request of several rails. -/
def State.askRails (s : State) (rs : List Nat) (r : VoltReq) : State := s.each rs fun s n => s.onRail n fun x => x.ask r

/-- The word in which a CDC reports a protective action to the PMP (R19): 1 a fence, 2 a throttle, 3 a shutdown, and the
unit.  The spec gives it no content: DESIGN CHOICE (log 55). -/
def actionWord (kind unit : Nat) : Word := BitVec.ofNat 32 (kind * 2 ^ 24 + unit)

/-! ### MSI-X (R303) -/

/-- Vectors of a function. -/
def vectorsOf (f : Nat) : Nat := if f == 0 then 512 else 64

/-- A message is raised: sent, or left pending while its vector is masked, MSI-X is off or Bus Master Enable is clear. -/
def State.signal (s : State) (f v : Nat) : State :=
  let x := s.func f
  let e := Sparse.get {} x.msix v
  if x.bme && x.msixOn && !e.masked then
    { s with msixSent := Sparse.modify 0 s.msixSent (f * 1024 + v) (· + 1) }
  else s.setFunc f { x with msix := Sparse.set {} x.msix v { e with pending := true } }

/-- Sending a pending message whose condition has cleared. -/
def State.release (s : State) (f v : Nat) : State :=
  let x := s.func f
  let e := Sparse.get {} x.msix v
  if e.pending && x.bme && x.msixOn && !e.masked then
    { s.setFunc f { x with msix := Sparse.set {} x.msix v { e with pending := false } } with
      msixSent := Sparse.modify 0 s.msixSent (f * 1024 + v) (· + 1) }
  else s

/-- Every pending message of a function whose condition has cleared, in ascending vector. -/
def State.releaseAll (s : State) (f : Nat) : State :=
  s.each (((s.func f).msix.filter fun e => e.2.pending).map Prod.fst) fun s v => s.release f v

/-! ### The device-to-host queue (R307, R309) -/

/-- One word pushed: it replaces the newest where the queue is full. -/
def Func.push (x : Func) (sender : Nat) (w : Word) : Func :=
  if x.d2h.length < 16 then { x with d2h := x.d2h ++ [(sender, w)] }
  else { x with d2h := x.d2h.take 15 ++ [(sender, w)], d2hCollision := true }

/-- A message of words from the PMP; its vector follows the last word (R309). -/
def State.sendWords (s : State) (f : Nat) (ws : List Word) : State :=
  let s := s.onFunc f fun x => ws.foldl (fun y w => y.push 0 w) x
  if (s.func f).d2hIrq then s.signal f (s.func f).mbVector else s

/-! ### Completion records and events (R327-R330) -/

/-- What a command answers. -/
structure Answer where
  status : Status := .ok
  polder : Nat := 0xFFFF
  r0 : Nat := 0
  r1 : Nat := 0
  outBytes : Nat := 0
  detail : Nat := 0
deriving DecidableEq, Repr

/-- A 32 B record with PHASE 0 (R327). -/
def recordBytes (tag opc status kind polder r0 r1 out detail : Nat) : List Byte :=
  leBytes 2 tag ++ leBytes 1 opc ++ leBytes 1 status ++ leBytes 1 kind ++ leBytes 1 0 ++ leBytes 2 polder
    ++ leBytes 8 r0 ++ leBytes 8 r1 ++ leBytes 4 out ++ leBytes 4 detail

/-- The record with PHASE set as the ring has it. -/
def withPhase (phase : Bool) (l : List Byte) : List Byte := patch l 5 (leBytes 1 (b2n phase))

/-- The ring after a record at its next index (R329). -/
def Ring.advance (r : Ring) : Ring :=
  if r.next + 1 == r.size then { r with next := 0, phase := !r.phase } else { r with next := r.next + 1 }

/-- SIZE − 1 records are unread as far as firmware knows (R329). -/
def Ring.full (r : Ring) : Bool := decide (r.size - 1 ≤ (r.next + r.size - r.cons) % r.size)

/-- Firmware rereads CONS_ADDR of a full ring; a value of SIZE or more is ignored and logged (R329). -/
def State.reread (s : State) (f : Nat) : State :=
  match (s.func f).ring with
  | none => s
  | some r =>
    match s.hostRead f r.consAddr 4 with
    | none => s
    | some l =>
      let v := fieldAt l 0 4
      if v < r.size then s.onFunc f fun x => { x with ring := some { r with cons := v } }
      else s.addLog 10 f (s.vfPolder f) v r.size 0

/-- Writing one record to the ring: lost and logged where the write ends in an error completion (R329). -/
def State.writeRecord (s : State) (f : Nat) (event : Bool) (l : List Byte) : State :=
  match (s.func f).ring with
  | none => s
  | some r =>
    match s.hostWrite f (r.addr + 32 * r.next) (withPhase r.phase l) with
    | none => s.addLog 9 f (s.vfPolder f) r.addr r.next 0
    | some s =>
      let s := s.onFunc f fun x => { x with ring := some r.advance }
      s.signal f (if event then r.eventVector else r.vector)

/-- Code of an EVENTS_LOST event. -/
def evLost : Nat := 0x0C

/-- Writing what is due, in order, while the ring has room and Bus Master Enable is set; EVENTS_LOST precedes the next
event delivered (R329, R330). -/
def State.flushAux (f : Nat) : (fuel : Nat) → State → State
  | 0, s => s
  | n + 1, s =>
    match (s.func f).due, (s.func f).ring with
    | d :: rest, some r =>
      if !(s.func f).bme then s else
        let s := if r.full then s.reread f else s
        match (s.func f).ring with
        | none => s
        | some r =>
          if r.full then s
          else if d.event && decide (0 < (s.func f).eventsLost) then
            let l := recordBytes 0 0 0 1 0xFFFF (s.func f).eventsLost 0 0 evLost
            State.flushAux f n ((s.onFunc f fun x => { x with eventsLost := 0 }).writeRecord f true l)
          else State.flushAux f n ((s.onFunc f fun x => { x with due := rest }).writeRecord f d.event d.record)
    | _, _ => s

/-- Writing what is due on a function's ring. -/
def State.flush (s : State) (f : Nat) : State := State.flushAux f (2 * (s.func f).due.length + 1) s

/-- Completions held for a function. -/
def Func.heldCompletions (x : Func) : Nat := (x.due.filter fun d => !d.event).length

/-- The short device-to-host word of a completion (R327). -/
def shortWord (tag opc : Nat) (st : Status) : Word := BitVec.ofNat 32 (tag * 2 ^ 16 + st.code * 2 ^ 8 + opc)

/-- The completion record of an answer. -/
def Answer.record (a : Answer) (tag opc : Nat) : List Byte :=
  recordBytes tag opc a.status.code 0 a.polder a.r0 a.r1 a.outBytes a.detail

/-- A completion goes out: written to the ring once the ring has room; without a ring, and on NOTIFY, the short word is
sent (R326, R327). -/
def State.post (s : State) (f tag opc : Nat) (notify : Bool) (a : Answer) : State :=
  let hasRing := (s.func f).ring.isSome
  let s := s.onFunc f fun x => { x with due := if hasRing then x.due ++ [⟨false, a.record tag opc⟩] else x.due }
  let s := s.flush f
  if notify || !hasRing then s.sendWords f [shortWord tag opc a.status] else s

/-- The record of a command in progress is remembered under its tag (R331). -/
def Func.remember (x : Func) (tag opc : Nat) (r : List Byte) : Func :=
  { x with tags := x.tags.map fun t =>
    if t.tag == tag && t.opc == opc && t.record.isNone then { t with record := some r } else t }

/-- Firmware answers a command. -/
def State.complete (s : State) (f tag opc : Nat) (notify : Bool) (a : Answer) : State :=
  (s.onFunc f fun x => x.remember tag opc (a.record tag opc)).post f tag opc notify a

/-- An event on one function's ring: at most 32 wait, further ones are counted (R330). -/
def State.eventTo (s : State) (f polder r0 r1 code : Nat) : State :=
  if decide (32 ≤ ((s.func f).due.filter Due.event).length) then
    s.onFunc f fun x => { x with eventsLost := x.eventsLost + 1 }
  else
    (s.onFunc f fun x => { x with due := x.due ++ [⟨true, recordBytes 0 0 0 1 polder r0 r1 0 code⟩] }).flush f

/-- An event: to the PF, and to the VF that holds the polder it concerns (R330); POLDER is 0xFFFF where it concerns none
(R327).  Firmware sends it, so none is sent while firmware does not run. -/
def State.event (s : State) (polder r0 r1 code : Nat) : State :=
  if !s.trust.running then s else
    let s' := s.eventTo 0 (if polder < 24 then polder else 0xFFFF) r0 r1 code
    if polder < 24 && s.holder polder != 0 then s'.eventTo (s.holder polder) polder r0 r1 code else s'

end Sys2Proof.Machine
end

