-- ==== Sys2Proof/Machine/Clock.lean ====
section
/-! DEFINITION. The passing of time: the device timestamp, the AON timer, and the tide counters of half-dies whose polder
runs no job (R153, R449, R467, R468, R500). -/

namespace Sys2Proof.Machine

/-- One 10 ns tick: the timestamp counts from REFCLK, or 25 at a time from the AON oscillator while REFCLK is absent
(R468); a pending offset is slewed by one tick per microsecond of REFCLK (R449, R469). -/
def Time.tick (t : Time) : Time :=
  let edge := t.phase % 25 == 24
  let slewing := t.refclk && t.phase % 100 == 99 && t.slew != 0
  let step : Nat := if t.refclk then 1 else if edge then 25 else 0
  { t with
    phase := (t.phase + 1) % 100
    aon := if edge then t.aon + 1 else t.aon
    dev := (t.dev + step + (if slewing && decide (0 < t.slew) then 1 else 0))
      - (if slewing && decide (t.slew < 0) then 1 else 0)
    slew := if slewing then (if 0 < t.slew then t.slew - 1 else t.slew + 1) else t.slew }

/-- 10 ns of a clock, in tenths of its cycles. -/
def tenthsPer10ns (mhz : Nat) : Nat := mhz / 10

/-- A tide counter with its tenths after `n` tenths of a cycle, and whether it reached 65,536 (R153). -/
def tidePass (tide part n : Nat) : Nat × Nat × Bool :=
  let c := tide + (part + n) / 10
  (c % 65536, (part + n) % 10, decide (65536 ≤ c))

/-- 10 ns of the counter of a polder that runs no job, at the polder's step (R500). -/
def Polder.idlePass (p : Polder) : Polder :=
  if p.state == .none || p.state == .running then p
  else
    let t := tidePass p.tide p.tidePart (tenthsPer10ns p.mhz)
    { p with tide := t.1, tidePart := t.2.1, markDue := p.markDue || t.2.2, atMark := false }

/-- 10 ns of the counter of a half-die that belongs to no polder; in OFF its PLL stands (R500). -/
def HalfDie.idlePass (h : HalfDie) : HalfDie :=
  if h.power == .off then h
  else
    let t := tidePass h.tide h.tidePart (tenthsPer10ns (stepMHz h.step))
    { h with tide := t.1, tidePart := t.2.1, markDue := h.markDue || t.2.2 }

/-- 10 ns of every tide counter that no ROUTER_SLOT advances. -/
def State.idleTides (s : State) : State :=
  { s with
    polders := Sparse.mapWhere {} (fun n => ((s.polder n).halfDies.head?).any fun h => (s.halfDie h).power != .off)
      Polder.idlePass s.polders
    halfDies := Sparse.mapWhere {} (fun h => s.polderOf h == 31) HalfDie.idlePass s.halfDies }

/-- 10 ns pass while the AON domain has supply; in P3 the timestamp counts as without REFCLK (R467). -/
def State.tick (s : State) : State :=
  let s := s.idleTides
  if !s.power.aon then s
  else if s.power.pkg == .p3 then { s with time := { { s.time with refclk := false }.tick with refclk := s.time.refclk } }
  else { s with time := s.time.tick }

end Sys2Proof.Machine
end

