-- ==== Sys2Proof/Machine/Special.lean ====
section
/-! DEFINITION. The special-function unit (R98, R99): special inputs exactly as the table gives, and every other result
a choice the spec leaves open among the FP32 values within the stated accuracy. -/

namespace Sys2Proof.Machine

/-- FP32 values in ascending order: a code's place, negative for negative values. -/
def ordOf (code : Nat) : Int := if bit code 31 then -((code - 2 ^ 31 : Nat) : Int) else code

/-- The code at a place; the place 0 is +0. -/
def codeAt (o : Int) : Nat := if o < 0 then 2 ^ 31 + o.natAbs else o.natAbs

/-- A non-negative rational, num/den × 2^e. -/
structure Ratio where
  num : Nat
  den : Nat
  e : Int
deriving DecidableEq, Repr

/-- The FP32 code of a rational under a truncation. -/
def Ratio.code (r : Ratio) (m : Round) : Nat :=
  (Fmt.fp32.write { infKeep := true } m (.ratio false r.num r.den r.e)).1

/-- The result of operation `opc` on `input` among the places `lo` to `hi`. -/
def chooseIn (opc input : Nat) (lo hi : Int) : Exact :=
  (Fmt.fp32.decode (codeAt (lo + (Config.specialChoice opc input % ((hi - lo).toNat + 1) : Nat)))).exact

/-- Weight exponent of the unit in the last place of FP32 at a positive rational. -/
def Ratio.ulp (r : Ratio) : Int := max (floorLog2 r.num r.den + r.e - 23) (-149)

/-- r + k × 2^q, and r − k × 2^q where that is not negative, else 0. -/
def Ratio.plus (r : Ratio) (k : Nat) (q : Int) : Ratio :=
  let e := min r.e q
  ⟨r.num * pow2 (r.e - e) + k * pow2 (q - e) * r.den, r.den, e⟩
def Ratio.minus (r : Ratio) (k : Nat) (q : Int) : Ratio :=
  let e := min r.e q
  ⟨r.num * pow2 (r.e - e) - k * pow2 (q - e) * r.den, r.den, e⟩

/-- A positive result whose exact value lies from `a` to `b`: an FP32 value within `k` ulp of it, wherever between the
two it lies; negated for `neg` (R98). -/
def within (opc input : Nat) (neg : Bool) (a b : Ratio) (k : Nat) : Exact :=
  let lo : Int := (b.minus k a.ulp).code .up
  let hi : Int := (a.plus k a.ulp).code .down
  if neg then chooseIn opc input (-hi) (-lo) else chooseIn opc input lo hi

/-- ln 2 and log2 e, times 2^96, rounded down. -/
def ln2Fix : Nat := 54916777467707473351141471128
def log2eFix : Nat := 114302077158074026402637675936

/-- Σ t^j / j! from term `j` on, in units of 2^-96 rounded down. -/
def expSeries : (fuel t j term : Nat) → Nat
  | 0, _, _, _ => 0
  | fuel + 1, t, j, term => term + expSeries fuel t (j + 1) (term * t / 2 ^ 96 / (j + 1))

/-- 2^f for f in units of 2^-96 below 1: a lower bound in units of 2^-96 (the value is less than 2^10 above it). -/
def exp2Fix (f : Nat) : Nat := expSeries 32 (f * ln2Fix / 2 ^ 96) 0 (2 ^ 96)

/-- 2^n × 2^f between two rationals, f in units of 2^-96. -/
def exp2Bounds (n : Int) (f : Nat) : Ratio × Ratio :=
  let s := exp2Fix f
  (⟨s, 1, n - 96⟩, ⟨min (s + 2 ^ 10) (2 ^ 97), 1, n - 96⟩)

/-- The integer part of ±m·2^e and its fraction in units of 2^-96, rounded down. -/
def floorFrac (neg : Bool) (m : Nat) (e : Int) : Int × Nat :=
  let v : Int := m * pow2 (e + 96) / pow2 (-(e + 96))
  let v' : Int := if neg then -v - (if m * pow2 (e + 96) % pow2 (-(e + 96)) == 0 then 0 else 1) else v
  (v' / (2 ^ 96 : Nat), (v' % (2 ^ 96 : Nat)).toNat)

/-- log2 of y/2^200 in [1, 2), `n` binary digits, by repeated squaring. -/
def log2Digits : (n y : Nat) → Nat
  | 0, _ => 0
  | n + 1, y =>
    let s := y * y / 2 ^ 200
    if 2 ^ 201 ≤ s then 2 ^ n + log2Digits n (s / 2) else log2Digits n s

def opExp2 : Nat := 0x10
def opLog2 : Nat := 0x11
def opRcp : Nat := 0x12
def opRsqrt : Nat := 0x13
def opTanh : Nat := 0x14

/-- 2^x (R98, R99); 2^±0 is exactly 1, which R274 relies on (DEDUCED, log 10). -/
def sfExp2 (x : Num) (input : Nat) : Exact × Flags :=
  match x with
  | .nan => (.nan, 0)
  | .inf s => (if s then .ratio false 0 1 0 else .inf false true, 0)
  | .fin s m e =>
    if m == 0 then (.ratio false 1 1 0, 0)
    else if !s && !Num.lt x (.fin false 128 0) then (.inf false false, 0)
    else if s && Num.lt x (.fin true 149 0) then (.ratio false 0 1 0, 0)
    else
      let nf := floorFrac s m e
      if m * pow2 e % pow2 (-e) == 0 then (within opExp2 input false ⟨1, 1, nf.1⟩ ⟨1, 1, nf.1⟩ 1, 0)
      else
        let b := exp2Bounds nf.1 nf.2
        (within opExp2 input false b.1 b.2 1, 0)

/-- log2 x (R98, R99): within 2^-22 for 0.5 ≤ x ≤ 2, within 1 ulp elsewhere. -/
def sfLog2 (x : Num) (input : Nat) : Exact × Flags :=
  match x with
  | .nan => (.nan, 0)
  | .inf s => if s then (.nan, Flags.invalid) else (.inf false true, 0)
  | .fin s m e =>
    if m == 0 then (.inf true false, 0)
    else if s then (.nan, Flags.invalid)
    else
      let n : Int := e + m.log2
      let y := m * 2 ^ (200 - m.log2)
      let d := log2Digits 48 y
      -- the logarithm lies between v and v + 2 in units of 2^-48
      let v : Int := n * (2 ^ 48 : Nat) + d
      if !Num.lt x (.fin false 1 (-1)) && !Num.lt (.fin false 2 0) x then
        -- the least place at or above `t`, and the greatest at or below it
        let place (t : Int) (least : Bool) : Int :=
          let r : Ratio := ⟨t.natAbs, 1, -48⟩
          if t < 0 then -(r.code (if least then .down else .up)) else r.code (if least then .up else .down)
        (chooseIn opLog2 input (place (v + 2 - 2 ^ 26) true) (place (v + 2 ^ 26) false), 0)
      else if y == 2 ^ 200 then (within opLog2 input (decide (n < 0)) ⟨n.natAbs, 1, 0⟩ ⟨n.natAbs, 1, 0⟩ 1, 0)
      else
        let a : Ratio := ⟨v.natAbs, 1, -48⟩
        let b : Ratio := ⟨(v + 2).natAbs, 1, -48⟩
        (if v < 0 then within opLog2 input true b a 1 else within opLog2 input false a b 1, 0)

/-- 1/x within 1 ulp (R98, R99). -/
def sfRcp (x : Num) (input : Nat) : Exact × Flags :=
  match x with
  | .nan => (.nan, 0)
  | .inf s => (.ratio s 0 1 0, 0)
  | .fin s m e =>
    if m == 0 then (.inf s false, 0)
    else
      let r : Ratio := ⟨1, m, -e⟩
      -- a quotient beyond the largest finite value is written by R32
      if Fmt.fp32.maxCode < r.code .up then (.ratio s 1 m (-e), 0)
      else (within opRcp input s r r 1, 0)

/-- The integer square root, `n` binary digits from the top. -/
def isqrtAux : (n v root : Nat) → Nat
  | 0, _, root => root
  | n + 1, v, root => isqrtAux n v (if (root + 2 ^ n) * (root + 2 ^ n) ≤ v then root + 2 ^ n else root)

/-- 1/√x (R98, R99). -/
def sfRsqrt (x : Num) (input : Nat) : Exact × Flags :=
  match x with
  | .nan => (.nan, 0)
  | .inf s => if s then (.nan, Flags.invalid) else (.ratio false 0 1 0, 0)
  | .fin s m e =>
    if m == 0 then (.inf s false, 0)
    else if s then (.nan, Flags.invalid)
    else
      -- x = m' × 4^h
      let odd := e % 2 != 0
      let m' := if odd then 2 * m else m
      let h : Int := (if odd then e - 1 else e) / 2
      let k := 40 + m'.log2 / 2
      let r := isqrtAux 64 (4 ^ k / m') 0
      let a : Ratio := ⟨r, 1, -h - k⟩
      if r * r * m' == 4 ^ k then (within opRsqrt input false a a 1, 0)
      else (within opRsqrt input false a ⟨r + 1, 1, -h - k⟩ 1, 0)

/-- tanh x (R98, R99), within 2 ulp. -/
def sfTanh (x : Num) (input : Nat) : Exact × Flags :=
  match x with
  | .nan => (.nan, 0)
  | .inf s => (.ratio s 1 1 0, 0)
  | .fin s m e =>
    if m == 0 then (.ratio s 0 1 0, 0)
    else if !Num.lt (.fin false m e) (.fin false 10 0) then
      (within opTanh input s ⟨2 ^ 28 - 1, 1, -28⟩ ⟨1, 1, 0⟩ 2, 0)
    else if Num.lt (.fin false m e) (.fin false 1 (-30)) then
      (within opTanh input s ⟨m * (2 ^ 58 - 1), 1, e - 58⟩ ⟨m, 1, e⟩ 2, 0)
    else
      let nf := floorFrac false (2 * m * log2eFix) (e - 96)
      let lo := exp2Fix nf.2 * pow2 nf.1
      let hi := (exp2Fix nf.2 + 2 ^ 12) * pow2 nf.1
      (within opTanh input s ⟨lo - 2 ^ 96, lo + 2 ^ 96, 0⟩ ⟨hi - 2 ^ 96, hi + 2 ^ 96, 0⟩ 2, 0)

/-- A positive finite value kept between two FP32 codes. -/
def Num.clamp (x : Num) (lo hi : Nat) : Num :=
  if Num.lt x (Fmt.fp32.decode lo) then Fmt.fp32.decode lo
  else if Num.lt (Fmt.fp32.decode hi) x then Fmt.fp32.decode hi
  else x

/-- A / B as A × VRCP(B), one rounding (R99): the exact product kept within the 2 ulp of the exact quotient that R98
allows, and the flags of the product. -/
def sfDiv (a b : Num) (inputB : Nat) : Exact × Flags :=
  let r := sfRcp b inputB
  match r.1 with
  | .nan => (.nan, 0)
  | .inf s p =>
    let z := Num.mul a (.inf s)
    -- an infinity from finite operands is no propagated one
    (match z.1 with
      | .inf t => .inf t (p || a.isInf)
      | v => v.exact, z.2)
  | .ratio s n d e =>
    match a with
    | .nan => (.nan, 0)
    | .inf t => if n == 0 then (.nan, Flags.invalid) else (.inf (s != t) true, 0)
    | .fin t m g =>
      match b with
      | .fin _ k h =>
        let q : Ratio := ⟨m, k, g - h⟩
        -- a zero, a quotient beyond the largest finite value, or the exact quotient itself
        if m == 0 || k == 0 || d != 1 || decide (Fmt.fp32.maxCode < (q.plus 2 q.ulp).code .down) then
          (.ratio (s != t) (m * n) d (e + g), 0)
        else
          let v := Num.clamp (.fin false (m * n) (e + g)) ((q.minus 2 q.ulp).code .up) ((q.plus 2 q.ulp).code .down)
          ((if s != t then v.neg else v).exact, 0)
      | _ => (.ratio (s != t) (m * n) d (e + g), 0)

end Sys2Proof.Machine
end

