-- ==== Sys2Proof/Machine/TensorCore.lean ====
section
/-! DEFINITION. The T-core: the values of a tile multiply and of a drain (file 03, R44-R47, R56-R67, R81). -/

namespace Sys2Proof.Machine

/-- The value of one element of a tile operand: `code` of the element format that PAIR and the variant bit give. -/
def mmaElem (o : ArithOpt) (pair : Nat) (weight variant : Bool) (code : Nat) : Num :=
  let f8 : Fmt := if variant then .e5m2 else .e4m3
  if pair == 0 then Fmt.bf16.decode code
  else if pair == 6 || pair == 7 then intNum (sx 8 code)
  else if pair == 8 then intNum (if weight then t2Weight code else sx 8 code)
  else if !weight then f8.operand o code
  else if pair == 3 then (if variant then Fmt.e2m3 else Fmt.e3m2).decode code
  else if pair == 4 || pair == 5 then Fmt.e2m1.decode code
  else f8.operand o code

/-- The elements of input row r (R74). -/
def mmaRow (o : ArithOpt) (w : Nat) (sram : Memory) (r : Nat) : List Num :=
  let p := mmaP w
  let n := mmaK w * p.abytes
  (unpack (8 * p.abytes) (mmaK w) (sram.read (mmaInp w + r * n) n)).map
    (mmaElem o (mmaPair w) false (bit w 9))

/-- The codes of weight column v (R74). -/
def mmaColCodes (w : Nat) (sram : Memory) (v : Nat) : List Nat :=
  unpack (mmaP w).wbits (mmaK w) (sram.read (mmaWgt w + v * mmaColBytes w) (mmaColBytes w))

/-- The scale codes of column v or row r: one per block of 32 (R74). -/
def mmaScales (w : Nat) (sram : Memory) (base stride i : Nat) : List Nat :=
  (sram.read (base + i * stride) (mmaBlocks w)).map BitVec.toNat

/-- The exact sum of one group and its flags: products added in ascending k (R45, R65).  A group is one operation: where
any of its operands is NaN only the NaN rules apply, and no 0 × ∞ or ∞ − ∞ beside it sets INVALID (R50; DEDUCED,
log 14). -/
def groupSum (a b : List Num) : Num × Flags :=
  if a.any Num.isNan || b.any Num.isNan then (.nan, 0) else
  let ps := List.zipWith Num.mul a b
  let s := Num.sum (ps.map Prod.fst)
  (s.1, ps.foldl (fun f p => f ||| p.2) s.2)

/-- The factor a group's sum is multiplied by, exactly (R44, R45): both block scales, 2^−12 for MXINT8, the BF16 scale
for T2. -/
def groupScale (w : Nat) (ws as : List Nat) (t2 : Nat) (g : Nat) : Num :=
  let p := mmaP w
  if mmaPair w == 8 then Fmt.bf16.decode t2
  else if !p.mx then .fin false 1 0
  else
    let b := g * p.group / 32
    let s := (Num.mul (e8m0 (nth 0 ws b)) (e8m0 (nth 0 as b))).1
    if mmaPair w == 7 then (Num.mul s (.fin false 1 (-12))).1 else s

/-- One group added to an accumulator: INT32 with saturation for INT8, else FP32 with one rounding (R45, R47). -/
def accumulate (o : ArithOpt) (int : Bool) (acc : Nat) (g : Num) : Nat × Flags :=
  if int then
    let v : Int := match g with
      | .fin s m e => (if s then -1 else 1) * (m * pow2 e : Nat)
      | _ => 0
    let t := sx 32 acc + v
    if 2 ^ 31 ≤ t then (2 ^ 31 - 1, Flags.intSat)
    else if t < -(2 ^ 31) then (2 ^ 31, Flags.intSat)
    else (tc 32 t, 0)
  else
    let s := Num.add (Fmt.fp32.decode acc) g
    let r := Fmt.fp32.write o .rne s.1.exact
    (r.1, s.2 ||| r.2)

/-- The final value of one accumulator entry from its starting value: its groups in ascending k (R46, R63).  Under a NaN
scale every element of the block is NaN, so its products are no invalid operations (R29, R50).  A NaN that stands in the
accumulator is no operand of the group: a 0 × ∞ or ∞ − ∞ among its products still sets INVALID (DESIGN CHOICE, log 14). -/
def mmaEntry (o : ArithOpt) (w start : Nat) (row col : List Num) (ws as : List Nat) (t2 : Nat) : Nat × Flags :=
  let p := mmaP w
  let gs := List.zipWith groupSum (chunks p.group row) (chunks p.group col)
  (gs.zipIdx).foldl (fun (x : Nat × Flags) (g : (Num × Flags) × Nat) =>
    let sc := groupScale w ws as t2 g.2
    let scaled := if p.mx || mmaPair w == 8 then Num.mul g.1.1 sc else (g.1.1, 0)
    let r := accumulate o (mmaPair w == 6) x.1 scaled.1
    (r.1, x.2 ||| (if sc.isNan then 0 else g.1.2) ||| scaled.2 ||| r.2)) (start, 0)

/-- Flags of reading scales and T2 codes (R29, R30): SCALE_NAN and T2_RESERVED. -/
def mmaReadFlags (w : Nat) (ws as : List Nat) (t2 : Nat) (codes : List Nat) : Flags :=
  Flags.when ((mmaP w).mx && (ws.contains 255 || as.contains 255)) Flags.scaleNan
    ||| Flags.when (mmaPair w == 8 && (Fmt.bf16.decode t2).isNan) Flags.scaleNan
    ||| Flags.when (mmaPair w == 8 && codes.contains 2) Flags.t2Reserved

/-- The starting values of the tile's entries, row by row (R64). -/
def mmaStart (w : Nat) (c : TCore) : List Nat :=
  let n := mmaM w * mmaN w
  let words (a k : Nat) : List Nat := unpack 32 k (c.sram.read a (4 * k))
  match mmaMode w with
  | 0 => (Sparse.range 0 c.acc (mmaAcc w) n).map BitVec.toNat
  | 2 => words (mmaBias w) n
  | 3 => (List.replicate (mmaM w) (words (mmaBias w) (mmaN w))).flatten
  | _ => List.replicate n 0

/-- The value and flags of every entry of a tile, row by row (R63, R64). -/
def mmaValues (o : ArithOpt) (w : Nat) (c : TCore) : List (Nat × Flags) :=
  let cols := (List.range (mmaN w)).map fun v =>
    let codes := mmaColCodes w c.sram v
    (codes, codes.map (mmaElem o (mmaPair w) true (bit w 8)),
      (if (mmaP w).mx then mmaScales w c.sram (mmaWsc w) (mmaBlocks w) v else []),
      (if mmaPair w == 8 then fieldAt (c.sram.read (mmaWsc w + 2 * v) 2) 0 2 else 0))
  let starts := mmaStart w c
  ((List.range (mmaM w)).map fun r =>
    let row := mmaRow o w c.sram r
    let as := if (mmaP w).mx then mmaScales w c.sram (mmaAsc w) 2 r else []
    (cols.zipIdx).map fun x =>
      let e := mmaEntry o w (nth 0 starts (r * mmaN w + x.2)) row x.1.2.1 x.1.2.2.1 as x.1.2.2.2
      (e.1, e.2 ||| mmaReadFlags w x.1.2.2.1 as x.1.2.2.2 x.1.1)).flatten

/-- Cycles in which a valid slot enters the array, O of R66. -/
def mmaCycles (w : Nat) : Nat := ceilDiv (mmaM w) 4 * ceilDiv (mmaK w) 4 * mmaN w * 4 / (mmaP w).rate4

/-- Depths of the panels of a four-row block (R60). -/
def mmaPanels (w : Nat) : List Nat :=
  if mmaPair w == 0 && 32 < mmaK w then [32, mmaK w - 32] else [mmaK w]

/-- The bubbles that short passes add before later panels (R67). -/
def mmaBubbles (w : Nat) : Nat :=
  let ps := (List.replicate (ceilDiv (mmaM w) 4) (mmaPanels w)).flatten
  (List.zipWith (fun a b =>
    let pass := mmaN w * ceilDiv a 4 * 4 / (mmaP w).rate4
    let load := ceilDiv (4 * b * (mmaP w).abytes) 16
    load - pass) ps ps.tail).foldl (· + ·) 0

/-- The SRAM banks, by address bits [12:11], of a range of bytes (R69). -/
def tBanks (a n : Nat) : List Nat := (List.range 4).filter fun b => rngsMeet [⟨2048 * b, 2048⟩] [⟨a, n⟩]

/-- A later panel of the tile is loaded from a bank that its weights are read from, or its bias values are read while it
runs (R64, R69): the cycles at which these accesses fall, and so what they lose, the spec does not give (log 17). -/
def mmaShares (w : Nat) : Bool :=
  decide (2 ≤ mmaMode w)
    || (decide (1 < ceilDiv (mmaM w) 4 * (mmaPanels w).length)
      && (tBanks (mmaInp w) (mmaM w * mmaK w * (mmaP w).abytes)).any (tBanks (mmaWgt w) (mmaN w * mmaColBytes w)).contains)

/-- A tile can lose cycles beyond those of R67: something else has used its core since the core was idle, or is to, or the
tile's own reads share a bank (R68).  How many is a free value, which `execTmma` supplies (log 17). -/
def TCore.mayLose (c : TCore) (w : Nat) : Bool := c.stirred || mmaShares w

/-- A cell is not gated for a product: neither element is zero beside a finite partner, or a block scale of the group is
NaN (R72). -/
def ungated (a b sc : Num) : Bool :=
  sc.isNan || !((a.isZero && !b.isNan && !b.isInf) || (b.isZero && !a.isNan && !a.isInf))

/-- The ungated products of a tile: those the activity estimator is told of, masked positions left out (R65, R72,
R73). -/
def mmaProducts (o : ArithOpt) (w : Nat) (c : TCore) : Nat :=
  let p := mmaP w
  let cols := (List.range (mmaN w)).map fun v =>
    ((mmaColCodes w c.sram v).map (mmaElem o (mmaPair w) true (bit w 8)),
      (if p.mx then mmaScales w c.sram (mmaWsc w) (mmaBlocks w) v else []),
      (if mmaPair w == 8 then fieldAt (c.sram.read (mmaWsc w + 2 * v) 2) 0 2 else 0))
  (((List.range (mmaM w)).flatMap fun r =>
    let row := mmaRow o w c.sram r
    let as := if p.mx then mmaScales w c.sram (mmaAsc w) 2 r else []
    cols.map fun x => ((List.zip row x.1).zipIdx).countP fun e =>
      ungated e.1.1 e.1.2 (groupScale w x.2.1 as x.2.2 (e.2 / p.group)))).foldl (· + ·) 0

/-- What a tile adds to the counts of the next activity report (R73). -/
def TAct.tile (a : TAct) (w bubbles products : Nat) : TAct :=
  { a with
    valid := a.valid + mmaCycles w, bubbles := a.bubbles + bubbles
    products := Sparse.modify 0 a.products (mmaPair w) (· + products) }

/-- The effect of a TMMA on its core (R45-R47, R63-R66), with `late` bubbles beyond those of R67. -/
def TCore.mma (c : TCore) (o : ArithOpt) (w late : Nat) : TCore :=
  let vs := mmaValues o w c
  { c with
    acc := Sparse.setRange 0 c.acc (mmaAcc w) (vs.map fun x => BitVec.ofNat 32 x.1)
    status := vs.foldl (fun f x => f ||| x.2) c.status
    busy := satAdd 32 c.busy (mmaCycles w)
    bubbles := satAdd 32 c.bubbles (mmaBubbles w + late)
    act := c.act.tile w (mmaBubbles w + late) (mmaProducts o w c) }

/-- `n` accumulator entries from `a` as they leave, in ascending entry order (R81). -/
def TCore.entries (c : TCore) (a n : Nat) : List Byte := ((Sparse.range 0 c.acc a n).map fun v => leBytes 4 v.toNat).flatten

/-- Pad to whole beats of 16 B with zeros. -/
def padBeats (l : List Byte) : List Byte := l ++ zeros (alignUp l.length 16 - l.length)

/-- A drain has read `n` entries from `a`: they are cleared when CLEAR is set (R81). -/
def TCore.drained (c : TCore) (w a n : Nat) : TCore :=
  if drainClear w then { c with acc := Sparse.setRange 0 c.acc a (List.replicate n 0) } else c

/-- The first operation of queue `q` that has not been read, with those issued before it (R70). -/
def splitQueue (queue : Nat → Nat) (q : Nat) : List Op → Option (List Op × Op × List Op)
  | [] => none
  | o :: r =>
    if queue o.word.toNat == q then some ([], o, r)
    else (splitQueue queue q r).map fun x => (o :: x.1, x.2.1, x.2.2)

/-- Operation `o` may run: no operation issued before it stands in its way (R70, R91). -/
def mayRun (foot : Op → Foot) (before : List Op) (o : Op) : Bool :=
  !before.any fun b => (foot b).blocks (foot o)

/-- The running operation of queue `q`, if it is one of `opcs` and may run now: those before it, itself, those after. -/
def runnable (opcOf queue : Nat → Nat) (foot : Op → Foot) (opc q : Nat) (ops : List Op) :
    Option (List Op × Op × List Op) :=
  match splitQueue queue q ops with
  | some (b, o, r) => if opcOf o.word.toNat == opc && mayRun foot b o then some (b, o, r) else none
  | none => none

/-- SRAM after a write of an operation: beats that the mini-mesh has written into its destination since its issue stay as
they stand, for they count as issued after it (R70, R91). -/
def Op.cover (o : Op) (old new : Memory) : Memory := o.covered.foldl (fun m a => m.write a (old.read a 16)) new

/-- A mini-mesh beat at byte address `a` meets what an operation still has to write. -/
def Op.coverAt (o : Op) (writes : List Rng) (a : Nat) : Op :=
  if rngsMeet writes [⟨a, 16⟩] && !o.covered.contains a then { o with covered := o.covered ++ [a] } else o

/-- TMMA: the running tile's values are written and it leaves its queue. -/
def TCore.runMma (c : TCore) (o : ArithOpt) (late : Nat) : TCore :=
  match runnable tOpc tQueue tFoot 2 1 c.ops with
  | some (b, x, r) => { c.mma o x.word.toNat late with ops := b ++ r }
  | none => c

/-- TDRAIN: to SRAM it writes exactly 4 × COUNT bytes and leaves its queue; to the mini-mesh it has its beats ready from
now on and stays at the head of the drain queue until they are sent (R81, R146). -/
def TCore.runDrain (c : TCore) (slot : Nat) : TCore :=
  match runnable tOpc tQueue tFoot 3 2 c.ops with
  | some (b, x, r) =>
    let w := x.word.toNat
    if x.started.isSome then c
    else if drainMesh w then { c with ops := b ++ { x with started := some slot } :: r }
    else
      { c.drained w (drainAcc w) (drainCount w) with
        sram := x.cover c.sram (c.sram.write (drainSram w) (c.entries (drainAcc w) (drainCount w))), ops := b ++ r }
  | none => c

/-- A late word still keeps the core's conditions as they were: 12 cycles have not passed since it arrived (R151). -/
def Late.hides (l : Late) (now : Nat) : Bool := decide (now < l.cycle + 12)

/-- A late word that a move has read counts as still to be read, one that it has written as still to be written, for 12
cycles (R151). -/
def lateMeets (l : Option Late) (now : Nat) (reads : Bool) (g : Rng) : Bool :=
  l.any fun x => x.hides now && x.reads == reads && rngsMeet [⟨x.lo, 32⟩] [g]

/-- Some micro-operation still has to read bytes of a range, as seen in cycle `now`. -/
def TCore.unread (c : TCore) (now : Nat) (g : Rng) : Bool :=
  c.ops.any (fun o => rngsMeet (tFoot o).reads [g]) || lateMeets c.late now true g

/-- Expanded units of 32 elements that a run of raw FP6 bytes holds, and the bytes left over (R76). -/
def unpack6 (l : List Byte) : List Byte × List Byte :=
  let n := l.length / 24
  ((unpack 6 (32 * n) (l.take (24 * n))).map (BitVec.ofNat 8), l.drop (24 * n))

/-- A slice word that arrives for a TFILL: written at its place, or expanded (R75, R76). -/
def TCore.fillWord (c : TCore) (x : Op) (data : List Byte) : TCore × Op :=
  let w := x.word.toNat
  if fillUnpack w then
    let raw := x.buf ++ data
    let u := unpack6 raw
    let unit := (32 * x.done - x.buf.length) / 24
    ({ c with sram := x.cover c.sram (c.sram.write (fillSram w + 32 * unit) u.1) },
      { x with done := x.done + 1, buf := u.2 })
  else
    ({ c with sram := x.cover c.sram (c.sram.write (fillSram w + 32 * x.done) data) }, { x with done := x.done + 1 })

/-- A hold that waited for a late word lasts 12 cycles longer than the wait (R151). -/
def TCore.waits (c : TCore) (now : Nat) : Bool := c.late.any fun l => l.waited && l.hides now

/-- Taking the next beat of a mini-mesh drain, if one is ready: four entries, in the last beat those that are left with
zeros above them; they are cleared when CLEAR is set (R81). -/
def TCore.takeBeat (c : TCore) (now : Nat) : Option (List Byte × TCore) :=
  match splitQueue tQueue 2 c.ops with
  | some (b, x, r) =>
    if x.started.isSome && !c.waits now then
      let w := x.word.toNat
      let a := drainAcc w + x.sent / 4
      let n := min 4 (drainCount w - x.sent / 4)
      let x' := { x with sent := x.sent + 16 }
      some (padBeats (c.entries a n),
        { c.drained w a n with ops := b ++ (if 4 * drainCount w ≤ x'.sent then r else x' :: r) })
    else none
  | none => none

end Sys2Proof.Machine
end

