-- ==== Sys2Proof/Machine/VectorCore.lean ====
section
/-! DEFINITION. The V-core: the value every operation writes (file 04, R41-R43, R86-R105, R498). -/

namespace Sys2Proof.Machine

/-- What stands behind an operation: the options of the loaded image and the random map. -/
structure VEnv where
  opt : ArithOpt := {}
  maps : List RandEntry := []
deriving DecidableEq, Repr

/-- The value of a code of any element format (R26, R88). -/
def valOf (o : ArithOpt) (f code : Nat) : Num :=
  match fmtOf f with
  | some m => m.operand o code
  | none =>
    if f == 8 then intNum (sx 32 code)
    else if f == 9 then intNum (sx 8 code)
    else if f == 10 then intNum (sx 4 code)
    else if f == 11 then (Num.mul (intNum (sx 8 code)) (.fin false 1 (-6))).1
    else intNum (t2Weight code)

/-- `n` element codes of format `f` from a byte address. -/
def codesAt (sram : Memory) (a f n : Nat) : List Nat :=
  unpack ((fmtBits f).getD 8) n (sram.read a (fmtBytes f n))

/-- The codes packed in format `f`, for streams of whole bytes. -/
def packed (f : Nat) (codes : List Nat) : List Byte :=
  pack ((fmtBits f).getD 8) (fmtBytes f codes.length) codes

/-- The values of stream A. -/
def vA (o : ArithOpt) (w : Nat) (c : VCore) : List Num :=
  (codesAt c.sram (vSrcA w) (vFmtA w) (vCount w)).map (valOf o (vFmtA w))

/-- The values of stream B: one element for every lane under SB, in the low bits of its 4 B word (R87, R88; for E4M3 and
E5M2, whose place R88 does not give, bits [7:0]: DESIGN CHOICE, log 15). -/
def vBs (o : ArithOpt) (w : Nat) (c : VCore) : List Num :=
  if vSb w then
    List.replicate (vCount w) (valOf o (vFmtA w)
      (bits (fieldAt (c.sram.read (vSrcB w) 4) 0 4) 0 ((fmtBits (vFmtA w)).getD 8)))
  else (codesAt c.sram (vSrcB w) (vFmtA w) (vCount w)).map (valOf o (vFmtA w))

/-- A result written in a floating format with the flags of the operation and of the write. -/
def outF (o : ArithOpt) (f : Nat) (x : Exact × Flags) : Nat × Flags :=
  let r := ((fmtOf f).getD .fp32).write o .rne x.1
  (r.1, x.2 ||| r.2)

/-- The flags of a list of results. -/
def allFlags (l : List (Nat × Flags)) : Flags := l.foldl (fun f x => f ||| x.2) 0

/-- Bytes written at an address, and flags added to the core's status. -/
def VCore.put (c : VCore) (a : Nat) (l : List Byte) (f : Flags) : VCore :=
  { c with sram := c.sram.write a l, status := c.status ||| f }

/-- Codes packed over what stands in memory: bits of the last byte beyond the last element stay (R27). -/
def packedOver (f : Nat) (old : List Byte) (codes : List Nat) : List Byte :=
  let b := (fmtBits f).getD 8
  let k := 2 ^ (b * codes.length)
  leBytes (fmtBytes f codes.length) (packNat b codes + leNat old / k * k)

/-- A stream of results written at DST in format `f`. -/
def VCore.putCodes (c : VCore) (w f : Nat) (l : List (Nat × Flags)) : VCore :=
  let old := c.sram.read (vDst w) (fmtBytes f l.length)
  c.put (vDst w) (packedOver f old (l.map Prod.fst)) (allFlags l)

def exactOf (x : Num × Flags) : Exact × Flags := (x.1.exact, x.2)

/-- The map entry an operation names; its checks keep STREAM below the number of entries (R133). -/
def VEnv.entry (e : VEnv) (w : Nat) : RandEntry := nth ⟨0, 0, 0⟩ e.maps (vStream w)

/-- The rounding mode of destination element i (R38, R101). -/
def vRound (e : VEnv) (w i : Nat) : Round := if vRnd w then .sr ((e.entry w).chunk 16 (vEoff w) i) else .rne

/-- A result written in a floating format under a rounding mode, with the flags of the operation and of the write. -/
def outR (o : ArithOpt) (m : Round) (f : Nat) (x : Exact × Flags) : Nat × Flags :=
  let r := ((fmtOf f).getD .fp32).write o m x.1
  (r.1, x.2 ||| r.2)

/-- Results in element order, each rounded once to FMT_D (R35, R86, R101). -/
def VCore.putRounded (c : VCore) (e : VEnv) (w : Nat) (l : List (Exact × Flags)) : VCore :=
  c.putCodes w (vFmtD w) ((l.zipIdx).map fun x => outR e.opt (vRound e w x.2) (vFmtD w) x.1)

/-- Element-wise operation of two operands (R93). -/
def VCore.binary (c : VCore) (e : VEnv) (w : Nat) (f : Num → Num → Exact × Flags) : VCore :=
  c.putRounded e w (List.zipWith f (vA e.opt w c) (vBs e.opt w c))

/-- Element-wise operation of one operand. -/
def VCore.unary (c : VCore) (e : VEnv) (w : Nat) (f : Num → Exact × Flags) : VCore :=
  c.putRounded e w ((vA e.opt w c).map f)

/-- min and max treat −0 as less than +0 and give NaN for a NaN operand (R93). -/
def Num.least (a b : Num) : Num :=
  if a.isNan || b.isNan then .nan
  else if Num.lt a b then a else if Num.lt b a then b else if a.negative then a else b

def Num.greatest (a b : Num) : Num :=
  if a.isNan || b.isNan then .nan
  else if Num.lt b a then a else if Num.lt a b then b else if a.negative then b else a

/-- The predicates of VCMP (R93). -/
def Num.holds (p : Nat) (a b : Num) : Bool :=
  match p with
  | 0 => Num.eqv a b
  | 1 => !Num.eqv a b
  | 2 => Num.lt a b
  | 3 => Num.lt a b || Num.eqv a b
  | 4 => Num.lt b a
  | _ => Num.lt b a || Num.eqv a b

/-- The FP32 code of a value widened exactly, by which a special-function choice is made. -/
def fp32Of (x : Num) : Nat := (Fmt.fp32.write { infKeep := true } .rne x.exact).1

def vaddOp (c : VCore) (e : VEnv) (w : Nat) : VCore := c.binary e w fun a b => exactOf (Num.add a b)
def vsubOp (c : VCore) (e : VEnv) (w : Nat) : VCore := c.binary e w fun a b => exactOf (Num.add a b.neg)
def vmulOp (c : VCore) (e : VEnv) (w : Nat) : VCore := c.binary e w fun a b => exactOf (Num.mul a b)
def vminOp (c : VCore) (e : VEnv) (w : Nat) : VCore := c.binary e w fun a b => ((Num.least a b).exact, 0)
def vmaxOp (c : VCore) (e : VEnv) (w : Nat) : VCore := c.binary e w fun a b => ((Num.greatest a b).exact, 0)
def vdivOp (c : VCore) (e : VEnv) (w : Nat) : VCore := c.binary e w fun a b => sfDiv a b (fp32Of b)
def vabsOp (c : VCore) (e : VEnv) (w : Nat) : VCore := c.unary e w fun a => (a.abs.exact, 0)
def vexp2Op (c : VCore) (e : VEnv) (w : Nat) : VCore := c.unary e w fun a => sfExp2 a (fp32Of a)
def vlog2Op (c : VCore) (e : VEnv) (w : Nat) : VCore := c.unary e w fun a => sfLog2 a (fp32Of a)
def vrcpOp (c : VCore) (e : VEnv) (w : Nat) : VCore := c.unary e w fun a => sfRcp a (fp32Of a)
def vrsqrtOp (c : VCore) (e : VEnv) (w : Nat) : VCore := c.unary e w fun a => sfRsqrt a (fp32Of a)
def vtanhOp (c : VCore) (e : VEnv) (w : Nat) : VCore := c.unary e w fun a => sfTanh a (fp32Of a)

/-- VFMA: A × B + C with one rounding; C is in FMT_D (R498). -/
def vfmaOp (c : VCore) (e : VEnv) (w : Nat) : VCore :=
  let cs := (codesAt c.sram (vSrcC w) (vFmtD w) (vCount w)).map (valOf e.opt (vFmtD w))
  c.putRounded e w (List.zipWith (fun (ab : Num × Num) z => fma ab.1 ab.2 z) (List.zip (vA e.opt w c) (vBs e.opt w c)) cs)

/-- VCMP: all-ones or zero masks, 32 or 16 bits wide by FMT_D (R93). -/
def vcmpOp (c : VCore) (e : VEnv) (w : Nat) : VCore :=
  let n := maskBytes w
  c.put (vDst w) ((List.zipWith (fun a b =>
    leBytes n (if Num.holds (bits (vEoff w) 0 3) a b then 2 ^ (8 * n) - 1 else 0)) (vA e.opt w c) (vBs e.opt w c)).flatten) 0

/-- VSEL: A where the mask is not 0, else B (R93). -/
def vselOp (c : VCore) (e : VEnv) (w : Nat) : VCore :=
  let masks := unpack (8 * maskBytes w) (vCount w) (c.sram.read (vSrcC w) (maskBytes w * vCount w))
  c.putRounded e w (List.zipWith (fun (ab : Num × Num) m => ((if m != 0 then ab.1 else ab.2).exact, 0))
    (List.zip (vA e.opt w c) (vBs e.opt w c)) masks)

/-- VCVT of one value into format `d` (R35-R40, R100). -/
def cvt (o : ArithOpt) (m : Round) (d : Nat) (x : Num) : Nat × Flags :=
  if d == 8 then (tc 32 (toInt m 32 x.exact).1, 0)
  else if d == 9 then let r := toInt m 8 x.exact; (tc 8 r.1, r.2)
  else if d == 10 then let r := toInt m 4 x.exact; (tc 4 r.1, r.2)
  else if d == 7 && x.isNan then (Config.nanToFp4 % 16, Flags.invalid)
  else ((fmtOf d).getD .fp32).write o m x.exact

def vcvtOp (c : VCore) (e : VEnv) (w : Nat) : VCore :=
  c.putCodes w (vFmtD w) (((vA e.opt w c).zipIdx).map fun x => cvt e.opt (vRound e w x.2) (vFmtD w) x.1)

/-- emax of an MX element format (R41). -/
def mxEmax (f : Nat) : Int :=
  match f with
  | 3 => 8
  | 4 => 15
  | 5 => 4
  | 6 => 2
  | 7 => 2
  | _ => 0

/-- The largest finite FP32 value of a sign. -/
def maxFp32 (neg : Bool) : Num := if neg then (Fmt.fp32.decode 0x7F7FFFFF).neg else Fmt.fp32.decode 0x7F7FFFFF

/-- v × 2^k, exactly. -/
def Num.scale (x : Num) (k : Int) : Num :=
  match x with
  | .fin s m e => .fin s m (e + k)
  | y => y

/-- The largest magnitude of a block of finite values. -/
def blockMax (l : List Num) : Num := l.foldl (fun a x => Num.greatest a x.abs) (.fin false 0 0)

/-- floor(log2 of a positive finite value). -/
def Num.log2 (x : Num) : Int :=
  match x with
  | .fin _ m e => (m.log2 : Int) + e
  | _ => 0

/-- An infinite input read with INF_KEEP clear: the largest finite FP32 value of its sign, with OVERFLOW (R42, R43,
R249). -/
def finiteInput (x : Num) : Num × Flags :=
  match x with
  | .inf s => (maxFp32 s, Flags.overflow)
  | y => (y, 0)

/-- One block quantised to an MX format: scale code, element codes and flags; an element beyond the largest value
saturates whatever INF_KEEP says (R41, R42). -/
def quantMx (o : ArithOpt) (f : Nat) (mode : Nat → Round) (l : List Num) : Nat × List Nat × Flags :=
  let zero := l.map fun _ => 0
  if l.any Num.isNan then (255, zero, Flags.when (f != 3 && f != 4) Flags.invalid)
  else if o.infKeep && l.any Num.isInf then (255, zero, Flags.invalid)
  else
    let vs := l.map finiteInput
    let ov := vs.foldl (fun a x => a ||| x.2) 0
    let m := blockMax (vs.map Prod.fst)
    if m.isZero then (0, zero, ov)
    else
      let e := max (-127) (min 127 (m.log2 - mxEmax f))
      let q := (vs.zipIdx).map fun x =>
        let v := x.1.1.scale (-e)
        if f == 11 then let r := toInt (mode x.2) 8 (v.scale 6).exact; (tc 8 r.1, r.2)
        else ((fmtOf f).getD .e4m3).write { o with infKeep := false } (mode x.2) v.exact
      ((e + 127).toNat, q.map Prod.fst, ov ||| allFlags q)

/-- VQMX: element codes to DST, then the scales to SRC_C, which stand last where the two overlap (R102; DESIGN CHOICE,
log 15). -/
def vqmxOp (c : VCore) (e : VEnv) (w : Nat) : VCore :=
  let qs := ((chunks 32 (vA e.opt w c)).zipIdx).map fun b =>
    quantMx e.opt (vFmtD w) (fun i => vRound e w (32 * b.2 + i)) b.1
  let fl := qs.foldl (fun a q => a ||| q.2.2) 0
  let c1 := c.put (vDst w) (packed (vFmtD w) ((qs.map fun q => q.2.1).flatten)) fl
  c1.put (vSrcC w) (qs.map fun q => BitVec.ofNat 8 q.1) 0

/-- v / s in FP32 under RNE, for finite values and s ≠ 0. -/
def quotient (o : ArithOpt) (v s : Num) : Nat × Flags :=
  match v, s with
  | .fin a m e, .fin b n g => Fmt.fp32.write o .rne (.ratio (a != b) m n (e - g))
  | .fin a _ _, .inf b => Fmt.fp32.write o .rne (.ratio (a != b) 0 1 0)
  | _, _ => Fmt.fp32.write o .rne .nan

/-- The computed T2 scale of a block: the mean magnitude, rounded to BF16 (R43). -/
def t2Scale (o : ArithOpt) (vs : List Num) : Nat × Flags :=
  let s := vs.foldl (fun (a : Nat × Flags) v => let r := fadd o a.1 (fp32Of v.abs); (r.1, a.2 ||| r.2)) (0, 0)
  let r := Fmt.bf16.write o .rne ((Fmt.fp32.decode s.1).scale (-6)).exact
  (r.1, s.2 ||| r.2)

/-- One block quantised to T2, with a supplied scale or a computed one: scale, codes, flags, and whether it is a NaN
block (R43). -/
def quantT2 (o : ArithOpt) (supplied : Option Nat) (l : List Num) : Nat × List Nat × Flags × Bool :=
  let zero := l.map fun _ => 0
  let sNan := match supplied with
    | some s => (Fmt.bf16.decode s).isNan
    | none => false
  if l.any Num.isNan || sNan || (o.infKeep && l.any Num.isInf) then
    (Fmt.bf16.nanCode, zero, Flags.invalid ||| Flags.when sNan Flags.scaleNan, true)
  else
    let vs := l.map finiteInput
    let ov := vs.foldl (fun a x => a ||| x.2) 0
    let s := match supplied with
      | some s => (s, 0)
      | none => t2Scale o (vs.map Prod.fst)
    let sv := Fmt.bf16.decode s.1
    if sv.isZero then (s.1, zero, ov ||| s.2, false)
    else
      let half := Num.fin false 1 (-1)
      let cs := vs.map fun x =>
        let q := quotient o x.1 sv
        let v := Fmt.fp32.decode q.1
        ((if Num.lt half v.abs then (if v.negative then 3 else 1) else 0), q.2)
      (s.1, cs.map Prod.fst, ov ||| s.2 ||| allFlags cs, false)

/-- The blocks of a VQT2 (R43, R102). -/
def vqt2Blocks (c : VCore) (e : VEnv) (w : Nat) : List (Nat × List Nat × Flags × Bool) :=
  let sup := unpack 16 (vCount w / 64) (c.sram.read (vSrcC w) (vCount w / 64 * 2))
  ((chunks 64 (vA e.opt w c)).zipIdx).map fun b =>
    quantT2 e.opt (if vAcc w then some (nth 0 sup b.2) else none) b.1

/-- The places of the scales a VQT2 writes, with the scales: every computed one; of supplied ones only the NaN scale of a
NaN block (R102). -/
def vqt2Scales (w : Nat) (qs : List (Nat × List Nat × Flags × Bool)) : List (Nat × Nat) :=
  ((qs.zipIdx).filter fun q => !vAcc w || q.1.2.2.2).map fun q => (vSrcC w + 2 * q.2, q.1.1)

/-- VQT2: codes to DST, then the scales to SRC_C, which stand last where the two overlap (R43, R102; DESIGN CHOICE,
log 15). -/
def vqt2Op (c : VCore) (e : VEnv) (w : Nat) : VCore :=
  let qs := vqt2Blocks c e w
  let fl := qs.foldl (fun a q => a ||| q.2.2.1) 0
  let c1 := c.put (vDst w) (packed 12 ((qs.map fun q => q.2.1).flatten)) fl
  (vqt2Scales w qs).foldl (fun c x => c.put x.1 (leBytes 2 x.2) 0) c1

/-- VDQ: each element times its block scale, rounded once (R102). -/
def vdqOp (c : VCore) (e : VEnv) (w : Nat) : VCore :=
  let t2 := vFmtA w == 12
  let blk := if t2 then 64 else 32
  let codes := codesAt c.sram (vSrcA w) (vFmtA w) (vCount w)
  let scales := if t2 then unpack 16 (vCount w / 64) (c.sram.read (vSrcB w) (vCount w / 64 * 2))
    else (c.sram.read (vSrcB w) (vCount w / 32)).map BitVec.toNat
  let rs := (codes.zipIdx).map fun x =>
    let sc := nth 0 scales (x.2 / blk)
    let s := if t2 then Fmt.bf16.decode sc else e8m0 sc
    let r := outR e.opt (vRound e w x.2) (vFmtD w) (exactOf (Num.mul (valOf e.opt (vFmtA w) x.1) s))
    (r.1, r.2 ||| Flags.when s.isNan Flags.scaleNan ||| Flags.when (t2 && x.1 == 2) Flags.t2Reserved)
  c.putCodes w (vFmtD w) rs

/-- The pairwise tree of R48 over the values of one vector. -/
def tree (f : Nat → Nat → Nat × Flags) : (fuel : Nat) → List (Nat × Flags) → Nat × Flags
  | 0, l => (l.head?).getD (0, 0)
  | n + 1, l =>
    tree f n ((chunks 2 l).map fun p => match p with
      | [a, b] => let r := f a.1 b.1; (r.1, a.2 ||| b.2 ||| r.2)
      | a :: _ => a
      | [] => (0, 0))

/-- One segment of a sum: trees combined from left to right, after the value at DST when ACC is set (R94). -/
def sumSegment (o : ArithOpt) (lanes : Nat) (start : Option Nat) (l : List Nat) : Nat × Flags :=
  let ts := (chunks lanes l).map fun v => tree (fadd o) 4 (v.map fun x => (x, 0))
  let all := match start with
    | some d => (d, 0) :: ts
    | none => ts
  match all with
  | [] => (0, 0)
  | x :: r => r.foldl (fun a y => let z := fadd o a.1 y.1; (z.1, a.2 ||| y.2 ||| z.2)) x

def vrsumOp (c : VCore) (e : VEnv) (w : Nat) : VCore :=
  let lanes := if vFmtA w == 1 then 16 else 8
  let vs := (vA e.opt w c).map fp32Of
  let old := unpack 32 (segCount w) (c.sram.read (vDst w) (4 * segCount w))
  let rs := ((chunks (segLen w) vs).zipIdx).map fun s =>
    sumSegment e.opt lanes (if vAcc w then some (nth 0 old s.2) else none) s.1
  c.putCodes w 0 rs

/-- VRMAX and VRMIN: the greatest or least of a segment, in FMT_A (R94). -/
def VCore.extreme (c : VCore) (e : VEnv) (w : Nat) (f : Num → Num → Num) : VCore :=
  let old := codesAt c.sram (vDst w) (vFmtA w) (segCount w)
  let rs := ((chunks (segLen w) (vA e.opt w c)).zipIdx).map fun s =>
    let all := (if vAcc w then [valOf e.opt (vFmtA w) (nth 0 old s.2)] else []) ++ s.1
    match all with
    | [] => (0, 0)
    | x :: r => outF e.opt (vFmtA w) ((r.foldl f x).exact, 0)
  c.putCodes w (vFmtA w) rs

def vrmaxOp (c : VCore) (e : VEnv) (w : Nat) : VCore := c.extreme e w Num.greatest
def vrminOp (c : VCore) (e : VEnv) (w : Nat) : VCore := c.extreme e w Num.least

/-- VSHUF: the 32-bit lanes of each vector permuted by EOFF; a lane past the stream is a free value (R95, log 5). -/
def vshufOp (c : VCore) (_ : VEnv) (w : Nat) : VCore :=
  let n := fmtBytes (vFmtA w) (vCount w)
  let src := c.sram.read (vSrcA w) n
  let out := (List.range n).map fun i =>
    let l := i % 32 / 4
    let j := i / 32 * 32 + bits (vEoff w) (3 * l) 3 * 4 + i % 4
    match src[j]? with
    | some b => b
    | none => Config.shufByte w src j
  c.put (vDst w) out 0

/-- Lanes of an operation: 16 for 16-bit elements where R86 allows it, else 8. -/
def gatherLanes (w : Nat) : Nat := if vFmtA w == 1 || vFmtA w == 2 then 16 else 8

/-- The vectors of a gather in order: each is written whole, or the first that reaches past byte 16,383 stops it with the
index of the lowest-numbered element that does (R97; DESIGN CHOICE where several do, log 15). -/
def gatherVectors (sram : Memory) (w s : Nat) : List (List Nat) → (done : List Byte) → List Byte × Option Nat
  | [], d => (d, none)
  | v :: r, d =>
    match v.find? fun i => decide (16383 < vSrcA w + i * s + s - 1) with
    | some i => (d, some i)
    | none => gatherVectors sram w s r (d ++ (v.map fun i => sram.read (vSrcA w + i * s) s).flatten)

/-- VGATHER: the core after it, and the index that left the SRAM if one did (R97). -/
def vgatherOp (c : VCore) (w : Nat) : VCore × Option Nat :=
  let idx := unpack 32 (vCount w) (c.sram.read (vSrcB w) (4 * vCount w))
  let r := gatherVectors c.sram w (fmtBytes (vFmtA w) 1) (chunks (gatherLanes w) idx) []
  (c.put (vDst w) r.1 0, r.2)

/-- VRAND: whole draws in ascending order (R103). -/
def vrandOp (c : VCore) (e : VEnv) (w : Nat) : VCore :=
  c.put (vDst w) (((List.range (vCount w)).map fun i =>
    leBytes 16 ((e.entry w).chunk 128 (vEoff w) i)).flatten) 0

/-- The FP32 value (u >> 8) × 2^-24 of a 32-bit chunk (R103). -/
def uniform (u : Nat) : Nat := (Fmt.fp32.write {} .rne (.ratio false (u / 256) 1 (-24))).1

/-- VUNIF: uniform values in [0, 1) (R103). -/
def vunifOp (c : VCore) (e : VEnv) (w : Nat) : VCore :=
  c.put (vDst w) (((List.range (vCount w)).map fun i =>
    leBytes 4 (uniform ((e.entry w).chunk 32 (vEoff w) i))).flatten) 0

/-- VCOPY: COUNT words from SRC_A to DST (R498). -/
def vcopyOp (c : VCore) (w : Nat) : VCore := c.put (vDst w) (c.sram.read (vSrcA w) (4 * vCount w)) 0

/-- Elements per entry cycle (R89), times one; VTOPKM counts output entries. -/
def vRate (w : Nat) : Nat :=
  let wide := vFmtA w == 1 && vFmtD w == 1
  match vOpc w with
  | 0x10 | 0x11 | 0x12 | 0x13 | 0x14 | 0x41 | 0x52 => 4
  | 0x15 | 0x51 => 2
  | 0x20 => if decide ((fmtBits (vFmtA w)).getD 32 ≤ 16) && decide ((fmtBits (vFmtD w)).getD 32 ≤ 16) then 16 else 8
  | 0x21 | 0x22 | 0x23 | 0x64 => 8
  | 0x30 | 0x31 | 0x32 | 0x50 => if vFmtA w == 1 then 16 else 8
  | 0x33 | 0x34 => gatherLanes w
  | 0x40 => 1
  | _ => if wide then 16 else 8

/-- Entry cycles of an operation (R90). -/
def vCycles (w : Nat) : Nat := ceilDiv (vCount w) (vRate w)

/-- Cycles lost at one entry when several of its lines fall into one bank: the banks work side by side, so the most
loaded one decides (R96). -/
def bankLoss (banks : List Nat) : Nat := (banks.map fun b => banks.countP (· == b)).foldl max 1 - 1

/-- A stream of an operation as its entries touch it (R96): its bytes, how many elements of the operation one item of it
serves, whether an item is touched with the last of them (a result) or the first (an operand), and which items are. -/
structure VStream where
  rng : Rng
  per : Nat := 1
  last : Bool := false
  has : Nat → Bool := fun _ => true

/-- The streams of an operation (R96).  A scalar operand, ID_BASE and the parameters of VSAMP are read once, before the first
entry, and the lists of VTOPK and VSAMP are written after the last; a block's scale is read with its first element and
written with its last, and so is what a reduction accumulates into (DEDUCED, log 17). -/
def vStreams (c : VCore) (e : VEnv) (w : Nat) : List VStream :=
  let u := vUse w
  match vOpc w with
  | 0x21 => [⟨u.reads.headD ⟨0, 0⟩, 1, false, fun _ => true⟩, ⟨⟨vDst w, fmtBytes (vFmtD w) (vCount w)⟩, 1, false, fun _ => true⟩,
      ⟨⟨vSrcC w, vCount w / 32⟩, 32, true, fun _ => true⟩]
  | 0x22 =>
      let sc : Rng := ⟨vSrcC w, vCount w / 64 * 2⟩
      [⟨u.reads.headD ⟨0, 0⟩, 1, false, fun _ => true⟩, ⟨⟨vDst w, vCount w / 4⟩, 1, false, fun _ => true⟩,
        ⟨sc, 64, true, fun j => !vAcc w || ((vqt2Blocks c e w)[j]?).any fun q => q.2.2.2⟩]
        ++ (if vAcc w then [⟨sc, 64, false, fun _ => true⟩] else [])
  | 0x23 =>
      u.reads.mapIdx (fun i r => ⟨r, if i == 0 then 1 else if vFmtA w == 12 then 64 else 32, false, fun _ => true⟩)
        ++ u.writes.map fun r => ⟨r, 1, false, fun _ => true⟩
  | 0x30 | 0x31 | 0x32 =>
      u.reads.mapIdx (fun i r => ⟨r, if i == 0 then 1 else segLen w, false, fun _ => true⟩)
        ++ u.writes.map fun r => ⟨r, segLen w, true, fun _ => true⟩
  | 0x50 | 0x52 => (u.reads.take 1).map fun r => ⟨r, 1, false, fun _ => true⟩
  | _ => ((if vSb w then u.reads.eraseIdx 1 else u.reads) ++ u.writes).map fun r => ⟨r, 1, false, fun _ => true⟩

/-- The banks of the 32 B lines that a stream touches at entry `i`, one access for each line; none where no item of it falls
into the entry. -/
def entryBanks (w i : Nat) (x : VStream) : List Nat :=
  let lo := i * vRate w
  let hi := min (vCount w) ((i + 1) * vRate w)
  let n := vCount w / x.per
  let j0 := if x.last then lo / x.per else ceilDiv lo x.per
  let j1 := if x.last then hi / x.per else ceilDiv hi x.per
  let items := ((List.range (j1 - j0)).map (j0 + ·)).filter x.has
  let lines := items.flatMap fun j =>
    let a := x.rng.lo + j * x.rng.len / n
    let b := x.rng.lo + ceilDiv ((j + 1) * x.rng.len) n
    (List.range ((b + 31) / 32 - a / 32)).map (a / 32 + ·)
  lines.eraseDups.map fun l => l / 64 % 8

/-- Stalls of the operation's streams sharing banks (R96).  What waits under R91 and accesses of other priority add is a
free value, which `State.vRun` supplies where they can be (log 17). -/
def vStalls (c : VCore) (e : VEnv) (w : Nat) : Nat :=
  let l := vStreams c e w
  ((List.range (vCycles w)).map fun i => bankLoss (l.flatMap (entryBanks w i))).foldl (· + ·) 0

/-- The distinct 4 B words that each vector of a gather requests (R97). -/
def gatherWords (c : VCore) (w : Nat) : List (List Nat) :=
  let idx := unpack 32 (vCount w) (c.sram.read (vSrcB w) (4 * vCount w))
  (chunks (gatherLanes w) idx).map fun v => (v.map fun i => (vSrcA w + i * fmtBytes (vFmtA w) 1) / 4).eraseDups

/-- Extra cycles of a gather's vectors: the most distinct words one bank and word lane must give, less one (R97). -/
def gatherStalls (c : VCore) (w : Nat) : Nat :=
  ((gatherWords c w).map fun words =>
    let key (x : Nat) : Nat := x / 512 % 8 * 8 + x % 8
    (words.map fun x => words.countP fun y => key y == key x).foldl max 0 - 1).foldl (· + ·) 0

/-- The bytes that a gather reads: its index stream and its elements (R97). -/
def gatherReads (c : VCore) (w : Nat) : List Rng :=
  let s := fmtBytes (vFmtA w) 1
  ⟨vSrcB w, 4 * vCount w⟩ :: (unpack 32 (vCount w) (c.sram.read (vSrcB w) (4 * vCount w))).map fun i => ⟨vSrcA w + i * s, s⟩

/-- What an operation still has to read, behind the operations issued before it: a gather's elements are known once
nothing before it writes its index stream. -/
def VCore.readsOf (c : VCore) (before : List Op) (o : Op) : List Rng :=
  let w := o.word.toNat
  if vOpc w == 0x34 && !(before.any fun b => rngsMeet (vFoot b).writes [⟨vSrcB w, 4 * vCount w⟩]) then gatherReads c w
  else (vFoot o).reads

/-- Some operation still has to read bytes of a range, as seen in cycle `now`. -/
def VCore.unread (c : VCore) (now : Nat) (g : Rng) : Bool :=
  (List.range c.ops.length).any (fun i => (c.ops[i]?).any fun o => rngsMeet (c.readsOf (c.ops.take i) o) [g])
    || lateMeets c.late now true g

/-- The bytes an operation wrote: of a VQT2 with supplied scales only the NaN scales, of a gather the vectors before the
one that failed, of another operation that failed nothing (R97, R102). -/
def vWritten (c : VCore) (e : VEnv) (w : Nat) (failed : Bool) : List Rng :=
  if vOpc w == 0x34 then
    let idx := unpack 32 (vCount w) (c.sram.read (vSrcB w) (4 * vCount w))
    [⟨vDst w, (gatherVectors c.sram w (fmtBytes (vFmtA w) 1) (chunks (gatherLanes w) idx) []).1.length⟩]
  else if failed then []
  else if vOpc w == 0x22 then ⟨vDst w, vCount w / 4⟩ :: (vqt2Scales w (vqt2Blocks c e w)).map fun x => ⟨x.1, 2⟩
  else (vUse w).writes

/-- VSEND: the operation at the head of the move queue begins; its beats are read in their slots (R146, R498). -/
def VCore.runSend (c : VCore) (slot : Nat) : VCore :=
  match splitQueue vQueue 1 c.ops with
  | some (b, x, r) =>
    if vOpc x.word.toNat == 0x63 && x.started.isNone then { c with ops := b ++ { x with started := some slot } :: r }
    else c
  | none => c

/-- The bytes of the next beat of a VSEND: none beyond its stream (R498). -/
def sendBeat (x : Op) : Rng :=
  let w := x.word.toNat
  ⟨vSrcA w + x.sent, min 16 (4 * vCount w - x.sent)⟩

/-- The next beat of the running VSEND, read from SRAM, if no earlier-issued operation still has to write its bytes
(R92, R146, R498). -/
def VCore.takeSend (c : VCore) (now : Nat) : Option (List Byte × VCore) :=
  match splitQueue vQueue 1 c.ops with
  | some (b, x, r) =>
    let g := sendBeat x
    if vOpc x.word.toNat == 0x63 && x.started.isSome && !lateMeets c.late now false g
        && !b.any fun y => rngsMeet (vFoot y).writes [g] then
      let x' := { x with sent := x.sent + 16 }
      some (padBeats (c.sram.read g.lo g.len),
        { c with ops := b ++ (if 4 * vCount x.word.toNat ≤ x'.sent then r else x' :: r) })
    else none
  | none => none

/-- The next beat of a running forward (VFWD or SFWD), its target T-core and the byte address there (R105, R146); where
`late`, the newest word of its buffer does not count yet (R151). -/
def takeForward (before : List Op) (x : Op) (after : List Op) (late : Bool) : Option ((Nat × Nat × List Byte) × List Op) :=
  let w := x.word.toNat
  if vOpc w == 0x62 && decide ((if late then 32 else 0) < x.buf.length) then
    let x' := { x with buf := x.buf.drop 16, sent := x.sent + 16 }
    some ((mvTcore w, mvTsram w + x.sent, x.buf.take 16),
      before ++ (if x'.sent == 32 * vCount w then after else x' :: after))
  else none

end Sys2Proof.Machine
end

