-- ==== Sys2Proof/Machine/Sampling.lean ====
section
/-! DEFINITION. The sampling unit of a V-core: ranked candidate lists and the draw of a token (file 12, R268-R275). -/

namespace Sys2Proof.Machine

/-- A candidate: FP32 logit code and token identifier (R268). -/
structure Cand where
  logit : Nat
  id : Nat
deriving DecidableEq, Repr

/-- The sentinel ranks after every other entry and is never selected (R268). -/
def Cand.sentinel : Cand := ⟨0xFF800000, 0xFFFFFFFF⟩

/-- `a` ranks before `b`: by logit descending (+0 equals −0), then by identifier ascending; a sentinel ranks after every
other entry, whatever its logit (R268). -/
def Cand.before (a b : Cand) : Bool :=
  if a = Cand.sentinel then false
  else if b = Cand.sentinel then true
  else decide (ordOf b.logit < ordOf a.logit) || (ordOf a.logit == ordOf b.logit && decide (a.id < b.id))

/-- Insertion after every entry that does not rank behind it. -/
def Cand.insert (x : Cand) : List Cand → List Cand
  | [] => [x]
  | y :: r => if x.before y then x :: y :: r else y :: Cand.insert x r

/-- A list in rank order. -/
def rankSort (l : List Cand) : List Cand := l.foldl (fun a x => Cand.insert x a) []

/-- The best `n` of a ranked list, sentinels after them (R269, R270). -/
def bestOf (n : Nat) (l : List Cand) : List Cand :=
  l.take n ++ List.replicate (n - l.length) Cand.sentinel

def Cand.bytes (c : Cand) : List Byte := leBytes 4 c.logit ++ leBytes 4 c.id

/-- `n` candidates from a byte address. -/
def candsAt (sram : Memory) (a n : Nat) : List Cand :=
  (chunks 8 (sram.read a (8 * n))).map fun b => ⟨fieldAt b 0 4, fieldAt b 4 4⟩

/-- VTOPK (R269): the core after it, or BOUND when an identifier reaches 0xFFFF_FFFF. -/
def vtopkOp (c : VCore) (e : VEnv) (w : Nat) : VCore × Option Status :=
  let base := fieldAt (c.sram.read (vSrcB w) 4) 0 4
  let stride := bits (vEoff w) 16 16
  if 0xFFFFFFFF ≤ base + (vCount w - 1) * stride then (c, some .bound)
  else
    let vs := codesAt c.sram (vSrcA w) (vFmtA w) (vCount w)
    let all := (vs.zipIdx).map fun x => ((valOf e.opt (vFmtA w) x.1), x)
    let keep := all.filter fun x => !x.1.isNan
    let cs := keep.map fun x => (⟨fp32Of x.1, base + x.2.2 * stride⟩ : Cand)
    let out := bestOf (bits (vEoff w) 0 9) (rankSort cs)
    (c.put (vDst w) ((out.map Cand.bytes).flatten) (Flags.when (all.any fun x => x.1.isNan) Flags.invalid), none)

/-- VTOPKM: the best LO entries of the union of two lists (R270). -/
def vtopkmOp (c : VCore) (w : Nat) : VCore :=
  let a := candsAt c.sram (vSrcA w) (bits (vEoff w) 0 11)
  let b := candsAt c.sram (vSrcB w) (bits (vEoff w) 11 11)
  c.put (vDst w) (((bestOf (vCount w) (rankSort (a ++ b))).map Cand.bytes).flatten) 0

/-- An FP32 result and its flags. -/
abbrev F := Nat × Flags

def fout (o : ArithOpt) (x : Exact × Flags) : F := outF o 0 x

/-- FP32 subtraction. -/
def fsub (o : ArithOpt) (a b : Nat) : F :=
  fout o (exactOf (Num.add (Fmt.fp32.decode a) (Fmt.fp32.decode b).neg))

/-- VEXP2 and VDIV on FP32 codes. -/
def fexp2 (o : ArithOpt) (a : Nat) : F := fout o (sfExp2 (Fmt.fp32.decode a) a)
def fdiv (o : ArithOpt) (a b : Nat) : F := fout o (sfDiv (Fmt.fp32.decode a) (Fmt.fp32.decode b) b)

/-- a < b and a ≥ b on FP32 codes. -/
def flt (a b : Nat) : Bool := Num.lt (Fmt.fp32.decode a) (Fmt.fp32.decode b)

/-- The weights and running sums of the first K candidates (R274). -/
def sampleWeights (o : ArithOpt) (z0 c : Nat) : List Cand → (sum : Nat) → Flags → List (Nat × Nat) × Flags
  | [], _, f => ([], f)
  | x :: r, sum, f =>
    let d := fsub o x.logit z0
    let m := fmul o d.1 c
    let p : F := if x = Cand.sentinel then (0, 0) else
      let q := fexp2 o m.1
      (q.1, d.2 ||| m.2 ||| q.2)
    let s := fadd o sum p.1
    let t := sampleWeights o z0 c r s.1 (f ||| p.2 ||| s.2)
    ((p.1, s.1) :: t.1, t.2)

/-- The first index below `n` for which `p` holds. -/
def firstIdx (n : Nat) (p : Nat → Bool) : Option Nat := (List.range n).find? p

/-- What VSAMP answers: token, rank, kept and probability (R275). -/
def sampleBytes (token rank kept prob : Nat) : List Byte :=
  leBytes 4 token ++ leBytes 4 rank ++ leBytes 4 kept ++ leBytes 4 prob

/-- The decision of R274 for a list, parameters and uniform value: the 16 B result and its flags. -/
def sample (o : ArithOpt) (l : List Cand) (temp topP topK u : Nat) : List Byte × Flags :=
  let z0 := l.headD Cand.sentinel
  let n := l.length
  if z0 = Cand.sentinel || z0.logit == 0xFF800000 then (sampleBytes 0xFFFFFFFF 0 0 0, Flags.invalid)
  else
    let c := if (Fmt.fp32.decode temp).isZero then ((0, 0) : F) else fdiv o 0x3FB8AA3B temp
    if (Fmt.fp32.decode temp).isZero || c.1 == 0x7F800000 || z0.logit == 0x7F800000 then
      (sampleBytes z0.id 0 1 0x3F800000, c.2)
    else
      let k := if topK == 0 then n else min topK n
      let w := sampleWeights o z0.logit c.1 (l.take k) 0 c.2
      let p (i : Nat) : Nat := (nth (0, 0) w.1 i).1
      let cum (i : Nat) : Nat := (nth (0, 0) w.1 i).2
      let t := fmul o topP (cum (k - 1))
      let j := (firstIdx k fun i => !flt (cum i) t.1).getD (k - 1)
      let g := fmul o u (cum j)
      let s := match firstIdx (j + 1) fun i => flt g.1 (cum i) with
        | some i => i
        | none => ((List.range (j + 1)).reverse.find? fun i => flt 0 (p i)).getD 0
      let q := fdiv o (p s) (cum j)
      let sent := (l.take (j + 1)).countP fun x => x == Cand.sentinel
      (sampleBytes (nth Cand.sentinel l s).id s (j + 1 - sent) q.1, w.2 ||| t.2 ||| g.2 ||| q.2)

/-- VSAMP (R273-R275): the core after it, or the status its parameters give. -/
def vsampOp (c : VCore) (e : VEnv) (w : Nat) : VCore × Option Status :=
  let b := c.sram.read (vSrcB w) 16
  let temp := fieldAt b 0 4
  let topP := fieldAt b 4 4
  let topK := fieldAt b 8 4
  let t := Fmt.fp32.decode temp
  let pv := Fmt.fp32.decode topP
  match firstFail [
    (fieldAt b 12 4 != 0, .formatUnsupported),
    (t.isNan || t.isInf || t.negative || pv.isNan || Num.lt pv (.fin false 0 0) || Num.lt (.fin false 1 0) pv
      || decide (1024 < topK), .bound)] with
  | some st => (c, some st)
  | none =>
    let u := uniform ((e.entry w).chunk 32 (vEoff w) 0)
    let r := sample e.opt (candsAt c.sram (vSrcA w) (vCount w)) temp topP topK u
    (c.put (vDst w) r.1 r.2, none)

/-! ### What an operation counts (R90, R96, R107) -/

/-- The special-function results of a VSAMP and whether it draws: none with a list headed by a sentinel, none where it
selects greedily with T of 0 or refuses its parameters, the division by T alone where it selects greedily for another
reason, and else that division, one exponential for each candidate of the first K that is no sentinel, and the final
division (R274, R275). -/
def vsampUse (c : VCore) (e : VEnv) (w : Nat) : Nat × Bool :=
  let b := c.sram.read (vSrcB w) 16
  let temp := fieldAt b 0 4
  let l := candsAt c.sram (vSrcA w) (vCount w)
  let z0 := l.headD Cand.sentinel
  if (vsampOp c e w).2.isSome || z0 = Cand.sentinel || z0.logit == 0xFF800000 || (Fmt.fp32.decode temp).isZero then (0, false)
  else if (fdiv e.opt 0x3FB8AA3B temp).1 == 0x7F800000 || z0.logit == 0x7F800000 then (1, false)
  else
    let k := if fieldAt b 8 4 == 0 then l.length else min (fieldAt b 8 4) l.length
    (2 + (l.take k).countP fun x => decide (x ≠ Cand.sentinel), true)

/-- The draws of an operation: the positions of R263 that its elements take, each drawn once by the core. -/
def vDrawsOf (c : VCore) (e : VEnv) (w : Nat) : Nat :=
  let n := (e.entry w).base.toNat + vEoff w
  match vOpc w with
  | 0x40 => vCount w
  | 0x41 => ceilDiv (n % 4 + vCount w) 4
  | 0x52 => b2n (vsampUse c e w).2
  | _ => if vRnd w then ceilDiv (n % 8 + vCount w) 8 else 0

/-- What an operation adds to the counts of the next activity report, with the cycles it lost (R107).  Element-wise
operations, conversions, quantisation and reductions count as lane operations of their class (DESIGN CHOICE, log 25). -/
def VAct.op (a : VAct) (c : VCore) (e : VEnv) (w lost : Nat) : VAct :=
  let o := vOpc w
  let n := vCount w
  let lanes := decide (o < 0x10) || decide (0x20 ≤ o ∧ o ≤ 0x32)
  let wide := vRate w == 16
  { a with
    busy := a.busy + vCycles w, stalls := a.stalls + lost
    fp32 := a.fp32 + (if lanes && !wide then n else 0)
    bf16 := a.bf16 + (if lanes && wide then n else 0)
    special := a.special + (if decide (0x10 ≤ o ∧ o ≤ 0x15) then n else if o == 0x52 then (vsampUse c e w).1 else 0)
    gather := a.gather + (if o == 0x34 then ((gatherWords c w).map List.length).foldl (· + ·) 0 else 0)
    draws := a.draws + vDrawsOf c e w }

/-- The counters after an operation that ran on core `c0`, with `extra` lost cycles beyond those of R96. -/
def VCore.count (c c0 : VCore) (e : VEnv) (w extra : Nat) : VCore :=
  { c with
    busy := satAdd 32 c.busy (vCycles w), stalls := satAdd 32 c.stalls (vStalls c0 e w + extra)
    act := c.act.op c0 e w (vStalls c0 e w + extra) }

end Sys2Proof.Machine
end

