-- ==== Sys2Proof/Machine/Attention.lean ====
section
/-! DEFINITION. Near-bank arithmetic: key-value storage formats, quantisation on append, scores and partial attention
(files 10, 11: R234-R237, R245-R254). -/

namespace Sys2Proof.Machine

/-- Bits of a stored element; none for an unsupported storage format (R245). -/
def kvBits (f : Nat) : Option Nat :=
  match f with
  | 0 => some 16
  | 1 | 2 => some 8
  | 3 => some 4
  | _ => none

/-- Bytes of one token's element record and of its scale record (R246). -/
def kvElemBytes (f d : Nat) : Nat := d * (kvBits f).getD 8 / 8
def kvScaleBytes (f d : Nat) : Nat :=
  match f with
  | 1 | 3 => 2 * d / 64
  | 2 => d / 32
  | _ => 0

/-- A format is supported and allows head dimension d (R245, R251). -/
def kvAllows (f d : Nat) : Bool :=
  match f with
  | 0 => true
  | 1 | 3 => d % 64 == 0
  | 2 => d % 32 == 0
  | _ => false

/-- PBYTES of a page (R246). -/
def pageBytes (kf vf d : Nat) : Nat :=
  64 * (kvElemBytes kf d + kvScaleBytes kf d + kvElemBytes vf d + kvScaleBytes vf d)

/-- Offset in a page of token t's record in plane 0 key elements, 1 key scales, 2 value elements, 3 value scales. -/
def planeOff (kf vf d plane t : Nat) : Nat :=
  let sz (p : Nat) : Nat := match p with
    | 0 => kvElemBytes kf d
    | 1 => kvScaleBytes kf d
    | 2 => kvElemBytes vf d
    | _ => kvScaleBytes vf d
  64 * ((List.range plane).map sz).foldl (· + ·) 0 + t * sz plane

/-- One block of a token's record quantised for storage: element codes, scale code and flags (R248, R249). -/
def kvQuantBlock (o : ArithOpt) (f : Nat) (l : List Num) : List Nat × Nat × Flags :=
  if f == 2 then let r := quantMx o 3 (fun _ => .rne) l; (r.2.1, r.1, r.2.2)
  else if f == 0 then
    let rs := l.map fun x =>
      if x.isInf && !o.infKeep then
        let y := finiteInput x
        let z := Fmt.bf16.write o .rne y.1.exact
        (z.1, y.2 ||| z.2)
      else Fmt.bf16.write o .rne x.exact
    (rs.map Prod.fst, 0, allFlags rs)
  else
    let zero := l.map fun _ => 0
    if l.any Num.isNan then (zero, Fmt.bf16.nanCode, Flags.when (f == 3) Flags.invalid)
    else if o.infKeep && l.any Num.isInf then (zero, Fmt.bf16.nanCode, Flags.invalid)
    else
      let vs := l.map finiteInput
      let ov := vs.foldl (fun a x => a ||| x.2) 0
      match blockMax (vs.map Prod.fst) with
      | .fin _ m e =>
        if m == 0 then (zero, 0, ov)
        else
          let q := if f == 1 then 448 else 7
          let s := (Fmt.bf16.write { infKeep := true } .up (.ratio false m q e)).1
          let sv := Fmt.bf16.decode s
          let cs := vs.map fun x =>
            let r := quotient o x.1 sv
            let v := Fmt.fp32.decode r.1
            if f == 1 then Fmt.e4m3.write o .rne v.exact
            else let i := toInt .rne 4 v.exact; (tc 4 i.1, i.2)
          (cs.map Prod.fst, s, ov ||| allFlags cs)
      | _ => (zero, 0, ov)

/-- One token's record: element bytes, scale bytes and flags. -/
def kvQuant (o : ArithOpt) (f d : Nat) (l : List Num) : List Byte × List Byte × Flags :=
  let blk := if f == 2 then 32 else if f == 0 then d else 64
  let qs := (chunks blk l).map (kvQuantBlock o f)
  (pack ((kvBits f).getD 8) (kvElemBytes f d) ((qs.map fun q => q.1).flatten),
   pack (if f == 2 then 8 else 16) (kvScaleBytes f d) (qs.map fun q => q.2.1),
   qs.foldl (fun a q => a ||| q.2.2) 0)

/-- One token's stored record widened to FP32: each element times its scale, rounded once (R234); NaN scales are read
as R29 and R30 give. -/
def kvWiden (o : ArithOpt) (f d : Nat) (elems scales : List Byte) : List F :=
  let codes := unpack ((kvBits f).getD 8) d elems
  (codes.zipIdx).map fun x =>
    match f with
    | 0 => (fp32Of (Fmt.bf16.decode x.1), 0)
    | 1 => fout o (exactOf (Num.mul (Fmt.e4m3.operand o x.1) (Fmt.bf16.decode (fieldAt scales (2 * (x.2 / 64)) 2))))
    | 2 => fout o (exactOf (Num.mul (Fmt.e4m3.operand o x.1) (e8m0 (fieldAt scales (x.2 / 32) 1))))
    | _ => fout o (exactOf (Num.mul (intNum (sx 4 x.1)) (Fmt.bf16.decode (fieldAt scales (2 * (x.2 / 64)) 2))))

/-- One lane of a score: elements l, l + 16, … by fused multiply-adds into a partial from +0 (R234). -/
def scoreLane (o : ArithOpt) : List (Nat × F) → F → F
  | [], a => a
  | (q, k) :: r, a =>
    let z := fout o (fma (Fmt.fp32.decode q) (Fmt.fp32.decode k.1) (Fmt.fp32.decode a.1))
    scoreLane o r (z.1, a.2 ||| k.2 ||| z.2)

/-- Elements l, l + 16, … of a list. -/
def everyLane (l : Nat) (xs : List α) : List α := (xs.zipIdx.filter fun x => x.2 % 16 == l).map Prod.fst

/-- A score: 16 lane partials, their tree, times C (R234). -/
def score (o : ArithOpt) (q : List Nat) (k : List F) (c : Nat) : F :=
  let lanes := (List.range 16).map fun l => scoreLane o (everyLane l (List.zip q k)) (0, 0)
  let s := tree (fadd o) 4 lanes
  let r := fmul o s.1 c
  (r.1, s.2 ||| r.2)

/-- The running state of one head (R235). -/
structure Head where
  m : Nat := 0xFF800000
  l : Nat := 0
  o : List Nat
  flags : Flags := 0
deriving DecidableEq, Repr

/-- One unmasked token folded into a head (R235).  DEDUCED: the running m starts at −∞ whatever INF_KEEP is (log 13). -/
def Head.fold (h : Head) (opt : ArithOpt) (s : F) (v : List F) : Head :=
  let mn := fp32Of (Num.greatest (Fmt.fp32.decode h.m) (Fmt.fp32.decode s.1))
  let da := fsub opt h.m mn
  let a : F := if h.m == 0xFF800000 && mn != 0xFF800000 then (0, 0) else let x := fexp2 opt da.1; (x.1, da.2 ||| x.2)
  let dp := fsub opt s.1 mn
  let p := fexp2 opt dp.1
  let la := fmul opt h.l a.1
  let l := fadd opt la.1 p.1
  let os := List.zipWith (fun (o : Nat) (x : F) =>
    let oa := fmul opt o a.1
    let pv := fmul opt p.1 x.1
    let z := fadd opt oa.1 pv.1
    (z.1, oa.2 ||| x.2 ||| pv.2 ||| z.2)) h.o v
  { m := mn, l := l.1, o := os.map Prod.fst
    flags := h.flags ||| s.2 ||| a.2 ||| dp.2 ||| p.2 ||| la.2 ||| l.2 ||| allFlags os }

/-- The payload of a head: m, l and o, written under INF_KEEP; a head with no unmasked token keeps m = −∞ (R235). -/
def Head.bytes (h : Head) (o : ArithOpt) : List Byte × Flags :=
  let w (x : Nat) : F := fout o ((Fmt.fp32.decode x).exact, 0)
  let m : F := if h.m == 0xFF800000 then (h.m, 0) else w h.m
  let l := w h.l
  let os := h.o.map w
  (leBytes 4 m.1 ++ leBytes 4 l.1 ++ (os.map fun x => leBytes 4 x.1).flatten, m.2 ||| l.2 ||| allFlags os)

end Sys2Proof.Machine
end

