-- ==== Sys2Proof/Machine/Code.lean ====
section
/-! DEFINITION. The Reed–Solomon codes of under-core memory, of the edge stacks and of the Melieko links (R186, R187, R204,
R205, R433). -/

namespace Sys2Proof.Machine

/-! ### The fields -/

/-- A field GF(2^width) by its polynomial. -/
structure Gf where
  width : Nat
  poly : Nat

/-- x^8 + x^4 + x^3 + x^2 + 1 (R186, R204) and x^10 + x^3 + 1 (R433). -/
def gf8 : Gf := ⟨8, 0x11D⟩
def gf10 : Gf := ⟨10, 0x409⟩

/-- One doubling: the product by α = 0x02. -/
def Gf.double (F : Gf) (a : Nat) : Nat := (2 * a) ^^^ (2 * a / 2 ^ F.width * F.poly)

/-- The product over the `n` low bits of `b`. -/
def Gf.mulAux (F : Gf) : Nat → Nat → Nat → Nat
  | 0, _, _ => 0
  | n + 1, a, b => (b % 2 * a) ^^^ F.mulAux n (F.double a) (b / 2)

def Gf.mul (F : Gf) (a b : Nat) : Nat := F.mulAux F.width a b

/-- α^k. -/
def Gf.pow (F : Gf) : Nat → Nat
  | 0 => 1
  | k + 1 => F.double (F.pow k)

/-- The inverse: a^(2^width − 2). -/
def Gf.inv (F : Gf) (a : Nat) : Nat :=
  (List.range (F.width - 1)).foldl (fun (x : Nat × Nat) _ => let s := F.mul x.1 x.1; (s, F.mul x.2 s)) (a, 1) |>.2

/-- The value of a polynomial, coefficients from x^0 up. -/
def Gf.eval (F : Gf) (p : List Nat) (x : Nat) : Nat := p.foldr (fun c a => c ^^^ F.mul a x) 0

/-! ### Codes -/

/-- A code: its field, its data and check symbols, and the power of x that a symbol is the coefficient of. -/
structure Rs where
  field : Gf
  data : Nat
  check : Nat
  pos : Nat → Nat

/-- Data byte i is the coefficient of x^(i+t), check byte j, symbol data + j, that of x^j (R186, R204). -/
def bytePos (data t symbol : Nat) : Nat := if symbol < data then symbol + t else symbol - data

/-- The word code, and the burst code, in which symbol p travels on line p. -/
def ucmCode : Rs := ⟨gf8, 32, 4, bytePos 32 4⟩
def edgeCode : Rs := ⟨gf8, 64, 8, bytePos 64 8⟩

/-- RS(544,514): symbol 0 is the coefficient of the highest power, as IEEE 802.3 has it (PRESUMED, log 22). -/
def linkCode : Rs := ⟨gf10, 514, 30, fun s => 543 - s⟩

/-- The generator (x + α^0)(x + α^1) … (x + α^(t−1)), coefficients from x^0 up to x^(t−1) (the leading 1 left out). -/
def Gf.generator (F : Gf) : Nat → List Nat
  | 0 => []
  | t + 1 =>
    let g := F.generator t ++ [1]
    let a := F.pow t
    (List.range (t + 1)).map fun i => F.mul a (nth 0 g i) ^^^ (if i == 0 then 0 else nth 0 g (i - 1))

/-- One step of the division by the generator: the register shifted by one coefficient of the data polynomial. -/
def Gf.shift (F : Gf) (g reg : List Nat) (c : Nat) : List Nat :=
  let t := g.length
  let f := c ^^^ nth 0 reg (t - 1)
  (List.range t).map fun i => F.mul f (nth 0 g i) ^^^ (if i == 0 then 0 else nth 0 reg (i - 1))

/-- The remainder of a data polynomial times x^t, coefficients from x^0 up; the data polynomial's from the highest
power down. -/
def Rs.remainder (c : Rs) (falling : List Nat) : List Nat :=
  falling.foldl (c.field.shift (c.field.generator c.check)) (List.replicate c.check 0)

/-- The check bytes of the data bytes of a word or a burst (R186, R204). -/
def Rs.checkBytes (c : Rs) (data : List Nat) : List Nat := c.remainder data.reverse

/-! ### Errors and their syndromes -/

/-- An error pattern: symbols and what is added to each. -/
abbrev Errs := List (Nat × Nat)

/-- Adding a symbol error to a pattern; equal symbols add, and a symbol whose errors cancel is in no error. -/
def Errs.add (e : Errs) (s v : Nat) : Errs :=
  let w := (e.find? fun x => x.1 == s).elim 0 Prod.snd ^^^ v
  e.filter (fun x => x.1 < s) ++ (if w == 0 then [] else [(s, w)]) ++ e.filter (fun x => s < x.1)

/-- Applying a pattern to the data bytes of a code word; errors in check symbols touch no data byte. -/
def Errs.apply (e : Errs) (l : List Byte) : List Byte :=
  e.foldl (fun a x => match a[x.1]? with
    | some b => a.set x.1 (b ^^^ BitVec.ofNat 8 x.2)
    | none => a) l

/-- What stands for a symbol in the syndromes: α to its power of x. -/
def Rs.locator (c : Rs) (symbol : Nat) : Nat := c.field.pow (c.pos symbol)

/-- Syndromes of an error pattern: the code is linear, so the data add nothing to them. -/
def Rs.syndromes (c : Rs) (e : Errs) : List Nat :=
  let terms := e.map fun x => (x.2, c.locator x.1)
  ((List.range c.check).foldl (fun (a : List Nat × List (Nat × Nat)) _ =>
    (a.1 ++ [(a.2.map Prod.fst).foldl (· ^^^ ·) 0], a.2.map fun x => (c.field.mul x.1 x.2, x.2))) ([], terms)).1

/-- A pattern is within the bound 2t + e of a code: t symbols in error beside e erased ones (R187, R205, R433). -/
def Rs.inReach (c : Rs) (erased : List Nat) (e : Errs) : Bool :=
  decide (2 * (e.filter fun x => !erased.contains x.1).length + erased.length ≤ c.check)

/-! ### The decoder -/

/-- The sum of two polynomials. -/
def polyAdd (a b : List Nat) : List Nat := (List.range (max a.length b.length)).map fun i => nth 0 a i ^^^ nth 0 b i

/-- The locator polynomial of the fewest errors beside the erasures that explain the syndromes (Berlekamp and Massey), from
step `r` on, with the shadow polynomial and the length. -/
def Gf.massey (F : Gf) (syn : List Nat) (erased : Nat) : (fuel r : Nat) → (l b : List Nat) → (len : Nat) → List Nat
  | 0, _, l, _, _ => l
  | n + 1, r, l, b, len =>
    let d := (List.range (min r l.length)).foldl (fun a j => a ^^^ F.mul (nth 0 l j) (nth 0 syn (r - 1 - j))) 0
    let l' := polyAdd l (0 :: b.map (F.mul d))
    if d != 0 && decide (2 * len < r + erased) then
      F.massey syn erased n (r + 1) l' (l.map (F.mul (F.inv d))) (r + erased - len)
    else F.massey syn erased n (r + 1) l' (0 :: b) len

/-- The pattern that the syndromes and the erasures point to: the symbols whose inverse is a root of the locator (they are
roots of its reverse), and the value at each. -/
def Rs.pointed (c : Rs) (syn : List Nat) (erased : List Nat) : Errs :=
  let F := c.field
  let start := erased.foldl (fun p s => polyAdd p (0 :: p.map (F.mul (c.locator s)))) [1]
  let l := F.massey syn erased.length (c.check - erased.length) (erased.length + 1) start start erased.length
  let omega := (List.range c.check).map fun i =>
    (List.range (i + 1)).foldl (fun a j => a ^^^ F.mul (nth 0 l j) (nth 0 syn (i - j))) 0
  let slope := (List.range (l.length - 1)).map fun i => if i % 2 == 0 then nth 0 l (i + 1) else 0
  (List.range (c.data + c.check)).filterMap fun s =>
    let x := c.locator s
    let y := F.inv x
    let v := F.mul (F.mul x (F.eval omega y)) (F.inv (F.eval slope y))
    if F.eval l.reverse x == 0 && v != 0 then some (s, v) else none

/-- The decoder: the pattern it corrects, or none where the word is uncorrectable.  A pattern in reach is corrected; one
beyond it is uncorrectable unless a code word lies in reach of it, which the decoder then takes (R187, R205). -/
def Rs.decode (c : Rs) (erased : List Nat) (e : Errs) : Option Errs :=
  if c.inReach erased e then some e
  else
    let syn := c.syndromes e
    let p := if syn.all (· == 0) then [] else c.pointed syn erased
    if c.inReach erased p && c.syndromes p == syn then some p else none

/-- The decoder of an under-core word (R187): at most two symbols. -/
def ucmDecode (e : Errs) : Option Errs := ucmCode.decode [] e

/-- The decoder of an edge burst, with the lines marked bad as erasures (R205): 2t + e ≤ 8. -/
def edgeDecode (bad : List Nat) (e : Errs) : Option Errs := edgeCode.decode bad e

/-! ### The codeword of a link (R433, R434) -/

/-- The link control field: KIND, SEQ and ACK. -/
def linkControl (kind seq ack : Nat) : Nat := kind * 2 ^ 18 + seq * 2 ^ 10 + ack * 2 ^ 2

/-- The 514 data symbols of a flit of 640 B and its control field. -/
def linkData (flit : List Byte) (control : Nat) : List Nat :=
  let v := leNat flit + control * 2 ^ 5120
  (List.range 514).map fun i => bits v (10 * i) 10

/-- The codeword of 544 symbols: the data, then the check symbols from the highest power down. -/
def linkWord (flit : List Byte) (control : Nat) : List Nat :=
  let d := linkData flit control
  d ++ (linkCode.remainder d).reverse

/-- Symbol i travels on lane i mod w: the symbol at a place of a lane. -/
def laneSymbol (w lane place : Nat) : Nat := place * w + lane

/-- The decoder of a link: up to 15 symbols. -/
def linkDecode (e : Errs) : Option Errs := linkCode.decode [] e

/-- What the decoder leaves of a pattern's effect on the data. -/
def Errs.after (errs taken : Errs) : Errs := taken.foldl (fun a x => a.add x.1 x.2) errs

end Sys2Proof.Machine
end

