-- ==== Sys2Proof/Machine/Memory.lean ====
section
/-! DEFINITION. Device memory: under-core words and their code, the aperture, the merge buffer, the interleave, the edge
channels, the basins and their scratch (files 08 and 09). -/

namespace Sys2Proof.Machine

/-- What an access came to: its status, the bytes read, and whether the error was an uncorrectable one. -/
structure Got where
  status : Status := .ok
  data : List Byte := []
  uncorrectable : Bool := false
deriving DecidableEq, Repr

/-- Symbol errors as an error pattern; equal symbols add. -/
def errsOf (l : List SymErr) : Errs := l.foldl (fun e x => e.add x.symbol x.flip.toNat) []
def errsTo (e : Errs) : List SymErr := e.map fun x => ⟨x.1, BitVec.ofNat 8 x.2⟩

/-- Who asks for a word or a burst, for the logs and the energy reports: function, requester and polder (R195, R207, R347).
The numbers of the requesters are a DESIGN CHOICE (log 21). -/
structure By where
  func : Nat := 0
  code : Nat
  polder : Nat := 31
deriving DecidableEq, Repr

/-- A number for a requester in a log: channel, 256 the host, 512 + link. -/
def requesterCode : Requester → Nat
  | .dma ch => ch
  | .host => 256
  | .link n _ => 512 + n
/-- The scrubber, the merge buffer, firmware, a near-bank unit and a core. -/
def codeScrub : Nat := 257
def codeMerge : Nat := 258
def codeFirmware : Nat := 259
def codeUnit (e : Nat) : Nat := 1024 + e
def codeCore (core : Nat) : Nat := 65536 + core

/-- The function an access is logged under. -/
def State.funcOf (s : State) : Requester → Nat
  | .dma ch => (s.chan ch).func
  | _ => 0

/-- A requester, with the polder its traffic is charged to (R293). -/
def State.by_ (s : State) (who : Requester) : By :=
  { func := s.funcOf who, code := requesterCode who
    polder := match who with
      | .dma ch => (s.chan ch).polder
      | _ => 31 }

/-! ### Repair: where a logical cluster lies (R417, R418) -/

/-- Physical cluster (x, p) of die d is bypassed by a map. -/
def bypassed (m : List RepairEntry) (d x p : Nat) : Bool :=
  m.any fun e => (e.kind == 1 || e.kind == 2) && e.unit == d && bits e.loc 0 6 == x && bits e.loc 6 5 == p

/-- Rows of a column that are not bypassed, ascending. -/
def goodRows (m : List RepairEntry) (d x : Nat) : List Nat := (List.range 29).filter fun p => !bypassed m d x p

/-- The physical row of logical cluster (x, y) of die d, if the map gives one. -/
def physRow (m : List RepairEntry) (d x y : Nat) : Option Nat := (goodRows m d x)[y]?

/-- ROWS of a half-die under a map: 28, 27 or 0 (R418). -/
def rowsOf (m : List RepairEntry) (h : Nat) : Nat :=
  let worst := ((List.range 24).map fun i => 29 - (goodRows m (h / 2) (h % 2 * 24 + i)).length).foldl max 0
  if worst ≤ 1 then 28 else if worst == 2 then 27 else 0

/-- Unit location of a cluster, as events pack it (R330). -/
def State.location (s : State) (cl : Nat) : Nat :=
  let d := dieOf cl
  d + cl % 1344 * 2 ^ 8 + xOf cl * 2 ^ 24 + ((physRow s.repair.inForce d (xOf cl) (yOf cl)).getD 0) * 2 ^ 30
    + halfOf cl * 2 ^ 40

/-! ### Under-core words (R176, R186-R188, R192, R195) -/

/-- First byte and valid-bit number of word `w` of a core's slice. -/
def ucmAddr (core w : Nat) : Nat := core * sliceBytes + 32 * w
def ucmIndex (core w : Nat) : Nat := core * sliceWords + w

/-- SOURCE of a correction (R192). -/
def srcMove : Nat := 0
def srcAperture : Nat := 1
def srcScrub : Nat := 2
def srcMerge : Nat := 3

/-- Entries of one layer of a table that hold a symbol. -/
def symbolCount (l : List CeEntry) (layer sym : Nat) : Nat :=
  l.countP fun e => e.word % 4 == layer && (e.sym0 == sym || e.sym1 == sym)

/-- A correction recorded in the cluster's table (R192). -/
def Cluster.corrected (c : Cluster) (source core word sym0 sym1 : Nat) : Cluster :=
  let c := { c with ceCount := satAdd 32 c.ceCount 1 }
  if c.ceEntries.any fun e => e.core == core && e.word == word then
    { c with ceEntries := c.ceEntries.map fun e => if e.core == core && e.word == word then
        { e with source := source, count := satAdd 12 e.count 1, sym0 := sym0, sym1 := sym1 } else e }
  else if c.ceEntries.length < 32 then
    { c with ceEntries := c.ceEntries ++ [⟨source, 1, sym0, sym1, core, word⟩] }
  else { c with unlogged := satAdd 16 c.unlogged 1 }

/-- A correction: the table, and the REPAIR_CANDIDATE event when a symbol first stands in 8 entries of a layer. -/
def State.corrected (s : State) (source core word : Nat) (e : Errs) : State :=
  let cl := clusterOf core
  let s0 := (e.head?.map Prod.fst).getD 0x3F
  let s1 := ((e.drop 1).head?.map Prod.fst).getD 0x3F
  let old := (s.cluster cl).ceEntries
  let s := s.onCluster cl fun c => c.corrected source (core % 64) word s0 s1
  s.each (e.map Prod.fst) fun s sym =>
    if decide (symbolCount old (word % 4) sym < 8) && decide (8 ≤ symbolCount (s.cluster cl).ceEntries (word % 4) sym) then
      s.event (s.polderAt core) (s.location cl) (word % 4 + sym * 2 ^ 8) 0x06
    else s

/-- A word moved for another than a core counts in the die's next activity report (R347). -/
def State.ucmCount (s : State) (core : Nat) (b : By) : State :=
  if codeCore 0 ≤ b.code then s
  else s.onUcmDie (dieOf (clusterOf core)) fun x => { x with act := Sparse.modify 0 x.act b.polder (· + 32) }

/-- Reading one word through the port: errors that have come up since stay in the array; a clear valid bit reads as 32
zero bytes and reports nothing (R187, R188). -/
def State.ucmRead (s : State) (core w source : Nat) (flips : List SymErr) (b : By) : State × Got :=
  let s := s.ucmCount core b
  let i := ucmIndex core w
  if !Sparse.get false s.ucmValid i then (s, { data := zeros 32 })
  else
    let errs := errsOf (Sparse.get [] s.ucmBad i ++ flips)
    let s := { s with ucmBad := Sparse.set [] s.ucmBad i (errsTo errs) }
    let data := s.ucm.read (ucmAddr core w) 32
    match ucmDecode errs with
    | none =>
      let s := s.onCluster (clusterOf core) fun c => { c with ueCount := satAdd 8 c.ueCount 1 }
      (s.addLog 5 b.func (s.polderAt core) (ucmIndex core w) (w % 4 + (s.ucmDie (dieOf (clusterOf core))).band * 256) b.code,
        { status := .hwError, uncorrectable := true })
    | some e =>
      let s := if e.isEmpty then s else s.corrected source core w e
      (s, { data := (errs.after e).apply data })

/-- Writing one whole word: valid, and without errors (R188, R195). -/
def State.ucmWrite (s : State) (core w : Nat) (l : List Byte) : State :=
  { s with
    ucm := s.ucm.write (ucmAddr core w) l
    ucmValid := Sparse.set false s.ucmValid (ucmIndex core w) true
    ucmBad := Sparse.set [] s.ucmBad (ucmIndex core w) [] }

/-- Clearing the valid bits of `n` words from word `w` of a slice, with the merge entries of those words (R189). -/
def State.ucmClear (s : State) (core w n : Nat) : State :=
  let gone (k : Nat) : Bool := decide (ucmIndex core w ≤ k) && decide (k < ucmIndex core w + n)
  { s with
    ucm := s.ucm.clear (ucmAddr core w) (32 * n)
    ucmValid := Sparse.drop gone s.ucmValid
    ucmBad := Sparse.drop gone s.ucmBad
    merges := Sparse.modify [] s.merges core fun l =>
      l.filter fun m => !(decide (w ≤ m.word) && decide (m.word < w + n)) }

/-! ### The merge buffer (R190, R191) -/

/-- The bytes of a word with an entry's masked bytes in place. -/
def MergeEntry.onto (m : MergeEntry) (l : List Byte) : List Byte :=
  (List.range 32).map fun i => if m.mask.getLsbD i then nth 0 m.data i else nth 0 l i

/-- Retiring a core's entry for a word, if it has one. -/
def State.mergeRetire (s : State) (core w : Nat) (flips : List SymErr) : State :=
  match (Sparse.get [] s.merges core).find? fun m => m.word == w with
  | none => s
  | some m =>
    let s := { s with merges := Sparse.modify [] s.merges core fun l => l.filter fun x => x.word != w }
    if m.mask == BitVec.allOnes 32 then s.ucmWrite core w m.data
    else
      let r := s.ucmRead core w srcMerge flips ⟨m.func, codeMerge, 31⟩
      if r.2.status == .ok then r.1.ucmWrite core w (m.onto r.2.data)
      else r.1.addLog 18 m.func (s.polderAt core) core w 0

/-- A host write narrower than a word: bytes `l` at offset `o` of the word. -/
def State.mergeWrite (s : State) (core w o : Nat) (l : List Byte) (func : Nat) : State :=
  let put (m : MergeEntry) : MergeEntry :=
    { m with
      mask := m.mask ||| (BitVec.ofNat 32 (2 ^ l.length - 1) <<< o)
      data := patch m.data o l
      func := func }
  let es := Sparse.get [] s.merges core
  let s := if es.any fun m => m.word == w then
      { s with merges := Sparse.set [] s.merges core (es.map fun m => if m.word == w then put m else m) }
    else
      let s := match es with
        | m :: _ => if es.length < 8 then s else s.mergeRetire core m.word []
        | [] => s
      { s with merges := Sparse.modify [] s.merges core fun l' => l' ++ [put ⟨w, 0, zeros 32, func⟩] }
  if ((Sparse.get [] s.merges core).any fun m => m.word == w && m.mask == BitVec.allOnes 32) then
    s.mergeRetire core w []
  else s

/-! ### The aperture (R177, R178, R497) -/

/-- An address of the UCM aperture, with its core and slice offset. -/
def inAperture (a : Nat) : Bool := decide (0x040000000000 ≤ a) && decide (a < 0x060000000000)
def apertureCore (a : Nat) : Nat := (bits a 37 4 * 1344 + bits a 26 11) * 64 + bits a 20 6
def apertureOff (a : Nat) : Nat := bits a 0 20

/-- The aperture address of a word of a core's slice. -/
def apertureAddr (core w : Nat) : Nat :=
  let cl := clusterOf core
  0x040000000000 + dieOf cl * 2 ^ 37 + cl % 1344 * 2 ^ 26 + core % 64 * 2 ^ 20 + 32 * w

/-- The address is backed (R177). -/
def State.apertureBacked (s : State) (a : Nat) : Bool :=
  let cl := apertureCore a / 64
  inAperture a && decide (bits a 37 4 ≤ 11) && decide (bits a 26 11 ≤ 1343) && decide (apertureOff a < sliceBytes)
    && (physRow s.repair.inForce (dieOf cl) (xOf cl) (yOf cl)).isSome && !(s.cluster cl).fenced

/-- A half-die of a shut-down die that has not cooled (R378). -/
def State.dieShut (s : State) (h : Nat) : Bool := Sparse.get false s.thermal.shut (h / 2)

/-- The UCM domain of a die is off, or COOLANT_HOLD closes it (R178, R384). -/
def State.ucmOff (s : State) (d : Nat) : Bool := !(s.ucmDie d).on || s.thermal.coolantHold

/-- An access wakes a die's UCM and is its latest (R497). -/
def State.ucmTouch (s : State) (d : Nat) : State :=
  s.onUcmDie d fun x => { x with selfRefresh := false, lastAccess := s.time.dev }

/-- A merge retirement, an aperture access or the scrubber takes a port slot of a core while a move of the core runs, which
is then delayed by 64 cycles (R180). -/
def State.portTaken (s : State) (core : Nat) : State :=
  if core % 64 < 48 then
    if (Sparse.get {} s.tcores core).ops.isEmpty then s
    else s.onTcore core fun c => { c with ops := markTaken (tQueue · == 0) c.ops, stirred := true }
  else if core % 64 < 60 then
    if (Sparse.get {} s.vcores core).ops.isEmpty then s
    else s.onVcore core fun c => { c with ops := markTaken (fun w => vQueue w == 1 && vOpc w != 0x63) c.ops, stirred := true }
  else if (Sparse.get {} s.scores core).ops.isEmpty then s
  else s.onScore core fun c => { c with
    ops := markTaken (fun _ => true) (c.ops.map fun o => { o with started := o.started.map (· + 64) }) }

/-- A pending merge entry of a word retires before an access to the word is served, in a port slot of its own (R180, R190). -/
def State.retireFirst (s : State) (core w : Nat) (flips : List SymErr) : State :=
  if (Sparse.get [] s.merges core).any fun m => m.word == w then (s.portTaken core).mergeRetire core w flips else s

/-- A narrow host write through the merge buffer; an entry that it fills or puts out retires in a port slot (R180, R190). -/
def State.narrowWrite (s : State) (core w o : Nat) (l : List Byte) (func : Nat) : State :=
  let es := Sparse.get [] s.merges core
  let s := if decide (8 ≤ es.length) && !(es.any fun m => m.word == w) then s.portTaken core else s
  let s := s.mergeWrite core w o l func
  if (Sparse.get [] s.merges core).any fun m => m.word == w then s else s.portTaken core

/-- One piece of an aperture access, inside one word.  A whole-word write to a word with a pending merge entry retires the
entry first and is served after it (R190; DESIGN CHOICE, log 45). -/
def State.aperturePiece (s : State) (who : Requester) (a : Nat) (acc : Access) (flips : List SymErr) : State × Got :=
  if !s.apertureBacked a then (s, { status := .bound })
  else
    let core := apertureCore a
    let d := dieOf (clusterOf core)
    if s.ucmOff d then (s, { status := .domainOff })
    else
      let w := apertureOff a / 32
      let o := apertureOff a % 32
      let s := s.ucmTouch d
      match acc with
      | .read n =>
        let s := (s.retireFirst core w []).portTaken core
        let r := s.ucmRead core w srcAperture flips (s.by_ who)
        (r.1, { r.2 with data := (r.2.data.drop o).take n })
      | .write l =>
        if l.length == 32 then ((((s.retireFirst core w []).portTaken core).ucmWrite core w l).ucmCount core (s.by_ who), {})
        else (s.narrowWrite core w o l (s.funcOf who), {})

/-- The piece of an access that starts at `a`, does not cross a multiple of `unit`, and what is left. -/
def accSplit (acc : Access) (a unit : Nat) : Access × Option Access :=
  let room := unit - a % unit
  match acc with
  | .read n => if n ≤ room then (.read n, none) else (.read room, some (.read (n - room)))
  | .write l => if l.length ≤ room then (.write l, none) else (.write (l.take room), some (.write (l.drop room)))

def accLen : Access → Nat
  | .read n => n
  | .write l => l.length

/-- An access in pieces that do not cross a multiple of `unit`: it stops at the first piece that is not served.  The
errors that have come up are met by its first piece. -/
def pieces (unit : Nat) (one : State → Nat → Access → List SymErr → State × Got) :
    (fuel : Nat) → State → Nat → Access → List SymErr → State × Got
  | 0, s, _, _, _ => (s, {})
  | n + 1, s, a, acc, flips =>
    let p := accSplit acc a unit
    let r := one s a p.1 flips
    match r.2.status, p.2 with
    | .ok, some rest =>
      let r2 := pieces unit one n r.1 (a + accLen p.1) rest []
      (r2.1, { r2.2 with data := r.2.data ++ r2.2.data })
    | _, _ => r

/-- An aperture access, word by word. -/
def State.aperture (s : State) (who : Requester) (a : Nat) (acc : Access) (flips : List SymErr) : State × Got :=
  pieces 32 (State.aperturePiece · who) (accLen acc / 32 + 2) s a acc flips

/-! ### The interleave (R198, R199) -/

/-- C_ch: bytes of a channel. -/
def State.chBytes (s : State) : Nat := if s.fuses.memory == 1 then 0x40000000 else 0x60000000

/-- Live channels of the domain that holds an address, ascending, and the domain's base. -/
def State.domain (s : State) (a : Nat) : List Nat × Nat :=
  let live (l : List Nat) : List Nat := l.filter fun e => (s.edgeCh e).state != .removed
  if s.intlvPkg then (live (List.range 1024), 0)
  else
    let b := a / (256 * s.chBytes)
    (live (if b < 4 then (List.range 256).map (256 * b + ·) else []), b * (256 * s.chBytes))

/-- Home channel and channel-local offset of a memory-mode address; none where it is unbacked. -/
def State.home (s : State) (a : Nat) : Option (Nat × Nat) :=
  let d := s.domain a
  let n := d.1.length
  let g := (a - d.2) / 4096
  if n == 0 || decide (n * s.chBytes ≤ a - d.2) then none
  else
    let row := g / n
    some (nth 0 d.1 ((g % n + row) % n), row * 4096 + a % 4096)

/-- The memory-mode address of a channel-local offset: the inverse of the interleave (R199). -/
def State.addressOf (s : State) (ch off : Nat) : Nat :=
  let d := s.domain (if s.intlvPkg then 0 else ch / 256 * (256 * s.chBytes))
  let n := d.1.length
  let row := off / 4096
  let i := (d.1.idxOf ch + n * (row / n + 1) - row) % n
  d.2 + (row * n + i) * 4096 + off % 4096

/-! ### Edge channels: bursts (R204-R207) -/

def edgeAddr (ch off : Nat) : Nat := ch * 0x60000000 + off
def burstIndex (ch off : Nat) : Nat := ch * 0x1800000 + off / 64

/-- A number counts in a channel's next activity report, for a polder (R241, R347): 0 busy cycles, 1 bursts, 2 masked
positions. -/
def State.edgeCount (s : State) (ch kind polder n : Nat) : State :=
  s.onEdgeCh ch fun c => { c with act := Sparse.modify 0 c.act (4 * polder + kind) (· + n) }

/-- The log entry of an uncorrectable or lost burst or line: address, channel and band, requester and kind (R207, R213,
R223): 0 burst, 1 clean line refilled, 2 dirty line, 3 write discarded, 4 scratch word, 5 line lost. -/
def State.edgeLog (s : State) (kind addr ch : Nat) (b : By) : State :=
  s.addLog 6 b.func b.polder addr (ch + (s.stack (ch / 32)).band * 2 ^ 16) (b.code + kind * 2 ^ 20)

/-- Reading the burst at a channel-local offset (a multiple of 64). -/
def State.burstRead (s : State) (ch off : Nat) (flips : List SymErr) (b : By) : State × Got :=
  let s := s.edgeCount ch 1 b.polder 1
  let i := burstIndex ch off
  let errs := errsOf (Sparse.get [] s.edgeBad i ++ flips.filter fun x => decide (x.symbol < 72))
  let s := { s with edgeBad := Sparse.set [] s.edgeBad i (errsTo errs) }
  let data := s.edge.read (edgeAddr ch off) 64
  let c := s.edgeCh ch
  if errs.isEmpty then (s, { data := data })
  else match edgeDecode c.badLines errs with
    | some e =>
      (s.setEdgeCh ch { c with
          ceCount := satAdd 32 c.ceCount 1
          lineCount := e.foldl (fun l x => Sparse.modify 0 l x.1 (· + 1)) c.lineCount },
        { data := (errs.after e).apply data })
    | none =>
      ((s.setEdgeCh ch { c with ueCount := satAdd 8 c.ueCount 1 }).edgeLog 0 (edgeAddr ch off) ch b,
        { status := .hwError, uncorrectable := true })

/-- Writing the burst at a channel-local offset: good whatever stood there (R207). -/
def State.burstWrite (s : State) (ch off : Nat) (l : List Byte) (b : By) : State :=
  { s with
    edge := s.edge.write (edgeAddr ch off) l
    edgeBad := Sparse.set [] s.edgeBad (burstIndex ch off) [] }.edgeCount ch 1 b.polder 1

/-- Bytes of a channel from any offset, burst by burst; the first uncorrectable burst ends it. -/
def State.chRead (s : State) (ch : Nat) (b : By) : (fuel : Nat) → (off n : Nat) → State × Got
  | 0, _, _ => (s, {})
  | f + 1, off, n =>
    if n == 0 then (s, {})
    else
      let o := off % 64
      let k := min n (64 - o)
      let r := s.burstRead ch (off - o) [] b
      if r.2.status != .ok then r
      else
        let r2 := r.1.chRead ch b f (off + k) (n - k)
        (r2.1, { r2.2 with data := (r.2.data.drop o).take k ++ r2.2.data })

/-- Writing bytes to a channel from any offset; bursts covered in part are read, corrected and merged. -/
def State.chWrite (s : State) (ch : Nat) (b : By) : (fuel : Nat) → (off : Nat) → List Byte → State × Got
  | 0, _, _ => (s, {})
  | f + 1, off, l =>
    if l.isEmpty then (s, {})
    else
      let o := off % 64
      let k := min l.length (64 - o)
      if k == 64 then (s.burstWrite ch off (l.take 64) b).chWrite ch b f (off + 64) (l.drop 64)
      else
        let r := s.burstRead ch (off - o) [] b
        if r.2.status != .ok then r
        else (r.1.burstWrite ch (off - o) (patch r.2.data o (l.take k)) b).chWrite ch b f (off + k) (l.drop k)

/-! ### The basin (R216-R223) -/

/-- Base die, set and tag of a line (R217). -/
def lineSet (ch l : Nat) : Nat := ch % 256 * 1024 + (l % 1024 ^^^ l / 1024 % 1024)
def lineTag (l : Nat) : Nat := l / 1024
/-- The local line of a channel that a set and a tag stand for. -/
def lineOf (set tag : Nat) : Nat := tag * 1024 + (set % 1024 ^^^ tag % 1024)

/-- Cache ways in use (R216). -/
def Basin.ways (b : Basin) : Nat := 2 * b.cacheSteps

/-- The way of a set that holds a line of a channel. -/
def Basin.find (b : Basin) (ch l : Nat) : Option Nat :=
  (List.range b.ways).find? fun w => match Sparse.get none b.lines (lineSet ch l * 16 + w) with
    | some x => x.ch == ch && x.tag == lineTag l
    | none => false

def Basin.line (b : Basin) (set w : Nat) : Option Line := Sparse.get none b.lines (set * 16 + w)
def Basin.setLine (b : Basin) (set w : Nat) (x : Option Line) : Basin :=
  { b with lines := Sparse.set none b.lines (set * 16 + w) x }

/-- An access sets its way's reference bit; when every way of the set has its bit set, all but the newest are cleared
(R219). -/
def Basin.touch (b : Basin) (set w : Nat) : Basin :=
  let b := match b.line set w with
    | some x => b.setLine set w (some { x with ref := true })
    | none => b
  if (List.range b.ways).all fun i => match b.line set i with
    | some x => x.ref
    | none => false
  then (List.range b.ways).foldl (fun b i => if i == w then b else match b.line set i with
    | some x => b.setLine set i (some { x with ref := false })
    | none => b) b
  else b

/-- The victim of a set and the pointer after it (R219). -/
def Basin.victim (b : Basin) (set : Nat) : Nat × Basin :=
  match (List.range b.ways).find? fun w => (b.line set w).isNone with
  | some w => (w, b)
  | none =>
    let p := Sparse.get 0 b.pointer set
    let order := (List.range b.ways).map fun i => (p + i) % b.ways
    let w := (order.find? fun i => match b.line set i with
      | some x => !x.ref
      | none => true).getD (p % b.ways)
    (w, { b with pointer := Sparse.set 0 b.pointer set ((w + 1) % b.ways) })

/-- A dirty line is written to its channel; one with a double-bit error is lost and logged (R218, R223). -/
def State.writeBack (s : State) (set : Nat) (x : Line) (b : By) : State :=
  if !x.dirty then s
  else if !x.bad.isEmpty then s.edgeLog 5 (edgeAddr x.ch (128 * lineOf set x.tag)) x.ch b
  else
    let off := 128 * lineOf set x.tag
    (s.burstWrite x.ch off (x.data.take 64) b).burstWrite x.ch (off + 64) (x.data.drop 64) b

/-- A line of a channel allocated with its data, after the eviction it causes (R218, R219). -/
def State.allocate (s : State) (ch l : Nat) (data : List Byte) (dirty : Bool) (who : By) : State :=
  let b := ch / 256
  if (s.basin b).ways == 0 then s
  else
    let set := lineSet ch l
    let v := (s.basin b).victim set
    let s := match (s.basin b).line set v.1 with
      | some x => s.writeBack set x who
      | none => s
    s.onBasin b fun _ => (v.2.setLine set v.1 (some ⟨ch, lineTag l, dirty, true, data, []⟩)).touch set v.1

/-- A line leaves the basin. -/
def State.dropLine (s : State) (ch l w : Nat) : State := s.onBasin (ch / 256) fun b => b.setLine (lineSet ch l) w none

/-- Counting a hit or a miss (BASIN_PERF). -/
def State.basinCount (s : State) (ch : Nat) (hit : Bool) : State :=
  s.onBasin (ch / 256) fun b => if hit then { b with hits := satAdd 32 b.hits 1 }
    else { b with misses := satAdd 32 b.misses 1 }

/-- Both bursts of a line from its channel. -/
def State.fetchLine (s : State) (ch l : Nat) (flips : List SymErr) (second : Bool) (b : By) : State × Got :=
  let r := s.burstRead ch (128 * l) (if second then [] else flips) b
  if r.2.status != .ok then r
  else
    let r2 := r.1.burstRead ch (128 * l + 64) (if second then flips else []) b
    (r2.1, { r2.2 with data := r.2.data ++ r2.2.data })

/-- The line an access finds: a hit, a hit with a double-bit error in a dirty line, or none; a clean line with such an error
is dropped, and is to be refilled (R223). -/
def State.lookup (s : State) (ch l : Nat) (flips : List SymErr) (b : By) : State × Option Nat × Bool :=
  match (s.basin (ch / 256)).find ch l with
  | none => (s, none, false)
  | some w =>
    let set := lineSet ch l
    let bad := (flips.filter fun x => decide (72 ≤ x.symbol)).map fun x => x.symbol - 72
    match (s.basin (ch / 256)).line set w with
    | none => (s, none, false)
    | some x =>
      if bad.isEmpty && x.bad.isEmpty then (s, some w, false)
      else if x.dirty then
        (s.onBasin (ch / 256) fun b => b.setLine set w (some { x with bad := (x.bad ++ bad).dedup }), some w, true)
      else ((s.dropLine ch l w).edgeLog 1 (edgeAddr ch (128 * l)) ch b, none, true)

/-- A read of at most one line: hit, sector read, or a fill (R202, R218, R223). -/
def State.lineRead (s : State) (ch off n : Nat) (noalloc : Bool) (flips : List SymErr) (b : By) : State × Got :=
  let l := off / 128
  let o := off % 128
  let look := s.lookup ch l flips b
  let s := look.1
  match look.2.1 with
  | some w =>
    if look.2.2 then (s.edgeLog 2 (edgeAddr ch off) ch b, { status := .hwError, uncorrectable := true })
    else
      let data := ((s.basin (ch / 256)).line (lineSet ch l) w).elim (zeros 128) Line.data
      ((s.basinCount ch true).onBasin (ch / 256) fun b => b.touch (lineSet ch l) w, { data := (data.drop o).take n })
  | none =>
    let s := s.basinCount ch false
    if !look.2.2 && decide (n ≤ 32) && off / 32 == (off + n - 1) / 32 then
      let r := s.burstRead ch (off / 64 * 64) flips b
      (r.1, { r.2 with data := (r.2.data.drop (off % 64)).take n })
    else
      let r := s.fetchLine ch l flips (decide (64 ≤ o)) b
      if r.2.status != .ok then r
      else
        (if noalloc && !look.2.2 then r.1 else r.1.allocate ch l r.2.data false b,
          { r.2 with data := (r.2.data.drop o).take n })

/-- A write of at most one line: a hit updates it, a whole line is allocated, a burst goes to the channel, and anything
narrower merges into its burst (R203, R218). -/
def State.lineWrite (s : State) (ch off : Nat) (bytes : List Byte) (who : By) : State × Got :=
  let l := off / 128
  let o := off % 128
  let b := ch / 256
  let set := lineSet ch l
  match (s.basin b).find ch l with
  | some w =>
    match (s.basin b).line set w with
    | some x =>
      let covered (i : Nat) : Bool := decide (o ≤ 8 * i) && decide (8 * i + 8 ≤ o + bytes.length)
      let x := { x with dirty := true, data := patch x.data o bytes, bad := x.bad.filter fun i => !covered i }
      ((s.basinCount ch true).onBasin b fun b => (b.setLine set w (some x)).touch set w, {})
    | none => (s, {})
  | none =>
    let s := s.basinCount ch false
    if bytes.length == 128 && decide (0 < (s.basin b).ways) then (s.allocate ch l bytes true who, {})
    else
      let r := s.chWrite ch who 4 off bytes
      if r.2.status == .ok then r else (r.1.edgeLog 3 (edgeAddr ch off) ch who, {})

/-- A read that a hit serves wholly, with a sound line. -/
def State.hits (s : State) (ch off n : Nat) : Bool :=
  off / 128 == (off + n - 1) / 128 && ((s.basin (ch / 256)).find ch (off / 128)).isSome

/-- Every line of an access hits. -/
def State.hitsAll (s : State) (ch off n : Nat) : Bool :=
  (List.range ((off + n - 1) / 128 - off / 128 + 1)).all fun i => s.hits ch (128 * (off / 128 + i)) 1

/-- Serving an access inside one granule from the basin and the channel. -/
def State.serve (s : State) (ch off : Nat) (acc : Access) (noalloc : Bool) (flips : List SymErr) (b : By) :
    State × Got :=
  pieces 128 (fun s o acc fl => match acc with
    | .read n => s.lineRead ch o n noalloc fl b
    | .write l => s.lineWrite ch o l b) (accLen acc / 128 + 2) s off acc flips

/-- An edge stack's domain is off for accesses: unpowered, in an orderly shutdown, or in COOLANT_HOLD (R200, R378,
R384). -/
def State.stackOff (s : State) (e : Nat) : Bool := !(s.stack e).on || (s.stack e).shut || s.thermal.coolantHold

/-- Share of the hold queue: 256 entries, 16 of them for the host (R212). -/
def holdShare (who : Requester) : Nat := if who == .host then 16 else 240

/-- LIFE of an access that no descriptor waits for. -/
def noLife : Nat := 2 ^ 64

/-- An access writes. -/
def accWrites : Access → Bool
  | .write _ => true
  | .read _ => false

/-- Two accesses meet in a 128 B line, and one of them writes. -/
def linesMeet (a : Nat) (x : Access) (b : Nat) (y : Access) : Bool :=
  (accWrites x || accWrites y) && decide (a / 128 ≤ (b + accLen y - 1) / 128) && decide (b / 128 ≤ (a + accLen x - 1) / 128)

/-- A basin hit serves an access wholly, and no held one of its lines entered before it (R201, R212; DEDUCED, log 29). -/
def State.passes (s : State) (ch off a : Nat) (acc : Access) : Bool :=
  s.hitsAll ch off (accLen acc) && !((s.edgeCh ch).held.any fun h => linesMeet a acc h.addr h.acc)

/-- An access as it is held. -/
def State.toHeld (s : State) (q : Req) (a : Nat) (acc : Access) : Held :=
  match q.who with
  | .dma n => ⟨q, a, acc, if q.loose then noLife else (s.chan n).life, (s.chan n).polder⟩
  | _ => ⟨q, a, acc, 0, 31⟩

/-- A memory-mode access inside one 4 KiB granule (R200).  One that a retrain holds answers HELD and stands in the hold
queue, in the engine's retries, or in the queue behind it (R212). -/
def State.edgePiece (s : State) (q : Req) (a : Nat) (acc : Access) (flips : List SymErr) : State × Got :=
  let who := q.who
  match s.home a with
  | none => (s, { status := .bound })
  | some (ch, off) =>
    let c := s.edgeCh ch
    if s.stackOff (ch / 32) then (s, { status := .domainOff })
    else if c.state == .failed then (s, { status := .hwError })
    else if c.mode == .processor then
      (s.addLog 17 (s.funcOf who) 31 a ch (requesterCode who), { status := .channelBusy })
    else if c.state == .retraining && !s.passes ch off a acc then
      let mine := c.held.countP fun h => (h.req.who == .host) == (who == .host)
      let h := s.toHeld q a acc
      if mine < holdShare who then
        let s := s.setEdgeCh ch { c with held := c.held ++ [h] }
        match who with
        | .dma n =>
          (s.onChan n fun x => if q.fetch || q.loose then x else { x with parked := x.parked + 1 }, { status := .held })
        | _ => (s, { status := .held })
      else match who with
        | .host => (s.setEdgeCh ch { c with waiting := c.waiting ++ [h] }, { status := .held })
        | .dma n => (s.onChan n fun x => { x with retryAccess := x.retryAccess ++ [h] }, { status := .held })
        | .link _ _ => (s.setEdgeCh ch { c with waiting := c.waiting ++ [h] }, { status := .held })
    else s.serve ch off acc q.noalloc flips (s.by_ who)

/-- A retrain would hold an access inside one granule. -/
def State.wouldHold (s : State) (a : Nat) (acc : Access) : Bool :=
  match s.home a with
  | some (ch, off) => (s.edgeCh ch).state == .retraining && !s.passes ch off a acc
  | none => false

/-- A partner's request would find the hold queue full: it stays in the link's receive buffer (R212; DEDUCED, log 29). -/
def State.noRoom (s : State) (a n : Nat) : Bool :=
  match s.home a with
  | some (ch, _) =>
    s.wouldHold a (.read n)
      && decide (holdShare (.link 0 0) ≤ (s.edgeCh ch).held.countP fun h => h.req.who != .host)
  | none => false

/-! ### Basin scratch (R221, R223) -/

def inScratch (a : Nat) : Bool := decide (0x020000000000 ≤ a) && decide (a < 0x020080000000)
def scratchBase (a : Nat) : Nat := (a - 0x020000000000) / 0x20000000
def scratchOff (a : Nat) : Nat := (a - 0x020000000000) % 0x20000000

/-- Scratch bytes of a basin (R216). -/
def Basin.scratchBytes (b : Basin) : Nat := 0x4000000 * (8 - b.cacheSteps)

/-- The basin and DMA engine of a base die are off when all eight of its edge-stack domains are (R388). -/
def State.basinOff (s : State) (b : Nat) : Bool := (List.range 8).all fun k => !(s.stack (8 * b + k)).on

/-- A scratch access inside one line. -/
def State.scratchPiece (by_ : By) (s : State) (a : Nat) (acc : Access) (flips : List SymErr) : State × Got :=
  let b := scratchBase a
  let o := scratchOff a
  let x := s.basin b
  if decide (x.scratchBytes < o + accLen acc) then (s, { status := .bound })
  else if s.basinOff b || s.thermal.coolantHold then (s, { status := .domainOff })
  else match acc with
    | .write l =>
      (s.onBasin b fun x => { x with
        scratch := x.scratch.write o l
        badWords := Sparse.drop (fun k => decide (o ≤ 8 * k) && decide (8 * k + 8 ≤ o + l.length)) x.badWords }, {})
    | .read n =>
      let new := (flips.filter fun e => decide (72 ≤ e.symbol)).map fun e => o / 128 * 16 + (e.symbol - 72)
      let bad := new.foldl (fun m k => Sparse.set false m k true) x.badWords
      let s := s.onBasin b fun x => { x with badWords := bad }
      if bad.any fun e => decide (o / 8 ≤ e.1) && decide (e.1 ≤ (o + n - 1) / 8) then
        (s.addLog 6 by_.func by_.polder a b (by_.code + 4 * 2 ^ 20), { status := .hwError, uncorrectable := true })
      else (s, { data := x.scratch.read o n })

/-! ### Any device address (R495) -/

/-- Device bytes that are backed. -/
def State.backedAt (s : State) (a : Nat) : Bool :=
  if decide (a < 0x018000000000) then (s.home a).isSome
  else if inScratch a then decide (scratchOff a < (s.basin (scratchBase a)).scratchBytes)
  else s.apertureBacked a

/-- Package position of router `(d, x, row)`: dies stand in two rows of six (R165). -/
def routerAt (r : Nat × Nat × Nat) : Nat × Nat := (48 * (r.1 % 6) + r.2.1, 29 * (r.1 / 6) + r.2.2)

/-- A packet to a cluster goes first along x and then along y: it can turn at a router of the cluster's own physical column
alone, and in another row (R165). -/
def State.canTurn (s : State) (cl : Nat) (r : Nat × Nat × Nat) : Bool :=
  let c := routerAt (dieOf cl, xOf cl, (physRow s.repair.inForce (dieOf cl) (xOf cl) (yOf cl)).getD 0)
  (routerAt r).1 == c.1 && (routerAt r).2 != c.2

/-- A packet to a place, `target` its cluster, would turn at a culvert router that was fenced in service: the router before
it answers HW_ERROR (R423). -/
def State.turnedAway (s : State) (who : Requester) (place : Nat) (target : Option Nat) : Bool :=
  s.fencedCulverts.any fun r =>
    target.all (fun cl => s.canTurn cl r) && Config.turnsAt (requesterCode who) place (r.1 * 2 ^ 11 + r.2.1 * 2 ^ 5 + r.2.2)

/-- An access to a device address, in pieces of at most a 4 KiB granule; remote windows and the register space are
unbacked here (R440, R495). -/
def State.access (s : State) (q : Req) (a : Nat) (acc : Access) (flips : List SymErr) : State × Got :=
  pieces 4096 (fun s a acc fl =>
    if s.backedAt a && s.turnedAway q.who (a / 4096) (if inAperture a then some (apertureCore a / 64) else none) then (s, { status := .hwError })
    else if decide (a < 0x018000000000) then s.edgePiece q a acc fl
    else if inScratch a then
      pieces 128 (State.scratchPiece (s.by_ q.who)) (accLen acc / 128 + 2) s a acc fl
    else if inAperture a then s.aperture q.who a acc fl
    else (s, { status := .bound })) (accLen acc / 4096 + 2) s a acc flips

/-- Every 4 KiB granule (every 64 B unit near an end) of a device range is backed: what is known before an access
begins (R283). -/
def State.rangeBacked (s : State) (a n : Nat) : Bool :=
  n == 0 || (s.backedAt a && s.backedAt (a + n - 1)
    && (List.range (n / 4096 + 1)).all fun i => decide (a + n ≤ a / 4096 * 4096 + 4096 * i)
        || s.backedAt (max a (a / 4096 * 4096 + 4096 * i)))

end Sys2Proof.Machine
end

