-- ==== Sys2Proof/Machine/Jobs.lean ====
section
/-! DEFINITION. Shared operations on polders, jobs, channels and near-bank units: how work is discarded, how a job ends,
and the floodgate sequence (R122, R162, R171, R238, R291, R292, R315, R317, R338, R499). -/

namespace Sys2Proof.Machine

/-! ### Energy counters (R346, R351) -/

def mModule : Nat := 0
def mHalf (h : Nat) : Nat := 1 + h
def mPolder (p : Nat) : Nat := 25 + p
def mUcm (d : Nat) : Nat := 49 + d
def mEdge (e : Nat) : Nat := 61 + e
def mLink (g : Nat) : Nat := 93 + g
def mBase (b : Nat) : Nat := 105 + b
def mStanding : Nat := 109

def State.meter (s : State) (i : Nat) : Meter := Sparse.get {} s.ledger.meters i
/-- A counter in µJ. -/
def State.energyUj (s : State) (i : Nat) : Nat := (s.meter i).total / 1000000
/-- Rolling averages in W: picojoules over 1 ms, 100 ms and 10 s (R351). -/
def Meter.avg1 (m : Meter) : Nat := sumOf m.fine / 1000000000
def Meter.avg100 (m : Meter) : Nat := sumOf m.mid / 100000000000
def Meter.avg10s (m : Meter) : Nat := sumOf m.coarse / 10000000000000
/-- Override counts (R368), by position. -/
def cWeir : Nat := 0
def cShutdown : Nat := 1
def cColdHold : Nat := 2
def cCoolantLoss : Nat := 3
def cSag : Nat := 4
def cSupplyCap : Nat := 5
def cPeakLimit : Nat := 6
def cOverdraw : Nat := 7
def cQuota : Nat := 8
def cAvsNoack : Nat := 9
def cNoEnergy : Nat := 10
def State.countUp (s : State) (c : Nat) : State :=
  { s with ledger := { s.ledger with counts := Sparse.modify 0 s.ledger.counts c fun n => satAdd 32 n 1 } }

/-! ### Near-bank commands of a channel (R229, R238) -/

def NbCmd.opc (c : NbCmd) : Nat := fieldAt c.header 0 1
def NbCmd.flags (c : NbCmd) : Nat := fieldAt c.header 1 1
def NbCmd.mask (c : NbCmd) : Nat := fieldAt c.header 4 4
def NbCmd.tag (c : NbCmd) : Nat := fieldAt c.header 8 2
def NbCmd.plen (c : NbCmd) : Nat := fieldAt c.header 10 2
def NbCmd.arg (c : NbCmd) (i : Nat) : Nat := fieldAt c.header (16 + 8 * i) 8
def NbCmd.opts (c : NbCmd) : ArithOpt := { infKeep := bit c.flags 0, ftz8 := bit c.flags 1 }
/-- PARAMS fields of NB_SCORES and NB_ATTEND. -/
def NbCmd.d (c : NbCmd) : Nat := bits (c.arg 2) 0 9
def NbCmd.g (c : NbCmd) : Nat := bits (c.arg 2) 9 5
def NbCmd.qfmt (c : NbCmd) : Nat := bits (c.arg 2) 14 4
def NbCmd.kfmt (c : NbCmd) : Nat := bits (c.arg 2) 18 4
def NbCmd.vfmt (c : NbCmd) : Nat := bits (c.arg 2) 22 4

/-- Fields of the append descriptor (R247). -/
def NbCmd.first (c : NbCmd) : Nat := bits (c.arg 1) 0 6
def NbCmd.ntok (c : NbCmd) : Nat := bits (c.arg 1) 6 7
def NbCmd.srcfmt (c : NbCmd) : Nat := bits (c.arg 1) 13 4
def NbCmd.akfmt (c : NbCmd) : Nat := bits (c.arg 1) 17 4
def NbCmd.avfmt (c : NbCmd) : Nat := bits (c.arg 1) 21 4
def NbCmd.ad (c : NbCmd) : Nat := bits (c.arg 1) 25 9

/-- POLDER as the engine wrote it: 31 for a channel of none (R229). -/
def NbCmd.polder (c : NbCmd) : Nat := let p := fieldAt c.header 2 1; if p < 24 then p else 31

/-- The channel-local ranges a command would write, each as a first byte and a length (R238); an append writes the records
of its tokens alone (R247). -/
def NbCmd.writes (c : NbCmd) (entries : Nat) : List (Nat × Nat) :=
  match c.opc with
  | 0x01 => [(c.arg 0, 64 * c.plen)]
  | 0x03 => [(c.arg 0, 64 * bits (c.arg 1) 0 24)]
  | 0x04 => [(c.arg 1, 64 * bits (c.arg 2) 0 24)]
  | 0x05 =>
    let rec_ (plane : Nat) : Nat := planeOff c.akfmt c.avfmt c.ad plane 1 - planeOff c.akfmt c.avfmt c.ad plane 0
    (List.range 4).map fun plane => (c.arg 0 + planeOff c.akfmt c.avfmt c.ad plane c.first, c.ntok * rec_ plane)
  | 0x06 => [(c.arg 1, 256 * c.g * entries)]
  | _ => []

/-- `n` fresh free bytes. -/
def State.freeBytes (s : State) (n : Nat) : List Byte × State :=
  ((List.range n).map fun i => Config.freeByte (s.fresh * 2 ^ 40 + i), { s with fresh := s.fresh + 1 })

/-- The ranges of a discarded command become undefined (R238). -/
def State.nbUndefine (s : State) (e : Nat) (c : NbCmd) : State :=
  let n := fieldAt (s.edge.read (edgeAddr e (c.arg 0)) 4) 0 4
  (s.each ((c.writes (if n ≤ 4096 then n else 0)).filter fun r => decide (r.1 + r.2 ≤ s.chBytes))) fun s r =>
    let b := s.freeBytes r.2
    { b.2 with edge := b.2.edge.write (edgeAddr e r.1) b.1 }

/-- The near-bank commands `sel` end or are discarded: no completion is sent, and the bytes they would write are undefined
(R238). -/
def State.nbDiscard (s : State) (sel : NbCmd → Bool) : State :=
  let s := s.each (s.channels.map Prod.fst) fun s e =>
    let c := s.edgeCh e
    let gone := c.queue.filter sel
    let s := s.setEdgeCh e { c with
      queue := c.queue.filter fun x => !sel x
      aborts := satAdd 16 c.aborts gone.length }
    s.each gone fun s x => s.nbUndefine e x
  s.each (s.edgeStacks.map Prod.fst) fun s e =>
    s.onStack e fun k => { k with dispatch := k.dispatch.filter fun x => !sel x }

/-! ### DMA channels (R291) -/

/-- A sluice loses the binding to a channel, and what that channel still had on its way. -/
def Cluster.unbind (c : Cluster) (ch : Nat) : Cluster :=
  let c := if c.sin.bound == some ch then
    { c with sin := { c.sin with bound := none, coming := [], inflight := c.sin.inflight - c.sin.coming.length } } else c
  if c.sout.bound == some ch then { c with sout := { c.sout with bound := none } } else c

/-- Every sluice bound to a channel is free again. -/
def State.unbindAll (s : State) (ch : Nat) : State :=
  s.each ((s.clusters.filter fun e => e.2.sin.bound == some ch || e.2.sout.bound == some ch).map Prod.fst)
    fun s cl => s.onCluster cl fun c => c.unbind ch

/-- A channel with nothing running (its registers apart): answers still on their way are discarded (R291). -/
def DmaCh.idle (c : DmaCh) : DmaCh :=
  { c with
    life := c.life + 1
    fetched := []
    stalled := false
    issued := 0
    remote := 0
    fetchErr := none
    got := []
    walk := none
    begun := false
    done := 0
    finish := none
    awaited := []
    failed := none
    retry := none
    retryAccess := []
    parked := 0
    fetching := false
    ahead := [] }

/-- LIFE of a held access whose channel has been disabled: its answer is discarded (R291, R319). -/
def deadLife : Nat := 2 ^ 64 + 1

/-- The held accesses of a disabled channel: their answers are discarded. -/
def State.disown (s : State) (ch : Nat) : State :=
  { s with channels := Sparse.mapWhere {} (fun _ => true) (fun c => { c with
      held := c.held.map fun h => if h.req.who = .dma ch then { h with life := deadLife } else h }) s.channels }

/-- A channel is disabled: its work is dropped without a write-back, and HEAD is undefined (R291; log 5). -/
def State.disableChan (s : State) (ch : Nat) : State :=
  if (s.chan ch).state == .disabled then s
  else
    let s := (s.unbindAll ch).disown ch
    { s.onChan ch (fun c => { c.idle with state := .disabled, head := Config.freeNat s.fresh % 65536 }) with
      fresh := s.fresh + 1 }

/-- Channels that are not DISABLED and satisfy `p`. -/
def State.liveChans (s : State) (p : DmaCh → Bool) : List Nat :=
  (List.range 256).filter fun ch => (s.chan ch).state != .disabled && p (s.chan ch)

/-! ### Sluices (R171) -/

/-- Both sluices of a cluster close: what they hold is discarded. -/
def Cluster.close (c : Cluster) : Cluster :=
  { c with
    sin := { c.sin with open_ := false, filled := 0, inflight := 0, recent := [] }
    sout := { c.sout with open_ := false, posted := 0, recent := [], spoiled := [] } }

/-- The listed clusters of a polder. -/
def State.listed (s : State) (p : Nat) : List Nat :=
  (s.clusters.map Prod.fst).filter fun cl => (s.polder p).holds? (halfOf cl)

def State.closeSluices (s : State) (p : Nat) : State :=
  s.each (s.listed p) fun s cl => s.onCluster cl Cluster.close

/-! ### Jobs (R122, R338) -/

/-- A cluster's scheduled work is over: nothing is staged, on its way or posted and not yet taken. -/
def Cluster.quiet (c : Cluster) : Bool :=
  c.sout.posted == 0 && c.inject.isEmpty && c.eject.isEmpty && c.inputs.isEmpty && c.outputs.isEmpty && c.beats.isEmpty

/-- The end condition of R122. -/
def State.jobDone (s : State) (p : Nat) : Bool :=
  let mine (core : Nat) : Bool := (s.polder p).holds? (halfOf (clusterOf core))
  (s.scores.all fun e => !mine e.1 || (e.2.ended && e.2.ops.isEmpty))
    && (s.tcores.all fun e => !mine e.1 || e.2.ops.isEmpty) && (s.vcores.all fun e => !mine e.1 || e.2.ops.isEmpty)
    && (s.listed p).all fun cl => (s.cluster cl).quiet

/-- The ORed ARITH_STATUS flags of a polder's cores (R50). -/
def State.jobFlags (s : State) (p : Nat) : Flags :=
  let mine (core : Nat) : Bool := (s.polder p).holds? (halfOf (clusterOf core))
  let f (a : Flags) (e : Nat × Flags) : Flags := if mine e.1 then a ||| e.2 else a
  ((s.tcores.map fun e => (e.1, e.2.status)) ++ (s.vcores.map fun e => (e.1, e.2.status))
    ++ (s.scores.map fun e => (e.1, e.2.status))).foldl f 0

/-- The job log: a header and one record per cluster in ascending v, then u (R338).  The last SNOTE of a cluster is the last
that its CDC has taken: one still in the buffer when the job ends is not in the log (R119; DESIGN CHOICE, log 35). -/
def State.jobLog (s : State) (p : Nat) : List Byte :=
  let cls := (s.polder p).clusters
  leBytes 4 cls.length ++ zeros 60 ++ cls.flatMap fun cl =>
    let n := (s.cluster cl).lastNote
    leBytes 4 ((s.polder p).coordWord cl) ++ leBytes 1 (b2n !n.isEmpty) ++ zeros 11 ++ (n ++ zeros 16).take 16

/-- An output buffer: bit 0 of OUT_ADDR chooses device memory, whose reach is that of a channel of the function (R276,
R324). -/
def State.reaches (s : State) (f a n : Nat) : Bool :=
  (decide (a < 0x018000000000) || inScratch a)
    && (f == 0 || (List.range 256).any fun ch => (s.chan ch).func == f && decide ((s.chan ch).edgeLo ≤ a)
      && decide (a + n ≤ (s.chan ch).edgeHi))

/-- Writing an output buffer whole (R324): the status, and the state with it written; whatever keeps a device access from
being served is BUS_ERROR. -/
def State.writeOut (s : State) (f out : Nat) (l : List Byte) : State × Status :=
  if out == 0 || l.isEmpty then (s, .ok)
  else if out % 2 == 1 then
    if !s.reaches f (out - 1) l.length then (s, .denied)
    else
      let r := pieces 4096 (fun s a acc fl =>
          let r := s.access { who := .host } a acc fl
          -- a piece that waits in a hold queue has been handed over (R212)
          if r.2.status == .held then (r.1, {}) else r) (l.length / 4096 + 2) s (out - 1) (.write l) []
      if r.2.status == .ok then (r.1, .ok) else (s, .busError)
  else match s.hostWrite f out l with
    | some s => (s, .ok)
    | none => (s, .busError)

/-- DETAIL of a job: flags, admitted step, and the bits of the event that ended it (R337, R338, R340). -/
def State.jobDetail (s : State) (p : Nat) (j : Job) (extra : Nat) : Nat :=
  (s.jobFlags p).toNat + j.admittedStep * 2 ^ 8 + extra

/-- Every cluster of a polder's half-dies, idle rows included. -/
def State.allClusters (s : State) (p : Nat) : List Nat :=
  (s.polder p).halfDies.flatMap fun h => (List.range (s.halfDie h).rows).flatMap fun y =>
    (List.range 24).map fun x => h / 2 * 1344 + y * 48 + h % 2 * 24 + x

/-- The cycles of a job that ends are counted in CYC of every cluster of its half-dies (R120). -/
def State.countCycles (s : State) (p : Nat) : State :=
  let n := (s.polder p).cycle
  let s := s.each (s.allClusters p) fun s cl => s.onCluster cl fun c => { c with cyc := (c.cyc + n) % 2 ^ 64 }
  s.onPolder p fun x => { x with cycle := 0 }

/-- A command in progress on a polder is ended with a status (R320, R332). -/
def State.endCommand (s : State) (p : Nat) (st : Status) : State :=
  match (s.polder p).command with
  | none => s
  | some c =>
    (s.onPolder p fun x => { x with command := none }).complete c.func c.tag c.opc c.notify { status := st, polder := p }

/-- A CONTEXT_SAVE that still waits ends with ABORTED when its job ends first (R332, R340; DEDUCED, log 20). -/
def State.endSave (s : State) (p : Nat) : State :=
  if (s.polder p).command.any fun c => c.opc == 0x24 then s.endCommand p .aborted else s

/-- The completion of a polder's job with a status: log, record, and no job any more.  Firmware writes it; a job whose
command was discarded, or that ends while firmware does not run, leaves neither log nor record (R332, R338). -/
def State.finishJob (s : State) (p : Nat) (st : Status) (extra : Nat) : State :=
  match (s.polder p).job with
  | none => s
  | some j =>
    let s := s.endSave p
    let answer : Answer :=
      { status := st
        polder := p
        r0 := if j.phase == .waiting then 0 else ((s.meter (mPolder p)).total - j.energy0) / 1000000
        r1 := if j.phase == .running then (s.time.dev - j.startAt) * 10 else 0
        detail := s.jobDetail p j extra }
    let s := if j.phase == .running then s.countCycles p else s
    let s := s.onPolder p fun x => { x with
      job := none, peakDown := 0, overDown := 0, quotaDown := 0, rails := [], weir := none, nextStep := none }
    if j.silent || !s.trust.running then s
    else
      let log := if j.phase == .running && j.outAddr != 0 then s.jobLog p else []
      let w := s.writeOut j.func j.outAddr log
      let answer := if w.2 == .ok then { answer with outBytes := log.length }
        else { answer with status := if st == .ok then w.2 else st }
      w.1.complete j.func j.tag j.opc j.notify answer

/-- The job of a polder leaves its half-dies IDLE (R390). -/
def State.idleHalfDies (s : State) (p : Nat) : State :=
  s.each (s.polder p).halfDies fun s h => s.onHalfDie h fun x => if x.power == .active then { x with power := .idle } else x

/-- A cluster's work in flight is discarded: staging, words and beats on their way, SNOTE buffer, pending router
changes (R315 step 4). -/
def Cluster.discard (c : Cluster) : Cluster :=
  { c.close with
    inject := [], eject := [], inputs := [], outputs := [], beats := [], notes := [], noteRecent := [], issues := []
    pageAt := [], writes := [] }

/-- Steps 1-5 of the floodgate sequence on one polder: sluices closed, channels disabled, near-bank work ended, work in
flight discarded, cores HALTED with undefined contents (R315, R499).  The count is of the channels disabled. -/
def State.halt (s : State) (p : Nat) : State × Nat :=
  let chans := s.liveChans fun c => c.polder == p
  let s := s.each (s.listed p) fun s cl => s.onCluster cl Cluster.discard
  let s := s.nbDiscard fun c => c.polder == p
  let s := s.each chans State.disableChan
  let s := s.idleHalfDies p
  let s := s.junkCores (s.polder p).halfDies true
  (s.onPolder p fun x => { x with state := .halted, holds := [] }, chans.length)

/-- A job that has reached slot 0 ends with a status other than OK: the polder is halted, then the record follows
(R499).  The flags of the record are those at that moment. -/
def State.failJob (s : State) (p : Nat) (st : Status) (extra : Nat) : State :=
  match (s.polder p).job with
  | none => s
  | some j =>
    if j.phase != .running then s
    else
      -- the record takes the flags before the contents are lost
      let rec_ := s.finishJob p st extra
      (rec_.halt p).1

/-- The floodgate of one polder up to step 5, with what its job and its command come to (R315, R317, R320): the job ends
with ABORTED unless its end condition is met.  The flag says whether a running job was ended. -/
def State.gatePolder (s : State) (p : Nat) : State × Nat × Bool :=
  let x := s.polder p
  if x.state == .none then (s, 0, false)
  else if x.state == .halted then
    -- channels enabled since then are disabled all the same (R292); the rest finds nothing to do (R320)
    let chans := s.liveChans fun c => c.polder == p
    ((s.nbDiscard fun c => c.polder == p).each chans State.disableChan, chans.length, false)
  else
    let running := match x.job with
      | some j => j.phase == .running
      | none => false
    let finished := running && s.jobDone p
    let s := s.endCommand p .aborted
    let s := s.finishJob p (if finished then .ok else .aborted) 0
    let r := s.halt p
    (r.1, r.2, running && !finished)

end Sys2Proof.Machine
end

