-- ==== Sys2Proof/Machine/Mailbox.lean ====
section
/-! DEFINITION. Mailbox words, the messages firmware takes from them, and the checks every command passes first
(R306-R313, R322-R334, R458). -/

namespace Sys2Proof.Machine

/-! ### Host-to-device words (R307, R308, R311, R312) -/

/-- The management domain serves a function's mailbox: firmware runs, or the boot ROM in recovery serves the PF
(R312, R458), outside a bring-up, a restart of the PMP and SAG_HOLD (R321, R400, R406). -/
def State.mailOpen (s : State) (f : Nat) : Bool :=
  s.power.management && !s.power.sagHold && !s.boot.running && !s.trust.romDue && (s.trust.running || (s.trust.recovery && f == 0))

/-- A write to MB_H2D or MB_DOORBELL while the domain is off: dropped, DOMAIN_OFF set, an AER error signalled (R312). -/
def State.mailDropped (s : State) (f : Nat) : State :=
  { s.onFunc f (fun x => { x with domainOff := true }) with aerErrors := s.aerErrors + 1, reply := .done }

/-- A write to MB_H2D: the word is appended, or replaces the newest (R308). -/
def State.writeH2D (s : State) (f : Nat) (w : Word) : State :=
  if !s.mailOpen f then s.mailDropped f
  else
    { s.onFunc f (fun x =>
        if x.h2d.length < 16 then { x with h2d := x.h2d ++ [w] }
        else { x with h2d := x.h2d.take 15 ++ [w], collision := true, h2dLost := true }) with reply := .done }

/-- A read of MB_D2H: the oldest word leaves the queue; Completer Abort while the domain is off (R309, R312). -/
def State.readD2H (s : State) (f : Nat) : State :=
  if !s.mailOpen f then { s with reply := .completerAbort }
  else match (s.func f).d2h with
    | [] => { s with reply := .data (zeros 8) }
    | (sender, w) :: rest =>
      { s.onFunc f (fun x => { x with d2h := rest }) with
        reply := .data (leBytes 8 (w.toNat + sender * 2 ^ 32 + 2 ^ 63)) }

/-- A write to MB_DOORBELL: RING raises one notification (R311). -/
def State.ringDoorbell (s : State) (f : Nat) (v : Nat) : State :=
  if !s.mailOpen f then s.mailDropped f
  else if bit v 0 then { s.onFunc f (fun x => { x with notified := true }) with reply := .done }
  else { s with reply := .done }

/-! ### Messages (R322, R323, R331) -/

/-- A resend of a completed command: its record is written again, or its short word where no ring exists (R331). -/
def State.resend (s : State) (f : Nat) (r : List Byte) : State :=
  if (s.func f).ring.isSome then (s.onFunc f fun x => { x with due := x.due ++ [⟨false, r⟩] }).flush f
  else s.sendWords f [shortWord (fieldAt r 0 2) (fieldAt r 2 1) (Status.ofCode (fieldAt r 3 1))]

/-- A whole message: a resend, or a new command, which is remembered and waits for its turn (R331, R332). -/
def State.accept (s : State) (f : Nat) (header : Word) (args : List Word) : State :=
  let h := header.toNat
  let tag := bits h 16 16
  let opc := bits h 8 8
  match (s.func f).tags.find? fun t => t.tag == tag && t.opc == opc with
  | some t => match t.record with
    | some r => s.resend f r
    | none => s
  | none => s.onFunc f fun x =>
    let tags := x.tags ++ [⟨tag, opc, none⟩]
    { x with
      tags := tags.drop (tags.length - 64)
      inbox := x.inbox ++ [⟨tag, opc, bits h 4 4, args⟩] }

/-- 64 completions are held: firmware takes no further words and starts no further command of the function (R329;
log 55). -/
def Func.stuffed (x : Func) : Bool := decide (64 ≤ x.heldCompletions)

/-- The messages that a sequence of words holds, in order; the words of an incomplete last one are kept (R323), and those
after the 64th held completion stay in the queue (R329). -/
def State.parseWords (f : Nat) : (fuel : Nat) → State → List Word → State
  | 0, s, ws => s.onFunc f fun x => { x with partialWords := ws }
  | n + 1, s, ws =>
    match ws with
    | [] => s.onFunc f fun x => { x with partialWords := [] }
    | h :: rest =>
      let len := bits h.toNat 0 4
      if (s.func f).stuffed then s.onFunc f fun x => { x with partialWords := [], h2d := ws }
      else if rest.length < len then s.onFunc f fun x => { x with partialWords := ws }
      else State.parseWords f n (s.accept f h (rest.take len)) (rest.drop len)

/-- Firmware takes every waiting word of a function: none while 64 completions are held (R329), and after a collision
it discards them all (R308). -/
def State.takeWords (s : State) (f : Nat) : State :=
  let x := s.func f
  if !s.mailOpen f || x.stuffed || x.h2d.isEmpty then s
  else
    let s := s.onFunc f fun x => { x with h2d := [], h2dLost := false, partialWords := if x.h2dLost then x.partialWords else [] }
    if x.h2dLost then s
    else
      let ws := x.partialWords ++ x.h2d
      State.parseWords f (ws.length + 1) s ws

/-! ### Commands and their checks (R324, R326, R333-R335) -/

/-- Who may issue a command (R334). -/
inductive Issuer where
  | pf | own | any
  /-- MEM_INIT: the PF, and a VF for TARGET 0 on its own polder -/
  | memInit
deriving DecidableEq, Repr

/-- Form I, O or B of the command table. -/
inductive BlockUse where
  | never | optional | required
deriving DecidableEq, Repr

/-- A row of the command table: issuer, form, inline word count (none where the sub-operation is not defined) and the
reserved bits of A1, A2 and so on (R335). -/
structure Shape where
  issuer : Issuer
  block : BlockUse
  words : Option Nat
  reserved : List Nat := []
deriving DecidableEq, Repr

/-- All the bits of a word but the low `n`. -/
def above (n : Nat) : Nat := 2 ^ 32 - 2 ^ n

/-- The row of an opcode, by A1 where a sub-operation chooses the words (R335, R343, R366, R425, R446). -/
def shapeOf (opc a1 : Nat) : Option Shape :=
  match opc with
  | 0x01 => some ⟨.any, .never, some 6, [0, 0, above 25, above 9, 0, 0]⟩
  | 0x02 => some ⟨.any, .optional, some 1, [above 5]⟩
  | 0x10 => some ⟨.pf, .never, some 1, [0xFFFFC0E0]⟩
  | 0x11 => some ⟨.pf, .never, some 1, []⟩
  | 0x12 => some ⟨.own, .never, some 1, []⟩
  | 0x20 => some ⟨.own, .required, some 1, []⟩
  | 0x21 => some ⟨.own, .never, some 1, []⟩
  | 0x22 => some ⟨.own, .optional, some 4, []⟩
  | 0x23 => some ⟨.own, .never, some 1, []⟩
  | 0x24 => some ⟨.own, .required, some 2, [0, above 1]⟩
  | 0x25 => some ⟨.own, .required, some 3, []⟩
  | 0x30 => some ⟨.memInit, .never,
      match a1 with
      | 0 => some 6
      | 1 => some 5
      | 2 => some 5
      | _ => none,
      if a1 == 2 then [0, above 4] else []⟩
  | 0x31 => some ⟨.pf, .never, some 3, [above 1]⟩
  | 0x32 => some ⟨.pf, .never, some 3, []⟩
  | 0x40 => some ⟨.pf, .never, some 3, []⟩
  | 0x41 => some ⟨.pf, .never, some 2, [0xFFFFFEE0]⟩
  | 0x42 => some ⟨.any, .required, some 1, []⟩
  | 0x43 => some ⟨.pf, .never, some 2, []⟩
  | 0x44 => some ⟨.pf, .never, some 3, [if bits a1 0 8 == 2 then 0xFF00 else above 8]⟩
  | 0x50 => some ⟨.pf, .optional,
      match bits a1 0 8 with
      | 1 => some 3
      | 2 => some 3
      | 3 => some 2
      | 4 => some 6
      | 5 => some 7
      | 6 => some 4
      | _ => none,
      match bits a1 0 8 with
      | 4 => [above 8, 0, 0, 0xFFFFFEF0]
      | 5 => [above 8, 0, 0xFFFFFEF0]
      | 6 => [above 8, above 1, 0, above 4]
      | _ => [above 8]⟩
  | 0x51 => some ⟨.pf, .required, some 2, []⟩
  | 0x60 => some ⟨.any, .required, some 8, []⟩
  | 0x61 => some ⟨.any, .required, some 1, [above 0]⟩
  | 0x62 => some ⟨.pf, .required, some 1, [above 0]⟩
  | 0x63 => some ⟨.pf, .never, some 1, [above 0]⟩
  | 0x70 => some ⟨.any, .required, some 2, []⟩
  | 0x71 => some ⟨.pf, .required, some 1, [above 0]⟩
  | 0x72 => some ⟨.pf, .never, some 1, [above 0]⟩
  | 0x7F => some ⟨.pf, .optional,
      match bits a1 0 8 with
      | 1 => some 1
      | 2 => some 3
      | 3 => some 2
      | _ => none,
      if bits a1 0 8 == 2 then [above 8, 0, above 1] else [above 8]⟩
  | _ => none

/-- A command that has passed the checks of R333: its inline words, its block's arguments and its output buffer. -/
structure Cmd where
  func : Nat
  tag : Nat
  opc : Nat
  notify : Bool
  args : List Nat
  /-- it came with a command block -/
  block : Bool := false
  body : List Byte := []
  out : Nat := 0
  outLen : Nat := 0
deriving DecidableEq, Repr

/-- Inline argument A`i`. -/
def Cmd.a (c : Cmd) (i : Nat) : Nat := nth 0 c.args (i - 1)
/-- Two inline words, A`i` the lower. -/
def Cmd.a64 (c : Cmd) (i : Nat) : Nat := c.a i + c.a (i + 1) * 2 ^ 32
/-- An output of `n` bytes fits its buffer (R324). -/
def Cmd.fits (c : Cmd) (n : Nat) : Bool := c.out == 0 || decide (n ≤ 64 * c.outLen)

def Msg.block (m : Msg) : Bool := bit m.flags 0
/-- Inline words of a message (R322). -/
def Msg.inline_ (m : Msg) : List Nat := (if m.block then m.args.drop 3 else m.args).map BitVec.toNat
def Msg.a1 (m : Msg) : Nat := nth 0 m.inline_ 0
def Msg.arg (m : Msg) (i : Nat) : Nat := (nth 0 m.args i).toNat
def Msg.blockAddr (m : Msg) : Nat := m.arg 0 + m.arg 1 * 2 ^ 32
def Msg.blen (m : Msg) : Nat := m.arg 2

/-- The issuer is not permitted (R302, R326, R334). -/
def State.denied (s : State) (f : Nat) (m : Msg) (i : Issuer) : Bool :=
  if m.opc == 0x01 then false
  else if s.trust.running && (s.func f).ring.isNone then true
  else if f == 0 || m.opc == 0x02 then false
  else
    let vp := s.vfPolder f
    vp == 31 || match i with
      | .pf => true
      | .any => false
      | .own => m.a1 != vp
      | .memInit => m.a1 != 0 || nth 0 m.inline_ 1 != vp

/-- Bytes that the arguments of a block take: an image's header, a mask of map replacements with a record for each set bit, a
context's header (R123, R337, R341). -/
def blockNeeds (opc : Nat) (body : List Byte) : Nat :=
  match opc with
  | 0x20 => 128
  | 0x22 => 32 + 16 * ((List.range 256).countP (bit (fieldAt body 0 32)))
  | 0x25 => 64
  | _ => 0

/-- The checks of R333 in order, with the block read between them: a block whose access ends in an error completion
gives BUS_ERROR (R324). -/
def State.checked (s : State) (f : Nat) (m : Msg) : Except Status Cmd :=
  if !s.trust.running && m.opc != 0x01 && m.opc != 0x62 then .error .denied
  else match shapeOf m.opc m.a1 with
  | none => .error .badOpcode
  | some sh =>
    let l := m.inline_
    let lenBad := m.args.isEmpty || l.isEmpty
      || (match sh.words with
          | some n => l.length != n
          | none => false)
      || (m.block && m.blen == 0)
    let blk := if m.block then s.hostRead f m.blockAddr (64 * m.blen) else some []
    let head := blk.getD []
    let out := fieldAt head 0 8
    let outLen := fieldAt head 8 4
    match firstFail [
        (lenBad, .badLength),
        (bit m.flags 2 || bit m.flags 3 || (m.block && sh.block == .never) || (!m.block && sh.block == .required)
          || ((l.zip sh.reserved).any fun x => x.1 &&& x.2 != 0)
          || (((head.take 64).drop 12).any fun b => b != 0), .formatUnsupported),
        (s.denied f m sh.issuer, .denied),
        (m.block && m.blockAddr % 64 != 0, .align),
        (blk.isNone, .busError),
        (bits out 1 5 != 0, .align),
        ((m.block && decide ((head.drop 64).length < blockNeeds m.opc (head.drop 64))) || (out != 0 && outLen == 0), .bound)] with
    | some st => .error st
    | none => .ok { func := f, tag := m.tag, opc := m.opc, notify := bit m.flags 1, args := l, block := m.block, body := head.drop 64, out := out, outLen := outLen }

/-- The polder that a command names, for its record (R327, R335); 0xFFFF where it names none. -/
def namedPolder (opc : Nat) (args : List Nat) : Nat :=
  let n := if [0x02, 0x11, 0x12, 0x20, 0x21, 0x22, 0x23, 0x24, 0x25].contains opc then nth 31 args 0
    else if opc == 0x41 then nth 0 args 0 % 32
    else if opc == 0x30 && nth 9 args 0 == 0 then nth 31 args 1
    else 31
  if n < 24 then n else 0xFFFF

/-- Completing a command. -/
def State.answer (s : State) (c : Cmd) (a : Answer) : State := s.complete c.func c.tag c.opc c.notify a
/-- Refusing a command: it changes nothing. -/
def State.refuse (s : State) (c : Cmd) (st : Status) : State :=
  s.answer c { status := st, polder := namedPolder c.opc c.args }

/-- Firmware acts on the oldest message that waits for a function, if it is the one that `mine` recognises by opcode and
A1 and firmware can read its block: the checks of R333 first, then the command's own meaning.  Otherwise nothing
happens. -/
def State.serve_ (s : State) (f : Nat) (mine : Nat → Nat → Bool) (run : State → Cmd → State) : State :=
  match (s.func f).inbox with
  | [] => s
  | m :: rest =>
    if !s.mailOpen f || !mine m.opc m.a1 || (m.block && !(s.func f).bme) || (s.func f).stuffed then s
    else
      let s := s.onFunc f fun x => { x with inbox := rest }
      match s.checked f m with
      | .error st => s.complete f m.tag m.opc (bit m.flags 1) { status := st, polder := namedPolder m.opc m.inline_ }
      | .ok c => run s c

/-- Firmware starts the next message of a function while the oldest, which `busy` recognises, is in progress (R332): after the
checks of R333 it is refused with BUSY.  Where there is no such message, `other` is what happens. -/
def State.meets (s : State) (f : Nat) (busy : Msg → Bool) (mine : Nat → Nat → Bool) (other : State) : State :=
  match (s.func f).inbox with
  | b :: m :: rest =>
    if !busy b || !s.mailOpen f || !mine m.opc m.a1 || (m.block && !(s.func f).bme) || (s.func f).stuffed then other
    else
      let s := s.onFunc f fun x => { x with inbox := b :: rest }
      let st := match s.checked f m with
        | .error st => st
        | .ok _ => .busy
      s.complete f m.tag m.opc (bit m.flags 1) { status := st, polder := namedPolder m.opc m.inline_ }
  | _ => other

/-- `serve_` for a command that its opcode alone selects. -/
def State.command (s : State) (f opc : Nat) (run : State → Cmd → State) : State :=
  s.serve_ f (fun o _ => o == opc) run

/-- An output written whole before the record that reports it; a failing access decides the status and nothing changes
(R324). -/
def State.output (s : State) (c : Cmd) (l : List Byte) (a : Answer) : State :=
  if !c.fits l.length then s.refuse c .bound
  else
    let w := s.writeOut c.func c.out l
    if w.2 == .ok then w.1.answer c { a with outBytes := if c.out == 0 then 0 else l.length }
    else s.refuse c w.2

/-! ### The rows -/

/-- A host write to MB_H2D (R308). -/
def execMbH2D (f : Nat) (word : Word) (s : State) : Result := .next (s.writeH2D f word)

/-- A host read of MB_D2H (R309). -/
def execMbD2H (f : Nat) (s : State) : Result := .next (s.readD2H f)

/-- A host write to MB_DOORBELL (R311). -/
def execMbDoorbell (f : Nat) (value : Word) (s : State) : Result := .next (s.ringDoorbell f value.toNat)

/-- The 10 ms poll of every function's queue (R311); the controllers take what their own queues hold too (R313). -/
def execMailboxPoll (s : State) : Result := .next (s.each (List.range 25) State.takeWords).boardPoll

/-- Firmware answers a pending notification (R311). -/
def execFirmwareNotification (f : Nat) (s : State) : Result :=
  if (s.func f).notified && s.mailOpen f then .next ((s.onFunc f fun x => { x with notified := false }).takeWords f)
  else .next s

/-- 1 ms after the header of a message whose words have not all arrived: TIMEOUT under its TAG (R323).  It is remembered as
a command is, unless a command is remembered under its TAG and OPC: that one's record stays (R331). -/
def execPartialMessageTimeout (f : Nat) (s : State) : Result :=
  match (s.func f).partialWords with
  | [] => .next s
  | h :: _ =>
    if !s.mailOpen f then .next s
    else
      let tag := bits h.toNat 16 16
      let opc := bits h.toNat 8 8
      let a : Answer := { status := .timeout }
      .next ((s.onFunc f fun x => { x with
        partialWords := []
        tags := if x.tags.any fun t => t.tag == tag && t.opc == opc then x.tags
          else (x.tags ++ [(⟨tag, opc, some (a.record tag opc)⟩ : TagEntry)]).drop (x.tags.length - 63) }).post f tag opc (bit h.toNat 5) a)

/-- A remembered command leaves the memory 1 s after its completion (R331). -/
def execTagMemoryExpiry (f tag opc : Nat) (s : State) : Result :=
  .next (s.onFunc f fun x => { x with
    tags := x.tags.filter fun t => !(t.tag == tag && t.opc == opc && t.record.isSome) })

/-- A message whose opcode, or whose sub-operation or TARGET, no row of the command table has (R333, R343, R425,
R446). -/
def execBadOpcode (f : Nat) (s : State) : Result :=
  .next (s.serve_ f (fun o a1 => match shapeOf o a1 with
    | none => true
    | some sh => sh.words.isNone) fun s c => s.refuse c .formatUnsupported)

/-- Firmware rereads CONS_ADDR of a full ring and writes what is held (R329). -/
def execRingReread (f : Nat) (s : State) : Result := .next (if s.trust.running then s.flush f else s)

/-- HELLO's answer: the three words, and the record where a ring exists (R326).  The interface level is 0 in recovery
(R458). -/
def State.helloAnswer (s : State) (c : Cmd) (st : Status) : State :=
  let rec_ := recordBytes c.tag 0x01 st.code 0 0xFFFF 0 0 0 0
  let hasRing := (s.func c.func).ring.isSome
  let s := (s.onFunc c.func fun x => { x.remember c.tag 0x01 rec_ with
    due := if hasRing then x.due ++ [⟨false, rec_⟩] else x.due }).flush c.func
  let level := if s.trust.running then s.trust.ifLevel else 0
  s.sendWords c.func [shortWord c.tag 0x01 st, BitVec.ofNat 32 level,
    BitVec.ofNat 32 (c.func + b2n (c.func == 0) * 2 ^ 8 + s.vfPolder c.func * 2 ^ 16)]

/-- HELLO (R325, R326): the completion ring of the function, replacing any earlier one.  In recovery no ring is kept
(R458). -/
def execHello (f : Nat) (s : State) : Result :=
  match (s.func f).inbox with
  | [] => .next s
  | m :: rest =>
    if !s.mailOpen f || m.opc != 0x01 || (m.block && !(s.func f).bme) || (s.func f).stuffed then .next s
    else
      let s := s.onFunc f fun x => { x with inbox := rest }
      let c0 : Cmd := { func := f, tag := m.tag, opc := 0x01, notify := bit m.flags 1, args := m.inline_ }
      match s.checked f m with
      | .error st => .next (s.helloAnswer c0 st)
      | .ok c =>
        let size := bits (c.a 3) 0 16
        let v := bits (c.a 3) 16 9
        let e := bits (c.a 4) 0 9
        match firstFail [
            (size == 0, .badLength),
            (c.a64 1 % 64 != 0 || c.a64 5 % 8 != 0, .align),
            (decide (vectorsOf f ≤ v) || decide (vectorsOf f ≤ e), .bound)] with
        | some st => .next (s.helloAnswer c st)
        | none =>
          let s := if s.trust.running then s.onFunc f fun x => { x with ring := some {
              addr := c.a64 1, size := size, vector := v, eventVector := e, consAddr := c.a64 5 } } else s
          let s := s.helloAnswer c .ok
          -- the record of a supply sag is announced after the PF's first HELLO (R401)
          if f == 0 && s.trust.running && s.recordDue then .next ({ s with recordDue := false }.event 0xFFFF 0 0 0x0A)
          else .next s

end Sys2Proof.Machine
end

