-- ==== Sys2Proof/Machine/Channels.lean ====
section
/-! DEFINITION. DMA channels: descriptors, their write-back, how a channel halts, and how an engine stops (R276-R282,
R287, R290, R195, R207). -/

namespace Sys2Proof.Machine

/-! ### Descriptors (R278) -/

def Desc.word0 (d : Desc) : Nat := fieldAt d.bytes 0 8
def Desc.own (d : Desc) : Bool := bit d.word0 0
def Desc.irq (d : Desc) : Bool := bit d.word0 1
def Desc.fence (d : Desc) : Bool := bit d.word0 2
def Desc.noalloc (d : Desc) : Bool := bit d.word0 3
def Desc.srcDev (d : Desc) : Bool := bit d.word0 4
def Desc.dstDev (d : Desc) : Bool := bit d.word0 5
def Desc.op (d : Desc) : Nat := bits d.word0 8 4
def Desc.shuf (d : Desc) : Nat := bits d.word0 12 4
def Desc.len (d : Desc) : Nat := bits d.word0 16 24
def Desc.src (d : Desc) : Nat := fieldAt d.bytes 8 8
def Desc.dst (d : Desc) : Nat := fieldAt d.bytes 16 8
def Desc.param (d : Desc) : Nat := fieldAt d.bytes 24 8
def Desc.param2 (d : Desc) : Nat := fieldAt d.bytes 32 8
/-- Fields of PARAM of COPY (R284). -/
def Desc.planes (d : Desc) : Nat := bits d.param 0 5
def Desc.width (d : Desc) : Nat := bits d.param 8 4
def Desc.rrec (d : Desc) : Nat := bits d.param 16 16

/-- The descriptor that runs or runs next. -/
def State.desc (s : State) (ch : Nat) : Option Desc := (s.chan ch).fetched.head?

/-- Channel `ch` may make a host request: Bus Master Enable of its function is set (R303). -/
def State.mayAskHost (s : State) (ch : Nat) : Bool := (s.func (s.chan ch).func).bme

/-! ### Reach (R276) -/

def inWindow (a : Nat) : Bool := decide (0x060000000000 ≤ a) && decide (a < 0x070000000000)

/-- A device range that a channel may reach; windows are the PF's alone (R440). -/
def State.mayReach (s : State) (ch a n : Nat) : Bool :=
  let c := s.chan ch
  c.func == 0 || (
    if inAperture a then
      let mine (x : Nat) : Bool := decide (c.polder < 24) && s.polderOf (halfOf (apertureCore x / 64)) == c.polder
      mine a && mine (a + n - 1)
    else !inWindow a && decide (c.edgeLo ≤ a) && decide (a + n ≤ c.edgeHi))

/-- The links to a peer that are UP, ascending: its bundle (R439). -/
def State.bundle (s : State) (fabric : Word) (slot : Nat) : List Nat :=
  (List.range 96).filter fun n =>
    let l := s.link n
    l.state == .up && l.peerFabric == fabric && l.peerSlot == slot

def State.window (s : State) (k : Nat) : Window := Sparse.get {} s.windows k
def windowOf (a : Nat) : Nat := (a - 0x060000000000) / 2 ^ 37

/-- A window is enabled and its peer has an UP link (R440). -/
def State.windowOpen (s : State) (k : Nat) : Bool :=
  let w := s.window k
  w.enabled && !(s.bundle w.fabric w.slot).isEmpty

/-- A DMA range is backed: as any device range, or in open windows (R283, R440). -/
def State.dmaBacked (s : State) (a n : Nat) : Bool :=
  if inWindow a then
    inWindow (a + n - 1) && (List.range 8).all fun k =>
      !(decide (windowOf a ≤ k) && decide (k ≤ windowOf (a + n - 1))) || s.windowOpen k
  else s.rangeBacked a n

/-- A backed range that the channel may not reach (R276). -/
def State.beyondReach (s : State) (ch a n : Nat) : Bool := s.dmaBacked a n && !s.mayReach ch a n

/-- An access of a channel to device memory: DENIED outside its reach (R276). -/
def State.chanAccess (s : State) (ch : Nat) (q : Req) (a : Nat) (acc : Access) : State × Got :=
  if s.beyondReach ch a (accLen acc) then (s, { status := .denied }) else s.access q a acc []

/-- Bytes an engine moves (kind 0) or commands it sends (kind 1) count in its next activity report (R293). -/
def State.engineCount (s : State) (ch kind n : Nat) : State :=
  s.onEngine (engineOf ch) fun e => { e with act := Sparse.modify 0 e.act (2 * (s.chan ch).polder + kind) (· + n) }

/-- A sluice number's cluster belongs to the channel's polder. -/
def State.maySluice (s : State) (ch cl : Nat) : Bool :=
  decide ((s.chan ch).polder < 24) && s.polderOf (halfOf cl) == (s.chan ch).polder

/-- Every memory-mode address homed at a stack's channels lies in the edge window of a VF's channel. -/
def State.mayCommand (s : State) (ch stack : Nat) : Bool :=
  let c := s.chan ch
  let d := s.domain (if s.intlvPkg then 0 else stack / 8 * (256 * s.chBytes))
  c.func == 0 || (decide (c.edgeLo ≤ d.2) && decide (d.2 + d.1.length * s.chBytes ≤ c.edgeHi))

/-! ### Write-back and halt (R281, R287, R290) -/

/-- The channel is HALTED: CODE, the failing address and its direction are latched and VECTOR is raised (R281, R287). -/
def State.haltChan (s : State) (ch : Nat) (st : Status) (addr : Nat) (write stop : Bool) : State :=
  let c := s.chan ch
  (s.onChan ch fun c => { c with state := .halted, code := st, errAddr := addr % 2 ^ 64, dir := write, engStop := stop }).signal
    c.func c.vector

/-- An uncorrectable burst, line or scratch word met by a channel also ends the running job of its polder (R207, R223). -/
def State.jobFail (s : State) (p addr : Nat) (uncorrectable : Bool) : State :=
  if uncorrectable && (decide (addr < 0x018000000000) || inScratch addr) && decide (p < 24) then s.failJob p .hwError 0 else s

/-- An error in device memory met by the engine outside a running descriptor halts the channel with nothing to write back
(R287). -/
def State.ringFail (s : State) (ch : Nat) (g : Got) (addr : Nat) (write : Bool) : State :=
  ((s.onChan ch fun c => { c.idle with fetch := c.head }).haltChan ch g.status addr write false).jobFail
    (s.chan ch).polder addr g.uncorrectable

/-- The engine writes device bytes of a channel outside a transfer, where no retrain holds them (R281, R293). -/
def State.chanWrite (s : State) (ch a : Nat) (l : List Byte) : State × Got :=
  (s.engineCount ch 0 l.length).chanAccess ch { who := .dma ch } a (.write l)

/-- Address of the ring's descriptor `i`. -/
def DmaCh.slotAddr (c : DmaCh) (i : Nat) : Nat := c.base + 64 * i

/-- How a write-back went: well, not with a device ring, or with an error completion at a host address. -/
inductive Wrote where
  | well
  | device (g : Got)
  | host (addr : Nat)
deriving DecidableEq, Repr

/-- Word 6, then word 0 of a descriptor written back (R281). -/
def State.writeRing (s : State) (ch a done w0 : Nat) : State × Wrote :=
  let c := s.chan ch
  if c.dev then
    let r := s.chanWrite ch (a + 48) (leBytes 8 done)
    let r := if r.2.status == .ok then r.1.chanWrite ch a (leBytes 8 w0) else r
    (r.1, if r.2.status == .ok then .well else .device r.2)
  else
    let s := s.engineCount ch 0 16
    let one := s.hostWrite c.func (a + 48) (leBytes 8 done)
    let two := (one.getD s).hostWrite c.func a (leBytes 8 w0)
    (two.getD (one.getD s), if one.isNone then .host (a + 48) else if two.isNone then .host a else .well)

/-- Write-back of the descriptor at HEAD with a status and DONE: word 6, then word 0 with OWN clear; HEAD advances, the
channel lets go of its sluices, and a completion with IRQ raises VECTOR.  A device ring's error halts the channel; a bus
error is reported (R281, R287). -/
def State.retire (s : State) (ch : Nat) (st : Status) (done : Nat) : State × Option Nat :=
  let c := s.chan ch
  match c.fetched with
  | [] => (s, none)
  | d :: rest =>
    let w0 := d.word0 - b2n d.own - bits d.word0 40 8 * 2 ^ 40 + st.code * 2 ^ 40
    let head := if c.size ≤ d.index + 1 then 0 else d.index + 1
    let s := (s.unbindAll ch).setChan ch { c with
      fetched := rest, begun := false, done := 0, finish := none, got := [], walk := none, awaited := [], failed := none
      retry := none, retryAccess := [], parked := 0, issued := 0, remote := 0, head := head, life := c.life + 1
      progressAt := s.time.dev
      state := if c.state == .active && (head == c.tail || (rest.isEmpty && c.stalled)) then .waiting else c.state }
    let a := c.slotAddr d.index
    let r := s.writeRing ch a done w0
    match r.2 with
    | .well => (if st == .ok && d.irq then r.1.signal c.func c.vector else r.1, none)
    | .device g => (r.1.ringFail ch g a true, none)
    | .host x => (r.1, some x)

/-- A write-back can be made: to a device ring whose memory no retrain holds, or while the function may make host requests
(R212, R281, R303). -/
def State.mayRetire (s : State) (ch : Nat) : Bool :=
  let c := s.chan ch
  if c.dev then c.fetched.head?.all fun d => !s.wouldHold (c.slotAddr d.index) (.write (zeros 64)) else s.mayAskHost ch

/-- The running descriptor has writes that are not acknowledged yet: in hold queues, waiting for their retry, or out over
links (R281). -/
def State.writesOut (s : State) (ch : Nat) : Bool :=
  let c := s.chan ch
  let mine (h : Held) : Bool := h.req.who == .dma ch && h.life == c.life && !h.req.loose && accWrites h.acc
  (c.retryAccess.any fun h => accWrites h.acc)
    || (s.channels.any fun e => e.2.held.any mine)
    || s.links.any fun e => e.2.outstanding.any fun o => o.ch == ch && o.life == c.life && o.write

/-- What is left of a channel whose running descriptor waits for its write-back: the descriptor and its writes. -/
def DmaCh.ending (c : DmaCh) : DmaCh :=
  { c with
    stalled := false, got := [], walk := none, awaited := [], failed := none, retry := none, fetching := false
    fetchErr := none, ahead := [] }

/-- The running descriptor ends with a status other than OK: it is written back and the channel halts, those read ahead
forgotten.  While the write-back cannot be made, or a write of the descriptor is unacknowledged, it stays due, with the
sluices bound until then (R281, R285, R303).  A bus error of the write-back is reported. -/
def State.endChan (s : State) (ch : Nat) (st : Status) (done addr : Nat) (write stop : Bool) : State × Option Nat :=
  let c := s.chan ch
  let out := !c.fetched.isEmpty && s.writesOut ch
  let s := s.setChan ch { (if out then c.ending else c.idle) with fetched := c.fetched.take 1, fetch := c.head }
  let r : State × Option Nat := if c.fetched.isEmpty then (s, none)
    else if !out && s.mayRetire ch then
      let r := s.retire ch st done
      (r.1.onChan ch fun c => { c with fetch := c.head }, r.2)
    else (s.onChan ch fun c => { c with finish := some (st, done) }, none)
  -- an uncorrectable word of a device ring has halted the polder, and disabled its channels with it (R207, R315)
  (if (r.1.chan ch).state == .disabled then r.1 else r.1.haltChan ch st addr write stop, r.2)

/-- A channel that is at work: neither DISABLED nor HALTED. -/
def State.working (s : State) (ch : Nat) : Bool := (s.chan ch).state == .active || (s.chan ch).state == .waiting

/-- STOP_ALL: every working channel of the engine halts; what runs is written back with STOPPED and an undefined DONE,
the failing descriptor, where it is known, with BUS_ERROR (R281, R287). -/
def State.stopAll (s : State) (ch addr : Nat) (write known : Bool) : State :=
  let b := engineOf ch
  let s := s.onEngine b fun e => { e with stopped := true, errAddr := addr % 2 ^ 64 }
  s.each ((List.range 64).map (64 * b + ·)) fun s o =>
    if !s.working o then s
    else
      let running := (s.chan o).begun
      let mine := known && o == ch
      let free := Config.freeNat s.fresh % 2 ^ 24
      let done := if mine then (s.chan o).done else free
      let s := if mine then s else { s with fresh := s.fresh + 1 }
      let s := if running then s else s.onChan o fun c => { c.idle with fetch := c.head }
      (s.endChan o (if mine then .busError else .stopped) done (if mine then addr else 0) (mine && write) true).1

/-- A bus error with no descriptor left to write back: one of a write-back, or of the ring's next descriptor (R287). -/
def State.ringBus (s : State) (ch addr : Nat) (write : Bool) : State :=
  if (s.engine (engineOf ch)).stopAll then
    if (s.engine (engineOf ch)).stopped then s else s.stopAll ch addr write true
  else if s.working ch then (s.onChan ch fun c => { c.idle with fetch := c.head }).haltChan ch .busError addr write false
  else s

/-- The bus error that a write-back may have met. -/
def State.reported (r : State × Option Nat) (ch : Nat) : State :=
  match r.2 with
  | none => r.1
  | some a => r.1.ringBus ch a true

/-- The running descriptor ends with a status other than OK, and its channel halts. -/
def State.endDesc (s : State) (ch : Nat) (st : Status) (done addr : Nat) (write stop : Bool) : State :=
  State.reported (s.endChan ch st done addr write stop) ch

/-- An error found in device memory halts only its own channel (R287). -/
def State.devFail (s : State) (ch : Nat) (st : Status) (addr : Nat) (write uncorrectable : Bool) : State :=
  if !s.working ch then s
  else (s.endDesc ch st (s.chan ch).done addr write false).jobFail (s.chan ch).polder addr uncorrectable

/-- A bus error or a refusal, under the engine's ERR_MODE (R287). -/
def State.busFail (s : State) (ch : Nat) (st : Status) (addr : Nat) (write known : Bool) : State :=
  if !s.working ch then s
  else if (s.engine (engineOf ch)).stopAll then s.stopAll ch addr write known
  else s.endDesc ch st (s.chan ch).done addr write false

/-- The running descriptor of a channel has made progress (R289). -/
def State.progress (s : State) (ch : Nat) : State := s.onChan ch fun c => { c with progressAt := s.time.dev }

/-- What a device access of a channel came to: bytes read are kept for the running descriptor, whole units written by
COPY and FROM_SLUICE count, and an error halts the channel.  Answers to an earlier life are discarded (R291). -/
def State.delivered (s : State) (ch life addr : Nat) (acc : Access) (g : Got) : State :=
  let c := s.chan ch
  if c.life != life then s
  else
    if g.status != .ok then
      s.devFail ch g.status addr (accWrites acc) g.uncorrectable
    else (s.progress ch).onChan ch fun c => match acc with
      | .read _ => { c with got := c.got ++ g.data }
      | .write l =>
        let counts := (c.fetched.head?.map Desc.op).any fun o => o == 1 || o == 3
        if !(counts && c.begun) then c
        else match c.finish with
          | none => { c with done := c.done + l.length / 64 }
          -- a halted descriptor's last write is acknowledged: its units are known written (R281)
          | some (st, n) => { c with finish := some (st, if st == .stopped then n else n + l.length / 64) }

/-- The response to a request that went out over a link (R441). -/
def State.answered (s : State) (ch life addr : Nat) (acc : Access) (g : Got) : State :=
  (if (s.chan ch).life == life then s.onChan ch fun c => { c with remote := c.remote - 1 } else s).delivered ch life addr acc g

/-! ### Rows about one channel -/

/-- What ENABLE checks (R277). -/
def State.enableCheck (s : State) (ch : Nat) : Option Status :=
  let c := s.chan ch
  let n := 64 * c.size
  let a := c.base
  firstFail [
    (c.size == 0 || c.timeoutMs == 0, .badLength),
    (c.baseLow != 0, .align),
    (decide (10000 < c.timeoutMs) || decide (vectorsOf c.func ≤ c.vector) || (decide (23 < c.polder) && c.polder != 31)
      || decide (24 < c.func)
      || (if c.dev then decide (2 ^ 48 ≤ a) || inAperture a || inAperture (a + n - 1) || !s.rangeBacked a n
          else decide (2 ^ 64 < a + n)), .bound),
    (c.func != 0 && (decide (23 < c.polder) || s.vfPolder c.func != c.polder || (c.dev && !s.mayReach ch a n)), .denied)]

def State.enableChan (s : State) (ch : Nat) : State :=
  match s.enableCheck ch with
  | some st => s.onChan ch fun c => { c with code := st }
  | none => s.onChan ch fun c => { c.idle with state := .waiting, head := 0, tail := 0, fetch := 0 }

/-- Writing DMA_RING_CTL (R277, R290, R291): ENABLE is checked when it is set on a DISABLED channel; RESUME acts on a HALTED
one. -/
def State.writeRingCtl (s : State) (ch v : Nat) : State :=
  let c := s.chan ch
  let s := s.setChan ch { c with vector := bits v 48 9, timeoutMs := bits v 16 14, size := bits v 0 16 }
  if c.state == .disabled then
    if bit v 63 then s.enableChan ch else s
  else if !bit v 63 then s.disableChan ch
  else if bit v 62 && c.state == .halted && !(s.engine (engineOf ch)).stopped && c.finish.isNone then
    if c.size ≤ c.tail then s.haltChan ch .bound 0 false false
    else s.onChan ch fun c => { c with state := if c.head == c.tail then .waiting else .active, fetch := c.head }
  else s

/-- Writing TAIL, the doorbell (R9, R279): a value of SIZE or more halts an enabled channel with BOUND, and one that is
halted halts again as it resumes; a descriptor that runs is written back with it (DEDUCED, log 40). -/
def State.writeTail (s : State) (ch t : Nat) : State :=
  let s := s.onChan ch fun c => { c with tail := t }
  let c := s.chan ch
  if c.state == .disabled then s
  else if c.size ≤ t then
    if c.state == .halted then s
    else if c.begun then s.endDesc ch .bound c.done 0 false false
    else (s.onChan ch fun c => { c.idle with fetch := c.head }).haltChan ch .bound 0 false false
  else s.setChan ch { c with
    stalled := false
    state := if c.state == .halted then .halted else if c.head == t then .waiting else .active }

/-- A function that reaches a channel's registers: the PF, and the VF that owns the channel (R276). -/
def State.owns (s : State) (f ch : Nat) : Bool := f == 0 || (s.chan ch).func == f

/-- DMA_RING_CTL with ENABLE set (R277). -/
def execEnable (f ch : Nat) (value : U64) (s : State) : Result :=
  .next (if s.owns f ch && value.getLsbD 63 then s.writeRingCtl ch value.toNat else s)

/-- DMA_RING_CTL with ENABLE clear (R291). -/
def execDmaDisable (f ch : Nat) (value : U64) (s : State) : Result :=
  .next (if s.owns f ch && !value.getLsbD 63 then s.writeRingCtl ch value.toNat else s)

/-- DMA_RING_CTL with RESUME set (R290). -/
def execResume (f ch : Nat) (value : U64) (s : State) : Result :=
  .next (if s.owns f ch && value.getLsbD 62 then s.writeRingCtl ch value.toNat else s)

/-- DMA_RING_PTR (R279). -/
def execTail (f ch : Nat) (value : U64) (s : State) : Result :=
  .next (if s.owns f ch then s.writeTail ch (value.toNat % 65536) else s)

/-- DMA_OWNER (R276): only on a DISABLED channel, and no VF owns a 33rd. -/
def State.writeOwner (s : State) (ch v : Nat) : State :=
  let c := s.chan ch
  let f := bits v 0 8
  let full := decide (1 ≤ f) && decide (f ≤ 24) && c.func != f
    && decide (32 ≤ ((List.range 256).filter fun o => (s.chan o).func == f).length)
  if c.state != .disabled || full then s.accessError 0 kRefused false (0x1000000 + ch * 0x80 + 0x40)
  else s.setChan ch { c with func := f, polder := bits v 8 5 }

def execDmaOwner (ch : Nat) (value : U64) (s : State) : Result := .next (s.writeOwner ch value.toNat)

/-- A descriptor that could not be read has come to HEAD: its error acts (R287). -/
def State.fetchFail (s : State) (ch : Nat) : State :=
  let c := s.chan ch
  match c.fetched, c.fetchErr with
  | [], some (a, st, u) =>
    if !s.working ch then s
    else if st == .busError then s.ringBus ch a false
    else s.ringFail ch { status := st, uncorrectable := u } a false
  | _, _ => s

/-- What the read of the next descriptor came to (R279): with OWN clear the engine waits for the next TAIL write.  An error
is that of the descriptor itself and acts when it comes to HEAD; a bus error under STOP_ALL acts at once, and what runs then
is not what failed (R287). -/
def State.descRead (s : State) (ch : Nat) (g : Got) : State :=
  let c := s.chan ch
  let a := c.slotAddr c.fetch
  if g.status != .ok then
    if g.status == .busError && (s.engine (engineOf ch)).stopAll then s.stopAll ch a false c.fetched.isEmpty
    else (s.onChan ch fun c => { c with fetchErr := some (a, g.status, g.uncorrectable) }).fetchFail ch
  else
    let d : Desc := ⟨c.fetch, g.data⟩
    if d.own then s.setChan ch { c with
      fetched := c.fetched ++ [d], fetch := if c.size ≤ c.fetch + 1 then 0 else c.fetch + 1, state := .active
      progressAt := if c.fetched.isEmpty then s.time.dev else c.progressAt }
    else s.setChan ch { c with
      ownStall := true, stalled := true, state := if c.fetched.isEmpty then .waiting else c.state }

/-- A held descriptor read is answered (R212, R288). -/
def State.gotDesc (s : State) (ch addr : Nat) (g : Got) : State :=
  let c := s.chan ch
  if !c.fetching || !s.working ch || c.finish.isSome || c.slotAddr c.fetch != addr then s
  else (s.setChan ch { c with fetching := false }).descRead ch g

/-- The engine reads the next descriptor, at most eight ahead of HEAD, each one once (R279). -/
def execDescriptorFetch (ch : Nat) (s : State) : Result :=
  let c := s.chan ch
  let a := c.slotAddr c.fetch
  if !s.working ch || c.stalled || c.fetching || c.fetchErr.isSome || decide (8 ≤ c.fetched.length) || c.fetch == c.tail || c.finish.isSome then
    .next s
  else if c.dev then
    let r := (s.engineCount ch 0 64).chanAccess ch { who := .dma ch, fetch := true } a (.read 64)
    .next (if r.2.status == .held then r.1.onChan ch fun c => { c with fetching := true } else r.1.descRead ch r.2)
  else if !s.mayAskHost ch then .next s
  else .next ((s.engineCount ch 0 64).descRead ch (match s.hostRead c.func a 64 with
    | some l => { data := l }
    | none => { status := .busError }))

/-- A descriptor whose writes are all acknowledged or issued is written back (R281). -/
def execDescriptorWriteBack (ch : Nat) (s : State) : Result :=
  let c := s.chan ch
  match c.finish with
  | none => .next s
  | some (st, done) =>
    if c.parked != 0 || !c.retryAccess.isEmpty || c.remote != 0 || !s.mayRetire ch then .next s
    else if c.state == .halted then
      let r := s.retire ch st done
      .next (State.reported (r.1.onChan ch fun c => { c with fetch := c.head }, r.2) ch)
    else if st == .ok then .next ((State.reported (s.retire ch st done) ch).fetchFail ch)
    else .next (s.endDesc ch st done 0 false false)

/-- No progress for TIMEOUT_MS (R289, R471); a last write that still waits for its retry is none. -/
def execDescriptorTimeout (ch : Nat) (s : State) : Result :=
  let c := s.chan ch
  if !s.working ch || c.fetched.isEmpty || decide (s.time.dev < c.progressAt + c.timeoutMs * 100000) then .next s
  else .next (s.endDesc ch .timeout c.done 0 false false)

/-- A host request of the channel ended in an error completion, or a sluice refused its entry (R282, R287). -/
def execBusError (ch : Nat) (addr : U64) (isWrite attributable refused : Bool) (s : State) : Result :=
  .next (s.busFail ch (if refused then .refused else .busError) addr.toNat isWrite attributable)

/-- A device access of the channel's running descriptor failed (R287): only its own channel halts. -/
def execDeviceAccessError (ch code : Nat) (addr : U64) (isWrite : Bool) (s : State) : Result :=
  let st := Status.ofCode code
  if (s.desc ch).isNone || (s.chan ch).finish.isSome then .next s
  else if st == .bound || st == .domainOff || st == .channelBusy || st == .hwError then
    let a := addr.toNat
    let failed := match s.home a with
      | some (e, _) => (s.edgeCh e).state == .failed
      | none => !inScratch a
    .next (s.devFail ch st a isWrite (st == .hwError && !isWrite && !failed))
  else .next s

end Sys2Proof.Machine
end

