-- ==== Sys2Proof/Machine/Keccak.lean ====
section
/-! DEFINITION. SHAKE128 and SHAKE256 of FIPS 202, by which images, manifests and reports are digested and signed (R123, R451-R462).
PRESUMED: the permutation is that of the published standard, which the spec names and does not repeat (log 6). -/

namespace Sys2Proof.Machine

/-- One lane of the Keccak state. -/
abbrev Lane := BitVec 64

/-- The rotation offsets of step ρ, lane x + 5y. -/
def keccakRho : List Nat :=
  [0, 1, 62, 28, 27, 36, 44, 6, 55, 20, 3, 10, 43, 25, 39, 41, 45, 15, 21, 8, 18, 2, 61, 56, 14]

/-- The round constants of step ι. -/
def keccakRC : List Lane :=
  [0x0000000000000001, 0x0000000000008082, 0x800000000000808A, 0x8000000080008000, 0x000000000000808B,
   0x0000000080000001, 0x8000000080008081, 0x8000000000008009, 0x000000000000008A, 0x0000000000000088,
   0x0000000080008009, 0x000000008000000A] ++
  [0x000000008000808B, 0x800000000000008B, 0x8000000000008089, 0x8000000000008003, 0x8000000000008002,
   0x8000000000000080, 0x000000000000800A, 0x800000008000000A, 0x8000000080008081, 0x8000000000008080,
   0x0000000080000001, 0x8000000080008008]

/-- Lane i of a state. -/
def lane (a : List Lane) (i : Nat) : Lane := nth 0 a i

/-- One round: θ, ρ, π, χ and ι. -/
def keccakRound (a : List Lane) (rc : Lane) : List Lane :=
  let c := (List.range 5).map fun x =>
    lane a x ^^^ lane a (x + 5) ^^^ lane a (x + 10) ^^^ lane a (x + 15) ^^^ lane a (x + 20)
  let d := (List.range 5).map fun x => lane c ((x + 4) % 5) ^^^ (lane c ((x + 1) % 5)).rotateLeft 1
  -- lane (x, y) of the result of π comes from lane ((x + 3y) mod 5, x)
  let b := (List.range 25).map fun i =>
    let x := i % 5
    let y := i / 5
    let j := (x + 3 * y) % 5 + 5 * x
    (lane a j ^^^ lane d (j % 5)).rotateLeft (nth 0 keccakRho j)
  (List.range 25).map fun i =>
    let x := i % 5
    let y := 5 * (i / 5)
    let v := lane b i ^^^ (~~~(lane b ((x + 1) % 5 + y)) &&& lane b ((x + 2) % 5 + y))
    if i == 0 then v ^^^ rc else v

/-- The permutation Keccak-f[1600]. -/
def keccakF (a : List Lane) : List Lane := keccakRC.foldl keccakRound a

/-- A block of `rate` bytes as 25 lanes. -/
def keccakLanes (rate : Nat) (block : List Byte) : List Lane :=
  (List.range 25).map fun i => BitVec.ofNat 64 (if 8 * i < rate then fieldAt block (8 * i) 8 else 0)

/-- Absorbing one block. -/
def keccakAbsorb (rate : Nat) (a : List Lane) (block : List Byte) : List Lane :=
  keccakF (List.zipWith (· ^^^ ·) a (keccakLanes rate block))

/-- The message padded to whole blocks: suffix 0x1F, last bit set. -/
def shakePad (rate : Nat) (m : List Byte) : List Byte :=
  let z := rate - 1 - m.length % rate
  if z == 0 then m ++ [0x9F] else m ++ [0x1F] ++ zeros (z - 1) ++ [0x80]

/-- The first `rate` bytes of a state. -/
def keccakOut (rate : Nat) (a : List Lane) : List Byte := ((a.map fun l => leBytes 8 l.toNat).flatten).take rate

/-- `k` further blocks of output. -/
def keccakSqueeze (rate : Nat) : Nat → List Lane → List Byte
  | 0, _ => []
  | k + 1, a =>
    let a := keccakF a
    keccakOut rate a ++ keccakSqueeze rate k a

/-- The first `n` bytes of the SHAKE function of a rate. -/
def shake (rate n : Nat) (m : List Byte) : List Byte :=
  let a := (chunks rate (shakePad rate m)).foldl (keccakAbsorb rate) (List.replicate 25 0)
  (keccakOut rate a ++ keccakSqueeze rate ((n - 1) / rate) a).take n

/-- The first `n` bytes of SHAKE128. -/
def shake128 (n : Nat) (m : List Byte) : List Byte := shake 168 n m

/-- The first `n` bytes of SHAKE256. -/
def shake256 (n : Nat) (m : List Byte) : List Byte := shake 136 n m

/-- The 256-bit digest (R123). -/
def digest (m : List Byte) : List Byte := shake256 32 m

end Sys2Proof.Machine
end

