-- ==== Sys2Proof/Machine/Image.lean ====
section
/-! DEFINITION. The schedule image: its layout, the checks of SCHEDULE_LOAD, and the broadcast of its placements
(R123-R134, R265, R424). -/

namespace Sys2Proof.Machine

/-! ### Layout (R123, R124) -/

def imgMagic : Nat := 0x48435351
def imgSections (l : List Byte) : Nat := fieldAt l 6 2
def imgLen (l : List Byte) : Nat := fieldAt l 8 4
def imgLevel (l : List Byte) : Nat := fieldAt l 0x0C 1
def imgOpts (l : List Byte) : ArithOpt := { infKeep := bit (fieldAt l 0x18 4) 0, ftz8 := bit (fieldAt l 0x18 4) 1 }
def imgId (l : List Byte) : List Byte := (l.drop 0x20).take 16

/-- A directory entry: type, reserved field, COUNT, OFFSET, LENGTH. -/
structure Section where
  type : Nat
  spare : Nat
  count : Nat
  off : Nat
  len : Nat
deriving DecidableEq, Repr

/-- The directory, of at most 16 entries. -/
def imgDir (l : List Byte) : List Section :=
  (List.range (min (imgSections l) 16)).map fun i =>
    let o := 0x80 + 16 * i
    ⟨fieldAt l o 2, fieldAt l (o + 2) 2, fieldAt l (o + 4) 4, fieldAt l (o + 8) 4, fieldAt l (o + 12) 4⟩

/-- The first section of a type. -/
def imgSection (l : List Byte) (t : Nat) : Option Section := (imgDir l).find? fun d => d.type == t

/-- The records of `n` bytes of a section, after `pre` bytes; those that do not lie in the section are left out. -/
def records (l : List Byte) (d : Option Section) (pre n : Nat) : List (List Byte) :=
  match d with
  | none => []
  | some d => (chunks n ((l.drop (d.off + pre)).take (min (n * d.count) (d.len - pre)))).filter fun r => r.length == n

/-- A segment descriptor (R128). -/
structure Seg where
  kind : Nat
  flags : Nat
  spare : Nat
  len : Nat
  off : Nat
  dest : Nat
deriving DecidableEq, Repr

def imgSegs (l : List Byte) : List Seg :=
  (records l (imgSection l 4) 0 16).map fun r =>
    ⟨fieldAt r 0 1, fieldAt r 1 1, fieldAt r 2 2, fieldAt r 4 4, fieldAt r 8 4, fieldAt r 12 4⟩

def Seg.body (g : Seg) (l : List Byte) : List Byte := (l.drop g.off).take g.len

/-- A placement record (R129). -/
structure Placement where
  seg : Nat
  core : Nat
  stepU : Nat
  stepV : Nat
  spare : Nat
  u0 : Nat
  v0 : Nat
  u1 : Nat
  v1 : Nat
deriving DecidableEq, Repr

def imgPlaces (l : List Byte) : List Placement :=
  (records l (imgSection l 5) 0 16).map fun r =>
    ⟨fieldAt r 0 4, fieldAt r 4 1, fieldAt r 5 1, fieldAt r 6 1, fieldAt r 7 1, fieldAt r 8 2, fieldAt r 10 2,
      fieldAt r 12 2, fieldAt r 14 2⟩

/-- The target clusters of a record, by polder-local coordinates (R129). -/
def Placement.targets (x : Placement) : List (Nat × Nat) :=
  if x.stepU == 0 || x.stepV == 0 then []
  else (List.range ((x.v1 - x.v0) / x.stepV + 1)).flatMap fun b =>
    (List.range ((x.u1 - x.u0) / x.stepU + 1)).map fun a => (x.u0 + a * x.stepU, x.v0 + b * x.stepV)

/-- The random-stream map of an image (R133, R265). -/
def imgMaps (l : List Byte) : List RandEntry :=
  (records l (imgSection l 3) 0 24).map fun r =>
    ⟨BitVec.ofNat 64 (fieldAt r 0 8), BitVec.ofNat 32 (fieldAt r 8 4), BitVec.ofNat 64 (fieldAt r 16 8)⟩

/-- The energy profile (R132): STEP_MASK, and record s: DURATION_NS, ENERGY_UJ, PEAK_W. -/
def imgStepMask (l : List Byte) : Nat := fieldAt l ((imgSection l 2).elim 0 Section.off) 2
def imgProfile (l : List Byte) (s : Nat) : Nat × Nat × Nat :=
  let r := nth [] (records l (imgSection l 2) 16 32) s
  (fieldAt r 0 8, fieldAt r 8 8, fieldAt r 16 4)

/-- The SHAPE record. -/
def imgShape (l : List Byte) : List Byte := nth [] (records l (imgSection l 1) 0 16) 0
def imgWidthBase (l : List Byte) : Nat := fieldAt (imgShape l) 10 1
def imgWidthOpt (l : List Byte) : Nat := fieldAt (imgShape l) 11 1

/-! ### The polder an image is loaded into -/

/-- The package's feature level: the lowest its compute and base dies allow (R424, R493). -/
def State.level (s : State) : Nat := if s.fuses.cdMin < 0xB0 || s.fuses.bdMin < 0xB0 then 1 else 2

/-- Crossings inside a polder: lower die, higher die, optical (file 06, Crossings). -/
def Polder.crossings (p : Polder) : List (Nat × Nat × Bool) :=
  if p.state == .none then [] else
    let dies := (List.range 6).filter fun k => decide (p.c0 ≤ 2 * k + 1) && decide (2 * k < p.c0 + p.w)
    let rows := (List.range 2).filter fun r => decide (p.r0 ≤ r) && decide (r < p.r0 + p.h)
    (rows.flatMap fun r => (dies.filter fun k => dies.contains (k + 1)).map fun k => (6 * r + k, 6 * r + k + 1, k == 2))
      ++ (if p.h == 2 then dies.map fun k => (k, k + 6, true) else [])

/-- Agreed width of a crossing; 0 untrained (R174). -/
def Polder.width (p : Polder) (a b : Nat) : Nat := Sparse.get 0 p.widths (a * 16 + b)

/-- No crossing of the polder has agreed less than an image assumes (R125, R175). -/
def Polder.wideEnough (p : Polder) (img : List Byte) : Bool :=
  p.crossings.all fun x => decide ((if x.2.2 then imgWidthOpt img else imgWidthBase img) ≤ p.width x.1 x.2.1)

/-- Router ports of a cluster that carry scheduled words: bit 0 L, 1 N, 2 E, 3 S, 4 W (R135, R164). -/
def Polder.ports (p : Polder) (u v : Nat) : Nat :=
  1 + (if v == 0 then 0 else 2) + (if u + 1 == 24 * p.w then 0 else 4) + (if v + 1 == p.h * p.rows then 0 else 8)
    + (if u == 0 then 0 else 16)

/-! ### Checks at load (R134) -/

/-- Two sections, or a section and the header with its directory, overlap (R124). -/
def overlaps : List (Nat × Nat) → Bool
  | [] => false
  | (lo, hi) :: r => (r.any fun x => decide (x.1 < hi) && decide (lo < x.2)) || overlaps r

/-- Step 2 of R134: alignment and end of every section, in directory order; then overlap and segments.  A directory of
more than 16 entries, or one that reaches beyond IMAGE_LEN, is answered BOUND before its entries are looked at (DESIGN
CHOICE, log 52). -/
def imgBoundsCheck (l : List Byte) : Option Status :=
  let n := imgLen l
  let ds := imgDir l
  let segs := imgSegs l
  firstFail ([(decide (l.length < n), .bound), (n % 64 != 0, .align),
      (decide (16 < imgSections l) || decide (n < 0x80 + 16 * imgSections l), .bound)]
    ++ (ds.flatMap fun d => [(d.off % 64 != 0, Status.align), (decide (n < d.off + d.len), .bound)])
    ++ [(overlaps ((0, 0x80 + 16 * imgSections l) :: ds.map fun d => (d.off, d.off + d.len)), .bound),
      (ds.any fun d => d.type == 4 && decide (d.len < 16 * d.count), .bound)]
    ++ segs.flatMap fun g => [(g.off % 16 != 0, Status.align), (decide (n < g.off + g.len), .bound)])

/-- A reserved bit of a SHAPE_CLASS is set (R125). -/
def shapeReserved (v : Nat) : Bool := bits v 11 5 != 0 || bits v 38 26 != 0

/-- Form of the image: step 3. -/
def imgFormBad (l : List Byte) : Bool :=
  let ds := imgDir l
  let one (t : Nat) : Bool := (ds.countP fun d => d.type == t) == 1
  let sec (t : Nat) (ok : Section → Bool) : Bool := ds.all fun d => d.type != t || ok d
  fieldAt l 0 4 != imgMagic || fieldAt l 4 2 != 1
    || !(ds.all fun d => decide (1 ≤ d.type) && decide (d.type ≤ 5) && d.spare == 0)
    || !one 1 || !one 2 || !one 4 || !one 5 || decide (1 < ds.countP fun d => d.type == 3)
    || fieldAt l 0x0E 2 != 0 || shapeReserved (fieldAt l 0x10 8) || bits (fieldAt l 0x18 4) 2 30 != 0 || fieldAt l 0x30 16 != 0 || fieldAt l 0x60 32 != 0
    || !sec 1 (fun d => d.count == 1 && d.len == 16) || !sec 2 (fun d => d.count == 16 && d.len == 528)
    || !sec 3 (fun d => d.len == 24 * d.count) || !sec 5 (fun d => d.len == 16 * d.count)
    || fieldAt (imgShape l) 12 4 != 0 || shapeReserved (fieldAt (imgShape l) 0 8)
    || fieldAt l ((imgSection l 2).elim 0 Section.off + 2) 14 != 0
    || ((List.range 16).any fun s => bit (imgStepMask l) s
        && fieldAt (nth [] (records l (imgSection l 2) 16 32) s) 20 12 != 0)
    || ((records l (imgSection l 3) 0 24).any fun r => fieldAt r 12 4 != 0)
    || ((imgSegs l).any fun g => g.spare != 0 || decide (1 < g.flags) || decide (g.kind < 1) || decide (6 < g.kind))
    || (imgPlaces l).any fun x => x.spare != 0

/-- The image's digest is right (R123). -/
def imgDigestOk (l : List Byte) : Bool :=
  shake256 32 ((patch l 0x40 (zeros 32)).take (imgLen l)) == (l.drop 0x40).take 32

/-- Multiples that a segment kind requires of DEST and LENGTH, and the limit of its end in bytes or, for ROUTE,
entries (R128).  A ROUTE body is whole entries of 16 B: any other LENGTH is answered ALIGN (DESIGN CHOICE, log 52). -/
def segRules (kind : Nat) : Nat × Nat × Nat :=
  match kind with
  | 1 => (4, 4, 8192)
  | 2 => (1, 1, 4096)
  | 3 => (16, 16, 4096)
  | 4 => (16, 16, 4096)
  | 5 => (1, 16, 4096)
  | _ => (32, 32, sliceBytes)

def Seg.span (g : Seg) : Nat := if g.kind == 5 then g.len / 16 else g.len

/-- A placement names a core its segment's kind allows (R129). -/
def coreAllowed (kind core : Nat) : Bool :=
  match kind with
  | 5 => core == 0xFF
  | 6 => decide (core ≤ 63)
  | _ => decide (60 ≤ core) && decide (core ≤ 63)

/-- Templates of a segment, 16 B each, as numbers. -/
def Seg.words (g : Seg) (l : List Byte) : List Nat := (chunks 16 (g.body l)).map leNat

/-- Step 6: BAD_LENGTH, then ALIGN, then BOUND. -/
def imgPlaceCheck (l : List Byte) : Option Status :=
  let segs := imgSegs l
  let places := imgPlaces l
  let maps := (imgMaps l).length
  let shape := fieldAt l 0x10 8
  let umax := 24 * bits shape 0 4
  let vmax := bits shape 6 5 * bits shape 4 2
  firstFail [
    ((segs.any fun g => g.len == 0) || (places.any fun x => x.stepU == 0 || x.stepV == 0), .badLength),
    (segs.any fun g => g.dest % (segRules g.kind).1 != 0 || g.len % (segRules g.kind).2.1 != 0, .align),
    ((segs.any fun g => decide ((segRules g.kind).2.2 < g.dest + g.span)) || decide (256 < maps)
      || (places.any fun x => match segs[x.seg]? with
          | none => true
          | some g => !coreAllowed g.kind x.core || decide (x.u1 < x.u0) || decide (x.v1 < x.v0) || decide (umax ≤ x.u1)
            || decide (vmax ≤ x.v1))
      || (segs.any fun g => g.kind == 4 && bit g.flags 0
          && (g.words l).any fun w => vDraws w && decide (maps ≤ vStream w)), .bound)]

/-- The first status of a list of checks that may fail. -/
def firstSome {α : Type} (f : α → Option Status) : List α → Option Status
  | [] => none
  | x :: r => match f x with
    | some st => some st
    | none => firstSome f r

/-- Step 7: checked templates by R82 and R106, slot-table entries by R140, in segment order. -/
def imgTemplateCheck (p : Polder) (l : List Byte) : Option Status :=
  let places := imgPlaces l
  let segs := imgSegs l
  firstSome (fun i => match segs[i]? with
    | none => none
    | some g =>
      let ws := g.words l
      if g.kind == 3 && bit g.flags 0 then firstSome (fun w => tcoreCheck (imgLevel l) w) ws
      else if g.kind == 4 && bit g.flags 0 then firstSome (fun w => vcoreCheck (imgMaps l).length w) ws
      else if g.kind == 5 then
        match firstSome (entryCheck 31) ws with
        | some st => some st
        | none => firstSome (fun (x : Placement) => if x.seg == i then
            firstSome (fun t => firstSome (entryCheck (p.ports t.1 t.2)) ws) x.targets else none) places
      else none) (List.range segs.length)

/-- The checks of R134 on an image for a polder, in their order. -/
def State.imageCheck (s : State) (p : Polder) (l : List Byte) : Option Status :=
  let wb := imgWidthBase l
  let wo := imgWidthOpt l
  let steps := (List.range 16).filter (bit (imgStepMask l))
  if imgLen l == 0 || imgSections l == 0 || (imgDir l).any (fun d => d.len == 0 || d.count == 0) then some .badLength
  else match imgBoundsCheck l with
  | some st => some st
  | none =>
    if imgFormBad l then some .formatUnsupported
    else if !imgDigestOk l then some .authFail
    else match firstFail [
        (wb == 0 || wo == 0, .badLength), (decide (4 < wb) || decide (4 < wo), .bound),
        (imgLevel l == 0 || decide (s.level < imgLevel l) || fieldAt l 0x0D 1 != 8 || fieldAt l 0x10 8 != p.shape
          || fieldAt (imgShape l) 0 8 != p.shape || fieldAt (imgShape l) 8 1 != 6 || fieldAt (imgShape l) 9 1 != 40
          || !p.wideEnough l, .shapeMismatch)] with
      | some st => some st
      | none => match imgPlaceCheck l with
        | some st => some st
        | none => match imgTemplateCheck p l with
          | some st => some st
          | none =>
            if imgStepMask l == 0 || (steps.any fun i =>
                let r := imgProfile l i
                r.1 == 0 || r.2.1 == 0 || r.2.2 == 0) then some .badLength else none

/-! ### The broadcast (R130) -/

/-- Entries of a slot table from bytes. -/
def entriesOf (b : List Byte) : List U128 := (chunks 16 b).map fun x => BitVec.ofNat 128 (leNat x)

/-- Whole words written to a core's slice from a byte offset. -/
def State.sliceFill (s : State) (core off : Nat) (b : List Byte) : State :=
  (s.each ((chunks 32 b).zip (List.range (b.length / 32))) fun s x =>
    (s.mergeRetire core (off / 32 + x.2) []).ucmWrite core (off / 32 + x.2) x.1)

/-- One record applied to one target cluster. -/
def State.place (s : State) (cl : Nat) (g : Seg) (core : Nat) (b : List Byte) : State :=
  match g.kind with
  | 1 => s.onScore (cl * 64 + core) fun x => { x with imem := x.imem.write g.dest b }
  | 5 => s.onCluster cl fun c => { c with table := Sparse.setRange idleEntry c.table g.dest (entriesOf b) }
  | 6 => if s.ucmOff (dieOf cl) then s else s.sliceFill (cl * 64 + core) g.dest b
  | _ => s.onScore (cl * 64 + core) fun x => { x with dmem := x.dmem.write g.dest b }

/-- Every record of the image in record order; what no record writes of instruction SRAM, data SRAM and slot tables
reads as zero or idle (R121, R130). -/
def State.broadcast (s : State) (p : Nat) (l : List Byte) (slices : Bool) : State :=
  let x := s.polder p
  let s := { s with
    scores := Sparse.drop (fun c => x.holds? (halfOf (clusterOf c))) s.scores
    clusters := Sparse.mapWhere {} (fun cl => x.holds? (halfOf cl)) (fun c => { c with table := [] }) s.clusters
    halfDies := Sparse.mapWhere {} x.holds? (fun h => { h with placed := h.junk }) s.halfDies }
  s.each (imgPlaces l) fun s pl => match (imgSegs l)[pl.seg]? with
    | none => s
    | some g =>
      if g.kind == 6 && !slices then s
      else s.each pl.targets fun s t => s.place (x.clusterAt t.1 t.2) g pl.core (g.body l)

/-- The S-core receives code: it starts at slot 0 (R122). -/
def hasCode (p : Polder) (cl core : Nat) : Bool :=
  let t := p.coord cl
  (imgPlaces p.image).any fun x => x.core == core % 64 && (match (imgSegs p.image)[x.seg]? with
      | some g => g.kind == 1
      | none => false) && x.targets.contains t

/-! ### The rows -/

/-- A floodgate of the polder is in progress (R317). -/
def State.gated (s : State) (n : Nat) : Bool := !s.gates.isEmpty || !(s.polder n).gates.isEmpty

/-- What stops a command on a polder: no such polder (R334), COOLANT_HOLD (R384), a floodgate or another command of it in
progress (R317, R332), or the HALTED state (R162).  `keeps` names the commands HALTED accepts. -/
def State.polderFail (s : State) (n : Nat) (keeps : Bool) : Option Status :=
  let p := s.polder n
  firstFail [
    (decide (24 ≤ n) || p.state == .none, .bound),
    (s.thermal.coolantHold || s.gated n || p.command.isSome || (match p.job with
      | some j => j.phase == .waiting
      | none => false), .busy),
    (p.state == .halted && !keeps, .busy)]

/-- A job that has not reached slot 0. -/
def Polder.pending (p : Polder) : Bool :=
  match p.job with
  | some j => j.phase != .running
  | none => false

/-- SCHEDULE_LOAD (R131, R134). -/
def execScheduleLoad (f : Nat) (s : State) : Result :=
  .next (s.command f 0x20 fun s c =>
    let n := c.a 1
    let p := s.polder n
    match s.polderFail n false with
    | some st => s.refuse c st
    | none =>
      if p.state == .running || p.state == .resetting || p.pending then s.refuse c .busy
      else match s.imageCheck p c.body with
        | some st => s.refuse c st
        | none =>
          let img := c.body.take (imgLen c.body)
          let s := s.onPolder n fun p => { p with state := .loaded, image := img }
          (s.broadcast n img true).answer c
            { polder := n, r0 := fieldAt img 0x20 8, r1 := fieldAt img 0x28 8 })

/-- SCHEDULE_UNLOAD (R335). -/
def execScheduleUnload (f : Nat) (s : State) : Result :=
  .next (s.command f 0x21 fun s c =>
    let n := c.a 1
    let p := s.polder n
    match s.polderFail n false with
    | some st => s.refuse c st
    | none =>
      if p.state == .running || p.state == .resetting || p.pending then s.refuse c .busy
      else if p.state == .empty then s.refuse c .denied
      else (s.onPolder n fun p => { p with state := .empty, image := [] }).answer c { polder := n })

end Sys2Proof.Machine
end

