-- ==== Sys2Proof/Machine/Polders.lean ====
section
/-! DEFINITION. Polders: creation, destruction and reset, the training of their crossings, and the dikes around them
(R158-R164, R172-R175). -/

namespace Sys2Proof.Machine

/-- Two sides agree the smaller of the widths they offer (R149). -/
def offerWidth (o : Offer) : Nat := min 4 (min o.sideA o.sideB)

/-- The width a crossing agrees; as the last bring-up recorded it, where the command names no offer (R149, R413). -/
def agreed (recorded : Sparse Nat) (offers : List Offer) (a b : Nat) : Nat :=
  match offers.find? fun o => o.dieA == a && o.dieB == b with
  | some o => offerWidth o
  | none => Sparse.get 4 recorded (a * 16 + b)

/-- The scheduled part of every crossing of a polder trains; a width below full raises NARROW and its event (R174,
R175). -/
def State.trainCrossings (s : State) (n : Nat) (offers : List Offer) : State :=
  let known := s.repair.store.widths
  let s := s.onPolder n fun p => { p with
    widths := p.crossings.foldl (fun m x => Sparse.set 0 m (x.1 * 16 + x.2.1) (agreed known offers x.1 x.2.1)) []
    retrain := false }
  let cs := (s.polder n).crossings
  let s := s.each cs fun s x =>
    let q := agreed known offers x.1 x.2.1
    if q < 4 then
      { s with narrowed := Sparse.set false s.narrowed (x.1 * 16 + x.2.1) true }.event n (x.1 + x.2.1 * 2 ^ 8) q 0x01
    else s
  s.onPolder n fun p => { p with
    narrow := cs.any fun x => Sparse.get false s.narrowed (x.1 * 16 + x.2.1) }

/-- The dike masks on the border of a rectangle of half-dies (R164). -/
def State.setDikes (s : State) (p : Polder) : State :=
  s.each p.halfDies fun s h => s.onHalfDie h fun x => { x with
    dikeN := h / 12 == p.r0
    dikeS := h / 12 + 1 == p.r0 + p.h
    dikeW := h % 12 == p.c0
    dikeE := h % 12 + 1 == p.c0 + p.w }

/-- The dike masks of a polder's rectangle cleared; its half-dies are IDLE unless they are off, and go on from the phase
and step of the polder (R162, R500). -/
def State.clearDikes (s : State) (p : Polder) : State :=
  s.each p.halfDies fun s h => s.onHalfDie h fun x => { x with
    dikeN := false, dikeE := false, dikeS := false, dikeW := false
    tide := p.tide, tidePart := p.tidePart, markDue := p.markDue, step := p.step
    power := if x.power == .active then .idle else x.power }

/-- A polder whose lowest half-die has been OFF counts again from 0 at step 0 (R500). -/
def Polder.restartTide (p : Polder) : Polder := { p with tide := 0, tidePart := 0, markDue := false, step := 0 }

/-- A half-die that was OFF or in NAP reaches IDLE; OFF restarts the tide counter (R390, R500); the die's UCM leaves
self-refresh (R497). -/
def State.reachIdle (s : State) (h : Nat) : State :=
  let s := s.onUcmDie (h / 2) fun x => { x with selfRefresh := false }
  let n := s.polderOf h
  let s := if (s.halfDie h).power == .off && n != 31 && (s.polder n).halfDies.head? == some h then
    s.onPolder n Polder.restartTide else s
  s.onHalfDie h fun x =>
    if x.power == .off then { x with power := .idle, tide := 0, tidePart := 0, markDue := false, step := 0 }
    else { x with power := .idle }

/-- Half-dies are brought to IDLE: one in NAP at once; one that is OFF has its rail requested and follows when AVSBus
acknowledges (R390, R397). -/
def State.wakeHalfDies (s : State) (hs : List Nat) : State :=
  s.each hs fun s h => match (s.halfDie h).power with
    | .nap => s.reachIdle h
    | .off => s.askRails [h] { up := true }
    | _ => s

/-- Every half-die of a polder has its rail (R390). -/
def State.powered (s : State) (p : Polder) : Bool := p.halfDies.all fun h => (s.halfDie h).power != .off

/-- A unit inside the polder was fenced after test (R163, R422). -/
def State.hasFence (s : State) (p : Polder) : Bool :=
  (p.halfDies.any fun h => (s.halfDie h).fenced)
    || s.clusters.any fun e => e.2.fenced && p.holds? (halfOf e.1)

/-- POLDER_CREATE up to the wait for the tide mark (R161). -/
def execPolderCreate (f : Nat) (offers : List Offer) (s : State) : Result :=
  .next (s.command f 0x10 fun s c =>
    let a := c.a 1
    let p : Polder := { state := .empty, c0 := bits a 0 4, r0 := bits a 4 1, w := bits a 8 4, h := bits a 12 2 }
    let hs := p.halfDies
    let rows := (hs.map fun h => (s.halfDie h).rows).foldl min 28
    match firstFail [
        (p.w == 0 || p.h == 0, .badLength),
        (decide (12 < p.c0 + p.w) || decide (2 < p.r0 + p.h), .bound),
        ((hs.any fun h => s.polderOf h != 31 || s.dieShut h) || s.thermal.coolantHold, .busy),
        (rows == 0, .degraded), (s.power.pkg == .p2, .domainOff)] with
    | some st => s.refuse c st
    | none =>
      let n := ((List.range 24).find? fun i => (s.polder i).state == .none).getD 0
      let p := { p with rows := rows, command := some ⟨f, c.tag, c.opc, c.notify, 0, 0, false, false⟩ }
      -- the polder's counter is that of its lowest half-die, which runs on at its step until the mark (R161, R500)
      let low := s.halfDie (hs.headD 0)
      let p := { p with fenced := s.hasFence p }
      let p := if low.power == .off then p else { p with
        tide := low.tide, tidePart := low.tidePart, markDue := low.markDue, step := low.step, nextStep := some 0 }
      let s := { s.setPolder n p with ledger := { s.ledger with meters := Sparse.set {} s.ledger.meters (mPolder n) {} } }
      (((s.wakeHalfDies hs).setDikes p).trainCrossings n offers).boardOrder n 4)

/-- The tide mark that POLDER_CREATE waits for (R161 steps 5 and 6). -/
def execPolderCreateComplete (p : Nat) (s : State) : Result :=
  let x := s.polder p
  match x.command with
  | none => .next s
  | some c =>
    if c.opc != 0x10 || x.state != .empty || !x.atMark || !s.powered x then .next s
    else
      let s := s.onPolder p fun x => { x with command := none }
      .next (s.complete c.func c.tag c.opc c.notify { polder := p, r0 := (s.polder p).shape, r1 := p })

/-- POLDER_DESTROY (R162, R302, R353).  A job that is admitted and has not reached slot 0 never starts and ends with ABORTED
(DEDUCED from R317, log 55). -/
def execPolderDestroy (f : Nat) (s : State) : Result :=
  .next (s.command f 0x11 fun s c =>
    let n := c.a 1
    let p := s.polder n
    match s.polderFail n true with
    | some st => s.refuse c st
    | none =>
      if p.state == .running then s.refuse c .busy
      else
        let s := (((s.finishJob n .aborted 0).boardOrder n 5).closeSluices n).clearDikes p
        let s := { s.setPolder n {} with
          vfMap := Sparse.drop (fun v => Sparse.get 31 s.vfMap v == n) s.vfMap
          ledger := { s.ledger with quotas := Sparse.set 0 s.ledger.quotas n 0 } }
        s.answer c { polder := n })

/-- The arithmetic domains of a polder's half-dies reset: cores, routers, slot tables, staging, hold tree (R172). -/
def State.resetArithmetic (s : State) (n : Nat) : State :=
  let p := s.polder n
  let mine (cl : Nat) : Bool := p.holds? (halfOf cl)
  { s with
    tcores := Sparse.drop (fun c => mine (clusterOf c)) s.tcores
    vcores := Sparse.drop (fun c => mine (clusterOf c)) s.vcores
    scores := Sparse.drop (fun c => mine (clusterOf c)) s.scores
    halfDies := Sparse.mapWhere {} p.holds? (fun h => { h with junkRegs := false, junkFlags := false, placed := h.junk }) s.halfDies
    clusters := Sparse.mapWhere {} mine (fun c =>
      { c.discard with table := [], rand := [], page := 0, entry := 0, since := 0, inForce := idleEntry, lastNote := [] })
      s.clusters }

/-- POLDER_RESET up to the wait for the tide mark (R172): a running job ends through the floodgate sequence; one that is
admitted and has not reached slot 0 never starts and ends with ABORTED, and the sluices close (DEDUCED from R317, log 55). -/
def execPolderReset (f : Nat) (offers : List Offer) (s : State) : Result :=
  .next (s.command f 0x12 fun s c =>
    let n := c.a 1
    match s.polderFail n true with
    | some st => s.refuse c st
    | none =>
      if (s.polder n).halfDies.any s.dieShut then s.refuse c .busy
      else
        let s := if (s.polder n).state == .running then (s.gatePolder n).1
          else (s.finishJob n .aborted 0).closeSluices n
        let s := s.onPolder n fun p => { p with
          state := .resetting, holds := [], gates := [],
          command := some ⟨f, c.tag, c.opc, c.notify, 0, 0, false, false⟩ }
        (((s.wakeHalfDies (s.polder n).halfDies).resetArithmetic n).trainCrossings n offers).boardOrder n 6)

/-- The tide mark that POLDER_RESET waits for (R172 steps 4 and 5). -/
def execPolderResetComplete (p : Nat) (s : State) : Result :=
  let x := s.polder p
  match x.command with
  | none => .next s
  | some c =>
    if c.opc != 0x12 || x.state != .resetting || !x.atMark || !s.powered x then .next s
    else
      let s := s.onPolder p fun x => { x with
        command := none, tide := 0, tidePart := 0, state := if x.image.isEmpty then .empty else .loaded }
      .next (s.complete c.func c.tag c.opc c.notify { polder := p, r1 := s.stateWord p })

/-- GET_STATUS (R334, R336): a VF sees its own polder only.  A polder whose floodgate is in progress gives BUSY (R317). -/
def execGetStatus (f : Nat) (s : State) : Result :=
  .next (s.command f 0x02 fun s c =>
    let n := c.a 1
    let sees (i : Nat) : Bool := f == 0 || s.vfPolder f == i
    if 24 ≤ n then s.refuse c .bound
    else if sees n && (s.polder n).exists_ && s.gated n then s.refuse c .busy
    else
      let shape (i : Nat) : Nat := if sees i then (s.polder i).shape else 0
      let word (i : Nat) : Nat := if sees i then s.stateWord i else 0
      let state := match s.power.pkg with
        | .p0 => 0
        | .p1 => 1
        | .p2 => 2
        | .p3 => 3
      let record (i : Nat) : List Byte :=
        leBytes 8 (shape i) ++ leBytes 4 (word i) ++ zeros 4
          ++ (if sees i then ((imgId (s.polder i).image) ++ zeros 8).take 8 else zeros 8) ++ zeros 8
      s.output c (leBytes 1 state ++ leBytes 1 s.level ++ zeros 62 ++ (List.range 24).flatMap record)
        { polder := n, r0 := shape n, r1 := word n })

end Sys2Proof.Machine
end

