-- ==== Sys2Proof/Machine/Planner.lean ====
section
/-! DEFINITION. The planner: effective cap, commitments, admission, the lowering and raising of running jobs, and the
voltage requests a raise waits for (R17, R18, R354-R361, R397). -/

namespace Sys2Proof.Machine

/-- The highest clock step of the grade (R132, R357). -/
def State.topStep (s : State) : Nat := if s.fuses.grade == 1 then 16 else 15

/-- Predicted draw of an image at a step, W (R357). -/
def drawOf (img : List Byte) (st : Nat) : Nat :=
  if st == 16 then let r := imgProfile img 15; ceilDiv (1200 * r.2.1) r.1
  else let r := imgProfile img st; ceilDiv (1000 * r.2.1) r.1

/-- PEAK_W of an image at a step (R357). -/
def peakOf (img : List Byte) (st : Nat) : Nat :=
  if st == 16 then ceilDiv (12 * (imgProfile img 15).2.2) 10 else (imgProfile img st).2.2

/-- The steps of an image, ascending: STEP_MASK, and step 16 with bit 15 on a P-grade part (R357). -/
def State.maskSteps (s : State) (img : List Byte) : List Nat :=
  (List.range 17).filter fun st => if st == 16 then s.fuses.grade == 1 && bit (imgStepMask img) 15 else bit (imgStepMask img) st

/-- The steps the planner may choose for an image: those inside the STEPS bounds (R359, R366). -/
def State.stepsOf (s : State) (img : List Byte) : List Nat :=
  let b := s.ledger.stepBounds
  (s.maskSteps img).filter fun st => decide (b.lo ≤ (st : Int)) && decide ((st : Int) ≤ b.hi)

/-- The steps a job may be lowered to: the supply cap is a protective action and overrides STEPS (R367). -/
def State.lowSteps (s : State) (img : List Byte) : List Nat :=
  if s.ledger.source == 2 then s.maskSteps img else s.stepsOf img

/-- Current step of a polder's job: what the planner chose, less what the peak limiter and the quota take off (R358,
R363, R364). -/
def Polder.stepOf (p : Polder) (j : Job) : Nat := j.step - (p.peakDown + p.quotaDown)

/-- The step whose profile stands for a step: records of steps outside STEP_MASK are ignored (R132), so a step between
them, which only the limiter, the quota or the overdraw loop reaches, is taken as the next one above (DESIGN CHOICE, log 58). -/
def State.profileStep (s : State) (img : List Byte) (st : Nat) : Nat := ((s.maskSteps img).find? fun x => decide (st ≤ x)).getD st

/-- The polders that have a job, with it. -/
def State.jobs (s : State) : List (Nat × Job) :=
  (List.range 24).filterMap fun n => (s.polder n).job.map fun j => (n, j)

/-- Committed draw of a job (R358): a waiting job commits nothing. -/
def State.jobDraw (s : State) (n : Nat) (j : Job) : Nat :=
  if j.phase == .waiting then 0
  else
    let p := s.polder n
    let d := drawOf p.image (s.profileStep p.image (p.stepOf j))
    if j.phase == .running && decide (10000000 ≤ s.time.dev - j.startAt) then max d (s.meter (mPolder n)).avg100 else d

def State.jobPeak (s : State) (n : Nat) (j : Job) : Nat :=
  let p := s.polder n
  if j.phase == .waiting then 0 else peakOf p.image (s.profileStep p.image (p.stepOf j))

def State.committedSum (s : State) : Nat := sumOf (s.jobs.map fun x => s.jobDraw x.1 x.2)
def State.peakSum (s : State) : Nat := sumOf (s.jobs.map fun x => s.jobPeak x.1 x.2)

/-! ### The effective cap (R354) -/

/-- A cap by its code, as a fraction of watts: HOST, THERMAL, SUPPLY. -/
def Ledger.capOf (l : Ledger) (src : Nat) : Nat × Nat :=
  match src with
  | 0 => (l.cap, 1)
  | 1 => l.thermalCap
  | _ => (l.supplyCap, 1000)

/-- One fraction is no more than another. -/
def fracLe (a b : Nat × Nat) : Bool := decide (a.1 * b.2 ≤ b.1 * a.2)

/-- The code of the smallest cap, compared exactly; the lower code of equal ones. -/
def Ledger.smallest (l : Ledger) : Nat :=
  if fracLe (l.capOf 0) (l.capOf 1) && fracLe (l.capOf 0) (l.capOf 2) then 0
  else if fracLe (l.capOf 1) (l.capOf 2) then 1 else 2

/-- Recomputing the cap, while firmware runs: a change of source from one cap to another sends CAP_CHANGED.  The first computation needs a
thermal cap, which the first thermal update after a cold reset gives (DEDUCED, log 44). -/
def State.updateCap (s : State) : State :=
  let l := s.ledger
  if !l.capKnown || !s.trust.running then s else
  let src := l.smallest
  let eff := (l.capOf src).1 / (l.capOf src).2
  let s := { s with ledger := { l with effCap := eff, source := src } }
  let s := if src == 2 && l.source != 2 then s.countUp cSupplyCap else s
  if src != l.source && l.source != 3 then s.event 0xFFFF eff 0 0x0B else s

/-! ### Steps in force, and voltage (R361, R397) -/

/-- The step a polder is to run at: its job's, or the one it has. -/
def Polder.want (p : Polder) : Nat :=
  match p.job with
  | some j => p.stepOf j
  | none => p.step

/-- The step commanded for a polder: step 0 while the CDC of one of its dies restarts (R472). -/
def State.wantOf (s : State) (n : Nat) : Nat :=
  if (s.polder n).dies.any (Sparse.get false s.cdcDown) then 0 else (s.polder n).want

/-- Commanding the wanted step for the next tide mark: a raise first requests the higher voltage on every half-die rail
of the polder, a lowering does not wait (R397). -/
def State.restep (s : State) (n : Nat) : State :=
  let p := s.polder n
  let want := s.wantOf n
  if p.step < want then
    (s.onPolder n fun x => { x with rails := p.halfDies, nextStep := none }).askRails p.halfDies { up := true, raise := true }
  else s.onPolder n fun p => { p with rails := [], nextStep := if want == p.step then none else some want }

/-- The planner sets the step of a polder's job. -/
def State.setStep (s : State) (n st : Nat) : State :=
  (s.onPolder n fun p => { p with job := p.job.map fun j => { j with step := st } }).restep n

/-- FROZEN of one loop (R367). -/
def State.freeze (s : State) (loop : Nat) (on : Bool) : State :=
  { s with ledger := { s.ledger with
    frozen := if on then s.ledger.frozen ||| 2 ^ loop else s.ledger.frozen - (if bit s.ledger.frozen loop then 2 ^ loop else 0) } }

/-- FROZEN of SCRUB: the bounds are equal, or one held the period of a die or a stack at the end of its last pass (R194, R208,
R367). -/
def State.freezeScrub (s : State) : State :=
  s.freeze 3 (s.ledger.scrub.lo == s.ledger.scrub.hi || (s.ucmDies.any fun x => x.2.scrubHeld)
    || s.edgeStacks.any fun x => x.2.scrubHeld)

/-- Inserting into a list kept in ascending order of a key. -/
def insertBy {α : Type} (key : α → Nat) (x : α) : List α → List α
  | [] => [x]
  | y :: r => if key x < key y then x :: y :: r else y :: insertBy key x r
def sortBy {α : Type} (key : α → Nat) (l : List α) : List α := l.foldl (fun a x => insertBy key x a) []

/-- Jobs admitted and not waiting, oldest admitted first. -/
def State.admitted (s : State) : List (Nat × Job) :=
  sortBy (fun x => x.2.admitOrder) (s.jobs.filter fun x => x.2.phase != .waiting)

/-- lower_running (R361): the most recently admitted first, each to the highest step that clears the deficit, else to
its lowest permitted step. -/
def State.lowerRunning (deficit : Nat) : List (Nat × Job) → State → State
  | [], s => s
  | (n, j) :: r, s =>
    if deficit == 0 then s
    else
      let p := s.polder n
      let now := p.stepOf j
      let lower := (s.lowSteps p.image).filter fun st => decide (st < now)
      let saved (st : Nat) : Nat := drawOf p.image (s.profileStep p.image now) - drawOf p.image st
      let to_ (st : Nat) : State := s.setStep n (st + (j.step - now))
      match lower.reverse.find? fun st => decide (deficit ≤ saved st) with
      | some st => to_ st
      | none => match lower with
        | [] => State.lowerRunning deficit r s
        | st :: _ => State.lowerRunning (deficit - saved st) r (to_ st)

/-- raise_lowered (R361): the oldest admitted first, each to the highest step up to its admitted step that the freeboard
allows.  A job the overdraw lowered waits until the 100 ms average has stayed low (R362). -/
def State.raiseLowered : List (Nat × Job) → Nat → State → State × Nat
  | [], fb, s => (s, fb)
  | (n, j) :: r, fb, s =>
    let p := s.polder n
    let held := decide (0 < p.overDown) && !(s.ledger.overLow.any fun t => decide (10000000 ≤ s.time.dev - t))
    let up := (s.stepsOf p.image).filter fun st => decide (j.step < st) && decide (st ≤ j.admittedStep)
    -- what the limiter and the quota take off stays off
    let draw (st : Nat) : Nat := drawOf p.image (s.profileStep p.image (st - (p.peakDown + p.quotaDown)))
    let cost (st : Nat) : Nat := draw st - draw j.step
    if held then State.raiseLowered r fb s
    else match up.reverse.find? fun st => decide (cost st ≤ fb) with
      | some st =>
        let s := (s.setStep n st).onPolder n fun p => { p with overDown := if st == j.admittedStep then 0 else p.overDown }
        State.raiseLowered r (fb - cost st) s
      | none => State.raiseLowered r fb s

/-! ### Admission (R359, R360) -/

/-- A die of the polder is in band B0 or under cold hold: no job starts (R185, R380). -/
def State.b0Hold (s : State) (n : Nat) : Bool :=
  (s.polder n).halfDies.any fun h => (s.ucmDie (h / 2)).band == 0 || Sparse.get false s.thermal.cold (h / 2)

/-- An image's draw at a step fits `alloc`, and its peak fits PEAK. -/
def State.stepFits (s : State) (img : List Byte) (alloc st : Nat) : Bool :=
  decide (drawOf img st ≤ alloc) && decide (s.peakSum + peakOf img st ≤ s.ledger.peak)

/-- best_step: the highest permitted step that fits. -/
def State.bestStep (s : State) (n alloc : Nat) : Option Nat :=
  (s.stepsOf (s.polder n).image).reverse.find? (s.stepFits (s.polder n).image alloc)

/-- Waiting jobs in arrival order. -/
def State.waiting (s : State) : List (Nat × Job) :=
  sortBy (fun x => x.2.order) (s.jobs.filter fun x => x.2.phase == .waiting)

/-- Admitting a polder's job at a step (R338, R351, R359). -/
def State.admitJob (s : State) (n st : Nat) : State :=
  let a := s.ledger.nextAdmit
  let e := (s.meter (mPolder n)).total
  let s := { s with ledger := { s.ledger with nextAdmit := a + 1 } }
  ((s.onPolder n fun p => { p with job := p.job.map fun j => { j with
    phase := .admitted, admitOrder := a, admitAt := s.time.dev, energy0 := e, admittedStep := st, step := st } }).restep n).boardOrder n 7

/-- Draw a job may take: what is left, less the reserve of the job that is the oldest waiting now, once it has waited
10 ms (R360), and a tenth of a quota (R359). -/
def State.allocFor (s : State) (fb n : Nat) : Nat :=
  let reserve := match s.waiting.head? with
    | some (m, w) => if m == n || decide (s.time.dev - w.arrival < 1000000) then 0
        else (s.stepsOf (s.polder m).image).head?.elim 0 (drawOf (s.polder m).image)
    | none => 0
  let q := Sparse.get 0 s.ledger.quotas n
  if q == 0 then fb - reserve else min (fb - reserve) (q / 10)

/-- ADMIT_MS of a waiting job has run out (R18, R359). -/
def State.admitExpired (s : State) (j : Job) : Bool := decide (j.admitMs * 100000 ≤ s.time.dev - j.arrival)

/-- A waiting job that did not fit in time fails (R18). -/
def State.failWaiting (s : State) (n : Nat) : State := (s.countUp cNoEnergy).finishJob n .noEnergy 0

/-- Admission of the waiting jobs, in arrival order; one that does not fit and whose time is over fails (R359). -/
def State.admitWaiting : List (Nat × Job) → Nat → State → State
  | [], _, s => s
  | (n, j) :: r, fb, s =>
    if s.b0Hold n then State.admitWaiting r fb s
    else match s.bestStep n (s.allocFor fb n) with
      | some st => State.admitWaiting r (fb - drawOf (s.polder n).image st) (s.admitJob n st)
      | none => State.admitWaiting r fb (if s.admitExpired j then s.failWaiting n else s)

/-- Admission stops in the coolant-loss sequence and until an orderly shutdown has ended (R365, R384). -/
def State.admissionOff (s : State) : Bool :=
  s.thermal.coolantHold || s.thermal.shut.any (·.2) || s.edgeStacks.any fun k => k.2.shut

/-! ### Overdraw (R362) -/

/-- MODULE's 100 ms average against a percentage of the effective cap: exceeds it. -/
def State.drawAbove (s : State) (percent : Nat) : Bool :=
  decide (percent * s.ledger.effCap * 100000000000 < 100 * sumOf (s.meter mModule).mid)

/-- Since when the 100 ms average has been at least 3 % below the cap. -/
def State.noteLow (s : State) : State :=
  { s with ledger := { s.ledger with
    overLow := if s.drawAbove 97 then none else some (s.ledger.overLow.getD s.time.dev) } }

/-- The most recently admitted running job loses one step, at most once every 100 ms; at the STEPS bound it holds. -/
def State.overdraw (s : State) : State :=
  let due := match s.ledger.overAt with
    | some t => decide (10000000 ≤ s.time.dev - t)
    | none => true
  if !s.drawAbove 101 || s.ledger.freeboard < 0 || !due then s
  else match (s.admitted.filter fun x => x.2.phase == .running).getLast? with
    | none => s
    | some (n, j) =>
      if ((s.polder n).stepOf j : Int) ≤ max 0 s.ledger.stepBounds.lo then s.freeze 5 true
      else
        let s := (s.setStep n (j.step - 1)).onPolder n fun p => { p with overDown := p.overDown + 1 }
        { s with ledger := { s.ledger with overAt := some s.time.dev } }.countUp cOverdraw

/-- What the last computation left in the mirrors. -/
def State.noteFreeboard (s : State) : State :=
  let c := s.committedSum
  { s with ledger := { s.ledger with committed := c, freeboard := (s.ledger.effCap : Int) - (c : Int) } }

/-- A STEPS bound holds a job: one that is to be lowered has a lower step in its schedule, but none inside the bounds, and the
supply cap does not override them; or one that waits fits at steps outside alone (R367). -/
def State.stepsHold (s : State) : Bool :=
  let less (now st : Nat) : Bool := decide (st < now)
  (decide (s.ledger.effCap < s.committedSum) && s.admitted.any fun x =>
    let img := (s.polder x.1).image
    let now := (s.polder x.1).stepOf x.2
    (s.maskSteps img).any (less now) && !(s.lowSteps img).any (less now))
  || s.waiting.any fun x =>
    let img := (s.polder x.1).image
    let alloc := s.allocFor (s.ledger.effCap - s.committedSum) x.1
    (s.bestStep x.1 alloc).isNone && (s.maskSteps img).any (s.stepFits img alloc)

/-- Loop STEPS is frozen while its bounds are equal, while one holds a job that the planner would lower or admit, and while one
that may only lower, the overdraw or the quota loop, holds a running job at the lower bound (R367). -/
def State.freezeSteps (s : State) : State :=
  let b := s.ledger.stepBounds
  let held := bit s.ledger.frozen 5 && s.admitted.any fun x => decide (((s.polder x.1).stepOf x.2 : Int) ≤ max 0 b.lo)
  s.freeze 5 (b.lo == b.hi || held || s.stepsHold)

/-- One planner run (R359).  It does nothing while firmware does not run, and the sag sequence supersedes it (R356, R365). -/
def State.plan (s : State) : State :=
  if !s.trust.running || s.power.sagHold then s
  else
    let s := s.updateCap.noteLow
    let c := s.committedSum
    let s :=
      if s.ledger.effCap < c then State.lowerRunning (c - s.ledger.effCap) s.admitted.reverse s
      else
        let r := State.raiseLowered s.admitted (s.ledger.effCap - c) s
        if s.admissionOff then r.1 else State.admitWaiting r.1.waiting r.2 r.1
    s.freezeSteps.noteFreeboard

/-- PLANNER_RUN (R359, R362). -/
def execPlannerRun (s : State) : Result := .next (if s.trust.running then s.plan.overdraw else s)

/-- CAP_SET (R352): accepted values take effect at the planner run that follows at once. -/
def execCapSet (f : Nat) (s : State) : Result :=
  .next (s.command f 0x40 fun s c =>
    let cap := c.a 1
    let peak := c.a 2
    let i := c.a 3
    if cap < 1200 || 6000 < cap || peak < cap || 6000 < peak || i < 30 || 150 < i then s.refuse c .bound
    else
      -- the supply cap follows the declared current at once (R356)
      let s := { s with ledger := { s.ledger with
        cap := cap, peak := peak, current := i, supplyCap := s.power.vinMin * i } }
      let s := s.plan
      s.answer c { r0 := s.ledger.effCap })

/-- QUOTA_SET (R353), which acts on a polder (R162, R317, R332). -/
def execQuotaSet (f : Nat) (s : State) : Result :=
  .next (s.command f 0x41 fun s c =>
    let n := bits (c.a 1) 0 5
    let on := bit (c.a 1) 8
    let q := c.a 2
    match s.polderFail n false with
    | some st => s.refuse c st
    | none => match firstFail [
        (on && (q == 0 || decide (60000 < q)), .bound),
        (!on && q != 0, .formatUnsupported)] with
      | some st => s.refuse c st
      | none =>
        let s := { s with ledger := { s.ledger with quotas := Sparse.set 0 s.ledger.quotas n q } }
        s.answer c { polder := n })

/-- A rail of a raise is acknowledged: when every rail of it has been, the step is commanded for the next tide mark (R397). -/
def State.railRaised (s : State) (rail : Nat) : State :=
  s.each (List.range 24) fun s n =>
    if (s.polder n).rails.contains rail then
      let want := s.wantOf n
      s.onPolder n fun p =>
        let left := p.rails.filter (· != rail)
        { p with rails := left, nextStep := if left.isEmpty then some want else p.nextStep }
    else s

/-- The request that a rail has outstanding is over: the one queued behind it is sent (R397). -/
def Rail.sendNext (x : Rail) : Rail := { x with sent := x.queued, queued := none }

/-- A rail's voltage request is acknowledged (R397): a half-die that was OFF reaches IDLE (R390), an AVS offset is in force
(R398), and a raise that waits for this request, not for one queued behind it, has its rail. -/
def execAvsbusAck (rail : Nat) (s : State) : Result :=
  match (s.rail rail).sent with
  | none => .next s
  | some r =>
    let newer := (s.rail rail).queued.any (·.raise)
    let s := s.onRail rail Rail.sendNext
    let s := if rail < 24 && (s.halfDie rail).power == .off then s.reachIdle rail else s
    let s := match r.avs with
      | some v => s.onHalfDie rail fun x => { x with avs := v }
      | none => s
    .next (if r.raise && !newer then s.railRaised rail else s)

/-- A raise is given up: the job stays at the lower step (R361, R397). -/
def State.dropRaise (s : State) (rail : Nat) : State :=
  s.each (List.range 24) fun s n =>
    if (s.polder n).rails.contains rail then
      s.onPolder n fun p => { p with
        rails := []
        job := p.job.map fun j => { j with step := min j.step (p.step + p.peakDown + p.quotaDown) } }
    else s

/-- 200 µs without an acknowledgement (R397): counted and logged; the rail stays where it is, a raise that waits for it is given
up, and the next planner run tries again.  The rail of a half-die that is OFF is requested again (DESIGN CHOICE, log 59). -/
def execAvsNoack (rail : Nat) (s : State) : Result :=
  match (s.rail rail).sent with
  | none => .next s
  | some r =>
    let again := decide (rail < 24) && (s.halfDie rail).power == .off
    let s := ((if again then s else s.onRail rail Rail.sendNext).countUp cAvsNoack).addLog 13 0 31 rail 0 0
    .next (if r.raise then s.dropRaise rail else s)

end Sys2Proof.Machine
end

