-- ==== Sys2Proof/Machine/LinkOps.lean ====
section
/-! DEFINITION. Melieko links: bundles, remote windows, the transmitter with its replay buffer and credits, and what a
link that goes down takes with it (R434-R442, R448). -/

namespace Sys2Proof.Machine

/-! ### Requests to peers (R441) -/

/-- The link that a request of an engine to a translated address uses (R441). -/
def State.route (s : State) (b : Nat) (fabric : Word) (slot a : Nat) : Option Nat :=
  let all := s.bundle fabric slot
  let own := all.filter fun n => n / 24 == b
  let u := if own.isEmpty then all else own
  u[(a / 4096) % u.length]?

/-- Requests that an engine has outstanding at a peer. -/
def State.awaits (s : State) (b : Nat) (fabric : Word) (slot : Nat) : Bool :=
  s.links.any fun e => e.2.peerFabric == fabric && e.2.peerSlot == slot && e.2.outstanding.any fun o => engineOf o.ch == b

/-- A link of a bundle enters or leaves UP: engines with requests outstanding there wait for their responses (R441). -/
def State.settle (s : State) (n : Nat) : State :=
  let p := ((s.link n).peerFabric, (s.link n).peerSlot)
  s.each (List.range 4) fun s b =>
    if s.awaits b p.1 p.2 && !(s.engine b).settling.contains p then
      s.onEngine b fun e => { e with settling := e.settling ++ [p] }
    else s

/-! ### The transmitter (R434, R436, R438) -/

def pktReq (p : Packet) : Bool := p.type == 1 || p.type == 2
/-- Credits a packet costs. -/
def pktUnits (p : Packet) : Nat := max 1 (p.data.length / 64)
/-- Flits a packet takes: DESIGN CHOICE, each packet starts a flit of its own. -/
def pktFlits (p : Packet) : Nat := max 1 (ceilDiv (p.data.length / 64) 9)

/-- Credits left of a channel; both counts are kept modulo 65,536. -/
def creditsLeft (limit used : Nat) : Nat := (limit + 65536 - used % 65536) % 65536

def Link.canSend (l : Link) (p : Packet) : Bool :=
  (if pktReq p then decide ((pktUnits p) ≤ creditsLeft l.reqLimit l.reqUsed) else decide ((pktUnits p) ≤ creditsLeft l.rspLimit l.rspUsed))
    && decide (l.replay.length + (pktFlits p) ≤ 128)

/-- The next packet that may be sent: the first of its channel, with credits for it. -/
def Link.nextPacket (l : Link) : Option Packet :=
  let first (req : Bool) : Option Packet := l.toSend.find? fun p => pktReq p == req
  ([first false, first true].filterMap id).find? l.canSend

/-- The 640 bytes of a flit from bytes 0-59 and the nine data slots, shorter ones filled with zeros; bytes 60-63 hold the
CRC-32C over all of them, read as zeros (R434). -/
def sealFlit (head slots : List Byte) : List Byte :=
  let h := (head ++ zeros 60).take 60
  let d := (slots ++ zeros 576).take 576
  h ++ leBytes 4 (crc32c (h ++ zeros 4 ++ d)) ++ d

/-- A packet header (R434). -/
def headerBytes (p : Packet) : List Byte :=
  leBytes 1 p.type ++ leBytes 1 p.len ++ leBytes 1 p.status ++ zeros 1 ++ leBytes 2 p.tag ++ zeros 2 ++ leBytes 8 p.addr
    ++ zeros 4

/-- The flits of a packet: the header in the first, the data in the slots of all. -/
def packetFlits (p : Packet) : List (List Byte) :=
  (List.range (pktFlits p)).map fun i => sealFlit (if i == 0 then headerBytes p else []) ((p.data.drop (576 * i)).take 576)

/-- CTRL flits (R434, R449). -/
def nakFlit (seq : Byte) : List Byte := sealFlit [1, seq] []
def identFlit (i : Ident) : List Byte :=
  sealFlit ([2, 0, 0, 0] ++ leBytes 4 i.fabricId.toNat ++ leBytes 1 i.slotId ++ leBytes 1 i.linkNo ++ leBytes 1 i.widths
    ++ leBytes 1 i.rates) []
def creditFlit (req rsp : Nat) : List Byte := sealFlit ([3, 0, 0, 0] ++ leBytes 2 req ++ leBytes 2 rsp) []
def timesyncFlit (ts : List Nat) : List Byte := sealFlit ([4] ++ zeros 7 ++ ts.flatMap (leBytes 8)) []

/-- Consecutive SEQ numbers for flits. -/
def numbered (seq : Byte) (fs : List (List Byte)) : List (Byte × List Byte) :=
  fs.zipIdx.map fun x => (seq + BitVec.ofNat 8 x.2, x.1)

def Link.emit (l : Link) (p : Packet) : Link :=
  let fs := numbered l.nextSeq (packetFlits p)
  { l with
    toSend := l.toSend.erase p
    nextSeq := l.nextSeq + BitVec.ofNat 8 (pktFlits p)
    replay := l.replay ++ fs
    sent := l.sent ++ fs.map fun f => .data f.1 l.lastSeq f.2
    reqUsed := if pktReq p then (l.reqUsed + (pktUnits p)) % 65536 else l.reqUsed
    rspUsed := if pktReq p then l.rspUsed else (l.rspUsed + (pktUnits p)) % 65536 }

/-- Sending what may be sent while the link is UP. -/
def Link.pump : (fuel : Nat) → Link → Link
  | 0, l => l
  | n + 1, l =>
    if l.state != .up then l
    else match l.nextPacket with
      | none => l
      | some p => Link.pump n (l.emit p)

def State.pumpLink (s : State) (n : Nat) : State := s.onLink n fun l => l.pump l.toSend.length

/-- Units that a link carries for a polder count in its next activity report (R347). -/
def State.linkCount (s : State) (n polder units : Nat) : State :=
  s.onLink n fun l => { l with act := Sparse.modify 0 l.act polder (· + units) }

/-- A packet handed to a link. -/
def State.sendPacket (s : State) (n : Nat) (p : Packet) : State :=
  (s.onLink n fun l => { l with toSend := l.toSend ++ [p] }).pumpLink n

/-- A tag that no outstanding request of the link has. -/
def Link.freeTag (l : Link) : Nat :=
  ((List.range (l.outstanding.length + 1)).find? fun t => l.outstanding.all fun o => o.tag != t).getD 0

/-- Bytes of a request are whole 64 B units: a completion's 32 B are filled up with zeros (R442; DESIGN CHOICE, log 23). -/
def unitAccess : Access → Access
  | .write l => .write (l ++ zeros (alignUp l.length 64 - l.length))
  | .read n => .read (alignUp n 64)

/-- A request of a channel to a device address inside a window: sent on its link, and true; or not yet, while the bundle
settles (R441).  A window that is unbacked by now halts the channel with BOUND (R283, R440). -/
def State.askPeer (s : State) (ch a : Nat) (acc : Access) : State × Bool :=
  let w := s.window (windowOf a)
  let b := engineOf ch
  let r := w.base + (a - 0x060000000000) % 2 ^ 37
  let write := accWrites acc
  if !s.windowOpen (windowOf a) then (s.devFail ch .bound a write false, true)
  else if (s.engine b).settling.contains (w.fabric, w.slot) && s.awaits b w.fabric w.slot then (s, false)
  else
    let s := s.onEngine b fun e => { e with settling := e.settling.filter (· != (w.fabric, w.slot)) }
    match s.route b w.fabric w.slot r with
    | none => (s, false)
    | some n =>
      let t := (s.link n).freeTag
      let data := match unitAccess acc with
        | .write l => l
        | .read _ => []
      let units := accLen (unitAccess acc) / 64
      let life := (s.chan ch).life
      let s := s.onLink n fun l => { l with outstanding := l.outstanding ++ [⟨t, ch, life, write, a, units⟩] }
      let s := s.onChan ch fun c => { c with remote := c.remote + 1 }
      ((s.linkCount n (s.chan ch).polder (max 1 (data.length / 64))).sendPacket n ⟨if write then 2 else 1, units, 0, t, r, data⟩,
        true)

/-! ### States of a link (R430, R437, R448) -/

def linkStateCode (x : LinkState) : Nat :=
  match x with
  | .disabled => 0
  | .detect => 1
  | .train => 2
  | .up => 3
  | .retrain => 4
  | .down => 5
  | .noPartner => 6

/-- The LINK event (R448). -/
def State.linkEvent (s : State) (n cause : Nat) : State :=
  let l := s.link n
  s.event 0xFFFF (n + linkStateCode l.state * 2 ^ 8 + l.rate * 2 ^ 16 + l.width * 2 ^ 17) cause 0x09

/-- What outlives the link-layer state of a link: its state, identity of the partner and counters. -/
def Link.cleared (l : Link) (st : LinkState) : Link :=
  { state := st, rate := l.rate, frozen := l.frozen, peerFabric := l.peerFabric, peerSlot := l.peerSlot
    peerLink := l.peerLink
    retrains := l.retrains, replays := l.replays, corrected := l.corrected
    uncorrectable := l.uncorrectable, latency := l.latency, act := l.act }

/-- A request that its link has dropped completes at its requester with HW_ERROR (R437). -/
def State.dropRequest (s : State) (o : Outstanding) : State :=
  s.answered o.ch o.life o.addr (if o.write then .write [] else .read 0) { status := .hwError }

/-- A link becomes DOWN, DISABLED or otherwise silent: its buffers are discarded and its requests end (R437). -/
def State.linkOff (s : State) (n : Nat) (st : LinkState) (cause : Nat) : State :=
  let l := s.link n
  let s := if l.state == .up then s.settle n else s
  let s := s.each l.outstanding fun s o => (s.onLink n fun k => { k with outstanding := [] }).dropRequest o
  let mine (g : Gather) : Bool := match g.who with
    | .link k _ => k == n
    | _ => false
  let s := { s.setLink n (l.cleared st) with gathers := s.gathers.filter fun g => !mine g }
  if l.state == .up || st == .down then s.linkEvent n cause else s

/-- The domains of the link groups may be on, and no hold keeps the transmitters idle (R384, R391, R444). -/
def State.linksOn (s : State) : Bool :=
  s.power.aon && s.power.pkg != .p2 && s.power.pkg != .p3 && !s.power.sagHold && !s.thermal.coolantHold

/-- The domain of a link group is on: one of its links at least is not DISABLED (R444). -/
def State.groupOn (s : State) (g : Nat) : Bool :=
  s.linksOn && (List.range 8).any fun i => (s.link (8 * g + i)).state != .disabled

/-- Every link of the module falls silent with its group domain: a warm reset, a sag, P3 or a coolant loss (R450).  The
links that are not DISABLED start over from `st`. -/
def State.linksSilent (s : State) (st : LinkState) : State :=
  s.each (List.range 96) fun s n => if (s.link n).state == .disabled then s else s.linkOff n st 0

/-- LINK_RATE bounds of a link (R366). -/
def State.rateLo (s : State) (n : Nat) : Nat := Sparse.get 1 s.ledger.linkRate n / 2
def State.rateHi (s : State) (n : Nat) : Nat := Sparse.get 1 s.ledger.linkRate n % 2
def State.ratePinned (s : State) (n : Nat) : Bool := s.rateLo n == s.rateHi n

/-- FROZEN of a link and of the LINK_RATE loop (R367, R432). -/
def State.freezeLink (s : State) (n : Nat) : State := (s.onLink n fun l => { l with frozen := true }).freeze 2 true

end Sys2Proof.Machine
end

