-- ==== Sys2Proof/Machine/NearBank.lean ====
section
/-! DEFINITION. Near-bank units: the stack dispatcher, the commands a unit runs, and their completions (R224-R240,
R246-R254). -/

namespace Sys2Proof.Machine

/-! ### Completions (R233) -/

/-- The unit of a channel as it asks for bursts (R207, R238). -/
def State.unitBy (s : State) (e : Nat) (c : NbCmd) : By :=
  { func := (s.chan c.dma).func, code := codeUnit e, polder := c.polder }

/-- A command of a channel's unit ends: its completion is on its way to the issuing DMA channel. -/
def State.nbFinish (s : State) (e : Nat) (c : NbCmd) (st : Status) (flags : Flags) (payload : List Byte) (cycles : Nat) :
    State :=
  (s.onEdgeCh e fun k => { k with
    queue := k.queue.drop 1
    done := k.done ++ [⟨c.tag, e, st, flags &&& 3, payload, cycles, c.dma, c.life⟩]
    lastOpc := c.opc
    lastStatus := st
    aborts := if st == .hwError then satAdd 16 k.aborts 1 else k.aborts
    busy := satAdd 32 k.busy cycles }).edgeCount e 0 c.polder cycles

/-- Unit cycles of a command that no rule states, or states a bound alone for: any number below `bound` (log 24). -/
def State.nbCycles (s : State) (bound : Nat) : Nat × State :=
  (Config.freeNat s.fresh % bound, { s with fresh := s.fresh + 1 })

/-- Bursts that bytes at a channel-local offset cover in part. -/
def partialBursts (off n : Nat) : Nat :=
  if n == 0 then 0
  else if off / 64 == (off + n - 1) / 64 then b2n (n != 64)
  else b2n (off % 64 != 0) + b2n ((off + n) % 64 != 0)

/-- The places of an NB_APPEND in the four planes of its page: offset and bytes. -/
def NbCmd.places (c : NbCmd) : List (Nat × Nat) :=
  let at_ (plane : Nat) : Nat := c.arg 0 + planeOff c.akfmt c.avfmt c.ad plane c.first
  [(at_ 0, c.ntok * kvElemBytes c.akfmt c.ad), (at_ 1, c.ntok * kvScaleBytes c.akfmt c.ad),
   (at_ 2, c.ntok * kvElemBytes c.avfmt c.ad), (at_ 3, c.ntok * kvScaleBytes c.avfmt c.ad)]

/-- What the spec says of a command's unit cycles: an NB_APPEND takes at most its start, its tokens and two burst slots, 4 unit
cycles, for each partial burst (R250); of the others it says nothing here. -/
def NbCmd.cycleBound (c : NbCmd) : Nat :=
  if c.opc == 5 then
    400 + c.ntok * (c.ad / 16 + 2) + 4 * ((c.places.map fun x => partialBursts x.1 x.2).foldl (· + ·) 0) + 1
  else 2 ^ 32

/-- A command ends without payload. -/
def State.nbEnd (s : State) (e : Nat) (c : NbCmd) (st : Status) : State :=
  let y := s.nbCycles c.cycleBound
  y.2.nbFinish e c st 0 [] y.1

/-- The running and queued commands of a channel end with HW_ERROR: its channel FAILED, or its stack shut down (R238,
R378). -/
def State.nbAllFail (s : State) (e : Nat) : State := s.each (s.edgeCh e).queue fun s c => s.nbEnd e c .hwError

/-! ### The dispatcher (R230, R231) -/

/-- Commands that select exactly one channel. -/
def nbSingle (opc : Nat) : Bool := opc == 1 || opc == 2 || opc == 5

/-- Commands with a payload: NB_WRITE, NB_APPEND, NB_SCORES, NB_ATTEND. -/
def nbPayload (opc : Nat) : Bool := opc == 1 || opc == 5 || opc == 6 || opc == 7

/-- Bits of the argument words that a command does not define. -/
def NbCmd.reserved (c : NbCmd) : Bool :=
  let a := c.arg
  let high (v n : Nat) : Bool := v / 2 ^ n != 0
  match c.opc with
  | 1 => a 1 != 0 || a 2 != 0 || a 3 != 0
  | 2 => high (a 1) 24 || a 2 != 0 || a 3 != 0
  | 3 => high (a 1) 24 || a 3 != 0
  | 4 => high (a 2) 24 || a 3 != 0
  | 5 => high (a 1) 34 || a 2 != 0 || a 3 != 0
  | 6 => high (a 2) 26 || high (a 3) 32
  | 7 => a 1 != 0 || high (a 2) 26 || high (a 3) 32
  | _ => a 0 != 0 || a 1 != 0 || a 2 != 0 || a 3 != 0

/-- Bytes of a source or query element: FP32 or BF16. -/
def srcBytes (f : Nat) : Nat := if f == 0 then 4 else 2

/-- The two or one ranges that a command's arguments name, as first byte and length. -/
def NbCmd.ranges (c : NbCmd) : List (Nat × Nat) :=
  match c.opc with
  | 1 => [(c.arg 0, 64 * c.plen)]
  | 2 => [(c.arg 0, 64 * bits (c.arg 1) 0 24)]
  | 3 => [(c.arg 0, 64 * bits (c.arg 1) 0 24)]
  | 4 => [(c.arg 0, 64 * bits (c.arg 2) 0 24), (c.arg 1, 64 * bits (c.arg 2) 0 24)]
  | 5 => [(c.arg 0, pageBytes c.akfmt c.avfmt c.ad)]
  | 6 => [(c.arg 0, 64), (c.arg 1, 64)]
  | 7 => [(c.arg 0, 64)]
  | _ => []

/-- The dispatcher's checks (R230, R247), in order, for the channels `chs` of stack `k`. -/
def State.nbCheck (s : State) (k : Nat) (c : NbCmd) (chs : List Nat) : Option Status :=
  let o := c.opc
  let attn := o == 6 || o == 7
  let d := if o == 5 then c.ad else c.d
  let overlap (a b n : Nat) : Bool := decide (a < b + n) && decide (b < a + n)
  firstFail [
    (o == 0 || decide (8 < o), .badOpcode),
    (c.mask == 0 || (nbSingle o && chs.length != 1), .formatUnsupported),
    (chs.any fun e => (s.edgeCh e).mode != .processor, .denied),
    (bits c.flags 2 6 != 0 || fieldAt c.header 3 1 != 0 || fieldAt c.header 12 4 != 0 || fieldAt c.header 48 16 != 0
      || (!nbPayload o && c.plen != 0) || c.reserved
      || (attn && (decide (1 < c.qfmt) || !kvAllows c.kfmt d || !kvAllows c.vfmt d))
      || (o == 5 && (decide (1 < c.srcfmt) || !kvAllows c.akfmt d || !kvAllows c.avfmt d)), .formatUnsupported),
    ((nbPayload o && c.plen == 0) || ((o == 2 || o == 3) && bits (c.arg 1) 0 24 == 0)
      || (o == 4 && bits (c.arg 2) 0 24 == 0) || (attn && (d == 0 || c.g == 0)) || (o == 5 && (c.ntok == 0 || d == 0)),
      .badLength),
    ((c.ranges.any fun r => r.1 % 64 != 0) || ((attn || o == 5) && d % 16 != 0), .align),
    ((nbPayload o && decide (64 < c.plen)) || ((attn || o == 5) && decide (256 < d)) || (attn && decide (16 < c.g))
      || (attn && decide (64 * c.plen < c.g * d * srcBytes c.qfmt))
      || (o == 5 && (decide (64 < c.first + c.ntok) || decide (64 * c.plen < 2 * c.ntok * d * srcBytes c.srcfmt)))
      || (c.ranges.any fun r => decide (s.chBytes < r.1 + r.2))
      || (o == 4 && overlap (c.arg 0) (c.arg 1) (64 * bits (c.arg 2) 0 24)), .bound),
    (s.stackOff k, .domainOff)]

/-- NB_DISPATCH: the oldest command of a stack's input buffer is checked; a failure is answered for every selected
channel, and a command that passes enters the queues of all its channels once each has room (R230, R231). -/
def execNbDispatch (stack : Nat) (s : State) : Result :=
  match (s.stack stack).dispatch with
  | [] => .next s
  | c :: rest =>
    let chs := ((List.range 32).filter (bit c.mask)).map (32 * stack + ·)
    let gone := s.onStack stack fun k => { k with dispatch := rest }
    match s.nbCheck stack c chs with
    | some st =>
      let done (e : Nat) : NbDone := ⟨c.tag, e, st, 0, [], 0, c.dma, c.life⟩
      -- without a selected channel the answer is the dispatcher's own, number 1024 + stack
      if chs.isEmpty then
        .next (gone.onEdgeCh (32 * stack) fun k => { k with done := k.done ++ [done (1024 + stack)] })
      else .next (gone.each chs fun s e => s.onEdgeCh e fun k => { k with done := k.done ++ [done e] })
    | none =>
      if chs.any fun e => decide (16 ≤ (s.edgeCh e).queue.length) then .next s
      else .next (gone.each chs fun s e => s.onEdgeCh e fun k => { k with queue := k.queue ++ [c] })

/-! ### A unit at work (R232, R238) -/

/-- The command at the head of a channel's queue runs, if it is the opcode meant; a retraining channel waits, and a
FAILED one ends it. -/
def State.nbRun (s : State) (e opc : Nat) (run : State → NbCmd → State) : State :=
  let k := s.edgeCh e
  match k.queue with
  | [] => s
  | c :: _ =>
    if c.opc != opc || k.mode != .processor || k.state == .retraining then s
    else if k.state == .failed || k.state == .removed then s.nbEnd e c .hwError
    else run s c

/-- The end of a command after a write or a read: HW_ERROR where a burst was uncorrectable. -/
def State.nbGot (s : State) (e : Nat) (c : NbCmd) (g : Got) (payload : List Byte) : State :=
  if g.status == .ok then
    let y := s.nbCycles (2 ^ 32)
    y.2.nbFinish e c .ok 0 payload y.1
  else s.nbEnd e c .hwError

/-- NB_WRITE. -/
def execNbWrite (e : Nat) (s : State) : Result :=
  .next (s.nbRun e 1 fun s c =>
    let r := s.chWrite e (s.unitBy e c) 66 (c.arg 0) ((c.payload ++ zeros (64 * c.plen)).take (64 * c.plen))
    r.1.nbGot e c r.2 [])

/-- NB_READ. -/
def execNbRead (e : Nat) (s : State) : Result :=
  .next (s.nbRun e 2 fun s c =>
    let n := bits (c.arg 1) 0 24
    let r := s.chRead e (s.unitBy e c) (n + 2) (c.arg 0) (64 * n)
    r.1.nbGot e c r.2 r.2.data)

/-- NB_FILL. -/
def execNbFill (e : Nat) (s : State) : Result :=
  .next (s.nbRun e 3 fun s c =>
    let burst := (List.replicate 8 (leBytes 8 (c.arg 2))).flatten
    (s.each (List.range (bits (c.arg 1) 0 24)) fun s i =>
      s.burstWrite e (c.arg 0 + 64 * i) burst (s.unitBy e c)).nbGot e c {} [])

/-- Copying bursts in ascending order: the first uncorrectable one ends it. -/
def State.nbCopyLoop (s : State) (e : Nat) (b : By) : (n src dst : Nat) → State × Got
  | 0, _, _ => (s, {})
  | n + 1, src, dst =>
    let r := s.burstRead e src [] b
    if r.2.status != .ok then r
    else (r.1.burstWrite e dst r.2.data b).nbCopyLoop e b n (src + 64) (dst + 64)

/-- NB_COPY. -/
def execNbCopy (e : Nat) (s : State) : Result :=
  .next (s.nbRun e 4 fun s c =>
    let r := s.nbCopyLoop e (s.unitBy e c) (bits (c.arg 2) 0 24) (c.arg 0) (c.arg 1)
    r.1.nbGot e c r.2 [])

/-- NB_SYNC: every earlier command of the channel has completed. -/
def execNbSync (e : Nat) (s : State) : Result := .next (s.nbRun e 8 fun s c => s.nbGot e c {} [])

/-! ### NB_APPEND (R247-R249) -/

/-- `n` records of D source elements as FP32 values, from byte offset `o` of a payload. -/
def srcRecords (f d n o : Nat) (l : List Byte) : List (List Num) :=
  (List.range n).map fun t =>
    (unpack (8 * srcBytes f) d ((l.drop (o + t * d * srcBytes f)).take (d * srcBytes f))).map
      (if f == 0 then Fmt.fp32 else Fmt.bf16).decode

/-- Writing byte strings at channel-local offsets in turn: the first uncorrectable burst ends it. -/
def State.chWrites (s : State) (e : Nat) (b : By) : List (Nat × List Byte) → State × Got
  | [] => (s, {})
  | w :: r =>
    let x := s.chWrite e b (w.2.length / 64 + 3) w.1 w.2
    if x.2.status != .ok then x else x.1.chWrites e b r

/-- NB_APPEND: the four planes of the page, each at the records of its tokens. -/
def execNbAppend (e : Nat) (s : State) : Result :=
  .next (s.nbRun e 5 fun s c =>
    let d := c.ad
    let n := c.ntok
    let kq := (srcRecords c.srcfmt d n 0 c.payload).map (kvQuant c.opts c.akfmt d)
    let vq := (srcRecords c.srcfmt d n (n * d * srcBytes c.srcfmt) c.payload).map (kvQuant c.opts c.avfmt d)
    let flags := (kq ++ vq).foldl (fun a q => a ||| q.2.2) 0
    let ws := List.zipWith (fun (p : Nat × Nat) l => (p.1, l)) c.places
      [(kq.map fun q => q.1).flatten, (kq.map fun q => q.2.1).flatten, (vq.map fun q => q.1).flatten,
       (vq.map fun q => q.2.1).flatten]
    let w := s.chWrites e (s.unitBy e c) ws
    if w.2.status != .ok then w.1.nbEnd e c .hwError
    else
      let y := w.1.nbCycles c.cycleBound
      y.2.nbFinish e c .ok flags [] y.1)

/-! ### Channel lists (R253, R254) -/

/-- An entry of a channel list: the page's channel-local offset and VALID. -/
structure ListEntry where
  off : Nat
  valid : Nat
deriving DecidableEq, Repr

/-- A unit's reading of its channel list: the state after it, and the entries or the status of a list that fails. -/
def State.nbList (s : State) (e : Nat) (c : NbCmd) : State × Except Status (List ListEntry) :=
  let by_ := s.unitBy e c
  let h := s.chRead e by_ 3 (c.arg 0) 64
  if h.2.status != .ok then (h.1, .error .hwError)
  else
    let count := fieldAt h.2.data 0 4
    let n := min count 4096
    let inside := decide (c.arg 0 + 64 + 8 * n ≤ s.chBytes)
    let r := h.1.chRead e by_ (n / 8 + 3) (c.arg 0 + 64) (if inside then 8 * n else 0)
    if r.2.status != .ok then (r.1, .error .hwError)
    else
      let raw := (List.range (if inside then n else 0)).map fun i => fieldAt r.2.data (8 * i) 8
      let page := pageBytes c.kfmt c.vfmt c.d
      match firstFail [
          (count == 0, .badLength),
          (fieldAt h.2.data 4 60 != 0 || (raw.any fun v => bits v 25 7 != 0 || bits v 39 25 != 0), .formatUnsupported),
          (decide (4096 < count) || !inside
            || (raw.any fun v => decide (64 < bits v 32 7) || decide (s.chBytes < 64 * bits v 0 25 + page))
            || (c.opc == 6 && decide (s.chBytes < c.arg 1 + 256 * c.g * count)), .bound)] with
      | some st => (r.1, .error st)
      | none => (r.1, .ok (raw.map fun v => ⟨64 * bits v 0 25, bits v 32 7⟩))

/-- The query: G rows of D elements, as FP32 codes (R234). -/
def NbCmd.query (c : NbCmd) : List (List Nat) :=
  (srcRecords c.qfmt c.d c.g 0 c.payload).map fun r => r.map fp32Of

/-- The key and value records of token `t` of a page's bytes, widened. -/
def pageKey (c : NbCmd) (page : List Byte) (t : Nat) : List F :=
  kvWiden c.opts c.kfmt c.d ((page.drop (planeOff c.kfmt c.vfmt c.d 0 t)).take (kvElemBytes c.kfmt c.d))
    ((page.drop (planeOff c.kfmt c.vfmt c.d 1 t)).take (kvScaleBytes c.kfmt c.d))
def pageValue (c : NbCmd) (page : List Byte) (t : Nat) : List F :=
  kvWiden c.opts c.vfmt c.d ((page.drop (planeOff c.kfmt c.vfmt c.d 2 t)).take (kvElemBytes c.vfmt c.d))
    ((page.drop (planeOff c.kfmt c.vfmt c.d 3 t)).take (kvScaleBytes c.vfmt c.d))

/-- Masked token positions of a list. -/
def maskedOf (l : List ListEntry) : Nat := l.foldl (fun a x => a + (64 - x.valid)) 0

/-- Sustained rate of a channel in a stack's band, tenths of a GB/s (R209); no narrow-path share is taken from it (log 24). -/
def bandRate (band : Nat) : Nat := if band == 3 then 320 else if band == 2 then 589 else 608

/-- Unit cycles of a command over a list of `n` entries: its start and, for each entry, the longer of its compute and its
data time (R237, R256). -/
def NbCmd.listCycles (c : NbCmd) (band n : Nat) : Nat :=
  400 + n * max (64 * c.g * (c.d / 8 + 2)) (ceilDiv (20 * pageBytes c.kfmt c.vfmt c.d) (bandRate band))

/-- Masked positions that a unit has processed (R237, R241). -/
def State.nbMasked (s : State) (e : Nat) (c : NbCmd) (n : Nat) : State :=
  (s.onEdgeCh e fun k => { k with masked := satAdd 32 k.masked n }).edgeCount e 2 c.polder n

/-- The end of a command over a list, of whose entries all but `left` are done. -/
def State.nbListEnd (s : State) (e : Nat) (c : NbCmd) (l left : List ListEntry) (g : Got) (flags : Flags)
    (payload : List Byte) : State :=
  let s := s.nbMasked e c (maskedOf l - maskedOf left)
  if g.status == .ok then s.nbFinish e c .ok flags payload (c.listCycles (s.stack (e / 32)).band l.length)
  else s.nbEnd e c .hwError

/-! ### NB_SCORES (R236) -/

/-- Scores of one page: token by token, head by head; −∞ for a masked token. -/
def pageScores (c : NbCmd) (q : List (List Nat)) (page : List Byte) (valid : Nat) : List F :=
  (List.range 64).flatMap fun t =>
    if t < valid then
      let k := pageKey c page t
      q.map fun row => score c.opts row k (bits (c.arg 3) 0 32)
    else q.map fun _ => (0xFF800000, 0)

/-- Entry by entry: the page is read, then its scores are written; an uncorrectable burst ends the command, and what was
written stays. -/
def State.nbScoresLoop (s : State) (e : Nat) (c : NbCmd) (q : List (List Nat)) :
    List ListEntry → (i : Nat) → Flags → State × Got × List ListEntry × Flags
  | [], _, fl => (s, {}, [], fl)
  | x :: r, i, fl =>
    let p := s.chRead e (s.unitBy e c) (pageBytes c.kfmt c.vfmt c.d / 64 + 2) x.off (pageBytes c.kfmt c.vfmt c.d)
    if p.2.status != .ok then (p.1, p.2, x :: r, fl)
    else
      let sc := pageScores c q p.2.data x.valid
      let w := p.1.chWrite e (s.unitBy e c) (4 * c.g + 2) (c.arg 1 + 256 * c.g * i) (sc.flatMap fun v => leBytes 4 v.1)
      if w.2.status != .ok then (w.1, w.2, x :: r, fl)
      else w.1.nbScoresLoop e c q r (i + 1) (fl ||| allFlags sc)

/-- NB_SCORES. -/
def execNbScores (e : Nat) (s : State) : Result :=
  .next (s.nbRun e 6 fun s c =>
    let l := s.nbList e c
    match l.2 with
    | .error st => l.1.nbEnd e c st
    | .ok es =>
      let r := l.1.nbScoresLoop e c c.query es 0 0
      r.1.nbListEnd e c es r.2.2.1 r.2.1 r.2.2.2 [])

/-! ### NB_ATTEND (R235) -/

/-- The tokens of one page folded into every head. -/
def pageAttend (c : NbCmd) (q : List (List Nat)) (page : List Byte) (valid : Nat) (hs : List Head) : List Head :=
  (List.range valid).foldl (fun hs t =>
    let k := pageKey c page t
    let v := pageValue c page t
    (q.zip hs).map fun x => x.2.fold c.opts (score c.opts x.1 k (bits (c.arg 3) 0 32)) v) hs

/-- Entry by entry, in list order. -/
def State.nbAttendLoop (s : State) (e : Nat) (c : NbCmd) (q : List (List Nat)) :
    List ListEntry → List Head → State × Got × List ListEntry × List Head
  | [], hs => (s, {}, [], hs)
  | x :: r, hs =>
    let p := s.chRead e (s.unitBy e c) (pageBytes c.kfmt c.vfmt c.d / 64 + 2) x.off (pageBytes c.kfmt c.vfmt c.d)
    if p.2.status != .ok then (p.1, p.2, x :: r, hs)
    else p.1.nbAttendLoop e c q r (pageAttend c q p.2.data x.valid hs)

/-- NB_ATTEND. -/
def execNbAttend (e : Nat) (s : State) : Result :=
  .next (s.nbRun e 7 fun s c =>
    let l := s.nbList e c
    match l.2 with
    | .error st => l.1.nbEnd e c st
    | .ok es =>
      let r := l.1.nbAttendLoop e c c.query es (List.replicate c.g { o := List.replicate c.d 0 })
      let outs := r.2.2.2.map fun h => h.bytes c.opts
      let bytes := (outs.map Prod.fst).flatten
      let flags := (r.2.2.2.zip outs).foldl (fun a x => a ||| x.1.flags ||| x.2.2) 0
      r.1.nbListEnd e c es r.2.2.1 r.2.1 flags (bytes ++ zeros (alignUp bytes.length 64 - bytes.length)))

end Sys2Proof.Machine
end

