-- ==== Sys2Proof/Machine/JobRun.lean ====
section
/-! DEFINITION. Jobs: JOB_RUN, admission time-out, slot 0, the end, time-out and cancellation, and tide marks (R121, R122,
R153, R154, R337-R339, R382). -/

namespace Sys2Proof.Machine

/-! ### Temperatures of half-dies (R369, R370) -/

/-- Logic pairs of a half-die: columns 0-3 west, 4-7 east. -/
def logicPairs (h : Nat) : List Nat :=
  ((List.range 48).filter fun q => decide (4 ≤ q % 8) == (h % 2 == 1)).map fun q => 48 * (h / 2) + q
/-- DRAM pairs over a half-die, of its four layers. -/
def dramPairs (h : Nat) : List Nat :=
  ((List.range 24).filter fun q => q % 2 == h % 2).map fun q => 576 + 24 * (h / 2) + q
/-- Pairs of the base die that carries a half-die. -/
def basePairs (h : Nat) : List Nat := (List.range 8).map fun q => 864 + 8 * (h / 6) + q

/-- The hottest governing value of some pairs, m°C. -/
def State.hottest (s : State) (l : List Nat) : Int :=
  (l.map fun q => Sparse.get 0 s.thermal.governing q).foldl max (-128000)

/-! ### JOB_RUN (R337, R382) -/

/-- Polders of one function with the shape and the schedule of one, none DEGRADED, LOADED now or while no job runs. -/
def State.kin (s : State) (n : Nat) : List Nat :=
  let p := s.polder n
  (List.range 24).filter fun m =>
    let q := s.polder m
    (q.state == .loaded || q.state == .running) && q.shape == p.shape && imgId q.image == imgId p.image
      && !q.degraded && s.holder m == s.holder n

/-- The polders equal to one: those that are LOADED, itself included (R382). -/
def State.equalPolders (s : State) (n : Nat) : List Nat := (s.kin n).filter fun m => (s.polder m).state == .loaded

/-- The member that rotation uses for the group whose lowest member, LOADED or running, is `n`: itself until it first
moves. -/
def State.rotationAt (s : State) (n : Nat) : Nat :=
  let v := Sparse.get 31 s.thermal.rotatedTo n
  if v == 31 then n else v

/-- The polder that runs a job which names `n`: under ROTATE the current one of its group, hot ones and those that already have
a job or a command skipped (R382). -/
def State.rotated (s : State) (f n : Nat) : Nat :=
  let b := s.ledger.rotation
  let l := s.equalPolders n
  if f != 0 || !s.thermal.rotate || (b.lo == 0 && b.hi == 0) || !l.contains n then n
  else
    let cur := s.rotationAt ((s.kin n).headD n)
    let order := (l.filter fun m => decide (cur ≤ m)) ++ l.filter fun m => decide (m < cur)
    (order.find? fun m => (s.polder m).job.isNone && (s.polder m).command.isNone
      && decide (s.hottest ((s.polder m).halfDies.flatMap logicPairs) < 93000)).getD n

/-- The map with the replacements of a command's block: mask of 32 B, then one 16 B record for each set bit (R266, R337);
none where a bit is beyond the map. -/
def replaceMaps (maps : List RandEntry) (c : Cmd) : Option (List RandEntry) :=
  let body := c.body
  if !c.block then some maps
  else
    let mask := fieldAt body 0 32
    let set := (List.range 256).filter (bit mask)
    if set.any fun i => decide (maps.length ≤ i) then none
    else some ((set.zip (List.range set.length)).foldl (fun m x =>
      match m[x.1]? with
      | some e => m.set x.1 { e with
          key := BitVec.ofNat 64 (fieldAt body (32 + 16 * x.2) 8)
          base := BitVec.ofNat 64 (fieldAt body (40 + 16 * x.2) 8) }
      | none => m) maps)

/-- A job queued for admission (R332, R337, R359): the planner runs on its arrival. -/
def State.queueJob (s : State) (c : Cmd) (n arg timeout admission : Nat) (maps : List RandEntry) (context : List Byte) : State :=
  let o := s.ledger.nextOrder
  let j : Job :=
    { func := c.func, tag := c.tag, opc := c.opc, arg := arg, timeoutMs := timeout, admitMs := admission, order := o,
      arrival := s.time.dev, outAddr := c.out, outLen := c.outLen, maps := maps, context := context, notify := c.notify }
  { s.onPolder n (fun p => { p with job := some j }) with ledger := { s.ledger with nextOrder := o + 1 } }

/-- JOB_RUN (R337). -/
def execJobRun (f : Nat) (s : State) : Result :=
  .next (s.command f 0x22 fun s c =>
    let n := if decide (c.a 1 < 24) then s.rotated f (c.a 1) else c.a 1
    let p := s.polder n
    match s.polderFail n false with
    | some st => s.refuse c st
    | none => match firstFail [
        (p.state == .running || p.state == .resetting || p.state == .halted || p.job.isSome, .busy),
        (p.state == .empty, .denied),
        (p.fenced || !p.wideEnough p.image, .degraded),
        (c.a 3 == 0 || c.a 4 == 0, .bound),
        ((replaceMaps (imgMaps p.image) c).isNone, .bound),
        (!c.fits (64 + 32 * p.clusters.length), .bound)] with
      | some st => s.refuse c st
      | none => s.queueJob c n (c.a 2) (c.a 3) (c.a 4)
          ((replaceMaps (imgMaps p.image) c).getD []) [])

/-- ADMIT_MS of a waiting job has run out (R471): a job that fits now is admitted; where only band B0 stands in the way it is
TIMEOUT with DETAIL bit 31; else NO_ENERGY (R18, R337, R359).  Where a step fits but admission is stopped, by a coolant hold, an
orderly shutdown, a sag or a cap below what is committed, R18 and R328 give no status: NO_ENERGY too (DESIGN CHOICE, log 39). -/
def execAdmissionTimeout (p : Nat) (s : State) : Result :=
  match (s.polder p).job with
  | none => .next s
  | some j =>
    if j.phase != .waiting || !s.trust.running || !s.admitExpired j then .next s
    else
      let off := s.admissionOff || s.power.sagHold || decide (s.ledger.effCap < s.committedSum)
      match s.bestStep p (s.allocFor (s.ledger.effCap - s.committedSum) p) with
      | some st =>
        .next (if off then s.failWaiting p else if s.b0Hold p then s.finishJob p .timeout (2 ^ 31)
          else (s.admitJob p st).noteFreeboard)
      | none => .next (s.failWaiting p)

/-! ### Slot 0 (R121, R138, R171) -/

/-- An S-core with code at slot 0: its other registers are at their reset values, TMASK and VMASK too, which R121 does not
name and whose column says Reset and not 'at job start' (R120, R121; DESIGN CHOICE, log 53). -/
def SCore.start (x : SCore) (coord core arg : Nat) : SCore :=
  { imem := x.imem, dmem := x.dmem, ended := false
    regs := Sparse.set 0 (Sparse.set 0 (Sparse.set 0 [] 10 (BitVec.ofNat 32 coord)) 11 (BitVec.ofNat 32 (core % 64)))
      12 (BitVec.ofNat 32 arg) }

/-- A cluster at slot 0. -/
def Cluster.start (c : Cluster) (maps : List RandEntry) : Cluster :=
  { c with
    rand := maps, page := 0, entry := 0, since := 0, inForce := Sparse.get idleEntry c.table 0, pageAt := [], writes := [],
    inject := [], eject := [], inputs := [], outputs := [], beats := [], issues := [], notes := [], noteRecent := [],
    lastNote := [],
    sin := { bound := c.sin.bound, open_ := true }, sout := { bound := c.sout.bound, open_ := true } }

/-- Flags of every core of the polder are cleared when a job starts (R50), and no late word counts any more. -/
def State.clearFlags (s : State) (p : Nat) : State :=
  let mine (core : Nat) : Bool := (s.polder p).holds? (halfOf (clusterOf core))
  let s := s.each (s.polder p).halfDies fun s h => s.onHalfDie h fun x => { x with junkFlags := false }
  let s := s.each ((s.tcores.map Prod.fst).filter mine) fun s c => s.onTcore c fun x => { x with status := 0, late := none }
  let s := s.each ((s.vcores.map Prod.fst).filter mine) fun s c => s.onVcore c fun x => { x with status := 0, late := none }
  s.each ((s.scores.map Prod.fst).filter mine) fun s c => s.onScore c fun x => { x with status := 0, late := none }

/-- The half-dies of a polder become ACTIVE, and the polder RUNNING; the step in force is the one that this tide mark has
brought (R154, R390). -/
def State.goActive (s : State) (p : Nat) : State :=
  let s := s.each (s.polder p).halfDies fun s h => s.onHalfDie h fun x => { x with power := .active }
  s.onPolder p fun x => { x with
    state := .running, cycle := 0, holds := []
    job := x.job.map fun j => { j with phase := .running, startAt := s.time.dev } }

/-- Slot 0 of a JOB_RUN: the placements are broadcast again, then every core and router starts. -/
def State.startJob (s : State) (p : Nat) (j : Job) : State :=
  let s := s.broadcast p (s.polder p).image false
  let x := s.polder p
  let s := s.each x.clusters fun s cl =>
    let s := s.onCluster cl fun c => c.start j.maps
    s.each ((List.range 4).map fun i => cl * 64 + 60 + i) fun s core =>
      if hasCode x cl core then s.onScore core fun k => k.start (x.coordWord cl) core j.arg else s
  ((s.clearFlags p).onPolder p fun x => { x with slot := 0, holdCount := 0 }).goActive p

/-! ### The end of a job (R122, R338, R365) -/

/-- A job's end condition is met (R122): the record, the log, and the polder LOADED.  The planner run that
follows is PLANNER_RUN's. -/
def execJobEnd (p : Nat) (s : State) : Result :=
  let x := s.polder p
  if x.state != .running || !x.holds.isEmpty || !s.jobDone p || s.gated p then .next s
  else
    let s := (s.finishJob p .ok 0).closeSluices p
    .next ((s.idleHalfDies p).onPolder p fun x => { x with state := .loaded })

/-- TIMEOUT_MS have passed since slot 0 (R471). -/
def State.jobLate (s : State) (p : Nat) : Bool :=
  (s.polder p).job.any fun j => decide (j.startAt + j.timeoutMs * 100000 ≤ s.time.dev)

/-- TIMEOUT_MS after slot 0 (R337): firmware ends the job by a floodgate of the polder, whose status is TIMEOUT unless its
end condition is met (R317). -/
def execJobTimeout (p : Nat) (s : State) : Result :=
  let x := s.polder p
  if x.state != .running || !s.trust.running || s.gated p || !s.jobLate p then .next s
  else .next (s.failJob p (if s.jobDone p then .ok else .timeout) 0)

/-- JOB_CANCEL (R339, R332). -/
def execJobCancel (f : Nat) (s : State) : Result :=
  .next (s.command f 0x23 fun s c =>
    let n := c.a 1
    let p := s.polder n
    match firstFail [
        (decide (24 ≤ n) || !p.exists_, .bound), (s.thermal.coolantHold || s.gated n || p.state == .halted, .busy)] with
    | some st => s.refuse c st
    | none => match p.job with
      | none => s.answer c { polder := n }
      | some j =>
        if j.phase != .running then
          (s.finishJob n .aborted 0).answer c { polder := n, r0 := j.tag + 2 ^ 16 }
        else if s.jobDone n then s.answer c { polder := n }
        else (s.gatePolder n).1.answer c { polder := n, r0 := j.tag + 2 ^ 16 })

/-! ### Tide marks (R153, R154, R340, R377) -/

/-- The clock the weir gives for a step's clock and an excess over the start temperature, MHz (R375). -/
def weirClock (mhz slope : Nat) (excess : Int) : Nat :=
  max (3 * mhz / 100 * 10) (((mhz : Int) * (1000000 - slope * excess) / 10000000).toNat * 10)

/-- A polder that the weir acts on: a job runs on it, or is admitted and comes to slot 0 (R377, R386). -/
def Polder.weirs (p : Polder) : Bool := p.state == .running || p.job.any fun j => j.phase != .waiting

/-- What a tide mark does to a polder: the commanded step and the weir's clock by the latest sample come into force, a voltage
lowered after its slew, and a CONTEXT_SAVE that waits asserts its hold. -/
def State.tidePolder (s : State) (n : Nat) : State :=
  let p := s.polder n
  let st := p.nextStep.getD p.step
  let s := if st < p.step then s.askRails p.halfDies { up := false } else s
  let weir := if p.weirs then p.weirNext.map (weirClock (stepMHz st) s.thermal.slope) else none
  let saving := p.state == .running && (match p.command with
    | some c => c.opc == 0x24 && !c.ready
    | none => false)
  s.onPolder n fun p => { p with
    markDue := false, atMark := true, step := st, nextStep := none, weir := weir
    command := if saving then p.command.map fun c => { c with ready := true } else p.command
    holds := if saving then p.holds ++ [(.context, p.cycle)] else p.holds }

/-- A tide mark of a half-die (R153, R500), once the counter has come round: of its polder where it is the polder's lowest;
otherwise its own, from which it runs at step 0.  The mark is where it reaches every half-die, 12 cycles after the counter
(log 51). -/
def execTideMark (h : Nat) (s : State) : Result :=
  let n := s.polderOf h
  .next (if n == 31 then
      if (s.halfDie h).markDue then s.onHalfDie h fun x => { x with markDue := false, step := 0 } else s
    else if (s.polder n).halfDies.head? == some h && (s.polder n).markDue then s.tidePolder n else s)

end Sys2Proof.Machine
end

