-- ==== Sys2Proof/Machine/Floodgate.lean ====
section
/-! DEFINITION. The floodgate, the recovery of the management processor, the watchdogs of the die controllers, and
fences (R314-R321, R422, R423, R461, R472). -/

namespace Sys2Proof.Machine

def fgKey : Nat := 0x0F1D
def pmpKey : Nat := 0x0F1E

/-! ### Records (R314, R318) -/

/-- FG_STATUS of an issuer while its floodgate is in progress. -/
def fgBusy (polder no : Nat) : FgStatus := { busy := true, polder := polder, key := no, gate := no }

/-- A floodgate that function `f` triggered is in progress. -/
def State.gating (s : State) (f : Nat) : Bool :=
  (s.gates.any fun g => g.func == f) || (List.range 24).any fun n => (s.polder n).gates.any fun g => g.func == f

/-- The key of a function, numbered: its last floodgate is now this one (R314, R319). -/
def State.fgMark (s : State) (f polder : Nat) : State :=
  let s := { s with fgNo := s.fgNo + 1 }
  if 24 < f then s
  else { s.onFunc f fun x => { x with fg := fgBusy polder s.fgNo } with draining := s.draining.filter fun d => d.1 != f }

/-- The issuer that a key makes, whose number is the next. -/
def State.gateOf (s : State) (f : Nat) (joined : Bool) : Gate := ⟨f, joined, s.time.dev, s.fgNo + 1⟩

/-- The 32 B record. -/
def fgRecord (kind polder : Nat) (st : Status) (ended joined : Bool) (elapsed time func chans : Nat) : List Byte :=
  leBytes 1 kind ++ leBytes 1 polder ++ leBytes 1 st.code ++ leBytes 1 (b2n ended + b2n joined * 2) ++ leBytes 4 elapsed
    ++ leBytes 8 time ++ leBytes 2 func ++ leBytes 2 chans ++ zeros 12

/-- Posting a record and signalling FG_VECTOR; both deferred while Bus Master Enable is clear (R318, R303). -/
def State.postRecord (s : State) (f : Nat) (l : List Byte) : State :=
  let x := s.func f
  if x.fgRecAddr == 0 then s
  else if !x.bme then s.onFunc f fun x => { x with fgDeferred := x.fgDeferred ++ [(x.fgRecAddr, l)] }
  else ((s.hostWrite f x.fgRecAddr l).getD s).signal f x.fgVector

/-- Step 6 for one issuer: BUSY stays set while another of its floodgates is in progress, and the other fields are those of
the last it triggered (log 49).  ELAPSED_US runs from its own key, rounded up.  The device itself has no status and no
record. -/
def State.fgFinish (s : State) (kind target : Nat) (st : Status) (ended : Bool) (chans : Nat) (who : Gate) : State :=
  let f := who.func
  if 24 < f then s
  else
    let elapsed := ceilDiv (s.time.dev - who.time) 100 % 2 ^ 32
    let busy := s.gating f
    let s := s.onFunc f fun x => { x with
      fg := if who.no < x.fg.key then { x.fg with busy := busy }
        else { x.fg with busy := busy, jobEnded := ended, polder := target, status := st, elapsedUs := elapsed } }
    s.postRecord f (fgRecord kind target st ended who.joined elapsed who.time f chans)

/-- A key that does nothing (R314): its status and record at once; what the function's last floodgate has still to drain goes
on (R319). -/
def State.fgRefuse (s : State) (f target : Nat) (st : Status) : State :=
  let g := s.gateOf f false
  let s := { s.onFunc f (fun x => { x with fg := { x.fg with key := g.no } }) with fgNo := g.no }
  s.fgFinish 1 target st false 0 g

/-- A completed floodgate drains for the issuers whose last it is (R319). -/
def State.drains (s : State) (target : Nat) (gs : List Gate) : State :=
  { s with draining := s.draining
      ++ (gs.filter fun w => decide (w.func ≤ 24) && decide ((s.func w.func).fg.gate ≤ w.no)).map fun w => (w.func, target) }

/-! ### The sequence (R315, R320) -/

/-- A floodgate of one polder: it joins what is in progress, or steps 1-5 are carried out. -/
def State.startGate (s : State) (f n : Nat) : State :=
  if !s.gates.isEmpty then { s.fgMark f 31 with gates := s.gates ++ [s.gateOf f true] }
  else if !(s.polder n).gates.isEmpty then (s.fgMark f n).onPolder n fun p => { p with gates := p.gates ++ [s.gateOf f true] }
  else
    let r := s.gatePolder n
    (r.1.fgMark f n).onPolder n fun p => { p with gates := [s.gateOf f false], gateChannels := r.2.1, gateEndedJob := r.2.2 }

/-- A package floodgate: every polder, then every channel and near-bank command that is left (R292); floodgates of single
polders in progress are absorbed. -/
def State.startPackageGate (s : State) (f : Nat) : State :=
  let g := s.gateOf f (!s.gates.isEmpty)
  let s := s.fgMark f 31
  if !s.gates.isEmpty then { s with gates := s.gates ++ [g] }
  else
    let all := (List.range 24).filter fun n => (s.polder n).exists_
    let absorbed := all.flatMap fun n => (s.polder n).gates
    let had := sumOf (all.map fun n => if (s.polder n).gates.isEmpty then 0 else (s.polder n).gateChannels)
    let endedBefore := all.any fun n => !(s.polder n).gates.isEmpty && (s.polder n).gateEndedJob
    let r := all.foldl (fun (a : State × Nat × Bool) n =>
      let g := a.1.gatePolder n
      (g.1.onPolder n fun p => { p with gates := [] }, a.2.1 + g.2.1, a.2.2 || g.2.2)) (s, had, endedBefore)
    let s := r.1.nbDiscard fun _ => true
    let free := s.liveChans fun _ => true
    let s := s.each free State.disableChan
    { s with gates := sortBy Gate.no (absorbed ++ [g])
             gateChannels := r.2.1 + free.length, gateEndedJob := r.2.2 }

/-- A package floodgate has completed: PMP_RESET may follow it (R321), and an unlock that waited for it takes effect
(R465). -/
def Trust.passed (t : Trust) : Trust :=
  { t with gated := true, unlocked := t.unlocked || t.scopeDue != 0, scope := t.scope ||| t.scopeDue, scopeDue := 0 }

/-- Completion of a floodgate in progress: every issuer's status and record. -/
def State.finishGate (s : State) (target : Nat) : State :=
  if target == 31 then
    let gs := s.gates
    if gs.isEmpty then s
    else
      let s := { s with gates := [], trust := s.trust.passed }
      (s.each gs fun s w => s.fgFinish 2 31 .ok s.gateEndedJob s.gateChannels w).drains 31 gs
  else
    let p := s.polder target
    if p.gates.isEmpty then s
    else
      let s := s.onPolder target fun p => { p with gates := [] }
      (s.each p.gates fun s w => s.fgFinish 1 target .ok p.gateEndedJob p.gateChannels w).drains target p.gates

/-- A write of FLOODGATE in a VF's page (R314). -/
def State.writeFloodgate (s : State) (f value : Nat) : State :=
  if value != fgKey then s.accessError f kRefused true 0x28
  else
    let n := s.vfPolder f
    if n == 31 then s.fgRefuse f 31 .denied
    else s.startGate f n

/-- A write of FG_PF (R314). -/
def State.writeFgPf (s : State) (value : Nat) : State :=
  let n := bits value 16 5
  if bits value 0 16 != fgKey || bits value 21 11 != 0 then s.accessError 0 kRefused false 0x1000
  else if n == 31 then s.startPackageGate 0
  else if 24 ≤ n || !(s.polder n).exists_ then s.fgRefuse 0 n .bound
  else s.startGate 0 n

/-- FLOODGATE of a VF's page (R314, R306): a reserved offset in the PF's page. -/
def execFloodgate (f : Nat) (value : Word) (s : State) : Result :=
  if f == 0 then .next (s.accessError 0 kHole true 0x28) else .next (s.writeFloodgate f value.toNat)

/-- FG_PF (R314). -/
def execFgPf (value : Word) (s : State) : Result := .next (s.writeFgPf value.toNat)

/-- A held access is a write of a disabled channel, of a polder or of any (31). -/
def Held.lingers (h : Held) (target : Nat) : Bool :=
  match h.req.who, h.acc with
  | .dma _, .write _ => h.life == deadLife && (target == 31 || h.polder == target)
  | _, _ => false

/-- DRAINED (R319): no write of the disabled channels waits any more in a hold queue. -/
def execFloodgateDrained (target : Nat) (s : State) : Result :=
  let waits := s.channels.any fun e => e.2.held.any fun h => h.lingers target
  if waits then .next s
  else
    let fs := (s.draining.filter fun d => d.2 == target).map Prod.fst
    .next { s.each fs (fun s f => s.onFunc f fun x => { x with fg := { x.fg with drained := true } }) with
      draining := s.draining.filter fun d => d.2 != target }

/-! ### The management processor (R321, R461) -/

/-- A function's interface with firmware is gone: queues, messages, ring and what waited for it (R321, R332). -/
def Func.forget (x : Func) : Func :=
  { x with
    h2d := [], h2dLost := false, d2h := [], notified := false, partialWords := [], inbox := [], tags := [], ring := none
    due := [], eventsLost := 0 }

/-- A job without the command that began it: one that has not reached slot 0 is gone, one that runs ends without a record. -/
def Job.discard (mine : Nat → Bool) (j : Job) : Option Job :=
  if !mine j.func then some j else if j.phase != .running then none else some { j with silent := true }

/-- A polder without the command in progress of some functions (R332). -/
def Polder.discard (mine : Nat → Bool) (p : Polder) : Polder :=
  let own := p.command.any fun c => mine c.func
  { p with
    command := if own then none else p.command
    job := p.job.bind (Job.discard mine)
    state := if own && p.state == .resetting then .halted else p.state }

/-- The commands in progress of some functions are discarded without a record, with the jobs that wait; a creation that
had not completed leaves no polder (R332, R365). -/
def State.discardCommands (s : State) (mine : Nat → Bool) : State :=
  s.each (List.range 24) fun s n =>
    let p := s.polder n
    if p.state != .none && !p.exists_ && p.command.any (fun c => mine c.func) then (s.clearDikes p).setPolder n {}
    else s.onPolder n (Polder.discard mine)

/-- The oldest message of a function, which firmware has started (R332). -/
def State.startedMsg (s : State) (f : Nat) : Option Msg := if s.trust.resetDue then none else (s.func f).inbox.head?

/-- A FIRMWARE_COMMIT is in progress: it has been started with an image staged, and its row has not yet come, at which it is
done (R456, R457; DEDUCED, log 49). -/
def State.committing (s : State) : Bool := s.trust.staged.isSome && (s.startedMsg 0).any fun m => m.opc == 0x63

/-- REVOKE of an image or a manifest. -/
def fwRevoke (img : List Byte) : Nat := fieldAt img 7 1

/-- The counter and the keys that a burn leaves, of so many steps and so far through REVOKE as a number says (R460). -/
def Fuses.partBurnt (u : Fuses) (svn revoke n : Nat) : Fuses :=
  let floor := min (max svn u.svnFloor) (u.svnFloor + n % 128)
  { u with
    svnFloor := floor
    revoked := if floor == max svn u.svnFloor then u.revoked ||| (bits revoke 0 4 &&& n / 128) else u.revoked }

/-- What a running burn is to reach: the image's, and what an interrupted one left. -/
def State.burnAim (s : State) : Nat × Nat :=
  let l := s.trust.burnLeft.getD (0, 0)
  (max s.trust.svn l.1, fwRevoke s.trust.manifest ||| l.2)

/-- Firmware stops in the middle of its work: a commit leaves no valid image in the flash region, and a fuse burn stands where
it had come to (R457, R460, R466). -/
def State.interrupted (s : State) : State :=
  let s := { s with trust := { s.trust with flashImage := if s.committing then [] else s.trust.flashImage } }
  if !s.trust.burning then s
  else
    { s with
      fuses := s.fuses.partBurnt s.burnAim.1 s.burnAim.2 (Config.freeNat s.fresh)
      fresh := s.fresh + 1
      trust := { s.trust with burning := false, burnLeft := some s.burnAim } }

/-- A PMP reset (R321): the mailboxes and rings are emptied, firmware stops until its next start, and the die
controllers hold every half-die at the lowest step. -/
def State.pmpResetNow (s : State) : State :=
  let s := s.interrupted
  let s := { s.discardCommands (fun _ => true) with funcs := Sparse.mapWhere {} (fun _ => true) Func.forget s.funcs }
  let s := s.each (List.range 24) fun s n => s.onPolder n fun p => if p.exists_ then { p with rails := [], nextStep := some 0 } else p
  { s with trust := { s.trust with running := false, gated := false, staged := none, romDue := true, resetDue := false, ifLevel := 0 }
           repair := { s.repair with staged := [] } }

/-- PMP_RESET (R321): its reserved bits are ignored (R11), and it takes effect only after a package floodgate completed since the PMP last started. -/
def State.writePmpReset (s : State) (value : Nat) : State :=
  if value % 2 ^ 16 != pmpKey || !s.trust.gated then s.accessError 0 kRefused false 0x1018 else s.pmpResetNow

def execPmpReset (value : Word) (s : State) : Result := .next (s.writePmpReset value.toNat)

/-- Step 6 (R315, R318), for the floodgate of KIND 1, one polder, or 2, the package; the PMP reset of an expired watchdog follows
the package's (R461). -/
def execFloodgateComplete (kind polder : Nat) (s : State) : Result :=
  let t := s.finishGate (if kind == 2 then 31 else polder)
  .next (if kind == 2 && t.trust.resetDue then t.pmpResetNow else t)

/-- How long the bring-up in progress has lasted, ms (R415). -/
def State.bringUpMs (s : State) : Nat := (s.time.dev - s.boot.startAt) / 100000

/-- A bring-up ends under R415: the PCIe domain and the boot ROM stay up, and the ROM serves the PF mailbox (R305,
R458; DEDUCED for the codes other than FIRMWARE, log 27). -/
def State.failBringUp (s : State) (code unit elapsed : Nat) (warm : Bool) : State :=
  { s with
    boot := { failed := true, warm := warm, code := code, unit := unit, elapsedMs := elapsed }
    power := { s.power with management := true }
    pcie := { s.pcie with on := true }
    smbus := { s.smbus with mfr := true }
    trust := { s.trust with
      running := false, recovery := true, romStarted := true, romDue := false, ifLevel := 0, svn := 0, manifest := [] } }

/-- The PMP watchdog (R461): logged, firmware does nothing more, and a package floodgate begins, at whose completion the PMP is
reset.  In a bring-up the PMP restarts, and a second expiry ends it (R428). -/
def execPmpWatchdog (s : State) : Result :=
  if !s.trust.running then .next s
  else if s.boot.running then
    let s := (s.addLog 11 0 31 0 0 0).pmpResetNow
    .next (if s.boot.expiries == 0 then { s with boot := { s.boot with expiries := 1 } }
      else s.failBringUp 5 0 s.bringUpMs s.boot.warm)
  else
    let s := (s.addLog 11 0 31 0 0 0).interrupted
    .next ({ s with trust := { s.trust with running := false, resetDue := true } }.startPackageGate 25)

/-! ### Fences (R422, R423) -/

/-- The polder that holds a unit fails its job with HW_ERROR and is DEGRADED with cause FENCED. -/
def State.fencePolder (s : State) (n : Nat) : State :=
  if 24 ≤ n then s else (s.failJob n .hwError 0).onPolder n fun p => { p with fenced := true }

/-- The die whose controller fences a unit. -/
def fencedDie : FencedUnit → Nat
  | .cluster d _ _ => d
  | .halfDie h _ => h / 2
  | .culvert d _ _ _ => d

/-- Three of these times lie within 1 s. -/
def threeInSecond (l : List Nat) : Bool := l.any fun t => decide (3 ≤ l.countP fun u => decide (t ≤ u ∧ u ≤ t + 100000000))

/-- The unit meets its condition: three check-bit errors within 1 s are counted; the others the CDC sees at once (R422). -/
def State.fenceDue (s : State) : FencedUnit → Bool
  | .cluster d c .checkBits => threeInSecond (s.cluster (d * 1344 + c)).checkErrors
  | .culvert _ _ _ errors => threeInSecond (errors.filter fun t => decide (t ≤ s.time.dev))
  | _ => true

/-- Fencing a unit: its CDC acts, and reports it (R19).  A culvert router lies in no half-die (R166): no polder becomes
DEGRADED by it, and its event goes to the PF alone (R163, R423; DESIGN CHOICE, log 61). -/
def State.fence (s : State) (u : FencedUnit) : State :=
  let s := s.boardReport (fencedDie u) [actionWord 1 (fencedDie u)]
  match u with
  | .cluster d c _ =>
    let cl := d * 1344 + c
    let n := s.polderOf (halfOf cl)
    let s := (s.onCluster cl fun c => { c with fenced := true }).fencePolder n
    (s.addLog 12 0 n 1 d c).event (if n < 24 then n else 0xFFFF) (s.location cl) 1 0x02
  | .halfDie h _ =>
    let n := s.polderOf h
    let s := (s.onHalfDie h fun x => { x with fenced := true }).fencePolder n
    (s.addLog 12 0 n 16 h 0).event (if n < 24 then n else 0xFFFF) (h / 2 + 0xFFFF * 2 ^ 8 + h * 2 ^ 40) 16 0x02
  | .culvert d x p _ =>
    let s := { s with fencedCulverts := if s.fencedCulverts.contains (d, x, p) then s.fencedCulverts else s.fencedCulverts ++ [(d, x, p)] }
    let y := (goodRows s.repair.inForce d x).idxOf p
    let idx := if y < 28 then y * 48 + x else 0xFFFF
    (s.addLog 12 0 31 2 d (x * 32 + p)).event 0xFFFF
      (d + idx * 2 ^ 8 + x * 2 ^ 24 + p * 2 ^ 30 + (2 * d + x / 24) * 2 ^ 40) 2 0x02

/-- FENCE: a unit that meets its condition is fenced at once (R422, R423). -/
def execFence (u : FencedUnit) (s : State) : Result := .next (if s.fenceDue u then s.fence u else s)

/-! ### Die controllers (R472) -/

/-- A CDC watchdog: the floodgate of every polder with a half-die of the die, its half-dies at step 0; two expiries
within 10 s fence the die. -/
def execCdcWatchdog (d : Nat) (s : State) : Result :=
  let hs := [2 * d, 2 * d + 1]
  let ps := (hs.map s.polderOf).dedup.filter fun n => decide (n < 24)
  let s := s.each ps fun s n => if (s.polder n).exists_ then s.startGate 25 n else s
  let s := s.each ps fun s n => s.onPolder n fun p => { p with rails := [], nextStep := some 0 }
  let again := match Sparse.get none s.cdcExpired d with
    | some t => decide (s.time.dev - t ≤ 1000000000)
    | none => false
  let s := { s with
    cdcExpired := Sparse.set none s.cdcExpired d (some s.time.dev)
    cdcDown := Sparse.set false s.cdcDown d true }.addLog 11 0 31 1 d 0
  .next (if again then (s.fence (.halfDie (2 * d))).fence (.halfDie (2 * d + 1)) else s)

/-- The owning BDC has restarted the CDC: what was held at step 0 may rise again (R472). -/
def execCdcRestartComplete (d : Nat) (s : State) : Result :=
  let s := { s with cdcDown := Sparse.set false s.cdcDown d false }
  .next (s.each ([2 * d, 2 * d + 1].map s.polderOf).dedup fun s n => if (s.polder n).job.isSome then s.restep n else s)

end Sys2Proof.Machine
end

