-- ==== Sys2Proof/Machine/Vault.lean ====
section
/-! DEFINITION. Status words that several readers share, the critical record of the state vault, LOG_READ and LEDGER_READ
(R192, R344, R368, R402). -/

namespace Sys2Proof.Machine

/-! ### Status words -/

/-- UCM_CE_ENTRY of an entry (R192). -/
def CeEntry.code (e : CeEntry) : Nat :=
  2 ^ 63 + e.source * 2 ^ 56 + e.count * 2 ^ 44 + e.sym1 * 2 ^ 38 + e.sym0 * 2 ^ 32 + e.core * 2 ^ 15 + e.word

/-- UCM_ERR_STATUS of a cluster. -/
def Cluster.errWord (c : Cluster) : Nat := c.ueCount * 2 ^ 48 + c.unlogged * 2 ^ 32 + c.ceCount

def chStateCode (c : ChState) : Nat :=
  match c with
  | .trained => 0
  | .retraining => 1
  | .failed => 2
  | .removed => 3

/-- EDGE_CH_STATUS. -/
def State.edgeStatus (s : State) (e : Nat) : Nat :=
  let c := s.edgeCh e
  chStateCode c.state * 2 ^ 62 + (s.stack (e / 32)).band * 2 ^ 60 + min 4 c.badLines.length * 2 ^ 56 + c.ueCount * 2 ^ 48
    + c.retrains * 2 ^ 32 + c.ceCount

/-- EDGE_CH_BADLINE. -/
def EdgeCh.badMask (c : EdgeCh) : Nat := c.badLines.foldl (fun m l => m ||| 2 ^ l) 0

def nbModeCode (m : NbMode) : Nat :=
  match m with
  | .memory => 0
  | .switching => 1
  | .processor => 2

/-- NB_STATUS. -/
def EdgeCh.nbStatus (c : EdgeCh) : Nat :=
  nbModeCode c.mode * 2 ^ 62 + c.queue.length * 2 ^ 57 + c.lastOpc * 2 ^ 40 + c.lastStatus.code * 2 ^ 32 + c.aborts * 2 ^ 16

/-- A write of UCM_ERR_STATUS: CLEAR clears the counts and the table, and every other field is read only (R192).  CDCs
reach the register and no command of the block does. -/
def Cluster.writeErrStatus (c : Cluster) (v : Nat) : Cluster :=
  if bit v 63 then { c with ceCount := 0, unlogged := 0, ueCount := 0, ceEntries := [] } else c

/-- An entry of the error log or of the access-error log in 32 B; an issue check's holds the whole 128-bit operation beside
the failing core and the S-core's number in the cluster (R82, R106).  The layout is a DESIGN CHOICE (log 21). -/
def LogEntry.bytes (e : LogEntry) : List Byte :=
  leBytes 8 e.time ++ leBytes 1 e.code ++ leBytes 1 e.func ++ leBytes 1 e.polder ++ zeros 1
    ++ (if e.code == 2 then leBytes 4 (e.a + e.c % 64 * 2 ^ 24) ++ leBytes 16 e.b
      else leBytes 4 e.c ++ leBytes 8 e.a ++ leBytes 8 e.b)

/-! ### The critical record (R402) -/

def vaultMagic : Nat := 0x54524351

/-- The 11 override counts (R368). -/
def State.overrideCounts (s : State) : List Byte :=
  (List.range 11).flatMap fun i => leBytes 4 (Sparse.get 0 s.ledger.counts i)

/-- Recorded corrections of two or more, the highest counts first. -/
def State.ceValues (s : State) : List Nat :=
  let es := (s.clusters.flatMap fun c => c.2.ceEntries).filter fun e => decide (2 ≤ e.count)
  (sortBy (fun e => 0xFFF - e.count) es).map CeEntry.code

/-- Sections 1-6: type, count, bytes. -/
def State.vaultSections (s : State) : List (Nat × Nat × List Byte) :=
  let errors := s.log.drop (s.log.length - 128)
  let edges := (s.channels.map Prod.fst).filter fun e =>
    let c := s.edgeCh e
    c.ceCount != 0 || c.ueCount != 0 || c.retrains != 0
  [(1, 110, (List.range 110).flatMap fun i => leBytes 8 (s.energyUj i)),
   (2, 24, (List.range 24).flatMap fun n => leBytes 8 (s.polder n).shape ++ leBytes 4 (s.stateWord n) ++ zeros 4
      ++ (imgId (s.polder n).image ++ zeros 16).take 16),
   (3, 15, s.overrideCounts ++ leBytes 4 s.power.refused ++ leBytes 4 s.power.aborted ++ leBytes 4 s.power.replays
      ++ leBytes 4 s.power.lastRefuser ++ zeros 68),
   (4, errors.length, errors.flatMap LogEntry.bytes),
   (5, s.repair.staged.length, s.repair.staged.flatMap fun r =>
      leBytes 1 r.kind ++ leBytes 1 r.unit ++ leBytes 1 r.source ++ zeros 1 ++ leBytes 4 r.loc ++ zeros 8),
   (6, edges.length, edges.flatMap fun e => leBytes 8 (s.edgeStatus e))]

/-- A critical record of a cause (1 SAG, 2 COOLANT_LOSS).  COUNT of section 7 has 32 bits and is to give the entries omitted 'in
its top 32 bits': it gives those alone, and LENGTH the entries present (DEDUCED, log 57). -/
def State.criticalRecord (s : State) (seq cause : Nat) : List Byte :=
  let secs := s.vaultSections
  let used := 64 + 16 * 7 + sumOf (secs.map fun x => x.2.2.length)
  let ces := s.ceValues
  let room := (32768 - used) / 8
  let ce := (ces.take room).flatMap fun v => leBytes 8 v
  let secs := secs ++ [(7, min (ces.length - room) (2 ^ 32 - 1), ce)]
  let dir := (secs.foldl (fun (a : List Byte × Nat) x =>
    (a.1 ++ leBytes 2 x.1 ++ zeros 2 ++ leBytes 4 x.2.1 ++ leBytes 4 a.2 ++ leBytes 4 x.2.2.length, a.2 + x.2.2.length))
    ([], 64 + 16 * 7)).1
  let body := dir ++ secs.flatMap fun x => x.2.2
  let head (crc : Nat) : List Byte :=
    leBytes 4 vaultMagic ++ leBytes 4 seq ++ leBytes 1 cause ++ leBytes 1 7 ++ leBytes 2 s.power.vinMin
      ++ leBytes 4 (64 + body.length) ++ leBytes 8 s.time.dev ++ leBytes 8 s.time.aon ++ leBytes 4 crc ++ zeros 28
  head (crc32c (head 0 ++ body)) ++ body

/-- Writing a record into the next of the eight slots. -/
def State.writeCritical (s : State) (cause : Nat) : State :=
  let seq := s.vaultSeq
  let v := s.vault.drop (s.vault.length - 7) ++ [⟨seq, cause, s.criticalRecord seq cause⟩]
  { s with vault := v, vaultSeq := (seq + 1) % 2 ^ 32 }

/-! ### LOG_READ (R344) -/

/-- A polder of a function's own: any for the PF. -/
def State.ownsPolder (s : State) (f n : Nat) : Bool := f == 0 || (n < 24 && s.vfPolder f == n)

/-- The entries of a log that a function may read, each as bytes. -/
def State.logEntries (s : State) (f log : Nat) : List (List Byte) :=
  let mine (e : LogEntry) : Bool := f == 0 || e.func == f || s.ownsPolder f e.polder
  match log with
  | 0 => (s.log.filter mine).map LogEntry.bytes
  | 1 => (s.clusters.filter fun c => s.ownsPolder f (s.polderOf (halfOf c.1))).map fun c =>
      leBytes 4 c.1 ++ zeros 4 ++ leBytes 8 c.2.errWord
        ++ (List.range 32).flatMap fun i => leBytes 8 ((c.2.ceEntries[i]?).elim 0 CeEntry.code)
  | 2 => if f != 0 then [] else (List.range 1024).map fun e =>
      leBytes 8 (s.edgeStatus e) ++ leBytes 16 (s.edgeCh e).badMask ++ leBytes 8 (s.edgeCh e).nbStatus
  | 3 => if f != 0 then [] else s.vault.map VaultRecord.bytes
  | _ => (s.accLog.filter mine).map LogEntry.bytes

/-- Whole entries while they fit in `room` bytes. -/
def takeWhole : (room : Nat) → List (List Byte) → List (List Byte)
  | _, [] => []
  | room, e :: r => if e.length ≤ room then e :: takeWhole (room - e.length) r else []

/-- LOG_READ (R344). -/
def execLogRead (f : Nat) (s : State) : Result :=
  .next (s.command f 0x70 fun s c =>
    if 4 < c.a 1 then s.refuse c .bound
    else
      let es := (s.logEntries f (c.a 1)).drop (c.a 2)
      let w := if c.out == 0 then [] else takeWhole (64 * c.outLen) es
      s.output c w.flatten { r0 := w.length, r1 := es.length - w.length })

/-! ### LEDGER_READ (R368) -/

/-- Kind and instance of counter `i`, in the order of selector 1. -/
def meterKind (i : Nat) : Nat × Nat :=
  if i < 1 then (0, 0) else if i < 25 then (1, i - 1) else if i < 49 then (2, i - 25) else if i < 61 then (3, i - 49)
  else if i < 93 then (4, i - 61) else if i < 105 then (5, i - 93) else if i < 109 then (6, i - 105) else (7, 0)

/-- A counter's record of selector 1. -/
def State.meterRecord (s : State) (i : Nat) : List Byte :=
  let k := meterKind i
  let m := s.meter i
  let p := s.polder k.2
  leBytes 1 k.1 ++ leBytes 1 k.2 ++ zeros 2 ++ leBytes 4 m.avg1 ++ leBytes 8 (s.energyUj i) ++ leBytes 4 m.avg100
    ++ leBytes 4 m.avg10s ++ leBytes 4 (if k.1 == 2 then Sparse.get 0 s.ledger.quotas k.2 else 0)
    ++ leBytes 4 (if k.1 == 2 then (if p.state == .running then p.step else 0xFF) else 0)

/-- Selector 0: the summary. -/
def State.ledgerSummary (s : State) : List Byte :=
  let l := s.ledger
  let m := s.meter mModule
  leBytes 8 s.time.dev ++ leBytes 4 l.effCap ++ leBytes 1 l.source ++ zeros 3 ++ leBytes 4 l.cap ++ leBytes 4 l.peak
    ++ leBytes 4 l.current ++ leBytes 4 (l.thermalCap.1 / l.thermalCap.2) ++ leBytes 4 (l.supplyCap / 1000) ++ leBytes 4 l.committed
    ++ leBytes 4 (tc 32 l.freeboard) ++ zeros 4 ++ leBytes 8 (s.energyUj mModule) ++ leBytes 4 m.avg1 ++ leBytes 4 m.avg100
    ++ leBytes 4 m.avg10s ++ leBytes 4 s.waiting.length ++ zeros 56

/-- Rails flagged ESTIMATOR_FAULT, one bit per power stage (AVSBus segment) of theirs: half-die rails 0-23, UCM 24-35,
edge stacks 36-67, link groups 68-79, base dies 80-83. -/
def railStage (r : Nat) : Nat :=
  if r < 24 then r / 2 / 3 else if r < 36 then 4 + (r - 24) / 3 else if r < 68 then 4 + (r - 36) / 8
  else if r < 80 then 4 + (r - 68) / 3 else 4 + (r - 80)

def State.faultRails (s : State) : Nat :=
  (s.ledger.rails.filter fun r => r.2.fault).foldl (fun m r => m ||| 2 ^ railStage r.1) 0

/-- LEDGER_READ (R368). -/
def execLedgerRead (f : Nat) (s : State) : Result :=
  .next (s.command f 0x42 fun s c =>
    let sel := c.a 1
    if 2 < sel then s.refuse c .bound
    else if f != 0 && sel != 1 then s.refuse c .denied
    else
      let l := match sel with
        | 0 => s.ledgerSummary
        | 1 => if f == 0 then leBytes 4 110 ++ zeros 60 ++ (List.range 110).flatMap s.meterRecord
            else leBytes 4 1 ++ zeros 60 ++ s.meterRecord (mPolder (s.vfPolder f))
        | _ => leBytes 4 s.ledger.frozen ++ leBytes 4 s.faultRails ++ s.overrideCounts ++ zeros 12
      s.output c l {})

end Sys2Proof.Machine
end

