-- ==== Sys2Proof/Machine/Resets.lean ====
section
/-! DEFINITION. What losing the supply, switching the half-dies off and self-refresh do (R379, R384, R388, R389, R405). -/

namespace Sys2Proof.Machine

/-- Everything is at its cold-reset value except fuses, flash, the state vault, what lies outside the module, and the
commands that wait (R405): the module after its supply is gone. -/
def State.blackout (s : State) : State :=
  let s := s.interrupted
  { pending := s.pending
    fresh := s.fresh
    slotPins := s.slotPins
    pins := s.pins
    hostMem := s.hostMem
    hostErr := s.hostErr
    msixSent := s.msixSent
    aerErrors := s.aerErrors
    fuses := s.fuses
    log := s.log
    vault := s.vault
    vaultSeq := s.vaultSeq
    vaultCounters := s.vaultCounters
    recordDue := s.recordDue
    repair := { fused := s.repair.fused, copyA := s.repair.copyA, copyB := s.repair.copyB }
    trust := {
      flashImage := s.trust.flashImage
      flashConfig := s.trust.flashConfig
      certs := s.trust.certs
      flashData := s.trust.flashData
      burnLeft := s.trust.burnLeft }
    pcie := { perst := s.pcie.perst }
    time := { refclk := s.time.refclk } }

/-- The contents of half-dies that go OFF or into NAP are lost: cores and slot tables hold undefined values (log 5), and
router queues and staging are empty (R389). -/
def State.loseHalfDies (s : State) (hs : List Nat) : State :=
  let s := s.junkCores hs false
  { s with clusters := Sparse.mapWhere {} (fun cl => hs.contains (halfOf cl)) Cluster.discard s.clusters }

/-- Half-dies go OFF with their rails, whose requests end, those of half-dies that were OFF and to be powered too (R389, R397); the tide counter restarts when they are powered
again (R500). -/
def State.offHalfDies (s : State) (hs : List Nat) : State :=
  let on := hs.filter fun h => (s.halfDie h).power != .off
  let s := (s.loseHalfDies on).each on fun s h => s.onHalfDie h fun x => { x with power := .off }
  { s with ledger := { s.ledger with
    rails := hs.foldl (fun m h => Sparse.modify {} m h fun r => { r with sent := none, queued := none }) s.ledger.rails } }

/-- The UCM of the dies that have it on enters self-refresh, its contents kept (R197). -/
def State.ucmRefresh (s : State) (ds : List Nat) : State :=
  s.each ds fun s d => if (s.ucmDie d).on then s.onUcmDie d fun x => { x with selfRefresh := true } else s

/-- Edge stacks enter self-refresh, their contents kept. -/
def State.stacksRefresh (s : State) (es : List Nat) : State :=
  s.each es fun s e => if (s.stack e).on then s.onStack e fun x => { x with selfRefresh := true } else s

end Sys2Proof.Machine
end

