-- ==== Sys2Proof/Machine/Heat.lean ====
section
/-! DEFINITION. Sensors, bands, the weir, shutdowns, cold limits, thermal resistance, rotation and coolant loss
(R184, R209, R210, R355, R369-R387). -/

namespace Sys2Proof.Machine

/-! ### Readings and pairs (R369-R372) -/

/-- Every reading of a sample, in sensor order. -/
def rawReadings (r : Readings) : List Int := r.logic ++ r.dram ++ r.base ++ r.stack ++ [r.inlet, r.outlet]

/-- Inside the plausibility range of a diode or thermistor, and within 10 K of the previous sample (R371). -/
def plausible (i : Nat) (before : Option Int) (v : Int) : Bool :=
  (if i < 1920 then decide (-40000 ≤ v) && decide (v ≤ 150000) else decide (-10000 ≤ v) && decide (v ≤ 90000))
    && (match before with
        | some b => decide (v - b ≤ 10000) && decide (b - v ≤ 10000)
        | none => true)

/-- Adjacent positions of a grid `w` wide and `h` high. -/
def gridNeighbours (w h k : Nat) : List Nat :=
  (List.range (w * h)).filter fun j =>
    j != k && decide (j % w ≤ k % w + 1) && decide (k % w ≤ j % w + 1) && decide (j / w ≤ k / w + 1)
      && decide (k / w ≤ j / w + 1)

/-- The neighbouring pairs of a pair (R372). -/
def pairNeighbours (q : Nat) : List Nat :=
  if q < 576 then (gridNeighbours 8 6 (q % 48)).map (q / 48 * 48 + ·)
  else if q < 864 then
    let l := (q - 576) / 6
    let k := (q - 576) % 6
    (gridNeighbours 2 3 k).map (576 + 6 * l + ·)
      ++ (if 0 < l % 4 then [576 + 6 * (l - 1) + k] else []) ++ (if l % 4 < 3 then [576 + 6 * (l + 1) + k] else [])
  else if q < 896 then ((List.range 8).map (864 + (q - 864) / 8 * 8 + ·)).filter (· != q)
  else [if q % 2 == 0 then q + 1 else q - 1]

/-- Unit kind and unit number of a pair, as events give them (R387). -/
def pairUnit (q : Nat) : Nat × Nat :=
  if q < 576 then (0, q / 48) else if q < 864 then (1, (q - 576) / 6) else if q < 896 then (2, (q - 864) / 8)
  else (3, (q - 896) / 2)

/-- The pairs of a unit: dies 0-11, layers 12-59, base dies 60-63, stacks 64-95. -/
def unitPairs (u : Nat) : List Nat :=
  if u < 12 then (List.range 48).map (48 * u + ·)
  else if u < 60 then (List.range 6).map (576 + 6 * (u - 12) + ·)
  else if u < 64 then (List.range 8).map (864 + 8 * (u - 60) + ·)
  else (List.range 2).map (896 + 2 * (u - 64) + ·)

def pairUnitIndex (q : Nat) : Nat :=
  let u := pairUnit q
  (match u.1 with
   | 0 => 0
   | 1 => 12
   | 2 => 60
   | _ => 64) + u.2

/-- The temperature that a unit without sensors is taken to have: its orderly-shutdown threshold, or that of R374 for a
base die. -/
def unitThreshold (u : Nat) : Int := if u < 12 then 110000 else if u < 60 then 105000 else if u < 64 then 110000 else 105000

def hotter (l : List Int) : Option Int :=
  match l with
  | [] => none
  | v :: r => some (r.foldl max v)

/-- One round of R372's substitution: a pair without a value takes the hottest of its neighbours plus 5 K. -/
def fillRound (l : List (Option Int)) : List (Option Int) :=
  (l.zipIdx).map fun x => match x.1 with
    | some v => some v
    | none => (hotter ((pairNeighbours x.2).filterMap fun n => (l[n]?).join)).map (· + 5000)

def fillRounds : (n : Nat) → List (Option Int) → List (Option Int)
  | 0, l => l
  | n + 1, l => if l.all Option.isSome then l else fillRounds n (fillRound l)

/-- A unit none of whose pairs and of whose pairs' neighbours has a valid sensor. -/
def unitBlind (l : List (Option Int)) (u : Nat) : Bool :=
  (unitPairs u).all fun q => ((l[q]?).join).isNone && (pairNeighbours q).all fun n => ((l[n]?).join).isNone

/-- A THERMAL event (R387). -/
def State.thermalEvent (s : State) (kind unitKind unit polder : Nat) (ended : Bool) : State :=
  s.event polder (kind + unitKind * 2 ^ 8 + unit * 2 ^ 16) (b2n ended) 0x07

/-- STATUS_WORD TEMPERATURE (R489). -/
def State.noteHeat (s : State) : State := { s with smbus := { s.smbus with temperature := true } }

/-- Unit of a sensor. -/
def sensorUnit (i : Nat) : Nat × Nat := if i < 1920 then pairUnit (i / 2) else (4, i - 1920)

/-- A new flag of a sensor or a pair: its event, and an entry of the error log (R372). -/
def State.flagRaised (s : State) (unit : Nat × Nat) (sensor pair : Nat) : State :=
  (s.addLog 7 0 31 sensor pair 0).thermalEvent 5 unit.1 unit.2 0xFFFF false

/-- The sensors of a sample: validity, flags of pairs, governing values (R370-R372). -/
def State.readSensors (s : State) (r : Readings) : State :=
  let t := s.thermal
  let raw := rawReadings r
  let before := Sparse.range none t.last 0 1922
  let was := Sparse.range 0 t.invalid 0 1922
  let ok := (raw.zip before).zipIdx.map fun x => plausible x.2 x.1.2 x.1.1
  let now := (was.zip ok).map fun x => if x.2 then x.1 - 1 else 100
  let vals := (raw.zip now).map fun x => if x.2 == 0 then some x.1 else none
  let pairs := chunks 2 (vals.take 1920)
  let known := pairs.map fun p => hotter (p.filterMap id)
  let apart (p : List (Option Int)) : Option Bool := match p with
    | [some a, some b] => some (decide (4000 < a - b) || decide (4000 < b - a))
    | _ => none
  let flags := (pairs.zip (Sparse.range false t.flagged 0 960)).map fun x => (apart x.1).getD x.2
  let blind := (List.range 96).map (unitBlind known)
  let seeded := known.zipIdx.map fun x =>
    if (blind[pairUnitIndex x.2]?).getD false then some (unitThreshold (pairUnitIndex x.2)) else x.1
  let gov := (fillRounds 16 seeded).map fun v => v.getD 0
  let newSensors := ((was.zip now).zipIdx.filter fun x => x.1.1 == 0 && x.1.2 != 0).map Prod.snd
  let newPairs := ((flags.zip (Sparse.range false t.flagged 0 960)).zipIdx.filter fun x => x.1.1 && !x.1.2).map Prod.snd
  let s := { s with thermal := { t with
    last := Sparse.ofList none 0 (raw.map some)
    invalid := Sparse.ofList 0 0 now
    flagged := Sparse.ofList false 0 flags
    governing := Sparse.ofList 0 0 gov
    blind := Sparse.ofList false 0 blind } }
  let s := s.each newSensors fun s i => s.flagRaised (sensorUnit i) i 0xFFFF
  s.each newPairs fun s q => s.flagRaised (pairUnit q) 0xFFFF q

/-! ### Temperatures of units -/

/-- A thermistor's reading while it is valid. -/
def State.thermistor (s : State) (i : Nat) : Option Int :=
  if Sparse.get 0 s.thermal.invalid i == 0 then Sparse.get none s.thermal.last i else none

def State.dieLogic (s : State) (d : Nat) : Int := s.hottest (unitPairs d)
def State.dieDram (s : State) (d : Nat) : Int := s.hottest ((List.range 24).map (576 + 24 * d + ·))
def State.baseTemp (s : State) (b : Nat) : Int := s.hottest (unitPairs (60 + b))
def State.stackTemp (s : State) (e : Nat) : Int := s.hottest (unitPairs (64 + e))

/-- The coolest governing value of some pairs. -/
def State.coolest (s : State) (l : List Nat) : Int :=
  (l.map fun q => Sparse.get 0 s.thermal.governing q).foldl min 1000000

/-- T_in and the fallback it rests on (R373). -/
def State.inletTemp (s : State) : Int × Nat :=
  match s.thermistor 1920 with
  | some v => (v, 0)
  | none => match s.thermistor 1921 with
    | some v => (v, 1)
    | none => (if s.fuses.coolant == 1 then 55000 else 45000, 2)

/-- The fallback in force, with its event when one begins. -/
def State.noteFallback (s : State) : State :=
  let k := s.inletTemp.2
  let old := s.thermal.fallback
  let s := { s with thermal := { s.thermal with fallback := k } }
  if k != old && k != 0 then s.thermalEvent 6 4 (k - 1) 0xFFFF false else s

/-! ### The weir (R375, R377) -/

/-- Pairs whose governing values the weir of a polder looks at, with the start temperature of each. -/
def Polder.weirPairs (p : Polder) : List (Nat × Int) :=
  (p.halfDies.flatMap fun h => (logicPairs h ++ basePairs h).map fun q => (q, 98000)) ++
    p.halfDies.flatMap fun h => (dramPairs h).map fun q => (q, 90000)

/-- The pair that exceeds its start temperature most, with the excess. -/
def State.weirWorst (s : State) (l : List (Nat × Int)) : Nat × Int :=
  l.foldl (fun a x =>
    let e := Sparse.get 0 s.thermal.governing x.1 - x.2
    if a.2 < e then (x.1, e) else a) (0, -1000000)

/-- The die whose CDC sees a unit of a polder: a compute die itself, a DRAM layer's, the first of the polder over a base die. -/
def Polder.unitDie (p : Polder) (u : Nat × Nat) : Nat :=
  match u.1 with
  | 0 => u.2
  | 1 => u.2 / 4
  | _ => (p.dies.find? fun d => d / 3 == u.2).getD (p.dies.headD 0)

/-- The weir of one polder at a sample: the excess for the next tide mark, and its beginning, which the hot unit's CDC reports
(R19), or its end. -/
def State.weirPolder (s : State) (n : Nat) : State :=
  let p := s.polder n
  let w := s.weirWorst p.weirPairs
  let unit := pairUnit w.1
  let s := s.onPolder n fun p => { p with weirNext := if 0 < w.2 then some w.2 else none }
  if decide (0 < w.2) && p.weirs then
    if p.weirOn then s
    else
      let quiet := match p.weirEnd with
        | some t => decide (s.time.dev - t < 100000000)
        | none => false
      let s := s.boardReport (p.unitDie unit) [actionWord 2 (p.unitDie unit)]
      let s := ((s.onPolder n fun p => { p with weirOn := true, weirQuiet := quiet }).countUp cWeir).noteHeat
      if quiet then s else s.thermalEvent 1 unit.1 unit.2 n false
  else if p.weirOn then
    let s := s.onPolder n fun p => { p with weirOn := false, weirEnd := some s.time.dev }
    if p.weirQuiet then s else s.thermalEvent 1 unit.1 unit.2 n true
  else s

/-! ### Bands (R184, R209, R210) -/

/-- The band after a sample: it rises at its upper bound and falls 2 K below its lower bound. -/
def nextBand (t : Int) : (fuel : Nat) → Nat → Nat
  | 0, b => b
  | n + 1, b =>
    let upper : Int := if b == 0 then 10000 else if b == 1 then 85000 else 95000
    let lower : Int := if b == 1 then 10000 else if b == 2 then 85000 else 95000
    if b < 3 && decide (upper ≤ t) then nextBand t n (b + 1)
    else if 0 < b && decide (t ≤ lower - 2000) then nextBand t n (b - 1)
    else b

/-- Bands of the dies and stacks, and the retrains a stack's temperature calls for.  The temperature at the training of a
bring-up is that of the first sample after it (DESIGN CHOICE, log 29: no sample is taken while it trains). -/
def State.setBands (s : State) : State :=
  let s := s.each (List.range 12) fun s d => s.onUcmDie d fun x => { x with band := nextBand (s.dieDram d) 4 x.band }
  s.each (List.range 32) fun s e =>
    let t := s.stackTemp e
    let s := s.onStack e fun x => { x with band := nextBand t 4 x.band, trainedAt := some (x.trainedAt.getD t) }
    let base := (s.stack e).trainedAt.getD t
    s.each ((List.range 32).map (32 * e + ·)) fun s ch =>
      let c := s.edgeCh ch
      let d := t - c.trainedAt.getD base
      if c.state == .trained && (decide (20000 ≤ d) || decide (d ≤ -20000)) then
        s.setEdgeCh ch { c with retrainDue := true }
      else s

/-! ### Orderly shutdown (R378) -/

/-- Floodgates of the polders on a die, half-dies OFF, UCM in self-refresh. -/
def State.shutDie (s : State) (d : Nat) : State :=
  let hs := [2 * d, 2 * d + 1]
  let ps := (hs.map s.polderOf).dedup.filter fun n => decide (n < 24)
  let s := s.each ps fun s n => s.startGate 25 n
  let s := ((s.offHalfDies hs).ucmRefresh [d]).boardReport d [actionWord 3 d]
  let s := { s with
    thermal := { s.thermal with shut := Sparse.set false s.thermal.shut d true }
    smbus := { s.smbus with shutLogged := true } }
  ((s.countUp cShutdown).noteHeat.addLog 8 0 31 0 d 0).thermalEvent 2 0 d 0xFFFF false

/-- An edge stack in self-refresh, its near-bank commands ended. -/
def State.shutStack (s : State) (e : Nat) : State :=
  let s := s.each ((List.range 32).map (32 * e + ·)) State.nbAllFail
  let s := s.onStack e fun x => { x with shut := true, selfRefresh := true }
  let s := { s with smbus := { s.smbus with shutLogged := true } }
  ((s.countUp cShutdown).noteHeat.addLog 8 0 31 3 e 0).thermalEvent 2 3 e 0xFFFF false

/-- Shutdowns that begin and end at a sample. -/
def State.shutdowns (s : State) : State :=
  let s := s.each (List.range 12) fun s d =>
    if Sparse.get false s.thermal.shut d then
      if s.dieLogic d < 88000 && s.dieDram d < 80000 then
        { s with thermal := { s.thermal with shut := Sparse.set false s.thermal.shut d false } }.thermalEvent 2 0 d 0xFFFF true
      else s
    else if 110000 ≤ s.dieLogic d || 105000 ≤ s.dieDram d then s.shutDie d else s
  s.each (List.range 32) fun s e =>
    if (s.stack e).shut then
      if s.stackTemp e < 95000 then
        (s.onStack e fun x => { x with shut := false, selfRefresh := s.thermal.coolantHold }).thermalEvent 2 3 e 0xFFFF true
      else s
    else if 105000 ≤ s.stackTemp e then s.shutStack e else s

/-! ### Cold limits (R380) -/

def State.coldLimits (s : State) : State :=
  let s := s.each (List.range 12) fun s d =>
    let t := s.coolest (unitPairs d ++ (List.range 24).map (576 + 24 * d + ·))
    if Sparse.get false s.thermal.cold d then
      if 12000 ≤ t then
        { s with thermal := { s.thermal with cold := Sparse.set false s.thermal.cold d false } }.thermalEvent 3 0 d 0xFFFF true
      else s
    else if t < 10000 then
      let s := { s with thermal := { s.thermal with cold := Sparse.set false s.thermal.cold d true } }
      (s.countUp cColdHold).noteHeat.thermalEvent 3 0 d 0xFFFF false
    else s
  match s.thermistor 1920 with
  | none => s
  | some v =>
    if s.thermal.condensation then
      { s with thermal := { s.thermal with condensation := decide (v < 16000) } }
    else if v < 15000 then
      { s with thermal := { s.thermal with condensation := true } }.thermalEvent 4 4 0 0xFFFF false
    else s

/-! ### Coolant loss (R383-R385) -/

/-- Cause 1 RATE, 2 FLOW_PULSE, 3 BASE_DIE.  In P3 no unit draws and nothing acts on it (DEDUCED, log 43); a bring-up that
it meets restarts when the hold ends (R428). -/
def State.coolantLoss (s : State) (cause : Nat) : State :=
  if s.thermal.coolantHold || s.power.sagHold || !s.power.aon || s.power.pkg == .p3 then s
  else
    -- step 1: every polder to step 0, and admission stops
    let s := s.each (List.range 24) fun s n => s.onPolder n fun p =>
      if p.exists_ then { p with rails := [], nextStep := some 0 } else p
    let s := { s with thermal := { s.thermal with coolantHold := true, cause := cause }
                      boot := { s.boot with restart := s.boot.running } }
    -- steps 2 and 3
    let s := (s.startPackageGate 25).writeCritical 2
    -- step 4
    let s := ((s.offHalfDies (List.range 24)).ucmRefresh (List.range 12)).stacksRefresh (List.range 32)
    let s := s.linksSilent .down
    (s.countUp cCoolantLoss).noteHeat.event 0xFFFF cause 0 0x08

/-- The conditions of R385, apart from the 10 s they must have held. -/
def State.coolantGood (s : State) : Bool :=
  (match s.thermistor 1920 with
   | some v => decide (v ≤ if s.fuses.coolant == 1 then 55000 else 45000)
   | none => false)
    && ((List.range 12).all fun d => decide (s.dieLogic d < 60000)) && (!s.thermal.armed || s.thermal.flowing)

/-- COOLANT_HOLD_EXIT (R385). -/
def execCoolantHoldExit (s : State) : Result :=
  if !s.thermal.coolantHold || !s.trust.running || !s.coolantGood then .next s
  else
    let s := { s with thermal := { s.thermal with coolantHold := false } }
    let s := s.each (List.range 12) fun s d =>
      if Sparse.get false s.thermal.shut d then s else s.onUcmDie d fun x => { x with selfRefresh := false }
    let s := s.each (List.range 32) fun s e =>
      if (s.stack e).shut then s else s.onStack e fun x => { x with selfRefresh := false }
    .next ((s.linksSilent .detect).event 0xFFFF s.thermal.cause 1 0x08)

/-- An edge on FLOW_PULSE, `sinceLastUs` after the last one that counted: edges closer than 20 µs are ignored; 16 within
1 s arm the monitor (R383, R484); a module without supply ignores the pin (R481). -/
def execFlowPulseEdge (sinceLastUs : Nat) (s : State) : Result :=
  if sinceLastUs < 20 || !s.power.aon then .next s
  else
    let es := ((s.thermal.edges.map (· + sinceLastUs)).filter fun a => decide (a ≤ 1000000)) ++ [0]
    .next { s with thermal := { s.thermal with
      edges := es.drop (es.length - 16), armed := s.thermal.armed || decide (16 ≤ es.length), flowing := true } }

/-- 20 ms without an edge (R383). -/
def execFlowPulseTimeout (s : State) : Result :=
  if !s.thermal.armed then .next s
  else .next ({ s with thermal := { s.thermal with flowing := false, edges := [] } }.coolantLoss 2)

/-! ### Rate of rise (R383) -/

/-- Energy of a site over the last millisecond, pJ: its estimated power. -/
def State.siteFine (s : State) (d : Nat) : Nat :=
  sumOf (s.meter (mHalf (2 * d))).fine + sumOf (s.meter (mHalf (2 * d + 1))).fine + sumOf (s.meter (mUcm d)).fine

/-- What a sample adds to the trend of every site. -/
def State.noteTrend (s : State) : State :=
  s.each (List.range 12) fun s d => { s with thermal := { s.thermal with
    trend := Sparse.modify [] s.thermal.trend d fun l => ((s.dieLogic d, s.siteFine d) :: l).take 200 } }

/-- A site's logic governing value has risen by more than 20 K/s over the last 20 ms, and its power by no more than 10 %:
the trend before the sample reaches back 200 samples.  Power is that of the last millisecond at either end (DESIGN CHOICE,
log 60). -/
def State.rising (s : State) (d : Nat) : Bool :=
  match (Sparse.get [] s.thermal.trend d)[199]? with
  | some old => decide (400 < s.dieLogic d - old.1) && decide (10 * s.siteFine d ≤ 11 * old.2)
  | none => false

/-! ### The sample (R370) -/

/-- What rotation has to know of a sample: an equal polder at its weir start, or within 10 K of it (R382). -/
def State.noteRotation (s : State) : State :=
  if !s.thermal.rotate then s
  else
    let ps := (List.range 24).filter fun n => decide (2 ≤ (s.equalPolders n).length) && (s.equalPolders n).contains n
    let e := ((ps.map fun n => (s.weirWorst (s.polder n).weirPairs).2)).foldl max (-1000000)
    { s with thermal := { s.thermal with
      rotHot := s.thermal.rotHot || decide (0 ≤ e), rotWarm := s.thermal.rotWarm || decide (-10000 < e) } }

/-- SENSOR_SAMPLE: sensors, then every thermal response in the order of their stages. -/
def execSensorSample (r : Readings) (s : State) : Result :=
  if !s.power.culverts then .next s
  else
    let s := (s.readSensors r).noteFallback
    let s := s.each (List.range 24) State.weirPolder
    let s := s.setBands.shutdowns.coldLimits.noteRotation
    let rise := (List.range 12).any s.rising
    let s := s.noteTrend
    .next (
      if rise then s.coolantLoss 1
      else if (List.range 4).any fun b => decide (110000 ≤ s.baseTemp b) then s.coolantLoss 3
      else s)

/-! ### The hardware trip (R379) -/

/-- THERMTRIP_N is asserted and every rail is cut until the 48 V input is removed.  Unit kinds: 0 compute die, 2 base
die, 3 edge base die. -/
def execHardwareTrip (unitKind unit : Nat) (s : State) : Result :=
  if !s.power.aon then .next s
  else
    let b := s.blackout
    .next { b with power := { trip := some (unitKind, unit), tripLatched := s.power.tripLatched } }

/-! ### Thermal resistance and the thermal cap (R3, R355, R381) -/

/-- Energy of a site over the last 100 ms, pJ. -/
def State.siteEnergy (s : State) (d : Nat) : Nat :=
  sumOf (s.meter (mHalf (2 * d))).mid + sumOf (s.meter (mHalf (2 * d + 1))).mid + sumOf (s.meter (mUcm d)).mid

/-- One measurement of a site: `dt` in thousandths of a kelvin, `e` its energy over 100 ms in pJ. -/
def Site.measure (x : Site) (dt : Int) (e : Nat) : Site :=
  if e < 3000000000000 then x
  else
    let r : Int := dt * 100000000000000 / e
    if r < 50000 || 1000000 < r then
      let n := x.discards + 1
      { x with discards := n, flagged := true, rth := if 10 ≤ n then 400000 else x.rth }
    else
      let acc := x.accepted ++ [r.toNat]
      let acc := acc.drop (acc.length - 8)
      { rth := max r.toNat (sumOf acc / acc.length), accepted := acc, discards := 0, flagged := false }

/-- Σ of the site terms (95 °C − T_in − 3 K) / R_th as a fraction of watts. -/
def State.siteSum (s : State) (t : Int) : Nat × Nat :=
  (List.range 12).foldl (fun a d =>
    let r := (Sparse.get {} s.thermal.sites d).rth
    let n := (92000 - t).toNat * 1000
    (a.1 * r + n * a.2, a.2 * r)) (0, 1)

/-- The thermal cap as a fraction of watts. -/
def State.thermalCapNow (s : State) : Nat × Nat :=
  let t := s.inletTemp.1
  let q := s.siteSum t
  let ceiling : Nat × Nat := (max 3600000 (6000000 - 240 * (t - 45000)).toNat, 1000)
  if s.fuses.coolant == 1 && decide (45000 < t) && fracLe ceiling q then ceiling else q

/-- A 10-bit temperature code of THERM_STATUS, in 0.25 °C. -/
def tempCode (v : Option Int) : Nat := (v.map fun t => tc 10 (t / 250)).getD 0x200

/-- A kind of sensor has a valid one in [lo, hi). -/
def State.anyValid (s : State) (lo hi : Nat) : Bool :=
  decide (sumOf ((s.thermal.invalid.filter fun e => decide (lo ≤ e.1) && decide (e.1 < hi)).map fun _ => 1) < hi - lo)
    && !s.thermal.last.isEmpty

/-- Bits of STATUS_WORD whose cause is still present set themselves again (R489). -/
def State.relatch (s : State) : State :=
  let hot := s.thermal.coolantHold || s.thermal.cold.any (·.2) || s.thermal.shut.any (·.2)
    || (s.edgeStacks.any fun k => k.2.shut) || s.polders.any fun p => p.2.weirOn
  { s with smbus := { s.smbus with
    vinUv := s.smbus.vinUv || s.power.sagHold
    temperature := s.smbus.temperature || hot
    mfr := s.smbus.mfr || s.boot.failed } }

/-- A sensor or a pair is flagged (R371, R372). -/
def State.sensorFault (s : State) : Bool :=
  s.thermal.invalid.any (fun e => e.2 != 0) || s.thermal.flagged.any fun e => e.2

/-- POLICY, SENSOR_FAULT, FLOW_ARMED, CONDENSATION and COOLANT_HOLD of THERM_STATUS (R387). -/
def State.thermFlags (s : State) : Nat :=
  let t := s.thermal
  b2n t.rotate * 16 + b2n s.sensorFault * 8 + b2n t.armed * 4 + b2n t.condensation * 2 + b2n t.coolantHold

/-- THERMAL_RESISTANCE_UPDATE, every 100 ms; the SMBus status bits follow at the same rate. -/
def execThermalResistanceUpdate (s : State) : Result :=
  let s := s.relatch
  if !s.power.culverts then .next s
  else
    let t := s.inletTemp
    let s := if t.2 != 0 then s else s.each (List.range 12) fun s d =>
      let sites := Sparse.modify {} s.thermal.sites d fun x => x.measure (s.dieLogic d - t.1) (s.siteEnergy d)
      { s with thermal := { s.thermal with sites := sites } }
    let s := { s with
      thermal := { s.thermal with
        inlet := tempCode (s.thermistor 1920)
        outlet := tempCode (s.thermistor 1921)
        hotLogic := tempCode (if s.anyValid 0 1152 then some (s.hottest (List.range 576)) else none)
        hotDram := tempCode (if s.anyValid 1152 1728 then some (s.hottest ((List.range 288).map (576 + ·))) else none)
        flags := s.thermFlags }
      ledger := { s.ledger with thermalCap := s.thermalCapNow, capKnown := true } }
    let old := s.ledger.effCap
    let s := s.updateCap
    .next (if s.ledger.effCap != old then s.plan else s)

/-! ### Policy and rotation (R376, R382) -/

/-- THERMAL_POLICY_SET. -/
def execThermalPolicySet (f : Nat) (s : State) : Result :=
  .next (s.command f 0x43 fun s c =>
    if 1 < c.a 1 || c.a 2 < 10 || 200 < c.a 2 then s.refuse c .bound
    else { s with thermal := { s.thermal with rotate := c.a 1 == 1, slope := c.a 2 } }.answer c {})

/-- The interval after a rotation and whether a bound held it. -/
def nextInterval (lo hi now : Nat) (hot cool : Bool) : Nat × Bool :=
  let want := if hot then now / 2 else if cool then 2 * now else now
  let got := max lo (min hi want)
  (got, lo == hi || got != want)

/-- ROTATION: each group of equal polders moves to its next member, and the interval adapts. -/
def execRotation (s : State) : Result :=
  let b := s.ledger.rotation
  if !s.thermal.rotate || !s.trust.running || (b.lo == 0 && b.hi == 0) then .next s
  else
    let s := s.each (List.range 24) fun s n =>
      let g := s.equalPolders n
      if g.head? != some n || g.length < 2 then s
      else
        let key := (s.kin n).headD n
        let next := (g.find? fun m => decide (s.rotationAt key < m)).getD n
        { s with thermal := { s.thermal with rotatedTo := Sparse.set 31 s.thermal.rotatedTo key next } }
    let i := nextInterval b.lo.toNat b.hi.toNat s.thermal.interval s.thermal.rotHot (!s.thermal.rotWarm)
    .next ({ s with thermal := { s.thermal with interval := i.1, rotHot := false, rotWarm := false } }.freeze 4 i.2)

end Sys2Proof.Machine
end

