-- ==== Sys2Proof/Machine/MemInit.lean ====
section
/-! DEFINITION. MEM_INIT, NEAR_BANK_MODE and KV_SPACE_CONFIG (R189, R199, R215, R222, R225, R227, R242-R244, R343). -/

namespace Sys2Proof.Machine

def State.anyRunning (s : State) : Bool := (List.range 24).any fun n => (s.polder n).state == .running

/-! ### MEM_INIT of under-core memory (R188, R189) -/

/-- Clearing the valid bits of words [w, w + n) of every slice whose core `sel` selects, with their merge entries. -/
def State.ucmClearAll (s : State) (sel : Nat → Bool) (w n : Nat) : State :=
  let inside (x : Nat) : Bool := decide (w ≤ x) && decide (x < w + n)
  let goneW (k : Nat) : Bool := sel (k / sliceWords) && inside (k % sliceWords)
  { s with
    ucm := Sparse.drop (fun a => sel (a / sliceBytes) && inside (a % sliceBytes / 32)) s.ucm
    ucmValid := Sparse.drop goneW s.ucmValid
    ucmBad := Sparse.drop goneW s.ucmBad
    merges := Sparse.mapWhere [] sel (fun l => l.filter fun m => !inside m.word) s.merges }

/-- Bits set in a mask of 64. -/
def popCount64 (m : Nat) : Nat := ((List.range 64).filter (bit m)).length

/-- MEM_INIT, TARGET 0: on a polder, the slices of its running rows; on 31, every slice of the package. -/
def execMemInitUcm (f : Nat) (s : State) : Result :=
  .next (s.serve_ f (fun o a1 => o == 0x30 && a1 == 0) fun s c =>
    let n := c.a 2
    let off := c.a 3
    let words := c.a 4
    let mask := c.a64 5
    let p := s.polder n
    let whole := n == 31
    let sel (core : Nat) : Bool := bit mask (core % 64) && (whole || p.runs (clusterOf core))
    let dies := (List.range 12).filter fun d => whole || p.holds? (2 * d) || p.holds? (2 * d + 1)
    match firstFail [
        (mask == 0 || words == 0, .badLength),
        (off % 32 != 0, .align),
        (decide (24576 < words) || decide (sliceBytes < off + 32 * words), .bound)] with
    | some st => s.refuse c st
    | none => match if whole then none else s.polderFail n false with
      | some st => s.refuse c st
      | none =>
        if (if whole then s.anyRunning else p.state == .running || p.state == .resetting || p.pending) then s.refuse c .busy
        else if dies.any s.ucmOff then s.refuse c .domainOff
        else
          let rows := sumOf ((List.range 24).map fun h => (s.halfDie h).rows)
          let slices := (if whole then 24 * rows else p.clusters.length) * popCount64 mask
          (s.ucmClearAll sel (off / 32) words).answer c { polder := if whole then 0xFFFF else n, r0 := words * slices })

/-! ### MEM_INIT of the edge space (R199, R215) -/

/-- Basin lines whose memory-mode address `gone` selects leave without a write-back. -/
def State.dropLines (s : State) (gone : (ch off : Nat) → Bool) : State :=
  { s with basins := Sparse.mapWhere {} (fun _ => true) (fun b =>
      { b with lines := b.lines.filter fun e => match e.2 with
        | some x => !gone x.ch (128 * lineOf (e.1 / 16) x.tag)
        | none => false }) s.basins }

/-- Zero bursts with valid check bits over every burst that `gone` selects (R215). -/
def State.edgeZero (s : State) (gone : (ch off : Nat) → Bool) : State :=
  { s.dropLines gone with
    edge := Sparse.drop (fun k => gone (k / 0x60000000) (k % 0x60000000)) s.edge
    edgeBad := Sparse.drop (fun k => gone (k / 0x1800000) (k % 0x1800000 * 64)) s.edgeBad }

/-- Live channels of the package, and of a base die. -/
def State.liveOf (s : State) (l : List Nat) : List Nat := l.filter fun e => (s.edgeCh e).state != .removed

/-- A granule's channels, by domain: base address and live channels (R199). -/
def State.domains (s : State) : List (Nat × List Nat) :=
  if s.intlvPkg then [(0, s.liveOf (List.range 1024))]
  else (List.range 4).map fun b => (b * (256 * s.chBytes), s.liveOf ((List.range 256).map (256 * b + ·)))

/-- Channels that a memory-mode range touches. -/
def State.touched (s : State) (a n : Nat) : List Nat :=
  s.domains.flatMap fun d =>
    let lo := max a d.1
    let hi := min (a + n) (d.1 + d.2.length * s.chBytes)
    if hi ≤ lo then []
    else if d.2.length * 4096 ≤ hi - lo then d.2
    else ((List.range ((hi - lo) / 4096)).filterMap fun i => (s.home (lo + 4096 * i)).map Prod.fst).dedup

/-- The range covers the whole edge space. -/
def State.wholeEdge (s : State) (a n : Nat) : Bool :=
  let backedEnd := (s.domains.map fun d => d.1 + d.2.length * s.chBytes).foldl max 0
  a == 0 && (n == 1024 * s.chBytes || n == backedEnd)

/-- Every granule of a range is backed: it ends within one domain's backed part, or covers whole domains. -/
def State.edgeBacked (s : State) (a n : Nat) : Bool :=
  s.wholeEdge a n || (sumOf (s.domains.map fun d => min (a + n) (d.1 + d.2.length * s.chBytes) - max a d.1) == n)

/-- MEM_INIT, TARGET 1. -/
def execMemInitEdge (f : Nat) (s : State) : Result :=
  .next (s.serve_ f (fun o a1 => o == 0x30 && a1 == 1) fun s c =>
    let mode := c.a 2
    let a := c.a64 3
    let n := 4096 * c.a 5
    let change := mode != 2 && (mode == 0) != s.intlvPkg
    let chs := s.touched a n
    match firstFail [
        (decide (2 < mode), .formatUnsupported),
        (n == 0, .badLength),
        (a % 4096 != 0, .align),
        (!s.edgeBacked a n || (change && !s.wholeEdge a n), .bound),
        (s.anyRunning, .busy),
        (chs.any fun e => s.stackOff (e / 32), .domainOff),
        (chs.any fun e => (s.edgeCh e).state == .failed, .hwError),
        (chs.any fun e => (s.edgeCh e).mode != .memory, .channelBusy)] with
    | some st => s.refuse c st
    | none =>
      let whole := s.wholeEdge a n
      let gone (ch off : Nat) : Bool := whole || (let x := s.addressOf ch off; decide (a ≤ x) && decide (x < a + n))
      let s := s.edgeZero gone
      { s with intlvPkg := if change then mode == 0 else s.intlvPkg }.answer c { r0 := n })

/-! ### MEM_INIT of the basin (R216, R222) -/

/-- Every line of a basin is written back, and none stays. -/
def State.flushBasin (s : State) (b : Nat) : State :=
  let s := s.each (s.basin b).lines fun s e => match e.2 with
    | some x => s.writeBack (e.1 / 16) x { code := codeFirmware }
    | none => s
  s.onBasin b fun x => { x with lines := [] }

/-- MEM_INIT, TARGET 2: a basin whose setting changes is flushed and its whole scratch zeroed; of any other, the named
range is zeroed.  The range lies in the scratch that the new setting gives; where it gives none and every named basin
changes, no range is used and any is accepted (R8; DEDUCED, log 57). -/
def execMemInitBasin (f : Nat) (s : State) : Result :=
  .next (s.serve_ f (fun o a1 => o == 0x30 && a1 == 2) fun s c =>
    let bs := (List.range 4).filter (bit (c.a 2))
    let steps := c.a 3
    let off := c.a 4
    let n := 64 * c.a 5
    let kept := bs.filter fun b => (s.basin b).cacheSteps == steps
    match firstFail [
        (bs.isEmpty || n == 0, .badLength),
        (off % 64 != 0, .align),
        (decide (8 < steps)
          || (!(steps == 8 && kept.isEmpty) && decide ((8 - steps) * 0x4000000 < off + n)), .bound),
        (s.anyRunning, .busy),
        (bs.any fun b => s.basinOff b || s.thermal.coolantHold, .domainOff)] with
    | some st => s.refuse c st
    | none =>
      let s := s.each bs fun s b =>
        if kept.contains b then s.onBasin b fun x => { x with
          scratch := x.scratch.clear off n
          badWords := Sparse.drop (fun k => decide (off ≤ 8 * k) && decide (8 * k < off + n)) x.badWords }
        else (s.flushBasin b).onBasin b fun x => { x with cacheSteps := steps, scratch := [], badWords := [] }
      s.answer c { r0 := kept.length * n + (bs.length - kept.length) * ((8 - steps) * 0x4000000) })

/-! ### NEAR_BANK_MODE (R220, R225, R227) -/

/-- A channel's lines leave its basin, the dirty ones written back (R220). -/
def State.flushChannel (s : State) (e : Nat) : State :=
  let b := e / 256
  let mine (x : Nat × Option Line) : Bool := match x.2 with
    | some l => l.ch == e
    | none => false
  let s := s.each ((s.basin b).lines.filter mine) fun s x => match x.2 with
    | some l => s.writeBack (x.1 / 16) l { code := codeFirmware }
    | none => s
  s.onBasin b fun x => { x with lines := x.lines.filter fun e => !mine e }

/-- The channels and checks that both modes share: the state unchanged and a status, or the channels named. -/
def State.nbModeCheck (s : State) (c : Cmd) (leaving : Bool) : Except Status (List Nat) :=
  let first := c.a 2
  let count := c.a 3
  let chs := (List.range (min count 1024)).map (first + ·)
  match firstFail [
      (count == 0, .badLength),
      (decide (1024 < count) || decide (1024 < first + count)
        || (chs.any fun e => (s.edgeCh e).state == .removed), .bound),
      ((chs.any fun e => (s.edgeCh e).state == .failed || (s.edgeCh e).state == .retraining)
        || (leaving && (chs.any fun e => !(s.edgeCh e).queue.isEmpty)), .busy),
      (chs.any fun e => s.stackOff (e / 32), .domainOff)] with
  | some st => .error st
  | none => .ok chs

/-- NEAR_BANK_MODE with A1[0] = 1: lines written back and invalidated, scrubber paused, unit enabled with an empty
queue. -/
def execNearBankModeProcessor (f : Nat) (s : State) : Result :=
  .next (s.serve_ f (fun o a1 => o == 0x31 && bit a1 0) fun s c =>
    match s.nbModeCheck c false with
    | .error st => s.refuse c st
    | .ok chs =>
      let switched := chs.filter fun e => (s.edgeCh e).mode == .memory
      let s := s.each switched fun s e => (s.flushChannel e).onEdgeCh e fun k => { k with mode := .processor, queue := [] }
      s.answer c { r0 := switched.length })

/-- NEAR_BANK_MODE with A1[0] = 0. -/
def execNearBankModeMemory (f : Nat) (s : State) : Result :=
  .next (s.serve_ f (fun o a1 => o == 0x31 && !bit a1 0) fun s c =>
    match s.nbModeCheck c true with
    | .error st => s.refuse c st
    | .ok chs =>
      let switched := chs.filter fun e => (s.edgeCh e).mode == .processor
      let s := s.each switched fun s e => s.onEdgeCh e fun k => { k with mode := .memory }
      s.answer c { r0 := switched.length })

/-! ### KV_SPACE_CONFIG (R242-R244) -/

def execKvSpaceConfig (f : Nat) (s : State) : Result :=
  .next (s.command f 0x32 fun s c =>
    let base := c.a 1
    let stride := c.a 2
    let slots := c.a 3
    match firstFail [
        (stride == 0 || slots == 0, .badLength),
        (base % 4096 != 0 || stride % 64 != 0, .align),
        (decide (s.chBytes < base + slots * stride), .bound),
        (s.channels.any fun e => !e.2.queue.isEmpty, .busy)] with
    | some st => s.refuse c st
    | none => { s with kvBase := base, kvStride := stride, kvSlots := slots }.answer c {})

end Sys2Proof.Machine
end

