-- ==== Sys2Proof/Machine/Repair.lean ====
section
/-! DEFINITION. The repair maps, REPAIR_STAGE, REPAIR_COMMIT, DIAG and the stand-alone die test (R416-R421, R425-R427). -/

namespace Sys2Proof.Machine

/-! ### The maps (R416) -/

/-- A repair entry in 16 B. -/
def repairBytes (r : RepairEntry) : List Byte :=
  leBytes 1 r.kind ++ leBytes 1 r.unit ++ leBytes 1 r.source ++ zeros 1 ++ leBytes 4 r.loc ++ zeros 8

/-- An entry from its 16 B. -/
def repairOf (l : List Byte) : RepairEntry := ⟨fieldAt l 0 1, fieldAt l 1 1, fieldAt l 2 1, fieldAt l 4 4⟩

/-- Two entries name one repair. -/
def sameRepair (a b : RepairEntry) : Bool := a.kind == b.kind && a.unit == b.unit && a.loc == b.loc

/-- A map with further entries, each repair once (R417, R420). -/
def addRepairs (m l : List RepairEntry) : List RepairEntry :=
  l.foldl (fun m e => if m.any (sameRepair e) then m else m ++ [e]) m

/-- Copy A of the field map is the newer valid one. -/
def State.copyANewer (s : State) : Bool :=
  match s.repair.copyA, s.repair.copyB with
  | some a, some b => decide (b.1 ≤ a.1)
  | some _, none => true
  | none, _ => false

/-- The copy in use, with its sequence number. -/
def State.fieldCopy (s : State) : Nat × List RepairEntry :=
  ((if s.copyANewer then s.repair.copyA else s.repair.copyB)).getD (0, [])

/-- The field map. -/
def State.fieldMap (s : State) : List RepairEntry := s.fieldCopy.2

/-- Entries written into the older copy with the next sequence number (R421); the map holds 1,024. -/
def State.writeField (s : State) (l : List RepairEntry) : State :=
  let new := ((s.fieldCopy).1 + 1, (addRepairs s.fieldMap l).take 1024)
  { s with repair := if s.copyANewer then { s.repair with copyB := some new } else { s.repair with copyA := some new } }

/-- The map in force at a bring-up: fused entries, then field entries. -/
def State.mergedMap (s : State) : List RepairEntry := addRepairs (addRepairs [] s.repair.fused) s.fieldMap

/-! ### Culvert routing (R165, R419) -/

/-- Package position of a CULVERT entry's router. -/
def culvertAt (e : RepairEntry) : Nat × Nat :=
  routerAt (e.unit, bits e.loc 0 6, bits e.loc 6 5)

/-- Two bypassed routers that stand in different rows and columns are both turn points of one pair. -/
def culvertClash (a b : RepairEntry) : Bool :=
  a.kind == 2 && b.kind == 2 && (culvertAt a).1 != (culvertAt b).1 && (culvertAt a).2 != (culvertAt b).2

/-- The dies that culvert entries fence: an entry that clashes with an earlier one that fences none. -/
def culvertFences (m : List RepairEntry) : List Nat :=
  (m.foldl (fun (a : List RepairEntry × List Nat) e =>
    if a.1.any (culvertClash e) then (a.1, a.2 ++ [e.unit]) else (a.1 ++ [e], a.2)) ([], [])).2

/-! ### REPAIR_STAGE and REPAIR_COMMIT (R420, R421) -/

/-- UNIT and LOC lie in their ranges. -/
def repairInRange (e : RepairEntry) : Bool :=
  match e.kind with
  | 3 => decide (e.unit < 32) && decide (bits e.loc 8 7 < 72) && bits e.loc 5 3 == 0 && decide (e.loc < 2 ^ 15)
  | 4 => decide (e.unit < 32) && decide (e.loc < 32)
  | _ => decide (e.unit < 12) && decide (bits e.loc 0 6 < 48) && decide (bits e.loc 6 5 < 29) && decide (e.loc < 2 ^ 11)

/-- REPAIR_STAGE. -/
def execRepairStage (f : Nat) (s : State) : Result :=
  .next (s.command f 0x71 fun s c =>
    let es := ((chunks 16 c.body).map repairOf).takeWhile fun e => e.kind != 0
    let fresh := es.filter fun e => !(s.repair.inForce ++ s.repair.staged).any (sameRepair e)
    let staged := addRepairs s.repair.staged fresh
    let all := s.repair.inForce ++ s.fieldMap ++ staged
    match firstFail [
        (es.isEmpty, .badLength),
        (es.any fun e => decide (4 < e.kind) || e.source != 2, .formatUnsupported),
        ((es.any fun e => !repairInRange e) || decide (128 < staged.length)
          || (fresh.any fun e => all.any (culvertClash e)), .bound)] with
    | some st => s.refuse c st
    | none => { s with repair := { s.repair with staged := staged } }.answer c { r0 := staged.length })

/-- REPAIR_COMMIT. -/
def execRepairCommit (f : Nat) (s : State) : Result :=
  .next (s.command f 0x72 fun s c =>
    let l := s.repair.staged
    if l.isEmpty then s.refuse c .badLength
    else if 1024 < (addRepairs s.fieldMap l).length then s.refuse c .bound
    else
      let s := s.writeField l
      { s with repair := { s.repair with staged := [] } }.answer c { r0 := l.length })

/-! ### DIAG (R425) -/

/-- DIAG WARM_RESET: the record first; the reset itself is WARM_BRING_UP.  It is BUSY during FIRMWARE_COMMIT or REPAIR_COMMIT. -/
def execDiagWarmReset (f : Nat) (s : State) : Result :=
  let busy (m : Msg) : Bool := (m.opc == 0x63 && s.trust.staged.isSome) || (m.opc == 0x72 && !s.repair.staged.isEmpty)
  .next (s.meets f busy (fun o a1 => o == 0x7F && bits a1 0 8 == 1) <| s.serve_ f (fun o a1 => o == 0x7F && bits a1 0 8 == 1) fun s c =>
    let s := s.answer c {}
    { s with boot := { s.boot with resetDue := true } })

/-- DIAG HALF_DIE_TEST: the cold tests of one free half-die; its cores' contents do not survive them. -/
def execHalfDieTest (f : Nat) (defects : List RepairEntry) (s : State) : Result :=
  .next (s.serve_ f (fun o a1 => o == 0x7F && bits a1 0 8 == 2) fun s c =>
    let h := c.a 2
    let l := defects.flatMap fun e => repairBytes { e with source := 2 }
    match firstFail [
        (decide (23 < h), .bound),
        (s.polderOf h != 31 || s.thermal.coolantHold || s.dieShut h, .busy),
        (s.power.pkg == .p2, .domainOff),
        (!c.fits l.length, .bound)] with
    | some st => s.refuse c st
    | none =>
      -- an output that cannot be had changes nothing (R324)
      let w := s.writeOut c.func c.out l
      if w.2 != .ok then s.refuse c w.2
      else
        let s := w.1.junkCores [h] false
        let s := if bit (c.a 3) 0 then s.ucmClearAll (fun core => halfOf (clusterOf core) == h) 0 24576 else s
        s.answer c { outBytes := if c.out == 0 then 0 else l.length })

/-- DIAG EDGE_RETRAIN: a request under R210. -/
def execEdgeRetrain (f : Nat) (s : State) : Result :=
  .next (s.serve_ f (fun o a1 => o == 0x7F && bits a1 0 8 == 3) fun s c =>
    let e := c.a 2
    match firstFail [
        (decide (1023 < e) || (s.edgeCh e).state == .removed, .bound),
        (s.stackOff (e / 32), .domainOff)] with
    | some st => s.refuse c st
    | none => (s.onEdgeCh e fun x => { x with retrainDue := true }).answer c {})

/-! ### Stand-alone die test (R426, R427, R464) -/

/-- The private JTAG instructions of die test: free in manufacture, by debug unlock once packaged. -/
def State.testAllowed (s : State) : Bool := !s.fuses.packaged || (s.trust.unlocked && bit s.trust.scope 2)

/-- The TAP is in reset: TRST_N is low (R481). -/
def State.tapReset (s : State) : Bool := !s.pins.trstN

/-- TDO is driven: only while the TAP shifts (R481). -/
def State.tdoDriven (s : State) : Bool := s.power.aon && !s.tapReset && s.pins.shifting

/-- A private instruction of a tester, which drives TRST_N high only while it uses JTAG and shifts the instruction in and its
answer out (R481; DESIGN CHOICE, log 27: the row stands for the whole use). -/
def State.byTester (s : State) (run : State → State) : State :=
  let u := { s with pins := { s.pins with trstN := true, shifting := true } }
  if !s.testAllowed then { s with reply := .none } else { run u with pins := s.pins }

/-- DIE_BIST: the defects found, as repair entries with SOURCE 0. -/
def execDieBist (defects : List RepairEntry) (s : State) : Result :=
  .next (s.byTester fun s =>
    let l := defects.map fun e => { e with source := 0 }
    { s with dieTest := { s.dieTest with defects := l }, reply := .data (l.flatMap repairBytes) })

/-- LOOPBACK: every port is turned back on itself, and training runs over the loop; what it measures, TRAIN_REPORT brings. -/
def execLoopback (s : State) : Result :=
  .next (s.byTester fun s => { s with dieTest := { s.dieTest with looped := true, ports := [] }, reply := .done })

/-- TRAIN_REPORT: width, raw delay and margin of each port as trained over its loop; without a LOOPBACK none has trained.  The
layout is a DESIGN CHOICE (log 27). -/
def execTrainReport (ports : List PortReport) (s : State) : Result :=
  .next (s.byTester fun s =>
    let ports := if s.dieTest.looped then ports else []
    { s with
      dieTest := { s.dieTest with ports := ports }
      reply := .data (ports.flatMap fun p => leBytes 2 p.port ++ leBytes 2 p.width ++ leBytes 2 p.delay ++ leBytes 2 p.margin) })

end Sys2Proof.Machine
end

