-- ==== Sys2Proof/Machine/Access.lean ====
section
/-! DEFINITION. Accesses to device memory as they arrive from outside the running descriptors: the host's, with its
outcomes, a DMA channel's, and the requests of which parts are held (R178, R200, R207, R212, R228, R301, R442). -/

namespace Sys2Proof.Machine

/-! ### Requests in parts (R212, R301, R442) -/

/-- The parts of an access: none crosses a 4 KiB granule. -/
def granules : (fuel : Nat) → Nat → Access → List (Nat × Access)
  | 0, _, _ => []
  | n + 1, a, acc =>
    let p := accSplit acc a 4096
    (a, p.1) :: (match p.2 with
      | some rest => granules n (a + accLen p.1) rest
      | none => [])

def partsOf (a : Nat) (acc : Access) : List (Nat × Access) := granules (accLen acc / 4096 + 2) a acc

/-- What has come of a request all of whose parts are there: the first status that is not OK, and the bytes. -/
def joined (parts : List (Option (Status × List Byte))) : Status × List Byte :=
  let ps := parts.filterMap id
  (((ps.find? fun p => p.1 != .ok).map Prod.fst).getD .ok, ps.flatMap Prod.snd)

/-- A host read's completion. -/
def readReply (r : Status × List Byte) : Reply := if r.1 == .ok then .data r.2 else .completerAbort

/-- The response to a partner's request; an address it names is logged where the status is not OK (R442). -/
def State.respond (s : State) (n tag : Nat) (write : Bool) (len addr : Nat) (r : Status × List Byte) : State :=
  if r.1 == .ok then s.sendPacket n (if write then ⟨4, 0, 0, tag, 0, []⟩ else ⟨3, len, 0, tag, 0, r.2⟩)
  else
    let l := s.link n
    (s.addLog 14 0 31 addr (n * 256 + r.1.code) (l.peerFabric.toNat * 16 + l.peerSlot)).sendPacket n
      ⟨5, 0, r.1.code, tag, 0, []⟩

/-- A part that has waited is served: the request is answered with its last part. -/
def State.partDone (s : State) (part addr : Nat) (g : Got) : State :=
  match s.gathers.find? fun x => x.id == part / 4096 with
  | none => s
  | some x =>
    let ps := x.parts.set (part % 4096 - 1) (some (g.status, g.data))
    let others := s.gathers.filter fun y => y.id != x.id
    if ps.any Option.isNone then { s with gathers := others ++ [{ x with parts := ps }] }
    else
      let s := { s with gathers := others }
      match x.who with
      | .link n tag => s.respond n tag x.write x.len addr (joined ps)
      | _ => { s with lateReplies := s.lateReplies ++ [readReply (joined ps)] }

/-- A host access waits in a PCIe queue of its kind, and a later one of the kind waits behind it (R212). -/
def State.stallsAt (s : State) (isRead : Bool) : Option Nat :=
  (s.channels.find? fun e => e.2.waiting.any fun h => h.req.who == .host && accWrites h.acc != isRead).map Prod.fst

/-- The host's access joins the queue of a channel. -/
def State.queueHost (s : State) (e part a : Nat) (acc : Access) : State :=
  s.onEdgeCh e fun c => { c with waiting := c.waiting ++ [⟨{ who := .host, part := part }, a, acc, 0, 31⟩] }

/-- One part of a request; the host's waits where an earlier read of the host does. -/
def State.makePart (s : State) (who : Requester) (part a : Nat) (acc : Access) (flips : List SymErr) : State × Got :=
  match s.stallsAt true with
  | some e => if who == .host then (s.queueHost e part a acc, { status := .held })
    else s.access { who := who, part := part } a acc flips
  | none => s.access { who := who, part := part } a acc flips

/-- Making the parts of a request; a part without an address has failed.  The answers, and which are held. -/
def State.makeParts (s : State) (who : Requester) (first : Nat) (flips : List SymErr) :
    List (Option Nat × Access) → State × List (Option (Status × List Byte))
  | [] => (s, [])
  | (none, _) :: r =>
    let x := s.makeParts who (first + 1) flips r
    (x.1, some (.bound, []) :: x.2)
  | (some a, acc) :: r =>
    let g := s.makePart who first a acc flips
    let x := g.1.makeParts who (first + 1) [] r
    (x.1, (if g.2.status == .held then none else some (g.2.status, g.2.data)) :: x.2)

/-- A request in parts: its outcome now, or none while a part is held. -/
def State.gather (s : State) (who : Requester) (write : Bool) (len : Nat) (parts : List (Option Nat × Access))
    (flips : List SymErr) : State × Option (Status × List Byte) :=
  let r := s.makeParts who (s.gatherNo * 4096 + 1) flips parts
  if r.2.any Option.isNone then
    ({ r.1 with
       gatherNo := s.gatherNo + 1
       gathers := r.1.gathers ++ [(⟨s.gatherNo, who, write, len, r.2⟩ : Gather)] }, none)
  else (r.1, some (joined r.2))

/-! ### The host's accesses -/

/-- An address that nothing backs: that of a part which has none. -/
def noAddr : Nat := 0x070000000000

/-- A host read in parts, its completion in `reply`; one of which a part waits is completed later (R301). -/
def State.hostReadParts (s : State) (parts : List (Option Nat × Access)) (flips : List SymErr) : State :=
  match s.stallsAt true with
  | some e =>
    let first := s.gatherNo * 4096 + 1
    let s := { s with
      reply := .none
      gatherNo := s.gatherNo + 1
      gathers := s.gathers ++ [(⟨s.gatherNo, .host, false, 0,
        parts.map fun _ => none⟩ : Gather)] }
    -- one without an address waits its turn too, and then fails as unbacked (R300, R301)
    s.each parts.zipIdx fun s p => s.queueHost e (first + p.2) (p.1.1.getD noAddr) p.1.2
  | none =>
    let r := s.gather .host false 0 parts flips
    { r.1 with reply := r.2.elim .none readReply }

/-- A host read of device memory. -/
def State.hostDevRead (s : State) (a n : Nat) (flips : List SymErr) : State :=
  s.hostReadParts ((partsOf a (.read n)).map fun p => (some p.1, p.2)) flips

/-- One piece of a host write, inside a 4 KiB granule: what is not served is dropped and logged, at offset `off` of
BAR4; DOMAIN_OFF is logged as such (R178, R200). -/
def State.hostPiece (s : State) (off a : Nat) (l : List Byte) (flips : List SymErr) : State :=
  let r := s.access { who := .host } a (.write l) flips
  if r.2.status == .ok || r.2.status == .held || r.2.uncorrectable then r.1
  else if r.2.status == .domainOff then r.1.addLog 22 0 31 a off r.2.status.code
  else r.1.accessError 0 kBar4 false off

/-- One piece of a posted host write, behind an earlier one that waits: the PCIe posted queue is one queue (R212).  Writes of
BAR0 and BAR2 are not stalled (DESIGN CHOICE, log 29: a host write waiting for the host share can stall all host writes, and the
spec does not say whether registers count). -/
def State.postPiece (s : State) (off a : Nat) (l : List Byte) (flips : List SymErr) : State :=
  match s.stallsAt false with
  | some e => s.queueHost e 0 a (.write l)
  | none => s.hostPiece off a l flips

/-- A posted host write to device memory. -/
def State.hostDevWrite (s : State) (off a : Nat) (l : List Byte) (flips : List SymErr) : State :=
  let s := s.each (partsOf a (.write l)) fun s p => match p.2 with
    | .write d => s.postPiece (off + (p.1 - a)) p.1 d (if p.1 == a then flips else [])
    | .read _ => s
  { s with reply := .done }

/-! ### A DMA channel's accesses -/

/-- What a part of a DMA channel's access came to: a halt of the channel where it is not served (R178, R200). -/
def State.dmaOutcome (s : State) (ch a : Nat) (acc : Access) (g : Got) : State :=
  if g.status == .held || g.status == .ok then s
  else s.devFail ch g.status a (accWrites acc) g.uncorrectable

/-- A DMA channel's access that belongs to none of its descriptors: what it reads goes to the requester.  One outside the
channel's reach gives DENIED (R276). -/
def State.dmaAccess (s : State) (ch a : Nat) (acc : Access) (flips : List SymErr) : State :=
  if s.beyondReach ch a (accLen acc) then s.devFail ch .denied a (accWrites acc) false
  else s.each (partsOf a acc) fun s p =>
    let r := s.access { who := .dma ch, loose := true } p.1 p.2 (if p.1 == a then flips else [])
    r.1.dmaOutcome ch p.1 p.2 r.2

/-- An access as it arrives.  A partner's requests are served by RD_REQ and WR_REQ (R442). -/
def State.arrive (s : State) (who : Requester) (a : Nat) (acc : Access) (flips : List SymErr) : State :=
  match who, acc with
  | .host, .read n => s.hostDevRead a n flips
  | .host, .write l => s.hostDevWrite a a l flips
  | .dma ch, _ => s.dmaAccess ch a acc flips
  | .link _ _, _ => s

/-! ### Held accesses (R212, R288) -/

/-- A held access is made again, when its hold ends or at the engine's retry, and its answer goes where it is awaited. -/
def State.again (s : State) (h : Held) : State :=
  match h.req.who, h.acc with
  | .host, .write l => { s.hostPiece h.addr h.addr l [] with reply := .done }
  | .dma ch, _ =>
    let r := s.access h.req h.addr h.acc []
    if r.2.status == .held || h.life == deadLife then r.1
    else if h.req.loose then r.1.dmaOutcome ch h.addr h.acc r.2
    else if h.req.fetch then r.1.gotDesc ch h.addr r.2
    else r.1.delivered ch h.life h.addr h.acc r.2
  | _, _ =>
    let r := s.access h.req h.addr h.acc []
    if r.2.status == .held then r.1 else r.1.partDone h.req.part h.addr r.2

/-- A held access leaves the hold queue: its channel awaits it no more. -/
def State.unpark (s : State) (h : Held) : State :=
  match h.req.who with
  | .dma ch => s.onChan ch fun c =>
    if c.life == h.life && !h.req.fetch && !h.req.loose then { c with parked := c.parked - 1 } else c
  | _ => s

/-- A held access is served as the hold ends. -/
def State.serveHeld (s : State) (h : Held) : State := (s.unpark h).again h

/-- An access that waited in a queue behind the hold queue goes on: the host's stays behind an earlier one of its kind that now
waits at another channel (R212). -/
def State.serveWaiting (s : State) (h : Held) : State :=
  match h.req.who, s.stallsAt (!accWrites h.acc) with
  | .host, some e => s.queueHost e h.req.part h.addr h.acc
  | _, _ => s.serveHeld h

end Sys2Proof.Machine
end

