-- ==== Sys2Proof/Machine/Ucm.lean ====
section
/-! DEFINITION. Under-core memory as it runs by itself: refresh, the aperture, the merge buffer, the scrubber and
self-refresh (R178, R182, R190, R193, R194, R497). -/

namespace Sys2Proof.Machine

/-- UCM_REFRESH: a refresh command of a layer falls due.  In an idle gap it is performed with those deferred; otherwise
it is deferred, and with eight deferred the oldest is performed (R182).  Self-refresh performs it inside the stack. -/
def UcmDie.refresh (x : UcmDie) (layer : Nat) (idle : Bool) : UcmDie :=
  let due := Sparse.get 0 x.deferred layer + 1
  let run := if idle || x.selfRefresh then due else if 8 < due then 1 else 0
  { x with
    refreshes := Sparse.modify 0 x.refreshes layer (· + run)
    deferred := Sparse.set 0 x.deferred layer (due - run) }

def execUcmRefresh (d layer : Nat) (idle : Bool) (s : State) : Result :=
  if !(s.ucmDie d).on then .next s else .next (s.onUcmDie d fun x => x.refresh layer idle)

/-- UCM_APERTURE_ACCESS (R178). -/
def execUcmApertureAccess (who : Requester) (addr : Nat) (acc : Access) (flips : List SymErr) (s : State) : Result :=
  if !inAperture addr then .next s else .next (s.arrive who addr acc flips)

/-- MERGE_RETIRE: 1 µs without a write to the entry.  While self-refresh runs the port is closed, and the entry waits
(R197). -/
def execMergeRetire (core word : Nat) (flips : List SymErr) (s : State) : Result :=
  let d := dieOf (clusterOf core)
  if (s.ucmDie d).on && !(s.ucmDie d).selfRefresh && (Sparse.get [] s.merges core).any fun m => m.word == word then
    .next ((s.ucmTouch d).retireFirst core word flips)
  else .next s

/-- UCM_SCRUB_REQUEST: the next word of a core's slice.  It is skipped in self-refresh, and a word never written is skipped
(R188); the word's merge entry retires first (R190), and a corrected word is written back (R193, R195). -/
def execUcmScrubRequest (core : Nat) (flips : List SymErr) (s : State) : Result :=
  let d := dieOf (clusterOf core)
  let x := s.ucmDie d
  if !x.on || x.selfRefresh then .next s
  else
    let w := Sparse.get 0 s.ucmScrub core
    let s := { s with ucmScrub := Sparse.set 0 s.ucmScrub core ((w + 1) % sliceWords) }
    if !Sparse.get false s.ucmValid (ucmIndex core w) then .next s else
    let r := (((s.ucmTouch d).retireFirst core w []).portTaken core).ucmRead core w srcScrub flips { code := codeScrub }
    if r.2.status != .ok then .next (r.1.event (s.polderAt core) (apertureAddr core w) 0 0x03)
    else if (Sparse.get [] r.1.ucmBad (ucmIndex core w)).isEmpty then .next r.1
    else .next ((r.1.ucmWrite core w r.2.data).onUcmDie d fun x => { x with passCorrected := x.passCorrected + 1 })

/-- The next scrub period, halved above 64 corrections, doubled at none, within the bounds, and whether a bound held it (R194,
R367). -/
def nextPeriod (b : Bounds) (period corrected : Nat) : Nat × Bool :=
  let lo := b.lo.toNat * 3600
  let hi := b.hi.toNat * 3600
  let p := if 64 < corrected then period / 2 else if corrected == 0 then 2 * period else period
  let got := max lo (min hi p)
  (got, got != p)

/-- UCM_SCRUB_PASS_END. -/
def execUcmScrubPassEnd (d : Nat) (s : State) : Result :=
  if !s.trust.running then .next s
  else
    let p := nextPeriod s.ledger.scrub (s.ucmDie d).period (s.ucmDie d).passCorrected
    .next (s.onUcmDie d fun x => { x with period := p.1, scrubHeld := p.2, passCorrected := 0 }).freezeScrub

/-- UCM_SELF_REFRESH_ENTRY: both half-dies asleep and no access for 100 µs (R497). -/
def execUcmSelfRefreshEntry (d : Nat) (s : State) : Result :=
  let asleep (h : Nat) : Bool := (s.halfDie h).power == .nap || (s.halfDie h).power == .off
  let x := s.ucmDie d
  if x.on && asleep (2 * d) && asleep (2 * d + 1) && decide (10000 ≤ s.time.dev - x.lastAccess) then .next (s.ucmRefresh [d])
  else .next s

end Sys2Proof.Machine
end

