-- ==== Sys2Proof/Machine/Edge.lean ====
section
/-! DEFINITION. Edge channels as they run by themselves: accesses, bad lines, retrains, failures, the scrubber and
refresh (R200-R214). -/

namespace Sys2Proof.Machine

/-- EDGE_ACCESS: the memory-mode space and basin scratch (R200, R221). -/
def execEdgeAccess (who : Requester) (addr : Nat) (acc : Access) (flips : List SymErr) (s : State) : Result :=
  if 0x018000000000 ≤ addr && !inScratch addr then .next s else .next (s.arrive who addr acc flips)

/-- SECTOR_READ: 32 B, aligned (R202). -/
def execSectorRead (who : Requester) (addr : Nat) (flips : List SymErr) (s : State) : Result :=
  if 0x018000000000 ≤ addr then .next s else .next (s.arrive who (addr / 32 * 32) (.read 32) flips)

/-- The EDGE_LINE and EDGE_CHANNEL entries that firmware records. -/
def lineEntry (e l : Nat) : RepairEntry := ⟨3, e / 32, 1, e % 32 + l * 2 ^ 8⟩
def channelEntry (e : Nat) : RepairEntry := ⟨4, e / 32, 1, e % 32⟩

/-- EDGE_LINE_MARK: a line with 64 corrections is marked, recorded and its channel's retrain requested (R206). -/
def execEdgeLineMark (e line : Nat) (s : State) : Result :=
  let c := s.edgeCh e
  if !s.trust.running || decide (Sparse.get 0 c.lineCount line < 64) || c.badLines.contains line || c.newBad.contains line then
    .next s
  else
    let s := s.setEdgeCh e { c with
      newBad := c.newBad ++ [line], lineCount := Sparse.set 0 c.lineCount line 0, retrainDue := true }
    .next (s.writeField [lineEntry e line])

/-- EDGE_RETRAIN_START: the lowest-numbered channel of its stack that waits, while no other retrains (R210).  On a channel
that nothing else asked to retrain it is its monitors' timing-margin alarm, which asks for it now (DEDUCED, log 29). -/
def execEdgeRetrainStart (e : Nat) (s : State) : Result :=
  let c := s.edgeCh e
  let others := (List.range 32).map (32 * (e / 32) + ·)
  if c.state != .trained || s.stackOff (e / 32) then .next s
  else if others.any fun o => (s.edgeCh o).state == .retraining
      || (decide (o < e) && (s.edgeCh o).retrainDue && (s.edgeCh o).state == .trained) then
    .next (s.setEdgeCh e { c with retrainDue := true })
  else .next (s.setEdgeCh e { c with state := .retraining, retrainDue := false })

/-- Lines of a failed channel leave its basin; the dirty ones are lost and logged (R213). -/
def State.invalidate (s : State) (e : Nat) : State :=
  let b := e / 256
  let mine (x : Nat × Option Line) : Bool := match x.2 with
    | some l => l.ch == e
    | none => false
  let gone := (s.basin b).lines.filter mine
  let s := s.onBasin b fun x => { x with lines := x.lines.filter fun l => !mine l }
  s.each gone fun s x => match x.2 with
    | some l => if l.dirty then s.edgeLog 5 (edgeAddr e (128 * lineOf (x.1 / 16) l.tag)) e { code := codeFirmware } else s
    | none => s

/-- A channel becomes FAILED (R213): its near-bank commands end with HW_ERROR, and firmware records and announces it. -/
def State.failChannel (s : State) (e : Nat) : State :=
  let s := (s.invalidate e).nbAllFail e
  let s := s.onEdgeCh e fun c => { c with state := .failed }
  (s.writeField [channelEntry e]).event 0xFFFF 0 e 0x05

/-- EDGE_RETRAIN_END: the marks take effect, with the lines that could not meet their timing; more than 4 leave the
channel FAILED, else the retrain counts as completed; held accesses are served in arrival order (R206, R211, R212). -/
def execEdgeRetrainEnd (e : Nat) (badLines : List Nat) (s : State) : Result :=
  let c := s.edgeCh e
  if c.state != .retraining then .next s
  else
    let lines := (List.range 72).filter fun l => c.badLines.contains l || c.newBad.contains l || badLines.contains l
    let found := lines.filter fun l => !c.badLines.contains l && !c.newBad.contains l
    let s := s.setEdgeCh e { c with
      state := .trained, badLines := lines, newBad := [], lineCount := [], held := [], waiting := []
      trainedAt := if s.thermal.last.isEmpty then none else some (s.stackTemp (e / 32)) }
    let s := if found.isEmpty then s else s.writeField (found.map (lineEntry e))
    let s := if 4 < lines.length then s.failChannel e
      else s.onEdgeCh e fun c => { c with retrains := satAdd 16 c.retrains 1 }
    .next ((s.each c.held State.serveHeld).each c.waiting State.serveWaiting)

/-- Channels of a stack that the scrubber reads: in memory mode and trained (R208, R225). -/
def State.scrubbed (s : State) (e : Nat) : Bool := (s.edgeCh e).mode == .memory && (s.edgeCh e).state == .trained

/-- EDGE_SCRUB_REQUEST: the next burst of a channel.  The stack's pass ends as its lowest scrubbed channel comes round
(DESIGN CHOICE, log 29), and its period adapts (R208). -/
def execEdgeScrubRequest (e : Nat) (flips : List SymErr) (s : State) : Result :=
  let k := e / 32
  if s.stackOff k || (s.stack k).selfRefresh || !s.scrubbed e then .next s
  else
    let pos := (s.edgeCh e).scrubPos
    let off := 64 * pos
    let last := pos + 1 == s.chBytes / 64
    let s := s.onEdgeCh e fun c => { c with scrubPos := if last then 0 else pos + 1 }
    let by_ : By := { code := codeScrub }
    let r := s.burstRead e off (flips.filter fun x => decide (x.symbol < 72)) by_
    let s := if r.2.status != .ok then r.1.event 0xFFFF (s.addressOf e off) e 0x04
      else if (Sparse.get [] r.1.edgeBad (burstIndex e off)).isEmpty then r.1
      else (r.1.burstWrite e off r.2.data by_).onStack k fun x => { x with passCorrected := x.passCorrected + 1 }
    if last && (((List.range 32).map (32 * k + ·)).find? s.scrubbed) == some e then
      let p := nextPeriod s.ledger.scrub (s.stack k).period (s.stack k).passCorrected
      .next (s.onStack k fun x => { x with period := p.1, scrubHeld := p.2, passCorrected := 0 }).freezeScrub
    else .next s

/-- EDGE_REFRESH (R209): in self-refresh too, the channel keeps its contents. -/
def execEdgeRefresh (e : Nat) (s : State) : Result :=
  if !(s.stack (e / 32)).on then .next s else .next (s.onEdgeCh e fun c => { c with refreshes := c.refreshes + 1 })

end Sys2Proof.Machine
end

