-- ==== Sys2Proof/Machine/MlDsa.lean ====
section
/-! DEFINITION. ML-DSA-65 of FIPS 204, the signatures of R451, R452, R454, R462 and R464. PRESUMED: the algorithms and
numbers are those of the published standard, which the spec names and does not repeat; its rejection loops run as often as the
standard's appendix on loop bounds lets them (log 7). -/

namespace Sys2Proof.Machine

/-! ### The ring: polynomials of 256 coefficients modulo q -/

/-- The modulus q. -/
def dsaQ : Nat := 8380417
/-- Rows of the matrix. -/
def dsaK : Nat := 6
/-- Columns of the matrix. -/
def dsaL : Nat := 5
/-- Bits dropped from t. -/
def dsaD : Nat := 13
/-- Nonzero coefficients of a challenge. -/
def dsaTau : Nat := 49
/-- Range of the mask. -/
def dsaGamma1 : Nat := 524288
/-- Range of the low part. -/
def dsaGamma2 : Nat := 261888
/-- Range of a secret coefficient. -/
def dsaEta : Nat := 4
/-- τ times η. -/
def dsaBeta : Nat := 196
/-- Most ones of a hint. -/
def dsaOmega : Nat := 55

/-- A polynomial, or its transform: coefficients from 0 to q - 1, the lowest first. -/
abbrev Poly := List Nat

def Poly.add (a b : Poly) : Poly := List.zipWith (fun x y => (x + y) % dsaQ) a b
def Poly.sub (a b : Poly) : Poly := List.zipWith (fun x y => (x + (dsaQ - y)) % dsaQ) a b
def Poly.scale (c : Nat) (a : Poly) : Poly := a.map fun x => c * x % dsaQ
/-- The product of two transforms. -/
def Poly.mul (a b : Poly) : Poly := List.zipWith (fun x y => x * y % dsaQ) a b
def Poly.zero : Poly := List.replicate 256 0

/-- The eight bits of a number reversed. -/
def reverse8 (n : Nat) : Nat := (List.range 8).foldl (fun a i => 2 * a + bits n i 1) 0

/-- A power of the 512th root of unity 1753. -/
def dsaRoot (e : Nat) : Nat := 1753 ^ e % dsaQ

/-- The transform of a piece of 2^n coefficients, block `k` of its layer. -/
def nttStep : Nat → Nat → Poly → Poly
  | 0, _, a => a
  | n + 1, k, a =>
    let lo := a.take (2 ^ n)
    let t := Poly.scale (dsaRoot (reverse8 k)) (a.drop (2 ^ n))
    nttStep n (2 * k) (Poly.add lo t) ++ nttStep n (2 * k + 1) (Poly.sub lo t)

/-- The transform of a polynomial. -/
def ntt (a : Poly) : Poly := nttStep 8 1 a

/-- The inverse of `nttStep`, times 2^n. -/
def nttUnstep : Nat → Nat → Poly → Poly
  | 0, _, a => a
  | n + 1, k, a =>
    let lo := nttUnstep n (2 * k) (a.take (2 ^ n))
    let hi := nttUnstep n (2 * k + 1) (a.drop (2 ^ n))
    Poly.add lo hi ++ Poly.scale (dsaRoot (512 - reverse8 k)) (Poly.sub lo hi)

/-- The inverse transform: 8,347,681 is the inverse of 256 modulo q. -/
def nttInv (a : Poly) : Poly := Poly.scale 8347681 (nttUnstep 8 1 a)

/-- The product of a matrix of transforms and a vector of transforms. -/
def matrixMul (m : List (List Poly)) (v : List Poly) : List Poly :=
  m.map fun row => (List.zipWith Poly.mul row v).foldl Poly.add Poly.zero

/-- The largest magnitude of the coefficients, each taken as the residue nearest 0. -/
def normOf (v : List Poly) : Nat := v.foldl (fun m a => a.foldl (fun m x => max m (min x (dsaQ - x))) m) 0

/-! ### Rounding and hints -/

/-- High part and low part of a coefficient (Decompose). -/
def decompose (r : Nat) : Nat × Int :=
  let m : Nat := r % (2 * dsaGamma2)
  let h : Nat := r / (2 * dsaGamma2)
  let p : Nat × Int := if dsaGamma2 < m then (h + 1, (m : Int) - 2 * dsaGamma2) else (h, m)
  if p.1 == 16 then (0, p.2 - 1) else p

def highBits (a : Poly) : Poly := a.map fun r => (decompose r).1

/-- The largest magnitude of the low parts. -/
def lowNorm (v : List Poly) : Nat := v.foldl (fun m a => a.foldl (fun m r => max m (decompose r).2.natAbs) m) 0

/-- High and low part of a coefficient of t (Power2Round), the low part modulo q. -/
def power2Round (r : Nat) : Nat × Nat :=
  let m := r % 2 ^ dsaD
  if 2 ^ (dsaD - 1) < m then (r / 2 ^ dsaD + 1, dsaQ + m - 2 ^ dsaD) else (r / 2 ^ dsaD, m)

/-- A coefficient's high part as a hint corrects it. -/
def useHint (h r : Nat) : Nat :=
  let p := decompose r
  if h == 0 then p.1 else if 0 < p.2 then (p.1 + 1) % 16 else (p.1 + 15) % 16

/-! ### Packing -/

/-- Numbers of `w` bits each, the first in the lowest bits. -/
def packBits (w : Nat) (a : List Nat) : List Byte :=
  leBytes (32 * w) (a.foldr (fun x acc => x % 2 ^ w + acc * 2 ^ w) 0)

/-- The 256 numbers of `w` bits each in 32·w bytes. -/
def unpackBits (w : Nat) (b : List Byte) : List Nat :=
  let v := leNat b
  (List.range 256).map fun i => bits v (w * i) w

/-- A hint: the places of its ones, polynomial by polynomial, then where each polynomial's places end. -/
def packHint (h : List Poly) : List Byte :=
  let places := h.map fun a => (a.zipIdx.filter fun x => x.1 != 0).map (·.2)
  let all := places.flatten
  let ends := (List.range dsaK).map fun i => ((places.take (i + 1)).flatten).length
  (all ++ List.replicate (dsaOmega - all.length) 0 ++ ends).map (BitVec.ofNat 8)

/-- Each place above the one before it. -/
def rising (l : List Nat) : Bool := (l.zip (l.drop 1)).all fun p => decide (p.1 < p.2)

/-- The hint in 61 bytes, where they are a canonical one. -/
def unpackHint (b : List Byte) : Option (List Poly) :=
  let y := b.map BitVec.toNat
  let ends := y.drop dsaOmega
  let spans := List.zip (0 :: ends) ends
  let good := spans.all fun p => decide (p.1 ≤ p.2) && decide (p.2 ≤ dsaOmega) && rising ((y.take p.2).drop p.1)
  if good && ((y.take dsaOmega).drop (ends.getLastD 0)).all (· == 0) then
    some (spans.map fun p => (List.range 256).map fun j => b2n (((y.take p.2).drop p.1).contains j))
  else none

/-! ### Sampling -/

/-- Three bytes as a coefficient, where they give one below q. -/
def threeBytes : List Byte → Option Nat
  | [b0, b1, b2] =>
    let z := b2.toNat % 128 * 2 ^ 16 + b1.toNat * 2 ^ 8 + b0.toNat
    if z < dsaQ then some z else none
  | _ => none

/-- A polynomial, as its transform, from 34 bytes (RejNTTPoly). -/
def rejNtt (m : List Byte) : Poly := ((chunks 3 (shake128 894 m)).filterMap threeBytes).take 256

/-- Half a byte as a secret coefficient. -/
def halfByte (b : Nat) : Option Nat := if b < 9 then some ((dsaQ + dsaEta - b) % dsaQ) else none

/-- A polynomial of small coefficients from 66 bytes (RejBoundedPoly). -/
def rejBounded (m : List Byte) : Poly :=
  ((shake256 481 m).flatMap fun z => (halfByte (z.toNat % 16)).toList ++ (halfByte (z.toNat / 16)).toList).take 256

/-- The matrix of transforms (ExpandA). -/
def expandA (rho : List Byte) : List (List Poly) :=
  (List.range dsaK).map fun r => (List.range dsaL).map fun c => rejNtt (rho ++ leBytes 1 c ++ leBytes 1 r)

/-- The mask (ExpandMask). -/
def expandMask (rho : List Byte) (kappa : Nat) : List Poly :=
  (List.range dsaL).map fun r =>
    (unpackBits 20 (shake256 640 (rho ++ leBytes 2 (kappa + r)))).map fun z => (dsaQ + dsaGamma1 - z) % dsaQ

/-- Placing the ones of a challenge: the index, the polynomial, the signs and the bytes that are left. -/
def ballStep (signs : Nat) (a : Poly × List Byte) (t : Nat) : Poly × List Byte :=
  let i := 256 - dsaTau + t
  let rest := a.2.dropWhile fun b => decide (i < b.toNat)
  let j := ((rest.head?).map BitVec.toNat).getD 0
  (((a.1.set i (nth 0 a.1 j)).set j (if bit signs t then dsaQ - 1 else 1)), rest.drop 1)

/-- A challenge of 49 coefficients of magnitude 1 from 48 bytes (SampleInBall). -/
def sampleInBall (seed : List Byte) : Poly :=
  let b := shake256 221 seed
  ((List.range dsaTau).foldl (ballStep (fieldAt b 0 8)) (Poly.zero, b.drop 8)).1

/-! ### Keys, signatures and their verification -/

/-- What a 32 B seed expands to: ρ, K, the matrix and the secrets. -/
structure DsaSecret where
  rho : List Byte
  key : List Byte
  matrix : List (List Poly)
  s1 : List Poly
  s2 : List Poly

/-- The expansion of a seed (KeyGen_internal). -/
def dsaExpand (seed : List Byte) : DsaSecret :=
  let h := shake256 128 (seed ++ leBytes 1 dsaK ++ leBytes 1 dsaL)
  let small (i : Nat) := rejBounded ((h.drop 32).take 64 ++ leBytes 2 i)
  { rho := h.take 32
    key := h.drop 96
    matrix := expandA (h.take 32)
    s1 := (List.range dsaL).map small
    s2 := (List.range dsaK).map fun i => small (dsaL + i) }

/-- The vector t of a key. -/
def DsaSecret.t (x : DsaSecret) : List Poly :=
  List.zipWith Poly.add ((matrixMul x.matrix (x.s1.map ntt)).map nttInv) x.s2

/-- The public key of an expanded seed. -/
def DsaSecret.publicKey (x : DsaSecret) : List Byte :=
  fit 1952 (x.rho ++ x.t.flatMap fun a => packBits 10 (a.map fun r => (power2Round r).1))

/-- The public key of the key pair of a 32 B seed: 1,952 B. -/
def mldsaPublic (seed : List Byte) : List Byte := (dsaExpand seed).publicKey

/-- The coded high parts. -/
def w1Bytes (v : List Poly) : List Byte := v.flatMap (packBits 4)

/-- One attempt at a signature of the message digest μ with the mask seed and counter: none where it is rejected. -/
def DsaSecret.attempt (x : DsaSecret) (mu mask : List Byte) (kappa : Nat) : Option (List Byte) :=
  let y := expandMask mask kappa
  let w := (matrixMul x.matrix (y.map ntt)).map nttInv
  let c := shake256 48 (mu ++ w1Bytes (w.map highBits))
  let ch := ntt (sampleInBall c)
  let times (v : List Poly) := v.map fun a => nttInv (Poly.mul ch (ntt a))
  let z := List.zipWith Poly.add y (times x.s1)
  let r := List.zipWith Poly.sub w (times x.s2)
  let ct0 := times (x.t.map fun a => a.map fun r => (power2Round r).2)
  let h := List.zipWith (fun a b => List.zipWith (fun u v => b2n (u != v)) (highBits (Poly.add a b)) (highBits a)) r ct0
  if dsaGamma1 - dsaBeta ≤ normOf z || dsaGamma2 - dsaBeta ≤ lowNorm r || dsaGamma2 ≤ normOf ct0
      || dsaOmega < sumOf (h.map sumOf) then none
  else some (c ++ (z.flatMap fun a => packBits 20 (a.map fun v => (dsaGamma1 + dsaQ - v) % dsaQ)) ++ packHint h)

/-- The first attempt that is not rejected, of so many. -/
def DsaSecret.attempts (x : DsaSecret) (mu mask : List Byte) : Nat → Nat → Option (List Byte)
  | 0, _ => none
  | n + 1, kappa =>
    match x.attempt mu mask kappa with
    | some s => some s
    | none => x.attempts mu mask n (kappa + dsaL)

/-- The signature, 3,309 B, over a message (with its context) by the key of a seed, with 32 B of randomness
(Sign_internal). Bytes left open stand where the 814 attempts of the standard are all rejected (log 7). -/
def mldsaSign (seed message random : List Byte) : List Byte :=
  let x := dsaExpand seed
  let mu := shake256 64 (shake256 64 x.publicKey ++ message)
  fit 3309 ((x.attempts mu (shake256 64 (x.key ++ random ++ mu)) 814 0).getD (List.ofFn fun i : Fin 3309 => Config.freeByte i.val))

/-- Whether a signature over a message (with its context) is valid under a public key (Verify_internal). -/
def mldsaVerify (key message signature : List Byte) : Bool :=
  let pieces (o n w : Nat) (b : List Byte) := (List.range n).map fun i => unpackBits w ((b.drop (o + 32 * w * i)).take (32 * w))
  let c := signature.take 48
  let z := (pieces 48 dsaL 20 signature).map fun a => a.map fun v => (dsaQ + dsaGamma1 - v) % dsaQ
  match unpackHint (signature.drop 3248) with
  | none => false
  | some h =>
    let mu := shake256 64 (shake256 64 key ++ message)
    let ch := ntt (sampleInBall c)
    let t1 := (pieces 32 dsaK 10 key).map fun a => Poly.mul ch (ntt (Poly.scale (2 ^ dsaD) a))
    let w := List.zipWith (fun a t => nttInv (Poly.sub a t)) (matrixMul (expandA (key.take 32)) (z.map ntt)) t1
    let w1 := List.zipWith (List.zipWith useHint) h w
    decide (key.length = 1952) && decide (signature.length = 3309) && decide (normOf z < dsaGamma1 - dsaBeta)
      && c == shake256 48 (mu ++ w1Bytes w1)

end Sys2Proof.Machine
end

