-- ==== Sys2Proof/Machine/Power.lean ====
section
/-! DEFINITION. Package states, refusals and wakes, NAP, supply sag and lockout (R388-R404). -/

namespace Sys2Proof.Machine

/-! ### Requests and wakes (R392, R395, R404) -/

/-- A wake: latched while an entry is in progress, otherwise it returns P1 to P0 and starts the exit from P2 or P3.  In
SAG_HOLD the module waits for its supply (R400, R401). -/
def State.wakeUp (s : State) : State :=
  if s.power.sagHold then s
  else if s.power.entering.isSome then { s with power := { s.power with wake := true } }
  else match s.power.pkg with
    | .p0 => s
    | .p1 => { s with power := { s.power with pkg := .p0 } }
    | _ => { s with power := { s.power with exiting := true } }

/-- An orderly shutdown of a die or a stack is in force (R378). -/
def State.shutdownOn (s : State) : Bool :=
  (List.range 12).any (Sparse.get false s.thermal.shut) || (List.range 32).any fun e => (s.stack e).shut

/-- A write of PKG_PWR_CTL: HOLD, and REQ 1 leave P2, 2 enter P2, 3 enter P3. -/
def State.writePwrCtl (s : State) (v : Nat) : State :=
  let s := { s with power := { s.power with hold := bit v 31 } }
  match bits v 0 2 with
  | 0 => s
  | 1 => if s.power.entering.isSome || s.power.pkg == .p2 then s.wakeUp else s
  | r =>
    if s.power.entering.isSome || s.power.exiting then s.accessError 0 kRefused false 0x3200
    else if r == 2 && s.power.pkg == .p2 then s
    else { s with power := { s.power with
      entering := some (if r == 2 then .p2 else .p3), shutAtReq := s.shutdownOn } }

/-! ### Refusers (R393) -/

/-- The first of some numbers for which a condition holds, with a class in front. -/
def firstUnit (cls n : Nat) (p : Nat → Bool) : Option Nat := ((List.range n).find? p).map (cls * 4096 + ·)

/-- FIRMWARE_STAGE, FIRMWARE_COMMIT, REPAIR_COMMIT, MEM_INIT or DIAG is in progress (R393): firmware has started it, and its row
has not come. -/
def State.managing (s : State) : Bool :=
  (List.range 25).any fun f => (s.startedMsg f).any fun m => [0x62, 0x63, 0x72, 0x30, 0x7F].contains m.opc

/-- The first refuser of an entry, in code order; a link refuses P2 and P3 while it is not DISABLED (R450; DEDUCED, log 44), a
polder also while it is being created (DEDUCED, log 44), an orderly shutdown only where it was in force before the entry (R404). -/
def State.refuser (s : State) (target : PkgState) : Option Nat :=
  let deep := target != .p1
  let only (b : Bool) (o : Option Nat) : Option Nat := if b then o else none
  [ only deep (firstUnit 1 24 fun n => (s.polder n).state != .none),
    only deep (firstUnit 2 256 fun ch => (s.chan ch).state != .disabled),
    only deep (firstUnit 3 12 fun g => (List.range 8).any fun i => (s.link (8 * g + i)).state != .disabled),
    only (target == .p2 && !s.pcie.aspmL1) (some 0x4000),
    only s.power.hold (some 0x5000),
    only deep (firstUnit 6 32 fun e => (List.range 32).any fun j =>
      let c := s.edgeCh (32 * e + j)
      c.mode != .memory || c.state == .retraining),
    only s.managing (some 0x7000),
    only (deep && (s.thermal.coolantHold || (s.power.shutAtReq && s.shutdownOn))) (some 0x8000)].findSome? id

/-- PKG_PWR_STATUS codes of a state. -/
def PkgState.code : PkgState → Nat
  | .p0 => 0
  | .p1 => 1
  | .p2 => 2
  | .p3 => 3

def State.entryRefused (s : State) (target : PkgState) (code : Nat) : State :=
  { s with power := { s.power with
    entering := none, refused := satAdd 32 s.power.refused 1, lastRefuser := code, lastAborted := false
    lastTarget := target.code } }

/-- An entry or exit that failed after it began (R394). -/
def State.entryAborted (s : State) (target code : Nat) : State :=
  { s with power := { s.power with
    entering := none, exiting := false, aborted := satAdd 16 s.power.aborted 1, lastRefuser := code, lastAborted := true
    lastTarget := target } }

/-! ### P1 (R392) -/

/-- Nothing runs, waits or is in progress. -/
def State.quiet (s : State) : Bool :=
  s.jobs.isEmpty && !(s.dma.any fun c => c.2.state == .active) && !(s.channels.any fun c => !c.2.queue.isEmpty)
    && !(s.edgeStacks.any fun k => !k.2.dispatch.isEmpty) && !(s.polders.any fun p => p.2.command.isSome)
    && !(s.funcs.any fun f => !f.2.inbox.isEmpty)

/-- P1_ENTRY: after 1 ms with nothing to do. -/
def execP1Entry (s : State) : Result :=
  if s.power.pkg != .p0 || !s.trust.running || !s.quiet || s.power.entering.isSome then .next s
  else match s.refuser .p1 with
    | some code => .next (s.entryRefused .p1 code)
    | none => .next { s with power := { s.power with pkg := .p1 } }

/-- P1_WAKE: any access, word, doorbell, TAIL write or SMBus wake. -/
def execP1Wake (s : State) : Result :=
  if s.power.pkg == .p1 then .next { s with power := { s.power with pkg := .p0 } } else .next s

/-! ### P2 and P3 (R388, R391, R394, R395) -/

/-- UCM domains of some dies off: every word is lost (R196). -/
def State.ucmDomainOff (s : State) (ds : List Nat) : State :=
  let mine (core : Nat) : Bool := ds.contains (dieOf (clusterOf core))
  { s.each ds (fun s d => s.onUcmDie d fun x => { x with on := false, selfRefresh := false }) with
    ucm := Sparse.drop (fun a => mine (a / sliceBytes)) s.ucm
    ucmValid := Sparse.drop (fun k => mine (k / sliceWords)) s.ucmValid
    ucmBad := Sparse.drop (fun k => mine (k / sliceWords)) s.ucmBad
    merges := Sparse.drop mine s.merges }

/-- Edge stacks off: their bytes are lost (R214). -/
def State.stacksOff (s : State) (es : List Nat) : State :=
  let s := s.each es fun s e => s.onStack e fun x => { x with on := false, selfRefresh := false }
  { s with
    edge := Sparse.drop (fun a => es.contains (a / (32 * 0x60000000))) s.edge
    edgeBad := Sparse.drop (fun k => es.contains (k / (32 * 0x1800000))) s.edgeBad }

/-- Every edge stack off, and with them the basins and DMA engines: contents are lost (R214, R388). -/
def State.edgeDomainsOff (s : State) : State :=
  (s.stacksOff (List.range 32)).each (List.range 4) fun s b => s.onBasin b fun x => { x with
    lines := [], scratch := [], badWords := [] }

/-- Steps 2 and 3 of an entry. -/
def State.deepOff (s : State) : State :=
  (((s.offHalfDies (List.range 24)).ucmDomainOff (List.range 12)).edgeDomainsOff).linksSilent .detect

/-- The domains that an entry had switched off when a unit failed, in the order half-dies, UCM, edge stacks, the rest
(DESIGN CHOICE, log 26): UCM_nn, the half-dies and the UCM of the dies before nn; RAIL_n, the domains of the rails before
n; PCIE, all of step 3; any other, none.  Half-dies, dies, stacks. -/
def lostBefore (code : Nat) : List Nat × List Nat × List Nat :=
  let n := code % 4096
  match code / 4096 with
  | 9 => (List.range 24, List.range n, [])
  | 10 => (List.range (min n 24), List.range (min (n - 24) 12), List.range (min (n - 36) 32))
  | 4 => (List.range 24, List.range 12, List.range 32)
  | _ => ([], [], [])

/-- What an aborted entry leaves: the domains as before, but what was lost stays lost (R394); a half-die that was switched off
counts its tides again from 0 at step 0 (R500). -/
def State.abortEntry (s : State) (target : PkgState) (code : Nat) : State :=
  let l := lostBefore code
  let was := l.1.filter fun h => (s.halfDie h).power != .off
  let lost := ((s.offHalfDies l.1).ucmDomainOff l.2.1).stacksOff l.2.2
  let back := { lost with ucmDies := s.ucmDies, edgeStacks := s.edgeStacks }.each was fun t h => t.onHalfDie h fun x =>
    { x with power := (s.halfDie h).power, tide := 0, tidePart := 0, markDue := false, step := 0 }
  back.entryAborted target.code code

/-! ### Supply sag and lockout (R400-R404) -/

/-- The work of a polder is gone without a record: the cycles of a job that ran count, and it runs no more (R120, R332). -/
def State.dropJob (s : State) (n : Nat) : State :=
  let s := if (s.polder n).job.any fun j => j.phase == .running then s.countCycles n else s
  s.onPolder n fun p => { p with
    job := none, holds := [], gates := [], gateEndedJob := false, gateChannels := 0, nextStep := none, rails := []
    state := if p.state == .running then .halted else p.state }

/-- Jobs, commands, DMA and near-bank work and floodgates end without a record, as at a warm reset (R332, R411). -/
def State.dropWork (s : State) : State :=
  let s := s.discardCommands fun _ => true
  let s := s.each (List.range 24) State.dropJob
  let s := s.nbDiscard fun _ => true
  let s := s.each (s.liveChans fun _ => true) State.disableChan
  { s with gates := [], gateChannels := 0, gateEndedJob := false, draining := [] }

/-- The sag sequence (R400): an entry or exit in progress aborts with SUPPLY and nothing of it is reversed (R394, R404); the
record holds what stands at the detection. -/
def State.sagNow (s : State) (vinMin : Nat) : State :=
  let s := s.countUp cSag
  let s := { s with
    power := { s.power with sagSeen := true, vinMin := vinMin }
    smbus := { s.smbus with vinUv := true } }
  let s := if s.power.entering.isSome || s.power.exiting then
      s.entryAborted ((s.power.entering.map PkgState.code).getD 1) 0xB000 else s
  let s := { s.writeCritical 1 with recordDue := true }
  let s := s.interrupted.dropWork
  let s := ((s.offHalfDies (List.range 24)).ucmRefresh (List.range 12)).stacksRefresh (List.range 32)
  let s := s.linksSilent .detect
  { s with
    power := { s.power with sagHold := true, wake := false }
    pcie := { s.pcie with on := false, up := false, l1 := false } }

/-- SUPPLY_SAG: VIN has fallen below 41 V.  In P3, unless its exit has begun, only the AON domain notes it (R404), and VIN_UV is
latched (R489). -/
def execSupplySag (vinMin : Nat) (s : State) : Result :=
  if !s.power.aon then .next s
  else if s.power.pkg == .p3 && !s.power.exiting && !s.power.sagHold then
    .next { s with power := { s.power with sagSeen := true }, smbus := { s.smbus with vinUv := true } }
  else .next (s.sagNow vinMin)

/-- An entry that fails after it began: the sag sequence takes over from one that fails with SUPPLY (R394). -/
def State.entryFailed (s : State) (target : PkgState) (code : Nat) : State :=
  if code / 4096 == 11 then s.sagNow s.power.vinMin else s.abortEntry target code

/-- P2_ENTRY: refused, aborted by the failing unit (a code of R393), or complete. -/
def execP2Entry (failing : Option Nat) (s : State) : Result :=
  if s.power.entering != some .p2 then .next s
  else match s.refuser .p2, failing with
    | some code, _ => .next (s.entryRefused .p2 code)
    | none, some code => .next (s.entryFailed .p2 code)
    | none, none =>
      let s := s.deepOff
      .next { s with power := { s.power with pkg := .p2, entering := none }, pcie := { s.pcie with l1 := true } }

/-- P3_ENTRY: as P2, then the PCIe, culvert and management domains; every mailbox setup ends, and the timestamp counts
from the AON timer (R391, R467). -/
def execP3Entry (failing : Option Nat) (s : State) : Result :=
  if s.power.entering != some .p3 then .next s
  else match s.refuser .p3, failing with
    | some code, _ => .next (s.entryRefused .p3 code)
    | none, some code => .next (s.entryFailed .p3 code)
    | none, none =>
      let s := s.deepOff.pmpResetNow
      .next { s with
        power := { s.power with pkg := .p3, entering := none, management := false, culverts := false }
        pcie := { s.pcie with on := false, up := false, l1 := false }
        thermal := { s.thermal with trend := [] }
        time := { s.time with slew := 0, unsynced := true, copies := [] } }

/-- P2_EXIT: domains powered, edge channels trained and the edge space zero, P1 (R395). -/
def execP2Exit (failing : Option Nat) (s : State) : Result :=
  if s.power.pkg != .p2 || !s.power.exiting then .next s
  else match failing with
    | some code => .next (if code / 4096 == 11 then s.sagNow s.power.vinMin else s.entryAborted 1 code)
    | none =>
      let s := s.each (List.range 12) fun s d => s.onUcmDie d fun x => { x with on := true, lastAccess := s.time.dev }
      let s := s.each (List.range 32) fun s e => s.onStack e fun x => { x with on := true, trainedAt := none }
      let s := { s with channels := Sparse.mapWhere {} (fun _ => true) (fun c =>
        { c with trainedAt := none, lineCount := [], scrubPos := 0 }) s.channels }
      .next { s with power := { s.power with pkg := .p1, exiting := false }, pcie := { s.pcie with l1 := false } }

/-- WAKE_REPLAY: the latched wakes act as one that has just arrived (R395). -/
def execWakeReplay (s : State) : Result :=
  if !s.power.wake || s.power.entering.isSome then .next s
  else .next { s with power := { s.power with wake := false, replays := satAdd 16 s.power.replays 1 } }.wakeUp

/-! ### NAP (R390, R497) -/

/-- NAP_ENTRY: a free half-die that has been IDLE for 10 ms; its die's UCM follows once both half-dies sleep and no
access has come for 100 µs. -/
def execNapEntry (h : Nat) (s : State) : Result :=
  if (s.halfDie h).power != .idle || s.polderOf h != 31 then .next s
  else
    let s := (s.loseHalfDies [h]).onHalfDie h fun x => { x with power := .nap }
    let asleep (k : Nat) : Bool := (s.halfDie k).power == .nap || (s.halfDie k).power == .off
    let d := h / 2
    .next (if asleep (2 * d) && asleep (2 * d + 1) && decide (10000 ≤ s.time.dev - (s.ucmDie d).lastAccess)
      then s.ucmRefresh [d] else s)

/-! ### Lockout (R401) -/

/-- LOCKOUT: VIN has fallen below 34 V, or the 48 V input was removed: the next start is a cold reset. -/
def execLockout (s : State) : Result :=
  let b := s.blackout
  .next { b with power := { tripLatched := if s.power.trip.isSome then s.power.trip else s.power.tripLatched } }

end Sys2Proof.Machine
end

