-- ==== Sys2Proof/Machine/Trust.lean ====
section
/-! DEFINITION. Firmware images, the boot ROM, attestation, debug unlock and fuse burning (R424, R451-R466, R492). -/

namespace Sys2Proof.Machine

/-! ### Signatures and digests (R451, R453, R462) -/

/-- SHAKE256 with 512-bit output. -/
def measure (m : List Byte) : List Byte := shake256 64 m

/-- What ML-DSA signs for a message under a context string (FIPS 204, its pure version). -/
def withContext (ctx : String) (m : List Byte) : List Byte :=
  [0] ++ leBytes 1 (asciiBytes ctx).length ++ asciiBytes ctx ++ m

/-! ### Firmware images (R453, R454) -/

def keyBytes : Nat := 1952
def sigBytes : Nat := 3309
def imageHead : Nat := 5632

def fwManifest (img : List Byte) : List Byte := img.take 256
def fwKey (img : List Byte) : List Byte := (img.drop 256).take keyBytes
def fwSig (img : List Byte) : List Byte := (img.drop 2208).take sigBytes
def fwKeyIndex (img : List Byte) : Nat := fieldAt img 6 1
def fwSvn (img : List Byte) : Nat := fieldAt img 8 4
def fwPayloadLen (img : List Byte) : Nat := fieldAt img 0x10 4
def fwSegments (img : List Byte) : Nat := fieldAt img 0x14 4
def fwPayload (img : List Byte) : List Byte := (img.drop imageHead).take (fwPayloadLen img)
/-- OFFSET, LENGTH and LOAD of segment `i`. -/
def fwSeg (img : List Byte) (i : Nat) : Nat × Nat × Nat :=
  (fieldAt img (0x60 + 16 * i) 4, fieldAt img (0x64 + 16 * i) 4, fieldAt img (0x68 + 16 * i) 8)
/-- The used segments: the first SEGMENTS of the eight. -/
def fwUsed (img : List Byte) : List (Nat × Nat × Nat) := (List.range (min 8 (fwSegments img))).map (fwSeg img)

/-- Management memory, PMP addresses. -/
def loadLo : Nat := 0x80000000
def loadHi : Nat := 0x81800000

/-- No load range overlaps a later one. -/
def loadsApart : List (Nat × Nat × Nat) → Bool
  | [] => true
  | x :: r => (r.all fun y => decide (x.2.2 + x.2.1 ≤ y.2.2) || decide (y.2.2 + y.2.1 ≤ x.2.2)) && loadsApart r

/-- Checks 1-4 of R454, on the image's bytes. -/
def fwLayoutFail (img : List Byte) : Option Status :=
  let used := fwUsed img
  let len := fwPayloadLen img
  firstFail [
    (len == 0 || fwSegments img == 0 || (used.any fun x => x.2.1 == 0), .badLength),
    (fieldAt img 0 4 != 0x4D574651 || fieldAt img 4 2 != 1 || decide (3 < fwKeyIndex img) || fieldAt img 0xE 2 != 0
      || decide (15 < fwRevoke img) || fieldAt img 0xE0 32 != 0
      || (((fwManifest img).drop (0x60 + 16 * min 8 (fwSegments img))).take (128 - 16 * min 8 (fwSegments img))).any (· != 0)
      || (((img.take imageHead).drop 5517).any (· != 0)) || bit (fwRevoke img) (fwKeyIndex img), .formatUnsupported),
    (len % 64 != 0 || (used.any fun x => x.1 % 64 != 0), .align),
    (decide (16777216 < len) || decide (8 < fwSegments img) || decide (64 < fwSvn img)
      || decide (img.length < imageHead + len) || (used.any fun x => decide (len < x.1 + x.2.1))
      || (used.any fun x => decide (x.2.2 < loadLo) || decide (loadHi < x.2.2 + x.2.1)) || !loadsApart used, .bound)]

/-- Key KEY_INDEX is revoked, or the image's key is not the fused one. -/
def State.fwKeyBad (s : State) (img : List Byte) : Bool :=
  bit s.fuses.revoked (fwKeyIndex img) || digest (fwKey img) != nth [] s.fuses.keys (fwKeyIndex img)

/-- The signature over the manifest does not verify. -/
def fwSigBad (img : List Byte) : Bool :=
  !mldsaVerify (fwKey img) (withContext "QSM-FWM" (fwManifest img)) (fwSig img)

/-- The payload is not the one the manifest measures. -/
def fwDigestBad (img : List Byte) : Bool := measure (fwPayload img) != (img.drop 0x20).take 64

/-- The checks of R454 in order. -/
def State.fwFail (s : State) (img : List Byte) : Option Status :=
  match fwLayoutFail img with
  | some st => some st
  | none =>
    if s.fwKeyBad img || fwSigBad img || fwDigestBad img then some .authFail
    else if fwSvn img < s.fuses.svnFloor then some .denied
    else none

/-- The next 32 B of the entropy source, where the command's row brings none, and the randomness of a signature: free values
(R451, R452; log 7). -/
def State.entropy32 (s : State) : List Byte × State := s.freeBytes 32

/-! ### The boot ROM (R455, R458, R459) -/

/-- Steps 4 and 5 of R455: the attestation key, its endorsement, and firmware started. -/
def State.startFirmware (s : State) (img entropy : List Byte) (committed recovery : Bool) : State :=
  let ak := mldsaPublic entropy
  let m := fwManifest img
  let bound := ak ++ measure s.fuses.rom ++ measure m ++ leBytes 4 s.trust.bootCount
  let random := s.entropy32
  let s := random.2
  { s with trust := { s.trust with
    running := true
    manifest := m
    committed := committed
    recovery := recovery
    svn := fwSvn img
    ifLevel := fieldAt img 0xC 1
    akSeed := entropy
    endorse := mldsaSign s.fuses.seed (withContext "QSM-AKE" bound) random.1
    gated := false } }

/-- UNIT of CODE FIRMWARE for the image in flash; none where it passes every check. -/
def State.romFail (s : State) (flashError : Bool) : Option Nat :=
  let img := s.trust.flashImage
  if flashError then some 6
  else if (fwLayoutFail img).isSome then some 1
  else if s.fwKeyBad img then some 2
  else if fwSigBad img then some 3
  else if fwDigestBad img then some 4
  else if fwSvn img < s.fuses.svnFloor then some 5
  else none

/-- A start of the boot ROM (R455): firmware runs, or recovery with CODE FIRMWARE. -/
def State.rom (s : State) (entropy : List Byte) (flashError : Bool) : State :=
  let s := { s with trust := { s.trust with
    bootCount := s.trust.bootCount + 1
    romStarted := true
    romDue := false
    staged := none
    gated := false
    resetDue := false
    burning := false
    running := false
    recovery := false
    manifest := []
    svn := 0
    ifLevel := 0
    akSeed := []
    endorse := []
    mCfg := measure s.trust.flashConfig } }
  match s.romFail flashError with
  | none => s.startFirmware s.trust.flashImage entropy true false
  | some u => { s with
      trust := { s.trust with recovery := true }
      boot := { s.boot with code := 4, unit := u } }

/-- ROM_START: the PMP's next start after a PMP reset (R321, R455). -/
def execRomStart (entropy : List Byte) (flashError : Bool) (s : State) : Result :=
  if !s.power.management || !s.trust.romDue then .next s
  else
    let r := s.rom entropy flashError
    .next (if s.boot.running && r.trust.recovery then r.failBringUp 4 r.boot.unit s.bringUpMs s.boot.warm else r)

/-! ### Staging and commit (R456-R459) -/

/-- FIRMWARE_STAGE.  In recovery the image runs from management memory, and the bring-up that failed may continue at
cold step 5 (R459).  It is BUSY during FIRMWARE_COMMIT. -/
def execFirmwareStage (f : Nat) (s : State) : Result :=
  .next (s.meets f (fun m => m.opc == 0x63 && s.trust.staged.isSome) (fun o _ => o == 0x62) <| s.command f 0x62 fun s c =>
    match s.fwFail c.body with
    | some st => s.refuse c st
    | none =>
      let img := c.body.take (imageHead + fwPayloadLen c.body)
      let s := (s.answer c { r0 := fieldAt img 0x18 8, r1 := fwSvn img })
      let s := { s with trust := { s.trust with staged := some img } }
      if s.trust.running then s
      else
        let e := s.entropy32
        let failed := s.boot.failed
        let s := e.2.startFirmware img e.1 false true
        if failed then { s with boot := { running := true } } else s)

/-- FIRMWARE_COMMIT, with what the flash came to. -/
def execFirmwareCommit (f : Nat) (flashOk : Bool) (s : State) : Result :=
  .next (s.command f 0x63 fun s c =>
    match s.trust.staged with
    | none => s.refuse c .badLength
    | some img =>
      if flashOk then { s with trust := { s.trust with flashImage := img, recovery := false } }.answer c {}
      else { s with trust := { s.trust with flashImage := [] } }.refuse c .hwError)

/-- FUSE_BURN (R460): the burn that a bring-up began is done. -/
def execFuseBurn (s : State) : Result :=
  if !s.trust.burning || !s.trust.running then .next s
  else .next { s with
    fuses := { s.fuses with
      svnFloor := max s.fuses.svnFloor s.burnAim.1
      revoked := s.fuses.revoked ||| bits s.burnAim.2 0 4 }
    trust := { s.trust with burning := false, burnLeft := none } }

/-! ### Flash and vault (R486) -/

/-- The regions of the flash. -/
inductive FlashRegion where
  | firmware | configuration | mapA | mapB | certificates | data
deriving DecidableEq, Repr

/-- Offset and size of a flash region, bytes; the last ends with the 512 Mbit. -/
def FlashRegion.span : FlashRegion → Nat × Nat
  | .firmware => (0x0000000, 20 * 2 ^ 20)
  | .configuration => (0x1400000, 2 ^ 20)
  | .mapA => (0x1500000, 2 ^ 16)
  | .mapB => (0x1510000, 2 ^ 16)
  | .certificates => (0x1520000, 2 ^ 16)
  | .data => (0x1530000, 0x4000000 - 0x1530000)

/-- The regions of the state vault. -/
inductive VaultRegion where
  | criticalRecords | counters
deriving DecidableEq, Repr

/-- Offset and size of a vault region, bytes. -/
def VaultRegion.span : VaultRegion → Nat × Nat
  | .criticalRecords => (0x00000, 2 ^ 18)
  | .counters => (0x40000, 2 ^ 18)

/-- The firmware region may be written: only during FIRMWARE_COMMIT and recovery. -/
def State.firmwareWritable (s : State) : Bool := s.committing || s.trust.recovery

/-! ### Identity and attestation (R424, R462, R463, R492) -/

/-- ID. -/
def State.idWord (s : State) : Nat :=
  s.fuses.coolant * 2 ^ 40 + s.fuses.memory * 2 ^ 36 + s.fuses.grade * 2 ^ 32 + 0x0C12 * 2 ^ 16 + 0x1E57

/-- REV. -/
def State.revWord (s : State) : Nat :=
  let u := s.fuses
  let steps := u.edMax * 2 ^ 48 + u.edMin * 2 ^ 40 + u.bdMax * 2 ^ 32 + u.bdMin * 2 ^ 24 + u.cdMax * 2 ^ 16 + u.cdMin * 2 ^ 8
  (if s.trust.running then s.trust.ifLevel else 0) * 2 ^ 56 + (if s.trust.steppings then steps else 0) + 0xB * 2 ^ 4
    + (if s.trust.romStarted then u.romRev else 0)

/-- SEC_STATUS. -/
def State.secStatus (s : State) : Nat :=
  b2n s.trust.unlocked * 2 ^ 63 + b2n s.trust.recovery * 2 ^ 62 + b2n s.fuses.packaged * 2 ^ 61 + s.fuses.revoked * 2 ^ 52
    + s.fuses.debugKeys * 2 ^ 48 + s.fuses.svnFloor * 2 ^ 40 + s.trust.svn * 2 ^ 32 + s.trust.bootCount % 2 ^ 32

/-- Bytes 0-767 of a report for a function. -/
def State.reportHead (s : State) (f : Nat) (nonce : List Byte) : List Byte :=
  leBytes 4 0x54544151 ++ leBytes 2 1
    ++ leBytes 2 (b2n s.trust.unlocked + b2n s.trust.recovery * 2 + b2n s.fuses.packaged * 4)
    ++ leBytes 4 s.trust.bootCount ++ leBytes 1 s.fuses.svnFloor ++ leBytes 1 s.trust.svn ++ zeros 2 ++ nonce
    ++ leBytes 8 s.idWord ++ leBytes 8 s.revWord ++ leBytes 8 s.time.dev ++ zeros 56
    ++ measure s.fuses.rom ++ measure s.trust.manifest ++ s.trust.mCfg
    ++ measure (s.repair.inForce.flatMap repairBytes)
    ++ (List.range 24).flatMap fun n =>
        if s.ownsPolder f n then leBytes 8 (s.polder n).shape ++ leBytes 4 (s.stateWord n) ++ zeros 4 else zeros 16

/-- The attestation report. -/
def State.report_ (s : State) (f : Nat) (nonce : List Byte) : List Byte :=
  let head := s.reportHead f nonce
  head ++ mldsaPublic s.trust.akSeed ++ s.trust.endorse
    ++ mldsaSign s.trust.akSeed (withContext "QSM-ATT" head) s.entropy32.1 ++ zeros 6

/-- ATTEST (R462). -/
def execAttest (f : Nat) (s : State) : Result :=
  .next (s.command f 0x60 fun s c =>
    if c.outLen < 146 then s.refuse c .bound
    else s.entropy32.2.output c (s.report_ f (c.args.flatMap fun a => leBytes 4 a)) {})

/-- The certificate chain (R463): a header, then each certificate on a 64 B boundary. -/
def State.certChain (s : State) : List Byte :=
  let l := s.trust.certs
  let pad (c : List Byte) : List Byte := c ++ zeros (alignUp c.length 64 - c.length)
  let head := leBytes 4 l.length ++ l.flatMap fun c => leBytes 4 c.length
  (head ++ zeros 64).take 64 ++ l.flatMap pad

/-- IDENTITY_CERT_READ. -/
def execIdentityCertRead (f : Nat) (s : State) : Result :=
  .next (s.command f 0x61 fun s c => s.output c s.certChain {})

/-! ### Debug unlock (R464, R465) -/

/-- DBG_CHALLENGE: 96 B, the nonce as the entropy source gives it. -/
def execDbgChallenge (nonce : List Byte) (s : State) : Result :=
  if !s.power.management then .next s
  else
    let c := digest (mldsaPublic s.fuses.seed) ++ (nonce ++ zeros 32).take 32 ++ leBytes 4 s.trust.bootCount ++ zeros 28
    .next { s with trust := { s.trust with challenge := some c }, reply := .data c }

/-- The checks of a response to a challenge. -/
def State.responseOk (s : State) (challenge : List Byte) (r : DebugResponse) : Bool :=
  decide (r.scope.toNat < 16) && decide (r.keyIndex < 4) && !bit s.fuses.revoked r.keyIndex
    && bit s.fuses.debugKeys r.keyIndex && digest r.publicKey == nth [] s.fuses.keys r.keyIndex
    && mldsaVerify r.publicKey (withContext "QSM-DBG" (challenge ++ leBytes 4 r.scope.toNat)) r.signature

/-- DBG_RESPONSE: a bad one is dropped and counted, and uses the challenge up.  An unlock of bit 2 or 3 takes effect when
its package floodgate has completed (R465). -/
def execDbgResponse (r : DebugResponse) (s : State) : Result :=
  if !s.power.management then .next s
  else
    let ok := match s.trust.challenge with
      | some c => s.responseOk c r
      | none => false
    let s := { s with trust := { s.trust with challenge := none }, reply := .done }
    if !ok then .next { s with trust := { s.trust with badResponses := s.trust.badResponses + 1 } }
    else if bit r.scope.toNat 2 || bit r.scope.toNat 3 then
      let s := s.startPackageGate 25
      .next { s with trust := { s.trust with scopeDue := s.trust.scopeDue ||| r.scope.toNat } }
    else .next { s with trust := { s.trust with unlocked := true, scope := s.trust.scope ||| r.scope.toNat } }

/-- DBG_CHALLENGE_EXPIRY: 60 s after it was issued. -/
def execDbgChallengeExpiry (s : State) : Result := .next { s with trust := { s.trust with challenge := none } }

end Sys2Proof.Machine
end

