-- ==== Sys2Proof/Machine/BringUp.lean ====
section
/-! DEFINITION. Cold and warm bring-up, what each reset clears and keeps, and their failures (R196, R214, R396, R401,
R405-R415, R424). -/

namespace Sys2Proof.Machine

/-! ### Package straps (R414) -/

/-- The strap word of position `i`: compute dies 0-11, base dies 12-15, edge base dies 16-47. -/
def strapOf (i : Nat) : Nat :=
  let v := if i < 12 then i else if i < 16 then 2 ^ 5 + (i - 12) else 2 * 2 ^ 5 + (i - 16)
  let ones := ((List.range 7).filter (bit v)).length
  v + (if ones % 2 == 0 then 2 ^ 7 else 0)

/-- The first position whose word is not the one that belongs there (UNIT of STRAP_FAULT, by position; log 27). -/
def strapFault (straps : List Byte) : Option Nat :=
  (List.range 48).find? fun i => (nth 0 straps i).toNat != strapOf i

/-! ### Maps applied at a bring-up (R412-R419, R206, R214) -/

/-- Bad lines that a map gives an edge channel, ascending. -/
def mapLines (m : List RepairEntry) (e : Nat) : List Nat :=
  (List.range 72).filter fun l => m.any fun r => r.kind == 3 && 32 * r.unit + bits r.loc 0 5 == e && bits r.loc 8 7 == l

/-- A map removes an edge channel. -/
def mapRemoves (m : List RepairEntry) (e : Nat) : Bool :=
  m.any fun r => r.kind == 4 && 32 * r.unit + bits r.loc 0 5 == e

/-- ROWS of every half-die under the map in force: 0 on a die that culvert faults fence (R418, R419). -/
def State.setRows (s : State) : State :=
  let fenced := culvertFences s.repair.inForce
  s.each (List.range 24) fun s h => s.onHalfDie h fun x => { x with
    rows := if fenced.contains (h / 2) then 0 else rowsOf s.repair.inForce h, fenced := false }

/-- Every half-die IDLE and free (R390), its arithmetic reset; those of a die that was shut down and has not cooled stay OFF
(R378, log 46). -/
def State.idleAll (s : State) : State :=
  s.each (List.range 24) fun s h => s.onHalfDie h fun x => { x with
    power := if s.dieShut h then .off else .idle
    dikeN := false, dikeE := false, dikeS := false, dikeW := false
    tide := 0, tidePart := 0, markDue := false, step := 0 }

/-- The lines of a channel that a training could not bring to their timing. -/
def trainLines (t : Training) (e : Nat) : List Nat :=
  ((t.edges.filter fun x => x.1 == e).flatMap fun x => x.2.2).filter fun l => decide (l < 72)

/-- Firmware records lines that a training marked, as at any retrain (R206). -/
def State.recordLines (s : State) (t : Training) : State :=
  let new := ((t.edges.map Prod.fst).dedup.flatMap fun e => (trainLines t e).map (lineEntry e)).filter fun r =>
    !(s.repair.inForce ++ s.fieldMap).any (sameRepair r)
  if new.isEmpty then s else s.writeField new

/-- Every edge channel trained and in memory mode, with the bad lines of the map and of the training; a channel that the map
removes is REMOVED, and so is one that had failed before (`after`) a reset; one with more than 4 bad lines becomes FAILED (R206,
R213, R214, R227, R413); ABORTS and the error counts are kept (R238). -/
def State.trainChannels (s : State) (t : Training) (after : Bool) : State :=
  let m := s.repair.inForce
  let linesOf (e : Nat) : List Nat := (List.range 72).filter fun l => (mapLines m e).contains l || (trainLines t e).contains l
  let touched := ((s.channels.map Prod.fst) ++ (t.edges.map Prod.fst) ++ (m.filter fun r => r.kind == 3 || r.kind == 4).map fun r =>
    32 * r.unit + bits r.loc 0 5).dedup
  let s := s.each touched fun s e => s.onEdgeCh e fun c =>
    let base : EdgeCh := { ueCount := c.ueCount, retrains := c.retrains, ceCount := c.ceCount, aborts := c.aborts, badLines := linesOf e }
    { base with
      state := if mapRemoves m e || c.state == .removed || (after && c.state == .failed) then .removed
        else if c.state == .failed then .failed else .trained }
  let failing := touched.filter fun e => (s.edgeCh e).state == .trained && decide (4 < (linesOf e).length)
  let s := (s.recordLines t).each failing State.failChannel
  s.each (List.range 32) fun s e => s.onStack e fun k => { k with trainedAt := none, dispatch := [], passCorrected := 0 }

/-- What trainings found enters the training store: settings, wavelengths, culvert shares and the widths that crossings agree
(R412, R413). -/
def TrainStore.take (st : TrainStore) (t : Training) : TrainStore :=
  { edges := t.edges.foldl (fun m x => Sparse.set 0 m x.1 x.2.1) st.edges
    ports := t.ports.foldl (fun m x => Sparse.set (0, 0) m x.1 x.2) st.ports
    crossings := t.crossings.foldl (fun m x => Sparse.set (0, 0) m x.1 x.2) st.crossings
    culverts := t.culverts.foldl (fun m x => Sparse.set 0 m x.1 x.2) st.culverts
    widths := t.widths.foldl (fun m o => Sparse.set 4 m (o.dieA * 16 + o.dieB) (offerWidth o)) st.widths }

def State.storeTraining (s : State) (t : Training) : State :=
  { s with repair := { s.repair with store := s.repair.store.take t } }

/-! ### The end of a bring-up -/

/-- A stepping outside the table of R424. -/
def State.steppingFault (s : State) : Bool :=
  let ab (v : Nat) : Bool := v != 0xA1 && v != 0xB0
  let u := s.fuses
  ab u.cdMin || ab u.cdMax || ab u.bdMin || ab u.bdMax || u.edMin != 0xA1 || u.edMax != 0xA1

/-- The last steps: REV and BOOT_STATUS written, the first run of the planner's cap; with a committed image above the floor, or a
burn that was interrupted, firmware burns (R460). -/
def State.bringUpDone (s : State) (warm : Bool) (elapsed : Nat) : State :=
  { s with
    trust := { s.trust with
      steppings := true
      burning := s.trust.committed && !s.trust.recovery && (decide (s.fuses.svnFloor < s.trust.svn) || s.trust.burnLeft.isSome) }
    boot := { done := true, warm := warm, elapsedMs := elapsed } }.updateCap

/-! ### Cold bring-up (R406) -/

/-- Steps 1-3: AON, straps, rails, clocks and the PCIe domain. -/
def State.coldStart (s : State) (slot : Nat) : State :=
  let k := s.blackout
  { k with
    power := { aon := true, management := true, culverts := true, vin := 43000, vinMin := 43000, tripLatched := s.power.tripLatched }
    pcie := { k.pcie with on := true }
    slotPins := slot
    smbus := { k.smbus with slotId := slot % 16 }
    ledger := { k.ledger with stepBounds := ⟨0, s.topStep⟩, supplyCap := 43000 * k.ledger.current }
    boot := { running := true } }

/-- Cold tests: the defects found become firmware entries of the field map, with an EDGE_CHANNEL entry for a channel
with more than 4 bad lines (R409). -/
def State.coldTests (s : State) (found : List RepairEntry) : State :=
  let l := found.map fun e => { e with source := 1 }
  let m := addRepairs s.repair.inForce l
  let beyond := ((l.filter fun e => e.kind == 3).map fun e => (e.unit, bits e.loc 0 5)).dedup.filter fun x =>
    decide (4 < (mapLines m (32 * x.1 + x.2)).length)
  let l := l ++ beyond.map fun x => ⟨4, x.1, 1, x.2⟩
  let s := if l.isEmpty then s else s.writeField l
  { s with repair := { s.repair with inForce := addRepairs s.repair.inForce l } }

/-- A latched hardware trip is logged and cleared (R379). -/
def State.logTrip (s : State) : State :=
  match s.power.tripLatched with
  | none => s
  | some u =>
    let s := s.addLog 8 0 31 u.1 u.2 0
    { s with power := { s.power with tripLatched := none }, smbus := { s.smbus with shutLogged := true } }

/-- Cold steps 7 and 8 (R406): the memory domains powered, spare rows mapped in, half-dies IDLE and every interface trained; the
training store is complete at the end of step 8 (R412). -/
def State.coldTrain (s : State) (t : Training) : State :=
  let s := s.each (List.range 12) fun s d => s.onUcmDie d fun x => { x with
    on := true, selfRefresh := false, lastAccess := s.time.dev }
  let s := s.each (List.range 32) fun s e => s.onStack e fun x => { x with on := true, selfRefresh := false }
  (s.setRows.idleAll.trainChannels t false).storeTraining t

/-- Without coolant the cold bring-up holds with its domains quiet (R384). -/
def State.coldHold (s : State) : State :=
  let s := { s with thermal := { s.thermal with coolantHold := true, cause := 1 } }
  (((s.offHalfDies (List.range 24)).ucmRefresh (List.range 12)).stacksRefresh (List.range 32)).linksSilent .down

/-- Every die's copy of the timestamp is loaded from the AON domain's in one broadcast: cold step 6, warm step 4 (R467). -/
def Time.broadcast (t : Time) : Time := { t with copies := (List.range 16).map fun d => (d, true) }

/-- Cold step 10 (R406): the edge space zeroed under INTLV = PKG, CACHE_STEPS 8, every UCM valid bit clear. -/
def State.coldClear (s : State) : State :=
  { s with
    ucm := [], ucmValid := [], ucmBad := [], merges := [], edge := [], edgeBad := []
    intlvPkg := true
    basins := Sparse.mapWhere {} (fun _ => true) (fun _ => {}) s.basins }

/-- Steps 5-12. -/
def State.coldRest (s : State) (b : BringUp) : State :=
  let s := { s with time := s.time.broadcast, boot := { s.boot with running := true }, repair := { s.repair with inForce := s.mergedMap } }
  if b.culvertFault || !(culvertFences s.repair.fused).isEmpty then s.failBringUp 7 0 b.elapsedMs false
  else
    let s := s.coldTrain b.training
    if !b.coolantMet then s.coldHold
    else
    let s := { s with repair := { s.repair with trained := true } }
    match b.baseDieFault with
      | some d => s.failBringUp 6 d b.elapsedMs false
      | none =>
        -- a die under cold hold delays step 9 until the hold ends (R407)
        if b.dieCold || s.thermal.cold.any (·.2) then s else
        let s := ((s.coldTests b.defects).setRows.trainChannels b.training false).coldClear
        if s.steppingFault then s.failBringUp 8 0 b.elapsedMs false
        else s.logTrip.bringUpDone false b.elapsedMs

/-- Step 4, and what follows it. -/
def State.coldFromRom (s : State) (b : BringUp) : State :=
  let s := s.rom b.entropy b.flashError
  if s.trust.recovery then s.failBringUp 4 s.boot.unit b.elapsedMs false else s.coldRest b

/-- A cold bring-up from step 1. -/
def State.cold (s : State) (b : BringUp) : State :=
  let s := s.coldStart b.slotId
  match strapFault b.straps with
  | some i => s.failBringUp 1 i b.elapsedMs false
  | none => match b.railFault with
    | some r => s.failBringUp 3 r b.elapsedMs false
    | none => s.coldFromRom b

/-! ### Warm bring-up (R410-R412) -/

/-- What a warm reset keeps of a cluster: CYC and the error registers (R120, R192). -/
def Cluster.warm (c : Cluster) : Cluster :=
  { cyc := c.cyc, ceCount := c.ceCount, unlogged := c.unlogged, ueCount := c.ueCount, ceEntries := c.ceEntries }

/-- Every entry of the merge buffers retires, as it does within 1 µs (R190). -/
def State.retireAll (s : State) : State :=
  s.each s.merges fun s m => s.each m.2 fun s e => s.mergeRetire m.1 e.word []

/-- Step 1: work discarded, the basin written back, memory in self-refresh, half-dies off. -/
def State.warmStop (s : State) : State :=
  let s := s.interrupted.dropWork.retireAll
  let s := s.each (List.range 4) State.flushBasin
  ((s.offHalfDies (List.range 24)).ucmRefresh (List.range 12)).stacksRefresh (List.range 32)

/-- Step 2 up to the ROM: the management and PCIe domains reset, every polder ended (R276, R302, R411). -/
def State.warmClear (s : State) : State :=
  let s := s.linksSilent .detect
  { s with
    clusters := Sparse.mapWhere {} (fun _ => true) Cluster.warm s.clusters
    merges := []
    ucmScrub := []
    polders := []
    narrowed := []
    fencedCulverts := []
    board := [], boardLost := [], boardErrors := [], gathers := []
    funcs := []
    -- a link that has trained again since the reset began stays up (R305)
    pcie := if s.pcie.resetting then
        { on := true, perst := s.pcie.perst, up := s.pcie.up, rate := s.pcie.rate, width := s.pcie.width, flit := s.pcie.flit }
      else { on := true, perst := s.pcie.perst }
    bar4Win := ({} : State).bar4Win, bar4Off := []
    vfMap := []
    gates := [], gateChannels := 0, gateEndedJob := false, draining := []
    dma := [], engines := []
    basins := Sparse.mapWhere {} (fun _ => true) (fun b =>
      { cacheSteps := b.cacheSteps, scratch := b.scratch, badWords := b.badWords }) s.basins
    ledger := { s.ledger with
      meters := Sparse.drop (fun i => decide (25 ≤ i) && decide (i < 49)) s.ledger.meters
      rails := Sparse.mapWhere {} (fun _ => true) (fun r => { r with fault := false, bad := 0, sent := none, queued := none }) s.ledger.rails
      quotas := [], committed := 0, overAt := none, overLow := none, peakLow := none }
    power := { s.power with
      management := true, culverts := true, pkg := .p0, hold := false, entering := none, exiting := false, wake := false
      sagHold := false }
    boot := { running := true, warm := true, startAt := s.time.dev }
    dieTest := {}
    repair := { s.repair with staged := [] }
    trust := { s.trust with unlocked := false, scope := 0, scopeDue := 0, challenge := none, running := false }
    cdcExpired := [], cdcDown := [] }

/-- The columns, as die and x, whose physical rows two maps give differently. -/
def shiftedColumns (old new : List RepairEntry) : List (Nat × Nat) :=
  let at_ := ((old ++ new).filter fun e => e.kind == 1 || e.kind == 2).map fun e => (e.unit, bits e.loc 0 6)
  at_.dedup.filter fun c => (goodRows old c.1 c.2).take 28 != (goodRows new c.1 c.2).take 28

/-- Step 3: the maps in force; slices of newly shifted columns empty, FAILED channels REMOVED, and the domains that
lost one zeroed (R196, R214). -/
def State.warmMaps (s : State) (t : Training) : State :=
  let new := s.mergedMap
  let shifted := shiftedColumns s.repair.inForce new
  let s := s.ucmClearAll (fun core => shifted.contains (dieOf (clusterOf core), xOf (clusterOf core))) 0 24576
  let before := (List.range 1024).filter fun e => (s.edgeCh e).state == .removed
  let s := { s with repair := { s.repair with inForce := new } }.trainChannels t true
  let lost := (List.range 1024).filter fun e => (s.edgeCh e).state == .removed && !before.contains e
  if lost.isEmpty then s
  else s.edgeZero fun ch _ => s.intlvPkg || lost.any fun e => e / 256 == ch / 256

/-- Steps 4-7: every interface takes its stored setting, and those that fail its verification are trained in full (R412); in
COOLANT_HOLD the module holds again at once (R384). -/
def State.warmRest (s : State) (b : BringUp) : State :=
  let s := ((s.warmMaps b.training).setRows.idleAll).storeTraining b.training
  let s := { s with time := s.time.broadcast }
  let s := s.each (List.range 12) fun s d => s.onUcmDie d fun x => { x with
    on := true, selfRefresh := false, lastAccess := s.time.dev, passCorrected := 0 }
  let s := s.each (List.range 32) fun s e => s.onStack e fun x => { x with on := true, selfRefresh := x.shut }
  let s := if s.thermal.coolantHold then
      (((s.offHalfDies (List.range 24)).ucmRefresh (List.range 12)).stacksRefresh (List.range 32)).linksSilent .down
    else s
  if s.steppingFault then s.failBringUp 8 0 b.elapsedMs true else s.bringUpDone true b.elapsedMs

/-- A warm bring-up; as a cold one from step 1 where the training store is not complete (R412). -/
def State.warm (s : State) (b : BringUp) : State :=
  let s := s.warmStop.warmClear
  if !s.repair.trained then
    let s := { s with slotPins := b.slotId, smbus := { s.smbus with slotId := b.slotId % 16 } }
    match strapFault b.straps with
    | some i => s.failBringUp 1 i b.elapsedMs false
    | none => match b.railFault with
      | some r => s.failBringUp 3 r b.elapsedMs false
      | none => s.coldFromRom b
  else match b.railFault with
    | some r => s.failBringUp 3 r b.elapsedMs true
    | none =>
      let s := s.rom b.entropy b.flashError
      if s.trust.recovery then s.failBringUp 4 s.boot.unit b.elapsedMs true else s.warmRest b

/-- COLD_BRING_UP: VIN has risen through 43 V with the AON domain off and no trip latched.  It also continues a
bring-up that a recovery push, COOLANT_HOLD or a cold hold has left at step 5, 8 or 9 (R407, R459), and restarts one that
a coolant loss met (R428). -/
def execColdBringUp (b : BringUp) (s : State) : Result :=
  if s.boot.running && s.trust.running && !s.thermal.coolantHold && !s.power.sagHold then
    .next (if s.boot.restart then s.warm b else s.coldRest b)
  else if s.power.aon || s.power.trip.isSome then .next s
  else .next (s.cold b)

/-- WARM_BRING_UP: PERST_N, hot reset, link disable or link down, or DIAG WARM_RESET.  P3 and SAG_HOLD have their own
ways out, and a bring-up in progress goes on (R428). -/
def execWarmBringUp (b : BringUp) (s : State) : Result :=
  if !s.power.aon || s.power.pkg == .p3 || s.power.sagHold || s.boot.running then .next s else .next (s.warm b)

/-- P3_EXIT: a wake has come (R392).  UCM and edge contents were lost on entry, and the timestamp counts from REFCLK
again (R467). -/
def execP3Exit (b : BringUp) (s : State) : Result :=
  if s.power.pkg != .p3 || !s.power.exiting || !s.power.aon then .next s else .next (s.warm b)

/-- SAG_RECOVERY: VIN at or above 43 V for 100 ms (R401). -/
def execSagRecovery (b : BringUp) (s : State) : Result :=
  if !s.power.sagHold then .next s else .next (s.warm b)

/-- The crystal has not started within this time, ms: how long a bring-up that ends so has lasted (R396, R415; DEDUCED, log 27). -/
def crystalMs : Nat := 10

/-- CRYSTAL_TIMEOUT: the start that a rise of VIN or a wake from P3 began fails (R396, R415). -/
def execCrystalTimeout (s : State) : Result :=
  if !s.power.aon && s.power.trip.isNone then .next ((s.coldStart s.slotPins).failBringUp 2 0 crystalMs false)
  else if s.power.aon && s.power.pkg == .p3 && s.power.exiting then
    .next (s.warmStop.warmClear.failBringUp 2 0 crystalMs true)
  else .next s

end Sys2Proof.Machine
end

