-- ==== Sys2Proof/Machine/Context.lean ====
section
/-! DEFINITION. Contexts: their bytes, CONTEXT_SAVE and CONTEXT_RESTORE (R340-R342).  The inside of a cluster area is
fixed by firmware and opaque to the host; the model's own layout of it is a DESIGN CHOICE (log 20), and everything that the
spec has a context hold fits into it. -/

namespace Sys2Proof.Machine

/-! ### Numbers as bytes -/

/-- Bytes a number needs; `fuel` bounds them. -/
def byteLen : (fuel : Nat) → Nat → Nat
  | 0, _ => 0
  | f + 1, v => if v == 0 then 0 else byteLen f (v / 256) + 1

/-- A number as its length and its bytes. -/
def saveNat (v : Nat) : List Byte := let n := byteLen 64 v; BitVec.ofNat 8 n :: leBytes n v
def saveBytes (l : List Byte) : List Byte := saveNat l.length ++ l
def saveList {α : Type} (f : α → List Byte) (l : List α) : List Byte := saveNat l.length ++ l.flatMap f

/-- Reading back: a value and what is left. -/
abbrev Unpack (α : Type) := List Byte → α × List Byte

def takeNat : Unpack Nat
  | [] => (0, [])
  | n :: r => (leNat (r.take n.toNat), r.drop n.toNat)
def takeBytes : Unpack (List Byte) := fun l => let n := takeNat l; (n.2.take n.1, n.2.drop n.1)
def takeMany {α : Type} (f : Unpack α) : Nat → Unpack (List α)
  | 0, l => ([], l)
  | n + 1, l =>
    let x := f l
    let r := takeMany f n x.2
    (x.1 :: r.1, r.2)
def takeList {α : Type} (f : Unpack α) : Unpack (List α) := fun l =>
  let n := takeNat l
  takeMany f (min n.1 n.2.length) n.2

/-! ### One operation, S-core and cluster -/

/-- Beats of 16 B as the lowest of them and a mask of those from it on: at most 64 B for a T-core's SRAM and 128 B for a
V-core's. -/
def packBeats (l : List Nat) : List Byte :=
  let lo := l.foldl min (l.headD 0)
  let m := l.foldl (fun m a => m ||| 2 ^ ((a - lo) / 16)) 0
  saveNat lo ++ saveBytes (leBytes (byteLen 128 m) m)
def takeBeats : Unpack (List Nat) := fun l =>
  let lo := takeNat l
  let m := takeBytes lo.2
  (((List.range (8 * m.1.length)).filter (bit (leNat m.1))).map fun i => lo.1 + 16 * i, m.2)

def packOp (o : Op) : List Byte :=
  saveNat o.word.toNat ++ saveNat o.done ++ saveNat (o.started.elim 0 (· + 1)) ++ saveBytes o.buf
    ++ saveNat o.sent ++ packBeats o.covered ++ saveNat (o.seen.elim 0 fun m => m.1 * 8 + m.2 * 2 + 1) ++ saveNat (b2n o.taken)
def takeOp : Unpack Op := fun l =>
  let word := takeNat l
  let done := takeNat word.2
  let st := takeNat done.2
  let buf := takeBytes st.2
  let sent := takeNat buf.2
  let covered := takeBeats sent.2
  let seen := takeNat covered.2
  let taken := takeNat seen.2
  ({ word := BitVec.ofNat 128 word.1, done := done.1, started := if st.1 == 0 then none else some (st.1 - 1),
     buf := buf.1, sent := sent.1, covered := covered.1
     seen := if seen.1 == 0 then none else some (seen.1 / 8, seen.1 / 2 % 4), taken := taken.1 == 1 }, taken.2)

/-- A core's last late word. -/
def packLate : Option Late → List Byte
  | none => saveNat 0
  | some x => saveNat (x.cycle + 1) ++ saveNat x.lo ++ saveNat (b2n x.reads + 2 * b2n x.left + 4 * b2n x.waited)
def takeLate : Unpack (Option Late) := fun l =>
  let c := takeNat l
  if c.1 == 0 then (none, c.2)
  else
    let lo := takeNat c.2
    let f := takeNat lo.2
    (some ⟨c.1 - 1, lo.1, bit f.1 0, bit f.1 1, bit f.1 2⟩, f.2)

def savePair (x : Nat × Nat) : List Byte := saveNat x.1 ++ saveNat x.2
def takePair : Unpack (Nat × Nat) := fun l =>
  let a := takeNat l
  let b := takeNat a.2
  ((a.1, b.1), b.2)

/-- An S-core apart from its memories. -/
def packScore (x : SCore) : List Byte :=
  saveNat x.pc ++ saveList (fun e => savePair (e.1, e.2.toNat)) x.regs ++ saveNat x.anchor ++ saveList savePair x.tmask
    ++ saveList savePair x.vmask ++ saveNat x.conflicts ++ saveNat (b2n x.ended) ++ saveNat x.ready
    ++ saveList savePair x.usable ++ saveList packOp x.ops ++ saveNat x.status.toNat ++ packLate x.late
def takeScore : Unpack SCore := fun l =>
  let pc := takeNat l
  let regs := takeList takePair pc.2
  let anchor := takeNat regs.2
  let tm := takeList takePair anchor.2
  let vm := takeList takePair tm.2
  let cf := takeNat vm.2
  let en := takeNat cf.2
  let rd := takeNat en.2
  let us := takeList takePair rd.2
  let ops := takeList takeOp us.2
  let st := takeNat ops.2
  let lt := takeLate st.2
  ({ pc := pc.1, regs := regs.1.map fun e => (e.1, BitVec.ofNat 32 e.2), anchor := anchor.1, tmask := tm.1, vmask := vm.1,
     conflicts := cf.1, ended := en.1 == 1, ready := rd.1, usable := us.1, ops := ops.1, status := BitVec.ofNat 5 st.1
     late := lt.1 },
    lt.2)

def portCode : Port → Nat
  | .local => 0
  | .north => 1
  | .east => 2
  | .south => 3
  | .west => 4
def portOf (n : Nat) : Port :=
  match n with
  | 0 => .local
  | 1 => .north
  | 2 => .east
  | 3 => .south
  | _ => .west

def packFlight (x : Flight) : List Byte :=
  saveNat x.slot ++ saveNat (portCode x.port) ++ saveBytes x.data ++ saveNat x.flags.toNat
def takeFlight : Unpack Flight := fun l =>
  let a := takeNat l
  let b := takeNat a.2
  let c := takeBytes b.2
  let d := takeNat c.2
  (⟨a.1, portOf b.1, c.1, BitVec.ofNat 5 d.1⟩, d.2)
def packBeat (x : Beat) : List Byte := saveNat x.slot ++ saveNat x.dst ++ saveNat x.addr ++ saveBytes x.data
def takeBeatOf : Unpack Beat := fun l =>
  let a := takeNat l
  let b := takeNat a.2
  let c := takeNat b.2
  let d := takeBytes c.2
  (⟨a.1, b.1, c.1, d.1⟩, d.2)

/-- A router and its sluices, apart from the slot table. -/
def packCluster (c : Cluster) : List Byte :=
  saveNat c.page ++ saveNat c.entry ++ saveNat c.since ++ saveNat c.inForce.toNat
    ++ saveList savePair c.pageAt
    ++ saveList (fun x => savePair (x.1, x.2.1) ++ saveNat x.2.2.toNat) c.writes
    ++ saveList saveBytes c.inject ++ saveList saveBytes c.eject ++ saveList packFlight c.inputs
    ++ saveList packFlight c.outputs ++ saveList packBeat c.beats ++ saveNat c.sin.filled ++ saveNat c.sin.head
    ++ saveList saveNat c.sin.recent ++ saveNat c.sout.posted ++ saveNat c.sout.tail ++ saveList saveNat c.sout.recent
    ++ saveNat c.sluiceHolds ++ saveList saveBytes c.notes ++ saveBytes c.lastNote ++ saveList saveNat c.sout.spoiled
    ++ saveList (fun x => savePair (x.slot, x.score) ++ savePair (x.queue, x.mask)) c.issues ++ saveList saveNat c.noteRecent
    ++ saveNat c.cyc
def takeCluster (c : Cluster) : Unpack Cluster := fun l =>
  let page := takeNat l
  let entry := takeNat page.2
  let since := takeNat entry.2
  let inF := takeNat since.2
  let pageAt := takeList takePair inF.2
  let writes := takeList (fun l => let a := takePair l; let b := takeNat a.2; ((a.1.1, a.1.2, BitVec.ofNat 128 b.1), b.2)) pageAt.2
  let inj := takeList takeBytes writes.2
  let eje := takeList takeBytes inj.2
  let ins := takeList takeFlight eje.2
  let outs := takeList takeFlight ins.2
  let beats := takeList takeBeatOf outs.2
  let filled := takeNat beats.2
  let head := takeNat filled.2
  let rin := takeList takeNat head.2
  let posted := takeNat rin.2
  let tail := takeNat posted.2
  let rout := takeList takeNat tail.2
  let sh := takeNat rout.2
  let notes := takeList takeBytes sh.2
  let last := takeBytes notes.2
  let spoiled := takeList takeNat last.2
  let issues := takeList (fun l => let a := takePair l; let b := takePair a.2; ((⟨a.1.1, a.1.2, b.1.1, b.1.2⟩ : Issue), b.2)) spoiled.2
  let nr := takeList takeNat issues.2
  let cyc := takeNat nr.2
  ({ c with
     page := page.1, entry := entry.1, since := since.1, inForce := BitVec.ofNat 128 inF.1, pageAt := pageAt.1
     writes := writes.1, inject := inj.1, eject := eje.1, inputs := ins.1, outputs := outs.1, beats := beats.1
     sin := { c.sin with open_ := true, filled := filled.1, head := head.1, recent := rin.1, inflight := 0, coming := [] }
     sout := { c.sout with open_ := true, posted := posted.1, tail := tail.1, recent := rout.1, spoiled := spoiled.1 }
     sluiceHolds := sh.1, notes := notes.1, lastNote := last.1, issues := issues.1, noteRecent := nr.1, cyc := cyc.1 }, cyc.2)

/-- Words of an accumulator file as bytes. -/
def accBytes (m : Sparse Word) : List Byte := (Sparse.range 0 m 0 1024).flatMap fun w => leBytes 4 w.toNat

/-- The 73 bits of a slot-table entry that R139 does not reserve; a valid entry has the others 0 (R140). -/
def squeeze (e : Nat) : Nat := bits e 0 31 + bits e 32 16 * 2 ^ 31 + bits e 64 26 * 2 ^ 47
def unsqueeze (v : Nat) : Nat := bits v 0 31 + bits v 31 16 * 2 ^ 32 + bits v 47 26 * 2 ^ 64

/-- Entries of a slot table as bytes, ten for each. -/
def tableBytes (m : Sparse U128) : List Byte := (Sparse.range idleEntry m 0 4096).flatMap fun e => leBytes 10 (squeeze e.toNat)
def tableOf (l : List Byte) : Sparse U128 :=
  Sparse.ofList idleEntry 0 ((chunks 10 l).map fun b => BitVec.ofNat 128 (unsqueeze (leNat b)))

def areaBytes : Nat := 917504
def memAreaBytes : Nat := 876544

/-- What a T-core or V-core holds beside its memories: flags, whether it has been stirred, its last late word and its
operations. -/
def packCore (f : Flags) (stirred : Bool) (l : Option Late) (ops : List Op) : List Byte :=
  saveNat (2 * f.toNat + b2n stirred) ++ packLate l ++ saveList packOp ops

/-- A cluster area: T-core SRAM and accumulators, V-core SRAM, S-core memories, slot table, then in its last 40 KiB the
registers, queues and staging. -/
def State.clusterArea (s : State) (p cl : Nat) : List Byte :=
  let t := (List.range 48).map fun i => s.tcore (cl * 64 + i)
  let v := (List.range 12).map fun i => s.vcore (cl * 64 + 48 + i)
  let k := (List.range 4).map fun i => s.score (cl * 64 + 60 + i)
  t.flatMap (fun x => x.sram.read 0 8192) ++ t.flatMap (fun x => accBytes x.acc) ++ v.flatMap (fun x => x.sram.read 0 16384)
    ++ k.flatMap (fun x => x.imem.read 0 8192) ++ k.flatMap (fun x => x.dmem.read 0 4096) ++ tableBytes (s.slotTable cl)
    ++ fit 40960 (saveNat (s.polder p).holdCount ++ saveNat (s.polder p).cycle ++ packCluster (s.cluster cl) ++ k.flatMap packScore
        ++ v.flatMap (fun x => packCore x.status x.stirred x.late x.ops)
        ++ t.flatMap (fun x => packCore x.status x.stirred x.late x.ops))

/-- Memory from consecutive bytes. -/
def memOf (l : List Byte) : Memory := Sparse.ofList 0 0 l

/-- What `n` cores hold beside their memories, read back. -/
def takeCores (n : Nat) : Unpack (List (Flags × Bool × Option Late × List Op)) :=
  takeMany (fun l =>
    let a := takeNat l
    let b := takeLate a.2
    let c := takeList takeOp b.2
    ((BitVec.ofNat 5 (a.1 / 2), a.1 % 2 == 1, b.1, c.1), c.2)) n

/-- A cluster area written back. -/
def State.restoreArea (s : State) (p cl : Nat) (a : List Byte) : State :=
  let at_ (o n : Nat) : List Byte := (a.drop o).take n
  let rest := a.drop memAreaBytes
  let holds := takeNat rest
  let cyc := takeNat holds.2
  let c := takeCluster (s.cluster cl) cyc.2
  let k := takeMany takeScore 4 c.2
  let v := takeCores 12 k.2
  let t := takeCores 48 v.2
  let s := s.setCluster cl { c.1 with table := tableOf (at_ 835584 40960) }
  let s := s.onPolder p fun x => { x with holdCount := holds.1, cycle := cyc.1 }
  let s := s.each ((List.range 48).zip t.1) fun s x => s.onTcore (cl * 64 + x.1) fun y => { y with
    sram := memOf (at_ (8192 * x.1) 8192)
    acc := Sparse.ofList 0 0 ((chunks 4 (at_ (393216 + 4096 * x.1) 4096)).map fun w => BitVec.ofNat 32 (leNat w))
    status := x.2.1, stirred := x.2.2.1, late := x.2.2.2.1, ops := x.2.2.2.2 }
  let s := s.each ((List.range 12).zip v.1) fun s x => s.onVcore (cl * 64 + 48 + x.1) fun y => { y with
    sram := memOf (at_ (589824 + 16384 * x.1) 16384)
    status := x.2.1, stirred := x.2.2.1, late := x.2.2.2.1, ops := x.2.2.2.2 }
  s.each ((List.range 4).zip k.1) fun s x => s.setScore (cl * 64 + 60 + x.1) { x.2 with
    imem := memOf (at_ (786432 + 8192 * x.1) 8192), dmem := memOf (at_ (819200 + 4096 * x.1) 4096) }

/-! ### The context (R341) -/

def ctxMagic : Nat := 0x58544351
def ctxBytes (c : Nat) (ucm : Bool) : Nat := 8192 + c * areaBytes + if ucm then c * 50331648 else 0

/-- A map entry in the layout of R265. -/
def randBytes (r : RandEntry) : List Byte :=
  leBytes 8 r.key.toNat ++ leBytes 4 r.stream.toNat ++ zeros 4 ++ leBytes 8 r.base.toNat

/-- The first 8 KiB with DIGEST as given. -/
def State.ctxHeader (s : State) (p : Nat) (maps : List RandEntry) (ucm : Bool) (digest : List Byte) : List Byte :=
  let x := s.polder p
  let n := x.clusters.length
  fit 8192 (leBytes 4 ctxMagic ++ leBytes 2 1 ++ leBytes 1 s.level ++ leBytes 1 8 ++ leBytes 8 x.shape
    ++ (imgId x.image ++ zeros 16).take 16 ++ leBytes 8 (ctxBytes n ucm) ++ leBytes 4 n ++ leBytes 4 (b2n ucm)
    ++ leBytes 8 x.slot ++ zeros 8 ++ digest ++ zeros 160 ++ fit 6144 (maps.flatMap randBytes))

/-- A context's digest: over all its bytes with the field read as zeros. -/
def ctxDigest (l : List Byte) : List Byte := shake256 32 (patch l 0x40 (zeros 32))

/-- The context of a polder's job, with the bytes of its slices. -/
def State.context (s : State) (p : Nat) (maps : List RandEntry) (ucm : Bool) (slices : List Byte) : List Byte :=
  let l := s.ctxHeader p maps ucm (zeros 32) ++ (s.polder p).clusters.flatMap (s.clusterArea p) ++ slices
  patch l 0x40 (ctxDigest l)

/-! ### The rows -/

/-- CONTEXT_SAVE (R340): the hold is asserted at the polder's next tide mark. -/
def execContextSave (f : Nat) (s : State) : Result :=
  .next (s.command f 0x24 fun s c =>
    let n := c.a 1
    let p := s.polder n
    let ucm := bit (c.a 2) 0
    match s.polderFail n false with
    | some st => s.refuse c st
    | none =>
      if p.state != .running then s.refuse c .denied
      else if !c.fits (ctxBytes p.clusters.length ucm) then s.refuse c .bound
      else s.onPolder n fun p => { p with command := some ⟨f, c.tag, c.opc, c.notify, c.out, c.outLen, ucm, false⟩ })

/-- The merge buffers of a polder's slices retire. -/
def State.retireFor (s : State) (x : Polder) : State :=
  s.each ((s.merges.map Prod.fst).filter fun core => x.holds? (halfOf (clusterOf core))) fun s core =>
    s.each ((Sparse.get [] s.merges core).map MergeEntry.word) fun s w => s.mergeRetire core w []

/-- A slice as it is read for a context: every word is decoded and corrections are counted (R187), and an uncorrectable
word is reported. -/
def State.sliceOut (s : State) (core func : Nat) : State × Status × List Byte :=
  let bad := (s.ucmBad.filter fun e => e.1 / sliceWords == core).map fun e => e.1 % sliceWords
  bad.foldl (fun r w =>
    let g := r.1.ucmRead core w srcAperture [] { func := func, code := codeFirmware }
    if g.2.status == .ok then (g.1, r.2.1, patch r.2.2 (32 * w) g.2.data) else (g.1, g.2.status, r.2.2))
    (s, .ok, s.ucm.read (core * sliceBytes) sliceBytes)

/-- The slices of a list of clusters, core by core. -/
def State.slicesOut (s : State) (func : Nat) (cls : List Nat) : State × Status × List Byte :=
  (cls.flatMap fun cl => (List.range 64).map (cl * 64 + ·)).foldl (fun r core =>
    let g := r.1.sliceOut core func
    (g.1, if r.2.1 == .ok then g.2.1 else r.2.1, r.2.2 ++ g.2.2)) (s, .ok, [])

/-- The cores and clusters of a polder drop what they have in progress. -/
def State.dropInProgress (s : State) (p : Nat) (x : Polder) : State :=
  let s := s.each (s.listed p) fun s cl => s.onCluster cl Cluster.discard
  let s := s.each ((s.tcores.map Prod.fst).filter fun core => x.holds? (halfOf (clusterOf core)))
    fun s core => s.onTcore core fun t => { t with ops := [] }
  let s := s.each ((s.vcores.map Prod.fst).filter fun core => x.holds? (halfOf (clusterOf core)))
    fun s core => s.onVcore core fun t => { t with ops := [] }
  s.each ((s.scores.map Prod.fst).filter fun core => x.holds? (halfOf (clusterOf core)))
    fun s core => s.onScore core fun t => { t with ops := [], ended := true }

/-- The saved context has gone out: the sluices close, the channels are disabled, the command completes, and the job it
was taken from ends ABORTED with SAVED.  The polder returns to LOADED. -/
def State.savedContext (s : State) (p : Nat) (c : InFlight) (n : Nat) : State :=
  let x := s.polder p
  let s := s.closeSluices p
  let s := s.each (s.liveChans fun ch => ch.polder == p) State.disableChan
  let s := s.onPolder p fun x => { x with command := none, holds := [] }
  let s := s.complete c.func c.tag c.opc c.notify { polder := p, outBytes := n }
  let s := (s.finishJob p .aborted (2 ^ 30)).dropInProgress p x
  (s.idleHalfDies p).onPolder p fun x => { x with state := .loaded }

/-- A save whose output or slices cannot be had changes nothing: the hold ends and the job goes on (R324). -/
def State.giveUpSave (s : State) (p : Nat) (c : InFlight) (st : Status) : State :=
  (s.onPolder p fun x => { x with command := none, holds := x.holds.filter fun h => h.1 != .context }).complete
    c.func c.tag c.opc c.notify { status := st, polder := p }

/-- CONTEXT_SAVE once the hold stands and no inbound entry is in flight (R340): an uncorrectable slice word ends it with
HW_ERROR, a failing output access with BUS_ERROR (DEDUCED, log 20). -/
def execContextSaveCopy (p : Nat) (s : State) : Result :=
  let x := s.polder p
  match x.command, x.job with
  | some c, some j =>
    if c.opc != 0x24 || !c.ready || x.state != .running || !s.trust.running
        || (s.listed p).any fun cl => (s.cluster cl).sin.inflight != 0 then .next s
    else
      let r := if c.ucm then (s.retireFor x).slicesOut c.func x.clusters else (s, .ok, [])
      if r.2.1 != .ok then .next (r.1.giveUpSave p c r.2.1)
      else
        let ctx := if c.outAddr == 0 then [] else r.1.context p j.maps c.ucm r.2.2
        let w := r.1.writeOut c.func c.outAddr ctx
        .next (if w.2 == .ok then w.1.savedContext p c ctx.length else w.1.giveUpSave p c w.2)
  | _, _ => .next s

/-- CONTEXT_RESTORE (R342): the checks, then the queue for admission. -/
def execContextRestore (f : Nat) (s : State) : Result :=
  .next (s.command f 0x25 fun s c =>
    let n := if decide (c.a 1 < 24) then s.rotated f (c.a 1) else c.a 1
    let p := s.polder n
    match s.polderFail n false with
    | some st => s.refuse c st
    | none =>
      let l := c.body
      -- what CLUSTERS and CFLAGS give: CTX_BYTES must say the same (log 56)
      let size := ctxBytes (fieldAt l 0x28 4) (bit (fieldAt l 0x2C 4) 0)
      let ctx := l.take size
      match firstFail [
          (p.state != .loaded && p.state != .empty || p.job.isSome, .busy),
          (p.state == .empty, .denied),
          (p.fenced || !p.wideEnough p.image, .degraded),
          (c.a 2 == 0 || c.a 3 == 0, .bound),
          (fieldAt l 0 4 != ctxMagic || fieldAt l 4 2 != 1, .formatUnsupported),
          (fieldAt l 0x20 8 == 0, .badLength),
          (fieldAt l 0x20 8 != size, .formatUnsupported),
          (decide (l.length < size) || !c.fits (64 + 32 * p.clusters.length), .bound),
          (ctxDigest ctx != (l.drop 0x40).take 32, .authFail),
          (fieldAt l 8 8 != p.shape || fieldAt l 0x28 4 != p.clusters.length || fieldAt l 7 1 != 8 || fieldAt l 6 1 != s.level
            || (l.drop 0x10).take 16 != imgId p.image, .shapeMismatch)] with
      | some st => s.refuse c st
      | none =>
        let maps := (chunks 24 ((l.drop 0x100).take (24 * (imgMaps p.image).length))).map fun r =>
          (⟨BitVec.ofNat 64 (fieldAt r 0 8), BitVec.ofNat 32 (fieldAt r 8 4), BitVec.ofNat 64 (fieldAt r 16 8)⟩ : RandEntry)
        s.queueJob c n 0 (c.a 2) (c.a 3) maps ctx)

/-- The saved slot of a restored job (R342): the context is written back and the sluices reopen. -/
def State.resumeJob (s : State) (p : Nat) (j : Job) : State :=
  let x := s.polder p
  let cls := x.clusters
  let ctx := j.context
  let s := s.goActive p
  let s := { s with halfDies := Sparse.mapWhere {} x.holds? (fun h => { h with placed := h.junk }) s.halfDies }
  let s := s.each (cls.zip (List.range cls.length)) fun s e =>
    let s := s.onCluster e.1 fun c => { c with rand := j.maps }
    s.restoreArea p e.1 ((ctx.drop (8192 + areaBytes * e.2)).take areaBytes)
  let s := if bit (fieldAt ctx 0x2C 4) 0 then
      s.each (cls.zip (List.range cls.length)) fun s e => s.each (List.range 64) fun s i =>
        s.sliceFill (e.1 * 64 + i) 0
          ((ctx.drop (8192 + areaBytes * cls.length + 50331648 * e.2 + sliceBytes * i)).take sliceBytes) else s
  s.onPolder p fun x => { x with slot := fieldAt ctx 0x30 8 }

/-- The tide mark at which an admitted job starts, or a restored one resumes (R121, R342).  No job starts in band B0 or
under cold hold (R185). -/
def execJobStart (p : Nat) (s : State) : Result :=
  let x := s.polder p
  match x.job with
  | none => .next s
  | some j =>
    if j.phase != .admitted || x.state != .loaded || !x.atMark || !s.trust.running || s.b0Hold p || s.gated p then .next s
    else
      let s := s.onPolder p fun x => { x with retrain := false }
      .next (if j.context.isEmpty then s.startJob p j else s.resumeJob p j)

end Sys2Proof.Machine
end

