-- ==== Sys2Proof/Machine/Riscv.lean ====
section
/-! DEFINITION. The S-core as a processor (R108-R110, R120): fetching, decoding and executing RV32IMC and Zicsr.  The
encodings and effects of these instructions are those of the public RISC-V unprivileged specification, which R108 names
and does not repeat (PRESUMED, log 31). -/

namespace Sys2Proof.Machine

/-- A decoded instruction: registers by number, immediates as the 32-bit value they stand for. -/
inductive Rv where
  | lui (rd : Nat) (imm : Word)
  | auipc (rd : Nat) (imm : Word)
  | jal (rd : Nat) (off : Word)
  | jalr (rd rs1 : Nat) (imm : Word)
  | branch (f3 rs1 rs2 : Nat) (off : Word)
  | load (f3 rd rs1 : Nat) (imm : Word)
  | store (f3 rs1 rs2 : Nat) (imm : Word)
  | opImm (f3 : Nat) (alt : Bool) (rd rs1 : Nat) (imm : Word)
  | op (f3 : Nat) (alt : Bool) (rd rs1 rs2 : Nat)
  | mulDiv (f3 rd rs1 rs2 : Nat)
  | fence
  | ecall
  | ebreak
  | csr (f3 rd rs1 csr : Nat)
  | sat (rs1 : Nat)
  | sati (imm : Nat)
  | sdone
  | tiss (rs1 m : Nat)
  | viss (rs1 m : Nat)
  | sin (rs1 : Nat)
  | sout (rs1 : Nat)
  | sack (rs1 : Nat)
  | spost (rs1 : Nat)
  | rpage (rs1 : Nat)
  | rwr (rs1 rs2 : Nat)
  | srdc (rd rs1 rs2 : Nat)
  | smove (rs1 : Nat)
  | snote (rs1 : Nat)
deriving DecidableEq, Repr

/-- A sign-extended immediate of `n` bits. -/
def immOf (n v : Nat) : Word := BitVec.ofInt 32 (sx n v)

/-! ### The slot extension (R116) -/

/-- The slot-extension instruction of a word, none for an encoding that R116 does not list. -/
def decodeSlot (w : Nat) : Option Rv :=
  let rd := bits w 7 5
  let rs1 := bits w 15 5
  let rs2 := bits w 20 5
  let f7 := bits w 25 7
  let only1 (i : Rv) : Option Rv := if rd == 0 && rs2 == 0 then some i else none
  match bits w 12 3 with
  | 0 => if f7 == 0 then only1 (.sat rs1) else if f7 == 1 && rs1 == 0 then only1 .sdone else none
  | 1 => if rd == 0 && rs1 == 0 then some (.sati (bits w 20 12)) else none
  | 2 => if f7 < 8 then only1 (.tiss rs1 f7) else none
  | 3 => if f7 < 8 then only1 (.viss rs1 f7) else none
  | 4 => match f7 with
    | 0 => only1 (.sin rs1)
    | 1 => only1 (.sout rs1)
    | 2 => only1 (.sack rs1)
    | 3 => only1 (.spost rs1)
    | _ => none
  | 5 => if f7 == 0 then only1 (.rpage rs1) else if f7 == 1 && rd == 0 then some (.rwr rs1 rs2) else none
  | 6 => if f7 == 0 then some (.srdc rd rs1 rs2) else none
  | _ => if f7 == 0 then only1 (.smove rs1) else if f7 == 1 then only1 (.snote rs1) else none

/-! ### 32-bit instructions -/

/-- The instruction of a 32-bit word; none where it is illegal. -/
def decode32 (w : Nat) : Option Rv :=
  let rd := bits w 7 5
  let rs1 := bits w 15 5
  let rs2 := bits w 20 5
  let f3 := bits w 12 3
  let f7 := bits w 25 7
  let immI := immOf 12 (bits w 20 12)
  match bits w 0 7 with
  | 0x37 => some (.lui rd (BitVec.ofNat 32 (bits w 12 20 * 4096)))
  | 0x17 => some (.auipc rd (BitVec.ofNat 32 (bits w 12 20 * 4096)))
  | 0x6F => some (.jal rd (immOf 21 (bits w 31 1 * 2 ^ 20 + bits w 12 8 * 2 ^ 12 + bits w 20 1 * 2 ^ 11 + bits w 21 10 * 2)))
  | 0x67 => if f3 == 0 then some (.jalr rd rs1 immI) else none
  | 0x63 => if f3 == 2 || f3 == 3 then none else
      some (.branch f3 rs1 rs2 (immOf 13 (bits w 31 1 * 2 ^ 12 + bits w 7 1 * 2 ^ 11 + bits w 25 6 * 2 ^ 5 + bits w 8 4 * 2)))
  | 0x03 => if f3 == 3 || f3 == 6 || f3 == 7 then none else some (.load f3 rd rs1 immI)
  | 0x23 => if f3 < 3 then some (.store f3 rs1 rs2 (immOf 12 (f7 * 32 + rd))) else none
  | 0x13 =>
    if f3 == 1 then (if f7 == 0 then some (.opImm 1 false rd rs1 (BitVec.ofNat 32 rs2)) else none)
    else if f3 == 5 then
      (if f7 == 0 || f7 == 0x20 then some (.opImm 5 (f7 == 0x20) rd rs1 (BitVec.ofNat 32 rs2)) else none)
    else some (.opImm f3 false rd rs1 immI)
  | 0x33 =>
    if f7 == 1 then some (.mulDiv f3 rd rs1 rs2)
    else if f7 == 0 then some (.op f3 false rd rs1 rs2)
    else if f7 == 0x20 && (f3 == 0 || f3 == 5) then some (.op f3 true rd rs1 rs2)
    else none
  | 0x0F => if f3 == 0 then some .fence else none
  | 0x73 =>
    if w == 0x73 then some .ecall
    else if w == 0x100073 then some .ebreak
    else if f3 == 0 || f3 == 4 then none
    else some (.csr f3 rd rs1 (bits w 20 12))
  | 0x0B => decodeSlot w
  | _ => none

/-! ### Compressed instructions -/

/-- The full form of a compressed instruction; none where it is illegal. -/
def decode16 (h : Nat) : Option Rv :=
  let f3 := bits h 13 3
  let rd := bits h 7 5
  let rs2 := bits h 2 5
  let rdq := 8 + bits h 2 3
  let rsq := 8 + bits h 7 3
  let imm6 := immOf 6 (bits h 12 1 * 32 + rs2)
  let shamt := BitVec.ofNat 32 rs2
  let jump := immOf 12 (bits h 12 1 * 2 ^ 11 + bits h 11 1 * 2 ^ 4 + bits h 9 2 * 2 ^ 8 + bits h 8 1 * 2 ^ 10
    + bits h 7 1 * 2 ^ 6 + bits h 6 1 * 2 ^ 7 + bits h 3 3 * 2 + bits h 2 1 * 2 ^ 5)
  let br := immOf 9 (bits h 12 1 * 2 ^ 8 + bits h 10 2 * 2 ^ 3 + bits h 5 2 * 2 ^ 6 + bits h 3 2 * 2 + bits h 2 1 * 2 ^ 5)
  let wordOff := BitVec.ofNat 32 (bits h 10 3 * 8 + bits h 6 1 * 4 + bits h 5 1 * 64)
  match bits h 0 2, f3 with
  | 0, 0 =>
    let n := bits h 11 2 * 16 + bits h 7 4 * 64 + bits h 6 1 * 4 + bits h 5 1 * 8
    if n == 0 then none else some (.opImm 0 false rdq 2 (BitVec.ofNat 32 n))
  | 0, 2 => some (.load 2 rdq rsq wordOff)
  | 0, 6 => some (.store 2 rsq rdq wordOff)
  | 1, 0 => some (.opImm 0 false rd rd imm6)
  | 1, 1 => some (.jal 1 jump)
  | 1, 2 => some (.opImm 0 false rd 0 imm6)
  | 1, 3 =>
    if rd == 2 then
      let n := bits h 12 1 * 512 + bits h 6 1 * 16 + bits h 5 1 * 64 + bits h 3 2 * 128 + bits h 2 1 * 32
      if n == 0 then none else some (.opImm 0 false 2 2 (immOf 10 n))
    else if bits h 12 1 == 0 && rs2 == 0 then none
    else some (.lui rd (imm6 <<< 12))
  | 1, 4 => match bits h 10 2 with
    | 0 => if bit h 12 then none else some (.opImm 5 false rsq rsq shamt)
    | 1 => if bit h 12 then none else some (.opImm 5 true rsq rsq shamt)
    | 2 => some (.opImm 7 false rsq rsq imm6)
    | _ =>
      if bit h 12 then none else
      match bits h 5 2 with
      | 0 => some (.op 0 true rsq rsq rdq)
      | 1 => some (.op 4 false rsq rsq rdq)
      | 2 => some (.op 6 false rsq rsq rdq)
      | _ => some (.op 7 false rsq rsq rdq)
  | 1, 5 => some (.jal 0 jump)
  | 1, 6 => some (.branch 0 rsq 0 br)
  | 1, 7 => some (.branch 1 rsq 0 br)
  | 2, 0 => if bit h 12 then none else some (.opImm 1 false rd rd shamt)
  | 2, 2 => if rd == 0 then none else
      some (.load 2 rd 2 (BitVec.ofNat 32 (bits h 12 1 * 32 + bits h 4 3 * 4 + bits h 2 2 * 64)))
  | 2, 4 =>
    if !bit h 12 then
      (if rs2 == 0 then (if rd == 0 then none else some (.jalr 0 rd 0)) else some (.op 0 false rd 0 rs2))
    else if rs2 == 0 then (if rd == 0 then some .ebreak else some (.jalr 1 rd 0))
    else some (.op 0 false rd rd rs2)
  | 2, 6 => some (.store 2 2 rs2 (BitVec.ofNat 32 (bits h 9 4 * 4 + bits h 7 2 * 64)))
  | _, _ => none

/-! ### Fetch (R108, R110) -/

/-- What a fetch gives: the instruction, its bytes and its word, or the status of the exception and the word. -/
inductive Fetched where
  | fault (st : Status) (word : Nat)
  | instr (i : Rv) (len word : Nat)
deriving DecidableEq, Repr

/-- Fetching at a program counter: BOUND beyond 0x1FFF, BAD_OPCODE for an illegal word.  The word that a fetch beyond 0x1FFF
logs is 0, or the half that still lies in the SRAM (R110; DESIGN CHOICE, log 53). -/
def fetchAt (imem : Memory) (pc : Nat) : Fetched :=
  if 0x2000 < pc + 2 then .fault .bound 0
  else
    let h := leNat (imem.read pc 2)
    if h % 4 != 3 then
      match decode16 h with
      | some i => .instr i 2 h
      | none => .fault .badOpcode h
    else if 0x2000 < pc + 4 then .fault .bound h
    else
      let w := leNat (imem.read pc 4)
      match decode32 w with
      | some i => .instr i 4 w
      | none => .fault .badOpcode w

/-- Registers an instruction reads. -/
def Rv.sources : Rv → List Nat
  | .jalr _ a _ | .load _ _ a _ | .opImm _ _ _ a _ | .sat a | .tiss a _ | .viss a _ | .sin a | .sout a | .sack a | .spost a
  | .rpage a | .smove a | .snote a => [a]
  | .branch _ a b _ | .store _ a b _ | .op _ _ _ a b | .mulDiv _ _ a b | .rwr a b | .srdc _ a b => [a, b]
  | .csr f3 _ a _ => if f3 < 4 then [a] else []
  | _ => []

/-! ### Registers -/

/-- x0 reads as zero. -/
def SCore.reg (x : SCore) (r : Nat) : Word := if r == 0 then 0 else Sparse.get 0 x.regs r

/-- Writing a register, with the slot from which its value is usable (R109); x0 discards the write. -/
def SCore.setReg (x : SCore) (r : Nat) (v : Word) (usable : Nat) : SCore :=
  if r == 0 then x else { x with regs := Sparse.set 0 x.regs r v, usable := Sparse.set 0 x.usable r usable }

/-- The slot in which the S-core's next instruction executes: the end of the one before it, and every source usable
(R109). -/
def SCore.dueAt (x : SCore) : Nat :=
  match fetchAt x.imem x.pc with
  | .fault _ _ => x.ready
  | .instr i _ _ => (i.sources.map fun r => if r == 0 then 0 else Sparse.get 0 x.usable r).foldl max x.ready

/-! ### Arithmetic -/

/-- The integer operations by funct3, SUB and SRA where `alt`. -/
def alu (f3 : Nat) (alt : Bool) (a b : Word) : Word :=
  match f3 with
  | 0 => if alt then a - b else a + b
  | 1 => a <<< (b.toNat % 32)
  | 2 => if a.slt b then 1 else 0
  | 3 => if a.ult b then 1 else 0
  | 4 => a ^^^ b
  | 5 => if alt then a.sshiftRight (b.toNat % 32) else a >>> (b.toNat % 32)
  | 6 => a ||| b
  | _ => a &&& b

/-- MUL, MULH, MULHSU, MULHU, DIV, DIVU, REM and REMU by funct3. -/
def mulDivOf (f3 : Nat) (a b : Word) : Word :=
  match f3 with
  | 0 => a * b
  | 1 => BitVec.ofInt 32 (a.toInt * b.toInt / 2 ^ 32)
  | 2 => BitVec.ofInt 32 (a.toInt * (b.toNat : Int) / 2 ^ 32)
  | 3 => BitVec.ofNat 32 (a.toNat * b.toNat / 2 ^ 32)
  | 4 => if b == 0 then BitVec.allOnes 32 else a.sdiv b
  | 5 => if b == 0 then BitVec.allOnes 32 else a.udiv b
  | 6 => if b == 0 then a else a.srem b
  | _ => if b == 0 then a else a.umod b

def branchTaken (f3 : Nat) (a b : Word) : Bool :=
  match f3 with
  | 0 => a == b
  | 1 => a != b
  | 4 => a.slt b
  | 5 => !a.slt b
  | 6 => a.ult b
  | _ => !a.ult b

/-! ### Control and status registers (R120) -/

/-- What the read-only CSRs show of the surroundings. -/
structure CsrView where
  slot : Nat
  cyc : Nat
  holds : Nat
  coord : Nat
  place : Nat
deriving DecidableEq, Repr

/-- The value of a CSR; none where R120 gives none of that number. -/
def SCore.csrRead (x : SCore) (v : CsrView) (c : Nat) : Option Nat :=
  if c == 0x7C0 || c == 0x7C1 then some (bits x.anchor (32 * (c % 2)) 32)
  else if 0x7C2 ≤ c && c ≤ 0x7D1 then some (bits (Sparse.get 0 x.tmask ((c - 0x7C2) / 2)) (32 * (c % 2)) 32)
  else if 0x7D2 ≤ c && c ≤ 0x7D9 then some (Sparse.get 0 x.vmask (c - 0x7D2))
  else if c == 0xFC0 || c == 0xFC1 then some (bits v.slot (32 * (c % 2)) 32)
  else if c == 0xFC2 || c == 0xFC3 then some (bits v.cyc (32 * (c % 2)) 32)
  else if c == 0xFC4 then some v.holds
  else if c == 0xFC5 then some x.conflicts
  else if c == 0xFC6 then some v.coord
  else if c == 0xFC7 then some v.place
  else none

/-- One half of a 64-bit value replaced. -/
def setHalf (v i w : Nat) : Nat := v - bits v (32 * i) 32 * 2 ^ (32 * i) + w * 2 ^ (32 * i)

/-- Writing a writable CSR: reserved bits keep 0 (R11, R120). -/
def SCore.csrWrite (x : SCore) (c : Nat) (w : Nat) : SCore :=
  if c ≤ 0x7C1 then { x with anchor := setHalf x.anchor (c % 2) w }
  else if c ≤ 0x7D1 then
    let m := (c - 0x7C2) / 2
    { x with tmask := Sparse.modify 0 x.tmask m fun v => setHalf v (c % 2) (if c % 2 == 1 then w % 2 ^ 16 else w) }
  else { x with vmask := Sparse.set 0 x.vmask (c - 0x7D2) (w % 2 ^ 12) }

/-- A CSR instruction: an unknown CSR, or a write of a read-only one, is illegal. -/
def SCore.csrOp (x : SCore) (v : CsrView) (f3 rd rs1 c : Nat) : Option (SCore × Word) :=
  match x.csrRead v c with
  | none => none
  | some old =>
    let src := if f3 < 4 then (x.reg rs1).toNat else rs1
    let kind := f3 % 4
    let writes := kind == 1 || rs1 != 0
    if writes && decide (0xC00 ≤ c) then none
    else
      let new := if kind == 1 then src else if kind == 2 then old ||| src else old &&& (2 ^ 32 - 1 - src)
      some (if writes then x.csrWrite c new else x, BitVec.ofNat 32 (if rd == 0 then 0 else old))

/-! ### One instruction (R109) -/

/-- Bytes of a load or store. -/
def memBytes (f3 : Nat) : Nat := 2 ^ (f3 % 4)

/-- What stops an access of `n` bytes at `a`: alignment before range (R110). -/
def dataFail (a n : Nat) : Option Status := firstFail [(a % n != 0, .align), (decide (0x1000 < a + n), .bound)]

/-- The S-core after a base instruction of `len` bytes executed in slot `v.slot`, or the status of its exception. -/
def SCore.base (x : SCore) (v : CsrView) (len : Nat) (i : Rv) : Except Status SCore :=
  let t := v.slot
  let pc := BitVec.ofNat 32 x.pc
  let go (x : SCore) (pc' : Word) (cycles : Nat) : SCore := { x with pc := pc'.toNat, ready := t + cycles }
  let next := pc + BitVec.ofNat 32 len
  match i with
  | .lui rd imm => .ok (go (x.setReg rd imm 0) next 1)
  | .auipc rd imm => .ok (go (x.setReg rd (pc + imm) 0) next 1)
  | .jal rd off => .ok (go (x.setReg rd next 0) (pc + off) 2)
  | .jalr rd rs1 imm => .ok (go (x.setReg rd next 0) ((x.reg rs1 + imm) &&& ~~~1#32) 2)
  | .branch f3 a b off =>
    if branchTaken f3 (x.reg a) (x.reg b) then .ok (go x (pc + off) 2) else .ok (go x next 1)
  | .load f3 rd rs1 imm =>
    let a := (x.reg rs1 + imm).toNat
    let n := memBytes f3
    match dataFail a n with
    | some st => .error st
    | none =>
      let raw := leNat (x.dmem.read a n)
      let val := if f3 < 4 then immOf (8 * n) raw else BitVec.ofNat 32 raw
      .ok (go (x.setReg rd val (t + 2)) next 1)
  | .store f3 rs1 rs2 imm =>
    let a := (x.reg rs1 + imm).toNat
    let n := memBytes f3
    match dataFail a n with
    | some st => .error st
    | none => .ok (go { x with dmem := x.dmem.write a (leBytes n (x.reg rs2).toNat) } next 1)
  | .opImm f3 alt rd rs1 imm => .ok (go (x.setReg rd (alu f3 alt (x.reg rs1) imm) 0) next 1)
  | .op f3 alt rd a b => .ok (go (x.setReg rd (alu f3 alt (x.reg a) (x.reg b)) 0) next 1)
  | .mulDiv f3 rd a b =>
    let val := mulDivOf f3 (x.reg a) (x.reg b)
    if f3 < 4 then .ok (go (x.setReg rd val (t + 3)) next 1) else .ok (go (x.setReg rd val 0) next 34)
  | .fence => .ok (go x next 1)
  | .csr f3 rd rs1 c => match x.csrOp v f3 rd rs1 c with
    | none => .error .badOpcode
    | some r => .ok (go (r.1.setReg rd r.2 0) next 2)
  | _ => .error .badOpcode

/-- An instruction of the slot extension. -/
def Rv.isSlot : Rv → Bool
  | .sat _ | .sati _ | .sdone | .tiss _ _ | .viss _ _ | .sin _ | .sout _ | .sack _ | .spost _ | .rpage _ | .rwr _ _
  | .srdc _ _ _ | .smove _ | .snote _ => true
  | _ => false

/-- A sluice, router or SNOTE instruction: S-core 63 alone may execute it (R115). -/
def Rv.only63 : Rv → Bool
  | .sin _ | .sout _ | .sack _ | .spost _ | .rpage _ | .rwr _ _ | .snote _ => true
  | _ => false

end Sys2Proof.Machine
end

