-- ==== Sys2Proof/Machine/Holds.lean ====
section
/-! DEFINITION. Who holds a polder and who stands still in a held cycle: the conditions of R71, R92, R118, R119, R169 and
R170, the units that request a hold, and the late words that lengthen one (R151, R152, R181, R182). -/

namespace Sys2Proof.Machine

/-! ### The polder of a core -/

/-- A polder runs a job and is not held: its S-cores and routers may act in its slot. -/
def Polder.acts (p : Polder) : Bool := p.state == .running && p.holds.isEmpty

/-- The slot of the polder of a core. -/
def State.slotOf (s : State) (core : Nat) : Nat := (s.polder (s.polderAt core)).slot
/-- The cycle of the polder of a core. -/
def State.cycleOf (s : State) (core : Nat) : Nat := (s.polder (s.polderAt core)).cycle

/-- The instruction at an S-core's program counter. -/
def State.fetched (s : State) (core : Nat) : Fetched := fetchAt (s.score core).imem (s.score core).pc

/-- The 16 B block of data SRAM that a register names. -/
def State.blockAt (s : State) (core a : Nat) : Nat := leNat ((s.score core).dmem.read a 16)

/-- The function whose job a polder runs. -/
def State.jobFunc (s : State) (p : Nat) : Nat := ((s.polder p).job.map Job.func).getD 0

/-- A unit holds its polder from this cycle on (R151). -/
def State.hold (s : State) (core : Nat) (h : Hold) : State :=
  s.onPolder (s.polderAt core) fun p => { p with holds := p.holds ++ [(h, p.cycle)] }

/-! ### Full queues (R70, R89, R118) -/

/-- Cores of a mask, ascending, from core `first` of the cluster. -/
def maskCores (cl first n mask : Nat) : List Nat := ((List.range n).filter (bit mask)).map fun i => cl * 64 + first + i

/-- A move that left its queue with a late word counts there for 12 cycles more (R151). -/
def lateLeft (l : Option Late) (now : Nat) : Nat := b2n (l.any fun x => x.left && x.hides now)

/-- Room of a T-core queue (R70) and of a V-core queue (R89), running one included, as seen in cycle `now`. -/
def tRoom (now : Nat) (c : TCore) (q : Nat) : Bool :=
  decide ((c.ops.countP fun o => tQueue o.word.toNat == q) + (if q == 0 then lateLeft c.late now else 0) < 2)
def vRoom (now : Nat) (c : VCore) (q : Nat) : Bool :=
  decide ((c.ops.countP fun o => vQueue o.word.toNat == q) + (if q == 1 then lateLeft c.late now else 0)
    < (if q == 0 then 4 else 2))
/-- Room of an S-core's SMOVE queue (R118). -/
def SCore.room (x : SCore) (now : Nat) : Bool := decide (x.ops.length + lateLeft x.late now < 2)

/-- The cores without room for what an S-core's waiting TISS or VISS issues; the S-core itself for an SMOVE (R71, R92,
R118). -/
def State.fullQueues (s : State) (core : Nat) : List Nat :=
  let x := s.score core
  match s.fetched core with
  | .instr (.tiss r m) _ _ =>
    (maskCores (clusterOf core) 0 48 (Sparse.get 0 x.tmask m)).filter fun c =>
      !tRoom (s.cycleOf core) (s.tcore c) (tQueue (s.blockAt core (x.reg r).toNat))
  | .instr (.viss r m) _ _ =>
    (maskCores (clusterOf core) 48 12 (Sparse.get 0 x.vmask m)).filter fun c =>
      !vRoom (s.cycleOf core) (s.vcore c) (vQueue (s.blockAt core (x.reg r).toNat))
  | _ => if x.room (s.cycleOf core) then [] else [core]

/-! ### The mini-mesh (R71, R92, R146) -/

/-- Cores that a mini-mesh destination names; none for ROUTER. -/
def meshCores (cl dst : Nat) : List Nat :=
  if dst == 64 then []
  else if dst == 65 then (List.range 48).map fun i => cl * 64 + i
  else if dst == 66 then (List.range 12).map fun i => cl * 64 + 48 + i
  else [cl * 64 + dst]

/-- A core cannot take a beat yet: an earlier-issued operation still has to read those bytes (R71, R92). -/
def State.beatBlocked (s : State) (core addr : Nat) : Bool :=
  if core % 64 < 48 then (s.tcore core).unread (s.cycleOf core) ⟨addr, 16⟩
  else if core % 64 < 60 then (s.vcore core).unread (s.cycleOf core) ⟨addr, 16⟩
  else false

/-- The cores that a beat landing in slot `t` has to wait for. -/
def State.blockers (s : State) (t cl : Nat) : List Nat :=
  ((s.cluster cl).beats.filter fun b => b.slot == t).flatMap fun b =>
    (meshCores cl b.dst).filter fun core => s.beatBlocked core b.addr

/-- The first operation of a V-core's move queue and those around it. -/
def VCore.moveHead (c : VCore) : Option (List Op × Op × List Op) := splitQueue vQueue 1 c.ops

/-- The next beat of a forward: a V-core's VFWD or an S-core's SFWD (R105, R118). -/
def State.forwardBeat (s : State) (core : Nat) : Option ((Nat × Nat × List Byte) × List Op) :=
  if core % 64 < 60 then
    match (s.vcore core).moveHead with
    | some (b, o, r) => takeForward b o r ((s.vcore core).late.any fun l => l.hides (s.cycleOf core) && !l.reads && !l.left)
    | none => none
  else match (s.score core).ops with
    | o :: r => takeForward [] o r ((s.score core).late.any fun l => l.hides (s.cycleOf core) && !l.reads && !l.left)
    | [] => none

/-- The source that the entry in force names has a beat ready in this slot; ROUTER never holds (R147). -/
def State.sourceReady (s : State) (cl e : Nat) : Bool :=
  let core := cl * 64 + entSrc e
  match entMode e with
  | 1 =>
    if entSrc e == 64 then true
    else if entSrc e < 48 then ((s.tcore core).takeBeat (s.cycleOf core)).isSome
    else ((s.vcore core).takeSend (s.cycleOf core)).isSome
  | 2 => (s.forwardBeat core).isSome
  | _ => true

/-- The cores that keep a cluster's mini-mesh from what slot `t` asks of it: the polder is held for them (R71, R92,
R146). -/
def State.meshAskers (s : State) (t cl : Nat) : List Nat :=
  let e := (s.cluster cl).inForce.toNat
  s.blockers t cl ++ if s.sourceReady cl e then [] else [cl * 64 + entSrc e]

/-! ### Who stands still (R71, R92, R152) -/

/-- The cores that request a hold: they keep running while it stands. -/
def State.askers (s : State) (slot : Nat) : Hold → List Nat
  | .queue core => s.fullQueues core
  | .router cl => s.meshAskers slot cl
  | .sin core | .sout core | .note core => [core]
  | .context | .debug | .floodgate => []

/-- A core stands still: its polder is held, and it is none of those that request it (R71). -/
def State.standsStill (s : State) (core : Nat) : Bool :=
  let p := s.polder (s.polderAt core)
  p.state == .running && !p.holds.isEmpty && !p.holds.any fun h => (s.askers p.slot h.1).contains core

/-! ### Late words (R151, R181, R182) -/

/-- Access time of a temperature band, ns (file 08, Bands and DRAM timing). -/
def bandAccess (band : Nat) : Nat := if band == 1 || band == 2 then 24 else 32

/-- D of R181 for a core: cycles from a word's request to the cycle in which it is readable. -/
def State.wordDelay (s : State) (core : Nat) : Nat :=
  max 64 (ceilDiv (bandAccess (s.ucmDie (dieOf (clusterOf core))).band * (s.polder (s.polderAt core)).mhz) 1000)

/-- The refresh commands performed in the layer of a slice word, and the die's band (R176, R182). -/
def State.ucmSeen (s : State) (core w : Nat) : Nat × Nat :=
  let x := s.ucmDie (dieOf (clusterOf core))
  (Sparse.get 0 x.refreshes (w % 4), x.band)

/-- Word `w` of a move comes late: the band has changed since the word before it, or its layer has been refreshed since the
issue and it is the first, or since the word before it and it is the first after a port slot that another requester took
(R180, R182; DESIGN CHOICE, log 17). -/
def State.lateWord (s : State) (core w : Nat) (o : Op) : Bool :=
  match o.seen with
  | none => false
  | some m => m.2 != (s.ucmSeen core w).2 || ((o.done == 0 || o.taken) && m.1 != (s.ucmSeen core w).1)

/-- A move after its word `w`. -/
def State.wordDone (s : State) (core w : Nat) (o : Op) : Op :=
  { o with done := o.done + 1, seen := some (s.ucmSeen core (w + 1)), taken := false }

/-- A word that came late is noted on its core: `lo` is its SRAM address, `reads` whether its move reads it there, `left`
whether its move leaves the queue with it (R151). -/
def State.noteLate (s : State) (core : Nat) (late : Bool) (lo : Nat) (reads left : Bool) : State :=
  let p := s.polder (s.polderAt core)
  let x : Option Late := some ⟨p.cycle, lo, reads, left, p.holds.any fun h => (s.askers p.slot h.1).contains core⟩
  if !late then s
  else if core % 64 < 48 then s.onTcore core fun c => { c with late := x }
  else if core % 64 < 60 then s.onVcore core fun c => { c with late := x }
  else s.onScore core fun c => { c with late := x }

end Sys2Proof.Machine
end

