-- ==== Sys2Proof/Machine/Sequencer.lean ====
section
/-! DEFINITION. The S-cores at work: whose turn it is in a slot, the RISC-V instructions, the slot extension, issue to the
T-cores and V-cores, slice moves of an S-core, and SNOTE (file 05, R108-R122; R141, R142, R169, R170). -/

namespace Sys2Proof.Machine

/-! ### Whose turn it is (R109, R111, R152) -/

/-- An S-core still has something to execute in slot `t`. -/
def SCore.due (x : SCore) (t : Nat) : Bool := !x.ended && decide (x.dueAt ≤ t)

/-- It is this S-core's turn: its polder acts, its next instruction is due, and no lower-numbered S-core of its cluster
is still to execute in this slot (R114). -/
def State.turn (s : State) (core : Nat) : Bool :=
  let p := s.polder (s.polderAt core)
  decide (60 ≤ core % 64) && decide (s.polderAt core < 24) && p.acts && (s.score core).due p.slot
    && (List.range (core % 64 - 60)).all fun i => !(s.score (clusterOf core * 64 + 60 + i)).due p.slot

/-- An exception of an S-core: the cluster, the S-core, the program counter and the word are logged, and the job ends
(R110). -/
def State.scoreFail (s : State) (core : Nat) (st : Status) (word : Nat) : State :=
  let p := s.polderAt core
  (s.addLog 1 (s.jobFunc p) p core (s.score core).pc word).failJob p st 0

/-- What the CSRs of an S-core show. -/
def State.csrView (s : State) (core : Nat) : CsrView :=
  let p := s.polder (s.polderAt core)
  let cl := clusterOf core
  { slot := p.slot
    cyc := ((s.cluster cl).cyc + p.cycle) % 2 ^ 64
    holds := p.holdCount
    coord := p.coordWord cl
    place := dieOf cl + xOf cl * 2 ^ 4 + yOf cl * 2 ^ 10 + core % 64 * 2 ^ 16 }

/-- SCORE_INSTRUCTION: one RV32IMC or Zicsr instruction, or the exception of an illegal one, in its slot (R108-R110).
EBREAK and the slot extension have rows of their own. -/
def execScoreInstruction (core : Nat) (s : State) : Result :=
  .next (if !s.turn core then s else
    match s.fetched core with
    | .fault st w => s.scoreFail core st w
    | .instr i len w =>
      if i == .ebreak then s
      else if i.isSlot then (if i.only63 && core % 64 != 63 then s.scoreFail core .badOpcode w else s)
      else match (s.score core).base (s.csrView core) len i with
        | .error st => s.scoreFail core st w
        | .ok x => s.setScore core x)

/-- EBREAK: with S-core debug unlocked it halts the polder for the debugger, else it is an illegal instruction (R110,
R464). -/
def execEbreak (core : Nat) (s : State) : Result :=
  .next (if !s.turn core then s else
    match s.fetched core with
    | .instr .ebreak _ w =>
      if s.trust.unlocked && bit s.trust.scope 1 then s.hold core .debug else s.scoreFail core .badOpcode w
    | _ => s)

/-! ### The slot extension (R111-R119) -/

/-- The S-core after a slot-extension instruction: the next one may execute `n` slots later. -/
def SCore.step (x : SCore) (t n : Nat) : SCore := { x with pc := (x.pc + 4) % 2 ^ 32, ready := t + n }

/-- A slot-extension instruction that `mine` recognises, in its turn: `run` has the instruction and its word. -/
def State.slotRow (s : State) (core : Nat) (mine : Rv → Bool) (run : Rv → Nat → State) : State :=
  if !s.turn core then s else
    match s.fetched core with
    | .instr i _ w =>
      if !mine i then s else if i.only63 && core % 64 != 63 then s.scoreFail core .badOpcode w else run i w
    | _ => s

/-- ANCHOR advanced, and the wait for that slot; at or after it the slot is missed (R112). -/
def State.anchorBy (s : State) (core n : Nat) : State :=
  let x := s.score core
  let t := s.slotOf core
  let p := s.polderAt core
  let a := (x.anchor + n) % 2 ^ 64
  if a ≤ t then (s.addLog 3 (s.jobFunc p) p core a t).failJob p .timeout 0
  else s.setScore core { (x.step t 0) with anchor := a, ready := a }

def isSat : Rv → Bool
  | .sat _ => true
  | _ => false
def isSati : Rv → Bool
  | .sati _ => true
  | _ => false

/-- SAT (R112). -/
def execSat (core : Nat) (s : State) : Result :=
  .next (s.slotRow core isSat fun i _ => match i with
    | .sat r => s.anchorBy core ((s.score core).reg r).toNat
    | _ => s)

/-- SATI (R112). -/
def execSati (core : Nat) (s : State) : Result :=
  .next (s.slotRow core isSati fun i _ => match i with
    | .sati n => s.anchorBy core n
    | _ => s)

/-- SDONE: the S-core has ended its part (R122). -/
def execSdone (core : Nat) (s : State) : Result :=
  .next (s.slotRow core (· == .sdone) fun _ _ =>
    s.onScore core fun x => { (x.step (s.slotOf core) 1) with ended := true })

/-- What stops a 16 B block at a data SRAM address (R113, R116). -/
def blockFail (a : Nat) : Option Status := firstFail [(a % 16 != 0, .align), (decide (0xFF0 < a), .bound)]

/-- Another S-core has issued to the same queue of one of these cores in this slot (R114). -/
def Cluster.conflicts (c : Cluster) (i : Issue) : Bool :=
  c.issues.any fun j => j.slot == i.slot && j.score != i.score && j.queue == i.queue && decide (0 < j.mask &&& i.mask)

/-- The issue is noted on the control bus; the S-core goes on, one cycle later after a conflict (R114).  What it issues
enters in this slot all the same, behind the lower-numbered S-core's; a third and a fourth S-core that issue to the queue
take one more cycle each too; ISSUE_CONFLICTS saturates (DESIGN CHOICE, log 53). -/
def State.issued (s : State) (core : Nat) (i : Issue) : State :=
  let cl := clusterOf core
  let late := (s.cluster cl).conflicts i
  let s := s.onCluster cl fun c => { c with issues := (c.issues.filter fun j => j.slot == i.slot) ++ [i] }
  s.onScore core fun x =>
    let x := x.step i.slot (if late then 2 else 1)
    if late then { x with conflicts := satAdd 32 x.conflicts 1 } else x

/-- A micro-operation fails its check at issue: cluster, core and word are logged for every core it names, and the job
ends (R82, R106). -/
def State.issueFail (s : State) (core : Nat) (targets : List Nat) (w : Nat) (st : Status) : State :=
  let p := s.polderAt core
  (s.each targets fun s target => s.addLog 2 (s.jobFunc p) p target w core).failJob p st 0

/-- An operation as it is issued to a core; of a slice move, `first` is its first word in the slice. -/
def State.issueOp (s : State) (core w : Nat) (move : Bool) (first : Nat) : Op :=
  { word := BitVec.ofNat 128 w, seen := if move then some (s.ucmSeen core first) else none }

def isTiss : Rv → Bool
  | .tiss _ _ => true
  | _ => false
def isViss : Rv → Bool
  | .viss _ _ => true
  | _ => false

/-- TISS (R113): the block, the mask, the check of R82, the queues; a full queue holds the polder. -/
def execTiss (core : Nat) (s : State) : Result :=
  .next (s.slotRow core isTiss fun i word => match i with
    | .tiss r m =>
      let x := s.score core
      let a := (x.reg r).toNat
      let mask := Sparse.get 0 x.tmask m
      let t := s.slotOf core
      match blockFail a with
      | some st => s.scoreFail core st word
      | none =>
        if mask == 0 then s.setScore core (x.step t 1)
        else
          let w := s.blockAt core a
          let cores := maskCores (clusterOf core) 0 48 mask
          match tcoreCheck (imgLevel (s.polder (s.polderAt core)).image) w with
          | some st => s.issueFail core cores w st
          | none =>
            let q := tQueue w
            if !cores.all fun c => tRoom (s.cycleOf core) (s.tcore c) q then s.hold core (.queue core)
            else
              let s := s.each cores fun s c =>
                s.onTcore c fun y => { y with
                  ops := y.ops ++ [s.issueOp c w (q == 0) (fillOff w / 32)], stirred := !y.ops.isEmpty }
              s.issued core ⟨t, core % 64, q, mask⟩
    | _ => s)

/-- VISS (R113): as TISS, with the check of R106. -/
def execViss (core : Nat) (s : State) : Result :=
  .next (s.slotRow core isViss fun i word => match i with
    | .viss r m =>
      let x := s.score core
      let a := (x.reg r).toNat
      let mask := Sparse.get 0 x.vmask m
      let t := s.slotOf core
      match blockFail a with
      | some st => s.scoreFail core st word
      | none =>
        if mask == 0 then s.setScore core (x.step t 1)
        else
          let w := s.blockAt core a
          let cores := maskCores (clusterOf core) 48 12 mask
          match vcoreCheck (s.cluster (clusterOf core)).rand.length w with
          | some st => s.issueFail core cores w st
          | none =>
            let q := vQueue w
            if !cores.all fun c => vRoom (s.cycleOf core) (s.vcore c) q then s.hold core (.queue core)
            else
              let s := s.each cores fun s c =>
                s.onVcore c fun y => { y with
                  ops := y.ops ++ [s.issueOp c w (q == 1 && vOpc w != 0x63) (mvOff w / 32)], stirred := !y.ops.isEmpty }
              s.issued core ⟨t, core % 64, 3 + q, mask⟩
    | _ => s)

/-! ### Sluices as S-core 63 sees them (R169, R170) -/

/-- Events of the last 12 cycles, which do not count yet (R151). -/
def hidden (now : Nat) (l : List Nat) : Nat := l.countP fun c => decide (now < c + 12)

/-- FILLED as SIN sees it. -/
def SluiceIn.seen (x : SluiceIn) (now : Nat) : Nat := x.filled - hidden now x.recent
/-- Free entries as SOUT sees them. -/
def SluiceOut.free (x : SluiceOut) (now : Nat) : Nat := 32 - x.posted - hidden now x.recent

/-- What stops a count (R116). -/
def countFail (n : Nat) : Option Status := firstFail [(n == 0, .badLength), (decide (32 < n), .bound)]

def isSin : Rv → Bool
  | .sin _ => true
  | _ => false
def isSout : Rv → Bool
  | .sout _ => true
  | _ => false
def isSack : Rv → Bool
  | .sack _ => true
  | _ => false
def isSpost : Rv → Bool
  | .spost _ => true
  | _ => false

/-- SIN: satisfied once FILLED reaches the count; until then the polder is held (R169). -/
def execSin (core : Nat) (s : State) : Result :=
  .next (s.slotRow core isSin fun i word => match i with
    | .sin r =>
      let n := ((s.score core).reg r).toNat
      match countFail n with
      | some st => s.scoreFail core st word
      | none =>
        if n ≤ (s.cluster (clusterOf core)).sin.seen (s.cycleOf core) then s.onScore core fun x => x.step (s.slotOf core) 1
        else s.hold core (.sin core)
    | _ => s)

/-- SOUT: satisfied once enough entries are free (R170). -/
def execSout (core : Nat) (s : State) : Result :=
  .next (s.slotRow core isSout fun i word => match i with
    | .sout r =>
      let n := ((s.score core).reg r).toNat
      match countFail n with
      | some st => s.scoreFail core st word
      | none =>
        if n ≤ (s.cluster (clusterOf core)).sout.free (s.cycleOf core) then s.onScore core fun x => x.step (s.slotOf core) 1
        else s.hold core (.sout core)
    | _ => s)

/-- SACK: the oldest entries are released, and their credits return to the bound channel (R169). -/
def execSack (core : Nat) (s : State) : Result :=
  .next (s.slotRow core isSack fun i word => match i with
    | .sack r =>
      let n := ((s.score core).reg r).toNat
      let now := s.cycleOf core
      match countFail n with
      | some st => s.scoreFail core st word
      | none =>
        if (s.cluster (clusterOf core)).sin.seen now < n then s.scoreFail core .bound word
        else (s.onScore core fun x => x.step (s.slotOf core) 1).onCluster (clusterOf core) fun c =>
          let e := c.sin
          { c with sin := { e with
              head := (e.head + n) % 32, filled := e.filled - n
              recent := e.recent.filter fun t => decide (now < t + 12) } }
    | _ => s)

/-- SPOST: entries are passed to the dynamic network (R170). -/
def execSpost (core : Nat) (s : State) : Result :=
  .next (s.slotRow core isSpost fun i word => match i with
    | .spost r =>
      let n := ((s.score core).reg r).toNat
      let now := s.cycleOf core
      match countFail n with
      | some st => s.scoreFail core st word
      | none =>
        if (s.cluster (clusterOf core)).sout.free now < n then s.scoreFail core .bound word
        else (s.onScore core fun x => x.step (s.slotOf core) 1).onCluster (clusterOf core) fun c =>
          let e := c.sout
          { c with sout := { e with
              tail := (e.tail + n) % 32, posted := e.posted + n
              recent := e.recent.filter fun t => decide (now < t + 12) } }
    | _ => s)

/-! ### The router's pages and entries (R141, R142) -/

def isRpage : Rv → Bool
  | .rpage _ => true
  | _ => false
def isRwr : Rv → Bool
  | .rwr _ _ => true
  | _ => false

/-- RPAGE: entry 0 of the new page comes into force two slots later (R141). -/
def execRpage (core : Nat) (s : State) : Result :=
  .next (s.slotRow core isRpage fun i word => match i with
    | .rpage r =>
      let n := ((s.score core).reg r).toNat
      let t := s.slotOf core
      if 15 < n then s.scoreFail core .bound word
      else (s.onScore core fun x => x.step t 1).onCluster (clusterOf core) fun c => { c with pageAt := c.pageAt ++ [(t + 2, n)] }
    | _ => s)

/-- RWR: the entry is checked against R140 and written in the next slot (R142). -/
def execRwr (core : Nat) (s : State) : Result :=
  .next (s.slotRow core isRwr fun i word => match i with
    | .rwr r1 r2 =>
      let x := s.score core
      let a := (x.reg r1).toNat
      let idx := (x.reg r2).toNat
      let t := s.slotOf core
      let p := s.polder (s.polderAt core)
      let uv := p.coord (clusterOf core)
      match firstFail [(a % 16 != 0, .align), (decide (0xFF0 < a), .bound), (decide (4095 < idx), .bound)] with
      | some st => s.scoreFail core st word
      | none =>
        let e := s.blockAt core a
        match entryCheck (p.ports uv.1 uv.2) e with
        | some st => s.scoreFail core st word
        | none => (s.setScore core (x.step t 1)).onCluster (clusterOf core) fun c =>
            { c with writes := c.writes ++ [(t + 1, idx, BitVec.ofNat 128 e)] }
    | _ => s)

/-! ### SRDC (R117) -/

/-- Reading word `k` of a status register of a core of the cluster: its value and the state with RC fields cleared; none
where the core has no such register. -/
def State.statusRead (s : State) (cl c reg k : Nat) : Option (Nat × State) :=
  let core := cl * 64 + c
  if reg == 0 then
    let f : Flags := if c < 48 then (s.tcore core).status else if c < 60 then (s.vcore core).status else (s.score core).status
    some (if k == 0 then f.toNat else 0, s)
  else if reg == 1 && decide (c < 48) then
    if k == 0 then some ((s.tcore core).busy, s.onTcore core fun x => { x with busy := 0 })
    else some ((s.tcore core).bubbles, s.onTcore core fun x => { x with bubbles := 0 })
  else if reg == 2 && decide (48 ≤ c) && decide (c < 60) then
    if k == 0 then some ((s.vcore core).busy, s.onVcore core fun x => { x with busy := 0 })
    else some ((s.vcore core).stalls, s.onVcore core fun x => { x with stalls := 0 })
  else none

def isSrdc : Rv → Bool
  | .srdc _ _ _ => true
  | _ => false

/-- SRDC: usable 4 cycles after the instruction (R117). -/
def execSrdc (core : Nat) (s : State) : Result :=
  .next (s.slotRow core isSrdc fun i word => match i with
    | .srdc rd r1 r2 =>
      let x := s.score core
      let v := (x.reg r1).toNat
      let t := s.slotOf core
      match s.statusRead (clusterOf core) (bits v 0 6) (bits v 8 2) ((x.reg r2).toNat % 2) with
      | none => s.scoreFail core .bound word
      | some (v, s) => s.onScore core fun x => (x.setReg rd (BitVec.ofNat 32 v) (t + 4)).step t 1
    | _ => s)

/-! ### Slice moves of an S-core (R118) -/

/-- The head of the SMOVE queue has begun: a move starts when it reaches the head (R75, R105). -/
def startHead (cycle : Nat) : List Op → List Op
  | [] => []
  | o :: r => (if o.started.isNone then { o with started := some cycle } else o) :: r

/-- The port slot after the last word of the running move (R181). -/
def nextPort : List Op → Nat
  | [] => 0
  | o :: _ => o.started.getD 0 + 64 * o.done

/-- The cycle in which word i of a running move is written, i of them having been moved, under delay D and the pushes so
far: start + 64 i + D − 1 (R181). -/
def wordDue (d cycle : Nat) (o : Op) : Nat := o.started.getD cycle + 64 * o.done + d - 1

/-- The move with everything of it pushed by `n` cycles: a word pushed pushes every later one (R181). -/
def Op.push (o : Op) (n : Nat) : Op := { o with started := o.started.map (· + n) }

/-- A word moved by its vertical port counts in a T-core's or V-core's next activity report (R73, R107), an S-core's in its
die's (R347). -/
def State.countPort (s : State) (core : Nat) : State :=
  if core % 64 < 48 then s.onTcore core fun c => { c with act := { c.act with port := c.act.port + 32 } }
  else if core % 64 < 60 then s.onVcore core fun c => { c with act := { c.act with port := c.act.port + 32 } }
  else s.onUcmDie (dieOf (clusterOf core)) fun x => { x with act := Sparse.modify 0 x.act (s.polderAt core) (· + 32) }

/-- The port reads word `w` of a core's slice for its own move (R180, R190). -/
def State.portRead (s : State) (core w : Nat) (flips : List SymErr) : State × Got :=
  let s := (s.countPort core).ucmTouch (dieOf (clusterOf core))
  (s.mergeRetire core w []).ucmRead core w srcMove flips ⟨s.jobFunc (s.polderAt core), codeCore core, s.polderAt core⟩

/-- The port writes word `w` of a core's slice for its own move. -/
def State.portWrite (s : State) (core w : Nat) (l : List Byte) : State :=
  let s := (s.countPort core).ucmTouch (dieOf (clusterOf core))
  (s.mergeRetire core w []).ucmWrite core w l

/-- The job ends on an uncorrectable word of a core's move (R195). -/
def State.moveFail (s : State) (core : Nat) : State := s.failJob (s.polderAt core) .hwError 0

/-- One word of an S-core's running move, if it may move now.  A word that arrives on its own, or that waited for the
buffer of an SFWD, is written in this cycle and pushes those after it; else every word due by now was written when it was
due (R105, R181). -/
def State.scoreWord (s : State) (core : Nat) (alone : Bool) (flips : List SymErr) : State :=
  let x := s.score core
  let now := s.cycleOf core
  match x.ops with
  | [] => s
  | o :: r =>
    let w := o.word.toNat
    let n := vCount w
    let sw := mvOff w / 32 + o.done
    let a := mvSram w + 32 * o.done
    let due := wordDue (s.wordDelay core) now o
    if s.standsStill core || n ≤ o.done || now < due then s
    else
      let late := s.lateWord core sw o
      let o' := (s.wordDone core sw o).push (if alone || vOpc w == 0x62 then now - due else 0)
      -- the next move's first port slot is the one after that of the last word (R181)
      let rest := if o'.done == n then startHead (o'.started.getD now + 64 * n) r else o' :: r
      match vOpc w with
      | 0x61 => ((s.portWrite core sw (x.dmem.read a 32)).noteLate core late a true (o'.done == n)).onScore core
          fun x => { x with ops := rest }
      | k =>
        if k == 0x62 && decide (32 < o.buf.length) then s
        else
          let g := s.portRead core sw flips
          if g.2.status != .ok then g.1.moveFail core
          else (g.1.noteLate core late a false (o'.done == n && k != 0x62)).onScore core fun x =>
            if k == 0x60 then { x with dmem := x.dmem.write a g.2.data, ops := rest }
            else if k == 0x65 then { x with imem := x.imem.write a g.2.data, ops := rest }
            else { x with ops := { o' with buf := o.buf ++ g.2.data } :: r }

/-- As many words of the running move as may move now. -/
def State.scoreWords (core : Nat) : (fuel : Nat) → State → State
  | 0, s => s
  | n + 1, s =>
    let s' := s.scoreWord core false []
    if (s'.score core).ops == (s.score core).ops then s' else State.scoreWords core n s'

/-- Opcode of the move that an S-core's SMOVE names, in its turn. -/
def State.smoveTurn (s : State) (core : Nat) : Option Nat :=
  if !s.turn core then none else
    match s.fetched core with
    | .instr (.smove r) _ _ =>
      let a := ((s.score core).reg r).toNat
      some (if (blockFail a).isSome then 0x60 else
        let k := vOpc (s.blockAt core a)
        if k == 0x61 || k == 0x62 || k == 0x65 then k else 0x60)
    | _ => none

/-- SMOVE executes: the descriptor is checked and enters the queue, and a full queue holds the polder (R118). -/
def State.smove (s : State) (core : Nat) : State :=
  match s.fetched core with
  | .instr (.smove r) _ word =>
    let x := s.score core
    let a := (x.reg r).toNat
    let t := s.slotOf core
    match blockFail a with
    | some st => s.scoreFail core st word
    | none =>
      let w := s.blockAt core a
      match smoveCheck (imgLevel (s.polder (s.polderAt core)).image) w with
      | some st => s.issueFail core [core] w st
      | none =>
        if !x.room (s.cycleOf core) then s.hold core (.queue core)
        else s.setScore core { (x.step t 1) with
          ops := startHead (s.cycleOf core) (x.ops ++ [s.issueOp core w true (mvOff w / 32)]) }
  | _ => s

/-- The running move of an S-core is of this opcode. -/
def SCore.runs (x : SCore) (k : Nat) : Bool :=
  match x.ops with
  | o :: _ => vOpc o.word.toNat == k
  | [] => false

/-- A slice move's row: the SMOVE that names it, in its turn; else the words of the running one. -/
def State.moveRow (s : State) (core k : Nat) : State :=
  if s.smoveTurn core == some k then s.smove core
  else if (s.score core).runs k then State.scoreWords core 8192 s
  else s

/-- SFILL: slice to data SRAM (R118). -/
def execSfill (core : Nat) (s : State) : Result := .next (s.moveRow core 0x60)
/-- SWRITE: data SRAM to slice (R118). -/
def execSwrite (core : Nat) (s : State) : Result := .next (s.moveRow core 0x61)
/-- SFWD: slice to a T-core's SRAM over the mini-mesh (R118, R105). -/
def execSfwd (core : Nat) (s : State) : Result := .next (s.moveRow core 0x62)
/-- SFILLI: slice to instruction SRAM (R118). -/
def execSfilli (core : Nat) (s : State) : Result := .next (s.moveRow core 0x65)

/-! ### SNOTE (R119) -/

/-- The SNOTE buffer has room, as a hold sees it: an entry that the CDC took counts from 12 cycles after (R151). -/
def Cluster.noteRoom (c : Cluster) (now : Nat) : Bool := decide (c.notes.length + hidden now c.noteRecent < 2)

def isSnote : Rv → Bool
  | .snote _ => true
  | _ => false

/-- SNOTE: the message enters the buffer towards the CDC; a full one holds the polder (R119). -/
def execSnote (core : Nat) (s : State) : Result :=
  .next (s.slotRow core isSnote fun i word => match i with
    | .snote r =>
      let a := ((s.score core).reg r).toNat
      match blockFail a with
      | some st => s.scoreFail core st word
      | none =>
        if !(s.cluster (clusterOf core)).noteRoom (s.cycleOf core) then s.hold core (.note core)
        else
          let l := (s.score core).dmem.read a 16
          (s.onScore core fun x => x.step (s.slotOf core) 1).onCluster (clusterOf core) fun c => { c with notes := c.notes ++ [l] }
    | _ => s)

/-- SNOTE_FORWARD: the die's CDC takes the oldest message of a cluster's buffer and forwards it to the PMP, its four words
in turn (R119, R313); one that cannot reach the PMP is in no job's log. -/
def execSnoteForward (cl : Nat) (s : State) : Result :=
  .next (if Sparse.get false s.cdcDown (dieOf cl) then s else
    match (s.cluster cl).notes with
    | [] => s
    | l :: r =>
      let now := (s.polder (s.polderOf (halfOf cl))).cycle
      let up := s.boardOn (1 + dieOf cl / 3)
      (s.boardReport (dieOf cl) ((chunks 4 l).map fun w => BitVec.ofNat 32 (leNat w))).onCluster cl fun c => { c with
        notes := r, lastNote := if up then l else c.lastNote
        noteRecent := (c.noteRecent.filter fun t => decide (now < t + 12)) ++ [now] })

end Sys2Proof.Machine
end

