-- ==== Sys2Proof/Machine/Cores.lean ====
section
/-! DEFINITION. The T-cores and V-cores at work: the running operation of each queue takes effect, and the words of slice
moves arrive (files 03, 04, 08, 12: R70, R75, R89, R91, R97, R104, R105, R180-R182, R195). -/

namespace Sys2Proof.Machine

/-! ### T-cores (R70, R75, R81) -/

/-- The arithmetic options and the random map that stand behind a core's operations (R32, R33, R266). -/
def State.vEnv (s : State) (core : Nat) : VEnv :=
  { opt := imgOpts (s.polder (s.polderAt core)).image, maps := (s.cluster (clusterOf core)).rand }

/-- A unit of a core takes effect, unless the core stands still (R71, R152). -/
def State.unlessHeld (s : State) (core : Nat) (t : State) : State := if s.standsStill core then s else t

/-- Lost cycles that depend on when other accesses of a core fall: a free number of 32 bits where there can be any, else
none (R68, R91, R96; log 17). -/
def State.lostCycles (s : State) (may : Bool) : Nat × State :=
  if may then (Config.freeNat s.take.1 % 2 ^ 32, s.take.2) else (0, s)

/-- One word of the running fill (`opc` 1) or write (4) of a T-core. -/
def State.tWord (s : State) (core opc : Nat) (flips : List SymErr) : State :=
  let c := s.tcore core
  match runnable tOpc tQueue tFoot opc 0 c.ops with
  | none => s
  | some (b, o, r) =>
    let w := o.word.toNat
    let sw := fillOff w / 32 + o.done
    let late := s.lateWord core sw o
    let o' := s.wordDone core sw o
    if opc == 4 then
      ((s.portWrite core sw (c.sram.read (fillSram w + 32 * o.done) 32)).noteLate core late (fillSram w + 32 * o.done) true
        (o'.done == fillLen w)).onTcore core fun c => { c with
        ops := b ++ (if o'.done == fillLen w then r else o' :: r) }
    else
      let g := s.portRead core sw flips
      if g.2.status != .ok then g.1.moveFail core
      else (g.1.noteLate core late (fillSram w + 32 * o.done) false (o'.done == fillLen w)).onTcore core fun c =>
        let y := c.fillWord o g.2.data
        { y.1 with ops := b ++ (if o'.done == fillLen w then r else { y.2 with seen := o'.seen, taken := false } :: r) }

/-- Words of the running move until it is done or waits. -/
def State.tWords (core opc : Nat) : (fuel : Nat) → State → State
  | 0, s => s
  | n + 1, s =>
    let s' := s.tWord core opc []
    if (s'.tcore core).ops == (s.tcore core).ops || (s'.tcore core).ops.length < (s.tcore core).ops.length then s'
    else State.tWords core opc n s'

/-- TFILL: the words of the running fill arrive (R75, R76). -/
def execTfill (core : Nat) (s : State) : Result := .next (s.unlessHeld core (State.tWords core 1 256 s))

/-- TWRITE: SRAM goes to the slice (R75). -/
def execTwrite (core : Nat) (s : State) : Result := .next (s.unlessHeld core (State.tWords core 4 256 s))

/-- TMMA: the running tile takes effect (R45-R47, R63-R68). -/
def execTmma (core : Nat) (s : State) : Result :=
  .next (s.unlessHeld core (match runnable tOpc tQueue tFoot 2 1 (s.tcore core).ops with
    | none => s
    | some (_, o, _) =>
      let l := s.lostCycles ((s.tcore core).mayLose o.word.toNat)
      l.2.onTcore core fun c => c.runMma (s.vEnv core).opt l.1))

/-- TDRAIN: the running drain takes effect, or has its beats ready for the mini-mesh (R81). -/
def execTdrain (core : Nat) (s : State) : Result :=
  .next (s.unlessHeld core (s.onTcore core fun c => c.runDrain (s.slotOf core)))

/-! ### V-cores: the sluice rings in bank 7 (R167-R170) -/

/-- Entry i of a ring. -/
def ringEntry (i : Nat) : Rng := ⟨0x3800 + 64 * i, 64⟩

/-- Entries of the inbound ring that are not filled hold undefined bytes: what a read of them meets is free (R169;
log 5). -/
def State.ringBlur (s : State) (core : Nat) (reads : List Rng) : State :=
  if core % 64 != 58 then s
  else
    let e := (s.cluster (clusterOf core)).sin
    s.each ((List.range 32).filter fun i => decide (e.filled ≤ (i + 32 - e.head) % 32) && rngsMeet [ringEntry i] reads)
      fun s i =>
        let r := s.freeBytes 64
        r.2.onVcore core fun c => { c with sram := c.sram.write (ringEntry i).lo r.1 }

/-- The scheduled side has written these bytes of a V-core: posted entries of the outbound ring among them are spoiled
(R170). -/
def State.spoil (s : State) (core : Nat) (writes : List Rng) : State :=
  if core % 64 != 59 then s
  else
    let e := (s.cluster (clusterOf core)).sout
    let hit := (List.range 32).filter fun i => decide ((e.tail + 64 - i - 1) % 32 < e.posted) && rngsMeet [ringEntry i] writes
      && !e.spoiled.contains i
    if hit.isEmpty then s
    else s.onCluster (clusterOf core) fun c => { c with sout := { c.sout with spoiled := c.sout.spoiled ++ hit } }

/-! ### V-cores: the compute queue (R89-R103, R268-R275) -/

/-- A range fault, or a refused parameter, of an operation as it runs: cluster, core and what was out of range are logged
and the job ends (R97, R269, R273). -/
def State.runFail (s : State) (core w : Nat) (st : Status) (k : Nat) : State :=
  let p := s.polderAt core
  (s.addLog 19 (s.jobFunc p) p core k w).failJob p st 0

/-- The core after the running operation `o` of the compute queue, `b` and `r` being the operations before and after it;
`lost` are its lost cycles beyond those of R96. -/
def VCore.after (c : VCore) (e : VEnv) (b r : List Op) (o : Op) (f : VCore → VEnv → Nat → VCore × Option (Status × Nat))
    (lost : Nat) : VCore :=
  let y := (f c e o.word.toNat).1.count c e o.word.toNat lost
  { y with sram := o.cover c.sram y.sram, ops := b ++ r }

/-- The running operation of the compute queue, if it has the opcode and may run, takes effect and leaves; `f` gives the
core after it, and a status with a detail where it fails; `extra` the stalls beyond those of R96 that its operands
decide. -/
def State.vRun (s : State) (core opc : Nat) (f : VCore → VEnv → Nat → VCore × Option (Status × Nat))
    (extra : VCore → Nat → Nat) : State :=
  match runnable vOpc vQueue vFoot opc 0 (s.vcore core).ops with
  | none => s
  | some (b, o, r) =>
    let w := o.word.toNat
    let s := (s.ringBlur core ((s.vcore core).readsOf b o))
    let c := s.vcore core
    let e := s.vEnv core
    let y := (f c e w).2
    let l := s.lostCycles c.stirred
    let s := (l.2.setVcore core (c.after e b r o f (extra c w + l.1))).spoil core
      (vWritten c e w y.isSome)
    match y with
    | none => s
    | some (st, k) => s.runFail core w st k

/-- An operation that always completes. -/
def State.vOp (s : State) (core opc : Nat) (f : VCore → VEnv → Nat → VCore) : State :=
  s.unlessHeld core (s.vRun core opc (fun c e w => (f c e w, none)) fun _ _ => 0)

def execVadd (core : Nat) (s : State) : Result := .next (s.vOp core 0x01 vaddOp)
def execVsub (core : Nat) (s : State) : Result := .next (s.vOp core 0x02 vsubOp)
def execVmul (core : Nat) (s : State) : Result := .next (s.vOp core 0x03 vmulOp)
def execVfma (core : Nat) (s : State) : Result := .next (s.vOp core 0x04 vfmaOp)
def execVmin (core : Nat) (s : State) : Result := .next (s.vOp core 0x05 vminOp)
def execVmax (core : Nat) (s : State) : Result := .next (s.vOp core 0x06 vmaxOp)
def execVcmp (core : Nat) (s : State) : Result := .next (s.vOp core 0x07 vcmpOp)
def execVsel (core : Nat) (s : State) : Result := .next (s.vOp core 0x08 vselOp)
def execVabs (core : Nat) (s : State) : Result := .next (s.vOp core 0x09 vabsOp)
def execVexp2 (core : Nat) (s : State) : Result := .next (s.vOp core 0x10 vexp2Op)
def execVlog2 (core : Nat) (s : State) : Result := .next (s.vOp core 0x11 vlog2Op)
def execVrcp (core : Nat) (s : State) : Result := .next (s.vOp core 0x12 vrcpOp)
def execVrsqrt (core : Nat) (s : State) : Result := .next (s.vOp core 0x13 vrsqrtOp)
def execVtanh (core : Nat) (s : State) : Result := .next (s.vOp core 0x14 vtanhOp)
def execVdiv (core : Nat) (s : State) : Result := .next (s.vOp core 0x15 vdivOp)
def execVcvt (core : Nat) (s : State) : Result := .next (s.vOp core 0x20 vcvtOp)
def execVqmx (core : Nat) (s : State) : Result := .next (s.vOp core 0x21 vqmxOp)
def execVqt2 (core : Nat) (s : State) : Result := .next (s.vOp core 0x22 vqt2Op)
def execVdq (core : Nat) (s : State) : Result := .next (s.vOp core 0x23 vdqOp)
def execVrsum (core : Nat) (s : State) : Result := .next (s.vOp core 0x30 vrsumOp)
def execVrmax (core : Nat) (s : State) : Result := .next (s.vOp core 0x31 vrmaxOp)
def execVrmin (core : Nat) (s : State) : Result := .next (s.vOp core 0x32 vrminOp)
def execVshuf (core : Nat) (s : State) : Result := .next (s.vOp core 0x33 vshufOp)
def execVrand (core : Nat) (s : State) : Result := .next (s.vOp core 0x40 vrandOp)
def execVunif (core : Nat) (s : State) : Result := .next (s.vOp core 0x41 vunifOp)
def execVtopkm (core : Nat) (s : State) : Result := .next (s.vOp core 0x51 fun c _ w => vtopkmOp c w)
def execVcopy (core : Nat) (s : State) : Result := .next (s.vOp core 0x64 fun c _ w => vcopyOp c w)

/-- VGATHER: a vector that reaches past byte 16,383 ends the job with BOUND (R97). -/
def execVgather (core : Nat) (s : State) : Result :=
  .next (s.unlessHeld core
    (s.vRun core 0x34 (fun c _ w => let y := vgatherOp c w; (y.1, y.2.map fun i => (.bound, i))) gatherStalls))

/-- VTOPK: an identifier that reaches 0xFFFF_FFFF ends the job (R269). -/
def execVtopk (core : Nat) (s : State) : Result :=
  .next (s.unlessHeld core
    (s.vRun core 0x50 (fun c e w => let y := vtopkOp c e w; (y.1, y.2.map fun st => (st, 0))) fun _ _ => 0))

/-- VSAMP: parameters out of range end the job (R273). -/
def execVsamp (core : Nat) (s : State) : Result :=
  .next (s.unlessHeld core
    (s.vRun core 0x52 (fun c e w => let y := vsampOp c e w; (y.1, y.2.map fun st => (st, 0))) fun _ _ => 0))

/-! ### V-cores: the move queue (R104, R105, R498) -/

/-- One word of the running VFILL (0x60), VWRITE (0x61) or VFWD (0x62) of a V-core.  A forwarded word waits in the
two-word buffer for its beats. -/
def State.vWord (s : State) (core opc : Nat) (flips : List SymErr) : State :=
  match runnable vOpc vQueue vFoot opc 1 (s.vcore core).ops with
  | none => s
  | some (b, o, r) =>
    let w := o.word.toNat
    let n := vCount w
    let sw := mvOff w / 32 + o.done
    let here : Rng := ⟨mvSram w + 32 * o.done, 32⟩
    let late := s.lateWord core sw o
    let o' := s.wordDone core sw o
    let rest := b ++ (if o'.done == n then r else o' :: r)
    if opc == 0x61 then
      let s := s.ringBlur core [here]
      ((s.portWrite core sw ((s.vcore core).sram.read here.lo 32)).noteLate core late here.lo true (o'.done == n)).onVcore core
        fun c => { c with ops := rest }
    else if n ≤ o.done || (opc == 0x62 && decide (32 < o.buf.length)) then s
    else
      let g := s.portRead core sw flips
      if g.2.status != .ok then g.1.moveFail core
      else if opc == 0x60 then
        ((g.1.noteLate core late here.lo false (o'.done == n)).onVcore core fun c =>
          { c with sram := o.cover c.sram (c.sram.write here.lo g.2.data), ops := rest }).spoil core [here]
      else (g.1.noteLate core late here.lo false false).onVcore core fun c => { c with ops := b ++ { o' with buf := o.buf ++ g.2.data } :: r }

/-- Words of the running move until it is done or waits. -/
def State.vWords (core opc : Nat) : (fuel : Nat) → State → State
  | 0, s => s
  | n + 1, s =>
    let s' := s.vWord core opc []
    if (s'.vcore core).ops == (s.vcore core).ops || (s'.vcore core).ops.length < (s.vcore core).ops.length then s'
    else State.vWords core opc n s'

def execVfill (core : Nat) (s : State) : Result := .next (s.unlessHeld core (State.vWords core 0x60 8192 s))
def execVwrite (core : Nat) (s : State) : Result := .next (s.unlessHeld core (State.vWords core 0x61 8192 s))
def execVfwd (core : Nat) (s : State) : Result := .next (s.unlessHeld core (State.vWords core 0x62 8192 s))

/-- VSEND: from now on its beats are read in the outbound slots (R146, R498). -/
def execVsend (core : Nat) (s : State) : Result :=
  .next (s.unlessHeld core (s.onVcore core fun c => c.runSend (s.slotOf core)))

/-! ### One word of a move (R181, R187, R195) -/

/-- UCM_WORD_ARRIVAL: the next word of the running move of a core, with the errors that its array or bond contacts have
made since it was written. -/
def execUcmWordArrival (core : Nat) (flips : List SymErr) (s : State) : Result :=
  .next (s.unlessHeld core (if core % 64 < 48 then s.tWord core 1 flips
    else if core % 64 < 60 then
      (match splitQueue vQueue 1 (s.vcore core).ops with
      | some (_, o, _) => if vOpc o.word.toNat == 0x60 || vOpc o.word.toNat == 0x62 then s.vWord core (vOpc o.word.toNat) flips
          else s
      | none => s)
    else if (s.score core).runs 0x61 then s else s.scoreWord core true flips))

end Sys2Proof.Machine
end

