-- ==== Sys2Proof/Machine/Dma.lean ====
section
/-! DEFINITION. What DMA descriptors do: the checks of R283, copies and reshuffles, the binding of sluices, near-bank
commands and the key-value walk (R278-R289, R252, R255-R258). -/

namespace Sys2Proof.Machine

/-! ### The checks before any data moves (R283) -/

/-- Memory ranges of a descriptor: device flag, address, bytes. -/
def Desc.ranges (d : Desc) : List (Bool × Nat × Nat) :=
  let n := 64 * d.len
  match d.op with
  | 1 => [(d.srcDev, d.src, n), (d.dstDev, d.dst, n)]
  | 2 => [(d.srcDev, d.src, n)]
  | 3 => [(d.dstDev, d.dst, n)]
  | 4 => [(d.srcDev, d.src, n)]
  | 5 => [(d.srcDev, d.src, n)]
  | _ => []

/-- The sluice number of a sluice descriptor. -/
def Desc.sluice (d : Desc) : Option Nat :=
  match d.op with
  | 2 => some d.dst
  | 3 => some d.src
  | _ => none

/-- Step 2: reserved fields and unsupported values. -/
def Desc.reservedSet (d : Desc) : Bool :=
  bits d.word0 6 2 != 0 || bits d.word0 48 16 != 0 || fieldAt d.bytes 40 8 != 0
    || (d.op == 1 && (bits d.param 5 3 != 0 || bits d.param 12 4 != 0 || bits d.param 32 32 != 0))
    || (match d.sluice with
        | some n => decide (2 ^ 15 ≤ n)
        | none => false)
    || (d.op == 6 && (d.len != 0 || d.src != 0 || d.dst != 0 || d.param != 0 || d.param2 != 0))
    || (d.shuf != 0 && (d.op != 1 || decide (4 < d.shuf)))
    || (d.op == 1 && (match d.shuf with
        | 0 => d.planes != 0 || d.width != 0 || d.rrec != 0
        | 1 | 2 => d.planes != 0 || d.rrec != 0 || (d.width != 2 && d.width != 4)
        | 3 | 4 => d.width != 0 || d.planes == 1
        | _ => false))

/-- Whether two ranges overlap. -/
def overlap (a n b m : Nat) : Bool := decide (a < b + m) && decide (b < a + n)

/-- A device range is backed and its address has no bits above 47; a near-bank command may not lie in a window (R440). -/
def State.rangeOk (s : State) (op : Nat) (r : Bool × Nat × Nat) : Bool :=
  if r.1 then decide (r.2.1 < 2 ^ 48) && (if op == 4 then s.rangeBacked r.2.1 r.2.2 else s.dmaBacked r.2.1 r.2.2)
  else decide (r.2.1 + r.2.2 ≤ 2 ^ 64)

/-- The first check that fails, with the address it concerns (R283). -/
def State.descCheck (s : State) (ch : Nat) (d : Desc) : Option (Status × Nat) :=
  let rs := d.ranges
  let at_ (p : Bool × Nat × Nat → Bool) : Nat := (rs.find? p).elim 0 fun r => r.2.1
  let unaligned (r : Bool × Nat × Nat) : Bool := r.2.1 % 64 != 0
  let unbacked (r : Bool × Nat × Nat) : Bool := !s.rangeOk d.op r
  let denied (r : Bool × Nat × Nat) : Bool := r.1 && !s.mayReach ch r.2.1 r.2.2
  let block := if d.shuf == 0 then 1 else if d.shuf ≤ 2 then d.width else d.planes * d.rrec
  let checks : List (Bool × Status × Nat) := [
    (d.op == 0 || decide (6 < d.op), .badOpcode, 0),
    (d.reservedSet, .formatUnsupported, 0),
    (d.op != 6 && d.len == 0, .badLength, 0),
    (decide (3 ≤ d.shuf) && (d.planes == 0 || d.rrec == 0), .badLength, 0),
    (d.op == 4 && bits d.param 16 16 == 0, .badLength, 0),
    (rs.any unaligned, .align, at_ unaligned),
    (d.op == 4 && d.dst % 64 != 0, .align, d.dst),
    (d.len % block != 0, .align, 0),
    (rs.any unbacked, .bound, at_ unbacked),
    (d.op == 4 && d.dstDev && decide (2 ^ 48 ≤ d.dst), .bound, d.dst),
    (d.op == 1 && d.srcDev == d.dstDev && overlap d.src (64 * d.len) d.dst (64 * d.len), .bound, d.dst),
    (decide (3 ≤ d.shuf) && decide (16 < d.planes), .bound, 0),
    (d.sluice.any fun n => decide (32255 < n) || n % 2 != d.op - 2, .bound, d.sluice.getD 0),
    (d.sluice.any fun n => !s.maySluice ch (n / 2), .denied, d.sluice.getD 0),
    (rs.any denied, .denied, at_ denied)]
  (checks.find? fun c => c.1).map fun c => c.2

/-- A channel waits for the answer to an access of its running descriptor. -/
def DmaCh.unanswered (c : DmaCh) : Bool := c.parked != 0 || !c.retryAccess.isEmpty || c.remote != 0

/-- All writes of the running descriptor are issued (R280). -/
def DmaCh.allIssued (c : DmaCh) : Bool :=
  match c.finish, c.fetched.head? with
  | some (st, _), _ => st == .ok
  | none, some d => c.begun && (d.op == 1 || d.op == 3) && c.issued == d.len
  | none, none => false

/-- The first bytes that a descriptor reads: device flag, address, bytes. -/
def Desc.firstRead (d : Desc) : Option (Bool × Nat × Nat) :=
  let n := 64 * d.len
  let lim (n : Nat) : Nat := min n (4096 - d.src % 4096)
  match d.op with
  | 1 => some (d.srcDev, d.src, lim (if d.shuf == 0 then min n (4096 - d.dst % 4096) else n))
  | 2 => some (d.srcDev, d.src, 64)
  | 4 | 5 => some (d.srcDev, d.src, lim n)
  | _ => none

/-- A descriptor without FENCE starts reading before the writes of the one before it are acknowledged (R280): its first
bytes, which a retrain or a link would not delay. -/
def State.readAhead (s : State) (ch : Nat) (mine : Desc → Bool) : State :=
  let c := s.chan ch
  match c.fetched with
  | _ :: d :: _ =>
    if !s.working ch || !c.unanswered || !c.allIssued || d.fence || !mine d || !c.ahead.isEmpty || (s.descCheck ch d).isSome then s
    else match d.firstRead with
      | none => s
      | some (true, a, n) =>
        if inWindow a || s.wouldHold a (.read n) then s
        else
          let r := s.chanAccess ch { who := .dma ch, noalloc := d.noalloc } a (.read n)
          if r.2.status == .ok then r.1.onChan ch fun c => { c with ahead := r.2.data } else s
      | some (false, a, n) =>
        if !s.mayAskHost ch then s
        else match s.hostRead c.func a n with
          | some l => s.onChan ch fun c => { c with ahead := l }
          | none => s
  | _ => s

/-- The running descriptor of a channel, if `mine` recognises it: checked when it begins, then carried on by `run`. -/
def State.runDesc (s : State) (ch : Nat) (mine : Desc → Bool) (run : State → Desc → State) : State :=
  match s.desc ch with
  | none => s
  | some d =>
    let c := s.chan ch
    if c.finish.isSome || c.unanswered then s.readAhead ch mine
    else if !s.working ch || !mine d || c.retry.isSome then s
    else if c.begun then run s d
    else match s.descCheck ch d with
      | some (st, a) => s.endDesc ch st 0 a false false
      | none => run (s.onChan ch fun c => { c with begun := true, done := 0, issued := 0, got := c.ahead, ahead := [] }) d

/-- The descriptor has all its writes acknowledged or issued. -/
def State.finishDesc (s : State) (ch : Nat) (st : Status) (done : Nat) : State :=
  s.onChan ch fun c => { c with finish := some (st, done) }

/-! ### Moving data -/

/-- Reading at most `n` bytes, not beyond a 4 KiB boundary, for the running descriptor. -/
def State.pull (s : State) (ch : Nat) (d : Desc) (dev : Bool) (a n : Nat) : State :=
  let n := min n (4096 - a % 4096)
  if dev && inWindow a then (s.askPeer ch a (.read n)).1
  else if dev then
    let life := (s.chan ch).life
    let r := s.chanAccess ch { who := .dma ch, noalloc := d.noalloc } a (.read n)
    if r.2.status == .held then r.1 else r.1.delivered ch life a (.read n) r.2
  else if !s.mayAskHost ch then s
  else match s.hostRead (s.chan ch).func a n with
    | some l => s.delivered ch (s.chan ch).life a (.read n) { data := l }
    | none => s.busFail ch .busError a false true

/-- A write of a channel is issued: its bytes count in the engine's activity, its units among the issued (R280, R293). -/
def State.issue (s : State) (ch n : Nat) : State :=
  (s.engineCount ch 0 n).onChan ch fun c => { c with issued := c.issued + n / 64 }

/-- Writing bytes that do not cross a 4 KiB boundary; false when nothing could be issued. -/
def State.put (s : State) (ch : Nat) (dev : Bool) (a : Nat) (l : List Byte) : State × Bool :=
  let life := (s.chan ch).life
  if dev && inWindow a then
    let r := s.askPeer ch a (.write l)
    (if r.2 && (r.1.chan ch).life == life then r.1.issue ch l.length else r.1, r.2)
  else if dev then
    let r := (s.issue ch l.length).chanAccess ch { who := .dma ch } a (.write l)
    (if r.2.status == .held then r.1 else r.1.delivered ch life a (.write l) r.2, true)
  else if !s.mayAskHost ch then (s, false)
  else match (s.issue ch l.length).hostWrite (s.chan ch).func a l with
    | some s' => (s'.delivered ch life a (.write l) {}, true)
    | none => (s.busFail ch .busError a true true, true)

/-! ### COPY and the reshuffles (R284) -/

/-- Rows to columns. -/
def transpose {α : Type} (n : Nat) (rows : List (List α)) : List (List α) :=
  rows.foldr (fun r acc => List.zipWith List.cons r acc) (List.replicate n [])

/-- Packed elements of width w to bit planes: eight elements are w bytes. -/
def psplitBytes (w : Nat) (l : List Byte) : List Byte :=
  let gs := (chunks w l).map leNat
  (List.range w).flatMap fun b => gs.map fun g =>
    BitVec.ofNat 8 (((List.range 8).map fun k => b2n (bit g (k * w + b)) * 2 ^ k).foldl (· + ·) 0)

/-- Bit planes to packed elements. -/
def pjoinBytes (w : Nat) (l : List Byte) : List Byte :=
  let n := l.length / w
  (transpose n (chunks n l)).flatMap fun col =>
    leBytes w (((col.zipIdx).map fun x =>
      ((List.range 8).map fun k => b2n (x.1.getLsbD k) * 2 ^ (k * w + x.2)).foldl (· + ·) 0).foldl (· + ·) 0)

/-- Records of r units, p planes of them: channel-major to token-major. -/
def intlvBytes (p r : Nat) (l : List Byte) : List Byte :=
  let recs := chunks (64 * r) l
  let t := recs.length / p
  ((transpose t (chunks t recs)).map List.flatten).flatten

def deintlvBytes (p r : Nat) (l : List Byte) : List Byte :=
  let recs := chunks (64 * r) l
  ((transpose p (chunks p recs)).map List.flatten).flatten

def Desc.shuffle (d : Desc) (l : List Byte) : List Byte :=
  match d.shuf with
  | 1 => psplitBytes d.width l
  | 2 => pjoinBytes d.width l
  | 3 => intlvBytes d.planes d.rrec l
  | 4 => deintlvBytes d.planes d.rrec l
  | _ => l

/-- One transfer of a copy: without a reshuffle a piece is read and written in turn, with one all is read first. -/
def State.copyStep (s : State) (ch : Nat) (d : Desc) : State :=
  let c := s.chan ch
  let total := 64 * d.len
  let done := 64 * c.done
  let room (a : Nat) : Nat := 4096 - a % 4096
  if d.shuf == 0 then
    if c.got.isEmpty then s.pull ch d d.srcDev (d.src + done) (min (total - done) (room (d.dst + done)))
    else
      let r := (s.onChan ch fun c => { c with got := [] }).put ch d.dstDev (d.dst + done) c.got
      if r.2 then r.1 else s
  else if c.got.length < total then s.pull ch d d.srcDev (d.src + c.got.length) (total - c.got.length)
  else (s.put ch d.dstDev (d.dst + done) (((d.shuffle c.got).drop done).take (room (d.dst + done)))).1

/-- Transfers until the copy is finished, waits or fails. -/
def State.copyLoop (ch : Nat) (d : Desc) : (fuel : Nat) → State → State
  | 0, s => s
  | n + 1, s =>
    let c := s.chan ch
    if c.done == d.len then s.finishDesc ch .ok d.len
    else
      let s' := s.copyStep ch d
      let c' := s'.chan ch
      if c'.life != c.life || c'.unanswered
          || (c'.done == c.done && c'.got.length == c.got.length) then s'
      else State.copyLoop ch d n s'

def State.copyRun (s : State) (ch : Nat) (d : Desc) : State := State.copyLoop ch d (4 * d.len + 4) s

/-- COPY without reshuffle, and the check of a descriptor whose OP or SHUF no row has (R283, R284). -/
def execCopy (ch : Nat) (s : State) : Result :=
  .next (s.runDesc ch (fun d => (d.op == 1 && (d.shuf == 0 || decide (4 < d.shuf))) || d.op == 0 || decide (6 < d.op))
    fun s d => s.copyRun ch d)

def execPsplit (ch : Nat) (s : State) : Result :=
  .next (s.runDesc ch (fun d => d.op == 1 && d.shuf == 1) fun s d => s.copyRun ch d)

def execPjoin (ch : Nat) (s : State) : Result :=
  .next (s.runDesc ch (fun d => d.op == 1 && d.shuf == 2) fun s d => s.copyRun ch d)

def execIntlv (ch : Nat) (s : State) : Result :=
  .next (s.runDesc ch (fun d => d.op == 1 && d.shuf == 3) fun s d => s.copyRun ch d)

def execDeintlv (ch : Nat) (s : State) : Result :=
  .next (s.runDesc ch (fun d => d.op == 1 && d.shuf == 4) fun s d => s.copyRun ch d)

/-- NOP (R278, R281). -/
def execNop (ch : Nat) (s : State) : Result :=
  .next (s.runDesc ch (fun d => d.op == 6) fun s _ => s.finishDesc ch .ok 0)

/-! ### Sluices (R168, R169, R285) -/

/-- Credits that an inbound sluice still grants. -/
def SluiceIn.credit (x : SluiceIn) : Nat := 32 - x.filled - x.inflight

/-- A channel may hold the binding of an inbound sluice now. -/
def State.canBindIn (s : State) (ch cl : Nat) : Bool :=
  let x := (s.cluster cl).sin
  x.open_ && (x.bound.isNone || x.bound == some ch)
def State.canBindOut (s : State) (ch cl : Nat) : Bool :=
  let x := (s.cluster cl).sout
  x.open_ && (x.bound.isNone || x.bound == some ch)

def State.bindIn (s : State) (ch cl : Nat) : State := s.onCluster cl fun c => { c with sin := { c.sin with bound := some ch } }
def State.bindOut (s : State) (ch cl : Nat) : State := s.onCluster cl fun c => { c with sout := { c.sout with bound := some ch } }

/-- An entry sent to an inbound sluice for one of its credits. -/
def State.sendEntry (s : State) (ch cl : Nat) (l : List Byte) : State :=
  (s.engineCount ch 0 l.length).onCluster cl fun c => { c with sin := { c.sin with inflight := c.sin.inflight + 1, coming := c.sin.coming ++ [l] } }

/-- Entries read from memory and sent while there are credits. -/
def State.feedSluice (ch cl : Nat) (d : Desc) : (fuel : Nat) → State → State
  | 0, s => s
  | n + 1, s =>
    let c := s.chan ch
    let x := (s.cluster cl).sin
    let sent := c.done + x.coming.length
    if d.len ≤ sent || x.credit == 0 || !x.open_ then s
    else if 64 ≤ c.got.length then
      State.feedSluice ch cl d n ((s.onChan ch fun c => { c with got := [] }).sendEntry ch cl c.got)
    else
      let s' := s.pull ch d d.srcDev (d.src + 64 * sent) 64
      let c' := s'.chan ch
      if c'.life != c.life || c'.got.isEmpty then s' else State.feedSluice ch cl d n s'

/-- TO_SLUICE: binds its channel to the sluice and sends an entry per credit (R168, R285). -/
def execToSluice (ch : Nat) (s : State) : Result :=
  .next (s.runDesc ch (fun d => d.op == 2) fun s d =>
    let cl := d.dst / 2
    if s.canBindIn ch cl then State.feedSluice ch cl d 130 (s.bindIn ch cl) else s)

/-- FROM_SLUICE: binds its channel; entries are taken by SLUICE_ENTRY_TAKEN, and the last write may be acknowledged later
(R170, R285). -/
def execFromSluice (ch : Nat) (s : State) : Result :=
  .next (s.runDesc ch (fun d => d.op == 3) fun s d =>
    let cl := d.src / 2
    if (s.chan ch).done == d.len then s.finishDesc ch .ok d.len
    else if s.canBindOut ch cl then s.bindOut ch cl else s)

/-! ### Near-bank commands (R231, R233, R285) -/

/-- A command to a stack's dispatcher, whose input buffer holds eight; a full one answers HELD, and a fenced router on its way
HW_ERROR (R423). -/
def State.sendNb (s : State) (ch k : Nat) (cmd : NbCmd) : State :=
  if s.turnedAway (.dma ch) (2 ^ 61 + k) none then s.devFail ch .hwError 0 true false
  else if (s.stack k).dispatch.length < 8 then
    (((s.progress ch).engineCount ch 1 1).engineCount ch 0 (cmd.header.length + cmd.payload.length)).onStack k fun x =>
      { x with dispatch := x.dispatch ++ [cmd] }
  else s.onChan ch fun c => { c with retry := some (k, cmd) }

/-- POLDER of a header: 0xFF for a channel of none (R229). -/
def polderByte (p : Nat) : List Byte := leBytes 1 (if p < 24 then p else 0xFF)

/-- The channels a command's completions come from; an empty mask is answered by the dispatcher itself, 1024 + stack. -/
def NbCmd.selected (c : NbCmd) (k : Nat) : List Nat :=
  if c.mask == 0 then [1024 + k] else ((List.range 32).filter (bit c.mask)).map (32 * k + ·)

/-- The checks of R283 that need an NBCMD's header: the places that it will write, one of CSTRIDE units for each channel its mask
selects, are backed and apart from SRC, and they and the stack lie within reach. -/
def State.slotCheck (s : State) (ch : Nat) (d : Desc) (mask : Nat) : Option (Status × Nat) :=
  let stride := bits d.param 16 16 * 64
  let slots := ((List.range 32).filter (bit mask)).map fun j => d.dst + j * stride
  let unbacked (a : Nat) : Bool :=
    if d.dstDev then !(decide (a < 2 ^ 48) && s.dmaBacked a stride) else decide (2 ^ 64 < a + stride)
  let meets (a : Nat) : Bool := d.srcDev == d.dstDev && overlap d.src (64 * d.len) a stride
  let denied (a : Nat) : Bool := d.dstDev && !s.mayReach ch a stride
  match slots.find? unbacked, slots.find? meets, slots.find? denied with
  | some a, _, _ => some (.bound, a)
  | none, some a, _ => some (.bound, a)
  | none, none, some a => some (.denied, a)
  | none, none, none => if s.mayCommand ch (bits d.param 0 5) then none else some (.denied, 0)

/-- NBCMD: the header and payload are read, then the command is sent (R285). -/
def State.nbcmdLoop (ch : Nat) (d : Desc) : (fuel : Nat) → State → State
  | 0, s => s
  | n + 1, s =>
    let c := s.chan ch
    let total := 64 * d.len
    if !c.awaited.isEmpty then s
    else if c.got.length < total then
      let s' := s.pull ch d d.srcDev (d.src + c.got.length) (total - c.got.length)
      let c' := s'.chan ch
      if c'.life != c.life || c'.got.length == c.got.length then s' else State.nbcmdLoop ch d n s'
    else if d.len != 1 + fieldAt c.got 10 2 then s.endDesc ch .badLength 0 d.src false false
    else match s.slotCheck ch d (fieldAt c.got 4 4) with
      | some (st, a) => s.endDesc ch st 0 a false false
      | none =>
        let k := bits d.param 0 5
        let cmd : NbCmd := ⟨patch (c.got.take 64) 2 (polderByte c.polder), c.got.drop 64, ch, c.life⟩
        (s.onChan ch fun c => { c with awaited := cmd.selected k, got := [] }).sendNb ch k cmd

def execNbcmd (ch : Nat) (s : State) : Result :=
  .next (s.runDesc ch (fun d => d.op == 4) fun s d => State.nbcmdLoop ch d (d.len + 4) s)

/-- The 32 B completion (R233). -/
def NbDone.bytes (x : NbDone) : List Byte :=
  leBytes 2 x.tag ++ leBytes 2 x.channel ++ leBytes 1 x.status.code ++ leBytes 1 x.flags.toNat
    ++ leBytes 2 (x.payload.length / 64) ++ leBytes 8 x.cycles ++ zeros 16

/-- Writing bytes for a completion, in pieces; what is held lands later (R212). -/
def State.putAll (ch : Nat) (dev : Bool) : (fuel : Nat) → State → Nat → List Byte → State
  | 0, s, _, _ => s
  | n + 1, s, a, l =>
    if l.isEmpty then s
    else
      let k := min l.length (4096 - a % 4096)
      let life := (s.chan ch).life
      let s' := (s.put ch dev a (l.take k)).1
      if (s'.chan ch).life != life || !s'.working ch then s' else State.putAll ch dev n s' (a + k) (l.drop k)

/-- A completion of an NBCMD (R285). -/
def State.nbcmdDone (s : State) (d : Desc) (x : NbDone) : State :=
  let ch := x.dma
  let stride := bits d.param 16 16
  -- the dispatcher's own answer to an empty mask has nothing to write
  if 1024 ≤ x.channel then s.finishDesc ch x.status 0 else
  let a := d.dst + x.channel % 32 * stride * 64
  let n := (if x.payload.isEmpty then 32 else 64 + x.payload.length)
  let fits := decide (n ≤ 64 * stride)
  let life := (s.chan ch).life
  let s := if fits then
      let s := State.putAll ch d.dstDev 3 s a x.bytes
      if (s.chan ch).life != life || !s.working ch then s
      else State.putAll ch d.dstDev (x.payload.length / 4096 + 3) s (a + 64) x.payload
    else s
  if (s.chan ch).life != life || !s.working ch then s
  else
    let st := if fits then x.status else .bound
    let s := s.onChan ch fun c => { c with
      awaited := c.awaited.erase x.channel
      done := c.done + 1
      failed := if st == .ok then c.failed else match c.failed with
        | some f => if x.channel < f.1 then some (x.channel, st) else some f
        | none => some (x.channel, st) }
    if (s.chan ch).awaited.isEmpty then
      s.finishDesc ch ((s.chan ch).failed.elim .ok Prod.snd) (s.chan ch).done
    else s

/-! ### The key-value walk (R252, R255-R258, R286) -/

/-- Fields of a walk block. -/
def wkS (b : List Byte) : Nat := fieldAt b 0 2
def wkFlags (b : List Byte) : Nat := fieldAt b 2 1
def wkAppend (b : List Byte) : Bool := bit (wkFlags b) 2
def wkSrcFmt (b : List Byte) : Nat := fieldAt b 3 1
def wkParams (b : List Byte) : Nat := fieldAt b 8 8
def wkD (b : List Byte) : Nat := bits (wkParams b) 0 9
def wkG (b : List Byte) : Nat := bits (wkParams b) 9 5
def wkQFmt (b : List Byte) : Nat := bits (wkParams b) 14 4
def wkKFmt (b : List Byte) : Nat := bits (wkParams b) 18 4
def wkVFmt (b : List Byte) : Nat := bits (wkParams b) 22 4
def wkOut (b : List Byte) : Nat := fieldAt b 16 4
def wkIn (b : List Byte) : Nat := fieldAt b 20 4
def wkListOff (b : List Byte) : Nat := fieldAt b 24 4
def wkStride (b : List Byte) : Nat := fieldAt b 28 4
def wkStage (b : List Byte) : Nat := fieldAt b 32 8
def wkStageLen (b : List Byte) : Nat := fieldAt b 40 4
/-- Address word of sequence i's page list: bit 0 for a device address. -/
def wkList (b : List Byte) (i : Nat) : Nat := fieldAt b (64 + 8 * i) 8

/-- Bytes of an element of a query or of an appended key (R88, R247). -/
def srcSize (f : Nat) : Nat := if f == 1 then 2 else 4
/-- Bytes of new keys and values, and of the query, of one sequence. -/
def wkKvBytes (b : List Byte) : Nat := 2 * wkD b * srcSize (wkSrcFmt b)
def wkQBytes (b : List Byte) : Nat := wkG b * wkD b * srcSize (wkQFmt b)
/-- Staged slot in 64 B units, and sluice entries of a partial result (R258, R286). -/
def wkSlot (b : List Byte) : Nat := 1 + ceilDiv (wkG b * (wkD b + 2) * 4) 64
def wkEntries (b : List Byte) : Nat := wkG b * (1 + wkD b / 16)

/-- The checks of a walk block that need no list (R283, R286). -/
def State.walkCheck (s : State) (ch : Nat) (d : Desc) (b : List Byte) : Option Status :=
  let lists := (List.range (wkS b)).map (wkList b)
  firstFail [
    (bits (wkFlags b) 3 5 != 0 || ((b.take 64).drop 44).any (· != 0) || bits (wkParams b) 26 38 != 0
      || decide (1 < wkSrcFmt b) || decide (1 < wkQFmt b) || !kvAllows (wkKFmt b) (wkD b) || !kvAllows (wkVFmt b) (wkD b),
      .formatUnsupported),
    (wkS b == 0 || wkD b == 0 || wkG b == 0 || wkStageLen b == 0, .badLength),
    (wkListOff b % 64 != 0 || wkStage b % 64 != 0 || wkD b % 16 != 0 || (lists.any fun a => bits a 1 5 != 0), .align),
    (decide (256 < wkS b) || decide (64 * d.len < 64 + 8 * wkS b) || decide (256 < wkD b) || decide (16 < wkG b)
      || decide (4096 < wkQBytes b) || decide (32255 < wkOut b) || wkOut b % 2 != 1 || decide (32255 < wkIn b)
      || wkIn b % 2 != 0 || decide (s.kvBase < wkListOff b + wkS b * wkStride b * 64) || !inScratch (wkStage b)
      || !s.rangeBacked (wkStage b) (64 * wkStageLen b)
      || (lists.any fun a => if bit a 0 then !(decide (a < 2 ^ 48) && s.dmaBacked (a - 1) 64) else decide (2 ^ 64 < a + 64)), .bound),
    (!s.maySluice ch (wkOut b / 2) || !s.maySluice ch (wkIn b / 2) || !s.mayReach ch (wkStage b) (64 * wkStageLen b)
      || (lists.any fun a => bit a 0 && !s.mayReach ch (a - 1) 64), .denied)]

/-- The checks of a page list's header (R252). -/
def listHeadCheck (h : List Byte) : Option Status :=
  let ntok := fieldAt h 0 4
  let np := fieldAt h 4 4
  firstFail [
    (ntok == 0 || np == 0, .badLength),
    ((h.drop 8).any (· != 0), .formatUnsupported),
    (np != ceilDiv ntok 64 || decide (4096 < np), .bound)]

/-- The pages of a list whose header stands at byte `o` of what was read. -/
def listPages (l : List Byte) (o np : Nat) : List Nat := (List.range np).map fun i => fieldAt l (o + 64 + 4 * i) 4

/-- The checks of a list's pages (R252). -/
def State.pageCheck (s : State) (b : List Byte) (ps : List Nat) : Option Status :=
  firstFail [
    ((ps.any fun p => decide (s.kvSlots ≤ p / 1024)) || decide (s.kvStride < pageBytes (wkKFmt b) (wkVFmt b) (wkD b)), .bound),
    (ps.any fun p => (s.edgeCh (p % 1024)).mode != .processor, .denied)]

/-- What the walker has to do next while it reads: read bytes, fail, or go on with the sequences. -/
inductive WalkRead where
  | read (dev : Bool) (addr n : Nat)
  | fail (st : Status)
  | ready (seqs : List (Nat × List Nat))
deriving DecidableEq, Repr

/-- The lists of sequences `i` on, whose bytes start at `o` of what was read. -/
def State.walkLists (s : State) (ch : Nat) (b got : List Byte) : (left i o : Nat) → List (Nat × List Nat) → WalkRead
  | 0, _, _, acc => .ready acc
  | k + 1, i, o, acc =>
    let w := wkList b i
    let a := w - w % 2
    let h := (got.drop o).take 64
    if h.length < 64 then .read (w % 2 == 1) (a + h.length) (64 - h.length)
    else match listHeadCheck h with
      | some st => .fail st
      | none =>
        let np := fieldAt h 4 4
        let have_ := got.length - (o + 64)
        let n := 64 + 4 * np
        if (if w % 2 == 1 then !s.dmaBacked a n else decide (2 ^ 64 < a + n)) then .fail .bound
        else if w % 2 == 1 && !s.mayReach ch a (64 + 4 * np) then .fail .denied
        else if have_ < 4 * np then .read (w % 2 == 1) (a + 64 + have_) (4 * np - have_)
        else
          let ps := listPages got o np
          match s.pageCheck b ps with
          | some st => .fail st
          | none => s.walkLists ch b got k (i + 1) (o + 64 + 4 * np) (acc ++ [(fieldAt h 0 4, ps)])

/-- Reading phase of a walk. -/
def State.walkNext (s : State) (ch : Nat) (d : Desc) (got : List Byte) : WalkRead :=
  let total := 64 * d.len
  if got.length < total then .read d.srcDev (d.src + got.length) (total - got.length)
  else match s.walkCheck ch d got with
    | some st => .fail st
    | none => s.walkLists ch got got (wkS got) 0 total []

/-- Pages of a sequence on a channel, with their index (R255). -/
def pagesOn (ps : List Nat) (e : Nat) : List (Nat × Nat) := (ps.zipIdx).filter fun x => x.1 % 1024 == e

/-- The channel list of a sequence on a channel (R253, R255). -/
def State.channelList (s : State) (w : Walk) (e seq : Nat) : List Byte :=
  let q := nth (0, []) w.seqs seq
  let entry (slot valid : Nat) : List Byte := leBytes 8 ((s.kvBase + slot * s.kvStride) / 64 + valid * 2 ^ 32)
  let real := (pagesOn q.2 e).map fun x =>
    entry (x.1 / 1024) (if x.2 + 1 == q.2.length then (q.1 - 1) % 64 + 1 else 64)
  let l := leBytes 4 w.entries ++ zeros 60 ++ real.flatten ++ (List.replicate (w.entries - real.length) (entry 0 0)).flatten
  l ++ zeros (alignUp l.length 64 - l.length)

/-- The walk of checked sequences, and the checks that need the lists (R255, R286). -/
def State.walkPlan (s : State) (ch : Nat) (b : List Byte) (seqs : List (Nat × List Nat)) : Except Status Walk :=
  let all := seqs.flatMap Prod.snd
  let chans := (List.range 1024).filter fun e => all.any fun p => p % 1024 == e
  let e := (seqs.flatMap fun q => chans.map fun c => (pagesOn q.2 c).length).foldl max 0
  let ks := (List.range 32).filter fun k => chans.any fun c => c / 32 == k
  let firsts := (List.range (ceilDiv (64 + 8 * e) 4096)).map (4096 * ·)
  let steps := (chans.flatMap fun c => (List.range seqs.length).flatMap fun i => firsts.map fun f => WalkStep.list c i f)
    ++ (List.range seqs.length).flatMap fun i =>
      (if wkAppend b then [WalkStep.takeKv i, .append i] else []) ++ [.takeQuery i] ++ ks.map fun k => .attend i k
  match firstFail [
      (decide (wkStride b < ceilDiv (64 + 8 * e) 64) || decide (wkStageLen b < seqs.length * chans.length * wkSlot b), .bound),
      (ks.any fun k => !s.mayCommand ch k, .denied)] with
  | some st => .error st
  | none => .ok { block := b, seqs := seqs, chans := chans, entries := e, steps := steps }

/-- A command header of the walker. -/
def walkHeader (opc flags polder mask tag plen a0 a1 a2 a3 : Nat) : List Byte :=
  leBytes 1 opc ++ leBytes 1 (flags % 4) ++ polderByte polder ++ zeros 1 ++ leBytes 4 mask ++ leBytes 2 tag ++ leBytes 2 plen
    ++ zeros 4 ++ leBytes 8 a0 ++ leBytes 8 a1 ++ leBytes 8 a2 ++ leBytes 8 a3 ++ zeros 16

def walkListTag : Nat := 0x8000
def walkAppendTag : Nat := 0x4000

/-- Bytes padded to whole 64 B units. -/
def padUnits (l : List Byte) : List Byte := l ++ zeros (alignUp l.length 64 - l.length)

/-- A command of the walk is issued and its completions awaited. -/
def State.walkSend (s : State) (ch k : Nat) (w : Walk) (header payload : List Byte) (n : Nat) : State :=
  let cmd : NbCmd := ⟨header, payload, ch, (s.chan ch).life⟩
  (s.onChan ch fun c => { c with walk := some { w with steps := w.steps.drop 1, waiting := w.waiting + n } }).sendNb ch k cmd

/-- The next step of a walk, if it can be taken now. -/
def State.walkStep (s : State) (ch : Nat) (w : Walk) : Option State :=
  let c := s.chan ch
  let b := w.block
  let skip (s : State) : State := s.onChan ch fun c => { c with walk := some { w with steps := w.steps.drop 1 } }
  match w.steps with
  | [] => none
  | .list e seq first :: _ =>
    let l := ((s.channelList w e seq).drop first).take 4096
    let h := walkHeader 0x01 0 c.polder (2 ^ (e % 32)) walkListTag (l.length / 64)
      (wkListOff b + seq * wkStride b * 64 + first) 0 0 0
    some (s.walkSend ch (e / 32) w h l 1)
  | .takeKv _ :: _ => if c.got.length < wkKvBytes b then none else some (skip s)
  | .append seq :: _ =>
    let q := nth (0, []) w.seqs seq
    let last := q.2.getLastD 0
    let first := (q.1 - 1) % 64
    let desc := first + 1 * 2 ^ 6 + wkSrcFmt b * 2 ^ 13 + wkKFmt b * 2 ^ 17 + wkVFmt b * 2 ^ 21 + wkD b * 2 ^ 25
    let l := padUnits (c.got.take (wkKvBytes b))
    let e := last % 1024
    let h := walkHeader 0x05 (wkFlags b) c.polder (2 ^ (e % 32)) (walkAppendTag + seq) (l.length / 64)
      (s.kvBase + last / 1024 * s.kvStride) desc 0 0
    some ((s.onChan ch fun c => { c with got := [] }).walkSend ch (e / 32) w h l 1)
  | .takeQuery _ :: _ => if c.got.length < wkQBytes b then none else some (skip s)
  | .attend seq k :: rest =>
    let here := w.chans.filter fun e => e / 32 == k
    let mask := (here.map fun e => 2 ^ (e % 32)).foldl (· + ·) 0
    let l := padUnits (c.got.take (wkQBytes b))
    let h := walkHeader 0x07 (wkFlags b) c.polder mask seq (l.length / 64)
      (wkListOff b + seq * wkStride b * 64) 0 (wkParams b) (fieldAt b 4 4)
    let more := match rest with
      | .attend _ _ :: _ => true
      | _ => false
    some ((s.onChan ch fun c => { c with got := if more then c.got else [] }).walkSend ch k w h l here.length)

/-- A walk's next step takes more from OUT_SLUICE. -/
def Walk.hungry (w : Walk) (got : Nat) : Bool :=
  match w.steps with
  | .takeKv _ :: _ => decide (got < wkKvBytes w.block)
  | .takeQuery _ :: _ => decide (got < wkQBytes w.block)
  | _ => false

/-- The sluice entry that comes next in the order of R258, read from its staging slot: the first holds m and l, the others
o. -/
def State.partialEntry (s : State) (ch : Nat) (w : Walk) (f : Nat) : State × Nat × Got :=
  let b := w.block
  let q := wkEntries b
  let slot := wkStage b + f / q * wkSlot b * 64
  let j := f % q
  let per := 1 + wkD b / 16
  let a := slot + 64 + j / per * (wkD b + 2) * 4
  let x := if j % per == 0 then a else a + 8 + 64 * (j % per - 1)
  let r := s.access { who := .dma ch } x (.read (if j % per == 0 then 8 else 64)) []
  (r.1, x, { r.2 with data := r.2.data ++ zeros (64 - r.2.data.length) })

/-- Forwarding staged partial results while there are credits (R258). -/
def State.walkForward (ch : Nat) : (fuel : Nat) → State → State
  | 0, s => s
  | n + 1, s =>
    match (s.chan ch).walk with
    | none => s
    | some w =>
      let cl := wkIn w.block / 2
      let x := (s.cluster cl).sin
      let i := w.forwarded / wkEntries w.block
      let who := (i / w.chans.length, nth 0 w.chans (i % w.chans.length))
      if w.seqs.length * w.chans.length ≤ i || !w.staged.contains who || x.credit == 0 || !x.open_ then s
      else
        let r := s.partialEntry ch w w.forwarded
        if r.2.2.status != .ok then r.1.devFail ch r.2.2.status r.2.1 false r.2.2.uncorrectable
        else State.walkForward ch n ((r.1.sendEntry ch cl r.2.2.data).onChan ch fun c => { c with
          walk := some { w with forwarded := w.forwarded + 1 }
          done := (w.forwarded + 1) / (wkEntries w.block * w.chans.length) })

/-- The walk is over: every command answered, every entry forwarded and arrived. -/
def State.walkEnd (s : State) (ch : Nat) : State :=
  match (s.chan ch).walk with
  | none => s
  | some w =>
    let all := w.seqs.length * w.chans.length * wkEntries w.block
    if w.steps.isEmpty && w.waiting == 0 && w.forwarded == all && (s.cluster (wkIn w.block / 2)).sin.coming.isEmpty then
      s.finishDesc ch .ok w.seqs.length
    else s

/-- Steps of a walk until it waits. -/
def State.walkLoop (ch : Nat) (d : Desc) : (fuel : Nat) → State → State
  | 0, s => s
  | n + 1, s =>
    let c := s.chan ch
    if c.retry.isSome || !s.working ch || c.finish.isSome then s
    else match c.walk with
    | some w =>
      match s.walkStep ch w with
      | some s => State.walkLoop ch d n s
      | none => (State.walkForward ch 40 s).walkEnd ch
    | none => match s.walkNext ch d c.got with
      | .fail st => s.endDesc ch st 0 d.src false false
      | .read dev a k =>
        let s' := s.pull ch d dev a k
        let c' := s'.chan ch
        -- what the walker reads for itself moves too (R293)
        if c'.life != c.life || c'.got.length == c.got.length then s'
        else State.walkLoop ch d n (s'.engineCount ch 0 (c'.got.length - c.got.length))
      | .ready seqs => match s.walkPlan ch c.got seqs with
        | .error st => s.endDesc ch st 0 d.src false false
        | .ok w =>
          let i := wkIn w.block / 2
          let o := wkOut w.block / 2
          if s.canBindIn ch i && s.canBindOut ch o then
            State.walkLoop ch d n (((s.bindIn ch i).bindOut ch o).onChan ch fun c => { c with walk := some w, got := [] })
          else s

/-- KVWALK (R286). -/
def execKvwalk (ch : Nat) (s : State) : Result :=
  .next (s.runDesc ch (fun d => d.op == 5) fun s d => State.walkLoop ch d 1000000 s)

/-- A completion of a walk's command: a partial result is staged at the fixed place of its sequence and channel; a status
other than OK halts the channel (R258, R286). -/
def State.walkDone (s : State) (x : NbDone) (w : Walk) : State :=
  let ch := x.dma
  if x.status != .ok then s.endDesc ch x.status (s.chan ch).done 0 false false
  else
    let w := { w with waiting := w.waiting - 1 }
    if x.tag < walkAppendTag then
      let i := x.tag * w.chans.length + w.chans.idxOf x.channel
      let a := wkStage w.block + i * wkSlot w.block * 64
      let r := s.chanWrite ch a x.bytes
      let r := if r.2.status == .ok then r.1.chanWrite ch (a + 64) x.payload else r
      if r.2.status != .ok then r.1.devFail ch r.2.status a true r.2.uncorrectable
      else
        let s := r.1.onChan ch fun c => { c with walk := some { w with staged := w.staged ++ [(x.tag, x.channel)] } }
        (State.walkForward ch 40 s).walkEnd ch
    else (s.onChan ch fun c => { c with walk := some w }).walkEnd ch

/-- The oldest completion of an edge channel's unit reaches the DMA channel that waits for it (R233, R285). -/
def execNbCompletion (e : Nat) (s : State) : Result :=
  match (s.edgeCh e).done with
  | [] => .next s
  | x :: rest =>
    let ch := x.dma
    let c := s.chan ch
    let gone := s.onEdgeCh e fun k => { k with done := rest }
    if c.life != x.life || !c.begun || c.finish.isSome then .next gone
    else if c.unanswered then .next s
    else match c.walk, c.fetched.head? with
      | some w, _ => .next ((gone.progress ch).walkDone x w)
      | none, some d =>
        if !c.awaited.contains x.channel then .next gone
        else if !d.dstDev && !s.mayAskHost ch then .next s
        else .next ((gone.progress ch).nbcmdDone d x)
      | none, none => .next gone

/-- The oldest request of a channel that got HELD is issued again, and counted (R288). -/
def execHeldRetry (ch : Nat) (s : State) : Result :=
  let c := s.chan ch
  let count (c : DmaCh) : DmaCh := { c with held := satAdd 32 c.held 1 }
  match c.retry, c.retryAccess with
  | some (k, cmd), _ => .next ((s.onChan ch fun c => { count c with retry := none }).sendNb ch k cmd)
  | none, h :: rest =>
    -- one that is held once more, where the hold queue is still full, keeps its place
    let r := (s.onChan ch fun c => { count c with retryAccess := [] }).again h
    let now := (r.chan ch).retryAccess
    .next (if (r.chan ch).life == c.life then r.onChan ch fun c => { c with retryAccess := now ++ rest } else r)
  | none, [] => .next s

end Sys2Proof.Machine
end

