-- ==== Sys2Proof/Machine/Fabric.lean ====
section
/-! DEFINITION. The scheduled fabric: slot-table sequencing, one slot of every router and mini-mesh of a polder, slot
faults, holds and their end (file 06, R135-R152). -/

namespace Sys2Proof.Machine

/-! ### Slot-table sequencing (R138, R141, R142) -/

/-- Entry `e` of page `p` comes into force in slot `t`: its contents are read then. -/
def Cluster.enforce (c : Cluster) (p e t : Nat) : Cluster :=
  { c with page := p, entry := e, since := t, inForce := Sparse.get idleEntry c.table (256 * p + e) }

/-- The entry of slot `t`: a page switch that is due, else the next entry once the one in force has had its slots; then
the entries that RWR writes in this slot. -/
def Cluster.advance (c : Cluster) (t : Nat) : Cluster :=
  let f := c.inForce.toNat
  let c := match c.pageAt.find? fun x => x.1 == t with
    | some x => c.enforce x.2 0 t
    | none => if c.since + entSlots f ≤ t then c.enforce c.page (if entWrap f || c.entry == 255 then 0 else c.entry + 1) t
        else c
  let now := c.writes.filter fun x => decide (x.1 ≤ t)
  { c with
    pageAt := c.pageAt.filter fun x => decide (t < x.1)
    writes := c.writes.filter fun x => decide (t < x.1)
    table := now.foldl (fun m x => Sparse.set idleEntry m x.2.1 x.2.2) c.table }

/-- The entry of slot `t` is in force and nothing is left to be written in it. -/
def Cluster.synced (c : Cluster) (t : Nat) : Bool :=
  decide (t < c.since + entSlots c.inForce.toNat) && c.pageAt.all (fun x => decide (t < x.1))
    && c.writes.all fun x => decide (t < x.1)

/-- The clusters of a running polder that take part in its schedule. -/
def State.fabric (s : State) (n : Nat) : List Nat := (s.listed n).filter (s.polder n).runs

/-- SLOT_ENTRY_ADVANCE: every router of the polder has the entry of the present slot (R138). -/
def execSlotEntryAdvance (p : Nat) (s : State) : Result :=
  let x := s.polder p
  .next (if !x.acts then s else
    s.each ((s.fabric p).filter fun cl => !(s.cluster cl).synced x.slot) fun s cl => s.onCluster cl fun c => c.advance x.slot)

/-! ### Where a link leads (R135, R136, R149) -/

/-- The neighbour at a port: its cluster, the port reached there, the latency, and the width of the crossing on the way
where there is one (quarters and period). -/
structure Hop where
  cl : Nat
  port : Port
  latency : Nat
  width : Option (Nat × Nat) := none
deriving DecidableEq, Repr

def Polder.hop (p : Polder) (cl : Nat) (port : Port) : Hop :=
  let uv := p.coord cl
  let next (u v : Nat) (back : Port) (vertical : Bool) : Hop :=
    let b := p.clusterAt u v
    let lo := min (dieOf cl) (dieOf b)
    let hi := max (dieOf cl) (dieOf b)
    if lo == hi then ⟨b, back, if halfOf cl == halfOf b then 1 else 2, none⟩
    else ⟨b, back, if vertical || lo % 6 == 2 then 40 else 6, some (p.width lo hi, if vertical then 16 else 4)⟩
  match port with
  | .north => next uv.1 (uv.2 - 1) .south true
  | .east => next (uv.1 + 1) uv.2 .west false
  | .south => next uv.1 (uv.2 + 1) .north true
  | .west => next (uv.1 - 1) uv.2 .east false
  | .local => ⟨cl, .local, 0, none⟩

/-! ### The mini-mesh (R146) -/

/-- A slot fault: the port of the router, 5 for the mini-mesh (R144, R147). -/
abbrev SlotFault := Nat × Nat

/-- A beat is written into a core's SRAM; what operations issued before it still have to write there no longer counts
(R70, R91). -/
def State.beatWrite (s : State) (core addr : Nat) (l : List Byte) : State :=
  if core % 64 < 48 then s.onTcore core fun c => { c with
    sram := c.sram.write addr l, ops := c.ops.map fun o => o.coverAt (tFoot o).writes addr
    stirred := c.stirred || !c.ops.isEmpty }
  else if core % 64 < 60 then (s.onVcore core fun c => { c with
    sram := c.sram.write addr l, ops := c.ops.map fun o => o.coverAt (vFoot o).writes addr
    stirred := c.stirred || !c.ops.isEmpty }).spoil core [⟨addr, 16⟩]
  else s.onScore core fun c => { c with dmem := c.dmem.write addr l }

/-- The beats of slot `t` reach their destinations. -/
def State.beatsLand (s : State) (t cl : Nat) : Except SlotFault State :=
  let now := (s.cluster cl).beats.filter fun b => b.slot == t
  let s := s.onCluster cl fun c => { c with beats := c.beats.filter fun b => b.slot != t }
  now.foldlM (fun s b =>
    if b.dst == 64 then
      if 8 ≤ (s.cluster cl).inject.length then .error (cl, 5)
      else .ok (s.onCluster cl fun c => { c with inject := c.inject ++ [b.data] })
    else .ok (s.each (meshCores cl b.dst) fun s core => s.beatWrite core b.addr b.data)) s

/-- Taking the beat of a DIRECT source. -/
def State.takeDirect (s : State) (cl src : Nat) : Option (List Byte × State) :=
  let core := cl * 64 + src
  if src == 64 then
    match (s.cluster cl).eject with
    | [] => none
    | b :: r => some (b, s.onCluster cl fun c => { c with eject := r })
  else if src < 48 then ((s.tcore core).takeBeat (s.cycleOf core)).map fun x => (x.1, s.setTcore core x.2)
  else
    let s := match (s.vcore core).moveHead with
      | some (_, x, _) => s.ringBlur core [sendBeat x]
      | none => s
    ((s.vcore core).takeSend (s.cycleOf core)).map fun x => (x.1, s.setVcore core x.2)

/-- Taking the beat of a FORWARD source. -/
def State.takeForwarded (s : State) (core : Nat) : Option ((Nat × Nat × List Byte) × State) :=
  (s.forwardBeat core).map fun x => (x.1,
    if core % 64 < 60 then s.onVcore core fun c => { c with ops := x.2 }
    else s.onScore core fun c => { c with
      ops := if x.2.length < c.ops.length then startHead (max (s.cycleOf core) (nextPort c.ops)) x.2 else x.2 })

/-- The mini-mesh transfer of slot `t`: a beat is read, to be written 4 slots later (R136, R139). -/
def State.meshSend (s : State) (t cl : Nat) : Except SlotFault State :=
  let c := s.cluster cl
  let e := c.inForce.toNat
  let send (s : State) (dst addr : Nat) (l : List Byte) : State :=
    s.onCluster cl fun c => { c with beats := c.beats ++ [⟨t + 4, dst, addr, l⟩] }
  match entMode e with
  | 1 => match s.takeDirect cl (entSrc e) with
    | some (l, s) => .ok (send s (entDst e) ((entAddr e + (t - c.since)) * 16) l)
    | none => .error (cl, 5)
  | 2 => match s.takeForwarded (cl * 64 + entSrc e) with
    | some (x, s) => .ok (send s x.1 x.2.1 x.2.2)
    | none => .error (cl, 5)
  | _ => .ok s

/-! ### The router (R143-R145, R147, R149) -/

/-- A lane-wise FP32 sum of two words (R49). -/
def addWords (o : ArithOpt) (a b : List Byte) : List (Nat × Flags) :=
  List.zipWith (fadd o) (unpack 32 8 a) (unpack 32 8 b)

/-- The sum of the words of several inputs in the port order of R49, with the OR of their sideband flags (R143, R145). -/
def reduceWords (o : ArithOpt) : List (List Byte × Flags) → List Byte × Flags
  | [] => (zeros 32, 0)
  | x :: r => r.foldl (fun a y =>
      let z := addWords o a.1 y.1
      (pack 32 32 (z.map Prod.fst), a.2 ||| y.2 ||| z.foldl (fun f w => f ||| w.2) 0)) x

/-- What stands at the inputs of a router, by port bit. -/
abbrev Inputs := List (Nat × List Byte × Flags)

/-- The word at an input. -/
def Inputs.at_ (l : Inputs) (p : Nat) : Option (List Byte × Flags) := (l.find? fun x => x.1 == p).map Prod.snd

/-- The outputs that the entry in force feeds, three slots later (R143). -/
def crossbar (o : ArithOpt) (e t : Nat) (ins : Inputs) : List Flight :=
  ((List.range 5).filter fun i => entMask e i != 0).map fun i =>
    let ws := ((List.range 5).filter (bit (entMask e i))).filterMap fun p => Inputs.at_ ins p
    let w := if entRed e i then reduceWords o ws else ws.headD (zeros 32, 0)
    ⟨t + 3, portOf (outPortBit i), w.1, w.2⟩

/-- Inputs that some mask of the entry names. -/
def entNamed (e p : Nat) : Bool := (List.range 5).any fun i => bit (entMask e i) p

/-- The first input of the four links that breaks R144: a word that no mask names, or a named input without a word. -/
def badInput (e : Nat) (ins : Inputs) : Option Nat :=
  ((List.range 5).drop 1).find? fun p => (Inputs.at_ ins p).isSome != entNamed e p

/-- A word leaves an output (R136, R145, R147, R149). -/
def State.emit (s : State) (p : Polder) (t cl : Nat) (f : Flight) : Except SlotFault State :=
  match f.port with
  | .local =>
    if 7 ≤ (s.cluster cl).eject.length then .error (cl, 0)
    else .ok ((s.onCluster cl fun c => { c with eject := c.eject ++ [f.data.take 16, f.data.drop 16] }).onScore (cl * 64 + 63)
      fun x => { x with status := x.status ||| f.flags })
  | port =>
    let h := p.hop cl port
    if h.width.any fun w => decide (w.1 ≤ t % w.2) then .error (cl, portCode port)
    else .ok (s.onCluster h.cl fun c => { c with inputs := c.inputs ++ [⟨t + h.latency, h.port, f.data, f.flags⟩] })

/-- The words that leave the outputs of a router in slot `t`. -/
def State.emitAll (s : State) (p : Polder) (t cl : Nat) : Except SlotFault State :=
  let now := (s.cluster cl).outputs.filter fun f => f.slot == t
  let s := s.onCluster cl fun c => { c with outputs := c.outputs.filter fun f => f.slot != t }
  now.foldlM (fun s f => s.emit p t cl f) s

/-- The entry in force applied to the words at the inputs in slot `t` (R143, R144, R147). -/
def Cluster.route (c : Cluster) (o : ArithOpt) (t cl : Nat) : Except SlotFault Cluster :=
  let e := c.inForce.toNat
  let ins : Inputs := (c.inputs.filter fun f => f.slot == t).map fun f => (portCode f.port, f.data, f.flags)
  let c := { c with inputs := c.inputs.filter fun f => f.slot != t }
  match badInput e ins with
  | some p => .error (cl, p)
  | none =>
    if entNamed e 0 then
      match c.inject with
      | a :: b :: r => .ok { c with inject := r, outputs := c.outputs ++ crossbar o e t ((0, a ++ b, 0) :: ins) }
      | _ => .error (cl, 0)
    else .ok { c with outputs := c.outputs ++ crossbar o e t ins }

/-- Everything one cluster does in slot `t`: beats land, the mini-mesh sends, words leave, the router switches.  Where
several slot faults fall into one slot, the first one of the lowest-numbered cluster in this order is logged (DESIGN
CHOICE, log 54). -/
def State.clusterSlot (s : State) (p : Polder) (t cl : Nat) : Except SlotFault State := do
  let s ← s.beatsLand t cl
  let s ← s.meshSend t cl
  let s ← s.emitAll p t cl
  let c ← (s.cluster cl).route (imgOpts p.image) t cl
  return s.setCluster cl c

/-! ### Check bits (R137, R150) -/

/-- A scheduled word or beat that stands at place `k` in slot `t`: cluster × 8 + port of a router input, or + 5 for a
mini-mesh beat. -/
def State.wordAt (s : State) (t k : Nat) : Bool :=
  let c := s.cluster (k / 8)
  if k % 8 == 5 then c.beats.any fun b => b.slot == t
  else c.inputs.any fun f => f.slot == t && portCode f.port == k % 8

/-- The word of place `k` has come over a crossing. -/
def Polder.crossed (p : Polder) (k : Nat) : Bool := decide (k % 8 < 5) && (p.hop (k / 8) (portOf (k % 8))).width.isSome

/-! ### One slot (R111, R151, R152) -/

/-- One more arithmetic cycle of a running polder; its tide counter comes round every 65,536 of them (R153). -/
def Polder.tick (p : Polder) : Polder :=
  { p with
    cycle := p.cycle + 1, tide := (p.tide + 1) % 65536, markDue := p.markDue || p.tide == 65535, atMark := false }

/-- The cluster of a hold on a sluice. -/
def Hold.sluice : Hold → Option Nat
  | .sin core | .sout core => some (clusterOf core)
  | _ => none

/-- A held cycle: it is counted, and nothing of the schedule moves, nor the slice move of an S-core that stands still
(R152). -/
def State.heldCycle (s : State) (n : Nat) : State :=
  let hs := (s.polder n).holds.filterMap fun h => h.1.sluice
  let still := (s.scores.map Prod.fst).filter fun core => s.polderAt core == n && s.standsStill core
  let s := s.each hs.eraseDups fun s cl => s.onCluster cl fun c => { c with sluiceHolds := satAdd 32 c.sluiceHolds 1 }
  let s := s.each still fun s core => s.onScore core fun x => { x with ops := x.ops.map fun o => o.push 1 }
  s.onPolder n fun p => { p.tick with holdCount := satAdd 32 p.holdCount 1 }

/-- A slot fault ends the job with TIMEOUT; router, port and slot are logged (R144). -/
def State.slotFail (s : State) (n t : Nat) (f : SlotFault) : State :=
  (s.addLog 4 (s.jobFunc n) n f.1 f.2 t).failJob n .timeout 0

/-- An S-core of the polder still has an instruction to execute in this slot. -/
def State.stillDue (s : State) (n : Nat) : Bool :=
  s.scores.any fun e => s.polderAt e.1 == n && e.2.due (s.polder n).slot

/-- ROUTER_SLOT: one slot of a polder, once a tide mark that is due has been seen.  A held polder passes a held cycle.
Otherwise, once every S-core has executed what is due and every router has its entry: the polder is held if a core cannot
perform its mini-mesh transfer, and else every mini-mesh and router does what its entry says, and the slot is over.  Of a
check-bit error and a slot fault in one slot, the check-bit error ends the job (DESIGN CHOICE, log 54). -/
def execRouterSlot (p : Nat) (badWords : List Nat) (s : State) : Result :=
  let x := s.polder p
  let t := x.slot
  .next (if x.state != .running || x.markDue then s
    else if !x.holds.isEmpty then s.heldCycle p
    else
      let cls := s.fabric p
      if s.stillDue p || cls.any (fun cl => !(s.cluster cl).synced t) then s
      else
        let blocked := cls.filter fun cl => !(s.meshAskers t cl).isEmpty
        if !blocked.isEmpty then
          (s.onPolder p fun x => { x with holds := blocked.map fun cl => (Hold.router cl, x.cycle) }).heldCycle p
        else match badWords.find? (fun k => x.runs (k / 8) && s.wordAt t k) with
          | some k =>
            let s := if x.crossed k then s.onPolder p fun x => { x with retrain := true } else s
            let s := s.each (badWords.dedup.filter fun k => x.runs (k / 8) && s.wordAt t k) fun s k =>
              s.onCluster (k / 8) fun c => { c with
                checkErrors := (c.checkErrors.filter fun u => decide (s.time.dev ≤ u + 100000000)) ++ [s.time.dev] }
            (s.addLog 20 (s.jobFunc p) p k t 0).failJob p .hwError 0
          | none => match cls.foldlM (fun s cl => s.clusterSlot x t cl) s with
            | .error f => s.slotFail p t f
            | .ok s => s.onPolder p fun x => { x.tick with slot := t + 1 })

/-! ### The end of a hold (R151) -/

/-- The count that a waiting SIN or SOUT names. -/
def State.waitCount (s : State) (core : Nat) : Nat :=
  match s.fetched core with
  | .instr (.sin r) _ _ => ((s.score core).reg r).toNat
  | .instr (.sout r) _ _ => ((s.score core).reg r).toNat
  | _ => 0

/-- The condition of a hold still stands.  Events from outside the scheduled domain count from 12 cycles after them. -/
def State.holdStands (s : State) (p : Nat) (h : Hold) : Bool :=
  match h with
  | .queue core => !(s.fullQueues core).isEmpty
  | .sin core => decide ((s.cluster (clusterOf core)).sin.seen (s.polder p).cycle < s.waitCount core)
  | .sout core => decide ((s.cluster (clusterOf core)).sout.free (s.polder p).cycle < s.waitCount core)
  | .note core => !(s.cluster (clusterOf core)).noteRoom (s.polder p).cycle
  | .router cl => !(s.meshAskers (s.polder p).slot cl).isEmpty
  | _ => true

/-- HOLD_RELEASE: the holds whose condition has cleared end; CONTEXT_SAVE, the debugger and a floodgate end theirs
themselves. -/
def execHoldRelease (p : Nat) (s : State) : Result :=
  .next (if (s.polder p).state != .running then s
    else s.onPolder p fun x => { x with holds := x.holds.filter fun h => s.holdStands p h.1 })

end Sys2Proof.Machine
end

