-- ==== Sys2Proof/Machine/Smbus.lean ====
section
/-! DEFINITION. The board-management interface (R487-R489). -/

namespace Sys2Proof.Machine

/-- The module's 7-bit SMBus address (R483, R487). -/
def State.smbusAddress (s : State) : Nat := 0x40 + s.smbus.slotId

/-- The interface answers: the AON domain has supply, which a hardware trip takes away. -/
def State.smbusOn (s : State) : Bool := s.power.aon && s.power.trip.isNone

/-- A transaction: its effect and its answer, or no acknowledgement at all. -/
def State.smbusDo (s : State) (run : State → State) : State :=
  if s.smbusOn then run s else { s with reply := .nak }

/-- A read command. -/
def State.smbusRead (s : State) (l : State → List Byte) : State := s.smbusDo fun s => { s with reply := .data (l s) }

/-- The LINEAR11 exponent for num / den: the smallest with which the mantissa fits. -/
def linearExp (num den : Nat) : Int :=
  let fits (n : Int) : Bool := if n < 0 then decide (num * 2 ^ n.natAbs / den ≤ 1023) else decide (num / (den * 2 ^ n.natAbs) ≤ 1023)
  (((List.range 32).map fun i => (i : Int) - 16).find? fits).getD 15

/-- num / den in LINEAR11, the mantissa rounded towards zero (DESIGN CHOICE, log 28). -/
def linear11 (num : Int) (den : Nat) : Nat :=
  let n := linearExp num.natAbs den
  let y : Nat := if n < 0 then num.natAbs * 2 ^ n.natAbs / den else num.natAbs / (den * 2 ^ n.natAbs)
  tc 5 n * 2 ^ 11 + tc 11 (if num < 0 then -(y : Int) else y)

/-- A temperature in m°C; −128 °C where its source is not valid. -/
def linearTemp (v : Option Int) : List Byte := leBytes 2 (linear11 (v.getD (-128000)) 1000)
/-- A THERM_STATUS code in LINEAR11. -/
def linearCode (c : Nat) : List Byte := leBytes 2 (linear11 (sx 10 c * 250) 1000)

/-- CLEAR_FAULTS. -/
def execClearFaults (s : State) : Result :=
  .next (s.smbusDo fun s => { s with
    smbus := { s.smbus with vinUv := false, temperature := false, mfr := false, cml := false, shutLogged := false }
    reply := .done })

def execCapability (s : State) : Result := .next (s.smbusRead fun _ => [0xD0])

/-- OFF follows the state. -/
def State.isOff (s : State) : Bool := s.power.pkg == .p3 || s.thermal.coolantHold

/-- STATUS_WORD; the places of its bits are those of PMBus (PRESUMED, log 28). -/
def State.statusWord (s : State) : Nat :=
  b2n s.smbus.cml * 2 + b2n s.smbus.temperature * 4 + b2n s.smbus.vinUv * 8 + b2n s.isOff * 64 + b2n s.smbus.mfr * 2 ^ 12

def execStatusWord (s : State) : Result := .next (s.smbusRead fun s => leBytes 2 s.statusWord)

/-- SMB_ALERT_N is low. -/
def State.alert (s : State) : Bool := s.smbus.vinUv || s.smbus.temperature || s.smbus.mfr || s.smbus.cml

/-- THERMTRIP_N is low: from a trip until 48 V is removed (R379, R481). -/
def State.thermtripLow (s : State) : Bool := s.power.trip.isSome

/-- SYNC_OUT is driven: in the chain modes, while the module has supply (R481, R482). -/
def State.syncOutDriven (s : State) : Bool := s.power.aon && s.time.syncOut

/-- The answer to a read of the Alert Response Address: the address, above a bit that reads 0, while SMB_ALERT_N is low; CLEAR_FAULTS
alone ends the alert (R487, R489; PRESUMED for the byte's form, log 28). -/
def State.alertResponse (s : State) : Option Byte :=
  if s.smbusOn && s.alert then some (BitVec.ofNat 8 (2 * s.smbusAddress)) else none

def execStatusTemperature (s : State) : Result :=
  .next (s.smbusRead fun s =>
    leBytes 1 (b2n s.smbus.shutLogged * 128 + b2n (s.polders.any fun p => p.2.weirOn) * 64))

def execReadVin (s : State) : Result := .next (s.smbusRead fun s => leBytes 2 (linear11 s.power.vin 1000))
def execReadIin (s : State) : Result := .next (s.smbusRead fun s => leBytes 2 (linear11 s.power.iin 10))
def execReadTemperature1 (s : State) : Result := .next (s.smbusRead fun s => linearTemp (s.thermistor 1920))
def execReadTemperature2 (s : State) : Result := .next (s.smbusRead fun s => linearCode s.thermal.hotLogic)
def execReadTemperature3 (s : State) : Result := .next (s.smbusRead fun s => linearTemp (s.thermistor 1921))
def execReadPin (s : State) : Result :=
  .next (s.smbusRead fun s => leBytes 2 (linear11 (s.meter mModule).avg100 1))
def execPmbusRevision (s : State) : Result := .next (s.smbusRead fun _ => [0x44])

/-- A block read: its count first. -/
def block (l : List Byte) : List Byte := leBytes 1 l.length ++ l

def execMfrId (s : State) : Result := .next (s.smbusRead fun _ => block (asciiBytes "QSM"))
def execMfrModel (s : State) : Result := .next (s.smbusRead fun _ => block (asciiBytes "IBX-12"))

/-- MFR_WAKE (R392, R395). -/
def execMfrWake (s : State) : Result := .next (s.smbusDo fun s => { s.wakeUp with reply := .done })

def execMfrPkgState (s : State) : Result :=
  .next (s.smbusRead fun s => leBytes 2 (s.power.pkg.code + b2n s.thermal.coolantHold * 4 + b2n s.power.sagHold * 8
    + b2n s.boot.done * 16 + b2n s.boot.failed * 32))

def execMfrEnergy (s : State) : Result := .next (s.smbusRead fun s => block (leBytes 8 (s.energyUj mModule)))

/-- BOOT_STATUS (R415). -/
def State.bootStatus (s : State) : Nat :=
  b2n s.boot.done * 2 ^ 63 + b2n s.boot.failed * 2 ^ 62 + b2n s.boot.warm * 2 ^ 61 + s.boot.code * 2 ^ 48
    + s.boot.unit * 2 ^ 32 + s.boot.elapsedMs

def execMfrBootStatus (s : State) : Result := .next (s.smbusRead fun s => block (leBytes 8 s.bootStatus))
def execMfrEffCap (s : State) : Result := .next (s.smbusRead fun s => leBytes 2 (linear11 s.ledger.effCap 1))
def execMfrHotDram (s : State) : Result := .next (s.smbusRead fun s => linearCode s.thermal.hotDram)

/-- The commands by their codes (R488). -/
def smbusCommand (code : Nat) : Option (State → Result) :=
  match code with
  | 0x03 => some execClearFaults
  | 0x19 => some execCapability
  | 0x79 => some execStatusWord
  | 0x7D => some execStatusTemperature
  | 0x88 => some execReadVin
  | 0x89 => some execReadIin
  | 0x8D => some execReadTemperature1
  | 0x8E => some execReadTemperature2
  | 0x8F => some execReadTemperature3
  | 0x97 => some execReadPin
  | 0x98 => some execPmbusRevision
  | 0x99 => some execMfrId
  | 0x9A => some execMfrModel
  | 0xD0 => some execMfrWake
  | 0xD1 => some execMfrPkgState
  | 0xD2 => some execMfrEnergy
  | 0xD3 => some execMfrBootStatus
  | 0xD4 => some execMfrEffCap
  | 0xD5 => some execMfrHotDram
  | _ => none

/-- A transaction is not acknowledged, and sets CML. -/
def State.smbusBad (s : State) : State :=
  s.smbusDo fun s => { s with smbus := { s.smbus with cml := true }, reply := .nak }

/-- A transaction by its code alone, which is served where R488 lists it, or a malformed one: NAKed, CML. -/
def execSmbusBadTransaction (bad : SmbusBad) (s : State) : Result :=
  match bad with
  | .code c => match smbusCommand c with
    | some run => run s
    | none => .next s.smbusBad
  | .writeToRead | .byteCount | .pec => .next s.smbusBad

end Sys2Proof.Machine
end

