-- ==== Sys2Proof/Machine/Links.lean ====
section
/-! DEFINITION. Melieko links: training, retrains, received flits, remote requests and their answers, and LINK_CONFIG
(R429-R450). -/

namespace Sys2Proof.Machine

/-! ### Training (R430-R432, R439) -/

/-- The rate both sides may run at, the highest first; none where they share none.  The rates byte of IDENT is read as a
mask, bit 0 for 106.25 and bit 1 for 212.5 Gb/s (DESIGN CHOICE, log 22). -/
def State.commonRate (s : State) (n : Nat) (i : Ident) : Option Nat :=
  if s.rateHi n == 1 && bit i.rates 1 then some 1
  else if s.rateLo n == 0 && bit i.rates 0 then some 0 else none

/-- The lane sets of a width (R431). -/
def laneSets (w : Nat) : List Nat := if w == 4 then [15] else if w == 2 then [3, 12] else [1, 2, 4, 8]

/-- A mask holds a lane set of a width. -/
def hasLanes (lanes w : Nat) : Bool := (laneSets w).any fun m => lanes &&& m == m

/-- The widest width that a side's lanes allow it to offer. -/
def offerOf (lanes : Nat) : Nat := (([4, 2, 1].find? (hasLanes lanes))).getD 0

/-- The agreed width: the smaller offer, on a lane set that both sides passed; 0 where there is none (R431). -/
def agreedWidth (t : LinkTrial) : Nat :=
  let w := min (offerOf t.own) (offerOf t.theirs)
  if w != 0 && hasLanes (t.own &&& t.theirs) w then w else 0

/-- What this module says of itself in an IDENT flit; rates as in `commonRate`. -/
def State.ownIdent (s : State) (n : Nat) (t : LinkTrial) : Ident :=
  { fabricId := s.fabricId, slotId := s.smbus.slotId, linkNo := n, widths := offerOf t.own
    rates := b2n (s.rateLo n == 0) + 2 * b2n (s.rateHi n == 1) }

/-- The partner is this very module. -/
def State.isSelf (s : State) (i : Ident) : Bool := i.fabricId == s.fabricId && i.slotId == s.smbus.slotId

/-- The link is UP with what training found (R430 step 5), and the bundle changes with it. -/
def State.linkUp (s : State) (n : Nat) (t : LinkTrial) (rate cause : Nat) : State :=
  let s := s.onLink n fun l => { l with
    state := .up, rate := rate, width := agreedWidth t, latency := t.latency % 2 ^ 16, peerFabric := t.ident.fabricId
    peerSlot := t.ident.slotId % 16, peerLink := t.ident.linkNo % 256, sent := l.sent ++ [.ctrl l.lastSeq (identFlit (s.ownIdent n t))] }
  ((if s.ratePinned n && s.rateHi n == 0 then s.freezeLink n else s).settle n).linkEvent n cause |>.pumpLink n

/-- A side has no lane that passed step 3, so that no IDENT is exchanged (R430). -/
def noLanes (t : LinkTrial) : Bool := offerOf t.own == 0 || offerOf t.theirs == 0

/-- DETECT finds its partner and trains to UP; without a common lane set or rate, or with itself as partner, the link is
DOWN, and while a side has no lane in lock it stands in TRAIN (R430, R431, R439). -/
def execLinkDetect (n : Nat) (t : LinkTrial) (s : State) : Result :=
  let x := (s.link n).state
  if (x != .detect && x != .train) || !s.groupOn (n / 8) || !t.partner then .next s
  else if noLanes t then .next (s.onLink n fun l => { l with state := .train })
  else if agreedWidth t == 0 || s.isSelf t.ident then .next (s.linkOff n .down 0)
  else match s.commonRate n t.ident with
    | none => .next (s.linkOff n .down 0)
    | some r => .next (s.linkUp n t r 0)

/-- 50 ms without UP (R430): the link is DOWN. -/
def execLinkTrainingTimeout (n : Nat) (s : State) : Result :=
  let x := (s.link n).state
  if x == .detect || x == .train || x == .retrain then .next (s.linkOff n .down 1) else .next s

/-- No partner within 100 ms of DETECT. -/
def execNoPartnerTimeout (n : Nat) (s : State) : Result :=
  if (s.link n).state == .detect then .next (s.onLink n fun l => { l with state := .noPartner }) else .next s

/-- A DOWN or NOPARTNER link looks for a partner again after 1 s. -/
def execLinkRetry (n : Nat) (s : State) : Result :=
  let x := (s.link n).state
  if (x == .down || x == .noPartner) && s.groupOn (n / 8) then .next (s.onLink n fun l => { l with state := .detect, sent := [] })
  else .next s

/-- UP is left for RETRAIN: the link-layer state is kept (R437, R448), and the errors that the triggers count start anew (DESIGN
CHOICE, log 22). -/
def State.leaveUp (s : State) (n cause : Nat) : State :=
  if (s.link n).state != .up then s
  else
    let s := (s.settle n).onLink n fun l => { l with state := .retrain, width := 0, retrains := satAdd 16 l.retrains 1, badAt := [], fixedAt := [] }
    s.linkEvent n cause

/-- The rate a retrain aims at: the highest that the LINK_RATE bounds allow (R430). -/
def State.retrainTarget (s : State) (n : Nat) : Nat := s.rateHi n

/-- The outcome of a retrain at a target rate: UP at it, UP at the low rate, or DOWN; while a side has no lane in lock the
link stands in RETRAIN (R430, R432). -/
def State.retrained (s : State) (n target cause : Nat) (t : LinkTrial) : State :=
  if noLanes t then s
  else if agreedWidth t == 0 || s.isSelf t.ident then s.linkOff n .down cause
  else if target == 1 && bit t.ident.rates 1 && t.tooNoisy then
    if s.rateLo n != 0 then (s.freezeLink n).linkOff n .down 3
    else if bit t.ident.rates 0 then s.linkUp n t 0 3 else s.linkOff n .down 3
  else if target == 1 && bit t.ident.rates 1 then s.linkUp n t 1 cause
  else if s.rateLo n == 0 && bit t.ident.rates 0 then s.linkUp n t 0 cause
  else s.linkOff n .down cause

/-- A lane of an UP link has lost lock, cause 1, or its partner starts a retrain, cause 2; or a retrain that errors, a new identity
or these began goes on (R432, R439): to UP or DOWN once the partner answers. -/
def execLinkRetrain (n cause : Nat) (t : LinkTrial) (s : State) : Result :=
  let l := s.link n
  if !(l.state == .up && (cause == 1 || cause == 2)) && l.state != .retrain then .next s
  else
    let s := s.leaveUp n cause
    if !t.partner then .next s else .next (s.retrained n (s.retrainTarget n) cause t)

/-- After 600 s at 106.25 Gb/s without a retrain the link retrains once at 212.5 Gb/s (R432). -/
def execLinkRateReturn (n : Nat) (t : LinkTrial) (s : State) : Result :=
  let l := s.link n
  if l.state != .up || l.rate != 0 || s.rateHi n == 0 then .next s
  else
    let s := (s.leaveUp n 4).onLink n fun l => { l with rate := 1 }
    if !t.partner then .next s else .next (s.retrained n 1 4 t)

/-! ### Received flits (R435-R439) -/

/-- The error pattern of a codeword whose symbols travelled on the link's lanes (R433). -/
def Link.pattern (l : Link) (errs : List LaneErr) : Errs :=
  (errs.filter fun x => decide (x.lane < l.width) && decide (laneSymbol l.width x.lane x.place < 544)).foldl
    (fun e x => e.add (laneSymbol l.width x.lane x.place) x.flip.toNat) []

/-- Symbols that an UP link receives in 100 ms: a codeword of 544 every 6.4 ns at full width and rate (R431, R433). -/
def Link.symbols (l : Link) : Nat := 544 * (15625000 * l.width / (if l.rate == 1 then 4 else 8))

/-- Errors older than the windows of 1 ms and 100 ms are forgotten (R432). -/
def Link.recent (l : Link) (now : Nat) : Link :=
  { l with
    badAt := l.badAt.filter fun t => decide (now < t + 100000)
    fixedAt := l.fixedAt.filter fun x => decide (now < x.1 + 10000000) }

/-- An uncorrectable codeword counts, and stands among those of the last 1 ms. -/
def Link.noteBad (l : Link) (now : Nat) : Link :=
  let l := l.recent now
  { l with uncorrectable := satAdd 32 l.uncorrectable 1, badAt := l.badAt ++ [now] }

/-- Corrected symbols count, and stand among those of the last 100 ms. -/
def Link.noteFixed (l : Link) (now k : Nat) : Link :=
  let l := l.recent now
  if k == 0 then l else { l with corrected := l.corrected + k, fixedAt := l.fixedAt ++ [(now, k)] }

/-- More than 16 uncorrectable codewords in 1 ms, or corrected symbols above 10^-5 of those received in 100 ms (R432; a link UP
for less is held to the same count: DESIGN CHOICE, log 22). -/
def Link.noisy (l : Link) : Bool := decide (16 < l.badAt.length) || decide (l.symbols < 100000 * sumOf (l.fixedAt.map Prod.snd))

/-- An UP link with too many errors retrains (R432). -/
def State.watchErrors (s : State) (n : Nat) : State := if (s.link n).noisy then s.leaveUp n 1 else s

/-- A codeword reaches an UP link: one that the decoder cannot correct is dropped whole and counted; else its corrected
symbols count and the flit goes on to `take`, with whether it is the flit that was sent: one that the decoder took for
another fails its checks (R433, R447; DESIGN CHOICE, log 22).  Too many errors start a retrain (R432). -/
def State.codeword (s : State) (n : Nat) (errs : List LaneErr) (take : State → Bool → State) : State :=
  let l := s.link n
  if l.state != .up then s
  else
    let e := l.pattern errs
    match linkDecode e with
    | none => (s.onLink n fun l => l.noteBad s.time.dev).watchErrors n
    | some t => (take (s.onLink n fun l => l.noteFixed s.time.dev t.length) (Errs.after e t).isEmpty).watchErrors n

/-- Bytes 60-63 are the CRC of the flit (R434). -/
def crcGood (l : List Byte) : Bool := fieldAt l 60 4 == crc32c (l.take 60 ++ zeros 4 ++ l.drop 64)

/-- A CTRL flit of a kind that passes its checks (R434, R435). -/
def ctrlGood (code : Nat) (l : List Byte) : Bool := crcGood l && fieldAt l 0 1 == code

/-- The bytes of the data that a packet brings: LEN units for WR_REQ and RD_RSP. -/
def dataNeed (p : Packet) : Nat := if p.type == 2 || p.type == 3 then 64 * p.len else 0

/-- The three headers of a DATA flit; one of TYPE 0 is unused. -/
def headers (l : List Byte) : List Packet :=
  (((List.range 3).map fun i => (l.drop (20 * i)).take 20).filter fun h => fieldAt h 0 1 != 0).map fun h =>
    ⟨fieldAt h 0 1, fieldAt h 1 1, fieldAt h 2 1, fieldAt h 4 2, fieldAt h 8 8, []⟩

/-- A used header holds a reserved TYPE or a reserved field that is not 0 (R435). -/
def headerBad (h : List Byte) : Bool :=
  fieldAt h 0 1 != 0 && (decide (5 < fieldAt h 0 1) || fieldAt h 3 1 != 0 || fieldAt h 6 2 != 0 || fieldAt h 16 4 != 0)

/-- Data slots that packets still need. -/
def slotsNeeded (ps : List Packet) : Nat := sumOf (ps.map fun p => (dataNeed p - p.data.length) / 64)

/-- A header overruns the packet stream (R435): it stands in a flit whose slots all continue earlier packets, or its data
would start past the flit's last slot (DEDUCED, log 22). -/
def overruns (before : List Packet) : List Packet → Bool
  | [] => false
  | p :: r => (dataNeed p != 0 && decide (9 ≤ slotsNeeded before)) || overruns (before ++ [p]) r

/-- One data slot goes to the first packet that still needs data. -/
def addSlot (slot : List Byte) : List Packet → List Packet
  | [] => []
  | p :: r => if p.data.length < dataNeed p then { p with data := p.data ++ slot } :: r else p :: addSlot slot r

/-- A DATA flit passes its checks after the packets still arriving (R435). -/
def dataGood (arriving : List Packet) (l : List Byte) : Bool :=
  crcGood l && (List.range 3).all (fun i => !headerBad ((l.drop (20 * i)).take 20))
    && !(headers l != [] && decide (9 ≤ slotsNeeded arriving)) && !overruns arriving (headers l)

/-- The packets of the stream after a flit's headers and slots. -/
def streamed (arriving : List Packet) (l : List Byte) : List Packet :=
  (chunks 64 (l.drop 64)).foldl (fun ps x => addSlot x ps) (arriving ++ headers l)

/-- All the data of a packet has arrived. -/
def whole (p : Packet) : Bool := decide (dataNeed p ≤ p.data.length)

/-- An ACK covers every unacknowledged flit up to its SEQ. -/
def Link.acked (l : Link) (seq : Byte) : Link :=
  match l.replay.findIdx? fun f => f.1 == seq with
  | some i => { l with replay := l.replay.drop (i + 1) }
  | none => l

/-- A discarded DATA flit: counted as a replay, and NAK unless one for the same SEQ went out within 2 µs (R435, R436). -/
def State.discardFlit (s : State) (n : Nat) : State :=
  s.onLink n fun l =>
    let quiet := match l.nakAt with
      | some (t, q) => q == l.lastSeq && decide (s.time.dev - t < 200)
      | none => false
    let l := { l with replays := satAdd 32 l.replays 1, discarding := true }
    if quiet then l else { l with nakAt := some (s.time.dev, l.lastSeq), sent := l.sent ++ [.ctrl l.lastSeq (nakFlit l.lastSeq)] }

/-- A flit that reaches an UP link intact, its reserved control bits 0 and its own checks passed, frees what its ACK covers
and is taken; else it is turned away (R434, R435). -/
def State.flitIn (s : State) (n : Nat) (flit : Flit) (errs : List LaneErr) (good : Bool) (bad take : State → State) : State :=
  s.codeword n errs fun s sound =>
    if sound && flit.spare == 0 && good then (take (s.onLink n fun l => l.acked flit.ack)).pumpLink n else bad s

/-- The inbound table's entry of a peer admits a range. -/
def State.admitsInbound (s : State) (fabric : Word) (slot a n : Nat) : Bool :=
  s.inbound.any fun e => e.2.used && e.2.enabled && e.2.fabric == fabric && e.2.slot == slot && decide (e.2.lo ≤ a)
    && decide (a + n ≤ e.2.hi) && decide (a + n ≤ 0x060000000000)

/-- What a request is answered with before it reaches memory: the inbound table refuses it, or its length is 0 (R8,
R442). -/
def State.inboundCheck (s : State) (n : Nat) (p : Packet) : Option Status :=
  let l := s.link n
  firstFail [
    (!s.admitsInbound l.peerFabric l.peerSlot p.addr (64 * p.len), .denied),
    (p.len == 0, .badLength), (decide (64 < p.len), .bound)]

/-- Whole packets are delivered: a request with what the inbound table says of it now (R438, R446). -/
def State.deliver (s : State) (n : Nat) (ps : List Packet) : State :=
  let asked := (ps.filter pktReq).map fun p => (⟨p, s.inboundCheck n p⟩ : Asked)
  s.onLink n fun l => { l with received := l.received ++ asked, answers := l.answers ++ ps.filter fun p => !pktReq p }

/-- A link that has taken a DATA flit and sent nothing since then acknowledges it in an IDLE flit (R434; DESIGN CHOICE, log 22:
IDLE flits that tell nothing new are not recorded). -/
def State.idleAck (s : State) (n : Nat) (before : Link) : State :=
  let l := s.link n
  if l.state == .up && l.lastSeq != before.lastSeq && l.sent.length == before.sent.length then
    s.onLink n fun l => { l with sent := l.sent ++ [.idle l.lastSeq] }
  else s

/-- A DATA flit (R435, R436): delivered in SEQ order and once, or discarded. -/
def execDataFlit (n : Nat) (flit : Flit) (s : State) (errs : List LaneErr := []) : Result :=
  .next ((s.flitIn n flit errs (dataGood (s.link n).arriving flit.bytes) (State.discardFlit · n) fun s =>
    if flit.seq != (s.link n).lastSeq + 1 then s.discardFlit n
    else
      let ps := streamed (s.link n).arriving flit.bytes
      (s.onLink n fun l => { l with lastSeq := flit.seq, discarding := false, arriving := ps.dropWhile whole }).deliver n
        (ps.takeWhile whole)).idleAck n (s.link n))

/-- An IDLE flit carries an ACK (R434); one that fails its checks is dropped. -/
def execIdleFlit (n : Nat) (flit : Flit) (errs : List LaneErr) (s : State) : Result :=
  .next (s.flitIn n flit errs true id id)

/-- Resending unacknowledged flits, in order. -/
def Link.resend (l : Link) (fs : List (Byte × List Byte)) : Link :=
  { l with sent := l.sent ++ fs.map fun f => .data f.1 l.lastSeq f.2 }

/-- NAK (R436): every unacknowledged flit from the one after the named SEQ is sent again. -/
def execNak (n : Nat) (flit : Flit) (s : State) (errs : List LaneErr := []) : Result :=
  .next (s.flitIn n flit errs (ctrlGood 1 flit.bytes) id fun s => s.onLink n fun l =>
    l.resend (match l.replay.findIdx? fun f => f.1.toNat == fieldAt flit.bytes 1 1 with
      | some i => l.replay.drop (i + 1)
      | none => l.replay))

/-- 4 µs without an ACK advancing (R436). -/
def execReplayTimer (n : Nat) (s : State) : Result :=
  if (s.link n).state != .up then .next s else .next (s.onLink n fun l => l.resend l.replay)

/-- CREDIT (R434, R438): cumulative credits modulo 65,536. -/
def execCredit (n : Nat) (flit : Flit) (errs : List LaneErr) (s : State) : Result :=
  .next (s.flitIn n flit errs (ctrlGood 3 flit.bytes) id fun s => s.onLink n fun l =>
    { l with reqLimit := fieldAt flit.bytes 4 2, rspLimit := fieldAt flit.bytes 6 2 })

/-- Credits owed are returned in a CREDIT flit (R438). -/
def execCreditReturn (n : Nat) (s : State) : Result :=
  let l := s.link n
  if l.state != .up || (l.reqOwed == 0 && l.rspOwed == 0) then .next s
  else .next (s.onLink n fun l =>
    let q := (l.reqGranted + l.reqOwed) % 65536
    let r := (l.rspGranted + l.rspOwed) % 65536
    { l with reqGranted := q, rspGranted := r, reqOwed := 0, rspOwed := 0, sent := l.sent ++ [.ctrl l.lastSeq (creditFlit q r)] })

/-- What an IDENT flit says. -/
def identOf (l : List Byte) : Ident :=
  ⟨BitVec.ofNat 32 (fieldAt l 4 4), fieldAt l 8 1, fieldAt l 9 1, fieldAt l 10 1, fieldAt l 11 1⟩

/-- IDENT (R439): the partner's identity; a link to this very module becomes DOWN. -/
def execIdent (n : Nat) (flit : Flit) (s : State) (errs : List LaneErr := []) : Result :=
  let i := identOf flit.bytes
  .next (s.flitIn n flit errs (ctrlGood 2 flit.bytes) id fun s =>
    if s.isSelf i then s.linkOff n .down 2
    else
      let s := s.settle n
      (s.onLink n fun l => { l with
        peerFabric := i.fabricId, peerSlot := i.slotId % 16, peerLink := i.linkNo % 256 }).settle n)

/-! ### Requests from a partner (R442) -/

/-- The oldest packet of its channel has left the receive buffer: its credits are owed to the partner. -/
def Link.consumed (l : Link) (p : Packet) : Link :=
  if pktReq p then { l with received := l.received.drop 1, reqOwed := l.reqOwed + pktUnits p }
  else { l with answers := l.answers.drop 1, rspOwed := l.rspOwed + pktUnits p }

/-- Serving the request at the front of a link's receive buffer: what a retrain holds is answered when the hold ends, in
its arrival order; where the hold queue is full the request stays in the buffer (R212, R442). -/
def State.serveRequest (s : State) (n type : Nat) : State :=
  let l := s.link n
  match l.received with
  | [] => s
  | q :: _ =>
    let p := q.packet
    if p.type != type || l.state != .up then s
    else
      let who : Requester := .link n p.tag
      let parts := partsOf p.addr (if type == 1 then .read (64 * p.len) else .write p.data)
      match q.refused with
      | some st => (s.onLink n fun l => l.consumed p).respond n p.tag (type == 2) p.len p.addr (st, [])
      | none =>
        if parts.any fun q => s.noRoom q.1 (accLen q.2) then s
        else
          let r := ((s.onLink n fun l => l.consumed p).linkCount n 31 (pktUnits p)).gather who (type == 2) p.len
            (parts.map fun q => (some q.1, q.2)) []
          match r.2 with
          | some x => r.1.respond n p.tag (type == 2) p.len p.addr x
          | none => r.1

def execRdReq (n : Nat) (s : State) : Result := .next (s.serveRequest n 1)
def execWrReq (n : Nat) (s : State) : Result := .next (s.serveRequest n 2)

/-! ### Responses (R441, R442) -/

/-- The response at the front of a link's receive buffer reaches the channel that asked. -/
def State.takeResponse (s : State) (n type : Nat) : State :=
  let l := s.link n
  match l.answers with
  | [] => s
  | p :: _ =>
    if p.type != type || l.state != .up then s
    else
      let s := s.onLink n fun l => l.consumed p
      match l.outstanding.find? fun o => o.tag == p.tag with
      | none => s
      | some o =>
        let s := s.onLink n fun l => { l with outstanding := l.outstanding.filter fun o => o.tag != p.tag }
        let acc : Access := if o.write then .write (zeros (64 * o.len)) else .read (64 * o.len)
        let g : Got := if type == 5 then { status := if p.status == 0 then .hwError else Status.ofCode p.status }
          else if (type == 3) == o.write then { status := .hwError }
          else if o.write then {}
          -- LEN is the count of units asked for: fewer are too short, more lie beyond the requester's buffer (R8; log 23)
          else if o.len < p.len || 64 < p.len then { status := .bound }
          else if p.len < o.len then { status := .badLength }
          else { data := p.data }
        (s.linkCount n (s.chan o.ch).polder (pktUnits p)).answered o.ch o.life o.addr acc g

def execRdRsp (n : Nat) (s : State) : Result := .next (s.takeResponse n 3)
def execWrAck (n : Nat) (s : State) : Result := .next (s.takeResponse n 4)
def execNakRsp (n : Nat) (s : State) : Result := .next (s.takeResponse n 5)

/-! ### LINK_CONFIG and LINK_STATUS (R446, R447) -/

/-- Sub-operation of a LINK_CONFIG or DIAG. -/
def sub (a1 : Nat) : Nat := bits a1 0 8

/-- The window and inbound tables, 8 and 16 records of 32 B; the layout of a record is a DESIGN CHOICE (log 23). -/
def State.linkTables (s : State) : List Byte :=
  ((List.range 8).flatMap fun k =>
    let w := s.window k
    leBytes 4 (b2n w.enabled) ++ leBytes 4 w.fabric.toNat ++ leBytes 8 w.slot ++ leBytes 8 w.base ++ zeros 8)
  ++ (List.range 16).flatMap fun k =>
    let e : Inbound := Sparse.get {} s.inbound k
    leBytes 4 (b2n e.enabled) ++ leBytes 4 e.fabric.toNat ++ leBytes 8 e.slot ++ leBytes 8 e.lo ++ leBytes 8 e.hi

/-- A LINK_CONFIG whose sub-operation a row serves. -/
def State.linkConfig (s : State) (f k : Nat) (run : State → Cmd → Except Status State) : State :=
  s.serve_ f (fun o a1 => o == 0x50 && sub a1 == k) fun s c =>
    if !c.fits (32 * 24) then s.refuse c .bound
    else match run s c with
      | .error st => s.refuse c st
      | .ok s' =>
        let w := s'.writeOut c.func c.out s'.linkTables
        if w.2 == .ok then w.1.answer c { outBytes := if c.out == 0 then 0 else 768 } else s.refuse c w.2

/-- First and count of ENABLE and DISABLE. -/
def linkRange (c : Cmd) : Option Status :=
  firstFail [(c.a 3 == 0, .badLength), (decide (96 < c.a 3) || decide (96 < c.a 2 + c.a 3), .bound)]

/-- ENABLE: links that are DISABLED, DOWN or NOPARTNER start DETECT; the others train or carry flits already (R446). -/
def execLinkEnable (f : Nat) (s : State) : Result :=
  .next (s.linkConfig f 1 fun s c =>
    match linkRange c with
    | some st => .error st
    | none =>
      if s.power.pkg == .p2 then .error .domainOff
      else .ok (s.each ((List.range (c.a 3)).map (c.a 2 + ·)) fun s n =>
        let x := (s.link n).state
        if x == .disabled || x == .down || x == .noPartner then s.onLink n fun l => { l with state := .detect, sent := [] }
        else s))

def execLinkDisable (f : Nat) (s : State) : Result :=
  .next (s.linkConfig f 2 fun s c =>
    match linkRange c with
    | some st => .error st
    | none => .ok (s.each ((List.range (c.a 3)).map (c.a 2 + ·)) fun s n => s.linkOff n .disabled 0))

/-- IDENTITY: every UP link retrains so that IDENT is repeated. -/
def execLinkIdentity (f : Nat) (s : State) : Result :=
  .next (s.linkConfig f 3 fun s c =>
    .ok ({ s with fabricId := BitVec.ofNat 32 (c.a 2) }.each (List.range 96) fun s n => s.leaveUp n 0))

def execLinkWindow (f : Nat) (s : State) : Result :=
  .next (s.linkConfig f 4 fun s c =>
    match firstFail [
        (c.a64 5 % 2 ^ 37 != 0, .align),
        (decide (7 < c.a 2) || decide (0x060000000000 < c.a64 5 + 2 ^ 37), .bound)] with
    | some st => .error st
    | none =>
      let w : Window := ⟨bit (c.a 4) 8, BitVec.ofNat 32 (c.a 3), bits (c.a 4) 0 4, c.a64 5⟩
      .ok { s with windows := Sparse.set {} s.windows (c.a 2) w })

def execLinkInbound (f : Nat) (s : State) : Result :=
  .next (s.linkConfig f 5 fun s c =>
    let fabric := BitVec.ofNat 32 (c.a 2)
    let slot := bits (c.a 3) 0 4
    let own := (List.range 16).find? fun k =>
      let e : Inbound := Sparse.get {} s.inbound k
      e.used && e.fabric == fabric && e.slot == slot
    let free := (List.range 16).find? fun k => !(Sparse.get {} s.inbound k : Inbound).used
    let place := match own with
      | some k => some k
      | none => free
    if c.a64 4 % 4096 != 0 || c.a64 6 % 4096 != 0 then .error .align
    else match place with
      | none => .error .bound
      | some k => .ok { s with inbound := Sparse.set {} s.inbound k ⟨true, bit (c.a 3) 8, fabric, slot, c.a64 4, c.a64 6⟩ })

/-- The 32 B record of a link (R447). -/
def State.linkRecord (s : State) (n : Nat) : List Byte :=
  let l := s.link n
  leBytes 1 (linkStateCode l.state) ++ leBytes 1 l.rate ++ leBytes 1 (if l.state == .up then l.width else 0)
    ++ leBytes 1 (b2n (s.ratePinned n) + b2n l.frozen * 2) ++ leBytes 4 l.peerFabric.toNat ++ leBytes 1 l.peerSlot
    ++ leBytes 1 l.peerLink ++ leBytes 2 l.retrains ++ leBytes 4 l.replays ++ leBytes 8 l.corrected
    ++ leBytes 4 l.uncorrectable ++ leBytes 2 l.latency ++ zeros 2

def execLinkStatus (f : Nat) (s : State) : Result :=
  .next (s.command f 0x51 fun s c =>
    if c.a 2 == 0 then s.refuse c .badLength
    else if 96 < c.a 2 || 96 < c.a 1 + c.a 2 then s.refuse c .bound
    else s.output c ((List.range (c.a 2)).flatMap fun i => s.linkRecord (c.a 1 + i)) {})

end Sys2Proof.Machine
end

