-- ==== Sys2Proof/Machine/Time.lean ====
section
/-! DEFINITION. The alignment of the device timestamp across modules (R449, R467-R470, R482). -/

namespace Sys2Proof.Machine

/-- An offset up to 10,000 ticks is slewed, a larger one stepped; either way the timestamp is aligned (R449, R469, R470), and
UNSYNCED clears where it counts from REFCLK (R467, R468). -/
def Time.align (t : Time) (offset : Int) (mayStep counts : Bool) : Time :=
  let t := { t with peerLost := false, unsynced := t.unsynced && !counts }
  if mayStep && decide (10000 < offset.natAbs) then { t with dev := ((t.dev : Int) + offset).toNat, slew := 0, stepped := true }
  else { t with slew := offset }

/-- The timestamp counts from REFCLK: it is there, and the package is not in P3 (R467, R468). -/
def State.countsRefclk (s : State) : Bool := s.time.refclk && s.power.pkg != .p3

/-- The copy of the timestamp that a compute die (0-11) or base die (12-15) holds: the AON's while it is loaded (R467; DESIGN
CHOICE, log 28: no two copies differ). -/
def State.dieTime (s : State) (d : Nat) : Option Nat := if Sparse.get false s.time.copies d then some s.time.dev else none

/-- Alignment is lost: REFCLK alone counts. -/
def Time.lose (t : Time) : Time := { t with slew := 0, unsynced := true }

/-- The mode of a TIME_CTL code. -/
def TimeMode.ofCode (v : Nat) : TimeMode :=
  match v with
  | 1 => .chainRoot
  | 2 => .chainFollow
  | 3 => .linkFollow
  | _ => .free

def TimeMode.code (m : TimeMode) : Nat :=
  match m with
  | .free => 0
  | .chainRoot => 1
  | .chainFollow => 2
  | .linkFollow => 3

/-- Entering a mode: SYNC_OUT is driven in the chain modes only (R481); a root marks the next multiple of 100,000 (R469). -/
def Time.enter (t : Time) (m : TimeMode) : Time :=
  { t with mode := m, syncOut := m == .chainRoot || m == .chainFollow, syncNext := alignUp t.dev 100000, peerLost := false }

/-- TIME_CTL. -/
def Time.ctl (t : Time) : Nat :=
  t.hopDelay * 2 ^ 8 + b2n t.stepped * 2 ^ 4 + b2n t.unsynced * 2 ^ 3 + b2n t.loadArm * 2 ^ 2 + t.mode.code

/-- A write of TIME_CTL: the mode is entered where it is another (R470, R482). -/
def State.writeTimeCtl (s : State) (v : Nat) : State :=
  let m := TimeMode.ofCode (bits v 0 2)
  let t := if s.time.mode == m then s.time else s.time.enter m
  { s with time := { t with
    hopDelay := bits v 8 8, stepped := t.stepped && !bit v 4, loadArm := t.loadArm || bit v 2 } }

/-- MODE: a write of TIME_CTL (R470). -/
def execMode (value : Word) (s : State) : Result := .next (s.writeTimeCtl value.toNat)

/-- LOAD_ARM: a write of TIME_CTL (R469). -/
def execLoadArm (value : Word) (s : State) : Result := .next (s.writeTimeCtl value.toNat)

/-- LINK_CONFIG TIMESYNC: LINK_FOLLOW of the named peer, or its end (R446, R449, R470). -/
def execLinkTimesyncConfig (f : Nat) (s : State) : Result :=
  .next (s.linkConfig f 6 fun s c =>
    if bit (c.a 2) 0 then
      .ok { s with time := { s.time.enter .linkFollow with
        followFabric := BitVec.ofNat 32 (c.a 3), followSlot := bits (c.a 4) 0 4 } }
    else if s.time.mode == .linkFollow then .ok { s with time := s.time.enter .free }
    else .ok s)

/-- TIMESYNC: the message goes out on the lowest-numbered UP link of the peer's bundle. -/
def execTimesync (s : State) : Result :=
  if s.time.mode != .linkFollow then .next s
  else match s.bundle s.time.followFabric s.time.followSlot with
    | [] => .next s
    | n :: _ => .next (s.onLink n fun l => { l with sent := l.sent ++ [.ctrl l.lastSeq (timesyncFlit [s.time.dev])] })

/-- A link of the followed peer's bundle. -/
def State.fromFollowed (s : State) (n : Nat) : Bool :=
  (s.link n).peerFabric == s.time.followFabric && (s.link n).peerSlot == s.time.followSlot

/-- TIMESYNC_ANSWER of the followed peer: T4 is the timestamp as it arrives; half the difference is rounded towards zero (DESIGN
CHOICE, log 28).  A large offset is stepped after a loss of the peer only, and slewed else (R449). -/
def execTimesyncAnswer (n : Nat) (flit : Flit) (errs : List LaneErr) (s : State) : Result :=
  .next (s.flitIn n flit errs (ctrlGood 4 flit.bytes) id fun s =>
    if s.time.mode != .linkFollow || !s.fromFollowed n then s
    else
      let a : Int := (fieldAt flit.bytes 16 8 : Int) - fieldAt flit.bytes 8 8
      let b : Int := (s.time.dev : Int) - fieldAt flit.bytes 24 8
      { s with time := s.time.align ((a - b).tdiv 2) s.time.peerLost s.countsRefclk })

/-- TIMESYNC_LOSS: no answer for 3 ms, or no UP link. -/
def execTimesyncLoss (s : State) : Result :=
  if s.time.mode != .linkFollow then .next s else .next { s with time := { s.time.lose with peerLost := true } }

/-- TIMESYNC_RECEIVE: the answer with T1, and T2 and T3 as this module counts them. -/
def execTimesyncReceive (n : Nat) (flit : Flit) (s : State) (errs : List LaneErr := []) : Result :=
  .next (s.flitIn n flit errs (ctrlGood 4 flit.bytes) id fun s => s.onLink n fun l =>
    { l with sent := l.sent ++ [.ctrl l.lastSeq (timesyncFlit [fieldAt flit.bytes 8 8, s.time.dev, s.time.dev])] })

/-- SYNC_IN: an edge in CHAIN_FOLLOW; the pin works in every package state, since TIME_CTL lies in the AON domain (R391, R481). -/
def execSyncIn (s : State) : Result :=
  let t := s.time
  if t.mode != .chainFollow || !s.power.aon then .next s
  else
    let target := if t.loadArm then t.load else (t.dev + 50000) / 100000 * 100000 + t.hopDelay
    let u := t.align ((target : Int) - t.dev) true s.countsRefclk
    .next { s with time := { u with loadArm := false, syncOut := true, syncEdges := t.syncEdges + 1 } }

/-- SYNC_OUT_PULSE: in CHAIN_ROOT, once the timestamp has reached the next multiple of 100,000 ticks. -/
def execSyncOutPulse (s : State) : Result :=
  let t := s.time
  if t.mode != .chainRoot || decide (t.dev < t.syncNext) then .next s
  else .next { s with time := { t with syncEdges := t.syncEdges + 1, syncNext := (t.dev / 100000 + 1) * 100000 } }

/-- SYNC_IN_LOSS: no edge for 3 ms (R482). -/
def execSyncInLoss (s : State) : Result :=
  if s.time.mode != .chainFollow then .next s else .next { s with time := { s.time.lose with syncOut := false } }

/-- REFCLK_LOSS and REFCLK_RETURN (R468). -/
def execRefclkLoss (s : State) : Result := .next { s with time := { s.time.lose with refclk := false } }
def execRefclkReturn (s : State) : Result := .next { s with time := { s.time with refclk := true } }

end Sys2Proof.Machine
end

