-- ==== Sys2Proof/Machine/Host.lean ====
section
/-! DEFINITION. The PCI Express side: registers, BAR4, configuration, MSI-X delivery, function-level resets and the link
(R9-R12, R276, R294-R305, R490-R494). -/

namespace Sys2Proof.Machine

/-! ### BAR4 (R299-R301) -/

/-- Bytes of an aperture. -/
def State.aperBytes (s : State) : Nat := 2 ^ s.pcie.bar4Log2 / 4

/-- A write of BAR4_WIN[i]: BASE is [47:30]. -/
def State.writeBar4Win (s : State) (i v : Nat) : State :=
  let base := bits v 30 18 * 2 ^ 30
  if base % s.aperBytes != 0 || decide (0x070000000000 < base + s.aperBytes) then
    s.accessError 0 kRefused false (0x200 + 8 * i)
  else { s with bar4Win := s.bar4Win.set i base, bar4Off := Sparse.set false s.bar4Off i false }

/-- BAR4_WIN. -/
def execBar4Win (i : Nat) (value : U64) (s : State) : Result :=
  .next (if i < 4 then s.writeBar4Win i value.toNat else s)

/-- The device address of a BAR4 offset; none where a resize has disabled its aperture (R300). -/
def State.bar4Addr (s : State) (o : Nat) : Option Nat :=
  let i := o / s.aperBytes
  if Sparse.get false s.bar4Off i then none else some (nth 0 s.bar4Win i + o % s.aperBytes)

/-- BAR4 takes a size: every base stays, and one it leaves misaligned disables its aperture (R300). -/
def State.resizeBar4 (s : State) (n : Nat) : State :=
  let s := { s with pcie := { s.pcie with bar4Log2 := n } }
  s.each (List.range 4) fun s i =>
    if nth 0 s.bar4Win i % s.aperBytes != 0 then { s with bar4Off := Sparse.set false s.bar4Off i true } else s

/-- The part of a BAR4 request in its first aperture, and the rest. -/
def State.bar4Room (s : State) (o : Nat) : Nat := s.aperBytes - o % s.aperBytes

/-- The parts of a read inside one aperture; a disabled one has no address. -/
def State.bar4Parts (s : State) (o n : Nat) : List (Option Nat × Access) :=
  match s.bar4Addr o with
  | none => [(none, .read n)]
  | some a => (partsOf a (.read n)).map fun p => (some p.1, p.2)

/-- A request to BAR4 is one the PF answers: Memory Space Enable is set, and it lies in the BAR. -/
def State.bar4Open (s : State) (o : Nat) : Bool := (s.func 0).mse && decide (o < 2 ^ s.pcie.bar4Log2)

/-- BAR4_READ. -/
def execBar4Read (offset len : Nat) (s : State) : Result :=
  if !s.bar4Open offset then .next { s with reply := .unsupportedRequest }
  else
    let k := s.bar4Room offset
    .next (s.hostReadParts (if len ≤ k then s.bar4Parts offset len
      else s.bar4Parts offset k ++ s.bar4Parts (offset + k) (len - k)) [])

/-- A write inside one aperture. -/
def State.bar4WriteOne (s : State) (o : Nat) (l : List Byte) : State :=
  match s.bar4Addr o with
  | none => { s.accessError 0 kBar4 false o with reply := .done }
  | some a => s.hostDevWrite o a l []

/-- BAR4_WRITE. -/
def execBar4Write (offset : Nat) (bytes : List Byte) (s : State) : Result :=
  if !s.bar4Open offset then .next { s with reply := .unsupportedRequest }
  else
    let k := s.bar4Room offset
    if bytes.length ≤ k then .next (s.bar4WriteOne offset bytes)
    else .next ((s.bar4WriteOne offset (bytes.take k)).bar4WriteOne (offset + k) (bytes.drop k))

/-- BAR4_ATOMICOP. -/
def execBar4AtomicOp (_offset : Nat) (s : State) : Result := .next { s with reply := .unsupportedRequest }

/-! ### VF_MAP (R302) -/

/-- A write of VF_MAP[v]. -/
def State.writeVfMap (s : State) (v w : Nat) : State :=
  let n := bits w 0 5
  let old := s.vfPolder v
  let free := (List.range 25).all fun u => u == 0 || u == v || s.vfPolder u != n
  let good := (n == 31 || (decide (n < 24) && (s.polder n).exists_ && free))
    && ((List.range 256).all fun ch => (s.chan ch).func != v || (s.chan ch).state == .disabled)
    && (old == 31 || (s.polder old).state != .running) && (n == 31 || (s.polder n).state != .running)
  if good then { s with vfMap := Sparse.set 31 s.vfMap v n } else s.accessError 0 kRefused false (0x300 + 8 * (v - 1))

/-- VF_MAP. -/
def execVfMap (v : Nat) (value : U64) (s : State) : Result :=
  .next (if 1 ≤ v ∧ v ≤ 24 then s.writeVfMap v value.toNat else s)

/-! ### MSI-X and Bus Master Enable (R303) -/

/-- MSIX_VECTOR_UNMASK. -/
def execMsixVectorUnmask (f v : Nat) (s : State) : Result :=
  .next ((s.onFunc f fun x => { x with msix := Sparse.modify {} x.msix v fun e => { e with masked := false } }).release f v)

/-- Bus Master Enable is set: pending messages, what is held for the ring and a deferred floodgate record go out. -/
def State.busMasterOn (s : State) (f : Nat) : State :=
  let s := (s.onFunc f fun x => { x with bme := true }).releaseAll f
  let s := (s.onFunc f fun x => { x with fgDeferred := [] }).each (s.func f).fgDeferred fun s d =>
    ((s.hostWrite f d.1 d.2).getD s).signal f (s.func f).fgVector
  if s.trust.running then s.flush f else s

/-- BUS_MASTER_ENABLE_SET. -/
def execBusMasterEnableSet (f : Nat) (s : State) : Result := .next (s.busMasterOn f)

/-! ### Function-level resets (R304, R296) -/

/-- An issuer of floodgates in progress is gone: the device takes its place, and no record is due to it. -/
def State.forgetIssuer (s : State) (v : Nat) : State :=
  let swap (w : Gate) : Gate := if w.func == v then { w with func := 25 } else w
  let s := s.each (List.range 24) fun s n => s.onPolder n fun p => { p with gates := p.gates.map swap }
  { s with gates := s.gates.map swap, draining := s.draining.filter fun d => d.1 != v }

/-- An FLR of VF v: its commands are discarded without a record, its polder is floodgated, its channels and its page
take their reset values. -/
def State.vfFlr (s : State) (v : Nat) : State :=
  let s := ((s.onFunc v Func.forget).discardCommands fun f => f == v).forgetIssuer v
  let n := s.vfPolder v
  let s := if n < 24 then s.startGate 25 n else s
  let mine := (List.range 256).filter fun ch => (s.chan ch).func == v
  let s := s.each mine State.disableChan
  let s := s.each mine fun s ch => s.onChan ch fun c =>
    { func := c.func, polder := c.polder, edgeLo := c.edgeLo, edgeHi := c.edgeHi, life := c.life }
  s.setFunc v {}

/-- VF_FLR. -/
def execVfFlr (v : Nat) (s : State) : Result := .next (if 1 ≤ v ∧ v ≤ 24 then s.vfFlr v else s)

/-- VF Enable cleared: an FLR of every VF (R296). -/
def State.vfDisable (s : State) : State :=
  let s := s.each ((List.range 24).map (· + 1)) State.vfFlr
  { s with pcie := { s.pcie with vfEnable := false } }

/-- VF_ENABLE_CLEAR. -/
def execVfEnableClear (s : State) : Result := .next s.vfDisable

/-- PF_FLR: every command is discarded, floodgates in progress are superseded by a package floodgate. -/
def execPfFlr (s : State) : Result :=
  let s := s.discardCommands fun _ => true
  let s := s.each (List.range 24) fun s n => s.onPolder n fun p => { p with gates := [] }
  let s := { s with funcs := [], gates := [], draining := [] }
  let s := s.startPackageGate 25
  let s := s.each (s.liveChans fun _ => true) State.disableChan
  let s := s.vfDisable
  .next { s with
    funcs := []
    bar4Win := ({} : State).bar4Win, bar4Off := []
    vfMap := []
    pcie := { s.pcie with bar4Log2 := 42, aspmL1 := false, bars := [], vfBars := [] }
    power := { s.power with entering := none, wake := false } }

/-! ### Configuration (R294, R296, R305) -/

/-- A bring-up, or a warm reset that the link's loss began, has neither ended nor failed. -/
def State.retrying (s : State) : Bool := s.boot.running || s.pcie.resetting || !(s.boot.done || s.boot.failed)

/-- A capability stands in a function's configuration space (R294). -/
def hasCapability (f : Nat) : Capability → Bool
  | .msix | .aer | .acs | .readiness => true
  | .sriov | .resizableBar | .l1pm | .flit => f == 0
  | .msi | .ecrc | .atomicOp | .ats | .pasid | .pageRequest | .doe | .ide => false

/-- A doubleword of a 64-bit BAR of 2^`log2` bytes: the address bits above its size, and in the lower one its type. -/
def barWord (log2 n value : Nat) (prefetch : Bool) : Nat :=
  if n % 2 == 1 then value / 2 ^ (log2 - 32) * 2 ^ (log2 - 32)
  else (if log2 < 32 then value / 2 ^ log2 * 2 ^ log2 else 0) + 4 + 8 * b2n prefetch

/-- What a BAR doubleword reads as: BAR0, BAR2 and BAR4 of the PF (R297). -/
def State.barRead (s : State) (f n : Nat) : Nat :=
  let v := Sparse.get 0 s.pcie.bars n
  if f != 0 then 0
  else if n < 2 then barWord 25 n v false
  else if n < 4 then barWord 12 n v false
  else if n < 6 then barWord s.pcie.bar4Log2 n v true
  else 0

/-- What a named value of configuration space reads as; one of an absent capability reads as 0. -/
def State.configValue (s : State) (f : Nat) : ConfigItem → Nat
  | .classCode => 0x120000
  | .interruptPin => 0
  | .linkRates => 0x7F
  | .maxWidth => 16
  | .maxPayload => 512
  | .maxReadRequest => 4096
  | .tagBits => if s.pcie.flit then 14 else 10
  | .peerPaths => 0
  | .totalVfs => if f == 0 then 24 else 0
  | .firstVfOffset | .vfStride => if f == 0 then 1 else 0
  | .vfDeviceId => if f == 0 then 0x0C13 else 0
  | .vfPageSize => if f == 0 then 4096 else 0
  | .resetTime => 9000
  | .dlUpTime => 1200
  | .flrTime => if f == 0 then 100 else 1
  | .bar n => s.barRead f n
  | .vfBar n => if f == 0 && (n == 2 || n == 3) then barWord 12 n (Sparse.get 0 s.pcie.vfBars n) false else 0
  | .present c => b2n (hasCapability f c)
  -- one link, and the PF holds its capabilities
  | .l0p | .aspmL1Support | .l11 => b2n (f == 0)
  | .aspmL0s | .l12 => 0
  | .bar4Supports n => b2n (f == 0 && decide (30 ≤ n) && decide (n ≤ 42))

/-- What a configuration write does; a read changes nothing. -/
def State.configSet (s : State) (f : Nat) : ConfigReq → State
  | .read | .readItem _ => s
  | .barWrite n v => if f == 0 then { s with pcie := { s.pcie with bars := Sparse.set 0 s.pcie.bars n (v % 2 ^ 32) } } else s
  | .vfBarWrite n v =>
    if f == 0 then { s with pcie := { s.pcie with vfBars := Sparse.set 0 s.pcie.vfBars n (v % 2 ^ 32) } } else s
  | .memorySpace on => s.onFunc f fun x => { x with mse := on }
  | .busMaster on => if on then s.busMasterOn f else s.onFunc f fun x => { x with bme := false }
  | .msixEnable on => (s.onFunc f fun x => { x with msixOn := on }).releaseAll f
  | .vfEnable on =>
    if f != 0 then s else if on then { s with pcie := { s.pcie with vfEnable := true } }
    else if s.pcie.vfEnable then s.vfDisable else s
  | .bar4Size n => if f == 0 && decide (30 ≤ n) && decide (n ≤ 42) then s.resizeBar4 n else s
  | .aspmL1 on => if f == 0 then { s with pcie := { s.pcie with aspmL1 := on } } else s

/-- CONFIG_REQUEST: Request Retry Status until the end of bring-up, and its effect afterwards. -/
def execConfigRequest (f : Nat) (req : ConfigReq) (s : State) : Result :=
  if !s.pcie.on || !s.pcie.up then .next { s with reply := .none }
  else if s.retrying then .next { s with reply := .requestRetry }
  else if f != 0 && !s.pcie.vfEnable then .next { s with reply := .unsupportedRequest }
  else
    let t := s.configSet f req
    .next { t with reply := match req with
      -- Vendor and Device ID; a VF answers all ones there, as SR-IOV has it (PRESUMED, log 30)
      | .read => .data (leBytes 4 (if f == 0 then 0x0C121E57 else 0xFFFFFFFF))
      | .readItem i => .data (leBytes 4 (s.configValue f i))
      | _ => .done }

/-! ### The link (R294, R295, R304) -/

/-- Rates in tenths of a GT/s. -/
def pcieRates : List Nat := [25, 50, 80, 160, 320, 640, 1280]

/-- The largest of a list that does not exceed a limit, or 0. -/
def largest (l : List Nat) (limit : Nat) : Nat := (l.filter fun r => decide (r ≤ limit)).foldl max 0

/-- LINK_TRAIN_PCIE: the highest rate and width both ends support; 64 and 128 GT/s only in flit mode. -/
def execLinkTrainPcie (partnerRate width : Nat) (flit : Bool) (s : State) : Result :=
  let r := largest pcieRates (if flit then partnerRate else min 320 partnerRate)
  let w := largest [1, 2, 4, 8, 16] width
  if !s.pcie.on || s.pcie.perst || r == 0 || w == 0 then .next s
  else .next { s with pcie := { s.pcie with up := true, rate := r, width := w, flit := flit } }

/-- What a reset of the PCIe domain alone takes of a function: its configuration and its page, but not the mailbox queues nor
what the management and AON domains hold of it (R388). -/
def Func.pcieReset (x : Func) : Func :=
  { h2d := x.h2d, h2dLost := x.h2dLost, d2h := x.d2h, notified := x.notified, fg := x.fg, fgDeferred := x.fgDeferred
    partialWords := x.partialWords, inbox := x.inbox, tags := x.tags, ring := x.ring, due := x.due, eventsLost := x.eventsLost }

/-- The PCIe domain resets: the link, configuration, and the registers of BAR0 and BAR2 that it holds (R388, R428). -/
def State.pcieReset (s : State) : State :=
  { s with
    pcie := { on := true, perst := true }
    funcs := Sparse.mapWhere {} (fun _ => true) Func.pcieReset s.funcs
    bar4Win := ({} : State).bar4Win, bar4Off := []
    vfMap := [] }

/-- PERST_N asserted, or a hot reset or loss of the link: the link is down and a warm reset is due, which in P3 is the
wake that leaves it (R304, R392); deasserted, the link may train. -/
def execPerstN (asserted : Bool) (s : State) : Result :=
  if !asserted then .next { s with pcie := { s.pcie with perst := false } }
  else
    let s := { s with pcie := { s.pcie with perst := true, up := false } }
    if !s.power.aon then .next s
    else if s.power.pkg == .p3 then .next s.wakeUp
    -- in a bring-up only the PCIe domain resets (R428)
    else if s.boot.running then .next s.pcieReset
    else .next { s with boot := { s.boot with resetDue := true }, pcie := { s.pcie with resetting := true } }

/-! ### The register maps (R276, R298, R306, R491) -/

/-- The w-th channel that a VF owns, ascending (R276). -/
def State.windowChan (s : State) (f w : Nat) : Option Nat := ((List.range 256).filter fun ch => (s.chan ch).func == f)[w]?

/-- First offset and width of the 64-bit register that holds an offset, in a row of them from `base` every 8 B. -/
def row64 (base o : Nat) : Option (Nat × Nat) := some (base + (o - base) / 8 * 8, 8)

/-- Registers of a channel by the offset in its 0x80 bytes. -/
def chanReg (base o : Nat) : Option (Nat × Nat) :=
  if o < 0x28 || (0x40 ≤ o && o < 0x58) then some (base + o / 8 * 8, 8) else none

/-- A 32-bit register at `b`, if it holds the offset. -/
def reg32 (b o : Nat) : Option (Nat × Nat) := if b ≤ o && o < b + 4 then some (b, 4) else none

/-- The BAR0 register that holds an offset: where it begins, and its bytes; 0 bytes for an MSI-X table or PBA. -/
def bar0Reg (o : Nat) : Option (Nat × Nat) :=
  if o < 0x10 then row64 0 o
  else if 0x200 ≤ o && o < 0x220 then row64 0x200 o
  else if 0x300 ≤ o && o < 0x3C0 then row64 0x300 o
  else if 0x1008 ≤ o && o < 0x1018 then row64 0x1008 o
  else if 0x3000 ≤ o && o < 0x3010 then row64 0x3000 o
  else if 0x3100 ≤ o && o < 0x3108 then some (0x3100, 8)
  else if 0x3208 ≤ o && o < 0x3228 then row64 0x3208 o
  else if 0x3300 ≤ o && o < 0x3308 then some (0x3300, 8)
  else if 0x3400 ≤ o && o < 0x3410 then row64 0x3400 o
  else if 0x3500 ≤ o && o < 0x3508 then some (0x3500, 8)
  else if 0x3600 ≤ o && o < 0x3610 then row64 0x3600 o
  else if 0x3618 ≤ o && o < 0x3620 then some (0x3618, 8)
  else if 0x4000 ≤ o && o < 0x4008 then some (0x4000, 8)
  else if 0x4010 ≤ o && o < 0x4030 then reg32 (o / 8 * 8) o
  else if 0x20000 ≤ o && o < 0x22040 then some (o, 0)
  else if 0x1000000 ≤ o && o < 0x1008000 then chanReg (o / 0x80 * 0x80) (o % 0x80)
  else if 0x1008000 ≤ o && o < 0x1008040 then row64 0x1008000 o
  else [0x1000, 0x1018, 0x3200, 0x3610].findSome? fun b => reg32 b o

/-- The BAR2 register of a function that holds an offset. -/
def State.bar2Reg (s : State) (f o : Nat) : Option (Nat × Nat) :=
  if o < 0x8 then reg32 0 o
  else if o < 0x18 then row64 8 o
  else if o < 0x28 then reg32 (o / 8 * 8) o
  else if f == 0 then none
  else if o < 0x30 then reg32 0x28 o
  else if o < 0x40 then row64 0x30 o
  else if 0x3F8 ≤ o && o < 0x800 then some (o, 0)
  else if 0x800 ≤ o && o < 0x1000 && (s.windowChan f ((o - 0x800) / 0x40)).isSome && o % 0x40 < 0x28 then
    some (o / 8 * 8, 8)
  else none

/-- The register that an access meets: BAR0 is the PF's alone. -/
def State.regAt (s : State) (f bar o : Nat) : Option (Nat × Nat) :=
  if bar == 2 then s.bar2Reg f o else if f == 0 then bar0Reg o else none

/-- An access has its register's full width and alignment (R12).  The MSI-X structures take doublewords and
quadwords, as PCI Express has it (PRESUMED, log 30). -/
def fullAccess (r : Nat × Nat) (o size : Nat) : Bool :=
  if r.2 == 0 then (size == 4 || size == 8) && o % size == 0 else o == r.1 && size == r.2

/-- KIND of an access that meets no register whole; none for a good one. -/
def State.accessKind (s : State) (f bar o size : Nat) : Option Nat :=
  match s.regAt f bar o with
  | none => some kHole
  | some r => if fullAccess r o size then none else some kWidth

/-- REGISTER_ACCESS_ERROR (R12, R298): dropped, or zeros; logged. -/
def execRegisterAccessError (f bar offset size : Nat) (isWrite : Bool) (s : State) : Result :=
  match s.accessKind f bar offset size with
  | none => .next s
  | some k => .next { s.accessError f k (bar == 2) offset with reply := if isWrite then .done else .data (zeros size) }

/-! ### Register writes (R9) -/

/-- MB_STATUS: the W1C flags. -/
def State.writeMbStatus (s : State) (f v : Nat) : State :=
  s.onFunc f fun x => { x with
    domainOff := x.domainOff && !bit v 15, d2hCollision := x.d2hCollision && !bit v 14
    collision := x.collision && !bit v 13 }

/-- MB_CTL: dropped where a vector is beyond the function's (R306). -/
def State.writeMbCtl (s : State) (f v : Nat) : State :=
  if vectorsOf f ≤ bits v 16 9 || vectorsOf f ≤ bits v 0 9 then s.accessError f kRefused true 0x20
  else s.onFunc f fun x => { x with d2hIrq := bit v 31, fgVector := bits v 16 9, mbVector := bits v 0 9 }

/-- FG_REC_ADDR and FG_PF_REC_ADDR: bits [63:6]. -/
def State.writeRecAddr (s : State) (f v : Nat) : State := s.onFunc f fun x => { x with fgRecAddr := v / 64 * 64 }

/-- A doubleword of an MSI-X table: address, data and mask of its vector; unmasking sends what is pending. -/
def State.writeMsix (s : State) (f o w : Nat) : State :=
  let v := o / 16
  let put (e : Msix) : Msix := match o % 16 / 4 with
    | 0 => { e with addr := e.addr / 2 ^ 32 * 2 ^ 32 + w }
    | 1 => { e with addr := e.addr % 2 ^ 32 + w * 2 ^ 32 }
    | 2 => { e with data := w }
    | _ => { e with masked := bit w 0 }
  (s.onFunc f fun x => { x with msix := Sparse.modify {} x.msix v put }).release f v

/-- One or two doublewords; those of the PBA are read only. -/
def State.writeMsixAt (s : State) (f o size v tableBytes : Nat) : State :=
  s.each (List.range (size / 4)) fun s i =>
    if o + 4 * i < tableBytes then s.writeMsix f (o + 4 * i) (bits v (32 * i) 32) else s

/-- DMA_ENG_CFG: STOPPED is W1C; ERR_MODE changes only while all 64 channels are DISABLED. -/
def State.writeEngCfg (s : State) (b v : Nat) : State :=
  let s := s.onEngine b fun e => { e with stopped := e.stopped && !bit v 1 }
  if bit v 0 == (s.engine b).stopAll then s
  else if (List.range 64).all fun i => (s.chan (64 * b + i)).state == .disabled then
    s.onEngine b fun e => { e with stopAll := bit v 0 }
  else s.accessError 0 kRefused false (0x1008000 + 0x10 * b)

/-- A channel's registers by offset; the last three are the PF's. -/
def State.writeChanReg (s : State) (ch o v : Nat) : State :=
  match o with
  | 0x00 => s.onChan ch fun c => { c with base := v / 64 * 64, baseLow := bits v 1 5, dev := bit v 0 }
  | 0x08 => s.writeRingCtl ch v
  | 0x10 => s.writeTail ch (v % 65536)
  | 0x18 => s.onChan ch fun c => { c with ownStall := c.ownStall && !bit v 61 }
  | 0x40 => s.writeOwner ch v
  | 0x48 => s.onChan ch fun c => { c with edgeLo := bits v 12 36 * 4096 }
  | 0x50 => s.onChan ch fun c => { c with edgeHi := bits v 12 36 * 4096 }
  | _ => s

/-- A whole write of a BAR0 register; read-only and read-clear ones ignore it. -/
def State.writeBar0 (s : State) (o size v : Nat) : State :=
  if 0x200 ≤ o && o < 0x220 then s.writeBar4Win ((o - 0x200) / 8) v
  else if 0x300 ≤ o && o < 0x3C0 then s.writeVfMap ((o - 0x300) / 8 + 1) v
  else if 0x20000 ≤ o && o < 0x22040 then s.writeMsixAt 0 (o - 0x20000) size v 0x2000
  else if 0x1000000 ≤ o && o < 0x1008000 then s.writeChanReg ((o - 0x1000000) / 0x80) (o % 0x80) v
  else if 0x1008000 ≤ o && o < 0x1008040 then
    if o % 0x10 == 0 then s.writeEngCfg ((o - 0x1008000) / 0x10) v else s
  else match o with
    | 0x1000 => s.writeFgPf v
    | 0x1010 => s.writeRecAddr 0 v
    | 0x1018 => s.writePmpReset v
    | 0x3200 => s.writePwrCtl v
    | 0x3208 => { s with power := { s.power with sagSeen := s.power.sagSeen && !bit v 59 } }
    | 0x3610 => s.writeTimeCtl v
    | 0x3618 => { s with time := { s.time with load := v } }
    | _ => s

/-- A whole write of a register of a function's BAR2 page. -/
def State.writeBar2 (s : State) (f o size v : Nat) : State :=
  match o with
  | 0x00 => s.writeH2D f (BitVec.ofNat 32 v)
  | 0x10 => s.writeMbStatus f v
  | 0x18 => s.ringDoorbell f v
  | 0x20 => s.writeMbCtl f v
  | 0x28 => s.writeFloodgate f v
  | 0x38 => s.writeRecAddr f v
  | _ =>
    if 0x400 ≤ o && o < 0x800 then s.writeMsixAt f (o - 0x400) size v 0x400
    else if 0x800 ≤ o then match s.windowChan f ((o - 0x800) / 0x40) with
      | some ch => s.writeChanReg ch (o % 0x40) v
      | none => s
    else s

/-- REGISTER_WRITE (R9, R12). -/
def execRegisterWrite (f bar offset size : Nat) (value : U64) (s : State) : Result :=
  match s.accessKind f bar offset size with
  | some k => .next { s.accessError f k (bar == 2) offset with reply := .done }
  | none =>
    let v := value.toNat % 2 ^ (8 * size)
    let s := { s with reply := .done }
    .next (if bar == 2 then s.writeBar2 f offset size v else s.writeBar0 offset size v)

end Sys2Proof.Machine
end

