-- ==== Sys2Proof/Machine/Ledger.lean ====
section
/-! DEFINITION. The energy ledger at work: activity reports, telemetry, the peak limiter, quotas, the adaptive voltage
loop and the bounds of the loops (R346-R351, R363, R364, R366, R398). -/

namespace Sys2Proof.Machine

/-! ### Counters (R346, R347, R351) -/

def Meter.add (m : Meter) (pj : Nat) : Meter :=
  { m with total := m.total + pj, now10u := m.now10u + pj, now1m := m.now1m + pj, now100m := m.now100m + pj }

/-- A counter that is not a physical one: a POLDER. -/
def State.addTo (s : State) (i pj : Nat) : State :=
  { s with ledger := { s.ledger with meters := Sparse.modify {} s.ledger.meters i fun m => m.add pj } }

/-- Energy of a physical kind, which MODULE counts too (R347). -/
def State.addEnergy (s : State) (i pj : Nat) : State := (s.addTo i pj).addTo mModule pj

/-- The end of a 10 µs step, and of the 1 ms and 100 ms steps that end with it. -/
def Meter.close (m : Meter) (ms hundred : Bool) : Meter :=
  let m := { m with fine := (m.now10u :: m.fine).take 100, now10u := 0 }
  let m := if ms then { m with mid := (m.now1m :: m.mid).take 100, now1m := 0 } else m
  if hundred then { m with coarse := (m.now100m :: m.coarse).take 100, now100m := 0 } else m

def State.closeStep (s : State) : State :=
  let n := s.ledger.steps + 1
  { s with ledger := { s.ledger with
    steps := n
    meters := Sparse.mapWhere {} (fun _ => true) (Meter.close · (n % 100 == 0) (n % 10000 == 0)) s.ledger.meters } }

/-! ### Rails (R348) -/

/-- The counter of a rail. -/
def railMeter (r : Nat) : Nat :=
  if r < 24 then mHalf r else if r < 36 then mUcm (r - 24) else if r < 68 then mEdge (r - 36)
  else if r < 80 then mLink (r - 68) else if r < 84 then mBase (r - 80) else mStanding

/-- An estimate scaled by a rail's gain. -/
def Rail.scaled (x : Rail) (pj : Nat) : Nat := pj * x.gain / 2 ^ 24

/-- Estimated energy of a report on a rail, attributed to a polder (31 and above none): counted at once, or, on a rail
whose estimator has failed, when telemetry comes (R348). -/
def State.report (s : State) (r polder pj : Nat) : State :=
  let x := s.rail r
  let e := x.scaled pj
  let s := s.onRail r fun x => { x with estimated := x.estimated + pj, counted := if x.fault then x.counted else x.counted + e }
  let s := if x.fault then s else s.addEnergy (railMeter r) e
  if 24 ≤ polder then s
  else
    let s := { s with ledger := { s.ledger with
      attributed := Sparse.modify 0 s.ledger.attributed (32 * r + polder) (· + if x.fault then pj else e) } }
    if x.fault then s else s.addTo (mPolder polder) e

/-- Typical energy of a T-core's counts, fJ, its port apart (R84). -/
def TAct.energy (a : TAct) : Nat :=
  let per (pair : Nat) : Nat := if pair == 0 then 360 else if pair == 4 || pair == 5 then 50 else if pair == 8 then 12 else 90
  480 * a.valid + 100 * a.bubbles + sumOf (a.products.map fun x => per x.1 * x.2)

/-- Typical energy of a V-core's counts, fJ, its port apart (R107). -/
def VAct.energy (a : VAct) : Nat :=
  600 * a.busy + 220 * a.fp32 + 80 * a.bf16 + 900 * a.special + 150 * a.gather + 3200 * a.draws

/-- The counts of a half-die's cores: the arithmetic domain's energy in fJ, and bytes through vertical ports. -/
def State.coreActivity (s : State) (h : Nat) : Nat × Nat :=
  let ts := s.tcores.filter fun e => halfOf (clusterOf e.1) == h
  let vs := s.vcores.filter fun e => halfOf (clusterOf e.1) == h
  (sumOf (ts.map fun e => e.2.act.energy) + sumOf (vs.map fun e => e.2.act.energy),
    sumOf (ts.map fun e => e.2.act.port) + sumOf (vs.map fun e => e.2.act.port))

/-- A report: its rail, the polder it is attributed to (31 and above none) and its energy in pJ. -/
abbrev Report := Nat × Nat × Nat

/-- Reports whose energy the typical models give: cores (R73, R84, R107), other traffic of under-core memory (R347), edge
channels with their near-bank units (R198, R241). -/
def State.modelled (s : State) : List Report :=
  ((List.range 24).flatMap fun h =>
    let a := s.coreActivity h
    [(h, s.polderOf h, a.1 / 1000), (24 + h / 2, s.polderOf h, 1760 * a.2 / 1000)])
  ++ (s.ucmDies.flatMap fun d => d.2.act.map fun x => (24 + d.1, x.1, 1760 * x.2 / 1000))
  ++ s.channels.flatMap fun e => (List.range 32).map fun p =>
    (36 + e.1 / 32, p, 12 * Sparse.get 0 e.2.act (4 * p) + 7168 * Sparse.get 0 e.2.act (4 * p + 1) / 10)

/-- Reports of DMA engines and links: rail and polder (R293, R347). -/
def State.unmodelled (s : State) : List (Nat × Nat) :=
  (s.engines.flatMap fun b => ((b.2.act.map fun x => x.1 / 2).dedup).map fun p => (80 + b.1, p))
  ++ s.links.flatMap fun n => n.2.act.map fun x => (68 + n.1 / 8, x.1)

/-- The reports of 10 µs, from the units' own counts; the energy models of DMA engines and links are not stated, and the
command brings the energies of their reports, in order (log 25). -/
def State.activity (s : State) (energies : List Nat) : List Report :=
  s.modelled ++ s.unmodelled.zipIdx.map fun x => (x.1.1, x.1.2, nth 0 energies x.2)

/-- Every unit's counts start anew. -/
def State.clearActivity (s : State) : State :=
  let s := s.each ((s.tcores.filter fun e => e.2.act != {}).map Prod.fst) fun s c => s.onTcore c fun x => { x with act := {} }
  let s := s.each ((s.vcores.filter fun e => e.2.act != {}).map Prod.fst) fun s c => s.onVcore c fun x => { x with act := {} }
  { s with
    ucmDies := Sparse.mapWhere {} (fun _ => true) (fun x => { x with act := [] }) s.ucmDies
    channels := Sparse.mapWhere {} (fun _ => true) (fun x => { x with act := [] }) s.channels
    engines := Sparse.mapWhere {} (fun _ => true) (fun x => { x with act := [] }) s.engines
    links := Sparse.mapWhere {} (fun _ => true) (fun x => { x with act := [] }) s.links }

/-- ESTIMATOR_REPORT: the reports of 10 µs; in P3 none counts (R350). -/
def execEstimatorReport (energies : List Nat) (s : State) : Result :=
  if !s.power.aon then .next s
  else
    let rs := if s.power.pkg == .p3 then [] else s.activity energies
    .next (rs.foldl (fun s r => s.report r.1 r.2.1 r.2.2) s.clearActivity).closeStep

/-! ### Telemetry (R348, R354, R356) -/

/-- A rail's gain after a millisecond with E_telemetry `t` and E_estimated `e`; without an estimate the quotient is a free
value. -/
def Rail.learn (x : Rail) (t e free : Nat) : Rail :=
  let g : Nat := if e == 0 then free % 2 ^ 28 else t * 2 ^ 24 / e
  let out := decide (5 * g < 4 * 2 ^ 24) || decide (5 * 2 ^ 24 < 4 * g)
  let bad := if out then x.bad + 1 else 0
  { x with gain := ((x.gain : Int) + ((g : Int) - (x.gain : Int)) / 8).toNat, bad := bad, fault := x.fault || decide (10 ≤ bad) }

/-- One rail's millisecond: what is still to be counted, its share of the conversion loss, and both in the polders'
parts (R347, R348).  Energies in pJ. -/
def State.railMs (s : State) (x : RailSample) (loss rails : Nat) : State :=
  let r := x.rail
  let a := s.rail r
  let tele := 1000 * x.telemetry
  let extra := 1000 * x.estimated
  let est := a.estimated + extra
  let rest := if a.fault then tele else a.scaled extra
  let whole := a.counted + rest
  let share := if rails == 0 then 0 else loss * tele / rails
  let s := s.addEnergy (railMeter r) (rest + share)
  -- a half-die's energy is wholly its polder's
  let s := if r < 24 then (if s.polderOf r < 24 then s.addTo (mPolder (s.polderOf r)) (rest + share) else s)
    else s.each (List.range 24) fun s n =>
      let part := Sparse.get 0 s.ledger.attributed (32 * r + n)
      if part == 0 then s
      else if a.fault then s.addTo (mPolder n) (if est == 0 then 0 else (tele + share) * part / est)
      else s.addTo (mPolder n) (if whole == 0 then 0 else share * part / whole)
  let s := { s with fresh := s.fresh + 1 }.onRail r fun y => { y.learn tele est (Config.freeNat s.fresh) with estimated := 0, counted := 0 }
  { s with ledger := { s.ledger with attributed := Sparse.drop (fun k => k / 32 == r) s.ledger.attributed } }

/-- Input energy of one millisecond, pJ: VIN in mV times the current in 0.1 A. -/
def inputPj (vin iin : Nat) : Nat := vin * iin * 100000

/-- One millisecond of telemetry in the ledger: every rail, and the loss; in P3 the whole input is STANDING. -/
def State.telemetryEnergy (s : State) (t : Telemetry) : State :=
  let input := inputPj t.vin t.iin
  let out := sumOf (t.rails.map fun x => 1000 * x.telemetry)
  if s.power.pkg == .p3 then s.addEnergy mStanding input
  else
    let s := t.rails.foldl (fun s x => s.railMs x (input - out) out) s
    -- with no rail output there is nothing to apportion the loss to
    if out == 0 then s.addEnergy mStanding input else s

/-- What a telemetry update notes: the input, the energy, the cap the supply sets, the low marks. -/
def State.telemetry (s : State) (t : Telemetry) : State :=
  let s := { s with power := { s.power with vin := t.vin, vinMin := t.vinMin, iin := t.iin } }
  let s := s.telemetryEnergy t
  { s with ledger := { s.ledger with supplyCap := t.vinMin * s.ledger.current } }.noteLow

/-- TELEMETRY_UPDATE: in P3 only MODULE and STANDING count, from the input sense (R350). -/
def execTelemetryUpdate (t : Telemetry) (s : State) : Result :=
  if !s.power.aon then .next s
  else
    let u := s.telemetry t
    .next (if !u.boot.done then u else if u.updateCap.ledger.effCap != u.ledger.effCap then u.updateCap.plan else u.updateCap)

/-! ### Holding the measured draw (R363, R364) -/

/-- Running polders with their jobs. -/
def State.running (s : State) : List Nat := (List.range 24).filter fun n => (s.polder n).state == .running

/-- PEAK_LIMITER: over PEAK every running polder loses a step; once the 1 ms average has stayed below 95 % of PEAK for
100 ms, each gets one back, at most one every 100 ms. -/
def execPeakLimiter (s : State) : Result :=
  let e := sumOf (s.meter mModule).fine
  let peak := s.ledger.peak * 1000000000
  if peak < e then
    let s := { s with ledger := { s.ledger with peakLow := none } }.countUp cPeakLimit
    -- one step below the one in force, or below one already commanded; a raise that waits ends
    .next (s.each s.running fun s n =>
      (s.onPolder n fun p => { p with peakDown := p.peakDown + (p.want - (min p.want p.step - 1)) }).restep n)
  else if 100 * e < 95 * peak then
    let since := s.ledger.peakLow.getD s.time.dev
    if s.trust.running && decide (10000000 ≤ s.time.dev - since) then
      let s := { s with ledger := { s.ledger with peakLow := some s.time.dev } }
      .next (s.each s.running fun s n =>
        if (s.polder n).peakDown == 0 then s
        else (s.onPolder n fun p => { p with peakDown := p.peakDown - 1 }).restep n)
    else .next { s with ledger := { s.ledger with peakLow := some since } }
  else .next { s with ledger := { s.ledger with peakLow := none } }

/-- QUOTA of a polder: one step down over its quota, one back below 95 % of it; never below the STEPS bound, and never
above the admitted step. -/
def execQuota (p : Nat) (s : State) : Result :=
  let q := Sparse.get 0 s.ledger.quotas p * 1000000000000
  let x := s.polder p
  let e := sumOf (s.meter (mPolder p)).coarse
  if q == 0 || x.state != .running || !s.trust.running then .next s
  else if q < e then
    if (x.want : Int) ≤ max 0 s.ledger.stepBounds.lo then .next (s.freeze 5 true)
    else .next (((s.onPolder p fun x => { x with quotaDown := x.quotaDown + 1 }).restep p).countUp cQuota)
  else if 100 * e < 95 * q && 0 < x.quotaDown then
    .next ((s.onPolder p fun x => { x with quotaDown := x.quotaDown - 1 }).restep p).freezeSteps
  else .next s

/-! ### Adaptive voltage (R398) and loop bounds (R366, R367) -/

/-- FROZEN of AVS: the bounds are equal, or one holds a half-die (R367). -/
def State.freezeAvs (s : State) : State :=
  s.freeze 1 (s.ledger.avs.lo == s.ledger.avs.hi || s.halfDies.any fun h => h.2.avsHeld)

/-- An AVS offset for a half-die: as its rail acknowledges it, at once where the half-die is OFF (R397, R398). -/
def State.avsTo (s : State) (h : Nat) (v : Int) : State :=
  let x := s.halfDie h
  if x.avs == v then s
  else if x.power == .off then s.onHalfDie h fun x => { x with avs := v }
  else s.onRail h fun r => r.ask { up := decide (x.avs < v), avs := some v }

/-- AVS_LOOP: one adjustment of a half-die rail by 5 mV inside the AVS bounds, in force once the rail acknowledges; a bound
freezes the loop. -/
def execAvsLoop (h : Nat) (up : Bool) (s : State) : Result :=
  let b := s.ledger.avs
  let x := s.halfDie h
  if x.power == .off then .next s
  else
    let v := if up then x.avs + 5 else x.avs - 5
    if v < b.lo || b.hi < v then .next (s.onHalfDie h fun x => { x with avsHeld := true }).freezeAvs
    else
      let s := (s.onHalfDie h fun x => { x with avsHeld := false }).freezeAvs
      .next (s.onRail h fun r => r.ask { up := up, avs := some v })

/-- Setting LINK_RATE bounds of one link: a pinned link is frozen. -/
def State.setLinkRate (s : State) (n lo hi : Nat) : State :=
  let s := { s with ledger := { s.ledger with linkRate := Sparse.set 1 s.ledger.linkRate n (2 * lo + hi) } }
  s.onLink n fun l => { l with frozen := lo == hi }

/-- LOOP_BOUNDS_SET. -/
def execLoopBoundsSet (f : Nat) (s : State) : Result :=
  .next (s.command f 0x44 fun s c =>
    let loop := bits (c.a 1) 0 8
    let link := bits (c.a 1) 16 16
    let lo := c.a 2
    let hi := c.a 3
    let i (v : Nat) : Int := if loop == 1 then sx 32 v else v
    let b : Bounds := ⟨i lo, i hi⟩
    let range : Int × Int := match loop with
      | 1 => (-100, 50)
      | 2 => (0, 1)
      | 3 => (1, 168)
      | 4 => (0, 3600)
      | _ => (0, s.topStep)
    match firstFail [
        (loop == 0 || decide (5 < loop), .formatUnsupported),
        (loop == 2 && decide (95 < link) && link != 0xFFFF, .bound),
        (decide (b.lo < range.1) || decide (range.2 < b.hi) || decide (b.hi < b.lo), .bound)] with
    | some st => s.refuse c st
    | none =>
      let s := match loop with
        | 1 =>
          let s := { s with ledger := { s.ledger with avs := b } }
          (s.each (List.range 24) fun s h =>
            (s.onHalfDie h fun x => { x with avsHeld := false }).avsTo h (max b.lo (min b.hi (s.halfDie h).avs))).freezeAvs
        | 2 =>
          let s := s.each (if link == 0xFFFF then List.range 96 else [link]) fun s n => s.setLinkRate n lo hi
          s.freeze 2 (s.links.any fun l => l.2.frozen)
        | 3 => { s with ledger := { s.ledger with scrub := b } }.freezeScrub
        | 4 =>
          let s := { s with ledger := { s.ledger with rotation := b } }
          { s with thermal := { s.thermal with interval := max lo (min hi s.thermal.interval) } }.freeze 4 (lo == hi)
        | _ => { s with ledger := { s.ledger with stepBounds := b } }.freeze 5 (lo == hi)
      s.answer c {})

end Sys2Proof.Machine
end

