-- ==== Sys2Proof/Machine/Sluice.lean ====
section
/-! DEFINITION. The sluices as the dynamic network sees them: entries that arrive at an inbound ring and entries taken from
an outbound one (file 07, R167-R171). -/

namespace Sys2Proof.Machine

/-- The operation of the descriptor that a channel has begun. -/
def State.runningOp (s : State) (ch : Nat) : Option Desc :=
  if (s.chan ch).begun && (s.chan ch).finish.isNone && s.working ch then s.desc ch else none

/-- The oldest entry on its way is written at (HEAD + FILLED) mod 32 and counts as arrived. -/
def State.ringIn (s : State) (cl now : Nat) (l : List Byte) : State :=
  let e := (s.cluster cl).sin
  let s := s.onVcore (cl * 64 + 58) fun c => { c with sram := c.sram.write (ringEntry ((e.head + e.filled) % 32)).lo l }
  s.onCluster cl fun c =>
    let e := c.sin
    { c with sin := { e with
        inflight := e.inflight - 1, filled := e.filled + 1, coming := e.coming.drop 1
        recent := (e.recent.filter fun t => decide (now < t + 12)) ++ [now] } }

/-- SLUICE_ENTRY_ARRIVAL: the oldest entry on its way to an inbound sluice arrives; a closed sluice refuses it (R168,
R171), and a fenced culvert router that it would turn at turns it away (R423).  A TO_SLUICE ends with its last entry, a walk when everything has arrived. -/
def execSluiceEntryArrival (cl : Nat) (s : State) : Result :=
  let e := (s.cluster cl).sin
  .next (match e.coming, e.bound with
    | l :: _, some ch =>
      if s.turnedAway (.dma ch) (2 ^ 60 + cl) (some cl) then s.devFail ch .hwError (((s.desc ch).map Desc.dst).getD 0) true false
      else if !e.open_ then s.busFail ch .refused (((s.desc ch).map Desc.dst).getD 0) true true
      else
        let s := (s.ringIn cl (s.polder (s.polderOf (halfOf cl))).cycle l).progress ch
        match s.runningOp ch with
        | none => s
        | some d =>
          if d.op == 2 then
            let n := (s.chan ch).done + 1
            let s := s.onChan ch fun c => { c with done := n }
            if n == d.len then s.finishDesc ch .ok n else s
          else s.walkEnd ch
    | _, _ => s)

/-- The oldest posted entry is taken: its bytes, free ones where the scheduled side has written it since (R170). -/
def State.ringOut (s : State) (cl now : Nat) : List Byte × State :=
  let e := (s.cluster cl).sout
  let i := (e.tail + 32 - e.posted) % 32
  let r := if e.spoiled.contains i then s.freeBytes 64 else ((s.vcore (cl * 64 + 59)).sram.read (ringEntry i).lo 64, s)
  (r.1, r.2.onCluster cl fun c =>
    let e := c.sout
    { c with sout := { e with
        posted := e.posted - 1, spoiled := e.spoiled.filter fun k => k != i
        recent := (e.recent.filter fun t => decide (now < t + 12)) ++ [now] } })

/-- SLUICE_ENTRY_TAKEN: the bound channel takes the oldest posted entry (R170): a FROM_SLUICE writes it to its
destination and ends with its last one, a walk takes it as its next step needs it (R286).  A fenced culvert router that its
request would turn at turns it away (R423). -/
def execSluiceEntryTaken (cl : Nat) (s : State) : Result :=
  let e := (s.cluster cl).sout
  .next (match e.bound with
    | none => s
    | some ch =>
      let c := s.chan ch
      if !e.open_ || e.posted == 0 || c.unanswered || c.retry.isSome then s
      else match s.runningOp ch with
      | none => s
      | some d =>
        if s.turnedAway (.dma ch) (2 ^ 60 + cl) (some cl) then s.devFail ch .hwError d.src false false
        else
        let taken := s.ringOut cl (s.polder (s.polderOf (halfOf cl))).cycle
        if d.op == 3 then
          if d.len ≤ c.done then s
          else
            let r := taken.2.put ch d.dstDev (d.dst + 64 * c.done) taken.1
            if !r.2 then s
            else
              let c' := r.1.chan ch
              if c'.life == c.life && c'.done == d.len then r.1.finishDesc ch .ok d.len else r.1
        else if !(c.walk.any fun w => w.hungry c.got.length) then s
        else
          State.walkLoop ch d 1000000 ((taken.2.progress ch).onChan ch fun c => { c with got := c.got ++ taken.1 }))

end Sys2Proof.Machine
end

