-- ==== Sys2Proof/Machine/Dispatch.lean ====
section
/-! DEFINITION. The command table: one arm for each command, each a call of its own meaning. -/

namespace Sys2Proof.Machine

def exec (i : Instr) (s : State) : Host.Outcome State Fault Refusal :=
  match i with
  | .hello f => Sys2Proof.Machine.execHello f s
  | .getStatus f => Sys2Proof.Machine.execGetStatus f s
  | .polderCreate f offers => Sys2Proof.Machine.execPolderCreate f offers s
  | .polderCreateComplete p => Sys2Proof.Machine.execPolderCreateComplete p s
  | .polderDestroy f => Sys2Proof.Machine.execPolderDestroy f s
  | .polderReset f offers => Sys2Proof.Machine.execPolderReset f offers s
  | .polderResetComplete p => Sys2Proof.Machine.execPolderResetComplete p s
  | .scheduleLoad f => Sys2Proof.Machine.execScheduleLoad f s
  | .scheduleUnload f => Sys2Proof.Machine.execScheduleUnload f s
  | .jobRun f => Sys2Proof.Machine.execJobRun f s
  | .jobCancel f => Sys2Proof.Machine.execJobCancel f s
  | .contextSave f => Sys2Proof.Machine.execContextSave f s
  | .contextSaveCopy p => Sys2Proof.Machine.execContextSaveCopy p s
  | .contextRestore f => Sys2Proof.Machine.execContextRestore f s
  | .memInitUcm f => Sys2Proof.Machine.execMemInitUcm f s
  | .memInitEdge f => Sys2Proof.Machine.execMemInitEdge f s
  | .memInitBasin f => Sys2Proof.Machine.execMemInitBasin f s
  | .nearBankModeProcessor f => Sys2Proof.Machine.execNearBankModeProcessor f s
  | .nearBankModeMemory f => Sys2Proof.Machine.execNearBankModeMemory f s
  | .kvSpaceConfig f => Sys2Proof.Machine.execKvSpaceConfig f s
  | .capSet f => Sys2Proof.Machine.execCapSet f s
  | .quotaSet f => Sys2Proof.Machine.execQuotaSet f s
  | .ledgerRead f => Sys2Proof.Machine.execLedgerRead f s
  | .thermalPolicySet f => Sys2Proof.Machine.execThermalPolicySet f s
  | .loopBoundsSet f => Sys2Proof.Machine.execLoopBoundsSet f s
  | .linkEnable f => Sys2Proof.Machine.execLinkEnable f s
  | .linkDisable f => Sys2Proof.Machine.execLinkDisable f s
  | .linkIdentity f => Sys2Proof.Machine.execLinkIdentity f s
  | .linkWindow f => Sys2Proof.Machine.execLinkWindow f s
  | .linkInbound f => Sys2Proof.Machine.execLinkInbound f s
  | .linkTimesyncConfig f => Sys2Proof.Machine.execLinkTimesyncConfig f s
  | .linkStatus f => Sys2Proof.Machine.execLinkStatus f s
  | .attest f => Sys2Proof.Machine.execAttest f s
  | .identityCertRead f => Sys2Proof.Machine.execIdentityCertRead f s
  | .firmwareStage f => Sys2Proof.Machine.execFirmwareStage f s
  | .firmwareCommit f flashOk => Sys2Proof.Machine.execFirmwareCommit f flashOk s
  | .logRead f => Sys2Proof.Machine.execLogRead f s
  | .repairStage f => Sys2Proof.Machine.execRepairStage f s
  | .repairCommit f => Sys2Proof.Machine.execRepairCommit f s
  | .diagWarmReset f => Sys2Proof.Machine.execDiagWarmReset f s
  | .halfDieTest f defects => Sys2Proof.Machine.execHalfDieTest f defects s
  | .edgeRetrain f => Sys2Proof.Machine.execEdgeRetrain f s
  | .badOpcode f => Sys2Proof.Machine.execBadOpcode f s
  | .partialMessageTimeout f => Sys2Proof.Machine.execPartialMessageTimeout f s
  | .tagMemoryExpiry f tag opc => Sys2Proof.Machine.execTagMemoryExpiry f tag opc s
  | .ringReread f => Sys2Proof.Machine.execRingReread f s
  | .busMasterEnableSet f => Sys2Proof.Machine.execBusMasterEnableSet f s
  | .mbH2D f word => Sys2Proof.Machine.execMbH2D f word s
  | .mbD2H f => Sys2Proof.Machine.execMbD2H f s
  | .mbDoorbell f value => Sys2Proof.Machine.execMbDoorbell f value s
  | .mailboxPoll => Sys2Proof.Machine.execMailboxPoll s
  | .firmwareNotification f => Sys2Proof.Machine.execFirmwareNotification f s
  | .floodgate f value => Sys2Proof.Machine.execFloodgate f value s
  | .fgPf value => Sys2Proof.Machine.execFgPf value s
  | .floodgateComplete kind polder => Sys2Proof.Machine.execFloodgateComplete kind polder s
  | .floodgateDrained target => Sys2Proof.Machine.execFloodgateDrained target s
  | .pmpReset value => Sys2Proof.Machine.execPmpReset value s
  | .pmpWatchdog => Sys2Proof.Machine.execPmpWatchdog s
  | .cdcWatchdog d => Sys2Proof.Machine.execCdcWatchdog d s
  | .cdcRestartComplete d => Sys2Proof.Machine.execCdcRestartComplete d s
  | .enable f ch value => Sys2Proof.Machine.execEnable f ch value s
  | .dmaDisable f ch value => Sys2Proof.Machine.execDmaDisable f ch value s
  | .resume f ch value => Sys2Proof.Machine.execResume f ch value s
  | .tail f ch value => Sys2Proof.Machine.execTail f ch value s
  | .dmaOwner ch value => Sys2Proof.Machine.execDmaOwner ch value s
  | .descriptorFetch ch => Sys2Proof.Machine.execDescriptorFetch ch s
  | .copy ch => Sys2Proof.Machine.execCopy ch s
  | .psplit ch => Sys2Proof.Machine.execPsplit ch s
  | .pjoin ch => Sys2Proof.Machine.execPjoin ch s
  | .intlv ch => Sys2Proof.Machine.execIntlv ch s
  | .deintlv ch => Sys2Proof.Machine.execDeintlv ch s
  | .toSluice ch => Sys2Proof.Machine.execToSluice ch s
  | .fromSluice ch => Sys2Proof.Machine.execFromSluice ch s
  | .nbcmd ch => Sys2Proof.Machine.execNbcmd ch s
  | .kvwalk ch => Sys2Proof.Machine.execKvwalk ch s
  | .nop ch => Sys2Proof.Machine.execNop ch s
  | .descriptorWriteBack ch => Sys2Proof.Machine.execDescriptorWriteBack ch s
  | .descriptorTimeout ch => Sys2Proof.Machine.execDescriptorTimeout ch s
  | .heldRetry ch => Sys2Proof.Machine.execHeldRetry ch s
  | .busError ch addr isWrite attributable refused => Sys2Proof.Machine.execBusError ch addr isWrite attributable refused s
  | .nbCompletion e => Sys2Proof.Machine.execNbCompletion e s
  | .deviceAccessError ch code addr isWrite => Sys2Proof.Machine.execDeviceAccessError ch code addr isWrite s
  | .bar4Win window value => Sys2Proof.Machine.execBar4Win window value s
  | .vfMap v value => Sys2Proof.Machine.execVfMap v value s
  | .bar4Read offset len => Sys2Proof.Machine.execBar4Read offset len s
  | .bar4Write offset bytes => Sys2Proof.Machine.execBar4Write offset bytes s
  | .bar4AtomicOp offset => Sys2Proof.Machine.execBar4AtomicOp offset s
  | .registerWrite f bar offset size value => Sys2Proof.Machine.execRegisterWrite f bar offset size value s
  | .registerAccessError f bar offset size isWrite => Sys2Proof.Machine.execRegisterAccessError f bar offset size isWrite s
  | .configRequest f req => Sys2Proof.Machine.execConfigRequest f req s
  | .perstN asserted => Sys2Proof.Machine.execPerstN asserted s
  | .pfFlr => Sys2Proof.Machine.execPfFlr s
  | .vfFlr v => Sys2Proof.Machine.execVfFlr v s
  | .vfEnableClear => Sys2Proof.Machine.execVfEnableClear s
  | .linkTrainPcie partnerRate width flit => Sys2Proof.Machine.execLinkTrainPcie partnerRate width flit s
  | .plannerRun => Sys2Proof.Machine.execPlannerRun s
  | .admissionTimeout p => Sys2Proof.Machine.execAdmissionTimeout p s
  | .jobStart p => Sys2Proof.Machine.execJobStart p s
  | .jobEnd p => Sys2Proof.Machine.execJobEnd p s
  | .jobTimeout p => Sys2Proof.Machine.execJobTimeout p s
  | .tideMark h => Sys2Proof.Machine.execTideMark h s
  | .slotEntryAdvance p => Sys2Proof.Machine.execSlotEntryAdvance p s
  | .routerSlot p badWords => Sys2Proof.Machine.execRouterSlot p badWords s
  | .holdRelease p => Sys2Proof.Machine.execHoldRelease p s
  | .scoreInstruction core => Sys2Proof.Machine.execScoreInstruction core s
  | .ebreak core => Sys2Proof.Machine.execEbreak core s
  | .sat core => Sys2Proof.Machine.execSat core s
  | .sati core => Sys2Proof.Machine.execSati core s
  | .sdone core => Sys2Proof.Machine.execSdone core s
  | .tiss core => Sys2Proof.Machine.execTiss core s
  | .viss core => Sys2Proof.Machine.execViss core s
  | .sin core => Sys2Proof.Machine.execSin core s
  | .sout core => Sys2Proof.Machine.execSout core s
  | .sack core => Sys2Proof.Machine.execSack core s
  | .spost core => Sys2Proof.Machine.execSpost core s
  | .rpage core => Sys2Proof.Machine.execRpage core s
  | .rwr core => Sys2Proof.Machine.execRwr core s
  | .srdc core => Sys2Proof.Machine.execSrdc core s
  | .sfill core => Sys2Proof.Machine.execSfill core s
  | .swrite core => Sys2Proof.Machine.execSwrite core s
  | .sfwd core => Sys2Proof.Machine.execSfwd core s
  | .sfilli core => Sys2Proof.Machine.execSfilli core s
  | .snote core => Sys2Proof.Machine.execSnote core s
  | .snoteForward cl => Sys2Proof.Machine.execSnoteForward cl s
  | .tfill core => Sys2Proof.Machine.execTfill core s
  | .tmma core => Sys2Proof.Machine.execTmma core s
  | .tdrain core => Sys2Proof.Machine.execTdrain core s
  | .twrite core => Sys2Proof.Machine.execTwrite core s
  | .vadd core => Sys2Proof.Machine.execVadd core s
  | .vsub core => Sys2Proof.Machine.execVsub core s
  | .vmul core => Sys2Proof.Machine.execVmul core s
  | .vfma core => Sys2Proof.Machine.execVfma core s
  | .vmin core => Sys2Proof.Machine.execVmin core s
  | .vmax core => Sys2Proof.Machine.execVmax core s
  | .vcmp core => Sys2Proof.Machine.execVcmp core s
  | .vsel core => Sys2Proof.Machine.execVsel core s
  | .vabs core => Sys2Proof.Machine.execVabs core s
  | .vexp2 core => Sys2Proof.Machine.execVexp2 core s
  | .vlog2 core => Sys2Proof.Machine.execVlog2 core s
  | .vrcp core => Sys2Proof.Machine.execVrcp core s
  | .vrsqrt core => Sys2Proof.Machine.execVrsqrt core s
  | .vtanh core => Sys2Proof.Machine.execVtanh core s
  | .vdiv core => Sys2Proof.Machine.execVdiv core s
  | .vcvt core => Sys2Proof.Machine.execVcvt core s
  | .vqmx core => Sys2Proof.Machine.execVqmx core s
  | .vqt2 core => Sys2Proof.Machine.execVqt2 core s
  | .vdq core => Sys2Proof.Machine.execVdq core s
  | .vrsum core => Sys2Proof.Machine.execVrsum core s
  | .vrmax core => Sys2Proof.Machine.execVrmax core s
  | .vrmin core => Sys2Proof.Machine.execVrmin core s
  | .vshuf core => Sys2Proof.Machine.execVshuf core s
  | .vgather core => Sys2Proof.Machine.execVgather core s
  | .vrand core => Sys2Proof.Machine.execVrand core s
  | .vunif core => Sys2Proof.Machine.execVunif core s
  | .vtopk core => Sys2Proof.Machine.execVtopk core s
  | .vtopkm core => Sys2Proof.Machine.execVtopkm core s
  | .vsamp core => Sys2Proof.Machine.execVsamp core s
  | .vfill core => Sys2Proof.Machine.execVfill core s
  | .vwrite core => Sys2Proof.Machine.execVwrite core s
  | .vfwd core => Sys2Proof.Machine.execVfwd core s
  | .vsend core => Sys2Proof.Machine.execVsend core s
  | .vcopy core => Sys2Proof.Machine.execVcopy core s
  | .sluiceEntryArrival cl => Sys2Proof.Machine.execSluiceEntryArrival cl s
  | .sluiceEntryTaken cl => Sys2Proof.Machine.execSluiceEntryTaken cl s
  | .ucmWordArrival core flips => Sys2Proof.Machine.execUcmWordArrival core flips s
  | .ucmRefresh d layer idle => Sys2Proof.Machine.execUcmRefresh d layer idle s
  | .ucmApertureAccess who addr acc flips => Sys2Proof.Machine.execUcmApertureAccess who addr acc flips s
  | .mergeRetire core word flips => Sys2Proof.Machine.execMergeRetire core word flips s
  | .ucmScrubRequest core flips => Sys2Proof.Machine.execUcmScrubRequest core flips s
  | .ucmScrubPassEnd d => Sys2Proof.Machine.execUcmScrubPassEnd d s
  | .ucmSelfRefreshEntry d => Sys2Proof.Machine.execUcmSelfRefreshEntry d s
  | .edgeAccess who addr acc flips => Sys2Proof.Machine.execEdgeAccess who addr acc flips s
  | .sectorRead who addr flips => Sys2Proof.Machine.execSectorRead who addr flips s
  | .edgeLineMark e line => Sys2Proof.Machine.execEdgeLineMark e line s
  | .edgeRetrainStart e => Sys2Proof.Machine.execEdgeRetrainStart e s
  | .edgeRetrainEnd e badLines => Sys2Proof.Machine.execEdgeRetrainEnd e badLines s
  | .edgeScrubRequest e flips => Sys2Proof.Machine.execEdgeScrubRequest e flips s
  | .edgeRefresh e => Sys2Proof.Machine.execEdgeRefresh e s
  | .nbWrite e => Sys2Proof.Machine.execNbWrite e s
  | .nbRead e => Sys2Proof.Machine.execNbRead e s
  | .nbFill e => Sys2Proof.Machine.execNbFill e s
  | .nbCopy e => Sys2Proof.Machine.execNbCopy e s
  | .nbAppend e => Sys2Proof.Machine.execNbAppend e s
  | .nbScores e => Sys2Proof.Machine.execNbScores e s
  | .nbAttend e => Sys2Proof.Machine.execNbAttend e s
  | .nbSync e => Sys2Proof.Machine.execNbSync e s
  | .nbDispatch stack => Sys2Proof.Machine.execNbDispatch stack s
  | .sensorSample r => Sys2Proof.Machine.execSensorSample r s
  | .flowPulseEdge sinceLastUs => Sys2Proof.Machine.execFlowPulseEdge sinceLastUs s
  | .flowPulseTimeout => Sys2Proof.Machine.execFlowPulseTimeout s
  | .coolantHoldExit => Sys2Proof.Machine.execCoolantHoldExit s
  | .hardwareTrip unitKind unit => Sys2Proof.Machine.execHardwareTrip unitKind unit s
  | .thermalResistanceUpdate => Sys2Proof.Machine.execThermalResistanceUpdate s
  | .rotation => Sys2Proof.Machine.execRotation s
  | .estimatorReport energies => Sys2Proof.Machine.execEstimatorReport energies s
  | .telemetryUpdate t => Sys2Proof.Machine.execTelemetryUpdate t s
  | .peakLimiter => Sys2Proof.Machine.execPeakLimiter s
  | .quota p => Sys2Proof.Machine.execQuota p s
  | .avsbusAck rail => Sys2Proof.Machine.execAvsbusAck rail s
  | .avsNoack rail => Sys2Proof.Machine.execAvsNoack rail s
  | .avsLoop h up => Sys2Proof.Machine.execAvsLoop h up s
  | .p1Entry => Sys2Proof.Machine.execP1Entry s
  | .p1Wake => Sys2Proof.Machine.execP1Wake s
  | .p2Entry failing => Sys2Proof.Machine.execP2Entry failing s
  | .p2Exit failing => Sys2Proof.Machine.execP2Exit failing s
  | .p3Entry failing => Sys2Proof.Machine.execP3Entry failing s
  | .p3Exit b => Sys2Proof.Machine.execP3Exit b s
  | .wakeReplay => Sys2Proof.Machine.execWakeReplay s
  | .napEntry h => Sys2Proof.Machine.execNapEntry h s
  | .supplySag vinMin => Sys2Proof.Machine.execSupplySag vinMin s
  | .sagRecovery b => Sys2Proof.Machine.execSagRecovery b s
  | .lockout => Sys2Proof.Machine.execLockout s
  | .coldBringUp b => Sys2Proof.Machine.execColdBringUp b s
  | .warmBringUp b => Sys2Proof.Machine.execWarmBringUp b s
  | .crystalTimeout => Sys2Proof.Machine.execCrystalTimeout s
  | .romStart entropy flashError => Sys2Proof.Machine.execRomStart entropy flashError s
  | .fuseBurn => Sys2Proof.Machine.execFuseBurn s
  | .fence u => Sys2Proof.Machine.execFence u s
  | .linkDetect n t => Sys2Proof.Machine.execLinkDetect n t s
  | .linkTrainingTimeout n => Sys2Proof.Machine.execLinkTrainingTimeout n s
  | .linkRetry n => Sys2Proof.Machine.execLinkRetry n s
  | .linkRetrain n cause t => Sys2Proof.Machine.execLinkRetrain n cause t s
  | .linkRateReturn n t => Sys2Proof.Machine.execLinkRateReturn n t s
  | .dataFlit n flit errs => Sys2Proof.Machine.execDataFlit n flit s errs
  | .nak n flit errs => Sys2Proof.Machine.execNak n flit s errs
  | .replayTimer n => Sys2Proof.Machine.execReplayTimer n s
  | .credit n flit errs => Sys2Proof.Machine.execCredit n flit errs s
  | .ident n flit errs => Sys2Proof.Machine.execIdent n flit s errs
  | .rdReq n => Sys2Proof.Machine.execRdReq n s
  | .wrReq n => Sys2Proof.Machine.execWrReq n s
  | .rdRsp n => Sys2Proof.Machine.execRdRsp n s
  | .wrAck n => Sys2Proof.Machine.execWrAck n s
  | .nakRsp n => Sys2Proof.Machine.execNakRsp n s
  | .timesync => Sys2Proof.Machine.execTimesync s
  | .timesyncAnswer n flit errs => Sys2Proof.Machine.execTimesyncAnswer n flit errs s
  | .timesyncLoss => Sys2Proof.Machine.execTimesyncLoss s
  | .syncIn => Sys2Proof.Machine.execSyncIn s
  | .syncOutPulse => Sys2Proof.Machine.execSyncOutPulse s
  | .syncInLoss => Sys2Proof.Machine.execSyncInLoss s
  | .refclkLoss => Sys2Proof.Machine.execRefclkLoss s
  | .refclkReturn => Sys2Proof.Machine.execRefclkReturn s
  | .mode value => Sys2Proof.Machine.execMode value s
  | .loadArm value => Sys2Proof.Machine.execLoadArm value s
  | .dbgChallenge nonce => Sys2Proof.Machine.execDbgChallenge nonce s
  | .dbgResponse r => Sys2Proof.Machine.execDbgResponse r s
  | .dbgChallengeExpiry => Sys2Proof.Machine.execDbgChallengeExpiry s
  | .dieBist defects => Sys2Proof.Machine.execDieBist defects s
  | .loopback => Sys2Proof.Machine.execLoopback s
  | .trainReport ports => Sys2Proof.Machine.execTrainReport ports s
  | .clearFaults => Sys2Proof.Machine.execClearFaults s
  | .capability => Sys2Proof.Machine.execCapability s
  | .statusWord => Sys2Proof.Machine.execStatusWord s
  | .statusTemperature => Sys2Proof.Machine.execStatusTemperature s
  | .readVin => Sys2Proof.Machine.execReadVin s
  | .readIin => Sys2Proof.Machine.execReadIin s
  | .readTemperature1 => Sys2Proof.Machine.execReadTemperature1 s
  | .readTemperature2 => Sys2Proof.Machine.execReadTemperature2 s
  | .readTemperature3 => Sys2Proof.Machine.execReadTemperature3 s
  | .readPin => Sys2Proof.Machine.execReadPin s
  | .pmbusRevision => Sys2Proof.Machine.execPmbusRevision s
  | .mfrId => Sys2Proof.Machine.execMfrId s
  | .mfrModel => Sys2Proof.Machine.execMfrModel s
  | .mfrWake => Sys2Proof.Machine.execMfrWake s
  | .mfrPkgState => Sys2Proof.Machine.execMfrPkgState s
  | .mfrEnergy => Sys2Proof.Machine.execMfrEnergy s
  | .mfrBootStatus => Sys2Proof.Machine.execMfrBootStatus s
  | .mfrEffCap => Sys2Proof.Machine.execMfrEffCap s
  | .mfrHotDram => Sys2Proof.Machine.execMfrHotDram s
  | .smbusBadTransaction why => Sys2Proof.Machine.execSmbusBadTransaction why s
  | .creditReturn n => Sys2Proof.Machine.execCreditReturn n s
  | .idleFlit n flit errs => Sys2Proof.Machine.execIdleFlit n flit errs s
  | .timesyncReceive n flit errs => Sys2Proof.Machine.execTimesyncReceive n flit s errs
  | .msixVectorUnmask f v => Sys2Proof.Machine.execMsixVectorUnmask f v s
  | .noPartnerTimeout n => Sys2Proof.Machine.execNoPartnerTimeout n s

end Sys2Proof.Machine
end

