-- ==== Sys2Proof/Machine/Registers.lean ====
section
/-! DEFINITION. What a host read of a register gives, and what it clears (R9, R10, R12, R298, R490-R494).  The table of
commands has a row for MB_D2H and for bad accesses alone, so no command performs these reads (log 9). -/

namespace Sys2Proof.Machine

/-! ### The status mirror (files 17, 18, 19, 21) -/

/-- LEDGER_CAP. -/
def State.ledgerCap (s : State) : Nat :=
  tc 16 s.ledger.freeboard * 2 ^ 32 + s.ledger.source * 2 ^ 16 + s.ledger.effCap % 2 ^ 16

/-- THERM_STATUS. -/
def State.thermStatus (s : State) : Nat :=
  let t := s.thermal
  t.flags * 2 ^ 40 + t.hotDram * 2 ^ 30 + t.hotLogic * 2 ^ 20 + t.outlet * 2 ^ 10 + t.inlet

/-- PKG_PWR_STATUS. -/
def State.pwrStatus (s : State) : Nat :=
  let p := s.power
  p.pkg.code * 2 ^ 62 + b2n p.entering.isSome * 2 ^ 61 + b2n p.exiting * 2 ^ 60 + b2n p.sagSeen * 2 ^ 59
    + b2n p.lastAborted * 2 ^ 58 + p.lastTarget * 2 ^ 56 + p.lastRefuser

/-- States of a half-die as HD_PWR_STATE codes them (R389). -/
def HdState.code : HdState → Nat
  | .off => 0
  | .nap => 1
  | .idle => 2
  | .active => 3

/-- HD_PWR_STATE. -/
def State.hdPwrState (s : State) : Nat := sumOf ((List.range 24).map fun h => (s.halfDie h).power.code * 2 ^ (2 * h))

/-- SUPPLY_STATUS. -/
def State.supplyStatus (s : State) : Nat := s.power.iin % 2 ^ 16 * 2 ^ 32 + s.power.vinMin % 2 ^ 16 * 2 ^ 16 + s.power.vin % 2 ^ 16

/-- LINK_UP_LO and LINK_UP_HI: bit i is link `first` + i. -/
def State.linksUp (s : State) (first n : Nat) : Nat :=
  sumOf ((List.range n).map fun i => b2n ((s.link (first + i)).state == .up) * 2 ^ i)

/-- BASIN_CFG: INTLV is 0 for PKG. -/
def State.basinCfg (s : State) (b : Nat) : Nat := b2n (!s.intlvPkg) * 2 ^ 4 + (s.basin b).cacheSteps

/-- ACC_ERR with its count. -/
def AccErr.word (a : AccErr) : Nat := a.count * 2 ^ 48 + a.func * 2 ^ 40 + a.kind * 2 ^ 38 + b2n a.bar2 * 2 ^ 37 + a.offset

/-! ### Channels and engines (file 13) -/

def ChanState.code : ChanState → Nat
  | .disabled => 0
  | .active => 1
  | .waiting => 2
  | .halted => 3

/-- A channel's registers by offset, as read: ENABLE reads 1 while the channel is not DISABLED. -/
def DmaCh.read (c : DmaCh) (o : Nat) : Nat :=
  match o with
  | 0x00 => c.base + b2n c.dev
  | 0x08 => b2n (c.state != .disabled) * 2 ^ 63 + c.vector * 2 ^ 48 + c.timeoutMs * 2 ^ 16 + c.size
  | 0x10 => c.head * 2 ^ 32 + c.tail
  | 0x18 => c.state.code * 2 ^ 62 + b2n c.ownStall * 2 ^ 61 + b2n c.dir * 2 ^ 60 + b2n c.engStop * 2 ^ 59
      + c.code.code * 2 ^ 40 + c.held
  | 0x20 => c.errAddr
  | 0x40 => c.polder * 2 ^ 8 + c.func
  | 0x48 => c.edgeLo
  | 0x50 => c.edgeHi
  | _ => 0

/-- A read of a channel's register: HELD is cleared by it. -/
def State.readChan (s : State) (ch o : Nat) : State × Nat :=
  (if o == 0x18 then s.onChan ch fun c => { c with held := 0 } else s, (s.chan ch).read o)

/-! ### The mailbox page (file 15) -/

/-- MB_STATUS. -/
def Func.mbStatus (x : Func) : Nat :=
  b2n x.domainOff * 2 ^ 15 + b2n x.d2hCollision * 2 ^ 14 + b2n x.collision * 2 ^ 13 + x.d2h.length * 2 ^ 8 + (16 - x.h2d.length)

/-- MB_CTL. -/
def Func.mbCtl (x : Func) : Nat := b2n x.d2hIrq * 2 ^ 31 + x.fgVector * 2 ^ 16 + x.mbVector

/-- FG_STATUS and FG_PF_STATUS. -/
def FgStatus.word (g : FgStatus) : Nat :=
  b2n g.busy * 2 ^ 63 + b2n g.drained * 2 ^ 62 + b2n g.jobEnded * 2 ^ 61 + g.polder * 2 ^ 56 + g.status.code * 2 ^ 48
    + g.elapsedUs % 2 ^ 32

/-- A doubleword of an MSI-X table, then of its pending bits, by the offset from the table (R303). -/
def Func.msixWord (x : Func) (o tableBytes : Nat) : Nat :=
  if o < tableBytes then
    let e : Msix := Sparse.get {} x.msix (o / 16)
    match o % 16 / 4 with
    | 0 => e.addr % 2 ^ 32
    | 1 => e.addr / 2 ^ 32
    | 2 => e.data
    | _ => b2n e.masked
  else sumOf ((List.range 32).map fun i => b2n (Sparse.get {} x.msix (8 * (o - tableBytes) + i) : Msix).pending * 2 ^ i)

/-- One or two doublewords. -/
def Func.msixRead (x : Func) (o size tableBytes : Nat) : Nat :=
  sumOf ((List.range (size / 4)).map fun i => x.msixWord (o + 4 * i) tableBytes * 2 ^ (32 * i))

/-! ### Whole reads -/

/-- A whole read of a BAR0 register: write-only fields read 0, and counts that a read clears are cleared. -/
def State.readBar0 (s : State) (o size : Nat) : State × Nat :=
  if 0x200 ≤ o && o < 0x220 then (s, nth 0 s.bar4Win ((o - 0x200) / 8))
  else if 0x300 ≤ o && o < 0x3C0 then (s, s.vfPolder ((o - 0x300) / 8 + 1))
  else if 0x4010 ≤ o && o < 0x4030 then (s, s.basinCfg ((o - 0x4010) / 8))
  else if 0x20000 ≤ o && o < 0x22040 then (s, (s.func 0).msixRead (o - 0x20000) size 0x2000)
  else if 0x1000000 ≤ o && o < 0x1008000 then s.readChan ((o - 0x1000000) / 0x80) (o % 0x80)
  else if 0x1008000 ≤ o && o < 0x1008040 then
    let e := s.engine ((o - 0x1008000) / 0x10)
    (s, if o % 0x10 == 0 then b2n e.stopped * 2 + b2n e.stopAll else e.errAddr)
  else match o with
    | 0x0000 => (s, s.idWord)
    | 0x0008 => (s, s.revWord)
    | 0x1008 => (s, (s.func 0).fg.word)
    | 0x1010 => (s, (s.func 0).fgRecAddr)
    | 0x3000 => (s, s.energyUj mModule)
    | 0x3008 => (s, s.ledgerCap)
    | 0x3100 => (s, s.thermStatus)
    | 0x3200 => (s, b2n s.power.hold * 2 ^ 31)
    | 0x3208 => (s, s.pwrStatus)
    | 0x3210 => ({ s with power := { s.power with replays := 0, aborted := 0, refused := 0 } },
        s.power.replays * 2 ^ 48 + s.power.aborted * 2 ^ 32 + s.power.refused)
    | 0x3218 => (s, s.hdPwrState)
    | 0x3220 => (s, s.supplyStatus)
    | 0x3300 => (s, s.bootStatus)
    | 0x3400 => (s, s.linksUp 0 64)
    | 0x3408 => (s, s.linksUp 64 32)
    | 0x3500 => (s, s.secStatus)
    | 0x3600 => (s, s.time.dev)
    | 0x3608 => (s, s.time.aon)
    | 0x3610 => (s, s.time.ctl)
    | 0x3618 => (s, s.time.load)
    | 0x4000 => ({ s with accErr := { s.accErr with count := 0 } }, s.accErr.word)
    | _ => (s, 0)

/-- A whole read of a register of a function's BAR2 page, but for MB_D2H, which a row of the table reads. -/
def State.readBar2 (s : State) (f o size : Nat) : State × Nat :=
  match o with
  | 0x10 => (s, (s.func f).mbStatus)
  | 0x20 => (s, (s.func f).mbCtl)
  | 0x30 => (s, (s.func f).fg.word)
  | 0x38 => (s, (s.func f).fgRecAddr)
  | _ =>
    if 0x400 ≤ o && o < 0x800 then (s, (s.func f).msixRead (o - 0x400) size 0x400)
    else if 0x3F8 ≤ o && o < 0x400 then (s, (s.func f).msixRead (o - 0x3F8 + 0x400) size 0x400)
    else if 0x800 ≤ o then match s.windowChan f ((o - 0x800) / 0x40) with
      | some ch => s.readChan ch (o % 0x40)
      | none => (s, 0)
    else (s, 0)

/-- A host read of a register: a whole one reads it in one operation (R490), any other reads 0 and is logged (R12,
R298). -/
def State.readRegister (s : State) (f bar o size : Nat) : State :=
  match s.accessKind f bar o size with
  | some k => { s.accessError f k (bar == 2) o with reply := .data (zeros size) }
  | none =>
    if bar == 2 && o == 8 then s.readD2H f
    else
      let r := if bar == 2 then s.readBar2 f o size else s.readBar0 o size
      { r.1 with reply := .data (leBytes size r.2) }

end Sys2Proof.Machine
end

