-- ==== Sys2Proof/Safety.lean ====
section
/-! DEFINITION. What statements are made of: a command that completes, and the canonical form of the module's memories. -/

namespace Sys2Proof.Machine

/-- The command completes: it answers a next state, and `P` holds of it. -/
def Answers (c : Instr) (s : State) (P : State → Prop) : Prop := ∃ t, exec c s = .next t ∧ P t

/-- The three byte memories of the module and its surroundings are in their canonical form, so that equal memories are
equal data. -/
def State.Canonical (s : State) : Prop := s.hostMem.wf = true ∧ s.ucm.wf = true ∧ s.edge.wf = true

/-- Burns are irreversible (R460): the floor is never lower, no revocation is taken back, and no other fuse differs. -/
def Fuses.Grows (a b : Fuses) : Prop :=
  b = { a with svnFloor := b.svnFloor, revoked := b.revoked } ∧ a.svnFloor ≤ b.svnFloor
    ∧ a.revoked ||| b.revoked = b.revoked

/-- `t` differs from `s` in no unit but the registers of function `f` and the answer to the host. -/
def State.OnlyFunc (s : State) (f : Nat) (t : State) : Prop :=
  t = { s with funcs := t.funcs, reply := t.reply } ∧ ∀ g, g ≠ f → t.func g = s.func g

/-- `t` differs from `s` only in what sending records, events and short words touches: the functions' registers, host
memory, the messages sent and the error log. -/
def State.OnlySends (s t : State) : Prop :=
  t = { s with funcs := t.funcs, hostMem := t.hostMem, msixSent := t.msixSent, log := t.log }

/-- The oldest message that waits for a function is a command that firmware takes now: `mine` recognises it by opcode
and A1, its block can be read, fewer than 64 completions are held (R329), and it passes the checks of R333.  `c` is the command, `u` the state without the
message. -/
def State.Takes (s : State) (f : Nat) (mine : Nat → Nat → Bool) (c : Cmd) (u : State) : Prop :=
  ∃ m rest, (s.func f).inbox = m :: rest ∧ s.mailOpen f = true ∧ mine m.opc m.a1 = true
    ∧ (m.block = true → (s.func f).bme = true) ∧ (s.func f).stuffed = false ∧ u = s.onFunc f (fun x => { x with inbox := rest })
    ∧ u.checked f m = .ok c

/-- `Takes` for a command that its opcode alone selects. -/
def State.TakesOp (s : State) (f opc : Nat) (c : Cmd) (u : State) : Prop := s.Takes f (fun o _ => o == opc) c u

/-- It is the turn of an S-core in this slot, and its next instruction is `i`, read from the word `w` of `len` bytes. -/
abbrev State.Executes (s : State) (core : Nat) (i : Rv) (len w : Nat) : Prop :=
  s.turn core = true ∧ s.fetched core = .instr i len w

/-- `t` differs from `s` only in one S-core, which has become `x`. -/
def State.ScoreIs (s : State) (core : Nat) (x : SCore) (t : State) : Prop :=
  t.score core = x ∧ (∀ k, k ≠ core → t.score k = s.score k) ∧ t = { s with scores := t.scores }

/-- `t` differs from `s` only in one S-core and its cluster, which have become `x` and `c`. -/
def State.ScoreAndClusterAre (s : State) (core : Nat) (x : SCore) (c : Cluster) (t : State) : Prop :=
  t.score core = x ∧ (∀ k, k ≠ core → t.score k = s.score k) ∧ t.cluster (clusterOf core) = c
    ∧ (∀ k, k ≠ clusterOf core → t.cluster k = s.cluster k) ∧ t = { s with scores := t.scores, clusters := t.clusters }

end Sys2Proof.Machine
end

