-- ==== Sys2Proof/Certificates/Slice0/Obligations.lean ====
section
/-! DEFINITION. The statements about the module, for the provers. -/

open Sys2Proof Sys2Proof.Machine

/-- For every command c and state s: a step of s with c at the front of its queue is exec of c on s with the rest of the
queue. (opcode_table.json) -/
def Obligations.StepRunsTheFrontCommand : Prop :=
  ∀ (c : Instr) (rest : List Instr) (s : State),
    step { s with pending := c :: rest } = exec c { s with pending := rest }

/-- The model's choice (assumption log 3): a step on an empty queue lets one 10 ns tick pass. It changes nothing but the
clocks and the tide counters of polders that run no job and of free half-dies, and while the AON domain has supply
outside P3, the reference clock runs and no offset is being slewed, DEV_TIME has counted one.
(23_clocks_timers_timeouts.md) -/
def Obligations.IdleStepIsOneTick : Prop :=
  ∀ s : State, s.pending = [] → ∃ t, step s = .next t
    ∧ t = { s with time := t.time, polders := t.polders, halfDies := t.halfDies }
    ∧ (∀ n, t.polder n = { s.polder n with
        tide := (t.polder n).tide
        tidePart := (t.polder n).tidePart
        markDue := (t.polder n).markDue
        atMark := (t.polder n).atMark })
    ∧ (∀ n, (s.polder n).state = .running → t.polder n = s.polder n)
    ∧ (∀ h, t.halfDie h = { s.halfDie h with
        tide := (t.halfDie h).tide
        tidePart := (t.halfDie h).tidePart
        markDue := (t.halfDie h).markDue })
    ∧ (∀ h, s.polderOf h ≠ 31 → t.halfDie h = s.halfDie h)
    ∧ (s.power.aon = true → s.power.pkg ≠ .p3 → s.time.refclk = true → s.time.slew = 0 →
        t.time.dev = s.time.dev + 1)

/-- In the reset state: the three byte memories are in canonical form; CAP_SET values are 4,800 W, 6,000 W and 125 A; no
polder has a quota; every VF_MAP entry is NONE; no half-die belongs to a polder and every polder is absent; HOLD of
PKG_PWR_CTL is 0; no function has a mailbox word waiting or a ring; COOLANT_HOLD is clear; DEV_TIME is 0; every DMA
channel is DISABLED; the queue of commands is empty. (15_mailboxes_and_floodgate.md, 17_energy_ledger.md,
19_power_domains_and_supply.md, 07_polders_and_sluices.md, 13_dma_engine.md) -/
def Obligations.ResetValues : Prop :=
  State.reset.Canonical ∧ State.reset.pending = []
    ∧ State.reset.ledger.cap = 4800 ∧ State.reset.ledger.peak = 6000 ∧ State.reset.ledger.current = 125
    ∧ (∀ n, Sparse.get 0 State.reset.ledger.quotas n = 0)
    ∧ (∀ v, State.reset.vfPolder v = 31)
    ∧ (∀ n, (State.reset.polder n).state = .none) ∧ (∀ h, State.reset.polderOf h = 31)
    ∧ State.reset.power.hold = false ∧ State.reset.thermal.coolantHold = false ∧ State.reset.time.dev = 0
    ∧ (∀ f, (State.reset.func f).h2d = [] ∧ (State.reset.func f).d2h = [] ∧ (State.reset.func f).ring = none)
    ∧ (∀ ch, (State.reset.chan ch).state = .disabled)

/-- For every state whose three byte memories are in canonical form: if a step answers a next state, its memories are in
canonical form. (08_under_core_memory.md, 09_edge_stacks_and_basin.md, 14_host_interface.md) -/
def Obligations.StepKeepsCanonicalForm : Prop :=
  ∀ s t : State, s.Canonical → step s = .next t → t.Canonical

/-- Burns are irreversible: after every step SVN_FLOOR is at least what it was, every key that was revoked is revoked, and
every other fuse is as it was. (22_trust_and_attestation.md) -/
def Obligations.FuseBurnsAreIrreversible : Prop :=
  ∀ s t : State, s.Canonical → step s = .next t → s.fuses.Grows t.fuses

/-- Every command answers a next state in every state. Where the spec gives a row no effect, in states in which it cannot
happen, the next state is the model's choice: the command does nothing (assumption logs 1 and 8). From a state whose
memories are in canonical form no command adds a command to the queue or removes one. (opcode_table.json) -/
def Obligations.EveryCommandAnswersANextState : Prop :=
  ∀ (c : Instr) (s : State), ∃ t, exec c s = .next t ∧ (s.Canonical → t.pending = s.pending)

/-- While a function's mailbox is served: a write to MB_H2D appends the word, or replaces the newest and sets COLLISION
where 16 words wait; a read of MB_D2H takes the oldest word, with its sender and VALID, and reads 0 where none waits;
a write to MB_DOORBELL raises one notification if RING is 1 and otherwise none. While the management domain is off,
both writes are dropped, DOMAIN_OFF is set and an AER non-fatal error is signalled, and the read completes with
Completer Abort. Nothing else changes. (15_mailboxes_and_floodgate.md) -/
def Obligations.MailboxWordsInOrder : Prop :=
  (∀ (s : State) (f : Nat), s.mailOpen f = true →
    (∀ w : Word, Answers (.mbH2D f w) s fun t => s.OnlyFunc f t ∧ t.reply = .done ∧
      t.func f = if (s.func f).h2d.length < 16 then { s.func f with h2d := (s.func f).h2d ++ [w] }
        else { s.func f with h2d := (s.func f).h2d.take 15 ++ [w], collision := true, h2dLost := true })
    ∧ ((s.func f).d2h = [] → exec (.mbD2H f) s = .next { s with reply := .data (leBytes 8 0) })
    ∧ (∀ from_ w rest, (s.func f).d2h = (from_, w) :: rest → Answers (.mbD2H f) s fun t => s.OnlyFunc f t ∧
        t.reply = .data (leBytes 8 (w.toNat + from_ * 2 ^ 32 + 2 ^ 63)) ∧ t.func f = { s.func f with d2h := rest })
    ∧ (∀ v : Word, Answers (.mbDoorbell f v) s fun t => s.OnlyFunc f t ∧ t.reply = .done ∧
        t.func f = { s.func f with notified := (s.func f).notified || bit v.toNat 0 }))
  ∧ ∀ (s : State) (f : Nat) (w : Word), s.power.management = false →
    (∀ c, c = Instr.mbH2D f w ∨ c = .mbDoorbell f w → Answers c s fun t =>
      t = { s with funcs := t.funcs, aerErrors := s.aerErrors + 1, reply := .done }
        ∧ t.func f = { s.func f with domainOff := true } ∧ ∀ g, g ≠ f → t.func g = s.func g)
    ∧ exec (.mbD2H f) s = .next { s with reply := .completerAbort }

/-- A notification, or at the latest the poll, takes every waiting word of a function. When no word was lost, no words are
held from before and fewer than 64 completions are held: if the words spell one new message (a header and its LEN
words) the command waits in the inbox behind what waited, is remembered under its TAG and OPC, and the queue is empty.
1 ms after a header whose words have not all arrived, the held words are discarded and the command completes with
TIMEOUT under the header's TAG, and is remembered unless a command is remembered under that TAG and OPC.
(15_mailboxes_and_floodgate.md, 16_firmware_commands.md) -/
def Obligations.FirmwareTakesWaitingWords : Prop :=
  ∀ (s : State) (f : Nat) (h : Word) (args : List Word), s.mailOpen f = true →
    ((s.func f).h2d = h :: args → args.length = bits h.toNat 0 4 → (s.func f).partialWords = [] →
      (s.func f).h2dLost = false → (s.func f).heldCompletions < 64 → (s.func f).tags.length < 64 →
      (∀ m ∈ (s.func f).tags, ¬(m.tag = bits h.toNat 16 16 ∧ m.opc = bits h.toNat 8 8)) →
      let taken : Func := { s.func f with
        h2d := [], h2dLost := false, partialWords := []
        tags := (s.func f).tags ++ [⟨bits h.toNat 16 16, bits h.toNat 8 8, none⟩]
        inbox := (s.func f).inbox ++ [⟨bits h.toNat 16 16, bits h.toNat 8 8, bits h.toNat 4 4, args⟩] }
      ((s.func f).notified = true → Answers (.firmwareNotification f) s fun t =>
        t = { s with funcs := t.funcs } ∧ t.func f = { taken with notified := false } ∧ ∀ g, g ≠ f → t.func g = s.func g)
      ∧ (f < 25 → (∀ g, g ≠ f → (s.func g).h2d = []) → Answers .mailboxPoll s fun t =>
          t = { s with funcs := t.funcs, board := t.board, boardLost := t.boardLost, boardErrors := t.boardErrors, log := t.log }
            ∧ t.func f = taken ∧ ∀ g, g ≠ f → t.func g = s.func g))
    ∧ ((s.func f).partialWords = h :: args →
      let tag := bits h.toNat 16 16
      let opc := bits h.toNat 8 8
      let a : Answer := { status := .timeout }
      let ended (tags : List TagEntry) : State := (s.onFunc f fun x => { x with partialWords := [], tags := tags }).post f tag opc (bit h.toNat 5) a
      ((∃ m ∈ (s.func f).tags, m.tag = tag ∧ m.opc = opc) → exec (.partialMessageTimeout f) s = .next (ended (s.func f).tags))
      ∧ ((∀ m ∈ (s.func f).tags, ¬(m.tag = tag ∧ m.opc = opc)) → (s.func f).tags.length < 64 →
        exec (.partialMessageTimeout f) s = .next (ended ((s.func f).tags ++ [⟨tag, opc, some (a.record tag opc)⟩]))))

/-- When firmware completes a command of a function that has a ring, with Bus Master Enable set, nothing else due, room in
the ring and a record address that answers: the 32 B record with the ring's PHASE stands at ADDR + 32 × index in host
memory, every other byte of host memory is as before, the index advances and wraps after SIZE − 1 with PHASE flipped,
and the command is remembered with its record. Completing a command changes nothing but the function's own registers
and ring state, host memory, the messages sent and the error log. After TAG_MEMORY_EXPIRY of a TAG and OPC no
completed command is remembered under them, and every other remembered command still is. At RING_REREAD firmware,
while it runs, writes what is due on the function's ring as far as the ring has room. (16_firmware_commands.md) -/
def Obligations.CompletionRecordIsWritten : Prop :=
  ∀ (s : State) (f tag opc : Nat) (notify : Bool) (a : Answer),
    let rec_ := recordBytes tag opc a.status.code 0 a.polder a.r0 a.r1 a.outBytes a.detail
    let t := s.complete f tag opc notify a
    (∀ r : Ring, (s.func f).ring = some r → r.full = false → (s.func f).bme = true → (s.func f).due = [] →
      s.hostOk f (r.addr + 32 * r.next) 32 = true →
      t.hostMem.read (r.addr + 32 * r.next) 32 = withPhase r.phase rec_
        ∧ (∀ k, k < r.addr + 32 * r.next ∨ r.addr + 32 * r.next + 32 ≤ k → t.hostMem.byte k = s.hostMem.byte k)
        ∧ (t.func f).ring = some r.advance ∧ (t.func f).due = []
        ∧ (t.func f).tags = (s.func f).tags.map fun m =>
            if m.tag = tag ∧ m.opc = opc ∧ m.record = none then { m with record := some rec_ } else m)
    ∧ s.OnlySends t ∧ (∀ g, g ≠ f → t.func g = s.func g)
    ∧ Answers (.tagMemoryExpiry f tag opc) s (fun t => s.OnlyFunc f t ∧
      t.func f = { s.func f with tags := (t.func f).tags } ∧
      ∀ m : TagEntry, m ∈ (t.func f).tags ↔ m ∈ (s.func f).tags ∧ ¬(m.tag = tag ∧ m.opc = opc ∧ m.record.isSome = true))
    ∧ (s.trust.running = true → exec (.ringReread f) s = .next (s.flush f))

/-- When the oldest message of a function of which fewer than 64 completions are held names a command but fails a check of
R333, the command leaves the inbox and completes with the status of the first check that fails, and none of the
command's effect happens (said here of 23 commands that their opcode alone selects). A message whose opcode no row of
the command table has completes with BAD_OPCODE; one whose sub-operation or TARGET no row has completes with
FORMAT_UNSUPPORTED. (16_firmware_commands.md) -/
def Obligations.RefusedCommandChangesNothing : Prop :=
  ∀ (s : State) (f : Nat) (m : Msg) (rest : List Msg) (st : Status),
    (s.func f).inbox = m :: rest → s.mailOpen f = true → (m.block = true → (s.func f).bme = true) →
    (s.func f).heldCompletions < 64 →
    let u := s.onFunc f fun x => { x with inbox := rest }
    (∀ x ∈ [(0x02, Instr.getStatus f), (0x10, .polderCreate f []), (0x11, .polderDestroy f), (0x12, .polderReset f []),
        (0x20, .scheduleLoad f), (0x21, .scheduleUnload f), (0x22, .jobRun f), (0x23, .jobCancel f),
        (0x24, .contextSave f), (0x25, .contextRestore f), (0x32, .kvSpaceConfig f), (0x40, .capSet f),
        (0x41, .quotaSet f), (0x42, .ledgerRead f), (0x43, .thermalPolicySet f), (0x44, .loopBoundsSet f),
        (0x51, .linkStatus f), (0x60, .attest f), (0x61, .identityCertRead f), (0x62, .firmwareStage f),
        (0x70, .logRead f), (0x71, .repairStage f), (0x72, .repairCommit f)],
      m.opc = x.1 → u.checked f m = .error st →
        exec x.2 s = .next (u.complete f m.tag m.opc (bit m.flags 1)
          { status := st, polder := namedPolder m.opc m.inline_ }))
    ∧ (shapeOf m.opc m.a1 = none → s.trust.running = true →
        exec (.badOpcode f) s = .next (u.complete f m.tag m.opc (bit m.flags 1)
          { status := .badOpcode, polder := namedPolder m.opc m.inline_ }))
    ∧ (∀ c, (∃ sh, shapeOf m.opc m.a1 = some sh ∧ sh.words = none) → u.checked f m = .ok c →
        exec (.badOpcode f) s = .next (u.refuse c .formatUnsupported))

/-- A HELLO that passes the checks, whose SIZE is not 0, whose ring is 64 B aligned and CONS_ADDR 8 B aligned, and whose
vectors the function has, gives the function a ring at index 0 with PHASE 1, replacing an earlier one, and is answered
with its three words; the event of a critical record due since a supply sag follows the PF's first HELLO.
(16_firmware_commands.md) -/
def Obligations.HelloCreatesTheRing : Prop :=
  ∀ (s u : State) (f : Nat) (c : Cmd), s.TakesOp f 0x01 c u → s.trust.running = true →
    bits (c.a 3) 0 16 ≠ 0 → c.a64 1 % 64 = 0 → c.a64 5 % 8 = 0 →
    bits (c.a 3) 16 9 < vectorsOf f → bits (c.a 4) 0 9 < vectorsOf f →
    let r : Ring :=
      { addr := c.a64 1
        size := bits (c.a 3) 0 16
        vector := bits (c.a 3) 16 9
        eventVector := bits (c.a 4) 0 9
        consAddr := c.a64 5
        next := 0
        cons := 0
        phase := true }
    let v := (u.onFunc f fun x => { x with ring := some r }).helloAnswer c .ok
    (f ≠ 0 ∨ s.recordDue = false → exec (.hello f) s = .next v)
      ∧ (f = 0 → s.recordDue = true → exec (.hello f) s = .next ({ v with recordDue := false }.event 0xFFFF 0 0 0x0A))

/-- POLDER_CREATE for a rectangle inside the 12 by 2 half-dies, all of whose half-dies are free and not shut down and have
rows, outside COOLANT_HOLD and P2, makes the lowest free polder number an EMPTY polder of that rectangle whose row
count is the smallest of its half-dies, with the command still to complete at the tide mark; every half-die of it has
exactly the dike masks that face its border; a half-die of it that slept is IDLE, and the rail of one that is OFF is
requested; no other polder and no half-die outside changes, and no memory, channel, link or job does. At the tide
mark, once every half-die of it has its rail, the command completes OK with the shape class and the number.
(07_polders_and_sluices.md, 16_firmware_commands.md) -/
def Obligations.PolderCreateMakesAnEmptyPolder : Prop :=
  (∀ (s u : State) (f : Nat) (c : Cmd) (offers : List Offer) (n : Nat), s.TakesOp f 0x10 c u →
    let p : Polder := { state := .empty, c0 := bits (c.a 1) 0 4, r0 := bits (c.a 1) 4 1, w := bits (c.a 1) 8 4, h := bits (c.a 1) 12 2 }
    let rows := (p.halfDies.map fun h => (s.halfDie h).rows).foldl min 28
    p.w ≠ 0 → p.h ≠ 0 → p.c0 + p.w ≤ 12 → p.r0 + p.h ≤ 2 →
    (∀ h ∈ p.halfDies, s.polderOf h = 31 ∧ s.dieShut h = false) → rows ≠ 0 →
    s.thermal.coolantHold = false → s.power.pkg ≠ .p2 →
    n < 24 → (s.polder n).state = .none → (∀ k < n, (s.polder k).state ≠ .none) →
    Answers (.polderCreate f offers) s fun t =>
      (t.polder n).state = .empty ∧ (t.polder n).c0 = p.c0 ∧ (t.polder n).r0 = p.r0 ∧ (t.polder n).w = p.w
        ∧ (t.polder n).h = p.h ∧ (t.polder n).rows = rows
        ∧ (t.polder n).command = some ⟨f, c.tag, c.opc, c.notify, 0, 0, false, false⟩ ∧ (t.polder n).job = none
        ∧ (∀ k, k ≠ n → t.polder k = s.polder k)
        ∧ (∀ h ∈ p.halfDies, (t.halfDie h).dikeN = decide (h / 12 = p.r0)
            ∧ (t.halfDie h).dikeS = decide (h / 12 + 1 = p.r0 + p.h) ∧ (t.halfDie h).dikeW = decide (h % 12 = p.c0)
            ∧ (t.halfDie h).dikeE = decide (h % 12 + 1 = p.c0 + p.w))
        ∧ (∀ h ∈ p.halfDies, (t.halfDie h).power = (if (s.halfDie h).power = .nap then .idle else (s.halfDie h).power)
            ∧ ((s.halfDie h).power = .off → t.rail h = (s.rail h).ask { up := true }))
        ∧ (∀ h, h ∉ p.halfDies → t.halfDie h = s.halfDie h)
        ∧ t = { s with polders := t.polders, halfDies := t.halfDies, ucmDies := t.ucmDies, narrowed := t.narrowed,
                       ledger := t.ledger, funcs := t.funcs, hostMem := t.hostMem, msixSent := t.msixSent, log := t.log,
                       board := t.board, boardLost := t.boardLost, boardErrors := t.boardErrors })
  ∧ ∀ (s : State) (p : Nat) (c : InFlight), (s.polder p).command = some c → c.opc = 0x10 → (s.polder p).state = .empty →
    (s.polder p).atMark = true → (∀ h ∈ (s.polder p).halfDies, (s.halfDie h).power ≠ .off) →
    exec (.polderCreateComplete p) s = .next ((s.onPolder p fun x => { x with command := none }).complete
      c.func c.tag c.opc c.notify { polder := p, r0 := shapeClass (s.polder p).c0 (s.polder p).w (s.polder p).h (s.polder p).rows, r1 := p })

/-- POLDER_DESTROY of a polder that its checks allow, that does not run and of which no job has reached slot 0 leaves no
polder of that number; its half-dies carry no dike mask and none is ACTIVE; every VF that was mapped to it is mapped
to NONE and every other VF as before; its quota is 0. No other polder changes. (07_polders_and_sluices.md) -/
def Obligations.PolderDestroyFreesItsHalfDies : Prop :=
  ∀ (s u : State) (f : Nat) (c : Cmd), s.TakesOp f 0x11 c u → u.polderFail (c.a 1) true = none →
    (s.polder (c.a 1)).state ≠ .running → (∀ j, (s.polder (c.a 1)).job = some j → j.phase ≠ .running) →
    Answers (.polderDestroy f) s fun t =>
      t.polder (c.a 1) = {}
        ∧ (∀ k, k ≠ c.a 1 → t.polder k = s.polder k)
        ∧ (∀ h ∈ (s.polder (c.a 1)).halfDies, (t.halfDie h).dikeN = false ∧ (t.halfDie h).dikeE = false
            ∧ (t.halfDie h).dikeS = false ∧ (t.halfDie h).dikeW = false ∧ (t.halfDie h).power ≠ .active)
        ∧ (∀ h, h ∉ (s.polder (c.a 1)).halfDies → t.halfDie h = s.halfDie h)
        ∧ (∀ v, s.vfPolder v = c.a 1 → t.vfPolder v = 31) ∧ (∀ v, s.vfPolder v ≠ c.a 1 → t.vfPolder v = s.vfPolder v)
        ∧ Sparse.get 0 t.ledger.quotas (c.a 1) = 0
        ∧ t.hostErr = s.hostErr ∧ t.ucm = s.ucm ∧ t.edge = s.edge ∧ t.links = s.links ∧ t.trust = s.trust

/-- POLDER_RESET of a polder that its checks allow and that no shut-down die is part of takes the polder to RESETTING with
the command still to complete; its hold requests are gone, its job has ended and no T-core, V-core or S-core of it
holds anything written. At the tide mark, once every half-die of it has its rail, the polder is EMPTY if it has no
image and LOADED otherwise, and the command completes with its state word. GET_STATUS of a polder number below 24
answers, unless the floodgate of a polder the function sees is in progress, with the block of R336: the package state,
the feature level and 24 records, of which a VF reads its own polder's and 0 in every other; of a polder a VF does not
see the results are 0 (the model's reading, log 37). While that floodgate is in progress it completes with BUSY, and a
number of 24 or more with BOUND. (07_polders_and_sluices.md, 16_firmware_commands.md) -/
def Obligations.PolderResetGoesThroughResetting : Prop :=
  (∀ (s u : State) (f : Nat) (c : Cmd) (offers : List Offer), s.TakesOp f 0x12 c u → u.polderFail (c.a 1) true = none →
    (∀ h ∈ (s.polder (c.a 1)).halfDies, s.dieShut h = false) →
    Answers (.polderReset f offers) s fun t =>
      (t.polder (c.a 1)).state = .resetting ∧ (t.polder (c.a 1)).holds = [] ∧ (t.polder (c.a 1)).job = none
        ∧ (t.polder (c.a 1)).command = some ⟨f, c.tag, c.opc, c.notify, 0, 0, false, false⟩
        ∧ (∀ core, (s.polder (c.a 1)).holds? (halfOf (clusterOf core)) = true → Sparse.get {} t.scores core = {}
            ∧ Sparse.get {} t.tcores core = {} ∧ Sparse.get {} t.vcores core = {} ∧ t.score core = {}
            ∧ t.tcore core = TCore.untouched (t.halfDie (halfOf (clusterOf core))) core
            ∧ t.vcore core = VCore.untouched (t.halfDie (halfOf (clusterOf core))) core))
  ∧ (∀ (s : State) (p : Nat) (c : InFlight), (s.polder p).command = some c → c.opc = 0x12 →
      (s.polder p).state = .resetting → (s.polder p).atMark = true →
      (∀ h ∈ (s.polder p).halfDies, (s.halfDie h).power ≠ .off) →
      let u := s.onPolder p fun x => { x with
        command := none, tide := 0, tidePart := 0, state := if x.image.isEmpty then .empty else .loaded }
      exec (.polderResetComplete p) s = .next (u.complete c.func c.tag c.opc c.notify { polder := p, r1 := u.stateWord p }))
  ∧ (∀ (s u : State) (f : Nat) (c : Cmd), s.TakesOp f 0x02 c u → c.a 1 < 24 →
      let sees (i : Nat) : Bool := f == 0 || s.vfPolder f == i
      let pkg := match s.power.pkg with
        | .p0 => 0
        | .p1 => 1
        | .p2 => 2
        | .p3 => 3
      let a : Answer := if sees (c.a 1) then { polder := c.a 1, r0 := (u.polder (c.a 1)).shape, r1 := u.stateWord (c.a 1) }
        else { polder := c.a 1, r0 := 0, r1 := 0 }
      let block := leBytes 1 pkg ++ leBytes 1 u.level ++ zeros 62 ++ (List.range 24).flatMap fun i =>
        if sees i then leBytes 8 (u.polder i).shape ++ leBytes 4 (u.stateWord i) ++ zeros 4
          ++ ((imgId (u.polder i).image) ++ zeros 8).take 8 ++ zeros 8 else zeros 32
      ((sees (c.a 1) = true → s.gated (c.a 1) = false) →
        exec (.getStatus f) s = .next (u.output c block a) ∧ (c.out = 0 → exec (.getStatus f) s = .next (u.answer c a)))
      ∧ (sees (c.a 1) = true → (s.polder (c.a 1)).exists_ = true → s.gated (c.a 1) = true →
        exec (.getStatus f) s = .next (u.refuse c .busy)))
  ∧ (∀ (s u : State) (f : Nat) (c : Cmd), s.TakesOp f 0x02 c u → 24 ≤ c.a 1 →
      exec (.getStatus f) s = .next (u.refuse c .bound))

/-- CAP_SET with a cap of 1,200 to 6,000 W, a peak of the cap to 6,000 W and a current of 30 to 150 A: the three values
stand, the supply cap is the lowest input voltage times the current, and the command completes OK with the effective
cap in RESULT0: once a first thermal update has given a thermal cap, and outside a supply sag, the smallest of the
cap, the thermal cap (held as a fraction) and the supply cap (held in mW), in whole watts (the model's reading, log
44). (17_energy_ledger.md) -/
def Obligations.CapTakesEffect : Prop :=
  ∀ (s u : State) (f : Nat) (c : Cmd), s.TakesOp f 0x40 c u → 1200 ≤ c.a 1 → c.a 1 ≤ 6000 → c.a 1 ≤ c.a 2 → c.a 2 ≤ 6000 →
    30 ≤ c.a 3 → c.a 3 ≤ 150 →
    let th := s.ledger.thermalCap
    let supply := s.power.vinMin * c.a 3
    Answers (.capSet f) s fun t => ∃ v : State, t = v.answer c { r0 := v.ledger.effCap }
      ∧ v.ledger.cap = c.a 1 ∧ v.ledger.peak = c.a 2 ∧ v.ledger.current = c.a 3
      ∧ v.ledger.supplyCap = supply
      ∧ v.ledger.effCap = (if s.ledger.capKnown = true ∧ s.power.sagHold = false then
            if c.a 1 * th.2 ≤ th.1 ∧ c.a 1 * 1000 ≤ supply then c.a 1
            else if th.1 * 1000 ≤ supply * th.2 then th.1 / th.2 else supply / 1000
          else s.ledger.effCap)
      ∧ v.ledger.quotas = s.ledger.quotas ∧ v.ucm = s.ucm ∧ v.edge = s.edge ∧ v.links = s.links

/-- After a planner run, once a first thermal update has given a thermal cap and outside a supply sag, the effective cap
is the smallest of the cap, the thermal cap and the supply cap, and CAP_SOURCE is the code of the first of them in the
order HOST 0, THERMAL 1, SUPPLY 2 that equals it. When a rail acknowledges its voltage request, the request queued
behind it is sent, an AVS offset it brought is in force, and if it was a raise with no newer raise queued, a polder
that waited for it waits for one rail less and, when it waits for none, changes to the wanted step at its next tide
mark; every other polder is as before. A half-die that was OFF reaches IDLE with it, its tide counter at 0 and its die
out of self-refresh. After 200 µs without an acknowledgement the request is gone, or stands again for a half-die that
is OFF (the model's choice, log 59), AVS_NOACK is counted, an error is logged, and a polder that waited for a raise of
the rail waits no longer, its job staying at the step in force. (17_energy_ledger.md, 19_power_domains_and_supply.md) -/
def Obligations.PlannerRunSetsTheEffectiveCap : Prop :=
  (∀ s : State, s.trust.running = true → s.ledger.capKnown = true → s.power.sagHold = false → Answers .plannerRun s fun t =>
      let th := s.ledger.thermalCap
      let host := s.ledger.cap * th.2 ≤ th.1 ∧ s.ledger.cap * 1000 ≤ s.ledger.supplyCap
      let heat := th.1 * 1000 ≤ s.ledger.supplyCap * th.2
      t.ledger.source = (if host then 0 else if heat then 1 else 2)
        ∧ t.ledger.effCap = (if host then s.ledger.cap else if heat then th.1 / th.2 else s.ledger.supplyCap / 1000)
        ∧ t.ledger.cap = s.ledger.cap ∧ t.ledger.peak = s.ledger.peak ∧ t.ledger.quotas = s.ledger.quotas
        ∧ t.ucm = s.ucm ∧ t.edge = s.edge ∧ t.thermal = s.thermal ∧ t.power = s.power)
  ∧ ∀ (s : State) (rail : Nat) (r : VoltReq), (s.rail rail).sent = some r →
    let next : Rail := { s.rail rail with sent := (s.rail rail).queued, queued := none }
    let newer := (s.rail rail).queued.any (·.raise)
    (24 ≤ rail ∨ (s.halfDie rail).power ≠ .off →
     (Answers (.avsbusAck rail) s fun t => t.rail rail = next ∧ (∀ k, k ≠ rail → t.rail k = s.rail k)
      ∧ (r.raise = true → newer = false → ∀ n < 24, rail ∈ (s.polder n).rails →
          let left := (s.polder n).rails.filter (· != rail)
          t.polder n = { s.polder n with
            rails := left, nextStep := if left.isEmpty then some (s.wantOf n) else (s.polder n).nextStep })
      ∧ (∀ n, rail ∉ (s.polder n).rails ∨ r.raise = false ∨ newer = true → t.polder n = s.polder n)
      ∧ t.halfDie rail = { s.halfDie rail with avs := r.avs.getD (s.halfDie rail).avs }
      ∧ (∀ h, h ≠ rail → t.halfDie h = s.halfDie h)
      ∧ t = { s with ledger := { s.ledger with rails := t.ledger.rails }, polders := t.polders, halfDies := t.halfDies })
     ∧ (Answers (.avsNoack rail) s fun t => t.rail rail = next ∧ (∀ k, k ≠ rail → t.rail k = s.rail k)
      ∧ (r.raise = true → ∀ n < 24, rail ∈ (s.polder n).rails → t.polder n = { s.polder n with
            rails := []
            job := (s.polder n).job.map fun j =>
              { j with step := min j.step ((s.polder n).step + (s.polder n).peakDown + (s.polder n).quotaDown) } })
      ∧ (∀ n, rail ∉ (s.polder n).rails ∨ r.raise = false → t.polder n = s.polder n)
      ∧ Sparse.get 0 t.ledger.counts cAvsNoack = satAdd 32 (Sparse.get 0 s.ledger.counts cAvsNoack) 1
      ∧ t.log = s.log ++ [⟨s.time.dev, 13, 0, 31, rail, 0, 0⟩]
      ∧ t = { s with ledger := { s.ledger with rails := t.ledger.rails, counts := t.ledger.counts }
                     polders := t.polders, log := t.log }))
    ∧ (rail < 24 → (s.halfDie rail).power = .off →
      (Answers (.avsbusAck rail) s fun t => t.rail rail = next ∧ (∀ k, k ≠ rail → t.rail k = s.rail k)
        ∧ (t.halfDie rail).power = .idle ∧ (t.halfDie rail).tide = 0 ∧ (t.ucmDie (rail / 2)).selfRefresh = false
        ∧ (∀ k, k ≠ rail → t.halfDie k = s.halfDie k) ∧ ∀ k, k ≠ rail / 2 → t.ucmDie k = s.ucmDie k)
      ∧ Answers (.avsNoack rail) s fun t => t.ledger.rails = s.ledger.rails ∧ t.halfDies = s.halfDies
        ∧ t.log = s.log ++ [⟨s.time.dev, 13, 0, 31, rail, 0, 0⟩])

/-- SCHEDULE_LOAD into a polder that its checks allow and that is EMPTY or LOADED with no job: an image that passes every
load check becomes the polder's image, the polder is LOADED, its records are broadcast in their order to the cores and
clusters they name, no other polder and nothing that a record does not reach changes, and the command completes OK
with IMAGE_ID in the two results. SCHEDULE_UNLOAD of a LOADED polder leaves it EMPTY without an image.
(05_sequencers_and_schedules.md) -/
def Obligations.ScheduleLoadMakesThePolderLoaded : Prop :=
  ∀ (s u : State) (f : Nat) (c : Cmd),
    u.polderFail (c.a 1) false = none → (s.polder (c.a 1)).job = none →
    (s.TakesOp f 0x20 c u → (s.polder (c.a 1)).state = .empty ∨ (s.polder (c.a 1)).state = .loaded → 128 ≤ c.body.length →
      u.imageCheck (u.polder (c.a 1)) c.body = none →
      ∃ v : State, exec (.scheduleLoad f) s = .next (v.answer c
          { polder := c.a 1, r0 := fieldAt c.body 0x20 8, r1 := fieldAt c.body 0x28 8 })
        ∧ v = (u.onPolder (c.a 1) fun p => { p with state := .loaded, image := c.body.take (imgLen c.body) }).broadcast
            (c.a 1) (c.body.take (imgLen c.body)) true
        ∧ v.polder (c.a 1) = { s.polder (c.a 1) with state := .loaded, image := c.body.take (imgLen c.body) }
        ∧ (∀ k, k ≠ c.a 1 → v.polder k = s.polder k)
        ∧ v = { u with polders := v.polders, scores := v.scores, clusters := v.clusters, ucm := v.ucm,
                       ucmValid := v.ucmValid, ucmBad := v.ucmBad, ucmDies := v.ucmDies, merges := v.merges, fresh := v.fresh,
                       accErr := v.accErr, accLog := v.accLog, log := v.log, ledger := v.ledger, funcs := v.funcs,
                       ucmScrub := v.ucmScrub, hostMem := v.hostMem, msixSent := v.msixSent, halfDies := v.halfDies })
    ∧ (s.TakesOp f 0x21 c u → (s.polder (c.a 1)).state = .loaded →
      exec (.scheduleUnload f) s = .next ((u.onPolder (c.a 1) fun p => { p with state := .empty, image := [] }).answer c
        { polder := c.a 1 }))

/-- JOB_RUN on a LOADED polder without a job that its checks allow, outside ROTATE, with no unit fenced and no crossing
narrower than the image needs, non-zero time limits, replacements that fit the map and an output that fits, queues one
waiting job with the command's argument, limits, output buffer and random maps, in arrival order; nothing else
changes. CONTEXT_RESTORE of a context that passes its checks queues the job in the same way with the saved context and
the random maps of its header. (16_firmware_commands.md) -/
def Obligations.JobRunQueuesTheJob : Prop :=
  ∀ (s u : State) (f : Nat) (c : Cmd), s.thermal.rotate = false → u.polderFail (c.a 1) false = none →
    (s.polder (c.a 1)).state = .loaded → (s.polder (c.a 1)).job = none → (s.polder (c.a 1)).fenced = false →
    (s.polder (c.a 1)).wideEnough (s.polder (c.a 1)).image = true → c.fits (64 + 32 * (s.polder (c.a 1)).clusters.length) = true →
    let queued (maps : List RandEntry) (arg timeout admission : Nat) (context : List Byte) : State :=
      let j : Job :=
        { func := f, tag := c.tag, opc := c.opc, arg := arg, timeoutMs := timeout, admitMs := admission
          order := s.ledger.nextOrder, arrival := s.time.dev, outAddr := c.out, outLen := c.outLen, maps := maps
          context := context, notify := c.notify }
      { u.onPolder (c.a 1) (fun p => { p with job := some j }) with
        ledger := { s.ledger with nextOrder := s.ledger.nextOrder + 1 } }
    (∀ maps, s.TakesOp f 0x22 c u → c.a 3 ≠ 0 → c.a 4 ≠ 0 → replaceMaps (imgMaps (s.polder (c.a 1)).image) c = some maps →
      exec (.jobRun f) s = .next (queued maps (c.a 2) (c.a 3) (c.a 4) []))
    ∧ (s.TakesOp f 0x25 c u → c.a 2 ≠ 0 → c.a 3 ≠ 0 →
      let size := ctxBytes (s.polder (c.a 1)).clusters.length (bit (fieldAt c.body 0x2C 4) 0)
      fieldAt c.body 0x28 4 = (s.polder (c.a 1)).clusters.length → fieldAt c.body 0x20 8 = size → size ≤ c.body.length →
      fieldAt c.body 0 4 = ctxMagic → fieldAt c.body 4 2 = 1 →
      ctxDigest (c.body.take size) = (c.body.drop 0x40).take 32 →
      fieldAt c.body 8 8 = (s.polder (c.a 1)).shape → fieldAt c.body 7 1 = 8 → fieldAt c.body 6 1 = s.level →
      (c.body.drop 0x10).take 16 = imgId (s.polder (c.a 1)).image →
      exec (.contextRestore f) s = .next (queued
        ((chunks 24 ((c.body.drop 0x100).take (24 * (imgMaps (s.polder (c.a 1)).image).length))).map fun r =>
          ⟨BitVec.ofNat 64 (fieldAt r 0 8), BitVec.ofNat 32 (fieldAt r 8 4), BitVec.ofNat 64 (fieldAt r 16 8)⟩)
        0 (c.a 2) (c.a 3) (c.body.take size)))

/-- When the ADMIT_MS of a waiting job has run out while firmware runs (before that the command does nothing): a job that
fits no step the planner may give it ends with NO_ENERGY, which is counted; one that fits while admission is off
(COOLANT_HOLD or an orderly shutdown), in SAG_HOLD, or while the effective cap is below what is committed, ends with
NO_ENERGY too (the model's choice, log 39); else one whose polder stands in band B0 or under cold hold ends with
TIMEOUT and DETAIL bit 31; any other is admitted. JOB_CANCEL of a polder without a job completes OK with RESULT0 = 0;
of a job not yet at slot 0, the job ends with ABORTED and the command completes OK with the job's TAG and bit 16 in
RESULT0; of a running job that has met its end condition, it completes OK with RESULT0 = 0; of one that has not, the
polder goes through the floodgate sequence first. (16_firmware_commands.md, 17_energy_ledger.md) -/
def Obligations.WaitingJobsEnd : Prop :=
  (∀ (s : State) (p : Nat) (j : Job), (s.polder p).job = some j → j.phase = .waiting → s.trust.running = true →
    (s.admitExpired j = false → exec (.admissionTimeout p) s = .next s)
    ∧ (s.admitExpired j = true →
    let best := s.bestStep p (s.allocFor (s.ledger.effCap - s.committedSum) p)
    let off := s.admissionOff = true ∨ s.power.sagHold = true ∨ s.ledger.effCap < s.committedSum
    (best = none → exec (.admissionTimeout p) s = .next ((s.countUp cNoEnergy).finishJob p .noEnergy 0))
    ∧ ∀ st, best = some st →
      (off → exec (.admissionTimeout p) s = .next ((s.countUp cNoEnergy).finishJob p .noEnergy 0))
      ∧ (¬off → s.b0Hold p = true → exec (.admissionTimeout p) s = .next (s.finishJob p .timeout (2 ^ 31)))
      ∧ (¬off → s.b0Hold p = false → exec (.admissionTimeout p) s = .next (s.admitJob p st).noteFreeboard)))
  ∧ ∀ (s u : State) (f : Nat) (c : Cmd), s.TakesOp f 0x23 c u → c.a 1 < 24 → (s.polder (c.a 1)).exists_ = true →
    s.thermal.coolantHold = false → s.gated (c.a 1) = false → (s.polder (c.a 1)).state ≠ .halted →
    ((s.polder (c.a 1)).job = none → exec (.jobCancel f) s = .next (u.answer c { polder := c.a 1 }))
    ∧ ∀ j, (s.polder (c.a 1)).job = some j →
      (j.phase ≠ .running → exec (.jobCancel f) s = .next ((u.finishJob (c.a 1) .aborted 0).answer c
        { polder := c.a 1, r0 := j.tag + 2 ^ 16 }))
      ∧ (j.phase = .running → s.jobDone (c.a 1) = true → exec (.jobCancel f) s = .next (u.answer c { polder := c.a 1 }))
      ∧ (j.phase = .running → s.jobDone (c.a 1) = false → exec (.jobCancel f) s = .next ((u.gatePolder (c.a 1)).1.answer c
        { polder := c.a 1, r0 := j.tag + 2 ^ 16 }))

/-- At the tide mark at which an admitted job of a LOADED polder starts, while firmware runs, outside band B0, cold hold
and a floodgate: the polder is RUNNING at slot 0, at the step that the tide mark has brought into force, with no cycle
counted and nothing held; the job is running from now; every half-die of the polder is ACTIVE; and every S-core that
the image gives code starts with pc 0, its coordinates in x10, its core number in x11 and the job's argument in x12.
No other polder changes. (05_sequencers_and_schedules.md, 19_power_domains_and_supply.md) -/
def Obligations.JobStartsAtSlotZero : Prop :=
  ∀ (s : State) (p : Nat) (j : Job), (s.polder p).job = some j → j.phase = .admitted → j.context = [] →
    (s.polder p).state = .loaded → (s.polder p).atMark = true → s.trust.running = true → s.b0Hold p = false →
    s.gated p = false → Answers (.jobStart p) s fun t =>
      (t.polder p).state = .running ∧ (t.polder p).slot = 0 ∧ (t.polder p).cycle = 0 ∧ (t.polder p).holds = []
        ∧ (t.polder p).step = (s.polder p).step ∧ (t.polder p).nextStep = (s.polder p).nextStep
        ∧ (t.polder p).job = some { j with phase := .running, startAt := s.time.dev }
        ∧ (∀ k, k ≠ p → t.polder k = s.polder k)
        ∧ (∀ h ∈ (s.polder p).halfDies, (t.halfDie h).power = .active)
        ∧ (∀ cl ∈ (s.polder p).clusters, ∀ i < 4, hasCode (s.polder p) cl (cl * 64 + 60 + i) = true →
            (t.score (cl * 64 + 60 + i)).pc = 0 ∧ (t.score (cl * 64 + 60 + i)).ended = false
              ∧ (t.score (cl * 64 + 60 + i)).reg 10 = BitVec.ofNat 32 ((s.polder p).coordWord cl)
              ∧ (t.score (cl * 64 + 60 + i)).reg 11 = BitVec.ofNat 32 (60 + i)
              ∧ (t.score (cl * 64 + 60 + i)).reg 12 = BitVec.ofNat 32 j.arg)
        ∧ t.hostMem = s.hostMem ∧ t.edge = s.edge ∧ t.dma = s.dma ∧ t.links = s.links ∧ t.power = s.power

/-- A running job whose end condition is met, with nothing held and no floodgate in progress, ends: the polder is LOADED
without a job, its half-dies are IDLE rather than ACTIVE, its sluices are closed, and the record is that of the job
(without an output buffer: status OK, the energy in J since admission, the nanoseconds since slot 0, flags and
admitted step). A job whose TIMEOUT_MS runs out while firmware runs ends with TIMEOUT, or OK where its end condition
is met, and leaves the polder HALTED. (05_sequencers_and_schedules.md, 16_firmware_commands.md) -/
def Obligations.JobEndsWithItsRecord : Prop :=
  ∀ (s : State) (p : Nat) (j : Job), (s.polder p).job = some j → j.phase = .running → (s.polder p).state = .running →
    s.trust.running = true → s.gated p = false →
    ((s.polder p).holds = [] → s.jobDone p = true → Answers (.jobEnd p) s fun t =>
      (t.polder p).state = .loaded ∧ (t.polder p).job = none
        ∧ (∀ h ∈ (s.polder p).halfDies, (t.halfDie h).power ≠ .active)
        ∧ (∀ k, k ≠ p → t.polder k = s.polder k)
        ∧ ∃ v : State, v = s.finishJob p .ok 0 ∧ t.hostMem = v.hostMem ∧ t.funcs = v.funcs ∧ t.msixSent = v.msixSent)
    ∧ (∀ st extra, j.outAddr = 0 → j.silent = false → (∀ c, (s.polder p).command = some c → c.opc ≠ 0x24) →
      s.finishJob p st extra = ((s.countCycles p).onPolder p fun x => { x with
        job := none, peakDown := 0, overDown := 0, quotaDown := 0, rails := [], weir := none, nextStep := none }).complete j.func j.tag j.opc j.notify
          { status := st
            polder := p
            r0 := ((s.meter (mPolder p)).total - j.energy0) / 1000000
            r1 := (s.time.dev - j.startAt) * 10
            detail := (s.jobFlags p).toNat + j.admittedStep * 2 ^ 8 + extra })
    ∧ (s.jobLate p = true → Answers (.jobTimeout p) s fun t => t = s.failJob p (if s.jobDone p then .ok else .timeout) 0 ∧ (t.polder p).state = .halted
      ∧ (t.polder p).job = none ∧ ∀ k, k ≠ p → t.polder k = s.polder k)

/-- At a tide mark that has come due, at the polder's lowest half-die, the commanded step comes into force, with the
weir's clock for it by the latest sample where a job runs or is to start, and a CONTEXT_SAVE that waits on a RUNNING
polder asserts its hold; no other polder changes. At a mark of a half-die in no polder it goes to step 0. CONTEXT_SAVE
of a RUNNING polder with an output that fits waits for its mark. Once the hold stands and no inbound entry is in
flight, while firmware runs, a copy whose slices and output can be had leaves the polder LOADED, without its job and
without the command; one whose cannot completes with that status, and the job goes on (the model's reading of a
failing copy, log 20, and of the place of a mark in time, log 51). (06_scheduled_fabric.md, 16_firmware_commands.md) -/
def Obligations.TideMarkAppliesTheCommandedStep : Prop :=
  (∀ (s : State) (h n : Nat), s.polderOf h = n → n < 24 → (s.polder n).halfDies.head? = some h →
    (s.polder n).markDue = true → Answers (.tideMark h) s fun t =>
      (t.polder n).step = (s.polder n).nextStep.getD (s.polder n).step ∧ (t.polder n).nextStep = none
        ∧ (t.polder n).weir = (if (s.polder n).weirs = true then
            (s.polder n).weirNext.map (weirClock (stepMHz ((s.polder n).nextStep.getD (s.polder n).step)) s.thermal.slope) else none)
        ∧ (t.polder n).markDue = false ∧ (t.polder n).atMark = true
        ∧ (∀ c, (s.polder n).command = some c → c.opc = 0x24 → c.ready = false → (s.polder n).state = .running →
            (t.polder n).command = some { c with ready := true } ∧ (t.polder n).holds = (s.polder n).holds ++ [(.context, (s.polder n).cycle)])
        ∧ (∀ k, k ≠ n → t.polder k = s.polder k)
        ∧ t = { s with polders := t.polders, ledger := { s.ledger with rails := t.ledger.rails } })
  ∧ (∀ (s : State) (h : Nat), s.polderOf h = 31 → (s.halfDie h).markDue = true →
    exec (.tideMark h) s = .next (s.onHalfDie h fun x => { x with markDue := false, step := 0 }))
  ∧ (∀ (s u : State) (f : Nat) (c : Cmd), s.TakesOp f 0x24 c u → u.polderFail (c.a 1) false = none →
    (s.polder (c.a 1)).state = .running → c.fits (ctxBytes (s.polder (c.a 1)).clusters.length (bit (c.a 2) 0)) = true →
    exec (.contextSave f) s = .next (u.onPolder (c.a 1) fun p => { p with
      command := some ⟨f, c.tag, c.opc, c.notify, c.out, c.outLen, bit (c.a 2) 0, false⟩ }))
  ∧ ∀ (s : State) (p : Nat) (c : InFlight) (j : Job), (s.polder p).command = some c → (s.polder p).job = some j →
    c.opc = 0x24 → c.ready = true → (s.polder p).state = .running → s.trust.running = true →
    (∀ cl ∈ s.listed p, (s.cluster cl).sin.inflight = 0) →
    let r := if c.ucm = true then (s.retireFor (s.polder p)).slicesOut c.func (s.polder p).clusters else (s, .ok, [])
    let ctx := if c.outAddr = 0 then [] else r.1.context p j.maps c.ucm r.2.2
    let w := r.1.writeOut c.func c.outAddr ctx
    let goesOn (v : State) (st : Status) := exec (.contextSaveCopy p) s = .next (v.giveUpSave p c st)
      ∧ (v.giveUpSave p c st).polder p = { v.polder p with
          command := none, holds := (v.polder p).holds.filter fun h => h.1 ≠ .context }
    (r.2.1 ≠ .ok → goesOn r.1 r.2.1)
    ∧ (r.2.1 = .ok → w.2 ≠ .ok → goesOn w.1 w.2)
    ∧ (r.2.1 = .ok → w.2 = .ok → Answers (.contextSaveCopy p) s fun t => t = w.1.savedContext p c ctx.length
        ∧ (t.polder p).state = .loaded ∧ (t.polder p).job = none ∧ (t.polder p).command = none)
    ∧ (c.ucm = false → c.outAddr = 0 → Answers (.contextSaveCopy p) s fun t => (t.polder p).state = .loaded
        ∧ (t.polder p).job = none ∧ (t.polder p).command = none ∧ ∀ k, k ≠ p → t.polder k = s.polder k)

/-- In its turn an S-core executes the instruction at its pc: the S-core becomes what the instruction makes of it and
nothing else changes. Shown in full for the register forms: an immediate or register operation writes x[rd], or
nothing where rd is 0, and the pc goes to the next instruction, which may execute one slot later; a store word inside
data SRAM writes exactly its four bytes. ECALL, and a word that is no instruction, ends the job with BAD_OPCODE, and a
fetch beyond the program with its status, logged with the core, the pc and the word (log 53 for the word). EBREAK
holds the polder where S-core debug is unlocked (the model's reading, log 34) and is an illegal instruction otherwise.
(05_sequencers_and_schedules.md) -/
def Obligations.ScoreInstructionExecutes : Prop :=
  (∀ (s : State) (core len w : Nat) (i : Rv), s.Executes core i len w →
    (∀ x, i ≠ .ebreak → i.isSlot = false → (s.score core).base (s.csrView core) len i = .ok x →
      Answers (.scoreInstruction core) s (s.ScoreIs core x))
    ∧ (∀ f3 alt rd rs1 imm, i = .opImm f3 alt rd rs1 imm → Answers (.scoreInstruction core) s fun t =>
        (∀ r, (t.score core).reg r = if r = rd ∧ r ≠ 0 then alu f3 alt ((s.score core).reg rs1) imm else (s.score core).reg r)
          ∧ (t.score core).pc = ((s.score core).pc + len) % 2 ^ 32 ∧ (t.score core).ready = s.slotOf core + 1
          ∧ (t.score core).dmem = (s.score core).dmem ∧ (t.score core).imem = (s.score core).imem
          ∧ s.ScoreIs core (t.score core) t)
    ∧ (∀ f3 alt rd rs1 rs2, i = .op f3 alt rd rs1 rs2 → Answers (.scoreInstruction core) s fun t =>
        (∀ r, (t.score core).reg r = if r = rd ∧ r ≠ 0 then alu f3 alt ((s.score core).reg rs1) ((s.score core).reg rs2)
          else (s.score core).reg r)
          ∧ (t.score core).pc = ((s.score core).pc + len) % 2 ^ 32 ∧ s.ScoreIs core (t.score core) t)
    ∧ (∀ rs1 rs2 imm, i = .store 2 rs1 rs2 imm → dataFail ((s.score core).reg rs1 + imm).toNat 4 = none →
        Answers (.scoreInstruction core) s fun t =>
          (t.score core).dmem.read ((s.score core).reg rs1 + imm).toNat 4 = leBytes 4 ((s.score core).reg rs2).toNat
            ∧ (∀ a, a < ((s.score core).reg rs1 + imm).toNat ∨ ((s.score core).reg rs1 + imm).toNat + 4 ≤ a →
                (t.score core).dmem.byte a = (s.score core).dmem.byte a)
            ∧ (t.score core).regs = (s.score core).regs ∧ s.ScoreIs core (t.score core) t)
    ∧ (i = .ecall → exec (.scoreInstruction core) s = .next (s.scoreFail core .badOpcode w))
    ∧ (i = .ebreak → (s.trust.unlocked && bit s.trust.scope 1) = true → exec (.ebreak core) s = .next (s.hold core .debug))
    ∧ (i = .ebreak → (s.trust.unlocked && bit s.trust.scope 1) = false →
        exec (.ebreak core) s = .next (s.scoreFail core .badOpcode w)))
  ∧ ∀ (s : State) (core w : Nat) (st : Status), s.turn core = true → s.fetched core = .fault st w →
    exec (.scoreInstruction core) s = .next (s.scoreFail core st w)

/-- SAT adds x[rs1], and SATI its immediate, to ANCHOR modulo 2^64; the S-core's next instruction may execute in the slot
that ANCHOR names, if that slot is still to come. If it is not, the job ends with TIMEOUT and the slot missed is
logged. SDONE ends the S-core's part. Nothing but this S-core changes. (05_sequencers_and_schedules.md) -/
def Obligations.SlotAnchors : Prop :=
  ∀ (s : State) (core len w : Nat),
    (∀ r, s.Executes core (.sat r) len w → s.slotOf core < ((s.score core).anchor + ((s.score core).reg r).toNat) % 2 ^ 64 →
      Answers (.sat core) s (s.ScoreIs core { s.score core with
        pc := ((s.score core).pc + 4) % 2 ^ 32
        anchor := ((s.score core).anchor + ((s.score core).reg r).toNat) % 2 ^ 64
        ready := ((s.score core).anchor + ((s.score core).reg r).toNat) % 2 ^ 64 }))
    ∧ (∀ n, s.Executes core (.sati n) len w → s.slotOf core < ((s.score core).anchor + n) % 2 ^ 64 →
      Answers (.sati core) s (s.ScoreIs core { s.score core with
        pc := ((s.score core).pc + 4) % 2 ^ 32
        anchor := ((s.score core).anchor + n) % 2 ^ 64
        ready := ((s.score core).anchor + n) % 2 ^ 64 }))
    ∧ (∀ n, s.Executes core (.sati n) len w → ((s.score core).anchor + n) % 2 ^ 64 ≤ s.slotOf core →
      exec (.sati core) s = .next ((s.addLog 3 (s.jobFunc (s.polderAt core)) (s.polderAt core) core
        (((s.score core).anchor + n) % 2 ^ 64) (s.slotOf core)).failJob (s.polderAt core) .timeout 0))
    ∧ (s.Executes core .sdone len w → Answers (.sdone core) s (s.ScoreIs core { s.score core with
        pc := ((s.score core).pc + 4) % 2 ^ 32, ready := s.slotOf core + 1, ended := true }))

/-- In its turn, with the block of the micro-operation at a 16 B aligned address up to 0xFF0, a mask that names a core, a
block that passes its check, and room in the queue of every core named: TISS appends the micro-operation to the queue
of every T-core of the mask, and VISS to that of every V-core, issued in this slot, and no other core's queue changes.
The S-core goes on one slot later, or two after another S-core has issued to the same queue of one of these cores in
this slot. (05_sequencers_and_schedules.md) -/
def Obligations.IssueReachesEveryCoreOfTheMask : Prop :=
  ∀ (s : State) (core len w r m : Nat),
    let x := s.score core
    let a := (x.reg r).toNat
    let b := s.blockAt core a
    let cl := clusterOf core
    a % 16 = 0 → a ≤ 0xFF0 →
    (s.Executes core (.tiss r m) len w → Sparse.get 0 x.tmask m ≠ 0 →
      tcoreCheck (imgLevel (s.polder (s.polderAt core)).image) b = none →
      (∀ k ∈ maskCores cl 0 48 (Sparse.get 0 x.tmask m), tRoom (s.cycleOf core) (s.tcore k) (tQueue b) = true) →
      let i : Issue := ⟨s.slotOf core, core % 64, tQueue b, Sparse.get 0 x.tmask m⟩
      Answers (.tiss core) s fun t =>
        (∀ k ∈ maskCores cl 0 48 (Sparse.get 0 x.tmask m), t.tcore k = { s.tcore k with
          ops := (s.tcore k).ops ++ [s.issueOp k b (tQueue b == 0) (fillOff b / 32)], stirred := !(s.tcore k).ops.isEmpty })
          ∧ (∀ k, k ∉ maskCores cl 0 48 (Sparse.get 0 x.tmask m) → t.tcore k = s.tcore k)
          ∧ (t.score core).pc = (x.pc + 4) % 2 ^ 32
          ∧ (t.score core).ready = s.slotOf core + (if (s.cluster cl).conflicts i then 2 else 1)
          ∧ (t.score core).regs = x.regs ∧ (t.score core).dmem = x.dmem
          ∧ t = { s with tcores := t.tcores, scores := t.scores, clusters := t.clusters })
    ∧ (s.Executes core (.viss r m) len w → Sparse.get 0 x.vmask m ≠ 0 →
      vcoreCheck (s.cluster cl).rand.length b = none →
      (∀ k ∈ maskCores cl 48 12 (Sparse.get 0 x.vmask m), vRoom (s.cycleOf core) (s.vcore k) (vQueue b) = true) →
      let i : Issue := ⟨s.slotOf core, core % 64, 3 + vQueue b, Sparse.get 0 x.vmask m⟩
      Answers (.viss core) s fun t =>
        (∀ k ∈ maskCores cl 48 12 (Sparse.get 0 x.vmask m), t.vcore k = { s.vcore k with
          ops := (s.vcore k).ops ++ [s.issueOp k b (vQueue b == 1 && vOpc b != 0x63) (mvOff b / 32)], stirred := !(s.vcore k).ops.isEmpty })
          ∧ (∀ k, k ∉ maskCores cl 48 12 (Sparse.get 0 x.vmask m) → t.vcore k = s.vcore k)
          ∧ (t.score core).pc = (x.pc + 4) % 2 ^ 32
          ∧ (t.score core).ready = s.slotOf core + (if (s.cluster cl).conflicts i then 2 else 1)
          ∧ (t.score core).regs = x.regs ∧ (t.score core).dmem = x.dmem
          ∧ t = { s with vcores := t.vcores, scores := t.scores, clusters := t.clusters })

/-- For S-core 63 in its turn with a count of 1 to 32: SIN is satisfied when the inbound sluice holds at least that many
filled entries as it sees them, and SOUT when that many outbound entries are free; otherwise the polder is held. SACK
releases the oldest entries: HEAD advances modulo 32 and FILLED falls by the count. SPOST posts entries: TAIL advances
modulo 32 and the posted count rises by it. A count of 0 ends the job with BAD_LENGTH and one above 32 with BOUND.
(07_polders_and_sluices.md, 05_sequencers_and_schedules.md) -/
def Obligations.SluiceInstructionsOfScore63 : Prop :=
  ∀ (s : State) (core len w r : Nat), core % 64 = 63 →
    let x := s.score core
    let n := (x.reg r).toNat
    let c := s.cluster (clusterOf core)
    let now := s.cycleOf core
    let x' := { x with pc := (x.pc + 4) % 2 ^ 32, ready := s.slotOf core + 1 }
    let younger (l : List Nat) : List Nat := l.filter fun t => decide (now < t + 12)
    (s.Executes core (.sin r) len w → 1 ≤ n → n ≤ 32 →
      (n ≤ c.sin.seen now → Answers (.sin core) s (s.ScoreIs core x'))
      ∧ (c.sin.seen now < n → exec (.sin core) s = .next (s.hold core (.sin core))))
    ∧ (s.Executes core (.sout r) len w → 1 ≤ n → n ≤ 32 →
      (n ≤ c.sout.free now → Answers (.sout core) s (s.ScoreIs core x'))
      ∧ (c.sout.free now < n → exec (.sout core) s = .next (s.hold core (.sout core))))
    ∧ (s.Executes core (.sack r) len w → 1 ≤ n → n ≤ 32 → n ≤ c.sin.seen now →
      Answers (.sack core) s (s.ScoreAndClusterAre core x' { c with sin := { c.sin with
        head := (c.sin.head + n) % 32, filled := c.sin.filled - n, recent := younger c.sin.recent } }))
    ∧ (s.Executes core (.spost r) len w → 1 ≤ n → n ≤ 32 → n ≤ c.sout.free now →
      Answers (.spost core) s (s.ScoreAndClusterAre core x' { c with sout := { c.sout with
        tail := (c.sout.tail + n) % 32, posted := c.sout.posted + n, recent := younger c.sout.recent } }))
    ∧ (s.Executes core (.sack r) len w → n = 0 → exec (.sack core) s = .next (s.scoreFail core .badLength w))
    ∧ (s.Executes core (.spost r) len w → 32 < n → exec (.spost core) s = .next (s.scoreFail core .bound w))

/-- For an S-core in its turn: RPAGE of a page up to 15 has the page come into force two slots later; RWR of a 16 B
aligned block up to 0xFF0 and an index up to 4095 whose entry passes the entry check has the entry written in the next
slot; SRDC of register 0 gives ARITH_STATUS of the named core in x[rd], usable four slots later, and changes no core;
SRDC of BUSY or STALLS of a V-core clears what it reads; SNOTE with room in the buffer appends the 16 bytes.
SNOTE_FORWARD, while the die's CDC works, takes the oldest message and passes its four words on to the PMP; it becomes
the cluster's last note where it can be passed on. (05_sequencers_and_schedules.md, 06_scheduled_fabric.md) -/
def Obligations.RouterPagesAndStatusRegisters : Prop :=
  ∀ (s : State) (core len w r1 r2 rd : Nat),
    let x := s.score core
    let cl := clusterOf core
    let c := s.cluster cl
    let t := s.slotOf core
    let a := (x.reg r1).toNat
    let p := s.polder (s.polderAt core)
    let x' := { x with pc := (x.pc + 4) % 2 ^ 32, ready := t + 1 }
    (core % 64 = 63 → s.Executes core (.rpage r1) len w → a ≤ 15 →
      Answers (.rpage core) s (s.ScoreAndClusterAre core x' { c with pageAt := c.pageAt ++ [(t + 2, a)] }))
    ∧ (core % 64 = 63 → s.Executes core (.rwr r1 r2) len w → a % 16 = 0 → a ≤ 0xFF0 → (x.reg r2).toNat ≤ 4095 →
      entryCheck (p.ports (p.coord cl).1 (p.coord cl).2) (s.blockAt core a) = none →
      Answers (.rwr core) s (s.ScoreAndClusterAre core x'
        { c with writes := c.writes ++ [(t + 1, (x.reg r2).toNat, BitVec.ofNat 128 (s.blockAt core a))] }))
    ∧ (s.Executes core (.srdc rd r1 r2) len w → bits a 8 2 = 0 → (x.reg r2).toNat % 2 = 0 → bits a 0 6 < 48 →
      Answers (.srdc core) s (s.ScoreIs core { x.setReg rd (BitVec.ofNat 32 (s.tcore (cl * 64 + bits a 0 6)).status.toNat) (t + 4) with
        pc := (x.pc + 4) % 2 ^ 32, ready := t + 1 }))
    ∧ (s.Executes core (.srdc rd r1 r2) len w → bits a 8 2 = 2 → (x.reg r2).toNat % 2 = 1 → 48 ≤ bits a 0 6 → bits a 0 6 < 60 →
      Answers (.srdc core) s fun u => (u.vcore (cl * 64 + bits a 0 6)).stalls = 0
        ∧ (rd ≠ 0 → (u.score core).reg rd = BitVec.ofNat 32 (s.vcore (cl * 64 + bits a 0 6)).stalls)
        ∧ (∀ k, k ≠ cl * 64 + bits a 0 6 → u.vcore k = s.vcore k) ∧ u = { s with vcores := u.vcores, scores := u.scores })
    ∧ (core % 64 = 63 → s.Executes core (.snote r1) len w → a % 16 = 0 → a ≤ 0xFF0 → c.noteRoom (s.cycleOf core) = true →
      Answers (.snote core) s (s.ScoreAndClusterAre core x' { c with notes := c.notes ++ [x.dmem.read a 16] }))
    ∧ (∀ l rest, c.notes = l :: rest → Sparse.get false s.cdcDown (dieOf cl) = false →
      Answers (.snoteForward cl) s fun u => (u.cluster cl).notes = rest ∧ (u.cluster cl).lastNote = (if s.boardOn (1 + dieOf cl / 3) = true then l else c.lastNote)
        ∧ (∀ k, k ≠ cl → u.cluster k = s.cluster k)
        ∧ u = { s.boardReport (dieOf cl) ((chunks 4 l).map fun v => BitVec.ofNat 32 (leNat v)) with clusters := u.clusters })

/-- In its turn, with its descriptor at a 16 B aligned address up to 0xFF0, a descriptor that passes its check and room
for it in the queue of two, an SMOVE of each of the four kinds enters the queue behind the running one, or starts in
this cycle where none runs; nothing else changes. When a word of the running move of an S-core that does not stand
still is due, no error stands in it, and the move is an SFILL or an SFILLI, its 32 bytes stand in data or instruction
SRAM at the next place. (05_sequencers_and_schedules.md, 08_under_core_memory.md) -/
def Obligations.SmoveEntersTheQueue : Prop :=
  (∀ (s : State) (core len w r : Nat) (k : Nat) (i : Instr),
    (k, i) ∈ [(0x60, Instr.sfill core), (0x61, .swrite core), (0x62, .sfwd core), (0x65, .sfilli core)] →
    let x := s.score core
    let a := (x.reg r).toNat
    let o : Op := s.issueOp core (s.blockAt core a) true (mvOff (s.blockAt core a) / 32)
    s.Executes core (.smove r) len w → a % 16 = 0 → a ≤ 0xFF0 → vOpc (s.blockAt core a) = k →
    smoveCheck (imgLevel (s.polder (s.polderAt core)).image) (s.blockAt core a) = none → x.room (s.cycleOf core) = true →
    Answers i s (s.ScoreIs core { x with
      pc := (x.pc + 4) % 2 ^ 32
      ready := s.slotOf core + 1
      ops := startHead (s.cycleOf core) (x.ops ++ [o]) }))
  ∧ ∀ (s : State) (core : Nat) (o : Op) (rest : List Op), 60 ≤ core % 64 → (s.score core).ops = o :: rest →
    let w := o.word.toNat
    let g := s.portRead core (mvOff w / 32 + o.done) []
    s.standsStill core = false → o.done < vCount w → wordDue (s.wordDelay core) (s.cycleOf core) o ≤ s.cycleOf core →
    g.2.status = .ok →
    (vOpc w = 0x60 → Answers (.ucmWordArrival core []) s fun t =>
      (t.score core).dmem = (g.1.score core).dmem.write (mvSram w + 32 * o.done) g.2.data
        ∧ (t.score core).regs = (g.1.score core).regs ∧ ∀ k, k ≠ core → t.score k = g.1.score k)
    ∧ (vOpc w = 0x65 → Answers (.ucmWordArrival core []) s fun t =>
      (t.score core).imem = (g.1.score core).imem.write (mvSram w + 32 * o.done) g.2.data
        ∧ (t.score core).regs = (g.1.score core).regs ∧ ∀ k, k ≠ core → t.score k = g.1.score k)

/-- When the running operation of a T-core's compute queue is a TMMA that nothing issued before it blocks, and the core
does not stand still in a hold, every accumulator entry of its tile takes the value of the tile multiply, every other
entry and the SRAM stay, the flags of the values are added to ARITH_STATUS, and the operation leaves its queue. A
TDRAIN to SRAM writes the 4 COUNT bytes of its entries at its place, clears the entries if CLEAR is set, and leaves
its queue, where no mini-mesh beat has come over its place since its issue. No other core changes; where a TMMA can
lose cycles that the spec does not fix, a free value for them is drawn (log 17). (03_tensor_core.md) -/
def Obligations.TileMultiplyWritesItsTile : Prop :=
  ∀ (s : State) (core : Nat) (b r : List Op) (o : Op),
    let c := s.tcore core
    let w := o.word.toNat
    let alone (t : State) : Prop := (∀ k, k ≠ core → t.tcore k = s.tcore k)
      ∧ t = { s with tcores := t.tcores, fresh := t.fresh }
    s.standsStill core = false →
    (runnable tOpc tQueue tFoot 2 1 c.ops = some (b, o, r) → Answers (.tmma core) s fun t =>
      alone t ∧ (t.tcore core).ops = b ++ r ∧ (t.tcore core).sram = c.sram
        ∧ (∀ i, i < (mmaValues (s.vEnv core).opt w c).length →
            Sparse.get 0 (t.tcore core).acc (mmaAcc w + i) = BitVec.ofNat 32 (nth (0, 0) (mmaValues (s.vEnv core).opt w c) i).1)
        ∧ (∀ a, a < mmaAcc w ∨ mmaAcc w + (mmaValues (s.vEnv core).opt w c).length ≤ a →
            Sparse.get 0 (t.tcore core).acc a = Sparse.get 0 c.acc a)
        ∧ (t.tcore core).status = (mmaValues (s.vEnv core).opt w c).foldl (fun f x => f ||| x.2) c.status)
    ∧ (runnable tOpc tQueue tFoot 3 2 c.ops = some (b, o, r) → o.started = none → o.covered = [] → drainMesh w = false →
      Answers (.tdrain core) s fun t =>
      alone t ∧ (t.tcore core).ops = b ++ r ∧ (t.tcore core).status = c.status
        ∧ (t.tcore core).sram.read (drainSram w) (4 * drainCount w)
            = ((List.range (drainCount w)).map fun i => leBytes 4 (Sparse.get 0 c.acc (drainAcc w + i)).toNat).flatten
        ∧ (∀ a, a < drainSram w ∨ drainSram w + 4 * drainCount w ≤ a → (t.tcore core).sram.byte a = c.sram.byte a)
        ∧ ∀ a, Sparse.get 0 (t.tcore core).acc a =
            if drainClear w = true ∧ drainAcc w ≤ a ∧ a < drainAcc w + drainCount w then 0 else Sparse.get 0 c.acc a)

/-- When a TMMA of the INT8 pair is the running operation of a T-core, nothing before it blocks it and the core does not
stand still in a hold: each entry of its tile starts from its starting value, and the exact sums of the groups of
products along k are added one after another; each addition that would leave −2^31 to 2^31 − 1 gives the nearer end,
which later additions start from, and sets INT_SAT. Where no addition saturates, the entry is its starting value plus
the sum of all products, in whatever order they are taken. (R47) -/
def Obligations.Int32AccumulationSaturates : Prop :=
  ∀ (s : State) (core : Nat) (b r : List Op) (o : Op), s.standsStill core = false →
    runnable tOpc tQueue tFoot 2 1 (s.tcore core).ops = some (b, o, r) →
    let w := o.word.toNat
    let c := s.tcore core
    let product (i v k : Nat) : Int := sx 8 (c.sram.byte (mmaInp w + i * mmaK w + k)).toNat
      * sx 8 (c.sram.byte (mmaWgt w + v * mmaK w + k)).toNat
    let add (x : Int × Bool) (g : Int) : Int × Bool :=
      if 2 ^ 31 ≤ x.1 + g then (2 ^ 31 - 1, true) else if x.1 + g < -(2 ^ 31) then (-(2 ^ 31), true) else (x.1 + g, x.2)
    let start (i v : Nat) : Int := sx 32 (nth 0 (mmaStart w c) (i * mmaN w + v))
    let entry (i v : Nat) : Int × Bool :=
      ((chunks 4 ((List.range (mmaK w)).map (product i v))).map List.sum).foldl add (start i v, false)
    mmaPair w = 6 →
    (Answers (.tmma core) s fun t =>
      (∀ i v, i < mmaM w → v < mmaN w →
        Sparse.get 0 (t.tcore core).acc (mmaAcc w + (i * mmaN w + v)) = BitVec.ofInt 32 (entry i v).1
        ∧ ((entry i v).2 = true → (t.tcore core).status &&& Flags.intSat = Flags.intSat))
      ∧ ((∀ i v, i < mmaM w → v < mmaN w → (entry i v).2 = false) → (t.tcore core).status = c.status))
    ∧ ∀ i v, (entry i v).2 = false → ∀ ks : List Nat, ks.Perm (List.range (mmaK w)) →
      (entry i v).1 = start i v + (ks.map (product i v)).sum

/-- For each of the 30 operations of the compute queue: when the running operation of a V-core that does not stand still
has its opcode and nothing issued before it blocks it, the operation reads the core as it is (unfilled inbound entries
that it reads hold free bytes), the core becomes what the operation makes of it (beats that the mini-mesh has written
over its place since its issue stay), its counters count it, with a free number of lost cycles where other uses of the
core can have cost it some, and it leaves the queue; posted outbound entries it has written are spoiled (the contents
that the spec leaves undefined, and the lost cycles, are the model's free values, logs 32 and 17). VGATHER, VTOPK and
VSAMP do so when no range fault or refused parameter ends the job. (04_vector_core.md, 12_randomness_and_sampling.md) -/
def Obligations.VectorOperationsTakeEffect : Prop :=
  ∀ (s : State) (core : Nat) (b r : List Op) (o : Op),
    let w := o.word.toNat
    let u := s.ringBlur core ((s.vcore core).readsOf b o)
    let c := u.vcore core
    let e := u.vEnv core
    let after (c' : VCore) (extra : Nat) : State :=
      let l := u.lostCycles c.stirred
      let y := c'.count c e w (extra + l.1)
      (l.2.setVcore core { y with sram := o.cover c.sram y.sram, ops := b ++ r }).spoil core (vWritten c e w false)
    s.standsStill core = false →
    (∀ opc i f, (opc, i, f) ∈
        [(0x01, Instr.vadd core, vaddOp), (0x02, .vsub core, vsubOp), (0x03, .vmul core, vmulOp), (0x04, .vfma core, vfmaOp),
         (0x05, .vmin core, vminOp), (0x06, .vmax core, vmaxOp), (0x07, .vcmp core, vcmpOp), (0x08, .vsel core, vselOp),
         (0x09, .vabs core, vabsOp), (0x10, .vexp2 core, vexp2Op), (0x11, .vlog2 core, vlog2Op), (0x12, .vrcp core, vrcpOp),
         (0x13, .vrsqrt core, vrsqrtOp), (0x14, .vtanh core, vtanhOp), (0x15, .vdiv core, vdivOp), (0x20, .vcvt core, vcvtOp),
         (0x21, .vqmx core, vqmxOp), (0x22, .vqt2 core, vqt2Op), (0x23, .vdq core, vdqOp), (0x30, .vrsum core, vrsumOp),
         (0x31, .vrmax core, vrmaxOp), (0x32, .vrmin core, vrminOp), (0x33, .vshuf core, vshufOp), (0x40, .vrand core, vrandOp),
         (0x41, .vunif core, vunifOp), (0x51, .vtopkm core, fun c _ w => vtopkmOp c w), (0x64, .vcopy core, fun c _ w => vcopyOp c w)] →
      runnable vOpc vQueue vFoot opc 0 (s.vcore core).ops = some (b, o, r) → exec i s = .next (after (f c e w) 0))
    ∧ (runnable vOpc vQueue vFoot 0x34 0 (s.vcore core).ops = some (b, o, r) → (vgatherOp c w).2 = none →
      exec (.vgather core) s = .next (after (vgatherOp c w).1 (gatherStalls c w)))
    ∧ (runnable vOpc vQueue vFoot 0x50 0 (s.vcore core).ops = some (b, o, r) → (vtopkOp c e w).2 = none →
      exec (.vtopk core) s = .next (after (vtopkOp c e w).1 0))
    ∧ (runnable vOpc vQueue vFoot 0x52 0 (s.vcore core).ops = some (b, o, r) → (vsampOp c e w).2 = none →
      exec (.vsamp core) s = .next (after (vsampOp c e w).1 0))

/-- An FP32 VADD under RNE without a scalar operand writes at element i of DST the sum of elements i of SRC_A and SRC_B,
read before anything is written and rounded once; VCOPY writes the bytes of SRC_A as they were before. Neither changes
any byte outside its destination. (04_vector_core.md, 02_number_formats.md) -/
def Obligations.VectorResultsAreElementwise : Prop :=
  ∀ (c : VCore) (e : VEnv) (w : Nat),
    let n := vCount w
    (vFmtA w = 0 → vFmtD w = 0 → vRnd w = false → vSb w = false →
      (vaddOp c e w).sram.read (vDst w) (4 * n) = ((List.range n).map fun i =>
        leBytes 4 (Fmt.fp32.write e.opt .rne (Sys2Proof.Machine.Num.add (Fmt.fp32.decode (fieldAt (c.sram.read (vSrcA w + 4 * i) 4) 0 4))
          (Fmt.fp32.decode (fieldAt (c.sram.read (vSrcB w + 4 * i) 4) 0 4))).1.exact).1).flatten
      ∧ ∀ a, a < vDst w ∨ vDst w + 4 * n ≤ a → (vaddOp c e w).sram.byte a = c.sram.byte a)
    ∧ (vcopyOp c w).sram.read (vDst w) (4 * n) = c.sram.read (vSrcA w) (4 * n)
    ∧ ∀ a, a < vDst w ∨ vDst w + 4 * n ≤ a → (vcopyOp c w).sram.byte a = c.sram.byte a

/-- When the running operation of a queue of a core that does not stand still is a slice move of one word that nothing
issued before it blocks, no error stands in the word, and no mini-mesh beat has come over its place since its issue: a
TFILL without expansion and a VFILL write the slice word's 32 bytes at their place and leave the queue; a TWRITE and a
VWRITE write 32 bytes of SRAM to the slice word and leave the queue. A VFWD takes the word into its buffer, and a
VSEND begins: its beats are read in its outbound slots. A word of a VFILL that arrives on its own does the same as the
last one of the move. (03_tensor_core.md, 04_vector_core.md, 08_under_core_memory.md) -/
def Obligations.SliceMovesCarryTheirWords : Prop :=
  ∀ (s : State) (core : Nat) (b r : List Op) (o : Op), o.done = 0 → o.covered = [] → s.standsStill core = false →
    let w := o.word.toNat
    (runnable tOpc tQueue tFoot 1 0 (s.tcore core).ops = some (b, o, r) → fillLen w = 1 → fillUnpack w = false →
      let g := s.portRead core (fillOff w / 32) []
      g.2.status = .ok → ∀ c, (c = Instr.tfill core ∨ (c = .ucmWordArrival core [] ∧ core % 64 < 48)) → Answers c s fun t =>
        (t.tcore core).sram = (g.1.tcore core).sram.write (fillSram w) g.2.data ∧ (t.tcore core).ops = b ++ r
          ∧ ∀ k, k ≠ core → t.tcore k = g.1.tcore k)
    ∧ (runnable tOpc tQueue tFoot 4 0 (s.tcore core).ops = some (b, o, r) → fillLen w = 1 →
      exec (.twrite core) s = .next (((s.portWrite core (fillOff w / 32) ((s.tcore core).sram.read (fillSram w) 32)).noteLate core
        (s.lateWord core (fillOff w / 32) o) (fillSram w) true true).onTcore core fun c => { c with ops := b ++ r }))
    ∧ (runnable vOpc vQueue vFoot 0x60 1 (s.vcore core).ops = some (b, o, r) → vCount w = 1 → core % 64 < 58 →
      let g := s.portRead core (mvOff w / 32) []
      g.2.status = .ok → ∀ c, (c = Instr.vfill core ∨ (c = .ucmWordArrival core [] ∧ 48 ≤ core % 64)) → Answers c s fun t =>
        (t.vcore core).sram = (g.1.vcore core).sram.write (mvSram w) g.2.data ∧ (t.vcore core).ops = b ++ r
          ∧ ∀ k, k ≠ core → t.vcore k = g.1.vcore k)
    ∧ (runnable vOpc vQueue vFoot 0x61 1 (s.vcore core).ops = some (b, o, r) → vCount w = 1 → core % 64 < 58 →
      exec (.vwrite core) s = .next (((s.portWrite core (mvOff w / 32) ((s.vcore core).sram.read (mvSram w) 32)).noteLate core
        (s.lateWord core (mvOff w / 32) o) (mvSram w) true true).onVcore core fun c => { c with ops := b ++ r }))
    ∧ (runnable vOpc vQueue vFoot 0x62 1 (s.vcore core).ops = some (b, o, r) → vCount w = 1 → o.buf = [] →
      let g := s.portRead core (mvOff w / 32) []
      g.2.status = .ok → exec (.vfwd core) s = .next
        ((g.1.noteLate core (s.lateWord core (mvOff w / 32) o) (mvSram w) false false).onVcore core fun c => { c with
          ops := b ++ { o with
            done := 1, seen := some (s.ucmSeen core (mvOff w / 32 + 1)), taken := false, buf := g.2.data } :: r }))
    ∧ (splitQueue vQueue 1 (s.vcore core).ops = some (b, o, r) → vOpc w = 0x63 → o.started = none →
      Answers (.vsend core) s fun t => t.vcore core = { s.vcore core with
          ops := b ++ { o with started := some (s.slotOf core) } :: r }
        ∧ (∀ k, k ≠ core → t.vcore k = s.vcore k) ∧ t = { s with vcores := t.vcores })

/-- In a running polder whose tide mark, if one was due, has been seen: while it is held, a cycle passes and is counted,
the slot stands, and no core or router queue moves, but that the slice move of an S-core that stands still is put off
by it. Unheld, once every S-core has executed what is due and every router has its entry, with no router blocked by a
core and no bad word, and with no slot fault, the slot and the cycle both advance by one. A router whose mini-mesh
transfer a core cannot perform holds the polder. At SLOT_ENTRY_ADVANCE every router of the polder that lacked it gets
the entry of the present slot. A hold ends when its condition no longer stands, and not before.
(06_scheduled_fabric.md) -/
def Obligations.SlotsAndHoldsOfAPolder : Prop :=
  ∀ (s : State) (p : Nat), (s.polder p).state = .running →
    let seen := (s.polder p).markDue = false
    (seen → (s.polder p).holds ≠ [] → Answers (.routerSlot p []) s fun t =>
      (t.polder p).slot = (s.polder p).slot ∧ (t.polder p).cycle = (s.polder p).cycle + 1
        ∧ (t.polder p).holdCount = satAdd 32 (s.polder p).holdCount 1 ∧ (t.polder p).holds = (s.polder p).holds
        ∧ (∀ k, t.score k = { s.score k with ops := (t.score k).ops })
        ∧ (∀ cl, (t.cluster cl).inputs = (s.cluster cl).inputs ∧ (t.cluster cl).outputs = (s.cluster cl).outputs)
        ∧ t = { s with polders := t.polders, clusters := t.clusters, scores := t.scores })
    ∧ (∀ u, seen → (s.polder p).holds = [] → s.stillDue p = false →
      (∀ cl ∈ s.fabric p, (s.cluster cl).synced (s.polder p).slot = true ∧ s.meshAskers (s.polder p).slot cl = []) →
      (s.fabric p).foldlM (fun v cl => v.clusterSlot (s.polder p) (s.polder p).slot cl) s = .ok u →
      Answers (.routerSlot p []) s fun t =>
        (t.polder p).slot = (s.polder p).slot + 1 ∧ (t.polder p).cycle = (u.polder p).cycle + 1
          ∧ t = { u with polders := t.polders })
    ∧ (∀ cl ∈ s.fabric p, seen → (s.polder p).holds = [] → s.stillDue p = false →
      (∀ k ∈ s.fabric p, (s.cluster k).synced (s.polder p).slot = true) → s.meshAskers (s.polder p).slot cl ≠ [] →
      Answers (.routerSlot p []) s fun t => (t.polder p).slot = (s.polder p).slot
        ∧ (t.polder p).cycle = (s.polder p).cycle + 1 ∧ (Hold.router cl, (s.polder p).cycle) ∈ (t.polder p).holds)
    ∧ ((s.polder p).holds = [] → Answers (.slotEntryAdvance p) s fun t =>
      (∀ cl ∈ s.fabric p, (s.cluster cl).synced (s.polder p).slot = false →
        t.cluster cl = (s.cluster cl).advance (s.polder p).slot)
      ∧ (∀ cl, cl ∉ s.fabric p → t.cluster cl = s.cluster cl) ∧ t = { s with clusters := t.clusters })
    ∧ Answers (.holdRelease p) s fun t =>
      (∀ h, h ∈ (t.polder p).holds ↔ h ∈ (s.polder p).holds ∧ s.holdStands p h.1 = true)
        ∧ (∀ k, k ≠ p → t.polder k = s.polder k) ∧ t = { s with polders := t.polders }

/-- When an entry is on its way to an open inbound sluice whose bound channel has nothing begun, where no fenced culvert
router turns it away (log 61), it is written at place HEAD + FILLED modulo 32 of the ring and FILLED rises by one.
When the channel bound to an open outbound sluice runs a FROM_SLUICE to host memory with more than one entry still to
take and Bus Master Enable set, the oldest posted entry, not spoiled, stands at the descriptor's next place and the
posted count falls by one. (07_polders_and_sluices.md, 13_dma_engine.md) -/
def Obligations.SluiceEntriesPassBetweenTheDomains : Prop :=
  ∀ (s : State) (cl ch : Nat),
    let i := (s.cluster cl).sin
    let o := (s.cluster cl).sout
    (∀ l rest, i.coming = l :: rest → i.bound = some ch → i.open_ = true → (s.chan ch).begun = false →
      l.length = 64 → s.turnedAway (.dma ch) (2 ^ 60 + cl) (some cl) = false →
      Answers (.sluiceEntryArrival cl) s fun t =>
        (t.vcore (cl * 64 + 58)).sram.read (0x3800 + 64 * ((i.head + i.filled) % 32)) 64 = l
          ∧ (t.cluster cl).sin.filled = i.filled + 1 ∧ (t.cluster cl).sin.head = i.head
          ∧ (t.cluster cl).sin.coming = rest ∧ (t.cluster cl).sin.inflight = i.inflight - 1
          ∧ (∀ k, k ≠ cl * 64 + 58 → t.vcore k = s.vcore k) ∧ (∀ k, k ≠ cl → t.cluster k = s.cluster k)
          ∧ t.chan ch = { s.chan ch with progressAt := s.time.dev } ∧ (∀ k, k ≠ ch → t.chan k = s.chan k)
          ∧ t = { s with vcores := t.vcores, clusters := t.clusters, dma := t.dma })
    ∧ (∀ d, o.bound = some ch → o.open_ = true → 0 < o.posted → o.posted ≤ 32 →
      o.spoiled.contains ((o.tail + 32 - o.posted) % 32) = false →
      s.runningOp ch = some d → d.op = 3 → d.dstDev = false → (s.chan ch).done + 1 < d.len →
      (s.chan ch).parked = 0 → (s.chan ch).remote = 0 → (s.chan ch).retry = none → (s.chan ch).retryAccess = [] →
      s.turnedAway (.dma ch) (2 ^ 60 + cl) (some cl) = false → s.mayAskHost ch = true → s.hostOk (s.chan ch).func (d.dst + 64 * (s.chan ch).done) 64 = true →
      Answers (.sluiceEntryTaken cl) s fun t =>
        t.hostMem.read (d.dst + 64 * (s.chan ch).done) 64
            = (s.vcore (cl * 64 + 59)).sram.read (0x3800 + 64 * ((o.tail + 32 - o.posted) % 32)) 64
          ∧ (t.cluster cl).sout.posted = o.posted - 1 ∧ (t.cluster cl).sout.tail = o.tail)

/-- MEM_INIT of UCM on a polder that its checks allow and that does not run zeroes exactly the named words of the named
slices of its running rows. MEM_INIT of the whole edge space, with no polder running, every channel in memory mode and
in service and every stack powered, leaves every edge byte zero and sets the interleave. MEM_INIT of a basin, no
polder running, with a range inside the scratch of the new setting: one whose setting changes has the new CACHE_STEPS,
no line and zero scratch; one whose setting stays has exactly the named range zero. NEAR_BANK_MODE switches exactly
those of the named channels that stand in the other mode. KV_SPACE_CONFIG with all near-bank queues empty sets the
three values. Each completes OK with its count. (08_under_core_memory.md, 09_edge_stacks_and_basin.md,
10_near_bank_units.md, 11_attention_and_kv_cache.md) -/
def Obligations.MemoryCommandsOfFirmware : Prop :=
  ∀ (s u : State) (f : Nat) (c : Cmd),
    (s.Takes f (fun o a1 => o == 0x30 && a1 == 0) c u → c.a 2 < 24 → u.polderFail (c.a 2) false = none →
      (s.polder (c.a 2)).state ≠ .running → (s.polder (c.a 2)).state ≠ .resetting → (s.polder (c.a 2)).pending = false →
      c.a64 5 ≠ 0 → c.a 4 ≠ 0 → c.a 3 % 32 = 0 → c.a 4 ≤ 24576 → c.a 3 + 32 * c.a 4 ≤ sliceBytes →
      (∀ d, (s.polder (c.a 2)).holds? (2 * d) = true ∨ (s.polder (c.a 2)).holds? (2 * d + 1) = true → s.ucmOff d = false) →
      ∃ v : State, exec (.memInitUcm f) s = .next (v.answer c
          { polder := c.a 2, r0 := c.a 4 * ((s.polder (c.a 2)).clusters.length * popCount64 (c.a64 5)) })
        ∧ (∀ a, v.ucm.byte a =
            if bit (c.a64 5) (a / sliceBytes % 64) = true ∧ (s.polder (c.a 2)).runs (clusterOf (a / sliceBytes)) = true
              ∧ c.a 3 / 32 ≤ a % sliceBytes / 32 ∧ a % sliceBytes / 32 < c.a 3 / 32 + c.a 4 then 0 else s.ucm.byte a)
        ∧ v = { u with ucm := v.ucm, ucmValid := v.ucmValid, ucmBad := v.ucmBad, merges := v.merges })
    ∧ (s.Takes f (fun o a1 => o == 0x30 && a1 == 1) c u → c.a 2 ≤ 1 → c.a64 3 = 0 → 4096 * c.a 5 = 1024 * s.chBytes →
      s.anyRunning = false → (∀ e < 32, s.stackOff e = false) →
      (∀ e, (s.edgeCh e).state ≠ .failed ∧ (s.edgeCh e).mode = .memory) →
      ∃ v : State, exec (.memInitEdge f) s = .next (v.answer c { r0 := 1024 * s.chBytes })
        ∧ (∀ a, v.edge.byte a = 0) ∧ v.intlvPkg = decide (c.a 2 = 0) ∧ v.ucm = s.ucm)
    ∧ (∀ b, s.Takes f (fun o a1 => o == 0x30 && a1 == 2) c u → b < 4 → c.a 2 = 2 ^ b → c.a 5 ≠ 0 → c.a 4 % 64 = 0 → c.a 3 ≤ 8 →
      c.a 3 = 8 ∨ c.a 4 + 64 * c.a 5 ≤ (8 - c.a 3) * 0x4000000 →
      s.anyRunning = false → s.basinOff b = false → s.thermal.coolantHold = false →
      ((s.basin b).cacheSteps ≠ c.a 3 →
        ∃ v : State, exec (.memInitBasin f) s = .next (v.answer c { r0 := (8 - c.a 3) * 0x4000000 })
          ∧ (v.basin b).cacheSteps = c.a 3 ∧ (v.basin b).lines = [] ∧ (v.basin b).scratch = []
          ∧ ∀ k, k ≠ b → v.basin k = s.basin k)
      ∧ ((s.basin b).cacheSteps = c.a 3 → c.a 3 ≠ 8 →
        ∃ v : State, exec (.memInitBasin f) s = .next (v.answer c { r0 := 64 * c.a 5 })
          ∧ (∀ a, (v.basin b).scratch.byte a =
              if c.a 4 ≤ a ∧ a < c.a 4 + 64 * c.a 5 then 0 else (s.basin b).scratch.byte a)
          ∧ (v.basin b).lines = (s.basin b).lines ∧ (∀ k, k ≠ b → v.basin k = s.basin k)
          ∧ v = { u with basins := v.basins }))
    ∧ (∀ chs, s.Takes f (fun o a1 => o == 0x31 && bit a1 0) c u → u.nbModeCheck c false = .ok chs →
      ∃ v : State, exec (.nearBankModeProcessor f) s = .next
          (v.answer c { r0 := (chs.filter fun e => (s.edgeCh e).mode == .memory).length })
        ∧ (∀ e ∈ chs, (v.edgeCh e).mode = .processor) ∧ (∀ e, e ∉ chs → (v.edgeCh e).mode = (s.edgeCh e).mode))
    ∧ (∀ chs, s.Takes f (fun o a1 => o == 0x31 && !bit a1 0) c u → u.nbModeCheck c true = .ok chs →
      ∃ v : State, exec (.nearBankModeMemory f) s = .next
          (v.answer c { r0 := (chs.filter fun e => (s.edgeCh e).mode == .processor).length })
        ∧ (∀ e ∈ chs, (v.edgeCh e).mode = .memory) ∧ (∀ e, e ∉ chs → v.edgeCh e = s.edgeCh e)
        ∧ v = { u with channels := v.channels })
    ∧ (s.TakesOp f 0x32 c u → c.a 2 ≠ 0 → c.a 3 ≠ 0 → c.a 1 % 4096 = 0 → c.a 2 % 64 = 0 →
      c.a 1 + c.a 3 * c.a 2 ≤ s.chBytes → (∀ e ∈ s.channels, e.2.queue = []) →
      exec (.kvSpaceConfig f) s = .next ({ u with kvBase := c.a 1, kvStride := c.a 2, kvSlots := c.a 3 }.answer c {}))

/-- LOOP_BOUNDS_SET of each of the five loops inside its range sets that loop's bounds, keeps the bounds of the others,
and freezes the loop when they are equal; when they are not, the loop is frozen only while a bound holds it: SCRUB
where one held the last pass of a die or a stack, LINK_RATE where another link is pinned. An AVS offset outside new
bounds moves to the nearer one, at once where the half-die is OFF and else as its rail acknowledges the request for
it. LOG_READ of a log up to 4 without an output buffer changes nothing and answers how many entries are left.
LEDGER_READ and LINK_STATUS complete OK, the first with the summary, the counters or the freeze status, the second
with the records of the named links in order; without an output buffer they change nothing. (17_energy_ledger.md,
16_firmware_commands.md, 21_melieko_links.md) -/
def Obligations.BoundsAndReadingCommands : Prop :=
  ∀ (s u : State) (f : Nat) (c : Cmd),
    (s.TakesOp f 0x44 c u → ∀ loop, bits (c.a 1) 0 8 = loop →
      (loop = 1 → -100 ≤ sx 32 (c.a 2) → sx 32 (c.a 2) ≤ sx 32 (c.a 3) → sx 32 (c.a 3) ≤ 50 →
        ∃ v : State, exec (.loopBoundsSet f) s = .next (v.answer c {}) ∧ v.ledger.avs = ⟨sx 32 (c.a 2), sx 32 (c.a 3)⟩
          ∧ v.ledger.scrub = s.ledger.scrub ∧ v.ledger.rotation = s.ledger.rotation ∧ v.ledger.stepBounds = s.ledger.stepBounds
          ∧ (∀ h < 24,
              let a := max (sx 32 (c.a 2)) (min (sx 32 (c.a 3)) (s.halfDie h).avs)
              (v.halfDie h).avs = (if (s.halfDie h).power = .off then a else (s.halfDie h).avs)
                ∧ v.rail h = if (s.halfDie h).power = .off ∨ (s.halfDie h).avs = a then s.rail h
                    else (s.rail h).ask { up := decide ((s.halfDie h).avs < a), avs := some a })
          ∧ ((∀ e ∈ s.halfDies, e.1 < 24) → bit v.ledger.frozen 1 = decide (sx 32 (c.a 2) = sx 32 (c.a 3))))
      ∧ (loop = 2 → c.a 2 ≤ c.a 3 → c.a 3 ≤ 1 → bits (c.a 1) 16 16 ≤ 95 →
        ∃ v : State, exec (.loopBoundsSet f) s = .next (v.answer c {})
          ∧ Sparse.get 1 v.ledger.linkRate (bits (c.a 1) 16 16) = 2 * c.a 2 + c.a 3
          ∧ (v.link (bits (c.a 1) 16 16)).frozen = decide (c.a 2 = c.a 3) ∧ v.ledger.avs = s.ledger.avs)
      ∧ (loop = 2 → c.a 2 ≤ c.a 3 → c.a 3 ≤ 1 → bits (c.a 1) 16 16 = 0xFFFF →
        ∃ v : State, exec (.loopBoundsSet f) s = .next (v.answer c {})
          ∧ (∀ n < 96, Sparse.get 1 v.ledger.linkRate n = 2 * c.a 2 + c.a 3 ∧ (v.link n).frozen = decide (c.a 2 = c.a 3)))
      ∧ (loop = 3 → 1 ≤ c.a 2 → c.a 2 ≤ c.a 3 → c.a 3 ≤ 168 →
        ∃ v : State, exec (.loopBoundsSet f) s = .next (v.answer c {}) ∧ v.ledger.scrub = ⟨c.a 2, c.a 3⟩
          ∧ v.ledger.avs = s.ledger.avs
          ∧ bit v.ledger.frozen 3 = (decide (c.a 2 = c.a 3) || (s.ucmDies.any fun x => x.2.scrubHeld)
              || s.edgeStacks.any fun x => x.2.scrubHeld))
      ∧ (loop = 4 → c.a 2 ≤ c.a 3 → c.a 3 ≤ 3600 →
        ∃ v : State, exec (.loopBoundsSet f) s = .next (v.answer c {}) ∧ v.ledger.rotation = ⟨c.a 2, c.a 3⟩
          ∧ c.a 2 ≤ v.thermal.interval ∧ v.thermal.interval ≤ c.a 3 ∧ bit v.ledger.frozen 4 = decide (c.a 2 = c.a 3))
      ∧ (loop = 5 → c.a 2 ≤ c.a 3 → c.a 3 ≤ s.topStep →
        ∃ v : State, exec (.loopBoundsSet f) s = .next (v.answer c {}) ∧ v.ledger.stepBounds = ⟨c.a 2, c.a 3⟩
          ∧ bit v.ledger.frozen 5 = decide (c.a 2 = c.a 3)))
    ∧ (s.TakesOp f 0x70 c u → c.a 1 ≤ 4 → c.out = 0 → exec (.logRead f) s = .next (u.answer c
        { r0 := 0, r1 := ((u.logEntries f (c.a 1)).drop (c.a 2)).length }))
    ∧ (s.TakesOp f 0x42 c u → (f = 0 ∧ c.a 1 ≤ 2) ∨ c.a 1 = 1 → c.out = 0 → exec (.ledgerRead f) s = .next (u.answer c {}))
    ∧ (s.TakesOp 0 0x42 c u →
      (c.a 1 = 0 → exec (.ledgerRead 0) s = .next (u.output c u.ledgerSummary {}))
      ∧ (c.a 1 = 1 → exec (.ledgerRead 0) s = .next
          (u.output c (leBytes 4 110 ++ zeros 60 ++ (List.range 110).flatMap u.meterRecord) {}))
      ∧ (c.a 1 = 2 → exec (.ledgerRead 0) s = .next
          (u.output c (leBytes 4 u.ledger.frozen ++ leBytes 4 u.faultRails ++ u.overrideCounts ++ zeros 12) {})))
    ∧ (s.TakesOp f 0x51 c u → c.a 2 ≠ 0 → c.a 1 + c.a 2 ≤ 96 →
      (c.out = 0 → exec (.linkStatus f) s = .next (u.answer c {}))
      ∧ exec (.linkStatus f) s = .next (u.output c ((List.range (c.a 2)).flatMap fun i => u.linkRecord (c.a 1 + i)) {}))

/-- The six sub-operations of LINK_CONFIG without an output buffer, each completed OK: ENABLE takes exactly the links of
the range that are DISABLED, DOWN or NOPARTNER to DETECT (the model's reading, log 41), outside P2; DISABLE leaves
every link of the range DISABLED; IDENTITY sets the fabric identity; WINDOW of one of the eight windows, aligned to
128 GiB and inside the peer space, sets that window; INBOUND, 4 KiB aligned, sets the entry of the peer if it has one
and else the first free one; TIMESYNC sets the peer followed and the mode. (21_melieko_links.md) -/
def Obligations.LinkConfiguration : Prop :=
  ∀ (s u : State) (f : Nat) (c : Cmd) (k : Nat), s.Takes f (fun o a1 => o == 0x50 && bits a1 0 8 == k) c u → c.out = 0 →
    (k = 1 → c.a 3 ≠ 0 → c.a 2 + c.a 3 ≤ 96 → s.power.pkg ≠ .p2 →
      ∃ v : State, exec (.linkEnable f) s = .next (v.answer c {}) ∧ (∀ n, v.link n =
          if c.a 2 ≤ n ∧ n < c.a 2 + c.a 3 ∧ ((s.link n).state = .disabled ∨ (s.link n).state = .down ∨ (s.link n).state = .noPartner) then { s.link n with state := .detect, sent := [] }
          else s.link n) ∧ v = { u with links := v.links })
    ∧ (k = 2 → c.a 3 ≠ 0 → c.a 2 + c.a 3 ≤ 96 →
      ∃ v : State, exec (.linkDisable f) s = .next (v.answer c {})
        ∧ ∀ n, c.a 2 ≤ n → n < c.a 2 + c.a 3 → (v.link n).state = .disabled)
    ∧ (k = 3 → ∃ v : State, exec (.linkIdentity f) s = .next (v.answer c {}) ∧ v.fabricId = BitVec.ofNat 32 (c.a 2)
        ∧ ∀ n < 96, (v.link n).state ≠ .up)
    ∧ (k = 4 → c.a 2 ≤ 7 → c.a64 5 % 2 ^ 37 = 0 → c.a64 5 + 2 ^ 37 ≤ 0x060000000000 →
      let w : Window := ⟨bit (c.a 4) 8, BitVec.ofNat 32 (c.a 3), bits (c.a 4) 0 4, c.a64 5⟩
      exec (.linkWindow f) s = .next ({ u with windows := Sparse.set {} s.windows (c.a 2) w }.answer c {}))
    ∧ (k = 5 → c.a64 4 % 4096 = 0 → c.a64 6 % 4096 = 0 → (∀ i < 16, (Sparse.get {} s.inbound i : Inbound).used = false) →
      let e : Inbound := ⟨true, bit (c.a 3) 8, BitVec.ofNat 32 (c.a 2), bits (c.a 3) 0 4, c.a64 4, c.a64 6⟩
      exec (.linkInbound f) s = .next ({ u with inbound := Sparse.set {} s.inbound 0 e }.answer c {}))
    ∧ (k = 6 → ∃ v : State, exec (.linkTimesyncConfig f) s = .next (v.answer c {})
        ∧ (bit (c.a 2) 0 = true → v.time.followFabric = BitVec.ofNat 32 (c.a 3) ∧ v.time.followSlot = bits (c.a 4) 0 4))

/-- ATTEST with an output buffer of at least 146 units writes the report of the eight nonce words there, and
IDENTITY_CERT_READ the certificate chain, into a buffer in host memory that holds it and answers, and nothing else
changes but the record, and that a free value is drawn for the randomness of the report's signature (the model's
choice, log 7). FIRMWARE_STAGE of an image that passes its checks, while firmware runs, stages the image and answers
its version and SVN; FIRMWARE_COMMIT of a staged image writes it to flash, clears RECOVERY and completes OK, or ends
with HW_ERROR where the flash fails. REPAIR_STAGE answers how many entries are staged, or BOUND for one that clashes
with a culvert entry of the field map, REPAIR_COMMIT writes the staged entries to the field map and stages none. DIAG
WARM_RESET answers and a warm reset is due; HALF_DIE_TEST of a free half-die completes with the defects found as its
output, its cores' contents gone, and its slices too where that is asked, or changes nothing where the output cannot
be written; EDGE_RETRAIN of a channel in service requests its retraining. (22_trust_and_attestation.md,
20_bring_up_and_repair.md) -/
def Obligations.FirmwareAndRepairCommands : Prop :=
  ∀ (s u : State) (f : Nat) (c : Cmd),
    let holds (l : List Byte) : Prop := c.out ≠ 0 ∧ c.out % 2 = 0 ∧ l ≠ [] ∧ l.length ≤ 64 * c.outLen
      ∧ s.hostOk f c.out l.length = true
    let written (v : State) (l : List Byte) : State := { v with hostMem := u.hostMem.write c.out l }.answer c { outBytes := l.length }
    (s.TakesOp f 0x60 c u → 146 ≤ c.outLen → holds (u.report_ f (c.args.flatMap fun a => leBytes 4 a)) →
      exec (.attest f) s = .next (written u.entropy32.2 (u.report_ f (c.args.flatMap fun a => leBytes 4 a))))
    ∧ (s.TakesOp f 0x61 c u → (c.out = 0 → exec (.identityCertRead f) s = .next (u.answer c {}))
      ∧ (holds u.certChain → exec (.identityCertRead f) s = .next (written u u.certChain)))
    ∧ (s.TakesOp f 0x62 c u → u.fwFail c.body = none → s.trust.running = true →
      ∃ v : State, v = u.answer c { r0 := fieldAt (c.body.take (imageHead + fwPayloadLen c.body)) 0x18 8
                                    r1 := fwSvn (c.body.take (imageHead + fwPayloadLen c.body)) }
        ∧ exec (.firmwareStage f) s = .next
          { v with trust := { s.trust with staged := some (c.body.take (imageHead + fwPayloadLen c.body)) } })
    ∧ (∀ img, s.TakesOp f 0x63 c u → s.trust.staged = some img →
      exec (.firmwareCommit f true) s = .next
        ({ u with trust := { s.trust with flashImage := img, recovery := false } }.answer c {})
      ∧ exec (.firmwareCommit f false) s = .next
        ({ u with trust := { s.trust with flashImage := [] } }.refuse c .hwError))
    ∧ (s.TakesOp f 0x71 c u → ∀ e, c.body = repairBytes e ++ zeros 48 → 1 ≤ e.kind → e.kind ≤ 4 → e.source = 2 → repairInRange e = true →
      repairOf (repairBytes e) = e → s.repair.inForce = [] → s.repair.staged = [] →
      (s.fieldMap.any (culvertClash e) = false →
        ∃ v : State, exec (.repairStage f) s = .next (v.answer c { r0 := v.repair.staged.length })
          ∧ v.repair.staged = addRepairs [] [e] ∧ v = { u with repair := v.repair })
      ∧ (s.fieldMap.any (culvertClash e) = true → exec (.repairStage f) s = .next (u.refuse c .bound)))
    ∧ (s.TakesOp f 0x72 c u → s.repair.staged ≠ [] → (addRepairs s.fieldMap s.repair.staged).length ≤ 1024 →
      ∃ v : State, exec (.repairCommit f) s = .next (v.answer c { r0 := s.repair.staged.length })
        ∧ v.repair.staged = [] ∧ v.repair = { (u.writeField s.repair.staged).repair with staged := [] })
    ∧ (s.Takes f (fun o a1 => o == 0x7F && bits a1 0 8 == 1) c u → exec (.diagWarmReset f) s = .next
        { u.answer c {} with boot := { s.boot with resetDue := true } })
    ∧ (∀ l, s.Takes f (fun o a1 => o == 0x7F && bits a1 0 8 == 2) c u → c.a 2 ≤ 23 → s.polderOf (c.a 2) = 31 →
      s.thermal.coolantHold = false → s.dieShut (c.a 2) = false → s.power.pkg ≠ .p2 → c.fits (l.flatMap fun e => repairBytes { e with source := 2 }).length = true →
      let bytes := l.flatMap fun e => repairBytes { e with source := 2 }
      let w := u.writeOut f c.out bytes
      let lost := w.1.junkCores [c.a 2] false
      let lost := if bit (c.a 3) 0 = true then lost.ucmClearAll (fun core => halfOf (clusterOf core) == c.a 2) 0 24576 else lost
      (w.2 = .ok → exec (.halfDieTest f l) s = .next (lost.answer c { outBytes := if c.out = 0 then 0 else bytes.length }))
      ∧ (w.2 ≠ .ok → exec (.halfDieTest f l) s = .next (u.refuse c w.2)))
    ∧ (s.Takes f (fun o a1 => o == 0x7F && bits a1 0 8 == 3) c u → c.a 2 ≤ 1023 → (s.edgeCh (c.a 2)).state ≠ .removed →
      s.stackOff (c.a 2 / 32) = false →
      exec (.edgeRetrain f) s = .next ((u.onEdgeCh (c.a 2) fun x => { x with retrainDue := true }).answer c {}))

/-- A VF's write of the key to FLOODGATE, with no floodgate in progress and its polder RUNNING, leaves that polder HALTED
with no job and no command, and its channels DISABLED, and shows BUSY; FG_PF does the same for the polder it names. A
value other than the key is an access error and changes nothing else. When the floodgate completes, nobody waits on
the polder any more, and the status of an issuer whose last and only floodgate it is shows the time it took in
microseconds, rounded up; a package floodgate that completes lets PMP_RESET act, or resets the PMP itself where a
watchdog expiry began it, and makes an unlock that waited for it effective. Once no write of its channels waits in a
hold queue DRAINED is set for those it is due. PMP_RESET with its key takes effect only after a package floodgate has
completed: firmware no longer runs and the ROM is due. A watchdog expiry of the PMP while firmware runs stops it and
begins a package floodgate. A CDC watchdog takes the die's controller down until it has restarted, and a polder held
at step 0 for it then goes to the step its job is to have. A fenced half-die is FENCED, and the polder that holds it
is degraded. (15_mailboxes_and_floodgate.md, 20_bring_up_and_repair.md, 23_clocks_timers_timeouts.md) -/
def Obligations.FloodgateHaltsThePolder : Prop :=
  ∀ (s : State) (f n : Nat) (v : Word),
    (f ≠ 0 → f ≤ 24 → v.toNat = fgKey → s.vfPolder f = n → n < 24 → (s.polder n).exists_ = true → s.gates = [] → (s.polder n).gates = [] →
      (s.polder n).state = .running → Answers (.floodgate f v) s fun t => (t.polder n).state = .halted
        ∧ (t.polder n).job = none ∧ (t.polder n).command = none ∧ (t.polder n).gates = [⟨f, false, s.time.dev, s.fgNo + 1⟩]
        ∧ (t.func f).fg = fgBusy n (s.fgNo + 1)
        ∧ (∀ ch < 256, (s.chan ch).polder = n → (t.chan ch).state = .disabled) ∧ ∀ k, k ≠ n → t.polder k = s.polder k)
    ∧ (f ≠ 0 → v.toNat ≠ fgKey → exec (.floodgate f v) s = .next (s.accessError f kRefused true 0x28))
    ∧ (bits v.toNat 0 16 = fgKey → bits v.toNat 21 11 = 0 → bits v.toNat 16 5 = n → n < 24 → (s.polder n).exists_ = true →
      s.gates = [] → (s.polder n).gates = [] → (s.polder n).state = .running →
      Answers (.fgPf v) s fun t => (t.polder n).state = .halted ∧ (t.polder n).job = none
        ∧ (∀ ch < 256, (s.chan ch).polder = n → (t.chan ch).state = .disabled) ∧ ∀ k, k ≠ n → t.polder k = s.polder k)
    ∧ (∀ g rest, n < 24 → (s.polder n).gates = g :: rest → Answers (.floodgateComplete 1 n) s fun t =>
      (t.polder n).gates = [] ∧ (t.polder n).state = (s.polder n).state ∧ (∀ k, k ≠ n → t.polder k = s.polder k)
        ∧ (∀ d ∈ s.draining, d ∈ t.draining)
        ∧ (rest = [] → g.func ≤ 24 → (s.func g.func).fg.key ≤ g.no →
            (s.onPolder n fun p => { p with gates := [] }).gating g.func = false →
            (t.func g.func).fg = { (s.func g.func).fg with
              busy := false, jobEnded := (s.polder n).gateEndedJob, polder := n, status := .ok
              elapsedUs := ceilDiv (s.time.dev - g.time) 100 % 2 ^ 32 }
              ∧ ((s.func g.func).fg.gate ≤ g.no → (g.func, n) ∈ t.draining)))
    ∧ (s.gates ≠ [] → Answers (.floodgateComplete 2 31) s fun t => t.gates = []
        ∧ (s.trust.resetDue = false → t.trust.gated = true)
        ∧ (s.trust.resetDue = true → t.trust.running = false ∧ t.trust.romDue = true ∧ t.trust.resetDue = false
            ∧ ∀ g, (t.func g).ring = none ∧ (t.func g).inbox = [] ∧ (t.func g).h2d = [])
        ∧ t.trust.unlocked = (s.trust.unlocked || s.trust.scopeDue != 0) ∧ t.trust.scope = s.trust.scope ||| s.trust.scopeDue)
    ∧ ((∀ e ∈ s.channels, ∀ h ∈ e.2.held, h.lingers n = false) → Answers (.floodgateDrained n) s fun t =>
      (∀ g, (g, n) ∈ s.draining → (t.func g).fg.drained = true) ∧ (∀ d, d ∈ t.draining ↔ d ∈ s.draining ∧ d.2 ≠ n)
        ∧ (∀ g, (g, n) ∉ s.draining → t.func g = s.func g) ∧ t = { s with funcs := t.funcs, draining := t.draining })
    ∧ (v.toNat % 2 ^ 16 = pmpKey → s.trust.gated = true → Answers (.pmpReset v) s fun t => t.trust.running = false ∧ t.trust.gated = false
        ∧ t.trust.romDue = true ∧ (∀ g, (t.func g).ring = none ∧ (t.func g).inbox = [] ∧ (t.func g).h2d = []) ∧ t.ucm = s.ucm ∧ t.edge = s.edge)
    ∧ (v.toNat % 2 ^ 16 ≠ pmpKey ∨ s.trust.gated = false → exec (.pmpReset v) s = .next (s.accessError 0 kRefused false 0x1018))
    ∧ (s.trust.running = true → s.boot.running = false → s.gates = [] → Answers .pmpWatchdog s fun t => t.trust.running = false
        ∧ t.trust.resetDue = true ∧ t.gates ≠ [] ∧ ∀ k < 24, (s.polder k).exists_ = true → (s.polder k).state ≠ .halted → (t.polder k).job = none)
    ∧ (Answers (.cdcWatchdog n) s fun t => Sparse.get false t.cdcDown n = true ∧ Sparse.get none t.cdcExpired n = some s.time.dev)
    ∧ (Answers (.cdcRestartComplete n) s fun t => Sparse.get false t.cdcDown n = false
        ∧ (∀ d, d ≠ n → Sparse.get false t.cdcDown d = Sparse.get false s.cdcDown d)
        ∧ (∀ k, (k ≠ s.polderOf (2 * n) ∧ k ≠ s.polderOf (2 * n + 1)) ∨ (s.polder k).job = none → t.polder k = s.polder k)
        ∧ (∀ k, k = s.polderOf (2 * n) ∨ k = s.polderOf (2 * n + 1) → (s.polder k).job.isSome = true →
            (∀ d ∈ (s.polder k).dies, d ≠ n → Sparse.get false s.cdcDown d = false) →
            t.polder k = if (s.polder k).step < (s.polder k).want then
                { s.polder k with rails := (s.polder k).halfDies, nextStep := none }
              else { s.polder k with
                rails := [], nextStep := if (s.polder k).want = (s.polder k).step then none else some (s.polder k).want })
        ∧ t = { s with cdcDown := t.cdcDown, polders := t.polders, ledger := { s.ledger with rails := t.ledger.rails } })
    ∧ (∀ h, Answers (.fence (.halfDie h)) s fun t => (t.halfDie h).fenced = true
        ∧ (s.polderOf h < 24 → (t.polder (s.polderOf h)).fenced = true) ∧ ∀ k, k ≠ h → (t.halfDie k).fenced = (s.halfDie k).fenced)

/-- On a channel that the function reaches. Every write of DMA_RING_CTL takes VECTOR, TIMEOUT_MS and SIZE. With ENABLE on
a DISABLED channel, if the checks of R277 pass, the channel is WAITING with HEAD and TAIL 0, and else CODE is set.
With ENABLE clear an enabled channel becomes DISABLED, reads nothing more and lets go of its sluices, without a write-
back. RESUME takes a HALTED channel on at HEAD, unless its engine is STOPPED, or halts it again with BOUND where TAIL
is not below SIZE. TAIL takes what is written. A TAIL below SIZE hands descriptors over; one of SIZE or more halts a
working channel with BOUND, a running descriptor being written back with it (the model's reading, log 40). DMA_OWNER
sets function and polder of a DISABLED channel unless a VF would own a 33rd channel; on another channel the write is
dropped and logged. No other channel changes. (13_dma_engine.md) -/
def Obligations.DmaChannelControl : Prop :=
  ∀ (s : State) (f ch : Nat) (v : U64), s.owns f ch = true →
    let c := s.chan ch
    let n := v.toNat
    let only (t : State) : Prop := (∀ k, k ≠ ch → t.chan k = s.chan k) ∧ t = { s with dma := t.dma }
    let u := s.setChan ch { c with vector := bits n 48 9, timeoutMs := bits n 16 14, size := bits n 0 16 }
    let told := s.setChan ch { c with tail := n % 65536 }
    (v.getLsbD 63 = true → c.state = .disabled → u.enableCheck ch = none → Answers (.enable f ch v) s fun t => only t
        ∧ (t.chan ch).state = .waiting ∧ (t.chan ch).head = 0 ∧ (t.chan ch).tail = 0 ∧ (t.chan ch).fetched = []
        ∧ (t.chan ch).vector = bits n 48 9 ∧ (t.chan ch).timeoutMs = bits n 16 14 ∧ (t.chan ch).size = bits n 0 16
        ∧ (t.chan ch).base = c.base ∧ (t.chan ch).func = c.func ∧ (t.chan ch).polder = c.polder)
    ∧ (∀ st, v.getLsbD 63 = true → c.state = .disabled → u.enableCheck ch = some st →
      exec (.enable f ch v) s = .next (u.onChan ch fun c => { c with code := st }))
    ∧ (v.getLsbD 63 = false → c.state ≠ .disabled → Answers (.dmaDisable f ch v) s fun t => (∀ k, k ≠ ch → t.chan k = s.chan k)
        ∧ (t.chan ch).state = .disabled ∧ (t.chan ch).fetched = [] ∧ (t.chan ch).begun = false ∧ (t.chan ch).finish = none
        ∧ (∀ cl, (t.cluster cl).sin.bound ≠ some ch ∧ (t.cluster cl).sout.bound ≠ some ch)
        ∧ (t.chan ch).vector = bits n 48 9 ∧ (t.chan ch).timeoutMs = bits n 16 14 ∧ (t.chan ch).size = bits n 0 16
        ∧ t = { s with dma := t.dma, clusters := t.clusters, channels := t.channels, fresh := t.fresh })
    ∧ (v.getLsbD 63 = true → v.getLsbD 62 = true → c.state = .halted → c.finish = none →
      ((s.engine (engineOf ch)).stopped = false → c.tail < bits n 0 16 → exec (.resume f ch v) s = .next (u.onChan ch fun k => { k with
        state := if c.head = c.tail then .waiting else .active
        fetch := c.head }))
      ∧ ((s.engine (engineOf ch)).stopped = false → bits n 0 16 ≤ c.tail → exec (.resume f ch v) s = .next (u.haltChan ch .bound 0 false false))
      ∧ ((s.engine (engineOf ch)).stopped = true → exec (.resume f ch v) s = .next u))
    ∧ (c.state = .disabled ∨ (c.state = .halted ∧ c.size ≤ n % 65536) → exec (.tail f ch v) s = .next told)
    ∧ (c.state ≠ .disabled → n % 65536 < c.size → exec (.tail f ch v) s = .next (told.onChan ch fun k => { k with
        stalled := false
        state := if c.state = .halted then .halted else if c.head = n % 65536 then .waiting else .active }))
    ∧ (s.working ch = true → c.size ≤ n % 65536 → c.begun = true →
      exec (.tail f ch v) s = .next (told.endDesc ch .bound c.done 0 false false))
    ∧ (s.working ch = true → c.size ≤ n % 65536 → c.begun = false → Answers (.tail f ch v) s fun t => (t.chan ch).state = .halted
        ∧ (t.chan ch).code = .bound ∧ (t.chan ch).head = c.head ∧ (t.chan ch).tail = n % 65536 ∧ t.hostMem = s.hostMem
        ∧ ∀ k, k ≠ ch → t.chan k = s.chan k)
    ∧ (c.state = .disabled → ((List.range 256).filter fun o => (s.chan o).func == bits n 0 8).length < 32 →
      exec (.dmaOwner ch v) s = .next (s.setChan ch { c with func := bits n 0 8, polder := bits n 8 5 }))
    ∧ (c.state ≠ .disabled → exec (.dmaOwner ch v) s = .next (s.accessError 0 kRefused false (0x1000000 + ch * 0x80 + 0x40)))

/-- While a channel works, reads ahead and may make requests: a descriptor with OWN set joins those read and the channel
is ACTIVE; one at HEAD with OWN clear sets OWN_STALL. A descriptor whose first failing check gives a status is written
back with it and halts its channel. A NOP completes with DONE 0. At the write-back in a host ring words 6 and 0 hold
DONE and word 0 with OWN clear and the status, nothing else of host memory changes, and HEAD advances. A descriptor
that made no progress for TIMEOUT_MS, a bus error under HALT_CHANNEL and a device error end what runs and, on a host
ring of an engine under HALT_CHANNEL, leave the channel HALTED with their code (an uncorrectable word that ends the
job disables it with its polder); a completion of a near-bank unit reaches the command that waits, and one of an
earlier life is discarded; a held command is issued again and counted. (13_dma_engine.md) -/
def Obligations.DmaDescriptorsAreTakenAndRetired : Prop :=
  ∀ (s : State) (ch : Nat),
    let c := s.chan ch
    let quiet : Prop := c.finish = none ∧ c.parked = 0 ∧ c.retryAccess = [] ∧ c.remote = 0 ∧ c.retry = none
    let a := c.slotAddr c.fetch
    let u := s.engineCount ch 0 64
    let r := if c.dev then u.chanAccess ch { who := .dma ch, fetch := true } a (.read 64)
      else (u, { data := s.hostMem.read a 64 })
    let d : Desc := ⟨(r.1.chan ch).fetch, r.2.data⟩
    (s.working ch = true → c.stalled = false → c.fetching = false → c.fetchErr = none → c.fetched.length < 8 → c.fetch ≠ c.tail → c.finish = none →
      (if c.dev then r.2.status = .ok else s.mayAskHost ch = true ∧ s.hostOk c.func a 64 = true) →
      (d.own = true → exec (.descriptorFetch ch) s = .next (r.1.onChan ch fun c => { c with
        fetched := c.fetched ++ [d]
        fetch := if c.size ≤ c.fetch + 1 then 0 else c.fetch + 1
        state := .active
        progressAt := if c.fetched.isEmpty then r.1.time.dev else c.progressAt }))
      ∧ (d.own = false → exec (.descriptorFetch ch) s = .next (r.1.onChan ch fun c => { c with
        ownStall := true
        stalled := true
        state := if c.fetched.isEmpty then .waiting else c.state })))
    ∧ (∀ d, s.desc ch = some d → s.working ch = true → quiet → c.begun = false →
      (d.op = 6 → s.descCheck ch d = none →
        exec (.nop ch) s = .next (s.setChan ch { c with
          begun := true, done := 0, issued := 0, got := c.ahead, ahead := [], finish := some (.ok, 0) }))
      ∧ (∀ st x, s.descCheck ch d = some (st, x) → ∀ i, (i, true) ∈
          [(Instr.copy ch, (d.op == 1 && (d.shuf == 0 || decide (4 < d.shuf))) || d.op == 0 || decide (6 < d.op)),
           (.psplit ch, d.op == 1 && d.shuf == 1), (.pjoin ch, d.op == 1 && d.shuf == 2), (.intlv ch, d.op == 1 && d.shuf == 3),
           (.deintlv ch, d.op == 1 && d.shuf == 4), (.toSluice ch, d.op == 2), (.fromSluice ch, d.op == 3), (.nbcmd ch, d.op == 4),
           (.kvwalk ch, d.op == 5), (.nop ch, d.op == 6)] →
          exec i s = .next (s.endDesc ch st 0 x false false)))
    ∧ (∀ d rest done, c.fetched = d :: rest → c.finish = some (.ok, done) → c.state = .active → c.parked = 0 →
      c.retryAccess = [] → c.remote = 0 → c.dev = false → c.fetchErr = none ∨ rest ≠ [] → s.mayAskHost ch = true → done < 2 ^ 24 →
      s.hostOk c.func (c.slotAddr d.index) 64 = true → Answers (.descriptorWriteBack ch) s fun t =>
        t.hostMem.read (c.slotAddr d.index + 48) 8 = leBytes 8 done
          ∧ t.hostMem.read (c.slotAddr d.index) 8 = leBytes 8 (d.word0 - b2n d.own - bits d.word0 40 8 * 2 ^ 40)
          ∧ (∀ x, ¬(c.slotAddr d.index ≤ x ∧ x < c.slotAddr d.index + 8) →
              ¬(c.slotAddr d.index + 48 ≤ x ∧ x < c.slotAddr d.index + 56) → t.hostMem.byte x = s.hostMem.byte x)
          ∧ (t.chan ch).head = (if c.size ≤ d.index + 1 then 0 else d.index + 1) ∧ (t.chan ch).fetched = rest
          ∧ (t.chan ch).finish = none ∧ (∀ k, k ≠ ch → t.chan k = s.chan k)
          ∧ (∀ cl, (t.cluster cl).sin.bound ≠ some ch ∧ (t.cluster cl).sout.bound ≠ some ch)
          ∧ (d.irq = false → t = { s with dma := t.dma, hostMem := t.hostMem, clusters := t.clusters, engines := t.engines }))
    ∧ (s.working ch = true → c.fetched ≠ [] → s.time.dev < c.progressAt + c.timeoutMs * 100000 →
      exec (.descriptorTimeout ch) s = .next s)
    ∧ (s.working ch = true → c.fetched ≠ [] → c.progressAt + c.timeoutMs * 100000 ≤ s.time.dev → Answers (.descriptorTimeout ch) s fun t =>
      t = s.endDesc ch .timeout c.done 0 false false
        ∧ (c.dev = false → (s.engine (engineOf ch)).stopAll = false → (t.chan ch).state = .halted ∧ (t.chan ch).code = .timeout))
    ∧ (∀ (x : U64) (w att ref : Bool), s.working ch = true → (s.engine (engineOf ch)).stopAll = false →
      Answers (.busError ch x w att ref) s fun t =>
        t = s.endDesc ch (if ref then .refused else .busError) c.done x.toNat w false
        ∧ (c.dev = false → (t.chan ch).state = .halted ∧ (t.chan ch).code = (if ref then .refused else .busError)
          ∧ (t.chan ch).errAddr = x.toNat ∧ (t.chan ch).dir = w ∧ (t.chan ch).engStop = false
          ∧ ∀ k, k ≠ ch → t.chan k = s.chan k))
    ∧ (∀ (x : U64) (w : Bool) (st : Status), st ∈ [Status.bound, .domainOff, .channelBusy, .hwError] → s.working ch = true →
      s.desc ch ≠ none → c.finish = none →
      let failed := match s.home x.toNat with
        | some (e, _) => (s.edgeCh e).state == .failed
        | none => !inScratch x.toNat
      Answers (.deviceAccessError ch st.code x w) s fun t =>
        t = (s.endDesc ch st c.done x.toNat w false).jobFail c.polder x.toNat (st == .hwError && !w && !failed)
        ∧ (c.dev = false → (s.engine (engineOf ch)).stopAll = false → (st == .hwError && !w && !failed) = false → (t.chan ch).state = .halted
          ∧ (t.chan ch).code = st ∧ (t.chan ch).errAddr = x.toNat ∧ (t.chan ch).dir = w))
    ∧ (∀ e x rest, (s.edgeCh e).done = x :: rest → x.dma = ch →
      let gone := s.onEdgeCh e fun k => { k with done := rest }
      (c.life ≠ x.life → exec (.nbCompletion e) s = .next gone)
      ∧ (∀ d, c.life = x.life → c.begun = true → quiet → c.walk = none → c.fetched.head? = some d → x.channel ∈ c.awaited →
          d.dstDev = true ∨ s.mayAskHost ch = true → exec (.nbCompletion e) s = .next ((gone.progress ch).nbcmdDone d x))
      ∧ (∀ w, c.life = x.life → c.begun = true → quiet → c.walk = some w → exec (.nbCompletion e) s = .next ((gone.progress ch).walkDone x w)))
    ∧ (∀ k cmd, c.retry = some (k, cmd) → s.turnedAway (.dma ch) (2 ^ 61 + k) none = false → (s.stack k).dispatch.length < 8 → Answers (.heldRetry ch) s fun t =>
      (t.stack k).dispatch = (s.stack k).dispatch ++ [cmd] ∧ t.chan ch = { c with retry := none, held := satAdd 32 c.held 1, progressAt := s.time.dev }
        ∧ (∀ j, j ≠ k → t.stack j = s.stack j)
        ∧ t = { s with dma := t.dma, edgeStacks := t.edgeStacks, engines := t.engines })
    ∧ (∀ h rest, c.retry = none → c.retryAccess = h :: rest →
      let v := (s.onChan ch fun c => { c with held := satAdd 32 c.held 1, retryAccess := [] }).again h
      exec (.heldRetry ch) s = .next (if (v.chan ch).life = c.life then
        v.onChan ch fun k => { k with retryAccess := (v.chan ch).retryAccess ++ rest } else v))

/-- For a descriptor of which nothing has been read ahead. A COPY between host ranges that passes its checks, with Bus
Master Enable set and no error page in either range, leaves DST holding the bytes of SRC, reshuffled as SHUF says,
every other byte as before, and DONE = LEN. PSPLIT puts bit b of element e at bit e mod 8 of byte e / 8 of plane b,
and PJOIN undoes it; INTLV puts record (p, t) at t P + p, and DEINTLV undoes it. TO_SLUICE from host memory into an
open sluice that it can bind binds it and sends one entry per credit in order. FROM_SLUICE binds an open outbound
sluice. NBCMD from host memory whose LEN is 1 + PLEN, whose slots pass their checks and whose way no fenced router
bars (a free constant says which, log 61) hands the command, with its POLDER written, to the stack. KVWALK runs its
walk. (13_dma_engine.md, 07_polders_and_sluices.md) -/
def Obligations.DmaCopiesAndCommands : Prop :=
  (∀ (s : State) (ch : Nat) (d : Desc), s.desc ch = some d → s.working ch = true → (s.chan ch).begun = false →
    (s.chan ch).finish = none → (s.chan ch).parked = 0 → (s.chan ch).retryAccess = [] → (s.chan ch).remote = 0 →
    (s.chan ch).retry = none → (s.chan ch).ahead = [] → s.descCheck ch d = none → s.mayAskHost ch = true →
    let begun := s.setChan ch { s.chan ch with begun := true, done := 0, issued := 0, got := [] }
    let host := s.hostOk (s.chan ch).func
    (∀ i, (i, d.op, d.shuf) ∈ [(Instr.copy ch, 1, 0), (.psplit ch, 1, 1), (.pjoin ch, 1, 2), (.intlv ch, 1, 3), (.deintlv ch, 1, 4)] →
      d.srcDev = false → d.dstDev = false → host d.src (64 * d.len) = true → host d.dst (64 * d.len) = true →
      Answers i s fun t => t.hostMem.read d.dst (64 * d.len) = d.shuffle (s.hostMem.read d.src (64 * d.len))
        ∧ (∀ x, x < d.dst ∨ d.dst + 64 * d.len ≤ x → t.hostMem.byte x = s.hostMem.byte x)
        ∧ (t.chan ch).finish = some (.ok, d.len) ∧ (∀ k, k ≠ ch → t.chan k = s.chan k)
        ∧ t = { s with dma := t.dma, hostMem := t.hostMem, engines := t.engines })
    ∧ (d.op = 2 → d.srcDev = false → host d.src (64 * d.len) = true → s.canBindIn ch (d.dst / 2) = true →
      (s.cluster (d.dst / 2)).sin.coming = [] → Answers (.toSluice ch) s fun t =>
        let x := (s.cluster (d.dst / 2)).sin
        (t.cluster (d.dst / 2)).sin = { x with
            bound := some ch
            inflight := x.inflight + min d.len x.credit
            coming := (List.range (min d.len x.credit)).map fun i => s.hostMem.read (d.src + 64 * i) 64 }
          ∧ (∀ k, k ≠ d.dst / 2 → t.cluster k = s.cluster k) ∧ (∀ k, k ≠ ch → t.chan k = s.chan k)
          ∧ t = { s with dma := t.dma, clusters := t.clusters, engines := t.engines })
    ∧ (d.op = 3 → s.canBindOut ch (d.src / 2) = true → exec (.fromSluice ch) s = .next (begun.bindOut ch (d.src / 2)))
    ∧ (d.op = 4 → d.srcDev = false → host d.src (64 * d.len) = true → (s.chan ch).awaited = [] →
      s.slotCheck ch d (fieldAt (s.hostMem.read d.src 64) 4 4) = none → s.turnedAway (.dma ch) (2 ^ 61 + bits d.param 0 5) none = false →
      d.len = 1 + fieldAt (s.hostMem.read d.src 64) 10 2 → (s.stack (bits d.param 0 5)).dispatch.length < 8 →
      Answers (.nbcmd ch) s fun t =>
        let cmd : NbCmd := ⟨patch (s.hostMem.read d.src 64) 2 (polderByte (s.chan ch).polder),
          s.hostMem.read (d.src + 64) (64 * d.len - 64), ch, (s.chan ch).life⟩
        (t.stack (bits d.param 0 5)).dispatch = (s.stack (bits d.param 0 5)).dispatch ++ [cmd]
          ∧ (t.chan ch).awaited = cmd.selected (bits d.param 0 5) ∧ (∀ k, k ≠ bits d.param 0 5 → t.stack k = s.stack k)
          ∧ (∀ k, k ≠ ch → t.chan k = s.chan k)
          ∧ t = { s with dma := t.dma, edgeStacks := t.edgeStacks, engines := t.engines })
    ∧ (d.op = 5 → exec (.kvwalk ch) s = .next (State.walkLoop ch d 1000000 begun)))
  ∧ (∀ (w : Nat) (l : List Byte), w = 2 ∨ w = 4 → l.length % w = 0 →
      (∀ b e, b < w → e < 8 * l.length / w →
        (nth 0 (psplitBytes w l) (b * (l.length / w) + e / 8)).getLsbD (e % 8) = (nth 0 l ((e * w + b) / 8)).getLsbD ((e * w + b) % 8))
      ∧ pjoinBytes w (psplitBytes w l) = l)
  ∧ ∀ (p r n : Nat) (l : List Byte), 0 < p → 0 < r → l.length = p * n * (64 * r) →
      (∀ i j, i < p → j < n → ((intlvBytes p r l).drop ((j * p + i) * (64 * r))).take (64 * r)
        = (l.drop ((i * n + j) * (64 * r))).take (64 * r))
      ∧ deintlvBytes p r (intlvBytes p r l) = l

/-- BAR4_WIN takes an aligned base whose aperture ends at or below 0x0700_0000_0000, and enables its aperture; another is
dropped and logged. A BAR4 request inside one enabled aperture and one 4 KiB granule, with Memory Space Enable set and
no host access stalled, has the outcome of the device access to base plus offset: a read that fails completes with
Completer Abort, a write that fails is dropped and logged, one to memory that is off with DOMAIN_OFF (the model's
choice of the log, log 47). A disabled aperture answers Completer Abort and drops writes. A request across two
apertures, or of several granules, is made part by part. An AtomicOp, and any request while Memory Space Enable is
clear, is an Unsupported Request. VF_MAP takes 31 or an existing polder no other VF holds while the VF's channels are
DISABLED and neither polder runs. A whole write of a register sets its fields (shown of MB_CTL, TIME_LOAD and
DMA_RING_BASE, which reads back what it took); a read of ACC_ERR clears its COUNT; another access is dropped and
logged. Unmasking a vector, or setting Bus Master Enable, sends what was pending. (14_host_interface.md,
25_register_summary.md, 00_scope.md) -/
def Obligations.HostWindowsAndRegisters : Prop :=
  ∀ (s : State) (f i v o : Nat) (x : U64) (l : List Byte),
    let base := bits x.toNat 30 18 * 2 ^ 30
    (i < 4 → base % s.aperBytes = 0 → base + s.aperBytes ≤ 0x070000000000 →
      exec (.bar4Win i x) s = .next { s with bar4Win := s.bar4Win.set i base, bar4Off := Sparse.set false s.bar4Off i false })
    ∧ (i < 4 → base % s.aperBytes ≠ 0 ∨ 0x070000000000 < base + s.aperBytes →
      exec (.bar4Win i x) s = .next (s.accessError 0 kRefused false (0x200 + 8 * i)))
    ∧ ((s.func 0).mse = true → o < 2 ^ s.pcie.bar4Log2 → l ≠ [] →
      let room := s.aperBytes - o % s.aperBytes
      let k := l.length
      let a := nth 0 s.bar4Win (o / s.aperBytes) + o % s.aperBytes
      (k ≤ room → Sparse.get false s.bar4Off (o / s.aperBytes) = false →
        (s.stallsAt true = none → a % 4096 + k ≤ 4096 →
          ∀ r, r = s.access { who := .host, part := s.gatherNo * 4096 + 1 } a (.read k) [] →
            (r.2.status = .ok → exec (.bar4Read o k) s = .next { r.1 with reply := .data r.2.data })
            ∧ (r.2.status ≠ .ok → r.2.status ≠ .held → exec (.bar4Read o k) s = .next { r.1 with reply := .completerAbort })
            ∧ (r.2.status = .held → exec (.bar4Read o k) s = .next { r.1 with
                reply := .none
                gatherNo := s.gatherNo + 1
                gathers := r.1.gathers ++ [⟨s.gatherNo, .host, false, 0, [none]⟩] }))
        ∧ exec (.bar4Read o k) s = .next (s.hostReadParts ((partsOf a (.read k)).map fun p => (some p.1, p.2)) [])
        ∧ (s.stallsAt false = none → a % 4096 + k ≤ 4096 → ∀ r, r = s.access { who := .host } a (.write l) [] →
          (r.2.status = .ok ∨ r.2.status = .held ∨ r.2.uncorrectable = true → exec (.bar4Write o l) s = .next { r.1 with reply := .done })
          ∧ (r.2.status = .domainOff → r.2.uncorrectable = false →
            exec (.bar4Write o l) s = .next { r.1.addLog 22 0 31 a o Status.domainOff.code with reply := .done })
          ∧ (r.2.status ≠ .ok → r.2.status ≠ .held → r.2.status ≠ .domainOff → r.2.uncorrectable = false →
            exec (.bar4Write o l) s = .next { r.1.accessError 0 kBar4 false o with reply := .done })))
      ∧ (k ≤ room → Sparse.get false s.bar4Off (o / s.aperBytes) = true →
        (s.stallsAt true = none → exec (.bar4Read o k) s = .next { s with reply := .completerAbort })
        ∧ exec (.bar4Write o l) s = .next { s.accessError 0 kBar4 false o with reply := .done })
      ∧ (room < k →
        exec (.bar4Read o k) s = .next (s.hostReadParts (s.bar4Parts o room ++ s.bar4Parts (o + room) (k - room)) [])
        ∧ exec (.bar4Write o l) s = .next ((s.bar4WriteOne o (l.take room)).bar4WriteOne (o + room) (l.drop room))))
    ∧ exec (.bar4AtomicOp o) s = .next { s with reply := .unsupportedRequest }
    ∧ ((s.func 0).mse = false → ∀ c, c = Instr.bar4Read o i ∨ c = .bar4Write o l →
      exec c s = .next { s with reply := .unsupportedRequest })
    ∧ (let n := bits x.toNat 0 5
      1 ≤ v → v ≤ 24 → (n = 31 ∨ n < 24 ∧ (s.polder n).exists_ = true ∧ (s.polder n).state ≠ .running
          ∧ ∀ w, 1 ≤ w → w ≤ 24 → w ≠ v → s.vfPolder w ≠ n) →
      (∀ ch < 256, (s.chan ch).func = v → (s.chan ch).state = .disabled) →
      (s.vfPolder v = 31 ∨ (s.polder (s.vfPolder v)).state ≠ .running) → Answers (.vfMap v x) s fun t =>
        t.vfPolder v = n ∧ (∀ w, w ≠ v → t.vfPolder w = s.vfPolder w) ∧ t = { s with vfMap := t.vfMap })
    ∧ (∀ bar k, s.accessKind f bar o i = some k →
      exec (.registerWrite f bar o i x) s = .next { s.accessError f k (bar == 2) o with reply := .done }
      ∧ ∀ w : Bool, exec (.registerAccessError f bar o i w) s = .next
          { s.accessError f k (bar == 2) o with reply := if w then .done else .data (zeros i) })
    ∧ (bits x.toNat 16 9 < vectorsOf f → bits x.toNat 0 9 < vectorsOf f → Answers (.registerWrite f 2 0x20 4 x) s fun t =>
      t.func f = { s.func f with d2hIrq := bit x.toNat 31, fgVector := bits x.toNat 16 9, mbVector := bits x.toNat 0 9 }
        ∧ t.reply = .done ∧ s.OnlyFunc f t)
    ∧ exec (.registerWrite 0 0 0x3618 8 x) s = .next { s with reply := .done, time := { s.time with load := x.toNat } }
    ∧ (i < 256 → Answers (.registerWrite 0 0 (0x1000000 + 0x80 * i) 8 x) s fun t =>
      t.chan i = { s.chan i with base := x.toNat / 64 * 64, baseLow := bits x.toNat 1 5, dev := bit x.toNat 0 }
        ∧ (∀ k, k ≠ i → t.chan k = s.chan k) ∧ t = { s with reply := .done, dma := t.dma }
        ∧ t.readRegister 0 0 (0x1000000 + 0x80 * i) 8
          = { t with reply := .data (leBytes 8 (x.toNat / 64 * 64 + x.toNat % 2)) })
    ∧ s.readRegister 0 0 0x4000 8
        = { s with accErr := { s.accErr with count := 0 }, reply := .data (leBytes 8 s.accErr.word) }
    ∧ (let e : Msix := Sparse.get {} (s.func f).msix v
      (e.pending = true → (s.func f).bme = true → (s.func f).msixOn = true → Answers (.msixVectorUnmask f v) s fun t =>
        (Sparse.get {} (t.func f).msix v : Msix) = { e with masked := false, pending := false }
          ∧ t.msixSent = Sparse.modify 0 s.msixSent (f * 1024 + v) (· + 1)
          ∧ (∀ g, g ≠ f → t.func g = s.func g) ∧ t = { s with funcs := t.funcs, msixSent := t.msixSent })
      ∧ (e.pending = false → Answers (.msixVectorUnmask f v) s fun t =>
        (Sparse.get {} (t.func f).msix v : Msix) = { e with masked := false } ∧ (∀ g, g ≠ f → t.func g = s.func g)
          ∧ t = { s with funcs := t.funcs }))
    ∧ Answers (.busMasterEnableSet f) s fun t => (t.func f).bme = true ∧ (t.func f).fgDeferred = []
      ∧ (∀ g, g ≠ f → t.func g = s.func g) ∧ s.OnlySends t

/-- While the link is up and a bring-up has neither ended nor failed a configuration request is answered with Request
Retry Status, and while it is down not at all; afterwards a read of the PF answers Vendor and Device ID or the named
value, and a write has its effect: a BAR keeps the bits above its size, and a new size of BAR4 leaves every base and
disables the apertures whose base it leaves misaligned. A VF that is not enabled answers Unsupported Request. PERST_N
asserted takes the link down and makes a warm reset due, in a bring-up resets the PCIe domain alone, and wakes the
package from P3; training gives the highest rate and width that both ends support. An FLR of a VF leaves its page at
reset, its channels DISABLED with owner and edge window kept, and its polder HALTED; clearing VF Enable does so for
every VF. An FLR of the PF disables every channel, clears VF Enable, sets BAR4_WIN and VF_MAP to their reset values
and keeps firmware, schedules, under-core memory and, while no near-bank command is queued, edge contents.
(14_host_interface.md) -/
def Obligations.ConfigurationAndFunctionResets : Prop :=
  ∀ (s : State) (f v : Nat) (req : ConfigReq) (on flit : Bool),
    (s.pcie.on = true → s.pcie.up = true → s.retrying = true → exec (.configRequest f req) s = .next { s with reply := .requestRetry })
    ∧ (s.pcie.on = true → s.pcie.up = true → s.retrying = false →
      exec (.configRequest 0 .read) s = .next { s with reply := .data [0x57, 0x1E, 0x12, 0x0C] }
      ∧ (f = 0 ∨ s.pcie.vfEnable = true → exec (.configRequest f (.memorySpace on)) s
          = .next { s.onFunc f (fun x => { x with mse := on }) with reply := .done }
        ∧ exec (.configRequest f (.busMaster false)) s = .next { s.onFunc f (fun x => { x with bme := false }) with reply := .done })
      ∧ exec (.configRequest 0 (.vfEnable true)) s = .next { s with reply := .done, pcie := { s.pcie with vfEnable := true } }
      ∧ (30 ≤ v → v ≤ 42 → Answers (.configRequest 0 (.bar4Size v)) s fun t =>
        t = { s with reply := .done, pcie := { s.pcie with bar4Log2 := v }, bar4Off := t.bar4Off }
          ∧ ∀ i < 4, Sparse.get false t.bar4Off i = (Sparse.get false s.bar4Off i || decide (nth 0 s.bar4Win i % (2 ^ v / 4) ≠ 0)))
      ∧ (f = 0 ∨ s.pcie.vfEnable = true → ∀ i, exec (.configRequest f (.readItem i)) s
          = .next { s with reply := .data (leBytes 4 (s.configValue f i)) })
      ∧ (∀ n w, w < 2 ^ 32 → Answers (.configRequest 0 (.barWrite n w)) s fun t =>
        t = { s with reply := .done, pcie := { s.pcie with bars := t.pcie.bars } }
          ∧ (n = 0 → t.configValue 0 (.bar 0) = w / 2 ^ 25 * 2 ^ 25 + 4)
          ∧ (n = 2 → t.configValue 0 (.bar 2) = w / 4096 * 4096 + 4)
          ∧ (n = 1 ∨ n = 3 → t.configValue 0 (.bar n) = w)
          ∧ (32 ≤ s.pcie.bar4Log2 → t.configValue 0 (.bar 4) = 12)
          ∧ (n = 5 → 32 ≤ s.pcie.bar4Log2 → t.configValue 0 (.bar 5) = w / 2 ^ (s.pcie.bar4Log2 - 32) * 2 ^ (s.pcie.bar4Log2 - 32)))
      ∧ (f ≠ 0 → s.pcie.vfEnable = false → exec (.configRequest f req) s = .next { s with reply := .unsupportedRequest }))
    ∧ (s.pcie.on = false ∨ s.pcie.up = false → exec (.configRequest f req) s = .next { s with reply := .none })
    ∧ ([ConfigItem.classCode, .interruptPin, .maxPayload, .maxReadRequest, .totalVfs, .firstVfOffset, .vfStride, .vfDeviceId,
        .vfPageSize].map (s.configValue 0) = [0x120000, 0, 512, 4096, 24, 1, 1, 0x0C13, 4096])
    ∧ exec (.perstN false) s = .next { s with pcie := { s.pcie with perst := false } }
    ∧ (s.power.aon = true → s.power.pkg ≠ .p3 → s.boot.running = false → exec (.perstN true) s = .next
        { s with pcie := { s.pcie with perst := true, up := false, resetting := true }, boot := { s.boot with resetDue := true } })
    ∧ (s.power.aon = true → s.power.pkg ≠ .p3 → s.boot.running = true → Answers (.perstN true) s fun t =>
        t = { s with pcie := { on := true, perst := true }, bar4Win := [0, 0x010000000000, 0x020000000000, 0x040000000000]
                     bar4Off := [], vfMap := [], funcs := t.funcs } ∧ ∀ g, t.func g = (s.func g).pcieReset)
    ∧ (s.power.aon = true → s.power.pkg = .p3 → s.power.sagHold = false → s.power.entering = none → exec (.perstN true) s = .next
        { s with pcie := { s.pcie with perst := true, up := false }, power := { s.power with exiting := true } })
    ∧ (∀ rate width, s.pcie.on = true → s.pcie.perst = false → 25 ≤ rate → 1 ≤ width → Answers (.linkTrainPcie rate width flit) s fun t =>
        let r := t.pcie.rate
        let w := t.pcie.width
        r ∈ pcieRates ∧ r ≤ rate ∧ (flit = false → r ≤ 320) ∧ (∀ q ∈ pcieRates, q ≤ rate → flit = true ∨ q ≤ 320 → q ≤ r)
          ∧ w ∈ [1, 2, 4, 8, 16] ∧ w ≤ width ∧ (∀ q ∈ [1, 2, 4, 8, 16], q ≤ width → q ≤ w)
          ∧ t = { s with pcie := { s.pcie with up := true, rate := r, width := w, flit := flit } })
    ∧ (1 ≤ v → v ≤ 24 → Answers (.vfFlr v) s fun t => t.func v = {}
        ∧ (∀ ch < 256, (s.chan ch).func = v → (t.chan ch).state = .disabled ∧ (t.chan ch).func = v
            ∧ (t.chan ch).polder = (s.chan ch).polder ∧ (t.chan ch).edgeLo = (s.chan ch).edgeLo
            ∧ (t.chan ch).edgeHi = (s.chan ch).edgeHi ∧ (t.chan ch).base = 0 ∧ (t.chan ch).size = 0 ∧ (t.chan ch).fetched = [])
        ∧ (s.vfPolder v < 24 → (s.polder (s.vfPolder v)).exists_ = true → s.gates = [] → (s.polder (s.vfPolder v)).gates = [] →
            (s.polder (s.vfPolder v)).state = .running →
            (t.polder (s.vfPolder v)).state = .halted ∧ (t.polder (s.vfPolder v)).job = none)
        ∧ t.trust = s.trust ∧ t.vfMap = s.vfMap ∧ t.bar4Win = s.bar4Win)
    ∧ (Answers .vfEnableClear s fun t => t.pcie.vfEnable = false
        ∧ (∀ g, 1 ≤ g → g ≤ 24 → (t.func g).ring = none ∧ (t.func g).inbox = [] ∧ (t.func g).h2d = [])
        ∧ (∀ ch < 256, 1 ≤ (s.chan ch).func → (s.chan ch).func ≤ 24 → (t.chan ch).state = .disabled) ∧ t.trust = s.trust)
    ∧ Answers .pfFlr s fun t => (∀ ch < 256, (t.chan ch).state = .disabled) ∧ t.pcie.vfEnable = false
        ∧ (∀ g, t.func g = {}) ∧ (∀ g, t.vfPolder g = 31) ∧ t.bar4Win = [0, 0x010000000000, 0x020000000000, 0x040000000000]
        ∧ t.trust = s.trust ∧ t.ucm = s.ucm ∧ ((∀ e ∈ s.channels, e.2.queue = []) → t.edge = s.edge)
        ∧ ∀ n < 24, (s.polder n).exists_ = true → (t.polder n).image = (s.polder n).image

/-- A refresh that falls due is performed with those deferred in an idle gap, and else deferred, at most eight. A host
read through the aperture of a sound word answers its bytes, and of a word whose valid bit is clear zeros; a host
write of a whole word writes exactly it and makes it valid; a narrower one waits in the merge buffer. A retired entry
writes its masked bytes over a sound word, and waits while self-refresh runs. With no fenced culvert router, a scrub
request goes to the next word of the slice and leaves a sound word as it is, as an access to its die, and skips a word
that was never written, which is none; an error that the code corrects is written back and counted, and one it cannot
correct is counted. At the end of a pass the period is halved above 64 corrections and doubled at none, within the
bounds. A die whose half-dies sleep, 100 µs after its last access, enters self-refresh. (08_under_core_memory.md) -/
def Obligations.UnderCoreMemoryRunsByItself : Prop :=
  ∀ (s : State) (core w o : Nat) (l : List Byte),
    let d := dieOf (clusterOf core)
    let clean : Prop := Sparse.get false s.ucmValid (ucmIndex core w) = true ∧ Sparse.get [] s.ucmBad (ucmIndex core w) = []
    s.fencedCulverts = [] →
    (∀ layer idle, (s.ucmDie d).on = true → (s.ucmDie d).selfRefresh = false → Answers (.ucmRefresh d layer idle) s fun t =>
      let k := Sparse.get 0 (s.ucmDie d).deferred layer
      let run := if idle then k + 1 else if 8 ≤ k then 1 else 0
      Sparse.get 0 (t.ucmDie d).refreshes layer = Sparse.get 0 (s.ucmDie d).refreshes layer + run
        ∧ Sparse.get 0 (t.ucmDie d).deferred layer = k + 1 - run
        ∧ (∀ j, j ≠ layer → Sparse.get 0 (t.ucmDie d).deferred j = Sparse.get 0 (s.ucmDie d).deferred j)
        ∧ (∀ j, j ≠ d → t.ucmDie j = s.ucmDie j) ∧ t = { s with ucmDies := t.ucmDies })
    ∧ (∀ a, s.apertureBacked a = true → apertureCore a = core → apertureOff a = 32 * w + o → o + l.length ≤ 32 → 0 < l.length →
      s.ucmOff d = false → (∀ m ∈ (Sparse.get [] s.merges core : List MergeEntry), m.word ≠ w) →
      (s.stallsAt true = none → clean → Answers (.ucmApertureAccess .host a (.read l.length) []) s fun t =>
        t.reply = .data (((s.ucm.read (ucmAddr core w) 32).drop o).take l.length) ∧ t.ucm = s.ucm)
      ∧ (s.stallsAt true = none → Sparse.get false s.ucmValid (ucmIndex core w) = false →
        Answers (.ucmApertureAccess .host a (.read l.length) []) s fun t => t.reply = .data (zeros l.length) ∧ t.ucm = s.ucm)
      ∧ (s.stallsAt false = none → l.length = 32 → Answers (.ucmApertureAccess .host a (.write l) []) s fun t =>
        t.ucm.read (ucmAddr core w) 32 = l ∧ Sparse.get false t.ucmValid (ucmIndex core w) = true
          ∧ (∀ x, x < ucmAddr core w ∨ ucmAddr core w + 32 ≤ x → t.ucm.byte x = s.ucm.byte x)
          ∧ (t.ucmDie d).selfRefresh = false ∧ t.reply = .done)
      ∧ (s.stallsAt false = none → l.length < 32 → Sparse.get [] s.merges core = ([] : List MergeEntry) →
        Answers (.ucmApertureAccess .host a (.write l) []) s fun t => t.ucm = s.ucm ∧ t.reply = .done
          ∧ Sparse.get [] t.merges core = [⟨w, 0 ||| (BitVec.ofNat 32 (2 ^ l.length - 1) <<< o), patch (zeros 32) o l, 0⟩]))
    ∧ ((s.ucmDie d).selfRefresh = true → exec (.mergeRetire core w []) s = .next s)
    ∧ (∀ m : MergeEntry, Sparse.get [] s.merges core = [m] → m.word = w → m.data.length = 32 → clean →
      (s.ucmDie d).on = true → (s.ucmDie d).selfRefresh = false → Answers (.mergeRetire core w []) s fun t => Sparse.get [] t.merges core = ([] : List MergeEntry)
        ∧ (∀ i < 32, t.ucm.byte (ucmAddr core w + i) = if m.mask.getLsbD i = true then nth 0 m.data i else s.ucm.byte (ucmAddr core w + i))
        ∧ (∀ x, x < ucmAddr core w ∨ ucmAddr core w + 32 ≤ x → t.ucm.byte x = s.ucm.byte x))
    ∧ (Sparse.get 0 s.ucmScrub core = w → (s.ucmDie d).on = true → (s.ucmDie d).selfRefresh = false →
      (∀ m ∈ (Sparse.get [] s.merges core : List MergeEntry), m.word ≠ w) →
      (clean ∨ Sparse.get false s.ucmValid (ucmIndex core w) = false → Answers (.ucmScrubRequest core []) s fun t =>
        Sparse.get 0 t.ucmScrub core = (w + 1) % sliceWords ∧ ((t.ucmDie d).lastAccess = if Sparse.get false s.ucmValid (ucmIndex core w) = true then s.time.dev else (s.ucmDie d).lastAccess)
          ∧ (t.ucmDie d).passCorrected = (s.ucmDie d).passCorrected ∧ (∀ i, Sparse.get [] t.ucmBad i = Sparse.get [] s.ucmBad i)
          ∧ t = { s with ucmScrub := t.ucmScrub, ucmBad := t.ucmBad, ucmDies := t.ucmDies, tcores := t.tcores, vcores := t.vcores, scores := t.scores })
      ∧ (∀ flips e, clean → ucmDecode (errsOf flips) = some e → errsTo (errsOf flips) ≠ [] →
        Answers (.ucmScrubRequest core flips) s fun t => Sparse.get 0 t.ucmScrub core = (w + 1) % sliceWords
          ∧ t.ucm.read (ucmAddr core w) 32 = ((errsOf flips).after e).apply (s.ucm.read (ucmAddr core w) 32)
          ∧ (∀ x, x < ucmAddr core w ∨ ucmAddr core w + 32 ≤ x → t.ucm.byte x = s.ucm.byte x)
          ∧ Sparse.get [] t.ucmBad (ucmIndex core w) = [] ∧ (t.ucmDie d).passCorrected = (s.ucmDie d).passCorrected + 1)
      ∧ (∀ flips, clean → ucmDecode (errsOf flips) = none → Answers (.ucmScrubRequest core flips) s fun t =>
          t.ucm = s.ucm ∧ (t.cluster (clusterOf core)).ueCount = satAdd 8 (s.cluster (clusterOf core)).ueCount 1))
    ∧ (s.trust.running = true → Answers (.ucmScrubPassEnd d) s fun t =>
      let x := s.ucmDie d
      let lo := s.ledger.scrub.lo.toNat * 3600
      let hi := s.ledger.scrub.hi.toNat * 3600
      (t.ucmDie d).period = max lo (min hi (if 64 < x.passCorrected then x.period / 2
          else if x.passCorrected = 0 then 2 * x.period else x.period))
        ∧ (t.ucmDie d).passCorrected = 0 ∧ (∀ j, j ≠ d → t.ucmDie j = s.ucmDie j)
        ∧ t = { s with ucmDies := t.ucmDies, ledger := { s.ledger with frozen := t.ledger.frozen } })
    ∧ ((s.ucmDie d).on = true → (s.halfDie (2 * d)).power = .nap ∨ (s.halfDie (2 * d)).power = .off →
      (s.halfDie (2 * d + 1)).power = .nap ∨ (s.halfDie (2 * d + 1)).power = .off → 10000 ≤ s.time.dev - (s.ucmDie d).lastAccess →
      exec (.ucmSelfRefreshEntry d) s = .next (s.onUcmDie d fun x => { x with selfRefresh := true }))

/-- A host access to a trained channel in memory mode of a powered stack, on a line that the basin does not hold and
without errors: a read answers the bytes of its home; a 32 B sector read does so without changing the edge; a write of
a whole burst writes exactly it. A line with 64 corrections is marked, recorded and its channel's retrain requested. A
retrain starts when no other channel of the stack retrains and no lower one waits, and waits otherwise; at its end the
marks and the lines that failed are bad lines, more than four leave the channel FAILED, and else the retrain counts. A
scrub request goes to the next burst, and an error that the code corrects is written back and counted; a refresh is
counted. (09_edge_stacks_and_basin.md) -/
def Obligations.EdgeChannelsRunByThemselves : Prop :=
  ∀ (s : State) (e off : Nat),
    let c := s.edgeCh e
    (∀ a n l, s.fencedCulverts = [] → s.home a = some (e, off) → a < 0x018000000000 → s.stackOff (e / 32) = false → c.state = .trained → c.mode = .memory →
      (s.basin (e / 256)).find e (off / 128) = none → Sparse.get [] s.edgeBad (burstIndex e (128 * (off / 128))) = [] →
      Sparse.get [] s.edgeBad (burstIndex e (128 * (off / 128) + 64)) = [] → off % 4096 = a % 4096 →
      (s.stallsAt true = none → 0 < n → off % 128 + n ≤ 128 → Answers (.edgeAccess .host a (.read n) []) s fun t =>
        t.reply = .data (s.edge.read (edgeAddr e off) n))
      ∧ (s.stallsAt true = none → a % 32 = 0 → Answers (.sectorRead .host a []) s fun t =>
        t.reply = .data (s.edge.read (edgeAddr e off) 32) ∧ t.edge = s.edge ∧ t.ucm = s.ucm ∧ t.dma = s.dma)
      ∧ (s.stallsAt false = none → off % 64 = 0 → l.length = 64 → Answers (.edgeAccess .host a (.write l) []) s fun t =>
        t.edge.read (edgeAddr e off) 64 = l ∧ t.reply = .done
          ∧ ∀ x, x < edgeAddr e off ∨ edgeAddr e off + 64 ≤ x → t.edge.byte x = s.edge.byte x))
    ∧ (∀ line, s.trust.running = true → 64 ≤ Sparse.get 0 c.lineCount line → line ∉ c.badLines → line ∉ c.newBad →
      exec (.edgeLineMark e line) s = .next ((s.setEdgeCh e { c with
        newBad := c.newBad ++ [line]
        lineCount := Sparse.set 0 c.lineCount line 0
        retrainDue := true }).writeField [lineEntry e line]))
    ∧ (let first : Prop := ∀ o, o / 32 = e / 32 → (s.edgeCh o).state ≠ .retraining ∧
        (o < e → (s.edgeCh o).retrainDue = false ∨ (s.edgeCh o).state ≠ .trained)
      c.state = .trained → s.stackOff (e / 32) = false →
      (first → exec (.edgeRetrainStart e) s = .next (s.setEdgeCh e { c with state := .retraining, retrainDue := false }))
      ∧ (¬first → exec (.edgeRetrainStart e) s = .next (s.setEdgeCh e { c with retrainDue := true })))
    ∧ (∀ bad, c.state = .retraining → c.held = [] → c.waiting = [] →
      let lines := (List.range 72).filter fun l => c.badLines.contains l || c.newBad.contains l || bad.contains l
      Answers (.edgeRetrainEnd e bad) s fun t => (t.edgeCh e).state = (if 4 < lines.length then .failed else .trained)
        ∧ (t.edgeCh e).badLines = lines ∧ (t.edgeCh e).newBad = [] ∧ (t.edgeCh e).mode = c.mode ∧ t.edge = s.edge
        ∧ (t.edgeCh e).retrains = (if 4 < lines.length then c.retrains else satAdd 16 c.retrains 1)
        ∧ ∀ k, k ≠ e → t.edgeCh k = s.edgeCh k)
    ∧ (s.stackOff (e / 32) = false → (s.stack (e / 32)).selfRefresh = false → s.scrubbed e = true → c.scrubPos + 1 < s.chBytes / 64 →
      Sparse.get [] s.edgeBad (burstIndex e (64 * c.scrubPos)) = [] →
      (Answers (.edgeScrubRequest e []) s fun t =>
        t.edgeCh e = { c with scrubPos := c.scrubPos + 1, act := Sparse.modify 0 c.act 125 (· + 1) }
          ∧ (∀ k, k ≠ e → t.edgeCh k = s.edgeCh k) ∧ t = { s with channels := t.channels, edgeBad := t.edgeBad })
      ∧ ∀ flips x, (∀ f ∈ flips, f.symbol < 72) → errsTo (errsOf flips) ≠ [] → edgeDecode c.badLines (errsOf flips) = some x →
        Answers (.edgeScrubRequest e flips) s fun t =>
          let at_ := edgeAddr e (64 * c.scrubPos)
          t.edge.read at_ 64 = ((errsOf flips).after x).apply (s.edge.read at_ 64)
            ∧ (∀ i, i < at_ ∨ at_ + 64 ≤ i → t.edge.byte i = s.edge.byte i)
            ∧ Sparse.get [] t.edgeBad (burstIndex e (64 * c.scrubPos)) = []
            ∧ (t.edgeCh e).ceCount = satAdd 32 c.ceCount 1 ∧ (t.edgeCh e).scrubPos = c.scrubPos + 1
            ∧ (t.stack (e / 32)).passCorrected = (s.stack (e / 32)).passCorrected + 1)
    ∧ ((s.stack (e / 32)).on = true → exec (.edgeRefresh e) s = .next (s.setEdgeCh e { c with refreshes := c.refreshes + 1 }))

/-- A command that passes the dispatcher's checks enters the queues of all its channels once each has room, and one that
fails is answered for each with the status. In processor mode on a trained channel the command at the head runs and
completes OK: NB_WRITE writes its payload, NB_READ answers the bytes, NB_FILL repeats its doubleword, NB_COPY copies a
range onto a disjoint one, NB_SYNC does nothing, each leaving every other byte as it was (reads shown for bursts
without errors); NB_APPEND writes the four planes of its page, NB_SCORES and NB_ATTEND run over the channel list and
complete with their flags and payload, and a list that fails gives its status. The command leaves the queue; no other
channel changes. (10_near_bank_units.md, 11_attention_and_kv_cache.md) -/
def Obligations.NearBankUnitsRunTheirCommands : Prop :=
  (∀ (s : State) (e : Nat) (c : NbCmd) (rest : List NbCmd), (s.edgeCh e).queue = c :: rest → (s.edgeCh e).mode = .processor →
    (s.edgeCh e).state = .trained →
    let k := s.edgeCh e
    let ended (payload : List Byte) (t : State) : Prop := (t.edgeCh e).queue = rest
      ∧ (∃ cycles, (t.edgeCh e).done = k.done ++ [⟨c.tag, e, .ok, 0, payload, cycles, c.dma, c.life⟩])
      ∧ (t.edgeCh e).lastOpc = c.opc ∧ (t.edgeCh e).lastStatus = .ok ∧ ∀ j, j ≠ e → t.edgeCh j = s.edgeCh j
    let only (a n : Nat) (t : State) : Prop := ∀ x, x < edgeAddr e a ∨ edgeAddr e a + n ≤ x → t.edge.byte x = s.edge.byte x
    let clean (a n : Nat) : Prop := ∀ i < n, Sparse.get [] s.edgeBad (burstIndex e (a + 64 * i)) = []
    (c.opc = 1 → c.arg 0 % 64 = 0 → c.payload.length = 64 * c.plen → c.plen ≤ 64 → Answers (.nbWrite e) s fun t =>
      ended [] t ∧ t.edge.read (edgeAddr e (c.arg 0)) (64 * c.plen) = c.payload ∧ only (c.arg 0) (64 * c.plen) t)
    ∧ (let n := bits (c.arg 1) 0 24
      (c.opc = 2 → c.arg 0 % 64 = 0 → clean (c.arg 0) n → Answers (.nbRead e) s fun t =>
        ended (s.edge.read (edgeAddr e (c.arg 0)) (64 * n)) t ∧ t.edge = s.edge)
      ∧ (c.opc = 3 → c.arg 0 % 64 = 0 → Answers (.nbFill e) s fun t => ended [] t
        ∧ t.edge.read (edgeAddr e (c.arg 0)) (64 * n) = (List.replicate (8 * n) (leBytes 8 (c.arg 2))).flatten
        ∧ only (c.arg 0) (64 * n) t))
    ∧ (let n := bits (c.arg 2) 0 24
      c.opc = 4 → c.arg 0 % 64 = 0 → c.arg 1 % 64 = 0 → clean (c.arg 0) n →
      c.arg 0 + 64 * n ≤ c.arg 1 ∨ c.arg 1 + 64 * n ≤ c.arg 0 → Answers (.nbCopy e) s fun t => ended [] t
        ∧ t.edge.read (edgeAddr e (c.arg 1)) (64 * n) = s.edge.read (edgeAddr e (c.arg 0)) (64 * n) ∧ only (c.arg 1) (64 * n) t)
    ∧ (c.opc = 8 → Answers (.nbSync e) s fun t => ended [] t ∧ t.edge = s.edge)
    ∧ (∀ w, c.opc = 5 →
      let kq := (srcRecords c.srcfmt c.ad c.ntok 0 c.payload).map (kvQuant c.opts c.akfmt c.ad)
      let vq := (srcRecords c.srcfmt c.ad c.ntok (c.ntok * c.ad * srcBytes c.srcfmt) c.payload).map (kvQuant c.opts c.avfmt c.ad)
      let at_ (plane : Nat) : Nat := c.arg 0 + planeOff c.akfmt c.avfmt c.ad plane c.first
      w = s.chWrites e (s.unitBy e c) [(at_ 0, (kq.map fun q => q.1).flatten), (at_ 1, (kq.map fun q => q.2.1).flatten),
        (at_ 2, (vq.map fun q => q.1).flatten), (at_ 3, (vq.map fun q => q.2.1).flatten)] → w.2.status = .ok →
      Answers (.nbAppend e) s fun t => t.edge = w.1.edge ∧ (t.edgeCh e).queue = rest ∧ (t.edgeCh e).lastStatus = .ok
        ∧ ∀ j, j ≠ e → t.edgeCh j = s.edgeCh j)
    ∧ (∀ st, (s.nbList e c).2 = .error st → ∀ i, (i, c.opc) ∈ [(Instr.nbScores e, 6), (.nbAttend e, 7)] →
      exec i s = .next ((s.nbList e c).1.nbEnd e c st))
    ∧ (∀ l, (s.nbList e c).2 = .ok l →
      (∀ r, c.opc = 6 → r = (s.nbList e c).1.nbScoresLoop e c c.query l 0 0 → r.2.1.status = .ok →
        exec (.nbScores e) s = .next ((r.1.nbMasked e c (maskedOf l)).nbFinish e c .ok r.2.2.2 []
          (c.listCycles (s.stack (e / 32)).band l.length)))
      ∧ (∀ r, c.opc = 7 → r = (s.nbList e c).1.nbAttendLoop e c c.query l (List.replicate c.g { o := List.replicate c.d 0 }) →
        r.2.1.status = .ok → Answers (.nbAttend e) s fun t => (t.edgeCh e).queue = rest ∧ (t.edgeCh e).lastStatus = .ok
          ∧ t.edge = r.1.edge ∧ ∃ x, (t.edgeCh e).done = (r.1.edgeCh e).done ++ [x]
            ∧ x.cycles = c.listCycles (s.stack (e / 32)).band l.length ∧ x.status = .ok
            ∧ x.payload.take ((r.2.2.2.map fun h => (h.bytes c.opts).1).flatten.length)
              = (r.2.2.2.map fun h => (h.bytes c.opts).1).flatten)))
  ∧ ∀ (s : State) (stack : Nat) (c : NbCmd) (rest : List NbCmd), (s.stack stack).dispatch = c :: rest →
    let chs := ((List.range 32).filter (bit c.mask)).map (32 * stack + ·)
    (s.nbCheck stack c chs = none → (∀ e ∈ chs, (s.edgeCh e).queue.length < 16) → Answers (.nbDispatch stack) s fun t =>
      (t.stack stack).dispatch = rest ∧ (∀ e ∈ chs, t.edgeCh e = { s.edgeCh e with queue := (s.edgeCh e).queue ++ [c] })
        ∧ (∀ e, e ∉ chs → t.edgeCh e = s.edgeCh e) ∧ t = { s with edgeStacks := t.edgeStacks, channels := t.channels })
    ∧ (∀ st, s.nbCheck stack c chs = some st → chs = [] → exec (.nbDispatch stack) s
        = .next ((s.onStack stack fun k => { k with dispatch := rest }).onEdgeCh (32 * stack) fun k => { k with
            done := k.done ++ [⟨c.tag, 1024 + stack, st, 0, [], 0, c.dma, c.life⟩] }))
    ∧ (∀ st, s.nbCheck stack c chs = some st → chs ≠ [] → Answers (.nbDispatch stack) s fun t =>
      (t.stack stack).dispatch = rest
        ∧ (∀ e ∈ chs, t.edgeCh e = { s.edgeCh e with done := (s.edgeCh e).done ++ [⟨c.tag, e, st, 0, [], 0, c.dma, c.life⟩] })
        ∧ (∀ e, e ∉ chs → t.edgeCh e = s.edgeCh e) ∧ t = { s with edgeStacks := t.edgeStacks, channels := t.channels })

/-- A sample is kept for every sensor; the governing value of a pair with two valid plausible readings is the hotter one,
and an implausible reading invalidates its sensor for 100 samples. Flow edges 20 µs apart or more count, 16 within 1 s
arm the monitor, and 20 ms without one is a coolant loss: COOLANT_HOLD with its cause, half-dies OFF and powered
memory in self-refresh, until its exit conditions are met. A hardware trip cuts everything but what survives a cold
reset. The thermal cap enters the effective cap, the smallest of three in whole watts, while firmware runs; the
rotation interval stays in its bounds. The reports formed from the units' own counts add their energy to the rail's
counter, MODULE and the polder (shown for rails whose estimator works at gain 1), and the counts start anew; in P3
none counts. Telemetry sets the supply cap, and in P3 counts the input as STANDING; over PEAK every running polder
loses a step; the voltage loop asks the rail for 5 mV inside its bounds and else freezes. (18_heat_and_coolant.md,
17_energy_ledger.md, 19_power_domains_and_supply.md) -/
def Obligations.HeatCoolantAndLedger : Prop :=
  ∀ (s : State) (h : Nat),
    let least (l : Ledger) : Nat :=
      if l.cap * l.thermalCap.2 ≤ l.thermalCap.1 ∧ l.cap * 1000 ≤ l.supplyCap then l.cap
      else if l.thermalCap.1 * 1000 ≤ l.supplyCap * l.thermalCap.2 then l.thermalCap.1 / l.thermalCap.2 else l.supplyCap / 1000
    (∀ r : Readings, s.power.culverts = true → (rawReadings r).length = 1922 → Answers (.sensorSample r) s fun t =>
      (∀ i < 1922, Sparse.get none t.thermal.last i = some (nth 0 (rawReadings r) i))
        ∧ (∀ i < 1922, plausible i (Sparse.get none s.thermal.last i) (nth 0 (rawReadings r) i) = false →
            Sparse.get 0 t.thermal.invalid i = 100)
        ∧ ∀ q < 960, (∀ i, i = 2 * q ∨ i = 2 * q + 1 → Sparse.get 0 s.thermal.invalid i = 0
            ∧ plausible i (Sparse.get none s.thermal.last i) (nth 0 (rawReadings r) i) = true) →
          Sparse.get 0 t.thermal.governing q = max (nth 0 (rawReadings r) (2 * q)) (nth 0 (rawReadings r) (2 * q + 1)))
    ∧ (20 ≤ h → s.power.aon = true → Answers (.flowPulseEdge h) s fun t => t.thermal.flowing = true
        ∧ (t.thermal.armed = true ↔ s.thermal.armed = true ∨ 15 ≤ (s.thermal.edges.filter fun a => decide (a + h ≤ 1000000)).length)
        ∧ (∀ a ∈ t.thermal.edges, a ≤ 1000000) ∧ t.thermal.edges.getLast? = some 0
        ∧ t = { s with thermal := { s.thermal with edges := t.thermal.edges, armed := t.thermal.armed, flowing := true } })
    ∧ (s.thermal.armed = true → s.thermal.coolantHold = false → s.power.sagHold = false → s.power.aon = true → s.power.pkg ≠ .p3 →
      Answers .flowPulseTimeout s fun t => t.thermal.coolantHold = true ∧ t.thermal.cause = 2 ∧ t.thermal.flowing = false
        ∧ (∀ k < 24, (t.halfDie k).power = .off) ∧ (∀ d < 12, (s.ucmDie d).on = true → (t.ucmDie d).selfRefresh = true)
        ∧ (∀ e < 32, (s.stack e).on = true → (t.stack e).selfRefresh = true) ∧ t.ucm = s.ucm
        ∧ ((∀ e ∈ s.channels, e.2.queue = []) → t.edge = s.edge))
    ∧ (s.thermal.coolantHold = true → s.trust.running = true → s.coolantGood = true → Answers .coolantHoldExit s fun t =>
      t.thermal.coolantHold = false
        ∧ (∀ d < 12, Sparse.get false s.thermal.shut d = false → (t.ucmDie d).selfRefresh = false)
        ∧ (∀ e < 32, (t.stack e).selfRefresh = (if (s.stack e).shut then (s.stack e).selfRefresh else false))
        ∧ t.polders = s.polders ∧ t.halfDies = s.halfDies)
    ∧ (∀ kind, s.power.aon = true → Answers (.hardwareTrip kind h) s fun t => t.power.trip = some (kind, h) ∧ t.power.aon = false
        ∧ t.trust.running = false ∧ (s.trust.burning = false → t.fuses = s.fuses)
        ∧ (s.committing = false → t.trust.flashImage = s.trust.flashImage) ∧ t.vault = s.vault
        ∧ t.ucm = [] ∧ t.edge = [] ∧ t.polders = [] ∧ t.hostMem = s.hostMem)
    ∧ (s.power.culverts = true → s.trust.running = true → Answers .thermalResistanceUpdate s fun t =>
        t.ledger.effCap = least t.ledger ∧ t.ledger.supplyCap = s.ledger.supplyCap
        ∧ t.thermal.inlet = tempCode (s.thermistor 1920) ∧ t.thermal.outlet = tempCode (s.thermistor 1921)
        ∧ t.ledger.cap = s.ledger.cap ∧ t.ucm = s.ucm ∧ t.edge = s.edge)
    ∧ (s.thermal.rotate = true → s.trust.running = true → s.ledger.rotation.lo ≤ s.ledger.rotation.hi → 0 ≤ s.ledger.rotation.lo →
      0 < s.ledger.rotation.hi → Answers .rotation s fun t => s.ledger.rotation.lo ≤ t.thermal.interval
        ∧ (t.thermal.interval : Int) ≤ s.ledger.rotation.hi ∧ t.thermal.rotHot = false ∧ t.thermal.rotWarm = false
        ∧ t = { s with thermal := { s.thermal with
              rotatedTo := t.thermal.rotatedTo
              interval := t.thermal.interval
              rotHot := false
              rotWarm := false }
                       ledger := { s.ledger with frozen := t.ledger.frozen } })
    ∧ (∀ es : List Nat, s.power.aon = true → s.power.pkg ≠ .p3 → (∀ r, (s.rail r).fault = false ∧ (s.rail r).gain = 2 ^ 24) →
      Answers (.estimatorReport es) s fun t =>
        let sum (keep : Report → Bool) : Nat := sumOf (((s.activity es).filter keep).map fun x => x.2.2)
        (∀ r < 84, (t.meter (railMeter r)).total = (s.meter (railMeter r)).total + sum (fun x => x.1 == r))
          ∧ (t.meter mModule).total = (s.meter mModule).total + sum (fun _ => true)
          ∧ (∀ n < 24, (t.meter (mPolder n)).total = (s.meter (mPolder n)).total + sum (fun x => x.2.1 == n))
          ∧ (h < 24 → (h, s.polderOf h, (s.coreActivity h).1 / 1000) ∈ s.activity es
            ∧ (24 + h / 2, s.polderOf h, 1760 * (s.coreActivity h).2 / 1000) ∈ s.activity es)
          ∧ (∀ c, t.tcore c = { s.tcore c with act := {} } ∧ t.vcore c = { s.vcore c with act := {} }
            ∧ t.edgeCh c = { s.edgeCh c with act := [] } ∧ t.ucmDie c = { s.ucmDie c with act := [] }
            ∧ t.link c = { s.link c with act := [] } ∧ t.engine c = { s.engine c with act := [] })
          ∧ t.ledger.steps = s.ledger.steps + 1)
    ∧ (∀ es : List Nat, s.power.aon = true → s.power.pkg = .p3 → Answers (.estimatorReport es) s fun t => (∀ i, (t.meter i).total = (s.meter i).total)
        ∧ (∀ c, (t.tcore c).act = {}) ∧ t.ledger.steps = s.ledger.steps + 1)
    ∧ (∀ m : Telemetry, s.power.aon = true → Answers (.telemetryUpdate m) s fun t => t.power.vin = m.vin ∧ t.power.vinMin = m.vinMin
        ∧ t.power.iin = m.iin ∧ t.ledger.supplyCap = m.vinMin * s.ledger.current
        ∧ (s.boot.done = true → s.ledger.capKnown = true → s.trust.running = true →
          t.ledger.effCap = least { s.ledger with supplyCap := m.vinMin * s.ledger.current })
        ∧ (s.power.pkg = .p3 → (t.meter mModule).total = (s.meter mModule).total + inputPj m.vin m.iin
          ∧ (t.meter mStanding).total = (s.meter mStanding).total + inputPj m.vin m.iin))
    ∧ (s.ledger.peak * 1000000000 < sumOf (s.meter mModule).fine → Answers .peakLimiter s fun t =>
        (∀ n < 24, (s.polder n).state = .running → (t.polder n).peakDown
            = (s.polder n).peakDown + ((s.polder n).want - (min (s.polder n).want (s.polder n).step - 1))
          ∧ ((s.polder n).job.isSome = true → (t.polder n).want = min (s.polder n).want (s.polder n).step - 1))
        ∧ (∀ n, (s.polder n).state ≠ .running → t.polder n = s.polder n) ∧ t.ledger.peakLow = none)
    ∧ (let v := fun up : Bool => if up then (s.halfDie h).avs + 5 else (s.halfDie h).avs - 5
      ∀ up : Bool, (s.halfDie h).power ≠ .off →
      (s.ledger.avs.lo ≤ v up → v up ≤ s.ledger.avs.hi → Answers (.avsLoop h up) s fun t =>
        t.halfDie h = { s.halfDie h with avsHeld := false } ∧ t.rail h = (s.rail h).ask { up := up, avs := some (v up) }
        ∧ (∀ k, k ≠ h → t.halfDie k = s.halfDie k ∧ t.rail k = s.rail k))
      ∧ (v up < s.ledger.avs.lo ∨ s.ledger.avs.hi < v up → Answers (.avsLoop h up) s fun t =>
        t.halfDie h = { s.halfDie h with avsHeld := true } ∧ bit t.ledger.frozen 1 = true ∧ (∀ k, k ≠ h → t.halfDie k = s.halfDie k)))

/-- QUOTA_SET with ENABLE gives the polder A1[4:0] a quota of A2 joules, 1 to 60,000, and BOUND outside that range; with
ENABLE clear and A2 = 0 it removes the quota, and another A2 is refused. Over any 10 s window (the hundred 100 ms
steps of the counter) above the quota the polder's job is lowered by a step, and below 95 % of it raised again. No
quota is left once the polder's number is freed by POLDER_DESTROY. (R353) -/
def Obligations.QuotaIsSetHeldAndEnds : Prop :=
  ∀ (s u : State) (f : Nat) (c : Cmd),
    (s.TakesOp f 0x41 c u →
      let n := bits (c.a 1) 0 5
      (∀ st, u.polderFail n false = some st → exec (.quotaSet f) s = .next (u.refuse c st)) ∧ (u.polderFail n false = none →
      (bit (c.a 1) 8 = true ∧ 0 < c.a 2 ∧ c.a 2 ≤ 60000 ∨ bit (c.a 1) 8 = false ∧ c.a 2 = 0 →
        ∃ v : State, exec (.quotaSet f) s = .next (v.answer c { polder := n }) ∧ Sparse.get 0 v.ledger.quotas n = c.a 2
          ∧ (∀ k, k ≠ n → Sparse.get 0 v.ledger.quotas k = Sparse.get 0 s.ledger.quotas k)
          ∧ v = { u with ledger := { s.ledger with quotas := v.ledger.quotas } })
      ∧ (bit (c.a 1) 8 = true → c.a 2 = 0 ∨ 60000 < c.a 2 → exec (.quotaSet f) s = .next (u.refuse c .bound))
      ∧ (bit (c.a 1) 8 = false → c.a 2 ≠ 0 → exec (.quotaSet f) s = .next (u.refuse c .formatUnsupported))))
    ∧ (∀ p, p < 24 → Sparse.get 0 s.ledger.quotas p ≠ 0 → (s.polder p).state = .running → s.trust.running = true →
      let q := Sparse.get 0 s.ledger.quotas p * 1000000000000
      let e := sumOf (s.meter (mPolder p)).coarse
      (q < e → max 0 s.ledger.stepBounds.lo < ((s.polder p).want : Int) → Answers (.quota p) s fun t =>
        (t.polder p).quotaDown = (s.polder p).quotaDown + 1 ∧ ∀ k, k ≠ p → t.polder k = s.polder k)
      ∧ (100 * e < 95 * q → 0 < (s.polder p).quotaDown → Answers (.quota p) s fun t =>
        (t.polder p).quotaDown = (s.polder p).quotaDown - 1 ∧ ∀ k, k ≠ p → t.polder k = s.polder k))
    ∧ (s.TakesOp f 0x11 c u → u.polderFail (c.a 1) true = none → (s.polder (c.a 1)).state ≠ .running → Answers (.polderDestroy f) s fun t => Sparse.get 0 t.ledger.quotas (c.a 1) = 0
        ∧ ∀ k, k ≠ c.a 1 → Sparse.get 0 t.ledger.quotas k = Sparse.get 0 s.ledger.quotas k)

/-- THERMAL_POLICY_SET with A2 from 10 to 200 and A1 at most 1 sets the slope to A2 thousandths per K; outside that range
it gives BOUND and changes nothing. The default is 40: the reset state and every cold reset have it, and a warm reset
keeps the setting. (R376) -/
def Obligations.ThermalPolicyIsSetAndKept : Prop :=
  ∀ (s u : State) (f : Nat) (c : Cmd) (b : BringUp),
    (s.TakesOp f 0x43 c u → c.a 1 ≤ 1 → 10 ≤ c.a 2 → c.a 2 ≤ 200 → exec (.thermalPolicySet f) s = .next
      ({ u with thermal := { s.thermal with rotate := decide (c.a 1 = 1), slope := c.a 2 } }.answer c {}))
    ∧ (s.TakesOp f 0x43 c u → 1 < c.a 1 ∨ c.a 2 < 10 ∨ 200 < c.a 2 →
      exec (.thermalPolicySet f) s = .next (u.refuse c .bound))
    ∧ State.reset.thermal.slope = 40
    ∧ (s.power.aon = false → s.power.trip = none → s.boot.running = false → Answers (.coldBringUp b) s fun t =>
      t.thermal.slope = 40 ∧ t.thermal.rotate = false)
    ∧ (s.power.aon = true → s.power.pkg ≠ .p3 → s.power.sagHold = false → s.boot.running = false → Answers (.warmBringUp b) s fun t =>
      t.thermal.slope = s.thermal.slope ∧ t.thermal.rotate = s.thermal.rotate)

/-- P1 is entered when nothing runs or waits and left by a wake; HOLD refuses it. A requested entry to P2 or P3 with a
refuser is refused with its code and counted; one that fails after it began is aborted and the half-dies are as
before, or ends in the sag sequence where it failed with SUPPLY (the model's reading, log 26); otherwise the half-
dies, under-core memory and edge stacks are off with their contents lost, and in P3 the PCIe, culvert and management
domains too. The exit from P2 powers the domains and leads to P1. The exits from P3 and from a sag are a warm bring-
up: P0, no polder, every channel DISABLED, VF_MAP and debug cleared, fuses kept. Latched wakes replay once. A free
IDLE half-die goes to NAP. A sag ends all work and holds, and in P3 is noted alone; a lockout leaves what survives a
cold reset. (19_power_domains_and_supply.md, 20_bring_up_and_repair.md) -/
def Obligations.PackagePowerStates : Prop :=
  ∀ (s : State) (b : BringUp) (h v code : Nat),
    let warm (t : State) : Prop := t.power.pkg = .p0 ∧ t.power.management = true ∧ t.power.sagHold = false ∧ t.power.exiting = false
      ∧ (∀ n, (t.polder n).state = .none) ∧ (∀ ch, (t.chan ch).state = .disabled) ∧ (∀ f, t.vfPolder f = 31)
      ∧ t.trust.unlocked = false ∧ (s.trust.burning = false → t.fuses = s.fuses)
    let deep (t : State) : Prop := (∀ k < 24, (t.halfDie k).power = .off) ∧ (∀ d < 12, (t.ucmDie d).on = false)
      ∧ (∀ e < 32, (t.stack e).on = false) ∧ (∀ a, a < 1024 * 0x60000000 → t.edge.byte a = 0)
      ∧ (∀ a, a < 12 * 1344 * 64 * sliceBytes → t.ucm.byte a = 0)
    let aborted (t : State) : Prop := t.power.pkg = s.power.pkg ∧ t.power.entering = none ∧ t.power.lastAborted = true
      ∧ t.power.lastRefuser = code ∧ ∀ k < 24, (t.halfDie k).power = (s.halfDie k).power
    (s.power.pkg = .p0 → s.trust.running = true → s.quiet = true → s.power.entering = none →
      (s.power.hold = false → exec .p1Entry s = .next { s with power := { s.power with pkg := .p1 } })
      ∧ (s.power.hold = true → exec .p1Entry s = .next (s.entryRefused .p1 0x5000)))
    ∧ (s.power.pkg = .p1 → exec .p1Wake s = .next { s with power := { s.power with pkg := .p0 } })
    ∧ (∀ failing, (s.power.entering = some .p2 → s.refuser .p2 = some code → exec (.p2Entry failing) s = .next (s.entryRefused .p2 code))
      ∧ (s.power.entering = some .p3 → s.refuser .p3 = some code → exec (.p3Entry failing) s = .next (s.entryRefused .p3 code)))
    ∧ (s.power.entering = some .p2 → s.refuser .p2 = none →
      (Answers (.p2Entry none) s fun t => t.power.pkg = .p2 ∧ t.power.entering = none ∧ deep t ∧ t.trust = s.trust)
      ∧ (code / 4096 ≠ 11 → Answers (.p2Entry (some code)) s aborted)
      ∧ (code / 4096 = 11 → exec (.p2Entry (some code)) s = .next (s.sagNow s.power.vinMin)))
    ∧ (s.power.entering = some .p3 → s.refuser .p3 = none →
      (Answers (.p3Entry none) s fun t => t.power.pkg = .p3 ∧ t.power.entering = none ∧ t.power.management = false
        ∧ t.power.culverts = false ∧ t.pcie.on = false ∧ t.time.unsynced = true ∧ t.trust.running = false ∧ deep t)
      ∧ (code / 4096 ≠ 11 → Answers (.p3Entry (some code)) s aborted)
      ∧ (code / 4096 = 11 → exec (.p3Entry (some code)) s = .next (s.sagNow s.power.vinMin)))
    ∧ (s.power.pkg = .p2 → s.power.exiting = true → (Answers (.p2Exit none) s fun t => t.power.pkg = .p1 ∧ t.power.exiting = false
        ∧ (∀ d < 12, (t.ucmDie d).on = true) ∧ (∀ e < 32, (t.stack e).on = true) ∧ t.pcie.l1 = false ∧ t.trust = s.trust)
      ∧ (code / 4096 ≠ 11 → exec (.p2Exit (some code)) s = .next (s.entryAborted 1 code))
      ∧ (code / 4096 = 11 → exec (.p2Exit (some code)) s = .next (s.sagNow s.power.vinMin)))
    ∧ (s.power.pkg = .p3 → s.power.exiting = true → s.power.aon = true → Answers (.p3Exit b) s warm)
    ∧ (s.power.sagHold = true → Answers (.sagRecovery b) s warm)
    ∧ (s.power.wake = true → s.power.entering = none → s.power.sagHold = false → Answers .wakeReplay s fun t => t.power.wake = false
        ∧ t.power.replays = satAdd 16 s.power.replays 1 ∧ (s.power.pkg = .p1 → t.power.pkg = .p0)
        ∧ (s.power.pkg = .p2 ∨ s.power.pkg = .p3 → t.power.exiting = true) ∧ t = { s with power := t.power })
    ∧ ((s.halfDie h).power = .idle → s.polderOf h = 31 → Answers (.napEntry h) s fun t => (t.halfDie h).power = .nap
        ∧ (∀ k, k ≠ h → t.halfDie k = s.halfDie k) ∧ (∀ core, halfOf (clusterOf core) ≠ h → t.tcore core = s.tcore core
            ∧ t.vcore core = s.vcore core ∧ t.score core = s.score core) ∧ t.ucm = s.ucm)
    ∧ (s.power.aon = true → s.power.pkg = .p3 → s.power.exiting = false → s.power.sagHold = false → exec (.supplySag v) s = .next
        { s with power := { s.power with sagSeen := true }, smbus := { s.smbus with vinUv := true } })
    ∧ (s.power.aon = true → s.power.pkg ≠ .p3 ∨ s.power.exiting = true → Answers (.supplySag v) s fun t => t.power.sagHold = true ∧ t.power.sagSeen = true
        ∧ t.power.vinMin = v ∧ t.power.entering = none ∧ t.smbus.vinUv = true ∧ t.pcie.up = false ∧ t.recordDue = true
        ∧ (∀ n < 24, (t.polder n).job = none) ∧ (∀ ch < 256, (t.chan ch).state = .disabled) ∧ ∀ k < 24, (t.halfDie k).power = .off)
    ∧ Answers .lockout s fun t => t.power.aon = false ∧ t.power.trip = none ∧ (s.trust.burning = false → t.fuses = s.fuses)
      ∧ t.vault = s.vault ∧ (s.committing = false → t.trust.flashImage = s.trust.flashImage) ∧ t.trust.running = false ∧ t.ucm = [] ∧ t.edge = [] ∧ t.polders = []
      ∧ t.pending = s.pending

/-- A cold bring-up whose straps, rails, image, culverts, coolant, base dies, temperatures and steppings pass ends done
with firmware running, half-dies IDLE, memory powered and zero, no polder, and the host's caps at their defaults; a
wrong strap or a failing rail ends it with its code, without coolant it holds with its half-dies OFF and memory in
self-refresh, and a cold die delays it. A warm bring-up whose image verifies ends done. A start without a crystal
fails with code 2. The ROM starts an image that passes its checks and else enters recovery. After a bring-up a
committed image above SVN_FLOOR, or a burn that was interrupted, burns the floor and the revocations it names (the
model's reading of an interrupted burn, log 46). A challenge stands for one response; a good response unlocks its
scope, bits 2 and 3 only when a package floodgate has completed, and a bad one is counted. Die test, where it is
allowed, answers its defects, and after a loopback its ports. (20_bring_up_and_repair.md, 22_trust_and_attestation.md) -/
def Obligations.BringUpRomAndTrust : Prop :=
  ∀ (s : State) (b : BringUp) (nonce : List Byte) (err : Bool),
    let burns (t : State) : Prop := t.trust.burning = true ↔ t.fuses.svnFloor < t.trust.svn ∨ t.trust.burnLeft ≠ none
    (s.power.aon = false → s.power.trip = none → s.boot.running = false →
      let c := s.coldStart b.slotId
      (∀ i, strapFault b.straps = some i → Answers (.coldBringUp b) s fun t => t.boot.failed = true ∧ t.boot.code = 1 ∧ t.boot.unit = i)
      ∧ (∀ r, strapFault b.straps = none → b.railFault = some r → Answers (.coldBringUp b) s fun t => t.boot.failed = true
          ∧ t.boot.code = 3 ∧ t.boot.unit = r)
      ∧ (strapFault b.straps = none → b.railFault = none → c.romFail b.flashError = none → b.culvertFault = false →
        culvertFences s.repair.fused = [] →
        (b.coolantMet = false → Answers (.coldBringUp b) s fun t => t.boot.running = true ∧ t.thermal.coolantHold = true
          ∧ (∀ h < 24, (t.halfDie h).power = .off) ∧ (∀ d < 12, (t.ucmDie d).selfRefresh = true))
        ∧ (b.coolantMet = true → b.baseDieFault = none → b.dieCold = true → Answers (.coldBringUp b) s fun t =>
          t.boot.running = true ∧ t.boot.done = false ∧ t.repair.trained = true ∧ ∀ h < 24, (t.halfDie h).power = .idle)
        ∧ (b.coolantMet = true → b.baseDieFault = none → b.dieCold = false → s.steppingFault = false →
        Answers (.coldBringUp b) s fun t => t.boot.done = true ∧ t.boot.failed = false ∧ t.boot.warm = false
          ∧ t.trust.running = true ∧ (∀ h < 24, (t.halfDie h).power = .idle) ∧ (∀ d < 12, (t.ucmDie d).on = true)
          ∧ (∀ e < 32, (t.stack e).on = true) ∧ t.ucm = [] ∧ t.edge = [] ∧ t.intlvPkg = true
          ∧ (∀ k < 4, (t.basin k).cacheSteps = 8) ∧ (∀ n, (t.polder n).state = .none) ∧ t.ledger.cap = 4800 ∧ t.ledger.peak = 6000
          ∧ t.ledger.current = 125 ∧ t.fabricId = 0 ∧ (s.trust.burning = false → t.fuses = s.fuses) ∧ burns t))
      ∧ Answers .crystalTimeout s fun t => t.boot.failed = true ∧ t.boot.code = 2)
    ∧ (s.power.aon = true → s.power.pkg ≠ .p3 → s.power.sagHold = false → s.boot.running = false → s.repair.trained = true → b.railFault = none →
      s.interrupted.romFail b.flashError = none → s.steppingFault = false → Answers (.warmBringUp b) s fun t => t.boot.done = true
        ∧ t.boot.warm = true ∧ t.trust.running = true ∧ (∀ n, (t.polder n).state = .none) ∧ (∀ ch, (t.chan ch).state = .disabled)
        ∧ (∀ n, Sparse.get 0 t.ledger.quotas n = 0) ∧ t.ledger.cap = s.ledger.cap ∧ t.fabricId = s.fabricId ∧ burns t)
    ∧ (s.power.management = true → s.trust.romDue = true →
      (s.romFail err = none → Answers (.romStart nonce err) s fun t => t.trust.running = true ∧ t.trust.recovery = false
        ∧ t.trust.romDue = false ∧ t.trust.committed = true ∧ t.trust.svn = fwSvn s.trust.flashImage
        ∧ t.trust.bootCount = s.trust.bootCount + 1 ∧ t.trust.staged = none ∧ t = { s with trust := t.trust, fresh := t.fresh })
      ∧ (∀ u, s.romFail err = some u → s.boot.running = false → Answers (.romStart nonce err) s fun t => t.trust.running = false
        ∧ t.trust.recovery = true ∧ t.boot.code = 4 ∧ t.boot.unit = u)
      ∧ (∀ u, s.romFail err = some u → s.boot.running = true → Answers (.romStart nonce err) s fun t => t.boot.failed = true
        ∧ t.trust.recovery = true ∧ t.boot.code = 4 ∧ t.boot.unit = u))
    ∧ (s.trust.running = true → s.trust.burning = true → Answers .fuseBurn s fun t =>
        let left := s.trust.burnLeft.getD (0, 0)
        t.fuses.svnFloor = max s.fuses.svnFloor (max s.trust.svn left.1)
        ∧ (∀ k < 4, bit t.fuses.revoked k = (bit s.fuses.revoked k || (bit (fwRevoke s.trust.manifest) k || bit left.2 k)))
        ∧ t = { s with
            fuses := { s.fuses with svnFloor := t.fuses.svnFloor, revoked := t.fuses.revoked }
            trust := { s.trust with burning := false, burnLeft := none } })
    ∧ (s.trust.running = false ∨ s.trust.burning = false → exec .fuseBurn s = .next s)
    ∧ (s.power.management = true → nonce.length = 32 → Answers (.dbgChallenge nonce) s fun t => ∃ c, t.trust.challenge = some c
        ∧ c = digest (mldsaPublic s.fuses.seed) ++ nonce ++ leBytes 4 s.trust.bootCount ++ zeros 28 ∧ t.reply = .data c
        ∧ t = { s with reply := t.reply, trust := { s.trust with challenge := some c } })
    ∧ (∀ r : DebugResponse, s.power.management = true →
      (∀ c, s.trust.challenge = some c → s.responseOk c r = true → Answers (.dbgResponse r) s fun t => t.trust.challenge = none
        ∧ (bit r.scope.toNat 2 = false → bit r.scope.toNat 3 = false → t.trust.unlocked = true
          ∧ t.trust.scope = s.trust.scope ||| r.scope.toNat ∧ t.trust.scopeDue = s.trust.scopeDue)
        ∧ (bit r.scope.toNat 2 = true ∨ bit r.scope.toNat 3 = true → t.gates ≠ [] ∧ t.trust.unlocked = s.trust.unlocked
          ∧ t.trust.scope = s.trust.scope ∧ t.trust.scopeDue = s.trust.scopeDue ||| r.scope.toNat))
      ∧ ((∀ c, s.trust.challenge = some c → s.responseOk c r = false) → exec (.dbgResponse r) s = .next
          { s with reply := .done, trust := { s.trust with challenge := none, badResponses := s.trust.badResponses + 1 } }))
    ∧ exec .dbgChallengeExpiry s = .next { s with trust := { s.trust with challenge := none } }
    ∧ (s.testAllowed = true → (∀ l, exec (.dieBist l) s = .next { s with
            dieTest := { s.dieTest with defects := l.map fun e => { e with source := 0 } }
            reply := .data ((l.map fun e : RepairEntry => { e with source := 0 }).flatMap repairBytes) })
      ∧ exec .loopback s = .next { s with dieTest := { s.dieTest with looped := true, ports := [] }, reply := .done }
      ∧ ∀ ports, Answers (.trainReport ports) s fun t => t.dieTest.ports = (if s.dieTest.looped then ports else [])
        ∧ t = { s with dieTest := { s.dieTest with ports := t.dieTest.ports }, reply := t.reply })
    ∧ (s.testAllowed = false → ∀ l ports, ∀ c ∈ [Instr.dieBist l, .loopback, .trainReport ports], exec c s = .next { s with reply := .none })

/-- A link in DETECT whose partner answers goes UP at the highest common rate with the lanes both sides found, or DOWN
without a common lane or rate or when the partner is this module. A timeout makes it DOWN; without a partner
NOPARTNER; DOWN and NOPARTNER look again. A retrain of an UP link, for a lane that lost lock or at its partner's
start, counts, and leads to UP at the target rate, to UP at 106.25 Gb/s where the high rate is too noisy and the low
one is in bounds, or to DOWN; while the partner is silent or a side has no lane in lock the link stands in TRAIN or
RETRAIN (the model's readings of targets and waiting, log 41). A link at the low rate returns to the high one. No
other link's state changes. (21_melieko_links.md) -/
def Obligations.LinksTrainAndFallBack : Prop :=
  ∀ (s : State) (n cause : Nat) (i : LinkTrial),
    let l := s.link n
    let off (t : State) : Prop := (t.link n).state = .down ∧ (t.link n).outstanding = [] ∧ (t.link n).toSend = []
    let up (rate : Nat) (t : State) : Prop := (t.link n).state = .up ∧ (t.link n).rate = rate ∧ (t.link n).width = agreedWidth i
      ∧ (t.link n).peerFabric = i.ident.fabricId ∧ (t.link n).peerSlot = i.ident.slotId % 16
      ∧ (t.link n).peerLink = i.ident.linkNo % 256 ∧ ∀ k, k ≠ n → (t.link k).state = (s.link k).state
    let waits := noLanes i = true
    let bad := ¬waits ∧ (agreedWidth i = 0 ∨ s.isSelf i.ident = true)
    let good := ¬waits ∧ ¬bad
    let low := s.rateLo n = 0 ∧ bit i.ident.rates 0 = true
    let high := s.retrainTarget n = 1 ∧ bit i.ident.rates 1 = true
    let again (t : State) : Prop := (t.link n).retrains = satAdd 16 l.retrains 1
    (l.state = .detect ∨ l.state = .train → s.linksOn = true → i.partner = true →
      (good → ∀ r, s.commonRate n i.ident = some r → Answers (.linkDetect n i) s (up r))
      ∧ (bad ∨ (good ∧ s.commonRate n i.ident = none) → Answers (.linkDetect n i) s off)
      ∧ (waits → exec (.linkDetect n i) s = .next (s.setLink n { l with state := .train })))
    ∧ (l.state = .detect ∨ l.state = .train ∨ l.state = .retrain → Answers (.linkTrainingTimeout n) s off)
    ∧ (l.state = .detect → exec (.noPartnerTimeout n) s = .next (s.setLink n { l with state := .noPartner }))
    ∧ (l.state = .down ∨ l.state = .noPartner → s.linksOn = true →
      exec (.linkRetry n) s = .next (s.setLink n { l with state := .detect, sent := [] }))
    ∧ (l.state = .up → cause ≠ 1 → cause ≠ 2 → exec (.linkRetrain n cause i) s = .next s)
    ∧ (l.state = .up → cause = 1 ∨ cause = 2 →
      (i.partner = false ∨ waits → Answers (.linkRetrain n cause i) s fun t => (t.link n).state = .retrain ∧ (t.link n).width = 0
        ∧ again t ∧ (t.link n).replay = l.replay ∧ (t.link n).outstanding = l.outstanding ∧ (t.link n).received = l.received)
      ∧ (i.partner = true → bad ∨ (good ∧ ¬high ∧ ¬low) → Answers (.linkRetrain n cause i) s off)
      ∧ (i.partner = true → good →
        (¬high → low → Answers (.linkRetrain n cause i) s fun t => up 0 t ∧ again t)
        ∧ (high →
          (i.tooNoisy = false → Answers (.linkRetrain n cause i) s fun t => up 1 t ∧ again t)
          ∧ (i.tooNoisy = true → low → Answers (.linkRetrain n cause i) s fun t => up 0 t ∧ again t)
          ∧ (i.tooNoisy = true → s.rateLo n ≠ 0 → Answers (.linkRetrain n cause i) s fun t => off t ∧ (t.link n).frozen = true
            ∧ bit t.ledger.frozen 2 = true))
        ∧ (l.rate = 0 → s.rateHi n ≠ 0 → bit i.ident.rates 1 = true → i.tooNoisy = false →
          Answers (.linkRateReturn n i) s fun t => up 1 t ∧ again t)
        ∧ (l.rate = 0 → s.rateHi n ≠ 0 → i.tooNoisy = true → low →
          Answers (.linkRateReturn n i) s fun t => up 0 t ∧ again t)))
    ∧ (l.state = .retrain → (i.partner = false ∨ waits → exec (.linkRetrain n cause i) s = .next s)
      ∧ (i.partner = true → bad → Answers (.linkRetrain n cause i) s off)
      ∧ (i.partner = true → good → ¬high → low → Answers (.linkRetrain n cause i) s (up 0))
      ∧ (i.partner = true → good → high → i.tooNoisy = false → Answers (.linkRetrain n cause i) s (up 1)))

/-- A codeword on an UP link that the decoder cannot correct is dropped whole and counted, and starts a retrain where too
many were lost. One that arrives or is corrected intact, its reserved control bits 0, on a link that has not too many
errors: a DATA flit that passes its checks and whose SEQ follows the last one hands on in order the packets whose data
is complete, requests with what the inbound table says of them now, becomes the last, and is acknowledged in the next
flit, an IDLE one where no other goes out (the model's choice, log 22); any other DATA flit delivers nothing, is
counted, and is answered with a NAK unless one for the same SEQ went out less than 2 µs before. An ACK removes the
flits up to its SEQ from the replay buffer. A NAK has every flit after its SEQ sent again, and the replay timer all of
them. CREDIT sets the cumulative limits, credits owed are returned in one CREDIT. IDENT tells the partner's identity,
or takes down a link to this very module. (21_melieko_links.md) -/
def Obligations.LinksDeliverOnceAndInOrder : Prop :=
  ∀ (s : State) (n : Nat) (f : Flit) (errs : List LaneErr),
    let l := s.link n
    let only (t : State) : Prop := (∀ k, k ≠ n → t.link k = s.link k) ∧ t = { s with links := t.links }
    let again (fs : List (Byte × List Byte)) : List Sent := fs.map fun x => .data x.1 l.lastSeq x.2
    let e := l.pattern errs
    let came (b : List Byte) : List Packet := (streamed l.arriving b).takeWhile whole
    l.state = .up →
    (linkDecode e = none → ∀ c ∈ [Instr.dataFlit n f errs, .idleFlit n f errs, .nak n f errs, .credit n f errs, .ident n f errs,
        .timesyncReceive n f errs, .timesyncAnswer n f errs],
      let u := s.setLink n (l.noteBad s.time.dev)
      exec c s = .next (if (l.noteBad s.time.dev).noisy then u.leaveUp n 1 else u))
    ∧ (∀ fix, linkDecode e = some fix → e.after fix = [] →
      let l0 : Link := l.noteFixed s.time.dev fix.length
      l0.noisy = false →
      let l1 := l0.acked f.ack
      (f.spare = 0 → dataGood l.arriving f.bytes = true → f.seq = l.lastSeq + 1 → Answers (.dataFlit n f errs) s fun t => only t
        ∧ (t.link n).lastSeq = f.seq
        ∧ (t.link n).received = l.received ++ ((came f.bytes).filter pktReq).map (fun p => ⟨p, s.inboundCheck n p⟩)
        ∧ (t.link n).answers = l.answers ++ (came f.bytes).filter (fun p => !pktReq p)
        ∧ ((t.link n).sent = l.sent ++ [.idle f.seq] ∨ ∃ q b, .data q f.seq b ∈ (t.link n).sent)
        ∧ (t.link n).arriving = (streamed l.arriving f.bytes).dropWhile whole ∧ (t.link n).discarding = false
        ∧ (t.link n).replays = l.replays ∧ (t.link n).corrected = l.corrected + fix.length)
      ∧ (f.spare ≠ 0 ∨ dataGood l.arriving f.bytes = false ∨ f.seq ≠ l.lastSeq + 1 → Answers (.dataFlit n f errs) s fun t => only t
        ∧ (t.link n).lastSeq = l.lastSeq ∧ (t.link n).received = l.received ∧ (t.link n).answers = l.answers ∧ (t.link n).arriving = l.arriving
        ∧ (t.link n).replays = satAdd 32 l.replays 1 ∧ (t.link n).discarding = true
        ∧ ((∀ at_, l.nakAt = some (at_, l.lastSeq) → 200 ≤ s.time.dev - at_) → .ctrl l.lastSeq (nakFlit l.lastSeq) ∈ (t.link n).sent
          ∧ (t.link n).nakAt = some (s.time.dev, l.lastSeq))
        ∧ ((∃ at_, l.nakAt = some (at_, l.lastSeq) ∧ s.time.dev - at_ < 200) → (t.link n).nakAt = l.nakAt))
      ∧ (f.spare = 0 → l.toSend = [] →
        (Answers (.idleFlit n f errs) s fun t => only t ∧ t.link n = l1)
        ∧ (ctrlGood 1 f.bytes = true → Answers (.nak n f errs) s fun t => only t
          ∧ (∀ pre post q ps, l1.replay = pre ++ (q, ps) :: post → (∀ x ∈ pre, x.1.toNat ≠ fieldAt f.bytes 1 1) →
              q.toNat = fieldAt f.bytes 1 1 → t.link n = { l1 with sent := l.sent ++ again post })
          ∧ ((∀ x ∈ l1.replay, x.1.toNat ≠ fieldAt f.bytes 1 1) → t.link n = { l1 with sent := l.sent ++ again l1.replay }))
        ∧ (ctrlGood 2 f.bytes = true → s.isSelf (identOf f.bytes) = false → Answers (.ident n f errs) s fun t =>
          t.link n = { l1 with
              peerFabric := (identOf f.bytes).fabricId, peerSlot := (identOf f.bytes).slotId % 16
              peerLink := (identOf f.bytes).linkNo % 256 }
            ∧ (∀ k, k ≠ n → t.link k = s.link k) ∧ t = { s with links := t.links, engines := t.engines }))
      ∧ (f.spare = 0 → ctrlGood 3 f.bytes = true → Answers (.credit n f errs) s fun t => only t
        ∧ (t.link n).reqLimit = fieldAt f.bytes 4 2 ∧ (t.link n).rspLimit = fieldAt f.bytes 6 2
        ∧ (∀ p ∈ (t.link n).toSend, p ∈ l.toSend) ∧ (t.link n).received = l.received)
      ∧ (f.spare = 0 → ctrlGood 2 f.bytes = true → s.isSelf (identOf f.bytes) = true → Answers (.ident n f errs) s fun t =>
        (t.link n).state = .down)
      ∧ (f.spare ≠ 0 → ∀ c ∈ [Instr.idleFlit n f errs, .nak n f errs, .credit n f errs, .ident n f errs,
        .timesyncReceive n f errs, .timesyncAnswer n f errs], exec c s = .next (s.setLink n l0)))
    ∧ (∀ pre post ps, l.replay = pre ++ (f.ack, ps) :: post → (∀ x ∈ pre, x.1 ≠ f.ack) → l.acked f.ack = { l with replay := post })
    ∧ exec (.replayTimer n) s = .next (s.setLink n { l with sent := l.sent ++ again l.replay })
    ∧ (l.reqOwed ≠ 0 ∨ l.rspOwed ≠ 0 →
      let q := (l.reqGranted + l.reqOwed) % 65536
      let r := (l.rspGranted + l.rspOwed) % 65536
      exec (.creditReturn n) s = .next (s.setLink n { l with
        reqGranted := q, rspGranted := r, reqOwed := 0, rspOwed := 0, sent := l.sent ++ [.ctrl l.lastSeq (creditFlit q r)] }))

/-- The request at the front of an UP link's receive buffer that was admitted as it came, of 1 to 64 units at an address
where the inbound table admits the partner, is served as an access: a read is answered with the data, a write with an
acknowledgement, an error with its code; outside the table it is to touch nothing and is answered with DENIED, and a
wrong length with BAD_LENGTH or BOUND (the model's reading, log 23, for a response's too). The packet leaves the
buffer and its credits are owed; where the hold queue has no room it waits there. A response at the front of its own
buffer ends the request with its tag: read data of the length asked for goes to the channel, an error halts the
channel that asked with its code, on a host ring of an engine under HALT_CHANNEL. (21_melieko_links.md,
13_dma_engine.md) -/
def Obligations.RemoteRequestsAndResponses : Prop :=
  ∀ (s : State) (n : Nat) (p : Packet),
    let l := s.link n
    let given (t : State) (q : Packet) : Prop := q ∈ (t.link n).toSend ∨ ∀ b ∈ packetFlits q, ∃ seq ack, .data seq ack b ∈ (t.link n).sent
    let admitted := s.admitsInbound l.peerFabric l.peerSlot p.addr (64 * p.len)
    l.state = .up →
    s.inboundCheck n p = (if admitted = false then some .denied else if p.len = 0 then some .badLength
      else if 64 < p.len then some .bound else none)
    ∧ (∀ c why rest, l.received = ⟨p, why⟩ :: rest → (c = Instr.rdReq n ∧ p.type = 1) ∨ (c = .wrReq n ∧ p.type = 2) →
      let write : Bool := p.type == 2
      let acc : Access := if p.type = 1 then .read (64 * p.len) else .write p.data
      let parts := partsOf p.addr acc
      let taken (t : State) : Prop := (t.link n).received = rest ∧ (t.link n).reqOwed = l.reqOwed + pktUnits p
      let refused (st : Status) : Prop := Answers c s fun t => given t ⟨5, 0, st.code, p.tag, 0, []⟩ ∧ taken t
        ∧ t = { s with links := t.links, log := t.log }
      (∀ st, why = some st → st ≠ .ok → refused st)
      ∧ (why = none →
        let r := ((s.onLink n fun l => l.consumed p).linkCount n 31 (pktUnits p)).gather (.link n p.tag) write p.len
          (parts.map fun q => (some q.1, q.2)) []
        ((∃ q ∈ parts, s.noRoom q.1 (accLen q.2) = true) → exec c s = .next s)
        ∧ ((∀ q ∈ parts, s.noRoom q.1 (accLen q.2) = false) →
          (r.2 = none → exec c s = .next r.1 ∧ taken r.1)
          ∧ (∀ st data, r.2 = some (st, data) → Answers c s fun t => taken t
            ∧ given t (if st ≠ .ok then ⟨5, 0, st.code, p.tag, 0, []⟩
                else if write then ⟨4, 0, 0, p.tag, 0, []⟩ else ⟨3, p.len, 0, p.tag, 0, data⟩)
            ∧ t.ucm = r.1.ucm ∧ t.edge = r.1.edge ∧ t.basins = r.1.basins ∧ t.hostMem = r.1.hostMem))))
    ∧ ∀ c left o pre post, l.answers = p :: left → (c, p.type) ∈ [(Instr.rdRsp n, 3), (.wrAck n, 4), (.nakRsp n, 5)] →
      l.outstanding = pre ++ o :: post → o.tag = p.tag → (∀ x ∈ pre ++ post, x.tag ≠ p.tag) → (s.chan o.ch).life = o.life →
      let ended (t : State) : Prop := (t.link n).outstanding = pre ++ post ∧ (t.link n).answers = left
        ∧ (t.link n).received = l.received ∧ (t.link n).rspOwed = l.rspOwed + pktUnits p ∧ ∀ k, k ≠ n → t.link k = s.link k
      let st : Status := if p.type = 5 then (if p.status = 0 then .hwError else Status.ofCode p.status)
        else if o.write = decide (p.type = 3) then .hwError else if o.write = true then .ok
        else if o.len < p.len ∨ 64 < p.len then .bound else if p.len < o.len then .badLength else .ok
      (p.type ≠ 5 → st = .ok → Answers c s fun t => ended t
        ∧ (t.chan o.ch).got = (s.chan o.ch).got ++ (if o.write = true then [] else p.data)
        ∧ (t.chan o.ch).remote = (s.chan o.ch).remote - 1 ∧ (t.chan o.ch).progressAt = s.time.dev
        ∧ (t.chan o.ch).state = (s.chan o.ch).state ∧ (∀ ch, ch ≠ o.ch → t.chan ch = s.chan ch)
        ∧ t = { s with links := t.links, dma := t.dma })
      ∧ (st ≠ .ok → s.working o.ch = true → (s.chan o.ch).dev = false → (s.engine (engineOf o.ch)).stopAll = false →
        Answers c s fun t => ended t ∧ (t.chan o.ch).state = .halted ∧ (t.chan o.ch).code = st)

/-- In LINK_FOLLOW a TIMESYNC carrying the timestamp goes out on the lowest-numbered UP link of the peer; its answer gives
the offset ((T2 − T1) − (T4 − T3)) / 2, which, its half rounded towards zero (the model's choice, log 28), is slewed,
or stepped when over 10,000 ticks after a loss of the peer, and clears UNSYNCED while REFCLK counts; a module that
receives one answers with T1 and its own times. A SYNC_IN edge in CHAIN_FOLLOW aligns to the nearest multiple of
100,000 plus HOP_DELAY, or to TIME_LOAD when LOAD_ARM is set; over 10,000 ticks it steps at once and sets STEPPED.
Losing the source or REFCLK sets UNSYNCED and counting goes on. A pulse marks each multiple of 100,000 that the
timestamp reaches in CHAIN_ROOT. TIME_CTL sets the mode. (23_clocks_timers_timeouts.md, 21_melieko_links.md,
24_module_and_board.md) -/
def Obligations.TimestampAlignment : Prop :=
  ∀ (s : State) (n : Nat) (f : Flit) (errs : List LaneErr) (v : Word),
    let m := s.time
    let t1 := fieldAt f.bytes 8 8
    let d : Int := (((fieldAt f.bytes 16 8 : Int) - t1) - ((m.dev : Int) - fieldAt f.bytes 24 8)).tdiv 2
    let intact : Prop := (s.link n).state = .up ∧ f.spare = 0 ∧ ctrlGood 4 f.bytes = true
      ∧ ∃ fix, linkDecode ((s.link n).pattern errs) = some fix ∧ ((s.link n).pattern errs).after fix = []
        ∧ ((s.link n).noteFixed m.dev fix.length).noisy = false
    let u : Time := { m with peerLost := false, unsynced := m.unsynced && !s.countsRefclk }
    let kept (t : State) : Prop := (∀ k, k ≠ n → t.link k = s.link k) ∧ (t.link n).state = .up ∧ (t.link n).received = (s.link n).received
    let time (u : Time) : Host.Outcome State Fault Refusal := .next { s with time := u }
    (m.mode = .linkFollow →
      (∀ k ks, s.bundle m.followFabric m.followSlot = k :: ks → exec .timesync s = .next
        (s.setLink k { s.link k with sent := (s.link k).sent ++ [.ctrl (s.link k).lastSeq (timesyncFlit [m.dev])] }))
      ∧ (intact → Answers (.timesyncAnswer n f errs) s fun t => kept t ∧ t = { s with links := t.links, time := t.time }
        ∧ (s.fromFollowed n = false → t.time = m)
        ∧ (s.fromFollowed n = true → d.natAbs ≤ 10000 ∨ m.peerLost = false → t.time = { u with slew := d })
        ∧ (s.fromFollowed n = true → 10000 < d.natAbs → m.peerLost = true → t.time = { u with
          dev := ((m.dev : Int) + d).toNat, slew := 0, stepped := true }))
      ∧ exec .timesyncLoss s = time { m with slew := 0, unsynced := true, peerLost := true })
    ∧ (intact → Answers (.timesyncReceive n f errs) s fun t => kept t ∧ t = { s with links := t.links }
        ∧ .ctrl (s.link n).lastSeq (timesyncFlit [t1, m.dev, m.dev]) ∈ (t.link n).sent)
    ∧ (m.mode = .chainFollow →
      (s.power.aon = true → ∀ target : Nat,
        (m.loadArm = true ∧ target = m.load ∨ m.loadArm = false ∧ ∃ k, target = 100000 * k + m.hopDelay
          ∧ 2 * ((m.dev : Int) - 100000 * k) < 100000 ∧ -100000 ≤ 2 * ((m.dev : Int) - 100000 * k)) →
        let d : Int := (target : Int) - m.dev
        (d.natAbs ≤ 10000 → exec .syncIn s = time { u with
          slew := d, loadArm := false, syncOut := true, syncEdges := m.syncEdges + 1 })
        ∧ (10000 < d.natAbs → exec .syncIn s = time { u with
          dev := target, slew := 0, stepped := true, loadArm := false, syncOut := true
          syncEdges := m.syncEdges + 1 }))
      ∧ exec .syncInLoss s = time { m with slew := 0, unsynced := true, syncOut := false })
    ∧ (m.mode = .chainRoot → m.syncNext ≤ m.dev → exec .syncOutPulse s = time { m with
        syncEdges := m.syncEdges + 1, syncNext := (m.dev / 100000 + 1) * 100000 })
    ∧ (m.mode = .chainRoot → m.dev < m.syncNext → exec .syncOutPulse s = .next s)
    ∧ exec .refclkLoss s = time { m with slew := 0, refclk := false, unsynced := true }
    ∧ exec .refclkReturn s = time { m with refclk := true }
    ∧ ∀ c, c = Instr.mode v ∨ c = .loadArm v → Answers c s fun t =>
        t.time.mode = (match v.toNat % 4 with
          | 0 => .free
          | 1 => .chainRoot
          | 2 => .chainFollow
          | _ => .linkFollow)
        ∧ t.time.hopDelay = v.toNat / 2 ^ 8 % 2 ^ 8 ∧ (t.time.loadArm = true ↔ m.loadArm = true ∨ v.toNat.testBit 2 = true)
        ∧ (t.time.stepped = true ↔ m.stepped = true ∧ v.toNat.testBit 4 = false) ∧ t.time.unsynced = m.unsynced
        ∧ t.time.syncOut = (if t.time.mode = m.mode then m.syncOut else t.time.mode == .chainRoot || t.time.mode == .chainFollow)
        ∧ t.time.dev = m.dev
        ∧ t = { s with time := t.time }

/-- While the AON domain has supply and no hardware trip stands, each read command of the table answers its bytes and
changes nothing else; CLEAR_FAULTS clears the latched bits; MFR_WAKE latches or begins a wake; a transaction outside
the table is NAKed and sets CML, and each command has its code. The words that are LINEAR11 give, for 47.25 V and
4,032 W, the spec's examples, and −128 °C where a temperature is not valid. After a trip nothing is acknowledged.
(24_module_and_board.md) -/
def Obligations.SmbusAnswers : Prop :=
  ∀ (s : State) (bad : SmbusBad),
    let reads : List (Instr × List Byte) :=
      [(.capability, [0xD0]), (.pmbusRevision, [0x44]), (.mfrId, [3, 0x51, 0x53, 0x4D]),
       (.mfrModel, [6, 0x49, 0x42, 0x58, 0x2D, 0x31, 0x32]),
       (.statusWord, leBytes 2 (b2n s.smbus.cml * 2 + b2n s.smbus.temperature * 4 + b2n s.smbus.vinUv * 8
          + b2n (s.power.pkg == .p3 || s.thermal.coolantHold) * 64 + b2n s.smbus.mfr * 4096)),
       (.statusTemperature, leBytes 1 (b2n s.smbus.shutLogged * 128 + b2n (s.polders.any fun p => p.2.weirOn) * 64)),
       (.readVin, leBytes 2 (linear11 s.power.vin 1000)), (.readIin, leBytes 2 (linear11 s.power.iin 10)),
       (.readTemperature1, leBytes 2 (linear11 ((s.thermistor 1920).getD (-128000)) 1000)),
       (.readTemperature2, leBytes 2 (linear11 (sx 10 s.thermal.hotLogic * 250) 1000)),
       (.readTemperature3, leBytes 2 (linear11 ((s.thermistor 1921).getD (-128000)) 1000)),
       (.readPin, leBytes 2 (linear11 (s.meter mModule).avg100 1)),
       (.mfrPkgState, leBytes 2 (s.power.pkg.code + b2n s.thermal.coolantHold * 4 + b2n s.power.sagHold * 8
          + b2n s.boot.done * 16 + b2n s.boot.failed * 32)),
       (.mfrEnergy, 8 :: leBytes 8 ((s.meter mModule).total / 1000000)),
       (.mfrBootStatus, 8 :: leBytes 8 s.bootStatus), (.mfrEffCap, leBytes 2 (linear11 s.ledger.effCap 1)),
       (.mfrHotDram, leBytes 2 (linear11 (sx 10 s.thermal.hotDram * 250) 1000))]
    (s.power.aon = true → s.power.trip = none →
      (∀ x ∈ reads, exec x.1 s = .next { s with reply := .data x.2 })
      ∧ (Answers .clearFaults s fun t => t.alert = false ∧ t.smbus.shutLogged = false ∧ t.reply = .done
        ∧ t = { s with smbus := t.smbus, reply := t.reply } ∧ t.smbus.slotId = s.smbus.slotId)
      ∧ (s.power.sagHold = true ∨ (s.power.entering = none ∧ s.power.pkg = .p0) → exec .mfrWake s = .next { s with reply := .done })
      ∧ (s.power.sagHold = false → s.power.entering = none → s.power.pkg = .p1 → exec .mfrWake s = .next
        { s with reply := .done, power := { s.power with pkg := .p0 } })
      ∧ (s.power.sagHold = false → s.power.entering = none → s.power.pkg = .p2 ∨ s.power.pkg = .p3 → exec .mfrWake s = .next
        { s with reply := .done, power := { s.power with exiting := true } })
      ∧ (s.power.sagHold = false → s.power.entering ≠ none → exec .mfrWake s = .next { s with reply := .done, power := { s.power with wake := true } })
      ∧ ((∀ c, bad = .code c → smbusCommand c = none) →
        exec (.smbusBadTransaction bad) s = .next { s with reply := .nak, smbus := { s.smbus with cml := true } })
      ∧ ∀ x ∈ [(0x03, Instr.clearFaults), (0x19, .capability), (0x79, .statusWord), (0x7D, .statusTemperature), (0x88, .readVin),
          (0x89, .readIin), (0x8D, .readTemperature1), (0x8E, .readTemperature2), (0x8F, .readTemperature3), (0x97, .readPin),
          (0x98, .pmbusRevision), (0x99, .mfrId), (0x9A, .mfrModel), (0xD0, .mfrWake), (0xD1, .mfrPkgState), (0xD2, .mfrEnergy),
          (0xD3, .mfrBootStatus), (0xD4, .mfrEffCap), (0xD5, .mfrHotDram)],
        exec (.smbusBadTransaction (.code x.1)) s = exec x.2 s)
    ∧ (s.power.trip ≠ none → ∀ c, c ∈ reads.map Prod.fst ++ [.clearFaults, .mfrWake, .smbusBadTransaction bad] →
      exec c s = .next { s with reply := .nak })
    ∧ linear11 47250 1000 = 0xE2F4 ∧ linear11 4032 1 = 0x13F0
    ∧ ∃ e y : Int, -16 ≤ e ∧ e ≤ 15 ∧ -1024 ≤ y ∧ y < 1024 ∧ linear11 (-128000) 1000 = tc 5 e * 2048 + tc 11 y
      ∧ y * 2 ^ (e + 16).toNat = -128 * 2 ^ 16

/-- When a VSHUF is the running operation of the compute queue of a V-core that does not stand still, nothing before it
blocks it and no beat of the mini-mesh has written over its destination since its issue: in every 32-byte vector, each
of the eight 4-byte output lanes l takes the input lane that EOFF[3l+2:3l] names in the same vector (on 16-bit
elements a lane is a pair of elements), with one pattern for all vectors. Bytes outside the destination stay. (R95) -/
def Obligations.ShuffleMovesLanes : Prop :=
  ∀ (s : State) (core : Nat) (b r : List Op) (o : Op), runnable vOpc vQueue vFoot 0x33 0 (s.vcore core).ops = some (b, o, r) →
    s.standsStill core = false → o.covered = [] →
    let w := o.word.toNat
    let c := (s.ringBlur core ((s.vcore core).readsOf b o)).vcore core
    let bytes := vCount w * (if vFmtA w = 1 ∨ vFmtA w = 2 then 2 else 4)
    (vFmtA w = 0 ∨ vFmtA w = 1 ∨ vFmtA w = 2 ∨ vFmtA w = 8) →
    Answers (.vshuf core) s fun t =>
      (∀ v l i, l < 8 → i < 4 →
        let lane := vEoff w / 2 ^ (3 * l) % 8
        32 * v + 4 * l + i < bytes → 32 * v + 4 * lane + i < bytes →
        (t.vcore core).sram.byte (vDst w + 32 * v + 4 * l + i) = c.sram.byte (vSrcA w + 32 * v + 4 * lane + i))
      ∧ (∀ a, a < vDst w ∨ vDst w + bytes ≤ a → (t.vcore core).sram.byte a = c.sram.byte a)
      ∧ (t.vcore core).status = c.status ∧ (t.vcore core).ops = b ++ r ∧ ∀ k, k ≠ core → t.vcore k = s.vcore k

/-- The exact sum of two finite operands of opposite signs and equal magnitude is +0, and so is an exact group sum of the
array that comes to zero other than from zeros of one sign; the sum of two zeros of the same sign keeps that sign.
FP32 addition writes the code of that zero, and so does a VADD of the V-core in every element. (R34) -/
def Obligations.ZeroSumsHaveTheirSign : Prop :=
  (∀ (sign : Bool) (m n : Nat) (e g : Int), m * pow2 (e - g) = n * pow2 (g - e) →
      ∃ k, Sys2Proof.Machine.Num.add (.fin sign m e) (.fin (!sign) n g) = (.fin false 0 k, 0))
    ∧ (∀ (sign : Bool) (e g : Int), ∃ k, Sys2Proof.Machine.Num.add (.fin sign 0 e) (.fin sign 0 g) = (.fin sign 0 k, 0))
    ∧ (∀ a b : List Sys2Proof.Machine.Num, (∀ p ∈ List.zipWith Sys2Proof.Machine.Num.mul a b, p.1.isNan = false ∧ p.1.isInf = false) →
      (groupSum a b).1.isZero = true →
      ((groupSum a b).1.negative = true ↔ List.zipWith Sys2Proof.Machine.Num.mul a b ≠ []
        ∧ ∀ p ∈ List.zipWith Sys2Proof.Machine.Num.mul a b, p.1.isZero = true ∧ p.1.negative = true))
    ∧ (∀ (o : ArithOpt) (x y : Nat), x < 2 ^ 31 → x / 2 ^ 23 < 255 →
      (fadd o x (2 ^ 31 + x)).1 = 0 ∧ (fadd o (2 ^ 31 + x) x).1 = 0
      ∧ (y = 0 ∨ y = 2 ^ 31 → fadd o y y = (y, 0)))
    ∧ ∀ (c : VCore) (e : VEnv) (w i x : Nat), vFmtA w = 0 → vFmtD w = 0 → vRnd w = false → vSb w = false → i < vCount w →
      x / 2 ^ 23 < 255 → fieldAt (c.sram.read (vSrcA w + 4 * i) 4) 0 4 = x →
      fieldAt (c.sram.read (vSrcB w + 4 * i) 4) 0 4 = 2 ^ 31 + x →
      (vaddOp c e w).sram.read (vDst w + 4 * i) 4 = [0, 0, 0, 0]
end

