-- ==== Sys2Proof/Laws/Sparse.lean ====
section
/-! SUPPORT. What reading a sparse table or a memory gives after each way of changing it, and that every way keeps the
canonical form. -/

namespace Sys2Proof

variable {α : Type}

/-! ### Reading after writing -/

theorem Sparse.get_append (d : α) (a b : Sparse α) (i : Nat) :
    Sparse.get d (a ++ b) i = if a.any (fun e => e.1 == i) then Sparse.get d a i else Sparse.get d b i := by
  induction a with
  | nil => simp
  | cons e r ih =>
    obtain ⟨k, v⟩ := e
    by_cases h : k = i
    · subst h; simp [Sparse.get]
    · have hb : (k == i) = false := by simpa using h
      simp only [List.cons_append, Sparse.get, if_neg h, ih, List.any_cons, hb, Bool.false_or]

theorem Sparse.get_filter (d : α) (m : Sparse α) (p : Nat → Bool) (i : Nat) :
    Sparse.get d (m.filter fun e => p e.1) i = if p i then Sparse.get d m i else d := by
  induction m with
  | nil => simp [Sparse.get]
  | cons e r ih =>
    obtain ⟨k, v⟩ := e
    by_cases hk : k = i
    · subst hk
      cases hp : p k <;> simp [Sparse.get, hp, ih]
    · cases hp : p k <;> simp [Sparse.get, hp, ih, hk]

theorem Sparse.any_filter (m : Sparse α) (p : Nat → Bool) (i : Nat) (h : p i = false) :
    (m.filter fun e => p e.1).any (fun e => e.1 == i) = false := by
  simp only [List.any_eq_false, List.mem_filter, beq_iff_eq]
  rintro ⟨k, v⟩ ⟨_, hk⟩ rfl
  simp [h] at hk

theorem Sparse.get_of_not_any (d : α) (m : Sparse α) (i : Nat) (h : m.any (fun e => e.1 == i) = false) :
    Sparse.get d m i = d := by
  induction m with
  | nil => rfl
  | cons e r ih =>
    obtain ⟨k, v⟩ := e
    simp only [List.any_cons, Bool.or_eq_false_iff, beq_eq_false_iff_ne] at h
    simp [Sparse.get, h.1, ih h.2]

theorem Sparse.get_drop (d : α) (p : Nat → Bool) (m : Sparse α) (i : Nat) :
    Sparse.get d (Sparse.drop p m) i = if p i then d else Sparse.get d m i := by
  unfold Sparse.drop
  rw [Sparse.get_filter d m (fun k => !p k) i]
  cases p i <;> simp

theorem Sparse.range_eq (d : α) (m : Sparse α) (k n : Nat) :
    Sparse.range d m k n = (List.range' k n).map (Sparse.get d m) := by
  induction n generalizing k with
  | zero => rfl
  | succ n ih => simp [Sparse.range, ih, List.range'_succ]

variable [DecidableEq α]

theorem Sparse.get_ofList (d : α) (l : List α) (k i : Nat) :
    Sparse.get d (Sparse.ofList d k l) i = if k ≤ i then (l[i - k]?).getD d else d := by
  induction l generalizing k with
  | nil => simp [Sparse.ofList, Sparse.get]
  | cons v r ih =>
    unfold Sparse.ofList
    by_cases hki : k = i
    · subst hki
      by_cases hv : v = d
      · rw [if_pos hv, ih (k + 1), if_neg (by omega)]; simp [hv]
      · rw [if_neg hv]; simp [Sparse.get]
    · have hs : (k ≤ i) ↔ (k + 1 ≤ i) := by omega
      have hx : k + 1 ≤ i → ((v :: r)[i - k]?).getD d = (r[i - (k + 1)]?).getD d := by
        intro h
        obtain ⟨n, hn⟩ : ∃ n, i - k = n + 1 := ⟨i - k - 1, by omega⟩
        have : i - (k + 1) = n := by omega
        rw [hn, this]; simp
      by_cases hv : v = d
      · rw [if_pos hv, ih (k + 1)]
        by_cases h : k + 1 ≤ i
        · rw [if_pos h, if_pos (hs.2 h), hx h]
        · rw [if_neg h, if_neg (fun h' => h (hs.1 h'))]
      · rw [if_neg hv]
        simp only [Sparse.get, if_neg hki]
        rw [ih (k + 1)]
        by_cases h : k + 1 ≤ i
        · rw [if_pos h, if_pos (hs.2 h), hx h]
        · rw [if_neg h, if_neg (fun h' => h (hs.1 h'))]

/-- What a table gives after consecutive entries are written. -/
theorem Sparse.get_setRange (d : α) (m : Sparse α) (k : Nat) (l : List α) (i : Nat) :
    Sparse.get d (Sparse.setRange d m k l) i =
      if k ≤ i ∧ i < k + l.length then (l[i - k]?).getD d else Sparse.get d m i := by
  unfold Sparse.setRange
  rw [List.append_assoc, Sparse.get_append, Sparse.get_append]
  by_cases hlt : i < k
  · rw [if_neg (by omega : ¬(k ≤ i ∧ i < k + l.length))]
    by_cases ha : (m.filter fun e => decide (e.1 < k)).any (fun e => e.1 == i)
    · rw [if_pos ha, Sparse.get_filter d m (fun x => decide (x < k)) i]; simp [hlt]
    · rw [if_neg ha]
      have hm : Sparse.get d m i = d := by
        have := Sparse.get_of_not_any d _ i (Bool.eq_false_iff.2 ha)
        rw [Sparse.get_filter d m (fun x => decide (x < k)) i] at this
        simpa [hlt] using this
      rw [hm]
      split
      · rw [Sparse.get_ofList]; simp [Nat.not_le.2 hlt]
      · rw [Sparse.get_filter d m (fun x => decide (k + l.length ≤ x)) i, hm]; simp
  · rw [Sparse.any_filter m (fun x => decide (x < k)) i (by simp [hlt]), if_neg (by simp)]
    by_cases hr : i < k + l.length
    · have hin : k ≤ i ∧ i < k + l.length := ⟨Nat.not_lt.1 hlt, hr⟩
      rw [if_pos hin]
      by_cases hb : (Sparse.ofList d k l).any (fun e => e.1 == i)
      · rw [if_pos hb, Sparse.get_ofList]; simp [Nat.not_lt.1 hlt]
      · rw [if_neg hb, Sparse.get_filter d m (fun x => decide (k + l.length ≤ x)) i,
          if_neg (by simp; omega)]
        have := Sparse.get_of_not_any d _ i (Bool.eq_false_iff.2 hb)
        rw [Sparse.get_ofList, if_pos (Nat.not_lt.1 hlt)] at this
        exact this.symm
    · have hout : ¬(k ≤ i ∧ i < k + l.length) := by omega
      rw [if_neg hout]
      have hn : (Sparse.ofList d k l).any (fun e => e.1 == i) = false := by
        clear hlt hout
        induction l generalizing k with
        | nil => rfl
        | cons v r ih =>
          simp only [List.length_cons] at hr
          unfold Sparse.ofList
          split
          · exact ih (k + 1) (by omega)
          · simp only [List.any_cons, Bool.or_eq_false_iff, beq_eq_false_iff_ne]
            exact ⟨by omega, ih (k + 1) (by omega)⟩
      rw [hn, if_neg (by simp), Sparse.get_filter d m (fun x => decide (k + l.length ≤ x)) i,
        if_pos (by simp; omega)]

/-- What a table gives after one entry is written. -/
@[simp] theorem Sparse.get_set (d : α) (m : Sparse α) (k : Nat) (v : α) (i : Nat) :
    Sparse.get d (Sparse.set d m k v) i = if k = i then v else Sparse.get d m i := by
  unfold Sparse.set
  rw [Sparse.get_setRange]
  by_cases h : k = i
  · subst h; simp
  · rw [if_neg h, if_neg (by simp only [List.length_singleton]; omega)]

/-- Writing one entry changes no other, whatever an unlisted key is read as. -/
theorem Sparse.get_set_other (d e : α) (m : Sparse α) (k : Nat) (v : α) (i : Nat) (h : k ≠ i) :
    Sparse.get e (Sparse.set d m k v) i = Sparse.get e m i := by
  have hmid : (Sparse.ofList d k [v]).any (fun x => x.1 == i) = false := by
    unfold Sparse.ofList
    split <;> simp [Sparse.ofList, h]
  unfold Sparse.set Sparse.setRange
  rw [List.append_assoc, Sparse.get_append, Sparse.get_append]
  simp only [hmid, Bool.false_eq_true, if_false]
  by_cases hlt : i < k
  · by_cases ha : (m.filter fun e => decide (e.1 < k)).any (fun e => e.1 == i)
    · rw [if_pos ha, Sparse.get_filter e m (fun x => decide (x < k)) i]; simp [hlt]
    · have := Sparse.get_of_not_any e _ i (Bool.eq_false_iff.2 ha)
      rw [Sparse.get_filter e m (fun x => decide (x < k)) i, if_pos (by simpa using hlt)] at this
      rw [if_neg ha, Sparse.get_filter e m (fun x => decide (k + [v].length ≤ x)) i, this, ite_self]
  · rw [Sparse.any_filter m (fun x => decide (x < k)) i (by simp [hlt]), if_neg (by simp),
      Sparse.get_filter e m (fun x => decide (k + [v].length ≤ x)) i,
      if_pos (by simp only [List.length_singleton, decide_eq_true_eq]; omega)]

@[simp] theorem Sparse.get_modify (d : α) (m : Sparse α) (k : Nat) (f : α → α) (i : Nat) :
    Sparse.get d (Sparse.modify d m k f) i = if k = i then f (Sparse.get d m k) else Sparse.get d m i := by
  simp [Sparse.modify]

/-! ### The canonical form -/

theorem Sparse.wfFrom_mono (d : α) (m : Sparse α) {a b : Nat} (hab : a ≤ b) (h : Sparse.wfFrom d b m = true) :
    Sparse.wfFrom d a m = true := by
  cases m with
  | nil => rfl
  | cons e r =>
    obtain ⟨k, v⟩ := e
    simp only [Sparse.wfFrom, Bool.and_eq_true, decide_eq_true_eq] at h ⊢
    exact ⟨⟨by omega, h.1.2⟩, h.2⟩

theorem Sparse.wfFrom_filter (d : α) (p : Nat × α → Bool) (m : Sparse α) (lo : Nat)
    (h : Sparse.wfFrom d lo m = true) : Sparse.wfFrom d lo (m.filter p) = true := by
  induction m generalizing lo with
  | nil => rfl
  | cons e r ih =>
    obtain ⟨k, v⟩ := e
    simp only [Sparse.wfFrom, Bool.and_eq_true, decide_eq_true_eq] at h
    cases hp : p (k, v)
    · simp only [List.filter, hp]
      exact Sparse.wfFrom_mono d _ (by omega) (ih (k + 1) h.2)
    · simp only [List.filter, hp, Sparse.wfFrom, Bool.and_eq_true, decide_eq_true_eq]
      exact ⟨h.1, ih (k + 1) h.2⟩

theorem Sparse.wfFrom_ofList (d : α) (l : List α) (k : Nat) : Sparse.wfFrom d k (Sparse.ofList d k l) = true := by
  induction l generalizing k with
  | nil => rfl
  | cons v r ih =>
    unfold Sparse.ofList
    split
    · exact Sparse.wfFrom_mono d _ (by omega) (ih (k + 1))
    · rename_i hv
      simp [Sparse.wfFrom, hv, ih (k + 1)]

/-- A canonical table ends before `k`, another begins there: together they are canonical. -/
theorem Sparse.wfFrom_append (d : α) (a b : Sparse α) (lo k : Nat) (hlo : lo ≤ k)
    (ha : Sparse.wfFrom d lo a = true) (hk : ∀ e ∈ a, e.1 < k) (hb : Sparse.wfFrom d k b = true) :
    Sparse.wfFrom d lo (a ++ b) = true := by
  induction a generalizing lo with
  | nil => exact Sparse.wfFrom_mono d _ hlo hb
  | cons e r ih =>
    obtain ⟨i, v⟩ := e
    simp only [Sparse.wfFrom, Bool.and_eq_true, decide_eq_true_eq, List.cons_append] at ha ⊢
    have hi : i < k := hk (i, v) (by simp)
    exact ⟨ha.1, ih (i + 1) hi ha.2 (fun e he => hk e (by simp [he]))⟩

theorem Sparse.ofList_lt (d : α) (l : List α) (k : Nat) : ∀ e ∈ Sparse.ofList d k l, e.1 < k + l.length := by
  induction l generalizing k with
  | nil => simp [Sparse.ofList]
  | cons v r ih =>
    unfold Sparse.ofList
    intro e he
    simp only [List.length_cons]
    split at he
    · have := ih (k + 1) e he; omega
    · rcases List.mem_cons.1 he with rfl | h
      · simp
      · have := ih (k + 1) e h; omega

theorem Sparse.wfFrom_ge (d : α) (m : Sparse α) (lo k : Nat) (h : Sparse.wfFrom d lo m = true) :
    Sparse.wfFrom d k (m.filter fun e => decide (k ≤ e.1)) = true := by
  induction m generalizing lo with
  | nil => rfl
  | cons e r ih =>
    obtain ⟨i, v⟩ := e
    simp only [Sparse.wfFrom, Bool.and_eq_true, decide_eq_true_eq] at h
    by_cases hk : k ≤ i
    · simp only [List.filter, hk, decide_true, Sparse.wfFrom, Bool.and_eq_true, decide_eq_true_eq]
      exact ⟨⟨trivial, h.1.2⟩, Sparse.wfFrom_filter d _ r (i + 1) h.2⟩
    · simp only [List.filter, hk, decide_false]
      exact ih (i + 1) h.2

/-- Writing consecutive entries keeps the canonical form. -/
theorem Sparse.wf_setRange (d : α) (m : Sparse α) (k : Nat) (l : List α) (h : Sparse.wf d m = true) :
    Sparse.wf d (Sparse.setRange d m k l) = true := by
  unfold Sparse.wf Sparse.setRange at *
  refine Sparse.wfFrom_append d _ _ 0 (k + l.length) (by omega) ?_ ?_ (Sparse.wfFrom_ge d m 0 _ h)
  · refine Sparse.wfFrom_append d _ _ 0 k (by omega) (Sparse.wfFrom_filter d _ m 0 h) ?_ (Sparse.wfFrom_ofList d l k)
    intro e he
    simpa using (List.mem_filter.1 he).2
  · intro e he
    rcases List.mem_append.1 he with h' | h'
    · have : e.1 < k := by simpa using (List.mem_filter.1 h').2
      omega
    · exact Sparse.ofList_lt d l k e h'

theorem Sparse.wf_set (d : α) (m : Sparse α) (k : Nat) (v : α) (h : Sparse.wf d m = true) :
    Sparse.wf d (Sparse.set d m k v) = true := Sparse.wf_setRange d m k [v] h

theorem Sparse.wf_drop (d : α) (p : Nat → Bool) (m : Sparse α) (h : Sparse.wf d m = true) :
    Sparse.wf d (Sparse.drop p m) = true := Sparse.wfFrom_filter d _ m 0 h

theorem Sparse.wf_mapWhere (d : α) (p : Nat → Bool) (f : α → α) (m : Sparse α) (h : Sparse.wf d m = true) :
    Sparse.wf d (Sparse.mapWhere d p f m) = true := by
  unfold Sparse.wf at *
  suffices ∀ lo, Sparse.wfFrom d lo m = true → Sparse.wfFrom d lo (Sparse.mapWhere d p f m) = true from this 0 h
  clear h
  induction m with
  | nil => intros; rfl
  | cons e r ih =>
    intro lo h
    obtain ⟨k, v⟩ := e
    simp only [Sparse.wfFrom, Bool.and_eq_true, decide_eq_true_eq] at h
    unfold Sparse.mapWhere
    dsimp only
    generalize (if p k then f v else v) = w
    split
    · exact Sparse.wfFrom_filter d _ _ lo (ih lo (Sparse.wfFrom_mono d r (by omega) h.2))
    · rename_i hw
      simp only [Sparse.wfFrom, Bool.and_eq_true]
      exact ⟨⟨decide_eq_true h.1.1, decide_eq_true hw⟩, ih (k + 1) h.2⟩

/-- What a table gives after the entries whose key satisfies `p` have changed. -/
theorem Sparse.get_mapWhere (d : α) (p : Nat → Bool) (f : α → α) (hf : f d = d) (m : Sparse α) (i : Nat) :
    Sparse.get d (Sparse.mapWhere d p f m) i = if p i then f (Sparse.get d m i) else Sparse.get d m i := by
  induction m with
  | nil => simp [Sparse.mapWhere, Sparse.get, hf]
  | cons e r ih =>
    obtain ⟨k, v⟩ := e
    unfold Sparse.mapWhere
    dsimp only
    by_cases hk : k = i
    · subst hk
      simp only [Sparse.get, if_pos]
      generalize (if p k then f v else v) = w
      by_cases hw : w = d
      · rw [if_pos hw, Sparse.get_drop, if_pos (by simp), hw]
      · rw [if_neg hw, Sparse.get, if_pos rfl]
    · simp only [Sparse.get, if_neg hk, ← ih]
      generalize (if p k then f v else v) = w
      by_cases hw : w = d
      · rw [if_pos hw, Sparse.get_drop, if_neg (by simpa using Ne.symm hk)]
      · rw [if_neg hw, Sparse.get, if_neg hk]

/-! ### Memories -/

/-- What a byte of a memory reads as after bytes were written. -/
theorem Memory.byte_write (m : Memory) (a : Nat) (v : List Byte) (i : Nat) :
    (m.write a v).byte i = if a ≤ i ∧ i < a + v.length then (v[i - a]?).getD 0 else m.byte i :=
  Sparse.get_setRange 0 m a v i

/-- Outside the bytes written, a memory reads as before. -/
theorem Memory.byte_write_outside (m : Memory) (a : Nat) (v : List Byte) (i : Nat) (h : i < a ∨ a + v.length ≤ i) :
    (m.write a v).byte i = m.byte i := by
  rw [Memory.byte_write, if_neg (by omega)]

theorem Memory.byte_clear (m : Memory) (a n i : Nat) :
    (m.clear a n).byte i = if a ≤ i ∧ i < a + n then 0 else m.byte i := by
  unfold Memory.clear Memory.byte
  rw [Sparse.get_drop]
  simp

/-- A read gives the bytes at its addresses, in ascending order. -/
theorem Memory.read_eq (m : Memory) (a n : Nat) : m.read a n = (List.range' a n).map m.byte := by
  unfold Memory.read
  rw [Sparse.range_eq]
  apply List.map_congr_left
  intro i hi
  rw [List.mem_range'_1] at hi
  rw [Sparse.get_filter (0 : Byte) m (fun k => decide (a ≤ k) && decide (k < a + n)) i]
  simp [hi.1, hi.2, Memory.byte]

@[simp] theorem Memory.read_length (m : Memory) (a n : Nat) : (m.read a n).length = n := by
  simp [Memory.read_eq]

/-- A read of the bytes just written gives them. -/
theorem Memory.read_write (m : Memory) (a : Nat) (v : List Byte) : (m.write a v).read a v.length = v := by
  rw [Memory.read_eq]
  apply List.ext_getElem (by simp)
  intro i h1 h2
  simp only [List.getElem_map, List.getElem_range', Nat.one_mul]
  rw [Memory.byte_write, if_pos (by omega)]
  simp [h2]

theorem Memory.wf_write (m : Memory) (a : Nat) (v : List Byte) (h : m.wf = true) : (m.write a v).wf = true :=
  Sparse.wf_setRange 0 m a v h

theorem Memory.wf_clear (m : Memory) (a n : Nat) (h : m.wf = true) : (m.clear a n).wf = true :=
  Sparse.wf_drop 0 _ m h

theorem Memory.wf_drop (m : Memory) (p : Nat → Bool) (h : m.wf = true) : Memory.wf (Sparse.drop p m) = true :=
  Sparse.wf_drop 0 _ m h

end Sys2Proof
end

