-- ==== Sys2Proof/Laws/State.lean ====
section
/-! SUPPORT. What a change of one unit of the module leaves as it was: every other field of State, every other unit. -/

namespace Sys2Proof.Machine

variable (s : State) (k n : Nat)

/-! ### Func -/

@[simp] theorem State.setFunc_pending (x : Func) : (s.setFunc n x).pending = s.pending := rfl
@[simp] theorem State.setFunc_fresh (x : Func) : (s.setFunc n x).fresh = s.fresh := rfl
@[simp] theorem State.setFunc_slotPins (x : Func) : (s.setFunc n x).slotPins = s.slotPins := rfl
@[simp] theorem State.setFunc_pins (x : Func) : (s.setFunc n x).pins = s.pins := rfl
@[simp] theorem State.setFunc_hostMem (x : Func) : (s.setFunc n x).hostMem = s.hostMem := rfl
@[simp] theorem State.setFunc_hostErr (x : Func) : (s.setFunc n x).hostErr = s.hostErr := rfl
@[simp] theorem State.setFunc_reply (x : Func) : (s.setFunc n x).reply = s.reply := rfl
@[simp] theorem State.setFunc_lateReplies (x : Func) : (s.setFunc n x).lateReplies = s.lateReplies := rfl
@[simp] theorem State.setFunc_gathers (x : Func) : (s.setFunc n x).gathers = s.gathers := rfl
@[simp] theorem State.setFunc_gatherNo (x : Func) : (s.setFunc n x).gatherNo = s.gatherNo := rfl
@[simp] theorem State.setFunc_msixSent (x : Func) : (s.setFunc n x).msixSent = s.msixSent := rfl
@[simp] theorem State.setFunc_aerErrors (x : Func) : (s.setFunc n x).aerErrors = s.aerErrors := rfl
@[simp] theorem State.setFunc_tcores (x : Func) : (s.setFunc n x).tcores = s.tcores := rfl
@[simp] theorem State.setFunc_vcores (x : Func) : (s.setFunc n x).vcores = s.vcores := rfl
@[simp] theorem State.setFunc_scores (x : Func) : (s.setFunc n x).scores = s.scores := rfl
@[simp] theorem State.setFunc_clusters (x : Func) : (s.setFunc n x).clusters = s.clusters := rfl
@[simp] theorem State.setFunc_ucm (x : Func) : (s.setFunc n x).ucm = s.ucm := rfl
@[simp] theorem State.setFunc_ucmValid (x : Func) : (s.setFunc n x).ucmValid = s.ucmValid := rfl
@[simp] theorem State.setFunc_ucmBad (x : Func) : (s.setFunc n x).ucmBad = s.ucmBad := rfl
@[simp] theorem State.setFunc_ucmDies (x : Func) : (s.setFunc n x).ucmDies = s.ucmDies := rfl
@[simp] theorem State.setFunc_ucmScrub (x : Func) : (s.setFunc n x).ucmScrub = s.ucmScrub := rfl
@[simp] theorem State.setFunc_merges (x : Func) : (s.setFunc n x).merges = s.merges := rfl
@[simp] theorem State.setFunc_edge (x : Func) : (s.setFunc n x).edge = s.edge := rfl
@[simp] theorem State.setFunc_edgeBad (x : Func) : (s.setFunc n x).edgeBad = s.edgeBad := rfl
@[simp] theorem State.setFunc_channels (x : Func) : (s.setFunc n x).channels = s.channels := rfl
@[simp] theorem State.setFunc_edgeStacks (x : Func) : (s.setFunc n x).edgeStacks = s.edgeStacks := rfl
@[simp] theorem State.setFunc_basins (x : Func) : (s.setFunc n x).basins = s.basins := rfl
@[simp] theorem State.setFunc_intlvPkg (x : Func) : (s.setFunc n x).intlvPkg = s.intlvPkg := rfl
@[simp] theorem State.setFunc_kvBase (x : Func) : (s.setFunc n x).kvBase = s.kvBase := rfl
@[simp] theorem State.setFunc_kvStride (x : Func) : (s.setFunc n x).kvStride = s.kvStride := rfl
@[simp] theorem State.setFunc_kvSlots (x : Func) : (s.setFunc n x).kvSlots = s.kvSlots := rfl
@[simp] theorem State.setFunc_polders (x : Func) : (s.setFunc n x).polders = s.polders := rfl
@[simp] theorem State.setFunc_halfDies (x : Func) : (s.setFunc n x).halfDies = s.halfDies := rfl
@[simp] theorem State.setFunc_fencedCulverts (x : Func) : (s.setFunc n x).fencedCulverts = s.fencedCulverts := rfl
@[simp] theorem State.setFunc_narrowed (x : Func) : (s.setFunc n x).narrowed = s.narrowed := rfl
@[simp] theorem State.setFunc_pcie (x : Func) : (s.setFunc n x).pcie = s.pcie := rfl
@[simp] theorem State.setFunc_bar4Win (x : Func) : (s.setFunc n x).bar4Win = s.bar4Win := rfl
@[simp] theorem State.setFunc_bar4Off (x : Func) : (s.setFunc n x).bar4Off = s.bar4Off := rfl
@[simp] theorem State.setFunc_vfMap (x : Func) : (s.setFunc n x).vfMap = s.vfMap := rfl
@[simp] theorem State.setFunc_accErr (x : Func) : (s.setFunc n x).accErr = s.accErr := rfl
@[simp] theorem State.setFunc_gates (x : Func) : (s.setFunc n x).gates = s.gates := rfl
@[simp] theorem State.setFunc_fgNo (x : Func) : (s.setFunc n x).fgNo = s.fgNo := rfl
@[simp] theorem State.setFunc_gateChannels (x : Func) : (s.setFunc n x).gateChannels = s.gateChannels := rfl
@[simp] theorem State.setFunc_gateEndedJob (x : Func) : (s.setFunc n x).gateEndedJob = s.gateEndedJob := rfl
@[simp] theorem State.setFunc_draining (x : Func) : (s.setFunc n x).draining = s.draining := rfl
@[simp] theorem State.setFunc_board (x : Func) : (s.setFunc n x).board = s.board := rfl
@[simp] theorem State.setFunc_boardLost (x : Func) : (s.setFunc n x).boardLost = s.boardLost := rfl
@[simp] theorem State.setFunc_boardErrors (x : Func) : (s.setFunc n x).boardErrors = s.boardErrors := rfl
@[simp] theorem State.setFunc_dma (x : Func) : (s.setFunc n x).dma = s.dma := rfl
@[simp] theorem State.setFunc_engines (x : Func) : (s.setFunc n x).engines = s.engines := rfl
@[simp] theorem State.setFunc_links (x : Func) : (s.setFunc n x).links = s.links := rfl
@[simp] theorem State.setFunc_fabricId (x : Func) : (s.setFunc n x).fabricId = s.fabricId := rfl
@[simp] theorem State.setFunc_windows (x : Func) : (s.setFunc n x).windows = s.windows := rfl
@[simp] theorem State.setFunc_inbound (x : Func) : (s.setFunc n x).inbound = s.inbound := rfl
@[simp] theorem State.setFunc_ledger (x : Func) : (s.setFunc n x).ledger = s.ledger := rfl
@[simp] theorem State.setFunc_thermal (x : Func) : (s.setFunc n x).thermal = s.thermal := rfl
@[simp] theorem State.setFunc_power (x : Func) : (s.setFunc n x).power = s.power := rfl
@[simp] theorem State.setFunc_boot (x : Func) : (s.setFunc n x).boot = s.boot := rfl
@[simp] theorem State.setFunc_repair (x : Func) : (s.setFunc n x).repair = s.repair := rfl
@[simp] theorem State.setFunc_fuses (x : Func) : (s.setFunc n x).fuses = s.fuses := rfl
@[simp] theorem State.setFunc_trust (x : Func) : (s.setFunc n x).trust = s.trust := rfl
@[simp] theorem State.setFunc_time (x : Func) : (s.setFunc n x).time = s.time := rfl
@[simp] theorem State.setFunc_smbus (x : Func) : (s.setFunc n x).smbus = s.smbus := rfl
@[simp] theorem State.setFunc_cdcExpired (x : Func) : (s.setFunc n x).cdcExpired = s.cdcExpired := rfl
@[simp] theorem State.setFunc_cdcDown (x : Func) : (s.setFunc n x).cdcDown = s.cdcDown := rfl
@[simp] theorem State.setFunc_log (x : Func) : (s.setFunc n x).log = s.log := rfl
@[simp] theorem State.setFunc_accLog (x : Func) : (s.setFunc n x).accLog = s.accLog := rfl
@[simp] theorem State.setFunc_vault (x : Func) : (s.setFunc n x).vault = s.vault := rfl
@[simp] theorem State.setFunc_vaultCounters (x : Func) : (s.setFunc n x).vaultCounters = s.vaultCounters := rfl
@[simp] theorem State.setFunc_vaultSeq (x : Func) : (s.setFunc n x).vaultSeq = s.vaultSeq := rfl
@[simp] theorem State.setFunc_recordDue (x : Func) : (s.setFunc n x).recordDue = s.recordDue := rfl
@[simp] theorem State.setFunc_dieTest (x : Func) : (s.setFunc n x).dieTest = s.dieTest := rfl

@[simp] theorem State.setFunc_polder (x : Func) : (s.setFunc n x).polder k = s.polder k := rfl
@[simp] theorem State.setFunc_halfDie (x : Func) : (s.setFunc n x).halfDie k = s.halfDie k := rfl
@[simp] theorem State.setFunc_chan (x : Func) : (s.setFunc n x).chan k = s.chan k := rfl
@[simp] theorem State.setFunc_engine (x : Func) : (s.setFunc n x).engine k = s.engine k := rfl
@[simp] theorem State.setFunc_link (x : Func) : (s.setFunc n x).link k = s.link k := rfl
@[simp] theorem State.setFunc_cluster (x : Func) : (s.setFunc n x).cluster k = s.cluster k := rfl
@[simp] theorem State.setFunc_edgeCh (x : Func) : (s.setFunc n x).edgeCh k = s.edgeCh k := rfl
@[simp] theorem State.setFunc_stack (x : Func) : (s.setFunc n x).stack k = s.stack k := rfl
@[simp] theorem State.setFunc_basin (x : Func) : (s.setFunc n x).basin k = s.basin k := rfl
@[simp] theorem State.setFunc_ucmDie (x : Func) : (s.setFunc n x).ucmDie k = s.ucmDie k := rfl
@[simp] theorem State.setFunc_tcore (x : Func) : (s.setFunc n x).tcore k = s.tcore k := rfl
@[simp] theorem State.setFunc_vcore (x : Func) : (s.setFunc n x).vcore k = s.vcore k := rfl
@[simp] theorem State.setFunc_score (x : Func) : (s.setFunc n x).score k = s.score k := rfl

/-- The unit itself changes, and no other of its kind. -/
@[simp] theorem State.setFunc_func (x : Func) : (s.setFunc n x).func k = if n = k then x else s.func k := by
  simp [State.func, State.setFunc]

@[simp] theorem State.onFunc_pending (g : Func → Func) : (s.onFunc n g).pending = s.pending := rfl
@[simp] theorem State.onFunc_fresh (g : Func → Func) : (s.onFunc n g).fresh = s.fresh := rfl
@[simp] theorem State.onFunc_slotPins (g : Func → Func) : (s.onFunc n g).slotPins = s.slotPins := rfl
@[simp] theorem State.onFunc_pins (g : Func → Func) : (s.onFunc n g).pins = s.pins := rfl
@[simp] theorem State.onFunc_hostMem (g : Func → Func) : (s.onFunc n g).hostMem = s.hostMem := rfl
@[simp] theorem State.onFunc_hostErr (g : Func → Func) : (s.onFunc n g).hostErr = s.hostErr := rfl
@[simp] theorem State.onFunc_reply (g : Func → Func) : (s.onFunc n g).reply = s.reply := rfl
@[simp] theorem State.onFunc_lateReplies (g : Func → Func) : (s.onFunc n g).lateReplies = s.lateReplies := rfl
@[simp] theorem State.onFunc_gathers (g : Func → Func) : (s.onFunc n g).gathers = s.gathers := rfl
@[simp] theorem State.onFunc_gatherNo (g : Func → Func) : (s.onFunc n g).gatherNo = s.gatherNo := rfl
@[simp] theorem State.onFunc_msixSent (g : Func → Func) : (s.onFunc n g).msixSent = s.msixSent := rfl
@[simp] theorem State.onFunc_aerErrors (g : Func → Func) : (s.onFunc n g).aerErrors = s.aerErrors := rfl
@[simp] theorem State.onFunc_tcores (g : Func → Func) : (s.onFunc n g).tcores = s.tcores := rfl
@[simp] theorem State.onFunc_vcores (g : Func → Func) : (s.onFunc n g).vcores = s.vcores := rfl
@[simp] theorem State.onFunc_scores (g : Func → Func) : (s.onFunc n g).scores = s.scores := rfl
@[simp] theorem State.onFunc_clusters (g : Func → Func) : (s.onFunc n g).clusters = s.clusters := rfl
@[simp] theorem State.onFunc_ucm (g : Func → Func) : (s.onFunc n g).ucm = s.ucm := rfl
@[simp] theorem State.onFunc_ucmValid (g : Func → Func) : (s.onFunc n g).ucmValid = s.ucmValid := rfl
@[simp] theorem State.onFunc_ucmBad (g : Func → Func) : (s.onFunc n g).ucmBad = s.ucmBad := rfl
@[simp] theorem State.onFunc_ucmDies (g : Func → Func) : (s.onFunc n g).ucmDies = s.ucmDies := rfl
@[simp] theorem State.onFunc_ucmScrub (g : Func → Func) : (s.onFunc n g).ucmScrub = s.ucmScrub := rfl
@[simp] theorem State.onFunc_merges (g : Func → Func) : (s.onFunc n g).merges = s.merges := rfl
@[simp] theorem State.onFunc_edge (g : Func → Func) : (s.onFunc n g).edge = s.edge := rfl
@[simp] theorem State.onFunc_edgeBad (g : Func → Func) : (s.onFunc n g).edgeBad = s.edgeBad := rfl
@[simp] theorem State.onFunc_channels (g : Func → Func) : (s.onFunc n g).channels = s.channels := rfl
@[simp] theorem State.onFunc_edgeStacks (g : Func → Func) : (s.onFunc n g).edgeStacks = s.edgeStacks := rfl
@[simp] theorem State.onFunc_basins (g : Func → Func) : (s.onFunc n g).basins = s.basins := rfl
@[simp] theorem State.onFunc_intlvPkg (g : Func → Func) : (s.onFunc n g).intlvPkg = s.intlvPkg := rfl
@[simp] theorem State.onFunc_kvBase (g : Func → Func) : (s.onFunc n g).kvBase = s.kvBase := rfl
@[simp] theorem State.onFunc_kvStride (g : Func → Func) : (s.onFunc n g).kvStride = s.kvStride := rfl
@[simp] theorem State.onFunc_kvSlots (g : Func → Func) : (s.onFunc n g).kvSlots = s.kvSlots := rfl
@[simp] theorem State.onFunc_polders (g : Func → Func) : (s.onFunc n g).polders = s.polders := rfl
@[simp] theorem State.onFunc_halfDies (g : Func → Func) : (s.onFunc n g).halfDies = s.halfDies := rfl
@[simp] theorem State.onFunc_fencedCulverts (g : Func → Func) : (s.onFunc n g).fencedCulverts = s.fencedCulverts := rfl
@[simp] theorem State.onFunc_narrowed (g : Func → Func) : (s.onFunc n g).narrowed = s.narrowed := rfl
@[simp] theorem State.onFunc_pcie (g : Func → Func) : (s.onFunc n g).pcie = s.pcie := rfl
@[simp] theorem State.onFunc_bar4Win (g : Func → Func) : (s.onFunc n g).bar4Win = s.bar4Win := rfl
@[simp] theorem State.onFunc_bar4Off (g : Func → Func) : (s.onFunc n g).bar4Off = s.bar4Off := rfl
@[simp] theorem State.onFunc_vfMap (g : Func → Func) : (s.onFunc n g).vfMap = s.vfMap := rfl
@[simp] theorem State.onFunc_accErr (g : Func → Func) : (s.onFunc n g).accErr = s.accErr := rfl
@[simp] theorem State.onFunc_gates (g : Func → Func) : (s.onFunc n g).gates = s.gates := rfl
@[simp] theorem State.onFunc_fgNo (g : Func → Func) : (s.onFunc n g).fgNo = s.fgNo := rfl
@[simp] theorem State.onFunc_gateChannels (g : Func → Func) : (s.onFunc n g).gateChannels = s.gateChannels := rfl
@[simp] theorem State.onFunc_gateEndedJob (g : Func → Func) : (s.onFunc n g).gateEndedJob = s.gateEndedJob := rfl
@[simp] theorem State.onFunc_draining (g : Func → Func) : (s.onFunc n g).draining = s.draining := rfl
@[simp] theorem State.onFunc_board (g : Func → Func) : (s.onFunc n g).board = s.board := rfl
@[simp] theorem State.onFunc_boardLost (g : Func → Func) : (s.onFunc n g).boardLost = s.boardLost := rfl
@[simp] theorem State.onFunc_boardErrors (g : Func → Func) : (s.onFunc n g).boardErrors = s.boardErrors := rfl
@[simp] theorem State.onFunc_dma (g : Func → Func) : (s.onFunc n g).dma = s.dma := rfl
@[simp] theorem State.onFunc_engines (g : Func → Func) : (s.onFunc n g).engines = s.engines := rfl
@[simp] theorem State.onFunc_links (g : Func → Func) : (s.onFunc n g).links = s.links := rfl
@[simp] theorem State.onFunc_fabricId (g : Func → Func) : (s.onFunc n g).fabricId = s.fabricId := rfl
@[simp] theorem State.onFunc_windows (g : Func → Func) : (s.onFunc n g).windows = s.windows := rfl
@[simp] theorem State.onFunc_inbound (g : Func → Func) : (s.onFunc n g).inbound = s.inbound := rfl
@[simp] theorem State.onFunc_ledger (g : Func → Func) : (s.onFunc n g).ledger = s.ledger := rfl
@[simp] theorem State.onFunc_thermal (g : Func → Func) : (s.onFunc n g).thermal = s.thermal := rfl
@[simp] theorem State.onFunc_power (g : Func → Func) : (s.onFunc n g).power = s.power := rfl
@[simp] theorem State.onFunc_boot (g : Func → Func) : (s.onFunc n g).boot = s.boot := rfl
@[simp] theorem State.onFunc_repair (g : Func → Func) : (s.onFunc n g).repair = s.repair := rfl
@[simp] theorem State.onFunc_fuses (g : Func → Func) : (s.onFunc n g).fuses = s.fuses := rfl
@[simp] theorem State.onFunc_trust (g : Func → Func) : (s.onFunc n g).trust = s.trust := rfl
@[simp] theorem State.onFunc_time (g : Func → Func) : (s.onFunc n g).time = s.time := rfl
@[simp] theorem State.onFunc_smbus (g : Func → Func) : (s.onFunc n g).smbus = s.smbus := rfl
@[simp] theorem State.onFunc_cdcExpired (g : Func → Func) : (s.onFunc n g).cdcExpired = s.cdcExpired := rfl
@[simp] theorem State.onFunc_cdcDown (g : Func → Func) : (s.onFunc n g).cdcDown = s.cdcDown := rfl
@[simp] theorem State.onFunc_log (g : Func → Func) : (s.onFunc n g).log = s.log := rfl
@[simp] theorem State.onFunc_accLog (g : Func → Func) : (s.onFunc n g).accLog = s.accLog := rfl
@[simp] theorem State.onFunc_vault (g : Func → Func) : (s.onFunc n g).vault = s.vault := rfl
@[simp] theorem State.onFunc_vaultCounters (g : Func → Func) : (s.onFunc n g).vaultCounters = s.vaultCounters := rfl
@[simp] theorem State.onFunc_vaultSeq (g : Func → Func) : (s.onFunc n g).vaultSeq = s.vaultSeq := rfl
@[simp] theorem State.onFunc_recordDue (g : Func → Func) : (s.onFunc n g).recordDue = s.recordDue := rfl
@[simp] theorem State.onFunc_dieTest (g : Func → Func) : (s.onFunc n g).dieTest = s.dieTest := rfl

@[simp] theorem State.onFunc_polder (g : Func → Func) : (s.onFunc n g).polder k = s.polder k := rfl
@[simp] theorem State.onFunc_halfDie (g : Func → Func) : (s.onFunc n g).halfDie k = s.halfDie k := rfl
@[simp] theorem State.onFunc_chan (g : Func → Func) : (s.onFunc n g).chan k = s.chan k := rfl
@[simp] theorem State.onFunc_engine (g : Func → Func) : (s.onFunc n g).engine k = s.engine k := rfl
@[simp] theorem State.onFunc_link (g : Func → Func) : (s.onFunc n g).link k = s.link k := rfl
@[simp] theorem State.onFunc_cluster (g : Func → Func) : (s.onFunc n g).cluster k = s.cluster k := rfl
@[simp] theorem State.onFunc_edgeCh (g : Func → Func) : (s.onFunc n g).edgeCh k = s.edgeCh k := rfl
@[simp] theorem State.onFunc_stack (g : Func → Func) : (s.onFunc n g).stack k = s.stack k := rfl
@[simp] theorem State.onFunc_basin (g : Func → Func) : (s.onFunc n g).basin k = s.basin k := rfl
@[simp] theorem State.onFunc_ucmDie (g : Func → Func) : (s.onFunc n g).ucmDie k = s.ucmDie k := rfl
@[simp] theorem State.onFunc_tcore (g : Func → Func) : (s.onFunc n g).tcore k = s.tcore k := rfl
@[simp] theorem State.onFunc_vcore (g : Func → Func) : (s.onFunc n g).vcore k = s.vcore k := rfl
@[simp] theorem State.onFunc_score (g : Func → Func) : (s.onFunc n g).score k = s.score k := rfl

/-- The unit itself changes, and no other of its kind. -/
@[simp] theorem State.onFunc_func (g : Func → Func) : (s.onFunc n g).func k = if n = k then g (s.func n) else s.func k := by
  simp [State.onFunc]

/-! ### Polder -/

@[simp] theorem State.setPolder_pending (x : Polder) : (s.setPolder n x).pending = s.pending := rfl
@[simp] theorem State.setPolder_fresh (x : Polder) : (s.setPolder n x).fresh = s.fresh := rfl
@[simp] theorem State.setPolder_slotPins (x : Polder) : (s.setPolder n x).slotPins = s.slotPins := rfl
@[simp] theorem State.setPolder_pins (x : Polder) : (s.setPolder n x).pins = s.pins := rfl
@[simp] theorem State.setPolder_hostMem (x : Polder) : (s.setPolder n x).hostMem = s.hostMem := rfl
@[simp] theorem State.setPolder_hostErr (x : Polder) : (s.setPolder n x).hostErr = s.hostErr := rfl
@[simp] theorem State.setPolder_reply (x : Polder) : (s.setPolder n x).reply = s.reply := rfl
@[simp] theorem State.setPolder_lateReplies (x : Polder) : (s.setPolder n x).lateReplies = s.lateReplies := rfl
@[simp] theorem State.setPolder_gathers (x : Polder) : (s.setPolder n x).gathers = s.gathers := rfl
@[simp] theorem State.setPolder_gatherNo (x : Polder) : (s.setPolder n x).gatherNo = s.gatherNo := rfl
@[simp] theorem State.setPolder_msixSent (x : Polder) : (s.setPolder n x).msixSent = s.msixSent := rfl
@[simp] theorem State.setPolder_aerErrors (x : Polder) : (s.setPolder n x).aerErrors = s.aerErrors := rfl
@[simp] theorem State.setPolder_tcores (x : Polder) : (s.setPolder n x).tcores = s.tcores := rfl
@[simp] theorem State.setPolder_vcores (x : Polder) : (s.setPolder n x).vcores = s.vcores := rfl
@[simp] theorem State.setPolder_scores (x : Polder) : (s.setPolder n x).scores = s.scores := rfl
@[simp] theorem State.setPolder_clusters (x : Polder) : (s.setPolder n x).clusters = s.clusters := rfl
@[simp] theorem State.setPolder_ucm (x : Polder) : (s.setPolder n x).ucm = s.ucm := rfl
@[simp] theorem State.setPolder_ucmValid (x : Polder) : (s.setPolder n x).ucmValid = s.ucmValid := rfl
@[simp] theorem State.setPolder_ucmBad (x : Polder) : (s.setPolder n x).ucmBad = s.ucmBad := rfl
@[simp] theorem State.setPolder_ucmDies (x : Polder) : (s.setPolder n x).ucmDies = s.ucmDies := rfl
@[simp] theorem State.setPolder_ucmScrub (x : Polder) : (s.setPolder n x).ucmScrub = s.ucmScrub := rfl
@[simp] theorem State.setPolder_merges (x : Polder) : (s.setPolder n x).merges = s.merges := rfl
@[simp] theorem State.setPolder_edge (x : Polder) : (s.setPolder n x).edge = s.edge := rfl
@[simp] theorem State.setPolder_edgeBad (x : Polder) : (s.setPolder n x).edgeBad = s.edgeBad := rfl
@[simp] theorem State.setPolder_channels (x : Polder) : (s.setPolder n x).channels = s.channels := rfl
@[simp] theorem State.setPolder_edgeStacks (x : Polder) : (s.setPolder n x).edgeStacks = s.edgeStacks := rfl
@[simp] theorem State.setPolder_basins (x : Polder) : (s.setPolder n x).basins = s.basins := rfl
@[simp] theorem State.setPolder_intlvPkg (x : Polder) : (s.setPolder n x).intlvPkg = s.intlvPkg := rfl
@[simp] theorem State.setPolder_kvBase (x : Polder) : (s.setPolder n x).kvBase = s.kvBase := rfl
@[simp] theorem State.setPolder_kvStride (x : Polder) : (s.setPolder n x).kvStride = s.kvStride := rfl
@[simp] theorem State.setPolder_kvSlots (x : Polder) : (s.setPolder n x).kvSlots = s.kvSlots := rfl
@[simp] theorem State.setPolder_halfDies (x : Polder) : (s.setPolder n x).halfDies = s.halfDies := rfl
@[simp] theorem State.setPolder_fencedCulverts (x : Polder) : (s.setPolder n x).fencedCulverts = s.fencedCulverts := rfl
@[simp] theorem State.setPolder_narrowed (x : Polder) : (s.setPolder n x).narrowed = s.narrowed := rfl
@[simp] theorem State.setPolder_funcs (x : Polder) : (s.setPolder n x).funcs = s.funcs := rfl
@[simp] theorem State.setPolder_pcie (x : Polder) : (s.setPolder n x).pcie = s.pcie := rfl
@[simp] theorem State.setPolder_bar4Win (x : Polder) : (s.setPolder n x).bar4Win = s.bar4Win := rfl
@[simp] theorem State.setPolder_bar4Off (x : Polder) : (s.setPolder n x).bar4Off = s.bar4Off := rfl
@[simp] theorem State.setPolder_vfMap (x : Polder) : (s.setPolder n x).vfMap = s.vfMap := rfl
@[simp] theorem State.setPolder_accErr (x : Polder) : (s.setPolder n x).accErr = s.accErr := rfl
@[simp] theorem State.setPolder_gates (x : Polder) : (s.setPolder n x).gates = s.gates := rfl
@[simp] theorem State.setPolder_fgNo (x : Polder) : (s.setPolder n x).fgNo = s.fgNo := rfl
@[simp] theorem State.setPolder_gateChannels (x : Polder) : (s.setPolder n x).gateChannels = s.gateChannels := rfl
@[simp] theorem State.setPolder_gateEndedJob (x : Polder) : (s.setPolder n x).gateEndedJob = s.gateEndedJob := rfl
@[simp] theorem State.setPolder_draining (x : Polder) : (s.setPolder n x).draining = s.draining := rfl
@[simp] theorem State.setPolder_board (x : Polder) : (s.setPolder n x).board = s.board := rfl
@[simp] theorem State.setPolder_boardLost (x : Polder) : (s.setPolder n x).boardLost = s.boardLost := rfl
@[simp] theorem State.setPolder_boardErrors (x : Polder) : (s.setPolder n x).boardErrors = s.boardErrors := rfl
@[simp] theorem State.setPolder_dma (x : Polder) : (s.setPolder n x).dma = s.dma := rfl
@[simp] theorem State.setPolder_engines (x : Polder) : (s.setPolder n x).engines = s.engines := rfl
@[simp] theorem State.setPolder_links (x : Polder) : (s.setPolder n x).links = s.links := rfl
@[simp] theorem State.setPolder_fabricId (x : Polder) : (s.setPolder n x).fabricId = s.fabricId := rfl
@[simp] theorem State.setPolder_windows (x : Polder) : (s.setPolder n x).windows = s.windows := rfl
@[simp] theorem State.setPolder_inbound (x : Polder) : (s.setPolder n x).inbound = s.inbound := rfl
@[simp] theorem State.setPolder_ledger (x : Polder) : (s.setPolder n x).ledger = s.ledger := rfl
@[simp] theorem State.setPolder_thermal (x : Polder) : (s.setPolder n x).thermal = s.thermal := rfl
@[simp] theorem State.setPolder_power (x : Polder) : (s.setPolder n x).power = s.power := rfl
@[simp] theorem State.setPolder_boot (x : Polder) : (s.setPolder n x).boot = s.boot := rfl
@[simp] theorem State.setPolder_repair (x : Polder) : (s.setPolder n x).repair = s.repair := rfl
@[simp] theorem State.setPolder_fuses (x : Polder) : (s.setPolder n x).fuses = s.fuses := rfl
@[simp] theorem State.setPolder_trust (x : Polder) : (s.setPolder n x).trust = s.trust := rfl
@[simp] theorem State.setPolder_time (x : Polder) : (s.setPolder n x).time = s.time := rfl
@[simp] theorem State.setPolder_smbus (x : Polder) : (s.setPolder n x).smbus = s.smbus := rfl
@[simp] theorem State.setPolder_cdcExpired (x : Polder) : (s.setPolder n x).cdcExpired = s.cdcExpired := rfl
@[simp] theorem State.setPolder_cdcDown (x : Polder) : (s.setPolder n x).cdcDown = s.cdcDown := rfl
@[simp] theorem State.setPolder_log (x : Polder) : (s.setPolder n x).log = s.log := rfl
@[simp] theorem State.setPolder_accLog (x : Polder) : (s.setPolder n x).accLog = s.accLog := rfl
@[simp] theorem State.setPolder_vault (x : Polder) : (s.setPolder n x).vault = s.vault := rfl
@[simp] theorem State.setPolder_vaultCounters (x : Polder) : (s.setPolder n x).vaultCounters = s.vaultCounters := rfl
@[simp] theorem State.setPolder_vaultSeq (x : Polder) : (s.setPolder n x).vaultSeq = s.vaultSeq := rfl
@[simp] theorem State.setPolder_recordDue (x : Polder) : (s.setPolder n x).recordDue = s.recordDue := rfl
@[simp] theorem State.setPolder_dieTest (x : Polder) : (s.setPolder n x).dieTest = s.dieTest := rfl

@[simp] theorem State.setPolder_func (x : Polder) : (s.setPolder n x).func k = s.func k := rfl
@[simp] theorem State.setPolder_halfDie (x : Polder) : (s.setPolder n x).halfDie k = s.halfDie k := rfl
@[simp] theorem State.setPolder_chan (x : Polder) : (s.setPolder n x).chan k = s.chan k := rfl
@[simp] theorem State.setPolder_engine (x : Polder) : (s.setPolder n x).engine k = s.engine k := rfl
@[simp] theorem State.setPolder_link (x : Polder) : (s.setPolder n x).link k = s.link k := rfl
@[simp] theorem State.setPolder_cluster (x : Polder) : (s.setPolder n x).cluster k = s.cluster k := rfl
@[simp] theorem State.setPolder_edgeCh (x : Polder) : (s.setPolder n x).edgeCh k = s.edgeCh k := rfl
@[simp] theorem State.setPolder_stack (x : Polder) : (s.setPolder n x).stack k = s.stack k := rfl
@[simp] theorem State.setPolder_basin (x : Polder) : (s.setPolder n x).basin k = s.basin k := rfl
@[simp] theorem State.setPolder_ucmDie (x : Polder) : (s.setPolder n x).ucmDie k = s.ucmDie k := rfl
@[simp] theorem State.setPolder_tcore (x : Polder) : (s.setPolder n x).tcore k = s.tcore k := rfl
@[simp] theorem State.setPolder_vcore (x : Polder) : (s.setPolder n x).vcore k = s.vcore k := rfl
@[simp] theorem State.setPolder_score (x : Polder) : (s.setPolder n x).score k = s.score k := rfl

/-- The unit itself changes, and no other of its kind. -/
@[simp] theorem State.setPolder_polder (x : Polder) : (s.setPolder n x).polder k = if n = k then x else s.polder k := by
  simp [State.polder, State.setPolder]

@[simp] theorem State.onPolder_pending (g : Polder → Polder) : (s.onPolder n g).pending = s.pending := rfl
@[simp] theorem State.onPolder_fresh (g : Polder → Polder) : (s.onPolder n g).fresh = s.fresh := rfl
@[simp] theorem State.onPolder_slotPins (g : Polder → Polder) : (s.onPolder n g).slotPins = s.slotPins := rfl
@[simp] theorem State.onPolder_pins (g : Polder → Polder) : (s.onPolder n g).pins = s.pins := rfl
@[simp] theorem State.onPolder_hostMem (g : Polder → Polder) : (s.onPolder n g).hostMem = s.hostMem := rfl
@[simp] theorem State.onPolder_hostErr (g : Polder → Polder) : (s.onPolder n g).hostErr = s.hostErr := rfl
@[simp] theorem State.onPolder_reply (g : Polder → Polder) : (s.onPolder n g).reply = s.reply := rfl
@[simp] theorem State.onPolder_lateReplies (g : Polder → Polder) : (s.onPolder n g).lateReplies = s.lateReplies := rfl
@[simp] theorem State.onPolder_gathers (g : Polder → Polder) : (s.onPolder n g).gathers = s.gathers := rfl
@[simp] theorem State.onPolder_gatherNo (g : Polder → Polder) : (s.onPolder n g).gatherNo = s.gatherNo := rfl
@[simp] theorem State.onPolder_msixSent (g : Polder → Polder) : (s.onPolder n g).msixSent = s.msixSent := rfl
@[simp] theorem State.onPolder_aerErrors (g : Polder → Polder) : (s.onPolder n g).aerErrors = s.aerErrors := rfl
@[simp] theorem State.onPolder_tcores (g : Polder → Polder) : (s.onPolder n g).tcores = s.tcores := rfl
@[simp] theorem State.onPolder_vcores (g : Polder → Polder) : (s.onPolder n g).vcores = s.vcores := rfl
@[simp] theorem State.onPolder_scores (g : Polder → Polder) : (s.onPolder n g).scores = s.scores := rfl
@[simp] theorem State.onPolder_clusters (g : Polder → Polder) : (s.onPolder n g).clusters = s.clusters := rfl
@[simp] theorem State.onPolder_ucm (g : Polder → Polder) : (s.onPolder n g).ucm = s.ucm := rfl
@[simp] theorem State.onPolder_ucmValid (g : Polder → Polder) : (s.onPolder n g).ucmValid = s.ucmValid := rfl
@[simp] theorem State.onPolder_ucmBad (g : Polder → Polder) : (s.onPolder n g).ucmBad = s.ucmBad := rfl
@[simp] theorem State.onPolder_ucmDies (g : Polder → Polder) : (s.onPolder n g).ucmDies = s.ucmDies := rfl
@[simp] theorem State.onPolder_ucmScrub (g : Polder → Polder) : (s.onPolder n g).ucmScrub = s.ucmScrub := rfl
@[simp] theorem State.onPolder_merges (g : Polder → Polder) : (s.onPolder n g).merges = s.merges := rfl
@[simp] theorem State.onPolder_edge (g : Polder → Polder) : (s.onPolder n g).edge = s.edge := rfl
@[simp] theorem State.onPolder_edgeBad (g : Polder → Polder) : (s.onPolder n g).edgeBad = s.edgeBad := rfl
@[simp] theorem State.onPolder_channels (g : Polder → Polder) : (s.onPolder n g).channels = s.channels := rfl
@[simp] theorem State.onPolder_edgeStacks (g : Polder → Polder) : (s.onPolder n g).edgeStacks = s.edgeStacks := rfl
@[simp] theorem State.onPolder_basins (g : Polder → Polder) : (s.onPolder n g).basins = s.basins := rfl
@[simp] theorem State.onPolder_intlvPkg (g : Polder → Polder) : (s.onPolder n g).intlvPkg = s.intlvPkg := rfl
@[simp] theorem State.onPolder_kvBase (g : Polder → Polder) : (s.onPolder n g).kvBase = s.kvBase := rfl
@[simp] theorem State.onPolder_kvStride (g : Polder → Polder) : (s.onPolder n g).kvStride = s.kvStride := rfl
@[simp] theorem State.onPolder_kvSlots (g : Polder → Polder) : (s.onPolder n g).kvSlots = s.kvSlots := rfl
@[simp] theorem State.onPolder_halfDies (g : Polder → Polder) : (s.onPolder n g).halfDies = s.halfDies := rfl
@[simp] theorem State.onPolder_fencedCulverts (g : Polder → Polder) : (s.onPolder n g).fencedCulverts = s.fencedCulverts := rfl
@[simp] theorem State.onPolder_narrowed (g : Polder → Polder) : (s.onPolder n g).narrowed = s.narrowed := rfl
@[simp] theorem State.onPolder_funcs (g : Polder → Polder) : (s.onPolder n g).funcs = s.funcs := rfl
@[simp] theorem State.onPolder_pcie (g : Polder → Polder) : (s.onPolder n g).pcie = s.pcie := rfl
@[simp] theorem State.onPolder_bar4Win (g : Polder → Polder) : (s.onPolder n g).bar4Win = s.bar4Win := rfl
@[simp] theorem State.onPolder_bar4Off (g : Polder → Polder) : (s.onPolder n g).bar4Off = s.bar4Off := rfl
@[simp] theorem State.onPolder_vfMap (g : Polder → Polder) : (s.onPolder n g).vfMap = s.vfMap := rfl
@[simp] theorem State.onPolder_accErr (g : Polder → Polder) : (s.onPolder n g).accErr = s.accErr := rfl
@[simp] theorem State.onPolder_gates (g : Polder → Polder) : (s.onPolder n g).gates = s.gates := rfl
@[simp] theorem State.onPolder_fgNo (g : Polder → Polder) : (s.onPolder n g).fgNo = s.fgNo := rfl
@[simp] theorem State.onPolder_gateChannels (g : Polder → Polder) : (s.onPolder n g).gateChannels = s.gateChannels := rfl
@[simp] theorem State.onPolder_gateEndedJob (g : Polder → Polder) : (s.onPolder n g).gateEndedJob = s.gateEndedJob := rfl
@[simp] theorem State.onPolder_draining (g : Polder → Polder) : (s.onPolder n g).draining = s.draining := rfl
@[simp] theorem State.onPolder_board (g : Polder → Polder) : (s.onPolder n g).board = s.board := rfl
@[simp] theorem State.onPolder_boardLost (g : Polder → Polder) : (s.onPolder n g).boardLost = s.boardLost := rfl
@[simp] theorem State.onPolder_boardErrors (g : Polder → Polder) : (s.onPolder n g).boardErrors = s.boardErrors := rfl
@[simp] theorem State.onPolder_dma (g : Polder → Polder) : (s.onPolder n g).dma = s.dma := rfl
@[simp] theorem State.onPolder_engines (g : Polder → Polder) : (s.onPolder n g).engines = s.engines := rfl
@[simp] theorem State.onPolder_links (g : Polder → Polder) : (s.onPolder n g).links = s.links := rfl
@[simp] theorem State.onPolder_fabricId (g : Polder → Polder) : (s.onPolder n g).fabricId = s.fabricId := rfl
@[simp] theorem State.onPolder_windows (g : Polder → Polder) : (s.onPolder n g).windows = s.windows := rfl
@[simp] theorem State.onPolder_inbound (g : Polder → Polder) : (s.onPolder n g).inbound = s.inbound := rfl
@[simp] theorem State.onPolder_ledger (g : Polder → Polder) : (s.onPolder n g).ledger = s.ledger := rfl
@[simp] theorem State.onPolder_thermal (g : Polder → Polder) : (s.onPolder n g).thermal = s.thermal := rfl
@[simp] theorem State.onPolder_power (g : Polder → Polder) : (s.onPolder n g).power = s.power := rfl
@[simp] theorem State.onPolder_boot (g : Polder → Polder) : (s.onPolder n g).boot = s.boot := rfl
@[simp] theorem State.onPolder_repair (g : Polder → Polder) : (s.onPolder n g).repair = s.repair := rfl
@[simp] theorem State.onPolder_fuses (g : Polder → Polder) : (s.onPolder n g).fuses = s.fuses := rfl
@[simp] theorem State.onPolder_trust (g : Polder → Polder) : (s.onPolder n g).trust = s.trust := rfl
@[simp] theorem State.onPolder_time (g : Polder → Polder) : (s.onPolder n g).time = s.time := rfl
@[simp] theorem State.onPolder_smbus (g : Polder → Polder) : (s.onPolder n g).smbus = s.smbus := rfl
@[simp] theorem State.onPolder_cdcExpired (g : Polder → Polder) : (s.onPolder n g).cdcExpired = s.cdcExpired := rfl
@[simp] theorem State.onPolder_cdcDown (g : Polder → Polder) : (s.onPolder n g).cdcDown = s.cdcDown := rfl
@[simp] theorem State.onPolder_log (g : Polder → Polder) : (s.onPolder n g).log = s.log := rfl
@[simp] theorem State.onPolder_accLog (g : Polder → Polder) : (s.onPolder n g).accLog = s.accLog := rfl
@[simp] theorem State.onPolder_vault (g : Polder → Polder) : (s.onPolder n g).vault = s.vault := rfl
@[simp] theorem State.onPolder_vaultCounters (g : Polder → Polder) : (s.onPolder n g).vaultCounters = s.vaultCounters := rfl
@[simp] theorem State.onPolder_vaultSeq (g : Polder → Polder) : (s.onPolder n g).vaultSeq = s.vaultSeq := rfl
@[simp] theorem State.onPolder_recordDue (g : Polder → Polder) : (s.onPolder n g).recordDue = s.recordDue := rfl
@[simp] theorem State.onPolder_dieTest (g : Polder → Polder) : (s.onPolder n g).dieTest = s.dieTest := rfl

@[simp] theorem State.onPolder_func (g : Polder → Polder) : (s.onPolder n g).func k = s.func k := rfl
@[simp] theorem State.onPolder_halfDie (g : Polder → Polder) : (s.onPolder n g).halfDie k = s.halfDie k := rfl
@[simp] theorem State.onPolder_chan (g : Polder → Polder) : (s.onPolder n g).chan k = s.chan k := rfl
@[simp] theorem State.onPolder_engine (g : Polder → Polder) : (s.onPolder n g).engine k = s.engine k := rfl
@[simp] theorem State.onPolder_link (g : Polder → Polder) : (s.onPolder n g).link k = s.link k := rfl
@[simp] theorem State.onPolder_cluster (g : Polder → Polder) : (s.onPolder n g).cluster k = s.cluster k := rfl
@[simp] theorem State.onPolder_edgeCh (g : Polder → Polder) : (s.onPolder n g).edgeCh k = s.edgeCh k := rfl
@[simp] theorem State.onPolder_stack (g : Polder → Polder) : (s.onPolder n g).stack k = s.stack k := rfl
@[simp] theorem State.onPolder_basin (g : Polder → Polder) : (s.onPolder n g).basin k = s.basin k := rfl
@[simp] theorem State.onPolder_ucmDie (g : Polder → Polder) : (s.onPolder n g).ucmDie k = s.ucmDie k := rfl
@[simp] theorem State.onPolder_tcore (g : Polder → Polder) : (s.onPolder n g).tcore k = s.tcore k := rfl
@[simp] theorem State.onPolder_vcore (g : Polder → Polder) : (s.onPolder n g).vcore k = s.vcore k := rfl
@[simp] theorem State.onPolder_score (g : Polder → Polder) : (s.onPolder n g).score k = s.score k := rfl

/-- The unit itself changes, and no other of its kind. -/
@[simp] theorem State.onPolder_polder (g : Polder → Polder) : (s.onPolder n g).polder k = if n = k then g (s.polder n) else s.polder k := by
  simp [State.onPolder]

/-! ### HalfDie -/

@[simp] theorem State.setHalfDie_pending (x : HalfDie) : (s.setHalfDie n x).pending = s.pending := rfl
@[simp] theorem State.setHalfDie_fresh (x : HalfDie) : (s.setHalfDie n x).fresh = s.fresh := rfl
@[simp] theorem State.setHalfDie_slotPins (x : HalfDie) : (s.setHalfDie n x).slotPins = s.slotPins := rfl
@[simp] theorem State.setHalfDie_pins (x : HalfDie) : (s.setHalfDie n x).pins = s.pins := rfl
@[simp] theorem State.setHalfDie_hostMem (x : HalfDie) : (s.setHalfDie n x).hostMem = s.hostMem := rfl
@[simp] theorem State.setHalfDie_hostErr (x : HalfDie) : (s.setHalfDie n x).hostErr = s.hostErr := rfl
@[simp] theorem State.setHalfDie_reply (x : HalfDie) : (s.setHalfDie n x).reply = s.reply := rfl
@[simp] theorem State.setHalfDie_lateReplies (x : HalfDie) : (s.setHalfDie n x).lateReplies = s.lateReplies := rfl
@[simp] theorem State.setHalfDie_gathers (x : HalfDie) : (s.setHalfDie n x).gathers = s.gathers := rfl
@[simp] theorem State.setHalfDie_gatherNo (x : HalfDie) : (s.setHalfDie n x).gatherNo = s.gatherNo := rfl
@[simp] theorem State.setHalfDie_msixSent (x : HalfDie) : (s.setHalfDie n x).msixSent = s.msixSent := rfl
@[simp] theorem State.setHalfDie_aerErrors (x : HalfDie) : (s.setHalfDie n x).aerErrors = s.aerErrors := rfl
@[simp] theorem State.setHalfDie_tcores (x : HalfDie) : (s.setHalfDie n x).tcores = s.tcores := rfl
@[simp] theorem State.setHalfDie_vcores (x : HalfDie) : (s.setHalfDie n x).vcores = s.vcores := rfl
@[simp] theorem State.setHalfDie_scores (x : HalfDie) : (s.setHalfDie n x).scores = s.scores := rfl
@[simp] theorem State.setHalfDie_clusters (x : HalfDie) : (s.setHalfDie n x).clusters = s.clusters := rfl
@[simp] theorem State.setHalfDie_ucm (x : HalfDie) : (s.setHalfDie n x).ucm = s.ucm := rfl
@[simp] theorem State.setHalfDie_ucmValid (x : HalfDie) : (s.setHalfDie n x).ucmValid = s.ucmValid := rfl
@[simp] theorem State.setHalfDie_ucmBad (x : HalfDie) : (s.setHalfDie n x).ucmBad = s.ucmBad := rfl
@[simp] theorem State.setHalfDie_ucmDies (x : HalfDie) : (s.setHalfDie n x).ucmDies = s.ucmDies := rfl
@[simp] theorem State.setHalfDie_ucmScrub (x : HalfDie) : (s.setHalfDie n x).ucmScrub = s.ucmScrub := rfl
@[simp] theorem State.setHalfDie_merges (x : HalfDie) : (s.setHalfDie n x).merges = s.merges := rfl
@[simp] theorem State.setHalfDie_edge (x : HalfDie) : (s.setHalfDie n x).edge = s.edge := rfl
@[simp] theorem State.setHalfDie_edgeBad (x : HalfDie) : (s.setHalfDie n x).edgeBad = s.edgeBad := rfl
@[simp] theorem State.setHalfDie_channels (x : HalfDie) : (s.setHalfDie n x).channels = s.channels := rfl
@[simp] theorem State.setHalfDie_edgeStacks (x : HalfDie) : (s.setHalfDie n x).edgeStacks = s.edgeStacks := rfl
@[simp] theorem State.setHalfDie_basins (x : HalfDie) : (s.setHalfDie n x).basins = s.basins := rfl
@[simp] theorem State.setHalfDie_intlvPkg (x : HalfDie) : (s.setHalfDie n x).intlvPkg = s.intlvPkg := rfl
@[simp] theorem State.setHalfDie_kvBase (x : HalfDie) : (s.setHalfDie n x).kvBase = s.kvBase := rfl
@[simp] theorem State.setHalfDie_kvStride (x : HalfDie) : (s.setHalfDie n x).kvStride = s.kvStride := rfl
@[simp] theorem State.setHalfDie_kvSlots (x : HalfDie) : (s.setHalfDie n x).kvSlots = s.kvSlots := rfl
@[simp] theorem State.setHalfDie_polders (x : HalfDie) : (s.setHalfDie n x).polders = s.polders := rfl
@[simp] theorem State.setHalfDie_fencedCulverts (x : HalfDie) : (s.setHalfDie n x).fencedCulverts = s.fencedCulverts := rfl
@[simp] theorem State.setHalfDie_narrowed (x : HalfDie) : (s.setHalfDie n x).narrowed = s.narrowed := rfl
@[simp] theorem State.setHalfDie_funcs (x : HalfDie) : (s.setHalfDie n x).funcs = s.funcs := rfl
@[simp] theorem State.setHalfDie_pcie (x : HalfDie) : (s.setHalfDie n x).pcie = s.pcie := rfl
@[simp] theorem State.setHalfDie_bar4Win (x : HalfDie) : (s.setHalfDie n x).bar4Win = s.bar4Win := rfl
@[simp] theorem State.setHalfDie_bar4Off (x : HalfDie) : (s.setHalfDie n x).bar4Off = s.bar4Off := rfl
@[simp] theorem State.setHalfDie_vfMap (x : HalfDie) : (s.setHalfDie n x).vfMap = s.vfMap := rfl
@[simp] theorem State.setHalfDie_accErr (x : HalfDie) : (s.setHalfDie n x).accErr = s.accErr := rfl
@[simp] theorem State.setHalfDie_gates (x : HalfDie) : (s.setHalfDie n x).gates = s.gates := rfl
@[simp] theorem State.setHalfDie_fgNo (x : HalfDie) : (s.setHalfDie n x).fgNo = s.fgNo := rfl
@[simp] theorem State.setHalfDie_gateChannels (x : HalfDie) : (s.setHalfDie n x).gateChannels = s.gateChannels := rfl
@[simp] theorem State.setHalfDie_gateEndedJob (x : HalfDie) : (s.setHalfDie n x).gateEndedJob = s.gateEndedJob := rfl
@[simp] theorem State.setHalfDie_draining (x : HalfDie) : (s.setHalfDie n x).draining = s.draining := rfl
@[simp] theorem State.setHalfDie_board (x : HalfDie) : (s.setHalfDie n x).board = s.board := rfl
@[simp] theorem State.setHalfDie_boardLost (x : HalfDie) : (s.setHalfDie n x).boardLost = s.boardLost := rfl
@[simp] theorem State.setHalfDie_boardErrors (x : HalfDie) : (s.setHalfDie n x).boardErrors = s.boardErrors := rfl
@[simp] theorem State.setHalfDie_dma (x : HalfDie) : (s.setHalfDie n x).dma = s.dma := rfl
@[simp] theorem State.setHalfDie_engines (x : HalfDie) : (s.setHalfDie n x).engines = s.engines := rfl
@[simp] theorem State.setHalfDie_links (x : HalfDie) : (s.setHalfDie n x).links = s.links := rfl
@[simp] theorem State.setHalfDie_fabricId (x : HalfDie) : (s.setHalfDie n x).fabricId = s.fabricId := rfl
@[simp] theorem State.setHalfDie_windows (x : HalfDie) : (s.setHalfDie n x).windows = s.windows := rfl
@[simp] theorem State.setHalfDie_inbound (x : HalfDie) : (s.setHalfDie n x).inbound = s.inbound := rfl
@[simp] theorem State.setHalfDie_ledger (x : HalfDie) : (s.setHalfDie n x).ledger = s.ledger := rfl
@[simp] theorem State.setHalfDie_thermal (x : HalfDie) : (s.setHalfDie n x).thermal = s.thermal := rfl
@[simp] theorem State.setHalfDie_power (x : HalfDie) : (s.setHalfDie n x).power = s.power := rfl
@[simp] theorem State.setHalfDie_boot (x : HalfDie) : (s.setHalfDie n x).boot = s.boot := rfl
@[simp] theorem State.setHalfDie_repair (x : HalfDie) : (s.setHalfDie n x).repair = s.repair := rfl
@[simp] theorem State.setHalfDie_fuses (x : HalfDie) : (s.setHalfDie n x).fuses = s.fuses := rfl
@[simp] theorem State.setHalfDie_trust (x : HalfDie) : (s.setHalfDie n x).trust = s.trust := rfl
@[simp] theorem State.setHalfDie_time (x : HalfDie) : (s.setHalfDie n x).time = s.time := rfl
@[simp] theorem State.setHalfDie_smbus (x : HalfDie) : (s.setHalfDie n x).smbus = s.smbus := rfl
@[simp] theorem State.setHalfDie_cdcExpired (x : HalfDie) : (s.setHalfDie n x).cdcExpired = s.cdcExpired := rfl
@[simp] theorem State.setHalfDie_cdcDown (x : HalfDie) : (s.setHalfDie n x).cdcDown = s.cdcDown := rfl
@[simp] theorem State.setHalfDie_log (x : HalfDie) : (s.setHalfDie n x).log = s.log := rfl
@[simp] theorem State.setHalfDie_accLog (x : HalfDie) : (s.setHalfDie n x).accLog = s.accLog := rfl
@[simp] theorem State.setHalfDie_vault (x : HalfDie) : (s.setHalfDie n x).vault = s.vault := rfl
@[simp] theorem State.setHalfDie_vaultCounters (x : HalfDie) : (s.setHalfDie n x).vaultCounters = s.vaultCounters := rfl
@[simp] theorem State.setHalfDie_vaultSeq (x : HalfDie) : (s.setHalfDie n x).vaultSeq = s.vaultSeq := rfl
@[simp] theorem State.setHalfDie_recordDue (x : HalfDie) : (s.setHalfDie n x).recordDue = s.recordDue := rfl
@[simp] theorem State.setHalfDie_dieTest (x : HalfDie) : (s.setHalfDie n x).dieTest = s.dieTest := rfl

@[simp] theorem State.setHalfDie_func (x : HalfDie) : (s.setHalfDie n x).func k = s.func k := rfl
@[simp] theorem State.setHalfDie_polder (x : HalfDie) : (s.setHalfDie n x).polder k = s.polder k := rfl
@[simp] theorem State.setHalfDie_chan (x : HalfDie) : (s.setHalfDie n x).chan k = s.chan k := rfl
@[simp] theorem State.setHalfDie_engine (x : HalfDie) : (s.setHalfDie n x).engine k = s.engine k := rfl
@[simp] theorem State.setHalfDie_link (x : HalfDie) : (s.setHalfDie n x).link k = s.link k := rfl
@[simp] theorem State.setHalfDie_cluster (x : HalfDie) : (s.setHalfDie n x).cluster k = s.cluster k := rfl
@[simp] theorem State.setHalfDie_edgeCh (x : HalfDie) : (s.setHalfDie n x).edgeCh k = s.edgeCh k := rfl
@[simp] theorem State.setHalfDie_stack (x : HalfDie) : (s.setHalfDie n x).stack k = s.stack k := rfl
@[simp] theorem State.setHalfDie_basin (x : HalfDie) : (s.setHalfDie n x).basin k = s.basin k := rfl
@[simp] theorem State.setHalfDie_ucmDie (x : HalfDie) : (s.setHalfDie n x).ucmDie k = s.ucmDie k := rfl

/-- The unit itself changes, and no other of its kind. -/
@[simp] theorem State.setHalfDie_halfDie (x : HalfDie) : (s.setHalfDie n x).halfDie k = if n = k then x else s.halfDie k := by
  simp [State.halfDie, State.setHalfDie]

@[simp] theorem State.onHalfDie_pending (g : HalfDie → HalfDie) : (s.onHalfDie n g).pending = s.pending := rfl
@[simp] theorem State.onHalfDie_fresh (g : HalfDie → HalfDie) : (s.onHalfDie n g).fresh = s.fresh := rfl
@[simp] theorem State.onHalfDie_slotPins (g : HalfDie → HalfDie) : (s.onHalfDie n g).slotPins = s.slotPins := rfl
@[simp] theorem State.onHalfDie_pins (g : HalfDie → HalfDie) : (s.onHalfDie n g).pins = s.pins := rfl
@[simp] theorem State.onHalfDie_hostMem (g : HalfDie → HalfDie) : (s.onHalfDie n g).hostMem = s.hostMem := rfl
@[simp] theorem State.onHalfDie_hostErr (g : HalfDie → HalfDie) : (s.onHalfDie n g).hostErr = s.hostErr := rfl
@[simp] theorem State.onHalfDie_reply (g : HalfDie → HalfDie) : (s.onHalfDie n g).reply = s.reply := rfl
@[simp] theorem State.onHalfDie_lateReplies (g : HalfDie → HalfDie) : (s.onHalfDie n g).lateReplies = s.lateReplies := rfl
@[simp] theorem State.onHalfDie_gathers (g : HalfDie → HalfDie) : (s.onHalfDie n g).gathers = s.gathers := rfl
@[simp] theorem State.onHalfDie_gatherNo (g : HalfDie → HalfDie) : (s.onHalfDie n g).gatherNo = s.gatherNo := rfl
@[simp] theorem State.onHalfDie_msixSent (g : HalfDie → HalfDie) : (s.onHalfDie n g).msixSent = s.msixSent := rfl
@[simp] theorem State.onHalfDie_aerErrors (g : HalfDie → HalfDie) : (s.onHalfDie n g).aerErrors = s.aerErrors := rfl
@[simp] theorem State.onHalfDie_tcores (g : HalfDie → HalfDie) : (s.onHalfDie n g).tcores = s.tcores := rfl
@[simp] theorem State.onHalfDie_vcores (g : HalfDie → HalfDie) : (s.onHalfDie n g).vcores = s.vcores := rfl
@[simp] theorem State.onHalfDie_scores (g : HalfDie → HalfDie) : (s.onHalfDie n g).scores = s.scores := rfl
@[simp] theorem State.onHalfDie_clusters (g : HalfDie → HalfDie) : (s.onHalfDie n g).clusters = s.clusters := rfl
@[simp] theorem State.onHalfDie_ucm (g : HalfDie → HalfDie) : (s.onHalfDie n g).ucm = s.ucm := rfl
@[simp] theorem State.onHalfDie_ucmValid (g : HalfDie → HalfDie) : (s.onHalfDie n g).ucmValid = s.ucmValid := rfl
@[simp] theorem State.onHalfDie_ucmBad (g : HalfDie → HalfDie) : (s.onHalfDie n g).ucmBad = s.ucmBad := rfl
@[simp] theorem State.onHalfDie_ucmDies (g : HalfDie → HalfDie) : (s.onHalfDie n g).ucmDies = s.ucmDies := rfl
@[simp] theorem State.onHalfDie_ucmScrub (g : HalfDie → HalfDie) : (s.onHalfDie n g).ucmScrub = s.ucmScrub := rfl
@[simp] theorem State.onHalfDie_merges (g : HalfDie → HalfDie) : (s.onHalfDie n g).merges = s.merges := rfl
@[simp] theorem State.onHalfDie_edge (g : HalfDie → HalfDie) : (s.onHalfDie n g).edge = s.edge := rfl
@[simp] theorem State.onHalfDie_edgeBad (g : HalfDie → HalfDie) : (s.onHalfDie n g).edgeBad = s.edgeBad := rfl
@[simp] theorem State.onHalfDie_channels (g : HalfDie → HalfDie) : (s.onHalfDie n g).channels = s.channels := rfl
@[simp] theorem State.onHalfDie_edgeStacks (g : HalfDie → HalfDie) : (s.onHalfDie n g).edgeStacks = s.edgeStacks := rfl
@[simp] theorem State.onHalfDie_basins (g : HalfDie → HalfDie) : (s.onHalfDie n g).basins = s.basins := rfl
@[simp] theorem State.onHalfDie_intlvPkg (g : HalfDie → HalfDie) : (s.onHalfDie n g).intlvPkg = s.intlvPkg := rfl
@[simp] theorem State.onHalfDie_kvBase (g : HalfDie → HalfDie) : (s.onHalfDie n g).kvBase = s.kvBase := rfl
@[simp] theorem State.onHalfDie_kvStride (g : HalfDie → HalfDie) : (s.onHalfDie n g).kvStride = s.kvStride := rfl
@[simp] theorem State.onHalfDie_kvSlots (g : HalfDie → HalfDie) : (s.onHalfDie n g).kvSlots = s.kvSlots := rfl
@[simp] theorem State.onHalfDie_polders (g : HalfDie → HalfDie) : (s.onHalfDie n g).polders = s.polders := rfl
@[simp] theorem State.onHalfDie_fencedCulverts (g : HalfDie → HalfDie) : (s.onHalfDie n g).fencedCulverts = s.fencedCulverts := rfl
@[simp] theorem State.onHalfDie_narrowed (g : HalfDie → HalfDie) : (s.onHalfDie n g).narrowed = s.narrowed := rfl
@[simp] theorem State.onHalfDie_funcs (g : HalfDie → HalfDie) : (s.onHalfDie n g).funcs = s.funcs := rfl
@[simp] theorem State.onHalfDie_pcie (g : HalfDie → HalfDie) : (s.onHalfDie n g).pcie = s.pcie := rfl
@[simp] theorem State.onHalfDie_bar4Win (g : HalfDie → HalfDie) : (s.onHalfDie n g).bar4Win = s.bar4Win := rfl
@[simp] theorem State.onHalfDie_bar4Off (g : HalfDie → HalfDie) : (s.onHalfDie n g).bar4Off = s.bar4Off := rfl
@[simp] theorem State.onHalfDie_vfMap (g : HalfDie → HalfDie) : (s.onHalfDie n g).vfMap = s.vfMap := rfl
@[simp] theorem State.onHalfDie_accErr (g : HalfDie → HalfDie) : (s.onHalfDie n g).accErr = s.accErr := rfl
@[simp] theorem State.onHalfDie_gates (g : HalfDie → HalfDie) : (s.onHalfDie n g).gates = s.gates := rfl
@[simp] theorem State.onHalfDie_fgNo (g : HalfDie → HalfDie) : (s.onHalfDie n g).fgNo = s.fgNo := rfl
@[simp] theorem State.onHalfDie_gateChannels (g : HalfDie → HalfDie) : (s.onHalfDie n g).gateChannels = s.gateChannels := rfl
@[simp] theorem State.onHalfDie_gateEndedJob (g : HalfDie → HalfDie) : (s.onHalfDie n g).gateEndedJob = s.gateEndedJob := rfl
@[simp] theorem State.onHalfDie_draining (g : HalfDie → HalfDie) : (s.onHalfDie n g).draining = s.draining := rfl
@[simp] theorem State.onHalfDie_board (g : HalfDie → HalfDie) : (s.onHalfDie n g).board = s.board := rfl
@[simp] theorem State.onHalfDie_boardLost (g : HalfDie → HalfDie) : (s.onHalfDie n g).boardLost = s.boardLost := rfl
@[simp] theorem State.onHalfDie_boardErrors (g : HalfDie → HalfDie) : (s.onHalfDie n g).boardErrors = s.boardErrors := rfl
@[simp] theorem State.onHalfDie_dma (g : HalfDie → HalfDie) : (s.onHalfDie n g).dma = s.dma := rfl
@[simp] theorem State.onHalfDie_engines (g : HalfDie → HalfDie) : (s.onHalfDie n g).engines = s.engines := rfl
@[simp] theorem State.onHalfDie_links (g : HalfDie → HalfDie) : (s.onHalfDie n g).links = s.links := rfl
@[simp] theorem State.onHalfDie_fabricId (g : HalfDie → HalfDie) : (s.onHalfDie n g).fabricId = s.fabricId := rfl
@[simp] theorem State.onHalfDie_windows (g : HalfDie → HalfDie) : (s.onHalfDie n g).windows = s.windows := rfl
@[simp] theorem State.onHalfDie_inbound (g : HalfDie → HalfDie) : (s.onHalfDie n g).inbound = s.inbound := rfl
@[simp] theorem State.onHalfDie_ledger (g : HalfDie → HalfDie) : (s.onHalfDie n g).ledger = s.ledger := rfl
@[simp] theorem State.onHalfDie_thermal (g : HalfDie → HalfDie) : (s.onHalfDie n g).thermal = s.thermal := rfl
@[simp] theorem State.onHalfDie_power (g : HalfDie → HalfDie) : (s.onHalfDie n g).power = s.power := rfl
@[simp] theorem State.onHalfDie_boot (g : HalfDie → HalfDie) : (s.onHalfDie n g).boot = s.boot := rfl
@[simp] theorem State.onHalfDie_repair (g : HalfDie → HalfDie) : (s.onHalfDie n g).repair = s.repair := rfl
@[simp] theorem State.onHalfDie_fuses (g : HalfDie → HalfDie) : (s.onHalfDie n g).fuses = s.fuses := rfl
@[simp] theorem State.onHalfDie_trust (g : HalfDie → HalfDie) : (s.onHalfDie n g).trust = s.trust := rfl
@[simp] theorem State.onHalfDie_time (g : HalfDie → HalfDie) : (s.onHalfDie n g).time = s.time := rfl
@[simp] theorem State.onHalfDie_smbus (g : HalfDie → HalfDie) : (s.onHalfDie n g).smbus = s.smbus := rfl
@[simp] theorem State.onHalfDie_cdcExpired (g : HalfDie → HalfDie) : (s.onHalfDie n g).cdcExpired = s.cdcExpired := rfl
@[simp] theorem State.onHalfDie_cdcDown (g : HalfDie → HalfDie) : (s.onHalfDie n g).cdcDown = s.cdcDown := rfl
@[simp] theorem State.onHalfDie_log (g : HalfDie → HalfDie) : (s.onHalfDie n g).log = s.log := rfl
@[simp] theorem State.onHalfDie_accLog (g : HalfDie → HalfDie) : (s.onHalfDie n g).accLog = s.accLog := rfl
@[simp] theorem State.onHalfDie_vault (g : HalfDie → HalfDie) : (s.onHalfDie n g).vault = s.vault := rfl
@[simp] theorem State.onHalfDie_vaultCounters (g : HalfDie → HalfDie) : (s.onHalfDie n g).vaultCounters = s.vaultCounters := rfl
@[simp] theorem State.onHalfDie_vaultSeq (g : HalfDie → HalfDie) : (s.onHalfDie n g).vaultSeq = s.vaultSeq := rfl
@[simp] theorem State.onHalfDie_recordDue (g : HalfDie → HalfDie) : (s.onHalfDie n g).recordDue = s.recordDue := rfl
@[simp] theorem State.onHalfDie_dieTest (g : HalfDie → HalfDie) : (s.onHalfDie n g).dieTest = s.dieTest := rfl

@[simp] theorem State.onHalfDie_func (g : HalfDie → HalfDie) : (s.onHalfDie n g).func k = s.func k := rfl
@[simp] theorem State.onHalfDie_polder (g : HalfDie → HalfDie) : (s.onHalfDie n g).polder k = s.polder k := rfl
@[simp] theorem State.onHalfDie_chan (g : HalfDie → HalfDie) : (s.onHalfDie n g).chan k = s.chan k := rfl
@[simp] theorem State.onHalfDie_engine (g : HalfDie → HalfDie) : (s.onHalfDie n g).engine k = s.engine k := rfl
@[simp] theorem State.onHalfDie_link (g : HalfDie → HalfDie) : (s.onHalfDie n g).link k = s.link k := rfl
@[simp] theorem State.onHalfDie_cluster (g : HalfDie → HalfDie) : (s.onHalfDie n g).cluster k = s.cluster k := rfl
@[simp] theorem State.onHalfDie_edgeCh (g : HalfDie → HalfDie) : (s.onHalfDie n g).edgeCh k = s.edgeCh k := rfl
@[simp] theorem State.onHalfDie_stack (g : HalfDie → HalfDie) : (s.onHalfDie n g).stack k = s.stack k := rfl
@[simp] theorem State.onHalfDie_basin (g : HalfDie → HalfDie) : (s.onHalfDie n g).basin k = s.basin k := rfl
@[simp] theorem State.onHalfDie_ucmDie (g : HalfDie → HalfDie) : (s.onHalfDie n g).ucmDie k = s.ucmDie k := rfl

/-- The unit itself changes, and no other of its kind. -/
@[simp] theorem State.onHalfDie_halfDie (g : HalfDie → HalfDie) : (s.onHalfDie n g).halfDie k = if n = k then g (s.halfDie n) else s.halfDie k := by
  simp [State.onHalfDie]

/-! ### DmaCh -/

@[simp] theorem State.setChan_pending (x : DmaCh) : (s.setChan n x).pending = s.pending := rfl
@[simp] theorem State.setChan_fresh (x : DmaCh) : (s.setChan n x).fresh = s.fresh := rfl
@[simp] theorem State.setChan_slotPins (x : DmaCh) : (s.setChan n x).slotPins = s.slotPins := rfl
@[simp] theorem State.setChan_pins (x : DmaCh) : (s.setChan n x).pins = s.pins := rfl
@[simp] theorem State.setChan_hostMem (x : DmaCh) : (s.setChan n x).hostMem = s.hostMem := rfl
@[simp] theorem State.setChan_hostErr (x : DmaCh) : (s.setChan n x).hostErr = s.hostErr := rfl
@[simp] theorem State.setChan_reply (x : DmaCh) : (s.setChan n x).reply = s.reply := rfl
@[simp] theorem State.setChan_lateReplies (x : DmaCh) : (s.setChan n x).lateReplies = s.lateReplies := rfl
@[simp] theorem State.setChan_gathers (x : DmaCh) : (s.setChan n x).gathers = s.gathers := rfl
@[simp] theorem State.setChan_gatherNo (x : DmaCh) : (s.setChan n x).gatherNo = s.gatherNo := rfl
@[simp] theorem State.setChan_msixSent (x : DmaCh) : (s.setChan n x).msixSent = s.msixSent := rfl
@[simp] theorem State.setChan_aerErrors (x : DmaCh) : (s.setChan n x).aerErrors = s.aerErrors := rfl
@[simp] theorem State.setChan_tcores (x : DmaCh) : (s.setChan n x).tcores = s.tcores := rfl
@[simp] theorem State.setChan_vcores (x : DmaCh) : (s.setChan n x).vcores = s.vcores := rfl
@[simp] theorem State.setChan_scores (x : DmaCh) : (s.setChan n x).scores = s.scores := rfl
@[simp] theorem State.setChan_clusters (x : DmaCh) : (s.setChan n x).clusters = s.clusters := rfl
@[simp] theorem State.setChan_ucm (x : DmaCh) : (s.setChan n x).ucm = s.ucm := rfl
@[simp] theorem State.setChan_ucmValid (x : DmaCh) : (s.setChan n x).ucmValid = s.ucmValid := rfl
@[simp] theorem State.setChan_ucmBad (x : DmaCh) : (s.setChan n x).ucmBad = s.ucmBad := rfl
@[simp] theorem State.setChan_ucmDies (x : DmaCh) : (s.setChan n x).ucmDies = s.ucmDies := rfl
@[simp] theorem State.setChan_ucmScrub (x : DmaCh) : (s.setChan n x).ucmScrub = s.ucmScrub := rfl
@[simp] theorem State.setChan_merges (x : DmaCh) : (s.setChan n x).merges = s.merges := rfl
@[simp] theorem State.setChan_edge (x : DmaCh) : (s.setChan n x).edge = s.edge := rfl
@[simp] theorem State.setChan_edgeBad (x : DmaCh) : (s.setChan n x).edgeBad = s.edgeBad := rfl
@[simp] theorem State.setChan_channels (x : DmaCh) : (s.setChan n x).channels = s.channels := rfl
@[simp] theorem State.setChan_edgeStacks (x : DmaCh) : (s.setChan n x).edgeStacks = s.edgeStacks := rfl
@[simp] theorem State.setChan_basins (x : DmaCh) : (s.setChan n x).basins = s.basins := rfl
@[simp] theorem State.setChan_intlvPkg (x : DmaCh) : (s.setChan n x).intlvPkg = s.intlvPkg := rfl
@[simp] theorem State.setChan_kvBase (x : DmaCh) : (s.setChan n x).kvBase = s.kvBase := rfl
@[simp] theorem State.setChan_kvStride (x : DmaCh) : (s.setChan n x).kvStride = s.kvStride := rfl
@[simp] theorem State.setChan_kvSlots (x : DmaCh) : (s.setChan n x).kvSlots = s.kvSlots := rfl
@[simp] theorem State.setChan_polders (x : DmaCh) : (s.setChan n x).polders = s.polders := rfl
@[simp] theorem State.setChan_halfDies (x : DmaCh) : (s.setChan n x).halfDies = s.halfDies := rfl
@[simp] theorem State.setChan_fencedCulverts (x : DmaCh) : (s.setChan n x).fencedCulverts = s.fencedCulverts := rfl
@[simp] theorem State.setChan_narrowed (x : DmaCh) : (s.setChan n x).narrowed = s.narrowed := rfl
@[simp] theorem State.setChan_funcs (x : DmaCh) : (s.setChan n x).funcs = s.funcs := rfl
@[simp] theorem State.setChan_pcie (x : DmaCh) : (s.setChan n x).pcie = s.pcie := rfl
@[simp] theorem State.setChan_bar4Win (x : DmaCh) : (s.setChan n x).bar4Win = s.bar4Win := rfl
@[simp] theorem State.setChan_bar4Off (x : DmaCh) : (s.setChan n x).bar4Off = s.bar4Off := rfl
@[simp] theorem State.setChan_vfMap (x : DmaCh) : (s.setChan n x).vfMap = s.vfMap := rfl
@[simp] theorem State.setChan_accErr (x : DmaCh) : (s.setChan n x).accErr = s.accErr := rfl
@[simp] theorem State.setChan_gates (x : DmaCh) : (s.setChan n x).gates = s.gates := rfl
@[simp] theorem State.setChan_fgNo (x : DmaCh) : (s.setChan n x).fgNo = s.fgNo := rfl
@[simp] theorem State.setChan_gateChannels (x : DmaCh) : (s.setChan n x).gateChannels = s.gateChannels := rfl
@[simp] theorem State.setChan_gateEndedJob (x : DmaCh) : (s.setChan n x).gateEndedJob = s.gateEndedJob := rfl
@[simp] theorem State.setChan_draining (x : DmaCh) : (s.setChan n x).draining = s.draining := rfl
@[simp] theorem State.setChan_board (x : DmaCh) : (s.setChan n x).board = s.board := rfl
@[simp] theorem State.setChan_boardLost (x : DmaCh) : (s.setChan n x).boardLost = s.boardLost := rfl
@[simp] theorem State.setChan_boardErrors (x : DmaCh) : (s.setChan n x).boardErrors = s.boardErrors := rfl
@[simp] theorem State.setChan_engines (x : DmaCh) : (s.setChan n x).engines = s.engines := rfl
@[simp] theorem State.setChan_links (x : DmaCh) : (s.setChan n x).links = s.links := rfl
@[simp] theorem State.setChan_fabricId (x : DmaCh) : (s.setChan n x).fabricId = s.fabricId := rfl
@[simp] theorem State.setChan_windows (x : DmaCh) : (s.setChan n x).windows = s.windows := rfl
@[simp] theorem State.setChan_inbound (x : DmaCh) : (s.setChan n x).inbound = s.inbound := rfl
@[simp] theorem State.setChan_ledger (x : DmaCh) : (s.setChan n x).ledger = s.ledger := rfl
@[simp] theorem State.setChan_thermal (x : DmaCh) : (s.setChan n x).thermal = s.thermal := rfl
@[simp] theorem State.setChan_power (x : DmaCh) : (s.setChan n x).power = s.power := rfl
@[simp] theorem State.setChan_boot (x : DmaCh) : (s.setChan n x).boot = s.boot := rfl
@[simp] theorem State.setChan_repair (x : DmaCh) : (s.setChan n x).repair = s.repair := rfl
@[simp] theorem State.setChan_fuses (x : DmaCh) : (s.setChan n x).fuses = s.fuses := rfl
@[simp] theorem State.setChan_trust (x : DmaCh) : (s.setChan n x).trust = s.trust := rfl
@[simp] theorem State.setChan_time (x : DmaCh) : (s.setChan n x).time = s.time := rfl
@[simp] theorem State.setChan_smbus (x : DmaCh) : (s.setChan n x).smbus = s.smbus := rfl
@[simp] theorem State.setChan_cdcExpired (x : DmaCh) : (s.setChan n x).cdcExpired = s.cdcExpired := rfl
@[simp] theorem State.setChan_cdcDown (x : DmaCh) : (s.setChan n x).cdcDown = s.cdcDown := rfl
@[simp] theorem State.setChan_log (x : DmaCh) : (s.setChan n x).log = s.log := rfl
@[simp] theorem State.setChan_accLog (x : DmaCh) : (s.setChan n x).accLog = s.accLog := rfl
@[simp] theorem State.setChan_vault (x : DmaCh) : (s.setChan n x).vault = s.vault := rfl
@[simp] theorem State.setChan_vaultCounters (x : DmaCh) : (s.setChan n x).vaultCounters = s.vaultCounters := rfl
@[simp] theorem State.setChan_vaultSeq (x : DmaCh) : (s.setChan n x).vaultSeq = s.vaultSeq := rfl
@[simp] theorem State.setChan_recordDue (x : DmaCh) : (s.setChan n x).recordDue = s.recordDue := rfl
@[simp] theorem State.setChan_dieTest (x : DmaCh) : (s.setChan n x).dieTest = s.dieTest := rfl

@[simp] theorem State.setChan_func (x : DmaCh) : (s.setChan n x).func k = s.func k := rfl
@[simp] theorem State.setChan_polder (x : DmaCh) : (s.setChan n x).polder k = s.polder k := rfl
@[simp] theorem State.setChan_halfDie (x : DmaCh) : (s.setChan n x).halfDie k = s.halfDie k := rfl
@[simp] theorem State.setChan_engine (x : DmaCh) : (s.setChan n x).engine k = s.engine k := rfl
@[simp] theorem State.setChan_link (x : DmaCh) : (s.setChan n x).link k = s.link k := rfl
@[simp] theorem State.setChan_cluster (x : DmaCh) : (s.setChan n x).cluster k = s.cluster k := rfl
@[simp] theorem State.setChan_edgeCh (x : DmaCh) : (s.setChan n x).edgeCh k = s.edgeCh k := rfl
@[simp] theorem State.setChan_stack (x : DmaCh) : (s.setChan n x).stack k = s.stack k := rfl
@[simp] theorem State.setChan_basin (x : DmaCh) : (s.setChan n x).basin k = s.basin k := rfl
@[simp] theorem State.setChan_ucmDie (x : DmaCh) : (s.setChan n x).ucmDie k = s.ucmDie k := rfl
@[simp] theorem State.setChan_tcore (x : DmaCh) : (s.setChan n x).tcore k = s.tcore k := rfl
@[simp] theorem State.setChan_vcore (x : DmaCh) : (s.setChan n x).vcore k = s.vcore k := rfl
@[simp] theorem State.setChan_score (x : DmaCh) : (s.setChan n x).score k = s.score k := rfl

/-- The unit itself changes, and no other of its kind. -/
@[simp] theorem State.setChan_chan (x : DmaCh) : (s.setChan n x).chan k = if n = k then x else s.chan k := by
  simp [State.chan, State.setChan]

@[simp] theorem State.onChan_pending (g : DmaCh → DmaCh) : (s.onChan n g).pending = s.pending := rfl
@[simp] theorem State.onChan_fresh (g : DmaCh → DmaCh) : (s.onChan n g).fresh = s.fresh := rfl
@[simp] theorem State.onChan_slotPins (g : DmaCh → DmaCh) : (s.onChan n g).slotPins = s.slotPins := rfl
@[simp] theorem State.onChan_pins (g : DmaCh → DmaCh) : (s.onChan n g).pins = s.pins := rfl
@[simp] theorem State.onChan_hostMem (g : DmaCh → DmaCh) : (s.onChan n g).hostMem = s.hostMem := rfl
@[simp] theorem State.onChan_hostErr (g : DmaCh → DmaCh) : (s.onChan n g).hostErr = s.hostErr := rfl
@[simp] theorem State.onChan_reply (g : DmaCh → DmaCh) : (s.onChan n g).reply = s.reply := rfl
@[simp] theorem State.onChan_lateReplies (g : DmaCh → DmaCh) : (s.onChan n g).lateReplies = s.lateReplies := rfl
@[simp] theorem State.onChan_gathers (g : DmaCh → DmaCh) : (s.onChan n g).gathers = s.gathers := rfl
@[simp] theorem State.onChan_gatherNo (g : DmaCh → DmaCh) : (s.onChan n g).gatherNo = s.gatherNo := rfl
@[simp] theorem State.onChan_msixSent (g : DmaCh → DmaCh) : (s.onChan n g).msixSent = s.msixSent := rfl
@[simp] theorem State.onChan_aerErrors (g : DmaCh → DmaCh) : (s.onChan n g).aerErrors = s.aerErrors := rfl
@[simp] theorem State.onChan_tcores (g : DmaCh → DmaCh) : (s.onChan n g).tcores = s.tcores := rfl
@[simp] theorem State.onChan_vcores (g : DmaCh → DmaCh) : (s.onChan n g).vcores = s.vcores := rfl
@[simp] theorem State.onChan_scores (g : DmaCh → DmaCh) : (s.onChan n g).scores = s.scores := rfl
@[simp] theorem State.onChan_clusters (g : DmaCh → DmaCh) : (s.onChan n g).clusters = s.clusters := rfl
@[simp] theorem State.onChan_ucm (g : DmaCh → DmaCh) : (s.onChan n g).ucm = s.ucm := rfl
@[simp] theorem State.onChan_ucmValid (g : DmaCh → DmaCh) : (s.onChan n g).ucmValid = s.ucmValid := rfl
@[simp] theorem State.onChan_ucmBad (g : DmaCh → DmaCh) : (s.onChan n g).ucmBad = s.ucmBad := rfl
@[simp] theorem State.onChan_ucmDies (g : DmaCh → DmaCh) : (s.onChan n g).ucmDies = s.ucmDies := rfl
@[simp] theorem State.onChan_ucmScrub (g : DmaCh → DmaCh) : (s.onChan n g).ucmScrub = s.ucmScrub := rfl
@[simp] theorem State.onChan_merges (g : DmaCh → DmaCh) : (s.onChan n g).merges = s.merges := rfl
@[simp] theorem State.onChan_edge (g : DmaCh → DmaCh) : (s.onChan n g).edge = s.edge := rfl
@[simp] theorem State.onChan_edgeBad (g : DmaCh → DmaCh) : (s.onChan n g).edgeBad = s.edgeBad := rfl
@[simp] theorem State.onChan_channels (g : DmaCh → DmaCh) : (s.onChan n g).channels = s.channels := rfl
@[simp] theorem State.onChan_edgeStacks (g : DmaCh → DmaCh) : (s.onChan n g).edgeStacks = s.edgeStacks := rfl
@[simp] theorem State.onChan_basins (g : DmaCh → DmaCh) : (s.onChan n g).basins = s.basins := rfl
@[simp] theorem State.onChan_intlvPkg (g : DmaCh → DmaCh) : (s.onChan n g).intlvPkg = s.intlvPkg := rfl
@[simp] theorem State.onChan_kvBase (g : DmaCh → DmaCh) : (s.onChan n g).kvBase = s.kvBase := rfl
@[simp] theorem State.onChan_kvStride (g : DmaCh → DmaCh) : (s.onChan n g).kvStride = s.kvStride := rfl
@[simp] theorem State.onChan_kvSlots (g : DmaCh → DmaCh) : (s.onChan n g).kvSlots = s.kvSlots := rfl
@[simp] theorem State.onChan_polders (g : DmaCh → DmaCh) : (s.onChan n g).polders = s.polders := rfl
@[simp] theorem State.onChan_halfDies (g : DmaCh → DmaCh) : (s.onChan n g).halfDies = s.halfDies := rfl
@[simp] theorem State.onChan_fencedCulverts (g : DmaCh → DmaCh) : (s.onChan n g).fencedCulverts = s.fencedCulverts := rfl
@[simp] theorem State.onChan_narrowed (g : DmaCh → DmaCh) : (s.onChan n g).narrowed = s.narrowed := rfl
@[simp] theorem State.onChan_funcs (g : DmaCh → DmaCh) : (s.onChan n g).funcs = s.funcs := rfl
@[simp] theorem State.onChan_pcie (g : DmaCh → DmaCh) : (s.onChan n g).pcie = s.pcie := rfl
@[simp] theorem State.onChan_bar4Win (g : DmaCh → DmaCh) : (s.onChan n g).bar4Win = s.bar4Win := rfl
@[simp] theorem State.onChan_bar4Off (g : DmaCh → DmaCh) : (s.onChan n g).bar4Off = s.bar4Off := rfl
@[simp] theorem State.onChan_vfMap (g : DmaCh → DmaCh) : (s.onChan n g).vfMap = s.vfMap := rfl
@[simp] theorem State.onChan_accErr (g : DmaCh → DmaCh) : (s.onChan n g).accErr = s.accErr := rfl
@[simp] theorem State.onChan_gates (g : DmaCh → DmaCh) : (s.onChan n g).gates = s.gates := rfl
@[simp] theorem State.onChan_fgNo (g : DmaCh → DmaCh) : (s.onChan n g).fgNo = s.fgNo := rfl
@[simp] theorem State.onChan_gateChannels (g : DmaCh → DmaCh) : (s.onChan n g).gateChannels = s.gateChannels := rfl
@[simp] theorem State.onChan_gateEndedJob (g : DmaCh → DmaCh) : (s.onChan n g).gateEndedJob = s.gateEndedJob := rfl
@[simp] theorem State.onChan_draining (g : DmaCh → DmaCh) : (s.onChan n g).draining = s.draining := rfl
@[simp] theorem State.onChan_board (g : DmaCh → DmaCh) : (s.onChan n g).board = s.board := rfl
@[simp] theorem State.onChan_boardLost (g : DmaCh → DmaCh) : (s.onChan n g).boardLost = s.boardLost := rfl
@[simp] theorem State.onChan_boardErrors (g : DmaCh → DmaCh) : (s.onChan n g).boardErrors = s.boardErrors := rfl
@[simp] theorem State.onChan_engines (g : DmaCh → DmaCh) : (s.onChan n g).engines = s.engines := rfl
@[simp] theorem State.onChan_links (g : DmaCh → DmaCh) : (s.onChan n g).links = s.links := rfl
@[simp] theorem State.onChan_fabricId (g : DmaCh → DmaCh) : (s.onChan n g).fabricId = s.fabricId := rfl
@[simp] theorem State.onChan_windows (g : DmaCh → DmaCh) : (s.onChan n g).windows = s.windows := rfl
@[simp] theorem State.onChan_inbound (g : DmaCh → DmaCh) : (s.onChan n g).inbound = s.inbound := rfl
@[simp] theorem State.onChan_ledger (g : DmaCh → DmaCh) : (s.onChan n g).ledger = s.ledger := rfl
@[simp] theorem State.onChan_thermal (g : DmaCh → DmaCh) : (s.onChan n g).thermal = s.thermal := rfl
@[simp] theorem State.onChan_power (g : DmaCh → DmaCh) : (s.onChan n g).power = s.power := rfl
@[simp] theorem State.onChan_boot (g : DmaCh → DmaCh) : (s.onChan n g).boot = s.boot := rfl
@[simp] theorem State.onChan_repair (g : DmaCh → DmaCh) : (s.onChan n g).repair = s.repair := rfl
@[simp] theorem State.onChan_fuses (g : DmaCh → DmaCh) : (s.onChan n g).fuses = s.fuses := rfl
@[simp] theorem State.onChan_trust (g : DmaCh → DmaCh) : (s.onChan n g).trust = s.trust := rfl
@[simp] theorem State.onChan_time (g : DmaCh → DmaCh) : (s.onChan n g).time = s.time := rfl
@[simp] theorem State.onChan_smbus (g : DmaCh → DmaCh) : (s.onChan n g).smbus = s.smbus := rfl
@[simp] theorem State.onChan_cdcExpired (g : DmaCh → DmaCh) : (s.onChan n g).cdcExpired = s.cdcExpired := rfl
@[simp] theorem State.onChan_cdcDown (g : DmaCh → DmaCh) : (s.onChan n g).cdcDown = s.cdcDown := rfl
@[simp] theorem State.onChan_log (g : DmaCh → DmaCh) : (s.onChan n g).log = s.log := rfl
@[simp] theorem State.onChan_accLog (g : DmaCh → DmaCh) : (s.onChan n g).accLog = s.accLog := rfl
@[simp] theorem State.onChan_vault (g : DmaCh → DmaCh) : (s.onChan n g).vault = s.vault := rfl
@[simp] theorem State.onChan_vaultCounters (g : DmaCh → DmaCh) : (s.onChan n g).vaultCounters = s.vaultCounters := rfl
@[simp] theorem State.onChan_vaultSeq (g : DmaCh → DmaCh) : (s.onChan n g).vaultSeq = s.vaultSeq := rfl
@[simp] theorem State.onChan_recordDue (g : DmaCh → DmaCh) : (s.onChan n g).recordDue = s.recordDue := rfl
@[simp] theorem State.onChan_dieTest (g : DmaCh → DmaCh) : (s.onChan n g).dieTest = s.dieTest := rfl

@[simp] theorem State.onChan_func (g : DmaCh → DmaCh) : (s.onChan n g).func k = s.func k := rfl
@[simp] theorem State.onChan_polder (g : DmaCh → DmaCh) : (s.onChan n g).polder k = s.polder k := rfl
@[simp] theorem State.onChan_halfDie (g : DmaCh → DmaCh) : (s.onChan n g).halfDie k = s.halfDie k := rfl
@[simp] theorem State.onChan_engine (g : DmaCh → DmaCh) : (s.onChan n g).engine k = s.engine k := rfl
@[simp] theorem State.onChan_link (g : DmaCh → DmaCh) : (s.onChan n g).link k = s.link k := rfl
@[simp] theorem State.onChan_cluster (g : DmaCh → DmaCh) : (s.onChan n g).cluster k = s.cluster k := rfl
@[simp] theorem State.onChan_edgeCh (g : DmaCh → DmaCh) : (s.onChan n g).edgeCh k = s.edgeCh k := rfl
@[simp] theorem State.onChan_stack (g : DmaCh → DmaCh) : (s.onChan n g).stack k = s.stack k := rfl
@[simp] theorem State.onChan_basin (g : DmaCh → DmaCh) : (s.onChan n g).basin k = s.basin k := rfl
@[simp] theorem State.onChan_ucmDie (g : DmaCh → DmaCh) : (s.onChan n g).ucmDie k = s.ucmDie k := rfl
@[simp] theorem State.onChan_tcore (g : DmaCh → DmaCh) : (s.onChan n g).tcore k = s.tcore k := rfl
@[simp] theorem State.onChan_vcore (g : DmaCh → DmaCh) : (s.onChan n g).vcore k = s.vcore k := rfl
@[simp] theorem State.onChan_score (g : DmaCh → DmaCh) : (s.onChan n g).score k = s.score k := rfl

/-- The unit itself changes, and no other of its kind. -/
@[simp] theorem State.onChan_chan (g : DmaCh → DmaCh) : (s.onChan n g).chan k = if n = k then g (s.chan n) else s.chan k := by
  simp [State.onChan]

/-! ### Engine -/

@[simp] theorem State.onEngine_pending (g : Engine → Engine) : (s.onEngine n g).pending = s.pending := rfl
@[simp] theorem State.onEngine_fresh (g : Engine → Engine) : (s.onEngine n g).fresh = s.fresh := rfl
@[simp] theorem State.onEngine_slotPins (g : Engine → Engine) : (s.onEngine n g).slotPins = s.slotPins := rfl
@[simp] theorem State.onEngine_pins (g : Engine → Engine) : (s.onEngine n g).pins = s.pins := rfl
@[simp] theorem State.onEngine_hostMem (g : Engine → Engine) : (s.onEngine n g).hostMem = s.hostMem := rfl
@[simp] theorem State.onEngine_hostErr (g : Engine → Engine) : (s.onEngine n g).hostErr = s.hostErr := rfl
@[simp] theorem State.onEngine_reply (g : Engine → Engine) : (s.onEngine n g).reply = s.reply := rfl
@[simp] theorem State.onEngine_lateReplies (g : Engine → Engine) : (s.onEngine n g).lateReplies = s.lateReplies := rfl
@[simp] theorem State.onEngine_gathers (g : Engine → Engine) : (s.onEngine n g).gathers = s.gathers := rfl
@[simp] theorem State.onEngine_gatherNo (g : Engine → Engine) : (s.onEngine n g).gatherNo = s.gatherNo := rfl
@[simp] theorem State.onEngine_msixSent (g : Engine → Engine) : (s.onEngine n g).msixSent = s.msixSent := rfl
@[simp] theorem State.onEngine_aerErrors (g : Engine → Engine) : (s.onEngine n g).aerErrors = s.aerErrors := rfl
@[simp] theorem State.onEngine_tcores (g : Engine → Engine) : (s.onEngine n g).tcores = s.tcores := rfl
@[simp] theorem State.onEngine_vcores (g : Engine → Engine) : (s.onEngine n g).vcores = s.vcores := rfl
@[simp] theorem State.onEngine_scores (g : Engine → Engine) : (s.onEngine n g).scores = s.scores := rfl
@[simp] theorem State.onEngine_clusters (g : Engine → Engine) : (s.onEngine n g).clusters = s.clusters := rfl
@[simp] theorem State.onEngine_ucm (g : Engine → Engine) : (s.onEngine n g).ucm = s.ucm := rfl
@[simp] theorem State.onEngine_ucmValid (g : Engine → Engine) : (s.onEngine n g).ucmValid = s.ucmValid := rfl
@[simp] theorem State.onEngine_ucmBad (g : Engine → Engine) : (s.onEngine n g).ucmBad = s.ucmBad := rfl
@[simp] theorem State.onEngine_ucmDies (g : Engine → Engine) : (s.onEngine n g).ucmDies = s.ucmDies := rfl
@[simp] theorem State.onEngine_ucmScrub (g : Engine → Engine) : (s.onEngine n g).ucmScrub = s.ucmScrub := rfl
@[simp] theorem State.onEngine_merges (g : Engine → Engine) : (s.onEngine n g).merges = s.merges := rfl
@[simp] theorem State.onEngine_edge (g : Engine → Engine) : (s.onEngine n g).edge = s.edge := rfl
@[simp] theorem State.onEngine_edgeBad (g : Engine → Engine) : (s.onEngine n g).edgeBad = s.edgeBad := rfl
@[simp] theorem State.onEngine_channels (g : Engine → Engine) : (s.onEngine n g).channels = s.channels := rfl
@[simp] theorem State.onEngine_edgeStacks (g : Engine → Engine) : (s.onEngine n g).edgeStacks = s.edgeStacks := rfl
@[simp] theorem State.onEngine_basins (g : Engine → Engine) : (s.onEngine n g).basins = s.basins := rfl
@[simp] theorem State.onEngine_intlvPkg (g : Engine → Engine) : (s.onEngine n g).intlvPkg = s.intlvPkg := rfl
@[simp] theorem State.onEngine_kvBase (g : Engine → Engine) : (s.onEngine n g).kvBase = s.kvBase := rfl
@[simp] theorem State.onEngine_kvStride (g : Engine → Engine) : (s.onEngine n g).kvStride = s.kvStride := rfl
@[simp] theorem State.onEngine_kvSlots (g : Engine → Engine) : (s.onEngine n g).kvSlots = s.kvSlots := rfl
@[simp] theorem State.onEngine_polders (g : Engine → Engine) : (s.onEngine n g).polders = s.polders := rfl
@[simp] theorem State.onEngine_halfDies (g : Engine → Engine) : (s.onEngine n g).halfDies = s.halfDies := rfl
@[simp] theorem State.onEngine_fencedCulverts (g : Engine → Engine) : (s.onEngine n g).fencedCulverts = s.fencedCulverts := rfl
@[simp] theorem State.onEngine_narrowed (g : Engine → Engine) : (s.onEngine n g).narrowed = s.narrowed := rfl
@[simp] theorem State.onEngine_funcs (g : Engine → Engine) : (s.onEngine n g).funcs = s.funcs := rfl
@[simp] theorem State.onEngine_pcie (g : Engine → Engine) : (s.onEngine n g).pcie = s.pcie := rfl
@[simp] theorem State.onEngine_bar4Win (g : Engine → Engine) : (s.onEngine n g).bar4Win = s.bar4Win := rfl
@[simp] theorem State.onEngine_bar4Off (g : Engine → Engine) : (s.onEngine n g).bar4Off = s.bar4Off := rfl
@[simp] theorem State.onEngine_vfMap (g : Engine → Engine) : (s.onEngine n g).vfMap = s.vfMap := rfl
@[simp] theorem State.onEngine_accErr (g : Engine → Engine) : (s.onEngine n g).accErr = s.accErr := rfl
@[simp] theorem State.onEngine_gates (g : Engine → Engine) : (s.onEngine n g).gates = s.gates := rfl
@[simp] theorem State.onEngine_fgNo (g : Engine → Engine) : (s.onEngine n g).fgNo = s.fgNo := rfl
@[simp] theorem State.onEngine_gateChannels (g : Engine → Engine) : (s.onEngine n g).gateChannels = s.gateChannels := rfl
@[simp] theorem State.onEngine_gateEndedJob (g : Engine → Engine) : (s.onEngine n g).gateEndedJob = s.gateEndedJob := rfl
@[simp] theorem State.onEngine_draining (g : Engine → Engine) : (s.onEngine n g).draining = s.draining := rfl
@[simp] theorem State.onEngine_board (g : Engine → Engine) : (s.onEngine n g).board = s.board := rfl
@[simp] theorem State.onEngine_boardLost (g : Engine → Engine) : (s.onEngine n g).boardLost = s.boardLost := rfl
@[simp] theorem State.onEngine_boardErrors (g : Engine → Engine) : (s.onEngine n g).boardErrors = s.boardErrors := rfl
@[simp] theorem State.onEngine_dma (g : Engine → Engine) : (s.onEngine n g).dma = s.dma := rfl
@[simp] theorem State.onEngine_links (g : Engine → Engine) : (s.onEngine n g).links = s.links := rfl
@[simp] theorem State.onEngine_fabricId (g : Engine → Engine) : (s.onEngine n g).fabricId = s.fabricId := rfl
@[simp] theorem State.onEngine_windows (g : Engine → Engine) : (s.onEngine n g).windows = s.windows := rfl
@[simp] theorem State.onEngine_inbound (g : Engine → Engine) : (s.onEngine n g).inbound = s.inbound := rfl
@[simp] theorem State.onEngine_ledger (g : Engine → Engine) : (s.onEngine n g).ledger = s.ledger := rfl
@[simp] theorem State.onEngine_thermal (g : Engine → Engine) : (s.onEngine n g).thermal = s.thermal := rfl
@[simp] theorem State.onEngine_power (g : Engine → Engine) : (s.onEngine n g).power = s.power := rfl
@[simp] theorem State.onEngine_boot (g : Engine → Engine) : (s.onEngine n g).boot = s.boot := rfl
@[simp] theorem State.onEngine_repair (g : Engine → Engine) : (s.onEngine n g).repair = s.repair := rfl
@[simp] theorem State.onEngine_fuses (g : Engine → Engine) : (s.onEngine n g).fuses = s.fuses := rfl
@[simp] theorem State.onEngine_trust (g : Engine → Engine) : (s.onEngine n g).trust = s.trust := rfl
@[simp] theorem State.onEngine_time (g : Engine → Engine) : (s.onEngine n g).time = s.time := rfl
@[simp] theorem State.onEngine_smbus (g : Engine → Engine) : (s.onEngine n g).smbus = s.smbus := rfl
@[simp] theorem State.onEngine_cdcExpired (g : Engine → Engine) : (s.onEngine n g).cdcExpired = s.cdcExpired := rfl
@[simp] theorem State.onEngine_cdcDown (g : Engine → Engine) : (s.onEngine n g).cdcDown = s.cdcDown := rfl
@[simp] theorem State.onEngine_log (g : Engine → Engine) : (s.onEngine n g).log = s.log := rfl
@[simp] theorem State.onEngine_accLog (g : Engine → Engine) : (s.onEngine n g).accLog = s.accLog := rfl
@[simp] theorem State.onEngine_vault (g : Engine → Engine) : (s.onEngine n g).vault = s.vault := rfl
@[simp] theorem State.onEngine_vaultCounters (g : Engine → Engine) : (s.onEngine n g).vaultCounters = s.vaultCounters := rfl
@[simp] theorem State.onEngine_vaultSeq (g : Engine → Engine) : (s.onEngine n g).vaultSeq = s.vaultSeq := rfl
@[simp] theorem State.onEngine_recordDue (g : Engine → Engine) : (s.onEngine n g).recordDue = s.recordDue := rfl
@[simp] theorem State.onEngine_dieTest (g : Engine → Engine) : (s.onEngine n g).dieTest = s.dieTest := rfl

@[simp] theorem State.onEngine_func (g : Engine → Engine) : (s.onEngine n g).func k = s.func k := rfl
@[simp] theorem State.onEngine_polder (g : Engine → Engine) : (s.onEngine n g).polder k = s.polder k := rfl
@[simp] theorem State.onEngine_halfDie (g : Engine → Engine) : (s.onEngine n g).halfDie k = s.halfDie k := rfl
@[simp] theorem State.onEngine_chan (g : Engine → Engine) : (s.onEngine n g).chan k = s.chan k := rfl
@[simp] theorem State.onEngine_link (g : Engine → Engine) : (s.onEngine n g).link k = s.link k := rfl
@[simp] theorem State.onEngine_cluster (g : Engine → Engine) : (s.onEngine n g).cluster k = s.cluster k := rfl
@[simp] theorem State.onEngine_edgeCh (g : Engine → Engine) : (s.onEngine n g).edgeCh k = s.edgeCh k := rfl
@[simp] theorem State.onEngine_stack (g : Engine → Engine) : (s.onEngine n g).stack k = s.stack k := rfl
@[simp] theorem State.onEngine_basin (g : Engine → Engine) : (s.onEngine n g).basin k = s.basin k := rfl
@[simp] theorem State.onEngine_ucmDie (g : Engine → Engine) : (s.onEngine n g).ucmDie k = s.ucmDie k := rfl
@[simp] theorem State.onEngine_tcore (g : Engine → Engine) : (s.onEngine n g).tcore k = s.tcore k := rfl
@[simp] theorem State.onEngine_vcore (g : Engine → Engine) : (s.onEngine n g).vcore k = s.vcore k := rfl
@[simp] theorem State.onEngine_score (g : Engine → Engine) : (s.onEngine n g).score k = s.score k := rfl

/-- The unit itself changes, and no other of its kind. -/
@[simp] theorem State.onEngine_engine (g : Engine → Engine) : (s.onEngine n g).engine k = if n = k then g (s.engine n) else s.engine k := by
  simp [State.engine, State.onEngine]

/-! ### Link -/

@[simp] theorem State.setLink_pending (x : Link) : (s.setLink n x).pending = s.pending := rfl
@[simp] theorem State.setLink_fresh (x : Link) : (s.setLink n x).fresh = s.fresh := rfl
@[simp] theorem State.setLink_slotPins (x : Link) : (s.setLink n x).slotPins = s.slotPins := rfl
@[simp] theorem State.setLink_pins (x : Link) : (s.setLink n x).pins = s.pins := rfl
@[simp] theorem State.setLink_hostMem (x : Link) : (s.setLink n x).hostMem = s.hostMem := rfl
@[simp] theorem State.setLink_hostErr (x : Link) : (s.setLink n x).hostErr = s.hostErr := rfl
@[simp] theorem State.setLink_reply (x : Link) : (s.setLink n x).reply = s.reply := rfl
@[simp] theorem State.setLink_lateReplies (x : Link) : (s.setLink n x).lateReplies = s.lateReplies := rfl
@[simp] theorem State.setLink_gathers (x : Link) : (s.setLink n x).gathers = s.gathers := rfl
@[simp] theorem State.setLink_gatherNo (x : Link) : (s.setLink n x).gatherNo = s.gatherNo := rfl
@[simp] theorem State.setLink_msixSent (x : Link) : (s.setLink n x).msixSent = s.msixSent := rfl
@[simp] theorem State.setLink_aerErrors (x : Link) : (s.setLink n x).aerErrors = s.aerErrors := rfl
@[simp] theorem State.setLink_tcores (x : Link) : (s.setLink n x).tcores = s.tcores := rfl
@[simp] theorem State.setLink_vcores (x : Link) : (s.setLink n x).vcores = s.vcores := rfl
@[simp] theorem State.setLink_scores (x : Link) : (s.setLink n x).scores = s.scores := rfl
@[simp] theorem State.setLink_clusters (x : Link) : (s.setLink n x).clusters = s.clusters := rfl
@[simp] theorem State.setLink_ucm (x : Link) : (s.setLink n x).ucm = s.ucm := rfl
@[simp] theorem State.setLink_ucmValid (x : Link) : (s.setLink n x).ucmValid = s.ucmValid := rfl
@[simp] theorem State.setLink_ucmBad (x : Link) : (s.setLink n x).ucmBad = s.ucmBad := rfl
@[simp] theorem State.setLink_ucmDies (x : Link) : (s.setLink n x).ucmDies = s.ucmDies := rfl
@[simp] theorem State.setLink_ucmScrub (x : Link) : (s.setLink n x).ucmScrub = s.ucmScrub := rfl
@[simp] theorem State.setLink_merges (x : Link) : (s.setLink n x).merges = s.merges := rfl
@[simp] theorem State.setLink_edge (x : Link) : (s.setLink n x).edge = s.edge := rfl
@[simp] theorem State.setLink_edgeBad (x : Link) : (s.setLink n x).edgeBad = s.edgeBad := rfl
@[simp] theorem State.setLink_channels (x : Link) : (s.setLink n x).channels = s.channels := rfl
@[simp] theorem State.setLink_edgeStacks (x : Link) : (s.setLink n x).edgeStacks = s.edgeStacks := rfl
@[simp] theorem State.setLink_basins (x : Link) : (s.setLink n x).basins = s.basins := rfl
@[simp] theorem State.setLink_intlvPkg (x : Link) : (s.setLink n x).intlvPkg = s.intlvPkg := rfl
@[simp] theorem State.setLink_kvBase (x : Link) : (s.setLink n x).kvBase = s.kvBase := rfl
@[simp] theorem State.setLink_kvStride (x : Link) : (s.setLink n x).kvStride = s.kvStride := rfl
@[simp] theorem State.setLink_kvSlots (x : Link) : (s.setLink n x).kvSlots = s.kvSlots := rfl
@[simp] theorem State.setLink_polders (x : Link) : (s.setLink n x).polders = s.polders := rfl
@[simp] theorem State.setLink_halfDies (x : Link) : (s.setLink n x).halfDies = s.halfDies := rfl
@[simp] theorem State.setLink_fencedCulverts (x : Link) : (s.setLink n x).fencedCulverts = s.fencedCulverts := rfl
@[simp] theorem State.setLink_narrowed (x : Link) : (s.setLink n x).narrowed = s.narrowed := rfl
@[simp] theorem State.setLink_funcs (x : Link) : (s.setLink n x).funcs = s.funcs := rfl
@[simp] theorem State.setLink_pcie (x : Link) : (s.setLink n x).pcie = s.pcie := rfl
@[simp] theorem State.setLink_bar4Win (x : Link) : (s.setLink n x).bar4Win = s.bar4Win := rfl
@[simp] theorem State.setLink_bar4Off (x : Link) : (s.setLink n x).bar4Off = s.bar4Off := rfl
@[simp] theorem State.setLink_vfMap (x : Link) : (s.setLink n x).vfMap = s.vfMap := rfl
@[simp] theorem State.setLink_accErr (x : Link) : (s.setLink n x).accErr = s.accErr := rfl
@[simp] theorem State.setLink_gates (x : Link) : (s.setLink n x).gates = s.gates := rfl
@[simp] theorem State.setLink_fgNo (x : Link) : (s.setLink n x).fgNo = s.fgNo := rfl
@[simp] theorem State.setLink_gateChannels (x : Link) : (s.setLink n x).gateChannels = s.gateChannels := rfl
@[simp] theorem State.setLink_gateEndedJob (x : Link) : (s.setLink n x).gateEndedJob = s.gateEndedJob := rfl
@[simp] theorem State.setLink_draining (x : Link) : (s.setLink n x).draining = s.draining := rfl
@[simp] theorem State.setLink_board (x : Link) : (s.setLink n x).board = s.board := rfl
@[simp] theorem State.setLink_boardLost (x : Link) : (s.setLink n x).boardLost = s.boardLost := rfl
@[simp] theorem State.setLink_boardErrors (x : Link) : (s.setLink n x).boardErrors = s.boardErrors := rfl
@[simp] theorem State.setLink_dma (x : Link) : (s.setLink n x).dma = s.dma := rfl
@[simp] theorem State.setLink_engines (x : Link) : (s.setLink n x).engines = s.engines := rfl
@[simp] theorem State.setLink_fabricId (x : Link) : (s.setLink n x).fabricId = s.fabricId := rfl
@[simp] theorem State.setLink_windows (x : Link) : (s.setLink n x).windows = s.windows := rfl
@[simp] theorem State.setLink_inbound (x : Link) : (s.setLink n x).inbound = s.inbound := rfl
@[simp] theorem State.setLink_ledger (x : Link) : (s.setLink n x).ledger = s.ledger := rfl
@[simp] theorem State.setLink_thermal (x : Link) : (s.setLink n x).thermal = s.thermal := rfl
@[simp] theorem State.setLink_power (x : Link) : (s.setLink n x).power = s.power := rfl
@[simp] theorem State.setLink_boot (x : Link) : (s.setLink n x).boot = s.boot := rfl
@[simp] theorem State.setLink_repair (x : Link) : (s.setLink n x).repair = s.repair := rfl
@[simp] theorem State.setLink_fuses (x : Link) : (s.setLink n x).fuses = s.fuses := rfl
@[simp] theorem State.setLink_trust (x : Link) : (s.setLink n x).trust = s.trust := rfl
@[simp] theorem State.setLink_time (x : Link) : (s.setLink n x).time = s.time := rfl
@[simp] theorem State.setLink_smbus (x : Link) : (s.setLink n x).smbus = s.smbus := rfl
@[simp] theorem State.setLink_cdcExpired (x : Link) : (s.setLink n x).cdcExpired = s.cdcExpired := rfl
@[simp] theorem State.setLink_cdcDown (x : Link) : (s.setLink n x).cdcDown = s.cdcDown := rfl
@[simp] theorem State.setLink_log (x : Link) : (s.setLink n x).log = s.log := rfl
@[simp] theorem State.setLink_accLog (x : Link) : (s.setLink n x).accLog = s.accLog := rfl
@[simp] theorem State.setLink_vault (x : Link) : (s.setLink n x).vault = s.vault := rfl
@[simp] theorem State.setLink_vaultCounters (x : Link) : (s.setLink n x).vaultCounters = s.vaultCounters := rfl
@[simp] theorem State.setLink_vaultSeq (x : Link) : (s.setLink n x).vaultSeq = s.vaultSeq := rfl
@[simp] theorem State.setLink_recordDue (x : Link) : (s.setLink n x).recordDue = s.recordDue := rfl
@[simp] theorem State.setLink_dieTest (x : Link) : (s.setLink n x).dieTest = s.dieTest := rfl

@[simp] theorem State.setLink_func (x : Link) : (s.setLink n x).func k = s.func k := rfl
@[simp] theorem State.setLink_polder (x : Link) : (s.setLink n x).polder k = s.polder k := rfl
@[simp] theorem State.setLink_halfDie (x : Link) : (s.setLink n x).halfDie k = s.halfDie k := rfl
@[simp] theorem State.setLink_chan (x : Link) : (s.setLink n x).chan k = s.chan k := rfl
@[simp] theorem State.setLink_engine (x : Link) : (s.setLink n x).engine k = s.engine k := rfl
@[simp] theorem State.setLink_cluster (x : Link) : (s.setLink n x).cluster k = s.cluster k := rfl
@[simp] theorem State.setLink_edgeCh (x : Link) : (s.setLink n x).edgeCh k = s.edgeCh k := rfl
@[simp] theorem State.setLink_stack (x : Link) : (s.setLink n x).stack k = s.stack k := rfl
@[simp] theorem State.setLink_basin (x : Link) : (s.setLink n x).basin k = s.basin k := rfl
@[simp] theorem State.setLink_ucmDie (x : Link) : (s.setLink n x).ucmDie k = s.ucmDie k := rfl
@[simp] theorem State.setLink_tcore (x : Link) : (s.setLink n x).tcore k = s.tcore k := rfl
@[simp] theorem State.setLink_vcore (x : Link) : (s.setLink n x).vcore k = s.vcore k := rfl
@[simp] theorem State.setLink_score (x : Link) : (s.setLink n x).score k = s.score k := rfl

/-- The unit itself changes, and no other of its kind. -/
@[simp] theorem State.setLink_link (x : Link) : (s.setLink n x).link k = if n = k then x else s.link k := by
  simp [State.link, State.setLink]

@[simp] theorem State.onLink_pending (g : Link → Link) : (s.onLink n g).pending = s.pending := rfl
@[simp] theorem State.onLink_fresh (g : Link → Link) : (s.onLink n g).fresh = s.fresh := rfl
@[simp] theorem State.onLink_slotPins (g : Link → Link) : (s.onLink n g).slotPins = s.slotPins := rfl
@[simp] theorem State.onLink_pins (g : Link → Link) : (s.onLink n g).pins = s.pins := rfl
@[simp] theorem State.onLink_hostMem (g : Link → Link) : (s.onLink n g).hostMem = s.hostMem := rfl
@[simp] theorem State.onLink_hostErr (g : Link → Link) : (s.onLink n g).hostErr = s.hostErr := rfl
@[simp] theorem State.onLink_reply (g : Link → Link) : (s.onLink n g).reply = s.reply := rfl
@[simp] theorem State.onLink_lateReplies (g : Link → Link) : (s.onLink n g).lateReplies = s.lateReplies := rfl
@[simp] theorem State.onLink_gathers (g : Link → Link) : (s.onLink n g).gathers = s.gathers := rfl
@[simp] theorem State.onLink_gatherNo (g : Link → Link) : (s.onLink n g).gatherNo = s.gatherNo := rfl
@[simp] theorem State.onLink_msixSent (g : Link → Link) : (s.onLink n g).msixSent = s.msixSent := rfl
@[simp] theorem State.onLink_aerErrors (g : Link → Link) : (s.onLink n g).aerErrors = s.aerErrors := rfl
@[simp] theorem State.onLink_tcores (g : Link → Link) : (s.onLink n g).tcores = s.tcores := rfl
@[simp] theorem State.onLink_vcores (g : Link → Link) : (s.onLink n g).vcores = s.vcores := rfl
@[simp] theorem State.onLink_scores (g : Link → Link) : (s.onLink n g).scores = s.scores := rfl
@[simp] theorem State.onLink_clusters (g : Link → Link) : (s.onLink n g).clusters = s.clusters := rfl
@[simp] theorem State.onLink_ucm (g : Link → Link) : (s.onLink n g).ucm = s.ucm := rfl
@[simp] theorem State.onLink_ucmValid (g : Link → Link) : (s.onLink n g).ucmValid = s.ucmValid := rfl
@[simp] theorem State.onLink_ucmBad (g : Link → Link) : (s.onLink n g).ucmBad = s.ucmBad := rfl
@[simp] theorem State.onLink_ucmDies (g : Link → Link) : (s.onLink n g).ucmDies = s.ucmDies := rfl
@[simp] theorem State.onLink_ucmScrub (g : Link → Link) : (s.onLink n g).ucmScrub = s.ucmScrub := rfl
@[simp] theorem State.onLink_merges (g : Link → Link) : (s.onLink n g).merges = s.merges := rfl
@[simp] theorem State.onLink_edge (g : Link → Link) : (s.onLink n g).edge = s.edge := rfl
@[simp] theorem State.onLink_edgeBad (g : Link → Link) : (s.onLink n g).edgeBad = s.edgeBad := rfl
@[simp] theorem State.onLink_channels (g : Link → Link) : (s.onLink n g).channels = s.channels := rfl
@[simp] theorem State.onLink_edgeStacks (g : Link → Link) : (s.onLink n g).edgeStacks = s.edgeStacks := rfl
@[simp] theorem State.onLink_basins (g : Link → Link) : (s.onLink n g).basins = s.basins := rfl
@[simp] theorem State.onLink_intlvPkg (g : Link → Link) : (s.onLink n g).intlvPkg = s.intlvPkg := rfl
@[simp] theorem State.onLink_kvBase (g : Link → Link) : (s.onLink n g).kvBase = s.kvBase := rfl
@[simp] theorem State.onLink_kvStride (g : Link → Link) : (s.onLink n g).kvStride = s.kvStride := rfl
@[simp] theorem State.onLink_kvSlots (g : Link → Link) : (s.onLink n g).kvSlots = s.kvSlots := rfl
@[simp] theorem State.onLink_polders (g : Link → Link) : (s.onLink n g).polders = s.polders := rfl
@[simp] theorem State.onLink_halfDies (g : Link → Link) : (s.onLink n g).halfDies = s.halfDies := rfl
@[simp] theorem State.onLink_fencedCulverts (g : Link → Link) : (s.onLink n g).fencedCulverts = s.fencedCulverts := rfl
@[simp] theorem State.onLink_narrowed (g : Link → Link) : (s.onLink n g).narrowed = s.narrowed := rfl
@[simp] theorem State.onLink_funcs (g : Link → Link) : (s.onLink n g).funcs = s.funcs := rfl
@[simp] theorem State.onLink_pcie (g : Link → Link) : (s.onLink n g).pcie = s.pcie := rfl
@[simp] theorem State.onLink_bar4Win (g : Link → Link) : (s.onLink n g).bar4Win = s.bar4Win := rfl
@[simp] theorem State.onLink_bar4Off (g : Link → Link) : (s.onLink n g).bar4Off = s.bar4Off := rfl
@[simp] theorem State.onLink_vfMap (g : Link → Link) : (s.onLink n g).vfMap = s.vfMap := rfl
@[simp] theorem State.onLink_accErr (g : Link → Link) : (s.onLink n g).accErr = s.accErr := rfl
@[simp] theorem State.onLink_gates (g : Link → Link) : (s.onLink n g).gates = s.gates := rfl
@[simp] theorem State.onLink_fgNo (g : Link → Link) : (s.onLink n g).fgNo = s.fgNo := rfl
@[simp] theorem State.onLink_gateChannels (g : Link → Link) : (s.onLink n g).gateChannels = s.gateChannels := rfl
@[simp] theorem State.onLink_gateEndedJob (g : Link → Link) : (s.onLink n g).gateEndedJob = s.gateEndedJob := rfl
@[simp] theorem State.onLink_draining (g : Link → Link) : (s.onLink n g).draining = s.draining := rfl
@[simp] theorem State.onLink_board (g : Link → Link) : (s.onLink n g).board = s.board := rfl
@[simp] theorem State.onLink_boardLost (g : Link → Link) : (s.onLink n g).boardLost = s.boardLost := rfl
@[simp] theorem State.onLink_boardErrors (g : Link → Link) : (s.onLink n g).boardErrors = s.boardErrors := rfl
@[simp] theorem State.onLink_dma (g : Link → Link) : (s.onLink n g).dma = s.dma := rfl
@[simp] theorem State.onLink_engines (g : Link → Link) : (s.onLink n g).engines = s.engines := rfl
@[simp] theorem State.onLink_fabricId (g : Link → Link) : (s.onLink n g).fabricId = s.fabricId := rfl
@[simp] theorem State.onLink_windows (g : Link → Link) : (s.onLink n g).windows = s.windows := rfl
@[simp] theorem State.onLink_inbound (g : Link → Link) : (s.onLink n g).inbound = s.inbound := rfl
@[simp] theorem State.onLink_ledger (g : Link → Link) : (s.onLink n g).ledger = s.ledger := rfl
@[simp] theorem State.onLink_thermal (g : Link → Link) : (s.onLink n g).thermal = s.thermal := rfl
@[simp] theorem State.onLink_power (g : Link → Link) : (s.onLink n g).power = s.power := rfl
@[simp] theorem State.onLink_boot (g : Link → Link) : (s.onLink n g).boot = s.boot := rfl
@[simp] theorem State.onLink_repair (g : Link → Link) : (s.onLink n g).repair = s.repair := rfl
@[simp] theorem State.onLink_fuses (g : Link → Link) : (s.onLink n g).fuses = s.fuses := rfl
@[simp] theorem State.onLink_trust (g : Link → Link) : (s.onLink n g).trust = s.trust := rfl
@[simp] theorem State.onLink_time (g : Link → Link) : (s.onLink n g).time = s.time := rfl
@[simp] theorem State.onLink_smbus (g : Link → Link) : (s.onLink n g).smbus = s.smbus := rfl
@[simp] theorem State.onLink_cdcExpired (g : Link → Link) : (s.onLink n g).cdcExpired = s.cdcExpired := rfl
@[simp] theorem State.onLink_cdcDown (g : Link → Link) : (s.onLink n g).cdcDown = s.cdcDown := rfl
@[simp] theorem State.onLink_log (g : Link → Link) : (s.onLink n g).log = s.log := rfl
@[simp] theorem State.onLink_accLog (g : Link → Link) : (s.onLink n g).accLog = s.accLog := rfl
@[simp] theorem State.onLink_vault (g : Link → Link) : (s.onLink n g).vault = s.vault := rfl
@[simp] theorem State.onLink_vaultCounters (g : Link → Link) : (s.onLink n g).vaultCounters = s.vaultCounters := rfl
@[simp] theorem State.onLink_vaultSeq (g : Link → Link) : (s.onLink n g).vaultSeq = s.vaultSeq := rfl
@[simp] theorem State.onLink_recordDue (g : Link → Link) : (s.onLink n g).recordDue = s.recordDue := rfl
@[simp] theorem State.onLink_dieTest (g : Link → Link) : (s.onLink n g).dieTest = s.dieTest := rfl

@[simp] theorem State.onLink_func (g : Link → Link) : (s.onLink n g).func k = s.func k := rfl
@[simp] theorem State.onLink_polder (g : Link → Link) : (s.onLink n g).polder k = s.polder k := rfl
@[simp] theorem State.onLink_halfDie (g : Link → Link) : (s.onLink n g).halfDie k = s.halfDie k := rfl
@[simp] theorem State.onLink_chan (g : Link → Link) : (s.onLink n g).chan k = s.chan k := rfl
@[simp] theorem State.onLink_engine (g : Link → Link) : (s.onLink n g).engine k = s.engine k := rfl
@[simp] theorem State.onLink_cluster (g : Link → Link) : (s.onLink n g).cluster k = s.cluster k := rfl
@[simp] theorem State.onLink_edgeCh (g : Link → Link) : (s.onLink n g).edgeCh k = s.edgeCh k := rfl
@[simp] theorem State.onLink_stack (g : Link → Link) : (s.onLink n g).stack k = s.stack k := rfl
@[simp] theorem State.onLink_basin (g : Link → Link) : (s.onLink n g).basin k = s.basin k := rfl
@[simp] theorem State.onLink_ucmDie (g : Link → Link) : (s.onLink n g).ucmDie k = s.ucmDie k := rfl
@[simp] theorem State.onLink_tcore (g : Link → Link) : (s.onLink n g).tcore k = s.tcore k := rfl
@[simp] theorem State.onLink_vcore (g : Link → Link) : (s.onLink n g).vcore k = s.vcore k := rfl
@[simp] theorem State.onLink_score (g : Link → Link) : (s.onLink n g).score k = s.score k := rfl

/-- The unit itself changes, and no other of its kind. -/
@[simp] theorem State.onLink_link (g : Link → Link) : (s.onLink n g).link k = if n = k then g (s.link n) else s.link k := by
  simp [State.onLink]

/-! ### Cluster -/

@[simp] theorem State.setCluster_pending (x : Cluster) : (s.setCluster n x).pending = s.pending := rfl
@[simp] theorem State.setCluster_fresh (x : Cluster) : (s.setCluster n x).fresh = s.fresh := rfl
@[simp] theorem State.setCluster_slotPins (x : Cluster) : (s.setCluster n x).slotPins = s.slotPins := rfl
@[simp] theorem State.setCluster_pins (x : Cluster) : (s.setCluster n x).pins = s.pins := rfl
@[simp] theorem State.setCluster_hostMem (x : Cluster) : (s.setCluster n x).hostMem = s.hostMem := rfl
@[simp] theorem State.setCluster_hostErr (x : Cluster) : (s.setCluster n x).hostErr = s.hostErr := rfl
@[simp] theorem State.setCluster_reply (x : Cluster) : (s.setCluster n x).reply = s.reply := rfl
@[simp] theorem State.setCluster_lateReplies (x : Cluster) : (s.setCluster n x).lateReplies = s.lateReplies := rfl
@[simp] theorem State.setCluster_gathers (x : Cluster) : (s.setCluster n x).gathers = s.gathers := rfl
@[simp] theorem State.setCluster_gatherNo (x : Cluster) : (s.setCluster n x).gatherNo = s.gatherNo := rfl
@[simp] theorem State.setCluster_msixSent (x : Cluster) : (s.setCluster n x).msixSent = s.msixSent := rfl
@[simp] theorem State.setCluster_aerErrors (x : Cluster) : (s.setCluster n x).aerErrors = s.aerErrors := rfl
@[simp] theorem State.setCluster_tcores (x : Cluster) : (s.setCluster n x).tcores = s.tcores := rfl
@[simp] theorem State.setCluster_vcores (x : Cluster) : (s.setCluster n x).vcores = s.vcores := rfl
@[simp] theorem State.setCluster_scores (x : Cluster) : (s.setCluster n x).scores = s.scores := rfl
@[simp] theorem State.setCluster_ucm (x : Cluster) : (s.setCluster n x).ucm = s.ucm := rfl
@[simp] theorem State.setCluster_ucmValid (x : Cluster) : (s.setCluster n x).ucmValid = s.ucmValid := rfl
@[simp] theorem State.setCluster_ucmBad (x : Cluster) : (s.setCluster n x).ucmBad = s.ucmBad := rfl
@[simp] theorem State.setCluster_ucmDies (x : Cluster) : (s.setCluster n x).ucmDies = s.ucmDies := rfl
@[simp] theorem State.setCluster_ucmScrub (x : Cluster) : (s.setCluster n x).ucmScrub = s.ucmScrub := rfl
@[simp] theorem State.setCluster_merges (x : Cluster) : (s.setCluster n x).merges = s.merges := rfl
@[simp] theorem State.setCluster_edge (x : Cluster) : (s.setCluster n x).edge = s.edge := rfl
@[simp] theorem State.setCluster_edgeBad (x : Cluster) : (s.setCluster n x).edgeBad = s.edgeBad := rfl
@[simp] theorem State.setCluster_channels (x : Cluster) : (s.setCluster n x).channels = s.channels := rfl
@[simp] theorem State.setCluster_edgeStacks (x : Cluster) : (s.setCluster n x).edgeStacks = s.edgeStacks := rfl
@[simp] theorem State.setCluster_basins (x : Cluster) : (s.setCluster n x).basins = s.basins := rfl
@[simp] theorem State.setCluster_intlvPkg (x : Cluster) : (s.setCluster n x).intlvPkg = s.intlvPkg := rfl
@[simp] theorem State.setCluster_kvBase (x : Cluster) : (s.setCluster n x).kvBase = s.kvBase := rfl
@[simp] theorem State.setCluster_kvStride (x : Cluster) : (s.setCluster n x).kvStride = s.kvStride := rfl
@[simp] theorem State.setCluster_kvSlots (x : Cluster) : (s.setCluster n x).kvSlots = s.kvSlots := rfl
@[simp] theorem State.setCluster_polders (x : Cluster) : (s.setCluster n x).polders = s.polders := rfl
@[simp] theorem State.setCluster_halfDies (x : Cluster) : (s.setCluster n x).halfDies = s.halfDies := rfl
@[simp] theorem State.setCluster_fencedCulverts (x : Cluster) : (s.setCluster n x).fencedCulverts = s.fencedCulverts := rfl
@[simp] theorem State.setCluster_narrowed (x : Cluster) : (s.setCluster n x).narrowed = s.narrowed := rfl
@[simp] theorem State.setCluster_funcs (x : Cluster) : (s.setCluster n x).funcs = s.funcs := rfl
@[simp] theorem State.setCluster_pcie (x : Cluster) : (s.setCluster n x).pcie = s.pcie := rfl
@[simp] theorem State.setCluster_bar4Win (x : Cluster) : (s.setCluster n x).bar4Win = s.bar4Win := rfl
@[simp] theorem State.setCluster_bar4Off (x : Cluster) : (s.setCluster n x).bar4Off = s.bar4Off := rfl
@[simp] theorem State.setCluster_vfMap (x : Cluster) : (s.setCluster n x).vfMap = s.vfMap := rfl
@[simp] theorem State.setCluster_accErr (x : Cluster) : (s.setCluster n x).accErr = s.accErr := rfl
@[simp] theorem State.setCluster_gates (x : Cluster) : (s.setCluster n x).gates = s.gates := rfl
@[simp] theorem State.setCluster_fgNo (x : Cluster) : (s.setCluster n x).fgNo = s.fgNo := rfl
@[simp] theorem State.setCluster_gateChannels (x : Cluster) : (s.setCluster n x).gateChannels = s.gateChannels := rfl
@[simp] theorem State.setCluster_gateEndedJob (x : Cluster) : (s.setCluster n x).gateEndedJob = s.gateEndedJob := rfl
@[simp] theorem State.setCluster_draining (x : Cluster) : (s.setCluster n x).draining = s.draining := rfl
@[simp] theorem State.setCluster_board (x : Cluster) : (s.setCluster n x).board = s.board := rfl
@[simp] theorem State.setCluster_boardLost (x : Cluster) : (s.setCluster n x).boardLost = s.boardLost := rfl
@[simp] theorem State.setCluster_boardErrors (x : Cluster) : (s.setCluster n x).boardErrors = s.boardErrors := rfl
@[simp] theorem State.setCluster_dma (x : Cluster) : (s.setCluster n x).dma = s.dma := rfl
@[simp] theorem State.setCluster_engines (x : Cluster) : (s.setCluster n x).engines = s.engines := rfl
@[simp] theorem State.setCluster_links (x : Cluster) : (s.setCluster n x).links = s.links := rfl
@[simp] theorem State.setCluster_fabricId (x : Cluster) : (s.setCluster n x).fabricId = s.fabricId := rfl
@[simp] theorem State.setCluster_windows (x : Cluster) : (s.setCluster n x).windows = s.windows := rfl
@[simp] theorem State.setCluster_inbound (x : Cluster) : (s.setCluster n x).inbound = s.inbound := rfl
@[simp] theorem State.setCluster_ledger (x : Cluster) : (s.setCluster n x).ledger = s.ledger := rfl
@[simp] theorem State.setCluster_thermal (x : Cluster) : (s.setCluster n x).thermal = s.thermal := rfl
@[simp] theorem State.setCluster_power (x : Cluster) : (s.setCluster n x).power = s.power := rfl
@[simp] theorem State.setCluster_boot (x : Cluster) : (s.setCluster n x).boot = s.boot := rfl
@[simp] theorem State.setCluster_repair (x : Cluster) : (s.setCluster n x).repair = s.repair := rfl
@[simp] theorem State.setCluster_fuses (x : Cluster) : (s.setCluster n x).fuses = s.fuses := rfl
@[simp] theorem State.setCluster_trust (x : Cluster) : (s.setCluster n x).trust = s.trust := rfl
@[simp] theorem State.setCluster_time (x : Cluster) : (s.setCluster n x).time = s.time := rfl
@[simp] theorem State.setCluster_smbus (x : Cluster) : (s.setCluster n x).smbus = s.smbus := rfl
@[simp] theorem State.setCluster_cdcExpired (x : Cluster) : (s.setCluster n x).cdcExpired = s.cdcExpired := rfl
@[simp] theorem State.setCluster_cdcDown (x : Cluster) : (s.setCluster n x).cdcDown = s.cdcDown := rfl
@[simp] theorem State.setCluster_log (x : Cluster) : (s.setCluster n x).log = s.log := rfl
@[simp] theorem State.setCluster_accLog (x : Cluster) : (s.setCluster n x).accLog = s.accLog := rfl
@[simp] theorem State.setCluster_vault (x : Cluster) : (s.setCluster n x).vault = s.vault := rfl
@[simp] theorem State.setCluster_vaultCounters (x : Cluster) : (s.setCluster n x).vaultCounters = s.vaultCounters := rfl
@[simp] theorem State.setCluster_vaultSeq (x : Cluster) : (s.setCluster n x).vaultSeq = s.vaultSeq := rfl
@[simp] theorem State.setCluster_recordDue (x : Cluster) : (s.setCluster n x).recordDue = s.recordDue := rfl
@[simp] theorem State.setCluster_dieTest (x : Cluster) : (s.setCluster n x).dieTest = s.dieTest := rfl

@[simp] theorem State.setCluster_func (x : Cluster) : (s.setCluster n x).func k = s.func k := rfl
@[simp] theorem State.setCluster_polder (x : Cluster) : (s.setCluster n x).polder k = s.polder k := rfl
@[simp] theorem State.setCluster_halfDie (x : Cluster) : (s.setCluster n x).halfDie k = s.halfDie k := rfl
@[simp] theorem State.setCluster_chan (x : Cluster) : (s.setCluster n x).chan k = s.chan k := rfl
@[simp] theorem State.setCluster_engine (x : Cluster) : (s.setCluster n x).engine k = s.engine k := rfl
@[simp] theorem State.setCluster_link (x : Cluster) : (s.setCluster n x).link k = s.link k := rfl
@[simp] theorem State.setCluster_edgeCh (x : Cluster) : (s.setCluster n x).edgeCh k = s.edgeCh k := rfl
@[simp] theorem State.setCluster_stack (x : Cluster) : (s.setCluster n x).stack k = s.stack k := rfl
@[simp] theorem State.setCluster_basin (x : Cluster) : (s.setCluster n x).basin k = s.basin k := rfl
@[simp] theorem State.setCluster_ucmDie (x : Cluster) : (s.setCluster n x).ucmDie k = s.ucmDie k := rfl
@[simp] theorem State.setCluster_tcore (x : Cluster) : (s.setCluster n x).tcore k = s.tcore k := rfl
@[simp] theorem State.setCluster_vcore (x : Cluster) : (s.setCluster n x).vcore k = s.vcore k := rfl
@[simp] theorem State.setCluster_score (x : Cluster) : (s.setCluster n x).score k = s.score k := rfl

/-- The unit itself changes, and no other of its kind. -/
@[simp] theorem State.setCluster_cluster (x : Cluster) : (s.setCluster n x).cluster k = if n = k then x else s.cluster k := by
  simp [State.cluster, State.setCluster]

@[simp] theorem State.onCluster_pending (g : Cluster → Cluster) : (s.onCluster n g).pending = s.pending := rfl
@[simp] theorem State.onCluster_fresh (g : Cluster → Cluster) : (s.onCluster n g).fresh = s.fresh := rfl
@[simp] theorem State.onCluster_slotPins (g : Cluster → Cluster) : (s.onCluster n g).slotPins = s.slotPins := rfl
@[simp] theorem State.onCluster_pins (g : Cluster → Cluster) : (s.onCluster n g).pins = s.pins := rfl
@[simp] theorem State.onCluster_hostMem (g : Cluster → Cluster) : (s.onCluster n g).hostMem = s.hostMem := rfl
@[simp] theorem State.onCluster_hostErr (g : Cluster → Cluster) : (s.onCluster n g).hostErr = s.hostErr := rfl
@[simp] theorem State.onCluster_reply (g : Cluster → Cluster) : (s.onCluster n g).reply = s.reply := rfl
@[simp] theorem State.onCluster_lateReplies (g : Cluster → Cluster) : (s.onCluster n g).lateReplies = s.lateReplies := rfl
@[simp] theorem State.onCluster_gathers (g : Cluster → Cluster) : (s.onCluster n g).gathers = s.gathers := rfl
@[simp] theorem State.onCluster_gatherNo (g : Cluster → Cluster) : (s.onCluster n g).gatherNo = s.gatherNo := rfl
@[simp] theorem State.onCluster_msixSent (g : Cluster → Cluster) : (s.onCluster n g).msixSent = s.msixSent := rfl
@[simp] theorem State.onCluster_aerErrors (g : Cluster → Cluster) : (s.onCluster n g).aerErrors = s.aerErrors := rfl
@[simp] theorem State.onCluster_tcores (g : Cluster → Cluster) : (s.onCluster n g).tcores = s.tcores := rfl
@[simp] theorem State.onCluster_vcores (g : Cluster → Cluster) : (s.onCluster n g).vcores = s.vcores := rfl
@[simp] theorem State.onCluster_scores (g : Cluster → Cluster) : (s.onCluster n g).scores = s.scores := rfl
@[simp] theorem State.onCluster_ucm (g : Cluster → Cluster) : (s.onCluster n g).ucm = s.ucm := rfl
@[simp] theorem State.onCluster_ucmValid (g : Cluster → Cluster) : (s.onCluster n g).ucmValid = s.ucmValid := rfl
@[simp] theorem State.onCluster_ucmBad (g : Cluster → Cluster) : (s.onCluster n g).ucmBad = s.ucmBad := rfl
@[simp] theorem State.onCluster_ucmDies (g : Cluster → Cluster) : (s.onCluster n g).ucmDies = s.ucmDies := rfl
@[simp] theorem State.onCluster_ucmScrub (g : Cluster → Cluster) : (s.onCluster n g).ucmScrub = s.ucmScrub := rfl
@[simp] theorem State.onCluster_merges (g : Cluster → Cluster) : (s.onCluster n g).merges = s.merges := rfl
@[simp] theorem State.onCluster_edge (g : Cluster → Cluster) : (s.onCluster n g).edge = s.edge := rfl
@[simp] theorem State.onCluster_edgeBad (g : Cluster → Cluster) : (s.onCluster n g).edgeBad = s.edgeBad := rfl
@[simp] theorem State.onCluster_channels (g : Cluster → Cluster) : (s.onCluster n g).channels = s.channels := rfl
@[simp] theorem State.onCluster_edgeStacks (g : Cluster → Cluster) : (s.onCluster n g).edgeStacks = s.edgeStacks := rfl
@[simp] theorem State.onCluster_basins (g : Cluster → Cluster) : (s.onCluster n g).basins = s.basins := rfl
@[simp] theorem State.onCluster_intlvPkg (g : Cluster → Cluster) : (s.onCluster n g).intlvPkg = s.intlvPkg := rfl
@[simp] theorem State.onCluster_kvBase (g : Cluster → Cluster) : (s.onCluster n g).kvBase = s.kvBase := rfl
@[simp] theorem State.onCluster_kvStride (g : Cluster → Cluster) : (s.onCluster n g).kvStride = s.kvStride := rfl
@[simp] theorem State.onCluster_kvSlots (g : Cluster → Cluster) : (s.onCluster n g).kvSlots = s.kvSlots := rfl
@[simp] theorem State.onCluster_polders (g : Cluster → Cluster) : (s.onCluster n g).polders = s.polders := rfl
@[simp] theorem State.onCluster_halfDies (g : Cluster → Cluster) : (s.onCluster n g).halfDies = s.halfDies := rfl
@[simp] theorem State.onCluster_fencedCulverts (g : Cluster → Cluster) : (s.onCluster n g).fencedCulverts = s.fencedCulverts := rfl
@[simp] theorem State.onCluster_narrowed (g : Cluster → Cluster) : (s.onCluster n g).narrowed = s.narrowed := rfl
@[simp] theorem State.onCluster_funcs (g : Cluster → Cluster) : (s.onCluster n g).funcs = s.funcs := rfl
@[simp] theorem State.onCluster_pcie (g : Cluster → Cluster) : (s.onCluster n g).pcie = s.pcie := rfl
@[simp] theorem State.onCluster_bar4Win (g : Cluster → Cluster) : (s.onCluster n g).bar4Win = s.bar4Win := rfl
@[simp] theorem State.onCluster_bar4Off (g : Cluster → Cluster) : (s.onCluster n g).bar4Off = s.bar4Off := rfl
@[simp] theorem State.onCluster_vfMap (g : Cluster → Cluster) : (s.onCluster n g).vfMap = s.vfMap := rfl
@[simp] theorem State.onCluster_accErr (g : Cluster → Cluster) : (s.onCluster n g).accErr = s.accErr := rfl
@[simp] theorem State.onCluster_gates (g : Cluster → Cluster) : (s.onCluster n g).gates = s.gates := rfl
@[simp] theorem State.onCluster_fgNo (g : Cluster → Cluster) : (s.onCluster n g).fgNo = s.fgNo := rfl
@[simp] theorem State.onCluster_gateChannels (g : Cluster → Cluster) : (s.onCluster n g).gateChannels = s.gateChannels := rfl
@[simp] theorem State.onCluster_gateEndedJob (g : Cluster → Cluster) : (s.onCluster n g).gateEndedJob = s.gateEndedJob := rfl
@[simp] theorem State.onCluster_draining (g : Cluster → Cluster) : (s.onCluster n g).draining = s.draining := rfl
@[simp] theorem State.onCluster_board (g : Cluster → Cluster) : (s.onCluster n g).board = s.board := rfl
@[simp] theorem State.onCluster_boardLost (g : Cluster → Cluster) : (s.onCluster n g).boardLost = s.boardLost := rfl
@[simp] theorem State.onCluster_boardErrors (g : Cluster → Cluster) : (s.onCluster n g).boardErrors = s.boardErrors := rfl
@[simp] theorem State.onCluster_dma (g : Cluster → Cluster) : (s.onCluster n g).dma = s.dma := rfl
@[simp] theorem State.onCluster_engines (g : Cluster → Cluster) : (s.onCluster n g).engines = s.engines := rfl
@[simp] theorem State.onCluster_links (g : Cluster → Cluster) : (s.onCluster n g).links = s.links := rfl
@[simp] theorem State.onCluster_fabricId (g : Cluster → Cluster) : (s.onCluster n g).fabricId = s.fabricId := rfl
@[simp] theorem State.onCluster_windows (g : Cluster → Cluster) : (s.onCluster n g).windows = s.windows := rfl
@[simp] theorem State.onCluster_inbound (g : Cluster → Cluster) : (s.onCluster n g).inbound = s.inbound := rfl
@[simp] theorem State.onCluster_ledger (g : Cluster → Cluster) : (s.onCluster n g).ledger = s.ledger := rfl
@[simp] theorem State.onCluster_thermal (g : Cluster → Cluster) : (s.onCluster n g).thermal = s.thermal := rfl
@[simp] theorem State.onCluster_power (g : Cluster → Cluster) : (s.onCluster n g).power = s.power := rfl
@[simp] theorem State.onCluster_boot (g : Cluster → Cluster) : (s.onCluster n g).boot = s.boot := rfl
@[simp] theorem State.onCluster_repair (g : Cluster → Cluster) : (s.onCluster n g).repair = s.repair := rfl
@[simp] theorem State.onCluster_fuses (g : Cluster → Cluster) : (s.onCluster n g).fuses = s.fuses := rfl
@[simp] theorem State.onCluster_trust (g : Cluster → Cluster) : (s.onCluster n g).trust = s.trust := rfl
@[simp] theorem State.onCluster_time (g : Cluster → Cluster) : (s.onCluster n g).time = s.time := rfl
@[simp] theorem State.onCluster_smbus (g : Cluster → Cluster) : (s.onCluster n g).smbus = s.smbus := rfl
@[simp] theorem State.onCluster_cdcExpired (g : Cluster → Cluster) : (s.onCluster n g).cdcExpired = s.cdcExpired := rfl
@[simp] theorem State.onCluster_cdcDown (g : Cluster → Cluster) : (s.onCluster n g).cdcDown = s.cdcDown := rfl
@[simp] theorem State.onCluster_log (g : Cluster → Cluster) : (s.onCluster n g).log = s.log := rfl
@[simp] theorem State.onCluster_accLog (g : Cluster → Cluster) : (s.onCluster n g).accLog = s.accLog := rfl
@[simp] theorem State.onCluster_vault (g : Cluster → Cluster) : (s.onCluster n g).vault = s.vault := rfl
@[simp] theorem State.onCluster_vaultCounters (g : Cluster → Cluster) : (s.onCluster n g).vaultCounters = s.vaultCounters := rfl
@[simp] theorem State.onCluster_vaultSeq (g : Cluster → Cluster) : (s.onCluster n g).vaultSeq = s.vaultSeq := rfl
@[simp] theorem State.onCluster_recordDue (g : Cluster → Cluster) : (s.onCluster n g).recordDue = s.recordDue := rfl
@[simp] theorem State.onCluster_dieTest (g : Cluster → Cluster) : (s.onCluster n g).dieTest = s.dieTest := rfl

@[simp] theorem State.onCluster_func (g : Cluster → Cluster) : (s.onCluster n g).func k = s.func k := rfl
@[simp] theorem State.onCluster_polder (g : Cluster → Cluster) : (s.onCluster n g).polder k = s.polder k := rfl
@[simp] theorem State.onCluster_halfDie (g : Cluster → Cluster) : (s.onCluster n g).halfDie k = s.halfDie k := rfl
@[simp] theorem State.onCluster_chan (g : Cluster → Cluster) : (s.onCluster n g).chan k = s.chan k := rfl
@[simp] theorem State.onCluster_engine (g : Cluster → Cluster) : (s.onCluster n g).engine k = s.engine k := rfl
@[simp] theorem State.onCluster_link (g : Cluster → Cluster) : (s.onCluster n g).link k = s.link k := rfl
@[simp] theorem State.onCluster_edgeCh (g : Cluster → Cluster) : (s.onCluster n g).edgeCh k = s.edgeCh k := rfl
@[simp] theorem State.onCluster_stack (g : Cluster → Cluster) : (s.onCluster n g).stack k = s.stack k := rfl
@[simp] theorem State.onCluster_basin (g : Cluster → Cluster) : (s.onCluster n g).basin k = s.basin k := rfl
@[simp] theorem State.onCluster_ucmDie (g : Cluster → Cluster) : (s.onCluster n g).ucmDie k = s.ucmDie k := rfl
@[simp] theorem State.onCluster_tcore (g : Cluster → Cluster) : (s.onCluster n g).tcore k = s.tcore k := rfl
@[simp] theorem State.onCluster_vcore (g : Cluster → Cluster) : (s.onCluster n g).vcore k = s.vcore k := rfl
@[simp] theorem State.onCluster_score (g : Cluster → Cluster) : (s.onCluster n g).score k = s.score k := rfl

/-- The unit itself changes, and no other of its kind. -/
@[simp] theorem State.onCluster_cluster (g : Cluster → Cluster) : (s.onCluster n g).cluster k = if n = k then g (s.cluster n) else s.cluster k := by
  simp [State.onCluster]

/-! ### EdgeCh -/

@[simp] theorem State.setEdgeCh_pending (x : EdgeCh) : (s.setEdgeCh n x).pending = s.pending := rfl
@[simp] theorem State.setEdgeCh_fresh (x : EdgeCh) : (s.setEdgeCh n x).fresh = s.fresh := rfl
@[simp] theorem State.setEdgeCh_slotPins (x : EdgeCh) : (s.setEdgeCh n x).slotPins = s.slotPins := rfl
@[simp] theorem State.setEdgeCh_pins (x : EdgeCh) : (s.setEdgeCh n x).pins = s.pins := rfl
@[simp] theorem State.setEdgeCh_hostMem (x : EdgeCh) : (s.setEdgeCh n x).hostMem = s.hostMem := rfl
@[simp] theorem State.setEdgeCh_hostErr (x : EdgeCh) : (s.setEdgeCh n x).hostErr = s.hostErr := rfl
@[simp] theorem State.setEdgeCh_reply (x : EdgeCh) : (s.setEdgeCh n x).reply = s.reply := rfl
@[simp] theorem State.setEdgeCh_lateReplies (x : EdgeCh) : (s.setEdgeCh n x).lateReplies = s.lateReplies := rfl
@[simp] theorem State.setEdgeCh_gathers (x : EdgeCh) : (s.setEdgeCh n x).gathers = s.gathers := rfl
@[simp] theorem State.setEdgeCh_gatherNo (x : EdgeCh) : (s.setEdgeCh n x).gatherNo = s.gatherNo := rfl
@[simp] theorem State.setEdgeCh_msixSent (x : EdgeCh) : (s.setEdgeCh n x).msixSent = s.msixSent := rfl
@[simp] theorem State.setEdgeCh_aerErrors (x : EdgeCh) : (s.setEdgeCh n x).aerErrors = s.aerErrors := rfl
@[simp] theorem State.setEdgeCh_tcores (x : EdgeCh) : (s.setEdgeCh n x).tcores = s.tcores := rfl
@[simp] theorem State.setEdgeCh_vcores (x : EdgeCh) : (s.setEdgeCh n x).vcores = s.vcores := rfl
@[simp] theorem State.setEdgeCh_scores (x : EdgeCh) : (s.setEdgeCh n x).scores = s.scores := rfl
@[simp] theorem State.setEdgeCh_clusters (x : EdgeCh) : (s.setEdgeCh n x).clusters = s.clusters := rfl
@[simp] theorem State.setEdgeCh_ucm (x : EdgeCh) : (s.setEdgeCh n x).ucm = s.ucm := rfl
@[simp] theorem State.setEdgeCh_ucmValid (x : EdgeCh) : (s.setEdgeCh n x).ucmValid = s.ucmValid := rfl
@[simp] theorem State.setEdgeCh_ucmBad (x : EdgeCh) : (s.setEdgeCh n x).ucmBad = s.ucmBad := rfl
@[simp] theorem State.setEdgeCh_ucmDies (x : EdgeCh) : (s.setEdgeCh n x).ucmDies = s.ucmDies := rfl
@[simp] theorem State.setEdgeCh_ucmScrub (x : EdgeCh) : (s.setEdgeCh n x).ucmScrub = s.ucmScrub := rfl
@[simp] theorem State.setEdgeCh_merges (x : EdgeCh) : (s.setEdgeCh n x).merges = s.merges := rfl
@[simp] theorem State.setEdgeCh_edge (x : EdgeCh) : (s.setEdgeCh n x).edge = s.edge := rfl
@[simp] theorem State.setEdgeCh_edgeBad (x : EdgeCh) : (s.setEdgeCh n x).edgeBad = s.edgeBad := rfl
@[simp] theorem State.setEdgeCh_edgeStacks (x : EdgeCh) : (s.setEdgeCh n x).edgeStacks = s.edgeStacks := rfl
@[simp] theorem State.setEdgeCh_basins (x : EdgeCh) : (s.setEdgeCh n x).basins = s.basins := rfl
@[simp] theorem State.setEdgeCh_intlvPkg (x : EdgeCh) : (s.setEdgeCh n x).intlvPkg = s.intlvPkg := rfl
@[simp] theorem State.setEdgeCh_kvBase (x : EdgeCh) : (s.setEdgeCh n x).kvBase = s.kvBase := rfl
@[simp] theorem State.setEdgeCh_kvStride (x : EdgeCh) : (s.setEdgeCh n x).kvStride = s.kvStride := rfl
@[simp] theorem State.setEdgeCh_kvSlots (x : EdgeCh) : (s.setEdgeCh n x).kvSlots = s.kvSlots := rfl
@[simp] theorem State.setEdgeCh_polders (x : EdgeCh) : (s.setEdgeCh n x).polders = s.polders := rfl
@[simp] theorem State.setEdgeCh_halfDies (x : EdgeCh) : (s.setEdgeCh n x).halfDies = s.halfDies := rfl
@[simp] theorem State.setEdgeCh_fencedCulverts (x : EdgeCh) : (s.setEdgeCh n x).fencedCulverts = s.fencedCulverts := rfl
@[simp] theorem State.setEdgeCh_narrowed (x : EdgeCh) : (s.setEdgeCh n x).narrowed = s.narrowed := rfl
@[simp] theorem State.setEdgeCh_funcs (x : EdgeCh) : (s.setEdgeCh n x).funcs = s.funcs := rfl
@[simp] theorem State.setEdgeCh_pcie (x : EdgeCh) : (s.setEdgeCh n x).pcie = s.pcie := rfl
@[simp] theorem State.setEdgeCh_bar4Win (x : EdgeCh) : (s.setEdgeCh n x).bar4Win = s.bar4Win := rfl
@[simp] theorem State.setEdgeCh_bar4Off (x : EdgeCh) : (s.setEdgeCh n x).bar4Off = s.bar4Off := rfl
@[simp] theorem State.setEdgeCh_vfMap (x : EdgeCh) : (s.setEdgeCh n x).vfMap = s.vfMap := rfl
@[simp] theorem State.setEdgeCh_accErr (x : EdgeCh) : (s.setEdgeCh n x).accErr = s.accErr := rfl
@[simp] theorem State.setEdgeCh_gates (x : EdgeCh) : (s.setEdgeCh n x).gates = s.gates := rfl
@[simp] theorem State.setEdgeCh_fgNo (x : EdgeCh) : (s.setEdgeCh n x).fgNo = s.fgNo := rfl
@[simp] theorem State.setEdgeCh_gateChannels (x : EdgeCh) : (s.setEdgeCh n x).gateChannels = s.gateChannels := rfl
@[simp] theorem State.setEdgeCh_gateEndedJob (x : EdgeCh) : (s.setEdgeCh n x).gateEndedJob = s.gateEndedJob := rfl
@[simp] theorem State.setEdgeCh_draining (x : EdgeCh) : (s.setEdgeCh n x).draining = s.draining := rfl
@[simp] theorem State.setEdgeCh_board (x : EdgeCh) : (s.setEdgeCh n x).board = s.board := rfl
@[simp] theorem State.setEdgeCh_boardLost (x : EdgeCh) : (s.setEdgeCh n x).boardLost = s.boardLost := rfl
@[simp] theorem State.setEdgeCh_boardErrors (x : EdgeCh) : (s.setEdgeCh n x).boardErrors = s.boardErrors := rfl
@[simp] theorem State.setEdgeCh_dma (x : EdgeCh) : (s.setEdgeCh n x).dma = s.dma := rfl
@[simp] theorem State.setEdgeCh_engines (x : EdgeCh) : (s.setEdgeCh n x).engines = s.engines := rfl
@[simp] theorem State.setEdgeCh_links (x : EdgeCh) : (s.setEdgeCh n x).links = s.links := rfl
@[simp] theorem State.setEdgeCh_fabricId (x : EdgeCh) : (s.setEdgeCh n x).fabricId = s.fabricId := rfl
@[simp] theorem State.setEdgeCh_windows (x : EdgeCh) : (s.setEdgeCh n x).windows = s.windows := rfl
@[simp] theorem State.setEdgeCh_inbound (x : EdgeCh) : (s.setEdgeCh n x).inbound = s.inbound := rfl
@[simp] theorem State.setEdgeCh_ledger (x : EdgeCh) : (s.setEdgeCh n x).ledger = s.ledger := rfl
@[simp] theorem State.setEdgeCh_thermal (x : EdgeCh) : (s.setEdgeCh n x).thermal = s.thermal := rfl
@[simp] theorem State.setEdgeCh_power (x : EdgeCh) : (s.setEdgeCh n x).power = s.power := rfl
@[simp] theorem State.setEdgeCh_boot (x : EdgeCh) : (s.setEdgeCh n x).boot = s.boot := rfl
@[simp] theorem State.setEdgeCh_repair (x : EdgeCh) : (s.setEdgeCh n x).repair = s.repair := rfl
@[simp] theorem State.setEdgeCh_fuses (x : EdgeCh) : (s.setEdgeCh n x).fuses = s.fuses := rfl
@[simp] theorem State.setEdgeCh_trust (x : EdgeCh) : (s.setEdgeCh n x).trust = s.trust := rfl
@[simp] theorem State.setEdgeCh_time (x : EdgeCh) : (s.setEdgeCh n x).time = s.time := rfl
@[simp] theorem State.setEdgeCh_smbus (x : EdgeCh) : (s.setEdgeCh n x).smbus = s.smbus := rfl
@[simp] theorem State.setEdgeCh_cdcExpired (x : EdgeCh) : (s.setEdgeCh n x).cdcExpired = s.cdcExpired := rfl
@[simp] theorem State.setEdgeCh_cdcDown (x : EdgeCh) : (s.setEdgeCh n x).cdcDown = s.cdcDown := rfl
@[simp] theorem State.setEdgeCh_log (x : EdgeCh) : (s.setEdgeCh n x).log = s.log := rfl
@[simp] theorem State.setEdgeCh_accLog (x : EdgeCh) : (s.setEdgeCh n x).accLog = s.accLog := rfl
@[simp] theorem State.setEdgeCh_vault (x : EdgeCh) : (s.setEdgeCh n x).vault = s.vault := rfl
@[simp] theorem State.setEdgeCh_vaultCounters (x : EdgeCh) : (s.setEdgeCh n x).vaultCounters = s.vaultCounters := rfl
@[simp] theorem State.setEdgeCh_vaultSeq (x : EdgeCh) : (s.setEdgeCh n x).vaultSeq = s.vaultSeq := rfl
@[simp] theorem State.setEdgeCh_recordDue (x : EdgeCh) : (s.setEdgeCh n x).recordDue = s.recordDue := rfl
@[simp] theorem State.setEdgeCh_dieTest (x : EdgeCh) : (s.setEdgeCh n x).dieTest = s.dieTest := rfl

@[simp] theorem State.setEdgeCh_func (x : EdgeCh) : (s.setEdgeCh n x).func k = s.func k := rfl
@[simp] theorem State.setEdgeCh_polder (x : EdgeCh) : (s.setEdgeCh n x).polder k = s.polder k := rfl
@[simp] theorem State.setEdgeCh_halfDie (x : EdgeCh) : (s.setEdgeCh n x).halfDie k = s.halfDie k := rfl
@[simp] theorem State.setEdgeCh_chan (x : EdgeCh) : (s.setEdgeCh n x).chan k = s.chan k := rfl
@[simp] theorem State.setEdgeCh_engine (x : EdgeCh) : (s.setEdgeCh n x).engine k = s.engine k := rfl
@[simp] theorem State.setEdgeCh_link (x : EdgeCh) : (s.setEdgeCh n x).link k = s.link k := rfl
@[simp] theorem State.setEdgeCh_cluster (x : EdgeCh) : (s.setEdgeCh n x).cluster k = s.cluster k := rfl
@[simp] theorem State.setEdgeCh_stack (x : EdgeCh) : (s.setEdgeCh n x).stack k = s.stack k := rfl
@[simp] theorem State.setEdgeCh_basin (x : EdgeCh) : (s.setEdgeCh n x).basin k = s.basin k := rfl
@[simp] theorem State.setEdgeCh_ucmDie (x : EdgeCh) : (s.setEdgeCh n x).ucmDie k = s.ucmDie k := rfl
@[simp] theorem State.setEdgeCh_tcore (x : EdgeCh) : (s.setEdgeCh n x).tcore k = s.tcore k := rfl
@[simp] theorem State.setEdgeCh_vcore (x : EdgeCh) : (s.setEdgeCh n x).vcore k = s.vcore k := rfl
@[simp] theorem State.setEdgeCh_score (x : EdgeCh) : (s.setEdgeCh n x).score k = s.score k := rfl

/-- The unit itself changes, and no other of its kind. -/
@[simp] theorem State.setEdgeCh_edgeCh (x : EdgeCh) : (s.setEdgeCh n x).edgeCh k = if n = k then x else s.edgeCh k := by
  simp [State.edgeCh, State.setEdgeCh]

@[simp] theorem State.onEdgeCh_pending (g : EdgeCh → EdgeCh) : (s.onEdgeCh n g).pending = s.pending := rfl
@[simp] theorem State.onEdgeCh_fresh (g : EdgeCh → EdgeCh) : (s.onEdgeCh n g).fresh = s.fresh := rfl
@[simp] theorem State.onEdgeCh_slotPins (g : EdgeCh → EdgeCh) : (s.onEdgeCh n g).slotPins = s.slotPins := rfl
@[simp] theorem State.onEdgeCh_pins (g : EdgeCh → EdgeCh) : (s.onEdgeCh n g).pins = s.pins := rfl
@[simp] theorem State.onEdgeCh_hostMem (g : EdgeCh → EdgeCh) : (s.onEdgeCh n g).hostMem = s.hostMem := rfl
@[simp] theorem State.onEdgeCh_hostErr (g : EdgeCh → EdgeCh) : (s.onEdgeCh n g).hostErr = s.hostErr := rfl
@[simp] theorem State.onEdgeCh_reply (g : EdgeCh → EdgeCh) : (s.onEdgeCh n g).reply = s.reply := rfl
@[simp] theorem State.onEdgeCh_lateReplies (g : EdgeCh → EdgeCh) : (s.onEdgeCh n g).lateReplies = s.lateReplies := rfl
@[simp] theorem State.onEdgeCh_gathers (g : EdgeCh → EdgeCh) : (s.onEdgeCh n g).gathers = s.gathers := rfl
@[simp] theorem State.onEdgeCh_gatherNo (g : EdgeCh → EdgeCh) : (s.onEdgeCh n g).gatherNo = s.gatherNo := rfl
@[simp] theorem State.onEdgeCh_msixSent (g : EdgeCh → EdgeCh) : (s.onEdgeCh n g).msixSent = s.msixSent := rfl
@[simp] theorem State.onEdgeCh_aerErrors (g : EdgeCh → EdgeCh) : (s.onEdgeCh n g).aerErrors = s.aerErrors := rfl
@[simp] theorem State.onEdgeCh_tcores (g : EdgeCh → EdgeCh) : (s.onEdgeCh n g).tcores = s.tcores := rfl
@[simp] theorem State.onEdgeCh_vcores (g : EdgeCh → EdgeCh) : (s.onEdgeCh n g).vcores = s.vcores := rfl
@[simp] theorem State.onEdgeCh_scores (g : EdgeCh → EdgeCh) : (s.onEdgeCh n g).scores = s.scores := rfl
@[simp] theorem State.onEdgeCh_clusters (g : EdgeCh → EdgeCh) : (s.onEdgeCh n g).clusters = s.clusters := rfl
@[simp] theorem State.onEdgeCh_ucm (g : EdgeCh → EdgeCh) : (s.onEdgeCh n g).ucm = s.ucm := rfl
@[simp] theorem State.onEdgeCh_ucmValid (g : EdgeCh → EdgeCh) : (s.onEdgeCh n g).ucmValid = s.ucmValid := rfl
@[simp] theorem State.onEdgeCh_ucmBad (g : EdgeCh → EdgeCh) : (s.onEdgeCh n g).ucmBad = s.ucmBad := rfl
@[simp] theorem State.onEdgeCh_ucmDies (g : EdgeCh → EdgeCh) : (s.onEdgeCh n g).ucmDies = s.ucmDies := rfl
@[simp] theorem State.onEdgeCh_ucmScrub (g : EdgeCh → EdgeCh) : (s.onEdgeCh n g).ucmScrub = s.ucmScrub := rfl
@[simp] theorem State.onEdgeCh_merges (g : EdgeCh → EdgeCh) : (s.onEdgeCh n g).merges = s.merges := rfl
@[simp] theorem State.onEdgeCh_edge (g : EdgeCh → EdgeCh) : (s.onEdgeCh n g).edge = s.edge := rfl
@[simp] theorem State.onEdgeCh_edgeBad (g : EdgeCh → EdgeCh) : (s.onEdgeCh n g).edgeBad = s.edgeBad := rfl
@[simp] theorem State.onEdgeCh_edgeStacks (g : EdgeCh → EdgeCh) : (s.onEdgeCh n g).edgeStacks = s.edgeStacks := rfl
@[simp] theorem State.onEdgeCh_basins (g : EdgeCh → EdgeCh) : (s.onEdgeCh n g).basins = s.basins := rfl
@[simp] theorem State.onEdgeCh_intlvPkg (g : EdgeCh → EdgeCh) : (s.onEdgeCh n g).intlvPkg = s.intlvPkg := rfl
@[simp] theorem State.onEdgeCh_kvBase (g : EdgeCh → EdgeCh) : (s.onEdgeCh n g).kvBase = s.kvBase := rfl
@[simp] theorem State.onEdgeCh_kvStride (g : EdgeCh → EdgeCh) : (s.onEdgeCh n g).kvStride = s.kvStride := rfl
@[simp] theorem State.onEdgeCh_kvSlots (g : EdgeCh → EdgeCh) : (s.onEdgeCh n g).kvSlots = s.kvSlots := rfl
@[simp] theorem State.onEdgeCh_polders (g : EdgeCh → EdgeCh) : (s.onEdgeCh n g).polders = s.polders := rfl
@[simp] theorem State.onEdgeCh_halfDies (g : EdgeCh → EdgeCh) : (s.onEdgeCh n g).halfDies = s.halfDies := rfl
@[simp] theorem State.onEdgeCh_fencedCulverts (g : EdgeCh → EdgeCh) : (s.onEdgeCh n g).fencedCulverts = s.fencedCulverts := rfl
@[simp] theorem State.onEdgeCh_narrowed (g : EdgeCh → EdgeCh) : (s.onEdgeCh n g).narrowed = s.narrowed := rfl
@[simp] theorem State.onEdgeCh_funcs (g : EdgeCh → EdgeCh) : (s.onEdgeCh n g).funcs = s.funcs := rfl
@[simp] theorem State.onEdgeCh_pcie (g : EdgeCh → EdgeCh) : (s.onEdgeCh n g).pcie = s.pcie := rfl
@[simp] theorem State.onEdgeCh_bar4Win (g : EdgeCh → EdgeCh) : (s.onEdgeCh n g).bar4Win = s.bar4Win := rfl
@[simp] theorem State.onEdgeCh_bar4Off (g : EdgeCh → EdgeCh) : (s.onEdgeCh n g).bar4Off = s.bar4Off := rfl
@[simp] theorem State.onEdgeCh_vfMap (g : EdgeCh → EdgeCh) : (s.onEdgeCh n g).vfMap = s.vfMap := rfl
@[simp] theorem State.onEdgeCh_accErr (g : EdgeCh → EdgeCh) : (s.onEdgeCh n g).accErr = s.accErr := rfl
@[simp] theorem State.onEdgeCh_gates (g : EdgeCh → EdgeCh) : (s.onEdgeCh n g).gates = s.gates := rfl
@[simp] theorem State.onEdgeCh_fgNo (g : EdgeCh → EdgeCh) : (s.onEdgeCh n g).fgNo = s.fgNo := rfl
@[simp] theorem State.onEdgeCh_gateChannels (g : EdgeCh → EdgeCh) : (s.onEdgeCh n g).gateChannels = s.gateChannels := rfl
@[simp] theorem State.onEdgeCh_gateEndedJob (g : EdgeCh → EdgeCh) : (s.onEdgeCh n g).gateEndedJob = s.gateEndedJob := rfl
@[simp] theorem State.onEdgeCh_draining (g : EdgeCh → EdgeCh) : (s.onEdgeCh n g).draining = s.draining := rfl
@[simp] theorem State.onEdgeCh_board (g : EdgeCh → EdgeCh) : (s.onEdgeCh n g).board = s.board := rfl
@[simp] theorem State.onEdgeCh_boardLost (g : EdgeCh → EdgeCh) : (s.onEdgeCh n g).boardLost = s.boardLost := rfl
@[simp] theorem State.onEdgeCh_boardErrors (g : EdgeCh → EdgeCh) : (s.onEdgeCh n g).boardErrors = s.boardErrors := rfl
@[simp] theorem State.onEdgeCh_dma (g : EdgeCh → EdgeCh) : (s.onEdgeCh n g).dma = s.dma := rfl
@[simp] theorem State.onEdgeCh_engines (g : EdgeCh → EdgeCh) : (s.onEdgeCh n g).engines = s.engines := rfl
@[simp] theorem State.onEdgeCh_links (g : EdgeCh → EdgeCh) : (s.onEdgeCh n g).links = s.links := rfl
@[simp] theorem State.onEdgeCh_fabricId (g : EdgeCh → EdgeCh) : (s.onEdgeCh n g).fabricId = s.fabricId := rfl
@[simp] theorem State.onEdgeCh_windows (g : EdgeCh → EdgeCh) : (s.onEdgeCh n g).windows = s.windows := rfl
@[simp] theorem State.onEdgeCh_inbound (g : EdgeCh → EdgeCh) : (s.onEdgeCh n g).inbound = s.inbound := rfl
@[simp] theorem State.onEdgeCh_ledger (g : EdgeCh → EdgeCh) : (s.onEdgeCh n g).ledger = s.ledger := rfl
@[simp] theorem State.onEdgeCh_thermal (g : EdgeCh → EdgeCh) : (s.onEdgeCh n g).thermal = s.thermal := rfl
@[simp] theorem State.onEdgeCh_power (g : EdgeCh → EdgeCh) : (s.onEdgeCh n g).power = s.power := rfl
@[simp] theorem State.onEdgeCh_boot (g : EdgeCh → EdgeCh) : (s.onEdgeCh n g).boot = s.boot := rfl
@[simp] theorem State.onEdgeCh_repair (g : EdgeCh → EdgeCh) : (s.onEdgeCh n g).repair = s.repair := rfl
@[simp] theorem State.onEdgeCh_fuses (g : EdgeCh → EdgeCh) : (s.onEdgeCh n g).fuses = s.fuses := rfl
@[simp] theorem State.onEdgeCh_trust (g : EdgeCh → EdgeCh) : (s.onEdgeCh n g).trust = s.trust := rfl
@[simp] theorem State.onEdgeCh_time (g : EdgeCh → EdgeCh) : (s.onEdgeCh n g).time = s.time := rfl
@[simp] theorem State.onEdgeCh_smbus (g : EdgeCh → EdgeCh) : (s.onEdgeCh n g).smbus = s.smbus := rfl
@[simp] theorem State.onEdgeCh_cdcExpired (g : EdgeCh → EdgeCh) : (s.onEdgeCh n g).cdcExpired = s.cdcExpired := rfl
@[simp] theorem State.onEdgeCh_cdcDown (g : EdgeCh → EdgeCh) : (s.onEdgeCh n g).cdcDown = s.cdcDown := rfl
@[simp] theorem State.onEdgeCh_log (g : EdgeCh → EdgeCh) : (s.onEdgeCh n g).log = s.log := rfl
@[simp] theorem State.onEdgeCh_accLog (g : EdgeCh → EdgeCh) : (s.onEdgeCh n g).accLog = s.accLog := rfl
@[simp] theorem State.onEdgeCh_vault (g : EdgeCh → EdgeCh) : (s.onEdgeCh n g).vault = s.vault := rfl
@[simp] theorem State.onEdgeCh_vaultCounters (g : EdgeCh → EdgeCh) : (s.onEdgeCh n g).vaultCounters = s.vaultCounters := rfl
@[simp] theorem State.onEdgeCh_vaultSeq (g : EdgeCh → EdgeCh) : (s.onEdgeCh n g).vaultSeq = s.vaultSeq := rfl
@[simp] theorem State.onEdgeCh_recordDue (g : EdgeCh → EdgeCh) : (s.onEdgeCh n g).recordDue = s.recordDue := rfl
@[simp] theorem State.onEdgeCh_dieTest (g : EdgeCh → EdgeCh) : (s.onEdgeCh n g).dieTest = s.dieTest := rfl

@[simp] theorem State.onEdgeCh_func (g : EdgeCh → EdgeCh) : (s.onEdgeCh n g).func k = s.func k := rfl
@[simp] theorem State.onEdgeCh_polder (g : EdgeCh → EdgeCh) : (s.onEdgeCh n g).polder k = s.polder k := rfl
@[simp] theorem State.onEdgeCh_halfDie (g : EdgeCh → EdgeCh) : (s.onEdgeCh n g).halfDie k = s.halfDie k := rfl
@[simp] theorem State.onEdgeCh_chan (g : EdgeCh → EdgeCh) : (s.onEdgeCh n g).chan k = s.chan k := rfl
@[simp] theorem State.onEdgeCh_engine (g : EdgeCh → EdgeCh) : (s.onEdgeCh n g).engine k = s.engine k := rfl
@[simp] theorem State.onEdgeCh_link (g : EdgeCh → EdgeCh) : (s.onEdgeCh n g).link k = s.link k := rfl
@[simp] theorem State.onEdgeCh_cluster (g : EdgeCh → EdgeCh) : (s.onEdgeCh n g).cluster k = s.cluster k := rfl
@[simp] theorem State.onEdgeCh_stack (g : EdgeCh → EdgeCh) : (s.onEdgeCh n g).stack k = s.stack k := rfl
@[simp] theorem State.onEdgeCh_basin (g : EdgeCh → EdgeCh) : (s.onEdgeCh n g).basin k = s.basin k := rfl
@[simp] theorem State.onEdgeCh_ucmDie (g : EdgeCh → EdgeCh) : (s.onEdgeCh n g).ucmDie k = s.ucmDie k := rfl
@[simp] theorem State.onEdgeCh_tcore (g : EdgeCh → EdgeCh) : (s.onEdgeCh n g).tcore k = s.tcore k := rfl
@[simp] theorem State.onEdgeCh_vcore (g : EdgeCh → EdgeCh) : (s.onEdgeCh n g).vcore k = s.vcore k := rfl
@[simp] theorem State.onEdgeCh_score (g : EdgeCh → EdgeCh) : (s.onEdgeCh n g).score k = s.score k := rfl

/-- The unit itself changes, and no other of its kind. -/
@[simp] theorem State.onEdgeCh_edgeCh (g : EdgeCh → EdgeCh) : (s.onEdgeCh n g).edgeCh k = if n = k then g (s.edgeCh n) else s.edgeCh k := by
  simp [State.onEdgeCh]

/-! ### Stack -/

@[simp] theorem State.onStack_pending (g : Stack → Stack) : (s.onStack n g).pending = s.pending := rfl
@[simp] theorem State.onStack_fresh (g : Stack → Stack) : (s.onStack n g).fresh = s.fresh := rfl
@[simp] theorem State.onStack_slotPins (g : Stack → Stack) : (s.onStack n g).slotPins = s.slotPins := rfl
@[simp] theorem State.onStack_pins (g : Stack → Stack) : (s.onStack n g).pins = s.pins := rfl
@[simp] theorem State.onStack_hostMem (g : Stack → Stack) : (s.onStack n g).hostMem = s.hostMem := rfl
@[simp] theorem State.onStack_hostErr (g : Stack → Stack) : (s.onStack n g).hostErr = s.hostErr := rfl
@[simp] theorem State.onStack_reply (g : Stack → Stack) : (s.onStack n g).reply = s.reply := rfl
@[simp] theorem State.onStack_lateReplies (g : Stack → Stack) : (s.onStack n g).lateReplies = s.lateReplies := rfl
@[simp] theorem State.onStack_gathers (g : Stack → Stack) : (s.onStack n g).gathers = s.gathers := rfl
@[simp] theorem State.onStack_gatherNo (g : Stack → Stack) : (s.onStack n g).gatherNo = s.gatherNo := rfl
@[simp] theorem State.onStack_msixSent (g : Stack → Stack) : (s.onStack n g).msixSent = s.msixSent := rfl
@[simp] theorem State.onStack_aerErrors (g : Stack → Stack) : (s.onStack n g).aerErrors = s.aerErrors := rfl
@[simp] theorem State.onStack_tcores (g : Stack → Stack) : (s.onStack n g).tcores = s.tcores := rfl
@[simp] theorem State.onStack_vcores (g : Stack → Stack) : (s.onStack n g).vcores = s.vcores := rfl
@[simp] theorem State.onStack_scores (g : Stack → Stack) : (s.onStack n g).scores = s.scores := rfl
@[simp] theorem State.onStack_clusters (g : Stack → Stack) : (s.onStack n g).clusters = s.clusters := rfl
@[simp] theorem State.onStack_ucm (g : Stack → Stack) : (s.onStack n g).ucm = s.ucm := rfl
@[simp] theorem State.onStack_ucmValid (g : Stack → Stack) : (s.onStack n g).ucmValid = s.ucmValid := rfl
@[simp] theorem State.onStack_ucmBad (g : Stack → Stack) : (s.onStack n g).ucmBad = s.ucmBad := rfl
@[simp] theorem State.onStack_ucmDies (g : Stack → Stack) : (s.onStack n g).ucmDies = s.ucmDies := rfl
@[simp] theorem State.onStack_ucmScrub (g : Stack → Stack) : (s.onStack n g).ucmScrub = s.ucmScrub := rfl
@[simp] theorem State.onStack_merges (g : Stack → Stack) : (s.onStack n g).merges = s.merges := rfl
@[simp] theorem State.onStack_edge (g : Stack → Stack) : (s.onStack n g).edge = s.edge := rfl
@[simp] theorem State.onStack_edgeBad (g : Stack → Stack) : (s.onStack n g).edgeBad = s.edgeBad := rfl
@[simp] theorem State.onStack_channels (g : Stack → Stack) : (s.onStack n g).channels = s.channels := rfl
@[simp] theorem State.onStack_basins (g : Stack → Stack) : (s.onStack n g).basins = s.basins := rfl
@[simp] theorem State.onStack_intlvPkg (g : Stack → Stack) : (s.onStack n g).intlvPkg = s.intlvPkg := rfl
@[simp] theorem State.onStack_kvBase (g : Stack → Stack) : (s.onStack n g).kvBase = s.kvBase := rfl
@[simp] theorem State.onStack_kvStride (g : Stack → Stack) : (s.onStack n g).kvStride = s.kvStride := rfl
@[simp] theorem State.onStack_kvSlots (g : Stack → Stack) : (s.onStack n g).kvSlots = s.kvSlots := rfl
@[simp] theorem State.onStack_polders (g : Stack → Stack) : (s.onStack n g).polders = s.polders := rfl
@[simp] theorem State.onStack_halfDies (g : Stack → Stack) : (s.onStack n g).halfDies = s.halfDies := rfl
@[simp] theorem State.onStack_fencedCulverts (g : Stack → Stack) : (s.onStack n g).fencedCulverts = s.fencedCulverts := rfl
@[simp] theorem State.onStack_narrowed (g : Stack → Stack) : (s.onStack n g).narrowed = s.narrowed := rfl
@[simp] theorem State.onStack_funcs (g : Stack → Stack) : (s.onStack n g).funcs = s.funcs := rfl
@[simp] theorem State.onStack_pcie (g : Stack → Stack) : (s.onStack n g).pcie = s.pcie := rfl
@[simp] theorem State.onStack_bar4Win (g : Stack → Stack) : (s.onStack n g).bar4Win = s.bar4Win := rfl
@[simp] theorem State.onStack_bar4Off (g : Stack → Stack) : (s.onStack n g).bar4Off = s.bar4Off := rfl
@[simp] theorem State.onStack_vfMap (g : Stack → Stack) : (s.onStack n g).vfMap = s.vfMap := rfl
@[simp] theorem State.onStack_accErr (g : Stack → Stack) : (s.onStack n g).accErr = s.accErr := rfl
@[simp] theorem State.onStack_gates (g : Stack → Stack) : (s.onStack n g).gates = s.gates := rfl
@[simp] theorem State.onStack_fgNo (g : Stack → Stack) : (s.onStack n g).fgNo = s.fgNo := rfl
@[simp] theorem State.onStack_gateChannels (g : Stack → Stack) : (s.onStack n g).gateChannels = s.gateChannels := rfl
@[simp] theorem State.onStack_gateEndedJob (g : Stack → Stack) : (s.onStack n g).gateEndedJob = s.gateEndedJob := rfl
@[simp] theorem State.onStack_draining (g : Stack → Stack) : (s.onStack n g).draining = s.draining := rfl
@[simp] theorem State.onStack_board (g : Stack → Stack) : (s.onStack n g).board = s.board := rfl
@[simp] theorem State.onStack_boardLost (g : Stack → Stack) : (s.onStack n g).boardLost = s.boardLost := rfl
@[simp] theorem State.onStack_boardErrors (g : Stack → Stack) : (s.onStack n g).boardErrors = s.boardErrors := rfl
@[simp] theorem State.onStack_dma (g : Stack → Stack) : (s.onStack n g).dma = s.dma := rfl
@[simp] theorem State.onStack_engines (g : Stack → Stack) : (s.onStack n g).engines = s.engines := rfl
@[simp] theorem State.onStack_links (g : Stack → Stack) : (s.onStack n g).links = s.links := rfl
@[simp] theorem State.onStack_fabricId (g : Stack → Stack) : (s.onStack n g).fabricId = s.fabricId := rfl
@[simp] theorem State.onStack_windows (g : Stack → Stack) : (s.onStack n g).windows = s.windows := rfl
@[simp] theorem State.onStack_inbound (g : Stack → Stack) : (s.onStack n g).inbound = s.inbound := rfl
@[simp] theorem State.onStack_ledger (g : Stack → Stack) : (s.onStack n g).ledger = s.ledger := rfl
@[simp] theorem State.onStack_thermal (g : Stack → Stack) : (s.onStack n g).thermal = s.thermal := rfl
@[simp] theorem State.onStack_power (g : Stack → Stack) : (s.onStack n g).power = s.power := rfl
@[simp] theorem State.onStack_boot (g : Stack → Stack) : (s.onStack n g).boot = s.boot := rfl
@[simp] theorem State.onStack_repair (g : Stack → Stack) : (s.onStack n g).repair = s.repair := rfl
@[simp] theorem State.onStack_fuses (g : Stack → Stack) : (s.onStack n g).fuses = s.fuses := rfl
@[simp] theorem State.onStack_trust (g : Stack → Stack) : (s.onStack n g).trust = s.trust := rfl
@[simp] theorem State.onStack_time (g : Stack → Stack) : (s.onStack n g).time = s.time := rfl
@[simp] theorem State.onStack_smbus (g : Stack → Stack) : (s.onStack n g).smbus = s.smbus := rfl
@[simp] theorem State.onStack_cdcExpired (g : Stack → Stack) : (s.onStack n g).cdcExpired = s.cdcExpired := rfl
@[simp] theorem State.onStack_cdcDown (g : Stack → Stack) : (s.onStack n g).cdcDown = s.cdcDown := rfl
@[simp] theorem State.onStack_log (g : Stack → Stack) : (s.onStack n g).log = s.log := rfl
@[simp] theorem State.onStack_accLog (g : Stack → Stack) : (s.onStack n g).accLog = s.accLog := rfl
@[simp] theorem State.onStack_vault (g : Stack → Stack) : (s.onStack n g).vault = s.vault := rfl
@[simp] theorem State.onStack_vaultCounters (g : Stack → Stack) : (s.onStack n g).vaultCounters = s.vaultCounters := rfl
@[simp] theorem State.onStack_vaultSeq (g : Stack → Stack) : (s.onStack n g).vaultSeq = s.vaultSeq := rfl
@[simp] theorem State.onStack_recordDue (g : Stack → Stack) : (s.onStack n g).recordDue = s.recordDue := rfl
@[simp] theorem State.onStack_dieTest (g : Stack → Stack) : (s.onStack n g).dieTest = s.dieTest := rfl

@[simp] theorem State.onStack_func (g : Stack → Stack) : (s.onStack n g).func k = s.func k := rfl
@[simp] theorem State.onStack_polder (g : Stack → Stack) : (s.onStack n g).polder k = s.polder k := rfl
@[simp] theorem State.onStack_halfDie (g : Stack → Stack) : (s.onStack n g).halfDie k = s.halfDie k := rfl
@[simp] theorem State.onStack_chan (g : Stack → Stack) : (s.onStack n g).chan k = s.chan k := rfl
@[simp] theorem State.onStack_engine (g : Stack → Stack) : (s.onStack n g).engine k = s.engine k := rfl
@[simp] theorem State.onStack_link (g : Stack → Stack) : (s.onStack n g).link k = s.link k := rfl
@[simp] theorem State.onStack_cluster (g : Stack → Stack) : (s.onStack n g).cluster k = s.cluster k := rfl
@[simp] theorem State.onStack_edgeCh (g : Stack → Stack) : (s.onStack n g).edgeCh k = s.edgeCh k := rfl
@[simp] theorem State.onStack_basin (g : Stack → Stack) : (s.onStack n g).basin k = s.basin k := rfl
@[simp] theorem State.onStack_ucmDie (g : Stack → Stack) : (s.onStack n g).ucmDie k = s.ucmDie k := rfl
@[simp] theorem State.onStack_tcore (g : Stack → Stack) : (s.onStack n g).tcore k = s.tcore k := rfl
@[simp] theorem State.onStack_vcore (g : Stack → Stack) : (s.onStack n g).vcore k = s.vcore k := rfl
@[simp] theorem State.onStack_score (g : Stack → Stack) : (s.onStack n g).score k = s.score k := rfl

/-- The unit itself changes, and no other of its kind. -/
@[simp] theorem State.onStack_stack (g : Stack → Stack) : (s.onStack n g).stack k = if n = k then g (s.stack n) else s.stack k := by
  simp [State.stack, State.onStack]

/-! ### Basin -/

@[simp] theorem State.onBasin_pending (g : Basin → Basin) : (s.onBasin n g).pending = s.pending := rfl
@[simp] theorem State.onBasin_fresh (g : Basin → Basin) : (s.onBasin n g).fresh = s.fresh := rfl
@[simp] theorem State.onBasin_slotPins (g : Basin → Basin) : (s.onBasin n g).slotPins = s.slotPins := rfl
@[simp] theorem State.onBasin_pins (g : Basin → Basin) : (s.onBasin n g).pins = s.pins := rfl
@[simp] theorem State.onBasin_hostMem (g : Basin → Basin) : (s.onBasin n g).hostMem = s.hostMem := rfl
@[simp] theorem State.onBasin_hostErr (g : Basin → Basin) : (s.onBasin n g).hostErr = s.hostErr := rfl
@[simp] theorem State.onBasin_reply (g : Basin → Basin) : (s.onBasin n g).reply = s.reply := rfl
@[simp] theorem State.onBasin_lateReplies (g : Basin → Basin) : (s.onBasin n g).lateReplies = s.lateReplies := rfl
@[simp] theorem State.onBasin_gathers (g : Basin → Basin) : (s.onBasin n g).gathers = s.gathers := rfl
@[simp] theorem State.onBasin_gatherNo (g : Basin → Basin) : (s.onBasin n g).gatherNo = s.gatherNo := rfl
@[simp] theorem State.onBasin_msixSent (g : Basin → Basin) : (s.onBasin n g).msixSent = s.msixSent := rfl
@[simp] theorem State.onBasin_aerErrors (g : Basin → Basin) : (s.onBasin n g).aerErrors = s.aerErrors := rfl
@[simp] theorem State.onBasin_tcores (g : Basin → Basin) : (s.onBasin n g).tcores = s.tcores := rfl
@[simp] theorem State.onBasin_vcores (g : Basin → Basin) : (s.onBasin n g).vcores = s.vcores := rfl
@[simp] theorem State.onBasin_scores (g : Basin → Basin) : (s.onBasin n g).scores = s.scores := rfl
@[simp] theorem State.onBasin_clusters (g : Basin → Basin) : (s.onBasin n g).clusters = s.clusters := rfl
@[simp] theorem State.onBasin_ucm (g : Basin → Basin) : (s.onBasin n g).ucm = s.ucm := rfl
@[simp] theorem State.onBasin_ucmValid (g : Basin → Basin) : (s.onBasin n g).ucmValid = s.ucmValid := rfl
@[simp] theorem State.onBasin_ucmBad (g : Basin → Basin) : (s.onBasin n g).ucmBad = s.ucmBad := rfl
@[simp] theorem State.onBasin_ucmDies (g : Basin → Basin) : (s.onBasin n g).ucmDies = s.ucmDies := rfl
@[simp] theorem State.onBasin_ucmScrub (g : Basin → Basin) : (s.onBasin n g).ucmScrub = s.ucmScrub := rfl
@[simp] theorem State.onBasin_merges (g : Basin → Basin) : (s.onBasin n g).merges = s.merges := rfl
@[simp] theorem State.onBasin_edge (g : Basin → Basin) : (s.onBasin n g).edge = s.edge := rfl
@[simp] theorem State.onBasin_edgeBad (g : Basin → Basin) : (s.onBasin n g).edgeBad = s.edgeBad := rfl
@[simp] theorem State.onBasin_channels (g : Basin → Basin) : (s.onBasin n g).channels = s.channels := rfl
@[simp] theorem State.onBasin_edgeStacks (g : Basin → Basin) : (s.onBasin n g).edgeStacks = s.edgeStacks := rfl
@[simp] theorem State.onBasin_intlvPkg (g : Basin → Basin) : (s.onBasin n g).intlvPkg = s.intlvPkg := rfl
@[simp] theorem State.onBasin_kvBase (g : Basin → Basin) : (s.onBasin n g).kvBase = s.kvBase := rfl
@[simp] theorem State.onBasin_kvStride (g : Basin → Basin) : (s.onBasin n g).kvStride = s.kvStride := rfl
@[simp] theorem State.onBasin_kvSlots (g : Basin → Basin) : (s.onBasin n g).kvSlots = s.kvSlots := rfl
@[simp] theorem State.onBasin_polders (g : Basin → Basin) : (s.onBasin n g).polders = s.polders := rfl
@[simp] theorem State.onBasin_halfDies (g : Basin → Basin) : (s.onBasin n g).halfDies = s.halfDies := rfl
@[simp] theorem State.onBasin_fencedCulverts (g : Basin → Basin) : (s.onBasin n g).fencedCulverts = s.fencedCulverts := rfl
@[simp] theorem State.onBasin_narrowed (g : Basin → Basin) : (s.onBasin n g).narrowed = s.narrowed := rfl
@[simp] theorem State.onBasin_funcs (g : Basin → Basin) : (s.onBasin n g).funcs = s.funcs := rfl
@[simp] theorem State.onBasin_pcie (g : Basin → Basin) : (s.onBasin n g).pcie = s.pcie := rfl
@[simp] theorem State.onBasin_bar4Win (g : Basin → Basin) : (s.onBasin n g).bar4Win = s.bar4Win := rfl
@[simp] theorem State.onBasin_bar4Off (g : Basin → Basin) : (s.onBasin n g).bar4Off = s.bar4Off := rfl
@[simp] theorem State.onBasin_vfMap (g : Basin → Basin) : (s.onBasin n g).vfMap = s.vfMap := rfl
@[simp] theorem State.onBasin_accErr (g : Basin → Basin) : (s.onBasin n g).accErr = s.accErr := rfl
@[simp] theorem State.onBasin_gates (g : Basin → Basin) : (s.onBasin n g).gates = s.gates := rfl
@[simp] theorem State.onBasin_fgNo (g : Basin → Basin) : (s.onBasin n g).fgNo = s.fgNo := rfl
@[simp] theorem State.onBasin_gateChannels (g : Basin → Basin) : (s.onBasin n g).gateChannels = s.gateChannels := rfl
@[simp] theorem State.onBasin_gateEndedJob (g : Basin → Basin) : (s.onBasin n g).gateEndedJob = s.gateEndedJob := rfl
@[simp] theorem State.onBasin_draining (g : Basin → Basin) : (s.onBasin n g).draining = s.draining := rfl
@[simp] theorem State.onBasin_board (g : Basin → Basin) : (s.onBasin n g).board = s.board := rfl
@[simp] theorem State.onBasin_boardLost (g : Basin → Basin) : (s.onBasin n g).boardLost = s.boardLost := rfl
@[simp] theorem State.onBasin_boardErrors (g : Basin → Basin) : (s.onBasin n g).boardErrors = s.boardErrors := rfl
@[simp] theorem State.onBasin_dma (g : Basin → Basin) : (s.onBasin n g).dma = s.dma := rfl
@[simp] theorem State.onBasin_engines (g : Basin → Basin) : (s.onBasin n g).engines = s.engines := rfl
@[simp] theorem State.onBasin_links (g : Basin → Basin) : (s.onBasin n g).links = s.links := rfl
@[simp] theorem State.onBasin_fabricId (g : Basin → Basin) : (s.onBasin n g).fabricId = s.fabricId := rfl
@[simp] theorem State.onBasin_windows (g : Basin → Basin) : (s.onBasin n g).windows = s.windows := rfl
@[simp] theorem State.onBasin_inbound (g : Basin → Basin) : (s.onBasin n g).inbound = s.inbound := rfl
@[simp] theorem State.onBasin_ledger (g : Basin → Basin) : (s.onBasin n g).ledger = s.ledger := rfl
@[simp] theorem State.onBasin_thermal (g : Basin → Basin) : (s.onBasin n g).thermal = s.thermal := rfl
@[simp] theorem State.onBasin_power (g : Basin → Basin) : (s.onBasin n g).power = s.power := rfl
@[simp] theorem State.onBasin_boot (g : Basin → Basin) : (s.onBasin n g).boot = s.boot := rfl
@[simp] theorem State.onBasin_repair (g : Basin → Basin) : (s.onBasin n g).repair = s.repair := rfl
@[simp] theorem State.onBasin_fuses (g : Basin → Basin) : (s.onBasin n g).fuses = s.fuses := rfl
@[simp] theorem State.onBasin_trust (g : Basin → Basin) : (s.onBasin n g).trust = s.trust := rfl
@[simp] theorem State.onBasin_time (g : Basin → Basin) : (s.onBasin n g).time = s.time := rfl
@[simp] theorem State.onBasin_smbus (g : Basin → Basin) : (s.onBasin n g).smbus = s.smbus := rfl
@[simp] theorem State.onBasin_cdcExpired (g : Basin → Basin) : (s.onBasin n g).cdcExpired = s.cdcExpired := rfl
@[simp] theorem State.onBasin_cdcDown (g : Basin → Basin) : (s.onBasin n g).cdcDown = s.cdcDown := rfl
@[simp] theorem State.onBasin_log (g : Basin → Basin) : (s.onBasin n g).log = s.log := rfl
@[simp] theorem State.onBasin_accLog (g : Basin → Basin) : (s.onBasin n g).accLog = s.accLog := rfl
@[simp] theorem State.onBasin_vault (g : Basin → Basin) : (s.onBasin n g).vault = s.vault := rfl
@[simp] theorem State.onBasin_vaultCounters (g : Basin → Basin) : (s.onBasin n g).vaultCounters = s.vaultCounters := rfl
@[simp] theorem State.onBasin_vaultSeq (g : Basin → Basin) : (s.onBasin n g).vaultSeq = s.vaultSeq := rfl
@[simp] theorem State.onBasin_recordDue (g : Basin → Basin) : (s.onBasin n g).recordDue = s.recordDue := rfl
@[simp] theorem State.onBasin_dieTest (g : Basin → Basin) : (s.onBasin n g).dieTest = s.dieTest := rfl

@[simp] theorem State.onBasin_func (g : Basin → Basin) : (s.onBasin n g).func k = s.func k := rfl
@[simp] theorem State.onBasin_polder (g : Basin → Basin) : (s.onBasin n g).polder k = s.polder k := rfl
@[simp] theorem State.onBasin_halfDie (g : Basin → Basin) : (s.onBasin n g).halfDie k = s.halfDie k := rfl
@[simp] theorem State.onBasin_chan (g : Basin → Basin) : (s.onBasin n g).chan k = s.chan k := rfl
@[simp] theorem State.onBasin_engine (g : Basin → Basin) : (s.onBasin n g).engine k = s.engine k := rfl
@[simp] theorem State.onBasin_link (g : Basin → Basin) : (s.onBasin n g).link k = s.link k := rfl
@[simp] theorem State.onBasin_cluster (g : Basin → Basin) : (s.onBasin n g).cluster k = s.cluster k := rfl
@[simp] theorem State.onBasin_edgeCh (g : Basin → Basin) : (s.onBasin n g).edgeCh k = s.edgeCh k := rfl
@[simp] theorem State.onBasin_stack (g : Basin → Basin) : (s.onBasin n g).stack k = s.stack k := rfl
@[simp] theorem State.onBasin_ucmDie (g : Basin → Basin) : (s.onBasin n g).ucmDie k = s.ucmDie k := rfl
@[simp] theorem State.onBasin_tcore (g : Basin → Basin) : (s.onBasin n g).tcore k = s.tcore k := rfl
@[simp] theorem State.onBasin_vcore (g : Basin → Basin) : (s.onBasin n g).vcore k = s.vcore k := rfl
@[simp] theorem State.onBasin_score (g : Basin → Basin) : (s.onBasin n g).score k = s.score k := rfl

/-- The unit itself changes, and no other of its kind. -/
@[simp] theorem State.onBasin_basin (g : Basin → Basin) : (s.onBasin n g).basin k = if n = k then g (s.basin n) else s.basin k := by
  simp [State.basin, State.onBasin]

/-! ### UcmDie -/

@[simp] theorem State.onUcmDie_pending (g : UcmDie → UcmDie) : (s.onUcmDie n g).pending = s.pending := rfl
@[simp] theorem State.onUcmDie_fresh (g : UcmDie → UcmDie) : (s.onUcmDie n g).fresh = s.fresh := rfl
@[simp] theorem State.onUcmDie_slotPins (g : UcmDie → UcmDie) : (s.onUcmDie n g).slotPins = s.slotPins := rfl
@[simp] theorem State.onUcmDie_pins (g : UcmDie → UcmDie) : (s.onUcmDie n g).pins = s.pins := rfl
@[simp] theorem State.onUcmDie_hostMem (g : UcmDie → UcmDie) : (s.onUcmDie n g).hostMem = s.hostMem := rfl
@[simp] theorem State.onUcmDie_hostErr (g : UcmDie → UcmDie) : (s.onUcmDie n g).hostErr = s.hostErr := rfl
@[simp] theorem State.onUcmDie_reply (g : UcmDie → UcmDie) : (s.onUcmDie n g).reply = s.reply := rfl
@[simp] theorem State.onUcmDie_lateReplies (g : UcmDie → UcmDie) : (s.onUcmDie n g).lateReplies = s.lateReplies := rfl
@[simp] theorem State.onUcmDie_gathers (g : UcmDie → UcmDie) : (s.onUcmDie n g).gathers = s.gathers := rfl
@[simp] theorem State.onUcmDie_gatherNo (g : UcmDie → UcmDie) : (s.onUcmDie n g).gatherNo = s.gatherNo := rfl
@[simp] theorem State.onUcmDie_msixSent (g : UcmDie → UcmDie) : (s.onUcmDie n g).msixSent = s.msixSent := rfl
@[simp] theorem State.onUcmDie_aerErrors (g : UcmDie → UcmDie) : (s.onUcmDie n g).aerErrors = s.aerErrors := rfl
@[simp] theorem State.onUcmDie_tcores (g : UcmDie → UcmDie) : (s.onUcmDie n g).tcores = s.tcores := rfl
@[simp] theorem State.onUcmDie_vcores (g : UcmDie → UcmDie) : (s.onUcmDie n g).vcores = s.vcores := rfl
@[simp] theorem State.onUcmDie_scores (g : UcmDie → UcmDie) : (s.onUcmDie n g).scores = s.scores := rfl
@[simp] theorem State.onUcmDie_clusters (g : UcmDie → UcmDie) : (s.onUcmDie n g).clusters = s.clusters := rfl
@[simp] theorem State.onUcmDie_ucm (g : UcmDie → UcmDie) : (s.onUcmDie n g).ucm = s.ucm := rfl
@[simp] theorem State.onUcmDie_ucmValid (g : UcmDie → UcmDie) : (s.onUcmDie n g).ucmValid = s.ucmValid := rfl
@[simp] theorem State.onUcmDie_ucmBad (g : UcmDie → UcmDie) : (s.onUcmDie n g).ucmBad = s.ucmBad := rfl
@[simp] theorem State.onUcmDie_ucmScrub (g : UcmDie → UcmDie) : (s.onUcmDie n g).ucmScrub = s.ucmScrub := rfl
@[simp] theorem State.onUcmDie_merges (g : UcmDie → UcmDie) : (s.onUcmDie n g).merges = s.merges := rfl
@[simp] theorem State.onUcmDie_edge (g : UcmDie → UcmDie) : (s.onUcmDie n g).edge = s.edge := rfl
@[simp] theorem State.onUcmDie_edgeBad (g : UcmDie → UcmDie) : (s.onUcmDie n g).edgeBad = s.edgeBad := rfl
@[simp] theorem State.onUcmDie_channels (g : UcmDie → UcmDie) : (s.onUcmDie n g).channels = s.channels := rfl
@[simp] theorem State.onUcmDie_edgeStacks (g : UcmDie → UcmDie) : (s.onUcmDie n g).edgeStacks = s.edgeStacks := rfl
@[simp] theorem State.onUcmDie_basins (g : UcmDie → UcmDie) : (s.onUcmDie n g).basins = s.basins := rfl
@[simp] theorem State.onUcmDie_intlvPkg (g : UcmDie → UcmDie) : (s.onUcmDie n g).intlvPkg = s.intlvPkg := rfl
@[simp] theorem State.onUcmDie_kvBase (g : UcmDie → UcmDie) : (s.onUcmDie n g).kvBase = s.kvBase := rfl
@[simp] theorem State.onUcmDie_kvStride (g : UcmDie → UcmDie) : (s.onUcmDie n g).kvStride = s.kvStride := rfl
@[simp] theorem State.onUcmDie_kvSlots (g : UcmDie → UcmDie) : (s.onUcmDie n g).kvSlots = s.kvSlots := rfl
@[simp] theorem State.onUcmDie_polders (g : UcmDie → UcmDie) : (s.onUcmDie n g).polders = s.polders := rfl
@[simp] theorem State.onUcmDie_halfDies (g : UcmDie → UcmDie) : (s.onUcmDie n g).halfDies = s.halfDies := rfl
@[simp] theorem State.onUcmDie_fencedCulverts (g : UcmDie → UcmDie) : (s.onUcmDie n g).fencedCulverts = s.fencedCulverts := rfl
@[simp] theorem State.onUcmDie_narrowed (g : UcmDie → UcmDie) : (s.onUcmDie n g).narrowed = s.narrowed := rfl
@[simp] theorem State.onUcmDie_funcs (g : UcmDie → UcmDie) : (s.onUcmDie n g).funcs = s.funcs := rfl
@[simp] theorem State.onUcmDie_pcie (g : UcmDie → UcmDie) : (s.onUcmDie n g).pcie = s.pcie := rfl
@[simp] theorem State.onUcmDie_bar4Win (g : UcmDie → UcmDie) : (s.onUcmDie n g).bar4Win = s.bar4Win := rfl
@[simp] theorem State.onUcmDie_bar4Off (g : UcmDie → UcmDie) : (s.onUcmDie n g).bar4Off = s.bar4Off := rfl
@[simp] theorem State.onUcmDie_vfMap (g : UcmDie → UcmDie) : (s.onUcmDie n g).vfMap = s.vfMap := rfl
@[simp] theorem State.onUcmDie_accErr (g : UcmDie → UcmDie) : (s.onUcmDie n g).accErr = s.accErr := rfl
@[simp] theorem State.onUcmDie_gates (g : UcmDie → UcmDie) : (s.onUcmDie n g).gates = s.gates := rfl
@[simp] theorem State.onUcmDie_fgNo (g : UcmDie → UcmDie) : (s.onUcmDie n g).fgNo = s.fgNo := rfl
@[simp] theorem State.onUcmDie_gateChannels (g : UcmDie → UcmDie) : (s.onUcmDie n g).gateChannels = s.gateChannels := rfl
@[simp] theorem State.onUcmDie_gateEndedJob (g : UcmDie → UcmDie) : (s.onUcmDie n g).gateEndedJob = s.gateEndedJob := rfl
@[simp] theorem State.onUcmDie_draining (g : UcmDie → UcmDie) : (s.onUcmDie n g).draining = s.draining := rfl
@[simp] theorem State.onUcmDie_board (g : UcmDie → UcmDie) : (s.onUcmDie n g).board = s.board := rfl
@[simp] theorem State.onUcmDie_boardLost (g : UcmDie → UcmDie) : (s.onUcmDie n g).boardLost = s.boardLost := rfl
@[simp] theorem State.onUcmDie_boardErrors (g : UcmDie → UcmDie) : (s.onUcmDie n g).boardErrors = s.boardErrors := rfl
@[simp] theorem State.onUcmDie_dma (g : UcmDie → UcmDie) : (s.onUcmDie n g).dma = s.dma := rfl
@[simp] theorem State.onUcmDie_engines (g : UcmDie → UcmDie) : (s.onUcmDie n g).engines = s.engines := rfl
@[simp] theorem State.onUcmDie_links (g : UcmDie → UcmDie) : (s.onUcmDie n g).links = s.links := rfl
@[simp] theorem State.onUcmDie_fabricId (g : UcmDie → UcmDie) : (s.onUcmDie n g).fabricId = s.fabricId := rfl
@[simp] theorem State.onUcmDie_windows (g : UcmDie → UcmDie) : (s.onUcmDie n g).windows = s.windows := rfl
@[simp] theorem State.onUcmDie_inbound (g : UcmDie → UcmDie) : (s.onUcmDie n g).inbound = s.inbound := rfl
@[simp] theorem State.onUcmDie_ledger (g : UcmDie → UcmDie) : (s.onUcmDie n g).ledger = s.ledger := rfl
@[simp] theorem State.onUcmDie_thermal (g : UcmDie → UcmDie) : (s.onUcmDie n g).thermal = s.thermal := rfl
@[simp] theorem State.onUcmDie_power (g : UcmDie → UcmDie) : (s.onUcmDie n g).power = s.power := rfl
@[simp] theorem State.onUcmDie_boot (g : UcmDie → UcmDie) : (s.onUcmDie n g).boot = s.boot := rfl
@[simp] theorem State.onUcmDie_repair (g : UcmDie → UcmDie) : (s.onUcmDie n g).repair = s.repair := rfl
@[simp] theorem State.onUcmDie_fuses (g : UcmDie → UcmDie) : (s.onUcmDie n g).fuses = s.fuses := rfl
@[simp] theorem State.onUcmDie_trust (g : UcmDie → UcmDie) : (s.onUcmDie n g).trust = s.trust := rfl
@[simp] theorem State.onUcmDie_time (g : UcmDie → UcmDie) : (s.onUcmDie n g).time = s.time := rfl
@[simp] theorem State.onUcmDie_smbus (g : UcmDie → UcmDie) : (s.onUcmDie n g).smbus = s.smbus := rfl
@[simp] theorem State.onUcmDie_cdcExpired (g : UcmDie → UcmDie) : (s.onUcmDie n g).cdcExpired = s.cdcExpired := rfl
@[simp] theorem State.onUcmDie_cdcDown (g : UcmDie → UcmDie) : (s.onUcmDie n g).cdcDown = s.cdcDown := rfl
@[simp] theorem State.onUcmDie_log (g : UcmDie → UcmDie) : (s.onUcmDie n g).log = s.log := rfl
@[simp] theorem State.onUcmDie_accLog (g : UcmDie → UcmDie) : (s.onUcmDie n g).accLog = s.accLog := rfl
@[simp] theorem State.onUcmDie_vault (g : UcmDie → UcmDie) : (s.onUcmDie n g).vault = s.vault := rfl
@[simp] theorem State.onUcmDie_vaultCounters (g : UcmDie → UcmDie) : (s.onUcmDie n g).vaultCounters = s.vaultCounters := rfl
@[simp] theorem State.onUcmDie_vaultSeq (g : UcmDie → UcmDie) : (s.onUcmDie n g).vaultSeq = s.vaultSeq := rfl
@[simp] theorem State.onUcmDie_recordDue (g : UcmDie → UcmDie) : (s.onUcmDie n g).recordDue = s.recordDue := rfl
@[simp] theorem State.onUcmDie_dieTest (g : UcmDie → UcmDie) : (s.onUcmDie n g).dieTest = s.dieTest := rfl

@[simp] theorem State.onUcmDie_func (g : UcmDie → UcmDie) : (s.onUcmDie n g).func k = s.func k := rfl
@[simp] theorem State.onUcmDie_polder (g : UcmDie → UcmDie) : (s.onUcmDie n g).polder k = s.polder k := rfl
@[simp] theorem State.onUcmDie_halfDie (g : UcmDie → UcmDie) : (s.onUcmDie n g).halfDie k = s.halfDie k := rfl
@[simp] theorem State.onUcmDie_chan (g : UcmDie → UcmDie) : (s.onUcmDie n g).chan k = s.chan k := rfl
@[simp] theorem State.onUcmDie_engine (g : UcmDie → UcmDie) : (s.onUcmDie n g).engine k = s.engine k := rfl
@[simp] theorem State.onUcmDie_link (g : UcmDie → UcmDie) : (s.onUcmDie n g).link k = s.link k := rfl
@[simp] theorem State.onUcmDie_cluster (g : UcmDie → UcmDie) : (s.onUcmDie n g).cluster k = s.cluster k := rfl
@[simp] theorem State.onUcmDie_edgeCh (g : UcmDie → UcmDie) : (s.onUcmDie n g).edgeCh k = s.edgeCh k := rfl
@[simp] theorem State.onUcmDie_stack (g : UcmDie → UcmDie) : (s.onUcmDie n g).stack k = s.stack k := rfl
@[simp] theorem State.onUcmDie_basin (g : UcmDie → UcmDie) : (s.onUcmDie n g).basin k = s.basin k := rfl
@[simp] theorem State.onUcmDie_tcore (g : UcmDie → UcmDie) : (s.onUcmDie n g).tcore k = s.tcore k := rfl
@[simp] theorem State.onUcmDie_vcore (g : UcmDie → UcmDie) : (s.onUcmDie n g).vcore k = s.vcore k := rfl
@[simp] theorem State.onUcmDie_score (g : UcmDie → UcmDie) : (s.onUcmDie n g).score k = s.score k := rfl

/-- The unit itself changes, and no other of its kind. -/
@[simp] theorem State.onUcmDie_ucmDie (g : UcmDie → UcmDie) : (s.onUcmDie n g).ucmDie k = if n = k then g (s.ucmDie n) else s.ucmDie k := by
  simp [State.ucmDie, State.onUcmDie]

/-! ### TCore -/

@[simp] theorem State.setTcore_pending (x : TCore) : (s.setTcore n x).pending = s.pending := rfl
@[simp] theorem State.setTcore_fresh (x : TCore) : (s.setTcore n x).fresh = s.fresh := rfl
@[simp] theorem State.setTcore_slotPins (x : TCore) : (s.setTcore n x).slotPins = s.slotPins := rfl
@[simp] theorem State.setTcore_pins (x : TCore) : (s.setTcore n x).pins = s.pins := rfl
@[simp] theorem State.setTcore_hostMem (x : TCore) : (s.setTcore n x).hostMem = s.hostMem := rfl
@[simp] theorem State.setTcore_hostErr (x : TCore) : (s.setTcore n x).hostErr = s.hostErr := rfl
@[simp] theorem State.setTcore_reply (x : TCore) : (s.setTcore n x).reply = s.reply := rfl
@[simp] theorem State.setTcore_lateReplies (x : TCore) : (s.setTcore n x).lateReplies = s.lateReplies := rfl
@[simp] theorem State.setTcore_gathers (x : TCore) : (s.setTcore n x).gathers = s.gathers := rfl
@[simp] theorem State.setTcore_gatherNo (x : TCore) : (s.setTcore n x).gatherNo = s.gatherNo := rfl
@[simp] theorem State.setTcore_msixSent (x : TCore) : (s.setTcore n x).msixSent = s.msixSent := rfl
@[simp] theorem State.setTcore_aerErrors (x : TCore) : (s.setTcore n x).aerErrors = s.aerErrors := rfl
@[simp] theorem State.setTcore_vcores (x : TCore) : (s.setTcore n x).vcores = s.vcores := rfl
@[simp] theorem State.setTcore_scores (x : TCore) : (s.setTcore n x).scores = s.scores := rfl
@[simp] theorem State.setTcore_clusters (x : TCore) : (s.setTcore n x).clusters = s.clusters := rfl
@[simp] theorem State.setTcore_ucm (x : TCore) : (s.setTcore n x).ucm = s.ucm := rfl
@[simp] theorem State.setTcore_ucmValid (x : TCore) : (s.setTcore n x).ucmValid = s.ucmValid := rfl
@[simp] theorem State.setTcore_ucmBad (x : TCore) : (s.setTcore n x).ucmBad = s.ucmBad := rfl
@[simp] theorem State.setTcore_ucmDies (x : TCore) : (s.setTcore n x).ucmDies = s.ucmDies := rfl
@[simp] theorem State.setTcore_ucmScrub (x : TCore) : (s.setTcore n x).ucmScrub = s.ucmScrub := rfl
@[simp] theorem State.setTcore_merges (x : TCore) : (s.setTcore n x).merges = s.merges := rfl
@[simp] theorem State.setTcore_edge (x : TCore) : (s.setTcore n x).edge = s.edge := rfl
@[simp] theorem State.setTcore_edgeBad (x : TCore) : (s.setTcore n x).edgeBad = s.edgeBad := rfl
@[simp] theorem State.setTcore_channels (x : TCore) : (s.setTcore n x).channels = s.channels := rfl
@[simp] theorem State.setTcore_edgeStacks (x : TCore) : (s.setTcore n x).edgeStacks = s.edgeStacks := rfl
@[simp] theorem State.setTcore_basins (x : TCore) : (s.setTcore n x).basins = s.basins := rfl
@[simp] theorem State.setTcore_intlvPkg (x : TCore) : (s.setTcore n x).intlvPkg = s.intlvPkg := rfl
@[simp] theorem State.setTcore_kvBase (x : TCore) : (s.setTcore n x).kvBase = s.kvBase := rfl
@[simp] theorem State.setTcore_kvStride (x : TCore) : (s.setTcore n x).kvStride = s.kvStride := rfl
@[simp] theorem State.setTcore_kvSlots (x : TCore) : (s.setTcore n x).kvSlots = s.kvSlots := rfl
@[simp] theorem State.setTcore_polders (x : TCore) : (s.setTcore n x).polders = s.polders := rfl
@[simp] theorem State.setTcore_halfDies (x : TCore) : (s.setTcore n x).halfDies = s.halfDies := rfl
@[simp] theorem State.setTcore_fencedCulverts (x : TCore) : (s.setTcore n x).fencedCulverts = s.fencedCulverts := rfl
@[simp] theorem State.setTcore_narrowed (x : TCore) : (s.setTcore n x).narrowed = s.narrowed := rfl
@[simp] theorem State.setTcore_funcs (x : TCore) : (s.setTcore n x).funcs = s.funcs := rfl
@[simp] theorem State.setTcore_pcie (x : TCore) : (s.setTcore n x).pcie = s.pcie := rfl
@[simp] theorem State.setTcore_bar4Win (x : TCore) : (s.setTcore n x).bar4Win = s.bar4Win := rfl
@[simp] theorem State.setTcore_bar4Off (x : TCore) : (s.setTcore n x).bar4Off = s.bar4Off := rfl
@[simp] theorem State.setTcore_vfMap (x : TCore) : (s.setTcore n x).vfMap = s.vfMap := rfl
@[simp] theorem State.setTcore_accErr (x : TCore) : (s.setTcore n x).accErr = s.accErr := rfl
@[simp] theorem State.setTcore_gates (x : TCore) : (s.setTcore n x).gates = s.gates := rfl
@[simp] theorem State.setTcore_fgNo (x : TCore) : (s.setTcore n x).fgNo = s.fgNo := rfl
@[simp] theorem State.setTcore_gateChannels (x : TCore) : (s.setTcore n x).gateChannels = s.gateChannels := rfl
@[simp] theorem State.setTcore_gateEndedJob (x : TCore) : (s.setTcore n x).gateEndedJob = s.gateEndedJob := rfl
@[simp] theorem State.setTcore_draining (x : TCore) : (s.setTcore n x).draining = s.draining := rfl
@[simp] theorem State.setTcore_board (x : TCore) : (s.setTcore n x).board = s.board := rfl
@[simp] theorem State.setTcore_boardLost (x : TCore) : (s.setTcore n x).boardLost = s.boardLost := rfl
@[simp] theorem State.setTcore_boardErrors (x : TCore) : (s.setTcore n x).boardErrors = s.boardErrors := rfl
@[simp] theorem State.setTcore_dma (x : TCore) : (s.setTcore n x).dma = s.dma := rfl
@[simp] theorem State.setTcore_engines (x : TCore) : (s.setTcore n x).engines = s.engines := rfl
@[simp] theorem State.setTcore_links (x : TCore) : (s.setTcore n x).links = s.links := rfl
@[simp] theorem State.setTcore_fabricId (x : TCore) : (s.setTcore n x).fabricId = s.fabricId := rfl
@[simp] theorem State.setTcore_windows (x : TCore) : (s.setTcore n x).windows = s.windows := rfl
@[simp] theorem State.setTcore_inbound (x : TCore) : (s.setTcore n x).inbound = s.inbound := rfl
@[simp] theorem State.setTcore_ledger (x : TCore) : (s.setTcore n x).ledger = s.ledger := rfl
@[simp] theorem State.setTcore_thermal (x : TCore) : (s.setTcore n x).thermal = s.thermal := rfl
@[simp] theorem State.setTcore_power (x : TCore) : (s.setTcore n x).power = s.power := rfl
@[simp] theorem State.setTcore_boot (x : TCore) : (s.setTcore n x).boot = s.boot := rfl
@[simp] theorem State.setTcore_repair (x : TCore) : (s.setTcore n x).repair = s.repair := rfl
@[simp] theorem State.setTcore_fuses (x : TCore) : (s.setTcore n x).fuses = s.fuses := rfl
@[simp] theorem State.setTcore_trust (x : TCore) : (s.setTcore n x).trust = s.trust := rfl
@[simp] theorem State.setTcore_time (x : TCore) : (s.setTcore n x).time = s.time := rfl
@[simp] theorem State.setTcore_smbus (x : TCore) : (s.setTcore n x).smbus = s.smbus := rfl
@[simp] theorem State.setTcore_cdcExpired (x : TCore) : (s.setTcore n x).cdcExpired = s.cdcExpired := rfl
@[simp] theorem State.setTcore_cdcDown (x : TCore) : (s.setTcore n x).cdcDown = s.cdcDown := rfl
@[simp] theorem State.setTcore_log (x : TCore) : (s.setTcore n x).log = s.log := rfl
@[simp] theorem State.setTcore_accLog (x : TCore) : (s.setTcore n x).accLog = s.accLog := rfl
@[simp] theorem State.setTcore_vault (x : TCore) : (s.setTcore n x).vault = s.vault := rfl
@[simp] theorem State.setTcore_vaultCounters (x : TCore) : (s.setTcore n x).vaultCounters = s.vaultCounters := rfl
@[simp] theorem State.setTcore_vaultSeq (x : TCore) : (s.setTcore n x).vaultSeq = s.vaultSeq := rfl
@[simp] theorem State.setTcore_recordDue (x : TCore) : (s.setTcore n x).recordDue = s.recordDue := rfl
@[simp] theorem State.setTcore_dieTest (x : TCore) : (s.setTcore n x).dieTest = s.dieTest := rfl

@[simp] theorem State.setTcore_func (x : TCore) : (s.setTcore n x).func k = s.func k := rfl
@[simp] theorem State.setTcore_polder (x : TCore) : (s.setTcore n x).polder k = s.polder k := rfl
@[simp] theorem State.setTcore_halfDie (x : TCore) : (s.setTcore n x).halfDie k = s.halfDie k := rfl
@[simp] theorem State.setTcore_chan (x : TCore) : (s.setTcore n x).chan k = s.chan k := rfl
@[simp] theorem State.setTcore_engine (x : TCore) : (s.setTcore n x).engine k = s.engine k := rfl
@[simp] theorem State.setTcore_link (x : TCore) : (s.setTcore n x).link k = s.link k := rfl
@[simp] theorem State.setTcore_cluster (x : TCore) : (s.setTcore n x).cluster k = s.cluster k := rfl
@[simp] theorem State.setTcore_edgeCh (x : TCore) : (s.setTcore n x).edgeCh k = s.edgeCh k := rfl
@[simp] theorem State.setTcore_stack (x : TCore) : (s.setTcore n x).stack k = s.stack k := rfl
@[simp] theorem State.setTcore_basin (x : TCore) : (s.setTcore n x).basin k = s.basin k := rfl
@[simp] theorem State.setTcore_ucmDie (x : TCore) : (s.setTcore n x).ucmDie k = s.ucmDie k := rfl
@[simp] theorem State.setTcore_vcore (x : TCore) : (s.setTcore n x).vcore k = s.vcore k := rfl
@[simp] theorem State.setTcore_score (x : TCore) : (s.setTcore n x).score k = s.score k := rfl

/-- The unit itself changes, and no other of its kind. -/
@[simp] theorem State.setTcore_tcore (x : TCore) : (s.setTcore n x).tcore k = if n = k then x else s.tcore k := by
  unfold State.tcore
  rw [State.setTcore_halfDie]
  unfold State.setTcore
  by_cases h : n = k
  · subst h; simp
  · rw [if_neg h]; exact Sparse.get_set_other _ _ _ _ _ _ h

@[simp] theorem State.onTcore_pending (g : TCore → TCore) : (s.onTcore n g).pending = s.pending := rfl
@[simp] theorem State.onTcore_fresh (g : TCore → TCore) : (s.onTcore n g).fresh = s.fresh := rfl
@[simp] theorem State.onTcore_slotPins (g : TCore → TCore) : (s.onTcore n g).slotPins = s.slotPins := rfl
@[simp] theorem State.onTcore_pins (g : TCore → TCore) : (s.onTcore n g).pins = s.pins := rfl
@[simp] theorem State.onTcore_hostMem (g : TCore → TCore) : (s.onTcore n g).hostMem = s.hostMem := rfl
@[simp] theorem State.onTcore_hostErr (g : TCore → TCore) : (s.onTcore n g).hostErr = s.hostErr := rfl
@[simp] theorem State.onTcore_reply (g : TCore → TCore) : (s.onTcore n g).reply = s.reply := rfl
@[simp] theorem State.onTcore_lateReplies (g : TCore → TCore) : (s.onTcore n g).lateReplies = s.lateReplies := rfl
@[simp] theorem State.onTcore_gathers (g : TCore → TCore) : (s.onTcore n g).gathers = s.gathers := rfl
@[simp] theorem State.onTcore_gatherNo (g : TCore → TCore) : (s.onTcore n g).gatherNo = s.gatherNo := rfl
@[simp] theorem State.onTcore_msixSent (g : TCore → TCore) : (s.onTcore n g).msixSent = s.msixSent := rfl
@[simp] theorem State.onTcore_aerErrors (g : TCore → TCore) : (s.onTcore n g).aerErrors = s.aerErrors := rfl
@[simp] theorem State.onTcore_vcores (g : TCore → TCore) : (s.onTcore n g).vcores = s.vcores := rfl
@[simp] theorem State.onTcore_scores (g : TCore → TCore) : (s.onTcore n g).scores = s.scores := rfl
@[simp] theorem State.onTcore_clusters (g : TCore → TCore) : (s.onTcore n g).clusters = s.clusters := rfl
@[simp] theorem State.onTcore_ucm (g : TCore → TCore) : (s.onTcore n g).ucm = s.ucm := rfl
@[simp] theorem State.onTcore_ucmValid (g : TCore → TCore) : (s.onTcore n g).ucmValid = s.ucmValid := rfl
@[simp] theorem State.onTcore_ucmBad (g : TCore → TCore) : (s.onTcore n g).ucmBad = s.ucmBad := rfl
@[simp] theorem State.onTcore_ucmDies (g : TCore → TCore) : (s.onTcore n g).ucmDies = s.ucmDies := rfl
@[simp] theorem State.onTcore_ucmScrub (g : TCore → TCore) : (s.onTcore n g).ucmScrub = s.ucmScrub := rfl
@[simp] theorem State.onTcore_merges (g : TCore → TCore) : (s.onTcore n g).merges = s.merges := rfl
@[simp] theorem State.onTcore_edge (g : TCore → TCore) : (s.onTcore n g).edge = s.edge := rfl
@[simp] theorem State.onTcore_edgeBad (g : TCore → TCore) : (s.onTcore n g).edgeBad = s.edgeBad := rfl
@[simp] theorem State.onTcore_channels (g : TCore → TCore) : (s.onTcore n g).channels = s.channels := rfl
@[simp] theorem State.onTcore_edgeStacks (g : TCore → TCore) : (s.onTcore n g).edgeStacks = s.edgeStacks := rfl
@[simp] theorem State.onTcore_basins (g : TCore → TCore) : (s.onTcore n g).basins = s.basins := rfl
@[simp] theorem State.onTcore_intlvPkg (g : TCore → TCore) : (s.onTcore n g).intlvPkg = s.intlvPkg := rfl
@[simp] theorem State.onTcore_kvBase (g : TCore → TCore) : (s.onTcore n g).kvBase = s.kvBase := rfl
@[simp] theorem State.onTcore_kvStride (g : TCore → TCore) : (s.onTcore n g).kvStride = s.kvStride := rfl
@[simp] theorem State.onTcore_kvSlots (g : TCore → TCore) : (s.onTcore n g).kvSlots = s.kvSlots := rfl
@[simp] theorem State.onTcore_polders (g : TCore → TCore) : (s.onTcore n g).polders = s.polders := rfl
@[simp] theorem State.onTcore_halfDies (g : TCore → TCore) : (s.onTcore n g).halfDies = s.halfDies := rfl
@[simp] theorem State.onTcore_fencedCulverts (g : TCore → TCore) : (s.onTcore n g).fencedCulverts = s.fencedCulverts := rfl
@[simp] theorem State.onTcore_narrowed (g : TCore → TCore) : (s.onTcore n g).narrowed = s.narrowed := rfl
@[simp] theorem State.onTcore_funcs (g : TCore → TCore) : (s.onTcore n g).funcs = s.funcs := rfl
@[simp] theorem State.onTcore_pcie (g : TCore → TCore) : (s.onTcore n g).pcie = s.pcie := rfl
@[simp] theorem State.onTcore_bar4Win (g : TCore → TCore) : (s.onTcore n g).bar4Win = s.bar4Win := rfl
@[simp] theorem State.onTcore_bar4Off (g : TCore → TCore) : (s.onTcore n g).bar4Off = s.bar4Off := rfl
@[simp] theorem State.onTcore_vfMap (g : TCore → TCore) : (s.onTcore n g).vfMap = s.vfMap := rfl
@[simp] theorem State.onTcore_accErr (g : TCore → TCore) : (s.onTcore n g).accErr = s.accErr := rfl
@[simp] theorem State.onTcore_gates (g : TCore → TCore) : (s.onTcore n g).gates = s.gates := rfl
@[simp] theorem State.onTcore_fgNo (g : TCore → TCore) : (s.onTcore n g).fgNo = s.fgNo := rfl
@[simp] theorem State.onTcore_gateChannels (g : TCore → TCore) : (s.onTcore n g).gateChannels = s.gateChannels := rfl
@[simp] theorem State.onTcore_gateEndedJob (g : TCore → TCore) : (s.onTcore n g).gateEndedJob = s.gateEndedJob := rfl
@[simp] theorem State.onTcore_draining (g : TCore → TCore) : (s.onTcore n g).draining = s.draining := rfl
@[simp] theorem State.onTcore_board (g : TCore → TCore) : (s.onTcore n g).board = s.board := rfl
@[simp] theorem State.onTcore_boardLost (g : TCore → TCore) : (s.onTcore n g).boardLost = s.boardLost := rfl
@[simp] theorem State.onTcore_boardErrors (g : TCore → TCore) : (s.onTcore n g).boardErrors = s.boardErrors := rfl
@[simp] theorem State.onTcore_dma (g : TCore → TCore) : (s.onTcore n g).dma = s.dma := rfl
@[simp] theorem State.onTcore_engines (g : TCore → TCore) : (s.onTcore n g).engines = s.engines := rfl
@[simp] theorem State.onTcore_links (g : TCore → TCore) : (s.onTcore n g).links = s.links := rfl
@[simp] theorem State.onTcore_fabricId (g : TCore → TCore) : (s.onTcore n g).fabricId = s.fabricId := rfl
@[simp] theorem State.onTcore_windows (g : TCore → TCore) : (s.onTcore n g).windows = s.windows := rfl
@[simp] theorem State.onTcore_inbound (g : TCore → TCore) : (s.onTcore n g).inbound = s.inbound := rfl
@[simp] theorem State.onTcore_ledger (g : TCore → TCore) : (s.onTcore n g).ledger = s.ledger := rfl
@[simp] theorem State.onTcore_thermal (g : TCore → TCore) : (s.onTcore n g).thermal = s.thermal := rfl
@[simp] theorem State.onTcore_power (g : TCore → TCore) : (s.onTcore n g).power = s.power := rfl
@[simp] theorem State.onTcore_boot (g : TCore → TCore) : (s.onTcore n g).boot = s.boot := rfl
@[simp] theorem State.onTcore_repair (g : TCore → TCore) : (s.onTcore n g).repair = s.repair := rfl
@[simp] theorem State.onTcore_fuses (g : TCore → TCore) : (s.onTcore n g).fuses = s.fuses := rfl
@[simp] theorem State.onTcore_trust (g : TCore → TCore) : (s.onTcore n g).trust = s.trust := rfl
@[simp] theorem State.onTcore_time (g : TCore → TCore) : (s.onTcore n g).time = s.time := rfl
@[simp] theorem State.onTcore_smbus (g : TCore → TCore) : (s.onTcore n g).smbus = s.smbus := rfl
@[simp] theorem State.onTcore_cdcExpired (g : TCore → TCore) : (s.onTcore n g).cdcExpired = s.cdcExpired := rfl
@[simp] theorem State.onTcore_cdcDown (g : TCore → TCore) : (s.onTcore n g).cdcDown = s.cdcDown := rfl
@[simp] theorem State.onTcore_log (g : TCore → TCore) : (s.onTcore n g).log = s.log := rfl
@[simp] theorem State.onTcore_accLog (g : TCore → TCore) : (s.onTcore n g).accLog = s.accLog := rfl
@[simp] theorem State.onTcore_vault (g : TCore → TCore) : (s.onTcore n g).vault = s.vault := rfl
@[simp] theorem State.onTcore_vaultCounters (g : TCore → TCore) : (s.onTcore n g).vaultCounters = s.vaultCounters := rfl
@[simp] theorem State.onTcore_vaultSeq (g : TCore → TCore) : (s.onTcore n g).vaultSeq = s.vaultSeq := rfl
@[simp] theorem State.onTcore_recordDue (g : TCore → TCore) : (s.onTcore n g).recordDue = s.recordDue := rfl
@[simp] theorem State.onTcore_dieTest (g : TCore → TCore) : (s.onTcore n g).dieTest = s.dieTest := rfl

@[simp] theorem State.onTcore_func (g : TCore → TCore) : (s.onTcore n g).func k = s.func k := rfl
@[simp] theorem State.onTcore_polder (g : TCore → TCore) : (s.onTcore n g).polder k = s.polder k := rfl
@[simp] theorem State.onTcore_halfDie (g : TCore → TCore) : (s.onTcore n g).halfDie k = s.halfDie k := rfl
@[simp] theorem State.onTcore_chan (g : TCore → TCore) : (s.onTcore n g).chan k = s.chan k := rfl
@[simp] theorem State.onTcore_engine (g : TCore → TCore) : (s.onTcore n g).engine k = s.engine k := rfl
@[simp] theorem State.onTcore_link (g : TCore → TCore) : (s.onTcore n g).link k = s.link k := rfl
@[simp] theorem State.onTcore_cluster (g : TCore → TCore) : (s.onTcore n g).cluster k = s.cluster k := rfl
@[simp] theorem State.onTcore_edgeCh (g : TCore → TCore) : (s.onTcore n g).edgeCh k = s.edgeCh k := rfl
@[simp] theorem State.onTcore_stack (g : TCore → TCore) : (s.onTcore n g).stack k = s.stack k := rfl
@[simp] theorem State.onTcore_basin (g : TCore → TCore) : (s.onTcore n g).basin k = s.basin k := rfl
@[simp] theorem State.onTcore_ucmDie (g : TCore → TCore) : (s.onTcore n g).ucmDie k = s.ucmDie k := rfl
@[simp] theorem State.onTcore_vcore (g : TCore → TCore) : (s.onTcore n g).vcore k = s.vcore k := rfl
@[simp] theorem State.onTcore_score (g : TCore → TCore) : (s.onTcore n g).score k = s.score k := rfl

/-- The unit itself changes, and no other of its kind. -/
@[simp] theorem State.onTcore_tcore (g : TCore → TCore) : (s.onTcore n g).tcore k = if n = k then g (s.tcore n) else s.tcore k := by
  simp [State.onTcore]

/-! ### VCore -/

@[simp] theorem State.setVcore_pending (x : VCore) : (s.setVcore n x).pending = s.pending := rfl
@[simp] theorem State.setVcore_fresh (x : VCore) : (s.setVcore n x).fresh = s.fresh := rfl
@[simp] theorem State.setVcore_slotPins (x : VCore) : (s.setVcore n x).slotPins = s.slotPins := rfl
@[simp] theorem State.setVcore_pins (x : VCore) : (s.setVcore n x).pins = s.pins := rfl
@[simp] theorem State.setVcore_hostMem (x : VCore) : (s.setVcore n x).hostMem = s.hostMem := rfl
@[simp] theorem State.setVcore_hostErr (x : VCore) : (s.setVcore n x).hostErr = s.hostErr := rfl
@[simp] theorem State.setVcore_reply (x : VCore) : (s.setVcore n x).reply = s.reply := rfl
@[simp] theorem State.setVcore_lateReplies (x : VCore) : (s.setVcore n x).lateReplies = s.lateReplies := rfl
@[simp] theorem State.setVcore_gathers (x : VCore) : (s.setVcore n x).gathers = s.gathers := rfl
@[simp] theorem State.setVcore_gatherNo (x : VCore) : (s.setVcore n x).gatherNo = s.gatherNo := rfl
@[simp] theorem State.setVcore_msixSent (x : VCore) : (s.setVcore n x).msixSent = s.msixSent := rfl
@[simp] theorem State.setVcore_aerErrors (x : VCore) : (s.setVcore n x).aerErrors = s.aerErrors := rfl
@[simp] theorem State.setVcore_tcores (x : VCore) : (s.setVcore n x).tcores = s.tcores := rfl
@[simp] theorem State.setVcore_scores (x : VCore) : (s.setVcore n x).scores = s.scores := rfl
@[simp] theorem State.setVcore_clusters (x : VCore) : (s.setVcore n x).clusters = s.clusters := rfl
@[simp] theorem State.setVcore_ucm (x : VCore) : (s.setVcore n x).ucm = s.ucm := rfl
@[simp] theorem State.setVcore_ucmValid (x : VCore) : (s.setVcore n x).ucmValid = s.ucmValid := rfl
@[simp] theorem State.setVcore_ucmBad (x : VCore) : (s.setVcore n x).ucmBad = s.ucmBad := rfl
@[simp] theorem State.setVcore_ucmDies (x : VCore) : (s.setVcore n x).ucmDies = s.ucmDies := rfl
@[simp] theorem State.setVcore_ucmScrub (x : VCore) : (s.setVcore n x).ucmScrub = s.ucmScrub := rfl
@[simp] theorem State.setVcore_merges (x : VCore) : (s.setVcore n x).merges = s.merges := rfl
@[simp] theorem State.setVcore_edge (x : VCore) : (s.setVcore n x).edge = s.edge := rfl
@[simp] theorem State.setVcore_edgeBad (x : VCore) : (s.setVcore n x).edgeBad = s.edgeBad := rfl
@[simp] theorem State.setVcore_channels (x : VCore) : (s.setVcore n x).channels = s.channels := rfl
@[simp] theorem State.setVcore_edgeStacks (x : VCore) : (s.setVcore n x).edgeStacks = s.edgeStacks := rfl
@[simp] theorem State.setVcore_basins (x : VCore) : (s.setVcore n x).basins = s.basins := rfl
@[simp] theorem State.setVcore_intlvPkg (x : VCore) : (s.setVcore n x).intlvPkg = s.intlvPkg := rfl
@[simp] theorem State.setVcore_kvBase (x : VCore) : (s.setVcore n x).kvBase = s.kvBase := rfl
@[simp] theorem State.setVcore_kvStride (x : VCore) : (s.setVcore n x).kvStride = s.kvStride := rfl
@[simp] theorem State.setVcore_kvSlots (x : VCore) : (s.setVcore n x).kvSlots = s.kvSlots := rfl
@[simp] theorem State.setVcore_polders (x : VCore) : (s.setVcore n x).polders = s.polders := rfl
@[simp] theorem State.setVcore_halfDies (x : VCore) : (s.setVcore n x).halfDies = s.halfDies := rfl
@[simp] theorem State.setVcore_fencedCulverts (x : VCore) : (s.setVcore n x).fencedCulverts = s.fencedCulverts := rfl
@[simp] theorem State.setVcore_narrowed (x : VCore) : (s.setVcore n x).narrowed = s.narrowed := rfl
@[simp] theorem State.setVcore_funcs (x : VCore) : (s.setVcore n x).funcs = s.funcs := rfl
@[simp] theorem State.setVcore_pcie (x : VCore) : (s.setVcore n x).pcie = s.pcie := rfl
@[simp] theorem State.setVcore_bar4Win (x : VCore) : (s.setVcore n x).bar4Win = s.bar4Win := rfl
@[simp] theorem State.setVcore_bar4Off (x : VCore) : (s.setVcore n x).bar4Off = s.bar4Off := rfl
@[simp] theorem State.setVcore_vfMap (x : VCore) : (s.setVcore n x).vfMap = s.vfMap := rfl
@[simp] theorem State.setVcore_accErr (x : VCore) : (s.setVcore n x).accErr = s.accErr := rfl
@[simp] theorem State.setVcore_gates (x : VCore) : (s.setVcore n x).gates = s.gates := rfl
@[simp] theorem State.setVcore_fgNo (x : VCore) : (s.setVcore n x).fgNo = s.fgNo := rfl
@[simp] theorem State.setVcore_gateChannels (x : VCore) : (s.setVcore n x).gateChannels = s.gateChannels := rfl
@[simp] theorem State.setVcore_gateEndedJob (x : VCore) : (s.setVcore n x).gateEndedJob = s.gateEndedJob := rfl
@[simp] theorem State.setVcore_draining (x : VCore) : (s.setVcore n x).draining = s.draining := rfl
@[simp] theorem State.setVcore_board (x : VCore) : (s.setVcore n x).board = s.board := rfl
@[simp] theorem State.setVcore_boardLost (x : VCore) : (s.setVcore n x).boardLost = s.boardLost := rfl
@[simp] theorem State.setVcore_boardErrors (x : VCore) : (s.setVcore n x).boardErrors = s.boardErrors := rfl
@[simp] theorem State.setVcore_dma (x : VCore) : (s.setVcore n x).dma = s.dma := rfl
@[simp] theorem State.setVcore_engines (x : VCore) : (s.setVcore n x).engines = s.engines := rfl
@[simp] theorem State.setVcore_links (x : VCore) : (s.setVcore n x).links = s.links := rfl
@[simp] theorem State.setVcore_fabricId (x : VCore) : (s.setVcore n x).fabricId = s.fabricId := rfl
@[simp] theorem State.setVcore_windows (x : VCore) : (s.setVcore n x).windows = s.windows := rfl
@[simp] theorem State.setVcore_inbound (x : VCore) : (s.setVcore n x).inbound = s.inbound := rfl
@[simp] theorem State.setVcore_ledger (x : VCore) : (s.setVcore n x).ledger = s.ledger := rfl
@[simp] theorem State.setVcore_thermal (x : VCore) : (s.setVcore n x).thermal = s.thermal := rfl
@[simp] theorem State.setVcore_power (x : VCore) : (s.setVcore n x).power = s.power := rfl
@[simp] theorem State.setVcore_boot (x : VCore) : (s.setVcore n x).boot = s.boot := rfl
@[simp] theorem State.setVcore_repair (x : VCore) : (s.setVcore n x).repair = s.repair := rfl
@[simp] theorem State.setVcore_fuses (x : VCore) : (s.setVcore n x).fuses = s.fuses := rfl
@[simp] theorem State.setVcore_trust (x : VCore) : (s.setVcore n x).trust = s.trust := rfl
@[simp] theorem State.setVcore_time (x : VCore) : (s.setVcore n x).time = s.time := rfl
@[simp] theorem State.setVcore_smbus (x : VCore) : (s.setVcore n x).smbus = s.smbus := rfl
@[simp] theorem State.setVcore_cdcExpired (x : VCore) : (s.setVcore n x).cdcExpired = s.cdcExpired := rfl
@[simp] theorem State.setVcore_cdcDown (x : VCore) : (s.setVcore n x).cdcDown = s.cdcDown := rfl
@[simp] theorem State.setVcore_log (x : VCore) : (s.setVcore n x).log = s.log := rfl
@[simp] theorem State.setVcore_accLog (x : VCore) : (s.setVcore n x).accLog = s.accLog := rfl
@[simp] theorem State.setVcore_vault (x : VCore) : (s.setVcore n x).vault = s.vault := rfl
@[simp] theorem State.setVcore_vaultCounters (x : VCore) : (s.setVcore n x).vaultCounters = s.vaultCounters := rfl
@[simp] theorem State.setVcore_vaultSeq (x : VCore) : (s.setVcore n x).vaultSeq = s.vaultSeq := rfl
@[simp] theorem State.setVcore_recordDue (x : VCore) : (s.setVcore n x).recordDue = s.recordDue := rfl
@[simp] theorem State.setVcore_dieTest (x : VCore) : (s.setVcore n x).dieTest = s.dieTest := rfl

@[simp] theorem State.setVcore_func (x : VCore) : (s.setVcore n x).func k = s.func k := rfl
@[simp] theorem State.setVcore_polder (x : VCore) : (s.setVcore n x).polder k = s.polder k := rfl
@[simp] theorem State.setVcore_halfDie (x : VCore) : (s.setVcore n x).halfDie k = s.halfDie k := rfl
@[simp] theorem State.setVcore_chan (x : VCore) : (s.setVcore n x).chan k = s.chan k := rfl
@[simp] theorem State.setVcore_engine (x : VCore) : (s.setVcore n x).engine k = s.engine k := rfl
@[simp] theorem State.setVcore_link (x : VCore) : (s.setVcore n x).link k = s.link k := rfl
@[simp] theorem State.setVcore_cluster (x : VCore) : (s.setVcore n x).cluster k = s.cluster k := rfl
@[simp] theorem State.setVcore_edgeCh (x : VCore) : (s.setVcore n x).edgeCh k = s.edgeCh k := rfl
@[simp] theorem State.setVcore_stack (x : VCore) : (s.setVcore n x).stack k = s.stack k := rfl
@[simp] theorem State.setVcore_basin (x : VCore) : (s.setVcore n x).basin k = s.basin k := rfl
@[simp] theorem State.setVcore_ucmDie (x : VCore) : (s.setVcore n x).ucmDie k = s.ucmDie k := rfl
@[simp] theorem State.setVcore_tcore (x : VCore) : (s.setVcore n x).tcore k = s.tcore k := rfl
@[simp] theorem State.setVcore_score (x : VCore) : (s.setVcore n x).score k = s.score k := rfl

/-- The unit itself changes, and no other of its kind. -/
@[simp] theorem State.setVcore_vcore (x : VCore) : (s.setVcore n x).vcore k = if n = k then x else s.vcore k := by
  unfold State.vcore
  rw [State.setVcore_halfDie]
  unfold State.setVcore
  by_cases h : n = k
  · subst h; simp
  · rw [if_neg h]; exact Sparse.get_set_other _ _ _ _ _ _ h

@[simp] theorem State.onVcore_pending (g : VCore → VCore) : (s.onVcore n g).pending = s.pending := rfl
@[simp] theorem State.onVcore_fresh (g : VCore → VCore) : (s.onVcore n g).fresh = s.fresh := rfl
@[simp] theorem State.onVcore_slotPins (g : VCore → VCore) : (s.onVcore n g).slotPins = s.slotPins := rfl
@[simp] theorem State.onVcore_pins (g : VCore → VCore) : (s.onVcore n g).pins = s.pins := rfl
@[simp] theorem State.onVcore_hostMem (g : VCore → VCore) : (s.onVcore n g).hostMem = s.hostMem := rfl
@[simp] theorem State.onVcore_hostErr (g : VCore → VCore) : (s.onVcore n g).hostErr = s.hostErr := rfl
@[simp] theorem State.onVcore_reply (g : VCore → VCore) : (s.onVcore n g).reply = s.reply := rfl
@[simp] theorem State.onVcore_lateReplies (g : VCore → VCore) : (s.onVcore n g).lateReplies = s.lateReplies := rfl
@[simp] theorem State.onVcore_gathers (g : VCore → VCore) : (s.onVcore n g).gathers = s.gathers := rfl
@[simp] theorem State.onVcore_gatherNo (g : VCore → VCore) : (s.onVcore n g).gatherNo = s.gatherNo := rfl
@[simp] theorem State.onVcore_msixSent (g : VCore → VCore) : (s.onVcore n g).msixSent = s.msixSent := rfl
@[simp] theorem State.onVcore_aerErrors (g : VCore → VCore) : (s.onVcore n g).aerErrors = s.aerErrors := rfl
@[simp] theorem State.onVcore_tcores (g : VCore → VCore) : (s.onVcore n g).tcores = s.tcores := rfl
@[simp] theorem State.onVcore_scores (g : VCore → VCore) : (s.onVcore n g).scores = s.scores := rfl
@[simp] theorem State.onVcore_clusters (g : VCore → VCore) : (s.onVcore n g).clusters = s.clusters := rfl
@[simp] theorem State.onVcore_ucm (g : VCore → VCore) : (s.onVcore n g).ucm = s.ucm := rfl
@[simp] theorem State.onVcore_ucmValid (g : VCore → VCore) : (s.onVcore n g).ucmValid = s.ucmValid := rfl
@[simp] theorem State.onVcore_ucmBad (g : VCore → VCore) : (s.onVcore n g).ucmBad = s.ucmBad := rfl
@[simp] theorem State.onVcore_ucmDies (g : VCore → VCore) : (s.onVcore n g).ucmDies = s.ucmDies := rfl
@[simp] theorem State.onVcore_ucmScrub (g : VCore → VCore) : (s.onVcore n g).ucmScrub = s.ucmScrub := rfl
@[simp] theorem State.onVcore_merges (g : VCore → VCore) : (s.onVcore n g).merges = s.merges := rfl
@[simp] theorem State.onVcore_edge (g : VCore → VCore) : (s.onVcore n g).edge = s.edge := rfl
@[simp] theorem State.onVcore_edgeBad (g : VCore → VCore) : (s.onVcore n g).edgeBad = s.edgeBad := rfl
@[simp] theorem State.onVcore_channels (g : VCore → VCore) : (s.onVcore n g).channels = s.channels := rfl
@[simp] theorem State.onVcore_edgeStacks (g : VCore → VCore) : (s.onVcore n g).edgeStacks = s.edgeStacks := rfl
@[simp] theorem State.onVcore_basins (g : VCore → VCore) : (s.onVcore n g).basins = s.basins := rfl
@[simp] theorem State.onVcore_intlvPkg (g : VCore → VCore) : (s.onVcore n g).intlvPkg = s.intlvPkg := rfl
@[simp] theorem State.onVcore_kvBase (g : VCore → VCore) : (s.onVcore n g).kvBase = s.kvBase := rfl
@[simp] theorem State.onVcore_kvStride (g : VCore → VCore) : (s.onVcore n g).kvStride = s.kvStride := rfl
@[simp] theorem State.onVcore_kvSlots (g : VCore → VCore) : (s.onVcore n g).kvSlots = s.kvSlots := rfl
@[simp] theorem State.onVcore_polders (g : VCore → VCore) : (s.onVcore n g).polders = s.polders := rfl
@[simp] theorem State.onVcore_halfDies (g : VCore → VCore) : (s.onVcore n g).halfDies = s.halfDies := rfl
@[simp] theorem State.onVcore_fencedCulverts (g : VCore → VCore) : (s.onVcore n g).fencedCulverts = s.fencedCulverts := rfl
@[simp] theorem State.onVcore_narrowed (g : VCore → VCore) : (s.onVcore n g).narrowed = s.narrowed := rfl
@[simp] theorem State.onVcore_funcs (g : VCore → VCore) : (s.onVcore n g).funcs = s.funcs := rfl
@[simp] theorem State.onVcore_pcie (g : VCore → VCore) : (s.onVcore n g).pcie = s.pcie := rfl
@[simp] theorem State.onVcore_bar4Win (g : VCore → VCore) : (s.onVcore n g).bar4Win = s.bar4Win := rfl
@[simp] theorem State.onVcore_bar4Off (g : VCore → VCore) : (s.onVcore n g).bar4Off = s.bar4Off := rfl
@[simp] theorem State.onVcore_vfMap (g : VCore → VCore) : (s.onVcore n g).vfMap = s.vfMap := rfl
@[simp] theorem State.onVcore_accErr (g : VCore → VCore) : (s.onVcore n g).accErr = s.accErr := rfl
@[simp] theorem State.onVcore_gates (g : VCore → VCore) : (s.onVcore n g).gates = s.gates := rfl
@[simp] theorem State.onVcore_fgNo (g : VCore → VCore) : (s.onVcore n g).fgNo = s.fgNo := rfl
@[simp] theorem State.onVcore_gateChannels (g : VCore → VCore) : (s.onVcore n g).gateChannels = s.gateChannels := rfl
@[simp] theorem State.onVcore_gateEndedJob (g : VCore → VCore) : (s.onVcore n g).gateEndedJob = s.gateEndedJob := rfl
@[simp] theorem State.onVcore_draining (g : VCore → VCore) : (s.onVcore n g).draining = s.draining := rfl
@[simp] theorem State.onVcore_board (g : VCore → VCore) : (s.onVcore n g).board = s.board := rfl
@[simp] theorem State.onVcore_boardLost (g : VCore → VCore) : (s.onVcore n g).boardLost = s.boardLost := rfl
@[simp] theorem State.onVcore_boardErrors (g : VCore → VCore) : (s.onVcore n g).boardErrors = s.boardErrors := rfl
@[simp] theorem State.onVcore_dma (g : VCore → VCore) : (s.onVcore n g).dma = s.dma := rfl
@[simp] theorem State.onVcore_engines (g : VCore → VCore) : (s.onVcore n g).engines = s.engines := rfl
@[simp] theorem State.onVcore_links (g : VCore → VCore) : (s.onVcore n g).links = s.links := rfl
@[simp] theorem State.onVcore_fabricId (g : VCore → VCore) : (s.onVcore n g).fabricId = s.fabricId := rfl
@[simp] theorem State.onVcore_windows (g : VCore → VCore) : (s.onVcore n g).windows = s.windows := rfl
@[simp] theorem State.onVcore_inbound (g : VCore → VCore) : (s.onVcore n g).inbound = s.inbound := rfl
@[simp] theorem State.onVcore_ledger (g : VCore → VCore) : (s.onVcore n g).ledger = s.ledger := rfl
@[simp] theorem State.onVcore_thermal (g : VCore → VCore) : (s.onVcore n g).thermal = s.thermal := rfl
@[simp] theorem State.onVcore_power (g : VCore → VCore) : (s.onVcore n g).power = s.power := rfl
@[simp] theorem State.onVcore_boot (g : VCore → VCore) : (s.onVcore n g).boot = s.boot := rfl
@[simp] theorem State.onVcore_repair (g : VCore → VCore) : (s.onVcore n g).repair = s.repair := rfl
@[simp] theorem State.onVcore_fuses (g : VCore → VCore) : (s.onVcore n g).fuses = s.fuses := rfl
@[simp] theorem State.onVcore_trust (g : VCore → VCore) : (s.onVcore n g).trust = s.trust := rfl
@[simp] theorem State.onVcore_time (g : VCore → VCore) : (s.onVcore n g).time = s.time := rfl
@[simp] theorem State.onVcore_smbus (g : VCore → VCore) : (s.onVcore n g).smbus = s.smbus := rfl
@[simp] theorem State.onVcore_cdcExpired (g : VCore → VCore) : (s.onVcore n g).cdcExpired = s.cdcExpired := rfl
@[simp] theorem State.onVcore_cdcDown (g : VCore → VCore) : (s.onVcore n g).cdcDown = s.cdcDown := rfl
@[simp] theorem State.onVcore_log (g : VCore → VCore) : (s.onVcore n g).log = s.log := rfl
@[simp] theorem State.onVcore_accLog (g : VCore → VCore) : (s.onVcore n g).accLog = s.accLog := rfl
@[simp] theorem State.onVcore_vault (g : VCore → VCore) : (s.onVcore n g).vault = s.vault := rfl
@[simp] theorem State.onVcore_vaultCounters (g : VCore → VCore) : (s.onVcore n g).vaultCounters = s.vaultCounters := rfl
@[simp] theorem State.onVcore_vaultSeq (g : VCore → VCore) : (s.onVcore n g).vaultSeq = s.vaultSeq := rfl
@[simp] theorem State.onVcore_recordDue (g : VCore → VCore) : (s.onVcore n g).recordDue = s.recordDue := rfl
@[simp] theorem State.onVcore_dieTest (g : VCore → VCore) : (s.onVcore n g).dieTest = s.dieTest := rfl

@[simp] theorem State.onVcore_func (g : VCore → VCore) : (s.onVcore n g).func k = s.func k := rfl
@[simp] theorem State.onVcore_polder (g : VCore → VCore) : (s.onVcore n g).polder k = s.polder k := rfl
@[simp] theorem State.onVcore_halfDie (g : VCore → VCore) : (s.onVcore n g).halfDie k = s.halfDie k := rfl
@[simp] theorem State.onVcore_chan (g : VCore → VCore) : (s.onVcore n g).chan k = s.chan k := rfl
@[simp] theorem State.onVcore_engine (g : VCore → VCore) : (s.onVcore n g).engine k = s.engine k := rfl
@[simp] theorem State.onVcore_link (g : VCore → VCore) : (s.onVcore n g).link k = s.link k := rfl
@[simp] theorem State.onVcore_cluster (g : VCore → VCore) : (s.onVcore n g).cluster k = s.cluster k := rfl
@[simp] theorem State.onVcore_edgeCh (g : VCore → VCore) : (s.onVcore n g).edgeCh k = s.edgeCh k := rfl
@[simp] theorem State.onVcore_stack (g : VCore → VCore) : (s.onVcore n g).stack k = s.stack k := rfl
@[simp] theorem State.onVcore_basin (g : VCore → VCore) : (s.onVcore n g).basin k = s.basin k := rfl
@[simp] theorem State.onVcore_ucmDie (g : VCore → VCore) : (s.onVcore n g).ucmDie k = s.ucmDie k := rfl
@[simp] theorem State.onVcore_tcore (g : VCore → VCore) : (s.onVcore n g).tcore k = s.tcore k := rfl
@[simp] theorem State.onVcore_score (g : VCore → VCore) : (s.onVcore n g).score k = s.score k := rfl

/-- The unit itself changes, and no other of its kind. -/
@[simp] theorem State.onVcore_vcore (g : VCore → VCore) : (s.onVcore n g).vcore k = if n = k then g (s.vcore n) else s.vcore k := by
  simp [State.onVcore]

/-! ### SCore -/

@[simp] theorem State.setScore_pending (x : SCore) : (s.setScore n x).pending = s.pending := rfl
@[simp] theorem State.setScore_fresh (x : SCore) : (s.setScore n x).fresh = s.fresh := rfl
@[simp] theorem State.setScore_slotPins (x : SCore) : (s.setScore n x).slotPins = s.slotPins := rfl
@[simp] theorem State.setScore_pins (x : SCore) : (s.setScore n x).pins = s.pins := rfl
@[simp] theorem State.setScore_hostMem (x : SCore) : (s.setScore n x).hostMem = s.hostMem := rfl
@[simp] theorem State.setScore_hostErr (x : SCore) : (s.setScore n x).hostErr = s.hostErr := rfl
@[simp] theorem State.setScore_reply (x : SCore) : (s.setScore n x).reply = s.reply := rfl
@[simp] theorem State.setScore_lateReplies (x : SCore) : (s.setScore n x).lateReplies = s.lateReplies := rfl
@[simp] theorem State.setScore_gathers (x : SCore) : (s.setScore n x).gathers = s.gathers := rfl
@[simp] theorem State.setScore_gatherNo (x : SCore) : (s.setScore n x).gatherNo = s.gatherNo := rfl
@[simp] theorem State.setScore_msixSent (x : SCore) : (s.setScore n x).msixSent = s.msixSent := rfl
@[simp] theorem State.setScore_aerErrors (x : SCore) : (s.setScore n x).aerErrors = s.aerErrors := rfl
@[simp] theorem State.setScore_tcores (x : SCore) : (s.setScore n x).tcores = s.tcores := rfl
@[simp] theorem State.setScore_vcores (x : SCore) : (s.setScore n x).vcores = s.vcores := rfl
@[simp] theorem State.setScore_clusters (x : SCore) : (s.setScore n x).clusters = s.clusters := rfl
@[simp] theorem State.setScore_ucm (x : SCore) : (s.setScore n x).ucm = s.ucm := rfl
@[simp] theorem State.setScore_ucmValid (x : SCore) : (s.setScore n x).ucmValid = s.ucmValid := rfl
@[simp] theorem State.setScore_ucmBad (x : SCore) : (s.setScore n x).ucmBad = s.ucmBad := rfl
@[simp] theorem State.setScore_ucmDies (x : SCore) : (s.setScore n x).ucmDies = s.ucmDies := rfl
@[simp] theorem State.setScore_ucmScrub (x : SCore) : (s.setScore n x).ucmScrub = s.ucmScrub := rfl
@[simp] theorem State.setScore_merges (x : SCore) : (s.setScore n x).merges = s.merges := rfl
@[simp] theorem State.setScore_edge (x : SCore) : (s.setScore n x).edge = s.edge := rfl
@[simp] theorem State.setScore_edgeBad (x : SCore) : (s.setScore n x).edgeBad = s.edgeBad := rfl
@[simp] theorem State.setScore_channels (x : SCore) : (s.setScore n x).channels = s.channels := rfl
@[simp] theorem State.setScore_edgeStacks (x : SCore) : (s.setScore n x).edgeStacks = s.edgeStacks := rfl
@[simp] theorem State.setScore_basins (x : SCore) : (s.setScore n x).basins = s.basins := rfl
@[simp] theorem State.setScore_intlvPkg (x : SCore) : (s.setScore n x).intlvPkg = s.intlvPkg := rfl
@[simp] theorem State.setScore_kvBase (x : SCore) : (s.setScore n x).kvBase = s.kvBase := rfl
@[simp] theorem State.setScore_kvStride (x : SCore) : (s.setScore n x).kvStride = s.kvStride := rfl
@[simp] theorem State.setScore_kvSlots (x : SCore) : (s.setScore n x).kvSlots = s.kvSlots := rfl
@[simp] theorem State.setScore_polders (x : SCore) : (s.setScore n x).polders = s.polders := rfl
@[simp] theorem State.setScore_halfDies (x : SCore) : (s.setScore n x).halfDies = s.halfDies := rfl
@[simp] theorem State.setScore_fencedCulverts (x : SCore) : (s.setScore n x).fencedCulverts = s.fencedCulverts := rfl
@[simp] theorem State.setScore_narrowed (x : SCore) : (s.setScore n x).narrowed = s.narrowed := rfl
@[simp] theorem State.setScore_funcs (x : SCore) : (s.setScore n x).funcs = s.funcs := rfl
@[simp] theorem State.setScore_pcie (x : SCore) : (s.setScore n x).pcie = s.pcie := rfl
@[simp] theorem State.setScore_bar4Win (x : SCore) : (s.setScore n x).bar4Win = s.bar4Win := rfl
@[simp] theorem State.setScore_bar4Off (x : SCore) : (s.setScore n x).bar4Off = s.bar4Off := rfl
@[simp] theorem State.setScore_vfMap (x : SCore) : (s.setScore n x).vfMap = s.vfMap := rfl
@[simp] theorem State.setScore_accErr (x : SCore) : (s.setScore n x).accErr = s.accErr := rfl
@[simp] theorem State.setScore_gates (x : SCore) : (s.setScore n x).gates = s.gates := rfl
@[simp] theorem State.setScore_fgNo (x : SCore) : (s.setScore n x).fgNo = s.fgNo := rfl
@[simp] theorem State.setScore_gateChannels (x : SCore) : (s.setScore n x).gateChannels = s.gateChannels := rfl
@[simp] theorem State.setScore_gateEndedJob (x : SCore) : (s.setScore n x).gateEndedJob = s.gateEndedJob := rfl
@[simp] theorem State.setScore_draining (x : SCore) : (s.setScore n x).draining = s.draining := rfl
@[simp] theorem State.setScore_board (x : SCore) : (s.setScore n x).board = s.board := rfl
@[simp] theorem State.setScore_boardLost (x : SCore) : (s.setScore n x).boardLost = s.boardLost := rfl
@[simp] theorem State.setScore_boardErrors (x : SCore) : (s.setScore n x).boardErrors = s.boardErrors := rfl
@[simp] theorem State.setScore_dma (x : SCore) : (s.setScore n x).dma = s.dma := rfl
@[simp] theorem State.setScore_engines (x : SCore) : (s.setScore n x).engines = s.engines := rfl
@[simp] theorem State.setScore_links (x : SCore) : (s.setScore n x).links = s.links := rfl
@[simp] theorem State.setScore_fabricId (x : SCore) : (s.setScore n x).fabricId = s.fabricId := rfl
@[simp] theorem State.setScore_windows (x : SCore) : (s.setScore n x).windows = s.windows := rfl
@[simp] theorem State.setScore_inbound (x : SCore) : (s.setScore n x).inbound = s.inbound := rfl
@[simp] theorem State.setScore_ledger (x : SCore) : (s.setScore n x).ledger = s.ledger := rfl
@[simp] theorem State.setScore_thermal (x : SCore) : (s.setScore n x).thermal = s.thermal := rfl
@[simp] theorem State.setScore_power (x : SCore) : (s.setScore n x).power = s.power := rfl
@[simp] theorem State.setScore_boot (x : SCore) : (s.setScore n x).boot = s.boot := rfl
@[simp] theorem State.setScore_repair (x : SCore) : (s.setScore n x).repair = s.repair := rfl
@[simp] theorem State.setScore_fuses (x : SCore) : (s.setScore n x).fuses = s.fuses := rfl
@[simp] theorem State.setScore_trust (x : SCore) : (s.setScore n x).trust = s.trust := rfl
@[simp] theorem State.setScore_time (x : SCore) : (s.setScore n x).time = s.time := rfl
@[simp] theorem State.setScore_smbus (x : SCore) : (s.setScore n x).smbus = s.smbus := rfl
@[simp] theorem State.setScore_cdcExpired (x : SCore) : (s.setScore n x).cdcExpired = s.cdcExpired := rfl
@[simp] theorem State.setScore_cdcDown (x : SCore) : (s.setScore n x).cdcDown = s.cdcDown := rfl
@[simp] theorem State.setScore_log (x : SCore) : (s.setScore n x).log = s.log := rfl
@[simp] theorem State.setScore_accLog (x : SCore) : (s.setScore n x).accLog = s.accLog := rfl
@[simp] theorem State.setScore_vault (x : SCore) : (s.setScore n x).vault = s.vault := rfl
@[simp] theorem State.setScore_vaultCounters (x : SCore) : (s.setScore n x).vaultCounters = s.vaultCounters := rfl
@[simp] theorem State.setScore_vaultSeq (x : SCore) : (s.setScore n x).vaultSeq = s.vaultSeq := rfl
@[simp] theorem State.setScore_recordDue (x : SCore) : (s.setScore n x).recordDue = s.recordDue := rfl
@[simp] theorem State.setScore_dieTest (x : SCore) : (s.setScore n x).dieTest = s.dieTest := rfl

@[simp] theorem State.setScore_func (x : SCore) : (s.setScore n x).func k = s.func k := rfl
@[simp] theorem State.setScore_polder (x : SCore) : (s.setScore n x).polder k = s.polder k := rfl
@[simp] theorem State.setScore_halfDie (x : SCore) : (s.setScore n x).halfDie k = s.halfDie k := rfl
@[simp] theorem State.setScore_chan (x : SCore) : (s.setScore n x).chan k = s.chan k := rfl
@[simp] theorem State.setScore_engine (x : SCore) : (s.setScore n x).engine k = s.engine k := rfl
@[simp] theorem State.setScore_link (x : SCore) : (s.setScore n x).link k = s.link k := rfl
@[simp] theorem State.setScore_cluster (x : SCore) : (s.setScore n x).cluster k = s.cluster k := rfl
@[simp] theorem State.setScore_edgeCh (x : SCore) : (s.setScore n x).edgeCh k = s.edgeCh k := rfl
@[simp] theorem State.setScore_stack (x : SCore) : (s.setScore n x).stack k = s.stack k := rfl
@[simp] theorem State.setScore_basin (x : SCore) : (s.setScore n x).basin k = s.basin k := rfl
@[simp] theorem State.setScore_ucmDie (x : SCore) : (s.setScore n x).ucmDie k = s.ucmDie k := rfl
@[simp] theorem State.setScore_tcore (x : SCore) : (s.setScore n x).tcore k = s.tcore k := rfl
@[simp] theorem State.setScore_vcore (x : SCore) : (s.setScore n x).vcore k = s.vcore k := rfl

/-- The unit itself changes, and no other of its kind. -/
@[simp] theorem State.setScore_score (x : SCore) : (s.setScore n x).score k = if n = k then x else s.score k := by
  unfold State.score
  rw [State.setScore_halfDie]
  unfold State.setScore
  by_cases h : n = k
  · subst h; simp
  · rw [if_neg h]; exact Sparse.get_set_other _ _ _ _ _ _ h

@[simp] theorem State.onScore_pending (g : SCore → SCore) : (s.onScore n g).pending = s.pending := rfl
@[simp] theorem State.onScore_fresh (g : SCore → SCore) : (s.onScore n g).fresh = s.fresh := rfl
@[simp] theorem State.onScore_slotPins (g : SCore → SCore) : (s.onScore n g).slotPins = s.slotPins := rfl
@[simp] theorem State.onScore_pins (g : SCore → SCore) : (s.onScore n g).pins = s.pins := rfl
@[simp] theorem State.onScore_hostMem (g : SCore → SCore) : (s.onScore n g).hostMem = s.hostMem := rfl
@[simp] theorem State.onScore_hostErr (g : SCore → SCore) : (s.onScore n g).hostErr = s.hostErr := rfl
@[simp] theorem State.onScore_reply (g : SCore → SCore) : (s.onScore n g).reply = s.reply := rfl
@[simp] theorem State.onScore_lateReplies (g : SCore → SCore) : (s.onScore n g).lateReplies = s.lateReplies := rfl
@[simp] theorem State.onScore_gathers (g : SCore → SCore) : (s.onScore n g).gathers = s.gathers := rfl
@[simp] theorem State.onScore_gatherNo (g : SCore → SCore) : (s.onScore n g).gatherNo = s.gatherNo := rfl
@[simp] theorem State.onScore_msixSent (g : SCore → SCore) : (s.onScore n g).msixSent = s.msixSent := rfl
@[simp] theorem State.onScore_aerErrors (g : SCore → SCore) : (s.onScore n g).aerErrors = s.aerErrors := rfl
@[simp] theorem State.onScore_tcores (g : SCore → SCore) : (s.onScore n g).tcores = s.tcores := rfl
@[simp] theorem State.onScore_vcores (g : SCore → SCore) : (s.onScore n g).vcores = s.vcores := rfl
@[simp] theorem State.onScore_clusters (g : SCore → SCore) : (s.onScore n g).clusters = s.clusters := rfl
@[simp] theorem State.onScore_ucm (g : SCore → SCore) : (s.onScore n g).ucm = s.ucm := rfl
@[simp] theorem State.onScore_ucmValid (g : SCore → SCore) : (s.onScore n g).ucmValid = s.ucmValid := rfl
@[simp] theorem State.onScore_ucmBad (g : SCore → SCore) : (s.onScore n g).ucmBad = s.ucmBad := rfl
@[simp] theorem State.onScore_ucmDies (g : SCore → SCore) : (s.onScore n g).ucmDies = s.ucmDies := rfl
@[simp] theorem State.onScore_ucmScrub (g : SCore → SCore) : (s.onScore n g).ucmScrub = s.ucmScrub := rfl
@[simp] theorem State.onScore_merges (g : SCore → SCore) : (s.onScore n g).merges = s.merges := rfl
@[simp] theorem State.onScore_edge (g : SCore → SCore) : (s.onScore n g).edge = s.edge := rfl
@[simp] theorem State.onScore_edgeBad (g : SCore → SCore) : (s.onScore n g).edgeBad = s.edgeBad := rfl
@[simp] theorem State.onScore_channels (g : SCore → SCore) : (s.onScore n g).channels = s.channels := rfl
@[simp] theorem State.onScore_edgeStacks (g : SCore → SCore) : (s.onScore n g).edgeStacks = s.edgeStacks := rfl
@[simp] theorem State.onScore_basins (g : SCore → SCore) : (s.onScore n g).basins = s.basins := rfl
@[simp] theorem State.onScore_intlvPkg (g : SCore → SCore) : (s.onScore n g).intlvPkg = s.intlvPkg := rfl
@[simp] theorem State.onScore_kvBase (g : SCore → SCore) : (s.onScore n g).kvBase = s.kvBase := rfl
@[simp] theorem State.onScore_kvStride (g : SCore → SCore) : (s.onScore n g).kvStride = s.kvStride := rfl
@[simp] theorem State.onScore_kvSlots (g : SCore → SCore) : (s.onScore n g).kvSlots = s.kvSlots := rfl
@[simp] theorem State.onScore_polders (g : SCore → SCore) : (s.onScore n g).polders = s.polders := rfl
@[simp] theorem State.onScore_halfDies (g : SCore → SCore) : (s.onScore n g).halfDies = s.halfDies := rfl
@[simp] theorem State.onScore_fencedCulverts (g : SCore → SCore) : (s.onScore n g).fencedCulverts = s.fencedCulverts := rfl
@[simp] theorem State.onScore_narrowed (g : SCore → SCore) : (s.onScore n g).narrowed = s.narrowed := rfl
@[simp] theorem State.onScore_funcs (g : SCore → SCore) : (s.onScore n g).funcs = s.funcs := rfl
@[simp] theorem State.onScore_pcie (g : SCore → SCore) : (s.onScore n g).pcie = s.pcie := rfl
@[simp] theorem State.onScore_bar4Win (g : SCore → SCore) : (s.onScore n g).bar4Win = s.bar4Win := rfl
@[simp] theorem State.onScore_bar4Off (g : SCore → SCore) : (s.onScore n g).bar4Off = s.bar4Off := rfl
@[simp] theorem State.onScore_vfMap (g : SCore → SCore) : (s.onScore n g).vfMap = s.vfMap := rfl
@[simp] theorem State.onScore_accErr (g : SCore → SCore) : (s.onScore n g).accErr = s.accErr := rfl
@[simp] theorem State.onScore_gates (g : SCore → SCore) : (s.onScore n g).gates = s.gates := rfl
@[simp] theorem State.onScore_fgNo (g : SCore → SCore) : (s.onScore n g).fgNo = s.fgNo := rfl
@[simp] theorem State.onScore_gateChannels (g : SCore → SCore) : (s.onScore n g).gateChannels = s.gateChannels := rfl
@[simp] theorem State.onScore_gateEndedJob (g : SCore → SCore) : (s.onScore n g).gateEndedJob = s.gateEndedJob := rfl
@[simp] theorem State.onScore_draining (g : SCore → SCore) : (s.onScore n g).draining = s.draining := rfl
@[simp] theorem State.onScore_board (g : SCore → SCore) : (s.onScore n g).board = s.board := rfl
@[simp] theorem State.onScore_boardLost (g : SCore → SCore) : (s.onScore n g).boardLost = s.boardLost := rfl
@[simp] theorem State.onScore_boardErrors (g : SCore → SCore) : (s.onScore n g).boardErrors = s.boardErrors := rfl
@[simp] theorem State.onScore_dma (g : SCore → SCore) : (s.onScore n g).dma = s.dma := rfl
@[simp] theorem State.onScore_engines (g : SCore → SCore) : (s.onScore n g).engines = s.engines := rfl
@[simp] theorem State.onScore_links (g : SCore → SCore) : (s.onScore n g).links = s.links := rfl
@[simp] theorem State.onScore_fabricId (g : SCore → SCore) : (s.onScore n g).fabricId = s.fabricId := rfl
@[simp] theorem State.onScore_windows (g : SCore → SCore) : (s.onScore n g).windows = s.windows := rfl
@[simp] theorem State.onScore_inbound (g : SCore → SCore) : (s.onScore n g).inbound = s.inbound := rfl
@[simp] theorem State.onScore_ledger (g : SCore → SCore) : (s.onScore n g).ledger = s.ledger := rfl
@[simp] theorem State.onScore_thermal (g : SCore → SCore) : (s.onScore n g).thermal = s.thermal := rfl
@[simp] theorem State.onScore_power (g : SCore → SCore) : (s.onScore n g).power = s.power := rfl
@[simp] theorem State.onScore_boot (g : SCore → SCore) : (s.onScore n g).boot = s.boot := rfl
@[simp] theorem State.onScore_repair (g : SCore → SCore) : (s.onScore n g).repair = s.repair := rfl
@[simp] theorem State.onScore_fuses (g : SCore → SCore) : (s.onScore n g).fuses = s.fuses := rfl
@[simp] theorem State.onScore_trust (g : SCore → SCore) : (s.onScore n g).trust = s.trust := rfl
@[simp] theorem State.onScore_time (g : SCore → SCore) : (s.onScore n g).time = s.time := rfl
@[simp] theorem State.onScore_smbus (g : SCore → SCore) : (s.onScore n g).smbus = s.smbus := rfl
@[simp] theorem State.onScore_cdcExpired (g : SCore → SCore) : (s.onScore n g).cdcExpired = s.cdcExpired := rfl
@[simp] theorem State.onScore_cdcDown (g : SCore → SCore) : (s.onScore n g).cdcDown = s.cdcDown := rfl
@[simp] theorem State.onScore_log (g : SCore → SCore) : (s.onScore n g).log = s.log := rfl
@[simp] theorem State.onScore_accLog (g : SCore → SCore) : (s.onScore n g).accLog = s.accLog := rfl
@[simp] theorem State.onScore_vault (g : SCore → SCore) : (s.onScore n g).vault = s.vault := rfl
@[simp] theorem State.onScore_vaultCounters (g : SCore → SCore) : (s.onScore n g).vaultCounters = s.vaultCounters := rfl
@[simp] theorem State.onScore_vaultSeq (g : SCore → SCore) : (s.onScore n g).vaultSeq = s.vaultSeq := rfl
@[simp] theorem State.onScore_recordDue (g : SCore → SCore) : (s.onScore n g).recordDue = s.recordDue := rfl
@[simp] theorem State.onScore_dieTest (g : SCore → SCore) : (s.onScore n g).dieTest = s.dieTest := rfl

@[simp] theorem State.onScore_func (g : SCore → SCore) : (s.onScore n g).func k = s.func k := rfl
@[simp] theorem State.onScore_polder (g : SCore → SCore) : (s.onScore n g).polder k = s.polder k := rfl
@[simp] theorem State.onScore_halfDie (g : SCore → SCore) : (s.onScore n g).halfDie k = s.halfDie k := rfl
@[simp] theorem State.onScore_chan (g : SCore → SCore) : (s.onScore n g).chan k = s.chan k := rfl
@[simp] theorem State.onScore_engine (g : SCore → SCore) : (s.onScore n g).engine k = s.engine k := rfl
@[simp] theorem State.onScore_link (g : SCore → SCore) : (s.onScore n g).link k = s.link k := rfl
@[simp] theorem State.onScore_cluster (g : SCore → SCore) : (s.onScore n g).cluster k = s.cluster k := rfl
@[simp] theorem State.onScore_edgeCh (g : SCore → SCore) : (s.onScore n g).edgeCh k = s.edgeCh k := rfl
@[simp] theorem State.onScore_stack (g : SCore → SCore) : (s.onScore n g).stack k = s.stack k := rfl
@[simp] theorem State.onScore_basin (g : SCore → SCore) : (s.onScore n g).basin k = s.basin k := rfl
@[simp] theorem State.onScore_ucmDie (g : SCore → SCore) : (s.onScore n g).ucmDie k = s.ucmDie k := rfl
@[simp] theorem State.onScore_tcore (g : SCore → SCore) : (s.onScore n g).tcore k = s.tcore k := rfl
@[simp] theorem State.onScore_vcore (g : SCore → SCore) : (s.onScore n g).vcore k = s.vcore k := rfl

/-- The unit itself changes, and no other of its kind. -/
@[simp] theorem State.onScore_score (g : SCore → SCore) : (s.onScore n g).score k = if n = k then g (s.score n) else s.score k := by
  simp [State.onScore]

end Sys2Proof.Machine
end

