-- ==== Sys2Proof/Laws/Commands.lean ====
section
/-! SUPPORT. One lemma for each shared operation of a command: serving a message, answering it, sending records and
events, and a core's running operation.  Later proofs cite these and do not unfold the operations. -/

namespace Sys2Proof.Machine

variable {s t u : State} {c : Cmd}

/-! ### Serving a message (R326, R333) -/

theorem serve_of_takes {f : Nat} {mine : Nat → Nat → Bool} (run : State → Cmd → State) (h : s.Takes f mine c u) :
    s.serve_ f mine run = run u c := by
  obtain ⟨m, rest, hi, ho, hm, hb, hst, rfl, hc⟩ := h
  have hb' : (m.block && !(s.func f).bme) = false := by
    cases hbl : m.block <;> simp_all
  simp [State.serve_, hi, ho, hm, hb', hst, hc]

theorem command_of_takesOp {f opc : Nat} (run : State → Cmd → State) (h : s.TakesOp f opc c u) :
    s.command f opc run = run u c := serve_of_takes run h

theorem serve_of_closed {f : Nat} (mine : Nat → Nat → Bool) (run : State → Cmd → State) (h : s.mailOpen f = false) :
    s.serve_ f mine run = s := by
  unfold State.serve_
  split <;> simp [h]

theorem serve_of_empty {f : Nat} (mine : Nat → Nat → Bool) (run : State → Cmd → State) (h : (s.func f).inbox = []) :
    s.serve_ f mine run = s := by
  simp [State.serve_, h]

/-- A message that fails a check of R333 is answered with that check's status, and the command's own meaning is not
reached. -/
theorem serve_of_checkFails {f : Nat} {mine : Nat → Nat → Bool} (run : State → Cmd → State) {m : Msg} {rest : List Msg}
    {st : Status} (hi : (s.func f).inbox = m :: rest) (ho : s.mailOpen f = true) (hm : mine m.opc m.a1 = true)
    (hb : m.block = true → (s.func f).bme = true) (hst : (s.func f).stuffed = false)
    (hc : (s.onFunc f fun x => { x with inbox := rest }).checked f m = .error st) :
    s.serve_ f mine run
      = (s.onFunc f fun x => { x with inbox := rest }).complete f m.tag m.opc (bit m.flags 1)
          { status := st, polder := namedPolder m.opc m.inline_ } := by
  have hb' : (m.block && !(s.func f).bme) = false := by
    cases hbl : m.block <;> simp_all
  simp [State.serve_, hi, ho, hm, hb', hst, hc]

/-! ### Outputs (R324) -/

theorem output_of_none (l : List Byte) (a : Answer) (h : c.out = 0) :
    s.output c l a = s.answer c { a with outBytes := 0 } := by
  simp [State.output, Cmd.fits, State.writeOut, h]

theorem output_of_small (l : List Byte) (a : Answer) (h : c.fits l.length = false) :
    s.output c l a = s.refuse c .bound := by
  simp [State.output, h]

/-! ### Records, events and short words (R327-R330) -/

/-- `t` differs from `s` only in what sending to function `f` touches; no other function's registers differ. -/
def SendsTo (f : Nat) (s t : State) : Prop := s.OnlySends t ∧ ∀ g, g ≠ f → t.func g = s.func g

variable {f : Nat}

theorem SendsTo.refl (s : State) : SendsTo f s s := ⟨rfl, fun _ _ => rfl⟩

theorem SendsTo.trans (h : SendsTo f s t) (k : SendsTo f t u) : SendsTo f s u := by
  refine ⟨?_, fun g hg => (k.2 g hg).trans (h.2 g hg)⟩
  have h1 := h.1
  have k1 := k.1
  unfold State.OnlySends at *
  rw [k1, h1]

theorem sendsTo_onFunc (s : State) (g : Func → Func) : SendsTo f s (s.onFunc f g) :=
  ⟨rfl, fun k hk => by simp [Ne.symm hk]⟩

theorem sendsTo_addLog (s : State) (a b c d e g : Nat) : SendsTo f s (s.addLog a b c d e g) := ⟨rfl, fun _ _ => rfl⟩

theorem sendsTo_hostWrite {a : Nat} {l : List Byte} (h : s.hostWrite f a l = some t) : SendsTo f s t := by
  unfold State.hostWrite at h
  split at h
  · cases h
    exact ⟨rfl, fun _ _ => rfl⟩
  · cases h

theorem sendsTo_signal (s : State) (v : Nat) : SendsTo f s (s.signal f v) := by
  unfold State.signal
  dsimp only
  split
  · exact ⟨rfl, fun _ _ => rfl⟩
  · exact ⟨rfl, fun k hk => by simp [Ne.symm hk]⟩

theorem sendsTo_sendWords (s : State) (ws : List Word) : SendsTo f s (s.sendWords f ws) := by
  unfold State.sendWords
  dsimp only
  split
  · exact (sendsTo_onFunc s _).trans (sendsTo_signal _ _)
  · exact sendsTo_onFunc s _

theorem sendsTo_reread (s : State) : SendsTo f s (s.reread f) := by
  unfold State.reread
  split
  · exact .refl s
  · split
    · exact .refl s
    · dsimp only
      split
      · exact sendsTo_onFunc s _
      · exact sendsTo_addLog s _ _ _ _ _ _

theorem sendsTo_writeRecord (s : State) (e : Bool) (l : List Byte) : SendsTo f s (s.writeRecord f e l) := by
  unfold State.writeRecord
  split
  · exact .refl s
  · split
    · exact sendsTo_addLog s _ _ _ _ _ _
    · next h => exact (sendsTo_hostWrite h).trans ((sendsTo_onFunc _ _).trans (sendsTo_signal _ _))

theorem sendsTo_flushAux (n : Nat) (s : State) : SendsTo f s (State.flushAux f n s) := by
  induction n generalizing s with
  | zero => exact .refl s
  | succ n ih =>
    unfold State.flushAux
    split
    · next d rest r _ _ =>
      split
      · exact .refl s
      · have hr : SendsTo f s (if r.full then s.reread f else s) := by
          split
          · exact sendsTo_reread s
          · exact .refl s
        dsimp only
        generalize (if r.full then s.reread f else s) = u at hr ⊢
        split
        · exact hr
        · split
          · exact hr
          · split
            · exact hr.trans (((sendsTo_onFunc _ _).trans (sendsTo_writeRecord _ _ _)).trans (ih _))
            · exact hr.trans (((sendsTo_onFunc _ _).trans (sendsTo_writeRecord _ _ _)).trans (ih _))
    · exact .refl s

/-- Everything that writing due records touches. -/
theorem sendsTo_flush (s : State) : SendsTo f s (s.flush f) := sendsTo_flushAux _ s

/-- Everything that answering a command touches: the registers of its function, host memory, the messages sent and the
error log. -/
theorem sendsTo_post (s : State) (tag opc : Nat) (n : Bool) (a : Answer) : SendsTo f s (s.post f tag opc n a) := by
  unfold State.post
  dsimp only
  split
  · exact ((sendsTo_onFunc s _).trans (sendsTo_flush _)).trans (sendsTo_sendWords _ _)
  · exact (sendsTo_onFunc s _).trans (sendsTo_flush _)

theorem sendsTo_complete (s : State) (tag opc : Nat) (n : Bool) (a : Answer) :
    SendsTo f s (s.complete f tag opc n a) := (sendsTo_onFunc s _).trans (sendsTo_post _ _ _ _ _)

theorem sendsTo_answer (s : State) (c : Cmd) (a : Answer) : SendsTo c.func s (s.answer c a) := sendsTo_complete s _ _ _ a

theorem sendsTo_refuse (s : State) (c : Cmd) (st : Status) : SendsTo c.func s (s.refuse c st) := sendsTo_answer s c _

theorem sendsTo_eventTo (s : State) (p r0 r1 code : Nat) : SendsTo f s (s.eventTo f p r0 r1 code) := by
  unfold State.eventTo
  split
  · exact sendsTo_onFunc s _
  · exact (sendsTo_onFunc s _).trans (sendsTo_flush _)

/-- An event reaches the PF and the polder's holder, and no other function. -/
theorem event_only (s : State) (p r0 r1 code : Nat) :
    s.OnlySends (s.event p r0 r1 code)
      ∧ ∀ g, g ≠ 0 → g ≠ s.holder p → (s.event p r0 r1 code).func g = s.func g := by
  have h0 : SendsTo 0 s (s.eventTo 0 (if p < 24 then p else 0xFFFF) r0 r1 code) := sendsTo_eventTo s _ _ _ _
  unfold State.event
  split
  · exact ⟨rfl, fun _ _ _ => rfl⟩
  · dsimp only
    generalize s.eventTo 0 (if p < 24 then p else 0xFFFF) r0 r1 code = u at h0 ⊢
    split
    · have h1 : SendsTo (s.holder p) u (u.eventTo (s.holder p) p r0 r1 code) := sendsTo_eventTo _ _ _ _ _
      refine ⟨?_, fun g g0 gh => (h1.2 g gh).trans (h0.2 g g0)⟩
      have a := h0.1
      have b := h1.1
      unfold State.OnlySends at *
      rw [b, a]
    · exact ⟨h0.1, fun g g0 _ => h0.2 g g0⟩

/-! ### The running operation of a core (R89, R97) -/

/-- A V-core whose running operation has another opcode, or may not run, does nothing. -/
theorem vRun_of_idle {core opc : Nat} (g : VCore → VEnv → Nat → VCore × Option (Status × Nat)) (x : VCore → Nat → Nat)
    (h : runnable vOpc vQueue vFoot opc 0 (s.vcore core).ops = none) : s.vRun core opc g x = s := by
  simp [State.vRun, h]

/-- On a V-core that holds no sluice ring, the operation acts on the core alone and leaves its queue. -/
theorem vOp_of_runnable {core opc : Nat} (g : VCore → VEnv → Nat → VCore) {b r : List Op} {o : Op}
    (hs : s.standsStill core = false)
    (h : runnable vOpc vQueue vFoot opc 0 (s.vcore core).ops = some (b, o, r)) (h8 : core % 64 ≠ 58)
    (h9 : core % 64 ≠ 59) :
    s.vOp core opc g
      = (s.lostCycles (s.vcore core).stirred).2.setVcore core
          ((s.vcore core).after (s.vEnv core) b r o (fun c e w => (g c e w, none))
            (s.lostCycles (s.vcore core).stirred).1) := by
  simp [State.vOp, State.unlessHeld, hs, State.vRun, h, State.ringBlur, State.spoil, h8, h9]

end Sys2Proof.Machine
end

