-- ==== Sys2Proof/Laws/Kept.lean ====
section
/-! SUPPORT. The relation that every operation keeps: the command queue as it was, the byte memories in canonical form,
and no fuse taken back. -/

namespace Sys2Proof.Machine

/-- What `t` has kept of `s₀`. -/
def Kept (s₀ t : State) : Prop :=
  t.pending = s₀.pending ∧ t.hostMem.wf = true ∧ t.ucm.wf = true ∧ t.edge.wf = true
    ∧ s₀.fuses.Grows t.fuses

variable {s₀ s : State}

theorem Kept.refl (h1 : s.hostMem.wf = true) (h2 : s.ucm.wf = true) (h3 : s.edge.wf = true) : Kept s s :=
  ⟨rfl, h1, h2, h3, rfl, Nat.le_refl _, Nat.or_self _⟩

@[simp] theorem kept_ite (c : Prop) [Decidable c] {x y : State} (hx : c → Kept s₀ x) (hy : ¬c → Kept s₀ y) :
    Kept s₀ (if c then x else y) := by
  split
  · exact hx ‹_›
  · exact hy ‹_›

@[simp] theorem kept_ite_fst {β : Type} (c : Prop) [Decidable c] {x y : State × β} (hx : c → Kept s₀ x.1)
    (hy : ¬c → Kept s₀ y.1) : Kept s₀ (if c then x else y).1 := by
  split
  · exact hx ‹_›
  · exact hy ‹_›

@[simp] theorem kept_each {α : Type} (l : List α) (g : State → α → State)
    (hg : ∀ s a, Kept s₀ s → Kept s₀ (g s a)) (h : Kept s₀ s) : Kept s₀ (s.each l g) := by
  unfold State.each
  induction l generalizing s with
  | nil => exact h
  | cons a r ih => exact ih (hg s a h)

@[simp] theorem kept_foldl {α : Type} (l : List α) (g : State → α → State)
    (hg : ∀ s a, Kept s₀ s → Kept s₀ (g s a)) (h : Kept s₀ s) : Kept s₀ (l.foldl g s) := kept_each l g hg h

theorem kept_foldl_fst {α β : Type} (l : List α) (g : State × β → α → State × β)
    (hg : ∀ a b, Kept s₀ a.1 → Kept s₀ (g a b).1) (i : State × β) (h : Kept s₀ i.1) :
    Kept s₀ (l.foldl g i).1 := by
  induction l generalizing i with
  | nil => exact h
  | cons a r ih => exact ih _ (hg _ _ h)

theorem kept_next {x t : State} (h : (.next x : Result) = .next t) (hx : Kept s₀ x) : Kept s₀ t := by
  cases h
  exact hx

/-- Changing any other field keeps what the relation speaks of. -/
@[simp] theorem kept_mk (h : Kept s₀ s) {fresh_ slotPins_ pins_ hostErr_ reply_ lateReplies_ gathers_ gatherNo_ msixSent_ aerErrors_ tcores_
vcores_ scores_ clusters_ ucmValid_ ucmBad_ ucmDies_ ucmScrub_ merges_ edgeBad_ channels_
edgeStacks_ basins_ intlvPkg_ kvBase_ kvStride_ kvSlots_ polders_ halfDies_ fencedCulverts_
narrowed_ funcs_ pcie_ bar4Win_ bar4Off_ vfMap_ accErr_ gates_ fgNo_ gateChannels_ gateEndedJob_
draining_ board_ boardLost_ boardErrors_ dma_ engines_ links_ fabricId_ windows_ inbound_ ledger_
thermal_ power_ boot_ repair_ trust_ time_ smbus_ cdcExpired_ cdcDown_ log_ accLog_ vault_
vaultCounters_ vaultSeq_ recordDue_ dieTest_} :
    Kept s₀ (State.mk s.pending fresh_ slotPins_ pins_ s.hostMem hostErr_ reply_ lateReplies_ gathers_ gatherNo_ msixSent_
aerErrors_ tcores_ vcores_ scores_ clusters_ s.ucm ucmValid_ ucmBad_ ucmDies_ ucmScrub_ merges_
s.edge edgeBad_ channels_ edgeStacks_ basins_ intlvPkg_ kvBase_ kvStride_ kvSlots_ polders_
halfDies_ fencedCulverts_ narrowed_ funcs_ pcie_ bar4Win_ bar4Off_ vfMap_ accErr_ gates_ fgNo_
gateChannels_ gateEndedJob_ draining_ board_ boardLost_ boardErrors_ dma_ engines_ links_ fabricId_
windows_ inbound_ ledger_ thermal_ power_ boot_ repair_ s.fuses trust_ time_ smbus_ cdcExpired_
cdcDown_ log_ accLog_ vault_ vaultCounters_ vaultSeq_ recordDue_ dieTest_) := h

theorem Kept.hostWf (h : Kept s₀ s) : s.hostMem.wf = true := h.2.1
theorem Kept.ucmWf (h : Kept s₀ s) : s.ucm.wf = true := h.2.2.1
theorem Kept.edgeWf (h : Kept s₀ s) : s.edge.wf = true := h.2.2.2.1

theorem kept_hostMem (h : Kept s₀ s) {m : Memory} (hm : m.wf = true) : Kept s₀ { s with hostMem := m } :=
  ⟨h.1, hm, h.2.2.1, h.2.2.2.1, h.2.2.2.2⟩

theorem kept_ucm (h : Kept s₀ s) {m : Memory} (hm : m.wf = true) : Kept s₀ { s with ucm := m } :=
  ⟨h.1, h.2.1, hm, h.2.2.2.1, h.2.2.2.2⟩

theorem kept_edge (h : Kept s₀ s) {m : Memory} (hm : m.wf = true) : Kept s₀ { s with edge := m } :=
  ⟨h.1, h.2.1, h.2.2.1, hm, h.2.2.2.2⟩

theorem Fuses.Grows.trans {a b c : Fuses} (h : a.Grows b) (k : b.Grows c) : a.Grows c := by
  obtain ⟨h1, h2, h3⟩ := h
  obtain ⟨k1, k2, k3⟩ := k
  refine ⟨?_, Nat.le_trans h2 k2, ?_⟩
  · rw [k1, h1]
  · rw [← k3, ← Nat.or_assoc, h3]

theorem kept_fuses (h : Kept s₀ s) {u : Fuses} (hu : s.fuses.Grows u) : Kept s₀ { s with fuses := u } :=
  ⟨h.1, h.2.1, h.2.2.1, h.2.2.2.1, h.2.2.2.2.trans hu⟩

end Sys2Proof.Machine
end

