-- ==== Sys2Proof/Laws/KeptOps.lean ====
section
/-! SUPPORT. What the operations of Machine/Ops.lean keep (Laws/Kept.lean). -/

namespace Sys2Proof.Machine

variable {s₀ s : State}

@[simp] theorem kept_setFunc (f : Nat) (x : Func) (hk : Kept s₀ s) :
    Kept s₀ (State.setFunc s f x) := by
  unfold State.setFunc
  simp +contextual (maxDischargeDepth := 20) [*]

@[simp] theorem kept_onFunc (f : Nat) (g : Func → Func) (hk : Kept s₀ s) :
    Kept s₀ (State.onFunc s f g) := by
  unfold State.onFunc
  simp +contextual (maxDischargeDepth := 20) [*]

@[simp] theorem kept_setPolder (p : Nat) (x : Polder) (hk : Kept s₀ s) :
    Kept s₀ (State.setPolder s p x) := by
  unfold State.setPolder
  simp +contextual (maxDischargeDepth := 20) [*]

@[simp] theorem kept_onPolder (p : Nat) (g : Polder → Polder) (hk : Kept s₀ s) :
    Kept s₀ (State.onPolder s p g) := by
  unfold State.onPolder
  simp +contextual (maxDischargeDepth := 20) [*]

@[simp] theorem kept_setHalfDie (h : Nat) (x : HalfDie) (hk : Kept s₀ s) :
    Kept s₀ (State.setHalfDie s h x) := by
  unfold State.setHalfDie
  simp +contextual (maxDischargeDepth := 20) [*]

@[simp] theorem kept_onHalfDie (h : Nat) (g : HalfDie → HalfDie) (hk : Kept s₀ s) :
    Kept s₀ (State.onHalfDie s h g) := by
  unfold State.onHalfDie
  simp +contextual (maxDischargeDepth := 20) [*]

@[simp] theorem kept_setChan (ch : Nat) (x : DmaCh) (hk : Kept s₀ s) :
    Kept s₀ (State.setChan s ch x) := by
  unfold State.setChan
  simp +contextual (maxDischargeDepth := 20) [*]

@[simp] theorem kept_onChan (ch : Nat) (g : DmaCh → DmaCh) (hk : Kept s₀ s) :
    Kept s₀ (State.onChan s ch g) := by
  unfold State.onChan
  simp +contextual (maxDischargeDepth := 20) [*]

@[simp] theorem kept_onEngine (b : Nat) (g : Engine → Engine) (hk : Kept s₀ s) :
    Kept s₀ (State.onEngine s b g) := by
  unfold State.onEngine
  simp +contextual (maxDischargeDepth := 20) [*]

@[simp] theorem kept_setLink (n : Nat) (x : Link) (hk : Kept s₀ s) :
    Kept s₀ (State.setLink s n x) := by
  unfold State.setLink
  simp +contextual (maxDischargeDepth := 20) [*]

@[simp] theorem kept_onLink (n : Nat) (g : Link → Link) (hk : Kept s₀ s) :
    Kept s₀ (State.onLink s n g) := by
  unfold State.onLink
  simp +contextual (maxDischargeDepth := 20) [*]

@[simp] theorem kept_setCluster (cl : Nat) (x : Cluster) (hk : Kept s₀ s) :
    Kept s₀ (State.setCluster s cl x) := by
  unfold State.setCluster
  simp +contextual (maxDischargeDepth := 20) [*]

@[simp] theorem kept_onCluster (cl : Nat) (g : Cluster → Cluster) (hk : Kept s₀ s) :
    Kept s₀ (State.onCluster s cl g) := by
  unfold State.onCluster
  simp +contextual (maxDischargeDepth := 20) [*]

@[simp] theorem kept_setEdgeCh (e : Nat) (x : EdgeCh) (hk : Kept s₀ s) :
    Kept s₀ (State.setEdgeCh s e x) := by
  unfold State.setEdgeCh
  simp +contextual (maxDischargeDepth := 20) [*]

@[simp] theorem kept_onEdgeCh (e : Nat) (g : EdgeCh → EdgeCh) (hk : Kept s₀ s) :
    Kept s₀ (State.onEdgeCh s e g) := by
  unfold State.onEdgeCh
  simp +contextual (maxDischargeDepth := 20) [*]

@[simp] theorem kept_onStack (e : Nat) (g : Stack → Stack) (hk : Kept s₀ s) :
    Kept s₀ (State.onStack s e g) := by
  unfold State.onStack
  simp +contextual (maxDischargeDepth := 20) [*]

@[simp] theorem kept_onBasin (b : Nat) (g : Basin → Basin) (hk : Kept s₀ s) :
    Kept s₀ (State.onBasin s b g) := by
  unfold State.onBasin
  simp +contextual (maxDischargeDepth := 20) [*]

@[simp] theorem kept_onUcmDie (d : Nat) (g : UcmDie → UcmDie) (hk : Kept s₀ s) :
    Kept s₀ (State.onUcmDie s d g) := by
  unfold State.onUcmDie
  simp +contextual (maxDischargeDepth := 20) [*]

@[simp] theorem kept_take (hk : Kept s₀ s) :
    Kept s₀ (State.take s).2 := by
  unfold State.take
  simp +contextual (maxDischargeDepth := 20) [*]

@[simp] theorem kept_setTcore (c : Nat) (x : TCore) (hk : Kept s₀ s) :
    Kept s₀ (State.setTcore s c x) := by
  unfold State.setTcore
  simp +contextual (maxDischargeDepth := 20) [*]

@[simp] theorem kept_onTcore (c : Nat) (g : TCore → TCore) (hk : Kept s₀ s) :
    Kept s₀ (State.onTcore s c g) := by
  unfold State.onTcore
  simp +contextual (maxDischargeDepth := 20) [*]

@[simp] theorem kept_setVcore (c : Nat) (x : VCore) (hk : Kept s₀ s) :
    Kept s₀ (State.setVcore s c x) := by
  unfold State.setVcore
  simp +contextual (maxDischargeDepth := 20) [*]

@[simp] theorem kept_onVcore (c : Nat) (g : VCore → VCore) (hk : Kept s₀ s) :
    Kept s₀ (State.onVcore s c g) := by
  unfold State.onVcore
  simp +contextual (maxDischargeDepth := 20) [*]

@[simp] theorem kept_setScore (c : Nat) (x : SCore) (hk : Kept s₀ s) :
    Kept s₀ (State.setScore s c x) := by
  unfold State.setScore
  simp +contextual (maxDischargeDepth := 20) [*]

@[simp] theorem kept_onScore (c : Nat) (g : SCore → SCore) (hk : Kept s₀ s) :
    Kept s₀ (State.onScore s c g) := by
  unfold State.onScore
  simp +contextual (maxDischargeDepth := 20) [*]

@[simp] theorem kept_junkCores (hs : List Nat) (regs : Bool) (hk : Kept s₀ s) :
    Kept s₀ (State.junkCores s hs regs) := by
  unfold State.junkCores
  simp +contextual (maxDischargeDepth := 20) [*]

theorem kept_hostWrite (f : Nat) (a : Nat) (l : List Byte) (hk : Kept s₀ s)
    {t : State} (ht : (State.hostWrite s f a l) = some t) : Kept s₀ t := by
  unfold State.hostWrite at ht
  split at ht
  · cases ht
    exact kept_hostMem hk (Memory.wf_write _ _ _ hk.hostWf)
  · cases ht

@[simp] theorem kept_addLog (code : Nat) (func : Nat) (polder : Nat) (a : Nat) (b : Nat) (c : Nat) (hk : Kept s₀ s) :
    Kept s₀ (State.addLog s code func polder a b c) := by
  unfold State.addLog
  simp +contextual (maxDischargeDepth := 20) [*]

@[simp] theorem kept_accessError (f : Nat) (kind : Nat) (bar2 : Bool) (off : Nat) (hk : Kept s₀ s) :
    Kept s₀ (State.accessError s f kind bar2 off) := by
  unfold State.accessError
  simp +contextual (maxDischargeDepth := 20) [*]

@[simp] theorem kept_boardSend (sender : Nat) (target : Nat) (w : Word) (hk : Kept s₀ s) :
    Kept s₀ (State.boardSend s sender target w) := by
  unfold State.boardSend
  simp +contextual (maxDischargeDepth := 20) [*]

@[simp] theorem kept_boardReport (d : Nat) (ws : List Word) (hk : Kept s₀ s) :
    Kept s₀ (State.boardReport s d ws) := by
  unfold State.boardReport
  simp +contextual (maxDischargeDepth := 20) [*]

@[simp] theorem kept_boardOrder (n : Nat) (kind : Nat) (hk : Kept s₀ s) :
    Kept s₀ (State.boardOrder s n kind) := by
  unfold State.boardOrder
  simp +contextual (maxDischargeDepth := 20) [*]

@[simp] theorem kept_boardTake (r : Nat) (hk : Kept s₀ s) :
    Kept s₀ (State.boardTake s r).2 := by
  unfold State.boardTake
  simp +contextual (maxDischargeDepth := 20) [*]

@[simp] theorem kept_boardPass (b : Nat) (hk : Kept s₀ s) :
    Kept s₀ (State.boardPass s b) := by
  unfold State.boardPass
  simp +contextual (maxDischargeDepth := 20) [*]

@[simp] theorem kept_boardPoll (hk : Kept s₀ s) :
    Kept s₀ (State.boardPoll s) := by
  unfold State.boardPoll
  simp +contextual (maxDischargeDepth := 20) [*]

@[simp] theorem kept_onRail (r : Nat) (g : Rail → Rail) (hk : Kept s₀ s) :
    Kept s₀ (State.onRail s r g) := by
  unfold State.onRail
  simp +contextual (maxDischargeDepth := 20) [*]

@[simp] theorem kept_askRails (rs : List Nat) (r : VoltReq) (hk : Kept s₀ s) :
    Kept s₀ (State.askRails s rs r) := by
  unfold State.askRails
  simp +contextual (maxDischargeDepth := 20) [*]

@[simp] theorem kept_signal (f : Nat) (v : Nat) (hk : Kept s₀ s) :
    Kept s₀ (State.signal s f v) := by
  unfold State.signal
  simp +contextual (maxDischargeDepth := 20) [*]

@[simp] theorem kept_release (f : Nat) (v : Nat) (hk : Kept s₀ s) :
    Kept s₀ (State.release s f v) := by
  unfold State.release
  simp +contextual (maxDischargeDepth := 20) [*]

@[simp] theorem kept_releaseAll (f : Nat) (hk : Kept s₀ s) :
    Kept s₀ (State.releaseAll s f) := by
  unfold State.releaseAll
  simp +contextual (maxDischargeDepth := 20) [*]

@[simp] theorem kept_sendWords (f : Nat) (ws : List Word) (hk : Kept s₀ s) :
    Kept s₀ (State.sendWords s f ws) := by
  unfold State.sendWords
  simp +contextual (maxDischargeDepth := 20) [*]

@[simp] theorem kept_reread (f : Nat) (hk : Kept s₀ s) :
    Kept s₀ (State.reread s f) := by
  unfold State.reread
  dsimp only
  repeat' split
  all_goals first | assumption | simp +contextual (maxDischargeDepth := 20) [*]

@[simp] theorem kept_writeRecord (f : Nat) (event : Bool) (l : List Byte) (hk : Kept s₀ s) :
    Kept s₀ (State.writeRecord s f event l) := by
  unfold State.writeRecord
  split
  · exact hk
  · split
    · exact kept_addLog _ _ _ _ _ _ hk
    · rename_i heq
      exact kept_signal _ _ (kept_onFunc _ _ (kept_hostWrite _ _ _ hk heq))

@[simp] theorem kept_flushAux (f n : Nat) (s : State) (hk : Kept s₀ s) : Kept s₀ (State.flushAux f n s) := by
  induction n generalizing s with
  | zero => exact hk
  | succ n ih =>
    unfold State.flushAux
    dsimp only
    have hr : Kept s₀ (s.reread f) := kept_reread f hk
    repeat' split
    all_goals first
      | assumption
      | exact ih _ (kept_writeRecord _ _ _ (kept_onFunc _ _ hr))
      | exact ih _ (kept_writeRecord _ _ _ (kept_onFunc _ _ hk))

@[simp] theorem kept_flush (f : Nat) (hk : Kept s₀ s) :
    Kept s₀ (State.flush s f) := by
  exact kept_flushAux _ _ _ hk

@[simp] theorem kept_post (f : Nat) (tag : Nat) (opc : Nat) (notify : Bool) (a : Answer) (hk : Kept s₀ s) :
    Kept s₀ (State.post s f tag opc notify a) := by
  unfold State.post
  simp +contextual (maxDischargeDepth := 20) [*]

@[simp] theorem kept_complete (f : Nat) (tag : Nat) (opc : Nat) (notify : Bool) (a : Answer) (hk : Kept s₀ s) :
    Kept s₀ (State.complete s f tag opc notify a) := by
  unfold State.complete
  simp +contextual (maxDischargeDepth := 20) [*]

@[simp] theorem kept_eventTo (f : Nat) (polder : Nat) (r0 : Nat) (r1 : Nat) (code : Nat) (hk : Kept s₀ s) :
    Kept s₀ (State.eventTo s f polder r0 r1 code) := by
  unfold State.eventTo State.flush
  repeat' split
  all_goals first | exact kept_flushAux _ _ _ (by simp [*]) | simp [*]

@[simp] theorem kept_event (polder : Nat) (r0 : Nat) (r1 : Nat) (code : Nat) (hk : Kept s₀ s) :
    Kept s₀ (State.event s polder r0 r1 code) := by
  unfold State.event
  simp +contextual (maxDischargeDepth := 20) [*]

end Sys2Proof.Machine
end

