-- ==== Sys2Proof/Laws/KeptMemory.lean ====
section
/-! SUPPORT. What the operations of Machine/Memory.lean keep (Laws/Kept.lean). -/

namespace Sys2Proof.Machine

variable {s₀ s : State}

@[simp] theorem kept_hostWrite_getD (f a : Nat) (l : List Byte) {y : State} (hk : Kept s₀ s) (hy : Kept s₀ y) :
    Kept s₀ ((s.hostWrite f a l).getD y) := by
  cases h : s.hostWrite f a l with
  | none => exact hy
  | some t => exact kept_hostWrite f a l hk h

@[simp] theorem kept_corrected (source : Nat) (core : Nat) (word : Nat) (e : Errs) (hk : Kept s₀ s) :
    Kept s₀ (State.corrected s source core word e) := by
  unfold State.corrected
  simp +contextual (maxDischargeDepth := 20) [*]

@[simp] theorem kept_ucmCount (core : Nat) (b : By) (hk : Kept s₀ s) :
    Kept s₀ (State.ucmCount s core b) := by
  unfold State.ucmCount
  simp +contextual (maxDischargeDepth := 20) [*]

@[simp] theorem kept_ucmRead (core : Nat) (w : Nat) (source : Nat) (flips : List SymErr) (b : By) (hk : Kept s₀ s) :
    Kept s₀ (State.ucmRead s core w source flips b).1 := by
  unfold State.ucmRead
  dsimp only
  repeat' split
  all_goals first | assumption | simp +contextual (maxDischargeDepth := 20) [*]

@[simp] theorem kept_ucmWrite (core : Nat) (w : Nat) (l : List Byte) (hk : Kept s₀ s) :
    Kept s₀ (State.ucmWrite s core w l) := by
  exact kept_mk (kept_ucm hk (Memory.wf_write _ _ _ hk.ucmWf))

@[simp] theorem kept_ucmClear (core : Nat) (w : Nat) (n : Nat) (hk : Kept s₀ s) :
    Kept s₀ (State.ucmClear s core w n) := by
  exact kept_mk (kept_ucm hk (Memory.wf_clear _ _ _ hk.ucmWf))

@[simp] theorem kept_mergeRetire (core : Nat) (w : Nat) (flips : List SymErr) (hk : Kept s₀ s) :
    Kept s₀ (State.mergeRetire s core w flips) := by
  unfold State.mergeRetire
  dsimp only
  repeat' split
  all_goals first | assumption | simp +contextual (maxDischargeDepth := 20) [*]

@[simp] theorem kept_mergeWrite (core : Nat) (w : Nat) (o : Nat) (l : List Byte) (func : Nat) (hk : Kept s₀ s) :
    Kept s₀ (State.mergeWrite s core w o l func) := by
  unfold State.mergeWrite
  dsimp only
  repeat' split
  all_goals first | assumption | simp +contextual (maxDischargeDepth := 20) [*]

@[simp] theorem kept_ucmTouch (d : Nat) (hk : Kept s₀ s) :
    Kept s₀ (State.ucmTouch s d) := by
  unfold State.ucmTouch
  simp +contextual (maxDischargeDepth := 20) [*]

@[simp] theorem kept_portTaken (core : Nat) (hk : Kept s₀ s) :
    Kept s₀ (State.portTaken s core) := by
  unfold State.portTaken
  simp +contextual (maxDischargeDepth := 20) [*]

@[simp] theorem kept_retireFirst (core : Nat) (w : Nat) (flips : List SymErr) (hk : Kept s₀ s) :
    Kept s₀ (State.retireFirst s core w flips) := by
  unfold State.retireFirst
  split
  · exact kept_mergeRetire _ _ _ (kept_portTaken _ hk)
  · exact hk

@[simp] theorem kept_narrowWrite (core : Nat) (w : Nat) (o : Nat) (l : List Byte) (func : Nat) (hk : Kept s₀ s) :
    Kept s₀ (State.narrowWrite s core w o l func) := by
  have h (b : Bool) : Kept s₀ (if b = true then s.portTaken core else s) := kept_ite _ (fun _ => kept_portTaken _ hk) fun _ => hk
  have hm := kept_mergeWrite core w o l func
    (h (decide (8 ≤ (Sparse.get [] s.merges core : List MergeEntry).length)
      && !((Sparse.get [] s.merges core : List MergeEntry).any fun m => m.word == w)))
  exact kept_ite _ (fun _ => hm) fun _ => kept_portTaken _ hm

@[simp] theorem kept_aperturePiece (who : Requester) (a : Nat) (acc : Access) (flips : List SymErr) (hk : Kept s₀ s) :
    Kept s₀ (State.aperturePiece s who a acc flips).1 := by
  unfold State.aperturePiece
  dsimp only
  repeat' split
  all_goals first | assumption | simp +contextual (maxDischargeDepth := 20) [*]

@[simp] theorem kept_pieces (unit : Nat) (one : State → Nat → Access → List SymErr → State × Got)
    (hone : ∀ s a acc fl, Kept s₀ s → Kept s₀ (one s a acc fl).1) (n : Nat) (s : State) (a : Nat) (acc : Access)
    (flips : List SymErr) (hk : Kept s₀ s) : Kept s₀ (pieces unit one n s a acc flips).1 := by
  induction n generalizing s a acc flips with
  | zero => exact hk
  | succ n ih =>
    unfold pieces
    dsimp only
    split
    · exact ih _ _ _ _ (hone _ _ _ _ hk)
    · exact hone _ _ _ _ hk

@[simp] theorem kept_aperture (who : Requester) (a : Nat) (acc : Access) (flips : List SymErr) (hk : Kept s₀ s) :
    Kept s₀ (State.aperture s who a acc flips).1 := by
  unfold State.aperture
  simp +contextual (maxDischargeDepth := 20) [*]

@[simp] theorem kept_edgeCount (ch : Nat) (kind : Nat) (polder : Nat) (n : Nat) (hk : Kept s₀ s) :
    Kept s₀ (State.edgeCount s ch kind polder n) := by
  unfold State.edgeCount
  simp +contextual (maxDischargeDepth := 20) [*]

@[simp] theorem kept_edgeLog (kind : Nat) (addr : Nat) (ch : Nat) (b : By) (hk : Kept s₀ s) :
    Kept s₀ (State.edgeLog s kind addr ch b) := by
  unfold State.edgeLog
  simp +contextual (maxDischargeDepth := 20) [*]

@[simp] theorem kept_burstRead (ch : Nat) (off : Nat) (flips : List SymErr) (b : By) (hk : Kept s₀ s) :
    Kept s₀ (State.burstRead s ch off flips b).1 := by
  unfold State.burstRead
  dsimp only
  repeat' split
  all_goals first | assumption | simp +contextual (maxDischargeDepth := 20) [*]

@[simp] theorem kept_burstWrite (ch : Nat) (off : Nat) (l : List Byte) (b : By) (hk : Kept s₀ s) :
    Kept s₀ (State.burstWrite s ch off l b) := by
  exact kept_mk (kept_edge hk (Memory.wf_write _ _ _ hk.edgeWf))

@[simp] theorem kept_chRead (ch : Nat) (b : By) (fuel : Nat) (off : Nat) (n : Nat) (hk : Kept s₀ s) :
    Kept s₀ (State.chRead s ch b fuel off n).1 := by
  induction fuel generalizing s off n with
  | zero => exact hk
  | succ f ih =>
    unfold State.chRead
    dsimp only
    repeat' split
    · exact hk
    · exact kept_burstRead _ _ _ _ hk
    · exact ih _ _ (kept_burstRead _ _ _ _ hk)

@[simp] theorem kept_chWrite (ch : Nat) (b : By) (fuel : Nat) (s : State) (off : Nat) (l : List Byte) (hk : Kept s₀ s) :
    Kept s₀ (State.chWrite s ch b fuel off l).1 := by
  induction fuel generalizing s off l with
  | zero => exact hk
  | succ n ih =>
    unfold State.chWrite
    dsimp only
    repeat' split
    · exact hk
    · exact ih _ _ _ (kept_burstWrite _ _ _ _ hk)
    · exact kept_burstRead _ _ _ _ hk
    · exact ih _ _ _ (kept_burstWrite _ _ _ _ (kept_burstRead _ _ _ _ hk))

@[simp] theorem kept_writeBack (set : Nat) (x : Line) (b : By) (hk : Kept s₀ s) :
    Kept s₀ (State.writeBack s set x b) := by
  unfold State.writeBack
  simp +contextual (maxDischargeDepth := 20) [*]

@[simp] theorem kept_allocate (ch : Nat) (l : Nat) (data : List Byte) (dirty : Bool) (who : By) (hk : Kept s₀ s) :
    Kept s₀ (State.allocate s ch l data dirty who) := by
  unfold State.allocate
  dsimp only
  repeat' split
  all_goals first | assumption | simp +contextual (maxDischargeDepth := 20) [*]

@[simp] theorem kept_dropLine (ch : Nat) (l : Nat) (w : Nat) (hk : Kept s₀ s) :
    Kept s₀ (State.dropLine s ch l w) := by
  unfold State.dropLine
  simp +contextual (maxDischargeDepth := 20) [*]

@[simp] theorem kept_basinCount (ch : Nat) (hit : Bool) (hk : Kept s₀ s) :
    Kept s₀ (State.basinCount s ch hit) := by
  unfold State.basinCount
  simp +contextual (maxDischargeDepth := 20) [*]

@[simp] theorem kept_fetchLine (ch : Nat) (l : Nat) (flips : List SymErr) (second : Bool) (b : By) (hk : Kept s₀ s) :
    Kept s₀ (State.fetchLine s ch l flips second b).1 := by
  unfold State.fetchLine
  simp +contextual (maxDischargeDepth := 20) [*]

@[simp] theorem kept_lookup (ch : Nat) (l : Nat) (flips : List SymErr) (b : By) (hk : Kept s₀ s) :
    Kept s₀ (State.lookup s ch l flips b).1 := by
  unfold State.lookup
  dsimp only
  repeat' split
  all_goals first | assumption | simp +contextual (maxDischargeDepth := 20) [*]

@[simp] theorem kept_lineRead (ch : Nat) (off : Nat) (n : Nat) (noalloc : Bool) (flips : List SymErr) (b : By) (hk : Kept s₀ s) :
    Kept s₀ (State.lineRead s ch off n noalloc flips b).1 := by
  unfold State.lineRead
  dsimp only
  repeat' split
  all_goals first | assumption | simp +contextual (maxDischargeDepth := 20) [*]

@[simp] theorem kept_lineWrite (ch : Nat) (off : Nat) (bytes : List Byte) (who : By) (hk : Kept s₀ s) :
    Kept s₀ (State.lineWrite s ch off bytes who).1 := by
  unfold State.lineWrite
  dsimp only
  repeat' split
  all_goals first | assumption | simp +contextual (maxDischargeDepth := 20) [*]

@[simp] theorem kept_serve (ch : Nat) (off : Nat) (acc : Access) (noalloc : Bool) (flips : List SymErr) (b : By) (hk : Kept s₀ s) :
    Kept s₀ (State.serve s ch off acc noalloc flips b).1 := by
  unfold State.serve
  refine kept_pieces _ _ ?_ _ _ _ _ _ hk
  intro s a acc fl h
  cases acc
  · exact kept_lineRead _ _ _ _ _ _ h
  · exact kept_lineWrite _ _ _ _ h

@[simp] theorem kept_edgePiece (q : Req) (a : Nat) (acc : Access) (flips : List SymErr) (hk : Kept s₀ s) :
    Kept s₀ (State.edgePiece s q a acc flips).1 := by
  unfold State.edgePiece
  dsimp only
  repeat' split
  all_goals first | assumption | simp +contextual (maxDischargeDepth := 20) [*]

@[simp] theorem kept_scratchPiece (by_ : By) (a : Nat) (acc : Access) (flips : List SymErr) (hk : Kept s₀ s) :
    Kept s₀ (State.scratchPiece by_ s a acc flips).1 := by
  unfold State.scratchPiece
  refine kept_ite_fst _ (fun _ => hk) fun _ => kept_ite_fst _ (fun _ => hk) fun _ => ?_
  cases acc
  · exact kept_ite_fst _ (fun _ => kept_addLog _ _ _ _ _ _ (kept_onBasin _ _ hk)) fun _ => kept_onBasin _ _ hk
  · exact kept_onBasin _ _ hk

@[simp] theorem kept_access (q : Req) (a : Nat) (acc : Access) (flips : List SymErr) (hk : Kept s₀ s) :
    Kept s₀ (State.access s q a acc flips).1 := by
  unfold State.access
  refine kept_pieces _ _ (fun s a acc fl h => ?_) _ _ _ _ _ hk
  refine kept_ite_fst _ (fun _ => h) fun _ => ?_
  refine kept_ite_fst _ (fun _ => kept_edgePiece _ _ _ _ h) fun _ => ?_
  refine kept_ite_fst _ (fun _ => ?_) fun _ => ?_
  · refine kept_pieces 128 _ ?_ _ _ _ _ _ h
    intro s a acc fl h
    exact kept_scratchPiece _ _ _ _ h
  · exact kept_ite_fst _ (fun _ => kept_aperture _ _ _ _ h) fun _ => h

end Sys2Proof.Machine
end

