-- ==== Sys2Proof/Laws/KeptJobs.lean ====
section
/-! SUPPORT. What the operations of Machine/Jobs.lean keep (Laws/Kept.lean). -/

namespace Sys2Proof.Machine

variable {s₀ s : State}

@[simp] theorem kept_countUp (c : Nat) (hk : Kept s₀ s) :
    Kept s₀ (State.countUp s c) := by
  unfold State.countUp
  simp +contextual (maxDischargeDepth := 20) [*]

@[simp] theorem kept_freeBytes (n : Nat) (hk : Kept s₀ s) :
    Kept s₀ (State.freeBytes s n).2 := by
  unfold State.freeBytes
  simp +contextual (maxDischargeDepth := 20) [*]

@[simp] theorem kept_nbUndefine (e : Nat) (c : NbCmd) (hk : Kept s₀ s) :
    Kept s₀ (State.nbUndefine s e c) := by
  unfold State.nbUndefine
  exact kept_each _ _ (fun _ _ h => kept_edge (kept_freeBytes _ h) (Memory.wf_write _ _ _ (kept_freeBytes _ h).edgeWf)) hk

@[simp] theorem kept_nbDiscard (sel : NbCmd → Bool) (hk : Kept s₀ s) :
    Kept s₀ (State.nbDiscard s sel) := by
  unfold State.nbDiscard
  simp +contextual (maxDischargeDepth := 20) [*]

@[simp] theorem kept_unbindAll (ch : Nat) (hk : Kept s₀ s) :
    Kept s₀ (State.unbindAll s ch) := by
  unfold State.unbindAll
  simp +contextual (maxDischargeDepth := 20) [*]

@[simp] theorem kept_disown (ch : Nat) (hk : Kept s₀ s) :
    Kept s₀ (State.disown s ch) := by
  unfold State.disown
  simp +contextual (maxDischargeDepth := 20) [*]

@[simp] theorem kept_disableChan (ch : Nat) (hk : Kept s₀ s) :
    Kept s₀ (State.disableChan s ch) := by
  unfold State.disableChan
  simp +contextual (maxDischargeDepth := 20) [*]

@[simp] theorem kept_closeSluices (p : Nat) (hk : Kept s₀ s) :
    Kept s₀ (State.closeSluices s p) := by
  unfold State.closeSluices
  simp +contextual (maxDischargeDepth := 20) [*]

@[simp] theorem kept_writeOut (f : Nat) (out : Nat) (l : List Byte) (hk : Kept s₀ s) :
    Kept s₀ (State.writeOut s f out l).1 := by
  unfold State.writeOut
  refine kept_ite_fst _ (fun _ => hk) fun _ => kept_ite_fst _ (fun _ => kept_ite_fst _ (fun _ => hk) fun _ => ?_)
    fun _ => ?_
  · have hp : ∀ one : State → Nat → Access → List SymErr → State × Got,
        (∀ s a acc fl, Kept s₀ s → Kept s₀ (one s a acc fl).1) → ∀ k a acc fl, Kept s₀ (pieces 4096 one k s a acc fl).1 :=
      fun one h k a acc fl => kept_pieces 4096 one h k s a acc fl hk
    refine kept_ite_fst _ (fun _ => hp _ ?_ _ _ _ _) fun _ => hk
    exact fun s a acc fl h => kept_ite_fst _ (fun _ => kept_access _ _ _ _ h) fun _ => kept_access _ _ _ _ h
  · split
    · rename_i heq
      exact kept_hostWrite _ _ _ hk heq
    · exact hk

@[simp] theorem kept_countCycles (p : Nat) (hk : Kept s₀ s) :
    Kept s₀ (State.countCycles s p) := by
  unfold State.countCycles
  simp +contextual (maxDischargeDepth := 20) [*]

@[simp] theorem kept_endCommand (p : Nat) (st : Status) (hk : Kept s₀ s) :
    Kept s₀ (State.endCommand s p st) := by
  unfold State.endCommand
  split
  · exact hk
  · exact kept_complete _ _ _ _ _ (kept_onPolder _ _ hk)

@[simp] theorem kept_endSave (p : Nat) (hk : Kept s₀ s) :
    Kept s₀ (State.endSave s p) := by
  unfold State.endSave
  simp +contextual (maxDischargeDepth := 20) [*]

@[simp] theorem kept_finishJob (p : Nat) (st : Status) (extra : Nat) (hk : Kept s₀ s) :
    Kept s₀ (State.finishJob s p st extra) := by
  unfold State.finishJob
  dsimp only
  repeat' split
  all_goals first | assumption | simp +contextual (maxDischargeDepth := 20) [*]

@[simp] theorem kept_idleHalfDies (p : Nat) (hk : Kept s₀ s) :
    Kept s₀ (State.idleHalfDies s p) := by
  unfold State.idleHalfDies
  simp +contextual (maxDischargeDepth := 20) [*]

@[simp] theorem kept_halt (p : Nat) (hk : Kept s₀ s) :
    Kept s₀ (State.halt s p).1 := by
  unfold State.halt
  simp +contextual (maxDischargeDepth := 20) [*]

@[simp] theorem kept_failJob (p : Nat) (st : Status) (extra : Nat) (hk : Kept s₀ s) :
    Kept s₀ (State.failJob s p st extra) := by
  unfold State.failJob
  dsimp only
  repeat' split
  all_goals first | assumption | simp +contextual (maxDischargeDepth := 20) [*]

@[simp] theorem kept_gatePolder (p : Nat) (hk : Kept s₀ s) :
    Kept s₀ (State.gatePolder s p).1 := by
  unfold State.gatePolder
  simp +contextual (maxDischargeDepth := 20) [*]

end Sys2Proof.Machine
end

