-- ==== Sys2Proof/Laws/KeptChannels.lean ====
section
/-! SUPPORT. What the operations of Machine/Channels.lean keep (Laws/Kept.lean). -/

namespace Sys2Proof.Machine

variable {s₀ s : State}

@[simp] theorem kept_chanAccess (ch : Nat) (q : Req) (a : Nat) (acc : Access) (hk : Kept s₀ s) :
    Kept s₀ (State.chanAccess s ch q a acc).1 := by
  unfold State.chanAccess
  simp +contextual (maxDischargeDepth := 20) [*]

@[simp] theorem kept_engineCount (ch : Nat) (kind : Nat) (n : Nat) (hk : Kept s₀ s) :
    Kept s₀ (State.engineCount s ch kind n) := by
  unfold State.engineCount
  simp +contextual (maxDischargeDepth := 20) [*]

@[simp] theorem kept_haltChan (ch : Nat) (st : Status) (addr : Nat) (write : Bool) (stop : Bool) (hk : Kept s₀ s) :
    Kept s₀ (State.haltChan s ch st addr write stop) := by
  unfold State.haltChan
  simp +contextual (maxDischargeDepth := 20) [*]

@[simp] theorem kept_jobFail (p : Nat) (addr : Nat) (uncorrectable : Bool) (hk : Kept s₀ s) :
    Kept s₀ (State.jobFail s p addr uncorrectable) := by
  unfold State.jobFail
  simp +contextual (maxDischargeDepth := 20) [*]

@[simp] theorem kept_ringFail (ch : Nat) (g : Got) (addr : Nat) (write : Bool) (hk : Kept s₀ s) :
    Kept s₀ (State.ringFail s ch g addr write) := by
  unfold State.ringFail
  simp +contextual (maxDischargeDepth := 20) [*]

@[simp] theorem kept_chanWrite (ch : Nat) (a : Nat) (l : List Byte) (hk : Kept s₀ s) :
    Kept s₀ (State.chanWrite s ch a l).1 := by
  unfold State.chanWrite
  simp +contextual (maxDischargeDepth := 20) [*]

@[simp] theorem kept_writeRing (ch : Nat) (a : Nat) (done : Nat) (w0 : Nat) (hk : Kept s₀ s) :
    Kept s₀ (State.writeRing s ch a done w0).1 := by
  unfold State.writeRing
  simp +contextual (maxDischargeDepth := 20) [*]

@[simp] theorem kept_retire (ch : Nat) (st : Status) (done : Nat) (hk : Kept s₀ s) :
    Kept s₀ (State.retire s ch st done).1 := by
  unfold State.retire
  dsimp only
  repeat' first
    | assumption
    | (simp +contextual (maxDischargeDepth := 20) [*]; done)
    | refine kept_each _ _ (fun _ _ _ => ?_) ?_
    | split

@[simp] theorem kept_endChan (ch : Nat) (st : Status) (done : Nat) (addr : Nat) (write : Bool) (stop : Bool) (hk : Kept s₀ s) :
    Kept s₀ (State.endChan s ch st done addr write stop).1 := by
  unfold State.endChan
  simp +contextual (maxDischargeDepth := 20) [*]

@[simp] theorem kept_stopAll (ch : Nat) (addr : Nat) (write : Bool) (known : Bool) (hk : Kept s₀ s) :
    Kept s₀ (State.stopAll s ch addr write known) := by
  unfold State.stopAll
  simp +contextual (maxDischargeDepth := 20) [*]

@[simp] theorem kept_ringBus (ch : Nat) (addr : Nat) (write : Bool) (hk : Kept s₀ s) :
    Kept s₀ (State.ringBus s ch addr write) := by
  unfold State.ringBus
  simp +contextual (maxDischargeDepth := 20) [*]

@[simp] theorem kept_reported (r : State × Option Nat) (ch : Nat) (hk : Kept s₀ r.1) : Kept s₀ (State.reported r ch) := by
  unfold State.reported
  split
  · exact hk
  · exact kept_ringBus _ _ _ hk

@[simp] theorem kept_endDesc (ch : Nat) (st : Status) (done : Nat) (addr : Nat) (write : Bool) (stop : Bool) (hk : Kept s₀ s) :
    Kept s₀ (State.endDesc s ch st done addr write stop) := by
  unfold State.endDesc
  simp +contextual (maxDischargeDepth := 20) [*]

@[simp] theorem kept_devFail (ch : Nat) (st : Status) (addr : Nat) (write : Bool) (uncorrectable : Bool) (hk : Kept s₀ s) :
    Kept s₀ (State.devFail s ch st addr write uncorrectable) := by
  unfold State.devFail
  simp +contextual (maxDischargeDepth := 20) [*]

@[simp] theorem kept_busFail (ch : Nat) (st : Status) (addr : Nat) (write : Bool) (known : Bool) (hk : Kept s₀ s) :
    Kept s₀ (State.busFail s ch st addr write known) := by
  unfold State.busFail
  simp +contextual (maxDischargeDepth := 20) [*]

@[simp] theorem kept_progress (ch : Nat) (hk : Kept s₀ s) :
    Kept s₀ (State.progress s ch) := by
  unfold State.progress
  simp +contextual (maxDischargeDepth := 20) [*]

@[simp] theorem kept_delivered (ch : Nat) (life : Nat) (addr : Nat) (acc : Access) (g : Got) (hk : Kept s₀ s) :
    Kept s₀ (State.delivered s ch life addr acc g) := by
  unfold State.delivered
  simp +contextual (maxDischargeDepth := 20) [*]

@[simp] theorem kept_answered (ch : Nat) (life : Nat) (addr : Nat) (acc : Access) (g : Got) (hk : Kept s₀ s) :
    Kept s₀ (State.answered s ch life addr acc g) := by
  unfold State.answered
  simp +contextual (maxDischargeDepth := 20) [*]

@[simp] theorem kept_enableChan (ch : Nat) (hk : Kept s₀ s) :
    Kept s₀ (State.enableChan s ch) := by
  unfold State.enableChan
  dsimp only
  repeat' split
  all_goals first | assumption | simp +contextual (maxDischargeDepth := 20) [*]

@[simp] theorem kept_writeRingCtl (ch : Nat) (v : Nat) (hk : Kept s₀ s) :
    Kept s₀ (State.writeRingCtl s ch v) := by
  unfold State.writeRingCtl
  simp +contextual (maxDischargeDepth := 20) [*]

@[simp] theorem kept_writeTail (ch : Nat) (t : Nat) (hk : Kept s₀ s) :
    Kept s₀ (State.writeTail s ch t) := by
  unfold State.writeTail
  simp +contextual (maxDischargeDepth := 20) [*]

theorem kept_execEnable (f : Nat) (ch : Nat) (value : U64) (hk : Kept s₀ s)
    {t : State} (ht : (execEnable f ch value s) = .next t) : Kept s₀ t := by
  unfold execEnable at ht
  simp only [Host.Outcome.next.injEq] at ht
  subst ht
  repeat' split
  all_goals first | assumption | simp +contextual (maxDischargeDepth := 20) [*]

theorem kept_execDmaDisable (f : Nat) (ch : Nat) (value : U64) (hk : Kept s₀ s)
    {t : State} (ht : (execDmaDisable f ch value s) = .next t) : Kept s₀ t := by
  unfold execDmaDisable at ht
  simp only [Host.Outcome.next.injEq] at ht
  subst ht
  repeat' split
  all_goals first | assumption | simp +contextual (maxDischargeDepth := 20) [*]

theorem kept_execResume (f : Nat) (ch : Nat) (value : U64) (hk : Kept s₀ s)
    {t : State} (ht : (execResume f ch value s) = .next t) : Kept s₀ t := by
  unfold execResume at ht
  simp only [Host.Outcome.next.injEq] at ht
  subst ht
  repeat' split
  all_goals first | assumption | simp +contextual (maxDischargeDepth := 20) [*]

theorem kept_execTail (f : Nat) (ch : Nat) (value : U64) (hk : Kept s₀ s)
    {t : State} (ht : (execTail f ch value s) = .next t) : Kept s₀ t := by
  unfold execTail at ht
  simp only [Host.Outcome.next.injEq] at ht
  subst ht
  simp +contextual (maxDischargeDepth := 20) [*]

@[simp] theorem kept_writeOwner (ch : Nat) (v : Nat) (hk : Kept s₀ s) :
    Kept s₀ (State.writeOwner s ch v) := by
  unfold State.writeOwner
  simp +contextual (maxDischargeDepth := 20) [*]

theorem kept_execDmaOwner (ch : Nat) (value : U64) (hk : Kept s₀ s)
    {t : State} (ht : (execDmaOwner ch value s) = .next t) : Kept s₀ t := by
  unfold execDmaOwner at ht
  simp only [Host.Outcome.next.injEq] at ht
  subst ht
  simp +contextual (maxDischargeDepth := 20) [*]

@[simp] theorem kept_fetchFail (ch : Nat) (hk : Kept s₀ s) :
    Kept s₀ (State.fetchFail s ch) := by
  unfold State.fetchFail
  dsimp only
  repeat' split
  all_goals first | assumption | simp +contextual (maxDischargeDepth := 20) [*]

@[simp] theorem kept_descRead (ch : Nat) (g : Got) (hk : Kept s₀ s) :
    Kept s₀ (State.descRead s ch g) := by
  unfold State.descRead
  simp +contextual (maxDischargeDepth := 20) [*]

@[simp] theorem kept_gotDesc (ch : Nat) (addr : Nat) (g : Got) (hk : Kept s₀ s) :
    Kept s₀ (State.gotDesc s ch addr g) := by
  unfold State.gotDesc
  simp +contextual (maxDischargeDepth := 20) [*]

theorem kept_execDescriptorFetch (ch : Nat) (hk : Kept s₀ s)
    {t : State} (ht : (execDescriptorFetch ch s) = .next t) : Kept s₀ t := by
  unfold execDescriptorFetch at ht
  (try dsimp only at ht)
  repeat' split at ht
  all_goals
    simp only [Host.Outcome.next.injEq] at ht
    subst ht
    first | assumption | simp +contextual (maxDischargeDepth := 20) [*]

theorem kept_execDescriptorWriteBack (ch : Nat) (hk : Kept s₀ s)
    {t : State} (ht : (execDescriptorWriteBack ch s) = .next t) : Kept s₀ t := by
  unfold execDescriptorWriteBack at ht
  (try dsimp only at ht)
  repeat' split at ht
  all_goals
    simp only [Host.Outcome.next.injEq] at ht
    subst ht
    first | assumption | simp +contextual (maxDischargeDepth := 20) [*]

theorem kept_execDescriptorTimeout (ch : Nat) (hk : Kept s₀ s)
    {t : State} (ht : (execDescriptorTimeout ch s) = .next t) : Kept s₀ t := by
  unfold execDescriptorTimeout at ht
  (try dsimp only at ht)
  repeat' split at ht
  all_goals
    simp only [Host.Outcome.next.injEq] at ht
    subst ht
    first | assumption | simp +contextual (maxDischargeDepth := 20) [*]

theorem kept_execBusError (ch : Nat) (addr : U64) (isWrite : Bool) (attributable : Bool) (refused : Bool) (hk : Kept s₀ s)
    {t : State} (ht : (execBusError ch addr isWrite attributable refused s) = .next t) : Kept s₀ t := by
  unfold execBusError at ht
  simp only [Host.Outcome.next.injEq] at ht
  subst ht
  simp +contextual (maxDischargeDepth := 20) [*]

theorem kept_execDeviceAccessError (ch : Nat) (code : Nat) (addr : U64) (isWrite : Bool) (hk : Kept s₀ s)
    {t : State} (ht : (execDeviceAccessError ch code addr isWrite s) = .next t) : Kept s₀ t := by
  unfold execDeviceAccessError at ht
  (try dsimp only at ht)
  repeat' split at ht
  all_goals
    simp only [Host.Outcome.next.injEq] at ht
    subst ht
    first | assumption | simp +contextual (maxDischargeDepth := 20) [*]

end Sys2Proof.Machine
end

