-- ==== Sys2Proof/Laws/KeptMailbox.lean ====
section
/-! SUPPORT. What the operations of Machine/Mailbox.lean keep (Laws/Kept.lean). -/

namespace Sys2Proof.Machine

variable {s₀ s : State}

@[simp] theorem kept_mailDropped (f : Nat) (hk : Kept s₀ s) :
    Kept s₀ (State.mailDropped s f) := by
  unfold State.mailDropped
  simp +contextual (maxDischargeDepth := 20) [*]

@[simp] theorem kept_writeH2D (f : Nat) (w : Word) (hk : Kept s₀ s) :
    Kept s₀ (State.writeH2D s f w) := by
  unfold State.writeH2D
  simp +contextual (maxDischargeDepth := 20) [*]

@[simp] theorem kept_readD2H (f : Nat) (hk : Kept s₀ s) :
    Kept s₀ (State.readD2H s f) := by
  unfold State.readD2H
  dsimp only
  repeat' split
  all_goals first | assumption | simp +contextual (maxDischargeDepth := 20) [*]

@[simp] theorem kept_ringDoorbell (f : Nat) (v : Nat) (hk : Kept s₀ s) :
    Kept s₀ (State.ringDoorbell s f v) := by
  unfold State.ringDoorbell
  simp +contextual (maxDischargeDepth := 20) [*]

@[simp] theorem kept_resend (f : Nat) (r : List Byte) (hk : Kept s₀ s) :
    Kept s₀ (State.resend s f r) := by
  unfold State.resend
  simp +contextual (maxDischargeDepth := 20) [*]

@[simp] theorem kept_accept (f : Nat) (header : Word) (args : List Word) (hk : Kept s₀ s) :
    Kept s₀ (State.accept s f header args) := by
  unfold State.accept
  dsimp only
  repeat' split
  all_goals first | assumption | simp +contextual (maxDischargeDepth := 20) [*]

@[simp] theorem kept_parseWords (f n : Nat) (s : State) (ws : List Word) (hk : Kept s₀ s) :
    Kept s₀ (State.parseWords f n s ws) := by
  induction n generalizing s ws with
  | zero => exact kept_onFunc _ _ hk
  | succ n ih =>
    unfold State.parseWords
    dsimp only
    repeat' split
    · exact kept_onFunc _ _ hk
    · exact kept_onFunc _ _ hk
    · exact kept_onFunc _ _ hk
    · exact ih _ _ (kept_accept _ _ _ hk)

@[simp] theorem kept_takeWords (f : Nat) (hk : Kept s₀ s) :
    Kept s₀ (State.takeWords s f) := by
  unfold State.takeWords
  simp +contextual (maxDischargeDepth := 20) [*]

@[simp] theorem kept_answer (c : Cmd) (a : Answer) (hk : Kept s₀ s) :
    Kept s₀ (State.answer s c a) := by
  unfold State.answer
  simp +contextual (maxDischargeDepth := 20) [*]

@[simp] theorem kept_refuse (c : Cmd) (st : Status) (hk : Kept s₀ s) :
    Kept s₀ (State.refuse s c st) := by
  unfold State.refuse
  simp +contextual (maxDischargeDepth := 20) [*]

@[simp] theorem kept_serve_ (f : Nat) (mine : Nat → Nat → Bool) (run : State → Cmd → State) (hk : Kept s₀ s) (hg3 : ∀ y0 y1, Kept s₀ y0 → Kept s₀ (run y0 y1)) :
    Kept s₀ (State.serve_ s f mine run) := by
  unfold State.serve_
  dsimp only
  repeat' split
  all_goals first | assumption | simp +contextual (maxDischargeDepth := 20) [*]

@[simp] theorem kept_meets (f : Nat) (busy : Msg → Bool) (mine : Nat → Nat → Bool) {other : State} (hk : Kept s₀ s)
    (ho : Kept s₀ other) : Kept s₀ (State.meets s f busy mine other) := by
  unfold State.meets
  repeat' split
  · exact ho
  · simp [hk]
  · exact ho

@[simp] theorem kept_command (f : Nat) (opc : Nat) (run : State → Cmd → State) (hk : Kept s₀ s) (hg3 : ∀ y0 y1, Kept s₀ y0 → Kept s₀ (run y0 y1)) :
    Kept s₀ (State.command s f opc run) := by
  unfold State.command
  simp +contextual (maxDischargeDepth := 20) [*]

@[simp] theorem kept_output (c : Cmd) (l : List Byte) (a : Answer) (hk : Kept s₀ s) :
    Kept s₀ (State.output s c l a) := by
  unfold State.output
  simp +contextual (maxDischargeDepth := 20) [*]

theorem kept_execMbH2D (f : Nat) (word : Word) (hk : Kept s₀ s)
    {t : State} (ht : (execMbH2D f word s) = .next t) : Kept s₀ t := by
  unfold execMbH2D at ht
  simp only [Host.Outcome.next.injEq] at ht
  subst ht
  simp +contextual (maxDischargeDepth := 20) [*]

theorem kept_execMbD2H (f : Nat) (hk : Kept s₀ s)
    {t : State} (ht : (execMbD2H f s) = .next t) : Kept s₀ t := by
  unfold execMbD2H at ht
  simp only [Host.Outcome.next.injEq] at ht
  subst ht
  simp +contextual (maxDischargeDepth := 20) [*]

theorem kept_execMbDoorbell (f : Nat) (value : Word) (hk : Kept s₀ s)
    {t : State} (ht : (execMbDoorbell f value s) = .next t) : Kept s₀ t := by
  unfold execMbDoorbell at ht
  simp only [Host.Outcome.next.injEq] at ht
  subst ht
  simp +contextual (maxDischargeDepth := 20) [*]

theorem kept_execMailboxPoll (hk : Kept s₀ s)
    {t : State} (ht : (execMailboxPoll s) = .next t) : Kept s₀ t := by
  unfold execMailboxPoll at ht
  simp only [Host.Outcome.next.injEq] at ht
  subst ht
  simp +contextual (maxDischargeDepth := 20) [*]

theorem kept_execFirmwareNotification (f : Nat) (hk : Kept s₀ s)
    {t : State} (ht : (execFirmwareNotification f s) = .next t) : Kept s₀ t := by
  unfold execFirmwareNotification at ht
  (try dsimp only at ht)
  repeat' split at ht
  all_goals
    simp only [Host.Outcome.next.injEq] at ht
    subst ht
    first | assumption | simp +contextual (maxDischargeDepth := 20) [*]

theorem kept_execPartialMessageTimeout (f : Nat) (hk : Kept s₀ s)
    {t : State} (ht : (execPartialMessageTimeout f s) = .next t) : Kept s₀ t := by
  unfold execPartialMessageTimeout at ht
  (try dsimp only at ht)
  repeat' split at ht
  all_goals
    simp only [Host.Outcome.next.injEq] at ht
    subst ht
    first | assumption | simp +contextual (maxDischargeDepth := 20) [*]

theorem kept_execTagMemoryExpiry (f : Nat) (tag : Nat) (opc : Nat) (hk : Kept s₀ s)
    {t : State} (ht : (execTagMemoryExpiry f tag opc s) = .next t) : Kept s₀ t := by
  unfold execTagMemoryExpiry at ht
  simp only [Host.Outcome.next.injEq] at ht
  subst ht
  simp +contextual (maxDischargeDepth := 20) [*]

theorem kept_execBadOpcode (f : Nat) (hk : Kept s₀ s)
    {t : State} (ht : (execBadOpcode f s) = .next t) : Kept s₀ t := by
  unfold execBadOpcode at ht
  simp only [Host.Outcome.next.injEq] at ht
  subst ht
  simp +contextual (maxDischargeDepth := 20) [*]

theorem kept_execRingReread (f : Nat) (hk : Kept s₀ s)
    {t : State} (ht : (execRingReread f s) = .next t) : Kept s₀ t := by
  unfold execRingReread at ht
  simp only [Host.Outcome.next.injEq] at ht
  subst ht
  simp +contextual (maxDischargeDepth := 20) [*]

@[simp] theorem kept_helloAnswer (c : Cmd) (st : Status) (hk : Kept s₀ s) :
    Kept s₀ (State.helloAnswer s c st) := by
  unfold State.helloAnswer
  simp +contextual (maxDischargeDepth := 20) [*]

theorem kept_execHello (f : Nat) (hk : Kept s₀ s)
    {t : State} (ht : (execHello f s) = .next t) : Kept s₀ t := by
  unfold execHello at ht
  (try dsimp only at ht)
  repeat' split at ht
  all_goals
    simp only [Host.Outcome.next.injEq] at ht
    subst ht
    first | assumption | simp +contextual (maxDischargeDepth := 20) [*]

end Sys2Proof.Machine
end

