-- ==== Sys2Proof/Laws/KeptImage.lean ====
section
/-! SUPPORT. What the operations of Machine/Image.lean keep (Laws/Kept.lean). -/

namespace Sys2Proof.Machine

variable {s₀ s : State}

@[simp] theorem kept_sliceFill (core : Nat) (off : Nat) (b : List Byte) (hk : Kept s₀ s) :
    Kept s₀ (State.sliceFill s core off b) := by
  unfold State.sliceFill
  simp +contextual (maxDischargeDepth := 20) [*]

@[simp] theorem kept_place (cl : Nat) (g : Seg) (core : Nat) (b : List Byte) (hk : Kept s₀ s) :
    Kept s₀ (State.place s cl g core b) := by
  unfold State.place
  repeat' split
  all_goals first | assumption | simp +contextual (maxDischargeDepth := 20) [*]

@[simp] theorem kept_broadcast (p : Nat) (l : List Byte) (slices : Bool) (hk : Kept s₀ s) :
    Kept s₀ (State.broadcast s p l slices) := by
  unfold State.broadcast
  repeat' first
    | assumption
    | (simp +contextual (maxDischargeDepth := 20) [*]; done)
    | refine kept_each _ _ (fun _ _ _ => ?_) ?_
    | split

theorem kept_execScheduleLoad (f : Nat) (hk : Kept s₀ s)
    {t : State} (ht : (execScheduleLoad f s) = .next t) : Kept s₀ t := by
  unfold execScheduleLoad at ht
  simp only [Host.Outcome.next.injEq] at ht
  subst ht
  refine kept_command _ _ _ hk fun s c h => ?_
  repeat' split
  all_goals first | assumption | simp +contextual (maxDischargeDepth := 20) [*]

theorem kept_execScheduleUnload (f : Nat) (hk : Kept s₀ s)
    {t : State} (ht : (execScheduleUnload f s) = .next t) : Kept s₀ t := by
  unfold execScheduleUnload at ht
  simp only [Host.Outcome.next.injEq] at ht
  subst ht
  refine kept_command _ _ _ hk fun s c h => ?_
  repeat' split
  all_goals first | assumption | simp +contextual (maxDischargeDepth := 20) [*]

end Sys2Proof.Machine
end

