-- ==== Sys2Proof/Laws/KeptPolders.lean ====
section
/-! SUPPORT. What the operations of Machine/Polders.lean keep (Laws/Kept.lean). -/

namespace Sys2Proof.Machine

variable {s₀ s : State}

@[simp] theorem kept_trainCrossings (n : Nat) (offers : List Offer) (hk : Kept s₀ s) :
    Kept s₀ (State.trainCrossings s n offers) := by
  unfold State.trainCrossings
  simp +contextual (maxDischargeDepth := 20) [*]

@[simp] theorem kept_setDikes (p : Polder) (hk : Kept s₀ s) :
    Kept s₀ (State.setDikes s p) := by
  unfold State.setDikes
  simp +contextual (maxDischargeDepth := 20) [*]

@[simp] theorem kept_clearDikes (p : Polder) (hk : Kept s₀ s) :
    Kept s₀ (State.clearDikes s p) := by
  unfold State.clearDikes
  simp +contextual (maxDischargeDepth := 20) [*]

@[simp] theorem kept_reachIdle (h : Nat) (hk : Kept s₀ s) :
    Kept s₀ (State.reachIdle s h) := by
  unfold State.reachIdle
  simp +contextual (maxDischargeDepth := 20) [*]

@[simp] theorem kept_wakeHalfDies (hs : List Nat) (hk : Kept s₀ s) :
    Kept s₀ (State.wakeHalfDies s hs) := by
  unfold State.wakeHalfDies
  repeat' first
    | assumption
    | (simp +contextual (maxDischargeDepth := 20) [*]; done)
    | refine kept_each _ _ (fun _ _ _ => ?_) ?_
    | split

theorem kept_execPolderCreate (f : Nat) (offers : List Offer) (hk : Kept s₀ s)
    {t : State} (ht : (execPolderCreate f offers s) = .next t) : Kept s₀ t := by
  refine kept_next ht (kept_command _ _ _ hk fun s c h => ?_)
  extract_lets a p hs rows
  split
  · simp [h]
  · exact kept_boardOrder _ _ (kept_trainCrossings _ _ (kept_setDikes _ (kept_wakeHalfDies _ (kept_mk (kept_setPolder _ _ h)))))

theorem kept_execPolderCreateComplete (p : Nat) (hk : Kept s₀ s)
    {t : State} (ht : (execPolderCreateComplete p s) = .next t) : Kept s₀ t := by
  unfold execPolderCreateComplete at ht
  (try dsimp only at ht)
  repeat' split at ht
  all_goals
    simp only [Host.Outcome.next.injEq] at ht
    subst ht
    first | assumption | simp +contextual (maxDischargeDepth := 20) [*]

theorem kept_execPolderDestroy (f : Nat) (hk : Kept s₀ s)
    {t : State} (ht : (execPolderDestroy f s) = .next t) : Kept s₀ t := by
  unfold execPolderDestroy at ht
  simp only [Host.Outcome.next.injEq] at ht
  subst ht
  first
    | refine kept_command _ _ _ hk fun s c h => ?_
    | refine kept_serve_ _ _ _ hk fun s c h => ?_
  repeat' split
  all_goals first | assumption | simp +contextual (maxDischargeDepth := 20) [*]

@[simp] theorem kept_resetArithmetic (n : Nat) (hk : Kept s₀ s) :
    Kept s₀ (State.resetArithmetic s n) := by
  unfold State.resetArithmetic
  simp +contextual (maxDischargeDepth := 20) [*]

theorem kept_execPolderReset (f : Nat) (offers : List Offer) (hk : Kept s₀ s)
    {t : State} (ht : (execPolderReset f offers s) = .next t) : Kept s₀ t := by
  unfold execPolderReset at ht
  simp only [Host.Outcome.next.injEq] at ht
  subst ht
  first
    | refine kept_command _ _ _ hk fun s c h => ?_
    | refine kept_serve_ _ _ _ hk fun s c h => ?_
  repeat' first
    | assumption
    | (simp +contextual (maxDischargeDepth := 20) [*]; done)
    | refine kept_each _ _ (fun _ _ _ => ?_) ?_
    | split

theorem kept_execPolderResetComplete (p : Nat) (hk : Kept s₀ s)
    {t : State} (ht : (execPolderResetComplete p s) = .next t) : Kept s₀ t := by
  unfold execPolderResetComplete at ht
  (try dsimp only at ht)
  repeat' split at ht
  all_goals
    simp only [Host.Outcome.next.injEq] at ht
    subst ht
    first | assumption | simp +contextual (maxDischargeDepth := 20) [*]

theorem kept_execGetStatus (f : Nat) (hk : Kept s₀ s)
    {t : State} (ht : (execGetStatus f s) = .next t) : Kept s₀ t := by
  unfold execGetStatus at ht
  simp only [Host.Outcome.next.injEq] at ht
  subst ht
  simp +contextual (maxDischargeDepth := 20) [*]

end Sys2Proof.Machine
end

