-- ==== Sys2Proof/Laws/KeptPlanner.lean ====
section
/-! SUPPORT. What the operations of Machine/Planner.lean keep (Laws/Kept.lean). -/

namespace Sys2Proof.Machine

variable {s₀ s : State}

@[simp] theorem kept_updateCap (hk : Kept s₀ s) :
    Kept s₀ (State.updateCap s) := by
  unfold State.updateCap
  dsimp only
  repeat' split
  all_goals first | assumption | simp +contextual (maxDischargeDepth := 20) [*]

@[simp] theorem kept_restep (n : Nat) (hk : Kept s₀ s) :
    Kept s₀ (State.restep s n) := by
  unfold State.restep
  simp +contextual (maxDischargeDepth := 20) [*]

@[simp] theorem kept_setStep (n : Nat) (st : Nat) (hk : Kept s₀ s) :
    Kept s₀ (State.setStep s n st) := by
  unfold State.setStep
  simp +contextual (maxDischargeDepth := 20) [*]

@[simp] theorem kept_freeze (loop : Nat) (on : Bool) (hk : Kept s₀ s) :
    Kept s₀ (State.freeze s loop on) := by
  unfold State.freeze
  simp +contextual (maxDischargeDepth := 20) [*]

@[simp] theorem kept_freezeScrub (hk : Kept s₀ s) :
    Kept s₀ (State.freezeScrub s) := by
  unfold State.freezeScrub
  simp +contextual (maxDischargeDepth := 20) [*]

@[simp] theorem kept_lowerRunning (deficit : Nat) (l : List (Nat × Job)) (s : State) (hk : Kept s₀ s) :
    Kept s₀ (State.lowerRunning deficit l s) := by
  induction l generalizing deficit s with
  | nil => exact hk
  | cons x r ih =>
    unfold State.lowerRunning
    split
    · exact hk
    dsimp only
    repeat' split
    · exact kept_setStep _ _ hk
    · exact ih _ _ hk
    · exact ih _ _ (kept_setStep _ _ hk)

@[simp] theorem kept_raiseLowered (l : List (Nat × Job)) (fb : Nat) (s : State) (hk : Kept s₀ s) :
    Kept s₀ (State.raiseLowered l fb s).1 := by
  induction l generalizing fb s with
  | nil => exact hk
  | cons x r ih =>
    unfold State.raiseLowered
    refine kept_ite_fst _ (fun _ => ih _ _ hk) fun _ => ?_
    split
    · exact ih _ _ (kept_onPolder _ _ (kept_setStep _ _ hk))
    · exact ih _ _ hk

@[simp] theorem kept_admitJob (n : Nat) (st : Nat) (hk : Kept s₀ s) :
    Kept s₀ (State.admitJob s n st) := by
  unfold State.admitJob
  simp +contextual (maxDischargeDepth := 20) [*]

@[simp] theorem kept_failWaiting (n : Nat) (hk : Kept s₀ s) :
    Kept s₀ (State.failWaiting s n) := by
  unfold State.failWaiting
  simp +contextual (maxDischargeDepth := 20) [*]

@[simp] theorem kept_admitWaiting (l : List (Nat × Job)) (fb : Nat) (s : State)
    (hk : Kept s₀ s) : Kept s₀ (State.admitWaiting l fb s) := by
  induction l generalizing fb s with
  | nil => exact hk
  | cons x r ih =>
    unfold State.admitWaiting
    split
    · exact ih _ _ hk
    split
    · exact ih _ _ (kept_admitJob _ _ hk)
    · exact ih _ _ (kept_ite _ (fun _ => kept_failWaiting _ hk) fun _ => hk)

@[simp] theorem kept_noteLow (hk : Kept s₀ s) :
    Kept s₀ (State.noteLow s) := by
  unfold State.noteLow
  simp +contextual (maxDischargeDepth := 20) [*]

@[simp] theorem kept_overdraw (hk : Kept s₀ s) :
    Kept s₀ (State.overdraw s) := by
  unfold State.overdraw
  dsimp only
  repeat' split
  all_goals first | assumption | simp +contextual (maxDischargeDepth := 20) [*]

@[simp] theorem kept_noteFreeboard (hk : Kept s₀ s) :
    Kept s₀ (State.noteFreeboard s) := by
  unfold State.noteFreeboard
  simp +contextual (maxDischargeDepth := 20) [*]

@[simp] theorem kept_freezeSteps (hk : Kept s₀ s) :
    Kept s₀ (State.freezeSteps s) := by
  unfold State.freezeSteps
  simp +contextual (maxDischargeDepth := 20) [*]

@[simp] theorem kept_plan (hk : Kept s₀ s) :
    Kept s₀ (State.plan s) := by
  unfold State.plan
  simp +contextual (maxDischargeDepth := 20) [*]

theorem kept_execPlannerRun (hk : Kept s₀ s)
    {t : State} (ht : (execPlannerRun s) = .next t) : Kept s₀ t := by
  unfold execPlannerRun at ht
  simp only [Host.Outcome.next.injEq] at ht
  subst ht
  simp +contextual (maxDischargeDepth := 20) [*]

theorem kept_execCapSet (f : Nat) (hk : Kept s₀ s)
    {t : State} (ht : (execCapSet f s) = .next t) : Kept s₀ t := by
  unfold execCapSet at ht
  simp only [Host.Outcome.next.injEq] at ht
  subst ht
  simp +contextual (maxDischargeDepth := 20) [*]

theorem kept_execQuotaSet (f : Nat) (hk : Kept s₀ s)
    {t : State} (ht : (execQuotaSet f s) = .next t) : Kept s₀ t := by
  unfold execQuotaSet at ht
  simp only [Host.Outcome.next.injEq] at ht
  subst ht
  first
    | refine kept_command _ _ _ hk fun s c h => ?_
    | refine kept_serve_ _ _ _ hk fun s c h => ?_
  repeat' split
  all_goals first | assumption | simp +contextual (maxDischargeDepth := 20) [*]

@[simp] theorem kept_railRaised (rail : Nat) (hk : Kept s₀ s) :
    Kept s₀ (State.railRaised s rail) := by
  unfold State.railRaised
  simp +contextual (maxDischargeDepth := 20) [*]

theorem kept_execAvsbusAck (rail : Nat) (hk : Kept s₀ s)
    {t : State} (ht : (execAvsbusAck rail s) = .next t) : Kept s₀ t := by
  unfold execAvsbusAck at ht
  repeat' split at ht
  all_goals
    refine kept_next ht ?_
    repeat' first
      | assumption
      | (simp +contextual (maxDischargeDepth := 20) [*]; done)
      | refine kept_each _ _ (fun _ _ _ => ?_) ?_
      | refine kept_ite _ (fun _ => ?_) (fun _ => ?_)
      | refine kept_mk ?_
      | split

@[simp] theorem kept_dropRaise (rail : Nat) (hk : Kept s₀ s) :
    Kept s₀ (State.dropRaise s rail) := by
  unfold State.dropRaise
  simp +contextual (maxDischargeDepth := 20) [*]

theorem kept_execAvsNoack (rail : Nat) (hk : Kept s₀ s)
    {t : State} (ht : (execAvsNoack rail s) = .next t) : Kept s₀ t := by
  unfold execAvsNoack at ht
  split at ht
  · exact kept_next ht hk
  · exact kept_next ht (kept_ite _
      (fun _ => kept_dropRaise _ (kept_addLog _ _ _ _ _ _ (kept_countUp _ (kept_ite _ (fun _ => hk) fun _ => kept_onRail _ _ hk))))
      (fun _ => kept_addLog _ _ _ _ _ _ (kept_countUp _ (kept_ite _ (fun _ => hk) fun _ => kept_onRail _ _ hk))))

end Sys2Proof.Machine
end

