-- ==== Sys2Proof/Laws/KeptLinkOps.lean ====
section
/-! SUPPORT. What the operations of Machine/LinkOps.lean keep (Laws/Kept.lean). -/

namespace Sys2Proof.Machine

variable {s₀ s : State}

@[simp] theorem kept_settle (n : Nat) (hk : Kept s₀ s) :
    Kept s₀ (State.settle s n) := by
  unfold State.settle
  simp +contextual (maxDischargeDepth := 20) [*]

@[simp] theorem kept_pumpLink (n : Nat) (hk : Kept s₀ s) :
    Kept s₀ (State.pumpLink s n) := by
  unfold State.pumpLink
  simp +contextual (maxDischargeDepth := 20) [*]

@[simp] theorem kept_linkCount (n : Nat) (polder : Nat) (units : Nat) (hk : Kept s₀ s) :
    Kept s₀ (State.linkCount s n polder units) := by
  unfold State.linkCount
  simp +contextual (maxDischargeDepth := 20) [*]

@[simp] theorem kept_sendPacket (n : Nat) (p : Packet) (hk : Kept s₀ s) :
    Kept s₀ (State.sendPacket s n p) := by
  unfold State.sendPacket
  simp +contextual (maxDischargeDepth := 20) [*]

@[simp] theorem kept_askPeer (ch : Nat) (a : Nat) (acc : Access) (hk : Kept s₀ s) :
    Kept s₀ (State.askPeer s ch a acc).1 := by
  unfold State.askPeer
  dsimp only
  (repeat' split) <;> simp_all +contextual (maxDischargeDepth := 20)

@[simp] theorem kept_linkEvent (n : Nat) (cause : Nat) (hk : Kept s₀ s) :
    Kept s₀ (State.linkEvent s n cause) := by
  unfold State.linkEvent
  simp +contextual (maxDischargeDepth := 20) [*]

@[simp] theorem kept_dropRequest (o : Outstanding) (hk : Kept s₀ s) :
    Kept s₀ (State.dropRequest s o) := by
  unfold State.dropRequest
  simp +contextual (maxDischargeDepth := 20) [*]

@[simp] theorem kept_linkOff (n : Nat) (st : LinkState) (cause : Nat) (hk : Kept s₀ s) :
    Kept s₀ (State.linkOff s n st cause) := by
  unfold State.linkOff
  simp +contextual (maxDischargeDepth := 20) [*]

@[simp] theorem kept_linksSilent (st : LinkState) (hk : Kept s₀ s) :
    Kept s₀ (State.linksSilent s st) := by
  unfold State.linksSilent
  simp +contextual (maxDischargeDepth := 20) [*]

@[simp] theorem kept_freezeLink (n : Nat) (hk : Kept s₀ s) :
    Kept s₀ (State.freezeLink s n) := by
  unfold State.freezeLink
  simp +contextual (maxDischargeDepth := 20) [*]

end Sys2Proof.Machine
end

