-- ==== Sys2Proof/Laws/KeptAccess.lean ====
section
/-! SUPPORT. What the operations of Machine/Access.lean keep (Laws/Kept.lean). -/

namespace Sys2Proof.Machine

variable {s₀ s : State}

@[simp] theorem kept_respond (n : Nat) (tag : Nat) (write : Bool) (len : Nat) (addr : Nat) (r : Status × List Byte) (hk : Kept s₀ s) :
    Kept s₀ (State.respond s n tag write len addr r) := by
  unfold State.respond
  simp +contextual (maxDischargeDepth := 20) [*]

@[simp] theorem kept_partDone (part : Nat) (addr : Nat) (g : Got) (hk : Kept s₀ s) :
    Kept s₀ (State.partDone s part addr g) := by
  unfold State.partDone
  dsimp only
  repeat' split
  all_goals first | assumption | simp +contextual (maxDischargeDepth := 20) [*]

@[simp] theorem kept_queueHost (e : Nat) (part : Nat) (a : Nat) (acc : Access) (hk : Kept s₀ s) :
    Kept s₀ (State.queueHost s e part a acc) := by
  unfold State.queueHost
  simp +contextual (maxDischargeDepth := 20) [*]

@[simp] theorem kept_makePart (who : Requester) (part : Nat) (a : Nat) (acc : Access) (flips : List SymErr) (hk : Kept s₀ s) :
    Kept s₀ (State.makePart s who part a acc flips).1 := by
  unfold State.makePart
  repeat' split
  all_goals first | assumption | simp +contextual (maxDischargeDepth := 20) [*]

@[simp] theorem kept_makeParts (who : Requester) (first : Nat) (flips : List SymErr) (l : List (Option Nat × Access))
    (hk : Kept s₀ s) : Kept s₀ (State.makeParts s who first flips l).1 := by
  induction l generalizing s first flips with
  | nil => exact hk
  | cons x r ih =>
    obtain ⟨_ | a, acc⟩ := x
    · exact ih _ _ hk
    · exact ih _ _ (kept_makePart _ _ _ _ _ hk)

@[simp] theorem kept_gather (who : Requester) (write : Bool) (len : Nat) (parts : List (Option Nat × Access)) (flips : List SymErr) (hk : Kept s₀ s) :
    Kept s₀ (State.gather s who write len parts flips).1 := by
  unfold State.gather
  simp +contextual (maxDischargeDepth := 20) [*]

@[simp] theorem kept_hostReadParts (parts : List (Option Nat × Access)) (flips : List SymErr) (hk : Kept s₀ s) :
    Kept s₀ (State.hostReadParts s parts flips) := by
  unfold State.hostReadParts
  repeat' first
    | assumption
    | (simp +contextual (maxDischargeDepth := 20) [*]; done)
    | refine kept_each _ _ (fun _ _ _ => ?_) ?_
    | split

@[simp] theorem kept_hostDevRead (a : Nat) (n : Nat) (flips : List SymErr) (hk : Kept s₀ s) :
    Kept s₀ (State.hostDevRead s a n flips) := by
  unfold State.hostDevRead
  simp +contextual (maxDischargeDepth := 20) [*]

@[simp] theorem kept_hostPiece (off : Nat) (a : Nat) (l : List Byte) (flips : List SymErr) (hk : Kept s₀ s) :
    Kept s₀ (State.hostPiece s off a l flips) := by
  unfold State.hostPiece
  simp +contextual (maxDischargeDepth := 20) [*]

@[simp] theorem kept_postPiece (off : Nat) (a : Nat) (l : List Byte) (flips : List SymErr) (hk : Kept s₀ s) :
    Kept s₀ (State.postPiece s off a l flips) := by
  unfold State.postPiece
  repeat' split
  all_goals first | assumption | simp +contextual (maxDischargeDepth := 20) [*]

@[simp] theorem kept_hostDevWrite (off : Nat) (a : Nat) (l : List Byte) (flips : List SymErr) (hk : Kept s₀ s) :
    Kept s₀ (State.hostDevWrite s off a l flips) := by
  unfold State.hostDevWrite
  repeat' first
    | assumption
    | (simp +contextual (maxDischargeDepth := 20) [*]; done)
    | refine kept_each _ _ (fun _ _ _ => ?_) ?_
    | split

@[simp] theorem kept_dmaOutcome (ch : Nat) (a : Nat) (acc : Access) (g : Got) (hk : Kept s₀ s) :
    Kept s₀ (State.dmaOutcome s ch a acc g) := by
  unfold State.dmaOutcome
  simp +contextual (maxDischargeDepth := 20) [*]

@[simp] theorem kept_dmaAccess (ch : Nat) (a : Nat) (acc : Access) (flips : List SymErr) (hk : Kept s₀ s) :
    Kept s₀ (State.dmaAccess s ch a acc flips) := by
  unfold State.dmaAccess
  simp +contextual (maxDischargeDepth := 20) [*]

@[simp] theorem kept_arrive (who : Requester) (a : Nat) (acc : Access) (flips : List SymErr) (hk : Kept s₀ s) :
    Kept s₀ (State.arrive s who a acc flips) := by
  unfold State.arrive
  repeat' split
  all_goals first | assumption | simp +contextual (maxDischargeDepth := 20) [*]

@[simp] theorem kept_again (h : Held) (hk : Kept s₀ s) :
    Kept s₀ (State.again s h) := by
  unfold State.again
  dsimp only
  repeat' split
  all_goals first | assumption | simp +contextual (maxDischargeDepth := 20) [*]

@[simp] theorem kept_unpark (h : Held) (hk : Kept s₀ s) :
    Kept s₀ (State.unpark s h) := by
  unfold State.unpark
  repeat' split
  all_goals first | assumption | simp +contextual (maxDischargeDepth := 20) [*]

@[simp] theorem kept_serveHeld (h : Held) (hk : Kept s₀ s) :
    Kept s₀ (State.serveHeld s h) := by
  unfold State.serveHeld
  simp +contextual (maxDischargeDepth := 20) [*]

@[simp] theorem kept_serveWaiting (h : Held) (hk : Kept s₀ s) :
    Kept s₀ (State.serveWaiting s h) := by
  unfold State.serveWaiting
  repeat' split
  all_goals first | assumption | simp +contextual (maxDischargeDepth := 20) [*]

end Sys2Proof.Machine
end

