-- ==== Sys2Proof/Laws/KeptNearBank.lean ====
section
/-! SUPPORT. What the operations of Machine/NearBank.lean keep (Laws/Kept.lean). -/

namespace Sys2Proof.Machine

variable {s₀ s : State}

@[simp] theorem kept_nbFinish (e : Nat) (c : NbCmd) (st : Status) (flags : Flags) (payload : List Byte) (cycles : Nat) (hk : Kept s₀ s) :
    Kept s₀ (State.nbFinish s e c st flags payload cycles) := by
  unfold State.nbFinish
  simp +contextual (maxDischargeDepth := 20) [*]

@[simp] theorem kept_nbCycles (bound : Nat) (hk : Kept s₀ s) :
    Kept s₀ (State.nbCycles s bound).2 := by
  unfold State.nbCycles
  simp +contextual (maxDischargeDepth := 20) [*]

@[simp] theorem kept_nbEnd (e : Nat) (c : NbCmd) (st : Status) (hk : Kept s₀ s) :
    Kept s₀ (State.nbEnd s e c st) := by
  unfold State.nbEnd
  simp +contextual (maxDischargeDepth := 20) [*]

@[simp] theorem kept_nbAllFail (e : Nat) (hk : Kept s₀ s) :
    Kept s₀ (State.nbAllFail s e) := by
  unfold State.nbAllFail
  simp +contextual (maxDischargeDepth := 20) [*]

theorem kept_execNbDispatch (stack : Nat) (hk : Kept s₀ s)
    {t : State} (ht : (execNbDispatch stack s) = .next t) : Kept s₀ t := by
  unfold execNbDispatch at ht
  (try dsimp only at ht)
  repeat' split at ht
  all_goals
    simp only [Host.Outcome.next.injEq] at ht
    subst ht
    first | assumption | simp +contextual (maxDischargeDepth := 20) [*]

@[simp] theorem kept_nbRun (e : Nat) (opc : Nat) (run : State → NbCmd → State) (hk : Kept s₀ s) (hg3 : ∀ y0 y1, Kept s₀ y0 → Kept s₀ (run y0 y1)) :
    Kept s₀ (State.nbRun s e opc run) := by
  unfold State.nbRun
  dsimp only
  repeat' split
  all_goals first | assumption | simp +contextual (maxDischargeDepth := 20) [*]

@[simp] theorem kept_nbGot (e : Nat) (c : NbCmd) (g : Got) (payload : List Byte) (hk : Kept s₀ s) :
    Kept s₀ (State.nbGot s e c g payload) := by
  unfold State.nbGot
  simp +contextual (maxDischargeDepth := 20) [*]

theorem kept_execNbWrite (e : Nat) (hk : Kept s₀ s)
    {t : State} (ht : (execNbWrite e s) = .next t) : Kept s₀ t := by
  unfold execNbWrite at ht
  simp only [Host.Outcome.next.injEq] at ht
  subst ht
  simp +contextual (maxDischargeDepth := 20) [*]

theorem kept_execNbRead (e : Nat) (hk : Kept s₀ s)
    {t : State} (ht : (execNbRead e s) = .next t) : Kept s₀ t := by
  unfold execNbRead at ht
  simp only [Host.Outcome.next.injEq] at ht
  subst ht
  simp +contextual (maxDischargeDepth := 20) [*]

theorem kept_execNbFill (e : Nat) (hk : Kept s₀ s)
    {t : State} (ht : (execNbFill e s) = .next t) : Kept s₀ t := by
  unfold execNbFill at ht
  simp only [Host.Outcome.next.injEq] at ht
  subst ht
  simp +contextual (maxDischargeDepth := 20) [*]

@[simp] theorem kept_nbCopyLoop (e : Nat) (b : By) (n : Nat) (src : Nat) (dst : Nat) (hk : Kept s₀ s) :
    Kept s₀ (State.nbCopyLoop s e b n src dst).1 := by
  induction n generalizing s src dst with
  | zero => exact hk
  | succ n ih =>
    unfold State.nbCopyLoop
    exact kept_ite_fst _ (fun _ => kept_burstRead _ _ _ _ hk) fun _ =>
      ih _ _ (kept_burstWrite _ _ _ _ (kept_burstRead _ _ _ _ hk))

theorem kept_execNbCopy (e : Nat) (hk : Kept s₀ s)
    {t : State} (ht : (execNbCopy e s) = .next t) : Kept s₀ t := by
  unfold execNbCopy at ht
  simp only [Host.Outcome.next.injEq] at ht
  subst ht
  simp +contextual (maxDischargeDepth := 20) [*]

theorem kept_execNbSync (e : Nat) (hk : Kept s₀ s)
    {t : State} (ht : (execNbSync e s) = .next t) : Kept s₀ t := by
  unfold execNbSync at ht
  simp only [Host.Outcome.next.injEq] at ht
  subst ht
  simp +contextual (maxDischargeDepth := 20) [*]

@[simp] theorem kept_chWrites (e : Nat) (b : By) (l : List (Nat × List Byte)) (hk : Kept s₀ s) :
    Kept s₀ (State.chWrites s e b l).1 := by
  induction l generalizing s with
  | nil => exact hk
  | cons w r ih =>
    unfold State.chWrites
    exact kept_ite_fst _ (fun _ => kept_chWrite _ _ _ _ _ _ hk) fun _ => ih (kept_chWrite _ _ _ _ _ _ hk)

theorem kept_execNbAppend (e : Nat) (hk : Kept s₀ s)
    {t : State} (ht : (execNbAppend e s) = .next t) : Kept s₀ t := by
  unfold execNbAppend at ht
  simp only [Host.Outcome.next.injEq] at ht
  subst ht
  simp +contextual (maxDischargeDepth := 20) [*]

@[simp] theorem kept_nbList (e : Nat) (c : NbCmd) (hk : Kept s₀ s) :
    Kept s₀ (State.nbList s e c).1 := by
  unfold State.nbList
  dsimp only
  repeat' split
  all_goals first | assumption | simp +contextual (maxDischargeDepth := 20) [*]

@[simp] theorem kept_nbMasked (e : Nat) (c : NbCmd) (n : Nat) (hk : Kept s₀ s) :
    Kept s₀ (State.nbMasked s e c n) := by
  unfold State.nbMasked
  simp +contextual (maxDischargeDepth := 20) [*]

@[simp] theorem kept_nbListEnd (e : Nat) (c : NbCmd) (l : List ListEntry) (left : List ListEntry) (g : Got) (flags : Flags) (payload : List Byte) (hk : Kept s₀ s) :
    Kept s₀ (State.nbListEnd s e c l left g flags payload) := by
  unfold State.nbListEnd
  simp +contextual (maxDischargeDepth := 20) [*]

@[simp] theorem kept_nbScoresLoop (e : Nat) (c : NbCmd) (q : List (List Nat)) (l : List ListEntry) (i : Nat)
    (fl : Flags) (hk : Kept s₀ s) : Kept s₀ (State.nbScoresLoop s e c q l i fl).1 := by
  induction l generalizing s i fl with
  | nil => exact hk
  | cons x r ih =>
    unfold State.nbScoresLoop
    have h1 := kept_chRead e (s.unitBy e c) (pageBytes c.kfmt c.vfmt c.d / 64 + 2) x.off (pageBytes c.kfmt c.vfmt c.d) hk
    exact kept_ite_fst _ (fun _ => h1) fun _ => kept_ite_fst _ (fun _ => kept_chWrite _ _ _ _ _ _ h1) fun _ =>
      ih _ _ (kept_chWrite _ _ _ _ _ _ h1)

theorem kept_execNbScores (e : Nat) (hk : Kept s₀ s)
    {t : State} (ht : (execNbScores e s) = .next t) : Kept s₀ t := by
  unfold execNbScores at ht
  simp only [Host.Outcome.next.injEq] at ht
  subst ht
  refine kept_nbRun _ _ _ hk fun s c h => ?_
  repeat' split
  all_goals simp +contextual (maxDischargeDepth := 20) [*]

@[simp] theorem kept_nbAttendLoop (e : Nat) (c : NbCmd) (q : List (List Nat)) (l : List ListEntry)
    (hs : List Head) (hk : Kept s₀ s) : Kept s₀ (State.nbAttendLoop s e c q l hs).1 := by
  induction l generalizing s hs with
  | nil => exact hk
  | cons x r ih =>
    unfold State.nbAttendLoop
    have h1 := kept_chRead e (s.unitBy e c) (pageBytes c.kfmt c.vfmt c.d / 64 + 2) x.off (pageBytes c.kfmt c.vfmt c.d) hk
    exact kept_ite_fst _ (fun _ => h1) fun _ => ih _ h1

theorem kept_execNbAttend (e : Nat) (hk : Kept s₀ s)
    {t : State} (ht : (execNbAttend e s) = .next t) : Kept s₀ t := by
  unfold execNbAttend at ht
  simp only [Host.Outcome.next.injEq] at ht
  subst ht
  refine kept_nbRun _ _ _ hk fun s c h => ?_
  repeat' split
  all_goals simp +contextual (maxDischargeDepth := 20) [*]

end Sys2Proof.Machine
end

