-- ==== Sys2Proof/Laws/KeptJobRun.lean ====
section
/-! SUPPORT. What the operations of Machine/JobRun.lean keep (Laws/Kept.lean). -/

namespace Sys2Proof.Machine

variable {s₀ s : State}

@[simp] theorem kept_queueJob (c : Cmd) (n : Nat) (arg : Nat) (timeout : Nat) (admission : Nat) (maps : List RandEntry) (context : List Byte) (hk : Kept s₀ s) :
    Kept s₀ (State.queueJob s c n arg timeout admission maps context) := by
  unfold State.queueJob
  simp +contextual (maxDischargeDepth := 20) [*]

theorem kept_execJobRun (f : Nat) (hk : Kept s₀ s)
    {t : State} (ht : (execJobRun f s) = .next t) : Kept s₀ t := by
  unfold execJobRun at ht
  simp only [Host.Outcome.next.injEq] at ht
  subst ht
  first
    | refine kept_command _ _ _ hk fun s c h => ?_
    | refine kept_serve_ _ _ _ hk fun s c h => ?_
  repeat' split
  all_goals first | assumption | simp +contextual (maxDischargeDepth := 20) [*]

theorem kept_execAdmissionTimeout (p : Nat) (hk : Kept s₀ s)
    {t : State} (ht : (execAdmissionTimeout p s) = .next t) : Kept s₀ t := by
  unfold execAdmissionTimeout at ht
  repeat' split at ht
  all_goals
    refine kept_next ht ?_
    repeat' first
      | assumption
      | (simp +contextual (maxDischargeDepth := 20) [*]; done)
      | refine kept_each _ _ (fun _ _ _ => ?_) ?_
      | refine kept_ite _ (fun _ => ?_) (fun _ => ?_)
      | refine kept_mk ?_
      | split

@[simp] theorem kept_clearFlags (p : Nat) (hk : Kept s₀ s) :
    Kept s₀ (State.clearFlags s p) := by
  unfold State.clearFlags
  simp +contextual (maxDischargeDepth := 20) [*]

@[simp] theorem kept_goActive (p : Nat) (hk : Kept s₀ s) :
    Kept s₀ (State.goActive s p) := by
  unfold State.goActive
  simp +contextual (maxDischargeDepth := 20) [*]

@[simp] theorem kept_startJob (p : Nat) (j : Job) (hk : Kept s₀ s) :
    Kept s₀ (State.startJob s p j) := by
  unfold State.startJob
  simp +contextual (maxDischargeDepth := 20) [*]

theorem kept_execJobEnd (p : Nat) (hk : Kept s₀ s)
    {t : State} (ht : (execJobEnd p s) = .next t) : Kept s₀ t := by
  unfold execJobEnd at ht
  (try dsimp only at ht)
  repeat' split at ht
  all_goals
    simp only [Host.Outcome.next.injEq] at ht
    subst ht
    first | assumption | simp +contextual (maxDischargeDepth := 20) [*]

theorem kept_execJobTimeout (p : Nat) (hk : Kept s₀ s)
    {t : State} (ht : (execJobTimeout p s) = .next t) : Kept s₀ t := by
  unfold execJobTimeout at ht
  (try dsimp only at ht)
  repeat' split at ht
  all_goals
    simp only [Host.Outcome.next.injEq] at ht
    subst ht
    first | assumption | simp +contextual (maxDischargeDepth := 20) [*]

theorem kept_execJobCancel (f : Nat) (hk : Kept s₀ s)
    {t : State} (ht : (execJobCancel f s) = .next t) : Kept s₀ t := by
  unfold execJobCancel at ht
  simp only [Host.Outcome.next.injEq] at ht
  subst ht
  first
    | refine kept_command _ _ _ hk fun s c h => ?_
    | refine kept_serve_ _ _ _ hk fun s c h => ?_
  repeat' split
  all_goals first | assumption | simp +contextual (maxDischargeDepth := 20) [*]

@[simp] theorem kept_tidePolder (n : Nat) (hk : Kept s₀ s) :
    Kept s₀ (State.tidePolder s n) := by
  unfold State.tidePolder
  simp +contextual (maxDischargeDepth := 20) [*]

theorem kept_execTideMark (h : Nat) (hk : Kept s₀ s)
    {t : State} (ht : (execTideMark h s) = .next t) : Kept s₀ t := by
  unfold execTideMark at ht
  (try dsimp only at ht)
  repeat' split at ht
  all_goals
    simp only [Host.Outcome.next.injEq] at ht
    subst ht
    first | assumption | simp +contextual (maxDischargeDepth := 20) [*]

end Sys2Proof.Machine
end

