-- ==== Sys2Proof/Laws/KeptFloodgate.lean ====
section
/-! SUPPORT. What the operations of Machine/Floodgate.lean keep (Laws/Kept.lean). -/

namespace Sys2Proof.Machine

variable {s₀ s : State}

@[simp] theorem kept_fgMark (f : Nat) (polder : Nat) (hk : Kept s₀ s) :
    Kept s₀ (State.fgMark s f polder) := by
  unfold State.fgMark
  simp +contextual (maxDischargeDepth := 20) [*]

@[simp] theorem kept_postRecord (f : Nat) (l : List Byte) (hk : Kept s₀ s) :
    Kept s₀ (State.postRecord s f l) := by
  unfold State.postRecord
  simp +contextual (maxDischargeDepth := 20) [*]

@[simp] theorem kept_fgFinish (kind : Nat) (target : Nat) (st : Status) (ended : Bool) (chans : Nat) (who : Gate) (hk : Kept s₀ s) :
    Kept s₀ (State.fgFinish s kind target st ended chans who) := by
  unfold State.fgFinish
  simp +contextual (maxDischargeDepth := 20) [*]

@[simp] theorem kept_fgRefuse (f : Nat) (target : Nat) (st : Status) (hk : Kept s₀ s) :
    Kept s₀ (State.fgRefuse s f target st) := by
  unfold State.fgRefuse
  simp +contextual (maxDischargeDepth := 20) [*]

@[simp] theorem kept_drains (target : Nat) (gs : List Gate) (hk : Kept s₀ s) :
    Kept s₀ (State.drains s target gs) := by
  unfold State.drains
  simp +contextual (maxDischargeDepth := 20) [*]

@[simp] theorem kept_startGate (f : Nat) (n : Nat) (hk : Kept s₀ s) :
    Kept s₀ (State.startGate s f n) := by
  unfold State.startGate
  simp +contextual (maxDischargeDepth := 20) [*]

@[simp] theorem kept_startPackageGate (f : Nat) (hk : Kept s₀ s) :
    Kept s₀ (State.startPackageGate s f) := by
  have h1 : Kept s₀ (s.fgMark f 31) := kept_fgMark _ _ hk
  unfold State.startPackageGate
  generalize s.fgMark f 31 = u at h1
  dsimp only
  refine kept_ite _ (fun _ => kept_mk h1) fun _ => ?_
  refine kept_mk (kept_each _ _ (fun s a h => kept_disableChan _ h) (kept_nbDiscard _ (kept_foldl_fst _ _ ?_ _ h1)))
  intro a b h
  exact kept_onPolder _ _ (kept_gatePolder _ h)

@[simp] theorem kept_finishGate (target : Nat) (hk : Kept s₀ s) :
    Kept s₀ (State.finishGate s target) := by
  unfold State.finishGate
  dsimp only
  repeat' split
  all_goals first | assumption | simp +contextual (maxDischargeDepth := 20) [*]

@[simp] theorem kept_writeFloodgate (f : Nat) (value : Nat) (hk : Kept s₀ s) :
    Kept s₀ (State.writeFloodgate s f value) := by
  unfold State.writeFloodgate
  simp +contextual (maxDischargeDepth := 20) [*]

@[simp] theorem kept_writeFgPf (value : Nat) (hk : Kept s₀ s) :
    Kept s₀ (State.writeFgPf s value) := by
  unfold State.writeFgPf
  simp +contextual (maxDischargeDepth := 20) [*]

theorem kept_execFloodgate (f : Nat) (value : Word) (hk : Kept s₀ s)
    {t : State} (ht : (execFloodgate f value s) = .next t) : Kept s₀ t := by
  unfold execFloodgate at ht
  (try dsimp only at ht)
  repeat' split at ht
  all_goals
    simp only [Host.Outcome.next.injEq] at ht
    subst ht
    first | assumption | simp +contextual (maxDischargeDepth := 20) [*]

theorem kept_execFgPf (value : Word) (hk : Kept s₀ s)
    {t : State} (ht : (execFgPf value s) = .next t) : Kept s₀ t := by
  unfold execFgPf at ht
  simp only [Host.Outcome.next.injEq] at ht
  subst ht
  simp +contextual (maxDischargeDepth := 20) [*]

theorem kept_execFloodgateDrained (target : Nat) (hk : Kept s₀ s)
    {t : State} (ht : (execFloodgateDrained target s) = .next t) : Kept s₀ t := by
  unfold execFloodgateDrained at ht
  (try dsimp only at ht)
  repeat' split at ht
  all_goals
    simp only [Host.Outcome.next.injEq] at ht
    subst ht
    first | assumption | simp +contextual (maxDischargeDepth := 20) [*]

@[simp] theorem kept_discardCommands (mine : Nat → Bool) (hk : Kept s₀ s) :
    Kept s₀ (State.discardCommands s mine) := by
  unfold State.discardCommands
  simp +contextual (maxDischargeDepth := 20) [*]

theorem Fuses.grows_partBurnt (u : Fuses) (svn revoke n : Nat) : u.Grows (u.partBurnt svn revoke n) := by
  unfold Fuses.partBurnt
  refine ⟨rfl, by dsimp only; omega, ?_⟩
  dsimp only
  split
  · rw [← Nat.or_assoc, Nat.or_self]
  · exact Nat.or_self _

@[simp] theorem kept_interrupted (hk : Kept s₀ s) :
    Kept s₀ (State.interrupted s) := by
  unfold State.interrupted
  refine kept_ite _ (fun _ => kept_mk hk) fun _ => ?_
  refine kept_mk (s := { s with fuses := s.fuses.partBurnt _ _ _ }) (kept_fuses hk (Fuses.grows_partBurnt _ _ _ _))

@[simp] theorem kept_pmpResetNow (hk : Kept s₀ s) :
    Kept s₀ (State.pmpResetNow s) := by
  unfold State.pmpResetNow
  simp +contextual (maxDischargeDepth := 20) [*]

@[simp] theorem kept_writePmpReset (value : Nat) (hk : Kept s₀ s) :
    Kept s₀ (State.writePmpReset s value) := by
  unfold State.writePmpReset
  simp +contextual (maxDischargeDepth := 20) [*]

theorem kept_execPmpReset (value : Word) (hk : Kept s₀ s)
    {t : State} (ht : (execPmpReset value s) = .next t) : Kept s₀ t := by
  unfold execPmpReset at ht
  simp only [Host.Outcome.next.injEq] at ht
  subst ht
  simp +contextual (maxDischargeDepth := 20) [*]

theorem kept_execFloodgateComplete (kind : Nat) (polder : Nat) (hk : Kept s₀ s)
    {t : State} (ht : (execFloodgateComplete kind polder s) = .next t) : Kept s₀ t := by
  unfold execFloodgateComplete at ht
  simp only [Host.Outcome.next.injEq] at ht
  subst ht
  simp +contextual (maxDischargeDepth := 20) [*]

@[simp] theorem kept_failBringUp (code : Nat) (unit : Nat) (elapsed : Nat) (warm : Bool) (hk : Kept s₀ s) :
    Kept s₀ (State.failBringUp s code unit elapsed warm) := by
  unfold State.failBringUp
  simp +contextual (maxDischargeDepth := 20) [*]

theorem kept_execPmpWatchdog (hk : Kept s₀ s)
    {t : State} (ht : (execPmpWatchdog s) = .next t) : Kept s₀ t := by
  have hl : Kept s₀ (s.addLog 11 0 31 0 0 0) := kept_addLog _ _ _ _ _ _ hk
  unfold execPmpWatchdog at ht
  generalize s.addLog 11 0 31 0 0 0 = u at hl ht
  dsimp only at ht
  split at ht
  · rw [Host.Outcome.next.injEq] at ht
    exact ht ▸ hk
  · split at ht
    · rw [Host.Outcome.next.injEq] at ht
      subst ht
      exact kept_ite _ (fun _ => kept_mk (kept_pmpResetNow hl)) fun _ => kept_failBringUp _ _ _ _ (kept_pmpResetNow hl)
    · rw [Host.Outcome.next.injEq] at ht
      subst ht
      exact kept_startPackageGate _ (kept_mk (kept_interrupted hl))

@[simp] theorem kept_fencePolder (n : Nat) (hk : Kept s₀ s) :
    Kept s₀ (State.fencePolder s n) := by
  unfold State.fencePolder
  simp +contextual (maxDischargeDepth := 20) [*]

@[simp] theorem kept_fence (u : FencedUnit) (hk : Kept s₀ s) :
    Kept s₀ (State.fence s u) := by
  unfold State.fence
  dsimp only
  repeat' split
  all_goals first | assumption | simp +contextual (maxDischargeDepth := 20) [*]

theorem kept_execFence (u : FencedUnit) (hk : Kept s₀ s)
    {t : State} (ht : (execFence u s) = .next t) : Kept s₀ t := by
  unfold execFence at ht
  simp only [Host.Outcome.next.injEq] at ht
  subst ht
  simp +contextual (maxDischargeDepth := 20) [*]

theorem kept_execCdcWatchdog (d : Nat) (hk : Kept s₀ s)
    {t : State} (ht : (execCdcWatchdog d s) = .next t) : Kept s₀ t := by
  unfold execCdcWatchdog at ht
  simp only [Host.Outcome.next.injEq] at ht
  subst ht
  simp +contextual (maxDischargeDepth := 20) [*]

theorem kept_execCdcRestartComplete (d : Nat) (hk : Kept s₀ s)
    {t : State} (ht : (execCdcRestartComplete d s) = .next t) : Kept s₀ t := by
  unfold execCdcRestartComplete at ht
  simp only [Host.Outcome.next.injEq] at ht
  subst ht
  simp +contextual (maxDischargeDepth := 20) [*]

end Sys2Proof.Machine
end

