-- ==== Sys2Proof/Laws/KeptVault.lean ====
section
/-! SUPPORT. What the operations of Machine/Vault.lean keep (Laws/Kept.lean). -/

namespace Sys2Proof.Machine

variable {s₀ s : State}

@[simp] theorem kept_writeCritical (cause : Nat) (hk : Kept s₀ s) :
    Kept s₀ (State.writeCritical s cause) := by
  unfold State.writeCritical
  simp +contextual (maxDischargeDepth := 20) [*]

theorem kept_execLogRead (f : Nat) (hk : Kept s₀ s)
    {t : State} (ht : (execLogRead f s) = .next t) : Kept s₀ t := by
  unfold execLogRead at ht
  simp only [Host.Outcome.next.injEq] at ht
  subst ht
  simp +contextual (maxDischargeDepth := 20) [*]

theorem kept_execLedgerRead (f : Nat) (hk : Kept s₀ s)
    {t : State} (ht : (execLedgerRead f s) = .next t) : Kept s₀ t := by
  unfold execLedgerRead at ht
  simp only [Host.Outcome.next.injEq] at ht
  subst ht
  simp +contextual (maxDischargeDepth := 20) [*]

end Sys2Proof.Machine
end

