-- ==== Sys2Proof/Laws/KeptResets.lean ====
section
/-! SUPPORT. What the operations of Machine/Resets.lean keep (Laws/Kept.lean). -/

namespace Sys2Proof.Machine

variable {s₀ s : State}

@[simp] theorem kept_blackout (hk : Kept s₀ s) :
    Kept s₀ (State.blackout s) := by
  have h := kept_interrupted hk
  exact ⟨h.1, h.2.1, rfl, rfl, h.2.2.2.2⟩

@[simp] theorem kept_loseHalfDies (hs : List Nat) (hk : Kept s₀ s) :
    Kept s₀ (State.loseHalfDies s hs) := by
  unfold State.loseHalfDies
  simp +contextual (maxDischargeDepth := 20) [*]

@[simp] theorem kept_offHalfDies (hs : List Nat) (hk : Kept s₀ s) :
    Kept s₀ (State.offHalfDies s hs) := by
  unfold State.offHalfDies
  simp +contextual (maxDischargeDepth := 20) [*]

@[simp] theorem kept_ucmRefresh (ds : List Nat) (hk : Kept s₀ s) :
    Kept s₀ (State.ucmRefresh s ds) := by
  unfold State.ucmRefresh
  simp +contextual (maxDischargeDepth := 20) [*]

@[simp] theorem kept_stacksRefresh (es : List Nat) (hk : Kept s₀ s) :
    Kept s₀ (State.stacksRefresh s es) := by
  unfold State.stacksRefresh
  simp +contextual (maxDischargeDepth := 20) [*]

end Sys2Proof.Machine
end

