-- ==== Sys2Proof/Laws/KeptHeat.lean ====
section
/-! SUPPORT. What the operations of Machine/Heat.lean keep (Laws/Kept.lean). -/

namespace Sys2Proof.Machine

variable {s₀ s : State}

@[simp] theorem kept_thermalEvent (kind : Nat) (unitKind : Nat) (unit : Nat) (polder : Nat) (ended : Bool) (hk : Kept s₀ s) :
    Kept s₀ (State.thermalEvent s kind unitKind unit polder ended) := by
  unfold State.thermalEvent
  simp +contextual (maxDischargeDepth := 20) [*]

@[simp] theorem kept_noteHeat (hk : Kept s₀ s) :
    Kept s₀ (State.noteHeat s) := by
  unfold State.noteHeat
  simp +contextual (maxDischargeDepth := 20) [*]

@[simp] theorem kept_flagRaised (unit : Nat × Nat) (sensor : Nat) (pair : Nat) (hk : Kept s₀ s) :
    Kept s₀ (State.flagRaised s unit sensor pair) := by
  unfold State.flagRaised
  simp +contextual (maxDischargeDepth := 20) [*]

@[simp] theorem kept_readSensors (r : Readings) (hk : Kept s₀ s) :
    Kept s₀ (State.readSensors s r) := by
  unfold State.readSensors
  simp +contextual (maxDischargeDepth := 20) [*]

@[simp] theorem kept_noteFallback (hk : Kept s₀ s) :
    Kept s₀ (State.noteFallback s) := by
  unfold State.noteFallback
  simp +contextual (maxDischargeDepth := 20) [*]

@[simp] theorem kept_weirPolder (n : Nat) (hk : Kept s₀ s) :
    Kept s₀ (State.weirPolder s n) := by
  unfold State.weirPolder
  simp +contextual (maxDischargeDepth := 20) [*]

@[simp] theorem kept_setBands (hk : Kept s₀ s) :
    Kept s₀ (State.setBands s) := by
  unfold State.setBands
  simp +contextual (maxDischargeDepth := 20) [*]

@[simp] theorem kept_shutDie (d : Nat) (hk : Kept s₀ s) :
    Kept s₀ (State.shutDie s d) := by
  unfold State.shutDie
  simp +contextual (maxDischargeDepth := 20) [*]

@[simp] theorem kept_shutStack (e : Nat) (hk : Kept s₀ s) :
    Kept s₀ (State.shutStack s e) := by
  unfold State.shutStack
  simp +contextual (maxDischargeDepth := 20) [*]

@[simp] theorem kept_shutdowns (hk : Kept s₀ s) :
    Kept s₀ (State.shutdowns s) := by
  unfold State.shutdowns
  simp +contextual (maxDischargeDepth := 20) [*]

@[simp] theorem kept_coldLimits (hk : Kept s₀ s) :
    Kept s₀ (State.coldLimits s) := by
  unfold State.coldLimits
  dsimp only
  (repeat' split) <;> simp_all +contextual (maxDischargeDepth := 20)

@[simp] theorem kept_coolantLoss (cause : Nat) (hk : Kept s₀ s) :
    Kept s₀ (State.coolantLoss s cause) := by
  unfold State.coolantLoss
  simp +contextual (maxDischargeDepth := 20) [*]

theorem kept_execCoolantHoldExit (hk : Kept s₀ s)
    {t : State} (ht : (execCoolantHoldExit s) = .next t) : Kept s₀ t := by
  unfold execCoolantHoldExit at ht
  split at ht
  · exact kept_next ht hk
  · refine kept_next ht (kept_event _ _ _ _ (kept_linksSilent _ (kept_each _ _ (fun s a h => ?_)
      (kept_each _ _ (fun s a h => ?_) (kept_mk hk)))))
    · exact kept_ite _ (fun _ => h) fun _ => kept_onStack _ _ h
    · exact kept_ite _ (fun _ => h) fun _ => kept_onUcmDie _ _ h

theorem kept_execFlowPulseEdge (sinceLastUs : Nat) (hk : Kept s₀ s)
    {t : State} (ht : (execFlowPulseEdge sinceLastUs s) = .next t) : Kept s₀ t := by
  unfold execFlowPulseEdge at ht
  (try dsimp only at ht)
  repeat' split at ht
  all_goals
    simp only [Host.Outcome.next.injEq] at ht
    subst ht
    first | assumption | simp +contextual (maxDischargeDepth := 20) [*]

theorem kept_execFlowPulseTimeout (hk : Kept s₀ s)
    {t : State} (ht : (execFlowPulseTimeout s) = .next t) : Kept s₀ t := by
  unfold execFlowPulseTimeout at ht
  (try dsimp only at ht)
  repeat' split at ht
  all_goals
    simp only [Host.Outcome.next.injEq] at ht
    subst ht
    first | assumption | simp +contextual (maxDischargeDepth := 20) [*]

@[simp] theorem kept_noteTrend (hk : Kept s₀ s) :
    Kept s₀ (State.noteTrend s) := by
  unfold State.noteTrend
  simp +contextual (maxDischargeDepth := 20) [*]

@[simp] theorem kept_noteRotation (hk : Kept s₀ s) :
    Kept s₀ (State.noteRotation s) := by
  unfold State.noteRotation
  simp +contextual (maxDischargeDepth := 20) [*]

theorem kept_execSensorSample (r : Readings) (hk : Kept s₀ s)
    {t : State} (ht : (execSensorSample r s) = .next t) : Kept s₀ t := by
  unfold execSensorSample at ht
  split at ht
  · exact kept_next ht hk
  · have h1 : Kept s₀ (((s.readSensors r).noteFallback).each (List.range 24) State.weirPolder) :=
      kept_each _ _ (fun s a h => kept_weirPolder _ h) (kept_noteFallback (kept_readSensors _ hk))
    have h2 := kept_noteTrend (kept_noteRotation (kept_coldLimits (kept_shutdowns (kept_setBands h1))))
    refine kept_next ht (kept_ite _ (fun _ => kept_coolantLoss _ h2) fun _ => kept_ite _ (fun _ => kept_coolantLoss _ h2) fun _ => h2)

theorem kept_execHardwareTrip (unitKind : Nat) (unit : Nat) (hk : Kept s₀ s)
    {t : State} (ht : (execHardwareTrip unitKind unit s) = .next t) : Kept s₀ t := by
  unfold execHardwareTrip at ht
  (try dsimp only at ht)
  repeat' split at ht
  all_goals
    simp only [Host.Outcome.next.injEq] at ht
    subst ht
    first | assumption | simp +contextual (maxDischargeDepth := 20) [*]

@[simp] theorem kept_relatch (hk : Kept s₀ s) :
    Kept s₀ (State.relatch s) := by
  unfold State.relatch
  simp +contextual (maxDischargeDepth := 20) [*]

theorem kept_execThermalResistanceUpdate (hk : Kept s₀ s)
    {t : State} (ht : (execThermalResistanceUpdate s) = .next t) : Kept s₀ t := by
  unfold execThermalResistanceUpdate at ht
  (try dsimp only at ht)
  repeat' split at ht
  all_goals
    simp only [Host.Outcome.next.injEq] at ht
    subst ht
    first | assumption | simp +contextual (maxDischargeDepth := 20) [*]

theorem kept_execThermalPolicySet (f : Nat) (hk : Kept s₀ s)
    {t : State} (ht : (execThermalPolicySet f s) = .next t) : Kept s₀ t := by
  unfold execThermalPolicySet at ht
  simp only [Host.Outcome.next.injEq] at ht
  subst ht
  simp +contextual (maxDischargeDepth := 20) [*]

theorem kept_execRotation (hk : Kept s₀ s)
    {t : State} (ht : (execRotation s) = .next t) : Kept s₀ t := by
  unfold execRotation at ht
  dsimp only at ht
  split at ht
  · exact kept_next ht hk
  · refine kept_next ht (kept_freeze _ _ (kept_mk (kept_each _ _ (fun s a h => ?_) hk)))
    exact kept_ite _ (fun _ => h) fun _ => kept_mk h

end Sys2Proof.Machine
end

