-- ==== Sys2Proof/Laws/KeptMemInit.lean ====
section
/-! SUPPORT. What the operations of Machine/MemInit.lean keep (Laws/Kept.lean). -/

namespace Sys2Proof.Machine

variable {s₀ s : State}

@[simp] theorem kept_ucmClearAll (sel : Nat → Bool) (w : Nat) (n : Nat) (hk : Kept s₀ s) :
    Kept s₀ (State.ucmClearAll s sel w n) := by
  have hw := Memory.wf_drop s.ucm (fun a => sel (a / sliceBytes) &&
    (decide (w ≤ a % sliceBytes / 32) && decide (a % sliceBytes / 32 < w + n))) hk.ucmWf
  exact ⟨hk.1, hk.hostWf, hw, hk.edgeWf, hk.2.2.2.2⟩

theorem kept_execMemInitUcm (f : Nat) (hk : Kept s₀ s)
    {t : State} (ht : (execMemInitUcm f s) = .next t) : Kept s₀ t := by
  unfold execMemInitUcm at ht
  simp only [Host.Outcome.next.injEq] at ht
  subst ht
  first
    | refine kept_command _ _ _ hk fun s c h => ?_
    | refine kept_serve_ _ _ _ hk fun s c h => ?_
  repeat' first
    | assumption
    | (simp +contextual (maxDischargeDepth := 20) [*]; done)
    | refine kept_each _ _ (fun _ _ _ => ?_) ?_
    | split

@[simp] theorem kept_dropLines (gone : Nat → Nat → Bool) (hk : Kept s₀ s) :
    Kept s₀ (State.dropLines s gone) := by
  unfold State.dropLines
  simp +contextual (maxDischargeDepth := 20) [*]

@[simp] theorem kept_edgeZero (gone : Nat → Nat → Bool) (hk : Kept s₀ s) :
    Kept s₀ (State.edgeZero s gone) := by
  have h := kept_dropLines gone hk
  have hw := Memory.wf_drop s.edge (fun k => gone (k / 0x60000000) (k % 0x60000000)) hk.edgeWf
  exact ⟨h.1, h.hostWf, h.ucmWf, hw, h.2.2.2.2⟩

theorem kept_execMemInitEdge (f : Nat) (hk : Kept s₀ s)
    {t : State} (ht : (execMemInitEdge f s) = .next t) : Kept s₀ t := by
  unfold execMemInitEdge at ht
  simp only [Host.Outcome.next.injEq] at ht
  subst ht
  first
    | refine kept_command _ _ _ hk fun s c h => ?_
    | refine kept_serve_ _ _ _ hk fun s c h => ?_
  repeat' first
    | assumption
    | (simp +contextual (maxDischargeDepth := 20) [*]; done)
    | refine kept_each _ _ (fun _ _ _ => ?_) ?_
    | split

@[simp] theorem kept_flushBasin (b : Nat) (hk : Kept s₀ s) :
    Kept s₀ (State.flushBasin s b) := by
  unfold State.flushBasin
  repeat' first
    | assumption
    | (simp +contextual (maxDischargeDepth := 20) [*]; done)
    | refine kept_each _ _ (fun _ _ _ => ?_) ?_
    | split

theorem kept_execMemInitBasin (f : Nat) (hk : Kept s₀ s)
    {t : State} (ht : (execMemInitBasin f s) = .next t) : Kept s₀ t := by
  unfold execMemInitBasin at ht
  simp only [Host.Outcome.next.injEq] at ht
  subst ht
  first
    | refine kept_command _ _ _ hk fun s c h => ?_
    | refine kept_serve_ _ _ _ hk fun s c h => ?_
  repeat' first
    | assumption
    | (simp +contextual (maxDischargeDepth := 20) [*]; done)
    | refine kept_each _ _ (fun _ _ _ => ?_) ?_
    | split

@[simp] theorem kept_flushChannel (e : Nat) (hk : Kept s₀ s) :
    Kept s₀ (State.flushChannel s e) := by
  unfold State.flushChannel
  repeat' first
    | assumption
    | (simp +contextual (maxDischargeDepth := 20) [*]; done)
    | refine kept_each _ _ (fun _ _ _ => ?_) ?_
    | split

theorem kept_execNearBankModeProcessor (f : Nat) (hk : Kept s₀ s)
    {t : State} (ht : (execNearBankModeProcessor f s) = .next t) : Kept s₀ t := by
  unfold execNearBankModeProcessor at ht
  simp only [Host.Outcome.next.injEq] at ht
  subst ht
  first
    | refine kept_command _ _ _ hk fun s c h => ?_
    | refine kept_serve_ _ _ _ hk fun s c h => ?_
  repeat' first
    | assumption
    | (simp +contextual (maxDischargeDepth := 20) [*]; done)
    | refine kept_each _ _ (fun _ _ _ => ?_) ?_
    | split

theorem kept_execNearBankModeMemory (f : Nat) (hk : Kept s₀ s)
    {t : State} (ht : (execNearBankModeMemory f s) = .next t) : Kept s₀ t := by
  unfold execNearBankModeMemory at ht
  simp only [Host.Outcome.next.injEq] at ht
  subst ht
  first
    | refine kept_command _ _ _ hk fun s c h => ?_
    | refine kept_serve_ _ _ _ hk fun s c h => ?_
  repeat' first
    | assumption
    | (simp +contextual (maxDischargeDepth := 20) [*]; done)
    | refine kept_each _ _ (fun _ _ _ => ?_) ?_
    | split

theorem kept_execKvSpaceConfig (f : Nat) (hk : Kept s₀ s)
    {t : State} (ht : (execKvSpaceConfig f s) = .next t) : Kept s₀ t := by
  unfold execKvSpaceConfig at ht
  simp only [Host.Outcome.next.injEq] at ht
  subst ht
  first
    | refine kept_command _ _ _ hk fun s c h => ?_
    | refine kept_serve_ _ _ _ hk fun s c h => ?_
  repeat' split
  all_goals first | assumption | simp +contextual (maxDischargeDepth := 20) [*]

end Sys2Proof.Machine
end

