-- ==== Sys2Proof/Laws/KeptRepair.lean ====
section
/-! SUPPORT. What the operations of Machine/Repair.lean keep (Laws/Kept.lean). -/

namespace Sys2Proof.Machine

variable {s₀ s : State}

@[simp] theorem kept_writeField (l : List RepairEntry) (hk : Kept s₀ s) :
    Kept s₀ (State.writeField s l) := by
  unfold State.writeField
  simp +contextual (maxDischargeDepth := 20) [*]

theorem kept_execRepairStage (f : Nat) (hk : Kept s₀ s)
    {t : State} (ht : (execRepairStage f s) = .next t) : Kept s₀ t := by
  unfold execRepairStage at ht
  simp only [Host.Outcome.next.injEq] at ht
  subst ht
  first
    | refine kept_command _ _ _ hk fun s c h => ?_
    | refine kept_serve_ _ _ _ hk fun s c h => ?_
  repeat' split
  all_goals first | assumption | simp +contextual (maxDischargeDepth := 20) [*]

theorem kept_execRepairCommit (f : Nat) (hk : Kept s₀ s)
    {t : State} (ht : (execRepairCommit f s) = .next t) : Kept s₀ t := by
  unfold execRepairCommit at ht
  simp only [Host.Outcome.next.injEq] at ht
  subst ht
  simp +contextual (maxDischargeDepth := 20) [*]

theorem kept_execDiagWarmReset (f : Nat) (hk : Kept s₀ s)
    {t : State} (ht : (execDiagWarmReset f s) = .next t) : Kept s₀ t := by
  unfold execDiagWarmReset at ht
  simp only [Host.Outcome.next.injEq] at ht
  subst ht
  simp +contextual (maxDischargeDepth := 20) [*]

theorem kept_execHalfDieTest (f : Nat) (defects : List RepairEntry) (hk : Kept s₀ s)
    {t : State} (ht : (execHalfDieTest f defects s) = .next t) : Kept s₀ t := by
  unfold execHalfDieTest at ht
  simp only [Host.Outcome.next.injEq] at ht
  subst ht
  first
    | refine kept_command _ _ _ hk fun s c h => ?_
    | refine kept_serve_ _ _ _ hk fun s c h => ?_
  repeat' split
  all_goals first | assumption | simp +contextual (maxDischargeDepth := 20) [*]

theorem kept_execEdgeRetrain (f : Nat) (hk : Kept s₀ s)
    {t : State} (ht : (execEdgeRetrain f s) = .next t) : Kept s₀ t := by
  unfold execEdgeRetrain at ht
  simp only [Host.Outcome.next.injEq] at ht
  subst ht
  first
    | refine kept_command _ _ _ hk fun s c h => ?_
    | refine kept_serve_ _ _ _ hk fun s c h => ?_
  repeat' split
  all_goals first | assumption | simp +contextual (maxDischargeDepth := 20) [*]

@[simp] theorem kept_byTester (run : State → State) (hk : Kept s₀ s) (hg1 : ∀ y0, Kept s₀ y0 → Kept s₀ (run y0)) :
    Kept s₀ (State.byTester s run) := by
  unfold State.byTester
  simp +contextual (maxDischargeDepth := 20) [*]

theorem kept_execDieBist (defects : List RepairEntry) (hk : Kept s₀ s)
    {t : State} (ht : (execDieBist defects s) = .next t) : Kept s₀ t := by
  unfold execDieBist at ht
  (try dsimp only at ht)
  repeat' split at ht
  all_goals
    simp only [Host.Outcome.next.injEq] at ht
    subst ht
    first | assumption | simp +contextual (maxDischargeDepth := 20) [*]

theorem kept_execLoopback (hk : Kept s₀ s)
    {t : State} (ht : (execLoopback s) = .next t) : Kept s₀ t := by
  unfold execLoopback at ht
  (try dsimp only at ht)
  repeat' split at ht
  all_goals
    simp only [Host.Outcome.next.injEq] at ht
    subst ht
    first | assumption | simp +contextual (maxDischargeDepth := 20) [*]

theorem kept_execTrainReport (ports : List PortReport) (hk : Kept s₀ s)
    {t : State} (ht : (execTrainReport ports s) = .next t) : Kept s₀ t := by
  unfold execTrainReport at ht
  (try dsimp only at ht)
  repeat' split at ht
  all_goals
    simp only [Host.Outcome.next.injEq] at ht
    subst ht
    first | assumption | simp +contextual (maxDischargeDepth := 20) [*]

end Sys2Proof.Machine
end

