-- ==== Sys2Proof/Laws/KeptUcm.lean ====
section
/-! SUPPORT. What the operations of Machine/Ucm.lean keep (Laws/Kept.lean). -/

namespace Sys2Proof.Machine

variable {s₀ s : State}

theorem kept_execUcmRefresh (d : Nat) (layer : Nat) (idle : Bool) (hk : Kept s₀ s)
    {t : State} (ht : (execUcmRefresh d layer idle s) = .next t) : Kept s₀ t := by
  unfold execUcmRefresh at ht
  (try dsimp only at ht)
  repeat' split at ht
  all_goals
    simp only [Host.Outcome.next.injEq] at ht
    subst ht
    first | assumption | simp +contextual (maxDischargeDepth := 20) [*]

theorem kept_execUcmApertureAccess (who : Requester) (addr : Nat) (acc : Access) (flips : List SymErr) (hk : Kept s₀ s)
    {t : State} (ht : (execUcmApertureAccess who addr acc flips s) = .next t) : Kept s₀ t := by
  unfold execUcmApertureAccess at ht
  (try dsimp only at ht)
  repeat' split at ht
  all_goals
    simp only [Host.Outcome.next.injEq] at ht
    subst ht
    first | assumption | simp +contextual (maxDischargeDepth := 20) [*]

theorem kept_execMergeRetire (core : Nat) (word : Nat) (flips : List SymErr) (hk : Kept s₀ s)
    {t : State} (ht : (execMergeRetire core word flips s) = .next t) : Kept s₀ t := by
  unfold execMergeRetire at ht
  (try dsimp only at ht)
  repeat' split at ht
  all_goals
    simp only [Host.Outcome.next.injEq] at ht
    subst ht
    first | assumption | simp +contextual (maxDischargeDepth := 20) [*]

theorem kept_execUcmScrubRequest (core : Nat) (flips : List SymErr) (hk : Kept s₀ s)
    {t : State} (ht : (execUcmScrubRequest core flips s) = .next t) : Kept s₀ t := by
  unfold execUcmScrubRequest at ht
  (try dsimp only at ht)
  repeat' split at ht
  all_goals
    simp only [Host.Outcome.next.injEq] at ht
    subst ht
    first | assumption | simp +contextual (maxDischargeDepth := 20) [*]

theorem kept_execUcmScrubPassEnd (d : Nat) (hk : Kept s₀ s)
    {t : State} (ht : (execUcmScrubPassEnd d s) = .next t) : Kept s₀ t := by
  unfold execUcmScrubPassEnd at ht
  (try dsimp only at ht)
  repeat' split at ht
  all_goals
    simp only [Host.Outcome.next.injEq] at ht
    subst ht
    first | assumption | simp +contextual (maxDischargeDepth := 20) [*]

theorem kept_execUcmSelfRefreshEntry (d : Nat) (hk : Kept s₀ s)
    {t : State} (ht : (execUcmSelfRefreshEntry d s) = .next t) : Kept s₀ t := by
  unfold execUcmSelfRefreshEntry at ht
  (try dsimp only at ht)
  repeat' split at ht
  all_goals
    simp only [Host.Outcome.next.injEq] at ht
    subst ht
    first | assumption | simp +contextual (maxDischargeDepth := 20) [*]

end Sys2Proof.Machine
end

