-- ==== Sys2Proof/Laws/KeptEdge.lean ====
section
/-! SUPPORT. What the operations of Machine/Edge.lean keep (Laws/Kept.lean). -/

namespace Sys2Proof.Machine

variable {s₀ s : State}

theorem kept_execEdgeAccess (who : Requester) (addr : Nat) (acc : Access) (flips : List SymErr) (hk : Kept s₀ s)
    {t : State} (ht : (execEdgeAccess who addr acc flips s) = .next t) : Kept s₀ t := by
  unfold execEdgeAccess at ht
  (try dsimp only at ht)
  repeat' split at ht
  all_goals
    simp only [Host.Outcome.next.injEq] at ht
    subst ht
    first | assumption | simp +contextual (maxDischargeDepth := 20) [*]

theorem kept_execSectorRead (who : Requester) (addr : Nat) (flips : List SymErr) (hk : Kept s₀ s)
    {t : State} (ht : (execSectorRead who addr flips s) = .next t) : Kept s₀ t := by
  unfold execSectorRead at ht
  (try dsimp only at ht)
  repeat' split at ht
  all_goals
    simp only [Host.Outcome.next.injEq] at ht
    subst ht
    first | assumption | simp +contextual (maxDischargeDepth := 20) [*]

theorem kept_execEdgeLineMark (e : Nat) (line : Nat) (hk : Kept s₀ s)
    {t : State} (ht : (execEdgeLineMark e line s) = .next t) : Kept s₀ t := by
  unfold execEdgeLineMark at ht
  (try dsimp only at ht)
  repeat' split at ht
  all_goals
    simp only [Host.Outcome.next.injEq] at ht
    subst ht
    first | assumption | simp +contextual (maxDischargeDepth := 20) [*]

theorem kept_execEdgeRetrainStart (e : Nat) (hk : Kept s₀ s)
    {t : State} (ht : (execEdgeRetrainStart e s) = .next t) : Kept s₀ t := by
  unfold execEdgeRetrainStart at ht
  (try dsimp only at ht)
  repeat' split at ht
  all_goals
    simp only [Host.Outcome.next.injEq] at ht
    subst ht
    first | assumption | simp +contextual (maxDischargeDepth := 20) [*]

@[simp] theorem kept_invalidate (e : Nat) (hk : Kept s₀ s) :
    Kept s₀ (State.invalidate s e) := by
  unfold State.invalidate
  repeat' first
    | assumption
    | (simp +contextual (maxDischargeDepth := 20) [*]; done)
    | refine kept_each _ _ (fun _ _ _ => ?_) ?_
    | split

@[simp] theorem kept_failChannel (e : Nat) (hk : Kept s₀ s) :
    Kept s₀ (State.failChannel s e) := by
  unfold State.failChannel
  simp +contextual (maxDischargeDepth := 20) [*]

theorem kept_execEdgeRetrainEnd (e : Nat) (badLines : List Nat) (hk : Kept s₀ s)
    {t : State} (ht : (execEdgeRetrainEnd e badLines s) = .next t) : Kept s₀ t := by
  unfold execEdgeRetrainEnd at ht
  (try dsimp only at ht)
  repeat' split at ht
  all_goals
    simp only [Host.Outcome.next.injEq] at ht
    subst ht
    first | assumption | simp +contextual (maxDischargeDepth := 20) [*]

theorem kept_execEdgeScrubRequest (e : Nat) (flips : List SymErr) (hk : Kept s₀ s)
    {t : State} (ht : (execEdgeScrubRequest e flips s) = .next t) : Kept s₀ t := by
  unfold execEdgeScrubRequest at ht
  (try dsimp only at ht)
  repeat' split at ht
  all_goals
    simp only [Host.Outcome.next.injEq] at ht
    subst ht
    first | assumption | simp +contextual (maxDischargeDepth := 20) [*]

theorem kept_execEdgeRefresh (e : Nat) (hk : Kept s₀ s)
    {t : State} (ht : (execEdgeRefresh e s) = .next t) : Kept s₀ t := by
  unfold execEdgeRefresh at ht
  (try dsimp only at ht)
  repeat' split at ht
  all_goals
    simp only [Host.Outcome.next.injEq] at ht
    subst ht
    first | assumption | simp +contextual (maxDischargeDepth := 20) [*]

end Sys2Proof.Machine
end

