-- ==== Sys2Proof/Laws/KeptPower.lean ====
section
/-! SUPPORT. What the operations of Machine/Power.lean keep (Laws/Kept.lean). -/

namespace Sys2Proof.Machine

variable {s₀ s : State}

@[simp] theorem kept_wakeUp (hk : Kept s₀ s) :
    Kept s₀ (State.wakeUp s) := by
  unfold State.wakeUp
  dsimp only
  repeat' split
  all_goals first | assumption | simp +contextual (maxDischargeDepth := 20) [*]

@[simp] theorem kept_writePwrCtl (v : Nat) (hk : Kept s₀ s) :
    Kept s₀ (State.writePwrCtl s v) := by
  unfold State.writePwrCtl
  dsimp only
  repeat' split
  all_goals first | assumption | simp +contextual (maxDischargeDepth := 20) [*]

@[simp] theorem kept_entryRefused (target : PkgState) (code : Nat) (hk : Kept s₀ s) :
    Kept s₀ (State.entryRefused s target code) := by
  unfold State.entryRefused
  simp +contextual (maxDischargeDepth := 20) [*]

@[simp] theorem kept_entryAborted (target : Nat) (code : Nat) (hk : Kept s₀ s) :
    Kept s₀ (State.entryAborted s target code) := by
  unfold State.entryAborted
  simp +contextual (maxDischargeDepth := 20) [*]

theorem kept_execP1Entry (hk : Kept s₀ s)
    {t : State} (ht : (execP1Entry s) = .next t) : Kept s₀ t := by
  unfold execP1Entry at ht
  (try dsimp only at ht)
  repeat' split at ht
  all_goals
    simp only [Host.Outcome.next.injEq] at ht
    subst ht
    first | assumption | simp +contextual (maxDischargeDepth := 20) [*]

theorem kept_execP1Wake (hk : Kept s₀ s)
    {t : State} (ht : (execP1Wake s) = .next t) : Kept s₀ t := by
  unfold execP1Wake at ht
  (try dsimp only at ht)
  repeat' split at ht
  all_goals
    simp only [Host.Outcome.next.injEq] at ht
    subst ht
    first | assumption | simp +contextual (maxDischargeDepth := 20) [*]

@[simp] theorem kept_ucmDomainOff (ds : List Nat) (hk : Kept s₀ s) :
    Kept s₀ (State.ucmDomainOff s ds) := by
  unfold State.ucmDomainOff
  have h1 : Kept s₀ (s.each ds fun s d => s.onUcmDie d fun x => { x with on := false, selfRefresh := false }) :=
    kept_each _ _ (fun s a h => kept_onUcmDie _ _ h) hk
  exact kept_mk (kept_ucm h1 (Memory.wf_drop s.ucm (fun a => ds.contains (dieOf (clusterOf (a / sliceBytes)))) hk.ucmWf))

@[simp] theorem kept_stacksOff (es : List Nat) (hk : Kept s₀ s) :
    Kept s₀ (State.stacksOff s es) := by
  unfold State.stacksOff
  have h1 : Kept s₀ (s.each es fun s e => s.onStack e fun x => { x with on := false, selfRefresh := false }) :=
    kept_each _ _ (fun s a h => kept_onStack _ _ h) hk
  exact kept_mk (kept_edge h1 (Memory.wf_drop _ (fun a => es.contains (a / (32 * 0x60000000))) h1.edgeWf))

theorem kept_edgeEmpty (h : Kept s₀ s) : Kept s₀ { s with edge := [], edgeBad := [] } :=
  ⟨h.1, h.2.1, h.2.2.1, rfl, h.2.2.2.2⟩

@[simp] theorem kept_edgeDomainsOff (hk : Kept s₀ s) :
    Kept s₀ (State.edgeDomainsOff s) := by
  unfold State.edgeDomainsOff
  simp +contextual (maxDischargeDepth := 20) [*]

@[simp] theorem kept_deepOff (hk : Kept s₀ s) :
    Kept s₀ (State.deepOff s) := by
  unfold State.deepOff
  simp +contextual (maxDischargeDepth := 20) [*]

@[simp] theorem kept_abortEntry (target : PkgState) (code : Nat) (hk : Kept s₀ s) :
    Kept s₀ (State.abortEntry s target code) := by
  unfold State.abortEntry
  simp +contextual (maxDischargeDepth := 20) [*]

@[simp] theorem kept_dropJob (n : Nat) (hk : Kept s₀ s) :
    Kept s₀ (State.dropJob s n) := by
  unfold State.dropJob
  simp +contextual (maxDischargeDepth := 20) [*]

@[simp] theorem kept_dropWork (hk : Kept s₀ s) :
    Kept s₀ (State.dropWork s) := by
  unfold State.dropWork
  simp +contextual (maxDischargeDepth := 20) [*]

@[simp] theorem kept_sagNow (vinMin : Nat) (hk : Kept s₀ s) :
    Kept s₀ (State.sagNow s vinMin) := by
  unfold State.sagNow
  simp +contextual (maxDischargeDepth := 20) [*]

theorem kept_execSupplySag (vinMin : Nat) (hk : Kept s₀ s)
    {t : State} (ht : (execSupplySag vinMin s) = .next t) : Kept s₀ t := by
  unfold execSupplySag at ht
  repeat' split at ht
  · exact kept_next ht hk
  · exact kept_next ht (kept_mk hk)
  · exact kept_next ht (kept_sagNow _ hk)

@[simp] theorem kept_entryFailed (target : PkgState) (code : Nat) (hk : Kept s₀ s) :
    Kept s₀ (State.entryFailed s target code) := by
  unfold State.entryFailed
  simp +contextual (maxDischargeDepth := 20) [*]

theorem kept_execP2Entry (failing : Option Nat) (hk : Kept s₀ s)
    {t : State} (ht : (execP2Entry failing s) = .next t) : Kept s₀ t := by
  unfold execP2Entry at ht
  repeat' split at ht
  · exact kept_next ht hk
  · exact kept_next ht (kept_mk hk)
  · exact kept_next ht (kept_entryFailed _ _ hk)
  · exact kept_next ht (kept_mk (kept_deepOff hk))

theorem kept_execP3Entry (failing : Option Nat) (hk : Kept s₀ s)
    {t : State} (ht : (execP3Entry failing s) = .next t) : Kept s₀ t := by
  unfold execP3Entry at ht
  repeat' split at ht
  · exact kept_next ht hk
  · exact kept_next ht (kept_mk hk)
  · exact kept_next ht (kept_entryFailed _ _ hk)
  · exact kept_next ht (kept_mk (kept_pmpResetNow (kept_deepOff hk)))

theorem kept_execP2Exit (failing : Option Nat) (hk : Kept s₀ s)
    {t : State} (ht : (execP2Exit failing s) = .next t) : Kept s₀ t := by
  unfold execP2Exit at ht
  split at ht
  · exact kept_next ht hk
  · split at ht
    · exact kept_next ht (kept_ite _ (fun _ => kept_sagNow _ hk) fun _ => kept_mk hk)
    · refine kept_next ht (kept_mk (kept_mk (kept_each _ _ (fun _ _ h => kept_onStack _ _ h)
        (kept_each _ _ (fun _ _ h => kept_onUcmDie _ _ h) hk))))

theorem kept_execWakeReplay (hk : Kept s₀ s)
    {t : State} (ht : (execWakeReplay s) = .next t) : Kept s₀ t := by
  unfold execWakeReplay at ht
  (try dsimp only at ht)
  repeat' split at ht
  all_goals
    simp only [Host.Outcome.next.injEq] at ht
    subst ht
    first | assumption | simp +contextual (maxDischargeDepth := 20) [*]

theorem kept_execNapEntry (h : Nat) (hk : Kept s₀ s)
    {t : State} (ht : (execNapEntry h s) = .next t) : Kept s₀ t := by
  unfold execNapEntry at ht
  (try dsimp only at ht)
  repeat' split at ht
  all_goals
    simp only [Host.Outcome.next.injEq] at ht
    subst ht
    first | assumption | simp +contextual (maxDischargeDepth := 20) [*]

theorem kept_execLockout (hk : Kept s₀ s)
    {t : State} (ht : (execLockout s) = .next t) : Kept s₀ t := by
  unfold execLockout at ht
  simp only [Host.Outcome.next.injEq] at ht
  subst ht
  simp +contextual (maxDischargeDepth := 20) [*]

end Sys2Proof.Machine
end

