-- ==== Sys2Proof/Laws/KeptTrust.lean ====
section
/-! SUPPORT. What the operations of Machine/Trust.lean keep (Laws/Kept.lean). -/

namespace Sys2Proof.Machine

variable {s₀ s : State}

@[simp] theorem kept_entropy32 (hk : Kept s₀ s) :
    Kept s₀ (State.entropy32 s).2 := by
  unfold State.entropy32
  simp +contextual (maxDischargeDepth := 20) [*]

@[simp] theorem kept_startFirmware (img : List Byte) (entropy : List Byte) (committed : Bool) (recovery : Bool) (hk : Kept s₀ s) :
    Kept s₀ (State.startFirmware s img entropy committed recovery) := by
  unfold State.startFirmware
  simp +contextual (maxDischargeDepth := 20) [*]

@[simp] theorem kept_rom (entropy : List Byte) (flashError : Bool) (hk : Kept s₀ s) :
    Kept s₀ (State.rom s entropy flashError) := by
  unfold State.rom
  dsimp only
  repeat' split
  all_goals first | assumption | simp +contextual (maxDischargeDepth := 20) [*]

theorem kept_execRomStart (entropy : List Byte) (flashError : Bool) (hk : Kept s₀ s)
    {t : State} (ht : (execRomStart entropy flashError s) = .next t) : Kept s₀ t := by
  unfold execRomStart at ht
  (try dsimp only at ht)
  repeat' split at ht
  all_goals
    simp only [Host.Outcome.next.injEq] at ht
    subst ht
    first | assumption | simp +contextual (maxDischargeDepth := 20) [*]

theorem kept_execFirmwareStage (f : Nat) (hk : Kept s₀ s)
    {t : State} (ht : (execFirmwareStage f s) = .next t) : Kept s₀ t := by
  refine kept_next ht (kept_meets _ _ _ hk (kept_command _ _ _ hk fun s c h => ?_))
  split
  · exact kept_refuse _ _ h
  · extract_lets img s1 tr s2 e failed s3
    have h2 : Kept s₀ s2 := kept_mk (kept_answer _ _ h)
    have h3 : Kept s₀ s3 := kept_startFirmware _ _ _ _ (kept_entropy32 h2)
    exact kept_ite _ (fun _ => h2) fun _ => kept_ite _ (fun _ => kept_mk h3) fun _ => h3

theorem kept_execFirmwareCommit (f : Nat) (flashOk : Bool) (hk : Kept s₀ s)
    {t : State} (ht : (execFirmwareCommit f flashOk s) = .next t) : Kept s₀ t := by
  unfold execFirmwareCommit at ht
  simp only [Host.Outcome.next.injEq] at ht
  subst ht
  first
    | refine kept_command _ _ _ hk fun s c h => ?_
    | refine kept_serve_ _ _ _ hk fun s c h => ?_
  repeat' split
  all_goals first | assumption | simp +contextual (maxDischargeDepth := 20) [*]

theorem kept_execFuseBurn (hk : Kept s₀ s)
    {t : State} (ht : (execFuseBurn s) = .next t) : Kept s₀ t := by
  have h : Kept s₀ { s with fuses := { s.fuses with
      svnFloor := max s.fuses.svnFloor s.burnAim.1, revoked := s.fuses.revoked ||| bits s.burnAim.2 0 4 } } :=
    kept_fuses hk ⟨rfl, Nat.le_max_left _ _, by rw [← Nat.or_assoc, Nat.or_self]⟩
  unfold execFuseBurn at ht
  split at ht
  · exact kept_next ht hk
  · exact kept_next ht (kept_mk h)

theorem kept_execAttest (f : Nat) (hk : Kept s₀ s)
    {t : State} (ht : (execAttest f s) = .next t) : Kept s₀ t := by
  unfold execAttest at ht
  simp only [Host.Outcome.next.injEq] at ht
  subst ht
  simp +contextual (maxDischargeDepth := 20) [*]

theorem kept_execIdentityCertRead (f : Nat) (hk : Kept s₀ s)
    {t : State} (ht : (execIdentityCertRead f s) = .next t) : Kept s₀ t := by
  unfold execIdentityCertRead at ht
  simp only [Host.Outcome.next.injEq] at ht
  subst ht
  simp +contextual (maxDischargeDepth := 20) [*]

theorem kept_execDbgChallenge (nonce : List Byte) (hk : Kept s₀ s)
    {t : State} (ht : (execDbgChallenge nonce s) = .next t) : Kept s₀ t := by
  unfold execDbgChallenge at ht
  (try dsimp only at ht)
  repeat' split at ht
  all_goals
    simp only [Host.Outcome.next.injEq] at ht
    subst ht
    first | assumption | simp +contextual (maxDischargeDepth := 20) [*]

theorem kept_execDbgResponse (r : DebugResponse) (hk : Kept s₀ s)
    {t : State} (ht : (execDbgResponse r s) = .next t) : Kept s₀ t := by
  unfold execDbgResponse at ht
  (try dsimp only at ht)
  repeat' split at ht
  all_goals
    simp only [Host.Outcome.next.injEq] at ht
    subst ht
    first | assumption | simp +contextual (maxDischargeDepth := 20) [*]

theorem kept_execDbgChallengeExpiry (hk : Kept s₀ s)
    {t : State} (ht : (execDbgChallengeExpiry s) = .next t) : Kept s₀ t := by
  unfold execDbgChallengeExpiry at ht
  simp only [Host.Outcome.next.injEq] at ht
  subst ht
  simp +contextual (maxDischargeDepth := 20) [*]

end Sys2Proof.Machine
end

