-- ==== Sys2Proof/Laws/KeptBringUp.lean ====
section
/-! SUPPORT. What the operations of Machine/BringUp.lean keep (Laws/Kept.lean). -/

namespace Sys2Proof.Machine

variable {s₀ s : State}

@[simp] theorem kept_setRows (hk : Kept s₀ s) :
    Kept s₀ (State.setRows s) := by
  unfold State.setRows
  simp +contextual (maxDischargeDepth := 20) [*]

@[simp] theorem kept_idleAll (hk : Kept s₀ s) :
    Kept s₀ (State.idleAll s) := by
  unfold State.idleAll
  simp +contextual (maxDischargeDepth := 20) [*]

@[simp] theorem kept_recordLines (t : Training) (hk : Kept s₀ s) :
    Kept s₀ (State.recordLines s t) := by
  unfold State.recordLines
  simp +contextual (maxDischargeDepth := 20) [*]

@[simp] theorem kept_trainChannels (t : Training) (after : Bool) (hk : Kept s₀ s) :
    Kept s₀ (State.trainChannels s t after) := by
  unfold State.trainChannels
  simp +contextual (maxDischargeDepth := 20) [*]

@[simp] theorem kept_storeTraining (t : Training) (hk : Kept s₀ s) :
    Kept s₀ (State.storeTraining s t) := by
  unfold State.storeTraining
  simp +contextual (maxDischargeDepth := 20) [*]

@[simp] theorem kept_bringUpDone (warm : Bool) (elapsed : Nat) (hk : Kept s₀ s) :
    Kept s₀ (State.bringUpDone s warm elapsed) := by
  unfold State.bringUpDone
  simp +contextual (maxDischargeDepth := 20) [*]

@[simp] theorem kept_coldStart (slot : Nat) (hk : Kept s₀ s) :
    Kept s₀ (State.coldStart s slot) := by
  unfold State.coldStart
  simp +contextual (maxDischargeDepth := 20) [*]

@[simp] theorem kept_coldTests (found : List RepairEntry) (hk : Kept s₀ s) :
    Kept s₀ (State.coldTests s found) := by
  unfold State.coldTests
  simp +contextual (maxDischargeDepth := 20) [*]

@[simp] theorem kept_logTrip (hk : Kept s₀ s) :
    Kept s₀ (State.logTrip s) := by
  unfold State.logTrip
  dsimp only
  repeat' split
  all_goals first | assumption | simp +contextual (maxDischargeDepth := 20) [*]

@[simp] theorem kept_coldTrain (t : Training) (hk : Kept s₀ s) :
    Kept s₀ (State.coldTrain s t) := by
  unfold State.coldTrain
  simp +contextual (maxDischargeDepth := 20) [*]

@[simp] theorem kept_coldHold (hk : Kept s₀ s) : Kept s₀ s.coldHold :=
  kept_linksSilent _ (kept_stacksRefresh _ (kept_ucmRefresh _ (kept_offHalfDies _ (kept_mk hk))))

@[simp] theorem kept_coldClear (h : Kept s₀ s) : Kept s₀ s.coldClear :=
  ⟨h.1, h.2.1, rfl, rfl, h.2.2.2.2⟩

@[simp] theorem kept_coldRest (b : BringUp) (hk : Kept s₀ s) :
    Kept s₀ (State.coldRest s b) := by
  unfold State.coldRest
  dsimp only
  (repeat' split) <;> simp_all +contextual (maxDischargeDepth := 20)

@[simp] theorem kept_coldFromRom (b : BringUp) (hk : Kept s₀ s) :
    Kept s₀ (State.coldFromRom s b) := by
  unfold State.coldFromRom
  simp +contextual (maxDischargeDepth := 20) [*]

@[simp] theorem kept_cold (b : BringUp) (hk : Kept s₀ s) :
    Kept s₀ (State.cold s b) := by
  unfold State.cold
  dsimp only
  repeat' split
  all_goals first | assumption | simp +contextual (maxDischargeDepth := 20) [*]

@[simp] theorem kept_retireAll (hk : Kept s₀ s) :
    Kept s₀ (State.retireAll s) := by
  unfold State.retireAll
  simp +contextual (maxDischargeDepth := 20) [*]

@[simp] theorem kept_warmStop (hk : Kept s₀ s) :
    Kept s₀ (State.warmStop s) := by
  unfold State.warmStop
  simp +contextual (maxDischargeDepth := 20) [*]

@[simp] theorem kept_warmClear (hk : Kept s₀ s) :
    Kept s₀ (State.warmClear s) := by
  unfold State.warmClear
  simp +contextual (maxDischargeDepth := 20) [*]

@[simp] theorem kept_warmMaps (t : Training) (hk : Kept s₀ s) :
    Kept s₀ (State.warmMaps s t) := by
  unfold State.warmMaps
  simp +contextual (maxDischargeDepth := 20) [*]

@[simp] theorem kept_warmRest (b : BringUp) (hk : Kept s₀ s) :
    Kept s₀ (State.warmRest s b) := by
  unfold State.warmRest
  simp +contextual (maxDischargeDepth := 20) [*]

@[simp] theorem kept_warm (b : BringUp) (hk : Kept s₀ s) :
    Kept s₀ (State.warm s b) := by
  unfold State.warm
  dsimp only
  (repeat' split) <;> simp_all +contextual (maxDischargeDepth := 20)

theorem kept_execColdBringUp (b : BringUp) (hk : Kept s₀ s)
    {t : State} (ht : (execColdBringUp b s) = .next t) : Kept s₀ t := by
  unfold execColdBringUp at ht
  split at ht
  · cases ht
    exact kept_ite _ (fun _ => kept_warm b hk) fun _ => kept_coldRest b hk
  · split at ht <;> cases ht
    · exact hk
    · exact kept_cold b hk

theorem kept_execWarmBringUp (b : BringUp) (hk : Kept s₀ s)
    {t : State} (ht : (execWarmBringUp b s) = .next t) : Kept s₀ t := by
  unfold execWarmBringUp at ht
  split at ht
  · exact kept_next ht hk
  · exact kept_next ht (kept_warm _ hk)

theorem kept_execP3Exit (b : BringUp) (hk : Kept s₀ s)
    {t : State} (ht : (execP3Exit b s) = .next t) : Kept s₀ t := by
  unfold execP3Exit at ht
  split at ht
  · exact kept_next ht hk
  · exact kept_next ht (kept_warm _ hk)

theorem kept_execSagRecovery (b : BringUp) (hk : Kept s₀ s)
    {t : State} (ht : (execSagRecovery b s) = .next t) : Kept s₀ t := by
  unfold execSagRecovery at ht
  split at ht
  · exact kept_next ht hk
  · exact kept_next ht (kept_warm _ hk)

theorem kept_execCrystalTimeout (hk : Kept s₀ s)
    {t : State} (ht : (execCrystalTimeout s) = .next t) : Kept s₀ t := by
  unfold execCrystalTimeout at ht
  split at ht
  · exact kept_next ht (kept_failBringUp _ _ _ _ (kept_coldStart _ hk))
  · split at ht
    · exact kept_next ht (kept_failBringUp _ _ _ _ (kept_warmClear (kept_warmStop hk)))
    · exact kept_next ht hk

end Sys2Proof.Machine
end

