-- ==== Sys2Proof/Laws/KeptContext.lean ====
section
/-! SUPPORT. What the operations of Machine/Context.lean keep (Laws/Kept.lean). -/

namespace Sys2Proof.Machine

variable {s₀ s : State}

@[simp] theorem kept_restoreArea (p : Nat) (cl : Nat) (a : List Byte) (hk : Kept s₀ s) :
    Kept s₀ (State.restoreArea s p cl a) := by
  unfold State.restoreArea
  simp +contextual (maxDischargeDepth := 20) [*]

theorem kept_execContextSave (f : Nat) (hk : Kept s₀ s)
    {t : State} (ht : (execContextSave f s) = .next t) : Kept s₀ t := by
  unfold execContextSave at ht
  simp only [Host.Outcome.next.injEq] at ht
  subst ht
  first
    | refine kept_command _ _ _ hk fun s c h => ?_
    | refine kept_serve_ _ _ _ hk fun s c h => ?_
  repeat' split
  all_goals first | assumption | simp +contextual (maxDischargeDepth := 20) [*]

@[simp] theorem kept_retireFor (x : Polder) (hk : Kept s₀ s) : Kept s₀ (s.retireFor x) :=
  kept_each _ _ (fun _ _ h => kept_each _ _ (fun _ _ h => kept_mergeRetire _ _ _ h) h) hk

@[simp] theorem kept_sliceOut (core : Nat) (func : Nat) (hk : Kept s₀ s) :
    Kept s₀ (State.sliceOut s core func).1 := by
  unfold State.sliceOut
  refine kept_foldl_fst _ _ (fun a w h => ?_) _ hk
  exact kept_ite_fst _ (fun _ => kept_ucmRead _ _ _ _ _ h) fun _ => kept_ucmRead _ _ _ _ _ h

@[simp] theorem kept_slicesOut (func : Nat) (cls : List Nat) (hk : Kept s₀ s) :
    Kept s₀ (State.slicesOut s func cls).1 := by
  unfold State.slicesOut
  refine kept_foldl_fst _ _ (fun a core h => ?_) _ hk
  exact kept_sliceOut _ _ h

@[simp] theorem kept_dropInProgress (p : Nat) (x : Polder) (hk : Kept s₀ s) : Kept s₀ (s.dropInProgress p x) :=
  kept_each _ _ (fun _ _ h => kept_onScore _ _ h) (kept_each _ _ (fun _ _ h => kept_onVcore _ _ h)
    (kept_each _ _ (fun _ _ h => kept_onTcore _ _ h) (kept_each _ _ (fun _ _ h => kept_onCluster _ _ h) hk)))

@[simp] theorem kept_savedContext (p : Nat) (c : InFlight) (n : Nat) (hk : Kept s₀ s) :
    Kept s₀ (State.savedContext s p c n) := by
  unfold State.savedContext
  simp +contextual (maxDischargeDepth := 20) [*]

@[simp] theorem kept_giveUpSave (p : Nat) (c : InFlight) (st : Status) (hk : Kept s₀ s) :
    Kept s₀ (State.giveUpSave s p c st) := by
  unfold State.giveUpSave
  simp +contextual (maxDischargeDepth := 20) [*]

theorem kept_execContextSaveCopy (p : Nat) (hk : Kept s₀ s)
    {t : State} (ht : (execContextSaveCopy p s) = .next t) : Kept s₀ t := by
  unfold execContextSaveCopy at ht
  dsimp only at ht
  split at ht
  case h_2 => exact kept_next ht hk
  rename_i c j _ _
  have hr : Kept s₀ (if c.ucm then (s.retireFor (s.polder p)).slicesOut c.func (s.polder p).clusters else (s, .ok, [])).1 :=
    kept_ite_fst _ (fun _ => kept_slicesOut _ _ (kept_retireFor _ hk)) fun _ => hk
  split at ht
  · exact kept_next ht hk
  generalize (if c.ucm then (s.retireFor (s.polder p)).slicesOut c.func (s.polder p).clusters else (s, .ok, [])) = r at ht hr
  split at ht
  · exact kept_next ht (kept_giveUpSave _ _ _ hr)
  · refine kept_next ht (kept_ite _ (fun _ => kept_savedContext _ _ _ ?_) fun _ => kept_giveUpSave _ _ _ ?_)
    all_goals exact kept_writeOut _ _ _ hr

theorem kept_execContextRestore (f : Nat) (hk : Kept s₀ s)
    {t : State} (ht : (execContextRestore f s) = .next t) : Kept s₀ t := by
  unfold execContextRestore at ht
  simp only [Host.Outcome.next.injEq] at ht
  subst ht
  first
    | refine kept_command _ _ _ hk fun s c h => ?_
    | refine kept_serve_ _ _ _ hk fun s c h => ?_
  repeat' split
  all_goals first | assumption | simp +contextual (maxDischargeDepth := 20) [*]

@[simp] theorem kept_resumeJob (p : Nat) (j : Job) (hk : Kept s₀ s) :
    Kept s₀ (State.resumeJob s p j) := by
  unfold State.resumeJob
  simp +contextual (maxDischargeDepth := 20) [*]

theorem kept_execJobStart (p : Nat) (hk : Kept s₀ s)
    {t : State} (ht : (execJobStart p s) = .next t) : Kept s₀ t := by
  unfold execJobStart at ht
  dsimp only at ht
  split at ht
  · exact kept_next ht hk
  · split at ht
    · exact kept_next ht hk
    · exact kept_next ht (kept_ite _ (fun _ => kept_startJob _ _ (kept_onPolder _ _ hk))
        fun _ => kept_resumeJob _ _ (kept_onPolder _ _ hk))

end Sys2Proof.Machine
end

