-- ==== Sys2Proof/Laws/KeptHolds.lean ====
section
/-! SUPPORT. What the operations of Machine/Holds.lean keep (Laws/Kept.lean). -/

namespace Sys2Proof.Machine

variable {s₀ s : State}

@[simp] theorem kept_hold (core : Nat) (h : Hold) (hk : Kept s₀ s) :
    Kept s₀ (State.hold s core h) := by
  unfold State.hold
  simp +contextual (maxDischargeDepth := 20) [*]

@[simp] theorem kept_noteLate (core : Nat) (late : Bool) (lo : Nat) (reads : Bool) (left : Bool) (hk : Kept s₀ s) :
    Kept s₀ (State.noteLate s core late lo reads left) := by
  unfold State.noteLate
  simp +contextual (maxDischargeDepth := 20) [*]

end Sys2Proof.Machine
end

