-- ==== Sys2Proof/Laws/KeptSequencer.lean ====
section
/-! SUPPORT. What the operations of Machine/Sequencer.lean keep (Laws/Kept.lean). -/

namespace Sys2Proof.Machine

variable {s₀ s : State}

@[simp] theorem kept_scoreFail (core : Nat) (st : Status) (word : Nat) (hk : Kept s₀ s) :
    Kept s₀ (State.scoreFail s core st word) := by
  unfold State.scoreFail
  simp +contextual (maxDischargeDepth := 20) [*]

theorem kept_execScoreInstruction (core : Nat) (hk : Kept s₀ s)
    {t : State} (ht : (execScoreInstruction core s) = .next t) : Kept s₀ t := by
  unfold execScoreInstruction at ht
  simp only [Host.Outcome.next.injEq] at ht
  subst ht
  repeat' split
  all_goals first | assumption | simp +contextual (maxDischargeDepth := 20) [*]

theorem kept_execEbreak (core : Nat) (hk : Kept s₀ s)
    {t : State} (ht : (execEbreak core s) = .next t) : Kept s₀ t := by
  unfold execEbreak at ht
  simp only [Host.Outcome.next.injEq] at ht
  subst ht
  repeat' split
  all_goals first | assumption | simp +contextual (maxDischargeDepth := 20) [*]

@[simp] theorem kept_slotRow (core : Nat) (mine : Rv → Bool) (run : Rv → Nat → State) (hk : Kept s₀ s) (hg3 : ∀ y0 y1, Kept s₀ (run y0 y1)) :
    Kept s₀ (State.slotRow s core mine run) := by
  unfold State.slotRow
  repeat' split
  all_goals first | assumption | simp +contextual (maxDischargeDepth := 20) [*]

@[simp] theorem kept_anchorBy (core : Nat) (n : Nat) (hk : Kept s₀ s) :
    Kept s₀ (State.anchorBy s core n) := by
  unfold State.anchorBy
  simp +contextual (maxDischargeDepth := 20) [*]

theorem kept_execSat (core : Nat) (hk : Kept s₀ s)
    {t : State} (ht : (execSat core s) = .next t) : Kept s₀ t := by
  unfold execSat at ht
  simp only [Host.Outcome.next.injEq] at ht
  subst ht
  refine kept_slotRow _ _ _ hk fun i w => ?_
  (try dsimp only)
  repeat' split
  all_goals first | assumption | simp +contextual (maxDischargeDepth := 20) [*]

theorem kept_execSati (core : Nat) (hk : Kept s₀ s)
    {t : State} (ht : (execSati core s) = .next t) : Kept s₀ t := by
  unfold execSati at ht
  simp only [Host.Outcome.next.injEq] at ht
  subst ht
  refine kept_slotRow _ _ _ hk fun i w => ?_
  (try dsimp only)
  repeat' split
  all_goals first | assumption | simp +contextual (maxDischargeDepth := 20) [*]

theorem kept_execSdone (core : Nat) (hk : Kept s₀ s)
    {t : State} (ht : (execSdone core s) = .next t) : Kept s₀ t := by
  unfold execSdone at ht
  simp only [Host.Outcome.next.injEq] at ht
  subst ht
  simp +contextual (maxDischargeDepth := 20) [*]

@[simp] theorem kept_issued (core : Nat) (i : Issue) (hk : Kept s₀ s) :
    Kept s₀ (State.issued s core i) := by
  unfold State.issued
  simp +contextual (maxDischargeDepth := 20) [*]

@[simp] theorem kept_issueFail (core : Nat) (targets : List Nat) (w : Nat) (st : Status) (hk : Kept s₀ s) :
    Kept s₀ (State.issueFail s core targets w st) := by
  unfold State.issueFail
  simp +contextual (maxDischargeDepth := 20) [*]

theorem kept_execTiss (core : Nat) (hk : Kept s₀ s)
    {t : State} (ht : (execTiss core s) = .next t) : Kept s₀ t := by
  unfold execTiss at ht
  simp only [Host.Outcome.next.injEq] at ht
  subst ht
  refine kept_slotRow _ _ _ hk fun i w => ?_
  (try dsimp only)
  repeat' split
  all_goals first | assumption | simp +contextual (maxDischargeDepth := 20) [*]

theorem kept_execViss (core : Nat) (hk : Kept s₀ s)
    {t : State} (ht : (execViss core s) = .next t) : Kept s₀ t := by
  unfold execViss at ht
  simp only [Host.Outcome.next.injEq] at ht
  subst ht
  refine kept_slotRow _ _ _ hk fun i w => ?_
  (try dsimp only)
  repeat' split
  all_goals first | assumption | simp +contextual (maxDischargeDepth := 20) [*]

theorem kept_execSin (core : Nat) (hk : Kept s₀ s)
    {t : State} (ht : (execSin core s) = .next t) : Kept s₀ t := by
  unfold execSin at ht
  simp only [Host.Outcome.next.injEq] at ht
  subst ht
  refine kept_slotRow _ _ _ hk fun i w => ?_
  (try dsimp only)
  repeat' split
  all_goals first | assumption | simp +contextual (maxDischargeDepth := 20) [*]

theorem kept_execSout (core : Nat) (hk : Kept s₀ s)
    {t : State} (ht : (execSout core s) = .next t) : Kept s₀ t := by
  unfold execSout at ht
  simp only [Host.Outcome.next.injEq] at ht
  subst ht
  refine kept_slotRow _ _ _ hk fun i w => ?_
  (try dsimp only)
  repeat' split
  all_goals first | assumption | simp +contextual (maxDischargeDepth := 20) [*]

theorem kept_execSack (core : Nat) (hk : Kept s₀ s)
    {t : State} (ht : (execSack core s) = .next t) : Kept s₀ t := by
  unfold execSack at ht
  simp only [Host.Outcome.next.injEq] at ht
  subst ht
  refine kept_slotRow _ _ _ hk fun i w => ?_
  (try dsimp only)
  repeat' split
  all_goals first | assumption | simp +contextual (maxDischargeDepth := 20) [*]

theorem kept_execSpost (core : Nat) (hk : Kept s₀ s)
    {t : State} (ht : (execSpost core s) = .next t) : Kept s₀ t := by
  unfold execSpost at ht
  simp only [Host.Outcome.next.injEq] at ht
  subst ht
  refine kept_slotRow _ _ _ hk fun i w => ?_
  (try dsimp only)
  repeat' split
  all_goals first | assumption | simp +contextual (maxDischargeDepth := 20) [*]

theorem kept_execRpage (core : Nat) (hk : Kept s₀ s)
    {t : State} (ht : (execRpage core s) = .next t) : Kept s₀ t := by
  unfold execRpage at ht
  simp only [Host.Outcome.next.injEq] at ht
  subst ht
  refine kept_slotRow _ _ _ hk fun i w => ?_
  (try dsimp only)
  repeat' split
  all_goals first | assumption | simp +contextual (maxDischargeDepth := 20) [*]

theorem kept_execRwr (core : Nat) (hk : Kept s₀ s)
    {t : State} (ht : (execRwr core s) = .next t) : Kept s₀ t := by
  unfold execRwr at ht
  simp only [Host.Outcome.next.injEq] at ht
  subst ht
  refine kept_slotRow _ _ _ hk fun i w => ?_
  (try dsimp only)
  repeat' split
  all_goals first | assumption | simp +contextual (maxDischargeDepth := 20) [*]

theorem kept_statusRead (cl : Nat) (c : Nat) (reg : Nat) (k : Nat) (hk : Kept s₀ s)
    {t} (ht : (State.statusRead s cl c reg k) = some t) : Kept s₀ t.2 := by
  unfold State.statusRead at ht
  dsimp only at ht
  repeat' split at ht
  all_goals first
    | (rw [Option.some.injEq] at ht; subst ht; first | exact hk | exact kept_onTcore _ _ hk | exact kept_onVcore _ _ hk)
    | exact absurd ht (by simp)

theorem kept_execSrdc (core : Nat) (hk : Kept s₀ s)
    {t : State} (ht : (execSrdc core s) = .next t) : Kept s₀ t := by
  unfold execSrdc at ht
  rw [Host.Outcome.next.injEq] at ht
  subst ht
  refine kept_slotRow _ _ _ hk fun i w => ?_
  split
  · dsimp only
    split
    · exact kept_scoreFail _ _ _ hk
    · exact kept_onScore _ _ (kept_statusRead _ _ _ _ hk ‹_›)
  · exact hk

@[simp] theorem kept_countPort (core : Nat) (hk : Kept s₀ s) :
    Kept s₀ (State.countPort s core) := by
  unfold State.countPort
  simp +contextual (maxDischargeDepth := 20) [*]

@[simp] theorem kept_portRead (core : Nat) (w : Nat) (flips : List SymErr) (hk : Kept s₀ s) :
    Kept s₀ (State.portRead s core w flips).1 := by
  unfold State.portRead
  simp +contextual (maxDischargeDepth := 20) [*]

@[simp] theorem kept_portWrite (core : Nat) (w : Nat) (l : List Byte) (hk : Kept s₀ s) :
    Kept s₀ (State.portWrite s core w l) := by
  unfold State.portWrite
  simp +contextual (maxDischargeDepth := 20) [*]

@[simp] theorem kept_moveFail (core : Nat) (hk : Kept s₀ s) :
    Kept s₀ (State.moveFail s core) := by
  unfold State.moveFail
  simp +contextual (maxDischargeDepth := 20) [*]

@[simp] theorem kept_scoreWord (core : Nat) (alone : Bool) (flips : List SymErr) (hk : Kept s₀ s) :
    Kept s₀ (State.scoreWord s core alone flips) := by
  unfold State.scoreWord
  dsimp only
  repeat' split
  all_goals first | assumption | simp +contextual (maxDischargeDepth := 20) [*]

@[simp] theorem kept_scoreWords (core n : Nat) (s : State) (hk : Kept s₀ s) :
    Kept s₀ (State.scoreWords core n s) := by
  induction n generalizing s with
  | zero => exact hk
  | succ n ih =>
    unfold State.scoreWords
    dsimp only
    split
    · exact kept_scoreWord _ _ _ hk
    · exact ih _ (kept_scoreWord _ _ _ hk)

@[simp] theorem kept_smove (core : Nat) (hk : Kept s₀ s) :
    Kept s₀ (State.smove s core) := by
  unfold State.smove
  dsimp only
  repeat' split
  all_goals first | assumption | simp +contextual (maxDischargeDepth := 20) [*]

@[simp] theorem kept_moveRow (core : Nat) (k : Nat) (hk : Kept s₀ s) :
    Kept s₀ (State.moveRow s core k) := by
  unfold State.moveRow
  simp +contextual (maxDischargeDepth := 20) [*]

theorem kept_execSfill (core : Nat) (hk : Kept s₀ s)
    {t : State} (ht : (execSfill core s) = .next t) : Kept s₀ t := by
  unfold execSfill at ht
  simp only [Host.Outcome.next.injEq] at ht
  subst ht
  simp +contextual (maxDischargeDepth := 20) [*]

theorem kept_execSwrite (core : Nat) (hk : Kept s₀ s)
    {t : State} (ht : (execSwrite core s) = .next t) : Kept s₀ t := by
  unfold execSwrite at ht
  simp only [Host.Outcome.next.injEq] at ht
  subst ht
  simp +contextual (maxDischargeDepth := 20) [*]

theorem kept_execSfwd (core : Nat) (hk : Kept s₀ s)
    {t : State} (ht : (execSfwd core s) = .next t) : Kept s₀ t := by
  unfold execSfwd at ht
  simp only [Host.Outcome.next.injEq] at ht
  subst ht
  simp +contextual (maxDischargeDepth := 20) [*]

theorem kept_execSfilli (core : Nat) (hk : Kept s₀ s)
    {t : State} (ht : (execSfilli core s) = .next t) : Kept s₀ t := by
  unfold execSfilli at ht
  simp only [Host.Outcome.next.injEq] at ht
  subst ht
  simp +contextual (maxDischargeDepth := 20) [*]

theorem kept_execSnote (core : Nat) (hk : Kept s₀ s)
    {t : State} (ht : (execSnote core s) = .next t) : Kept s₀ t := by
  unfold execSnote at ht
  simp only [Host.Outcome.next.injEq] at ht
  subst ht
  refine kept_slotRow _ _ _ hk fun i w => ?_
  (try dsimp only)
  repeat' split
  all_goals first | assumption | simp +contextual (maxDischargeDepth := 20) [*]

theorem kept_execSnoteForward (cl : Nat) (hk : Kept s₀ s)
    {t : State} (ht : (execSnoteForward cl s) = .next t) : Kept s₀ t := by
  unfold execSnoteForward at ht
  simp only [Host.Outcome.next.injEq] at ht
  subst ht
  repeat' split
  all_goals first | assumption | simp +contextual (maxDischargeDepth := 20) [*]

end Sys2Proof.Machine
end

