-- ==== Sys2Proof/Laws/KeptCores.lean ====
section
/-! SUPPORT. What the operations of Machine/Cores.lean keep (Laws/Kept.lean). -/

namespace Sys2Proof.Machine

variable {s₀ s : State}

@[simp] theorem kept_unlessHeld (core : Nat) {t : State} (hk : Kept s₀ s) (ht : Kept s₀ t) :
    Kept s₀ (State.unlessHeld s core t) := kept_ite _ (fun _ => hk) fun _ => ht

@[simp] theorem kept_lostCycles (may : Bool) (hk : Kept s₀ s) :
    Kept s₀ (State.lostCycles s may).2 := by
  unfold State.lostCycles
  repeat' split
  all_goals first | assumption | simp +contextual (maxDischargeDepth := 20) [*]

@[simp] theorem kept_tWord (core : Nat) (opc : Nat) (flips : List SymErr) (hk : Kept s₀ s) :
    Kept s₀ (State.tWord s core opc flips) := by
  unfold State.tWord
  dsimp only
  repeat' split
  all_goals first | assumption | simp +contextual (maxDischargeDepth := 20) [*]

@[simp] theorem kept_tWords (core opc n : Nat) (s : State) (hk : Kept s₀ s) :
    Kept s₀ (State.tWords core opc n s) := by
  induction n generalizing s with
  | zero => exact hk
  | succ n ih =>
    unfold State.tWords
    dsimp only
    split
    · exact kept_tWord _ _ _ hk
    · exact ih _ (kept_tWord _ _ _ hk)

theorem kept_execTfill (core : Nat) (hk : Kept s₀ s)
    {t : State} (ht : (execTfill core s) = .next t) : Kept s₀ t := by
  unfold execTfill at ht
  simp only [Host.Outcome.next.injEq] at ht
  subst ht
  simp +contextual (maxDischargeDepth := 20) [*]

theorem kept_execTwrite (core : Nat) (hk : Kept s₀ s)
    {t : State} (ht : (execTwrite core s) = .next t) : Kept s₀ t := by
  unfold execTwrite at ht
  simp only [Host.Outcome.next.injEq] at ht
  subst ht
  simp +contextual (maxDischargeDepth := 20) [*]

theorem kept_execTmma (core : Nat) (hk : Kept s₀ s)
    {t : State} (ht : (execTmma core s) = .next t) : Kept s₀ t := by
  unfold execTmma at ht
  simp only [Host.Outcome.next.injEq] at ht
  subst ht
  repeat' split
  all_goals first | assumption | simp +contextual (maxDischargeDepth := 20) [*]

theorem kept_execTdrain (core : Nat) (hk : Kept s₀ s)
    {t : State} (ht : (execTdrain core s) = .next t) : Kept s₀ t := by
  unfold execTdrain at ht
  simp only [Host.Outcome.next.injEq] at ht
  subst ht
  simp +contextual (maxDischargeDepth := 20) [*]

@[simp] theorem kept_ringBlur (core : Nat) (reads : List Rng) (hk : Kept s₀ s) :
    Kept s₀ (State.ringBlur s core reads) := by
  unfold State.ringBlur
  simp +contextual (maxDischargeDepth := 20) [*]

@[simp] theorem kept_spoil (core : Nat) (writes : List Rng) (hk : Kept s₀ s) :
    Kept s₀ (State.spoil s core writes) := by
  unfold State.spoil
  simp +contextual (maxDischargeDepth := 20) [*]

@[simp] theorem kept_runFail (core : Nat) (w : Nat) (st : Status) (k : Nat) (hk : Kept s₀ s) :
    Kept s₀ (State.runFail s core w st k) := by
  unfold State.runFail
  simp +contextual (maxDischargeDepth := 20) [*]

@[simp] theorem kept_vRun (core : Nat) (opc : Nat) (f : VCore → VEnv → Nat → VCore × Option (Status × Nat)) (extra : VCore → Nat → Nat) (hk : Kept s₀ s) :
    Kept s₀ (State.vRun s core opc f extra) := by
  unfold State.vRun
  dsimp only
  repeat' split
  all_goals first | assumption | simp +contextual (maxDischargeDepth := 20) [*]

@[simp] theorem kept_vOp (core : Nat) (opc : Nat) (f : VCore → VEnv → Nat → VCore) (hk : Kept s₀ s) :
    Kept s₀ (State.vOp s core opc f) := by
  unfold State.vOp
  simp +contextual (maxDischargeDepth := 20) [*]

theorem kept_execVadd (core : Nat) (hk : Kept s₀ s)
    {t : State} (ht : (execVadd core s) = .next t) : Kept s₀ t := by
  unfold execVadd at ht
  simp only [Host.Outcome.next.injEq] at ht
  subst ht
  simp +contextual (maxDischargeDepth := 20) [*]

theorem kept_execVsub (core : Nat) (hk : Kept s₀ s)
    {t : State} (ht : (execVsub core s) = .next t) : Kept s₀ t := by
  unfold execVsub at ht
  simp only [Host.Outcome.next.injEq] at ht
  subst ht
  simp +contextual (maxDischargeDepth := 20) [*]

theorem kept_execVmul (core : Nat) (hk : Kept s₀ s)
    {t : State} (ht : (execVmul core s) = .next t) : Kept s₀ t := by
  unfold execVmul at ht
  simp only [Host.Outcome.next.injEq] at ht
  subst ht
  simp +contextual (maxDischargeDepth := 20) [*]

theorem kept_execVfma (core : Nat) (hk : Kept s₀ s)
    {t : State} (ht : (execVfma core s) = .next t) : Kept s₀ t := by
  unfold execVfma at ht
  simp only [Host.Outcome.next.injEq] at ht
  subst ht
  simp +contextual (maxDischargeDepth := 20) [*]

theorem kept_execVmin (core : Nat) (hk : Kept s₀ s)
    {t : State} (ht : (execVmin core s) = .next t) : Kept s₀ t := by
  unfold execVmin at ht
  simp only [Host.Outcome.next.injEq] at ht
  subst ht
  simp +contextual (maxDischargeDepth := 20) [*]

theorem kept_execVmax (core : Nat) (hk : Kept s₀ s)
    {t : State} (ht : (execVmax core s) = .next t) : Kept s₀ t := by
  unfold execVmax at ht
  simp only [Host.Outcome.next.injEq] at ht
  subst ht
  simp +contextual (maxDischargeDepth := 20) [*]

theorem kept_execVcmp (core : Nat) (hk : Kept s₀ s)
    {t : State} (ht : (execVcmp core s) = .next t) : Kept s₀ t := by
  unfold execVcmp at ht
  simp only [Host.Outcome.next.injEq] at ht
  subst ht
  simp +contextual (maxDischargeDepth := 20) [*]

theorem kept_execVsel (core : Nat) (hk : Kept s₀ s)
    {t : State} (ht : (execVsel core s) = .next t) : Kept s₀ t := by
  unfold execVsel at ht
  simp only [Host.Outcome.next.injEq] at ht
  subst ht
  simp +contextual (maxDischargeDepth := 20) [*]

theorem kept_execVabs (core : Nat) (hk : Kept s₀ s)
    {t : State} (ht : (execVabs core s) = .next t) : Kept s₀ t := by
  unfold execVabs at ht
  simp only [Host.Outcome.next.injEq] at ht
  subst ht
  simp +contextual (maxDischargeDepth := 20) [*]

theorem kept_execVexp2 (core : Nat) (hk : Kept s₀ s)
    {t : State} (ht : (execVexp2 core s) = .next t) : Kept s₀ t := by
  unfold execVexp2 at ht
  simp only [Host.Outcome.next.injEq] at ht
  subst ht
  simp +contextual (maxDischargeDepth := 20) [*]

theorem kept_execVlog2 (core : Nat) (hk : Kept s₀ s)
    {t : State} (ht : (execVlog2 core s) = .next t) : Kept s₀ t := by
  unfold execVlog2 at ht
  simp only [Host.Outcome.next.injEq] at ht
  subst ht
  simp +contextual (maxDischargeDepth := 20) [*]

theorem kept_execVrcp (core : Nat) (hk : Kept s₀ s)
    {t : State} (ht : (execVrcp core s) = .next t) : Kept s₀ t := by
  unfold execVrcp at ht
  simp only [Host.Outcome.next.injEq] at ht
  subst ht
  simp +contextual (maxDischargeDepth := 20) [*]

theorem kept_execVrsqrt (core : Nat) (hk : Kept s₀ s)
    {t : State} (ht : (execVrsqrt core s) = .next t) : Kept s₀ t := by
  unfold execVrsqrt at ht
  simp only [Host.Outcome.next.injEq] at ht
  subst ht
  simp +contextual (maxDischargeDepth := 20) [*]

theorem kept_execVtanh (core : Nat) (hk : Kept s₀ s)
    {t : State} (ht : (execVtanh core s) = .next t) : Kept s₀ t := by
  unfold execVtanh at ht
  simp only [Host.Outcome.next.injEq] at ht
  subst ht
  simp +contextual (maxDischargeDepth := 20) [*]

theorem kept_execVdiv (core : Nat) (hk : Kept s₀ s)
    {t : State} (ht : (execVdiv core s) = .next t) : Kept s₀ t := by
  unfold execVdiv at ht
  simp only [Host.Outcome.next.injEq] at ht
  subst ht
  simp +contextual (maxDischargeDepth := 20) [*]

theorem kept_execVcvt (core : Nat) (hk : Kept s₀ s)
    {t : State} (ht : (execVcvt core s) = .next t) : Kept s₀ t := by
  unfold execVcvt at ht
  simp only [Host.Outcome.next.injEq] at ht
  subst ht
  simp +contextual (maxDischargeDepth := 20) [*]

theorem kept_execVqmx (core : Nat) (hk : Kept s₀ s)
    {t : State} (ht : (execVqmx core s) = .next t) : Kept s₀ t := by
  unfold execVqmx at ht
  simp only [Host.Outcome.next.injEq] at ht
  subst ht
  simp +contextual (maxDischargeDepth := 20) [*]

theorem kept_execVqt2 (core : Nat) (hk : Kept s₀ s)
    {t : State} (ht : (execVqt2 core s) = .next t) : Kept s₀ t := by
  unfold execVqt2 at ht
  simp only [Host.Outcome.next.injEq] at ht
  subst ht
  simp +contextual (maxDischargeDepth := 20) [*]

theorem kept_execVdq (core : Nat) (hk : Kept s₀ s)
    {t : State} (ht : (execVdq core s) = .next t) : Kept s₀ t := by
  unfold execVdq at ht
  simp only [Host.Outcome.next.injEq] at ht
  subst ht
  simp +contextual (maxDischargeDepth := 20) [*]

theorem kept_execVrsum (core : Nat) (hk : Kept s₀ s)
    {t : State} (ht : (execVrsum core s) = .next t) : Kept s₀ t := by
  unfold execVrsum at ht
  simp only [Host.Outcome.next.injEq] at ht
  subst ht
  simp +contextual (maxDischargeDepth := 20) [*]

theorem kept_execVrmax (core : Nat) (hk : Kept s₀ s)
    {t : State} (ht : (execVrmax core s) = .next t) : Kept s₀ t := by
  unfold execVrmax at ht
  simp only [Host.Outcome.next.injEq] at ht
  subst ht
  simp +contextual (maxDischargeDepth := 20) [*]

theorem kept_execVrmin (core : Nat) (hk : Kept s₀ s)
    {t : State} (ht : (execVrmin core s) = .next t) : Kept s₀ t := by
  unfold execVrmin at ht
  simp only [Host.Outcome.next.injEq] at ht
  subst ht
  simp +contextual (maxDischargeDepth := 20) [*]

theorem kept_execVshuf (core : Nat) (hk : Kept s₀ s)
    {t : State} (ht : (execVshuf core s) = .next t) : Kept s₀ t := by
  unfold execVshuf at ht
  simp only [Host.Outcome.next.injEq] at ht
  subst ht
  simp +contextual (maxDischargeDepth := 20) [*]

theorem kept_execVrand (core : Nat) (hk : Kept s₀ s)
    {t : State} (ht : (execVrand core s) = .next t) : Kept s₀ t := by
  unfold execVrand at ht
  simp only [Host.Outcome.next.injEq] at ht
  subst ht
  simp +contextual (maxDischargeDepth := 20) [*]

theorem kept_execVunif (core : Nat) (hk : Kept s₀ s)
    {t : State} (ht : (execVunif core s) = .next t) : Kept s₀ t := by
  unfold execVunif at ht
  simp only [Host.Outcome.next.injEq] at ht
  subst ht
  simp +contextual (maxDischargeDepth := 20) [*]

theorem kept_execVtopkm (core : Nat) (hk : Kept s₀ s)
    {t : State} (ht : (execVtopkm core s) = .next t) : Kept s₀ t := by
  unfold execVtopkm at ht
  simp only [Host.Outcome.next.injEq] at ht
  subst ht
  simp +contextual (maxDischargeDepth := 20) [*]

theorem kept_execVcopy (core : Nat) (hk : Kept s₀ s)
    {t : State} (ht : (execVcopy core s) = .next t) : Kept s₀ t := by
  unfold execVcopy at ht
  simp only [Host.Outcome.next.injEq] at ht
  subst ht
  simp +contextual (maxDischargeDepth := 20) [*]

theorem kept_execVgather (core : Nat) (hk : Kept s₀ s)
    {t : State} (ht : (execVgather core s) = .next t) : Kept s₀ t := by
  unfold execVgather at ht
  simp only [Host.Outcome.next.injEq] at ht
  subst ht
  simp +contextual (maxDischargeDepth := 20) [*]

theorem kept_execVtopk (core : Nat) (hk : Kept s₀ s)
    {t : State} (ht : (execVtopk core s) = .next t) : Kept s₀ t := by
  unfold execVtopk at ht
  simp only [Host.Outcome.next.injEq] at ht
  subst ht
  simp +contextual (maxDischargeDepth := 20) [*]

theorem kept_execVsamp (core : Nat) (hk : Kept s₀ s)
    {t : State} (ht : (execVsamp core s) = .next t) : Kept s₀ t := by
  unfold execVsamp at ht
  simp only [Host.Outcome.next.injEq] at ht
  subst ht
  simp +contextual (maxDischargeDepth := 20) [*]

@[simp] theorem kept_vWord (core : Nat) (opc : Nat) (flips : List SymErr) (hk : Kept s₀ s) :
    Kept s₀ (State.vWord s core opc flips) := by
  unfold State.vWord
  dsimp only
  repeat' split
  all_goals first | assumption | simp +contextual (maxDischargeDepth := 20) [*]

@[simp] theorem kept_vWords (core opc n : Nat) (s : State) (hk : Kept s₀ s) :
    Kept s₀ (State.vWords core opc n s) := by
  induction n generalizing s with
  | zero => exact hk
  | succ n ih =>
    unfold State.vWords
    dsimp only
    split
    · exact kept_vWord _ _ _ hk
    · exact ih _ (kept_vWord _ _ _ hk)

theorem kept_execVfill (core : Nat) (hk : Kept s₀ s)
    {t : State} (ht : (execVfill core s) = .next t) : Kept s₀ t := by
  unfold execVfill at ht
  simp only [Host.Outcome.next.injEq] at ht
  subst ht
  simp +contextual (maxDischargeDepth := 20) [*]

theorem kept_execVwrite (core : Nat) (hk : Kept s₀ s)
    {t : State} (ht : (execVwrite core s) = .next t) : Kept s₀ t := by
  unfold execVwrite at ht
  simp only [Host.Outcome.next.injEq] at ht
  subst ht
  simp +contextual (maxDischargeDepth := 20) [*]

theorem kept_execVfwd (core : Nat) (hk : Kept s₀ s)
    {t : State} (ht : (execVfwd core s) = .next t) : Kept s₀ t := by
  unfold execVfwd at ht
  simp only [Host.Outcome.next.injEq] at ht
  subst ht
  simp +contextual (maxDischargeDepth := 20) [*]

theorem kept_execVsend (core : Nat) (hk : Kept s₀ s)
    {t : State} (ht : (execVsend core s) = .next t) : Kept s₀ t := by
  unfold execVsend at ht
  simp only [Host.Outcome.next.injEq] at ht
  subst ht
  repeat' split
  all_goals first | assumption | simp +contextual (maxDischargeDepth := 20) [*]

theorem kept_execUcmWordArrival (core : Nat) (flips : List SymErr) (hk : Kept s₀ s)
    {t : State} (ht : (execUcmWordArrival core flips s) = .next t) : Kept s₀ t := by
  unfold execUcmWordArrival at ht
  simp only [Host.Outcome.next.injEq] at ht
  subst ht
  repeat' split
  all_goals first | assumption | simp +contextual (maxDischargeDepth := 20) [*]

end Sys2Proof.Machine
end

