-- ==== Sys2Proof/Laws/KeptDma.lean ====
section
/-! SUPPORT. What the operations of Machine/Dma.lean keep (Laws/Kept.lean). -/

namespace Sys2Proof.Machine

variable {s₀ s : State}

@[simp] theorem kept_readAhead (ch : Nat) (mine : Desc → Bool) (hk : Kept s₀ s) :
    Kept s₀ (State.readAhead s ch mine) := by
  unfold State.readAhead
  dsimp only
  repeat' split
  all_goals first | assumption | simp +contextual (maxDischargeDepth := 20) [*]

@[simp] theorem kept_runDesc (ch : Nat) (mine : Desc → Bool) (run : State → Desc → State) (hk : Kept s₀ s) (hg3 : ∀ y0 y1, Kept s₀ y0 → Kept s₀ (run y0 y1)) :
    Kept s₀ (State.runDesc s ch mine run) := by
  unfold State.runDesc
  dsimp only
  repeat' split
  all_goals first | assumption | simp +contextual (maxDischargeDepth := 20) [*]

@[simp] theorem kept_finishDesc (ch : Nat) (st : Status) (done : Nat) (hk : Kept s₀ s) :
    Kept s₀ (State.finishDesc s ch st done) := by
  unfold State.finishDesc
  simp +contextual (maxDischargeDepth := 20) [*]

@[simp] theorem kept_pull (ch : Nat) (d : Desc) (dev : Bool) (a : Nat) (n : Nat) (hk : Kept s₀ s) :
    Kept s₀ (State.pull s ch d dev a n) := by
  unfold State.pull
  dsimp only
  repeat' split
  all_goals first | assumption | simp +contextual (maxDischargeDepth := 20) [*]

@[simp] theorem kept_issue (ch : Nat) (n : Nat) (hk : Kept s₀ s) :
    Kept s₀ (State.issue s ch n) := by
  unfold State.issue
  simp +contextual (maxDischargeDepth := 20) [*]

@[simp] theorem kept_put (ch : Nat) (dev : Bool) (a : Nat) (l : List Byte) (hk : Kept s₀ s) :
    Kept s₀ (State.put s ch dev a l).1 := by
  unfold State.put
  have hi : Kept s₀ (s.issue ch l.length) := kept_issue _ _ hk
  have hp : Kept s₀ (s.askPeer ch a (.write l)).1 := kept_askPeer _ _ _ hk
  refine kept_ite_fst _ (fun _ => kept_ite _ (fun _ => kept_issue _ _ hp) fun _ => hp) fun _ => ?_
  refine kept_ite_fst _ (fun _ => ?_) fun _ => kept_ite_fst _ (fun _ => hk) fun _ => ?_
  · have ha := kept_chanAccess ch { who := .dma ch } a (.write l) hi
    exact kept_ite _ (fun _ => ha) fun _ => kept_delivered _ _ _ _ _ ha
  · split
    · exact kept_delivered _ _ _ _ _ (kept_hostWrite _ _ _ hi ‹_›)
    · exact kept_busFail _ _ _ _ _ hk

@[simp] theorem kept_copyStep (ch : Nat) (d : Desc) (hk : Kept s₀ s) :
    Kept s₀ (State.copyStep s ch d) := by
  unfold State.copyStep
  simp +contextual (maxDischargeDepth := 20) [*]

@[simp] theorem kept_copyLoop (ch : Nat) (d : Desc) (n : Nat) (s : State) (hk : Kept s₀ s) :
    Kept s₀ (State.copyLoop ch d n s) := by
  induction n generalizing s with
  | zero => exact hk
  | succ n ih =>
    unfold State.copyLoop
    dsimp only
    repeat' split
    · exact kept_finishDesc _ _ _ hk
    · exact kept_copyStep _ _ hk
    · exact ih _ (kept_copyStep _ _ hk)

@[simp] theorem kept_copyRun (ch : Nat) (d : Desc) (hk : Kept s₀ s) :
    Kept s₀ (State.copyRun s ch d) := by
  unfold State.copyRun
  simp +contextual (maxDischargeDepth := 20) [*]

theorem kept_execCopy (ch : Nat) (hk : Kept s₀ s)
    {t : State} (ht : (execCopy ch s) = .next t) : Kept s₀ t := by
  unfold execCopy at ht
  simp only [Host.Outcome.next.injEq] at ht
  subst ht
  simp +contextual (maxDischargeDepth := 20) [*]

theorem kept_execPsplit (ch : Nat) (hk : Kept s₀ s)
    {t : State} (ht : (execPsplit ch s) = .next t) : Kept s₀ t := by
  unfold execPsplit at ht
  simp only [Host.Outcome.next.injEq] at ht
  subst ht
  simp +contextual (maxDischargeDepth := 20) [*]

theorem kept_execPjoin (ch : Nat) (hk : Kept s₀ s)
    {t : State} (ht : (execPjoin ch s) = .next t) : Kept s₀ t := by
  unfold execPjoin at ht
  simp only [Host.Outcome.next.injEq] at ht
  subst ht
  simp +contextual (maxDischargeDepth := 20) [*]

theorem kept_execIntlv (ch : Nat) (hk : Kept s₀ s)
    {t : State} (ht : (execIntlv ch s) = .next t) : Kept s₀ t := by
  unfold execIntlv at ht
  simp only [Host.Outcome.next.injEq] at ht
  subst ht
  simp +contextual (maxDischargeDepth := 20) [*]

theorem kept_execDeintlv (ch : Nat) (hk : Kept s₀ s)
    {t : State} (ht : (execDeintlv ch s) = .next t) : Kept s₀ t := by
  unfold execDeintlv at ht
  simp only [Host.Outcome.next.injEq] at ht
  subst ht
  simp +contextual (maxDischargeDepth := 20) [*]

theorem kept_execNop (ch : Nat) (hk : Kept s₀ s)
    {t : State} (ht : (execNop ch s) = .next t) : Kept s₀ t := by
  unfold execNop at ht
  simp only [Host.Outcome.next.injEq] at ht
  subst ht
  simp +contextual (maxDischargeDepth := 20) [*]

@[simp] theorem kept_bindIn (ch : Nat) (cl : Nat) (hk : Kept s₀ s) :
    Kept s₀ (State.bindIn s ch cl) := by
  unfold State.bindIn
  simp +contextual (maxDischargeDepth := 20) [*]

@[simp] theorem kept_bindOut (ch : Nat) (cl : Nat) (hk : Kept s₀ s) :
    Kept s₀ (State.bindOut s ch cl) := by
  unfold State.bindOut
  simp +contextual (maxDischargeDepth := 20) [*]

@[simp] theorem kept_sendEntry (ch : Nat) (cl : Nat) (l : List Byte) (hk : Kept s₀ s) :
    Kept s₀ (State.sendEntry s ch cl l) := by
  unfold State.sendEntry
  simp +contextual (maxDischargeDepth := 20) [*]

@[simp] theorem kept_feedSluice (ch cl : Nat) (d : Desc) (n : Nat) (s : State) (hk : Kept s₀ s) :
    Kept s₀ (State.feedSluice ch cl d n s) := by
  induction n generalizing s with
  | zero => exact hk
  | succ n ih =>
    unfold State.feedSluice
    dsimp only
    repeat' split
    · exact hk
    · exact ih _ (by simp [hk])
    · simp [hk]
    · exact ih _ (by simp [hk])

theorem kept_execToSluice (ch : Nat) (hk : Kept s₀ s)
    {t : State} (ht : (execToSluice ch s) = .next t) : Kept s₀ t := by
  unfold execToSluice at ht
  simp only [Host.Outcome.next.injEq] at ht
  subst ht
  simp +contextual (maxDischargeDepth := 20) [*]

theorem kept_execFromSluice (ch : Nat) (hk : Kept s₀ s)
    {t : State} (ht : (execFromSluice ch s) = .next t) : Kept s₀ t := by
  unfold execFromSluice at ht
  simp only [Host.Outcome.next.injEq] at ht
  subst ht
  simp +contextual (maxDischargeDepth := 20) [*]

@[simp] theorem kept_sendNb (ch : Nat) (k : Nat) (cmd : NbCmd) (hk : Kept s₀ s) :
    Kept s₀ (State.sendNb s ch k cmd) := by
  unfold State.sendNb
  simp +contextual (maxDischargeDepth := 20) [*]

@[simp] theorem kept_nbcmdLoop (ch : Nat) (d : Desc) (n : Nat) (s : State) (hk : Kept s₀ s) :
    Kept s₀ (State.nbcmdLoop ch d n s) := by
  induction n generalizing s with
  | zero => exact hk
  | succ n ih =>
    unfold State.nbcmdLoop
    dsimp only
    repeat' split
    · exact hk
    · simp [hk]
    · exact ih _ (by simp [hk])
    all_goals simp [hk]

theorem kept_execNbcmd (ch : Nat) (hk : Kept s₀ s)
    {t : State} (ht : (execNbcmd ch s) = .next t) : Kept s₀ t := by
  unfold execNbcmd at ht
  simp only [Host.Outcome.next.injEq] at ht
  subst ht
  simp +contextual (maxDischargeDepth := 20) [*]

@[simp] theorem kept_putAll (ch : Nat) (dev : Bool) (n : Nat) (s : State) (a : Nat) (l : List Byte) (hk : Kept s₀ s) :
    Kept s₀ (State.putAll ch dev n s a l) := by
  induction n generalizing s a l with
  | zero => exact hk
  | succ n ih =>
    unfold State.putAll
    dsimp only
    repeat' split
    · exact hk
    · exact kept_put _ _ _ _ hk
    · exact ih _ _ _ (kept_put _ _ _ _ hk)

@[simp] theorem kept_nbcmdDone (d : Desc) (x : NbDone) (hk : Kept s₀ s) :
    Kept s₀ (State.nbcmdDone s d x) := by
  unfold State.nbcmdDone
  dsimp only
  refine kept_ite _ (fun _ => kept_finishDesc _ _ _ hk) fun _ => kept_ite _ (fun _ => ?_) fun _ => kept_ite _ (fun _ => ?_) fun _ => ?_
  on_goal 2 => apply kept_finishDesc
  on_goal 2 => apply kept_onChan
  on_goal 3 => apply kept_onChan
  all_goals
    exact kept_ite _ (fun _ => kept_ite _ (fun _ => kept_putAll _ _ _ _ _ _ hk)
      fun _ => kept_putAll _ _ _ _ _ _ (kept_putAll _ _ _ _ _ _ hk)) fun _ => hk

@[simp] theorem kept_walkSend (ch : Nat) (k : Nat) (w : Walk) (header : List Byte) (payload : List Byte) (n : Nat) (hk : Kept s₀ s) :
    Kept s₀ (State.walkSend s ch k w header payload n) := by
  unfold State.walkSend
  simp +contextual (maxDischargeDepth := 20) [*]

theorem kept_walkStep (ch : Nat) (w : Walk) (hk : Kept s₀ s)
    {t : State} (ht : (State.walkStep s ch w) = some t) : Kept s₀ t := by
  unfold State.walkStep at ht
  dsimp only at ht
  repeat' split at ht
  all_goals first
    | (cases ht; exact kept_walkSend _ _ _ _ _ _ hk)
    | (cases ht; exact kept_onChan _ _ hk)
    | (cases ht; exact kept_walkSend _ _ _ _ _ _ (kept_onChan _ _ hk))
    | cases ht

@[simp] theorem kept_partialEntry (ch : Nat) (w : Walk) (f : Nat) (hk : Kept s₀ s) :
    Kept s₀ (State.partialEntry s ch w f).1 := by
  unfold State.partialEntry
  simp +contextual (maxDischargeDepth := 20) [*]

@[simp] theorem kept_walkForward (ch n : Nat) (s : State) (hk : Kept s₀ s) :
    Kept s₀ (State.walkForward ch n s) := by
  induction n generalizing s with
  | zero => exact hk
  | succ n ih =>
    unfold State.walkForward
    dsimp only
    repeat' split
    · exact hk
    · exact hk
    · simp [hk]
    · exact ih _ (kept_onChan _ _ (kept_sendEntry _ _ _ (kept_partialEntry _ _ _ hk)))

@[simp] theorem kept_walkEnd (ch : Nat) (hk : Kept s₀ s) :
    Kept s₀ (State.walkEnd s ch) := by
  unfold State.walkEnd
  dsimp only
  repeat' split
  all_goals first | assumption | simp +contextual (maxDischargeDepth := 20) [*]

@[simp] theorem kept_walkLoop (ch : Nat) (d : Desc) (n : Nat) (s : State) (hk : Kept s₀ s) :
    Kept s₀ (State.walkLoop ch d n s) := by
  induction n generalizing s with
  | zero => exact hk
  | succ n ih =>
    unfold State.walkLoop
    dsimp only
    refine kept_ite _ (fun _ => hk) fun _ => ?_
    split
    · split
      · exact ih _ (kept_walkStep _ _ hk ‹_›)
      · exact kept_walkEnd _ (kept_walkForward _ _ _ hk)
    · split
      · exact kept_endDesc _ _ _ _ _ _ hk
      · exact kept_ite _ (fun _ => kept_pull _ _ _ _ _ hk) fun _ => ih _ (kept_pull _ _ _ _ _ hk)
      · split
        · exact kept_endDesc _ _ _ _ _ _ hk
        · exact kept_ite _ (fun _ => ih _ (kept_onChan _ _ (kept_bindOut _ _ (kept_bindIn _ _ hk)))) fun _ => hk

theorem kept_execKvwalk (ch : Nat) (hk : Kept s₀ s)
    {t : State} (ht : (execKvwalk ch s) = .next t) : Kept s₀ t := by
  unfold execKvwalk at ht
  simp only [Host.Outcome.next.injEq] at ht
  subst ht
  simp +contextual (maxDischargeDepth := 20) [*]

@[simp] theorem kept_walkDone (x : NbDone) (w : Walk) (hk : Kept s₀ s) :
    Kept s₀ (State.walkDone s x w) := by
  unfold State.walkDone
  simp +contextual (maxDischargeDepth := 20) [*]

theorem kept_execNbCompletion (e : Nat) (hk : Kept s₀ s)
    {t : State} (ht : (execNbCompletion e s) = .next t) : Kept s₀ t := by
  unfold execNbCompletion at ht
  (try dsimp only at ht)
  repeat' split at ht
  all_goals
    simp only [Host.Outcome.next.injEq] at ht
    subst ht
    first | assumption | simp +contextual (maxDischargeDepth := 20) [*]

theorem kept_execHeldRetry (ch : Nat) (hk : Kept s₀ s)
    {t : State} (ht : (execHeldRetry ch s) = .next t) : Kept s₀ t := by
  unfold execHeldRetry at ht
  (try dsimp only at ht)
  repeat' split at ht
  all_goals
    simp only [Host.Outcome.next.injEq] at ht
    subst ht
    first | assumption | simp +contextual (maxDischargeDepth := 20) [*]

end Sys2Proof.Machine
end

