-- ==== Sys2Proof/Laws/KeptFabric.lean ====
section
/-! SUPPORT. What the operations of Machine/Fabric.lean keep (Laws/Kept.lean). -/

namespace Sys2Proof.Machine

variable {s₀ s : State}

theorem kept_foldlM {α ε : Type} (l : List α) (g : State → α → Except ε State)
    (hg : ∀ s a t, Kept s₀ s → g s a = .ok t → Kept s₀ t) (s : State) (h : Kept s₀ s) {t : State}
    (ht : l.foldlM g s = .ok t) : Kept s₀ t := by
  induction l generalizing s with
  | nil => cases ht; exact h
  | cons a r ih =>
    rw [List.foldlM_cons] at ht
    cases hga : g s a with
    | error e => rw [hga] at ht; cases ht
    | ok u => rw [hga] at ht; exact ih u (hg _ _ _ h hga) ht

theorem kept_bind {ε : Type} {x : Except ε State} {g : State → Except ε State} {t : State}
    (ht : (x >>= g) = .ok t) (hx : ∀ u, x = .ok u → Kept s₀ u)
    (hg : ∀ u, Kept s₀ u → g u = .ok t → Kept s₀ t) : Kept s₀ t := by
  cases x with
  | error e => cases ht
  | ok u => exact hg u (hx u rfl) ht

theorem kept_execSlotEntryAdvance (p : Nat) (hk : Kept s₀ s)
    {t : State} (ht : (execSlotEntryAdvance p s) = .next t) : Kept s₀ t := by
  unfold execSlotEntryAdvance at ht
  simp only [Host.Outcome.next.injEq] at ht
  subst ht
  simp +contextual (maxDischargeDepth := 20) [*]

@[simp] theorem kept_beatWrite (core : Nat) (addr : Nat) (l : List Byte) (hk : Kept s₀ s) :
    Kept s₀ (State.beatWrite s core addr l) := by
  unfold State.beatWrite
  simp +contextual (maxDischargeDepth := 20) [*]

theorem kept_beatsLand (n : Nat) (cl : Nat) (hk : Kept s₀ s)
    {t : State} (ht : (State.beatsLand s n cl) = .ok t) : Kept s₀ t := by
  unfold State.beatsLand at ht
  refine kept_foldlM _ _ (fun s b u h hu => ?_) _ (kept_onCluster _ _ hk) ht
  split at hu
  · split at hu
    · cases hu
    · cases hu; exact kept_onCluster _ _ h
  · cases hu; exact kept_each _ _ (fun _ _ h => kept_beatWrite _ _ _ h) h

theorem kept_takeDirect (cl : Nat) (src : Nat) (hk : Kept s₀ s)
    {t} (ht : (State.takeDirect s cl src) = some t) : Kept s₀ t.2 := by
  unfold State.takeDirect at ht
  dsimp only at ht
  split at ht
  · split at ht
    · cases ht
    · cases ht
      exact kept_onCluster _ _ hk
  split at ht
  · obtain ⟨x, -, rfl⟩ := Option.map_eq_some_iff.mp ht
    exact kept_setTcore _ _ hk
  · obtain ⟨x, -, rfl⟩ := Option.map_eq_some_iff.mp ht
    refine kept_setVcore _ _ ?_
    split
    · exact kept_ringBlur _ _ hk
    · exact hk

theorem kept_takeForwarded (core : Nat) (hk : Kept s₀ s)
    {t} (ht : (State.takeForwarded s core) = some t) : Kept s₀ t.2 := by
  unfold State.takeForwarded at ht
  rw [Option.map_eq_some_iff] at ht
  obtain ⟨x, -, rfl⟩ := ht
  exact kept_ite _ (fun _ => kept_onVcore _ _ hk) fun _ => kept_onScore _ _ hk

theorem kept_meshSend (n : Nat) (cl : Nat) (hk : Kept s₀ s)
    {t : State} (ht : (State.meshSend s n cl) = .ok t) : Kept s₀ t := by
  unfold State.meshSend at ht
  dsimp only at ht
  split at ht
  · split at ht
    · cases ht; exact kept_onCluster _ _ (kept_takeDirect _ _ hk ‹_›)
    · cases ht
  · split at ht
    · cases ht; exact kept_onCluster _ _ (kept_takeForwarded _ hk ‹_›)
    · cases ht
  · cases ht; exact hk

theorem kept_emit (p : Polder) (n : Nat) (cl : Nat) (f : Flight) (hk : Kept s₀ s)
    {t : State} (ht : (State.emit s p n cl f) = .ok t) : Kept s₀ t := by
  unfold State.emit at ht
  split at ht
  · split at ht
    · cases ht
    · cases ht; exact kept_onScore _ _ (kept_onCluster _ _ hk)
  · dsimp only at ht
    split at ht
    · cases ht
    · cases ht; exact kept_onCluster _ _ hk

theorem kept_emitAll (p : Polder) (n : Nat) (cl : Nat) (hk : Kept s₀ s)
    {t : State} (ht : (State.emitAll s p n cl) = .ok t) : Kept s₀ t := by
  unfold State.emitAll at ht
  exact kept_foldlM _ _ (fun s f u h hu => kept_emit _ _ _ _ h hu) _ (kept_onCluster _ _ hk) ht

theorem kept_clusterSlot (p : Polder) (n : Nat) (cl : Nat) (hk : Kept s₀ s)
    {t : State} (ht : (State.clusterSlot s p n cl) = .ok t) : Kept s₀ t := by
  unfold State.clusterSlot at ht
  refine kept_bind ht (fun u hu => kept_beatsLand _ _ hk hu) fun u h hu => ?_
  refine kept_bind hu (fun v hv => kept_meshSend _ _ h hv) fun v h hv => ?_
  refine kept_bind hv (fun w hw => kept_emitAll _ _ _ h hw) fun w h hw => ?_
  cases hr : (w.cluster cl).route (imgOpts p.image) n cl with
  | error e => rw [hr] at hw; cases hw
  | ok c => rw [hr] at hw; cases hw; exact kept_setCluster _ _ h

@[simp] theorem kept_heldCycle (n : Nat) (hk : Kept s₀ s) :
    Kept s₀ (State.heldCycle s n) := by
  unfold State.heldCycle
  simp +contextual (maxDischargeDepth := 20) [*]

@[simp] theorem kept_slotFail (n : Nat) (t : Nat) (f : SlotFault) (hk : Kept s₀ s) :
    Kept s₀ (State.slotFail s n t f) := by
  unfold State.slotFail
  simp +contextual (maxDischargeDepth := 20) [*]

theorem kept_execRouterSlot (p : Nat) (badWords : List Nat) (hk : Kept s₀ s)
    {t : State} (ht : (execRouterSlot p badWords s) = .next t) : Kept s₀ t := by
  unfold execRouterSlot at ht
  refine kept_next ht ?_
  refine kept_ite _ (fun _ => hk) fun _ => kept_ite _ (fun _ => kept_heldCycle _ hk) fun _ => ?_
  refine kept_ite _ (fun _ => hk) fun _ => kept_ite _ (fun _ => kept_heldCycle _ (kept_onPolder _ _ hk)) fun _ => ?_
  split
  · exact kept_failJob _ _ _ (kept_addLog _ _ _ _ _ _
      (kept_each _ _ (fun _ _ h => kept_onCluster _ _ h) (kept_ite _ (fun _ => kept_onPolder _ _ hk) fun _ => hk)))
  · split
    · exact kept_slotFail _ _ _ hk
    · exact kept_onPolder _ _ (kept_foldlM _ _ (fun s cl u h hu => kept_clusterSlot _ _ _ h hu) _ hk ‹_›)

theorem kept_execHoldRelease (p : Nat) (hk : Kept s₀ s)
    {t : State} (ht : (execHoldRelease p s) = .next t) : Kept s₀ t := by
  unfold execHoldRelease at ht
  simp only [Host.Outcome.next.injEq] at ht
  subst ht
  simp +contextual (maxDischargeDepth := 20) [*]

end Sys2Proof.Machine
end

