-- ==== Sys2Proof/Laws/KeptSmbus.lean ====
section
/-! SUPPORT. What the operations of Machine/Smbus.lean keep (Laws/Kept.lean). -/

namespace Sys2Proof.Machine

variable {s₀ s : State}

@[simp] theorem kept_smbusDo (run : State → State) (hk : Kept s₀ s) (hg1 : ∀ y0, Kept s₀ y0 → Kept s₀ (run y0)) :
    Kept s₀ (State.smbusDo s run) := by
  unfold State.smbusDo
  simp +contextual (maxDischargeDepth := 20) [*]

@[simp] theorem kept_smbusRead (l : State → List Byte) (hk : Kept s₀ s) :
    Kept s₀ (State.smbusRead s l) := by
  unfold State.smbusRead
  simp +contextual (maxDischargeDepth := 20) [*]

theorem kept_execClearFaults (hk : Kept s₀ s)
    {t : State} (ht : (execClearFaults s) = .next t) : Kept s₀ t := by
  unfold execClearFaults at ht
  simp only [Host.Outcome.next.injEq] at ht
  subst ht
  simp +contextual (maxDischargeDepth := 20) [*]

theorem kept_execCapability (hk : Kept s₀ s)
    {t : State} (ht : (execCapability s) = .next t) : Kept s₀ t := by
  unfold execCapability at ht
  simp only [Host.Outcome.next.injEq] at ht
  subst ht
  simp +contextual (maxDischargeDepth := 20) [*]

theorem kept_execStatusWord (hk : Kept s₀ s)
    {t : State} (ht : (execStatusWord s) = .next t) : Kept s₀ t := by
  unfold execStatusWord at ht
  simp only [Host.Outcome.next.injEq] at ht
  subst ht
  simp +contextual (maxDischargeDepth := 20) [*]

theorem kept_execStatusTemperature (hk : Kept s₀ s)
    {t : State} (ht : (execStatusTemperature s) = .next t) : Kept s₀ t := by
  unfold execStatusTemperature at ht
  simp only [Host.Outcome.next.injEq] at ht
  subst ht
  simp +contextual (maxDischargeDepth := 20) [*]

theorem kept_execReadVin (hk : Kept s₀ s)
    {t : State} (ht : (execReadVin s) = .next t) : Kept s₀ t := by
  unfold execReadVin at ht
  simp only [Host.Outcome.next.injEq] at ht
  subst ht
  simp +contextual (maxDischargeDepth := 20) [*]

theorem kept_execReadIin (hk : Kept s₀ s)
    {t : State} (ht : (execReadIin s) = .next t) : Kept s₀ t := by
  unfold execReadIin at ht
  simp only [Host.Outcome.next.injEq] at ht
  subst ht
  simp +contextual (maxDischargeDepth := 20) [*]

theorem kept_execReadTemperature1 (hk : Kept s₀ s)
    {t : State} (ht : (execReadTemperature1 s) = .next t) : Kept s₀ t := by
  unfold execReadTemperature1 at ht
  simp only [Host.Outcome.next.injEq] at ht
  subst ht
  simp +contextual (maxDischargeDepth := 20) [*]

theorem kept_execReadTemperature2 (hk : Kept s₀ s)
    {t : State} (ht : (execReadTemperature2 s) = .next t) : Kept s₀ t := by
  unfold execReadTemperature2 at ht
  simp only [Host.Outcome.next.injEq] at ht
  subst ht
  simp +contextual (maxDischargeDepth := 20) [*]

theorem kept_execReadTemperature3 (hk : Kept s₀ s)
    {t : State} (ht : (execReadTemperature3 s) = .next t) : Kept s₀ t := by
  unfold execReadTemperature3 at ht
  simp only [Host.Outcome.next.injEq] at ht
  subst ht
  simp +contextual (maxDischargeDepth := 20) [*]

theorem kept_execReadPin (hk : Kept s₀ s)
    {t : State} (ht : (execReadPin s) = .next t) : Kept s₀ t := by
  unfold execReadPin at ht
  simp only [Host.Outcome.next.injEq] at ht
  subst ht
  simp +contextual (maxDischargeDepth := 20) [*]

theorem kept_execPmbusRevision (hk : Kept s₀ s)
    {t : State} (ht : (execPmbusRevision s) = .next t) : Kept s₀ t := by
  unfold execPmbusRevision at ht
  simp only [Host.Outcome.next.injEq] at ht
  subst ht
  simp +contextual (maxDischargeDepth := 20) [*]

theorem kept_execMfrId (hk : Kept s₀ s)
    {t : State} (ht : (execMfrId s) = .next t) : Kept s₀ t := by
  unfold execMfrId at ht
  simp only [Host.Outcome.next.injEq] at ht
  subst ht
  simp +contextual (maxDischargeDepth := 20) [*]

theorem kept_execMfrModel (hk : Kept s₀ s)
    {t : State} (ht : (execMfrModel s) = .next t) : Kept s₀ t := by
  unfold execMfrModel at ht
  simp only [Host.Outcome.next.injEq] at ht
  subst ht
  simp +contextual (maxDischargeDepth := 20) [*]

theorem kept_execMfrWake (hk : Kept s₀ s)
    {t : State} (ht : (execMfrWake s) = .next t) : Kept s₀ t := by
  unfold execMfrWake at ht
  simp only [Host.Outcome.next.injEq] at ht
  subst ht
  simp +contextual (maxDischargeDepth := 20) [*]

theorem kept_execMfrPkgState (hk : Kept s₀ s)
    {t : State} (ht : (execMfrPkgState s) = .next t) : Kept s₀ t := by
  unfold execMfrPkgState at ht
  simp only [Host.Outcome.next.injEq] at ht
  subst ht
  simp +contextual (maxDischargeDepth := 20) [*]

theorem kept_execMfrEnergy (hk : Kept s₀ s)
    {t : State} (ht : (execMfrEnergy s) = .next t) : Kept s₀ t := by
  unfold execMfrEnergy at ht
  simp only [Host.Outcome.next.injEq] at ht
  subst ht
  simp +contextual (maxDischargeDepth := 20) [*]

theorem kept_execMfrBootStatus (hk : Kept s₀ s)
    {t : State} (ht : (execMfrBootStatus s) = .next t) : Kept s₀ t := by
  unfold execMfrBootStatus at ht
  simp only [Host.Outcome.next.injEq] at ht
  subst ht
  simp +contextual (maxDischargeDepth := 20) [*]

theorem kept_execMfrEffCap (hk : Kept s₀ s)
    {t : State} (ht : (execMfrEffCap s) = .next t) : Kept s₀ t := by
  unfold execMfrEffCap at ht
  simp only [Host.Outcome.next.injEq] at ht
  subst ht
  simp +contextual (maxDischargeDepth := 20) [*]

theorem kept_execMfrHotDram (hk : Kept s₀ s)
    {t : State} (ht : (execMfrHotDram s) = .next t) : Kept s₀ t := by
  unfold execMfrHotDram at ht
  simp only [Host.Outcome.next.injEq] at ht
  subst ht
  simp +contextual (maxDischargeDepth := 20) [*]

@[simp] theorem kept_smbusBad (hk : Kept s₀ s) :
    Kept s₀ (State.smbusBad s) := by
  unfold State.smbusBad
  simp +contextual (maxDischargeDepth := 20) [*]

theorem kept_smbusCommand {c : Nat} {run : State → Result} (h : smbusCommand c = some run) (hk : Kept s₀ s) {t : State}
    (ht : run s = .next t) : Kept s₀ t := by
  unfold smbusCommand at h
  split at h <;> cases h
  exacts [kept_execClearFaults hk ht,
    kept_execCapability hk ht,
    kept_execStatusWord hk ht,
    kept_execStatusTemperature hk ht,
    kept_execReadVin hk ht,
    kept_execReadIin hk ht,
    kept_execReadTemperature1 hk ht,
    kept_execReadTemperature2 hk ht,
    kept_execReadTemperature3 hk ht,
    kept_execReadPin hk ht,
    kept_execPmbusRevision hk ht,
    kept_execMfrId hk ht,
    kept_execMfrModel hk ht,
    kept_execMfrWake hk ht,
    kept_execMfrPkgState hk ht,
    kept_execMfrEnergy hk ht,
    kept_execMfrBootStatus hk ht,
    kept_execMfrEffCap hk ht,
    kept_execMfrHotDram hk ht]

theorem kept_execSmbusBadTransaction (bad : SmbusBad) (hk : Kept s₀ s)
    {t : State} (ht : (execSmbusBadTransaction bad s) = .next t) : Kept s₀ t := by
  unfold execSmbusBadTransaction at ht
  repeat' split at ht
  · exact kept_smbusCommand ‹_› hk ht
  all_goals exact kept_next ht (kept_smbusBad hk)

end Sys2Proof.Machine
end

