-- ==== Sys2Proof/Laws/KeptLinks.lean ====
section
/-! SUPPORT. What the operations of Machine/Links.lean keep (Laws/Kept.lean). -/

namespace Sys2Proof.Machine

variable {s₀ s : State}

@[simp] theorem kept_linkUp (n : Nat) (t : LinkTrial) (rate : Nat) (cause : Nat) (hk : Kept s₀ s) :
    Kept s₀ (State.linkUp s n t rate cause) := by
  unfold State.linkUp
  simp +contextual (maxDischargeDepth := 20) [*]

theorem kept_execLinkDetect (n : Nat) (t : LinkTrial) (hk : Kept s₀ s)
    {t' : State} (ht : (execLinkDetect n t s) = .next t') : Kept s₀ t' := by
  unfold execLinkDetect at ht
  (try dsimp only at ht)
  repeat' split at ht
  all_goals
    simp only [Host.Outcome.next.injEq] at ht
    subst ht
    repeat' first
      | assumption
      | (simp +contextual (maxDischargeDepth := 20) [*]; done)
      | refine kept_each _ _ (fun _ _ _ => ?_) ?_
      | split

theorem kept_execLinkTrainingTimeout (n : Nat) (hk : Kept s₀ s)
    {t : State} (ht : (execLinkTrainingTimeout n s) = .next t) : Kept s₀ t := by
  unfold execLinkTrainingTimeout at ht
  (try dsimp only at ht)
  repeat' split at ht
  all_goals
    simp only [Host.Outcome.next.injEq] at ht
    subst ht
    first | assumption | simp +contextual (maxDischargeDepth := 20) [*]

theorem kept_execNoPartnerTimeout (n : Nat) (hk : Kept s₀ s)
    {t : State} (ht : (execNoPartnerTimeout n s) = .next t) : Kept s₀ t := by
  unfold execNoPartnerTimeout at ht
  (try dsimp only at ht)
  repeat' split at ht
  all_goals
    simp only [Host.Outcome.next.injEq] at ht
    subst ht
    first | assumption | simp +contextual (maxDischargeDepth := 20) [*]

theorem kept_execLinkRetry (n : Nat) (hk : Kept s₀ s)
    {t : State} (ht : (execLinkRetry n s) = .next t) : Kept s₀ t := by
  unfold execLinkRetry at ht
  (try dsimp only at ht)
  repeat' split at ht
  all_goals
    simp only [Host.Outcome.next.injEq] at ht
    subst ht
    first | assumption | simp +contextual (maxDischargeDepth := 20) [*]

@[simp] theorem kept_leaveUp (n : Nat) (cause : Nat) (hk : Kept s₀ s) :
    Kept s₀ (State.leaveUp s n cause) := by
  unfold State.leaveUp
  simp +contextual (maxDischargeDepth := 20) [*]

@[simp] theorem kept_retrained (n : Nat) (target : Nat) (cause : Nat) (t : LinkTrial) (hk : Kept s₀ s) :
    Kept s₀ (State.retrained s n target cause t) := by
  unfold State.retrained
  simp +contextual (maxDischargeDepth := 20) [*]

theorem kept_execLinkRetrain (n : Nat) (cause : Nat) (t : LinkTrial) (hk : Kept s₀ s)
    {t' : State} (ht : (execLinkRetrain n cause t s) = .next t') : Kept s₀ t' := by
  unfold execLinkRetrain at ht
  (try dsimp only at ht)
  repeat' split at ht
  all_goals
    simp only [Host.Outcome.next.injEq] at ht
    subst ht
    repeat' first
      | assumption
      | (simp +contextual (maxDischargeDepth := 20) [*]; done)
      | refine kept_each _ _ (fun _ _ _ => ?_) ?_
      | split

theorem kept_execLinkRateReturn (n : Nat) (t : LinkTrial) (hk : Kept s₀ s)
    {t' : State} (ht : (execLinkRateReturn n t s) = .next t') : Kept s₀ t' := by
  unfold execLinkRateReturn at ht
  (try dsimp only at ht)
  repeat' split at ht
  all_goals
    simp only [Host.Outcome.next.injEq] at ht
    subst ht
    repeat' first
      | assumption
      | (simp +contextual (maxDischargeDepth := 20) [*]; done)
      | refine kept_each _ _ (fun _ _ _ => ?_) ?_
      | split

@[simp] theorem kept_watchErrors (n : Nat) (hk : Kept s₀ s) :
    Kept s₀ (State.watchErrors s n) := by
  unfold State.watchErrors
  simp +contextual (maxDischargeDepth := 20) [*]

@[simp] theorem kept_codeword (n : Nat) (errs : List LaneErr) (take : State → Bool → State) (hk : Kept s₀ s) (hg3 : ∀ y0 y1, Kept s₀ y0 → Kept s₀ (take y0 y1)) :
    Kept s₀ (State.codeword s n errs take) := by
  unfold State.codeword
  dsimp only
  repeat' split
  all_goals first | assumption | simp +contextual (maxDischargeDepth := 20) [*]

@[simp] theorem kept_discardFlit (n : Nat) (hk : Kept s₀ s) :
    Kept s₀ (State.discardFlit s n) := by
  unfold State.discardFlit
  simp +contextual (maxDischargeDepth := 20) [*]

@[simp] theorem kept_flitIn (n : Nat) (flit : Flit) (errs : List LaneErr) (good : Bool) (bad : State → State) (take : State → State) (hk : Kept s₀ s) (hg5 : ∀ y0, Kept s₀ y0 → Kept s₀ (bad y0)) (hg6 : ∀ y0, Kept s₀ y0 → Kept s₀ (take y0)) :
    Kept s₀ (State.flitIn s n flit errs good bad take) := by
  unfold State.flitIn
  simp +contextual (maxDischargeDepth := 20) [*]

@[simp] theorem kept_deliver (n : Nat) (ps : List Packet) (hk : Kept s₀ s) :
    Kept s₀ (State.deliver s n ps) := by
  unfold State.deliver
  simp +contextual (maxDischargeDepth := 20) [*]

@[simp] theorem kept_idleAck (n : Nat) (before : Link) (hk : Kept s₀ s) :
    Kept s₀ (State.idleAck s n before) := by
  unfold State.idleAck
  simp +contextual (maxDischargeDepth := 20) [*]

theorem kept_execDataFlit (n : Nat) (flit : Flit) (errs : optParam (List LaneErr) []) (hk : Kept s₀ s)
    {t : State} (ht : (execDataFlit n flit s errs) = .next t) : Kept s₀ t := by
  unfold execDataFlit at ht
  (try dsimp only at ht)
  repeat' split at ht
  all_goals
    simp only [Host.Outcome.next.injEq] at ht
    subst ht
    first | assumption | simp +contextual (maxDischargeDepth := 20) [*]

theorem kept_execIdleFlit (n : Nat) (flit : Flit) (errs : List LaneErr) (hk : Kept s₀ s)
    {t : State} (ht : (execIdleFlit n flit errs s) = .next t) : Kept s₀ t := by
  unfold execIdleFlit at ht
  (try dsimp only at ht)
  repeat' split at ht
  all_goals
    simp only [Host.Outcome.next.injEq] at ht
    subst ht
    first | assumption | simp +contextual (maxDischargeDepth := 20) [*]

theorem kept_execNak (n : Nat) (flit : Flit) (errs : optParam (List LaneErr) []) (hk : Kept s₀ s)
    {t : State} (ht : (execNak n flit s errs) = .next t) : Kept s₀ t := by
  unfold execNak at ht
  (try dsimp only at ht)
  repeat' split at ht
  all_goals
    simp only [Host.Outcome.next.injEq] at ht
    subst ht
    first | assumption | simp +contextual (maxDischargeDepth := 20) [*]

theorem kept_execReplayTimer (n : Nat) (hk : Kept s₀ s)
    {t : State} (ht : (execReplayTimer n s) = .next t) : Kept s₀ t := by
  unfold execReplayTimer at ht
  (try dsimp only at ht)
  repeat' split at ht
  all_goals
    simp only [Host.Outcome.next.injEq] at ht
    subst ht
    first | assumption | simp +contextual (maxDischargeDepth := 20) [*]

theorem kept_execCredit (n : Nat) (flit : Flit) (errs : List LaneErr) (hk : Kept s₀ s)
    {t : State} (ht : (execCredit n flit errs s) = .next t) : Kept s₀ t := by
  unfold execCredit at ht
  (try dsimp only at ht)
  repeat' split at ht
  all_goals
    simp only [Host.Outcome.next.injEq] at ht
    subst ht
    first | assumption | simp +contextual (maxDischargeDepth := 20) [*]

theorem kept_execCreditReturn (n : Nat) (hk : Kept s₀ s)
    {t : State} (ht : (execCreditReturn n s) = .next t) : Kept s₀ t := by
  unfold execCreditReturn at ht
  (try dsimp only at ht)
  repeat' split at ht
  all_goals
    simp only [Host.Outcome.next.injEq] at ht
    subst ht
    first | assumption | simp +contextual (maxDischargeDepth := 20) [*]

theorem kept_execIdent (n : Nat) (flit : Flit) (errs : optParam (List LaneErr) []) (hk : Kept s₀ s)
    {t : State} (ht : (execIdent n flit s errs) = .next t) : Kept s₀ t := by
  unfold execIdent at ht
  simp only [Host.Outcome.next.injEq] at ht
  subst ht
  simp +contextual (maxDischargeDepth := 20) [*]

@[simp] theorem kept_serveRequest (n : Nat) (type : Nat) (hk : Kept s₀ s) :
    Kept s₀ (State.serveRequest s n type) := by
  unfold State.serveRequest
  dsimp only
  (repeat' split) <;> simp_all +contextual (maxDischargeDepth := 20)

theorem kept_execRdReq (n : Nat) (hk : Kept s₀ s)
    {t : State} (ht : (execRdReq n s) = .next t) : Kept s₀ t := by
  unfold execRdReq at ht
  simp only [Host.Outcome.next.injEq] at ht
  subst ht
  simp +contextual (maxDischargeDepth := 20) [*]

theorem kept_execWrReq (n : Nat) (hk : Kept s₀ s)
    {t : State} (ht : (execWrReq n s) = .next t) : Kept s₀ t := by
  unfold execWrReq at ht
  simp only [Host.Outcome.next.injEq] at ht
  subst ht
  simp +contextual (maxDischargeDepth := 20) [*]

@[simp] theorem kept_takeResponse (n : Nat) (type : Nat) (hk : Kept s₀ s) :
    Kept s₀ (State.takeResponse s n type) := by
  unfold State.takeResponse
  dsimp only
  repeat' split
  all_goals first | assumption | simp +contextual (maxDischargeDepth := 20) [*]

theorem kept_execRdRsp (n : Nat) (hk : Kept s₀ s)
    {t : State} (ht : (execRdRsp n s) = .next t) : Kept s₀ t := by
  unfold execRdRsp at ht
  simp only [Host.Outcome.next.injEq] at ht
  subst ht
  simp +contextual (maxDischargeDepth := 20) [*]

theorem kept_execWrAck (n : Nat) (hk : Kept s₀ s)
    {t : State} (ht : (execWrAck n s) = .next t) : Kept s₀ t := by
  unfold execWrAck at ht
  simp only [Host.Outcome.next.injEq] at ht
  subst ht
  simp +contextual (maxDischargeDepth := 20) [*]

theorem kept_execNakRsp (n : Nat) (hk : Kept s₀ s)
    {t : State} (ht : (execNakRsp n s) = .next t) : Kept s₀ t := by
  unfold execNakRsp at ht
  simp only [Host.Outcome.next.injEq] at ht
  subst ht
  simp +contextual (maxDischargeDepth := 20) [*]

theorem kept_linkConfig (f k : Nat) (run : State → Cmd → Except Status State) (hk : Kept s₀ s)
    (hr : ∀ s c s', Kept s₀ s → run s c = .ok s' → Kept s₀ s') : Kept s₀ (s.linkConfig f k run) := by
  unfold State.linkConfig
  refine kept_serve_ _ _ _ hk fun s c h => ?_
  refine kept_ite _ (fun _ => kept_refuse _ _ h) fun _ => ?_
  split
  · exact kept_refuse _ _ h
  · have h' := hr _ _ _ h ‹_›
    dsimp only
    exact kept_ite _ (fun _ => kept_answer _ _ (kept_writeOut _ _ _ h')) fun _ => kept_refuse _ _ h

theorem kept_execLinkEnable (f : Nat) (hk : Kept s₀ s)
    {t : State} (ht : (execLinkEnable f s) = .next t) : Kept s₀ t := by
  unfold execLinkEnable at ht
  simp only [Host.Outcome.next.injEq] at ht
  subst ht
  refine kept_linkConfig _ _ _ hk fun s c s' h hs => ?_
  (try dsimp only at hs)
  repeat' split at hs
  all_goals first
    | (simp only [Except.ok.injEq] at hs; subst hs; simp +contextual (maxDischargeDepth := 20) [*]; done)
    | (simp only [reduceCtorEq] at hs; done)

theorem kept_execLinkDisable (f : Nat) (hk : Kept s₀ s)
    {t : State} (ht : (execLinkDisable f s) = .next t) : Kept s₀ t := by
  unfold execLinkDisable at ht
  simp only [Host.Outcome.next.injEq] at ht
  subst ht
  refine kept_linkConfig _ _ _ hk fun s c s' h hs => ?_
  (try dsimp only at hs)
  repeat' split at hs
  all_goals first
    | (simp only [Except.ok.injEq] at hs; subst hs; simp +contextual (maxDischargeDepth := 20) [*]; done)
    | (simp only [reduceCtorEq] at hs; done)

theorem kept_execLinkIdentity (f : Nat) (hk : Kept s₀ s)
    {t : State} (ht : (execLinkIdentity f s) = .next t) : Kept s₀ t := by
  unfold execLinkIdentity at ht
  simp only [Host.Outcome.next.injEq] at ht
  subst ht
  refine kept_linkConfig _ _ _ hk fun s c s' h hs => ?_
  (try dsimp only at hs)
  repeat' split at hs
  all_goals first
    | (simp only [Except.ok.injEq] at hs; subst hs; simp +contextual (maxDischargeDepth := 20) [*]; done)
    | (simp only [reduceCtorEq] at hs; done)

theorem kept_window (c : Cmd) {s' : State} (h : Kept s₀ s) (x : Option Status) (hs : (match x with
    | some st => (.error st : Except Status State)
    | none =>
      let w : Window := ⟨bit (c.a 4) 8, BitVec.ofNat 32 (c.a 3), bits (c.a 4) 0 4, c.a64 5⟩
      .ok { s with windows := Sparse.set {} s.windows (c.a 2) w }) = .ok s') : Kept s₀ s' := by
  cases x with
  | some st => simp only [reduceCtorEq] at hs
  | none =>
    simp only [Except.ok.injEq] at hs
    subst hs
    exact kept_mk h

theorem kept_execLinkWindow (f : Nat) (hk : Kept s₀ s)
    {t : State} (ht : (execLinkWindow f s) = .next t) : Kept s₀ t := by
  unfold execLinkWindow at ht
  rw [Host.Outcome.next.injEq] at ht
  subst ht
  refine kept_linkConfig _ _ _ hk fun s c s' h hs => ?_
  exact kept_window _ h _ hs

theorem kept_execLinkInbound (f : Nat) (hk : Kept s₀ s)
    {t : State} (ht : (execLinkInbound f s) = .next t) : Kept s₀ t := by
  unfold execLinkInbound at ht
  simp only [Host.Outcome.next.injEq] at ht
  subst ht
  refine kept_linkConfig _ _ _ hk fun s c s' h hs => ?_
  (try dsimp only at hs)
  repeat' split at hs
  all_goals first
    | (simp only [Except.ok.injEq] at hs; subst hs; simp +contextual (maxDischargeDepth := 20) [*]; done)
    | (simp only [reduceCtorEq] at hs; done)

theorem kept_execLinkStatus (f : Nat) (hk : Kept s₀ s)
    {t : State} (ht : (execLinkStatus f s) = .next t) : Kept s₀ t := by
  unfold execLinkStatus at ht
  simp only [Host.Outcome.next.injEq] at ht
  subst ht
  simp +contextual (maxDischargeDepth := 20) [*]

end Sys2Proof.Machine
end

