-- ==== Sys2Proof/Laws/KeptTime.lean ====
section
/-! SUPPORT. What the operations of Machine/Time.lean keep (Laws/Kept.lean). -/

namespace Sys2Proof.Machine

variable {s₀ s : State}

@[simp] theorem kept_writeTimeCtl (v : Nat) (hk : Kept s₀ s) :
    Kept s₀ (State.writeTimeCtl s v) := by
  unfold State.writeTimeCtl
  simp +contextual (maxDischargeDepth := 20) [*]

theorem kept_execMode (value : Word) (hk : Kept s₀ s)
    {t : State} (ht : (execMode value s) = .next t) : Kept s₀ t := by
  unfold execMode at ht
  simp only [Host.Outcome.next.injEq] at ht
  subst ht
  simp +contextual (maxDischargeDepth := 20) [*]

theorem kept_execLoadArm (value : Word) (hk : Kept s₀ s)
    {t : State} (ht : (execLoadArm value s) = .next t) : Kept s₀ t := by
  unfold execLoadArm at ht
  simp only [Host.Outcome.next.injEq] at ht
  subst ht
  simp +contextual (maxDischargeDepth := 20) [*]

theorem kept_execLinkTimesyncConfig (f : Nat) (hk : Kept s₀ s)
    {t : State} (ht : (execLinkTimesyncConfig f s) = .next t) : Kept s₀ t := by
  unfold execLinkTimesyncConfig at ht
  simp only [Host.Outcome.next.injEq] at ht
  subst ht
  refine kept_linkConfig _ _ _ hk fun s c s' h hs => ?_
  (try dsimp only at hs)
  repeat' split at hs
  all_goals first
    | (simp only [Except.ok.injEq] at hs; subst hs; simp +contextual (maxDischargeDepth := 20) [*]; done)
    | (simp only [reduceCtorEq] at hs; done)

theorem kept_execTimesync (hk : Kept s₀ s)
    {t : State} (ht : (execTimesync s) = .next t) : Kept s₀ t := by
  unfold execTimesync at ht
  (try dsimp only at ht)
  repeat' split at ht
  all_goals
    simp only [Host.Outcome.next.injEq] at ht
    subst ht
    first | assumption | simp +contextual (maxDischargeDepth := 20) [*]

theorem kept_execTimesyncAnswer (n : Nat) (flit : Flit) (errs : List LaneErr) (hk : Kept s₀ s)
    {t : State} (ht : (execTimesyncAnswer n flit errs s) = .next t) : Kept s₀ t := by
  unfold execTimesyncAnswer at ht
  (try dsimp only at ht)
  repeat' split at ht
  all_goals
    simp only [Host.Outcome.next.injEq] at ht
    subst ht
    first | assumption | simp +contextual (maxDischargeDepth := 20) [*]

theorem kept_execTimesyncLoss (hk : Kept s₀ s)
    {t : State} (ht : (execTimesyncLoss s) = .next t) : Kept s₀ t := by
  unfold execTimesyncLoss at ht
  (try dsimp only at ht)
  repeat' split at ht
  all_goals
    simp only [Host.Outcome.next.injEq] at ht
    subst ht
    first | assumption | simp +contextual (maxDischargeDepth := 20) [*]

theorem kept_execTimesyncReceive (n : Nat) (flit : Flit) (errs : optParam (List LaneErr) []) (hk : Kept s₀ s)
    {t : State} (ht : (execTimesyncReceive n flit s errs) = .next t) : Kept s₀ t := by
  unfold execTimesyncReceive at ht
  (try dsimp only at ht)
  repeat' split at ht
  all_goals
    simp only [Host.Outcome.next.injEq] at ht
    subst ht
    first | assumption | simp +contextual (maxDischargeDepth := 20) [*]

theorem kept_execSyncIn (hk : Kept s₀ s)
    {t : State} (ht : (execSyncIn s) = .next t) : Kept s₀ t := by
  unfold execSyncIn at ht
  (try dsimp only at ht)
  repeat' split at ht
  all_goals
    simp only [Host.Outcome.next.injEq] at ht
    subst ht
    first | assumption | simp +contextual (maxDischargeDepth := 20) [*]

theorem kept_execSyncOutPulse (hk : Kept s₀ s)
    {t : State} (ht : (execSyncOutPulse s) = .next t) : Kept s₀ t := by
  unfold execSyncOutPulse at ht
  (try dsimp only at ht)
  repeat' split at ht
  all_goals
    simp only [Host.Outcome.next.injEq] at ht
    subst ht
    first | assumption | simp +contextual (maxDischargeDepth := 20) [*]

theorem kept_execSyncInLoss (hk : Kept s₀ s)
    {t : State} (ht : (execSyncInLoss s) = .next t) : Kept s₀ t := by
  unfold execSyncInLoss at ht
  (try dsimp only at ht)
  repeat' split at ht
  all_goals
    simp only [Host.Outcome.next.injEq] at ht
    subst ht
    first | assumption | simp +contextual (maxDischargeDepth := 20) [*]

theorem kept_execRefclkLoss (hk : Kept s₀ s)
    {t : State} (ht : (execRefclkLoss s) = .next t) : Kept s₀ t := by
  unfold execRefclkLoss at ht
  simp only [Host.Outcome.next.injEq] at ht
  subst ht
  simp +contextual (maxDischargeDepth := 20) [*]

theorem kept_execRefclkReturn (hk : Kept s₀ s)
    {t : State} (ht : (execRefclkReturn s) = .next t) : Kept s₀ t := by
  unfold execRefclkReturn at ht
  simp only [Host.Outcome.next.injEq] at ht
  subst ht
  simp +contextual (maxDischargeDepth := 20) [*]

end Sys2Proof.Machine
end

