-- ==== Sys2Proof/Laws/KeptHost.lean ====
section
/-! SUPPORT. What the operations of Machine/Host.lean keep (Laws/Kept.lean). -/

namespace Sys2Proof.Machine

variable {s₀ s : State}

@[simp] theorem kept_writeBar4Win (i : Nat) (v : Nat) (hk : Kept s₀ s) :
    Kept s₀ (State.writeBar4Win s i v) := by
  unfold State.writeBar4Win
  simp +contextual (maxDischargeDepth := 20) [*]

theorem kept_execBar4Win (i : Nat) (value : U64) (hk : Kept s₀ s)
    {t : State} (ht : (execBar4Win i value s) = .next t) : Kept s₀ t := by
  unfold execBar4Win at ht
  simp only [Host.Outcome.next.injEq] at ht
  subst ht
  simp +contextual (maxDischargeDepth := 20) [*]

@[simp] theorem kept_resizeBar4 (n : Nat) (hk : Kept s₀ s) :
    Kept s₀ (State.resizeBar4 s n) := by
  unfold State.resizeBar4
  simp +contextual (maxDischargeDepth := 20) [*]

theorem kept_execBar4Read (offset : Nat) (len : Nat) (hk : Kept s₀ s)
    {t : State} (ht : (execBar4Read offset len s) = .next t) : Kept s₀ t := by
  unfold execBar4Read at ht
  (try dsimp only at ht)
  repeat' split at ht
  all_goals
    simp only [Host.Outcome.next.injEq] at ht
    subst ht
    first | assumption | simp +contextual (maxDischargeDepth := 20) [*]

@[simp] theorem kept_bar4WriteOne (o : Nat) (l : List Byte) (hk : Kept s₀ s) :
    Kept s₀ (State.bar4WriteOne s o l) := by
  unfold State.bar4WriteOne
  dsimp only
  repeat' split
  all_goals first | assumption | simp +contextual (maxDischargeDepth := 20) [*]

theorem kept_execBar4Write (offset : Nat) (bytes : List Byte) (hk : Kept s₀ s)
    {t : State} (ht : (execBar4Write offset bytes s) = .next t) : Kept s₀ t := by
  unfold execBar4Write at ht
  (try dsimp only at ht)
  repeat' split at ht
  all_goals
    simp only [Host.Outcome.next.injEq] at ht
    subst ht
    first | assumption | simp +contextual (maxDischargeDepth := 20) [*]

theorem kept_execBar4AtomicOp (_offset : Nat) (hk : Kept s₀ s)
    {t : State} (ht : (execBar4AtomicOp _offset s) = .next t) : Kept s₀ t := by
  unfold execBar4AtomicOp at ht
  simp only [Host.Outcome.next.injEq] at ht
  subst ht
  simp +contextual (maxDischargeDepth := 20) [*]

@[simp] theorem kept_writeVfMap (v : Nat) (w : Nat) (hk : Kept s₀ s) :
    Kept s₀ (State.writeVfMap s v w) := by
  unfold State.writeVfMap
  simp +contextual (maxDischargeDepth := 20) [*]

theorem kept_execVfMap (v : Nat) (value : U64) (hk : Kept s₀ s)
    {t : State} (ht : (execVfMap v value s) = .next t) : Kept s₀ t := by
  unfold execVfMap at ht
  simp only [Host.Outcome.next.injEq] at ht
  subst ht
  simp +contextual (maxDischargeDepth := 20) [*]

theorem kept_execMsixVectorUnmask (f : Nat) (v : Nat) (hk : Kept s₀ s)
    {t : State} (ht : (execMsixVectorUnmask f v s) = .next t) : Kept s₀ t := by
  unfold execMsixVectorUnmask at ht
  simp only [Host.Outcome.next.injEq] at ht
  subst ht
  simp +contextual (maxDischargeDepth := 20) [*]

@[simp] theorem kept_busMasterOn (f : Nat) (hk : Kept s₀ s) :
    Kept s₀ (State.busMasterOn s f) := by
  unfold State.busMasterOn
  dsimp only
  repeat' split
  all_goals first | assumption | simp +contextual (maxDischargeDepth := 20) [*]

theorem kept_execBusMasterEnableSet (f : Nat) (hk : Kept s₀ s)
    {t : State} (ht : (execBusMasterEnableSet f s) = .next t) : Kept s₀ t := by
  unfold execBusMasterEnableSet at ht
  simp only [Host.Outcome.next.injEq] at ht
  subst ht
  simp +contextual (maxDischargeDepth := 20) [*]

@[simp] theorem kept_forgetIssuer (v : Nat) (hk : Kept s₀ s) :
    Kept s₀ (State.forgetIssuer s v) := by
  unfold State.forgetIssuer
  simp +contextual (maxDischargeDepth := 20) [*]

@[simp] theorem kept_vfFlr (v : Nat) (hk : Kept s₀ s) :
    Kept s₀ (State.vfFlr s v) := by
  unfold State.vfFlr
  simp +contextual (maxDischargeDepth := 20) [*]

theorem kept_execVfFlr (v : Nat) (hk : Kept s₀ s)
    {t : State} (ht : (execVfFlr v s) = .next t) : Kept s₀ t := by
  unfold execVfFlr at ht
  simp only [Host.Outcome.next.injEq] at ht
  subst ht
  simp +contextual (maxDischargeDepth := 20) [*]

@[simp] theorem kept_vfDisable (hk : Kept s₀ s) :
    Kept s₀ (State.vfDisable s) := by
  unfold State.vfDisable
  simp +contextual (maxDischargeDepth := 20) [*]

theorem kept_execVfEnableClear (hk : Kept s₀ s)
    {t : State} (ht : (execVfEnableClear s) = .next t) : Kept s₀ t := by
  unfold execVfEnableClear at ht
  simp only [Host.Outcome.next.injEq] at ht
  subst ht
  simp +contextual (maxDischargeDepth := 20) [*]

theorem kept_execPfFlr (hk : Kept s₀ s)
    {t : State} (ht : (execPfFlr s) = .next t) : Kept s₀ t := by
  unfold execPfFlr at ht
  simp only [Host.Outcome.next.injEq] at ht
  subst ht
  simp +contextual (maxDischargeDepth := 20) [*]

@[simp] theorem kept_configSet (f : Nat) (x2 : ConfigReq) (hk : Kept s₀ s) :
    Kept s₀ (State.configSet s f x2) := by
  unfold State.configSet
  dsimp only
  (repeat' split) <;> simp_all +contextual (maxDischargeDepth := 20)

theorem kept_execConfigRequest (f : Nat) (req : ConfigReq) (hk : Kept s₀ s)
    {t : State} (ht : (execConfigRequest f req s) = .next t) : Kept s₀ t := by
  unfold execConfigRequest at ht
  split at ht
  · exact kept_next ht (kept_mk hk)
  · split at ht
    · exact kept_next ht (kept_mk hk)
    · split at ht
      · exact kept_next ht (kept_mk hk)
      · exact kept_next ht (kept_mk (kept_configSet _ _ hk))

theorem kept_execLinkTrainPcie (partnerRate : Nat) (width : Nat) (flit : Bool) (hk : Kept s₀ s)
    {t : State} (ht : (execLinkTrainPcie partnerRate width flit s) = .next t) : Kept s₀ t := by
  unfold execLinkTrainPcie at ht
  (try dsimp only at ht)
  repeat' split at ht
  all_goals
    simp only [Host.Outcome.next.injEq] at ht
    subst ht
    first | assumption | simp +contextual (maxDischargeDepth := 20) [*]

@[simp] theorem kept_pcieReset (hk : Kept s₀ s) :
    Kept s₀ (State.pcieReset s) := by
  unfold State.pcieReset
  simp +contextual (maxDischargeDepth := 20) [*]

theorem kept_execPerstN (asserted : Bool) (hk : Kept s₀ s)
    {t : State} (ht : (execPerstN asserted s) = .next t) : Kept s₀ t := by
  unfold execPerstN at ht
  (try dsimp only at ht)
  repeat' split at ht
  all_goals
    simp only [Host.Outcome.next.injEq] at ht
    subst ht
    first | assumption | simp +contextual (maxDischargeDepth := 20) [*]

theorem kept_execRegisterAccessError (f : Nat) (bar : Nat) (offset : Nat) (size : Nat) (isWrite : Bool) (hk : Kept s₀ s)
    {t : State} (ht : (execRegisterAccessError f bar offset size isWrite s) = .next t) : Kept s₀ t := by
  unfold execRegisterAccessError at ht
  (try dsimp only at ht)
  repeat' split at ht
  all_goals
    simp only [Host.Outcome.next.injEq] at ht
    subst ht
    first | assumption | simp +contextual (maxDischargeDepth := 20) [*]

@[simp] theorem kept_writeMbStatus (f : Nat) (v : Nat) (hk : Kept s₀ s) :
    Kept s₀ (State.writeMbStatus s f v) := by
  unfold State.writeMbStatus
  simp +contextual (maxDischargeDepth := 20) [*]

@[simp] theorem kept_writeMbCtl (f : Nat) (v : Nat) (hk : Kept s₀ s) :
    Kept s₀ (State.writeMbCtl s f v) := by
  unfold State.writeMbCtl
  simp +contextual (maxDischargeDepth := 20) [*]

@[simp] theorem kept_writeRecAddr (f : Nat) (v : Nat) (hk : Kept s₀ s) :
    Kept s₀ (State.writeRecAddr s f v) := by
  unfold State.writeRecAddr
  simp +contextual (maxDischargeDepth := 20) [*]

@[simp] theorem kept_writeMsix (f : Nat) (o : Nat) (w : Nat) (hk : Kept s₀ s) :
    Kept s₀ (State.writeMsix s f o w) := by
  unfold State.writeMsix
  simp +contextual (maxDischargeDepth := 20) [*]

@[simp] theorem kept_writeMsixAt (f : Nat) (o : Nat) (size : Nat) (v : Nat) (tableBytes : Nat) (hk : Kept s₀ s) :
    Kept s₀ (State.writeMsixAt s f o size v tableBytes) := by
  unfold State.writeMsixAt
  simp +contextual (maxDischargeDepth := 20) [*]

@[simp] theorem kept_writeEngCfg (b : Nat) (v : Nat) (hk : Kept s₀ s) :
    Kept s₀ (State.writeEngCfg s b v) := by
  unfold State.writeEngCfg
  simp +contextual (maxDischargeDepth := 20) [*]

@[simp] theorem kept_writeChanReg (ch : Nat) (o : Nat) (v : Nat) (hk : Kept s₀ s) :
    Kept s₀ (State.writeChanReg s ch o v) := by
  unfold State.writeChanReg
  repeat' split
  all_goals first | assumption | simp +contextual (maxDischargeDepth := 20) [*]

@[simp] theorem kept_writeBar0 (o : Nat) (size : Nat) (v : Nat) (hk : Kept s₀ s) :
    Kept s₀ (State.writeBar0 s o size v) := by
  unfold State.writeBar0
  dsimp only
  repeat' split
  all_goals first | assumption | simp +contextual (maxDischargeDepth := 20) [*]

@[simp] theorem kept_writeBar2 (f : Nat) (o : Nat) (size : Nat) (v : Nat) (hk : Kept s₀ s) :
    Kept s₀ (State.writeBar2 s f o size v) := by
  unfold State.writeBar2
  repeat' split
  all_goals first | assumption | simp +contextual (maxDischargeDepth := 20) [*]

theorem kept_execRegisterWrite (f : Nat) (bar : Nat) (offset : Nat) (size : Nat) (value : U64) (hk : Kept s₀ s)
    {t : State} (ht : (execRegisterWrite f bar offset size value s) = .next t) : Kept s₀ t := by
  unfold execRegisterWrite at ht
  (try dsimp only at ht)
  repeat' split at ht
  all_goals
    simp only [Host.Outcome.next.injEq] at ht
    subst ht
    first | assumption | simp +contextual (maxDischargeDepth := 20) [*]

end Sys2Proof.Machine
end

