-- ==== Sys2Proof/Laws/KeptLedger.lean ====
section
/-! SUPPORT. What the operations of Machine/Ledger.lean keep (Laws/Kept.lean). -/

namespace Sys2Proof.Machine

variable {s₀ s : State}

@[simp] theorem kept_addTo (i : Nat) (pj : Nat) (hk : Kept s₀ s) :
    Kept s₀ (State.addTo s i pj) := by
  unfold State.addTo
  simp +contextual (maxDischargeDepth := 20) [*]

@[simp] theorem kept_addEnergy (i : Nat) (pj : Nat) (hk : Kept s₀ s) :
    Kept s₀ (State.addEnergy s i pj) := by
  unfold State.addEnergy
  simp +contextual (maxDischargeDepth := 20) [*]

@[simp] theorem kept_closeStep (hk : Kept s₀ s) :
    Kept s₀ (State.closeStep s) := by
  unfold State.closeStep
  simp +contextual (maxDischargeDepth := 20) [*]

@[simp] theorem kept_report (r : Nat) (polder : Nat) (pj : Nat) (hk : Kept s₀ s) :
    Kept s₀ (State.report s r polder pj) := by
  unfold State.report
  simp +contextual (maxDischargeDepth := 20) [*]

@[simp] theorem kept_clearActivity (hk : Kept s₀ s) :
    Kept s₀ (State.clearActivity s) := by
  unfold State.clearActivity
  simp +contextual (maxDischargeDepth := 20) [*]

theorem kept_execEstimatorReport (energies : List Nat) (hk : Kept s₀ s)
    {t : State} (ht : (execEstimatorReport energies s) = .next t) : Kept s₀ t := by
  unfold execEstimatorReport at ht
  (try dsimp only at ht)
  repeat' split at ht
  all_goals
    simp only [Host.Outcome.next.injEq] at ht
    subst ht
    first | assumption | simp +contextual (maxDischargeDepth := 20) [*]

@[simp] theorem kept_railMs (x : RailSample) (loss : Nat) (rails : Nat) (hk : Kept s₀ s) :
    Kept s₀ (State.railMs s x loss rails) := by
  unfold State.railMs
  simp +contextual (maxDischargeDepth := 20) [*]

@[simp] theorem kept_telemetryEnergy (x : Telemetry) (hk : Kept s₀ s) : Kept s₀ (s.telemetryEnergy x) :=
  kept_ite _ (fun _ => kept_addEnergy _ _ hk) fun _ => kept_ite _ (fun _ => kept_addEnergy _ _
    (kept_foldl _ _ (fun _ _ h => kept_railMs _ _ _ h) hk)) fun _ => kept_foldl _ _ (fun _ _ h => kept_railMs _ _ _ h) hk

@[simp] theorem kept_telemetry (x : Telemetry) (hk : Kept s₀ s) : Kept s₀ (s.telemetry x) :=
  kept_noteLow (kept_mk (kept_telemetryEnergy _ (kept_mk hk)))

theorem kept_execTelemetryUpdate (t : Telemetry) (hk : Kept s₀ s)
    {t' : State} (ht : (execTelemetryUpdate t s) = .next t') : Kept s₀ t' := by
  unfold execTelemetryUpdate at ht
  split at ht
  · exact kept_next ht hk
  · have h := kept_telemetry t hk
    exact kept_next ht (kept_ite _ (fun _ => h) fun _ => kept_ite _ (fun _ => kept_plan (kept_updateCap h))
      fun _ => kept_updateCap h)

theorem kept_execPeakLimiter (hk : Kept s₀ s)
    {t : State} (ht : (execPeakLimiter s) = .next t) : Kept s₀ t := by
  unfold execPeakLimiter at ht
  (try dsimp only at ht)
  repeat' split at ht
  all_goals
    simp only [Host.Outcome.next.injEq] at ht
    subst ht
    first | assumption | simp +contextual (maxDischargeDepth := 20) [*]

theorem kept_execQuota (p : Nat) (hk : Kept s₀ s)
    {t : State} (ht : (execQuota p s) = .next t) : Kept s₀ t := by
  unfold execQuota at ht
  (try dsimp only at ht)
  repeat' split at ht
  all_goals
    simp only [Host.Outcome.next.injEq] at ht
    subst ht
    first | assumption | simp +contextual (maxDischargeDepth := 20) [*]

@[simp] theorem kept_freezeAvs (hk : Kept s₀ s) :
    Kept s₀ (State.freezeAvs s) := by
  unfold State.freezeAvs
  simp +contextual (maxDischargeDepth := 20) [*]

@[simp] theorem kept_avsTo (h : Nat) (v : ℤ) (hk : Kept s₀ s) :
    Kept s₀ (State.avsTo s h v) := by
  unfold State.avsTo
  simp +contextual (maxDischargeDepth := 20) [*]

theorem kept_execAvsLoop (h : Nat) (up : Bool) (hk : Kept s₀ s)
    {t : State} (ht : (execAvsLoop h up s) = .next t) : Kept s₀ t := by
  unfold execAvsLoop at ht
  (try dsimp only at ht)
  repeat' split at ht
  all_goals
    simp only [Host.Outcome.next.injEq] at ht
    subst ht
    first | assumption | simp +contextual (maxDischargeDepth := 20) [*]

@[simp] theorem kept_setLinkRate (n : Nat) (lo : Nat) (hi : Nat) (hk : Kept s₀ s) :
    Kept s₀ (State.setLinkRate s n lo hi) := by
  unfold State.setLinkRate
  simp +contextual (maxDischargeDepth := 20) [*]

theorem kept_execLoopBoundsSet (f : Nat) (hk : Kept s₀ s)
    {t : State} (ht : (execLoopBoundsSet f s) = .next t) : Kept s₀ t := by
  unfold execLoopBoundsSet at ht
  simp only [Host.Outcome.next.injEq] at ht
  subst ht
  first
    | refine kept_command _ _ _ hk fun s c h => ?_
    | refine kept_serve_ _ _ _ hk fun s c h => ?_
  repeat' split
  all_goals first | assumption | simp +contextual (maxDischargeDepth := 20) [*]

end Sys2Proof.Machine
end

