-- ==== Sys2Proof/Laws/KeptSluice.lean ====
section
/-! SUPPORT. What the operations of Machine/Sluice.lean keep (Laws/Kept.lean). -/

namespace Sys2Proof.Machine

variable {s₀ s : State}

@[simp] theorem kept_ringIn (cl : Nat) (now : Nat) (l : List Byte) (hk : Kept s₀ s) :
    Kept s₀ (State.ringIn s cl now l) := by
  unfold State.ringIn
  simp +contextual (maxDischargeDepth := 20) [*]

theorem kept_execSluiceEntryArrival (cl : Nat) (hk : Kept s₀ s)
    {t : State} (ht : (execSluiceEntryArrival cl s) = .next t) : Kept s₀ t := by
  unfold execSluiceEntryArrival at ht
  simp only [Host.Outcome.next.injEq] at ht
  subst ht
  split
  · refine kept_ite _ (fun _ => kept_devFail _ _ _ _ _ hk) fun _ => kept_ite _ (fun _ => kept_busFail _ _ _ _ _ hk) fun _ => ?_
    have h := fun ch n l => kept_progress (s₀ := s₀) ch (kept_ringIn cl n l hk)
    split
    · exact h _ _ _
    · exact kept_ite _ (fun _ => kept_ite _ (fun _ => kept_finishDesc _ _ _ (kept_onChan _ _ (h _ _ _)))
        fun _ => kept_onChan _ _ (h _ _ _)) fun _ => kept_walkEnd _ (h _ _ _)
  · exact hk

@[simp] theorem kept_ringOut (cl : Nat) (now : Nat) (hk : Kept s₀ s) :
    Kept s₀ (State.ringOut s cl now).2 := by
  unfold State.ringOut
  dsimp only
  repeat' split
  all_goals first | assumption | simp +contextual (maxDischargeDepth := 20) [*]

theorem kept_execSluiceEntryTaken (cl : Nat) (hk : Kept s₀ s)
    {t : State} (ht : (execSluiceEntryTaken cl s) = .next t) : Kept s₀ t := by
  unfold execSluiceEntryTaken at ht
  simp only [Host.Outcome.next.injEq] at ht
  subst ht
  repeat' split
  all_goals first | assumption | simp +contextual (maxDischargeDepth := 20) [*]

end Sys2Proof.Machine
end

