-- ==== Sys2Proof/WellFormed.lean ====
section
/-! DEFINITION. Which commands are well formed: every number that names a unit is one the module has, and every byte
string that arrives has the length the interface gives it (R14, R168, R296, R497). -/

namespace Sys2Proof

/-- Ranges of the unit numbers (R14, R276, R297). -/
def funcOk (f : Nat) : Bool := decide (f ≤ 24)
def polderOk (p : Nat) : Bool := decide (p ≤ 23)
def chanOk (ch : Nat) : Bool := decide (ch ≤ 255)
def clusterOk (cl : Nat) : Bool := decide (cl < 16128)
def coreOk (c : Nat) : Bool := decide (c < 1032192)
def dieOk (d : Nat) : Bool := decide (d < 12)
def halfDieOk (h : Nat) : Bool := decide (h < 24)
def edgeChanOk (e : Nat) : Bool := decide (e < 1024)
def stackOk (e : Nat) : Bool := decide (e < 32)
def linkOk (n : Nat) : Bool := decide (n < 96)
def railOk (r : Nat) : Bool := decide (r < 84)

/-- A core of the kind that executes or holds the command. -/
def tcoreOk (c : Nat) : Bool := coreOk c && decide (c % 64 < 48)
def vcoreOk (c : Nat) : Bool := coreOk c && decide (48 ≤ c % 64) && decide (c % 64 < 60)
def scoreOk (c : Nat) : Bool := coreOk c && decide (60 ≤ c % 64)

/-- Symbols of an under-core word are 0-35, those of an edge burst 0-71 and, for a basin word of the line that a
sector or line holds, 72-87 (R186, R204, R223). -/
def flipsOk (lim : Nat) (l : List SymErr) : Bool := l.all fun e => decide (e.symbol < lim) && e.flip != 0

/-- A requester's own number. -/
def requesterOk : Requester → Bool
  | .dma ch => chanOk ch
  | .host => true
  | .link n _ => linkOk n

/-- An access moves at least one byte, and one that stays inside a 4 KiB transfer (R200, R294). -/
def accessOk : Access → Bool
  | .read n => decide (0 < n) && decide (n ≤ 4096)
  | .write l => decide (0 < l.length) && decide (l.length ≤ 4096)

/-- A unit that can be fenced exists (R14, R422). -/
def fencedOk : FencedUnit → Bool
  | .cluster d c _ => dieOk d && decide (c < 1344)
  | .culvert d x p _ => dieOk d && decide (x < 48) && decide (p < 29)
  | .halfDie h _ => halfDieOk h

/-- One sample holds one reading of every sensor (R369). -/
def readingsOk (r : Readings) : Bool :=
  decide (r.logic.length = 1152) && decide (r.dram.length = 576) && decide (r.base.length = 64)
    && decide (r.stack.length = 128)

/-- A link has four lanes (R429). -/
def trialOk (t : LinkTrial) : Bool := decide (t.own < 16) && decide (t.theirs < 16)

/-- A flit has 640 bytes, and the control field two reserved bits (R433, R434). -/
def flitOk (f : Flit) : Bool := decide (f.bytes.length = 640) && decide (f.spare < 4)

/-- A well-formed command. -/
def Instr.wf : Instr → Bool
  | .hello f | .getStatus f | .polderCreate f _ | .polderDestroy f | .polderReset f _ | .scheduleLoad f
  | .scheduleUnload f | .jobRun f | .jobCancel f | .contextSave f | .contextRestore f | .memInitUcm f | .memInitEdge f
  | .memInitBasin f | .nearBankModeProcessor f | .nearBankModeMemory f | .kvSpaceConfig f | .capSet f | .quotaSet f
  | .ledgerRead f | .thermalPolicySet f | .loopBoundsSet f | .linkEnable f | .linkDisable f | .linkIdentity f
  | .linkWindow f | .linkInbound f | .linkTimesyncConfig f | .linkStatus f | .attest f | .identityCertRead f
  | .firmwareStage f | .firmwareCommit f _ | .logRead f | .repairStage f | .repairCommit f | .diagWarmReset f
  | .halfDieTest f _ | .edgeRetrain f | .badOpcode f | .partialMessageTimeout f | .tagMemoryExpiry f _ _
  | .ringReread f | .busMasterEnableSet f | .mbH2D f _ | .mbD2H f | .mbDoorbell f _ | .firmwareNotification f
  | .floodgate f _ | .configRequest f _ => funcOk f
  | .enable f ch _ | .dmaDisable f ch _ | .resume f ch _ | .tail f ch _ => funcOk f && chanOk ch
  | .registerWrite f bar off size _ => funcOk f && (bar == 0 || bar == 2) && decide (off < 2 ^ 25) && (size == 4 || size == 8)
  | .registerAccessError f bar off _ _ => funcOk f && (bar == 0 || bar == 2) && decide (off < 2 ^ 25)
  | .msixVectorUnmask f v => funcOk f && decide (v < 512)
  | .polderCreateComplete p | .polderResetComplete p | .contextSaveCopy p | .admissionTimeout p | .jobStart p | .jobEnd p
  | .jobTimeout p | .slotEntryAdvance p | .routerSlot p _ | .holdRelease p | .quota p => polderOk p
  | .fgPf _ | .mailboxPoll | .pmpReset _ | .pmpWatchdog | .perstN _ | .pfFlr | .vfEnableClear | .plannerRun => true
  | .floodgateComplete k p => k == 1 && decide (p < 24) || k == 2 && p == 31
  | .floodgateDrained t => decide (t ≤ 31)
  | .cdcWatchdog d | .cdcRestartComplete d | .ucmScrubPassEnd d | .ucmSelfRefreshEntry d => dieOk d
  | .dmaOwner ch _ | .descriptorFetch ch | .copy ch | .psplit ch | .pjoin ch | .intlv ch | .deintlv ch | .toSluice ch
  | .fromSluice ch | .nbcmd ch | .kvwalk ch | .nop ch | .descriptorWriteBack ch | .descriptorTimeout ch | .heldRetry ch
  | .busError ch _ _ _ _ | .deviceAccessError ch _ _ _ => chanOk ch
  | .nbCompletion e | .edgeRetrainStart e | .edgeRetrainEnd e _ | .edgeRefresh e | .nbWrite e | .nbRead e | .nbFill e
  | .nbCopy e | .nbAppend e | .nbScores e | .nbAttend e | .nbSync e => edgeChanOk e
  | .edgeLineMark e l => edgeChanOk e && decide (l < 72)
  | .edgeScrubRequest e fl => edgeChanOk e && flipsOk 72 fl
  | .nbDispatch k => stackOk k
  | .bar4Win i _ => decide (i < 4)
  | .vfMap v _ => decide (1 ≤ v) && decide (v ≤ 24)
  | .vfFlr v => decide (1 ≤ v) && decide (v ≤ 24)
  | .bar4Read _ n => decide (0 < n) && decide (n ≤ 4096)
  | .bar4Write _ l => decide (0 < l.length) && decide (l.length ≤ 4096)
  | .bar4AtomicOp _ => true
  | .linkTrainPcie _ w _ => [1, 2, 4, 8, 16].contains w
  | .tideMark h | .napEntry h | .avsLoop h _ => halfDieOk h
  | .scoreInstruction c | .ebreak c | .sat c | .sati c | .sdone c | .tiss c | .viss c | .sin c | .sout c | .sack c
  | .spost c | .rpage c | .rwr c | .srdc c | .sfill c | .swrite c | .sfwd c | .sfilli c | .snote c => scoreOk c
  | .tfill c | .tmma c | .tdrain c | .twrite c => tcoreOk c
  | .vadd c | .vsub c | .vmul c | .vfma c | .vmin c | .vmax c | .vcmp c | .vsel c | .vabs c | .vexp2 c | .vlog2 c
  | .vrcp c | .vrsqrt c | .vtanh c | .vdiv c | .vcvt c | .vqmx c | .vqt2 c | .vdq c | .vrsum c | .vrmax c | .vrmin c
  | .vshuf c | .vgather c | .vrand c | .vunif c | .vtopk c | .vtopkm c | .vsamp c | .vfill c | .vwrite c | .vfwd c
  | .vsend c | .vcopy c => vcoreOk c
  | .snoteForward cl | .sluiceEntryArrival cl | .sluiceEntryTaken cl => clusterOk cl
  | .ucmWordArrival c fl | .ucmScrubRequest c fl => coreOk c && flipsOk 36 fl
  | .ucmRefresh d l _ => dieOk d && decide (l < 4)
  | .ucmApertureAccess w _ a fl => requesterOk w && accessOk a && flipsOk 36 fl
  | .mergeRetire c w fl => coreOk c && decide (w < 24576) && flipsOk 36 fl
  | .edgeAccess w _ a fl => requesterOk w && accessOk a && flipsOk 88 fl
  | .sectorRead w _ fl => requesterOk w && flipsOk 88 fl
  | .sensorSample r => readingsOk r
  | .flowPulseEdge _ | .flowPulseTimeout | .coolantHoldExit | .hardwareTrip _ _ | .thermalResistanceUpdate | .rotation
  | .estimatorReport _ | .telemetryUpdate _ | .peakLimiter => true
  | .avsbusAck r | .avsNoack r => railOk r
  | .p1Entry | .p1Wake | .p2Entry _ | .p2Exit _ | .p3Entry _ | .p3Exit _ | .wakeReplay | .supplySag _ | .sagRecovery _
  | .lockout | .coldBringUp _ | .warmBringUp _ | .crystalTimeout | .romStart _ _ | .fuseBurn => true
  | .fence u => fencedOk u
  | .linkDetect n t | .linkRetrain n _ t | .linkRateReturn n t => linkOk n && trialOk t
  | .dataFlit n f _ | .nak n f _ | .credit n f _ | .ident n f _ | .idleFlit n f _ | .timesyncReceive n f _
  | .timesyncAnswer n f _ => linkOk n && flitOk f
  | .linkTrainingTimeout n | .linkRetry n | .replayTimer n | .rdReq n | .wrReq n | .rdRsp n | .wrAck n | .nakRsp n
  | .creditReturn n | .noPartnerTimeout n => linkOk n
  | .timesync | .timesyncLoss | .syncIn | .syncOutPulse | .syncInLoss | .refclkLoss
  | .refclkReturn | .mode _ | .loadArm _ => true
  | .dbgChallenge n => decide (n.length = 32)
  | .dbgResponse r => decide (r.keyIndex < 4) && decide (r.publicKey.length = 1952) && decide (r.signature.length = 3309)
  | .dbgChallengeExpiry | .dieBist _ | .loopback | .trainReport _ => true
  | .clearFaults | .capability | .statusWord | .statusTemperature | .readVin | .readIin | .readTemperature1
  | .readTemperature2 | .readTemperature3 | .readPin | .pmbusRevision | .mfrId | .mfrModel | .mfrWake | .mfrPkgState
  | .mfrEnergy | .mfrBootStatus | .mfrEffCap | .mfrHotDram | .smbusBadTransaction _ => true

end Sys2Proof
end

