-- ==== Sys2Proof/Tests/Slice0.lean ====
section
/-! SUPPORT. Tests: ill-formed commands are refused, values from published standards and from the examples of the spec,
and for every statement a state and operands that meet its hypotheses. -/

namespace Sys2Proof.Machine.Tests

-- One test after another: each waits for the one before in any case.
set_option Elab.async false

/-! ### States to test on -/

/-- A module that has come up: firmware runs. -/
def live : State :=
  { State.reset with
    power := { aon := true, management := true, culverts := true, vin := 48000, vinMin := 48000 }
    boot := { done := true }
    trust := { running := true } }

/-- Function `f` of a live module. -/
def liveFunc (f : Nat) (x : Func) : State := { live with funcs := [(f, x)] }

/-- Firmware is about to take a message from function `f`. -/
def asks (s : State) (f opc flags : Nat) (args : List Word) : State :=
  { s with funcs := [(f, {
    bme := true, inbox := [⟨7, opc, flags, args⟩]
    ring := some { addr := 64, size := 4, vector := 0, eventVector := 0, consAddr := 0, next := 0, cons := 0, phase := true } })] }

/-- The command that `asks` makes of a message without a block. -/
def cmd (f opc : Nat) (args : List Nat) : Cmd := { func := f, tag := 7, opc := opc, notify := false, args := args }

/-- The state without the message. -/
def taken (s : State) (f opc flags : Nat) (args : List Word) : State :=
  (asks s f opc flags args).onFunc f fun x => { x with inbox := [] }

theorem asks_takes_by {mine : Nat → Nat → Bool} {s : State} {f opc flags : Nat} {args : List Word} {c : Cmd}
    (h0 : mine opc (⟨7, opc, flags, args⟩ : Msg).a1 = true := by decide)
    (h1 : (asks s f opc flags args).mailOpen f = true := by decide)
    (h2 : (taken s f opc flags args).checked f ⟨7, opc, flags, args⟩ = .ok c := by rfl) :
    (asks s f opc flags args).Takes f mine c (taken s f opc flags args) := by
  have h3 : (asks s f opc flags args).func f =
      { bme := true, inbox := [⟨7, opc, flags, args⟩]
        ring := some { addr := 64, size := 4, vector := 0, eventVector := 0, consAddr := 0, next := 0, cons := 0, phase := true } } := by
    unfold asks State.func Sparse.get
    rw [if_pos rfl]
  have h4 : ((asks s f opc flags args).func f).inbox = [⟨7, opc, flags, args⟩] := by rw [h3]
  have h5 : ((asks s f opc flags args).func f).bme = true := by rw [h3]
  have h6 : ((asks s f opc flags args).func f).stuffed = false := by rw [h3]; rfl
  exact ⟨_, _, h4, h1, h0, fun _ => h5, h6, rfl, h2⟩

theorem asks_takes {s : State} {f opc flags : Nat} {args : List Word} {c : Cmd}
    (h1 : (asks s f opc flags args).mailOpen f = true := by decide)
    (h2 : (taken s f opc flags args).checked f ⟨7, opc, flags, args⟩ = .ok c := by rfl) :
    (asks s f opc flags args).TakesOp f opc c (taken s f opc flags args) :=
  asks_takes_by (beq_self_eq_true opc) h1 h2

theorem hostOk_any (s : State) (he : s.hostErr = []) (f a n : Nat) : s.hostOk f a n = true := by
  unfold State.hostOk
  rw [he]
  simp

/-- A message whose block begins with `head`, naming the output buffer `out`, passes the checks of R333. -/
theorem block_checked (u : State) (f : Nat) (m : Msg) (sh : Shape) (head body : List Byte) (out outLen : Nat)
    (h0 : (!u.trust.running && m.opc != 0x01 && m.opc != 0x62) = false) (hs : shapeOf m.opc m.a1 = some sh)
    (hb : m.block = true) (hr : u.hostRead f m.blockAddr (64 * m.blen) = some (head ++ body)) (hl : head.length = 64)
    (e1 : fieldAt head 0 8 = out) (e2 : fieldAt head 8 4 = outLen) (e3 : ((head.drop 12).any fun b => b != 0) = false)
    (e4 : (bits out 1 5 != 0) = false) (e5 : (out != 0 && outLen == 0) = false)
    (h1 : (m.args.isEmpty || m.inline_.isEmpty || (match sh.words with
        | some n => m.inline_.length != n
        | none => false) || m.blen == 0) = false)
    (h2 : (bit m.flags 2 || bit m.flags 3 || sh.block == .never || (m.inline_.zip sh.reserved).any fun x => x.1 &&& x.2 != 0) = false)
    (h3 : u.denied f m sh.issuer = false) (h4 : (m.blockAddr % 64 != 0) = false)
    (hn : decide (body.length < blockNeeds m.opc body) = false) :
    u.checked f m = .ok { func := f, tag := m.tag, opc := m.opc, notify := bit m.flags 1, args := m.inline_, block := true, body := body
                          out := out, outLen := outLen } := by
  have g1 : fieldAt (head ++ body) 0 8 = out := by
    rw [← e1]
    simp [fieldAt, List.take_append, hl]
  have g2 : fieldAt (head ++ body) 8 4 = outLen := by
    rw [← e2]
    simp [fieldAt, List.drop_append, List.take_append, hl]
  have g3 : ((((head ++ body).take 64).drop 12).any fun b => b != 0) = false := by rw [← hl, List.take_left, e3]
  have g4 : (head ++ body).drop 64 = body := by rw [← hl, List.drop_left]
  simp only [Bool.or_eq_false_iff] at h1 h2
  obtain ⟨⟨⟨h1a, h1b⟩, h1c⟩, h1d⟩ := h1
  obtain ⟨⟨⟨h2a, h2b⟩, h2c⟩, h2d⟩ := h2
  rcases sh with ⟨iss, use, _ | w, res⟩ <;>
  · unfold State.checked
    rw [h0, hs]
    simp only [hb, hr, h1a, h1b, h1d, h2a, h2b, h2c, h2d, h3, h4, g1, g2, g3, g4, e4, e5, hn, Option.getD_some, if_true, Bool.or_false,
      Bool.false_eq_true, if_false, Bool.not_true, Bool.false_and, Bool.and_false, Option.isNone_some, firstFail]
    try simp only [bne_eq_false_iff_eq] at h1c
    try simp [h1c]

/-- The first 64 bytes of a block that names an output buffer. -/
def outHead (out outLen : Nat) : List Byte := leBytes 8 out ++ leBytes 4 outLen ++ zeros 52

/-- What a block command with its block at host address 4,096 takes. -/
theorem out_takes (s : State) (f opc : Nat) (n : Word) (args : List Word) (sh : Shape) (body : List Byte) (out outLen : Nat)
    (e1 : fieldAt (outHead out outLen) 0 8 = out := by decide) (e2 : fieldAt (outHead out outLen) 8 4 = outLen := by decide)
    (e4 : (bits out 1 5 != 0) = false := by decide) (e5 : (out != 0 && outLen == 0) = false := by decide)
    (hl : 64 * n.toNat = (outHead out outLen ++ body).length := by decide)
    (he : s.hostErr = [] := by rfl) (hm : s.hostMem = Memory.write [] 4096 (outHead out outLen ++ body) := by rfl)
    (h1 : (asks s f opc 1 (4096 :: 0 :: n :: args)).mailOpen f = true := by rfl)
    (h0 : (!s.trust.running && opc != 0x01 && opc != 0x62) = false := by decide)
    (hs : shapeOf opc (nth 0 (args.map BitVec.toNat) 0) = some sh := by rfl)
    (h2 : (args.isEmpty || (match sh.words with
        | some k => args.length != k
        | none => false) || n.toNat == 0) = false := by decide)
    (h3 : (sh.block == .never || ((args.map BitVec.toNat).zip sh.reserved).any fun x => x.1 &&& x.2 != 0) = false := by decide)
    (h4 : (taken s f opc 1 (4096 :: 0 :: n :: args)).denied f ⟨7, opc, 1, 4096 :: 0 :: n :: args⟩ sh.issuer = false := by rfl)
    (h5 : decide (body.length < blockNeeds opc body) = false := by decide +kernel) :
    (asks s f opc 1 (4096 :: 0 :: n :: args)).TakesOp f opc
      { cmd f opc (args.map BitVec.toNat) with block := true, body := body, out := out, outLen := outLen }
      (taken s f opc 1 (4096 :: 0 :: n :: args)) := by
  have hb : (⟨7, opc, 1, 4096 :: 0 :: n :: args⟩ : Msg).block = true := by show bit 1 0 = true; decide
  have hi : (⟨7, opc, 1, 4096 :: 0 :: n :: args⟩ : Msg).inline_ = args.map BitVec.toNat := by
    unfold Msg.inline_
    rw [hb]
    rfl
  have ha : (⟨7, opc, 1, 4096 :: 0 :: n :: args⟩ : Msg).blockAddr = 4096 := by simp [Msg.blockAddr, Msg.arg, nth]
  have hn : (⟨7, opc, 1, 4096 :: 0 :: n :: args⟩ : Msg).blen = n.toNat := by simp [Msg.blen, Msg.arg, nth]
  have h0' : (!(taken s f opc 1 (4096 :: 0 :: n :: args)).trust.running && opc != 0x01 && opc != 0x62) = false := h0
  have hr : (taken s f opc 1 (4096 :: 0 :: n :: args)).hostRead f 4096 (64 * n.toNat) = some (outHead out outLen ++ body) := by
    have e : (taken s f opc 1 (4096 :: 0 :: n :: args)).hostMem = Memory.write [] 4096 (outHead out outLen ++ body) := hm
    unfold State.hostRead
    rw [hostOk_any (taken s f opc 1 (4096 :: 0 :: n :: args)) he, e, hl, Memory.read_write]
    rfl
  have hk := block_checked (taken s f opc 1 (4096 :: 0 :: n :: args)) f ⟨7, opc, 1, 4096 :: 0 :: n :: args⟩ sh (outHead out outLen)
    body out outLen h0' (by rw [Msg.a1, hi]; exact hs) hb (by rw [ha, hn]; exact hr) (by simp [outHead, leBytes, zeros]) e1 e2
    (by simp [outHead, leBytes, zeros]) e4 e5 (by rw [hi, hn]; simpa using h2) (by rw [hi]; simpa [bit] using h3) h4 (by rw [ha]; decide) h5
  rw [hi] at hk
  exact asks_takes h1 (by rw [hk]; simp [cmd, bit])

/-- The same with no output buffer. -/
theorem block_takes (s : State) (f opc : Nat) (n : Word) (args : List Word) (sh : Shape) (body : List Byte)
    (hl : 64 * n.toNat = (outHead 0 0 ++ body).length := by decide)
    (he : s.hostErr = [] := by rfl) (hm : s.hostMem = Memory.write [] 4096 (outHead 0 0 ++ body) := by rfl)
    (h1 : (asks s f opc 1 (4096 :: 0 :: n :: args)).mailOpen f = true := by rfl)
    (h0 : (!s.trust.running && opc != 0x01 && opc != 0x62) = false := by decide)
    (hs : shapeOf opc (nth 0 (args.map BitVec.toNat) 0) = some sh := by rfl)
    (h2 : (args.isEmpty || (match sh.words with
        | some k => args.length != k
        | none => false) || n.toNat == 0) = false := by decide)
    (h3 : (sh.block == .never || ((args.map BitVec.toNat).zip sh.reserved).any fun x => x.1 &&& x.2 != 0) = false := by decide)
    (h4 : (taken s f opc 1 (4096 :: 0 :: n :: args)).denied f ⟨7, opc, 1, 4096 :: 0 :: n :: args⟩ sh.issuer = false := by rfl)
    (h5 : decide (body.length < blockNeeds opc body) = false := by decide +kernel) :
    (asks s f opc 1 (4096 :: 0 :: n :: args)).TakesOp f opc { cmd f opc (args.map BitVec.toNat) with block := true, body := body }
      (taken s f opc 1 (4096 :: 0 :: n :: args)) :=
  out_takes s f opc n args sh body 0 0 (by decide) (by decide) (by decide) (by decide) hl he hm h1 h0 hs h2 h3 h4 h5

/-- A polder of one half-die column. -/
def live1 (p : Polder) : State := { live with polders := [(0, p)] }

theorem func_other (s : State) (f g : Nat) (x : Func) (h : g ≠ f) : ({ s with funcs := [(f, x)] } : State).func g = {} := by
  simp [State.func, Sparse.get, Ne.symm h]

/-- A schedule image for a polder of one half-die, written out field by field from R123-R132: one code segment of one
instruction for S-core 60 of every cluster.  Its digest was computed by another implementation of FIPS 202. -/
def image : List Byte :=
    [81, 83, 67, 72, 1, 0, 4, 0, 192, 3, 0, 0, 1, 8, 0, 0, 17, 7] ++ zeros 46 ++ [104, 153, 121, 146, 167, 108,
    132, 57, 79, 84, 102, 186, 184, 72, 228, 149, 116, 69, 92, 48, 81, 75, 145, 106, 121, 189, 0, 35, 22, 159,
    122, 27] ++ zeros 32 ++ [1] ++ zeros 3 ++ [1] ++ zeros 3 ++ [192] ++ zeros 3 ++ [16] ++ zeros 3 ++ [2] ++
    zeros 3 ++ [16] ++ zeros 4 ++ [1, 0, 0, 16, 2, 0, 0, 4] ++ zeros 3 ++ [1] ++ zeros 3 ++ [64, 3, 0, 0, 16] ++
    zeros 3 ++ [5] ++ zeros 3 ++ [1] ++ zeros 3 ++ [128, 3, 0, 0, 16] ++ zeros 3 ++ [17, 7] ++ zeros 6 ++ [6, 40,
    4, 4] ++ zeros 4 ++ [19] ++ zeros 47 ++ [1] ++ zeros 15 ++ [232, 3] ++ zeros 6 ++ [232, 3] ++ zeros 6 ++ [100]
    ++ zeros 543 ++ [1] ++ zeros 3 ++ [4] ++ zeros 3 ++ [208] ++ zeros 59 ++ [60, 1, 1] ++ zeros 5 ++ [23, 0, 27]
    ++ zeros 49

/-- An empty polder of half-die 0. -/
def polder1 : Polder := { state := .empty, w := 1, h := 1, rows := 28, widths := [] }

/-- A live module with a polder of half-die 0, and a command's body at host address 4,096. -/
def withBody (p : Polder) (body : List Byte) : State := { live1 p with hostMem := Memory.write [] 4096 (outHead 0 0 ++ body) }

/-- A job of polder 0. -/
def job (x : JobPhase) : Job :=
  { func := 0, tag := 9, opc := 0x22, arg := 5, timeoutMs := 1000, admitMs := 1000, order := 0, arrival := 0, outAddr := 0
    outLen := 0, maps := [], context := [], phase := x }

/-- A polder whose job has come so far, with one S-core that has not ended. -/
def withJob (x : JobPhase) : State :=
  { live1 { polder1 with state := .running, job := some (job x) } with scores := [(60, { ended := false, pc := 4 })] }

/-- An S-core that is about to execute the instruction word `w`. -/
def fetching (w : Nat) (regs : Sparse Word) (dmem : Memory) : SCore :=
  { ended := false, imem := Memory.write [] 0 (leBytes 4 w), regs := regs, dmem := dmem }

/-- A running polder in slot 5 whose S-core `k` of cluster 0 is `x`. -/
def scoring (k : Nat) (x : SCore) : State :=
  { live1 { polder1 with state := .running, image := image, job := some (job .running), slot := 5, cycle := 64 } with
    scores := [(k, x)]
    ucmDies := [(0, { on := true, band := 1 })] }

/-- A word of the slot extension (R116): funct7, rs2, rs1, funct3, rd over the custom opcode 0x0B. -/
def slotWord (f7 rs2 rs1 f3 rd : Nat) : Nat := f7 * 2 ^ 25 + rs2 * 2 ^ 20 + rs1 * 2 ^ 15 + f3 * 2 ^ 12 + rd * 2 ^ 7 + 0x0B

/-- A TMMA of one entry over four INT8 products, from SRAM 0 and 16 (R78). -/
def tmmaWord : Nat := 2 + 6 * 2 ^ 4 + 1 * 2 ^ 10 + 4 * 2 ^ 17 + 1 * 2 ^ 24 + 1 * 2 ^ 33 + 1 * 2 ^ 54

/-- A VADD of eight FP32 elements at words 0 and 128 into word 64 (R87). -/
def vaddWord : Nat := 0x01 + 8 * 2 ^ 20 + 64 * 2 ^ 33 + 128 * 2 ^ 64

/-- Cluster 0 of `scoring` is `c`. -/
def withCluster (s : State) (c : Cluster) : State := { s with clusters := [(0, c)] }

/-- Core 0 of a live module with one T-core operation, and core 48 with one V-core operation. -/
def withOps (t v : Nat) : State :=
  { live with
    tcores := [(0, { ops := [{ word := BitVec.ofNat 128 t }] })]
    vcores := [(48, { ops := [{ word := BitVec.ofNat 128 v }] })]
    ucmDies := [(0, { on := true, band := 1 })] }

/-- Every stack is powered. -/
def withStacks (s : State) : State := { s with edgeStacks := (List.range 32).map fun k => (k, ({ on := true } : Stack)) }

/-- A descriptor: word 0 with OWN, an operation and a length, and its source and destination (R278). -/
def descOf (op len src dst : Nat) : Desc := ⟨0, leBytes 8 (1 + op * 2 ^ 8 + len * 2 ^ 16) ++ leBytes 8 src ++ leBytes 8 dst ++ zeros 40⟩

/-- Function 0 may make host requests, and channel 0 is `c`. -/
def withChan (c : DmaCh) : State := { live with funcs := [(0, { bme := true })], dma := [(0, c)] }

/-! ### The machine and the mailboxes -/

theorem witness_idle : State.reset.pending = [] := rfl

theorem witness_canonical : State.reset.Canonical ∧ step State.reset = .next State.reset.tick :=
  ⟨⟨rfl, rfl, rfl⟩, rfl⟩

theorem witness_mailOpen : (liveFunc 0 {}).mailOpen 0 = true ∧ (State.reset.power.management = false) := by decide

theorem witness_mailbox_queue_full :
    (liveFunc 3 { h2d := List.replicate 16 5 }).mailOpen 3 = true
      ∧ ¬((liveFunc 3 { h2d := List.replicate 16 5 }).func 3).h2d.length < 16 := by decide

theorem witness_words_wait : ∃ (s : State) (f : Nat) (h : Word) (args : List Word), (∀ g, g ≠ f → (s.func g).h2d = [])
    ∧ s.mailOpen f = true ∧ (s.func f).h2d = h :: args ∧ args.length = bits h.toNat 0 4 ∧ (s.func f).partialWords = []
    ∧ (s.func f).h2dLost = false ∧ (s.func f).heldCompletions < 64 ∧ (s.func f).tags.length < 64
    ∧ (∀ m ∈ (s.func f).tags, ¬(m.tag = bits h.toNat 16 16 ∧ m.opc = bits h.toNat 8 8))
    ∧ (s.func f).notified = true ∧ f < 25 :=
  ⟨liveFunc 24 { h2d := [0x00070201, 3], notified := true }, 24, 0x00070201, [3], fun g hg => by rw [liveFunc, func_other _ _ _ _ hg],
    by decide +kernel⟩

theorem witness_partial_words : (liveFunc 0 { partialWords := [0x00070203, 1] }).mailOpen 0 = true
    ∧ ((liveFunc 0 { partialWords := [0x00070203, 1] }).func 0).partialWords = [0x00070203, 1] := by decide

theorem witness_ring : ∃ (s : State) (f : Nat) (r : Ring), (s.func f).ring = some r ∧ r.full = false ∧ (s.func f).bme = true
    ∧ (s.func f).due = [] ∧ s.hostOk f (r.addr + 32 * r.next) 32 = true ∧ s.trust.running = true :=
  ⟨liveFunc 1 { bme := true, ring := some { addr := 64, size := 2, vector := 0, eventVector := 0, consAddr := 0, next := 0, cons := 0, phase := true } },
    1, _, rfl, by decide⟩

theorem witness_refused : ∃ (s : State) (f : Nat) (m : Msg) (st : Status), (s.func f).inbox = [m] ∧ s.mailOpen f = true
    ∧ (m.block = true → (s.func f).bme = true) ∧ (s.func f).heldCompletions < 64 ∧ m.opc = 0x40
    ∧ (s.onFunc f fun x => { x with inbox := [] }).checked f m = .error st :=
  ⟨asks live 3 0x40 0 [1200, 6000, 30], 3, ⟨7, 0x40, 0, [1200, 6000, 30]⟩, .denied, by decide, by decide, by decide, by decide, rfl, by rfl⟩

theorem witness_bad_opcode : ∃ (s : State) (f : Nat) (m : Msg), (s.func f).inbox = [m] ∧ s.mailOpen f = true
    ∧ (m.block = true → (s.func f).bme = true) ∧ (s.func f).heldCompletions < 64
    ∧ shapeOf m.opc m.a1 = none ∧ s.trust.running = true :=
  ⟨asks live 0 0x03 0 [1], 0, ⟨7, 0x03, 0, [1]⟩, by decide⟩

theorem witness_bad_form : ∃ (s : State) (f : Nat) (m : Msg) (c : Cmd), (s.func f).inbox = [m] ∧ s.mailOpen f = true
    ∧ (m.block = true → (s.func f).bme = true) ∧ (s.func f).heldCompletions < 64
    ∧ (∃ sh, shapeOf m.opc m.a1 = some sh ∧ sh.words = none)
    ∧ (s.onFunc f fun x => { x with inbox := [] }).checked f m = .ok c :=
  ⟨asks live 0 0x50 0 [9], 0, ⟨7, 0x50, 0, [9]⟩, cmd 0 0x50 [9], by decide, by decide, by decide, by decide, ⟨_, rfl, rfl⟩, by rfl⟩

theorem witness_hello : ∃ (s u : State) (f : Nat) (c : Cmd), s.TakesOp f 0x01 c u ∧ s.trust.running = true
    ∧ bits (c.a 3) 0 16 ≠ 0 ∧ c.a64 1 % 64 = 0 ∧ c.a64 5 % 8 = 0 ∧ bits (c.a 3) 16 9 < vectorsOf f
    ∧ bits (c.a 4) 0 9 < vectorsOf f ∧ f = 0 ∧ s.recordDue = true :=
  ⟨asks { live with recordDue := true } 0 0x01 0 [64, 0, 0x01FF0001, 511, 8, 0], _, 0, cmd 0 0x01 [64, 0, 0x01FF0001, 511, 8, 0],
    asks_takes, by decide, by decide, by decide, by decide, by decide, by decide, rfl, rfl⟩

theorem witness_hello_vf : ∃ (s u : State) (f : Nat) (c : Cmd), s.TakesOp f 0x01 c u ∧ s.trust.running = true
    ∧ bits (c.a 3) 0 16 ≠ 0 ∧ c.a64 1 % 64 = 0 ∧ c.a64 5 % 8 = 0 ∧ bits (c.a 3) 16 9 < vectorsOf f
    ∧ bits (c.a 4) 0 9 < vectorsOf f ∧ f ≠ 0 :=
  ⟨asks live 24 0x01 0 [0, 1, 0x003F0001, 63, 8, 0], _, 24, cmd 24 0x01 [0, 1, 0x003F0001, 63, 8, 0],
    asks_takes, by decide⟩

/-! ### Schedule images -/

/-- SHAKE256 of the empty message, from FIPS 202. -/
theorem test_shake256_empty : (shake256 32 []).map BitVec.toNat =
    [0x46, 0xB9, 0xDD, 0x2B, 0x0B, 0xA8, 0x8D, 0x13, 0x23, 0x3B, 0x3F, 0xEB, 0x74, 0x3E, 0xEB, 0x24,
     0x3F, 0xCD, 0x52, 0xEA, 0x62, 0xB8, 0x1B, 0x82, 0xB5, 0x0C, 0x27, 0x64, 0x6E, 0xD5, 0x76, 0x2F] := by decide +kernel

theorem test_image_passes : State.reset.imageCheck polder1 image = none := by decide +kernel

theorem test_image_core_64_refused : imgPlaceCheck (patch image 0x384 [64]) = some .bound := by decide +kernel

/-! ### Polder commands -/

theorem witness_polder_create : ∃ (s u : State) (f : Nat) (c : Cmd), s.TakesOp f 0x10 c u ∧
    let p : Polder := { state := .empty, c0 := bits (c.a 1) 0 4, r0 := bits (c.a 1) 4 1, w := bits (c.a 1) 8 4, h := bits (c.a 1) 12 2 }
    let rows := (p.halfDies.map fun h => (s.halfDie h).rows).foldl min 28
    p.w ≠ 0 ∧ p.h ≠ 0 ∧ p.c0 + p.w ≤ 12 ∧ p.r0 + p.h ≤ 2 ∧ (∀ h ∈ p.halfDies, s.polderOf h = 31 ∧ s.dieShut h = false) ∧ rows ≠ 0
      ∧ s.thermal.coolantHold = false ∧ s.power.pkg ≠ .p2 ∧ 23 < 24 ∧ (s.polder 23).state = .none
      ∧ ∀ k < 23, (s.polder k).state ≠ .none :=
  ⟨asks { live with polders := (List.range 23).map fun k => (k, ({ state := .empty } : Polder)) } 0 0x10 0 [0x2C00], _, 0,
    cmd 0 0x10 [0x2C00], asks_takes, by decide +kernel⟩

theorem witness_polder_create_complete : ∃ (s : State) (p : Nat) (c : InFlight), (s.polder p).command = some c ∧ c.opc = 0x10
    ∧ (s.polder p).state = .empty ∧ (s.polder p).atMark = true ∧ ∀ h ∈ (s.polder p).halfDies, (s.halfDie h).power ≠ .off :=
  ⟨{ live1 { polder1 with atMark := true, command := some { func := 0, tag := 7, opc := 0x10 } } with
      halfDies := [(0, { power := .idle })] }, 0, _, rfl, by decide +kernel⟩

theorem witness_polder_destroy : ∃ (s u : State) (f : Nat) (c : Cmd), s.TakesOp f 0x11 c u ∧ u.polderFail (c.a 1) true = none
    ∧ (s.polder (c.a 1)).state ≠ .running ∧ ∀ j, (s.polder (c.a 1)).job = some j → j.phase ≠ .running :=
  ⟨asks (live1 { polder1 with state := .halted }) 0 0x11 0 [0], _, 0, cmd 0 0x11 [0], asks_takes,
    by decide +kernel, by decide +kernel, fun _ h => nomatch h⟩

theorem witness_polder_reset : ∃ (s u : State) (f : Nat) (c : Cmd), s.TakesOp f 0x12 c u ∧ u.polderFail (c.a 1) true = none
    ∧ (∀ h ∈ (s.polder (c.a 1)).halfDies, s.dieShut h = false)
    ∧ ((s.polder (c.a 1)).state = .halted → (s.polder (c.a 1)).job = none) :=
  ⟨asks { live1 { polder1 with state := .halted } with vfMap := Sparse.set 31 [] 3 0 } 3 0x12 0 [0], _, 3, cmd 3 0x12 [0],
    asks_takes, by decide +kernel⟩

theorem witness_polder_reset_complete : ∃ (s : State) (p : Nat) (c : InFlight), (s.polder p).command = some c ∧ c.opc = 0x12
    ∧ (s.polder p).state = .resetting ∧ (s.polder p).atMark = true
    ∧ ∀ h ∈ (s.polder p).halfDies, (s.halfDie h).power ≠ .off :=
  ⟨{ live1 { polder1 with state := .resetting, atMark := true, command := some { func := 0, tag := 7, opc := 0x12 } } with
      halfDies := [(0, { power := .idle })] }, 0, _, rfl, by decide +kernel⟩

theorem witness_get_status : ∃ (s u : State) (c : Cmd), s.TakesOp 0 0x02 c u ∧ c.a 1 < 24 ∧ s.gated (c.a 1) = false ∧ c.out = 0 :=
  ⟨asks live 0 0x02 0 [23], _, cmd 0 0x02 [23], asks_takes, by decide⟩

theorem witness_get_status_other : ∃ (s u : State) (f : Nat) (c : Cmd), s.TakesOp f 0x02 c u ∧ c.a 1 < 24 ∧ f ≠ 0
    ∧ s.vfPolder f ≠ c.a 1 ∧ c.out = 0 :=
  ⟨asks live 24 0x02 0 [0], _, 24, cmd 24 0x02 [0], asks_takes, by decide⟩

/-- GET_STATUS while the floodgate of the polder it names is in progress, and of the first number that no polder has. -/
theorem witness_get_status_refused : ∃ (s u t v : State) (c d : Cmd), s.TakesOp 0 0x02 c u ∧ c.a 1 < 24
    ∧ (s.polder (c.a 1)).exists_ = true ∧ s.gated (c.a 1) = true ∧ t.TakesOp 0 0x02 d v ∧ d.a 1 = 24 :=
  ⟨asks (live1 { polder1 with gates := [⟨0, false, 0, 1⟩] }) 0 0x02 0 [0], _, asks live 0 0x02 0 [24], _, cmd 0 0x02 [0],
    cmd 0 0x02 [24], asks_takes, by decide, by decide +kernel, by decide +kernel, asks_takes, by decide⟩

theorem witness_cap_set_low : ∃ (s u : State) (f : Nat) (c : Cmd), s.TakesOp f 0x40 c u ∧ 1200 ≤ c.a 1 ∧ c.a 1 ≤ 6000
    ∧ c.a 1 ≤ c.a 2 ∧ c.a 2 ≤ 6000 ∧ 30 ≤ c.a 3 ∧ c.a 3 ≤ 150 :=
  ⟨asks live 0 0x40 0 [1200, 1200, 30], _, 0, cmd 0 0x40 [1200, 1200, 30], asks_takes, by decide⟩

theorem witness_cap_set_high : ∃ (s u : State) (f : Nat) (c : Cmd), s.TakesOp f 0x40 c u ∧ 1200 ≤ c.a 1 ∧ c.a 1 ≤ 6000
    ∧ c.a 1 ≤ c.a 2 ∧ c.a 2 ≤ 6000 ∧ 30 ≤ c.a 3 ∧ c.a 3 ≤ 150 :=
  ⟨asks live 0 0x40 0 [6000, 6000, 150], _, 0, cmd 0 0x40 [6000, 6000, 150], asks_takes, by decide⟩

theorem witness_planner : ∃ s : State, s.trust.running = true ∧ s.ledger.capKnown = true ∧ s.power.sagHold = false :=
  ⟨{ live with ledger := { capKnown := true } }, rfl, rfl, rfl⟩

theorem witness_rail : ∃ (s : State) (rail n : Nat) (r : VoltReq),
    (s.rail rail).sent = some r ∧ r.raise = true ∧ (s.rail rail).queued.any (·.raise) = false ∧ n < 24 ∧ (s.polder n).rails = [rail] ∧ rail ∉ (s.polder 1).rails
    ∧ (24 ≤ rail ∨ (s.halfDie rail).power ≠ .off) :=
  ⟨{ live1 { polder1 with rails := [0] } with
      halfDies := [(0, { power := .idle })], ledger := { rails := [(0, { sent := some ⟨true, true, none⟩, queued := some ⟨false, false, none⟩ })] } }, 0, 0, ⟨true, true, none⟩,
    by decide +kernel⟩

theorem witness_rail_off : ∃ (s : State) (rail : Nat) (r : VoltReq), (s.rail rail).sent = some r ∧ rail < 24
    ∧ (s.halfDie rail).power = .off :=
  ⟨{ live with ledger := { rails := [(23, { sent := some ⟨true, false, none⟩ })] } }, 23, ⟨true, false, none⟩, by decide +kernel⟩

theorem imageCheck_level (s t : State) (p : Polder) (l : List Byte) (h : s.level = t.level) : s.imageCheck p l = t.imageCheck p l := by
  unfold State.imageCheck
  rw [h]

theorem witness_schedule_load : ∃ (s u : State) (f : Nat) (c : Cmd), s.TakesOp f 0x20 c u ∧ (u.polderFail (c.a 1) false = none
      ∧ (s.polder (c.a 1)).job = none ∧ ((s.polder (c.a 1)).state = .empty ∨ (s.polder (c.a 1)).state = .loaded)
      ∧ 128 ≤ c.body.length) ∧ u.imageCheck (u.polder (c.a 1)) c.body = none := by
  have h := block_takes (withBody polder1 image) 0 0x20 16 [0] ⟨.own, .required, some 1, []⟩ image (by decide +kernel)
  refine ⟨_, _, _, _, h, ?_, ?_⟩
  · decide +kernel
  · show (taken (withBody polder1 image) 0 0x20 1 [4096, 0, 16, 0]).imageCheck
      ((taken (withBody polder1 image) 0 0x20 1 [4096, 0, 16, 0]).polder 0) image = none
    have hp : (taken (withBody polder1 image) 0 0x20 1 [4096, 0, 16, 0]).polder 0 = polder1 := by decide +kernel
    rw [imageCheck_level _ State.reset _ _ (by decide +kernel), hp]
    exact test_image_passes

theorem witness_schedule_unload : ∃ (s u : State) (f : Nat) (c : Cmd), s.TakesOp f 0x21 c u ∧ u.polderFail (c.a 1) false = none
    ∧ (s.polder (c.a 1)).job = none ∧ (s.polder (c.a 1)).state = .loaded :=
  ⟨asks (live1 { polder1 with state := .loaded }) 0 0x21 0 [0], _, 0, cmd 0 0x21 [0], asks_takes,
    by decide +kernel⟩

theorem witness_job_run : ∃ (s u : State) (f : Nat) (c : Cmd) (maps : List RandEntry), s.TakesOp f 0x22 c u
    ∧ s.thermal.rotate = false ∧ u.polderFail (c.a 1) false = none ∧ (s.polder (c.a 1)).state = .loaded
    ∧ (s.polder (c.a 1)).job = none ∧ (s.polder (c.a 1)).fenced = false
    ∧ (s.polder (c.a 1)).wideEnough (s.polder (c.a 1)).image = true
    ∧ c.fits (64 + 32 * (s.polder (c.a 1)).clusters.length) = true ∧ c.a 3 ≠ 0 ∧ c.a 4 ≠ 0
    ∧ replaceMaps (imgMaps (s.polder (c.a 1)).image) c = some maps :=
  ⟨asks (live1 { polder1 with state := .loaded, image := image }) 0 0x22 0 [0, 5, 1000, 1000], _, 0, cmd 0 0x22 [0, 5, 1000, 1000],
    [], asks_takes, by decide +kernel⟩

theorem foldl_length {α β : Type} (n : Nat) (f : List α → β → List α) (hf : ∀ a b, (f a b).length = n) :
    ∀ (l : List β) (a : List α), l ≠ [] ∨ a.length = n → (l.foldl f a).length = n
  | [], _, h => h.resolve_left fun h => h rfl
  | x :: l, a, _ => foldl_length n f hf l (f a x) (.inr (hf a x))

theorem shake_length (m : List Byte) (n : Nat) (hn : n ≤ 136) : (shake256 n m).length = n := by
  have hr (a : List Lane) (rc : Lane) : (keccakRound a rc).length = 25 := by simp [keccakRound]
  have hf (a : List Lane) : (keccakF a).length = 25 := foldl_length 25 keccakRound hr keccakRC a (.inl (by decide))
  have ha := foldl_length 25 (keccakAbsorb 136) (fun a b => hf _) (chunks 136 (shakePad 136 m)) (List.replicate 25 0) (.inr rfl)
  have hm (l : List Lane) : (l.map fun x => leBytes 8 x.toNat).flatten.length = 8 * l.length := by
    induction l with
    | nil => rfl
    | cons x l ih =>
      rw [List.map_cons, List.flatten_cons, List.length_append, ih]
      simp [leBytes]
      omega
  unfold shake256 shake keccakOut
  rw [List.length_take, List.length_append, List.length_take, hm, ha]
  omega

theorem shake256_length (m : List Byte) : (shake256 32 m).length = 32 := shake_length m 32 (by decide)

/-- The first 64 bytes of a context (R341) of a job of what SCHEDULE_LOAD would load as `image`. -/
def contextHead : List Byte :=
  leBytes 4 ctxMagic ++ leBytes 2 1 ++ [2, 8] ++ leBytes 8 (1 + 16 + 28 * 64) ++ (image.drop 0x20).take 16
    ++ leBytes 8 616570880 ++ leBytes 4 672 ++ zeros 20

/-- What follows the digest of the context. -/
def contextTail : List Byte := zeros 616570784

/-- A context of 672 clusters without slices. -/
def context : List Byte := contextHead ++ (shake256 32 (contextHead ++ zeros 32 ++ contextTail) ++ contextTail)

theorem contextHead_length : contextHead.length = 64 := by decide +kernel

theorem context_length : context.length = 616570880 := by
  unfold context contextTail zeros
  rw [List.length_append, List.length_append, shake256_length, contextHead_length, List.length_replicate]

theorem context_digest : ctxDigest context = (context.drop 0x40).take 32 := by
  have hd := shake256_length (contextHead ++ zeros 32 ++ contextTail)
  unfold ctxDigest context patch
  generalize hx : shake256 32 (contextHead ++ zeros 32 ++ contextTail) = d at hd
  rw [← contextHead_length, List.take_left, List.drop_left, show (zeros 32).length = d.length by rw [hd]; rfl, ← hd, List.take_left,
    ← List.drop_drop, List.drop_left, List.drop_left, hd, hx]

theorem witness_context_restore : ∃ (s u : State) (f : Nat) (c : Cmd), s.TakesOp f 0x25 c u
    ∧ s.thermal.rotate = false ∧ (u.polderFail (c.a 1) false = none ∧ (s.polder (c.a 1)).state = .loaded
      ∧ (s.polder (c.a 1)).job = none ∧ (s.polder (c.a 1)).fenced = false
      ∧ (s.polder (c.a 1)).wideEnough (s.polder (c.a 1)).image = true
      ∧ c.fits (64 + 32 * (s.polder (c.a 1)).clusters.length) = true ∧ c.a 2 ≠ 0 ∧ c.a 3 ≠ 0)
    ∧ (fieldAt c.body 0x28 4 = (s.polder (c.a 1)).clusters.length
      ∧ fieldAt c.body 0x20 8 = ctxBytes (s.polder (c.a 1)).clusters.length (bit (fieldAt c.body 0x2C 4) 0))
    ∧ ctxBytes (s.polder (c.a 1)).clusters.length (bit (fieldAt c.body 0x2C 4) 0) ≤ c.body.length
    ∧ (fieldAt c.body 0 4 = ctxMagic ∧ fieldAt c.body 4 2 = 1)
    ∧ ctxDigest (c.body.take (ctxBytes (s.polder (c.a 1)).clusters.length (bit (fieldAt c.body 0x2C 4) 0)))
      = (c.body.drop 0x40).take 32
    ∧ fieldAt c.body 8 8 = (s.polder (c.a 1)).shape ∧ fieldAt c.body 7 1 = 8 ∧ fieldAt c.body 6 1 = s.level
    ∧ (c.body.drop 0x10).take 16 = imgId (s.polder (c.a 1)).image := by
  have h := block_takes (withBody { polder1 with state := .loaded, image := image } context) 0 0x25 9633921 [0, 1000, 1000]
    ⟨.own, .required, some 3, []⟩ context (by rw [List.length_append, context_length]; rfl)
    (h5 := decide_eq_false (by rw [context_length]; decide))
  have hs : ctxBytes ((withBody { polder1 with state := .loaded, image := image } context).polder 0).clusters.length
      (bit (fieldAt context 0x2C 4) 0) = context.length := by
    rw [context_length]
    decide +kernel
  have hd : ctxDigest (context.take (ctxBytes ((withBody { polder1 with state := .loaded, image := image } context).polder 0).clusters.length
      (bit (fieldAt context 0x2C 4) 0))) = (context.drop 0x40).take 32 := by
    rw [hs, List.take_length, context_digest]
  refine ⟨_, _, _, _, h, rfl, ?_, ?_, hs.le, ?_, hd, ?_⟩
  all_goals decide +kernel

theorem witness_admission_timeout : ∃ (s : State) (p : Nat) (j : Job), (s.polder p).job = some j ∧ j.phase = .waiting
    ∧ s.trust.running = true ∧ s.admitExpired j = true
    ∧ s.bestStep p (s.allocFor (s.ledger.effCap - s.committedSum) p) = none :=
  ⟨{ live1 { polder1 with state := .loaded, image := image, job := some (job .waiting) } with time := { dev := 100000000 } }, 0, _, rfl, rfl, rfl,
    by decide +kernel⟩

theorem witness_admission_too_early : ∃ (s : State) (p : Nat) (j : Job), (s.polder p).job = some j ∧ j.phase = .waiting
    ∧ s.trust.running = true ∧ s.admitExpired j = false :=
  ⟨{ live1 { polder1 with state := .loaded, image := image, job := some (job .waiting) } with time := { dev := 99999999 } }, 0, _, rfl, rfl, rfl,
    by decide +kernel⟩

/-- A job that fits step 0 and whose time to be admitted is over, with the polder out of band B0 (`b = 1`) or in it. -/
def fitting (b : Nat) : State :=
  { live1 { polder1 with state := .loaded, image := image, job := some (job .waiting) } with
    ledger := { effCap := 4800, capKnown := true }, ucmDies := [(0, { band := b })], time := { dev := 100000000 } }

theorem witness_admission_fits : ∃ (s : State) (p st : Nat) (j : Job), (s.polder p).job = some j ∧ j.phase = .waiting
    ∧ s.trust.running = true ∧ s.bestStep p (s.allocFor (s.ledger.effCap - s.committedSum) p) = some st ∧ s.b0Hold p = true
    ∧ s.admitExpired j = true ∧ ¬(s.admissionOff = true ∨ s.power.sagHold = true ∨ s.ledger.effCap < s.committedSum) :=
  ⟨fitting 0, 0, 0, _, rfl, by decide +kernel⟩

theorem witness_admission_admits : ∃ (s : State) (p st : Nat) (j : Job), (s.polder p).job = some j ∧ j.phase = .waiting
    ∧ s.trust.running = true ∧ s.bestStep p (s.allocFor (s.ledger.effCap - s.committedSum) p) = some st ∧ s.b0Hold p = false
    ∧ s.admitExpired j = true ∧ ¬(s.admissionOff = true ∨ s.power.sagHold = true ∨ s.ledger.effCap < s.committedSum) :=
  ⟨fitting 1, 0, 0, _, rfl, by decide +kernel⟩

theorem witness_admission_off : ∃ (s : State) (p st : Nat) (j : Job), (s.polder p).job = some j ∧ j.phase = .waiting
    ∧ s.trust.running = true ∧ s.bestStep p (s.allocFor (s.ledger.effCap - s.committedSum) p) = some st ∧ s.b0Hold p = false
    ∧ s.admitExpired j = true ∧ s.admissionOff = true :=
  ⟨{ fitting 1 with thermal := { coolantHold := true } }, 0, 0, _, rfl, by decide +kernel⟩

theorem witness_job_cancel_waiting : ∃ (s u : State) (f : Nat) (c : Cmd), s.TakesOp f 0x23 c u ∧ c.a 1 < 24
    ∧ (s.polder (c.a 1)).exists_ = true ∧ s.thermal.coolantHold = false ∧ s.gated (c.a 1) = false
    ∧ (s.polder (c.a 1)).state ≠ .halted ∧ (s.polder (c.a 1)).job = some (job .waiting) :=
  ⟨asks (withJob .waiting) 0 0x23 0 [0], _, 0, cmd 0 0x23 [0], asks_takes, by decide +kernel⟩

theorem witness_job_cancel_running : ∃ (s u : State) (f : Nat) (c : Cmd), s.TakesOp f 0x23 c u ∧ c.a 1 < 24
    ∧ (s.polder (c.a 1)).exists_ = true ∧ s.thermal.coolantHold = false ∧ s.gated (c.a 1) = false
    ∧ (s.polder (c.a 1)).state ≠ .halted ∧ (s.polder (c.a 1)).job = some (job .running) ∧ s.jobDone (c.a 1) = false :=
  ⟨asks (withJob .running) 0 0x23 0 [0], _, 0, cmd 0 0x23 [0], asks_takes, by decide +kernel⟩

theorem witness_job_cancel_done : ∃ (s u : State) (f : Nat) (c : Cmd), s.TakesOp f 0x23 c u ∧ c.a 1 < 24
    ∧ (s.polder (c.a 1)).exists_ = true ∧ s.thermal.coolantHold = false ∧ s.gated (c.a 1) = false
    ∧ (s.polder (c.a 1)).state ≠ .halted ∧ (s.polder (c.a 1)).job = some (job .running) ∧ s.jobDone (c.a 1) = true :=
  ⟨asks { withJob .running with scores := [] } 0 0x23 0 [0], _, 0, cmd 0 0x23 [0], asks_takes,
    by decide +kernel⟩

theorem witness_job_start : ∃ (s : State) (p : Nat) (j : Job), (s.polder p).job = some j ∧ j.phase = .admitted ∧ j.context = []
    ∧ (s.polder p).state = .loaded ∧ (s.polder p).atMark = true ∧ s.trust.running = true ∧ s.b0Hold p = false ∧ s.gated p = false
    ∧ hasCode (s.polder p) 0 60 = true :=
  ⟨{ live1 { polder1 with state := .loaded, image := image, atMark := true, job := some (job .admitted) } with ucmDies := [(0, { band := 1 })] }, 0,
    _, rfl, by decide +kernel⟩

/-! ### S-cores, issue, sluices and routers -/

theorem witness_job_end : ∃ (s : State) (p : Nat) (j : Job), (s.polder p).job = some j ∧ j.phase = .running
    ∧ (s.polder p).state = .running ∧ s.trust.running = true ∧ s.gated p = false ∧ (s.polder p).holds = [] ∧ s.jobDone p = true
    ∧ j.outAddr = 0 ∧ j.silent = false ∧ (s.polder p).command = none :=
  ⟨scoring 60 {}, 0, job .running, by decide +kernel⟩

theorem witness_job_late : ∃ (s : State) (p : Nat) (j : Job), (s.polder p).job = some j ∧ j.phase = .running
    ∧ (s.polder p).state = .running ∧ s.trust.running = true ∧ s.gated p = false ∧ s.jobLate p = true :=
  ⟨{ scoring 60 {} with time := { dev := 100000000 } }, 0, job .running, by decide +kernel⟩

theorem witness_tide_mark : ∃ (s : State) (h n : Nat), s.polderOf h = n ∧ n < 24 ∧ (s.polder n).halfDies.head? = some h
    ∧ (s.polder n).markDue = true ∧ ∃ c, (s.polder n).command = some c ∧ c.opc = 0x24 ∧ c.ready = false ∧ (s.polder n).state = .running :=
  ⟨live1 { polder1 with state := .running, markDue := true, command := some { func := 0, tag := 7, opc := 0x24 } }, 0, 0, by decide +kernel,
    by decide, by decide +kernel, rfl, _, rfl, rfl, rfl, rfl⟩

theorem witness_tide_mark_free : ∃ (s : State) (h : Nat), s.polderOf h = 31 ∧ (s.halfDie h).markDue = true :=
  ⟨{ live with halfDies := [(23, { markDue := true })] }, 23, by decide +kernel⟩

theorem witness_context_save : ∃ (s u : State) (f : Nat) (c : Cmd), s.TakesOp f 0x24 c u ∧ u.polderFail (c.a 1) false = none
    ∧ (s.polder (c.a 1)).state = .running
    ∧ c.fits (ctxBytes (s.polder (c.a 1)).clusters.length (bit (c.a 2) 0)) = true := by
  have h := block_takes (withBody { polder1 with state := .running } []) 0 0x24 1 [0, 1] ⟨.own, .required, some 2, [0, above 1]⟩ []
  refine ⟨_, _, _, _, h, ?_, ?_, ?_⟩ <;> decide +kernel

/-- A polder of `rows` cluster rows whose context is to be copied for the command `c`. -/
def saving (rows : Nat) (c : InFlight) : State :=
  live1 { polder1 with state := .running, rows := rows, command := some c, job := some (job .running) }

theorem witness_context_save_copy : ∃ (s : State) (p : Nat) (c : InFlight) (j : Job), (s.polder p).command = some c
    ∧ (s.polder p).job = some j ∧ c.opc = 0x24 ∧ c.ready = true ∧ (s.polder p).state = .running ∧ s.trust.running = true
    ∧ (∀ cl ∈ s.listed p, (s.cluster cl).sin.inflight = 0) ∧ c.ucm = false ∧ c.outAddr = 0 :=
  ⟨saving 28 { func := 0, tag := 7, opc := 0x24, ready := true }, 0, _, _, rfl, rfl, rfl, rfl, rfl, rfl, by decide +kernel⟩

theorem slicesOut_fails (s : State) (p f cl : Nat) (cls : List Nat) (e : (s.polder p).clusters = cl :: cls)
    (h : ((s.retireFor (s.polder p)).sliceOut (cl * 64 + 0) f).2.1 ≠ .ok) :
    ((s.retireFor (s.polder p)).slicesOut f (s.polder p).clusters).2.1 ≠ .ok := by
  rw [e]
  have stays : ∀ (l : List Nat) (r : State × Status × List Byte), r.2.1 ≠ .ok → (l.foldl (fun r core =>
      let g := r.1.sliceOut core f
      (g.1, if r.2.1 == .ok then g.2.1 else r.2.1, r.2.2 ++ g.2.2)) r).2.1 ≠ .ok := by
    intro l
    induction l with
    | nil => exact fun r h => h
    | cons x l ih => exact fun r h => ih _ (by simpa [h] using h)
  unfold State.slicesOut
  rw [List.flatMap_cons, show List.range 64 = 0 :: (List.range 64).drop 1 from rfl, List.map_cons, List.cons_append, List.foldl_cons]
  exact stays _ _ (by simpa using h)

def saveUcm : InFlight := { func := 0, tag := 7, opc := 0x24, ready := true, ucm := true }

/-- Three symbols of slice word 0 of core 0 are wrong, which cannot be corrected. -/
def savingBad : State := { saving 1 saveUcm with ucmValid := [(0, true)], ucmBad := [(0, [⟨0, 1⟩, ⟨1, 1⟩, ⟨2, 1⟩])] }

theorem savingBad_slices :
    ((savingBad.retireFor (savingBad.polder 0)).slicesOut saveUcm.func (savingBad.polder 0).clusters).2.1 ≠ .ok :=
  slicesOut_fails savingBad 0 saveUcm.func 0 ((List.range 24).drop 1) (by decide +kernel) (by decide +kernel)

theorem witness_context_save_no_slices : ∃ (s : State) (p : Nat) (c : InFlight) (j : Job), (s.polder p).command = some c
    ∧ (s.polder p).job = some j ∧ c.opc = 0x24 ∧ c.ready = true ∧ (s.polder p).state = .running ∧ s.trust.running = true
    ∧ (∀ cl ∈ s.listed p, (s.cluster cl).sin.inflight = 0) ∧ c.ucm = true
    ∧ ((s.retireFor (s.polder p)).slicesOut c.func (s.polder p).clusters).2.1 ≠ .ok :=
  ⟨savingBad, 0, saveUcm, _, rfl, rfl, rfl, rfl, rfl, rfl, by decide +kernel, rfl, savingBad_slices⟩

theorem writeOut_ok (s : State) (f out : Nat) (l : List Byte) (h : out % 2 = 0) (he : s.hostErr = []) : (s.writeOut f out l).2 = .ok := by
  unfold State.writeOut State.hostWrite State.hostOk
  rw [he]
  split
  · rfl
  · simp [h]

theorem writeOut_fails (s : State) (l : List Byte) (he : s.hostErr = [(1, true)]) (hl : l ≠ []) : (s.writeOut 0 4096 l).2 ≠ .ok := by
  have hn : 0 < l.length := List.length_pos_iff.2 hl
  have hq : 1 ≤ (4096 + l.length - 1) / 4096 := by omega
  have hk : s.hostWrite 0 4096 l = none := by
    unfold State.hostWrite State.hostOk
    rw [he]
    simp only [List.any_cons, List.any_nil, Bool.or_false]
    have e : decide ((1, true).1 % 2 ^ 52 ≤ (4096 + l.length - 1) / 4096) = true := by simpa using hq
    have z : (l.length == 0) = false := beq_false_of_ne (by omega)
    rw [e, z]
    rfl
  unfold State.writeOut
  rw [hk]
  simp [hl]

/-- Two output buffers for a context: one that host memory takes, and one at a page that it does not answer. -/
theorem witness_context_save_output : ∃ (s v : State) (p : Nat) (c : InFlight) (j : Job), ((s.polder p).command = some c
      ∧ (s.polder p).job = some j ∧ (s.writeOut c.func c.outAddr (s.context p j.maps c.ucm [])).2 = .ok)
    ∧ ((v.polder p).command = some c
      ∧ (v.polder p).job = some j ∧ (v.writeOut c.func c.outAddr (v.context p j.maps c.ucm [])).2 ≠ .ok)
    ∧ c.opc = 0x24 ∧ c.ready = true ∧ c.ucm = false ∧ c.outAddr ≠ 0 ∧ ∀ w ∈ [s, v],
      (w.polder p).state = .running ∧ w.trust.running = true ∧ ∀ cl ∈ w.listed p, (w.cluster cl).sin.inflight = 0 :=
  ⟨saving 0 { func := 0, tag := 7, opc := 0x24, outAddr := 4096, outLen := 8192, ready := true },
    { saving 0 { func := 0, tag := 7, opc := 0x24, outAddr := 4096, outLen := 8192, ready := true } with hostErr := [(1, true)] }, 0, _, _,
    ⟨rfl, rfl, writeOut_ok _ _ _ _ rfl rfl⟩,
    ⟨rfl, rfl, writeOut_fails _ _ rfl fun h => absurd (congrArg List.isEmpty h) (by decide +kernel)⟩, by decide +kernel⟩

/-- ADDI x1, x0, 5; the result wraps. -/
theorem witness_executes_addi : (scoring 60 (fetching 0x00500093 [] [])).Executes 60 (.opImm 0 false 1 0 5) 4 0x00500093
    ∧ ∃ x, ((scoring 60 (fetching 0x00500093 [] [])).score 60).base ((scoring 60 (fetching 0x00500093 [] [])).csrView 60) 4
      (.opImm 0 false 1 0 5) = .ok x :=
  ⟨by decide +kernel, _, rfl⟩

theorem witness_executes_add_sub_store : (scoring 63 (fetching 0x403100B3 [] [])).Executes 63 (.op 0 true 1 2 3) 4 0x403100B3
    ∧ (scoring 60 (fetching 0xFE20AE23 [(1, 4096)] [])).Executes 60 (.store 2 1 2 0xFFFFFFFC) 4 0xFE20AE23
    ∧ dataFail (((scoring 60 (fetching 0xFE20AE23 [(1, 4096)] [])).score 60).reg 1 + 0xFFFFFFFC).toNat 4 = none :=
  by decide +kernel

theorem witness_executes_ecall_ebreak : (scoring 60 (fetching 0x00000073 [] [])).Executes 60 .ecall 4 0x00000073
    ∧ (scoring 60 (fetching 0x00100073 [] [])).Executes 60 .ebreak 4 0x00100073
    ∧ ∃ u : State, (u.trust.unlocked && bit u.trust.scope 1) = true ∧ u.Executes 60 .ebreak 4 0x00100073 :=
  ⟨by decide +kernel, by decide +kernel,
    { scoring 60 (fetching 0x00100073 [] []) with trust := { running := true, unlocked := true, scope := 2 } }, by decide +kernel⟩

/-- A fetch at the end of instruction SRAM, and a word that is no instruction. -/
theorem witness_fetch_faults : ∃ s t : State, s.turn 60 = true ∧ s.fetched 60 = .fault .bound 0 ∧ t.turn 60 = true
    ∧ t.fetched 60 = .fault .badOpcode 0 :=
  ⟨scoring 60 { fetching 0x00500093 [] [] with pc := 0x2000 }, scoring 60 (fetching 0 [] []), by decide +kernel⟩

/-- The anchors of the spec's rule: 6 lies ahead of slot 5, 5 does not. -/
theorem witness_anchors : ∃ (s t u v : State),
    s.Executes 60 (.sat 1) 4 (slotWord 0 0 1 0 0) ∧ s.slotOf 60 < ((s.score 60).anchor + ((s.score 60).reg 1).toNat) % 2 ^ 64
    ∧ t.Executes 60 (.sati 6) 4 (slotWord 0 6 0 1 0) ∧ t.slotOf 60 < ((t.score 60).anchor + 6) % 2 ^ 64
    ∧ u.Executes 60 (.sati 5) 4 (slotWord 0 5 0 1 0) ∧ ((u.score 60).anchor + 5) % 2 ^ 64 ≤ u.slotOf 60
    ∧ v.Executes 60 .sdone 4 (slotWord 1 0 0 0 0) :=
  ⟨scoring 60 (fetching (slotWord 0 0 1 0 0) [(1, 6)] []), scoring 60 (fetching (slotWord 0 6 0 1 0) [] []),
    scoring 60 (fetching (slotWord 0 5 0 1 0) [] []), scoring 60 (fetching (slotWord 1 0 0 0 0) [] []),
    by decide +kernel⟩

theorem witness_tiss : ∃ (s : State) (core len w r m : Nat), ((s.score core).reg r).toNat % 16 = 0
    ∧ ((s.score core).reg r).toNat ≤ 0xFF0 ∧ s.Executes core (.tiss r m) len w ∧ Sparse.get 0 (s.score core).tmask m ≠ 0
    ∧ tcoreCheck (imgLevel (s.polder (s.polderAt core)).image) (s.blockAt core ((s.score core).reg r).toNat) = none
    ∧ ∀ k ∈ maskCores (clusterOf core) 0 48 (Sparse.get 0 (s.score core).tmask m),
        tRoom (s.cycleOf core) (s.tcore k) (tQueue (s.blockAt core ((s.score core).reg r).toNat)) = true :=
  ⟨scoring 60 { fetching (slotWord 7 0 1 2 0) [(1, 0xFF0)] (Memory.write [] 0xFF0 (leBytes 16 tmmaWord)) with tmask := [(7, 2 ^ 47)] },
    60, 4, slotWord 7 0 1 2 0, 1, 7, by decide +kernel⟩

theorem witness_viss : ∃ (s : State) (core len w r m : Nat), ((s.score core).reg r).toNat % 16 = 0
    ∧ ((s.score core).reg r).toNat ≤ 0xFF0 ∧ s.Executes core (.viss r m) len w ∧ Sparse.get 0 (s.score core).vmask m ≠ 0
    ∧ vcoreCheck (s.cluster (clusterOf core)).rand.length (s.blockAt core ((s.score core).reg r).toNat) = none
    ∧ ∀ k ∈ maskCores (clusterOf core) 48 12 (Sparse.get 0 (s.score core).vmask m),
        vRoom (s.cycleOf core) (s.vcore k) (vQueue (s.blockAt core ((s.score core).reg r).toNat)) = true :=
  ⟨scoring 60 { fetching (slotWord 0 0 1 3 0) [(1, 0xFF0)] (Memory.write [] 0xFF0 (leBytes 16 vaddWord)) with vmask := [(0, 2 ^ 11)] },
    60, 4, slotWord 0 0 1 3 0, 1, 0, by decide +kernel⟩

theorem witness_sin_sack : ∀ f7 ∈ [0, 2], ∃ i, (i = Rv.sin 1 ∨ i = .sack 1) ∧
    let s := withCluster (scoring 63 (fetching (slotWord f7 0 1 4 0) [(1, 32)] [])) { sin := { filled := 32 } }
    s.turn 63 = true ∧ s.fetched 63 = .instr i 4 (slotWord f7 0 1 4 0) ∧ 32 ≤ (s.cluster 0).sin.seen (s.cycleOf 63) := by
  intro f7 h
  simp only [List.mem_cons, List.not_mem_nil, or_false] at h
  rcases h with rfl | rfl
  · exact ⟨.sin 1, .inl rfl, by decide +kernel⟩
  · exact ⟨.sack 1, .inr rfl, by decide +kernel⟩

theorem witness_sout_spost : ∀ f7 ∈ [1, 3], ∃ i, (i = Rv.sout 1 ∨ i = .spost 1) ∧
    let s := scoring 63 (fetching (slotWord f7 0 1 4 0) [(1, 32)] [])
    s.turn 63 = true ∧ s.fetched 63 = .instr i 4 (slotWord f7 0 1 4 0) ∧ 32 ≤ (s.cluster 0).sout.free (s.cycleOf 63) := by
  intro f7 h
  simp only [List.mem_cons, List.not_mem_nil, or_false] at h
  rcases h with rfl | rfl
  · exact ⟨.sout 1, .inl rfl, by decide +kernel⟩
  · exact ⟨.spost 1, .inr rfl, by decide +kernel⟩

theorem witness_sluice_counts_refused : ∃ (s t u v : State),
    s.Executes 63 (.sack 1) 4 (slotWord 2 0 1 4 0) ∧ ((s.score 63).reg 1).toNat = 0
    ∧ t.Executes 63 (.spost 1) 4 (slotWord 3 0 1 4 0) ∧ 32 < ((t.score 63).reg 1).toNat
    ∧ u.Executes 63 (.sin 1) 4 (slotWord 0 0 1 4 0) ∧ (u.cluster 0).sin.seen (u.cycleOf 63) < 1
    ∧ v.Executes 63 (.sout 1) 4 (slotWord 1 0 1 4 0) ∧ (v.cluster 0).sout.free (v.cycleOf 63) < 1 :=
  ⟨scoring 63 (fetching (slotWord 2 0 1 4 0) [] []), scoring 63 (fetching (slotWord 3 0 1 4 0) [(1, 33)] []),
    scoring 63 (fetching (slotWord 0 0 1 4 0) [(1, 1)] []),
    withCluster (scoring 63 (fetching (slotWord 1 0 1 4 0) [(1, 1)] [])) { sout := { posted := 32 } },
    by decide +kernel⟩

theorem witness_rpage : ∃ s : State, s.Executes 63 (.rpage 1) 4 (slotWord 0 0 1 5 0) ∧ ((s.score 63).reg 1).toNat ≤ 15 :=
  ⟨scoring 63 (fetching (slotWord 0 0 1 5 0) [(1, 15)] []), by decide +kernel⟩

/-- An idle slot-table entry of one slot. -/
theorem witness_rwr : ∃ s : State, s.Executes 63 (.rwr 1 2) 4 (slotWord 1 2 1 5 0) ∧ ((s.score 63).reg 1).toNat % 16 = 0
    ∧ ((s.score 63).reg 1).toNat ≤ 0xFF0 ∧ ((s.score 63).reg 2).toNat ≤ 4095
    ∧ entryCheck ((s.polder (s.polderAt 63)).ports ((s.polder (s.polderAt 63)).coord 0).1 ((s.polder (s.polderAt 63)).coord 0).2)
      (s.blockAt 63 ((s.score 63).reg 1).toNat) = none :=
  ⟨scoring 63 (fetching (slotWord 1 2 1 5 0) [(1, 16), (2, 4095)] (Memory.write [] 16 (leBytes 16 (2 ^ 32)))),
    by decide +kernel⟩

theorem witness_srdc : ∃ s t : State,
    s.Executes 61 (.srdc 3 1 2) 4 (slotWord 0 2 1 6 3) ∧ bits ((s.score 61).reg 1).toNat 8 2 = 0
    ∧ ((s.score 61).reg 2).toNat % 2 = 0 ∧ bits ((s.score 61).reg 1).toNat 0 6 < 48
    ∧ t.Executes 61 (.srdc 3 1 2) 4 (slotWord 0 2 1 6 3) ∧ bits ((t.score 61).reg 1).toNat 8 2 = 2
    ∧ ((t.score 61).reg 2).toNat % 2 = 1 ∧ 48 ≤ bits ((t.score 61).reg 1).toNat 0 6 ∧ bits ((t.score 61).reg 1).toNat 0 6 < 60 :=
  ⟨scoring 61 (fetching (slotWord 0 2 1 6 3) [(1, 47)] []), scoring 61 (fetching (slotWord 0 2 1 6 3) [(1, 2 * 256 + 59), (2, 1)] []),
    by decide +kernel⟩

theorem witness_snote : ∃ s : State, s.Executes 63 (.snote 1) 4 (slotWord 1 0 1 7 0) ∧ ((s.score 63).reg 1).toNat % 16 = 0
    ∧ ((s.score 63).reg 1).toNat ≤ 0xFF0 ∧ (s.cluster 0).noteRoom (s.cycleOf 63) = true
    ∧ ∃ t : State, (t.cluster 0).notes = [zeros 16] ∧ Sparse.get false t.cdcDown (dieOf 0) = false :=
  ⟨scoring 63 (fetching (slotWord 1 0 1 7 0) [(1, 0xFF0)] []), by decide +kernel, by decide +kernel,
    by decide +kernel, by decide +kernel, withCluster live { notes := [zeros 16] }, by decide +kernel⟩

/-- Slice moves of one word of an S-core, its slice word 0 and data SRAM 0 (R104, R118). -/
theorem witness_smove : ∀ k ∈ [0x60, 0x61, 0x62, 0x65],
    let s := scoring 60 (fetching (slotWord 0 0 1 7 0) [] (Memory.write [] 0 (leBytes 16 (k + 2 ^ 20))))
    let t : State := { s with fuses := { s.fuses with cdMin := 0xB0, bdMin := 0xB0 } }
    t.turn 60 = true ∧ t.fetched 60 = .instr (.smove 1) 4 (slotWord 0 0 1 7 0) ∧ vOpc (t.blockAt 60 ((t.score 60).reg 1).toNat) = k
      ∧ smoveCheck (if k = 0x65 then 2 else imgLevel (t.polder (t.polderAt 60)).image) (t.blockAt 60 ((t.score 60).reg 1).toNat) = none
      ∧ (t.score 60).room (t.cycleOf 60) = true := by decide +kernel

theorem witness_smove_word : ∀ k ∈ [0x60, 0x65],
    let o : Op := { word := BitVec.ofNat 128 (k + 2 ^ 20), started := some 1 }
    let s := scoring 63 { ops := [o] }
    (s.score 63).ops = [o] ∧ s.standsStill 63 = false ∧ o.done < vCount o.word.toNat
      ∧ wordDue (s.wordDelay 63) (s.cycleOf 63) o ≤ s.cycleOf 63
      ∧ (s.portRead 63 (mvOff o.word.toNat / 32 + o.done) []).2.status = .ok ∧ vOpc o.word.toNat = k := by decide +kernel

/-! ### T-cores and V-cores -/

theorem witness_tmma : (withOps tmmaWord 0).standsStill 0 = false ∧ ∃ o, runnable tOpc tQueue tFoot 2 1 ((withOps tmmaWord 0).tcore 0).ops = some ([], o, [])
    ∧ mmaPair o.word.toNat = 6 ∧ mmaM o.word.toNat = 1 ∧ mmaN o.word.toNat = 1 := ⟨by decide +kernel, _, rfl, by decide +kernel⟩

theorem witness_tdrain : ∃ o, runnable tOpc tQueue tFoot 3 2 ((withOps (3 + 2 ^ 5 + 1023 * 2 ^ 6 + 2 ^ 16) 0).tcore 0).ops
    = some ([], o, []) ∧ o.started = none ∧ o.covered = [] ∧ drainMesh o.word.toNat = false := ⟨_, rfl, by decide +kernel⟩

/-- The largest accumulator plus 4 × 127 × 127 saturates (R47). -/
theorem test_int32_saturates : mmaEntry {} (6 * 16) (2 ^ 31 - 1) (List.replicate 4 (intNum 127)) (List.replicate 4 (intNum 127)) [] [] 0
    = (2 ^ 31 - 1, Flags.intSat) := by decide +kernel

/-- −2^31 plus 1 × 1 does not (R47). -/
theorem test_int32_exact : mmaEntry {} (6 * 16) (2 ^ 31) [intNum 1] [intNum 1] [] [] 0 = (2 ^ 31 + 1, 0) := by decide +kernel

theorem witness_vector_operations : ∀ opc ∈ [0x01, 0x02, 0x03, 0x04, 0x05, 0x06, 0x07, 0x08, 0x09, 0x10, 0x11, 0x12, 0x13, 0x14, 0x15,
      0x20, 0x21, 0x22, 0x23, 0x30, 0x31, 0x32, 0x33, 0x34, 0x40, 0x41, 0x50, 0x51, 0x52, 0x64],
    runnable vOpc vQueue vFoot opc 0 ((withOps 0 (opc + 8 * 2 ^ 20)).vcore 48).ops
      = some ([], { word := BitVec.ofNat 128 (opc + 8 * 2 ^ 20) }, [])
      ∧ (withOps 0 (opc + 8 * 2 ^ 20)).standsStill 48 = false := by decide +kernel

/-- A gather of index 0 of eight FP32 elements; a top-k; a sample of eight equal logits at TEMP 0 (R97, file 12). -/
theorem witness_gather_topk : ∀ opc ∈ [0x34, 0x50, 0x52],
    let o : Op := { word := BitVec.ofNat 128 (opc + 8 * 2 ^ 20 + 2 ^ 96) }
    let s := withOps 0 (opc + 8 * 2 ^ 20 + 2 ^ 96)
    let u := s.ringBlur 48 ((s.vcore 48).readsOf [] o)
    runnable vOpc vQueue vFoot opc 0 (s.vcore 48).ops = some ([], o, []) ∧ s.standsStill 48 = false
      ∧ (opc = 0x34 → (vgatherOp (u.vcore 48) o.word.toNat).2 = none)
      ∧ (opc = 0x50 → (vtopkOp (u.vcore 48) (u.vEnv 48) o.word.toNat).2 = none)
      ∧ (opc = 0x52 → (vsampOp (u.vcore 48) (u.vEnv 48) o.word.toNat).2 = none) := by decide +kernel

theorem witness_vadd_fp32 : vFmtA vaddWord = 0 ∧ vFmtD vaddWord = 0 ∧ vRnd vaddWord = false ∧ vSb vaddWord = false
    ∧ vCount vaddWord = 8 := by decide

/-- 1 + 1 = 2 and 1 + 2^−24 rounds to even (R35). -/
theorem test_fadd : fadd {} 0x3F800000 0x3F800000 = (0x40000000, 0) ∧ fadd {} 0x3F800000 0x33800000 = (0x3F800000, 0)
    ∧ fadd {} 0x3F800000 0xBF800000 = (0, 0) ∧ fadd {} (2 ^ 31) (2 ^ 31) = (2 ^ 31, 0) := by decide +kernel

theorem witness_zero_sum : (groupSum [intNum 1, intNum 1] [intNum 1, intNum (-1)]).1.isZero = true
    ∧ (∀ p ∈ List.zipWith Num.mul [intNum 1, intNum 1] [intNum 1, intNum (-1)], p.1.isNan = false ∧ p.1.isInf = false)
    ∧ (0x3F800000 : Nat) / 2 ^ 23 < 255 := by decide +kernel

theorem witness_vshuf : runnable vOpc vQueue vFoot 0x33 0 ((withOps 0 (0x33 + 2 ^ 8 + 16 * 2 ^ 20 + 7 * 2 ^ 96)).vcore 48).ops
    = some ([], { word := BitVec.ofNat 128 (0x33 + 2 ^ 8 + 16 * 2 ^ 20 + 7 * 2 ^ 96) }, [])
    ∧ vFmtA (0x33 + 2 ^ 8 + 16 * 2 ^ 20 + 7 * 2 ^ 96) = 1
    ∧ 32 * 0 + 4 * (vEoff (0x33 + 2 ^ 8 + 16 * 2 ^ 20 + 7 * 2 ^ 96) / 2 ^ (3 * 0) % 8) + 3 < 32 := by decide +kernel

/-- Slice moves of one word (R78, R104): TFILL, TWRITE, VFILL, VWRITE and VFWD; the start of a VSEND. -/
theorem witness_slice_moves :
    (∀ k ∈ [1, 4], runnable tOpc tQueue tFoot k 0 ((withOps (k + 2 ^ 5) 0).tcore 0).ops
      = some ([], { word := BitVec.ofNat 128 (k + 2 ^ 5) }, []) ∧ fillLen (k + 2 ^ 5) = 1 ∧ fillUnpack (k + 2 ^ 5) = false)
    ∧ ((withOps (1 + 2 ^ 5) 0).portRead 0 0 []).2.status = .ok
    ∧ (∀ k ∈ [0x60, 0x61, 0x62], runnable vOpc vQueue vFoot k 1 ((withOps 0 (k + 2 ^ 20)).vcore 48).ops
      = some ([], { word := BitVec.ofNat 128 (k + 2 ^ 20) }, []) ∧ vCount (k + 2 ^ 20) = 1)
    ∧ ((withOps 0 (0x60 + 2 ^ 20)).portRead 48 0 []).2.status = .ok ∧ 48 % 64 < 58
    ∧ (∀ k ∈ [1, 4], (withOps (k + 2 ^ 5) 0).standsStill 0 = false)
    ∧ (∀ k ∈ [0x60, 0x61, 0x62, 0x63], (withOps 0 (k + 2 ^ 20)).standsStill 48 = false)
    ∧ splitQueue vQueue 1 ((withOps 0 (0x63 + 2 ^ 20)).vcore 48).ops = some ([], { word := BitVec.ofNat 128 (0x63 + 2 ^ 20) }, [])
    ∧ vOpc (0x63 + 2 ^ 20) = 0x63 := by decide +kernel

/-! ### Slots, sluices, memory commands, bounds and links -/

theorem witness_router_slot : ∃ s u : State,
    (s.fabric 0).foldlM (fun v cl => v.clusterSlot (s.polder 0) (s.polder 0).slot cl) s = .ok u
    ∧ (s.polder 0).state = .running ∧ (s.polder 0).markDue = false ∧ (s.polder 0).holds = []
    ∧ s.stillDue 0 = false ∧ s.fabric 0 = [0]
    ∧ ∀ cl ∈ s.fabric 0, (s.cluster cl).synced (s.polder 0).slot = true ∧ s.meshAskers (s.polder 0).slot cl = [] :=
  ⟨withCluster (scoring 60 {}) { since := 5 }, _, rfl, by decide +kernel⟩

/-- T-core 0 is to send a beat and has none. -/
theorem witness_blocked_router : ∃ s : State, (s.polder 0).state = .running ∧ (s.polder 0).markDue = false ∧ (s.polder 0).holds = []
    ∧ s.stillDue 0 = false ∧ s.fabric 0 = [0] ∧ (∀ cl ∈ s.fabric 0, (s.cluster cl).synced (s.polder 0).slot = true)
    ∧ s.meshAskers (s.polder 0).slot 0 ≠ [] :=
  ⟨withCluster (scoring 60 {}) { since := 5, inForce := BitVec.ofNat 128 (2 ^ 32 + 2 ^ 64) }, by decide +kernel⟩

theorem witness_held_polder : ∃ s : State, (s.polder 0).state = .running ∧ (s.polder 0).markDue = false ∧ (s.polder 0).holds ≠ [] :=
  ⟨live1 { polder1 with state := .running, holds := [(.sin 63, 0)] }, by decide +kernel⟩

theorem witness_entry_advance : ∃ s : State, (s.polder 0).state = .running ∧ (s.polder 0).holds = [] ∧ s.fabric 0 = [0]
    ∧ (s.cluster 0).synced (s.polder 0).slot = false :=
  ⟨withCluster (scoring 60 {}) { since := 0, table := [(1, 1)] }, by decide +kernel⟩

theorem witness_sluice_arrival : ∃ s : State, (s.cluster 0).sin.coming = [zeros 64] ∧ (s.cluster 0).sin.bound = some 255
    ∧ (s.cluster 0).sin.open_ = true ∧ (s.chan 255).begun = false ∧ (s.cluster 0).sin.head + (s.cluster 0).sin.filled = 32
    ∧ s.turnedAway (.dma 255) (2 ^ 60 + 0) (some 0) = false :=
  ⟨withCluster live { sin := { open_ := true, bound := some 255, coming := [zeros 64], head := 31, filled := 1, inflight := 1 } },
    by decide +kernel⟩

theorem witness_sluice_taken : ∃ (s : State) (d : Desc),
    (s.cluster 0).sout.bound = some 0 ∧ (s.cluster 0).sout.open_ = true ∧ (s.cluster 0).sout.posted = 32
    ∧ (s.cluster 0).sout.spoiled = [] ∧ s.runningOp 0 = some d ∧ d.op = 3 ∧ d.dstDev = false ∧ (s.chan 0).done + 1 < d.len
    ∧ (s.chan 0).parked = 0 ∧ (s.chan 0).remote = 0 ∧ (s.chan 0).retry = none ∧ (s.chan 0).retryAccess = []
    ∧ s.mayAskHost 0 = true ∧ s.hostOk (s.chan 0).func (d.dst + 64 * (s.chan 0).done) 64 = true
    ∧ s.turnedAway (.dma 0) (2 ^ 60 + 0) (some 0) = false :=
  ⟨withCluster (withChan { state := .active, size := 4, fetched := [descOf 3 2 0 8192], begun := true })
    { sout := { open_ := true, bound := some 0, posted := 32 } }, descOf 3 2 0 8192, by decide +kernel⟩

theorem witness_mem_init_ucm : ∃ (s u : State) (f : Nat) (c : Cmd), s.Takes f (fun o a1 => o == 0x30 && a1 == 0) c u ∧ c.a 2 < 24
    ∧ (∀ d, (s.polder (c.a 2)).holds? (2 * d) = true ∨ (s.polder (c.a 2)).holds? (2 * d + 1) = true → s.ucmOff d = false)
    ∧ u.polderFail (c.a 2) false = none ∧ (s.polder (c.a 2)).state ≠ .running ∧ (s.polder (c.a 2)).state ≠ .resetting
    ∧ (s.polder (c.a 2)).pending = false ∧ c.a64 5 ≠ 0 ∧ c.a 4 ≠ 0 ∧ c.a 3 % 32 = 0 ∧ c.a 4 ≤ 24576
    ∧ c.a 3 + 32 * c.a 4 ≤ sliceBytes := by
  refine ⟨asks { live1 polder1 with ucmDies := [(0, { on := true, band := 1 })] } 0 0x30 0 [0, 0, 0, 24576, 1, 0x80000000], _, 0,
    cmd 0 0x30 [0, 0, 0, 24576, 1, 0x80000000],
    asks_takes_by,
    by decide, fun d h => ?_, by decide +kernel⟩
  match d with
  | 0 => decide +kernel
  | d + 1 => revert h; simp [asks, live1, State.polder, Sparse.get, Polder.holds?, polder1, cmd, Cmd.a, nth]; omega

theorem witness_mem_init_edge : ∃ (s u : State) (f : Nat) (c : Cmd), s.Takes f (fun o a1 => o == 0x30 && a1 == 1) c u ∧ (∀ e, (s.edgeCh e).state ≠ .failed ∧ (s.edgeCh e).mode = .memory)
    ∧ c.a 2 ≤ 1 ∧ c.a64 3 = 0 ∧ 4096 * c.a 5 = 1024 * s.chBytes ∧ s.anyRunning = false ∧ ∀ e < 32, s.stackOff e = false :=
  ⟨asks (withStacks live) 0 0x30 0 [1, 1, 0, 0, 0x18000000], _, 0, cmd 0 0x30 [1, 1, 0, 0, 0x18000000],
    asks_takes_by, fun e => by
      have h : (asks (withStacks live) 0 0x30 0 [1, 1, 0, 0, 0x18000000]).edgeCh e = {} := rfl
      rw [h]
      decide, by decide +kernel⟩

theorem witness_mem_init_basin : ∃ (s u : State) (f : Nat) (c : Cmd), s.Takes f (fun o a1 => o == 0x30 && a1 == 2) c u
    ∧ c.a 2 = 2 ^ 3 ∧ c.a 5 ≠ 0 ∧ c.a 4 % 64 = 0 ∧ c.a 3 ≤ 8 ∧ (c.a 3 = 8 ∨ c.a 4 + 64 * c.a 5 ≤ (8 - c.a 3) * 0x4000000)
    ∧ (s.basin 3).cacheSteps ≠ c.a 3 ∧ s.anyRunning = false ∧ s.basinOff 3 = false ∧ s.thermal.coolantHold = false :=
  ⟨asks (withStacks live) 0 0x30 0 [2, 8, 0, 0, 1], _, 0, cmd 0 0x30 [2, 8, 0, 0, 1],
    asks_takes_by,
    by decide +kernel⟩

/-- The setting stays, and the whole scratch is the range. -/
theorem witness_mem_init_scratch : ∃ (s u : State) (f : Nat) (c : Cmd), s.Takes f (fun o a1 => o == 0x30 && a1 == 2) c u
    ∧ c.a 2 = 2 ^ 0 ∧ c.a 5 ≠ 0 ∧ c.a 4 % 64 = 0 ∧ c.a 3 ≤ 8 ∧ c.a 4 + 64 * c.a 5 = (8 - c.a 3) * 0x4000000
    ∧ (s.basin 0).cacheSteps = c.a 3 ∧ c.a 3 ≠ 8 ∧ s.anyRunning = false ∧ s.basinOff 0 = false ∧ s.thermal.coolantHold = false :=
  ⟨asks { withStacks live with basins := [(0, { cacheSteps := 7 })] } 0 0x30 0 [2, 1, 7, 0, 0x100000], _, 0,
    cmd 0 0x30 [2, 1, 7, 0, 0x100000], asks_takes_by, by decide +kernel⟩

theorem witness_near_bank_mode : ∃ (s u t w : State) (c d : Cmd), s.Takes 0 (fun o a1 => o == 0x31 && bit a1 0) c u
    ∧ (∃ chs, u.nbModeCheck c false = .ok chs) ∧ t.Takes 0 (fun o a1 => o == 0x31 && !bit a1 0) d w
    ∧ ∃ chs, w.nbModeCheck d true = .ok chs :=
  ⟨asks (withStacks live) 0 0x31 0 [1, 0, 1], _, asks (withStacks live) 0 0x31 0 [0, 1023, 1], _, cmd 0 0x31 [1, 0, 1],
    cmd 0 0x31 [0, 1023, 1],
    asks_takes_by, ⟨_, rfl⟩,
    asks_takes_by, ⟨_, rfl⟩⟩

theorem witness_kv_space : ∃ (s u : State) (f : Nat) (c : Cmd), s.TakesOp f 0x32 c u ∧ (∀ e ∈ s.channels, e.2.queue = [])
    ∧ c.a 2 ≠ 0 ∧ c.a 3 ≠ 0 ∧ c.a 1 % 4096 = 0 ∧ c.a 2 % 64 = 0 ∧ c.a 1 + c.a 3 * c.a 2 = s.chBytes :=
  ⟨asks live 0 0x32 0 [0, 0x60000000, 1], _, 0, cmd 0 0x32 [0, 0x60000000, 1], asks_takes,
    by simp [asks, live, State.reset], by decide +kernel⟩

/-- One command for each of the five loops, at a boundary of its range (R366). -/
theorem witness_loop_bounds :
    (∀ l ∈ ([[1, 0xFFFFFF9C, 50], [0x5F0002, 0, 1], [0xFFFF0002, 1, 1], [3, 1, 168], [4, 0, 3600], [5, 0, 15]] : List (List Word)),
      (asks live 0 0x44 0 l).TakesOp 0 0x44 (cmd 0 0x44 (l.map BitVec.toNat)) (taken live 0 0x44 0 l))
    ∧ -100 ≤ sx 32 0xFFFFFF9C ∧ sx 32 0xFFFFFF9C ≤ sx 32 50 ∧ sx 32 50 ≤ 50 ∧ bits 0x5F0002 0 8 = 2 ∧ bits 0x5F0002 16 16 = 95
    ∧ bits 0xFFFF0002 16 16 = 0xFFFF ∧ live.topStep = 15 ∧ ∀ e ∈ live.halfDies, e.1 < 24 := by
  refine ⟨?_, by decide⟩
  have h : ∀ l ∈ ([[1, 0xFFFFFF9C, 50], [0x5F0002, 0, 1], [0xFFFF0002, 1, 1], [3, 1, 168], [4, 0, 3600], [5, 0, 15]] : List (List Word)),
      (asks live 0 0x44 0 l).mailOpen 0 = true
        ∧ (taken live 0 0x44 0 l).checked 0 ⟨7, 0x44, 0, l⟩ = .ok (cmd 0 0x44 (l.map BitVec.toNat)) := by decide +kernel
  exact fun l hl => asks_takes (h l hl).1 (h l hl).2

/-- A live module with an empty block at host address 4,096. -/
def withBlock : State := { live with hostMem := Memory.write [] 4096 (outHead 0 0 ++ []) }

theorem witness_readings : ∃ (s t v w : State) (c d e x : Cmd), ((∃ u, s.TakesOp 0 0x70 c u) ∧ (∃ u, t.TakesOp 0 0x42 d u)
      ∧ (∃ u, v.TakesOp 0 0x51 e u) ∧ ∃ u, w.TakesOp 24 0x42 x u)
    ∧ c.a 1 ≤ 4 ∧ c.out = 0 ∧ d.a 1 = 2 ∧ d.out = 0 ∧ e.a 2 ≠ 0 ∧ e.a 1 + e.a 2 = 96 ∧ e.out = 0 ∧ x.a 1 = 1 ∧ x.out = 0 := by
  have h1 := block_takes withBlock 0 0x70 1 [4, 0] ⟨.any, .required, some 2, []⟩ []
  have h2 := block_takes withBlock 0 0x42 1 [2] ⟨.any, .required, some 1, []⟩ []
  have h3 := block_takes withBlock 0 0x51 1 [95, 1] ⟨.pf, .required, some 2, []⟩ []
  have h4 := block_takes { withBlock with vfMap := [(24, 0)] } 24 0x42 1 [1] ⟨.any, .required, some 1, []⟩ []
  refine ⟨_, _, _, _, _, _, _, _, ⟨⟨_, h1⟩, ⟨_, h2⟩, ⟨_, h3⟩, _, h4⟩, ?_⟩
  decide +kernel

/-- One LINK_CONFIG for each of its six sub-operations (R446). -/
theorem witness_link_config : live.power.pkg ≠ .p2 ∧ ∀ l ∈ ([[1, 95, 1], [2, 0, 96], [3, 5], [4, 7, 5, 0x103, 0, 0x20],
      [5, 5, 0x103, 0, 0, 4096, 0], [6, 1, 5, 3]] : List (List Word)),
    (asks live 0 0x50 0 l).Takes 0 (fun o a1 => o == 0x50 && bits a1 0 8 == (nth 0 l 0).toNat) (cmd 0 0x50 (l.map BitVec.toNat))
      (taken live 0 0x50 0 l) := by
  have h : ∀ l ∈ ([[1, 95, 1], [2, 0, 96], [3, 5], [4, 7, 5, 0x103, 0, 0x20], [5, 5, 0x103, 0, 0, 4096, 0], [6, 1, 5, 3]] : List (List Word)),
      (0x50 == 0x50 && bits (⟨7, 0x50, 0, l⟩ : Msg).a1 0 8 == (nth 0 l 0).toNat) = true ∧ (asks live 0 0x50 0 l).mailOpen 0 = true
        ∧ (taken live 0 0x50 0 l).checked 0 ⟨7, 0x50, 0, l⟩ = .ok (cmd 0 0x50 (l.map BitVec.toNat)) := by decide +kernel
  exact ⟨by decide, fun l hl => asks_takes_by (h l hl).1 (h l hl).2.1 (h l hl).2.2⟩

theorem witness_link_window : (cmd 0 0x50 [4, 7, 5, 0x103, 0, 0x20]).a64 5 % 2 ^ 37 = 0
    ∧ (cmd 0 0x50 [4, 7, 5, 0x103, 0, 0x20]).a64 5 + 2 ^ 37 ≤ 0x060000000000
    ∧ ∀ i < 16, (Sparse.get {} live.inbound i : Inbound).used = false := by decide +kernel

/-! ### Firmware, repair and diagnosis -/

theorem report_length (s : State) (f : Nat) (n : List Byte) (hn : n.length = 32) (he : s.trust.endorse = []) (hm : s.trust.mCfg = []) :
    (s.report_ f n).length = 5971 := by
  have h4 (m : List Byte) : (measure m).length = 64 := shake_length m 64 (by decide)
  have hp (l : List Nat) : (l.flatMap fun n => if s.ownsPolder f n then
      leBytes 8 (s.polder n).shape ++ leBytes 4 (s.stateWord n) ++ zeros 4 else zeros 16).length = 16 * l.length := by
    induction l with
    | nil => rfl
    | cons x l ih =>
      rw [List.flatMap_cons, List.length_append, ih]
      split <;> simp [leBytes, zeros] <;> omega
  have hb (k x : Nat) : (leBytes k x).length = k := by
    induction k generalizing x with
    | zero => rfl
    | succ k ih => rw [leBytes, List.length_cons, ih]
  have hz (k : Nat) : (zeros k).length = k := List.length_replicate
  have hf (k : Nat) (l : List Byte) : (fit k l).length = k := by
    simp [fit, zeros]
    omega
  have hk (x : List Byte) : (mldsaPublic x).length = 1952 := hf 1952 _
  have hs (x y r : List Byte) : (mldsaSign x y r).length = 3309 := hf 3309 _
  unfold State.report_ State.reportHead
  simp only [List.length_append, hb, hz, hk, hs, h4, hp, hn, he, hm, List.length_range, List.length_nil]

/-- A live module with an output buffer of `n` units at host address 8,192 named by the block at 4,096. -/
def withOut (n : Nat) : State := { live with hostMem := Memory.write [] 4096 (outHead 8192 n ++ []) }

theorem witness_attest : ∃ (s u : State) (c : Cmd), s.TakesOp 0 0x60 c u ∧ 146 ≤ c.outLen ∧ c.out ≠ 0 ∧ c.out % 2 = 0
    ∧ u.report_ 0 (c.args.flatMap fun a => leBytes 4 a) ≠ []
    ∧ (u.report_ 0 (c.args.flatMap fun a => leBytes 4 a)).length ≤ 64 * c.outLen
    ∧ s.hostOk 0 c.out (u.report_ 0 (c.args.flatMap fun a => leBytes 4 a)).length = true := by
  have h := out_takes (withOut 146) 0 0x60 1 [1, 2, 3, 4, 5, 6, 7, 8] ⟨.any, .required, some 8, []⟩ [] 8192 146
  have hl := report_length (taken (withOut 146) 0 0x60 1 [4096, 0, 1, 1, 2, 3, 4, 5, 6, 7, 8]) 0
    ((cmd 0 0x60 [1, 2, 3, 4, 5, 6, 7, 8]).args.flatMap fun a => leBytes 4 a) rfl rfl rfl
  refine ⟨_, _, _, h, by decide, by decide, by decide, fun e => ?_, hl.trans_le (by decide), hostOk_any _ rfl _ _ _⟩
  exact absurd (hl.symm.trans (congrArg List.length e)) (by decide)

theorem witness_cert_read : ∃ (s u : State) (c : Cmd), s.TakesOp 0 0x61 c u ∧ c.out ≠ 0 ∧ c.out % 2 = 0 ∧ u.certChain ≠ []
    ∧ u.certChain.length ≤ 64 * c.outLen ∧ s.hostOk 0 c.out u.certChain.length = true := by
  have h := out_takes (withOut 1) 0 0x61 1 [0] ⟨.any, .required, some 1, [above 0]⟩ [] 8192 1
  exact ⟨_, _, _, h, by decide, by decide, by decide, by decide, hostOk_any _ rfl _ _ _⟩

theorem witness_cert_read_none : ∃ (s u : State) (c : Cmd), s.TakesOp 0 0x61 c u ∧ c.out = 0 :=
  ⟨_, _, _, block_takes withBlock 0 0x61 1 [0] ⟨.any, .required, some 1, [above 0]⟩ [], rfl⟩

theorem witness_commit : ∃ (s u : State) (c : Cmd), s.TakesOp 0 0x63 c u ∧ s.trust.staged = some [1] :=
  ⟨asks { live with trust := { running := true, staged := some [1] } } 0 0x63 0 [0], _, cmd 0 0x63 [0],
    asks_takes, rfl⟩

/-- A repair of kind 4, edge channel 31 of edge base die 31 (R413). -/
def entry4 : RepairEntry := ⟨4, 31, 2, 31⟩

theorem witness_repair_stage : ∃ (s u : State) (c : Cmd), s.TakesOp 0 0x71 c u ∧ c.body = repairBytes entry4 ++ zeros 48
    ∧ 1 ≤ entry4.kind ∧ entry4.kind ≤ 4 ∧ entry4.source = 2 ∧ repairInRange entry4 = true
    ∧ repairOf (repairBytes entry4) = entry4 ∧ s.repair.inForce = [] ∧ s.repair.staged = [] := by
  have h := block_takes { live with hostMem := Memory.write [] 4096 (outHead 0 0 ++ (repairBytes entry4 ++ zeros 48)) } 0 0x71 2 [0]
    ⟨.pf, .required, some 1, [above 0]⟩ (repairBytes entry4 ++ zeros 48) (by decide +kernel)
  exact ⟨_, _, _, h, rfl, by decide, by decide, by decide, by decide, by decide +kernel, rfl, rfl⟩

/-- A culvert entry of the same pair of base dies stands in the field map. -/
theorem witness_repair_clash : ∃ (s u : State) (c : Cmd) (e : RepairEntry), s.TakesOp 0 0x71 c u ∧ c.body = repairBytes e ++ zeros 48
    ∧ 1 ≤ e.kind ∧ e.kind ≤ 4 ∧ e.source = 2 ∧ repairInRange e = true ∧ repairOf (repairBytes e) = e ∧ s.repair.inForce = []
    ∧ s.repair.staged = [] ∧ s.fieldMap.any (culvertClash e) = true := by
  have h := block_takes { live with hostMem := Memory.write [] 4096 (outHead 0 0 ++ (repairBytes ⟨2, 0, 2, 0⟩ ++ zeros 48)), repair := { copyA := some (1, [⟨2, 0, 2, 65⟩]) } } 0 0x71 2 [0]
    ⟨.pf, .required, some 1, [above 0]⟩ (repairBytes ⟨2, 0, 2, 0⟩ ++ zeros 48) (by decide +kernel)
  exact ⟨_, _, _, ⟨2, 0, 2, 0⟩, h, rfl, by decide, by decide, by decide, by decide +kernel, by decide +kernel, rfl, rfl, by decide +kernel⟩

theorem witness_repair_commit : ∃ (s u : State) (c : Cmd), s.TakesOp 0 0x72 c u ∧ s.repair.staged ≠ []
    ∧ (addRepairs s.fieldMap s.repair.staged).length ≤ 1024 :=
  ⟨asks { live with repair := { staged := [entry4] } } 0 0x72 0 [0], _, cmd 0 0x72 [0],
    asks_takes, by decide +kernel⟩

theorem witness_diag : ∃ (s u : State) (c : Cmd), s.Takes 0 (fun o a1 => o == 0x7F && bits a1 0 8 == 1) c u :=
  ⟨asks live 0 0x7F 0 [1], _, cmd 0 0x7F [1], asks_takes_by⟩

theorem witness_half_die_test : ∃ (s u : State) (c : Cmd) (l : List RepairEntry),
    s.Takes 0 (fun o a1 => o == 0x7F && bits a1 0 8 == 2) c u ∧ c.a 2 ≤ 23 ∧ s.polderOf (c.a 2) = 31 ∧ s.power.pkg ≠ .p2
    ∧ s.thermal.coolantHold = false ∧ s.dieShut (c.a 2) = false ∧ c.fits (l.flatMap fun e => repairBytes { e with source := 2 }).length = true ∧ bit (c.a 3) 0 = false :=
  ⟨asks live 0 0x7F 0 [2, 23, 0], _, cmd 0 0x7F [2, 23, 0], [⟨1, 0, 0, 0⟩],
    asks_takes_by, by decide +kernel⟩

theorem witness_edge_retrain : ∃ (s u : State) (c : Cmd), s.Takes 0 (fun o a1 => o == 0x7F && bits a1 0 8 == 3) c u ∧ c.a 2 ≤ 1023
    ∧ (s.edgeCh (c.a 2)).state ≠ .removed ∧ s.stackOff (c.a 2 / 32) = false :=
  ⟨asks (withStacks live) 0 0x7F 0 [3, 1023], _, cmd 0 0x7F [3, 1023],
    asks_takes_by, by decide +kernel⟩

/-! ### Floodgates and fences -/

theorem witness_floodgate : ∃ (s : State) (v w x : Word), s.vfPolder 24 = 0 ∧ (s.polder 0).exists_ = true ∧ s.gates = []
    ∧ (s.polder 0).gates = [] ∧ (s.polder 0).state = .running ∧ v.toNat = fgKey ∧ bits w.toNat 0 16 = fgKey
    ∧ bits w.toNat 21 11 = 0 ∧ bits w.toNat 16 5 = 0 ∧ x.toNat ≠ fgKey :=
  ⟨{ live1 { polder1 with state := .running, job := some (job .running) } with vfMap := [(24, 0)] }, 0x0F1D, 0x0F1D, 0,
    by decide +kernel⟩

/-- One waits for a polder's floodgate, which was its last; DRAINED is due to another function. -/
theorem witness_floodgate_complete : ∃ s : State, (s.polder 0).gates = [⟨24, false, 3, 1⟩] ∧ (3, 0) ∈ s.draining
    ∧ (s.func 24).fg.key = 1 ∧ (s.onPolder 0 fun p => { p with gates := [] }).gating 24 = false
    ∧ ∃ t u : State, t.gates ≠ [] ∧ t.trust.resetDue = false ∧ u.gates ≠ [] ∧ u.trust.resetDue = true :=
  ⟨{ live1 { polder1 with state := .halted, gates := [⟨24, false, 3, 1⟩] } with
      draining := [(3, 0)], funcs := [(24, { fg := fgBusy 0 1 })] }, by decide +kernel, by decide, by decide, by decide +kernel,
    { live with gates := [⟨0, true, 3, 1⟩] }, { live with gates := [⟨0, true, 3, 1⟩], trust := { resetDue := true } }, by decide⟩

/-- A read of a disabled channel and a write of another polder's wait; neither keeps polder 0 from being drained. -/
theorem witness_floodgate_drained : ∃ s : State, (3, 0) ∈ s.draining ∧ (s.edgeCh 5).held.length = 2
    ∧ ∀ e ∈ s.channels, ∀ h ∈ e.2.held, h.lingers 0 = false :=
  ⟨{ live with draining := [(3, 0), (4, 1)], channels := [(5, { held := [
      { req := { who := .dma 7 }, addr := 0, acc := .read 64, life := deadLife, polder := 0 },
      { req := { who := .dma 8 }, addr := 0, acc := .write [1], life := deadLife, polder := 1 }] })] },
    by decide +kernel⟩

theorem witness_pmp : ∃ (s : State) (v w : Word), v.toNat % 2 ^ 16 = pmpKey ∧ s.trust.gated = true ∧ w.toNat % 2 ^ 16 ≠ pmpKey
    ∧ s.trust.running = true ∧ s.boot.running = false ∧ s.gates = [] ∧ s.polderOf 0 < 24 ∧ (s.polder 0).exists_ = true
    ∧ (s.polder 0).state ≠ .halted :=
  ⟨{ live1 { polder1 with state := .loaded } with trust := { running := true, gated := true } }, 0xFFFF0F1E, 0, by decide +kernel⟩

/-! ### DMA channels -/

/-- Channel 0 with the fields that a write of DMA_RING_CTL takes. -/
def ctlTaken (s : State) (v : U64) : State :=
  s.setChan 0 { s.chan 0 with vector := bits v.toNat 48 9, timeoutMs := bits v.toNat 16 14, size := bits v.toNat 0 16 }

theorem witness_enable : ∃ (s : State) (v w : U64), s.owns 0 0 = true ∧ (s.chan 0).state = .disabled ∧ v.getLsbD 63 = true
    ∧ (ctlTaken s v).enableCheck 0 = none ∧ w.getLsbD 63 = true ∧ (ctlTaken s w).enableCheck 0 = some .badLength :=
  ⟨live, 0x81FF0000000A0004, 0x80000000000A0000, by decide +kernel⟩

theorem witness_disable_resume : ∃ (s : State) (v w : U64), s.owns 0 0 = true ∧ (s.chan 0).state = .halted ∧ v.getLsbD 63 = false
    ∧ w.getLsbD 63 = true ∧ w.getLsbD 62 = true ∧ (s.chan 0).finish = none ∧ (s.engine (engineOf 0)).stopped = false
    ∧ (s.chan 0).tail < bits w.toNat 0 16 ∧ bits (0xC000000000000000 : U64).toNat 0 16 ≤ (s.chan 0).tail :=
  ⟨withChan { state := .halted, size := 4 }, 0, 0xC000000000000001, by decide +kernel⟩

theorem witness_resume_stopped : ∃ (s : State) (w : U64), s.owns 0 0 = true ∧ (s.chan 0).state = .halted
    ∧ w.getLsbD 63 = true ∧ w.getLsbD 62 = true ∧ (s.chan 0).finish = none ∧ (s.engine (engineOf 0)).stopped = true :=
  ⟨{ withChan { state := .halted, size := 4 } with engines := [(0, { stopped := true })] }, 0xC000000000000000, by decide +kernel⟩

/-- The last TAIL that a ring of four takes, and the first it does not, with a descriptor that runs and without one. -/
theorem witness_tail : ∃ (s t : State) (v w : U64), s.owns 0 0 = true ∧ s.working 0 = true ∧ v.toNat % 65536 + 1 = (s.chan 0).size
    ∧ (s.chan 0).size = w.toNat % 65536 ∧ (s.chan 0).begun = false ∧ t.owns 0 0 = true ∧ t.working 0 = true
    ∧ (t.chan 0).size = w.toNat % 65536 ∧ (t.chan 0).begun = true :=
  ⟨withChan { state := .active, size := 4 }, withChan { state := .active, size := 4, fetched := [descOf 1 1 0 0], begun := true },
    3, 4, by decide +kernel⟩

/-- A TAIL that a DISABLED channel takes, and the first that a HALTED one may not hand over. -/
theorem witness_tail_kept : ∃ (s t : State) (v : U64), s.owns 0 0 = true ∧ (s.chan 0).state = .disabled ∧ t.owns 0 0 = true
    ∧ (t.chan 0).state = .halted ∧ (t.chan 0).size = v.toNat % 65536 :=
  ⟨live, withChan { state := .halted, size := 4 }, 4, by decide +kernel⟩

theorem witness_owner : ∃ (s : State) (v : U64), (s.chan 0).state = .disabled
    ∧ ((List.range 256).filter fun o => (s.chan o).func == bits v.toNat 0 8).length < 32 ∧ (s.chan 1).state ≠ .disabled :=
  ⟨{ withChan {} with dma := [(1, { state := .waiting })] }, 0x1F01, by decide +kernel⟩

/-- A ring of four in host memory at 4,096 whose first descriptor is `d`. -/
def withRing (c : DmaCh) (d : Desc) : State := { withChan c with hostMem := Memory.write [] 4096 d.bytes }

theorem witness_fetch : ∃ s t : State,
    (s.working 0 = true ∧ (s.chan 0).stalled = false ∧ (s.chan 0).fetching = false ∧ (s.chan 0).fetched.length < 8
      ∧ (s.chan 0).fetch ≠ (s.chan 0).tail ∧ (s.chan 0).finish = none ∧ (s.chan 0).fetchErr = none ∧ (s.chan 0).dev = false ∧ s.mayAskHost 0 = true
      ∧ s.hostOk (s.chan 0).func ((s.chan 0).slotAddr (s.chan 0).fetch) 64 = true
      ∧ (⟨0, s.hostMem.read ((s.chan 0).slotAddr (s.chan 0).fetch) 64⟩ : Desc).own = true)
    ∧ t.working 0 = true ∧ t.mayAskHost 0 = true ∧ (t.chan 0).fetched = [] ∧ (t.chan 0).fetching = false
      ∧ (⟨0, t.hostMem.read ((t.chan 0).slotAddr (t.chan 0).fetch) 64⟩ : Desc).own = false :=
  ⟨withRing { state := .active, base := 4096, size := 4, tail := 1 } (descOf 6 0 0 0),
    withChan { state := .active, base := 4096, size := 4, tail := 1 }, by decide +kernel⟩

/-- A ring in the edge space. -/
theorem witness_fetch_device : ∃ s : State, s.working 0 = true ∧ (s.chan 0).stalled = false ∧ (s.chan 0).fetching = false
    ∧ (s.chan 0).fetched.length < 8 ∧ (s.chan 0).fetch ≠ (s.chan 0).tail ∧ (s.chan 0).finish = none ∧ (s.chan 0).dev = true
    ∧ (s.chan 0).fetchErr = none
    ∧ ((s.engineCount 0 0 64).chanAccess 0 { who := .dma 0, fetch := true } ((s.chan 0).slotAddr (s.chan 0).fetch) (.read 64)).2.status = .ok :=
  ⟨withStacks (withChan { state := .active, base := 4096, dev := true, size := 4, tail := 1 }), by decide +kernel⟩

theorem witness_descriptor_starts : ∃ (s : State) (d : Desc), s.desc 0 = some d ∧ s.working 0 = true
    ∧ ((s.chan 0).finish = none ∧ (s.chan 0).parked = 0 ∧ (s.chan 0).retryAccess = [] ∧ (s.chan 0).remote = 0
      ∧ (s.chan 0).retry = none) ∧ (s.chan 0).begun = false ∧ d.op = 6 ∧ s.descCheck 0 d = none :=
  ⟨withChan { state := .active, base := 4096, size := 4, tail := 1, fetched := [descOf 6 0 0 0] }, descOf 6 0 0 0, by decide +kernel⟩

/-- A COPY of no units: BAD_LENGTH (R282). -/
theorem witness_descriptor_refused : ∃ (s : State) (d : Desc) (x : Status × Nat), s.desc 0 = some d ∧ s.working 0 = true
    ∧ ((s.chan 0).finish = none ∧ (s.chan 0).parked = 0 ∧ (s.chan 0).retryAccess = [] ∧ (s.chan 0).remote = 0
      ∧ (s.chan 0).retry = none) ∧ (s.chan 0).begun = false ∧ d.op = 1 ∧ d.shuf = 0 ∧ s.descCheck 0 d = some x :=
  ⟨withChan { state := .active, base := 4096, size := 4, tail := 1, fetched := [descOf 1 0 0 0] }, descOf 1 0 0 0,
    (.badLength, 0), by decide +kernel⟩

theorem witness_write_back : ∃ (s : State) (d : Desc), (s.chan 0).fetched = [d] ∧ (s.chan 0).finish = some (.ok, 2 ^ 24 - 1)
    ∧ (s.chan 0).state = .active ∧ (s.chan 0).parked = 0 ∧ (s.chan 0).retryAccess = [] ∧ (s.chan 0).fetchErr = none ∧ (s.chan 0).remote = 0
    ∧ (s.chan 0).dev = false ∧ s.mayAskHost 0 = true ∧ s.hostOk (s.chan 0).func ((s.chan 0).slotAddr d.index) 64 = true ∧ d.irq = false :=
  ⟨withChan { state := .active, base := 4096, size := 4, tail := 1, fetched := [descOf 1 1 0 0], finish := some (.ok, 2 ^ 24 - 1) },
    descOf 1 1 0 0, by decide +kernel⟩

theorem witness_channel_errors : ∃ s : State, s.working 0 = true ∧ (s.chan 0).fetched ≠ [] ∧ (s.chan 0).finish = none
    ∧ (s.engine (engineOf 0)).stopAll = false ∧ s.desc 0 ≠ none ∧ (s.chan 0).dev = false
    ∧ (s.chan 0).progressAt + (s.chan 0).timeoutMs * 100000 = s.time.dev :=
  ⟨{ withChan { state := .active, size := 4, timeoutMs := 10, fetched := [descOf 1 1 0 0] } with time := { dev := 1000000 } }, by decide +kernel⟩

theorem witness_descriptor_in_time : ∃ s : State, s.working 0 = true ∧ (s.chan 0).fetched ≠ []
    ∧ s.time.dev + 1 = (s.chan 0).progressAt + (s.chan 0).timeoutMs * 100000 :=
  ⟨{ withChan { state := .active, size := 4, timeoutMs := 10, fetched := [descOf 1 1 0 0] } with time := { dev := 999999 } }, by decide +kernel⟩

/-- A near-bank completion of channel 0's running NBCMD. -/
def nbDone (life : Nat) : NbDone := { tag := 0, channel := 3, status := .ok, flags := 0, payload := [], cycles := 1, dma := 0, life := life }

theorem witness_nb_completion : ∃ (s : State) (d : Desc),
    (s.edgeCh 3).done = [nbDone 0] ∧ (s.chan 0).life = (nbDone 0).life ∧ (s.chan 0).begun = true ∧ (s.chan 0).finish = none
    ∧ (s.chan 0).parked = 0 ∧ (s.chan 0).retryAccess = [] ∧ (s.chan 0).remote = 0 ∧ (s.chan 0).retry = none
    ∧ (s.chan 0).walk = none ∧ (s.chan 0).fetched.head? = some d ∧ (nbDone 0).channel ∈ (s.chan 0).awaited ∧ s.mayAskHost 0 = true
    ∧ (s.chan 0).life ≠ (nbDone 1).life :=
  ⟨{ withChan { state := .active, size := 4, fetched := [descOf 4 1 0 0], begun := true, awaited := [3] } with
      channels := [(3, { done := [nbDone 0] })] }, descOf 4 1 0 0, by decide +kernel⟩

theorem witness_nb_completion_walk : ∃ (s : State) (w : Walk),
    (s.edgeCh 3).done = [nbDone 0] ∧ (s.chan 0).life = (nbDone 0).life ∧ (s.chan 0).begun = true ∧ (s.chan 0).finish = none
    ∧ (s.chan 0).parked = 0 ∧ (s.chan 0).retryAccess = [] ∧ (s.chan 0).remote = 0 ∧ (s.chan 0).retry = none
    ∧ (s.chan 0).walk = some w :=
  ⟨{ withChan { state := .active, size := 4, fetched := [descOf 5 1 0 0], begun := true, walk := some { block := [], seqs := [], chans := [], entries := 0, steps := [] } } with
      channels := [(3, { done := [nbDone 0] })] }, { block := [], seqs := [], chans := [], entries := 0, steps := [] }, by decide +kernel⟩

theorem witness_held_retry : ∃ (s : State) (cmd : NbCmd), (s.chan 0).retry = some (31, cmd) ∧ (s.stack 31).dispatch.length < 8
    ∧ s.turnedAway (.dma 0) (2 ^ 61 + 31) none = false :=
  ⟨withChan { state := .active, retry := some (31, { header := [], payload := [], dma := 0 }) }, { header := [], payload := [], dma := 0 }, by decide +kernel⟩

theorem witness_held_access : ∃ (s : State) (h : Held), (s.chan 0).retry = none ∧ (s.chan 0).retryAccess = [h] :=
  ⟨withChan { state := .active, retryAccess := [{ req := { who := .dma 0 }, addr := 0, acc := .read 64 }] }, _, rfl, rfl⟩

/-! ### What descriptors do -/

/-- Descriptor `d` is about to run on channel 0. -/
def loadedWith (d : Desc) : State := withChan { state := .active, base := 4096, size := 4, tail := 1, fetched := [d] }

theorem witness_copies :
    (∀ x ∈ [(0, 0), (1, 0x200), (2, 0x200), (3, 0x00010002), (4, 0x00010002)],
      let d : Desc := ⟨0, leBytes 8 (1 + 2 ^ 8 + x.1 * 2 ^ 12 + 2 * 2 ^ 16) ++ leBytes 8 4096 ++ leBytes 8 8192 ++ leBytes 8 x.2 ++ zeros 32⟩
      let s := loadedWith d
      s.desc 0 = some d ∧ s.working 0 = true ∧ s.descCheck 0 d = none ∧ s.mayAskHost 0 = true ∧ d.op = 1 ∧ d.shuf = x.1
        ∧ d.srcDev = false ∧ d.dstDev = false ∧ d.len = 2 ∧ s.hostOk (s.chan 0).func d.src 128 = true ∧ s.hostOk (s.chan 0).func d.dst 128 = true)
    ∧ (let s := loadedWith (descOf 6 0 0 0)
      (s.chan 0).begun = false ∧ (s.chan 0).finish = none ∧ (s.chan 0).parked = 0 ∧ (s.chan 0).retryAccess = [] ∧ (s.chan 0).ahead = []
        ∧ (s.chan 0).remote = 0 ∧ (s.chan 0).retry = none) := by decide +kernel

/-- Descriptor `d` is about to run on channel 0, which belongs to a polder of half-die 23; both sluices of the last
cluster are open. -/
def sluicing (d : Desc) : State :=
  { withChan { state := .active, base := 4096, size := 4, tail := 1, fetched := [d], polder := 0 } with
    polders := [(0, { polder1 with state := .loaded, c0 := 11, r0 := 1 })]
    clusters := [(16127, { sin := { open_ := true }, sout := { open_ := true } })] }

theorem witness_to_sluice :
    let d := descOf 2 8 4096 32254
    let s := sluicing d
    s.descCheck 0 d = none ∧ d.op = 2 ∧ d.srcDev = false ∧ s.hostOk (s.chan 0).func d.src (64 * d.len) = true
      ∧ s.canBindIn 0 (d.dst / 2) = true ∧ (s.cluster (d.dst / 2)).sin.coming = [] := by decide +kernel

theorem witness_from_sluice :
    let d := descOf 3 1 32255 4096
    let s := sluicing d
    s.descCheck 0 d = none ∧ d.op = 3 ∧ s.canBindOut 0 (d.src / 2) = true := by decide +kernel

/-- An NB_WRITE of one unit for channel 31 of a stack (R229). -/
def writeHeader : List Byte := [1, 0, 0, 0, 0, 0, 0, 0x80, 7, 0, 1, 0] ++ zeros 52

theorem witness_nbcmd :
    let d : Desc := ⟨0, leBytes 8 (1 + 4 * 2 ^ 8 + 2 * 2 ^ 16) ++ leBytes 8 4096 ++ leBytes 8 8192 ++ leBytes 8 0x1001F ++ zeros 32⟩
    let s := { loadedWith d with hostMem := Memory.write [] 4096 writeHeader }
    s.descCheck 0 d = none ∧ d.op = 4 ∧ d.srcDev = false ∧ s.hostOk (s.chan 0).func d.src (64 * d.len) = true ∧ (s.chan 0).awaited = []
      ∧ s.slotCheck 0 d (fieldAt (s.hostMem.read d.src 64) 4 4) = none ∧ s.turnedAway (.dma 0) (2 ^ 61 + bits d.param 0 5) none = false ∧ d.len = 1 + fieldAt (s.hostMem.read d.src 64) 10 2 ∧ (s.stack (bits d.param 0 5)).dispatch.length < 8 := by decide +kernel

theorem witness_kvwalk : let d := descOf 5 1 4096 8192
    (loadedWith d).descCheck 0 d = none ∧ d.op = 5 := by decide +kernel

/-! ### Host windows, registers and resets -/

/-- A window at the top of the device space, and one 1 GiB too high (R294). -/
theorem witness_windows : (let base := bits (0x060000000000 : U64).toNat 30 18 * 2 ^ 30
      base % live.aperBytes = 0 ∧ base + live.aperBytes ≤ 0x070000000000)
    ∧ (let base := bits (0x070000000000 : U64).toNat 30 18 * 2 ^ 30
      base % live.aperBytes = 0 ∧ 0x070000000000 < base + live.aperBytes)
    ∧ bits (0x060040000000 : U64).toNat 30 18 * 2 ^ 30 % live.aperBytes ≠ 0 := by decide +kernel

/-- A host may reach all of it. -/
def reached : State := withStacks (liveFunc 0 { mse := true })

/-- A host access of 64 B at the last 64 B of window 0. -/
theorem witness_bar4 : (reached.func 0).mse = true ∧ 0xFFFFFFFFC0 < 2 ^ reached.pcie.bar4Log2
    ∧ 0xFFFFFFFFC0 % reached.aperBytes + 64 ≤ reached.aperBytes
    ∧ nth 0 reached.bar4Win (0xFFFFFFFFC0 / reached.aperBytes) % reached.aperBytes = 0
    ∧ 0xFFFFFFFFC0 % 4096 + 64 ≤ 4096 := by decide +kernel

/-- The first byte of window 1, which a request of 128 B that begins 64 B before it reaches. -/
theorem witness_bar4_across : 64 < 128 ∧ 2 ^ 40 - 64 < 2 ^ reached.pcie.bar4Log2
    ∧ reached.aperBytes - (2 ^ 40 - 64) % reached.aperBytes = 64 := by decide +kernel

theorem witness_bar4_disabled : let s := { reached with bar4Off := [(3, true)] }
    Sparse.get false s.bar4Off (0x38000000000 / s.aperBytes) = true ∧ Sparse.get false s.bar4Off 0 = false
      ∧ 0x38000000000 < 2 ^ s.pcie.bar4Log2 := by decide +kernel

theorem witness_no_stall : reached.stallsAt true = none ∧ reached.stallsAt false = none := by decide +kernel

/-- A read that is served, one of a stack without supply, and one of a channel that retrains. -/
theorem witness_bar4_read : (reached.access { who := .host, part := 1 } 0xFC0 (.read 64) []).2.status = .ok
    ∧ (live.access { who := .host, part := 1 } 0xFC0 (.read 64) []).2.status = .domainOff
    ∧ (({ reached with channels := [(0, { state := .retraining })] } : State).access { who := .host, part := 1 } 0xFC0 (.read 64) []).2.status
      = .held := by decide +kernel

/-- A write that is served, and one of an address without memory. -/
theorem witness_bar4_write : (reached.access { who := .host } 0xFC0 (.write (zeros 64)) []).2.status = .ok
    ∧ (reached.access { who := .host } 0x06FFFFFFFFC0 (.write (zeros 64)) []).2.status = .bound
    ∧ (reached.access { who := .host } 0x06FFFFFFFFC0 (.write (zeros 64)) []).2.uncorrectable = false := by decide +kernel

theorem witness_no_memory_space : (live.func 0).mse = false := by decide +kernel

/-- VF 24 is given polder 23, which exists and no other function owns; VF 1 is given none (R276). -/
theorem witness_vf_map :
    let s := { live with polders := [(23, { polder1 with state := .loaded })], vfMap := [(1, 0)] }
    bits (23 : U64).toNat 0 5 = 23 ∧ (s.polder 23).exists_ = true ∧ (s.polder 23).state ≠ .running
      ∧ (∀ w, 1 ≤ w → w ≤ 24 → w ≠ 24 → s.vfPolder w ≠ 23) ∧ (∀ ch < 256, (s.chan ch).func = 24 → (s.chan ch).state = .disabled)
      ∧ s.vfPolder 24 = 31 ∧ bits (31 : U64).toNat 0 5 = 31 ∧ (∀ ch < 256, (s.chan ch).func = 1 → (s.chan ch).state = .disabled)
      ∧ (s.polder (s.vfPolder 1)).state ≠ .running := by
  have h : ∀ w < 25, w ≠ 24 → ({ live with polders := [(23, { polder1 with state := .loaded })], vfMap := [(1, 0)] } : State).vfPolder w ≠ 23 := by
    decide +kernel
  exact ⟨by decide, by decide +kernel, by decide +kernel, fun w _ h2 h3 => h w (by omega) h3, by decide +kernel⟩

theorem witness_register_error : live.accessKind 0 0 0x3618 4 = some kWidth ∧ live.accessKind 1 0 0x3600 8 = some kHole
    ∧ live.accessKind 0 2 0xFFC 4 = some kHole := by decide +kernel

theorem witness_mb_ctl : bits (0x801F001F : U64).toNat 16 9 < vectorsOf 24 ∧ bits (0x801F001F : U64).toNat 0 9 < vectorsOf 24
    ∧ bits (0x01FF01FF : U64).toNat 16 9 < vectorsOf 0 := by decide +kernel

theorem witness_unmask : let s := liveFunc 24 { bme := true, msixOn := true, msix := [(31, { pending := true })] }
    (Sparse.get {} (s.func 24).msix 31 : Msix).pending = true ∧ (s.func 24).bme = true ∧ (s.func 24).msixOn = true
      ∧ (Sparse.get {} (s.func 24).msix 30 : Msix).pending = false := by decide +kernel

/-- A module whose PCIe link is up. -/
def linked : State := { live with pcie := { on := true, up := true, perst := false } }

theorem witness_configuration : linked.pcie.on = true ∧ linked.pcie.up = true ∧ linked.retrying = false
    ∧ ({ linked with boot := {} } : State).retrying = true ∧ ({ linked with pcie := { linked.pcie with vfEnable := true } } : State).pcie.vfEnable = true
    ∧ live.power.aon = true ∧ live.power.pkg ≠ .p3 ∧ live.boot.running = false ∧ ({ live with boot := { running := true } } : State).boot.running = true ∧ linked.pcie.perst = false
    ∧ ({ live with power := { live.power with pkg := .p3 } } : State).power.entering = none
    ∧ (linked.pcie.vfEnable = false ∧ linked.pcie.bar4Log2 = 42) := by decide +kernel

theorem witness_vf_flr : let s := { live1 { polder1 with state := .running, job := some (job .running) } with vfMap := [(24, 0)] }
    s.vfPolder 24 < 24 ∧ (s.polder 0).exists_ = true ∧ s.gates = [] ∧ (s.polder 0).gates = [] ∧ (s.polder 0).state = .running
      ∧ ∀ e ∈ s.channels, e.2.queue = [] := by decide +kernel

/-! ### Under-core memory and edge channels by themselves -/

/-- Die 0's under-core memory is on, and word 5 of core 63 holds the bytes 1 to 32. -/
def withUcm (s : State) : State :=
  { s with
    ucmDies := [(0, { on := true, band := 1 })]
    ucm := Memory.write [] (ucmAddr 63 5) ((List.range 32).map fun i => BitVec.ofNat 8 (i + 1))
    ucmValid := [(ucmIndex 63 5, true)] }

theorem witness_ucm_refresh : (withUcm live).fencedCulverts = [] ∧ ((withUcm live).ucmDie 0).on = true ∧ ((withUcm live).ucmDie 0).selfRefresh = false
    ∧ dieOf (clusterOf 63) = 0 := by decide +kernel

theorem witness_aperture : let s := withUcm live
    let a := 0x040000000000 + 63 * 2 ^ 20 + 32 * 5 + 31
    s.apertureBacked a = true ∧ apertureCore a = 63 ∧ apertureOff a = 32 * 5 + 31 ∧ s.ucmOff 0 = false
      ∧ (Sparse.get [] s.merges 63 : List MergeEntry) = [] ∧ s.stallsAt true = none ∧ s.stallsAt false = none
      ∧ Sparse.get false s.ucmValid (ucmIndex 63 5) = true ∧ Sparse.get [] s.ucmBad (ucmIndex 63 5) = []
      ∧ Sparse.get false s.ucmValid (ucmIndex 63 6) = false := by decide +kernel

theorem witness_merge_retire : let s := { withUcm live with merges := [(63, [⟨5, 0x80000001, zeros 32, 0⟩])] }
    ∃ m : MergeEntry, Sparse.get [] s.merges 63 = [m] ∧ m.word = 5 ∧ m.data.length = 32
      ∧ Sparse.get false s.ucmValid (ucmIndex 63 5) = true ∧ Sparse.get [] s.ucmBad (ucmIndex 63 5) = []
      ∧ (s.ucmDie 0).on = true ∧ (s.ucmDie 0).selfRefresh = false
      ∧ (({ s with ucmDies := [(0, { on := true, selfRefresh := true })] } : State).ucmDie 0).selfRefresh = true :=
  ⟨_, rfl, rfl, rfl, by decide +kernel⟩

theorem witness_ucm_scrub : let s := { withUcm live with ucmScrub := [(63, 5)] }
    Sparse.get 0 s.ucmScrub 63 = 5 ∧ (s.ucmDie 0).on = true ∧ (s.ucmDie 0).selfRefresh = false
      ∧ Sparse.get false s.ucmValid (ucmIndex 63 5) = true ∧ Sparse.get [] s.ucmBad (ucmIndex 63 5) = []
      ∧ ucmDecode (errsOf [⟨35, 0x80⟩, ⟨0, 1⟩]) = some [(0, 1), (35, 0x80)] ∧ errsTo (errsOf [⟨35, 0x80⟩, ⟨0, 1⟩]) ≠ []
      ∧ (Sparse.get [] s.merges 63 : List MergeEntry) = [] ∧ ucmDecode (errsOf [⟨0, 1⟩, ⟨1, 1⟩, ⟨2, 1⟩]) = none := by decide +kernel

theorem witness_ucm_self_refresh :
    let s := { withUcm live with halfDies := [(0, { power := .nap }), (1, { power := .off })], time := { dev := 10000 } }
    (s.ucmDie 0).on = true ∧ (s.halfDie 0).power = .nap ∧ (s.halfDie 1).power = .off ∧ 10000 ≤ s.time.dev - (s.ucmDie 0).lastAccess := by
  decide +kernel

theorem witness_edge_home : (withStacks live).home 0xFC0 = some (0, 0xFC0) := by decide +kernel

theorem witness_edge_basin : ((withStacks live).basin 0).find 0 (0xFC0 / 128) = none := by decide +kernel

theorem witness_edge_access : (withStacks live).stackOff 0 = false ∧ ((withStacks live).edgeCh 0).state = .trained
    ∧ ((withStacks live).edgeCh 0).mode = .memory ∧ Sparse.get [] (withStacks live).edgeBad (burstIndex 0 0xF80) = []
    ∧ Sparse.get [] (withStacks live).edgeBad (burstIndex 0 0xFC0) = [] ∧ (withStacks live).stallsAt true = none
    ∧ (withStacks live).stallsAt false = none ∧ 0xFC0 % 128 + 64 ≤ 128 := by decide +kernel

theorem witness_edge_line_mark : live.trust.running = true ∧ 64 ≤ Sparse.get 0 ({ lineCount := [(71, 64)] } : EdgeCh).lineCount 71
    ∧ 71 ∉ ({ lineCount := [(71, 64)] } : EdgeCh).badLines ∧ 71 ∉ ({ lineCount := [(71, 64)] } : EdgeCh).newBad := by decide +kernel

theorem witness_edge_retrain_start :
    let s := withStacks { live with channels := [(1023, { state := .trained, retrainDue := true })] }
    (s.edgeCh 1023).state = .trained ∧ (s.edgeCh 1023).retrainDue = true ∧ s.stackOff 31 = false
      ∧ ∀ o, o / 32 = 31 → (s.edgeCh o).state ≠ .retraining ∧ (o < 1023 → (s.edgeCh o).retrainDue = false ∨ (s.edgeCh o).state ≠ .trained) := by
  have h : ∀ o < 1024, ((withStacks { live with channels := [(1023, { state := .trained, retrainDue := true })] }).edgeCh o).state ≠ .retraining
      ∧ (o < 1023 → ((withStacks { live with channels := [(1023, { state := .trained, retrainDue := true })] }).edgeCh o).retrainDue = false
        ∨ ((withStacks { live with channels := [(1023, { state := .trained, retrainDue := true })] }).edgeCh o).state ≠ .trained) := by
    decide +kernel
  exact ⟨by decide +kernel, by decide +kernel, by decide +kernel, fun o ho => h o (by omega)⟩

/-- Another channel of its stack retrains. -/
theorem witness_edge_retrain_waits :
    let s := withStacks { live with channels := [(992, { state := .retraining }), (1023, { state := .trained })] }
    (s.edgeCh 1023).state = .trained ∧ s.stackOff 31 = false ∧ 992 / 32 = 1023 / 32 ∧ (s.edgeCh 992).state = .retraining := by
  decide +kernel

/-- Four lines leave the channel trained, five do not. -/
theorem witness_edge_bad_lines : let c : EdgeCh := { state := .retraining, newBad := [71] }
    ((List.range 72).filter fun l => c.badLines.contains l || c.newBad.contains l || [0, 1, 2].contains l).length = 4
      ∧ ((List.range 72).filter fun l => c.badLines.contains l || c.newBad.contains l || [0, 1, 2, 3].contains l).length = 5 := by decide

theorem witness_edge_retrain_end : let c : EdgeCh := { state := .retraining, newBad := [71] }
    c.state = .retraining ∧ c.held = [] ∧ c.waiting = [] := by decide

theorem witness_edge_scrub : let s := withStacks live
    edgeDecode [] (errsOf [⟨71, 0x80⟩]) = some [(71, 0x80)] ∧ errsTo (errsOf [⟨71, 0x80⟩]) ≠ [] ∧ (s.edgeCh 1023).badLines = []
      ∧ s.stackOff 31 = false ∧ (s.stack 31).selfRefresh = false ∧ s.scrubbed 1023 = true ∧ (s.edgeCh 1023).scrubPos + 1 < s.chBytes / 64
      ∧ Sparse.get [] s.edgeBad (burstIndex 1023 (64 * (s.edgeCh 1023).scrubPos)) = [] ∧ (s.stack 31).on = true := by decide +kernel

/-! ### Near-bank units -/

/-- Channel 1,023 is in processor mode with one command waiting (R229). -/
def nbAsk (c : NbCmd) : State :=
  withStacks { live with channels := [(1023, { state := .trained, mode := .processor, queue := [c] })] }

/-- A near-bank command of an opcode, a number of payload units and four arguments (R229). -/
def nbOf (opc plen a0 a1 a2 : Nat) : NbCmd :=
  { header := leBytes 2 opc ++ zeros 2 ++ leBytes 4 0x80000000 ++ leBytes 2 7 ++ leBytes 2 plen ++ zeros 4 ++ leBytes 8 a0 ++ leBytes 8 a1 ++ leBytes 8 a2 ++ zeros 24
    payload := zeros (64 * plen), dma := 0 }

theorem witness_near_bank : (∀ x ∈ [(1, 64, 64, 0, 0), (2, 0, 64, 8, 0), (3, 0, 64, 8, 255), (4, 0, 64, 640, 8), (8, 0, 0, 0, 0)],
      let c := nbOf x.1 x.2.1 x.2.2.1 x.2.2.2.1 x.2.2.2.2
      let s := nbAsk c
      (s.edgeCh 1023).queue = [c] ∧ (s.edgeCh 1023).mode = .processor ∧ (s.edgeCh 1023).state = .trained ∧ c.opc = x.1
        ∧ c.arg 0 % 64 = 0 ∧ c.payload.length = 64 * c.plen ∧ c.plen ≤ 64
        ∧ ∀ i < 8, Sparse.get [] s.edgeBad (burstIndex 1023 (c.arg 0 + 64 * i)) = [])
    ∧ (nbOf 4 0 64 640 8).arg 0 + 64 * 8 ≤ (nbOf 4 0 64 640 8).arg 1 ∧ bits ((nbOf 4 0 64 640 8).arg 2) 0 24 = 8 := by decide +kernel

/-- One token of 16 FP32 elements to key and value pages of BF16. -/
theorem witness_append : let c := nbOf 5 2 4096 (1 * 2 ^ 6 + 16 * 2 ^ 25) 0
    let s := nbAsk c
    let kq := (srcRecords c.srcfmt c.ad c.ntok 0 c.payload).map (kvQuant c.opts c.akfmt c.ad)
    let vq := (srcRecords c.srcfmt c.ad c.ntok (c.ntok * c.ad * srcBytes c.srcfmt) c.payload).map (kvQuant c.opts c.avfmt c.ad)
    let at_ (plane : Nat) : Nat := c.arg 0 + planeOff c.akfmt c.avfmt c.ad plane c.first
    (s.chWrites 1023 (s.unitBy 1023 c) [(at_ 0, (kq.map fun q => q.1).flatten), (at_ 1, (kq.map fun q => q.2.1).flatten),
        (at_ 2, (vq.map fun q => q.1).flatten), (at_ 3, (vq.map fun q => q.2.1).flatten)]).2.status = .ok ∧ c.opc = 5
      ∧ s.nbCheck 31 c [1023] = none := by decide +kernel

/-- A list of one page of one token, D = 16, G = 1, keys and values BF16, for NB_SCORES and NB_ATTEND. -/
def nbListed (opc : Nat) : State × NbCmd :=
  let c := nbOf opc 1 4096 (if opc = 6 then 8192 else 0) (16 + 1 * 2 ^ 9)
  ({ nbAsk c with edge := Memory.write [] (edgeAddr 1023 4096) (leBytes 4 1 ++ zeros 60 ++ leBytes 8 (1024 + 1 * 2 ^ 32)) }, c)

theorem witness_nb_lists : (∃ l, ((nbListed 6).1.nbList 1023 (nbListed 6).2).2 = .ok l)
    ∧ (∃ l, ((nbListed 7).1.nbList 1023 (nbListed 7).2).2 = .ok l)
    ∧ (∃ st, ((nbAsk (nbListed 7).2).nbList 1023 (nbListed 7).2).2 = .error st)
    ∧ (nbListed 6).1.nbCheck 31 (nbListed 6).2 [1023] = none ∧ (nbListed 7).1.nbCheck 31 (nbListed 7).2 [1023] = none := by
  refine ⟨⟨_, rfl⟩, ⟨_, rfl⟩, ⟨.badLength, by decide +kernel⟩, by decide +kernel⟩

theorem witness_nb_scores : let s := (nbListed 6).1
    let c := (nbListed 6).2
    ((s.nbList 1023 c).1.nbScoresLoop 1023 c c.query [⟨65536, 1⟩] 0 0).2.1.status = .ok
      ∧ (s.nbList 1023 c).2 = .ok [⟨65536, 1⟩] := ⟨by decide +kernel, by rfl⟩

theorem witness_nb_attend : let s := (nbListed 7).1
    let c := (nbListed 7).2
    ((s.nbList 1023 c).1.nbAttendLoop 1023 c c.query [⟨65536, 1⟩] (List.replicate c.g { o := List.replicate c.d 0 })).2.1.status = .ok
      ∧ (s.nbList 1023 c).2 = .ok [⟨65536, 1⟩] := ⟨by decide +kernel, by rfl⟩

theorem witness_nb_dispatch : let c := nbOf 8 0 0 0 0
    let s := withStacks { nbAsk c with channels := [(1023, { state := .trained, mode := .processor })] }
    (nbOf 8 0 0 0 0).mask ≠ 0 ∧ s.nbCheck 31 c [1023] = none ∧ (s.edgeCh 1023).queue.length < 16 ∧ ((List.range 32).filter (bit c.mask)).map (32 * 31 + ·) = [1023]
      ∧ live.nbCheck 31 c [1023] = some .denied
      ∧ (let d : NbCmd := { c with header := zeros 64 }
        ((List.range 32).filter (bit d.mask)).map (32 * 31 + ·) = [] ∧ (s.nbCheck 31 d []).isSome = true) := by decide +kernel

/-! ### Heat, coolant and the ledger -/

/-- A sample of every sensor, all alike. -/
def sample (v : Int) : Readings :=
  { logic := List.replicate 1152 v, dram := List.replicate 576 v, base := List.replicate 64 v, stack := List.replicate 128 v
    inlet := v, outlet := v }

theorem witness_sensor_sample : live.power.culverts = true ∧ (rawReadings (sample 45000)).length = 1922
    ∧ plausible 1921 none 90001 = false ∧ plausible 1919 none 150000 = true ∧ plausible 0 (some 30000) 45000 = false := by decide +kernel

/-- A cool module whose coolant flows. -/
def cool (s : State) : State :=
  { s with thermal := { armed := true, flowing := true, last := [(1920, some 45000)], invalid := [] } }

theorem witness_coolant : (cool live).thermal.armed = true ∧ (cool live).thermal.coolantHold = false ∧ live.power.sagHold = false
    ∧ live.power.pkg ≠ .p3
    ∧ live.power.aon = true ∧ 15 ≤ ((List.replicate 15 999980).filter fun a => decide (a + 20 ≤ 1000000)).length := by decide +kernel

theorem witness_coolant_exit : let s := { cool live with thermal := { (cool live).thermal with coolantHold := true, shut := [(11, true)] } }
    s.thermal.coolantHold = true ∧ s.trust.running = true ∧ s.coolantGood = true ∧ Sparse.get false s.thermal.shut 0 = false := by
  decide +kernel

theorem witness_rotation : let s := { live with thermal := { live.thermal with rotate := true } }
    s.thermal.rotate = true ∧ s.trust.running = true ∧ s.ledger.rotation.lo ≤ s.ledger.rotation.hi ∧ 0 ≤ s.ledger.rotation.lo
      ∧ 0 < s.ledger.rotation.hi := by decide +kernel

theorem witness_estimator : live.power.aon = true ∧ live.power.pkg ≠ .p3 ∧ (∀ r, (live.rail r).fault = false ∧ (live.rail r).gain = 2 ^ 24)
    ∧ ({ live with power := { live.power with pkg := .p3 } } : State).power.pkg = .p3 := ⟨rfl, by decide, fun _ => ⟨rfl, rfl⟩, rfl⟩

theorem witness_telemetry : let s := { live with ledger := { live.ledger with capKnown := true } }
    s.boot.done = true ∧ s.ledger.capKnown = true ∧ s.power.aon = true ∧ s.power.culverts = true ∧ s.trust.running = true
      ∧ s.trust.burning = false ∧ s.committing = false := by decide

theorem witness_peak : let s := { live1 { polder1 with state := .running, job := some { job .running with step := 4 } } with
      ledger := { live.ledger with meters := [(mModule, { fine := [6000000000001] })] } }
    s.ledger.peak * 1000000000 < sumOf (s.meter mModule).fine ∧ (s.polder 0).state = .running ∧ 0 < (s.polder 0).want := by decide +kernel

theorem witness_avs : let s := { live with halfDies := [(23, { power := .idle, avs := 745 })] }
    (s.halfDie 23).power ≠ .off ∧ s.ledger.avs.lo ≤ (s.halfDie 23).avs - 5 := by decide +kernel

/-- Over PEAK with a raise that still waits for its rail: the polder runs at 2 and wants 5. -/
theorem witness_peak_waiting : let s := { live1 { polder1 with state := .running, step := 2, job := some { job .running with step := 5 } } with
      ledger := { live.ledger with meters := [(mModule, { fine := [6000000000001] })] } }
    s.ledger.peak * 1000000000 < sumOf (s.meter mModule).fine ∧ (s.polder 0).step < (s.polder 0).want := by decide +kernel

theorem witness_avs_values : ∃ (s : State) (h : Nat), (s.halfDie h).power ≠ .off ∧ s.ledger.avs.lo ≤ (s.halfDie h).avs - 5
    ∧ (s.halfDie h).avs - 5 ≤ s.ledger.avs.hi ∧ s.ledger.avs.hi < (s.halfDie h).avs + 5 :=
  ⟨{ live with halfDies := [(23, { power := .idle, avs := live.ledger.avs.hi.toNat })] }, 23, by decide +kernel⟩

theorem witness_quota_set : ∃ (s u v : State) (c d : Cmd), s.TakesOp 0 0x41 c u ∧ bits (c.a 1) 0 5 < 24
    ∧ u.polderFail (bits (c.a 1) 0 5) false = none ∧ bit (c.a 1) 8 = true ∧ c.a 2 = 60000
    ∧ (∃ t : State, t.TakesOp 0 0x41 d v ∧ v.polderFail (bits (d.a 1) 0 5) false = none ∧ bit (d.a 1) 8 = true ∧ 60000 < d.a 2) :=
  ⟨asks (live1 polder1) 0 0x41 0 [0x100, 60000], _, _, cmd 0 0x41 [0x100, 60000], cmd 0 0x41 [0x100, 60001],
    asks_takes, by decide +kernel, by decide +kernel, by decide +kernel, by decide +kernel,
    asks (live1 polder1) 0 0x41 0 [0x100, 60001], asks_takes, by decide +kernel⟩

theorem witness_quota_refused : ∃ (s u t v : State) (c d : Cmd), s.TakesOp 0 0x41 c u
    ∧ u.polderFail (bits (c.a 1) 0 5) false = some .busy ∧ t.TakesOp 0 0x41 d v ∧ v.polderFail (bits (d.a 1) 0 5) false = none
    ∧ bit (d.a 1) 8 = false ∧ d.a 2 ≠ 0 :=
  ⟨asks (live1 { polder1 with state := .halted }) 0 0x41 0 [0x100, 1], _, asks (live1 polder1) 0 0x41 0 [0, 1], _,
    cmd 0 0x41 [0x100, 1], cmd 0 0x41 [0, 1], asks_takes, by decide +kernel,
    asks_takes, by decide +kernel⟩

theorem witness_quota_clear : ∃ (s u : State) (c : Cmd), s.TakesOp 0 0x41 c u ∧ u.polderFail (bits (c.a 1) 0 5) false = none
    ∧ bit (c.a 1) 8 = false ∧ c.a 2 = 0 :=
  ⟨asks (live1 polder1) 0 0x41 0 [0, 0], _, cmd 0 0x41 [0, 0], asks_takes,
    by decide +kernel⟩

theorem witness_quota : ∃ s t : State, (Sparse.get 0 s.ledger.quotas 0 ≠ 0 ∧ (s.polder 0).state = .running ∧ s.trust.running = true
      ∧ Sparse.get 0 s.ledger.quotas 0 * 1000000000000 < sumOf (s.meter (mPolder 0)).coarse
      ∧ max 0 s.ledger.stepBounds.lo < ((s.polder 0).want : Int))
    ∧ Sparse.get 0 t.ledger.quotas 0 ≠ 0 ∧ (t.polder 0).state = .running ∧ t.trust.running = true ∧ 0 < (t.polder 0).quotaDown
      ∧ 100 * sumOf (t.meter (mPolder 0)).coarse < 95 * (Sparse.get 0 t.ledger.quotas 0 * 1000000000000) :=
  ⟨{ live1 { polder1 with state := .running, job := some { job .running with step := 95 } } with
      ledger := { live.ledger with quotas := [(0, 100)], meters := [(mPolder 0, { coarse := [100000000000001] })] } },
    { live1 { polder1 with state := .running, quotaDown := 1 } with ledger := { live.ledger with quotas := [(0, 100)] } },
    by decide +kernel⟩

theorem witness_quota_dies_with_polder : ∃ (s u : State) (c : Cmd), s.TakesOp 0 0x11 c u ∧ u.polderFail (c.a 1) true = none
    ∧ (s.polder (c.a 1)).state ≠ .running :=
  ⟨asks (live1 polder1) 0 0x11 0 [0], _, cmd 0 0x11 [0], asks_takes, by decide +kernel⟩

theorem witness_thermal_policy : ∃ (s u t v : State) (c d : Cmd), s.TakesOp 0 0x43 c u ∧ c.a 1 = 1 ∧ c.a 2 = 200
    ∧ t.TakesOp 0 0x43 d v ∧ d.a 2 = 9 :=
  ⟨asks live 0 0x43 0 [1, 200], _, asks live 0 0x43 0 [0, 9], _, cmd 0 0x43 [1, 200], cmd 0 0x43 [0, 9],
    asks_takes, rfl, rfl, asks_takes, rfl⟩

/-! ### Package power states -/

/-- The package is in state `p` or entering state `e`. -/
def powered (p : PkgState) (e : Option PkgState) : State :=
  { live with power := { live.power with pkg := p, entering := e }, pcie := { live.pcie with aspmL1 := true }
              links := (List.range 96).map fun n => (n, { state := .disabled }) }

theorem witness_p1 : (powered .p0 none).power.pkg = .p0 ∧ (powered .p0 none).trust.running = true ∧ (powered .p0 none).quiet = true
    ∧ (powered .p0 none).power.entering = none ∧ (powered .p0 none).power.hold = false ∧ (powered .p1 none).power.pkg = .p1
    ∧ ({ powered .p0 none with power := { live.power with hold := true } } : State).quiet = true := by decide +kernel

theorem witness_p2 : (powered .p0 (some .p2)).power.entering = some .p2 ∧ (powered .p0 (some .p2)).refuser .p2 = none
    ∧ (live1 polder1).refuser .p2 = some 0x1000 := by decide +kernel

theorem witness_p3 : (powered .p0 (some .p3)).power.entering = some .p3 ∧ (powered .p0 (some .p3)).refuser .p3 = none
    ∧ ({ live with links := (List.range 95).map fun n => (n, { state := .disabled }) } : State).refuser .p3 = some 0x300B := by decide +kernel

theorem witness_exits : ∃ s t u : State, (s.power.pkg = .p2 ∧ s.power.exiting = true)
    ∧ (t.power.pkg = .p3 ∧ t.power.exiting = true ∧ t.power.aon = true)
    ∧ (u.power.wake = true ∧ u.power.entering = none ∧ u.power.pkg = .p3 ∧ u.power.sagHold = false ∧ u.power.exiting = false
      ∧ u.power.aon = true)
    ∧ ({ live with power := { live.power with sagHold := true } } : State).power.sagHold = true ∧ live.power.pkg ≠ .p3
    ∧ 0x2000 / 4096 ≠ 11 ∧ 0xB000 / 4096 = 11 :=
  ⟨{ live with power := { live.power with pkg := .p2, exiting := true } }, { live with power := { live.power with pkg := .p3, exiting := true } },
    { live with power := { live.power with pkg := .p3, wake := true } }, by decide +kernel⟩

theorem witness_nap : ∃ (s : State) (h : Nat), (s.halfDie h).power = .idle ∧ s.polderOf h = 31 :=
  ⟨{ live with halfDies := [(23, { power := .idle })] }, 23, by decide +kernel⟩

/-! ### Bring-up, the boot ROM and debug -/

/-- A cold bring-up at which nothing fails: every strap word has odd parity (R414). -/
def goodBringUp : BringUp :=
  { straps := [0x80, 0x01, 0x02, 0x83, 0x04, 0x85, 0x86, 0x07, 0x08, 0x89, 0x8A, 0x0B, 0x20, 0xA1, 0xA2, 0x23]
      ++ [0x40, 0xC1, 0xC2, 0x43, 0xC4, 0x45, 0x46, 0xC7, 0xC8, 0x49, 0x4A, 0xCB, 0x4C, 0xCD, 0xCE, 0x4F]
      ++ [0xD0, 0x51, 0x52, 0xD3, 0x54, 0xD5, 0xD6, 0x57, 0x58, 0xD9, 0xDA, 0x5B, 0xDC, 0x5D, 0x5E, 0xDF]
    slotId := 3, railFault := none, baseDieFault := none, defects := [], culvertFault := false, coolantMet := true, dieCold := false
    elapsedMs := 900, entropy := zeros 32, flashError := false }

theorem witness_cold : State.reset.power.aon = false ∧ State.reset.power.trip = none ∧ State.reset.boot.running = false
    ∧ strapFault goodBringUp.straps = none ∧ strapFault (goodBringUp.straps.set 47 0x5F) = some 47
    ∧ culvertFences State.reset.repair.fused = [] ∧ State.reset.steppingFault = false
    ∧ ({ goodBringUp with railFault := some 83 } : BringUp).railFault = some 83 := by decide +kernel

/-! ### A signature that ML-DSA takes

Under the public key of zero bytes the product with the challenge is 0, and the answer 0 needs no secret. -/

/-- Every coefficient is 0. -/
def Flat (a : Poly) : Prop := ∀ x ∈ a, x = 0

theorem flat_zipWith (f : Nat → Nat → Nat) : ∀ a b : Poly, (∀ x ∈ a, ∀ y ∈ b, f x y = 0) → Flat (List.zipWith f a b)
  | [], _, _ => fun _ h => by simp at h
  | _ :: _, [], _ => fun _ h => by simp at h
  | x :: a, y :: b, h => fun z hz => by
    rw [List.zipWith_cons_cons, List.mem_cons] at hz
    rcases hz with rfl | hz
    · exact h x (by simp) y (by simp)
    · exact flat_zipWith f a b (fun u hu v hv => h u (by simp [hu]) v (by simp [hv])) z hz

theorem Flat.map {f : Nat → Nat} (hf : f 0 = 0) {a : Poly} (h : Flat a) : Flat (a.map f) := fun x hx => by
  obtain ⟨y, hy, rfl⟩ := List.mem_map.1 hx
  rw [h y hy, hf]

theorem Flat.append {a b : Poly} (ha : Flat a) (hb : Flat b) : Flat (a ++ b) := fun x hx =>
  (List.mem_append.1 hx).elim (ha x) (hb x)

theorem Flat.add {a b : Poly} (ha : Flat a) (hb : Flat b) : Flat (a.add b) :=
  flat_zipWith _ a b fun x hx y hy => by rw [ha x hx, hb y hy]; rfl

theorem Flat.sub {a b : Poly} (ha : Flat a) (hb : Flat b) : Flat (a.sub b) :=
  flat_zipWith _ a b fun x hx y hy => by rw [ha x hx, hb y hy]; rfl

theorem Flat.mul (a : Poly) {b : Poly} (hb : Flat b) : Flat (a.mul b) :=
  flat_zipWith _ a b fun x _ y hy => by rw [hb y hy, Nat.mul_zero, Nat.zero_mod]

theorem Flat.scale (c : Nat) {a : Poly} (h : Flat a) : Flat (Poly.scale c a) := h.map (by rw [Nat.mul_zero, Nat.zero_mod])

theorem Flat.unstep : ∀ (n k : Nat) {a : Poly}, Flat a → Flat (nttUnstep n k a)
  | 0, _, _, h => h
  | n + 1, k, a, h => by
    have h1 := Flat.unstep n (2 * k) (a := a.take (2 ^ n)) fun x hx => h x (List.mem_of_mem_take hx)
    have h2 := Flat.unstep n (2 * k + 1) (a := a.drop (2 ^ n)) fun x hx => h x (List.mem_of_mem_drop hx)
    exact (h1.add h2).append ((h1.sub h2).scale _)

theorem Flat.step : ∀ (n k : Nat) {a : Poly}, Flat a → Flat (nttStep n k a)
  | 0, _, _, h => h
  | n + 1, k, a, h => by
    have h1 : Flat (a.take (2 ^ n)) := fun x hx => h x (List.mem_of_mem_take hx)
    have h2 : Flat (Poly.scale (dsaRoot (reverse8 k)) (a.drop (2 ^ n))) := Flat.scale _ fun x hx => h x (List.mem_of_mem_drop hx)
    exact (Flat.step n (2 * k) (h1.add h2)).append (Flat.step n (2 * k + 1) (h1.sub h2))

theorem Flat.sums : ∀ (l : List Poly) {a : Poly}, Flat a → (∀ b ∈ l, Flat b) → Flat (l.foldl Poly.add a)
  | [], _, ha, _ => ha
  | b :: l, _, ha, h => Flat.sums l (ha.add (h b (by simp))) fun c hc => h c (by simp [hc])

theorem Flat.matrix (m : List (List Poly)) {v : List Poly} (h : ∀ a ∈ v, Flat a) : ∀ a ∈ matrixMul m v, Flat a := by
  intro a ha
  obtain ⟨row, -, rfl⟩ := List.mem_map.1 ha
  refine Flat.sums _ (fun x hx => List.eq_of_mem_replicate hx) fun b hb => ?_
  obtain ⟨i, hi, rfl⟩ := List.mem_iff_getElem.1 hb
  rw [List.getElem_zipWith]
  exact Flat.mul _ (h _ (List.getElem_mem _))

theorem Flat.pack {a : Poly} (w : Nat) (h : Flat a) : packBits w a = leBytes (32 * w) 0 := by
  unfold packBits
  congr 1
  induction a with
  | nil => rfl
  | cons x a ih =>
    rw [List.foldr_cons, ih fun y hy => h y (by simp [hy]), h x (by simp)]
    simp

/-- 256 zeros, as a mask of 20 bits writes them. -/
def flatMask : List Byte := (List.replicate 128 ([0, 0, 8, 0, 0x80] : List Byte)).flatten

/-- The signature of a message under the public key of zero bytes, whose t is 0: its answer z is 0, and so is its hint. -/
def forged (m : List Byte) : List Byte :=
  shake256 48 (shake256 64 (shake256 64 (zeros 1952) ++ m) ++ zeros 768) ++ ((List.replicate 5 flatMask).flatten ++ zeros 61)

theorem forged_rest : ((List.range 5).map fun i => unpackBits 20 ((((List.replicate 5 flatMask).flatten ++ zeros 61).drop (640 * i)).take 640))
      = List.replicate 5 (List.replicate 256 524288)
    ∧ ((List.range 6).map fun i => unpackBits 10 (((zeros 1952).drop (32 + 320 * i)).take 320)) = List.replicate 6 (List.replicate 256 0)
    ∧ unpackHint (((List.replicate 5 flatMask).flatten ++ zeros 61).drop 3200) = some (List.replicate 6 (List.replicate 256 0))
    ∧ ((List.replicate 5 flatMask).flatten ++ zeros 61).length = 3261 := by decide +kernel

theorem flatHint (h w : List Poly) (hh : ∀ a ∈ h, Flat a) (hw : ∀ a ∈ w, Flat a) :
    w1Bytes (List.zipWith (List.zipWith useHint) h w) = (List.replicate (min h.length w.length) (leBytes 128 0)).flatten := by
  induction h generalizing w with
  | nil => simp [w1Bytes]
  | cons a h ih =>
    cases w with
    | nil => simp [w1Bytes]
    | cons b w =>
      have e : Flat (List.zipWith useHint a b) := flat_zipWith _ _ _ fun x hx y hy => by
        rw [hh a (by simp) x hx, hw b (by simp) y hy]
        rfl
      have ih := ih w (fun x hx => hh x (by simp [hx])) fun x hx => hw x (by simp [hx])
      unfold w1Bytes at ih ⊢
      rw [List.zipWith_cons_cons, List.flatMap_cons, ih, e.pack, List.length_cons, List.length_cons, Nat.add_min_add_right,
        List.replicate_succ, List.flatten_cons]

/-- Under the public key of zero bytes ML-DSA takes a signature that anyone can form. -/
theorem forged_verifies (m : List Byte) : mldsaVerify (zeros 1952) m (forged m) = true := by
  obtain ⟨r1, r2, r3, r4⟩ := forged_rest
  unfold forged
  generalize hc : shake256 48 (shake256 64 (shake256 64 (zeros 1952) ++ m) ++ zeros 768) = c
  have lc : c.length = 48 := by rw [← hc]; exact shake_length _ 48 (by decide)
  generalize ht : ((List.replicate 5 flatMask).flatten ++ zeros 61) = t at r1 r3 r4
  have d (k : Nat) : (c ++ t).drop (48 + k) = t.drop k := by rw [← lc, ← List.drop_drop, List.drop_left]
  have e1 : ((List.range 5).map fun i => unpackBits 20 (((c ++ t).drop (48 + 32 * 20 * i)).take (32 * 20)))
      = List.replicate 5 (List.replicate 256 524288) := by rw [← r1]; simp only [d]
  have e3 : unpackHint ((c ++ t).drop 3248) = some (List.replicate 6 (List.replicate 256 0)) := by rw [← r3, ← d 3200]
  have ec : (c ++ t).take 48 = c := by rw [← lc, List.take_left]
  have zf : ((List.replicate 5 (List.replicate 256 524288)).map fun a : List Nat => a.map fun v => (dsaQ + dsaGamma1 - v) % dsaQ)
      = List.replicate 5 Poly.zero := by decide +kernel
  have nz : normOf (List.replicate 5 Poly.zero) < dsaGamma1 - dsaBeta := by decide +kernel
  have fz : Flat Poly.zero := fun x hx => List.eq_of_mem_replicate hx
  unfold mldsaVerify
  simp only [show dsaL = 5 from rfl, show dsaK = 6 from rfl, e1, e3, ec, zf, r2]
  have hz : ∀ a ∈ (List.replicate 5 Poly.zero).map ntt, Flat a := by
    intro a ha
    obtain ⟨b, hb, rfl⟩ := List.mem_map.1 ha
    rw [List.eq_of_mem_replicate hb]
    exact Flat.step 8 1 fz
  have hA := Flat.matrix (expandA ((zeros 1952).take 32)) hz
  have lA : (matrixMul (expandA ((zeros 1952).take 32)) ((List.replicate 5 Poly.zero).map ntt)).length = 6 := by
    simp [matrixMul, expandA, dsaK]
  have ht1 : ∀ a ∈ (List.replicate 6 (List.replicate 256 0)).map fun a => Poly.mul (ntt (sampleInBall c)) (ntt (Poly.scale (2 ^ dsaD) a)),
      Flat a := by
    intro a ha
    obtain ⟨b, hb, rfl⟩ := List.mem_map.1 ha
    rw [List.eq_of_mem_replicate hb]
    exact Flat.mul _ (Flat.step 8 1 (fz.scale _))
  generalize hAe : matrixMul (expandA ((zeros 1952).take 32)) ((List.replicate 5 Poly.zero).map ntt) = A at hA lA
  have l1 : ((List.replicate 6 (List.replicate 256 0)).map fun a => Poly.mul (ntt (sampleInBall c)) (ntt (Poly.scale (2 ^ dsaD) a))).length = 6 := by
    rw [List.length_map, List.length_replicate]
  generalize he1 : ((List.replicate 6 (List.replicate 256 0)).map fun a => Poly.mul (ntt (sampleInBall c)) (ntt (Poly.scale (2 ^ dsaD) a))) = t1 at ht1 l1
  have hw : ∀ a ∈ List.zipWith (fun a t => nttInv (Poly.sub a t)) A t1, Flat a := by
    intro a ha
    obtain ⟨i, hi, rfl⟩ := List.mem_iff_getElem.1 ha
    rw [List.getElem_zipWith]
    exact Flat.scale _ (Flat.unstep 8 1 ((hA _ (List.getElem_mem _)).sub (ht1 _ (List.getElem_mem _))))
  have hb := flatHint (List.replicate 6 (List.replicate 256 0)) _ (fun a ha => by rw [List.eq_of_mem_replicate ha]; exact fz) hw
  rw [hb]
  have hl : (List.replicate (min (List.replicate 6 (List.replicate 256 0)).length
      (List.zipWith (fun a t => nttInv (Poly.sub a t)) A t1).length) (leBytes 128 0)).flatten = zeros 768 := by
    rw [List.length_zipWith, lA, l1, List.length_replicate]
    decide +kernel
  rw [hl, hc]
  have lz : (zeros 1952).length = 1952 := List.length_replicate
  rw [decide_eq_true lz, decide_eq_true (by rw [List.length_append, lc, r4]), decide_eq_true nz, beq_self_eq_true]
  rfl

/-- The manifest of an image of one segment of 64 zero bytes (R453). -/
def fwHead : List Byte :=
  [0x51, 0x46, 0x57, 0x4D, 1, 0, 0, 0] ++ leBytes 4 5 ++ [1, 0, 0, 0] ++ leBytes 4 64 ++ leBytes 4 1 ++ zeros 8
    ++ [126, 165, 242, 234, 158, 148, 135, 222, 71, 83, 145, 139, 191, 83, 8, 235, 145, 250, 100, 24, 137, 35, 108, 85, 215, 8, 236, 180,
    217, 102, 106, 54, 8, 215, 157, 174, 133, 226, 62, 43, 235, 49, 47, 237, 181, 33, 232, 44, 241, 162, 51, 173, 205, 74, 156, 39,
    108, 116, 139, 236, 213, 149, 196, 9]
    ++ leBytes 4 0 ++ leBytes 4 64 ++ leBytes 8 0x80000000 ++ zeros 144

/-- The digests on the way to its signature, and the signature's challenge, computed by another implementation of FIPS 202. -/
def keyHash : List Byte := leBytes 64 0x306AB917275B118EADFD7A8FAA6B2463F2884BF39DEF27C34E48A181C8AB508B00D59C5273E68A3D49B6BED29F73B71297BBFF5571ED1C52662ECB777AE619E0
def headHash : List Byte := leBytes 64 0x0C4A0078327BE71A1B936D9841C0AB81E1D5A4409EB5B19E0F3F82CED9D6AD0F8F9712A1DF2B820AA95393195DC8439999A64A9DBBB54B23A7D9DD3152CB90ED
def fwChallenge : List Byte := leBytes 48 0x77A4461EB2D133B51FF28A6BCCC5DF2F806AE42680F3C587F9C630A4C5F4F70C5C546C076D2F22A7B7AA91B36C72DA71

/-- The image, signed under the public key of zero bytes. -/
def fwImage : List Byte :=
  fwHead ++ zeros 1952 ++ (fwChallenge ++ ((List.replicate 5 flatMask).flatten ++ zeros 61)) ++ zeros (5632 - 5517 + 64)

theorem keyHash_is : shake256 64 (zeros 1952) = keyHash := by decide +kernel
theorem headHash_is : shake256 64 (keyHash ++ withContext "QSM-FWM" fwHead) = headHash := by decide +kernel
theorem fwChallenge_is : shake256 48 (headHash ++ zeros 768) = fwChallenge := by decide +kernel

theorem fwImage_signed : fwSigBad fwImage = false := by
  have e1 : fwKey fwImage = zeros 1952 := by decide +kernel
  have e2 : fwManifest fwImage = fwHead := by decide +kernel
  have e3 : fwSig fwImage = forged (withContext "QSM-FWM" fwHead) := by
    unfold forged
    rw [keyHash_is, headHash_is, fwChallenge_is]
    decide +kernel
  unfold fwSigBad
  rw [e1, e2, e3, forged_verifies]
  rfl

/-- The digest of a public key of zeros. -/
def keyDigest : List Byte := digest (zeros 1952)

/-- The module whose flash holds it, with its key fused. -/
def flashed : State :=
  { live with
    trust := { running := true, romDue := true, flashImage := fwImage }
    fuses := { live.fuses with keys := [keyDigest] }
    repair := { trained := true } }

theorem witness_fw_layout : fwLayoutFail fwImage = none ∧ fwKey fwImage = zeros 1952 ∧ fwKeyIndex fwImage = 0 ∧ fwSvn fwImage = 5 := by
  decide +kernel

theorem witness_fw_digest : fwDigestBad fwImage = false := by decide +kernel

/-- The boot ROM starts it, and it may be staged. -/
theorem rom_starts (s : State) (e1 : s.trust.flashImage = fwImage) (ef : s.fuses = flashed.fuses) :
    s.romFail false = none ∧ s.fwFail fwImage = none := by
  have h := fwImage_signed
  obtain ⟨h1, h2, h3, h4⟩ := witness_fw_layout
  have h5 := witness_fw_digest
  have e2 : s.fwKeyBad fwImage = false := by
    have e : nth [] s.fuses.keys 0 = keyDigest := by
      rw [ef]
      simp only [flashed, nth, List.getElem?_cons_zero, Option.getD_some]
    have e' : bit s.fuses.revoked 0 = false := by rw [ef]; decide
    unfold State.fwKeyBad
    rw [h2, h3, e, e', keyDigest, bne_self_eq_false]
    decide
  have e3 : s.fuses.svnFloor = 0 := by rw [ef]; rfl
  unfold State.romFail State.fwFail
  simp [e1, e2, e3, h, h1, h4, h5]

/-- The same module without supply. -/
def unpowered : State := { flashed with power := {}, boot := {} }

theorem witness_rom : flashed.romFail false = none ∧ flashed.fwFail fwImage = none ∧ flashed.power.management = true
    ∧ flashed.trust.romDue = true :=
  ⟨(rom_starts flashed rfl rfl).1, (rom_starts flashed rfl rfl).2, by decide⟩

/-- The same module with its firmware up. -/
def staging : State := { flashed with trust := { flashed.trust with romDue := false } }

theorem witness_firmware_stage : ∃ (s u : State) (c : Cmd), s.TakesOp 0 0x62 c u ∧ u.fwFail c.body = none ∧ s.trust.running = true := by
  have hl : 64 * (90 : Word).toNat = (outHead 0 0 ++ fwImage).length := by decide +kernel
  have h := block_takes { staging with hostMem := Memory.write [] 4096 (outHead 0 0 ++ fwImage) } 0 0x62 90 [0]
    ⟨.pf, .required, some 1, [above 0]⟩ fwImage hl (h5 := decide_eq_false (Nat.not_lt_zero _))
  refine ⟨_, _, _, h, (rom_starts _ ?_ ?_).2, rfl⟩
  · exact (show staging.trust.flashImage = fwImage by simp only [staging, flashed])
  · exact (show staging.fuses = flashed.fuses from rfl)

theorem witness_cold_rom : (unpowered.coldStart goodBringUp.slotId).romFail goodBringUp.flashError = none
    ∧ unpowered.power.aon = false ∧ unpowered.power.trip = none ∧ unpowered.boot.running = false
    ∧ culvertFences unpowered.repair.fused = [] ∧ unpowered.steppingFault = false :=
  ⟨(rom_starts (unpowered.coldStart goodBringUp.slotId) rfl rfl).1, by decide⟩

theorem witness_warm : flashed.interrupted.romFail goodBringUp.flashError = none ∧ flashed.power.aon = true ∧ flashed.power.pkg ≠ .p3
    ∧ flashed.power.sagHold = false ∧ flashed.boot.running = false ∧ flashed.repair.trained = true ∧ goodBringUp.railFault = none
    ∧ flashed.steppingFault = false :=
  ⟨(rom_starts flashed.interrupted rfl rfl).1, by decide⟩

theorem witness_rom_fails : flashed.power.management = true ∧ flashed.trust.romDue = true ∧ flashed.romFail true = some 6
    ∧ flashed.boot.running = false
    ∧ (let s := { flashed with boot := { running := true } }
      s.power.management = true ∧ s.trust.romDue = true ∧ s.romFail true = some 6 ∧ s.boot.running = true) := by decide

theorem witness_burn : ∃ s t : State, s.trust.running = true ∧ s.trust.burning = true ∧ s.fuses.svnFloor < s.trust.svn
    ∧ t.trust.burning = true ∧ t.trust.running = true ∧ t.trust.burnLeft = some (6, 3) :=
  ⟨{ live with trust := { running := true, burning := true, svn := 5 } },
    { live with trust := { running := true, burning := true, svn := 5, burnLeft := some (6, 3) } }, by decide⟩

/-- The same module with debug key 0 and a challenge that waits. -/
def challenged : State :=
  { flashed with fuses := { flashed.fuses with debugKeys := 1 }, trust := { flashed.trust with challenge := some (zeros 96) } }

/-- The good response for a scope. -/
def responding (k : Nat) : DebugResponse :=
  { scope := BitVec.ofNat 32 k, keyIndex := 0, publicKey := zeros 1952
    signature := forged (withContext "QSM-DBG" (zeros 96 ++ leBytes 4 (BitVec.ofNat 32 k).toNat)) }

theorem witness_response : ∀ k < 16, challenged.power.management = true ∧ challenged.trust.challenge = some (zeros 96)
    ∧ challenged.responseOk (zeros 96) (responding k) = true ∧ (responding k).scope.toNat = k := by
  intro k hk
  have hs : (BitVec.ofNat 32 k).toNat = k := by rw [BitVec.toNat_ofNat, Nat.mod_eq_of_lt (by omega)]
  have e : nth [] challenged.fuses.keys 0 = digest (zeros 1952) := by
    simp only [challenged, flashed, nth, List.getElem?_cons_zero, Option.getD_some, keyDigest]
  have e1 : bit challenged.fuses.revoked 0 = false := by decide
  have e2 : bit challenged.fuses.debugKeys 0 = true := by decide
  refine ⟨rfl, rfl, ?_, hs⟩
  unfold State.responseOk responding
  dsimp only
  rw [forged_verifies, e, e1, e2, beq_self_eq_true, hs, decide_eq_true hk]
  rfl

theorem witness_bad_response (r : DebugResponse) : ∀ c, live.trust.challenge = some c → live.responseOk c r = false := by
  intro c h
  cases h

theorem witness_test_allowed : ({ live with fuses := { live.fuses with packaged := false } } : State).testAllowed = true
    ∧ ({ live with fuses := { live.fuses with packaged := true } } : State).testAllowed = false := by decide

/-! ### Optical links -/

/-- Link 95 is `l`. -/
def withLink (l : Link) : State := { live with links := [(95, l)] }

/-- What training with module 7 of fabric 5 finds, with the same lanes on both sides. -/
def trial (lanes : Nat) (noisy : Bool) : LinkTrial :=
  { partner := true, own := lanes, theirs := lanes, tooNoisy := noisy, latency := 40
    ident := { fabricId := 5, slotId := 7, linkNo := 12, widths := 7, rates := 3 } }

theorem witness_link_trains : let s := withLink { state := .detect }
    (s.link 95).state = .detect ∧ s.linksOn = true ∧ (trial 15 false).partner = true ∧ agreedWidth (trial 15 false) = 4
      ∧ agreedWidth (trial 8 false) = 1 ∧ s.isSelf (trial 15 false).ident = false ∧ s.commonRate 95 (trial 15 false).ident = some 1 := by
  decide +kernel

/-- No common lane: one side passed lane 0 and the other lane 1. -/
theorem witness_link_no_lane : agreedWidth { trial 1 false with theirs := 2 } = 0 ∧ (withLink { state := .detect }).linksOn = true
    ∧ (withLink { state := .detect }).commonRate 95 { (trial 15 false).ident with rates := 0 } = none := by decide +kernel

theorem witness_link_self : let s := { withLink { state := .detect } with fabricId := 5, smbus := { live.smbus with slotId := 7 } }
    s.isSelf (trial 15 false).ident = true ∧ (s.link 95).state = .detect ∧ s.linksOn = true := by decide +kernel

/-- Every case of a retrain: rates 1 and 0, and bounds that allow the fall or not (R366, R431). -/
theorem witness_link_retrain : (withLink { state := .up }).rateHi 95 = 1 ∧ (withLink { state := .up }).rateLo 95 = 0
    ∧ (withLink { state := .up, rate := 0 }).rateHi 95 = 1
    ∧ ({ withLink { state := .up } with ledger := { live.ledger with linkRate := [(95, 3)] } } : State).rateLo 95 = 1
    ∧ ({ withLink { state := .up } with ledger := { live.ledger with linkRate := [(95, 0)] } } : State).rateHi 95 = 0
    ∧ (withLink { state := .up }).isSelf (trial 1 true).ident = false ∧ agreedWidth (trial 1 true) ≠ 0
    ∧ ({ trial 1 true with partner := false } : LinkTrial).partner = false ∧ ((withLink { state := .retrain }).link 95).state = .retrain := by
  decide +kernel

/-- A side without a lane in lock, and the rates a retrain aims at and may fall to. -/
theorem witness_link_waits : noLanes { trial 1 true with theirs := 0 } = true ∧ noLanes (trial 8 false) = false
    ∧ (withLink { state := .up, rate := 0 }).retrainTarget 95 = 1
    ∧ ({ withLink { state := .up } with ledger := { live.ledger with linkRate := [(95, 0)] } } : State).retrainTarget 95 = 0
    ∧ bit (trial 1 true).ident.rates 1 = true ∧ bit (trial 1 true).ident.rates 0 = true
    ∧ bit ({ (trial 1 true).ident with rates := 2 } : Ident).rates 0 = false := by
  decide +kernel

theorem leBytes_length (k x : Nat) : (leBytes k x).length = k := by
  induction k generalizing x with
  | zero => rfl
  | succ k ih => rw [leBytes, List.length_cons, ih]

theorem leNat_leBytes (k x : Nat) (h : x < 256 ^ k) : leNat (leBytes k x) = x := by
  induction k generalizing x with
  | zero => simp at h; simp [leBytes, leNat, h]
  | succ k ih =>
    have h' : x / 256 < 256 ^ k := Nat.div_lt_of_lt_mul (by rw [pow_succ] at h; omega)
    simp only [leBytes, leNat, ih _ h', BitVec.toNat_ofNat]
    omega

/-- A flit carries the CRC of its other bytes. -/
theorem crcGood_sealFlit (h d : List Byte) : crcGood (sealFlit h d) = true := by
  have hl : ((h ++ zeros 60).take 60).length = 60 := by simp [zeros]
  unfold crcGood sealFlit
  generalize (h ++ zeros 60).take 60 = a at hl
  generalize (d ++ zeros 576).take 576 = b
  have hc : crc32c (a ++ zeros 4 ++ b) < 256 ^ 4 := BitVec.isLt _
  dsimp only
  generalize hk : crc32c (a ++ zeros 4 ++ b) = c at hc ⊢
  have e1 : (a ++ leBytes 4 c ++ b).take 60 = a := by rw [← hl, List.append_assoc, List.take_left]
  have e2 : (a ++ leBytes 4 c ++ b).drop 64 = b := by
    rw [show 64 = (a ++ leBytes 4 c).length by rw [List.length_append, hl, leBytes_length], List.drop_left]
  have e3 : ((a ++ leBytes 4 c ++ b).drop 60).take 4 = leBytes 4 c := by
    rw [← hl, List.append_assoc, List.drop_left]
    nth_rw 1 [← leBytes_length 4 c]
    rw [List.take_left]
  unfold fieldAt
  rw [e1, e2, e3, leNat_leBytes 4 c hc, hk]
  simp

theorem ctrl_good (k : Nat) (h d : List Byte) (hk : (fieldAt (sealFlit h d) 0 1 == k) = true) : ctrlGood k (sealFlit h d) = true := by
  unfold ctrlGood
  rw [crcGood_sealFlit, hk]
  rfl

/-- A NAK of SEQ 7, a CREDIT, an IDENT and a TIMESYNC pass their checks. -/
theorem witness_ctrl_flits : ctrlGood 1 (nakFlit 7) = true ∧ ctrlGood 3 (creditFlit 4096 65535) = true
    ∧ ctrlGood 2 (identFlit (trial 15 false).ident) = true ∧ ctrlGood 4 (timesyncFlit [5, 2 ^ 63, 7]) = true :=
  ⟨ctrl_good _ _ _ (by decide +kernel), ctrl_good _ _ _ (by decide +kernel), ctrl_good _ _ _ (by decide +kernel),
    ctrl_good _ _ _ (by decide +kernel)⟩

/-- A flit of a read request, and what it delivers. -/
theorem witness_data_flit : let f := sealFlit (headerBytes ⟨1, 1, 0, 9, 0xFC0, []⟩) []
    dataGood [] f = true ∧ (streamed [] f).takeWhile whole = [⟨1, 1, 0, 9, 0xFC0, []⟩] := by
  refine ⟨?_, by decide +kernel⟩
  unfold dataGood
  rw [crcGood_sealFlit]
  decide +kernel

/-- A header of a TYPE that is reserved. -/
theorem witness_data_flit_bad : dataGood [] (sealFlit [6] []) = false := by
  unfold dataGood
  rw [crcGood_sealFlit]
  decide +kernel

/-- One wrong symbol of lane 3 of a link of four lanes is corrected; sixteen are not (R433). -/
theorem witness_codeword : let l : Link := { state := .up, width := 4 }
    (l.noteFixed 0 1).noisy = false ∧ (l.noteBad 0).noisy = false ∧ ({ l with badAt := List.replicate 16 0 }.noteBad 0).noisy = true ∧
    linkDecode (l.pattern []) = some [] ∧ linkDecode (l.pattern [⟨3, 135, 1023⟩]) = some [(543, 1023)]
      ∧ (l.pattern [⟨3, 135, 1023⟩]).after [(543, 1023)] = []
      ∧ l.pattern ((List.range 16).map fun i => ⟨0, i, 1⟩) = (List.range 16).map fun i => (4 * i, 1) := by decide +kernel

theorem witness_uncorrectable : linkDecode ((List.range 16).map fun i => (4 * i, 1)) = none := by decide +kernel

/-- Three wrong symbols within reach of another code word are taken for it (R187). -/
theorem test_ucm_miscorrects : let g := gf8.generator 4
    ucmDecode [(0, 1), (32, nth 0 g 0), (33, nth 0 g 1)] = some [(34, nth 0 g 2), (35, nth 0 g 3)] := by decide +kernel

theorem witness_flits : (let s := withLink { state := .up, lastSeq := 255, nakAt := some (0, 255) }
      (s.link 95).state = .up ∧ (0 : Byte) = (s.link 95).lastSeq + 1 ∧ s.time.dev - 0 < 200)
    ∧ (let l : Link := { state := .up, replay := [(254, []), (255, []), (0, [])] }
      l.replay = [(254, [])] ++ (255, []) :: [(0, [])] ∧ (∀ x ∈ [((254 : Byte), ([] : List Byte))], x.1 ≠ 255) ∧ l.toSend = []
        ∧ (∀ x ∈ l.replay, x.1.toNat ≠ 7) ∧ (l.acked 254).replay = [(255, []), (0, [])])
    ∧ live.isSelf (identOf (identFlit (trial 15 false).ident)) = false
    ∧ ({ live with fabricId := 5, smbus := { live.smbus with slotId := 7 } } : State).isSelf (identOf (identFlit (trial 15 false).ident)) = true
    ∧ ({ reqOwed := 0, rspOwed := 65535 } : Link).rspOwed ≠ 0 := by decide +kernel

/-- A read of `n` units by module 7 of fabric 5, which an inbound entry admits (R441, R442). -/
def asked (a n : Nat) : State :=
  withStacks { withLink { state := .up, peerFabric := 5, peerSlot := 7, received := [⟨⟨1, n, 0, 9, a, []⟩, none⟩] } with
    inbound := [(15, { used := true, enabled := true, fabric := 5, slot := 7, lo := 0, hi := 4096 })] }

theorem witness_remote_request : ((asked 0xFC0 1).link 95).received = [⟨⟨1, 1, 0, 9, 0xFC0, []⟩, none⟩]
    ∧ (asked 0xFC0 1).admitsInbound 5 7 0xFC0 64 = true ∧ (asked 0x1000 1).admitsInbound 5 7 0x1000 64 = false
    ∧ (asked 0 0).admitsInbound 5 7 0 0 = true ∧ (asked 0 64).admitsInbound 5 7 0 4096 = true
    ∧ ({ asked 0 65 with inbound := [(15, { used := true, enabled := true, fabric := 5, slot := 7, lo := 0, hi := 8192 })] } : State).admitsInbound 5 7 0 4160
      = true := by decide +kernel

/-- What a request of 64 B at the end of the granule comes to. -/
def served (s : State) : State × Option (Status × List Byte) :=
  ((s.onLink 95 fun l => l.consumed ⟨1, 1, 0, 9, 0xFC0, []⟩).linkCount 95 31 (pktUnits ⟨1, 1, 0, 9, 0xFC0, []⟩)).gather (.link 95 9) false 1
    ((partsOf 0xFC0 (.read 64)).map fun q => (some q.1, q.2)) []

theorem witness_remote_answer : ((served (asked 0xFC0 1)).2.map Prod.fst = some .ok)
    ∧ ∀ q ∈ partsOf 0xFC0 (.read 64), (asked 0xFC0 1).noRoom q.1 (accLen q.2) = false := by decide +kernel

theorem witness_remote_failure : (served { asked 0xFC0 1 with edgeStacks := [] }).2.map Prod.fst = some .domainOff := by decide +kernel

/-- The channel of its home retrains: the request is held. -/
theorem witness_remote_held : (served { asked 0xFC0 1 with channels := [(0, { state := .retraining })] }).2 = none := by decide +kernel

/-- Its hold queue has no room for a partner's request. -/
theorem witness_remote_no_room : ∃ q ∈ partsOf 0xFC0 (.read 64), ({ asked 0xFC0 1 with channels := [(0, { state := .retraining, held := (List.range 240).map fun i => ({ req := { who := .link 1 i }, addr := 0, acc := .read 64 } : Held) })] } : State).noRoom q.1 (accLen q.2) = true := by
  decide +kernel

/-- A request that came outside the inbound table waits for its refusal. -/
theorem witness_remote_refused : let p : Packet := ⟨1, 1, 0, 9, 0x1000, []⟩
    let l : Link := { state := .up, peerFabric := 5, peerSlot := 7, received := [⟨p, some .denied⟩] }
    l.state = .up ∧ l.received = ⟨p, some .denied⟩ :: [] ∧ p.type = 1 ∧ (asked 0xFC0 1).inboundCheck 95 p = some .denied := by decide +kernel

/-- The data that channel 255 waits for, and an error in its place. -/
theorem witness_response_pairs : ∀ p ∈ [(⟨3, 1, 0, 9, 0, zeros 64⟩ : Packet), ⟨5, 0, 2, 9, 0, []⟩], ∃ (l : Link) (o : Outstanding) (c : DmaCh),
    let s := { withLink l with dma := [(255, c)] }
    (l.state = .up ∧ l.outstanding = [] ++ o :: [] ∧ o.tag = p.tag ∧ l.answers = [p] ∧ o.write = false ∧ o.len = 1 ∧ o.ch = 255
      ∧ (s.chan 255).life = o.life ∧ (s.chan 255).dev = false ∧ s.working 255 = true ∧ (s.engine (engineOf 255)).stopAll = false)
    ∧ ∀ x ∈ ([] ++ [] : List Outstanding), x.tag ≠ 9 := by
  intro p hp
  refine ⟨{ state := .up, outstanding := [⟨9, 255, 3, false, 0, 1⟩], answers := [p] }, ⟨9, 255, 3, false, 0, 1⟩, { state := .active, life := 3 }, ?_,
    fun x h => absurd h (by simp)⟩
  simp only [List.mem_cons, List.not_mem_nil, or_false] at hp
  rcases hp with rfl | rfl <;> decide +kernel

/-! ### Time and the system bus -/

theorem witness_time : ∃ (s t : State) (k : Nat) (ks : List Nat), s.time.mode = .linkFollow
    ∧ s.bundle s.time.followFabric s.time.followSlot = k :: ks ∧ s.time.unsynced = true
    ∧ t.time.mode = .chainFollow ∧ t.power.aon = true ∧ t.power.pkg ≠ .p3 ∧ t.time.loadArm = false
    ∧ 2 * ((t.time.dev : Int) - 100000 * 3) < 100000 ∧ -100000 ≤ 2 * ((t.time.dev : Int) - 100000 * 3) :=
  ⟨{ withLink { state := .up, peerFabric := 5, peerSlot := 7 } with time := { mode := .linkFollow, followFabric := 5, followSlot := 7 } },
    { live with time := { mode := .chainFollow, dev := 250000 } }, 95, [], by decide +kernel⟩

/-- An intact TIMESYNC of the followed peer over link 95, and of another module. -/
theorem witness_timesync_answer : let f : Flit := { seq := 0, ack := 0, spare := 0, bytes := timesyncFlit [5, 2 ^ 63, 7] }
    let s (slot : Nat) : State := { withLink { state := .up, peerFabric := 5, peerSlot := slot } with
      time := { mode := .linkFollow, followFabric := 5, followSlot := 7, peerLost := true } }
    f.spare = 0 ∧ ctrlGood 4 f.bytes = true ∧ (s 7).fromFollowed 95 = true ∧ (s 6).fromFollowed 95 = false
      ∧ ∀ slot ∈ [6, 7], ((s slot).link 95).state = .up ∧ linkDecode (((s slot).link 95).pattern []) = some []
        ∧ (((s slot).link 95).noteFixed 0 0).noisy = false ∧ (s slot).time.mode = .linkFollow :=
  ⟨rfl, ctrl_good _ _ _ (by decide +kernel), by decide +kernel⟩

theorem witness_sync_out : ∃ s t : State, s.time.mode = .chainRoot ∧ s.time.syncNext = s.time.dev ∧ t.time.mode = .chainRoot
    ∧ t.time.dev + 1 = t.time.syncNext :=
  ⟨{ live with time := { mode := .chainRoot, dev := 700000, syncNext := 700000 } },
    { live with time := { mode := .chainRoot, dev := 699999, syncNext := 700000 } }, by decide⟩

theorem witness_smbus : live.power.aon = true ∧ live.power.trip = none ∧ live.power.entering = none ∧ live.power.pkg = .p0
    ∧ (powered .p1 none).power.pkg = .p1 ∧ (powered .p2 none).power.pkg = .p2 ∧ (powered .p0 (some .p2)).power.entering ≠ none
    ∧ ({ live with power := { live.power with trip := some (3, 0) } } : State).power.trip ≠ none ∧ live.power.sagHold = false
    ∧ (smbusCommand 0x00).isNone = true ∧ (smbusCommand 0xD6).isNone = true := by decide

/-- The two LINEAR11 words the spec writes out (R486). -/
theorem test_linear11 : linear11 47250 1000 = 0xE2F4 ∧ linear11 4032 1 = 0x13F0 := by decide +kernel

/-! ### Shuffles and zero sums -/

/-- A VSHUF of nine FP32 elements that reverses the lanes (R95). -/
def vshufWord : Nat := 0x33 + 9 * 2 ^ 20

theorem witness_shuffle : ∃ s b r o, runnable vOpc vQueue vFoot 0x33 0 ((s : State).vcore 48).ops = some (b, o, r)
    ∧ s.standsStill 48 = false ∧ o.covered = [] ∧ vFmtA o.word.toNat = 0 :=
  ⟨withOps 0 vshufWord, [], [], { word := BitVec.ofNat 128 vshufWord }, by decide +kernel⟩

theorem witness_zero_sums : (1 : Nat) * pow2 ((2 : Int) - 1) = 2 * pow2 ((1 : Int) - 2)
    ∧ (∀ p ∈ List.zipWith Num.mul [Num.fin true 0 0] [Num.fin false 1 0], p.1.isNan = false ∧ p.1.isInf = false)
    ∧ (groupSum [Num.fin true 0 0] [Num.fin false 1 0]).1.isZero = true ∧ vFmtA vaddWord = 0 ∧ vFmtD vaddWord = 0
    ∧ vRnd vaddWord = false ∧ vSb vaddWord = false ∧ 7 < vCount vaddWord := by decide +kernel

/-! ### Ill-formed commands are refused -/

theorem test_ill_formed_units : ∀ i ∈ [Instr.hello 25, .getStatus 31, .quota 24, .copy 256, .snoteForward 16128, .mergeRetire 1032192 0 [],
      .cdcWatchdog 12, .napEntry 24, .nbSync 1024, .nbDispatch 32, .linkRetry 96, .avsNoack 84, .bar4Win 4 0, .vfMap 0 0, .vfMap 25 0,
      .vfFlr 0, .floodgateDrained 32, .fence (.cluster 0 1344), .fence (.culvert 0 48 0), .fence (.culvert 0 0 29), .fence (.halfDie 24),
      .edgeLineMark 0 72, .ucmRefresh 0 4 true, .mergeRetire 0 24576 [], .msixVectorUnmask 0 512], i.wf = false := by decide +kernel

theorem test_ill_formed_cores : ∀ i ∈ [Instr.tmma 48, .vadd 47, .vadd 60, .sat 59, .tmma 1032192], i.wf = false := by decide +kernel

theorem test_ill_formed_lengths : ∀ i ∈ [Instr.bar4Read 0 0, .bar4Read 0 4097, .bar4Write 0 [], .registerWrite 0 1 0 4 0, .registerWrite 0 0 0 2 0,
      .registerWrite 0 0 (2 ^ 25) 4 0, .ucmApertureAccess (.dma 256) 0 (.read 4) [], .ucmApertureAccess .host 0 (.read 0) [],
      .edgeAccess (.link 96 0) 0 (.read 4) [], .linkTrainPcie 640 3 true, .dbgChallenge (zeros 31),
      .linkDetect 0 { trial 15 false with own := 16 }, .sensorSample { sample 0 with logic := [] },
      .dbgResponse { scope := 0, keyIndex := 4, publicKey := zeros 1952, signature := zeros 3309 }], i.wf = false := by decide +kernel

theorem test_ill_formed_flips : ∀ i ∈ [Instr.ucmWordArrival 0 [⟨36, 1⟩], .ucmWordArrival 0 [⟨0, 0⟩], .edgeScrubRequest 0 [⟨72, 1⟩],
      .edgeAccess .host 0 (.read 4) [⟨88, 1⟩]], i.wf = false := by decide +kernel

theorem test_well_formed : ∀ i ∈ [Instr.hello 24, .tmma 47, .vadd 59, .sat 1032191, .mergeRetire 1032191 24575 [⟨35, 255⟩], .linkDetect 95 (trial 12 true)],
    i.wf = true := by decide +kernel

/-! ### Registers as they read (the worked example of file 25) -/

/-- The fuses of the worked example, its firmware running. -/
def mixed : State :=
  { live with
    fuses := { live.fuses with grade := 1, memory := 1, coolant := 1, romRev := 2, cdMin := 0xA1 }
    trust := { running := true, ifLevel := 3, steppings := true, romStarted := true } }

theorem test_identity : (mixed.readRegister 0 0 0 8).reply = .data (leBytes 8 0x000001110C121E57)
    ∧ (mixed.readRegister 0 0 8 8).reply = .data (leBytes 8 0x03A1A1B0B0B0A1B2) := by decide +kernel

theorem test_narrow_read : (mixed.readRegister 0 0 0 4).reply = .data (zeros 4) ∧ (mixed.readRegister 0 0 0 4).accErr.count = 1 := by
  decide +kernel

end Sys2Proof.Machine.Tests
end

section
/-! SUPPORT. Byte strings, packed elements and chunks: what a field of them reads as. -/

namespace Sys2Proof.Machine

/-! ### Little-endian numbers (R7) -/

theorem two_pow_eight_mul (n : Nat) : 2 ^ (8 * n) = 256 ^ n := by
  rw [pow_mul]; norm_num

theorem leNat_lt (l : List Byte) : leNat l < 256 ^ l.length := by
  induction l with
  | nil => simp [leNat]
  | cons b r ih =>
    have hb : b.toNat < 256 := b.isLt
    simp only [leNat, List.length_cons, pow_succ]
    omega

theorem leNat_drop (n : Nat) (l : List Byte) : leNat (l.drop n) = leNat l / 256 ^ n := by
  induction n generalizing l with
  | zero => simp
  | succ n ih =>
    cases l with
    | nil => simp [leNat]
    | cons b r =>
      have hb : b.toNat < 256 := b.isLt
      have hr : leNat (b :: r) / 256 = leNat r := by simp only [leNat]; omega
      rw [List.drop_succ_cons, ih, pow_succ', ← Nat.div_div_eq_div_mul, hr]

theorem leNat_take (n : Nat) (l : List Byte) : leNat (l.take n) = leNat l % 256 ^ n := by
  induction n generalizing l with
  | zero => simp [leNat, Nat.mod_one]
  | succ n ih =>
    cases l with
    | nil => simp [leNat]
    | cons b r =>
      have hb : b.toNat < 256 := b.isLt
      have hm : leNat (b :: r) % 256 = b.toNat := by simp only [leNat]; omega
      have hr : leNat (b :: r) / 256 = leNat r := by simp only [leNat]; omega
      rw [pow_succ', Nat.mod_mul, hm, hr, List.take_succ_cons, leNat, ih]

/-- A field of a byte string is a run of bits of its number. -/
theorem fieldAt_eq_bits (l : List Byte) (o n : Nat) : fieldAt l o n = bits (leNat l) (8 * o) (8 * n) := by
  rw [fieldAt, leNat_take, leNat_drop, bits, two_pow_eight_mul, two_pow_eight_mul]

/-- Elements of whole bytes are the fields at their places (R27). -/
theorem unpack_bytes (b n : Nat) (l : List Byte) :
    unpack (8 * b) n l = (List.range n).map fun i => fieldAt l (b * i) b := by
  simp only [unpack, fieldAt_eq_bits, Nat.mul_assoc]

@[simp] theorem leBytes_length (n v : Nat) : (leBytes n v).length = n := by
  induction n generalizing v with
  | zero => rfl
  | succ n ih => rw [leBytes, List.length_cons, ih]

theorem leBytes_drop (k n v : Nat) : (leBytes n v).drop k = leBytes (n - k) (v / 256 ^ k) := by
  induction k generalizing n v with
  | zero => simp
  | succ k ih =>
    cases n with
    | zero => simp [leBytes]
    | succ n => rw [leBytes, List.drop_succ_cons, ih, Nat.succ_sub_succ, pow_succ', Nat.div_div_eq_div_mul]

theorem leBytes_take {k n : Nat} (h : k ≤ n) (v : Nat) : (leBytes n v).take k = leBytes k v := by
  induction k generalizing n v with
  | zero => simp [leBytes]
  | succ k ih =>
    obtain ⟨n, rfl⟩ : ∃ m, n = m + 1 := ⟨n - 1, by omega⟩
    rw [leBytes, List.take_succ_cons, ih (by omega), leBytes]

/-- The bytes of a number depend on its low bits alone. -/
theorem leBytes_mod (n v : Nat) : leBytes n (v % 256 ^ n) = leBytes n v := by
  induction n generalizing v with
  | zero => rfl
  | succ n ih =>
    have hd : v % 256 ^ (n + 1) / 256 = v / 256 % 256 ^ n := by
      rw [pow_succ', Nat.mod_mul_right_div_self]
    have hm : BitVec.ofNat 8 (v % 256 ^ (n + 1)) = BitVec.ofNat 8 v := by
      apply BitVec.eq_of_toNat_eq
      simp only [BitVec.toNat_ofNat]
      exact Nat.mod_mod_of_dvd v (show 256 ∣ 256 ^ (n + 1) from Dvd.intro_left (256 ^ n) (pow_succ 256 n).symm)
    rw [leBytes, leBytes, hd, ih, hm]

/-- Element i of a packed stream (R27). -/
theorem bits_packNat (w : Nat) (l : List Nat) (i : Nat) :
    packNat w l / 2 ^ (w * i) % 2 ^ w = nth 0 l i % 2 ^ w := by
  induction l generalizing i with
  | nil => simp [packNat, nth]
  | cons x r ih =>
    have hx : x % 2 ^ w < 2 ^ w := Nat.mod_lt _ (by positivity)
    cases i with
    | zero => simp [packNat, nth]
    | succ i =>
      have hd : packNat w (x :: r) / 2 ^ w = packNat w r := by
        rw [packNat, Nat.add_mul_div_left _ _ (by positivity), Nat.div_eq_of_lt hx, Nat.zero_add]
      rw [Nat.mul_succ, Nat.add_comm, pow_add, ← Nat.div_div_eq_div_mul, hd, ih]
      simp [nth]

/-! ### Parts of a memory's bytes -/

theorem read_slice {o k n : Nat} (m : Memory) (a : Nat) (h : o + k ≤ n) :
    ((m.read a n).drop o).take k = m.read (a + o) k := by
  rw [Memory.read_eq, Memory.read_eq, ← List.map_drop, ← List.map_take, List.drop_range',
    List.take_range'_of_length_ge (by omega), Nat.mul_one]

/-- A field of bytes read is the number of the bytes at its address. -/
theorem fieldAt_read {o k n : Nat} (m : Memory) (a : Nat) (h : o + k ≤ n) :
    fieldAt (m.read a n) o k = fieldAt (m.read (a + o) k) 0 k := by
  rw [fieldAt, read_slice m a h, fieldAt, List.drop_zero, List.take_of_length_le (by simp)]

theorem fieldAt_read_byte {o n : Nat} (m : Memory) (a : Nat) (h : o < n) :
    fieldAt (m.read a n) o 1 = (m.byte (a + o)).toNat := by
  rw [fieldAt, read_slice m a h, Memory.read_eq]
  simp [leNat]

/-- Elements of one byte are the bytes read. -/
theorem unpack_read_bytes (m : Memory) (a n : Nat) :
    unpack 8 n (m.read a n) = (List.range n).map fun k => (m.byte (a + k)).toNat := by
  rw [unpack_bytes 1 n]
  refine List.map_congr_left fun k hk => ?_
  rw [Nat.one_mul, fieldAt_read_byte m a (List.mem_range.1 hk)]

/-- A read inside the bytes just written gives that part of them. -/
theorem read_write_slice {o k : Nat} (m : Memory) (a : Nat) (v : List Byte) (h : o + k ≤ v.length) :
    (m.write a v).read (a + o) k = (v.drop o).take k := by
  rw [← read_slice _ a h, Memory.read_write]

/-! ### Lists with their places -/

theorem zipIdx_map_range {α : Type} (f : Nat → α) (n : Nat) :
    ((List.range n).map f).zipIdx = (List.range n).map fun i => (f i, i) := by
  apply List.ext_getElem <;> simp

/-- A fold that does not look at the places of the elements is a fold over the elements. -/
theorem foldl_zipIdx_fst {α β : Type} (f : β → α → β) (l : List α) (x : β) :
    l.zipIdx.foldl (fun x g => f x g.1) x = l.foldl f x := by
  rw [← List.foldl_map (f := Prod.fst) (g := f), List.zipIdx_map_fst]

/-! ### Lists cut into pieces -/

theorem chunksAux_map {α β : Type} (f : α → β) (n fuel : Nat) (l : List α) :
    chunksAux n fuel (l.map f) = (chunksAux n fuel l).map (List.map f) := by
  induction fuel generalizing l with
  | zero => rfl
  | succ fuel ih =>
    cases l with
    | nil => rfl
    | cons x r =>
      simp only [chunksAux, List.isEmpty_map, ← List.map_drop, ← List.map_take, ih]
      rfl

theorem chunks_map {α β : Type} (f : α → β) (n : Nat) (l : List α) :
    chunks n (l.map f) = (chunks n l).map (List.map f) := by
  rw [chunks, chunks, List.length_map, chunksAux_map]

theorem chunksAux_flatten {α : Type} {n : Nat} (hn : 0 < n) (fuel : Nat) (l : List α) (h : l.length ≤ fuel) :
    (chunksAux n fuel l).flatten = l := by
  induction fuel generalizing l with
  | zero => simp_all [chunksAux]
  | succ fuel ih =>
    cases l with
    | nil => rfl
    | cons x r =>
      have hl : ((x :: r).drop n).length ≤ fuel := by
        simp only [List.length_drop, List.length_cons] at h ⊢; omega
      simp [chunksAux, ih _ hl]

/-- The pieces in order are the list. -/
theorem chunks_flatten {α : Type} {n : Nat} (hn : 0 < n) (l : List α) : (chunks n l).flatten = l :=
  chunksAux_flatten hn _ l le_rfl

theorem sum_map_sum_chunks {n : Nat} (hn : 0 < n) (l : List Int) : ((chunks n l).map List.sum).sum = l.sum := by
  rw [← List.sum_flatten, chunks_flatten hn]

end Sys2Proof.Machine
end

section
/-! SUPPORT. The sign of an exact zero sum (R34), and what it makes FP32 addition and a VADD write. -/

namespace Sys2Proof.Machine

/-! ### Exact sums of finite values -/

/-- Neither a NaN nor an infinity. -/
def Num.Finite (x : Num) : Prop := x.isNan = false ∧ x.isInf = false

/-- Minus zero. -/
def Num.NegZero (x : Num) : Prop := x.isZero = true ∧ x.negative = true

theorem Num.finite_iff (x : Num) : x.Finite ↔ ∃ s m e, x = .fin s m e := by
  cases x <;> simp [Num.Finite, Num.isNan, Num.isInf]

@[simp] theorem Num.negZero_fin (s : Bool) (m : Nat) (e : Int) : (Num.fin s m e).NegZero ↔ s = true ∧ m = 0 := by
  cases m <;> simp [Num.NegZero, Num.isZero, Num.negative]

theorem pow2_pos (k : Int) : 0 < pow2 k := Nat.two_pow_pos _

/-- Of the two factors that bring addends to the lower exponent, each is the power by which its own exponent is above
the other. -/
theorem pow2_sub_min (e g : Int) : pow2 (e - min e g) = pow2 (e - g) ∧ pow2 (g - min e g) = pow2 (g - e) := by
  unfold pow2
  constructor <;> congr 1 <;> omega

/-- Equal magnitudes of opposite signs cancel to +0. -/
theorem addFin_cancel {m n : Nat} {e g : Int} (s : Bool) (h : m * pow2 (e - g) = n * pow2 (g - e)) :
    addFin s m e (!s) n g = .fin false 0 (min e g) := by
  obtain ⟨he, hg⟩ := pow2_sub_min e g
  simp [addFin, he, hg, h]

theorem addFin_zeros (s : Bool) (e g : Int) : addFin s 0 e s 0 g = .fin s 0 (min e g) := by
  simp [addFin]

/-- An exact sum is −0 from two zeros of negative sign and from nothing else. -/
theorem negZero_addFin (s t : Bool) (m n : Nat) (e g : Int) :
    (addFin s m e t n g).NegZero ↔ (Num.fin s m e).NegZero ∧ (Num.fin t n g).NegZero := by
  have he := pow2_pos (e - min e g)
  have hg := pow2_pos (g - min e g)
  unfold addFin
  dsimp only
  split
  case isTrue hst =>
    obtain rfl : s = t := by simpa using hst
    simp only [Num.negZero_fin, Nat.add_eq_zero_iff, Nat.mul_eq_zero]
    have := he.ne'
    have := hg.ne'
    tauto
  case isFalse hst =>
    have opposite : ¬(s = true ∧ t = true) := by rintro ⟨rfl, rfl⟩; simp at hst
    have right : ¬((Num.fin s m e).NegZero ∧ (Num.fin t n g).NegZero) := by
      simp only [Num.negZero_fin]; tauto
    refine iff_of_false ?_ right
    split
    case isTrue => simp
    case isFalse hne =>
      have hne : m * pow2 (e - min e g) ≠ n * pow2 (g - min e g) := by simpa using hne
      split <;> simp only [Num.negZero_fin] <;> omega

theorem add_of_finite {x y : Num} (hx : x.Finite) (hy : y.Finite) :
    (Num.add x y).1.Finite ∧ (Num.add x y).2 = 0 := by
  obtain ⟨s, m, e, rfl⟩ := x.finite_iff.1 hx
  obtain ⟨t, n, g, rfl⟩ := y.finite_iff.1 hy
  refine ⟨?_, rfl⟩
  simp only [Num.add, addFin, Num.finite_iff]
  split_ifs <;> exact ⟨_, _, _, rfl⟩

theorem negZero_add {x y : Num} (hx : x.Finite) (hy : y.Finite) :
    (Num.add x y).1.NegZero ↔ x.NegZero ∧ y.NegZero := by
  obtain ⟨s, m, e, rfl⟩ := x.finite_iff.1 hx
  obtain ⟨t, n, g, rfl⟩ := y.finite_iff.1 hy
  exact negZero_addFin s t m n e g

/-- One addition of the exact sum of a list, with the flags so far. -/
def Num.sumStep (a : Num × Flags) (y : Num) : Num × Flags := ((Num.add a.1 y).1, a.2 ||| (Num.add a.1 y).2)

theorem Num.sum_cons (x : Num) (r : List Num) : Num.sum (x :: r) = r.foldl Num.sumStep (x, 0) := rfl

/-- Sums of finite values set no flag. -/
theorem sum_flags_of_finite {l : List Num} (h : ∀ x ∈ l, x.Finite) : (Num.sum l).2 = 0 := by
  have fold : ∀ (r : List Num) (x : Num), x.Finite → (∀ y ∈ r, y.Finite) → (r.foldl Num.sumStep (x, 0)).2 = 0 := by
    intro r
    induction r with
    | nil => intros; rfl
    | cons y r ih =>
      intro x hx hr
      obtain ⟨hy, hr⟩ := List.forall_mem_cons.1 hr
      obtain ⟨hf, h0⟩ := add_of_finite hx hy
      simpa [Num.sumStep, h0] using ih (Num.add x y).1 hf hr
  cases l with
  | nil => rfl
  | cons x r =>
    obtain ⟨hx, hr⟩ := List.forall_mem_cons.1 h
    exact fold r x hx hr

theorem negZero_foldl_sumStep (r : List Num) (x : Num) (f : Flags) (hx : x.Finite) (hr : ∀ y ∈ r, y.Finite) :
    (r.foldl Num.sumStep (x, f)).1.NegZero ↔ x.NegZero ∧ ∀ y ∈ r, y.NegZero := by
  induction r generalizing x f with
  | nil => simp
  | cons y r ih =>
    obtain ⟨hy, hr⟩ := List.forall_mem_cons.1 hr
    rw [List.foldl_cons, Num.sumStep, ih _ _ (add_of_finite hx hy).1 hr, negZero_add hx hy, List.forall_mem_cons,
      and_assoc]

/-- The exact sum of finite values is −0 when there are some and all are −0, and not otherwise. -/
theorem negZero_sum {l : List Num} (h : ∀ x ∈ l, x.Finite) :
    (Num.sum l).1.NegZero ↔ l ≠ [] ∧ ∀ x ∈ l, x.NegZero := by
  cases l with
  | nil => simp [Num.sum]
  | cons x r =>
    obtain ⟨hx, hr⟩ := List.forall_mem_cons.1 h
    rw [Num.sum_cons, negZero_foldl_sumStep r x 0 hx hr]
    simp

/-- A group without a NaN operand has the exact sum of its products. -/
theorem groupSum_of_noNan {a b : List Num} (h : (a.any Num.isNan || b.any Num.isNan) = false) :
    (groupSum a b).1 = (Num.sum ((List.zipWith Num.mul a b).map Prod.fst)).1 := by
  simp [groupSum, h]

theorem noNan_of_groupSum_isZero {a b : List Num} (h : (groupSum a b).1.isZero = true) :
    (a.any Num.isNan || b.any Num.isNan) = false := by
  by_contra hn
  simp [groupSum, Bool.eq_true_of_not_eq_false hn, Num.isZero] at h

/-- A group sum that is zero is −0 when it has products and each of them is −0, and is +0 otherwise (R34). -/
theorem groupSum_zero_negative {a b : List Num}
    (hfin : ∀ p ∈ List.zipWith Num.mul a b, p.1.isNan = false ∧ p.1.isInf = false)
    (hz : (groupSum a b).1.isZero = true) :
    (groupSum a b).1.negative = true ↔ List.zipWith Num.mul a b ≠ []
      ∧ ∀ p ∈ List.zipWith Num.mul a b, p.1.isZero = true ∧ p.1.negative = true := by
  have hl : ∀ x ∈ (List.zipWith Num.mul a b).map Prod.fst, x.Finite := List.forall_mem_map.2 hfin
  have sign : (groupSum a b).1.negative = true ↔ (groupSum a b).1.NegZero := by simp [Num.NegZero, hz]
  rw [sign, groupSum_of_noNan (noNan_of_groupSum_isZero hz), negZero_sum hl, List.forall_mem_map]
  simp [Num.NegZero]

/-! ### FP32 -/

theorem write_zero (f : Fmt) (o : ArithOpt) (m : Round) (s : Bool) (e : Int) :
    f.write o m (Num.fin s 0 e).exact = (f.signed s 0, 0) := rfl

/-- A code of FP32 below infinity, and the same with the sign bit, are a finite value and its negation. -/
theorem fp32_decode_finite {x : Nat} (h : x / 2 ^ 23 < 255) :
    ∃ m e, Fmt.fp32.decode x = .fin false m e ∧ Fmt.fp32.decode (2 ^ 31 + x) = .fin true m e := by
  have expo : (2 ^ 31 + x) / 2 ^ 23 % 2 ^ 8 = x / 2 ^ 23 := by omega
  have expo' : x / 2 ^ 23 % 2 ^ 8 = x / 2 ^ 23 := by omega
  have frac : (2 ^ 31 + x) / 2 ^ 0 % 2 ^ 23 = x / 2 ^ 0 % 2 ^ 23 := by omega
  have sign : bit (2 ^ 31 + x) 31 = true := by
    have : (2 ^ 31 + x) / 2 ^ 31 % 2 = 1 := by omega
    simp only [bit, this]; rfl
  have sign' : bit x 31 = false := by
    have : x / 2 ^ 31 % 2 = 0 := by omega
    simp only [bit, this]; rfl
  have finite : (x / 2 ^ 23 == 2 ^ 8 - 1) = false := by
    rw [beq_eq_false_iff_ne]; omega
  simp only [Fmt.decode, Fmt.fp32, bits, expo, expo', frac, sign, sign', finite, Bool.and_false, Bool.false_and,
    Bool.false_eq_true, if_false, show (Special.ieee == Special.nanOnly) = false from rfl]
  split <;> exact ⟨_, _, rfl, rfl⟩

theorem fadd_of_add {a b : Num} {s : Bool} {k : Int} (o : ArithOpt) (x y : Nat) (hx : Fmt.fp32.decode x = a)
    (hy : Fmt.fp32.decode y = b) (h : Num.add a b = (.fin s 0 k, 0)) : fadd o x y = (Fmt.fp32.signed s 0, 0) := by
  simp [fadd, hx, hy, h, write_zero]

theorem add_cancel {m n : Nat} {e g : Int} (s : Bool) (h : m * pow2 (e - g) = n * pow2 (g - e)) :
    Num.add (.fin s m e) (.fin (!s) n g) = (.fin false 0 (min e g), 0) := by
  rw [Num.add, addFin_cancel s h]

theorem add_zeros (s : Bool) (e g : Int) : Num.add (.fin s 0 e) (.fin s 0 g) = (.fin s 0 (min e g), 0) := by
  rw [Num.add, addFin_zeros]

theorem fadd_opposite {x : Nat} (o : ArithOpt) (h : x / 2 ^ 23 < 255) :
    fadd o x (2 ^ 31 + x) = (0, 0) ∧ fadd o (2 ^ 31 + x) x = (0, 0) := by
  obtain ⟨m, e, hp, hn⟩ := fp32_decode_finite h
  exact ⟨fadd_of_add o _ _ hp hn (add_cancel false rfl), fadd_of_add o _ _ hn hp (add_cancel true rfl)⟩

theorem fadd_same_zeros (o : ArithOpt) {y : Nat} (h : y = 0 ∨ y = 2 ^ 31) : fadd o y y = (y, 0) := by
  obtain rfl | rfl := h
  · have hd : Fmt.fp32.decode 0 = .fin false 0 (-149) := rfl
    exact fadd_of_add o 0 0 hd hd (add_zeros false _ _)
  · have hd : Fmt.fp32.decode (2 ^ 31) = .fin true 0 (-149) := rfl
    exact fadd_of_add o (2 ^ 31) (2 ^ 31) hd hd (add_zeros true _ _)

/-! ### FP32 streams of the V-core -/

/-- The elements of an FP32 stream are its words. -/
theorem codesAt_fp32 (sram : Memory) (a n : Nat) :
    codesAt sram a 0 n = (List.range n).map fun i => fieldAt (sram.read (a + 4 * i) 4) 0 4 := by
  have hb : fmtBytes 0 n = 4 * n := by simp only [fmtBytes, fmtBits, Option.getD_some, ceilDiv]; omega
  rw [codesAt, hb, show (fmtBits 0).getD 8 = 8 * 4 from rfl, unpack_bytes]
  refine List.map_congr_left fun i hi => fieldAt_read sram a ?_
  have := List.mem_range.1 hi
  omega

theorem valOf_fp32 (o : ArithOpt) (code : Nat) : valOf o 0 code = Fmt.fp32.decode code := by
  simp [valOf, fmtOf, Fmt.operand, Fmt.fp32]

/-- A stream of 32-bit results: what stands at element i. -/
theorem putCodes_read_fp32 {i : Nat} (c : VCore) (w : Nat) (l : List (Nat × Flags)) (hi : i < l.length) :
    (c.putCodes w 0 l).sram.read (vDst w + 4 * i) 4 = leBytes 4 (nth 0 (l.map Prod.fst) i) := by
  have hb : fmtBytes 0 l.length = 4 * l.length := by simp only [fmtBytes, fmtBits, Option.getD_some, ceilDiv]; omega
  have whole : packedOver 0 (c.sram.read (vDst w) (4 * l.length)) (l.map Prod.fst)
      = leBytes (4 * l.length) (packNat 32 (l.map Prod.fst)) := by
    have hold := leNat_lt (c.sram.read (vDst w) (4 * l.length))
    rw [Memory.read_length, ← two_pow_eight_mul, ← Nat.mul_assoc] at hold
    simp [packedOver, show (fmtBits 0).getD 8 = 32 from rfl, hb, Nat.div_eq_of_lt hold]
  have word : leBytes 4 (packNat 32 (l.map Prod.fst) / 256 ^ (4 * i)) = leBytes 4 (nth 0 (l.map Prod.fst) i) := by
    rw [← leBytes_mod, ← two_pow_eight_mul, ← two_pow_eight_mul, ← Nat.mul_assoc, bits_packNat]
    exact leBytes_mod 4 _
  simp only [VCore.putCodes, VCore.put, hb]
  rw [whole, read_write_slice _ _ _ (by rw [leBytes_length]; omega), leBytes_drop, leBytes_take (by omega), word]

/-- An element-wise FP32 operation of two streams: the word at element i of DST is the result on elements i, rounded
once (R93). -/
theorem binary_read_fp32 {i : Nat} (c : VCore) (e : VEnv) (w : Nat) (f : Num → Num → Exact × Flags) (ha : vFmtA w = 0)
    (hd : vFmtD w = 0) (hr : vRnd w = false) (hs : vSb w = false) (hi : i < vCount w) :
    (c.binary e w f).sram.read (vDst w + 4 * i) 4
      = leBytes 4 (outR e.opt .rne 0 (f (Fmt.fp32.decode (fieldAt (c.sram.read (vSrcA w + 4 * i) 4) 0 4))
          (Fmt.fp32.decode (fieldAt (c.sram.read (vSrcB w + 4 * i) 4) 0 4)))).1 := by
  have hround (k : Nat) : vRound e w k = .rne := by simp [vRound, hr]
  simp only [VCore.binary, VCore.putRounded, vA, vBs, ha, hd, hs, codesAt_fp32, List.map_map, List.zipWith_map,
    List.zipWith_self, zipIdx_map_range, hround, Bool.false_eq_true, if_false]
  rw [putCodes_read_fp32 _ _ _ (by simpa using hi)]
  simp [nth, hi, valOf_fp32]

theorem outR_zero (o : ArithOpt) (m : Round) (f : Nat) (s : Bool) (k : Int) :
    outR o m f (exactOf (.fin s 0 k, 0)) = (((fmtOf f).getD .fp32).signed s 0, 0) := by
  simp [outR, exactOf, write_zero]

/-- FP32 words of equal magnitude and opposite signs: a VADD writes the code of +0 at their element. -/
theorem vaddOp_read_opposite {i x : Nat} (c : VCore) (e : VEnv) (w : Nat) (ha : vFmtA w = 0) (hd : vFmtD w = 0)
    (hr : vRnd w = false) (hs : vSb w = false) (hi : i < vCount w) (hx : x / 2 ^ 23 < 255)
    (hA : fieldAt (c.sram.read (vSrcA w + 4 * i) 4) 0 4 = x)
    (hB : fieldAt (c.sram.read (vSrcB w + 4 * i) 4) 0 4 = 2 ^ 31 + x) :
    (vaddOp c e w).sram.read (vDst w + 4 * i) 4 = [0, 0, 0, 0] := by
  obtain ⟨m, k, hp, hn⟩ := fp32_decode_finite hx
  have hadd : Num.add (.fin false m k) (.fin true m k) = (.fin false 0 (min k k), 0) := add_cancel false rfl
  rw [vaddOp, binary_read_fp32 c e w _ ha hd hr hs hi, hA, hB, hp, hn, hadd, outR_zero]
  rfl

/-- Settles O60: minus zero arises from minus zeros alone, and equal magnitudes of opposite signs cancel to +0. -/
theorem zeroSumsHaveTheirSign : Obligations.ZeroSumsHaveTheirSign := by
  unfold Obligations.ZeroSumsHaveTheirSign
  refine ⟨fun s m n e g h => ⟨_, add_cancel s h⟩, fun s e g => ⟨_, add_zeros s e g⟩,
    fun a b hfin hz => groupSum_zero_negative hfin hz, fun o x y _ hx => ?_, ?_⟩
  · obtain ⟨pos, neg⟩ := fadd_opposite o hx
    exact ⟨congrArg Prod.fst pos, congrArg Prod.fst neg, fadd_same_zeros o⟩
  · intro c e w i x ha hd hr hs hi hx hA hB
    exact vaddOp_read_opposite c e w ha hd hr hs hi hx hA hB

end Sys2Proof.Machine
end

section
/-! SUPPORT. The entries of a tile multiply, and INT32 accumulation of the INT8 pair (R47). -/

namespace Sys2Proof.Machine

/-! ### Entries of a tile, row by row -/

/-- Value and flags of entry (r, v) of a tile (R63, R64). -/
def mmaValue (o : ArithOpt) (w : Nat) (c : TCore) (r v : Nat) : Nat × Flags :=
  let codes := mmaColCodes w c.sram v
  let ws := if (mmaP w).mx then mmaScales w c.sram (mmaWsc w) (mmaBlocks w) v else []
  let as := if (mmaP w).mx then mmaScales w c.sram (mmaAsc w) 2 r else []
  let t2 := if mmaPair w == 8 then fieldAt (c.sram.read (mmaWsc w + 2 * v) 2) 0 2 else 0
  let e := mmaEntry o w (nth 0 (mmaStart w c) (r * mmaN w + v)) (mmaRow o w c.sram r)
    (codes.map (mmaElem o (mmaPair w) true (bit w 8))) ws as t2
  (e.1, e.2 ||| mmaReadFlags w ws as t2 codes)

/-- The entries of an m × n table, row by row. -/
def gridList {α : Type} (m n : Nat) (f : Nat → Nat → α) : List α :=
  ((List.range m).map fun i => (List.range n).map (f i)).flatten

theorem gridList_succ {α : Type} (m n : Nat) (f : Nat → Nat → α) :
    gridList (m + 1) n f = gridList m n f ++ (List.range n).map (f m) := by
  simp [gridList, List.range_succ]

theorem gridList_length {α : Type} (m n : Nat) (f : Nat → Nat → α) : (gridList m n f).length = m * n := by
  simp [gridList, List.length_flatten, Function.comp_def]

theorem gridList_getElem? {α : Type} {m n i v : Nat} (f : Nat → Nat → α) (hi : i < m) (hv : v < n) :
    (gridList m n f)[i * n + v]? = some (f i v) := by
  induction m with
  | zero => omega
  | succ m ih =>
    rw [gridList_succ]
    by_cases h : i = m
    · subst h
      rw [List.getElem?_append_right (by rw [gridList_length]; omega), gridList_length, Nat.add_sub_cancel_left]
      simp [hv]
    · have hrow : (i + 1) * n ≤ m * n := Nat.mul_le_mul_right n (by omega)
      rw [List.getElem?_append_left (by rw [gridList_length]; rw [Nat.succ_mul] at hrow; omega), ih (by omega)]

theorem forall_mem_gridList {α : Type} {m n : Nat} {f : Nat → Nat → α} {P : α → Prop}
    (h : ∀ i v, i < m → v < n → P (f i v)) : ∀ x ∈ gridList m n f, P x := by
  simp only [gridList, List.mem_flatten, List.mem_map, List.mem_range]
  rintro x ⟨_, ⟨i, hi, rfl⟩, hx⟩
  obtain ⟨v, hv, rfl⟩ := List.mem_map.1 hx
  exact h i v hi (List.mem_range.1 hv)

theorem mem_gridList {α : Type} {m n i v : Nat} (f : Nat → Nat → α) (hi : i < m) (hv : v < n) :
    f i v ∈ gridList m n f := List.mem_of_getElem? (gridList_getElem? f hi hv)

theorem mmaValues_eq_gridList (o : ArithOpt) (w : Nat) (c : TCore) :
    mmaValues o w c = gridList (mmaM w) (mmaN w) (mmaValue o w c) := by
  simp only [mmaValues, zipIdx_map_range, List.map_map]
  rfl

/-! ### The running tile (R70) -/

@[simp] theorem State.lostCycles_tcore (s : State) (may : Bool) (k : Nat) :
    (s.lostCycles may).2.tcore k = s.tcore k := by
  cases may <;> rfl

/-- The running tile of a T-core that does not stand still takes effect and leaves its queue. -/
theorem exec_tmma_of_runnable {s : State} {core : Nat} {b r : List Op} {x : Op} (hs : s.standsStill core = false)
    (h : runnable tOpc tQueue tFoot 2 1 (s.tcore core).ops = some (b, x, r)) :
    ∃ t late, exec (.tmma core) s = .next t
      ∧ t.tcore core = { (s.tcore core).mma (s.vEnv core).opt x.word.toNat late with ops := b ++ r } := by
  refine ⟨_, (s.lostCycles ((s.tcore core).mayLose x.word.toNat)).1, rfl, ?_⟩
  simp [State.unlessHeld, hs, h, TCore.runMma]

/-- After a tile multiply an accumulator entry of the tile holds its value. -/
theorem mma_acc {i v : Nat} (c : TCore) (o : ArithOpt) (w late : Nat) (hi : i < mmaM w) (hv : v < mmaN w) :
    Sparse.get 0 (c.mma o w late).acc (mmaAcc w + (i * mmaN w + v)) = BitVec.ofNat 32 (mmaValue o w c i v).1 := by
  have hget := gridList_getElem? (mmaValue o w c) hi hv
  have hlt := (List.getElem?_eq_some_iff.1 hget).1
  simp only [TCore.mma, mmaValues_eq_gridList, Sparse.get_setRange, List.length_map]
  rw [if_pos (by omega), Nat.add_sub_cancel_left, List.getElem?_map, hget]
  rfl

/-- Flags gathered from a list hold what they started from and the flags of every element. -/
theorem getLsbD_foldl_flags {α : Type} (l : List (α × Flags)) (f : Flags) (k : Nat) :
    (l.foldl (fun f x => f ||| x.2) f).getLsbD k = (f.getLsbD k || l.any fun x => x.2.getLsbD k) := by
  induction l generalizing f with
  | nil => simp
  | cons x l ih => simp [ih, Bool.or_assoc]

theorem foldl_flags_of_zero {α : Type} {l : List (α × Flags)} (f : Flags) (h : ∀ x ∈ l, x.2 = 0) :
    l.foldl (fun f x => f ||| x.2) f = f := by
  induction l generalizing f with
  | nil => rfl
  | cons x l ih =>
    obtain ⟨hx, hl⟩ := List.forall_mem_cons.1 h
    rw [List.foldl_cons, hx, show f ||| 0 = f from BitVec.or_zero, ih _ hl]

theorem and_intSat_iff (f : Flags) : f &&& Flags.intSat = Flags.intSat ↔ f.getLsbD 4 = true := by
  revert f; decide

/-! ### Integers as exact values -/

/-- The integer of a sign and a magnitude. -/
def signedInt (s : Bool) (m : Nat) : Int := (if s then -1 else 1) * m

@[simp] theorem signedInt_true (m : Nat) : signedInt true m = -m := by simp [signedInt]
@[simp] theorem signedInt_false (m : Nat) : signedInt false m = m := by simp [signedInt]

theorem signedInt_mul (s t : Bool) (m n : Nat) : signedInt s m * signedInt t n = signedInt (s != t) (m * n) := by
  cases s <;> cases t <;> simp

/-- `x` is the integer `v`, at exponent 0. -/
def Num.IsInt (x : Num) (v : Int) : Prop := ∃ s m, x = .fin s m 0 ∧ signedInt s m = v

theorem Num.IsInt.finite {x : Num} {v : Int} (h : x.IsInt v) : x.Finite := by
  obtain ⟨s, m, rfl, -⟩ := h
  exact ⟨rfl, rfl⟩

theorem isInt_intNum (v : Int) : (intNum v).IsInt v := by
  refine ⟨_, _, rfl, ?_⟩
  by_cases h : v < 0 <;> simp only [h, decide_true, decide_false, signedInt_true, signedInt_false] <;> omega

/-- The product of two integers is exact and sets no flag. -/
theorem isInt_mul (a b : Int) : (Num.mul (intNum a) (intNum b)).1.IsInt (a * b)
    ∧ (Num.mul (intNum a) (intNum b)).2 = 0 := by
  obtain ⟨s, m, hx, ha⟩ := isInt_intNum a
  obtain ⟨t, n, hy, hb⟩ := isInt_intNum b
  rw [hx, hy]
  exact ⟨⟨_, _, rfl, by rw [← signedInt_mul, ha, hb]⟩, rfl⟩

theorem addFin_same_exponent (s t : Bool) (m n : Nat) : addFin s m 0 t n 0 =
    if s = t then .fin s (m + n) 0 else if m = n then .fin false 0 0
    else if n < m then .fin s (m - n) 0 else .fin t (n - m) 0 := by
  simp [addFin, pow2]

theorem isInt_add {x y : Num} {a b : Int} (hx : x.IsInt a) (hy : y.IsInt b) : (Num.add x y).1.IsInt (a + b) := by
  obtain ⟨s, m, rfl, rfl⟩ := hx
  obtain ⟨t, n, rfl, rfl⟩ := hy
  rw [Num.add, addFin_same_exponent]
  by_cases hst : s = t
  · subst hst
    rw [if_pos rfl]
    exact ⟨s, m + n, rfl, by cases s <;> simp; omega⟩
  · obtain rfl : t = !s := Bool.eq_not.2 (Ne.symm hst)
    rw [if_neg hst]
    split_ifs with hmn hlt
    · exact ⟨false, 0, rfl, by cases s <;> simp [hmn]⟩
    · exact ⟨s, m - n, rfl, by cases s <;> simp <;> omega⟩
    · exact ⟨!s, n - m, rfl, by cases s <;> simp <;> omega⟩

/-- An exact sum of integers. -/
theorem isInt_sum {α : Type} (l : List α) (x : α → Num) (v : α → Int) (h : ∀ k ∈ l, (x k).IsInt (v k)) :
    (Num.sum (l.map x)).1.IsInt (l.map v).sum := by
  have fold : ∀ (r : List α) (y : Num) (f : Flags) (a : Int), y.IsInt a → (∀ k ∈ r, (x k).IsInt (v k)) →
      ((r.map x).foldl Num.sumStep (y, f)).1.IsInt (a + (r.map v).sum) := by
    intro r
    induction r with
    | nil => intro y f a hy _; simpa using hy
    | cons k r ih =>
      intro y f a hy hr
      obtain ⟨hk, hr⟩ := List.forall_mem_cons.1 hr
      rw [List.map_cons, List.map_cons, List.sum_cons, ← Int.add_assoc]
      exact ih _ _ _ (isInt_add hy hk) hr
  cases l with
  | nil => exact ⟨false, 0, rfl, rfl⟩
  | cons k r =>
    obtain ⟨hk, hr⟩ := List.forall_mem_cons.1 h
    rw [List.map_cons, List.map_cons, List.sum_cons]
    exact fold r (x k) 0 (v k) hk hr

/-- A group of integer products: its exact sum, and no flag. -/
theorem groupSum_int (a b : Nat → Int) (ks : List Nat) :
    (groupSum (ks.map fun k => intNum (a k)) (ks.map fun k => intNum (b k))).1.IsInt (ks.map fun k => a k * b k).sum
    ∧ (groupSum (ks.map fun k => intNum (a k)) (ks.map fun k => intNum (b k))).2 = 0 := by
  have noNan (f : Nat → Int) : (ks.map fun k => intNum (f k)).any Num.isNan = false := by simp [intNum, Num.isNan]
  have products : List.zipWith Num.mul (ks.map fun k => intNum (a k)) (ks.map fun k => intNum (b k))
      = ks.map fun k => Num.mul (intNum (a k)) (intNum (b k)) := by
    rw [List.zipWith_map, List.zipWith_self]
  have finite : ∀ x ∈ ks.map fun k => (Num.mul (intNum (a k)) (intNum (b k))).1, x.Finite :=
    List.forall_mem_map.2 fun k _ => (isInt_mul _ _).1.finite
  simp only [groupSum, noNan, products, Bool.or_self, Bool.false_eq_true, if_false, List.map_map]
  refine ⟨isInt_sum ks _ _ fun k _ => (isInt_mul _ _).1, ?_⟩
  rw [Function.comp_def, sum_flags_of_finite finite]
  exact foldl_flags_of_zero _ (List.forall_mem_map.2 fun k _ => (isInt_mul _ _).2)

/-! ### INT32 words -/

/-- The low 32 bits of a number and of its reading in two's complement agree. -/
theorem ofInt_sx (v : Nat) : BitVec.ofInt 32 (sx 32 v) = BitVec.ofNat 32 v := by
  apply BitVec.eq_of_toNat_eq
  simp only [BitVec.toNat_ofInt, BitVec.toNat_ofNat, sx]
  split <;> omega

theorem sx_tc {t : Int} (lo : -(2 ^ 31) ≤ t) (hi : t < 2 ^ 31) : sx 32 (tc 32 t) = t := by
  unfold sx tc
  dsimp only
  split_ifs <;> omega

/-! ### Saturating accumulation (R47) -/

/-- One addition to an INT32 accumulator, and whether an addition has saturated so far. -/
def satStep (x : Int × Bool) (g : Int) : Int × Bool :=
  if 2 ^ 31 ≤ x.1 + g then (2 ^ 31 - 1, true) else if x.1 + g < -(2 ^ 31) then (-(2 ^ 31), true) else (x.1 + g, x.2)

/-- An accumulator word and the flags so far stand for an integer and whether an addition has saturated. -/
def SatWord (p : Nat × Flags) (x : Int × Bool) : Prop := sx 32 p.1 = x.1 ∧ p.2 = Flags.when x.2 Flags.intSat

/-- One group added to an entry of the INT8 pair: no scale, and the flags of the group and of the accumulation. -/
def groupStep (o : ArithOpt) (p : Nat × Flags) (g : Num × Flags) : Nat × Flags :=
  ((accumulate o true p.1 g.1).1, p.2 ||| g.2 ||| (accumulate o true p.1 g.1).2)

theorem groupStep_int (o : ArithOpt) {p : Nat × Flags} {x : Int × Bool} {g : Num × Flags} {v : Int} (hp : SatWord p x)
    (hg : g.1.IsInt v) (h0 : g.2 = 0) : SatWord (groupStep o p g) (satStep x v) := by
  obtain ⟨a, f⟩ := p
  obtain ⟨y, sat⟩ := x
  obtain ⟨g, f'⟩ := g
  obtain ⟨hword, hflags⟩ := hp
  obtain ⟨s, m, rfl, rfl⟩ := hg
  dsimp only at hword hflags h0
  subst h0
  have hv : (if s then -1 else 1) * ((m * pow2 0 : Nat) : Int) = signedInt s m := by simp [signedInt, pow2]
  have kept : f ||| 0 = f := BitVec.or_zero
  have stuck : f ||| Flags.intSat = Flags.intSat := by subst hflags; cases sat <;> rfl
  simp only [groupStep, accumulate, if_true, hv, hword, satStep, kept]
  split_ifs with hi lo
  · exact ⟨rfl, stuck⟩
  · exact ⟨rfl, stuck⟩
  · exact ⟨sx_tc (not_lt.1 lo) (not_le.1 hi), kept.trans hflags⟩

/-- Groups that are integers and set no flag are added one after another with saturation. -/
theorem foldl_groupStep_int {α : Type} (o : ArithOpt) (cs : List α) (g : α → Num × Flags) (v : α → Int)
    (hg : ∀ c, (g c).1.IsInt (v c) ∧ (g c).2 = 0) {p : Nat × Flags} {x : Int × Bool} (hp : SatWord p x) :
    SatWord ((cs.map g).foldl (groupStep o) p) ((cs.map v).foldl satStep x) := by
  induction cs generalizing p x with
  | nil => exact hp
  | cons c cs ih => exact ih (groupStep_int o hp (hg c).1 (hg c).2)

/-- Saturation is noted for good: where it is not noted at the end, every addition was exact. -/
theorem foldl_satStep_exact (gs : List Int) (x : Int × Bool) (h : (gs.foldl satStep x).2 = false) :
    x.2 = false ∧ (gs.foldl satStep x).1 = x.1 + gs.sum := by
  induction gs generalizing x with
  | nil => exact ⟨h, by simp⟩
  | cons g gs ih =>
    obtain ⟨hx, hsum⟩ := ih (satStep x g) h
    have noSat : satStep x g = (x.1 + g, x.2) := by
      unfold satStep at hx ⊢
      split_ifs at hx ⊢
      rfl
    rw [noSat] at hx hsum
    exact ⟨hx, by rw [List.foldl_cons, noSat, hsum, List.sum_cons, Int.add_assoc]⟩

/-- The groups of a tile entry, added one after another with saturation. -/
def satEntry (product : Nat → Int) (start : Int) (ks : List Nat) : Int × Bool :=
  ((chunks 4 (ks.map product)).map List.sum).foldl satStep (start, false)

/-- Without saturation the order of the products does not matter. -/
theorem satEntry_exact {product : Nat → Int} {start : Int} {ks ks' : List Nat}
    (h : (satEntry product start ks).2 = false) (hp : ks'.Perm ks) :
    (satEntry product start ks).1 = start + (ks'.map product).sum := by
  rw [satEntry, (foldl_satStep_exact _ _ h).2, sum_map_sum_chunks (by decide), (hp.map product).sum_eq]

/-! ### A tile of the INT8 pair -/

section
variable {w : Nat} (h6 : mmaPair w = 6)
include h6

theorem mmaP_int8 : mmaP w = ⟨8, 1, 4, false, 4⟩ := by simp [mmaP, h6, pairOf]

/-- An entry of the INT8 pair holds what its groups give in saturating addition, and INT_SAT if one saturated. -/
theorem mmaEntry_int8 (o : ArithOpt) (start : Nat) (a b : Nat → Int) (ks : List Nat) (ws as : List Nat) (t2 : Nat) :
    SatWord (mmaEntry o w start (ks.map fun k => intNum (a k)) (ks.map fun k => intNum (b k)) ws as t2)
      (satEntry (fun k => a k * b k) (sx 32 start) ks) := by
  have hscale (g : Nat) : groupScale w ws as t2 g = .fin false 1 0 := by simp [groupScale, mmaP_int8 h6, h6]
  have steps : mmaEntry o w start (ks.map fun k => intNum (a k)) (ks.map fun k => intNum (b k)) ws as t2
      = ((chunks 4 ks).map fun c => groupSum (c.map fun k => intNum (a k)) (c.map fun k => intNum (b k))).foldl
          (groupStep o) (start, 0) := by
    simp only [mmaEntry, mmaP_int8 h6, chunks_map, List.zipWith_map, List.zipWith_self, hscale]
    rw [← foldl_zipIdx_fst (groupStep o)]
    simp [groupStep, h6, Num.isNan]
  rw [steps, satEntry, chunks_map, List.map_map]
  exact foldl_groupStep_int o _ _ _ (fun c => groupSum_int a b c) ⟨rfl, rfl⟩

/-- The elements of an input row are bytes of SRAM (R74). -/
theorem mmaRow_int8 (o : ArithOpt) (sram : Memory) (r : Nat) : mmaRow o w sram r =
    (List.range (mmaK w)).map fun k => intNum (sx 8 (sram.byte (mmaInp w + r * mmaK w + k)).toNat) := by
  simp only [mmaRow, mmaP_int8 h6, Nat.mul_one, unpack_read_bytes, List.map_map, h6]
  rfl

/-- The elements of a weight column are bytes of SRAM (R74). -/
theorem mmaCol_int8 (o : ArithOpt) (sram : Memory) (v : Nat) :
    (mmaColCodes w sram v).map (mmaElem o (mmaPair w) true (bit w 8)) =
    (List.range (mmaK w)).map fun k => intNum (sx 8 (sram.byte (mmaWgt w + v * mmaK w + k)).toNat) := by
  have bytes : mmaColBytes w = mmaK w := by simp only [mmaColBytes, mmaP_int8 h6, ceilDiv]; omega
  simp only [mmaColCodes, mmaP_int8 h6, bytes, unpack_read_bytes, List.map_map, h6]
  rfl

/-- The product along k at place k of entry (i, v). -/
def int8Product (w : Nat) (sram : Memory) (i v k : Nat) : Int :=
  sx 8 (sram.byte (mmaInp w + i * mmaK w + k)).toNat * sx 8 (sram.byte (mmaWgt w + v * mmaK w + k)).toNat

/-- Entry (i, v) as R47 gives it. -/
def int8Entry (w : Nat) (c : TCore) (i v : Nat) : Int × Bool :=
  satEntry (int8Product w c.sram i v) (sx 32 (nth 0 (mmaStart w c) (i * mmaN w + v))) (List.range (mmaK w))

theorem mmaValue_int8 (o : ArithOpt) (c : TCore) (i v : Nat) : SatWord (mmaValue o w c i v) (int8Entry w c i v) := by
  have flags (ws as codes : List Nat) (t2 : Nat) : mmaReadFlags w ws as t2 codes = 0 := by
    simp [mmaReadFlags, mmaP_int8 h6, h6, Flags.when]
  have value : mmaValue o w c i v = mmaEntry o w (nth 0 (mmaStart w c) (i * mmaN w + v)) (mmaRow o w c.sram i)
      ((mmaColCodes w c.sram v).map (mmaElem o (mmaPair w) true (bit w 8))) [] [] 0 := by
    simp [mmaValue, flags, mmaP_int8 h6, h6]
  rw [value, mmaRow_int8 h6, mmaCol_int8 h6]
  exact mmaEntry_int8 h6 o _ _ _ _ _ _ _

/-- The word of an entry after the tile multiply, and the flags that its additions leave. -/
theorem mma_int8 (o : ArithOpt) (c : TCore) (late : Nat) :
    (∀ i v, i < mmaM w → v < mmaN w →
      Sparse.get 0 (c.mma o w late).acc (mmaAcc w + (i * mmaN w + v)) = BitVec.ofInt 32 (int8Entry w c i v).1
      ∧ ((int8Entry w c i v).2 = true → (c.mma o w late).status &&& Flags.intSat = Flags.intSat))
    ∧ ((∀ i v, i < mmaM w → v < mmaN w → (int8Entry w c i v).2 = false) → (c.mma o w late).status = c.status) := by
  have status : (c.mma o w late).status
      = (gridList (mmaM w) (mmaN w) (mmaValue o w c)).foldl (fun f x => f ||| x.2) c.status := by
    rw [← mmaValues_eq_gridList]; rfl
  refine ⟨fun i v hi hv => ?_, fun h => ?_⟩
  · obtain ⟨word, flags⟩ := mmaValue_int8 h6 o c i v
    refine ⟨by rw [mma_acc c o w late hi hv, ← word, ofInt_sx], fun hsat => ?_⟩
    rw [hsat] at flags
    have noted : ((gridList (mmaM w) (mmaN w) (mmaValue o w c)).any fun x => x.2.getLsbD 4) = true :=
      List.any_eq_true.2 ⟨_, mem_gridList _ hi hv, by rw [flags]; rfl⟩
    rw [and_intSat_iff, status, getLsbD_foldl_flags, noted, Bool.or_true]
  · rw [status]
    refine foldl_flags_of_zero _ (forall_mem_gridList fun i v hi hv => ?_)
    obtain ⟨-, flags⟩ := mmaValue_int8 h6 o c i v
    rw [flags, h i v hi hv]
    rfl

end

/-- Settles O30: the tile's entries run the saturating additions of `satStep`, which are exact where none saturates. -/
theorem int32AccumulationSaturates : Obligations.Int32AccumulationSaturates := by
  unfold Obligations.Int32AccumulationSaturates
  intro s core b r x hs hrun w c product add start entry h6
  obtain ⟨t, late, hexec, htcore⟩ := exec_tmma_of_runnable hs hrun
  refine ⟨⟨t, hexec, ?_⟩, fun i v hexact ks hks => satEntry_exact hexact hks⟩
  beta_reduce
  rw [htcore]
  exact mma_int8 h6 (s.vEnv core).opt c late

end Sys2Proof.Machine
end

section
/-! SUPPORT. What a running operation of a compute queue leaves in its own V-core and in the others, and the lanes that a
VSHUF moves (R95). -/

namespace Sys2Proof.Machine

/-! ### The V-cores after a running operation (R89) -/

@[simp] theorem State.lostCycles_vcore (s : State) (may : Bool) (k : Nat) :
    (s.lostCycles may).2.vcore k = s.vcore k := by
  cases may <;> rfl

/-- Spoiled entries stand in the cluster, not in a core (R170). -/
@[simp] theorem State.spoil_vcore (s : State) (core k : Nat) (writes : List Rng) :
    (s.spoil core writes).vcore k = s.vcore k := by
  unfold State.spoil
  dsimp only
  split_ifs <;> simp

/-- Steps that each leave a V-core alone leave it alone together. -/
theorem State.each_vcore {α : Type} {g : State → α → State} {k : Nat} (h : ∀ u x, (g u x).vcore k = u.vcore k)
    (l : List α) (s : State) : (s.each l g).vcore k = s.vcore k := by
  induction l generalizing s with
  | nil => rfl
  | cons x l ih => exact (ih (g s x)).trans (h s x)

/-- Undefined bytes of the inbound ring stand in its own core alone (R169). -/
theorem State.ringBlur_vcore_of_ne {core k : Nat} (s : State) (reads : List Rng) (hk : k ≠ core) :
    (s.ringBlur core reads).vcore k = s.vcore k := by
  unfold State.ringBlur
  split_ifs
  · rfl
  · refine State.each_vcore (fun u i => ?_) _ s
    rw [State.onVcore_vcore, if_neg hk.symm]
    rfl

/-- An operation that always completes: its core after it, and the other cores. -/
theorem State.vOp_vcore {s : State} {core opc : Nat} (g : VCore → VEnv → Nat → VCore) {b r : List Op} {o : Op}
    (hs : s.standsStill core = false)
    (h : runnable vOpc vQueue vFoot opc 0 (s.vcore core).ops = some (b, o, r)) :
    (∃ e lost, (s.vOp core opc g).vcore core
        = ((s.ringBlur core ((s.vcore core).readsOf b o)).vcore core).after e b r o (fun c e w => (g c e w, none)) lost)
      ∧ ∀ k, k ≠ core → (s.vOp core opc g).vcore k = s.vcore k := by
  have run : s.vOp core opc g = s.vRun core opc (fun c e w => (g c e w, none)) fun _ _ => 0 := by
    rw [State.vOp, State.unlessHeld, hs]; rfl
  simp only [run, State.vRun, h, State.spoil_vcore, State.setVcore_vcore, State.lostCycles_vcore, if_true]
  refine ⟨⟨_, _, rfl⟩, fun k hk => ?_⟩
  rw [if_neg hk.symm, State.ringBlur_vcore_of_ne s _ hk]

section
variable (c : VCore) (e : VEnv) (b r : List Op) (o : Op) (f : VCore → VEnv → Nat → VCore × Option (Status × Nat))
  (lost : Nat)

@[simp] theorem VCore.after_ops : (c.after e b r o f lost).ops = b ++ r := rfl

@[simp] theorem VCore.after_status : (c.after e b r o f lost).status = (f c e o.word.toNat).1.status := rfl

/-- Where no beat of the mini-mesh has come over the destination, the bytes are those of the operation (R91). -/
theorem VCore.after_sram (ho : o.covered = []) : (c.after e b r o f lost).sram = (f c e o.word.toNat).1.sram := by
  simp only [VCore.after, Op.cover, ho]
  rfl

end

/-! ### VSHUF (R95) -/

/-- The formats of 16-bit and of 32-bit elements: the bytes of a stream. -/
theorem fmtBytes_of_words {f : Nat} (n : Nat) (h : f = 0 ∨ f = 1 ∨ f = 2 ∨ f = 8) :
    fmtBytes f n = n * (if f = 1 ∨ f = 2 then 2 else 4) := by
  obtain rfl | rfl | rfl | rfl := h <;> simp [fmtBytes, fmtBits, ceilDiv] <;> omega

/-- The place in the stream of the byte that a VSHUF moves to place i: the same byte of the lane that EOFF names, in the
same vector. -/
def shufPlace (w i : Nat) : Nat := i / 32 * 32 + bits (vEoff w) (3 * (i % 32 / 4)) 3 * 4 + i % 4

/-- Byte i of lane l of vector v comes from byte i of the lane that the three bits at 3l name. -/
theorem shufPlace_lane {l i : Nat} (w v : Nat) (hl : l < 8) (hi : i < 4) :
    shufPlace w (32 * v + 4 * l + i) = 32 * v + 4 * (vEoff w / 2 ^ (3 * l) % 8) + i := by
  have vector : (32 * v + 4 * l + i) / 32 = v := by omega
  have lane : (32 * v + 4 * l + i) % 32 / 4 = l := by omega
  have byte : (32 * v + 4 * l + i) % 4 = i := by omega
  simp only [shufPlace, vector, lane, byte, bits, show 2 ^ 3 = 8 from rfl]
  omega

section
variable (c : VCore) (e : VEnv) (w : Nat)

theorem vshufOp_status : (vshufOp c e w).status = c.status := BitVec.or_zero

/-- A byte of the destination whose lane lies in the stream is the byte of the source at its place. -/
theorem vshufOp_byte {i : Nat} (hi : i < fmtBytes (vFmtA w) (vCount w))
    (hj : shufPlace w i < fmtBytes (vFmtA w) (vCount w)) :
    (vshufOp c e w).sram.byte (vDst w + i) = c.sram.byte (vSrcA w + shufPlace w i) := by
  have source : (c.sram.read (vSrcA w) (fmtBytes (vFmtA w) (vCount w)))[shufPlace w i]?
      = some (c.sram.byte (vSrcA w + shufPlace w i)) := by
    simp [Memory.read_eq, hj]
  unfold shufPlace at source ⊢
  simp only [vshufOp, VCore.put]
  rw [Memory.byte_write, if_pos (by simpa using hi)]
  simp [hi, source]

theorem vshufOp_byte_outside {a : Nat} (ha : a < vDst w ∨ vDst w + fmtBytes (vFmtA w) (vCount w) ≤ a) :
    (vshufOp c e w).sram.byte a = c.sram.byte a :=
  Memory.byte_write_outside _ _ _ _ (by simpa using ha)

end

/-- Settles O59: the running VSHUF writes at each place the byte of the place that `shufPlace` gives. -/
theorem shuffleMovesLanes : Obligations.ShuffleMovesLanes := by
  unfold Obligations.ShuffleMovesLanes
  intro s core b r o hrun hs ho w c bytes hfmt
  have stream : fmtBytes (vFmtA w) (vCount w) = bytes := fmtBytes_of_words _ hfmt
  obtain ⟨⟨e, lost, own⟩, others⟩ := State.vOp_vcore vshufOp hs hrun
  have sram : ((s.vOp core 0x33 vshufOp).vcore core).sram = (vshufOp c e w).sram := by
    rw [own, VCore.after_sram _ _ _ _ _ _ _ ho]
  refine ⟨s.vOp core 0x33 vshufOp, rfl, fun v l i hl hi => ?_, fun a ha => ?_, ?_, ?_, others⟩
  · intro lane hout hin
    rw [← stream] at hout hin
    have place := shufPlace_lane w v hl hi
    have moved := vshufOp_byte c e w hout (by rw [place]; exact hin)
    rw [place] at moved
    simpa only [sram, Nat.add_assoc] using moved
  · rw [sram]
    exact vshufOp_byte_outside c e w (by rwa [stream])
  · rw [own, VCore.after_status]
    exact vshufOp_status c e w
  · rw [own, VCore.after_ops]

end Sys2Proof.Machine
end

section
/-! SUPPORT. What leaves the energy ledger alone: sending records and events, every access to device memory, and the end
of a polder's job. -/

namespace Sys2Proof.Machine

/-! ### Folds over steps that keep a part of the state -/

section
variable {β : Type} {F : State → β}

/-- Steps that each keep a part of the state keep it together. -/
theorem State.each_keeps {α : Type} {g : State → α → State} (h : ∀ u x, F (g u x) = F u) (l : List α) (s : State) :
    F (s.each l g) = F s := by
  induction l generalizing s with
  | nil => rfl
  | cons x l ih => exact (ih (g s x)).trans (h s x)

/-- What two outcomes keep, the chosen one keeps. -/
theorem ite_fst_keeps {γ : Type} {p : Prop} [Decidable p] {x y : State × γ} {b : β} (hx : F x.1 = b) (hy : F y.1 = b) :
    F (if p then x else y).1 = b := by
  split
  · exact hx
  · exact hy

/-- An access in pieces keeps what each of its pieces keeps. -/
theorem pieces_keeps {unit : Nat} {one : State → Nat → Access → List SymErr → State × Got}
    (h : ∀ u a acc fl, F (one u a acc fl).1 = F u) (n : Nat) (s : State) (a : Nat) (acc : Access) (fl : List SymErr) :
    F (pieces unit one n s a acc fl).1 = F s := by
  induction n generalizing s a acc fl with
  | zero => rfl
  | succ n ih =>
    unfold pieces
    dsimp only
    split
    · exact (ih _ _ _ _).trans (h _ _ _ _)
    · exact h _ _ _ _

end

/-! ### Taking and answering a message (R326-R330) -/

theorem State.OnlySends.ledger_eq {s t : State} (h : s.OnlySends t) : t.ledger = s.ledger := by
  unfold State.OnlySends at h
  rw [h]

section
variable (s : State)

@[simp] theorem State.event_ledger (p r0 r1 code : Nat) : (s.event p r0 r1 code).ledger = s.ledger :=
  (event_only s p r0 r1 code).1.ledger_eq

@[simp] theorem State.complete_ledger (f tag opc : Nat) (notify : Bool) (a : Answer) :
    (s.complete f tag opc notify a).ledger = s.ledger := (sendsTo_complete s tag opc notify a).1.ledger_eq

@[simp] theorem State.answer_ledger (c : Cmd) (a : Answer) : (s.answer c a).ledger = s.ledger :=
  s.complete_ledger _ _ _ _ a

@[simp] theorem State.addLog_ledger (a b c d e g : Nat) : (s.addLog a b c d e g).ledger = s.ledger := rfl

end

section
variable {s u : State} {f : Nat} {mine : Nat → Nat → Bool} {c : Cmd}

/-- Taking a message changes its function's inbox alone. -/
theorem State.Takes.ledger_eq (h : s.Takes f mine c u) : u.ledger = s.ledger := by
  obtain ⟨_, _, _, _, _, _, _, rfl, _⟩ := h
  rfl

theorem State.Takes.polder_eq (h : s.Takes f mine c u) (k : Nat) : u.polder k = s.polder k := by
  obtain ⟨_, _, _, _, _, _, _, rfl, _⟩ := h
  rfl

end

/-! ### Accesses to device memory (R176-R224) -/

section
variable (s : State)

@[simp] theorem State.corrected_ledger (source core word : Nat) (e : Errs) :
    (s.corrected source core word e).ledger = s.ledger := by
  refine State.each_keeps (fun u sym => ?_) _ _
  split <;> simp

@[simp] theorem State.ucmCount_ledger (core : Nat) (b : By) : (s.ucmCount core b).ledger = s.ledger := by
  unfold State.ucmCount
  split <;> rfl

@[simp] theorem State.ucmRead_ledger (core w source : Nat) (flips : List SymErr) (b : By) :
    (s.ucmRead core w source flips b).1.ledger = s.ledger := by
  unfold State.ucmRead
  dsimp only
  split
  · simp
  · split
    · simp
    · split <;> simp

@[simp] theorem State.ucmWrite_ledger (core w : Nat) (l : List Byte) : (s.ucmWrite core w l).ledger = s.ledger := rfl

@[simp] theorem State.mergeRetire_ledger (core w : Nat) (flips : List SymErr) :
    (s.mergeRetire core w flips).ledger = s.ledger := by
  unfold State.mergeRetire
  dsimp only
  split
  · rfl
  · split
    · rfl
    · split <;> simp

@[simp] theorem State.mergeWrite_ledger (core w o : Nat) (l : List Byte) (func : Nat) :
    (s.mergeWrite core w o l func).ledger = s.ledger := by
  unfold State.mergeWrite
  generalize Sparse.get [] s.merges core = es
  cases es with
  | nil => dsimp only; split_ifs <;> simp
  | cons m r => dsimp only; split_ifs <;> simp

@[simp] theorem State.portTaken_ledger (core : Nat) : (s.portTaken core).ledger = s.ledger := by
  unfold State.portTaken
  split_ifs <;> rfl

@[simp] theorem State.retireFirst_ledger (core w : Nat) (flips : List SymErr) :
    (s.retireFirst core w flips).ledger = s.ledger := by
  unfold State.retireFirst
  split <;> simp

@[simp] theorem State.narrowWrite_ledger (core w o : Nat) (l : List Byte) (func : Nat) :
    (s.narrowWrite core w o l func).ledger = s.ledger := by
  unfold State.narrowWrite
  dsimp only
  split_ifs <;> simp

@[simp] theorem State.aperturePiece_ledger (who : Requester) (a : Nat) (acc : Access) (flips : List SymErr) :
    (s.aperturePiece who a acc flips).1.ledger = s.ledger := by
  unfold State.aperturePiece State.ucmTouch
  dsimp only
  split_ifs
  · rfl
  · rfl
  · cases acc with
    | read n => simp
    | write l => dsimp only; split <;> simp

@[simp] theorem State.aperture_ledger (who : Requester) (a : Nat) (acc : Access) (flips : List SymErr) :
    (s.aperture who a acc flips).1.ledger = s.ledger := by
  unfold State.aperture
  exact pieces_keeps (fun u a acc fl => u.aperturePiece_ledger who a acc fl) _ _ _ _ _

@[simp] theorem State.burstRead_ledger (ch off : Nat) (flips : List SymErr) (b : By) :
    (s.burstRead ch off flips b).1.ledger = s.ledger := by
  unfold State.burstRead
  dsimp only
  split
  · rfl
  · split <;> rfl

@[simp] theorem State.burstWrite_ledger (ch off : Nat) (l : List Byte) (b : By) :
    (s.burstWrite ch off l b).ledger = s.ledger := rfl

@[simp] theorem State.chWrite_ledger (ch : Nat) (b : By) (fuel off : Nat) (l : List Byte) :
    (s.chWrite ch b fuel off l).1.ledger = s.ledger := by
  induction fuel generalizing s off l with
  | zero => rfl
  | succ n ih =>
    unfold State.chWrite
    dsimp only
    split_ifs <;> simp [ih]

@[simp] theorem State.writeBack_ledger (set : Nat) (x : Line) (b : By) : (s.writeBack set x b).ledger = s.ledger := by
  unfold State.writeBack
  split_ifs <;> rfl

@[simp] theorem State.allocate_ledger (ch l : Nat) (data : List Byte) (dirty : Bool) (who : By) :
    (s.allocate ch l data dirty who).ledger = s.ledger := by
  unfold State.allocate
  dsimp only
  split
  · rfl
  · split <;> simp

@[simp] theorem State.fetchLine_ledger (ch l : Nat) (flips : List SymErr) (second : Bool) (b : By) :
    (s.fetchLine ch l flips second b).1.ledger = s.ledger := by
  refine ite_fst_keeps ?_ ?_ <;> simp

@[simp] theorem State.lookup_ledger (ch l : Nat) (flips : List SymErr) (b : By) :
    (s.lookup ch l flips b).1.ledger = s.ledger := by
  unfold State.lookup
  dsimp only
  split
  · rfl
  · split
    · rfl
    · split_ifs <;> rfl

@[simp] theorem State.basinCount_ledger (ch : Nat) (hit : Bool) : (s.basinCount ch hit).ledger = s.ledger := rfl

@[simp] theorem State.edgeLog_ledger (kind addr ch : Nat) (b : By) : (s.edgeLog kind addr ch b).ledger = s.ledger := rfl

@[simp] theorem State.lineRead_ledger (ch off n : Nat) (noalloc : Bool) (flips : List SymErr) (b : By) :
    (s.lineRead ch off n noalloc flips b).1.ledger = s.ledger := by
  unfold State.lineRead
  dsimp only
  split
  · split <;> simp
  · split_ifs <;> simp

@[simp] theorem State.lineWrite_ledger (ch off : Nat) (l : List Byte) (who : By) :
    (s.lineWrite ch off l who).1.ledger = s.ledger := by
  unfold State.lineWrite
  dsimp only
  split
  · split <;> simp
  · split_ifs <;> simp

@[simp] theorem State.serve_ledger (ch off : Nat) (acc : Access) (noalloc : Bool) (flips : List SymErr) (b : By) :
    (s.serve ch off acc noalloc flips b).1.ledger = s.ledger := by
  refine pieces_keeps (fun u o acc fl => ?_) _ _ _ _ _
  cases acc with
  | read n => simp
  | write l => simp

@[simp] theorem State.edgePiece_ledger (q : Req) (a : Nat) (acc : Access) (flips : List SymErr) :
    (s.edgePiece q a acc flips).1.ledger = s.ledger := by
  unfold State.edgePiece
  split
  · rfl
  · refine ite_fst_keeps rfl (ite_fst_keeps rfl (ite_fst_keeps rfl (ite_fst_keeps ?_ ?_)))
    · refine ite_fst_keeps ?_ ?_
      · cases q.who <;> rfl
      · cases q.who <;> rfl
    · simp

@[simp] theorem State.scratchPiece_ledger (b : By) (a : Nat) (acc : Access) (flips : List SymErr) :
    (s.scratchPiece b a acc flips).1.ledger = s.ledger := by
  unfold State.scratchPiece
  refine ite_fst_keeps rfl (ite_fst_keeps rfl ?_)
  cases acc with
  | read n => exact ite_fst_keeps rfl rfl
  | write l => rfl

/-- No access to device memory changes the ledger. -/
@[simp] theorem State.access_ledger (q : Req) (a : Nat) (acc : Access) (flips : List SymErr) :
    (s.access q a acc flips).1.ledger = s.ledger := by
  unfold State.access
  refine pieces_keeps (fun u a acc fl => ?_) _ _ _ _ _
  refine ite_fst_keeps rfl (ite_fst_keeps ?_ (ite_fst_keeps ?_ (ite_fst_keeps ?_ rfl)))
  · exact u.edgePiece_ledger q a acc fl
  · exact pieces_keeps (one := State.scratchPiece (u.by_ q.who)) (fun v a acc fl => v.scratchPiece_ledger _ a acc fl)
      _ _ _ _ _
  · exact u.aperture_ledger q.who a acc fl

/-! ### The end of a polder's job (R338, R340) -/

@[simp] theorem State.writeOut_ledger (f out : Nat) (l : List Byte) : (s.writeOut f out l).1.ledger = s.ledger := by
  unfold State.writeOut
  refine ite_fst_keeps rfl (ite_fst_keeps (ite_fst_keeps rfl (ite_fst_keeps ?_ rfl)) ?_)
  · refine pieces_keeps (fun u a acc fl => ?_) _ _ _ _ _
    exact ite_fst_keeps (u.access_ledger _ a acc fl) (u.access_ledger _ a acc fl)
  · split
    · next h => exact (sendsTo_hostWrite h).1.ledger_eq
    · rfl

@[simp] theorem State.countCycles_ledger (p : Nat) : (s.countCycles p).ledger = s.ledger :=
  State.each_keeps (F := State.ledger) (g := fun u cl => u.onCluster cl fun c =>
    { c with cyc := (c.cyc + (s.polder p).cycle) % 2 ^ 64 }) (fun _ _ => rfl) _ s

@[simp] theorem State.endSave_ledger (p : Nat) : (s.endSave p).ledger = s.ledger := by
  unfold State.endSave State.endCommand
  split
  · split <;> simp
  · rfl

@[simp] theorem State.finishJob_ledger (p : Nat) (st : Status) (extra : Nat) :
    (s.finishJob p st extra).ledger = s.ledger := by
  unfold State.finishJob
  dsimp only
  split
  · rfl
  · split_ifs <;> simp

@[simp] theorem State.boardOrder_ledger (n kind : Nat) : (s.boardOrder n kind).ledger = s.ledger := by
  refine State.each_keeps (fun u d => ?_) _ s
  unfold State.boardSend
  split <;> rfl

@[simp] theorem State.closeSluices_ledger (p : Nat) : (s.closeSluices p).ledger = s.ledger :=
  State.each_keeps (F := State.ledger) (g := fun u cl => u.onCluster cl Cluster.close) (fun _ _ => rfl) _ s

@[simp] theorem State.clearDikes_ledger (p : Polder) : (s.clearDikes p).ledger = s.ledger :=
  State.each_keeps (F := State.ledger) (g := fun u h => u.onHalfDie h _) (fun _ _ => rfl) _ s

end

end Sys2Proof.Machine
end

section
/-! SUPPORT. A polder's energy quota (R353): its command, the step that it takes off and gives back, and its end. -/

namespace Sys2Proof.Machine

/-! ### The quota loop (R353, R364) -/

section
variable (s : State)

@[simp] theorem State.askRails_polder (rs : List Nat) (r : VoltReq) (k : Nat) : (s.askRails rs r).polder k = s.polder k :=
  State.each_keeps (F := fun u => u.polder k) (g := fun u n => u.onRail n _) (fun _ _ => rfl) rs s

@[simp] theorem State.countUp_polder (c k : Nat) : (s.countUp c).polder k = s.polder k := rfl

@[simp] theorem State.freezeSteps_polder (k : Nat) : s.freezeSteps.polder k = s.polder k := rfl

/-- Commanding a step changes no other polder. -/
theorem State.restep_polder_of_ne {n k : Nat} (hk : k ≠ n) : (s.restep n).polder k = s.polder k := by
  unfold State.restep
  dsimp only
  split <;> simp [hk.symm]

/-- What the quota takes off stays off when the step is commanded. -/
@[simp] theorem State.restep_quotaDown (n k : Nat) : ((s.restep n).polder k).quotaDown = (s.polder k).quotaDown := by
  by_cases hk : k = n
  · subst hk
    unfold State.restep
    dsimp only
    split <;> simp
  · rw [s.restep_polder_of_ne hk]

/-- A new count of steps for a polder's quota, and the step commanded for it. -/
def State.quotaStep (p d : Nat) : State := (s.onPolder p fun x => { x with quotaDown := d }).restep p

@[simp] theorem State.quotaStep_quotaDown (p d : Nat) : ((s.quotaStep p d).polder p).quotaDown = d := by
  simp [State.quotaStep]

theorem State.quotaStep_polder_of_ne {p k : Nat} (d : Nat) (hk : k ≠ p) : (s.quotaStep p d).polder k = s.polder k := by
  simp [State.quotaStep, State.restep_polder_of_ne _ hk, hk.symm]

end

section
variable {s : State} {p : Nat} (hq : Sparse.get 0 s.ledger.quotas p ≠ 0) (hrun : (s.polder p).state = .running)
  (hfw : s.trust.running = true)
include hq hrun hfw

theorem execQuota_of_over (he : Sparse.get 0 s.ledger.quotas p * 1000000000000 < sumOf (s.meter (mPolder p)).coarse)
    (hlo : max 0 s.ledger.stepBounds.lo < ((s.polder p).want : Int)) :
    execQuota p s = .next ((s.quotaStep p ((s.polder p).quotaDown + 1)).countUp cQuota) := by
  simp [execQuota, State.quotaStep, State.onPolder, hq, hrun, hfw, he, Int.not_le.2 hlo]

theorem execQuota_of_under
    (he : 100 * sumOf (s.meter (mPolder p)).coarse < 95 * (Sparse.get 0 s.ledger.quotas p * 1000000000000))
    (hd : 0 < (s.polder p).quotaDown) :
    execQuota p s = .next (s.quotaStep p ((s.polder p).quotaDown - 1)).freezeSteps := by
  have below : ¬Sparse.get 0 s.ledger.quotas p * 1000000000000 < sumOf (s.meter (mPolder p)).coarse := by omega
  simp [execQuota, State.quotaStep, State.onPolder, hq, hrun, hfw, below, he, hd]

end

/-! ### QUOTA_SET (R333, R353) -/

/-- A polder's quota, written in the ledger. -/
def State.setQuota (s : State) (n q : Nat) : State :=
  { s with ledger := { s.ledger with quotas := Sparse.set 0 s.ledger.quotas n q } }

section
variable {s u : State} {f : Nat} {c : Cmd} (h : s.TakesOp f 0x41 c u)
include h

theorem execQuotaSet_of_polderFail {st : Status} (hp : u.polderFail (bits (c.a 1) 0 5) false = some st) :
    execQuotaSet f s = .next (u.refuse c st) := by
  simp [execQuotaSet, command_of_takesOp _ h, hp]

variable (hp : u.polderFail (bits (c.a 1) 0 5) false = none)
include hp

theorem execQuotaSet_of_bound (hon : bit (c.a 1) 8 = true) (hq : c.a 2 = 0 ∨ 60000 < c.a 2) :
    execQuotaSet f s = .next (u.refuse c .bound) := by
  simp [execQuotaSet, command_of_takesOp _ h, hp, firstFail, hon, hq]

theorem execQuotaSet_of_clear (hon : bit (c.a 1) 8 = false) (hq : c.a 2 ≠ 0) :
    execQuotaSet f s = .next (u.refuse c .formatUnsupported) := by
  simp [execQuotaSet, command_of_takesOp _ h, hp, firstFail, hon, hq]

theorem execQuotaSet_of_accepted
    (hq : bit (c.a 1) 8 = true ∧ 0 < c.a 2 ∧ c.a 2 ≤ 60000 ∨ bit (c.a 1) 8 = false ∧ c.a 2 = 0) :
    execQuotaSet f s = .next ((u.setQuota (bits (c.a 1) 0 5) (c.a 2)).answer c { polder := bits (c.a 1) 0 5 }) := by
  obtain ⟨hon, hlo, hhi⟩ | ⟨hon, hz⟩ := hq
  · simp [execQuotaSet, command_of_takesOp _ h, hp, firstFail, State.setQuota, hon, Nat.ne_of_gt hlo, Nat.not_lt.2 hhi]
  · simp [execQuotaSet, command_of_takesOp _ h, hp, firstFail, State.setQuota, hon, hz]

end

/-! ### POLDER_DESTROY (R162, R353) -/

/-- Destroying a polder that is not RUNNING writes one entry of the quotas, its own. -/
theorem execPolderDestroy_quotas {s u : State} {f : Nat} {c : Cmd} (h : s.TakesOp f 0x11 c u)
    (hp : u.polderFail (c.a 1) true = none) (hrun : (s.polder (c.a 1)).state ≠ .running) :
    ∃ t, execPolderDestroy f s = .next t ∧ t.ledger.quotas = Sparse.set 0 s.ledger.quotas (c.a 1) 0 := by
  rw [← h.polder_eq] at hrun
  refine ⟨_, rfl, ?_⟩
  simp [command_of_takesOp _ h, hp, hrun, h.ledger_eq]

/-! ### The obligation -/

/-- Settles O50: the command writes one entry of the quotas, the loop takes off or gives back one step of its polder, and
destroying the polder writes its entry to 0. -/
theorem quotaIsSetHeldAndEnds : Obligations.QuotaIsSetHeldAndEnds := by
  unfold Obligations.QuotaIsSetHeldAndEnds
  intro s u f c
  refine ⟨fun h => ⟨fun st hp => execQuotaSet_of_polderFail h hp, fun hp => ⟨fun hq => ?_, ?_, ?_⟩⟩,
    fun p _ hq hrun hfw => ⟨fun he hlo => ?_, fun he hd => ?_⟩, fun h hp hrun => ?_⟩
  · refine ⟨_, execQuotaSet_of_accepted h hp hq, by simp [State.setQuota], fun k hk => ?_, ?_⟩
    · simp [State.setQuota, h.ledger_eq, hk.symm]
    · rw [← h.ledger_eq]
      rfl
  · exact execQuotaSet_of_bound h hp
  · exact execQuotaSet_of_clear h hp
  · exact ⟨_, execQuota_of_over hq hrun hfw he hlo, by simp, fun k hk => by simp [s.quotaStep_polder_of_ne _ hk]⟩
  · exact ⟨_, execQuota_of_under hq hrun hfw he hd, by simp, fun k hk => by simp [s.quotaStep_polder_of_ne _ hk]⟩
  · obtain ⟨t, ht, quotas⟩ := execPolderDestroy_quotas h hp hrun
    refine ⟨t, ht, by simp [quotas], fun k hk => ?_⟩
    simp [quotas, hk.symm]

end Sys2Proof.Machine
end

section
/-! SUPPORT. What leaves the thermal state alone: sending, accesses to device memory, the end of jobs, channels and links,
and every step of a bring-up up to COOLANT_HOLD. -/

namespace Sys2Proof.Machine

/-! ### Folds, branches and pieces that keep the thermal state -/

section
variable (s : State)

@[simp] theorem State.each_thermal {α : Type} {g : State → α → State} (h : ∀ u x, (g u x).thermal = u.thermal)
    (l : List α) : (s.each l g).thermal = s.thermal := State.each_keeps h l s

section
variable {α : Type} (l : List α) (n : α → Nat)

@[simp] theorem State.each_onCluster_thermal (g : State → α → Cluster → Cluster) :
    (s.each l fun u x => u.onCluster (n x) (g u x)).thermal = s.thermal :=
    s.each_thermal (fun u x => u.onCluster_thermal (n x) (g u x)) l

@[simp] theorem State.each_onHalfDie_thermal (g : State → α → HalfDie → HalfDie) :
    (s.each l fun u x => u.onHalfDie (n x) (g u x)).thermal = s.thermal :=
    s.each_thermal (fun u x => u.onHalfDie_thermal (n x) (g u x)) l

@[simp] theorem State.each_onEdgeCh_thermal (g : State → α → EdgeCh → EdgeCh) :
    (s.each l fun u x => u.onEdgeCh (n x) (g u x)).thermal = s.thermal :=
    s.each_thermal (fun u x => u.onEdgeCh_thermal (n x) (g u x)) l

@[simp] theorem State.each_onStack_thermal (g : State → α → Stack → Stack) :
    (s.each l fun u x => u.onStack (n x) (g u x)).thermal = s.thermal :=
    s.each_thermal (fun u x => u.onStack_thermal (n x) (g u x)) l

@[simp] theorem State.each_onUcmDie_thermal (g : State → α → UcmDie → UcmDie) :
    (s.each l fun u x => u.onUcmDie (n x) (g u x)).thermal = s.thermal :=
    s.each_thermal (fun u x => u.onUcmDie_thermal (n x) (g u x)) l

end

theorem State.ite_thermal (p : Prop) [Decidable p] (t : State) :
    (if p then s else t).thermal = if p then s.thermal else t.thermal := apply_ite State.thermal p s t

theorem State.ite_fst_thermal {β : Type} (p : Prop) [Decidable p] (x y : State × β) :
    (if p then x else y).1.thermal = if p then x.1.thermal else y.1.thermal := apply_ite (fun z => z.1.thermal) p x y

@[simp] theorem pieces_thermal {unit : Nat} {one : State → Nat → Access → List SymErr → State × Got}
    (h : ∀ u a acc fl, (one u a acc fl).1.thermal = u.thermal) (n a : Nat) (acc : Access) (fl : List SymErr) :
    (pieces unit one n s a acc fl).1.thermal = s.thermal := pieces_keeps h n s a acc fl

end

/-! ### Sending and answering (R326-R330) -/

theorem State.OnlySends.thermal_eq {s t : State} (h : s.OnlySends t) : t.thermal = s.thermal := by
  unfold State.OnlySends at h
  rw [h]

theorem State.Takes.thermal_eq {s u : State} {f : Nat} {mine : Nat → Nat → Bool} {c : Cmd} (h : s.Takes f mine c u) :
    u.thermal = s.thermal := by
  obtain ⟨_, _, _, _, _, _, _, rfl, _⟩ := h
  rfl

section
variable (s : State)

@[simp] theorem State.event_thermal (p r0 r1 code : Nat) : (s.event p r0 r1 code).thermal = s.thermal :=
  (event_only s p r0 r1 code).1.thermal_eq

@[simp] theorem State.complete_thermal (f tag opc : Nat) (notify : Bool) (a : Answer) :
    (s.complete f tag opc notify a).thermal = s.thermal := (sendsTo_complete s tag opc notify a).1.thermal_eq

@[simp] theorem State.signal_thermal (f v : Nat) : (s.signal f v).thermal = s.thermal := (sendsTo_signal s v).1.thermal_eq

@[simp] theorem State.addLog_thermal (a b c d e g : Nat) : (s.addLog a b c d e g).thermal = s.thermal := rfl

/-- A write to host memory keeps the thermal state, whether or not it succeeds. -/
theorem State.hostWrite_getD_thermal (f a : Nat) (l : List Byte) {t : State} (ht : t.thermal = s.thermal) :
    ((s.hostWrite f a l).getD t).thermal = s.thermal := by
  cases h : s.hostWrite f a l with
  | none => exact ht
  | some u => exact (sendsTo_hostWrite h).1.thermal_eq

/-! ### Under-core memory (R176-R192) -/

@[simp] theorem State.corrected_thermal (source core word : Nat) (e : Errs) :
    (s.corrected source core word e).thermal = s.thermal := by
  simp [State.corrected, State.ite_thermal]

@[simp] theorem State.ucmCount_thermal (core : Nat) (b : By) : (s.ucmCount core b).thermal = s.thermal := by
  simp [State.ucmCount, State.ite_thermal]

@[simp] theorem State.ucmWrite_thermal (core w : Nat) (l : List Byte) : (s.ucmWrite core w l).thermal = s.thermal := rfl

@[simp] theorem State.ucmRead_thermal (core w source : Nat) (flips : List SymErr) (b : By) :
    (s.ucmRead core w source flips b).1.thermal = s.thermal := by
  unfold State.ucmRead
  rw [State.ite_fst_thermal]
  dsimp only
  split
  · exact s.ucmCount_thermal core b
  · split <;> simp [State.ite_thermal]

@[simp] theorem State.mergeRetire_thermal (core w : Nat) (flips : List SymErr) :
    (s.mergeRetire core w flips).thermal = s.thermal := by
  unfold State.mergeRetire
  split <;> simp [State.ite_thermal]

@[simp] theorem State.mergeWrite_thermal (core w o : Nat) (l : List Byte) (func : Nat) :
    (s.mergeWrite core w o l func).thermal = s.thermal := by
  unfold State.mergeWrite
  cases Sparse.get [] s.merges core <;> simp [State.ite_thermal]

@[simp] theorem State.portTaken_thermal (core : Nat) : (s.portTaken core).thermal = s.thermal := by
  simp [State.portTaken, State.ite_thermal]

@[simp] theorem State.retireFirst_thermal (core w : Nat) (flips : List SymErr) :
    (s.retireFirst core w flips).thermal = s.thermal := by
  simp [State.retireFirst, State.ite_thermal]

@[simp] theorem State.narrowWrite_thermal (core w o : Nat) (l : List Byte) (func : Nat) :
    (s.narrowWrite core w o l func).thermal = s.thermal := by
  simp [State.narrowWrite, State.ite_thermal]

@[simp] theorem State.ucmTouch_thermal (d : Nat) : (s.ucmTouch d).thermal = s.thermal := rfl

@[simp] theorem State.aperturePiece_thermal (who : Requester) (a : Nat) (acc : Access) (flips : List SymErr) :
    (s.aperturePiece who a acc flips).1.thermal = s.thermal := by
  unfold State.aperturePiece
  cases acc <;> simp [State.ite_fst_thermal]

@[simp] theorem State.aperture_thermal (who : Requester) (a : Nat) (acc : Access) (flips : List SymErr) :
    (s.aperture who a acc flips).1.thermal = s.thermal := by
  simp [State.aperture]

/-! ### Edge memory and its basins (R205-R224) -/

@[simp] theorem State.burstRead_thermal (ch off : Nat) (flips : List SymErr) (b : By) :
    (s.burstRead ch off flips b).1.thermal = s.thermal := by
  unfold State.burstRead
  dsimp only
  split
  · rfl
  · split <;> rfl

@[simp] theorem State.burstWrite_thermal (ch off : Nat) (l : List Byte) (b : By) :
    (s.burstWrite ch off l b).thermal = s.thermal := rfl

@[simp] theorem State.chWrite_thermal (ch : Nat) (b : By) (fuel off : Nat) (l : List Byte) :
    (s.chWrite ch b fuel off l).1.thermal = s.thermal := by
  induction fuel generalizing s off l with
  | zero => rfl
  | succ n ih => simp [State.chWrite, State.ite_fst_thermal, ih]

@[simp] theorem State.edgeLog_thermal (kind addr ch : Nat) (b : By) : (s.edgeLog kind addr ch b).thermal = s.thermal := rfl

@[simp] theorem State.writeBack_thermal (set : Nat) (x : Line) (b : By) : (s.writeBack set x b).thermal = s.thermal := by
  simp [State.writeBack, State.ite_thermal]

@[simp] theorem State.allocate_thermal (ch l : Nat) (data : List Byte) (dirty : Bool) (who : By) :
    (s.allocate ch l data dirty who).thermal = s.thermal := by
  unfold State.allocate
  dsimp only
  split
  · rfl
  · split <;> simp

@[simp] theorem State.fetchLine_thermal (ch l : Nat) (flips : List SymErr) (second : Bool) (b : By) :
    (s.fetchLine ch l flips second b).1.thermal = s.thermal := by
  simp [State.fetchLine, State.ite_fst_thermal]

@[simp] theorem State.dropLine_thermal (ch l w : Nat) : (s.dropLine ch l w).thermal = s.thermal := rfl

@[simp] theorem State.basinCount_thermal (ch : Nat) (hit : Bool) : (s.basinCount ch hit).thermal = s.thermal := rfl

@[simp] theorem State.lookup_thermal (ch l : Nat) (flips : List SymErr) (b : By) :
    (s.lookup ch l flips b).1.thermal = s.thermal := by
  unfold State.lookup
  dsimp only
  split
  · rfl
  · split <;> simp [State.ite_fst_thermal]

@[simp] theorem State.lineRead_thermal (ch off n : Nat) (noalloc : Bool) (flips : List SymErr) (b : By) :
    (s.lineRead ch off n noalloc flips b).1.thermal = s.thermal := by
  unfold State.lineRead
  dsimp only
  split
  · split <;> simp
  · simp [State.ite_fst_thermal, State.ite_thermal]

@[simp] theorem State.lineWrite_thermal (ch off : Nat) (l : List Byte) (who : By) :
    (s.lineWrite ch off l who).1.thermal = s.thermal := by
  unfold State.lineWrite
  dsimp only
  split
  · split <;> simp
  · simp [State.ite_fst_thermal]

@[simp] theorem State.serve_thermal (ch off : Nat) (acc : Access) (noalloc : Bool) (flips : List SymErr) (b : By) :
    (s.serve ch off acc noalloc flips b).1.thermal = s.thermal := by
  refine pieces_thermal s (fun u o acc fl => ?_) _ _ _ _
  cases acc <;> simp

@[simp] theorem State.edgePiece_thermal (q : Req) (a : Nat) (acc : Access) (flips : List SymErr) :
    (s.edgePiece q a acc flips).1.thermal = s.thermal := by
  unfold State.edgePiece
  split
  · rfl
  · cases q.who <;> simp [State.ite_fst_thermal]

@[simp] theorem State.scratchPiece_thermal (b : By) (a : Nat) (acc : Access) (flips : List SymErr) :
    (s.scratchPiece b a acc flips).1.thermal = s.thermal := by
  unfold State.scratchPiece
  refine ite_fst_keeps rfl (ite_fst_keeps rfl ?_)
  cases acc with
  | read n => exact ite_fst_keeps rfl rfl
  | write l => rfl

/-- No access to device memory changes the thermal state. -/
@[simp] theorem State.access_thermal (q : Req) (a : Nat) (acc : Access) (flips : List SymErr) :
    (s.access q a acc flips).1.thermal = s.thermal := by
  unfold State.access
  refine pieces_thermal s (fun u a acc fl => ?_) _ _ _ _
  refine ite_fst_keeps rfl (ite_fst_keeps ?_ (ite_fst_keeps ?_ (ite_fst_keeps ?_ rfl)))
  · exact u.edgePiece_thermal q a acc fl
  · exact pieces_thermal (one := State.scratchPiece (u.by_ q.who)) u (fun v a acc fl => v.scratchPiece_thermal _ a acc fl)
      _ _ _ _
  · exact u.aperture_thermal q.who a acc fl

end

end Sys2Proof.Machine
end

section
/-! SUPPORT. What leaves the thermal state alone: the end of jobs, channels and links, the failure of an edge channel, and
the steps of a bring-up. -/

namespace Sys2Proof.Machine

variable (s : State)

/-! ### The end of a polder's job (R315, R338) -/

@[simp] theorem State.writeOut_thermal (f out : Nat) (l : List Byte) : (s.writeOut f out l).1.thermal = s.thermal := by
  unfold State.writeOut
  refine ite_fst_keeps rfl (ite_fst_keeps (ite_fst_keeps rfl (ite_fst_keeps ?_ rfl)) ?_)
  · refine pieces_thermal s (fun u a acc fl => ?_) _ _ _ _
    exact ite_fst_keeps (u.access_thermal _ a acc fl) (u.access_thermal _ a acc fl)
  · split
    · next h => exact (sendsTo_hostWrite h).1.thermal_eq
    · rfl

@[simp] theorem State.countCycles_thermal (p : Nat) : (s.countCycles p).thermal = s.thermal := by
  simp [State.countCycles]

@[simp] theorem State.endSave_thermal (p : Nat) : (s.endSave p).thermal = s.thermal := by
  unfold State.endSave State.endCommand
  split
  · split <;> simp
  · rfl

@[simp] theorem State.finishJob_thermal (p : Nat) (st : Status) (extra : Nat) :
    (s.finishJob p st extra).thermal = s.thermal := by
  unfold State.finishJob
  dsimp only
  split
  · rfl
  · simp [State.ite_thermal]

@[simp] theorem State.freeBytes_thermal (n : Nat) : (s.freeBytes n).2.thermal = s.thermal := rfl

@[simp] theorem State.nbUndefine_thermal (e : Nat) (c : NbCmd) : (s.nbUndefine e c).thermal = s.thermal := by
  simp [State.nbUndefine]

@[simp] theorem State.nbDiscard_thermal (sel : NbCmd → Bool) : (s.nbDiscard sel).thermal = s.thermal := by
  simp [State.nbDiscard]

@[simp] theorem State.unbindAll_thermal (ch : Nat) : (s.unbindAll ch).thermal = s.thermal := by
  simp [State.unbindAll]

@[simp] theorem State.disableChan_thermal (ch : Nat) : (s.disableChan ch).thermal = s.thermal := by
  simp [State.disableChan, State.disown, State.ite_thermal]

@[simp] theorem State.idleHalfDies_thermal (p : Nat) : (s.idleHalfDies p).thermal = s.thermal := by
  simp [State.idleHalfDies]

@[simp] theorem State.junkCores_thermal (hs : List Nat) (regs : Bool) : (s.junkCores hs regs).thermal = s.thermal := by
  simp [State.junkCores]

@[simp] theorem State.halt_thermal (p : Nat) : (s.halt p).1.thermal = s.thermal := by
  simp [State.halt]

@[simp] theorem State.failJob_thermal (p : Nat) (st : Status) (extra : Nat) : (s.failJob p st extra).thermal = s.thermal := by
  unfold State.failJob
  split
  · rfl
  · simp [State.ite_thermal]

@[simp] theorem State.jobFail_thermal (p addr : Nat) (uncorrectable : Bool) :
    (s.jobFail p addr uncorrectable).thermal = s.thermal := by
  refine (apply_ite State.thermal _ _ _).trans ?_
  rw [s.failJob_thermal, ite_self]

/-! ### The end of a channel's work (R281-R287) -/

@[simp] theorem State.engineCount_thermal (ch kind n : Nat) : (s.engineCount ch kind n).thermal = s.thermal := rfl

@[simp] theorem State.chanWrite_thermal (ch a : Nat) (l : List Byte) : (s.chanWrite ch a l).1.thermal = s.thermal := by
  simp [State.chanWrite, State.chanAccess, State.ite_fst_thermal]

@[simp] theorem State.writeRing_thermal (ch a done w0 : Nat) : (s.writeRing ch a done w0).1.thermal = s.thermal := by
  unfold State.writeRing
  refine ite_fst_keeps ?_ ?_
  · simp [State.ite_fst_thermal]
  · have one := (s.engineCount ch 0 16).hostWrite_getD_thermal (s.chan ch).func (a + 48) (leBytes 8 done) rfl
    exact (State.hostWrite_getD_thermal _ _ _ _ rfl).trans one

@[simp] theorem State.haltChan_thermal (ch : Nat) (st : Status) (addr : Nat) (write stop : Bool) :
    (s.haltChan ch st addr write stop).thermal = s.thermal := by
  simp [State.haltChan]

@[simp] theorem State.ringFail_thermal (ch : Nat) (g : Got) (addr : Nat) (write : Bool) :
    (s.ringFail ch g addr write).thermal = s.thermal := by
  simp [State.ringFail]

@[simp] theorem State.retire_thermal (ch : Nat) (st : Status) (done : Nat) : (s.retire ch st done).1.thermal = s.thermal := by
  unfold State.retire
  dsimp only
  split
  · rfl
  · split <;> simp [State.ite_thermal]

@[simp] theorem State.endChan_thermal (ch : Nat) (st : Status) (done addr : Nat) (write stop : Bool) :
    (s.endChan ch st done addr write stop).1.thermal = s.thermal := by
  simp [State.endChan, State.ite_thermal, State.ite_fst_thermal]

@[simp] theorem State.stopAll_thermal (ch addr : Nat) (write known : Bool) :
    (s.stopAll ch addr write known).thermal = s.thermal := by
  simp [State.stopAll, State.ite_thermal]

@[simp] theorem State.ringBus_thermal (ch addr : Nat) (write : Bool) : (s.ringBus ch addr write).thermal = s.thermal := by
  simp [State.ringBus, State.ite_thermal]

@[simp] theorem State.endDesc_thermal (ch : Nat) (st : Status) (done addr : Nat) (write stop : Bool) :
    (s.endDesc ch st done addr write stop).thermal = s.thermal := by
  unfold State.endDesc State.reported
  split <;> simp

@[simp] theorem State.devFail_thermal (ch : Nat) (st : Status) (addr : Nat) (write uncorrectable : Bool) :
    (s.devFail ch st addr write uncorrectable).thermal = s.thermal := by
  simp [State.devFail, State.ite_thermal]

@[simp] theorem State.delivered_thermal (ch life addr : Nat) (acc : Access) (g : Got) :
    (s.delivered ch life addr acc g).thermal = s.thermal := by
  simp [State.delivered, State.progress, State.ite_thermal]

@[simp] theorem State.dropRequest_thermal (o : Outstanding) : (s.dropRequest o).thermal = s.thermal := by
  simp [State.dropRequest, State.answered, State.ite_thermal]

/-! ### The end of a link's work (R437, R450) -/

@[simp] theorem State.settle_thermal (n : Nat) : (s.settle n).thermal = s.thermal := by
  simp [State.settle, State.ite_thermal]

@[simp] theorem State.linkOff_thermal (n : Nat) (st : LinkState) (cause : Nat) :
    (s.linkOff n st cause).thermal = s.thermal := by
  simp [State.linkOff, State.linkEvent, State.ite_thermal]

@[simp] theorem State.linksSilent_thermal (st : LinkState) : (s.linksSilent st).thermal = s.thermal := by
  simp [State.linksSilent, State.ite_thermal]

/-! ### Domains that go off or into self-refresh (R389, R197) -/

@[simp] theorem State.offHalfDies_thermal (hs : List Nat) : (s.offHalfDies hs).thermal = s.thermal := by
  simp [State.offHalfDies, State.loseHalfDies]

@[simp] theorem State.ucmRefresh_thermal (ds : List Nat) : (s.ucmRefresh ds).thermal = s.thermal := by
  simp [State.ucmRefresh, State.ite_thermal]

@[simp] theorem State.stacksRefresh_thermal (es : List Nat) : (s.stacksRefresh es).thermal = s.thermal := by
  simp [State.stacksRefresh, State.ite_thermal]

/-! ### Steps of a bring-up (R406, R410-R415) -/

@[simp] theorem State.failBringUp_thermal (code unit elapsed : Nat) (warm : Bool) :
    (s.failBringUp code unit elapsed warm).thermal = s.thermal := rfl

@[simp] theorem State.rom_thermal (entropy : List Byte) (flashError : Bool) :
    (s.rom entropy flashError).thermal = s.thermal := by
  unfold State.rom
  dsimp only
  split <;> rfl

@[simp] theorem State.writeField_thermal (l : List RepairEntry) : (s.writeField l).thermal = s.thermal := rfl

@[simp] theorem State.invalidate_thermal (e : Nat) : (s.invalidate e).thermal = s.thermal := by
  unfold State.invalidate
  refine (State.each_thermal _ (fun u x => ?_) _).trans rfl
  split
  · simp [State.ite_thermal]
  · rfl

@[simp] theorem State.nbEnd_thermal (e : Nat) (c : NbCmd) (st : Status) : (s.nbEnd e c st).thermal = s.thermal := rfl

@[simp] theorem State.failChannel_thermal (e : Nat) : (s.failChannel e).thermal = s.thermal := by
  simp only [State.failChannel, State.event_thermal, State.writeField_thermal, State.onEdgeCh_thermal]
  exact ((s.invalidate e).each_thermal (fun u c => u.nbEnd_thermal e c .hwError) _).trans (s.invalidate_thermal e)

@[simp] theorem State.setRows_thermal : s.setRows.thermal = s.thermal := by
  simp [State.setRows]

@[simp] theorem State.idleAll_thermal : s.idleAll.thermal = s.thermal := by
  simp [State.idleAll]

@[simp] theorem State.trainChannels_thermal (t : Training) (after : Bool) : (s.trainChannels t after).thermal = s.thermal := by
  simp [State.trainChannels, State.recordLines, State.ite_thermal]

@[simp] theorem State.storeTraining_thermal (t : Training) : (s.storeTraining t).thermal = s.thermal := rfl

@[simp] theorem State.updateCap_thermal : s.updateCap.thermal = s.thermal := by
  simp [State.updateCap, State.countUp, State.ite_thermal]

@[simp] theorem State.bringUpDone_thermal (warm : Bool) (elapsed : Nat) : (s.bringUpDone warm elapsed).thermal = s.thermal := by
  simp [State.bringUpDone]

@[simp] theorem State.coldTrain_thermal (t : Training) : (s.coldTrain t).thermal = s.thermal := by
  simp [State.coldTrain]

@[simp] theorem State.coldTests_thermal (found : List RepairEntry) : (s.coldTests found).thermal = s.thermal := by
  simp [State.coldTests, State.ite_thermal]

@[simp] theorem State.coldClear_thermal : s.coldClear.thermal = s.thermal := rfl

@[simp] theorem State.logTrip_thermal : s.logTrip.thermal = s.thermal := by
  unfold State.logTrip
  split <;> rfl

@[simp] theorem State.discardCommands_thermal (mine : Nat → Bool) : (s.discardCommands mine).thermal = s.thermal := by
  simp [State.discardCommands, State.clearDikes, State.ite_thermal]

@[simp] theorem State.dropJob_thermal (n : Nat) : (s.dropJob n).thermal = s.thermal := by
  simp [State.dropJob, State.ite_thermal]

@[simp] theorem State.dropWork_thermal : s.dropWork.thermal = s.thermal := by
  simp [State.dropWork]

@[simp] theorem State.retireAll_thermal : s.retireAll.thermal = s.thermal := by
  simp [State.retireAll]

@[simp] theorem State.flushBasin_thermal (b : Nat) : (s.flushBasin b).thermal = s.thermal := by
  unfold State.flushBasin
  refine State.each_thermal _ (fun u e => ?_) _
  split <;> simp

@[simp] theorem State.interrupted_thermal : s.interrupted.thermal = s.thermal := by
  simp [State.interrupted, State.ite_thermal]

@[simp] theorem State.warmStop_thermal : s.warmStop.thermal = s.thermal := by
  simp [State.warmStop]

@[simp] theorem State.warmClear_thermal : s.warmClear.thermal = s.thermal := by
  simp [State.warmClear]

@[simp] theorem State.warmMaps_thermal (t : Training) : (s.warmMaps t).thermal = s.thermal := by
  simp [State.warmMaps, State.ucmClearAll, State.edgeZero, State.dropLines, State.ite_thermal]

/-- In COOLANT_HOLD a warm bring-up makes the module quiet, and it leaves the hold as it was. -/
@[simp] theorem State.warmRest_thermal (b : BringUp) : (s.warmRest b).thermal = s.thermal := by
  simp [State.warmRest, State.ite_thermal]

end Sys2Proof.Machine
end

section
/-! SUPPORT. The thermal policy (R376): its command, and what a cold and a warm bring-up make of it. -/

namespace Sys2Proof.Machine

/-- What THERMAL_POLICY_SET sets: the slope of the weir and whether equal polders rotate. -/
def Thermal.policy (t : Thermal) : Nat × Bool := (t.slope, t.rotate)

/-! ### THERMAL_POLICY_SET (R333, R376) -/

section
variable {s u : State} {f : Nat} {c : Cmd} (h : s.TakesOp f 0x43 c u)
include h

theorem execThermalPolicySet_of_accepted (hr : c.a 1 ≤ 1) (hlo : 10 ≤ c.a 2) (hhi : c.a 2 ≤ 200) :
    execThermalPolicySet f s = .next
      ({ u with thermal := { s.thermal with rotate := decide (c.a 1 = 1), slope := c.a 2 } }.answer c {}) := by
  simp [execThermalPolicySet, command_of_takesOp _ h, hr, hlo, hhi, h.thermal_eq, beq_eq_decide]

theorem execThermalPolicySet_of_bound (hout : 1 < c.a 1 ∨ c.a 2 < 10 ∨ 200 < c.a 2) :
    execThermalPolicySet f s = .next (u.refuse c .bound) := by
  simp [execThermalPolicySet, command_of_takesOp _ h, hout, or_assoc]

end

/-! ### The policy over a bring-up (R376, R384, R406-R412) -/

section
variable (s : State) (b : BringUp)

/-- Holding for coolant writes the hold and its cause alone. -/
@[simp] theorem State.coldHold_thermal : s.coldHold.thermal = { s.thermal with coolantHold := true, cause := 1 } := by
  simp [State.coldHold]

/-- Steps 5-12 of a cold bring-up end, hold or wait with the policy they began with. -/
theorem State.coldRest_policy : (s.coldRest b).thermal.policy = s.thermal.policy := by
  unfold State.coldRest
  dsimp only
  split
  · rfl
  · split
    · simp [Thermal.policy]
    · split
      · simp
      · split_ifs <;> simp

theorem State.coldFromRom_policy : (s.coldFromRom b).thermal.policy = s.thermal.policy := by
  unfold State.coldFromRom
  dsimp only
  split
  · simp
  · rw [State.coldRest_policy, State.rom_thermal]

/-- The AON domain comes up with the thermal state of reset. -/
theorem State.coldStart_thermal (slot : Nat) : (s.coldStart slot).thermal = {} := rfl

theorem State.cold_policy : (s.cold b).thermal.policy = (40, false) := by
  unfold State.cold
  dsimp only
  split
  · rfl
  · split
    · rfl
    · rw [State.coldFromRom_policy, State.coldStart_thermal]
      rfl

/-- A warm bring-up keeps the policy, also where it goes on as a cold one because the training store is not complete. -/
theorem State.warm_policy : (s.warm b).thermal.policy = s.thermal.policy := by
  unfold State.warm
  dsimp only
  split
  · split
    · simp
    · split
      · simp
      · simp [State.coldFromRom_policy]
  · split
    · simp
    · split <;> simp

end

section
variable {s : State} (b : BringUp)

theorem execColdBringUp_of_aon_off (hoff : s.power.aon = false) (htrip : s.power.trip = none) (hrun : s.boot.running = false) :
    execColdBringUp b s = .next (s.cold b) := by
  simp [execColdBringUp, hoff, htrip, hrun]

theorem execWarmBringUp_of_aon (hon : s.power.aon = true) (hp3 : s.power.pkg ≠ .p3) (hsag : s.power.sagHold = false)
    (hrun : s.boot.running = false) : execWarmBringUp b s = .next (s.warm b) := by
  simp [execWarmBringUp, hon, hp3, hsag, hrun]

end

/-! ### The obligation -/

/-- Settles O51: the command writes the two fields of the policy or refuses, a cold bring-up starts from those of reset, and
no step of a bring-up writes them. -/
theorem thermalPolicyIsSetAndKept : Obligations.ThermalPolicyIsSetAndKept := by
  unfold Obligations.ThermalPolicyIsSetAndKept
  intro s u f c b
  refine ⟨execThermalPolicySet_of_accepted, execThermalPolicySet_of_bound, rfl, fun hoff htrip hrun => ?_,
    fun hon hp3 hsag hrun => ?_⟩
  · exact ⟨_, execColdBringUp_of_aon_off b hoff htrip hrun, Prod.mk.inj (s.cold_policy b)⟩
  · exact ⟨_, execWarmBringUp_of_aon b hon hp3 hsag hrun, Prod.mk.inj (s.warm_policy b)⟩

end Sys2Proof.Machine
end

section
/-! SUPPORT. Every command answers a next state, and every step keeps what Kept states: the queue of commands, the canonical
form of the memories, and the fuses that are burnt. -/

namespace Sys2Proof.Machine

variable {s t : State}

/-! ### What a command keeps -/

/-- Every command keeps what its own lemma of Laws/Kept*.lean says. -/
theorem exec_kept {s₀ : State} (hk : Kept s₀ s) : ∀ c : Instr, exec c s = .next t → Kept s₀ t
  | .hello f, ht => kept_execHello f hk ht
  | .getStatus f, ht => kept_execGetStatus f hk ht
  | .polderCreate f offers, ht => kept_execPolderCreate f offers hk ht
  | .polderCreateComplete p, ht => kept_execPolderCreateComplete p hk ht
  | .polderDestroy f, ht => kept_execPolderDestroy f hk ht
  | .polderReset f offers, ht => kept_execPolderReset f offers hk ht
  | .polderResetComplete p, ht => kept_execPolderResetComplete p hk ht
  | .scheduleLoad f, ht => kept_execScheduleLoad f hk ht
  | .scheduleUnload f, ht => kept_execScheduleUnload f hk ht
  | .jobRun f, ht => kept_execJobRun f hk ht
  | .jobCancel f, ht => kept_execJobCancel f hk ht
  | .contextSave f, ht => kept_execContextSave f hk ht
  | .contextSaveCopy p, ht => kept_execContextSaveCopy p hk ht
  | .contextRestore f, ht => kept_execContextRestore f hk ht
  | .memInitUcm f, ht => kept_execMemInitUcm f hk ht
  | .memInitEdge f, ht => kept_execMemInitEdge f hk ht
  | .memInitBasin f, ht => kept_execMemInitBasin f hk ht
  | .nearBankModeProcessor f, ht => kept_execNearBankModeProcessor f hk ht
  | .nearBankModeMemory f, ht => kept_execNearBankModeMemory f hk ht
  | .kvSpaceConfig f, ht => kept_execKvSpaceConfig f hk ht
  | .capSet f, ht => kept_execCapSet f hk ht
  | .quotaSet f, ht => kept_execQuotaSet f hk ht
  | .ledgerRead f, ht => kept_execLedgerRead f hk ht
  | .thermalPolicySet f, ht => kept_execThermalPolicySet f hk ht
  | .loopBoundsSet f, ht => kept_execLoopBoundsSet f hk ht
  | .linkEnable f, ht => kept_execLinkEnable f hk ht
  | .linkDisable f, ht => kept_execLinkDisable f hk ht
  | .linkIdentity f, ht => kept_execLinkIdentity f hk ht
  | .linkWindow f, ht => kept_execLinkWindow f hk ht
  | .linkInbound f, ht => kept_execLinkInbound f hk ht
  | .linkTimesyncConfig f, ht => kept_execLinkTimesyncConfig f hk ht
  | .linkStatus f, ht => kept_execLinkStatus f hk ht
  | .attest f, ht => kept_execAttest f hk ht
  | .identityCertRead f, ht => kept_execIdentityCertRead f hk ht
  | .firmwareStage f, ht => kept_execFirmwareStage f hk ht
  | .firmwareCommit f flashOk, ht => kept_execFirmwareCommit f flashOk hk ht
  | .logRead f, ht => kept_execLogRead f hk ht
  | .repairStage f, ht => kept_execRepairStage f hk ht
  | .repairCommit f, ht => kept_execRepairCommit f hk ht
  | .diagWarmReset f, ht => kept_execDiagWarmReset f hk ht
  | .halfDieTest f defects, ht => kept_execHalfDieTest f defects hk ht
  | .edgeRetrain f, ht => kept_execEdgeRetrain f hk ht
  | .badOpcode f, ht => kept_execBadOpcode f hk ht
  | .partialMessageTimeout f, ht => kept_execPartialMessageTimeout f hk ht
  | .tagMemoryExpiry f tag opc, ht => kept_execTagMemoryExpiry f tag opc hk ht
  | .ringReread f, ht => kept_execRingReread f hk ht
  | .busMasterEnableSet f, ht => kept_execBusMasterEnableSet f hk ht
  | .mbH2D f word, ht => kept_execMbH2D f word hk ht
  | .mbD2H f, ht => kept_execMbD2H f hk ht
  | .mbDoorbell f value, ht => kept_execMbDoorbell f value hk ht
  | .mailboxPoll, ht => kept_execMailboxPoll hk ht
  | .firmwareNotification f, ht => kept_execFirmwareNotification f hk ht
  | .floodgate f value, ht => kept_execFloodgate f value hk ht
  | .fgPf value, ht => kept_execFgPf value hk ht
  | .floodgateComplete kind polder, ht => kept_execFloodgateComplete kind polder hk ht
  | .floodgateDrained target, ht => kept_execFloodgateDrained target hk ht
  | .pmpReset value, ht => kept_execPmpReset value hk ht
  | .pmpWatchdog, ht => kept_execPmpWatchdog hk ht
  | .cdcWatchdog d, ht => kept_execCdcWatchdog d hk ht
  | .cdcRestartComplete d, ht => kept_execCdcRestartComplete d hk ht
  | .enable f ch value, ht => kept_execEnable f ch value hk ht
  | .dmaDisable f ch value, ht => kept_execDmaDisable f ch value hk ht
  | .resume f ch value, ht => kept_execResume f ch value hk ht
  | .tail f ch value, ht => kept_execTail f ch value hk ht
  | .dmaOwner ch value, ht => kept_execDmaOwner ch value hk ht
  | .descriptorFetch ch, ht => kept_execDescriptorFetch ch hk ht
  | .copy ch, ht => kept_execCopy ch hk ht
  | .psplit ch, ht => kept_execPsplit ch hk ht
  | .pjoin ch, ht => kept_execPjoin ch hk ht
  | .intlv ch, ht => kept_execIntlv ch hk ht
  | .deintlv ch, ht => kept_execDeintlv ch hk ht
  | .toSluice ch, ht => kept_execToSluice ch hk ht
  | .fromSluice ch, ht => kept_execFromSluice ch hk ht
  | .nbcmd ch, ht => kept_execNbcmd ch hk ht
  | .kvwalk ch, ht => kept_execKvwalk ch hk ht
  | .nop ch, ht => kept_execNop ch hk ht
  | .descriptorWriteBack ch, ht => kept_execDescriptorWriteBack ch hk ht
  | .descriptorTimeout ch, ht => kept_execDescriptorTimeout ch hk ht
  | .heldRetry ch, ht => kept_execHeldRetry ch hk ht
  | .busError ch addr isWrite attributable refused, ht => kept_execBusError ch addr isWrite attributable refused hk ht
  | .nbCompletion e, ht => kept_execNbCompletion e hk ht
  | .deviceAccessError ch code addr isWrite, ht => kept_execDeviceAccessError ch code addr isWrite hk ht
  | .bar4Win window value, ht => kept_execBar4Win window value hk ht
  | .vfMap v value, ht => kept_execVfMap v value hk ht
  | .bar4Read offset len, ht => kept_execBar4Read offset len hk ht
  | .bar4Write offset bytes, ht => kept_execBar4Write offset bytes hk ht
  | .bar4AtomicOp offset, ht => kept_execBar4AtomicOp offset hk ht
  | .registerWrite f bar offset size value, ht => kept_execRegisterWrite f bar offset size value hk ht
  | .registerAccessError f bar offset size isWrite, ht => kept_execRegisterAccessError f bar offset size isWrite hk ht
  | .configRequest f req, ht => kept_execConfigRequest f req hk ht
  | .perstN asserted, ht => kept_execPerstN asserted hk ht
  | .pfFlr, ht => kept_execPfFlr hk ht
  | .vfFlr v, ht => kept_execVfFlr v hk ht
  | .vfEnableClear, ht => kept_execVfEnableClear hk ht
  | .linkTrainPcie partnerRate width flit, ht => kept_execLinkTrainPcie partnerRate width flit hk ht
  | .plannerRun, ht => kept_execPlannerRun hk ht
  | .admissionTimeout p, ht => kept_execAdmissionTimeout p hk ht
  | .jobStart p, ht => kept_execJobStart p hk ht
  | .jobEnd p, ht => kept_execJobEnd p hk ht
  | .jobTimeout p, ht => kept_execJobTimeout p hk ht
  | .tideMark h, ht => kept_execTideMark h hk ht
  | .slotEntryAdvance p, ht => kept_execSlotEntryAdvance p hk ht
  | .routerSlot p badWords, ht => kept_execRouterSlot p badWords hk ht
  | .holdRelease p, ht => kept_execHoldRelease p hk ht
  | .scoreInstruction core, ht => kept_execScoreInstruction core hk ht
  | .ebreak core, ht => kept_execEbreak core hk ht
  | .sat core, ht => kept_execSat core hk ht
  | .sati core, ht => kept_execSati core hk ht
  | .sdone core, ht => kept_execSdone core hk ht
  | .tiss core, ht => kept_execTiss core hk ht
  | .viss core, ht => kept_execViss core hk ht
  | .sin core, ht => kept_execSin core hk ht
  | .sout core, ht => kept_execSout core hk ht
  | .sack core, ht => kept_execSack core hk ht
  | .spost core, ht => kept_execSpost core hk ht
  | .rpage core, ht => kept_execRpage core hk ht
  | .rwr core, ht => kept_execRwr core hk ht
  | .srdc core, ht => kept_execSrdc core hk ht
  | .sfill core, ht => kept_execSfill core hk ht
  | .swrite core, ht => kept_execSwrite core hk ht
  | .sfwd core, ht => kept_execSfwd core hk ht
  | .sfilli core, ht => kept_execSfilli core hk ht
  | .snote core, ht => kept_execSnote core hk ht
  | .snoteForward cl, ht => kept_execSnoteForward cl hk ht
  | .tfill core, ht => kept_execTfill core hk ht
  | .tmma core, ht => kept_execTmma core hk ht
  | .tdrain core, ht => kept_execTdrain core hk ht
  | .twrite core, ht => kept_execTwrite core hk ht
  | .vadd core, ht => kept_execVadd core hk ht
  | .vsub core, ht => kept_execVsub core hk ht
  | .vmul core, ht => kept_execVmul core hk ht
  | .vfma core, ht => kept_execVfma core hk ht
  | .vmin core, ht => kept_execVmin core hk ht
  | .vmax core, ht => kept_execVmax core hk ht
  | .vcmp core, ht => kept_execVcmp core hk ht
  | .vsel core, ht => kept_execVsel core hk ht
  | .vabs core, ht => kept_execVabs core hk ht
  | .vexp2 core, ht => kept_execVexp2 core hk ht
  | .vlog2 core, ht => kept_execVlog2 core hk ht
  | .vrcp core, ht => kept_execVrcp core hk ht
  | .vrsqrt core, ht => kept_execVrsqrt core hk ht
  | .vtanh core, ht => kept_execVtanh core hk ht
  | .vdiv core, ht => kept_execVdiv core hk ht
  | .vcvt core, ht => kept_execVcvt core hk ht
  | .vqmx core, ht => kept_execVqmx core hk ht
  | .vqt2 core, ht => kept_execVqt2 core hk ht
  | .vdq core, ht => kept_execVdq core hk ht
  | .vrsum core, ht => kept_execVrsum core hk ht
  | .vrmax core, ht => kept_execVrmax core hk ht
  | .vrmin core, ht => kept_execVrmin core hk ht
  | .vshuf core, ht => kept_execVshuf core hk ht
  | .vgather core, ht => kept_execVgather core hk ht
  | .vrand core, ht => kept_execVrand core hk ht
  | .vunif core, ht => kept_execVunif core hk ht
  | .vtopk core, ht => kept_execVtopk core hk ht
  | .vtopkm core, ht => kept_execVtopkm core hk ht
  | .vsamp core, ht => kept_execVsamp core hk ht
  | .vfill core, ht => kept_execVfill core hk ht
  | .vwrite core, ht => kept_execVwrite core hk ht
  | .vfwd core, ht => kept_execVfwd core hk ht
  | .vsend core, ht => kept_execVsend core hk ht
  | .vcopy core, ht => kept_execVcopy core hk ht
  | .sluiceEntryArrival cl, ht => kept_execSluiceEntryArrival cl hk ht
  | .sluiceEntryTaken cl, ht => kept_execSluiceEntryTaken cl hk ht
  | .ucmWordArrival core flips, ht => kept_execUcmWordArrival core flips hk ht
  | .ucmRefresh d layer idle, ht => kept_execUcmRefresh d layer idle hk ht
  | .ucmApertureAccess who addr acc flips, ht => kept_execUcmApertureAccess who addr acc flips hk ht
  | .mergeRetire core word flips, ht => kept_execMergeRetire core word flips hk ht
  | .ucmScrubRequest core flips, ht => kept_execUcmScrubRequest core flips hk ht
  | .ucmScrubPassEnd d, ht => kept_execUcmScrubPassEnd d hk ht
  | .ucmSelfRefreshEntry d, ht => kept_execUcmSelfRefreshEntry d hk ht
  | .edgeAccess who addr acc flips, ht => kept_execEdgeAccess who addr acc flips hk ht
  | .sectorRead who addr flips, ht => kept_execSectorRead who addr flips hk ht
  | .edgeLineMark e line, ht => kept_execEdgeLineMark e line hk ht
  | .edgeRetrainStart e, ht => kept_execEdgeRetrainStart e hk ht
  | .edgeRetrainEnd e badLines, ht => kept_execEdgeRetrainEnd e badLines hk ht
  | .edgeScrubRequest e flips, ht => kept_execEdgeScrubRequest e flips hk ht
  | .edgeRefresh e, ht => kept_execEdgeRefresh e hk ht
  | .nbWrite e, ht => kept_execNbWrite e hk ht
  | .nbRead e, ht => kept_execNbRead e hk ht
  | .nbFill e, ht => kept_execNbFill e hk ht
  | .nbCopy e, ht => kept_execNbCopy e hk ht
  | .nbAppend e, ht => kept_execNbAppend e hk ht
  | .nbScores e, ht => kept_execNbScores e hk ht
  | .nbAttend e, ht => kept_execNbAttend e hk ht
  | .nbSync e, ht => kept_execNbSync e hk ht
  | .nbDispatch stack, ht => kept_execNbDispatch stack hk ht
  | .sensorSample r, ht => kept_execSensorSample r hk ht
  | .flowPulseEdge sinceLastUs, ht => kept_execFlowPulseEdge sinceLastUs hk ht
  | .flowPulseTimeout, ht => kept_execFlowPulseTimeout hk ht
  | .coolantHoldExit, ht => kept_execCoolantHoldExit hk ht
  | .hardwareTrip unitKind unit, ht => kept_execHardwareTrip unitKind unit hk ht
  | .thermalResistanceUpdate, ht => kept_execThermalResistanceUpdate hk ht
  | .rotation, ht => kept_execRotation hk ht
  | .estimatorReport energies, ht => kept_execEstimatorReport energies hk ht
  | .telemetryUpdate t, ht => kept_execTelemetryUpdate t hk ht
  | .peakLimiter, ht => kept_execPeakLimiter hk ht
  | .quota p, ht => kept_execQuota p hk ht
  | .avsbusAck rail, ht => kept_execAvsbusAck rail hk ht
  | .avsNoack rail, ht => kept_execAvsNoack rail hk ht
  | .avsLoop h up, ht => kept_execAvsLoop h up hk ht
  | .p1Entry, ht => kept_execP1Entry hk ht
  | .p1Wake, ht => kept_execP1Wake hk ht
  | .p2Entry failing, ht => kept_execP2Entry failing hk ht
  | .p2Exit failing, ht => kept_execP2Exit failing hk ht
  | .p3Entry failing, ht => kept_execP3Entry failing hk ht
  | .p3Exit b, ht => kept_execP3Exit b hk ht
  | .wakeReplay, ht => kept_execWakeReplay hk ht
  | .napEntry h, ht => kept_execNapEntry h hk ht
  | .supplySag vinMin, ht => kept_execSupplySag vinMin hk ht
  | .sagRecovery b, ht => kept_execSagRecovery b hk ht
  | .lockout, ht => kept_execLockout hk ht
  | .coldBringUp b, ht => kept_execColdBringUp b hk ht
  | .warmBringUp b, ht => kept_execWarmBringUp b hk ht
  | .crystalTimeout, ht => kept_execCrystalTimeout hk ht
  | .romStart entropy flashError, ht => kept_execRomStart entropy flashError hk ht
  | .fuseBurn, ht => kept_execFuseBurn hk ht
  | .fence u, ht => kept_execFence u hk ht
  | .linkDetect n t, ht => kept_execLinkDetect n t hk ht
  | .linkTrainingTimeout n, ht => kept_execLinkTrainingTimeout n hk ht
  | .linkRetry n, ht => kept_execLinkRetry n hk ht
  | .linkRetrain n cause t, ht => kept_execLinkRetrain n cause t hk ht
  | .linkRateReturn n t, ht => kept_execLinkRateReturn n t hk ht
  | .dataFlit n flit errs, ht => kept_execDataFlit n flit errs hk ht
  | .nak n flit errs, ht => kept_execNak n flit errs hk ht
  | .replayTimer n, ht => kept_execReplayTimer n hk ht
  | .credit n flit errs, ht => kept_execCredit n flit errs hk ht
  | .ident n flit errs, ht => kept_execIdent n flit errs hk ht
  | .rdReq n, ht => kept_execRdReq n hk ht
  | .wrReq n, ht => kept_execWrReq n hk ht
  | .rdRsp n, ht => kept_execRdRsp n hk ht
  | .wrAck n, ht => kept_execWrAck n hk ht
  | .nakRsp n, ht => kept_execNakRsp n hk ht
  | .timesync, ht => kept_execTimesync hk ht
  | .timesyncAnswer n flit errs, ht => kept_execTimesyncAnswer n flit errs hk ht
  | .timesyncLoss, ht => kept_execTimesyncLoss hk ht
  | .syncIn, ht => kept_execSyncIn hk ht
  | .syncOutPulse, ht => kept_execSyncOutPulse hk ht
  | .syncInLoss, ht => kept_execSyncInLoss hk ht
  | .refclkLoss, ht => kept_execRefclkLoss hk ht
  | .refclkReturn, ht => kept_execRefclkReturn hk ht
  | .mode value, ht => kept_execMode value hk ht
  | .loadArm value, ht => kept_execLoadArm value hk ht
  | .dbgChallenge nonce, ht => kept_execDbgChallenge nonce hk ht
  | .dbgResponse r, ht => kept_execDbgResponse r hk ht
  | .dbgChallengeExpiry, ht => kept_execDbgChallengeExpiry hk ht
  | .dieBist defects, ht => kept_execDieBist defects hk ht
  | .loopback, ht => kept_execLoopback hk ht
  | .trainReport ports, ht => kept_execTrainReport ports hk ht
  | .clearFaults, ht => kept_execClearFaults hk ht
  | .capability, ht => kept_execCapability hk ht
  | .statusWord, ht => kept_execStatusWord hk ht
  | .statusTemperature, ht => kept_execStatusTemperature hk ht
  | .readVin, ht => kept_execReadVin hk ht
  | .readIin, ht => kept_execReadIin hk ht
  | .readTemperature1, ht => kept_execReadTemperature1 hk ht
  | .readTemperature2, ht => kept_execReadTemperature2 hk ht
  | .readTemperature3, ht => kept_execReadTemperature3 hk ht
  | .readPin, ht => kept_execReadPin hk ht
  | .pmbusRevision, ht => kept_execPmbusRevision hk ht
  | .mfrId, ht => kept_execMfrId hk ht
  | .mfrModel, ht => kept_execMfrModel hk ht
  | .mfrWake, ht => kept_execMfrWake hk ht
  | .mfrPkgState, ht => kept_execMfrPkgState hk ht
  | .mfrEnergy, ht => kept_execMfrEnergy hk ht
  | .mfrBootStatus, ht => kept_execMfrBootStatus hk ht
  | .mfrEffCap, ht => kept_execMfrEffCap hk ht
  | .mfrHotDram, ht => kept_execMfrHotDram hk ht
  | .smbusBadTransaction why, ht => kept_execSmbusBadTransaction why hk ht
  | .creditReturn n, ht => kept_execCreditReturn n hk ht
  | .idleFlit n flit errs, ht => kept_execIdleFlit n flit errs hk ht
  | .timesyncReceive n flit errs, ht => kept_execTimesyncReceive n flit errs hk ht
  | .msixVectorUnmask f v, ht => kept_execMsixVectorUnmask f v hk ht
  | .noPartnerTimeout n, ht => kept_execNoPartnerTimeout n hk ht

/-- No table that the memories stand in is touched as time passes. -/
theorem kept_tick {s₀ : State} (hk : Kept s₀ s) : Kept s₀ s.tick := by
  simp only [State.tick, State.idleTides]
  exact kept_ite _ (fun _ => kept_mk hk) fun _ => kept_ite _ (fun _ => kept_mk hk) fun _ => kept_mk hk

theorem State.Canonical.kept (h : s.Canonical) : Kept s s := .refl h.1 h.2.1 h.2.2

theorem Kept.canonical {s₀ : State} (h : Kept s₀ s) : s.Canonical := ⟨h.hostWf, h.ucmWf, h.edgeWf⟩

/-- A step keeps what its command keeps, from the state with the queue's rest on. -/
theorem step_kept (h : s.Canonical) (ht : step s = .next t) : Kept { s with pending := t.pending } t := by
  unfold step at ht
  split at ht
  · cases ht
    have hk := kept_tick h.kept
    exact ⟨rfl, hk.2⟩
  · next c rest _ =>
    have canonical : State.Canonical { s with pending := rest } := h
    have hk := exec_kept canonical.kept c ht
    exact ⟨rfl, hk.2⟩

/-! ### Every command answers -/

/-- A result that is a next state. -/
def Nexts (r : Result) : Prop := ∃ t, r = .next t

theorem nexts_next (t : State) : Nexts (.next t) := ⟨t, rfl⟩

theorem nexts_ite (p : Prop) [Decidable p] {x y : Result} (hx : Nexts x) (hy : Nexts y) : Nexts (if p then x else y) := by
  split <;> assumption

theorem smbusCommand_nexts {code : Nat} {run : State → Result} (h : smbusCommand code = some run) (s : State) :
    Nexts (run s) := by
  unfold smbusCommand at h
  split at h <;> cases h <;> exact nexts_next _

theorem execSmbusBadTransaction_nexts (bad : SmbusBad) (s : State) : Nexts (execSmbusBadTransaction bad s) := by
  unfold execSmbusBadTransaction
  split
  · split
    · next h => exact smbusCommand_nexts h s
    · exact nexts_next _
  all_goals exact nexts_next _

/-- A command's meaning is a next state, or branches on the state into next states. -/
theorem exec_nexts (c : Instr) (s : State) : Nexts (exec c s) := by
  cases c
  case smbusBadTransaction bad => exact execSmbusBadTransaction_nexts bad s
  all_goals simp only [exec, execHello, execPolderCreateComplete, execPolderResetComplete, execContextSaveCopy, execPartialMessageTimeout, 
    execFirmwareNotification, execFloodgate, execFloodgateDrained, execPmpWatchdog, execDescriptorFetch, 
    execDescriptorWriteBack, execDescriptorTimeout, execHeldRetry, execNbCompletion, execDeviceAccessError, 
    execBar4Read, execBar4Write, execRegisterWrite, execRegisterAccessError, execConfigRequest, execPerstN, 
    execLinkTrainPcie, execAdmissionTimeout, execJobStart, execJobEnd, execJobTimeout, execUcmRefresh, 
    execUcmApertureAccess, execMergeRetire, execUcmScrubRequest, execUcmScrubPassEnd, execUcmSelfRefreshEntry, 
    execEdgeAccess, execSectorRead, execEdgeLineMark, execEdgeRetrainStart, execEdgeRetrainEnd, 
    execEdgeScrubRequest, execEdgeRefresh, execNbDispatch, execSensorSample, execFlowPulseEdge, 
    execFlowPulseTimeout, execCoolantHoldExit, execHardwareTrip, execThermalResistanceUpdate, execRotation, 
    execEstimatorReport, execTelemetryUpdate, execPeakLimiter, execQuota, execAvsbusAck, execAvsNoack, 
    execAvsLoop, execP1Entry, execP1Wake, execP2Entry, execP2Exit, execP3Entry, execP3Exit, execWakeReplay, 
    execNapEntry, execSupplySag, execSagRecovery, execColdBringUp, execWarmBringUp, execCrystalTimeout, 
    execRomStart, execFuseBurn, execLinkDetect, execLinkTrainingTimeout, execLinkRetry, execLinkRetrain, 
    execLinkRateReturn, execReplayTimer, execTimesync, execTimesyncLoss, execSyncIn, execSyncOutPulse, 
    execSyncInLoss, execDbgChallenge, execDbgResponse, execCreditReturn, execNoPartnerTimeout]
  all_goals repeat' first | exact nexts_next _ | apply nexts_ite | split

/-! ### The obligations -/

/-- Settles O4: a command keeps the canonical form by its own lemma, and the passing of time by kept_tick. -/
theorem stepKeepsCanonicalForm : Obligations.StepKeepsCanonicalForm := by
  unfold Obligations.StepKeepsCanonicalForm
  exact fun s t hs ht => (step_kept hs ht).canonical

/-- Settles O5: what a step keeps includes the burns. -/
theorem fuseBurnsAreIrreversible : Obligations.FuseBurnsAreIrreversible := by
  unfold Obligations.FuseBurnsAreIrreversible
  intro s t hs ht
  obtain ⟨_, _, _, _, grows⟩ := step_kept hs ht
  exact grows

/-- Settles O6: no arm of the command table is a fault or a refusal, and what a command keeps includes the queue. -/
theorem everyCommandAnswersANextState : Obligations.EveryCommandAnswersANextState := by
  unfold Obligations.EveryCommandAnswersANextState
  intro c s
  obtain ⟨t, ht⟩ := exec_nexts c s
  exact ⟨t, ht, fun hs => (exec_kept hs.kept c ht).1⟩

end Sys2Proof.Machine
end

section
/-! SUPPORT. One step and the reset state (R467, R468, R500). -/

namespace Sys2Proof.Machine

/-! ### One tick -/

@[simp] theorem Polder.idlePass_default : Polder.idlePass {} = {} := rfl
@[simp] theorem HalfDie.idlePass_default : HalfDie.idlePass {} = {} := rfl

theorem Polder.idlePass_only (p : Polder) : p.idlePass =
    { p with tide := p.idlePass.tide, tidePart := p.idlePass.tidePart, markDue := p.idlePass.markDue, atMark := p.idlePass.atMark } := by
  unfold Polder.idlePass
  split <;> rfl

theorem Polder.idlePass_of_running {p : Polder} (h : p.state = .running) : p.idlePass = p := by
  simp [Polder.idlePass, h]

theorem HalfDie.idlePass_only (h : HalfDie) : h.idlePass =
    { h with tide := h.idlePass.tide, tidePart := h.idlePass.tidePart, markDue := h.idlePass.markDue } := by
  unfold HalfDie.idlePass
  split <;> rfl

section
variable (s : State)

/-- Of a polder the passing of time writes only the tide counter and its marks. -/
theorem State.idleTides_polder (n : Nat) : s.idleTides.polder n = s.polder n ∨ s.idleTides.polder n = (s.polder n).idlePass := by
  simp only [State.polder, State.idleTides, Sparse.get_mapWhere _ _ _ Polder.idlePass_default]
  split <;> simp

theorem State.idleTides_halfDie (h : Nat) :
    s.idleTides.halfDie h = if s.polderOf h = 31 then (s.halfDie h).idlePass else s.halfDie h := by
  simp [State.halfDie, State.idleTides, Sparse.get_mapWhere _ _ _ HalfDie.idlePass_default]

theorem State.tick_only : s.tick = { s.idleTides with time := s.tick.time } := by
  unfold State.tick
  dsimp only
  split
  · rfl
  · split <;> rfl

@[simp] theorem State.tick_polder (n : Nat) : s.tick.polder n = s.idleTides.polder n := by
  rw [State.tick_only]
  rfl

@[simp] theorem State.tick_halfDie (h : Nat) : s.tick.halfDie h = s.idleTides.halfDie h := by
  rw [State.tick_only]
  rfl

/-- With REFCLK and nothing to slew a tick counts one. -/
theorem Time.tick_dev {t : Time} (hr : t.refclk = true) (hs : t.slew = 0) : t.tick.dev = t.dev + 1 := by
  simp [Time.tick, hr, hs]

theorem State.tick_dev (hon : s.power.aon = true) (hp : s.power.pkg ≠ .p3) (hr : s.time.refclk = true) (hs : s.time.slew = 0) :
    s.tick.time.dev = s.time.dev + 1 := by
  have tick : s.tick = { s.idleTides with time := s.time.tick } := by
    simp [State.tick, State.idleTides, hon, hp]
  rw [tick]
  exact Time.tick_dev hr hs

end

/-! ### The obligations -/

/-- Settles O1: it is the definition of step. -/
theorem stepRunsTheFrontCommand : Obligations.StepRunsTheFrontCommand := by
  unfold Obligations.StepRunsTheFrontCommand
  exact fun _ _ _ => rfl

/-- Settles O2: a tick writes the time and the two tables of tide counters, and of these the counters alone. -/
theorem idleStepIsOneTick : Obligations.IdleStepIsOneTick := by
  unfold Obligations.IdleStepIsOneTick
  intro s hs
  refine ⟨s.tick, by simp [step, hs], ?_, fun n => ?_, fun n hrun => ?_, fun h => ?_, fun h hh => ?_, s.tick_dev⟩
  · rw [s.tick_only]
    rfl
  · rw [s.tick_polder]
    obtain hn | hn := s.idleTides_polder n
    · rw [hn]
    · rw [hn]
      exact Polder.idlePass_only _
  · rw [s.tick_polder]
    obtain hn | hn := s.idleTides_polder n
    · exact hn
    · rw [hn, Polder.idlePass_of_running hrun]
  · rw [s.tick_halfDie, s.idleTides_halfDie]
    split
    · exact HalfDie.idlePass_only _
    · rfl
  · rw [s.tick_halfDie, s.idleTides_halfDie, if_neg hh]

/-- Settles O3: every table of the reset state is empty, so that every unit reads as its default. -/
theorem resetValues : Obligations.ResetValues := by
  unfold Obligations.ResetValues
  refine ⟨⟨rfl, rfl, rfl⟩, rfl, rfl, rfl, rfl, fun _ => rfl, fun v => ?_, fun _ => rfl, fun h => ?_, rfl, rfl, rfl,
    fun _ => ⟨rfl, rfl, rfl⟩, fun _ => rfl⟩
  · unfold State.vfPolder
    split <;> rfl
  · have none_holds : ∀ p, (State.reset.polder p).holds? h = false := fun _ => rfl
    have free : (List.range 24).find? (fun p => (State.reset.polder p).holds? h) = none :=
      List.find?_eq_none.2 fun p _ => by simp [none_holds]
    rw [State.polderOf, free]
    rfl

end Sys2Proof.Machine
end

section
/-! SUPPORT. Mailbox words, the messages that firmware takes from them, and their completion (R306-R313, R322-R333). -/

namespace Sys2Proof.Machine

variable {s : State} {f : Nat}

/-! ### Mailbox words (R307-R312) -/

theorem State.mailOpen_of_managementOff (f : Nat) (h : s.power.management = false) : s.mailOpen f = false := by
  simp [State.mailOpen, h]

theorem State.onFunc_func_same (s : State) (f : Nat) (g : Func → Func) : (s.onFunc f g).func f = g (s.func f) := by simp

theorem State.onFunc_func_other (s : State) {f k : Nat} (g : Func → Func) (h : k ≠ f) : (s.onFunc f g).func k = s.func k := by
  simp [h.symm]

theorem State.onlyFunc_onFunc (s : State) (f : Nat) (g : Func → Func) (r : Reply) :
    s.OnlyFunc f { s.onFunc f g with reply := r } :=
  ⟨rfl, fun _ hk => s.onFunc_func_other g hk⟩

theorem State.func_of_replied (s : State) (f : Nat) (g : Func → Func) (r : Reply) :
    State.func { s.onFunc f g with reply := r } f = g (s.func f) := s.onFunc_func_same f g

theorem State.writeH2D_of_open (h : s.mailOpen f = true) (w : Word) : s.writeH2D f w =
    { s.onFunc f (fun x => if x.h2d.length < 16 then { x with h2d := x.h2d ++ [w] }
        else { x with h2d := x.h2d.take 15 ++ [w], collision := true, h2dLost := true }) with reply := .done } := by
  simp [State.writeH2D, h]

theorem State.writeH2D_of_closed (h : s.mailOpen f = false) (w : Word) : s.writeH2D f w = s.mailDropped f := by
  simp [State.writeH2D, h]

theorem State.ringDoorbell_of_closed (h : s.mailOpen f = false) (v : Nat) : s.ringDoorbell f v = s.mailDropped f := by
  simp [State.ringDoorbell, h]

theorem State.readD2H_of_closed (h : s.mailOpen f = false) : s.readD2H f = { s with reply := .completerAbort } := by
  simp [State.readD2H, h]

theorem State.readD2H_of_empty (h : s.mailOpen f = true) (hd : (s.func f).d2h = []) :
    s.readD2H f = { s with reply := .data (zeros 8) } := by
  simp [State.readD2H, h, hd]

theorem State.readD2H_of_word (h : s.mailOpen f = true) {sender : Nat} {w : Word} {rest : List (Nat × Word)}
    (hd : (s.func f).d2h = (sender, w) :: rest) :
    s.readD2H f = { s.onFunc f (fun x => { x with d2h := rest }) with
      reply := .data (leBytes 8 (w.toNat + sender * 2 ^ 32 + 2 ^ 63)) } := by
  simp [State.readD2H, h, hd]

/-- Settles O7: each of the three accesses writes one function's registers and the answer, by whether the mailbox is served. -/
theorem mailboxWordsInOrder : Obligations.MailboxWordsInOrder := by
  unfold Obligations.MailboxWordsInOrder
  refine ⟨fun s f ho => ⟨fun w => ?_, fun hd => ?_, fun sender w rest hd => ?_, fun v => ?_⟩, fun s f w hm => ?_⟩
  · refine ⟨_, congrArg Host.Outcome.next (s.writeH2D_of_open ho w), s.onlyFunc_onFunc f _ _, rfl, ?_⟩
    exact s.func_of_replied f _ _
  · exact congrArg Host.Outcome.next (s.readD2H_of_empty ho hd)
  · refine ⟨_, congrArg Host.Outcome.next (s.readD2H_of_word ho hd), s.onlyFunc_onFunc f _ _, rfl, ?_⟩
    exact s.func_of_replied f _ _
  · refine ⟨s.ringDoorbell f v.toNat, rfl, ?_⟩
    cases hb : bit v.toNat 0 with
    | true =>
      have ring : s.ringDoorbell f v.toNat = { s.onFunc f (fun x => { x with notified := true }) with reply := .done } := by
        simp [State.ringDoorbell, ho, hb]
      rw [ring]
      exact ⟨s.onlyFunc_onFunc f _ _, rfl, (s.func_of_replied f _ _).trans (by simp)⟩
    | false =>
      have ring : s.ringDoorbell f v.toNat = { s with reply := .done } := by
        simp [State.ringDoorbell, ho, hb]
      rw [ring]
      exact ⟨⟨rfl, fun _ _ => rfl⟩, rfl, by simp; rfl⟩
  · have closed := s.mailOpen_of_managementOff f hm
    refine ⟨fun c hc => ⟨s.mailDropped f, ?_, rfl, ?_, fun g hg => ?_⟩, congrArg Host.Outcome.next (s.readD2H_of_closed closed)⟩
    · obtain rfl | rfl := hc
      · exact congrArg Host.Outcome.next (s.writeH2D_of_closed closed w)
      · exact congrArg Host.Outcome.next (s.ringDoorbell_of_closed closed _)
    · exact s.onFunc_func_same f fun x => { x with domainOff := true }
    · exact s.onFunc_func_other (fun x => { x with domainOff := true }) hg

end Sys2Proof.Machine
end

section
/-! SUPPORT. The words that firmware takes from a function's queue, and the poll of every queue (R311, R313, R322, R323,
R331). -/

namespace Sys2Proof.Machine

/-! ### Folds of which one step does something -/

/-- Where only the step of `a` does anything, before and after it, a pass over a list with one `a` is that step. -/
theorem State.each_one {α : Type} {g : State → α → State} {a : α} {s : State} :
    ∀ l : List α, l.Nodup → a ∈ l → (∀ x ∈ l, x ≠ a → g s x = s ∧ g (g s a) x = g s a) → s.each l g = g s a := by
  have rest : ∀ (u : State) (l : List α), (∀ x ∈ l, g u x = u) → u.each l g = u := by
    intro u l h
    induction l with
    | nil => rfl
    | cons x r ih =>
      show State.each (g u x) r g = u
      rw [h x (by simp), ih fun y hy => h y (by simp [hy])]
  intro l
  induction l with
  | nil => simp
  | cons x r ih =>
    intro hd ha h
    obtain ⟨hx, hr⟩ := List.nodup_cons.1 hd
    show State.each (g s x) r g = g s a
    by_cases hxa : x = a
    · subst hxa
      exact rest _ _ fun y hy => (h y (by simp [hy]) (by rintro rfl; exact hx hy)).2
    · rw [(h x (by simp) hxa).1]
      exact ih hr ((List.mem_cons.1 ha).resolve_left (Ne.symm hxa)) fun y hy => h y (by simp [hy])

/-! ### The board's queues (R313) -/

/-- The module without its board queues and its error log. -/
def State.sansBoard (s : State) : State := { s with board := [], boardLost := [], boardErrors := [], log := [] }

section
variable (s : State)

@[simp] theorem State.boardSend_sansBoard (sender target : Nat) (w : Word) :
    (s.boardSend sender target w).sansBoard = s.sansBoard := by
  unfold State.boardSend
  split <;> rfl

@[simp] theorem State.boardPass_sansBoard (b : Nat) : (s.boardPass b).sansBoard = s.sansBoard := by
  unfold State.boardPass
  refine (State.each_keeps (F := State.sansBoard) (fun u x => ?_) (s.boardTake (1 + b)).1 (s.boardTake (1 + b)).2).trans rfl
  split <;> simp

@[simp] theorem State.boardPoll_sansBoard : s.boardPoll.sansBoard = s.sansBoard := by
  unfold State.boardPoll
  refine (State.each_keeps (fun u b => ?_) _ _).trans ((State.each_keeps (fun u d => ?_) _ _).trans ?_)
  · split <;> simp
  · split <;> rfl
  · split <;> rfl

end

/-- The module without its functions' registers. -/
def State.sansFuncs (s : State) : State := { s with funcs := [] }

@[simp] theorem State.onFunc_sansFuncs (s : State) (f : Nat) (g : Func → Func) : (s.onFunc f g).sansFuncs = s.sansFuncs := rfl

/-! ### Taking words (R308, R322, R323, R331) -/

section
variable {s : State} {f : Nat}

theorem State.takeWords_of_empty (h : (s.func f).h2d = []) : s.takeWords f = s := by
  simp [State.takeWords, h]

/-- The words of one new message: it waits behind what waited, and is remembered. -/
def Func.received (x : Func) (h : Word) (args : List Word) : Func :=
  { x with
    h2d := [], h2dLost := false, partialWords := []
    tags := x.tags ++ [⟨bits h.toNat 16 16, bits h.toNat 8 8, none⟩]
    inbox := x.inbox ++ [⟨bits h.toNat 16 16, bits h.toNat 8 8, bits h.toNat 4 4, args⟩] }

theorem State.accept_of_new {h : Word} (args : List Word)
    (hnew : ∀ m ∈ (s.func f).tags, ¬(m.tag = bits h.toNat 16 16 ∧ m.opc = bits h.toNat 8 8))
    (hroom : (s.func f).tags.length < 64) :
    s.accept f h args = s.onFunc f fun x => { x with
      tags := x.tags ++ [⟨bits h.toNat 16 16, bits h.toNat 8 8, none⟩]
      inbox := x.inbox ++ [⟨bits h.toNat 16 16, bits h.toNat 8 8, bits h.toNat 4 4, args⟩] } := by
  have absent : (s.func f).tags.find? (fun t => t.tag == bits h.toNat 16 16 && t.opc == bits h.toNat 8 8) = none :=
    List.find?_eq_none.2 fun m hm => by simpa using hnew m hm
  have keep : (s.func f).tags.length + 1 - 64 = 0 := by omega
  simp [State.accept, absent, State.onFunc, keep]

/-- The words of one whole message, and no others, are one accepted message. -/
theorem State.parseWords_of_message {h : Word} {args : List Word} (n : Nat) (hlen : args.length = bits h.toNat 0 4)
    (hs : (s.func f).stuffed = false) :
    State.parseWords f (n + 2) s (h :: args) = (s.accept f h args).onFunc f fun x => { x with partialWords := [] } := by
  have whole : args.take (bits h.toNat 0 4) = args := List.take_of_length_le hlen.le
  have none_left : args.drop (bits h.toNat 0 4) = [] := List.drop_of_length_le hlen.le
  simp [State.parseWords, hs, hlen, whole, none_left]

theorem Func.stuffed_of_lt {x : Func} (h : x.heldCompletions < 64) : x.stuffed = false := by
  simp [Func.stuffed, h]

/-- Firmware takes the words of one new message. -/
theorem State.takeWords_of_message {h : Word} {args : List Word} (ho : s.mailOpen f = true)
    (hq : (s.func f).h2d = h :: args) (hlen : args.length = bits h.toNat 0 4) (hp : (s.func f).partialWords = [])
    (hlost : (s.func f).h2dLost = false) (hheld : (s.func f).heldCompletions < 64) (hroom : (s.func f).tags.length < 64)
    (hnew : ∀ m ∈ (s.func f).tags, ¬(m.tag = bits h.toNat 16 16 ∧ m.opc = bits h.toNat 8 8)) :
    (s.takeWords f).sansFuncs = s.sansFuncs ∧ (s.takeWords f).func f = (s.func f).received h args
      ∧ ∀ g, g ≠ f → (s.takeWords f).func g = s.func g := by
  let cleared := s.onFunc f fun x => { x with h2d := [], h2dLost := false, partialWords := [] }
  have own : cleared.func f = { s.func f with h2d := [], h2dLost := false, partialWords := [] } := s.onFunc_func_same f _
  have taken : s.takeWords f = (cleared.accept f h args).onFunc f fun x => { x with partialWords := [] } := by
    rw [← cleared.parseWords_of_message args.length hlen (Func.stuffed_of_lt (by rw [own]; exact hheld))]
    simp [State.takeWords, ho, Func.stuffed_of_lt hheld, hq, hp, hlost, cleared, State.onFunc]
  rw [taken, State.accept_of_new args (by rw [own]; exact hnew) (by rw [own]; exact hroom)]
  refine ⟨?_, ?_, fun g hg => ?_⟩
  · simp [cleared]
  · simp [own, Func.received]
  · simp [hg.symm, cleared]

theorem State.eq_of_sansFuncs {s t : State} (h : t.sansFuncs = s.sansFuncs) : t = { s with funcs := t.funcs } :=
  congrArg (fun u : State => { u with funcs := t.funcs }) h

theorem execFirmwareNotification_of_notified (hn : (s.func f).notified = true) (ho : s.mailOpen f = true) :
    execFirmwareNotification f s = .next ((s.onFunc f fun x => { x with notified := false }).takeWords f) := by
  simp [execFirmwareNotification, hn, ho]

/-- Where every other queue is empty, a poll takes one function's words, and the boards' queues are taken. -/
theorem State.polled_of_one (hf : f < 25) (hempty : ∀ g, g ≠ f → (s.func g).h2d = [])
    (hothers : ∀ g, g ≠ f → (s.takeWords f).func g = s.func g) :
    s.each (List.range 25) State.takeWords = s.takeWords f := by
  refine State.each_one _ List.nodup_range (by simpa using hf) fun g _ hg => ⟨?_, ?_⟩
  · exact State.takeWords_of_empty (hempty g hg)
  · exact State.takeWords_of_empty (by rw [hothers g hg, hempty g hg])

theorem State.eq_of_sansBoard {s t : State} (h : t.sansBoard = s.sansBoard) :
    t = { s with board := t.board, boardLost := t.boardLost, boardErrors := t.boardErrors, log := t.log } :=
  congrArg (fun u : State =>
    { u with board := t.board, boardLost := t.boardLost, boardErrors := t.boardErrors, log := t.log }) h

/-! ### A message that stays incomplete (R323) -/

/-- The registers after a TIMEOUT under a tag: the words are gone, and the command is remembered where the tag is new. -/
theorem execPartialMessageTimeout_eq {h : Word} {args : List Word} (ho : s.mailOpen f = true)
    (hp : (s.func f).partialWords = h :: args) {tags : List TagEntry}
    (ht : (if (s.func f).tags.any (fun t => t.tag == bits h.toNat 16 16 && t.opc == bits h.toNat 8 8) then (s.func f).tags
      else ((s.func f).tags ++ [(⟨bits h.toNat 16 16, bits h.toNat 8 8,
        some (Answer.record { status := .timeout } (bits h.toNat 16 16) (bits h.toNat 8 8))⟩ : TagEntry)]).drop
          ((s.func f).tags.length - 63)) = tags) :
    execPartialMessageTimeout f s = .next ((s.onFunc f fun x => { x with partialWords := [], tags := tags }).post f
      (bits h.toNat 16 16) (bits h.toNat 8 8) (bit h.toNat 5) { status := .timeout }) := by
  simp [execPartialMessageTimeout, hp, ho, State.onFunc, ← ht]

end

/-- Settles O8: the queue spells one message, which is accepted, and the other queues of a poll hold nothing; a message left
incomplete ends with TIMEOUT. -/
theorem firmwareTakesWaitingWords : Obligations.FirmwareTakesWaitingWords := by
  unfold Obligations.FirmwareTakesWaitingWords
  intro s f h args ho
  refine ⟨fun hq hlen hp hlost hheld hroom hnew => ⟨fun hn => ?_, fun hf hempty => ?_⟩, fun hp => ⟨fun hknown => ?_, fun hnew hroom => ?_⟩⟩
  · have own : (s.onFunc f fun x => { x with notified := false }).func f = { s.func f with notified := false } :=
      s.onFunc_func_same f _
    obtain ⟨frame, message, others⟩ := State.takeWords_of_message (s := s.onFunc f fun x => { x with notified := false })
      (f := f) (h := h) (args := args) ho (by rw [own]; exact hq) hlen (by rw [own]; exact hp) (by rw [own]; exact hlost)
      (by rw [own]; exact hheld) (by rw [own]; exact hroom) (by rw [own]; exact hnew)
    refine ⟨_, execFirmwareNotification_of_notified hn ho, State.eq_of_sansFuncs frame, ?_, fun g hg => ?_⟩
    · rw [message, own]
      rfl
    · rw [others g hg]
      exact s.onFunc_func_other _ hg
  · obtain ⟨frame, message, others⟩ := State.takeWords_of_message ho hq hlen hp hlost hheld hroom hnew
    have polled := State.polled_of_one hf hempty others
    have board := (s.takeWords f).boardPoll_sansBoard
    have func : ∀ g, (s.takeWords f).boardPoll.func g = (s.takeWords f).func g := fun g =>
      (congrArg (fun u : State => u.func g) board :)
    refine ⟨(s.takeWords f).boardPoll, ?_, ?_, ?_, fun g hg => ?_⟩
    · exact congrArg (fun u : State => Host.Outcome.next u.boardPoll) polled
    · have funcs : (s.takeWords f).boardPoll.funcs = (s.takeWords f).funcs := (congrArg State.funcs board :)
      rw [funcs]
      exact (State.eq_of_sansBoard board).trans (congrArg (fun u : State => { u with
        board := (s.takeWords f).boardPoll.board, boardLost := (s.takeWords f).boardPoll.boardLost
        boardErrors := (s.takeWords f).boardPoll.boardErrors, log := (s.takeWords f).boardPoll.log })
        (State.eq_of_sansFuncs frame) :)
    · rw [func, message]
      rfl
    · rw [func, others g hg]
  · refine execPartialMessageTimeout_eq ho hp (if_pos ?_)
    simpa using hknown
  · refine execPartialMessageTimeout_eq ho hp ((if_neg ?_).trans ?_)
    · simpa using hnew
    · have keep : (s.func f).tags.length - 63 = 0 := by omega
      rw [keep]
      rfl

end Sys2Proof.Machine
end

section
/-! SUPPORT. The completion of a command: its record on the ring (R327, R329, R331), the status of a message that fails a check
(R333), and HELLO (R325, R326). -/

namespace Sys2Proof.Machine

variable {s : State} {f : Nat}

/-! ### Messages to the host and short words (R303, R309) -/

section
variable (s : State) (f v : Nat)

@[simp] theorem State.signal_hostMem : (s.signal f v).hostMem = s.hostMem := by
  unfold State.signal
  dsimp only
  split <;> rfl

/-- Raising a message may leave it pending, and changes nothing else of the function. -/
theorem State.signal_func : ∃ m, (s.signal f v).func f = { s.func f with msix := m } := by
  unfold State.signal
  dsimp only
  split
  · exact ⟨_, rfl⟩
  · exact ⟨_, by rw [State.setFunc_func, if_pos rfl]⟩

/-- Words that are pushed change the device-to-host queue and its collision flag alone. -/
theorem Func.push_only (x : Func) (sender : Nat) (w : Word) :
    ∃ q c, x.push sender w = { x with d2h := q, d2hCollision := c } := by
  unfold Func.push
  split <;> exact ⟨_, _, rfl⟩

theorem Func.pushes_only (ws : List Word) (x : Func) :
    ∃ q c, ws.foldl (fun y w => y.push 0 w) x = { x with d2h := q, d2hCollision := c } := by
  induction ws generalizing x with
  | nil => exact ⟨_, _, rfl⟩
  | cons w ws ih =>
    obtain ⟨q, c, h⟩ := x.push_only 0 w
    obtain ⟨q', c', h'⟩ := ih (x.push 0 w)
    exact ⟨q', c', by rw [List.foldl_cons, h', h]⟩

@[simp] theorem State.sendWords_hostMem (ws : List Word) : (s.sendWords f ws).hostMem = s.hostMem := by
  unfold State.sendWords
  dsimp only
  split <;> simp

theorem State.sendWords_func (ws : List Word) :
    ∃ q c m, (s.sendWords f ws).func f = { s.func f with d2h := q, d2hCollision := c, msix := m } := by
  obtain ⟨q, c, h⟩ := Func.pushes_only ws (s.func f)
  have own := s.onFunc_func_same f fun x => ws.foldl (fun y w => y.push 0 w) x
  unfold State.sendWords
  dsimp only
  split
  · obtain ⟨m, hm⟩ := (s.onFunc f fun x => ws.foldl (fun y w => y.push 0 w) x).signal_func f
      ((s.onFunc f fun x => ws.foldl (fun y w => y.push 0 w) x).func f).mbVector
    exact ⟨q, c, m, by rw [hm, own, h]⟩
  · exact ⟨q, c, (s.func f).msix, by rw [own, h]⟩

end

/-! ### A record on the ring (R327, R329) -/

@[simp] theorem recordBytes_length (tag opc st kind polder r0 r1 out detail : Nat) :
    (recordBytes tag opc st kind polder r0 r1 out detail).length = 32 := by
  simp [recordBytes]

@[simp] theorem withPhase_length (phase : Bool) {l : List Byte} (h : l.length = 32) : (withPhase phase l).length = 32 := by
  simp [withPhase, patch, h]

section
variable {r : Ring} {l : List Byte}

/-- A record written: it stands in host memory, and the ring is at its next index. -/
def State.recorded (s : State) (f : Nat) (r : Ring) (l : List Byte) : State :=
  State.onFunc { s with hostMem := s.hostMem.write (r.addr + 32 * r.next) (withPhase r.phase l) } f fun x =>
    { x with ring := some r.advance }

theorem State.recorded_func (s : State) (f : Nat) (r : Ring) (l : List Byte) :
    (s.recorded f r l).func f = { s.func f with ring := some r.advance } :=
  State.onFunc_func_same _ f fun x => { x with ring := some r.advance }

theorem State.writeRecord_of_ok (hr : (s.func f).ring = some r) (hl : l.length = 32)
    (hok : s.hostOk f (r.addr + 32 * r.next) 32 = true) :
    s.writeRecord f false l = (s.recorded f r l).signal f r.vector := by
  simp [State.writeRecord, hr, State.hostWrite, hl, hok, State.recorded]

/-- The only completion due is written where the ring has room. -/
theorem State.flush_one (hr : (s.func f).ring = some r) (hfull : r.full = false) (hb : (s.func f).bme = true)
    (hd : (s.func f).due = [⟨false, l⟩]) (hl : l.length = 32) (hok : s.hostOk f (r.addr + 32 * r.next) 32 = true) :
    s.flush f = (((s.onFunc f fun x => { x with due := [] }).recorded f r l).signal f r.vector) := by
  have own := s.onFunc_func_same f fun x => { x with due := [] }
  have written := State.writeRecord_of_ok (s := s.onFunc f fun x => { x with due := [] }) (f := f) (r := r) (l := l)
    (by rw [own]; exact hr) hl hok
  obtain ⟨m, hm⟩ := ((s.onFunc f fun x => { x with due := [] }).recorded f r l).signal_func f r.vector
  have nothing_due : ((((s.onFunc f fun x => { x with due := [] }).recorded f r l).signal f r.vector).func f).due = [] := by
    rw [hm, State.recorded_func, own]
  simp [State.flush, hd, State.flushAux, hr, hb, hfull, written, nothing_due]

/-- The registers that a completed command leaves, before its record is due. -/
theorem State.remembered_func (s : State) (f tag opc : Nat) (l : List Byte) :
    (s.onFunc f fun x => x.remember tag opc l).func f = (s.func f).remember tag opc l := s.onFunc_func_same f _

/-- A completed command with a ring that has room and nothing else due: its record is written and remembered. -/
theorem State.complete_of_ring (tag opc : Nat) (notify : Bool) (a : Answer) (hr : (s.func f).ring = some r)
    (hfull : r.full = false) (hb : (s.func f).bme = true) (hd : (s.func f).due = [])
    (hok : s.hostOk f (r.addr + 32 * r.next) 32 = true) :
    let t := s.complete f tag opc notify a
    t.hostMem = s.hostMem.write (r.addr + 32 * r.next) (withPhase r.phase (a.record tag opc))
      ∧ (t.func f).ring = some r.advance ∧ (t.func f).due = []
      ∧ (t.func f).tags = ((s.func f).remember tag opc (a.record tag opc)).tags := by
  let due := (s.onFunc f fun x => x.remember tag opc (a.record tag opc)).onFunc f fun x => { x with due := [⟨false, a.record tag opc⟩] }
  let sent := ((due.onFunc f fun x => { x with due := [] }).recorded f r (a.record tag opc)).signal f r.vector
  have remembered := s.remembered_func f tag opc (a.record tag opc)
  have own : due.func f = { (s.func f).remember tag opc (a.record tag opc) with due := [⟨false, a.record tag opc⟩] } := by
    simp only [due, State.onFunc_func_same, remembered]
  have flushed : due.flush f = sent :=
    State.flush_one (by rw [own]; exact hr) hfull (by rw [own]; exact hb) (by rw [own]) (recordBytes_length ..) hok
  have completed : s.complete f tag opc notify a = if notify then sent.sendWords f [shortWord tag opc a.status] else sent := by
    rw [← flushed]
    simp [State.complete, State.post, Func.remember, hr, hd, due, State.onFunc]
  obtain ⟨m, hm⟩ := State.signal_func ((due.onFunc f fun x => { x with due := [] }).recorded f r (a.record tag opc)) f r.vector
  have func : sent.func f = { (s.func f).remember tag opc (a.record tag opc) with ring := some r.advance, due := [], msix := m } := by
    rw [hm, State.recorded_func, State.onFunc_func_same, own]
  have mem : sent.hostMem = s.hostMem.write (r.addr + 32 * r.next) (withPhase r.phase (a.record tag opc)) := by
    simp [sent, State.recorded, due]
  intro t
  obtain ⟨q, c, m', words⟩ := sent.sendWords_func f [shortWord tag opc a.status]
  cases notify with
  | true => simp [t, completed, words, func, mem]
  | false => simp [t, completed, func, mem]

end

/-- Settles O9: the record is written where the ring has room; completing touches what sending touches; the other two rows are
one change each. -/
theorem completionRecordIsWritten : Obligations.CompletionRecordIsWritten := by
  unfold Obligations.CompletionRecordIsWritten
  intro s f tag opc notify a rec_ t
  obtain ⟨sends, others⟩ := sendsTo_complete (f := f) s tag opc notify a
  refine ⟨fun r hr hfull hb hd hok => ?_, sends, others, ?_, fun hrun => ?_⟩
  · obtain ⟨mem, ring, due, tags⟩ := State.complete_of_ring tag opc notify a hr hfull hb hd hok
    have length : (withPhase r.phase (a.record tag opc)).length = 32 := withPhase_length _ (recordBytes_length ..)
    refine ⟨?_, fun k hk => ?_, ring, due, ?_⟩
    · have read := Memory.read_write s.hostMem (r.addr + 32 * r.next) (withPhase r.phase (a.record tag opc))
      rw [length] at read
      rw [mem]
      exact read
    · rw [mem]
      exact Memory.byte_write_outside _ _ _ _ (by rw [length]; exact hk)
    · rw [tags]
      refine List.map_congr_left fun m _ => ?_
      simp [Answer.record, rec_, and_assoc]
  · refine ⟨_, rfl, ⟨rfl, fun g hg => s.onFunc_func_other _ hg⟩, ?_, fun m => ?_⟩
    · simp
    · simp only [State.onFunc_func_same, List.mem_filter]
      simp
      tauto
  · simp [exec, execRingReread, hrun]

/-! ### Messages that fail a check (R333) -/

section
variable {m : Msg} {rest : List Msg} {st : Status} {opc : Nat}

/-- Where the oldest message is not in progress, the next one is not looked at. -/
theorem State.meets_of_idle {busy : Msg → Bool} {mine : Nat → Nat → Bool} {other : State}
    (hi : (s.func f).inbox = m :: rest) (h : busy m = false) : s.meets f busy mine other = other := by
  unfold State.meets
  rw [hi]
  cases rest <;> simp [h]

end

/-- Settles O10: the command's own meaning is not reached where the checks of R333 fail. -/
theorem refusedCommandChangesNothing : Obligations.RefusedCommandChangesNothing := by
  unfold Obligations.RefusedCommandChangesNothing
  intro s f m rest st hi ho hb hheld u
  have stuffed : (s.func f).stuffed = false := Func.stuffed_of_lt hheld
  have refused : ∀ (opc : Nat) (run : State → Cmd → State), m.opc = opc → u.checked f m = .error st →
      Host.Outcome.next (s.command f opc run) = (.next (u.complete f m.tag m.opc (bit m.flags 1)
        { status := st, polder := namedPolder m.opc m.inline_ }) : Result) := fun opc run hm hc =>
    congrArg _ (serve_of_checkFails run hi ho (by simp [hm]) hb stuffed hc)
  refine ⟨?_, fun hrow hrun => ?_, fun c hrow hc => ?_⟩
  · simp only [List.forall_mem_cons, List.not_mem_nil, false_implies, implies_true, and_true]
    refine ⟨?_, ?_, ?_, ?_, ?_, ?_, ?_, ?_, ?_, ?_, ?_, ?_, ?_, ?_, ?_, ?_, ?_, ?_, ?_, fun hm hc => ?_, ?_, ?_, ?_⟩
    case refine_20 =>
      show Host.Outcome.next (State.meets _ _ _ _ _) = _
      rw [State.meets_of_idle hi (by simp [hm])]
      exact refused _ _ hm hc
    all_goals exact refused _ _
  · refine congrArg Host.Outcome.next (serve_of_checkFails _ hi ho (by simp [hrow]) hb stuffed ?_)
    simp [State.checked, hrun, hrow]
  · obtain ⟨sh, hsh, hw⟩ := hrow
    exact congrArg Host.Outcome.next (serve_of_takes (c := c) (u := u) _
      ⟨m, rest, hi, ho, by simp [hsh, hw], hb, stuffed, rfl, hc⟩)

/-! ### HELLO (R325, R326) -/

/-- HELLO's answer touches what sending to its function touches. -/
theorem sendsTo_helloAnswer (s : State) (c : Cmd) (st : Status) : SendsTo c.func s (s.helloAnswer c st) :=
  ((sendsTo_onFunc s _).trans (sendsTo_flush _)).trans (sendsTo_sendWords _ _)

@[simp] theorem State.helloAnswer_trust (s : State) (c : Cmd) (st : Status) : (s.helloAnswer c st).trust = s.trust := by
  rw [(sendsTo_helloAnswer s c st).1]

@[simp] theorem State.helloAnswer_recordDue (s : State) (c : Cmd) (st : Status) :
    (s.helloAnswer c st).recordDue = s.recordDue := by
  rw [(sendsTo_helloAnswer s c st).1]

/-- The end of a HELLO: the record of a supply sag is announced after the PF's first one (R401). -/
def State.helloEnd (w : State) (f : Nat) : Result :=
  if f == 0 && w.trust.running && w.recordDue then .next ({ w with recordDue := false }.event 0xFFFF 0 0 0x0A) else .next w

theorem execHello_of_accepted {u : State} {c : Cmd} (h : s.TakesOp f 0x01 c u) (hrun : s.trust.running = true)
    (checks : firstFail [(bits (c.a 3) 0 16 == 0, .badLength), (c.a64 1 % 64 != 0 || c.a64 5 % 8 != 0, .align),
      (decide (vectorsOf f ≤ bits (c.a 3) 16 9) || decide (vectorsOf f ≤ bits (c.a 4) 0 9), .bound)] = none) :
    execHello f s = ((u.onFunc f fun x => { x with ring := some {
      addr := c.a64 1, size := bits (c.a 3) 0 16, vector := bits (c.a 3) 16 9, eventVector := bits (c.a 4) 0 9
      consAddr := c.a64 5 } }).helloAnswer c .ok).helloEnd f := by
  obtain ⟨m, rest, hi, ho, hm, hb, hst, rfl, hc⟩ := h
  have block : (m.block && !(s.func f).bme) = false := by
    cases hbl : m.block <;> simp_all
  have serves : (!s.mailOpen f || m.opc != 1 || (m.block && !(s.func f).bme) || (s.func f).stuffed) = false := by
    have opcode : m.opc = 1 := by simpa using hm
    simp [ho, opcode, block, hst]
  have running : (s.onFunc f fun x => { x with inbox := rest }).trust.running = true := hrun
  unfold execHello
  rw [hi]
  dsimp only
  rw [serves, hc]
  dsimp only
  rw [checks]
  dsimp only
  rw [if_pos running]
  rfl

/-- Settles O11: a HELLO that passes the checks of R325 makes the ring, answers, and announces what is due. -/
theorem helloCreatesTheRing : Obligations.HelloCreatesTheRing := by
  unfold Obligations.HelloCreatesTheRing
  intro s u f c h hrun hsize hring hcons hv he
  have made := execHello_of_accepted h hrun (by
    simp [firstFail, hsize, hring, hcons, Nat.not_le.2 hv, Nat.not_le.2 he])
  obtain ⟨m, rest, _, _, _, _, _, rfl, _⟩ := h
  refine ⟨fun hdue => made.trans (if_neg ?_), fun hf hdue => made.trans (if_pos ?_)⟩
  · cases hdue with
    | inl hf => simp [hf]
    | inr hd => simp [hd]
  · simp [hf, hdue, hrun]

end Sys2Proof.Machine
end

section
/-! SUPPORT. The answers of the SMBus interface (R487-R489). -/

namespace Sys2Proof.Machine

variable {s : State}

section
variable (haon : s.power.aon = true) (htrip : s.power.trip = none)
include haon htrip

theorem State.smbusDo_of_on (run : State → State) : s.smbusDo run = run s := by
  simp [State.smbusDo, State.smbusOn, haon, htrip]

theorem State.smbusRead_of_on (l : State → List Byte) : s.smbusRead l = { s with reply := .data (l s) } :=
  State.smbusDo_of_on haon htrip _

theorem State.smbusBad_of_on : s.smbusBad = { s with smbus := { s.smbus with cml := true }, reply := .nak } :=
  State.smbusDo_of_on haon htrip _

end

theorem State.smbusDo_of_trip (htrip : s.power.trip ≠ none) (run : State → State) : s.smbusDo run = { s with reply := .nak } := by
  have off : s.smbusOn = false := by
    cases h : s.power.trip with
    | none => exact absurd h htrip
    | some _ => simp [State.smbusOn, h]
  simp [State.smbusDo, off]

/-- After a trip a bad transaction is not even a malformed one. -/
theorem execSmbusBadTransaction_of_trip (htrip : s.power.trip ≠ none) (bad : SmbusBad) :
    execSmbusBadTransaction bad s = .next { s with reply := .nak } := by
  have nak : ∀ run : State → State, (.next (s.smbusDo run) : Result) = .next { s with reply := .nak } := fun run =>
    congrArg _ (State.smbusDo_of_trip htrip run)
  unfold execSmbusBadTransaction
  split
  · split
    · next h =>
      unfold smbusCommand at h
      split at h <;> cases h <;> exact nak _
    · exact nak _
  all_goals exact nak _

/-- A transaction that spells no command is malformed. -/
theorem execSmbusBadTransaction_of_none {bad : SmbusBad} (h : ∀ c, bad = .code c → smbusCommand c = none) :
    execSmbusBadTransaction bad s = .next s.smbusBad := by
  unfold execSmbusBadTransaction
  split
  · rw [h _ rfl]
  all_goals rfl

/-- Settles O58: with supply and no trip a read answers its bytes, a write has its effect and a bad transaction sets CML; after
a trip nothing is acknowledged. -/
theorem smbusAnswers : Obligations.SmbusAnswers := by
  unfold Obligations.SmbusAnswers
  intro s bad reads
  refine ⟨fun haon htrip => ?_, fun htrip c hc => ?_, by decide, by decide, -2, -512, by decide⟩
  · have read := fun l => congrArg (Host.Outcome.next (φ := Fault) (ρ := Refusal)) (State.smbusRead_of_on haon htrip l)
    have wake : exec .mfrWake s = .next { s.wakeUp with reply := .done } :=
      congrArg Host.Outcome.next (State.smbusDo_of_on haon htrip fun s => { s.wakeUp with reply := .done })
    refine ⟨?_, ⟨_, congrArg Host.Outcome.next (State.smbusDo_of_on haon htrip _), rfl, rfl, rfl, rfl, rfl⟩, fun hw => ?_,
      fun hsag hent hp => ?_, fun hsag hent hp => ?_, fun hsag hent => ?_, fun hbad => ?_, ?_⟩
    · simp only [reads, List.forall_mem_cons, List.not_mem_nil, false_implies, implies_true, and_true]
      exact ⟨read _, read _, read _, read _, read _, read _, read _, read _, read _, read _, read _, read _, read _, read _,
        read _, read _, read _⟩
    · rw [wake]
      obtain hsag | ⟨hent, hp⟩ := hw
      · simp [State.wakeUp, hsag]
      · cases hsag : s.power.sagHold <;> simp [State.wakeUp, hsag, hent, hp]
    · rw [wake]
      simp [State.wakeUp, hsag, hent, hp]
    · rw [wake]
      obtain hp | hp := hp <;> simp [State.wakeUp, hsag, hent, hp]
    · rw [wake]
      simp [State.wakeUp, hsag, Option.isSome_iff_ne_none.2 hent]
    · exact (execSmbusBadTransaction_of_none hbad).trans (congrArg _ (State.smbusBad_of_on haon htrip))
    · simp only [List.forall_mem_cons, List.not_mem_nil, false_implies, implies_true, and_true]
      refine ⟨rfl, rfl, rfl, rfl, rfl, rfl, rfl, rfl, rfl, rfl, rfl, rfl, rfl, rfl, rfl, rfl, rfl, rfl, rfl⟩
  · have nak : ∀ run : State → State, (.next (s.smbusDo run) : Result) = .next { s with reply := .nak } := fun run =>
      congrArg _ (State.smbusDo_of_trip htrip run)
    revert c
    simp only [reads, List.map_cons, List.map_nil, List.cons_append, List.nil_append, List.forall_mem_cons, List.not_mem_nil,
      false_implies, implies_true, and_true]
    exact ⟨nak _, nak _, nak _, nak _, nak _, nak _, nak _, nak _, nak _, nak _, nak _, nak _, nak _, nak _, nak _, nak _,
      nak _, nak _, nak _, execSmbusBadTransaction_of_trip htrip bad⟩

end Sys2Proof.Machine
end

section
/-! SUPPORT. What sending, an access to device memory and a floodgate leave of the module: each is stated of the module without
the fields that it may change. -/

namespace Sys2Proof.Machine

/-! ### Sending (R327-R330) -/

/-- The module without what sending records, events and words touches. -/
def State.sansSends (s : State) : State := { s with funcs := [], hostMem := [], msixSent := [], log := [] }

theorem State.OnlySends.sansSends_eq {s t : State} (h : s.OnlySends t) : t.sansSends = s.sansSends := by
  unfold State.OnlySends at h
  rw [h]
  rfl

section
variable (s : State)

@[simp] theorem State.addLog_sansSends (a b c d e g : Nat) : (s.addLog a b c d e g).sansSends = s.sansSends := rfl
@[simp] theorem State.onFunc_sansSends (f : Nat) (g : Func → Func) : (s.onFunc f g).sansSends = s.sansSends := rfl

@[simp] theorem State.flush_sansSends (f : Nat) : (s.flush f).sansSends = s.sansSends := (sendsTo_flush s).1.sansSends_eq

@[simp] theorem State.post_sansSends (f tag opc : Nat) (n : Bool) (a : Answer) : (s.post f tag opc n a).sansSends = s.sansSends :=
  (sendsTo_post s tag opc n a).1.sansSends_eq

@[simp] theorem State.complete_sansSends (f tag opc : Nat) (n : Bool) (a : Answer) :
    (s.complete f tag opc n a).sansSends = s.sansSends := (sendsTo_complete s tag opc n a).1.sansSends_eq

@[simp] theorem State.answer_sansSends (c : Cmd) (a : Answer) : (s.answer c a).sansSends = s.sansSends :=
  (sendsTo_answer s c a).1.sansSends_eq

@[simp] theorem State.refuse_sansSends (c : Cmd) (st : Status) : (s.refuse c st).sansSends = s.sansSends :=
  (sendsTo_refuse s c st).1.sansSends_eq

@[simp] theorem State.event_sansSends (p r0 r1 code : Nat) : (s.event p r0 r1 code).sansSends = s.sansSends :=
  (event_only s p r0 r1 code).1.sansSends_eq

@[simp] theorem State.sendWords_sansSends (f : Nat) (ws : List Word) : (s.sendWords f ws).sansSends = s.sansSends :=
  (sendsTo_sendWords s ws).1.sansSends_eq

@[simp] theorem State.hostWrite_getD_sansSends (f a : Nat) (l : List Byte) : ((s.hostWrite f a l).getD s).sansSends = s.sansSends := by
  cases h : s.hostWrite f a l with
  | none => rfl
  | some t => exact (sendsTo_hostWrite (f := f) h).1.sansSends_eq

end

/-! ### Accesses to device memory (R176-R224) -/

/-- A DMA channel without its accesses that wait. -/
def DmaCh.sansWaiting (x : DmaCh) : DmaCh := { x with parked := 0, retryAccess := [] }

/-- The 256 DMA channels without their accesses that wait. -/
@[irreducible] def chanTable (d : Sparse DmaCh) : Sparse DmaCh :=
  (List.range 256).map fun k => (k, (Sparse.get {} d k).sansWaiting)

/-- Equal tables are those of channels that are equal but for their accesses that wait. -/
theorem chanTable_eq_iff {s t : State} :
    chanTable t.dma = chanTable s.dma ↔ ∀ k < 256, (t.chan k).sansWaiting = (s.chan k).sansWaiting := by
  unfold chanTable
  rw [List.map_inj_left]
  simp only [List.mem_range, Prod.mk.injEq, true_and]
  rfl

/-- The module without what an access to device memory touches. -/
def State.sansAccess (s : State) : State :=
  { s.sansSends with
    tcores := [], vcores := [], scores := [], clusters := [], ucm := [], ucmValid := [], ucmBad := [], ucmDies := []
    merges := [], edge := [], edgeBad := [], channels := [], basins := [], dma := chanTable s.dma }

theorem State.sansAccess_of_sansSends {s t : State} (h : t.sansSends = s.sansSends) : t.sansAccess = s.sansAccess :=
  (congrArg State.sansAccess h :)

section
variable (s : State)

@[simp] theorem State.addLog_sansAccess (a b c d e g : Nat) : (s.addLog a b c d e g).sansAccess = s.sansAccess := rfl
@[simp] theorem State.onCluster_sansAccess (n : Nat) (g : Cluster → Cluster) : (s.onCluster n g).sansAccess = s.sansAccess := rfl
@[simp] theorem State.onUcmDie_sansAccess (n : Nat) (g : UcmDie → UcmDie) : (s.onUcmDie n g).sansAccess = s.sansAccess := rfl
@[simp] theorem State.onEdgeCh_sansAccess (n : Nat) (g : EdgeCh → EdgeCh) : (s.onEdgeCh n g).sansAccess = s.sansAccess := rfl
@[simp] theorem State.setEdgeCh_sansAccess (n : Nat) (x : EdgeCh) : (s.setEdgeCh n x).sansAccess = s.sansAccess := rfl
@[simp] theorem State.onBasin_sansAccess (n : Nat) (g : Basin → Basin) : (s.onBasin n g).sansAccess = s.sansAccess := rfl
theorem State.onChan_sansAccess (n : Nat) {g : DmaCh → DmaCh} (hg : ∀ x, (g x).sansWaiting = x.sansWaiting) :
    (s.onChan n g).sansAccess = s.sansAccess := by
  have same : chanTable (s.onChan n g).dma = chanTable s.dma := chanTable_eq_iff.2 fun k _ => by
    rw [State.onChan_chan]
    split
    · next e =>
      subst e
      exact hg _
    · rfl
  exact (congrArg (fun d : Sparse DmaCh => ({ s.sansAccess with dma := d } : State)) same :)
@[simp] theorem State.onTcore_sansAccess (n : Nat) (g : TCore → TCore) : (s.onTcore n g).sansAccess = s.sansAccess := rfl
@[simp] theorem State.onVcore_sansAccess (n : Nat) (g : VCore → VCore) : (s.onVcore n g).sansAccess = s.sansAccess := rfl
@[simp] theorem State.onScore_sansAccess (n : Nat) (g : SCore → SCore) : (s.onScore n g).sansAccess = s.sansAccess := rfl

@[simp] theorem State.merges_sansAccess (m : Sparse (List MergeEntry)) : State.sansAccess { s with merges := m } = s.sansAccess := rfl

@[simp] theorem State.event_sansAccess (p r0 r1 code : Nat) : (s.event p r0 r1 code).sansAccess = s.sansAccess :=
  State.sansAccess_of_sansSends (s.event_sansSends p r0 r1 code)

@[simp] theorem State.corrected_sansAccess (source core word : Nat) (e : Errs) :
    (s.corrected source core word e).sansAccess = s.sansAccess := by
  refine State.each_keeps (fun u sym => ?_) _ _
  split <;> simp

@[simp] theorem State.ucmCount_sansAccess (core : Nat) (b : By) : (s.ucmCount core b).sansAccess = s.sansAccess := by
  unfold State.ucmCount
  split <;> rfl

@[simp] theorem State.ucmRead_sansAccess (core w source : Nat) (flips : List SymErr) (b : By) :
    (s.ucmRead core w source flips b).1.sansAccess = s.sansAccess := by
  unfold State.ucmRead
  dsimp only
  have counted := s.ucmCount_sansAccess core b
  split
  · exact counted
  · split
    · exact counted
    · split
      · exact counted
      · exact (State.corrected_sansAccess _ _ _ _ _).trans counted

@[simp] theorem State.ucmWrite_sansAccess (core w : Nat) (l : List Byte) : (s.ucmWrite core w l).sansAccess = s.sansAccess := rfl

@[simp] theorem State.mergeRetire_sansAccess (core w : Nat) (flips : List SymErr) :
    (s.mergeRetire core w flips).sansAccess = s.sansAccess := by
  unfold State.mergeRetire
  dsimp only
  split
  · rfl
  · split
    · rfl
    · split <;> simp

@[simp] theorem State.mergeWrite_sansAccess (core w o : Nat) (l : List Byte) (func : Nat) :
    (s.mergeWrite core w o l func).sansAccess = s.sansAccess := by
  unfold State.mergeWrite
  generalize Sparse.get [] s.merges core = es
  cases es with
  | nil => dsimp only; split_ifs <;> simp
  | cons m r => dsimp only; split_ifs <;> simp [-State.mergeRetire_ledger, -State.mergeRetire_thermal]

@[simp] theorem State.portTaken_sansAccess (core : Nat) : (s.portTaken core).sansAccess = s.sansAccess := by
  unfold State.portTaken
  split_ifs <;> rfl

@[simp] theorem State.retireFirst_sansAccess (core w : Nat) (flips : List SymErr) :
    (s.retireFirst core w flips).sansAccess = s.sansAccess := by
  unfold State.retireFirst
  split <;> simp

@[simp] theorem State.narrowWrite_sansAccess (core w o : Nat) (l : List Byte) (func : Nat) :
    (s.narrowWrite core w o l func).sansAccess = s.sansAccess := by
  unfold State.narrowWrite
  dsimp only
  split_ifs <;> simp

@[simp] theorem State.aperturePiece_sansAccess (who : Requester) (a : Nat) (acc : Access) (flips : List SymErr) :
    (s.aperturePiece who a acc flips).1.sansAccess = s.sansAccess := by
  unfold State.aperturePiece State.ucmTouch
  dsimp only
  split_ifs
  · rfl
  · rfl
  · cases acc with
    | read n => simp
    | write l => dsimp only; split <;> simp

@[simp] theorem State.aperture_sansAccess (who : Requester) (a : Nat) (acc : Access) (flips : List SymErr) :
    (s.aperture who a acc flips).1.sansAccess = s.sansAccess := by
  unfold State.aperture
  exact pieces_keeps (fun u a acc fl => u.aperturePiece_sansAccess who a acc fl) _ _ _ _ _

@[simp] theorem State.edgeCount_sansAccess (ch kind p n : Nat) : (s.edgeCount ch kind p n).sansAccess = s.sansAccess := rfl

@[simp] theorem State.edgeBad_sansAccess (m : Sparse (List SymErr)) : State.sansAccess { s with edgeBad := m } = s.sansAccess := rfl

@[simp] theorem State.edgeLog_sansAccess (kind addr ch : Nat) (b : By) : (s.edgeLog kind addr ch b).sansAccess = s.sansAccess := rfl

@[simp] theorem State.burstRead_sansAccess (ch off : Nat) (flips : List SymErr) (b : By) :
    (s.burstRead ch off flips b).1.sansAccess = s.sansAccess := by
  have counted := s.edgeCount_sansAccess ch 1 b.polder 1
  unfold State.burstRead
  dsimp only
  generalize s.edgeCount ch 1 b.polder 1 = u at *
  split
  · exact counted
  · split
    · exact counted
    · exact counted

@[simp] theorem State.burstWrite_sansAccess (ch off : Nat) (l : List Byte) (b : By) :
    (s.burstWrite ch off l b).sansAccess = s.sansAccess := rfl

@[simp] theorem State.chWrite_sansAccess (ch : Nat) (b : By) (fuel off : Nat) (l : List Byte) :
    (s.chWrite ch b fuel off l).1.sansAccess = s.sansAccess := by
  induction fuel generalizing s off l with
  | zero => rfl
  | succ n ih =>
    unfold State.chWrite
    dsimp only
    split_ifs <;> simp [ih]

@[simp] theorem State.writeBack_sansAccess (set : Nat) (x : Line) (b : By) : (s.writeBack set x b).sansAccess = s.sansAccess := by
  unfold State.writeBack
  split_ifs <;> rfl

@[simp] theorem State.allocate_sansAccess (ch l : Nat) (data : List Byte) (dirty : Bool) (who : By) :
    (s.allocate ch l data dirty who).sansAccess = s.sansAccess := by
  unfold State.allocate
  dsimp only
  split
  · rfl
  · split <;> simp

@[simp] theorem State.fetchLine_sansAccess (ch l : Nat) (flips : List SymErr) (second : Bool) (b : By) :
    (s.fetchLine ch l flips second b).1.sansAccess = s.sansAccess := by
  refine ite_fst_keeps ?_ ?_ <;> simp

@[simp] theorem State.lookup_sansAccess (ch l : Nat) (flips : List SymErr) (b : By) :
    (s.lookup ch l flips b).1.sansAccess = s.sansAccess := by
  unfold State.lookup
  dsimp only
  split
  · rfl
  · split
    · rfl
    · split_ifs <;> rfl

@[simp] theorem State.basinCount_sansAccess (ch : Nat) (hit : Bool) : (s.basinCount ch hit).sansAccess = s.sansAccess := rfl

@[simp] theorem State.lineRead_sansAccess (ch off n : Nat) (noalloc : Bool) (flips : List SymErr) (b : By) :
    (s.lineRead ch off n noalloc flips b).1.sansAccess = s.sansAccess := by
  unfold State.lineRead
  dsimp only
  split
  · split <;> simp
  · split_ifs <;> simp

@[simp] theorem State.lineWrite_sansAccess (ch off : Nat) (l : List Byte) (who : By) :
    (s.lineWrite ch off l who).1.sansAccess = s.sansAccess := by
  unfold State.lineWrite
  dsimp only
  split
  · split <;> simp
  · split_ifs <;> simp

@[simp] theorem State.serve_sansAccess (ch off : Nat) (acc : Access) (noalloc : Bool) (flips : List SymErr) (b : By) :
    (s.serve ch off acc noalloc flips b).1.sansAccess = s.sansAccess := by
  refine pieces_keeps (fun u o acc fl => ?_) _ _ _ _ _
  cases acc with
  | read n => simp
  | write l => simp

@[simp] theorem State.edgePiece_sansAccess (q : Req) (a : Nat) (acc : Access) (flips : List SymErr) :
    (s.edgePiece q a acc flips).1.sansAccess = s.sansAccess := by
  unfold State.edgePiece
  split
  · rfl
  · refine ite_fst_keeps rfl (ite_fst_keeps rfl (ite_fst_keeps rfl (ite_fst_keeps ?_ ?_)))
    · refine ite_fst_keeps ?_ ?_
      · cases q.who with
        | dma n => exact State.onChan_sansAccess _ n fun x => by split <;> rfl
        | _ => rfl
      · cases q.who with
        | dma n => exact State.onChan_sansAccess _ n fun x => rfl
        | _ => rfl
    · simp

@[simp] theorem State.scratchPiece_sansAccess (b : By) (a : Nat) (acc : Access) (flips : List SymErr) :
    (s.scratchPiece b a acc flips).1.sansAccess = s.sansAccess := by
  unfold State.scratchPiece
  refine ite_fst_keeps rfl (ite_fst_keeps rfl ?_)
  cases acc with
  | read n => exact ite_fst_keeps rfl rfl
  | write l => rfl

/-- What an access to device memory leaves of the module. -/
@[simp] theorem State.access_sansAccess (q : Req) (a : Nat) (acc : Access) (flips : List SymErr) :
    (s.access q a acc flips).1.sansAccess = s.sansAccess := by
  unfold State.access
  refine pieces_keeps (fun u a acc fl => ?_) _ _ _ _ _
  refine ite_fst_keeps rfl (ite_fst_keeps ?_ (ite_fst_keeps ?_ (ite_fst_keeps ?_ rfl)))
  · exact u.edgePiece_sansAccess q a acc fl
  · exact pieces_keeps (one := State.scratchPiece (u.by_ q.who)) (fun v a acc fl => v.scratchPiece_sansAccess _ a acc fl)
      _ _ _ _ _
  · exact u.aperture_sansAccess q.who a acc fl

@[simp] theorem State.writeOut_sansAccess (f out : Nat) (l : List Byte) : (s.writeOut f out l).1.sansAccess = s.sansAccess := by
  unfold State.writeOut
  refine ite_fst_keeps rfl (ite_fst_keeps (ite_fst_keeps rfl (ite_fst_keeps ?_ rfl)) ?_)
  · refine pieces_keeps (fun u a acc fl => ?_) _ _ _ _ _
    exact ite_fst_keeps (u.access_sansAccess _ a acc fl) (u.access_sansAccess _ a acc fl)
  · split
    · next h => exact State.sansAccess_of_sansSends (sendsTo_hostWrite (f := f) h).1.sansSends_eq
    · rfl

end

end Sys2Proof.Machine
end

section
/-! SUPPORT. What the end of a job or a command of a polder leaves of the module and of the other polders (R122, R332, R338). -/

namespace Sys2Proof.Machine

/-! ### Changing one of several units in turn -/

/-- Where the step of a unit changes its own place alone, by what stands there, a pass over distinct units changes each place once. -/
theorem State.each_at {β : Type} {V : State → Nat → β} {g : State → Nat → State} {φ : Nat → β → β}
    (own : ∀ u x, V (g u x) x = φ x (V u x)) (others : ∀ u x y, y ≠ x → V (g u x) y = V u y) :
    ∀ (l : List Nat) (s : State) (y : Nat), l.Nodup → V (s.each l g) y = if y ∈ l then φ y (V s y) else V s y := by
  intro l
  induction l with
  | nil => simp [State.each]
  | cons x r ih =>
    intro s y hd
    obtain ⟨hx, hr⟩ := List.nodup_cons.1 hd
    show V ((g s x).each r g) y = _
    rw [ih (g s x) y hr]
    by_cases hy : y = x
    · subst hy
      simp [hx, own]
    · simp [hy, others s x y hy]

/-- What two outcomes keep, the chosen one keeps. -/
theorem State.ite_keeps {β : Type} {F : State → β} {p : Prop} [Decidable p] {x y : State} {b : β} (hx : F x = b) (hy : F y = b) :
    F (if p then x else y) = b := by
  split
  · exact hx
  · exact hy

theorem Polder.halfDies_nodup (p : Polder) : p.halfDies.Nodup := List.nodup_range.filter _

section
variable (s : State)

/-! ### Units that keep the polders -/

@[simp] theorem State.addLog_polder (a b c d e g k : Nat) : (s.addLog a b c d e g).polder k = s.polder k := rfl

theorem State.polders_of_sansSends {s t : State} (h : t.sansSends = s.sansSends) : t.polders = s.polders :=
  (congrArg State.polders h :)

theorem State.polders_of_sansAccess {s t : State} (h : t.sansAccess = s.sansAccess) : t.polders = s.polders :=
  (congrArg State.polders h :)

@[simp] theorem State.complete_polder (f tag opc : Nat) (n : Bool) (a : Answer) (k : Nat) :
    (s.complete f tag opc n a).polder k = s.polder k := by
  rw [State.polder, State.polders_of_sansSends (s.complete_sansSends f tag opc n a), State.polder]

@[simp] theorem State.answer_polder (c : Cmd) (a : Answer) (k : Nat) : (s.answer c a).polder k = s.polder k :=
  s.complete_polder _ _ _ _ _ _

@[simp] theorem State.event_polder (p r0 r1 code k : Nat) : (s.event p r0 r1 code).polder k = s.polder k := by
  rw [State.polder, State.polders_of_sansSends (s.event_sansSends p r0 r1 code), State.polder]

@[simp] theorem State.writeOut_polder (f out : Nat) (l : List Byte) (k : Nat) : (s.writeOut f out l).1.polder k = s.polder k := by
  rw [State.polder, State.polders_of_sansAccess (s.writeOut_sansAccess f out l), State.polder]

/-- A buffer that nothing is written to needs no access. -/
@[simp] theorem State.writeOut_nil (f out : Nat) : s.writeOut f out [] = (s, .ok) := by
  simp [State.writeOut]

@[simp] theorem State.each_onCluster_polder {α : Type} (l : List α) (n : α → Nat) (g : State → α → Cluster → Cluster) (k : Nat) :
    (s.each l fun u x => u.onCluster (n x) (g u x)).polder k = s.polder k :=
  State.each_keeps (F := fun u : State => u.polder k) (fun u x => by simp) l s

/-! ### The board's orders, sluices and dikes -/

@[simp] theorem State.boardOrder_sansBoard (n kind : Nat) : (s.boardOrder n kind).sansBoard = s.sansBoard :=
  State.each_keeps (fun u _ => u.boardSend_sansBoard _ _ _) _ s

@[simp] theorem State.boardOrder_polder (n kind k : Nat) : (s.boardOrder n kind).polder k = s.polder k := by
  have frame := congrArg State.polders (s.boardOrder_sansBoard n kind)
  exact congrArg (fun m => Sparse.get {} m k) frame

@[simp] theorem State.closeSluices_polder (p k : Nat) : (s.closeSluices p).polder k = s.polder k :=
  State.each_keeps (F := fun u => u.polder k) (g := fun u cl => u.onCluster cl Cluster.close) (fun _ _ => rfl) _ s

@[simp] theorem State.clearDikes_polder (x : Polder) (k : Nat) : (s.clearDikes x).polder k = s.polder k :=
  State.each_keeps (F := fun u => u.polder k) (g := fun u h => u.onHalfDie h _) (fun _ _ => rfl) _ s

/-! ### The end of a command and of a job (R332, R338, R340) -/

/-- The module without what the end of a job that has not reached slot 0 touches. -/
def State.sansEarlyJob (s : State) : State := { s.sansSends with polders := [] }

/-- The module without what the end of a job touches. -/
def State.sansJob (s : State) : State := { s.sansAccess with polders := [] }

/-- A polder without what the end of its command or its job touches. -/
def Polder.sansJob (x : Polder) : Polder :=
  { x with
    job := none, command := none, cycle := 0, peakDown := 0, overDown := 0, quotaDown := 0, rails := [], weir := none
    nextStep := none }

@[simp] theorem State.onPolder_sansEarlyJob (p : Nat) (g : Polder → Polder) : (s.onPolder p g).sansEarlyJob = s.sansEarlyJob := rfl
@[simp] theorem State.onPolder_sansJob (p : Nat) (g : Polder → Polder) : (s.onPolder p g).sansJob = s.sansJob := rfl

@[simp] theorem State.complete_sansEarlyJob (f tag opc : Nat) (n : Bool) (a : Answer) :
    (s.complete f tag opc n a).sansEarlyJob = s.sansEarlyJob :=
  (congrArg State.sansEarlyJob (s.complete_sansSends f tag opc n a) :)

theorem State.sansJob_of_sansEarlyJob {s t : State} (h : t.sansEarlyJob = s.sansEarlyJob) : t.sansJob = s.sansJob :=
  (congrArg State.sansJob h :)

theorem State.sansJob_of_sansAccess {s t : State} (h : t.sansAccess = s.sansAccess) : t.sansJob = s.sansJob :=
  (congrArg (fun u : State => { u with polders := [] }) h :)

@[simp] theorem State.endCommand_sansEarlyJob (p : Nat) (st : Status) : (s.endCommand p st).sansEarlyJob = s.sansEarlyJob := by
  unfold State.endCommand
  split <;> simp

theorem State.endCommand_polder_of_ne {p k : Nat} (h : k ≠ p) (st : Status) : (s.endCommand p st).polder k = s.polder k := by
  unfold State.endCommand
  split <;> simp [h.symm]

@[simp] theorem State.endCommand_polder (p : Nat) (st : Status) :
    (s.endCommand p st).polder p = { s.polder p with command := none } := by
  unfold State.endCommand
  split
  · next h => rw [← h]
  · simp

@[simp] theorem State.endSave_sansEarlyJob (p : Nat) : (s.endSave p).sansEarlyJob = s.sansEarlyJob := by
  unfold State.endSave
  split <;> simp

theorem State.endSave_polder_of_ne {p k : Nat} (h : k ≠ p) : (s.endSave p).polder k = s.polder k := by
  unfold State.endSave
  split
  · exact s.endCommand_polder_of_ne h _
  · rfl

/-- Ending a save that waits takes the polder's command, and nothing else of it. -/
theorem State.endSave_polder (p : Nat) : ∃ c, (s.endSave p).polder p = { s.polder p with command := c } := by
  unfold State.endSave
  split
  · exact ⟨none, s.endCommand_polder p _⟩
  · exact ⟨(s.polder p).command, rfl⟩

theorem State.countCycles_sansJob (p : Nat) : (s.countCycles p).sansJob = s.sansJob := by
  unfold State.countCycles
  rw [State.onPolder_sansJob]
  refine State.each_keeps (F := State.sansJob) (fun u cl => ?_) _ s
  rfl

theorem State.countCycles_polder (p k : Nat) :
    (s.countCycles p).polder k = if p = k then { s.polder p with cycle := 0 } else s.polder k := by
  simp [State.countCycles]

/-- The state as a job has ended, before its log and its record. -/
def State.jobCleared (s : State) (p : Nat) (j : Job) : State :=
  State.onPolder (if j.phase == .running then (s.endSave p).countCycles p else s.endSave p) p fun x => { x with
    job := none, peakDown := 0, overDown := 0, quotaDown := 0, rails := [], weir := none, nextStep := none }

theorem State.finishJob_of_none {p : Nat} (h : (s.polder p).job = none) (st : Status) (extra : Nat) : s.finishJob p st extra = s := by
  simp [State.finishJob, h]

/-- A job ends cleared, and then logged and recorded where its command is still known and firmware runs; only one that has run
has a log. -/
theorem State.finishJob_of_some {p : Nat} {j : Job} (h : (s.polder p).job = some j) (st : Status) (extra : Nat) :
    ∃ (l : List Byte) (a : Answer), (j.phase ≠ .running → l = []) ∧ s.finishJob p st extra =
      if j.silent || !(s.jobCleared p j).trust.running then s.jobCleared p j
      else (((s.jobCleared p j).writeOut j.func j.outAddr l).1.complete j.func j.tag j.opc j.notify a) := by
  unfold State.finishJob
  rw [h]
  refine ⟨if j.phase == .running && j.outAddr != 0 then (s.jobCleared p j).jobLog p else [], _, fun hn => ?_, rfl⟩
  simp [hn]

section
variable (p : Nat) (j : Job)

theorem State.jobCleared_sansJob : (s.jobCleared p j).sansJob = s.sansJob := by
  have saved := State.sansJob_of_sansEarlyJob (s.endSave_sansEarlyJob p)
  rw [State.jobCleared, State.onPolder_sansJob]
  split
  · exact (State.countCycles_sansJob _ p).trans saved
  · exact saved

theorem State.jobCleared_sansEarlyJob (h : j.phase ≠ .running) : (s.jobCleared p j).sansEarlyJob = s.sansEarlyJob := by
  simp [State.jobCleared, h]

theorem State.jobCleared_polder_of_ne {k : Nat} (h : k ≠ p) : (s.jobCleared p j).polder k = s.polder k := by
  rw [State.jobCleared, State.onPolder_polder, if_neg h.symm, ← s.endSave_polder_of_ne h]
  split
  · simp [State.countCycles_polder, h.symm]
  · rfl

theorem State.jobCleared_polder : ((s.jobCleared p j).polder p).sansJob = (s.polder p).sansJob
    ∧ ((s.jobCleared p j).polder p).job = none := by
  obtain ⟨c, saved⟩ := s.endSave_polder p
  rw [State.jobCleared, State.onPolder_polder, if_pos rfl]
  refine ⟨?_, rfl⟩
  split
  · rw [State.countCycles_polder, if_pos rfl, saved]
    rfl
  · rw [saved]
    rfl

end

/-- What the end of a job leaves of the module. -/
@[simp] theorem State.finishJob_sansJob (p : Nat) (st : Status) (extra : Nat) : (s.finishJob p st extra).sansJob = s.sansJob := by
  cases h : (s.polder p).job with
  | none => rw [s.finishJob_of_none h]
  | some j =>
    obtain ⟨l, a, _, finished⟩ := s.finishJob_of_some h st extra
    rw [finished, ← s.jobCleared_sansJob p j]
    refine State.ite_keeps rfl ?_
    exact (State.sansJob_of_sansEarlyJob (State.complete_sansEarlyJob _ _ _ _ _ _)).trans
      (State.sansJob_of_sansAccess (State.writeOut_sansAccess _ _ _ _))

/-- A job that has not reached slot 0 has no log, and ends without an access to memory. -/
theorem State.finishJob_sansEarlyJob {p : Nat} (he : ∀ j, (s.polder p).job = some j → j.phase ≠ .running) (st : Status)
    (extra : Nat) : (s.finishJob p st extra).sansEarlyJob = s.sansEarlyJob := by
  cases h : (s.polder p).job with
  | none => rw [s.finishJob_of_none h]
  | some j =>
    obtain ⟨l, a, early, finished⟩ := s.finishJob_of_some h st extra
    rw [finished, early (he j h), State.writeOut_nil, ← s.jobCleared_sansEarlyJob p j (he j h)]
    exact State.ite_keeps rfl (State.complete_sansEarlyJob _ _ _ _ _ _)

theorem State.finishJob_polder_of_cleared {p k : Nat} {j : Job} (h : (s.polder p).job = some j) (st : Status) (extra : Nat) :
    (s.finishJob p st extra).polder k = (s.jobCleared p j).polder k := by
  obtain ⟨l, a, _, finished⟩ := s.finishJob_of_some h st extra
  rw [finished]
  refine State.ite_keeps (F := fun u => u.polder k) rfl ?_
  rw [State.complete_polder, State.writeOut_polder]

theorem State.finishJob_polder_of_ne {p k : Nat} (hk : k ≠ p) (st : Status) (extra : Nat) :
    (s.finishJob p st extra).polder k = s.polder k := by
  cases h : (s.polder p).job with
  | none => rw [s.finishJob_of_none h]
  | some j => rw [s.finishJob_polder_of_cleared h, s.jobCleared_polder_of_ne p j hk]

/-- A polder whose job has ended: it has no job, and only what belongs to a job or a command of it has changed. -/
theorem State.finishJob_polder (p : Nat) (st : Status) (extra : Nat) :
    ((s.finishJob p st extra).polder p).sansJob = (s.polder p).sansJob ∧ ((s.finishJob p st extra).polder p).job = none := by
  cases h : (s.polder p).job with
  | none => rw [s.finishJob_of_none h]; exact ⟨rfl, h⟩
  | some j => rw [s.finishJob_polder_of_cleared h]; exact s.jobCleared_polder p j

end

end Sys2Proof.Machine
end

section
/-! PROOF. POLDER_CREATE (R161) makes an empty polder of a free rectangle, and completes at the tide mark. -/

namespace Sys2Proof.Machine

/-! ### Half-dies woken, dikes and crossings -/

/-- A half-die as it is woken: one that naps is IDLE at once (R390). -/
def HalfDie.woken (x : HalfDie) : HalfDie := if x.power = .nap then { x with power := .idle } else x

/-- A rail as its half-die is woken: it is requested for a half-die that is OFF (R397). -/
def Rail.woken (r : Rail) (x : HalfDie) : Rail := if x.power = .off then r.ask { up := true } else r

/-- The dike masks of a half-die of a rectangle (R164). -/
def HalfDie.diked (p : Polder) (h : Nat) (x : HalfDie) : HalfDie :=
  { x with
    dikeN := h / 12 == p.r0
    dikeS := h / 12 + 1 == p.r0 + p.h
    dikeW := h % 12 == p.c0
    dikeE := h % 12 + 1 == p.c0 + p.w }

/-- The module without what the creation of a polder touches. -/
def State.sansCreate (s : State) : State :=
  { s.sansSends with polders := [], halfDies := [], ucmDies := [], narrowed := [], ledger := {}, board := [], boardLost := [], boardErrors := [] }

/-- A polder without what the training of its crossings sets. -/
def Polder.sansTrain (x : Polder) : Polder := { x with widths := [], retrain := false, narrow := false }

section
variable (s : State)

/-- Waking one half-die. -/
def State.wakeOne (s : State) (h : Nat) : State :=
  match (s.halfDie h).power with
  | .nap => s.reachIdle h
  | .off => s.askRails [h] { up := true }
  | _ => s

theorem State.wakeHalfDies_eq (hs : List Nat) : s.wakeHalfDies hs = s.each hs State.wakeOne := rfl

theorem State.reachIdle_of_nap {h : Nat} (hn : (s.halfDie h).power = .nap) :
    s.reachIdle h = (s.onUcmDie (h / 2) fun x => { x with selfRefresh := false }).onHalfDie h
      fun x => if x.power == .off then { x with power := .idle, tide := 0, tidePart := 0, markDue := false, step := 0 }
        else { x with power := .idle } := by
  have up : (((s.onUcmDie (h / 2) fun x => { x with selfRefresh := false }).halfDie h).power == .off) = false := by
    rw [State.onUcmDie_halfDie, hn]; rfl
  simp only [State.reachIdle, up, Bool.false_and, Bool.false_eq_true, if_false]

theorem State.wakeOne_sansCreate (h : Nat) : (s.wakeOne h).sansCreate = s.sansCreate := by
  unfold State.wakeOne
  split
  · next hn => rw [s.reachIdle_of_nap hn]; rfl
  · rfl
  · rfl

theorem State.wakeOne_polder (h k : Nat) : (s.wakeOne h).polder k = s.polder k := by
  unfold State.wakeOne
  split
  · next hn => rw [s.reachIdle_of_nap hn]; rfl
  · rfl
  · rfl

theorem State.wakeOne_at (h : Nat) : ((s.wakeOne h).halfDie h, (s.wakeOne h).rail h)
    = ((s.halfDie h).woken, (s.rail h).woken (s.halfDie h)) := by
  unfold State.wakeOne HalfDie.woken Rail.woken
  cases hp : (s.halfDie h).power with
  | nap =>
    rw [s.reachIdle_of_nap hp]
    simp [hp, State.rail]
  | off =>
    simp [State.askRails, State.each, State.onRail, State.rail]
    rfl
  | _ => simp

theorem State.wakeOne_other {h k : Nat} (hk : k ≠ h) : ((s.wakeOne h).halfDie k, (s.wakeOne h).rail k)
    = (s.halfDie k, s.rail k) := by
  unfold State.wakeOne
  cases hp : (s.halfDie h).power with
  | nap =>
    rw [s.reachIdle_of_nap hp]
    simp [State.rail, hk.symm]
  | off =>
    simp [State.askRails, State.each, State.onRail, State.rail, hk.symm]
    rfl
  | _ => rfl

theorem State.wakeHalfDies_sansCreate (hs : List Nat) : (s.wakeHalfDies hs).sansCreate = s.sansCreate :=
  State.each_keeps (F := State.sansCreate) (fun u h => u.wakeOne_sansCreate h) hs s

@[simp] theorem State.wakeHalfDies_polder (hs : List Nat) (k : Nat) : (s.wakeHalfDies hs).polder k = s.polder k :=
  State.each_keeps (F := fun u => u.polder k) (fun u h => u.wakeOne_polder h k) hs s

theorem State.wakeHalfDies_at {hs : List Nat} (hd : hs.Nodup) (k : Nat) :
    ((s.wakeHalfDies hs).halfDie k, (s.wakeHalfDies hs).rail k)
      = if k ∈ hs then ((s.halfDie k).woken, (s.rail k).woken (s.halfDie k)) else (s.halfDie k, s.rail k) :=
  State.each_at (V := fun u h => (u.halfDie h, u.rail h)) (φ := fun _ v => (v.1.woken, v.2.woken v.1))
    (fun u h => u.wakeOne_at h) (fun u _ _ hne => u.wakeOne_other hne) hs s k hd

theorem State.setDikes_eq (p : Polder) : s.setDikes p = s.each p.halfDies fun u h => u.onHalfDie h (HalfDie.diked p h) := rfl

theorem State.setDikes_halfDie (p : Polder) (k : Nat) :
    (s.setDikes p).halfDie k = if k ∈ p.halfDies then (s.halfDie k).diked p k else s.halfDie k :=
  State.each_at (V := State.halfDie) (φ := HalfDie.diked p)
    (fun u h => by simp [HalfDie.diked]) (fun u x y hne => by simp [hne.symm]) p.halfDies s k p.halfDies_nodup

theorem State.setDikes_sansCreate (p : Polder) : (s.setDikes p).sansCreate = s.sansCreate :=
  State.each_keeps (F := State.sansCreate) (g := fun u h => u.onHalfDie h (HalfDie.diked p h)) (fun _ _ => rfl) p.halfDies s

@[simp] theorem State.setDikes_polder (p : Polder) (k : Nat) : (s.setDikes p).polder k = s.polder k :=
  State.each_keeps (F := fun u => u.polder k) (g := fun u h => u.onHalfDie h (HalfDie.diked p h)) (fun _ _ => rfl) p.halfDies s

@[simp] theorem State.setDikes_rail (p : Polder) (k : Nat) : (s.setDikes p).rail k = s.rail k :=
  State.each_keeps (F := fun u => u.rail k) (g := fun u h => u.onHalfDie h (HalfDie.diked p h)) (fun _ _ => rfl) p.halfDies s

/-- The crossing of two dies trains (R174, R175). -/
def State.trainOne (known : Sparse Nat) (n : Nat) (offers : List Offer) (s : State) (x : Nat × Nat × Bool) : State :=
  if agreed known offers x.1 x.2.1 < 4 then
    State.event { s with narrowed := Sparse.set false s.narrowed (x.1 * 16 + x.2.1) true } n (x.1 + x.2.1 * 2 ^ 8)
      (agreed known offers x.1 x.2.1) 0x01
  else s

theorem State.trainOne_keeps {β : Type} {F : State → β} (hs : ∀ u v : State, v.sansSends = u.sansSends → F v = F u)
    (hn : ∀ (u : State) m, F { u with narrowed := m } = F u) (known : Sparse Nat) (n : Nat) (offers : List Offer) (x : Nat × Nat × Bool) :
    F (s.trainOne known n offers x) = F s := by
  unfold State.trainOne
  split
  · rw [hs _ _ (State.event_sansSends _ _ _ _ _), hn]
  · rfl

/-- The widths that a polder's crossings agree. -/
def Polder.trained (known : Sparse Nat) (offers : List Offer) (p : Polder) : Polder :=
  { p with
    widths := p.crossings.foldl (fun m x => Sparse.set 0 m (x.1 * 16 + x.2.1) (agreed known offers x.1 x.2.1)) []
    retrain := false }

theorem State.trainCrossings_eq (n : Nat) (offers : List Offer) : s.trainCrossings n offers =
    State.onPolder
      ((s.onPolder n (Polder.trained s.repair.store.widths offers)).each
        ((s.onPolder n (Polder.trained s.repair.store.widths offers)).polder n).crossings
        (State.trainOne s.repair.store.widths n offers)) n
      fun p => { p with
        narrow := ((s.onPolder n (Polder.trained s.repair.store.widths offers)).polder n).crossings.any fun x =>
          Sparse.get false (((s.onPolder n (Polder.trained s.repair.store.widths offers)).each
            ((s.onPolder n (Polder.trained s.repair.store.widths offers)).polder n).crossings
            (State.trainOne s.repair.store.widths n offers))).narrowed (x.1 * 16 + x.2.1) } := rfl

/-- Training crossings keeps what neither sending nor the record of narrow crossings touches, nor the polder itself. -/
theorem State.trainCrossings_keeps {β : Type} {F : State → β} (hs : ∀ u v : State, v.sansSends = u.sansSends → F v = F u)
    (hn : ∀ (u : State) m, F { u with narrowed := m } = F u) (n : Nat)
    (hp : ∀ (u : State) g, (∀ x : Polder, (g x).sansTrain = x.sansTrain) → F (u.onPolder n g) = F u) (offers : List Offer) :
    F (s.trainCrossings n offers) = F s := by
  rw [s.trainCrossings_eq, hp, State.each_keeps (F := F) (fun u x => u.trainOne_keeps hs hn _ _ _ x), hp] <;> exact fun _ => rfl

theorem State.trainCrossings_sansCreate (n : Nat) (offers : List Offer) : (s.trainCrossings n offers).sansCreate = s.sansCreate :=
  s.trainCrossings_keeps (F := State.sansCreate)
    (fun _ _ h => (congrArg (fun w : State => { w with
      polders := [], halfDies := [], ucmDies := [], narrowed := [], ledger := {}, board := [], boardLost := [], boardErrors := [] }) h :))
    (fun _ _ => rfl) n (fun _ _ _ => rfl) offers

@[simp] theorem State.trainCrossings_halfDie (n : Nat) (offers : List Offer) (k : Nat) :
    (s.trainCrossings n offers).halfDie k = s.halfDie k :=
  s.trainCrossings_keeps (F := fun u => u.halfDie k) (fun _ _ h => (congrArg (fun w => w.halfDie k) h :))
    (fun _ _ => rfl) n (fun _ _ _ => rfl) offers

@[simp] theorem State.trainCrossings_rail (n : Nat) (offers : List Offer) (k : Nat) :
    (s.trainCrossings n offers).rail k = s.rail k :=
  s.trainCrossings_keeps (F := fun u => u.rail k) (fun _ _ h => (congrArg (fun w => w.rail k) h :))
    (fun _ _ => rfl) n (fun _ _ _ => rfl) offers

theorem State.trainCrossings_polder_of_ne {n k : Nat} (hk : k ≠ n) (offers : List Offer) :
    (s.trainCrossings n offers).polder k = s.polder k :=
  s.trainCrossings_keeps (F := fun u => u.polder k) (fun _ _ h => (congrArg (fun w => w.polder k) h :))
    (fun _ _ => rfl) n (fun u g _ => by simp [hk.symm]) offers

theorem State.trainCrossings_polder (n : Nat) (offers : List Offer) :
    ((s.trainCrossings n offers).polder n).sansTrain = (s.polder n).sansTrain :=
  s.trainCrossings_keeps (F := fun u => (u.polder n).sansTrain) (fun _ _ h => (congrArg (fun w => (w.polder n).sansTrain) h :))
    (fun _ _ => rfl) n (fun u g hg => by simp [hg]) offers

theorem State.boardOrder_sansCreate (n kind : Nat) : (s.boardOrder n kind).sansCreate = s.sansCreate :=
  (congrArg (fun w : State => { w with
      funcs := [], hostMem := [], msixSent := [], polders := [], halfDies := [], ucmDies := [], narrowed := [], ledger := {} })
    (s.boardOrder_sansBoard n kind) :)

@[simp] theorem State.boardOrder_halfDie (n kind k : Nat) : (s.boardOrder n kind).halfDie k = s.halfDie k :=
  (congrArg (fun w => w.halfDie k) (s.boardOrder_sansBoard n kind) :)

@[simp] theorem State.boardOrder_rail (n kind k : Nat) : (s.boardOrder n kind).rail k = s.rail k :=
  (congrArg (fun w => w.rail k) (s.boardOrder_sansBoard n kind) :)

/-! ### The rows -/

/-- The rectangle that A1 of POLDER_CREATE names (R161). -/
def Cmd.rectangle (c : Cmd) : Polder :=
  { state := .empty, c0 := bits (c.a 1) 0 4, r0 := bits (c.a 1) 4 1, w := bits (c.a 1) 8 4, h := bits (c.a 1) 12 2 }

/-- The rows of the half-dies of a rectangle: the smallest count (R159). -/
def State.rowsOf (s : State) (p : Polder) : Nat := (p.halfDies.map fun h => (s.halfDie h).rows).foldl min 28

/-- The polder that POLDER_CREATE makes, as its crossings train. -/
def State.createdPolder (s : State) (f : Nat) (c : Cmd) : Polder :=
  let p := { c.rectangle with rows := s.rowsOf c.rectangle, command := some ⟨f, c.tag, c.opc, c.notify, 0, 0, false, false⟩ }
  let low := s.halfDie (c.rectangle.halfDies.headD 0)
  let p := { p with fenced := s.hasFence p }
  if low.power == .off then p
  else { p with tide := low.tide, tidePart := low.tidePart, markDue := low.markDue, step := low.step, nextStep := some 0 }

/-- The state as the number is taken. -/
def State.withPolder (s : State) (n : Nat) (p : Polder) : State :=
  { s.setPolder n p with ledger := { s.ledger with meters := Sparse.set {} s.ledger.meters (mPolder n) {} } }

/-- The state as the creation waits for the tide mark. -/
def State.created (s : State) (n : Nat) (p : Polder) (hs : List Nat) (offers : List Offer) : State :=
  ((((s.withPolder n p).wakeHalfDies hs).setDikes p).trainCrossings n offers).boardOrder n 4

/-- What POLDER_CREATE sets in the new polder. -/
structure Polder.CreatedFrom (x p : Polder) (rows : Nat) (cmd : InFlight) : Prop where
  state : x.state = .empty
  c0 : x.c0 = p.c0
  r0 : x.r0 = p.r0
  w : x.w = p.w
  h : x.h = p.h
  rows : x.rows = rows
  command : x.command = some cmd
  job : x.job = none

theorem State.createdPolder_from (f : Nat) (c : Cmd) : (s.createdPolder f c).CreatedFrom c.rectangle (s.rowsOf c.rectangle)
    ⟨f, c.tag, c.opc, c.notify, 0, 0, false, false⟩ := by
  unfold State.createdPolder
  dsimp only
  split <;> constructor <;> rfl

theorem State.createdPolder_halfDies (f : Nat) (c : Cmd) : (s.createdPolder f c).halfDies = c.rectangle.halfDies := by
  obtain ⟨hstate, hc, hr, hw, hh, -, -, -⟩ := s.createdPolder_from f c
  have same : (s.createdPolder f c).holds? = c.rectangle.holds? := by
    funext h
    rw [Polder.holds?, hstate, hc, hr, hw, hh]
    rfl
  rw [Polder.halfDies, same, Polder.halfDies]

theorem Polder.CreatedFrom.of_sansTrain {x y p : Polder} {rows : Nat} {cmd : InFlight} (h : x.CreatedFrom p rows cmd)
    (hy : y.sansTrain = x.sansTrain) : y.CreatedFrom p rows cmd where
  state := (congrArg Polder.state hy :).trans h.state
  c0 := (congrArg Polder.c0 hy :).trans h.c0
  r0 := (congrArg Polder.r0 hy :).trans h.r0
  w := (congrArg Polder.w hy :).trans h.w
  h := (congrArg Polder.h hy :).trans h.h
  rows := (congrArg Polder.rows hy :).trans h.rows
  command := (congrArg Polder.command hy :).trans h.command
  job := (congrArg Polder.job hy :).trans h.job

variable (n : Nat) (p : Polder) (hs : List Nat) (offers : List Offer)

theorem State.withPolder_polder (k : Nat) : (s.withPolder n p).polder k = if n = k then p else s.polder k :=
  State.setPolder_polder (x := p) ..

theorem State.created_polder : ((s.created n p hs offers).polder n).sansTrain = p.sansTrain := by
  simp [State.created, State.trainCrossings_polder, State.withPolder_polder]

theorem State.created_polder_of_ne {k : Nat} (hk : k ≠ n) : (s.created n p hs offers).polder k = s.polder k := by
  simp [State.created, State.trainCrossings_polder_of_ne, State.withPolder_polder, hk, hk.symm]

theorem State.created_sansCreate : (s.created n p hs offers).sansCreate = s.sansCreate := by
  rw [State.created, State.boardOrder_sansCreate, State.trainCrossings_sansCreate, State.setDikes_sansCreate,
    State.wakeHalfDies_sansCreate]
  rfl

theorem State.created_at (k : Nat) : ((s.created n p p.halfDies offers).halfDie k, (s.created n p p.halfDies offers).rail k)
    = if k ∈ p.halfDies then ((s.halfDie k).woken.diked p k, (s.rail k).woken (s.halfDie k)) else (s.halfDie k, s.rail k) := by
  have woken := (s.withPolder n p).wakeHalfDies_at p.halfDies_nodup k
  simp only [State.created, State.boardOrder_halfDie, State.boardOrder_rail, State.trainCrossings_halfDie,
    State.trainCrossings_rail, State.setDikes_halfDie, State.setDikes_rail]
  split_ifs at woken ⊢ with hk
  · exact congrArg (fun v : HalfDie × Rail => (v.1.diked p k, v.2)) woken
  · exact woken

end

/-- The checks of POLDER_CREATE (R161). -/
def State.createFail (s : State) (p : Polder) : Option Status :=
  firstFail [
    (p.w == 0 || p.h == 0, .badLength), (decide (12 < p.c0 + p.w) || decide (2 < p.r0 + p.h), .bound),
    ((p.halfDies.any fun h => s.polderOf h != 31 || s.dieShut h) || s.thermal.coolantHold, .busy),
    (s.rowsOf p == 0, .degraded), (s.power.pkg == .p2, .domainOff)]

/-- What POLDER_CREATE needs of its rectangle and of the package (R161). -/
theorem execPolderCreate_of_free {s u : State} {f n : Nat} {c : Cmd} (offers : List Offer) (h : s.TakesOp f 0x10 c u)
    (hw : c.rectangle.w ≠ 0) (hh : c.rectangle.h ≠ 0) (hc : c.rectangle.c0 + c.rectangle.w ≤ 12)
    (hr : c.rectangle.r0 + c.rectangle.h ≤ 2) (hfree : ∀ h ∈ c.rectangle.halfDies, u.polderOf h = 31 ∧ u.dieShut h = false)
    (hrows : u.rowsOf c.rectangle ≠ 0) (hcool : u.thermal.coolantHold = false) (hpkg : u.power.pkg ≠ .p2)
    (hn : n < 24) (hnone : (u.polder n).state = .none) (hlow : ∀ k < n, (u.polder k).state ≠ .none) :
    exec (.polderCreate f offers) s
      = .next (u.created n (u.createdPolder f c) (u.createdPolder f c).halfDies offers) := by
  have free : (c.rectangle.halfDies.any fun h => u.polderOf h != 31 || u.dieShut h) = false := by
    rw [List.any_eq_false]
    intro k hk
    simp [(hfree k hk).1, (hfree k hk).2]
  have lowest : ((List.range 24).find? fun i => (u.polder i).state == .none) = some n := by
    rw [List.find?_range_eq_some]
    exact ⟨by simp [hnone], by simpa using hn, fun j hj => by simpa using hlow j hj⟩
  have checks : u.createFail c.rectangle = none := by
    simp [State.createFail, firstFail, hw, hh, Nat.not_lt.2 hc, Nat.not_lt.2 hr, free, hrows, hcool, hpkg]
  refine congrArg Host.Outcome.next ((command_of_takesOp _ h).trans ?_)
  rw [u.createdPolder_halfDies]
  show (match u.createFail c.rectangle with
    | some st => u.refuse c st
    | none => u.created (((List.range 24).find? fun i => (u.polder i).state == PState.none).getD 0) (u.createdPolder f c)
        c.rectangle.halfDies offers) = _
  rw [checks, lowest]
  rfl

end Sys2Proof.Machine

open Sys2Proof Sys2Proof.Machine

/-- Settles O12: each stage of the creation keeps what it does not touch; waking and dikes change each half-die at its own
place, and only the training of its crossings changes the new polder. -/
theorem polderCreateMakesAnEmptyPolder : Obligations.PolderCreateMakesAnEmptyPolder := by
  refine ⟨?_, ?_⟩
  · intro s u f c offers n h p rows hw hh hc hr hfree hrows hcool hpkg hn hnone hlow
    obtain ⟨m, rest, -, -, -, -, -, rfl, -⟩ := id h
    have halfDies := State.createdPolder_halfDies (s.onFunc f fun x => { x with inbox := rest }) f c
    have from_ := State.createdPolder_from (s.onFunc f fun x => { x with inbox := rest }) f c
    have made := execPolderCreate_of_free offers h hw hh hc hr hfree hrows hcool hpkg hn hnone hlow
    generalize State.createdPolder (s.onFunc f fun x => { x with inbox := rest }) f c = x at halfDies from_ made
    obtain ⟨hstate, hc0, hr0, hw', hh', hrows', hcmd, hjob⟩ := from_.of_sansTrain (State.created_polder _ n x x.halfDies offers)
    have places := State.created_at (s.onFunc f fun x => { x with inbox := rest }) n x offers
    have frame := State.created_sansCreate (s.onFunc f fun x => { x with inbox := rest }) n x x.halfDies offers
    have others : ∀ k, k ≠ n → _ := fun k hk =>
      State.created_polder_of_ne (s.onFunc f fun x => { x with inbox := rest }) n x x.halfDies offers hk
    generalize State.created (s.onFunc f fun x => { x with inbox := rest }) n x x.halfDies offers = t at *
    simp only [halfDies] at places
    refine ⟨t, made, hstate, hc0, hr0, hw', hh', hrows', hcmd, hjob, others, fun k hk => ?_, fun k hk => ?_, fun k hk => ?_, ?_⟩
    · have place : t.halfDie k = (s.halfDie k).woken.diked x k := congrArg Prod.fst ((places k).trans (if_pos hk))
      rw [place]
      rw [show p = c.rectangle from rfl, ← from_.c0, ← from_.r0, ← from_.w, ← from_.h]
      exact ⟨rfl, rfl, rfl, rfl⟩
    · have place : t.halfDie k = (s.halfDie k).woken.diked x k := congrArg Prod.fst ((places k).trans (if_pos hk))
      have rail : t.rail k = (s.rail k).woken (s.halfDie k) := congrArg Prod.snd ((places k).trans (if_pos hk))
      rw [place, rail]
      refine ⟨?_, fun hoff => if_pos hoff⟩
      show (HalfDie.woken _).power = _
      unfold HalfDie.woken
      split <;> rfl
    · exact congrArg Prod.fst ((places k).trans (if_neg hk))
    · exact (congrArg (fun w : State => { w with
        polders := t.polders, halfDies := t.halfDies, ucmDies := t.ucmDies, narrowed := t.narrowed
        ledger := t.ledger, funcs := t.funcs, hostMem := t.hostMem, msixSent := t.msixSent, log := t.log
        board := t.board, boardLost := t.boardLost, boardErrors := t.boardErrors }) frame :)
  · intro s p c hc hop hst hm hpow
    have on : s.powered (s.polder p) = true := by
      rw [State.powered, List.all_eq_true]
      exact fun k hk => by simpa using hpow k hk
    have done : execPolderCreateComplete p s = .next ((s.onPolder p fun x => { x with command := none }).complete
        c.func c.tag c.opc c.notify
        { polder := p, r0 := ((s.onPolder p fun x => { x with command := none }).polder p).shape, r1 := p }) := by
      simp only [execPolderCreateComplete, hc, hop, hst, hm, on]
      rfl
    rw [State.onPolder_polder, if_pos rfl] at done
    have shape : Polder.shape { s.polder p with command := none } =
        shapeClass (s.polder p).c0 (s.polder p).w (s.polder p).h (s.polder p).rows := by
      simp [Polder.shape, Polder.exists_, hst]
    rw [shape] at done
    exact done
end

section
/-! PROOF. POLDER_DESTROY (R162, R302, R353) frees the half-dies, the mappings and the quota of its polder. -/

namespace Sys2Proof.Machine

/-- A half-die as its polder's rectangle is given up (R162, R500). -/
def HalfDie.freed (p : Polder) (x : HalfDie) : HalfDie :=
  { x with
    dikeN := false, dikeE := false, dikeS := false, dikeW := false
    tide := p.tide, tidePart := p.tidePart, markDue := p.markDue, step := p.step
    power := if x.power == .active then .idle else x.power }

/-- The module's units that the destruction of a polder keeps, and the map of the VFs. -/
def State.aroundPolders (s : State) : (Sparse Bool × Memory × Memory × Sparse Link × Trust) × Sparse Nat :=
  ((s.hostErr, s.ucm, s.edge, s.links, s.trust), s.vfMap)

/-- The state as the polder's number is given up. -/
def State.unmapped (s : State) (n : Nat) : State :=
  { s.setPolder n {} with
    vfMap := Sparse.drop (fun v => Sparse.get 31 s.vfMap v == n) s.vfMap
    ledger := { s.ledger with quotas := Sparse.set 0 s.ledger.quotas n 0 } }

section
variable (s : State) (p : Polder)

theorem State.clearDikes_eq : s.clearDikes p = s.each p.halfDies fun u h => u.onHalfDie h (HalfDie.freed p) := rfl

theorem State.clearDikes_halfDie (k : Nat) :
    (s.clearDikes p).halfDie k = if k ∈ p.halfDies then (s.halfDie k).freed p else s.halfDie k :=
  State.each_at (V := State.halfDie) (φ := fun _ => HalfDie.freed p)
    (fun u h => (State.onHalfDie_halfDie ..).trans (if_pos rfl)) (fun u x y hne => by simp [hne.symm]) p.halfDies s k p.halfDies_nodup

theorem State.finishJob_early_aroundPolders {n : Nat} (he : ∀ j, (s.polder n).job = some j → j.phase ≠ .running) (st : Status)
    (extra : Nat) : (s.finishJob n st extra).aroundPolders = s.aroundPolders :=
  (congrArg State.aroundPolders (s.finishJob_sansEarlyJob he st extra) :)

theorem State.clearDikes_aroundPolders : (s.clearDikes p).aroundPolders = s.aroundPolders := by
  rw [s.clearDikes_eq]
  exact State.each_keeps (F := State.aroundPolders) (g := fun u h => u.onHalfDie h (HalfDie.freed p)) (fun _ _ => rfl) _ s

theorem State.closeSluices_aroundPolders (n : Nat) : (s.closeSluices n).aroundPolders = s.aroundPolders :=
  State.each_keeps (F := State.aroundPolders) (g := fun u cl => u.onCluster cl Cluster.close) (fun _ _ => rfl) _ s

theorem State.boardOrder_aroundPolders (n kind : Nat) : (s.boardOrder n kind).aroundPolders = s.aroundPolders :=
  (congrArg State.aroundPolders (s.boardOrder_sansBoard n kind) :)

@[simp] theorem State.closeSluices_halfDie (n k : Nat) : (s.closeSluices n).halfDie k = s.halfDie k :=
  State.each_keeps (F := fun u => u.halfDie k) (g := fun u cl => u.onCluster cl Cluster.close) (fun _ _ => rfl) _ s

/-- The state as a polder's number is given up. -/
def State.destroyed (s : State) (n : Nat) : State :=
  ((((s.finishJob n .aborted 0).boardOrder n 5).closeSluices n).clearDikes (s.polder n)).unmapped n

section
variable (n : Nat)

theorem State.destroyed_polder (k : Nat) : (s.destroyed n).polder k = if n = k then {} else s.polder k := by
  refine (State.setPolder_polder (x := {}) ..).trans ?_
  split
  · rfl
  · next h =>
    rw [State.clearDikes_polder, State.closeSluices_polder, State.boardOrder_polder, s.finishJob_polder_of_ne (Ne.symm h)]

variable {s n} (he : ∀ j, (s.polder n).job = some j → j.phase ≠ .running)
include he

theorem State.destroyed_halfDie (k : Nat) :
    (s.destroyed n).halfDie k = if k ∈ (s.polder n).halfDies then (s.halfDie k).freed (s.polder n) else s.halfDie k := by
  have early : (s.finishJob n .aborted 0).halfDie k = s.halfDie k :=
    (congrArg (fun w => w.halfDie k) (s.finishJob_sansEarlyJob he .aborted 0) :)
  refine (State.clearDikes_halfDie _ (s.polder n) k).trans ?_
  rw [State.closeSluices_halfDie, State.boardOrder_halfDie, early]

theorem State.destroyed_aroundPolders : (s.destroyed n).aroundPolders
    = (s.aroundPolders.1, Sparse.drop (fun v => Sparse.get 31 s.vfMap v == n) s.vfMap) := by
  have around := (State.clearDikes_aroundPolders (((s.finishJob n .aborted 0).boardOrder n 5).closeSluices n) (s.polder n)).trans
    ((State.closeSluices_aroundPolders _ n).trans ((State.boardOrder_aroundPolders _ n 5).trans
      (s.finishJob_early_aroundPolders he .aborted 0)))
  exact congrArg (fun a => (a.1, Sparse.drop (fun v => Sparse.get 31 a.2 v == n) a.2)) around

end
end
end Sys2Proof.Machine

open Sys2Proof Sys2Proof.Machine

/-- Settles O13: each stage touches a unit of its own: the end of a job the polder, the dikes the half-dies, and the last one the
map and the quota. -/
theorem polderDestroyFreesItsHalfDies : Obligations.PolderDestroyFreesItsHalfDies := by
  intro s u f c h hfail hrun hjob
  obtain ⟨m, rest, -, -, -, -, -, rfl, -⟩ := id h
  have made : exec (.polderDestroy f) s
      = .next ((State.destroyed (s.onFunc f fun x => { x with inbox := rest }) (c.a 1)).answer c { polder := c.a 1 }) := by
    refine congrArg Host.Outcome.next ((command_of_takesOp _ h).trans ?_)
    have idle : ((State.polder (s.onFunc f fun x => { x with inbox := rest }) (c.a 1)).state == .running) = false := by
      simpa using hrun
    dsimp only
    rw [hfail]
    dsimp only
    rw [idle]
    rfl
  have polders := State.destroyed_polder (s.onFunc f fun x => { x with inbox := rest }) (c.a 1)
  have halfDies := State.destroyed_halfDie (s := s.onFunc f fun x => { x with inbox := rest }) (n := c.a 1) hjob
  have around := State.destroyed_aroundPolders (s := s.onFunc f fun x => { x with inbox := rest }) (n := c.a 1) hjob
  have quotas : Sparse.get 0 (State.destroyed (s.onFunc f fun x => { x with inbox := rest }) (c.a 1)).ledger.quotas (c.a 1) = 0 :=
    (Sparse.get_set ..).trans (if_pos rfl)
  generalize State.destroyed (s.onFunc f fun x => { x with inbox := rest }) (c.a 1) = t at *
  have same := t.answer_sansSends c { polder := c.a 1 }
  have halfDie : ∀ k, (t.answer c { polder := c.a 1 }).halfDie k = t.halfDie k := fun k => (congrArg (fun w => w.halfDie k) same :)
  have ledger : (t.answer c { polder := c.a 1 }).ledger = t.ledger := (congrArg State.ledger same :)
  have kept : (t.answer c { polder := c.a 1 }).aroundPolders = t.aroundPolders := (congrArg State.aroundPolders same :)
  have units := congrArg Prod.fst (kept.trans around)
  have map : (t.answer c { polder := c.a 1 }).vfMap = Sparse.drop (fun v => Sparse.get 31 s.vfMap v == c.a 1) s.vfMap :=
    congrArg Prod.snd (kept.trans around)
  have polder : ∀ k, (t.answer c { polder := c.a 1 }).polder k = t.polder k := fun k => t.answer_polder c _ k
  generalize t.answer c { polder := c.a 1 } = w at *
  simp only [State.aroundPolders, Prod.mk.injEq] at units
  refine ⟨w, made, ?_, fun k hk => ?_, fun k hk => ?_, fun k hk => ?_, fun v hv => ?_, fun v hv => ?_, ?_, units⟩
  · rw [polder, polders, if_pos rfl]
  · rw [polder, polders, if_neg hk.symm]
    rfl
  · have place : t.halfDie k = (s.halfDie k).freed (s.polder (c.a 1)) := (halfDies k).trans (if_pos hk)
    rw [halfDie, place]
    refine ⟨rfl, rfl, rfl, rfl, ?_⟩
    show (if _ then _ else _) ≠ _
    split
    · decide
    · next h => simpa using h
  · exact (halfDie k).trans ((halfDies k).trans (if_neg hk))
  · rw [State.vfPolder, map, Sparse.get_drop]
    rw [State.vfPolder] at hv
    split_ifs at hv ⊢ with h0 hm
    · rfl
    · rfl
    · exact absurd hv (by simpa using hm)
  · rw [State.vfPolder, map, State.vfPolder, Sparse.get_drop]
    rw [State.vfPolder] at hv
    split_ifs at hv ⊢ with h0 hm
    · rfl
    · exact absurd (by simpa using hm) hv
    · rfl
  · rw [ledger, quotas]
end

section
/-! SUPPORT. What the floodgate sequence leaves of the module and of the other polders (R315, R317, R320). -/

namespace Sys2Proof.Machine

/-- The module without what halting a polder touches. -/
def State.sansHalt (s : State) : State :=
  { s with
    clusters := [], channels := [], edge := [], edgeStacks := [], fresh := 0, dma := [], halfDies := [], tcores := [], vcores := []
    scores := [], polders := [] }

section
variable (s : State)

@[simp] theorem State.onPolder_sansHalt (p : Nat) (g : Polder → Polder) : (s.onPolder p g).sansHalt = s.sansHalt := rfl

theorem State.onCluster_discard_sansHalt (l : List Nat) (g : Cluster → Cluster) :
    (s.each l fun u cl => u.onCluster cl g).sansHalt = s.sansHalt :=
  State.each_keeps (F := State.sansHalt) (g := fun u cl => u.onCluster cl g) (fun _ _ => rfl) _ s

theorem State.each_onCluster_polders (l : List Nat) (g : Cluster → Cluster) :
    (s.each l fun u cl => u.onCluster cl g).polders = s.polders :=
  State.each_keeps (F := State.polders) (g := fun u cl => u.onCluster cl g) (fun _ _ => rfl) _ s

/-! ### Near-bank work and channels end -/

/-- What discarding near-bank commands keeps. -/
theorem State.nbDiscard_keeps {β : Type} {F : State → β} (hc : ∀ (u : State) e x, F (u.setEdgeCh e x) = F u)
    (hs : ∀ (u : State) e g, F (u.onStack e g) = F u)
    (he : ∀ (u : State) n m, F { u with fresh := n, edge := m } = F u) (sel : NbCmd → Bool) : F (s.nbDiscard sel) = F s := by
  have undefine : ∀ (u : State) (e : Nat) (x : NbCmd), F (u.nbUndefine e x) = F u := by
    intro u e x
    unfold State.nbUndefine
    exact State.each_keeps (fun v r => he v _ _) _ u
  unfold State.nbDiscard
  rw [State.each_keeps (F := F) (fun u e => hs u e _)]
  refine State.each_keeps (F := F) (fun u e => ?_) _ s
  dsimp only
  rw [State.each_keeps (F := F) (fun v x => undefine v e x)]
  exact hc u e _

/-- What disabling a channel keeps. -/
theorem State.disableChan_keeps {β : Type} {F : State → β} (ho : ∀ (u : State) cl g, F (u.onCluster cl g) = F u)
    (hc : ∀ (u : State) m, F { u with channels := m } = F u)
    (hd : ∀ (u : State) m n, F { u with dma := m, fresh := n } = F u) (ch : Nat) : F (s.disableChan ch) = F s := by
  unfold State.disableChan
  split
  · rfl
  · have unbound : F (s.unbindAll ch) = F s := State.each_keeps (F := F) (fun u cl => ho u cl _) _ s
    have disowned : F ((s.unbindAll ch).disown ch) = F (s.unbindAll ch) := hc (s.unbindAll ch) _
    exact (hd ((s.unbindAll ch).disown ch) _ _).trans (disowned.trans unbound)

@[simp] theorem State.nbDiscard_sansHalt (sel : NbCmd → Bool) : (s.nbDiscard sel).sansHalt = s.sansHalt :=
  s.nbDiscard_keeps (F := State.sansHalt) (fun _ _ _ => rfl) (fun _ _ _ => rfl) (fun _ _ _ => rfl) sel

@[simp] theorem State.disableChan_sansHalt (ch : Nat) : (s.disableChan ch).sansHalt = s.sansHalt :=
  s.disableChan_keeps (F := State.sansHalt) (fun _ _ _ => rfl) (fun _ _ => rfl) (fun _ _ _ => rfl) ch

@[simp] theorem State.nbDiscard_polders (sel : NbCmd → Bool) : (s.nbDiscard sel).polders = s.polders :=
  s.nbDiscard_keeps (F := State.polders) (fun _ _ _ => rfl) (fun _ _ _ => rfl) (fun _ _ _ => rfl) sel

@[simp] theorem State.disableChan_polders (ch : Nat) : (s.disableChan ch).polders = s.polders :=
  s.disableChan_keeps (F := State.polders) (fun _ _ _ => rfl) (fun _ _ => rfl) (fun _ _ _ => rfl) ch

/-! ### Half-dies and their cores -/

/-- A half-die as its polder's job leaves it (R390). -/
def HalfDie.rested (x : HalfDie) : HalfDie := if x.power == .active then { x with power := .idle } else x

/-- A half-die whose cores have lost their contents (R389, R499). -/
def HalfDie.junked (n : Nat) (regs : Bool) (x : HalfDie) : HalfDie := { x with junk := n, junkRegs := regs, junkFlags := regs }

theorem State.idleHalfDies_eq (p : Nat) :
    s.idleHalfDies p = s.each (s.polder p).halfDies fun u h => u.onHalfDie h HalfDie.rested := rfl

/-- The cores of half-dies lost their contents: the state before the half-dies take the number of the loss. -/
def State.coresDropped (s : State) (hs : List Nat) : State :=
  { s with
    fresh := s.fresh + 1
    tcores := Sparse.drop (fun c => hs.contains (halfOf (clusterOf c))) s.tcores
    vcores := Sparse.drop (fun c => hs.contains (halfOf (clusterOf c))) s.vcores
    scores := Sparse.drop (fun c => hs.contains (halfOf (clusterOf c))) s.scores }

theorem State.junkCores_eq (hs : List Nat) (regs : Bool) :
    s.junkCores hs regs = (s.coresDropped hs).each hs fun u h => u.onHalfDie h (HalfDie.junked u.fresh regs) := rfl

@[simp] theorem State.idleHalfDies_polders (p : Nat) : (s.idleHalfDies p).polders = s.polders :=
  State.each_keeps (F := State.polders) (g := fun u h => u.onHalfDie h HalfDie.rested) (fun _ _ => rfl) _ s

@[simp] theorem State.idleHalfDies_sansHalt (p : Nat) : (s.idleHalfDies p).sansHalt = s.sansHalt :=
  State.each_keeps (F := State.sansHalt) (g := fun u h => u.onHalfDie h HalfDie.rested) (fun _ _ => rfl) _ s

theorem State.idleHalfDies_halfDie (p k : Nat) : (s.idleHalfDies p).halfDie k
    = if k ∈ (s.polder p).halfDies then (s.halfDie k).rested else s.halfDie k :=
  State.each_at (V := State.halfDie) (φ := fun _ => HalfDie.rested) (g := fun u h => u.onHalfDie h HalfDie.rested)
    (fun u h => (State.onHalfDie_halfDie ..).trans (if_pos rfl)) (fun u x y hne => by simp [hne.symm]) _ s k
    (s.polder p).halfDies_nodup

@[simp] theorem State.junkCores_polders (hs : List Nat) (regs : Bool) : (s.junkCores hs regs).polders = s.polders :=
  State.each_keeps (F := State.polders) (g := fun u h => u.onHalfDie h (HalfDie.junked u.fresh regs)) (fun _ _ => rfl) _ _

@[simp] theorem State.junkCores_sansHalt (hs : List Nat) (regs : Bool) : (s.junkCores hs regs).sansHalt = s.sansHalt :=
  State.each_keeps (F := State.sansHalt) (g := fun u h => u.onHalfDie h (HalfDie.junked u.fresh regs)) (fun _ _ => rfl) _
    (s.coresDropped hs)

/-! ### The floodgate of a polder -/

/-- The state as a polder is halted, before it is marked so. -/
def State.halting (s : State) (p : Nat) : State :=
  let chans := s.liveChans fun c => c.polder == p
  let s := s.each (s.listed p) fun s cl => s.onCluster cl Cluster.discard
  let s := s.nbDiscard fun c => c.polder == p
  let s := s.each chans State.disableChan
  let s := s.idleHalfDies p
  s.junkCores (s.polder p).halfDies true

theorem State.halt_eq (p : Nat) :
    (s.halt p).1 = (s.halting p).onPolder p fun x => { x with state := .halted, holds := [] } := rfl

@[simp] theorem State.halting_polders (p : Nat) : (s.halting p).polders = s.polders := by
  simp only [State.halting, State.junkCores_polders, State.idleHalfDies_polders]
  rw [State.each_keeps (F := State.polders) (fun u ch => u.disableChan_polders ch), State.nbDiscard_polders]
  exact s.each_onCluster_polders _ _

@[simp] theorem State.halt_sansHalt (p : Nat) : (s.halt p).1.sansHalt = s.sansHalt := by
  rw [s.halt_eq]
  simp only [State.onPolder_sansHalt]
  simp only [State.halting, State.junkCores_sansHalt, State.idleHalfDies_sansHalt]
  rw [State.each_keeps (F := State.sansHalt) (fun u ch => u.disableChan_sansHalt ch), State.nbDiscard_sansHalt]
  exact s.onCluster_discard_sansHalt _ _

theorem State.halt_polder (p k : Nat) : (s.halt p).1.polder k
    = if p = k then { s.polder p with state := .halted, holds := [] } else s.polder k := by
  have same : (s.halting p).polder = s.polder := by
    unfold State.polder
    rw [s.halting_polders]
  rw [s.halt_eq, State.onPolder_polder, same]

/-- A polder with a floodgate to come ends its command and its job, and halts (R315, R317, R320). -/
theorem State.gatePolder_of_live {p : Nat} (hn : (s.polder p).state ≠ .none) (hh : (s.polder p).state ≠ .halted) :
    ∃ st, (s.gatePolder p).1 = (((s.endCommand p .aborted).finishJob p st 0).halt p).1 := by
  unfold State.gatePolder
  simp only [beq_iff_eq, hn, hh, if_false]
  exact ⟨_, rfl⟩

end

end Sys2Proof.Machine
end

section
/-! PROOF. POLDER_RESET goes through RESETTING, and GET_STATUS answers (R172, R334, R336). -/

namespace Sys2Proof.Machine

/-! ### POLDER_RESET -/

/-- The rectangle of half-dies of a polder. -/
def Polder.rect (x : Polder) : Nat × Nat × Nat × Nat := (x.c0, x.r0, x.w, x.h)

theorem Polder.holds?_congr {x y : Polder} (hx : x.state ≠ .none) (hy : y.state ≠ .none)
    (h : x.rect = y.rect) : x.holds? = y.holds? := by
  simp only [Polder.rect, Prod.mk.injEq] at h
  obtain ⟨hc, hr, hw, hh⟩ := h
  funext k
  rw [Polder.holds?, Polder.holds?, bne_iff_ne.2 hx, bne_iff_ne.2 hy, hc, hr, hw, hh]

section
variable (s : State) (n : Nat)

theorem State.polderFail_exists {s : State} {n : Nat} {keeps : Bool} (h : s.polderFail n keeps = none) :
    (s.polder n).state ≠ .none := by
  intro hs
  simp [State.polderFail, firstFail, hs] at h

/-- The state as the work of a polder that is reset has ended. -/
def State.workEnded (s : State) (n : Nat) : State :=
  if (s.polder n).state == .running then (s.gatePolder n).1 else (s.finishJob n .aborted 0).closeSluices n

/-- The state as a polder is reset, before it waits for the tide mark. -/
def State.resetting (s : State) (n : Nat) (cmd : InFlight) (offers : List Offer) : State :=
  let s := (s.workEnded n).onPolder n fun p => { p with state := .resetting, holds := [], gates := [], command := some cmd }
  (((s.wakeHalfDies (s.polder n).halfDies).resetArithmetic n).trainCrossings n offers).boardOrder n 6

/-- The work of a polder ends: no job is left, and the polder is where it was. -/
theorem State.workEnded_polder : ((s.workEnded n).polder n).job = none ∧ ((s.workEnded n).polder n).rect = (s.polder n).rect := by
  unfold State.workEnded
  split
  · next h =>
    have running : (s.polder n).state = .running := by simpa using h
    obtain ⟨st, gated⟩ := s.gatePolder_of_live (p := n) (by simp [running]) (by simp [running])
    obtain ⟨same, gone⟩ := (s.endCommand n .aborted).finishJob_polder n st 0
    rw [gated, State.halt_polder, if_pos rfl]
    refine ⟨gone, (congrArg Polder.rect same :).trans ?_⟩
    rw [State.endCommand_polder]
    rfl
  · obtain ⟨same, gone⟩ := s.finishJob_polder n .aborted 0
    rw [State.closeSluices_polder]
    exact ⟨gone, (congrArg Polder.rect same :)⟩

@[simp] theorem State.resetArithmetic_polder (k : Nat) : (s.resetArithmetic n).polder k = s.polder k := rfl

theorem State.resetArithmetic_halfDie (k : Nat) : (s.resetArithmetic n).halfDie k
    = if (s.polder n).holds? k then { s.halfDie k with junkRegs := false, junkFlags := false, placed := (s.halfDie k).junk }
      else s.halfDie k := by
  exact Sparse.get_mapWhere _ _ _ rfl _ _

/-- The cores of a polder that is reset hold nothing written. -/
structure State.CoreReset (t : State) (core : Nat) : Prop where
  scores : Sparse.get {} t.scores core = {}
  tcores : Sparse.get {} t.tcores core = {}
  vcores : Sparse.get {} t.vcores core = {}
  score : t.score core = {}
  tcore : t.tcore core = TCore.untouched (t.halfDie (halfOf (clusterOf core))) core
  vcore : t.vcore core = VCore.untouched (t.halfDie (halfOf (clusterOf core))) core

theorem State.resetArithmetic_core {core : Nat} (h : (s.polder n).holds? (halfOf (clusterOf core)) = true) :
    (s.resetArithmetic n).CoreReset core := by
  have placed : ((s.resetArithmetic n).halfDie (halfOf (clusterOf core))).junk
      = ((s.resetArithmetic n).halfDie (halfOf (clusterOf core))).placed := by
    rw [State.resetArithmetic_halfDie, if_pos h]
  have dropped (α : Type) (d : α) (m : Sparse α) :
      Sparse.get d (Sparse.drop (fun c => (s.polder n).holds? (halfOf (clusterOf c))) m) core = d := by
    rw [Sparse.get_drop, if_pos h]
  refine ⟨dropped .., dropped .., dropped .., ?_, dropped .., dropped ..⟩
  refine (dropped SCore _ s.scores).trans ?_
  unfold SCore.untouched
  rw [placed]
  simp

/-- The cores of the module and its half-dies. -/
def State.cores (s : State) : Sparse SCore × Sparse TCore × Sparse VCore × Sparse HalfDie := (s.scores, s.tcores, s.vcores, s.halfDies)

theorem State.CoreReset.of_cores_eq {t u : State} {core : Nat} (h : t.CoreReset core) (hu : u.cores = t.cores) : u.CoreReset core := by
  simp only [State.cores, Prod.mk.injEq] at hu
  obtain ⟨hs, ht, hv, hh⟩ := hu
  have halfDie : u.halfDie = t.halfDie := by
    funext k
    rw [State.halfDie, hh, State.halfDie]
  obtain ⟨h1, h2, h3, h4, h5, h6⟩ := h
  refine ⟨hs ▸ h1, ht ▸ h2, hv ▸ h3, ?_, ?_, ?_⟩
  · rw [← h4, State.score, State.score, hs, halfDie]
  · rw [halfDie, ← h5, State.tcore, State.tcore, ht, halfDie]
  · rw [halfDie, ← h6, State.vcore, State.vcore, hv, halfDie]

@[simp] theorem State.trainCrossings_cores (offers : List Offer) : (s.trainCrossings n offers).cores = s.cores :=
  s.trainCrossings_keeps (F := State.cores) (fun _ _ h => (congrArg State.cores h :)) (fun _ _ => rfl) n (fun _ _ _ => rfl) offers

@[simp] theorem State.boardOrder_cores (kind : Nat) : (s.boardOrder n kind).cores = s.cores :=
  (congrArg State.cores (s.boardOrder_sansBoard n kind) :)

/-- The polder as it waits to be reset. -/
def Polder.toReset (cmd : InFlight) (x : Polder) : Polder :=
  { x with state := .resetting, holds := [], gates := [], command := some cmd }

theorem State.resetting_polder (cmd : InFlight) (offers : List Offer) : ((s.resetting n cmd offers).polder n).sansTrain
    = (((s.workEnded n).polder n).toReset cmd).sansTrain := by
  simp [State.resetting, State.trainCrossings_polder]
  rfl

theorem State.resetting_core (cmd : InFlight) (offers : List Offer) {core : Nat} (hs : (s.polder n).state ≠ .none)
    (h : (s.polder n).holds? (halfOf (clusterOf core)) = true) : (s.resetting n cmd offers).CoreReset core := by
  have reset := State.resetArithmetic_core (s := ((s.workEnded n).onPolder n (Polder.toReset cmd)).wakeHalfDies
      (((s.workEnded n).onPolder n (Polder.toReset cmd)).polder n).halfDies) (n := n) (core := core) (by
    rw [State.wakeHalfDies_polder, State.onPolder_polder, if_pos rfl,
      Polder.holds?_congr (x := ((s.workEnded n).polder n).toReset cmd) (y := s.polder n) (by simp [Polder.toReset]) hs (s.workEnded_polder n).2]
    exact h)
  refine reset.of_cores_eq ?_
  rw [State.resetting, State.boardOrder_cores, State.trainCrossings_cores]
  rfl

end

/-- POLDER_RESET of a polder that it may reset (R172). -/
theorem execPolderReset_of_open {s u : State} {f : Nat} {c : Cmd} (offers : List Offer) (h : s.TakesOp f 0x12 c u)
    (hfail : u.polderFail (c.a 1) true = none) (hshut : ∀ h ∈ (u.polder (c.a 1)).halfDies, u.dieShut h = false) :
    exec (.polderReset f offers) s
      = .next (u.resetting (c.a 1) ⟨f, c.tag, c.opc, c.notify, 0, 0, false, false⟩ offers) := by
  have none_shut : (u.polder (c.a 1)).halfDies.any u.dieShut = false := by
    rw [List.any_eq_false]
    exact fun k hk => by simp [hshut k hk]
  refine congrArg Host.Outcome.next ((command_of_takesOp _ h).trans ?_)
  dsimp only
  rw [hfail]
  dsimp only
  rw [none_shut]
  rfl

/-! ### GET_STATUS -/

section
variable (s : State)

/-- Function `f` sees polder `i` (R336). -/
def State.sees (s : State) (f i : Nat) : Bool := f == 0 || s.vfPolder f == i

/-- PKG_PWR_STATE of a status block (R336). -/
def PkgState.number : PkgState → Nat
  | .p0 => 0
  | .p1 => 1
  | .p2 => 2
  | .p3 => 3

/-- The record of a polder in a status block (R336). -/
def State.statusRecord (s : State) (f i : Nat) : List Byte :=
  if s.sees f i then leBytes 8 (s.polder i).shape ++ leBytes 4 (s.stateWord i) ++ zeros 4
    ++ ((imgId (s.polder i).image) ++ zeros 8).take 8 ++ zeros 8
  else zeros 32

/-- The status block (R336). -/
def State.statusBlock (s : State) (f : Nat) : List Byte :=
  leBytes 1 s.power.pkg.number ++ leBytes 1 s.level ++ zeros 62 ++ (List.range 24).flatMap (s.statusRecord f)

/-- What GET_STATUS answers of a polder (R336). -/
def State.statusAnswer (s : State) (f n : Nat) : Answer :=
  if s.sees f n then { polder := n, r0 := (s.polder n).shape, r1 := s.stateWord n } else { polder := n, r0 := 0, r1 := 0 }

/-- A record as GET_STATUS builds it, field by field. -/
theorem State.statusRecord_eq (f i : Nat) : s.statusRecord f i
    = leBytes 8 (if s.sees f i then (s.polder i).shape else 0) ++ leBytes 4 (if s.sees f i then s.stateWord i else 0) ++ zeros 4
      ++ (if s.sees f i then ((imgId (s.polder i).image) ++ zeros 8).take 8 else zeros 8) ++ zeros 8 := by
  unfold State.statusRecord
  cases s.sees f i with
  | true => simp only [if_true]
  | false =>
    have blank : zeros 32 = leBytes 8 0 ++ leBytes 4 0 ++ zeros 4 ++ zeros 8 ++ zeros 8 := by decide
    simpa only [Bool.false_eq_true, if_false] using blank

theorem State.statusAnswer_outBytes (f n : Nat) : (s.statusAnswer f n).outBytes = 0 := by
  unfold State.statusAnswer
  split <;> rfl

theorem Answer.without_outBytes {a : Answer} (h : a.outBytes = 0) : { a with outBytes := 0 } = a := by
  rw [← h]

theorem State.statusAnswer_eq (f n : Nat) : s.statusAnswer f n =
    { polder := n, r0 := if s.sees f n then (s.polder n).shape else 0, r1 := if s.sees f n then s.stateWord n else 0 } := by
  unfold State.statusAnswer
  cases s.sees f n with
  | true => simp only [if_true]
  | false => simp only [Bool.false_eq_true, if_false]

end

section
variable {s u : State} {f : Nat} {c : Cmd} (h : s.TakesOp f 0x02 c u)
include h

theorem execGetStatus_of_open (hn : c.a 1 < 24) (hg : (u.sees f (c.a 1) && (u.polder (c.a 1)).exists_ && u.gated (c.a 1)) = false) :
    exec (.getStatus f) s = .next (u.output c (u.statusBlock f) (u.statusAnswer f (c.a 1))) := by
  refine congrArg Host.Outcome.next ((command_of_takesOp _ h).trans ?_)
  rw [State.statusAnswer_eq, State.statusBlock, funext (u.statusRecord_eq f)]
  refine (if_neg (Nat.not_le.2 hn)).trans ?_
  exact (if_neg (ne_true_of_eq_false hg))

theorem execGetStatus_of_gated (hn : c.a 1 < 24)
    (hg : (u.sees f (c.a 1) && (u.polder (c.a 1)).exists_ && u.gated (c.a 1)) = true) :
    exec (.getStatus f) s = .next (u.refuse c .busy) := by
  refine congrArg Host.Outcome.next ((command_of_takesOp _ h).trans ?_)
  exact (if_neg (Nat.not_le.2 hn)).trans (if_pos hg)

theorem execGetStatus_of_bound (hn : 24 ≤ c.a 1) : exec (.getStatus f) s = .next (u.refuse c .bound) :=
  congrArg Host.Outcome.next ((command_of_takesOp _ h).trans (if_pos hn))

end

end Sys2Proof.Machine

open Sys2Proof Sys2Proof.Machine

/-- Settles O14: the work of the polder ends with no job left and its rectangle as it was, so that what is dropped of its cores is
what it holds; GET_STATUS answers by what the function sees. -/
theorem polderResetGoesThroughResetting : Obligations.PolderResetGoesThroughResetting := by
  refine ⟨?_, ?_, ?_, ?_⟩
  · intro s u f c offers h hfail hshut
    obtain ⟨m, rest, -, -, -, -, -, rfl, -⟩ := id h
    have hexists : (s.polder (c.a 1)).state ≠ .none := State.polderFail_exists hfail
    have made := execPolderReset_of_open offers h hfail hshut
    have polder := State.resetting_polder (s.onFunc f fun x => { x with inbox := rest }) (c.a 1)
      ⟨f, c.tag, c.opc, c.notify, 0, 0, false, false⟩ offers
    have ended := (State.workEnded_polder (s.onFunc f fun x => { x with inbox := rest }) (c.a 1)).1
    have core : ∀ core, (s.polder (c.a 1)).holds? (halfOf (clusterOf core)) = true → _ := fun core hcore =>
      State.resetting_core (s.onFunc f fun x => { x with inbox := rest }) (c.a 1)
        ⟨f, c.tag, c.opc, c.notify, 0, 0, false, false⟩ offers hexists hcore
    generalize State.resetting (s.onFunc f fun x => { x with inbox := rest }) (c.a 1)
      ⟨f, c.tag, c.opc, c.notify, 0, 0, false, false⟩ offers = t at *
    generalize State.polder (State.workEnded (s.onFunc f fun x => { x with inbox := rest }) (c.a 1)) (c.a 1) = x at *
    refine ⟨t, made, (congrArg Polder.state polder :), (congrArg Polder.holds polder :), (congrArg Polder.job polder :).trans ended,
      (congrArg Polder.command polder :), fun k hk => ?_⟩
    obtain ⟨h1, h2, h3, h4, h5, h6⟩ := core k hk
    exact ⟨h1, h2, h3, h4, h5, h6⟩
  · intro s p c hc hop hst hm hpow
    have on : s.powered (s.polder p) = true := by
      rw [State.powered, List.all_eq_true]
      exact fun k hk => by simpa using hpow k hk
    show execPolderResetComplete p s = _
    simp only [execPolderResetComplete, hc, hop, hst, hm, on]
    rfl
  · intro s u f c h hn sees pkg a block
    obtain ⟨m, rest, -, -, -, -, -, rfl, -⟩ := id h
    have plain := State.statusAnswer_outBytes (s.onFunc f fun x => { x with inbox := rest }) f (c.a 1)
    have answer_eq : State.statusAnswer (s.onFunc f fun x => { x with inbox := rest }) f (c.a 1) = a := rfl
    have block_eq : State.statusBlock (s.onFunc f fun x => { x with inbox := rest }) f = block := rfl
    have answered := execGetStatus_of_open h hn
    have gated := execGetStatus_of_gated h hn
    rw [answer_eq] at plain
    rw [answer_eq, block_eq] at answered
    refine ⟨fun hg => ?_, fun hs he hg => gated ?_⟩
    · have open_ := answered (by
        show (sees (c.a 1) && (s.polder (c.a 1)).exists_ && s.gated (c.a 1)) = false
        cases hs : sees (c.a 1) with
        | false => rfl
        | true => rw [hg hs, Bool.and_false])
      exact ⟨open_, fun hout => open_.trans (congrArg Host.Outcome.next ((output_of_none _ _ hout).trans
        (congrArg (State.answer _ c) (Answer.without_outBytes plain))))⟩
    · show (sees (c.a 1) && (s.polder (c.a 1)).exists_ && s.gated (c.a 1)) = true
      rw [hs, he, hg]
      rfl
  · exact fun s u f c h hn => execGetStatus_of_bound h hn
end

section
/-! SUPPORT. The planner's run (R359-R362): what it leaves of the module, and the effective cap that it forms (R354). -/

namespace Sys2Proof.Machine

/-! ### What choosing steps touches -/

/-- The ledger without what the choice of steps touches; the effective cap and its source stay. -/
def Ledger.sansSteps (l : Ledger) : Ledger :=
  { l with rails := [], counts := [], nextAdmit := 0, frozen := 0, committed := 0, freeboard := 0, overLow := none, overAt := none }

/-- The module without what the choice of steps, admission and the end of jobs not yet begun touch. -/
def State.sansSteps (s : State) : State :=
  { s.sansSends with polders := [], board := [], boardLost := [], boardErrors := [], ledger := s.ledger.sansSteps }

theorem State.sansSteps_of_sansEarlyJob {s t : State} (h : t.sansEarlyJob = s.sansEarlyJob) : t.sansSteps = s.sansSteps :=
  (congrArg State.sansSteps h :)

section
variable (s : State)

theorem State.ledger_sansSteps {l : Ledger} (h : l.sansSteps = s.ledger.sansSteps) : State.sansSteps { s with ledger := l } = s.sansSteps := by
  unfold State.sansSteps
  dsimp only
  rw [h]
  rfl

theorem Ledger.counts_sansSteps (l : Ledger) (m : Sparse Nat) : Ledger.sansSteps { l with counts := m } = l.sansSteps := rfl
theorem Ledger.overLow_sansSteps (l : Ledger) (t : Option Nat) : Ledger.sansSteps { l with overLow := t } = l.sansSteps := rfl
theorem Ledger.mirrors_sansSteps (l : Ledger) (n : Nat) (z : Int) :
    Ledger.sansSteps { l with committed := n, freeboard := z } = l.sansSteps := rfl
theorem Ledger.frozen_sansSteps (l : Ledger) (n : Nat) : Ledger.sansSteps { l with frozen := n } = l.sansSteps := rfl

@[simp] theorem State.onPolder_sansSteps (n : Nat) (g : Polder → Polder) : (s.onPolder n g).sansSteps = s.sansSteps := rfl
@[simp] theorem State.onRail_sansSteps (n : Nat) (g : Rail → Rail) : (s.onRail n g).sansSteps = s.sansSteps := rfl
@[simp] theorem State.countUp_sansSteps (c : Nat) : (s.countUp c).sansSteps = s.sansSteps :=
  s.ledger_sansSteps (s.ledger.counts_sansSteps _)

@[simp] theorem State.freeze_sansSteps (loop : Nat) (on : Bool) : (s.freeze loop on).sansSteps = s.sansSteps :=
  s.ledger_sansSteps (s.ledger.frozen_sansSteps _)
@[simp] theorem State.noteLow_sansSteps : s.noteLow.sansSteps = s.sansSteps :=
  s.ledger_sansSteps (s.ledger.overLow_sansSteps _)
@[simp] theorem State.noteFreeboard_sansSteps : s.noteFreeboard.sansSteps = s.sansSteps :=
  s.ledger_sansSteps (s.ledger.mirrors_sansSteps _ _)
@[simp] theorem State.freezeSteps_sansSteps : s.freezeSteps.sansSteps = s.sansSteps := s.freeze_sansSteps _ _

@[simp] theorem State.askRails_sansSteps (rs : List Nat) (r : VoltReq) : (s.askRails rs r).sansSteps = s.sansSteps :=
  State.each_keeps (F := State.sansSteps) (g := fun u n => u.onRail n fun x => x.ask r) (fun _ _ => rfl) rs s

@[simp] theorem State.boardOrder_sansSteps (n kind : Nat) : (s.boardOrder n kind).sansSteps = s.sansSteps :=
  (congrArg State.sansSteps (s.boardOrder_sansBoard n kind) :)

@[simp] theorem State.restep_sansSteps (n : Nat) : (s.restep n).sansSteps = s.sansSteps := by
  unfold State.restep
  dsimp only
  split <;> simp

@[simp] theorem State.setStep_sansSteps (n st : Nat) : (s.setStep n st).sansSteps = s.sansSteps := by
  simp [State.setStep]

/-! ### Lowering, raising and admission -/

@[simp] theorem State.lowerRunning_sansSteps (deficit : Nat) (l : List (Nat × Job)) :
    (State.lowerRunning deficit l s).sansSteps = s.sansSteps := by
  induction l generalizing deficit s with
  | nil => rfl
  | cons x r ih =>
    unfold State.lowerRunning
    split
    · rfl
    · dsimp only
      split
      · simp
      · split
        · exact ih _ _
        · rw [ih, State.setStep_sansSteps]

@[simp] theorem State.raiseLowered_sansSteps (l : List (Nat × Job)) (fb : Nat) :
    (State.raiseLowered l fb s).1.sansSteps = s.sansSteps := by
  induction l generalizing fb s with
  | nil => rfl
  | cons x r ih =>
    unfold State.raiseLowered
    dsimp only
    split
    · exact ih _ _
    · split
      · rw [ih, State.onPolder_sansSteps, State.setStep_sansSteps]
      · exact ih _ _

@[simp] theorem State.admitJob_sansSteps (n st : Nat) : (s.admitJob n st).sansSteps = s.sansSteps := by
  unfold State.admitJob
  simp
  rfl

theorem State.admitJob_polder_of_ne {n k : Nat} (hk : k ≠ n) (st : Nat) : (s.admitJob n st).polder k = s.polder k := by
  simp [State.admitJob, State.restep_polder_of_ne _ hk, hk.symm]
  rfl

/-- No job of these polders has reached slot 0. -/
def State.Early (s : State) (l : List (Nat × Job)) : Prop := ∀ x ∈ l, ∀ j, (s.polder x.1).job = some j → j.phase ≠ .running

theorem State.Early.tail {s u : State} {x : Nat × Job} {r : List (Nat × Job)} (h : s.Early (x :: r))
    (hd : ((x :: r).map Prod.fst).Nodup) (hu : ∀ k, k ≠ x.1 → u.polder k = s.polder k) : u.Early r := by
  intro y hy j hj
  have other : y.1 ≠ x.1 := fun e => (List.nodup_cons.1 hd).1 (e ▸ List.mem_map_of_mem hy)
  rw [hu _ other] at hj
  exact h y (List.mem_cons_of_mem _ hy) j hj

theorem State.failWaiting_sansSteps {n : Nat} (he : ∀ j, (s.polder n).job = some j → j.phase ≠ .running) :
    (s.failWaiting n).sansSteps = s.sansSteps :=
  (State.sansSteps_of_sansEarlyJob (s := s.countUp cNoEnergy) ((s.countUp cNoEnergy).finishJob_sansEarlyJob he .noEnergy 0)).trans
    (s.countUp_sansSteps _)

theorem State.failWaiting_polder_of_ne {n k : Nat} (hk : k ≠ n) : (s.failWaiting n).polder k = s.polder k :=
  (s.countUp cNoEnergy).finishJob_polder_of_ne hk .noEnergy 0

theorem State.admitWaiting_sansSteps {l : List (Nat × Job)} (fb : Nat) (hd : (l.map Prod.fst).Nodup) (he : s.Early l) :
    (State.admitWaiting l fb s).sansSteps = s.sansSteps := by
  induction l generalizing fb s with
  | nil => rfl
  | cons x r ih =>
    have rest := (List.nodup_cons.1 hd).2
    have same : s.Early r := he.tail hd fun _ _ => rfl
    unfold State.admitWaiting
    split
    · exact ih s fb rest same
    · split
      · rw [ih _ _ rest (he.tail hd fun k hk => s.admitJob_polder_of_ne hk _), State.admitJob_sansSteps]
      · split
        · rw [ih _ _ rest (he.tail hd fun k hk => s.failWaiting_polder_of_ne hk),
            s.failWaiting_sansSteps (he x List.mem_cons_self)]
        · exact ih s fb rest same

/-! ### The jobs that wait -/

theorem insertBy_perm {α : Type} (key : α → Nat) (x : α) (l : List α) : (insertBy key x l).Perm (x :: l) := by
  induction l with
  | nil => rfl
  | cons y r ih =>
    unfold insertBy
    split
    · rfl
    · exact (ih.cons y).trans (List.Perm.swap x y r)

theorem sortBy_perm {α : Type} (key : α → Nat) (l : List α) : (sortBy key l).Perm l := by
  have general : ∀ (l a : List α), (l.foldl (fun a x => insertBy key x a) a).Perm (l ++ a) := by
    intro l
    induction l with
    | nil => exact fun a => .refl a
    | cons x r ih => exact fun a => (ih _).trans (((insertBy_perm key x a).append_left r).trans List.perm_middle)
  simpa [sortBy] using general l []

theorem State.jobs_nodup : (s.jobs.map Prod.fst).Nodup := by
  have names : s.jobs.map Prod.fst = (List.range 24).filter fun n => (s.polder n).job.isSome := by
    unfold State.jobs
    induction List.range 24 with
    | nil => rfl
    | cons n r ih =>
      cases hj : (s.polder n).job <;> simp [hj, ih]
  rw [names]
  exact List.nodup_range.filter _

theorem State.mem_jobs {x : Nat × Job} (h : x ∈ s.jobs) : (s.polder x.1).job = some x.2 := by
  simp only [State.jobs, List.mem_filterMap, Option.map_eq_some_iff] at h
  obtain ⟨n, _, j, hj, rfl⟩ := h
  exact hj

theorem State.waiting_nodup : (s.waiting.map Prod.fst).Nodup :=
  ((sortBy_perm _ _).map _).nodup_iff.2 (s.jobs_nodup.sublist (List.filter_sublist.map _))

theorem State.waiting_early : s.Early s.waiting := by
  intro x hx j hj
  have listed := (sortBy_perm _ _).mem_iff.1 hx
  obtain ⟨hjob, hphase⟩ := List.mem_filter.1 listed
  rw [s.mem_jobs hjob] at hj
  obtain rfl := Option.some.inj hj
  have waits : x.2.phase = .waiting := by simpa using hphase
  simp [waits]

/-! ### The effective cap (R354) -/

/-- The module without the cap that is formed and what its change sends and counts. -/
def State.sansCap (s : State) : State :=
  { s.sansSends with ledger := { s.ledger with effCap := 0, source := 0, counts := [] } }

@[simp] theorem State.updateCap_sansCap : s.updateCap.sansCap = s.sansCap := by
  unfold State.updateCap
  dsimp only
  split
  · rfl
  · have sent : ∀ (u : State) (p a b c : Nat), (u.event p a b c).sansCap = u.sansCap := fun u p a b c =>
      (congrArg State.sansCap (u.event_sansSends p a b c) :)
    have counted : ∀ u : State, (u.countUp cSupplyCap).sansCap = u.sansCap := fun _ => rfl
    generalize (s.ledger.capOf s.ledger.smallest).1 / (s.ledger.capOf s.ledger.smallest).2 = eff
    refine State.ite_keeps (F := State.sansCap) ((sent ..).trans ?_) ?_
    all_goals exact State.ite_keeps (F := State.sansCap) ((counted _).trans rfl) rfl

/-- What a run of the planner leaves: it forms the cap, and then chooses steps. -/
theorem State.plan_sansSteps (hr : s.trust.running = true) (hs : s.power.sagHold = false) :
    s.plan.sansSteps = s.updateCap.sansSteps := by
  unfold State.plan
  simp only [hr, hs, Bool.not_true, Bool.or_self, Bool.false_eq_true, if_false]
  rw [State.noteFreeboard_sansSteps, State.freezeSteps_sansSteps]
  split
  · rw [State.lowerRunning_sansSteps, State.noteLow_sansSteps]
  · split
    · rw [State.raiseLowered_sansSteps, State.noteLow_sansSteps]
    · rw [State.admitWaiting_sansSteps _ _ (State.waiting_nodup _) (State.waiting_early _), State.raiseLowered_sansSteps,
        State.noteLow_sansSteps]

end

end Sys2Proof.Machine
end

section
/-! PROOF. CAP_SET and the planner's run form the effective cap (R352, R354, R356). -/

namespace Sys2Proof.Machine

/-! ### The smallest cap -/

theorem Ledger.smallest_eq (l : Ledger) : l.smallest =
    if l.cap * l.thermalCap.2 ≤ l.thermalCap.1 ∧ l.cap * 1000 ≤ l.supplyCap then 0
    else if l.thermalCap.1 * 1000 ≤ l.supplyCap * l.thermalCap.2 then 1 else 2 := by
  simp [Ledger.smallest, Ledger.capOf, fracLe]

/-- The smallest cap in whole watts. -/
def Ledger.smallestWatts (l : Ledger) : Nat := (l.capOf l.smallest).1 / (l.capOf l.smallest).2

theorem Ledger.smallestWatts_eq (l : Ledger) : l.smallestWatts =
    if l.cap * l.thermalCap.2 ≤ l.thermalCap.1 ∧ l.cap * 1000 ≤ l.supplyCap then l.cap
    else if l.thermalCap.1 * 1000 ≤ l.supplyCap * l.thermalCap.2 then l.thermalCap.1 / l.thermalCap.2 else l.supplyCap / 1000 := by
  rw [Ledger.smallestWatts, l.smallest_eq]
  split_ifs
  · exact Nat.div_one _
  · rfl
  · rfl

section
variable (s : State)

theorem State.updateCap_of_unknown (h : s.ledger.capKnown = false) : s.updateCap = s := by
  simp [State.updateCap, h]

theorem State.updateCap_cap (hk : s.ledger.capKnown = true) (hr : s.trust.running = true) :
    (s.updateCap.ledger.source, s.updateCap.ledger.effCap) = (s.ledger.smallest, s.ledger.smallestWatts) := by
  have sent : ∀ (u : State) (p a b c : Nat), ((u.event p a b c).ledger.source, (u.event p a b c).ledger.effCap)
      = (u.ledger.source, u.ledger.effCap) := fun u p a b c => by rw [State.event_ledger]
  unfold State.updateCap
  simp only [hk, hr, Bool.not_true, Bool.or_self, Bool.false_eq_true, if_false]
  refine State.ite_keeps (F := fun u => (u.ledger.source, u.ledger.effCap)) ((sent ..).trans ?_) ?_
  all_goals exact State.ite_keeps (F := fun u => (u.ledger.source, u.ledger.effCap)) rfl rfl

/-- What a run of the planner leaves beside the cap. -/
def State.sansPlan (s : State) : State := s.sansSteps.sansCap

theorem State.cap_of_sansSteps {s t : State} (h : t.sansSteps = s.sansSteps) :
    (t.ledger.source, t.ledger.effCap) = (s.ledger.source, s.ledger.effCap) :=
  (congrArg (fun u => (u.ledger.source, u.ledger.effCap)) h :)

theorem State.plan_cap (hr : s.trust.running = true) (hs : s.power.sagHold = false) :
    (s.plan.ledger.source, s.plan.ledger.effCap) = (s.updateCap.ledger.source, s.updateCap.ledger.effCap) :=
  State.cap_of_sansSteps (s.plan_sansSteps hr hs)

/-- The effective cap that a run of the planner forms. -/
theorem State.plan_effCap (hr : s.trust.running = true) (hs : s.power.sagHold = false) :
    s.plan.ledger.effCap = if s.ledger.capKnown then s.ledger.smallestWatts else s.ledger.effCap := by
  refine (Prod.mk.inj (s.plan_cap hr hs)).2.trans ?_
  cases hk : s.ledger.capKnown with
  | true => exact (Prod.mk.inj (s.updateCap_cap hk hr)).2
  | false => exact (congrArg (fun u => u.ledger.effCap) (s.updateCap_of_unknown hk) :)

theorem State.plan_sansPlan (hr : s.trust.running = true) (hs : s.power.sagHold = false) : s.plan.sansPlan = s.sansPlan := by
  refine (congrArg State.sansCap (s.plan_sansSteps hr hs)).trans ?_
  exact (congrArg State.sansSteps s.updateCap_sansCap :)

/-- The state as the overdraw loop has taken a step off a job (R362). -/
def State.overdrawn (n : Nat) (j : Job) : State :=
  (s.setStep n (j.step - 1)).onPolder n fun p => { p with overDown := p.overDown + 1 }

theorem State.overdrawn_sansSteps (n : Nat) (j : Job) : (s.overdrawn n j).sansSteps = s.sansSteps := by
  rw [State.overdrawn, State.onPolder_sansSteps, State.setStep_sansSteps]

theorem Ledger.overAt_sansSteps (l : Ledger) (t : Option Nat) : Ledger.sansSteps { l with overAt := t } = l.sansSteps := rfl

@[simp] theorem State.overdraw_sansSteps : s.overdraw.sansSteps = s.sansSteps := by
  unfold State.overdraw
  refine State.ite_keeps (F := State.sansSteps) rfl ?_
  split
  · rfl
  · next n j _ =>
    refine State.ite_keeps (F := State.sansSteps) (s.freeze_sansSteps 5 true) ?_
    have stepped := (State.ledger_sansSteps (s.overdrawn n j) ((s.overdrawn n j).ledger.overAt_sansSteps (some s.time.dev))).trans
      (s.overdrawn_sansSteps n j)
    exact (State.countUp_sansSteps _ _).trans stepped

end

/-- What a run of the planner keeps. -/
structure State.PlanKeeps (s t : State) : Prop where
  cap : t.ledger.cap = s.ledger.cap
  peak : t.ledger.peak = s.ledger.peak
  current : t.ledger.current = s.ledger.current
  supplyCap : t.ledger.supplyCap = s.ledger.supplyCap
  quotas : t.ledger.quotas = s.ledger.quotas
  ucm : t.ucm = s.ucm
  edge : t.edge = s.edge
  links : t.links = s.links
  thermal : t.thermal = s.thermal
  power : t.power = s.power

theorem State.planKeeps_of_sansPlan {s t : State} (h : t.sansPlan = s.sansPlan) : s.PlanKeeps t where
  cap := (congrArg (fun w => w.ledger.cap) h :)
  peak := (congrArg (fun w => w.ledger.peak) h :)
  current := (congrArg (fun w => w.ledger.current) h :)
  supplyCap := (congrArg (fun w => w.ledger.supplyCap) h :)
  quotas := (congrArg (fun w => w.ledger.quotas) h :)
  ucm := (congrArg State.ucm h :)
  edge := (congrArg State.edge h :)
  links := (congrArg State.links h :)
  thermal := (congrArg State.thermal h :)
  power := (congrArg State.power h :)

/-- A command that firmware takes outside recovery finds firmware running, outside SAG_HOLD (R312, R458). -/
theorem State.TakesOp.running {s u : State} {f opc : Nat} {c : Cmd} (h : s.TakesOp f opc c u) (h1 : opc ≠ 0x01) (h2 : opc ≠ 0x62) :
    u.trust.running = true ∧ u.power.sagHold = false := by
  obtain ⟨m, rest, -, hopen, hmine, -, -, rfl, hok⟩ := h
  have hop : m.opc = opc := by simpa using hmine
  constructor
  · cases hr : s.trust.running with
    | true => exact hr
    | false =>
      have refused : State.checked (s.onFunc f fun x => { x with inbox := rest }) f m = .error .denied := by
        unfold State.checked
        refine if_pos ?_
        simp [hr, hop, h1, h2]
      rw [refused] at hok
      cases hok
  · simp only [State.mailOpen, Bool.and_eq_true, Bool.not_eq_true'] at hopen
    exact hopen.1.1.1.2

/-- The state with the values of CAP_SET in force (R352, R356). -/
def State.capSet (s : State) (cap peak current : Nat) : State :=
  { s with ledger := { s.ledger with cap := cap, peak := peak, current := current, supplyCap := s.power.vinMin * current } }

theorem execCapSet_of_valid {s u : State} {f : Nat} {c : Cmd} (h : s.TakesOp f 0x40 c u) (hcap : 1200 ≤ c.a 1 ∧ c.a 1 ≤ 6000)
    (hpeak : c.a 1 ≤ c.a 2 ∧ c.a 2 ≤ 6000) (hcur : 30 ≤ c.a 3 ∧ c.a 3 ≤ 150) :
    exec (.capSet f) s = .next ((u.capSet (c.a 1) (c.a 2) (c.a 3)).plan.answer c
      { r0 := (u.capSet (c.a 1) (c.a 2) (c.a 3)).plan.ledger.effCap }) := by
  refine congrArg Host.Outcome.next ((command_of_takesOp _ h).trans (if_neg ?_))
  simp only [Bool.or_eq_true, decide_eq_true_eq]
  omega

end Sys2Proof.Machine

open Sys2Proof Sys2Proof.Machine

/-- Settles O15: the run of the planner that follows forms the cap from the new values and keeps them. -/
theorem capTakesEffect : Obligations.CapTakesEffect := by
  intro s u f c h h1 h2 h3 h4 h5 h6 th supply
  obtain ⟨hr, hs⟩ := h.running (by decide) (by decide)
  obtain ⟨m, rest, -, -, -, -, -, rfl, -⟩ := id h
  have made := execCapSet_of_valid h ⟨h1, h2⟩ ⟨h3, h4⟩ ⟨h5, h6⟩
  have kept := State.planKeeps_of_sansPlan
    (State.plan_sansPlan (State.capSet (s.onFunc f fun x => { x with inbox := rest }) (c.a 1) (c.a 2) (c.a 3)) hr hs)
  have cap := State.plan_effCap (State.capSet (s.onFunc f fun x => { x with inbox := rest }) (c.a 1) (c.a 2) (c.a 3)) hr hs
  refine ⟨_, made, _, rfl, kept.cap, kept.peak, kept.current, kept.supplyCap, ?_, kept.quotas, kept.ucm, kept.edge, kept.links⟩
  refine cap.trans ?_
  rw [Ledger.smallestWatts_eq]
  have awake : s.power.sagHold = false := hs
  cases hk : s.ledger.capKnown with
  | true => exact (if_pos hk).trans (if_pos ⟨rfl, awake⟩).symm
  | false => exact (if_neg (ne_true_of_eq_false hk)).trans (if_neg fun h => Bool.false_ne_true h.1).symm
end

section
/-! PROOF. The planner's cap (R354), and the end of a voltage request (R397). -/

namespace Sys2Proof.Machine

/-! ### The planner's run -/

section
variable (s : State)

theorem State.plan_source (hr : s.trust.running = true) (hs : s.power.sagHold = false) (hk : s.ledger.capKnown = true) :
    s.plan.ledger.source = s.ledger.smallest :=
  (Prod.mk.inj (s.plan_cap hr hs)).1.trans (Prod.mk.inj (s.updateCap_cap hk hr)).1

theorem State.overdraw_cap : (s.overdraw.ledger.source, s.overdraw.ledger.effCap) = (s.ledger.source, s.ledger.effCap) :=
  State.cap_of_sansSteps s.overdraw_sansSteps

theorem State.overdraw_sansPlan : s.overdraw.sansPlan = s.sansPlan := congrArg State.sansCap s.overdraw_sansSteps

theorem execPlannerRun_of_running (hr : s.trust.running = true) : execPlannerRun s = .next s.plan.overdraw :=
  congrArg Host.Outcome.next (if_pos hr)

theorem State.run_planKeeps (hr : s.trust.running = true) (hs : s.power.sagHold = false) : s.PlanKeeps s.plan.overdraw :=
  State.planKeeps_of_sansPlan (s.plan.overdraw_sansPlan.trans (s.plan_sansPlan hr hs))

theorem State.run_source (hr : s.trust.running = true) (hs : s.power.sagHold = false) (hk : s.ledger.capKnown = true) :
    s.plan.overdraw.ledger.source = s.ledger.smallest :=
  (Prod.mk.inj s.plan.overdraw_cap).1.trans (s.plan_source hr hs hk)

theorem State.run_effCap (hr : s.trust.running = true) (hs : s.power.sagHold = false) (hk : s.ledger.capKnown = true) :
    s.plan.overdraw.ledger.effCap = s.ledger.smallestWatts :=
  (Prod.mk.inj s.plan.overdraw_cap).2.trans ((s.plan_effCap hr hs).trans (if_pos hk))

/-! ### A request is acknowledged -/

/-- A polder whose raise has one rail more (R397). -/
def Polder.railUp (rail want : Nat) (p : Polder) : Polder :=
  let left := p.rails.filter (· != rail)
  { p with rails := left, nextStep := if left.isEmpty then some want else p.nextStep }

/-- A polder whose raise is given up (R361, R397). -/
def Polder.raiseDropped (p : Polder) : Polder :=
  { p with
    rails := []
    job := p.job.map fun j => { j with step := min j.step (p.step + p.peakDown + p.quotaDown) } }

/-- What one polder makes of the acknowledged rail. -/
def State.railRaisedOne (rail : Nat) (s : State) (n : Nat) : State :=
  if (s.polder n).rails.contains rail then s.onPolder n (Polder.railUp rail (s.wantOf n)) else s

/-- What one polder makes of the rail whose request has failed. -/
def State.dropRaiseOne (rail : Nat) (s : State) (n : Nat) : State :=
  if (s.polder n).rails.contains rail then s.onPolder n Polder.raiseDropped else s

theorem State.railRaised_eq (rail : Nat) : s.railRaised rail = s.each (List.range 24) (State.railRaisedOne rail) := rfl
theorem State.dropRaise_eq (rail : Nat) : s.dropRaise rail = s.each (List.range 24) (State.dropRaiseOne rail) := rfl

/-- What a change to polders alone keeps. -/
def State.sansPolders (s : State) : State := { s with polders := [] }

@[simp] theorem State.railRaised_sansPolders (rail : Nat) : (s.railRaised rail).sansPolders = s.sansPolders :=
  State.each_keeps (F := State.sansPolders) (g := State.railRaisedOne rail)
    (fun _ _ => State.ite_keeps (F := State.sansPolders) rfl rfl) _ s

@[simp] theorem State.dropRaise_sansPolders (rail : Nat) : (s.dropRaise rail).sansPolders = s.sansPolders :=
  State.each_keeps (F := State.sansPolders) (g := State.dropRaiseOne rail)
    (fun _ _ => State.ite_keeps (F := State.sansPolders) rfl rfl) _ s

/-- The step commanded for a polder, by the controllers that are down (R472). -/
def Polder.wantIn (p : Polder) (down : Sparse Bool) : Nat := if p.dies.any (Sparse.get false down) then 0 else p.want

theorem State.wantOf_eq (n : Nat) : s.wantOf n = (s.polder n).wantIn s.cdcDown := rfl

theorem State.railRaisedOne_polder (rail x y : Nat) : (s.railRaisedOne rail x).polder y
    = if x = y ∧ rail ∈ (s.polder x).rails then (s.polder x).railUp rail (s.wantOf x) else s.polder y := by
  unfold State.railRaisedOne
  split
  · next h =>
    have mem : rail ∈ (s.polder x).rails := by simpa using h
    simp [mem]
  · next h =>
    have absent : rail ∉ (s.polder x).rails := by simpa using h
    simp [absent]

theorem State.dropRaiseOne_polder (rail x y : Nat) : (s.dropRaiseOne rail x).polder y
    = if x = y ∧ rail ∈ (s.polder x).rails then (s.polder x).raiseDropped else s.polder y := by
  unfold State.dropRaiseOne
  split
  · next h =>
    have mem : rail ∈ (s.polder x).rails := by simpa using h
    simp [mem]
  · next h =>
    have absent : rail ∉ (s.polder x).rails := by simpa using h
    simp [absent]

theorem State.railRaisedOne_cdcDown (rail x : Nat) : (s.railRaisedOne rail x).cdcDown = s.cdcDown :=
  State.ite_keeps (F := State.cdcDown) rfl rfl

/-- The polder and the controllers that are down, which say what step is wanted for it. -/
def State.wanting (s : State) (n : Nat) : Polder × Sparse Bool := (s.polder n, s.cdcDown)

theorem State.wanting_fst (n : Nat) : (s.wanting n).1 = s.polder n := rfl

theorem State.railRaised_polder (rail n : Nat) : (s.railRaised rail).polder n
    = if n < 24 ∧ rail ∈ (s.polder n).rails then (s.polder n).railUp rail (s.wantOf n) else s.polder n := by
  have own : ∀ (u : State) x, (u.railRaisedOne rail x).wanting x
      = (if rail ∈ (u.wanting x).1.rails then (u.wanting x).1.railUp rail ((u.wanting x).1.wantIn (u.wanting x).2) else (u.wanting x).1,
        (u.wanting x).2) := fun u x => by
    rw [State.wanting, State.railRaisedOne_polder]
    simp only [true_and]
    exact congrArg (Prod.mk _) (u.railRaisedOne_cdcDown rail x)
  have others : ∀ (u : State) x y, y ≠ x → (u.railRaisedOne rail x).wanting y = u.wanting y := fun u x y hne => by
    rw [State.wanting, State.railRaisedOne_polder, if_neg fun h => hne h.1.symm]
    exact congrArg (Prod.mk _) (u.railRaisedOne_cdcDown rail x)
  have at_ := State.each_at (V := State.wanting) (g := State.railRaisedOne rail)
    (φ := fun _ v => (if rail ∈ v.1.rails then v.1.railUp rail (v.1.wantIn v.2) else v.1, v.2))
    own others (List.range 24) s n List.nodup_range
  rw [← State.railRaised_eq] at at_
  rw [← State.wanting_fst, at_]
  by_cases hn : n < 24
  · by_cases hm : rail ∈ (s.polder n).rails
    · simp only [List.mem_range, hn, hm, and_self, if_true, State.wanting, State.wantOf_eq]
    · simp only [List.mem_range, hn, hm, and_false, if_true, if_false, State.wanting]
  · simp only [List.mem_range, hn, if_false, false_and, State.wanting]

theorem State.dropRaise_polder (rail n : Nat) : (s.dropRaise rail).polder n
    = if n < 24 ∧ rail ∈ (s.polder n).rails then (s.polder n).raiseDropped else s.polder n := by
  have at_ := State.each_at (V := State.polder) (g := State.dropRaiseOne rail)
    (φ := fun _ p => if rail ∈ p.rails then p.raiseDropped else p)
    (fun u x => by rw [State.dropRaiseOne_polder]; simp only [true_and])
    (fun u x y hne => by rw [State.dropRaiseOne_polder, if_neg fun h => hne h.1.symm])
    (List.range 24) s n List.nodup_range
  rw [State.dropRaise_eq, at_]
  simp only [List.mem_range]
  by_cases hn : n < 24
  · simp only [hn, if_true, true_and]
  · simp only [hn, if_false, false_and]

end

section
variable (s : State) (rail : Nat) (r : VoltReq)

/-- An AVS offset that a request brought is in force (R398). -/
def State.avsInForce (s : State) (rail : Nat) (avs : Option Int) : State :=
  match avs with
  | some v => s.onHalfDie rail fun x => { x with avs := v }
  | none => s

theorem State.avsInForce_halfDie (avs : Option Int) (k : Nat) : (s.avsInForce rail avs).halfDie k
    = if rail = k then { s.halfDie rail with avs := avs.getD (s.halfDie rail).avs } else s.halfDie k := by
  cases avs with
  | some v => exact State.onHalfDie_halfDie ..
  | none =>
    split
    · next h => subst h; rfl
    · rfl

theorem State.avsInForce_keeps {β : Type} {F : State → β} (h : ∀ (u : State) n g, F (u.onHalfDie n g) = F u) (avs : Option Int) :
    F (s.avsInForce rail avs) = F s := by
  unfold State.avsInForce
  cases avs with
  | some v => exact h s rail _
  | none => rfl

theorem State.onRail_rail (g : Rail → Rail) (k : Nat) : (s.onRail rail g).rail k = if rail = k then g (s.rail rail) else s.rail k := by
  simp [State.rail, State.onRail]

/-- A half-die as it reaches IDLE (R390, R500). -/
def HalfDie.toIdle (x : HalfDie) : HalfDie :=
  if x.power == .off then { x with power := .idle, tide := 0, tidePart := 0, markDue := false, step := 0 }
  else { x with power := .idle }

/-- The units that waking a half-die and its rail touch. -/
def State.powering (s : State) (h d : Nat) : HalfDie × UcmDie × Sparse Rail := (s.halfDie h, s.ucmDie d, s.ledger.rails)

/-- A half-die that reaches IDLE takes its die out of self-refresh (R390, R497). -/
theorem State.reachIdle_powering (h k d : Nat) : (s.reachIdle h).powering k d
    = (if h = k then (s.halfDie h).toIdle else s.halfDie k,
      if h / 2 = d then { s.ucmDie d with selfRefresh := false } else s.ucmDie d, s.ledger.rails) := by
  have refreshed : ∀ k, (s.onUcmDie (h / 2) fun x => { x with selfRefresh := false }).powering k d
      = (s.halfDie k, if h / 2 = d then { s.ucmDie d with selfRefresh := false } else s.ucmDie d, s.ledger.rails) := fun k => by
    simp only [State.powering, State.onUcmDie_halfDie, State.onUcmDie_ucmDie, State.onUcmDie_ledger]
    split
    · next h => rw [h]
    · rfl
  have idle : ∀ u : State, (u.onHalfDie h HalfDie.toIdle).powering k d
      = (if h = k then (u.powering h d).1.toIdle else (u.powering k d).1, (u.powering k d).2) := fun u => by
    simp [State.powering]
  refine (idle _).trans ?_
  have restarted : ∀ (u : State) (p : Prop) [Decidable p] n k,
      State.powering (if p then u.onPolder n Polder.restartTide else u) k d = u.powering k d :=
    fun u p _ n k => State.ite_keeps (F := fun u : State => u.powering k d) rfl rfl
  rw [restarted, restarted, refreshed, refreshed]

/-- The state as a rail's request is over and what it brought is in force (R390, R397, R398). -/
def State.acked (s : State) (rail : Nat) (r : VoltReq) : State :=
  (if rail < 24 && (s.halfDie rail).power == .off then (s.onRail rail Rail.sendNext).reachIdle rail
    else s.onRail rail Rail.sendNext).avsInForce rail r.avs

/-- The rail is part of a raise that no newer one takes the place of (R397). -/
def State.raises (s : State) (rail : Nat) (r : VoltReq) : Bool := r.raise && !(s.rail rail).queued.any (·.raise)

variable {s rail r}

theorem execAvsbusAck_of_sent (hs : (s.rail rail).sent = some r) : execAvsbusAck rail s
    = .next (if s.raises rail r then (s.acked rail r).railRaised rail else s.acked rail r) := by
  unfold execAvsbusAck
  rw [hs]
  unfold State.acked State.raises State.avsInForce
  rfl

/-- The state as a rail's failed request is over (R397; log 59). -/
def State.nacked (s : State) (rail : Nat) (again : Bool) : State :=
  ((if again then s else s.onRail rail Rail.sendNext).countUp cAvsNoack).addLog 13 0 31 rail 0 0

/-- The failed request of a rail: it stands again for a half-die that is OFF (R397; log 59). -/
theorem execAvsNoack_of_sent (hs : (s.rail rail).sent = some r) {again : Bool}
    (ha : (decide (rail < 24) && (s.halfDie rail).power == .off) = again) : execAvsNoack rail s
    = .next (if r.raise then (s.nacked rail again).dropRaise rail else s.nacked rail again) := by
  unfold execAvsNoack
  rw [hs, ← ha]
  rfl

theorem State.not_off_of_up (ho : 24 ≤ rail ∨ (s.halfDie rail).power ≠ .off) :
    (decide (rail < 24) && (s.halfDie rail).power == .off) = false := by
  cases ho with
  | inl h => simp [Nat.not_lt.2 h]
  | inr h => simp [h]

theorem State.acked_of_up (ho : 24 ≤ rail ∨ (s.halfDie rail).power ≠ .off) :
    s.acked rail r = (s.onRail rail Rail.sendNext).avsInForce rail r.avs := by
  rw [State.acked, State.not_off_of_up ho]
  rfl

theorem State.acked_frame (ho : 24 ≤ rail ∨ (s.halfDie rail).power ≠ .off) :
    s.acked rail r = { s with
      ledger := { s.ledger with rails := (s.acked rail r).ledger.rails }, halfDies := (s.acked rail r).halfDies } := by
  rw [State.acked_of_up ho]
  cases r.avs <;> rfl

theorem State.acked_rail (k : Nat) : (s.acked rail r).rail k = if rail = k then Rail.sendNext (s.rail rail) else s.rail k := by
  have rails : (s.acked rail r).rail k = (s.onRail rail Rail.sendNext).rail k := by
    rw [State.acked, State.avsInForce_keeps _ _ (F := fun u => u.rail k) (fun _ _ _ => rfl)]
    refine State.ite_keeps (F := fun u => u.rail k) ?_ rfl
    have kept := congrArg (fun v => v.2.2) (State.reachIdle_powering (s.onRail rail Rail.sendNext) rail k k)
    exact congrArg (fun m => Sparse.get {} m k) kept
  rw [rails, State.onRail_rail]

theorem State.acked_wanting (ho : 24 ≤ rail ∨ (s.halfDie rail).power ≠ .off) (n : Nat) :
    (s.acked rail r).wanting n = s.wanting n := by
  rw [State.acked_of_up ho, State.avsInForce_keeps _ _ (F := fun u => u.wanting n) (fun _ _ _ => rfl)]
  rfl

theorem State.acked_halfDie (ho : 24 ≤ rail ∨ (s.halfDie rail).power ≠ .off) (k : Nat) : (s.acked rail r).halfDie k
    = if rail = k then { s.halfDie rail with avs := r.avs.getD (s.halfDie rail).avs } else s.halfDie k := by
  rw [State.acked_of_up ho, State.avsInForce_halfDie]
  rfl

/-- A half-die that was OFF is IDLE by its rail, and its die is out of self-refresh. -/
theorem State.acked_powering_of_off (hlt : rail < 24) (hoff : (s.halfDie rail).power = .off) :
    ((s.acked rail r).halfDie rail).power = .idle ∧ ((s.acked rail r).halfDie rail).tide = 0
      ∧ ((s.acked rail r).ucmDie (rail / 2)).selfRefresh = false
      ∧ (∀ k, k ≠ rail → (s.acked rail r).halfDie k = s.halfDie k)
      ∧ ∀ k, k ≠ rail / 2 → (s.acked rail r).ucmDie k = s.ucmDie k := by
  have idle : s.acked rail r = ((s.onRail rail Rail.sendNext).reachIdle rail).avsInForce rail r.avs := by
    rw [State.acked, if_pos (by simp [hlt, hoff])]
  have powering := State.reachIdle_powering (s.onRail rail Rail.sendNext) rail
  have halfDie : ∀ k, ((s.onRail rail Rail.sendNext).reachIdle rail).halfDie k
      = if rail = k then (s.halfDie rail).toIdle else s.halfDie k := fun k => congrArg (·.1) (powering k 0)
  have ucmDie : ∀ d, ((s.onRail rail Rail.sendNext).reachIdle rail).ucmDie d
      = if rail / 2 = d then { s.ucmDie d with selfRefresh := false } else s.ucmDie d := fun d => congrArg (·.2.1) (powering 0 d)
  have toIdle : (s.halfDie rail).toIdle = { s.halfDie rail with
      power := .idle, tide := 0, tidePart := 0, markDue := false, step := 0 } := by
    rw [HalfDie.toIdle, hoff]
    rfl
  have kept : ∀ d, (s.acked rail r).ucmDie d = ((s.onRail rail Rail.sendNext).reachIdle rail).ucmDie d := fun d => by
    rw [idle, State.avsInForce_keeps _ _ (F := fun u => u.ucmDie d) (fun _ _ _ => rfl)]
  simp only [kept, ucmDie]
  simp only [idle, State.avsInForce_halfDie, halfDie, toIdle]
  refine ⟨rfl, rfl, by simp, fun k hk => ?_, fun k hk => if_neg hk.symm⟩
  rw [if_neg hk.symm, if_neg hk.symm]

@[simp] theorem State.nacked_polder (b : Bool) (n : Nat) : (s.nacked rail b).polder n = s.polder n := by
  cases b <;> rfl

theorem State.countUp_counts (c : Nat) : (s.countUp c).ledger.counts = Sparse.modify 0 s.ledger.counts c fun n => satAdd 32 n 1 := rfl

/-- A request that has failed is counted and logged (R397). -/
theorem State.nacked_noted (b : Bool) :
    Sparse.get 0 (s.nacked rail b).ledger.counts cAvsNoack = satAdd 32 (Sparse.get 0 s.ledger.counts cAvsNoack) 1
      ∧ (s.nacked rail b).log = s.log ++ [⟨s.time.dev, 13, 0, 31, rail, 0, 0⟩] := by
  have same : (if b then s else s.onRail rail Rail.sendNext).ledger.counts = s.ledger.counts := by cases b <;> rfl
  constructor
  · have counts : (s.nacked rail b).ledger.counts = Sparse.modify 0 s.ledger.counts cAvsNoack fun n => satAdd 32 n 1 := by
      rw [← same]
      exact State.countUp_counts _
    rw [counts, Sparse.get_modify, if_pos rfl]
  · cases b <;> rfl

/-- A request that has failed touches the rails, the counts and the log alone. -/
theorem State.nacked_frame (b : Bool) : s.nacked rail b = { s with
    ledger := { s.ledger with rails := (s.nacked rail b).ledger.rails, counts := (s.nacked rail b).ledger.counts }
    log := (s.nacked rail b).log } := by
  cases b <;> rfl

theorem State.nacked_rails (b : Bool) : (s.nacked rail b).ledger.rails = if b then s.ledger.rails else (s.onRail rail Rail.sendNext).ledger.rails := by
  cases b <;> rfl

theorem State.nacked_halfDies (b : Bool) : (s.nacked rail b).halfDies = s.halfDies := by
  cases b <;> rfl

theorem State.dropRaise_frame {u : State} {b : Bool} : (if b then u.dropRaise rail else u).sansPolders = u.sansPolders :=
  State.ite_keeps (F := State.sansPolders) (u.dropRaise_sansPolders rail) rfl

theorem State.railRaised_frame {u : State} {b : Bool} : (if b then u.railRaised rail else u).sansPolders = u.sansPolders :=
  State.ite_keeps (F := State.sansPolders) (u.railRaised_sansPolders rail) rfl

end

end Sys2Proof.Machine

open Sys2Proof Sys2Proof.Machine

/-- Settles O16: the overdraw loop leaves the cap that the planner formed; an acknowledged rail passes over the polders, each of which
changes by what stands at its own number. -/
theorem plannerRunSetsTheEffectiveCap : Obligations.PlannerRunSetsTheEffectiveCap := by
  refine ⟨?_, ?_⟩
  · intro s hr hk hs
    have kept := s.run_planKeeps hr hs
    exact ⟨_, execPlannerRun_of_running s hr, (s.run_source hr hs hk).trans s.ledger.smallest_eq,
      (s.run_effCap hr hs hk).trans s.ledger.smallestWatts_eq, kept.cap, kept.peak, kept.quotas, kept.ucm, kept.edge,
      kept.thermal, kept.power⟩
  · intro s rail r hsent next newer
    have acked := execAvsbusAck_of_sent hsent
    have raised := State.railRaised_frame (rail := rail) (u := s.acked rail r) (b := s.raises rail r)
    have rails : ∀ k, ((s.acked rail r).rail k) = if rail = k then next else s.rail k := State.acked_rail
    refine ⟨fun ho => ⟨⟨_, acked, ?_⟩, ⟨_, execAvsNoack_of_sent hsent (State.not_off_of_up ho), ?_⟩⟩,
      fun hlt hoff => ⟨⟨_, acked, ?_⟩, ⟨_, execAvsNoack_of_sent (again := true) hsent (by simp [hlt, hoff]), ?_⟩⟩⟩
    · have polder : ∀ n, (s.acked rail r).polder n = s.polder n := fun n => congrArg Prod.fst (State.acked_wanting ho n)
      have wantOf : ∀ n, (s.acked rail r).wantOf n = s.wantOf n := fun n =>
        congrArg (fun v => v.1.wantIn v.2) (State.acked_wanting ho n)
      have up := (s.acked rail r).railRaised_polder rail
      have halfDie := State.acked_halfDie (r := r) ho
      have frame := State.acked_frame (r := r) ho
      have polder_of : ∀ n, (if s.raises rail r then (s.acked rail r).railRaised rail else s.acked rail r).polder n
          = if s.raises rail r ∧ n < 24 ∧ rail ∈ (s.polder n).rails then (s.polder n).railUp rail (s.wantOf n) else s.polder n := by
        intro n
        cases s.raises rail r with
        | true => simpa [polder, wantOf] using up n
        | false => simpa using polder n
      generalize s.acked rail r = a at *
      generalize (if s.raises rail r then a.railRaised rail else a) = t at *
      have rail_eq : t.rail = a.rail := (congrArg State.rail raised :)
      have halfDie_eq : t.halfDie = a.halfDie := (congrArg State.halfDie raised :)
      have frame_eq : t = { s with ledger := { s.ledger with rails := t.ledger.rails }, polders := t.polders, halfDies := t.halfDies } := by
        have whole : t = { a with polders := t.polders } := (congrArg (fun w : State => { w with polders := t.polders }) raised :)
        have inner := congrArg (fun w : State => { w with polders := t.polders }) frame
        have ledger_eq : a.ledger.rails = t.ledger.rails := (congrArg (fun w => w.ledger.rails) raised.symm :)
        have halfDies_eq : a.halfDies = t.halfDies := (congrArg State.halfDies raised.symm :)
        refine (whole.trans inner).trans ?_
        dsimp only
        rw [ledger_eq, halfDies_eq]
      dsimp only
      rw [rail_eq, halfDie_eq]
      refine ⟨(rails rail).trans (if_pos rfl), fun k hk => (rails k).trans (if_neg hk.symm), fun hraise hnew n hn hmem => ?_,
        fun n hn => ?_, (halfDie rail).trans (if_pos rfl), fun k hk => (halfDie k).trans (if_neg hk.symm), frame_eq⟩
      · have raises : s.raises rail r = true := by
          rw [State.raises, hraise]
          exact congrArg (!·) hnew
        rw [polder_of, if_pos ⟨raises, hn, hmem⟩]
        rfl
      · refine (polder_of n).trans (if_neg fun ⟨raises, _, hmem⟩ => ?_)
        obtain ⟨hraise, hnew⟩ := Bool.and_eq_true_iff.1 raises
        obtain h | h | h := hn
        · exact h hmem
        · exact Bool.false_ne_true (h.symm.trans hraise)
        · exact absurd ((congrArg (!·) h).symm.trans hnew) (by decide)
    · have dropped := State.dropRaise_frame (rail := rail) (u := s.nacked rail false) (b := r.raise)
      have polder_of : ∀ n, (if r.raise then (s.nacked rail false).dropRaise rail else s.nacked rail false).polder n
          = if r.raise = true ∧ n < 24 ∧ rail ∈ (s.polder n).rails then (s.polder n).raiseDropped else s.polder n := by
        intro n
        cases r.raise with
        | true => simpa [-State.dropRaise_sansPolders] using (s.nacked rail false).dropRaise_polder rail n
        | false => simp
      have noted := s.nacked_noted (rail := rail) false
      have frame := s.nacked_frame (rail := rail) false
      have rails : ∀ k, (s.nacked rail false).rail k = if rail = k then next else s.rail k := s.onRail_rail rail Rail.sendNext
      generalize s.nacked rail false = a at *
      generalize (if r.raise then a.dropRaise rail else a) = t at *
      have rail_eq : t.rail = a.rail := (congrArg State.rail dropped :)
      have ledger_eq : a.ledger = t.ledger := (congrArg State.ledger dropped.symm :)
      have log_eq : a.log = t.log := (congrArg State.log dropped.symm :)
      have whole : t = { a with polders := t.polders } := (congrArg (fun w : State => { w with polders := t.polders }) dropped :)
      have inner := congrArg (fun w : State => { w with polders := t.polders }) frame
      rw [ledger_eq, log_eq] at noted
      dsimp only at inner ⊢
      rw [rail_eq]
      refine ⟨(rails rail).trans (if_pos rfl), fun k hk => (rails k).trans (if_neg hk.symm), fun hraise n hn hmem => ?_,
        fun n hn => ?_, noted.1, noted.2, ?_⟩
      · rw [polder_of, if_pos ⟨hraise, hn, hmem⟩]
        rfl
      · refine (polder_of n).trans (if_neg fun ⟨hraise, _, hmem⟩ => ?_)
        obtain h | h := hn
        · exact h hmem
        · exact Bool.false_ne_true (h.symm.trans hraise)
      · refine (whole.trans inner).trans ?_
        rw [ledger_eq, log_eq]
    · have powering := State.acked_powering_of_off (r := r) hlt hoff
      generalize s.acked rail r = a at *
      generalize (if s.raises rail r then a.railRaised rail else a) = t at *
      have rail_eq : t.rail = a.rail := (congrArg State.rail raised :)
      have halfDie_eq : t.halfDie = a.halfDie := (congrArg State.halfDie raised :)
      have ucmDie_eq : t.ucmDie = a.ucmDie := (congrArg State.ucmDie raised :)
      dsimp only
      rw [rail_eq, halfDie_eq, ucmDie_eq]
      exact ⟨(rails rail).trans (if_pos rfl), fun k hk => (rails k).trans (if_neg hk.symm), powering⟩
    · have dropped := State.dropRaise_frame (rail := rail) (u := s.nacked rail true) (b := r.raise)
      have noted := (s.nacked_noted (rail := rail) true).2
      have rails := s.nacked_rails (rail := rail) true
      have halfDies := s.nacked_halfDies (rail := rail) true
      generalize s.nacked rail true = a at *
      generalize (if r.raise then a.dropRaise rail else a) = t at *
      exact ⟨(congrArg (fun w => w.ledger.rails) dropped :).trans rails, (congrArg State.halfDies dropped :).trans halfDies,
        (congrArg State.log dropped :).trans noted⟩
end

section
/-! PROOF. SCHEDULE_LOAD and SCHEDULE_UNLOAD (R130, R131, R134, R335). -/

namespace Sys2Proof.Machine

/-! ### What the placement of records touches (R130) -/

/-- The module without what the broadcast of an image touches. -/
def State.sansPlace (s : State) : State :=
  { s.sansSends with
    scores := [], clusters := [], halfDies := [], ucm := [], ucmValid := [], ucmBad := [], ucmDies := [], merges := [] }

theorem State.sansPlace_of_sansSends {s t : State} (h : t.sansSends = s.sansSends) : t.sansPlace = s.sansPlace :=
  (congrArg State.sansPlace h :)

section
variable (s : State)

@[simp] theorem State.addLog_sansPlace (a b c d e g : Nat) : (s.addLog a b c d e g).sansPlace = s.sansPlace := rfl
@[simp] theorem State.onCluster_sansPlace (n : Nat) (g : Cluster → Cluster) : (s.onCluster n g).sansPlace = s.sansPlace := rfl
@[simp] theorem State.onScore_sansPlace (n : Nat) (g : SCore → SCore) : (s.onScore n g).sansPlace = s.sansPlace := rfl
@[simp] theorem State.merges_sansPlace (m : Sparse (List MergeEntry)) : State.sansPlace { s with merges := m } = s.sansPlace := rfl
@[simp] theorem State.ucmBad_sansPlace (m : Sparse (List SymErr)) : State.sansPlace { s with ucmBad := m } = s.sansPlace := rfl
@[simp] theorem State.ucmWrite_sansPlace (core w : Nat) (l : List Byte) : (s.ucmWrite core w l).sansPlace = s.sansPlace := rfl

@[simp] theorem State.ucmCount_sansPlace (core : Nat) (b : By) : (s.ucmCount core b).sansPlace = s.sansPlace :=
  State.ite_keeps (F := State.sansPlace) rfl rfl

@[simp] theorem State.corrected_sansPlace (source core word : Nat) (e : Errs) :
    (s.corrected source core word e).sansPlace = s.sansPlace := by
  refine State.each_keeps (F := State.sansPlace) (fun u sym => ?_) _ _
  exact State.ite_keeps (F := State.sansPlace) (State.sansPlace_of_sansSends (u.event_sansSends _ _ _ _)) rfl

@[simp] theorem State.ucmRead_sansPlace (core w source : Nat) (flips : List SymErr) (b : By) :
    (s.ucmRead core w source flips b).1.sansPlace = s.sansPlace := by
  have counted := s.ucmCount_sansPlace core b
  unfold State.ucmRead
  dsimp only
  split
  · exact counted
  · split
    · exact counted
    · split
      · exact counted
      · exact (State.corrected_sansPlace _ _ _ _ _).trans counted

@[simp] theorem State.mergeRetire_sansPlace (core w : Nat) (flips : List SymErr) :
    (s.mergeRetire core w flips).sansPlace = s.sansPlace := by
  unfold State.mergeRetire
  dsimp only
  split
  · rfl
  · split
    · rfl
    · split <;> simp

theorem State.sliceFill_sansPlace (core off : Nat) (b : List Byte) : (s.sliceFill core off b).sansPlace = s.sansPlace :=
  State.each_keeps (F := State.sansPlace) (fun u _ => (State.ucmWrite_sansPlace ..).trans (u.mergeRetire_sansPlace ..)) _ s

theorem State.place_sansPlace (cl : Nat) (g : Seg) (core : Nat) (b : List Byte) : (s.place cl g core b).sansPlace = s.sansPlace := by
  unfold State.place
  split
  · rfl
  · rfl
  · exact State.ite_keeps (F := State.sansPlace) rfl (s.sliceFill_sansPlace _ _ _)
  · rfl

/-- The state as what no record writes is cleared (R121, R130). -/
def State.cleared (s : State) (x : Polder) : State :=
  { s with
    scores := Sparse.drop (fun c => x.holds? (halfOf (clusterOf c))) s.scores
    clusters := Sparse.mapWhere {} (fun cl => x.holds? (halfOf cl)) (fun c => { c with table := [] }) s.clusters
    halfDies := Sparse.mapWhere {} x.holds? (fun h => { h with placed := h.junk }) s.halfDies }

/-- One record of an image, placed at all its targets (R129). -/
def State.placeRecord (x : Polder) (l : List Byte) (slices : Bool) (s : State) (pl : Placement) : State :=
  match (imgSegs l)[pl.seg]? with
  | none => s
  | some g =>
    if g.kind == 6 && !slices then s
    else s.each pl.targets fun s t => s.place (x.clusterAt t.1 t.2) g pl.core (g.body l)

theorem State.broadcast_eq (p : Nat) (l : List Byte) (slices : Bool) : s.broadcast p l slices
    = (s.cleared (s.polder p)).each (imgPlaces l) (State.placeRecord (s.polder p) l slices) := rfl

theorem State.placeRecord_sansPlace (x : Polder) (l : List Byte) (slices : Bool) (pl : Placement) :
    (s.placeRecord x l slices pl).sansPlace = s.sansPlace := by
  unfold State.placeRecord
  split
  · rfl
  · exact State.ite_keeps (F := State.sansPlace) rfl (State.each_keeps (F := State.sansPlace) (fun u t => u.place_sansPlace ..) _ s)

/-- What the broadcast of an image leaves of the module. -/
@[simp] theorem State.broadcast_sansPlace (p : Nat) (l : List Byte) (slices : Bool) :
    (s.broadcast p l slices).sansPlace = s.sansPlace := by
  rw [State.broadcast_eq, State.each_keeps (F := State.sansPlace) (fun u pl => u.placeRecord_sansPlace _ l slices pl)]
  rfl

end

/-! ### Images -/

theorem fieldAt_take (l : List Byte) {n off k : Nat} (h : off + k ≤ n) : fieldAt (l.take n) off k = fieldAt l off k := by
  unfold fieldAt
  rw [List.drop_take, List.take_take, Nat.min_eq_left (by omega)]

theorem firstFail_none {l : List (Bool × Status)} (h : firstFail l = none) : ∀ x ∈ l, x.1 = false := by
  induction l with
  | nil => simp
  | cons y r ih =>
    obtain ⟨b, st⟩ := y
    cases b with
    | true => cases h
    | false => exact List.forall_mem_cons.2 ⟨rfl, ih h⟩

/-- An image that passes the checks holds its whole header (R123, R134). -/
theorem State.imgLen_of_imageCheck {s : State} {p : Polder} {l : List Byte} (h : s.imageCheck p l = none) : 0x80 ≤ imgLen l := by
  have passed : imgBoundsCheck l = none := by
    unfold State.imageCheck at h
    dsimp only at h
    split at h
    · cases h
    · split at h
      · cases h
      · next hb => exact hb
  have header := firstFail_none passed (decide (16 < imgSections l) || decide (imgLen l < 0x80 + 16 * imgSections l), .bound) (by simp)
  simp only [Bool.or_eq_false_iff, decide_eq_false_iff_not] at header
  omega

/-- The state as an image is taken and broadcast. -/
def State.loaded (s : State) (n : Nat) (img : List Byte) : State :=
  (s.onPolder n fun p => { p with state := .loaded, image := img }).broadcast n img true

theorem State.loaded_polder (s : State) (n : Nat) (img : List Byte) (k : Nat) : (s.loaded n img).polder k
    = if n = k then { s.polder n with state := .loaded, image := img } else s.polder k := by
  have polders := State.broadcast_sansPlace (s.onPolder n fun p => { p with state := .loaded, image := img }) n img true
  have kept : (s.loaded n img).polder k = (s.onPolder n fun p => { p with state := .loaded, image := img }).polder k :=
    (congrArg (fun w => w.polder k) polders :)
  rw [kept, State.onPolder_polder]

theorem State.loaded_frame (s : State) (n : Nat) (img : List Byte) : s.loaded n img = { s with
    polders := (s.loaded n img).polders, scores := (s.loaded n img).scores, clusters := (s.loaded n img).clusters
    ucm := (s.loaded n img).ucm, ucmValid := (s.loaded n img).ucmValid, ucmBad := (s.loaded n img).ucmBad
    ucmDies := (s.loaded n img).ucmDies, merges := (s.loaded n img).merges, log := (s.loaded n img).log
    funcs := (s.loaded n img).funcs, hostMem := (s.loaded n img).hostMem, msixSent := (s.loaded n img).msixSent
    halfDies := (s.loaded n img).halfDies } := by
  have kept : (s.loaded n img).sansPlace = (s.onPolder n fun p => { p with state := .loaded, image := img }).sansPlace :=
    State.broadcast_sansPlace _ n img true
  generalize s.loaded n img = v at *
  exact (congrArg (fun w : State => { w with
    polders := v.polders, scores := v.scores, clusters := v.clusters, ucm := v.ucm, ucmValid := v.ucmValid, ucmBad := v.ucmBad
    ucmDies := v.ucmDies, merges := v.merges, log := v.log, funcs := v.funcs, hostMem := v.hostMem, msixSent := v.msixSent
    halfDies := v.halfDies }) kept :)

section
variable {s u : State} {f : Nat} {c : Cmd} (hfail : u.polderFail (c.a 1) false = none) (hjob : (u.polder (c.a 1)).job = none)
include hfail hjob

theorem execScheduleLoad_of_good (h : s.TakesOp f 0x20 c u) (hst : (u.polder (c.a 1)).state = .empty ∨ (u.polder (c.a 1)).state = .loaded)
    (himg : u.imageCheck (u.polder (c.a 1)) c.body = none) :
    exec (.scheduleLoad f) s = .next ((u.loaded (c.a 1) (c.body.take (imgLen c.body))).answer c
      { polder := c.a 1, r0 := fieldAt c.body 0x20 8, r1 := fieldAt c.body 0x28 8 }) := by
  have free : ((u.polder (c.a 1)).state == .running || (u.polder (c.a 1)).state == .resetting
      || (u.polder (c.a 1)).pending) = false := by
    obtain h | h := hst <;> simp [h, Polder.pending, hjob]
  have whole := State.imgLen_of_imageCheck himg
  refine congrArg Host.Outcome.next ((command_of_takesOp _ h).trans ?_)
  dsimp only
  rw [hfail]
  dsimp only
  rw [free]
  simp only [Bool.false_eq_true, if_false]
  rw [himg]
  dsimp only
  rw [fieldAt_take _ (by omega), fieldAt_take _ (by omega)]
  rfl

theorem execScheduleUnload_of_loaded (h : s.TakesOp f 0x21 c u) (hst : (u.polder (c.a 1)).state = .loaded) :
    exec (.scheduleUnload f) s = .next ((u.onPolder (c.a 1) fun p => { p with state := .empty, image := [] }).answer c
      { polder := c.a 1 }) := by
  have pending : (u.polder (c.a 1)).pending = false := by simp [Polder.pending, hjob]
  refine congrArg Host.Outcome.next ((command_of_takesOp _ h).trans ?_)
  dsimp only
  rw [hfail]
  dsimp only
  rw [hst, pending]
  rfl

end

end Sys2Proof.Machine

open Sys2Proof Sys2Proof.Machine

/-- Settles O17: every record of an image is placed by operations that keep the polders, and an image that passes the checks holds
the IMAGE_ID of its header. -/
theorem scheduleLoadMakesThePolderLoaded : Obligations.ScheduleLoadMakesThePolderLoaded := by
  intro s u f c hfail hjob
  refine ⟨fun h hst _ himg => ?_, fun h hst => ?_⟩
  · obtain ⟨m, rest, -, -, -, -, -, rfl, -⟩ := id h
    have made := execScheduleLoad_of_good hfail hjob h hst himg
    have polder := State.loaded_polder (s.onFunc f fun x => { x with inbox := rest }) (c.a 1) (c.body.take (imgLen c.body))
    have frame := State.loaded_frame (s.onFunc f fun x => { x with inbox := rest }) (c.a 1) (c.body.take (imgLen c.body))
    have broadcast : State.loaded (s.onFunc f fun x => { x with inbox := rest }) (c.a 1) (c.body.take (imgLen c.body)) = _ := rfl
    refine ⟨_, made, broadcast, (polder _).trans (if_pos rfl), fun k hk => (polder k).trans (if_neg hk.symm), ?_⟩
    generalize State.loaded (s.onFunc f fun x => { x with inbox := rest }) (c.a 1) (c.body.take (imgLen c.body)) = v at *
    generalize s.onFunc f (fun x => { x with inbox := rest }) = u at *
    have fresh : v.fresh = u.fresh := (congrArg State.fresh frame :)
    have accErr : v.accErr = u.accErr := (congrArg State.accErr frame :)
    have accLog : v.accLog = u.accLog := (congrArg State.accLog frame :)
    have ledger : v.ledger = u.ledger := (congrArg State.ledger frame :)
    have ucmScrub : v.ucmScrub = u.ucmScrub := (congrArg State.ucmScrub frame :)
    rw [fresh, accErr, accLog, ledger, ucmScrub]
    exact frame
  · obtain ⟨m, rest, -, -, -, -, -, rfl, -⟩ := id h
    exact execScheduleUnload_of_loaded hfail hjob h hst
end

section
/-! PROOF. JOB_RUN and CONTEXT_RESTORE queue a job (R332, R337, R342). -/

namespace Sys2Proof.Machine

/-- A command that firmware takes is of the function whose message it is. -/
theorem State.TakesOp.func_eq {s u : State} {f opc : Nat} {c : Cmd} (h : s.TakesOp f opc c u) : c.func = f := by
  obtain ⟨m, rest, -, -, -, -, -, -, hok⟩ := h
  unfold State.checked at hok
  split at hok
  · cases hok
  · split at hok
    · cases hok
    · dsimp only at hok
      split at hok
      · cases hok
      · cases hok
        rfl

theorem State.rotated_of_still {s : State} (h : s.thermal.rotate = false) (f n : Nat) : s.rotated f n = n := by
  simp [State.rotated, h]

section
variable {s u : State} {f : Nat} {c : Cmd} (hrot : u.thermal.rotate = false) (hfail : u.polderFail (c.a 1) false = none)
  (hst : (u.polder (c.a 1)).state = .loaded) (hjob : (u.polder (c.a 1)).job = none) (hfence : (u.polder (c.a 1)).fenced = false)
  (hwide : (u.polder (c.a 1)).wideEnough (u.polder (c.a 1)).image = true)
  (hfits : c.fits (64 + 32 * (u.polder (c.a 1)).clusters.length) = true)
include hrot hfail hst hjob hfence hwide hfits

theorem execJobRun_of_good {maps : List RandEntry} (h : s.TakesOp f 0x22 c u) (ht : c.a 3 ≠ 0) (ha : c.a 4 ≠ 0)
    (hmaps : replaceMaps (imgMaps (u.polder (c.a 1)).image) c = some maps) :
    exec (.jobRun f) s = .next (u.queueJob c (c.a 1) (c.a 2) (c.a 3) (c.a 4) maps []) := by
  refine congrArg Host.Outcome.next ((command_of_takesOp _ h).trans ?_)
  have same : (if decide (c.a 1 < 24) = true then u.rotated f (c.a 1) else c.a 1) = c.a 1 := by
    rw [State.rotated_of_still hrot, ite_self]
  dsimp only
  rw [same, hfail]
  simp [firstFail, hst, hjob, hfence, hwide, ht, ha, hmaps, hfits]

theorem execContextRestore_of_good (h : s.TakesOp f 0x25 c u) (ht : c.a 2 ≠ 0) (ha : c.a 3 ≠ 0) {size : Nat}
    (hsize : size = ctxBytes (u.polder (c.a 1)).clusters.length (bit (fieldAt c.body 0x2C 4) 0))
    (hn : fieldAt c.body 0x28 4 = (u.polder (c.a 1)).clusters.length) (hbytes : fieldAt c.body 0x20 8 = size)
    (hlen : size ≤ c.body.length) (hmagic : fieldAt c.body 0 4 = ctxMagic) (hversion : fieldAt c.body 4 2 = 1)
    (hdigest : ctxDigest (c.body.take size) = (c.body.drop 0x40).take 32)
    (hshape : fieldAt c.body 8 8 = (u.polder (c.a 1)).shape) (h7 : fieldAt c.body 7 1 = 8) (h6 : fieldAt c.body 6 1 = u.level)
    (himg : (c.body.drop 0x10).take 16 = imgId (u.polder (c.a 1)).image) :
    exec (.contextRestore f) s = .next (u.queueJob c (c.a 1) 0 (c.a 2) (c.a 3)
      ((chunks 24 ((c.body.drop 0x100).take (24 * (imgMaps (u.polder (c.a 1)).image).length))).map fun r =>
        ⟨BitVec.ofNat 64 (fieldAt r 0 8), BitVec.ofNat 32 (fieldAt r 8 4), BitVec.ofNat 64 (fieldAt r 16 8)⟩)
      (c.body.take size)) := by
  refine congrArg Host.Outcome.next ((command_of_takesOp _ h).trans ?_)
  have same : (if decide (c.a 1 < 24) = true then u.rotated f (c.a 1) else c.a 1) = c.a 1 := by
    rw [State.rotated_of_still hrot, ite_self]
  have some_ : size ≠ 0 := by
    rw [hsize]
    unfold ctxBytes
    omega
  dsimp only
  rw [same, hfail]
  simp only [hn, ← hsize, hbytes]
  simp [firstFail, hst, hjob, hfence, hwide, hfits, ht, ha, some_, Nat.not_lt.2 hlen, hmagic, hversion, hdigest, hshape, h7, h6, himg]

end

end Sys2Proof.Machine

open Sys2Proof Sys2Proof.Machine

/-- Settles O18: every check of the two commands passes, and what they queue is one waiting job. -/
theorem jobRunQueuesTheJob : Obligations.JobRunQueuesTheJob := by
  intro s u f c hrot hfail hst hjob hfence hwide hfits queued
  refine ⟨fun maps h ht ha hmaps => ?_, fun h ht ha => ?_⟩
  · obtain rfl := h.func_eq
    obtain ⟨m, rest, -, -, -, -, -, rfl, -⟩ := id h
    exact execJobRun_of_good (u := s.onFunc c.func fun x => { x with inbox := rest }) hrot hfail hst hjob hfence hwide hfits
      h ht ha hmaps
  · obtain rfl := h.func_eq
    obtain ⟨m, rest, -, -, -, -, -, rfl, -⟩ := id h
    intro size hn hbytes hlen hmagic hversion hdigest hshape h7 h6 himg
    exact execContextRestore_of_good (u := s.onFunc c.func fun x => { x with inbox := rest }) hrot hfail hst hjob hfence hwide hfits
      h ht ha rfl hn hbytes hlen hmagic hversion hdigest hshape h7 h6 himg
end

section
/-! PROOF. The ends of jobs: those that wait, those that are cancelled, and those that run (R18, R122, R337-R339). -/

namespace Sys2Proof.Machine

section
variable {s : State} {p : Nat} {j : Job} (hjob : (s.polder p).job = some j)
include hjob

/-! ### Jobs that wait -/

section
variable (hphase : j.phase = .waiting) (hrun : s.trust.running = true)
include hphase hrun

omit hphase hrun in
theorem execAdmissionTimeout_of_early (he : s.admitExpired j = false) : execAdmissionTimeout p s = .next s := by
  simp [execAdmissionTimeout, hjob, he]

variable (he : s.admitExpired j = true)
include he

theorem execAdmissionTimeout_of_unfit (hb : s.bestStep p (s.allocFor (s.ledger.effCap - s.committedSum) p) = none) :
    execAdmissionTimeout p s = .next (s.failWaiting p) := by
  simp [execAdmissionTimeout, hjob, hphase, hrun, he, hb]

theorem execAdmissionTimeout_of_fit {st : Nat} (hb : s.bestStep p (s.allocFor (s.ledger.effCap - s.committedSum) p) = some st) :
    execAdmissionTimeout p s = .next
      (if s.admissionOff || s.power.sagHold || decide (s.ledger.effCap < s.committedSum) then s.failWaiting p
      else if s.b0Hold p then s.finishJob p .timeout (2 ^ 31) else (s.admitJob p st).noteFreeboard) := by
  simp [execAdmissionTimeout, hjob, hphase, hrun, he, hb]

end

/-! ### Jobs that end -/

omit hjob in
theorem execJobEnd_of_done (hst : (s.polder p).state = .running) (hg : s.gated p = false) (hh : (s.polder p).holds = [])
    (hd : s.jobDone p = true) : execJobEnd p s = .next
      ((((s.finishJob p .ok 0).closeSluices p).idleHalfDies p).onPolder p fun x => { x with state := .loaded }) := by
  simp [execJobEnd, hst, hg, hh, hd]

omit hjob in
theorem execJobTimeout_of_late (hst : (s.polder p).state = .running) (hrun : s.trust.running = true) (hg : s.gated p = false)
    (hl : s.jobLate p = true) : execJobTimeout p s = .next (s.failJob p (if s.jobDone p then .ok else .timeout) 0) := by
  simp [execJobTimeout, hst, hrun, hg, hl]

theorem State.failJob_of_running (hphase : j.phase = .running) (st : Status) (extra : Nat) :
    s.failJob p st extra = ((s.finishJob p st extra).halt p).1 := by
  simp [State.failJob, hjob, hphase]

/-- A job that fails leaves its polder HALTED without a job, and every other polder as it was. -/
theorem State.failJob_polder (hphase : j.phase = .running) (st : Status) (extra : Nat) :
    ((s.failJob p st extra).polder p).state = .halted ∧ ((s.failJob p st extra).polder p).job = none
      ∧ ∀ k, k ≠ p → (s.failJob p st extra).polder k = s.polder k := by
  rw [State.failJob_of_running hjob hphase]
  refine ⟨?_, ?_, fun k hk => ?_⟩
  · rw [State.halt_polder, if_pos rfl]
  · rw [State.halt_polder, if_pos rfl]
    exact (s.finishJob_polder p st extra).2
  · rw [State.halt_polder, if_neg hk.symm, s.finishJob_polder_of_ne hk]

/-- The record of a job that has no output buffer and no command of its own that waits (R328, R338). -/
theorem State.finishJob_of_running (hphase : j.phase = .running) (hrun : s.trust.running = true) (ho : j.outAddr = 0)
    (hs : j.silent = false) (hc : ∀ c, (s.polder p).command = some c → c.opc ≠ 0x24) (st : Status) (extra : Nat) :
    s.finishJob p st extra = ((s.countCycles p).onPolder p fun x => { x with
        job := none, peakDown := 0, overDown := 0, quotaDown := 0, rails := [], weir := none, nextStep := none }).complete
      j.func j.tag j.opc j.notify
      { status := st
        polder := p
        r0 := ((s.meter (mPolder p)).total - j.energy0) / 1000000
        r1 := (s.time.dev - j.startAt) * 10
        detail := (s.jobFlags p).toNat + j.admittedStep * 2 ^ 8 + extra } := by
  have unsaved : s.endSave p = s := by
    unfold State.endSave
    refine if_neg ?_
    cases hcmd : (s.polder p).command with
    | none => simp
    | some c => simpa using hc c hcmd
  have running : (s.countCycles p).trust.running = true :=
    (congrArg (fun u => u.trust.running) (s.countCycles_sansJob p) :).trans hrun
  unfold State.finishJob
  rw [hjob]
  dsimp only
  rw [unsaved, hphase, hs, ho]
  simp only [beq_self_eq_true, if_true, Bool.false_or, State.onPolder_trust, running, bne_self_eq_false, Bool.and_false,
    Bool.not_true, Bool.false_eq_true, if_false, State.writeOut_nil, List.length_nil]
  rfl

end

/-! ### JOB_CANCEL -/

/-- The checks of JOB_CANCEL (R339). -/
theorem execJobCancel_of_open {s u : State} {f : Nat} {c : Cmd} (h : s.TakesOp f 0x23 c u) (hn : c.a 1 < 24)
    (he : (u.polder (c.a 1)).exists_ = true) (hcool : u.thermal.coolantHold = false) (hg : u.gated (c.a 1) = false)
    (hh : (u.polder (c.a 1)).state ≠ .halted) : exec (.jobCancel f) s = .next (match (u.polder (c.a 1)).job with
      | none => u.answer c { polder := c.a 1 }
      | some j =>
        if j.phase != .running then (u.finishJob (c.a 1) .aborted 0).answer c { polder := c.a 1, r0 := j.tag + 2 ^ 16 }
        else if u.jobDone (c.a 1) then u.answer c { polder := c.a 1 }
        else (u.gatePolder (c.a 1)).1.answer c { polder := c.a 1, r0 := j.tag + 2 ^ 16 }) := by
  refine congrArg Host.Outcome.next ((command_of_takesOp _ h).trans ?_)
  have checks : firstFail [
        (decide (24 ≤ c.a 1) || !(u.polder (c.a 1)).exists_, Status.bound),
        (u.thermal.coolantHold || u.gated (c.a 1) || (u.polder (c.a 1)).state == .halted, .busy)] = none := by
    simp [firstFail, hn, he, hcool, hg, hh]
  dsimp only
  rw [checks] <;> rfl

/-! ### The state as a job has ended -/

/-- The state as a job's end condition is met. -/
def State.jobEnded (s : State) (p : Nat) : State :=
  (((s.finishJob p .ok 0).closeSluices p).idleHalfDies p).onPolder p fun x => { x with state := .loaded }

section
variable (s : State) (p : Nat)

theorem State.polder_of_polders {s t : State} (h : t.polders = s.polders) : t.polder = s.polder := by
  unfold State.polder
  rw [h]

theorem State.jobEnded_polder (k : Nat) : (s.jobEnded p).polder k
    = if p = k then { (s.finishJob p .ok 0).polder p with state := .loaded } else (s.finishJob p .ok 0).polder k := by
  have kept : (((s.finishJob p .ok 0).closeSluices p).idleHalfDies p).polder = (s.finishJob p .ok 0).polder := by
    rw [State.polder_of_polders (State.idleHalfDies_polders _ p)]
    funext k
    exact State.closeSluices_polder ..
  rw [State.jobEnded, State.onPolder_polder, kept]

theorem State.jobEnded_power {h : Nat} (hh : h ∈ (s.polder p).halfDies) : ((s.jobEnded p).halfDie h).power ≠ .active := by
  have same : ((s.finishJob p .ok 0).polder p).halfDies = (s.polder p).halfDies :=
    (congrArg Polder.halfDies (s.finishJob_polder p .ok 0).1 :)
  have rested : (s.jobEnded p).halfDie h = (((s.finishJob p .ok 0).closeSluices p).halfDie h).rested := by
    refine (State.idleHalfDies_halfDie _ p h).trans (if_pos ?_)
    rw [State.closeSluices_polder, same]
    exact hh
  rw [rested]
  unfold HalfDie.rested
  split
  · exact (by decide : HdState.idle ≠ HdState.active)
  · next ha => simpa using ha

/-- What sending touches, as the end of the job has left it. -/
theorem State.jobEnded_sent : ((s.jobEnded p).hostMem, (s.jobEnded p).funcs, (s.jobEnded p).msixSent)
    = ((s.finishJob p .ok 0).hostMem, (s.finishJob p .ok 0).funcs, (s.finishJob p .ok 0).msixSent) := by
  have idle : (s.jobEnded p).sansHalt = ((s.finishJob p .ok 0).closeSluices p).sansHalt := by
    rw [State.jobEnded, State.onPolder_sansHalt, State.idleHalfDies_sansHalt]
  have closed : ((s.finishJob p .ok 0).closeSluices p).sansHalt = (s.finishJob p .ok 0).sansHalt :=
    State.onCluster_discard_sansHalt _ _ Cluster.close
  have kept := idle.trans closed
  generalize s.finishJob p .ok 0 = v at *
  generalize s.jobEnded p = t at *
  exact (congrArg (fun w => (w.hostMem, w.funcs, w.msixSent)) kept :)

end

end Sys2Proof.Machine

open Sys2Proof Sys2Proof.Machine

/-- Settles O19: the guards of the two commands, branch by branch. -/
theorem waitingJobsEnd : Obligations.WaitingJobsEnd := by
  refine ⟨fun s p j hjob hphase hrun => ⟨execAdmissionTimeout_of_early hjob, fun he => ?_⟩, fun s u f c h hn he hcool hg hh => ?_⟩
  · intro best off
    refine ⟨execAdmissionTimeout_of_unfit hjob hphase hrun he, fun st hb => ?_⟩
    have made := execAdmissionTimeout_of_fit hjob hphase hrun he hb
    have off_iff : (s.admissionOff || s.power.sagHold || decide (s.ledger.effCap < s.committedSum)) = true ↔ off := by
      simp [off, or_assoc]
    refine ⟨fun ho => ?_, fun ho hb0 => ?_, fun ho hb0 => ?_⟩
    · rw [if_pos (off_iff.2 ho)] at made
      exact made
    · rw [if_neg (mt off_iff.1 ho), if_pos hb0] at made
      exact made
    · rw [if_neg (mt off_iff.1 ho), hb0, if_neg Bool.false_ne_true] at made
      exact made
  · obtain ⟨m, rest, -, -, -, -, -, rfl, -⟩ := id h
    have made := execJobCancel_of_open h hn he hcool hg hh
    refine ⟨fun hj => ?_, fun j hj => ⟨fun hp => ?_, fun hp hd => ?_, fun hp hd => ?_⟩⟩
    all_goals
      rw [show (State.polder (s.onFunc f fun x => { x with inbox := rest }) (c.a 1)).job = _ from hj] at made
    · exact made
    · exact made.trans (congrArg Host.Outcome.next (if_pos (by simpa using hp)))
    · exact made.trans (congrArg Host.Outcome.next ((if_neg (by simpa using hp)).trans (if_pos hd)))
    · exact made.trans (congrArg Host.Outcome.next ((if_neg (by simpa using hp)).trans (if_neg (ne_true_of_eq_false hd))))

/-- Settles O21: the end of a job clears what belongs to it; the half-dies then rest, or the polder halts. -/
theorem jobEndsWithItsRecord : Obligations.JobEndsWithItsRecord := by
  intro s p j hjob hphase hst hrun hg
  refine ⟨fun hh hd => ⟨s.jobEnded p, execJobEnd_of_done hst hg hh hd, ?_, ?_, fun h hm => s.jobEnded_power p hm, fun k hk => ?_,
    s.finishJob p .ok 0, rfl, ?_⟩, fun st extra ho hs hc => s.finishJob_of_running hjob hphase hrun ho hs hc st extra,
    fun hl => ⟨_, execJobTimeout_of_late hst hrun hg hl, rfl, State.failJob_polder hjob hphase _ _⟩⟩
  · rw [State.jobEnded_polder, if_pos rfl]
  · rw [State.jobEnded_polder, if_pos rfl]
    exact (s.finishJob_polder p .ok 0).2
  · rw [State.jobEnded_polder, if_neg hk.symm, s.finishJob_polder_of_ne hk]
  · simpa only [Prod.mk.injEq] using s.jobEnded_sent p
end

section
/-! PROOF. An admitted job starts at slot 0 (R121, R390). -/

namespace Sys2Proof.Machine

/-! ### What the start of a job touches -/

/-- The module without what the start of a job touches. -/
def State.sansStart (s : State) : State :=
  { s with tcores := [], vcores := [], scores := [], clusters := [], halfDies := [], polders := [] }

/-- What every step of a pass keeps, the pass keeps. -/
theorem State.each_preserves {α : Type} {P : State → Prop} {g : State → α → State} :
    ∀ (l : List α) (s : State), (∀ u, ∀ y ∈ l, P u → P (g u y)) → P s → P (s.each l g) := by
  intro l
  induction l with
  | nil => exact fun _ _ h => h
  | cons y r ih =>
    intro s keep h
    exact ih _ (fun u z hz => keep u z (List.mem_cons_of_mem _ hz)) (keep s y List.mem_cons_self h)

/-- What a pass establishes at one of its units and keeps at every other. -/
theorem State.each_establishes {α : Type} {P : State → Prop} {g : State → α → State} {x : α} (own : ∀ u, P (g u x)) :
    ∀ (l : List α) (s : State), (∀ u, ∀ y ∈ l, P u → P (g u y)) → x ∈ l → P (s.each l g) := by
  intro l
  induction l with
  | nil => exact fun _ _ h => absurd h List.not_mem_nil
  | cons y r ih =>
    intro s keep hx
    have later : ∀ u, ∀ z ∈ r, P u → P (g u z) := fun u z hz => keep u z (List.mem_cons_of_mem _ hz)
    obtain rfl | hr := List.mem_cons.1 hx
    · exact State.each_preserves r _ later (own s)
    · exact ih _ later hr

section
variable (s : State)

/-- Placing what is not for a slice touches S-cores and clusters alone (R130). -/
theorem State.place_keeps {β : Type} {F : State → β} (hs : ∀ (u : State) n g, F (u.onScore n g) = F u)
    (hc : ∀ (u : State) n g, F (u.onCluster n g) = F u) {g : Seg} (hg : g.kind ≠ 6) (cl core : Nat) (b : List Byte) :
    F (s.place cl g core b) = F s := by
  unfold State.place
  split
  · exact hs ..
  · exact hc ..
  · next h => exact absurd h hg
  · exact hs ..

theorem State.placeRecord_keeps {β : Type} {F : State → β} (hs : ∀ (u : State) n g, F (u.onScore n g) = F u)
    (hc : ∀ (u : State) n g, F (u.onCluster n g) = F u) (x : Polder) (l : List Byte) (pl : Placement) :
    F (s.placeRecord x l false pl) = F s := by
  unfold State.placeRecord
  split
  · rfl
  · next g _ =>
    by_cases hk : g.kind = 6
    · rw [if_pos (by simp [hk])]
    · rw [if_neg (by simp [hk])]
      exact State.each_keeps (F := F) (fun u t => u.place_keeps hs hc hk _ _ _) _ s

/-- The broadcast at the start of a job, which sends no slice. -/
theorem State.broadcast_keeps {β : Type} {F : State → β} (hs : ∀ (u : State) n g, F (u.onScore n g) = F u)
    (hc : ∀ (u : State) n g, F (u.onCluster n g) = F u) (p : Nat) (l : List Byte) :
    F (s.broadcast p l false) = F (s.cleared (s.polder p)) := by
  rw [State.broadcast_eq]
  exact State.each_keeps (F := F) (fun u pl => u.placeRecord_keeps hs hc _ l pl) _ _

theorem State.broadcast_sansStart (p : Nat) (l : List Byte) : (s.broadcast p l false).sansStart = s.sansStart :=
  s.broadcast_keeps (F := State.sansStart) (fun _ _ _ => rfl) (fun _ _ _ => rfl) p l

theorem State.broadcast_polders (p : Nat) (l : List Byte) : (s.broadcast p l false).polders = s.polders :=
  s.broadcast_keeps (F := State.polders) (fun _ _ _ => rfl) (fun _ _ _ => rfl) p l

/-- After a broadcast no half-die of the polder has lost contents unplaced (R130). -/
theorem State.broadcast_halfDie (p : Nat) (l : List Byte) (k : Nat) : (s.broadcast p l false).halfDie k
    = if (s.polder p).holds? k then { s.halfDie k with placed := (s.halfDie k).junk } else s.halfDie k := by
  rw [s.broadcast_keeps (F := fun u => u.halfDie k) (fun _ _ _ => rfl) (fun _ _ _ => rfl) p l]
  exact Sparse.get_mapWhere _ _ _ rfl _ _

/-! ### The S-cores that start -/

/-- One S-core of a cluster starts where the image gives it code (R121). -/
def State.startCore (x : Polder) (cl arg : Nat) (s : State) (core : Nat) : State :=
  if hasCode x cl core then s.onScore core fun k => k.start (x.coordWord cl) core arg else s

/-- A cluster starts. -/
def State.startCluster (x : Polder) (j : Job) (s : State) (cl : Nat) : State :=
  (s.onCluster cl fun c => c.start j.maps).each ((List.range 4).map fun i => cl * 64 + 60 + i) (State.startCore x cl j.arg)

theorem State.startJob_eq (p : Nat) (j : Job) : s.startJob p j =
    ((((((s.broadcast p (s.polder p).image false).each ((s.broadcast p (s.polder p).image false).polder p).clusters
      (State.startCluster ((s.broadcast p (s.polder p).image false).polder p) j)).clearFlags p).onPolder p
        fun x => { x with slot := 0, holdCount := 0 })).goActive p) := rfl

/-- An S-core as it starts (R121). -/
structure SCore.Started (k : SCore) (coord core arg : Nat) : Prop where
  pc : k.pc = 0
  ended : k.ended = false
  x10 : k.reg 10 = BitVec.ofNat 32 coord
  x11 : k.reg 11 = BitVec.ofNat 32 (core % 64)
  x12 : k.reg 12 = BitVec.ofNat 32 arg

theorem SCore.start_started (k : SCore) (coord core arg : Nat) : (k.start coord core arg).Started coord core arg where
  pc := rfl
  ended := rfl
  x10 := by simp [SCore.start, SCore.reg, Sparse.get_set]
  x11 := by simp [SCore.start, SCore.reg, Sparse.get_set]
  x12 := by simp [SCore.start, SCore.reg, Sparse.get_set]

theorem State.startCluster_keeps {β : Type} {F : State → β} (hs : ∀ (u : State) n g, F (u.onScore n g) = F u)
    (hc : ∀ (u : State) n g, F (u.onCluster n g) = F u) (x : Polder) (j : Job) (cl : Nat) :
    F (s.startCluster x j cl) = F s := by
  refine (State.each_keeps (F := F) (g := State.startCore x cl j.arg) (fun u core => ?_) _ _).trans (hc s cl _)
  exact State.ite_keeps (F := F) (hs ..) rfl

theorem State.startCore_started {x : Polder} {cl arg core : Nat} (hcode : hasCode x cl core = true) :
    ((s.startCore x cl arg core).score core).Started (x.coordWord cl) core arg := by
  rw [State.startCore, if_pos hcode, State.onScore_score, if_pos rfl]
  exact SCore.start_started ..

theorem State.startCore_score_of_ne {x : Polder} {cl arg core k : Nat} (hk : k ≠ core) :
    (s.startCore x cl arg core).score k = s.score k := by
  unfold State.startCore
  split
  · rw [State.onScore_score, if_neg hk.symm]
  · rfl

/-- Every S-core that the image gives code starts. -/
theorem State.startAll_started {x : Polder} {j : Job} {cls : List Nat} {cl i : Nat} (hcl : cl ∈ cls) (hi : i < 4)
    (hcode : hasCode x cl (cl * 64 + 60 + i) = true) :
    ((s.each cls (State.startCluster x j)).score (cl * 64 + 60 + i)).Started (x.coordWord cl) (cl * 64 + 60 + i) j.arg := by
  have coreOf : ∀ (u : State) (c k : Nat), k ∈ (List.range 4).map (fun i => c * 64 + 60 + i) →
      (u.score (cl * 64 + 60 + i)).Started (x.coordWord cl) (cl * 64 + 60 + i) j.arg →
      ((u.startCore x c j.arg k).score (cl * 64 + 60 + i)).Started (x.coordWord cl) (cl * 64 + 60 + i) j.arg := by
    intro u c k hk hu
    by_cases same : cl * 64 + 60 + i = k
    · obtain ⟨i', hi', rfl⟩ := List.mem_map.1 hk
      have hi' := List.mem_range.1 hi'
      obtain rfl : c = cl := by omega
      obtain rfl : i' = i := by omega
      exact u.startCore_started hcode
    · rw [u.startCore_score_of_ne same]
      exact hu
  refine State.each_establishes (P := fun u => (u.score (cl * 64 + 60 + i)).Started (x.coordWord cl) (cl * 64 + 60 + i) j.arg)
    (x := cl) (fun u => ?_) cls s (fun u c _ hu => ?_) hcl
  · exact State.each_establishes (P := fun u => (u.score (cl * 64 + 60 + i)).Started (x.coordWord cl) (cl * 64 + 60 + i) j.arg)
      (fun v => v.startCore_started hcode) _ _ (fun v k hk => coreOf v cl k hk)
      (List.mem_map.2 ⟨i, List.mem_range.2 hi, rfl⟩)
  · exact State.each_preserves (P := fun u => (u.score (cl * 64 + 60 + i)).Started (x.coordWord cl) (cl * 64 + 60 + i) j.arg)
      _ _ (fun v k hk => coreOf v c k hk) hu

/-! ### Flags are cleared, and the half-dies become ACTIVE -/

/-- An S-core has started, and its half-die, if it is the polder's, has no contents that were lost unplaced. -/
structure State.Ready (x : Polder) (core coord arg : Nat) (s : State) : Prop where
  placed : x.holds? (halfOf (clusterOf core)) = true →
    (s.halfDie (halfOf (clusterOf core))).junk = (s.halfDie (halfOf (clusterOf core))).placed
  started : (s.score core).Started coord core arg

theorem State.score_of_placed {core : Nat}
    (h : (s.halfDie (halfOf (clusterOf core))).junk = (s.halfDie (halfOf (clusterOf core))).placed) :
    s.score core = Sparse.get {} s.scores core := by
  unfold State.score SCore.untouched
  rw [h, beq_self_eq_true, if_pos rfl]

section
variable {x : Polder} {core coord arg : Nat} {u : State} (hu : u.Ready x core coord arg)
include hu

theorem State.Ready.onHalfDie {h : Nat} {g : HalfDie → HalfDie} (hh : x.holds? h = true)
    (hg : ∀ y, (g y).junk = y.junk ∧ (g y).placed = y.placed) : (u.onHalfDie h g).Ready x core coord arg := by
  have same : ∀ k, ((u.onHalfDie h g).halfDie k).junk = (u.halfDie k).junk
      ∧ ((u.onHalfDie h g).halfDie k).placed = (u.halfDie k).placed := by
    intro k
    rw [State.onHalfDie_halfDie]
    split
    · next e => rw [← e]; exact hg _
    · exact ⟨rfl, rfl⟩
  have placed : x.holds? (halfOf (clusterOf core)) = true → ((u.onHalfDie h g).halfDie (halfOf (clusterOf core))).junk
      = ((u.onHalfDie h g).halfDie (halfOf (clusterOf core))).placed := fun hx => by
    rw [(same _).1, (same _).2]
    exact hu.placed hx
  refine ⟨placed, ?_⟩
  by_cases e : h = halfOf (clusterOf core)
  · have now := State.score_of_placed _ (placed (e ▸ hh))
    have before := State.score_of_placed _ (hu.placed (e ▸ hh))
    rw [now, State.onHalfDie_scores, ← before]
    exact hu.started
  · have far : (u.onHalfDie h g).halfDie (halfOf (clusterOf core)) = u.halfDie (halfOf (clusterOf core)) := by
      rw [State.onHalfDie_halfDie, if_neg e]
    rw [State.score, far, State.onHalfDie_scores]
    exact hu.started

theorem State.Ready.flagsCleared (k : Nat) :
    (u.onScore k fun y => { y with status := 0, late := none }).Ready x core coord arg := by
  refine ⟨hu.placed, ?_⟩
  rw [State.onScore_score]
  split
  · next e =>
    subst e
    obtain ⟨h1, h2, h3, h4, h5⟩ := hu.started
    exact ⟨h1, h2, h3, h4, h5⟩
  · exact hu.started

end

theorem Polder.holds?_of_mem {p : Polder} {h : Nat} (hm : h ∈ p.halfDies) : p.holds? h = true := (List.mem_filter.1 hm).2

/-- Clearing the flags of a polder's cores, unit by unit. -/
theorem State.clearFlags_preserves {P : State → Prop} {p : Nat}
    (hh : ∀ u, ∀ h ∈ (s.polder p).halfDies, P u → P (u.onHalfDie h fun x => { x with junkFlags := false }))
    (ht : ∀ u c, P u → P (u.onTcore c fun x => { x with status := 0, late := none }))
    (hv : ∀ u c, P u → P (u.onVcore c fun x => { x with status := 0, late := none }))
    (hs : ∀ u c, P u → P (u.onScore c fun x => { x with status := 0, late := none })) (h : P s) : P (s.clearFlags p) := by
  unfold State.clearFlags
  refine State.each_preserves _ _ (fun u c _ => hs u c) ?_
  refine State.each_preserves _ _ (fun u c _ => hv u c) ?_
  refine State.each_preserves _ _ (fun u c _ => ht u c) ?_
  exact State.each_preserves _ _ hh h

theorem State.clearFlags_keeps {β : Type} {F : State → β} {p : Nat} (hh : ∀ (u : State) n g, F (u.onHalfDie n g) = F u)
    (ht : ∀ (u : State) n g, F (u.onTcore n g) = F u) (hv : ∀ (u : State) n g, F (u.onVcore n g) = F u)
    (hs : ∀ (u : State) n g, F (u.onScore n g) = F u) : F (s.clearFlags p) = F s :=
  s.clearFlags_preserves (P := fun u => F u = F s) (fun u h _ e => (hh u h _).trans e) (fun u c e => (ht u c _).trans e)
    (fun u c e => (hv u c _).trans e) (fun u c e => (hs u c _).trans e) rfl

/-! ### Slot 0 -/

/-- The state as every core and router has started, before the polder runs (R121). -/
@[irreducible] def State.coresStarted (s : State) (p : Nat) (j : Job) : State :=
  ((s.broadcast p (s.polder p).image false).each (s.polder p).clusters (State.startCluster (s.polder p) j)).clearFlags p

/-- The state as the half-dies become ACTIVE. -/
@[irreducible] def State.halfDiesActive (s : State) (p : Nat) : State :=
  s.each (s.polder p).halfDies fun u h => u.onHalfDie h fun x => { x with power := .active }

/-- A polder whose job runs from now. -/
def Polder.active (now : Nat) (x : Polder) : Polder :=
  { x with
    state := .running, cycle := 0, holds := []
    job := x.job.map fun j => { j with phase := .running, startAt := now } }

/-- A polder at slot 0. -/
def Polder.atSlot0 (x : Polder) : Polder := { x with slot := 0, holdCount := 0 }

theorem State.goActive_eq (p : Nat) :
    s.goActive p = (s.halfDiesActive p).onPolder p (Polder.active (s.halfDiesActive p).time.dev) := by
  rw [State.halfDiesActive]
  rfl

section
variable (p : Nat) (j : Job)

theorem State.broadcast_polder (l : List Byte) (k : Nat) : (s.broadcast p l false).polder k = s.polder k :=
  congrFun (State.polder_of_polders (s.broadcast_polders p l)) k

theorem State.coresStarted_keeps {β : Type} {F : State → β} (hd : ∀ (u : State) n g, F (u.onHalfDie n g) = F u)
    (ht : ∀ (u : State) n g, F (u.onTcore n g) = F u) (hv : ∀ (u : State) n g, F (u.onVcore n g) = F u)
    (hs : ∀ (u : State) n g, F (u.onScore n g) = F u) (hc : ∀ (u : State) n g, F (u.onCluster n g) = F u)
    (hb : F (s.broadcast p (s.polder p).image false) = F s) : F (s.coresStarted p j) = F s := by
  rw [State.coresStarted, State.clearFlags_keeps _ hd ht hv hs]
  exact (State.each_keeps (F := F) (fun u cl => u.startCluster_keeps hs hc _ _ _) _ _).trans hb

theorem State.coresStarted_polder (k : Nat) : (s.coresStarted p j).polder k = s.polder k :=
  s.coresStarted_keeps (F := fun u => u.polder k) p j (fun _ _ _ => rfl) (fun _ _ _ => rfl) (fun _ _ _ => rfl) (fun _ _ _ => rfl)
    (fun _ _ _ => rfl) (s.broadcast_polder p _ k)

theorem State.coresStarted_sansStart : (s.coresStarted p j).sansStart = s.sansStart :=
  s.coresStarted_keeps (F := State.sansStart) p j (fun _ _ _ => rfl) (fun _ _ _ => rfl) (fun _ _ _ => rfl) (fun _ _ _ => rfl)
    (fun _ _ _ => rfl) (s.broadcast_sansStart p _)

theorem State.coresStarted_ready {cl i : Nat} (hcl : cl ∈ (s.polder p).clusters) (hi : i < 4)
    (hcode : hasCode (s.polder p) cl (cl * 64 + 60 + i) = true) :
    (s.coresStarted p j).Ready (s.polder p) (cl * 64 + 60 + i) ((s.polder p).coordWord cl) j.arg := by
  have halfDie : ∀ k, ((s.broadcast p (s.polder p).image false).each (s.polder p).clusters
      (State.startCluster (s.polder p) j)).halfDie k = (s.broadcast p (s.polder p).image false).halfDie k := fun k =>
    State.each_keeps (F := fun u => u.halfDie k)
      (fun u cl => u.startCluster_keeps (F := fun u => u.halfDie k) (fun _ _ _ => rfl) (fun _ _ _ => rfl) _ _ _) _ _
  have polder : ((s.broadcast p (s.polder p).image false).each (s.polder p).clusters
      (State.startCluster (s.polder p) j)).polder p = s.polder p :=
    (State.each_keeps (F := fun u => u.polder p)
      (fun u cl => u.startCluster_keeps (F := fun u => u.polder p) (fun _ _ _ => rfl) (fun _ _ _ => rfl) _ _ _) _ _).trans
      (s.broadcast_polder p _ p)
  rw [State.coresStarted]
  refine State.clearFlags_preserves _ (P := State.Ready (s.polder p) (cl * 64 + 60 + i) ((s.polder p).coordWord cl) j.arg)
    (fun u h hm hu => ?_) (fun u c hu => ⟨hu.placed, hu.started⟩) (fun u c hu => ⟨hu.placed, hu.started⟩)
    (fun u c hu => hu.flagsCleared c) ⟨fun hx => ?_, State.startAll_started _ hcl hi hcode⟩
  · rw [polder] at hm
    exact hu.onHalfDie (Polder.holds?_of_mem hm) fun _ => ⟨rfl, rfl⟩
  · rw [halfDie, State.broadcast_halfDie, if_pos hx]

theorem State.startJob_stages : s.startJob p j = ((s.coresStarted p j).onPolder p Polder.atSlot0).goActive p := by
  rw [State.startJob_eq, State.broadcast_polder, State.coresStarted]
  rfl

theorem State.halfDiesActive_keeps {β : Type} {F : State → β} (h : ∀ (u : State) n g, F (u.onHalfDie n g) = F u) :
    F (s.halfDiesActive p) = F s := by
  rw [State.halfDiesActive]
  exact State.each_keeps (F := F) (fun u k => h u k _) _ s

theorem State.halfDiesActive_halfDie {h : Nat} (hh : h ∈ (s.polder p).halfDies) :
    ((s.halfDiesActive p).halfDie h).power = .active := by
  have at_ := State.each_at (V := State.halfDie) (g := fun u h => u.onHalfDie h fun x => { x with power := .active })
    (φ := fun _ x => { x with power := .active }) (fun u h => (State.onHalfDie_halfDie ..).trans (if_pos rfl))
    (fun u x y hne => by simp [hne.symm]) _ s h (s.polder p).halfDies_nodup
  rw [State.halfDiesActive, at_, if_pos hh]

theorem State.goActive_sansStart : (s.goActive p).sansStart = s.sansStart := by
  rw [State.goActive_eq]
  exact s.halfDiesActive_keeps (F := State.sansStart) p fun _ _ _ => rfl

theorem State.goActive_polder (k : Nat) : (s.goActive p).polder k
    = if p = k then (s.polder p).active s.time.dev else s.polder k := by
  have polder : ∀ k, (s.halfDiesActive p).polder k = s.polder k := fun k =>
    s.halfDiesActive_keeps (F := fun u => u.polder k) p fun _ _ _ => rfl
  have time : (s.halfDiesActive p).time = s.time := s.halfDiesActive_keeps (F := State.time) p fun _ _ _ => rfl
  rw [State.goActive_eq, State.onPolder_polder, polder, polder, time]

theorem State.goActive_ready {core coord arg : Nat} (h : s.Ready (s.polder p) core coord arg) :
    (s.goActive p).Ready (s.polder p) core coord arg := by
  have active : (s.halfDiesActive p).Ready (s.polder p) core coord arg := by
    rw [State.halfDiesActive]
    exact State.each_preserves (P := State.Ready (s.polder p) core coord arg) _ _
      (fun u k hk hu => hu.onHalfDie (Polder.holds?_of_mem hk) fun _ => ⟨rfl, rfl⟩) h
  rw [State.goActive_eq]
  exact ⟨active.placed, active.started⟩

theorem State.startJob_polder (k : Nat) : (s.startJob p j).polder k
    = if p = k then (s.polder p).atSlot0.active s.time.dev else s.polder k := by
  have time : (s.coresStarted p j).time = s.time := (congrArg State.time (s.coresStarted_sansStart p j) :)
  rw [State.startJob_stages, State.goActive_polder, State.onPolder_polder, State.onPolder_polder, if_pos rfl,
    State.coresStarted_polder, State.coresStarted_polder]
  rw [State.onPolder_time, time]
  split <;> rfl

theorem State.startJob_sansStart : (s.startJob p j).sansStart = s.sansStart := by
  rw [State.startJob_stages, State.goActive_sansStart, ← s.coresStarted_sansStart p j]
  rfl

theorem State.startJob_power {h : Nat} (hh : h ∈ (s.polder p).halfDies) : ((s.startJob p j).halfDie h).power = .active := by
  rw [State.startJob_stages, State.goActive_eq]
  refine State.halfDiesActive_halfDie _ p ?_
  rw [State.onPolder_polder, if_pos rfl, State.coresStarted_polder]
  exact hh

theorem State.startJob_started {cl i : Nat} (hcl : cl ∈ (s.polder p).clusters) (hi : i < 4)
    (hcode : hasCode (s.polder p) cl (cl * 64 + 60 + i) = true) :
    ((s.startJob p j).score (cl * 64 + 60 + i)).Started ((s.polder p).coordWord cl) (cl * 64 + 60 + i) j.arg := by
  have ready := s.coresStarted_ready p j hcl hi hcode
  have slot0 : ((s.coresStarted p j).onPolder p Polder.atSlot0).Ready (((s.coresStarted p j).onPolder p Polder.atSlot0).polder p)
      (cl * 64 + 60 + i) ((s.polder p).coordWord cl) j.arg := by
    rw [State.onPolder_polder, if_pos rfl, State.coresStarted_polder]
    exact ⟨ready.placed, ready.started⟩
  rw [State.startJob_stages]
  exact (State.goActive_ready _ p slot0).started

end

end

theorem execJobStart_of_admitted {s : State} {p : Nat} {j : Job} (hjob : (s.polder p).job = some j) (hphase : j.phase = .admitted)
    (hctx : j.context = []) (hst : (s.polder p).state = .loaded) (hm : (s.polder p).atMark = true)
    (hrun : s.trust.running = true) (hb : s.b0Hold p = false) (hg : s.gated p = false) :
    execJobStart p s = .next ((s.onPolder p fun x => { x with retrain := false }).startJob p j) := by
  simp [execJobStart, hjob, hphase, hctx, hst, hm, hrun, hb, hg]

end Sys2Proof.Machine

open Sys2Proof Sys2Proof.Machine

/-- Settles O20: each S-core with code is started in its turn, and what follows keeps it: the clearing of flags writes flags alone,
and no half-die of the polder has lost contents any more. -/
theorem jobStartsAtSlotZero : Obligations.JobStartsAtSlotZero := by
  intro s p j hjob hphase hctx hst hm hrun hb hg
  refine ⟨_, execJobStart_of_admitted hjob hphase hctx hst hm hrun hb hg, ?_⟩
  have polder := State.startJob_polder (s.onPolder p fun x => { x with retrain := false }) p j
  have power := fun h hh => State.startJob_power (s.onPolder p fun x => { x with retrain := false }) p j (h := h) hh
  have started := fun cl i hcl hi hcode =>
    State.startJob_started (s.onPolder p fun x => { x with retrain := false }) p j (cl := cl) (i := i) hcl hi hcode
  have frame := State.startJob_sansStart (s.onPolder p fun x => { x with retrain := false }) p j
  rw [State.onPolder_polder, if_pos rfl] at polder power started
  generalize State.startJob (s.onPolder p fun x => { x with retrain := false }) p j = t at *
  have mine := (polder p).trans (if_pos rfl)
  refine ⟨(congrArg Polder.state mine :), (congrArg Polder.slot mine :), (congrArg Polder.cycle mine :), (congrArg Polder.holds mine :),
    (congrArg Polder.step mine :), (congrArg Polder.nextStep mine :), ?_, fun k hk => ?_, power, fun cl hcl i hi hcode => ?_,
    (congrArg State.hostMem frame :), (congrArg State.edge frame :), (congrArg State.dma frame :), (congrArg State.links frame :),
    (congrArg State.power frame :)⟩
  · have job : (t.polder p).job = (s.polder p).job.map fun j => { j with phase := .running, startAt := s.time.dev } :=
      (congrArg Polder.job mine :)
    rw [job, hjob]
    rfl
  · rw [polder, if_neg hk.symm, State.onPolder_polder, if_neg hk.symm]
  · obtain ⟨hpc, hended, h10, h11, h12⟩ := started cl i hcl hi hcode
    refine ⟨hpc, hended, h10, h11.trans (congrArg _ ?_), h12⟩
    omega
end

section
/-! PROOF. Tide marks and the saving of a context (R153, R340, R377). -/

namespace Sys2Proof.Machine

/-! ### Tide marks -/

/-- A polder as its tide mark leaves it (R153, R340, R377). -/
def Polder.marked (x : Polder) (slope : Nat) : Polder :=
  let st := x.nextStep.getD x.step
  let saving := x.state == .running && (match x.command with
    | some c => c.opc == 0x24 && !c.ready
    | none => false)
  { x with
    markDue := false, atMark := true, step := st, nextStep := none
    weir := if x.weirs then x.weirNext.map (weirClock (stepMHz st) slope) else none
    command := if saving then x.command.map fun c => { c with ready := true } else x.command
    holds := if saving then x.holds ++ [(.context, x.cycle)] else x.holds }

section
variable (s : State)

/-- The module without its rails and its polders. -/
def State.sansRails (s : State) : State := { s with polders := [], ledger := { s.ledger with rails := [] } }

theorem State.askRails_sansRails (rs : List Nat) (r : VoltReq) : (s.askRails rs r).sansRails = s.sansRails :=
  State.each_keeps (F := State.sansRails) (g := fun u n => u.onRail n fun x => x.ask r) (fun _ _ => rfl) rs s

theorem State.eq_of_sansRails {s t : State} (h : t.sansRails = s.sansRails) : t = { s with
    polders := t.polders, ledger := { s.ledger with rails := t.ledger.rails } } :=
  (congrArg (fun w : State => { w with polders := t.polders, ledger := { w.ledger with rails := t.ledger.rails } }) h :)

/-- The rails asked for a lower voltage where the step goes down (R397). -/
@[irreducible] def State.voltageLowered (s : State) (n : Nat) : State :=
  if (s.polder n).nextStep.getD (s.polder n).step < (s.polder n).step then s.askRails (s.polder n).halfDies { up := false } else s

theorem State.voltageLowered_sansRails (n : Nat) : (s.voltageLowered n).sansRails = s.sansRails := by
  rw [State.voltageLowered]
  exact State.ite_keeps (F := State.sansRails) (s.askRails_sansRails ..) rfl

theorem State.voltageLowered_polder (n k : Nat) : (s.voltageLowered n).polder k = s.polder k := by
  rw [State.voltageLowered]
  exact State.ite_keeps (F := fun u => u.polder k) (State.askRails_polder ..) rfl

theorem State.tidePolder_eq (n : Nat) :
    s.tidePolder n = (s.voltageLowered n).setPolder n ((s.polder n).marked s.thermal.slope) := by
  have thermal : (s.voltageLowered n).thermal = s.thermal := (congrArg State.thermal (s.voltageLowered_sansRails n) :)
  have polder := s.voltageLowered_polder n n
  unfold State.tidePolder State.onPolder
  dsimp only
  rw [← State.voltageLowered, polder, thermal]
  rfl

theorem State.tidePolder_polder (n k : Nat) : (s.tidePolder n).polder k
    = if n = k then (s.polder n).marked s.thermal.slope else s.polder k := by
  rw [State.tidePolder_eq, State.setPolder_polder, State.voltageLowered_polder]

theorem State.tidePolder_frame (n : Nat) : s.tidePolder n = { s with
    polders := (s.tidePolder n).polders, ledger := { s.ledger with rails := (s.tidePolder n).ledger.rails } } := by
  refine State.eq_of_sansRails ?_
  rw [State.tidePolder_eq, ← s.voltageLowered_sansRails n]
  rfl

end

/-! ### CONTEXT_SAVE -/

section
variable (s : State) (p : Nat)

theorem State.giveUpSave_polder (c : InFlight) (st : Status) : (s.giveUpSave p c st).polder p
    = { s.polder p with command := none, holds := (s.polder p).holds.filter fun h => h.1 ≠ .context } := by
  have same : (fun h : Hold × Nat => h.1 != .context) = fun h => decide (h.1 ≠ .context) := by
    funext h
    exact Bool.eq_iff_iff.2 (by simp)
  rw [State.giveUpSave, State.complete_polder, State.onPolder_polder, if_pos rfl, same]

/-- A polder without a command has none after the end of its job. -/
theorem State.finishJob_command (h : (s.polder p).command = none) (st : Status) (extra : Nat) :
    ((s.finishJob p st extra).polder p).command = none := by
  cases hj : (s.polder p).job with
  | none => rw [s.finishJob_of_none hj, h]
  | some j =>
    have unsaved : s.endSave p = s := by simp [State.endSave, h]
    rw [s.finishJob_polder_of_cleared hj, State.jobCleared, State.onPolder_polder, if_pos rfl, unsaved]
    split
    · rw [State.countCycles_polder, if_pos rfl]
      exact h
    · exact h

theorem State.dropInProgress_polder (x : Polder) (k : Nat) : (s.dropInProgress p x).polder k = s.polder k := by
  unfold State.dropInProgress
  rw [State.each_keeps (F := fun u => u.polder k) (g := fun u core => u.onScore core _) (fun _ _ => rfl),
    State.each_keeps (F := fun u => u.polder k) (g := fun u core => u.onVcore core _) (fun _ _ => rfl),
    State.each_keeps (F := fun u => u.polder k) (g := fun u core => u.onTcore core _) (fun _ _ => rfl),
    State.each_keeps (F := fun u => u.polder k) (g := fun u cl => u.onCluster cl _) (fun _ _ => rfl)]

/-- The polder as its saved context has gone out: its channels and sluices are closed. -/
@[irreducible] def State.saveClosed (s : State) (p : Nat) (c : InFlight) (n : Nat) : State :=
  let s := s.closeSluices p
  let s := s.each (s.liveChans fun ch => ch.polder == p) State.disableChan
  (s.onPolder p fun x => { x with command := none, holds := [] }).complete c.func c.tag c.opc c.notify { polder := p, outBytes := n }

theorem State.savedContext_eq (c : InFlight) (n : Nat) : s.savedContext p c n =
    ((((s.saveClosed p c n).finishJob p .aborted (2 ^ 30)).dropInProgress p (s.polder p)).idleHalfDies p).onPolder p
      fun x => { x with state := .loaded } := by
  rw [State.saveClosed]
  rfl

theorem State.saveClosed_polder (c : InFlight) (n k : Nat) : (s.saveClosed p c n).polder k
    = if p = k then { s.polder p with command := none, holds := [] } else s.polder k := by
  have closed : ∀ k, ((s.closeSluices p).each ((s.closeSluices p).liveChans fun ch => ch.polder == p)
      State.disableChan).polder k = s.polder k := fun k =>
    (State.each_keeps (F := fun u => u.polder k)
      (fun u ch => congrFun (State.polder_of_polders (u.disableChan_polders ch)) k) _ _).trans (s.closeSluices_polder p k)
  rw [State.saveClosed, State.complete_polder, State.onPolder_polder, closed, closed]

/-- A saved context leaves its polder LOADED, without job and command (R340). -/
theorem State.savedContext_polder (c : InFlight) (n : Nat) : ((s.savedContext p c n).polder p).state = .loaded
    ∧ ((s.savedContext p c n).polder p).job = none ∧ ((s.savedContext p c n).polder p).command = none
    ∧ ∀ k, k ≠ p → (s.savedContext p c n).polder k = s.polder k := by
  have kept : ∀ k, ((((s.saveClosed p c n).finishJob p .aborted (2 ^ 30)).dropInProgress p (s.polder p)).idleHalfDies p).polder k
      = ((s.saveClosed p c n).finishJob p .aborted (2 ^ 30)).polder k := fun k =>
    (congrFun (State.polder_of_polders (State.idleHalfDies_polders _ p)) k).trans (State.dropInProgress_polder ..)
  have idle : ((s.saveClosed p c n).polder p).command = none := by
    rw [State.saveClosed_polder, if_pos rfl]
  rw [State.savedContext_eq]
  refine ⟨?_, ?_, ?_, fun k hk => ?_⟩
  · rw [State.onPolder_polder, if_pos rfl]
  · rw [State.onPolder_polder, if_pos rfl, kept]
    exact (State.finishJob_polder _ p .aborted (2 ^ 30)).2
  · rw [State.onPolder_polder, if_pos rfl, kept]
    exact State.finishJob_command _ p idle .aborted (2 ^ 30)
  · rw [State.onPolder_polder, if_neg hk.symm, kept, State.finishJob_polder_of_ne _ hk, State.saveClosed_polder, if_neg hk.symm]

/-- What a save has read of the slices. -/
def State.saveRead (s : State) (p : Nat) (c : InFlight) : State × Status × List Byte :=
  if c.ucm = true then (s.retireFor (s.polder p)).slicesOut c.func (s.polder p).clusters else (s, .ok, [])

/-- The context that a save writes. -/
def State.saveBytes (s : State) (p : Nat) (c : InFlight) (j : Job) : List Byte :=
  if c.outAddr = 0 then [] else (s.saveRead p c).1.context p j.maps c.ucm (s.saveRead p c).2.2

variable {s p}

theorem execContextSaveCopy_of_ready {c : InFlight} {j : Job} (hc : (s.polder p).command = some c) (hj : (s.polder p).job = some j)
    (hop : c.opc = 0x24) (hr : c.ready = true) (hst : (s.polder p).state = .running) (hrun : s.trust.running = true)
    (hin : ∀ cl ∈ s.listed p, (s.cluster cl).sin.inflight = 0) :
    execContextSaveCopy p s = if (s.saveRead p c).2.1 = .ok then
        .next (if ((s.saveRead p c).1.writeOut c.func c.outAddr (s.saveBytes p c j)).2 = .ok then
          ((s.saveRead p c).1.writeOut c.func c.outAddr (s.saveBytes p c j)).1.savedContext p c (s.saveBytes p c j).length
        else ((s.saveRead p c).1.writeOut c.func c.outAddr (s.saveBytes p c j)).1.giveUpSave p c
          ((s.saveRead p c).1.writeOut c.func c.outAddr (s.saveBytes p c j)).2)
      else .next ((s.saveRead p c).1.giveUpSave p c (s.saveRead p c).2.1) := by
  have still : ((s.listed p).any fun cl => (s.cluster cl).sin.inflight != 0) = false := by
    rw [List.any_eq_false]
    exact fun cl hcl => by simp [hin cl hcl]
  simp only [execContextSaveCopy, hc, hj, hop, hr, hst, hrun, still, bne_self_eq_false, Bool.not_true, Bool.or_self,
    Bool.false_eq_true, if_false, bne_iff_ne, beq_iff_eq, ite_not]
  rfl

end

end Sys2Proof.Machine

open Sys2Proof Sys2Proof.Machine

/-- Settles O22: a mark changes its polder alone, and a save that succeeds ends the job after the command, so that neither is left. -/
theorem tideMarkAppliesTheCommandedStep : Obligations.TideMarkAppliesTheCommandedStep := by
  refine ⟨fun s h n hp hn hh hm => ?_, fun s h hp hm => ?_, fun s u f c h hfail hst hfits => ?_, ?_⟩
  · have made : exec (.tideMark h) s = .next (s.tidePolder n) := by
      have far : n ≠ 31 := by omega
      refine congrArg Host.Outcome.next ?_
      rw [hp]
      exact (if_neg (by simpa using far)).trans (if_pos (by simp [hh, hm]))
    have polder := s.tidePolder_polder n
    have frame := s.tidePolder_frame n
    generalize s.tidePolder n = t at *
    have mine := (polder n).trans (if_pos rfl)
    refine ⟨t, made, (congrArg Polder.step mine :), (congrArg Polder.nextStep mine :), (congrArg Polder.weir mine :),
      (congrArg Polder.markDue mine :), (congrArg Polder.atMark mine :), fun c hc hop hr hst => ?_,
      fun k hk => (polder k).trans (if_neg hk.symm), frame⟩
    have saving : ((s.polder n).state == .running && (match (s.polder n).command with
        | some c => c.opc == 0x24 && !c.ready
        | none => false)) = true := by simp [hst, hc, hop, hr]
    have command : (t.polder n).command = _ := (congrArg Polder.command mine).trans (if_pos saving)
    have holds : (t.polder n).holds = _ := (congrArg Polder.holds mine).trans (if_pos saving)
    exact ⟨by rw [command, hc]; rfl, holds⟩
  · refine congrArg Host.Outcome.next ?_
    rw [hp]
    exact (if_pos rfl).trans (if_pos hm)
  · obtain ⟨m, rest, -, -, -, -, -, rfl, -⟩ := id h
    refine congrArg Host.Outcome.next ((command_of_takesOp _ h).trans ?_)
    dsimp only
    rw [hfail]
    exact (if_neg (by simpa using hst)).trans (if_neg (by simpa using hfits))
  · intro s p c j hc hj hop hr hst hrun hin
    have made := execContextSaveCopy_of_ready hc hj hop hr hst hrun hin
    intro r ctx w goesOn
    have goes : ∀ v st, exec (.contextSaveCopy p) s = .next (v.giveUpSave p c st) → goesOn v st := fun v st h =>
      ⟨h, v.giveUpSave_polder p c st⟩
    refine ⟨fun hr => goes _ _ (made.trans (if_neg hr)),
      fun hok hw => goes _ _ (made.trans ((if_pos hok).trans (congrArg Host.Outcome.next (if_neg hw)))), fun hok hw => ?_, fun hu ho => ?_⟩
    · have saved := State.savedContext_polder w.1 p c ctx.length
      exact ⟨_, made.trans ((if_pos hok).trans (congrArg Host.Outcome.next (if_pos hw))), rfl, saved.1, saved.2.1, saved.2.2.1⟩
    · have read : s.saveRead p c = (s, .ok, []) := by simp [State.saveRead, hu]
      have bytes : s.saveBytes p c j = [] := if_pos ho
      rw [read, bytes, State.writeOut_nil, if_pos rfl, if_pos rfl] at made
      exact ⟨_, made, State.savedContext_polder s p c 0⟩
end

section
/-! PROOF. An S-core executes one base instruction in its slot (R109, R110, R464). -/

namespace Sys2Proof.Machine

section
variable {s : State} {core len w : Nat} {i : Rv}

theorem State.setScore_scoreIs (s : State) (core : Nat) (x : SCore) : s.ScoreIs core x (s.setScore core x) :=
  ⟨(State.setScore_score ..).trans (if_pos rfl), fun _ hk => (State.setScore_score ..).trans (if_neg hk.symm), rfl⟩

theorem State.ScoreIs.self {x : SCore} {t : State} (h : s.ScoreIs core x t) : s.ScoreIs core (t.score core) t := by
  rw [h.1]
  exact h

/-- A fetch that fails ends the job (R110). -/
theorem execScoreInstruction_of_fault {st : Status} (ht : s.turn core = true) (hf : s.fetched core = .fault st w) :
    exec (.scoreInstruction core) s = .next (s.scoreFail core st w) :=
  congrArg Host.Outcome.next (by simp [ht, hf])

variable (h : s.Executes core i len w)
include h

/-- What a base instruction makes of its S-core. -/
theorem execScoreInstruction_of_base {x : SCore} (hb : i ≠ .ebreak) (hs : i.isSlot = false)
    (hx : (s.score core).base (s.csrView core) len i = .ok x) :
    exec (.scoreInstruction core) s = .next (s.setScore core x) := by
  obtain ⟨ht, hf⟩ := h
  exact congrArg Host.Outcome.next (by simp [ht, hf, hb, hs, hx])

theorem execScoreInstruction_of_illegal {st : Status} (hb : i ≠ .ebreak) (hs : i.isSlot = false)
    (hx : (s.score core).base (s.csrView core) len i = .error st) :
    exec (.scoreInstruction core) s = .next (s.scoreFail core st w) := by
  obtain ⟨ht, hf⟩ := h
  exact congrArg Host.Outcome.next (by simp [ht, hf, hb, hs, hx])

theorem execEbreak_of_ebreak (hi : i = .ebreak) : exec (.ebreak core) s = .next
    (if s.trust.unlocked && bit s.trust.scope 1 then s.hold core .debug else s.scoreFail core .badOpcode w) := by
  obtain ⟨ht, hf⟩ := h
  subst hi
  exact congrArg Host.Outcome.next (by simp [ht, hf])

end

/-! ### The register forms -/

/-- The S-core as its next instruction may execute one slot later. -/
def SCore.next (x : SCore) (len t : Nat) : SCore := { x with pc := (x.pc + len) % 2 ^ 32, ready := t + 1 }

theorem pc_next (pc len : Nat) : (BitVec.ofNat 32 pc + BitVec.ofNat 32 len).toNat = (pc + len) % 2 ^ 32 := by
  simp

section
variable (x : SCore) (v : CsrView) (len : Nat)

theorem SCore.setReg_pc (r : Nat) (val : Word) (u : Nat) : (x.setReg r val u).pc = x.pc := by
  unfold SCore.setReg
  split <;> rfl

theorem SCore.base_opImm (f3 : Nat) (alt : Bool) (rd rs1 : Nat) (imm : Word) : x.base v len (.opImm f3 alt rd rs1 imm)
    = .ok ((x.setReg rd (alu f3 alt (x.reg rs1) imm) 0).next len v.slot) := by
  rw [SCore.next, SCore.setReg_pc, ← pc_next]
  rfl

theorem SCore.base_op (f3 : Nat) (alt : Bool) (rd rs1 rs2 : Nat) : x.base v len (.op f3 alt rd rs1 rs2)
    = .ok ((x.setReg rd (alu f3 alt (x.reg rs1) (x.reg rs2)) 0).next len v.slot) := by
  rw [SCore.next, SCore.setReg_pc, ← pc_next]
  rfl

theorem SCore.base_storeWord {rs1 rs2 : Nat} {imm : Word} (hf : dataFail (x.reg rs1 + imm).toNat 4 = none) :
    x.base v len (.store 2 rs1 rs2 imm)
      = .ok (SCore.next { x with dmem := x.dmem.write (x.reg rs1 + imm).toNat (leBytes 4 (x.reg rs2).toNat) } len v.slot) := by
  have word : memBytes 2 = 4 := rfl
  simp only [SCore.base, word, hf]
  rw [SCore.next, ← pc_next]

/-- A register that is written holds the value, and x0 stays 0 (R109). -/
theorem SCore.setReg_reg (rd : Nat) (val : Word) (u r : Nat) :
    (x.setReg rd val u).reg r = if r = rd ∧ r ≠ 0 then val else x.reg r := by
  unfold SCore.setReg
  by_cases hd : rd = 0
  · rw [if_pos (by simpa using hd), if_neg fun h => h.2 (h.1.trans hd)]
  · rw [if_neg (by simpa using hd)]
    unfold SCore.reg
    by_cases h0 : r = 0
    · rw [if_neg (show ¬(r = rd ∧ r ≠ 0) from fun h => h.2 h0), h0]
      rfl
    · have stored : (r == 0) = false := by simpa using h0
      rw [stored, Sparse.get_set]
      by_cases hr : rd = r
      · rw [if_pos hr, if_pos (show r = rd ∧ r ≠ 0 from ⟨hr.symm, h0⟩)]
        rfl
      · rw [if_neg hr, if_neg (show ¬(r = rd ∧ r ≠ 0) from fun h => hr h.1.symm)]

theorem SCore.setReg_memory (rd : Nat) (val : Word) (u : Nat) :
    (x.setReg rd val u).dmem = x.dmem ∧ (x.setReg rd val u).imem = x.imem := by
  unfold SCore.setReg
  split <;> exact ⟨rfl, rfl⟩

end

end Sys2Proof.Machine

open Sys2Proof Sys2Proof.Machine

/-- Settles O23: the instruction's effect on its S-core is the model's `base`, and the S-core alone is set. -/
theorem scoreInstructionExecutes : Obligations.ScoreInstructionExecutes := by
  refine ⟨fun s core len w i h => ⟨fun x hb hs hx => ?_, fun f3 alt rd rs1 imm hi => ?_, fun f3 alt rd rs1 rs2 hi => ?_,
    fun rs1 rs2 imm hi hf => ?_, fun hi => ?_, fun hi hu => ?_, fun hi hu => ?_⟩, fun s core w st ht hf => ?_⟩
  · exact ⟨_, execScoreInstruction_of_base h hb hs hx, s.setScore_scoreIs core x⟩
  · subst hi
    have is := s.setScore_scoreIs core
      (((s.score core).setReg rd (alu f3 alt ((s.score core).reg rs1) imm) 0).next len (s.slotOf core))
    refine ⟨_, execScoreInstruction_of_base h nofun rfl (SCore.base_opImm ..), fun r => ?_, ?_, ?_, ?_, ?_, is.self⟩
    · exact (congrArg (fun y => y.reg r) is.1).trans (SCore.setReg_reg ..)
    · exact (congrArg SCore.pc is.1).trans (by rw [SCore.next, SCore.setReg_pc])
    · exact congrArg SCore.ready is.1
    · exact (congrArg SCore.dmem is.1).trans (SCore.setReg_memory ..).1
    · exact (congrArg SCore.imem is.1).trans (SCore.setReg_memory ..).2
  · subst hi
    have is := s.setScore_scoreIs core
      (((s.score core).setReg rd (alu f3 alt ((s.score core).reg rs1) ((s.score core).reg rs2)) 0).next len (s.slotOf core))
    refine ⟨_, execScoreInstruction_of_base h nofun rfl (SCore.base_op ..), fun r => ?_, ?_, is.self⟩
    · exact (congrArg (fun y => y.reg r) is.1).trans (SCore.setReg_reg ..)
    · exact (congrArg SCore.pc is.1).trans (by rw [SCore.next, SCore.setReg_pc])
  · subst hi
    have is := s.setScore_scoreIs core (SCore.next { s.score core with
      dmem := (s.score core).dmem.write ((s.score core).reg rs1 + imm).toNat (leBytes 4 ((s.score core).reg rs2).toNat) } len (s.slotOf core))
    have memory := congrArg SCore.dmem is.1
    have four : (leBytes 4 ((s.score core).reg rs2).toNat).length = 4 := leBytes_length ..
    refine ⟨_, execScoreInstruction_of_base h nofun rfl (SCore.base_storeWord _ _ _ hf), ?_, fun a ha => ?_, (congrArg SCore.regs is.1 :), is.self⟩
    · refine (congrArg (fun m => m.read ((s.score core).reg rs1 + imm).toNat 4) memory).trans ?_
      exact (congrArg (Memory.read _ _) four.symm).trans (Memory.read_write ..)
    · refine (congrArg (fun m => m.byte a) memory).trans (Memory.byte_write_outside _ _ _ _ ?_)
      rw [four]
      exact ha
  · subst hi
    exact execScoreInstruction_of_illegal h nofun rfl rfl
  · exact (execEbreak_of_ebreak h hi).trans (congrArg Host.Outcome.next (if_pos hu))
  · exact (execEbreak_of_ebreak h hi).trans (congrArg Host.Outcome.next (if_neg (ne_true_of_eq_false hu)))
  · exact execScoreInstruction_of_fault ht hf
end

section
/-! PROOF. TISS and VISS issue to every core of the mask (R113, R114). -/

namespace Sys2Proof.Machine

/-- `State.each_at` for steps that do so in states with a property that they keep. -/
theorem State.each_at_of {β : Type} {P : State → Prop} {V : State → Nat → β} {g : State → Nat → State} {φ : Nat → β → β}
    (inv : ∀ u x, P u → P (g u x)) (own : ∀ u x, P u → V (g u x) x = φ x (V u x))
    (others : ∀ u x y, y ≠ x → V (g u x) y = V u y) :
    ∀ (l : List Nat) (s : State) (y : Nat), P s → l.Nodup → V (s.each l g) y = if y ∈ l then φ y (V s y) else V s y := by
  intro l
  induction l with
  | nil => simp [State.each]
  | cons x r ih =>
    intro s y hs hd
    obtain ⟨hx, hr⟩ := List.nodup_cons.1 hd
    show V ((g s x).each r g) y = _
    rw [ih (g s x) y (inv s x hs) hr]
    by_cases hy : y = x
    · subst hy
      simp [hx, own s y hs]
    · simp [hy, others s x y hy]

theorem blockFail_of_aligned {a : Nat} (ha : a % 16 = 0) (hb : a ≤ 0xFF0) : blockFail a = none := by
  simp [blockFail, firstFail, ha, Nat.not_lt.2 hb]

theorem maskCores_nodup (cl first n mask : Nat) : (maskCores cl first n mask).Nodup := by
  refine (List.nodup_range.filter _).map_on fun x _ y _ h => ?_
  omega

section
variable (s : State)

/-- A slot-extension instruction runs in its turn (R109, R115). -/
theorem State.slotRow_of_executes {s : State} {core len w : Nat} {i : Rv} (h : s.Executes core i len w) {mine : Rv → Bool}
    (run : Rv → Nat → State) (hm : mine i = true) (h63 : i.only63 = false) : s.slotRow core mine run = run i w := by
  obtain ⟨ht, hf⟩ := h
  simp [State.slotRow, ht, hf, hm, h63]

/-- A T-core with one operation more. -/
def TCore.issuedTo (y : TCore) (o : Op) : TCore := { y with ops := y.ops ++ [o], stirred := !y.ops.isEmpty }

/-- A V-core with one operation more. -/
def VCore.issuedTo (y : VCore) (o : Op) : VCore := { y with ops := y.ops ++ [o], stirred := !y.ops.isEmpty }

/-- A micro-operation in the queues of T-cores (R113). -/
@[irreducible] def State.tIssue (s : State) (cores : List Nat) (w : Nat) : State :=
  s.each cores fun s c => s.onTcore c fun y => y.issuedTo (s.issueOp c w (tQueue w == 0) (fillOff w / 32))

/-- A micro-operation in the queues of V-cores (R113). -/
@[irreducible] def State.vIssue (s : State) (cores : List Nat) (w : Nat) : State :=
  s.each cores fun s c => s.onVcore c fun y => y.issuedTo (s.issueOp c w (vQueue w == 1 && vOpc w != 0x63) (mvOff w / 32))

theorem State.tIssue_keeps {β : Type} {F : State → β} (h : ∀ (u : State) n g, F (u.onTcore n g) = F u) (cores : List Nat) (w : Nat) :
    F (s.tIssue cores w) = F s := by
  rw [State.tIssue]
  exact State.each_keeps (F := F) (fun u c => h u c _) _ s

theorem State.vIssue_keeps {β : Type} {F : State → β} (h : ∀ (u : State) n g, F (u.onVcore n g) = F u) (cores : List Nat) (w : Nat) :
    F (s.vIssue cores w) = F s := by
  rw [State.vIssue]
  exact State.each_keeps (F := F) (fun u c => h u c _) _ s

theorem State.tIssue_tcore {cores : List Nat} (hd : cores.Nodup) (w k : Nat) : (s.tIssue cores w).tcore k
    = if k ∈ cores then (s.tcore k).issuedTo (s.issueOp k w (tQueue w == 0) (fillOff w / 32)) else s.tcore k := by
  rw [State.tIssue]
  exact State.each_at_of (P := fun u => u.issueOp = s.issueOp) (V := State.tcore)
    (g := fun s c => s.onTcore c fun y => y.issuedTo (s.issueOp c w (tQueue w == 0) (fillOff w / 32)))
    (φ := fun k y => y.issuedTo (s.issueOp k w (tQueue w == 0) (fillOff w / 32)))
    (fun u x hu => hu) (fun u x hu => by rw [State.onTcore_tcore, if_pos rfl, hu])
    (fun u x y hne => by rw [State.onTcore_tcore, if_neg hne.symm]) cores s k rfl hd

theorem State.vIssue_vcore {cores : List Nat} (hd : cores.Nodup) (w k : Nat) : (s.vIssue cores w).vcore k
    = if k ∈ cores then (s.vcore k).issuedTo (s.issueOp k w (vQueue w == 1 && vOpc w != 0x63) (mvOff w / 32)) else s.vcore k := by
  rw [State.vIssue]
  exact State.each_at_of (P := fun u => u.issueOp = s.issueOp) (V := State.vcore)
    (g := fun s c => s.onVcore c fun y => y.issuedTo (s.issueOp c w (vQueue w == 1 && vOpc w != 0x63) (mvOff w / 32)))
    (φ := fun k y => y.issuedTo (s.issueOp k w (vQueue w == 1 && vOpc w != 0x63) (mvOff w / 32)))
    (fun u x hu => hu) (fun u x hu => by rw [State.onVcore_vcore, if_pos rfl, hu])
    (fun u x y hne => by rw [State.onVcore_vcore, if_neg hne.symm]) cores s k rfl hd

/-- What noting an issue leaves: the cluster's issues and the S-core's next slot apart (R114). -/
theorem State.issued_score (core : Nat) (i : Issue) :
    ((s.issued core i).score core).pc = ((s.score core).pc + 4) % 2 ^ 32
      ∧ ((s.issued core i).score core).ready = i.slot + (if (s.cluster (clusterOf core)).conflicts i then 2 else 1)
      ∧ ((s.issued core i).score core).regs = (s.score core).regs ∧ ((s.issued core i).score core).dmem = (s.score core).dmem := by
  unfold State.issued
  dsimp only
  rw [State.onScore_score, if_pos rfl]
  split <;> exact ⟨rfl, rfl, rfl, rfl⟩

theorem State.issued_frame (core : Nat) (i : Issue) : s.issued core i = { s with
    scores := (s.issued core i).scores, clusters := (s.issued core i).clusters } := rfl

end

section
variable {s : State} {core len w r m : Nat} (ha : ((s.score core).reg r).toNat % 16 = 0)
  (hb : ((s.score core).reg r).toNat ≤ 0xFF0)
include ha hb

theorem execTiss_of_room (h : s.Executes core (.tiss r m) len w) (hm : Sparse.get 0 (s.score core).tmask m ≠ 0)
    (hc : tcoreCheck (imgLevel (s.polder (s.polderAt core)).image) (s.blockAt core ((s.score core).reg r).toNat) = none)
    (hr : ∀ k ∈ maskCores (clusterOf core) 0 48 (Sparse.get 0 (s.score core).tmask m),
      tRoom (s.cycleOf core) (s.tcore k) (tQueue (s.blockAt core ((s.score core).reg r).toNat)) = true) :
    exec (.tiss core) s = .next ((s.tIssue (maskCores (clusterOf core) 0 48 (Sparse.get 0 (s.score core).tmask m))
      (s.blockAt core ((s.score core).reg r).toNat)).issued core ⟨s.slotOf core, core % 64,
        tQueue (s.blockAt core ((s.score core).reg r).toNat), Sparse.get 0 (s.score core).tmask m⟩) := by
  have room : ((maskCores (clusterOf core) 0 48 (Sparse.get 0 (s.score core).tmask m)).all fun k =>
      tRoom (s.cycleOf core) (s.tcore k) (tQueue (s.blockAt core ((s.score core).reg r).toNat))) = true :=
    List.all_eq_true.2 hr
  refine congrArg Host.Outcome.next ((State.slotRow_of_executes h _ rfl rfl).trans ?_)
  rw [State.tIssue]
  simp only [blockFail_of_aligned ha hb, hc, room, hm, beq_iff_eq, if_false, Bool.not_true, Bool.false_eq_true]
  rfl

theorem execViss_of_room (h : s.Executes core (.viss r m) len w) (hm : Sparse.get 0 (s.score core).vmask m ≠ 0)
    (hc : vcoreCheck (s.cluster (clusterOf core)).rand.length (s.blockAt core ((s.score core).reg r).toNat) = none)
    (hr : ∀ k ∈ maskCores (clusterOf core) 48 12 (Sparse.get 0 (s.score core).vmask m),
      vRoom (s.cycleOf core) (s.vcore k) (vQueue (s.blockAt core ((s.score core).reg r).toNat)) = true) :
    exec (.viss core) s = .next ((s.vIssue (maskCores (clusterOf core) 48 12 (Sparse.get 0 (s.score core).vmask m))
      (s.blockAt core ((s.score core).reg r).toNat)).issued core ⟨s.slotOf core, core % 64,
        3 + vQueue (s.blockAt core ((s.score core).reg r).toNat), Sparse.get 0 (s.score core).vmask m⟩) := by
  have room : ((maskCores (clusterOf core) 48 12 (Sparse.get 0 (s.score core).vmask m)).all fun k =>
      vRoom (s.cycleOf core) (s.vcore k) (vQueue (s.blockAt core ((s.score core).reg r).toNat))) = true :=
    List.all_eq_true.2 hr
  refine congrArg Host.Outcome.next ((State.slotRow_of_executes h _ rfl rfl).trans ?_)
  rw [State.vIssue]
  simp only [blockFail_of_aligned ha hb, hc, room, hm, beq_iff_eq, if_false, Bool.not_true, Bool.false_eq_true]
  rfl

end

end Sys2Proof.Machine

open Sys2Proof Sys2Proof.Machine

/-- Settles O25: the cores of a mask are distinct, so that each takes the operation once, and the issue is noted after that. -/
theorem issueReachesEveryCoreOfTheMask : Obligations.IssueReachesEveryCoreOfTheMask := by
  intro s core len w r m x a b cl ha hb
  refine ⟨fun h hm hc hr => ?_, fun h hm hc hr => ?_⟩
  · intro i
    have made := execTiss_of_room ha hb h hm hc hr
    have queued := s.tIssue_tcore (maskCores_nodup cl 0 48 (Sparse.get 0 x.tmask m)) b
    have frame := s.tIssue_keeps (F := fun u : State => { u with tcores := [] }) (fun _ _ _ => rfl) (maskCores cl 0 48 (Sparse.get 0 x.tmask m)) b
    have score := s.tIssue_keeps (F := fun u => u.score core) (fun _ _ _ => rfl) (maskCores cl 0 48 (Sparse.get 0 x.tmask m)) b
    have cluster := s.tIssue_keeps (F := fun u => u.cluster cl) (fun _ _ _ => rfl) (maskCores cl 0 48 (Sparse.get 0 x.tmask m)) b
    generalize s.tIssue (maskCores cl 0 48 (Sparse.get 0 x.tmask m)) b = v at *
    obtain ⟨hpc, hready, hregs, hdmem⟩ := v.issued_score core i
    rw [score] at hpc hregs hdmem
    rw [cluster] at hready
    have whole : v = { s with tcores := v.tcores } := (congrArg (fun w : State => { w with tcores := v.tcores }) frame :)
    exact ⟨_, made, fun k hk => (queued k).trans (if_pos hk), fun k hk => (queued k).trans (if_neg hk), hpc, hready, hregs, hdmem,
      (v.issued_frame core i).trans (congrArg (fun w : State => { w with
        scores := (v.issued core i).scores, clusters := (v.issued core i).clusters }) whole)⟩
  · intro i
    have made := execViss_of_room ha hb h hm hc hr
    have queued := s.vIssue_vcore (maskCores_nodup cl 48 12 (Sparse.get 0 x.vmask m)) b
    have frame := s.vIssue_keeps (F := fun u : State => { u with vcores := [] }) (fun _ _ _ => rfl) (maskCores cl 48 12 (Sparse.get 0 x.vmask m)) b
    have score := s.vIssue_keeps (F := fun u => u.score core) (fun _ _ _ => rfl) (maskCores cl 48 12 (Sparse.get 0 x.vmask m)) b
    have cluster := s.vIssue_keeps (F := fun u => u.cluster cl) (fun _ _ _ => rfl) (maskCores cl 48 12 (Sparse.get 0 x.vmask m)) b
    generalize s.vIssue (maskCores cl 48 12 (Sparse.get 0 x.vmask m)) b = v at *
    obtain ⟨hpc, hready, hregs, hdmem⟩ := v.issued_score core i
    rw [score] at hpc hregs hdmem
    rw [cluster] at hready
    have whole : v = { s with vcores := v.vcores } := (congrArg (fun w : State => { w with vcores := v.vcores }) frame :)
    exact ⟨_, made, fun k hk => (queued k).trans (if_pos hk), fun k hk => (queued k).trans (if_neg hk), hpc, hready, hregs, hdmem,
      (v.issued_frame core i).trans (congrArg (fun w : State => { w with
        scores := (v.issued core i).scores, clusters := (v.issued core i).clusters }) whole)⟩
end

section
/-! PROOF. SMOVE enters its queue, and the words of a fill land (R118, R181). -/

namespace Sys2Proof.Machine

section
variable {s : State} {core len w r : Nat}

/-- A descriptor that passes its checks enters the queue where it has room. -/
theorem State.smove_of_room (h : s.Executes core (.smove r) len w) (ha : ((s.score core).reg r).toNat % 16 = 0)
    (hb : ((s.score core).reg r).toNat ≤ 0xFF0)
    (hc : smoveCheck (imgLevel (s.polder (s.polderAt core)).image) (s.blockAt core ((s.score core).reg r).toNat) = none)
    (hr : (s.score core).room (s.cycleOf core) = true) :
    s.smove core = s.setScore core { ((s.score core).step (s.slotOf core) 1) with
      ops := startHead (s.cycleOf core) ((s.score core).ops ++ [s.issueOp core (s.blockAt core ((s.score core).reg r).toNat) true
        (mvOff (s.blockAt core ((s.score core).reg r).toNat) / 32)]) } := by
  obtain ⟨_, hf⟩ := h
  unfold State.smove
  rw [hf]
  dsimp only
  rw [blockFail_of_aligned ha hb]
  dsimp only
  rw [hc, hr]
  rfl

theorem State.smoveTurn_of_executes {k : Nat} (h : s.Executes core (.smove r) len w) (ha : ((s.score core).reg r).toNat % 16 = 0)
    (hb : ((s.score core).reg r).toNat ≤ 0xFF0) (hk : vOpc (s.blockAt core ((s.score core).reg r).toNat) = k)
    (hm : k ∈ [0x60, 0x61, 0x62, 0x65]) : s.smoveTurn core = some k := by
  obtain ⟨ht, hf⟩ := h
  unfold State.smoveTurn
  rw [ht, hf]
  simp only [Bool.not_true, Bool.false_eq_true, if_false, blockFail_of_aligned ha hb, Option.isSome_none, hk]
  simp only [List.mem_cons, List.not_mem_nil, or_false] at hm
  obtain rfl | rfl | rfl | rfl := hm <;> rfl

theorem State.moveRow_of_executes {k : Nat} (h : s.Executes core (.smove r) len w) (ha : ((s.score core).reg r).toNat % 16 = 0)
    (hb : ((s.score core).reg r).toNat ≤ 0xFF0) (hk : vOpc (s.blockAt core ((s.score core).reg r).toNat) = k)
    (hm : k ∈ [0x60, 0x61, 0x62, 0x65]) : s.moveRow core k = s.smove core := by
  unfold State.moveRow
  rw [s.smoveTurn_of_executes h ha hb hk hm]
  exact if_pos (by simp)

end

/-! ### The words of a fill -/

/-- What noting a late word leaves of every S-core: all but the note. -/
theorem State.noteLate_score (s : State) (core : Nat) (late : Bool) (lo : Nat) (reads left : Bool) (h : 60 ≤ core % 64) (k : Nat) :
    ∃ l, (s.noteLate core late lo reads left).score k = if core = k then { s.score core with late := l } else s.score k := by
  unfold State.noteLate
  dsimp only
  by_cases hl : late = true
  · rw [if_neg (by simp [hl]), if_neg (by omega), if_neg (by omega), State.onScore_score]
    exact ⟨_, rfl⟩
  · refine ⟨(s.score core).late, ?_⟩
    rw [if_pos (by simp [hl])]
    split
    · next e => rw [← e]
    · rfl

/-- A word of a fill of an S-core that is due, and in which no error stands, lands (R118, R181). -/
theorem State.scoreWord_of_due {s : State} {core : Nat} {o : Op} {rest : List Op} (ho : (s.score core).ops = o :: rest)
    (hs : s.standsStill core = false) (hd : o.done < vCount o.word.toNat)
    (hw : wordDue (s.wordDelay core) (s.cycleOf core) o ≤ s.cycleOf core)
    (hg : (s.portRead core (mvOff o.word.toNat / 32 + o.done) []).2.status = .ok)
    (hk : vOpc o.word.toNat = 0x60 ∨ vOpc o.word.toNat = 0x65) :
    ∃ late left l, s.scoreWord core true [] =
      ((s.portRead core (mvOff o.word.toNat / 32 + o.done) []).1.noteLate core late
        (mvSram o.word.toNat + 32 * o.done) false left).onScore core fun x =>
        if vOpc o.word.toNat == 0x60 then
          { x with dmem := x.dmem.write (mvSram o.word.toNat + 32 * o.done) (s.portRead core (mvOff o.word.toNat / 32 + o.done) []).2.data, ops := l }
        else
          { x with imem := x.imem.write (mvSram o.word.toNat + 32 * o.done) (s.portRead core (mvOff o.word.toNat / 32 + o.done) []).2.data, ops := l } := by
  unfold State.scoreWord
  dsimp only
  rw [ho]
  dsimp only
  rw [if_neg (by simp [hs, hd, hw])]
  split
  · omega
  · rw [if_neg (by simp; omega), if_neg (by simp [hg])]
    obtain hk | hk := hk <;> simp only [hk] <;> exact ⟨_, _, _, rfl⟩

section
variable {s : State} {core : Nat} {o : Op} {rest : List Op}

theorem execUcmWordArrival_of_fill (hc : 60 ≤ core % 64) (ho : (s.score core).ops = o :: rest) (hs : s.standsStill core = false)
    (hk : vOpc o.word.toNat ≠ 0x61) : exec (.ucmWordArrival core []) s = .next (s.scoreWord core true []) := by
  refine congrArg Host.Outcome.next ?_
  unfold State.unlessHeld
  rw [hs, if_neg (by simp), if_neg (by omega), if_neg (by omega), if_neg]
  unfold SCore.runs
  rw [ho]
  simpa using hk

variable (hc : 60 ≤ core % 64) (ho : (s.score core).ops = o :: rest) (hs : s.standsStill core = false)
  (hd : o.done < vCount o.word.toNat) (hw : wordDue (s.wordDelay core) (s.cycleOf core) o ≤ s.cycleOf core)
  (hg : (s.portRead core (mvOff o.word.toNat / 32 + o.done) []).2.status = .ok)
include hc ho hs hd hw hg

theorem answers_of_sfillWord (hk : vOpc o.word.toNat = 0x60) : Answers (.ucmWordArrival core []) s fun t =>
    (t.score core).dmem = ((s.portRead core (mvOff o.word.toNat / 32 + o.done) []).1.score core).dmem.write
        (mvSram o.word.toNat + 32 * o.done) (s.portRead core (mvOff o.word.toNat / 32 + o.done) []).2.data
      ∧ (t.score core).regs = ((s.portRead core (mvOff o.word.toNat / 32 + o.done) []).1.score core).regs
      ∧ ∀ k, k ≠ core → t.score k = (s.portRead core (mvOff o.word.toNat / 32 + o.done) []).1.score k := by
  obtain ⟨late, left, l, e⟩ := State.scoreWord_of_due ho hs hd hw hg (.inl hk)
  refine ⟨_, (execUcmWordArrival_of_fill hc ho hs (by omega)).trans (congrArg _ e), ?_⟩
  generalize State.portRead s core _ [] = g
  have hn := g.1.noteLate_score core late (mvSram o.word.toNat + 32 * o.done) false left hc
  obtain ⟨x, hx⟩ := hn core
  refine ⟨?_, ?_, fun k h => ?_⟩
  · simp [State.onScore_score, hx, hk]
  · simp [State.onScore_score, hx, hk]
  · obtain ⟨y, hy⟩ := hn k
    simp [State.onScore_score, hy, h.symm]

theorem answers_of_sfilliWord (hk : vOpc o.word.toNat = 0x65) : Answers (.ucmWordArrival core []) s fun t =>
    (t.score core).imem = ((s.portRead core (mvOff o.word.toNat / 32 + o.done) []).1.score core).imem.write
        (mvSram o.word.toNat + 32 * o.done) (s.portRead core (mvOff o.word.toNat / 32 + o.done) []).2.data
      ∧ (t.score core).regs = ((s.portRead core (mvOff o.word.toNat / 32 + o.done) []).1.score core).regs
      ∧ ∀ k, k ≠ core → t.score k = (s.portRead core (mvOff o.word.toNat / 32 + o.done) []).1.score k := by
  obtain ⟨late, left, l, e⟩ := State.scoreWord_of_due ho hs hd hw hg (.inr hk)
  refine ⟨_, (execUcmWordArrival_of_fill hc ho hs (by omega)).trans (congrArg _ e), ?_⟩
  generalize State.portRead s core _ [] = g
  have hn := g.1.noteLate_score core late (mvSram o.word.toNat + 32 * o.done) false left hc
  obtain ⟨x, hx⟩ := hn core
  refine ⟨?_, ?_, fun k h => ?_⟩
  · simp [State.onScore_score, hx, hk]
  · simp [State.onScore_score, hx, hk]
  · obtain ⟨y, hy⟩ := hn k
    simp [State.onScore_score, hy, h.symm]

end

end Sys2Proof.Machine

open Sys2Proof Sys2Proof.Machine

/-- Settles O28: by the enqueueing of a descriptor that passes its checks, and the landing of a word that is due. -/
theorem smoveEntersTheQueue : Obligations.SmoveEntersTheQueue := by
  unfold Obligations.SmoveEntersTheQueue
  refine ⟨fun s core len w r k i hki => ?_, fun s core o rest hc ho => ?_⟩
  · intro x a o h ha hb hk hcheck hroom
    have hm : k ∈ [0x60, 0x61, 0x62, 0x65] := by
      simp only [List.mem_cons, Prod.mk.injEq, List.not_mem_nil, or_false] at hki ⊢
      omega
    have he : exec i s = .next (s.moveRow core k) := by
      simp only [List.mem_cons, Prod.mk.injEq, List.not_mem_nil, or_false] at hki
      obtain ⟨rfl, rfl⟩ | ⟨rfl, rfl⟩ | ⟨rfl, rfl⟩ | ⟨rfl, rfl⟩ := hki <;> rfl
    refine ⟨_, he.trans (congrArg _ ((s.moveRow_of_executes h ha hb hk hm).trans (s.smove_of_room h ha hb hcheck hroom))), ?_⟩
    exact s.setScore_scoreIs ..
  · intro w g hs hd hw hg
    exact ⟨answers_of_sfillWord hc ho hs hd hw hg, answers_of_sfilliWord hc ho hs hd hw hg⟩
end

section
/-! PROOF. The running tile and the running drain of a T-core (R63, R70, R81). -/

namespace Sys2Proof.Machine

/-! ### One T-core changes -/

/-- `t` differs from `s` only in one T-core, and in the free values drawn. -/
def State.OnlyTcore (s : State) (core : Nat) (t : State) : Prop :=
  (∀ k, k ≠ core → t.tcore k = s.tcore k) ∧ t = { s with tcores := t.tcores, fresh := t.fresh }

theorem State.onTcore_onlyTcore (s : State) (core : Nat) (g : TCore → TCore) : s.OnlyTcore core (s.onTcore core g) :=
  ⟨fun _ hk => (State.onTcore_tcore ..).trans (if_neg hk.symm), rfl⟩

theorem State.lostCycles_onTcore_onlyTcore (s : State) (may : Bool) (core : Nat) (g : TCore → TCore) :
    s.OnlyTcore core ((s.lostCycles may).2.onTcore core g) := by
  cases may
  · exact s.onTcore_onlyTcore core g
  · exact ⟨fun _ hk => (State.onTcore_tcore ..).trans (if_neg hk.symm), rfl⟩

section
variable {s : State} {core : Nat} {b r : List Op} {o : Op} (hs : s.standsStill core = false)
include hs

/-! ### TMMA -/

theorem answers_tmma (h : runnable tOpc tQueue tFoot 2 1 (s.tcore core).ops = some (b, o, r)) :
    Answers (.tmma core) s fun t => s.OnlyTcore core t
      ∧ ∃ late, t.tcore core = { (s.tcore core).mma (s.vEnv core).opt o.word.toNat late with ops := b ++ r } := by
  refine ⟨(s.lostCycles ((s.tcore core).mayLose o.word.toNat)).2.onTcore core fun c =>
    c.runMma (s.vEnv core).opt (s.lostCycles ((s.tcore core).mayLose o.word.toNat)).1, ?_,
    s.lostCycles_onTcore_onlyTcore _ core _, (s.lostCycles ((s.tcore core).mayLose o.word.toNat)).1, ?_⟩
  · refine congrArg Host.Outcome.next ?_
    rw [State.unlessHeld, hs, h]
    exact if_neg Bool.false_ne_true
  · rw [State.onTcore_tcore, if_pos rfl, State.lostCycles_tcore, TCore.runMma, h]

end

/-- Value i of a tile stands in accumulator entry ACC + i. -/
theorem mma_acc_at (c : TCore) (o : ArithOpt) (w late : Nat) {i : Nat} (hi : i < (mmaValues o w c).length) :
    Sparse.get 0 (c.mma o w late).acc (mmaAcc w + i) = BitVec.ofNat 32 (nth (0, 0) (mmaValues o w c) i).1 := by
  simp only [TCore.mma, Sparse.get_setRange, List.length_map]
  rw [if_pos (by omega), Nat.add_sub_cancel_left, List.getElem?_map, List.getElem?_eq_getElem hi]
  simp [nth, hi]

theorem mma_acc_outside (c : TCore) (o : ArithOpt) (w late : Nat) {a : Nat}
    (ha : a < mmaAcc w ∨ mmaAcc w + (mmaValues o w c).length ≤ a) :
    Sparse.get 0 (c.mma o w late).acc a = Sparse.get 0 c.acc a := by
  simp only [TCore.mma, Sparse.get_setRange, List.length_map]
  exact if_neg (by omega)

/-! ### TDRAIN -/

theorem entries_eq (c : TCore) (a n : Nat) :
    c.entries a n = ((List.range n).map fun i => leBytes 4 (Sparse.get 0 c.acc (a + i)).toNat).flatten := by
  simp only [TCore.entries, Sparse.range_eq, List.range'_eq_map_range, List.map_map]
  rfl

@[simp] theorem entries_length (c : TCore) (a n : Nat) : (c.entries a n).length = 4 * n := by
  simp [entries_eq, Function.comp_def, Nat.mul_comm]

theorem drained_acc (c : TCore) (w k n a : Nat) : Sparse.get 0 (c.drained w k n).acc a =
    if drainClear w = true ∧ k ≤ a ∧ a < k + n then 0 else Sparse.get 0 c.acc a := by
  unfold TCore.drained
  by_cases hw : drainClear w = true
  · simp only [hw, if_true, Sparse.get_setRange, List.length_replicate, true_and]
    split
    · rw [List.getElem?_replicate_of_lt (by omega)]
      rfl
    · rfl
  · simp [hw]

theorem drained_status (c : TCore) (w k n : Nat) : (c.drained w k n).status = c.status := by
  unfold TCore.drained
  split <;> rfl

/-- A drain to SRAM that no mini-mesh beat has met takes effect and leaves its queue. -/
theorem runDrain_of_sram {c : TCore} {b r : List Op} {o : Op} (slot : Nat)
    (h : runnable tOpc tQueue tFoot 3 2 c.ops = some (b, o, r)) (hs : o.started = none) (hc : o.covered = [])
    (hm : drainMesh o.word.toNat = false) :
    c.runDrain slot = { c.drained o.word.toNat (drainAcc o.word.toNat) (drainCount o.word.toNat) with
      sram := c.sram.write (drainSram o.word.toNat) (c.entries (drainAcc o.word.toNat) (drainCount o.word.toNat)), ops := b ++ r } := by
  unfold TCore.runDrain
  rw [h]
  dsimp only
  rw [hs, hm, Op.cover, hc]
  rfl

theorem exec_tdrain {s : State} {core : Nat} (hs : s.standsStill core = false) :
    exec (.tdrain core) s = .next (s.onTcore core fun c => c.runDrain (s.slotOf core)) := by
  refine congrArg Host.Outcome.next ?_
  rw [State.unlessHeld, hs]
  exact if_neg Bool.false_ne_true

end Sys2Proof.Machine

open Sys2Proof Sys2Proof.Machine

/-- Settles O29: by what the tile multiply and the drain make of their core. -/
theorem tileMultiplyWritesItsTile : Obligations.TileMultiplyWritesItsTile := by
  unfold Obligations.TileMultiplyWritesItsTile
  intro s core b r o c w alone hs
  refine ⟨fun h => ?_, fun h ho hc hm => ?_⟩
  · obtain ⟨t, he, hone, late, ht⟩ := answers_tmma hs h
    refine ⟨t, he, hone, ?_⟩
    rw [ht]
    exact ⟨rfl, rfl, fun i hi => mma_acc_at c _ w late hi, fun a ha => mma_acc_outside c _ w late ha, rfl⟩
  · refine ⟨_, exec_tdrain hs, s.onTcore_onlyTcore core _, ?_⟩
    rw [State.onTcore_tcore, if_pos rfl, runDrain_of_sram _ h ho hc hm]
    dsimp only
    refine ⟨rfl, drained_status .., ?_, fun a ha => Memory.byte_write_outside _ _ _ _ (by rwa [entries_length]), drained_acc c w _ _⟩
    rw [← entries_eq, ← entries_length (s.tcore core) (drainAcc w) (drainCount w)]
    exact Memory.read_write _ _ _
end

section
/-! PROOF. The compute queue of a V-core (R89-R103, R268-R275). -/

namespace Sys2Proof.Machine

/-- The state as the running operation `o` reads it, `b` being those before it: free bytes stand in the unfilled inbound
entries that it reads (R169). -/
def State.vSeen (s : State) (core : Nat) (b : List Op) (o : Op) : State := s.ringBlur core ((s.vcore core).readsOf b o)

/-- The state after the running operation `o`, which does not fail. -/
def State.vDone (s : State) (core : Nat) (b r : List Op) (o : Op) (f : VCore → VEnv → Nat → VCore × Option (Status × Nat))
    (extra : VCore → Nat → Nat) : State :=
  let u := s.vSeen core b o
  let c := u.vcore core
  let l := u.lostCycles c.stirred
  (l.2.setVcore core (c.after (u.vEnv core) b r o f (extra c o.word.toNat + l.1))).spoil core
    (vWritten c (u.vEnv core) o.word.toNat false)

section
variable {s : State} {core opc : Nat} {b r : List Op} {o : Op} (f : VCore → VEnv → Nat → VCore × Option (Status × Nat))
  (extra : VCore → Nat → Nat) (h : runnable vOpc vQueue vFoot opc 0 (s.vcore core).ops = some (b, o, r))
  (hy : (f ((s.vSeen core b o).vcore core) ((s.vSeen core b o).vEnv core) o.word.toNat).2 = none)
include h hy

/-- The running operation takes effect and leaves, where it does not fail. -/
theorem vRun_of_runnable : s.vRun core opc f extra = s.vDone core b r o f extra := by
  unfold State.vSeen at hy
  unfold State.vRun
  rw [h]
  dsimp only
  rw [hy]
  rfl

/-- A row whose run does not fail answers the state after its operation. -/
theorem next_of_vRun (hs : s.standsStill core = false) :
    (Host.Outcome.next (s.unlessHeld core (s.vRun core opc f extra)) : Result) = .next (s.vDone core b r o f extra) := by
  rw [State.unlessHeld, hs, vRun_of_runnable f extra h hy]
  rfl

end

end Sys2Proof.Machine

open Sys2Proof Sys2Proof.Machine

/-- Settles O31: each row runs its operation on the core, and only the three that can fail need that it does not. -/
theorem vectorOperationsTakeEffect : Obligations.VectorOperationsTakeEffect := by
  unfold Obligations.VectorOperationsTakeEffect
  intro s core b r o w u c e after hs
  refine ⟨fun opc i f hm h => ?_, fun h hy => ?_, fun h hy => ?_, fun h hy => ?_⟩
  · have he : exec i s = .next (s.vOp core opc f) := by
      simp only [List.mem_cons, List.not_mem_nil, or_false, Prod.mk.injEq] at hm
      rcases hm with hm | hm | hm | hm | hm | hm | hm | hm | hm | hm | hm | hm | hm | hm | hm | hm | hm | hm | hm | hm | hm
        | hm | hm | hm | hm | hm | hm
      all_goals obtain ⟨rfl, rfl, rfl⟩ := hm; rfl
    exact he.trans (next_of_vRun (fun c e w => (f c e w, none)) (fun _ _ => 0) h rfl hs)
  · exact next_of_vRun (fun c _ w => ((vgatherOp c w).1, (vgatherOp c w).2.map fun i => (.bound, i))) gatherStalls h
      (Option.map_eq_none_iff.2 hy) hs
  · exact next_of_vRun (fun c e w => ((vtopkOp c e w).1, (vtopkOp c e w).2.map fun st => (st, 0))) (fun _ _ => 0) h
      (Option.map_eq_none_iff.2 hy) hs
  · exact next_of_vRun (fun c e w => ((vsampOp c e w).1, (vsampOp c e w).2.map fun st => (st, 0))) (fun _ _ => 0) h
      (Option.map_eq_none_iff.2 hy) hs
end

section
/-! PROOF. What VADD and VCOPY write (R88, R91, R93). -/

namespace Sys2Proof.Machine

/-- A read of whole words gives them one after another. -/
theorem read_words (m : Memory) (a n : Nat) :
    m.read a (4 * n) = ((List.range n).map fun i => m.read (a + 4 * i) 4).flatten := by
  induction n with
  | zero => simp [Memory.read_eq]
  | succ n ih =>
    rw [List.range_succ, List.map_append, List.flatten_append, ← ih, Memory.read_eq, Memory.read_eq, Nat.mul_succ,
      ← List.range'_append_1, List.map_append]
    simp [Memory.read_eq]

theorem fmtBytes_fp32 (n : Nat) : fmtBytes 0 n = 4 * n := by
  simp only [fmtBytes, fmtBits, Option.getD_some, ceilDiv]
  omega

/-- A stream of 32-bit results changes only the bytes of its destination. -/
theorem putCodes_byte_outside_fp32 {a : Nat} (c : VCore) (w : Nat) (l : List (Nat × Flags))
    (ha : a < vDst w ∨ vDst w + 4 * l.length ≤ a) : (c.putCodes w 0 l).sram.byte a = c.sram.byte a := by
  refine Memory.byte_write_outside _ _ _ _ ?_
  rwa [packedOver, leBytes_length, List.length_map, fmtBytes_fp32]

theorem binary_byte_outside_fp32 {a : Nat} (c : VCore) (e : VEnv) (w : Nat) (f : Num → Num → Exact × Flags) (hfa : vFmtA w = 0)
    (hd : vFmtD w = 0) (hs : vSb w = false) (ha : a < vDst w ∨ vDst w + 4 * vCount w ≤ a) :
    (c.binary e w f).sram.byte a = c.sram.byte a := by
  unfold VCore.binary VCore.putRounded
  rw [hd]
  refine putCodes_byte_outside_fp32 _ _ _ ?_
  simpa [vA, vBs, hfa, hs, codesAt_fp32] using ha

section
variable (c : VCore) (e : VEnv) (w : Nat)

theorem vaddOp_read_fp32 (ha : vFmtA w = 0) (hd : vFmtD w = 0) (hr : vRnd w = false) (hs : vSb w = false) :
    (vaddOp c e w).sram.read (vDst w) (4 * vCount w) = ((List.range (vCount w)).map fun i =>
      leBytes 4 (Fmt.fp32.write e.opt .rne (Num.add (Fmt.fp32.decode (fieldAt (c.sram.read (vSrcA w + 4 * i) 4) 0 4))
        (Fmt.fp32.decode (fieldAt (c.sram.read (vSrcB w + 4 * i) 4) 0 4))).1.exact).1).flatten := by
  rw [read_words]
  refine congrArg _ (List.map_congr_left fun i hi => ?_)
  exact binary_read_fp32 c e w (fun a b => exactOf (Num.add a b)) ha hd hr hs (List.mem_range.1 hi)

/-- VCOPY writes what stood at its source before anything was written. -/
theorem vcopyOp_read : (vcopyOp c w).sram.read (vDst w) (4 * vCount w) = c.sram.read (vSrcA w) (4 * vCount w) := by
  have h := c.sram.read_write (vDst w) (c.sram.read (vSrcA w) (4 * vCount w))
  rwa [Memory.read_length] at h

end

end Sys2Proof.Machine

open Sys2Proof Sys2Proof.Machine

/-- Settles O32: word by word for the sum, and by a read of what was just written for the copy. -/
theorem vectorResultsAreElementwise : Obligations.VectorResultsAreElementwise := by
  unfold Obligations.VectorResultsAreElementwise
  intro c e w n
  refine ⟨fun ha hd hr hs => ⟨vaddOp_read_fp32 c e w ha hd hr hs, fun a h => binary_byte_outside_fp32 c e w _ ha hd hs h⟩,
    vcopyOp_read c w, fun a h => Memory.byte_write_outside _ _ _ _ ?_⟩
  rwa [Memory.read_length]
end

section
/-! PROOF. Slice moves of T-cores and V-cores (R75, R104, R105, R180). -/

namespace Sys2Proof.Machine

/-! ### The running operation of a queue -/

theorem eq_of_splitQueue {queue : Nat → Nat} {q : Nat} {ops b r : List Op} {o : Op}
    (h : splitQueue queue q ops = some (b, o, r)) : ops = b ++ o :: r := by
  induction ops generalizing b with
  | nil => simp [splitQueue] at h
  | cons x l ih =>
    unfold splitQueue at h
    split at h
    · cases h
      rfl
    · obtain ⟨y, hy, e⟩ := Option.map_eq_some_iff.1 h
      cases e
      rw [List.cons_append, ← ih hy]

/-- Another state of the running operation is the running operation in its place. -/
theorem splitQueue_replace {queue : Nat → Nat} {q : Nat} {ops b r : List Op} {o x : Op}
    (h : splitQueue queue q ops = some (b, o, r)) (hx : x.word = o.word) : splitQueue queue q (b ++ x :: r) = some (b, x, r) := by
  induction ops generalizing b with
  | nil => simp [splitQueue] at h
  | cons y l ih =>
    unfold splitQueue at h
    split at h
    · next hq =>
      cases h
      rw [List.nil_append, splitQueue, if_pos (by rwa [hx])]
    · next hq =>
      obtain ⟨z, hz, e⟩ := Option.map_eq_some_iff.1 h
      cases e
      rw [List.cons_append, splitQueue, if_neg hq, ih hz]
      rfl

theorem splitQueue_of_runnable {opcOf queue : Nat → Nat} {foot : Op → Foot} {opc q : Nat} {ops b r : List Op} {o : Op}
    (h : runnable opcOf queue foot opc q ops = some (b, o, r)) :
    splitQueue queue q ops = some (b, o, r) ∧ opcOf o.word.toNat = opc := by
  unfold runnable at h
  split at h
  · next b' o' r' hs =>
    split at h
    · next hc =>
      cases h
      exact ⟨hs, beq_iff_eq.1 (Bool.and_eq_true_iff.1 hc).1⟩
    · cases h
  · cases h

theorem runnable_eq {opcOf queue : Nat → Nat} {foot : Op → Foot} {opc q : Nat} {ops b b' r r' : List Op} {o x : Op}
    (h : runnable opcOf queue foot opc q ops = some (b', x, r')) (hs : splitQueue queue q ops = some (b, o, r)) : x = o := by
  have e := (splitQueue_of_runnable h).1.symm.trans hs
  cases e
  rfl

/-- The queue is shorter once its running operation has left. -/
theorem length_lt_of_runnable {opcOf queue : Nat → Nat} {foot : Op → Foot} {opc q : Nat} {ops b r : List Op} {o : Op}
    (h : runnable opcOf queue foot opc q ops = some (b, o, r)) : (b ++ r).length < ops.length := by
  rw [eq_of_splitQueue (splitQueue_of_runnable h).1]
  simp

/-! ### Late words and spoiled entries -/

section
variable (s : State) (core : Nat) (late : Bool) (lo : Nat) (reads left : Bool) (k : Nat)

theorem State.noteLate_tcore : ∃ l, (s.noteLate core late lo reads left).tcore k = { s.tcore k with late := l }
    ∧ (k ≠ core → l = (s.tcore k).late) := by
  unfold State.noteLate
  dsimp only
  split_ifs
  · exact ⟨_, rfl, fun _ => rfl⟩
  · rw [State.onTcore_tcore]
    split
    · next e =>
      subst e
      exact ⟨_, rfl, fun h => absurd rfl h⟩
    · exact ⟨_, rfl, fun _ => rfl⟩
  · exact ⟨_, rfl, fun _ => rfl⟩
  · exact ⟨_, rfl, fun _ => rfl⟩

theorem State.noteLate_vcore : ∃ l, (s.noteLate core late lo reads left).vcore k = { s.vcore k with late := l }
    ∧ (k ≠ core → l = (s.vcore k).late) := by
  unfold State.noteLate
  dsimp only
  split_ifs
  · exact ⟨_, rfl, fun _ => rfl⟩
  · exact ⟨_, rfl, fun _ => rfl⟩
  · rw [State.onVcore_vcore]
    split
    · next e =>
      subst e
      exact ⟨_, rfl, fun h => absurd rfl h⟩
    · exact ⟨_, rfl, fun _ => rfl⟩
  · exact ⟨_, rfl, fun _ => rfl⟩

theorem State.noteLate_tcore_of_ne (h : k ≠ core) : (s.noteLate core late lo reads left).tcore k = s.tcore k := by
  obtain ⟨l, e, hl⟩ := s.noteLate_tcore core late lo reads left k
  rw [e, hl h]

theorem State.noteLate_vcore_of_ne (h : k ≠ core) : (s.noteLate core late lo reads left).vcore k = s.vcore k := by
  obtain ⟨l, e, hl⟩ := s.noteLate_vcore core late lo reads left k
  rw [e, hl h]

end

section
variable {s : State} {core : Nat} {b r : List Op} {o : Op} (hd : o.done = 0) (hs : s.standsStill core = false)

/-! ### Moves of a T-core -/

section
variable {opc : Nat} (h : runnable tOpc tQueue tFoot opc 0 (s.tcore core).ops = some (b, o, r))
include h

/-- The words of a move are one where the first one ends it. -/
theorem tWords_of_left (n : Nat) (hl : ((s.tWord core opc []).tcore core).ops = b ++ r) :
    State.tWords core opc (n + 1) s = s.tWord core opc [] := by
  have hlt := length_lt_of_runnable h
  rw [← hl] at hlt
  exact if_pos (by simp [hlt])

end

section
variable (h : runnable tOpc tQueue tFoot 1 0 (s.tcore core).ops = some (b, o, r)) (hn : fillLen o.word.toNat = 1)
  (hu : fillUnpack o.word.toNat = false) (hg : (s.portRead core (fillOff o.word.toNat / 32) []).2.status = .ok)
include hd h hn hu hg

theorem tWord_of_fill : s.tWord core 1 [] =
    ((s.portRead core (fillOff o.word.toNat / 32) []).1.noteLate core (s.lateWord core (fillOff o.word.toNat / 32) o)
      (fillSram o.word.toNat) false true).onTcore core fun c =>
      { c with sram := o.cover c.sram (c.sram.write (fillSram o.word.toNat) (s.portRead core (fillOff o.word.toNat / 32) []).2.data)
               ops := b ++ r } := by
  unfold State.tWord
  dsimp only
  rw [h]
  simp only [hd, State.wordDone, TCore.fillWord, hn, hu, hg, Nat.mul_zero, Nat.add_zero]
  rfl

theorem tWord_fill_core (hc : o.covered = []) :
    ((s.tWord core 1 []).tcore core).sram = ((s.portRead core (fillOff o.word.toNat / 32) []).1.tcore core).sram.write
        (fillSram o.word.toNat) (s.portRead core (fillOff o.word.toNat / 32) []).2.data
      ∧ ((s.tWord core 1 []).tcore core).ops = b ++ r
      ∧ ∀ k, k ≠ core → (s.tWord core 1 []).tcore k = (s.portRead core (fillOff o.word.toNat / 32) []).1.tcore k := by
  rw [tWord_of_fill hd h hn hu hg]
  generalize State.portRead s core _ [] = g
  refine ⟨?_, ?_, fun k hk => ?_⟩
  · obtain ⟨l, e, -⟩ := g.1.noteLate_tcore core (s.lateWord core (fillOff o.word.toNat / 32) o) (fillSram o.word.toNat) false true core
    rw [State.onTcore_tcore, if_pos rfl, e, Op.cover, hc]
    rfl
  · rw [State.onTcore_tcore, if_pos rfl]
  · rw [State.onTcore_tcore, if_neg hk.symm, State.noteLate_tcore_of_ne _ _ _ _ _ _ _ hk]

include hs in
/-- The fill runs its one word, as the row of the word alone does. -/
theorem exec_of_tfill (hc : o.covered = []) {c : Instr}
    (hi : c = .tfill core ∨ (c = .ucmWordArrival core [] ∧ core % 64 < 48)) : exec c s = .next (s.tWord core 1 []) := by
  obtain rfl | ⟨rfl, hlow⟩ := hi <;> refine congrArg Host.Outcome.next ?_ <;> rw [State.unlessHeld, hs, if_neg Bool.false_ne_true]
  · exact tWords_of_left h 255 (tWord_fill_core hd h hn hu hg hc).2.1
  · exact if_pos hlow

end

include hd hs in
theorem exec_twrite_of_runnable (h : runnable tOpc tQueue tFoot 4 0 (s.tcore core).ops = some (b, o, r)) (hn : fillLen o.word.toNat = 1) :
    exec (.twrite core) s = .next (((s.portWrite core (fillOff o.word.toNat / 32)
        ((s.tcore core).sram.read (fillSram o.word.toNat) 32)).noteLate core
      (s.lateWord core (fillOff o.word.toNat / 32) o) (fillSram o.word.toNat) true true).onTcore core fun c => { c with ops := b ++ r }) := by
  have word : s.tWord core 4 [] = ((s.portWrite core (fillOff o.word.toNat / 32)
        ((s.tcore core).sram.read (fillSram o.word.toNat) 32)).noteLate core
      (s.lateWord core (fillOff o.word.toNat / 32) o) (fillSram o.word.toNat) true true).onTcore core fun c => { c with ops := b ++ r } := by
    unfold State.tWord
    dsimp only
    rw [h]
    simp only [hd, State.wordDone, hn, Nat.mul_zero, Nat.add_zero]
    rfl
  refine congrArg Host.Outcome.next ?_
  rw [State.unlessHeld, hs, if_neg Bool.false_ne_true, ← word]
  refine tWords_of_left h 255 ?_
  rw [word, State.onTcore_tcore, if_pos rfl]

/-! ### Moves of a V-core -/

theorem vWords_of_left {opc : Nat} (h : runnable vOpc vQueue vFoot opc 1 (s.vcore core).ops = some (b, o, r)) (n : Nat)
    (hl : ((s.vWord core opc []).vcore core).ops = b ++ r) : State.vWords core opc (n + 1) s = s.vWord core opc [] := by
  have hlt := length_lt_of_runnable h
  rw [← hl] at hlt
  exact if_pos (by simp [hlt])

section
variable (h : runnable vOpc vQueue vFoot 0x60 1 (s.vcore core).ops = some (b, o, r)) (hn : vCount o.word.toNat = 1)
  (hlow : core % 64 < 58) (hg : (s.portRead core (mvOff o.word.toNat / 32) []).2.status = .ok)
include hd h hn hlow hg

theorem vWord_of_fill : s.vWord core 0x60 [] =
    ((s.portRead core (mvOff o.word.toNat / 32) []).1.noteLate core (s.lateWord core (mvOff o.word.toNat / 32) o)
      (mvSram o.word.toNat) false true).onVcore core fun c =>
      { c with sram := o.cover c.sram (c.sram.write (mvSram o.word.toNat) (s.portRead core (mvOff o.word.toNat / 32) []).2.data)
               ops := b ++ r } := by
  have spoiled (t : State) (l : List Rng) : t.spoil core l = t := if_pos (by simp; omega)
  unfold State.vWord
  rw [h]
  dsimp only
  rw [if_neg (by decide), if_neg (by simp [hd, hn]), spoiled]
  simp only [hd, State.wordDone, hn, hg, Nat.mul_zero, Nat.add_zero]
  rfl

theorem vWord_fill_core (hc : o.covered = []) :
    ((s.vWord core 0x60 []).vcore core).sram = ((s.portRead core (mvOff o.word.toNat / 32) []).1.vcore core).sram.write
        (mvSram o.word.toNat) (s.portRead core (mvOff o.word.toNat / 32) []).2.data
      ∧ ((s.vWord core 0x60 []).vcore core).ops = b ++ r
      ∧ ∀ k, k ≠ core → (s.vWord core 0x60 []).vcore k = (s.portRead core (mvOff o.word.toNat / 32) []).1.vcore k := by
  rw [vWord_of_fill hd h hn hlow hg]
  generalize State.portRead s core _ [] = g
  refine ⟨?_, ?_, fun k hk => ?_⟩
  · obtain ⟨l, e, -⟩ := g.1.noteLate_vcore core (s.lateWord core (mvOff o.word.toNat / 32) o) (mvSram o.word.toNat) false true core
    rw [State.onVcore_vcore, if_pos rfl, e, Op.cover, hc]
    rfl
  · rw [State.onVcore_vcore, if_pos rfl]
  · rw [State.onVcore_vcore, if_neg hk.symm, State.noteLate_vcore_of_ne _ _ _ _ _ _ _ hk]

include hs in
theorem exec_of_vfill (hc : o.covered = []) {c : Instr}
    (hi : c = .vfill core ∨ (c = .ucmWordArrival core [] ∧ 48 ≤ core % 64)) : exec c s = .next (s.vWord core 0x60 []) := by
  obtain ⟨hq, hk⟩ := splitQueue_of_runnable h
  obtain rfl | ⟨rfl, hhigh⟩ := hi <;> refine congrArg Host.Outcome.next ?_ <;> rw [State.unlessHeld, hs, if_neg Bool.false_ne_true]
  · exact vWords_of_left h 8191 (vWord_fill_core hd h hn hlow hg hc).2.1
  · rw [if_neg (by omega), if_pos (by omega), hq]
    dsimp only
    rw [hk]
    rfl

end

include hd hs in
theorem exec_vwrite_of_runnable (h : runnable vOpc vQueue vFoot 0x61 1 (s.vcore core).ops = some (b, o, r)) (hn : vCount o.word.toNat = 1)
    (hlow : core % 64 < 58) :
    exec (.vwrite core) s = .next (((s.portWrite core (mvOff o.word.toNat / 32)
        ((s.vcore core).sram.read (mvSram o.word.toNat) 32)).noteLate core
      (s.lateWord core (mvOff o.word.toNat / 32) o) (mvSram o.word.toNat) true true).onVcore core fun c => { c with ops := b ++ r }) := by
  have blur : s.ringBlur core [⟨mvSram o.word.toNat, 32⟩] = s := if_pos (by simp; omega)
  have word : s.vWord core 0x61 [] = ((s.portWrite core (mvOff o.word.toNat / 32)
        ((s.vcore core).sram.read (mvSram o.word.toNat) 32)).noteLate core
      (s.lateWord core (mvOff o.word.toNat / 32) o) (mvSram o.word.toNat) true true).onVcore core fun c => { c with ops := b ++ r } := by
    unfold State.vWord
    rw [h]
    simp only [hd, State.wordDone, hn, Nat.mul_zero, Nat.add_zero, blur]
    rfl
  refine congrArg Host.Outcome.next ?_
  rw [State.unlessHeld, hs, if_neg Bool.false_ne_true, ← word]
  refine vWords_of_left h 8191 ?_
  rw [word, State.onVcore_vcore, if_pos rfl]

/-! ### VFWD -/

/-- A VFWD all of whose words have been taken takes no more. -/
theorem vWord_of_taken {x : Op} (hq : splitQueue vQueue 1 (s.vcore core).ops = some (b, x, r)) (hx : vCount x.word.toNat ≤ x.done) :
    s.vWord core 0x62 [] = s := by
  unfold State.vWord
  split
  · rfl
  · next b' o' r' h =>
    obtain rfl := runnable_eq h hq
    dsimp only
    rw [if_neg (by decide), if_pos (by simp [hx])]

theorem vWords_of_taken {x : Op} (hq : splitQueue vQueue 1 (s.vcore core).ops = some (b, x, r)) (hx : vCount x.word.toNat ≤ x.done)
    (n : Nat) : State.vWords core 0x62 n s = s := by
  cases n with
  | zero => rfl
  | succ n =>
    unfold State.vWords
    rw [vWord_of_taken hq hx]
    exact if_pos (by simp)

include hd hs in
theorem exec_vfwd_of_runnable (h : runnable vOpc vQueue vFoot 0x62 1 (s.vcore core).ops = some (b, o, r)) (hn : vCount o.word.toNat = 1)
    (hb : o.buf = []) (hg : (s.portRead core (mvOff o.word.toNat / 32) []).2.status = .ok) :
    exec (.vfwd core) s = .next (((s.portRead core (mvOff o.word.toNat / 32) []).1.noteLate core
      (s.lateWord core (mvOff o.word.toNat / 32) o) (mvSram o.word.toNat) false false).onVcore core fun c => { c with
        ops := b ++ { o with done := 1, seen := some (s.ucmSeen core (mvOff o.word.toNat / 32 + 1)), taken := false
                             buf := (s.portRead core (mvOff o.word.toNat / 32) []).2.data } :: r }) := by
  have word : s.vWord core 0x62 [] = ((s.portRead core (mvOff o.word.toNat / 32) []).1.noteLate core
      (s.lateWord core (mvOff o.word.toNat / 32) o) (mvSram o.word.toNat) false false).onVcore core fun c => { c with
        ops := b ++ { o with done := 1, seen := some (s.ucmSeen core (mvOff o.word.toNat / 32 + 1)), taken := false
                             buf := (s.portRead core (mvOff o.word.toNat / 32) []).2.data } :: r } := by
    unfold State.vWord
    rw [h]
    simp only [hd, State.wordDone, hn, hb, hg, Nat.mul_zero, Nat.add_zero]
    rfl
  refine congrArg Host.Outcome.next ?_
  rw [State.unlessHeld, hs, if_neg Bool.false_ne_true, ← word]
  unfold State.vWords
  dsimp only
  split
  · rfl
  · rw [word]
    refine vWords_of_taken (b := b) (r := r) (x := { o with
      done := 1, seen := some (s.ucmSeen core (mvOff o.word.toNat / 32 + 1)), taken := false
      buf := (s.portRead core (mvOff o.word.toNat / 32) []).2.data }) ?_ (le_of_eq hn) _
    rw [State.onVcore_vcore, if_pos rfl]
    exact splitQueue_replace (splitQueue_of_runnable h).1 rfl

include hs in
theorem answers_vsend (h : splitQueue vQueue 1 (s.vcore core).ops = some (b, o, r)) (hk : vOpc o.word.toNat = 0x63) (ho : o.started = none) :
    Answers (.vsend core) s fun t =>
      t.vcore core = { s.vcore core with ops := b ++ { o with started := some (s.slotOf core) } :: r }
        ∧ (∀ k, k ≠ core → t.vcore k = s.vcore k) ∧ t = { s with vcores := t.vcores } := by
  refine ⟨s.onVcore core fun c => c.runSend (s.slotOf core), congrArg Host.Outcome.next ?_, ?_, fun k hne => ?_, rfl⟩
  · rw [State.unlessHeld, hs, if_neg Bool.false_ne_true]
  · rw [State.onVcore_vcore, if_pos rfl, VCore.runSend, h]
    exact if_pos (by simp [hk, ho])
  · rw [State.onVcore_vcore, if_neg hne.symm]

end

end Sys2Proof.Machine

open Sys2Proof Sys2Proof.Machine

/-- Settles O33: row by row, by the word that the move carries. -/
theorem sliceMovesCarryTheirWords : Obligations.SliceMovesCarryTheirWords := by
  unfold Obligations.SliceMovesCarryTheirWords
  intro s core b r o hd hc hs w
  refine ⟨fun h hn hu => ?_, exec_twrite_of_runnable hd hs, fun h hn hlow => ?_, exec_vwrite_of_runnable hd hs,
    exec_vfwd_of_runnable hd hs, answers_vsend hs⟩
  · intro g hg c hi
    exact ⟨_, exec_of_tfill hd hs h hn hu hg hc hi, tWord_fill_core hd h hn hu hg hc⟩
  · intro g hg c hi
    exact ⟨_, exec_of_vfill hd hs h hn hlow hg hc hi, vWord_fill_core hd h hn hlow hg hc⟩
end

section
/-! PROOF. Router slots, slot-table entries and holds: a table of clusters that lists one twice (R138). -/

namespace Sys2Proof.Machine

/-- A cluster whose entry in force, and the two after it, last no slot. -/
def hurriedCluster : Cluster := { inForce := 0, table := [(1, 0), (2, 0)] }

/-- A running polder of one half-die, whose cluster 0 the table of clusters lists twice. -/
def listedTwice : State :=
  { polders := [(0, { state := .running, w := 1, h := 1, rows := 1 })], clusters := [(0, hurriedCluster), (0, hurriedCluster)] }

/-- Each listing advances the cluster once: it stands at entry 2, where one advance leads to entry 1. -/
theorem exec_slotEntryAdvance_listedTwice : ∃ t, exec (.slotEntryAdvance 0) listedTwice = .next t ∧ (t.cluster 0).entry = 2 :=
  ⟨_, rfl, by decide⟩

end Sys2Proof.Machine

open Sys2Proof Sys2Proof.Machine

/-- Refutes O34: in a state whose table of clusters lists cluster 0 twice, SLOT_ENTRY_ADVANCE advances it twice, and where an
entry lasts no slot the second advance goes on to the next one. -/
theorem not_slotsAndHoldsOfAPolder : ¬ Obligations.SlotsAndHoldsOfAPolder := by
  unfold Obligations.SlotsAndHoldsOfAPolder
  intro h
  obtain ⟨-, -, -, advance, -⟩ := h listedTwice 0 rfl
  obtain ⟨t, ht, own, -⟩ := advance rfl
  obtain ⟨u, hu, twice⟩ := exec_slotEntryAdvance_listedTwice
  obtain rfl : u = t := Host.Outcome.next.inj (hu.symm.trans ht)
  rw [own 0 (by decide) (by decide)] at twice
  exact absurd twice (by decide)
end

section
/-! PROOF. Entries arrive at an inbound sluice and are taken from an outbound one (R168, R170, R286). -/

namespace Sys2Proof.Machine

/-! ### The running descriptor -/

theorem running_of_runningOp {s : State} {ch : Nat} {d : Desc} (h : s.runningOp ch = some d) :
    (s.chan ch).begun = true ∧ (s.chan ch).finish = none ∧ s.desc ch = some d := by
  unfold State.runningOp at h
  split at h
  · next hc =>
    simp only [Bool.and_eq_true, Option.isNone_iff_eq_none] at hc
    obtain ⟨⟨hb, hf⟩, -⟩ := hc
    exact ⟨hb, hf, h⟩
  · cases h

theorem runningOp_of_not_begun {s : State} {ch : Nat} (h : (s.chan ch).begun = false) : s.runningOp ch = none := by
  simp [State.runningOp, h]

/-! ### A write of a channel to host memory (R286) -/

section
variable {s : State} {ch a : Nat} {l : List Byte}

/-- The state after a write to host memory that its page answers, before it counts as delivered. -/
def State.wroteHost (s : State) (ch a : Nat) (l : List Byte) : State :=
  { s.issue ch l.length with hostMem := s.hostMem.write a l }

theorem wroteHost_chan : (s.wroteHost ch a l).chan ch = { s.chan ch with issued := (s.chan ch).issued + l.length / 64 } := by
  show (s.issue ch l.length).chan ch = _
  rw [State.issue, State.onChan_chan, if_pos rfl]
  rfl

/-- A write to host memory that may be made and is answered is delivered. -/
theorem put_host_of_ok (hm : s.mayAskHost ch = true) (hok : s.hostOk (s.chan ch).func a l.length = true) :
    s.put ch false a l = ((s.wroteHost ch a l).delivered ch (s.chan ch).life a (.write l) {}, true) := by
  have hw : (s.issue ch l.length).hostWrite (s.chan ch).func a l = some (s.wroteHost ch a l) := if_pos hok
  unfold State.put
  dsimp only
  rw [if_neg (by simp), if_neg (by simp), if_neg (by simp [hm]), hw]

theorem delivered_of_life {g : Got} {acc : Access} (hg : g.status = .ok) {life : Nat} (hl : (s.chan ch).life = life) :
    (s.delivered ch life a acc g).hostMem = s.hostMem ∧ (∀ k, (s.delivered ch life a acc g).cluster k = s.cluster k)
      ∧ ((s.delivered ch life a acc g).chan ch).life = life := by
  unfold State.delivered
  dsimp only
  rw [if_neg (by simp [hl]), if_neg (by simp [hg])]
  refine ⟨rfl, fun _ => rfl, ?_⟩
  rw [State.onChan_chan, if_pos rfl, State.progress, State.onChan_chan, if_pos rfl]
  cases acc with
  | read n => exact hl
  | write l =>
    dsimp only
    split
    · exact hl
    · split <;> exact hl

theorem delivered_wroteHost :
    ((s.wroteHost ch a l).delivered ch (s.chan ch).life a (.write l) {}).hostMem = s.hostMem.write a l
      ∧ ∀ k, ((s.wroteHost ch a l).delivered ch (s.chan ch).life a (.write l) {}).cluster k = s.cluster k := by
  obtain ⟨hm, hc, -⟩ := delivered_of_life (s := s.wroteHost ch a l) (ch := ch) (a := a) (g := {}) (acc := .write l) rfl
    (life := (s.chan ch).life) (by rw [wroteHost_chan])
  exact ⟨hm, hc⟩

/-- The units of a write that a running COPY or FROM_SLUICE has made count (R281). -/
theorem delivered_done {d : Desc} {life : Nat} (hl : (s.chan ch).life = life) (hb : (s.chan ch).begun = true)
    (hf : (s.chan ch).finish = none) (hd : s.desc ch = some d) (hop : d.op = 1 ∨ d.op = 3) :
    ((s.delivered ch life a (.write l) {}).chan ch).done = (s.chan ch).done + l.length / 64 := by
  have counts : (((s.chan ch).fetched.head?.map Desc.op).any fun o => o == 1 || o == 3) = true := by
    rw [show (s.chan ch).fetched.head? = some d from hd]
    simpa using hop
  unfold State.delivered
  dsimp only
  rw [if_neg (by simp [hl]), if_neg (by simp)]
  simp [State.progress, State.onChan_chan, counts, hb, hf]

end

/-! ### Arrival at an inbound sluice -/

section
variable {s : State} {cl ch : Nat} {l : List Byte} {rest : List (List Byte)}

/-- The inbound sluice after the arrival of its next entry. -/
def SluiceIn.arrived (e : SluiceIn) (now : Nat) : SluiceIn :=
  { e with
    inflight := e.inflight - 1, filled := e.filled + 1, coming := e.coming.drop 1
    recent := (e.recent.filter fun t => decide (now < t + 12)) ++ [now] }

theorem exec_sluiceEntryArrival (hc : (s.cluster cl).sin.coming = l :: rest) (hb : (s.cluster cl).sin.bound = some ch)
    (ho : (s.cluster cl).sin.open_ = true) (hbeg : (s.chan ch).begun = false)
    (ht : s.turnedAway (.dma ch) (2 ^ 60 + cl) (some cl) = false) :
    exec (.sluiceEntryArrival cl) s = .next ((s.ringIn cl (s.polder (s.polderOf (halfOf cl))).cycle l).progress ch) := by
  have idle : ((s.ringIn cl (s.polder (s.polderOf (halfOf cl))).cycle l).progress ch).runningOp ch = none := by
    refine runningOp_of_not_begun ?_
    rw [State.progress, State.onChan_chan, if_pos rfl]
    exact hbeg
  refine congrArg Host.Outcome.next ?_
  rw [hc, hb]
  dsimp only
  rw [if_neg (by rw [ht]; exact Bool.false_ne_true), if_neg (by simp [ho]), idle]

theorem ringIn_cluster (now k : Nat) : (s.ringIn cl now l).cluster k =
    if cl = k then { s.cluster cl with sin := (s.cluster cl).sin.arrived now } else s.cluster k := by
  rw [State.ringIn, State.onCluster_cluster]
  rfl

theorem ringIn_vcore (now k : Nat) : (s.ringIn cl now l).vcore k = if cl * 64 + 58 = k
    then { s.vcore k with sram := (s.vcore k).sram.write (0x3800 + 64 * (((s.cluster cl).sin.head + (s.cluster cl).sin.filled) % 32)) l }
    else s.vcore k := by
  rw [State.ringIn, State.onCluster_vcore, State.onVcore_vcore]
  split
  · next h =>
    subst h
    rfl
  · rfl

end

/-! ### Taking from an outbound sluice -/

section
variable {s : State} {cl ch : Nat} {d : Desc}

/-- The state after the oldest posted entry has been taken. -/
def State.tookEntry (s : State) (cl now : Nat) : State :=
  s.onCluster cl fun c => { c with sout := { c.sout with
    posted := c.sout.posted - 1
    spoiled := c.sout.spoiled.filter fun k => k != ((s.cluster cl).sout.tail + 32 - (s.cluster cl).sout.posted) % 32
    recent := (c.sout.recent.filter fun t => decide (now < t + 12)) ++ [now] } }

theorem tookEntry_sout (now : Nat) : ((s.tookEntry cl now).cluster cl).sout.posted = (s.cluster cl).sout.posted - 1
    ∧ ((s.tookEntry cl now).cluster cl).sout.tail = (s.cluster cl).sout.tail := by
  rw [State.tookEntry, State.onCluster_cluster, if_pos rfl]
  exact ⟨rfl, rfl⟩

theorem ringOut_of_clean (now : Nat)
    (hs : (s.cluster cl).sout.spoiled.contains (((s.cluster cl).sout.tail + 32 - (s.cluster cl).sout.posted) % 32) = false) :
    s.ringOut cl now = ((s.vcore (cl * 64 + 59)).sram.read
        (0x3800 + 64 * (((s.cluster cl).sout.tail + 32 - (s.cluster cl).sout.posted) % 32)) 64,
      s.tookEntry cl now) := by
  unfold State.ringOut
  dsimp only
  rw [if_neg (by rw [hs]; exact Bool.false_ne_true)]
  rfl

/-- The next entry of a FROM_SLUICE to host memory is written and counts, and the descriptor goes on. -/
theorem exec_sluiceEntryTaken (hb : (s.cluster cl).sout.bound = some ch) (ho : (s.cluster cl).sout.open_ = true)
    (hp : 0 < (s.cluster cl).sout.posted) (hrun : s.runningOp ch = some d) (hop : d.op = 3) (hdev : d.dstDev = false)
    (hmore : (s.chan ch).done + 1 < d.len) (hun : (s.chan ch).unanswered = false) (hre : (s.chan ch).retry = none)
    (ht : s.turnedAway (.dma ch) (2 ^ 60 + cl) (some cl) = false) {taken : List Byte × State}
    (htk : s.ringOut cl (s.polder (s.polderOf (halfOf cl))).cycle = taken) (hlen : taken.1.length = 64)
    (hchan : taken.2.chan ch = s.chan ch) (hm : taken.2.mayAskHost ch = true)
    (hok : taken.2.hostOk (s.chan ch).func (d.dst + 64 * (s.chan ch).done) 64 = true) :
    exec (.sluiceEntryTaken cl) s = .next ((taken.2.wroteHost ch (d.dst + 64 * (s.chan ch).done) taken.1).delivered ch (s.chan ch).life
      (d.dst + 64 * (s.chan ch).done) (.write taken.1) {}) := by
  obtain ⟨hbeg, hfin, hdesc⟩ := running_of_runningOp hrun
  have chan : ((taken.2.wroteHost ch (d.dst + 64 * (s.chan ch).done) taken.1).chan ch)
      = { s.chan ch with issued := (s.chan ch).issued + taken.1.length / 64 } := by
    rw [wroteHost_chan, hchan]
  have done := delivered_done (s := taken.2.wroteHost ch (d.dst + 64 * (s.chan ch).done) taken.1) (ch := ch)
    (a := d.dst + 64 * (s.chan ch).done) (l := taken.1) (d := d) (life := (s.chan ch).life) (by rw [chan]) (by rw [chan]; exact hbeg)
    (by rw [chan]; exact hfin) (by rw [State.desc, chan]; exact hdesc) (.inr hop)
  have written := put_host_of_ok (l := taken.1) hm (by rw [hchan, hlen]; exact hok)
  rw [hchan] at written
  refine congrArg Host.Outcome.next ?_
  rw [hb]
  dsimp only
  rw [if_neg (by simp [ho, hun, hre]; omega), hrun]
  dsimp only
  rw [if_neg (by rw [ht]; exact Bool.false_ne_true), if_pos (by simp [hop]), if_neg (by omega), htk, hdev, written]
  dsimp only
  rw [if_neg (by simp), if_neg]
  rw [done, chan, hlen]
  simp
  omega

end

end Sys2Proof.Machine

open Sys2Proof Sys2Proof.Machine

/-- Settles O35: the entry that arrives is written where the ring stands, and the entry that is taken is delivered to host
memory. -/
theorem sluiceEntriesPassBetweenTheDomains : Obligations.SluiceEntriesPassBetweenTheDomains := by
  unfold Obligations.SluiceEntriesPassBetweenTheDomains
  intro s cl ch i o
  refine ⟨fun l rest hc hb ho hbeg hlen ht => ⟨_, exec_sluiceEntryArrival hc hb ho hbeg ht, ?_⟩,
    fun d hb ho hp _ hclean hrun hop hdev hmore hpark hrem hre hacc ht hm hok => ?_⟩
  · generalize (s.polder (s.polderOf (halfOf cl))).cycle = now
    have cluster (k : Nat) : ((s.ringIn cl now l).progress ch).cluster k = _ := ringIn_cluster (s := s) (cl := cl) (l := l) now k
    have vcore (k : Nat) : ((s.ringIn cl now l).progress ch).vcore k = _ := ringIn_vcore (s := s) (cl := cl) (l := l) now k
    have chan (k : Nat) : ((s.ringIn cl now l).progress ch).chan k = _ := State.onChan_chan ..
    refine ⟨?_, ?_, ?_, ?_, ?_, fun k hk => ?_, fun k hk => ?_, ?_, fun k hk => ?_, rfl⟩
    · rw [vcore, if_pos rfl, ← hlen]
      exact Memory.read_write _ _ _
    · rw [cluster, if_pos rfl]
      rfl
    · rw [cluster, if_pos rfl]
      rfl
    · rw [cluster, if_pos rfl]
      exact congrArg (List.drop 1) hc
    · rw [cluster, if_pos rfl]
      rfl
    · rw [vcore, if_neg hk.symm]
    · rw [cluster, if_neg hk.symm]
    · rw [chan, if_pos rfl]
      rfl
    · rw [chan, if_neg hk.symm]
      rfl
  · have taken := ringOut_of_clean (s.polder (s.polderOf (halfOf cl))).cycle hclean
    have hun : (s.chan ch).unanswered = false := by simp [DmaCh.unanswered, hpark, hacc, hrem]
    refine ⟨_, exec_sluiceEntryTaken hb ho hp hrun hop hdev hmore hun hre ht taken (Memory.read_length ..) rfl hm hok, ?_⟩
    obtain ⟨hmem, hcl⟩ := delivered_wroteHost (s := s.tookEntry cl (s.polder (s.polderOf (halfOf cl))).cycle) (ch := ch)
      (a := d.dst + 64 * (s.chan ch).done) (l := (s.vcore (cl * 64 + 59)).sram.read (0x3800 + 64 * ((o.tail + 32 - o.posted) % 32)) 64)
    obtain ⟨posted, tail⟩ := tookEntry_sout (s := s) (cl := cl) (s.polder (s.polderOf (halfOf cl))).cycle
    refine ⟨?_, (congrArg (fun c : Cluster => c.sout.posted) (hcl cl)).trans posted,
      (congrArg (fun c : Cluster => c.sout.tail) (hcl cl)).trans tail⟩
    refine (congrArg (fun m => Memory.read m _ 64) hmem).trans ?_
    have h := Memory.read_write s.hostMem (d.dst + 64 * (s.chan ch).done)
      ((s.vcore (cl * 64 + 59)).sram.read (0x3800 + 64 * ((o.tail + 32 - o.posted) % 32)) 64)
    rwa [Memory.read_length] at h
end

section
/-! PROOF. NEAR_BANK_MODE on a channel that is switching (R225). -/

namespace Sys2Proof.Machine

theorem State.OnlySends.edgeCh_eq {s t : State} (h : s.OnlySends t) (k : Nat) : t.edgeCh k = s.edgeCh k := by
  unfold State.OnlySends at h
  rw [h]
  rfl

theorem State.answer_edgeCh (s : State) (c : Cmd) (a : Answer) (k : Nat) : (s.answer c a).edgeCh k = s.edgeCh k :=
  (sendsTo_complete s c.tag c.opc c.notify a).1.edgeCh_eq k

/-- NEAR_BANK_MODE waits that puts channel 0 into processor mode, and the channel's mode is SWITCHING. -/
def switchingChannel : State :=
  { power := { aon := true, management := true }, boot := { done := true }, trust := { running := true }
    funcs := [(0, {
      bme := true, inbox := [⟨7, 0x31, 0, [1, 0, 1]⟩]
      ring := some { addr := 64, size := 4, vector := 0, eventVector := 0, consAddr := 0, next := 0, cons := 0, phase := true } })]
    edgeStacks := [(0, { on := true })], channels := [(0, { mode := .switching })] }

/-- The command of its message. -/
def switchingCommand : Cmd := { func := 0, tag := 7, opc := 0x31, notify := false, args := [1, 0, 1] }

theorem switchingChannel_takes : switchingChannel.Takes 0 (fun o a1 => o == 0x31 && bit a1 0) switchingCommand
    (switchingChannel.onFunc 0 fun x => { x with inbox := [] }) :=
  ⟨⟨7, 0x31, 0, [1, 0, 1]⟩, [], rfl, by decide, by decide, by decide, by decide, rfl, rfl⟩

/-- The command switches channels in memory mode alone, and leaves the channel as it is. -/
theorem exec_nearBankMode_switching : exec (.nearBankModeProcessor 0) switchingChannel
    = .next ((switchingChannel.onFunc 0 fun x => { x with inbox := [] }).answer switchingCommand { r0 := 0 }) :=
  congrArg Host.Outcome.next ((serve_of_takes _ switchingChannel_takes).trans rfl)

end Sys2Proof.Machine

open Sys2Proof Sys2Proof.Machine

/-- Refutes O36: NEAR_BANK_MODE passes its checks for a channel in mode SWITCHING and completes without putting it into
processor mode. -/
theorem not_memoryCommandsOfFirmware : ¬ Obligations.MemoryCommandsOfFirmware := by
  unfold Obligations.MemoryCommandsOfFirmware
  intro h
  obtain ⟨-, -, -, processor, -⟩ := h switchingChannel _ 0 switchingCommand
  obtain ⟨v, hv, named, -⟩ := processor [0] switchingChannel_takes rfl
  have same := Host.Outcome.next.inj (exec_nearBankMode_switching.symm.trans hv)
  have mode : (v.edgeCh 0).mode = .switching := by
    rw [← State.answer_edgeCh v switchingCommand, ← same, State.answer_edgeCh]
    rfl
  rw [named 0 List.mem_cons_self] at mode
  cases mode
end

section
/-! PROOF. Attestation, staging, commit, repair and diagnosis commands (R324, R420, R425, R453, R454, R462, R463). -/

namespace Sys2Proof.Machine

section
variable {s u : State} {f : Nat} {c : Cmd} {mine : Nat → Nat → Bool}

theorem State.Takes.func_eq (h : s.Takes f mine c u) : c.func = f := by
  obtain ⟨m, rest, -, -, -, -, -, -, hok⟩ := h
  unfold State.checked at hok
  split at hok
  · cases hok
  · split at hok
    · cases hok
    · dsimp only at hok
      split at hok
      · cases hok
      · cases hok
        rfl

/-- A message that firmware takes meets no busy one, where those that are taken are not busy. -/
theorem meets_of_takes {busy : Msg → Bool} {mine' : Nat → Nat → Bool} {other : State} (h : s.Takes f mine c u)
    (hb : ∀ m : Msg, mine m.opc m.a1 = true → busy m = false) : s.meets f busy mine' other = other := by
  obtain ⟨m, rest, hin, -, hmine, -⟩ := h
  unfold State.meets
  rw [hin]
  cases rest with
  | nil => rfl
  | cons x r => exact if_pos (by simp [hb m hmine])

@[simp] theorem State.answer_trust (s : State) (c : Cmd) (a : Answer) : (s.answer c a).trust = s.trust :=
  (congrArg State.trust (s.answer_sansSends c a) :)

@[simp] theorem State.answer_boot (s : State) (c : Cmd) (a : Answer) : (s.answer c a).boot = s.boot :=
  (congrArg State.boot (s.answer_sansSends c a) :)

/-! ### Outputs (R324) -/

/-- An output buffer in host memory that holds the bytes and answers. -/
def State.HostBuffer (s : State) (f : Nat) (c : Cmd) (l : List Byte) : Prop :=
  c.out ≠ 0 ∧ c.out % 2 = 0 ∧ l ≠ [] ∧ l.length ≤ 64 * c.outLen ∧ s.hostOk f c.out l.length = true

theorem output_of_hostBuffer {l : List Byte} (h : s.HostBuffer c.func c l) :
    s.output c l {} = { s with hostMem := s.hostMem.write c.out l }.answer c { outBytes := l.length } := by
  obtain ⟨hne, heven, hl, hfit, hok⟩ := h
  have written : s.writeOut c.func c.out l = ({ s with hostMem := s.hostMem.write c.out l }, .ok) := by
    unfold State.writeOut
    rw [if_neg (by simp [hne, hl]), if_neg (by simp [heven]), State.hostWrite, if_pos hok]
  unfold State.output
  rw [if_neg (by simp [Cmd.fits, hfit]), written]
  simp [hne]

/-! ### Attestation -/

theorem exec_attest (h : s.TakesOp f 0x60 c u) (hlen : 146 ≤ c.outLen)
    (hb : u.HostBuffer f c (u.report_ f (c.args.flatMap fun a => leBytes 4 a))) :
    exec (.attest f) s = .next ({ u.entropy32.2 with
      hostMem := u.hostMem.write c.out (u.report_ f (c.args.flatMap fun a => leBytes 4 a)) }.answer c
        { outBytes := (u.report_ f (c.args.flatMap fun a => leBytes 4 a)).length }) := by
  have buffer : u.entropy32.2.HostBuffer c.func c (u.report_ f (c.args.flatMap fun a => leBytes 4 a)) := by
    rw [h.func_eq]
    exact hb
  refine congrArg Host.Outcome.next ((command_of_takesOp _ h).trans ?_)
  exact (if_neg (Nat.not_lt.2 hlen)).trans (output_of_hostBuffer buffer)

theorem exec_identityCertRead (h : s.TakesOp f 0x61 c u) : exec (.identityCertRead f) s = .next (u.output c u.certChain {}) :=
  congrArg Host.Outcome.next (command_of_takesOp _ h)

/-! ### Firmware images -/

theorem exec_firmwareStage (h : s.TakesOp f 0x62 c u) (hfail : u.fwFail c.body = none) (hrun : u.trust.running = true) :
    exec (.firmwareStage f) s = .next
      { u.answer c { r0 := fieldAt (c.body.take (imageHead + fwPayloadLen c.body)) 0x18 8
                     r1 := fwSvn (c.body.take (imageHead + fwPayloadLen c.body)) } with
        trust := { u.trust with staged := some (c.body.take (imageHead + fwPayloadLen c.body)) } } := by
  refine congrArg Host.Outcome.next ((meets_of_takes h fun m hm => ?_).trans ((command_of_takesOp _ h).trans ?_))
  · simp [beq_iff_eq.1 hm]
  · dsimp only
    rw [hfail]
    dsimp only
    rw [if_pos (by rw [State.answer_trust]; exact hrun), State.answer_trust]

theorem exec_firmwareCommit {img : List Byte} (h : s.TakesOp f 0x63 c u) (hst : u.trust.staged = some img) :
    exec (.firmwareCommit f true) s = .next ({ u with trust := { u.trust with flashImage := img, recovery := false } }.answer c {})
      ∧ exec (.firmwareCommit f false) s = .next ({ u with trust := { u.trust with flashImage := [] } }.refuse c .hwError) := by
  refine ⟨congrArg Host.Outcome.next ((command_of_takesOp _ h).trans ?_), congrArg Host.Outcome.next ((command_of_takesOp _ h).trans ?_)⟩
    <;> dsimp only <;> rw [hst] <;> rfl

/-! ### Repair -/

theorem chunks_repair (e : RepairEntry) :
    chunks 16 (repairBytes e ++ zeros 48) = [repairBytes e, zeros 16, zeros 16, zeros 16] := rfl

theorem repairOf_zeros : (repairOf (zeros 16)).kind = 0 := by decide

theorem culvertClash_self (e : RepairEntry) : culvertClash e e = false := by simp [culvertClash]

section
variable {e : RepairEntry} (hbody : c.body = repairBytes e ++ zeros 48) (he : repairOf (repairBytes e) = e) (hlo : 1 ≤ e.kind)
include hbody he hlo

/-- The block names one entry. -/
theorem repairEntries_of_one : (((chunks 16 c.body).map repairOf).takeWhile fun e => e.kind != 0) = [e] := by
  rw [hbody, chunks_repair, List.map_cons, he]
  have some_ : (e.kind != 0) = true := bne_iff_ne.2 (by omega)
  have none_ : ((repairOf (zeros 16)).kind != 0) = false := by rw [repairOf_zeros]; rfl
  simp [List.takeWhile, some_, none_]

variable (h : s.TakesOp f 0x71 c u) (hhi : e.kind ≤ 4) (hsrc : e.source = 2) (hin : repairInRange e = true) (hforce : u.repair.inForce = [])
  (hst : u.repair.staged = [])
include h hhi hsrc hin hforce hst

theorem exec_repairStage : exec (.repairStage f) s = .next (if u.fieldMap.any (culvertClash e) then u.refuse c .bound
    else { u with repair := { u.repair with staged := [e] } }.answer c { r0 := 1 }) := by
  have entries := repairEntries_of_one hbody he hlo
  have fresh : ([e].filter fun e => !(([] ++ [] : List RepairEntry).any (sameRepair e))) = [e] := by simp
  have checks : firstFail [
      ([e].isEmpty, Status.badLength), ([e].any fun e => decide (4 < e.kind) || e.source != 2, .formatUnsupported),
      (([e].any fun e => !repairInRange e) || decide (128 < (addRepairs [] [e]).length)
        || ([e].any fun x => ([] ++ u.fieldMap ++ addRepairs [] [e]).any (culvertClash x)), .bound)]
        = if u.fieldMap.any (culvertClash e) then some .bound else none := by
    have one : addRepairs [] [e] = [e] := rfl
    simp [firstFail, one, Nat.not_lt.2 hhi, hsrc, hin, culvertClash_self]
  refine congrArg Host.Outcome.next ((command_of_takesOp _ h).trans ?_)
  dsimp only
  rw [entries, hforce, hst, fresh, checks]
  cases u.fieldMap.any (culvertClash e) <;> rfl

end

theorem exec_repairCommit (h : s.TakesOp f 0x72 c u) (hne : u.repair.staged ≠ []) (hmax : (addRepairs u.fieldMap u.repair.staged).length ≤ 1024) :
    exec (.repairCommit f) s = .next ({ u.writeField u.repair.staged with
      repair := { (u.writeField u.repair.staged).repair with staged := [] } }.answer c { r0 := u.repair.staged.length }) := by
  refine congrArg Host.Outcome.next ((command_of_takesOp _ h).trans ?_)
  dsimp only
  rw [if_neg (by simp [hne]), if_neg (Nat.not_lt.2 hmax)]

/-! ### Diagnosis -/

theorem exec_diagWarmReset (h : s.Takes f (fun o a1 => o == 0x7F && bits a1 0 8 == 1) c u) :
    exec (.diagWarmReset f) s = .next { u.answer c {} with boot := { u.boot with resetDue := true } } := by
  refine congrArg Host.Outcome.next ((meets_of_takes h fun m hm => ?_).trans ((serve_of_takes _ h).trans ?_))
  · simp [beq_iff_eq.1 (Bool.and_eq_true_iff.1 hm).1]
  · dsimp only
    rw [State.answer_boot]

/-- The state after a test of a half-die, its cores' contents gone, and its slices' where that is asked. -/
def State.tested (s : State) (c : Cmd) : State :=
  if bit (c.a 3) 0 = true then (s.junkCores [c.a 2] false).ucmClearAll (fun core => halfOf (clusterOf core) == c.a 2) 0 24576
  else s.junkCores [c.a 2] false

theorem exec_halfDieTest {l : List RepairEntry} (h : s.Takes f (fun o a1 => o == 0x7F && bits a1 0 8 == 2) c u) (hh : c.a 2 ≤ 23)
    (hfree : u.polderOf (c.a 2) = 31) (hcool : u.thermal.coolantHold = false) (hshut : u.dieShut (c.a 2) = false) (hpkg : u.power.pkg ≠ .p2)
    (hfit : c.fits (l.flatMap fun e => repairBytes { e with source := 2 }).length = true) :
    exec (.halfDieTest f l) s = .next (
      if (u.writeOut f c.out (l.flatMap fun e => repairBytes { e with source := 2 })).2 = .ok then
        ((u.writeOut f c.out (l.flatMap fun e => repairBytes { e with source := 2 })).1.tested c).answer c
          { outBytes := if c.out = 0 then 0 else (l.flatMap fun e => repairBytes { e with source := 2 }).length }
      else u.refuse c (u.writeOut f c.out (l.flatMap fun e => repairBytes { e with source := 2 })).2) := by
  have checks : firstFail [
      (decide (23 < c.a 2), Status.bound), (u.polderOf (c.a 2) != 31 || u.thermal.coolantHold || u.dieShut (c.a 2), .busy),
      (u.power.pkg == .p2, .domainOff), (!c.fits (l.flatMap fun e => repairBytes { e with source := 2 }).length, .bound)] = none := by
    rw [hfit]
    simp [firstFail, Nat.not_lt.2 hh, hfree, hcool, hshut, hpkg]
  refine congrArg Host.Outcome.next ((serve_of_takes _ h).trans ?_)
  simp only [checks, h.func_eq, bne_iff_ne, ne_eq, ite_not, beq_iff_eq]
  rfl

theorem exec_edgeRetrain (h : s.Takes f (fun o a1 => o == 0x7F && bits a1 0 8 == 3) c u) (he : c.a 2 ≤ 1023)
    (hst : (u.edgeCh (c.a 2)).state ≠ .removed) (hoff : u.stackOff (c.a 2 / 32) = false) :
    exec (.edgeRetrain f) s = .next ((u.onEdgeCh (c.a 2) fun x => { x with retrainDue := true }).answer c {}) := by
  have checks : firstFail [
      (decide (1023 < c.a 2) || (u.edgeCh (c.a 2)).state == .removed, Status.bound), (u.stackOff (c.a 2 / 32), .domainOff)] = none := by
    simp [firstFail, Nat.not_lt.2 he, hst, hoff]
  refine congrArg Host.Outcome.next ((serve_of_takes _ h).trans ?_)
  simp only [checks]

end

end Sys2Proof.Machine

open Sys2Proof Sys2Proof.Machine

/-- Settles O39: each command passes its checks, and what it does is its row's own. -/
theorem firmwareAndRepairCommands : Obligations.FirmwareAndRepairCommands := by
  unfold Obligations.FirmwareAndRepairCommands
  intro s u f c holds written
  refine ⟨fun h hlen hb => ?_, fun h => ⟨fun ho => ?_, fun hb => ?_⟩, fun h hfail hrun => ?_, fun img h hst => ?_,
    fun h e hbody hlo hhi hsrc hin he hforce hst => ?_, fun h hne hmax => ?_, fun h => ?_,
    fun l h hh hfree hcool hshut hpkg hfit => ?_, fun h he hst hoff => ?_⟩
  all_goals obtain ⟨m, rest, -, -, -, -, -, rfl, -⟩ := id h
  · exact exec_attest h hlen hb
  · exact (exec_identityCertRead h).trans (congrArg _ (output_of_none _ {} ho))
  · exact (exec_identityCertRead h).trans (congrArg _ (output_of_hostBuffer (by rw [h.func_eq]; exact hb)))
  · exact ⟨_, rfl, exec_firmwareStage (u := s.onFunc f fun x => { x with inbox := rest }) h hfail hrun⟩
  · exact exec_firmwareCommit h hst
  · have run := exec_repairStage hbody he hlo h hhi hsrc hin hforce hst
    exact ⟨fun hc => ⟨_, run.trans (congrArg _ (if_neg (Bool.eq_false_iff.1 hc))), rfl, rfl⟩,
      fun hc => run.trans (congrArg _ (if_pos hc))⟩
  · exact ⟨_, exec_repairCommit (u := s.onFunc f fun x => { x with inbox := rest }) h hne hmax, rfl, rfl⟩
  · exact exec_diagWarmReset h
  · intro bytes w lost lost'
    have run := exec_halfDieTest h hh hfree hcool hshut hpkg hfit
    exact ⟨fun hw => run.trans (congrArg _ (if_pos hw)), fun hw => run.trans (congrArg _ (if_neg hw))⟩
  · exact exec_edgeRetrain h he hst hoff
end

section
/-! SUPPORT. What a floodgate leaves of the channels and the polders, and what it tells its issuers (R314-R320). -/

namespace Sys2Proof.Machine

section
variable (s : State)

/-! ### Channels end -/

theorem State.disableChan_state (ch k : Nat) :
    ((s.disableChan ch).chan k).state = if ch = k then .disabled else (s.chan k).state := by
  unfold State.disableChan
  have unbound : (s.unbindAll ch).dma = s.dma := State.each_keeps (F := State.dma) (g := fun u cl => u.onCluster cl fun c => c.unbind ch)
    (fun _ _ => rfl) _ s
  have same : ((s.unbindAll ch).disown ch).chan = s.chan := by
    unfold State.chan
    exact funext fun k => congrArg (fun d => Sparse.get {} d k) unbound
  split
  · next off =>
    split
    · next e => rw [← e]; simpa using off
    · rfl
  · have own := ((s.unbindAll ch).disown ch).onChan_chan k ch fun c => { c.idle with
      state := .disabled
      head := Config.freeNat ((s.unbindAll ch).disown ch).fresh % 65536 }
    refine (congrArg DmaCh.state own :).trans ?_
    rw [same]
    split <;> rfl

/-- Halting a polder disables the channels that are bound to it (R315 step 2). -/
theorem State.halt_state {p ch : Nat} (hch : ch < 256) (hp : (s.chan ch).polder = p) : ((s.halt p).1.chan ch).state = .disabled := by
  have last : ∀ (u : State) (hs : List Nat), ((u.idleHalfDies p).junkCores hs true).dma = u.dma := by
    intro u hs
    rw [State.junkCores_eq, State.each_keeps (F := State.dma) (g := fun v h => v.onHalfDie h (HalfDie.junked v.fresh true)) (fun _ _ => rfl)]
    exact State.each_keeps (F := State.dma) (g := fun v h => v.onHalfDie h HalfDie.rested) (fun _ _ => rfl) _ u
  have first : ((s.each (s.listed p) fun u cl => u.onCluster cl Cluster.discard).nbDiscard fun c => c.polder == p).dma = s.dma := by
    rw [State.nbDiscard_keeps (F := State.dma) _ (fun _ _ _ => rfl) (fun _ _ _ => rfl) (fun _ _ _ => rfl)]
    exact State.each_keeps (F := State.dma) (g := fun u cl => u.onCluster cl Cluster.discard) (fun _ _ => rfl) _ s
  have keep : ∀ u : State, ∀ y ∈ s.liveChans (fun c => c.polder == p), (u.chan ch).state = .disabled →
      ((u.disableChan y).chan ch).state = .disabled := by
    intro u y _ h
    rw [State.disableChan_state, h, ite_self]
  rw [s.halt_eq]
  refine (congrArg (fun d => (Sparse.get {} d ch).state) (last _ _)).trans ?_
  by_cases live : (s.chan ch).state = .disabled
  · refine State.each_preserves (P := fun u => (u.chan ch).state = .disabled) _ _ keep ?_
    exact (congrArg (fun d => (Sparse.get {} d ch).state) first).trans live
  · refine State.each_establishes (P := fun u => (u.chan ch).state = .disabled) (x := ch) (fun u => ?_) _ _ keep ?_
    · rw [State.disableChan_state, if_pos rfl]
    · exact List.mem_filter.2 ⟨List.mem_range.2 hch, by simp [live, hp]⟩

/-! ### The floodgate of one polder -/

/-- The module without what the floodgate of a polder touches, up to step 5. -/
def State.sansGate (s : State) : State := s.sansJob.sansHalt

theorem State.sansGate_of_sansJob {s t : State} (h : t.sansJob = s.sansJob) : t.sansGate = s.sansGate :=
  (congrArg State.sansHalt h :)

theorem State.sansGate_of_sansHalt {s t : State} (h : t.sansHalt = s.sansHalt) : t.sansGate = s.sansGate :=
  (congrArg (fun u : State => u.sansJob.sansHalt) h :)

theorem State.disabled_sansHalt (sel : NbCmd → Bool) (l : List Nat) :
    ((s.nbDiscard sel).each l State.disableChan).sansHalt = s.sansHalt := by
  rw [State.each_keeps (F := State.sansHalt) (fun u ch => u.disableChan_sansHalt ch), State.nbDiscard_sansHalt]

theorem State.disabled_polders (sel : NbCmd → Bool) (l : List Nat) :
    ((s.nbDiscard sel).each l State.disableChan).polders = s.polders := by
  rw [State.each_keeps (F := State.polders) (fun u ch => u.disableChan_polders ch), State.nbDiscard_polders]

/-- The cases of a floodgate: no polder, one that is halted already, one that is live. -/
theorem State.gatePolder_cases (p : Nat) :
    ((s.polder p).state = .none ∧ (s.gatePolder p).1 = s)
    ∨ ((s.polder p).state = .halted ∧ ∃ l, (s.gatePolder p).1 = (s.nbDiscard fun c => c.polder == p).each l State.disableChan)
    ∨ ∃ st, (s.gatePolder p).1 = (((s.endCommand p .aborted).finishJob p st 0).halt p).1 := by
  by_cases hn : (s.polder p).state = .none
  · exact .inl ⟨hn, by simp [State.gatePolder, hn]⟩
  · by_cases hh : (s.polder p).state = .halted
    · exact .inr (.inl ⟨hh, s.liveChans fun c => c.polder == p, by simp [State.gatePolder, hh]⟩)
    · exact .inr (.inr (s.gatePolder_of_live hn hh))

theorem State.gatePolder_sansGate (p : Nat) : (s.gatePolder p).1.sansGate = s.sansGate := by
  obtain ⟨-, h⟩ | ⟨-, l, h⟩ | ⟨st, h⟩ := s.gatePolder_cases p
  · rw [h]
  · rw [h]
    exact State.sansGate_of_sansHalt (s.disabled_sansHalt _ _)
  · rw [h]
    have command : (s.endCommand p .aborted).sansJob = s.sansJob := State.sansJob_of_sansEarlyJob (s.endCommand_sansEarlyJob p .aborted)
    exact (State.sansGate_of_sansHalt (State.halt_sansHalt _ p)).trans
      (State.sansGate_of_sansJob ((State.finishJob_sansJob _ p st 0).trans command))

theorem State.gatePolder_polder_of_ne {p k : Nat} (hk : k ≠ p) : (s.gatePolder p).1.polder k = s.polder k := by
  obtain ⟨-, h⟩ | ⟨-, l, h⟩ | ⟨st, h⟩ := s.gatePolder_cases p
  · rw [h]
  · rw [h]
    exact congrFun (State.polder_of_polders (s.disabled_polders _ _)) k
  · rw [h, State.halt_polder, if_neg (Ne.symm hk), State.finishJob_polder_of_ne _ hk, State.endCommand_polder_of_ne s hk]

/-- A floodgate ends the job of a polder that is not halted already. -/
theorem State.gatePolder_job {p : Nat} (hn : (s.polder p).state ≠ .none) (hh : (s.polder p).state ≠ .halted) :
    ((s.gatePolder p).1.polder p).job = none := by
  obtain ⟨st, h⟩ := s.gatePolder_of_live hn hh
  rw [h, State.halt_polder, if_pos rfl]
  exact (State.finishJob_polder _ p st 0).2

/-- What the floodgate of a running polder establishes (R315). -/
theorem State.gatePolder_of_running {p : Nat} (hr : (s.polder p).state = .running) :
    ((s.gatePolder p).1.polder p).state = .halted ∧ ((s.gatePolder p).1.polder p).command = none
      ∧ ∀ ch < 256, (s.chan ch).polder = p → ((s.gatePolder p).1.chan ch).state = .disabled := by
  obtain ⟨st, h⟩ := s.gatePolder_of_live (p := p) (by rw [hr]; simp) (by rw [hr]; simp)
  have table : chanTable ((s.endCommand p .aborted).finishJob p st 0).dma = chanTable s.dma :=
    (congrArg State.dma ((State.finishJob_sansJob _ p st 0).trans (State.sansJob_of_sansEarlyJob (s.endCommand_sansEarlyJob p .aborted))) :)
  rw [h, State.halt_polder, if_pos rfl]
  refine ⟨rfl, State.finishJob_command _ p ?_ st 0, fun ch hch hp => ?_⟩
  · rw [State.endCommand_polder]
  · have same := chanTable_eq_iff.1 table ch hch
    exact State.halt_state _ hch ((congrArg DmaCh.polder same :).trans hp)

/-! ### Issuers -/

theorem State.fgMark_polder (f p k : Nat) : (s.fgMark f p).polder k = s.polder k := by
  unfold State.fgMark
  exact State.ite_keeps (F := fun u => u.polder k) rfl rfl

/-- The module without the issuers' states. -/
def State.sansIssuers (s : State) : State := { s with funcs := [], fgNo := 0, draining := [] }

theorem State.fgMark_sansIssuers (f p : Nat) : (s.fgMark f p).sansIssuers = s.sansIssuers := by
  unfold State.fgMark
  exact State.ite_keeps (F := State.sansIssuers) rfl rfl

theorem State.fgMark_fg {f : Nat} (hf : f ≤ 24) (p : Nat) : ((s.fgMark f p).func f).fg = fgBusy p (s.fgNo + 1) := by
  unfold State.fgMark
  rw [if_neg (Nat.not_lt.2 hf)]
  have own := State.onFunc_func { s with fgNo := s.fgNo + 1 } f f fun x => { x with fg := fgBusy p (s.fgNo + 1) }
  exact (congrArg Func.fg (own.trans (if_pos rfl)) :)

theorem sendsTo_postRecord (f : Nat) (l : List Byte) : SendsTo f s (s.postRecord f l) := by
  unfold State.postRecord
  dsimp only
  split
  · exact .refl s
  · split
    · exact sendsTo_onFunc s _
    · refine SendsTo.trans ?_ (sendsTo_signal _ _)
      cases h : s.hostWrite f (s.func f).fgRecAddr l with
      | none => exact .refl s
      | some t => exact sendsTo_hostWrite h

theorem State.postRecord_fg (f : Nat) (l : List Byte) (k : Nat) : ((s.postRecord f l).func k).fg = (s.func k).fg := by
  by_cases hk : k = f
  · subst hk
    unfold State.postRecord
    dsimp only
    split
    · rfl
    · split
      · rw [State.onFunc_func, if_pos rfl]
      · obtain ⟨m, h⟩ := ((s.hostWrite k (s.func k).fgRecAddr l).getD s).signal_func k (s.func k).fgVector
        rw [h]
        unfold State.hostWrite
        split <;> rfl
  · rw [(sendsTo_postRecord s f l).2 k hk]

theorem sendsTo_fgFinish (kind target : Nat) (st : Status) (ended : Bool) (chans : Nat) (w : Gate) :
    SendsTo w.func s (s.fgFinish kind target st ended chans w) := by
  unfold State.fgFinish
  dsimp only
  split
  · exact .refl s
  · exact (sendsTo_onFunc s _).trans (sendsTo_postRecord _ _ _)

@[simp] theorem State.fgFinish_sansSends (kind target : Nat) (st : Status) (ended : Bool) (chans : Nat) (w : Gate) :
    (s.fgFinish kind target st ended chans w).sansSends = s.sansSends :=
  (sendsTo_fgFinish s kind target st ended chans w).1.sansSends_eq

/-- What an issuer whose last floodgate completes reads (R314, log 49). -/
theorem State.fgFinish_fg {kind target : Nat} {st : Status} {ended : Bool} {chans : Nat} {w : Gate} (hw : w.func ≤ 24)
    (hkey : (s.func w.func).fg.key ≤ w.no) :
    ((s.fgFinish kind target st ended chans w).func w.func).fg = { (s.func w.func).fg with
      busy := s.gating w.func, jobEnded := ended, polder := target, status := st
      elapsedUs := ceilDiv (s.time.dev - w.time) 100 % 2 ^ 32 } := by
  unfold State.fgFinish
  dsimp only
  rw [if_neg (Nat.not_lt.2 hw), State.postRecord_fg]
  rw [State.onFunc_func, if_pos rfl]
  exact if_neg (Nat.not_lt.2 hkey)

end

end Sys2Proof.Machine
end

section
/-! SUPPORT. The floodgate sequence, the resets of the processors, and fences, one stage after the other
(R314-R321, R422, R423, R461, R472). -/

namespace Sys2Proof.Machine

section
variable (s : State)

/-! ### A floodgate of one polder -/

theorem State.startGate_sansGate_time (f n : Nat) : ((s.startGate f n).time, (s.startGate f n).cdcDown, (s.startGate f n).cdcExpired)
    = (s.time, s.cdcDown, s.cdcExpired) := by
  let F : State → Time × Sparse Bool × Sparse (Option Nat) := fun u => (u.time, u.cdcDown, u.cdcExpired)
  have marked : ∀ u p, F (State.fgMark u f p) = F u := fun u p => (congrArg F (u.fgMark_sansIssuers f p) :)
  have gated : F (s.gatePolder n).1 = F s := (congrArg F (s.gatePolder_sansGate n) :)
  unfold State.startGate
  refine State.ite_keeps (F := F) (marked s 31) (State.ite_keeps (F := F) (marked s n) ?_)
  exact (marked _ n).trans gated

/-- What the first floodgate of a running polder establishes (R314, R315). -/
theorem State.startGate_of_running {f n : Nat} (hg : s.gates = []) (hp : (s.polder n).gates = [])
    (hr : (s.polder n).state = .running) :
    ((s.startGate f n).polder n).state = .halted ∧ ((s.startGate f n).polder n).job = none
      ∧ ((s.startGate f n).polder n).command = none ∧ ((s.startGate f n).polder n).gates = [⟨f, false, s.time.dev, s.fgNo + 1⟩]
      ∧ (f ≤ 24 → ((s.startGate f n).func f).fg = fgBusy n (s.fgNo + 1))
      ∧ (∀ ch < 256, (s.chan ch).polder = n → ((s.startGate f n).chan ch).state = .disabled)
      ∧ ∀ k, k ≠ n → (s.startGate f n).polder k = s.polder k := by
  obtain ⟨halted, command, disabled⟩ := s.gatePolder_of_running hr
  have job := s.gatePolder_job (p := n) (by rw [hr]; simp) (by rw [hr]; simp)
  have no : (s.gatePolder n).1.fgNo = s.fgNo := (congrArg State.fgNo (s.gatePolder_sansGate n) :)
  have started : s.startGate f n = ((s.gatePolder n).1.fgMark f n).onPolder n fun p => { p with
      gates := [s.gateOf f false], gateChannels := (s.gatePolder n).2.1, gateEndedJob := (s.gatePolder n).2.2 } := by
    simp [State.startGate, hg, hp]
  rw [started]
  simp only [State.onPolder_polder, State.fgMark_polder, if_true]
  refine ⟨halted, job, command, rfl, fun hf => ?_, fun ch hch hc => ?_, fun k hk => ?_⟩
  · rw [← no]
    exact State.fgMark_fg _ hf n
  · have same : ((s.gatePolder n).1.fgMark f n).dma = (s.gatePolder n).1.dma := (congrArg State.dma (State.fgMark_sansIssuers _ f n) :)
    exact (congrArg (fun d => (Sparse.get {} d ch).state) same :).trans (disabled ch hch hc)
  · rw [if_neg (Ne.symm hk), s.gatePolder_polder_of_ne hk]

/-! ### A floodgate completes -/

theorem State.fgFinishAll_sansSends (kind target : Nat) (ended : Bool) (chans : Nat) (l : List Gate) :
    (s.each l fun u w => u.fgFinish kind target .ok ended chans w).sansSends = s.sansSends :=
  State.each_keeps (fun u w => u.fgFinish_sansSends kind target .ok ended chans w) l s

/-- The floodgate of one polder completes (R315 step 6). -/
theorem State.finishGate_polder {n : Nat} (hn : n < 24) {g : Gate} {rest : List Gate} (hg : (s.polder n).gates = g :: rest) :
    s.finishGate n = ((s.onPolder n fun p => { p with gates := [] }).each (g :: rest) fun u w =>
      u.fgFinish 1 n .ok (s.polder n).gateEndedJob (s.polder n).gateChannels w).drains n (g :: rest) := by
  have single : n ≠ 31 := by omega
  simp [State.finishGate, single, hg]

/-- A package floodgate completes (R315 step 6, R321, R465). -/
theorem State.finishGate_package (hg : s.gates ≠ []) :
    (s.finishGate 31).gates = [] ∧ (s.finishGate 31).trust = s.trust.passed := by
  have none_ : s.gates.isEmpty = false := by simpa using hg
  have kept := State.each_keeps (F := State.sansSends) (g := fun (u : State) w => u.fgFinish 2 31 .ok u.gateEndedJob u.gateChannels w)
    (fun u w => u.fgFinish_sansSends ..) s.gates { s with gates := [], trust := s.trust.passed }
  have finished : s.finishGate 31 = (State.each { s with gates := [], trust := s.trust.passed } s.gates fun u w =>
      u.fgFinish 2 31 .ok u.gateEndedJob u.gateChannels w).drains 31 s.gates := by
    simp [State.finishGate, none_]
  rw [finished]
  exact ⟨(congrArg State.gates kept :), (congrArg State.trust kept :)⟩

/-! ### The management processor -/

/-- What the loss of the commands in progress keeps (R332). -/
theorem State.discardCommands_keeps {β : Type} {F : State → β} (hd : ∀ (u : State) h g, F (u.onHalfDie h g) = F u)
    (hp : ∀ (u : State) n x, F (u.setPolder n x) = F u) (mine : Nat → Bool) : F (s.discardCommands mine) = F s := by
  unfold State.discardCommands
  refine State.each_keeps (F := F) (fun u n => ?_) _ s
  dsimp only
  refine State.ite_keeps ?_ (hp u n _)
  exact (hp _ n {}).trans (State.each_keeps (F := F) (fun v h => hd v h _) _ u)

/-- What a PMP reset keeps of the module. -/
def State.pastReset (s : State) : List Gate × Bool × Nat × Memory × Memory :=
  (s.gates, s.trust.unlocked, s.trust.scope, s.ucm, s.edge)

theorem State.interrupted_pastReset : s.interrupted.pastReset = s.pastReset := by
  unfold State.interrupted
  exact State.ite_keeps (F := State.pastReset) rfl rfl

/-- The module with the functions' interfaces with firmware emptied (R321). -/
def State.mailForgotten (s : State) (m : Sparse Func) : State := { s with funcs := Sparse.mapWhere {} (fun _ => true) Func.forget m }

/-- The module as a PMP reset has emptied mailboxes and rings. -/
@[irreducible] def State.commandsLost (s : State) : State :=
  (s.interrupted.discardCommands fun _ => true).mailForgotten s.interrupted.funcs

/-- The module as a PMP reset has told the die controllers to hold their half-dies at the lowest step (R321). -/
@[irreducible] def State.ordersDown (s : State) : State :=
  s.commandsLost.each (List.range 24) fun u n => u.onPolder n fun p => if p.exists_ then { p with rails := [], nextStep := some 0 } else p

/-- Firmware stops until the ROM starts it (R321). -/
def State.firmwareStopped (s : State) : State :=
  { s with
    trust := { s.trust with running := false, gated := false, staged := none, romDue := true, resetDue := false, ifLevel := 0 }
    repair := { s.repair with staged := [] } }

theorem State.pmpResetNow_eq : s.pmpResetNow = s.ordersDown.firmwareStopped := by
  unfold State.ordersDown State.commandsLost
  exact rfl

theorem State.ordersDown_keeps {β : Type} {F : State → β} (hp : ∀ (u : State) n g, F (u.onPolder n g) = F u) :
    F s.ordersDown = F s.commandsLost := by
  unfold State.ordersDown
  exact State.each_keeps (F := F) (fun u n => hp u n _) (List.range 24) s.commandsLost

theorem State.pmpResetNow_pastReset : s.pmpResetNow.pastReset = s.pastReset := by
  have orders := s.ordersDown_keeps (F := State.pastReset) (fun _ _ _ => rfl)
  have mails : ∀ (u : State) m, (u.mailForgotten m).pastReset = u.pastReset := fun _ _ => rfl
  have stopped : ∀ u : State, u.firmwareStopped.pastReset = u.pastReset := fun _ => rfl
  have commands := s.interrupted.discardCommands_keeps (F := State.pastReset) (fun _ _ _ => rfl) (fun _ _ _ => rfl) fun _ => true
  rw [s.pmpResetNow_eq, stopped, orders]
  unfold State.commandsLost
  exact (mails _ _).trans (commands.trans s.interrupted_pastReset)

theorem Func.forget_empties (x : Func) : x.forget.ring = none ∧ x.forget.inbox = [] ∧ x.forget.h2d = [] := ⟨rfl, rfl, rfl⟩

/-- A PMP reset empties the mailboxes and the rings (R321). -/
theorem State.pmpResetNow_func (g : Nat) :
    (s.pmpResetNow.func g).ring = none ∧ (s.pmpResetNow.func g).inbox = [] ∧ (s.pmpResetNow.func g).h2d = [] := by
  have mails : ∀ (u : State) m, (u.mailForgotten m).func g = (Sparse.get {} m g).forget := fun u m =>
    (Sparse.get_mapWhere ({} : Func) (fun _ => true) Func.forget rfl m g).trans (if_pos rfl)
  have stopped : ∀ u : State, u.firmwareStopped.func g = u.func g := fun _ => rfl
  have orders := s.ordersDown_keeps (F := fun u => u.func g) (fun _ _ _ => rfl)
  rw [s.pmpResetNow_eq, stopped, orders]
  unfold State.commandsLost
  rw [mails]
  exact Func.forget_empties _

/-- What a PMP reset does to firmware (R321). -/
theorem State.pmpResetNow_trust : s.pmpResetNow.trust.running = false ∧ s.pmpResetNow.trust.gated = false
    ∧ s.pmpResetNow.trust.romDue = true ∧ s.pmpResetNow.trust.resetDue = false := by
  have stopped : ∀ u : State, u.firmwareStopped.trust.running = false ∧ u.firmwareStopped.trust.gated = false
      ∧ u.firmwareStopped.trust.romDue = true ∧ u.firmwareStopped.trust.resetDue = false := fun _ => ⟨rfl, rfl, rfl, rfl⟩
  rw [s.pmpResetNow_eq]
  exact stopped _

/-! ### A package floodgate -/

/-- One polder of a package floodgate, with the counts of the channels and the jobs. -/
def State.packageStep (a : State × Nat × Bool) (n : Nat) : State × Nat × Bool :=
  let g := a.1.gatePolder n
  (g.1.onPolder n fun p => { p with gates := [] }, a.2.1 + g.2.1, a.2.2 || g.2.2)

theorem State.packageStep_sansGate (a : State × Nat × Bool) (n : Nat) : (State.packageStep a n).1.sansGate = a.1.sansGate :=
  (rfl : _ = (a.1.gatePolder n).1.sansGate).trans (a.1.gatePolder_sansGate n)

theorem State.packageStep_polder_of_ne {a : State × Nat × Bool} {n k : Nat} (hk : k ≠ n) :
    (State.packageStep a n).1.polder k = a.1.polder k := by
  refine (State.onPolder_polder ..).trans ?_
  rw [if_neg (Ne.symm hk), State.gatePolder_polder_of_ne _ hk]

/-- A polder without a job, or one that a floodgate leaves without one. -/
def Polder.JobEnds (x : Polder) : Prop := x.job = none ∨ (x.state ≠ .none ∧ x.state ≠ .halted)

theorem State.packageStep_job {a : State × Nat × Bool} {n : Nat} (h : (a.1.polder n).JobEnds) :
    ((State.packageStep a n).1.polder n).job = none := by
  have own : ((State.packageStep a n).1.polder n).job = ((a.1.gatePolder n).1.polder n).job := by
    unfold State.packageStep
    dsimp only
    rw [State.onPolder_polder, if_pos rfl]
  rw [own]
  by_cases live : (a.1.polder n).state ≠ .none ∧ (a.1.polder n).state ≠ .halted
  · exact State.gatePolder_job _ live.1 live.2
  · have job := h.resolve_right live
    obtain ⟨-, e⟩ | ⟨-, l, e⟩ | ⟨st, e⟩ := a.1.gatePolder_cases n
    · rw [e, job]
    · rw [e, congrFun (State.polder_of_polders (State.disabled_polders _ _ l)) n, job]
    · rw [e, State.halt_polder, if_pos rfl]
      exact (State.finishJob_polder _ n st 0).2

theorem State.packageSteps_sansGate (l : List Nat) : ∀ a : State × Nat × Bool,
    (l.foldl State.packageStep a).1.sansGate = a.1.sansGate := by
  induction l with
  | nil => exact fun _ => rfl
  | cons n r ih => exact fun a => (ih _).trans (State.packageStep_sansGate a n)

theorem State.packageSteps_job {k : Nat} (l : List Nat) : ∀ a : State × Nat × Bool, (a.1.polder k).JobEnds →
    (k ∈ l ∨ (a.1.polder k).job = none) → ((l.foldl State.packageStep a).1.polder k).job = none := by
  induction l with
  | nil => exact fun a _ h => h.resolve_left List.not_mem_nil
  | cons n r ih =>
    intro a hj h
    by_cases hk : k = n
    · subst hk
      have ended := State.packageStep_job hj
      exact ih _ (.inl ended) (.inr ended)
    · have same : (State.packageStep a n).1.polder k = a.1.polder k := State.packageStep_polder_of_ne hk
      refine ih _ (by rwa [same]) ?_
      rw [same]
      exact h.imp_left fun hm => (List.mem_cons.1 hm).resolve_left hk

/-- A package floodgate where none is in progress (R314, R315, R320). -/
theorem State.startPackageGate_of_none (f : Nat) (hg : s.gates = []) :
    (s.startPackageGate f).trust = s.trust ∧ (s.startPackageGate f).gates ≠ []
      ∧ ∀ k < 24, (s.polder k).exists_ = true → (s.polder k).state ≠ .halted → ((s.startPackageGate f).polder k).job = none := by
  have marked := s.fgMark_sansIssuers f 31
  have gates : (s.fgMark f 31).gates = [] := ((congrArg State.gates marked :) : _ = s.gates).trans hg
  have polders : (s.fgMark f 31).polder = s.polder := funext fun k => s.fgMark_polder f 31 k
  obtain ⟨b, absorbed, sel, free, n, e, started⟩ : ∃ (b : Nat × Bool) (absorbed : List Gate) (sel : NbCmd → Bool) (free : List Nat) (n : Nat) (e : Bool),
      s.startPackageGate f = { ((((List.range 24).filter fun n => (s.polder n).exists_).foldl State.packageStep
          (s.fgMark f 31, b)).1.nbDiscard sel).each free State.disableChan with
        gates := sortBy Gate.no (absorbed ++ [s.gateOf f (!s.gates.isEmpty)])
        gateChannels := n
        gateEndedJob := e } := by
    unfold State.startPackageGate
    dsimp only
    rw [if_neg (by simp [gates]), polders]
    exact ⟨_, _, _, _, _, _, rfl⟩
  have steps := State.packageSteps_sansGate ((List.range 24).filter fun n => (s.polder n).exists_) (s.fgMark f 31, b)
  have last := State.disabled_sansHalt ((((List.range 24).filter fun n => (s.polder n).exists_).foldl State.packageStep
    (s.fgMark f 31, b)).1) sel free
  rw [started]
  refine ⟨?_, ?_, fun k hk hx hh => ?_⟩
  · exact ((congrArg State.trust last :) : _ = _).trans (((congrArg State.trust steps :) : _ = _).trans (congrArg State.trust marked :))
  · intro none_
    have perm := sortBy_perm Gate.no (absorbed ++ [s.gateOf f (!s.gates.isEmpty)])
    have empty : sortBy Gate.no (absorbed ++ [s.gateOf f (!s.gates.isEmpty)]) = [] := none_
    rw [empty] at perm
    have := perm.symm.eq_nil
    simp at this
  · have live : (s.polder k).state ≠ .none := by
      intro h
      simp [Polder.exists_, h] at hx
    have ended := State.packageSteps_job (k := k) ((List.range 24).filter fun n => (s.polder n).exists_) (s.fgMark f 31, b)
      (.inr (by rw [congrFun polders k]; exact ⟨live, hh⟩)) (.inl (List.mem_filter.2 ⟨List.mem_range.2 hk, hx⟩))
    have same := congrFun (State.polder_of_polders (State.disabled_polders ((((List.range 24).filter fun n => (s.polder n).exists_).foldl
      State.packageStep (s.fgMark f 31, b)).1) sel free)) k
    exact ((congrArg Polder.job same :) : _ = _).trans ended

/-! ### Fences -/

theorem State.boardReport_sansBoard (d : Nat) (ws : List Word) : (s.boardReport d ws).sansBoard = s.sansBoard :=
  State.each_keeps (fun u _ => u.boardSend_sansBoard _ _ _) _ s

theorem State.failJob_sansGate (n : Nat) (st : Status) (extra : Nat) : (s.failJob n st extra).sansGate = s.sansGate := by
  unfold State.failJob
  split
  · rfl
  · refine State.ite_keeps (F := State.sansGate) rfl ?_
    exact (State.sansGate_of_sansHalt (State.halt_sansHalt _ n)).trans
      (State.sansGate_of_sansJob (State.finishJob_sansJob _ n st extra))

theorem State.fencePolder_sansGate (n : Nat) : (s.fencePolder n).sansGate = s.sansGate := by
  unfold State.fencePolder
  refine State.ite_keeps (F := State.sansGate) rfl ?_
  exact (rfl : _ = (s.failJob n .hwError 0).sansGate).trans (s.failJob_sansGate n .hwError 0)

/-- The module without what fencing a half-die touches. -/
def State.sansFence (s : State) : State := s.sansGate.sansBoard

/-- The half-die is fenced and its polder told, before the fence is logged (R422). -/
@[irreducible] def State.fenceSet (s : State) (h : Nat) : State :=
  ((s.boardReport (h / 2) [actionWord 1 (h / 2)]).onHalfDie h fun x => { x with fenced := true }).fencePolder
    ((s.boardReport (h / 2) [actionWord 1 (h / 2)]).polderOf h)

theorem State.fence_sansSends (h : Nat) (x : HalfDieFault) : (s.fence (.halfDie h x)).sansSends = (s.fenceSet h).sansSends := by
  unfold State.fence State.fenceSet
  dsimp only
  rw [State.event_sansSends, State.addLog_sansSends]
  rfl

theorem State.fenceSet_sansFence (h : Nat) : (s.fenceSet h).sansFence = s.sansFence := by
  have boarded : (s.boardReport (h / 2) [actionWord 1 (h / 2)]).sansFence = s.sansFence :=
    (congrArg State.sansFence (s.boardReport_sansBoard _ _) :)
  unfold State.fenceSet
  have frame := State.fencePolder_sansGate ((s.boardReport (h / 2) [actionWord 1 (h / 2)]).onHalfDie h fun x => { x with fenced := true })
    ((s.boardReport (h / 2) [actionWord 1 (h / 2)]).polderOf h)
  exact (congrArg State.sansBoard frame :).trans boarded

theorem State.fence_sansFence (h : Nat) (x : HalfDieFault) : (s.fence (.halfDie h x)).sansFence = s.sansFence :=
  ((congrArg State.sansFence (s.fence_sansSends h x) :) : _ = (s.fenceSet h).sansFence).trans (s.fenceSet_sansFence h)

/-- The fence bits of the half-dies. -/
def State.fences (s : State) (k : Nat) : Bool := (s.halfDie k).fenced

theorem State.onHalfDie_fences {g : HalfDie → HalfDie} (hg : ∀ x, (g x).fenced = x.fenced) (h : Nat) :
    (s.onHalfDie h g).fences = s.fences := by
  funext k
  unfold State.fences
  rw [State.onHalfDie_halfDie]
  split
  · next e => rw [hg, e]
  · rfl

theorem State.halt_fences (p : Nat) : (s.halt p).1.fences = s.fences := by
  have rested : ∀ x : HalfDie, x.rested.fenced = x.fenced := by
    intro x
    unfold HalfDie.rested
    split <;> rfl
  have junked : ∀ (u : State) hs, (u.junkCores hs true).fences = u.fences := by
    intro u hs
    rw [State.junkCores_eq]
    exact State.each_keeps (F := State.fences) (g := fun v h => v.onHalfDie h (HalfDie.junked v.fresh true))
      (fun v h => v.onHalfDie_fences (g := HalfDie.junked v.fresh true) (fun _ => rfl) h) hs (u.coresDropped hs)
  have idle : ∀ u : State, (u.idleHalfDies p).fences = u.fences := by
    intro u
    rw [State.idleHalfDies_eq]
    exact State.each_keeps (F := State.fences) (fun v h => v.onHalfDie_fences rested h) _ u
  rw [State.halt_eq]
  refine (rfl : _ = (s.halting p).fences).trans ?_
  unfold State.halting
  dsimp only
  rw [junked, idle, State.each_keeps (F := State.fences) (fun u ch => u.disableChan_keeps (F := State.fences)
    (fun _ _ _ => rfl) (fun _ _ => rfl) (fun _ _ _ => rfl) ch), State.nbDiscard_keeps (F := State.fences) _
    (fun _ _ _ => rfl) (fun _ _ _ => rfl) (fun _ _ _ => rfl)]
  exact State.each_keeps (F := State.fences) (g := fun u cl => u.onCluster cl Cluster.discard) (fun _ _ => rfl) _ s

theorem State.fences_of_sansJob {s t : State} (h : t.sansJob = s.sansJob) : t.fences = s.fences :=
  (congrArg (fun u : State => u.fences) h :)

theorem State.fencePolder_fences (n : Nat) : (s.fencePolder n).fences = s.fences := by
  unfold State.fencePolder
  refine State.ite_keeps (F := State.fences) rfl ?_
  refine (rfl : _ = (s.failJob n .hwError 0).fences).trans ?_
  unfold State.failJob
  split
  · rfl
  · refine State.ite_keeps (F := State.fences) rfl ?_
    exact (State.halt_fences _ n).trans (State.fences_of_sansJob (State.finishJob_sansJob _ n .hwError 0))

theorem State.fencePolder_polder {n : Nat} (hn : n < 24) : ((s.fencePolder n).polder n).fenced = true := by
  unfold State.fencePolder
  rw [if_neg (Nat.not_le.2 hn), State.onPolder_polder, if_pos rfl]

theorem State.fence_fences (h : Nat) (x : HalfDieFault) (k : Nat) :
    ((s.fence (.halfDie h x)).halfDie k).fenced = if h = k then true else (s.halfDie k).fenced := by
  have boarded : (s.boardReport (h / 2) [actionWord 1 (h / 2)]).fences = s.fences :=
    (congrArg State.fences (s.boardReport_sansBoard _ _) :)
  have same : (s.fence (.halfDie h x)).fences = (s.fenceSet h).fences := (congrArg State.fences (s.fence_sansSends h x) :)
  refine (congrFun same k).trans ?_
  unfold State.fenceSet
  rw [State.fencePolder_fences]
  unfold State.fences
  rw [State.onHalfDie_halfDie]
  split
  · rfl
  · exact congrFun boarded k

theorem State.fence_polder {h : Nat} (x : HalfDieFault) (hn : s.polderOf h < 24) :
    ((s.fence (.halfDie h x)).polder (s.polderOf h)).fenced = true := by
  have boarded : (s.boardReport (h / 2) [actionWord 1 (h / 2)]).polderOf = s.polderOf := by
    funext k
    have same : (s.boardReport (h / 2) [actionWord 1 (h / 2)]).polders = s.polders := (congrArg State.polders (s.boardReport_sansBoard ..) :)
    unfold State.polderOf
    rw [State.polder_of_polders same]
  rw [congrFun (State.polder_of_polders (State.polders_of_sansSends (s.fence_sansSends h x)))]
  unfold State.fenceSet
  rw [boarded]
  exact State.fencePolder_polder _ hn

/-! ### A die controller restarts -/

/-- A polder at the step it is commanded to (R397, R472). -/
def Polder.restepped (x : Polder) (down : Sparse Bool) : Polder :=
  if x.step < x.wantIn down then { x with rails := x.halfDies, nextStep := none }
  else { x with rails := [], nextStep := if x.wantIn down = x.step then none else some (x.wantIn down) }

theorem State.restep_sansRails (n : Nat) : (s.restep n).sansRails = s.sansRails := by
  unfold State.restep
  exact State.ite_keeps (F := State.sansRails) (State.askRails_sansRails _ _ _) rfl

theorem State.restep_polder (n k : Nat) : (s.restep n).polder k
    = if n = k then (s.polder n).restepped s.cdcDown else s.polder k := by
  unfold State.restep
  simp only [s.wantOf_eq, beq_iff_eq]
  split
  · next h =>
    rw [State.askRails_polder, State.onPolder_polder, Polder.restepped, if_pos h]
  · next h =>
    rw [State.onPolder_polder, Polder.restepped, if_neg h]

/-- One polder of a die whose controller has restarted. -/
def State.restepOne (s : State) (n : Nat) : State := if (s.polder n).job.isSome then s.restep n else s

theorem State.restepOne_sansRails (n : Nat) : (s.restepOne n).sansRails = s.sansRails :=
  State.ite_keeps (F := State.sansRails) (s.restep_sansRails n) rfl

theorem State.restepOne_polder (n k : Nat) : (s.restepOne n).polder k
    = if n = k ∧ (s.polder k).job.isSome then (s.polder k).restepped s.cdcDown else s.polder k := by
  unfold State.restepOne
  by_cases hk : n = k
  · subst hk
    by_cases h : (s.polder n).job.isSome
    · rw [if_pos h, if_pos ⟨rfl, h⟩, State.restep_polder, if_pos rfl]
    · rw [if_neg h, if_neg fun c => h c.2]
  · refine Eq.trans ?_ (if_neg fun c => hk c.1).symm
    exact State.ite_keeps (F := fun u => u.polder k) ((s.restep_polder n k).trans (if_neg hk)) rfl

theorem State.restepAll_polder {l : List Nat} (hl : l.Nodup) (k : Nat) : (s.each l State.restepOne).polder k
    = if k ∈ l ∧ (s.polder k).job.isSome then (s.polder k).restepped s.cdcDown else s.polder k := by
  have down : ∀ (u : State) n, (u.restepOne n).cdcDown = u.cdcDown := fun u n => (congrArg State.cdcDown (u.restepOne_sansRails n) :)
  have pass := State.each_at (V := State.wanting) (g := State.restepOne)
    (φ := fun _ w => (if w.1.job.isSome then w.1.restepped w.2 else w.1, w.2))
    (fun u n => by
      unfold State.wanting
      rw [State.restepOne_polder, down]
      simp only [true_and])
    (fun u n k hk => by
      unfold State.wanting
      rw [State.restepOne_polder, if_neg fun c => hk c.1.symm, down]) l s k hl
  refine (congrArg Prod.fst pass).trans ?_
  by_cases hk : k ∈ l
  · simp only [hk, true_and]
    rfl
  · simp only [hk, false_and]
    rfl

end

end Sys2Proof.Machine
end

section
/-! The floodgate, the resets of the processors, and fences (R314-R321, R422, R423, R461, R472). -/

namespace Sys2Proof.Machine

section
variable (s : State)

theorem execFloodgate_of_other {f : Nat} {v : Word} (hf : f ≠ 0) (hv : v.toNat ≠ fgKey) :
    exec (.floodgate f v) s = .next (s.accessError f kRefused true 0x28) := by
  show execFloodgate f v s = _
  simp [execFloodgate, State.writeFloodgate, hf, hv]

theorem execFloodgate_of_key {f n : Nat} {v : Word} (hf : f ≠ 0) (hv : v.toNat = fgKey) (hn : s.vfPolder f = n) (hlt : n < 24) :
    exec (.floodgate f v) s = .next (s.startGate f n) := by
  have mapped : n ≠ 31 := by omega
  show execFloodgate f v s = _
  simp [execFloodgate, State.writeFloodgate, hf, hv, hn, mapped]

theorem execFgPf_of_key {n : Nat} {v : Word} (hv : bits v.toNat 0 16 = fgKey) (hr : bits v.toNat 21 11 = 0)
    (hn : bits v.toNat 16 5 = n) (hlt : n < 24) (hx : (s.polder n).exists_ = true) : exec (.fgPf v) s = .next (s.startGate 0 n) := by
  have single : n ≠ 31 := by omega
  have below : ¬ 24 ≤ n := by omega
  show execFgPf v s = _
  simp [execFgPf, State.writeFgPf, hv, hr, hn, single, below, hx]

/-- The floodgate of one polder completes: what its polder, the drains and its last issuer become (R315, R318, R319). -/
theorem State.finishGate_of_polder {n : Nat} (hn : n < 24) {g : Gate} {rest : List Gate} (hg : (s.polder n).gates = g :: rest) :
    let t := s.finishGate n
    (t.polder n).gates = [] ∧ (t.polder n).state = (s.polder n).state ∧ (∀ k, k ≠ n → t.polder k = s.polder k)
      ∧ (∀ d ∈ s.draining, d ∈ t.draining)
      ∧ (rest = [] → g.func ≤ 24 → (s.func g.func).fg.key ≤ g.no →
          (s.onPolder n fun p => { p with gates := [] }).gating g.func = false →
          (t.func g.func).fg = { (s.func g.func).fg with
            busy := false, jobEnded := (s.polder n).gateEndedJob, polder := n, status := .ok
            elapsedUs := ceilDiv (s.time.dev - g.time) 100 % 2 ^ 32 }
            ∧ ((s.func g.func).fg.gate ≤ g.no → (g.func, n) ∈ t.draining)) := by
  intro t
  obtain ⟨u, finished, kept, single⟩ : ∃ u : State, t = u.drains n (g :: rest)
      ∧ u.sansSends = (s.onPolder n fun p => { p with gates := [] }).sansSends
      ∧ (rest = [] → u = (s.onPolder n fun p => { p with gates := [] }).fgFinish 1 n .ok (s.polder n).gateEndedJob (s.polder n).gateChannels g) :=
    ⟨_, s.finishGate_polder hn hg, State.fgFinishAll_sansSends _ 1 n _ _ (g :: rest), by rintro rfl; rfl⟩
  have polder : ∀ k, t.polder k = (s.onPolder n fun p => { p with gates := [] }).polder k := fun k => by
    rw [finished]
    exact (congrFun (State.polder_of_polders (State.polders_of_sansSends kept)) k : u.polder k = _)
  have draining : u.draining = s.draining := (congrArg State.draining kept :)
  refine ⟨?_, ?_, fun k hk => ?_, fun d hd => ?_, ?_⟩
  · rw [polder, State.onPolder_polder, if_pos rfl]
  · rw [polder, State.onPolder_polder, if_pos rfl]
  · rw [polder, State.onPolder_polder, if_neg (Ne.symm hk)]
  · rw [finished]
    exact List.mem_append_left _ (by rwa [draining])
  · intro hrest hf hkey idle
    subst hrest
    have own := State.fgFinish_fg (s.onPolder n fun p => { p with gates := [] }) (kind := 1) (target := n) (st := .ok)
      (ended := (s.polder n).gateEndedJob) (chans := (s.polder n).gateChannels) (w := g) hf hkey
    rw [idle, ← single rfl] at own
    rw [finished]
    refine ⟨own, fun hgate => List.mem_append_right _ (List.mem_map.2 ⟨g, List.mem_filter.2 ⟨List.mem_singleton_self g, ?_⟩, rfl⟩)⟩
    have below : (u.func g.func).fg.gate ≤ g.no := Nat.le_trans (Nat.le_of_eq (congrArg FgStatus.gate own :)) hgate
    simp only [hf, below, decide_true, Bool.and_self]

/-- A package floodgate completes, and with it what waited for it (R315, R321, R461, R465). -/
theorem execFloodgateComplete_of_package (hg : s.gates ≠ []) : ∃ t, exec (.floodgateComplete 2 31) s = .next t ∧ t.gates = []
    ∧ (s.trust.resetDue = false → t.trust.gated = true)
    ∧ (s.trust.resetDue = true → t.trust.running = false ∧ t.trust.romDue = true ∧ t.trust.resetDue = false
        ∧ ∀ g, (t.func g).ring = none ∧ (t.func g).inbox = [] ∧ (t.func g).h2d = [])
    ∧ t.trust.unlocked = (s.trust.unlocked || s.trust.scopeDue != 0) ∧ t.trust.scope = s.trust.scope ||| s.trust.scopeDue := by
  obtain ⟨gates, trust⟩ := s.finishGate_package hg
  have due : (s.finishGate 31).trust.resetDue = s.trust.resetDue := (congrArg Trust.resetDue trust :)
  have unlocked : (s.finishGate 31).trust.unlocked = (s.trust.unlocked || s.trust.scopeDue != 0) := (congrArg Trust.unlocked trust :)
  have scope : (s.finishGate 31).trust.scope = s.trust.scope ||| s.trust.scopeDue := (congrArg Trust.scope trust :)
  have run : exec (.floodgateComplete 2 31) s = .next (if s.trust.resetDue then (s.finishGate 31).pmpResetNow else s.finishGate 31) := by
    rw [← due]
    rfl
  refine ⟨_, run, ?_⟩
  cases hr : s.trust.resetDue with
  | false =>
    rw [if_neg Bool.false_ne_true]
    exact ⟨gates, fun _ => congrArg Trust.gated trust, fun h => absurd h Bool.false_ne_true, unlocked, scope⟩
  | true =>
    have past := (s.finishGate 31).pmpResetNow_pastReset
    obtain ⟨running, -, rom, reset⟩ := (s.finishGate 31).pmpResetNow_trust
    simp only [State.pastReset, Prod.mk.injEq] at past
    obtain ⟨pgates, punlocked, pscope, -, -⟩ := past
    rw [if_pos rfl]
    exact ⟨pgates.trans gates, fun h => absurd h.symm Bool.false_ne_true,
      fun _ => ⟨running, rom, reset, (s.finishGate 31).pmpResetNow_func⟩, punlocked.trans unlocked, pscope.trans scope⟩

/-! ### DRAINED -/

/-- A function whose floodgate has drained (R319). -/
def Func.drained (x : Func) : Func := { x with fg := { x.fg with drained := true } }

theorem execFloodgateDrained_of_none {n : Nat} (h : ∀ e ∈ s.channels, ∀ w ∈ e.2.held, w.lingers n = false) :
    exec (.floodgateDrained n) s = .next { (s.each ((s.draining.filter fun d => d.2 == n).map Prod.fst) fun u f => u.onFunc f Func.drained) with
      draining := s.draining.filter fun d => d.2 != n } := by
  have none_ : (s.channels.any fun e => e.2.held.any fun w => w.lingers n) = false :=
    List.any_eq_false.2 fun e he => by
      rw [Bool.not_eq_true]
      exact List.any_eq_false.2 fun w hw => by rw [h e he w hw]; exact Bool.false_ne_true
  show execFloodgateDrained n s = _
  unfold execFloodgateDrained
  dsimp only
  rw [none_]
  rfl

theorem State.drainedAll_sansFuncs (l : List Nat) : (s.each l fun u f => u.onFunc f Func.drained).sansFuncs = s.sansFuncs :=
  State.each_keeps (F := State.sansFuncs) (g := fun u f => u.onFunc f Func.drained) (fun _ _ => rfl) l s

theorem State.drainedAll_mem {l : List Nat} {f : Nat} (h : f ∈ l) :
    ((s.each l fun u f => u.onFunc f Func.drained).func f).fg.drained = true := by
  refine State.each_establishes (P := fun u => (u.func f).fg.drained = true) (x := f) (fun u => ?_) l s (fun u y _ hu => ?_) h
  · rw [State.onFunc_func, if_pos rfl]
    rfl
  · rw [State.onFunc_func]
    split
    · rfl
    · exact hu

theorem State.drainedAll_not_mem {l : List Nat} {f : Nat} (h : f ∉ l) :
    (s.each l fun u f => u.onFunc f Func.drained).func f = s.func f := by
  refine State.each_preserves (P := fun u => u.func f = s.func f) l s (fun u y hy hu => ?_) rfl
  have other : y ≠ f := fun e => h (e ▸ hy)
  rw [State.onFunc_func, if_neg other, hu]

theorem mem_drainers {n f : Nat} : f ∈ (s.draining.filter fun d => d.2 == n).map Prod.fst ↔ (f, n) ∈ s.draining := by
  simp only [List.mem_map, List.mem_filter, beq_iff_eq, Prod.exists, exists_and_right, exists_eq_right]

/-! ### The watchdogs -/

theorem State.interrupted_watchdog : (s.interrupted.polders, s.interrupted.gates, s.interrupted.boot) = (s.polders, s.gates, s.boot) := by
  unfold State.interrupted
  exact State.ite_keeps (F := fun u => (u.polders, u.gates, u.boot)) rfl rfl

theorem execPmpWatchdog_of_running (hr : s.trust.running = true) (hb : s.boot.running = false) (hg : s.gates = []) :
    ∃ t, exec .pmpWatchdog s = .next t ∧ t.trust.running = false ∧ t.trust.resetDue = true ∧ t.gates ≠ []
      ∧ ∀ k < 24, (s.polder k).exists_ = true → (s.polder k).state ≠ .halted → (t.polder k).job = none := by
  have logged := (s.addLog 11 0 31 0 0 0).interrupted_watchdog
  simp only [Prod.mk.injEq] at logged
  obtain ⟨polders, gates, -⟩ := logged
  let stopped (u : State) : State := { u with trust := { u.trust with running := false, resetDue := true } }
  obtain ⟨trust, begun, ended⟩ := (stopped (s.addLog 11 0 31 0 0 0).interrupted).startPackageGate_of_none 25 (gates.trans hg)
  have polder : (stopped (s.addLog 11 0 31 0 0 0).interrupted).polder = s.polder := State.polder_of_polders polders
  refine ⟨(stopped (s.addLog 11 0 31 0 0 0).interrupted).startPackageGate 25, ?_, congrArg Trust.running trust,
    congrArg Trust.resetDue trust, begun, fun k hk hx hh => ended k hk (by rwa [polder]) (by rwa [polder])⟩
  show execPmpWatchdog s = _
  unfold execPmpWatchdog
  rw [hr, hb]
  rfl

/-- What a die controller's watchdog is known by. -/
def State.controllers (s : State) : Time × Sparse Bool × Sparse (Option Nat) := (s.time, s.cdcDown, s.cdcExpired)

/-- The polders of a die are floodgated and their half-dies held at step 0 (R472). -/
@[irreducible] def State.dieStopped (s : State) (n : Nat) : State :=
  let ps := ([2 * n, 2 * n + 1].map s.polderOf).dedup.filter fun k => decide (k < 24)
  let s := s.each ps fun s k => if (s.polder k).exists_ then s.startGate 25 k else s
  s.each ps fun s k => s.onPolder k fun p => { p with rails := [], nextStep := some 0 }

theorem State.dieStopped_controllers (n : Nat) : (s.dieStopped n).controllers = s.controllers := by
  unfold State.dieStopped
  refine (State.each_keeps (F := State.controllers) (g := fun u k => u.onPolder k fun p => { p with rails := [], nextStep := some 0 })
    (fun _ _ => rfl) _ _).trans ?_
  exact State.each_keeps (F := State.controllers) (fun u k => State.ite_keeps (u.startGate_sansGate_time 25 k) rfl) _ s

/-- The die's controller is down, and logged (R472). -/
def State.controllerDown (s : State) (n : Nat) : State :=
  { s with
    cdcExpired := Sparse.set none s.cdcExpired n (some s.time.dev)
    cdcDown := Sparse.set false s.cdcDown n true }.addLog 11 0 31 1 n 0

theorem execCdcWatchdog_eq (n : Nat) : ∃ b : Bool, exec (.cdcWatchdog n) s = .next
    (if b then (((s.dieStopped n).controllerDown n).fence (.halfDie (2 * n))).fence (.halfDie (2 * n + 1))
      else (s.dieStopped n).controllerDown n) := by
  unfold State.dieStopped
  exact ⟨_, rfl⟩

theorem execCdcWatchdog_runs (n : Nat) : ∃ t, exec (.cdcWatchdog n) s = .next t
    ∧ Sparse.get false t.cdcDown n = true ∧ Sparse.get none t.cdcExpired n = some s.time.dev := by
  obtain ⟨b, run⟩ := execCdcWatchdog_eq s n
  have frame : ∀ u : State, u.sansFence.controllers = u.controllers := fun _ => rfl
  have fenced : ∀ (u : State) h x, (u.fence (.halfDie h x)).controllers = u.controllers := fun u h x => by
    rw [← frame, u.fence_sansFence h x, frame]
  have kept : State.controllers (if b then (((s.dieStopped n).controllerDown n).fence (.halfDie (2 * n))).fence (.halfDie (2 * n + 1))
      else (s.dieStopped n).controllerDown n) = ((s.dieStopped n).controllerDown n).controllers :=
    State.ite_keeps (F := State.controllers) ((fenced _ _ _).trans (fenced _ _ _)) rfl
  have down : ∀ u : State, Sparse.get false (u.controllerDown n).cdcDown n = true
      ∧ Sparse.get none (u.controllerDown n).cdcExpired n = some u.time.dev := fun u =>
    ⟨(Sparse.get_set ..).trans (if_pos rfl), (Sparse.get_set ..).trans (if_pos rfl)⟩
  have first := congrArg Prod.fst (s.dieStopped_controllers n)
  simp only [State.controllers, Prod.mk.injEq] at kept first
  obtain ⟨-, cdcDown, cdcExpired⟩ := kept
  refine ⟨_, run, ?_, ?_⟩
  · rw [cdcDown]
    exact (down _).1
  · rw [cdcExpired, ← first]
    exact (down _).2

/-- What the restart of a die controller does to the polders of its die, and to nothing else (R472). -/
theorem execCdcRestartComplete_runs (n : Nat) : ∃ t, exec (.cdcRestartComplete n) s = .next t
    ∧ t.cdcDown = Sparse.set false s.cdcDown n false
    ∧ (∀ k, t.polder k = if (k = s.polderOf (2 * n) ∨ k = s.polderOf (2 * n + 1)) ∧ (s.polder k).job.isSome
        then (s.polder k).restepped t.cdcDown else s.polder k)
    ∧ t = { s with cdcDown := t.cdcDown, polders := t.polders, ledger := { s.ledger with rails := t.ledger.rails } } := by
  let up (d : Sparse Bool) : State := { s with cdcDown := d }
  let ns := ([2 * n, 2 * n + 1].map s.polderOf).dedup
  have run : exec (.cdcRestartComplete n) s = .next ((up (Sparse.set false s.cdcDown n false)).each ns State.restepOne) := rfl
  have frame : ((up (Sparse.set false s.cdcDown n false)).each ns State.restepOne).sansRails = (up (Sparse.set false s.cdcDown n false)).sansRails :=
    State.each_keeps (F := State.sansRails) (fun u k => u.restepOne_sansRails k) ns _
  have down : ((up (Sparse.set false s.cdcDown n false)).each ns State.restepOne).cdcDown = Sparse.set false s.cdcDown n false :=
    (congrArg State.cdcDown frame :)
  refine ⟨_, run, down, fun k => ?_, ?_⟩
  · have mem : k ∈ ns ↔ k = s.polderOf (2 * n) ∨ k = s.polderOf (2 * n + 1) := by
      simp only [ns, List.mem_dedup, List.map_cons, List.map_nil, List.mem_cons, List.not_mem_nil, or_false]
    rw [down, State.restepAll_polder _ (List.nodup_dedup _) k]
    exact if_congr (and_congr_left fun _ => mem) rfl rfl
  · rw [down]
    exact State.eq_of_sansRails frame

/-- A polder of which no other die's controller is down wants its step again. -/
theorem Polder.wantIn_of_up {x : Polder} {down : Sparse Bool} {n : Nat} (h : ∀ d ∈ x.dies, d ≠ n → Sparse.get false down d = false) :
    x.wantIn (Sparse.set false down n false) = x.want := by
  refine if_neg ?_
  rw [Bool.not_eq_true]
  refine List.any_eq_false.2 fun d hd => ?_
  rw [Sparse.get_set, Bool.not_eq_true]
  split
  · rfl
  · next ne => exact h d hd (Ne.symm ne)

end

end Sys2Proof.Machine

open Sys2Proof Sys2Proof.Machine

/-- Settles O40: the sequence of one polder (`startGate_of_running`, `finishGate_of_polder`), that of the package, the resets of
the processors and fences, each by the lemma about its row. -/
theorem floodgateHaltsThePolder : Obligations.FloodgateHaltsThePolder := by
  unfold Obligations.FloodgateHaltsThePolder
  intro s f n v
  refine ⟨?_, fun hf hv => execFloodgate_of_other s hf hv, ?_, ?_, execFloodgateComplete_of_package s, ?_, ?_, ?_,
    execPmpWatchdog_of_running s, execCdcWatchdog_runs s n, ?_, ?_⟩
  · intro hf hle hv hn hlt _ hg hp hr
    obtain ⟨halted, job, command, gates, fg, chans, others⟩ := s.startGate_of_running (f := f) hg hp hr
    exact ⟨_, execFloodgate_of_key s hf hv hn hlt, halted, job, command, gates, fg hle, chans, others⟩
  · intro hv hz hn hlt hx hg hp hr
    obtain ⟨halted, job, -, -, -, chans, others⟩ := s.startGate_of_running (f := 0) hg hp hr
    exact ⟨_, execFgPf_of_key s hv hz hn hlt hx, halted, job, chans, others⟩
  · intro g rest hlt hg
    exact ⟨_, rfl, s.finishGate_of_polder hlt hg⟩
  · intro h
    have frame := s.drainedAll_sansFuncs ((s.draining.filter fun d : Nat × Nat => d.2 == n).map Prod.fst)
    refine ⟨_, execFloodgateDrained_of_none s h, fun g hg => ?_, fun d => ?_, fun g hg => ?_, ?_⟩
    · exact s.drainedAll_mem (mem_drainers s |>.2 hg)
    · simp only [List.mem_filter, bne_iff_ne]
    · exact s.drainedAll_not_mem fun hm => hg ((mem_drainers s).1 hm)
    · exact (congrArg (fun u : State => { u with
        funcs := (s.each ((s.draining.filter fun d : Nat × Nat => d.2 == n).map Prod.fst) fun u f => u.onFunc f Func.drained).funcs
        draining := s.draining.filter fun d : Nat × Nat => d.2 != n }) frame :)
  · intro hv hg
    have past := s.pmpResetNow_pastReset
    obtain ⟨running, gated, rom, -⟩ := s.pmpResetNow_trust
    simp only [State.pastReset, Prod.mk.injEq] at past
    obtain ⟨-, -, -, ucm, edge⟩ := past
    refine ⟨s.pmpResetNow, ?_, running, gated, rom, s.pmpResetNow_func, ucm, edge⟩
    refine congrArg Host.Outcome.next (if_neg ?_)
    simpa [hg] using hv
  · intro h
    refine congrArg Host.Outcome.next (if_pos ?_)
    simpa using h
  · obtain ⟨t, run, down, polder, frame⟩ := execCdcRestartComplete_runs s n
    refine ⟨t, run, ?_, fun d hd => ?_, fun k hk => ?_, fun k hk hj ho => ?_, frame⟩
    · rw [down, Sparse.get_set, if_pos rfl]
    · rw [down, Sparse.get_set, if_neg (Ne.symm hd)]
    · rw [polder, if_neg]
      rintro ⟨hm, hj⟩
      obtain ⟨h0, h1⟩ | hnone := hk
      · exact hm.elim h0 h1
      · rw [hnone] at hj
        exact Bool.false_ne_true hj
    · rw [polder, if_pos ⟨hk, hj⟩, down, Polder.restepped, Polder.wantIn_of_up ho]
  · intro h
    exact ⟨s.fence (.halfDie h), rfl, (s.fence_fences h _ h).trans (if_pos rfl), s.fence_polder _,
      fun k hk => (s.fence_fences h _ k).trans (if_neg (Ne.symm hk))⟩

end

section
/-! PROOF. RESUME with a changed SIZE (R277, R290). -/

namespace Sys2Proof.Machine

/-- Channel 0 is HALTED with TAIL 0 and SIZE 0. -/
def haltedEmptyRing : State := { dma := [(0, { state := .halted })] }

/-- ENABLE and RESUME with SIZE 1: TAIL is below what is written and not below the SIZE that stood. -/
def resumeWithSize1 : U64 := 0xC000000000000001

/-- The write compares TAIL with the SIZE that stood before it, and halts the channel again. -/
theorem exec_resume_haltedEmptyRing : ∃ t, exec (.resume 0 0 resumeWithSize1) haltedEmptyRing = .next t ∧ (t.chan 0).state = .halted :=
  ⟨_, rfl, by decide⟩

end Sys2Proof.Machine

open Sys2Proof Sys2Proof.Machine

/-- Refutes O41: RESUME with a SIZE above TAIL does not take the channel on where the SIZE before the write was not above
it. -/
theorem not_dmaChannelControl : ¬ Obligations.DmaChannelControl := by
  unfold Obligations.DmaChannelControl
  intro h
  obtain ⟨-, -, -, resume, -⟩ := h haltedEmptyRing 0 0 resumeWithSize1 rfl
  obtain ⟨on, -⟩ := resume (by decide) (by decide) rfl rfl
  obtain ⟨t, run, halted⟩ := exec_resume_haltedEmptyRing
  have same := Host.Outcome.next.inj (run.symm.trans (on rfl (by decide)))
  rw [same] at halted
  exact absurd halted (by decide)
end

section
/-! SUPPORT. Descriptors: the read of the next one, the write-back, and their end by an error (R278-R289). -/

namespace Sys2Proof.Machine

/-! ### Two writes of one entry -/

/-- A second write of an entry is all that remains. -/
theorem Sparse.set_set {α : Type} [DecidableEq α] (d : α) (m : Sparse α) (k : Nat) (v w : α) :
    Sparse.set d (Sparse.set d m k v) k w = Sparse.set d m k w := by
  have own : ∀ e ∈ Sparse.ofList d k [v], e.1 = k := by
    intro e he
    unfold Sparse.ofList at he
    split at he
    · cases he
    · rw [List.mem_singleton.1 he]
  have low : (Sparse.ofList d k [v]).filter (fun e => decide (e.1 < k)) = [] :=
    List.filter_eq_nil_iff.2 fun e he => by simp [own e he]
  have high : (Sparse.ofList d k [v]).filter (fun e => decide (k + 1 ≤ e.1)) = [] :=
    List.filter_eq_nil_iff.2 fun e he => by simp [own e he]
  have lowHigh : (m.filter fun e => decide (k + 1 ≤ e.1)).filter (fun e => decide (e.1 < k)) = [] :=
    List.filter_eq_nil_iff.2 fun e he => by
      have := of_decide_eq_true (List.mem_filter.1 he).2
      simp only [decide_eq_true_eq]
      omega
  have highLow : (m.filter fun e => decide (e.1 < k)).filter (fun e => decide (k + 1 ≤ e.1)) = [] :=
    List.filter_eq_nil_iff.2 fun e he => by
      have := of_decide_eq_true (List.mem_filter.1 he).2
      simp only [decide_eq_true_eq]
      omega
  simp only [Sparse.set, Sparse.setRange, List.filter_append, List.length_singleton, low, high, lowHigh, highLow,
    List.filter_filter, Bool.and_self, List.append_nil, List.nil_append]

/-- What a table reads at a key stands in it, or is what an unlisted key reads. -/
theorem Sparse.get_mem {α : Type} (d : α) (m : Sparse α) (k : Nat) : (k, Sparse.get d m k) ∈ m ∨ Sparse.get d m k = d := by
  induction m with
  | nil => exact .inr rfl
  | cons e r ih =>
    obtain ⟨i, v⟩ := e
    unfold Sparse.get
    split
    · next h => exact .inl (h ▸ List.mem_cons_self)
    · exact ih.imp_left (List.mem_cons_of_mem _)

section
variable (s : State) (ch : Nat)

theorem State.onChan_onChan (g h : DmaCh → DmaCh) : (s.onChan ch g).onChan ch h = s.onChan ch fun c => h (g c) := by
  have own : (s.onChan ch g).chan ch = g (s.chan ch) := (s.onChan_chan ch ch g).trans (if_pos rfl)
  have twice := Sparse.set_set {} s.dma ch (g (s.chan ch)) (h (g (s.chan ch)))
  show (s.onChan ch g).setChan ch (h ((s.onChan ch g).chan ch)) = _
  rw [own]
  exact (congrArg (fun d : Sparse DmaCh => ({ s with dma := d } : State)) twice :)

theorem State.onChan_self (g : DmaCh → DmaCh) : (s.onChan ch g).chan ch = g (s.chan ch) :=
  (s.onChan_chan ch ch g).trans (if_pos rfl)

theorem State.onChan_other (g : DmaCh → DmaCh) {k : Nat} (hk : k ≠ ch) : (s.onChan ch g).chan k = s.chan k :=
  (s.onChan_chan k ch g).trans (if_neg (Ne.symm hk))

/-! ### The read of the next descriptor (R279) -/

theorem State.descRead_of_own {g : Got} (hg : g.status = .ok) (hd : (⟨(s.chan ch).fetch, g.data⟩ : Desc).own = true) :
    s.descRead ch g = s.onChan ch fun c => { c with
      fetched := c.fetched ++ [⟨(s.chan ch).fetch, g.data⟩]
      fetch := if c.size ≤ c.fetch + 1 then 0 else c.fetch + 1
      state := .active
      progressAt := if c.fetched.isEmpty then s.time.dev else c.progressAt } := by
  unfold State.descRead
  dsimp only
  rw [if_neg (by simp [hg]), if_pos hd]
  rfl

theorem State.descRead_of_clear {g : Got} (hg : g.status = .ok) (hd : (⟨(s.chan ch).fetch, g.data⟩ : Desc).own = false) :
    s.descRead ch g = s.onChan ch fun c => { c with
      ownStall := true
      stalled := true
      state := if c.fetched.isEmpty then .waiting else c.state } := by
  unfold State.descRead
  dsimp only
  rw [if_neg (by simp [hg]), if_neg (by simp [hd])]
  rfl

/-- What the read of the next descriptor comes to: from a device ring, or from a ring in host memory that answers. -/
def State.nextRead (s : State) (ch : Nat) : State × Got :=
  if (s.chan ch).dev then
    (s.engineCount ch 0 64).chanAccess ch { who := .dma ch, fetch := true } ((s.chan ch).slotAddr (s.chan ch).fetch) (.read 64)
  else (s.engineCount ch 0 64, { data := s.hostMem.read ((s.chan ch).slotAddr (s.chan ch).fetch) 64 })

theorem execDescriptorFetch_of_read (hw : s.working ch = true) (hs : (s.chan ch).stalled = false) (hf : (s.chan ch).fetching = false)
    (he : (s.chan ch).fetchErr = none) (hl : (s.chan ch).fetched.length < 8) (ht : (s.chan ch).fetch ≠ (s.chan ch).tail)
    (hn : (s.chan ch).finish = none)
    (hr : if (s.chan ch).dev then (s.nextRead ch).2.status = .ok
      else s.mayAskHost ch = true ∧ s.hostOk (s.chan ch).func ((s.chan ch).slotAddr (s.chan ch).fetch) 64 = true) :
    exec (.descriptorFetch ch) s = .next ((s.nextRead ch).1.descRead ch (s.nextRead ch).2) ∧ (s.nextRead ch).2.status = .ok := by
  have goes : (!s.working ch || (s.chan ch).stalled || (s.chan ch).fetching || (s.chan ch).fetchErr.isSome
      || decide (8 ≤ (s.chan ch).fetched.length) || (s.chan ch).fetch == (s.chan ch).tail || (s.chan ch).finish.isSome) = false := by
    simp [hw, hs, hf, he, ht, hn]
    omega
  have start : exec (.descriptorFetch ch) s = execDescriptorFetch ch s := rfl
  rw [start]
  unfold execDescriptorFetch
  dsimp only
  rw [if_neg (by rw [goes]; exact Bool.false_ne_true)]
  unfold State.nextRead at hr ⊢
  by_cases hd : (s.chan ch).dev = true
  · rw [if_pos hd] at hr ⊢
    rw [if_pos hd] at hr
    rw [if_pos hd, if_neg (by simp [hr])]
    exact ⟨rfl, hr⟩
  · rw [if_neg hd] at hr ⊢
    obtain ⟨hm, ho⟩ := hr
    rw [if_neg hd, if_neg (by simp [hm])]
    refine ⟨?_, rfl⟩
    unfold State.hostRead
    rw [if_pos ho]

/-! ### Descriptors begin (R283) -/

theorem State.runDesc_of_refused {d : Desc} (hd : s.desc ch = some d) (hw : s.working ch = true) (hf : (s.chan ch).finish = none)
    (hu : (s.chan ch).unanswered = false) (hr : (s.chan ch).retry = none) (hb : (s.chan ch).begun = false) {st : Status} {a : Nat}
    (hc : s.descCheck ch d = some (st, a)) {mine : Desc → Bool} (hm : mine d = true) (run : State → Desc → State) :
    s.runDesc ch mine run = s.endDesc ch st 0 a false false := by
  simp [State.runDesc, hd, hw, hf, hu, hr, hb, hc, hm]

theorem State.runDesc_of_begun {d : Desc} (hd : s.desc ch = some d) (hw : s.working ch = true) (hf : (s.chan ch).finish = none)
    (hu : (s.chan ch).unanswered = false) (hr : (s.chan ch).retry = none) (hb : (s.chan ch).begun = false)
    (hc : s.descCheck ch d = none) {mine : Desc → Bool} (hm : mine d = true) (run : State → Desc → State) :
    s.runDesc ch mine run
      = run (s.onChan ch fun c => { c with begun := true, done := 0, issued := 0, got := c.ahead, ahead := [] }) d := by
  simp [State.runDesc, hd, hw, hf, hu, hr, hb, hc, hm]

/-! ### Sluices are let go -/

theorem State.unbindAll_bound (cl : Nat) :
    ((s.unbindAll ch).cluster cl).sin.bound ≠ some ch ∧ ((s.unbindAll ch).cluster cl).sout.bound ≠ some ch := by
  have unbound : ∀ c : Cluster, (c.unbind ch).sin.bound ≠ some ch ∧ (c.unbind ch).sout.bound ≠ some ch := by
    intro c
    unfold Cluster.unbind
    dsimp only
    split <;> split <;> simp_all
  have kept : ∀ (u : State) (y : Nat), ((u.cluster cl).sin.bound ≠ some ch ∧ (u.cluster cl).sout.bound ≠ some ch) →
      (((u.onCluster y fun c => c.unbind ch).cluster cl).sin.bound ≠ some ch
        ∧ ((u.onCluster y fun c => c.unbind ch).cluster cl).sout.bound ≠ some ch) := by
    intro u y h
    rw [State.onCluster_cluster]
    split
    · exact unbound _
    · exact h
  by_cases hm : cl ∈ (s.clusters.filter fun e => e.2.sin.bound == some ch || e.2.sout.bound == some ch).map Prod.fst
  · refine State.each_establishes (P := fun u => (u.cluster cl).sin.bound ≠ some ch ∧ (u.cluster cl).sout.bound ≠ some ch) (x := cl)
      (fun u => ?_) _ s (fun u y _ h => kept u y h) hm
    rw [State.onCluster_cluster, if_pos rfl]
    exact unbound _
  · refine State.each_preserves (P := fun u => (u.cluster cl).sin.bound ≠ some ch ∧ (u.cluster cl).sout.bound ≠ some ch) _ s
      (fun u y _ h => kept u y h) ?_
    obtain h | h := Sparse.get_mem {} s.clusters cl
    · have free : ¬((s.cluster cl).sin.bound == some ch || (s.cluster cl).sout.bound == some ch) = true := fun b =>
        hm (List.mem_map.2 ⟨_, List.mem_filter.2 ⟨h, b⟩, rfl⟩)
      simpa using free
    · unfold State.cluster
      rw [h]
      exact ⟨nofun, nofun⟩

/-- The module without its clusters. -/
def State.sansClusters (s : State) : State := { s with clusters := [] }

theorem State.unbindAll_sansClusters : (s.unbindAll ch).sansClusters = s.sansClusters :=
  State.each_keeps (F := State.sansClusters) (g := fun u cl => u.onCluster cl fun c => c.unbind ch) (fun _ _ => rfl) _ s

theorem State.unbindAll_eq : s.unbindAll ch = { s with clusters := (s.unbindAll ch).clusters } :=
  (congrArg (fun u : State => { u with clusters := (s.unbindAll ch).clusters }) (s.unbindAll_sansClusters ch) :)

end

end Sys2Proof.Machine
end

section
/-! SUPPORT. Descriptors: the write-back to a ring in host memory, and the halt of a channel (R281, R287). -/

namespace Sys2Proof.Machine

section
variable (s : State) (ch : Nat)

/-! ### The write-back of a host ring -/

theorem State.signal_dma (f v : Nat) : (s.signal f v).dma = s.dma :=
  (congrArg State.dma ((sendsTo_signal (f := f) s v).1.sansSends_eq) :)

theorem State.signal_chan (f v k : Nat) : (s.signal f v).chan k = s.chan k := by
  unfold State.chan
  rw [s.signal_dma]

theorem State.hostOk_part {f a b n m : Nat} (h : s.hostOk f a n = true) (hb : a ≤ b) (he : b + m ≤ a + n) : s.hostOk f b m = true := by
  unfold State.hostOk at h ⊢
  simp only [Bool.or_eq_true, beq_iff_eq, Bool.not_eq_true'] at h ⊢
  by_cases hm : m = 0
  · exact .inl hm
  · refine .inr ?_
    obtain hn | h := h
    · exact absurd hn (by omega)
    · rw [List.any_eq_false] at h ⊢
      intro e hmem
      have := h e hmem
      simp only [Bool.and_eq_true, beq_iff_eq, decide_eq_true_eq] at this ⊢
      rintro ⟨⟨hf, hlo⟩, hhi⟩
      have low : a / 4096 ≤ b / 4096 := Nat.div_le_div_right hb
      have high : (b + m - 1) / 4096 ≤ (a + n - 1) / 4096 := Nat.div_le_div_right (by omega)
      exact this ⟨⟨hf, by omega⟩, by omega⟩

/-- A channel as its descriptor's write-back leaves it. -/
def DmaCh.retired (c : DmaCh) (d : Desc) (rest : List Desc) (now : Nat) : DmaCh :=
  let head := if c.size ≤ d.index + 1 then 0 else d.index + 1
  { c with
    fetched := rest, begun := false, done := 0, finish := none, got := [], walk := none, awaited := [], failed := none
    retry := none, retryAccess := [], parked := 0, issued := 0, remote := 0, head := head, life := c.life + 1
    progressAt := now
    state := if c.state == .active && (head == c.tail || (rest.isEmpty && c.stalled)) then .waiting else c.state }

/-- The state before the write-back's writes. -/
def State.retiring (s : State) (ch : Nat) (d : Desc) (rest : List Desc) : State :=
  (s.unbindAll ch).setChan ch ((s.chan ch).retired d rest s.time.dev)

/-- Word 0 of a descriptor written back (R281). -/
def Desc.closed (d : Desc) (st : Status) : Nat := d.word0 - b2n d.own - bits d.word0 40 8 * 2 ^ 40 + st.code * 2 ^ 40

/-- What became of a write-back. -/
def State.retireEnd (ch : Nat) (d : Desc) (c : DmaCh) (st : Status) (r : State × Wrote) : State × Option Nat :=
  match r.2 with
  | .well => (if st == .ok && d.irq then r.1.signal c.func c.vector else r.1, none)
  | .device g => (r.1.ringFail ch g (c.slotAddr d.index) true, none)
  | .host x => (r.1, some x)

theorem State.retire_eq {d : Desc} {rest : List Desc} (h : (s.chan ch).fetched = d :: rest) (st : Status) (done : Nat) :
    s.retire ch st done = State.retireEnd ch d (s.chan ch) st
      ((s.retiring ch d rest).writeRing ch ((s.chan ch).slotAddr d.index) done (d.closed st)) := by
  unfold State.retire
  dsimp only
  rw [h]
  rfl

theorem State.retiring_dma (d : Desc) (rest : List Desc) :
    (s.retiring ch d rest).dma = Sparse.set {} s.dma ch ((s.chan ch).retired d rest s.time.dev) := by
  have same : (s.unbindAll ch).dma = s.dma := (congrArg State.dma (s.unbindAll_sansClusters ch) :)
  show Sparse.set {} (s.unbindAll ch).dma ch _ = _
  rw [same]

theorem State.retiring_chan (d : Desc) (rest : List Desc) (k : Nat) :
    (s.retiring ch d rest).chan k = if ch = k then (s.chan ch).retired d rest s.time.dev else s.chan k := by
  unfold State.chan
  rw [State.retiring_dma]
  exact Sparse.get_set ..

/-- Writing to a ring in host memory changes host memory and an engine's count. -/
theorem State.writeRing_host (hd : (s.chan ch).dev = false) (a done w0 : Nat) :
    ∃ m, (s.writeRing ch a done w0).1 = { s.engineCount ch 0 16 with hostMem := m } ∧ ∀ g, (s.writeRing ch a done w0).2 ≠ .device g := by
  unfold State.writeRing State.hostWrite
  dsimp only
  rw [if_neg (by simp [hd])]
  split <;> split <;> exact ⟨_, rfl, by simp⟩

theorem State.writeRing_of_ok (hd : (s.chan ch).dev = false) {a : Nat} (ho : s.hostOk (s.chan ch).func a 64 = true) (done w0 : Nat) :
    s.writeRing ch a done w0 = ({ s.engineCount ch 0 16 with
      hostMem := (s.hostMem.write (a + 48) (leBytes 8 done)).write a (leBytes 8 w0) }, .well) := by
  have one : s.hostOk (s.chan ch).func (a + 48) (leBytes 8 done).length = true :=
    s.hostOk_part ho (Nat.le_add_right a 48) (by rw [leBytes_length]; omega)
  have two : s.hostOk (s.chan ch).func a (leBytes 8 w0).length = true :=
    s.hostOk_part ho (Nat.le_refl a) (by rw [leBytes_length]; omega)
  have first : (s.engineCount ch 0 16).hostWrite (s.chan ch).func (a + 48) (leBytes 8 done)
      = some { s.engineCount ch 0 16 with hostMem := s.hostMem.write (a + 48) (leBytes 8 done) } := if_pos one
  have second : State.hostWrite { s.engineCount ch 0 16 with hostMem := s.hostMem.write (a + 48) (leBytes 8 done) } (s.chan ch).func a (leBytes 8 w0)
      = some { s.engineCount ch 0 16 with hostMem := (s.hostMem.write (a + 48) (leBytes 8 done)).write a (leBytes 8 w0) } := if_pos two
  unfold State.writeRing
  dsimp only
  rw [if_neg (by simp [hd])]
  simp only [first, second, Option.getD_some, Option.isNone_some, Bool.false_eq_true, if_false]

/-! ### A channel halts -/

/-- Channel `ch` has not been disabled, and no other channel has changed, nor the error mode of its engine. -/
structure State.StillOn (s t : State) (ch : Nat) : Prop where
  on : (t.chan ch).state ≠ .disabled
  others : ∀ k, k ≠ ch → t.chan k = s.chan k
  mode : (t.engine (engineOf ch)).stopAll = (s.engine (engineOf ch)).stopAll

theorem State.engineCount_mode (c kind n b : Nat) : ((s.engineCount c kind n).engine b).stopAll = (s.engine b).stopAll := by
  unfold State.engineCount
  rw [State.onEngine_engine]
  split
  · next h => subst h; rfl
  · rfl

theorem State.StillOn.onChan {s t : State} {ch : Nat} (h : s.StillOn t ch) {g : DmaCh → DmaCh}
    (hg : (g (t.chan ch)).state = (t.chan ch).state) : s.StillOn (t.onChan ch g) ch where
  on := by rw [State.onChan_self, hg]; exact h.on
  others k hk := (t.onChan_other ch g hk).trans (h.others k hk)
  mode := h.mode

theorem DmaCh.retired_state {c : DmaCh} (h : c.state ≠ .disabled) (d : Desc) (rest : List Desc) (now : Nat) :
    (c.retired d rest now).state ≠ .disabled := by
  unfold DmaCh.retired
  dsimp only
  generalize (if c.size ≤ d.index + 1 then 0 else d.index + 1) = head
  split
  · simp
  · exact h

/-- A write-back to a host ring leaves the channel on. -/
theorem State.retire_stillOn (hd : (s.chan ch).dev = false) (hs : (s.chan ch).state ≠ .disabled) (st : Status) (done : Nat) :
    s.StillOn (s.retire ch st done).1 ch := by
  cases h : (s.chan ch).fetched with
  | nil =>
    have same : s.retire ch st done = (s, none) := by simp [State.retire, h]
    rw [same]
    exact ⟨hs, fun _ _ => rfl, rfl⟩
  | cons d rest =>
    rw [s.retire_eq ch h]
    have host : ((s.retiring ch d rest).chan ch).dev = false := by
      rw [State.retiring_chan, if_pos rfl]
      exact hd
    obtain ⟨m, first, second⟩ := (s.retiring ch d rest).writeRing_host ch host ((s.chan ch).slotAddr d.index) done (d.closed st)
    have written : s.StillOn ((s.retiring ch d rest).writeRing ch ((s.chan ch).slotAddr d.index) done (d.closed st)).1 ch := by
      rw [first]
      have chan : ∀ k, State.chan { (s.retiring ch d rest).engineCount ch 0 16 with hostMem := m } k = (s.retiring ch d rest).chan k := fun _ => rfl
      refine ⟨?_, fun k hk => ?_, ?_⟩
      · rw [chan, State.retiring_chan, if_pos rfl]
        exact DmaCh.retired_state hs d rest _
      · rw [chan, State.retiring_chan, if_neg (Ne.symm hk)]
      · have engines : (s.unbindAll ch).engines = s.engines := (congrArg State.engines (s.unbindAll_sansClusters ch) :)
        refine ((s.retiring ch d rest).engineCount_mode ch 0 16 (engineOf ch)).trans ?_
        exact congrArg (fun m => (Sparse.get ({} : Engine) m (engineOf ch)).stopAll) engines
    have signalled : ∀ {u : State} (f v : Nat), s.StillOn u ch → s.StillOn (u.signal f v) ch := by
      intro u f v hu
      refine ⟨by rw [State.signal_chan]; exact hu.on, fun k hk => by rw [State.signal_chan]; exact hu.others k hk, ?_⟩
      have engines : (u.signal f v).engines = u.engines := (congrArg State.engines ((sendsTo_signal (f := f) u v).1.sansSends_eq) :)
      exact (congrArg (fun m => (Sparse.get ({} : Engine) m (engineOf ch)).stopAll) engines).trans hu.mode
    unfold State.retireEnd
    split
    · split
      · exact signalled _ _ written
      · exact written
    · next g hg => exact absurd hg (second g)
    · exact written

/-- A channel as an error or a stop halts it (R287). -/
structure State.Halts (s t : State) (ch : Nat) (st : Status) (addr : Nat) (write stop : Bool) : Prop where
  state : (t.chan ch).state = .halted
  code : (t.chan ch).code = st
  addr : (t.chan ch).errAddr = addr % 2 ^ 64
  dir : (t.chan ch).dir = write
  stop : (t.chan ch).engStop = stop
  others : ∀ k, k ≠ ch → t.chan k = s.chan k
  mode : (t.engine (engineOf ch)).stopAll = (s.engine (engineOf ch)).stopAll

theorem State.StillOn.halts {s u : State} {ch : Nat} (h : s.StillOn u ch) (st : Status) (addr : Nat) (write stop : Bool) :
    s.Halts (u.haltChan ch st addr write stop) ch st addr write stop := by
  have own : (u.haltChan ch st addr write stop).chan ch = { u.chan ch with
      state := .halted, code := st, errAddr := addr % 2 ^ 64, dir := write, engStop := stop } := by
    unfold State.haltChan
    rw [State.signal_chan, State.onChan_self]
  have engines : (u.haltChan ch st addr write stop).engines = u.engines :=
    (congrArg State.engines ((sendsTo_signal (f := (u.chan ch).func) (u.onChan ch fun c => { c with
      state := .halted, code := st, errAddr := addr % 2 ^ 64, dir := write, engStop := stop }) (u.chan ch).vector).1.sansSends_eq) :)
  refine ⟨by rw [own], by rw [own], by rw [own], by rw [own], by rw [own], fun k hk => ?_, ?_⟩
  · unfold State.haltChan
    rw [State.signal_chan, State.onChan_other _ _ _ hk]
    exact h.others k hk
  · exact (congrArg (fun m => (Sparse.get ({} : Engine) m (engineOf ch)).stopAll) engines).trans h.mode

/-- A channel whose running descriptor ends: it waits for writes that are out, or has nothing left (R281). -/
def DmaCh.ended (c : DmaCh) (out : Bool) : DmaCh :=
  { (if out then c.ending else c.idle) with fetched := c.fetched.take 1, fetch := c.head }

theorem DmaCh.ended_on (c : DmaCh) (out : Bool) : (c.ended out).state = c.state ∧ (c.ended out).dev = c.dev := by
  cases out <;> exact ⟨rfl, rfl⟩

/-- What runs ends, before its channel halts (R281). -/
def State.endRun (s : State) (ch : Nat) (st : Status) (done : Nat) : State × Option Nat :=
  let out := !(s.chan ch).fetched.isEmpty && s.writesOut ch
  let u := s.setChan ch ((s.chan ch).ended out)
  if (s.chan ch).fetched.isEmpty then (u, none)
  else if !out && u.mayRetire ch then
    ((u.retire ch st done).1.onChan ch fun c => { c with fetch := c.head }, (u.retire ch st done).2)
  else (u.onChan ch fun c => { c with finish := some (st, done) }, none)

theorem State.endChan_eq (st : Status) (done addr : Nat) (write stop : Bool) : s.endChan ch st done addr write stop
    = (if ((s.endRun ch st done).1.chan ch).state == .disabled then (s.endRun ch st done).1
      else (s.endRun ch st done).1.haltChan ch st addr write stop, (s.endRun ch st done).2) := rfl

/-- The end of what runs on a host ring leaves the channel on. -/
theorem State.endRun_stillOn (hd : (s.chan ch).dev = false) (hs : (s.chan ch).state ≠ .disabled) (st : Status) (done : Nat) :
    s.StillOn (s.endRun ch st done).1 ch := by
  unfold State.endRun
  dsimp only
  generalize (!(s.chan ch).fetched.isEmpty && s.writesOut ch) = out
  obtain ⟨state, dev⟩ := (s.chan ch).ended_on out
  have own : (s.setChan ch ((s.chan ch).ended out)).chan ch = (s.chan ch).ended out :=
    (s.onChan_chan ch ch fun _ => (s.chan ch).ended out).trans (if_pos rfl)
  have base : s.StillOn (s.setChan ch ((s.chan ch).ended out)) ch :=
    ⟨by rw [own, state]; exact hs, fun k hk => (s.onChan_chan k ch fun _ => (s.chan ch).ended out).trans (if_neg (Ne.symm hk)), rfl⟩
  split
  · exact base
  · split
    · have retired := (s.setChan ch ((s.chan ch).ended out)).retire_stillOn ch (by rw [own, dev, hd]) base.on st done
      have joined : s.StillOn ((s.setChan ch ((s.chan ch).ended out)).retire ch st done).1 ch :=
        ⟨retired.on, fun k hk => (retired.others k hk).trans (base.others k hk), retired.mode.trans base.mode⟩
      exact joined.onChan (g := fun c => { c with fetch := c.head }) rfl
    · exact base.onChan (g := fun c => { c with finish := some (st, done) }) rfl

theorem State.endChan_halts (hd : (s.chan ch).dev = false) (hs : (s.chan ch).state ≠ .disabled) (st : Status) (done addr : Nat)
    (write stop : Bool) : s.Halts (s.endChan ch st done addr write stop).1 ch st addr write stop := by
  have still := s.endRun_stillOn ch hd hs st done
  rw [State.endChan_eq, if_neg (by simp [still.on])]
  exact still.halts st addr write stop

/-- An error ends what runs on a host ring and halts its channel alone (R287). -/
theorem State.endDesc_halts (hd : (s.chan ch).dev = false) (hs : (s.chan ch).state ≠ .disabled)
    (hm : (s.engine (engineOf ch)).stopAll = false) (st : Status) (done addr : Nat) (write stop : Bool) :
    s.Halts (s.endDesc ch st done addr write stop) ch st addr write stop := by
  have ended := s.endChan_halts ch hd hs st done addr write stop
  have same : s.endDesc ch st done addr write stop = (s.endChan ch st done addr write stop).1 := by
    unfold State.endDesc State.reported
    split
    · rfl
    · unfold State.ringBus
      rw [if_neg (by rw [ended.mode, hm]; exact Bool.false_ne_true)]
      exact if_neg (by simp [State.working, ended.state])
  rw [same]
  exact ended

theorem State.on_of_working (hw : s.working ch = true) : (s.chan ch).state ≠ .disabled := by
  intro h
  simp [State.working, h] at hw

end

end Sys2Proof.Machine
end

section
/-! Descriptors are read, checked, written back, and ended by errors (R278-R289). -/

namespace Sys2Proof.Machine

section
variable (s : State) (ch : Nat)

/-! ### The write-back of a descriptor that ends well -/

/-- The state after the write-back of a host ring whose page answers (R281). -/
def State.writtenBack (s : State) (ch : Nat) (d : Desc) (rest : List Desc) (done : Nat) : State :=
  { (s.retiring ch d rest).engineCount ch 0 16 with
    hostMem := (s.hostMem.write ((s.chan ch).slotAddr d.index + 48) (leBytes 8 done)).write ((s.chan ch).slotAddr d.index)
      (leBytes 8 (d.closed .ok)) }

theorem State.writtenBack_chan (d : Desc) (rest : List Desc) (done k : Nat) : (s.writtenBack ch d rest done).chan k
    = if ch = k then (s.chan ch).retired d rest s.time.dev else s.chan k := s.retiring_chan ch d rest k

theorem State.writtenBack_frame (d : Desc) (rest : List Desc) (done : Nat) : s.writtenBack ch d rest done = { s with
    dma := (s.writtenBack ch d rest done).dma
    hostMem := (s.writtenBack ch d rest done).hostMem
    clusters := (s.writtenBack ch d rest done).clusters
    engines := (s.writtenBack ch d rest done).engines } :=
  (congrArg (fun u : State => { u with
    dma := (s.writtenBack ch d rest done).dma
    hostMem := (s.writtenBack ch d rest done).hostMem
    clusters := (s.writtenBack ch d rest done).clusters
    engines := (s.writtenBack ch d rest done).engines }) (s.unbindAll_eq ch) :)

theorem State.retiring_hostMem (d : Desc) (rest : List Desc) : (s.retiring ch d rest).hostMem = s.hostMem :=
  (congrArg State.hostMem (s.unbindAll_sansClusters ch) :)

theorem State.retiring_hostOk (d : Desc) (rest : List Desc) (f a n : Nat) : (s.retiring ch d rest).hostOk f a n = s.hostOk f a n := by
  have same : (s.retiring ch d rest).hostErr = s.hostErr := (congrArg State.hostErr (s.unbindAll_sansClusters ch) :)
  unfold State.hostOk
  rw [same]

variable {s ch}

theorem State.retire_of_ok {d : Desc} {rest : List Desc} (h : (s.chan ch).fetched = d :: rest) (hd : (s.chan ch).dev = false)
    (ho : s.hostOk (s.chan ch).func ((s.chan ch).slotAddr d.index) 64 = true) (done : Nat) :
    s.retire ch .ok done = (if d.irq then (s.writtenBack ch d rest done).signal (s.chan ch).func (s.chan ch).vector
      else s.writtenBack ch d rest done, none) := by
  have own : (s.retiring ch d rest).chan ch = (s.chan ch).retired d rest s.time.dev := (s.retiring_chan ch d rest ch).trans (if_pos rfl)
  rw [s.retire_eq ch h, State.writeRing_of_ok _ _ (by rw [own]; exact hd) (by rw [own, State.retiring_hostOk]; exact ho),
    State.retiring_hostMem]
  unfold State.retireEnd State.writtenBack
  cases d.irq <;> rfl

theorem execDescriptorWriteBack_of_ok {d : Desc} {rest : List Desc} {done : Nat} (h : (s.chan ch).fetched = d :: rest)
    (hf : (s.chan ch).finish = some (.ok, done)) (hst : (s.chan ch).state = .active) (hp : (s.chan ch).parked = 0)
    (hr : (s.chan ch).retryAccess = []) (hm : (s.chan ch).remote = 0) (hd : (s.chan ch).dev = false)
    (he : (s.chan ch).fetchErr = none ∨ rest ≠ []) (ha : s.mayAskHost ch = true)
    (ho : s.hostOk (s.chan ch).func ((s.chan ch).slotAddr d.index) 64 = true) :
    exec (.descriptorWriteBack ch) s = .next (if d.irq then (s.writtenBack ch d rest done).signal (s.chan ch).func (s.chan ch).vector
      else s.writtenBack ch d rest done) := by
  have may : s.mayRetire ch = true := by simp [State.mayRetire, hd, ha]
  have start : exec (.descriptorWriteBack ch) s = execDescriptorWriteBack ch s := rfl
  have written := State.retire_of_ok h hd ho done
  have own : ∀ u : State, (u = s.writtenBack ch d rest done ∨ u = (s.writtenBack ch d rest done).signal (s.chan ch).func (s.chan ch).vector) →
      u.chan ch = (s.chan ch).retired d rest s.time.dev := by
    rintro u (rfl | rfl)
    · exact (State.writtenBack_chan ..).trans (if_pos rfl)
    · rw [State.signal_chan]
      exact (State.writtenBack_chan ..).trans (if_pos rfl)
  have calm : ∀ u : State, u.chan ch = (s.chan ch).retired d rest s.time.dev → u.fetchFail ch = u := by
    intro u hu
    unfold State.fetchFail
    dsimp only
    rw [hu]
    obtain he | he := he
    · rw [show ((s.chan ch).retired d rest s.time.dev).fetchErr = none from he]
      cases rest <;> rfl
    · obtain ⟨e, r, rfl⟩ := List.exists_cons_of_ne_nil he
      rfl
  rw [start]
  unfold execDescriptorWriteBack
  simp only [hf, hp, hr, hm, may, hst, written]
  refine congrArg Host.Outcome.next (calm _ (own _ ?_))
  cases d.irq
  · exact .inl rfl
  · exact .inr rfl

theorem State.signal_clusters (f v : Nat) : (s.signal f v).clusters = s.clusters :=
  (congrArg State.clusters ((sendsTo_signal (f := f) s v).1.sansSends_eq) :)

theorem State.writtenBack_hostMem (d : Desc) (rest : List Desc) (done : Nat) : (s.writtenBack ch d rest done).hostMem
    = (s.hostMem.write ((s.chan ch).slotAddr d.index + 48) (leBytes 8 done)).write ((s.chan ch).slotAddr d.index)
      (leBytes 8 (d.closed .ok)) := rfl

/-- Two words of a descriptor written, the second below the first. -/
theorem Memory.read_two_words (m : Memory) (a : Nat) {v w : List Byte} (hv : v.length = 8) (hw : w.length = 8) :
    ((m.write (a + 48) v).write a w).read (a + 48) 8 = v ∧ ((m.write (a + 48) v).write a w).read a 8 = w
      ∧ ∀ x, ¬(a ≤ x ∧ x < a + 8) → ¬(a + 48 ≤ x ∧ x < a + 56) → ((m.write (a + 48) v).write a w).byte x = m.byte x := by
  refine ⟨?_, ?_, fun x h0 h6 => ?_⟩
  · have first := (m.write (a + 48) v).read_eq (a + 48) 8
    rw [← hv, Memory.read_write, hv] at first
    refine (Memory.read_eq ..).trans (Eq.trans ?_ first.symm)
    refine List.map_congr_left fun x hx => Memory.byte_write_outside _ _ _ _ (.inr ?_)
    rw [List.mem_range'_1] at hx
    omega
  · rw [← hw]
    exact Memory.read_write ..
  · rw [Memory.byte_write_outside _ _ _ _ (by omega), Memory.byte_write_outside _ _ _ _ (by omega)]

theorem Desc.closed_ok (d : Desc) : d.closed .ok = d.word0 - b2n d.own - bits d.word0 40 8 * 2 ^ 40 := by
  simp [Desc.closed, Status.code]

theorem execDescriptorWriteBack_runs {d : Desc} {rest : List Desc} {done : Nat} (h : (s.chan ch).fetched = d :: rest)
    (hf : (s.chan ch).finish = some (.ok, done)) (hst : (s.chan ch).state = .active) (hp : (s.chan ch).parked = 0)
    (hr : (s.chan ch).retryAccess = []) (hm : (s.chan ch).remote = 0) (hd : (s.chan ch).dev = false)
    (he : (s.chan ch).fetchErr = none ∨ rest ≠ []) (ha : s.mayAskHost ch = true)
    (ho : s.hostOk (s.chan ch).func ((s.chan ch).slotAddr d.index) 64 = true) :
    ∃ t, exec (.descriptorWriteBack ch) s = .next t ∧ t.hostMem = (s.writtenBack ch d rest done).hostMem
      ∧ t.chan ch = (s.chan ch).retired d rest s.time.dev ∧ (∀ k, k ≠ ch → t.chan k = s.chan k)
      ∧ (∀ cl, (t.cluster cl).sin.bound ≠ some ch ∧ (t.cluster cl).sout.bound ≠ some ch)
      ∧ (d.irq = false → t = { s with dma := t.dma, hostMem := t.hostMem, clusters := t.clusters, engines := t.engines }) := by
  have own := s.writtenBack_chan ch d rest done
  refine ⟨_, execDescriptorWriteBack_of_ok h hf hst hp hr hm hd he ha ho, ?_⟩
  cases hi : d.irq with
  | false =>
    rw [if_neg Bool.false_ne_true]
    exact ⟨rfl, (own ch).trans (if_pos rfl), fun k hk => (own k).trans (if_neg (Ne.symm hk)), s.unbindAll_bound ch,
      fun _ => s.writtenBack_frame ch d rest done⟩
  | true =>
    rw [if_pos rfl]
    refine ⟨State.signal_hostMem .., ?_, fun k hk => ?_, ?_, fun h => absurd h.symm Bool.false_ne_true⟩
    · rw [State.signal_chan]
      exact (own ch).trans (if_pos rfl)
    · rw [State.signal_chan]
      exact (own k).trans (if_neg (Ne.symm hk))
    · unfold State.cluster
      rw [State.signal_clusters]
      exact s.unbindAll_bound ch

/-! ### Retries (R288) -/

/-- A near-bank command that got HELD reaches its dispatcher. -/
theorem execHeldRetry_of_command {k : Nat} {cmd : NbCmd} (hr : (s.chan ch).retry = some (k, cmd))
    (ht : s.turnedAway (.dma ch) (2 ^ 61 + k) none = false) (hl : (s.stack k).dispatch.length < 8) :
    exec (.heldRetry ch) s = .next (((((s.onChan ch fun c => { c with held := satAdd 32 c.held 1, retry := none }).progress ch).engineCount
      ch 1 1).engineCount ch 0 (cmd.header.length + cmd.payload.length)).onStack k fun x => { x with dispatch := x.dispatch ++ [cmd] }) := by
  have start : exec (.heldRetry ch) s = execHeldRetry ch s := rfl
  have sent : ∀ u : State, u.turnedAway (.dma ch) (2 ^ 61 + k) none = false → (u.stack k).dispatch.length < 8 →
      u.sendNb ch k cmd = (((u.progress ch).engineCount ch 1 1).engineCount ch 0 (cmd.header.length + cmd.payload.length)).onStack k
        fun x => { x with dispatch := x.dispatch ++ [cmd] } := by
    intro u h1 h2
    unfold State.sendNb
    rw [if_neg (by rw [h1]; exact Bool.false_ne_true), if_pos h2]
  rw [start]
  unfold execHeldRetry
  simp only [hr]
  exact congrArg Host.Outcome.next (sent _ ht hl)

/-- The module without its channels, stacks and engines. -/
def State.sansRetry (s : State) : State := { s with dma := [], edgeStacks := [], engines := [] }

theorem State.eq_of_sansRetry {s t : State} (h : t.sansRetry = s.sansRetry) :
    t = { s with dma := t.dma, edgeStacks := t.edgeStacks, engines := t.engines } :=
  (congrArg (fun u : State => { u with dma := t.dma, edgeStacks := t.edgeStacks, engines := t.engines }) h :)

theorem State.sentNb_sansRetry (g : DmaCh → DmaCh) (m n k : Nat) (f : Stack → Stack) :
    (((((s.onChan ch g).progress ch).engineCount ch 1 m).engineCount ch 0 n).onStack k f).sansRetry = s.sansRetry := by
  have chan : ∀ (u : State) h, (u.onChan ch h).sansRetry = u.sansRetry := fun _ _ => rfl
  have count : ∀ (u : State) i j, (u.engineCount ch i j).sansRetry = u.sansRetry := fun _ _ _ => rfl
  have stack : ∀ u : State, (u.onStack k f).sansRetry = u.sansRetry := fun _ => rfl
  rw [stack, count, count, State.progress, chan, chan]

theorem State.sentNb_stack (g : DmaCh → DmaCh) (m n k : Nat) (f : Stack → Stack) (j : Nat) :
    (((((s.onChan ch g).progress ch).engineCount ch 1 m).engineCount ch 0 n).onStack k f).stack j
      = if k = j then f (s.stack k) else s.stack j := by
  have chan : ∀ (u : State) h i, (u.onChan ch h).stack i = u.stack i := fun _ _ _ => rfl
  have count : ∀ (u : State) i j x, (u.engineCount ch i j).stack x = u.stack x := fun _ _ _ _ => rfl
  rw [State.onStack_stack, count, count, State.progress, chan, chan, count, count, chan, chan]

theorem State.sentNb_chan (g : DmaCh → DmaCh) (m n k : Nat) (f : Stack → Stack) :
    (((((s.onChan ch g).progress ch).engineCount ch 1 m).engineCount ch 0 n).onStack k f).chan ch
      = { g (s.chan ch) with progressAt := s.time.dev } := by
  have count : ∀ (u : State) i j x, (u.engineCount ch i j).chan x = u.chan x := fun _ _ _ _ => rfl
  have stack : ∀ (u : State) x, (u.onStack k f).chan x = u.chan x := fun _ _ => rfl
  have dev : ∀ (u : State) h, (u.onChan ch h).time = u.time := fun _ _ => rfl
  rw [stack, count, count, State.progress, State.onChan_self, State.onChan_self, dev]

/-- No progress for TIMEOUT_MS (R289). -/
theorem execDescriptorTimeout_of_early (ht : s.time.dev < (s.chan ch).progressAt + (s.chan ch).timeoutMs * 100000) :
    exec (.descriptorTimeout ch) s = .next s :=
  if_pos (by simp [ht])

theorem execDescriptorTimeout_of_late (hw : s.working ch = true) (hl : (s.chan ch).fetched ≠ [])
    (ht : (s.chan ch).progressAt + (s.chan ch).timeoutMs * 100000 ≤ s.time.dev) :
    exec (.descriptorTimeout ch) s = .next (s.endDesc ch .timeout (s.chan ch).done 0 false false) := by
  have some_ : (s.chan ch).fetched.isEmpty = false := by simpa using hl
  exact if_neg (by simp [hw, Nat.not_lt.2 ht, some_])

/-! ### Errors (R287, R289) -/

/-- Whether the place of a failing access cannot hold an uncorrectable word of the job (R207, R223). -/
def State.noWord (s : State) (a : Nat) : Bool :=
  match s.home a with
  | some (e, _) => (s.edgeCh e).state == .failed
  | none => !inScratch a

theorem execDeviceAccessError_of_running {st : Status} (hst : st ∈ [Status.bound, .domainOff, .channelBusy, .hwError])
    (hw : s.working ch = true) (hd : s.desc ch ≠ none) (hf : (s.chan ch).finish = none) (x : U64) (w : Bool) :
    exec (.deviceAccessError ch st.code x w) s = .next ((s.endDesc ch st (s.chan ch).done x.toNat w false).jobFail (s.chan ch).polder
      x.toNat (st == .hwError && !w && !s.noWord x.toNat)) := by
  have code : Status.ofCode st.code = st := by
    revert hst
    cases st <;> decide
  have listed : (st == .bound || st == .domainOff || st == .channelBusy || st == .hwError) = true := by
    simpa [or_assoc] using hst
  have running : ¬((s.desc ch).isNone || (s.chan ch).finish.isSome) = true := by
    simp [hd, hf]
  have start : exec (.deviceAccessError ch st.code x w) s = execDeviceAccessError ch st.code x w s := rfl
  have failed : ∀ a u, s.devFail ch st a w u = (s.endDesc ch st (s.chan ch).done a w false).jobFail (s.chan ch).polder a u := by
    intro a u
    unfold State.devFail
    rw [if_neg (by simp [hw])]
  rw [start]
  unfold execDeviceAccessError
  rw [code]
  dsimp only
  rw [if_neg running, if_pos listed, failed]
  rfl

/-- A completion of a near-bank unit at the front of its channel's queue (R233, R285). -/
theorem execNbCompletion_cases {e : Nat} {x : NbDone} {rest : List NbDone} (h : (s.edgeCh e).done = x :: rest) (hx : x.dma = ch) :
    let c := s.chan ch
    let gone := s.onEdgeCh e fun k => { k with done := rest }
    (c.life ≠ x.life → exec (.nbCompletion e) s = .next gone)
    ∧ (∀ d, c.life = x.life → c.begun = true → c.finish = none → c.unanswered = false → c.walk = none → c.fetched.head? = some d →
        x.channel ∈ c.awaited → d.dstDev = true ∨ s.mayAskHost ch = true →
        exec (.nbCompletion e) s = .next ((gone.progress ch).nbcmdDone d x))
    ∧ (∀ w, c.life = x.life → c.begun = true → c.finish = none → c.unanswered = false → c.walk = some w →
        exec (.nbCompletion e) s = .next ((gone.progress ch).walkDone x w)) := by
  intro c gone
  have start : exec (.nbCompletion e) s = execNbCompletion e s := rfl
  subst hx
  rw [start]
  unfold execNbCompletion
  simp only [h]
  refine ⟨fun hl => ?_, fun d hl hb hf hu hk hd ha hm => ?_, fun w hl hb hf hu hk => ?_⟩
  · rw [if_pos (by simp [show (s.chan x.dma).life ≠ x.life from hl])]
  · rw [if_neg (by simp [c, hl, hb, hf]), if_neg (by simp [c, hu])]
    rw [show (s.chan x.dma).walk = none from hk, show (s.chan x.dma).fetched.head? = some d from hd]
    dsimp only
    rw [if_neg (by simp [show x.channel ∈ (s.chan x.dma).awaited from ha]), if_neg ?_]
    rcases hm with hm | hm <;> simp [hm]
  · rw [if_neg (by simp [c, hl, hb, hf]), if_neg (by simp [c, hu])]
    rw [show (s.chan x.dma).walk = some w from hk]

end

end Sys2Proof.Machine

open Sys2Proof Sys2Proof.Machine

/-- Settles O42: each row of a channel by the lemma about it; a halt by `endDesc_halts`. -/
theorem dmaDescriptorsAreTakenAndRetired : Obligations.DmaDescriptorsAreTakenAndRetired := by
  unfold Obligations.DmaDescriptorsAreTakenAndRetired
  intro s ch c quiet a u r d
  have answered : quiet → c.finish = none ∧ c.unanswered = false ∧ c.retry = none := by
    rintro ⟨hf, hp, hr, hm, hn⟩
    exact ⟨hf, by simp [DmaCh.unanswered, hp, hr, hm], hn⟩
  refine ⟨?_, ?_, ?_, ?_, ?_, ?_, ?_, ?_, ?_, ?_⟩
  · intro hw hs hf he hl ht hn hr
    obtain ⟨run, ok⟩ := execDescriptorFetch_of_read s ch hw hs hf he hl ht hn hr
    refine ⟨fun hd => ?_, fun hd => ?_⟩
    · exact run.trans (congrArg Host.Outcome.next (State.descRead_of_own r.1 ch ok hd))
    · exact run.trans (congrArg Host.Outcome.next (State.descRead_of_clear r.1 ch ok hd))
  · intro d hd hw hq hb
    obtain ⟨hf, hu, hn⟩ := answered hq
    refine ⟨fun hop hc => ?_, fun st x hc i hi => ?_⟩
    · refine congrArg Host.Outcome.next ((State.runDesc_of_begun s ch hd hw hf hu hn hb hc (by simp [hop]) _).trans ?_)
      exact State.onChan_onChan s ch _ _
    · have refused : ∀ mine : Desc → Bool, mine d = true → ∀ run, s.runDesc ch mine run = s.endDesc ch st 0 x false false :=
        fun mine hm run => State.runDesc_of_refused s ch hd hw hf hu hn hb hc hm run
      simp only [List.mem_cons, Prod.mk.injEq, List.not_mem_nil, or_false] at hi
      obtain ⟨rfl, hm⟩ | ⟨rfl, hm⟩ | ⟨rfl, hm⟩ | ⟨rfl, hm⟩ | ⟨rfl, hm⟩ | ⟨rfl, hm⟩ | ⟨rfl, hm⟩ | ⟨rfl, hm⟩ | ⟨rfl, hm⟩ | ⟨rfl, hm⟩ := hi <;>
        exact congrArg Host.Outcome.next (refused _ hm.symm _)
  · intro d rest done h hf hst hp hr hm hd he ha _ ho
    obtain ⟨t, run, mem, own, others, sluices, frame⟩ := execDescriptorWriteBack_runs h hf hst hp hr hm hd he ha ho
    obtain ⟨six, zero, outside⟩ := Memory.read_two_words s.hostMem (c.slotAddr d.index) (v := leBytes 8 done) (w := leBytes 8 (d.closed .ok))
      (leBytes_length 8 _) (leBytes_length 8 _)
    rw [State.writtenBack_hostMem] at mem
    refine ⟨t, run, by rw [mem]; exact six, by rw [mem]; rw [d.closed_ok] at zero ⊢; exact zero,
      fun x h0 h6 => by rw [mem]; exact outside x h0 h6, by rw [own]; rfl, by rw [own]; rfl, by rw [own]; rfl, others, sluices, frame⟩
  · intro hw hl ht
    exact execDescriptorTimeout_of_early ht
  · intro hw hl ht
    refine ⟨_, execDescriptorTimeout_of_late hw hl ht, rfl, fun hd hm => ?_⟩
    have halts := s.endDesc_halts ch hd (s.on_of_working ch hw) hm .timeout c.done 0 false false
    exact ⟨halts.state, halts.code⟩
  · intro x w att ref hw hm
    refine ⟨s.endDesc ch (if ref then .refused else .busError) c.done x.toNat w false, ?_, rfl, fun hd => ?_⟩
    · refine congrArg Host.Outcome.next ((if_neg ?_).trans (if_neg ?_))
      · simp [hw]
      · rw [hm]; exact Bool.false_ne_true
    · have halts := s.endDesc_halts ch hd (s.on_of_working ch hw) hm (if ref then .refused else .busError) c.done x.toNat w false
      exact ⟨halts.state, halts.code, halts.addr.trans (Nat.mod_eq_of_lt x.isLt), halts.dir, halts.stop, halts.others⟩
  · intro x w st hst hw hd hf failed
    refine ⟨_, execDeviceAccessError_of_running hst hw hd hf x w, rfl, fun hdev hm hword => ?_⟩
    have halts := s.endDesc_halts ch hdev (s.on_of_working ch hw) hm st c.done x.toNat w false
    have calm : (s.endDesc ch st c.done x.toNat w false).jobFail c.polder x.toNat (st == .hwError && !w && !s.noWord x.toNat)
        = s.endDesc ch st c.done x.toNat w false := by
      have word : (st == .hwError && !w && !s.noWord x.toNat) = false := hword
      rw [word]
      exact if_neg (by simp)
    rw [calm]
    exact ⟨halts.state, halts.code, halts.addr.trans (Nat.mod_eq_of_lt x.isLt), halts.dir⟩
  · intro e x rest h hx
    obtain ⟨stale, command, walks⟩ := execNbCompletion_cases h hx
    refine ⟨stale, fun d hl hb hq hk hd ha hm => ?_, fun w hl hb hq hk => ?_⟩
    · obtain ⟨hf, hu, -⟩ := answered hq
      exact command d hl hb hf hu hk hd ha hm
    · obtain ⟨hf, hu, -⟩ := answered hq
      exact walks w hl hb hf hu hk
  · intro k cmd hr ht hl
    refine ⟨_, execHeldRetry_of_command hr ht hl, ?_, ?_, fun j hj => ?_, State.eq_of_sansRetry (State.sentNb_sansRetry ..)⟩
    · rw [State.sentNb_stack, if_pos rfl]
    · exact State.sentNb_chan ..
    · rw [State.sentNb_stack, if_neg (Ne.symm hj)]
  · intro h rest hr ha v
    have start : exec (.heldRetry ch) s = execHeldRetry ch s := rfl
    rw [start]
    unfold execHeldRetry
    simp only [show (s.chan ch).retry = none from hr, show (s.chan ch).retryAccess = h :: rest from ha, beq_iff_eq]
    rfl

end

section
/-! SUPPORT. The reshuffles of COPY by element place (R284). -/

namespace Sys2Proof.Machine

/-! ### Elements of lists of equal pieces -/

section
variable {α : Type}

theorem nth_eq_getElem (d : α) {l : List α} {i : Nat} (h : i < l.length) : nth d l i = l[i] := by
  simp [nth, h]

theorem map_nth_range (d : α) (l : List α) : (List.range l.length).map (nth d l) = l :=
  List.ext_getElem (by simp) fun i h1 h2 => by simp [nth, h2]

theorem nth_map_range {β : Type} (d : β) (f : Nat → β) {n i : Nat} (h : i < n) : nth d ((List.range n).map f) i = f i := by
  simp [nth, h]

/-- A list of whole pieces is cut into them. -/
theorem chunksAux_flatten_of_length {c : Nat} (hc : 0 < c) : ∀ (ls : List (List α)) (fuel : Nat), (∀ x ∈ ls, x.length = c) →
    ls.length ≤ fuel → chunksAux c fuel ls.flatten = ls := by
  intro ls
  induction ls with
  | nil => intro fuel _ _; cases fuel <;> rfl
  | cons x r ih =>
    intro fuel hl hf
    obtain ⟨k, rfl⟩ : ∃ k, fuel = k + 1 := ⟨fuel - 1, by simp only [List.length_cons] at hf; omega⟩
    have hx : x.length = c := hl x List.mem_cons_self
    have some_ : (x ++ r.flatten).isEmpty = false := by
      cases x with
      | nil => simp at hx; omega
      | cons _ _ => rfl
    show (if (x ++ r.flatten).isEmpty then [] else (x ++ r.flatten).take c :: chunksAux c k ((x ++ r.flatten).drop c)) = _
    rw [some_, ← hx, List.take_left, List.drop_left, hx]
    exact congrArg (x :: ·) (ih k (fun y hy => hl y (List.mem_cons_of_mem _ hy)) (by simp only [List.length_cons] at hf; omega))

theorem length_flatten_of_length {c : Nat} {ls : List (List α)} (h : ∀ x ∈ ls, x.length = c) : ls.flatten.length = ls.length * c := by
  rw [List.length_flatten, List.map_congr_left h]
  simp

theorem chunks_flatten_of_length {c : Nat} (hc : 0 < c) {ls : List (List α)} (h : ∀ x ∈ ls, x.length = c) : chunks c ls.flatten = ls := by
  refine chunksAux_flatten_of_length hc ls _ h ?_
  rw [length_flatten_of_length h]
  exact Nat.le_mul_of_pos_right _ hc

/-- The pieces of a list of whole pieces. -/
theorem chunks_eq_map {c : Nat} (hc : 0 < c) {m : Nat} {l : List α} (h : l.length = m * c) :
    chunks c l = (List.range m).map fun i => (l.drop (i * c)).take c := by
  have whole : ((List.range m).map fun i => (l.drop (i * c)).take c).flatten = l := by
    clear hc
    induction m generalizing l with
    | zero => simp at h; simp [h]
    | succ m ih =>
      have rest := ih (l := l.drop c) (by rw [List.length_drop, h, Nat.succ_mul]; omega)
      rw [List.range_succ_eq_map, List.map_cons, List.flatten_cons, Nat.zero_mul, List.drop_zero, List.map_map]
      refine (congrArg (l.take c ++ ·) ?_).trans (List.take_append_drop c l)
      refine Eq.trans ?_ rest
      refine congrArg List.flatten (List.map_congr_left fun i _ => ?_)
      simp only [Function.comp_apply, List.drop_drop, Nat.succ_mul, Nat.add_comm]
  have sized : ∀ x ∈ (List.range m).map fun i => (l.drop (i * c)).take c, x.length = c := by
    intro x hx
    obtain ⟨i, hi, rfl⟩ := List.mem_map.1 hx
    have below : i + 1 ≤ m := List.mem_range.1 hi
    have : (i + 1) * c ≤ m * c := Nat.mul_le_mul_right c below
    rw [Nat.succ_mul] at this
    simp only [List.length_take, List.length_drop, h]
    omega
  have cut := chunks_flatten_of_length hc sized
  rwa [whole] at cut

theorem chunks_length {c : Nat} (hc : 0 < c) {m : Nat} {l : List α} (h : l.length = m * c) :
    (chunks c l).length = m ∧ ∀ x ∈ chunks c l, x.length = c := by
  rw [chunks_eq_map hc h]
  refine ⟨by simp, fun x hx => ?_⟩
  obtain ⟨i, hi, rfl⟩ := List.mem_map.1 hx
  have : (i + 1) * c ≤ m * c := Nat.mul_le_mul_right c (List.mem_range.1 hi)
  rw [Nat.succ_mul] at this
  simp only [List.length_take, List.length_drop, h]
  omega

/-- The element at a place of a list of equal pieces. -/
theorem nth_flatten (d : α) {c : Nat} : ∀ {ls : List (List α)} {i j : Nat}, (∀ x ∈ ls, x.length = c) → i < ls.length → j < c →
    nth d ls.flatten (i * c + j) = nth d (nth [] ls i) j := by
  intro ls
  induction ls with
  | nil => exact fun _ h => absurd h (Nat.not_lt_zero _)
  | cons x r ih =>
    intro i j hl hi hj
    have hx : x.length = c := hl x List.mem_cons_self
    cases i with
    | zero => simp [nth, List.getElem?_append_left, hx, hj]
    | succ i =>
      have step := ih (i := i) (j := j) (fun y hy => hl y (List.mem_cons_of_mem _ hy)) (Nat.lt_of_succ_lt_succ hi) hj
      have place : (i + 1) * c + j - x.length = i * c + j := by rw [hx, Nat.succ_mul]; omega
      have beyond : x.length ≤ (i + 1) * c + j := by rw [hx, Nat.succ_mul]; omega
      unfold nth at step ⊢
      rw [List.flatten_cons, List.getElem?_append_right beyond, place, step]
      rfl

/-! ### Rows to columns -/

theorem zipWith_cons_columns (d : α) {n : Nat} (r : List α) (hr : r.length = n) (f : Nat → List α) :
    List.zipWith List.cons r ((List.range n).map f) = (List.range n).map fun j => nth d r j :: f j := by
  subst hr
  conv_lhs => rw [← map_nth_range d r]
  rw [List.length_map, List.length_range, List.zipWith_map, List.zipWith_self]

/-- Column j holds element j of each row. -/
theorem transpose_eq (d : α) {n : Nat} : ∀ {rows : List (List α)}, (∀ r ∈ rows, r.length = n) →
    transpose n rows = (List.range n).map fun j => rows.map fun r => nth d r j := by
  intro rows
  induction rows with
  | nil => exact fun _ => by simp [transpose, List.map_const', List.length_range]
  | cons r rest ih =>
    intro h
    show List.zipWith List.cons r (transpose n rest) = _
    rw [ih fun x hx => h x (List.mem_cons_of_mem _ hx), zipWith_cons_columns d r (h r List.mem_cons_self)]
    rfl

theorem transpose_sized (d : α) {n : Nat} {rows : List (List α)} (h : ∀ r ∈ rows, r.length = n) :
    (transpose n rows).length = n ∧ ∀ c ∈ transpose n rows, c.length = rows.length := by
  rw [transpose_eq d h]
  refine ⟨by simp, fun c hc => ?_⟩
  obtain ⟨j, _, rfl⟩ := List.mem_map.1 hc
  simp

theorem nth_transpose (d : α) {n : Nat} {rows : List (List α)} (h : ∀ r ∈ rows, r.length = n) {i j : Nat} (hi : i < rows.length)
    (hj : j < n) : nth d (nth [] (transpose n rows) j) i = nth d (nth [] rows i) j := by
  rw [transpose_eq d h, nth_map_range _ _ hj]
  simp [nth, hi]

/-- Columns to rows again. -/
theorem transpose_transpose (d : α) {n : Nat} {rows : List (List α)} (h : ∀ r ∈ rows, r.length = n) :
    transpose rows.length (transpose n rows) = rows := by
  obtain ⟨count, sized⟩ := transpose_sized d h
  rw [transpose_eq d sized]
  refine List.ext_getElem (by simp) fun i h1 h2 => ?_
  simp only [List.getElem_map, List.getElem_range]
  have row : rows[i].length = n := h _ (List.getElem_mem h2)
  rw [transpose_eq d h, List.map_map]
  refine Eq.trans ?_ ((congrArg (fun k => (List.range k).map (nth d rows[i])) row.symm).trans (map_nth_range d rows[i]))
  refine List.map_congr_left fun j _ => ?_
  simp [nth, h2]

end

/-! ### INTLV and DEINTLV -/

section
variable {p r n : Nat} {l : List Byte}

/-- The records of a list, row by row. -/
theorem intlv_rows (hn : 0 < n) (hr : 0 < r) (hl : l.length = p * n * (64 * r)) :
    let rows := chunks n (chunks (64 * r) l)
    rows.length = p ∧ (∀ x ∈ rows, x.length = n) ∧ (∀ x ∈ chunks (64 * r) l, x.length = 64 * r) ∧ rows.flatten = chunks (64 * r) l := by
  obtain ⟨count, sized⟩ := chunks_length (c := 64 * r) (by omega) hl
  obtain ⟨rows, each⟩ := chunks_length hn count
  exact ⟨rows, each, sized, chunks_flatten hn _⟩

theorem intlvBytes_eq (hp : 0 < p) (hr : 0 < r) (hl : l.length = p * n * (64 * r)) :
    intlvBytes p r l = (transpose n (chunks n (chunks (64 * r) l))).flatten.flatten := by
  obtain ⟨count, -⟩ := chunks_length (c := 64 * r) (by omega) hl
  unfold intlvBytes
  dsimp only
  rw [count, Nat.mul_div_cancel_left n hp, List.flatten_flatten]

theorem transpose_records_length (hn : 0 < n) (hr : 0 < r) (hl : l.length = p * n * (64 * r)) :
    ∀ x ∈ (transpose n (chunks n (chunks (64 * r) l))).flatten, x.length = 64 * r := by
  obtain ⟨count, each, sized, whole⟩ := intlv_rows hn hr hl
  intro x hx
  obtain ⟨col, hc, hx⟩ := List.mem_flatten.1 hx
  rw [transpose_eq [] each] at hc
  obtain ⟨j, hj, rfl⟩ := List.mem_map.1 hc
  obtain ⟨row, hrow, rfl⟩ := List.mem_map.1 hx
  have inside : j < row.length := by rw [each row hrow]; exact List.mem_range.1 hj
  rw [nth_eq_getElem _ inside]
  refine sized _ ?_
  rw [← whole]
  exact List.mem_flatten.2 ⟨row, hrow, List.getElem_mem inside⟩

/-- INTLV of records is undone by DEINTLV (R284). -/
theorem deintlv_intlv (hp : 0 < p) (hr : 0 < r) (hl : l.length = p * n * (64 * r)) : deintlvBytes p r (intlvBytes p r l) = l := by
  rw [intlvBytes_eq hp hr hl]
  obtain rfl | hn := Nat.eq_zero_or_pos n
  · have empty : l = [] := by simpa using hl
    subst empty
    simp [deintlvBytes, chunks, chunksAux, transpose]
  · obtain ⟨count, each, sized, whole⟩ := intlv_rows hn hr hl
    obtain ⟨columns, tall⟩ := transpose_sized [] each
    rw [count] at tall
    unfold deintlvBytes
    dsimp only
    rw [chunks_flatten_of_length (by omega) (transpose_records_length hn hr hl), chunks_flatten_of_length hp tall]
    have back := transpose_transpose [] each
    rw [count] at back
    rw [back, ← List.flatten_flatten, whole]
    exact chunks_flatten (by omega) l

/-- INTLV puts record (i, j) at place j P + i (R284). -/
theorem intlvBytes_record (hp : 0 < p) (hr : 0 < r) (hl : l.length = p * n * (64 * r)) {i j : Nat} (hi : i < p) (hj : j < n) :
    ((intlvBytes p r l).drop ((j * p + i) * (64 * r))).take (64 * r) = (l.drop ((i * n + j) * (64 * r))).take (64 * r) := by
  have hn : 0 < n := by omega
  have hc : 0 < 64 * r := by omega
  obtain ⟨count, each, sized, whole⟩ := intlv_rows hn hr hl
  obtain ⟨columns, tall⟩ := transpose_sized [] each
  rw [count] at tall
  have records := transpose_records_length hn hr hl
  have total : (transpose n (chunks n (chunks (64 * r) l))).flatten.length = n * p := by rw [length_flatten_of_length tall, columns]
  have out : (intlvBytes p r l).length = n * p * (64 * r) := by rw [intlvBytes_eq hp hr hl, length_flatten_of_length records, total]
  have place : j * p + i < n * p := by
    have : (j + 1) * p ≤ n * p := Nat.mul_le_mul_right p hj
    rw [Nat.succ_mul] at this
    omega
  have source : i * n + j < p * n := by
    have : (i + 1) * n ≤ p * n := Nat.mul_le_mul_right n hi
    rw [Nat.succ_mul] at this
    omega
  have left : nth [] (chunks (64 * r) (intlvBytes p r l)) (j * p + i) = ((intlvBytes p r l).drop ((j * p + i) * (64 * r))).take (64 * r) := by
    rw [chunks_eq_map hc out, nth_map_range _ _ place]
  have right : nth [] (chunks (64 * r) l) (i * n + j) = (l.drop ((i * n + j) * (64 * r))).take (64 * r) := by
    rw [chunks_eq_map hc hl, nth_map_range _ _ source]
  rw [← left, ← right, intlvBytes_eq hp hr hl, chunks_flatten_of_length hc records, nth_flatten [] tall (by rw [columns]; exact hj) hi,
    nth_transpose [] each (by rw [count]; exact hi) hj, ← nth_flatten [] each (by rw [count]; exact hi) hj, whole]

theorem intlvBytes_length (hp : 0 < p) (hr : 0 < r) (hl : l.length = p * n * (64 * r)) : (intlvBytes p r l).length = l.length := by
  rw [intlvBytes_eq hp hr hl]
  obtain rfl | hn := Nat.eq_zero_or_pos n
  · have empty : l = [] := by simpa using hl
    subst empty
    rfl
  · obtain ⟨count, each, -, -⟩ := intlv_rows hn hr hl
    obtain ⟨columns, tall⟩ := transpose_sized [] each
    rw [length_flatten_of_length (transpose_records_length hn hr hl), length_flatten_of_length tall, columns, count, hl, Nat.mul_comm n p]

theorem deintlvBytes_length (hp : 0 < p) (hr : 0 < r) (hl : l.length = p * n * (64 * r)) : (deintlvBytes p r l).length = l.length := by
  have hl' : l.length = n * p * (64 * r) := by rw [hl, Nat.mul_comm p n]
  obtain ⟨count, each, sized, whole⟩ := intlv_rows hp hr hl'
  obtain ⟨columns, tall⟩ := transpose_sized [] each
  rw [count] at tall
  unfold deintlvBytes
  dsimp only
  rw [← List.flatten_flatten, length_flatten_of_length (transpose_records_length hp hr hl'), length_flatten_of_length tall, columns, hl]

end

end Sys2Proof.Machine
end

section
/-! SUPPORT. PSPLIT and PJOIN, bit by bit (R284). -/

namespace Sys2Proof.Machine

/-! ### Bits of bytes -/

/-- A byte of eight bits. -/
def byteOf (f : Nat → Bool) : Byte := BitVec.ofNat 8 (((List.range 8).map fun k => b2n (f k) * 2 ^ k).foldl (· + ·) 0)

theorem byteOf_getLsbD (f : Nat → Bool) {i : Nat} (hi : i < 8) : (byteOf f).getLsbD i = f i := by
  have all : ∀ a b c d e g h k : Bool, ∀ i : Fin 8, (BitVec.ofNat 8 (0 + b2n a * 2 ^ 0 + b2n b * 2 ^ 1 + b2n c * 2 ^ 2 + b2n d * 2 ^ 3
      + b2n e * 2 ^ 4 + b2n g * 2 ^ 5 + b2n h * 2 ^ 6 + b2n k * 2 ^ 7)).getLsbD i = [a, b, c, d, e, g, h, k][i] := by
    decide
  have own := all (f 0) (f 1) (f 2) (f 3) (f 4) (f 5) (f 6) (f 7) ⟨i, hi⟩
  refine own.trans ?_
  interval_cases i <;> rfl

theorem bit_eq_testBit (v i : Nat) : bit v i = v.testBit i := by
  rw [Nat.testBit_eq_decide_div_mod_eq]
  rfl

/-- A bit of the number that bytes spell. -/
theorem bit_leNat (l : List Byte) (q : Nat) : bit (leNat l) q = (nth 0 l (q / 8)).getLsbD (q % 8) := by
  have low : q % 8 < 8 := Nat.mod_lt _ (by omega)
  have split_ : leNat l / 2 ^ q = leNat (l.drop (q / 8)) / 2 ^ (q % 8) := by
    rw [leNat_drop, Nat.div_div_eq_div_mul, show (256 : Nat) = 2 ^ 8 from rfl, ← Nat.pow_mul, ← Nat.pow_add, Nat.div_add_mod]
  have head : nth 0 l (q / 8) = nth 0 (l.drop (q / 8)) 0 := by simp [nth]
  have own : bit (leNat l) q = bit (leNat (l.drop (q / 8))) (q % 8) := by
    unfold bit
    rw [split_]
  rw [own, head]
  cases l.drop (q / 8) with
  | nil =>
    rw [bit_eq_testBit]
    simp [leNat, nth]
  | cons b r =>
    rw [bit_eq_testBit, BitVec.getLsbD]
    show (b.toNat + 256 * leNat r).testBit (q % 8) = b.toNat.testBit (q % 8)
    rw [Nat.add_comm, show (256 : Nat) = 2 ^ 8 from rfl, Nat.testBit_two_pow_mul_add _ b.isLt, if_pos low]

/-! ### PSPLIT -/

/-- Byte `k` of plane `b`: bit b of each of eight elements. -/
def planeByte (w b g : Nat) : Byte := byteOf fun k => bit g (k * w + b)

/-- Plane `b`. -/
def plane (w : Nat) (l : List Byte) (b : Nat) : List Byte := (chunks w l).map fun x => planeByte w b (leNat x)

theorem psplitBytes_eq (w : Nat) (l : List Byte) : psplitBytes w l = ((List.range w).map (plane w l)).flatten := by
  unfold psplitBytes
  rw [List.flatMap_def]
  refine congrArg List.flatten (List.map_congr_left fun b _ => ?_)
  rw [List.map_map]
  rfl

section
variable {w m : Nat} {l : List Byte}

theorem plane_length (hw : 0 < w) (hl : l.length = m * w) (b : Nat) : (plane w l b).length = m := by
  rw [plane, List.length_map]
  exact (chunks_length hw hl).1

theorem planes_length (hw : 0 < w) (hl : l.length = m * w) : ∀ x ∈ (List.range w).map (plane w l), x.length = m := by
  intro x hx
  obtain ⟨b, _, rfl⟩ := List.mem_map.1 hx
  exact plane_length hw hl b

theorem psplitBytes_length (hw : 0 < w) (hl : l.length = m * w) : (psplitBytes w l).length = l.length := by
  rw [psplitBytes_eq, length_flatten_of_length (planes_length hw hl), List.length_map, List.length_range, hl, Nat.mul_comm]

theorem nth_plane (hw : 0 < w) (hl : l.length = m * w) (b : Nat) {i : Nat} (hi : i < m) :
    nth 0 (plane w l b) i = planeByte w b (leNat ((l.drop (i * w)).take w)) := by
  rw [plane, chunks_eq_map hw hl, List.map_map, nth_map_range _ _ hi]
  rfl

/-- PSPLIT puts bit b of element e at bit e mod 8 of byte e / 8 of plane b (R284). -/
theorem psplitBytes_bit (hw : 0 < w) (hl : l.length = m * w) {b e : Nat} (hb : b < w) (he : e < 8 * m) :
    (nth 0 (psplitBytes w l) (b * m + e / 8)).getLsbD (e % 8) = (nth 0 l ((e * w + b) / 8)).getLsbD ((e * w + b) % 8) := by
  have hi : e / 8 < m := by omega
  have low : e % 8 < 8 := Nat.mod_lt _ (by omega)
  have place : e * w + b = 8 * (e / 8 * w) + (e % 8 * w + b) := by
    have := Nat.div_add_mod e 8
    calc e * w + b = (8 * (e / 8) + e % 8) * w + b := by rw [this]
      _ = 8 * (e / 8 * w) + (e % 8 * w + b) := by ring
  have within : (e % 8 * w + b) / 8 < w := by
    have : e % 8 * w ≤ 7 * w := Nat.mul_le_mul_right w (by omega)
    omega
  rw [psplitBytes_eq, nth_flatten 0 (planes_length hw hl) (by rw [List.length_map, List.length_range]; exact hb) hi,
    nth_map_range _ _ hb, nth_plane hw hl b hi, planeByte, byteOf_getLsbD _ low, bit_leNat, place,
    Nat.mul_add_div (by omega), Nat.mul_add_mod]
  refine congrArg (fun x : Byte => x.getLsbD ((e % 8 * w + b) % 8)) ?_
  simp [nth, within]

/-! ### PJOIN -/

/-- Eight elements from a byte of each plane. -/
def joinNat (w : Nat) (col : List Byte) : Nat :=
  ((col.zipIdx).map fun x => ((List.range 8).map fun k => b2n (x.1.getLsbD k) * 2 ^ (k * w + x.2)).foldl (· + ·) 0).foldl (· + ·) 0

theorem pjoinBytes_eq (w : Nat) (l : List Byte) :
    pjoinBytes w l = ((transpose (l.length / w) (chunks (l.length / w) l)).map fun col => leBytes w (joinNat w col)).flatten := by
  unfold pjoinBytes
  rw [List.flatMap_def]
  rfl

theorem pjoinBytes_length (hw : 0 < w) (hl : l.length = m * w) : (pjoinBytes w l).length = l.length := by
  obtain rfl | hm := Nat.eq_zero_or_pos m
  · have empty : l = [] := by simpa using hl
    subst empty
    simp [pjoinBytes_eq, chunks, chunksAux, transpose]
  · have rows : l.length / w = m := by rw [hl, Nat.mul_div_cancel _ hw]
    obtain ⟨-, each⟩ := chunks_length hm (hl.trans (Nat.mul_comm m w))
    have sized : ∀ x ∈ (transpose m (chunks m l)).map fun col => leBytes w (joinNat w col), x.length = w := by
      intro x hx
      obtain ⟨col, _, rfl⟩ := List.mem_map.1 hx
      exact leBytes_length w _
    rw [pjoinBytes_eq, rows, length_flatten_of_length sized, List.length_map, (transpose_sized 0 each).1, hl]

/-- The bits of a number below a place add up to it. -/
theorem sum_bits (g n : Nat) : ((List.range n).map fun q => b2n (bit g q) * 2 ^ q).foldl (· + ·) 0 = g % 2 ^ n := by
  induction n with
  | zero => simp [Nat.mod_one]
  | succ n ih =>
    rw [List.range_succ, List.map_append, List.foldl_append, ih]
    show g % 2 ^ n + b2n (bit g n) * 2 ^ n = _
    have step : b2n (bit g n) = g / 2 ^ n % 2 := by
      unfold b2n bit
      have := Nat.mod_two_eq_zero_or_one (g / 2 ^ n)
      rcases this with h | h <;> simp [h]
    rw [step, Nat.mod_pow_succ, Nat.mul_comm (2 ^ n)]

/-- Whether eight elements from a byte of each of `w` planes have their bits in order. -/
def JoinsInOrder (w : Nat) : Prop := ∀ col : List Byte, col.length = w →
  joinNat w col = ((List.range (8 * w)).map fun q => b2n ((nth 0 col (q % w)).getLsbD (q / w)) * 2 ^ q).foldl (· + ·) 0

/-- Sums by plane and by element are one sum, for two planes and for four. -/
theorem sum_by_plane_two (f : Nat → Nat) :
    ((List.range 2).map fun b => ((List.range 8).map fun k => f (k * 2 + b)).foldl (· + ·) 0).foldl (· + ·) 0
      = ((List.range 16).map f).foldl (· + ·) 0 := by
  simp only [List.range_succ, List.range_zero, List.nil_append, List.map_append, List.map_cons, List.map_nil, List.foldl_append,
    List.foldl_cons, List.foldl_nil]
  ring

theorem sum_by_plane_four (f : Nat → Nat) :
    ((List.range 4).map fun b => ((List.range 8).map fun k => f (k * 4 + b)).foldl (· + ·) 0).foldl (· + ·) 0
      = ((List.range 32).map f).foldl (· + ·) 0 := by
  simp only [List.range_succ, List.range_zero, List.nil_append, List.map_append, List.map_cons, List.map_nil, List.foldl_append,
    List.foldl_cons, List.foldl_nil]
  ring

theorem joinsInOrder_two : JoinsInOrder 2 := by
  intro col hc
  obtain ⟨a, b, rfl⟩ := List.length_eq_two.1 hc
  exact (rfl : joinNat 2 [a, b] = _).trans (sum_by_plane_two fun q => b2n ((nth 0 [a, b] (q % 2)).getLsbD (q / 2)) * 2 ^ q)

theorem joinsInOrder_four : JoinsInOrder 4 := by
  intro col hc
  obtain ⟨a, b, c, d, rfl⟩ : ∃ a b c d, col = [a, b, c, d] := by
    match col, hc with
    | [a, b, c, d], _ => exact ⟨a, b, c, d, rfl⟩
  exact (rfl : joinNat 4 [a, b, c, d] = _).trans (sum_by_plane_four fun q => b2n ((nth 0 [a, b, c, d] (q % 4)).getLsbD (q / 4)) * 2 ^ q)

/-- The bytes of the planes at one place give their elements again. -/
theorem joinNat_planes (hj : JoinsInOrder w) (hw : 0 < w) {g : Nat} (hg : g < 2 ^ (8 * w)) :
    joinNat w ((List.range w).map fun b => planeByte w b g) = g := by
  rw [hj _ (by simp)]
  refine Eq.trans (congrArg (fun l : List Nat => l.foldl (· + ·) 0) ?_) ((sum_bits g (8 * w)).trans (Nat.mod_eq_of_lt hg))
  refine List.map_congr_left fun q hq => ?_
  have below : q / w < 8 := Nat.div_lt_of_lt_mul (by rw [Nat.mul_comm]; exact List.mem_range.1 hq)
  rw [nth_map_range _ _ (Nat.mod_lt q hw), planeByte, byteOf_getLsbD _ below, Nat.div_add_mod']

theorem leBytes_leNat (l : List Byte) : leBytes l.length (leNat l) = l := by
  induction l with
  | nil => rfl
  | cons b r ih =>
    have hb : b.toNat < 256 := b.isLt
    have tail : (b.toNat + 256 * leNat r) / 256 = leNat r := by omega
    have head : BitVec.ofNat 8 (b.toNat + 256 * leNat r) = b := by
      apply BitVec.eq_of_toNat_eq
      rw [BitVec.toNat_ofNat]
      omega
    show BitVec.ofNat 8 (b.toNat + 256 * leNat r) :: leBytes r.length ((b.toNat + 256 * leNat r) / 256) = _
    rw [tail, head, ih]

/-- PJOIN undoes PSPLIT (R284). -/
theorem pjoin_psplit (hj : JoinsInOrder w) (hw : 0 < w) (hl : l.length = m * w) : pjoinBytes w (psplitBytes w l) = l := by
  obtain rfl | hm := Nat.eq_zero_or_pos m
  · have empty : l = [] := by simpa using hl
    subst empty
    have none_ : psplitBytes w [] = [] := List.length_eq_zero_iff.1 (psplitBytes_length hw hl)
    rw [none_]
    exact List.length_eq_zero_iff.1 (pjoinBytes_length hw hl)
  · have rows : (psplitBytes w l).length / w = m := by rw [psplitBytes_length hw hl, hl, Nat.mul_div_cancel _ hw]
    have planes := planes_length hw hl
    rw [pjoinBytes_eq, rows, psplitBytes_eq, chunks_flatten_of_length hm planes, transpose_eq 0 planes, List.map_map]
    have cut := (congrArg List.flatten (chunks_eq_map hw hl)).symm.trans (chunks_flatten hw l)
    refine Eq.trans (congrArg List.flatten (List.map_congr_left fun i hi => ?_)) cut
    have inside : i < m := List.mem_range.1 hi
    have sized : ((l.drop (i * w)).take w).length = w := by
      have : (i + 1) * w ≤ m * w := Nat.mul_le_mul_right w inside
      rw [Nat.succ_mul] at this
      simp only [List.length_take, List.length_drop, hl]
      omega
    have col : ((List.range w).map (plane w l)).map (fun r => nth 0 r i)
        = (List.range w).map fun b => planeByte w b (leNat ((l.drop (i * w)).take w)) := by
      rw [List.map_map]
      exact List.map_congr_left fun b _ => nth_plane hw hl b inside
    have small : leNat ((l.drop (i * w)).take w) < 2 ^ (8 * w) := by
      rw [two_pow_eight_mul]
      have := leNat_lt ((l.drop (i * w)).take w)
      rwa [sized] at this
    show leBytes w (joinNat w (((List.range w).map (plane w l)).map fun r => nth 0 r i)) = _
    rw [col, joinNat_planes hj hw small]
    have own := leBytes_leNat ((l.drop (i * w)).take w)
    rwa [sized] at own

end

end Sys2Proof.Machine
end

section
/-! SUPPORT. Pieces that a channel reads from host memory and writes there (R280, R283, R284). -/

namespace Sys2Proof.Machine

/-! ### What the checks of a descriptor leave (R283) -/

/-- Units of one block of a reshuffle. -/
def Desc.block (d : Desc) : Nat := if d.shuf == 0 then 1 else if d.shuf ≤ 2 then d.width else d.planes * d.rrec

/-- A descriptor that passes its checks. -/
structure Desc.Sound (d : Desc) : Prop where
  plain : d.reservedSet = false
  some_ : d.op ≠ 6 → d.len ≠ 0
  records : 3 ≤ d.shuf → d.planes ≠ 0 ∧ d.rrec ≠ 0
  aligned : ∀ r ∈ d.ranges, r.2.1 % 64 = 0
  blocks : d.len % d.block = 0
  apart : d.op = 1 → d.srcDev = d.dstDev → overlap d.src (64 * d.len) d.dst (64 * d.len) = false

theorem Desc.sound_of_check {s : State} {ch : Nat} {d : Desc} (h : s.descCheck ch d = none) : d.Sound := by
  unfold State.descCheck at h
  simp only [Option.map_eq_none_iff, List.find?_eq_none, List.mem_cons, List.not_mem_nil, or_false, forall_eq_or_imp, forall_eq] at h
  obtain ⟨-, plain, some_, records, -, aligned, -, blocks, -, -, apart, -⟩ := h
  refine ⟨by simpa using plain, ?_, ?_, ?_, ?_, ?_⟩
  · intro ho hl
    simp [ho, hl] at some_
  · intro h3
    simpa [h3] using records
  · simpa using aligned
  · simpa [Desc.block] using blocks
  · intro ho hd
    simpa [ho, hd] using apart

/-! ### One piece (R280) -/

section
variable {u : State} {ch : Nat}

/-- A piece read from host memory. -/
theorem pull_host {d : Desc} {a n : Nat} (hm : u.mayAskHost ch = true)
    (ho : u.hostOk (u.chan ch).func a (min n (4096 - a % 4096)) = true) :
    u.pull ch d false a n = u.onChan ch fun c => { c with
      progressAt := u.time.dev, got := c.got ++ u.hostMem.read a (min n (4096 - a % 4096)) } := by
  unfold State.pull State.hostRead
  dsimp only
  rw [if_neg (by simp), if_neg (by simp), if_neg (by simp [hm]), if_pos ho]
  dsimp only
  unfold State.delivered
  dsimp only
  rw [if_neg (by simp), if_neg (by simp), State.progress, State.onChan_onChan]

/-- A write that counts for the running COPY or FROM_SLUICE. -/
theorem delivered_write {d : Desc} {a : Nat} {l : List Byte} (hb : (u.chan ch).begun = true) (hf : (u.chan ch).finish = none)
    (hd : u.desc ch = some d) (hop : d.op = 1 ∨ d.op = 3) :
    u.delivered ch (u.chan ch).life a (.write l) {} = u.onChan ch fun c => { c with
      progressAt := u.time.dev, done := c.done + l.length / 64 } := by
  have counts : (((u.chan ch).fetched.head?.map Desc.op).any fun o => o == 1 || o == 3) = true := by
    rw [show (u.chan ch).fetched.head? = some d from hd]
    simpa using hop
  unfold State.delivered
  dsimp only
  rw [if_neg (by simp), if_neg (by simp), State.progress, State.onChan_onChan]
  unfold State.onChan
  simp [counts, hb, hf]

/-- The state after a piece written to host memory. -/
def State.wrotePiece (u : State) (ch a : Nat) (l : List Byte) : State :=
  State.onChan { u.engineCount ch 0 l.length with hostMem := u.hostMem.write a l } ch fun c => { c with
    issued := c.issued + l.length / 64, progressAt := u.time.dev, done := c.done + l.length / 64 }

/-- A piece written to host memory. -/
theorem put_host {d : Desc} {a : Nat} {l : List Byte} (hm : u.mayAskHost ch = true)
    (ho : u.hostOk (u.chan ch).func a l.length = true) (hb : (u.chan ch).begun = true) (hf : (u.chan ch).finish = none)
    (hd : u.desc ch = some d) (hop : d.op = 1 ∨ d.op = 3) : u.put ch false a l = (u.wrotePiece ch a l, true) := by
  have own : (u.wroteHost ch a l).chan ch = { u.chan ch with issued := (u.chan ch).issued + l.length / 64 } := wroteHost_chan
  rw [put_host_of_ok hm ho]
  have counted := delivered_write (u := u.wroteHost ch a l) (ch := ch) (d := d) (a := a) (l := l) (by rw [own]; exact hb)
    (by rw [own]; exact hf) (by unfold State.desc; rw [own]; exact hd) hop
  rw [own] at counted
  dsimp only at counted
  rw [counted]
  have issued : u.wroteHost ch a l = State.onChan { u.engineCount ch 0 l.length with hostMem := u.hostMem.write a l } ch fun c => { c with
      issued := c.issued + l.length / 64 } := rfl
  have time : (u.wroteHost ch a l).time = u.time := rfl
  rw [time, issued, State.onChan_onChan]
  rfl

end

/-! ### A transfer that runs -/

/-- A running transfer of channel `ch`, begun in `s`: only host memory, the engine's count, and its own channel's progress have
changed. -/
structure State.Moving (s : State) (ch : Nat) (u : State) : Prop where
  frame : u = { s with dma := u.dma, hostMem := u.hostMem, engines := u.engines }
  own : ∃ c : DmaCh, u.chan ch = { s.chan ch with
    begun := true, ahead := [], done := c.done, got := c.got, issued := c.issued, progressAt := c.progressAt }
  others : ∀ k, k ≠ ch → u.chan k = s.chan k

section
variable {s u : State} {ch : Nat}

/-- The state in which a descriptor of which nothing has been read ahead begins. -/
theorem State.Moving.start : s.Moving ch (s.onChan ch fun c => { c with begun := true, done := 0, issued := 0, got := [], ahead := [] }) where
  frame := rfl
  own := ⟨{ s.chan ch with done := 0, issued := 0, got := [] }, State.onChan_self ..⟩
  others _ hk := State.onChan_other _ _ _ hk

theorem State.Moving.hostOk (h : s.Moving ch u) (f a n : Nat) : u.hostOk f a n = s.hostOk f a n := by
  rw [h.frame]
  rfl

theorem State.Moving.onChan (h : s.Moving ch u) {g : DmaCh → DmaCh} {c : DmaCh}
    (hg : g (u.chan ch) = { u.chan ch with done := c.done, got := c.got, issued := c.issued, progressAt := c.progressAt }) :
    s.Moving ch (u.onChan ch g) where
  frame := by
    have base := h.frame
    exact (congrArg (fun v : State => { v with dma := (u.onChan ch g).dma }) base :)
  own := by
    obtain ⟨k, own⟩ := h.own
    exact ⟨c, by rw [State.onChan_self, hg, own]⟩
  others k hk := (u.onChan_other ch g hk).trans (h.others k hk)

theorem State.Moving.mem (h : s.Moving ch u) (m : Memory) (e : Sparse Engine) : s.Moving ch { u with hostMem := m, engines := e } where
  frame := (congrArg (fun v : State => { v with hostMem := m, engines := e }) h.frame :)
  own := h.own
  others := h.others

theorem State.Moving.wrotePiece (h : s.Moving ch u) (a : Nat) (l : List Byte) : s.Moving ch (u.wrotePiece ch a l) :=
  State.Moving.onChan (h.mem (u.hostMem.write a l) (u.engineCount ch 0 l.length).engines) (c := { u.chan ch with
    done := (u.chan ch).done + l.length / 64, issued := (u.chan ch).issued + l.length / 64, progressAt := u.time.dev }) rfl

/-- What of its channel a running transfer keeps. -/
theorem State.Moving.chan (h : s.Moving ch u) : (u.chan ch).func = (s.chan ch).func ∧ (u.chan ch).life = (s.chan ch).life
    ∧ (u.chan ch).begun = true ∧ (u.chan ch).finish = (s.chan ch).finish ∧ (u.chan ch).unanswered = (s.chan ch).unanswered
    ∧ u.desc ch = s.desc ch ∧ (u.chan ch).polder = (s.chan ch).polder ∧ (u.chan ch).awaited = (s.chan ch).awaited := by
  obtain ⟨c, own⟩ := h.own
  unfold State.desc
  rw [own]
  exact ⟨rfl, rfl, rfl, rfl, rfl, rfl, rfl, rfl⟩

theorem State.Moving.mayAskHost (h : s.Moving ch u) : u.mayAskHost ch = s.mayAskHost ch := by
  obtain ⟨func, -⟩ := h.chan
  unfold State.mayAskHost
  rw [func, h.frame]
  rfl

/-- A piece read for a running transfer. -/
theorem State.Moving.pull (h : s.Moving ch u) {d : Desc} {a n b m : Nat} (hm : s.mayAskHost ch = true)
    (ho : s.hostOk (s.chan ch).func b m = true) (hb : b ≤ a) (he : a + n ≤ b + m) :
    s.Moving ch (u.pull ch d false a n) ∧ ((u.pull ch d false a n).chan ch).done = (u.chan ch).done
      ∧ ((u.pull ch d false a n).chan ch).got = (u.chan ch).got ++ u.hostMem.read a (min n (4096 - a % 4096))
      ∧ (u.pull ch d false a n).hostMem = u.hostMem ∧ (u.pull ch d false a n).clusters = u.clusters := by
  obtain ⟨func, -⟩ := h.chan
  have inside : u.hostOk (u.chan ch).func a (min n (4096 - a % 4096)) = true := by
    rw [h.hostOk, func]
    exact s.hostOk_part ho hb (by omega)
  rw [pull_host (h.mayAskHost.trans hm) inside]
  refine ⟨h.onChan (c := { u.chan ch with
    got := (u.chan ch).got ++ u.hostMem.read a (min n (4096 - a % 4096)), progressAt := u.time.dev }) rfl, ?_, ?_, rfl, rfl⟩
  · rw [State.onChan_self]
  · rw [State.onChan_self]

/-- A piece written for a running COPY. -/
theorem State.Moving.put (h : s.Moving ch u) {d : Desc} {a b m : Nat} {l : List Byte} (hm : s.mayAskHost ch = true)
    (ho : s.hostOk (s.chan ch).func b m = true) (hb : b ≤ a) (he : a + l.length ≤ b + m) (hf : (s.chan ch).finish = none)
    (hd : s.desc ch = some d) (hop : d.op = 1) : u.put ch false a l = (u.wrotePiece ch a l, true) := by
  obtain ⟨func, -, begun, finish, -, desc, -, -⟩ := h.chan
  refine put_host (h.mayAskHost.trans hm) ?_ begun (finish.trans hf) (desc.trans hd) (.inl hop)
  rw [h.hostOk, func]
  exact s.hostOk_part ho hb he

theorem State.wrotePiece_chan (a : Nat) (l : List Byte) : ((u.wrotePiece ch a l).chan ch).done = (u.chan ch).done + l.length / 64
    ∧ ((u.wrotePiece ch a l).chan ch).got = (u.chan ch).got ∧ (u.wrotePiece ch a l).hostMem = u.hostMem.write a l := by
  unfold State.wrotePiece
  rw [State.onChan_self]
  exact ⟨rfl, rfl, rfl⟩

end

end Sys2Proof.Machine
end

section
/-! SUPPORT. COPY between ranges of host memory, with and without a reshuffle (R284). -/

namespace Sys2Proof.Machine

/-! ### Pieces of a range -/

/-- A piece written behind another one. -/
theorem Memory.byte_write_append {m m' : Memory} {a : Nat} {l₁ : List Byte} (h : ∀ x, m'.byte x = (m.write a l₁).byte x)
    (l₂ : List Byte) (x : Nat) : (m'.write (a + l₁.length) l₂).byte x = (m.write a (l₁ ++ l₂)).byte x := by
  rw [Memory.byte_write, Memory.byte_write, h, Memory.byte_write]
  simp only [List.length_append]
  by_cases h2 : a + l₁.length ≤ x ∧ x < a + l₁.length + l₂.length
  · rw [if_pos h2, if_pos (by omega), List.getElem?_append_right (by omega)]
    congr 2
    omega
  · rw [if_neg h2]
    by_cases h1 : a ≤ x ∧ x < a + l₁.length
    · rw [if_pos h1, if_pos (by omega), List.getElem?_append_left (by omega)]
    · rw [if_neg h1, if_neg (by omega)]

theorem Memory.read_congr {m m' : Memory} {a n : Nat} (h : ∀ x, a ≤ x → x < a + n → m'.byte x = m.byte x) : m'.read a n = m.read a n := by
  rw [Memory.read_eq, Memory.read_eq]
  refine List.map_congr_left fun x hx => ?_
  rw [List.mem_range'_1] at hx
  exact h x hx.1 hx.2

/-! ### The copy -/

/-- A COPY between ranges of host memory that may begin. -/
structure State.HostCopy (s : State) (ch : Nat) (d : Desc) : Prop where
  asks : s.mayAskHost ch = true
  open_ : (s.chan ch).finish = none
  answered : (s.chan ch).unanswered = false
  desc : s.desc ch = some d
  op : d.op = 1
  src : d.srcDev = false
  dst : d.dstDev = false
  srcOk : s.hostOk (s.chan ch).func d.src (64 * d.len) = true
  dstOk : s.hostOk (s.chan ch).func d.dst (64 * d.len) = true
  sound : d.Sound

/-- `k` units of a copy whose bytes are `X` have been written. -/
structure State.CopyAt (s : State) (ch : Nat) (d : Desc) (X : List Byte) (k : Nat) (u : State) : Prop where
  moving : s.Moving ch u
  done : (u.chan ch).done = k
  le : k ≤ d.len
  mem : ∀ x, u.hostMem.byte x = (s.hostMem.write d.dst (X.take (64 * k))).byte x

section
variable {s u : State} {ch k : Nat} {d : Desc} {X : List Byte}

theorem State.HostCopy.aligned (h : s.HostCopy ch d) : d.src % 64 = 0 ∧ d.dst % 64 = 0 := by
  have ranges : d.ranges = [(d.srcDev, d.src, 64 * d.len), (d.dstDev, d.dst, 64 * d.len)] := by
    unfold Desc.ranges
    rw [h.op]
    rfl
  have aligned := h.sound.aligned
  rw [ranges] at aligned
  exact ⟨aligned _ List.mem_cons_self, aligned _ (List.mem_cons_of_mem _ List.mem_cons_self)⟩

theorem State.HostCopy.apart (h : s.HostCopy ch d) : d.src + 64 * d.len ≤ d.dst ∨ d.dst + 64 * d.len ≤ d.src := by
  have apart := h.sound.apart h.op (h.src.trans h.dst.symm)
  simp only [overlap, Bool.and_eq_false_iff, decide_eq_false_iff_not, Nat.not_lt] at apart
  omega

/-- The source reads as it did before the copy. -/
theorem State.CopyAt.read (hc : s.HostCopy ch d) (h : s.CopyAt ch d X k u) {j n : Nat} (hj : j + n ≤ 64 * d.len) :
    u.hostMem.read (d.src + j) n = ((s.hostMem.read d.src (64 * d.len)).drop j).take n := by
  have le := h.le
  rw [read_slice _ _ hj]
  refine Memory.read_congr fun x hlo hhi => ?_
  rw [h.mem, Memory.byte_write_outside]
  have short : (X.take (64 * k)).length ≤ 64 * k := List.length_take_le ..
  have apart := hc.apart
  omega

/-- A piece of the copy is written. -/
theorem State.CopyAt.put (hc : s.HostCopy ch d) (h : s.CopyAt ch d X k u) (hX : X.length = 64 * d.len) {n : Nat}
    (hn : 64 * k + n ≤ 64 * d.len) (h64 : n % 64 = 0) :
    u.put ch false (d.dst + 64 * k) ((X.drop (64 * k)).take n) = (u.wrotePiece ch (d.dst + 64 * k) ((X.drop (64 * k)).take n), true)
      ∧ s.CopyAt ch d X (k + n / 64) (u.wrotePiece ch (d.dst + 64 * k) ((X.drop (64 * k)).take n))
      ∧ ((u.wrotePiece ch (d.dst + 64 * k) ((X.drop (64 * k)).take n)).chan ch).got = (u.chan ch).got := by
  have piece : ((X.drop (64 * k)).take n).length = n := by
    simp only [List.length_take, List.length_drop, hX]
    omega
  have before : (X.take (64 * k)).length = 64 * k := by
    simp only [List.length_take, hX]
    omega
  obtain ⟨done, got, mem⟩ := State.wrotePiece_chan (u := u) (ch := ch) (d.dst + 64 * k) ((X.drop (64 * k)).take n)
  refine ⟨h.moving.put hc.asks hc.dstOk (Nat.le_add_right ..) (by rw [piece]; omega) hc.open_ hc.desc hc.op,
    ⟨h.moving.wrotePiece _ _, by rw [done, h.done, piece], by omega, fun x => ?_⟩, got⟩
  have joined : X.take (64 * (k + n / 64)) = X.take (64 * k) ++ (X.drop (64 * k)).take n := by
    rw [show 64 * (k + n / 64) = 64 * k + n by omega, List.take_add]
  have place : d.dst + 64 * k = d.dst + (X.take (64 * k)).length := by rw [before]
  rw [mem, joined, place]
  exact Memory.byte_write_append h.mem _ x

/-! ### Rounds of the loop -/

theorem copyLoop_of_done (hk : (u.chan ch).done = d.len) (fuel : Nat) : State.copyLoop ch d (fuel + 1) u = u.finishDesc ch .ok d.len := by
  unfold State.copyLoop
  dsimp only
  rw [if_pos (by simp [hk])]

/-- A round that makes progress is followed by the next one. -/
theorem copyLoop_of_progress (hm : s.Moving ch u) (hu : (s.chan ch).unanswered = false) (hk : (u.chan ch).done ≠ d.len)
    (hn : s.Moving ch (u.copyStep ch d))
    (hp : ((u.copyStep ch d).chan ch).done ≠ (u.chan ch).done ∨ ((u.copyStep ch d).chan ch).got.length ≠ (u.chan ch).got.length)
    (fuel : Nat) : State.copyLoop ch d (fuel + 1) u = State.copyLoop ch d fuel (u.copyStep ch d) := by
  obtain ⟨-, life, -⟩ := hm.chan
  obtain ⟨-, life', -, -, unanswered, -⟩ := hn.chan
  conv_lhs => unfold State.copyLoop
  dsimp only
  rw [if_neg (by simpa using hk), if_neg ?_]
  rw [life, life', unanswered, hu]
  rcases hp with hp | hp <;> simp [hp]

/-! ### Without a reshuffle -/

/-- Rounds of a plain copy: a piece is read, and written. -/
theorem copyLoop_plain (hc : s.HostCopy ch d) (hs : d.shuf = 0) (hX : X = s.hostMem.read d.src (64 * d.len)) :
    ∀ (m : Nat) (u : State) (k : Nat), s.CopyAt ch d X k u → (u.chan ch).got = [] → d.len - k ≤ m → ∀ fuel, 2 * m + 1 ≤ fuel →
      ∃ t, State.copyLoop ch d fuel u = t.finishDesc ch .ok d.len ∧ s.CopyAt ch d X d.len t := by
  have size : X.length = 64 * d.len := by rw [hX, Memory.read_length]
  obtain ⟨srcAligned, dstAligned⟩ := hc.aligned
  intro m
  induction m with
  | zero =>
    intro u k h _ hk fuel hfuel
    obtain ⟨f, rfl⟩ : ∃ f, fuel = f + 1 := ⟨fuel - 1, by omega⟩
    have last : k = d.len := by have := h.le; omega
    subst last
    exact ⟨u, copyLoop_of_done h.done f, h⟩
  | succ m ih =>
    intro u k h got hk fuel hfuel
    obtain ⟨f, rfl⟩ : ∃ f, fuel = f + 1 + 1 := ⟨fuel - 2, by omega⟩
    have le := h.le
    by_cases last : k = d.len
    · subst last
      exact ⟨u, copyLoop_of_done h.done (f + 1), h⟩
    · -- the piece stays within a 4 KiB granule of either range
      obtain ⟨want, hwant⟩ : ∃ want, want = min (64 * d.len - 64 * k) (4096 - (d.dst + 64 * k) % 4096) := ⟨_, rfl⟩
      obtain ⟨n, hn⟩ : ∃ n, n = min want (4096 - (d.src + 64 * k) % 4096) := ⟨_, rfl⟩
      have whole : 0 < n ∧ n % 64 = 0 ∧ 64 * k + n ≤ 64 * d.len := by omega
      have readStep : u.copyStep ch d = u.pull ch d false (d.src + 64 * k) want := by
        unfold State.copyStep
        dsimp only
        rw [h.done, hs, got, hc.src, ← hwant]
        rfl
      obtain ⟨moving, done, read, mem, -⟩ := h.moving.pull (d := d) (a := d.src + 64 * k) (n := want) hc.asks hc.srcOk
        (Nat.le_add_right ..) (by omega)
      rw [got, ← hn, h.read hc (by omega), ← hX, List.nil_append] at read
      rw [h.done] at done
      have pieceSize : ((X.drop (64 * k)).take n).length = n := by
        simp only [List.length_take, List.length_drop, size]
        omega
      have middle : s.CopyAt ch d X k ((u.pull ch d false (d.src + 64 * k) want).onChan ch fun c => { c with got := [] }) := by
        refine ⟨moving.onChan (c := { (u.pull ch d false (d.src + 64 * k) want).chan ch with got := [] }) rfl, ?_, le, fun x => ?_⟩
        · rw [State.onChan_self]
          exact done
        · exact (congrArg (fun w => Memory.byte w x) mem).trans (h.mem x)
      obtain ⟨put, after, emptied⟩ := middle.put hc size whole.2.2 whole.2.1
      have writeStep : (u.pull ch d false (d.src + 64 * k) want).copyStep ch d
          = ((u.pull ch d false (d.src + 64 * k) want).onChan ch fun c => { c with got := [] }).wrotePiece ch (d.dst + 64 * k)
            ((X.drop (64 * k)).take n) := by
        have some_ : ((X.drop (64 * k)).take n).isEmpty = false := by
          rw [← Bool.not_eq_true, List.isEmpty_iff_length_eq_zero, pieceSize]
          omega
        unfold State.copyStep
        dsimp only
        rw [done, hs, read, hc.dst, put, some_]
        rfl
      have first := copyLoop_of_progress h.moving hc.answered (by rw [h.done]; exact last) (by rw [readStep]; exact moving)
        (.inr (by rw [readStep, read, got, pieceSize, List.length_nil]; omega)) (f + 1)
      rw [readStep] at first
      have second := copyLoop_of_progress moving hc.answered (by rw [done]; exact last) (by rw [writeStep]; exact after.moving)
        (.inl (by rw [writeStep, after.done, done]; omega)) f
      rw [writeStep] at second
      rw [first, second]
      refine ih _ _ after ?_ (by omega) f (by omega)
      rw [emptied, State.onChan_self]

/-! ### With a reshuffle -/

/-- Rounds that read all of the source of a reshuffle. -/
theorem copyLoop_gather (hc : s.HostCopy ch d) (hs : d.shuf ≠ 0) (hl : d.len ≠ 0) :
    ∀ (m : Nat) (u : State) (j : Nat), s.CopyAt ch d X 0 u → (u.chan ch).got = (s.hostMem.read d.src (64 * d.len)).take j → j % 64 = 0 →
      j ≤ 64 * d.len → 64 * d.len - j ≤ 64 * m → ∀ fuel, m ≤ fuel →
      ∃ t f, State.copyLoop ch d fuel u = State.copyLoop ch d f t ∧ fuel ≤ f + m ∧ s.CopyAt ch d X 0 t
        ∧ (t.chan ch).got = s.hostMem.read d.src (64 * d.len) := by
  obtain ⟨srcAligned, -⟩ := hc.aligned
  have all : (s.hostMem.read d.src (64 * d.len)).take (64 * d.len) = s.hostMem.read d.src (64 * d.len) :=
    List.take_of_length_le (by rw [Memory.read_length])
  intro m
  induction m with
  | zero =>
    intro u j h got _ hj hm fuel _
    have last : j = 64 * d.len := by omega
    exact ⟨u, fuel, rfl, Nat.le_refl _, h, by rw [got, last, all]⟩
  | succ m ih =>
    intro u j h got h64 hj hm fuel hfuel
    by_cases last : j = 64 * d.len
    · exact ⟨u, fuel, rfl, by omega, h, by rw [got, last, all]⟩
    · obtain ⟨f, rfl⟩ : ∃ f, fuel = f + 1 := ⟨fuel - 1, by omega⟩
      have held : (u.chan ch).got.length = j := by rw [got, List.length_take, Memory.read_length]; omega
      obtain ⟨n, hn⟩ : ∃ n, n = min (64 * d.len - j) (4096 - (d.src + j) % 4096) := ⟨_, rfl⟩
      have step : u.copyStep ch d = u.pull ch d false (d.src + j) (64 * d.len - j) := by
        unfold State.copyStep
        dsimp only
        rw [if_neg (by simpa using hs), if_pos (by rw [held]; omega), held, hc.src]
      obtain ⟨moving, done, read, mem, -⟩ := h.moving.pull (d := d) (a := d.src + j) (n := 64 * d.len - j) hc.asks hc.srcOk
        (Nat.le_add_right ..) (by omega)
      rw [← hn, h.read hc (by omega), got, ← List.take_add] at read
      have next := copyLoop_of_progress (d := d) h.moving hc.answered (by rw [h.done]; exact Ne.symm hl) (by rw [step]; exact moving)
        (.inr (by rw [step, read, held, List.length_take, Memory.read_length]; omega)) f
      rw [step] at next
      obtain ⟨t, f', run, hf, at_, whole⟩ := ih _ (j + n) ⟨moving, done.trans h.done, Nat.zero_le _,
        fun x => (congrArg (fun w => Memory.byte w x) mem).trans (h.mem x)⟩ read (by omega) (by omega) (by omega) f (by omega)
      exact ⟨t, f', next.trans run, by omega, at_, whole⟩

/-- Rounds that write what a reshuffle makes of its source. -/
theorem copyLoop_scatter (hc : s.HostCopy ch d) (hs : d.shuf ≠ 0) (hX : X = d.shuffle (s.hostMem.read d.src (64 * d.len)))
    (hl : X.length = 64 * d.len) :
    ∀ (m : Nat) (u : State) (k : Nat), s.CopyAt ch d X k u → (u.chan ch).got = s.hostMem.read d.src (64 * d.len) → d.len - k ≤ m →
      ∀ fuel, m + 1 ≤ fuel → ∃ t, State.copyLoop ch d fuel u = t.finishDesc ch .ok d.len ∧ s.CopyAt ch d X d.len t := by
  obtain ⟨-, dstAligned⟩ := hc.aligned
  intro m
  induction m with
  | zero =>
    intro u k h _ hk fuel hfuel
    obtain ⟨f, rfl⟩ : ∃ f, fuel = f + 1 := ⟨fuel - 1, by omega⟩
    have last : k = d.len := by have := h.le; omega
    subst last
    exact ⟨u, copyLoop_of_done h.done f, h⟩
  | succ m ih =>
    intro u k h got hk fuel hfuel
    obtain ⟨f, rfl⟩ : ∃ f, fuel = f + 1 := ⟨fuel - 1, by omega⟩
    have le := h.le
    by_cases last : k = d.len
    · subst last
      exact ⟨u, copyLoop_of_done h.done f, h⟩
    · obtain ⟨n, hn⟩ : ∃ n, n = min (64 * d.len - 64 * k) (4096 - (d.dst + 64 * k) % 4096) := ⟨_, rfl⟩
      have piece : ((X.drop (64 * k)).take (4096 - (d.dst + 64 * k) % 4096)) = (X.drop (64 * k)).take n := by
        rw [hn, ← hl, ← List.length_drop, List.take_eq_take_iff]
        omega
      obtain ⟨put, after, held⟩ := h.put hc hl (n := n) (by omega) (by omega)
      have step : u.copyStep ch d = u.wrotePiece ch (d.dst + 64 * k) ((X.drop (64 * k)).take n) := by
        unfold State.copyStep
        dsimp only
        rw [if_neg (by simpa using hs), if_neg (by rw [got, Memory.read_length]; exact Nat.lt_irrefl _), h.done, got, ← hX, hc.dst, piece, put]
      have next := copyLoop_of_progress h.moving hc.answered (by rw [h.done]; exact last) (by rw [step]; exact after.moving)
        (.inl (by rw [step, after.done, h.done]; omega)) f
      rw [step] at next
      rw [next]
      exact ih _ _ after (held.trans got) (by omega) f (by omega)

/-- A copy as it ends: every unit stands in its place. -/
theorem copyRun_host (hc : s.HostCopy ch d) (hu : s.CopyAt ch d X 0 u) (hg : (u.chan ch).got = []) (hl : d.len ≠ 0)
    (hX : X = d.shuffle (s.hostMem.read d.src (64 * d.len))) (hs : X.length = 64 * d.len) :
    ∃ t, u.copyRun ch d = t.finishDesc ch .ok d.len ∧ s.CopyAt ch d X d.len t := by
  unfold State.copyRun
  by_cases plain : d.shuf = 0
  · have same : X = s.hostMem.read d.src (64 * d.len) := by
      rw [hX]
      unfold Desc.shuffle
      simp [plain]
    exact copyLoop_plain hc plain same d.len u 0 hu hg (by omega) _ (by omega)
  · obtain ⟨t, f, run, hf, at_, whole⟩ := copyLoop_gather hc plain hl d.len u 0 hu (by rw [hg, List.take_zero]) (by omega) (by omega)
      (by omega) (4 * d.len + 4) (by omega)
    obtain ⟨v, last, written⟩ := copyLoop_scatter hc plain hX hs d.len t 0 at_ whole (by omega) f (by omega)
    exact ⟨v, run.trans last, written⟩

end

end Sys2Proof.Machine
end

section
/-! SUPPORT. COPY as a row; entries sent to a sluice; a near-bank command read and handed on (R168, R284, R285). -/

namespace Sys2Proof.Machine

/-! ### Reshuffles keep the number of bytes -/

theorem Desc.Sound.width {d : Desc} (h : d.Sound) (hop : d.op = 1) (hs : d.shuf = 1 ∨ d.shuf = 2) : d.width = 2 ∨ d.width = 4 := by
  have plain := h.plain
  unfold Desc.reservedSet at plain
  rcases hs with hs | hs <;>
  · simp only [Bool.or_eq_false_iff] at plain
    obtain ⟨-, last⟩ := plain
    simp only [hop, hs] at last
    by_cases w2 : d.width = 2
    · exact .inl w2
    · simp [w2] at last
      exact .inr last.2

theorem Desc.Sound.shuffle_length {d : Desc} (h : d.Sound) (hop : d.op = 1) (hs : d.shuf ≤ 4) {l : List Byte} (hl : l.length = 64 * d.len) :
    (d.shuffle l).length = 64 * d.len := by
  have blocks := h.blocks
  unfold Desc.block at blocks
  have cases_ : d.shuf = 0 ∨ (d.shuf = 1 ∨ d.shuf = 2) ∨ d.shuf = 3 ∨ d.shuf = 4 := by omega
  obtain h0 | hw | hr := cases_
  · unfold Desc.shuffle
    simp [h0, hl]
  · have width := h.width hop hw
    have pos : 0 < d.width := by omega
    rw [if_neg (by rcases hw with e | e <;> simp [e]), if_pos (by omega)] at blocks
    obtain ⟨q, hq⟩ := Nat.dvd_of_mod_eq_zero blocks
    have cut : l.length = 64 * q * d.width := by rw [hl, hq]; ring
    unfold Desc.shuffle
    rcases hw with e | e <;> rw [e, ← hl]
    · exact psplitBytes_length pos cut
    · exact pjoinBytes_length pos cut
  · obtain ⟨planes, rrec⟩ := h.records (by omega)
    rw [if_neg (by rcases hr with e | e <;> simp [e]), if_neg (by omega)] at blocks
    obtain ⟨q, hq⟩ := Nat.dvd_of_mod_eq_zero blocks
    have cut : l.length = d.planes * q * (64 * d.rrec) := by rw [hl, hq]; ring
    unfold Desc.shuffle
    rcases hr with e | e <;> rw [e, ← hl]
    · exact intlvBytes_length (Nat.pos_of_ne_zero planes) (Nat.pos_of_ne_zero rrec) cut
    · exact deintlvBytes_length (Nat.pos_of_ne_zero planes) (Nat.pos_of_ne_zero rrec) cut

/-! ### A COPY that runs to its end -/

section
variable {s : State} {ch : Nat} {d : Desc}

/-- The state in which a descriptor begins of which nothing has been read ahead. -/
def State.begunDesc (s : State) (ch : Nat) : State :=
  s.onChan ch fun c => { c with begun := true, done := 0, issued := 0, got := [], ahead := [] }

/-- A copy between ranges of host memory as it ends (R284). -/
theorem copyRun_begun (hc : s.HostCopy ch d) (hs : d.shuf ≤ 4) :
    let t := (s.begunDesc ch).copyRun ch d
    t.hostMem.read d.dst (64 * d.len) = d.shuffle (s.hostMem.read d.src (64 * d.len))
      ∧ (∀ x, x < d.dst ∨ d.dst + 64 * d.len ≤ x → t.hostMem.byte x = s.hostMem.byte x)
      ∧ (t.chan ch).finish = some (.ok, d.len) ∧ (∀ k, k ≠ ch → t.chan k = s.chan k)
      ∧ t = { s with dma := t.dma, hostMem := t.hostMem, engines := t.engines } := by
  intro t
  have size := hc.sound.shuffle_length hc.op hs (l := s.hostMem.read d.src (64 * d.len)) (Memory.read_length ..)
  have own : (s.begunDesc ch).chan ch = _ := s.onChan_self ch _
  have start : s.CopyAt ch d (d.shuffle (s.hostMem.read d.src (64 * d.len))) 0 (s.begunDesc ch) := by
    refine ⟨.start, by rw [own], Nat.zero_le _, fun x => ?_⟩
    rw [Nat.mul_zero, List.take_zero, Memory.byte_write_outside _ _ _ _ (by rw [List.length_nil]; omega)]
    rfl
  obtain ⟨v, run, ended⟩ := copyRun_host hc start (by rw [own]) (hc.sound.some_ (by rw [hc.op]; omega)) rfl size
  have whole : (d.shuffle (s.hostMem.read d.src (64 * d.len))).take (64 * d.len) = d.shuffle (s.hostMem.read d.src (64 * d.len)) :=
    List.take_of_length_le (Nat.le_of_eq size)
  have mem := ended.mem
  rw [whole] at mem
  have finished : t = v.finishDesc ch .ok d.len := run
  have hostMem : t.hostMem = v.hostMem := by rw [finished]; rfl
  refine ⟨?_, fun x hx => ?_, ?_, fun k hk => ?_, ?_⟩
  · rw [hostMem, Memory.read_congr fun x _ _ => mem x]
    have back := Memory.read_write s.hostMem d.dst (d.shuffle (s.hostMem.read d.src (64 * d.len)))
    rwa [size] at back
  · rw [hostMem, mem, Memory.byte_write_outside _ _ _ _ (by omega)]
  · rw [finished, State.finishDesc, State.onChan_self]
  · rw [finished, State.finishDesc, State.onChan_other _ _ _ hk]
    exact ended.moving.others k hk
  · rw [finished]
    exact (congrArg (fun w : State => { w with dma := (v.finishDesc ch .ok d.len).dma }) ended.moving.frame :)

/-! ### Entries sent to a sluice (R168) -/

/-- The `i`-th entry that a TO_SLUICE reads. -/
def State.entryOf (s : State) (d : Desc) (i : Nat) : List Byte := s.hostMem.read (d.src + 64 * i) 64

/-- `j` entries of a TO_SLUICE have been sent to the sluice of cluster `cl`, which was `x`. -/
structure State.FedAt (s : State) (ch cl : Nat) (d : Desc) (x : SluiceIn) (j : Nat) (u : State) : Prop where
  moving : State.Moving { s with clusters := u.clusters } ch u
  mem : u.hostMem = s.hostMem
  done : (u.chan ch).done = 0
  sluice : (u.cluster cl).sin = { x with
    bound := some ch, inflight := x.inflight + j, coming := (List.range j).map (s.entryOf d) }
  others : ∀ k, k ≠ cl → u.cluster k = s.cluster k

section
variable {cl : Nat} {x : SluiceIn} {u : State}

theorem feedSluice_of_end (h : (u.cluster cl).sin.credit = 0 ∨ d.len ≤ (u.chan ch).done + (u.cluster cl).sin.coming.length) (fuel : Nat) :
    State.feedSluice ch cl d (fuel + 1) u = u := by
  unfold State.feedSluice
  dsimp only
  refine if_pos ?_
  rcases h with h | h <;> simp [h]

theorem feedSluice_of_entry (hl : (u.chan ch).done + (u.cluster cl).sin.coming.length < d.len) (hc : (u.cluster cl).sin.credit ≠ 0)
    (ho : (u.cluster cl).sin.open_ = true) (hg : 64 ≤ (u.chan ch).got.length) (fuel : Nat) : State.feedSluice ch cl d (fuel + 1) u
      = State.feedSluice ch cl d fuel ((u.onChan ch fun c => { c with got := [] }).sendEntry ch cl (u.chan ch).got) := by
  conv_lhs => unfold State.feedSluice
  dsimp only
  rw [if_neg (by simp [Nat.not_le.2 hl, hc, ho]), if_pos hg]

theorem feedSluice_of_read (hl : (u.chan ch).done + (u.cluster cl).sin.coming.length < d.len) (hc : (u.cluster cl).sin.credit ≠ 0)
    (ho : (u.cluster cl).sin.open_ = true) (hg : (u.chan ch).got.length < 64) {v : State}
    (hv : u.pull ch d d.srcDev (d.src + 64 * ((u.chan ch).done + (u.cluster cl).sin.coming.length)) 64 = v)
    (hlife : (v.chan ch).life = (u.chan ch).life) (hgot : (v.chan ch).got ≠ []) (fuel : Nat) :
    State.feedSluice ch cl d (fuel + 1) u = State.feedSluice ch cl d fuel v := by
  have some_ : (v.chan ch).got.isEmpty = false := by simpa using hgot
  conv_lhs => unfold State.feedSluice
  dsimp only
  rw [if_neg (by simp [Nat.not_le.2 hl, hc, ho]), if_neg (Nat.not_le.2 hg), hv, if_neg (by simp [hlife, some_])]

/-- An entry is read and sent. -/
theorem State.FedAt.next {j : Nat} (h : s.FedAt ch cl d x j u) (hg : (u.chan ch).got = []) (hm : s.mayAskHost ch = true)
    (hsrc : d.srcDev = false) (hal : d.src % 64 = 0) (hok : s.hostOk (s.chan ch).func d.src (64 * d.len) = true)
    (ho : x.open_ = true) (hl : j < d.len) (hc : j < x.credit) (fuel : Nat) :
    ∃ v, State.feedSluice ch cl d (fuel + 1 + 1) u = State.feedSluice ch cl d fuel v ∧ s.FedAt ch cl d x (j + 1) v ∧ (v.chan ch).got = [] := by
  have sent : (u.chan ch).done + (u.cluster cl).sin.coming.length = j := by rw [h.done, h.sluice]; simp
  have credit : (u.cluster cl).sin.credit ≠ 0 := by
    rw [h.sluice]
    unfold SluiceIn.credit at hc ⊢
    dsimp only
    omega
  have opened : (u.cluster cl).sin.open_ = true := by rw [h.sluice]; exact ho
  obtain ⟨moving, done, got, mem, clusters⟩ := h.moving.pull (d := d) (a := d.src + 64 * j) (n := 64) (b := d.src) (m := 64 * d.len) hm hok
    (Nat.le_add_right ..) (by omega)
  have n64 : min 64 (4096 - (d.src + 64 * j) % 4096) = 64 := by omega
  rw [hg, n64, h.mem, List.nil_append] at got
  rw [h.done] at done
  have size : (s.hostMem.read (d.src + 64 * j) 64).length = 64 := Memory.read_length ..
  obtain ⟨v, hv⟩ : ∃ v, v = u.pull ch d false (d.src + 64 * j) 64 := ⟨_, rfl⟩
  rw [← hv] at moving done got mem clusters
  have same : ∀ k, v.cluster k = u.cluster k := fun k => congrArg (fun m => Sparse.get ({} : Cluster) m k) clusters
  have life : (v.chan ch).life = (u.chan ch).life := moving.chan.2.1.trans h.moving.chan.2.1.symm
  have first := feedSluice_of_read (v := v) (by rw [sent]; exact hl) credit opened (by rw [hg]; simp) (by rw [sent, hsrc, hv]) life
    (by rw [got]; intro e; rw [e] at size; simp at size) (fuel + 1)
  have second := feedSluice_of_entry (u := v) (ch := ch) (cl := cl) (d := d) (by rw [done, same, h.sluice]; simpa using hl) (by rw [same]; exact credit)
    (by rw [same]; exact opened) (by rw [got, size]) fuel
  refine ⟨_, first.trans second, ⟨?_, ?_, ?_, ?_, fun k hk => ?_⟩, ?_⟩
  · have emptied := moving.onChan (g := fun c => { c with got := [] }) (c := { v.chan ch with got := [] }) rfl
    exact ⟨(congrArg (fun w : State => { w with
        clusters := ((v.onChan ch fun c => { c with got := [] }).sendEntry ch cl (v.chan ch).got).clusters
        engines := ((v.onChan ch fun c => { c with got := [] }).sendEntry ch cl (v.chan ch).got).engines }) emptied.frame :),
      emptied.own, emptied.others⟩
  · exact mem.trans h.mem
  · show ((v.onChan ch fun c => { c with got := [] }).chan ch).done = 0
    rw [State.onChan_self]
    exact done
  · have own : ((v.onChan ch fun c => { c with got := [] }).sendEntry ch cl (v.chan ch).got).cluster cl = _ :=
      (State.onCluster_cluster ..).trans (if_pos rfl)
    rw [own]
    show ({ (v.cluster cl).sin with
      inflight := (v.cluster cl).sin.inflight + 1, coming := (v.cluster cl).sin.coming ++ [(v.chan ch).got] } : SluiceIn) = _
    rw [same, h.sluice, got, List.range_succ, List.map_append]
    rfl
  · exact ((State.onCluster_cluster ..).trans (if_neg (Ne.symm hk))).trans ((same k).trans (h.others k hk))
  · show ((v.onChan ch fun c => { c with got := [] }).chan ch).got = []
    rw [State.onChan_self]

/-- Entries are sent until the credits or the descriptor are used up (R168). -/
theorem feedSluice_runs (hm : s.mayAskHost ch = true) (hsrc : d.srcDev = false) (hal : d.src % 64 = 0)
    (hok : s.hostOk (s.chan ch).func d.src (64 * d.len) = true) (ho : x.open_ = true) :
    ∀ (m : Nat) (u : State) (j : Nat), s.FedAt ch cl d x j u → (u.chan ch).got = [] → j + m = min d.len x.credit → ∀ fuel, 2 * m + 1 ≤ fuel →
      s.FedAt ch cl d x (min d.len x.credit) (State.feedSluice ch cl d fuel u) := by
  intro m
  induction m with
  | zero =>
    intro u j h _ hj fuel hfuel
    obtain ⟨f, rfl⟩ : ∃ f, fuel = f + 1 := ⟨fuel - 1, by omega⟩
    rw [feedSluice_of_end]
    · rwa [← hj, Nat.add_zero]
    · rw [h.done, h.sluice]
      simp only [SluiceIn.credit, List.length_map, List.length_range] at hj ⊢
      omega
  | succ m ih =>
    intro u j h hg hj fuel hfuel
    obtain ⟨f, rfl⟩ : ∃ f, fuel = f + 1 + 1 := ⟨fuel - 2, by omega⟩
    obtain ⟨v, run, next, got⟩ := h.next hg hm hsrc hal hok ho (by omega) (by omega) f
    rw [run]
    exact ih v (j + 1) next got (by omega) f (by omega)

end

end

end Sys2Proof.Machine
end

section
/-! Copies and reshuffles, sluices, near-bank commands and walks (R168, R255, R284, R285). -/

namespace Sys2Proof.Machine

/-! ### A near-bank command is read and handed on (R285) -/

section
variable {s u : State} {ch : Nat} {d : Desc}

/-- What a near-bank descriptor may reach is not a matter of its channel's progress. -/
theorem State.Moving.slotCheck (h : s.Moving ch u) (mask : Nat) : u.slotCheck ch d mask = s.slotCheck ch d mask := by
  have backed : ∀ a n, u.dmaBacked a n = s.dmaBacked a n := by
    intro a n
    rw [h.frame]
    rfl
  obtain ⟨c, own⟩ := h.own
  have polders : ∀ k, u.polderOf k = s.polderOf k := by
    intro k
    rw [h.frame]
    rfl
  have domain : ∀ a, u.domain a = s.domain a := by
    intro a
    rw [h.frame]
    rfl
  have intlv : u.intlvPkg = s.intlvPkg := by rw [h.frame]
  have bytes : u.chBytes = s.chBytes := by
    rw [h.frame]
    rfl
  have reach : ∀ a n, u.mayReach ch a n = s.mayReach ch a n := by
    intro a n
    unfold State.mayReach
    rw [own]
    simp only [polders]
  have command : ∀ k, u.mayCommand ch k = s.mayCommand ch k := by
    intro k
    unfold State.mayCommand
    rw [own, domain, intlv, bytes]
  unfold State.slotCheck
  simp only [backed, reach, command]

theorem State.Moving.turnedAway (h : s.Moving ch u) (who : Requester) (place : Nat) (target : Option Nat) :
    u.turnedAway who place target = s.turnedAway who place target := by
  rw [h.frame]
  rfl

/-- The command that a near-bank descriptor of a channel spells. -/
def State.commandOf (s : State) (ch : Nat) (d : Desc) : NbCmd :=
  ⟨patch (s.hostMem.read d.src 64) 2 (polderByte (s.chan ch).polder), s.hostMem.read (d.src + 64) (64 * d.len - 64), ch, (s.chan ch).life⟩

/-- The channel, its command's completions awaited. -/
def awaiting (chans : List Nat) (c : DmaCh) : DmaCh := { c with awaited := chans, got := [] }

/-- The command is handed to its dispatcher. -/
def State.handed (u : State) (ch k : Nat) (cmd : NbCmd) : State :=
  ((((u.onChan ch (awaiting (cmd.selected k))).progress ch).engineCount ch 1 1).engineCount ch 0
    (cmd.header.length + cmd.payload.length)).onStack k fun x => { x with dispatch := x.dispatch ++ [cmd] }

/-- The header and the payload are there: the command is handed on. -/
theorem nbcmdLoop_of_whole (h : s.Moving ch u) (hgot : (u.chan ch).got = s.hostMem.read d.src (64 * d.len))
    (haw : (s.chan ch).awaited = []) (hl : d.len = 1 + fieldAt (s.hostMem.read d.src 64) 10 2)
    (hs : s.slotCheck ch d (fieldAt (s.hostMem.read d.src 64) 4 4) = none)
    (ht : s.turnedAway (.dma ch) (2 ^ 61 + bits d.param 0 5) none = false)
    (hd : (u.stack (bits d.param 0 5)).dispatch.length < 8) (fuel : Nat) :
    State.nbcmdLoop ch d (fuel + 1) u = u.handed ch (bits d.param 0 5) (s.commandOf ch d) := by
  obtain ⟨-, life, -, -, -, -, polder, awaited⟩ := h.chan
  have pos : 64 ≤ 64 * d.len := by omega
  have field : ∀ o n, o + n ≤ 64 → fieldAt (s.hostMem.read d.src (64 * d.len)) o n = fieldAt (s.hostMem.read d.src 64) o n := by
    intro o n ho
    rw [fieldAt_read _ _ (by omega), fieldAt_read _ _ ho]
  have head : (s.hostMem.read d.src (64 * d.len)).take 64 = s.hostMem.read d.src 64 := by
    have piece := read_slice s.hostMem d.src (n := 64 * d.len) (o := 0) (k := 64) (by omega)
    rwa [List.drop_zero] at piece
  have tail : (s.hostMem.read d.src (64 * d.len)).drop 64 = s.hostMem.read (d.src + 64) (64 * d.len - 64) := by
    have piece := read_slice s.hostMem d.src (n := 64 * d.len) (o := 64) (k := 64 * d.len - 64) (by omega)
    rwa [List.take_of_length_le (by rw [List.length_drop, Memory.read_length])] at piece
  have away : (u.onChan ch (awaiting ((s.commandOf ch d).selected (bits d.param 0 5)))).turnedAway (.dma ch) (2 ^ 61 + bits d.param 0 5) none = false :=
    (rfl : _ = u.turnedAway (.dma ch) (2 ^ 61 + bits d.param 0 5) none).trans ((h.turnedAway ..).trans ht)
  have sent : (u.onChan ch (awaiting ((s.commandOf ch d).selected (bits d.param 0 5)))).sendNb ch (bits d.param 0 5) (s.commandOf ch d)
      = u.handed ch (bits d.param 0 5) (s.commandOf ch d) := by
    unfold State.sendNb
    rw [if_neg (by rw [away]; exact Bool.false_ne_true)]
    exact if_pos hd
  conv_lhs => unfold State.nbcmdLoop
  dsimp only
  rw [if_neg (by simp [awaited, haw]), if_neg (by rw [hgot, Memory.read_length]; exact Nat.lt_irrefl _), hgot, field 10 2 (by omega),
    field 4 4 (by omega), h.slotCheck, hs, if_neg (by simpa using hl), head, tail, life, polder]
  exact sent

/-- Pieces of the command are read until it is whole. -/
theorem nbcmdLoop_gather (hm : s.mayAskHost ch = true) (hsrc : d.srcDev = false) (hal : d.src % 64 = 0)
    (hok : s.hostOk (s.chan ch).func d.src (64 * d.len) = true) (haw : (s.chan ch).awaited = []) :
    ∀ (m : Nat) (u : State) (j : Nat), s.Moving ch u → u.hostMem = s.hostMem → (u.chan ch).got = (s.hostMem.read d.src (64 * d.len)).take j →
      j % 64 = 0 → j ≤ 64 * d.len → 64 * d.len - j ≤ 64 * m → ∀ fuel, m + 1 ≤ fuel →
      ∃ t f, State.nbcmdLoop ch d fuel u = State.nbcmdLoop ch d (f + 1) t ∧ s.Moving ch t ∧ t.hostMem = s.hostMem
        ∧ (t.chan ch).got = s.hostMem.read d.src (64 * d.len) := by
  have all : (s.hostMem.read d.src (64 * d.len)).take (64 * d.len) = s.hostMem.read d.src (64 * d.len) :=
    List.take_of_length_le (by rw [Memory.read_length])
  intro m
  induction m with
  | zero =>
    intro u j h mem got _ hj hm fuel hfuel
    obtain ⟨f, rfl⟩ : ∃ f, fuel = f + 1 := ⟨fuel - 1, by omega⟩
    have last : j = 64 * d.len := by omega
    exact ⟨u, f, rfl, h, mem, by rw [got, last, all]⟩
  | succ m ih =>
    intro u j h mem got h64 hj hm' fuel hfuel
    obtain ⟨f, rfl⟩ : ∃ f, fuel = f + 1 := ⟨fuel - 1, by omega⟩
    by_cases last : j = 64 * d.len
    · exact ⟨u, f, rfl, h, mem, by rw [got, last, all]⟩
    · have held : (u.chan ch).got.length = j := by rw [got, List.length_take, Memory.read_length]; omega
      obtain ⟨n, hn⟩ : ∃ n, n = min (64 * d.len - j) (4096 - (d.src + j) % 4096) := ⟨_, rfl⟩
      obtain ⟨-, life, -, -, -, -, -, awaited⟩ := h.chan
      obtain ⟨moving, -, read, mem', -⟩ := h.pull (d := d) (a := d.src + j) (n := 64 * d.len - j) hm hok (Nat.le_add_right ..) (by omega)
      rw [← hn, mem, got, ← read_slice s.hostMem d.src (n := 64 * d.len) (o := j) (k := n) (by omega), ← List.take_add] at read
      obtain ⟨-, life', -⟩ := moving.chan
      have next : State.nbcmdLoop ch d (f + 1) u = State.nbcmdLoop ch d f (u.pull ch d false (d.src + j) (64 * d.len - j)) := by
        have longer : ((u.pull ch d false (d.src + j) (64 * d.len - j)).chan ch).got.length ≠ j := by
          rw [read, List.length_take, Memory.read_length]
          omega
        conv_lhs => unfold State.nbcmdLoop
        dsimp only
        rw [if_neg (by simp [awaited, haw]), if_pos (by rw [held]; omega), held, hsrc, if_neg]
        simp [life, life', longer]
      rw [next]
      exact ih _ (j + n) moving (mem'.trans mem) read (by omega) (by omega) (by omega) f (by omega)

theorem State.handed_stack (k : Nat) (cmd : NbCmd) (j : Nat) : (u.handed ch k cmd).stack j
    = if k = j then { u.stack k with dispatch := (u.stack k).dispatch ++ [cmd] } else u.stack j := State.sentNb_stack ..

theorem State.handed_chan (k : Nat) (cmd : NbCmd) :
    (u.handed ch k cmd).chan ch = { awaiting (cmd.selected k) (u.chan ch) with progressAt := u.time.dev } := State.sentNb_chan ..

/-- What the hand-over of a command leaves. -/
theorem State.Moving.handed (h : s.Moving ch u) (hmem : u.hostMem = s.hostMem) (k : Nat) (cmd : NbCmd) :
    let t := u.handed ch k cmd
    (t.stack k).dispatch = (s.stack k).dispatch ++ [cmd] ∧ (t.chan ch).awaited = cmd.selected k
      ∧ (∀ j, j ≠ k → t.stack j = s.stack j) ∧ (∀ j, j ≠ ch → t.chan j = s.chan j)
      ∧ t = { s with dma := t.dma, edgeStacks := t.edgeStacks, engines := t.engines } := by
  intro t
  have queues : ∀ j, u.stack j = s.stack j := fun j => by
    rw [h.frame]
    rfl
  refine ⟨?_, ?_, fun j hj => ?_, fun j hj => ?_, ?_⟩
  · rw [State.handed_stack, if_pos rfl, queues]
  · rw [State.handed_chan]
    rfl
  · rw [State.handed_stack, if_neg (Ne.symm hj), queues]
  · have count : ∀ (v : State) i m, (v.engineCount ch i m).chan j = v.chan j := fun _ _ _ => rfl
    have stack : ∀ v : State, (v.onStack k fun x => { x with dispatch := x.dispatch ++ [cmd] }).chan j = v.chan j := fun _ => rfl
    show (State.handed u ch k cmd).chan j = _
    unfold State.handed
    rw [stack, count, count, State.progress, State.onChan_other _ _ _ hj, State.onChan_other _ _ _ hj]
    exact h.others j hj
  · have moved := State.eq_of_sansRetry (State.sentNb_sansRetry (s := u) (ch := ch) (awaiting (cmd.selected k)) 1
      (cmd.header.length + cmd.payload.length) k fun x => { x with dispatch := x.dispatch ++ [cmd] })
    have base : u = { s with dma := u.dma, engines := u.engines } := by
      conv_lhs => rw [h.frame, hmem]
    exact moved.trans (congrArg (fun w : State => { w with dma := t.dma, edgeStacks := t.edgeStacks, engines := t.engines }) base :)

/-! ### Descriptors of which nothing has been read ahead begin -/

/-- A descriptor that may begin, and of which nothing has been read ahead. -/
structure State.Begins (s : State) (ch : Nat) (d : Desc) : Prop where
  desc : s.desc ch = some d
  working : s.working ch = true
  begun : (s.chan ch).begun = false
  open_ : (s.chan ch).finish = none
  answered : (s.chan ch).unanswered = false
  retry : (s.chan ch).retry = none
  ahead : (s.chan ch).ahead = []
  check : s.descCheck ch d = none

theorem State.Begins.run (h : s.Begins ch d) {mine : Desc → Bool} (hm : mine d = true) (run : State → Desc → State) :
    s.runDesc ch mine run = run (s.begunDesc ch) d := by
  rw [State.runDesc_of_begun s ch h.desc h.working h.open_ h.answered h.retry h.begun h.check hm]
  refine congrArg (fun w => run w d) ?_
  unfold State.begunDesc State.onChan
  dsimp only
  rw [h.ahead]

theorem State.Begins.begunDesc (h : s.Begins ch d) :
    s.begunDesc ch = s.setChan ch { s.chan ch with begun := true, done := 0, issued := 0, got := [] } := by
  have ahead := h.ahead
  unfold State.begunDesc State.onChan
  refine congrArg (s.setChan ch) ?_
  cases hc : s.chan ch
  rw [hc] at ahead
  simpa using ahead.symm

/-- A TO_SLUICE of which nothing has been sent. -/
theorem State.FedAt.start {cl : Nat} (hcoming : (s.cluster cl).sin.coming = []) :
    s.FedAt ch cl d (s.cluster cl).sin 0 ((s.begunDesc ch).bindIn ch cl) ∧ ((((s.begunDesc ch).bindIn ch cl).chan ch).got = []) := by
  have chan : ∀ k, ((s.begunDesc ch).bindIn ch cl).chan k = (s.begunDesc ch).chan k := fun _ => rfl
  have own : (s.begunDesc ch).chan ch = _ := s.onChan_self ch _
  have base : s.Moving ch (s.begunDesc ch) := .start
  refine ⟨⟨⟨?_, ?_, fun k hk => ?_⟩, rfl, ?_, ?_, fun k hk => ?_⟩, ?_⟩
  · exact (congrArg (fun w : State => { w with clusters := ((s.begunDesc ch).bindIn ch cl).clusters }) base.frame :)
  · exact base.own
  · exact base.others k hk
  · rw [chan, own]
  · have bound : ((s.begunDesc ch).bindIn ch cl).cluster cl = _ := (State.onCluster_cluster ..).trans (if_pos rfl)
    rw [bound]
    show ({ (s.cluster cl).sin with bound := some ch } : SluiceIn) = _
    cases hx : (s.cluster cl).sin
    rw [hx] at hcoming
    simpa using hcoming
  · exact (State.onCluster_cluster ..).trans (if_neg (Ne.symm hk))
  · rw [chan, own]

end

end Sys2Proof.Machine

open Sys2Proof Sys2Proof.Machine

/-- Settles O43: copies by `copyRun_begun`, entries by `feedSluice_runs`, commands by `nbcmdLoop_of_whole`, and the places of
elements by the lemmas about `transpose`. -/
theorem dmaCopiesAndCommands : Obligations.DmaCopiesAndCommands := by
  unfold Obligations.DmaCopiesAndCommands
  refine ⟨?_, ?_, ?_⟩
  · intro s ch d hd hw hb hf hp hr hrem hretry hahead hcheck hm begun host
    have begins : s.Begins ch d := ⟨hd, hw, hb, hf, by simp [DmaCh.unanswered, hp, hr, hrem], hretry, hahead, hcheck⟩
    have sound := Desc.sound_of_check hcheck
    refine ⟨?_, ?_, ?_, ?_, ?_⟩
    · intro i hi hsd hdd hso hdo
      have copies : d.op = 1 → d.shuf ≤ 4 → _ := fun hop hs => copyRun_begun
        ⟨hm, hf, begins.answered, hd, hop, hsd, hdd, hso, hdo, sound⟩ hs
      have run : ∀ mine : Desc → Bool, mine d = true →
          s.runDesc ch mine (fun u e => u.copyRun ch e) = (s.begunDesc ch).copyRun ch d := fun mine hmine => begins.run hmine _
      simp only [List.mem_cons, Prod.mk.injEq, List.not_mem_nil, or_false] at hi
      obtain ⟨rfl, hop, hs⟩ | ⟨rfl, hop, hs⟩ | ⟨rfl, hop, hs⟩ | ⟨rfl, hop, hs⟩ | ⟨rfl, hop, hs⟩ := hi <;>
        exact ⟨_, congrArg Host.Outcome.next (run _ (by simp [hop, hs])), copies hop (by omega)⟩
    · intro hop hsd hso hbind hcoming
      have opened : (s.cluster (d.dst / 2)).sin.open_ = true := by
        simp only [State.canBindIn, Bool.and_eq_true] at hbind
        exact hbind.1
      have aligned : d.src % 64 = 0 := by
        have ranges : d.ranges = [(d.srcDev, d.src, 64 * d.len)] := by simp [Desc.ranges, hop]
        have all := sound.aligned
        rw [ranges] at all
        exact all _ List.mem_cons_self
      obtain ⟨start, empty⟩ := State.FedAt.start (s := s) (ch := ch) (d := d) hcoming
      have credits : (s.cluster (d.dst / 2)).sin.credit ≤ 32 := by
        unfold SluiceIn.credit
        omega
      have fed := feedSluice_runs hm hsd aligned hso opened _ _ 0 start empty (Nat.zero_add _) 130 (by omega)
      have may : (s.begunDesc ch).canBindIn ch (d.dst / 2) = true := hbind
      refine ⟨_, congrArg Host.Outcome.next ((begins.run (by simp [hop]) _).trans (if_pos may)), fed.sluice, fed.others,
        fed.moving.others, ?_⟩
      have frame := fed.moving.frame
      rw [fed.mem] at frame
      exact frame
    · intro hop hbind
      have own : (s.begunDesc ch).chan ch = _ := s.onChan_self ch _
      have some_ : d.len ≠ 0 := sound.some_ (by omega)
      have may : (s.begunDesc ch).canBindOut ch (d.src / 2) = true := hbind
      show exec (.fromSluice ch) s = .next ((s.setChan ch _).bindOut ch (d.src / 2))
      rw [← begins.begunDesc]
      refine congrArg Host.Outcome.next ((begins.run (by simp [hop]) _).trans ?_)
      dsimp only
      rw [own, if_neg (by simpa using Ne.symm some_), if_pos may]
    · intro hop hsd hso haw hslot haway hlen hroom
      have aligned : d.src % 64 = 0 := by
        have ranges : d.ranges = [(d.srcDev, d.src, 64 * d.len)] := by simp [Desc.ranges, hop]
        have all := sound.aligned
        rw [ranges] at all
        exact all _ List.mem_cons_self
      have own : (s.begunDesc ch).chan ch = _ := s.onChan_self ch _
      obtain ⟨t, f, run, moving, mem, got⟩ := nbcmdLoop_gather hm hsd aligned hso haw d.len (s.begunDesc ch) 0 .start rfl
        (by rw [own, List.take_zero]) rfl (by omega) (by omega) (d.len + 4) (by omega)
      have queues : t.stack (bits d.param 0 5) = s.stack (bits d.param 0 5) := by
        rw [moving.frame]
        rfl
      have last := nbcmdLoop_of_whole moving got haw hlen hslot haway (by rw [queues]; exact hroom) f
      exact ⟨_, congrArg Host.Outcome.next ((begins.run (by simp [hop]) _).trans (run.trans last)), moving.handed mem _ _⟩
    · intro hop
      show exec (.kvwalk ch) s = .next (State.walkLoop ch d 1000000 (s.setChan ch _))
      rw [← begins.begunDesc]
      exact congrArg Host.Outcome.next (begins.run (by simp [hop]) _)
  · intro w l hw hl
    have pos : 0 < w := by omega
    have cut : l.length = l.length / w * w := (Nat.div_mul_cancel (Nat.dvd_of_mod_eq_zero hl)).symm
    have joins : JoinsInOrder w := by
      rcases hw with rfl | rfl
      · exact joinsInOrder_two
      · exact joinsInOrder_four
    refine ⟨fun b e hb he => psplitBytes_bit pos cut hb ?_, pjoin_psplit joins pos cut⟩
    rwa [cut, ← Nat.mul_assoc, Nat.mul_div_cancel _ pos] at he
  · intro p r n l hp hr hl
    exact ⟨fun i j hi hj => intlvBytes_record hp hr hl hi hj, deintlv_intlv hp hr hl⟩

end

section
/-! BAR4, VF_MAP, whole register accesses, MSI-X and Bus Master Enable (R12, R298-R303). -/

namespace Sys2Proof.Machine

/-! ### A request of one part (R301) -/

/-- An access that stays inside a granule is one part. -/
theorem partsOf_one {a : Nat} {acc : Access} (h : a % 4096 + accLen acc ≤ 4096) : partsOf a acc = [(a, acc)] := by
  have room : accLen acc ≤ 4096 - a % 4096 := by omega
  unfold partsOf granules
  cases acc with
  | read n => simp only [accSplit, if_pos (show n ≤ 4096 - a % 4096 from room)]
  | write l => simp only [accSplit, if_pos (show l.length ≤ 4096 - a % 4096 from room)]

section
variable {s : State}

/-- A host read of one part, with no read ahead of it that waits. -/
theorem State.hostReadParts_one (free : s.stallsAt true = none) (a k : Nat) (r : State × Got)
    (hr : r = s.access { who := .host, part := s.gatherNo * 4096 + 1 } a (.read k) []) :
    (r.2.status = .ok → s.hostReadParts [(some a, .read k)] [] = { r.1 with reply := .data r.2.data })
      ∧ (r.2.status ≠ .ok → r.2.status ≠ .held → s.hostReadParts [(some a, .read k)] [] = { r.1 with reply := .completerAbort })
      ∧ (r.2.status = .held → s.hostReadParts [(some a, .read k)] [] = { r.1 with
          reply := .none
          gatherNo := s.gatherNo + 1
          gathers := r.1.gathers ++ [⟨s.gatherNo, .host, false, 0, [none]⟩] }) := by
  have made : s.makePart .host (s.gatherNo * 4096 + 1) a (.read k) [] = r := by
    unfold State.makePart
    rw [free, hr]
  have parts : s.makeParts .host (s.gatherNo * 4096 + 1) [] [(some a, .read k)]
      = (r.1, [if r.2.status == .held then none else some (r.2.status, r.2.data)]) := by
    unfold State.makeParts
    rw [made]
    rfl
  unfold State.hostReadParts State.gather
  rw [free]
  dsimp only
  rw [parts]
  refine ⟨fun ok => ?_, fun bad live => ?_, fun held => ?_⟩
  · simp [ok, joined, readReply]
  · simp [bad, live, joined, readReply]
  · simp [held]

/-- A posted host write of one part, with none ahead of it that waits. -/
theorem State.hostDevWrite_one (free : s.stallsAt false = none) (off a : Nat) (l : List Byte) (one : a % 4096 + l.length ≤ 4096) :
    s.hostDevWrite off a l [] = { s.hostPiece off a l [] with reply := .done } := by
  have post : s.postPiece off a l [] = s.hostPiece off a l [] := by
    unfold State.postPiece
    rw [free]
  unfold State.hostDevWrite
  rw [partsOf_one (acc := .write l) one]
  simp [State.each, post]

end

/-! ### BAR4 -/

/-- BAR4_WIN by its checks (R299). -/
theorem exec_bar4Win {s : State} {i base : Nat} {x : U64} (hi : i < 4) (hb : base = bits x.toNat 30 18 * 2 ^ 30) :
    (base % s.aperBytes = 0 → base + s.aperBytes ≤ 0x070000000000 →
      exec (.bar4Win i x) s = .next { s with bar4Win := s.bar4Win.set i base, bar4Off := Sparse.set false s.bar4Off i false })
    ∧ (base % s.aperBytes ≠ 0 ∨ 0x070000000000 < base + s.aperBytes →
      exec (.bar4Win i x) s = .next (s.accessError 0 kRefused false (0x200 + 8 * i))) := by
  have start : exec (.bar4Win i x) s = .next (if i < 4 then s.writeBar4Win i x.toNat else s) := rfl
  rw [start, if_pos hi]
  unfold State.writeBar4Win
  rw [← hb]
  dsimp only
  refine ⟨fun aligned fits => ?_, fun bad => ?_⟩
  · rw [if_neg (by simp [aligned, Nat.not_lt.2 fits])]
  · rw [if_pos (by simpa using bad)]

section
variable {s : State} {o : Nat}

theorem State.bar4Addr_of_enabled (on : Sparse.get false s.bar4Off (o / s.aperBytes) = false) :
    s.bar4Addr o = some (nth 0 s.bar4Win (o / s.aperBytes) + o % s.aperBytes) := by
  simp [State.bar4Addr, on]

theorem State.bar4Addr_of_disabled (off : Sparse.get false s.bar4Off (o / s.aperBytes) = true) : s.bar4Addr o = none := by
  simp [State.bar4Addr, off]

variable (mse : (s.func 0).mse = true) (inside : o < 2 ^ s.pcie.bar4Log2)
include mse inside

theorem State.bar4Open_of : s.bar4Open o = true := by simp [State.bar4Open, mse, inside]

theorem exec_bar4Read (k : Nat) : exec (.bar4Read o k) s = .next (s.hostReadParts
    (if k ≤ s.bar4Room o then s.bar4Parts o k else s.bar4Parts o (s.bar4Room o) ++ s.bar4Parts (o + s.bar4Room o) (k - s.bar4Room o))
    []) := by
  have start : exec (.bar4Read o k) s = execBar4Read o k s := rfl
  rw [start]
  unfold execBar4Read
  rw [State.bar4Open_of mse inside]
  rfl

theorem exec_bar4Write (l : List Byte) : exec (.bar4Write o l) s = .next (if l.length ≤ s.bar4Room o then s.bar4WriteOne o l
    else (s.bar4WriteOne o (l.take (s.bar4Room o))).bar4WriteOne (o + s.bar4Room o) (l.drop (s.bar4Room o))) := by
  have start : exec (.bar4Write o l) s = execBar4Write o l s := rfl
  rw [start]
  unfold execBar4Write
  rw [State.bar4Open_of mse inside]
  exact (apply_ite Host.Outcome.next _ _ _).symm

/-- Inside one enabled aperture a request is an access at base plus offset (R300, R301). -/
theorem bar4_enabled {l : List Byte} (fits : l.length ≤ s.bar4Room o)
    (on : Sparse.get false s.bar4Off (o / s.aperBytes) = false) :
    let a := nth 0 s.bar4Win (o / s.aperBytes) + o % s.aperBytes
    (exec (.bar4Read o l.length) s = .next (s.hostReadParts ((partsOf a (.read l.length)).map fun p => (some p.1, p.2)) []))
      ∧ exec (.bar4Write o l) s = .next (s.hostDevWrite o a l []) := by
  intro a
  have at_ := State.bar4Addr_of_enabled on
  refine ⟨?_, ?_⟩
  · rw [exec_bar4Read mse inside, if_pos fits]
    unfold State.bar4Parts
    rw [at_]
  · rw [exec_bar4Write mse inside, if_pos fits]
    unfold State.bar4WriteOne
    rw [at_]

/-- A disabled aperture answers Completer Abort and drops writes (R300). -/
theorem bar4_disabled {l : List Byte} (fits : l.length ≤ s.bar4Room o)
    (off : Sparse.get false s.bar4Off (o / s.aperBytes) = true) :
    (s.stallsAt true = none → exec (.bar4Read o l.length) s = .next { s with reply := .completerAbort })
      ∧ exec (.bar4Write o l) s = .next { s.accessError 0 kBar4 false o with reply := .done } := by
  have at_ := State.bar4Addr_of_disabled off
  refine ⟨fun free => ?_, ?_⟩
  · rw [exec_bar4Read mse inside, if_pos fits]
    unfold State.bar4Parts
    rw [at_]
    unfold State.hostReadParts
    rw [free]
    rfl
  · rw [exec_bar4Write mse inside, if_pos fits]
    unfold State.bar4WriteOne
    rw [at_]

end

/-- What is not served of a host write of one part is logged (R178, R200). -/
theorem State.hostPiece_outcome (s : State) (o a : Nat) (l : List Byte) (r : State × Got)
    (hr : r = s.access { who := .host } a (.write l) []) :
    (r.2.status = .ok ∨ r.2.status = .held ∨ r.2.uncorrectable = true → s.hostPiece o a l [] = r.1)
      ∧ (r.2.status = .domainOff → r.2.uncorrectable = false →
        s.hostPiece o a l [] = r.1.addLog 22 0 31 a o Status.domainOff.code)
      ∧ (r.2.status ≠ .ok → r.2.status ≠ .held → r.2.status ≠ .domainOff → r.2.uncorrectable = false →
        s.hostPiece o a l [] = r.1.accessError 0 kBar4 false o) := by
  unfold State.hostPiece
  rw [← hr]
  dsimp only
  refine ⟨fun served => ?_, fun off sound => ?_, fun bad live on sound => ?_⟩
  · refine if_pos ?_
    rcases served with h | h | h <;> simp [h]
  · rw [if_neg (by simp [off, sound]), if_pos (by simp [off]), off]
  · rw [if_neg (by simp [bad, live, sound]), if_neg (by simp [on])]

/-! ### VF_MAP (R302) -/

/-- A VF_MAP write that its checks allow. -/
theorem State.writeVfMap_of_good {s : State} {v w n : Nat} (hn : n = bits w 0 5)
    (target : n = 31 ∨ n < 24 ∧ (s.polder n).exists_ = true ∧ (s.polder n).state ≠ .running
      ∧ ∀ w, 1 ≤ w → w ≤ 24 → w ≠ v → s.vfPolder w ≠ n)
    (disabled : ∀ ch < 256, (s.chan ch).func = v → (s.chan ch).state = .disabled)
    (old : s.vfPolder v = 31 ∨ (s.polder (s.vfPolder v)).state ≠ .running) :
    s.writeVfMap v w = { s with vfMap := Sparse.set 31 s.vfMap v n } := by
  have chans : ((List.range 256).all fun ch => (s.chan ch).func != v || (s.chan ch).state == .disabled) = true := by
    refine List.all_eq_true.2 fun ch hch => ?_
    have := disabled ch (List.mem_range.1 hch)
    by_cases mine : (s.chan ch).func = v
    · simp [this mine]
    · simp [mine]
  have before : (s.vfPolder v == 31 || (s.polder (s.vfPolder v)).state != .running) = true := by simpa using old
  unfold State.writeVfMap
  dsimp only
  rw [← hn, chans, before]
  rcases target with none_ | ⟨small, real, idle, free⟩
  · simp [none_]
  · have unheld : ((List.range 25).all fun u => u == 0 || u == v || s.vfPolder u != n) = true := by
      refine List.all_eq_true.2 fun u hu => ?_
      have hu := List.mem_range.1 hu
      by_cases zero : u = 0
      · simp [zero]
      · by_cases mine : u = v
        · simp [mine]
        · simp [free u (by omega) (by omega) mine]
    simp [small, real, idle, unheld]

/-! ### Whole register accesses (R12, R490) -/

theorem exec_registerWrite_of_bad {s : State} {f bar o i k : Nat} (bad : s.accessKind f bar o i = some k) (x : U64) :
    exec (.registerWrite f bar o i x) s = .next { s.accessError f k (bar == 2) o with reply := .done } := by
  have start : exec (.registerWrite f bar o i x) s = execRegisterWrite f bar o i x s := rfl
  rw [start]
  unfold execRegisterWrite
  rw [bad]

theorem exec_registerAccessError_of_bad {s : State} {f bar o i k : Nat} (bad : s.accessKind f bar o i = some k) (w : Bool) :
    exec (.registerAccessError f bar o i w) s = .next
      { s.accessError f k (bar == 2) o with reply := if w then .done else .data (zeros i) } := by
  have start : exec (.registerAccessError f bar o i w) s = execRegisterAccessError f bar o i w s := rfl
  rw [start]
  unfold execRegisterAccessError
  rw [bad]

theorem exec_registerWrite_of_whole {s : State} {f bar o i : Nat} (whole : s.accessKind f bar o i = none) (x : U64) :
    exec (.registerWrite f bar o i x) s = .next (if bar == 2 then
        ({ s with reply := .done } : State).writeBar2 f o i (x.toNat % 2 ^ (8 * i))
      else ({ s with reply := .done } : State).writeBar0 o i (x.toNat % 2 ^ (8 * i))) := by
  have start : exec (.registerWrite f bar o i x) s = execRegisterWrite f bar o i x s := rfl
  rw [start]
  unfold execRegisterWrite
  rw [whole]

/-- The fields of a register are those of its low half where they lie there. -/
theorem bits_mod {w a n m : Nat} (h : a + n ≤ m) : bits (w % 2 ^ m) a n = bits w a n := by
  unfold bits
  have step : w % 2 ^ m / 2 ^ a = w / 2 ^ a % 2 ^ (m - a) := by
    rw [show m = a + (m - a) by omega, pow_add, Nat.mod_mul_right_div_self, Nat.add_sub_cancel_left]
  rw [step]
  exact Nat.mod_mod_of_dvd _ (pow_dvd_pow 2 (by omega))

theorem bit_mod {w a m : Nat} (h : a < m) : bit (w % 2 ^ m) a = bit w a := by
  rw [bit_eq_testBit, bit_eq_testBit, Nat.testBit_mod_two_pow]
  simp [h]

/-- MB_CTL (R306). -/
theorem mbCtl_write {s : State} {f : Nat} {x : U64} (fg : bits x.toNat 16 9 < vectorsOf f) (mb : bits x.toNat 0 9 < vectorsOf f) :
    Answers (.registerWrite f 2 0x20 4 x) s fun t =>
      t.func f = { s.func f with d2hIrq := bit x.toNat 31, fgVector := bits x.toNat 16 9, mbVector := bits x.toNat 0 9 }
        ∧ t.reply = .done ∧ s.OnlyFunc f t := by
  have hi : bits (x.toNat % 2 ^ 32) 16 9 = bits x.toNat 16 9 := bits_mod (by decide)
  have lo : bits (x.toNat % 2 ^ 32) 0 9 = bits x.toNat 0 9 := bits_mod (by decide)
  have irq : bit (x.toNat % 2 ^ 32) 31 = bit x.toNat 31 := bit_mod (by decide)
  let wanted (y : Func) : Func :=
    { y with d2hIrq := bit x.toNat 31, fgVector := bits x.toNat 16 9, mbVector := bits x.toNat 0 9 }
  have written : ({ s with reply := .done } : State).writeMbCtl f (x.toNat % 2 ^ 32)
      = ({ s with reply := .done } : State).onFunc f wanted := by
    unfold State.writeMbCtl
    rw [hi, lo, irq, if_neg (by simp [fg, mb])]
  refine ⟨_, (exec_registerWrite_of_whole rfl x).trans (congrArg Host.Outcome.next written), ?_, rfl, rfl, fun g hg => ?_⟩
  · exact State.onFunc_func_same _ f wanted
  · exact State.onFunc_func_other _ wanted hg

/-- The registers of the channels lie in their own range of BAR0. -/
theorem bar0Reg_chan {o : Nat} (lo : 0x1000000 ≤ o) (hi : o < 0x1008000) : bar0Reg o = chanReg (o / 0x80 * 0x80) (o % 0x80) := by
  unfold bar0Reg
  repeat rw [if_neg (by simp; omega)]
  rw [if_pos (by simp [lo, hi])]

/-- The first register of a channel is whole at its own offset. -/
theorem accessKind_ringBase (s : State) {i : Nat} (hi : i < 256) : s.accessKind 0 0 (0x1000000 + 0x80 * i) 8 = none := by
  have reg : s.regAt 0 0 (0x1000000 + 0x80 * i) = some (0x1000000 + 0x80 * i, 8) := by
    refine (bar0Reg_chan (by omega) (by omega)).trans ?_
    rw [show (0x1000000 + 0x80 * i) % 0x80 = 0 by omega, show (0x1000000 + 0x80 * i) / 0x80 * 0x80 = 0x1000000 + 0x80 * i by omega]
    rfl
  unfold State.accessKind
  rw [reg]
  simp [fullAccess]

/-- Writing and reading the first register of a channel, DMA_RING_BASE (R276). -/
theorem ringBase_write {s : State} {i : Nat} (hi : i < 256) (x : U64) :
    Answers (.registerWrite 0 0 (0x1000000 + 0x80 * i) 8 x) s fun t =>
      t.chan i = { s.chan i with base := x.toNat / 64 * 64, baseLow := bits x.toNat 1 5, dev := bit x.toNat 0 }
        ∧ (∀ k, k ≠ i → t.chan k = s.chan k) ∧ t = { s with reply := .done, dma := t.dma }
        ∧ t.readRegister 0 0 (0x1000000 + 0x80 * i) 8
          = { t with reply := .data (leBytes 8 (x.toNat / 64 * 64 + x.toNat % 2)) } := by
  let wanted (c : DmaCh) : DmaCh := { c with base := x.toNat / 64 * 64, baseLow := bits x.toNat 1 5, dev := bit x.toNat 0 }
  have place : (0x1000000 + 0x80 * i - 0x1000000) / 0x80 = i := by omega
  have off : (0x1000000 + 0x80 * i) % 0x80 = 0 := by omega
  have whole : x.toNat % 2 ^ (8 * 8) = x.toNat := Nat.mod_eq_of_lt x.isLt
  have written : ({ s with reply := .done } : State).writeBar0 (0x1000000 + 0x80 * i) 8 (x.toNat % 2 ^ (8 * 8))
      = ({ s with reply := .done } : State).onChan i wanted := by
    unfold State.writeBar0
    repeat rw [if_neg (by simp; omega)]
    rw [if_pos (by simp; omega), place, off, whole]
    rfl
  have own : (({ s with reply := .done } : State).onChan i wanted).chan i = wanted (s.chan i) :=
    (State.onChan_chan ..).trans (if_pos rfl)
  refine ⟨_, (exec_registerWrite_of_whole (accessKind_ringBase s hi) x).trans (congrArg Host.Outcome.next written),
    own, fun k hk => (State.onChan_chan ..).trans (if_neg (Ne.symm hk)), rfl, ?_⟩
  generalize ({ s with reply := .done } : State).onChan i wanted = t at own ⊢
  have read : t.readBar0 (0x1000000 + 0x80 * i) 8 = (t, x.toNat / 64 * 64 + x.toNat % 2) := by
    unfold State.readBar0
    repeat rw [if_neg (by simp; omega)]
    rw [if_pos (by simp; omega), place, off]
    unfold State.readChan
    rw [own]
    have low : b2n (bit x.toNat 0) = x.toNat % 2 := by
      rcases Nat.mod_two_eq_zero_or_one x.toNat with h | h <;> simp [bit, b2n, h]
    rw [← low]
    rfl
  unfold State.readRegister
  rw [accessKind_ringBase t hi]
  dsimp only
  rw [if_neg (by simp), if_neg (by simp), read]

/-! ### MSI-X (R303) -/

/-- Unmasking a vector sends what was pending (R303). -/
theorem msix_unmask {s : State} {f v : Nat} {e : Msix} (he : e = Sparse.get {} (s.func f).msix v) :
    (e.pending = true → (s.func f).bme = true → (s.func f).msixOn = true → Answers (.msixVectorUnmask f v) s fun t =>
        (Sparse.get {} (t.func f).msix v : Msix) = { e with masked := false, pending := false }
          ∧ t.msixSent = Sparse.modify 0 s.msixSent (f * 1024 + v) (· + 1)
          ∧ (∀ g, g ≠ f → t.func g = s.func g) ∧ t = { s with funcs := t.funcs, msixSent := t.msixSent })
      ∧ (e.pending = false → Answers (.msixVectorUnmask f v) s fun t =>
        (Sparse.get {} (t.func f).msix v : Msix) = { e with masked := false } ∧ (∀ g, g ≠ f → t.func g = s.func g)
          ∧ t = { s with funcs := t.funcs }) := by
  let open_ (x : Func) : Func := { x with msix := Sparse.modify {} x.msix v fun e => { e with masked := false } }
  have own : (s.onFunc f open_).func f = open_ (s.func f) := State.onFunc_func_same s f open_
  have entry : (Sparse.get {} (open_ (s.func f)).msix v : Msix) = { e with masked := false } := by
    rw [he]
    exact (Sparse.get_modify ({} : Msix) (s.func f).msix v (fun e => { e with masked := false }) v).trans (if_pos rfl)
  refine ⟨fun pend bme on => ⟨_, rfl, ?_⟩, fun clear => ⟨_, rfl, ?_⟩⟩
  · unfold State.release
    dsimp only
    rw [own, entry, if_pos (by simp [pend, bme, on, open_])]
    refine ⟨?_, rfl, fun g hg => ?_, rfl⟩
    · exact (congrArg (fun x : Func => (Sparse.get {} x.msix v : Msix)) ((State.setFunc_func ..).trans (if_pos rfl))).trans
        ((Sparse.get_set ..).trans (if_pos rfl))
    · exact ((State.setFunc_func ..).trans (if_neg (Ne.symm hg))).trans (State.onFunc_func_other s open_ hg)
  · unfold State.release
    dsimp only
    rw [own, entry, if_neg (by simp [clear])]
    exact ⟨by rw [own, entry], fun g hg => State.onFunc_func_other s open_ hg, rfl⟩

/-! ### Bus Master Enable (R303) -/

/-- A view of a function's registers that sending what is due does not change. -/
structure RingBlind {β : Type} (G : Func → β) : Prop where
  msix : ∀ x m, G { x with msix := m } = G x
  due : ∀ x d n, G { x with due := d, eventsLost := n } = G x
  ring : ∀ x r r', x.ring = some r → G { x with ring := some r' } = G x

namespace RingBlind

variable {β : Type} {G : Func → β} (B : RingBlind G) (s : State) (f : Nat)

theorem onFunc {g : Func → Func} (h : G (g (s.func f)) = G (s.func f)) : G ((s.onFunc f g).func f) = G (s.func f) := by
  rw [State.onFunc_func_same, h]

theorem hostWrite {a : Nat} {l : List Byte} {t : State} (h : s.hostWrite f a l = some t) (k : Nat) : t.func k = s.func k := by
  unfold State.hostWrite at h
  split at h
  · cases h
    rfl
  · cases h

include B

theorem signal (v : Nat) : G ((s.signal f v).func f) = G (s.func f) := by
  obtain ⟨m, h⟩ := s.signal_func f v
  rw [h, B.msix]

theorem release (v : Nat) : G ((s.release f v).func f) = G (s.func f) := by
  unfold State.release
  dsimp only
  split
  · exact (congrArg G ((State.setFunc_func ..).trans (if_pos rfl)) :).trans (B.msix _ _)
  · rfl

theorem reread : G ((s.reread f).func f) = G (s.func f) := by
  unfold State.reread
  split
  · rfl
  · next r h =>
    split
    · rfl
    · dsimp only
      split
      · exact onFunc s f (B.ring _ r _ h)
      · rfl

theorem writeRecord (event : Bool) (l : List Byte) : G ((s.writeRecord f event l).func f) = G (s.func f) := by
  unfold State.writeRecord
  split
  · rfl
  · next r h =>
    split
    · rfl
    · next u wrote =>
      have same := hostWrite s f wrote f
      exact (B.signal _ f _).trans ((onFunc u f (B.ring _ r _ (same ▸ h))).trans (congrArg G same))

theorem flushAux (n : Nat) : G ((State.flushAux f n s).func f) = G (s.func f) := by
  induction n generalizing s with
  | zero => rfl
  | succ n ih =>
    unfold State.flushAux
    split
    · next d rest r _ _ =>
      split
      · rfl
      · have read : G ((if r.full then s.reread f else s).func f) = G (s.func f) :=
          State.ite_keeps (F := fun u => G (u.func f)) (B.reread s f) rfl
        dsimp only
        generalize (if r.full then s.reread f else s) = u at read ⊢
        split
        · exact read
        · split
          · exact read
          · split
            · have lost := onFunc (G := G) u f (g := fun x => { x with eventsLost := 0 }) (B.due _ (u.func f).due 0)
              exact (ih _).trans ((B.writeRecord _ f _ _).trans (lost.trans read))
            · have taken := onFunc (G := G) u f (g := fun x => { x with due := rest }) (B.due _ rest (u.func f).eventsLost)
              exact (ih _).trans ((B.writeRecord _ f _ _).trans (taken.trans read))
    · rfl

theorem flush (k : Nat) : G ((s.flush f).func k) = G (s.func k) := by
  by_cases hk : k = f
  · subst hk
    exact B.flushAux s k _
  · rw [(sendsTo_flush s).2 k hk]

end RingBlind

section
variable (s : State) (f : Nat)

theorem sendsTo_release (v : Nat) : SendsTo f s (s.release f v) := by
  unfold State.release
  dsimp only
  split
  · exact ⟨rfl, fun g hg => (State.setFunc_func ..).trans (if_neg (Ne.symm hg))⟩
  · exact .refl s

theorem sendsTo_each {α : Type} {g : State → α → State} (h : ∀ u x, SendsTo f u (g u x)) (l : List α) : SendsTo f s (s.each l g) := by
  induction l generalizing s with
  | nil => exact .refl s
  | cons x l ih => exact (h s x).trans (ih _)

/-- One floodgate record that waited for Bus Master Enable goes out. -/
def State.sendDeferred (s : State) (d : Nat × List Byte) : State :=
  ((s.hostWrite f d.1 d.2).getD s).signal f (s.func f).fgVector

theorem sendsTo_sendDeferred (d : Nat × List Byte) : SendsTo f s (State.sendDeferred f s d) := by
  unfold State.sendDeferred
  cases wrote : s.hostWrite f d.1 d.2 with
  | none => exact sendsTo_signal s _
  | some t => exact (sendsTo_hostWrite wrote).trans (sendsTo_signal t _)

/-- Whether the function may send, and what waits for that. -/
def Func.sending (x : Func) : Bool × List (Nat × List Byte) := (x.bme, x.fgDeferred)

theorem Func.sending_blind : RingBlind Func.sending := ⟨fun _ _ => rfl, fun _ _ _ => rfl, fun _ _ _ _ => rfl⟩

theorem State.sendDeferred_sending (d : Nat × List Byte) :
    ((State.sendDeferred f s d).func f).sending = (s.func f).sending := by
  unfold State.sendDeferred
  cases wrote : s.hostWrite f d.1 d.2 with
  | none => exact Func.sending_blind.signal s f _
  | some t => exact (Func.sending_blind.signal t f _).trans (congrArg Func.sending (RingBlind.hostWrite s f wrote f))

/-- Setting Bus Master Enable sends what was pending. -/
theorem busMasterOn_sends : ((s.busMasterOn f).func f).bme = true ∧ ((s.busMasterOn f).func f).fgDeferred = []
    ∧ SendsTo f s (s.busMasterOn f) := by
  let on (x : Func) : Func := { x with bme := true }
  let sent (x : Func) : Func := { x with fgDeferred := [] }
  have released : (((s.onFunc f on).releaseAll f).func f).sending = (on (s.func f)).sending := by
    unfold State.releaseAll
    refine (State.each_keeps (F := fun u => (u.func f).sending) (fun u v => Func.sending_blind.release u f v) _ _).trans ?_
    rw [State.onFunc_func_same]
  have releases : SendsTo f s ((s.onFunc f on).releaseAll f) :=
    (sendsTo_onFunc s on).trans (sendsTo_each _ f (fun u v => sendsTo_release u f v) _)
  let u := (s.onFunc f on).releaseAll f
  let w := (u.onFunc f sent).each (u.func f).fgDeferred (State.sendDeferred f)
  have deferred : (w.func f).sending = (sent (u.func f)).sending := by
    refine (State.each_keeps (F := fun u => (u.func f).sending) (fun u d => u.sendDeferred_sending f d) _ _).trans ?_
    rw [State.onFunc_func_same]
  have sends : SendsTo f s w := (releases.trans (sendsTo_onFunc u sent)).trans
    (sendsTo_each _ f (fun t d => sendsTo_sendDeferred t f d) _)
  have ends : s.busMasterOn f = if w.trust.running then w.flush f else w := rfl
  have last : ((s.busMasterOn f).func f).sending = (w.func f).sending := by
    rw [ends]
    exact State.ite_keeps (F := fun u => (u.func f).sending) (Func.sending_blind.flush w f f) rfl
  refine ⟨?_, ?_, ?_⟩
  · exact (congrArg Prod.fst (last.trans deferred) :).trans (congrArg Prod.fst released :)
  · exact (congrArg Prod.snd (last.trans deferred) :)
  · rw [ends]
    split
    · exact sends.trans (sendsTo_flush w)
    · exact sends

end

end Sys2Proof.Machine

open Sys2Proof Sys2Proof.Machine

/-- Settles O44, clause by clause: the windows and the requests of BAR4 by their parts, VF_MAP by its checks, whole
registers by their place in the maps, and what is pending by the rules of what sending touches. -/
theorem hostWindowsAndRegisters : Obligations.HostWindowsAndRegisters := by
  unfold Obligations.HostWindowsAndRegisters
  intro s f i v o x l
  dsimp only
  refine ⟨fun hi aligned fits => (exec_bar4Win hi rfl).1 aligned fits, fun hi => (exec_bar4Win hi rfl).2,
    fun mse inside some_ => ⟨fun fits on => ?_, fun fits off => ?_, fun long => ?_⟩, rfl,
    fun mse c hc => ?_, fun lo hi target disabled old => ?_, fun bar k bad => ?_, mbCtl_write, ?_, fun hi => ringBase_write hi x,
    rfl, msix_unmask rfl, ?_⟩
  · obtain ⟨read, write⟩ := bar4_enabled mse inside fits on
    refine ⟨fun free one r hr => ?_, read, fun free one r hr => ?_⟩
    · rw [partsOf_one one] at read
      rw [read]
      obtain ⟨ok, failed, held⟩ := State.hostReadParts_one free _ _ r hr
      exact ⟨fun h => congrArg Host.Outcome.next (ok h), fun h g => congrArg Host.Outcome.next (failed h g),
        fun h => congrArg Host.Outcome.next (held h)⟩
    · rw [write, State.hostDevWrite_one free _ _ _ one]
      obtain ⟨ok, off, failed⟩ := s.hostPiece_outcome o _ l r hr
      exact ⟨fun h => by rw [ok h], fun h g => by rw [off h g], fun h g m n => by rw [failed h g m n]⟩
  · exact bar4_disabled mse inside fits off
  · have long : ¬ l.length ≤ s.bar4Room o := Nat.not_le.2 long
    exact ⟨(exec_bar4Read mse inside _).trans (congrArg (fun ps => Host.Outcome.next (s.hostReadParts ps [])) (if_neg long)),
      (exec_bar4Write mse inside _).trans (congrArg Host.Outcome.next (if_neg long))⟩
  · have closed : ∀ o, s.bar4Open o = false := fun o => by simp [State.bar4Open, mse]
    rcases hc with rfl | rfl
    · exact if_pos (by rw [closed]; rfl)
    · exact if_pos (by rw [closed]; rfl)
  · have start : exec (.vfMap v x) s = .next (if 1 ≤ v ∧ v ≤ 24 then s.writeVfMap v x.toNat else s) := rfl
    have good := State.writeVfMap_of_good (w := x.toNat) rfl target disabled old
    refine ⟨_, start.trans (congrArg Host.Outcome.next ((if_pos ⟨lo, hi⟩).trans good)), ?_, fun w hw => ?_, rfl⟩
    · unfold State.vfPolder
      rw [if_neg (by simp; omega)]
      exact (Sparse.get_set ..).trans (if_pos rfl)
    · unfold State.vfPolder
      split
      · rfl
      · exact (Sparse.get_set ..).trans (if_neg (Ne.symm hw))
  · exact ⟨exec_registerWrite_of_bad bad x, exec_registerAccessError_of_bad bad⟩
  · let loaded (n : Nat) : State := { s with reply := .done, time := { s.time with load := n } }
    have whole : x.toNat % 2 ^ (8 * 8) = x.toNat := Nat.mod_eq_of_lt x.isLt
    exact (exec_registerWrite_of_whole rfl x).trans (congrArg (fun n => Host.Outcome.next (loaded n)) whole)
  · obtain ⟨on, none_, sends, others⟩ := busMasterOn_sends s f
    exact ⟨_, rfl, on, none_, others, sends⟩

end

section
/-! SUPPORT. What an access to device memory keeps, of any view of the module that looks at none of the memories and of which
an event changes nothing; so of what a function has in its mailbox (R176-R224, R307, R330). -/

namespace Sys2Proof.Machine

/-- The module without the memories, the cores and the channels that an access goes through, and without the log. -/
def State.sansBody (s : State) : State :=
  { s with
    tcores := [], vcores := [], scores := [], clusters := [], ucm := [], ucmValid := [], ucmBad := [], ucmDies := []
    merges := [], edge := [], edgeBad := [], channels := [], basins := [], dma := [], log := [] }

/-- A relation of states that an access to device memory steps along: it looks at none of the memories, at no channel, and of
under-core memory at self-refresh alone, which an access ends. -/
structure AccessClosed (R : State → State → Prop) : Prop where
  refl : ∀ u, R u u
  trans : ∀ {u v w}, R u v → R v w → R u w
  body : ∀ {u v : State}, v.sansBody = u.sansBody → (∀ d, (v.ucmDie d).selfRefresh = true → (u.ucmDie d).selfRefresh = true) → R u v
  event : ∀ (u : State) (p r0 r1 code : Nat), R u (u.event p r0 r1 code)

section
variable {R : State → State → Prop}

theorem ite_related {p : Prop} [Decidable p] {s x y : State} (hx : R s x) (hy : R s y) : R s (if p then x else y) := by
  split
  · exact hx
  · exact hy

theorem ite_fst_related {γ : Type} {p : Prop} [Decidable p] {s : State} {x y : State × γ} (hx : R s x.1) (hy : R s y.1) :
    R s (if p then x else y).1 := by
  split
  · exact hx
  · exact hy

/-- A pass steps along a relation that each of its steps steps along. -/
theorem State.each_related (refl : ∀ u, R u u) (trans : ∀ {u v w}, R u v → R v w → R u w) {α : Type} {g : State → α → State}
    (h : ∀ u x, R u (g u x)) (l : List α) (s : State) : R s (s.each l g) := by
  induction l generalizing s with
  | nil => exact refl s
  | cons x l ih => exact trans (h s x) (ih _)

theorem pieces_related (refl : ∀ u, R u u) (trans : ∀ {u v w}, R u v → R v w → R u w) {unit : Nat}
    {one : State → Nat → Access → List SymErr → State × Got}
    (h : ∀ u a acc fl, R u (one u a acc fl).1) (n : Nat) (s : State) (a : Nat) (acc : Access) (fl : List SymErr) :
    R s (pieces unit one n s a acc fl).1 := by
  induction n generalizing s a acc fl with
  | zero => exact refl s
  | succ n ih =>
    unfold pieces
    dsimp only
    split
    · exact trans (h _ _ _ _) (ih _ _ _ _)
    · exact h _ _ _ _

end

namespace AccessClosed

variable {R : State → State → Prop} (K : AccessClosed R) (s : State)
include K

/-- One step behind another. -/
theorem on {t u v : State} (later : R u v) (earlier : R t u) : R t v := K.trans earlier later

theorem still {u v : State} (h : v.sansBody = u.sansBody) (dies : v.ucmDies = u.ucmDies) : R u v :=
  K.body h fun d hd => (congrArg (fun m => (Sparse.get ({} : UcmDie) m d).selfRefresh) dies).symm.trans hd

theorem after {t u v : State} (h : R t u) (k : v.sansBody = u.sansBody) (dies : v.ucmDies = u.ucmDies) : R t v :=
  K.trans h (K.still k dies)

theorem corrected (source core word : Nat) (e : Errs) : R s (s.corrected source core word e) := by
  unfold State.corrected
  refine K.on (State.each_related K.refl K.trans (fun u sym => ?_) _ _) (K.still rfl rfl)
  split
  · exact K.event u _ _ _ _
  · exact K.refl u

/-! ### Under-core memory -/

theorem ucmCount (core : Nat) (b : By) : R s (s.ucmCount core b) := by
  unfold State.ucmCount
  split
  · exact K.refl s
  · refine K.body rfl fun d hd => ?_
    rw [State.onUcmDie_ucmDie] at hd
    split at hd
    · next own => rwa [← own]
    · exact hd

theorem ucmTouch (d : Nat) : R s (s.ucmTouch d) := by
  refine K.body rfl fun k hd => ?_
  rw [State.ucmTouch, State.onUcmDie_ucmDie] at hd
  split at hd
  · cases hd
  · exact hd

theorem ucmRead (core w source : Nat) (flips : List SymErr) (b : By) : R s (s.ucmRead core w source flips b).1 := by
  have counted := K.ucmCount s core b
  unfold State.ucmRead
  dsimp only
  split
  · exact counted
  · split
    · exact K.after counted rfl rfl
    · split
      · exact K.after counted rfl rfl
      · exact K.on (K.corrected _ _ _ _ _) (K.after counted rfl rfl)

theorem mergeRetire (core w : Nat) (flips : List SymErr) : R s (s.mergeRetire core w flips) := by
  unfold State.mergeRetire
  dsimp only
  split
  · exact K.refl s
  · split
    · exact K.still rfl rfl
    · next m _ _ =>
      have read := K.ucmRead { s with merges := Sparse.modify [] s.merges core fun l => l.filter fun x => x.word != w } core w srcMerge
        flips ⟨m.func, codeMerge, 31⟩
      generalize State.ucmRead _ core w srcMerge flips ⟨m.func, codeMerge, 31⟩ = r at read ⊢
      have before : R s r.1 := K.on read (K.still rfl rfl)
      exact ite_related (K.after before rfl rfl) (K.after before rfl rfl)

theorem mergeWrite (core w o : Nat) (l : List Byte) (func : Nat) : R s (s.mergeWrite core w o l func) := by
  have settled : ∀ {t : State} {p : Prop} {_ : Decidable p}, R t (if p then t.mergeRetire core w [] else t) :=
    fun {t} => ite_related (K.mergeRetire t core w []) (K.refl t)
  unfold State.mergeWrite
  generalize Sparse.get [] s.merges core = es
  cases es with
  | nil => exact K.on settled (ite_related (K.still rfl rfl) (K.still rfl rfl))
  | cons m r =>
    refine K.on settled (ite_related (K.still rfl rfl) ?_)
    have room : R s (if (m :: r).length < 8 then s else s.mergeRetire core m.word []) :=
      ite_related (K.refl s) (K.mergeRetire s core m.word [])
    exact K.after room rfl rfl

theorem portTaken (core : Nat) : R s (s.portTaken core) := by
  unfold State.portTaken
  refine ite_related (ite_related (K.refl s) (K.still rfl rfl)) (ite_related (ite_related (K.refl s) (K.still rfl rfl))
    (ite_related (K.refl s) (K.still rfl rfl)))

theorem retireFirst (core w : Nat) (flips : List SymErr) : R s (s.retireFirst core w flips) := by
  unfold State.retireFirst
  exact ite_related (K.on (K.mergeRetire _ _ _ _) (K.portTaken s core)) (K.refl s)

theorem narrowWrite (core w o : Nat) (l : List Byte) (func : Nat) : R s (s.narrowWrite core w o l func) := by
  unfold State.narrowWrite
  dsimp only
  have first : ∀ p : Prop, [Decidable p] → R s (if p then s.portTaken core else s) := fun p _ =>
    ite_related (K.portTaken s core) (K.refl s)
  have written := fun p [Decidable p] => K.on (K.mergeWrite (if p then s.portTaken core else s) core w o l func) (first p)
  exact ite_related (written _) (K.on (K.portTaken _ core) (written _))

theorem aperturePiece (who : Requester) (a : Nat) (acc : Access) (flips : List SymErr) :
    R s (s.aperturePiece who a acc flips).1 := by
  unfold State.aperturePiece
  dsimp only
  refine ite_fst_related (K.refl s) (ite_fst_related (K.refl s) ?_)
  have ready := fun d core w => K.on (K.portTaken _ core) (K.on (K.retireFirst (s.ucmTouch d) core w []) (K.ucmTouch s d))
  cases acc with
  | read n => exact K.on (K.ucmRead _ _ _ _ _ _) (ready _ _ _)
  | write l =>
    dsimp only
    refine ite_fst_related ?_ (K.on (K.narrowWrite _ _ _ _ _ _) (K.ucmTouch s _))
    exact K.on (K.ucmCount _ _ _) (K.after (ready _ _ _) rfl rfl)

theorem aperture (who : Requester) (a : Nat) (acc : Access) (flips : List SymErr) : R s (s.aperture who a acc flips).1 := by
  unfold State.aperture
  exact pieces_related K.refl K.trans (fun u a acc fl => K.aperturePiece u who a acc fl) _ _ _ _ _

/-! ### Edge channels and basins -/

theorem burstRead (ch off : Nat) (flips : List SymErr) (b : By) : R s (s.burstRead ch off flips b).1 := by
  have counted : R s (s.edgeCount ch 1 b.polder 1) := K.still rfl rfl
  unfold State.burstRead
  dsimp only
  generalize s.edgeCount ch 1 b.polder 1 = u at *
  refine ite_fst_related (K.after counted rfl rfl) ?_
  split
  · exact K.after counted rfl rfl
  · exact K.after counted rfl rfl

theorem chWrite (ch : Nat) (b : By) (fuel off : Nat) (l : List Byte) : R s (s.chWrite ch b fuel off l).1 := by
  induction fuel generalizing s off l with
  | zero => exact K.refl s
  | succ n ih =>
    unfold State.chWrite
    dsimp only
    have read := fun o => K.burstRead s ch o [] b
    refine ite_fst_related (K.refl s) (ite_fst_related (K.on (ih _ _ _) (K.still rfl rfl)) (ite_fst_related (read _) ?_))
    exact K.on (ih _ _ _) (K.after (read _) rfl rfl)

theorem writeBack (set : Nat) (x : Line) (b : By) : R s (s.writeBack set x b) := by
  unfold State.writeBack
  exact ite_related (K.refl s) (ite_related (K.still rfl rfl) (K.still rfl rfl))

theorem allocate (ch l : Nat) (data : List Byte) (dirty : Bool) (who : By) : R s (s.allocate ch l data dirty who) := by
  unfold State.allocate
  dsimp only
  refine ite_related (K.refl s) ?_
  split
  · next x _ => exact K.after (K.writeBack s _ x who) rfl rfl
  · exact K.still rfl rfl

theorem fetchLine (ch l : Nat) (flips : List SymErr) (second : Bool) (b : By) : R s (s.fetchLine ch l flips second b).1 := by
  have first := K.burstRead s ch (128 * l) (if second then [] else flips) b
  exact ite_fst_related first (K.on (K.burstRead _ _ _ _ _) first)

theorem lookup (ch l : Nat) (flips : List SymErr) (b : By) : R s (s.lookup ch l flips b).1 := by
  unfold State.lookup
  dsimp only
  split
  · exact K.refl s
  · split
    · exact K.refl s
    · split_ifs
      · exact K.refl s
      · exact K.still rfl rfl
      · exact K.still rfl rfl

theorem lineRead (ch off n : Nat) (noalloc : Bool) (flips : List SymErr) (b : By) :
    R s (s.lineRead ch off n noalloc flips b).1 := by
  have looked := K.lookup s ch (off / 128) flips b
  unfold State.lineRead
  dsimp only
  generalize s.lookup ch (off / 128) flips b = k at *
  have counted : R s (k.1.basinCount ch false) := K.after looked rfl rfl
  split
  · exact ite_fst_related (K.after looked rfl rfl) (K.after looked rfl rfl)
  · have fetched := K.on (K.fetchLine (k.1.basinCount ch false) ch (off / 128) flips (decide (64 ≤ off % 128)) b) counted
    refine ite_fst_related (K.on (K.burstRead _ _ _ _ _) counted) (ite_fst_related fetched ?_)
    exact ite_related fetched (K.on (K.allocate _ _ _ _ _ _) fetched)

theorem lineWrite (ch off : Nat) (l : List Byte) (who : By) : R s (s.lineWrite ch off l who).1 := by
  unfold State.lineWrite
  dsimp only
  have counted : R s (s.basinCount ch false) := K.still rfl rfl
  split
  · split
    · exact K.still rfl rfl
    · exact K.refl s
  · have written := K.on (K.chWrite (s.basinCount ch false) ch who 4 off l) counted
    exact ite_fst_related (K.on (K.allocate _ _ _ _ _ _) counted) (ite_fst_related written (K.after written rfl rfl))

theorem serve (ch off : Nat) (acc : Access) (noalloc : Bool) (flips : List SymErr) (b : By) :
    R s (s.serve ch off acc noalloc flips b).1 := by
  refine pieces_related K.refl K.trans (fun u o acc fl => ?_) _ _ _ _ _
  cases acc with
  | read n => exact K.lineRead u ch o n noalloc fl b
  | write l => exact K.lineWrite u ch o l b

theorem edgePiece (q : Req) (a : Nat) (acc : Access) (flips : List SymErr) : R s (s.edgePiece q a acc flips).1 := by
  unfold State.edgePiece
  split
  · exact K.refl s
  · refine ite_fst_related (K.refl s) (ite_fst_related (K.refl s) (ite_fst_related (K.still rfl rfl)
      (ite_fst_related (ite_fst_related ?_ ?_) ?_)))
    · cases q.who with
      | dma n => exact K.still rfl rfl
      | host => exact K.still rfl rfl
      | link n tag => exact K.still rfl rfl
    · cases q.who with
      | dma n => exact K.still rfl rfl
      | host => exact K.still rfl rfl
      | link n tag => exact K.still rfl rfl
    · exact K.serve _ _ _ _ _ _ _

theorem scratchPiece (b : By) (a : Nat) (acc : Access) (flips : List SymErr) : R s (s.scratchPiece b a acc flips).1 := by
  unfold State.scratchPiece
  refine ite_fst_related (K.refl s) (ite_fst_related (K.refl s) ?_)
  cases acc with
  | read n => exact ite_fst_related (K.still rfl rfl) (K.still rfl rfl)
  | write l => exact K.still rfl rfl

/-! ### Any device address -/

/-- An access to device memory steps along the relation. -/
theorem access (q : Req) (a : Nat) (acc : Access) (flips : List SymErr) : R s (s.access q a acc flips).1 := by
  unfold State.access
  refine pieces_related K.refl K.trans (fun u a acc fl => ?_) _ _ _ _ _
  refine ite_fst_related (K.refl u) (ite_fst_related (K.edgePiece u q a acc fl) (ite_fst_related ?_
    (ite_fst_related (K.aperture u q.who a acc fl) (K.refl u))))
  exact pieces_related K.refl K.trans (one := State.scratchPiece (u.by_ q.who)) (fun v a acc fl => K.scratchPiece v _ a acc fl) _ _ _ _ _

end AccessClosed

/-- A view of the module that an access to device memory does not change. -/
structure AccessBlind {β : Type} (F : State → β) : Prop where
  body : ∀ {u v : State}, v.sansBody = u.sansBody → F v = F u
  event : ∀ (u : State) (p r0 r1 code : Nat), F (u.event p r0 r1 code) = F u

namespace AccessBlind

variable {β : Type} {F : State → β} (K : AccessBlind F) (s : State)
include K

/-- To see the same is to step along a relation. -/
theorem closed : AccessClosed fun u v => F v = F u := ⟨fun _ => rfl, fun h k => k.trans h, fun h _ => K.body h, K.event⟩

/-- What an access to device memory leaves of such a view. -/
theorem access (q : Req) (a : Nat) (acc : Access) (flips : List SymErr) : F (s.access q a acc flips).1 = F s :=
  K.closed.access s q a acc flips

/-- A log that a command writes is an access, or a write of host memory. -/
theorem writeOut (host : ∀ (u : State) m, F { u with hostMem := m } = F u) (f out : Nat) (l : List Byte) :
    F (s.writeOut f out l).1 = F s := by
  unfold State.writeOut
  refine ite_fst_keeps rfl (ite_fst_keeps (ite_fst_keeps rfl (ite_fst_keeps ?_ rfl)) ?_)
  · refine pieces_keeps (fun u a acc fl => ?_) _ _ _ _ _
    exact ite_fst_keeps (K.access u _ a acc fl) (K.access u _ a acc fl)
  · split
    · next t h =>
      unfold State.hostWrite at h
      split at h
      · cases h
        exact host s _
      · cases h
    · rfl

end AccessBlind

/-! ### What a function has in its mailbox -/

/-- The words and the messages that wait of a function, and whether it has no ring. -/
def Func.mail (x : Func) : List Word × List Msg × Bool := (x.h2d, x.inbox, x.ring.isNone)

theorem Func.mail_blind : RingBlind Func.mail :=
  ⟨fun _ _ => rfl, fun _ _ _ => rfl, fun x r r' h => by simp [Func.mail, h]⟩

section
variable (s : State) (f g : Nat)

theorem State.onFunc_mail {k : Func → Func} (h : ∀ x, (k x).mail = x.mail) : ((s.onFunc f k).func g).mail = (s.func g).mail := by
  rw [State.onFunc_func]
  split
  · next e => rw [h, e]
  · rfl

theorem State.signal_mail (v : Nat) : ((s.signal f v).func g).mail = (s.func g).mail := by
  by_cases hg : g = f
  · subst hg
    exact Func.mail_blind.signal s g v
  · rw [(sendsTo_signal s v).2 g hg]

theorem State.sendWords_mail (ws : List Word) : ((s.sendWords f ws).func g).mail = (s.func g).mail := by
  have pushed := s.onFunc_mail f g (k := fun x => ws.foldl (fun y w => y.push 0 w) x) fun x => by
    obtain ⟨q, c, h⟩ := x.pushes_only ws
    rw [h]
    rfl
  unfold State.sendWords
  exact State.ite_keeps (F := fun u => (u.func g).mail) ((State.signal_mail ..).trans pushed) pushed

/-- Completing a command leaves every function's mailbox and whether it has a ring. -/
theorem State.complete_mail (tag opc : Nat) (n : Bool) (a : Answer) :
    ((s.complete f tag opc n a).func g).mail = (s.func g).mail := by
  have remembered := s.onFunc_mail f g (k := fun x => x.remember tag opc (a.record tag opc)) fun _ => rfl
  unfold State.complete State.post
  dsimp only
  generalize s.onFunc f (fun x => x.remember tag opc (a.record tag opc)) = u at remembered ⊢
  have due := u.onFunc_mail f g (k := fun x => { x with
    due := if (u.func f).ring.isSome then x.due ++ [⟨false, a.record tag opc⟩] else x.due }) fun _ => rfl
  have flushed := (Func.mail_blind.flush _ f g).trans (due.trans remembered)
  exact State.ite_keeps (F := fun u => (u.func g).mail) ((State.sendWords_mail ..).trans flushed) flushed

theorem State.eventTo_mail (p r0 r1 code : Nat) : ((s.eventTo f p r0 r1 code).func g).mail = (s.func g).mail := by
  unfold State.eventTo
  refine State.ite_keeps (F := fun u => (u.func g).mail) (s.onFunc_mail f g fun _ => rfl) ?_
  exact (Func.mail_blind.flush _ f g).trans (s.onFunc_mail f g fun _ => rfl)

theorem State.event_mail (p r0 r1 code : Nat) : ((s.event p r0 r1 code).func g).mail = (s.func g).mail := by
  unfold State.event
  dsimp only
  have first := s.eventTo_mail 0 g (if p < 24 then p else 0xFFFF) r0 r1 code
  exact State.ite_keeps (F := fun u => (u.func g).mail) rfl
    (State.ite_keeps (F := fun u => (u.func g).mail) ((State.eventTo_mail ..).trans first) first)

/-- What a function has in its mailbox is a view that no access changes. -/
theorem State.mail_blind : AccessBlind fun s : State => (s.func g).mail :=
  ⟨fun h => (congrArg (fun u : State => (u.func g).mail) h :), fun u p r0 r1 code => u.event_mail g p r0 r1 code⟩

/-! ### A floodgate leaves the mailboxes -/

theorem State.endCommand_mail (p : Nat) (st : Status) : ((s.endCommand p st).func g).mail = (s.func g).mail := by
  unfold State.endCommand
  split
  · rfl
  · exact State.complete_mail ..

theorem State.jobCleared_mail (p : Nat) (j : Job) : ((s.jobCleared p j).func g).mail = (s.func g).mail := by
  have saved : ((s.endSave p).func g).mail = (s.func g).mail := by
    unfold State.endSave
    exact State.ite_keeps (F := fun u => (u.func g).mail) (s.endCommand_mail g p _) rfl
  have counted : ((s.endSave p).countCycles p).func g = (s.endSave p).func g := by
    unfold State.countCycles
    refine State.each_keeps (F := fun u => u.func g) (fun u cl => ?_) _ _
    rfl
  have set_ : ∀ (u : State) x, (u.onPolder p x).func g = u.func g := fun _ _ => rfl
  rw [State.jobCleared, set_]
  exact State.ite_keeps (F := fun u => (u.func g).mail) ((congrArg Func.mail counted).trans saved) saved

theorem State.finishJob_mail (p : Nat) (st : Status) (extra : Nat) : ((s.finishJob p st extra).func g).mail = (s.func g).mail := by
  cases h : (s.polder p).job with
  | none => rw [s.finishJob_of_none h]
  | some j =>
    obtain ⟨l, a, _, finished⟩ := s.finishJob_of_some h st extra
    have cleared := s.jobCleared_mail g p j
    rw [finished]
    refine State.ite_keeps (F := fun u => (u.func g).mail) cleared ?_
    exact (State.complete_mail ..).trans (((State.mail_blind g).writeOut _ (fun _ _ => rfl) _ _ _).trans cleared)

theorem State.func_of_sansHalt {t : State} (h : t.sansHalt = s.sansHalt) : t.func g = s.func g :=
  (congrArg (fun u : State => u.func g) h :)

theorem State.gatePolder_mail (p : Nat) : (((s.gatePolder p).1.func g).mail) = (s.func g).mail := by
  obtain ⟨-, h⟩ | ⟨-, l, h⟩ | ⟨st, h⟩ := s.gatePolder_cases p
  · rw [h]
  · rw [h]
    rw [State.func_of_sansHalt s g (s.disabled_sansHalt _ _)]
  · rw [h, State.func_of_sansHalt _ g (State.halt_sansHalt _ p)]
    exact (State.finishJob_mail ..).trans (s.endCommand_mail g p _)

end

end Sys2Proof.Machine
end

section
/-! SUPPORT. What a function-level reset leaves of channels, polders and memories (R291, R296, R304, R315). -/

namespace Sys2Proof.Machine

/-! ### Channels -/

/-- Who owns a channel, and the edge window it was given. -/
def DmaCh.owner (x : DmaCh) : Nat × Nat × Nat × Nat := (x.func, x.polder, x.edgeLo, x.edgeHi)

/-- A channel keeps its owner, and does not work where it did not. -/
def State.Tame (ch : Nat) (s t : State) : Prop :=
  (t.chan ch).owner = (s.chan ch).owner ∧ ((s.chan ch).state = .disabled → (t.chan ch).state = .disabled)

namespace State.Tame

variable {ch : Nat} {s t u : State}

theorem refl (s : State) : State.Tame ch s s := ⟨rfl, id⟩

theorem trans (h : State.Tame ch s t) (k : State.Tame ch t u) : State.Tame ch s u :=
  ⟨k.1.trans h.1, fun off => k.2 (h.2 off)⟩

theorem of_dma (h : t.dma = s.dma) : State.Tame ch s t := by
  have same : t.chan ch = s.chan ch := congrArg (fun d => Sparse.get ({} : DmaCh) d ch) h
  unfold State.Tame
  rw [same]
  exact ⟨rfl, id⟩

theorem of_table (hch : ch < 256) (h : chanTable t.dma = chanTable s.dma) : State.Tame ch s t := by
  have same := chanTable_eq_iff.1 h ch hch
  exact ⟨(congrArg DmaCh.owner same :), fun off => ((congrArg DmaCh.state same :) : _ = _).trans off⟩

theorem each {α : Type} {g : State → α → State} (h : ∀ u x, State.Tame ch u (g u x)) (l : List α) (s : State) :
    State.Tame ch s (s.each l g) := by
  induction l generalizing s with
  | nil => exact .refl s
  | cons x l ih => exact (h s x).trans (ih _)

theorem disableChan (s : State) (k : Nat) : State.Tame ch s (s.disableChan k) := by
  refine ⟨?_, fun off => by rw [State.disableChan_state, off, ite_self]⟩
  unfold State.disableChan
  have unbound : (s.unbindAll k).dma = s.dma := State.each_keeps (F := State.dma) (g := fun u cl => u.onCluster cl fun c => c.unbind k)
    (fun _ _ => rfl) _ s
  have same : ((s.unbindAll k).disown k).chan = s.chan := by
    unfold State.chan
    exact funext fun i => congrArg (fun d => Sparse.get {} d i) unbound
  split
  · rfl
  · have own := ((s.unbindAll k).disown k).onChan_chan ch k fun c => { c.idle with
      state := .disabled
      head := Config.freeNat ((s.unbindAll k).disown k).fresh % 65536 }
    refine (congrArg DmaCh.owner own :).trans ?_
    rw [same]
    split
    · next e =>
      subst e
      rfl
    · rfl

theorem nbDiscard (s : State) (sel : NbCmd → Bool) : State.Tame ch s (s.nbDiscard sel) :=
  .of_dma (s.nbDiscard_keeps (F := State.dma) (fun _ _ _ => rfl) (fun _ _ _ => rfl) (fun _ _ _ => rfl) sel)

theorem halt (s : State) (p : Nat) : State.Tame ch s (s.halt p).1 := by
  have last : ∀ (u : State) hs, ((u.idleHalfDies p).junkCores hs true).dma = u.dma := by
    intro u hs
    rw [State.junkCores_eq, State.each_keeps (F := State.dma) (g := fun v h => v.onHalfDie h (HalfDie.junked v.fresh true)) (fun _ _ => rfl)]
    exact State.each_keeps (F := State.dma) (g := fun v h => v.onHalfDie h HalfDie.rested) (fun _ _ => rfl) _ u
  have first : (s.each (s.listed p) fun u cl => u.onCluster cl Cluster.discard).dma = s.dma :=
    State.each_keeps (F := State.dma) (g := fun u cl => u.onCluster cl Cluster.discard) (fun _ _ => rfl) _ s
  have halting : State.Tame ch s (s.halting p) :=
    (State.Tame.of_dma first).trans ((State.Tame.nbDiscard _ fun c => c.polder == p).trans
      ((State.Tame.each (fun u k => State.Tame.disableChan u k) (s.liveChans fun c => c.polder == p) _).trans (.of_dma (last _ _))))
  rw [s.halt_eq]
  exact halting.trans (.of_dma rfl)

theorem gatePolder (hch : ch < 256) (s : State) (p : Nat) : State.Tame ch s (s.gatePolder p).1 := by
  obtain ⟨-, h⟩ | ⟨-, l, h⟩ | ⟨st, h⟩ := s.gatePolder_cases p
  · rw [h]
    exact .refl s
  · rw [h]
    exact (State.Tame.nbDiscard _ _).trans (State.Tame.each (fun u k => State.Tame.disableChan u k) l _)
  · rw [h]
    refine State.Tame.trans (.of_table hch ?_) (State.Tame.halt _ p)
    exact (congrArg State.dma ((State.finishJob_sansJob _ p st 0).trans (State.sansJob_of_sansEarlyJob (s.endCommand_sansEarlyJob p .aborted))) :)

theorem startGate (hch : ch < 256) (s : State) (f n : Nat) : State.Tame ch s (s.startGate f n) := by
  have marked : ∀ (u : State) p, State.Tame ch u (u.fgMark f p) := fun u p => .of_dma (congrArg State.dma (u.fgMark_sansIssuers f p) :)
  unfold State.startGate
  dsimp only
  split
  · exact (marked s 31).trans (.of_dma rfl)
  · split
    · exact (marked s n).trans (.of_dma rfl)
    · exact ((State.Tame.gatePolder hch s n).trans (marked _ n)).trans (.of_dma rfl)

end State.Tame

/-! ### Polders -/

/-- A polder as the loss of the commands of some functions leaves it (R332, R365). -/
def Polder.discarded (mine : Nat → Bool) (x : Polder) : Polder :=
  if x.state != .none && !x.exists_ && x.command.any (fun c => mine c.func) then {} else x.discard mine

section
variable (s : State)

theorem State.discardCommands_polder (mine : Nat → Bool) (n : Nat) : (s.discardCommands mine).polder n
    = if n ∈ List.range 24 then (s.polder n).discarded mine else s.polder n := by
  unfold State.discardCommands
  refine State.each_at (V := State.polder) (φ := fun _ => Polder.discarded mine) (fun u x => ?_) (fun u x y hne => ?_) _ s n
    List.nodup_range
  · dsimp only
    unfold Polder.discarded
    split
    · exact (State.setPolder_polder ..).trans (if_pos rfl)
    · exact (State.onPolder_polder ..).trans (if_pos rfl)
  · dsimp only
    split
    · refine (State.setPolder_polder ..).trans ?_
      rw [if_neg hne.symm, u.clearDikes_polder]
    · exact (State.onPolder_polder ..).trans (if_neg hne.symm)

/-- The device takes the place of an issuer that is gone. -/
def Gate.orphaned (v : Nat) (w : Gate) : Gate := if w.func == v then { w with func := 25 } else w

/-- A polder whose floodgates have lost an issuer. -/
def Polder.orphaned (v : Nat) (x : Polder) : Polder := { x with gates := x.gates.map (Gate.orphaned v) }

theorem State.forgetIssuer_eq (v : Nat) : ∃ m,
    s.forgetIssuer v = { s.each (List.range 24) fun u n => u.onPolder n (Polder.orphaned v) with
      gates := (s.each (List.range 24) fun u n => u.onPolder n (Polder.orphaned v)).gates.map (Gate.orphaned v)
      draining := m } :=
  ⟨_, rfl⟩

theorem State.forgetIssuer_polder (v n : Nat) :
    (s.forgetIssuer v).polder n = if n ∈ List.range 24 then (s.polder n).orphaned v else s.polder n := by
  obtain ⟨m, e⟩ := s.forgetIssuer_eq v
  have gates : ∀ (u : State) a b, ({ u with gates := a, draining := b } : State).polder n = u.polder n := fun _ _ _ => rfl
  rw [e, gates]
  exact State.each_at (V := State.polder) (φ := fun _ => Polder.orphaned v) (g := fun u n => u.onPolder n (Polder.orphaned v))
    (fun u x => (State.onPolder_polder ..).trans (if_pos rfl)) (fun u x y hne => (State.onPolder_polder ..).trans (if_neg hne.symm))
    _ s n List.nodup_range

theorem State.forgetIssuer_gates (v : Nat) : (s.forgetIssuer v).gates = s.gates.map (Gate.orphaned v) := by
  obtain ⟨m, e⟩ := s.forgetIssuer_eq v
  have gates : ∀ (u : State) a b, ({ u with gates := a, draining := b } : State).gates = a := fun _ _ _ => rfl
  rw [e, gates, State.each_keeps (F := State.gates) (g := fun u n => u.onPolder n (Polder.orphaned v)) (fun _ _ => rfl)]

end

/-- A polder that stands, with its image. -/
def Polder.Holds (i : List Byte) (x : Polder) : Prop := x.exists_ = true ∧ x.image = i

section
variable {i : List Byte} {x : Polder}

theorem Polder.exists_iff : x.exists_ = true ↔ x.state ≠ .none ∧ ¬ (x.state = .empty ∧ x.command.isSome = true) := by
  simp [Polder.exists_, imp_iff_not_or]

theorem Polder.exists_of_halted (h : x.state = .halted) : x.exists_ = true := by simp [Polder.exists_, h]

theorem Polder.Holds.discarded (h : x.Holds i) (mine : Nat → Bool) : (x.discarded mine).Holds i := by
  obtain ⟨real, image⟩ := h
  unfold Polder.discarded
  rw [if_neg (by simp [real])]
  refine ⟨?_, image⟩
  obtain ⟨some_, stands⟩ := Polder.exists_iff.1 real
  refine Polder.exists_iff.2 ⟨?_, ?_⟩
  · unfold Polder.discard
    dsimp only
    split
    · simp
    · exact some_
  · rintro ⟨empty, command⟩
    unfold Polder.discard at empty command
    dsimp only at empty command
    split at command
    · cases command
    · split at empty
      · cases empty
      · exact stands ⟨empty, command⟩

theorem Polder.Holds.orphaned (h : x.Holds i) (v : Nat) : (x.orphaned v).Holds i := h

end

/-- A floodgate leaves a polder standing, with its image (R315). -/
theorem State.gatePolder_holds {s : State} {i : List Byte} {n : Nat} (h : (s.polder n).Holds i) (p : Nat) :
    ((s.gatePolder p).1.polder n).Holds i := by
  by_cases hp : n = p
  · subst hp
    obtain ⟨-, e⟩ | ⟨-, l, e⟩ | ⟨st, e⟩ := s.gatePolder_cases n
    · rwa [e]
    · rwa [e, congrFun (State.polder_of_polders (State.disabled_polders _ _ l)) n]
    · rw [e, State.halt_polder, if_pos rfl]
      refine ⟨Polder.exists_of_halted rfl, ?_⟩
      have ended := (State.finishJob_polder (s.endCommand n .aborted) n st 0).1
      rw [State.endCommand_polder] at ended
      exact ((congrArg Polder.image ended :) : _ = _).trans h.2
  · rwa [s.gatePolder_polder_of_ne hp]

theorem State.startGate_holds {s : State} {i : List Byte} {n : Nat} (h : (s.polder n).Holds i) (f p : Nat) :
    ((s.startGate f p).polder n).Holds i := by
  have marked : ∀ {u : State} k, (u.polder n).Holds i → ((u.fgMark f k).polder n).Holds i := fun k hu => by
    rwa [State.fgMark_polder]
  have gates : ∀ {u : State} {g : Polder → Polder}, (∀ x : Polder, x.Holds i → (g x).Holds i) → (u.polder n).Holds i →
      ((u.onPolder p g).polder n).Holds i := fun hg hu => by
    rw [State.onPolder_polder]
    split
    · next e =>
      subst e
      exact hg _ hu
    · exact hu
  unfold State.startGate
  dsimp only
  split
  · exact marked 31 h
  · split
    · exact gates (fun _ hx => hx) (marked p h)
    · exact gates (fun _ hx => hx) (marked p (State.gatePolder_holds h p))

/-- A floodgate of the device itself tells no function (R314). -/
theorem State.startGate_mail (s : State) (p g : Nat) : ((s.startGate 25 p).func g).mail = (s.func g).mail := by
  have marked : ∀ (u : State) k, ((u.fgMark 25 k).func g) = u.func g := fun u k => rfl
  unfold State.startGate
  refine State.ite_keeps (F := fun u => (u.func g).mail) rfl (State.ite_keeps (F := fun u => (u.func g).mail) rfl ?_)
  exact (congrArg Func.mail (marked _ p) :).trans (s.gatePolder_mail g p)

/-! ### A function-level reset of a VF (R304) -/

/-- The module without what a function-level reset touches, memories and cores apart. -/
def State.sansReset (s : State) : State :=
  { s with
    funcs := [], polders := [], halfDies := [], gates := [], fgNo := 0, draining := [], clusters := [], channels := [], dma := []
    fresh := 0 }

/-- The module as a reset of VF v has dropped its commands. -/
@[irreducible] def State.vfForgotten (s : State) (v : Nat) : State :=
  ((s.onFunc v Func.forget).discardCommands fun f => f == v).forgetIssuer v

/-- The floodgate of the VF's polder follows. -/
@[irreducible] def State.vfGated (s : State) (v : Nat) : State :=
  if (s.vfForgotten v).vfPolder v < 24 then (s.vfForgotten v).startGate 25 ((s.vfForgotten v).vfPolder v) else s.vfForgotten v

/-- The channels that a function owns. -/
def State.chansOf (s : State) (v : Nat) : List Nat := (List.range 256).filter fun ch => (s.chan ch).func == v

/-- A channel's registers at reset, with its owner and its edge window. -/
def DmaCh.fresh (c : DmaCh) : DmaCh := { func := c.func, polder := c.polder, edgeLo := c.edgeLo, edgeHi := c.edgeHi, life := c.life }

theorem State.vfFlr_eq (s : State) (v : Nat) : s.vfFlr v = ((((s.vfGated v).each ((s.vfGated v).chansOf v) State.disableChan).each
    ((s.vfGated v).chansOf v) fun u ch => u.onChan ch DmaCh.fresh).setFunc v {}) := by
  unfold State.vfGated State.vfForgotten
  exact rfl

section
variable (s : State) (v : Nat)

theorem State.vfForgotten_sansReset : (s.vfForgotten v).sansReset = s.sansReset := by
  unfold State.vfForgotten
  obtain ⟨m, e⟩ := ((s.onFunc v Func.forget).discardCommands fun f => f == v).forgetIssuer_eq v
  have gates : ∀ (u : State) a b, ({ u with gates := a, draining := b } : State).sansReset = u.sansReset := fun _ _ _ => rfl
  rw [e, gates, State.each_keeps (F := State.sansReset) (g := fun u n => u.onPolder n (Polder.orphaned v)) (fun _ _ => rfl)]
  exact State.discardCommands_keeps (F := State.sansReset) _ (fun _ _ _ => rfl) (fun _ _ _ => rfl) _

/-- The channels that a reset disables and clears. -/
theorem State.vfFlr_keeps {β : Type} {F : State → β} (hf : ∀ (u : State) k x, F (u.setFunc k x) = F u)
    (hd : ∀ (u : State) k, F (u.disableChan k) = F u) (hc : ∀ (u : State) k g, F (u.onChan k g) = F u) :
    F (s.vfFlr v) = F (s.vfGated v) := by
  rw [s.vfFlr_eq, hf, State.each_keeps (F := F) (g := fun u ch => u.onChan ch DmaCh.fresh) (fun u k => hc u k _)]
  exact State.each_keeps (fun u k => hd u k) _ _

theorem State.vfFlr_sansReset : (s.vfFlr v).sansReset = (s.vfGated v).sansReset :=
  s.vfFlr_keeps v (F := State.sansReset) (fun _ _ _ => rfl)
    (fun u k => u.disableChan_keeps (F := State.sansReset) (fun _ _ _ => rfl) (fun _ _ => rfl) (fun _ _ _ => rfl) k) (fun _ _ _ => rfl)

theorem State.vfFlr_polder (k : Nat) : (s.vfFlr v).polder k = (s.vfGated v).polder k :=
  s.vfFlr_keeps v (F := fun u => u.polder k) (fun _ _ _ => rfl)
    (fun u j => congrFun (State.polder_of_polders (u.disableChan_polders j)) k) (fun _ _ _ => rfl)

theorem State.vfForgotten_polder (n : Nat) : (s.vfForgotten v).polder n
    = if n ∈ List.range 24 then ((s.polder n).discarded fun f => f == v).orphaned v else s.polder n := by
  unfold State.vfForgotten
  rw [State.forgetIssuer_polder, State.discardCommands_polder]
  split <;> rfl

theorem State.vfForgotten_gates : (s.vfForgotten v).gates = s.gates.map (Gate.orphaned v) := by
  unfold State.vfForgotten
  rw [State.forgetIssuer_gates]
  exact congrArg (List.map _) (State.discardCommands_keeps (F := State.gates) _ (fun _ _ _ => rfl) (fun _ _ _ => rfl) _)

theorem State.vfForgotten_dma : (s.vfForgotten v).dma = s.dma := by
  unfold State.vfForgotten
  obtain ⟨m, e⟩ := ((s.onFunc v Func.forget).discardCommands fun f => f == v).forgetIssuer_eq v
  have gates : ∀ (u : State) a b, ({ u with gates := a, draining := b } : State).dma = u.dma := fun _ _ _ => rfl
  rw [e, gates, State.each_keeps (F := State.dma) (g := fun u n => u.onPolder n (Polder.orphaned v)) (fun _ _ => rfl)]
  exact State.discardCommands_keeps (F := State.dma) _ (fun _ _ _ => rfl) (fun _ _ _ => rfl) _

theorem State.vfForgotten_func (g : Nat) (hg : g ≠ v) : (s.vfForgotten v).func g = s.func g := by
  unfold State.vfForgotten
  obtain ⟨m, e⟩ := ((s.onFunc v Func.forget).discardCommands fun f => f == v).forgetIssuer_eq v
  have gates : ∀ (u : State) a b, ({ u with gates := a, draining := b } : State).func g = u.func g := fun _ _ _ => rfl
  rw [e, gates, State.each_keeps (F := fun u => u.func g) (g := fun u n => u.onPolder n (Polder.orphaned v)) (fun _ _ => rfl)]
  refine (State.discardCommands_keeps (F := fun u => u.func g) _ (fun _ _ _ => rfl) (fun _ _ _ => rfl) _).trans ?_
  exact State.onFunc_func_other s Func.forget hg

/-- A reset leaves its polder standing (R304). -/
theorem State.vfFlr_holds {i : List Byte} {n : Nat} (h : (s.polder n).Holds i) : ((s.vfFlr v).polder n).Holds i := by
  have forgotten : ((s.vfForgotten v).polder n).Holds i := by
    rw [s.vfForgotten_polder]
    split
    · exact (h.discarded _).orphaned v
    · exact h
  rw [s.vfFlr_polder]
  unfold State.vfGated
  split
  · exact State.startGate_holds forgotten 25 _
  · exact forgotten

theorem State.vfGated_tame {ch : Nat} (hch : ch < 256) : State.Tame ch s (s.vfGated v) := by
  unfold State.vfGated
  split
  · exact (State.Tame.of_dma (s.vfForgotten_dma v)).trans (.startGate hch _ _ _)
  · exact .of_dma (s.vfForgotten_dma v)

/-- A reset keeps every channel's owner, and none works that did not. -/
theorem State.vfFlr_tame {ch : Nat} (hch : ch < 256) : State.Tame ch s (s.vfFlr v) := by
  have clears : ∀ (u : State) k, State.Tame ch u (u.onChan k DmaCh.fresh) := by
    intro u k
    unfold State.Tame
    rw [State.onChan_chan]
    split
    · next e =>
      subst e
      exact ⟨rfl, fun _ => rfl⟩
    · exact ⟨rfl, id⟩
  rw [s.vfFlr_eq]
  have disabled := State.Tame.each (ch := ch) (fun u k => .disableChan u k) ((s.vfGated v).chansOf v) (s.vfGated v)
  have cleared := State.Tame.each clears ((s.vfGated v).chansOf v) ((s.vfGated v).each ((s.vfGated v).chansOf v) State.disableChan)
  exact (s.vfGated_tame v hch).trans (disabled.trans (cleared.trans (.of_dma rfl)))

/-- The VF's own channels are at reset. -/
theorem State.vfFlr_chan {ch : Nat} (hch : ch < 256) (mine : (s.chan ch).func = v) :
    ∃ c : DmaCh, (s.vfFlr v).chan ch = c.fresh ∧ c.owner = (s.chan ch).owner := by
  have tame := s.vfFlr_tame v hch
  have gated : (((s.vfGated v).chan ch).func) = v := ((congrArg Prod.fst (s.vfGated_tame v hch).1 :) : _ = _).trans mine
  have listed : ch ∈ (s.vfGated v).chansOf v := List.mem_filter.2 ⟨List.mem_range.2 hch, by simp [gated]⟩
  have cleared : ∃ c : DmaCh, (s.vfFlr v).chan ch = c.fresh := by
    rw [s.vfFlr_eq]
    refine State.each_establishes (P := fun u => ∃ c : DmaCh, u.chan ch = c.fresh) (x := ch) (fun u => ?_) _ _ ?_ listed
    · exact ⟨u.chan ch, (State.onChan_chan ..).trans (if_pos rfl)⟩
    · rintro u k _ ⟨c, e⟩
      by_cases hk : k = ch
      · subst hk
        exact ⟨u.chan k, (State.onChan_chan ..).trans (if_pos rfl)⟩
      · exact ⟨c, ((State.onChan_chan ..).trans (if_neg hk)).trans e⟩
  obtain ⟨c, e⟩ := cleared
  have own := tame.1
  rw [e] at own
  exact ⟨c, e, own⟩

/-- Every other function keeps its mailbox; the VF's own page is at reset. -/
theorem State.vfFlr_func : (s.vfFlr v).func v = {} := by
  rw [s.vfFlr_eq]
  exact (State.setFunc_func ..).trans (if_pos rfl)

theorem State.vfFlr_mail {g : Nat} (hg : g ≠ v) : ((s.vfFlr v).func g).mail = (s.func g).mail := by
  have gated : ((s.vfGated v).func g).mail = (s.func g).mail := by
    unfold State.vfGated
    split
    · rw [State.startGate_mail, s.vfForgotten_func v g hg]
    · rw [s.vfForgotten_func v g hg]
  rw [← gated, s.vfFlr_eq]
  refine congrArg Func.mail (((State.setFunc_func ..).trans (if_neg (Ne.symm hg))).trans ?_)
  rw [State.each_keeps (F := fun u => u.func g) (g := fun u ch => u.onChan ch DmaCh.fresh) (fun _ _ => rfl)]
  exact State.each_keeps (F := fun u => u.func g) (fun u k => State.func_of_sansHalt u g (u.disableChan_sansHalt k)) _ _

/-- While a package floodgate is in progress a reset begins none, and leaves the memories (R304, R320). -/
theorem State.vfFlr_of_package (hg : s.gates ≠ []) : (s.vfFlr v).sansReset = s.sansReset ∧ (s.vfFlr v).gates ≠ [] := by
  have some_ : (s.vfForgotten v).gates ≠ [] := by
    rw [s.vfForgotten_gates]
    simpa using hg
  have joins : ∀ (u : State) n, u.gates ≠ [] → (u.startGate 25 n).sansReset = u.sansReset ∧ (u.startGate 25 n).gates ≠ [] := by
    intro u n hu
    unfold State.startGate
    rw [if_pos (by simpa using hu)]
    exact ⟨rfl, by simp⟩
  have gated : (s.vfGated v).sansReset = s.sansReset ∧ (s.vfGated v).gates ≠ [] := by
    unfold State.vfGated
    split
    · obtain ⟨same, nonempty⟩ := joins (s.vfForgotten v) ((s.vfForgotten v).vfPolder v) some_
      exact ⟨same.trans (s.vfForgotten_sansReset v), nonempty⟩
    · exact ⟨s.vfForgotten_sansReset v, some_⟩
  obtain ⟨same, nonempty⟩ := gated
  refine ⟨(s.vfFlr_sansReset v).trans same, ?_⟩
  rw [s.vfFlr_keeps v (F := State.gates) (fun _ _ _ => rfl)
    (fun u k => u.disableChan_keeps (F := State.gates) (fun _ _ _ => rfl) (fun _ _ => rfl) (fun _ _ _ => rfl) k) (fun _ _ _ => rfl)]
  exact nonempty

/-- The module without what a floodgate and a function-level reset touch. -/
def State.sansResetGate (s : State) : State := s.sansReset.sansGate

theorem State.startGate_sansResetGate (f n : Nat) : (s.startGate f n).sansResetGate = s.sansResetGate := by
  have marked : ∀ (u : State) k, (u.fgMark f k).sansResetGate = u.sansResetGate := fun u k =>
    (congrArg State.sansResetGate (u.fgMark_sansIssuers f k) :)
  have gated : (s.gatePolder n).1.sansResetGate = s.sansResetGate := (congrArg State.sansReset (s.gatePolder_sansGate n) :)
  unfold State.startGate
  exact State.ite_keeps (F := State.sansResetGate) (marked s 31)
    (State.ite_keeps (F := State.sansResetGate) (marked s n) ((marked _ n).trans gated))

/-- What a reset of a VF keeps of the module. -/
theorem State.vfFlr_sansResetGate : (s.vfFlr v).sansResetGate = s.sansResetGate := by
  have forgotten : (s.vfForgotten v).sansResetGate = s.sansResetGate := congrArg State.sansGate (s.vfForgotten_sansReset v)
  have gated : (s.vfGated v).sansResetGate = s.sansResetGate := by
    unfold State.vfGated
    exact State.ite_keeps (F := State.sansResetGate) ((State.startGate_sansResetGate _ _ _).trans forgotten) forgotten
  exact (congrArg State.sansGate (s.vfFlr_sansReset v)).trans gated

end

end Sys2Proof.Machine
end

section
/-! SUPPORT. The function-level reset of the PF: every command is gone before the package floodgate, so that no job is logged and
no memory is written (R238, R304, R320, R332). -/

namespace Sys2Proof.Machine

/-! ### Memories that stand still -/

/-- Under-core memory stands, and edge memory does where no near-bank command is queued; none is queued then. -/
def State.Still (s t : State) : Prop :=
  t.ucm = s.ucm ∧ ((∀ e, (s.edgeCh e).queue = []) → t.edge = s.edge ∧ ∀ e, (t.edgeCh e).queue = [])

namespace State.Still

variable {s t u : State}

theorem refl (s : State) : State.Still s s := ⟨rfl, fun h => ⟨rfl, h⟩⟩

theorem trans (h : State.Still s t) (k : State.Still t u) : State.Still s u := by
  refine ⟨k.1.trans h.1, fun empty => ?_⟩
  obtain ⟨edge, queues⟩ := h.2 empty
  obtain ⟨edge', queues'⟩ := k.2 queues
  exact ⟨edge'.trans edge, queues'⟩

/-- The module without anything but its memories and their channels. -/
def view (s : State) : Memory × Memory × Sparse EdgeCh := (s.ucm, s.edge, s.channels)

theorem of_view (h : view t = view s) : State.Still s t := by
  have ucm : t.ucm = s.ucm := congrArg Prod.fst h
  have edge : t.edge = s.edge := congrArg (fun v => v.2.1) h
  have channels : t.channels = s.channels := congrArg (fun v => v.2.2) h
  have same : t.edgeCh = s.edgeCh := funext fun e => congrArg (fun m => Sparse.get ({} : EdgeCh) m e) channels
  exact ⟨ucm, fun h => ⟨edge, fun e => by rw [same, h e]⟩⟩

theorem each {α : Type} {g : State → α → State} (h : ∀ u x, State.Still u (g u x)) (l : List α) (s : State) :
    State.Still s (s.each l g) := by
  induction l generalizing s with
  | nil => exact .refl s
  | cons x l ih => exact (h s x).trans (ih _)

theorem nbDiscard (s : State) (sel : NbCmd → Bool) : State.Still s (s.nbDiscard sel) := by
  have ucm : (s.nbDiscard sel).ucm = s.ucm :=
    s.nbDiscard_keeps (F := State.ucm) (fun _ _ _ => rfl) (fun _ _ _ => rfl) (fun _ _ _ => rfl) sel
  refine ⟨ucm, fun empty => ?_⟩
  unfold State.nbDiscard
  let P (u : State) : Prop := u.edge = s.edge ∧ ∀ e, (u.edgeCh e).queue = []
  have stacks_ : ∀ (u : State) l g, P u → P (u.each l fun u e => u.onStack e g) := fun u l g hu =>
    State.each_preserves (P := P) l u (fun v e _ hv => hv) hu
  refine stacks_ _ _ _ (State.each_preserves (P := P) _ s (fun u e _ hu => ?_) ⟨rfl, empty⟩)
  dsimp only
  rw [hu.2 e]
  refine ⟨hu.1, fun k => ?_⟩
  refine (congrArg EdgeCh.queue (State.setEdgeCh_edgeCh ..)).trans ?_
  split
  · rfl
  · exact hu.2 k

theorem disableChan (s : State) (k : Nat) : State.Still s (s.disableChan k) := by
  unfold State.disableChan
  split
  · exact .refl s
  · have unbound : State.Still s (s.unbindAll k) :=
      .of_view (State.each_keeps (F := view) (g := fun u cl => u.onCluster cl fun c => c.unbind k) (fun _ _ => rfl) _ s)
    have disowned : ∀ u : State, State.Still u (u.disown k) := by
      intro u
      refine ⟨rfl, fun empty => ⟨rfl, fun e => ?_⟩⟩
      let g (c : EdgeCh) : EdgeCh := { c with
        held := c.held.map fun h => if h.req.who = .dma k then { h with life := deadLife } else h }
      exact (congrArg EdgeCh.queue ((Sparse.get_mapWhere ({} : EdgeCh) (fun _ => true) g rfl u.channels e).trans (if_pos rfl)) :).trans
        (empty e)
    exact (unbound.trans (disowned _)).trans (.of_view rfl)

theorem halt (s : State) (p : Nat) : State.Still s (s.halt p).1 := by
  have last : ∀ (u : State) hs, State.Still u ((u.idleHalfDies p).junkCores hs true) := by
    intro u hs
    refine .of_view ?_
    rw [State.junkCores_eq, State.each_keeps (F := view) (g := fun v h => v.onHalfDie h (HalfDie.junked v.fresh true)) (fun _ _ => rfl)]
    exact State.each_keeps (F := view) (g := fun v h => v.onHalfDie h HalfDie.rested) (fun _ _ => rfl) _ u
  have first : State.Still s (s.each (s.listed p) fun u cl => u.onCluster cl Cluster.discard) :=
    .of_view (State.each_keeps (F := view) (g := fun u cl => u.onCluster cl Cluster.discard) (fun _ _ => rfl) _ s)
  have halting : State.Still s (s.halting p) := first.trans ((State.Still.nbDiscard _ fun c => c.polder == p).trans
    ((State.Still.each (fun u k => State.Still.disableChan u k) (s.liveChans fun c => c.polder == p) _).trans (last _ _)))
  have marked : ∀ (u : State) g, State.Still u (u.onPolder p g) := fun u g => .of_view rfl
  rw [s.halt_eq]
  exact halting.trans (marked _ _)

end State.Still

/-- A polder whose command has been lost, and whose job ends without a record (R332). -/
def Polder.Unheard (x : Polder) : Prop := x.command = none ∧ ∀ j, x.job = some j → j.silent = true

theorem Polder.discarded_unheard (x : Polder) : (x.discarded fun _ => true).Unheard := by
  unfold Polder.discarded
  split
  · exact ⟨rfl, fun j h => by cases h⟩
  · unfold Polder.discard
    refine ⟨?_, fun j h => ?_⟩
    · cases h : x.command <;> simp
    · dsimp only at h
      obtain ⟨k, _, made⟩ := Option.bind_eq_some_iff.1 h
      unfold Job.discard at made
      split at made
      · next no => simp at no
      · split at made
        · cases made
        · cases made
          rfl

section
variable {s : State}

/-- The floodgate of such a polder logs nothing, and leaves the memories. -/
theorem State.gatePolder_still {p : Nat} (h : (s.polder p).Unheard) : State.Still s (s.gatePolder p).1 := by
  obtain ⟨command, silent⟩ := h
  obtain ⟨-, e⟩ | ⟨-, l, e⟩ | ⟨st, e⟩ := s.gatePolder_cases p
  · rw [e]
    exact .refl s
  · rw [e]
    exact (State.Still.nbDiscard _ _).trans (State.Still.each (fun u k => .disableChan u k) l _)
  · have noCommand : s.endCommand p .aborted = s := by
      unfold State.endCommand
      rw [command]
    have noSave : s.endSave p = s := by simp [State.endSave, command]
    have ended : State.Still s (s.finishJob p st 0) := by
      cases job : (s.polder p).job with
      | none =>
        rw [s.finishJob_of_none job]
        exact .refl s
      | some j =>
        obtain ⟨l, a, _, finished⟩ := s.finishJob_of_some job st 0
        have counted : State.Still.view (s.countCycles p) = State.Still.view s := by
          unfold State.countCycles
          refine State.each_keeps (F := State.Still.view) (fun u cl => ?_) _ _
          rfl
        have set_ : ∀ (u : State) x, State.Still.view (u.onPolder p x) = State.Still.view u := fun _ _ => rfl
        rw [finished, if_pos (by simp [silent j job])]
        refine .of_view ?_
        rw [State.jobCleared, set_, noSave]
        exact State.ite_keeps (F := State.Still.view) counted rfl
    rw [e, noCommand]
    exact ended.trans (.halt _ p)

theorem State.packageSteps_still : ∀ (l : List Nat) (a : State × Nat × Bool), l.Nodup → (∀ n ∈ l, (a.1.polder n).Unheard) →
    State.Still a.1 (l.foldl State.packageStep a).1 := by
  intro l
  induction l with
  | nil => exact fun a _ _ => .refl a.1
  | cons n r ih =>
    intro a nodup unheard
    obtain ⟨fresh, nodup⟩ := List.nodup_cons.1 nodup
    have step : State.Still a.1 (State.packageStep a n).1 :=
      (State.gatePolder_still (unheard n List.mem_cons_self)).trans (.of_view rfl)
    refine step.trans (ih _ nodup fun k hk => ?_)
    rw [State.packageStep_polder_of_ne (fun e : k = n => fresh (e ▸ hk))]
    exact unheard k (List.mem_cons_of_mem _ hk)

theorem State.packageSteps_holds {i : List Byte} {k : Nat} : ∀ (l : List Nat) (a : State × Nat × Bool), (a.1.polder k).Holds i →
    ((l.foldl State.packageStep a).1.polder k).Holds i := by
  intro l
  induction l with
  | nil => exact fun _ h => h
  | cons n r ih =>
    refine fun a h => ih _ ?_
    have gated := State.gatePolder_holds h n
    unfold State.packageStep
    dsimp only
    rw [State.onPolder_polder]
    split
    · next e =>
      subst e
      exact gated
    · exact gated

/-- A package floodgate where none is in progress: every polder that stands, then what is left (R315, R320). -/
theorem State.startPackageGate_form (s : State) (f : Nat) (hg : s.gates = []) :
    ∃ (b : Nat × Bool) (g : List Gate) (sel : NbCmd → Bool) (free : List Nat) (n : Nat) (e : Bool),
      s.startPackageGate f = { ((((List.range 24).filter fun n => (s.polder n).exists_).foldl State.packageStep
          (s.fgMark f 31, b)).1.nbDiscard sel).each free State.disableChan with gates := g, gateChannels := n, gateEndedJob := e } := by
  have gates : (s.fgMark f 31).gates = [] := ((congrArg State.gates (s.fgMark_sansIssuers f 31) :) : _ = s.gates).trans hg
  have polders : (s.fgMark f 31).polder = s.polder := funext fun k => s.fgMark_polder f 31 k
  unfold State.startPackageGate
  dsimp only
  rw [if_neg (by simp [gates]), polders]
  exact ⟨_, _, _, _, _, _, rfl⟩

theorem State.startPackageGate_still (hg : s.gates = []) (unheard : ∀ n < 24, (s.polder n).Unheard) (f : Nat) :
    State.Still s (s.startPackageGate f) := by
  obtain ⟨b, g, sel, free, n, e, started⟩ := s.startPackageGate_form f hg
  have marked : State.Still s (s.fgMark f 31) := .of_view (congrArg State.Still.view (s.fgMark_sansIssuers f 31) :)
  have steps := State.packageSteps_still ((List.range 24).filter fun n => (s.polder n).exists_) (s.fgMark f 31, b)
    (List.nodup_range.filter _) fun k hk => by
      rw [State.fgMark_polder]
      exact unheard k (List.mem_range.1 (List.mem_filter.1 hk).1)
  rw [started]
  exact (marked.trans steps).trans (((State.Still.nbDiscard _ sel).trans
    (State.Still.each (fun u k => .disableChan u k) free _)).trans (.of_view rfl))

theorem State.startPackageGate_holds {i : List Byte} {k : Nat} (hg : s.gates = []) (h : (s.polder k).Holds i) (f : Nat) :
    ((s.startPackageGate f).polder k).Holds i := by
  obtain ⟨b, g, sel, free, n, e, started⟩ := s.startPackageGate_form f hg
  have steps := State.packageSteps_holds (k := k) ((List.range 24).filter fun n => (s.polder n).exists_) (s.fgMark f 31, b)
    (by rwa [State.fgMark_polder])
  rw [started]
  exact (congrArg (Polder.Holds i) (congrFun (State.polder_of_polders (State.disabled_polders
    ((((List.range 24).filter fun n => (s.polder n).exists_).foldl State.packageStep (s.fgMark f 31, b)).1) sel free)) k)).mpr steps

end

/-! ### A function-level reset of the PF (R304) -/

/-- Every VF's reset, as VF Enable is cleared (R296). -/
@[irreducible] def State.vfResets (s : State) : State := s.each ((List.range 24).map (· + 1)) State.vfFlr

/-- The module as a reset of the PF has dropped every command. -/
@[irreducible] def State.pfForgotten (s : State) : State :=
  { (s.discardCommands fun _ => true).each (List.range 24) fun u n => u.onPolder n fun p => { p with gates := [] } with
    funcs := []
    gates := []
    draining := [] }

/-- The package floodgate of that reset, and what it leaves working. -/
@[irreducible] def State.pfGated (s : State) : State :=
  (s.pfForgotten.startPackageGate 25).each ((s.pfForgotten.startPackageGate 25).liveChans fun _ => true) State.disableChan

/-- The registers of the PF at reset. -/
def State.pfFresh (s : State) : State :=
  { s with
    funcs := []
    bar4Win := [0, 0x010000000000, 0x020000000000, 0x040000000000]
    bar4Off := []
    vfMap := []
    pcie := { s.pcie with vfEnable := false, bar4Log2 := 42, aspmL1 := false, bars := [], vfBars := [] }
    power := { s.power with entering := none, wake := false } }

/-- The bit of VF Enable clears. -/
def State.vfOff (s : State) : State := { s with pcie := { s.pcie with vfEnable := false } }

/-- VF Enable cleared clears its bit after every VF's reset. -/
theorem State.vfDisable_eq (s : State) : s.vfDisable = s.vfResets.vfOff := by
  unfold State.vfDisable State.vfResets State.vfOff
  dsimp only

/-- The PF's registers at reset, VF Enable apart. -/
def State.pfCleared (s : State) : State :=
  { s with
    funcs := []
    bar4Win := ({} : State).bar4Win, bar4Off := []
    vfMap := []
    pcie := { s.pcie with bar4Log2 := 42, aspmL1 := false, bars := [], vfBars := [] }
    power := { s.power with entering := none, wake := false } }

theorem State.vfOff_pfCleared (s : State) : s.vfOff.pfCleared = s.pfFresh := rfl

theorem State.pfCleared_eq (s : State) : s.vfDisable.pfCleared = s.vfResets.pfFresh :=
  (congrArg State.pfCleared s.vfDisable_eq).trans s.vfResets.vfOff_pfCleared

theorem exec_pfFlr (s : State) : exec .pfFlr s = .next s.pfGated.vfResets.pfFresh := by
  have start : exec .pfFlr s = execPfFlr s := rfl
  rw [start, ← State.pfCleared_eq]
  unfold execPfFlr State.pfGated State.pfForgotten
  dsimp only
  generalize (s.discardCommands (fun _ => true)).each (List.range 24) (fun s n => s.onPolder n fun p => { p with gates := [] }) = v
  generalize State.startPackageGate { v with funcs := [], gates := [], draining := [] } 25 = w
  generalize w.each (w.liveChans fun _ => true) State.disableChan = x
  unfold State.pfCleared
  generalize x.vfDisable = y
  rfl

section
variable (s : State)

theorem State.vfResets_tame {ch : Nat} (hch : ch < 256) : State.Tame ch s s.vfResets := by
  unfold State.vfResets
  exact State.Tame.each (fun u v => u.vfFlr_tame v hch) _ s

theorem State.vfResets_sansResetGate : s.vfResets.sansResetGate = s.sansResetGate := by
  unfold State.vfResets
  exact State.each_keeps (fun u v => u.vfFlr_sansResetGate v) _ s

theorem State.vfResets_holds {i : List Byte} {n : Nat} (h : (s.polder n).Holds i) : (s.vfResets.polder n).Holds i := by
  unfold State.vfResets
  exact State.each_preserves (P := fun u => (u.polder n).Holds i) _ s (fun u v _ hu => u.vfFlr_holds v hu) h

theorem State.vfResets_of_package (hg : s.gates ≠ []) : s.vfResets.sansReset = s.sansReset := by
  unfold State.vfResets
  exact (State.each_preserves (P := fun u => u.sansReset = s.sansReset ∧ u.gates ≠ []) _ s
    (fun u v _ hu => ⟨(u.vfFlr_of_package v hu.2).1.trans hu.1, (u.vfFlr_of_package v hu.2).2⟩) ⟨rfl, hg⟩).1

theorem State.pfForgotten_keeps {β : Type} {F : State → β} (hd : ∀ (u : State) h g, F (u.onHalfDie h g) = F u)
    (hp : ∀ (u : State) n x, F (u.setPolder n x) = F u)
    (hf : ∀ u : State, F { u with funcs := [], gates := [], draining := [] } = F u) : F s.pfForgotten = F s := by
  unfold State.pfForgotten
  rw [hf, State.each_keeps (F := F) (g := fun u n => u.onPolder n fun p => { p with gates := [] }) (fun u n => hp u n _)]
  exact s.discardCommands_keeps hd hp _

theorem State.pfForgotten_gates : s.pfForgotten.gates = [] := by
  have last : ∀ u : State, ({ u with funcs := [], gates := [], draining := [] } : State).gates = [] := fun _ => rfl
  unfold State.pfForgotten
  rw [last]

theorem State.pfForgotten_polder {n : Nat} (hn : n < 24) :
    s.pfForgotten.polder n = { (s.polder n).discarded fun _ => true with gates := [] } := by
  have last : ∀ u : State, ({ u with funcs := [], gates := [], draining := [] } : State).polder n = u.polder n := fun _ => rfl
  have mem : n ∈ List.range 24 := List.mem_range.2 hn
  unfold State.pfForgotten
  rw [last, State.each_at (V := State.polder) (φ := fun _ p => { p with gates := [] })
    (g := fun u n => u.onPolder n fun p => { p with gates := [] })
    (fun u x => (State.onPolder_polder ..).trans (if_pos rfl)) (fun u x y hne => (State.onPolder_polder ..).trans (if_neg hne.symm))
    _ _ n List.nodup_range, if_pos mem, State.discardCommands_polder, if_pos mem]

theorem State.pfForgotten_unheard {n : Nat} (hn : n < 24) : (s.pfForgotten.polder n).Unheard := by
  rw [s.pfForgotten_polder hn]
  exact (s.polder n).discarded_unheard

theorem State.pfForgotten_holds {i : List Byte} {n : Nat} (hn : n < 24) (h : (s.polder n).Holds i) : (s.pfForgotten.polder n).Holds i := by
  rw [s.pfForgotten_polder hn]
  exact h.discarded _

theorem State.pfGated_still : State.Still s s.pfGated := by
  have forgotten : State.Still s s.pfForgotten :=
    .of_view (s.pfForgotten_keeps (F := State.Still.view) (fun _ _ _ => rfl) (fun _ _ _ => rfl) (fun _ => rfl))
  unfold State.pfGated
  exact (forgotten.trans (State.startPackageGate_still s.pfForgotten_gates (fun n hn => s.pfForgotten_unheard hn) 25)).trans
    (State.Still.each (fun u k => .disableChan u k) _ _)

theorem State.pfGated_keeps {β : Type} {F : State → β} (ho : ∀ (u : State) cl g, F (u.onCluster cl g) = F u)
    (hc : ∀ (u : State) m, F { u with channels := m } = F u)
    (hd : ∀ (u : State) m n, F { u with dma := m, fresh := n } = F u) : F s.pfGated = F (s.pfForgotten.startPackageGate 25) := by
  unfold State.pfGated
  exact State.each_keeps (fun u k => u.disableChan_keeps ho hc hd k) _ _

theorem State.pfGated_gates : s.pfGated.gates ≠ [] := by
  rw [s.pfGated_keeps (F := State.gates) (fun _ _ _ => rfl) (fun _ _ => rfl) (fun _ _ _ => rfl)]
  exact (State.startPackageGate_of_none s.pfForgotten 25 s.pfForgotten_gates).2.1

theorem State.pfGated_trust : s.pfGated.trust = s.trust := by
  rw [s.pfGated_keeps (F := State.trust) (fun _ _ _ => rfl) (fun _ _ => rfl) (fun _ _ _ => rfl)]
  exact (State.startPackageGate_of_none s.pfForgotten 25 s.pfForgotten_gates).1.trans
    (s.pfForgotten_keeps (F := State.trust) (fun _ _ _ => rfl) (fun _ _ _ => rfl) (fun _ => rfl))

theorem State.pfGated_holds {i : List Byte} {n : Nat} (hn : n < 24) (h : (s.polder n).Holds i) : (s.pfGated.polder n).Holds i := by
  have gated := State.startPackageGate_holds s.pfForgotten_gates (s.pfForgotten_holds hn h) 25
  rwa [s.pfGated_keeps (F := fun u => u.polder n) (fun _ _ _ => rfl) (fun _ _ => rfl) (fun _ _ _ => rfl)]

theorem State.pfGated_disabled {ch : Nat} (hch : ch < 256) : (s.pfGated.chan ch).state = .disabled := by
  unfold State.pfGated
  generalize s.pfForgotten.startPackageGate 25 = u
  have keep : ∀ w : State, ∀ y ∈ u.liveChans (fun _ => true), (w.chan ch).state = .disabled → ((w.disableChan y).chan ch).state = .disabled := by
    intro w y _ h
    rw [State.disableChan_state, h, ite_self]
  by_cases off : (u.chan ch).state = .disabled
  · exact State.each_preserves (P := fun w => (w.chan ch).state = .disabled) _ u keep off
  · refine State.each_establishes (P := fun w => (w.chan ch).state = .disabled) (x := ch) (fun w => ?_) _ u keep ?_
    · rw [State.disableChan_state, if_pos rfl]
    · exact List.mem_filter.2 ⟨List.mem_range.2 hch, by simp [off]⟩

end

end Sys2Proof.Machine
end

section
/-! Configuration requests, the PCIe link and function-level resets (R294-R297, R304, R428). -/

namespace Sys2Proof.Machine

section
variable {s : State} {f : Nat}

/-! ### Configuration requests (R294, R296, R305) -/

theorem exec_configRequest_of_down (down : s.pcie.on = false ∨ s.pcie.up = false) (req : ConfigReq) :
    exec (.configRequest f req) s = .next { s with reply := .none } := by
  have start : exec (.configRequest f req) s = execConfigRequest f req s := rfl
  rw [start]
  unfold execConfigRequest
  rw [if_pos (by rcases down with h | h <;> simp [h])]

section
variable (on : s.pcie.on = true) (up : s.pcie.up = true)
include on up

theorem exec_configRequest_of_retrying (retrying : s.retrying = true) (req : ConfigReq) :
    exec (.configRequest f req) s = .next { s with reply := .requestRetry } := by
  have start : exec (.configRequest f req) s = execConfigRequest f req s := rfl
  rw [start]
  unfold execConfigRequest
  rw [if_neg (by simp [on, up]), if_pos retrying]

variable (ready : s.retrying = false)
include ready

/-- A VF that is not enabled answers Unsupported Request (R296). -/
theorem exec_configRequest_of_disabled (vf : f ≠ 0) (off : s.pcie.vfEnable = false) (req : ConfigReq) :
    exec (.configRequest f req) s = .next { s with reply := .unsupportedRequest } := by
  have start : exec (.configRequest f req) s = execConfigRequest f req s := rfl
  rw [start]
  unfold execConfigRequest
  rw [if_neg (by simp [on, up]), if_neg (by simp [ready]), if_pos (by simp [vf, off])]

variable (there : f = 0 ∨ s.pcie.vfEnable = true)
include there

/-- A read answers, and changes nothing. -/
theorem exec_configRequest_readItem (i : ConfigItem) :
    exec (.configRequest f (.readItem i)) s = .next { s with reply := .data (leBytes 4 (s.configValue f i)) } := by
  have start : exec (.configRequest f (.readItem i)) s = execConfigRequest f (.readItem i) s := rfl
  rw [start]
  unfold execConfigRequest
  rw [if_neg (by simp [on, up]), if_neg (by simp [ready]), if_neg (by rcases there with h | h <;> simp [h])]
  rfl

/-- A write has its effect, and is answered. -/
theorem exec_configRequest_write {req : ConfigReq} (write : req ≠ .read) (named : ∀ i, req ≠ .readItem i) :
    exec (.configRequest f req) s = .next { s.configSet f req with reply := .done } := by
  have start : exec (.configRequest f req) s = execConfigRequest f req s := rfl
  rw [start]
  unfold execConfigRequest
  rw [if_neg (by simp [on, up]), if_neg (by simp [ready]), if_neg (by rcases there with h | h <;> simp [h])]
  cases req with
  | read => exact absurd rfl write
  | readItem i => exact absurd rfl (named i)
  | _ => rfl

end

/-- An aperture whose base is misaligned is disabled (R300). -/
def State.checkBase (s : State) (i : Nat) : State :=
  if nth 0 s.bar4Win i % s.aperBytes != 0 then { s with bar4Off := Sparse.set false s.bar4Off i true } else s

/-- The apertures whose base a size leaves misaligned are disabled (R300). -/
theorem State.resizeBar4_spec (s : State) (n : Nat) :
    ∃ m, s.resizeBar4 n = { s with pcie := { s.pcie with bar4Log2 := n }, bar4Off := m }
      ∧ ∀ i < 4, Sparse.get false m i = (Sparse.get false s.bar4Off i || decide (nth 0 s.bar4Win i % (2 ^ n / 4) ≠ 0)) := by
  let sized (m : Sparse Bool) : State := { s with pcie := { s.pcie with bar4Log2 := n }, bar4Off := m }
  have keeps : ∀ u i, u = sized u.bar4Off → State.checkBase u i = sized (State.checkBase u i).bar4Off := by
    intro u i hu
    unfold State.checkBase
    split
    · rw [hu]
    · exact hu
  have all : s.resizeBar4 n = (sized s.bar4Off).each (List.range 4) State.checkBase := rfl
  have frame := State.each_preserves (P := fun u => u = sized u.bar4Off) (g := State.checkBase) (List.range 4) (sized s.bar4Off)
    (fun u i _ hu => keeps u i hu) rfl
  refine ⟨_, all.trans frame, fun i hi => ?_⟩
  rw [State.each_at_of (P := fun u => u = sized u.bar4Off) (V := fun u i => Sparse.get false u.bar4Off i)
    (φ := fun i b => b || decide (nth 0 s.bar4Win i % (2 ^ n / 4) ≠ 0)) keeps (fun u i hu => ?_) (fun u i k hk => ?_)
    (List.range 4) (sized s.bar4Off) i rfl List.nodup_range, if_pos (List.mem_range.2 hi)]
  · have win : u.bar4Win = s.bar4Win := (congrArg State.bar4Win hu :)
    have bytes : u.aperBytes = 2 ^ n / 4 := (congrArg State.aperBytes hu :)
    unfold State.checkBase
    rw [win, bytes]
    split
    · next h =>
      have h : nth 0 s.bar4Win i % (2 ^ n / 4) ≠ 0 := by simpa using h
      refine ((Sparse.get_set ..).trans (if_pos rfl)).trans ?_
      simp [h]
    · next h =>
      have h : nth 0 s.bar4Win i % (2 ^ n / 4) = 0 := by simpa using h
      simp [h]
  · unfold State.checkBase
    split
    · exact (Sparse.get_set ..).trans (if_neg hk.symm)
    · rfl

end

section
variable {t : State} {b : Sparse Nat} {n w : Nat} (bars : t.pcie.bars = Sparse.set 0 b n (w % 2 ^ 32)) (hw : w < 2 ^ 32)
include bars hw

theorem bar_written : Sparse.get 0 t.pcie.bars n = w := by
  rw [bars]
  exact ((Sparse.get_set ..).trans (if_pos rfl)).trans (Nat.mod_eq_of_lt hw)

/-- What a doubleword of BAR0 or BAR2 of the PF reads as where it has been written (R297). -/
theorem configValue_bar02 (hn : n < 4) : t.configValue 0 (.bar n) = barWord (if n < 2 then 25 else 12) n w false := by
  unfold State.configValue State.barRead
  dsimp only
  rw [bar_written bars hw, if_neg (by decide)]
  by_cases low : n < 2
  · rw [if_pos low, if_pos low]
  · rw [if_neg low, if_pos hn, if_neg low]

/-- The same of the upper doubleword of BAR4. -/
theorem configValue_bar5 (hn : n = 5) : t.configValue 0 (.bar 5) = barWord t.pcie.bar4Log2 5 w true := by
  subst hn
  unfold State.configValue State.barRead
  dsimp only
  rw [bar_written bars hw]
  rfl

end

/-- The lower doubleword of a small BAR keeps the bits above its size. -/
theorem barWord_small {log2 n : Nat} (even : n % 2 = 0) (small : log2 < 32) (w : Nat) :
    barWord log2 n w false = w / 2 ^ log2 * 2 ^ log2 + 4 := by
  unfold barWord
  rw [even, if_neg (by decide), if_pos small]
  rfl

/-- The upper doubleword of a small BAR keeps everything. -/
theorem barWord_whole {log2 n : Nat} (odd : n % 2 = 1) (small : log2 ≤ 32) (w : Nat) :
    barWord log2 n w false = w := by
  unfold barWord
  rw [odd, if_pos (by decide), Nat.sub_eq_zero_of_le small, pow_zero, Nat.div_one, Nat.mul_one]

/-- The lower doubleword of a large BAR is its type alone. -/
theorem barWord_low {log2 : Nat} (big : 32 ≤ log2) (w : Nat) : barWord log2 4 w true = 12 := by
  unfold barWord
  rw [if_neg (by decide), if_neg (Nat.not_lt.2 big)]
  rfl

/-! ### The link (R294, R295) -/

theorem foldl_max_spec (l : List Nat) (a : Nat) : (l.foldl max a = a ∨ l.foldl max a ∈ l) ∧ a ≤ l.foldl max a ∧ ∀ q ∈ l, q ≤ l.foldl max a := by
  induction l generalizing a with
  | nil => exact ⟨.inl rfl, Nat.le_refl a, fun q h => absurd h List.not_mem_nil⟩
  | cons x l ih =>
    obtain ⟨mem, least, all⟩ := ih (max a x)
    rw [List.foldl_cons]
    refine ⟨?_, (Nat.le_max_left a x).trans least, fun q hq => ?_⟩
    · rcases mem with e | e
      · rw [e]
        rcases Nat.le_total a x with h | h
        · rw [Nat.max_eq_right h]
          exact .inr List.mem_cons_self
        · rw [Nat.max_eq_left h]
          exact .inl rfl
      · exact .inr (List.mem_cons_of_mem x e)
    · rcases List.mem_cons.1 hq with rfl | hq
      · exact (Nat.le_max_right a q).trans least
      · exact all q hq

/-- The largest of a list that a limit allows. -/
theorem largest_spec {l : List Nat} {limit least : Nat} (hl : least ∈ l) (fits : least ≤ limit) (positive : 0 < least) :
    largest l limit ∈ l ∧ largest l limit ≤ limit ∧ 0 < largest l limit ∧ ∀ q ∈ l, q ≤ limit → q ≤ largest l limit := by
  obtain ⟨mem, -, all⟩ := foldl_max_spec (l.filter fun r => decide (r ≤ limit)) 0
  have above : ∀ q ∈ l, q ≤ limit → q ≤ largest l limit := fun q hq h => all q (List.mem_filter.2 ⟨hq, by simpa using h⟩)
  have some_ : 0 < largest l limit := positive.trans_le (above least hl fits)
  rcases mem with none_ | mem
  · exact absurd none_ some_.ne'
  · obtain ⟨mem, small⟩ := List.mem_filter.1 mem
    exact ⟨mem, of_decide_eq_true small, some_, above⟩

/-- Training gives the highest rate and width that both ends support (R295). -/
theorem linkTrain_spec {s : State} {rate width : Nat} {flit : Bool} (on : s.pcie.on = true) (perst : s.pcie.perst = false)
    (hr : 25 ≤ rate) (hw : 1 ≤ width) : Answers (.linkTrainPcie rate width flit) s fun t =>
      let r := t.pcie.rate
      let w := t.pcie.width
      r ∈ pcieRates ∧ r ≤ rate ∧ (flit = false → r ≤ 320) ∧ (∀ q ∈ pcieRates, q ≤ rate → flit = true ∨ q ≤ 320 → q ≤ r)
        ∧ w ∈ [1, 2, 4, 8, 16] ∧ w ≤ width ∧ (∀ q ∈ [1, 2, 4, 8, 16], q ≤ width → q ≤ w)
        ∧ t = { s with pcie := { s.pcie with up := true, rate := r, width := w, flit := flit } } := by
  have limit : 25 ≤ (if flit then rate else min 320 rate) := by
    split
    · exact hr
    · exact Nat.le_min.2 ⟨by decide, hr⟩
  obtain ⟨rateIn, rateFits, rateSome, rateMost⟩ := largest_spec (l := pcieRates) (least := 25) (by decide) limit (by decide)
  obtain ⟨widthIn, widthFits, widthSome, widthMost⟩ := largest_spec (l := [1, 2, 4, 8, 16]) (least := 1) (by decide) hw (by decide)
  have start : exec (.linkTrainPcie rate width flit) s = execLinkTrainPcie rate width flit s := rfl
  refine ⟨_, start.trans (if_neg ?_), rateIn, ?_, fun plain => ?_, fun q hq small speed => rateMost q hq ?_, widthIn, widthFits, widthMost, rfl⟩
  · simp [on, perst, rateSome.ne', widthSome.ne']
  · refine rateFits.trans ?_
    split
    · exact Nat.le_refl rate
    · exact Nat.min_le_right ..
  · refine rateFits.trans ?_
    rw [plain]
    exact Nat.min_le_left ..
  · split
    · exact small
    · next slow => exact Nat.le_min.2 ⟨speed.resolve_left slow, small⟩

/-! ### The platform reset (R304, R428) -/

/-- In a bring-up PERST_N resets the PCIe domain alone (R428). -/
theorem State.pcieReset_func (s : State) (g : Nat) : s.pcieReset.func g = (s.func g).pcieReset :=
  (Sparse.get_mapWhere ({} : Func) (fun _ => true) Func.pcieReset rfl s.funcs g).trans (if_pos rfl)

section
variable {s : State} (aon : s.power.aon = true)
include aon

theorem exec_perstN_asserted : exec (.perstN true) s = .next
    (if s.power.pkg == .p3 then State.wakeUp { s with pcie := { s.pcie with perst := true, up := false } }
    else if s.boot.running then State.pcieReset { s with pcie := { s.pcie with perst := true, up := false } }
    else { s with pcie := { s.pcie with perst := true, up := false, resetting := true }, boot := { s.boot with resetDue := true } }) := by
  have start : exec (.perstN true) s = execPerstN true s := rfl
  rw [start]
  unfold execPerstN
  rw [if_neg (by simp)]
  dsimp only
  rw [if_neg (by simp [aon])]
  split
  · rfl
  · split <;> rfl

theorem perstN_of_live (p3 : s.power.pkg ≠ .p3) (boot : s.boot.running = false) : exec (.perstN true) s = .next
    { s with pcie := { s.pcie with perst := true, up := false, resetting := true }, boot := { s.boot with resetDue := true } } := by
  rw [exec_perstN_asserted aon, if_neg (by simp [p3]), if_neg (by simp [boot])]

theorem perstN_of_bringUp (p3 : s.power.pkg ≠ .p3) (boot : s.boot.running = true) : Answers (.perstN true) s fun t =>
    t = { s with pcie := { on := true, perst := true }, bar4Win := [0, 0x010000000000, 0x020000000000, 0x040000000000]
                 bar4Off := [], vfMap := [], funcs := t.funcs } ∧ ∀ g, t.func g = (s.func g).pcieReset := by
  refine ⟨_, (exec_perstN_asserted aon).trans (congrArg Host.Outcome.next ((if_neg (by simp [p3])).trans (if_pos boot))), rfl, fun g => ?_⟩
  exact State.pcieReset_func _ g

theorem perstN_of_p3 (p3 : s.power.pkg = .p3) (sag : s.power.sagHold = false) (entering : s.power.entering = none) :
    exec (.perstN true) s = .next
      { s with pcie := { s.pcie with perst := true, up := false }, power := { s.power with exiting := true } } := by
  rw [exec_perstN_asserted aon, if_pos (by simp [p3])]
  unfold State.wakeUp
  rw [if_neg (by simp [sag]), if_neg (by simp [entering])]
  dsimp only
  rw [p3]

end

/-! ### Function-level resets (R296, R304) -/

section
variable {s : State}

theorem DmaCh.func_of_owner {x y : DmaCh} (h : x.owner = y.owner) : x.func = y.func := congrArg Prod.fst h

theorem Func.empty_of_mail {x : Func} (h : x.mail = ({} : Func).mail) : x.ring = none ∧ x.inbox = [] ∧ x.h2d = [] :=
  ⟨Option.isNone_iff_eq_none.1 (congrArg (fun m => m.2.2) h), congrArg (fun m => m.2.1) h, congrArg Prod.fst h⟩

theorem State.vfPolder_of_sansReset {t : State} (h : t.sansReset = s.sansReset) (v : Nat) : t.vfPolder v = s.vfPolder v :=
  (congrArg (fun u : State => u.vfPolder v) h :)

theorem State.regs_of_sansResetGate {t : State} (h : t.sansResetGate = s.sansResetGate) :
    t.trust = s.trust ∧ t.vfMap = s.vfMap ∧ t.bar4Win = s.bar4Win :=
  ⟨(congrArg State.trust h :), (congrArg State.vfMap h :), (congrArg State.bar4Win h :)⟩

theorem State.memories_of_sansReset {t : State} (h : t.sansReset = s.sansReset) : t.trust = s.trust ∧ t.ucm = s.ucm ∧ t.edge = s.edge :=
  ⟨(congrArg State.trust h :), (congrArg State.ucm h :), (congrArg State.edge h :)⟩

/-- What clearing the bit of VF Enable leaves. -/
theorem State.vfOff_spec (s : State) : s.vfOff.pcie.vfEnable = false ∧ s.vfOff.func = s.func ∧ s.vfOff.chan = s.chan
    ∧ s.vfOff.trust = s.trust := ⟨rfl, rfl, rfl, rfl⟩

/-- What the reset of the PF's registers leaves. -/
theorem State.pfFresh_spec (s : State) : s.pfFresh.chan = s.chan ∧ s.pfFresh.pcie.vfEnable = false ∧ (∀ g, s.pfFresh.func g = {})
    ∧ (∀ g, s.pfFresh.vfPolder g = 31) ∧ s.pfFresh.bar4Win = [0, 0x010000000000, 0x020000000000, 0x040000000000]
    ∧ s.pfFresh.trust = s.trust ∧ s.pfFresh.ucm = s.ucm ∧ s.pfFresh.edge = s.edge ∧ s.pfFresh.polder = s.polder := by
  refine ⟨rfl, rfl, fun g => rfl, fun g => ?_, rfl, rfl, rfl, rfl, rfl⟩
  unfold State.vfPolder
  split <;> rfl

/-- A polder that runs goes on as such through the loss of a function's commands. -/
theorem State.vfForgotten_running {v n : Nat} (run : (s.polder n).state = .running) (free : (s.polder n).gates = []) :
    ((s.vfForgotten v).polder n).state = .running ∧ ((s.vfForgotten v).polder n).gates = [] := by
  have stands : (s.polder n).exists_ = true := by simp [Polder.exists_, run]
  rw [s.vfForgotten_polder]
  split
  · unfold Polder.discarded
    rw [if_neg (by simp [stands])]
    refine ⟨?_, ?_⟩
    · exact (if_neg (by simp [run])).trans run
    · exact (congrArg (List.map _) free :)
  · exact ⟨run, free⟩

/-- A reset of a VF (R304). -/
theorem vfFlr_resets {v : Nat} (lo : 1 ≤ v) (hi : v ≤ 24) : Answers (.vfFlr v) s fun t => t.func v = {}
    ∧ (∀ ch < 256, (s.chan ch).func = v → (t.chan ch).state = .disabled ∧ (t.chan ch).func = v
        ∧ (t.chan ch).polder = (s.chan ch).polder ∧ (t.chan ch).edgeLo = (s.chan ch).edgeLo
        ∧ (t.chan ch).edgeHi = (s.chan ch).edgeHi ∧ (t.chan ch).base = 0 ∧ (t.chan ch).size = 0 ∧ (t.chan ch).fetched = [])
    ∧ (s.vfPolder v < 24 → (s.polder (s.vfPolder v)).exists_ = true → s.gates = [] → (s.polder (s.vfPolder v)).gates = [] →
        (s.polder (s.vfPolder v)).state = .running →
        (t.polder (s.vfPolder v)).state = .halted ∧ (t.polder (s.vfPolder v)).job = none)
    ∧ t.trust = s.trust ∧ t.vfMap = s.vfMap ∧ t.bar4Win = s.bar4Win := by
  have start : exec (.vfFlr v) s = .next (if 1 ≤ v ∧ v ≤ 24 then s.vfFlr v else s) := rfl
  have kept := s.vfFlr_sansResetGate v
  refine ⟨_, start.trans (congrArg Host.Outcome.next (if_pos ⟨lo, hi⟩)), s.vfFlr_func v, fun ch hch mine => ?_,
    fun small _ package gates run => ?_, State.regs_of_sansResetGate kept⟩
  · obtain ⟨c, e, own⟩ := s.vfFlr_chan v hch mine
    rw [e]
    have func : c.func = v := (DmaCh.func_of_owner own).trans mine
    exact ⟨rfl, func, (congrArg (fun o => o.2.1) own :), (congrArg (fun o => o.2.2.1) own :), (congrArg (fun o => o.2.2.2) own :),
      rfl, rfl, rfl⟩
  · obtain ⟨run, gates⟩ := State.vfForgotten_running (v := v) run gates
    have package : (s.vfForgotten v).gates = [] := by
      rw [s.vfForgotten_gates, package]
      rfl
    have target : (s.vfForgotten v).vfPolder v = s.vfPolder v := State.vfPolder_of_sansReset (s.vfForgotten_sansReset v) v
    have gated : s.vfGated v = (s.vfForgotten v).startGate 25 (s.vfPolder v) := by
      unfold State.vfGated
      rw [target, if_pos small]
    obtain ⟨halted, job, -⟩ := State.startGate_of_running (s.vfForgotten v) (f := 25) package gates run
    rw [s.vfFlr_polder, gated]
    exact ⟨halted, job⟩

/-- Clearing VF Enable resets every VF (R296). -/
theorem vfEnableClear_resets (s : State) : Answers .vfEnableClear s fun t => t.pcie.vfEnable = false
    ∧ (∀ g, 1 ≤ g → g ≤ 24 → (t.func g).ring = none ∧ (t.func g).inbox = [] ∧ (t.func g).h2d = [])
    ∧ (∀ ch < 256, 1 ≤ (s.chan ch).func → (s.chan ch).func ≤ 24 → (t.chan ch).state = .disabled) ∧ t.trust = s.trust := by
  have start : exec .vfEnableClear s = .next s.vfDisable := rfl
  have listed : ∀ g, 1 ≤ g → g ≤ 24 → g ∈ (List.range 24).map (· + 1) := fun g lo hi =>
    List.mem_map.2 ⟨g - 1, List.mem_range.2 (by omega), by omega⟩
  obtain ⟨off, funcs, chans, trust⟩ := s.vfResets.vfOff_spec
  refine ⟨_, start.trans (congrArg Host.Outcome.next s.vfDisable_eq), off, ?_, ?_, ?_⟩
  · intro g lo hi
    rw [funcs]
    have empty : (s.vfResets.func g).mail = ({} : Func).mail := by
      unfold State.vfResets
      refine State.each_establishes (P := fun u => (u.func g).mail = ({} : Func).mail) (x := g) (fun u => ?_) _ s (fun u v _ hu => ?_)
        (listed g lo hi)
      · rw [u.vfFlr_func]
      · by_cases hv : g = v
        · subst hv
          rw [u.vfFlr_func]
        · rw [u.vfFlr_mail v hv, hu]
    exact Func.empty_of_mail empty
  · intro ch hch lo hi
    rw [chans]
    have reset : (s.vfResets.chan ch).func = (s.chan ch).func → (s.vfResets.chan ch).state = .disabled := by
      unfold State.vfResets
      refine State.each_establishes (P := fun u => (u.chan ch).func = (s.chan ch).func → (u.chan ch).state = .disabled)
        (x := (s.chan ch).func) (fun u own => ?_) _ s (fun u v _ hu own => ?_) (listed _ lo hi)
      · have before : (u.chan ch).func = (s.chan ch).func := (DmaCh.func_of_owner (u.vfFlr_tame _ hch).1).symm.trans own
        obtain ⟨c, e, -⟩ := u.vfFlr_chan _ hch before
        rw [e]
        rfl
      · have before : (u.chan ch).func = (s.chan ch).func := (DmaCh.func_of_owner (u.vfFlr_tame v hch).1).symm.trans own
        exact (u.vfFlr_tame v hch).2 (hu before)
    exact reset (DmaCh.func_of_owner (s.vfResets_tame hch).1)
  · exact trust.trans (State.regs_of_sansResetGate s.vfResets_sansResetGate).1

/-- A reset of the PF (R304). -/
theorem pfFlr_resets (s : State) : Answers .pfFlr s fun t => (∀ ch < 256, (t.chan ch).state = .disabled) ∧ t.pcie.vfEnable = false
    ∧ (∀ g, t.func g = {}) ∧ (∀ g, t.vfPolder g = 31) ∧ t.bar4Win = [0, 0x010000000000, 0x020000000000, 0x040000000000]
    ∧ t.trust = s.trust ∧ t.ucm = s.ucm ∧ ((∀ e ∈ s.channels, e.2.queue = []) → t.edge = s.edge)
    ∧ ∀ n < 24, (s.polder n).exists_ = true → (t.polder n).image = (s.polder n).image := by
  obtain ⟨trust, ucm, edge⟩ := State.memories_of_sansReset (s.pfGated.vfResets_of_package s.pfGated_gates)
  obtain ⟨ucm', edge'⟩ := s.pfGated_still
  obtain ⟨chans, off, funcs, vfs, win, trustF, ucmF, edgeF, polders⟩ := s.pfGated.vfResets.pfFresh_spec
  refine ⟨_, exec_pfFlr s, fun ch hch => ?_, off, funcs, vfs, win, trustF.trans (trust.trans s.pfGated_trust),
    ucmF.trans (ucm.trans ucm'), fun empty => ?_, fun n hn stands => ?_⟩
  · rw [chans]
    exact (s.pfGated.vfResets_tame hch).2 (s.pfGated_disabled hch)
  · have queues : ∀ e, (s.edgeCh e).queue = [] := fun e =>
      (Sparse.get_mem ({} : EdgeCh) s.channels e).elim (fun h => empty _ h) (fun h => (congrArg EdgeCh.queue h :))
    exact edgeF.trans (edge.trans (edge' queues).1)
  · rw [polders]
    exact (s.pfGated.vfResets_holds (s.pfGated_holds hn ⟨stands, rfl⟩)).2

end

end Sys2Proof.Machine

open Sys2Proof Sys2Proof.Machine

/-- Settles O45, clause by clause: a configuration request by its guards, the link by the largest rate and width that both ends
allow, and the resets by what each of their stages leaves. -/
theorem configurationAndFunctionResets : Obligations.ConfigurationAndFunctionResets := by
  unfold Obligations.ConfigurationAndFunctionResets
  intro s f v req on flit
  refine ⟨fun h1 h2 h3 => exec_configRequest_of_retrying h1 h2 h3 req, fun h1 h2 h3 => ⟨?_, fun there => ⟨?_, ?_⟩, ?_, fun lo hi => ?_,
    exec_configRequest_readItem h1 h2 h3, fun n w hw => ?_, fun vf off => exec_configRequest_of_disabled h1 h2 h3 vf off req⟩,
    fun down => exec_configRequest_of_down down req, rfl, rfl, fun aon p3 boot => ?_, fun aon p3 boot => ?_, fun aon p3 sag entering => ?_,
    fun rate width h1 h2 h3 h4 => linkTrain_spec h1 h2 h3 h4, fun lo hi => ?_, ?_, ?_⟩
  · have start : exec (.configRequest 0 .read) s = execConfigRequest 0 .read s := rfl
    rw [start]
    unfold execConfigRequest
    rw [if_neg (by simp [h1, h2]), if_neg (by simp [h3]), if_neg (by simp)]
    rfl
  · exact exec_configRequest_write h1 h2 h3 there (by simp) (by simp)
  · exact exec_configRequest_write h1 h2 h3 there (by simp) (by simp)
  · exact exec_configRequest_write h1 h2 h3 (.inl rfl) (by simp) (by simp)
  · obtain ⟨m, sized, bases⟩ := s.resizeBar4_spec v
    have set_ : s.configSet 0 (.bar4Size v) = s.resizeBar4 v := by
      unfold State.configSet
      simp [lo, hi]
    refine ⟨_, exec_configRequest_write h1 h2 h3 (.inl rfl) (by simp) (by simp), ?_, ?_⟩
    · rw [set_, sized]
    · rw [set_, sized]
      exact bases
  · refine ⟨_, exec_configRequest_write h1 h2 h3 (.inl rfl) (by simp) (by simp), rfl, ?_, ?_, ?_, ?_, ?_⟩
    · rintro rfl
      exact (configValue_bar02 (n := 0) rfl hw (by decide)).trans (barWord_small (by decide) (by decide) w)
    · rintro rfl
      exact (configValue_bar02 (n := 2) rfl hw (by decide)).trans (barWord_small (by decide) (by decide) w)
    · rintro (rfl | rfl)
      · exact (configValue_bar02 (n := 1) rfl hw (by decide)).trans (barWord_whole (by decide) (by decide) w)
      · exact (configValue_bar02 (n := 3) rfl hw (by decide)).trans (barWord_whole (by decide) (by decide) w)
    · intro big
      exact barWord_low big _
    · rintro rfl big
      exact configValue_bar5 rfl hw rfl
  · exact perstN_of_live aon p3 boot
  · exact perstN_of_bringUp aon p3 boot
  · exact perstN_of_p3 aon p3 sag entering
  · exact vfFlr_resets lo hi
  · exact vfEnableClear_resets s
  · exact pfFlr_resets s

end

section
/-! SUPPORT. One word of under-core memory: what a read and a write of it do, through the port and through the aperture
(R178, R187, R188, R190, R195). -/

namespace Sys2Proof.Machine

/-! ### A word without errors -/

theorem ucmDecode_none : ucmDecode [] = some [] := by
  simp [ucmDecode, Rs.decode, Rs.inReach]

theorem Errs.apply_length (e : Errs) (l : List Byte) : (e.apply l).length = l.length := by
  unfold Errs.apply
  induction e generalizing l with
  | nil => rfl
  | cons x e ih =>
    rw [List.foldl_cons, ih]
    split
    · exact List.length_set
    · rfl

/-! ### Accesses inside one unit -/

theorem accSplit_one {acc : Access} {a unit : Nat} (h : accLen acc ≤ unit - a % unit) : accSplit acc a unit = (acc, none) := by
  cases acc with
  | read n => exact if_pos h
  | write l => exact if_pos h

/-- An access that stays inside a unit is one piece. -/
theorem pieces_one {unit : Nat} {one : State → Nat → Access → List SymErr → State × Got} {n : Nat} {s : State} {a : Nat}
    {acc : Access} (h : accLen acc ≤ unit - a % unit) (fl : List SymErr) :
    pieces unit one (n + 1) s a acc fl = one s a acc fl := by
  unfold pieces
  rw [accSplit_one h]
  dsimp only
  split
  · next no => cases no
  · rfl

/-! ### The port of a core (R180) -/

/-- The module without the cores whose moves a port slot delays. -/
def State.sansPorts (s : State) : State := { s with tcores := [], vcores := [], scores := [] }

section
variable (s : State)

theorem State.portTaken_sansPorts (core : Nat) : (s.portTaken core).sansPorts = s.sansPorts := by
  unfold State.portTaken
  exact State.ite_keeps (F := State.sansPorts) (State.ite_keeps (F := State.sansPorts) rfl rfl)
    (State.ite_keeps (F := State.sansPorts) (State.ite_keeps (F := State.sansPorts) rfl rfl) (State.ite_keeps (F := State.sansPorts) rfl rfl))

theorem State.retireFirst_none {core w : Nat} (free : ∀ m ∈ (Sparse.get [] s.merges core : List MergeEntry), m.word ≠ w) (flips : List SymErr) :
    s.retireFirst core w flips = s := by
  unfold State.retireFirst
  rw [if_neg]
  simpa using free

/-! ### Reading a word -/

/-- A word that was never written reads as zero bytes (R188). -/
theorem State.ucmRead_unwritten {core w : Nat} (h : Sparse.get false s.ucmValid (ucmIndex core w) = false) (source : Nat)
    (flips : List SymErr) (b : By) : s.ucmRead core w source flips b = (s.ucmCount core b, { data := zeros 32 }) := by
  have valid : (s.ucmCount core b).ucmValid = s.ucmValid := by
    unfold State.ucmCount
    split <;> rfl
  unfold State.ucmRead
  dsimp only
  rw [valid, if_pos (by simp [h])]

/-- The word as a read counts it and takes the errors that have come up into the array (R195). -/
def State.ucmMet (s : State) (core w : Nat) (errs : Errs) (b : By) : State :=
  { s.ucmCount core b with ucmBad := Sparse.set [] s.ucmBad (ucmIndex core w) (errsTo errs) }

/-- A read of a word that stands, by what the decoder makes of its errors (R187). -/
theorem State.ucmRead_written {core w : Nat} (h : Sparse.get false s.ucmValid (ucmIndex core w) = true)
    (sound : Sparse.get [] s.ucmBad (ucmIndex core w) = []) (source : Nat) (flips : List SymErr) (b : By) :
    (∀ e, ucmDecode (errsOf flips) = some e → s.ucmRead core w source flips b =
        (if e.isEmpty then s.ucmMet core w (errsOf flips) b else (s.ucmMet core w (errsOf flips) b).corrected source core w e,
          { data := ((errsOf flips).after e).apply (s.ucm.read (ucmAddr core w) 32) }))
      ∧ (ucmDecode (errsOf flips) = none → ∃ a c e f, s.ucmRead core w source flips b =
        ((((s.ucmMet core w (errsOf flips) b).onCluster (clusterOf core) fun c => { c with ueCount := satAdd 8 c.ueCount 1 }).addLog 5 a c e f
          b.code), { status := .hwError, uncorrectable := true })) := by
  have count : (s.ucmCount core b).ucmValid = s.ucmValid ∧ (s.ucmCount core b).ucmBad = s.ucmBad ∧ (s.ucmCount core b).ucm = s.ucm := by
    unfold State.ucmCount
    split <;> exact ⟨rfl, rfl, rfl⟩
  obtain ⟨valid, bad, ucm⟩ := count
  unfold State.ucmRead State.ucmMet
  dsimp only
  rw [valid, bad, ucm, if_neg (by simp [h]), sound, List.nil_append]
  refine ⟨fun e he => ?_, fun he => ?_⟩
  · rw [he]
  · rw [he]
    exact ⟨_, _, _, _, rfl⟩

/-- A read of a word without errors. -/
theorem State.ucmRead_clean {core w : Nat} (h : Sparse.get false s.ucmValid (ucmIndex core w) = true)
    (sound : Sparse.get [] s.ucmBad (ucmIndex core w) = []) (source : Nat) (b : By) :
    s.ucmRead core w source [] b = (s.ucmMet core w [] b, { data := s.ucm.read (ucmAddr core w) 32 }) :=
  (s.ucmRead_written h sound source [] b).1 [] ucmDecode_none

theorem State.ucmMet_bad {core w : Nat} (sound : Sparse.get [] s.ucmBad (ucmIndex core w) = []) (b : By) (i : Nat) :
    Sparse.get [] (s.ucmMet core w [] b).ucmBad i = Sparse.get [] s.ucmBad i := by
  refine (Sparse.get_set ..).trans ?_
  split
  · next e => rw [← e, sound]; rfl
  · rfl

/-- What the correction of a word touches (R192). -/
theorem State.corrected_keeps {β : Type} {F : State → β} (event : ∀ (u : State) p a b c, F (u.event p a b c) = F u)
    (cluster : ∀ (u : State) n g, F (u.onCluster n g) = F u) (source core word : Nat) (e : Errs) :
    F (s.corrected source core word e) = F s := by
  unfold State.corrected
  refine (State.each_keeps (fun u sym => ?_) _ _).trans (cluster s _ _)
  exact State.ite_keeps (event u _ _ _ _) rfl

/-! ### Writing a word -/

theorem State.ucmWrite_spec {core w : Nat} {l : List Byte} (h : l.length = 32) :
    (s.ucmWrite core w l).ucm.read (ucmAddr core w) 32 = l
      ∧ (∀ x, x < ucmAddr core w ∨ ucmAddr core w + 32 ≤ x → (s.ucmWrite core w l).ucm.byte x = s.ucm.byte x)
      ∧ Sparse.get false (s.ucmWrite core w l).ucmValid (ucmIndex core w) = true
      ∧ Sparse.get [] (s.ucmWrite core w l).ucmBad (ucmIndex core w) = [] := by
  refine ⟨?_, fun x hx => Memory.byte_write_outside _ _ _ _ (by rwa [h]), (Sparse.get_set ..).trans (if_pos rfl),
    (Sparse.get_set ..).trans (if_pos rfl)⟩
  have written := Memory.read_write s.ucm (ucmAddr core w) l
  rwa [h] at written

end

end Sys2Proof.Machine
end

section
/-! Refresh, the aperture, the merge buffer, the scrubber and self-refresh of under-core memory (R178, R182, R188, R190, R193,
R194, R497). -/

namespace Sys2Proof.Machine

/-! ### Refresh (R182) -/

section
variable {s : State} {d layer : Nat}

theorem ucmRefresh_spec (idle : Bool) (on : (s.ucmDie d).on = true) (awake : (s.ucmDie d).selfRefresh = false) :
    Answers (.ucmRefresh d layer idle) s fun t =>
      let k := Sparse.get 0 (s.ucmDie d).deferred layer
      let run := if idle then k + 1 else if 8 ≤ k then 1 else 0
      Sparse.get 0 (t.ucmDie d).refreshes layer = Sparse.get 0 (s.ucmDie d).refreshes layer + run
        ∧ Sparse.get 0 (t.ucmDie d).deferred layer = k + 1 - run
        ∧ (∀ j, j ≠ layer → Sparse.get 0 (t.ucmDie d).deferred j = Sparse.get 0 (s.ucmDie d).deferred j)
        ∧ (∀ j, j ≠ d → t.ucmDie j = s.ucmDie j) ∧ t = { s with ucmDies := t.ucmDies } := by
  have start : exec (.ucmRefresh d layer idle) s = execUcmRefresh d layer idle s := rfl
  have own : (s.onUcmDie d fun x => x.refresh layer idle).ucmDie d = (s.ucmDie d).refresh layer idle :=
    (State.onUcmDie_ucmDie ..).trans (if_pos rfl)
  have runs : (if idle || (s.ucmDie d).selfRefresh then Sparse.get 0 (s.ucmDie d).deferred layer + 1
      else if 8 < Sparse.get 0 (s.ucmDie d).deferred layer + 1 then 1 else 0)
      = if idle then Sparse.get 0 (s.ucmDie d).deferred layer + 1 else if 8 ≤ Sparse.get 0 (s.ucmDie d).deferred layer then 1 else 0 := by
    simp only [awake, Bool.or_false, Nat.lt_succ_iff]
  refine ⟨_, start.trans (if_neg (by simp [on])), ?_, ?_, fun j hj => ?_, fun j hj => (State.onUcmDie_ucmDie ..).trans (if_neg hj.symm), rfl⟩
  · rw [own]
    unfold UcmDie.refresh
    dsimp only
    rw [Sparse.get_modify, if_pos rfl, runs]
  · rw [own]
    exact ((Sparse.get_set ..).trans (if_pos rfl)).trans (congrArg (Sparse.get 0 (s.ucmDie d).deferred layer + 1 - ·) runs)
  · rw [own]
    exact (Sparse.get_set ..).trans (if_neg hj.symm)

end

/-! ### The aperture (R178, R497) -/

section
variable {s : State} {core w o a k : Nat}

/-- A place of a word of the aperture that may be accessed. -/
structure State.Reaches (s : State) (core w o a k : Nat) : Prop where
  backed : s.apertureBacked a = true
  place : apertureCore a = core
  off : apertureOff a = 32 * w + o
  fits : o + k ≤ 32
  some_ : 0 < k
  on : s.ucmOff (dieOf (clusterOf core)) = false
  plain : s.fencedCulverts = []
  free : ∀ m ∈ (Sparse.get [] s.merges core : List MergeEntry), m.word ≠ w

namespace State.Reaches

variable (h : s.Reaches core w o a k)
include h

theorem inside : inAperture a = true := by
  have backed := h.backed
  simp only [State.apertureBacked, Bool.and_eq_true] at backed
  exact backed.1.1.1.1.1

theorem low : a % 2 ^ 20 = 32 * w + o := by simpa [apertureOff, bits] using h.off

theorem room32 : k ≤ 32 - a % 32 := by
  have := h.low
  have := h.fits
  have := h.some_
  omega

theorem room4096 : a % 4096 + k ≤ 4096 := by
  have := h.low
  have := h.fits
  have := h.some_
  omega

/-- The access is one of one word through the port. -/
theorem access (part : Nat) {acc : Access} (ha : accLen acc = k) :
    s.access { who := .host, part := part } a acc [] = s.aperturePiece .host a acc [] := by
  have aperture := h.inside
  have bounds : 0x040000000000 ≤ a ∧ a < 0x060000000000 := by simpa [inAperture] using aperture
  have unturned : ∀ p t, s.turnedAway .host p t = false := fun p t => by simp [State.turnedAway, h.plain]
  have page := h.room4096
  unfold State.access
  rw [pieces_one (by omega)]
  dsimp only
  rw [unturned, Bool.and_false, if_neg (by simp), if_neg (by simp; omega), if_neg (by simp [inScratch]; omega), if_pos aperture]
  unfold State.aperture
  rw [pieces_one (by rw [ha]; exact h.room32)]

theorem word : apertureOff a / 32 = w ∧ apertureOff a % 32 = o := by
  have := h.off
  have := h.fits
  have := h.some_
  omega

/-- The state in which the word is reached: the die is awake, and its latest access is now. -/
theorem touched_free : (s.ucmTouch (dieOf (clusterOf core))).retireFirst core w [] = s.ucmTouch (dieOf (clusterOf core)) :=
  State.retireFirst_none (s.ucmTouch (dieOf (clusterOf core))) h.free []

theorem piece (acc : Access) : s.aperturePiece .host a acc [] = match acc with
    | .read n =>
      let r := ((s.ucmTouch (dieOf (clusterOf core))).portTaken core).ucmRead core w srcAperture []
        (((s.ucmTouch (dieOf (clusterOf core))).portTaken core).by_ .host)
      (r.1, { r.2 with data := (r.2.data.drop o).take n })
    | .write l =>
      if l.length == 32 then (((((s.ucmTouch (dieOf (clusterOf core))).portTaken core).ucmWrite core w l).ucmCount core
        ((s.ucmTouch (dieOf (clusterOf core))).by_ .host)), {})
      else ((s.ucmTouch (dieOf (clusterOf core))).narrowWrite core w o l 0, {}) := by
  obtain ⟨word, byte⟩ := h.word
  unfold State.aperturePiece
  rw [if_neg (by simp [h.backed]), h.place]
  dsimp only
  rw [word, byte, h.touched_free]
  refine (if_neg (by simp [h.on])).trans ?_
  cases acc <;> rfl

end State.Reaches

theorem execUcmAperture_read (hr : s.Reaches core w o a k) (free : s.stallsAt true = none) (t : State) (data : List Byte)
    (piece : s.aperturePiece .host a (.read k) [] = (t, { data := data })) :
    exec (.ucmApertureAccess .host a (.read k) []) s = .next { t with reply := .data data } := by
  have start : exec (.ucmApertureAccess .host a (.read k) []) s = .next (s.hostDevRead a k []) := by
    have unfolded : exec (.ucmApertureAccess .host a (.read k) []) s = execUcmApertureAccess .host a (.read k) [] s := rfl
    rw [unfolded]
    exact if_neg (by simp [hr.inside])
  rw [start]
  unfold State.hostDevRead
  rw [partsOf_one (acc := .read k) hr.room4096]
  have read := State.hostReadParts_one free a k _ rfl
  rw [hr.access _ rfl, piece] at read
  exact congrArg Host.Outcome.next (read.1 rfl)

theorem execUcmAperture_write {l : List Byte} (hr : s.Reaches core w o a l.length) (free : s.stallsAt false = none) (t : State)
    (piece : s.aperturePiece .host a (.write l) [] = (t, {})) :
    exec (.ucmApertureAccess .host a (.write l) []) s = .next { t with reply := .done } := by
  have start : exec (.ucmApertureAccess .host a (.write l) []) s = .next (s.hostDevWrite a a l []) := by
    have unfolded : exec (.ucmApertureAccess .host a (.write l) []) s = execUcmApertureAccess .host a (.write l) [] s := rfl
    rw [unfolded]
    exact if_neg (by simp [hr.inside])
  rw [start, State.hostDevWrite_one free a a l hr.room4096]
  have write := s.hostPiece_outcome a a l _ rfl
  have access : s.access { who := .host } a (.write l) [] = (t, {}) := (hr.access 0 rfl).trans piece
  rw [access] at write
  rw [write.1 (.inl rfl)]

/-- The word as it stands behind the port. -/
theorem State.reached_word (s : State) (core : Nat) {u : State} (h : u = (s.ucmTouch (dieOf (clusterOf core))).portTaken core) :
    u.ucm = s.ucm ∧ u.ucmValid = s.ucmValid ∧ u.ucmBad = s.ucmBad ∧ u.merges = s.merges ∧ u.clusters = s.clusters
      ∧ (u.ucmDie (dieOf (clusterOf core))).selfRefresh = false := by
  have ports := (s.ucmTouch (dieOf (clusterOf core))).portTaken_sansPorts core
  rw [← h] at ports
  refine ⟨(congrArg State.ucm ports :), (congrArg State.ucmValid ports :), (congrArg State.ucmBad ports :), (congrArg State.merges ports :),
    (congrArg State.clusters ports :), ?_⟩
  have die : u.ucmDie (dieOf (clusterOf core)) = (s.ucmTouch (dieOf (clusterOf core))).ucmDie (dieOf (clusterOf core)) :=
    (congrArg (fun v : State => v.ucmDie (dieOf (clusterOf core))) ports :)
  rw [die]
  exact congrArg UcmDie.selfRefresh ((State.onUcmDie_ucmDie ..).trans (if_pos rfl))

theorem State.ucmCount_ucm (s : State) (core : Nat) (b : By) : (s.ucmCount core b).ucm = s.ucm ∧ (s.ucmCount core b).ucmValid = s.ucmValid
    ∧ ∀ d, ((s.ucmCount core b).ucmDie d).selfRefresh = (s.ucmDie d).selfRefresh := by
  unfold State.ucmCount
  split
  · exact ⟨rfl, rfl, fun _ => rfl⟩
  · refine ⟨rfl, rfl, fun d => ?_⟩
    rw [State.onUcmDie_ucmDie]
    split
    · next e => rw [e]
    · rfl

/-- Reads of a word through the aperture. -/
theorem aperture_reads (hr : s.Reaches core w o a k) (free : s.stallsAt true = none) :
    (Sparse.get false s.ucmValid (ucmIndex core w) = true ∧ Sparse.get [] s.ucmBad (ucmIndex core w) = [] →
      Answers (.ucmApertureAccess .host a (.read k) []) s fun t =>
        t.reply = .data (((s.ucm.read (ucmAddr core w) 32).drop o).take k) ∧ t.ucm = s.ucm)
    ∧ (Sparse.get false s.ucmValid (ucmIndex core w) = false →
      Answers (.ucmApertureAccess .host a (.read k) []) s fun t => t.reply = .data (zeros k) ∧ t.ucm = s.ucm) := by
  have piece := hr.piece (.read k)
  obtain ⟨ucm, valid, bad, -⟩ := s.reached_word core rfl
  generalize (s.ucmTouch (dieOf (clusterOf core))).portTaken core = u at piece ucm valid bad
  refine ⟨fun ⟨stands, sound⟩ => ?_, fun unwritten => ?_⟩
  · rw [← valid] at stands
    rw [← bad] at sound
    dsimp only at piece
    rw [u.ucmRead_clean stands sound] at piece
    refine ⟨_, execUcmAperture_read hr free _ _ piece, ?_, ?_⟩
    · rw [ucm]
    · exact (u.ucmCount_ucm core _).1.trans ucm
  · rw [← valid] at unwritten
    dsimp only at piece
    rw [u.ucmRead_unwritten unwritten] at piece
    refine ⟨_, execUcmAperture_read hr free _ _ piece, ?_, (u.ucmCount_ucm core _).1.trans ucm⟩
    have fits := hr.fits
    have cut : ((zeros 32).drop o).take k = zeros k := by
      unfold zeros
      rw [List.drop_replicate, List.take_replicate, Nat.min_eq_left (by omega)]
    rw [cut]

/-- A write of a whole word through the aperture. -/
theorem aperture_whole {l : List Byte} (hr : s.Reaches core w o a l.length) (free : s.stallsAt false = none) (hl : l.length = 32) :
    Answers (.ucmApertureAccess .host a (.write l) []) s fun t =>
      t.ucm.read (ucmAddr core w) 32 = l ∧ Sparse.get false t.ucmValid (ucmIndex core w) = true
        ∧ (∀ x, x < ucmAddr core w ∨ ucmAddr core w + 32 ≤ x → t.ucm.byte x = s.ucm.byte x)
        ∧ (t.ucmDie (dieOf (clusterOf core))).selfRefresh = false ∧ t.reply = .done := by
  have piece := (hr.piece (.write l)).trans (if_pos (by simp [hl]))
  obtain ⟨ucm, -, -, -, -, awake⟩ := s.reached_word core rfl
  generalize (s.ucmTouch (dieOf (clusterOf core))).portTaken core = u at piece ucm awake
  obtain ⟨read, outside, valid, -⟩ := u.ucmWrite_spec (core := core) (w := w) hl
  obtain ⟨ucm', valid', awake'⟩ := (u.ucmWrite core w l).ucmCount_ucm core ((s.ucmTouch (dieOf (clusterOf core))).by_ .host)
  refine ⟨_, execUcmAperture_write hr free _ piece, ?_, ?_, fun x hx => ?_, (awake' _).trans awake, rfl⟩
  · exact (congrArg (fun m : Memory => m.read (ucmAddr core w) 32) ucm').trans read
  · exact (congrArg (fun m => Sparse.get false m (ucmIndex core w)) valid').trans valid
  · exact (congrArg (fun m : Memory => m.byte x) ucm').trans ((outside x hx).trans (by rw [ucm]))

/-- A mask of fewer than 32 bytes does not fill an entry. -/
theorem mask_short {k o : Nat} (hk : k < 32) : (0 ||| (BitVec.ofNat 32 (2 ^ k - 1) <<< o) : BitVec 32) ≠ BitVec.allOnes 32 := by
  intro full
  rw [show (0 : BitVec 32) = 0#32 from rfl, BitVec.zero_or] at full
  have at_ (i : Nat) : (decide (i < 32) && !decide (i < o) && (decide (i - o < 32) && decide (i - o < k))) = decide (i < 32) := by
    have bit := congrArg (fun m : BitVec 32 => m.getLsbD i) full
    simpa only [BitVec.getLsbD_shiftLeft, BitVec.getLsbD_ofNat, Nat.testBit_two_pow_sub_one, BitVec.getLsbD_allOnes] using bit
  by_cases ho : o = 0
  · have last := at_ 31
    simp [ho] at last
    omega
  · have first := at_ 0
    simp at first
    omega

/-- A narrow write waits in the merge buffer (R190). -/
theorem aperture_narrow {l : List Byte} (hr : s.Reaches core w o a l.length) (free : s.stallsAt false = none) (hl : l.length < 32)
    (empty : Sparse.get [] s.merges core = ([] : List MergeEntry)) :
    Answers (.ucmApertureAccess .host a (.write l) []) s fun t => t.ucm = s.ucm ∧ t.reply = .done
      ∧ Sparse.get [] t.merges core = [⟨w, 0 ||| (BitVec.ofNat 32 (2 ^ l.length - 1) <<< o), patch (zeros 32) o l, 0⟩] := by
  have piece := (hr.piece (.write l)).trans (if_neg (by simp; omega))
  have empty : Sparse.get [] (s.ucmTouch (dieOf (clusterOf core))).merges core = ([] : List MergeEntry) := empty
  have ucm : (s.ucmTouch (dieOf (clusterOf core))).ucm = s.ucm := rfl
  generalize s.ucmTouch (dieOf (clusterOf core)) = u at piece empty ucm
  have merged : u.narrowWrite core w o l 0 = { u with merges := Sparse.modify [] u.merges core fun l' =>
      l' ++ [⟨w, 0 ||| (BitVec.ofNat 32 (2 ^ l.length - 1) <<< o), patch (zeros 32) o l, 0⟩] } := by
    have stands : Sparse.get [] (Sparse.modify [] u.merges core fun l' =>
        l' ++ [(⟨w, 0 ||| (BitVec.ofNat 32 (2 ^ l.length - 1) <<< o), patch (zeros 32) o l, 0⟩ : MergeEntry)]) core
        = [⟨w, 0 ||| (BitVec.ofNat 32 (2 ^ l.length - 1) <<< o), patch (zeros 32) o l, 0⟩] := by
      rw [Sparse.get_modify, if_pos rfl, empty]
      rfl
    have put : u.mergeWrite core w o l 0 = { u with merges := Sparse.modify [] u.merges core fun l' =>
        l' ++ [⟨w, 0 ||| (BitVec.ofNat 32 (2 ^ l.length - 1) <<< o), patch (zeros 32) o l, 0⟩] } := by
      unfold State.mergeWrite
      rw [empty]
      dsimp only
      rw [if_neg (show ¬ (([] : List MergeEntry).any fun m => m.word == w) = true by simp)]
      dsimp only
      rw [stands, if_neg (by simpa using mask_short hl)]
    unfold State.narrowWrite
    rw [empty]
    dsimp only
    rw [if_neg (show ¬ (decide (8 ≤ ([] : List MergeEntry).length) && !(([] : List MergeEntry).any fun m => m.word == w)) = true by simp),
      put, stands, if_pos (by simp)]
  rw [merged] at piece
  refine ⟨_, execUcmAperture_write hr free _ piece, ucm, rfl, ?_⟩
  dsimp only
  rw [Sparse.get_modify, if_pos rfl, empty]
  rfl

end

end Sys2Proof.Machine
end

section
/-! The merge buffer and the scrubber of under-core memory, and its obligation (R190, R193-R195, R197, R497). -/

namespace Sys2Proof.Machine

section
variable {s : State} {core w : Nat}

/-! ### The merge buffer (R190) -/

theorem mergeRetire_asleep (h : (s.ucmDie (dieOf (clusterOf core))).selfRefresh = true) : exec (.mergeRetire core w []) s = .next s := by
  have start : exec (.mergeRetire core w []) s = execMergeRetire core w [] s := rfl
  rw [start]
  exact if_neg (by simp [h])

theorem MergeEntry.onto_getElem (m : MergeEntry) (l : List Byte) {i : Nat} (hi : i < 32) :
    ((m.onto l)[i]?).getD 0 = if m.mask.getLsbD i then nth 0 m.data i else nth 0 l i := by
  simp [MergeEntry.onto, hi]

theorem Memory.nth_read (m : Memory) (a : Nat) {n i : Nat} (hi : i < n) : nth 0 (m.read a n) i = m.byte (a + i) := by
  rw [Memory.read_eq]
  simp [nth, hi]

/-- The entry of a word leaves the buffer, and its masked bytes stand over the word (R190). -/
theorem State.mergeRetire_only {u : State} {m : MergeEntry} (only : Sparse.get [] u.merges core = [m]) (mine : m.word = w)
    (len : m.data.length = 32) (stands : Sparse.get false u.ucmValid (ucmIndex core w) = true)
    (sound : Sparse.get [] u.ucmBad (ucmIndex core w) = []) :
    Sparse.get [] (u.mergeRetire core w []).merges core = ([] : List MergeEntry)
      ∧ ∃ d : List Byte, d.length = 32 ∧ (u.mergeRetire core w []).ucm = u.ucm.write (ucmAddr core w) d
        ∧ ∀ i < 32, (d[i]?).getD 0 = if m.mask.getLsbD i then nth 0 m.data i else u.ucm.byte (ucmAddr core w + i) := by
  let v : State := { u with merges := Sparse.modify [] u.merges core fun l => l.filter fun x => x.word != w }
  have gone : Sparse.get [] v.merges core = ([] : List MergeEntry) := by
    refine (Sparse.get_modify ..).trans ?_
    rw [if_pos rfl, only]
    simp [mine]
  have found : (Sparse.get [] u.merges core).find? (fun m => m.word == w) = some m := by
    rw [only]
    simp [mine]
  have retired : u.mergeRetire core w [] = if m.mask == BitVec.allOnes 32 then v.ucmWrite core w m.data
      else (v.ucmMet core w [] ⟨m.func, codeMerge, 31⟩).ucmWrite core w (m.onto (u.ucm.read (ucmAddr core w) 32)) := by
    unfold State.mergeRetire
    rw [found]
    dsimp only
    have read := v.ucmRead_clean (core := core) (w := w) stands sound srcMerge ⟨m.func, codeMerge, 31⟩
    split
    · rfl
    · rw [read]
      rfl
  have met : (v.ucmMet core w [] ⟨m.func, codeMerge, 31⟩).merges = v.merges ∧ (v.ucmMet core w [] ⟨m.func, codeMerge, 31⟩).ucm = u.ucm := by
    unfold State.ucmMet State.ucmCount
    split <;> exact ⟨rfl, rfl⟩
  rw [retired]
  split
  · next full =>
    refine ⟨gone, m.data, len, rfl, fun i hi => ?_⟩
    have all : m.mask = BitVec.allOnes 32 := by simpa using full
    rw [all, BitVec.getLsbD_allOnes, decide_eq_true hi, if_pos rfl]
    simp [nth]
  · refine ⟨(congrArg (fun t => Sparse.get ([] : List MergeEntry) t core) met.1).trans gone, m.onto (u.ucm.read (ucmAddr core w) 32),
      by simp [MergeEntry.onto], congrArg (fun t : Memory => t.write (ucmAddr core w) _) met.2, fun i hi => ?_⟩
    rw [m.onto_getElem _ hi, Memory.nth_read _ _ hi]

theorem mergeRetire_spec {m : MergeEntry} (only : Sparse.get [] s.merges core = [m]) (mine : m.word = w) (len : m.data.length = 32)
    (clean : Sparse.get false s.ucmValid (ucmIndex core w) = true ∧ Sparse.get [] s.ucmBad (ucmIndex core w) = [])
    (on : (s.ucmDie (dieOf (clusterOf core))).on = true) (awake : (s.ucmDie (dieOf (clusterOf core))).selfRefresh = false) :
    Answers (.mergeRetire core w []) s fun t => Sparse.get [] t.merges core = ([] : List MergeEntry)
      ∧ (∀ i < 32, t.ucm.byte (ucmAddr core w + i) = if m.mask.getLsbD i = true then nth 0 m.data i else s.ucm.byte (ucmAddr core w + i))
      ∧ (∀ x, x < ucmAddr core w ∨ ucmAddr core w + 32 ≤ x → t.ucm.byte x = s.ucm.byte x) := by
  have start : exec (.mergeRetire core w []) s = execMergeRetire core w [] s := rfl
  have has : (Sparse.get [] s.merges core).any (fun m => m.word == w) = true := by
    rw [only]
    simp [mine]
  have ran : execMergeRetire core w [] s = .next (((s.ucmTouch (dieOf (clusterOf core))).portTaken core).mergeRetire core w []) := by
    have first : execMergeRetire core w [] s = .next ((s.ucmTouch (dieOf (clusterOf core))).retireFirst core w []) :=
      if_pos (by simp only [on, awake, has]; rfl)
    rw [first]
    exact congrArg Host.Outcome.next (if_pos has)
  obtain ⟨ucm, valid, bad, merges, -⟩ := s.reached_word core rfl
  generalize (s.ucmTouch (dieOf (clusterOf core))).portTaken core = u at ran ucm valid bad merges
  obtain ⟨gone, d, hd, written, bytes⟩ := State.mergeRetire_only (u := u) (by rw [merges, only]) mine len (by rw [valid, clean.1])
    (by rw [bad, clean.2])
  refine ⟨_, start.trans ran, gone, fun i hi => ?_, fun x hx => ?_⟩
  · rw [written, Memory.byte_write, if_pos (by omega), Nat.add_sub_cancel_left, bytes i hi, ucm]
  · rw [written, Memory.byte_write_outside _ _ _ _ (by rwa [hd]), ucm]

/-! ### The scrubber (R193-R195) -/

/-- The module as a scrub request has gone on to the next word of the slice. -/
def State.scrubMoved (s : State) (core w : Nat) : State :=
  { s with ucmScrub := Sparse.set 0 s.ucmScrub core ((w + 1) % sliceWords) }

section
variable (hw : Sparse.get 0 s.ucmScrub core = w) (on : (s.ucmDie (dieOf (clusterOf core))).on = true)
  (awake : (s.ucmDie (dieOf (clusterOf core))).selfRefresh = false)
include hw on awake

/-- A word that was never written is skipped (R188). -/
theorem exec_scrub_unwritten (flips : List SymErr) (unwritten : Sparse.get false s.ucmValid (ucmIndex core w) = false) :
    exec (.ucmScrubRequest core flips) s = .next (s.scrubMoved core w) := by
  have start : exec (.ucmScrubRequest core flips) s = execUcmScrubRequest core flips s := rfl
  rw [start]
  unfold execUcmScrubRequest
  dsimp only
  rw [if_neg (by simp [on, awake]), hw, if_pos (by simp [unwritten])]
  rfl

/-- Any other is read through the port. -/
theorem exec_scrub_written (flips : List SymErr) (stands : Sparse.get false s.ucmValid (ucmIndex core w) = true)
    (free : ∀ m ∈ (Sparse.get [] s.merges core : List MergeEntry), m.word ≠ w) (r : State × Got)
    (hr : r = (((s.scrubMoved core w).ucmTouch (dieOf (clusterOf core))).portTaken core).ucmRead core w srcScrub flips { code := codeScrub }) :
    exec (.ucmScrubRequest core flips) s = .next (if r.2.status != .ok then r.1.event (s.polderAt core) (apertureAddr core w) 0 0x03
      else if (Sparse.get [] r.1.ucmBad (ucmIndex core w)).isEmpty then r.1
      else (r.1.ucmWrite core w r.2.data).onUcmDie (dieOf (clusterOf core)) fun x => { x with passCorrected := x.passCorrected + 1 }) := by
  have start : exec (.ucmScrubRequest core flips) s = execUcmScrubRequest core flips s := rfl
  have plain : ((s.scrubMoved core w).ucmTouch (dieOf (clusterOf core))).retireFirst core w []
      = (s.scrubMoved core w).ucmTouch (dieOf (clusterOf core)) :=
    State.retireFirst_none ((s.scrubMoved core w).ucmTouch (dieOf (clusterOf core))) free []
  have made : r = ((((s.scrubMoved core w).ucmTouch (dieOf (clusterOf core))).retireFirst core w []).portTaken core).ucmRead core w srcScrub
      flips { code := codeScrub } := by rw [plain, hr]
  rw [start]
  unfold execUcmScrubRequest
  dsimp only
  rw [if_neg (by simp [on, awake]), hw, if_neg (by simp [stands])]
  unfold State.scrubMoved at made
  rw [← made]
  split
  · rfl
  · split <;> rfl

end

/-- The module without what the scrubber touches of a sound word. -/
def State.sansScrub (s : State) : State := { s with ucmScrub := [], ucmBad := [], ucmDies := [], tcores := [], vcores := [], scores := [] }

theorem State.eq_of_sansScrub {s t : State} (h : t.sansScrub = s.sansScrub) : t = { s with
    ucmScrub := t.ucmScrub, ucmBad := t.ucmBad, ucmDies := t.ucmDies, tcores := t.tcores, vcores := t.vcores, scores := t.scores } :=
  (congrArg (fun u : State => { u with
    ucmScrub := t.ucmScrub, ucmBad := t.ucmBad, ucmDies := t.ucmDies, tcores := t.tcores, vcores := t.vcores, scores := t.scores }) h :)

theorem State.freezeScrub_ucmDie (s : State) (d : Nat) : s.freezeScrub.ucmDie d = s.ucmDie d := rfl

/-- What a die tells of its scrubbing and its accesses. -/
def UcmDie.scrubbing (x : UcmDie) : Nat × Nat := (x.passCorrected, x.lastAccess)

theorem State.ucmCount_scrubbing (s : State) (core : Nat) (b : By) (d : Nat) :
    ((s.ucmCount core b).ucmDie d).scrubbing = (s.ucmDie d).scrubbing := by
  unfold State.ucmCount
  split
  · rfl
  · rw [State.onUcmDie_ucmDie]
    split
    · next e => rw [e]; rfl
    · rfl

/-- The word behind the port, as the scrubber comes to it. -/
theorem State.scrub_reached (s : State) (core w : Nat) {u : State}
    (hu : u = ((s.scrubMoved core w).ucmTouch (dieOf (clusterOf core))).portTaken core) :
    u.sansScrub = s.sansScrub ∧ u.ucmScrub = Sparse.set 0 s.ucmScrub core ((w + 1) % sliceWords)
      ∧ u.ucmValid = s.ucmValid ∧ u.ucmBad = s.ucmBad ∧ u.ucm = s.ucm
      ∧ (u.ucmDie (dieOf (clusterOf core))).scrubbing = ((s.ucmDie (dieOf (clusterOf core))).passCorrected, s.time.dev) := by
  have ports := ((s.scrubMoved core w).ucmTouch (dieOf (clusterOf core))).portTaken_sansPorts core
  rw [← hu] at ports
  have erased : ∀ {v : State}, v.sansPorts.sansScrub = v.sansScrub := rfl
  refine ⟨?_, (congrArg State.ucmScrub ports :), (congrArg State.ucmValid ports :), (congrArg State.ucmBad ports :),
    (congrArg State.ucm ports :), ?_⟩
  · exact (congrArg State.sansScrub ports :)
  · have die : u.ucmDie (dieOf (clusterOf core)) = ((s.scrubMoved core w).ucmTouch (dieOf (clusterOf core))).ucmDie (dieOf (clusterOf core)) :=
      (congrArg (fun v : State => v.ucmDie (dieOf (clusterOf core))) ports :)
    rw [die]
    exact congrArg UcmDie.scrubbing ((State.onUcmDie_ucmDie ..).trans (if_pos rfl))

theorem State.ucmMet_sansScrub (u : State) (errs : Errs) (b : By) : (u.ucmMet core w errs b).sansScrub = u.sansScrub := by
  unfold State.ucmMet State.ucmCount
  split <;> rfl

section
variable (on : (s.ucmDie (dieOf (clusterOf core))).on = true) (awake : (s.ucmDie (dieOf (clusterOf core))).selfRefresh = false)
  (hw : Sparse.get 0 s.ucmScrub core = w) (free : ∀ m ∈ (Sparse.get [] s.merges core : List MergeEntry), m.word ≠ w)
include on awake hw free

/-- A sound word stays as it is, as an access to its die; one that was never written is skipped. -/
theorem scrub_sound (h : (Sparse.get false s.ucmValid (ucmIndex core w) = true ∧ Sparse.get [] s.ucmBad (ucmIndex core w) = [])
      ∨ Sparse.get false s.ucmValid (ucmIndex core w) = false) : Answers (.ucmScrubRequest core []) s fun t =>
    Sparse.get 0 t.ucmScrub core = (w + 1) % sliceWords
      ∧ ((t.ucmDie (dieOf (clusterOf core))).lastAccess
        = if Sparse.get false s.ucmValid (ucmIndex core w) = true then s.time.dev else (s.ucmDie (dieOf (clusterOf core))).lastAccess)
      ∧ (t.ucmDie (dieOf (clusterOf core))).passCorrected = (s.ucmDie (dieOf (clusterOf core))).passCorrected
      ∧ (∀ i, Sparse.get [] t.ucmBad i = Sparse.get [] s.ucmBad i)
      ∧ t = { s with ucmScrub := t.ucmScrub, ucmBad := t.ucmBad, ucmDies := t.ucmDies, tcores := t.tcores, vcores := t.vcores, scores := t.scores } := by
  rcases h with ⟨stands, sound⟩ | unwritten
  · obtain ⟨frame, pos, valid, bad, ucm, die⟩ := s.scrub_reached core w rfl
    have ran := exec_scrub_written hw on awake [] stands free _ rfl
    generalize ((s.scrubMoved core w).ucmTouch (dieOf (clusterOf core))).portTaken core = u at ran frame pos valid bad die
    have sound' : Sparse.get [] u.ucmBad (ucmIndex core w) = [] := by rw [bad, sound]
    rw [u.ucmRead_clean (by rw [valid, stands]) sound' srcScrub { code := codeScrub }] at ran
    have kept := u.ucmMet_bad (core := core) (w := w) sound' { code := codeScrub }
    dsimp only at ran
    rw [if_neg (by simp), kept, if_pos (by simp [sound'])] at ran
    have scrubbing : ((u.ucmMet core w [] { code := codeScrub }).ucmDie (dieOf (clusterOf core))).scrubbing
        = ((s.ucmDie (dieOf (clusterOf core))).passCorrected, s.time.dev) := (u.ucmCount_scrubbing core _ _).trans die
    have position : (u.ucmMet core w [] { code := codeScrub }).ucmScrub = u.ucmScrub := by
      unfold State.ucmMet State.ucmCount
      split <;> rfl
    refine ⟨_, ran, ?_, ?_, congrArg Prod.fst scrubbing, fun i => ?_, State.eq_of_sansScrub ((u.ucmMet_sansScrub _ _).trans frame)⟩
    · rw [position, pos]
      exact (Sparse.get_set ..).trans (if_pos rfl)
    · rw [if_pos stands]
      exact congrArg Prod.snd scrubbing
    · rw [kept i, bad]
  · refine ⟨_, exec_scrub_unwritten hw on awake [] unwritten, (Sparse.get_set ..).trans (if_pos rfl), ?_, rfl, fun _ => rfl, rfl⟩
    rw [if_neg (by simp [unwritten])]
    rfl

/-- An error that the code corrects is written back and counted (R193). -/
theorem scrub_corrects {flips : List SymErr} {e : Errs} (clean : Sparse.get false s.ucmValid (ucmIndex core w) = true
      ∧ Sparse.get [] s.ucmBad (ucmIndex core w) = []) (decoded : ucmDecode (errsOf flips) = some e)
    (errors : errsTo (errsOf flips) ≠ []) : Answers (.ucmScrubRequest core flips) s fun t =>
      Sparse.get 0 t.ucmScrub core = (w + 1) % sliceWords
      ∧ t.ucm.read (ucmAddr core w) 32 = ((errsOf flips).after e).apply (s.ucm.read (ucmAddr core w) 32)
      ∧ (∀ x, x < ucmAddr core w ∨ ucmAddr core w + 32 ≤ x → t.ucm.byte x = s.ucm.byte x)
      ∧ Sparse.get [] t.ucmBad (ucmIndex core w) = []
      ∧ (t.ucmDie (dieOf (clusterOf core))).passCorrected = (s.ucmDie (dieOf (clusterOf core))).passCorrected + 1 := by
  obtain ⟨-, pos, valid, bad, ucm, die⟩ := s.scrub_reached core w rfl
  have ran := exec_scrub_written hw on awake flips clean.1 free _ rfl
  generalize ((s.scrubMoved core w).ucmTouch (dieOf (clusterOf core))).portTaken core = u at ran pos valid bad ucm die
  rw [(u.ucmRead_written (by rw [valid, clean.1]) (by rw [bad, clean.2]) srcScrub flips { code := codeScrub }).1 e decoded] at ran
  let met := u.ucmMet core w (errsOf flips) { code := codeScrub }
  obtain ⟨v, hv⟩ : ∃ v, v = if e.isEmpty then met else met.corrected srcScrub core w e := ⟨_, rfl⟩
  have keeps : ∀ {β : Type} {F : State → β}, (∀ (u : State) p a b c, F (u.event p a b c) = F u) →
      (∀ (u : State) n g, F (u.onCluster n g) = F u) → F v = F met := fun event cluster => by
    rw [hv]
    exact State.ite_keeps rfl (met.corrected_keeps event cluster _ _ _ _)
  have sends : ∀ {β : Type} {F : State → β} (u : State) p a b c, (∀ {x y : State}, x.sansSends = y.sansSends → F x = F y) →
      F (u.event p a b c) = F u := fun u p a b c h => h (u.event_sansSends p a b c)
  have vBad : v.ucmBad = met.ucmBad := keeps (F := State.ucmBad) (fun u p a b c => sends u p a b c fun h => (congrArg State.ucmBad h :)) (fun _ _ _ => rfl)
  have vUcm : v.ucm = met.ucm := keeps (F := State.ucm) (fun u p a b c => sends u p a b c fun h => (congrArg State.ucm h :)) (fun _ _ _ => rfl)
  have vPos : v.ucmScrub = met.ucmScrub := keeps (F := State.ucmScrub) (fun u p a b c => sends u p a b c fun h => (congrArg State.ucmScrub h :)) (fun _ _ _ => rfl)
  have vDies : v.ucmDies = met.ucmDies := keeps (F := State.ucmDies) (fun u p a b c => sends u p a b c fun h => (congrArg State.ucmDies h :)) (fun _ _ _ => rfl)
  have metFields : met.ucm = u.ucm ∧ met.ucmScrub = u.ucmScrub := by
    unfold met State.ucmMet State.ucmCount
    split <;> exact ⟨rfl, rfl⟩
  have here : Sparse.get [] v.ucmBad (ucmIndex core w) = errsTo (errsOf flips) := by
    rw [vBad]
    exact (Sparse.get_set ..).trans (if_pos rfl)
  rw [← hv] at ran
  dsimp only at ran
  rw [if_neg (by simp), here, if_neg (by simpa using errors)] at ran
  have len : (((errsOf flips).after e).apply (u.ucm.read (ucmAddr core w) 32)).length = 32 := by
    rw [Errs.apply_length, Memory.read_length]
  obtain ⟨read, outside, -, sound⟩ := v.ucmWrite_spec (core := core) (w := w) len
  have scrubbing : (v.ucmDie (dieOf (clusterOf core))).scrubbing = ((s.ucmDie (dieOf (clusterOf core))).passCorrected, s.time.dev) := by
    have same : v.ucmDie (dieOf (clusterOf core)) = met.ucmDie (dieOf (clusterOf core)) :=
      congrArg (fun m => Sparse.get ({} : UcmDie) m (dieOf (clusterOf core))) vDies
    rw [same]
    exact (u.ucmCount_scrubbing core _ _).trans die
  refine ⟨_, ran, ?_, ?_, fun x hx => ?_, sound, ?_⟩
  · refine (congrArg (fun m => Sparse.get 0 m core) ((vPos.trans metFields.2).trans pos) :).trans ?_
    exact (Sparse.get_set ..).trans (if_pos rfl)
  · exact read.trans (by rw [ucm])
  · exact (outside x hx).trans (by rw [vUcm, metFields.1, ucm])
  · refine (congrArg UcmDie.passCorrected ((State.onUcmDie_ucmDie ..).trans (if_pos rfl))).trans ?_
    exact congrArg (· + 1) (congrArg Prod.fst scrubbing)

/-- One that it cannot correct is counted (R195). -/
theorem scrub_uncorrectable {flips : List SymErr} (clean : Sparse.get false s.ucmValid (ucmIndex core w) = true
      ∧ Sparse.get [] s.ucmBad (ucmIndex core w) = []) (decoded : ucmDecode (errsOf flips) = none) :
    Answers (.ucmScrubRequest core flips) s fun t =>
      t.ucm = s.ucm ∧ (t.cluster (clusterOf core)).ueCount = satAdd 8 (s.cluster (clusterOf core)).ueCount 1 := by
  obtain ⟨frame, -, valid, bad, ucm, -⟩ := s.scrub_reached core w rfl
  have ran := exec_scrub_written hw on awake flips clean.1 free _ rfl
  generalize ((s.scrubMoved core w).ucmTouch (dieOf (clusterOf core))).portTaken core = u at ran frame valid bad ucm
  obtain ⟨a, c, e, f, read⟩ := (u.ucmRead_written (by rw [valid, clean.1]) (by rw [bad, clean.2]) srcScrub flips { code := codeScrub }).2 decoded
  rw [read] at ran
  dsimp only at ran
  rw [if_pos (by simp)] at ran
  have met := u.ucmMet_sansScrub (core := core) (w := w) (errsOf flips) { code := codeScrub }
  have sent := State.event_sansSends ((((u.ucmMet core w (errsOf flips) { code := codeScrub }).onCluster (clusterOf core) fun c =>
    { c with ueCount := satAdd 8 c.ueCount 1 }).addLog 5 a c e f codeScrub)) (s.polderAt core) (apertureAddr core w) 0 0x03
  have clusters : (u.ucmMet core w (errsOf flips) { code := codeScrub }).cluster (clusterOf core) = s.cluster (clusterOf core) :=
    (congrArg (fun v : State => v.cluster (clusterOf core)) (met.trans frame) :)
  have metUcm : (u.ucmMet core w (errsOf flips) { code := codeScrub }).ucm = u.ucm := (congrArg State.ucm met :)
  refine ⟨_, ran, (congrArg State.ucm sent :).trans (metUcm.trans ucm), ?_⟩
  refine (congrArg (fun v : State => (v.cluster (clusterOf core)).ueCount) sent :).trans ?_
  rw [← clusters]
  exact (congrArg Cluster.ueCount ((State.onCluster_cluster (u.ucmMet core w (errsOf flips) { code := codeScrub }) (clusterOf core)
    (clusterOf core) fun c => { c with ueCount := satAdd 8 c.ueCount 1 }).trans (if_pos rfl)) :)

end

end

end Sys2Proof.Machine

open Sys2Proof Sys2Proof.Machine

/-- Settles O46, clause by clause, through what a read and a write of one word do. -/
theorem underCoreMemoryRunsByItself : Obligations.UnderCoreMemoryRunsByItself := by
  unfold Obligations.UnderCoreMemoryRunsByItself
  intro s core w o l
  dsimp only
  intro plain
  refine ⟨fun layer idle on awake => ucmRefresh_spec idle on awake, fun a backed place off fits some_ on free => ?_, mergeRetire_asleep,
    fun m only mine len clean on awake => mergeRetire_spec only mine len clean on awake, fun hw on awake free =>
      ⟨scrub_sound on awake hw free, fun flips e clean decoded errors => scrub_corrects on awake hw free clean decoded errors,
        fun flips clean decoded => scrub_uncorrectable on awake hw free clean decoded⟩, fun running => ?_, fun on left right idle => ?_⟩
  · have hr : s.Reaches core w o a l.length := ⟨backed, place, off, fits, some_, by simpa using on, plain, free⟩
    exact ⟨fun stalls clean => (aperture_reads hr stalls).1 clean, fun stalls unwritten => (aperture_reads hr stalls).2 unwritten,
      fun stalls len => aperture_whole hr stalls len, fun stalls len empty => aperture_narrow hr stalls len empty⟩
  · have start : exec (.ucmScrubPassEnd (dieOf (clusterOf core))) s = execUcmScrubPassEnd (dieOf (clusterOf core)) s := rfl
    refine ⟨_, start.trans (if_neg (by simp [running])), ?_, ?_, fun j hj => ?_, rfl⟩
    · rw [State.freezeScrub_ucmDie, State.onUcmDie_ucmDie, if_pos rfl]
      simp [nextPeriod]
    · rw [State.freezeScrub_ucmDie, State.onUcmDie_ucmDie, if_pos rfl]
    · rw [State.freezeScrub_ucmDie, State.onUcmDie_ucmDie, if_neg hj.symm]
  · have start : exec (.ucmSelfRefreshEntry (dieOf (clusterOf core))) s = execUcmSelfRefreshEntry (dieOf (clusterOf core)) s := rfl
    have entered : s.ucmRefresh [dieOf (clusterOf core)] = s.onUcmDie (dieOf (clusterOf core)) fun x => { x with selfRefresh := true } :=
      if_pos on
    rw [start, ← entered]
    exact if_pos (by simp [on, left, right, idle])

end

section
/-! Accesses, bad lines, retrains, the scrubber and refresh of edge channels (R200-R212, R218). -/

namespace Sys2Proof.Machine

/-! ### Bursts without errors (R204) -/

section
variable (s : State) (e off : Nat) (b : By)

/-- A burst is met: its channel counts it, and no error stands in it any more. -/
def State.burstMet : State :=
  { s.edgeCount e 1 b.polder 1 with edgeBad := Sparse.set [] s.edgeBad (burstIndex e off) [] }

@[simp] theorem State.burstMet_edge : (s.burstMet e off b).edge = s.edge := rfl

theorem State.burstMet_edgeCh (k : Nat) : (s.burstMet e off b).edgeCh k
    = if e = k then { s.edgeCh e with act := Sparse.modify 0 (s.edgeCh e).act (4 * b.polder + 1) (· + 1) } else s.edgeCh k :=
  State.setEdgeCh_edgeCh ..

theorem State.burstMet_edgeBad {i : Nat} (sound : Sparse.get [] s.edgeBad i = []) :
    Sparse.get [] (s.burstMet e off b).edgeBad i = [] := by
  refine (Sparse.get_set ..).trans ?_
  split
  · rfl
  · exact sound

variable {s e off}

theorem State.burstRead_clean (sound : Sparse.get [] s.edgeBad (burstIndex e off) = []) :
    s.burstRead e off [] b = (s.burstMet e off b, { data := s.edge.read (edgeAddr e off) 64 }) := by
  have bad : Sparse.get [] (s.edgeCount e 1 b.polder 1).edgeBad (burstIndex e off) = [] := sound
  unfold State.burstRead
  dsimp only
  rw [bad]
  rfl

/-- A burst with errors that the code corrects answers the corrected bytes, and the channel counts the correction (R206). -/
theorem State.burstRead_corrected {flips : List SymErr} {x : Errs} (sound : Sparse.get [] s.edgeBad (burstIndex e off) = [])
    (data : ∀ f ∈ flips, f.symbol < 72) (some_ : errsOf flips ≠ [])
    (corrects : edgeDecode (s.edgeCh e).badLines (errsOf flips) = some x) :
    ∃ y : EdgeCh, s.burstRead e off flips b
        = (({ s.edgeCount e 1 b.polder 1 with
              edgeBad := Sparse.set [] s.edgeBad (burstIndex e off) (errsTo (errsOf flips)) }).setEdgeCh e y,
          { data := ((errsOf flips).after x).apply (s.edge.read (edgeAddr e off) 64) })
      ∧ y.ceCount = satAdd 32 (s.edgeCh e).ceCount 1 ∧ y.scrubPos = (s.edgeCh e).scrubPos := by
  have bad : Sparse.get [] (s.edgeCount e 1 b.polder 1).edgeBad (burstIndex e off) = [] := sound
  have all : flips.filter (fun f => decide (f.symbol < 72)) = flips := List.filter_eq_self.2 fun f hf => decide_eq_true (data f hf)
  have own : (s.edgeCount e 1 b.polder 1).edgeCh e
      = { s.edgeCh e with act := Sparse.modify 0 (s.edgeCh e).act (4 * b.polder + 1) (· + 1) } :=
    (State.setEdgeCh_edgeCh ..).trans (if_pos rfl)
  have lines : ((s.edgeCount e 1 b.polder 1).edgeCh e).badLines = (s.edgeCh e).badLines := by rw [own]
  refine ⟨{ (s.edgeCount e 1 b.polder 1).edgeCh e with
      ceCount := satAdd 32 ((s.edgeCount e 1 b.polder 1).edgeCh e).ceCount 1
      lineCount := x.foldl (fun l x => Sparse.modify 0 l x.1 (· + 1)) ((s.edgeCount e 1 b.polder 1).edgeCh e).lineCount }, ?_, ?_, ?_⟩
  · unfold State.burstRead
    dsimp only
    rw [bad, all, List.nil_append, if_neg (by simpa [List.isEmpty_iff] using some_)]
    have decoded : edgeDecode (State.edgeCh { s.edgeCount e 1 b.polder 1 with
        edgeBad := Sparse.set [] (s.edgeCount e 1 b.polder 1).edgeBad (burstIndex e off) (errsTo (errsOf flips)) } e).badLines
        (errsOf flips) = some x := (congrArg (edgeDecode · (errsOf flips)) lines).trans corrects
    rw [decoded]
    exact rfl
  · rw [own]
  · rw [own]

/-- A whole burst is written to its channel as it is (R203, R207). -/
theorem State.chWrite_burst {l : List Byte} (whole : l.length = 64) (aligned : off % 64 = 0) :
    s.chWrite e b 4 off l = (s.burstWrite e off l b, {}) := by
  unfold State.chWrite
  dsimp only
  rw [if_neg (by simp [List.isEmpty_iff, List.eq_nil_iff_length_eq_zero, whole]), aligned, whole, if_pos (by decide),
    List.take_of_length_le (by omega), List.drop_eq_nil_of_le (by omega)]
  rfl

end

/-! ### Lines that the basin does not hold (R202, R203, R218) -/

section
variable {s : State} {e off : Nat} (b : By)

theorem State.fetchLine_clean {l : Nat} (second : Bool) (first : Sparse.get [] s.edgeBad (burstIndex e (128 * l)) = [])
    (next_ : Sparse.get [] s.edgeBad (burstIndex e (128 * l + 64)) = []) :
    s.fetchLine e l [] second b = ((s.burstMet e (128 * l) b).burstMet e (128 * l + 64) b,
      { data := s.edge.read (edgeAddr e (128 * l)) 64 ++ s.edge.read (edgeAddr e (128 * l + 64)) 64 }) := by
  unfold State.fetchLine
  dsimp only
  rw [ite_self, State.burstRead_clean b first]
  dsimp only
  rw [if_neg (by decide), State.burstRead_clean b (State.burstMet_edgeBad s e (128 * l) b next_)]
  rfl

variable (missing : (s.basin (e / 256)).find e (off / 128) = none)
include missing

/-- A read of a line that the basin does not hold: its bytes, by a sector read or a fill. -/
theorem State.lineRead_missing {n : Nat} (noalloc : Bool) (some_ : 0 < n) (fits : off % 128 + n ≤ 128)
    (first : Sparse.get [] s.edgeBad (burstIndex e (128 * (off / 128))) = [])
    (next_ : Sparse.get [] s.edgeBad (burstIndex e (128 * (off / 128) + 64)) = []) :
    (s.lineRead e off n noalloc [] b).2 = { data := s.edge.read (edgeAddr e off) n }
      ∧ (n ≤ 32 → off / 32 = (off + n - 1) / 32 →
        (s.lineRead e off n noalloc [] b).1 = (s.basinCount e false).burstMet e (off / 64 * 64) b) := by
  have sound : Sparse.get [] (s.basinCount e false).edgeBad (burstIndex e (off / 64 * 64)) = [] := by
    change Sparse.get [] s.edgeBad _ = []
    rcases Nat.lt_or_ge (off % 128) 64 with low | high
    · rwa [show off / 64 * 64 = 128 * (off / 128) by omega]
    · rwa [show off / 64 * 64 = 128 * (off / 128) + 64 by omega]
  have bytes : (s.basinCount e false).edge = s.edge := rfl
  unfold State.lineRead State.lookup
  dsimp only
  rw [missing]
  dsimp only
  by_cases sector : n ≤ 32 ∧ off / 32 = (off + n - 1) / 32
  · obtain ⟨small, same⟩ := sector
    rw [if_pos (by simp [small, ← same]), State.burstRead_clean b sound, bytes]
    dsimp only
    rw [read_slice s.edge (edgeAddr e (off / 64 * 64)) (by omega)]
    refine ⟨congrArg (fun d => ({ data := d } : Got)) ?_, fun _ _ => rfl⟩
    exact congrArg (s.edge.read · n) (by simp only [edgeAddr]; omega)
  · have fetched := State.fetchLine_clean (s := s.basinCount e false) b (decide (64 ≤ off % 128)) first next_
    rw [if_neg (by simpa using fun h => not_and.1 sector h), fetched, bytes]
    dsimp only
    rw [if_neg (by decide)]
    refine ⟨congrArg (fun d => ({ data := d } : Got)) ?_, fun small same => absurd ⟨small, same⟩ sector⟩
    have both : s.edge.read (edgeAddr e (128 * (off / 128))) 64 ++ s.edge.read (edgeAddr e (128 * (off / 128) + 64)) 64
        = s.edge.read (edgeAddr e (128 * (off / 128))) 128 := by
      rw [show edgeAddr e (128 * (off / 128) + 64) = edgeAddr e (128 * (off / 128)) + 1 * 64 by simp only [edgeAddr]; omega,
        Memory.read_eq, Memory.read_eq, Memory.read_eq, ← List.map_append, List.range'_append]
    rw [both, read_slice s.edge (edgeAddr e (128 * (off / 128))) fits]
    exact congrArg (s.edge.read · n) (by simp only [edgeAddr]; omega)

/-- A whole burst of a line that the basin does not hold goes to the channel (R203). -/
theorem State.lineWrite_missing {l : List Byte} (whole : l.length = 64) (aligned : off % 64 = 0) :
    s.lineWrite e off l b = ((s.basinCount e false).burstWrite e off l b, {}) := by
  unfold State.lineWrite
  dsimp only
  rw [missing]
  dsimp only
  rw [if_neg (by simp [whole]), State.chWrite_burst b whole aligned]
  rfl

end

/-! ### Accesses of the host (R200, R202) -/

section
variable {s : State} {e off a k : Nat}

/-- A place of an edge channel's memory-mode space that may be accessed, inside a line. -/
structure State.ReachesLine (s : State) (e off a k : Nat) : Prop where
  home : s.home a = some (e, off)
  low : a < 0x018000000000
  on : s.stackOff (e / 32) = false
  trained : (s.edgeCh e).state = .trained
  mode : (s.edgeCh e).mode = .memory
  plain : s.fencedCulverts = []
  page : off % 4096 = a % 4096
  fits : off % 128 + k ≤ 128

namespace State.ReachesLine

variable (h : s.ReachesLine e off a k)
include h

theorem room4096 : a % 4096 + k ≤ 4096 := by
  have := h.page
  have := h.fits
  omega

/-- The access is one of one line of its channel. -/
theorem access (part : Nat) {acc : Access} (ha : accLen acc = k) :
    s.access { who := .host, part := part } a acc [] = match (generalizing := false) acc with
      | .read n => s.lineRead e off n false [] (s.by_ .host)
      | .write l => s.lineWrite e off l (s.by_ .host) := by
  have unturned : ∀ p t, s.turnedAway .host p t = false := fun p t => by simp [State.turnedAway, h.plain]
  have page := h.room4096
  have fits := h.fits
  unfold State.access
  rw [pieces_one (by omega)]
  dsimp only
  rw [unturned, Bool.and_false, if_neg (by simp), if_pos (decide_eq_true h.low)]
  unfold State.edgePiece
  rw [h.home]
  dsimp only
  rw [if_neg (by simp [h.on]), if_neg (by simp [h.trained]), if_neg (by simp [h.mode]), if_neg (by simp [h.trained])]
  unfold State.serve
  refine (pieces_one (by omega) []).trans ?_
  cases acc <;> rfl

end State.ReachesLine

theorem execEdgeAccess_read (hr : s.ReachesLine e off a k) (free : s.stallsAt true = none) {t : State × Got}
    (line : s.lineRead e off k false [] (s.by_ .host) = t) (ok : t.2.status = .ok) :
    s.arrive .host a (.read k) [] = { t.1 with reply := .data t.2.data } := by
  change s.hostDevRead a k [] = _
  unfold State.hostDevRead
  rw [partsOf_one (acc := .read k) hr.room4096]
  have read := State.hostReadParts_one free a k _ rfl
  rw [hr.access _ rfl] at read
  dsimp only at read
  rw [line] at read
  exact read.1 ok

theorem execEdgeAccess_write {l : List Byte} (hr : s.ReachesLine e off a l.length) (free : s.stallsAt false = none) {t : State}
    (line : s.lineWrite e off l (s.by_ .host) = (t, {})) :
    s.arrive .host a (.write l) [] = { t with reply := .done } := by
  change s.hostDevWrite a a l [] = _
  have access : s.access { who := .host } a (.write l) [] = (t, {}) := (hr.access 0 rfl).trans line
  have write := s.hostPiece_outcome a a l _ rfl
  rw [access] at write
  rw [State.hostDevWrite_one free a a l hr.room4096, write.1 (.inl rfl)]

section
variable (hr : s.ReachesLine e off a 0) (missing : (s.basin (e / 256)).find e (off / 128) = none)
  (first : Sparse.get [] s.edgeBad (burstIndex e (128 * (off / 128))) = [])
  (next_ : Sparse.get [] s.edgeBad (burstIndex e (128 * (off / 128) + 64)) = [])
include hr missing

theorem exec_edgeAccess_write {l : List Byte} (free : s.stallsAt false = none) (aligned : off % 64 = 0) (whole : l.length = 64) :
    Answers (.edgeAccess .host a (.write l) []) s fun t =>
      t.edge.read (edgeAddr e off) 64 = l ∧ t.reply = .done
        ∧ ∀ x, x < edgeAddr e off ∨ edgeAddr e off + 64 ≤ x → t.edge.byte x = s.edge.byte x := by
  have reaches : s.ReachesLine e off a l.length := { hr with fits := by omega }
  have start : exec (.edgeAccess .host a (.write l) []) s = execEdgeAccess .host a (.write l) [] s := rfl
  have low := hr.low
  refine ⟨_, start.trans ((if_neg (by simp; omega)).trans (congrArg Host.Outcome.next
    (execEdgeAccess_write reaches free (State.lineWrite_missing _ missing whole aligned)))), ?_, rfl, fun x hx => ?_⟩
  · change (s.edge.write (edgeAddr e off) l).read (edgeAddr e off) 64 = l
    rw [← whole]
    exact Memory.read_write ..
  · exact Memory.byte_write_outside _ _ _ _ (by rwa [whole])

include first next_

theorem exec_edgeAccess_read {n : Nat} (free : s.stallsAt true = none) (some_ : 0 < n) (fits : off % 128 + n ≤ 128) :
    Answers (.edgeAccess .host a (.read n) []) s fun t => t.reply = .data (s.edge.read (edgeAddr e off) n) := by
  have reaches : s.ReachesLine e off a n := { hr with fits := fits }
  have start : exec (.edgeAccess .host a (.read n) []) s = execEdgeAccess .host a (.read n) [] s := rfl
  have line := (State.lineRead_missing (s.by_ .host) missing false some_ fits first next_).1
  have low := hr.low
  refine ⟨_, start.trans ((if_neg (by simp; omega)).trans (congrArg Host.Outcome.next
    (execEdgeAccess_read reaches free rfl (by rw [line])))), ?_⟩
  rw [line]

theorem exec_sectorRead (free : s.stallsAt true = none) (aligned : a % 32 = 0) :
    Answers (.sectorRead .host a []) s fun t =>
      t.reply = .data (s.edge.read (edgeAddr e off) 32) ∧ t.edge = s.edge ∧ t.ucm = s.ucm ∧ t.dma = s.dma := by
  have page := hr.page
  have reaches : s.ReachesLine e off a 32 := { hr with fits := by omega }
  have start : exec (.sectorRead .host a []) s = execSectorRead .host a [] s := rfl
  obtain ⟨data, state⟩ := State.lineRead_missing (n := 32) (s.by_ .host) missing false (by omega) (by omega) first next_
  have low := hr.low
  have place : a / 32 * 32 = a := by omega
  have arrives := execEdgeAccess_read reaches free rfl (by rw [data])
  rw [data, state le_rfl (by omega)] at arrives
  rw [← place] at arrives
  exact ⟨_, start.trans ((if_neg (by omega)).trans (congrArg Host.Outcome.next arrives)), rfl, rfl, rfl, rfl⟩

end
end

/-! ### Bad lines and retrains (R206, R210, R211, R213) -/

/-- A channel without what its unit's commands leave in it. -/
def EdgeCh.sansUnit (c : EdgeCh) : EdgeCh :=
  { c with queue := [], done := [], lastOpc := 0, lastStatus := .ok, aborts := 0, busy := 0, act := [] }

section
variable (s : State) (e : Nat)

theorem State.nbEnd_edgeCh (c : NbCmd) (st : Status) :
    ((s.nbEnd e c st).edgeCh e).sansUnit = (s.edgeCh e).sansUnit ∧ (s.nbEnd e c st).edge = s.edge
      ∧ ∀ k, k ≠ e → (s.nbEnd e c st).edgeCh k = s.edgeCh k := by
  refine ⟨?_, rfl, fun k hk => ?_⟩
  · unfold State.nbEnd State.nbFinish State.edgeCount State.onEdgeCh
    rw [State.setEdgeCh_edgeCh, if_pos rfl, State.setEdgeCh_edgeCh, if_pos rfl]
    rfl
  · unfold State.nbEnd State.nbFinish State.edgeCount State.onEdgeCh
    rw [State.setEdgeCh_edgeCh, if_neg hk.symm, State.setEdgeCh_edgeCh, if_neg hk.symm]
    rfl

theorem State.nbAllFail_edgeCh :
    ((s.nbAllFail e).edgeCh e).sansUnit = (s.edgeCh e).sansUnit ∧ (s.nbAllFail e).edge = s.edge
      ∧ ∀ k, k ≠ e → (s.nbAllFail e).edgeCh k = s.edgeCh k :=
  ⟨State.each_keeps (F := fun u => (u.edgeCh e).sansUnit) (fun u c => (u.nbEnd_edgeCh e c .hwError).1) _ s,
    State.each_keeps (F := State.edge) (fun u c => (u.nbEnd_edgeCh e c .hwError).2.1) _ s,
    fun k hk => State.each_keeps (F := fun u => u.edgeCh k) (fun u c => (u.nbEnd_edgeCh e c .hwError).2.2 k hk) _ s⟩

theorem State.invalidate_keeps : (s.invalidate e).channels = s.channels ∧ (s.invalidate e).edge = s.edge := by
  unfold State.invalidate
  constructor
  · refine (State.each_keeps (F := State.channels) (fun u x => ?_) _ _).trans rfl
    split
    · exact State.ite_keeps (F := State.channels) rfl rfl
    · rfl
  · refine (State.each_keeps (F := State.edge) (fun u x => ?_) _ _).trans rfl
    split
    · exact State.ite_keeps (F := State.edge) rfl rfl
    · rfl

@[simp] theorem State.writeField_edgeCh (l : List RepairEntry) (k : Nat) : (s.writeField l).edgeCh k = s.edgeCh k := rfl

@[simp] theorem State.writeField_edge (l : List RepairEntry) : (s.writeField l).edge = s.edge := rfl

theorem State.failChannel_edgeCh :
    ((s.failChannel e).edgeCh e).sansUnit = { (s.edgeCh e).sansUnit with state := .failed } ∧ (s.failChannel e).edge = s.edge
      ∧ ∀ k, k ≠ e → (s.failChannel e).edgeCh k = s.edgeCh k := by
  obtain ⟨own, bytes, others⟩ := (s.invalidate e).nbAllFail_edgeCh e
  obtain ⟨channels, edge⟩ := s.invalidate_keeps e
  have same : ∀ k, (s.invalidate e).edgeCh k = s.edgeCh k := fun k =>
    congrArg (fun m => Sparse.get ({} : EdgeCh) m k) channels
  rw [same] at own
  unfold State.failChannel
  generalize (s.invalidate e).nbAllFail e = u at own bytes others ⊢
  dsimp only
  generalize hv : State.onEdgeCh u e (fun c => { c with state := .failed }) = v
  obtain ⟨sends, -⟩ := event_only (v.writeField [channelEntry e]) 0xFFFF 0 e 0x05
  generalize (v.writeField [channelEntry e]).event 0xFFFF 0 e 0x05 = w at sends ⊢
  have channel : ∀ k, w.edgeCh k = if e = k then { u.edgeCh e with state := .failed } else u.edgeCh k := fun k =>
    ((sends.edgeCh_eq k).trans (State.writeField_edgeCh ..)).trans
      ((congrArg (State.edgeCh · k) hv.symm).trans (State.onEdgeCh_edgeCh ..))
  have standing : w.edge = u.edge :=
    ((congrArg State.edge sends).trans (v.writeField_edge [channelEntry e])).trans (show v.edge = u.edge from hv ▸ rfl)
  refine ⟨?_, standing.trans (bytes.trans edge), fun k hk => ?_⟩
  · rw [channel, if_pos rfl]
    exact congrArg (fun c : EdgeCh => { c with state := .failed }) own
  · rw [channel, if_neg hk.symm, others k hk, same]

end

section
variable {s : State} {e : Nat}

theorem exec_edgeLineMark {line : Nat} (running : s.trust.running = true) (many : 64 ≤ Sparse.get 0 (s.edgeCh e).lineCount line)
    (good : line ∉ (s.edgeCh e).badLines) (unmarked : line ∉ (s.edgeCh e).newBad) :
    exec (.edgeLineMark e line) s = .next ((s.setEdgeCh e { s.edgeCh e with
      newBad := (s.edgeCh e).newBad ++ [line]
      lineCount := Sparse.set 0 (s.edgeCh e).lineCount line 0
      retrainDue := true }).writeField [lineEntry e line]) := by
  have start : exec (.edgeLineMark e line) s = execEdgeLineMark e line s := rfl
  exact start.trans (if_neg (by simp [running, good, unmarked]; omega))

/-- Its turn to retrain has come: no other channel of its stack retrains, and no lower one waits for it. -/
def State.mayRetrain (s : State) (e : Nat) : Prop :=
  ∀ o, o / 32 = e / 32 → (s.edgeCh o).state ≠ .retraining
    ∧ (o < e → (s.edgeCh o).retrainDue = false ∨ (s.edgeCh o).state ≠ .trained)

theorem State.mayRetrain_iff : s.mayRetrain e ↔ ((List.range 32).map (32 * (e / 32) + ·)).any (fun o => (s.edgeCh o).state == .retraining
    || (decide (o < e) && (s.edgeCh o).retrainDue && (s.edgeCh o).state == .trained)) = false := by
  have member : ∀ o, o ∈ (List.range 32).map (32 * (e / 32) + ·) ↔ o / 32 = e / 32 := by
    intro o
    simp only [List.mem_map, List.mem_range]
    exact ⟨fun ⟨i, hi, ho⟩ => by omega, fun ho => ⟨o % 32, by omega, by omega⟩⟩
  simp only [List.any_eq_false, member, State.mayRetrain]
  refine forall₂_congr fun o _ => ?_
  simp only [Bool.or_eq_true, Bool.and_eq_true, beq_iff_eq, decide_eq_true_eq, not_or, not_and]
  exact and_congr_right fun _ => ⟨fun h ⟨lower, due⟩ => (h lower).resolve_left (by simp [due]), fun h lower => by
    rcases hd : (s.edgeCh o).retrainDue with _ | _
    · exact .inl rfl
    · exact .inr (h ⟨lower, hd⟩)⟩

section
variable (trained : (s.edgeCh e).state = .trained) (on : s.stackOff (e / 32) = false)
include trained on

theorem exec_edgeRetrainStart_first (may : s.mayRetrain e) :
    exec (.edgeRetrainStart e) s = .next (s.setEdgeCh e { s.edgeCh e with state := .retraining, retrainDue := false }) := by
  have start : exec (.edgeRetrainStart e) s = execEdgeRetrainStart e s := rfl
  rw [start]
  unfold execEdgeRetrainStart
  dsimp only
  rw [if_neg (by simp [trained, on]), State.mayRetrain_iff.1 may]
  rfl

theorem exec_edgeRetrainStart_waits (waits : ¬ s.mayRetrain e) :
    exec (.edgeRetrainStart e) s = .next (s.setEdgeCh e { s.edgeCh e with retrainDue := true }) := by
  have start : exec (.edgeRetrainStart e) s = execEdgeRetrainStart e s := rfl
  rw [start]
  unfold execEdgeRetrainStart
  dsimp only
  rw [if_neg (by simp [trained, on]), eq_true_of_ne_false (mt State.mayRetrain_iff.2 waits), if_pos rfl]

end

/-- The lines of a channel that stay bad at the end of a retrain: those that were, the marked ones and those that failed. -/
def EdgeCh.linesAfter (c : EdgeCh) (bad : List Nat) : List Nat :=
  (List.range 72).filter fun l => c.badLines.contains l || c.newBad.contains l || bad.contains l

theorem exec_edgeRetrainEnd (bad : List Nat) (retraining : (s.edgeCh e).state = .retraining) (held : (s.edgeCh e).held = [])
    (waiting : (s.edgeCh e).waiting = []) :
    Answers (.edgeRetrainEnd e bad) s fun t =>
      (t.edgeCh e).state = (if 4 < ((s.edgeCh e).linesAfter bad).length then .failed else .trained)
        ∧ (t.edgeCh e).badLines = (s.edgeCh e).linesAfter bad ∧ (t.edgeCh e).newBad = [] ∧ (t.edgeCh e).mode = (s.edgeCh e).mode
        ∧ t.edge = s.edge
        ∧ (t.edgeCh e).retrains = (if 4 < ((s.edgeCh e).linesAfter bad).length then (s.edgeCh e).retrains
            else satAdd 16 (s.edgeCh e).retrains 1)
        ∧ ∀ k, k ≠ e → t.edgeCh k = s.edgeCh k := by
  have start : exec (.edgeRetrainEnd e bad) s = execEdgeRetrainEnd e bad s := rfl
  rw [Answers, start]
  unfold execEdgeRetrainEnd
  dsimp only
  rw [if_neg (by simp [retraining]), held, waiting]
  refine ⟨_, rfl, ?_⟩
  dsimp only [State.each, List.foldl]
  rw [show (List.range 72).filter (fun l => (s.edgeCh e).badLines.contains l || (s.edgeCh e).newBad.contains l || bad.contains l)
    = (s.edgeCh e).linesAfter bad from rfl]
  generalize (s.edgeCh e).linesAfter bad = lines
  generalize hc : ({ s.edgeCh e with
      state := .trained, badLines := lines, newBad := [], lineCount := [], held := [], waiting := []
      trainedAt := if s.thermal.last.isEmpty = true then none else some (s.stackTemp (e / 32)) } : EdgeCh) = c
  generalize hu : (if (lines.filter fun l => !(s.edgeCh e).badLines.contains l && !(s.edgeCh e).newBad.contains l).isEmpty = true
    then s.setEdgeCh e c else (s.setEdgeCh e c).writeField
      ((lines.filter fun l => !(s.edgeCh e).badLines.contains l && !(s.edgeCh e).newBad.contains l).map (lineEntry e))) = u
  have channel : ∀ k, u.edgeCh k = if e = k then c else s.edgeCh k := fun k =>
    (congrArg (State.edgeCh · k) hu.symm).trans (State.ite_keeps (F := (State.edgeCh · k)) (State.setEdgeCh_edgeCh ..)
      ((State.writeField_edgeCh ..).trans (State.setEdgeCh_edgeCh ..)))
  have bytes : u.edge = s.edge := (congrArg State.edge hu.symm).trans (State.ite_keeps (F := State.edge) rfl rfl)
  by_cases many : 4 < lines.length
  · simp only [if_pos many]
    obtain ⟨own, edge, others⟩ := u.failChannel_edgeCh e
    rw [channel, if_pos rfl, ← hc] at own
    exact ⟨(congrArg EdgeCh.state own :), (congrArg EdgeCh.badLines own :), (congrArg EdgeCh.newBad own :),
      (congrArg EdgeCh.mode own :), edge.trans bytes, (congrArg EdgeCh.retrains own :),
      fun k hk => (others k hk).trans ((channel k).trans (if_neg hk.symm))⟩
  · simp only [if_neg many]
    have own : (u.onEdgeCh e fun c => { c with retrains := satAdd 16 c.retrains 1 }).edgeCh e
        = { c with retrains := satAdd 16 c.retrains 1 } := by
      rw [State.onEdgeCh_edgeCh, if_pos rfl, channel, if_pos rfl]
    rw [own, ← hc]
    exact ⟨rfl, rfl, rfl, rfl, bytes, rfl, fun k hk =>
      (State.onEdgeCh_edgeCh ..).trans ((if_neg hk.symm).trans ((channel k).trans (if_neg hk.symm)))⟩

end

/-! ### The scrubber and refresh (R208, R209) -/

section
variable {s : State} {e : Nat} (on : s.stackOff (e / 32) = false) (awake : (s.stack (e / 32)).selfRefresh = false)
  (scrubs : s.scrubbed e = true) (more : (s.edgeCh e).scrubPos + 1 < s.chBytes / 64)
  (sound : Sparse.get [] s.edgeBad (burstIndex e (64 * (s.edgeCh e).scrubPos)) = [])

/-- The state in which the scrubber reads its burst: its position is past it. -/
def State.scrubTurn (s : State) (e : Nat) : State := s.onEdgeCh e fun c => { c with scrubPos := (s.edgeCh e).scrubPos + 1 }

theorem State.scrubTurn_edgeCh (k : Nat) :
    (s.scrubTurn e).edgeCh k = if e = k then { s.edgeCh e with scrubPos := (s.edgeCh e).scrubPos + 1 } else s.edgeCh k :=
  State.onEdgeCh_edgeCh ..

/-- The scrubber is the requester, of no polder. -/
def byScrub : By := { code := codeScrub }

/-- The scrubber writes a corrected burst back, and its pass counts it (R208). -/
theorem State.scrubBack_spec (u : State) (e off : Nat) (l : List Byte) (y : EdgeCh) :
    let t := ((u.setEdgeCh e y).burstWrite e off l byScrub).onStack (e / 32) fun x => { x with passCorrected := x.passCorrected + 1 }
    t.edge = u.edge.write (edgeAddr e off) l ∧ Sparse.get [] t.edgeBad (burstIndex e off) = []
      ∧ t.edgeCh e = { y with act := Sparse.modify 0 y.act 125 (· + 1) }
      ∧ (t.stack (e / 32)).passCorrected = (u.stack (e / 32)).passCorrected + 1 := by
  refine ⟨rfl, (Sparse.get_set ..).trans (if_pos rfl), ?_, congrArg Stack.passCorrected ((State.onStack_stack ..).trans (if_pos rfl))⟩
  have written : ∀ v : State, State.edgeCh ((v.burstWrite e off l byScrub).onStack (e / 32) fun x =>
      { x with passCorrected := x.passCorrected + 1 }) e = (v.edgeCount e 1 31 1).edgeCh e := fun _ => rfl
  rw [written]
  unfold State.edgeCount
  rw [State.onEdgeCh_edgeCh, if_pos rfl, State.setEdgeCh_edgeCh, if_pos rfl]

include on awake scrubs more

/-- A request before the last burst of a channel: its burst is read, and written back where the read is good and left errors. -/
theorem exec_edgeScrubRequest {flips : List SymErr} (data : ∀ f ∈ flips, f.symbol < 72) (r : State × Got)
    (read : (s.scrubTurn e).burstRead e (64 * (s.edgeCh e).scrubPos) flips byScrub = r) (ok : r.2.status = .ok) :
    exec (.edgeScrubRequest e flips) s = .next
      (if (Sparse.get [] r.1.edgeBad (burstIndex e (64 * (s.edgeCh e).scrubPos))).isEmpty then r.1
        else (r.1.burstWrite e (64 * (s.edgeCh e).scrubPos) r.2.data byScrub).onStack (e / 32) fun x =>
          { x with passCorrected := x.passCorrected + 1 }) := by
  have start : exec (.edgeScrubRequest e flips) s = execEdgeScrubRequest e flips s := rfl
  have all : flips.filter (fun f => decide (f.symbol < 72)) = flips := List.filter_eq_self.2 fun f hf => decide_eq_true (data f hf)
  have early : ((s.edgeCh e).scrubPos + 1 == s.chBytes / 64) = false := by simp; omega
  have turn : (s.onEdgeCh e fun c => { c with scrubPos := if false = true then 0 else (s.edgeCh e).scrubPos + 1 })
      = s.scrubTurn e := rfl
  rw [start]
  unfold execEdgeScrubRequest
  rw [if_neg (by simp [on, awake, scrubs])]
  dsimp only
  rw [early, turn, all, show ({ code := codeScrub } : By) = byScrub from rfl, read, Bool.false_and, if_neg (by simp),
    if_neg (by simp [ok])]

include sound

theorem exec_edgeScrubRequest_sound : Answers (.edgeScrubRequest e []) s fun t =>
    t.edgeCh e = { s.edgeCh e with scrubPos := (s.edgeCh e).scrubPos + 1, act := Sparse.modify 0 (s.edgeCh e).act 125 (· + 1) }
      ∧ (∀ k, k ≠ e → t.edgeCh k = s.edgeCh k) ∧ t = { s with channels := t.channels, edgeBad := t.edgeBad } := by
  have good : Sparse.get [] (s.scrubTurn e).edgeBad (burstIndex e (64 * (s.edgeCh e).scrubPos)) = [] := sound
  have left := State.burstMet_edgeBad (s.scrubTurn e) e (64 * (s.edgeCh e).scrubPos) byScrub good
  have runs := exec_edgeScrubRequest on awake scrubs more (flips := []) (by simp) _ (State.burstRead_clean byScrub good) rfl
  dsimp only at runs
  rw [left, List.isEmpty_nil, if_pos rfl] at runs
  refine ⟨_, runs, ?_, fun k hk => ?_, rfl⟩
  · rw [State.burstMet_edgeCh, if_pos rfl, State.scrubTurn_edgeCh, if_pos rfl]
    rfl
  · rw [State.burstMet_edgeCh, if_neg hk.symm, State.scrubTurn_edgeCh, if_neg hk.symm]

theorem exec_edgeScrubRequest_corrected {flips : List SymErr} {x : Errs} (data : ∀ f ∈ flips, f.symbol < 72)
    (left : errsTo (errsOf flips) ≠ []) (corrects : edgeDecode (s.edgeCh e).badLines (errsOf flips) = some x) :
    Answers (.edgeScrubRequest e flips) s fun t =>
      let at_ := edgeAddr e (64 * (s.edgeCh e).scrubPos)
      t.edge.read at_ 64 = ((errsOf flips).after x).apply (s.edge.read at_ 64)
        ∧ (∀ i, i < at_ ∨ at_ + 64 ≤ i → t.edge.byte i = s.edge.byte i)
        ∧ Sparse.get [] t.edgeBad (burstIndex e (64 * (s.edgeCh e).scrubPos)) = []
        ∧ (t.edgeCh e).ceCount = satAdd 32 (s.edgeCh e).ceCount 1 ∧ (t.edgeCh e).scrubPos = (s.edgeCh e).scrubPos + 1
        ∧ (t.stack (e / 32)).passCorrected = (s.stack (e / 32)).passCorrected + 1 := by
  have good : Sparse.get [] (s.scrubTurn e).edgeBad (burstIndex e (64 * (s.edgeCh e).scrubPos)) = [] := sound
  have own : (s.scrubTurn e).edgeCh e = { s.edgeCh e with scrubPos := (s.edgeCh e).scrubPos + 1 } :=
    (State.scrubTurn_edgeCh e).trans (if_pos rfl)
  have some_ : errsOf flips ≠ [] := fun none_ => left (by rw [none_]; rfl)
  obtain ⟨y, read, count, pos⟩ := State.burstRead_corrected byScrub good data some_ (x := x) (by rw [own]; exact corrects)
  rw [own] at count pos
  have bytes : (s.scrubTurn e).edge = s.edge := rfl
  rw [bytes] at read
  generalize hu : ({ (s.scrubTurn e).edgeCount e 1 byScrub.polder 1 with
    edgeBad := Sparse.set [] (s.scrubTurn e).edgeBad (burstIndex e (64 * (s.edgeCh e).scrubPos)) (errsTo (errsOf flips)) } : State) = u
    at read
  have edge : u.edge = s.edge := hu ▸ rfl
  have stack : u.stack (e / 32) = s.stack (e / 32) := hu ▸ rfl
  have errors : Sparse.get [] u.edgeBad (burstIndex e (64 * (s.edgeCh e).scrubPos)) = errsTo (errsOf flips) :=
    hu ▸ (Sparse.get_set ..).trans (if_pos rfl)
  have runs := exec_edgeScrubRequest on awake scrubs more data _ read rfl
  have whole : (((errsOf flips).after x).apply (s.edge.read (edgeAddr e (64 * (s.edgeCh e).scrubPos)) 64)).length = 64 := by
    rw [Errs.apply_length, Memory.read_length]
  dsimp only at runs
  rw [State.setEdgeCh_edgeBad, errors, if_neg (by simpa [List.isEmpty_iff] using left)] at runs
  dsimp only
  generalize ((errsOf flips).after x).apply (s.edge.read (edgeAddr e (64 * (s.edgeCh e).scrubPos)) 64) = w at runs whole ⊢
  generalize (s.edgeCh e).scrubPos = p at runs pos ⊢
  obtain ⟨written, sound', channel, stack'⟩ := u.scrubBack_spec e (64 * p) w y
  rw [edge] at written
  rw [stack] at stack'
  refine ⟨_, runs, ?_, fun i hi => ?_, sound', ?_, ?_, stack'⟩
  · rw [written, ← whole]
    exact Memory.read_write ..
  · rw [written]
    exact Memory.byte_write_outside _ _ _ _ (by rwa [whole])
  · rw [channel]
    exact count
  · rw [channel]
    exact pos

end
end Sys2Proof.Machine

open Sys2Proof Sys2Proof.Machine

/-- Settles O47: an access to a line that the basin does not hold reads or writes its bursts, a retrain waits for the lower
channels of its stack, and its end marks the lines found bad. -/
theorem edgeChannelsRunByThemselves : Obligations.EdgeChannelsRunByThemselves := by
  intro s e off c
  refine ⟨fun a n l plain home low on trained mode missing first next_ page => ?_,
    fun line running many good unmarked => exec_edgeLineMark running many good unmarked,
    fun trained on => ⟨exec_edgeRetrainStart_first trained on, exec_edgeRetrainStart_waits trained on⟩,
    fun bad retraining held waiting => exec_edgeRetrainEnd bad retraining held waiting,
    fun on awake scrubs more sound => ⟨exec_edgeScrubRequest_sound on awake scrubs more sound,
      fun flips x data left corrects => exec_edgeScrubRequest_corrected on awake scrubs more sound data left corrects⟩,
    fun on => ?_⟩
  · have reaches : s.ReachesLine e off a 0 := ⟨home, low, on, trained, mode, plain, page, by omega⟩
    exact ⟨exec_edgeAccess_read reaches missing first next_, exec_sectorRead reaches missing first next_,
      exec_edgeAccess_write reaches missing⟩
  · have start : exec (.edgeRefresh e) s = execEdgeRefresh e s := rfl
    exact start.trans (if_neg (by simp [on]))
end

section
/-! The near-bank dispatcher and the commands of a channel's unit (R230-R240, R246-R254). -/

namespace Sys2Proof.Machine

/-! ### What a unit's accesses to its channel leave as it is -/

/-- A channel without the counts of its bursts and their errors. -/
def EdgeCh.sansCounts (c : EdgeCh) : EdgeCh := { c with act := [], ceCount := 0, ueCount := 0, lineCount := [] }

/-- Bursts of a channel were read or written: its counts apart, the channels and stacks are as they were. -/
structure State.BurstsOf (e : Nat) (s t : State) : Prop where
  own : (t.edgeCh e).sansCounts = (s.edgeCh e).sansCounts
  others : ∀ j, j ≠ e → t.edgeCh j = s.edgeCh j
  stackOf : t.edgeStacks = s.edgeStacks

namespace State.BurstsOf

variable {e : Nat} {s t u : State}

theorem refl (e : Nat) (s : State) : BurstsOf e s s := ⟨rfl, fun _ _ => rfl, rfl⟩

theorem trans (h : BurstsOf e s t) (g : BurstsOf e t u) : BurstsOf e s u :=
  ⟨g.own.trans h.own, fun j hj => (g.others j hj).trans (h.others j hj), g.stackOf.trans h.stackOf⟩

/-- A channel that differs in its counts alone is set. -/
theorem set (x : EdgeCh) (h : x.sansCounts = (s.edgeCh e).sansCounts) : BurstsOf e s (s.setEdgeCh e x) :=
  ⟨by rw [State.setEdgeCh_edgeCh, if_pos rfl, h], fun j hj => by rw [State.setEdgeCh_edgeCh, if_neg hj.symm], rfl⟩

/-- Nothing of it concerns the rest of the state. -/
theorem same {v : State} (h : BurstsOf e s u) (channels : v.channels = u.channels) (edgeStacks : v.edgeStacks = u.edgeStacks) :
    BurstsOf e s v :=
  have view : ∀ k, v.edgeCh k = u.edgeCh k := fun k => congrArg (fun m => Sparse.get ({} : EdgeCh) m k) channels
  ⟨(congrArg EdgeCh.sansCounts (view e)).trans h.own, fun j hj => (view j).trans (h.others j hj), edgeStacks.trans h.stackOf⟩

theorem edgeCount (s : State) (e kind p n : Nat) : BurstsOf e s (s.edgeCount e kind p n) := set _ rfl

theorem burstWrite (s : State) (e off : Nat) (l : List Byte) (b : By) : BurstsOf e s (s.burstWrite e off l b) :=
  (edgeCount s e 1 b.polder 1).same rfl rfl

theorem burstRead (s : State) (e off : Nat) (flips : List SymErr) (b : By) : BurstsOf e s (s.burstRead e off flips b).1 := by
  have counted := edgeCount s e 1 b.polder 1
  unfold State.burstRead
  dsimp only
  generalize hv : ({ s.edgeCount e 1 b.polder 1 with edgeBad := _ } : State) = v
  have met : BurstsOf e s v := counted.same (hv ▸ rfl) (hv ▸ rfl)
  split
  · exact met
  · split
    · exact met.trans (set _ rfl)
    · exact (met.trans (set { v.edgeCh e with ueCount := satAdd 8 (v.edgeCh e).ueCount 1 } rfl)).same rfl rfl

theorem chRead (s : State) (e : Nat) (b : By) (fuel off n : Nat) : BurstsOf e s (s.chRead e b fuel off n).1 := by
  induction fuel generalizing s off n with
  | zero => exact refl e s
  | succ f ih =>
    unfold State.chRead
    dsimp only
    split
    · exact refl e s
    · split
      · exact burstRead ..
      · exact (burstRead s e _ [] b).trans (ih ..)

theorem chWrite (s : State) (e : Nat) (b : By) (fuel off : Nat) (l : List Byte) : BurstsOf e s (s.chWrite e b fuel off l).1 := by
  induction fuel generalizing s off l with
  | zero => exact refl e s
  | succ f ih =>
    unfold State.chWrite
    dsimp only
    split
    · exact refl e s
    · split
      · exact (burstWrite s e _ _ b).trans (ih ..)
      · split
        · exact burstRead ..
        · exact ((burstRead s e _ [] b).trans (burstWrite ..)).trans (ih ..)

theorem chWrites (s : State) (e : Nat) (b : By) (ws : List (Nat × List Byte)) : BurstsOf e s (s.chWrites e b ws).1 := by
  induction ws generalizing s with
  | nil => exact refl e s
  | cons w ws ih =>
    unfold State.chWrites
    dsimp only
    split
    · exact chWrite ..
    · exact (chWrite ..).trans (ih _)

theorem nbList (s : State) (e : Nat) (c : NbCmd) : BurstsOf e s (s.nbList e c).1 := by
  have header := chRead s e (s.unitBy e c) 3 (c.arg 0) 64
  unfold State.nbList
  dsimp only
  generalize s.chRead e (s.unitBy e c) 3 (c.arg 0) 64 = h at header ⊢
  split
  · exact header
  · generalize hn : (if decide (c.arg 0 + 64 + 8 * min (fieldAt h.2.data 0 4) 4096 ≤ s.chBytes) = true
      then 8 * min (fieldAt h.2.data 0 4) 4096 else 0) = n
    generalize min (fieldAt h.2.data 0 4) 4096 / 8 + 3 = fuel
    have read := header.trans (chRead h.1 e (s.unitBy e c) fuel (c.arg 0 + 64) n)
    generalize h.1.chRead e (s.unitBy e c) fuel (c.arg 0 + 64) n = r at read ⊢
    split
    · exact read
    · split <;> exact read

theorem nbScoresLoop (s : State) (e : Nat) (c : NbCmd) (q : List (List Nat)) (l : List ListEntry) (i : Nat) (fl : Flags) :
    BurstsOf e s (s.nbScoresLoop e c q l i fl).1 := by
  induction l generalizing s i fl with
  | nil => exact refl e s
  | cons x l ih =>
    unfold State.nbScoresLoop
    dsimp only
    split
    · exact chRead ..
    · split
      · exact (chRead ..).trans (chWrite ..)
      · exact ((chRead ..).trans (chWrite ..)).trans (ih ..)

theorem nbAttendLoop (s : State) (e : Nat) (c : NbCmd) (q : List (List Nat)) (l : List ListEntry) (hs : List Head) :
    BurstsOf e s (s.nbAttendLoop e c q l hs).1 := by
  induction l generalizing s hs with
  | nil => exact refl e s
  | cons x l ih =>
    unfold State.nbAttendLoop
    dsimp only
    split
    · exact chRead ..
    · exact (chRead ..).trans (ih ..)

theorem queue (h : BurstsOf e s t) : (t.edgeCh e).queue = (s.edgeCh e).queue := (congrArg EdgeCh.queue h.own :)

theorem done (h : BurstsOf e s t) : (t.edgeCh e).done = (s.edgeCh e).done := (congrArg EdgeCh.done h.own :)

theorem stack (h : BurstsOf e s t) (k : Nat) : t.stack k = s.stack k :=
  congrArg (fun m => Sparse.get ({} : Stack) m k) h.stackOf

end State.BurstsOf

/-! ### Bursts written in a row, and read (R225) -/

/-- Bytes stand at a place of a channel, every other byte is as before, and no error has come up. -/
structure State.Wrote (s : State) (e off : Nat) (l : List Byte) (u : State) : Prop where
  bursts : State.BurstsOf e s u
  bytes : ∀ x, u.edge.byte x = (s.edge.write (edgeAddr e off) l).byte x
  sound : ∀ i, Sparse.get [] s.edgeBad i = [] → Sparse.get [] u.edgeBad i = []

namespace State.Wrote

variable {s u : State} {e off : Nat} {l : List Byte} (b : By)

theorem nil (s : State) (e off : Nat) : s.Wrote e off [] s :=
  ⟨.refl e s, fun x => (Memory.byte_write_outside s.edge _ [] x (by simp; omega)).symm, fun _ h => h⟩

theorem append (h : s.Wrote e off l u) (d : List Byte) : s.Wrote e off (l ++ d) (u.burstWrite e (off + l.length) d b) := by
  refine ⟨h.bursts.trans (.burstWrite ..), fun x => ?_, fun i hi => ?_⟩
  · have place : edgeAddr e (off + l.length) = edgeAddr e off + l.length := by
      simp only [edgeAddr]
      omega
    change (u.edge.write (edgeAddr e (off + l.length)) d).byte x = _
    rw [place]
    exact Memory.byte_write_append h.bytes d x
  · refine (Sparse.get_set ..).trans ?_
    split
    · rfl
    · exact h.sound i hi

theorem met (h : s.Wrote e off l u) (o : Nat) : s.Wrote e off l (u.burstMet e o b) :=
  ⟨h.bursts.trans ((BurstsOf.edgeCount u e 1 b.polder 1).same rfl rfl), h.bytes,
    fun i hi => State.burstMet_edgeBad u e o b (h.sound i hi)⟩

theorem read (h : s.Wrote e off l u) : u.edge.read (edgeAddr e off) l.length = l :=
  (Memory.read_congr fun x _ _ => h.bytes x).trans (Memory.read_write ..)

theorem outside (h : s.Wrote e off l u) (x : Nat) (hx : x < edgeAddr e off ∨ edgeAddr e off + l.length ≤ x) :
    u.edge.byte x = s.edge.byte x := (h.bytes x).trans (Memory.byte_write_outside _ _ _ _ hx)

/-- Whole bursts behind those that stand. -/
theorem chWrite {n fuel : Nat} {d : List Byte} (h : s.Wrote e off l u) (aligned : (off + l.length) % 64 = 0) (whole : d.length = 64 * n)
    (enough : n < fuel) : ∃ t, u.chWrite e b fuel (off + l.length) d = (t, {}) ∧ s.Wrote e off (l ++ d) t := by
  induction n generalizing fuel u l d with
  | zero =>
    obtain rfl : d = [] := List.eq_nil_of_length_eq_zero whole
    obtain ⟨f, rfl⟩ : ∃ f, fuel = f + 1 := ⟨fuel - 1, by omega⟩
    exact ⟨u, by simp [State.chWrite], by simpa using h⟩
  | succ n ih =>
    obtain ⟨f, rfl⟩ : ∃ f, fuel = f + 1 := ⟨fuel - 1, by omega⟩
    have step : u.chWrite e b (f + 1) (off + l.length) d
        = (u.burstWrite e (off + l.length) (d.take 64) b).chWrite e b f (off + l.length + 64) (d.drop 64) := by
      rw [State.chWrite]
      dsimp only
      rw [if_neg (by simp [List.isEmpty_iff, List.eq_nil_iff_length_eq_zero, whole]), aligned, if_pos (by simp; omega)]
    have taken : (d.take 64).length = 64 := by rw [List.length_take]; omega
    obtain ⟨t, ran, wrote⟩ := ih (fuel := f) (h.append b (d.take 64)) (d := d.drop 64)
      (by rw [List.length_append, taken]; omega) (by rw [List.length_drop]; omega) (by omega)
    rw [List.length_append, taken, ← Nat.add_assoc] at ran
    rw [List.append_assoc, List.take_append_drop] at wrote
    exact ⟨t, step.trans ran, wrote⟩

/-- One burst again and again. -/
theorem fill {d : List Byte} (whole : d.length = 64) (s : State) (e off n : Nat) :
    s.Wrote e off (List.replicate n d).flatten
      (s.each (List.range n) fun s i => s.burstWrite e (off + 64 * i) d b) := by
  induction n with
  | zero => exact nil s e off
  | succ n ih =>
    have next_ := ih.append b d
    have size : (List.replicate n d).flatten.length = 64 * n := by simp [whole, Nat.mul_comm]
    rw [size] at next_
    rw [List.range_succ, State.each, List.foldl_append, List.replicate_succ', List.flatten_append]
    simpa [State.each] using next_

/-- Bursts copied in ascending order from a range that is not written. -/
theorem nbCopyLoop {src n m : Nat} (apart : src + 64 * m ≤ off ∨ off + 64 * m ≤ src) (fits : n ≤ m)
    (clean : ∀ i < m, Sparse.get [] s.edgeBad (burstIndex e (src + 64 * i)) = [])
    (h : s.Wrote e off (s.edge.read (edgeAddr e src) (64 * (m - n))) u) :
    ∃ t, u.nbCopyLoop e b n (src + 64 * (m - n)) (off + 64 * (m - n)) = (t, {})
      ∧ s.Wrote e off (s.edge.read (edgeAddr e src) (64 * m)) t := by
  induction n generalizing u with
  | zero => exact ⟨u, rfl, h⟩
  | succ n ih =>
    obtain ⟨k, hk, hk'⟩ : ∃ k, m - (n + 1) = k ∧ m - n = k + 1 := ⟨_, rfl, by omega⟩
    rw [hk] at h ⊢
    rw [hk'] at ih
    have read := State.burstRead_clean b (h.sound _ (clean k (by omega)))
    have data : u.edge.read (edgeAddr e (src + 64 * k)) 64 = s.edge.read (edgeAddr e (src + 64 * k)) 64 :=
      Memory.read_congr fun x lo hi => h.outside x (by
        rw [Memory.read_length]
        simp only [edgeAddr] at lo hi ⊢
        omega)
    rw [data] at read
    have wrote := (h.met b (src + 64 * k)).append b (s.edge.read (edgeAddr e (src + 64 * k)) 64)
    have both : s.edge.read (edgeAddr e src) (64 * k) ++ s.edge.read (edgeAddr e (src + 64 * k)) 64
        = s.edge.read (edgeAddr e src) (64 * (k + 1)) := by
      rw [show edgeAddr e (src + 64 * k) = edgeAddr e src + 1 * (64 * k) by simp only [edgeAddr]; omega,
        Memory.read_eq, Memory.read_eq, Memory.read_eq, ← List.map_append, List.range'_append, Nat.mul_succ]
    rw [both, Memory.read_length] at wrote
    obtain ⟨t, ran, all⟩ := ih (by omega) wrote
    refine ⟨t, ?_, all⟩
    rw [State.nbCopyLoop, read]
    exact ran

end State.Wrote

/-- Bursts without errors are read as they stand. -/
theorem State.chRead_clean {u : State} {e off n fuel : Nat} (b : By) (aligned : off % 64 = 0)
    (clean : ∀ i < n, Sparse.get [] u.edgeBad (burstIndex e (off + 64 * i)) = []) (enough : n < fuel) :
    ∃ t, u.chRead e b fuel off (64 * n) = (t, { data := u.edge.read (edgeAddr e off) (64 * n) }) ∧ t.edge = u.edge := by
  induction n generalizing fuel u off with
  | zero =>
    obtain ⟨f, rfl⟩ : ∃ f, fuel = f + 1 := ⟨fuel - 1, by omega⟩
    exact ⟨u, rfl, rfl⟩
  | succ n ih =>
    obtain ⟨f, rfl⟩ : ∃ f, fuel = f + 1 := ⟨fuel - 1, by omega⟩
    have first := State.burstRead_clean b (by simpa using clean 0 (by omega))
    obtain ⟨t, ran, edge⟩ := ih (u := u.burstMet e off b) (off := off + 64) (fuel := f) (by omega)
      (fun i hi => State.burstMet_edgeBad u e off b (by
        have := clean (i + 1) (by omega)
        rwa [show off + 64 * (i + 1) = off + 64 + 64 * i by omega] at this)) (by omega)
    refine ⟨t, ?_, edge⟩
    rw [State.chRead]
    dsimp only
    rw [if_neg (by simp), aligned, Nat.sub_zero, Nat.sub_zero, Nat.min_eq_right (by omega), first]
    dsimp only
    rw [if_neg (by decide), show 64 * (n + 1) - 64 = 64 * n by omega, ran]
    dsimp only
    rw [List.drop_zero, List.take_of_length_le (by simp), State.burstMet_edge]
    have both : u.edge.read (edgeAddr e off) 64 ++ u.edge.read (edgeAddr e (off + 64)) (64 * n)
        = u.edge.read (edgeAddr e off) (64 * (n + 1)) := by
      rw [show edgeAddr e (off + 64) = edgeAddr e off + 1 * 64 by simp only [edgeAddr]; omega,
        Memory.read_eq, Memory.read_eq, Memory.read_eq, ← List.map_append, List.range'_append, Nat.mul_succ, Nat.add_comm 64]
    rw [both]

/-! ### A command runs, and ends (R232, R233) -/

section
variable {s u : State} {e : Nat} {c : NbCmd} {rest : List NbCmd}

theorem State.nbFinish_spec (u : State) (e : Nat) (c : NbCmd) (st : Status) (flags : Flags) (payload : List Byte) (cycles : Nat) :
    let t := u.nbFinish e c st flags payload cycles
    (t.edgeCh e).queue = (u.edgeCh e).queue.drop 1
      ∧ (t.edgeCh e).done = (u.edgeCh e).done ++ [⟨c.tag, e, st, flags &&& 3, payload, cycles, c.dma, c.life⟩]
      ∧ (t.edgeCh e).lastOpc = c.opc ∧ (t.edgeCh e).lastStatus = st ∧ (∀ j, j ≠ e → t.edgeCh j = u.edgeCh j) ∧ t.edge = u.edge := by
  have own : ∃ x, (u.nbFinish e c st flags payload cycles).edgeCh e = { u.edgeCh e with
      queue := (u.edgeCh e).queue.drop 1
      done := (u.edgeCh e).done ++ [⟨c.tag, e, st, flags &&& 3, payload, cycles, c.dma, c.life⟩]
      lastOpc := c.opc
      lastStatus := st
      aborts := if st == .hwError then satAdd 16 (u.edgeCh e).aborts 1 else (u.edgeCh e).aborts
      busy := satAdd 32 (u.edgeCh e).busy cycles
      act := x } := by
    unfold State.nbFinish State.edgeCount
    rw [State.onEdgeCh_edgeCh, if_pos rfl, State.onEdgeCh_edgeCh, if_pos rfl]
    exact ⟨_, rfl⟩
  obtain ⟨x, own⟩ := own
  intro t
  change (t.edgeCh e) = _ at own
  rw [own]
  refine ⟨rfl, rfl, rfl, rfl, fun j hj => ?_, rfl⟩
  change (u.nbFinish e c st flags payload cycles).edgeCh j = _
  unfold State.nbFinish State.edgeCount
  rw [State.onEdgeCh_edgeCh, if_neg hj.symm, State.onEdgeCh_edgeCh, if_neg hj.symm]

/-- A command of channel `e` has completed OK with its payload, and no other channel differs. -/
structure State.Completed (s : State) (e : Nat) (c : NbCmd) (rest : List NbCmd) (payload : List Byte) (t : State) : Prop where
  queue : (t.edgeCh e).queue = rest
  done : ∃ cycles, (t.edgeCh e).done = (s.edgeCh e).done ++ [⟨c.tag, e, .ok, 0, payload, cycles, c.dma, c.life⟩]
  lastOpc : (t.edgeCh e).lastOpc = c.opc
  lastStatus : (t.edgeCh e).lastStatus = .ok
  others : ∀ j, j ≠ e → t.edgeCh j = s.edgeCh j

theorem State.Completed.all {payload : List Byte} {t : State} (h : s.Completed e c rest payload t) : (t.edgeCh e).queue = rest
    ∧ (∃ cycles, (t.edgeCh e).done = (s.edgeCh e).done ++ [⟨c.tag, e, .ok, 0, payload, cycles, c.dma, c.life⟩])
    ∧ (t.edgeCh e).lastOpc = c.opc ∧ (t.edgeCh e).lastStatus = .ok ∧ ∀ j, j ≠ e → t.edgeCh j = s.edgeCh j :=
  ⟨h.queue, h.done, h.lastOpc, h.lastStatus, h.others⟩

theorem State.nbGot_completes (queue : (s.edgeCh e).queue = c :: rest) (bursts : State.BurstsOf e s u) {g : Got} (ok : g.status = .ok)
    (payload : List Byte) : s.Completed e c rest payload (u.nbGot e c g payload) ∧ (u.nbGot e c g payload).edge = u.edge := by
  unfold State.nbGot
  rw [ok, if_pos (by decide)]
  obtain ⟨queue', done, opc, status, others, edge⟩ :=
    (u.nbCycles (2 ^ 32)).2.nbFinish_spec e c .ok 0 payload (u.nbCycles (2 ^ 32)).1
  have cycled : ∀ j, (u.nbCycles (2 ^ 32)).2.edgeCh j = u.edgeCh j := fun _ => rfl
  rw [cycled, bursts.queue, queue] at queue'
  rw [cycled, bursts.done] at done
  exact ⟨{ queue := queue', done := ⟨_, done⟩, lastOpc := opc, lastStatus := status
           others := fun j hj => (others j hj).trans ((cycled j).trans (bursts.others j hj)) }, edge⟩

variable (queue : (s.edgeCh e).queue = c :: rest) (mode : (s.edgeCh e).mode = .processor) (trained : (s.edgeCh e).state = .trained)
include queue mode trained

/-- In processor mode, on a trained channel, the command at the head runs. -/
theorem State.nbRun_head {o : Nat} (opc : c.opc = o) (run : State → NbCmd → State) : s.nbRun e o run = run s c := by
  unfold State.nbRun
  dsimp only
  rw [queue]
  dsimp only
  rw [if_neg (by simp [mode, trained, opc]), if_neg (by simp [trained])]

theorem exec_nbWrite (opc : c.opc = 1) (aligned : c.arg 0 % 64 = 0) (size : c.payload.length = 64 * c.plen) (small : c.plen ≤ 64) :
    Answers (.nbWrite e) s fun t => s.Completed e c rest [] t
      ∧ t.edge.read (edgeAddr e (c.arg 0)) (64 * c.plen) = c.payload
      ∧ ∀ x, x < edgeAddr e (c.arg 0) ∨ edgeAddr e (c.arg 0) + 64 * c.plen ≤ x → t.edge.byte x = s.edge.byte x := by
  have start : exec (.nbWrite e) s = execNbWrite e s := rfl
  have bytes : (c.payload ++ zeros (64 * c.plen)).take (64 * c.plen) = c.payload := by rw [← size, List.take_left]
  obtain ⟨t, ran, wrote⟩ := (State.Wrote.nil s e (c.arg 0)).chWrite (s.unitBy e c) (n := c.plen) (fuel := 66) aligned size (by omega)
  rw [List.nil_append] at wrote
  rw [List.length_nil, Nat.add_zero] at ran
  obtain ⟨completed, edge⟩ := State.nbGot_completes queue wrote.bursts (g := {}) rfl []
  refine ⟨t.nbGot e c {} [], ?_, completed, ?_, fun x hx => ?_⟩
  · rw [start]
    unfold execNbWrite
    rw [State.nbRun_head queue mode trained opc]
    dsimp only
    rw [bytes, ran]
  · rw [edge, ← size]
    exact wrote.read
  · rw [edge]
    exact wrote.outside x (by rwa [size])

theorem exec_nbRead (opc : c.opc = 2) (aligned : c.arg 0 % 64 = 0)
    (clean : ∀ i < bits (c.arg 1) 0 24, Sparse.get [] s.edgeBad (burstIndex e (c.arg 0 + 64 * i)) = []) :
    Answers (.nbRead e) s fun t =>
      s.Completed e c rest (s.edge.read (edgeAddr e (c.arg 0)) (64 * bits (c.arg 1) 0 24)) t ∧ t.edge = s.edge := by
  have start : exec (.nbRead e) s = execNbRead e s := rfl
  obtain ⟨t, ran, same⟩ := State.chRead_clean (s.unitBy e c) aligned clean (Nat.lt_add_of_pos_right (k := 2) (by omega))
  have bursts := State.BurstsOf.chRead s e (s.unitBy e c) (bits (c.arg 1) 0 24 + 2) (c.arg 0) (64 * bits (c.arg 1) 0 24)
  rw [ran] at bursts
  obtain ⟨completed, edge⟩ := State.nbGot_completes queue bursts
    (g := { data := s.edge.read (edgeAddr e (c.arg 0)) (64 * bits (c.arg 1) 0 24) }) rfl
    (s.edge.read (edgeAddr e (c.arg 0)) (64 * bits (c.arg 1) 0 24))
  refine ⟨_, ?_, completed, edge.trans same⟩
  rw [start]
  unfold execNbRead
  rw [State.nbRun_head queue mode trained opc]
  dsimp only
  rw [ran]

theorem exec_nbFill (opc : c.opc = 3) : Answers (.nbFill e) s fun t => s.Completed e c rest [] t
    ∧ t.edge.read (edgeAddr e (c.arg 0)) (64 * bits (c.arg 1) 0 24)
      = (List.replicate (8 * bits (c.arg 1) 0 24) (leBytes 8 (c.arg 2))).flatten
    ∧ ∀ x, x < edgeAddr e (c.arg 0) ∨ edgeAddr e (c.arg 0) + 64 * bits (c.arg 1) 0 24 ≤ x → t.edge.byte x = s.edge.byte x := by
  have start : exec (.nbFill e) s = execNbFill e s := rfl
  have whole : (List.replicate 8 (leBytes 8 (c.arg 2))).flatten.length = 64 := by simp [leBytes_length]
  have wrote := State.Wrote.fill (s.unitBy e c) whole s e (c.arg 0) (bits (c.arg 1) 0 24)
  generalize hn : bits (c.arg 1) 0 24 = n at wrote ⊢
  have bytes : (List.replicate n (List.replicate 8 (leBytes 8 (c.arg 2))).flatten).flatten
      = (List.replicate (8 * n) (leBytes 8 (c.arg 2))).flatten := by
    rw [← List.map_replicate, ← List.flatten_flatten, List.flatten_replicate_replicate, Nat.mul_comm]
  rw [bytes] at wrote
  have size : (List.replicate (8 * n) (leBytes 8 (c.arg 2))).flatten.length = 64 * n := by
    simp [leBytes_length]
    omega
  obtain ⟨completed, edge⟩ := State.nbGot_completes queue wrote.bursts (g := {}) rfl []
  refine ⟨_, ?_, completed, ?_, fun x hx => ?_⟩
  · rw [start]
    unfold execNbFill
    rw [State.nbRun_head queue mode trained opc, hn]
    exact rfl
  · rw [edge, ← size]
    exact wrote.read
  · rw [edge]
    exact wrote.outside x (by rwa [size])

theorem exec_nbCopy (opc : c.opc = 4)
    (clean : ∀ i < bits (c.arg 2) 0 24, Sparse.get [] s.edgeBad (burstIndex e (c.arg 0 + 64 * i)) = [])
    (apart : c.arg 0 + 64 * bits (c.arg 2) 0 24 ≤ c.arg 1 ∨ c.arg 1 + 64 * bits (c.arg 2) 0 24 ≤ c.arg 0) :
    Answers (.nbCopy e) s fun t => s.Completed e c rest [] t
      ∧ t.edge.read (edgeAddr e (c.arg 1)) (64 * bits (c.arg 2) 0 24) = s.edge.read (edgeAddr e (c.arg 0)) (64 * bits (c.arg 2) 0 24)
      ∧ ∀ x, x < edgeAddr e (c.arg 1) ∨ edgeAddr e (c.arg 1) + 64 * bits (c.arg 2) 0 24 ≤ x → t.edge.byte x = s.edge.byte x := by
  have start : exec (.nbCopy e) s = execNbCopy e s := rfl
  generalize hn : bits (c.arg 2) 0 24 = n at clean apart ⊢
  have first : s.Wrote e (c.arg 1) (s.edge.read (edgeAddr e (c.arg 0)) (64 * (n - n))) s := by
    rw [Nat.sub_self]
    exact State.Wrote.nil s e (c.arg 1)
  obtain ⟨t, ran, wrote⟩ := State.Wrote.nbCopyLoop (s.unitBy e c) apart le_rfl clean first
  rw [Nat.sub_self, Nat.mul_zero, Nat.add_zero, Nat.add_zero] at ran
  obtain ⟨completed, edge⟩ := State.nbGot_completes queue wrote.bursts (g := {}) rfl []
  have size := Memory.read_length s.edge (edgeAddr e (c.arg 0)) (64 * n)
  refine ⟨t.nbGot e c {} [], ?_, completed, ?_, fun x hx => ?_⟩
  · rw [start]
    unfold execNbCopy
    rw [State.nbRun_head queue mode trained opc, hn]
    dsimp only
    rw [ran]
  · have read := wrote.read
    rw [size] at read
    rw [edge, read]
  · rw [edge]
    exact wrote.outside x (by rwa [size])

theorem exec_nbSync (opc : c.opc = 8) : Answers (.nbSync e) s fun t => s.Completed e c rest [] t ∧ t.edge = s.edge := by
  have start : exec (.nbSync e) s = execNbSync e s := rfl
  refine ⟨s.nbGot e c {} [], ?_, State.nbGot_completes queue (.refl e s) (g := {}) rfl []⟩
  rw [start]
  unfold execNbSync
  rw [State.nbRun_head queue mode trained opc]

/-- The four planes of an appended page, with the bytes of its records (R248). -/
def NbCmd.planes (c : NbCmd) (kq vq : List (List Byte × List Byte × Flags)) : List (Nat × List Byte) :=
  let place (plane : Nat) : Nat := c.arg 0 + planeOff c.akfmt c.avfmt c.ad plane c.first
  [(place 0, (kq.map fun q => q.1).flatten), (place 1, (kq.map fun q => q.2.1).flatten),
    (place 2, (vq.map fun q => q.1).flatten), (place 3, (vq.map fun q => q.2.1).flatten)]

theorem exec_nbAppend (opc : c.opc = 5) (w : State × Got)
    (hw : w = s.chWrites e (s.unitBy e c) (c.planes
      ((srcRecords c.srcfmt c.ad c.ntok 0 c.payload).map (kvQuant c.opts c.akfmt c.ad))
      ((srcRecords c.srcfmt c.ad c.ntok (c.ntok * c.ad * srcBytes c.srcfmt) c.payload).map (kvQuant c.opts c.avfmt c.ad))))
    (ok : w.2.status = .ok) :
    Answers (.nbAppend e) s fun t => t.edge = w.1.edge ∧ (t.edgeCh e).queue = rest ∧ (t.edgeCh e).lastStatus = .ok
      ∧ ∀ j, j ≠ e → t.edgeCh j = s.edgeCh j := by
  have start : exec (.nbAppend e) s = execNbAppend e s := rfl
  have bursts : State.BurstsOf e s w.1 := hw ▸ State.BurstsOf.chWrites ..
  rw [Answers, start]
  unfold execNbAppend
  rw [State.nbRun_head queue mode trained opc]
  dsimp only
  generalize hkq : (srcRecords c.srcfmt c.ad c.ntok 0 c.payload).map (kvQuant c.opts c.akfmt c.ad) = kq at hw ⊢
  generalize hvq : (srcRecords c.srcfmt c.ad c.ntok (c.ntok * c.ad * srcBytes c.srcfmt) c.payload).map
    (kvQuant c.opts c.avfmt c.ad) = vq at hw ⊢
  have places : List.zipWith (fun (p : Nat × Nat) l => (p.1, l)) c.places
      [(kq.map fun q => q.1).flatten, (kq.map fun q => q.2.1).flatten, (vq.map fun q => q.1).flatten,
       (vq.map fun q => q.2.1).flatten] = c.planes kq vq := rfl
  rw [places, ← hw, if_neg (by simp [ok])]
  generalize (kq ++ vq).foldl (fun a q => a ||| q.2.2) 0 = flags
  obtain ⟨queue', -, -, status, others, edge⟩ := (w.1.nbCycles c.cycleBound).2.nbFinish_spec e c .ok flags []
    (w.1.nbCycles c.cycleBound).1
  have cycled : ∀ j, (w.1.nbCycles c.cycleBound).2.edgeCh j = w.1.edgeCh j := fun _ => rfl
  rw [cycled, bursts.queue, queue] at queue'
  exact ⟨_, rfl, edge, queue', status, fun j hj => (others j hj).trans ((cycled j).trans (bursts.others j hj))⟩

/-! ### Commands over a channel list (R235, R236, R253, R254) -/

theorem exec_nbList_fails {st : Status} (fails : (s.nbList e c).2 = .error st) :
    (c.opc = 6 → exec (.nbScores e) s = .next ((s.nbList e c).1.nbEnd e c st))
      ∧ (c.opc = 7 → exec (.nbAttend e) s = .next ((s.nbList e c).1.nbEnd e c st)) := by
  have scores : exec (.nbScores e) s = execNbScores e s := rfl
  have attend : exec (.nbAttend e) s = execNbAttend e s := rfl
  constructor
  · intro opc
    rw [scores]
    unfold execNbScores
    rw [State.nbRun_head queue mode trained opc]
    dsimp only
    rw [fails]
  · intro opc
    rw [attend]
    unfold execNbAttend
    rw [State.nbRun_head queue mode trained opc]
    dsimp only
    rw [fails]

omit queue mode trained in
/-- Scores that end OK leave no entry. -/
theorem State.nbScoresLoop_left (u : State) (q : List (List Nat)) (l : List ListEntry) (i : Nat) (fl : Flags)
    (ok : (u.nbScoresLoop e c q l i fl).2.1.status = .ok) : (u.nbScoresLoop e c q l i fl).2.2.1 = [] := by
  induction l generalizing u i fl with
  | nil => rfl
  | cons x l ih =>
    unfold State.nbScoresLoop at ok ⊢
    dsimp only at ok ⊢
    split
    · next bad =>
      rw [if_pos bad] at ok
      exact absurd ok (by simpa using bad)
    · next read =>
      rw [if_neg read] at ok
      split
      · next bad =>
        rw [if_pos bad] at ok
        exact absurd ok (by simpa using bad)
      · next written =>
        rw [if_neg written] at ok
        exact ih _ _ _ ok

omit queue mode trained in
theorem State.nbAttendLoop_left (u : State) (q : List (List Nat)) (l : List ListEntry) (hs : List Head)
    (ok : (u.nbAttendLoop e c q l hs).2.1.status = .ok) : (u.nbAttendLoop e c q l hs).2.2.1 = [] := by
  induction l generalizing u hs with
  | nil => rfl
  | cons x l ih =>
    unfold State.nbAttendLoop at ok ⊢
    dsimp only at ok ⊢
    split
    · next bad =>
      rw [if_pos bad] at ok
      exact absurd ok (by simpa using bad)
    · next read =>
      rw [if_neg read] at ok
      exact ih _ _ ok

omit queue mode trained in
/-- A command over a list of which no entry is left ends OK, after the cycles of its entries. -/
theorem State.nbListEnd_done (bursts : State.BurstsOf e s u) (l : List ListEntry) {g : Got} (ok : g.status = .ok) (flags : Flags)
    (payload : List Byte) : u.nbListEnd e c l [] g flags payload
      = (u.nbMasked e c (maskedOf l)).nbFinish e c .ok flags payload (c.listCycles (s.stack (e / 32)).band l.length) := by
  have stack : (u.nbMasked e c (maskedOf l)).stack (e / 32) = s.stack (e / 32) := bursts.stack (e / 32)
  unfold State.nbListEnd
  rw [show maskedOf l - maskedOf [] = maskedOf l from Nat.sub_zero _, ok]
  dsimp only
  rw [if_pos (by decide), stack]

theorem exec_nbScores {l : List ListEntry} (list : (s.nbList e c).2 = .ok l) (opc : c.opc = 6)
    (r : State × Got × List ListEntry × Flags) (hr : r = (s.nbList e c).1.nbScoresLoop e c c.query l 0 0) (ok : r.2.1.status = .ok) :
    exec (.nbScores e) s = .next ((r.1.nbMasked e c (maskedOf l)).nbFinish e c .ok r.2.2.2 []
      (c.listCycles (s.stack (e / 32)).band l.length)) := by
  have start : exec (.nbScores e) s = execNbScores e s := rfl
  have bursts : State.BurstsOf e s r.1 := hr ▸ (State.BurstsOf.nbList ..).trans (State.BurstsOf.nbScoresLoop ..)
  have left : r.2.2.1 = [] := hr ▸ State.nbScoresLoop_left _ _ _ _ _ (hr ▸ ok)
  rw [start]
  unfold execNbScores
  rw [State.nbRun_head queue mode trained opc]
  dsimp only
  rw [list]
  dsimp only
  rw [← hr, left, State.nbListEnd_done bursts l ok]

theorem exec_nbAttend {l : List ListEntry} (list : (s.nbList e c).2 = .ok l) (opc : c.opc = 7)
    (r : State × Got × List ListEntry × List Head)
    (hr : r = (s.nbList e c).1.nbAttendLoop e c c.query l (List.replicate c.g { o := List.replicate c.d 0 }))
    (ok : r.2.1.status = .ok) : Answers (.nbAttend e) s fun t => (t.edgeCh e).queue = rest ∧ (t.edgeCh e).lastStatus = .ok
      ∧ t.edge = r.1.edge ∧ ∃ x, (t.edgeCh e).done = (r.1.edgeCh e).done ++ [x]
        ∧ x.cycles = c.listCycles (s.stack (e / 32)).band l.length ∧ x.status = .ok
        ∧ x.payload.take ((r.2.2.2.map fun h => (h.bytes c.opts).1).flatten.length)
          = (r.2.2.2.map fun h => (h.bytes c.opts).1).flatten := by
  have start : exec (.nbAttend e) s = execNbAttend e s := rfl
  have bursts : State.BurstsOf e s r.1 := hr ▸ (State.BurstsOf.nbList ..).trans (State.BurstsOf.nbAttendLoop ..)
  have left : r.2.2.1 = [] := hr ▸ State.nbAttendLoop_left _ _ _ _ (hr ▸ ok)
  have masked : (r.1.nbMasked e c (maskedOf l)).edgeCh e = { (r.1.edgeCh e) with
      masked := satAdd 32 (r.1.edgeCh e).masked (maskedOf l)
      act := Sparse.modify 0 (r.1.edgeCh e).act (4 * c.polder + 2) (· + maskedOf l) } := by
    unfold State.nbMasked State.edgeCount
    rw [State.onEdgeCh_edgeCh, if_pos rfl, State.onEdgeCh_edgeCh, if_pos rfl]
  rw [Answers, start]
  unfold execNbAttend
  rw [State.nbRun_head queue mode trained opc]
  dsimp only
  rw [list]
  dsimp only
  rw [← hr, left, State.nbListEnd_done bursts l ok, List.map_map]
  generalize List.foldl _ _ (r.2.2.2.zip _) = flags
  have same : (Prod.fst ∘ fun h : Head => h.bytes c.opts) = fun h => (h.bytes c.opts).1 := rfl
  rw [same]
  generalize (r.2.2.2.map fun h => (h.bytes c.opts).1).flatten = bytes
  obtain ⟨queue', done, -, status, -, edge⟩ := (r.1.nbMasked e c (maskedOf l)).nbFinish_spec e c .ok flags
    (bytes ++ zeros (alignUp bytes.length 64 - bytes.length)) (c.listCycles (s.stack (e / 32)).band l.length)
  rw [masked] at queue' done
  exact ⟨_, rfl, queue'.trans (by rw [bursts.queue, queue]; rfl), status, edge, _, done, rfl, rfl, List.take_left ..⟩

end

/-! ### The dispatcher (R230, R231) -/

section
variable {s : State} {stack : Nat} {c : NbCmd} {rest : List NbCmd}

/-- The channels of a stack that a command selects. -/
def NbCmd.chosen (c : NbCmd) (stack : Nat) : List Nat := ((List.range 32).filter (bit c.mask)).map (32 * stack + ·)

theorem NbCmd.chosen_nodup : (c.chosen stack).Nodup :=
  (List.nodup_range.filter _).map fun _ _ h => Nat.add_left_cancel h

/-- Each channel of a list is changed once, behind a command that left the dispatcher. -/
theorem State.each_channels (s : State) (stack : Nat) (rest : List NbCmd) (g : Nat → EdgeCh → EdgeCh) (l : List Nat) (nodup : l.Nodup) :
    let t := (s.onStack stack fun k => { k with dispatch := rest }).each l fun s e => s.onEdgeCh e (g e)
    (t.stack stack).dispatch = rest ∧ (∀ e ∈ l, t.edgeCh e = g e (s.edgeCh e)) ∧ (∀ e, e ∉ l → t.edgeCh e = s.edgeCh e)
      ∧ t = { s with edgeStacks := t.edgeStacks, channels := t.channels } := by
  intro t
  have channel : ∀ e, t.edgeCh e = if e ∈ l then g e (s.edgeCh e) else s.edgeCh e := fun e =>
    State.each_at (V := State.edgeCh) (φ := g) (fun u x => (State.onEdgeCh_edgeCh ..).trans (if_pos rfl))
      (fun u x y hy => (State.onEdgeCh_edgeCh ..).trans (if_neg hy.symm)) l _ e nodup
  refine ⟨?_, fun e he => (channel e).trans (if_pos he), fun e he => (channel e).trans (if_neg he), ?_⟩
  · have kept : t.stack stack = (s.onStack stack fun k => { k with dispatch := rest }).stack stack :=
      State.each_keeps (F := (State.stack · stack)) (g := fun s e => s.onEdgeCh e (g e)) (fun u x => rfl) l _
    rw [kept, State.onStack_stack, if_pos rfl]
  · exact State.each_preserves (P := fun u => u = { s with edgeStacks := u.edgeStacks, channels := u.channels }) l _
      (fun u y _ hu => congrArg (State.onEdgeCh · y (g y)) hu |>.trans rfl) rfl

variable (waits : (s.stack stack).dispatch = c :: rest)
include waits

theorem exec_nbDispatch_passes (passes : s.nbCheck stack c (c.chosen stack) = none)
    (room : ∀ e ∈ c.chosen stack, (s.edgeCh e).queue.length < 16) : Answers (.nbDispatch stack) s fun t =>
      (t.stack stack).dispatch = rest
        ∧ (∀ e ∈ c.chosen stack, t.edgeCh e = { s.edgeCh e with queue := (s.edgeCh e).queue ++ [c] })
        ∧ (∀ e, e ∉ c.chosen stack → t.edgeCh e = s.edgeCh e)
        ∧ t = { s with edgeStacks := t.edgeStacks, channels := t.channels } := by
  have start : exec (.nbDispatch stack) s = execNbDispatch stack s := rfl
  have fits : ((c.chosen stack).any fun e => decide (16 ≤ (s.edgeCh e).queue.length)) = false := by
    simpa [List.any_eq_false] using room
  refine ⟨_, ?_, s.each_channels stack rest (fun _ k => { k with queue := k.queue ++ [c] }) _ NbCmd.chosen_nodup⟩
  rw [start]
  unfold execNbDispatch
  rw [waits]
  dsimp only
  rw [show ((List.range 32).filter (bit c.mask)).map (32 * stack + ·) = c.chosen stack from rfl, passes]
  dsimp only
  rw [fits, if_neg (by simp)]

variable {st : Status} (fails : s.nbCheck stack c (c.chosen stack) = some st)
include fails

theorem exec_nbDispatch_nowhere (nowhere : c.chosen stack = []) : exec (.nbDispatch stack) s
    = .next ((s.onStack stack fun k => { k with dispatch := rest }).onEdgeCh (32 * stack) fun k => { k with
        done := k.done ++ [⟨c.tag, 1024 + stack, st, 0, [], 0, c.dma, c.life⟩] }) := by
  have start : exec (.nbDispatch stack) s = execNbDispatch stack s := rfl
  rw [start]
  unfold execNbDispatch
  rw [waits]
  dsimp only
  rw [show ((List.range 32).filter (bit c.mask)).map (32 * stack + ·) = c.chosen stack from rfl, fails]
  dsimp only
  rw [nowhere, if_pos (by simp)]

theorem exec_nbDispatch_fails (some_ : c.chosen stack ≠ []) : Answers (.nbDispatch stack) s fun t =>
    (t.stack stack).dispatch = rest
      ∧ (∀ e ∈ c.chosen stack, t.edgeCh e
          = { s.edgeCh e with done := (s.edgeCh e).done ++ [⟨c.tag, e, st, 0, [], 0, c.dma, c.life⟩] })
      ∧ (∀ e, e ∉ c.chosen stack → t.edgeCh e = s.edgeCh e)
      ∧ t = { s with edgeStacks := t.edgeStacks, channels := t.channels } := by
  have start : exec (.nbDispatch stack) s = execNbDispatch stack s := rfl
  refine ⟨_, ?_, s.each_channels stack rest
    (fun e k => { k with done := k.done ++ [⟨c.tag, e, st, 0, [], 0, c.dma, c.life⟩] }) _ NbCmd.chosen_nodup⟩
  rw [start]
  unfold execNbDispatch
  rw [waits]
  dsimp only
  rw [show ((List.range 32).filter (bit c.mask)).map (32 * stack + ·) = c.chosen stack from rfl, fails]
  dsimp only
  rw [if_neg (by simpa [List.isEmpty_iff] using some_)]

end
end Sys2Proof.Machine

open Sys2Proof Sys2Proof.Machine

/-- Settles O48: the unit reads and writes its channel burst by burst, and completes the command at the head of its queue; the
dispatcher hands a command on to each of its channels once. -/
theorem nearBankUnitsRunTheirCommands : Obligations.NearBankUnitsRunTheirCommands := by
  refine ⟨fun s e c rest queue mode trained => ?_, fun s stack c rest waits => ⟨exec_nbDispatch_passes waits,
    fun st fails nowhere => exec_nbDispatch_nowhere waits fails nowhere, fun st fails some_ => exec_nbDispatch_fails waits fails some_⟩⟩
  refine ⟨fun opc aligned size small => ?_, ⟨fun opc aligned clean => ?_, fun opc aligned => ?_⟩,
    fun opc _ _ clean apart => ?_, fun opc => ?_, fun w opc hw ok => exec_nbAppend queue mode trained opc w hw ok,
    fun st fails i hi => ?_, fun l list => ⟨fun r opc hr ok => exec_nbScores queue mode trained list opc r hr ok,
      fun r opc hr ok => exec_nbAttend queue mode trained list opc r hr ok⟩⟩
  · obtain ⟨t, ran, ended, reads⟩ := exec_nbWrite queue mode trained opc aligned size small
    exact ⟨t, ran, ended.all, reads⟩
  · obtain ⟨t, ran, ended, reads⟩ := exec_nbRead queue mode trained opc aligned clean
    exact ⟨t, ran, ended.all, reads⟩
  · obtain ⟨t, ran, ended, reads⟩ := exec_nbFill queue mode trained opc
    exact ⟨t, ran, ended.all, reads⟩
  · obtain ⟨t, ran, ended, reads⟩ := exec_nbCopy queue mode trained opc clean apart
    exact ⟨t, ran, ended.all, reads⟩
  · obtain ⟨t, ran, ended, reads⟩ := exec_nbSync queue mode trained opc
    exact ⟨t, ran, ended.all, reads⟩
  · obtain ⟨scores, attend⟩ := exec_nbList_fails queue mode trained fails
    simp only [List.mem_cons, Prod.mk.injEq, List.not_mem_nil, or_false] at hi
    rcases hi with ⟨rfl, opc⟩ | ⟨rfl, opc⟩
    · exact scores opc
    · exact attend opc
end

section
/-! The rows of the energy ledger (R346-R351, R354, R356, R363, R382, R398). -/

namespace Sys2Proof.Machine

/-! ### The effective cap after an update (R354, R355, R356) -/

/-- A recomputation of the cap, and the planner's run that a change of it calls for. -/
def State.recap (s : State) : State := if s.updateCap.ledger.effCap != s.ledger.effCap then s.updateCap.plan else s.updateCap

section
variable (s : State)

theorem State.plan_cases : s.plan = s ∨ s.power.sagHold = false := by
  rcases hs : s.power.sagHold with _ | _
  · exact .inr rfl
  · exact .inl (by simp [State.plan, hs])

theorem State.plan_eq_of_stopped (hr : s.trust.running = false) : s.plan = s := by simp [State.plan, hr]

theorem State.recap_sansPlan : s.recap.sansPlan = s.sansPlan := by
  have capped : s.updateCap.sansPlan = s.sansPlan := (congrArg State.sansSteps s.updateCap_sansCap :)
  have planned : s.updateCap.plan.sansPlan = s.updateCap.sansPlan := by
    rcases hr : s.updateCap.trust.running with _ | _
    · rw [State.plan_eq_of_stopped _ hr]
    · rcases State.plan_cases _ with same | awake
      · rw [same]
      · exact State.plan_sansPlan _ hr awake
  unfold State.recap
  exact State.ite_keeps (F := State.sansPlan) (planned.trans capped) capped

/-- Once a thermal cap is known, the effective cap is the smallest of the three while firmware runs. -/
theorem State.recap_effCap (known : s.ledger.capKnown = true) (hr : s.trust.running = true) :
    s.recap.ledger.effCap = s.ledger.smallestWatts := by
  have formed : s.updateCap.ledger.effCap = s.ledger.smallestWatts := (Prod.mk.inj (s.updateCap_cap known hr)).2
  have kept := s.updateCap_sansCap
  have running : s.updateCap.trust.running = true := (congrArg (fun u => u.trust.running) kept :).trans hr
  have known' : s.updateCap.ledger.capKnown = true := (congrArg (fun u => u.ledger.capKnown) kept :).trans known
  have caps : s.updateCap.ledger.smallestWatts = s.ledger.smallestWatts := (congrArg (fun u => u.ledger.smallestWatts) kept :)
  unfold State.recap
  refine State.ite_keeps (F := fun u => u.ledger.effCap) ?_ formed
  rcases State.plan_cases _ with same | awake
  · rw [same]
    exact formed
  · rw [State.plan_effCap _ running awake, known', if_pos rfl, caps]

end

/-! ### Thermal resistance (R355, R381) -/

theorem Ledger.smallestWatts_congr {l m : Ledger} (cap : l.cap = m.cap) (thermal : l.thermalCap = m.thermalCap)
    (supply : l.supplyCap = m.supplyCap) : l.smallestWatts = m.smallestWatts := by
  rw [Ledger.smallestWatts_eq, Ledger.smallestWatts_eq, cap, thermal, supply]

/-- A site is measured against the inlet. -/
def State.measureSite (t : Int) (s : State) (d : Nat) : State :=
  let sites := Sparse.modify {} s.thermal.sites d fun x => x.measure (s.dieLogic d - t) (s.siteEnergy d)
  { s with thermal := { s.thermal with sites := sites } }

/-- What a thermal update leaves beside the sites. -/
def State.sansSites (s : State) : State := { s with thermal := { s.thermal with sites := [] } }

/-- The state in which a thermal update forms the cap. -/
@[irreducible] def State.resistances (s : State) : State :=
  let s := s.relatch
  let t := s.inletTemp
  let s := if t.2 != 0 then s else s.each (List.range 12) (State.measureSite t.1)
  { s with
    thermal := { s.thermal with
      inlet := tempCode (s.thermistor 1920)
      outlet := tempCode (s.thermistor 1921)
      hotLogic := tempCode (if s.anyValid 0 1152 then some (s.hottest (List.range 576)) else none)
      hotDram := tempCode (if s.anyValid 1152 1728 then some (s.hottest ((List.range 288).map (576 + ·))) else none)
      flags := s.thermFlags }
    ledger := { s.ledger with thermalCap := s.thermalCapNow, capKnown := true } }

section
variable (s : State)

theorem State.resistances_spec : s.resistances.thermal.inlet = tempCode (s.thermistor 1920)
    ∧ s.resistances.thermal.outlet = tempCode (s.thermistor 1921) ∧ s.resistances.ledger.capKnown = true
    ∧ s.resistances.ledger.cap = s.ledger.cap ∧ s.resistances.ledger.supplyCap = s.ledger.supplyCap
    ∧ s.resistances.trust = s.trust ∧ s.resistances.ucm = s.ucm ∧ s.resistances.edge = s.edge := by
  have measured : ∀ u : State, State.sansSites (if u.inletTemp.2 != 0 then u
      else u.each (List.range 12) (State.measureSite u.inletTemp.1)) = u.sansSites := fun u =>
    State.ite_keeps (F := State.sansSites) rfl
      (State.each_keeps (F := State.sansSites) (g := State.measureSite u.inletTemp.1) (fun _ _ => rfl) _ u)
  have kept := (measured s.relatch).trans (show s.relatch.sansSites = { s.sansSites with smbus := s.relatch.smbus } from rfl)
  unfold State.resistances
  dsimp only
  generalize (if s.relatch.inletTemp.2 != 0 then s.relatch else _) = u at kept ⊢
  have heat (i : Nat) : u.thermistor i = s.thermistor i := (congrArg (State.thermistor · i) kept :)
  rw [heat, heat]
  exact ⟨rfl, rfl, rfl, (congrArg (fun w => w.ledger.cap) kept :), (congrArg (fun w => w.ledger.supplyCap) kept :),
    (congrArg State.trust kept :), (congrArg State.ucm kept :), (congrArg State.edge kept :)⟩

theorem exec_thermalResistanceUpdate (on : s.power.culverts = true) (running : s.trust.running = true) :
    Answers .thermalResistanceUpdate s fun t =>
      t.ledger.effCap = t.ledger.smallestWatts ∧ t.ledger.supplyCap = s.ledger.supplyCap
        ∧ t.thermal.inlet = tempCode (s.thermistor 1920) ∧ t.thermal.outlet = tempCode (s.thermistor 1921)
        ∧ t.ledger.cap = s.ledger.cap ∧ t.ucm = s.ucm ∧ t.edge = s.edge := by
  have start : exec .thermalResistanceUpdate s = execThermalResistanceUpdate s := rfl
  have on' : s.relatch.power.culverts = true := on
  have ran : exec .thermalResistanceUpdate s = .next s.resistances.recap := by
    rw [start]
    unfold execThermalResistanceUpdate
    dsimp only
    rw [if_neg (by simp [on'])]
    unfold State.resistances State.recap
    exact rfl
  obtain ⟨inlet, outlet, known, cap, supply, trust, ucm, edge⟩ := s.resistances_spec
  have kept := s.resistances.recap_sansPlan
  have formed := s.resistances.recap_effCap known (by rw [trust, running])
  refine ⟨_, ran, formed.trans (Ledger.smallestWatts_congr (congrArg (fun w => w.ledger.cap) kept.symm :)
    (congrArg (fun w => w.ledger.thermalCap) kept.symm :) (congrArg (fun w => w.ledger.supplyCap) kept.symm :)), (congrArg (fun w => w.ledger.supplyCap) kept :).trans supply,
    (congrArg (fun w => w.thermal.inlet) kept :).trans inlet, (congrArg (fun w => w.thermal.outlet) kept :).trans outlet,
    (congrArg (fun w => w.ledger.cap) kept :).trans cap, (congrArg State.ucm kept :).trans ucm, (congrArg State.edge kept :).trans edge⟩

end
end Sys2Proof.Machine
end

section
/-! The reports of the estimators, and telemetry (R346-R350, R356). -/

namespace Sys2Proof.Machine

/-! ### Counters (R346, R347) -/

theorem sumOf_eq_sum (l : List Nat) : sumOf l = l.sum := by
  rw [sumOf, List.sum_eq_foldl]

/-- What a change of every listed entry keeps, a table keeps of each of its values. -/
theorem Sparse.get_mapWhere_view {α β : Type} [DecidableEq α] (d : α) (p : Nat → Bool) (f : α → α) (φ : α → β)
    (keeps : ∀ x, φ (f x) = φ x) (m : Sparse α) (i : Nat) : φ (Sparse.get d (Sparse.mapWhere d p f m) i) = φ (Sparse.get d m i) := by
  induction m with
  | nil => rfl
  | cons e r ih =>
    obtain ⟨k, v⟩ := e
    have kept : φ (if p k then f v else v) = φ v := by split <;> simp [keeps]
    unfold Sparse.mapWhere
    dsimp only
    generalize (if p k then f v else v) = w at kept ⊢
    by_cases gone : w = d
    · rw [if_pos gone, Sparse.get_drop]
      by_cases hk : i = k
      · subst hk
        simp [Sparse.get, ← gone, kept]
      · rw [if_neg (by simpa using hk), ih]
        simp [Sparse.get, Ne.symm hk]
    · rw [if_neg gone]
      by_cases hk : k = i
      · simp [Sparse.get, hk, kept]
      · simp [Sparse.get, hk, ih]

section
variable (s : State)

theorem State.addTo_meter (i pj j : Nat) : (s.addTo i pj).meter j = if i = j then (s.meter i).add pj else s.meter j :=
  Sparse.get_modify ({} : Meter) s.ledger.meters i (fun m => m.add pj) j

theorem State.addTo_total (i pj j : Nat) : ((s.addTo i pj).meter j).total = (s.meter j).total + if i = j then pj else 0 := by
  rw [State.addTo_meter]
  split
  · next h =>
    subst h
    rfl
  · rfl

theorem State.addEnergy_total (i pj j : Nat) : ((s.addEnergy i pj).meter j).total
    = (s.meter j).total + (if i = j then pj else 0) + if mModule = j then pj else 0 := by
  rw [State.addEnergy, State.addTo_total, State.addTo_total]

theorem State.closeStep_total (i : Nat) : (s.closeStep.meter i).total = (s.meter i).total := by
  refine Sparse.get_mapWhere_view ({} : Meter) (fun _ => true) _ Meter.total (fun m => ?_) s.ledger.meters i
  unfold Meter.close
  dsimp only
  split <;> split <;> rfl

end

/-! ### Reports (R347, R348) -/

/-- The estimator of every rail works, at gain 1 (R348). -/
def State.PlainRails (s : State) : Prop := ∀ r, (s.rail r).fault = false ∧ (s.rail r).gain = 2 ^ 24

/-- What a report adds to a counter. -/
def reportPart (i : Nat) (x : Report) : Nat :=
  (if railMeter x.1 = i then x.2.2 else 0) + (if mModule = i then x.2.2 else 0) + if x.2.1 < 24 ∧ mPolder x.2.1 = i then x.2.2 else 0

/-- The module without what reports change. -/
def State.sansReports (s : State) : State := { s with ledger := { s.ledger with rails := [], attributed := [], meters := [] } }

section
variable {s : State}

theorem State.report_sansReports (s : State) (r p pj : Nat) : (s.report r p pj).sansReports = s.sansReports := by
  have attributed : ∀ (u : State) m, State.sansReports { u with ledger := { u.ledger with attributed := m } } = u.sansReports :=
    fun _ _ => rfl
  have counted : ∀ (u : State) i n, (u.addTo i n).sansReports = u.sansReports := fun _ _ _ => rfl
  have railed : ∀ g, (s.onRail r g).sansReports = s.sansReports := fun _ => rfl
  unfold State.report
  dsimp only
  generalize (s.rail r).scaled pj = e
  generalize hu : s.onRail r _ = u
  have started : u.sansReports = s.sansReports := hu ▸ railed _
  have first : State.sansReports (if (s.rail r).fault = true then u else u.addEnergy (railMeter r) e) = s.sansReports :=
    State.ite_keeps (F := State.sansReports) started ((counted ..).trans ((counted ..).trans started))
  generalize (if (s.rail r).fault = true then u else u.addEnergy (railMeter r) e) = v at first ⊢
  refine State.ite_keeps (F := State.sansReports) first (State.ite_keeps (F := State.sansReports) ?_ ?_)
  · exact (attributed ..).trans first
  · exact (counted ..).trans ((attributed ..).trans first)

theorem State.report_plain (plain : s.PlainRails) (r p pj : Nat) : (s.report r p pj).PlainRails
    ∧ ∀ i, ((s.report r p pj).meter i).total = (s.meter i).total + reportPart i (r, p, pj) := by
  obtain ⟨works, gain⟩ := plain r
  have scaled : (s.rail r).scaled pj = pj := by
    rw [Rail.scaled, gain]
    exact Nat.mul_div_cancel pj (by decide)
  have rails : ∀ (g : Rail → Rail), (∀ x, (g x).fault = x.fault ∧ (g x).gain = x.gain) → (s.onRail r g).PlainRails := fun g hg k => by
    rw [State.onRail_rail]
    split
    · rw [(hg _).1, (hg _).2]
      exact plain r
    · exact plain k
  unfold State.report
  dsimp only
  rw [works, scaled]
  simp only [Bool.false_eq_true, if_false]
  generalize hu : s.onRail r _ = u
  have plain' : u.PlainRails := hu ▸ rails _ fun _ => ⟨rfl, rfl⟩
  have same : ∀ i, u.meter i = s.meter i := fun i => by
    rw [← hu]
    rfl
  split
  · next none_ =>
    refine ⟨plain', fun i => ?_⟩
    rw [State.addEnergy_total, same, reportPart, if_neg (c := p < 24 ∧ mPolder p = i) (by omega), Nat.add_zero, Nat.add_assoc]
  · next some_ =>
    refine ⟨plain', fun i => ?_⟩
    have apart : ∀ (v : State) m, State.meter { v with ledger := { v.ledger with attributed := m } } i = v.meter i := fun _ _ => rfl
    rw [State.addTo_total, apart, State.addEnergy_total, same, reportPart]
    simp only [Nat.not_le.1 some_, true_and, Nat.add_assoc]

theorem State.reports_total (l : List Report) (plain : s.PlainRails) (i : Nat) :
    ((l.foldl (fun s r => s.report r.1 r.2.1 r.2.2) s).meter i).total = (s.meter i).total + sumOf (l.map (reportPart i)) := by
  induction l generalizing s with
  | nil => rfl
  | cons x l ih =>
    obtain ⟨plain', total⟩ := State.report_plain plain x.1 x.2.1 x.2.2
    rw [List.foldl_cons, ih plain', total, List.map_cons, sumOf_eq_sum, sumOf_eq_sum, List.sum_cons, Nat.add_assoc]

theorem State.reports_sansReports (l : List Report) (s : State) :
    (l.foldl (fun s r => s.report r.1 r.2.1 r.2.2) s).sansReports = s.sansReports := by
  induction l generalizing s with
  | nil => rfl
  | cons x l ih => exact (ih _).trans (s.report_sansReports ..)

/-- Of a list, what stands for those that are meant. -/
theorem sumOf_filter {α : Type} (keep : α → Bool) (f : α → Nat) (l : List α) :
    sumOf ((l.filter keep).map f) = sumOf (l.map fun x => if keep x then f x else 0) := by
  induction l with
  | nil => rfl
  | cons x l ih =>
    rw [sumOf_eq_sum, sumOf_eq_sum] at ih ⊢
    rw [List.map_cons, List.sum_cons, ← ih, List.filter_cons]
    split <;> simp [*]

theorem railMeter_cases (r : Nat) : railMeter r ≠ mModule ∧ (∀ n < 24, railMeter r ≠ mPolder n)
    ∧ ∀ k < 84, (railMeter r = railMeter k ↔ r = k) := by
  have place : ∀ k, railMeter k = if k < 24 then 1 + k else if k < 84 then 25 + k else 109 := fun k => by
    simp only [railMeter, mHalf, mUcm, mEdge, mLink, mBase, mStanding]
    split_ifs <;> omega
  rw [place]
  refine ⟨?_, fun n hn => ?_, fun k hk => ?_⟩
  · simp only [mModule]
    split_ifs <;> omega
  · simp only [mPolder]
    split_ifs <;> omega
  · rw [place]
    split_ifs <;> omega

theorem reportPart_rail {r : Nat} (hr : r < 84) (x : Report) : reportPart (railMeter r) x = if x.1 == r then x.2.2 else 0 := by
  have own := (railMeter_cases x.1).2.2 r hr
  have module_ := (railMeter_cases r).1.symm
  have polder : ¬ (x.2.1 < 24 ∧ mPolder x.2.1 = railMeter r) := fun h => (railMeter_cases r).2.1 _ h.1 h.2.symm
  simp only [reportPart, own, module_, polder, if_false, Nat.add_zero, beq_iff_eq]

theorem reportPart_module (x : Report) : reportPart mModule x = x.2.2 := by
  have rail := (railMeter_cases x.1).1
  have polder : ¬ (x.2.1 < 24 ∧ mPolder x.2.1 = mModule) := fun h => by simp [mPolder, mModule] at h
  simp only [reportPart, rail, polder, if_false, if_true, Nat.add_zero, Nat.zero_add]

theorem reportPart_polder {n : Nat} (hn : n < 24) (x : Report) : reportPart (mPolder n) x = if x.2.1 == n then x.2.2 else 0 := by
  have rail := (railMeter_cases x.1).2.1 n hn
  have module_ : mModule ≠ mPolder n := by simp only [mPolder, mModule]; omega
  have polder : (x.2.1 < 24 ∧ mPolder x.2.1 = mPolder n) ↔ x.2.1 = n := by simp only [mPolder]; omega
  simp only [reportPart, rail, module_, polder, if_false, Nat.zero_add, beq_iff_eq]

end

/-! ### The units' own counts (R293, R347) -/

section
variable (s : State)

/-- A pass that resets units again and again resets each of them. -/
theorem State.each_resets {β : Type} {V : State → Nat → β} {g : State → Nat → State} {φ : β → β} (idem : ∀ x, φ (φ x) = φ x)
    (at_ : ∀ u x y, V (g u x) y = if x = y then φ (V u x) else V u y) (l : List Nat) (y : Nat) :
    V (s.each l g) y = if y ∈ l then φ (V s y) else V s y := by
  induction l generalizing s with
  | nil => rfl
  | cons x l ih =>
    refine (ih (g s x)).trans ?_
    rw [at_]
    by_cases hx : x = y
    · subst hx
      simp [idem]
    · simp [hx, Ne.symm hx]

theorem State.tcore_listed (c : Nat) (some_ : (s.tcore c).act ≠ {}) : c ∈ (s.tcores.filter fun e => e.2.act != {}).map Prod.fst := by
  rcases Sparse.get_mem (TCore.untouched (s.halfDie (halfOf (clusterOf c))) c) s.tcores c with listed | fresh
  · exact List.mem_map.2 ⟨_, List.mem_filter.2 ⟨listed, by simpa [State.tcore, State.vcore] using some_⟩, rfl⟩
  · refine absurd ?_ some_
    rw [State.tcore, fresh, TCore.untouched]
    split
    · rfl
    · dsimp only
      split <;> rfl

theorem State.vcore_listed (c : Nat) (some_ : (s.vcore c).act ≠ {}) : c ∈ (s.vcores.filter fun e => e.2.act != {}).map Prod.fst := by
  rcases Sparse.get_mem (VCore.untouched (s.halfDie (halfOf (clusterOf c))) c) s.vcores c with listed | fresh
  · exact List.mem_map.2 ⟨_, List.mem_filter.2 ⟨listed, by simpa [State.tcore, State.vcore] using some_⟩, rfl⟩
  · refine absurd ?_ some_
    rw [State.vcore, fresh, VCore.untouched]
    split
    · rfl
    · dsimp only
      split <;> rfl

/-- The cores whose counts start anew. -/
def State.coresAnew : State :=
  let s := s.each ((s.tcores.filter fun e => e.2.act != {}).map Prod.fst) fun s c => s.onTcore c fun x => { x with act := {} }
  s.each ((s.vcores.filter fun e => e.2.act != {}).map Prod.fst) fun s c => s.onVcore c fun x => { x with act := {} }

/-- The module without its T-cores and V-cores. -/
def State.sansCores : State := { s with tcores := [], vcores := [] }

theorem State.coresAnew_sansCores : s.coresAnew.sansCores = s.sansCores :=
  (State.each_keeps (F := State.sansCores) (g := fun s c => s.onVcore c fun x => { x with act := {} }) (fun _ _ => rfl) _ _).trans
    (State.each_keeps (F := State.sansCores) (g := fun s c => s.onTcore c fun x => { x with act := {} }) (fun _ _ => rfl) _ s)

theorem State.coresAnew_tcore (c : Nat) : s.coresAnew.tcore c = { s.tcore c with act := {} } := by
  refine (State.each_keeps (F := (State.tcore · c)) (g := fun s c => s.onVcore c fun x => { x with act := {} }) (fun _ _ => rfl) _ _).trans ?_
  refine (State.each_resets (V := State.tcore) (φ := fun x => { x with act := {} }) s (fun _ => rfl)
    (fun u x y => State.onTcore_tcore ..) _ c).trans ?_
  split
  · rfl
  · next unlisted =>
    have none_ : (s.tcore c).act = {} := by_contra fun some_ => unlisted (s.tcore_listed c some_)
    rw [← none_]

theorem State.coresAnew_vcore (c : Nat) : s.coresAnew.vcore c = { s.vcore c with act := {} } := by
  have before (l : List Nat) (k : Nat) : (s.each l fun s c => s.onTcore c fun x => { x with act := {} }).vcore k = s.vcore k :=
    State.each_keeps (F := (State.vcore · k)) (g := fun s c => s.onTcore c fun x => { x with act := {} }) (fun _ _ => rfl) l s
  refine (State.each_resets (V := State.vcore) (φ := fun x => { x with act := {} }) _ (fun _ => rfl)
    (fun u x y => State.onVcore_vcore ..) _ c).trans ?_
  rw [before]
  split
  · rfl
  · next unlisted =>
    have none_ : (s.vcore c).act = {} := by_contra fun some_ => unlisted ((State.vcore_listed _ c (by rwa [before])))
    rw [← none_]

/-- Every unit's counts start anew, and nothing else differs. -/
theorem State.clearActivity_spec (c : Nat) : s.clearActivity.tcore c = { s.tcore c with act := {} }
    ∧ s.clearActivity.vcore c = { s.vcore c with act := {} } ∧ s.clearActivity.edgeCh c = { s.edgeCh c with act := [] }
    ∧ s.clearActivity.ucmDie c = { s.ucmDie c with act := [] } ∧ s.clearActivity.link c = { s.link c with act := [] }
    ∧ s.clearActivity.engine c = { s.engine c with act := [] } ∧ s.clearActivity.ledger = s.ledger := by
  have kept := s.coresAnew_sansCores
  have tcore := s.coresAnew_tcore c
  have vcore := s.coresAnew_vcore c
  have formed : s.clearActivity = { s.coresAnew with
    ucmDies := Sparse.mapWhere {} (fun _ => true) (fun x => { x with act := [] }) s.coresAnew.ucmDies
    channels := Sparse.mapWhere {} (fun _ => true) (fun x => { x with act := [] }) s.coresAnew.channels
    engines := Sparse.mapWhere {} (fun _ => true) (fun x => { x with act := [] }) s.coresAnew.engines
    links := Sparse.mapWhere {} (fun _ => true) (fun x => { x with act := [] }) s.coresAnew.links } := rfl
  rw [formed]
  generalize s.coresAnew = u at kept tcore vcore ⊢
  have dies : u.ucmDies = s.ucmDies := (congrArg State.ucmDies kept :)
  have channels : u.channels = s.channels := (congrArg State.channels kept :)
  have engines : u.engines = s.engines := (congrArg State.engines kept :)
  have links : u.links = s.links := (congrArg State.links kept :)
  rw [dies, channels, engines, links]
  exact ⟨tcore, vcore, (Sparse.get_mapWhere ({} : EdgeCh) (fun _ => true) (fun x => { x with act := [] }) rfl s.channels c).trans (if_pos rfl),
    (Sparse.get_mapWhere ({} : UcmDie) (fun _ => true) (fun x => { x with act := [] }) rfl s.ucmDies c).trans (if_pos rfl),
    (Sparse.get_mapWhere ({} : Link) (fun _ => true) (fun x => { x with act := [] }) rfl s.links c).trans (if_pos rfl),
    (Sparse.get_mapWhere ({} : Engine) (fun _ => true) (fun x => { x with act := [] }) rfl s.engines c).trans (if_pos rfl),
    (congrArg State.ledger kept :)⟩

theorem State.activity_cores (es : List Nat) {h : Nat} (hh : h < 24) :
    (h, s.polderOf h, (s.coreActivity h).1 / 1000) ∈ s.activity es
      ∧ (24 + h / 2, s.polderOf h, 1760 * (s.coreActivity h).2 / 1000) ∈ s.activity es := by
  have cores : ∀ x, x ∈ [(h, s.polderOf h, (s.coreActivity h).1 / 1000), (24 + h / 2, s.polderOf h, 1760 * (s.coreActivity h).2 / 1000)] →
      x ∈ s.activity es := fun x hx =>
    List.mem_append_left _ (List.mem_append_left _ (List.mem_append_left _ (List.mem_flatMap.2 ⟨h, List.mem_range.2 hh, hx⟩)))
  exact ⟨cores _ (by simp), cores _ (by simp)⟩

/-- The state after the reports `l` of a step (R347). -/
def State.afterReports (l : List Report) : State := (l.foldl (fun s r => s.report r.1 r.2.1 r.2.2) s.clearActivity).closeStep

theorem State.afterReports_spec (l : List Report) : (s.afterReports l).ledger.steps = s.ledger.steps + 1
    ∧ ∀ c, (s.afterReports l).tcore c = { s.tcore c with act := {} } ∧ (s.afterReports l).vcore c = { s.vcore c with act := {} }
      ∧ (s.afterReports l).edgeCh c = { s.edgeCh c with act := [] } ∧ (s.afterReports l).ucmDie c = { s.ucmDie c with act := [] }
      ∧ (s.afterReports l).link c = { s.link c with act := [] } ∧ (s.afterReports l).engine c = { s.engine c with act := [] } := by
  have kept := State.reports_sansReports l s.clearActivity
  have anew := s.clearActivity_spec
  have closed : ∀ u : State, u.closeStep.ledger.steps = u.ledger.steps + 1
      ∧ u.closeStep.tcore = u.tcore ∧ u.closeStep.vcore = u.vcore ∧ u.closeStep.edgeCh = u.edgeCh
      ∧ u.closeStep.ucmDie = u.ucmDie ∧ u.closeStep.link = u.link ∧ u.closeStep.engine = u.engine :=
    fun _ => ⟨rfl, rfl, rfl, rfl, rfl, rfl, rfl⟩
  unfold State.afterReports
  generalize l.foldl (fun s r => s.report r.1 r.2.1 r.2.2) s.clearActivity = u at kept ⊢
  obtain ⟨steps, tcore, vcore, edgeCh, ucmDie, link, engine⟩ := closed u
  rw [steps, tcore, vcore, edgeCh, ucmDie, link, engine]
  refine ⟨?_, fun c => ?_⟩
  · have same : u.ledger.steps = s.clearActivity.ledger.steps := (congrArg (fun w => w.ledger.steps) kept :)
    rw [same, (anew 0).2.2.2.2.2.2]
  · obtain ⟨tcore', vcore', edgeCh', ucmDie', link', engine', -⟩ := anew c
    exact ⟨(congrArg (State.tcore · c) kept :).trans tcore', (congrArg (State.vcore · c) kept :).trans vcore',
      (congrArg (State.edgeCh · c) kept :).trans edgeCh', (congrArg (State.ucmDie · c) kept :).trans ucmDie',
      (congrArg (State.link · c) kept :).trans link', (congrArg (State.engine · c) kept :).trans engine'⟩

theorem State.clearActivity_ledger : s.clearActivity.ledger = s.ledger := (s.clearActivity_spec 0).2.2.2.2.2.2

theorem State.afterReports_total (l : List Report) (plain : s.PlainRails) (i : Nat) :
    ((s.afterReports l).meter i).total = (s.meter i).total + sumOf (l.map (reportPart i)) := by
  have plain' : s.clearActivity.PlainRails := fun r => by
    have same : s.clearActivity.rail r = s.rail r := congrArg (fun w : Ledger => Sparse.get ({} : Rail) w.rails r) s.clearActivity_ledger
    rw [same]
    exact plain r
  have same : s.clearActivity.meter i = s.meter i := congrArg (fun w : Ledger => Sparse.get ({} : Meter) w.meters i) s.clearActivity_ledger
  unfold State.afterReports
  rw [State.closeStep_total, State.reports_total l plain', same]

theorem exec_estimatorReport (es : List Nat) (on : s.power.aon = true) (awake : s.power.pkg ≠ .p3) :
    exec (.estimatorReport es) s = .next (s.afterReports (s.activity es)) := by
  have start : exec (.estimatorReport es) s = execEstimatorReport es s := rfl
  rw [start]
  unfold execEstimatorReport
  rw [if_neg (by simp [on])]
  dsimp only
  rw [if_neg (by simpa using awake)]
  rfl

theorem exec_estimatorReport_p3 (es : List Nat) (on : s.power.aon = true) (asleep : s.power.pkg = .p3) :
    exec (.estimatorReport es) s = .next (s.afterReports []) := by
  have start : exec (.estimatorReport es) s = execEstimatorReport es s := rfl
  rw [start]
  unfold execEstimatorReport
  rw [if_neg (by simp [on])]
  dsimp only
  rw [if_pos (by simp [asleep])]
  rfl

/-- The counts of 10 µs and what they add (R346, R347). -/
theorem estimatorReport_counts (h : Nat) (es : List Nat) (on : s.power.aon = true) (awake : s.power.pkg ≠ .p3) (plain : s.PlainRails) :
    Answers (.estimatorReport es) s fun t =>
      let sum (keep : Report → Bool) : Nat := sumOf (((s.activity es).filter keep).map fun x => x.2.2)
      (∀ r < 84, (t.meter (railMeter r)).total = (s.meter (railMeter r)).total + sum (fun x => x.1 == r))
        ∧ (t.meter mModule).total = (s.meter mModule).total + sum (fun _ => true)
        ∧ (∀ n < 24, (t.meter (mPolder n)).total = (s.meter (mPolder n)).total + sum (fun x => x.2.1 == n))
        ∧ (h < 24 → (h, s.polderOf h, (s.coreActivity h).1 / 1000) ∈ s.activity es
          ∧ (24 + h / 2, s.polderOf h, 1760 * (s.coreActivity h).2 / 1000) ∈ s.activity es)
        ∧ (∀ c, t.tcore c = { s.tcore c with act := {} } ∧ t.vcore c = { s.vcore c with act := {} }
          ∧ t.edgeCh c = { s.edgeCh c with act := [] } ∧ t.ucmDie c = { s.ucmDie c with act := [] }
          ∧ t.link c = { s.link c with act := [] } ∧ t.engine c = { s.engine c with act := [] })
        ∧ t.ledger.steps = s.ledger.steps + 1 := by
  obtain ⟨steps, anew⟩ := s.afterReports_spec (s.activity es)
  have total := s.afterReports_total (s.activity es) plain
  refine ⟨_, exec_estimatorReport s es on awake, fun r hr => ?_, ?_, fun n hn => ?_, s.activity_cores es, anew, steps⟩
  · dsimp only
    rw [total, sumOf_filter, funext (reportPart_rail hr)]
  · dsimp only
    rw [total, sumOf_filter, funext reportPart_module]
    rfl
  · dsimp only
    rw [total, sumOf_filter, funext (reportPart_polder hn)]

/-! ### Telemetry (R348, R350, R354, R356) -/

/-- The module without what a telemetry sample counts. -/
def State.sansEnergy : State := { s with fresh := 0, ledger := { s.ledger with rails := [], attributed := [], meters := [], overLow := none } }

theorem State.railMs_sansEnergy (x : RailSample) (loss rails : Nat) : (s.railMs x loss rails).sansEnergy = s.sansEnergy := by
  have counted : ∀ (u : State) i n, (u.addTo i n).sansEnergy = u.sansEnergy := fun _ _ _ => rfl
  have energy : ∀ (u : State) i n, (u.addEnergy i n).sansEnergy = u.sansEnergy := fun _ _ _ => rfl
  have last : ∀ (u : State) g m, State.sansEnergy { ({ u with fresh := u.fresh + 1 } : State).onRail x.rail g with
      ledger := { (({ u with fresh := u.fresh + 1 } : State).onRail x.rail g).ledger with attributed := m } } = u.sansEnergy :=
    fun _ _ _ => rfl
  unfold State.railMs
  dsimp only
  refine (last ..).trans ?_
  refine State.ite_keeps (F := State.sansEnergy) ?_ ?_
  · exact State.ite_keeps (F := State.sansEnergy) ((counted ..).trans (energy ..)) (energy ..)
  · refine (State.each_keeps (F := State.sansEnergy) (fun u n => ?_) _ _).trans (energy ..)
    exact State.ite_keeps (F := State.sansEnergy) rfl (State.ite_keeps (F := State.sansEnergy) (counted ..) (counted ..))

theorem State.telemetryEnergy_sansEnergy (m : Telemetry) : (s.telemetryEnergy m).sansEnergy = s.sansEnergy := by
  have energy : ∀ (u : State) i n, (u.addEnergy i n).sansEnergy = u.sansEnergy := fun _ _ _ => rfl
  have all : ∀ (l : List RailSample) (loss rails : Nat) (u : State),
      (l.foldl (fun s x => s.railMs x loss rails) u).sansEnergy = u.sansEnergy := fun l loss rails => by
    induction l with
    | nil => exact fun _ => rfl
    | cons x l ih => exact fun u => (ih _).trans (u.railMs_sansEnergy x loss rails)
  unfold State.telemetryEnergy
  dsimp only
  exact State.ite_keeps (F := State.sansEnergy) (energy ..)
    (State.ite_keeps (F := State.sansEnergy) ((energy ..).trans (all ..)) (all ..))

/-- What a telemetry sample notes beside the energy. -/
theorem State.telemetry_sansEnergy (m : Telemetry) : (s.telemetry m).sansEnergy = State.sansEnergy { s with
    power := { s.power with vin := m.vin, vinMin := m.vinMin, iin := m.iin }
    ledger := { s.ledger with supplyCap := m.vinMin * s.ledger.current } } := by
  generalize hu : ({ s with power := { s.power with vin := m.vin, vinMin := m.vinMin, iin := m.iin } } : State) = u
  have kept := u.telemetryEnergy_sansEnergy m
  have formed : s.telemetry m = State.noteLow { u.telemetryEnergy m with
      ledger := { (u.telemetryEnergy m).ledger with supplyCap := m.vinMin * (u.telemetryEnergy m).ledger.current } } := by
    rw [← hu]
    rfl
  rw [formed]
  generalize u.telemetryEnergy m = v at kept ⊢
  have supplied : ∀ w : State, State.sansEnergy (State.noteLow { w with
      ledger := { w.ledger with supplyCap := m.vinMin * w.ledger.current } })
      = { w.sansEnergy with ledger := { w.sansEnergy.ledger with supplyCap := m.vinMin * w.sansEnergy.ledger.current } } :=
    fun _ => rfl
  rw [supplied, kept, ← hu]
  rfl

theorem State.telemetry_total (m : Telemetry) (asleep : s.power.pkg = .p3) (i : Nat) : ((s.telemetry m).meter i).total
    = (s.meter i).total + (if mStanding = i then inputPj m.vin m.iin else 0) + if mModule = i then inputPj m.vin m.iin else 0 := by
  generalize hu : ({ s with power := { s.power with vin := m.vin, vinMin := m.vinMin, iin := m.iin } } : State) = u
  have same : u.meter i = s.meter i := hu ▸ rfl
  have asleep' : u.power.pkg = .p3 := hu ▸ asleep
  have energy : u.telemetryEnergy m = u.addEnergy mStanding (inputPj m.vin m.iin) := by
    unfold State.telemetryEnergy
    exact if_pos (by simp [asleep'])
  have formed : (s.telemetry m).meter i = (u.telemetryEnergy m).meter i := by
    rw [← hu]
    rfl
  rw [formed, energy, State.addEnergy_total, same]

theorem exec_telemetryUpdate (m : Telemetry) (on : s.power.aon = true) : Answers (.telemetryUpdate m) s fun t =>
    t.power.vin = m.vin ∧ t.power.vinMin = m.vinMin ∧ t.power.iin = m.iin ∧ t.ledger.supplyCap = m.vinMin * s.ledger.current
      ∧ (s.boot.done = true → s.ledger.capKnown = true → s.trust.running = true →
        t.ledger.effCap = Ledger.smallestWatts { s.ledger with supplyCap := m.vinMin * s.ledger.current })
      ∧ (s.power.pkg = .p3 → (t.meter mModule).total = (s.meter mModule).total + inputPj m.vin m.iin
        ∧ (t.meter mStanding).total = (s.meter mStanding).total + inputPj m.vin m.iin) := by
  have start : exec (.telemetryUpdate m) s = execTelemetryUpdate m s := rfl
  have ran : exec (.telemetryUpdate m) s = .next (if !(s.telemetry m).boot.done then s.telemetry m else (s.telemetry m).recap) := by
    rw [start]
    unfold execTelemetryUpdate
    rw [if_neg (by simp [on])]
    rfl
  have noted := s.telemetry_sansEnergy m
  have total := s.telemetry_total m
  generalize s.telemetry m = u at ran noted total
  have done : u.boot.done = s.boot.done := (congrArg (fun w => w.boot.done) noted :)
  have planned : State.sansPlan (if !u.boot.done then u else u.recap) = u.sansPlan :=
    State.ite_keeps (F := State.sansPlan) rfl u.recap_sansPlan
  refine ⟨_, ran, (congrArg (fun w => w.power.vin) planned :).trans (congrArg (fun w => w.power.vin) noted :),
    (congrArg (fun w => w.power.vinMin) planned :).trans (congrArg (fun w => w.power.vinMin) noted :),
    (congrArg (fun w => w.power.iin) planned :).trans (congrArg (fun w => w.power.iin) noted :),
    (congrArg (fun w => w.ledger.supplyCap) planned :).trans (congrArg (fun w => w.ledger.supplyCap) noted :),
    fun up known running => ?_, fun asleep => ?_⟩
  · rw [done, up]
    have known' : u.ledger.capKnown = true := (congrArg (fun w => w.ledger.capKnown) noted :).trans known
    have running' : u.trust.running = true := (congrArg (fun w => w.trust.running) noted :).trans running
    exact (u.recap_effCap known' running').trans (Ledger.smallestWatts_congr (congrArg (fun w => w.ledger.cap) noted :)
      (congrArg (fun w => w.ledger.thermalCap) noted :) (congrArg (fun w => w.ledger.supplyCap) noted :))
  · have meter : ∀ i, State.meter (if !u.boot.done then u else u.recap) i = u.meter i := fun i =>
      (congrArg (State.meter · i) planned :)
    rw [meter, meter, total asleep, total asleep]
    simp [mModule, mStanding]

end
end Sys2Proof.Machine
end

section
/-! The peak limiter, the adaptive voltage loop, rotation, the flow monitor's edges and the hardware trip (R363, R379, R382,
R383, R398). -/

namespace Sys2Proof.Machine

/-! ### The peak limiter (R363) -/

/-- A polder that loses a step: one below the step in force, or below one already commanded. -/
def Polder.peaked (p : Polder) : Polder := { p with peakDown := p.peakDown + (p.want - (min p.want p.step - 1)) }

/-- One running polder at the peak limiter. -/
def State.peakOne (s : State) (n : Nat) : State := (s.onPolder n Polder.peaked).restep n

section
variable {s : State}

theorem State.cdcDown_of_sansRails {t : State} (h : t.sansRails = s.sansRails) : t.cdcDown = s.cdcDown := (congrArg State.cdcDown h :)

theorem State.peakLow_of_sansRails {t : State} (h : t.sansRails = s.sansRails) : t.ledger.peakLow = s.ledger.peakLow :=
  (congrArg (fun w => w.ledger.peakLow) h :)

theorem State.peakOne_sansRails (s : State) (n : Nat) : (s.peakOne n).sansRails = s.sansRails :=
  (State.restep_sansRails _ n).trans rfl

theorem State.peakOne_polder (s : State) (n k : Nat) : (s.peakOne n).polder k
    = if n = k then (s.polder n).peaked.restepped s.cdcDown else s.polder k := by
  unfold State.peakOne
  rw [State.restep_polder]
  have down : (s.onPolder n Polder.peaked).cdcDown = s.cdcDown := rfl
  rw [down]
  by_cases same : n = k
  · subst same
    rw [if_pos rfl, if_pos rfl, State.onPolder_polder, if_pos rfl]
  · rw [if_neg same, if_neg same, State.onPolder_polder, if_neg same]

theorem State.peakAll_polder {l : List Nat} (hl : l.Nodup) (s : State) (k : Nat) : (s.each l State.peakOne).polder k
    = if k ∈ l then (s.polder k).peaked.restepped s.cdcDown else s.polder k := by
  have down : ∀ (u : State) n, (u.peakOne n).cdcDown = u.cdcDown := fun u n => State.cdcDown_of_sansRails (u.peakOne_sansRails n)
  have pass := State.each_at (V := State.wanting) (g := State.peakOne) (φ := fun _ w => (w.1.peaked.restepped w.2, w.2))
    (fun u n => by
      unfold State.wanting
      rw [State.peakOne_polder, if_pos rfl, down])
    (fun u n k hk => by
      unfold State.wanting
      rw [State.peakOne_polder, if_neg hk.symm, down]) l s k hl
  refine (congrArg Prod.fst pass).trans ?_
  split <;> rfl

theorem Polder.restepped_peaked (x : Polder) (down : Sparse Bool) :
    (x.peaked.restepped down).peakDown = x.peakDown + (x.want - (min x.want x.step - 1))
      ∧ (x.job.isSome = true → (x.peaked.restepped down).want = min x.want x.step - 1) := by
  have kept : (x.peaked.restepped down).peakDown = x.peaked.peakDown ∧ (x.peaked.restepped down).want = x.peaked.want := by
    unfold Polder.restepped
    split <;> exact ⟨rfl, rfl⟩
  refine ⟨kept.1.trans rfl, fun job => kept.2.trans ?_⟩
  obtain ⟨j, job⟩ := Option.isSome_iff_exists.1 job
  have before : x.want = j.step - (x.peakDown + x.quotaDown) := by rw [Polder.want, job]; rfl
  have after : x.peaked.want = j.step - (x.peakDown + (x.want - (min x.want x.step - 1)) + x.quotaDown) := by
    have same : x.peaked.job = x.job := rfl
    rw [Polder.want, same, job]
    rfl
  rw [after]
  omega

theorem exec_peakLimiter (high : s.ledger.peak * 1000000000 < sumOf (s.meter mModule).fine) : Answers .peakLimiter s fun t =>
    (∀ n < 24, (s.polder n).state = .running → (t.polder n).peakDown
        = (s.polder n).peakDown + ((s.polder n).want - (min (s.polder n).want (s.polder n).step - 1))
      ∧ ((s.polder n).job.isSome = true → (t.polder n).want = min (s.polder n).want (s.polder n).step - 1))
      ∧ (∀ n, (s.polder n).state ≠ .running → t.polder n = s.polder n) ∧ t.ledger.peakLow = none := by
  have start : exec .peakLimiter s = execPeakLimiter s := rfl
  generalize hu : State.countUp { s with ledger := { s.ledger with peakLow := none } } cPeakLimit = u
  have polders : ∀ n, u.polder n = s.polder n := fun n => hu ▸ rfl
  have low : u.ledger.peakLow = none := hu ▸ rfl
  have ran : exec .peakLimiter s = .next (u.each u.running State.peakOne) := by
    rw [start]
    unfold execPeakLimiter
    dsimp only
    rw [if_pos high, hu]
    rfl
  have member : ∀ n, n ∈ u.running ↔ n < 24 ∧ (s.polder n).state = .running := fun n => by
    simp [State.running, polders]
  have nodup : u.running.Nodup := List.nodup_range.filter _
  have polder := State.peakAll_polder nodup u
  refine ⟨_, ran, fun n hn running => ?_, fun n idle => ?_, ?_⟩
  · rw [polder, if_pos ((member n).2 ⟨hn, running⟩), polders]
    exact Polder.restepped_peaked ..
  · rw [polder, if_neg (fun h => idle ((member n).1 h).2), polders]
  · exact (State.each_keeps (F := fun w => w.ledger.peakLow)
      (fun v n => State.peakLow_of_sansRails (v.peakOne_sansRails n)) _ u).trans low

/-! ### The adaptive voltage loop (R367, R398) -/

theorem bit_orPow (v i : Nat) : bit (v ||| 2 ^ i) i = true := by
  rw [bit_eq_testBit, Nat.testBit_or, Nat.testBit_two_pow_self, Bool.or_true]

section
variable {h : Nat} {up : Bool} {v : Int} (on : (s.halfDie h).power ≠ .off)
  (target : (if up then (s.halfDie h).avs + 5 else (s.halfDie h).avs - 5) = v)
include on target

theorem exec_avsLoop_inside (lo : s.ledger.avs.lo ≤ v) (hi : v ≤ s.ledger.avs.hi) : Answers (.avsLoop h up) s fun t =>
    t.halfDie h = { s.halfDie h with avsHeld := false } ∧ t.rail h = (s.rail h).ask { up := up, avs := some v }
      ∧ ∀ k, k ≠ h → t.halfDie k = s.halfDie k ∧ t.rail k = s.rail k := by
  have start : exec (.avsLoop h up) s = execAvsLoop h up s := rfl
  have frozen : ∀ (u : State) k, u.freezeAvs.halfDie k = u.halfDie k ∧ u.freezeAvs.rail k = u.rail k := fun _ _ => ⟨rfl, rfl⟩
  have others : ∀ (u : State) g k, (u.onRail h g).halfDie k = u.halfDie k := fun _ _ _ => rfl
  have rails : ∀ (u : State) g k, (u.onHalfDie h g).rail k = u.rail k := fun _ _ _ => rfl
  refine ⟨((s.onHalfDie h fun x => { x with avsHeld := false }).freezeAvs).onRail h fun r => r.ask { up := up, avs := some v }, ?_,
    ?_, ?_, fun k hk => ⟨?_, ?_⟩⟩
  · rw [start]
    unfold execAvsLoop
    dsimp only
    rw [if_neg (by simpa using on), target, if_neg (by simp; omega)]
  · rw [others, (frozen _ _).1, State.onHalfDie_halfDie, if_pos rfl]
  · rw [State.onRail_rail, if_pos rfl, (frozen _ _).2, rails]
  · rw [others, (frozen _ _).1, State.onHalfDie_halfDie, if_neg hk.symm]
  · rw [State.onRail_rail, if_neg hk.symm, (frozen _ _).2, rails]

theorem exec_avsLoop_bound (out : v < s.ledger.avs.lo ∨ s.ledger.avs.hi < v) : Answers (.avsLoop h up) s fun t =>
    t.halfDie h = { s.halfDie h with avsHeld := true } ∧ bit t.ledger.frozen 1 = true ∧ ∀ k, k ≠ h → t.halfDie k = s.halfDie k := by
  have start : exec (.avsLoop h up) s = execAvsLoop h up s := rfl
  generalize hu : (s.onHalfDie h fun x => { x with avsHeld := true }) = u
  have halfDie : ∀ k, u.halfDie k = if h = k then { s.halfDie h with avsHeld := true } else s.halfDie k := fun k => by
    rw [← hu, State.onHalfDie_halfDie]
  have own : u.halfDie h = { s.halfDie h with avsHeld := true } := (halfDie h).trans (if_pos rfl)
  have held : (u.halfDies.any fun h => h.2.avsHeld) = true := by
    refine List.any_eq_true.2 ?_
    rcases Sparse.get_mem ({} : HalfDie) u.halfDies h with listed | fresh
    · exact ⟨_, listed, (congrArg HalfDie.avsHeld own :)⟩
    · exact absurd (show false = true from congrArg HalfDie.avsHeld (fresh.symm.trans own)) (by decide)
  have frozen : u.freezeAvs.ledger.frozen = u.ledger.frozen ||| 2 ^ 1 := by
    have formed : u.freezeAvs = u.freeze 1 (u.ledger.avs.lo == u.ledger.avs.hi || u.halfDies.any fun h => h.2.avsHeld) := rfl
    rw [formed, held, Bool.or_true]
    rfl
  have same : ∀ k, u.freezeAvs.halfDie k = u.halfDie k := fun _ => rfl
  refine ⟨u.freezeAvs, ?_, (same h).trans own, ?_, fun k hk => (same k).trans ((halfDie k).trans (if_neg hk.symm))⟩
  · rw [start]
    unfold execAvsLoop
    dsimp only
    rw [if_neg (by simpa using on), target, if_pos (by simpa using out), hu]
  · rw [frozen]
    exact bit_orPow _ _

end

/-! ### Rotation (R382) -/

/-- A group of equal polders moves to its next member. -/
def State.rotateOne (s : State) (n : Nat) : State :=
  let g := s.equalPolders n
  if g.head? != some n || g.length < 2 then s
  else
    let key := (s.kin n).headD n
    let next := (g.find? fun m => decide (s.rotationAt key < m)).getD n
    { s with thermal := { s.thermal with rotatedTo := Sparse.set 31 s.thermal.rotatedTo key next } }

/-- The module without the members that rotation uses. -/
def State.sansRotation (s : State) : State := { s with thermal := { s.thermal with rotatedTo := [] } }

theorem State.rotateOne_sansRotation (u : State) (n : Nat) : (u.rotateOne n).sansRotation = u.sansRotation := by
  unfold State.rotateOne
  exact State.ite_keeps (F := State.sansRotation) rfl rfl

theorem nextInterval_bounds {lo hi : Nat} (order : lo ≤ hi) (now : Nat) (hot cool : Bool) :
    lo ≤ (nextInterval lo hi now hot cool).1 ∧ (nextInterval lo hi now hot cool).1 ≤ hi := by
  simp only [nextInterval]
  omega

theorem exec_rotation (rotate : s.thermal.rotate = true) (running : s.trust.running = true)
    (order : s.ledger.rotation.lo ≤ s.ledger.rotation.hi) (lo : 0 ≤ s.ledger.rotation.lo) (hi : 0 < s.ledger.rotation.hi) :
    Answers .rotation s fun t => s.ledger.rotation.lo ≤ t.thermal.interval
      ∧ (t.thermal.interval : Int) ≤ s.ledger.rotation.hi ∧ t.thermal.rotHot = false ∧ t.thermal.rotWarm = false
      ∧ t = { s with thermal := { s.thermal with
            rotatedTo := t.thermal.rotatedTo
            interval := t.thermal.interval
            rotHot := false
            rotWarm := false }
                     ledger := { s.ledger with frozen := t.ledger.frozen } } := by
  have start : exec .rotation s = execRotation s := rfl
  have kept : (s.each (List.range 24) State.rotateOne).sansRotation = s.sansRotation :=
    State.each_keeps (F := State.sansRotation) (g := State.rotateOne) State.rotateOne_sansRotation _ s
  generalize hu : s.each (List.range 24) State.rotateOne = u at kept
  have ran : exec .rotation s = .next (State.freeze { u with thermal := { u.thermal with
      interval := (nextInterval s.ledger.rotation.lo.toNat s.ledger.rotation.hi.toNat u.thermal.interval u.thermal.rotHot (!u.thermal.rotWarm)).1
      rotHot := false
      rotWarm := false } } 4 (nextInterval s.ledger.rotation.lo.toNat s.ledger.rotation.hi.toNat u.thermal.interval u.thermal.rotHot
        (!u.thermal.rotWarm)).2) := by
    rw [start]
    unfold execRotation
    dsimp only
    rw [if_neg (by simp [rotate, running]; omega)]
    generalize hv : s.each (List.range 24) _ = v
    have same : v = u := hv.symm.trans ((congrArg (s.each (List.range 24)) (funext fun _ => funext fun _ => rfl)).trans hu)
    subst same
    exact rfl
  obtain ⟨low, high⟩ := nextInterval_bounds (lo := s.ledger.rotation.lo.toNat) (hi := s.ledger.rotation.hi.toNat) (by omega)
    u.thermal.interval u.thermal.rotHot (!u.thermal.rotWarm)
  generalize nextInterval s.ledger.rotation.lo.toNat s.ledger.rotation.hi.toNat u.thermal.interval u.thermal.rotHot (!u.thermal.rotWarm) = i
    at ran low high
  have formed : ∀ (v : State) (x : Nat × Bool), State.freeze { v with thermal := { v.thermal with interval := x.1, rotHot := false, rotWarm := false } } 4 x.2
      = { v.sansRotation with
          thermal := { v.sansRotation.thermal with
            rotatedTo := v.thermal.rotatedTo
            interval := x.1
            rotHot := false
            rotWarm := false }
          ledger := { v.sansRotation.ledger with frozen := (State.freeze v 4 x.2).ledger.frozen } } := fun _ _ => rfl
  rw [formed, kept] at ran
  refine ⟨_, ran, ?_, ?_, rfl, rfl, rfl⟩
  · change s.ledger.rotation.lo ≤ (i.1 : Int)
    omega
  · change (i.1 : Int) ≤ s.ledger.rotation.hi
    omega

/-! ### Edges of the flow monitor (R383, R484) -/

theorem exec_flowPulseEdge {h : Nat} (late : 20 ≤ h) (on : s.power.aon = true) : Answers (.flowPulseEdge h) s fun t =>
    t.thermal.flowing = true
      ∧ (t.thermal.armed = true ↔ s.thermal.armed = true ∨ 15 ≤ (s.thermal.edges.filter fun a => decide (a + h ≤ 1000000)).length)
      ∧ (∀ a ∈ t.thermal.edges, a ≤ 1000000) ∧ t.thermal.edges.getLast? = some 0
      ∧ t = { s with thermal := { s.thermal with edges := t.thermal.edges, armed := t.thermal.armed, flowing := true } } := by
  have start : exec (.flowPulseEdge h) s = execFlowPulseEdge h s := rfl
  have count : ((s.thermal.edges.map (· + h)).filter fun a => decide (a ≤ 1000000)).length
      = (s.thermal.edges.filter fun a => decide (a + h ≤ 1000000)).length := by
    rw [List.filter_map, List.length_map]
    rfl
  refine ⟨_, start.trans (if_neg (by simp [on]; omega)), rfl, ?_, fun a ha => ?_, ?_, rfl⟩
  · dsimp only
    rw [List.length_append, count]
    simp
  · obtain hm | hm := List.mem_append.1 (List.mem_of_mem_drop ha)
    · exact of_decide_eq_true (List.mem_filter.1 hm).2
    · rw [List.mem_singleton.1 hm]
      omega
  · dsimp only
    rw [List.getLast?_drop, List.length_append, if_neg (by simp), List.getLast?_append]
    rfl

/-! ### The hardware trip (R379, R405) -/

theorem State.interrupted_trust (s : State) (calm : s.committing = false) : s.interrupted.trust.flashImage = s.trust.flashImage := by
  unfold State.interrupted
  dsimp only
  rw [calm]
  split <;> rfl

theorem State.interrupted_fuses (s : State) (calm : s.trust.burning = false) : s.interrupted.fuses = s.fuses := by
  unfold State.interrupted
  dsimp only
  rw [calm]
  rfl

theorem State.interrupted_outside (s : State) : (s.interrupted.vault, s.interrupted.hostMem) = (s.vault, s.hostMem) := by
  unfold State.interrupted
  dsimp only
  split <;> rfl

theorem exec_hardwareTrip (kind unit : Nat) (on : s.power.aon = true) : Answers (.hardwareTrip kind unit) s fun t =>
    t.power.trip = some (kind, unit) ∧ t.power.aon = false
      ∧ t.trust.running = false ∧ (s.trust.burning = false → t.fuses = s.fuses)
      ∧ (s.committing = false → t.trust.flashImage = s.trust.flashImage) ∧ t.vault = s.vault
      ∧ t.ucm = [] ∧ t.edge = [] ∧ t.polders = [] ∧ t.hostMem = s.hostMem := by
  have start : exec (.hardwareTrip kind unit) s = execHardwareTrip kind unit s := rfl
  have outside := s.interrupted_outside
  exact ⟨_, start.trans (if_neg (by simp [on])), rfl, rfl, rfl, s.interrupted_fuses, s.interrupted_trust,
    congrArg Prod.fst outside, rfl, rfl, rfl, congrArg Prod.snd outside⟩

end
end Sys2Proof.Machine
end

section
/-! SUPPORT. The end of a link's requests (R281, R287, R437): what it leaves of the module, whatever an access to a descriptor
ring in device memory does. -/

namespace Sys2Proof.Machine

/-! ### A write is discarded where its place is bad, and so answers no uncorrectable error (R203, R207) -/

theorem pieces_certain {unit : Nat} {one : State → Nat → Access → List SymErr → State × Got}
    (h : ∀ u a l fl, (one u a (.write l) fl).2.uncorrectable = false) (n : Nat) (s : State) (a : Nat) (l : List Byte) (fl : List SymErr) :
    (pieces unit one n s a (.write l) fl).2.uncorrectable = false := by
  induction n generalizing s a l fl with
  | zero => rfl
  | succ n ih =>
    obtain ⟨m, rest, split_, left⟩ : ∃ m rest, accSplit (.write l) a unit = (.write m, rest) ∧ ∀ r, rest = some r → ∃ k, r = .write k := by
      unfold accSplit
      dsimp only
      split
      · exact ⟨l, none, rfl, fun _ h => by cases h⟩
      · exact ⟨_, _, rfl, fun _ h => ⟨_, (Option.some.inj h).symm⟩⟩
    unfold pieces
    rw [split_]
    dsimp only
    split
    · next more =>
      obtain ⟨k, rfl⟩ := left _ rfl
      exact ih _ _ _ _
    · exact h _ _ _ _

section
variable (s : State)

theorem State.chWrite_certain (e : Nat) (b : By) (fuel off : Nat) (l : List Byte) (ok : (s.chWrite e b fuel off l).2.status = .ok) :
    (s.chWrite e b fuel off l).2.uncorrectable = false := by
  induction fuel generalizing s off l with
  | zero => rfl
  | succ f ih =>
    unfold State.chWrite at ok ⊢
    dsimp only at ok ⊢
    by_cases none_ : l.isEmpty = true
    · rw [if_pos none_]
    · rw [if_neg none_] at ok ⊢
      by_cases whole : (min l.length (64 - off % 64) == 64) = true
      · rw [if_pos whole] at ok ⊢
        exact ih _ _ _ ok
      · rw [if_neg whole] at ok ⊢
        by_cases bad : ((s.burstRead e (off - off % 64) [] b).2.status != .ok) = true
        · rw [if_pos bad] at ok
          exact absurd ok (by simpa using bad)
        · rw [if_neg bad] at ok ⊢
          exact ih _ _ _ ok

theorem State.lineWrite_certain (e off : Nat) (l : List Byte) (b : By) : (s.lineWrite e off l b).2.uncorrectable = false := by
  unfold State.lineWrite
  dsimp only
  split
  · split <;> rfl
  · split
    · rfl
    · split
      · next ok => exact State.chWrite_certain _ _ _ _ _ _ (by simpa using ok)
      · rfl

theorem ite_certain {p : Prop} [Decidable p] {x y : State × Got} (hx : x.2.uncorrectable = false) (hy : y.2.uncorrectable = false) :
    (if p then x else y).2.uncorrectable = false := by
  split
  · exact hx
  · exact hy

theorem State.serve_certain (e off : Nat) (l : List Byte) (noalloc : Bool) (fl : List SymErr) (b : By) :
    (s.serve e off (.write l) noalloc fl b).2.uncorrectable = false := by
  unfold State.serve
  exact pieces_certain (fun u o k _ => u.lineWrite_certain _ o k _) _ _ _ _ _

theorem State.edgePiece_certain (q : Req) (a : Nat) (l : List Byte) (fl : List SymErr) :
    (s.edgePiece q a (.write l) fl).2.uncorrectable = false := by
  unfold State.edgePiece
  split
  · rfl
  · dsimp only
    refine ite_certain rfl (ite_certain rfl (ite_certain rfl (ite_certain (ite_certain ?_ ?_) ?_)))
    · cases q.who <;> rfl
    · cases q.who <;> rfl
    · exact s.serve_certain ..

theorem State.scratchPiece_certain (b : By) (a : Nat) (l : List Byte) (fl : List SymErr) :
    (State.scratchPiece b s a (.write l) fl).2.uncorrectable = false := by
  unfold State.scratchPiece
  exact ite_certain rfl (ite_certain rfl rfl)

theorem State.aperturePiece_certain (who : Requester) (a : Nat) (l : List Byte) (fl : List SymErr) :
    (s.aperturePiece who a (.write l) fl).2.uncorrectable = false := by
  unfold State.aperturePiece
  exact ite_certain rfl (ite_certain rfl (ite_certain rfl rfl))

theorem State.aperture_certain (who : Requester) (a : Nat) (l : List Byte) (fl : List SymErr) :
    (s.aperture who a (.write l) fl).2.uncorrectable = false := by
  unfold State.aperture
  exact pieces_certain (fun v a l fl => v.aperturePiece_certain who a l fl) _ _ _ _ _

theorem State.scratch_certain (b : By) (n a : Nat) (l : List Byte) (fl : List SymErr) :
    (pieces 128 (State.scratchPiece b) n s a (.write l) fl).2.uncorrectable = false :=
  pieces_certain (fun v a l fl => v.scratchPiece_certain b a l fl) _ _ _ _ _

theorem State.access_certain (q : Req) (a : Nat) (l : List Byte) (fl : List SymErr) :
    (s.access q a (.write l) fl).2.uncorrectable = false := by
  unfold State.access
  refine pieces_certain (fun u a l fl => ?_) _ _ _ _ _
  refine ite_certain ?_ (ite_certain (u.edgePiece_certain q a l fl)
    (ite_certain (u.scratch_certain _ _ a l fl) (ite_certain (u.aperture_certain q.who a l fl) ?_)))
  · rfl
  · rfl

theorem State.chanWrite_certain (ch a : Nat) (l : List Byte) : (s.chanWrite ch a l).2.uncorrectable = false := by
  unfold State.chanWrite State.chanAccess
  split
  · rfl
  · exact State.access_certain ..

theorem State.writeRing_certain (ch a done w0 : Nat) {g : Got} (failed : (s.writeRing ch a done w0).2 = .device g) :
    g.uncorrectable = false := by
  unfold State.writeRing at failed
  dsimp only at failed
  split at failed
  · generalize hr : (if (s.chanWrite ch (a + 48) (leBytes 8 done)).2.status == .ok
      then (s.chanWrite ch (a + 48) (leBytes 8 done)).1.chanWrite ch a (leBytes 8 w0) else s.chanWrite ch (a + 48) (leBytes 8 done)) = r at failed
    have certain : r.2.uncorrectable = false := hr ▸ ite_certain (State.chanWrite_certain ..) (State.chanWrite_certain ..)
    dsimp only at failed
    split at failed
    · cases failed
    · injection failed with same
      exact same ▸ certain
  · dsimp only at failed
    split_ifs at failed

end

/-! ### The channel's own state, and what is sent -/

/-- The module without channels and their sluices, engines, and what is sent. -/
def State.sansWork (s : State) : State :=
  { s.sansSends with clusters := [], dma := [], engines := [], gathers := [], fresh := 0 }

/-- A relation of states along which the work of channels and links steps, where accesses to device memory do. -/
structure WorkClosed (R : State → State → Prop) : Prop where
  refl : ∀ u, R u u
  trans : ∀ {u v w}, R u v → R v w → R u w
  work : ∀ {u v : State}, v.sansWork = u.sansWork → R u v
  access : ∀ (u : State) q a acc fl, R u (u.access q a acc fl).1

namespace WorkClosed

variable {R : State → State → Prop} (K : WorkClosed R) (s : State)
include K

theorem on {t u v : State} (later : R u v) (earlier : R t u) : R t v := K.trans earlier later

theorem sent {u v : State} (h : v.sansSends = u.sansSends) : R u v := K.work (congrArg State.sansWork h :)

theorem onChan {u : State} (h : R s u) (ch : Nat) (g : DmaCh → DmaCh) : R s (u.onChan ch g) := K.on (K.work (u := u) rfl) h

theorem onEngine {u : State} (h : R s u) (b : Nat) (g : Engine → Engine) : R s (u.onEngine b g) := K.on (K.work (u := u) rfl) h

theorem signal (f v : Nat) : R s (s.signal f v) := K.sent (sendsTo_signal s v).1.sansSends_eq

theorem hostWrite_getD (f a : Nat) (l : List Byte) {u : State} (h : R s u) : R s ((u.hostWrite f a l).getD u) := by
  cases hw : u.hostWrite f a l with
  | none => exact h
  | some v => exact K.on (K.sent (sendsTo_hostWrite hw).1.sansSends_eq) h

theorem chanWrite (ch a : Nat) (l : List Byte) : R s (s.chanWrite ch a l).1 := by
  unfold State.chanWrite State.chanAccess
  have counted : R s (s.engineCount ch 0 l.length) := K.work rfl
  exact ite_fst_related counted (K.on (K.access _ _ _ _ _) counted)

theorem writeRing (ch a done w0 : Nat) : R s (s.writeRing ch a done w0).1 := by
  unfold State.writeRing
  dsimp only
  refine ite_fst_related ?_ ?_
  · have first := K.chanWrite s ch (a + 48) (leBytes 8 done)
    exact ite_fst_related (K.on (K.chanWrite _ _ _ _) first) first
  · have counted : R s (s.engineCount ch 0 16) := K.work rfl
    have one := K.hostWrite_getD s (s.chan ch).func (a + 48) (leBytes 8 done) counted
    exact K.hostWrite_getD s (s.chan ch).func a (leBytes 8 w0) one

theorem haltChan (ch : Nat) (st : Status) (addr : Nat) (write stop : Bool) : R s (s.haltChan ch st addr write stop) := by
  unfold State.haltChan
  exact K.on (K.signal _ _ _) (K.work rfl)

theorem ringFail (ch : Nat) {g : Got} (certain : g.uncorrectable = false) (addr : Nat) (write : Bool) : R s (s.ringFail ch g addr write) := by
  unfold State.ringFail State.jobFail
  rw [certain]
  exact K.on (K.haltChan _ _ _ _ _ _) (K.work rfl)

theorem unbindAll (ch : Nat) : R s (s.unbindAll ch) :=
  K.work (State.each_keeps (F := State.sansWork) (g := fun u cl => u.onCluster cl fun c => c.unbind ch) (fun _ _ => rfl) _ s)

theorem retire (ch : Nat) (st : Status) (done : Nat) : R s (s.retire ch st done).1 := by
  unfold State.retire
  dsimp only
  split
  · exact K.refl s
  · next d rest _ =>
    generalize hu : State.setChan (s.unbindAll ch) ch _ = u
    have unbound : R s u := K.on (hu ▸ K.work rfl) (K.unbindAll s ch)
    generalize d.word0 - b2n d.own - bits d.word0 40 8 * 2 ^ 40 + st.code * 2 ^ 40 = w0
    have written := K.on (K.writeRing u ch ((s.chan ch).slotAddr d.index) done w0) unbound
    split
    · exact ite_related (K.on (K.signal _ _ _) written) written
    · next g failed => exact K.on (K.ringFail _ ch (u.writeRing_certain _ _ _ _ failed) _ _) written
    · exact written

theorem endChan (ch : Nat) (st : Status) (done addr : Nat) (write stop : Bool) : R s (s.endChan ch st done addr write stop).1 := by
  unfold State.endChan
  dsimp only
  generalize hu : State.setChan s ch _ = u
  have begun : R s u := hu ▸ K.work rfl
  have retired : R s ((u.retire ch st done).1.onChan ch fun c => { c with fetch := c.head }) := K.onChan s (K.on (K.retire ..) begun) _ _
  have finished : R s (u.onChan ch fun c => { c with finish := some (st, done) }) := K.onChan s begun _ _
  have ended : R s (if (s.chan ch).fetched.isEmpty = true then (u, none)
      else if (!(!(s.chan ch).fetched.isEmpty && s.writesOut ch) && u.mayRetire ch) = true
        then ((u.retire ch st done).1.onChan ch fun c => { c with fetch := c.head }, (u.retire ch st done).2)
      else (u.onChan ch fun c => { c with finish := some (st, done) }, none) : State × Option Nat).1 :=
    ite_fst_related begun (ite_fst_related retired finished)
  exact ite_related ended (K.on (K.haltChan _ _ _ _ _ _) ended)

theorem stopAll (ch addr : Nat) (write known : Bool) : R s (s.stopAll ch addr write known) := by
  unfold State.stopAll
  refine K.on (State.each_related K.refl K.trans (fun u o => ?_) _ _) (K.onEngine s (K.refl s) _ _)
  refine ite_related (K.refl u) ?_
  have drawn : R u (if (known && o == ch) = true then u else { u with fresh := u.fresh + 1 }) := ite_related (K.refl u) (K.work rfl)
  exact K.on (K.endChan ..) (ite_related drawn (K.onChan u drawn o _))

theorem ringBus (ch addr : Nat) (write : Bool) : R s (s.ringBus ch addr write) := by
  unfold State.ringBus
  exact ite_related (ite_related (K.refl s) (K.stopAll _ _ _ _ _))
    (ite_related (K.on (K.haltChan _ _ _ _ _ _) (K.work rfl)) (K.refl s))

theorem endDesc (ch : Nat) (st : Status) (done addr : Nat) (write stop : Bool) : R s (s.endDesc ch st done addr write stop) := by
  unfold State.endDesc State.reported
  split
  · exact K.endChan ..
  · exact K.on (K.ringBus _ _ _ _) (K.endChan ..)

theorem devFail (ch : Nat) (st : Status) (addr : Nat) (write : Bool) : R s (s.devFail ch st addr write false) := by
  unfold State.devFail State.jobFail
  exact ite_related (K.refl s) (K.endDesc ..)

theorem delivered_failed (ch life addr : Nat) (acc : Access) (st : Status) (bad : st ≠ .ok) :
    R s (s.delivered ch life addr acc { status := st }) := by
  unfold State.delivered
  refine ite_related (K.refl s) ?_
  rw [if_pos (by simpa using bad)]
  exact K.devFail ..

theorem answered_failed (ch life addr : Nat) (acc : Access) (st : Status) (bad : st ≠ .ok) :
    R s (s.answered ch life addr acc { status := st }) :=
  K.on (K.delivered_failed _ _ _ _ _ _ bad) (ite_related (K.onChan s (K.refl s) _ _) (K.refl s))

/-- A request that its link has dropped. -/
theorem dropRequest (o : Outstanding) : R s (s.dropRequest o) := K.answered_failed _ _ _ _ _ _ (by decide)

end WorkClosed

/-! ### Links that fall silent (R437, R450) -/

/-- The module without links, channels and their sluices, engines, and what is sent. -/
def State.sansNet (s : State) : State := { s.sansWork with links := [] }

namespace WorkClosed

variable {R : State → State → Prop} (K : WorkClosed R) (s : State)
include K

theorem settle (n : Nat) : R s (s.settle n) := by
  refine K.work ?_
  unfold State.settle
  exact State.each_keeps (F := State.sansWork)
    (fun u b => State.ite_keeps (F := State.sansWork) (x := u.onEngine b _) rfl rfl) _ _

variable (net : ∀ {u v : State}, v.sansNet = u.sansNet → R u v)
include net

theorem linkOff (n : Nat) (x : LinkState) (cause : Nat) : R s (s.linkOff n x cause) := by
  unfold State.linkOff
  dsimp only
  have settled : R s (if (s.link n).state == .up then s.settle n else s) := ite_related (K.settle s n) (K.refl s)
  have dropped := K.on (State.each_related K.refl K.trans (fun u o =>
    K.on (K.dropRequest (u.onLink n fun k => { k with outstanding := [] }) o) (net rfl)) (s.link n).outstanding _) settled
  generalize State.each _ (s.link n).outstanding _ = d at dropped ⊢
  have cleared {g : List Gather} : R s { d.setLink n ((s.link n).cleared x) with gathers := g } := K.on (net (u := d) rfl) dropped
  exact ite_related (K.on (K.sent (State.event_sansSends ..)) cleared) cleared

theorem linksSilent (x : LinkState) : R s (s.linksSilent x) :=
  State.each_related K.refl K.trans (fun u n => ite_related (K.refl u) (K.linkOff u net n x 0)) _ _

end WorkClosed

/-- The work of channels and links leaves the ledger alone. -/
theorem workClosed_ledger : WorkClosed fun u v => v.ledger = u.ledger where
  refl _ := rfl
  trans h k := k.trans h
  work h := (congrArg State.ledger h :)
  access u q a acc fl := u.access_ledger q a acc fl

theorem State.linkOff_ledger (s : State) (n : Nat) (x : LinkState) (cause : Nat) : (s.linkOff n x cause).ledger = s.ledger :=
  workClosed_ledger.linkOff s (fun h => (congrArg State.ledger h :)) n x cause

end Sys2Proof.Machine
end

section
/-! Links: what the transmitter, a settling bundle and an event leave of a link, and training, retrains and rates (R430-R432,
R439, R441, R448). -/

namespace Sys2Proof.Machine

/-! ### The transmitter changes what it sends, and nothing else of its link (R434, R438) -/

/-- A link without its transmitter. -/
def Link.sansFlow (l : Link) : Link :=
  { l with toSend := [], nextSeq := 0, replay := [], sent := [], reqUsed := 0, rspUsed := 0 }

theorem Link.emit_sansFlow (l : Link) (p : Packet) : (l.emit p).sansFlow = l.sansFlow := rfl

theorem Link.pump_sansFlow (k : Nat) (l : Link) : (l.pump k).sansFlow = l.sansFlow := by
  induction k generalizing l with
  | zero => rfl
  | succ k ih =>
    unfold Link.pump
    split
    · rfl
    · split
      · rfl
      · next p _ => exact (ih _).trans (l.emit_sansFlow p)

section
variable (s : State) (n k : Nat)

theorem State.onLink_same (g : Link → Link) : (s.onLink n g).link n = g (s.link n) := by simp

theorem State.onLink_other {k : Nat} (other : k ≠ n) (g : Link → Link) : (s.onLink n g).link k = s.link k := by simp [Ne.symm other]

theorem State.pumpLink_other {k : Nat} (other : k ≠ n) : (s.pumpLink n).link k = s.link k := s.onLink_other n other _

theorem State.pumpLink_sansFlow : ((s.pumpLink n).link n).sansFlow = (s.link n).sansFlow :=
  (congrArg Link.sansFlow (s.onLink_same n _)).trans (Link.pump_sansFlow _ _)

/-! ### A bundle that settles changes engines (R441), an event what is sent -/

/-- The module without its DMA engines. -/
def State.sansEngines (s : State) : State := { s with engines := [] }

theorem State.settle_sansEngines : (s.settle n).sansEngines = s.sansEngines := by
  unfold State.settle
  exact State.each_keeps (F := State.sansEngines)
    (fun u b => State.ite_keeps (F := State.sansEngines) (x := u.onEngine b _) rfl rfl) _ _

theorem State.settle_links : (s.settle n).links = s.links := (congrArg State.links (s.settle_sansEngines n) :)

theorem State.link_of_links {s t : State} (h : t.links = s.links) (k : Nat) : t.link k = s.link k :=
  congrArg (fun m => Sparse.get ({} : Link) m k) h

theorem State.settle_link : (s.settle n).link k = s.link k := State.link_of_links (s.settle_links n) k

theorem State.settle_ledger : (s.settle n).ledger = s.ledger := (congrArg State.ledger (s.settle_sansEngines n) :)

theorem State.event_links (p r0 r1 code : Nat) : (s.event p r0 r1 code).links = s.links :=
  (congrArg State.links (s.event_sansSends p r0 r1 code) :)

theorem State.event_link (p r0 r1 code : Nat) : (s.event p r0 r1 code).link k = s.link k :=
  State.link_of_links (s.event_links p r0 r1 code) k

theorem State.linkEvent_link (cause : Nat) : (s.linkEvent n cause).link k = s.link k := s.event_link k ..

theorem State.linkEvent_ledger (cause : Nat) : (s.linkEvent n cause).ledger = s.ledger := s.event_ledger ..

/-! ### A link goes UP, leaves UP, or falls silent -/

/-- A link as training leaves it. -/
def Link.trained (l : Link) (t : LinkTrial) (rate : Nat) : Link :=
  { l with
    state := .up, rate := rate, width := agreedWidth t, latency := t.latency % 2 ^ 16, peerFabric := t.ident.fabricId
    peerSlot := t.ident.slotId % 16, peerLink := t.ident.linkNo % 256 }

/-- A link without its transmitter and its FROZEN. -/
def Link.sansFrozen (l : Link) : Link := { l.sansFlow with frozen := false }

theorem Link.sansFrozen_of_sansFlow {l m : Link} (h : l.sansFlow = m.sansFlow) : l.sansFrozen = m.sansFrozen :=
  (congrArg (fun l : Link => { l with frozen := false }) h :)

/-- What is neither transmitter nor FROZEN is the same. -/
theorem Link.of_sansFrozen {l m : Link} (h : l.sansFrozen = m.sansFrozen) :
    (l.state = m.state ∧ l.rate = m.rate ∧ l.width = m.width ∧ l.retrains = m.retrains)
      ∧ l.peerFabric = m.peerFabric ∧ l.peerSlot = m.peerSlot ∧ l.peerLink = m.peerLink :=
  ⟨⟨(congrArg Link.state h :), (congrArg Link.rate h :), (congrArg Link.width h :), (congrArg Link.retrains h :)⟩,
    (congrArg Link.peerFabric h :), (congrArg Link.peerSlot h :), (congrArg Link.peerLink h :)⟩

theorem State.freezeLink_same : (s.freezeLink n).link n = { s.link n with frozen := true } :=
  (s.onLink_same n fun l => { l with frozen := true } :)

theorem State.freezeLink_link : ((s.freezeLink n).link n).sansFrozen = (s.link n).sansFrozen := by
  rw [s.freezeLink_same n]
  rfl

theorem State.freezeLink_other {k : Nat} (other : k ≠ n) : (s.freezeLink n).link k = s.link k :=
  (s.onLink_other n other fun l => { l with frozen := true } :)

/-- The last steps of a training: FROZEN where the bounds pin the low rate, the bundle, the LINK event and what waits to be sent. -/
def State.announced (s : State) (n cause : Nat) : State :=
  (((if s.ratePinned n && s.rateHi n == 0 then s.freezeLink n else s).settle n).linkEvent n cause).pumpLink n

theorem State.announced_link (cause : Nat) : ((s.announced n cause).link n).sansFrozen = (s.link n).sansFrozen := by
  refine (Link.sansFrozen_of_sansFlow (State.pumpLink_sansFlow _ n)).trans ?_
  rw [State.linkEvent_link, State.settle_link]
  exact State.ite_keeps (F := fun u => (u.link n).sansFrozen) (s.freezeLink_link n) rfl

theorem State.announced_other (cause : Nat) {k : Nat} (other : k ≠ n) : (s.announced n cause).link k = s.link k := by
  refine (State.pumpLink_other _ n other).trans ?_
  rw [State.linkEvent_link, State.settle_link]
  exact State.ite_keeps (F := fun u => u.link k) (s.freezeLink_other n other) rfl

theorem State.linkUp_link (t : LinkTrial) (rate cause : Nat) :
    ((s.linkUp n t rate cause).link n).sansFrozen = ((s.link n).trained t rate).sansFrozen := by
  refine (State.announced_link (s.onLink n _) n cause).trans ?_
  rw [State.onLink_same]
  rfl

theorem State.linkUp_other (t : LinkTrial) (rate cause : Nat) {k : Nat} (other : k ≠ n) :
    (s.linkUp n t rate cause).link k = s.link k :=
  (State.announced_other _ n cause other).trans (s.onLink_other n other _)

/-- A link that has left UP for RETRAIN. -/
def Link.left (l : Link) : Link :=
  { l with state := .retrain, width := 0, retrains := satAdd 16 l.retrains 1, badAt := [], fixedAt := [] }

theorem State.leaveUp_link (cause : Nat) (up : (s.link n).state = .up) : (s.leaveUp n cause).link n = (s.link n).left := by
  unfold State.leaveUp
  rw [if_neg (by simp [up])]
  rw [State.linkEvent_link, State.onLink_same, State.settle_link]
  rfl

theorem State.leaveUp_other (cause : Nat) {k : Nat} (other : k ≠ n) : (s.leaveUp n cause).link k = s.link k := by
  unfold State.leaveUp
  refine State.ite_keeps (F := fun u => u.link k) rfl ?_
  rw [State.linkEvent_link, State.onLink_other _ n other, State.settle_link]

theorem State.leaveUp_of_not (cause : Nat) (notUp : (s.link n).state ≠ .up) : s.leaveUp n cause = s := by
  unfold State.leaveUp
  rw [if_pos (by simpa using notUp)]

theorem State.leaveUp_ledger (cause : Nat) : (s.leaveUp n cause).ledger = s.ledger := by
  unfold State.leaveUp
  refine State.ite_keeps (F := State.ledger) rfl ?_
  rw [State.linkEvent_ledger]
  exact s.settle_ledger n

theorem State.linkOff_link (x : LinkState) (cause : Nat) : (s.linkOff n x cause).link n = (s.link n).cleared x := by
  unfold State.linkOff
  dsimp only
  refine State.ite_keeps (F := fun u => u.link n) ?_ ?_
  · rw [State.linkEvent_link]
    exact (State.setLink_link ..).trans (if_pos rfl)
  · exact (State.setLink_link ..).trans (if_pos rfl)


/-- The module without what a link that leaves UP touches. -/
def State.sansLinks (s : State) : State := { s.sansSends with links := [], engines := [] }

theorem State.leaveUp_sansLinks (cause : Nat) : (s.leaveUp n cause).sansLinks = s.sansLinks := by
  unfold State.leaveUp
  refine State.ite_keeps (F := State.sansLinks) rfl ?_
  have told (u : State) : (u.linkEvent n cause).sansLinks = u.sansLinks :=
    (congrArg (fun v : State => { v with links := [], engines := [] }) (u.event_sansSends ..) :)
  exact (told _).trans (congrArg (fun v : State => { v.sansSends with links := [] }) (s.settle_sansEngines n) :)

/-! ### The outcomes of a retrain (R430, R432) -/

section
variable (target cause : Nat) (t : LinkTrial)

theorem State.retrained_noLanes (waits : noLanes t = true) : s.retrained n target cause t = s := if_pos waits

variable (lanes : noLanes t = false)
include lanes

theorem State.retrained_bad (bad : agreedWidth t = 0 ∨ s.isSelf t.ident = true) :
    s.retrained n target cause t = s.linkOff n .down cause := by
  unfold State.retrained
  rw [if_neg (by simp [lanes]), if_pos (by simpa using bad)]

variable (good : ¬(agreedWidth t = 0 ∨ s.isSelf t.ident = true))
include good

theorem State.retrained_high (high : target = 1 ∧ bit t.ident.rates 1 = true) (quiet : t.tooNoisy = false) :
    s.retrained n target cause t = s.linkUp n t 1 cause := by
  unfold State.retrained
  rw [if_neg (by simp [lanes]), if_neg (by simpa using good), if_neg (by simp [quiet]), if_pos (by simpa using high)]

theorem State.retrained_fallsBack (high : target = 1 ∧ bit t.ident.rates 1 = true) (noisy : t.tooNoisy = true)
    (low : s.rateLo n = 0 ∧ bit t.ident.rates 0 = true) : s.retrained n target cause t = s.linkUp n t 0 3 := by
  unfold State.retrained
  rw [if_neg (by simp [lanes]), if_neg (by simpa using good), if_pos (by simp [high, noisy]), if_neg (by simp [low]), if_pos low.2]

theorem State.retrained_pinned (high : target = 1 ∧ bit t.ident.rates 1 = true) (noisy : t.tooNoisy = true)
    (pinned : s.rateLo n ≠ 0) : s.retrained n target cause t = (s.freezeLink n).linkOff n .down 3 := by
  unfold State.retrained
  rw [if_neg (by simp [lanes]), if_neg (by simpa using good), if_pos (by simp [high, noisy]), if_pos (by simp [pinned])]

theorem State.retrained_low (notHigh : ¬(target = 1 ∧ bit t.ident.rates 1 = true))
    (low : s.rateLo n = 0 ∧ bit t.ident.rates 0 = true) : s.retrained n target cause t = s.linkUp n t 0 cause := by
  unfold State.retrained
  rw [if_neg (by simp [lanes]), if_neg (by simpa using good), if_neg (fun h => notHigh (by simp at h; exact h.1)),
    if_neg (by simpa using notHigh), if_pos (by simpa using low)]

theorem State.retrained_neither (notHigh : ¬(target = 1 ∧ bit t.ident.rates 1 = true))
    (notLow : ¬(s.rateLo n = 0 ∧ bit t.ident.rates 0 = true)) : s.retrained n target cause t = s.linkOff n .down cause := by
  unfold State.retrained
  rw [if_neg (by simp [lanes]), if_neg (by simpa using good), if_neg (fun h => notHigh (by simp at h; exact h.1)),
    if_neg (by simpa using notHigh), if_neg (by simpa using notLow)]

end

/-! ### What training leaves of the links -/

/-- A link that is UP as training found it, every other link in the state that it had. -/
def State.UpAs (s : State) (n rate : Nat) (i : LinkTrial) (t : State) : Prop :=
  (t.link n).state = .up ∧ (t.link n).rate = rate ∧ (t.link n).width = agreedWidth i
    ∧ (t.link n).peerFabric = i.ident.fabricId ∧ (t.link n).peerSlot = i.ident.slotId % 16
    ∧ (t.link n).peerLink = i.ident.linkNo % 256 ∧ ∀ k, k ≠ n → (t.link k).state = (s.link k).state

theorem State.linkUp_upAs (i : LinkTrial) (rate cause : Nat) : s.UpAs n rate i (s.linkUp n i rate cause) := by
  obtain ⟨⟨state, rates, width, _⟩, fabric, slot, number⟩ := Link.of_sansFrozen (s.linkUp_link n i rate cause)
  exact ⟨state, rates, width, fabric, slot, number, fun k other => congrArg Link.state (s.linkUp_other n i rate cause other)⟩

theorem State.linkUp_retrains (i : LinkTrial) (rate cause : Nat) :
    ((s.linkUp n i rate cause).link n).retrains = (s.link n).retrains := by
  obtain ⟨⟨_, _, _, retrains⟩, _⟩ := Link.of_sansFrozen (s.linkUp_link n i rate cause)
  exact retrains

/-- A link that is DOWN: its requests have ended and its buffers are empty. -/
def State.Off (n : Nat) (t : State) : Prop := (t.link n).state = .down ∧ (t.link n).outstanding = [] ∧ (t.link n).toSend = []

theorem State.linkOff_off (cause : Nat) : State.Off n (s.linkOff n .down cause) := by
  have h := s.linkOff_link n .down cause
  exact ⟨(congrArg Link.state h :), (congrArg Link.outstanding h :), (congrArg Link.toSend h :)⟩

/-- A trained retrain: what its outcome says of a link that was UP, or stood in RETRAIN, says of the module before. -/
theorem State.UpAs.of_states {u : State} {rate : Nat} {i : LinkTrial} {t : State} (h : u.UpAs n rate i t)
    (same : ∀ k, k ≠ n → (u.link k).state = (s.link k).state) : s.UpAs n rate i t := by
  obtain ⟨state, rates, width, fabric, slot, number, others⟩ := h
  exact ⟨state, rates, width, fabric, slot, number, fun k other => (others k other).trans (same k other)⟩

end

/-! ### The instructions -/

section
variable {s : State} {n cause : Nat} {i : LinkTrial}

theorem State.groupOn_of_link (on : s.linksOn = true) (alive : (s.link n).state ≠ .disabled) : s.groupOn (n / 8) = true := by
  unfold State.groupOn
  rw [on, Bool.true_and, List.any_eq_true]
  exact ⟨n % 8, List.mem_range.2 (Nat.mod_lt _ (by decide)), by rw [Nat.div_add_mod]; simpa using alive⟩

theorem execLinkDetect_runs (x : (s.link n).state = .detect ∨ (s.link n).state = .train) (on : s.linksOn = true)
    (partner : i.partner = true) :
    (((s.link n).state != .detect && (s.link n).state != .train) || !s.groupOn (n / 8) || !i.partner) = false := by
  have group : s.groupOn (n / 8) = true := State.groupOn_of_link on (by rcases x with x | x <;> rw [x] <;> decide)
  rcases x with x | x <;> simp [x, group, partner]

section
variable (x : (s.link n).state = .detect ∨ (s.link n).state = .train) (on : s.linksOn = true) (partner : i.partner = true)
include x on partner

theorem exec_linkDetect_waits (waits : noLanes i = true) :
    exec (.linkDetect n i) s = .next (s.setLink n { s.link n with state := .train }) := by
  have start : exec (.linkDetect n i) s = execLinkDetect n i s := rfl
  rw [start]
  unfold execLinkDetect
  dsimp only
  rw [execLinkDetect_runs x on partner, if_neg Bool.false_ne_true, if_pos waits]
  rfl

theorem exec_linkDetect_bad (lanes : noLanes i = false) (bad : agreedWidth i = 0 ∨ s.isSelf i.ident = true) :
    exec (.linkDetect n i) s = .next (s.linkOff n .down 0) := by
  have start : exec (.linkDetect n i) s = execLinkDetect n i s := rfl
  rw [start]
  unfold execLinkDetect
  dsimp only
  rw [execLinkDetect_runs x on partner, if_neg Bool.false_ne_true, if_neg (by simp [lanes]), if_pos (by simpa using bad)]

theorem exec_linkDetect_rate (lanes : noLanes i = false) (good : ¬(agreedWidth i = 0 ∨ s.isSelf i.ident = true)) :
    exec (.linkDetect n i) s = .next ((s.commonRate n i.ident).elim (s.linkOff n .down 0) fun r => s.linkUp n i r 0) := by
  have start : exec (.linkDetect n i) s = execLinkDetect n i s := rfl
  rw [start]
  unfold execLinkDetect
  dsimp only
  rw [execLinkDetect_runs x on partner, if_neg Bool.false_ne_true, if_neg (by simp [lanes]), if_neg (by simpa using good)]
  cases s.commonRate n i.ident <;> rfl

end

theorem exec_linkTrainingTimeout (x : (s.link n).state = .detect ∨ (s.link n).state = .train ∨ (s.link n).state = .retrain) :
    exec (.linkTrainingTimeout n) s = .next (s.linkOff n .down 1) := by
  have start : exec (.linkTrainingTimeout n) s = execLinkTrainingTimeout n s := rfl
  rw [start]
  unfold execLinkTrainingTimeout
  dsimp only
  rw [if_pos (by rcases x with x | x | x <;> simp [x])]

theorem exec_noPartnerTimeout (x : (s.link n).state = .detect) :
    exec (.noPartnerTimeout n) s = .next (s.setLink n { s.link n with state := .noPartner }) :=
  if_pos (by simp [x])

theorem exec_linkRetry (x : (s.link n).state = .down ∨ (s.link n).state = .noPartner) (on : s.linksOn = true) :
    exec (.linkRetry n) s = .next (s.setLink n { s.link n with state := .detect, sent := [] }) := by
  have group : s.groupOn (n / 8) = true := State.groupOn_of_link on (by rcases x with x | x <;> rw [x] <;> decide)
  exact if_pos (by rcases x with x | x <;> simp [x, group])

theorem exec_linkRetrain_ignored (up : (s.link n).state = .up) (one : cause ≠ 1) (two : cause ≠ 2) :
    exec (.linkRetrain n cause i) s = .next s :=
  if_pos (by simp [up, one, two])

/-- A link that is UP with a cause of its own, or stands in RETRAIN, goes on with its retrain. -/
theorem exec_linkRetrain (x : (s.link n).state = .up ∧ (cause = 1 ∨ cause = 2) ∨ (s.link n).state = .retrain) :
    exec (.linkRetrain n cause i) s = .next (if i.partner then (s.leaveUp n cause).retrained n (s.retrainTarget n) cause i
      else s.leaveUp n cause) := by
  have start : exec (.linkRetrain n cause i) s = execLinkRetrain n cause i s := rfl
  have target : (s.leaveUp n cause).retrainTarget n = s.retrainTarget n :=
    congrArg (fun l : Ledger => Sparse.get 1 l.linkRate n % 2) (s.leaveUp_ledger n cause)
  rw [start]
  unfold execLinkRetrain
  dsimp only
  rw [if_neg (by rcases x with ⟨x, one | two⟩ | x <;> simp [*]), target]
  cases i.partner <;> rfl

theorem exec_linkRateReturn (up : (s.link n).state = .up) (low : (s.link n).rate = 0) (bound : s.rateHi n ≠ 0) (partner : i.partner = true) :
    exec (.linkRateReturn n i) s = .next (((s.leaveUp n 4).onLink n fun l => { l with rate := 1 }).retrained n 1 4 i) := by
  have start : exec (.linkRateReturn n i) s = execLinkRateReturn n i s := rfl
  rw [start]
  unfold execLinkRateReturn
  dsimp only
  rw [if_neg (by simp [up, low, bound]), if_neg (by simp [partner])]

end

/-! ### A retrain that the partner answers -/

/-- What a state has of a link's retrain: its bounds, its module's identity, and the states of the other links. -/
structure State.Retrains (s u : State) (n : Nat) : Prop where
  lo : u.rateLo n = s.rateLo n
  self : ∀ i, u.isSelf i = s.isSelf i
  states : ∀ k, k ≠ n → (u.link k).state = (s.link k).state

theorem State.retrains_self (s : State) (n : Nat) : s.Retrains s n := ⟨rfl, fun _ => rfl, fun _ _ => rfl⟩

theorem State.leaveUp_retrains (s : State) (n cause : Nat) : s.Retrains (s.leaveUp n cause) n := by
  have rest := s.leaveUp_sansLinks n cause
  refine ⟨congrArg (fun l : Ledger => Sparse.get 1 l.linkRate n / 2) (s.leaveUp_ledger n cause), fun i => ?_, fun k other =>
    congrArg Link.state (s.leaveUp_other n cause other)⟩
  have fabric : (s.leaveUp n cause).fabricId = s.fabricId := (congrArg State.fabricId rest :)
  have smbus : (s.leaveUp n cause).smbus = s.smbus := (congrArg State.smbus rest :)
  unfold State.isSelf
  rw [fabric, smbus]

theorem State.Retrains.onLink {s u : State} {n : Nat} (h : s.Retrains u n) (g : Link → Link) : s.Retrains (u.onLink n g) n :=
  ⟨h.lo, h.self, fun k other => (congrArg Link.state (u.onLink_other n other g)).trans (h.states k other)⟩

section
variable {s u : State} {n target cause : Nat} {i : LinkTrial} (h : s.Retrains u n) (lanes : noLanes i = false)
include h lanes

theorem State.Retrains.bad (bad : agreedWidth i = 0 ∨ s.isSelf i.ident = true) : State.Off n (u.retrained n target cause i) := by
  rw [State.retrained_bad u n target cause i lanes (by rw [h.self]; exact bad)]
  exact u.linkOff_off n cause

variable (good : ¬(agreedWidth i = 0 ∨ s.isSelf i.ident = true))
include good

theorem State.Retrains.neither (notHigh : ¬(target = 1 ∧ bit i.ident.rates 1 = true))
    (notLow : ¬(s.rateLo n = 0 ∧ bit i.ident.rates 0 = true)) : State.Off n (u.retrained n target cause i) := by
  rw [State.retrained_neither u n target cause i lanes (by rw [h.self]; exact good) notHigh (by rw [h.lo]; exact notLow)]
  exact u.linkOff_off n cause

theorem State.Retrains.high (high : target = 1 ∧ bit i.ident.rates 1 = true) (quiet : i.tooNoisy = false) :
    s.UpAs n 1 i (u.retrained n target cause i) ∧ ((u.retrained n target cause i).link n).retrains = (u.link n).retrains := by
  rw [State.retrained_high u n target cause i lanes (by rw [h.self]; exact good) high quiet]
  exact ⟨State.UpAs.of_states s n (u.linkUp_upAs n i 1 cause) h.states, u.linkUp_retrains n i 1 cause⟩

theorem State.Retrains.fallsBack (high : target = 1 ∧ bit i.ident.rates 1 = true) (noisy : i.tooNoisy = true)
    (low : s.rateLo n = 0 ∧ bit i.ident.rates 0 = true) :
    s.UpAs n 0 i (u.retrained n target cause i) ∧ ((u.retrained n target cause i).link n).retrains = (u.link n).retrains := by
  rw [State.retrained_fallsBack u n target cause i lanes (by rw [h.self]; exact good) high noisy (by rw [h.lo]; exact low)]
  exact ⟨State.UpAs.of_states s n (u.linkUp_upAs n i 0 3) h.states, u.linkUp_retrains n i 0 3⟩

theorem State.Retrains.low (notHigh : ¬(target = 1 ∧ bit i.ident.rates 1 = true))
    (low : s.rateLo n = 0 ∧ bit i.ident.rates 0 = true) :
    s.UpAs n 0 i (u.retrained n target cause i) ∧ ((u.retrained n target cause i).link n).retrains = (u.link n).retrains := by
  rw [State.retrained_low u n target cause i lanes (by rw [h.self]; exact good) notHigh (by rw [h.lo]; exact low)]
  exact ⟨State.UpAs.of_states s n (u.linkUp_upAs n i 0 cause) h.states, u.linkUp_retrains n i 0 cause⟩

end

/-- A retrain whose high rate is too noisy and may not be left: the link is DOWN and FROZEN, and so is its loop. -/
theorem State.Retrains.pinned {s u : State} {n target cause : Nat} {i : LinkTrial} (h : s.Retrains u n) (lanes : noLanes i = false)
    (good : ¬(agreedWidth i = 0 ∨ s.isSelf i.ident = true)) (high : target = 1 ∧ bit i.ident.rates 1 = true)
    (noisy : i.tooNoisy = true) (bound : s.rateLo n ≠ 0) :
    State.Off n (u.retrained n target cause i) ∧ ((u.retrained n target cause i).link n).frozen = true
      ∧ bit (u.retrained n target cause i).ledger.frozen 2 = true := by
  rw [State.retrained_pinned u n target cause i lanes (by rw [h.self]; exact good) high noisy (by rw [h.lo]; exact bound)]
  refine ⟨State.linkOff_off _ n 3, ?_, ?_⟩
  · rw [State.linkOff_link, State.freezeLink_same]
    rfl
  · rw [State.linkOff_ledger]
    exact bit_orPow _ _

/-- What a link keeps when it leaves UP. -/
theorem State.leaveUp_kept {s : State} {n : Nat} (cause : Nat) (up : (s.link n).state = .up) :
    ((s.leaveUp n cause).link n).retrains = satAdd 16 (s.link n).retrains 1 := by
  rw [s.leaveUp_link n cause up]
  rfl

end Sys2Proof.Machine

open Sys2Proof Sys2Proof.Machine

/-- Settles O54: training and retrains follow the outcomes of a trial one by one; a link that goes DOWN loses its requests and
buffers, and no other link leaves its state. -/
theorem linksTrainAndFallBack : Obligations.LinksTrainAndFallBack := by
  intro s n cause i l off up waits bad good low high again
  have lanesOf (h : ¬waits) : noLanes i = false := by simpa [waits] using h
  have goodOf (h : good) : noLanes i = false ∧ ¬(agreedWidth i = 0 ∨ s.isSelf i.ident = true) :=
    ⟨lanesOf h.1, fun w => h.2 ⟨h.1, w⟩⟩
  refine ⟨fun x on partner => ⟨fun g r hr => ?_, fun b => ?_, fun w => exec_linkDetect_waits x on partner w⟩,
    fun x => ⟨_, exec_linkTrainingTimeout x, s.linkOff_off n 1⟩, fun x => exec_noPartnerTimeout x,
    fun x on => exec_linkRetry x on, fun x one two => exec_linkRetrain_ignored x one two, fun x causes => ?_, fun x => ?_⟩
  · refine ⟨_, (exec_linkDetect_rate x on partner (goodOf g).1 (goodOf g).2).trans ?_, s.linkUp_upAs n i r 0⟩
    rw [hr]
    rfl
  · rcases b with b | ⟨g, none_⟩
    · exact ⟨_, exec_linkDetect_bad x on partner (lanesOf b.1) b.2, s.linkOff_off n 0⟩
    · refine ⟨_, (exec_linkDetect_rate x on partner (goodOf g).1 (goodOf g).2).trans ?_, s.linkOff_off n 0⟩
      rw [none_]
      rfl
  · have ran := exec_linkRetrain (i := i) (.inl ⟨x, causes⟩)
    have begun := s.leaveUp_retrains n cause
    have counts := State.leaveUp_kept cause x
    have returned := (s.leaveUp_retrains n 4).onLink fun l => { l with rate := 1 }
    have recounts : (((s.leaveUp n 4).onLink n fun l => { l with rate := 1 }).link n).retrains = satAdd 16 l.retrains 1 :=
      (congrArg Link.retrains (State.onLink_same _ n _)).trans (State.leaveUp_kept 4 x)
    have answered (partner : i.partner = true) :
        exec (.linkRetrain n cause i) s = .next ((s.leaveUp n cause).retrained n (s.retrainTarget n) cause i) := by
      rw [ran, partner]
      rfl
    refine ⟨fun w => ⟨s.leaveUp n cause, ?_, ?_⟩, fun partner b => ⟨_, answered partner, ?_⟩, fun partner g => ⟨fun h lo =>
      ⟨_, answered partner, ?_⟩, fun h => ⟨fun q => ⟨_, answered partner, ?_⟩, fun q lo => ⟨_, answered partner, ?_⟩,
      fun q lo => ⟨_, answered partner, ?_⟩⟩, fun rate bound b q => ⟨_, exec_linkRateReturn x rate bound partner, ?_⟩,
      fun rate bound q lo => ⟨_, exec_linkRateReturn x rate bound partner, ?_⟩⟩⟩
    · rcases w with silent | w
      · rw [ran, silent]
        rfl
      · refine ran.trans ?_
        rw [State.retrained_noLanes _ n _ cause i w, ite_self]
    · have same := s.leaveUp_link n cause x
      refine ⟨?_, ?_, counts, ?_, ?_, ?_⟩ <;> rw [same] <;> rfl
    · rcases b with b | ⟨g, notHigh, notLow⟩
      · exact begun.bad (lanesOf b.1) b.2
      · exact begun.neither (goodOf g).1 (goodOf g).2 notHigh notLow
    · obtain ⟨rose, retrains⟩ := begun.low (target := s.retrainTarget n) (cause := cause) (goodOf g).1 (goodOf g).2 h lo
      exact ⟨rose, retrains.trans counts⟩
    · obtain ⟨rose, retrains⟩ := begun.high (cause := cause) (goodOf g).1 (goodOf g).2 h q
      exact ⟨rose, retrains.trans counts⟩
    · obtain ⟨rose, retrains⟩ := begun.fallsBack (cause := cause) (goodOf g).1 (goodOf g).2 h q lo
      exact ⟨rose, retrains.trans counts⟩
    · exact begun.pinned (goodOf g).1 (goodOf g).2 h q lo
    · obtain ⟨rose, retrains⟩ := returned.high (target := 1) (cause := 4) (goodOf g).1 (goodOf g).2 ⟨rfl, b⟩ q
      exact ⟨rose, retrains.trans recounts⟩
    · by_cases b : bit i.ident.rates 1 = true
      · obtain ⟨rose, retrains⟩ := returned.fallsBack (target := 1) (cause := 4) (goodOf g).1 (goodOf g).2 ⟨rfl, b⟩ q lo
        exact ⟨rose, retrains.trans recounts⟩
      · obtain ⟨rose, retrains⟩ := returned.low (target := 1) (cause := 4) (goodOf g).1 (goodOf g).2 (fun h => b h.2) lo
        exact ⟨rose, retrains.trans recounts⟩
  · have ran := exec_linkRetrain (i := i) (cause := cause) (.inr x)
    rw [s.leaveUp_of_not n cause (by rw [show (s.link n).state = .retrain from x]; decide)] at ran
    have begun := s.retrains_self n
    have answered (partner : i.partner = true) :
        exec (.linkRetrain n cause i) s = .next (s.retrained n (s.retrainTarget n) cause i) := by
      rw [ran, partner]
      rfl
    refine ⟨fun w => ?_, fun partner b => ⟨_, answered partner, begun.bad (lanesOf b.1) b.2⟩, fun partner g notHigh lo =>
      ⟨_, answered partner, (begun.low (goodOf g).1 (goodOf g).2 notHigh lo).1⟩, fun partner g h q =>
      ⟨_, answered partner, (begun.high (goodOf g).1 (goodOf g).2 h q).1⟩⟩
    rcases w with silent | w
    · rw [ran, silent]
      rfl
    · refine ran.trans ?_
      rw [State.retrained_noLanes _ n _ cause i w, ite_self]
end

section
/-! A flit that reaches an UP link (R433-R436): what the decoder and its checks make of it before it is taken. -/

namespace Sys2Proof.Machine

section
variable {s : State} {n : Nat}

theorem State.onLink_setLink (s : State) (n : Nat) (l : Link) (g : Link → Link) : (s.setLink n l).onLink n g = s.setLink n (g l) := by
  have same : (s.setLink n l).link n = l := (State.setLink_link ..).trans (if_pos rfl)
  unfold State.onLink
  rw [same]
  exact congrArg (fun m => ({ s with links := m } : State)) (Sparse.set_set ..)

theorem State.setLink_same (s : State) (n : Nat) (l : Link) : (s.setLink n l).link n = l := (State.setLink_link ..).trans (if_pos rfl)

theorem State.setLink_other (s : State) (n : Nat) (l : Link) {k : Nat} (other : k ≠ n) : (s.setLink n l).link k = s.link k :=
  (State.setLink_link ..).trans (if_neg (Ne.symm other))

/-! ### Errors -/

theorem Link.noisy_of {l m : Link} (bad : l.badAt = m.badAt) (fixed : l.fixedAt = m.fixedAt) (width : l.width = m.width)
    (rate : l.rate = m.rate) : l.noisy = m.noisy := by
  unfold Link.noisy Link.symbols
  rw [bad, fixed, width, rate]

theorem Link.noisy_of_sansFlow {l m : Link} (h : l.sansFlow = m.sansFlow) : l.noisy = m.noisy :=
  Link.noisy_of (congrArg Link.badAt h :) (congrArg Link.fixedAt h :) (congrArg Link.width h :) (congrArg Link.rate h :)

theorem State.watchErrors_quiet (quiet : (s.link n).noisy = false) : s.watchErrors n = s := if_neg (by simp [quiet])

theorem State.watchErrors_notUp (notUp : (s.link n).state ≠ .up) : s.watchErrors n = s := by
  unfold State.watchErrors
  rw [s.leaveUp_of_not n 1 notUp, ite_self]

theorem State.watchErrors_pumped (quiet : (s.link n).noisy = false) : (s.pumpLink n).watchErrors n = s.pumpLink n :=
  State.watchErrors_quiet ((Link.noisy_of_sansFlow (s.pumpLink_sansFlow n)).trans quiet)

/-! ### What the decoder makes of a codeword -/

section
variable {flit : Flit} {errs : List LaneErr} {good : Bool} {bad take : State → State} (up : (s.link n).state = .up)
include up

theorem State.flitIn_lost (lost : linkDecode ((s.link n).pattern errs) = none) :
    s.flitIn n flit errs good bad take = (s.setLink n ((s.link n).noteBad s.time.dev)).watchErrors n := by
  unfold State.flitIn State.codeword
  dsimp only
  rw [if_neg (by simp [up]), lost]
  rfl

variable {fix : Errs} (decoded : linkDecode ((s.link n).pattern errs) = some fix)
include decoded

/-- An intact flit that passes its checks frees what its ACK covers and is taken; what may be sent goes out. -/
theorem State.flitIn_taken (intact : ((s.link n).pattern errs).after fix = []) (spare : flit.spare = 0) (passes : good = true) :
    s.flitIn n flit errs good bad take
      = ((take (s.setLink n (((s.link n).noteFixed s.time.dev fix.length).acked flit.ack))).pumpLink n).watchErrors n := by
  unfold State.flitIn State.codeword
  dsimp only
  rw [if_neg (by simp [up]), decoded]
  dsimp only
  rw [if_pos (by simp [intact, spare, passes])]
  rw [show (s.onLink n fun l => l.noteFixed s.time.dev fix.length) = s.setLink n ((s.link n).noteFixed s.time.dev fix.length) from rfl,
    State.onLink_setLink]

theorem State.flitIn_turned (fails : flit.spare ≠ 0 ∨ good = false) :
    s.flitIn n flit errs good bad take = (bad (s.setLink n ((s.link n).noteFixed s.time.dev fix.length))).watchErrors n := by
  unfold State.flitIn State.codeword
  dsimp only
  rw [if_neg (by simp [up]), decoded]
  dsimp only
  rw [if_neg (by rcases fails with h | h <;> simp [h])]
  rfl

end

/-! ### What goes out goes out after what went out before -/

theorem Link.pump_sent (k : Nat) (l : Link) : l.sent <+: (l.pump k).sent := by
  induction k generalizing l with
  | zero => exact List.prefix_refl _
  | succ k ih =>
    unfold Link.pump
    split
    · exact List.prefix_refl _
    · split
      · exact List.prefix_refl _
      · next p _ => exact (List.prefix_append _ _).trans (ih (l.emit p))

theorem State.pumpLink_sent : (s.link n).sent <+: ((s.pumpLink n).link n).sent := by
  rw [show s.pumpLink n = s.onLink n fun l => l.pump l.toSend.length from rfl, State.onLink_same]
  exact Link.pump_sent _ _

/-! ### What the counts and an ACK leave of a link -/

/-- A link without its errors and the flits that wait for an ACK. -/
def Link.sansErrors (l : Link) : Link := { l with corrected := 0, uncorrectable := 0, badAt := [], fixedAt := [], replay := [] }

theorem Link.noteFixed_sansErrors (l : Link) (now k : Nat) : (l.noteFixed now k).sansErrors = l.sansErrors := by
  unfold Link.noteFixed
  dsimp only
  split <;> rfl

theorem Link.acked_sansErrors (l : Link) (seq : Byte) : (l.acked seq).sansErrors = l.sansErrors := by
  unfold Link.acked
  split <;> rfl

/-- An ACK changes the flits that wait for one, and nothing else. -/
theorem Link.acked_eq (l : Link) (seq : Byte) : l.acked seq = { l with replay := (l.acked seq).replay } := by
  unfold Link.acked
  split <;> rfl

theorem Link.acked_noisy (l : Link) (seq : Byte) : (l.acked seq).noisy = l.noisy := by
  rw [l.acked_eq]
  rfl

end
end Sys2Proof.Machine
end

section
/-! The alignment of the device timestamp (R449, R467-R470, R482). -/

namespace Sys2Proof.Machine

/-! ### TIMESYNC and its answers -/

section
variable {s : State} {n : Nat} {f : Flit} {errs : List LaneErr} {fix : Errs}

/-- A CTRL flit of the kind TIMESYNC that reaches an UP link intact, on a link with few errors. -/
structure State.Timesync (s : State) (n : Nat) (f : Flit) (errs : List LaneErr) (fix : Errs) : Prop where
  up : (s.link n).state = .up
  spare : f.spare = 0
  passes : ctrlGood 4 f.bytes = true
  decoded : linkDecode ((s.link n).pattern errs) = some fix
  sound : ((s.link n).pattern errs).after fix = []
  quiet : ((s.link n).noteFixed s.time.dev fix.length).noisy = false

/-- The link as the flit's codeword and its ACK leave it. -/
def Link.came (l : Link) (now : Nat) (fix : Errs) (ack : Byte) : Link := (l.noteFixed now fix.length).acked ack

theorem Link.came_sansErrors (l : Link) (now : Nat) (fix : Errs) (ack : Byte) : (l.came now fix ack).sansErrors = l.sansErrors :=
  (Link.acked_sansErrors _ _).trans (Link.noteFixed_sansErrors _ _ _)

variable (h : s.Timesync n f errs fix)
include h

theorem State.Timesync.run (bad take : State → State)
    (link : ∀ v : State, (take v).link n = v.link n ∨ ∃ x, (take v).link n = { v.link n with sent := (v.link n).sent ++ [x] }) :
    s.flitIn n f errs (ctrlGood 4 f.bytes) bad take
      = (take (s.setLink n ((s.link n).came s.time.dev fix f.ack))).pumpLink n := by
  rw [State.flitIn_taken h.up h.decoded h.sound h.spare h.passes]
  refine State.watchErrors_pumped ?_
  have same : ((s.setLink n ((s.link n).came s.time.dev fix f.ack)).link n).noisy = false := by
    rw [State.setLink_same]
    exact (Link.acked_noisy _ _).trans h.quiet
  rcases link (s.setLink n ((s.link n).came s.time.dev fix f.ack)) with eq | ⟨x, eq⟩
  · exact (congrArg Link.noisy eq).trans same
  · exact (congrArg Link.noisy eq).trans same

/-- What a timestamp message leaves of the links: the others, and the state and the received packets of its own. -/
def State.LinksKept (s : State) (n : Nat) (t : State) : Prop :=
  (∀ k, k ≠ n → t.link k = s.link k) ∧ (t.link n).state = .up ∧ (t.link n).received = (s.link n).received

theorem State.Timesync.kept {v : State} (others : ∀ k, k ≠ n → v.link k = s.link k)
    (own : (v.link n).sansFlow.sansErrors = (s.link n).sansFlow.sansErrors) : s.LinksKept n (v.pumpLink n) := by
  have flow : ((v.pumpLink n).link n).sansFlow.sansErrors = (s.link n).sansFlow.sansErrors :=
    (congrArg Link.sansErrors (v.pumpLink_sansFlow n)).trans own
  exact ⟨fun k other => (v.pumpLink_other n other).trans (others k other), (congrArg Link.state flow :).trans h.up,
    (congrArg Link.received flow :)⟩

/-- The timestamp after the answer of the followed peer. -/
def State.answeredTime (s : State) (f : Flit) : Time :=
  s.time.align ((((fieldAt f.bytes 16 8 : Int) - fieldAt f.bytes 8 8) - ((s.time.dev : Int) - fieldAt f.bytes 24 8)).tdiv 2)
    s.time.peerLost s.countsRefclk

/-- What an answer does to the timestamp, where the mode and the peer are the followed ones. -/
def State.takeAnswer (s : State) (n : Nat) (f : Flit) : State :=
  if s.time.mode != .linkFollow || !s.fromFollowed n then s else { s with time := s.answeredTime f }

omit h in
theorem State.takeAnswer_link (s : State) (n k : Nat) (f : Flit) : (s.takeAnswer n f).link k = s.link k :=
  State.ite_keeps (F := fun u => u.link k) rfl rfl

theorem exec_timesyncAnswer (follows : s.time.mode = .linkFollow) :
    ∃ t, exec (.timesyncAnswer n f errs) s = .next t ∧ s.LinksKept n t ∧ t = { s with links := t.links, time := t.time }
      ∧ t.time = if s.fromFollowed n then s.answeredTime f else s.time := by
  have start : exec (.timesyncAnswer n f errs) s
      = .next (s.flitIn n f errs (ctrlGood 4 f.bytes) id fun v => v.takeAnswer n f) := rfl
  rw [start]
  generalize hv : s.setLink n ((s.link n).came s.time.dev fix f.ack) = v
  have own : (v.link n).sansErrors = (s.link n).sansErrors := by
    rw [← hv, State.setLink_same]
    exact Link.came_sansErrors ..
  have others (k : Nat) (other : k ≠ n) : v.link k = s.link k := by
    rw [← hv]
    exact s.setLink_other n _ other
  have from_ : v.fromFollowed n = s.fromFollowed n := by
    have time : v.time = s.time := by rw [← hv]; rfl
    have fabric : (v.link n).peerFabric = (s.link n).peerFabric := (congrArg Link.peerFabric own :)
    have slot : (v.link n).peerSlot = (s.link n).peerSlot := (congrArg Link.peerSlot own :)
    unfold State.fromFollowed
    rw [time, fabric, slot]
  have time : v.answeredTime f = s.answeredTime f := by rw [← hv]; rfl
  have mode : v.time.mode = .linkFollow := by rw [← hv]; exact follows
  rw [h.run _ _ (fun v => .inl (v.takeAnswer_link n n f)), hv]
  unfold State.takeAnswer
  cases followed : s.fromFollowed n with
  | false =>
    rw [if_pos (by simp [from_, followed])]
    exact ⟨_, rfl, h.kept others (congrArg Link.sansFlow own :), by rw [← hv]; rfl, by rw [← hv]; rfl⟩
  | true =>
    rw [if_neg (by simp [from_, followed, mode])]
    exact ⟨_, rfl, h.kept others (congrArg Link.sansFlow own :), by rw [← hv]; rfl, time⟩

theorem exec_timesyncReceive :
    ∃ t, exec (.timesyncReceive n f errs) s = .next t ∧ s.LinksKept n t ∧ t = { s with links := t.links }
      ∧ .ctrl (s.link n).lastSeq (timesyncFlit [fieldAt f.bytes 8 8, s.time.dev, s.time.dev]) ∈ (t.link n).sent := by
  have start : exec (.timesyncReceive n f errs) s = .next (s.flitIn n f errs (ctrlGood 4 f.bytes) id fun v =>
      v.onLink n fun l => { l with
        sent := l.sent ++ [.ctrl l.lastSeq (timesyncFlit [fieldAt f.bytes 8 8, v.time.dev, v.time.dev])] }) := rfl
  rw [start, h.run _ _ (fun v => .inr ⟨_, v.onLink_same n _⟩), State.onLink_setLink]
  refine ⟨_, rfl, h.kept (fun k other => s.setLink_other n _ other) ?_, rfl, ?_⟩
  · rw [State.setLink_same]
    exact (congrArg Link.sansFlow (Link.came_sansErrors (s.link n) s.time.dev fix f.ack) :)
  · refine State.pumpLink_sent.subset ?_
    rw [State.setLink_same]
    have last : ((s.link n).came s.time.dev fix f.ack).lastSeq = (s.link n).lastSeq :=
      (congrArg Link.lastSeq (Link.came_sansErrors (s.link n) s.time.dev fix f.ack) :)
    exact List.mem_append_right _ (List.mem_singleton.2 (by rw [last]; rfl))

end

/-! ### The settings and edges that concern one module -/

section
variable {s : State}

theorem Time.align_slews (t : Time) (d : Int) (mayStep counts : Bool) (slews : d.natAbs ≤ 10000 ∨ mayStep = false) :
    t.align d mayStep counts = { t with peerLost := false, unsynced := t.unsynced && !counts, slew := d } := by
  unfold Time.align
  dsimp only
  rw [if_neg (by rcases slews with h | h <;> simp [h])]

theorem Time.align_steps (t : Time) (d : Int) (counts : Bool) (steps : 10000 < d.natAbs) :
    t.align d true counts = { t with
      peerLost := false, unsynced := t.unsynced && !counts, dev := ((t.dev : Int) + d).toNat, slew := 0, stepped := true } := by
  unfold Time.align
  dsimp only
  rw [if_pos (by simp [steps])]

/-- The target of an edge: TIME_LOAD where it is armed, or the nearest multiple of 100,000, a half up, and HOP_DELAY. -/
theorem syncTarget {m : Time} {target : Nat}
    (h : m.loadArm = true ∧ target = m.load ∨ m.loadArm = false ∧ ∃ k, target = 100000 * k + m.hopDelay
      ∧ 2 * ((m.dev : Int) - 100000 * k) < 100000 ∧ -100000 ≤ 2 * ((m.dev : Int) - 100000 * k)) :
    (if m.loadArm then m.load else (m.dev + 50000) / 100000 * 100000 + m.hopDelay) = target := by
  rcases h with ⟨armed, rfl⟩ | ⟨armed, k, rfl, below, above⟩
  · rw [if_pos armed]
  · rw [if_neg (by simp [armed])]
    have nearest : (m.dev + 50000) / 100000 = k := by omega
    omega

theorem exec_syncIn (mode : s.time.mode = .chainFollow) (on : s.power.aon = true) {target : Nat}
    (h : (if s.time.loadArm then s.time.load else (s.time.dev + 50000) / 100000 * 100000 + s.time.hopDelay) = target) :
    exec .syncIn s = .next { s with time := { s.time.align ((target : Int) - s.time.dev) true s.countsRefclk with
      loadArm := false, syncOut := true, syncEdges := s.time.syncEdges + 1 } } := by
  subst h
  exact if_neg (by simp [mode, on])

theorem TimeMode.ofCode_eq (v : Nat) : TimeMode.ofCode (bits v 0 2) = (match v % 4 with
    | 0 => .free
    | 1 => .chainRoot
    | 2 => .chainFollow
    | _ => .linkFollow) := by
  have code : bits v 0 2 = v % 4 := by simp [bits]
  have small : v % 4 < 4 := Nat.mod_lt _ (by decide)
  rw [code]
  generalize v % 4 = c at small ⊢
  interval_cases c <;> rfl

/-- TIME_CTL enters a mode that is another, and sets HOP_DELAY; STEPPED is cleared and LOAD_ARM set where their bits are. -/
theorem State.writeTimeCtl_time (s : State) (v : Nat) :
    (s.writeTimeCtl v).time = { (if s.time.mode = TimeMode.ofCode (bits v 0 2) then s.time else s.time.enter (TimeMode.ofCode (bits v 0 2))) with
      hopDelay := bits v 8 8, stepped := s.time.stepped && !bit v 4, loadArm := s.time.loadArm || bit v 2 } := by
  unfold State.writeTimeCtl
  dsimp only
  by_cases same : s.time.mode = TimeMode.ofCode (bits v 0 2)
  · rw [if_pos (by simpa using same), if_pos same]
  · rw [if_neg (by simpa using same), if_neg same]
    rfl

theorem State.writeTimeCtl_mode (s : State) (v : Nat) : (s.writeTimeCtl v).time.mode = TimeMode.ofCode (bits v 0 2) := by
  rw [s.writeTimeCtl_time]
  by_cases same : s.time.mode = TimeMode.ofCode (bits v 0 2)
  · rw [if_pos same]
    exact same
  · rw [if_neg same]
    rfl

theorem State.writeTimeCtl_syncOut (s : State) (v : Nat) : (s.writeTimeCtl v).time.syncOut =
    if (s.writeTimeCtl v).time.mode = s.time.mode then s.time.syncOut
    else (s.writeTimeCtl v).time.mode == .chainRoot || (s.writeTimeCtl v).time.mode == .chainFollow := by
  rw [s.writeTimeCtl_mode, s.writeTimeCtl_time]
  by_cases same : s.time.mode = TimeMode.ofCode (bits v 0 2)
  · rw [if_pos same, if_pos same.symm]
  · rw [if_neg same, if_neg (Ne.symm same)]
    rfl

/-- Entering a mode leaves the count and UNSYNCED alone. -/
theorem State.writeTimeCtl_kept (s : State) (v : Nat) :
    (s.writeTimeCtl v).time.unsynced = s.time.unsynced ∧ (s.writeTimeCtl v).time.dev = s.time.dev := by
  rw [s.writeTimeCtl_time]
  split <;> exact ⟨rfl, rfl⟩

end
end Sys2Proof.Machine

open Sys2Proof Sys2Proof.Machine

/-- Settles O57: each row sets the timestamp's fields as its case says; a message that reaches an UP link intact changes, of the
links, its own alone. -/
theorem timestampAlignment : Obligations.TimestampAlignment := by
  intro s n f errs v m t1 d intact u kept time
  have intactOf (h : intact) : ∃ fix, s.Timesync n f errs fix := by
    obtain ⟨up, spare, passes, fix, decoded, sound, quiet⟩ := h
    exact ⟨fix, up, spare, passes, decoded, sound, quiet⟩
  refine ⟨fun mode => ⟨fun k ks bundle => ?_, fun h => ?_, if_neg (by simp [mode, m])⟩, fun h => ?_, fun mode => ⟨fun on target aim => ?_,
    if_neg (by simp [mode, m])⟩, fun mode due => if_neg (by simp [mode, m, due]), fun mode early => if_pos (by simp [mode, m, early]), rfl, rfl,
    fun c hc => ?_⟩
  · have start : exec .timesync s = execTimesync s := rfl
    rw [start]
    unfold execTimesync
    rw [if_neg (by simp [show s.time.mode = .linkFollow from mode]), show s.bundle s.time.followFabric s.time.followSlot = k :: ks from bundle]
    rfl
  · obtain ⟨fix, h⟩ := intactOf h
    obtain ⟨t, ran, rest, frame, now⟩ := exec_timesyncAnswer h mode
    refine ⟨t, ran, rest, frame, fun other => ?_, fun own slews => ?_, fun own steps lost => ?_⟩
    · rw [now, if_neg (by simp [other])]
    · rw [now, if_pos own]
      exact Time.align_slews _ _ _ _ slews
    · rw [now, if_pos own]
      unfold State.answeredTime
      rw [show s.time.peerLost = true from lost]
      exact Time.align_steps _ _ _ steps
  · obtain ⟨fix, h⟩ := intactOf h
    obtain ⟨t, ran, rest, frame, told⟩ := exec_timesyncReceive h
    exact ⟨t, ran, rest, frame, told⟩
  · have ran := exec_syncIn mode on (syncTarget aim)
    refine ⟨fun slews => ran.trans ?_, fun steps => ran.trans ?_⟩
    · rw [Time.align_slews _ _ _ _ (.inl slews)]
    · rw [Time.align_steps _ _ _ steps]
      have target_ : ((s.time.dev : Int) + ((target : Int) - s.time.dev)).toNat = target := by omega
      rw [target_]
  · have ran : exec c s = .next (s.writeTimeCtl v.toNat) := by rcases hc with rfl | rfl <;> rfl
    have now := s.writeTimeCtl_time v.toNat
    refine ⟨_, ran, (s.writeTimeCtl_mode v.toNat).trans (TimeMode.ofCode_eq v.toNat), ?_, ?_, ?_, (s.writeTimeCtl_kept v.toNat).1,
      s.writeTimeCtl_syncOut v.toNat, (s.writeTimeCtl_kept v.toNat).2, rfl⟩
    · rw [now]
      rfl
    · rw [now]
      simp [bit_eq_testBit, m]
    · rw [now]
      simp [bit_eq_testBit, m]
end

section
/-! Flits on an UP link are delivered once and in order (R433-R439). -/

namespace Sys2Proof.Machine

/-! ### The first of a list -/

theorem findIdx?_of_split {α : Type} {p : α → Bool} {pre post : List α} {x : α} (before : ∀ y ∈ pre, p y = false) (here : p x = true) :
    (pre ++ x :: post).findIdx? p = some pre.length := by
  rw [List.findIdx?_append, List.findIdx?_eq_none_iff.2 before]
  simp [List.findIdx?_cons, here]

theorem drop_past_split {α : Type} (pre post : List α) (x : α) : (pre ++ x :: post).drop (pre.length + 1) = post := by
  rw [show pre ++ x :: post = (pre ++ [x]) ++ post by simp]
  exact List.drop_left' (by simp)

/-! ### What the transmitter sends -/

theorem numbered_packetFlits (seq : Byte) (p : Packet) : ∃ b r, numbered seq (packetFlits p) = (seq + BitVec.ofNat 8 0, b) :: r := by
  obtain ⟨k, hk⟩ : ∃ k, pktFlits p = k + 1 := ⟨pktFlits p - 1, by have := Nat.le_max_left 1 (ceilDiv (p.data.length / 64) 9); unfold pktFlits; omega⟩
  unfold numbered packetFlits
  rw [hk, List.range_succ_eq_map]
  exact ⟨_, _, rfl⟩

theorem Link.emit_sent (l : Link) (p : Packet) :
    ∃ q b, .data q l.lastSeq b ∈ (l.emit p).sent ∧ l.sent.length < (l.emit p).sent.length := by
  obtain ⟨b, r, flits⟩ := numbered_packetFlits l.nextSeq p
  refine ⟨l.nextSeq + BitVec.ofNat 8 0, b, ?_, ?_⟩
  · exact List.mem_append_right _ (List.mem_map.2 ⟨_, by rw [flits]; exact List.mem_cons_self, rfl⟩)
  · unfold Link.emit
    simp [flits]

/-- Either nothing may be sent, or a DATA flit with an ACK of the last SEQ goes out. -/
theorem Link.pump_cases (k : Nat) (l : Link) : l.pump k = l
    ∨ ∃ q b, .data q l.lastSeq b ∈ (l.pump k).sent ∧ l.sent.length < (l.pump k).sent.length := by
  cases k with
  | zero => exact .inl rfl
  | succ k =>
    unfold Link.pump
    split
    · exact .inl rfl
    · split
      · exact .inl rfl
      · next p _ =>
        obtain ⟨q, b, sent, more⟩ := l.emit_sent p
        have later := Link.pump_sent k (l.emit p)
        exact .inr ⟨q, b, later.subset sent, Nat.lt_of_lt_of_le more later.length_le⟩

theorem Link.pump_toSend (k : Nat) (l : Link) : (l.pump k).toSend ⊆ l.toSend := by
  induction k generalizing l with
  | zero => exact List.Subset.refl _
  | succ k ih =>
    unfold Link.pump
    split
    · exact List.Subset.refl _
    · split
      · exact List.Subset.refl _
      · exact List.Subset.trans (ih _) List.erase_subset

section
variable {s : State} {n : Nat}

theorem State.pumpLink_setLink (l : Link) : (s.setLink n l).pumpLink n = s.setLink n (l.pump l.toSend.length) := s.onLink_setLink n l _

theorem State.pumpLink_none {l : Link} (none_ : l.toSend = []) : (s.setLink n l).pumpLink n = s.setLink n l := by
  rw [State.pumpLink_setLink, none_]
  rfl

/-! ### Codewords that are lost, and flits that are turned away -/

theorem State.idleAck_same {before : Link} (same : (s.link n).lastSeq = before.lastSeq) : s.idleAck n before = s := by
  unfold State.idleAck
  dsimp only
  rw [if_neg (by simp [same])]

section
variable {f : Flit} {errs : List LaneErr}

/-- Every flit but a DATA flit is dropped where it fails. -/
theorem exec_ctrl {c : Instr} (hc : c ∈ [Instr.idleFlit n f errs, .nak n f errs, .credit n f errs, .ident n f errs,
    .timesyncReceive n f errs, .timesyncAnswer n f errs]) :
    ∃ good take, exec c s = .next (s.flitIn n f errs good id take) := by
  simp only [List.mem_cons, List.not_mem_nil, or_false] at hc
  rcases hc with rfl | rfl | rfl | rfl | rfl | rfl <;> exact ⟨_, _, rfl⟩

theorem State.watchErrors_lastSeq : ((s.watchErrors n).link n).lastSeq = (s.link n).lastSeq := by
  unfold State.watchErrors
  refine State.ite_keeps (F := fun u => (u.link n).lastSeq) ?_ rfl
  by_cases up : (s.link n).state = .up
  · rw [s.leaveUp_link n 1 up]
    rfl
  · rw [s.leaveUp_of_not n 1 up]

/-- The take of a DATA flit. -/
def State.takeData (s : State) (n : Nat) (f : Flit) : State :=
  if f.seq != (s.link n).lastSeq + 1 then s.discardFlit n
  else
    let ps := streamed (s.link n).arriving f.bytes
    (s.onLink n fun l => { l with lastSeq := f.seq, discarding := false, arriving := ps.dropWhile whole }).deliver n (ps.takeWhile whole)

theorem exec_dataFlit : exec (.dataFlit n f errs) s = .next ((s.flitIn n f errs (dataGood (s.link n).arriving f.bytes) (State.discardFlit · n)
    (State.takeData · n f)).idleAck n (s.link n)) := rfl

theorem exec_lost (up : (s.link n).state = .up) (lost : linkDecode ((s.link n).pattern errs) = none) {c : Instr}
    (hc : c ∈ [Instr.dataFlit n f errs, .idleFlit n f errs, .nak n f errs, .credit n f errs, .ident n f errs,
      .timesyncReceive n f errs, .timesyncAnswer n f errs]) :
    exec c s = .next ((s.setLink n ((s.link n).noteBad s.time.dev)).watchErrors n) := by
  rcases List.mem_cons.1 hc with rfl | hc
  · rw [exec_dataFlit, State.flitIn_lost up lost, State.idleAck_same]
    rw [State.watchErrors_lastSeq, State.setLink_same]
    rfl
  · obtain ⟨good, take, ran⟩ := exec_ctrl (s := s) hc
    rw [ran, State.flitIn_lost up lost]

end

/-! ### DATA flits -/

/-- A link that takes whole packets, each request with what was said of it. -/
def Link.takes (l : Link) (f : Flit) (check : Packet → Option Status) : Link :=
  let ps := streamed l.arriving f.bytes
  { l with
    lastSeq := f.seq, discarding := false, arriving := ps.dropWhile whole
    received := l.received ++ ((ps.takeWhile whole).filter pktReq).map fun p => ⟨p, check p⟩
    answers := l.answers ++ (ps.takeWhile whole).filter fun p => !pktReq p }

/-- A link that discards a DATA flit. -/
def Link.discarded (l : Link) (now : Nat) : Link :=
  let quiet := match l.nakAt with
    | some (t, q) => q == l.lastSeq && decide (now - t < 200)
    | none => false
  let l := { l with replays := satAdd 32 l.replays 1, discarding := true }
  if quiet then l else { l with nakAt := some (now, l.lastSeq), sent := l.sent ++ [.ctrl l.lastSeq (nakFlit l.lastSeq)] }

theorem State.discardFlit_setLink (l : Link) : (s.setLink n l).discardFlit n = s.setLink n (l.discarded s.time.dev) :=
  s.onLink_setLink n l fun l => l.discarded s.time.dev

theorem State.inboundCheck_of {t : State} (inbound : t.inbound = s.inbound) (fabric : (t.link n).peerFabric = (s.link n).peerFabric)
    (slot : (t.link n).peerSlot = (s.link n).peerSlot) (p : Packet) : t.inboundCheck n p = s.inboundCheck n p := by
  unfold State.inboundCheck State.admitsInbound
  simp only [inbound, fabric, slot]

theorem State.inboundCheck_setLink {l : Link} (fabric : l.peerFabric = (s.link n).peerFabric) (slot : l.peerSlot = (s.link n).peerSlot) :
    (s.setLink n l).inboundCheck n = s.inboundCheck n := by
  funext p
  refine State.inboundCheck_of (s := s) (t := s.setLink n l) rfl ?_ ?_ p
  · rw [State.setLink_same]
    exact fabric
  · rw [State.setLink_same]
    exact slot

theorem State.takeData_next {f : Flit} {l : Link} (next : f.seq = l.lastSeq + 1) (fabric : l.peerFabric = (s.link n).peerFabric)
    (slot : l.peerSlot = (s.link n).peerSlot) : (s.setLink n l).takeData n f = s.setLink n (l.takes f (s.inboundCheck n)) := by
  unfold State.takeData
  rw [State.setLink_same, if_neg (by simp [next])]
  dsimp only
  rw [State.onLink_setLink]
  unfold State.deliver
  dsimp only
  rw [State.onLink_setLink]
  refine congrArg (s.setLink n) ?_
  rw [State.inboundCheck_setLink (by exact fabric) (by exact slot)]
  rfl

theorem State.takeData_other {f : Flit} {l : Link} (other : f.seq ≠ l.lastSeq + 1) :
    (s.setLink n l).takeData n f = s.setLink n (l.discarded s.time.dev) := by
  unfold State.takeData
  rw [State.setLink_same, if_pos (by simpa using other), State.discardFlit_setLink]

/-! ### A DATA flit on an UP link -/

section
variable {f : Flit} {errs : List LaneErr} {fix : Errs}

/-- A codeword that reaches an UP link intact, on a link with few errors. -/
structure State.Intact (s : State) (n : Nat) (errs : List LaneErr) (fix : Errs) : Prop where
  up : (s.link n).state = .up
  decoded : linkDecode ((s.link n).pattern errs) = some fix
  sound : ((s.link n).pattern errs).after fix = []
  quiet : ((s.link n).noteFixed s.time.dev fix.length).noisy = false

theorem Link.noteFixed_corrected (l : Link) (now k : Nat) : (l.noteFixed now k).corrected = l.corrected + k := by
  unfold Link.noteFixed
  dsimp only
  split
  · next none_ =>
    have none_ : k = 0 := by simpa using none_
    subst none_
    rfl
  · rfl

/-- What the discarding of a DATA flit changes of a link. -/
theorem Link.discarded_spec (l : Link) (now : Nat) :
    (l.discarded now).sansErrors = { l.sansErrors with
      replays := satAdd 32 l.replays 1, discarding := true, nakAt := (l.discarded now).nakAt, sent := (l.discarded now).sent }
    ∧ (l.discarded now).noisy = l.noisy
    ∧ ((∀ at_, l.nakAt = some (at_, l.lastSeq) → 200 ≤ now - at_) → .ctrl l.lastSeq (nakFlit l.lastSeq) ∈ (l.discarded now).sent
      ∧ (l.discarded now).nakAt = some (now, l.lastSeq))
    ∧ ((∃ at_, l.nakAt = some (at_, l.lastSeq) ∧ now - at_ < 200) → (l.discarded now).nakAt = l.nakAt) := by
  unfold Link.discarded
  dsimp only
  generalize hq : (match l.nakAt with
    | some (t, q) => q == l.lastSeq && decide (now - t < 200)
    | none => false : Bool) = quiet
  cases quiet with
  | true =>
    refine ⟨rfl, rfl, fun late => ?_, fun _ => rfl⟩
    cases at_ : l.nakAt with
    | none => simp [at_] at hq
    | some x =>
      obtain ⟨t, q⟩ := x
      simp only [at_, Bool.and_eq_true, beq_iff_eq, decide_eq_true_eq] at hq
      obtain ⟨rfl, recent⟩ := hq
      have := late t at_
      omega
  | false =>
    refine ⟨rfl, rfl, fun _ => ⟨List.mem_append_right _ (List.mem_singleton.2 rfl), rfl⟩, fun ⟨t, at_, recent⟩ => ?_⟩
    simp [at_, recent] at hq

/-- Of all links a flit changes its own, and of the module its links. -/
def State.LinkOnly (s : State) (n : Nat) (t : State) : Prop := (∀ k, k ≠ n → t.link k = s.link k) ∧ t = { s with links := t.links }

theorem State.linkOnly_setLink (l : Link) : s.LinkOnly n (s.setLink n l) := ⟨fun _ other => s.setLink_other n l other, rfl⟩

variable (h : s.Intact n errs fix)
include h

omit h in
theorem Link.came_lastSeq (l : Link) (now : Nat) (ack : Byte) : (l.came now fix ack).lastSeq = l.lastSeq :=
  (congrArg Link.lastSeq (l.came_sansErrors now fix ack) :)

theorem State.Intact.came_noisy (ack : Byte) : ((s.link n).came s.time.dev fix ack).noisy = false :=
  (Link.acked_noisy _ _).trans h.quiet

omit h in
theorem Link.takes_spec {c l : Link} (own : c.sansErrors = l.sansErrors) (check : Packet → Option Status) :
    ((c.takes f check).received = l.received ++ (((streamed l.arriving f.bytes).takeWhile whole).filter pktReq).map (fun p => ⟨p, check p⟩)
      ∧ (c.takes f check).answers = l.answers ++ ((streamed l.arriving f.bytes).takeWhile whole).filter fun p => !pktReq p)
    ∧ (c.takes f check).arriving = (streamed l.arriving f.bytes).dropWhile whole ∧ (c.takes f check).replays = l.replays := by
  have arriving : c.arriving = l.arriving := (congrArg Link.arriving own :)
  have received : c.received = l.received := (congrArg Link.received own :)
  have answers : c.answers = l.answers := (congrArg Link.answers own :)
  unfold Link.takes
  dsimp only
  rw [arriving, received, answers]
  exact ⟨⟨rfl, rfl⟩, rfl, (congrArg Link.replays own :)⟩

omit h in
theorem Link.came_corrected (l : Link) (now : Nat) (ack : Byte) : (l.came now fix ack).corrected = l.corrected + fix.length := by
  unfold Link.came
  rw [Link.acked_eq]
  exact l.noteFixed_corrected now fix.length

/-- The next DATA flit is taken, and acknowledged: by a DATA flit that may go out now, or by an IDLE one. -/
theorem exec_dataFlit_next (spare : f.spare = 0) (passes : dataGood (s.link n).arriving f.bytes = true)
    (next : f.seq = (s.link n).lastSeq + 1) :
    ∃ t, exec (.dataFlit n f errs) s = .next t ∧ s.LinkOnly n t
      ∧ (t.link n).sansFlow = (((s.link n).came s.time.dev fix f.ack).takes f (s.inboundCheck n)).sansFlow
      ∧ ((t.link n).sent = (s.link n).sent ++ [.idle f.seq] ∨ ∃ q b, .data q f.seq b ∈ (t.link n).sent) := by
  have own := Link.came_sansErrors (s.link n) s.time.dev fix f.ack
  have last := Link.came_lastSeq (fix := fix) (s.link n) s.time.dev f.ack
  have quiet := h.came_noisy f.ack
  have sentSame : ((s.link n).came s.time.dev fix f.ack).sent = (s.link n).sent := (congrArg Link.sent own :)
  have up : ((s.link n).came s.time.dev fix f.ack).state = .up := (congrArg Link.state own :).trans h.up
  have taken := State.takeData_next (s := s) (n := n) (f := f) (next.trans (congrArg (· + 1) last.symm))
    (congrArg Link.peerFabric own :) (congrArg Link.peerSlot own :)
  have flit := State.flitIn_taken (good := dataGood (s.link n).arriving f.bytes) (bad := (State.discardFlit · n))
    (take := (State.takeData · n f)) h.up h.decoded h.sound spare passes
  generalize hl : ((s.link n).came s.time.dev fix f.ack).takes f (s.inboundCheck n) = l at taken ⊢
  have last2 : l.lastSeq = f.seq := by rw [← hl]; rfl
  have sent2 : l.sent = (s.link n).sent := by rw [← hl]; exact sentSame
  have up2 : l.state = .up := by rw [← hl]; exact up
  have quiet2 : l.noisy = false := by rw [← hl]; exact quiet
  have ran : exec (.dataFlit n f errs) s = .next ((s.setLink n (l.pump l.toSend.length)).idleAck n (s.link n)) := by
    rw [exec_dataFlit, flit]
    refine congrArg (fun u : State => Host.Outcome.next (u.idleAck n (s.link n))) ?_
    refine (congrArg (fun u : State => (u.pumpLink n).watchErrors n) taken).trans ?_
    rw [State.pumpLink_setLink]
    refine State.watchErrors_quiet ?_
    rw [State.setLink_same]
    exact (Link.noisy_of_sansFlow (Link.pump_sansFlow _ _)).trans quiet2
  have flow := Link.pump_sansFlow l.toSend.length l
  have differs : f.seq ≠ (s.link n).lastSeq := by
    rw [next]
    intro eq
    have := congrArg (fun b : Byte => b - (s.link n).lastSeq) eq
    simp at this
  rcases l.pump_cases l.toSend.length with idle | ⟨q, b, sent, more⟩
  · rw [idle] at ran
    have acked : (s.setLink n l).idleAck n (s.link n) = s.setLink n { l with sent := l.sent ++ [.idle l.lastSeq] } := by
      unfold State.idleAck
      rw [State.setLink_same]
      dsimp only
      rw [if_pos (by simp [up2, last2, differs, sent2]), State.onLink_setLink]
    rw [acked] at ran
    refine ⟨_, ran, State.linkOnly_setLink _, ?_, .inl ?_⟩
    · rw [State.setLink_same]
      rfl
    · rw [State.setLink_same]
      dsimp only
      rw [sent2, last2]
  · have same : (s.setLink n (l.pump l.toSend.length)).idleAck n (s.link n) = s.setLink n (l.pump l.toSend.length) := by
      unfold State.idleAck
      rw [State.setLink_same]
      dsimp only
      rw [if_neg (by rw [← sent2]; simp; omega)]
    rw [same] at ran
    refine ⟨_, ran, State.linkOnly_setLink _, ?_, .inr ⟨q, b, ?_⟩⟩
    · rw [State.setLink_same]
      exact flow
    · rw [State.setLink_same, ← last2]
      exact sent

/-- A link whose codeword counted, and whose DATA flit was discarded; others may have gone out since. -/
def State.Discards (s : State) (n : Nat) (t : State) : Prop :=
  ∃ l : Link, l.sansErrors = (s.link n).sansErrors ∧ (t.link n).sansFlow = (l.discarded s.time.dev).sansFlow
    ∧ (l.discarded s.time.dev).sent <+: (t.link n).sent

omit h in
/-- What a discarded DATA flit leaves and changes of its link. -/
theorem State.Discards.spec {t : State} (h : s.Discards n t) :
    ((t.link n).lastSeq = (s.link n).lastSeq ∧ (t.link n).received = (s.link n).received ∧ (t.link n).answers = (s.link n).answers
      ∧ (t.link n).arriving = (s.link n).arriving)
    ∧ (t.link n).replays = satAdd 32 (s.link n).replays 1 ∧ (t.link n).discarding = true
    ∧ ((∀ at_, (s.link n).nakAt = some (at_, (s.link n).lastSeq) → 200 ≤ s.time.dev - at_) →
      .ctrl (s.link n).lastSeq (nakFlit (s.link n).lastSeq) ∈ (t.link n).sent ∧ (t.link n).nakAt = some (s.time.dev, (s.link n).lastSeq))
    ∧ ((∃ at_, (s.link n).nakAt = some (at_, (s.link n).lastSeq) ∧ s.time.dev - at_ < 200) → (t.link n).nakAt = (s.link n).nakAt) := by
  obtain ⟨l, own, flow, sent⟩ := h
  obtain ⟨spec, _, late, soon⟩ := l.discarded_spec s.time.dev
  have nakAt : (t.link n).nakAt = (l.discarded s.time.dev).nakAt := (congrArg Link.nakAt flow :)
  have before : l.nakAt = (s.link n).nakAt := (congrArg Link.nakAt own :)
  have last : l.lastSeq = (s.link n).lastSeq := (congrArg Link.lastSeq own :)
  have replays : l.replays = (s.link n).replays := (congrArg Link.replays own :)
  rw [before, last] at late soon
  have all : (t.link n).sansFlow.sansErrors = (l.discarded s.time.dev).sansErrors.sansFlow := (congrArg Link.sansErrors flow :)
  rw [spec] at all
  refine ⟨⟨(congrArg Link.lastSeq all :).trans last, (congrArg Link.received all :).trans (congrArg Link.received own :),
    (congrArg Link.answers all :).trans (congrArg Link.answers own :), (congrArg Link.arriving all :).trans (congrArg Link.arriving own :)⟩,
    (congrArg Link.replays all :).trans (congrArg (satAdd 32 · 1) replays), (congrArg Link.discarding all :), fun old => ?_, fun recent => ?_⟩
  · obtain ⟨told, at_⟩ := late old
    exact ⟨sent.subset told, nakAt.trans at_⟩
  · exact nakAt.trans (soon recent)

omit h in
theorem exec_dataFlit_discards {l m : Link} {x : State} (quiet : l.noisy = false) (own : l.sansErrors = (s.link n).sansErrors)
    (flit : s.flitIn n f errs (dataGood (s.link n).arriving f.bytes) (State.discardFlit · n) (State.takeData · n f) = x.watchErrors n)
    (hx : x = s.setLink n m) (flow : m.sansFlow = (l.discarded s.time.dev).sansFlow) (sent : (l.discarded s.time.dev).sent <+: m.sent) :
    ∃ t, exec (.dataFlit n f errs) s = .next t ∧ s.LinkOnly n t ∧ s.Discards n t := by
  obtain ⟨spec, noisy, _⟩ := l.discarded_spec s.time.dev
  have last : m.lastSeq = (s.link n).lastSeq := by
    have one : m.lastSeq = (l.discarded s.time.dev).lastSeq := (congrArg Link.lastSeq flow :)
    have two : (l.discarded s.time.dev).lastSeq = l.lastSeq := (congrArg Link.lastSeq spec :)
    exact one.trans (two.trans (congrArg Link.lastSeq own :))
  have watched : x.watchErrors n = s.setLink n m := by
    rw [hx]
    refine State.watchErrors_quiet ?_
    rw [State.setLink_same]
    exact (Link.noisy_of_sansFlow flow).trans (noisy.trans quiet)
  refine ⟨s.setLink n m, ?_, State.linkOnly_setLink _, l, own, ?_, ?_⟩
  · rw [exec_dataFlit, flit, watched, State.idleAck_same]
    rw [State.setLink_same]
    exact last
  · rw [State.setLink_same]
    exact flow
  · rw [State.setLink_same]
    exact sent

/-- Any other DATA flit is discarded, also where its ACK has freed flits and others go out. -/
theorem exec_dataFlit_other (fails : f.spare ≠ 0 ∨ dataGood (s.link n).arriving f.bytes = false ∨ f.seq ≠ (s.link n).lastSeq + 1) :
    ∃ t, exec (.dataFlit n f errs) s = .next t ∧ s.LinkOnly n t ∧ s.Discards n t := by
  by_cases whole_ : f.spare = 0 ∧ dataGood (s.link n).arriving f.bytes = true
  · obtain ⟨spare, passes⟩ := whole_
    have other : f.seq ≠ (s.link n).lastSeq + 1 := by simpa [spare, passes] using fails
    refine exec_dataFlit_discards (h.came_noisy f.ack) (Link.came_sansErrors ..)
      (State.flitIn_taken h.up h.decoded h.sound spare passes) ?_
      (Link.pump_sansFlow (((s.link n).came s.time.dev fix f.ack).discarded s.time.dev).toSend.length _) (Link.pump_sent _ _)
    exact (congrArg (State.pumpLink · n) (State.takeData_other (l := (s.link n).came s.time.dev fix f.ack) (by rw [Link.came_lastSeq]; exact other))).trans (State.pumpLink_setLink _)
  · refine exec_dataFlit_discards h.quiet (Link.noteFixed_sansErrors _ _ _) (State.flitIn_turned h.up h.decoded ?_)
      (State.discardFlit_setLink _) rfl (List.prefix_refl _)
    by_cases spare : f.spare = 0
    · exact .inr (by simpa [spare] using whole_)
    · exact .inl spare

/-! ### The other flits -/

/-- A flit whose take keeps to its own link, with nothing that waits to be sent. -/
theorem State.Intact.run {good : Bool} {bad take : State → State} (spare : f.spare = 0) (passes : good = true) {l : Link}
    (taken : take (s.setLink n ((s.link n).came s.time.dev fix f.ack)) = s.setLink n l) (none_ : l.toSend = []) (quiet : l.noisy = false) :
    s.flitIn n f errs good bad take = s.setLink n l := by
  rw [State.flitIn_taken h.up h.decoded h.sound spare passes]
  refine (congrArg (fun u : State => (u.pumpLink n).watchErrors n) taken).trans ?_
  rw [State.pumpLink_none none_]
  exact State.watchErrors_quiet (by rw [State.setLink_same]; exact quiet)

theorem exec_spare (spare : f.spare ≠ 0) {c : Instr} (hc : c ∈ [Instr.idleFlit n f errs, .nak n f errs, .credit n f errs,
    .ident n f errs, .timesyncReceive n f errs, .timesyncAnswer n f errs]) :
    exec c s = .next (s.setLink n ((s.link n).noteFixed s.time.dev fix.length)) := by
  obtain ⟨good, take, ran⟩ := exec_ctrl (s := s) hc
  rw [ran, State.flitIn_turned h.up h.decoded (.inl spare)]
  exact congrArg Host.Outcome.next (State.watchErrors_quiet (by rw [id, State.setLink_same]; exact h.quiet))

section
variable (spare : f.spare = 0) (none_ : (s.link n).toSend = [])
include spare none_

omit h spare in
theorem Link.came_toSend : ((s.link n).came s.time.dev fix f.ack).toSend = [] :=
  (congrArg Link.toSend (Link.came_sansErrors (s.link n) s.time.dev fix f.ack) :).trans none_

theorem exec_idleFlit : exec (.idleFlit n f errs) s = .next (s.setLink n ((s.link n).came s.time.dev fix f.ack)) :=
  congrArg Host.Outcome.next (h.run (take := id) spare rfl rfl (Link.came_toSend none_) (h.came_noisy f.ack))

/-- The flits that a NAK has sent again. -/
def Link.nakked (l : Link) (f : Flit) : List (Byte × List Byte) :=
  match l.replay.findIdx? fun x => x.1.toNat == fieldAt f.bytes 1 1 with
  | some i => l.replay.drop (i + 1)
  | none => l.replay

theorem exec_nak (kind : ctrlGood 1 f.bytes = true) :
    exec (.nak n f errs) s = .next (s.setLink n (((s.link n).came s.time.dev fix f.ack).resend
      (((s.link n).came s.time.dev fix f.ack).nakked f))) := by
  have start : exec (.nak n f errs) s
      = .next (s.flitIn n f errs (ctrlGood 1 f.bytes) id fun u => u.onLink n fun l => l.resend (l.nakked f)) := rfl
  rw [start]
  exact congrArg Host.Outcome.next (h.run spare kind (State.onLink_setLink ..) (Link.came_toSend none_) (h.came_noisy f.ack))

omit h spare none_ in
theorem Link.nakked_of_mem {l : Link} {pre post : List (Byte × List Byte)} {q : Byte} {ps : List Byte}
    (replay : l.replay = pre ++ (q, ps) :: post) (before : ∀ x ∈ pre, x.1.toNat ≠ fieldAt f.bytes 1 1)
    (here : q.toNat = fieldAt f.bytes 1 1) : l.nakked f = post := by
  unfold Link.nakked
  rw [replay, findIdx?_of_split (by simpa using before) (by simpa using here)]
  exact drop_past_split ..

omit h spare none_ in
theorem Link.nakked_of_absent {l : Link} (absent : ∀ x ∈ l.replay, x.1.toNat ≠ fieldAt f.bytes 1 1) : l.nakked f = l.replay := by
  unfold Link.nakked
  rw [List.findIdx?_eq_none_iff.2 (by simpa using absent)]

omit h spare none_ in
theorem State.settle_sansNetwork (u : State) (n : Nat) :
    { u.settle n with links := [], engines := [] } = ({ u with links := [], engines := [] } : State) :=
  (congrArg (fun u : State => { u with links := [] }) (u.settle_sansEngines n) :)

omit h spare none_ in
theorem State.with_links {s w : State} (h : { w with links := [], engines := [] } = ({ s with links := [], engines := [] } : State))
    (ls : Sparse Link) : { w with links := ls } = { s with links := ls, engines := w.engines } :=
  (congrArg (fun u : State => { u with links := ls, engines := w.engines }) h :)

/-- IDENT of another module: the partner's identity, and the bundles that settle with it. -/
theorem exec_ident_other (kind : ctrlGood 2 f.bytes = true) (foreign : s.isSelf (identOf f.bytes) = false) :
    ∃ t, exec (.ident n f errs) s = .next t
      ∧ t.link n = { (s.link n).came s.time.dev fix f.ack with
          peerFabric := (identOf f.bytes).fabricId, peerSlot := (identOf f.bytes).slotId % 16
          peerLink := (identOf f.bytes).linkNo % 256 }
      ∧ (∀ k, k ≠ n → t.link k = s.link k) ∧ t = { s with links := t.links, engines := t.engines } := by
  let told (l : Link) : Link := { l with
    peerFabric := (identOf f.bytes).fabricId, peerSlot := (identOf f.bytes).slotId % 16, peerLink := (identOf f.bytes).linkNo % 256 }
  have start : exec (.ident n f errs) s = .next (s.flitIn n f errs (ctrlGood 2 f.bytes) id fun u =>
      if u.isSelf (identOf f.bytes) then u.linkOff n .down 2 else ((u.settle n).onLink n told).settle n) := rfl
  have taken := State.flitIn_taken (good := ctrlGood 2 f.bytes) (bad := id) (take := fun u =>
      if u.isSelf (identOf f.bytes) then u.linkOff n .down 2 else ((u.settle n).onLink n told).settle n) h.up h.decoded h.sound spare kind
  rw [start, taken]
  generalize hv : s.setLink n (((s.link n).noteFixed s.time.dev fix.length).acked f.ack) = v
  have own : v.link n = (s.link n).came s.time.dev fix f.ack := by rw [← hv]; exact s.setLink_same n _
  have others (k : Nat) (other : k ≠ n) : v.link k = s.link k := by rw [← hv]; exact s.setLink_other n _ other
  have frame : { v with links := [], engines := [] } = ({ s with links := [], engines := [] } : State) := by rw [← hv]; rfl
  have same : v.isSelf (identOf f.bytes) = false := by rw [← hv]; exact foreign
  dsimp only
  rw [if_neg (by simp [same])]
  generalize hw : ((v.settle n).onLink n told).settle n = w
  have link (k : Nat) : w.link k = ((v.settle n).onLink n told).link k := by rw [← hw]; exact State.settle_link ..
  have wOwn : w.link n = told ((s.link n).came s.time.dev fix f.ack) := by rw [link, State.onLink_same, State.settle_link, own]
  have wOthers (k : Nat) (other : k ≠ n) : w.link k = s.link k := by
    rw [link, State.onLink_other _ n other, State.settle_link, others k other]
  have wFrame : { w with links := [], engines := [] } = ({ s with links := [], engines := [] } : State) := by
    rw [← frame, ← hw]
    exact (State.settle_sansNetwork _ n).trans (State.settle_sansNetwork v n)
  have quiet : (w.link n).noisy = false := by rw [wOwn]; exact h.came_noisy f.ack
  have idle : (w.link n).toSend = [] := by rw [wOwn]; exact Link.came_toSend none_
  rw [State.watchErrors_pumped quiet]
  refine ⟨_, rfl, ?_, fun k other => (w.pumpLink_other n other).trans (wOthers k other), ?_⟩
  · refine (w.onLink_same n _).trans ?_
    rw [idle]
    exact wOwn
  · exact State.with_links wFrame _

end

/-- CREDIT sets the cumulative limits, and what may be sent then goes out. -/
theorem exec_credit (spare : f.spare = 0) (kind : ctrlGood 3 f.bytes = true) :
    ∃ t, exec (.credit n f errs) s = .next t ∧ s.LinkOnly n t ∧ (t.link n).reqLimit = fieldAt f.bytes 4 2
      ∧ (t.link n).rspLimit = fieldAt f.bytes 6 2 ∧ (t.link n).toSend ⊆ (s.link n).toSend ∧ (t.link n).received = (s.link n).received := by
  have own := Link.came_sansErrors (s.link n) s.time.dev fix f.ack
  have start : exec (.credit n f errs) s = .next (s.flitIn n f errs (ctrlGood 3 f.bytes) id fun u =>
      u.onLink n fun l => { l with reqLimit := fieldAt f.bytes 4 2, rspLimit := fieldAt f.bytes 6 2 }) := rfl
  have quiet := h.came_noisy f.ack
  rw [start, State.flitIn_taken h.up h.decoded h.sound spare kind, State.onLink_setLink,
    show ((s.link n).noteFixed s.time.dev fix.length).acked f.ack = (s.link n).came s.time.dev fix f.ack from rfl]
  generalize (s.link n).came s.time.dev fix f.ack = l at own quiet ⊢
  have pumped := State.watchErrors_pumped (s := s.setLink n { l with reqLimit := fieldAt f.bytes 4 2, rspLimit := fieldAt f.bytes 6 2 }) (n := n)
    (by rw [State.setLink_same]; exact quiet)
  rw [pumped, State.pumpLink_setLink]
  have flow := Link.pump_sansFlow l.toSend.length { l with reqLimit := fieldAt f.bytes 4 2, rspLimit := fieldAt f.bytes 6 2 }
  refine ⟨_, rfl, State.linkOnly_setLink _, ?_, ?_, ?_, ?_⟩ <;> rw [State.setLink_same]
  · exact (congrArg Link.reqLimit flow :)
  · exact (congrArg Link.rspLimit flow :)
  · have queue : l.toSend = (s.link n).toSend := (congrArg Link.toSend own :)
    exact queue ▸ Link.pump_toSend _ _
  · exact (congrArg Link.received flow :).trans (congrArg Link.received own :)

/-- IDENT of this very module takes the link down. -/
theorem exec_ident_self (spare : f.spare = 0) (kind : ctrlGood 2 f.bytes = true) (self : s.isSelf (identOf f.bytes) = true) :
    ∃ t, exec (.ident n f errs) s = .next t ∧ (t.link n).state = .down := by
  let told (l : Link) : Link := { l with
    peerFabric := (identOf f.bytes).fabricId, peerSlot := (identOf f.bytes).slotId % 16, peerLink := (identOf f.bytes).linkNo % 256 }
  have start : exec (.ident n f errs) s = .next (s.flitIn n f errs (ctrlGood 2 f.bytes) id fun u =>
      if u.isSelf (identOf f.bytes) then u.linkOff n .down 2 else ((u.settle n).onLink n told).settle n) := rfl
  rw [start, State.flitIn_taken h.up h.decoded h.sound spare kind]
  generalize hv : s.setLink n (((s.link n).noteFixed s.time.dev fix.length).acked f.ack) = v
  have same : v.isSelf (identOf f.bytes) = true := by rw [← hv]; exact self
  rw [if_pos same]
  have down : (((v.linkOff n .down 2).pumpLink n).link n).state = .down :=
    (congrArg Link.state ((v.linkOff n .down 2).pumpLink_sansFlow n) :).trans (v.linkOff_off n 2).1
  rw [State.watchErrors_notUp (by rw [down]; decide)]
  exact ⟨_, rfl, down⟩

end
end
end Sys2Proof.Machine

open Sys2Proof Sys2Proof.Machine

/-- Settles O55: a codeword is dropped, turned away or taken; a DATA flit that is next is delivered whole packets first and
acknowledged, and any other is discarded and answered with a NAK. -/
theorem linksDeliverOnceAndInOrder : Obligations.LinksDeliverOnceAndInOrder := by
  intro s n f errs l only again e came up
  refine ⟨fun lost c hc => ?_, fun fix decoded sound => ?_, fun pre post ps replay before => ?_, if_neg (by simp [up, l]), fun owed => ?_⟩
  · rw [exec_lost up lost hc]
    unfold State.watchErrors
    rw [State.setLink_same]
  · intro l0 quiet l1
    have h : s.Intact n errs fix := ⟨up, decoded, sound, quiet⟩
    have own : l1.sansErrors = l.sansErrors := Link.came_sansErrors l s.time.dev fix f.ack
    refine ⟨fun spare passes next => ?_, fun fails => ?_, fun spare none_ => ⟨?_, fun kind => ?_, fun kind foreign => ?_⟩,
      fun spare kind => ?_, fun spare kind self => exec_ident_self h spare kind self, fun spare c hc => exec_spare h spare hc⟩
    · obtain ⟨t, ran, alone, flow, sent⟩ := exec_dataFlit_next h spare passes next
      obtain ⟨⟨received, answers⟩, arriving, replays⟩ := Link.takes_spec (f := f) own (s.inboundCheck n)
      exact ⟨t, ran, alone, (congrArg Link.lastSeq flow :), (congrArg Link.received flow :).trans received,
        (congrArg Link.answers flow :).trans answers, sent, (congrArg Link.arriving flow :).trans arriving, (congrArg Link.discarding flow :),
        (congrArg Link.replays flow :).trans replays, (congrArg Link.corrected flow :).trans (Link.came_corrected l s.time.dev f.ack)⟩
    · obtain ⟨t, ran, alone, discards⟩ := exec_dataFlit_other h fails
      obtain ⟨⟨last, received, answers, arriving⟩, rest⟩ := discards.spec
      exact ⟨t, ran, alone, last, received, answers, arriving, rest⟩
    · exact ⟨_, exec_idleFlit h spare none_, State.linkOnly_setLink _, State.setLink_same ..⟩
    · have resent (fs : List (Byte × List Byte)) : l1.resend fs = { l1 with sent := l.sent ++ again fs } := by
        have sent : l1.sent = l.sent := (congrArg Link.sent own :)
        have last : l1.lastSeq = l.lastSeq := (congrArg Link.lastSeq own :)
        unfold Link.resend
        rw [sent, last]
      refine ⟨_, exec_nak h spare none_ kind, State.linkOnly_setLink _, fun pre post q ps replay before here => ?_, fun absent => ?_⟩
      · rw [State.setLink_same]
        exact (congrArg l1.resend (Link.nakked_of_mem replay before here)).trans (resent post)
      · rw [State.setLink_same]
        exact (congrArg l1.resend (Link.nakked_of_absent absent)).trans (resent l1.replay)
    · exact exec_ident_other h spare none_ kind foreign
    · obtain ⟨t, ran, alone, req, rsp, queue, received⟩ := exec_credit h spare kind
      exact ⟨t, ran, alone, req, rsp, fun p hp => queue hp, received⟩
  · unfold Link.acked
    rw [replay, findIdx?_of_split (by simpa using before) (by simp)]
    dsimp only
    rw [drop_past_split]
  · have start : exec (.creditReturn n) s = execCreditReturn n s := rfl
    have some_ : ¬((l.reqOwed == 0) && (l.rspOwed == 0)) = true := by rcases owed with owed | owed <;> simp [owed]
    rw [start]
    exact if_neg (by simpa [up, l] using some_)
end

section
/-! Requests of a partner, and responses to own requests (R441, R442). -/

namespace Sys2Proof.Machine

/-! ### A packet that is handed to a link goes out or waits (R434, R438) -/

/-- A packet waits to be sent on a link, or all its flits have gone out. -/
def State.Hands (t : State) (n : Nat) (q : Packet) : Prop :=
  q ∈ (t.link n).toSend ∨ ∀ b ∈ packetFlits q, ∃ seq ack, .data seq ack b ∈ (t.link n).sent

theorem exists_numbered (seq : Byte) {fs : List (List Byte)} {b : List Byte} (hb : b ∈ fs) : ∃ q, (q, b) ∈ numbered seq fs := by
  obtain ⟨i, hi⟩ := List.mem_iff_getElem?.1 hb
  exact ⟨seq + BitVec.ofNat 8 i, List.mem_map.2 ⟨(b, i), List.mem_zipIdx_iff_getElem?.2 hi, rfl⟩⟩

theorem Link.emit_hands (l : Link) (p : Packet) {b : List Byte} (hb : b ∈ packetFlits p) :
    .data (Classical.choose (exists_numbered l.nextSeq hb)) l.lastSeq b ∈ (l.emit p).sent :=
  List.mem_append_right _ (List.mem_map.2 ⟨_, Classical.choose_spec (exists_numbered l.nextSeq hb), rfl⟩)

theorem Link.pump_hands (k : Nat) {l : Link} {q : Packet} (waits : q ∈ l.toSend) :
    q ∈ (l.pump k).toSend ∨ ∀ b ∈ packetFlits q, ∃ seq ack, .data seq ack b ∈ (l.pump k).sent := by
  induction k generalizing l with
  | zero => exact .inl waits
  | succ k ih =>
    unfold Link.pump
    split
    · exact .inl waits
    · split
      · exact .inl waits
      · next p _ =>
        by_cases same : q = p
        · subst same
          exact .inr fun b hb => ⟨_, _, (Link.pump_sent k (l.emit q)).subset (l.emit_hands q hb)⟩
        · exact ih ((List.mem_erase_of_ne same).2 waits)

section
variable {s : State} {n : Nat}

/-- What handing a packet to a link changes: its transmitter. -/
theorem State.sendPacket_spec (q : Packet) : (s.sendPacket n q).Hands n q
    ∧ ((s.sendPacket n q).link n).sansFlow = (s.link n).sansFlow ∧ s.LinkOnly n (s.sendPacket n q) := by
  have run : s.sendPacket n q = s.setLink n (({ s.link n with toSend := (s.link n).toSend ++ [q] } : Link).pump ((s.link n).toSend ++ [q]).length) :=
    State.pumpLink_setLink _
  rw [run]
  refine ⟨?_, ?_, State.linkOnly_setLink _⟩
  · unfold State.Hands
    rw [State.setLink_same]
    exact Link.pump_hands _ (List.mem_append_right _ (List.mem_singleton.2 rfl))
  · rw [State.setLink_same]
    exact Link.pump_sansFlow _ _

/-- The response to a partner's request. -/
def answerPacket (tag : Nat) (write : Bool) (len : Nat) (r : Status × List Byte) : Packet :=
  if r.1 ≠ .ok then ⟨5, 0, r.1.code, tag, 0, []⟩ else if write then ⟨4, 0, 0, tag, 0, []⟩ else ⟨3, len, 0, tag, 0, r.2⟩

theorem State.respond_spec (tag : Nat) (write : Bool) (len addr : Nat) (r : Status × List Byte) :
    (s.respond n tag write len addr r).Hands n (answerPacket tag write len r)
    ∧ ((s.respond n tag write len addr r).link n).sansFlow = (s.link n).sansFlow
    ∧ s.respond n tag write len addr r = { s with
        links := (s.respond n tag write len addr r).links, log := (s.respond n tag write len addr r).log } := by
  by_cases ok : r.1 = .ok
  · have run : s.respond n tag write len addr r = s.sendPacket n (if write then ⟨4, 0, 0, tag, 0, []⟩ else ⟨3, len, 0, tag, 0, r.2⟩) :=
      if_pos (by simpa using ok)
    have packet : answerPacket tag write len r = if write then ⟨4, 0, 0, tag, 0, []⟩ else ⟨3, len, 0, tag, 0, r.2⟩ :=
      if_neg (by simpa using ok)
    rw [run, packet]
    generalize (if write then ⟨4, 0, 0, tag, 0, []⟩ else ⟨3, len, 0, tag, 0, r.2⟩ : Packet) = q
    obtain ⟨hands, flow, _, frame⟩ := State.sendPacket_spec (s := s) (n := n) q
    generalize s.sendPacket n q = t at hands flow frame ⊢
    refine ⟨hands, flow, ?_⟩
    rw [frame]
  · have run : s.respond n tag write len addr r = (s.addLog 14 0 31 addr (n * 256 + r.1.code)
        ((s.link n).peerFabric.toNat * 16 + (s.link n).peerSlot)).sendPacket n ⟨5, 0, r.1.code, tag, 0, []⟩ := if_neg (by simpa using ok)
    have packet : answerPacket tag write len r = ⟨5, 0, r.1.code, tag, 0, []⟩ := if_pos ok
    rw [run, packet]
    generalize hu : s.addLog 14 0 31 addr (n * 256 + r.1.code) ((s.link n).peerFabric.toNat * 16 + (s.link n).peerSlot) = u
    obtain ⟨hands, flow, _, frame⟩ := State.sendPacket_spec (s := u) (n := n) ⟨5, 0, r.1.code, tag, 0, []⟩
    generalize u.sendPacket n _ = t at hands flow frame ⊢
    refine ⟨hands, flow.trans (by rw [← hu]; rfl), ?_⟩
    rw [frame, ← hu]
    rfl

/-! ### What comes of a partner's request leaves the links alone until it is answered -/

theorem State.access_links (u : State) (q : Req) (a : Nat) (acc : Access) (fl : List SymErr) : (u.access q a acc fl).1.links = u.links :=
  (congrArg State.links (u.access_sansAccess q a acc fl) :)

theorem State.makePart_links (u : State) (who : Requester) (part a : Nat) (acc : Access) (fl : List SymErr) :
    (u.makePart who part a acc fl).1.links = u.links := by
  unfold State.makePart
  split
  · exact ite_fst_keeps (F := State.links) rfl (u.access_links ..)
  · exact u.access_links ..

theorem State.makeParts_links (u : State) (who : Requester) (first : Nat) (fl : List SymErr) (parts : List (Option Nat × Access)) :
    (u.makeParts who first fl parts).1.links = u.links := by
  induction parts generalizing u first fl with
  | nil => rfl
  | cons p r ih =>
    obtain ⟨_ | a, acc⟩ := p
    · exact ih u (first + 1) fl
    · exact (ih _ _ _).trans (u.makePart_links who first a acc fl)

theorem State.gather_links (u : State) (who : Requester) (write : Bool) (len : Nat) (parts : List (Option Nat × Access)) :
    (u.gather who write len parts []).1.links = u.links := by
  unfold State.gather
  exact ite_fst_keeps (F := State.links) (u.makeParts_links ..) (u.makeParts_links ..)

/-! ### Requests -/

theorem State.inboundCheck_eq (p : Packet) : s.inboundCheck n p =
    if s.admitsInbound (s.link n).peerFabric (s.link n).peerSlot p.addr (64 * p.len) = false then some .denied
    else if p.len = 0 then some .badLength else if 64 < p.len then some .bound else none := by
  unfold State.inboundCheck
  simp only [firstFail, Bool.not_eq_true', beq_iff_eq, decide_eq_true_eq]

/-- The packet at the front has left the receive buffer, and its credits are owed. -/
def State.Taken (s : State) (n : Nat) (p : Packet) (rest : List Asked) (t : State) : Prop :=
  (t.link n).received = rest ∧ (t.link n).reqOwed = (s.link n).reqOwed + pktUnits p

variable {p : Packet} {why : Option Status} {rest : List Asked} (front : (s.link n).received = ⟨p, why⟩ :: rest)
  (request : p.type = 1 ∨ p.type = 2)
include front request

theorem Link.consumed_request : (s.link n).consumed p = { s.link n with received := rest, reqOwed := (s.link n).reqOwed + pktUnits p } := by
  unfold Link.consumed
  rw [if_pos (by rcases request with h | h <;> simp [pktReq, h]), front]
  rfl

theorem State.taken_of {t : State} (received : (t.link n).received = ((s.link n).consumed p).received)
    (owed : (t.link n).reqOwed = ((s.link n).consumed p).reqOwed) : s.Taken n p rest t := by
  rw [Link.consumed_request front request] at received owed
  exact ⟨received, owed⟩

variable (up : (s.link n).state = .up)
include up

theorem State.serveRequest_refused {st : Status} (said : why = some st) (bad : st ≠ .ok) :
    (s.serveRequest n p.type).Hands n ⟨5, 0, st.code, p.tag, 0, []⟩ ∧ s.Taken n p rest (s.serveRequest n p.type)
      ∧ s.serveRequest n p.type = { s with links := (s.serveRequest n p.type).links, log := (s.serveRequest n p.type).log } := by
  subst said
  have run : s.serveRequest n p.type
      = (s.onLink n fun l => l.consumed p).respond n p.tag (p.type == 2) p.len p.addr (st, []) := by
    unfold State.serveRequest
    dsimp only
    rw [front]
    dsimp only
    rw [if_neg (by simp [up])]
  rw [run]
  obtain ⟨hands, flow, frame⟩ := State.respond_spec (s := s.onLink n fun l => l.consumed p) (n := n) p.tag (p.type == 2) p.len p.addr (st, [])
  have packet : answerPacket p.tag (p.type == 2) p.len (st, []) = ⟨5, 0, st.code, p.tag, 0, []⟩ := if_pos bad
  rw [packet] at hands
  generalize State.respond _ n p.tag _ p.len p.addr _ = t at hands flow frame ⊢
  rw [State.onLink_same] at flow
  refine ⟨hands, State.taken_of front request (congrArg Link.received flow :) (congrArg Link.reqOwed flow :), ?_⟩
  rw [frame]
  rfl

omit request in
/-- An admitted request is served part by part, where the hold queue has room. -/
theorem State.serveRequest_admitted (said : why = none) {parts : List (Nat × Access)}
    (hp : partsOf p.addr (if p.type = 1 then .read (64 * p.len) else .write p.data) = parts) :
    s.serveRequest n p.type =
      if parts.any fun q => s.noRoom q.1 (accLen q.2) then s
      else
        let r := ((s.onLink n fun l => l.consumed p).linkCount n 31 (pktUnits p)).gather (.link n p.tag) (p.type == 2) p.len
          (parts.map fun q => (some q.1, q.2)) []
        r.2.elim r.1 fun x => r.1.respond n p.tag (p.type == 2) p.len p.addr x := by
  subst said hp
  unfold State.serveRequest
  dsimp only
  rw [front]
  dsimp only
  rw [if_neg (by simp [up])]
  simp only [beq_iff_eq]
  generalize partsOf p.addr _ = parts
  by_cases full : (parts.any fun q => s.noRoom q.1 (accLen q.2)) = true
  · rw [if_pos full, if_pos full]
  · rw [if_neg full, if_neg full]
    generalize State.gather _ _ _ _ _ _ = r
    obtain ⟨u, answer⟩ := r
    cases answer <;> rfl

/-- The module while a request is served: its packet has been taken, and counts for the activity of the link. -/
def State.serving (s : State) (n : Nat) (p : Packet) : State × Option (Status × List Byte) :=
  ((s.onLink n fun l => l.consumed p).linkCount n 31 (pktUnits p)).gather (.link n p.tag) (p.type == 2) p.len
    ((partsOf p.addr (if p.type = 1 then .read (64 * p.len) else .write p.data)).map fun q => (some q.1, q.2)) []

omit up in
theorem State.serving_taken : s.Taken n p rest (s.serving n p).1 := by
  have own : (s.serving n p).1.link n = ((s.onLink n fun l => l.consumed p).linkCount n 31 (pktUnits p)).link n :=
    State.link_of_links (State.gather_links ..) n
  have counted : ((s.onLink n fun l => l.consumed p).linkCount n 31 (pktUnits p)).link n
      = { (s.link n).consumed p with act := Sparse.modify 0 ((s.link n).consumed p).act 31 (· + pktUnits p) } := by
    unfold State.linkCount
    rw [State.onLink_same, State.onLink_same]
  rw [counted] at own
  exact State.taken_of front request (congrArg Link.received own :) (congrArg Link.reqOwed own :)

/-- A request all of whose parts are there is answered with what came of them. -/
theorem State.serveRequest_answered (said : why = none)
    (room : ∀ q ∈ partsOf p.addr (if p.type = 1 then .read (64 * p.len) else .write p.data), s.noRoom q.1 (accLen q.2) = false)
    {x : Status × List Byte} (answer : (s.serving n p).2 = some x) :
    s.Taken n p rest (s.serveRequest n p.type) ∧ (s.serveRequest n p.type).Hands n (answerPacket p.tag (p.type == 2) p.len x)
      ∧ s.serveRequest n p.type = { (s.serving n p).1 with
          links := (s.serveRequest n p.type).links, log := (s.serveRequest n p.type).log } := by
  have run : s.serveRequest n p.type = (s.serving n p).1.respond n p.tag (p.type == 2) p.len p.addr x := by
    rw [State.serveRequest_admitted front up said rfl, if_neg (by simpa using room)]
    exact congrArg (fun o : Option (Status × List Byte) => o.elim (s.serving n p).1 fun x =>
      (s.serving n p).1.respond n p.tag (p.type == 2) p.len p.addr x) answer
  rw [run]
  obtain ⟨hands, flow, frame⟩ := State.respond_spec (s := (s.serving n p).1) (n := n) p.tag (p.type == 2) p.len p.addr x
  obtain ⟨received, owed⟩ := State.serving_taken front request
  exact ⟨⟨(congrArg Link.received flow :).trans received, (congrArg Link.reqOwed flow :).trans owed⟩, hands, frame⟩

omit request in
theorem State.serveRequest_waits (said : why = none)
    (full : ∃ q ∈ partsOf p.addr (if p.type = 1 then .read (64 * p.len) else .write p.data), s.noRoom q.1 (accLen q.2) = true) :
    s.serveRequest n p.type = s := by
  rw [State.serveRequest_admitted front up said rfl, if_pos (List.any_eq_true.2 full)]

omit request in
theorem State.serveRequest_held (said : why = none)
    (room : ∀ q ∈ partsOf p.addr (if p.type = 1 then .read (64 * p.len) else .write p.data), s.noRoom q.1 (accLen q.2) = false)
    (held : (s.serving n p).2 = none) : s.serveRequest n p.type = (s.serving n p).1 := by
  rw [State.serveRequest_admitted front up said rfl, if_neg (by simpa using room)]
  exact congrArg (fun o : Option (Status × List Byte) => o.elim (s.serving n p).1 fun x =>
    (s.serving n p).1.respond n p.tag (p.type == 2) p.len p.addr x) held

end

/-! ### Responses -/

section
variable {s : State} {n : Nat}

/-- What a response says of its request (R8, R442). -/
def responseGot (p : Packet) (o : Outstanding) : Got :=
  if p.type == 5 then { status := if p.status == 0 then .hwError else Status.ofCode p.status }
  else if (p.type == 3) == o.write then { status := .hwError }
  else if o.write then {}
  else if o.len < p.len || 64 < p.len then { status := .bound }
  else if p.len < o.len then { status := .badLength }
  else { data := p.data }

theorem responseGot_status (p : Packet) (o : Outstanding) : (responseGot p o).status =
    if p.type = 5 then (if p.status = 0 then .hwError else Status.ofCode p.status)
    else if o.write = decide (p.type = 3) then .hwError else if o.write = true then .ok
    else if o.len < p.len ∨ 64 < p.len then .bound else if p.len < o.len then .badLength else .ok := by
  have kinds : ((p.type == 3) == o.write) = true ↔ o.write = decide (p.type = 3) := by
    rw [beq_iff_eq, eq_comm]
    rfl
  unfold responseGot
  simp only [kinds, beq_iff_eq, Bool.or_eq_true, decide_eq_true_eq, apply_ite Got.status]

theorem responseGot_failed (p : Packet) (o : Outstanding) (bad : (responseGot p o).status ≠ .ok) :
    responseGot p o = { status := (responseGot p o).status } := by
  unfold responseGot at bad ⊢
  by_cases error : (p.type == 5) = true
  · rw [if_pos error]
  · rw [if_neg error] at bad ⊢
    split_ifs at bad ⊢
    · rfl
    · rfl
    · rfl
    · rfl
    · exact absurd rfl bad

theorem responseGot_data (p : Packet) (o : Outstanding) (kind : p.type ≠ 5) (ok : (responseGot p o).status = .ok) :
    (responseGot p o).data = if o.write = true then [] else p.data := by
  unfold responseGot at ok ⊢
  rw [if_neg (by simpa using kind)] at ok ⊢
  split_ifs at ok ⊢ <;> rfl

/-- The module as a response has been taken from its buffer, before its channel hears of it. -/
def State.responding (s : State) (n : Nat) (p : Packet) (ch : Nat) : State :=
  let u := (s.onLink n fun l => l.consumed p).onLink n fun l => { l with outstanding := l.outstanding.filter fun o => o.tag != p.tag }
  u.linkCount n (u.chan ch).polder (pktUnits p)

variable {p : Packet} {left : List Packet} {pre post : List Outstanding} {o : Outstanding}
  (front : (s.link n).answers = p :: left) (kind : p.type = 3 ∨ p.type = 4 ∨ p.type = 5)
  (asked : (s.link n).outstanding = pre ++ o :: post) (tag : o.tag = p.tag) (alone : ∀ x ∈ pre ++ post, x.tag ≠ p.tag)
include front kind asked tag alone

theorem State.responding_spec : ∃ l, s.responding n p o.ch = s.setLink n l ∧ l.outstanding = pre ++ post ∧ l.answers = left
    ∧ l.received = (s.link n).received ∧ l.rspOwed = (s.link n).rspOwed + pktUnits p := by
  have left_ : (pre ++ o :: post).filter (fun x => x.tag != p.tag) = pre ++ post := by
    have keep (l : List Outstanding) (h : ∀ x ∈ l, x.tag ≠ p.tag) : l.filter (fun x => x.tag != p.tag) = l :=
      List.filter_eq_self.2 (by simpa using h)
    rw [List.filter_append, List.filter_cons_of_neg (by simp [tag]), keep pre fun x hx => alone x (List.mem_append_left _ hx),
      keep post fun x hx => alone x (List.mem_append_right _ hx)]
  have response : (s.link n).consumed p = { s.link n with answers := left, rspOwed := (s.link n).rspOwed + pktUnits p } := by
    unfold Link.consumed
    rw [if_neg (by rcases kind with h | h | h <;> simp [pktReq, h]), front]
    rfl
  have run : s.responding n p o.ch = s.setLink n { (s.link n).consumed p with
      outstanding := ((s.link n).consumed p).outstanding.filter fun x => x.tag != p.tag
      act := Sparse.modify 0 ((s.link n).consumed p).act (s.chan o.ch).polder (· + pktUnits p) } := by
    unfold State.responding
    dsimp only
    rw [show (s.onLink n fun l => l.consumed p) = s.setLink n ((s.link n).consumed p) from rfl, State.onLink_setLink]
    exact State.onLink_setLink ..
  refine ⟨_, run, ?_, ?_, ?_, ?_⟩ <;> rw [response]
  exact (congrArg (List.filter fun x : Outstanding => x.tag != p.tag) asked).trans left_

omit kind in
theorem State.takeResponse_eq (up : (s.link n).state = .up) : s.takeResponse n p.type
    = (s.responding n p o.ch).answered o.ch o.life o.addr (if o.write then .write (zeros (64 * o.len)) else .read (64 * o.len))
      (responseGot p o) := by
  have found : ((s.link n).outstanding.find? fun x => x.tag == p.tag) = some o := by
    rw [asked, List.find?_append, List.find?_eq_none.2 fun x hx => by simpa using alone x (List.mem_append_left _ hx)]
    simp [tag]
  unfold State.takeResponse
  dsimp only
  rw [front]
  dsimp only
  rw [if_neg (by simp [up])]
  rw [found]
  rfl

end

/-! ### What a channel hears of its request -/

section
variable (s : State) (ch life addr : Nat) (acc : Access) {g : Got} (alive : (s.chan ch).life = life)
include alive

/-- An answer that is OK: read data joins what the channel has got, and the request counts no more. -/
theorem State.answered_ok (ok : g.status = .ok) : ∃ c, s.answered ch life addr acc g = s.setChan ch c
    ∧ c.got = (s.chan ch).got ++ (if accWrites acc = true then [] else g.data) ∧ c.remote = (s.chan ch).remote - 1
    ∧ c.progressAt = s.time.dev ∧ c.state = (s.chan ch).state := by
  unfold State.answered
  rw [if_pos (by simpa using alive)]
  unfold State.delivered
  dsimp only
  rw [if_neg (by rw [State.onChan_self]; simpa using alive), if_neg (by simp [ok])]
  unfold State.progress
  rw [State.onChan_onChan, State.onChan_onChan]
  refine ⟨_, rfl, ?_⟩
  cases acc with
  | read k => exact ⟨rfl, rfl, rfl, rfl⟩
  | write l =>
    dsimp only
    split
    · exact ⟨by simp [accWrites], rfl, rfl, rfl⟩
    · split <;> exact ⟨by simp [accWrites], rfl, rfl, rfl⟩

/-- An answer that fails halts the channel that asked, on a host ring of an engine under HALT_CHANNEL. -/
theorem State.answered_halts {st : Status} (bad : st ≠ .ok) (works : s.working ch = true) (host : (s.chan ch).dev = false)
    (mode : (s.engine (engineOf ch)).stopAll = false) :
    ((s.answered ch life addr acc { status := st }).chan ch).state = .halted
      ∧ ((s.answered ch life addr acc { status := st }).chan ch).code = st := by
  unfold State.answered
  rw [if_pos (by simpa using alive)]
  generalize hu : (s.onChan ch fun c => { c with remote := c.remote - 1 }) = u
  have own : u.chan ch = { s.chan ch with remote := (s.chan ch).remote - 1 } := by rw [← hu]; exact s.onChan_self ch _
  have still : u.working ch = true := by
    unfold State.working
    rw [own]
    exact works
  have mode : (u.engine (engineOf ch)).stopAll = false := by rw [← hu]; exact mode
  unfold State.delivered
  dsimp only
  rw [if_neg (by rw [own]; simpa using alive), if_pos (by simpa using bad)]
  unfold State.devFail State.jobFail
  rw [if_neg (by simp [still]), if_neg (by simp)]
  have halts := u.endDesc_halts ch (by rw [own]; exact host) (u.on_of_working ch still) mode st (u.chan ch).done addr (accWrites acc) false
  exact ⟨halts.state, halts.code⟩

end

/-- The work of channels leaves the links alone. -/
theorem workClosed_links : WorkClosed fun u v => v.links = u.links where
  refl _ := rfl
  trans h k := k.trans h
  work h := (congrArg State.links h :)
  access u q a acc fl := u.access_links q a acc fl

end Sys2Proof.Machine

open Sys2Proof Sys2Proof.Machine

/-- Settles O56: the request at the front is refused, waits, or is served and answered; a response ends its request, and its
channel takes the data or halts. -/
theorem remoteRequestsAndResponses : Obligations.RemoteRequestsAndResponses := by
  intro s n p l given admitted up
  refine ⟨s.inboundCheck_eq p, fun c why rest front hc => ?_, fun c left o pre post front hc asked tag alone alive => ?_⟩
  · have request : p.type = 1 ∨ p.type = 2 := hc.imp And.right And.right
    have ran : exec c s = .next (s.serveRequest n p.type) := by
      rcases hc with ⟨rfl, kind⟩ | ⟨rfl, kind⟩ <;> rw [kind] <;> rfl
    intro write acc parts taken refused
    refine ⟨fun st said bad => ⟨_, ran, State.serveRequest_refused front request up said bad⟩, fun said => ?_⟩
    intro r
    refine ⟨fun full => ?_, fun room => ⟨fun held => ⟨?_, State.serving_taken front request⟩, fun st data answer => ?_⟩⟩
    · rw [ran, State.serveRequest_waits front up said full]
    · rw [ran, State.serveRequest_held front up said room held]
      rfl
    · obtain ⟨took, hands, frame⟩ := State.serveRequest_answered front request up said room answer
      refine ⟨_, ran, took, hands, ?_, ?_, ?_, ?_⟩ <;> rw [frame] <;> rfl
  · have kind : p.type = 3 ∨ p.type = 4 ∨ p.type = 5 := by
      simp only [List.mem_cons, Prod.mk.injEq, List.not_mem_nil, or_false] at hc
      exact hc.imp And.right (Or.imp And.right And.right)
    have ran : exec c s = .next (s.takeResponse n p.type) := by
      simp only [List.mem_cons, Prod.mk.injEq, List.not_mem_nil, or_false] at hc
      rcases hc with ⟨rfl, kind⟩ | ⟨rfl, kind⟩ | ⟨rfl, kind⟩ <;> rw [kind] <;> rfl
    rw [State.takeResponse_eq front asked tag alone up] at ran
    obtain ⟨m, took, rest, answers, received, owed⟩ := State.responding_spec front kind asked tag alone
    intro ended st
    have status : (responseGot p o).status = st := responseGot_status p o
    rw [took] at ran
    refine ⟨fun other ok => ?_, fun bad works host mode => ?_⟩
    · obtain ⟨d, now, got, remote, at_, state⟩ := (s.setLink n m).answered_ok o.ch o.life o.addr
        (if o.write then .write (zeros (64 * o.len)) else .read (64 * o.len)) alive (status.trans ok)
      rw [now] at ran
      have own : ((s.setLink n m).setChan o.ch d).link n = m := s.setLink_same n m
      have chan : ((s.setLink n m).setChan o.ch d).chan o.ch = d := (s.setLink n m).onChan_self o.ch fun _ => d
      have data := responseGot_data p o other (status.trans ok)
      refine ⟨_, ran, ⟨?_, ?_, ?_, ?_, fun k other => s.setLink_other n m other⟩, ?_, ?_, ?_, ?_,
        fun k other => (s.setLink n m).onChan_other o.ch (fun _ => d) other, rfl⟩
      · rw [own]
        exact rest
      · rw [own]
        exact answers
      · rw [own]
        exact received
      · rw [own]
        exact owed
      · rw [chan, got, data]
        cases o.write <;> rfl
      · rw [chan]
        exact remote
      · rw [chan]
        exact at_
      · rw [chan]
        exact state
    · have fails := responseGot_failed p o (by rw [status]; exact bad)
      rw [status] at fails
      rw [fails] at ran
      have links := workClosed_links.answered_failed (s.setLink n m) o.ch o.life o.addr
        (if o.write then .write (zeros (64 * o.len)) else .read (64 * o.len)) st bad
      obtain ⟨state, code⟩ := (s.setLink n m).answered_halts o.ch o.life o.addr
        (if o.write then .write (zeros (64 * o.len)) else .read (64 * o.len)) alive bad works host mode
      generalize State.answered _ _ _ _ _ _ = t at ran links state code
      have own : t.link n = m := (State.link_of_links links n).trans (s.setLink_same n m)
      refine ⟨t, ran, ⟨?_, ?_, ?_, ?_, fun k other => (State.link_of_links links k).trans (s.setLink_other n m other)⟩, state, code⟩ <;> rw [own]
      · exact rest
      · exact answers
      · exact received
      · exact owed
end

section
/-! The exit from COOLANT_HOLD (R385). -/

namespace Sys2Proof.Machine

/-! ### Self-refresh of under-core memory ends, and never begins, with what links that fall silent bring about -/

/-- Polders, half-dies and edge stacks are the same, and no die's memory has entered self-refresh. -/
def State.Wakes (u v : State) : Prop :=
  v.polders = u.polders ∧ v.halfDies = u.halfDies ∧ v.edgeStacks = u.edgeStacks
    ∧ ∀ d, (v.ucmDie d).selfRefresh = true → (u.ucmDie d).selfRefresh = true

theorem State.Wakes.of {u v : State} (polders : v.polders = u.polders) (halfDies : v.halfDies = u.halfDies)
    (stacks_ : v.edgeStacks = u.edgeStacks) (dies : v.ucmDies = u.ucmDies) : u.Wakes v :=
  ⟨polders, halfDies, stacks_, fun d h => (congrArg (fun m => (Sparse.get ({} : UcmDie) m d).selfRefresh) dies).symm.trans h⟩

theorem accessClosed_wakes : AccessClosed State.Wakes where
  refl u := .of rfl rfl rfl rfl
  trans h k := by
    obtain ⟨p, d, e, w⟩ := h
    obtain ⟨p', d', e', w'⟩ := k
    exact ⟨p'.trans p, d'.trans d, e'.trans e, fun x hx => w x (w' x hx)⟩
  body h w := ⟨(congrArg State.polders h :), (congrArg State.halfDies h :), (congrArg State.edgeStacks h :), w⟩
  event u p r0 r1 code :=
    have h := u.event_sansSends p r0 r1 code
    .of (congrArg State.polders h :) (congrArg State.halfDies h :) (congrArg State.edgeStacks h :) (congrArg State.ucmDies h :)

theorem State.Wakes.of_sansNet {u v : State} (h : v.sansNet = u.sansNet) : u.Wakes v :=
  .of (congrArg State.polders h :) (congrArg State.halfDies h :) (congrArg State.edgeStacks h :) (congrArg State.ucmDies h :)

theorem workClosed_wakes : WorkClosed State.Wakes where
  refl := accessClosed_wakes.refl
  trans := accessClosed_wakes.trans
  work h := .of (congrArg State.polders h :) (congrArg State.halfDies h :) (congrArg State.edgeStacks h :) (congrArg State.ucmDies h :)
  access u q a acc fl := accessClosed_wakes.access u q a acc fl

theorem State.linksSilent_wakes (s : State) (x : LinkState) : s.Wakes (s.linksSilent x) :=
  workClosed_wakes.linksSilent s State.Wakes.of_sansNet x

/-! ### Self-refresh ends with the hold -/

/-- A die that is not shut down leaves self-refresh. -/
def State.wakeDie (s : State) (d : Nat) : State :=
  if Sparse.get false s.thermal.shut d then s else s.onUcmDie d fun x => { x with selfRefresh := false }

/-- A stack that is not shut down leaves self-refresh. -/
def State.wakeStack (s : State) (e : Nat) : State :=
  if (s.stack e).shut then s else s.onStack e fun x => { x with selfRefresh := false }

/-- The module without under-core memory's dies, the edge stacks and the thermal registers. -/
def State.sansHold (s : State) : State := { s with ucmDies := [], edgeStacks := [], thermal := {} }

section
variable (s : State)

theorem State.wakeDie_sansHold (d : Nat) : (s.wakeDie d).sansHold = s.sansHold := State.ite_keeps (F := State.sansHold) rfl rfl
theorem State.wakeStack_sansHold (e : Nat) : (s.wakeStack e).sansHold = s.sansHold := State.ite_keeps (F := State.sansHold) rfl rfl
theorem State.wakeDie_thermal (d : Nat) : (s.wakeDie d).thermal = s.thermal := State.ite_keeps (F := State.thermal) rfl rfl
theorem State.wakeStack_thermal (e : Nat) : (s.wakeStack e).thermal = s.thermal := State.ite_keeps (F := State.thermal) rfl rfl
theorem State.wakeDie_stacks (d : Nat) : (s.wakeDie d).edgeStacks = s.edgeStacks := State.ite_keeps (F := State.edgeStacks) rfl rfl
theorem State.wakeStack_dies (e : Nat) : (s.wakeStack e).ucmDies = s.ucmDies := State.ite_keeps (F := State.ucmDies) rfl rfl

theorem State.wakeDies_ucmDie (d : Nat) (small : d < 12) : (s.each (List.range 12) State.wakeDie).ucmDie d
    = if Sparse.get false s.thermal.shut d then s.ucmDie d else { s.ucmDie d with selfRefresh := false } := by
  have all := State.each_at_of (P := fun u => u.thermal = s.thermal) (V := State.ucmDie) (g := State.wakeDie)
    (φ := fun d x => if Sparse.get false s.thermal.shut d then x else { x with selfRefresh := false })
    (fun u x hu => (u.wakeDie_thermal x).trans hu)
    (fun u x hu => by
      unfold State.wakeDie
      rw [hu]
      split
      · rfl
      · exact (State.onUcmDie_ucmDie ..).trans (if_pos rfl))
    (fun u x y other => State.ite_keeps (F := fun v => v.ucmDie y) rfl ((State.onUcmDie_ucmDie ..).trans (if_neg (Ne.symm other))))
    (List.range 12) s d rfl List.nodup_range
  rw [if_pos (List.mem_range.2 small)] at all
  exact all

theorem State.wakeStacks_stack (e : Nat) (small : e < 32) : (s.each (List.range 32) State.wakeStack).stack e
    = if (s.stack e).shut then s.stack e else { s.stack e with selfRefresh := false } := by
  have all := State.each_at (V := State.stack) (g := State.wakeStack)
    (φ := fun _ x => if x.shut then x else { x with selfRefresh := false })
    (fun u x => by
      unfold State.wakeStack
      split
      · rfl
      · exact (State.onStack_stack ..).trans (if_pos rfl))
    (fun u x y other => State.ite_keeps (F := fun v => v.stack y) rfl ((State.onStack_stack ..).trans (if_neg (Ne.symm other))))
    (List.range 32) s e List.nodup_range
  rw [if_pos (List.mem_range.2 small)] at all
  exact all

/-- The memories that are in service leave self-refresh. -/
@[irreducible] def State.woken (s : State) : State := (s.each (List.range 12) State.wakeDie).each (List.range 32) State.wakeStack

theorem State.woken_sansHold : s.woken.sansHold = s.sansHold := by
  unfold State.woken
  exact (State.each_keeps (F := State.sansHold) (g := State.wakeStack) State.wakeStack_sansHold _ _).trans
    (State.each_keeps (F := State.sansHold) (g := State.wakeDie) State.wakeDie_sansHold _ _)

theorem State.woken_thermal : s.woken.thermal = s.thermal := by
  unfold State.woken
  exact (State.each_keeps (F := State.thermal) (g := State.wakeStack) State.wakeStack_thermal _ _).trans
    (State.each_keeps (F := State.thermal) (g := State.wakeDie) State.wakeDie_thermal _ _)

theorem State.woken_ucmDie (d : Nat) (small : d < 12) : s.woken.ucmDie d
    = if Sparse.get false s.thermal.shut d then s.ucmDie d else { s.ucmDie d with selfRefresh := false } := by
  have dies : s.woken.ucmDies = (s.each (List.range 12) State.wakeDie).ucmDies := by
    unfold State.woken
    exact State.each_keeps (F := State.ucmDies) (g := State.wakeStack) State.wakeStack_dies _ _
  exact (congrArg (fun m => Sparse.get ({} : UcmDie) m d) dies).trans (s.wakeDies_ucmDie d small)

theorem State.woken_stack (e : Nat) (small : e < 32) : s.woken.stack e
    = if (s.stack e).shut then s.stack e else { s.stack e with selfRefresh := false } := by
  have before : (s.each (List.range 12) State.wakeDie).stack e = s.stack e :=
    congrArg (fun m => Sparse.get ({} : Stack) m e) (State.each_keeps (F := State.edgeStacks) (g := State.wakeDie) State.wakeDie_stacks _ _)
  unfold State.woken
  rw [State.wakeStacks_stack _ e small, before]

/-- The exit, where its conditions have held: the memories wake, and the links look for their partners. -/
theorem exec_coolantHoldExit_eq (held : s.thermal.coolantHold = true) (running : s.trust.running = true) (good : s.coolantGood = true) :
    ∃ cause, exec .coolantHoldExit s = .next
      ((({ s with thermal := { s.thermal with coolantHold := false } } : State).woken.linksSilent .detect).event 0xFFFF cause 1 0x08) := by
  unfold State.woken
  exact ⟨_, if_neg (by simp [held, running, good])⟩

end

variable {s : State}

theorem exec_coolantHoldExit (held : s.thermal.coolantHold = true) (running : s.trust.running = true) (good : s.coolantGood = true) :
    ∃ t, exec .coolantHoldExit s = .next t ∧ t.thermal.coolantHold = false
      ∧ (∀ d < 12, Sparse.get false s.thermal.shut d = false → (t.ucmDie d).selfRefresh = false)
      ∧ (∀ e < 32, (t.stack e).selfRefresh = if (s.stack e).shut then (s.stack e).selfRefresh else false)
      ∧ t.polders = s.polders ∧ t.halfDies = s.halfDies := by
  obtain ⟨cause, ran⟩ := exec_coolantHoldExit_eq s held running good
  generalize hu : ({ s with thermal := { s.thermal with coolantHold := false } } : State) = u at ran
  have shut : u.thermal.shut = s.thermal.shut := (congrArg (fun v : State => v.thermal.shut) hu.symm :)
  have stack (e : Nat) : u.stack e = s.stack e := (congrArg (fun v : State => v.stack e) hu.symm :)
  obtain ⟨polders, halfDies, stacks_, wakes⟩ := accessClosed_wakes.trans (u.woken.linksSilent_wakes .detect)
    (accessClosed_wakes.event (u.woken.linksSilent .detect) 0xFFFF cause 1 0x08)
  refine ⟨_, ran, ?_, fun d small open_ => ?_, fun e small => ?_, ?_, ?_⟩
  · rw [State.event_thermal, State.linksSilent_thermal, State.woken_thermal]
    exact (congrArg (fun v : State => v.thermal.coolantHold) hu.symm :)
  · refine Bool.eq_false_iff.2 fun h => ?_
    have woke := wakes d h
    rw [u.woken_ucmDie d small, if_neg (by rw [shut, open_]; exact Bool.false_ne_true)] at woke
    cases woke
  · refine (congrArg (fun m => (Sparse.get ({} : Stack) m e).selfRefresh) stacks_).trans ?_
    refine (congrArg Stack.selfRefresh (u.woken_stack e small)).trans ?_
    rw [stack]
    split <;> rfl
  · exact polders.trans ((congrArg State.polders u.woken_sansHold :).trans (congrArg State.polders hu.symm :))
  · exact halfDies.trans ((congrArg State.halfDies u.woken_sansHold :).trans (congrArg State.halfDies hu.symm :))

end Sys2Proof.Machine
end

section
/-! SUPPORT. A coolant loss (R384): while COOLANT_HOLD stands no access reaches a memory, and the package floodgate leaves every
memory as it is. -/

namespace Sys2Proof.Machine

/-! ### In COOLANT_HOLD no access is served (R178, R200, R384) -/

theorem pieces_same {unit : Nat} {one : State → Nat → Access → List SymErr → State × Got} {s : State}
    (h : ∀ a acc fl, (one s a acc fl).1 = s) (n a : Nat) (acc : Access) (fl : List SymErr) : (pieces unit one n s a acc fl).1 = s := by
  induction n generalizing a acc fl with
  | zero => rfl
  | succ n ih =>
    unfold pieces
    dsimp only
    split
    · rw [h]
      exact ih _ _ _
    · exact h _ _ _

theorem ite_fst_same {β γ : Type} {p : Prop} [Decidable p] {x y : β × γ} {s : β} (hx : x.1 = s) (hy : y.1 = s) :
    (if p then x else y).1 = s := by
  split
  · exact hx
  · exact hy

theorem fst_of_pos {β γ : Type} {p : Prop} [Decidable p] {x y : β × γ} {s : β} (h : p) (hx : x.1 = s) : (if p then x else y).1 = s := by
  rw [if_pos h]
  exact hx

section
variable {s : State} (held : s.thermal.coolantHold = true)
include held

theorem State.edgePiece_held (q : Req) (a : Nat) (acc : Access) (fl : List SymErr) : (s.edgePiece q a acc fl).1 = s := by
  unfold State.edgePiece
  split
  · rfl
  · dsimp only
    rw [if_pos (by simp [State.stackOff, held])]

theorem State.scratchPiece_held (b : By) (a : Nat) (acc : Access) (fl : List SymErr) : (State.scratchPiece b s a acc fl).1 = s := by
  unfold State.scratchPiece
  exact ite_fst_same rfl (fst_of_pos (by simp [held]) rfl)

theorem State.aperturePiece_held (who : Requester) (a : Nat) (acc : Access) (fl : List SymErr) : (s.aperturePiece who a acc fl).1 = s := by
  unfold State.aperturePiece
  exact ite_fst_same rfl (fst_of_pos (by simp [State.ucmOff, held]) rfl)

theorem State.aperture_held (who : Requester) (a : Nat) (acc : Access) (fl : List SymErr) : (s.aperture who a acc fl).1 = s := by
  unfold State.aperture
  exact pieces_same (fun a acc fl => State.aperturePiece_held held who a acc fl) _ _ _ _

theorem State.scratch_held (b : By) (n a : Nat) (acc : Access) (fl : List SymErr) : (pieces 128 (State.scratchPiece b) n s a acc fl).1 = s :=
  pieces_same (fun a acc fl => State.scratchPiece_held held b a acc fl) _ _ _ _

theorem State.access_held (q : Req) (a : Nat) (acc : Access) (fl : List SymErr) : (s.access q a acc fl).1 = s := by
  unfold State.access
  refine pieces_same (fun a acc fl => ?_) _ _ _ _
  exact ite_fst_same rfl (ite_fst_same (State.edgePiece_held held q a acc fl)
    (ite_fst_same (State.scratch_held held _ _ a acc fl)
      (ite_fst_same (State.aperture_held held q.who a acc fl) rfl)))

/-- A log goes to host memory, or nowhere. -/
theorem State.writeOut_held (f out : Nat) (l : List Byte) : (s.writeOut f out l).1.sansSends = s.sansSends := by
  unfold State.writeOut
  refine ite_fst_keeps (F := State.sansSends) rfl ?_
  refine ite_fst_keeps (F := State.sansSends) (ite_fst_keeps (F := State.sansSends) rfl ?_) ?_
  · refine ite_fst_keeps (F := State.sansSends) (congrArg State.sansSends ?_) rfl
    refine pieces_same (fun a acc fl => ?_) _ _ _ _
    dsimp only
    exact ite_fst_same (State.access_held held _ a acc fl) (State.access_held held _ a acc fl)
  · split
    · next t written => exact (sendsTo_hostWrite (f := f) written).1.sansSends_eq
    · rfl

end

/-! ### What leaves every memory, and whether it is powered and refreshes itself -/

/-- The memories stand as `State.Still` says; the thermal registers, under-core memory's dies and what supplies the stacks are the
same. -/
structure State.Cool (s t : State) : Prop where
  thermal : t.thermal = s.thermal
  dies : t.ucmDies = s.ucmDies
  powered : ∀ e, (t.stack e).on = (s.stack e).on
  still : State.Still s t

namespace State.Cool

variable {s t u : State}

theorem refl (s : State) : State.Cool s s := ⟨rfl, rfl, fun _ => rfl, .refl s⟩

theorem trans (h : State.Cool s t) (k : State.Cool t u) : State.Cool s u :=
  ⟨k.thermal.trans h.thermal, k.dies.trans h.dies, fun e => (k.powered e).trans (h.powered e), h.still.trans k.still⟩

/-- The module without anything but its memories and what keeps them. -/
def view (s : State) : Thermal × Sparse UcmDie × Sparse Stack × Memory × Memory × Sparse EdgeCh :=
  (s.thermal, s.ucmDies, s.edgeStacks, s.ucm, s.edge, s.channels)

theorem of_view (h : view t = view s) : State.Cool s t where
  thermal := congrArg Prod.fst h
  dies := congrArg (fun v => v.2.1) h
  powered e := congrArg (fun m => (Sparse.get ({} : Stack) m e).on) (congrArg (fun v => v.2.2.1) h :)
  still := .of_view (congrArg (fun v => v.2.2.2) h)

theorem each {α : Type} {g : State → α → State} (h : ∀ u x, State.Cool u (g u x)) (l : List α) (s : State) : State.Cool s (s.each l g) := by
  induction l generalizing s with
  | nil => exact .refl s
  | cons x l ih => exact (h s x).trans (ih _)

theorem sent (h : t.sansSends = s.sansSends) : State.Cool s t := .of_view (congrArg view h :)

theorem of_sansHalt (h : t.sansHalt = s.sansHalt) (powered : ∀ e, (t.stack e).on = (s.stack e).on) (still : State.Still s t) : State.Cool s t :=
  ⟨(congrArg State.thermal h :), (congrArg State.ucmDies h :), powered, still⟩

theorem nbUndefine_stacks (s : State) (e : Nat) (c : NbCmd) : (s.nbUndefine e c).edgeStacks = s.edgeStacks := by
  have one (u : State) (r : Nat × Nat) : ({ (u.freeBytes r.2).2 with
      edge := (u.freeBytes r.2).2.edge.write (edgeAddr e r.1) (u.freeBytes r.2).1 } : State).edgeStacks = u.edgeStacks := rfl
  unfold State.nbUndefine
  exact State.each_keeps (F := State.edgeStacks) one _ s

theorem nbDiscard (s : State) (sel : NbCmd → Bool) : State.Cool s (s.nbDiscard sel) := by
  refine .of_sansHalt (s.nbDiscard_sansHalt sel) (fun e => ?_) (.nbDiscard s sel)
  have cleared (u : State) (c : Nat) : ((u.setEdgeCh c { u.edgeCh c with
      queue := (u.edgeCh c).queue.filter fun x => !sel x
      aborts := satAdd 16 (u.edgeCh c).aborts ((u.edgeCh c).queue.filter sel).length }).each ((u.edgeCh c).queue.filter sel)
        fun v x => v.nbUndefine c x).edgeStacks = u.edgeStacks :=
    State.each_keeps (F := State.edgeStacks) (g := fun v x => v.nbUndefine c x) (fun v x => nbUndefine_stacks v c x) _ _
  have first := State.each_keeps (F := State.edgeStacks) (g := fun u c => (u.setEdgeCh c { u.edgeCh c with
      queue := (u.edgeCh c).queue.filter fun x => !sel x
      aborts := satAdd 16 (u.edgeCh c).aborts ((u.edgeCh c).queue.filter sel).length }).each ((u.edgeCh c).queue.filter sel)
        fun v x => v.nbUndefine c x) cleared (s.channels.map Prod.fst) s
  unfold State.nbDiscard
  refine (State.each_keeps (F := fun u => (u.stack e).on)
    (g := fun u k => u.onStack k fun y => { y with dispatch := y.dispatch.filter fun x => !sel x }) (fun u k => ?_) _ _).trans
    (congrArg (fun m => (Sparse.get ({} : Stack) m e).on) first)
  rw [State.onStack_stack]
  split
  · next same => rw [same]
  · rfl

theorem disableChan (s : State) (k : Nat) : State.Cool s (s.disableChan k) :=
  .of_sansHalt (s.disableChan_sansHalt k) (fun e => congrArg (fun m => (Sparse.get ({} : Stack) m e).on)
    (s.disableChan_keeps (F := State.edgeStacks) (fun _ _ _ => rfl) (fun _ _ => rfl) (fun _ _ _ => rfl) k)) (.disableChan s k)

theorem disabled (s : State) (sel : NbCmd → Bool) (l : List Nat) : State.Cool s ((s.nbDiscard sel).each l State.disableChan) :=
  (State.Cool.nbDiscard s sel).trans (State.Cool.each (fun u k => .disableChan u k) l _)

theorem halt (s : State) (p : Nat) : State.Cool s (s.halt p).1 := by
  have first : State.Cool s (s.each (s.listed p) fun u cl => u.onCluster cl Cluster.discard) :=
    .of_view (State.each_keeps (F := view) (g := fun u cl => u.onCluster cl Cluster.discard) (fun _ _ => rfl) _ s)
  have last : ∀ (u : State) hs, State.Cool u ((u.idleHalfDies p).junkCores hs true) := by
    intro u hs
    refine .of_view ?_
    rw [State.junkCores_eq, State.each_keeps (F := view) (g := fun v h => v.onHalfDie h (HalfDie.junked v.fresh true)) (fun _ _ => rfl)]
    exact State.each_keeps (F := view) (g := fun v h => v.onHalfDie h HalfDie.rested) (fun _ _ => rfl) _ u
  have marked : ∀ (u : State) g, State.Cool u (u.onPolder p g) := fun u g => .of_view rfl
  rw [s.halt_eq]
  exact (first.trans ((State.Cool.disabled _ (fun c => c.polder == p) (s.liveChans fun c => c.polder == p)).trans (last _ _))).trans (marked _ _)

theorem endCommand (s : State) (p : Nat) (st : Status) : State.Cool s (s.endCommand p st) := by
  unfold State.endCommand
  split
  · exact .refl s
  · next c _ =>
    have taken : State.Cool s (s.onPolder p fun x => { x with command := none }) := .of_view rfl
    exact taken.trans (.sent (State.complete_sansSends ..))

theorem jobCleared (s : State) (p : Nat) (j : Job) : State.Cool s (s.jobCleared p j) := by
  have saved : State.Cool s (s.endSave p) := by
    unfold State.endSave
    split
    · exact .endCommand s p _
    · exact .refl s
  have counted (u : State) : State.Cool u (u.countCycles p) := by
    unfold State.countCycles
    refine .of_view ?_
    exact State.each_keeps (F := view) (g := fun v cl => v.onCluster cl fun c => { c with cyc := (c.cyc + (u.polder p).cycle) % 2 ^ 64 })
      (fun _ _ => rfl) _ u
  have marked : ∀ (u : State) g, State.Cool u (u.onPolder p g) := fun u g => .of_view rfl
  refine saved.trans (.trans ?_ (marked _ _))
  split
  · exact counted _
  · exact .refl _

/-- In COOLANT_HOLD the log of a job that ends is lost, or goes to host memory. -/
theorem finishJob (held : s.thermal.coolantHold = true) (p : Nat) (st : Status) (extra : Nat) : State.Cool s (s.finishJob p st extra) := by
  cases job : (s.polder p).job with
  | none =>
    rw [s.finishJob_of_none job]
    exact .refl s
  | some j =>
    obtain ⟨l, a, _, finished⟩ := s.finishJob_of_some job st extra
    have cleared := State.Cool.jobCleared s p j
    have still : (s.jobCleared p j).thermal.coolantHold = true := by
      rw [cleared.thermal]
      exact held
    rw [finished]
    split
    · exact cleared
    · exact cleared.trans ((State.Cool.sent (State.writeOut_held still _ _ l)).trans (.sent (State.complete_sansSends ..)))

theorem gatePolder (held : s.thermal.coolantHold = true) (p : Nat) : State.Cool s (s.gatePolder p).1 := by
  obtain ⟨-, e⟩ | ⟨-, l, e⟩ | ⟨st, e⟩ := s.gatePolder_cases p
  · rw [e]
    exact .refl s
  · rw [e]
    exact .disabled s _ l
  · have ended := State.Cool.endCommand s p .aborted
    rw [e]
    exact ended.trans ((State.Cool.finishJob (by rw [ended.thermal]; exact held) p st 0).trans (.halt _ p))

theorem packageSteps : ∀ (l : List Nat) (a : State × Nat × Bool), a.1.thermal.coolantHold = true →
    State.Cool a.1 (l.foldl State.packageStep a).1 := by
  intro l
  induction l with
  | nil => exact fun a _ => .refl a.1
  | cons n r ih =>
    intro a held
    have step : State.Cool a.1 (State.packageStep a n).1 := (State.Cool.gatePolder held n).trans (.of_view rfl)
    exact step.trans (ih _ (by rw [step.thermal]; exact held))

theorem startPackageGate (held : s.thermal.coolantHold = true) (f : Nat) : State.Cool s (s.startPackageGate f) := by
  have marked : State.Cool s (s.fgMark f 31) := .of_view (congrArg view (s.fgMark_sansIssuers f 31) :)
  by_cases hg : s.gates = []
  · obtain ⟨b, g, sel, free, n, e, started⟩ := s.startPackageGate_form f hg
    have steps := State.Cool.packageSteps ((List.range 24).filter fun n => (s.polder n).exists_) (s.fgMark f 31, b)
      (by rw [marked.thermal]; exact held)
    rw [started]
    exact (marked.trans steps).trans ((State.Cool.disabled _ sel free).trans (.of_view rfl))
  · have gates : (s.fgMark f 31).gates = s.gates := (congrArg State.gates (s.fgMark_sansIssuers f 31) :)
    unfold State.startPackageGate
    dsimp only
    rw [if_pos (by rw [gates]; simpa using hg)]
    exact marked.trans (.of_view rfl)

end State.Cool

end Sys2Proof.Machine
end

section
/-! SUPPORT. Half-dies that go OFF, and memories that enter self-refresh (R197, R384, R389, R397). -/

namespace Sys2Proof.Machine

section
variable (s : State)

/-! ### Half-dies go OFF (R389) -/

/-- The module without what half-dies hold and draw. -/
def State.sansHalves (s : State) : State :=
  { s with
    tcores := [], vcores := [], scores := [], clusters := [], fresh := 0, halfDies := []
    ledger := { s.ledger with rails := [] } }

theorem State.loseHalfDies_sansHalves (hs : List Nat) : (s.loseHalfDies hs).sansHalves = s.sansHalves := by
  unfold State.loseHalfDies
  have lost : (s.junkCores hs false).sansHalves = s.sansHalves := by
    rw [State.junkCores_eq]
    exact State.each_keeps (F := State.sansHalves) (g := fun u h => u.onHalfDie h (HalfDie.junked u.fresh false)) (fun _ _ => rfl) _ _
  exact (rfl : State.sansHalves { s.junkCores hs false with clusters := _ } = (s.junkCores hs false).sansHalves).trans lost

theorem State.offHalfDies_sansHalves (hs : List Nat) : (s.offHalfDies hs).sansHalves = s.sansHalves := by
  unfold State.offHalfDies
  dsimp only
  generalize (hs.filter fun h => (s.halfDie h).power != .off) = on
  have off := State.each_keeps (F := State.sansHalves) (g := fun u h => u.onHalfDie h fun x => { x with power := .off }) (fun _ _ => rfl)
    on (s.loseHalfDies on)
  generalize ((s.loseHalfDies on).each on fun u h => u.onHalfDie h fun x => { x with power := .off }) = t at off ⊢
  exact (rfl : State.sansHalves { t with ledger := { t.ledger with rails := _ } } = t.sansHalves).trans (off.trans (s.loseHalfDies_sansHalves on))

theorem State.junkCores_power (hs : List Nat) (regs : Bool) (k : Nat) : ((s.junkCores hs regs).halfDie k).power = (s.halfDie k).power := by
  rw [State.junkCores_eq]
  refine (State.each_keeps (F := fun u => (u.halfDie k).power) (g := fun u h => u.onHalfDie h (HalfDie.junked u.fresh regs)) (fun u h => ?_)
    hs _).trans rfl
  rw [State.onHalfDie_halfDie]
  split
  · next same => rw [← same]; rfl
  · rfl

theorem State.offHalfDies_power (hs : List Nat) (nodup : hs.Nodup) (k : Nat) :
    ((s.offHalfDies hs).halfDie k).power = if k ∈ hs then .off else (s.halfDie k).power := by
  have run : (s.offHalfDies hs).halfDie k = (((s.loseHalfDies (hs.filter fun h => (s.halfDie h).power != .off)).each
      (hs.filter fun h => (s.halfDie h).power != .off) fun u h => u.onHalfDie h fun x => { x with power := .off }).halfDie k) := rfl
  have lost : ((s.loseHalfDies (hs.filter fun h => (s.halfDie h).power != .off)).halfDie k).power = (s.halfDie k).power :=
    s.junkCores_power _ false k
  have off := State.each_at (V := State.halfDie) (g := fun u h => u.onHalfDie h fun x => { x with power := .off })
    (φ := fun _ x => { x with power := .off }) (fun u x => (State.onHalfDie_halfDie ..).trans (if_pos rfl))
    (fun u x y other => (State.onHalfDie_halfDie ..).trans (if_neg (Ne.symm other)))
    (hs.filter fun h => (s.halfDie h).power != .off) (s.loseHalfDies (hs.filter fun h => (s.halfDie h).power != .off)) k (nodup.filter _)
  rw [run, off]
  by_cases listed : k ∈ hs
  · rw [if_pos listed]
    by_cases was : (s.halfDie k).power = .off
    · rw [if_neg (by simp [was]), lost, was]
    · rw [if_pos (List.mem_filter.2 ⟨listed, by simpa using was⟩)]
  · rw [if_neg listed, if_neg fun h => listed (List.mem_filter.1 h).1, lost]

/-! ### Memories enter self-refresh, their contents kept (R197) -/

/-- A die whose memory is powered enters self-refresh. -/
def State.restDie (s : State) (d : Nat) : State := if (s.ucmDie d).on then s.onUcmDie d fun x => { x with selfRefresh := true } else s

/-- A stack that is powered enters self-refresh. -/
def State.restStack (s : State) (e : Nat) : State := if (s.stack e).on then s.onStack e fun x => { x with selfRefresh := true } else s

/-- The module without under-core memory's dies and the edge stacks. -/
def State.sansRefresh (s : State) : State := { s with ucmDies := [], edgeStacks := [] }

theorem State.ucmRefresh_sansRefresh (ds : List Nat) : (s.ucmRefresh ds).sansRefresh = s.sansRefresh :=
  State.each_keeps (F := State.sansRefresh) (g := State.restDie) (fun _ _ => State.ite_keeps (F := State.sansRefresh) rfl rfl) ds s

theorem State.stacksRefresh_sansRefresh (es : List Nat) : (s.stacksRefresh es).sansRefresh = s.sansRefresh :=
  State.each_keeps (F := State.sansRefresh) (g := State.restStack) (fun _ _ => State.ite_keeps (F := State.sansRefresh) rfl rfl) es s

theorem State.ucmRefresh_stacks (ds : List Nat) : (s.ucmRefresh ds).edgeStacks = s.edgeStacks :=
  State.each_keeps (F := State.edgeStacks) (g := State.restDie) (fun _ _ => State.ite_keeps (F := State.edgeStacks) rfl rfl) ds s

theorem State.stacksRefresh_dies (es : List Nat) : (s.stacksRefresh es).ucmDies = s.ucmDies :=
  State.each_keeps (F := State.ucmDies) (g := State.restStack) (fun _ _ => State.ite_keeps (F := State.ucmDies) rfl rfl) es s

theorem State.ucmRefresh_ucmDie (ds : List Nat) (nodup : ds.Nodup) (d : Nat) : (s.ucmRefresh ds).ucmDie d
    = if d ∈ ds then (if (s.ucmDie d).on then { s.ucmDie d with selfRefresh := true } else s.ucmDie d) else s.ucmDie d :=
  State.each_at (V := State.ucmDie) (g := State.restDie) (φ := fun _ x => if x.on then { x with selfRefresh := true } else x)
    (fun u x => by
      unfold State.restDie
      split
      · exact (State.onUcmDie_ucmDie ..).trans (if_pos rfl)
      · rfl)
    (fun u x y other => State.ite_keeps (F := fun v => v.ucmDie y) ((State.onUcmDie_ucmDie ..).trans (if_neg (Ne.symm other))) rfl) ds s d nodup

theorem State.stacksRefresh_stack (es : List Nat) (nodup : es.Nodup) (e : Nat) : (s.stacksRefresh es).stack e
    = if e ∈ es then (if (s.stack e).on then { s.stack e with selfRefresh := true } else s.stack e) else s.stack e :=
  State.each_at (V := State.stack) (g := State.restStack) (φ := fun _ x => if x.on then { x with selfRefresh := true } else x)
    (fun u x => by
      unfold State.restStack
      split
      · exact (State.onStack_stack ..).trans (if_pos rfl)
      · rfl)
    (fun u x y other => State.ite_keeps (F := fun v => v.stack y) ((State.onStack_stack ..).trans (if_neg (Ne.symm other))) rfl) es s e nodup

/-- Half-dies OFF, and what memory has supply in self-refresh. -/
def State.resting (s : State) (hs ds es : List Nat) : State := ((s.offHalfDies hs).ucmRefresh ds).stacksRefresh es

/-- The module without what comes to rest. -/
def State.sansRest (s : State) : State := s.sansHalves.sansRefresh

variable (hs ds es : List Nat)

theorem State.resting_sansRefresh : (s.resting hs ds es).sansRefresh = (s.offHalfDies hs).sansRefresh :=
  (State.stacksRefresh_sansRefresh _ es).trans (State.ucmRefresh_sansRefresh _ ds)

theorem State.resting_sansRest : (s.resting hs ds es).sansRest = s.sansRest :=
  (congrArg State.sansHalves (s.resting_sansRefresh hs ds es) :).trans (congrArg State.sansRefresh (s.offHalfDies_sansHalves hs) :)

theorem State.resting_power (nodup : hs.Nodup) (k : Nat) (listed : k ∈ hs) : ((s.resting hs ds es).halfDie k).power = .off := by
  have same : (s.resting hs ds es).halfDies = (s.offHalfDies hs).halfDies := (congrArg State.halfDies (s.resting_sansRefresh hs ds es) :)
  refine (congrArg (fun m => (Sparse.get ({} : HalfDie) m k).power) same).trans ?_
  exact (s.offHalfDies_power hs nodup k).trans (if_pos listed)

theorem State.resting_ucmDie (nodup : ds.Nodup) (d : Nat) (listed : d ∈ ds) : (s.resting hs ds es).ucmDie d
    = if (s.ucmDie d).on then { s.ucmDie d with selfRefresh := true } else s.ucmDie d := by
  have off : (s.offHalfDies hs).ucmDies = s.ucmDies := (congrArg State.ucmDies (s.offHalfDies_sansHalves hs) :)
  have same : (s.offHalfDies hs).ucmDie d = s.ucmDie d := congrArg (fun m => Sparse.get ({} : UcmDie) m d) off
  refine (congrArg (fun m => Sparse.get ({} : UcmDie) m d) (State.stacksRefresh_dies ((s.offHalfDies hs).ucmRefresh ds) es)).trans ?_
  refine ((State.ucmRefresh_ucmDie (s.offHalfDies hs) ds nodup d).trans (if_pos listed)).trans ?_
  rw [same]

theorem State.resting_stack (nodup : es.Nodup) (e : Nat) (listed : e ∈ es) : (s.resting hs ds es).stack e
    = if (s.stack e).on then { s.stack e with selfRefresh := true } else s.stack e := by
  have off : (s.offHalfDies hs).edgeStacks = s.edgeStacks := (congrArg State.edgeStacks (s.offHalfDies_sansHalves hs) :)
  have same : ((s.offHalfDies hs).ucmRefresh ds).stack e = s.stack e :=
    congrArg (fun m => Sparse.get ({} : Stack) m e) ((State.ucmRefresh_stacks (s.offHalfDies hs) ds).trans off)
  refine ((State.stacksRefresh_stack ((s.offHalfDies hs).ucmRefresh ds) es nodup e).trans (if_pos listed)).trans ?_
  rw [same]

end
end Sys2Proof.Machine
end

section
/-! A coolant loss (R383, R384). -/

namespace Sys2Proof.Machine

/-! ### What the links take with them while the hold stands -/

/-- The module without anything but its memories, their domains and half-dies, and the thermal registers. -/
def State.coldView (s : State) : Thermal × Sparse HalfDie × Sparse UcmDie × Sparse Stack × Memory × Memory :=
  (s.thermal, s.halfDies, s.ucmDies, s.edgeStacks, s.ucm, s.edge)

/-- While COOLANT_HOLD stands the domains stand. -/
def State.Iced (u v : State) : Prop := u.thermal.coolantHold = true → v.coldView = u.coldView

theorem State.Iced.of_view {u v : State} (h : v.coldView = u.coldView) : u.Iced v := fun _ => h

theorem workClosed_iced : WorkClosed State.Iced where
  refl _ := .of_view rfl
  trans h k held := by
    have first := h held
    exact (k ((congrArg (fun d : Thermal × _ => d.1.coolantHold) first :).trans held)).trans first
  work h := .of_view (congrArg State.coldView h :)
  access _ q a acc fl held := congrArg State.coldView (State.access_held held q a acc fl)

theorem State.linksSilent_coldView {s : State} (held : s.thermal.coolantHold = true) (x : LinkState) : (s.linksSilent x).coldView = s.coldView :=
  workClosed_iced.linksSilent s (fun h => .of_view (congrArg State.coldView h :)) x held

/-! ### The loss -/

/-- A polder that steps down to step 0 (R384). -/
def Polder.lowered (p : Polder) : Polder := if p.exists_ then { p with rails := [], nextStep := some 0 } else p

/-- Steps 1 and 2 of a coolant loss: every polder to step 0, and the hold stands. -/
@[irreducible] def State.lossMarked (s : State) (cause : Nat) : State :=
  let s := s.each (List.range 24) fun s n => s.onPolder n Polder.lowered
  { s with
    thermal := { s.thermal with coolantHold := true, cause := cause }
    boot := { s.boot with restart := s.boot.running } }

section
variable (s : State) (cause : Nat)

theorem State.lossMarked_sansPolders : ({ s.lossMarked cause with polders := [] } : State) = { s with
    polders := []
    thermal := { s.thermal with coolantHold := true, cause := cause }
    boot := { s.boot with restart := s.boot.running } } := by
  unfold State.lossMarked
  have lowered := State.each_keeps (F := fun u : State => { u with polders := [] }) (g := fun u n => u.onPolder n Polder.lowered)
    (fun _ _ => rfl) (List.range 24) s
  generalize s.each (List.range 24) (fun u n => u.onPolder n Polder.lowered) = t at lowered ⊢
  exact (congrArg (fun u : State => { u with
    thermal := { u.thermal with coolantHold := true, cause := cause }
    boot := { u.boot with restart := u.boot.running } }) lowered :)

theorem State.coolantLoss_eq (free : s.thermal.coolantHold = false) (sag : s.power.sagHold = false) (on : s.power.aon = true)
    (pkg : s.power.pkg ≠ .p3) : s.coolantLoss cause
      = ((((((s.lossMarked cause).startPackageGate 25).writeCritical 2).resting (List.range 24) (List.range 12) (List.range 32)).linksSilent
          .down).countUp cCoolantLoss).noteHeat.event 0xFFFF cause 0 0x08 := by
  unfold State.lossMarked
  exact if_neg (by simp [free, sag, on, pkg])

theorem State.tellLoss_coldView : (((s.countUp cCoolantLoss).noteHeat).event 0xFFFF cause 0 0x08).coldView = s.coldView :=
  (congrArg State.coldView (State.event_sansSends ..) :)

theorem State.resting_coldView (hs ds es : List Nat) : (s.resting hs ds es).thermal = s.thermal ∧ (s.resting hs ds es).ucm = s.ucm
    ∧ (s.resting hs ds es).edge = s.edge :=
  ⟨(congrArg State.thermal (s.resting_sansRest hs ds es) :), (congrArg State.ucm (s.resting_sansRest hs ds es) :),
    (congrArg State.edge (s.resting_sansRest hs ds es) :)⟩

variable (free : s.thermal.coolantHold = false) (sag : s.power.sagHold = false) (on : s.power.aon = true) (pkg : s.power.pkg ≠ .p3)
include free sag on pkg

/-- What a coolant loss leaves: half-dies OFF, powered memories in self-refresh, and their contents. -/
theorem State.coolantLoss_spec : (s.coolantLoss cause).thermal = { s.thermal with coolantHold := true, cause := cause }
    ∧ (∀ k < 24, ((s.coolantLoss cause).halfDie k).power = .off)
    ∧ (∀ d < 12, (s.ucmDie d).on = true → ((s.coolantLoss cause).ucmDie d).selfRefresh = true)
    ∧ (∀ e < 32, (s.stack e).on = true → ((s.coolantLoss cause).stack e).selfRefresh = true) ∧ (s.coolantLoss cause).ucm = s.ucm
    ∧ ((∀ e, (s.edgeCh e).queue = []) → (s.coolantLoss cause).edge = s.edge) := by
  have marked := s.lossMarked_sansPolders cause
  rw [s.coolantLoss_eq cause free sag on pkg]
  generalize s.lossMarked cause = u at marked ⊢
  have thermal : u.thermal = { s.thermal with coolantHold := true, cause := cause } := (congrArg State.thermal marked :)
  have held : u.thermal.coolantHold = true := by rw [thermal]
  have gated : State.Cool u ((u.startPackageGate 25).writeCritical 2) := (State.Cool.startPackageGate held 25).trans (.of_view rfl)
  generalize (u.startPackageGate 25).writeCritical 2 = g at gated ⊢
  obtain ⟨rThermal, rUcm, rEdge⟩ := g.resting_coldView (List.range 24) (List.range 12) (List.range 32)
  have power := fun k (small : k < 24) => g.resting_power (List.range 24) (List.range 12) (List.range 32) List.nodup_range k (List.mem_range.2 small)
  have die := fun d (small : d < 12) => g.resting_ucmDie (List.range 24) (List.range 12) (List.range 32) List.nodup_range d (List.mem_range.2 small)
  have stack := fun e (small : e < 32) => g.resting_stack (List.range 24) (List.range 12) (List.range 32) List.nodup_range e (List.mem_range.2 small)
  generalize g.resting (List.range 24) (List.range 12) (List.range 32) = r at rThermal rUcm rEdge power die stack ⊢
  have rHeld : r.thermal.coolantHold = true := by rw [rThermal, gated.thermal]; exact held
  have last := (State.tellLoss_coldView (r.linksSilent .down) cause).trans (State.linksSilent_coldView rHeld .down)
  generalize ((r.linksSilent .down).countUp cCoolantLoss).noteHeat.event 0xFFFF cause 0 0x08 = t at last ⊢
  have tHalf : t.halfDies = r.halfDies := (congrArg (fun d => d.2.1) last :)
  have tDies : t.ucmDies = r.ucmDies := (congrArg (fun d => d.2.2.1) last :)
  have tStacks : t.edgeStacks = r.edgeStacks := (congrArg (fun d => d.2.2.2.1) last :)
  have dies : g.ucmDies = s.ucmDies := gated.dies.trans (congrArg State.ucmDies marked :)
  refine ⟨(congrArg Prod.fst last :).trans (rThermal.trans (gated.thermal.trans thermal)), fun k small => ?_, fun d small was => ?_,
    fun e small was => ?_, (congrArg (fun d => d.2.2.2.2.1) last :).trans (rUcm.trans (gated.still.1.trans (congrArg State.ucm marked :))),
    fun empty => (congrArg (fun d => d.2.2.2.2.2) last :).trans (rEdge.trans ((gated.still.2 fun e => ?_).1.trans (congrArg State.edge marked :)))⟩
  · exact (congrArg (fun m => (Sparse.get ({} : HalfDie) m k).power) tHalf).trans (power k small)
  · refine (congrArg (fun m => (Sparse.get ({} : UcmDie) m d).selfRefresh) tDies).trans ((congrArg UcmDie.selfRefresh (die d small)).trans ?_)
    have powered : (g.ucmDie d).on = true := (congrArg (fun m => (Sparse.get ({} : UcmDie) m d).on) dies).trans was
    rw [if_pos powered]
  · refine (congrArg (fun m => (Sparse.get ({} : Stack) m e).selfRefresh) tStacks).trans ((congrArg Stack.selfRefresh (stack e small)).trans ?_)
    have before : u.edgeStacks = s.edgeStacks := (congrArg State.edgeStacks marked :)
    have powered : (g.stack e).on = true :=
      (gated.powered e).trans ((congrArg (fun m => (Sparse.get ({} : Stack) m e).on) before).trans was)
    rw [if_pos powered]
  · have channels : u.channels = s.channels := (congrArg State.channels marked :)
    exact (congrArg (fun m => (Sparse.get ({} : EdgeCh) m e).queue) channels).trans (empty e)

end

/-- A channel of which nothing is written is at its reset value, and its queue empty. -/
theorem State.queues_empty {s : State} (h : ∀ e ∈ s.channels, e.2.queue = []) (e : Nat) : (s.edgeCh e).queue = [] := by
  rcases Sparse.get_mem ({} : EdgeCh) s.channels e with listed | reset
  · exact h _ listed
  · exact congrArg EdgeCh.queue reset

theorem exec_flowPulseTimeout {s : State} (armed : s.thermal.armed = true) (free : s.thermal.coolantHold = false)
    (sag : s.power.sagHold = false) (on : s.power.aon = true) (pkg : s.power.pkg ≠ .p3) :
    ∃ t, exec .flowPulseTimeout s = .next t ∧ t.thermal.coolantHold = true ∧ t.thermal.cause = 2 ∧ t.thermal.flowing = false
      ∧ (∀ k < 24, (t.halfDie k).power = .off) ∧ (∀ d < 12, (s.ucmDie d).on = true → (t.ucmDie d).selfRefresh = true)
      ∧ (∀ e < 32, (s.stack e).on = true → (t.stack e).selfRefresh = true) ∧ t.ucm = s.ucm
      ∧ ((∀ e ∈ s.channels, e.2.queue = []) → t.edge = s.edge) := by
  have ran : exec .flowPulseTimeout s
      = .next ({ s with thermal := { s.thermal with flowing := false, edges := [] } }.coolantLoss 2) := if_neg (by simp [armed])
  obtain ⟨thermal, power, dies, stacks_, ucm, edge⟩ :=
    State.coolantLoss_spec { s with thermal := { s.thermal with flowing := false, edges := [] } } 2 free sag on pkg
  refine ⟨_, ran, ?_, ?_, ?_, power, dies, stacks_, ucm, fun empty => edge (State.queues_empty empty)⟩
  · rw [thermal]
  · rw [thermal]
  · rw [thermal]

end Sys2Proof.Machine
end

section
/-! SUPPORT. A sample of the sensors (R370, R371, R372): what it records, and that no thermal response changes it. -/

namespace Sys2Proof.Machine

/-- The readings, the sensors' invalid counts and the pairs' governing values. -/
def State.sampled (s : State) : Sparse (Option Int) × Sparse Nat × Sparse Int :=
  (s.thermal.last, s.thermal.invalid, s.thermal.governing)

theorem State.sampled_of_thermal {s t : State} (h : t.thermal = s.thermal) : t.sampled = s.sampled := by
  unfold State.sampled
  rw [h]

/-! ### No thermal response changes the sample -/

section
variable (s : State)

@[simp] theorem State.countUp_thermal (i : Nat) : (s.countUp i).thermal = s.thermal := rfl

@[simp] theorem State.noteHeat_thermal : s.noteHeat.thermal = s.thermal := rfl

@[simp] theorem State.thermalEvent_thermal (kind unitKind unit polder : Nat) (ended : Bool) :
    (s.thermalEvent kind unitKind unit polder ended).thermal = s.thermal := s.event_thermal _ _ _ _

theorem State.thermalEvent_sampled (kind unitKind unit polder : Nat) (ended : Bool) :
    (s.thermalEvent kind unitKind unit polder ended).sampled = s.sampled :=
  State.sampled_of_thermal (s.thermalEvent_thermal kind unitKind unit polder ended)

@[simp] theorem State.boardReport_thermal (d : Nat) (ws : List Word) : (s.boardReport d ws).thermal = s.thermal :=
  State.each_keeps (F := State.thermal) (g := fun u w => u.boardSend (16 + d) (1 + d / 3) w)
    (fun u w => (congrArg State.thermal (u.boardSend_sansBoard (16 + d) (1 + d / 3) w) :)) ws s

theorem State.startGate_thermal (f n : Nat) : (s.startGate f n).thermal = s.thermal :=
  (congrArg State.thermal (s.startGate_sansResetGate f n) :)

theorem State.startPackageGate_thermal (f : Nat) : (s.startPackageGate f).thermal = s.thermal := by
  have marked : (s.fgMark f 31).thermal = s.thermal := (congrArg State.thermal (s.fgMark_sansIssuers f 31) :)
  by_cases hg : s.gates = []
  · obtain ⟨b, g, sel, free, n, e, started⟩ := s.startPackageGate_form f hg
    have steps := State.packageSteps_sansGate ((List.range 24).filter fun n => (s.polder n).exists_) (s.fgMark f 31, b)
    rw [started]
    exact ((congrArg State.thermal (State.disabled_sansHalt _ sel free) :) : _ = _).trans ((congrArg State.thermal steps :).trans marked)
  · have gates : (s.fgMark f 31).gates = s.gates := (congrArg State.gates (s.fgMark_sansIssuers f 31) :)
    unfold State.startPackageGate
    dsimp only
    rw [if_pos (by rw [gates]; simpa using hg)]
    exact marked

theorem State.noteFallback_sampled : s.noteFallback.sampled = s.sampled := by
  unfold State.noteFallback
  dsimp only
  split
  · rw [State.thermalEvent_sampled]
    rfl
  · rfl

theorem State.weirPolder_thermal (n : Nat) : (s.weirPolder n).thermal = s.thermal := by
  have began (u : State) (quiet : Bool) (a b c : Nat) : (if quiet then u else u.thermalEvent a b c n false).thermal = u.thermal :=
    (State.ite_thermal _ _ _).trans (by simp)
  unfold State.weirPolder
  dsimp only
  split
  · split
    · rfl
    · rw [began, State.noteHeat_thermal, State.countUp_thermal, State.onPolder_thermal, State.boardReport_thermal, State.onPolder_thermal]
  · simp [State.ite_thermal]

/-- A sample that calls for a channel's retrain (R209). -/
def State.bandChannel (temp base : Int) (s : State) (ch : Nat) : State :=
  let c := s.edgeCh ch
  let d := temp - c.trainedAt.getD base
  if c.state == .trained && (decide (20000 ≤ d) || decide (d ≤ -20000)) then
    s.setEdgeCh ch { c with retrainDue := true }
  else s

/-- The band of a stack, and the retrains of its channels (R209, R210). -/
def State.bandStack (s : State) (e : Nat) : State :=
  let t := s.stackTemp e
  let s := s.onStack e fun x => { x with band := nextBand t 4 x.band, trainedAt := some (x.trainedAt.getD t) }
  s.each ((List.range 32).map (32 * e + ·)) (State.bandChannel t ((s.stack e).trainedAt.getD t))

theorem State.setBands_eq : s.setBands = (s.each (List.range 12) fun u d => u.onUcmDie d fun x =>
    { x with band := nextBand (u.dieDram d) 4 x.band }).each (List.range 32) State.bandStack := by
  unfold State.setBands State.bandStack State.bandChannel
  rfl

theorem State.bandChannel_thermal (temp base : Int) (ch : Nat) : (s.bandChannel temp base ch).thermal = s.thermal := by
  simp [State.bandChannel, State.ite_thermal]

theorem State.bandStack_thermal (e : Nat) : (s.bandStack e).thermal = s.thermal := by
  unfold State.bandStack
  dsimp only
  exact State.each_keeps (F := State.thermal) (fun u ch => u.bandChannel_thermal _ _ ch) _ _

theorem State.setBands_thermal : s.setBands.thermal = s.thermal := by
  rw [State.setBands_eq, State.each_thermal _ State.bandStack_thermal, State.each_onUcmDie_thermal]

theorem State.shutDie_sampled (d : Nat) : (s.shutDie d).sampled = s.sampled := by
  have refreshed (u : State) : ({ u with
      thermal := { u.thermal with shut := Sparse.set false u.thermal.shut d true }
      smbus := { u.smbus with shutLogged := true } } : State).sampled = u.sampled := rfl
  have told (u : State) : ((u.countUp cShutdown).noteHeat.addLog 8 0 31 0 d 0).sampled = u.sampled := rfl
  have gated (l : List Nat) : (s.each l fun u n => u.startGate 25 n).thermal = s.thermal :=
    State.each_keeps (F := State.thermal) (fun u n => u.startGate_thermal 25 n) l s
  unfold State.shutDie
  dsimp only
  rw [State.thermalEvent_sampled, told, refreshed]
  refine State.sampled_of_thermal ?_
  rw [State.boardReport_thermal, State.ucmRefresh_thermal, State.offHalfDies_thermal, gated]

theorem State.nbAllFail_thermal (e : Nat) : (s.nbAllFail e).thermal = s.thermal :=
  State.each_keeps (F := State.thermal) (fun u c => u.nbEnd_thermal e c .hwError) _ s

theorem State.shutStack_thermal (e : Nat) : (s.shutStack e).thermal = s.thermal := by
  have failed (l : List Nat) : (s.each l State.nbAllFail).thermal = s.thermal :=
    State.each_keeps (F := State.thermal) (fun u c => u.nbAllFail_thermal c) l s
  have shut (u : State) (f : Stack → Stack) (x : Smbus) : ({ u.onStack e f with smbus := x } : State).thermal = u.thermal := rfl
  unfold State.shutStack
  dsimp only
  rw [State.thermalEvent_thermal, State.addLog_thermal, State.noteHeat_thermal, State.countUp_thermal, shut, failed]

/-- A die's shutdown begins or ends (R378). -/
def State.shutdownDie (s : State) (d : Nat) : State :=
  if Sparse.get false s.thermal.shut d then
    if s.dieLogic d < 88000 && s.dieDram d < 80000 then
      { s with thermal := { s.thermal with shut := Sparse.set false s.thermal.shut d false } }.thermalEvent 2 0 d 0xFFFF true
    else s
  else if 110000 ≤ s.dieLogic d || 105000 ≤ s.dieDram d then s.shutDie d else s

/-- A stack's shutdown begins or ends (R378). -/
def State.shutdownStack (s : State) (e : Nat) : State :=
  if (s.stack e).shut then
    if s.stackTemp e < 95000 then
      (s.onStack e fun x => { x with shut := false, selfRefresh := s.thermal.coolantHold }).thermalEvent 2 3 e 0xFFFF true
    else s
  else if 105000 ≤ s.stackTemp e then s.shutStack e else s

theorem State.shutdowns_eq : s.shutdowns = (s.each (List.range 12) State.shutdownDie).each (List.range 32) State.shutdownStack := rfl

theorem State.shutdownDie_sampled (d : Nat) : (s.shutdownDie d).sampled = s.sampled := by
  unfold State.shutdownDie
  split
  · split
    · rw [State.thermalEvent_sampled]
      rfl
    · rfl
  · split
    · exact s.shutDie_sampled d
    · rfl

theorem State.shutdownStack_thermal (e : Nat) : (s.shutdownStack e).thermal = s.thermal := by
  simp [State.shutdownStack, State.ite_thermal, State.shutStack_thermal]

theorem State.shutdowns_sampled : s.shutdowns.sampled = s.sampled := by
  rw [State.shutdowns_eq]
  exact (State.each_keeps (F := State.sampled) (fun u e => State.sampled_of_thermal (u.shutdownStack_thermal e)) _ _).trans
    (State.each_keeps (F := State.sampled) (fun u d => u.shutdownDie_sampled d) _ _)

/-- A die's cold hold begins or ends (R380). -/
def State.coldLimitDie (s : State) (d : Nat) : State :=
  if Sparse.get false s.thermal.cold d then
    if 12000 ≤ s.coolest (unitPairs d ++ (List.range 24).map (576 + 24 * d + ·)) then
      { s with thermal := { s.thermal with cold := Sparse.set false s.thermal.cold d false } }.thermalEvent 3 0 d 0xFFFF true
    else s
  else if s.coolest (unitPairs d ++ (List.range 24).map (576 + 24 * d + ·)) < 10000 then
    ({ s with thermal := { s.thermal with cold := Sparse.set false s.thermal.cold d true } }.countUp cColdHold).noteHeat.thermalEvent
      3 0 d 0xFFFF false
  else s

theorem State.coldLimitDie_sampled (d : Nat) : (s.coldLimitDie d).sampled = s.sampled := by
  unfold State.coldLimitDie
  split
  · split
    · rw [State.thermalEvent_sampled]
      rfl
    · rfl
  · split
    · rw [State.thermalEvent_sampled]
      rfl
    · rfl

theorem State.coldLimits_sampled : s.coldLimits.sampled = s.sampled := by
  unfold State.coldLimits
  dsimp only
  generalize passed : State.each s (List.range 12) _ = t
  have dies : t.sampled = s.sampled := by
    rw [← passed]
    exact State.each_keeps (F := State.sampled) (fun u d => u.coldLimitDie_sampled d) _ s
  refine Eq.trans ?_ dies
  split
  · rfl
  · split
    · rfl
    · split
      · rw [State.thermalEvent_sampled]
        rfl
      · rfl

theorem State.noteRotation_sampled : s.noteRotation.sampled = s.sampled := by
  unfold State.noteRotation
  exact State.ite_keeps (F := State.sampled) rfl rfl

theorem State.noteTrend_sampled : s.noteTrend.sampled = s.sampled :=
  State.each_keeps (F := State.sampled) (g := fun u d => { u with thermal := { u.thermal with
    trend := Sparse.modify [] u.thermal.trend d fun l => ((u.dieLogic d, u.siteFine d) :: l).take 200 } }) (fun _ _ => rfl) (List.range 12) s

theorem State.lossMarked_sampled (cause : Nat) : (s.lossMarked cause).sampled = s.sampled := by
  have thermal : (s.lossMarked cause).thermal = { s.thermal with coolantHold := true, cause := cause } :=
    (congrArg State.thermal (s.lossMarked_sansPolders cause) :)
  unfold State.sampled
  rw [thermal]

theorem State.coolantLoss_sampled (cause : Nat) : (s.coolantLoss cause).sampled = s.sampled := by
  by_cases bars : (s.thermal.coolantHold || s.power.sagHold || !s.power.aon || s.power.pkg == .p3) = true
  · exact congrArg State.sampled (if_pos bars)
  · simp only [Bool.or_eq_true, Bool.not_eq_true', beq_iff_eq, not_or, Bool.not_eq_true, Bool.not_eq_false] at bars
    obtain ⟨⟨⟨free, sag⟩, on⟩, pkg⟩ := bars
    rw [s.coolantLoss_eq cause free sag on pkg]
    refine Eq.trans ?_ (s.lossMarked_sampled cause)
    generalize s.lossMarked cause = u
    have gated : ((u.startPackageGate 25).writeCritical 2).thermal = u.thermal := u.startPackageGate_thermal 25
    generalize (u.startPackageGate 25).writeCritical 2 = g at gated ⊢
    obtain ⟨rested, -⟩ := g.resting_coldView (List.range 24) (List.range 12) (List.range 32)
    generalize g.resting (List.range 24) (List.range 12) (List.range 32) = w at rested ⊢
    refine State.sampled_of_thermal ?_
    rw [State.event_thermal, State.noteHeat_thermal, State.countUp_thermal, State.linksSilent_thermal, rested, gated]

/-- Every thermal response of a sample, after its sensors are read. -/
theorem State.respond_sampled (r : Readings) (on : s.power.culverts = true) :
    ∃ t, exec (.sensorSample r) s = .next t ∧ t.sampled = (s.readSensors r).sampled := by
  have start : exec (.sensorSample r) s = execSensorSample r s := rfl
  rw [start]
  unfold execSensorSample
  rw [if_neg (by simp [on])]
  dsimp only
  refine ⟨_, rfl, ?_⟩
  have polders := State.each_keeps (F := State.sampled) (fun u n => State.sampled_of_thermal (u.weirPolder_thermal n)) (List.range 24)
    (s.readSensors r).noteFallback
  generalize (s.readSensors r).noteFallback.each (List.range 24) State.weirPolder = w at polders ⊢
  have before : w.setBands.shutdowns.coldLimits.noteRotation.noteTrend.sampled = (s.readSensors r).sampled :=
    (State.noteTrend_sampled _).trans ((State.noteRotation_sampled _).trans ((State.coldLimits_sampled _).trans
      ((State.shutdowns_sampled _).trans ((State.sampled_of_thermal w.setBands_thermal).trans
        (polders.trans (State.noteFallback_sampled _))))))
  exact (State.ite_keeps (F := State.sampled) (State.coolantLoss_sampled _ 1)
    (State.ite_keeps (F := State.sampled) (State.coolantLoss_sampled _ 3) rfl)).trans before

end

end Sys2Proof.Machine
end

section
/-! SUPPORT. What a sample of the sensors records (R370, R371, R372). -/

namespace Sys2Proof.Machine

/-! ### Lists beside their places -/

theorem getElem?_mapIdx_of {α β : Type} {l : List α} {i : Nat} {a : α} (h : l[i]? = some a) (f : α × Nat → β) :
    ((l.zipIdx).map f)[i]? = some (f (a, i)) := by
  simp [h]

theorem getElem?_zip_of {α β : Type} {l : List α} {m : List β} {i : Nat} {a : α} {b : β} (h : l[i]? = some a) (k : m[i]? = some b) :
    (l.zip m)[i]? = some (a, b) := by
  rw [List.getElem?_zip_eq_some]
  exact ⟨h, k⟩

theorem getElem?_range {α : Type} (d : α) (m : Sparse α) {n i : Nat} (h : i < n) : (Sparse.range d m 0 n)[i]? = some (Sparse.get d m i) := by
  rw [Sparse.range_eq, List.getElem?_map, List.getElem?_range' (by simpa using h)]
  simp

/-! ### The values of sensors and pairs -/

/-- The invalid count of every sensor after a sample (R371). -/
def Thermal.invalidCounts (t : Thermal) (raw : List Int) : List Nat :=
  ((Sparse.range 0 t.invalid 0 1922).zip (((raw.zip (Sparse.range none t.last 0 1922)).zipIdx).map fun x => plausible x.2 x.1.2 x.1.1)).map
    fun x => if x.2 then x.1 - 1 else 100

/-- The values of the pairs that have a valid sensor (R372). -/
def Thermal.pairValues (t : Thermal) (raw : List Int) : List (Option Int) :=
  (chunks 2 (((raw.zip (t.invalidCounts raw)).map fun x => if x.2 == 0 then some x.1 else none).take 1920)).map
    fun p => hotter (p.filterMap id)

/-- A unit without a valid sensor is taken at its threshold (R372). -/
def seedBlind (known : List (Option Int)) : List (Option Int) :=
  (known.zipIdx).map fun x =>
    if ((((List.range 96).map (unitBlind known))[pairUnitIndex x.2]?).getD false) then some (unitThreshold (pairUnitIndex x.2)) else x.1

theorem State.readSensors_sampled (s : State) (r : Readings) : (s.readSensors r).sampled
    = (Sparse.ofList none 0 ((rawReadings r).map some), Sparse.ofList 0 0 (s.thermal.invalidCounts (rawReadings r)),
      Sparse.ofList 0 0 ((fillRounds 16 (seedBlind (s.thermal.pairValues (rawReadings r)))).map fun v => v.getD 0)) := by
  have flagged (u : State) (unit : Nat → Nat × Nat) (sensor pair : Nat → Nat) (l : List Nat) :
      (u.each l fun v i => v.flagRaised (unit i) (sensor i) (pair i)).sampled = u.sampled :=
    State.each_keeps (F := State.sampled) (fun v i => (State.thermalEvent_sampled (v.addLog 7 0 31 (sensor i) (pair i) 0) 5 (unit i).1 (unit i).2 0xFFFF false :)) l u
  unfold State.readSensors
  dsimp only
  rw [flagged, flagged]
  rfl

section
variable (t : Thermal) {raw : List Int} (sized : raw.length = 1922)
include sized

theorem raw_getElem? {i : Nat} (small : i < 1922) : raw[i]? = some (nth 0 raw i) := by
  unfold nth
  rw [List.getElem?_eq_getElem (by omega)]
  rfl

theorem Thermal.invalidCounts_getElem? {i : Nat} (small : i < 1922) : (t.invalidCounts raw)[i]?
    = some (if plausible i (Sparse.get none t.last i) (nth 0 raw i) then Sparse.get 0 t.invalid i - 1 else 100) := by
  have both := getElem?_zip_of (raw_getElem? sized small) (getElem?_range none t.last small)
  have judged := getElem?_mapIdx_of both fun x => plausible x.2 x.1.2 x.1.1
  unfold Thermal.invalidCounts
  rw [List.getElem?_map, getElem?_zip_of (getElem?_range 0 t.invalid small) judged]
  rfl

theorem Thermal.invalidCounts_length : (t.invalidCounts raw).length = 1922 := by
  simp [Thermal.invalidCounts, Sparse.range_eq, sized]

/-- A pair whose two sensors are valid and plausible has the hotter one's value (R372). -/
theorem Thermal.pairValues_getElem? {q : Nat} (small : q < 960) (valid : ∀ i, i = 2 * q ∨ i = 2 * q + 1 →
    Sparse.get 0 t.invalid i = 0 ∧ plausible i (Sparse.get none t.last i) (nth 0 raw i) = true) :
    (t.pairValues raw)[q]? = some (some (max (nth 0 raw (2 * q)) (nth 0 raw (2 * q + 1)))) := by
  have value : ∀ i, i = 2 * q ∨ i = 2 * q + 1 →
      (((raw.zip (t.invalidCounts raw)).map fun x => if x.2 == 0 then some x.1 else none).take 1920)[i]? = some (some (nth 0 raw i)) := by
    intro i hi
    have below : i < 1920 := by omega
    obtain ⟨clear, sound⟩ := valid i hi
    rw [List.getElem?_take_of_lt below, List.getElem?_map,
      getElem?_zip_of (raw_getElem? sized (by omega)) (t.invalidCounts_getElem? sized (by omega)), clear, sound]
    rfl
  have whole : (((raw.zip (t.invalidCounts raw)).map fun x => if x.2 == 0 then some x.1 else none).take 1920).length = 960 * 2 := by
    rw [List.length_take, List.length_map, List.length_zip, t.invalidCounts_length sized, sized]
    rfl
  unfold Thermal.pairValues
  generalize ((raw.zip (t.invalidCounts raw)).map fun x => if x.2 == 0 then some x.1 else none).take 1920 = vals at value whole ⊢
  have pair : (vals.drop (q * 2)).take 2 = [some (nth 0 raw (2 * q)), some (nth 0 raw (2 * q + 1))] := by
    refine List.ext_getElem? fun k => ?_
    rcases k with _ | _ | k
    · rw [List.getElem?_take_of_lt (by omega), List.getElem?_drop, Nat.mul_comm, Nat.add_zero, value (2 * q) (.inl rfl)]
      rfl
    · rw [List.getElem?_take_of_lt (by omega), List.getElem?_drop, Nat.mul_comm, value (2 * q + 1) (.inr rfl)]
      rfl
    · rw [List.getElem?_eq_none (by rw [List.length_take]; omega)]
      rfl
  rw [chunks_eq_map (by omega) whole, List.getElem?_map, List.getElem?_map, List.getElem?_range small]
  exact congrArg (fun p : List (Option Int) => some (hotter (p.filterMap id))) pair

end

/-! ### Substitution keeps the values that there are -/

theorem mem_unitPairs {q : Nat} (small : q < 960) : q ∈ unitPairs (pairUnitIndex q) ∧ pairUnitIndex q < 96 := by
  unfold pairUnitIndex pairUnit
  split_ifs with dies layers bases
  · have unit : q / 48 < 12 := by omega
    refine ⟨?_, show 0 + q / 48 < 96 by omega⟩
    simp only [unitPairs, Nat.zero_add, unit, if_true, List.mem_map, List.mem_range]
    exact ⟨q % 48, by omega, by omega⟩
  · refine ⟨?_, show 12 + (q - 576) / 6 < 96 by omega⟩
    simp only [unitPairs, if_neg (show ¬ 12 + (q - 576) / 6 < 12 by omega), if_pos (show 12 + (q - 576) / 6 < 60 by omega), List.mem_map,
      List.mem_range]
    exact ⟨(q - 576) % 6, by omega, by omega⟩
  · refine ⟨?_, show 60 + (q - 864) / 8 < 96 by omega⟩
    simp only [unitPairs, if_neg (show ¬ 60 + (q - 864) / 8 < 12 by omega), if_neg (show ¬ 60 + (q - 864) / 8 < 60 by omega),
      if_pos (show 60 + (q - 864) / 8 < 64 by omega), List.mem_map, List.mem_range]
    exact ⟨(q - 864) % 8, by omega, by omega⟩
  · refine ⟨?_, show 64 + (q - 896) / 2 < 96 by omega⟩
    simp only [unitPairs, if_neg (show ¬ 64 + (q - 896) / 2 < 12 by omega), if_neg (show ¬ 64 + (q - 896) / 2 < 60 by omega),
      if_neg (show ¬ 64 + (q - 896) / 2 < 64 by omega), List.mem_map, List.mem_range]
    exact ⟨(q - 896) % 2, by omega, by omega⟩

theorem unitBlind_of_value {known : List (Option Int)} {q : Nat} {v : Int} (h : known[q]? = some (some v)) {u : Nat}
    (mine : q ∈ unitPairs u) : unitBlind known u = false := by
  unfold unitBlind
  rw [List.all_eq_false]
  exact ⟨q, mine, by simp [h]⟩

theorem seedBlind_of_value {known : List (Option Int)} {q : Nat} {v : Int} (small : q < 960) (h : known[q]? = some (some v)) :
    (seedBlind known)[q]? = some (some v) := by
  obtain ⟨mine, unit⟩ := mem_unitPairs small
  have sees : ((List.range 96).map (unitBlind known))[pairUnitIndex q]? = some false := by
    rw [List.getElem?_map, List.getElem?_range unit]
    exact congrArg some (unitBlind_of_value h mine)
  unfold seedBlind
  rw [getElem?_mapIdx_of h]
  simp [sees]

theorem fillRound_of_value {l : List (Option Int)} {q : Nat} {v : Int} (h : l[q]? = some (some v)) : (fillRound l)[q]? = some (some v) := by
  unfold fillRound
  rw [getElem?_mapIdx_of h]

theorem fillRounds_of_value (n : Nat) {l : List (Option Int)} {q : Nat} {v : Int} (h : l[q]? = some (some v)) :
    (fillRounds n l)[q]? = some (some v) := by
  induction n generalizing l with
  | zero => exact h
  | succ n ih =>
    unfold fillRounds
    split
    · exact h
    · exact ih (fillRound_of_value h)

/-! ### The sample -/

theorem exec_sensorSample {s : State} (r : Readings) (on : s.power.culverts = true) (sized : (rawReadings r).length = 1922) :
    ∃ t, exec (.sensorSample r) s = .next t
      ∧ (∀ i < 1922, Sparse.get none t.thermal.last i = some (nth 0 (rawReadings r) i))
      ∧ (∀ i < 1922, plausible i (Sparse.get none s.thermal.last i) (nth 0 (rawReadings r) i) = false → Sparse.get 0 t.thermal.invalid i = 100)
      ∧ ∀ q < 960, (∀ i, i = 2 * q ∨ i = 2 * q + 1 → Sparse.get 0 s.thermal.invalid i = 0
          ∧ plausible i (Sparse.get none s.thermal.last i) (nth 0 (rawReadings r) i) = true) →
        Sparse.get 0 t.thermal.governing q = max (nth 0 (rawReadings r) (2 * q)) (nth 0 (rawReadings r) (2 * q + 1)) := by
  obtain ⟨t, ran, sampled⟩ := s.respond_sampled r on
  rw [State.readSensors_sampled] at sampled
  have last : t.thermal.last = _ := congrArg Prod.fst sampled
  have invalid : t.thermal.invalid = _ := congrArg (fun x => x.2.1) sampled
  have governing : t.thermal.governing = _ := congrArg (fun x => x.2.2) sampled
  refine ⟨t, ran, fun i small => ?_, fun i small wrong => ?_, fun q small valid => ?_⟩
  · rw [last, Sparse.get_ofList, if_pos (Nat.zero_le _), Nat.sub_zero, List.getElem?_map, raw_getElem? sized small]
    rfl
  · rw [invalid, Sparse.get_ofList, if_pos (Nat.zero_le _), Nat.sub_zero, s.thermal.invalidCounts_getElem? sized small, wrong]
    rfl
  · rw [governing, Sparse.get_ofList, if_pos (Nat.zero_le _), Nat.sub_zero, List.getElem?_map,
      fillRounds_of_value 16 (seedBlind_of_value small (s.thermal.pairValues_getElem? sized small valid))]
    rfl

end Sys2Proof.Machine
end

section
/-! The estimator in P3, and heat, coolant and the ledger together. -/

namespace Sys2Proof.Machine

/-- In P3 nothing is reported (R345). -/
theorem State.afterReports_none_total (s : State) (i : Nat) : ((s.afterReports []).meter i).total = (s.meter i).total :=
  (State.closeStep_total _ i).trans
    (congrArg (fun w : Ledger => (Sparse.get ({} : Meter) w.meters i).total) s.clearActivity_ledger)

end Sys2Proof.Machine

open Sys2Proof Sys2Proof.Machine

/-- Settles O49: each row is its own pass over the registers of the thermal and the energy ledgers, and the loss of coolant stills
the module before it touches a memory. -/
theorem heatCoolantAndLedger : Obligations.HeatCoolantAndLedger := by
  intro s h least
  have leastOf : ∀ l : Ledger, l.smallestWatts = least l := Ledger.smallestWatts_eq
  refine ⟨fun r on sized => exec_sensorSample r on sized, fun late on => exec_flowPulseEdge late on,
    fun armed free sag on pkg => exec_flowPulseTimeout armed free sag on pkg,
    fun held running good => exec_coolantHoldExit held running good, fun kind on => exec_hardwareTrip kind h on, fun on running => ?_,
    fun rotate running order lo hi => exec_rotation rotate running order lo hi,
    fun es on awake plain => estimatorReport_counts s h es on awake plain,
    fun es on asleep => ?_, fun m on => ?_, fun high => exec_peakLimiter high, fun up on => ⟨fun lo hi => ?_, fun out => ?_⟩⟩
  · obtain ⟨t, ran, watts, rest⟩ := exec_thermalResistanceUpdate s on running
    exact ⟨t, ran, watts.trans (leastOf _), rest⟩
  · obtain ⟨steps, anew⟩ := s.afterReports_spec []
    exact ⟨_, exec_estimatorReport_p3 s es on asleep, s.afterReports_none_total, fun c => congrArg TCore.act (anew c).1, steps⟩
  · obtain ⟨t, ran, vin, vinMin, iin, supply, watts, rest⟩ := exec_telemetryUpdate s m on
    exact ⟨t, ran, vin, vinMin, iin, supply, fun done known running => (watts done known running).trans (leastOf _), rest⟩
  · exact exec_avsLoop_inside on rfl lo hi
  · exact exec_avsLoop_bound on rfl out
end

section
/-! P1, refusals, wakes, NAP and lockout (R390, R392, R393, R395, R401, R404). -/

namespace Sys2Proof.Machine

section
variable {s : State}

/-! ### P1 (R392, R393) -/

/-- Where no inbox holds a message firmware has started none. -/
theorem State.managing_of_quiet (quiet : s.quiet = true) : s.managing = false := by
  have empty : (s.funcs.any fun f => !f.2.inbox.isEmpty) = false := by
    simp only [State.quiet, Bool.and_eq_true, Bool.not_eq_true'] at quiet
    exact quiet.2
  have none_ (f : Nat) : s.startedMsg f = none := by
    unfold State.startedMsg
    split
    · rfl
    · rcases Sparse.get_mem ({} : Func) s.funcs f with listed | reset
      · have := List.any_eq_false.1 empty _ listed
        simp only [Bool.not_eq_true', Bool.not_eq_false, List.isEmpty_iff] at this
        exact congrArg List.head? this
      · exact congrArg (fun x : Func => x.inbox.head?) reset
  unfold State.managing
  simp [none_]

theorem State.refuser_p1 : s.refuser .p1 = if s.power.hold then some 0x5000 else if s.managing then some 0x7000 else none := by
  unfold State.refuser
  cases s.power.hold <;> cases s.managing <;> rfl

theorem exec_p1Entry (awake : s.power.pkg = .p0) (running : s.trust.running = true) (quiet : s.quiet = true)
    (free : s.power.entering = none) :
    (s.power.hold = false → exec .p1Entry s = .next { s with power := { s.power with pkg := .p1 } })
      ∧ (s.power.hold = true → exec .p1Entry s = .next (s.entryRefused .p1 0x5000)) := by
  have start : exec .p1Entry s = execP1Entry s := rfl
  rw [start]
  unfold execP1Entry
  rw [if_neg (by simp [awake, running, quiet, free])]
  refine ⟨fun hold => ?_, fun hold => ?_⟩
  · rw [State.refuser_p1, hold, State.managing_of_quiet quiet]
    rfl
  · rw [State.refuser_p1, hold]
    rfl

theorem exec_p1Wake (dozing : s.power.pkg = .p1) : exec .p1Wake s = .next { s with power := { s.power with pkg := .p0 } } :=
  if_pos (by simp [dozing])

/-! ### Refusals of P2 and P3 (R393) -/

theorem exec_p2Entry_refused {code : Nat} (entering : s.power.entering = some .p2) (refuses : s.refuser .p2 = some code)
    (failing : Option Nat) : exec (.p2Entry failing) s = .next (s.entryRefused .p2 code) := by
  have start : exec (.p2Entry failing) s = execP2Entry failing s := rfl
  rw [start]
  unfold execP2Entry
  rw [if_neg (by simp [entering]), refuses]

theorem exec_p3Entry_refused {code : Nat} (entering : s.power.entering = some .p3) (refuses : s.refuser .p3 = some code)
    (failing : Option Nat) : exec (.p3Entry failing) s = .next (s.entryRefused .p3 code) := by
  have start : exec (.p3Entry failing) s = execP3Entry failing s := rfl
  rw [start]
  unfold execP3Entry
  rw [if_neg (by simp [entering]), refuses]

theorem find?_of_firstUnit {cls n : Nat} {p : Nat → Bool} (h : firstUnit cls n p = none) : ∀ k < n, p k = false := by
  intro k small
  have := List.find?_eq_none.1 (Option.map_eq_none_iff.1 h) k (List.mem_range.2 small)
  simpa using this

/-- Where nothing refuses P2 or P3 every link is DISABLED (R450). -/
theorem State.links_of_refuser {target : PkgState} (deep : target ≠ .p1) (free : s.refuser target = none) :
    ∀ n < 96, (s.link n).state = .disabled := by
  intro n small
  unfold State.refuser at free
  have isDeep : (target != .p1) = true := by simpa using deep
  have all := List.findSome?_eq_none_iff.1 free (firstUnit 3 12 fun g => (List.range 8).any fun i => (s.link (8 * g + i)).state != .disabled)
    (by rw [isDeep]; simp)
  have group := find?_of_firstUnit all (n / 8) (by omega)
  have link := List.any_eq_false.1 group (n % 8) (List.mem_range.2 (by omega))
  rw [show 8 * (n / 8) + n % 8 = n by omega] at link
  simpa using link

/-! ### Latched wakes (R395) -/

theorem exec_wakeReplay (wake : s.power.wake = true) (free : s.power.entering = none) (up : s.power.sagHold = false) :
    Answers .wakeReplay s fun t => t.power.wake = false ∧ t.power.replays = satAdd 16 s.power.replays 1
      ∧ (s.power.pkg = .p1 → t.power.pkg = .p0) ∧ (s.power.pkg = .p2 ∨ s.power.pkg = .p3 → t.power.exiting = true)
      ∧ t = { s with power := t.power } := by
  have start : exec .wakeReplay s = execWakeReplay s := rfl
  refine ⟨_, start.trans (if_neg (by simp [wake, free])), ?_⟩
  unfold State.wakeUp
  dsimp only
  rw [if_neg (by simp [up]), if_neg (by simp [free])]
  cases s.power.pkg <;> simp

/-! ### A sag in P3, and lockout (R401, R404) -/

theorem exec_supplySag_p3 (v : Nat) (on : s.power.aon = true) (asleep : s.power.pkg = .p3) (still : s.power.exiting = false)
    (up : s.power.sagHold = false) : exec (.supplySag v) s = .next
      { s with power := { s.power with sagSeen := true }, smbus := { s.smbus with vinUv := true } } := by
  have start : exec (.supplySag v) s = execSupplySag v s := rfl
  rw [start]
  unfold execSupplySag
  rw [if_neg (by simp [on]), if_pos (by simp [asleep, still, up])]

theorem exec_lockout : Answers .lockout s fun t => t.power.aon = false ∧ t.power.trip = none ∧ (s.trust.burning = false → t.fuses = s.fuses)
    ∧ t.vault = s.vault ∧ (s.committing = false → t.trust.flashImage = s.trust.flashImage) ∧ t.trust.running = false ∧ t.ucm = []
    ∧ t.edge = [] ∧ t.polders = [] ∧ t.pending = s.pending := by
  have pending : s.interrupted.pending = s.pending := State.ite_keeps (F := State.pending) rfl rfl
  exact ⟨_, rfl, rfl, rfl, s.interrupted_fuses, (congrArg Prod.fst s.interrupted_outside :), s.interrupted_trust, rfl, rfl, rfl, rfl, pending⟩

/-! ### NAP (R390) -/

theorem State.loseHalfDies_halfDie (s : State) (hs : List Nat) {k : Nat} (other : k ∉ hs) : (s.loseHalfDies hs).halfDie k = s.halfDie k := by
  have lost : (s.loseHalfDies hs).halfDie k = (s.junkCores hs false).halfDie k := rfl
  rw [lost, State.junkCores_eq]
  refine State.each_preserves (P := fun u => u.halfDie k = s.halfDie k) hs _ (fun u h hh kept => ?_) rfl
  exact ((State.onHalfDie_halfDie ..).trans (if_neg fun e : h = k => other (e ▸ hh))).trans kept

/-- What half-dies that lose their contents leave of the others' cores. -/
theorem State.loseHalfDies_cores (s : State) (hs : List Nat) : (s.loseHalfDies hs).tcores = Sparse.drop (fun c => hs.contains (halfOf (clusterOf c))) s.tcores
    ∧ (s.loseHalfDies hs).vcores = Sparse.drop (fun c => hs.contains (halfOf (clusterOf c))) s.vcores
    ∧ (s.loseHalfDies hs).scores = Sparse.drop (fun c => hs.contains (halfOf (clusterOf c))) s.scores := by
  have junked (u : State) (h : Nat) (j : HalfDie → HalfDie) : ((u.onHalfDie h j).tcores, (u.onHalfDie h j).vcores, (u.onHalfDie h j).scores)
      = (u.tcores, u.vcores, u.scores) := rfl
  have cores := State.each_keeps (F := fun u : State => (u.tcores, u.vcores, u.scores)) (g := fun u h => u.onHalfDie h (HalfDie.junked u.fresh false))
    (fun u h => junked u h _) hs (s.coresDropped hs)
  have run : (s.junkCores hs false) = (s.coresDropped hs).each hs fun u h => u.onHalfDie h (HalfDie.junked u.fresh false) := State.junkCores_eq ..
  rw [← run] at cores
  exact ⟨congrArg Prod.fst cores, congrArg (fun x => x.2.1) cores, congrArg (fun x => x.2.2) cores⟩

theorem exec_napEntry {h : Nat} (idle : (s.halfDie h).power = .idle) (free : s.polderOf h = 31) : Answers (.napEntry h) s fun t =>
    (t.halfDie h).power = .nap ∧ (∀ k, k ≠ h → t.halfDie k = s.halfDie k) ∧ (∀ core, halfOf (clusterOf core) ≠ h → t.tcore core = s.tcore core
      ∧ t.vcore core = s.vcore core ∧ t.score core = s.score core) ∧ t.ucm = s.ucm := by
  have start : exec (.napEntry h) s = execNapEntry h s := rfl
  obtain ⟨d, b, ran⟩ : ∃ (d : Nat) (b : Bool), exec (.napEntry h) s = .next (if b
      then ((s.loseHalfDies [h]).onHalfDie h fun x => { x with power := .nap }).ucmRefresh [d]
      else (s.loseHalfDies [h]).onHalfDie h fun x => { x with power := .nap }) := by
    rw [start]
    unfold execNapEntry
    rw [if_neg (by simp [idle, free])]
    exact ⟨_, _, rfl⟩
  have lostHalf (k : Nat) (hk : k ≠ h) : (s.loseHalfDies [h]).halfDie k = s.halfDie k := s.loseHalfDies_halfDie [h] (by simpa using hk)
  obtain ⟨tcores, vcores, scores⟩ := s.loseHalfDies_cores [h]
  have ucm : (s.loseHalfDies [h]).ucm = s.ucm := (congrArg State.ucm (s.loseHalfDies_sansHalves [h]) :)
  generalize s.loseHalfDies [h] = l at ran lostHalf tcores vcores scores ucm
  have rested : (if b then (l.onHalfDie h fun x => { x with power := .nap }).ucmRefresh [d] else l.onHalfDie h fun x => { x with power := .nap }).sansRefresh
      = (l.onHalfDie h fun x => { x with power := .nap }).sansRefresh :=
    State.ite_keeps (F := State.sansRefresh) (State.ucmRefresh_sansRefresh _ _) rfl
  generalize (if b then (l.onHalfDie h fun x => { x with power := .nap }).ucmRefresh [d] else l.onHalfDie h fun x => { x with power := .nap }) = t
    at ran rested
  have tHalf : t.halfDies = (l.onHalfDie h fun x => { x with power := .nap }).halfDies := (congrArg State.halfDies rested :)
  have tT : t.tcores = l.tcores := (congrArg State.tcores rested :)
  have tV : t.vcores = l.vcores := (congrArg State.vcores rested :)
  have tS : t.scores = l.scores := (congrArg State.scores rested :)
  have half (k : Nat) : t.halfDie k = if h = k then { l.halfDie h with power := .nap } else l.halfDie k :=
    (congrArg (fun m => Sparse.get ({} : HalfDie) m k) tHalf).trans (State.onHalfDie_halfDie ..)
  have others (k : Nat) (hk : k ≠ h) : t.halfDie k = s.halfDie k := by
    rw [half, if_neg (Ne.symm hk), lostHalf k hk]
  refine ⟨t, ran, ?_, others, fun core other => ⟨?_, ?_, ?_⟩, (congrArg State.ucm rested :).trans ucm⟩
  · rw [half, if_pos rfl]
  · unfold State.tcore
    rw [others _ other, tT, tcores, Sparse.get_drop, if_neg (by simpa using other)]
  · unfold State.vcore
    rw [others _ other, tV, vcores, Sparse.get_drop, if_neg (by simpa using other)]
  · unfold State.score
    rw [others _ other, tS, scores, Sparse.get_drop, if_neg (by simpa using other)]

end
end Sys2Proof.Machine
end

section
/-! The entries to P2 and P3, their aborts, and the exit from P2 (R388, R391, R394, R395). -/

namespace Sys2Proof.Machine

theorem State.each_same {α : Type} {g : State → α → State} {s : State} {l : List α} (h : ∀ x ∈ l, g s x = s) : s.each l g = s := by
  induction l with
  | nil => rfl
  | cons x l ih =>
    have first : s.each (x :: l) g = (g s x).each l g := rfl
    rw [first, h x List.mem_cons_self]
    exact ih fun y hy => h y (List.mem_cons_of_mem _ hy)

/-! ### Domains off (R196, R214, R388) -/

section
variable (s : State)

/-- The UCM domain of a die off. -/
def State.dieDark (s : State) (d : Nat) : State := s.onUcmDie d fun x => { x with on := false, selfRefresh := false }

/-- An edge stack off. -/
def State.stackDark (s : State) (e : Nat) : State := s.onStack e fun x => { x with on := false, selfRefresh := false }

/-- A basin's contents lost. -/
def State.basinDark (s : State) (b : Nat) : State := s.onBasin b fun x => { x with lines := [], scratch := [], badWords := [] }

/-- The module without its memories, and what they are powered by. -/
def State.sansDomains (s : State) : State :=
  { s with ucmDies := [], ucm := [], ucmValid := [], ucmBad := [], merges := [], edgeStacks := [], edge := [], edgeBad := [], basins := [] }

theorem State.ucmDomainOff_sansDomains (ds : List Nat) : (s.ucmDomainOff ds).sansDomains = s.sansDomains :=
  State.each_keeps (F := State.sansDomains) (g := State.dieDark) (fun _ _ => rfl) ds s

theorem State.ucmDomainOff_ucm (ds : List Nat) :
    (s.ucmDomainOff ds).ucm = Sparse.drop (fun a => ds.contains (dieOf (clusterOf (a / sliceBytes)))) s.ucm := rfl

theorem State.ucmDomainOff_on (ds : List Nat) (nodup : ds.Nodup) (d : Nat) :
    ((s.ucmDomainOff ds).ucmDie d).on = if d ∈ ds then false else (s.ucmDie d).on := by
  refine (congrArg UcmDie.on (State.each_at (V := State.ucmDie) (g := State.dieDark) (φ := fun _ x => { x with on := false, selfRefresh := false })
    (fun u x => (State.onUcmDie_ucmDie ..).trans (if_pos rfl))
    (fun u x y other => (State.onUcmDie_ucmDie ..).trans (if_neg (Ne.symm other))) ds s d nodup) :).trans ?_
  split <;> rfl

theorem State.stacksOff_sansDomains (es : List Nat) : (s.stacksOff es).sansDomains = s.sansDomains :=
  State.each_keeps (F := State.sansDomains) (g := State.stackDark) (fun _ _ => rfl) es s

theorem State.stacksOff_memory (es : List Nat) : ((s.stacksOff es).ucmDies, (s.stacksOff es).ucm) = (s.ucmDies, s.ucm) :=
  State.each_keeps (F := fun u : State => (u.ucmDies, u.ucm)) (g := State.stackDark) (fun _ _ => rfl) es s

theorem State.stacksOff_edge (es : List Nat) :
    (s.stacksOff es).edge = Sparse.drop (fun a => es.contains (a / (32 * 0x60000000))) s.edge := by
  have kept := State.each_keeps (F := State.edge) (g := State.stackDark) (fun _ _ => rfl) es s
  unfold State.stacksOff
  exact congrArg (Sparse.drop fun a => es.contains (a / (32 * 0x60000000))) kept

theorem State.stacksOff_on (es : List Nat) (nodup : es.Nodup) (e : Nat) :
    ((s.stacksOff es).stack e).on = if e ∈ es then false else (s.stack e).on := by
  refine (congrArg Stack.on (State.each_at (V := State.stack) (g := State.stackDark) (φ := fun _ x => { x with on := false, selfRefresh := false })
    (fun u x => (State.onStack_stack ..).trans (if_pos rfl))
    (fun u x y other => (State.onStack_stack ..).trans (if_neg (Ne.symm other))) es s e nodup) :).trans ?_
  split <;> rfl

/-- Half-dies, under-core memory and edge stacks off, with the contents lost. -/
def State.Dark (t : State) : Prop :=
  (∀ k < 24, (t.halfDie k).power = .off) ∧ (∀ d < 12, (t.ucmDie d).on = false) ∧ (∀ e < 32, (t.stack e).on = false)
    ∧ (∀ a, a < 1024 * 0x60000000 → t.edge.byte a = 0) ∧ ∀ a, a < 12 * 1344 * 64 * sliceBytes → t.ucm.byte a = 0

/-- Steps 2 and 3 of an entry, before the links. -/
@[irreducible] def State.darkened (s : State) (hs ds es bs : List Nat) : State :=
  (((s.offHalfDies hs).ucmDomainOff ds).stacksOff es).each bs State.basinDark

theorem State.darkened_sansDomains (hs ds es bs : List Nat) : (s.darkened hs ds es bs).sansDomains.sansHalves = s.sansDomains.sansHalves := by
  unfold State.darkened
  have basins := State.each_keeps (F := fun u : State => u.sansDomains.sansHalves) (g := State.basinDark) (fun _ _ => rfl) bs
    (((s.offHalfDies hs).ucmDomainOff ds).stacksOff es)
  refine basins.trans ?_
  rw [State.stacksOff_sansDomains, State.ucmDomainOff_sansDomains]
  exact (congrArg State.sansDomains (s.offHalfDies_sansHalves hs) :)

theorem dieOf_slice {a : Nat} (small : a < 12 * 1344 * 64 * sliceBytes) : dieOf (clusterOf (a / sliceBytes)) < 12 := by
  have core : a / sliceBytes < 12 * 1344 * 64 := (Nat.div_lt_iff_lt_mul (by decide)).2 small
  unfold dieOf clusterOf
  omega

/-- No byte of a slice stays where every die is off. -/
theorem byte_dieDark {m : Memory} {a : Nat} (small : a < 12 * 1344 * 64 * sliceBytes) :
    Memory.byte (Sparse.drop (fun a => (List.range 12).contains (dieOf (clusterOf (a / sliceBytes)))) m) a = 0 := by
  have gone : (List.range 12).contains (dieOf (clusterOf (a / sliceBytes))) = true :=
    List.contains_iff_mem.2 (List.mem_range.2 (dieOf_slice small))
  exact (Sparse.get_drop ..).trans (if_pos gone)

/-- No byte of an edge stack stays where every stack is off. -/
theorem byte_darkened {m : Memory} {a : Nat} (small : a < 1024 * 0x60000000) :
    Memory.byte (Sparse.drop (fun a => (List.range 32).contains (a / (32 * 0x60000000))) m) a = 0 := by
  have gone : (List.range 32).contains (a / (32 * 0x60000000)) = true := List.contains_iff_mem.2 (List.mem_range.2 (by omega))
  exact (Sparse.get_drop ..).trans (if_pos gone)

section
variable (hs ds es bs : List Nat)

/-- The basins' loss touches no memory outside them. -/
theorem State.basinsDark_kept : ((s.each bs State.basinDark).halfDies, (s.each bs State.basinDark).ucmDies,
    (s.each bs State.basinDark).edgeStacks, (s.each bs State.basinDark).edge, (s.each bs State.basinDark).ucm)
      = (s.halfDies, s.ucmDies, s.edgeStacks, s.edge, s.ucm) :=
  State.each_keeps (F := fun u : State => (u.halfDies, u.ucmDies, u.edgeStacks, u.edge, u.ucm)) (g := State.basinDark) (fun _ _ => rfl) bs s

theorem State.darkened_halfDies : (s.darkened hs ds es bs).halfDies = (s.offHalfDies hs).halfDies := by
  unfold State.darkened
  exact (congrArg Prod.fst (State.basinsDark_kept _ bs)).trans ((congrArg State.halfDies (State.stacksOff_sansDomains _ es) :).trans
    (congrArg State.halfDies (State.ucmDomainOff_sansDomains _ ds) :))

theorem State.darkened_power {k : Nat} (nodup : hs.Nodup) (listed : k ∈ hs) : ((s.darkened hs ds es bs).halfDie k).power = .off :=
  (congrArg (fun m => (Sparse.get ({} : HalfDie) m k).power) (s.darkened_halfDies hs ds es bs)).trans
    ((s.offHalfDies_power hs nodup k).trans (if_pos listed))

theorem State.darkened_ucmDie {d : Nat} (nodup : ds.Nodup) (listed : d ∈ ds) : ((s.darkened hs ds es bs).ucmDie d).on = false := by
  unfold State.darkened
  have off := ((s.offHalfDies hs).ucmDomainOff_on ds nodup d).trans (if_pos listed)
  generalize (s.offHalfDies hs).ucmDomainOff ds = u at off ⊢
  have dies : ((u.stacksOff es).each bs State.basinDark).ucmDies = u.ucmDies :=
    (congrArg (fun x => x.2.1) (State.basinsDark_kept _ bs)).trans (congrArg Prod.fst (u.stacksOff_memory es))
  exact (congrArg (fun m => (Sparse.get ({} : UcmDie) m d).on) dies).trans off

theorem State.darkened_stack {e : Nat} (nodup : es.Nodup) (listed : e ∈ es) : ((s.darkened hs ds es bs).stack e).on = false := by
  unfold State.darkened
  generalize (s.offHalfDies hs).ucmDomainOff ds = u
  have off := (u.stacksOff_on es nodup e).trans (if_pos listed)
  have lit : ((u.stacksOff es).each bs State.basinDark).edgeStacks = (u.stacksOff es).edgeStacks :=
    congrArg (fun x => x.2.2.1) (State.basinsDark_kept _ bs)
  exact (congrArg (fun m => (Sparse.get ({} : Stack) m e).on) lit).trans off

theorem State.darkened_edge : ∃ m, (s.darkened hs ds es bs).edge = Sparse.drop (fun a => es.contains (a / (32 * 0x60000000))) m := by
  unfold State.darkened
  exact ⟨_, (congrArg (fun x => x.2.2.2.1) (State.basinsDark_kept _ bs)).trans (State.stacksOff_edge _ es)⟩

theorem State.darkened_ucm : ∃ m, (s.darkened hs ds es bs).ucm = Sparse.drop (fun a => ds.contains (dieOf (clusterOf (a / sliceBytes)))) m := by
  unfold State.darkened
  exact ⟨_, (congrArg (fun x => x.2.2.2.2) (State.basinsDark_kept _ bs)).trans ((congrArg Prod.snd (State.stacksOff_memory _ es)).trans
    (State.ucmDomainOff_ucm _ ds))⟩

end

theorem State.darkened_dark : (s.darkened (List.range 24) (List.range 12) (List.range 32) (List.range 4)).Dark := by
  refine ⟨fun k small => s.darkened_power _ _ _ _ List.nodup_range (List.mem_range.2 small),
    fun d small => s.darkened_ucmDie _ _ _ _ List.nodup_range (List.mem_range.2 small),
    fun e small => s.darkened_stack _ _ _ _ List.nodup_range (List.mem_range.2 small), fun a small => ?_, fun a small => ?_⟩
  · obtain ⟨m, edge⟩ := s.darkened_edge (List.range 24) (List.range 12) (List.range 32) (List.range 4)
    rw [edge]
    exact byte_darkened small
  · obtain ⟨m, ucm⟩ := s.darkened_ucm (List.range 24) (List.range 12) (List.range 32) (List.range 4)
    rw [ucm]
    exact byte_dieDark small

/-! ### The entries (R391, R394) -/

theorem State.linksSilent_of_disabled {s : State} (still : ∀ n < 96, (s.link n).state = .disabled) (x : LinkState) : s.linksSilent x = s :=
  State.each_same fun n hn => if_pos (by rw [still n (List.mem_range.1 hn)]; rfl)

theorem State.deepOff_eq (still : ∀ n < 96, (s.link n).state = .disabled) :
    s.deepOff = s.darkened (List.range 24) (List.range 12) (List.range 32) (List.range 4) := by
  have run : s.deepOff = (s.darkened (List.range 24) (List.range 12) (List.range 32) (List.range 4)).linksSilent .detect := by
    unfold State.darkened
    rfl
  have links : (s.darkened (List.range 24) (List.range 12) (List.range 32) (List.range 4)).links = s.links :=
    (congrArg State.links (s.darkened_sansDomains ..) :)
  rw [run]
  exact State.linksSilent_of_disabled (fun n small => (congrArg (fun m => (Sparse.get ({} : Link) m n).state) links).trans (still n small)) _

/-- A PMP reset leaves half-dies that are OFF so. -/
theorem State.discardCommands_off {k : Nat} (mine : Nat → Bool) {s : State} (off : (s.halfDie k).power = .off) :
    ((s.discardCommands mine).halfDie k).power = .off := by
  unfold State.discardCommands
  refine State.each_preserves (P := fun u => (u.halfDie k).power = .off) _ s (fun u n _ hu => ?_) off
  dsimp only
  split
  · refine State.each_preserves (P := fun u => (u.halfDie k).power = .off) _ u (fun v h _ hv => ?_) hu
    rw [State.onHalfDie_halfDie]
    split
    · next same =>
      subst same
      simp [hv]
    · exact hv
  · exact hu

theorem State.pmpResetNow_dark (dark : s.Dark) : s.pmpResetNow.Dark := by
  let F (u : State) : Sparse UcmDie × Sparse Stack × Memory × Memory := (u.ucmDies, u.edgeStacks, u.edge, u.ucm)
  have begun : s.interrupted.halfDies = s.halfDies := by
    unfold State.interrupted
    exact State.ite_keeps (F := State.halfDies) rfl rfl
  have memory : F s.interrupted = F s := by
    unfold State.interrupted
    exact State.ite_keeps (F := F) rfl rfl
  have lost : F (s.interrupted.discardCommands fun _ => true) = F s.interrupted :=
    s.interrupted.discardCommands_keeps (F := F) (fun _ _ _ => rfl) (fun _ _ _ => rfl) fun _ => true
  have off := fun k (h : (s.interrupted.halfDie k).power = .off) => State.discardCommands_off (fun _ => true) h
  have orders := s.ordersDown_keeps (F := fun u => (u.halfDies, F u)) (fun _ _ _ => rfl)
  have mails : ∀ (u : State) m, ((u.mailForgotten m).halfDies, F (u.mailForgotten m)) = (u.halfDies, F u) := fun _ _ => rfl
  have stopped : ∀ u : State, (u.firmwareStopped.halfDies, F u.firmwareStopped) = (u.halfDies, F u) := fun _ => rfl
  have whole : (s.pmpResetNow.halfDies, F s.pmpResetNow) = ((s.interrupted.discardCommands fun _ => true).halfDies, F s) := by
    rw [s.pmpResetNow_eq, stopped, orders]
    unfold State.commandsLost
    rw [mails, lost, memory]
  generalize s.pmpResetNow = t at whole ⊢
  generalize s.interrupted.discardCommands (fun _ => true) = w at whole off
  simp only [Prod.mk.injEq, F] at whole
  obtain ⟨tHalf, tDies, tStacks, tEdge, tUcm⟩ := whole
  obtain ⟨power, dies, lit, edge, ucm⟩ := dark
  refine ⟨fun k small => ?_, fun d small => ?_, fun e small => ?_, fun a small => ?_, fun a small => ?_⟩
  · refine (congrArg (fun m => (Sparse.get ({} : HalfDie) m k).power) tHalf).trans (off k ?_)
    exact (congrArg (fun m => (Sparse.get ({} : HalfDie) m k).power) begun).trans (power k small)
  · exact (congrArg (fun m => (Sparse.get ({} : UcmDie) m d).on) tDies).trans (dies d small)
  · exact (congrArg (fun m => (Sparse.get ({} : Stack) m e).on) tStacks).trans (lit e small)
  · rw [tEdge]
    exact edge a small
  · rw [tUcm]
    exact ucm a small

theorem State.pmpResetNow_stopped : s.pmpResetNow.trust.running = false := s.pmpResetNow_trust.1

variable {s : State} {code : Nat}

theorem exec_p2Entry (entering : s.power.entering = some .p2) (free : s.refuser .p2 = none) : Answers (.p2Entry none) s fun t =>
    t.power.pkg = .p2 ∧ t.power.entering = none ∧ t.Dark ∧ t.trust = s.trust := by
  have start : exec (.p2Entry none) s = execP2Entry none s := rfl
  have dark := s.darkened_dark
  have trust : (s.darkened (List.range 24) (List.range 12) (List.range 32) (List.range 4)).trust = s.trust :=
    (congrArg State.trust (s.darkened_sansDomains ..) :)
  have off := s.deepOff_eq (State.links_of_refuser (by decide) free)
  generalize s.darkened (List.range 24) (List.range 12) (List.range 32) (List.range 4) = d at dark trust off
  refine ⟨{ d with power := { d.power with pkg := .p2, entering := none }, pcie := { d.pcie with l1 := true } }, ?_, rfl, rfl, dark, trust⟩
  rw [start]
  unfold execP2Entry
  rw [if_neg (by simp [entering]), free]
  dsimp only
  rw [off]

theorem exec_p3Entry (entering : s.power.entering = some .p3) (free : s.refuser .p3 = none) : Answers (.p3Entry none) s fun t =>
    t.power.pkg = .p3 ∧ t.power.entering = none ∧ t.power.management = false ∧ t.power.culverts = false ∧ t.pcie.on = false
      ∧ t.time.unsynced = true ∧ t.trust.running = false ∧ t.Dark := by
  have start : exec (.p3Entry none) s = execP3Entry none s := rfl
  have dark := State.pmpResetNow_dark _ s.darkened_dark
  have stopped := State.pmpResetNow_stopped (s.darkened (List.range 24) (List.range 12) (List.range 32) (List.range 4))
  have off := s.deepOff_eq (State.links_of_refuser (by decide) free)
  generalize s.darkened (List.range 24) (List.range 12) (List.range 32) (List.range 4) = d at dark stopped off
  generalize hp : d.pmpResetNow = p at dark stopped
  refine ⟨{ p with
        power := { p.power with pkg := .p3, entering := none, management := false, culverts := false }
        pcie := { p.pcie with on := false, up := false, l1 := false }
        thermal := { p.thermal with trend := [] }
        time := { p.time with slew := 0, unsynced := true, copies := [] } }, ?_, rfl, rfl, rfl, rfl, rfl, rfl, stopped, dark⟩
  rw [start]
  unfold execP3Entry
  rw [if_neg (by simp [entering]), free]
  dsimp only
  rw [off, hp]

end
end Sys2Proof.Machine
end

section
/-! An entry that fails after it began, and the exit from P2 (R394, R395). -/

namespace Sys2Proof.Machine

/-! ### Aborts (R394) -/

theorem lostBefore_nodup (code : Nat) : (lostBefore code).1.Nodup := by
  unfold lostBefore
  dsimp only
  split
  · exact List.nodup_range
  · exact List.nodup_range
  · exact List.nodup_range
  · exact List.nodup_nil

/-- A half-die comes back as it stood, and counts its tides from 0 (R500). -/
def State.halfDieBack (s : State) (t : State) (h : Nat) : State :=
  t.onHalfDie h fun x => { x with power := (s.halfDie h).power, tide := 0, tidePart := 0, markDue := false, step := 0 }

/-- What an aborted entry leaves, before it is counted. -/
@[irreducible] def State.broughtBack (s : State) (hs ds es : List Nat) : State :=
  ({ ((s.offHalfDies hs).ucmDomainOff ds).stacksOff es with ucmDies := s.ucmDies, edgeStacks := s.edgeStacks } : State).each
    (hs.filter fun h => (s.halfDie h).power != .off) s.halfDieBack

section
variable (s : State) (hs ds es : List Nat)

theorem State.abortEntry_eq (target : PkgState) (code : Nat) : s.abortEntry target code
    = (s.broughtBack (lostBefore code).1 (lostBefore code).2.1 (lostBefore code).2.2).entryAborted target.code code := by
  unfold State.broughtBack
  rfl

theorem State.broughtBack_power : (s.broughtBack hs ds es).power = s.power := by
  have back (u : State) (l : List Nat) : (u.each l s.halfDieBack).power = u.power :=
    State.each_keeps (F := State.power) (g := s.halfDieBack) (fun _ _ => rfl) l u
  have off : (((s.offHalfDies hs).ucmDomainOff ds).stacksOff es).power = s.power :=
    (congrArg State.power (State.stacksOff_sansDomains _ es) :).trans ((congrArg State.power (State.ucmDomainOff_sansDomains _ ds) :).trans
      (congrArg State.power (s.offHalfDies_sansHalves hs) :))
  unfold State.broughtBack
  generalize ((s.offHalfDies hs).ucmDomainOff ds).stacksOff es = u at off ⊢
  exact (back _ _).trans off

/-- The half-dies come back to what they were. -/
theorem State.broughtBack_halfDie (nodup : hs.Nodup) (k : Nat) : ((s.broughtBack hs ds es).halfDie k).power = (s.halfDie k).power := by
  have back (u : State) (l : List Nat) (nodup : l.Nodup) : (u.each l s.halfDieBack).halfDie k
      = if k ∈ l then { u.halfDie k with power := (s.halfDie k).power, tide := 0, tidePart := 0, markDue := false, step := 0 } else u.halfDie k :=
    State.each_at (V := State.halfDie) (g := s.halfDieBack)
      (φ := fun h x => { x with power := (s.halfDie h).power, tide := 0, tidePart := 0, markDue := false, step := 0 })
      (fun v x => (State.onHalfDie_halfDie ..).trans (if_pos rfl))
      (fun v x y other => (State.onHalfDie_halfDie ..).trans (if_neg (Ne.symm other))) l u k nodup
  have off : ((((s.offHalfDies hs).ucmDomainOff ds).stacksOff es).halfDie k).power = if k ∈ hs then .off else (s.halfDie k).power := by
    refine Eq.trans ?_ (s.offHalfDies_power hs nodup k)
    have same : (((s.offHalfDies hs).ucmDomainOff ds).stacksOff es).halfDies = (s.offHalfDies hs).halfDies :=
      (congrArg State.halfDies (State.stacksOff_sansDomains _ es) :).trans (congrArg State.halfDies (State.ucmDomainOff_sansDomains _ ds) :)
    exact congrArg (fun m => (Sparse.get ({} : HalfDie) m k).power) same
  unfold State.broughtBack
  generalize ((s.offHalfDies hs).ucmDomainOff ds).stacksOff es = u at off ⊢
  refine (congrArg HalfDie.power (back _ (hs.filter fun h => (s.halfDie h).power != .off) (nodup.filter _))).trans ?_
  by_cases was : k ∈ hs.filter fun h => (s.halfDie h).power != .off
  · rw [if_pos was]
  · rw [if_neg was]
    refine Eq.trans off ?_
    split
    · next listed =>
      have dark : ¬ (s.halfDie k).power ≠ .off := fun lit => was (List.mem_filter.2 ⟨listed, by simpa using lit⟩)
      exact (not_not.1 dark).symm
    · rfl

variable {s : State} {code : Nat}

/-- An entry that a unit other than the supply failed (R394). -/
theorem State.entryFailed_spec (target : PkgState) (other : code / 4096 ≠ 11) : (s.entryFailed target code).power.pkg = s.power.pkg
    ∧ (s.entryFailed target code).power.entering = none ∧ (s.entryFailed target code).power.lastAborted = true
    ∧ (s.entryFailed target code).power.lastRefuser = code ∧ ∀ k < 24, ((s.entryFailed target code).halfDie k).power = (s.halfDie k).power := by
  have failed : s.entryFailed target code = s.abortEntry target code := if_neg (by simpa using other)
  rw [failed, State.abortEntry_eq]
  have power := s.broughtBack_power (lostBefore code).1 (lostBefore code).2.1 (lostBefore code).2.2
  have half := s.broughtBack_halfDie (lostBefore code).1 (lostBefore code).2.1 (lostBefore code).2.2 (lostBefore_nodup code)
  generalize s.broughtBack (lostBefore code).1 (lostBefore code).2.1 (lostBefore code).2.2 = b at power half
  exact ⟨(congrArg Power.pkg power :), rfl, rfl, rfl, fun k _ => half k⟩

theorem State.entryFailed_supply (target : PkgState) (supply : code / 4096 = 11) : s.entryFailed target code = s.sagNow s.power.vinMin :=
  if_pos (by simpa using supply)

theorem exec_p2Entry_failed (entering : s.power.entering = some .p2) (free : s.refuser .p2 = none) :
    exec (.p2Entry (some code)) s = .next (s.entryFailed .p2 code) := by
  have start : exec (.p2Entry (some code)) s = execP2Entry (some code) s := rfl
  rw [start]
  unfold execP2Entry
  rw [if_neg (by simp [entering]), free]

theorem exec_p3Entry_failed (entering : s.power.entering = some .p3) (free : s.refuser .p3 = none) :
    exec (.p3Entry (some code)) s = .next (s.entryFailed .p3 code) := by
  have start : exec (.p3Entry (some code)) s = execP3Entry (some code) s := rfl
  rw [start]
  unfold execP3Entry
  rw [if_neg (by simp [entering]), free]

/-! ### The exit from P2 (R395) -/

/-- The UCM domain of a die powered. -/
def State.dieLit (s : State) (d : Nat) : State := s.onUcmDie d fun x => { x with on := true, lastAccess := s.time.dev }

/-- An edge stack powered, to be trained. -/
def State.stackLit (s : State) (e : Nat) : State := s.onStack e fun x => { x with on := true, trainedAt := none }

theorem State.diesLit_on (s : State) (l : List Nat) {d : Nat} (listed : d ∈ l) : ((s.each l State.dieLit).ucmDie d).on = true := by
  refine State.each_establishes (P := fun u => (u.ucmDie d).on = true) (g := State.dieLit) (fun u => ?_) l s (fun u y _ hu => ?_) listed
  · exact congrArg UcmDie.on ((State.onUcmDie_ucmDie ..).trans (if_pos rfl))
  · refine (congrArg UcmDie.on (State.onUcmDie_ucmDie ..)).trans ?_
    split
    · rfl
    · exact hu

theorem State.stacksLit_on (s : State) (l : List Nat) {e : Nat} (listed : e ∈ l) : ((s.each l State.stackLit).stack e).on = true := by
  refine State.each_establishes (P := fun u => (u.stack e).on = true) (g := State.stackLit) (fun u => ?_) l s (fun u y _ hu => ?_) listed
  · exact congrArg Stack.on ((State.onStack_stack ..).trans (if_pos rfl))
  · refine (congrArg Stack.on (State.onStack_stack ..)).trans ?_
    split
    · rfl
    · exact hu

/-- Memory domains powered again. -/
@[irreducible] def State.memoryLit (s : State) (ds es : List Nat) : State := (s.each ds State.dieLit).each es State.stackLit

theorem State.memoryLit_spec (s : State) (ds es : List Nat) : (s.memoryLit ds es).trust = s.trust
    ∧ (∀ d ∈ ds, ((s.memoryLit ds es).ucmDie d).on = true) ∧ ∀ e ∈ es, ((s.memoryLit ds es).stack e).on = true := by
  have trust (u : State) := State.each_keeps (F := State.trust) (g := State.stackLit) (fun _ _ => rfl) es u
  have trust' := State.each_keeps (F := State.trust) (g := State.dieLit) (fun _ _ => rfl) ds s
  have dies (u : State) := State.each_keeps (F := State.ucmDies) (g := State.stackLit) (fun _ _ => rfl) es u
  unfold State.memoryLit
  refine ⟨(trust _).trans trust', fun d hd => ?_, fun e he => State.stacksLit_on _ es he⟩
  exact (congrArg (fun m => (Sparse.get ({} : UcmDie) m d).on) (dies _)).trans (s.diesLit_on ds hd)

/-- The exit from P2 leads to P1, its channels trained anew. -/
def State.p2Left (s : State) : State :=
  let s := { s with channels := Sparse.mapWhere {} (fun _ => true) (fun c =>
    { c with trainedAt := none, lineCount := [], scrubPos := 0 }) s.channels }
  { s with power := { s.power with pkg := .p1, exiting := false }, pcie := { s.pcie with l1 := false } }

theorem exec_p2Exit (asleep : s.power.pkg = .p2) (exiting : s.power.exiting = true) : Answers (.p2Exit none) s fun t =>
    t.power.pkg = .p1 ∧ t.power.exiting = false ∧ (∀ d < 12, (t.ucmDie d).on = true) ∧ (∀ e < 32, (t.stack e).on = true)
      ∧ t.pcie.l1 = false ∧ t.trust = s.trust := by
  have start : exec (.p2Exit none) s = execP2Exit none s := rfl
  obtain ⟨trust, dies, lit⟩ := s.memoryLit_spec (List.range 12) (List.range 32)
  have ran : exec (.p2Exit none) s = .next (s.memoryLit (List.range 12) (List.range 32)).p2Left := by
    rw [start]
    unfold execP2Exit State.memoryLit State.dieLit State.stackLit State.p2Left
    rw [if_neg (by simp [asleep, exiting])]
  generalize s.memoryLit (List.range 12) (List.range 32) = m at trust dies lit ran
  exact ⟨_, ran, rfl, rfl, fun d small => dies d (List.mem_range.2 small), fun e small => lit e (List.mem_range.2 small), rfl, trust⟩

theorem exec_p2Exit_failed (asleep : s.power.pkg = .p2) (exiting : s.power.exiting = true) :
    (code / 4096 ≠ 11 → exec (.p2Exit (some code)) s = .next (s.entryAborted 1 code))
      ∧ (code / 4096 = 11 → exec (.p2Exit (some code)) s = .next (s.sagNow s.power.vinMin)) := by
  have start : exec (.p2Exit (some code)) s = execP2Exit (some code) s := rfl
  rw [start]
  unfold execP2Exit
  rw [if_neg (by simp [asleep, exiting])]
  exact ⟨fun other => congrArg Host.Outcome.next (if_neg (by simpa using other)), fun supply => congrArg Host.Outcome.next (if_pos (by simpa using supply))⟩

end
end Sys2Proof.Machine
end

section
/-! SUPPORT. A DISABLED channel stays so while links fall silent (R291, R437, R450). -/

namespace Sys2Proof.Machine

/-- A channel that is DISABLED stays so. -/
def State.StaysOff (ch : Nat) (u v : State) : Prop := (u.chan ch).state = .disabled → (v.chan ch).state = .disabled

namespace State.StaysOff

variable {ch : Nat} {s t u v : State}

theorem refl (ch : Nat) (s : State) : State.StaysOff ch s s := id

theorem trans (h : State.StaysOff ch s t) (k : State.StaysOff ch t u) : State.StaysOff ch s u := fun off => k (h off)

theorem of_dma (h : t.dma = s.dma) : State.StaysOff ch s t :=
  fun off => (congrArg (fun d => (Sparse.get ({} : DmaCh) d ch).state) h).trans off

theorem of_table (small : ch < 256) (h : chanTable t.dma = chanTable s.dma) : State.StaysOff ch s t :=
  fun off => ((congrArg DmaCh.state (chanTable_eq_iff.1 h ch small) :) : (t.chan ch).state = (s.chan ch).state).trans off

theorem of_sansSends (h : t.sansSends = s.sansSends) : State.StaysOff ch s t := of_dma (congrArg State.dma h :)

theorem signal (s : State) (f v : Nat) : State.StaysOff ch s (s.signal f v) := of_sansSends (sendsTo_signal s v).1.sansSends_eq

theorem hostWrite_getD (f a : Nat) (l : List Byte) (h : State.StaysOff ch s u) : State.StaysOff ch s ((u.hostWrite f a l).getD u) := by
  cases hw : u.hostWrite f a l with
  | none => exact h
  | some v => exact h.trans (of_sansSends (sendsTo_hostWrite hw).1.sansSends_eq)

theorem each {α : Type} {g : State → α → State} (h : ∀ u x, State.StaysOff ch u (g u x)) (l : List α) (s : State) :
    State.StaysOff ch s (s.each l g) := State.each_related (refl ch) trans h l s

/-- A change of a channel that leaves one that is DISABLED so. -/
theorem onChan (s : State) (k : Nat) {g : DmaCh → DmaCh} (hg : (s.chan k).state = .disabled → (g (s.chan k)).state = .disabled) :
    State.StaysOff ch s (s.onChan k g) := by
  intro off
  rw [State.onChan_chan]
  split
  · next same =>
    subst same
    exact hg off
  · exact off

section
variable (small : ch < 256)
include small

theorem chanWrite (s : State) (k a : Nat) (l : List Byte) : State.StaysOff ch s (s.chanWrite k a l).1 := by
  unfold State.chanWrite State.chanAccess
  have counted : State.StaysOff ch s (s.engineCount k 1 l.length) := of_dma rfl
  refine ite_fst_related (R := State.StaysOff ch) ?_ ?_
  · exact of_dma rfl
  · exact counted.trans (of_table small (congrArg State.dma (State.access_sansAccess ..) :))

theorem writeRing (s : State) (k a done w0 : Nat) : State.StaysOff ch s (s.writeRing k a done w0).1 := by
  unfold State.writeRing
  dsimp only
  refine ite_fst_related (R := State.StaysOff ch) ?_ ?_
  · have first := chanWrite small s k (a + 48) (leBytes 8 done)
    exact ite_fst_related (R := State.StaysOff ch) (first.trans (chanWrite small _ _ _ _)) first
  · have counted : State.StaysOff ch s (s.engineCount k 0 16) := of_dma rfl
    exact hostWrite_getD _ _ _ (hostWrite_getD _ _ _ counted)

section
variable (s : State) {k : Nat} (other : k ≠ ch)
include other

omit small in
theorem onOther (g : DmaCh → DmaCh) : State.StaysOff ch s (s.onChan k g) :=
  fun off => (congrArg DmaCh.state ((State.onChan_chan ..).trans (if_neg other))).trans off

omit small in
theorem haltChan (st : Status) (addr : Nat) (write stop : Bool) : State.StaysOff ch s (s.haltChan k st addr write stop) := by
  unfold State.haltChan
  exact (onOther s other _).trans (signal _ _ _)

omit small in
theorem ringFail {g : Got} (certain : g.uncorrectable = false) (addr : Nat) (write : Bool) : State.StaysOff ch s (s.ringFail k g addr write) := by
  unfold State.ringFail State.jobFail
  rw [certain]
  exact (onOther s other _).trans (haltChan _ other _ _ _ _)

omit small other in
theorem unbindAll (k : Nat) : State.StaysOff ch s (s.unbindAll k) :=
  of_dma (State.each_keeps (F := State.dma) (g := fun u cl => u.onCluster cl fun c => c.unbind k) (fun _ _ => rfl) _ s)

theorem retire (st : Status) (done : Nat) : State.StaysOff ch s (s.retire k st done).1 := by
  unfold State.retire
  dsimp only
  split
  · exact refl ch s
  · next d rest _ =>
    generalize hu : State.setChan (s.unbindAll k) k _ = u
    have unbound : State.StaysOff ch s u := hu ▸ (unbindAll s k).trans (onOther (s.unbindAll k) other fun _ => _)
    generalize d.word0 - b2n d.own - bits d.word0 40 8 * 2 ^ 40 + st.code * 2 ^ 40 = w0
    have written := unbound.trans (writeRing small u k ((s.chan k).slotAddr d.index) done w0)
    split
    · exact ite_related (R := State.StaysOff ch) (written.trans (signal _ _ _)) written
    · next g failed => exact written.trans (ringFail _ other (u.writeRing_certain _ _ _ _ failed) _ _)
    · exact written

theorem endChan (st : Status) (done addr : Nat) (write stop : Bool) : State.StaysOff ch s (s.endChan k st done addr write stop).1 := by
  unfold State.endChan
  dsimp only
  generalize hu : State.setChan s k _ = u
  have begun : State.StaysOff ch s u := hu ▸ onOther s other fun _ => _
  have retired : State.StaysOff ch s ((u.retire k st done).1.onChan k fun c => { c with fetch := c.head }) :=
    (begun.trans (retire small u other st done)).trans (onOther _ other _)
  have finished : State.StaysOff ch s (u.onChan k fun c => { c with finish := some (st, done) }) := begun.trans (onOther u other _)
  have ended : State.StaysOff ch s (if (s.chan k).fetched.isEmpty = true then (u, none)
      else if (!(!(s.chan k).fetched.isEmpty && s.writesOut k) && u.mayRetire k) = true
        then ((u.retire k st done).1.onChan k fun c => { c with fetch := c.head }, (u.retire k st done).2)
      else (u.onChan k fun c => { c with finish := some (st, done) }, none) : State × Option Nat).1 :=
    ite_fst_related (R := State.StaysOff ch) begun (ite_fst_related (R := State.StaysOff ch) retired finished)
  exact ite_related (R := State.StaysOff ch) ended (ended.trans (haltChan _ other _ _ _ _))

end

omit small in
theorem working_of_off {s : State} {ch : Nat} (off : (s.chan ch).state = .disabled) : s.working ch = false := by
  simp [State.working, off]

theorem stopAll (s : State) (k addr : Nat) (write known : Bool) : State.StaysOff ch s (s.stopAll k addr write known) := by
  unfold State.stopAll
  refine State.StaysOff.trans (t := s.onEngine (engineOf k) _) (of_dma rfl) (each (fun u o => ?_) _ _)
  by_cases same : o = ch
  · subst same
    intro off
    exact (congrArg (fun w : State => (w.chan o).state) (if_pos (by simp [working_of_off off]))).trans off
  · refine ite_related (R := State.StaysOff ch) (refl ch u) ?_
    have drawn : State.StaysOff ch u (if (known && o == k) = true then u else { u with fresh := u.fresh + 1 }) :=
      ite_related (R := State.StaysOff ch) (refl ch u) (of_dma rfl)
    exact (ite_related (R := State.StaysOff ch) drawn (drawn.trans (onOther _ same _))).trans (endChan small _ same _ _ _ _ _)

theorem ringBus (s : State) {k : Nat} (other : k ≠ ch) (addr : Nat) (write : Bool) : State.StaysOff ch s (s.ringBus k addr write) := by
  unfold State.ringBus
  exact ite_related (R := State.StaysOff ch) (ite_related (R := State.StaysOff ch) (refl ch s) (stopAll small s _ _ _ _))
    (ite_related (R := State.StaysOff ch) ((onOther s other _).trans (haltChan _ other _ _ _ _)) (refl ch s))

theorem endDesc (s : State) {k : Nat} (other : k ≠ ch) (st : Status) (done addr : Nat) (write stop : Bool) :
    State.StaysOff ch s (s.endDesc k st done addr write stop) := by
  unfold State.endDesc State.reported
  split
  · exact endChan small s other _ _ _ _ _
  · exact (endChan small s other _ _ _ _ _).trans (ringBus small _ other _ _)

theorem devFail (s : State) (k : Nat) (st : Status) (addr : Nat) (write : Bool) : State.StaysOff ch s (s.devFail k st addr write false) := by
  unfold State.devFail State.jobFail
  by_cases same : k = ch
  · subst same
    intro off
    exact (congrArg (fun w : State => (w.chan k).state) (if_pos (by simp [working_of_off off]))).trans off
  · exact ite_related (R := State.StaysOff ch) (refl ch s) (endDesc small s same _ _ _ _ _)

theorem delivered_failed (s : State) (k life addr : Nat) (acc : Access) (st : Status) (bad : st ≠ .ok) :
    State.StaysOff ch s (s.delivered k life addr acc { status := st }) := by
  unfold State.delivered
  refine ite_related (R := State.StaysOff ch) (refl ch s) ?_
  rw [if_pos (by simpa using bad)]
  exact devFail small s _ _ _ _

/-- A request that its link has dropped. -/
theorem dropRequest (s : State) (o : Outstanding) : State.StaysOff ch s (s.dropRequest o) := by
  unfold State.dropRequest State.answered
  refine State.StaysOff.trans ?_ (delivered_failed small _ _ _ _ _ _ (by decide))
  exact ite_related (R := State.StaysOff ch) (onChan s _ fun off => off) (refl ch s)

omit small in
theorem settle (s : State) (n : Nat) : State.StaysOff ch s (s.settle n) := by
  refine of_dma ?_
  unfold State.settle
  exact State.each_keeps (F := State.dma) (fun u b => State.ite_keeps (F := State.dma) (x := u.onEngine b _) rfl rfl) _ _

theorem linkOff (s : State) (n : Nat) (x : LinkState) (cause : Nat) : State.StaysOff ch s (s.linkOff n x cause) := by
  unfold State.linkOff
  dsimp only
  have settled : State.StaysOff ch s (if (s.link n).state == .up then s.settle n else s) :=
    ite_related (R := State.StaysOff ch) (settle s n) (refl ch s)
  have dropped := settled.trans (each (fun u o => State.StaysOff.trans (t := u.onLink n fun k => { k with outstanding := [] }) (of_dma rfl)
    (dropRequest small _ o)) (s.link n).outstanding _)
  generalize State.each _ (s.link n).outstanding _ = d at dropped ⊢
  have cleared {g : List Gather} : State.StaysOff ch s { d.setLink n ((s.link n).cleared x) with gathers := g } := dropped.trans (of_dma rfl)
  exact ite_related (R := State.StaysOff ch) (cleared.trans (of_sansSends (State.event_sansSends ..))) cleared

theorem linksSilent (s : State) (x : LinkState) : State.StaysOff ch s (s.linksSilent x) := by
  unfold State.linksSilent
  exact each (fun u n => ite_related (R := State.StaysOff ch) (refl ch u) (linkOff small u n x 0)) _ _

end
end State.StaysOff
end Sys2Proof.Machine
end

section
/-! SUPPORT. Work ends without a record, half-dies go OFF and links fall silent: what this leaves of the module (R332, R400, R411). -/

namespace Sys2Proof.Machine

/-! ### What outlasts the end of all work -/

/-- What no end of work touches. -/
structure Lasting where
  fuses : Fuses
  trust : Trust
  repair : Repair
  fabricId : Word
  cap : Nat
  power : Power
  smbus : Smbus
  recordDue : Bool

def State.lasting (s : State) : Lasting :=
  ⟨s.fuses, s.trust, s.repair, s.fabricId, s.ledger.cap, s.power, s.smbus, s.recordDue⟩

section
variable (s : State)

theorem State.dropJob_lasting (n : Nat) : (s.dropJob n).lasting = s.lasting := by
  have counted : (s.countCycles n).lasting = s.lasting := by
    unfold State.countCycles
    exact State.each_keeps (F := State.lasting) (g := fun u cl => u.onCluster cl fun c => { c with cyc := (c.cyc + (s.polder n).cycle) % 2 ^ 64 })
      (fun _ _ => rfl) _ s
  have dropped (u : State) (g : Polder → Polder) : (u.onPolder n g).lasting = u.lasting := rfl
  unfold State.dropJob
  dsimp only
  rw [dropped]
  exact State.ite_keeps (F := State.lasting) counted rfl

theorem State.dropJobs_lasting (l : List Nat) : (s.each l State.dropJob).lasting = s.lasting :=
  State.each_keeps (F := State.lasting) (g := State.dropJob) State.dropJob_lasting l s

/-- All jobs, commands and channels of the package end. -/
@[irreducible] def State.jobsDropped (s : State) (ns : List Nat) : State :=
  ((s.discardCommands fun _ => true).each ns State.dropJob).nbDiscard fun _ => true

theorem State.dropWork_eq : ∃ l, s.dropWork = { ((s.jobsDropped (List.range 24)).each l State.disableChan) with
      gates := [], gateChannels := 0, gateEndedJob := false, draining := [] } ∧ l = (s.jobsDropped (List.range 24)).liveChans fun _ => true := by
  unfold State.jobsDropped
  exact ⟨_, rfl, rfl⟩

theorem State.jobsDropped_lasting (ns : List Nat) : (s.jobsDropped ns).lasting = s.lasting := by
  unfold State.jobsDropped
  exact (congrArg State.lasting (State.nbDiscard_sansHalt _ _) :).trans ((State.dropJobs_lasting _ ns).trans
    (s.discardCommands_keeps (F := State.lasting) (fun _ _ _ => rfl) (fun _ _ _ => rfl) fun _ => true))

theorem State.dropWork_lasting : s.dropWork.lasting = s.lasting := by
  obtain ⟨l, run, -⟩ := s.dropWork_eq
  have ended := s.jobsDropped_lasting (List.range 24)
  rw [run]
  generalize s.jobsDropped (List.range 24) = w at ended
  exact (congrArg State.lasting (State.each_keeps (F := State.sansHalt) (fun u ch => u.disableChan_sansHalt ch) l w) :).trans ended

/-- No job of the polders of a list is left. -/
theorem State.jobsDropped_job (ns : List Nat) {n : Nat} (listed : n ∈ ns) : ((s.jobsDropped ns).polder n).job = none := by
  have own (u : State) (k : Nat) : ((u.dropJob k).polder n).job = if k = n then none else (u.polder n).job := by
    have counted : ((if (u.polder k).job.any fun j => j.phase == .running then u.countCycles k else u).polder n).job = (u.polder n).job := by
      refine State.ite_keeps (F := fun v => (v.polder n).job) ?_ rfl
      unfold State.countCycles
      refine (congrArg Polder.job (State.onPolder_polder ..)).trans ?_
      have clusters := State.each_keeps (F := fun v => v.polder)
        (g := fun v cl => v.onCluster cl fun c => { c with cyc := (c.cyc + (u.polder k).cycle) % 2 ^ 64 }) (fun _ _ => rfl) (u.allClusters k) u
      split
      · next same => exact same ▸ congrArg (fun p => (p k).job) clusters
      · exact congrArg (fun p => (p n).job) clusters
    unfold State.dropJob
    dsimp only
    refine (congrArg Polder.job (State.onPolder_polder ..)).trans ?_
    split
    · rfl
    · exact counted
  unfold State.jobsDropped
  have polders := State.nbDiscard_polders ((s.discardCommands fun _ => true).each ns State.dropJob) fun _ => true
  refine (congrArg (fun m => (Sparse.get ({} : Polder) m n).job) polders).trans ?_
  refine State.each_establishes (P := fun u => (u.polder n).job = none) (g := State.dropJob) (fun u => ?_) ns _ (fun u k _ hu => ?_) listed
  · rw [own, if_pos rfl]
  · rw [own, hu, ite_self]

theorem State.dropWork_job {n : Nat} (small : n < 24) : (s.dropWork.polder n).job = none := by
  obtain ⟨l, run, -⟩ := s.dropWork_eq
  have ended := s.jobsDropped_job (List.range 24) (List.mem_range.2 small)
  rw [run]
  generalize s.jobsDropped (List.range 24) = w at ended
  exact (congrArg (fun m => (Sparse.get ({} : Polder) m n).job)
    (State.each_keeps (F := State.polders) (fun u ch => u.disableChan_polders ch) l w)).trans ended

theorem State.dropWork_chan {ch : Nat} (small : ch < 256) : (s.dropWork.chan ch).state = .disabled := by
  obtain ⟨l, run, live⟩ := s.dropWork_eq
  have keep : ∀ w : State, ∀ y ∈ l, (w.chan ch).state = .disabled → ((w.disableChan y).chan ch).state = .disabled := by
    intro w y _ h
    rw [State.disableChan_state, h, ite_self]
  rw [run]
  generalize s.jobsDropped (List.range 24) = w at live
  show ((w.each l State.disableChan).chan ch).state = .disabled
  by_cases off : (w.chan ch).state = .disabled
  · exact State.each_preserves (P := fun w => (w.chan ch).state = .disabled) l w keep off
  · refine State.each_establishes (P := fun w => (w.chan ch).state = .disabled) (x := ch) (fun w => ?_) l w keep ?_
    · rw [State.disableChan_state, if_pos rfl]
    · rw [live]
      exact List.mem_filter.2 ⟨List.mem_range.2 small, by simp [off]⟩

theorem State.resting_lasting (hs ds es : List Nat) : (s.resting hs ds es).lasting = s.lasting :=
  (congrArg State.lasting (s.resting_sansRest hs ds es) :)

theorem workClosed_lasting : WorkClosed fun u v => v.lasting = u.lasting where
  refl _ := rfl
  trans h k := k.trans h
  work h := (congrArg State.lasting h :)
  access u q a acc fl := (congrArg State.lasting (u.access_sansAccess q a acc fl) :)

theorem State.linksSilent_lasting (x : LinkState) : (s.linksSilent x).lasting = s.lasting :=
  workClosed_lasting.linksSilent s (fun h => (congrArg State.lasting h :)) x

end

/-! ### The sag sequence (R400) -/

/-- The sag is recorded, and an entry or an exit in progress has failed. -/
@[irreducible] def State.sagMarked (s : State) (v : Nat) : State :=
  let s := s.countUp cSag
  let s := { s with
    power := { s.power with sagSeen := true, vinMin := v }
    smbus := { s.smbus with vinUv := true } }
  let s := if s.power.entering.isSome || s.power.exiting then
      s.entryAborted ((s.power.entering.map PkgState.code).getD 1) 0xB000 else s
  { s.writeCritical 1 with recordDue := true }

section
variable (s : State) (v : Nat)

theorem State.sagMarked_spec : (s.sagMarked v).power.sagSeen = true ∧ (s.sagMarked v).power.vinMin = v
    ∧ (s.sagMarked v).power.entering = none ∧ (s.sagMarked v).smbus.vinUv = true ∧ (s.sagMarked v).recordDue = true := by
  unfold State.sagMarked
  dsimp only
  split
  · exact ⟨rfl, rfl, rfl, rfl, rfl⟩
  · next idle =>
    simp only [Bool.or_eq_true, not_or, Option.not_isSome_iff_eq_none] at idle
    exact ⟨rfl, rfl, idle.1, rfl, rfl⟩

theorem State.interrupted_outer : (s.interrupted.power, s.interrupted.smbus, s.interrupted.recordDue) = (s.power, s.smbus, s.recordDue) := by
  unfold State.interrupted
  exact State.ite_keeps (F := fun u : State => (u.power, u.smbus, u.recordDue)) rfl rfl

/-- The module as its work has ended and its half-dies are OFF. -/
@[irreducible] def State.sagStopped (s : State) (hs ds es : List Nat) : State := (s.interrupted.dropWork.resting hs ds es).linksSilent .detect

/-- The module holds until its supply is back. -/
def State.sagHeld (s : State) : State :=
  { s with
    power := { s.power with sagHold := true, wake := false }
    pcie := { s.pcie with on := false, up := false, l1 := false } }

theorem State.sagNow_eq : s.sagNow v = ((s.sagMarked v).sagStopped (List.range 24) (List.range 12) (List.range 32)).sagHeld := by
  unfold State.sagNow State.sagMarked State.sagStopped State.resting State.sagHeld
  dsimp only

variable (hs ds es : List Nat)

theorem State.sagStopped_outer : ((s.sagStopped hs ds es).power, (s.sagStopped hs ds es).smbus, (s.sagStopped hs ds es).recordDue)
    = (s.power, s.smbus, s.recordDue) := by
  have begun := s.interrupted_outer
  unfold State.sagStopped
  have last : ((s.interrupted.dropWork.resting hs ds es).linksSilent .detect).lasting = s.interrupted.lasting :=
    (State.linksSilent_lasting _ _).trans ((State.resting_lasting _ hs ds es).trans (State.dropWork_lasting _))
  generalize (s.interrupted.dropWork.resting hs ds es).linksSilent .detect = t at last ⊢
  exact (congrArg (fun x : Lasting => (x.power, x.smbus, x.recordDue)) last :).trans begun

theorem State.sagStopped_work (nodup : hs.Nodup) : (∀ n < 24, ((s.sagStopped hs ds es).polder n).job = none)
    ∧ (∀ ch < 256, ((s.sagStopped hs ds es).chan ch).state = .disabled) ∧ ∀ k ∈ hs, ((s.sagStopped hs ds es).halfDie k).power = .off := by
  unfold State.sagStopped
  have job := fun n (small : n < 24) => s.interrupted.dropWork_job small
  have chan := fun ch (small : ch < 256) => s.interrupted.dropWork_chan small
  generalize s.interrupted.dropWork = d at job chan ⊢
  have rest := d.resting_sansRest hs ds es
  have power := fun k (listed : k ∈ hs) => d.resting_power hs ds es nodup k listed
  generalize d.resting hs ds es = r at rest power ⊢
  have rPolders : r.polders = d.polders := (congrArg State.polders rest :)
  have rDma : r.dma = d.dma := (congrArg State.dma rest :)
  have off := fun ch (small : ch < 256) => State.StaysOff.linksSilent small r .detect
  obtain ⟨polders, halfDies, -, -⟩ := r.linksSilent_wakes .detect
  generalize r.linksSilent .detect = t at off polders halfDies ⊢
  refine ⟨fun n small => ?_, fun ch small => off ch small ?_, fun k listed => ?_⟩
  · exact (congrArg (fun m => (Sparse.get ({} : Polder) m n).job) (polders.trans rPolders)).trans (job n small)
  · exact (congrArg (fun m => (Sparse.get ({} : DmaCh) m ch).state) rDma).trans (chan ch small)
  · exact (congrArg (fun m => (Sparse.get ({} : HalfDie) m k).power) halfDies).trans (power k listed)

/-- The sag sequence ends all work and holds (R400). -/
theorem State.sagNow_spec : (s.sagNow v).power.sagHold = true ∧ (s.sagNow v).power.sagSeen = true ∧ (s.sagNow v).power.vinMin = v
    ∧ (s.sagNow v).power.entering = none ∧ (s.sagNow v).smbus.vinUv = true ∧ (s.sagNow v).pcie.up = false ∧ (s.sagNow v).recordDue = true
    ∧ (∀ n < 24, ((s.sagNow v).polder n).job = none) ∧ (∀ ch < 256, ((s.sagNow v).chan ch).state = .disabled)
    ∧ ∀ k < 24, ((s.sagNow v).halfDie k).power = .off := by
  rw [State.sagNow_eq]
  obtain ⟨seen, vin, entering, uv, due⟩ := s.sagMarked_spec v
  generalize s.sagMarked v = m at seen vin entering uv due ⊢
  have outer := m.sagStopped_outer (List.range 24) (List.range 12) (List.range 32)
  obtain ⟨jobs, chans, halves⟩ := m.sagStopped_work (List.range 24) (List.range 12) (List.range 32) List.nodup_range
  generalize m.sagStopped (List.range 24) (List.range 12) (List.range 32) = t at outer jobs chans halves ⊢
  simp only [Prod.mk.injEq] at outer
  obtain ⟨power, smbus, record⟩ := outer
  exact ⟨rfl, (congrArg Power.sagSeen power :).trans seen, (congrArg Power.vinMin power :).trans vin,
    (congrArg Power.entering power :).trans entering, (congrArg Smbus.vinUv smbus :).trans uv, rfl, record.trans due, jobs, chans,
    fun k small => halves k (List.mem_range.2 small)⟩

variable {s v}

theorem exec_supplySag (on : s.power.aon = true) (awake : s.power.pkg ≠ .p3 ∨ s.power.exiting = true) :
    exec (.supplySag v) s = .next (s.sagNow v) := by
  have start : exec (.supplySag v) s = execSupplySag v s := rfl
  rw [start]
  unfold execSupplySag
  rw [if_neg (by simp [on]), if_neg]
  rcases awake with pkg | exiting
  · simp [pkg]
  · simp [exiting]

end
end Sys2Proof.Machine
end

section
/-! SUPPORT. What the steps of a bring-up leave of the module (R406-R413). -/

namespace Sys2Proof.Machine

/-! ### Training (R206, R213, R227) -/

/-- The module without the state of edge channels and what a training records. -/
def State.sansChannels (s : State) : State :=
  { s with funcs := [], hostMem := [], msixSent := [], log := [], channels := [], basins := [], fresh := 0, repair := {} }

section
variable (s : State)

theorem State.event_sansChannels (p r0 r1 code : Nat) : (s.event p r0 r1 code).sansChannels = s.sansChannels :=
  (congrArg State.sansChannels (s.event_sansSends p r0 r1 code) :)

theorem State.invalidate_sansChannels (e : Nat) : (s.invalidate e).sansChannels = s.sansChannels := by
  unfold State.invalidate
  dsimp only
  refine (State.each_keeps (F := State.sansChannels) (fun u x => ?_) _ _).trans rfl
  split
  · exact State.ite_keeps (F := State.sansChannels) rfl rfl
  · rfl

theorem State.nbAllFail_sansChannels (e : Nat) : (s.nbAllFail e).sansChannels = s.sansChannels :=
  State.each_keeps (F := State.sansChannels) (g := fun u c => u.nbEnd e c .hwError) (fun _ _ => rfl) _ s

theorem State.failChannel_sansChannels (e : Nat) : (s.failChannel e).sansChannels = s.sansChannels := by
  unfold State.failChannel
  dsimp only
  rw [State.event_sansChannels]
  have written (u : State) (l : List RepairEntry) : (u.writeField l).sansChannels = u.sansChannels := rfl
  have failed (u : State) (g : EdgeCh → EdgeCh) : (u.onEdgeCh e g).sansChannels = u.sansChannels := rfl
  rw [written, failed, State.nbAllFail_sansChannels, State.invalidate_sansChannels]

theorem State.recordLines_sansChannels (t : Training) : (s.recordLines t).sansChannels = s.sansChannels := by
  unfold State.recordLines
  exact State.ite_keeps (F := State.sansChannels) rfl rfl

/-- A training before the stacks' own state. -/
theorem State.trainChannels_cases (t : Training) (after : Bool) : ∃ u : State, u.sansChannels = s.sansChannels
    ∧ s.trainChannels t after = u.each (List.range 32) fun v e => v.onStack e fun k =>
      { k with trainedAt := none, dispatch := [], passCorrected := 0 } := by
  unfold State.trainChannels
  dsimp only
  refine ⟨_, ?_, rfl⟩
  refine (State.each_keeps (F := State.sansChannels) (fun u e => u.failChannel_sansChannels e) _ _).trans ?_
  refine (State.recordLines_sansChannels _ t).trans ?_
  refine State.each_keeps (F := State.sansChannels) (fun u e => ?_) _ s
  exact rfl

/-- The module without edge channels, stacks and what a training records. -/
def State.sansEdge (s : State) : State :=
  { s with funcs := [], hostMem := [], msixSent := [], log := [], channels := [], basins := [], fresh := 0, repair := {}, edgeStacks := [] }

theorem State.trainChannels_sansEdge (t : Training) (after : Bool) : (s.trainChannels t after).sansEdge = s.sansEdge := by
  obtain ⟨u, kept, run⟩ := s.trainChannels_cases t after
  rw [run]
  refine (State.each_keeps (F := State.sansEdge) (g := fun v e => v.onStack e fun k =>
    { k with trainedAt := none, dispatch := [], passCorrected := 0 }) (fun _ _ => rfl) _ u).trans ?_
  exact (congrArg State.sansEdge kept :)

theorem State.trainChannels_on (t : Training) (after : Bool) (e : Nat) : ((s.trainChannels t after).stack e).on = (s.stack e).on := by
  obtain ⟨u, kept, run⟩ := s.trainChannels_cases t after
  have stack : (u.stack e).on = (s.stack e).on := (congrArg (fun v : State => (v.stack e).on) kept :)
  rw [run]
  refine (State.each_keeps (F := fun v => (v.stack e).on) (g := fun v e => v.onStack e fun k =>
    { k with trainedAt := none, dispatch := [], passCorrected := 0 }) (fun v k => ?_) _ u).trans stack
  refine (congrArg Stack.on (State.onStack_stack ..)).trans ?_
  split
  · next same => rw [same]
  · rfl

end

/-! ### What a bring-up's steps touch -/

/-- The module without the domains that a bring-up powers, and what it maps and trains. -/
def State.sansPowered (s : State) : State :=
  { s with
    funcs := [], hostMem := [], msixSent := [], log := [], channels := [], basins := [], fresh := 0, repair := {}, edgeStacks := []
    tcores := [], vcores := [], scores := [], clusters := [], halfDies := [], ucmDies := []
    ledger := { s.ledger with rails := [] } }

section
variable (s : State)

/-- The rows of a half-die under a map (R418, R419). -/
def State.setRow (fenced : List Nat) (s : State) (h : Nat) : State :=
  s.onHalfDie h fun x => { x with rows := if fenced.contains (h / 2) then 0 else Machine.rowsOf s.repair.inForce h, fenced := false }

/-- A half-die is IDLE and free, or stays OFF where its die was shut down (R378, R390). -/
def State.idleOne (s : State) (h : Nat) : State :=
  s.onHalfDie h fun x => { x with
    power := if s.dieShut h then .off else .idle
    dikeN := false, dikeE := false, dikeS := false, dikeW := false
    tide := 0, tidePart := 0, markDue := false, step := 0 }

theorem State.setRows_eq : s.setRows = s.each (List.range 24) (State.setRow (culvertFences s.repair.inForce)) := by
  unfold State.setRows State.setRow
  rfl

theorem State.idleAll_eq : s.idleAll = s.each (List.range 24) State.idleOne := by
  unfold State.idleAll State.idleOne
  rfl

theorem State.onHalfDie_sansPowered (h : Nat) (g : HalfDie → HalfDie) : (s.onHalfDie h g).sansPowered = s.sansPowered := rfl

theorem State.setRows_sansPowered : s.setRows.sansPowered = s.sansPowered := by
  rw [State.setRows_eq]
  exact State.each_keeps (F := State.sansPowered) (g := State.setRow _) (fun u h => u.onHalfDie_sansPowered h _) _ s

theorem State.idleAll_sansPowered : s.idleAll.sansPowered = s.sansPowered := by
  rw [State.idleAll_eq]
  exact State.each_keeps (F := State.sansPowered) (g := State.idleOne) (fun u h => u.onHalfDie_sansPowered h _) _ s

theorem State.trainChannels_sansPowered (t : Training) (after : Bool) : (s.trainChannels t after).sansPowered = s.sansPowered := by
  have trained := s.trainChannels_sansEdge t after
  generalize s.trainChannels t after = u at trained ⊢
  exact (congrArg State.sansPowered trained :)

theorem State.storeTraining_sansPowered (t : Training) : (s.storeTraining t).sansPowered = s.sansPowered := rfl

theorem State.eachUcmDie_sansPowered (l : List Nat) (g : State → Nat → UcmDie → UcmDie) :
    (s.each l fun u d => u.onUcmDie d (g u d)).sansPowered = s.sansPowered :=
  State.each_keeps (F := State.sansPowered) (g := fun u d => u.onUcmDie d (g u d)) (fun _ _ => rfl) l s

theorem State.eachStack_sansPowered (l : List Nat) (g : State → Nat → Stack → Stack) :
    (s.each l fun u e => u.onStack e (g u e)).sansPowered = s.sansPowered :=
  State.each_keeps (F := State.sansPowered) (g := fun u e => u.onStack e (g u e)) (fun _ _ => rfl) l s

theorem State.resting_sansPowered (hs ds es : List Nat) : (s.resting hs ds es).sansPowered = s.sansPowered :=
  (congrArg State.sansPowered (s.resting_sansRest hs ds es) :)

theorem State.coldTests_sansPowered (found : List RepairEntry) : (s.coldTests found).sansPowered = s.sansPowered := by
  unfold State.coldTests
  dsimp only
  have mapped (u : State) (m : List RepairEntry) : ({ u with repair := { u.repair with inForce := m } } : State).sansPowered = u.sansPowered := rfl
  rw [mapped]
  exact State.ite_keeps (F := State.sansPowered) rfl rfl

end

end Sys2Proof.Machine
end

section
/-! SUPPORT. Bring-ups from P3 and from a sag: no polder, no work, and what a reset clears (R276, R302, R396, R401, R411). -/

namespace Sys2Proof.Machine

/-! ### Links fall silent where no channel works -/

/-- The module without links, channels, engines, what gathers and what is sent. -/
def State.sansHush (s : State) : State :=
  { s with funcs := [], hostMem := [], msixSent := [], log := [], dma := [], engines := [], gathers := [], fresh := 0, links := [] }

/-- Where every channel is DISABLED they stay so, and nothing but links, channels and what is sent changes. -/
def State.Hushes (u v : State) : Prop :=
  (∀ ch, (u.chan ch).state = .disabled) → v.sansHush = u.sansHush ∧ ∀ ch, (v.chan ch).state = .disabled

namespace State.Hushes

theorem refl (u : State) : u.Hushes u := fun off => ⟨rfl, off⟩

theorem trans {u v w : State} (h : u.Hushes v) (k : v.Hushes w) : u.Hushes w := fun off =>
  have ⟨first, still⟩ := h off
  have ⟨second, last⟩ := k still
  ⟨second.trans first, last⟩

theorem of_dma {u v : State} (h : v.sansHush = u.sansHush) (dma : v.dma = u.dma) : u.Hushes v := fun off =>
  ⟨h, fun ch => (congrArg (fun d => (Sparse.get ({} : DmaCh) d ch).state) dma).trans (off ch)⟩

theorem of_sansSends {u v : State} (h : v.sansSends = u.sansSends) : u.Hushes v :=
  of_dma (congrArg State.sansHush h :) (congrArg State.dma h :)

/-- A request that its link has dropped reaches no channel that works. -/
theorem dropRequest (s : State) (o : Outstanding) : s.Hushes (s.dropRequest o) := by
  have counted (u : State) : u.Hushes (if (u.chan o.ch).life == o.life then u.onChan o.ch fun c => { c with remote := c.remote - 1 } else u) := by
    refine ite_related (R := State.Hushes) (fun off => ⟨rfl, fun ch => ?_⟩) (refl u)
    refine (congrArg DmaCh.state (State.onChan_chan ..)).trans ?_
    split
    · exact off _
    · exact off _
  have idle (u : State) (acc : Access) : u.Hushes (u.delivered o.ch o.life o.addr acc { status := .hwError }) := by
    unfold State.delivered State.devFail
    intro off
    have quiet : u.working o.ch = false := by simp [State.working, off]
    refine ite_related (R := State.Hushes) (refl u) ?_ off
    rw [if_pos (by decide), if_pos (by simp [quiet])]
    exact refl u
  unfold State.dropRequest State.answered
  exact (counted s).trans (idle _ _)

theorem settle (s : State) (n : Nat) : s.Hushes (s.settle n) := by
  have step (u : State) (b : Nat) (g : Engine → Engine) : (u.onEngine b g).sansHush = u.sansHush := rfl
  unfold State.settle
  refine of_dma (State.each_keeps (F := State.sansHush) (fun u b => ?_) _ _) (State.each_keeps (F := State.dma) (fun u b => ?_) _ _)
  · exact State.ite_keeps (F := State.sansHush) (step _ _ _) rfl
  · exact State.ite_keeps (F := State.dma) rfl rfl

theorem linkOff (s : State) (n : Nat) (x : LinkState) (cause : Nat) : s.Hushes (s.linkOff n x cause) := by
  unfold State.linkOff
  dsimp only
  have settled : s.Hushes (if (s.link n).state == .up then s.settle n else s) := ite_related (R := State.Hushes) (settle s n) (refl s)
  have dropped := settled.trans (State.each_related refl trans (fun u o => State.Hushes.trans
    (v := u.onLink n fun k => { k with outstanding := [] }) (of_dma rfl rfl) (dropRequest _ o)) (s.link n).outstanding _)
  generalize State.each _ (s.link n).outstanding _ = d at dropped ⊢
  have cleared {g : List Gather} : s.Hushes { d.setLink n ((s.link n).cleared x) with gathers := g } := dropped.trans (of_dma rfl rfl)
  exact ite_related (R := State.Hushes) (cleared.trans (of_sansSends (State.event_sansSends ..))) cleared

theorem linksSilent (s : State) (x : LinkState) : s.Hushes (s.linksSilent x) := by
  unfold State.linksSilent
  exact State.each_related refl trans (fun u n => ite_related (R := State.Hushes) (refl u) (linkOff u n x 0)) _ _

end State.Hushes

/-! ### A module as a reset leaves it -/

/-- No polder, no work, no mapping and no unlock, in P0, with the fuses as given. -/
structure State.Reset (f : Fuses) (s : State) : Prop where
  pkg : s.power.pkg = .p0
  management : s.power.management = true
  up : s.power.sagHold = false
  still : s.power.exiting = false
  polders : s.polders = []
  idle : ∀ ch, (s.chan ch).state = .disabled
  vfMap : s.vfMap = []
  locked : s.trust.unlocked = false
  fuses : s.fuses = f

/-- What a reset fixes, of a state. -/
def State.resetView (s : State) : (PkgState × Bool × Bool × Bool) × Sparse Polder × Sparse DmaCh × Sparse Nat × Bool × Fuses :=
  ((s.power.pkg, s.power.management, s.power.sagHold, s.power.exiting), s.polders, s.dma, s.vfMap, s.trust.unlocked, s.fuses)

namespace State.Reset

variable {f : Fuses} {s t : State}

theorem of_view (r : s.Reset f) (h : t.resetView = s.resetView) : t.Reset f where
  pkg := (congrArg (fun v => v.1.1) h).trans r.pkg
  management := (congrArg (fun v => v.1.2.1) h).trans r.management
  up := (congrArg (fun v => v.1.2.2.1) h).trans r.up
  still := (congrArg (fun v => v.1.2.2.2) h).trans r.still
  polders := (congrArg (fun v => v.2.1) h).trans r.polders
  idle ch :=
    have dma : t.dma = s.dma := congrArg (fun v => v.2.2.1) h
    (congrArg (fun d => (Sparse.get ({} : DmaCh) d ch).state) dma).trans (r.idle ch)
  vfMap := (congrArg (fun v => v.2.2.2.1) h).trans r.vfMap
  locked := (congrArg (fun v => v.2.2.2.2.1) h).trans r.locked
  fuses := (congrArg (fun v => v.2.2.2.2.2) h).trans r.fuses

theorem of_sansPowered (r : s.Reset f) (h : t.sansPowered = s.sansPowered) : t.Reset f := r.of_view (congrArg State.resetView h :)

theorem linksSilent (r : s.Reset f) (x : LinkState) : (s.linksSilent x).Reset f := by
  obtain ⟨same, idle⟩ := State.Hushes.linksSilent s x r.idle
  generalize s.linksSilent x = t at same idle ⊢
  exact {
    pkg := (congrArg (fun u : State => u.power.pkg) same :).trans r.pkg
    management := (congrArg (fun u : State => u.power.management) same :).trans r.management
    up := (congrArg (fun u : State => u.power.sagHold) same :).trans r.up
    still := (congrArg (fun u : State => u.power.exiting) same :).trans r.still
    polders := (congrArg State.polders same :).trans r.polders
    idle := idle
    vfMap := (congrArg State.vfMap same :).trans r.vfMap
    locked := (congrArg (fun u : State => u.trust.unlocked) same :).trans r.locked
    fuses := (congrArg State.fuses same :).trans r.fuses }

theorem failBringUp (r : s.Reset f) (code unit elapsed : Nat) (warm : Bool) : (s.failBringUp code unit elapsed warm).Reset f where
  pkg := r.pkg
  management := rfl
  up := r.up
  still := r.still
  polders := r.polders
  idle := r.idle
  vfMap := r.vfMap
  locked := r.locked
  fuses := r.fuses

theorem rom (r : s.Reset f) (entropy : List Byte) (flashError : Bool) : (s.rom entropy flashError).Reset f := by
  refine r.of_view ?_
  unfold State.rom
  dsimp only
  split
  · rfl
  · rfl

theorem updateCap_view (s : State) : s.updateCap.resetView = s.resetView := by
  have event (u : State) (p r0 r1 code : Nat) : (u.event p r0 r1 code).resetView = u.resetView :=
    (congrArg State.resetView (u.event_sansSends p r0 r1 code) :)
  unfold State.updateCap
  dsimp only
  refine State.ite_keeps (F := State.resetView) rfl ?_
  refine State.ite_keeps (F := State.resetView) ((event _ _ _ _ _).trans ?_) ?_
  · exact State.ite_keeps (F := State.resetView) rfl rfl
  · exact State.ite_keeps (F := State.resetView) rfl rfl

theorem bringUpDone (r : s.Reset f) (warm : Bool) (elapsed : Nat) : (s.bringUpDone warm elapsed).Reset f :=
  r.of_view ((updateCap_view _).trans rfl)

theorem logTrip (r : s.Reset f) : s.logTrip.Reset f := by
  refine r.of_view ?_
  unfold State.logTrip
  split
  · rfl
  · rfl

theorem coldClear (r : s.Reset f) : s.coldClear.Reset f := r.of_view rfl

end State.Reset
end Sys2Proof.Machine
end

section
/-! Cold and warm bring-ups leave a module as a reset leaves it; the package's power states together (R388-R405, R406-R412). -/

namespace Sys2Proof.Machine

section
variable (s : State)

/-! ### The steps of a bring-up, and what they leave -/

theorem State.coldTrain_sansPowered (t : Training) : (s.coldTrain t).sansPowered = s.sansPowered := by
  unfold State.coldTrain
  dsimp only
  rw [State.storeTraining_sansPowered, State.trainChannels_sansPowered, State.idleAll_sansPowered, State.setRows_sansPowered]
  exact (State.eachStack_sansPowered _ _ fun _ _ x => { x with on := true, selfRefresh := false }).trans
    (State.eachUcmDie_sansPowered _ _ fun u _ x => { x with on := true, selfRefresh := false, lastAccess := u.time.dev })

/-- Spare rows and trainings after the tests of a cold bring-up. -/
theorem State.coldTested_sansPowered (found : List RepairEntry) (t : Training) :
    ((s.coldTests found).setRows.trainChannels t false).sansPowered = s.sansPowered := by
  rw [State.trainChannels_sansPowered, State.setRows_sansPowered, State.coldTests_sansPowered]

variable {f : Fuses} {s}

theorem State.Reset.coldHold (r : s.Reset f) : s.coldHold.Reset f := by
  have held : ({ s with thermal := { s.thermal with coolantHold := true, cause := 1 } } : State).Reset f := r.of_view rfl
  exact (held.of_sansPowered (State.resting_sansPowered _ (List.range 24) (List.range 12) (List.range 32))).linksSilent .down

/-- Cold step 5: the copies of the timestamp, and the map in force. -/
def State.coldBegun (s : State) : State :=
  { s with time := s.time.broadcast, boot := { s.boot with running := true }, repair := { s.repair with inForce := s.mergedMap } }

/-- The training store is complete (R412). -/
def State.trainedNoted (s : State) : State := { s with repair := { s.repair with trained := true } }

/-- Cold steps 9 and 10: tests, spare rows and trainings, and memories cleared. -/
def State.coldTested (s : State) (b : BringUp) : State := ((s.coldTests b.defects).setRows.trainChannels b.training false).coldClear

/-- A cold bring-up after its trainings. -/
def State.coldOn (s : State) (b : BringUp) : State :=
  if !b.coolantMet then s.coldHold
  else b.baseDieFault.elim
    (if b.dieCold || s.trainedNoted.thermal.cold.any (·.2) then s.trainedNoted
      else if (s.trainedNoted.coldTested b).steppingFault then (s.trainedNoted.coldTested b).failBringUp 8 0 b.elapsedMs false
      else (s.trainedNoted.coldTested b).logTrip.bringUpDone false b.elapsedMs)
    fun d => s.trainedNoted.failBringUp 6 d b.elapsedMs false

theorem State.coldRest_eq (s : State) (b : BringUp) : s.coldRest b =
    if b.culvertFault || !(culvertFences s.coldBegun.repair.fused).isEmpty then s.coldBegun.failBringUp 7 0 b.elapsedMs false
    else (s.coldBegun.coldTrain b.training).coldOn b := by
  unfold State.coldRest State.coldOn State.coldTested State.trainedNoted State.coldBegun
  dsimp only
  cases b.baseDieFault with
  | some d => dsimp only [Option.elim]
  | none => dsimp only [Option.elim]

theorem State.coldTested_reset {s : State} (r : s.Reset f) (b : BringUp) : (s.coldTested b).Reset f :=
  (r.of_sansPowered (State.coldTested_sansPowered s b.defects b.training)).coldClear

theorem State.Reset.coldOn (r : s.Reset f) (b : BringUp) : (s.coldOn b).Reset f := by
  have noted : s.trainedNoted.Reset f := r.of_view rfl
  unfold State.coldOn
  split
  · exact r.coldHold
  · cases b.baseDieFault with
    | some d => exact noted.failBringUp _ _ _ _
    | none =>
      dsimp only [Option.elim]
      split
      · exact noted
      · split
        · exact (State.coldTested_reset noted b).failBringUp _ _ _ _
        · exact (State.coldTested_reset noted b).logTrip.bringUpDone _ _

theorem State.Reset.coldRest (r : s.Reset f) (b : BringUp) : (s.coldRest b).Reset f := by
  have begun : s.coldBegun.Reset f := r.of_view rfl
  rw [State.coldRest_eq]
  split
  · exact begun.failBringUp _ _ _ _
  · exact (begun.of_sansPowered (State.coldTrain_sansPowered _ _)).coldOn b

theorem State.Reset.coldFromRom (r : s.Reset f) (b : BringUp) : (s.coldFromRom b).Reset f := by
  unfold State.coldFromRom
  dsimp only
  split
  · exact (r.rom _ _).failBringUp _ _ _ _
  · exact (r.rom _ _).coldRest b

/-! ### Warm bring-ups -/

theorem State.Reset.warmMaps (r : s.Reset f) (t : Training) : (s.warmMaps t).Reset f := by
  have cleared (u : State) (hu : u.Reset f) (sel : Nat → Bool) (w n : Nat) : (u.ucmClearAll sel w n).Reset f := hu.of_view rfl
  have zeroed (u : State) (hu : u.Reset f) (gone : Nat → Nat → Bool) : (u.edgeZero gone).Reset f := hu.of_view rfl
  have mapped (u : State) (hu : u.Reset f) (m : List RepairEntry) :
      (State.trainChannels { u with repair := { u.repair with inForce := m } } t true).Reset f :=
    State.Reset.of_sansPowered (hu.of_view (t := { u with repair := { u.repair with inForce := m } }) rfl) (State.trainChannels_sansPowered _ t true)
  unfold State.warmMaps
  dsimp only
  have trained := mapped _ (cleared s r (fun core => (shiftedColumns s.repair.inForce s.mergedMap).contains (dieOf (clusterOf core), xOf (clusterOf core)))
    0 24576) s.mergedMap
  split
  · exact trained
  · exact zeroed _ trained _

/-- The memories of a warm bring-up are powered, and stay in self-refresh where a shutdown holds them (R401, R412). -/
def State.warmMemories (s : State) : State :=
  let s := s.each (List.range 12) fun s d => s.onUcmDie d fun x => { x with
    on := true, selfRefresh := false, lastAccess := s.time.dev, passCorrected := 0 }
  s.each (List.range 32) fun s e => s.onStack e fun x => { x with on := true, selfRefresh := x.shut }

theorem State.warmMemories_sansPowered (s : State) : s.warmMemories.sansPowered = s.sansPowered :=
  (State.eachStack_sansPowered _ _ fun _ _ x => { x with on := true, selfRefresh := x.shut }).trans
    (State.eachUcmDie_sansPowered _ _ fun u _ x => { x with on := true, selfRefresh := false, lastAccess := u.time.dev, passCorrected := 0 })

/-- Steps 4 to 6 of a warm bring-up. -/
def State.warmTrained (s : State) (t : Training) : State :=
  let s := ((s.warmMaps t).setRows.idleAll).storeTraining t
  State.warmMemories { s with time := s.time.broadcast }

theorem State.warmRest_eq (s : State) (b : BringUp) : s.warmRest b =
    (let s := s.warmTrained b.training
    let s := if s.thermal.coolantHold then (s.resting (List.range 24) (List.range 12) (List.range 32)).linksSilent .down else s
    if s.steppingFault then s.failBringUp 8 0 b.elapsedMs true else s.bringUpDone true b.elapsedMs) := by
  unfold State.warmRest State.warmTrained State.warmMemories State.resting
  rfl

theorem State.Reset.warmTrained (r : s.Reset f) (t : Training) : (s.warmTrained t).Reset f := by
  have mapped : (((s.warmMaps t).setRows.idleAll).storeTraining t).Reset f := (r.warmMaps t).of_sansPowered (by
    rw [State.storeTraining_sansPowered, State.idleAll_sansPowered, State.setRows_sansPowered])
  unfold State.warmTrained
  dsimp only
  generalize ((s.warmMaps t).setRows.idleAll).storeTraining t = u at mapped ⊢
  exact (mapped.of_view (t := { u with time := u.time.broadcast }) rfl).of_sansPowered (State.warmMemories_sansPowered _)

theorem State.Reset.warmRest (r : s.Reset f) (b : BringUp) : (s.warmRest b).Reset f := by
  rw [State.warmRest_eq]
  dsimp only
  have trained := r.warmTrained b.training
  generalize s.warmTrained b.training = t at trained ⊢
  have held : (if t.thermal.coolantHold then (t.resting (List.range 24) (List.range 12) (List.range 32)).linksSilent .down else t).Reset f := by
    split
    · exact (trained.of_sansPowered (State.resting_sansPowered t _ _ _)).linksSilent .down
    · exact trained
  generalize (if t.thermal.coolantHold then (t.resting (List.range 24) (List.range 12) (List.range 32)).linksSilent .down else t) = u at held ⊢
  split
  · exact held.failBringUp _ _ _ _
  · exact held.bringUpDone _ _

/-! ### The stop that a warm bring-up begins with (R411) -/

theorem State.retireAll_lasting (s : State) : s.retireAll.lasting = s.lasting := by
  have retired (u : State) (core w : Nat) : (u.mergeRetire core w []).lasting = u.lasting :=
    (congrArg State.lasting (u.mergeRetire_sansAccess core w []) :)
  have one (u : State) (m : Nat × List MergeEntry) : (u.each m.2 fun v e => v.mergeRetire m.1 e.word []).lasting = u.lasting :=
    State.each_keeps (F := State.lasting) (g := fun v (e : MergeEntry) => v.mergeRetire m.1 e.word []) (fun v e => retired v m.1 e.word) m.2 u
  unfold State.retireAll
  exact State.each_keeps (F := State.lasting) (g := fun u m => u.each m.2 fun v e => v.mergeRetire m.1 e.word []) one s.merges s

theorem State.flushBasin_lasting (s : State) (b : Nat) : (s.flushBasin b).lasting = s.lasting := by
  have emptied (u : State) (g : Basin → Basin) : (u.onBasin b g).lasting = u.lasting := rfl
  unfold State.flushBasin
  dsimp only
  rw [emptied]
  refine State.each_keeps (F := State.lasting) (fun u e => ?_) _ s
  split
  · exact (congrArg State.lasting (u.writeBack_sansAccess _ _ _) :)
  · rfl

/-- The module as its work has ended and its memories are written back. -/
@[irreducible] def State.writtenDown (s : State) (bs : List Nat) : State := s.interrupted.dropWork.retireAll.each bs State.flushBasin

theorem State.writtenDown_lasting (s : State) (bs : List Nat) : (s.writtenDown bs).lasting = s.interrupted.lasting := by
  unfold State.writtenDown
  exact (State.each_keeps (F := State.lasting) (g := State.flushBasin) State.flushBasin_lasting bs _).trans
    ((State.retireAll_lasting _).trans (State.dropWork_lasting _))

theorem State.warmStop_eq (s : State) : s.warmStop = (s.writtenDown (List.range 4)).resting (List.range 24) (List.range 12) (List.range 32) := by
  unfold State.writtenDown
  rfl

theorem State.warmStop_lasting (s : State) : s.warmStop.lasting = s.interrupted.lasting := by
  rw [State.warmStop_eq]
  exact (State.resting_lasting _ _ _ _).trans (s.writtenDown_lasting _)

end
end Sys2Proof.Machine
end

section
/-! The exits from P3 and from a sag, and the package's power states together (R391-R405). -/

namespace Sys2Proof.Machine

section
variable {s : State} {f : Fuses}

theorem State.warmClear_lasting (s : State) : s.warmClear.fuses = s.fuses ∧ s.warmClear.repair.trained = s.repair.trained
    ∧ s.warmClear.fabricId = s.fabricId ∧ s.warmClear.ledger.cap = s.ledger.cap ∧ s.warmClear.trust.flashImage = s.trust.flashImage := by
  have kept := s.linksSilent_lasting .detect
  unfold State.warmClear
  dsimp only
  generalize s.linksSilent .detect = t at kept ⊢
  exact ⟨(congrArg Lasting.fuses kept :), (congrArg (fun x => x.repair.trained) kept :), (congrArg Lasting.fabricId kept :),
    (congrArg Lasting.cap kept :), (congrArg (fun x => x.trust.flashImage) kept :)⟩

theorem State.warmClear_reset (s : State) : s.warmClear.Reset s.fuses where
  pkg := rfl
  management := rfl
  up := rfl
  still := rfl
  polders := rfl
  idle _ := rfl
  vfMap := rfl
  locked := rfl
  fuses := s.warmClear_lasting.1

/-- A warm bring-up where the training store is complete. -/
def State.warmOn (s : State) (b : BringUp) : State :=
  b.railFault.elim
    (if (s.rom b.entropy b.flashError).trust.recovery
      then (s.rom b.entropy b.flashError).failBringUp 4 (s.rom b.entropy b.flashError).boot.unit b.elapsedMs true
      else (s.rom b.entropy b.flashError).warmRest b)
    fun r => s.failBringUp 3 r b.elapsedMs true

/-- A cold bring-up from step 2, with the pins as its row gives them. -/
def State.coldPins (s : State) (b : BringUp) : State :=
  (strapFault b.straps).elim (b.railFault.elim (s.coldFromRom b) fun r => s.failBringUp 3 r b.elapsedMs false)
    fun i => s.failBringUp 1 i b.elapsedMs false

theorem State.warm_eq (s : State) (b : BringUp) : s.warm b =
    if !s.warmStop.warmClear.repair.trained then
      State.coldPins { s.warmStop.warmClear with
        slotPins := b.slotId, smbus := { s.warmStop.warmClear.smbus with slotId := b.slotId % 16 } } b
    else s.warmStop.warmClear.warmOn b := by
  unfold State.warm State.warmOn State.coldPins
  dsimp only
  cases strapFault b.straps with
  | some i => cases b.railFault <;> dsimp only [Option.elim]
  | none => cases b.railFault <;> dsimp only [Option.elim]

theorem State.Reset.warmOn (r : s.Reset f) (b : BringUp) : (s.warmOn b).Reset f := by
  unfold State.warmOn
  cases b.railFault with
  | some d => exact r.failBringUp _ _ _ _
  | none =>
    dsimp only [Option.elim]
    split
    · exact (r.rom _ _).failBringUp _ _ _ _
    · exact (r.rom _ _).warmRest b

theorem State.Reset.coldPins (r : s.Reset f) (b : BringUp) : (s.coldPins b).Reset f := by
  unfold State.coldPins
  cases strapFault b.straps with
  | some i => exact r.failBringUp _ _ _ _
  | none =>
    cases b.railFault with
    | some d => exact r.failBringUp _ _ _ _
    | none => exact r.coldFromRom b

/-- A warm bring-up ends as a reset leaves the module, whatever it meets. -/
theorem State.warm_reset (s : State) (b : BringUp) : (s.warm b).Reset s.interrupted.fuses := by
  have lasting := s.warmStop_lasting
  rw [State.warm_eq]
  generalize s.warmStop = x at lasting ⊢
  have fuses : x.fuses = s.interrupted.fuses := (congrArg Lasting.fuses lasting :)
  have cleared := x.warmClear_reset
  rw [fuses] at cleared
  generalize x.warmClear = w at cleared ⊢
  split
  · exact (cleared.of_view (t := { w with slotPins := b.slotId, smbus := { w.smbus with slotId := b.slotId % 16 } }) rfl).coldPins b
  · exact cleared.warmOn b

/-- What a warm bring-up promises, of the state that it ends in. -/
theorem State.warm_promises (s : State) (b : BringUp) : (s.warm b).power.pkg = .p0 ∧ (s.warm b).power.management = true
    ∧ (s.warm b).power.sagHold = false ∧ (s.warm b).power.exiting = false ∧ (∀ n, ((s.warm b).polder n).state = .none)
    ∧ (∀ ch, ((s.warm b).chan ch).state = .disabled) ∧ (∀ f, (s.warm b).vfPolder f = 31) ∧ (s.warm b).trust.unlocked = false
    ∧ (s.trust.burning = false → (s.warm b).fuses = s.fuses) := by
  have reset := s.warm_reset b
  generalize s.warm b = t at reset ⊢
  refine ⟨reset.pkg, reset.management, reset.up, reset.still, fun n => ?_, reset.idle, fun f => ?_, reset.locked,
    fun calm => reset.fuses.trans (s.interrupted_fuses calm)⟩
  · exact congrArg (fun m => (Sparse.get ({} : Polder) m n).state) reset.polders
  · unfold State.vfPolder
    rw [reset.vfMap]
    exact ite_self 31

theorem exec_p3Exit (b : BringUp) (asleep : s.power.pkg = .p3) (exiting : s.power.exiting = true) (on : s.power.aon = true) :
    exec (.p3Exit b) s = .next (s.warm b) := if_neg (by simp [asleep, exiting, on])

theorem exec_sagRecovery (b : BringUp) (held : s.power.sagHold = true) : exec (.sagRecovery b) s = .next (s.warm b) :=
  if_neg (by simp [held])

end
end Sys2Proof.Machine

open Sys2Proof Sys2Proof.Machine

/-- Settles O52: an entry's refusers are looked at in the order of their codes, its steps switch whole domains, and every way out that
is a warm bring-up ends in a module without polders, work or mappings. -/
theorem packagePowerStates : Obligations.PackagePowerStates := by
  intro s b h v code warm deep aborted
  refine ⟨fun awake running quiet free => exec_p1Entry awake running quiet free, fun dozing => exec_p1Wake dozing,
    fun failing => ⟨fun entering refuses => exec_p2Entry_refused entering refuses failing,
      fun entering refuses => exec_p3Entry_refused entering refuses failing⟩,
    fun entering free => ⟨exec_p2Entry entering free, fun other => ?_, fun supply => ?_⟩,
    fun entering free => ⟨exec_p3Entry entering free, fun other => ?_, fun supply => ?_⟩,
    fun asleep exiting => ⟨exec_p2Exit asleep exiting, exec_p2Exit_failed asleep exiting⟩,
    fun asleep exiting on => ⟨_, exec_p3Exit b asleep exiting on, s.warm_promises b⟩,
    fun held => ⟨_, exec_sagRecovery b held, s.warm_promises b⟩,
    fun wake free up => exec_wakeReplay wake free up, fun idle free => exec_napEntry idle free,
    fun on asleep still up => exec_supplySag_p3 v on asleep still up,
    fun on awake => ⟨_, exec_supplySag on awake, s.sagNow_spec v⟩, exec_lockout⟩
  · exact ⟨_, exec_p2Entry_failed entering free, State.entryFailed_spec .p2 other⟩
  · exact (exec_p2Entry_failed entering free).trans (congrArg Host.Outcome.next (State.entryFailed_supply .p2 supply))
  · exact ⟨_, exec_p3Entry_failed entering free, State.entryFailed_spec .p3 other⟩
  · exact (exec_p3Entry_failed entering free).trans (congrArg Host.Outcome.next (State.entryFailed_supply .p3 supply))
end

section
/-! The boot ROM, fuse burning, debug unlock and die test (R414, R455, R458, R460, R464, R465, R481). -/

namespace Sys2Proof.Machine

section
variable {s : State}

/-! ### The boot ROM (R455) -/

/-- What every start of the ROM sets before it looks at the image. -/
def State.romBegun (s : State) : State := { s with trust := { s.trust with
  bootCount := s.trust.bootCount + 1
  romStarted := true
  romDue := false
  staged := none
  gated := false
  resetDue := false
  burning := false
  running := false
  recovery := false
  manifest := []
  svn := 0
  ifLevel := 0
  akSeed := []
  endorse := []
  mCfg := measure s.trust.flashConfig } }

theorem State.romBegun_romFail (s : State) (err : Bool) : s.romBegun.romFail err = s.romFail err := rfl

theorem State.rom_of_ok {err : Bool} (ok : s.romFail err = none) (entropy : List Byte) :
    s.rom entropy err = s.romBegun.startFirmware s.trust.flashImage entropy true false := by
  have same := s.romBegun_romFail err
  rw [ok] at same
  unfold State.rom
  unfold State.romBegun at same ⊢
  dsimp only
  rw [same]

theorem State.rom_of_fail {err : Bool} {u : Nat} (fails : s.romFail err = some u) (entropy : List Byte) : s.rom entropy err =
    { s.romBegun with trust := { s.romBegun.trust with recovery := true }, boot := { s.romBegun.boot with code := 4, unit := u } } := by
  have same := s.romBegun_romFail err
  rw [fails] at same
  unfold State.rom
  unfold State.romBegun at same ⊢
  dsimp only
  rw [same]

/-- What firmware that the ROM has started stands on. -/
theorem State.rom_started {err : Bool} (ok : s.romFail err = none) (entropy : List Byte) : (s.rom entropy err).trust.running = true
    ∧ (s.rom entropy err).trust.recovery = false ∧ (s.rom entropy err).trust.romDue = false ∧ (s.rom entropy err).trust.committed = true
    ∧ (s.rom entropy err).trust.svn = fwSvn s.trust.flashImage ∧ (s.rom entropy err).trust.bootCount = s.trust.bootCount + 1
    ∧ (s.rom entropy err).trust.staged = none ∧ (s.rom entropy err).trust.burnLeft = s.trust.burnLeft
    ∧ s.rom entropy err = { s with trust := (s.rom entropy err).trust, fresh := (s.rom entropy err).fresh } := by
  rw [State.rom_of_ok ok]
  exact ⟨rfl, rfl, rfl, rfl, rfl, rfl, rfl, rfl, rfl⟩

theorem exec_romStart {err : Bool} (nonce : List Byte) (on : s.power.management = true) (due : s.trust.romDue = true) :
    exec (.romStart nonce err) s = .next (if s.boot.running && (s.rom nonce err).trust.recovery
      then (s.rom nonce err).failBringUp 4 (s.rom nonce err).boot.unit s.bringUpMs s.boot.warm else s.rom nonce err) :=
  if_neg (by simp [on, due])

theorem exec_romStart_ok {err : Bool} (nonce : List Byte) (on : s.power.management = true) (due : s.trust.romDue = true)
    (ok : s.romFail err = none) : Answers (.romStart nonce err) s fun t => t.trust.running = true ∧ t.trust.recovery = false
      ∧ t.trust.romDue = false ∧ t.trust.committed = true ∧ t.trust.svn = fwSvn s.trust.flashImage
      ∧ t.trust.bootCount = s.trust.bootCount + 1 ∧ t.trust.staged = none ∧ t = { s with trust := t.trust, fresh := t.fresh } := by
  obtain ⟨running, recovery, romDue, committed, svn, count, staged, -, rest⟩ := State.rom_started ok nonce
  have ran := exec_romStart (err := err) nonce on due
  rw [if_neg (by simp [recovery])] at ran
  exact ⟨_, ran, running, recovery, romDue, committed, svn, count, staged, rest⟩

theorem exec_romStart_recovery {err : Bool} {u : Nat} (nonce : List Byte) (on : s.power.management = true) (due : s.trust.romDue = true)
    (fails : s.romFail err = some u) : (s.boot.running = false → Answers (.romStart nonce err) s fun t => t.trust.running = false
        ∧ t.trust.recovery = true ∧ t.boot.code = 4 ∧ t.boot.unit = u)
      ∧ (s.boot.running = true → Answers (.romStart nonce err) s fun t => t.boot.failed = true
        ∧ t.trust.recovery = true ∧ t.boot.code = 4 ∧ t.boot.unit = u) := by
  have ran := exec_romStart (err := err) nonce on due
  rw [State.rom_of_fail fails] at ran
  refine ⟨fun idle => ?_, fun busy => ?_⟩
  · rw [if_neg (by simp [idle])] at ran
    exact ⟨_, ran, rfl, rfl, rfl, rfl⟩
  · rw [if_pos (by simp [busy])] at ran
    exact ⟨_, ran, rfl, rfl, rfl, rfl⟩

/-! ### Fuse burning (R460) -/

theorem bit_or (v w k : Nat) : bit (v ||| w) k = (bit v k || bit w k) := by
  simp only [bit_eq_testBit, Nat.testBit_or]

theorem bit_bits_low {k n : Nat} (small : k < n) (v : Nat) : bit (bits v 0 n) k = bit v k := by
  simp [bit_eq_testBit, bits, Nat.testBit_mod_two_pow, small]

theorem exec_fuseBurn (running : s.trust.running = true) (burning : s.trust.burning = true) : Answers .fuseBurn s fun t =>
    let left := s.trust.burnLeft.getD (0, 0)
    t.fuses.svnFloor = max s.fuses.svnFloor (max s.trust.svn left.1)
    ∧ (∀ k < 4, bit t.fuses.revoked k = (bit s.fuses.revoked k || (bit (fwRevoke s.trust.manifest) k || bit left.2 k)))
    ∧ t = { s with
        fuses := { s.fuses with svnFloor := t.fuses.svnFloor, revoked := t.fuses.revoked }
        trust := { s.trust with burning := false, burnLeft := none } } := by
  have start : exec .fuseBurn s = execFuseBurn s := rfl
  refine ⟨_, start.trans (if_neg (by simp [running, burning])), rfl, fun k small => ?_, rfl⟩
  refine (bit_or _ _ _).trans (congrArg _ ?_)
  exact (bit_bits_low small _).trans (bit_or _ _ _)

theorem exec_fuseBurn_idle (idle : s.trust.running = false ∨ s.trust.burning = false) : exec .fuseBurn s = .next s := by
  rcases idle with stopped | calm
  · exact if_pos (by simp [stopped])
  · exact if_pos (by simp [calm])

/-! ### Debug unlock (R464, R465) -/

theorem exec_dbgChallenge {nonce : List Byte} (on : s.power.management = true) (whole : nonce.length = 32) :
    Answers (.dbgChallenge nonce) s fun t => ∃ c, t.trust.challenge = some c
      ∧ c = digest (mldsaPublic s.fuses.seed) ++ nonce ++ leBytes 4 s.trust.bootCount ++ zeros 28 ∧ t.reply = .data c
      ∧ t = { s with reply := t.reply, trust := { s.trust with challenge := some c } } := by
  have start : exec (.dbgChallenge nonce) s = execDbgChallenge nonce s := rfl
  have cut : (nonce ++ zeros 32).take 32 = nonce := by rw [List.take_append_of_le_length (by omega), List.take_of_length_le (by omega)]
  refine ⟨_, start.trans (if_neg (by simp [on])), _, rfl, ?_, rfl, rfl⟩
  rw [cut]

/-- A package floodgate is in progress once it has begun, and firmware's registers are as they were. -/
theorem State.startPackageGate_begun (s : State) (f : Nat) : (s.startPackageGate f).trust = s.trust ∧ (s.startPackageGate f).gates ≠ [] := by
  by_cases free : s.gates = []
  · obtain ⟨trust, busy, -⟩ := s.startPackageGate_of_none f free
    exact ⟨trust, busy⟩
  · have marked := s.fgMark_sansIssuers f 31
    have gates : (s.fgMark f 31).gates = s.gates := (congrArg State.gates marked :)
    have trust : (s.fgMark f 31).trust = s.trust := (congrArg State.trust marked :)
    unfold State.startPackageGate
    dsimp only
    rw [if_pos (by rw [gates]; simpa using free)]
    exact ⟨trust, by simp⟩

/-- The challenge is used up by a response to it. -/
def State.challengeUsed (s : State) : State := { s with trust := { s.trust with challenge := none }, reply := .done }

theorem exec_dbgResponse_good {r : DebugResponse} {c : List Byte} (on : s.power.management = true) (stands : s.trust.challenge = some c)
    (good : s.responseOk c r = true) : Answers (.dbgResponse r) s fun t => t.trust.challenge = none
      ∧ (bit r.scope.toNat 2 = false → bit r.scope.toNat 3 = false → t.trust.unlocked = true
        ∧ t.trust.scope = s.trust.scope ||| r.scope.toNat ∧ t.trust.scopeDue = s.trust.scopeDue)
      ∧ (bit r.scope.toNat 2 = true ∨ bit r.scope.toNat 3 = true → t.gates ≠ [] ∧ t.trust.unlocked = s.trust.unlocked
        ∧ t.trust.scope = s.trust.scope ∧ t.trust.scopeDue = s.trust.scopeDue ||| r.scope.toNat) := by
  have start : exec (.dbgResponse r) s = execDbgResponse r s := rfl
  have ran : exec (.dbgResponse r) s = .next (if bit r.scope.toNat 2 || bit r.scope.toNat 3 then
      { s.challengeUsed.startPackageGate 25 with trust := { (s.challengeUsed.startPackageGate 25).trust with
        scopeDue := (s.challengeUsed.startPackageGate 25).trust.scopeDue ||| r.scope.toNat } }
      else { s.challengeUsed with trust := { s.challengeUsed.trust with
        unlocked := true, scope := s.challengeUsed.trust.scope ||| r.scope.toNat } }) := by
    rw [start]
    unfold execDbgResponse State.challengeUsed
    rw [if_neg (by simp [on]), stands]
    dsimp only
    rw [good, if_neg (by decide), apply_ite Host.Outcome.next]
  obtain ⟨trust, busy⟩ := s.challengeUsed.startPackageGate_begun 25
  refine ⟨_, ran, ?_, fun low2 low3 => ?_, fun high => ?_⟩
  · split
    · exact (congrArg Trust.challenge trust :)
    · rfl
  · rw [if_neg (by simp [low2, low3])]
    exact ⟨rfl, rfl, rfl⟩
  · rw [if_pos (by simpa using high)]
    exact ⟨busy, (congrArg Trust.unlocked trust :), (congrArg Trust.scope trust :), (congrArg (fun x => x.scopeDue ||| r.scope.toNat) trust :)⟩

theorem exec_dbgResponse_bad {r : DebugResponse} (on : s.power.management = true)
    (bad : ∀ c, s.trust.challenge = some c → s.responseOk c r = false) : exec (.dbgResponse r) s = .next
      { s with reply := .done, trust := { s.trust with challenge := none, badResponses := s.trust.badResponses + 1 } } := by
  have start : exec (.dbgResponse r) s = execDbgResponse r s := rfl
  rw [start]
  unfold execDbgResponse
  rw [if_neg (by simp [on])]
  cases stands : s.trust.challenge with
  | none => exact if_pos rfl
  | some c => exact if_pos (by simp [bad c stands])

/-! ### Die test (R414, R481) -/

theorem exec_dieTest (allowed : s.testAllowed = true) : (∀ l, exec (.dieBist l) s = .next { s with
        dieTest := { s.dieTest with defects := l.map fun e => { e with source := 0 } }
        reply := .data ((l.map fun e : RepairEntry => { e with source := 0 }).flatMap repairBytes) })
    ∧ exec .loopback s = .next { s with dieTest := { s.dieTest with looped := true, ports := [] }, reply := .done }
    ∧ ∀ ports, Answers (.trainReport ports) s fun t => t.dieTest.ports = (if s.dieTest.looped then ports else [])
      ∧ t = { s with dieTest := { s.dieTest with ports := t.dieTest.ports }, reply := t.reply } := by
  have tested (run : State → State) : s.byTester run
      = { run { s with pins := { s.pins with trstN := true, shifting := true } } with pins := s.pins } := if_neg (by simp [allowed])
  refine ⟨fun l => ?_, ?_, fun ports => ⟨_, congrArg Host.Outcome.next (tested _), rfl, rfl⟩⟩
  · exact congrArg Host.Outcome.next (tested _)
  · exact congrArg Host.Outcome.next (tested _)

theorem exec_dieTest_denied (denied : s.testAllowed = false) (l : List RepairEntry) (ports : List PortReport) :
    ∀ c ∈ [Instr.dieBist l, .loopback, .trainReport ports], exec c s = .next { s with reply := .none } := by
  have tested (run : State → State) : s.byTester run = { s with reply := .none } := if_pos (by simp [denied])
  intro c hc
  simp only [List.mem_cons, List.not_mem_nil, or_false] at hc
  rcases hc with rfl | rfl | rfl
  · exact congrArg Host.Outcome.next (tested _)
  · exact congrArg Host.Outcome.next (tested _)
  · exact congrArg Host.Outcome.next (tested _)

end
end Sys2Proof.Machine
end

section
/-! SUPPORT. The domains of a cold bring-up, and a cold bring-up that passes every check (R406). -/

namespace Sys2Proof.Machine

section
variable (s : State)

/-! ### What is powered -/

/-- Whether a half-die, a die's memory and a stack are powered. -/
def State.supplies (s : State) (k d e : Nat) : HdState × Bool × Bool := ((s.halfDie k).power, (s.ucmDie d).on, (s.stack e).on)

variable (k d e : Nat)

theorem State.setRows_supplies : s.setRows.supplies k d e = s.supplies k d e := by
  rw [State.setRows_eq]
  refine State.each_keeps (F := fun u => u.supplies k d e) (g := State.setRow _) (fun u h => ?_) _ s
  have power : ((u.setRow (culvertFences s.repair.inForce) h).halfDie k).power = (u.halfDie k).power := by
    refine (congrArg HalfDie.power (State.onHalfDie_halfDie ..)).trans ?_
    split
    · next same => rw [same]
    · rfl
  exact (congrArg (fun p => (p, (u.ucmDie d).on, (u.stack e).on)) power :)

theorem State.trainChannels_supplies (t : Training) (after : Bool) : (s.trainChannels t after).supplies k d e = s.supplies k d e := by
  have edge := s.trainChannels_sansEdge t after
  have on := s.trainChannels_on t after e
  generalize s.trainChannels t after = u at edge on ⊢
  have half : (u.halfDie k).power = (s.halfDie k).power := (congrArg (fun v : State => (v.halfDie k).power) edge :)
  have die : (u.ucmDie d).on = (s.ucmDie d).on := (congrArg (fun v : State => (v.ucmDie d).on) edge :)
  unfold State.supplies
  rw [half, die, on]

theorem State.coldTests_supplies (found : List RepairEntry) : (s.coldTests found).supplies k d e = s.supplies k d e := by
  unfold State.coldTests
  dsimp only
  have mapped (u : State) (m : List RepairEntry) :
      ({ u with repair := { u.repair with inForce := m } } : State).supplies k d e = u.supplies k d e := rfl
  rw [mapped]
  exact State.ite_keeps (F := fun u => u.supplies k d e) rfl rfl

theorem State.coldTested_supplies (b : BringUp) : (s.coldTested b).supplies k d e = s.supplies k d e := by
  have cleared (u : State) : u.coldClear.supplies k d e = u.supplies k d e := rfl
  unfold State.coldTested
  rw [cleared, State.trainChannels_supplies, State.setRows_supplies, State.coldTests_supplies]

/-- A half-die is IDLE where its die is not shut down. -/
theorem State.idleAll_power {s : State} (cool : s.thermal.shut = []) {k : Nat} (small : k < 24) : (s.idleAll.halfDie k).power = .idle := by
  rw [State.idleAll_eq]
  refine (congrArg HalfDie.power (State.each_at_of (P := fun u => u.thermal.shut = []) (V := State.halfDie) (g := State.idleOne)
    (φ := fun _ x => { x with
      power := .idle, dikeN := false, dikeE := false, dikeS := false, dikeW := false, tide := 0, tidePart := 0, markDue := false, step := 0 })
    (fun _ _ hu => hu) (fun u h hu => ?_) (fun u x y other => (State.onHalfDie_halfDie ..).trans (if_neg (Ne.symm other))) (List.range 24) s k cool
    List.nodup_range)).trans ?_
  · have open_ : u.dieShut h = false := by
      unfold State.dieShut
      rw [hu]
      rfl
    unfold State.idleOne
    rw [open_]
    exact (State.onHalfDie_halfDie ..).trans (if_pos rfl)
  · rw [if_pos (List.mem_range.2 small)]

theorem State.idleAll_memories : (s.idleAll.ucmDies, s.idleAll.edgeStacks) = (s.ucmDies, s.edgeStacks) := by
  rw [State.idleAll_eq]
  exact State.each_keeps (F := fun u : State => (u.ucmDies, u.edgeStacks)) (g := State.idleOne) (fun _ _ => rfl) _ s

/-! ### Cold steps 7 and 8 -/

/-- A die's memory is powered. -/
def State.dieUp (s : State) (d : Nat) : State := s.onUcmDie d fun x => { x with on := true, selfRefresh := false, lastAccess := s.time.dev }

/-- A stack is powered. -/
def State.stackUp (s : State) (e : Nat) : State := s.onStack e fun x => { x with on := true, selfRefresh := false }

/-- The memory domains powered. -/
@[irreducible] def State.domainsUp (s : State) (ds es : List Nat) : State := (s.each ds State.dieUp).each es State.stackUp

theorem State.coldTrain_eq (t : Training) : s.coldTrain t
    = ((s.domainsUp (List.range 12) (List.range 32)).setRows.idleAll.trainChannels t false).storeTraining t := by
  unfold State.domainsUp State.coldTrain State.dieUp State.stackUp
  rfl

theorem State.domainsUp_spec (ds es : List Nat) : (s.domainsUp ds es).thermal = s.thermal
    ∧ (∀ d ∈ ds, ((s.domainsUp ds es).ucmDie d).on = true) ∧ ∀ e ∈ es, ((s.domainsUp ds es).stack e).on = true := by
  have thermal (u : State) := State.each_keeps (F := State.thermal) (g := State.stackUp) (fun _ _ => rfl) es u
  have thermal' := State.each_keeps (F := State.thermal) (g := State.dieUp) (fun _ _ => rfl) ds s
  have dies (u : State) := State.each_keeps (F := State.ucmDies) (g := State.stackUp) (fun _ _ => rfl) es u
  unfold State.domainsUp
  refine ⟨(thermal _).trans thermal', fun d hd => ?_, fun e he => ?_⟩
  · refine (congrArg (fun m => (Sparse.get ({} : UcmDie) m d).on) (dies _)).trans ?_
    refine State.each_establishes (P := fun u => (u.ucmDie d).on = true) (g := State.dieUp) (fun u => ?_) ds s (fun u y _ hu => ?_) hd
    · exact congrArg UcmDie.on ((State.onUcmDie_ucmDie ..).trans (if_pos rfl))
    · refine (congrArg UcmDie.on (State.onUcmDie_ucmDie ..)).trans ?_
      split
      · rfl
      · exact hu
  · refine State.each_establishes (P := fun u => (u.stack e).on = true) (g := State.stackUp) (fun u => ?_) es _ (fun u y _ hu => ?_) he
    · exact congrArg Stack.on ((State.onStack_stack ..).trans (if_pos rfl))
    · refine (congrArg Stack.on (State.onStack_stack ..)).trans ?_
      split
      · rfl
      · exact hu

/-- After the trainings half-dies are IDLE and every memory is powered. -/
theorem State.coldTrain_supplies {s : State} (t : Training) (cool : s.thermal = {}) {k d e : Nat} (hk : k < 24) (hd : d < 12) (he : e < 32) :
    (s.coldTrain t).supplies k d e = (.idle, true, true) := by
  obtain ⟨thermal, dies, lit⟩ := s.domainsUp_spec (List.range 12) (List.range 32)
  have stored (u : State) : (u.storeTraining t).supplies k d e = u.supplies k d e := rfl
  rw [State.coldTrain_eq, stored, State.trainChannels_supplies]
  generalize s.domainsUp (List.range 12) (List.range 32) = u at thermal dies lit ⊢
  have rows := u.setRows_supplies k d e
  have rowsThermal : u.setRows.thermal = {} := u.setRows_thermal.trans (thermal.trans cool)
  generalize u.setRows = v at rows rowsThermal ⊢
  have power := State.idleAll_power (s := v) (by rw [rowsThermal]) hk
  have memories := v.idleAll_memories
  generalize v.idleAll = w at power memories ⊢
  have die : (w.ucmDie d).on = true :=
    (congrArg (fun m => (Sparse.get ({} : UcmDie) m.1 d).on) memories :).trans
      ((congrArg (fun x => x.2.1) rows :).trans (dies d (List.mem_range.2 hd)))
  have stack : (w.stack e).on = true :=
    (congrArg (fun m => (Sparse.get ({} : Stack) m.2 e).on) memories :).trans
      ((congrArg (fun x => x.2.2) rows :).trans (lit e (List.mem_range.2 he)))
  unfold State.supplies
  rw [power, die, stack]

end
end Sys2Proof.Machine
end

section
/-! A cold bring-up (R406-R409, R414, R415). -/

namespace Sys2Proof.Machine

section
variable {s : State} {b : BringUp}

theorem exec_coldBringUp (off : s.power.aon = false) (free : s.power.trip = none) (idle : s.boot.running = false) :
    exec (.coldBringUp b) s = .next ((s.coldStart b.slotId).coldPins b) := by
  have start : exec (.coldBringUp b) s = execColdBringUp b s := rfl
  have run : s.cold b = (s.coldStart b.slotId).coldPins b := by
    unfold State.cold State.coldPins
    dsimp only
    cases strapFault b.straps with
    | some i => dsimp only [Option.elim]
    | none => cases b.railFault <;> dsimp only [Option.elim]
  rw [start]
  unfold execColdBringUp
  rw [if_neg (by simp [idle]), if_neg (by simp [off, free]), run]

theorem State.coldPins_strap {i : Nat} (fault : strapFault b.straps = some i) : s.coldPins b = s.failBringUp 1 i b.elapsedMs false := by
  unfold State.coldPins
  rw [fault]
  rfl

theorem State.coldPins_rail {r : Nat} (straps : strapFault b.straps = none) (fault : b.railFault = some r) :
    s.coldPins b = s.failBringUp 3 r b.elapsedMs false := by
  unfold State.coldPins
  rw [straps, fault]
  rfl

/-- Straps, rails, image and culverts pass: the bring-up goes on after its trainings. -/
theorem State.coldPins_on (straps : strapFault b.straps = none) (rails : b.railFault = none) (image : s.romFail b.flashError = none)
    (culverts : b.culvertFault = false) (fences : culvertFences s.repair.fused = []) :
    s.coldPins b = ((s.rom b.entropy b.flashError).coldBegun.coldTrain b.training).coldOn b := by
  obtain ⟨-, recovery, -, -, -, -, -, -, rest⟩ := State.rom_started image b.entropy
  have fused : (s.rom b.entropy b.flashError).coldBegun.repair.fused = s.repair.fused := by
    have same : (s.rom b.entropy b.flashError).repair = s.repair := (congrArg State.repair rest :)
    exact (congrArg Repair.fused same :)
  unfold State.coldPins
  rw [straps, rails]
  dsimp only [Option.elim]
  unfold State.coldFromRom
  dsimp only
  rw [recovery, if_neg (by decide), State.coldRest_eq, fused, culverts, fences]
  rfl

/-! ### The start (R406) -/

theorem State.interrupted_repair (s : State) : s.interrupted.repair = s.repair := by
  unfold State.interrupted
  exact State.ite_keeps (F := State.repair) rfl rfl

theorem State.interrupted_stepping (s : State) : s.interrupted.steppingFault = s.steppingFault := by
  unfold State.interrupted
  exact State.ite_keeps (F := State.steppingFault) rfl rfl

theorem State.coldStart_spec (s : State) (slot : Nat) : (s.coldStart slot).thermal = {} ∧ (s.coldStart slot).boot = { running := true }
    ∧ (s.coldStart slot).polders = [] ∧ (s.coldStart slot).fabricId = 0 ∧ (s.coldStart slot).repair.fused = s.repair.fused
    ∧ (s.coldStart slot).fuses = s.interrupted.fuses
    ∧ ((s.coldStart slot).ledger.cap, (s.coldStart slot).ledger.peak, (s.coldStart slot).ledger.current) = (4800, 6000, 125) :=
  ⟨rfl, rfl, rfl, rfl, (congrArg Repair.fused s.interrupted_repair :), rfl, rfl⟩

theorem State.coldStart_idle (s : State) (slot : Nat) : ∀ ch, ((s.coldStart slot).chan ch).state = .disabled := fun _ => rfl

/-! ### Up to the trainings -/

/-- What a cold bring-up has fixed when its trainings end. -/
structure State.ColdTrained (f : Fuses) (image : Nat) (s : State) : Prop where
  thermal : s.thermal = {}
  running : s.boot.running = true
  open_ : s.boot.done = false
  polders : s.polders = []
  idle : ∀ ch, (s.chan ch).state = .disabled
  fabricId : s.fabricId = 0
  fuses : s.fuses = f
  caps : (s.ledger.cap, s.ledger.peak, s.ledger.current) = (4800, 6000, 125)
  firmware : s.trust.running = true ∧ s.trust.recovery = false ∧ s.trust.committed = true ∧ s.trust.svn = image
  powered : ∀ k < 24, ∀ d < 12, ∀ e < 32, s.supplies k d e = (.idle, true, true)

theorem State.coldTrained (s : State) (b : BringUp) (image : (s.coldStart b.slotId).romFail b.flashError = none) :
    State.ColdTrained s.interrupted.fuses (fwSvn (s.coldStart b.slotId).trust.flashImage)
      (((s.coldStart b.slotId).rom b.entropy b.flashError).coldBegun.coldTrain b.training) := by
  obtain ⟨thermal, boot, polders, fabricId, -, fuses, caps⟩ := s.coldStart_spec b.slotId
  have idle := s.coldStart_idle b.slotId
  generalize s.coldStart b.slotId = c at image thermal boot polders fabricId fuses caps idle ⊢
  obtain ⟨running, recovery, -, committed, svn, -, -, -, rest⟩ := State.rom_started image b.entropy
  generalize c.rom b.entropy b.flashError = r at running recovery committed svn rest ⊢
  have cold : r.coldBegun.thermal = {} := (congrArg State.thermal rest :).trans thermal
  have bootR : r.boot = { running := true } := (congrArg State.boot rest :).trans boot
  have powered := fun k hk d hd e he => State.coldTrain_supplies (s := r.coldBegun) b.training cold (k := k) (d := d) (e := e) hk hd he
  have kept := r.coldBegun.coldTrain_sansPowered b.training
  have same := r.coldBegun.coldTrain_thermal b.training
  generalize r.coldBegun.coldTrain b.training = u at powered kept same ⊢
  have dma : u.dma = c.dma := (congrArg State.dma kept :).trans (congrArg State.dma rest :)
  exact {
    thermal := same.trans cold
    running := (congrArg (fun v : State => v.boot.running) kept :)
    open_ := (congrArg (fun v : State => v.boot.done) kept :).trans (congrArg Boot.done bootR)
    polders := (congrArg State.polders kept :).trans ((congrArg State.polders rest :).trans polders)
    idle := fun ch => (congrArg (fun m => (Sparse.get ({} : DmaCh) m ch).state) dma).trans (idle ch)
    fabricId := (congrArg State.fabricId kept :).trans ((congrArg State.fabricId rest :).trans fabricId)
    fuses := (congrArg State.fuses kept :).trans ((congrArg State.fuses rest :).trans fuses)
    caps := (congrArg (fun v : State => (v.ledger.cap, v.ledger.peak, v.ledger.current)) kept :).trans
      ((congrArg (fun v : State => (v.ledger.cap, v.ledger.peak, v.ledger.current)) rest :).trans caps)
    firmware := ⟨(congrArg (fun v : State => v.trust.running) kept :).trans running,
      (congrArg (fun v : State => v.trust.recovery) kept :).trans recovery,
      (congrArg (fun v : State => v.trust.committed) kept :).trans committed, (congrArg (fun v : State => v.trust.svn) kept :).trans svn⟩
    powered := powered }

/-! ### How it goes on -/

variable {f : Fuses} {n : Nat}

/-- Without coolant it holds, its half-dies OFF and its memories in self-refresh (R384). -/
theorem State.ColdTrained.held (c : s.ColdTrained f n) (dry : b.coolantMet = false) : (s.coldOn b).boot.running = true
    ∧ (s.coldOn b).thermal.coolantHold = true ∧ (∀ h < 24, ((s.coldOn b).halfDie h).power = .off)
    ∧ ∀ d < 12, ((s.coldOn b).ucmDie d).selfRefresh = true := by
  have on : s.coldOn b = s.coldHold := if_pos (by simp [dry])
  rw [on]
  have thermal := s.coldHold_thermal
  have run : s.coldHold = (State.resting { s with thermal := { s.thermal with coolantHold := true, cause := 1 } } (List.range 24) (List.range 12)
      (List.range 32)).linksSilent .down := rfl
  generalize hv : ({ s with thermal := { s.thermal with coolantHold := true, cause := 1 } } : State) = v at run
  have vDie (d : Nat) (small : d < 12) : (v.ucmDie d).on = true :=
    (congrArg (fun w : State => (w.ucmDie d).on) hv.symm :).trans (congrArg (fun x => x.2.1) (c.powered 0 (by omega) d small 0 (by omega)))
  have vBoot : v.boot = s.boot := (congrArg State.boot hv.symm :)
  have vDma : v.dma = s.dma := (congrArg State.dma hv.symm :)
  have kept := v.resting_sansRest (List.range 24) (List.range 12) (List.range 32)
  have power := fun k (small : k < 24) => v.resting_power (List.range 24) (List.range 12) (List.range 32) List.nodup_range k (List.mem_range.2 small)
  have die := fun d (small : d < 12) => v.resting_ucmDie (List.range 24) (List.range 12) (List.range 32) List.nodup_range d (List.mem_range.2 small)
  generalize v.resting (List.range 24) (List.range 12) (List.range 32) = w at run kept power die
  have wDma : w.dma = s.dma := (congrArg State.dma kept :).trans vDma
  obtain ⟨hush, -⟩ := State.Hushes.linksSilent w .down fun ch => (congrArg (fun m => (Sparse.get ({} : DmaCh) m ch).state) wDma).trans (c.idle ch)
  rw [run] at thermal ⊢
  generalize w.linksSilent .down = t at thermal hush ⊢
  refine ⟨?_, ?_, fun k small => (congrArg (fun x : State => (x.halfDie k).power) hush :).trans (power k small), fun d small => ?_⟩
  · have boot : t.boot = v.boot := (congrArg State.boot hush :).trans (congrArg State.boot kept :)
    rw [boot, vBoot]
    exact c.running
  · rw [thermal]
  · have tDie : (t.ucmDie d).selfRefresh = (w.ucmDie d).selfRefresh := (congrArg (fun x : State => (x.ucmDie d).selfRefresh) hush :)
    rw [tDie, die d small, if_pos (vDie d small)]

/-- A cold die delays it (R407). -/
theorem State.coldOn_delayed (wet : b.coolantMet = true) (base : b.baseDieFault = none) (cold : b.dieCold = true) :
    s.coldOn b = s.trainedNoted := by
  unfold State.coldOn
  rw [wet, base, if_neg (by decide)]
  exact if_pos (by simp [cold])

theorem State.ColdTrained.goes_on (c : s.ColdTrained f n) (wet : b.coolantMet = true) (base : b.baseDieFault = none) (warm : b.dieCold = false)
    (steppings : (s.trainedNoted.coldTested b).steppingFault = false) :
    s.coldOn b = (s.trainedNoted.coldTested b).logTrip.bringUpDone false b.elapsedMs := by
  have calm : s.trainedNoted.thermal.cold.any (·.2) = false := by
    have thermal : s.trainedNoted.thermal = {} := c.thermal
    rw [thermal]
    rfl
  unfold State.coldOn
  rw [wet, base, if_neg (by decide)]
  dsimp only [Option.elim]
  rw [warm, calm, steppings, if_neg (by decide), if_neg (by decide)]

/-! ### How it ends -/

/-- The module without what a latched trip leaves. -/
def State.sansTrip (s : State) : State := { s with power := {}, smbus := {}, log := [] }

theorem State.logTrip_sansTrip (s : State) : s.logTrip.sansTrip = s.sansTrip := by
  unfold State.logTrip
  split
  · rfl
  · rfl

/-- Firmware burns where the image stands above the floor, or a burn was interrupted (R460). -/
def State.Burns (t : State) : Prop := t.trust.burning = true ↔ t.fuses.svnFloor < t.trust.svn ∨ t.trust.burnLeft ≠ none

/-- The end of a bring-up, before the cap is formed. -/
def State.bootDone (s : State) (warm : Bool) (elapsed : Nat) : State := { s with
  trust := { s.trust with
    steppings := true
    burning := s.trust.committed && !s.trust.recovery && (decide (s.fuses.svnFloor < s.trust.svn) || s.trust.burnLeft.isSome) }
  boot := { done := true, warm := warm, elapsedMs := elapsed } }

theorem State.bringUpDone_sansCap (s : State) (warm : Bool) (elapsed : Nat) : (s.bringUpDone warm elapsed).sansCap = (s.bootDone warm elapsed).sansCap :=
  State.updateCap_sansCap _

theorem State.bringUpDone_boot (s : State) (warm : Bool) (elapsed : Nat) :
    (s.bringUpDone warm elapsed).boot = { done := true, warm := warm, elapsedMs := elapsed } := by
  have kept := s.bringUpDone_sansCap warm elapsed
  generalize s.bringUpDone warm elapsed = t at kept ⊢
  exact (congrArg State.boot kept :)

theorem State.bringUpDone_burns (s : State) (warm : Bool) (elapsed : Nat) (recovered : s.trust.recovery = false)
    (committed : s.trust.committed = true) : (s.bringUpDone warm elapsed).Burns := by
  have kept := s.bringUpDone_sansCap warm elapsed
  generalize s.bringUpDone warm elapsed = t at kept ⊢
  have fuses : t.fuses = s.fuses := (congrArg State.fuses kept :)
  have trust : t.trust = (s.bootDone warm elapsed).trust := (congrArg State.trust kept :)
  unfold State.Burns
  rw [fuses, trust]
  simp [State.bootDone, recovered, committed, Option.isSome_iff_ne_none]

/-- What a cold bring-up that passes every check promises. -/
theorem State.ColdTrained.ends (c : s.ColdTrained f n) (b : BringUp) : ∃ t, (s.trainedNoted.coldTested b).logTrip.bringUpDone false b.elapsedMs = t
    ∧ t.boot.done = true ∧ t.boot.failed = false ∧ t.boot.warm = false ∧ t.trust.running = true
    ∧ (∀ h < 24, (t.halfDie h).power = .idle) ∧ (∀ d < 12, (t.ucmDie d).on = true) ∧ (∀ e < 32, (t.stack e).on = true)
    ∧ t.ucm = [] ∧ t.edge = [] ∧ t.intlvPkg = true ∧ (∀ k < 4, (t.basin k).cacheSteps = 8) ∧ (∀ n, (t.polder n).state = .none)
    ∧ t.ledger.cap = 4800 ∧ t.ledger.peak = 6000 ∧ t.ledger.current = 125 ∧ t.fabricId = 0 ∧ t.fuses = f ∧ t.Burns := by
  have tested := s.trainedNoted.coldTested_sansPowered b.defects b.training
  have supplies := fun k d e => s.trainedNoted.coldTested_supplies k d e b
  have run : s.trainedNoted.coldTested b = ((s.trainedNoted.coldTests b.defects).setRows.trainChannels b.training false).coldClear := rfl
  generalize ((s.trainedNoted.coldTests b.defects).setRows.trainChannels b.training false) = p at tested run
  rw [run] at supplies ⊢
  have trip := p.coldClear.logTrip_sansTrip
  generalize p.coldClear.logTrip = y at trip ⊢
  have trust : y.trust = s.trust := (congrArg State.trust trip :).trans (congrArg State.trust tested :)
  obtain ⟨running, recovery, committed, -⟩ := c.firmware
  have burns := y.bringUpDone_burns false b.elapsedMs (by rw [trust]; exact recovery) (by rw [trust]; exact committed)
  have boot := y.bringUpDone_boot false b.elapsedMs
  have kept := y.bringUpDone_sansCap false b.elapsedMs
  generalize y.bringUpDone false b.elapsedMs = t at burns boot kept ⊢
  have powered (k d e : Nat) : t.supplies k d e = s.supplies k d e :=
    (congrArg (fun v : State => v.supplies k d e) kept :).trans ((congrArg (fun v : State => v.supplies k d e) trip :).trans (supplies k d e))
  have basins : t.basins = p.coldClear.basins := (congrArg State.basins kept :).trans (congrArg State.basins trip :)
  have caps : (t.ledger.cap, t.ledger.peak, t.ledger.current) = (4800, 6000, 125) :=
    (congrArg (fun v : State => (v.ledger.cap, v.ledger.peak, v.ledger.current)) kept :).trans
      ((congrArg (fun v : State => (v.ledger.cap, v.ledger.peak, v.ledger.current)) trip :).trans
        ((congrArg (fun v : State => (v.ledger.cap, v.ledger.peak, v.ledger.current)) tested :).trans c.caps))
  have polders : t.polders = [] := (congrArg State.polders kept :).trans ((congrArg State.polders trip :).trans
    ((congrArg State.polders tested :).trans c.polders))
  refine ⟨t, rfl, by rw [boot], by rw [boot], by rw [boot], ?_, fun k small => ?_, fun d small => ?_, fun e small => ?_, ?_, ?_, ?_,
    fun k _ => ?_, fun m => congrArg (fun l => (Sparse.get ({} : Polder) l m).state) polders, congrArg Prod.fst caps,
    congrArg (fun x => x.2.1) caps, congrArg (fun x => x.2.2) caps, ?_, ?_, burns⟩
  · have same : t.trust.running = y.trust.running := (congrArg (fun v : State => v.trust.running) kept :)
    rw [same, trust]
    exact running
  · exact (congrArg Prod.fst (powered k 0 0) :).trans (congrArg Prod.fst (c.powered k small 0 (by omega) 0 (by omega)))
  · exact (congrArg (fun x => x.2.1) (powered 0 d 0) :).trans (congrArg (fun x => x.2.1) (c.powered 0 (by omega) d small 0 (by omega)))
  · exact (congrArg (fun x => x.2.2) (powered 0 0 e) :).trans (congrArg (fun x => x.2.2) (c.powered 0 (by omega) 0 (by omega) e small))
  · exact (congrArg State.ucm kept :).trans ((congrArg State.ucm trip :).trans rfl)
  · exact (congrArg State.edge kept :).trans ((congrArg State.edge trip :).trans rfl)
  · exact (congrArg State.intlvPkg kept :).trans ((congrArg State.intlvPkg trip :).trans rfl)
  · refine (congrArg (fun m => (Sparse.get ({} : Basin) m k).cacheSteps) basins).trans ?_
    exact congrArg Basin.cacheSteps ((Sparse.get_mapWhere ({} : Basin) (fun _ => true) (fun _ => {}) rfl p.basins k).trans (if_pos rfl))
  · exact (congrArg State.fabricId kept :).trans ((congrArg State.fabricId trip :).trans ((congrArg State.fabricId tested :).trans c.fabricId))
  · exact (congrArg State.fuses kept :).trans ((congrArg State.fuses trip :).trans ((congrArg State.fuses tested :).trans c.fuses))

end
end Sys2Proof.Machine
end

section
/-! A warm bring-up, and bring-ups, the boot ROM and trust together (R410-R412, R455-R466). -/

namespace Sys2Proof.Machine

section
variable {s : State} {b : BringUp}

theorem State.steppingFault_of_fuses {s t : State} (h : t.fuses = s.fuses) : t.steppingFault = s.steppingFault := by
  unfold State.steppingFault
  rw [h]

theorem State.romFail_of_image {s t : State} (fuses : t.fuses = s.fuses) (image : t.trust.flashImage = s.trust.flashImage) (err : Bool) :
    t.romFail err = s.romFail err := by
  unfold State.romFail State.fwKeyBad
  rw [fuses, image]

/-! ### What a warm bring-up keeps (R411) -/

/-- What the steps of a warm bring-up after the ROM keep. -/
def State.warmView (s : State) : Trust × Fuses × Word × Nat × Sparse Nat := (s.trust, s.fuses, s.fabricId, s.ledger.cap, s.ledger.quotas)

theorem State.warmMaps_view (s : State) (t : Training) : (s.warmMaps t).warmView = s.warmView := by
  have cleared (u : State) (sel : Nat → Bool) (w n : Nat) : (u.ucmClearAll sel w n).warmView = u.warmView := rfl
  have zeroed (u : State) (gone : Nat → Nat → Bool) : (u.edgeZero gone).warmView = u.warmView := rfl
  have mapped (u : State) (m : List RepairEntry) :
      (State.trainChannels { u with repair := { u.repair with inForce := m } } t true).warmView = u.warmView := by
    have trained := State.trainChannels_sansPowered { u with repair := { u.repair with inForce := m } } t true
    generalize State.trainChannels { u with repair := { u.repair with inForce := m } } t true = v at trained ⊢
    exact (congrArg State.warmView trained :)
  unfold State.warmMaps
  dsimp only
  exact State.ite_keeps (F := State.warmView) ((mapped _ _).trans (cleared _ _ _ _)) ((zeroed _ _).trans ((mapped _ _).trans (cleared _ _ _ _)))

theorem State.warmTrained_view (s : State) (t : Training) : (s.warmTrained t).warmView = s.warmView := by
  have broadcast (u : State) : ({ u with time := u.time.broadcast } : State).warmView = u.warmView := rfl
  have powered (u : State) : u.warmMemories.warmView = u.warmView := by
    have lit := u.warmMemories_sansPowered
    generalize u.warmMemories = v at lit ⊢
    exact (congrArg State.warmView lit :)
  have rows (u : State) : ((u.setRows.idleAll).storeTraining t).warmView = u.warmView := by
    have same : ((u.setRows.idleAll).storeTraining t).sansPowered = u.sansPowered := by
      rw [State.storeTraining_sansPowered, State.idleAll_sansPowered, State.setRows_sansPowered]
    generalize (u.setRows.idleAll).storeTraining t = v at same ⊢
    exact (congrArg State.warmView same :)
  unfold State.warmTrained
  dsimp only
  rw [powered, broadcast, rows, State.warmMaps_view]

/-- In COOLANT_HOLD the module holds again at once (R384). -/
def State.warmHeld (s : State) : State :=
  if s.thermal.coolantHold then (s.resting (List.range 24) (List.range 12) (List.range 32)).linksSilent .down else s

theorem State.warmHeld_view (idle : ∀ ch, (s.chan ch).state = .disabled) : s.warmHeld.warmView = s.warmView := by
  unfold State.warmHeld
  refine State.ite_keeps (F := State.warmView) ?_ rfl
  have kept := s.resting_sansRest (List.range 24) (List.range 12) (List.range 32)
  generalize s.resting (List.range 24) (List.range 12) (List.range 32) = w at kept ⊢
  have dma : w.dma = s.dma := (congrArg State.dma kept :)
  obtain ⟨hush, -⟩ := State.Hushes.linksSilent w .down fun ch => (congrArg (fun m => (Sparse.get ({} : DmaCh) m ch).state) dma).trans (idle ch)
  generalize w.linksSilent .down = t at hush ⊢
  exact (congrArg State.warmView hush :).trans (congrArg State.warmView kept :)

/-- A warm bring-up whose rails, image and steppings pass ends done. -/
theorem State.warmRest_done {f : Fuses} (r : s.Reset f) (steppings : s.steppingFault = false) :
    ∃ u : State, s.warmRest b = u.bringUpDone true b.elapsedMs ∧ u.warmView = s.warmView := by
  have view : (s.warmTrained b.training).warmHeld.warmView = s.warmView :=
    (State.warmHeld_view (r.warmTrained b.training).idle).trans (s.warmTrained_view b.training)
  have run : s.warmRest b = if (s.warmTrained b.training).warmHeld.steppingFault
      then (s.warmTrained b.training).warmHeld.failBringUp 8 0 b.elapsedMs true
      else (s.warmTrained b.training).warmHeld.bringUpDone true b.elapsedMs := by
    rw [State.warmRest_eq]
    rfl
  generalize (s.warmTrained b.training).warmHeld = u at view run
  refine ⟨u, run.trans (if_neg ?_), view⟩
  rw [State.steppingFault_of_fuses (congrArg (fun v => v.2.1) view : u.fuses = s.fuses), steppings]
  decide

theorem exec_warmBringUp (on : s.power.aon = true) (awake : s.power.pkg ≠ .p3) (up : s.power.sagHold = false) (idle : s.boot.running = false) :
    exec (.warmBringUp b) s = .next (s.warm b) := if_neg (by simp [on, awake, up, idle])

theorem State.interrupted_caps (s : State) : (s.interrupted.fabricId, s.interrupted.ledger.cap) = (s.fabricId, s.ledger.cap) := by
  unfold State.interrupted
  exact State.ite_keeps (F := fun u : State => (u.fabricId, u.ledger.cap)) rfl rfl

/-- What the stop and the clearing of a warm bring-up keep. -/
theorem State.warmCleared (s : State) : s.warmStop.warmClear.Reset s.interrupted.fuses
    ∧ s.warmStop.warmClear.repair.trained = s.repair.trained
    ∧ s.warmStop.warmClear.fabricId = s.fabricId ∧ s.warmStop.warmClear.ledger.cap = s.ledger.cap
    ∧ s.warmStop.warmClear.ledger.quotas = [] ∧ s.warmStop.warmClear.trust.flashImage = s.interrupted.trust.flashImage := by
  have lasting := s.warmStop_lasting
  generalize s.warmStop = x at lasting ⊢
  obtain ⟨-, trained, fabricId, cap, image⟩ := x.warmClear_lasting
  have reset := x.warmClear_reset
  have quotas : x.warmClear.ledger.quotas = [] := rfl
  have fuses : x.fuses = s.interrupted.fuses := (congrArg Lasting.fuses lasting :)
  have repair : x.repair = s.interrupted.repair := (congrArg Lasting.repair lasting :)
  have trust : x.trust = s.interrupted.trust := (congrArg Lasting.trust lasting :)
  have id : x.fabricId = s.interrupted.fabricId := (congrArg Lasting.fabricId lasting :)
  have caps : x.ledger.cap = s.interrupted.ledger.cap := (congrArg Lasting.cap lasting :)
  rw [fuses] at reset
  refine ⟨reset, ?_, ?_, ?_, quotas, ?_⟩
  · rw [trained, repair, s.interrupted_repair]
  · rw [fabricId, id]
    exact congrArg Prod.fst s.interrupted_caps
  · rw [cap, caps]
    exact congrArg Prod.snd s.interrupted_caps
  · rw [image, trust]

theorem exec_warmBringUp_done (on : s.power.aon = true) (awake : s.power.pkg ≠ .p3) (up : s.power.sagHold = false)
    (idle : s.boot.running = false) (trained : s.repair.trained = true) (rails : b.railFault = none)
    (image : s.interrupted.romFail b.flashError = none) (steppings : s.steppingFault = false) : Answers (.warmBringUp b) s fun t =>
      t.boot.done = true ∧ t.boot.warm = true ∧ t.trust.running = true ∧ (∀ n, (t.polder n).state = .none)
        ∧ (∀ ch, (t.chan ch).state = .disabled) ∧ (∀ n, Sparse.get 0 t.ledger.quotas n = 0) ∧ t.ledger.cap = s.ledger.cap
        ∧ t.fabricId = s.fabricId ∧ t.Burns := by
  obtain ⟨-, -, -, -, polders, idleChans, -, -, -⟩ := s.warm_promises b
  have ran := exec_warmBringUp (b := b) on awake up idle
  obtain ⟨reset, trained', fabricId, cap, quotas, flash⟩ := s.warmCleared
  have run := s.warm_eq b
  generalize s.warmStop.warmClear = w at reset trained' fabricId cap quotas flash run
  rw [trained', trained, if_neg (by decide)] at run
  have passes : w.romFail b.flashError = none := (State.romFail_of_image reset.fuses flash b.flashError).trans image
  obtain ⟨running, recovery, -, committed, -, -, -, -, rest⟩ := State.rom_started passes b.entropy
  have begun := reset.rom b.entropy b.flashError
  have on_ : w.warmOn b = (w.rom b.entropy b.flashError).warmRest b := by
    unfold State.warmOn
    rw [rails]
    dsimp only [Option.elim]
    rw [recovery, if_neg (by decide)]
  generalize w.rom b.entropy b.flashError = r at running recovery committed rest begun on_
  have steps : r.steppingFault = false :=
    (State.steppingFault_of_fuses begun.fuses).trans (s.interrupted_stepping.trans steppings)
  obtain ⟨u, done, view⟩ := State.warmRest_done (b := b) begun steps
  rw [run, on_, done] at ran polders idleChans
  have trust : u.trust = r.trust := congrArg Prod.fst view
  have boot := u.bringUpDone_boot true b.elapsedMs
  have burns := u.bringUpDone_burns true b.elapsedMs (by rw [trust]; exact recovery) (by rw [trust]; exact committed)
  have kept := u.bringUpDone_sansCap true b.elapsedMs
  refine ⟨_, ran, ?_⟩
  generalize u.bringUpDone true b.elapsedMs = t at polders idleChans boot burns kept ⊢
  have tRunning : t.trust.running = u.trust.running := (congrArg (fun v : State => v.trust.running) kept :)
  have tQuotas : t.ledger.quotas = u.ledger.quotas := (congrArg (fun v : State => v.ledger.quotas) kept :)
  have tCap : t.ledger.cap = u.ledger.cap := (congrArg (fun v : State => v.ledger.cap) kept :)
  have tId : t.fabricId = u.fabricId := (congrArg State.fabricId kept :)
  have uQuotas : u.ledger.quotas = r.ledger.quotas := congrArg (fun v => v.2.2.2.2) view
  have uCap : u.ledger.cap = r.ledger.cap := congrArg (fun v => v.2.2.2.1) view
  have uId : u.fabricId = r.fabricId := congrArg (fun v => v.2.2.1) view
  have rLedger : r.ledger = w.ledger := (congrArg State.ledger rest :)
  have rId : r.fabricId = w.fabricId := (congrArg State.fabricId rest :)
  refine ⟨by rw [boot], by rw [boot], ?_, polders, idleChans, fun n => ?_, ?_, ?_, burns⟩
  · rw [tRunning, trust]
    exact running
  · rw [tQuotas, uQuotas, rLedger, quotas]
    rfl
  · rw [tCap, uCap, rLedger, cap]
  · rw [tId, uId, rId, fabricId]

end
end Sys2Proof.Machine

open Sys2Proof Sys2Proof.Machine

/-- Settles O53: each step of a bring-up touches only the domains it powers, so what an early step fixes stands at the end; ROM, burning,
unlock and die test are each one record. -/
theorem bringUpRomAndTrust : Obligations.BringUpRomAndTrust := by
  intro s b nonce err burns
  refine ⟨fun off free idle => ?_, fun on awake up idle trained rails image steppings =>
      exec_warmBringUp_done on awake up idle trained rails image steppings,
    fun on due => ⟨exec_romStart_ok nonce on due, fun u fails => (exec_romStart_recovery nonce on due fails).1,
      fun u fails => (exec_romStart_recovery nonce on due fails).2⟩,
    exec_fuseBurn, exec_fuseBurn_idle, exec_dbgChallenge,
    fun r on => ⟨fun c stands good => exec_dbgResponse_good on stands good, exec_dbgResponse_bad on⟩, rfl, exec_dieTest,
    fun denied l ports => exec_dieTest_denied denied l ports⟩
  have ran := exec_coldBringUp (b := b) off free idle
  refine ⟨fun i fault => ?_, fun r straps fault => ?_, fun straps rails image culverts fences => ?_, ?_⟩
  · exact ⟨_, ran.trans (congrArg Host.Outcome.next (State.coldPins_strap fault)), rfl, rfl, rfl⟩
  · exact ⟨_, ran.trans (congrArg Host.Outcome.next (State.coldPins_rail straps fault)), rfl, rfl, rfl⟩
  · have fused : culvertFences (s.coldStart b.slotId).repair.fused = [] := by
      obtain ⟨-, -, -, -, same, -⟩ := s.coldStart_spec b.slotId
      rw [same]
      exact fences
    rw [State.coldPins_on straps rails image culverts fused] at ran
    have trained := s.coldTrained b image
    generalize ((s.coldStart b.slotId).rom b.entropy b.flashError).coldBegun.coldTrain b.training = u at ran trained
    refine ⟨fun dry => ⟨_, ran, trained.held dry⟩, fun wet base cold => ?_, fun wet base warm steppings => ?_⟩
    · rw [State.coldOn_delayed wet base cold] at ran
      exact ⟨_, ran, trained.running, trained.open_, rfl, fun h small => congrArg Prod.fst (trained.powered h small 0 (by decide) 0 (by decide))⟩
    · obtain ⟨t, ends, done, failed, cold, running, halves, dies, lit, ucm, edge, intlv, basins, polders, cap, peak, current, id, fuses, burns⟩ :=
        trained.ends b
      have stepsOk : (u.trainedNoted.coldTested b).steppingFault = false := by
        have tested := u.trainedNoted.coldTested_sansPowered b.defects b.training
        have same : (u.trainedNoted.coldTested b).fuses = u.fuses := (congrArg State.fuses tested :)
        rw [State.steppingFault_of_fuses (same.trans trained.fuses), s.interrupted_stepping, steppings]
      rw [trained.goes_on wet base warm stepsOk, ends] at ran
      exact ⟨t, ran, done, failed, cold, running, halves, dies, lit, ucm, edge, intlv, basins, polders, cap, peak, current, id,
        fun calm => fuses.trans (s.interrupted_fuses calm), burns⟩
  · exact ⟨_, if_pos (by simp [off, free]), rfl, rfl⟩
end
